-- ==== Sys2Proof/Word.lean ====
section
/-!
DEFINITION. The words of the package (00_scope.md, R7): a byte, the 32-bit register and the 64-bit plan word.
-/
namespace Sys2Proof

/-- A byte of any memory of the package. -/
abbrev Byte := BitVec 8

/-- A control register, 32 bits wide ("Registers" of 00_scope.md). -/
abbrev Word := BitVec 32

/-- A string of bytes in address order. -/
abbrev Bytes := List Byte

end Sys2Proof
end

