-- ==== Sys2Proof/Syntax.lean ====
section
/-!
DEFINITION. The commands of the package: one constructor per row of spec/opcode_table.json, in its order.

Operands name the unit a command is about (`die` 0-3, `by_` the die of the steward that acts, `cell` 0-47, `core` a physical core of
a cell, `eng`, `unit`, `stack`, `inst`, `lane`, `port`, `qp`, `knuckle`), the value of a register write, and what the package cannot know: the
bytes that arrive, what a training or a measurement finds, whether a fuse or a flash takes. `ups` are upsets of stored data: addresses of protected
units and the bits that flip there. `place` is a place in the list of what is on its way; `slice` an error of a hub slice.
-/
namespace Sys2Proof

/-- A row of a pseudo-channel: pseudo-channel of the stack (0–63), bank (SID × 16 + bank), physical row. -/
structure RowId where
  pc : Nat
  bank : Nat
  row : Nat
deriving DecidableEq, Repr

/-- What a training finds (R202, R203): the stack's identity, its failing data and check lanes as (pseudo-channel, lane),
the smallest margins by pseudo-channel as (WMIN, WLANE, RMIN, RLANE), and a clock or command lane beyond repair. -/
structure TrainRes where
  height : Nat
  dens : Nat
  nsidm1 : Nat
  nrep : Nat
  repairs : Nat
  lanes : List (Nat × Nat)
  margs : List (Nat × Nat × Nat × Nat × Nat)
  dead : Bool
deriving DecidableEq, Repr

/-- What the environment gives a training step at one end: modules that pass, margins by module (WMIN, WIRE), and for the
width check whether every copy of the far word arrived unharmed. -/
structure KnkRes where
  good : Nat
  margs : List (Nat × Nat)
  copies : Bool
deriving DecidableEq, Repr

/-- What the environment gives a bring-up step: whether it succeeded, the descriptor read, the errors counted. -/
structure SiteRes where
  ok : Bool
  desc : Bytes
  errs : Nat
deriving DecidableEq, Repr

/-- What the environment gives the end of a lane state: FOM and settings found, and that this end has sent READY in 64
consecutive TRAIN blocks. -/
structure LaneRes where
  fom : Nat
  ctle : Nat
  dfe1 : Nat
  txeq : Nat
  sent : Bool
deriving DecidableEq, Repr

/-- What a sample finds: delays of the monitors, junction temperature, efficiencies of the rails; HBM margins refreshed
(stack, pseudo-channel, value of HBM_LMARG) and knuckle margins (instance, module, width, wire). -/
structure AgeRes where
  delays : List Nat
  tj : Nat
  effs : List Nat
  hbm : List (Nat × Nat × Nat)
  knk : List (Nat × Nat × Nat × Nat)
deriving DecidableEq, Repr

/-- The commands. -/
inductive Instr where
  /-- REGISTER_WRITE (R10): A steward write to a control register that has no row of its own takes effect under its access
  code, with reserved encodings keeping their previous value. -/
  | registerWrite (by_ : Nat) (die : Nat) (off : Nat) (value : Nat)
  /-- REG64_LO_READ (R12): A read of a _LO register captures the whole 64-bit value for the next _HI read by the same
  steward. -/
  | reg64LoRead (by_ : Nat) (die : Nat) (off : Nat)
  /-- REG64_LO_WRITE (R12): A write to a _LO register is held until the matching _HI is written. -/
  | reg64LoWrite (by_ : Nat) (die : Nat) (off : Nat) (value : Nat)
  /-- REG64_HI_WRITE (R12): A write to a _HI register makes both halves take effect in one hub cycle, or takes effect alone
  with the lower half unchanged. -/
  | reg64HiWrite (by_ : Nat) (die : Nat) (off : Nat) (value : Nat)
  /-- CONTROL_ADDRESS_MISS (R24): A steward control access that misses every block reads 0 or has no effect, and logs a
  control-address fault. -/
  | controlAddressMiss (by_ : Nat) (die : Nat) (off : Nat) (write : Bool)
  /-- CELL_PARK (R37): Setting a PARK bit stops the cell's clocks; its running cores stop issuing, withdraw their slots and
  enter IDLE. -/
  | cellPark (cell : Nat)
  /-- CELL_UNPARK (R168): Clearing a PARK bit restarts the cell; its cores load a copy of the partition's tumbler ranges. -/
  | cellUnpark (cell : Nat)
  /-- CELL_RESET (R37): Writing a CRST bit requests a reset of the cell; its cores enter HELD at once. -/
  | cellReset (cell : Nat)
  /-- CELL_RESET_COMPLETE (R37): The cell reset completes within 256 hub cycles; CRST clears and any held PARK takes effect. -/
  | cellResetComplete (cell : Nat)
  /-- MAP_DATA_WRITE (R38): A write to CMP_MAP_DATA maps a logical core to a physical core, or is refused and sets MAPERR. -/
  | mapDataWrite (die : Nat) (cdie : Nat) (value : Nat)
  /-- DEADBOLT_SET (R38): A write of 1 to CMP_PCTL.DEADBOLT fences a physical core in the cell network, or is refused with
  DBERR while it is mapped. -/
  | deadboltSet (die : Nat) (cdie : Nat)
  /-- DB_CLEAR (R37): A write of 1 to CMP_PCTL.DB_CLEAR clears the deadbolt and CMP_PDROP unless the core is mapped. -/
  | dbClear (die : Nat) (cdie : Nat)
  /-- CELL_TEST_MODE_WRITE (R444): A write to CMP_LDCTL.TEST puts a parked cell into or out of test mode, or is refused with
  DBERR. -/
  | cellTestModeWrite (cell : Nat) (test : Bool)
  /-- LOADER_ENTER (R444): A write to CMP_LDCTL.LOAD places the loadable cores of the named cells in LOADER with an all-ones
  missing-chunk bitmap. -/
  | loaderEnter (die : Nat) (cdie : Nat) (mask : Nat)
  /-- PLAN_FETCH (R81): The fetch unit reads a 32-byte group of plan words below PLIMIT, correcting or marking ECC errors. -/
  | planFetch (cell : Nat) (core : Nat) (ups : List (Nat × Nat))
  /-- NOP (R67): The plan word NOP issues and does nothing. -/
  | nop (cell : Nat) (core : Nat)
  /-- END (R75): The plan word END blocks as WSYNC on every armed slot, then waits for every earlier operation to drain. -/
  | endWord (cell : Nat) (core : Nat)
  /-- CORE_DONE (R75): Once END's drain completes, the core enters DONE. -/
  | coreDone (cell : Nat) (core : Nat)
  /-- LOOP (R71): The plan word LOOP checks depth and nesting, fixes its trip count and begins or skips its body. -/
  | loopWord (cell : Nat) (core : Nat)
  /-- LOOP_BACK_EDGE (R71): After the last word of a loop body, the index advances and control returns to the start of the
  body or the loop exits. -/
  | loopBackEdge (cell : Nat) (core : Nat)
  /-- SEED (R75): The plan word SEED starts loading the four stochastic-rounding streams from the scratchpad. -/
  | seedWord (cell : Nat) (core : Nat) (ups : List (Nat × Nat))
  /-- SEED_COMPLETE (R75): After 4 compute cycles the new streams are in force for later conversions. -/
  | seedComplete (cell : Nat) (core : Nat)
  /-- FLAGS (R75): The plan word FLAGS reads the arithmetic flags into a count register and clears the selected ones. -/
  | flags (cell : Nat) (core : Nat)
  /-- DCAP (R75): The plan word DCAP sets the core's density cap. -/
  | dcap (cell : Nat) (core : Nat)
  /-- LUTLD (R59): The plan word LUTLD starts loading the 3,080-byte lookup table from the scratchpad. -/
  | lutld (cell : Nat) (core : Nat) (ups : List (Nat × Nat))
  /-- LUTLD_COMPLETE (R59): After 49 compute cycles the new table is in force for later lookup operations. -/
  | lutldComplete (cell : Nat) (core : Nat)
  /-- CSET (R69): The plan word CSET sets a count register to an immediate. -/
  | cset (cell : Nat) (core : Nat)
  /-- CALC (R69): The plan word CALC adds a signed immediate to a count register, shifts the sum and clamps it. -/
  | calc (cell : Nat) (core : Nat)
  /-- CMIN (R69): The plan word CMIN sets a count register to the minimum of a count register and an immediate. -/
  | cmin (cell : Nat) (core : Nat)
  /-- CLOAD (R69): The plan word CLOAD loads a count register from a 32-bit scratchpad word. -/
  | cload (cell : Nat) (core : Nat) (ups : List (Nat × Nat))
  /-- CSTORE (R69): The plan word CSTORE stores a count register to the scratchpad by read-modify-write of its 8-byte word. -/
  | cstore (cell : Nat) (core : Nat) (ups : List (Nat × Nat))
  /-- ASET (R70): The plan word ASET sets an address register and its increment. -/
  | aset (cell : Nat) (core : Nat)
  /-- AADD (R70): The plan word AADD adds a signed immediate to an address register. -/
  | aadd (cell : Nat) (core : Nat)
  /-- MTA (R72): The plan word MTA latches the A operand's arrays and format and applies its post-increments. -/
  | mta (cell : Nat) (core : Nat)
  /-- MTB (R72): The plan word MTB latches the B operand's arrays, bitmap, format and sparseness. -/
  | mtb (cell : Nat) (core : Nat)
  /-- MMA (R72): The plan word MMA queues a matrix operation into an accumulator; the queued operation is checked against
  the density cap. -/
  | mma (cell : Nat) (core : Nat) (ups : List (Nat × Nat))
  /-- MMA_COMPLETE (R51): A matrix operation ends; its results become readable 10 compute cycles after its last cycle. -/
  | mmaComplete (cell : Nat) (core : Nat) (ups : List (Nat × Nat))
  /-- VLD (R73): The plan word VLD loads one 64-byte line into a vector register. -/
  | vld (cell : Nat) (core : Nat) (ups : List (Nat × Nat))
  /-- VST (R73): The plan word VST stores a vector register as one line, trapping on the closed plan region. -/
  | vst (cell : Nat) (core : Nat)
  /-- VACC (R73): The plan word VACC reads an accumulator row into a vector register, after earlier operations into it
  complete. -/
  | vacc (cell : Nat) (core : Nat)
  /-- VOP (R73): The plan word VOP performs the vector arithmetic, horizontal, fixed or lookup-table function selected by
  FN. -/
  | vop (cell : Nat) (core : Nat)
  /-- VCVT (R74): The plan word VCVT converts 32 (or 16 for BF16) values into a block of the target format and writes it. -/
  | vcvt (cell : Nat) (core : Nat) (ups : List (Nat × Nat))
  /-- TWAIT (R77): The plan word TWAIT arms a wait slot at the tumbler's home and optionally blocks until it is met. -/
  | twait (cell : Nat) (core : Nat)
  /-- WSYNC (R77): The plan word WSYNC blocks until every slot in its mask is met and frees them. -/
  | wsync (cell : Nat) (core : Nat)
  /-- TADD (R76): The plan word TADD sends an add to a tumbler without release or reply. -/
  | tadd (cell : Nat) (core : Nat)
  /-- TSET (R76): The plan word TSET sends a set to a tumbler without release or reply. -/
  | tset (cell : Nat) (core : Nat)
  /-- TRADD (R78): The plan word TRADD stalls issue until every earlier scratchpad access of the core has completed. -/
  | tradd (cell : Nat) (core : Nat)
  /-- TRADD_RELEASE (R78): When the core's earlier accesses have completed, TRADD sends its release-add. -/
  | traddRelease (cell : Nat) (core : Nat)
  /-- TCADD (R79): The plan word TCADD sends a compare-add at the B0 level, with its reply returning to a count register. -/
  | tcadd (cell : Nat) (core : Nat)
  /-- CORE_WAIT_TIMEOUT (R77): A blocking core word stays blocked beyond CMP_WTMO and traps with WAIT_TIMEOUT. -/
  | coreWaitTimeout (cell : Nat) (core : Nat)
  /-- CELL_START (R84): A write of 1 to CMP_PRUN.START clears and starts every IDLE or DONE core of the cell, or sets PERR. -/
  | cellStart (cell : Nat)
  /-- CELL_ABORT (R84): A write of 1 to CMP_PRUN.ABORT stops the cell's running, waiting or trapped cores and returns them
  to IDLE. -/
  | cellAbort (cell : Nat)
  /-- LIST_FETCH (R93): A tile engine fetches a move-list entry from its list region in the shared buffer, checking
  ownership and ECC. -/
  | listFetch (die : Nat) (eng : Nat) (ups : List (Nat × Nat))
  /-- NOP_ENTRY (R95): A move-list NOP entry honours WEN and AEN and moves nothing. -/
  | nopEntry (die : Nat) (eng : Nat)
  /-- COPY (R95): A move-list COPY entry is checked and begins issuing the transactions of its shape, gather or unfold. -/
  | copy (die : Nat) (eng : Nat)
  /-- REDUCE (R100): A move-list REDUCE entry is checked and begins issuing lane-wise combines into the destination at its
  home. -/
  | reduce (die : Nat) (eng : Nat)
  /-- TADD_ENTRY (R95): A move-list TADD entry release-adds AVAL to the tumbler its DST names, in any package. -/
  | taddEntry (die : Nat) (eng : Nat)
  /-- END_ENTRY (R95): A move-list END entry honours WEN and AEN and waits for every transaction and add to be acknowledged. -/
  | endEntry (die : Nat) (eng : Nat)
  /-- TRANSACTION_ISSUE (R104): A tile engine issues a transaction when its window has room, after key-ring translation. -/
  | transactionIssue (die : Nat) (eng : Nat)
  /-- TRANSACTION_RESPONSE (R102): A DATA, DONE or FAIL response returns to its engine and completes or fails the
  transaction. -/
  | transactionResponse (place : Nat) (slice : Option (Nat × Nat))
  /-- ENGINE_RELEASE_ADD (R102): An entry's add is sent once its transactions and those of earlier entries have completed
  and earlier adds are sent. -/
  | engineReleaseAdd (die : Nat) (eng : Nat)
  /-- ENGINE_DONE (R95): Once END's conditions hold, the engine enters DONE. -/
  | engineDone (die : Nat) (eng : Nat)
  /-- ENGINE_WAIT_TIMEOUT (R101): An engine wait unmet beyond TEN_WTMO is withdrawn and the engine halts with WAIT_TIMEOUT. -/
  | engineWaitTimeout (die : Nat) (eng : Nat)
  /-- ENGINE_START (R112): A write of 1 to TEN_CTL.START in IDLE or DONE clears the failure and starts the engine at
  TEN_LBASE. -/
  | engineStart (die : Nat) (eng : Nat)
  /-- ENGINE_ABORT (R112): A write of 1 to TEN_CTL.ABORT in RUN, WAIT or a halt moves the engine to DRAIN. -/
  | engineAbort (die : Nat) (eng : Nat)
  /-- ENGINE_RESUME (R111): A write of 1 to TEN_CTL.RESUME in HALT_R reissues the failed transactions and continues. -/
  | engineResume (die : Nat) (eng : Nat)
  /-- ENGINE_DRAIN_COMPLETE (R112): When the outstanding transactions of a draining engine end, it enters IDLE. -/
  | engineDrainComplete (die : Nat) (eng : Nat)
  /-- HOME_REQUEST (R184): A request reaches its home (scratchpad, shared-buffer bank, HBM controller or space 2) and is
  checked and queued or performed. -/
  | homeRequest (place : Nat) (ups : List (Nat × Nat)) (slice : Option (Nat × Nat))
  /-- MERGE_ENTRY_AGE_OUT (R222): A merge-buffer entry reaching 64 hub cycles of age is applied by read-modify-write. -/
  | mergeEntryAgeOut (die : Nat) (bank : Nat) (ups : List (Nat × Nat))
  /-- MERGE_WORD_WRITE (R222): A merge-buffer entry with both halves valid is written whole at the bank's next free cycle. -/
  | mergeWordWrite (die : Nat) (bank : Nat)
  /-- UNFOLD_CONTEXT_GRANT (R137): An unfold engine grants a free context to the oldest waiting row, which then begins its
  input transactions. -/
  | unfoldContextGrant (die : Nat) (unit : Nat)
  /-- UNFOLD_INPUT_PARSE (R140): A context parses its input lines in address order, checking each segment and halting the
  feeding engine on a failed check. -/
  | unfoldInputParse (die : Nat) (unit : Nat) (ctx : Nat)
  /-- UNFOLD_OUTPUT_WALK (R139): The output walk expands one segment of a context into element, bitmap and scale lines. -/
  | unfoldOutputWalk (die : Nat) (unit : Nat)
  /-- UNFOLD_ROW_COMPLETE (R138): When every input line is parsed and every output line acknowledged, the row completes and
  its context is freed. -/
  | unfoldRowComplete (die : Nat) (unit : Nat) (ctx : Nat)
  /-- DSP_STEP_FETCH (R146): The dispatch unit fetches the next 128-byte step descriptor from its list. -/
  | dspStepFetch (die : Nat) (ups : List (Nat × Nat))
  /-- STEP_NOP (R147): A dispatch NOP step honours WEN and AEN and does nothing else. -/
  | stepNop (die : Nat)
  /-- GATE (R151): A GATE step selects top-K experts, assigns slots, writes slot lists, counts and combine table and spills
  overflow. -/
  | gate (die : Nat) (ups : List (Nat × Nat))
  /-- REPACK (R156): A REPACK step serves an overflow area's records into slots of a later pass. -/
  | repack (die : Nat) (ups : List (Nat × Nat))
  /-- COMBINE (R157): A COMBINE step forms each token's output row from its served choices' weighted rows. -/
  | combine (die : Nat) (ups : List (Nat × Nat))
  /-- STEP_END (R147): A dispatch END step honours WEN and AEN and moves the unit to DONE. -/
  | stepEnd (die : Nat)
  /-- DSP_RELEASE_ADD (R147): A step's add is sent once every write of the step is acknowledged and earlier adds are sent. -/
  | dspReleaseAdd (die : Nat)
  /-- DSP_WAIT_TIMEOUT (R147): A dispatch wait unmet beyond DSP_WTMO halts the unit with WAIT_TIMEOUT. -/
  | dspWaitTimeout (die : Nat)
  /-- DSP_START (R162): A write of 1 to DSP_CTL.START in IDLE or DONE clears FLTV and begins at DSP_LBASE. -/
  | dspStart (die : Nat)
  /-- DSP_ABORT (R162): A write of 1 to DSP_CTL.ABORT withdraws the wait and lets issued writes complete. -/
  | dspAbort (die : Nat)
  /-- DSP_DRAIN_COMPLETE (R162): When an aborted unit's issued writes complete, it enters IDLE. -/
  | dspDrainComplete (die : Nat)
  /-- ADD (R170): An ADD control message at the home adds VAL to the tumbler and evaluates armed waits. -/
  | add (place : Nat) (noise : Bytes)
  /-- SET (R170): A SET control message at the home sets the tumbler and evaluates armed waits. -/
  | setMsg (place : Nat) (noise : Bytes)
  /-- RADD (R170): A RADD control message at the home adds VAL, evaluates waits and acknowledges engine, dispatch or remote
  issuers. -/
  | radd (place : Nat) (noise : Bytes)
  /-- ARM (R171): An ARM control message arms a wait-greater-or-equal at the home, waking the waiter at once if already met. -/
  | arm (place : Nat) (noise : Bytes)
  /-- WITHDRAW (R170): A WITHDRAW control message removes the issuer's armed wait in a slot. -/
  | withdraw (place : Nat) (noise : Bytes)
  /-- CADD (R170): A CADD control message adds IMM if the tumbler equals VAL and always replies CVAL. -/
  | cadd (place : Nat) (noise : Bytes)
  /-- ACK (R170): An ACK message reaching its issuer completes its RADD or remote operation. -/
  | ack (place : Nat) (noise : Bytes)
  /-- WAKE (R171): A WAKE message reaching its waiter marks the slot met unless its generation is stale. -/
  | wake (place : Nat) (noise : Bytes)
  /-- CVAL (R170): A CVAL message reaching its core writes the prior tumbler value into the count register. -/
  | cval (place : Nat) (noise : Bytes)
  /-- EVENT (R170): An EVENT message reaching the steward reports a trap or other event, and the steward posts its fault
  record. -/
  | event (place : Nat) (noise : Bytes)
  /-- BCAST (R179): A BCAST message reaching a named cell acts as a START or ABORT of its CMP_PRUN. -/
  | bcast (place : Nat) (noise : Bytes)
  /-- TMB_VALUE_WRITE (R182): A steward write to TMB_VALUE executes SET on the selected tumbler. -/
  | tmbValueWrite (die : Nat) (value : Nat)
  /-- TMB_ADD_WRITE (R182): A steward write to TMB_ADD executes ADD on the selected tumbler. -/
  | tmbAddWrite (die : Nat) (value : Nat)
  /-- TMB_RANGE_WRITE (R169): A write to TMB_RANGE sets a partition's range or is refused for overlap or a reserved
  encoding. -/
  | tmbRangeWrite (die : Nat) (home : Nat) (part : Nat) (value : Nat)
  /-- BROADCAST_START (R179): A write of CMD 1 to TMB_BCCMD broadcasts START to the cells of the mask. -/
  | broadcastStart (die : Nat)
  /-- BROADCAST_ABORT (R179): A write of CMD 2 to TMB_BCCMD broadcasts ABORT to the cells of the mask. -/
  | broadcastAbort (die : Nat)
  /-- STEWARD_WAIT_ARM (R180): A write of 1 to TMB_SWCTL.ARM withdraws any armed steward wait, clears MET and arms a new
  one. -/
  | stewardWaitArm (die : Nat)
  /-- STEWARD_WAIT_WITHDRAW (R180): A write of 1 to TMB_SWCTL.WITHDRAW removes the steward's wait. -/
  | stewardWaitWithdraw (die : Nat)
  /-- STEWARD_MEMORY_ACCESS (R187): A steward load or store to spaces 0-3 is performed as device I/O at its home. -/
  | stewardMemoryAccess (die : Nat) (gpa : Nat) (len : Nat) (write : Bool) (data : Bytes) (answer : Bytes) (ups : List (Nat × Nat)) (again : List (Nat × Nat))
  /-- STEWARD_FENCE (R187): A steward FENCE completes when earlier steward stores are performed, holding later loads. -/
  | stewardFence (die : Nat)
  /-- HBM_REQUEST_ADMIT (R207): A group admits a bucket's head request to its pseudo-channel queue, debiting tokens or
  borrowing. -/
  | hbmRequestAdmit (die : Nat) (grp : Nat) (bkt : Nat) (cycles : Nat)
  /-- HBM_READ_SERVE (R198): The scheduler serves a queued read burst, decoding it under the line or narrow code. -/
  | hbmReadServe (die : Nat) (chan : Nat) (place : Nat) (ups : List (Nat × Nat)) (again : List (Nat × Nat))
  /-- HBM_WRITE_BATCH_DRAIN (R198): When the write queue holds WBATCH bursts, it drains that many before reads resume. -/
  | hbmWriteBatchDrain (die : Nat) (chan : Nat)
  /-- ROW_CLOSE_TIMEOUT (R198): An open row idle for OPENTMO hub cycles is closed. -/
  | rowCloseTimeout (die : Nat) (pc : Nat) (bank : Nat)
  /-- HBM_REFRESH (R200): A per-bank refresh slot falls due at the interval of the band in force, which changes at the slot. -/
  | hbmRefresh (die : Nat) (stack : Nat)
  /-- HBM_TEMP_SAMPLE (R201): A stack temperature sample updates the measured band and may set HOT or BANDX with a thermal
  record. -/
  | hbmTempSample (die : Nat) (stack : Nat) (temp : Nat)
  /-- HBM_TRAIN (R202): HBM_CTL CMD TRAIN starts a cold training of the stack. -/
  | hbmTrain (die : Nat) (stack : Nat)
  /-- HBM_SELFREF_ENTER (R210): HBM_CTL CMD 2 drains the write queues and puts the stack in self-refresh. -/
  | hbmSelfrefEnter (die : Nat) (stack : Nat)
  /-- HBM_SELFREF_EXIT (R202): HBM_CTL CMD 3 exits self-refresh and retrains the eyes. -/
  | hbmSelfrefExit (die : Nat) (stack : Nat)
  /-- HBM_HOLD_DOWN (R210): HBM_CTL CMD 4 holds the stack down. -/
  | hbmHoldDown (die : Nat) (stack : Nat)
  /-- HBM_TRAINING_COMPLETE (R202): A stack training ends, assigning repair lanes and erasures and entering READY or DOWN. -/
  | hbmTrainingComplete (die : Nat) (stack : Nat) (res : TrainRes)
  /-- HBM_RRATE_WRITE (R208): A write to HBM_RRATE sets a bucket's settings from the next hub cycle, or is refused with
  RATEERR. -/
  | hbmRrateWrite (die : Nat) (stack : Nat) (value : Nat)
  /-- MINBAND_WRITE (R208): A write to HBM_REFCTL.MINBAND sets the minimum band, or is refused with RATEERR. -/
  | minbandWrite (die : Nat) (stack : Nat) (band : Nat)
  /-- HBM_TMAXCLR (R210): A write of 1 to HBM_TEMP.TMAXCLR sets TMAX to TEMP. -/
  | hbmTmaxclr (die : Nat) (stack : Nat)
  /-- BLANK_CUT (R232): A controller locks a failing row and begins copying it to a free blank. -/
  | blankCut (die : Nat) (stack : Nat)
  /-- BLANK_CUT_COMPLETE (R232): The cut ends: the blank entry is IN_USE, the row is unlocked and a memory record is posted. -/
  | blankCutComplete (die : Nat) (stack : Nat)
  /-- REGION_TO_NARROW (R218): A write of 1 to HBM_NCCTL.TONARROW starts rewriting a region with zeros in the narrow code. -/
  | regionToNarrow (die : Nat) (stack : Nat)
  /-- REGION_TO_WIDE (R218): A write of 1 to HBM_NCCTL.TOWIDE starts rewriting a region with zeros in the wide code. -/
  | regionToWide (die : Nat) (stack : Nat)
  /-- REGION_CONVERSION_COMPLETE (R218): A region conversion ends: the map bit changes and BUSY clears. -/
  | regionConversionComplete (die : Nat)
  /-- SCRUB_READ (R228): A scrubber reads the next unit in an idle cycle at least SPACE cycles after the last. -/
  | scrubRead (mem : Nat) (die : Nat) (unit : Nat) (ups : List (Nat × Nat)) (again : List (Nat × Nat))
  /-- SCRUB_WRITEBACK (R228): A corrected SRAM word is written back in the bank's next idle cycle unless written since. -/
  | scrubWriteback (place : Nat)
  /-- CHECKER_SELF_TEST (R230): A write of 1 to RUN in HBM_STEST, SBF_STEST or CMP_STEST starts the encoder and decoder
  self-test. -/
  | checkerSelfTest (mem : Nat) (die : Nat) (inst : Nat)
  /-- CHECKER_SELF_TEST_DONE (R230): After about 1 ms DONE is set, FAIL and PATTERN report failures, and failed units are
  held down or marked. -/
  | checkerSelfTestDone (mem : Nat) (die : Nat) (inst : Nat) (pattern : Nat) (bad : List (Nat × Nat))
  /-- SBF_ZFILL (R239): A write of 1 to SBF_ZFILL.GO starts writing zeros to a whole MiB. -/
  | sbfZfill (die : Nat) (mib : Nat)
  /-- SBF_ZFILL_DONE (R239): The zero fill of the MiB ends and BUSY clears. -/
  | sbfZfillDone (die : Nat)
  /-- INSERT (R256): KRG_ECMD INSERT adds the staged entry or refuses it. -/
  | insert (die : Nat)
  /-- MODIFY (R256): KRG_ECMD MODIFY adds rights to the matching entry or refuses. -/
  | modify (die : Nat)
  /-- READ (R256): KRG_ECMD READ copies the matching entry into KRG_EW0 and KRG_EW1. -/
  | readEntry (die : Nat)
  /-- REMOVE_UNUSED (R256): KRG_ECMD REMOVE_UNUSED removes the matching entry if it has not been used. -/
  | removeUnused (die : Nat)
  /-- KRG_COMMAND_DONE (R256): A key-ring command completes within 8 hub cycles with its result, and BUSY clears. -/
  | krgCommandDone (die : Nat)
  /-- QUOTA_WRITE (R244): A write to KRG_QUOTA takes effect at once for later INSERTs of the identity. -/
  | quotaWrite (die : Nat) (value : Nat)
  /-- HOST_WINDOW_WRITE (R252): A write to a host-window descriptor takes effect only while EN is 0 or when it clears EN. -/
  | hostWindowWrite (die : Nat) (word : Nat) (value : Nat)
  /-- REKEY_CUT (R260): A write of GO to KRG_RKCTL invalidates the identity's entries in range, clears latches and marks
  transactions old. -/
  | rekeyCut (die : Nat) (all : Bool)
  /-- REKEY_DRAIN_END (R261): The drain ends when no old transaction remains outstanding; BUSY clears and KRG_RKTIME is
  recorded. -/
  | rekeyDrainEnd (die : Nat) (ident : Nat)
  /-- REKEY_TIMEOUT (R262): At 100 ms after the cut, engines holding old transactions halt with REKEY_TIMEOUT and the
  transactions are discarded. -/
  | rekeyTimeout (die : Nat) (ident : Nat)
  /-- HUB_DEADBOLT_SET (R271): A write of 1 to HUB_DB.DEADBOLT fences a core at the hub, or is refused with DBERR. -/
  | hubDeadboltSet (die : Nat)
  /-- HUB_DB_CLEAR (R292): A write of 1 to HUB_DB.DB_CLEAR clears the hub deadbolt and HUB_DBDROP. -/
  | hubDbClear (die : Nat)
  /-- PORT_FENCE_WRITE (R272): A write to HUB_PFENCE fences or unfences hub ports. -/
  | portFenceWrite (die : Nat) (mask : Nat)
  /-- KMAP_EN_WRITE (R275): A write to HUB_KMAP.EN admits trained knuckles to routing. -/
  | kmapEnWrite (die : Nat) (en : Nat)
  /-- MAP_UPDATE (R274): A map update message makes a die clear a knuckle from routing, fail affected transactions with PATH
  and reroute others. -/
  | mapUpdate (die : Nat) (knuckle : Nat) (pkts : List Nat) (msgs : List Nat)
  /-- KNUCKLE_RECOVER (R281): KNK_CTL CMD RECOVER retrains the clock and eyes of the active modules and rechecks the width. -/
  | knuckleRecover (die : Nat) (inst : Nat)
  /-- KNUCKLE_FULL (R281): KNK_CTL CMD FULL runs the full knuckle training. -/
  | knuckleFull (die : Nat) (inst : Nat)
  /-- KNUCKLE_HOLD (R284): KNK_CTL CMD HOLD takes the knuckle out of service and leaves it DOWN. -/
  | knuckleHold (die : Nat) (inst : Nat)
  /-- KNUCKLE_TRAINING_STEP_END (R281): A knuckle training phase ends over the sideband, fixing masks and moving to the
  width check or qualification. -/
  | knuckleTrainingStepEnd (knuckle : Nat) (near : KnkRes) (far : KnkRes)
  /-- KNUCKLE_QUAL_END (R281): Qualification ends after QTIME; the knuckle enters UP or retries or is held DOWN. -/
  | knuckleQualEnd (knuckle : Nat) (nearErrs : Nat) (farErrs : Nat)
  /-- KNUCKLE_FLIT_RECEIVE (R289): A knuckle flit is received, checked by CRC, accepted in order or answered with NAK, and
  its slots delivered. -/
  | knuckleFlitReceive (die : Nat) (inst : Nat) (flit : Bytes)
  /-- KNUCKLE_NAK_REPEAT (R289): A NAK is repeated when the expected flit has not arrived within 1 µs. -/
  | knuckleNakRepeat (die : Nat) (inst : Nat)
  /-- KNUCKLE_SIGNAL_LOSS (R290): A stopped forwarded clock or valid wire for 1 µs, or a sideband silent for 1 ms, takes the
  knuckle out of service. -/
  | knuckleSignalLoss (die : Nat) (inst : Nat)
  /-- SITE_TRAIN (R300): AUX_CTL CMD TRAIN brings the auxiliary site up through sideband, descriptor checks, training and
  qualification. -/
  | siteTrain (die : Nat)
  /-- SITE_HOLD (R300): AUX_CTL CMD HOLD holds the site DOWN with cause HOST. -/
  | siteHold (die : Nat)
  /-- SITE_BRINGUP_STEP_END (R300): A site bring-up phase ends, advancing to training, qualification and UP or entering DOWN
  with a cause. -/
  | siteBringupStepEnd (die : Nat) (res : SiteRes)
  /-- SITE_FLIT_RECEIVE (R295): A 264-byte site flit is received, checked and delivered, with replay as on a knuckle. -/
  | siteFlitReceive (die : Nat) (flit : Bytes)
  /-- SITE_REQUEST (R298): A request from the site die is translated under its identity and issued into the package. -/
  | siteRequest (die : Nat)
  /-- SITE_TUMBLER_WRITE (R299): A one-line site write to space 2 becomes a release-add once earlier site writes are
  acknowledged. -/
  | siteTumblerWrite (die : Nat)
  /-- SITE_REQUEST_TIMEOUT (R297): A window request unanswered for 4 × RLAT is answered FAIL with PATH and the site enters
  RECOVER. -/
  | siteRequestTimeout (die : Nat)
  /-- SITE_SIDEBAND_LOSS (R300): The site sideband silent for 1 ms in service takes the site DOWN with NO_SIDEBAND. -/
  | siteSidebandLoss (die : Nat)
  /-- LANE_TRAIN (R312): SER_LCTL CMD TRAIN runs the lane sequence from CAL. -/
  | laneTrain (die : Nat) (lane : Nat)
  /-- LANE_HOLD (R314): SER_LCTL CMD HOLD moves the lane to DOWN and squelches its transmitter. -/
  | laneHold (die : Nat) (lane : Nat)
  /-- LANE_SLEEP (R320): SER_LCTL CMD SLEEP sends SLEEP codewords and powers the lane down to its signal detector. -/
  | laneSleep (die : Nat) (lane : Nat)
  /-- LANE_WAKE (R321): SER_LCTL CMD WAKE starts the deep-sleep exit. -/
  | laneWake (die : Nat) (lane : Nat)
  /-- LANE_TEST (R322): SER_LCTL CMD TEST enters TEST with the loop and PRBS selected. -/
  | laneTest (die : Nat) (lane : Nat) (loop : Nat) (prbs : Nat)
  /-- LANE_STATE_END (R312): A lane training state ends (CAL, ADAPT, ALIGN, TRAIN), advancing the lane toward UP and running
  any pending command. -/
  | laneStateEnd (die : Nat) (lane : Nat) (res : LaneRes)
  /-- LANE_TRAIN_TIMEOUT (R312): ADAPT or TRAIN not finished within 10 ms repeats the sequence once or enters DOWN with
  TRAINERR. -/
  | laneTrainTimeout (die : Nat) (lane : Nat)
  /-- CODEWORD_RECEIVE (R310): A codeword is decoded and its blocks delivered through the elastic buffer, with control
  blocks acted on. -/
  | codewordReceive (die : Nat) (lane : Nat) (syms : List Nat) (takes : List Nat)
  /-- ALIGN_LOCK (R309): The hunter locks after 64 consecutive valid headers, or on a wake codeword. -/
  | alignLock (die : Nat) (lane : Nat) (hdrs : List Nat)
  /-- ALIGN_RELOCK_TIMEOUT (R310): A lane not relocked within 1 ms reruns the sequence from ADAPT. -/
  | alignRelockTimeout (die : Nat) (lane : Nat)
  /-- PPM_MEASURE (R307): SER_PPM is updated from a 10 µs measurement of the far end's frequency. -/
  | ppmMeasure (die : Nat) (lane : Nat) (offs : Nat)
  /-- LOOP_TIMING_REQUEST (R308): A lane with LOOPOK whose PPM stays above 400 ppm for 100 µs requests loop timing through a
  short TRAIN. -/
  | loopTimingRequest (die : Nat) (lane : Nat)
  /-- FOM_REFRESH (R315): The eye monitor refreshes FOM, setting LOWFOM after 10 ms below FOMMIN. -/
  | fomRefresh (die : Nat) (lane : Nat) (eyes : List (Nat × Nat))
  /-- ADAPT_STEP (R315): In UP, the receiver settings move by at most one step per 1 ms when a step raises FOM. -/
  | adaptStep (die : Nat) (lane : Nat) (ctle : Nat) (dfe1 : Nat) (fom : Nat)
  /-- DOZE_ENTER (R316): A transmitter whose doze conditions hold sends a DOZE codeword and squelches. -/
  | dozeEnter (die : Nat) (lane : Nat)
  /-- DOZE_EXIT (R317): When the doze request ends, the transmitter powers up and sends the clock pattern and wake
  codewords. -/
  | dozeExit (die : Nat) (lane : Nat)
  /-- DOZE_REFRESH_WAKE (R317): A transmitter dozing for 100 ms wakes for 4,096 IDLE codewords to refresh the far receiver. -/
  | dozeRefreshWake (die : Nat) (lane : Nat)
  /-- WAKE_LOCK_TIMEOUT (R317): A far receiver not locked 1 µs after a doze exit sets WAKEERR and hunts. -/
  | wakeLockTimeout (die : Nat) (lane : Nat)
  /-- SIGNAL_DETECT (R321): A sleeping lane's signal detector sees the far end's clock pattern and starts its own exit. -/
  | signalDetect (die : Nat) (lane : Nat)
  /-- LANE_WAKE_TIMEOUT (R321): A far end not answering within 20 ms sets WAKEERR and the lane runs the full sequence. -/
  | laneWakeTimeout (die : Nat) (lane : Nat)
  /-- LOSS_OF_SIGNAL (R316): A signal lost without a preceding DOZE codeword sets LOS. -/
  | lossOfSignal (die : Nat) (lane : Nat)
  /-- PORT_TRAIN (R336): PLK_PCTL CMD TRAIN trains the port's lanes, checks identity and qualifies. -/
  | portTrain (port : Nat)
  /-- PORT_HOLD (R339): PLK_PCTL CMD HOLD takes the package-link port DOWN. -/
  | portHold (port : Nat)
  /-- PORT_QUAL_END (R338): Port qualification ends after QTIME; the port enters UP, retries, takes the reserve lane or goes
  DOWN. -/
  | portQualEnd (port : Nat)
  /-- FRAME_RECEIVE (R333): A package-link frame is assembled, checked and accepted in SEQ order, or discarded with a NAK. -/
  | frameReceive (port : Nat) (idx : Nat)
  /-- LINK_BLOCK_RECEIVE (R331): A LINK block delivers acknowledgement, credits and identity. -/
  | linkBlockReceive (port : Nat) (idx : Nat)
  /-- FRAME_LOSS_TIMEOUT (R331): 1 µs after a higher SEQ arrived, a missing frame is treated as lost. -/
  | frameLossTimeout (port : Nat)
  /-- FRAME_NAK_REPEAT (R333): The receiver repeats its NAK every 2 µs until the expected frame arrives. -/
  | frameNakRepeat (port : Nat)
  /-- ACK_DUE (R333): A frame left unacknowledged for 100 ns is acknowledged in a LINK block. -/
  | ackDue (port : Nat)
  /-- ACK_TIMEOUT_REPLAY (R333): ACKSEQ not advancing for ATMO ticks while frames are held triggers a resend. -/
  | ackTimeoutReplay (port : Nat)
  /-- PORT_RETRAIN_COMPLETE (R334): RETRAIN ends and the port returns to UP and resends, or goes DOWN. -/
  | portRetrainComplete (port : Nat)
  /-- PORT_DOZE_REQUEST (R335): A port idle for PLK_DOZE hub cycles requests doze on its transmitters. -/
  | portDozeRequest (port : Nat)
  /-- PORT_SILENCE (R344): No block on any active lane for 1 ms takes the port DOWN. -/
  | portSilence (port : Nat)
  /-- LINK_REQUEST_ARRIVE (R341): A request arriving on a port is performed at its home or forwarded by the routing table. -/
  | linkRequestArrive (port : Nat)
  /-- LINK_RESPONSE_ARRIVE (R341): A response arriving on a port retraces its request's path through the trackers, or is
  discarded if late. -/
  | linkResponseArrive (port : Nat)
  /-- REMOTE_REQUEST_TIMEOUT (R342): A remote request without response after PLK_TTMO fails with PATH at the issuing die or
  frees transit trackers. -/
  | remoteRequestTimeout (port : Nat) (tag : Nat)
  /-- ROUTE_WRITE (R340): A write to PLK_ROUTE sets CUR to the first valid UP port and sets HOLD if requests are
  outstanding. -/
  | routeWrite (die : Nat) (value : Nat)
  /-- ROUTE_HOLD_CLEAR (R343): HOLD clears when OUT reaches zero, releasing the waiting requests. -/
  | routeHoldClear (die : Nat) (pkg : Nat)
  /-- ETH_PORT_TRAIN (R351): ETH_PCTL CMD TRAIN runs auto-negotiation and link training. -/
  | ethPortTrain (die : Nat) (port : Nat)
  /-- ETH_PORT_HOLD (R351): ETH_PCTL CMD HOLD takes the Ethernet port DOWN and squelches its transmitters. -/
  | ethPortHold (die : Nat) (port : Nat)
  /-- ETH_LINKUP_STEP_END (R351): An Ethernet link-up phase ends, moving the port to TRAIN and then UP. -/
  | ethLinkupStepEnd (die : Nat) (port : Nat) (resolved : Bool)
  /-- ETH_AN_TIMEOUT (R351): Abilities not resolved within 500 ms set ANERR and take the port DOWN. -/
  | ethAnTimeout (die : Nat) (port : Nat)
  /-- ETH_UP_TIMEOUT (R351): A port not UP 3 s after TRAIN enters DOWN. -/
  | ethUpTimeout (die : Nat) (port : Nat)
  /-- ETH_PCS_LOCK_LOSS (R351): Loss of PCS lock in UP reruns the sequence once, then enters DOWN. -/
  | ethPcsLockLoss (die : Nat) (port : Nat)
  /-- ETH_FRAME_RECEIVE (R352): A received Ethernet frame is filtered and delivered to RoCEv2 or the mailbox, or discarded
  and counted. -/
  | ethFrameReceive (die : Nat) (port : Nat) (frame : Bytes)
  /-- PFC_RECEIVE (R354): A received PFC frame stops sending of its priorities for the given quanta. -/
  | pfcReceive (die : Nat) (port : Nat)
  /-- PFC_REPEAT (R354): Every 40 µs above XON the PFC frame is repeated. -/
  | pfcRepeat (die : Nat) (port : Nat) (prio : Nat)
  /-- PAUSE_EXPIRE (R354): A pause's quanta run out and the priority resumes sending. -/
  | pauseExpire (die : Nat) (port : Nat) (prio : Nat)
  /-- PFC_WATCHDOG (R355): A priority paused without a break for ETH_PFCWD trips the watchdog and discards its frames. -/
  | pfcWatchdog (die : Nat) (port : Nat) (prio : Nat)
  /-- PFC_WATCHDOG_RESUME (R355): After 1 ms with no pause received, normal sending of the priority resumes. -/
  | pfcWatchdogResume (die : Nat) (port : Nat) (prio : Nat)
  /-- CNP_RECEIVE (R356): A received CNP cuts the QP's rate by one eighth if 50 µs have passed since the last cut. -/
  | cnpReceive (die : Nat) (port : Nat)
  /-- CC_RATE_INCREASE (R356): Every 55 µs without a CNP, the QP's rate rises by RAI. -/
  | ccRateIncrease (qp : Nat)
  /-- FRAME_EGRESS (R365): A frame starts sending once the egress bucket holds its charge, after the Ward's identity checks. -/
  | frameEgress (die : Nat) (port : Nat) (cls : Nat)
  /-- QP_STATE_WRITE (R357): A write to ETH_QCTL.STATE moves a QP to RTS or RESET, going through ERROR if operations are
  outstanding. -/
  | qpStateWrite (die : Nat) (want : Nat)
  /-- RDMA_ACK_RECEIVE (R358): An ACK completes the requester's WRITEs up to its PSN. -/
  | rdmaAckReceive (die : Nat) (port : Nat)
  /-- RDMA_NAK_RECEIVE (R358): A NAK triggers retransmission or moves the QP to ERROR, failing its operations. -/
  | rdmaNakReceive (die : Nat) (port : Nat)
  /-- RDMA_READ_RESPONSE (R358): A READ response packet writes its lines and completes the READ at its last packet. -/
  | rdmaReadResponse (die : Nat) (port : Nat)
  /-- RDMA_RETRANSMIT_TIMEOUT (R358): TIMEOUT without progress retransmits from the first unacknowledged PSN or, after
  RETRY, enters ERROR. -/
  | rdmaRetransmitTimeout (qp : Nat)
  /-- RDMA_WRITE (R359): An inbound RDMA WRITE into a device region is checked, performed and acknowledged once every line
  is performed. -/
  | rdmaWrite (die : Nat) (port : Nat)
  /-- RDMA_READ (R359): An inbound RDMA READ from a device region is checked and answered with its data. -/
  | rdmaRead (die : Nat) (port : Nat)
  /-- SEND (R360): An inbound SEND is written to the next ring slot and release-adds the arrival tumbler, or is answered RNR
  NAK. -/
  | sendIn (die : Nat) (port : Nat)
  /-- MAILBOX_REQUEST (R363): A mailbox REQUEST frame is routed to the lead's receiver and delivered, refused, dropped or
  answered with the stored reply. -/
  | mailboxRequest (die : Nat) (port : Nat)
  /-- REPLY_SEND (R369): A write of 1 to MBX_OCTL.SEND sends the outbound slot's reply, or holds it if the port is down. -/
  | replySend (by_ : Nat) (die : Nat) (len : Nat)
  /-- EVENT_SEND (R370): A write of 1 to MBX_ECTL.SEND sends MBX_EDATA as an EVENT frame to the subscription. -/
  | eventSend (by_ : Nat) (die : Nat) (sub : Nat) (len : Nat)
  /-- IDENTIFY (R382): IDENTIFY returns the package, level, dies and epoch. -/
  | identify (die : Nat) (n : Nat) (again : Bool)
  /-- ATTEST (R382): ATTEST returns a signed attestation report for each named die. -/
  | attest (die : Nat) (n : Nat) (again : Bool)
  /-- SESSION_OPEN_STEP1 (R376): SESSION_OPEN step 1 runs the device side of the SM2 key exchange and returns RB and SB. -/
  | sessionOpenStep1 (die : Nat) (n : Nat)
  /-- SESSION_OPEN_STEP2 (R376): SESSION_OPEN step 2 checks SA and opens the session, or discards it. -/
  | sessionOpenStep2 (die : Nat) (n : Nat)
  /-- SESSION_OPEN_TIMEOUT (R376): A session whose step 2 does not arrive within 2 s is discarded. -/
  | sessionOpenTimeout (die : Nat) (n : Nat)
  /-- SESSION_CLOSE (R382): SESSION_CLOSE sends an authenticated reply and erases the session key. -/
  | sessionClose (die : Nat) (n : Nat) (again : Bool)
  /-- POWER_SET (R408): POWER_SET moves the package, a die or a partition to a power state, or is deferred or refused. -/
  | powerSet (die : Nat) (n : Nat) (again : Bool) (ovr : Bool)
  /-- POWER_QUERY (R382): POWER_QUERY returns the power states, power and temperatures. -/
  | powerQuery (die : Nat) (n : Nat) (again : Bool)
  /-- PARTITION_CREATE (R383): PARTITION_CREATE assigns cells, engines, ranges, MiBs, buckets and quota to a new partition. -/
  | partitionCreate (die : Nat) (n : Nat) (again : Bool)
  /-- PARTITION_DESTROY (R383): PARTITION_DESTROY aborts, parks, unassigns, clears buckets, owners and ranges, rekeys and
  zeroes the quota. -/
  | partitionDestroy (die : Nat) (n : Nat) (again : Bool)
  /-- PARTITION_RESET (R441): PARTITION_RESET aborts the partition, resets its cells and compute-domain units and reloads
  the mapped cores. -/
  | partitionReset (die : Nat) (n : Nat) (again : Bool)
  /-- PARTITION_QUERY (R383): PARTITION_QUERY returns the partition's state, generations and cells. -/
  | partitionQuery (die : Nat) (n : Nat) (again : Bool)
  /-- MAP_SYNC (R257): MAP_SYNC applies a batch of key-ring operations on every die of the mirror set, reversing INSERTs on
  failure. -/
  | mapSync (die : Nat) (n : Nat) (again : Bool)
  /-- REKEY (R263): REKEY cuts the identity's range on every die of the mirror set and replies when every drain has ended. -/
  | rekey (die : Nat) (n : Nat) (again : Bool)
  /-- FAULT_RESUME (R259): FAULT_RESUME writes RESUME to the named engines in HALT_R. -/
  | faultResume (die : Nat) (n : Nat) (again : Bool)
  /-- PLAN_LOAD (R384): PLAN_LOAD copies and checks the plan sections and sets plan regions and list registers. -/
  | planLoad (die : Nat) (n : Nat) (again : Bool) (far : List Bytes)
  /-- PLAN_START (R384): PLAN_START starts the partition's engines and dispatch units and broadcasts START to its cells. -/
  | planStart (die : Nat) (n : Nat) (again : Bool)
  /-- PLAN_DONE (R384): When the completion tumbler reaches its threshold, the lead sends PLAN_DONE within 200 µs. -/
  | planDone (die : Nat) (n : Nat)
  /-- PLAN_ABORT (R384): PLAN_ABORT aborts the partition's cores, engines and dispatch units. -/
  | planAbort (die : Nat) (n : Nat) (again : Bool)
  /-- PLAN_STATUS (R384): PLAN_STATUS returns counts of cores, engines and dispatch units by state. -/
  | planStatus (die : Nat) (n : Nat) (again : Bool)
  /-- FAULT_READ (R384): FAULT_READ returns fault records, optionally sweeping unit status and consuming records. -/
  | faultRead (die : Nat) (n : Nat) (again : Bool)
  /-- EVENT_SUBSCRIBE (R387): EVENT_SUBSCRIBE sets or replaces the session's event subscription. -/
  | eventSubscribe (die : Nat) (n : Nat) (again : Bool)
  /-- LINK_STATUS (R385): LINK_STATUS returns the register block of a knuckle, site, port, Ethernet port or lane. -/
  | linkStatus (die : Nat) (n : Nat) (again : Bool)
  /-- LINK_RETRAIN (R385): LINK_RETRAIN writes a link's command register, replying OK, DEFERRED or BUSY. -/
  | linkRetrain (die : Nat) (n : Nat) (again : Bool)
  /-- ROUTE_SET_ROUTES (R385): ROUTE_SET with KIND 0 writes routing-table entries on every die. -/
  | routeSetRoutes (die : Nat) (n : Nat)
  /-- ROUTE_SET_KNUCKLES (R275): ROUTE_SET with KIND 1 admits trained knuckles to routing on every die. -/
  | routeSetKnuckles (die : Nat) (n : Nat)
  /-- MARGIN_REPORT (R462): MARGIN_REPORT returns the open margin proposal for each die. -/
  | marginReport (die : Nat) (n : Nat) (again : Bool)
  /-- MARGIN_APPLY (R463): MARGIN_APPLY approves or rejects the open proposal, writing PEND where approved. -/
  | marginApply (die : Nat) (n : Nat) (again : Bool)
  /-- FW_STAGE (R385): FW_STAGE writes image bytes to the inactive bank of both boot flashes. -/
  | fwStage (die : Nat) (n : Nat) (again : Bool)
  /-- FW_COMMIT (R385): FW_COMMIT verifies the staged image and ends with OP_DONE. -/
  | fwCommit (die : Nat) (n : Nat) (again : Bool) (bad : Bool)
  /-- CORE_RETEST (R385): CORE_RETEST tests an unmapped failed core and returns it to the spare pool if it passes. -/
  | coreRetest (die : Nat) (n : Nat) (again : Bool) (pass : Bool)
  /-- SPARE_MAP (R385): SPARE_MAP moves a logical core to a spare, optionally marking and deadbolting the old core. -/
  | spareMap (die : Nat) (n : Nat) (again : Bool)
  /-- MEMTEST (R430): MEMTEST runs the HBM memory test outside bring-up. -/
  | memtest (die : Nat) (n : Nat) (again : Bool)
  /-- BLANK_REPORT (R385): BLANK_REPORT returns a stack's retired entries and blank counts. -/
  | blankReport (die : Nat) (n : Nat) (again : Bool)
  /-- DEFERRED_COMMAND_RUN (R380): A domain command held in the pending slot runs when the running transition ends, or ends
  with BAD_STATE. -/
  | deferredCommandRun (die : Nat) (n : Nat) (ovr : Bool)
  /-- LEAD_HEARTBEAT (R373): The lead sends a heartbeat to every steward every 10 ms. -/
  | leadHeartbeat (die : Nat)
  /-- ELECTION_START (R373): A steward with no heartbeat for 100 ms, or with the lead unreachable, starts an election and
  waits 20 ms × d. -/
  | electionStart (die : Nat)
  /-- ELECTION_PROPOSE (R373): After its wait, the steward proposes a higher epoch and becomes lead when every reachable
  Ward stores it. -/
  | electionPropose (die : Nat)
  /-- LEAD_ONLY_MESSAGE (R372): A steward's access to another die's control space is admitted or refused by that die's Ward
  on its epoch. -/
  | leadOnlyMessage (by_ : Nat) (die : Nat) (off : Nat) (value : Nat) (write : Bool)
  /-- LEAD_MESSAGE_TIMEOUT (R377): A die not answering lead-only messages within 1 s makes the command reply TIMEOUT. -/
  | leadMessageTimeout (die : Nat) (n : Nat)
  /-- NONCE_GET (R400): Ward-slot NONCE_GET returns the nonces, counters and ward-key generation. -/
  | nonceGet (die : Nat) (fails : Nat)
  /-- WARD_SET (R403): Ward-slot SET applies a list of Ward settings on the named dies, all or none. -/
  | wardSet (die : Nat) (fails : Nat)
  /-- HOST_KEY (R399): Ward-slot HOST_KEY writes or empties a host-key slot. -/
  | hostKey (die : Nat) (fails : Nat)
  /-- PROVISION (R402): Ward-slot PROVISION programs ward-key generation 0 when no key is present. -/
  | provision (die : Nat) (fails : Nat)
  /-- ROTATE (R402): Ward-slot ROTATE programs the next ward-key generation and revokes the current one. -/
  | rotate (die : Nat) (fails : Nat)
  /-- ROLLBACK (R393): Ward-slot ROLLBACK blows rollback fuses up to the target on the named dies. -/
  | rollback (die : Nat) (fails : Nat)
  /-- ROM_BOOT (R391): The steward ROM discovers the flash, verifies an image bank, records measurements and enters
  firmware. -/
  | romBoot (die : Nat) (banks : List ((Nat × Nat) × Bytes))
  /-- BOOTLOCK_SET (R391): A write of 1 to WRD_STAT.BOOTLOCK locks every RO/L register and freezes the measurements. -/
  | bootlockSet (die : Nat)
  /-- WARD_ATTEST (R395): WRD_OPCTL OP ATTEST with GO starts assembling and signing an attestation report. -/
  | wardAttest (die : Nat)
  /-- WARD_KEYX (R395): WRD_OPCTL OP KEYX with GO starts the responder side of the session key exchange. -/
  | wardKeyx (die : Nat)
  /-- WARD_OP_COMPLETE (R395): A Ward operation finishes, filling the output buffer or setting ERR, and BUSY clears. -/
  | wardOpComplete (die : Nat)
  /-- MEAS_EXTEND (R397): A write of 1 to WRD_MCTL.EXTEND sets MEAS2 to SM3(MEAS2 ‖ D). -/
  | measExtend (die : Nat)
  /-- EPOCH_WRITE (R406): A write to WRD_EPOCH stores a higher epoch; a value not above the held one has no effect. -/
  | epochWrite (die : Nat) (value : Nat)
  /-- WARD_DEBUG (R405): An unlock token shifted in through WARD_DEBUG is verified and unlocks a debug level. -/
  | wardDebug (die : Nat) (token : Bytes)
  /-- POWER_SEQUENCER_GO (R415): A write of GO to PWR_DCTL starts a power step or holds its target in the pending slot. -/
  | powerSequencerGo (die : Nat) (target : Nat)
  /-- POWER_STEP_COMPLETE (R409): A power sequencer step reaches its end state, applying approved margins and running any
  pending target. -/
  | powerStepComplete (die : Nat) (fails : Nat) (repairs : List (List Bool))
  /-- WAKE_REQUEST (R412): A 2-20 µs low pulse on RESET_N is a wake request that starts a P3 or P4 exit, or is only counted. -/
  | wakeRequest (die : Nat)
  /-- DIE_RESET (R470): RESET_N held low for 1 ms or more resets the carrier and compute domains; release reruns bring-up
  from step 2. -/
  | dieReset (die : Nat)
  /-- POWER_GOOD_RISE (R470): A rising PWRGOOD is the cold reset of the always-on domain and starts the cold-start sequence. -/
  | powerGoodRise (die : Nat) (resetLow : Bool)
  /-- POWER_GOOD_FALL (R470): A falling PWRGOOD takes every domain of the die down within 1 µs. -/
  | powerGoodFall (die : Nat)
  /-- JUNCTION_SAMPLE (R417): Junction sensors are sampled every 2 µs and PWR_TJ updated. -/
  | junctionSample (die : Nat) (tj : Nat)
  /-- THROTTLE_STEP (R417): At 100 °C or above, or above a ceiling, the compute duty falls by one sixteenth every 10 µs. -/
  | throttleStep (die : Nat) (cause : Nat)
  /-- THROTTLE_RELEASE_STEP (R417): After 1 ms at or below the release condition, the duty rises by one sixteenth per 1 ms. -/
  | throttleReleaseStep (die : Nat) (cause : Nat)
  /-- POWER_FIGURE_EXCHANGE (R418): Every 2 µs the Wards exchange power figures and compare the package sum with PCEIL. -/
  | powerFigureExchange (die : Nat) (watts : Nat) (rails : List (Nat × Nat)) (arrived : Nat)
  /-- THERMAL_TRIP (R419): At 110 °C the comparator switches off the die's domains and stacks, asserts TRIP_N and puts the
  die in P4. -/
  | thermalTrip (die : Nat)
  /-- RAIL_FAULT (R421): A rail out of regulation for 5 µs takes its domain down as a fault. -/
  | railFault (die : Nat) (rail : Nat)
  /-- REFCLK_LOSS (R422): A reference input stopped for 10 µs sets REFLOSS and takes the compute and carrier domains down. -/
  | refclkLoss (die : Nat)
  /-- PLL_LOCK_LOSS (R422): A running PLL losing lock stops its units as a fault. -/
  | pllLockLoss (die : Nat) (pll : Nat)
  /-- SLOWCLK_LOSS (R423): Slow-clock edges stopped for 1 µs switch the die to its internal oscillator and set SLOWLOSS. -/
  | slowclkLoss (die : Nat)
  /-- SLOWCLK_RESTORE (R423): After 1,000 consecutive good edges the die returns to the slow-clock input. -/
  | slowclkRestore (die : Nat)
  /-- MEMORY_TEST_PHASE_END (R430): A memory-test phase ends, its verify reads declaring failing rows, until the final zero
  fill ends the test. -/
  | memoryTestPhaseEnd (die : Nat) (rows : List (Nat × RowId))
  /-- B0OK_CLEAR (R429): A write of 1 to HUB_LEVEL.B0OK clears it, fixing the die at the A1 level. -/
  | b0okClear (die : Nat)
  /-- CHUNK_SEND (R435): A write of GO to HUB_LDCTL sends one 4 KiB image chunk by multicast or unicast. -/
  | chunkSend (die : Nat) (nchm1 : Nat) (chunk : Nat) (uni : Bool) (mask : Nat)
  /-- CHUNK_RECEIVE (R435): A core in LOADER writes a chunk, clears its bitmap bit if the CRC passes, and on completion adds
  to the census and enters IDLE. -/
  | chunkReceive (place : Nat) (noise : Bytes)
  /-- FAULT_POST (R479): A write of 1 to FLT_PCTL.GO posts the steward's record, or drops or refuses it. -/
  | faultPost (die : Nat)
  /-- FAULT_POP (R451): A write to FLT_POP removes the N oldest records from the queue. -/
  | faultPop (die : Nat) (count : Nat)
  /-- AGE_SAMPLE (R459): Every PERIOD seconds in P0 or P1 the ageing monitors are sampled and AGEING records posted. -/
  | ageSample (die : Nat) (res : AgeRes)
  /-- AGE_SAMPLE_NOW (R461): A write of 1 to AGE_CTL.SAMPLE takes one ageing sample now. -/
  | ageSampleNow (die : Nat) (res : AgeRes)
  /-- MARGIN_EVALUATE (R460): At most once per 24 hours the lead evaluates drifts and opens a margin proposal with a MARGIN
  event. -/
  | marginEvaluate (die : Nat)
  /-- I3C_PRIVATE_READ (R474): An I3C private read returns a snapshot of the telemetry block. -/
  | i3cPrivateRead (die : Nat) (addr : Nat) (len : Nat)
  /-- I3C_PRIVATE_WRITE (R474): An I3C private write is NACKed. -/
  | i3cPrivateWrite (die : Nat) (addr : Nat)
  /-- I3C_CCC (R474): An I3C CCC, including dynamic address assignment, is answered as I3C Basic requires of a target. -/
  | i3cCcc (die : Nat) (code : Nat) (addr : Nat)
  /-- I3C_BLOCK_REFRESH (R474): The telemetry block is refreshed every 100 µs in every state. -/
  | i3cBlockRefresh (die : Nat)
  /-- LOCAL_COUNTER_TICK (R423): The 64-bit local counter advances by one every 1 µs, derived from the slow clock, in every
  state P0 to P4. -/
  | localCounterTick (die : Nat)
  /-- BUILT_IN_SELF_TEST_END (R426): The built-in self-test of hub slices, tumbler bank, key ring and shared-buffer arrays
  ends, and a failed unit fails the carrier domain or records a slice. -/
  | builtInSelfTestEnd (die : Nat) (slices : Nat) (arrays : Bool)
  /-- CHUNK_SEND_COMPLETE (R443): A loader chunk finishes leaving the hub and HUB_LDCTL.BUSY clears, so a new GO is
  accepted. -/
  | chunkSendComplete (die : Nat)
  /-- EVENT_SEND_COMPLETE (R370): An EVENT frame finishes sending and MBX_ECTL.BUSY clears, so MBX_EDATA becomes writable
  again. -/
  | eventSendComplete (die : Nat)
  /-- PORT_SLEEP_WAIT_TIMEOUT (R413): On P1-to-P2 entry a package-link port that still holds unacknowledged frames after 100
  µs sends SLEEP on its active lanes anyway. -/
  | portSleepWaitTimeout (port : Nat)
  /-- WARD_RELAY_TIMEOUT (R400): A ward-slot update whose relayed message draws no answer from a named die within 1 s is
  answered TIMEOUT with the mask of silent dies. -/
  | wardRelayTimeout (die : Nat)
deriving DecidableEq, Repr

end Sys2Proof
end

