-- ==== Sys2Proof/Decode.lean ====
section
/-!
DEFINITION. Words that spell a command. spec/opcode_table.json gives no row any bits: a command comes from outside the package as itself, so no
word spells one (98_reader.md: no row has fixed bits or fields).
-/
namespace Sys2Proof

/-- The command that a word of the table's bits spells: none. -/
def decodeTableWord (_nbits _w : Nat) : Option Instr := none

end Sys2Proof
end

