-- ==== Sys2Proof/Machine/Bits.lean ====
section
/-!
DEFINITION. Bit ranges, byte order and signed readings of numbers (R7: bit 0 is the least significant bit of every
field, register and word; multi-byte fields are little-endian, but for those of a public standard).
-/
namespace Sys2Proof.Machine

/-- Bits [hi:lo] of a number. -/
def bitsOf (n hi lo : Nat) : Nat := n / 2 ^ lo % 2 ^ (hi + 1 - lo)

/-- Bit `i` of a number, 0 or 1. -/
def bitOf (n i : Nat) : Nat := n / 2 ^ i % 2

/-- Bit `i` of a number is set. -/
def hasBit (n i : Nat) : Bool := n / 2 ^ i % 2 == 1

/-- `n` with bits [hi:lo] replaced by the low bits of `v`. -/
def setBits (n hi lo v : Nat) : Nat :=
  n - bitsOf n hi lo * 2 ^ lo + v % 2 ^ (hi + 1 - lo) * 2 ^ lo

/-- `n` with bit `i` set. -/
def orBit (n i : Nat) : Nat := if hasBit n i then n else n + 2 ^ i

/-- `n` with bit `i` cleared. -/
def clrBit (n i : Nat) : Nat := if hasBit n i then n - 2 ^ i else n

/-- The positions below `w` of the bits that are set. -/
def bitsSet (n w : Nat) : List Nat := (List.range w).filter (hasBit n)

/-- How many of the low `w` bits are set. -/
def popCount (n w : Nat) : Nat := (bitsSet n w).length

/-- The number whose low bits are the given list, bit 0 first. -/
def ofBits : List Bool → Nat
  | [] => 0
  | b :: bs => (if b then 1 else 0) + 2 * ofBits bs

/-- The exclusive-or of the low `w` bits. -/
def parity (n w : Nat) : Nat := popCount n w % 2

/-- The little-endian number a byte string spells (R7). -/
def leNat : Bytes → Nat
  | [] => 0
  | b :: bs => b.toNat + 256 * leNat bs

/-- The `k` bytes of a number, little-endian (R7). -/
def leBytes : Nat → Nat → Bytes
  | 0, _ => []
  | k + 1, n => BitVec.ofNat 8 n :: leBytes k (n / 256)

/-- The big-endian (network order) number a byte string spells. -/
def beNat (bs : Bytes) : Nat := leNat bs.reverse

/-- The `k` bytes of a number, big-endian (network order). -/
def beBytes (k n : Nat) : Bytes := (leBytes k n).reverse

/-- The signed value of the low `w` bits. -/
def sext (w n : Nat) : Int :=
  if 2 * (n % 2 ^ w) < 2 ^ w then (n % 2 ^ w : Nat) else (n % 2 ^ w : Nat) - (2 ^ w : Nat)

/-- A signed number modulo 2^w. -/
def wrapTo (w : Nat) (i : Int) : Nat := (i % (2 ^ w : Nat)).toNat

/-- `k` bytes of a string from position `p`; past its end, zeros. -/
def slice (bs : Bytes) (p k : Nat) : Bytes :=
  (List.range k).map fun j => bs.getD (p + j) 0

/-- A byte string with `new` laid over it from position `p`. -/
def overlay (bs : Bytes) (p : Nat) (new : Bytes) : Bytes :=
  bs.take p ++ new ++ bs.drop (p + new.length)

/-- The little-endian field of `k` bytes at position `p`. -/
def field (bs : Bytes) (p k : Nat) : Nat := leNat (slice bs p k)

/-- `k` zero bytes. -/
def zeros (k : Nat) : Bytes := List.replicate k 0

/-- Bytes combined by exclusive-or, position by position, over the length of the first string. -/
def xorBytes : Bytes → Bytes → Bytes
  | [], _ => []
  | a :: as, [] => a :: as
  | a :: as, b :: bs => (a ^^^ b) :: xorBytes as bs

/-- A count that stays at its largest value. -/
def satAdd (w n k : Nat) : Nat := min (n + k) (2 ^ w - 1)

/-- The ceiling of a quotient. -/
def ceilDiv (a b : Nat) : Nat := (a + b - 1) / b

/-- Base-2 logarithm of a power of two up to 2^64 (0 for anything smaller). -/
def log2 (n : Nat) : Nat := ((List.range 65).filter fun k => 2 ^ k ≤ n).length - 1

end Sys2Proof.Machine
end

