-- ==== Sys2Proof/Machine/Codes.lean ====
section
/-!
DEFINITION. The codes of the package: the Reed-Solomon codes of HBM (R212, R214–R216) and of the lanes, SEC-DED (R219),
BCH (R220), and cyclic redundancy checks. A stored word is held as its data and the mask by which its stored form
differs from its codeword; the codes are linear, so a decoder's verdict depends on that mask alone.
-/
namespace Sys2Proof.Machine

/-! Binary fields -/

/-- A binary field GF(2^w) given by its polynomial, α being 2. -/
structure GF where
  w : Nat
  poly : Nat
deriving DecidableEq, Repr

/-- `a·2^k` in the field, for `a` below 2^w. -/
def GF.shl (F : GF) (a : Nat) : Nat → Nat
  | 0 => a
  | k + 1 =>
    let b := F.shl a k * 2
    if hasBit b F.w then b ^^^ F.poly else b

/-- The product of two field elements. -/
def GF.mul (F : GF) (a b : Nat) : Nat :=
  (List.range F.w).foldl (fun acc i => if hasBit b i then acc ^^^ F.shl a i else acc) 0

/-- `a^n`, by repeated squaring over the bits of `n` (32 of them). -/
def GF.pow (F : GF) (a n : Nat) : Nat :=
  ((List.range 32).foldl (fun (s : Nat × Nat) i => (if hasBit n i then F.mul s.1 s.2 else s.1, F.mul s.2 s.2)) (1, a)).1

/-- α^n. -/
def GF.alpha (F : GF) (n : Nat) : Nat := F.pow 2 (n % (2 ^ F.w - 1))

/-- The inverse of a non-zero element. -/
def GF.inv (F : GF) (a : Nat) : Nat := F.pow a (2 ^ F.w - 2)

/-- The value of a polynomial (coefficients from x^0 up) at a point. -/
def GF.eval (F : GF) (p : List Nat) (x : Nat) : Nat :=
  p.foldr (fun c acc => c ^^^ F.mul acc x) 0

/-- The sum of two polynomials. -/
def polyAdd : List Nat → List Nat → List Nat
  | [], q => q
  | p, [] => p
  | a :: p, b :: q => (a ^^^ b) :: polyAdd p q

/-- The product of two polynomials. -/
def GF.polyMul (F : GF) : List Nat → List Nat → List Nat
  | [], _ => []
  | a :: p, q => polyAdd (q.map (F.mul a)) (0 :: F.polyMul p q)

/-! Reed-Solomon codes with generator (x + α^0) … (x + α^(c−1)) -/

/-- A Reed-Solomon code: its field, its length in symbols and its number of check symbols. Symbol `i` of a word is the
coefficient of x^(n−1−i). -/
structure RSCode where
  F : GF
  n : Nat
  c : Nat
deriving DecidableEq, Repr

/-- The locator of symbol `i`. -/
def RSCode.loc (C : RSCode) (i : Nat) : Nat := C.F.alpha (C.n - 1 - i)

/-- The syndromes of a word. -/
def RSCode.syndromes (C : RSCode) (r : List Nat) : List Nat :=
  (List.range C.c).map fun j => C.F.eval r.reverse (C.F.alpha j)

/-- A word is a codeword: every syndrome is zero. -/
def RSCode.isCodeword (C : RSCode) (r : List Nat) : Bool := (C.syndromes r).all (· == 0)

/-- One step of the Berlekamp-Massey recursion at index `r` (1-based), with `f` erasures. -/
def RSCode.bmStep (C : RSCode) (S : List Nat) (f : Nat) (st : List Nat × List Nat × Nat) (r : Nat) :
    List Nat × List Nat × Nat :=
  let (lam, b, l) := st
  let delta := (List.range (l + 1)).foldl (fun acc j => acc ^^^ C.F.mul (lam.getD j 0) (if j < r then S.getD (r - 1 - j) 0 else 0)) 0
  if delta == 0 then (lam, 0 :: b, l)
  else
    let t := polyAdd lam ((0 :: b).map (C.F.mul delta))
    if 2 * l ≤ r + f - 1 then (t, lam.map (C.F.mul (C.F.inv delta)), r + f - l)
    else (t, 0 :: b, l)

/-- The error word within `e` symbol errors outside the erased symbols, if one exists: the decoder of R214's
`decodes(w, f, e)`. -/
def RSCode.decode (C : RSCode) (r : List Nat) (erased : List Nat) (e : Nat) : Option (List Nat) :=
  let S := C.syndromes r
  if S.all (· == 0) then some (List.replicate C.n 0) else
  let f := erased.length
  let gam := erased.foldl (fun p i => C.F.polyMul p [1, C.loc i]) [1]
  let (lam, _, l) := (List.range (C.c - f)).foldl (fun st k => C.bmStep S f st (f + 1 + k)) (gam, gam, f)
  let pos := (List.range C.n).filter fun i => C.F.eval lam (C.F.inv (C.loc i)) == 0
  if pos.length ≠ l then none else
  let om := (C.F.polyMul S lam).take C.c
  let dlam := (List.range (lam.length - 1)).map fun k => if k % 2 == 0 then lam.getD (k + 1) 0 else 0
  let err := (List.range C.n).map fun i =>
    if pos.contains i then
      let xi := C.F.inv (C.loc i)
      C.F.mul (C.loc i) (C.F.mul (C.F.eval om xi) (C.F.inv (C.F.eval dlam xi)))
    else 0
  let wt := ((List.range C.n).filter fun i => err.getD i 0 ≠ 0 && !erased.contains i).length
  if C.syndromes err = S ∧ wt ≤ e then some err else none

/-- The check symbols of a data word: the remainder of d(x)·x^c by the generator. -/
def RSCode.checks (C : RSCode) (d : List Nat) : List Nat :=
  let g := (List.range C.c).foldl (fun p j => C.F.polyMul p [C.F.alpha j, 1]) [1]
  let gh := (g.take C.c).reverse   -- coefficients of x^(c−1) … x^0
  d.foldl (fun rem s =>
    let q := s ^^^ rem.headD 0
    polyAdd (rem.drop 1 ++ [0]) (gh.map (C.F.mul q))) (List.replicate C.c 0)

/-- GF(2^8) of R212. -/
def gf8 : GF := ⟨8, 0x11D⟩

/-- RS(72,64), the HBM line code (R212). -/
def lineCode : RSCode := ⟨gf8, 72, 8⟩

/-- RS(36,32), the HBM narrow code (R216). -/
def narrowCode : RSCode := ⟨gf8, 36, 4⟩

/-- The symbols of a number, symbol `i` in bits [8i+7:8i]. -/
def symbolsOf (n mask : Nat) : List Nat := (List.range n).map fun i => bitsOf mask (8 * i + 7) (8 * i)

/-- The number whose symbols are given. -/
def ofSymbols (s : List Nat) : Nat := s.foldr (fun a acc => a % 256 + 256 * acc) 0

/-- What a decoder says of a stored word: the verdict, and the mask that remains on its data (zero when the correction
is the right one). -/
inductive Verdict where
  | clean (m : Nat)
  | corrected (m : Nat)
  | poisoned
  | bad
deriving DecidableEq, Repr

/-- The poison mask of a wide-coded line (R215): data zero, whose codeword has zero checks. -/
def linePoison : Nat := ofSymbols (List.replicate 64 0 ++ [0x6D, 0x2B, 0xD1, 0x84, 0x3F, 0xE6, 0x19, 0xA7])

/-- The poison mask of a narrow unit (R215). -/
def narrowPoison : Nat := ofSymbols (List.replicate 32 0 ++ [0x5C, 0x93, 0x2E, 0xF1])

/-- The decoder of R214 on the mask by which the received word differs from a codeword, in its order: clean, poisoned,
corrected, uncorrectable. -/
def rsVerdict (C : RSCode) (poison mask : Nat) (erased : List Nat) : Verdict :=
  let m := symbolsOf C.n mask
  if C.isCodeword m then .clean mask
  else if (C.decode (symbolsOf C.n (mask ^^^ poison)) erased (if erased.isEmpty && C.c == 8 then 1 else 0)).isSome then
    .poisoned
  else
    match C.decode m erased ((C.c - erased.length) / 2) with
    | some err => .corrected (mask ^^^ ofSymbols err)
    | none => .bad

/-! SEC-DED (R219). Mask bit i is the coefficient of x^i for i below 71; bit 71 is the overall parity. -/

/-- The remainder of a binary polynomial of `w` coefficients by one of degree `d`. -/
def polyRem (p d w n : Nat) : Nat :=
  (List.range (w - d)).foldl (fun r k => if hasBit r (w - 1 - k) then r ^^^ (p * 2 ^ (w - 1 - k - d)) else r) n

/-- The verdict of the scratchpad decoder; the mask that remains is over all 72 bits. -/
def secdedVerdict (mask : Nat) : Verdict :=
  let syn := polyRem 0x89 7 71 (mask % 2 ^ 71)
  let par := parity mask 72
  if syn == 0 && par == 0 then .clean mask
  else if syn == 0 then .corrected (mask ^^^ 2 ^ 71)
  else if par == 0 then .bad
  else
    match (List.range 71).find? fun i => polyRem 0x89 7 71 (2 ^ i) == syn with
    | some i => .corrected (mask ^^^ 2 ^ i)
    | none => .bad

/-! BCH (R220). Mask bit i is the coefficient of x^i for i below 274; bit 274 is the overall parity. -/

/-- GF(2^9) of R220. -/
def gf9 : GF := ⟨9, 0x211⟩

/-- The syndrome of a BCH word at α^k. -/
def bchSyn (mask k : Nat) : Nat :=
  ((List.range 274).foldl (fun (s : Nat × Nat) i =>
    (if hasBit mask i then s.1 ^^^ s.2 else s.1, gf9.shl s.2 k)) (0, 1)).1

/-- The positions below 274 of at most two errors that give syndromes `s1`, `s3`. -/
def bchFind (s1 s3 : Nat) : Option (List Nat) :=
  if s1 == 0 && s3 == 0 then some []
  else
    let locs := (List.range 274).map fun i => (i, gf9.alpha i)
    match locs.find? (fun p => p.2 == s1 && gf9.pow p.2 3 == s3) with
    | some p => some [p.1]
    | none =>
      (locs.findSome? fun p =>
        locs.findSome? fun q =>
          if p.1 < q.1 && (p.2 ^^^ q.2) == s1 && (gf9.pow p.2 3 ^^^ gf9.pow q.2 3) == s3 then some [p.1, q.1] else none)

/-- The verdict of the shared-buffer decoder: up to two errors, the parity bit counted, are corrected. -/
def bchVerdict (mask : Nat) : Verdict :=
  if mask == 0 then .clean 0 else
  match bchFind (bchSyn mask 1) (bchSyn mask 3) with
  | none => .bad
  | some es =>
    let pe := (parity mask 275 + es.length) % 2
    if es.length + pe > 2 then .bad
    else if es.isEmpty && pe == 0 then .clean mask
    else .corrected (es.foldl (fun m i => m ^^^ 2 ^ i) (mask ^^^ pe * 2 ^ 274))

/-! Cyclic redundancy checks -/

/-- A CRC over bits taken most significant first within each byte, with no reflection. -/
def crcMsb (w poly init : Nat) (bs : Bytes) : Nat :=
  bs.foldl (fun c b =>
    (List.range 8).foldl (fun c k =>
      let top := (hasBit c (w - 1)) != (hasBit b.toNat (7 - k))
      let c' := c * 2 % 2 ^ w
      if top then c' ^^^ poly else c') c) init

/-- `n` with its low `w` bits in the opposite order. -/
def reflect (w n : Nat) : Nat := ofBits ((List.range w).map fun i => hasBit n (w - 1 - i))

/-- CRC-32C (Castagnoli, R17) as its standard gives it: reflected, initial and final value all ones. -/
def crc32c (bs : Bytes) : Nat :=
  (bs.foldl (fun c b =>
    (List.range 8).foldl (fun c _ => if hasBit c 0 then c / 2 ^^^ 0x82F63B78 else c / 2) (c ^^^ b.toNat)) 0xFFFFFFFF) ^^^ 0xFFFFFFFF

end Sys2Proof.Machine
end

