-- ==== Sys2Proof/Config.lean ====
section
/-!
DEFINITION. The free values: what the manual leaves open where the machine goes on. Each is an opaque constant applied
to the draw counter `Dev.free` (a new value at each draw) or to the operands it depends on; nothing in Lean can
evaluate it, so what holds of the model holds whatever these values are.
-/
namespace Sys2Proof

/-- An arbitrary byte: data never written (R225), an undefined register. Arguments: the draw, the position. -/
opaque Config.freeByte : Nat → Nat → Byte

/-- An arbitrary number: a value or a choice the manual leaves open (R52 grouping, R58 results inside their bounds, an
undefined accumulator). Arguments: the draw, the position. -/
opaque Config.freeNat : Nat → Nat → Nat

/-- An arbitrary choice between two outcomes the manual allows (R225). Argument: the draw. -/
opaque Config.freeBool : Nat → Bool

/-- An SM2 signature (GB/T 32918) over a message, by the key of a die; 64 bytes. Arguments: die, draw, message. -/
opaque Config.sm2Sign : Nat → Nat → Bytes → Bytes

/-- An SM2 signature check: public key (64 bytes), message, signature (64 bytes). -/
opaque Config.sm2Verify : Bytes → Bytes → Bytes → Bool

/-- What the responder of the SM2 key exchange computes (R376, R395). Arguments: die, draw, input block. -/
opaque Config.sm2Keyx : Nat → Nat → Bytes → Bytes

/-- The Ward's random source (R391, R400). Arguments: the draw, the position. -/
opaque Config.random : Nat → Nat → Byte

/-- The Aqesk keys of the boot ROM (R389) by index, and its debug key (R405): 64 bytes each. -/
opaque Config.romKey : Nat → Bytes
opaque Config.debugKey : Bytes

/-- The fused customer key hash of a die (R390, R405): 32 bytes, or none while the fuse is blank. -/
opaque Config.custHash : Nat → Option Bytes

/-- The customer's debug key of a die (R405): 64 bytes, used only where its SM3 is the fused hash. -/
opaque Config.custKey : Nat → Bytes

/-- The serial (8 bytes) and the identity public key (64 bytes) of a die (R394). -/
opaque Config.serial : Nat → Bytes
opaque Config.pubKey : Nat → Bytes

/-- The bytes by which a die's I3C target identifies itself to a CCC (R474). -/
opaque Config.i3cId : Nat → Nat → Nat → Byte

end Sys2Proof
end

