-- ==== Sys2Proof/Machine/KMap.lean ====
section
/-!
DEFINITION. Finite maps as plain data: an association list in which a key stands at most once.
-/
namespace Sys2Proof.Machine

/-- A finite map by key. -/
abbrev KMap (κ α : Type) := List (κ × α)

variable {κ α : Type} [DecidableEq κ]

/-- What the map holds at a key. -/
def KMap.at? : KMap κ α → κ → Option α
  | [], _ => none
  | (k', v) :: m, k => if k = k' then some v else KMap.at? m k

/-- What the map holds at a key, or a default. -/
def KMap.atD (m : KMap κ α) (k : κ) (d : α) : α := (KMap.at? m k).getD d

/-- The map with a value at a key. -/
def KMap.put : KMap κ α → κ → α → KMap κ α
  | [], k, v => [(k, v)]
  | (k', v') :: m, k, v => if k = k' then (k, v) :: m else (k', v') :: KMap.put m k v

/-- The map without a key. -/
def KMap.del (m : KMap κ α) (k : κ) : KMap κ α := m.filter fun p => p.1 ≠ k

/-- The map without the keys that satisfy `p`. -/
def KMap.delIf (m : KMap κ α) (p : κ → Bool) : KMap κ α := m.filter fun e => !p e.1

end Sys2Proof.Machine
end

