-- ==== Sys2Proof/Machine/Float.lean ====
section
/-!
DEFINITION. Exact values and their roundings: binary32, the element formats of R43–R47, the FP32 operations of R478, the
fixed functions of R58 and the conversions of R60–R63. A finite value is sign, magnitude and exponent: ±m·2^e.
-/
namespace Sys2Proof.Machine

/-- The value of a number in a floating-point format. -/
inductive FV where
  | nan
  | inf (neg : Bool)
  | fin (neg : Bool) (m : Nat) (e : Int)
deriving DecidableEq, Repr

/-- The NaN every unit writes (R54, R478). -/
def qNaN : Nat := 0x7FC00000

/-- A magnitude shifted to exponent `q`, rounded to nearest even where bits are lost. -/
def shiftRne (m : Nat) (e q : Int) : Nat :=
  if q ≤ e then m * 2 ^ (e - q).toNat
  else
    let k := (q - e).toNat
    let lo := m % 2 ^ k
    let hi := m / 2 ^ k
    if 2 * lo > 2 ^ k || (2 * lo == 2 ^ k && hi % 2 == 1) then hi + 1 else hi

/-- The same, under stochastic rounding by the 16-bit value `n` (R63). -/
def shiftSr (n m : Nat) (e q : Int) : Nat :=
  if q ≤ e then m * 2 ^ (e - q).toNat
  else
    let k := (q - e).toNat
    let top := m % 2 ^ k * 2 ^ 16 / 2 ^ k
    if top + n ≥ 2 ^ 16 then m / 2 ^ k + 1 else m / 2 ^ k

/-- Number of bits of a magnitude. -/
def bitLen (m : Nat) : Nat := if m = 0 then 0 else Nat.log2 m + 1

/-- floor(log2) of a non-zero magnitude. -/
def floorLog2 (m : Nat) (e : Int) : Int := e + (bitLen m : Int) - 1

/-- A binary32 pattern's value. -/
def fv32 (b : Nat) : FV :=
  let s := hasBit b 31
  let x := bitsOf b 30 23
  let f := bitsOf b 22 0
  if x = 255 then (if f = 0 then .inf s else .nan)
  else if x = 0 then .fin s f (-149)
  else .fin s (2 ^ 23 + f) ((x : Int) - 150)

/-- The sign bit of a binary32 pattern, in place. -/
def sgn32 (neg : Bool) : Nat := if neg then 2 ^ 31 else 0

/-- A finite value rounded once to binary32 (R52): the pattern, and whether it overflowed to infinity. -/
def round32 (neg : Bool) (m : Nat) (e : Int) : Nat × Bool :=
  if m = 0 then (sgn32 neg, false) else
  let q := max (e + bitLen m - 24) (-149)
  let M := shiftRne m e q
  let b := (q + 149).toNat * 2 ^ 23 + M
  if b ≥ 0x7F800000 then (sgn32 neg + 0x7F800000, true) else (sgn32 neg + b, false)

/-- A value's binary32 pattern. -/
def bits32 : FV → Nat × Bool
  | .nan => (qNaN, false)
  | .inf s => (sgn32 s + 0x7F800000, false)
  | .fin s m e => round32 s m e

/-- A signed exact value over exponent `e`. -/
def mkFin (i : Int) (e : Int) (zeroNeg : Bool) : FV :=
  if i = 0 then .fin zeroNeg 0 e else .fin (i < 0) i.natAbs e

/-- The exact signed integer of a finite magnitude at exponent `q ≤ e`. -/
def atExp (neg : Bool) (m : Nat) (e q : Int) : Int :=
  let v : Int := (m * 2 ^ (e - q).toNat : Nat)
  if neg then -v else v

/-- The exact sum (R478): NaN, infinities and signed zeros as binary32 addition under round-to-nearest-even. -/
def FV.add : FV → FV → FV
  | .nan, _ => .nan
  | _, .nan => .nan
  | .inf s, .inf t => if s = t then .inf s else .nan
  | .inf s, _ => .inf s
  | _, .inf t => .inf t
  | .fin s m e, .fin t n f =>
    let q := min e f
    mkFin (atExp s m e q + atExp t n f q) q (s && t)

/-- The exact product. -/
def FV.mul : FV → FV → FV
  | .nan, _ => .nan
  | _, .nan => .nan
  | .inf s, .inf t => .inf (s != t)
  | .inf s, .fin t m _ => if m = 0 then .nan else .inf (s != t)
  | .fin t m _, .inf s => if m = 0 then .nan else .inf (s != t)
  | .fin s m e, .fin t n f => .fin (s != t) (m * n) (e + f)

/-- The value with its sign inverted. -/
def FV.neg : FV → FV
  | .nan => .nan
  | .inf s => .inf (!s)
  | .fin s m e => .fin (!s) m e

/-- The value is a NaN. -/
def FV.isNan : FV → Bool
  | .nan => true
  | _ => false

/-- The value is finite. -/
def FV.isFin : FV → Bool
  | .fin .. => true
  | _ => false

/-- A value scaled by 2^k. -/
def FV.scale (k : Int) : FV → FV
  | .fin s m e => .fin s m (e + k)
  | v => v

/-- Order of two values that are not NaN, −0 below +0 (R478). -/
def FV.lt : FV → FV → Bool
  | .nan, _ => false
  | _, .nan => false
  | .inf s, .inf t => s && !t
  | .inf s, _ => s
  | _, .inf t => !t
  | .fin s m e, .fin t n f =>
    let q := min e f
    let a := atExp s m e q
    let b := atExp t n f q
    a < b || (a == b && a == 0 && s && !t)

/-- Numeric equality: +0 and −0 are equal, a NaN equals nothing. -/
def FV.eqv : FV → FV → Bool
  | .nan, _ => false
  | _, .nan => false
  | a, b => !(FV.lt a b) && !(FV.lt b a) || (match a, b with | .fin _ m _, .fin _ n _ => m == 0 && n == 0 | _, _ => false)

/-- The arithmetic flags of R65 that an operation sets. -/
structure Flags where
  nv : Bool
  of : Bool
  sat : Bool
deriving DecidableEq, Repr

/-- No flag. -/
def Flags.none : Flags := ⟨false, false, false⟩

/-- The flags of two operations together: each is sticky. -/
def Flags.or (a b : Flags) : Flags := ⟨a.nv || b.nv, a.of || b.of, a.sat || b.sat⟩

/-- A rounded FP32 result with its flags (R478): NV when a NaN arises from operands that hold none, OF when a finite
result overflows. -/
def fin32 (anyNan : Bool) (v : FV) : Nat × Flags :=
  let (b, ov) := bits32 v
  (b, ⟨v.isNan && !anyNan, ov, false⟩)

/-- fadd. -/
def fadd (a b : Nat) : Nat × Flags := fin32 ((fv32 a).isNan || (fv32 b).isNan) ((fv32 a).add (fv32 b))

/-- fsub. -/
def fsub (a b : Nat) : Nat × Flags := fin32 ((fv32 a).isNan || (fv32 b).isNan) ((fv32 a).add (fv32 b).neg)

/-- fmul. -/
def fmul (a b : Nat) : Nat × Flags := fin32 ((fv32 a).isNan || (fv32 b).isNan) ((fv32 a).mul (fv32 b))

/-- ffma: a·b + c, rounded once. -/
def ffma (a b c : Nat) : Nat × Flags :=
  fin32 ((fv32 a).isNan || (fv32 b).isNan || (fv32 c).isNan) (((fv32 a).mul (fv32 b)).add (fv32 c))

/-- fmax and fmin: a NaN operand gives the NaN; −0 orders below +0. -/
def fmax (a b : Nat) : Nat :=
  if (fv32 a).isNan || (fv32 b).isNan then qNaN else if (fv32 a).lt (fv32 b) then b else a
/-- See `fmax`. -/
def fmin (a b : Nat) : Nat :=
  if (fv32 a).isNan || (fv32 b).isNan then qNaN else if (fv32 a).lt (fv32 b) then a else b

/-- fcmplt and fcmpeq masks. -/
def fcmplt (a b : Nat) : Nat :=
  if (fv32 a).lt (fv32 b) && !(fv32 a).eqv (fv32 b) then 0xFFFFFFFF else 0
/-- See `fcmplt`. -/
def fcmpeq (a b : Nat) : Nat := if (fv32 a).eqv (fv32 b) then 0xFFFFFFFF else 0

/-! The fixed functions (R58): the result is a free choice among the binary32 values inside the error bound. -/

/-- The integer square root of a number below 2^(2·k), bit by bit. -/
def isqrt (k n : Nat) : Nat :=
  (List.range k).foldl (fun r i => let t := r + 2 ^ (k - 1 - i); if t * t ≤ n then t else r) 0

/-- A positive value known to 96 fractional steps, floor(x·2^s) with `ex` telling that nothing was lost, as the binary32
patterns inside `u` ulp of it: the `u` at or below and the `u` above (and one more each side when it is exact). -/
def nearPatterns (u m : Nat) (e : Int) (ex : Bool) : List Nat :=
  let q := max (e + bitLen m - 24) (-149)
  let M := if q ≤ e then m * 2 ^ (e - q).toNat else m / 2 ^ (q - e).toNat
  let exact := ex && (q ≤ e || m % 2 ^ (q - e).toNat == 0)
  let b := (q + 149).toNat * 2 ^ 23 + M
  let lo := if exact then b - u else b + 1 - u
  ((List.range (2 * u + (if exact then 1 else 0))).map fun k => lo + k).filter fun p => p ≤ 0x7F800000

/-- One of the candidates, by a free number. -/
def pick (l : List Nat) (k : Nat) : Nat := l.getD (k % max l.length 1) 0

/-- recip. `k` is a free number. -/
def frecip (k a : Nat) : Nat :=
  match fv32 a with
  | .nan => qNaN
  | .inf s => sgn32 s
  | .fin s m e =>
    if m = 0 then sgn32 s + 0x7F800000
    else sgn32 s + pick (nearPatterns 1 (2 ^ 200 / m) (-200 - e) (2 ^ 200 % m == 0)) k

/-- rsqrt. -/
def frsqrt (k a : Nat) : Nat × Flags :=
  match fv32 a with
  | .nan => (qNaN, .none)
  | .inf s => if s then (qNaN, ⟨true, false, false⟩) else (0, .none)
  | .fin s m e =>
    if m = 0 then (sgn32 s + 0x7F800000, .none)
    else if s then (qNaN, ⟨true, false, false⟩)
    else
      -- make the exponent even: x = m'·2^(2h); 1/sqrt x = 2^(−h)/sqrt m'
      let m' := if e % 2 = 0 then m else 2 * m
      let h := (if e % 2 = 0 then e else e - 1) / 2
      let r := isqrt 130 (2 ^ 240 / m')
      (pick (nearPatterns 1 r (-120 - h) (r * r * m' == 2 ^ 240)) k, .none)

/-- 2^(2^(−i)) scaled by 2^80, by repeated square roots. -/
def rootOf2 : Nat → Nat
  | 0 => 2 ^ 81
  | i + 1 => isqrt 82 (rootOf2 i * 2 ^ 80)

/-- 2^(f/2^64) scaled by 2^80, for a fraction f below 2^64. -/
def exp2Frac (f : Nat) : Nat :=
  (List.range 64).foldl (fun acc i => if hasBit f (63 - i) then acc * rootOf2 (i + 1) / 2 ^ 80 else acc) (2 ^ 80)

/-- exp2. -/
def fexp2 (k a : Nat) : Nat × Flags :=
  match fv32 a with
  | .nan => (qNaN, .none)
  | .inf s => (if s then 0 else 0x7F800000, .none)
  | .fin s m e =>
    let fx := atExp s (m * 2 ^ 220) (e - 220) (e - 220)   -- x·2^(220 − e), exact
    -- x as a fixed-point number with 64 fractional bits, floored
    let x64 := fx * 2 ^ 64 / (2 ^ ((220 - e).toNat) : Nat)
    if !s && m ≠ 0 && floorLog2 m e ≥ 7 then (0x7F800000, ⟨false, true, false⟩)
    else if x64 < -150 * (2 ^ 64 : Int) then (0, .none)
    else
      let n := x64 / (2 ^ 64 : Nat)
      let f := (x64 % (2 ^ 64 : Nat)).toNat
      (pick (nearPatterns 2 (exp2Frac f) (n - 80) (f == 0)) k, .none)

/-- The fractional bits of log2 of a mantissa in [1, 2) scaled by 2^80: 64 of them, by repeated squaring. -/
def log2Frac (mant : Nat) : Nat :=
  ((List.range 64).foldl (fun (st : Nat × Nat) _ =>
    let y := st.2 * st.2 / 2 ^ 80
    if y ≥ 2 ^ 81 then (2 * st.1 + 1, y / 2) else (2 * st.1, y)) (0, mant)).1

/-- log2. -/
def flog2 (k a : Nat) : Nat × Flags :=
  match fv32 a with
  | .nan => (qNaN, .none)
  | .inf s => if s then (qNaN, ⟨true, false, false⟩) else (0x7F800000, .none)
  | .fin s m e =>
    if m = 0 then (0xFF800000, .none)
    else if s then (qNaN, ⟨true, false, false⟩)
    else
      let n := floorLog2 m e
      let mant := m * 2 ^ (81 - bitLen m)          -- in [2^80, 2^81)
      let v := n * (2 ^ 64 : Nat) + (log2Frac mant : Int)
      if v = 0 then (pick (0 :: nearPatterns 2 0 (-64) true) 0, .none)
      else (sgn32 (v < 0) + pick (nearPatterns 2 v.natAbs (-64) (mant == 2 ^ 80)) k, .none)

/-! Element formats (R43) -/

/-- A floating-point element format: bits, exponent bits, mantissa bits, bias. -/
structure EFmt where
  w : Nat
  xb : Nat
  mb : Nat
  bias : Nat
deriving DecidableEq, Repr

/-- The floating-point element format of a format code (R72); MXINT8 (5) is not one. -/
def eFmt : Nat → EFmt
  | 0 => ⟨8, 4, 3, 7⟩
  | 1 => ⟨8, 5, 2, 15⟩
  | 2 => ⟨6, 2, 3, 1⟩
  | 3 => ⟨6, 3, 2, 3⟩
  | 7 => ⟨16, 8, 7, 127⟩
  | _ => ⟨4, 2, 1, 1⟩

/-- Element bits of a format code. -/
def elemBits (fmt : Nat) : Nat := if fmt = 5 then 8 else (eFmt fmt).w

/-- Row size of a k-major tile (R48). -/
def rowBytes (fmt : Nat) : Nat := 2 * elemBits fmt

/-- emax of a format (R43). -/
def emaxOf : Nat → Int
  | 0 => 8
  | 1 => 15
  | 2 => 2
  | 3 => 4
  | 5 => 0
  | 7 => 127
  | _ => 2

/-- The value of an element (R43, R47). -/
def elemVal (fmt b : Nat) : FV :=
  if fmt = 5 then mkFin (sext 8 b) (-6) false
  else
    let F := eFmt fmt
    let s := hasBit b (F.w - 1)
    let x := bitsOf b (F.w - 2) F.mb
    let f := if F.mb = 0 then 0 else bitsOf b (F.mb - 1) 0
    if fmt = 0 && b % 128 == 0x7F then .nan
    else if (fmt = 1 || fmt = 7) && x == 2 ^ F.xb - 1 then (if f = 0 then .inf s else .nan)
    else if x = 0 then .fin s f (1 - (F.bias : Int) - F.mb)
    else .fin s (2 ^ F.mb + f) ((x : Int) - F.bias - F.mb)

/-- The value of an E8M0 scale (R44): none for the NaN. -/
def e8m0 (e : Nat) : Option Int := if e % 256 = 255 then none else some ((e % 256 : Nat) - 127)

/-- The largest finite magnitude pattern of a format (no sign). -/
def maxPat : Nat → Nat
  | 0 => 0x7E
  | 1 => 0x7B
  | 2 => 0x1F
  | 3 => 0x1F
  | 5 => 0x7F
  | 7 => 0x7F7F
  | _ => 0x7

/-- A magnitude rounded onto a format's grid, without its bound: the pattern it would have (R60). `rnd` shifts and
rounds. -/
def gridPat (fmt : Nat) (rnd : Nat → Int → Int → Nat) (m : Nat) (e : Int) : Nat :=
  if fmt = 5 then rnd m e (-6)
  else
    let F := eFmt fmt
    if m = 0 then 0 else
    let q := max (floorLog2 m e) (1 - (F.bias : Int)) - F.mb
    (q - (1 - (F.bias : Int) - F.mb)).toNat * 2 ^ F.mb + rnd m e q

/-- A signed pattern. -/
def signPat (fmt : Nat) (neg : Bool) (p : Nat) : Nat :=
  if fmt = 5 then (if neg then (256 - p) % 256 else p) else if neg then 2 ^ ((eFmt fmt).w - 1) + p else p

/-- One value converted to an element (R62), after scaling: its pattern and flags. Infinities and NaNs reach here only
where the format writes them as elements; `neg` is the input's sign bit, which a NaN keeps. -/
def convElem (fmt : Nat) (satMode : Bool) (rnd : Nat → Int → Int → Nat) (neg : Bool) : FV → Nat × Flags
  | .nan => (signPat fmt neg (if fmt = 7 then 0x7FC0 else 0x7F), .none)
  | .inf s =>
    if satMode then (signPat fmt s (maxPat fmt), ⟨false, false, true⟩)
    else if fmt = 0 then (signPat fmt s 0x7F, ⟨true, false, false⟩)
    else (signPat fmt s (maxPat fmt + 1), .none)
  | .fin s m e =>
    let p := gridPat fmt rnd m e
    if p ≤ maxPat fmt then (signPat fmt s p, .none)
    else if (fmt = 1 || fmt = 7) && !satMode then (signPat fmt s (maxPat fmt + 1), ⟨false, true, false⟩)
    else (signPat fmt s (maxPat fmt), ⟨false, false, true⟩)

/-- The rounding of one value: nearest even, or stochastic by a lane value (R63). -/
def rounder (sr : Option Nat) : Nat → Int → Int → Nat :=
  match sr with
  | none => shiftRne
  | some n => shiftSr n

/-- max of floor(log2 |v|) over the finite non-zero values: none when there is no such value (R60). -/
def maxLog (vs : List FV) : Option Int :=
  vs.foldl (fun acc v =>
    match v with
    | .fin _ m e => if m = 0 then acc else some (match acc with | none => floorLog2 m e | some a => max a (floorLog2 m e))
    | _ => acc) none

/-- A converted block: elements, scale, SMX4 offsets, flags. -/
structure Block where
  elems : List Nat
  scale : Nat
  offs : Nat
  flags : Flags
deriving DecidableEq, Repr

/-- e = clamp(x + 127, 0, 254). -/
def clampScale (x : Int) : Nat := (max 0 (min 254 (x + 127))).toNat

/-- The conversion of 32 binary32 patterns to a scaled block (R60–R63); `srs` holds the lane values of a stochastic
conversion. -/
def convBlock (fmt : Nat) (satMode : Bool) (vals : List Nat) (srs : Option (List Nat)) : Block :=
  let vs := vals.map fv32
  let noInfNan := 2 ≤ fmt && fmt ≤ 6
  let anyNan := vs.any FV.isNan
  let anyInf := vs.any fun v => !v.isNan && !v.isFin
  let l := maxLog vs
  let x : Int := match l with | none => 0 | some a => if fmt = 6 then a - 2 - 3 else a - emaxOf fmt
  let e := clampScale x
  let off (j : Nat) : Int := if fmt ≠ 6 then 0 else
    match maxLog ((vs.drop (8 * j)).take 8) with
    | none => -4
    | some a => max (-4) (min 3 (a - 2 - ((e : Int) - 127)))
  let offs := if fmt ≠ 6 then 0 else
    (List.range 4).foldl (fun acc j => acc + wrapTo 3 (off j) * 2 ^ (3 * j)) 0
  if noInfNan && (anyNan || (anyInf && !satMode)) then
    ⟨List.replicate 32 0, 0xFF, offs, ⟨anyInf && !satMode, false, false⟩⟩
  else
    let r := (List.range 32).map fun i =>
      let v := vs.getD i .nan
      convElem fmt satMode (rounder (srs.map fun l => l.getD i 0)) (hasBit (vals.getD i 0) 31)
        (v.scale (127 - (e : Int) - off (i / 8)))
    ⟨r.map (·.1), e, offs, r.foldl (fun f p => f.or p.2) .none⟩

/-- The conversion of 16 binary32 patterns to BF16 (R60, R62). -/
def convBf16 (satMode : Bool) (vals : List Nat) (srs : Option (List Nat)) : List Nat × Flags :=
  let r := (List.range 16).map fun i =>
    let b := vals.getD i 0
    convElem 7 satMode (rounder (srs.map fun l => l.getD i 0)) (hasBit b 31) (fv32 b)
  (r.map (·.1), r.foldl (fun f p => f.or p.2) .none)

/-- A run of `w`-bit elements packed with no padding (R45). -/
def packElems (w : Nat) (es : List Nat) : Bytes :=
  leBytes ((es.length * w + 7) / 8) (es.foldr (fun x acc => x % 2 ^ w + 2 ^ w * acc) 0)

/-! The stochastic-rounding generator (R64) -/

/-- One step of a stream. -/
def rngStep (x : Nat) : Nat :=
  let x := (x ^^^ x * 2 ^ 13) % 2 ^ 64
  let x := x ^^^ x / 2 ^ 7
  (x ^^^ x * 2 ^ 17) % 2 ^ 64

/-- The 16 lane values of the streams after a step. -/
def rngLanes (g : List Nat) : List Nat :=
  (List.range 16).map fun i => bitsOf (g.getD (i / 4) 0) (16 * (i % 4) + 15) (16 * (i % 4))

/-- The seed of core reset and of START. -/
def rngSeed (lcore : Nat) : List Nat := (List.range 4).map fun j => lcore * 256 + (j + 1)

/-! The lookup-table function (R59): `t` holds the 770 words of the table image. -/

/-- The largest integer at or below a finite value. -/
def floorFV (neg : Bool) (m : Nat) (e : Int) : Int :=
  let q := min e 0
  atExp neg m e q / (2 ^ (-q).toNat : Nat)

/-- The lookup-table function of one lane. -/
def lutEval (t : List Nat) (x : Nat) : Nat × Flags :=
  if (fv32 x).isNan then (qNaN, .none) else
  let lo := fv32 (t.getD 768 0)
  let s := fv32 (t.getD 769 0)
  let (ub, ov) := bits32 (((fv32 x).add lo.neg).mul s)
  let f0 : Flags := ⟨false, ov, false⟩
  match fv32 ub with
  | .nan => (qNaN, ⟨true, false, false⟩)
  | u =>
    let (i, tt) : Nat × FV :=
      match u with
      | .fin neg m e =>
        let k := floorFV neg m e
        let i := (max 0 (min 255 k)).toNat
        let d := (FV.fin neg m e).add (.fin true i 0)
        (i, if d.lt (.fin false 0 0) then .fin false 0 0 else if (FV.fin false 1 0).lt d then .fin false 1 0 else d)
      | .inf neg => if neg then (0, .fin false 0 0) else (255, .fin false 1 0)
      | .nan => (0, .nan)
    let c (j : Nat) := t.getD (3 * i + j) 0
    let tb := (bits32 tt).1
    let (a, fa) := ffma tb (c 2) (c 1)
    let (y, fy) := ffma tb a (c 0)
    (y, (f0.or fa).or fy)

end Sys2Proof.Machine
end

