-- ==== Sys2Proof/Machine/Matrix.lean ====
section
/-!
DEFINITION. The arithmetic of the matrix unit (R48–R55): what a matrix operation does to an accumulator tile, given a
reading of the operand bytes and the free choices of the grouping (R52, R56).
-/
namespace Sys2Proof.Machine

/-- A named operand tile (R72): array addresses, format code, sparseness. -/
structure Tile where
  elem : Nat
  sc : Nat
  bm : Nat
  fmt : Nat
  sp : Bool
deriving DecidableEq, Repr

/-- The pairing classes of R50: both floating element formats other than BF16, both MXINT8, or both BF16. -/
def pairingOk (fa fb : Nat) : Bool :=
  (fa ≤ 6 && fa ≠ 5 && fb ≤ 6 && fb ≠ 5) || (fa == 5 && fb == 5) || (fa == 7 && fb == 7)

/-- Bytes of a scale group (R48). -/
def scaleGroupBytes (fmt : Nat) : Nat := if fmt = 7 then 0 else if fmt = 6 then 64 else 16

/-- The element of lane `l` in the row whose bytes start at `a` (R45). -/
def laneElem (rd : Nat → Nat) (fmt a l : Nat) : Nat :=
  let w := elemBits fmt
  let bit := w * l
  bitsOf (rd (a + bit / 8) + 256 * rd (a + bit / 8 + 1)) (bit % 8 + w - 1) (bit % 8)

/-- The scale of lane `l` in group `g`: none for the NaN; BF16 has none and counts as 1. -/
def laneScale (rd : Nat → Nat) (t : Tile) (g l : Nat) : Option Int :=
  if t.fmt = 7 then some 0
  else if t.fmt = 6 then e8m0 (rd (t.sc + 64 * g + 4 * l))
  else e8m0 (rd (t.sc + 16 * g + l))

/-- The SMX4 offset of lane `l`, row `j` of group `g`; 0 for other formats (R46). -/
def laneOff (rd : Nat → Nat) (t : Tile) (g l j : Nat) : Int :=
  if t.fmt ≠ 6 then 0
  else
    let a := t.sc + 64 * g + 4 * l
    sext 3 (bitsOf (rd (a + 1) + 256 * rd (a + 2)) (3 * (j / 8) + 2) (3 * (j / 8)))

/-- The present rows of each group of a B operand: every row when dense (R49). -/
def presentRows (rd : Nat → Nat) (b : Tile) (groups : Nat) : List (List Nat) :=
  (List.range groups).map fun g =>
    if b.sp then
      let w := (List.range 4).foldl (fun acc i => acc + rd (b.bm + 4 * g + i) * 256 ^ i) 0
      bitsSet w 32
    else List.range 32

/-- A group that an operation uses: its number, its present rows and how many present rows come before it. -/
structure Grp where
  g : Nat
  rows : List Nat
  before : Nat
deriving DecidableEq, Repr

/-- The groups with a present row, in order. -/
def usedGroups (pr : List (List Nat)) : List Grp :=
  ((pr.zipIdx.foldl (fun (st : List Grp × Nat) p =>
    (if p.1.isEmpty then st.1 else st.1 ++ [⟨p.2, p.1, st.2⟩], st.2 + p.1.length)) ([], 0))).1

/-- The offset of B's row `j` (its place among the present rows of a sparse tile). -/
def bRowAddr (b : Tile) (q : Grp) (j : Nat) : Nat :=
  b.elem + rowBytes b.fmt * (if b.sp then q.before + (q.rows.findIdx (· == j)) else 32 * q.g + j)

/-- The offset of A's row `j` of a group. -/
def aRowAddr (a : Tile) (q : Grp) (j : Nat) : Nat := a.elem + rowBytes a.fmt * (32 * q.g + j)

/-- The byte ranges (address, length) that an operation reads besides the bitmap: A rows, B rows, scales (R49). -/
def operandRanges (a b : Tile) (gs : List Grp) : List (Nat × Nat) :=
  gs.flatMap fun q =>
    (q.rows.map fun j => (aRowAddr a q j, rowBytes a.fmt)) ++
    (q.rows.map fun j => (bRowAddr b q j, rowBytes b.fmt)) ++
    (if a.fmt = 7 then [] else [(a.sc + scaleGroupBytes a.fmt * q.g, scaleGroupBytes a.fmt)]) ++
    (if b.fmt = 7 then [] else [(b.sc + scaleGroupBytes b.fmt * q.g, scaleGroupBytes b.fmt)])

/-- A contribution to one element (R52) and whether an element or a scale of it was NaN. -/
structure Contrib where
  v : FV
  elemNan : Bool
  scaleNan : Bool
deriving DecidableEq, Repr

/-- The contribution of a group to element (m, n): the exact sum, scaled, without rounding. -/
def contribution (rd : Nat → Nat) (a b : Tile) (q : Grp) (m n : Nat) : Contrib :=
  let terms := q.rows.map fun j =>
    ((elemVal a.fmt (laneElem rd a.fmt (aRowAddr a q j) m)).scale (laneOff rd a q.g m j),
     (elemVal b.fmt (laneElem rd b.fmt (bRowAddr b q j) n)).scale (laneOff rd b q.g n j))
  let prods := terms.map fun p => p.1.mul p.2
  let s := match prods with | [] => FV.fin false 0 0 | p :: ps => ps.foldl FV.add p
  let nanE := terms.any fun p => p.1.isNan || p.2.isNan
  match laneScale rd a q.g m, laneScale rd b q.g n with
  | some x, some y => ⟨s.scale (x + y), nanE, false⟩
  | _, _ => ⟨.nan, nanE, true⟩

/-- Contributions added exactly to one another before they meet the accumulator (up to two groups, R52). -/
def Contrib.join (c d : Contrib) : Contrib := ⟨c.v.add d.v, c.elemNan || d.elemNan, c.scaleNan || d.scaleNan⟩

/-- One addition into a binary32 accumulator element (R52, R54). -/
def accAdd (acc : Nat) (c : Contrib) : Nat × Flags :=
  let r := (fv32 acc).add c.v
  let (b, ov) := bits32 r
  (b, ⟨r.isNan && (c.scaleNan || !(c.elemNan || (fv32 acc).isNan)), ov, false⟩)

/-- The used groups as the additions that meet the accumulator: `two k` says whether the addition that starts at the
`k`-th used group takes the next group with it. -/
def groupings (two : Nat → Bool) : Nat → List Grp → List (List Grp)
  | _, [] => []
  | _, [q] => [[q]]
  | k, q :: r :: qs => if two k then [q, r] :: groupings two (k + 2) qs else [q] :: groupings two (k + 1) (r :: qs)

/-- FP32 accumulation into one element. -/
def accFp (rd : Nat → Nat) (a b : Tile) (adds : List (List Grp)) (m n : Nat) (acc : Nat) : Nat × Flags :=
  adds.foldl (fun (st : Nat × Flags) l =>
    match l.map fun q => contribution rd a b q m n with
    | [] => st
    | c :: cs =>
      let (v, f) := accAdd st.1 (cs.foldl Contrib.join c)
      (v, st.2.or f)) (acc, .none)

/-- A signed integer shifted by `d`, right shifts rounding to nearest even (R53). -/
def shiftInt (s d : Int) : Int :=
  let m := shiftRne s.natAbs 0 (-d)
  if s < 0 then -(m : Int) else (m : Int)

/-- Signed addition with saturation to ±(2^31 − 1); 0x8000_0000 is sticky (R53). -/
def satAdd32 (acc : Nat) (i : Int) : Nat × Flags :=
  if acc = 0x80000000 then (acc, .none)
  else
    let s := sext 32 acc + i
    if s > 2 ^ 31 - 1 then (0x7FFFFFFF, ⟨false, false, true⟩)
    else if s < -(2 ^ 31 - 1) then (0x80000001, ⟨false, false, true⟩)
    else (wrapTo 32 s, .none)

/-- INT32 accumulation into one element with tile exponent `E` (R53). -/
def accInt (rd : Nat → Nat) (a b : Tile) (gs : List Grp) (E : Int) (m n : Nat) (acc : Nat) : Nat × Flags :=
  gs.foldl (fun (st : Nat × Flags) q =>
    let s := q.rows.foldl (fun t j =>
      t + sext 8 (laneElem rd 5 (aRowAddr a q j) m) * sext 8 (laneElem rd 5 (bRowAddr b q j) n)) (0 : Int)
    match laneScale rd a q.g m, laneScale rd b q.g n with
    | some x, some y =>
      let (v, f) := satAdd32 st.1 (shiftInt s (x + y - 12 - E))
      (v, st.2.or f)
    | _, _ => (0x80000000, st.2.or ⟨true, false, false⟩)) (acc, .none)

/-- A matrix operation on a tile of 256 elements (element (m, n) at 16m + n) with exponent `E`: the new tile and the
flags. -/
def matTile (rd : Nat → Nat) (a b : Tile) (gs : List Grp) (two : Nat → Bool) (E : Int) (acc : List Nat) :
    List Nat × Flags :=
  let adds := groupings two 0 gs
  let r := (List.range 256).map fun i =>
    if a.fmt = 5 then accInt rd a b gs E (i / 16) (i % 16) (acc.getD i 0)
    else accFp rd a b adds (i / 16) (i % 16) (acc.getD i 0)
  (r.map (·.1), r.foldl (fun f p => f.or p.2) .none)

end Sys2Proof.Machine
end

