-- ==== Sys2Proof/Machine/Mem.lean ====
section
/-!
DEFINITION. Memory: one list of (address, byte) cells in canonical form (addresses strictly rising, no cell equal to
what an unlisted address reads as, which is zero). Its addresses are the model's lines of storage: a GPA without its
package field for HBM and the shared buffer (R22), and `scratchBase` onward for the scratchpads (R39).
-/
namespace Sys2Proof.Machine

/-- Every byte the package stores. -/
abbrev Memory := List Host.Cell

/-- What an unlisted address reads as (R225, "the memory test leaves every line zero"). -/
def Memory.blank : Byte := 0

/-- The canonical form. -/
def Memory.wf : Memory → Bool
  | [] => true
  | [c] => c.2 ≠ Memory.blank
  | c :: c' :: m => c.2 ≠ Memory.blank && c.1 < c'.1 && Memory.wf (c' :: m)

/-- The byte at an address. -/
def Memory.byte : Memory → Nat → Byte
  | [], _ => Memory.blank
  | c :: m, a => if c.1 = a then c.2 else if a < c.1 then Memory.blank else Memory.byte m a

/-- The memory with one byte written. -/
def Memory.setByte : Memory → Nat → Byte → Memory
  | [], a, v => if v = Memory.blank then [] else [(a, v)]
  | c :: m, a, v =>
    if c.1 = a then (if v = Memory.blank then m else (a, v) :: m)
    else if a < c.1 then (if v = Memory.blank then c :: m else (a, v) :: c :: m)
    else c :: Memory.setByte m a v

/-- The `n` bytes from an address. -/
def Memory.bytes (m : Memory) (a : Nat) : Nat → Bytes
  | 0 => []
  | n + 1 => m.byte a :: Memory.bytes m (a + 1) n

/-- The memory with a byte string written from an address. -/
def Memory.setBytes (m : Memory) (a : Nat) : Bytes → Memory
  | [] => m
  | b :: bs => Memory.setBytes (m.setByte a b) (a + 1) bs

/-- The memory with zeros in `[a, a + n)`. -/
def Memory.zero (m : Memory) (a n : Nat) : Memory := m.filter fun c => c.1 < a || a + n ≤ c.1

/-- The ranges (first address, length) of `rs` without `[a, a + n)`. -/
def cutRange (rs : List (Nat × Nat)) (a n : Nat) : List (Nat × Nat) :=
  rs.flatMap fun r =>
    if r.1 + r.2 ≤ a || a + n ≤ r.1 then [r]
    else
      (if r.1 < a then [(r.1, a - r.1)] else []) ++
      (if a + n < r.1 + r.2 then [(a + n, r.1 + r.2 - (a + n))] else [])

/-- Some address of `[a, a + n)` lies in one of the ranges. -/
def touches (rs : List (Nat × Nat)) (a n : Nat) : Bool := rs.any fun r => r.1 < a + n && a < r.1 + r.2

end Sys2Proof.Machine
end

