-- ==== Sys2Proof/Machine/Reg.lean ====
section
/-!
DEFINITION. The registers of the control space (00_scope.md R9, R10): one constructor of `Reg` per register of the
register tables of spec/, under the spec's own name (a run of numbered registers is one constructor, its number part
of the flat index), and the shapes in which the tables are written down.
-/
namespace Sys2Proof.Machine

/-- The registers of the package's control space, in the order of the chapters. -/
inductive Reg where
  -- 02_cores_and_arithmetic.md R37
  | CMP_ID
  | CMP_CELL_CTL
  | CMP_MAP_SEL
  | CMP_MAP_DATA
  | CMP_PSEL
  | CMP_PCTL
  | CMP_PDROP
  | CMP_STAT
  -- 03_plan_words.md R88
  | CMP_CSTAT
  | CMP_CPC
  | CMP_CFIX
  | CMP_CWAIT
  | CMP_TRAP
  | CMP_CNT
  | CMP_LIDX
  -- 03_plan_words.md R89
  | CMP_PBASE
  | CMP_PLIMIT
  | CMP_WTMO
  | CMP_PRUN
  | CMP_PSTAT
  -- 04_tile_engines.md R114
  | TEN_ID
  | TEN_NSHARE
  | TEN_OUT
  | TEN_HALT_LO
  | TEN_HALT_HI
  -- 04_tile_engines.md R115
  | TEN_CTL
  | TEN_LBASE
  | TEN_LLIMIT
  | TEN_WTMO
  | TEN_STAT
  | TEN_ENTRY
  | TEN_PROG
  | TEN_FIDX
  | TEN_FADDR_LO
  | TEN_FADDR_HI
  | TEN_FINFO
  | TEN_FTICK
  -- 04_tile_engines.md R119
  | SBF_ID
  | SBF_OSEL
  | SBF_OWNER
  | SBF_STAT
  -- 05_unfold.md R142
  | UNF_ID
  | UNF_FLT
  -- 05_unfold.md R143
  | UNF_CTL
  | UNF_STAT
  | UNF_FSEG_LO
  | UNF_FSEG_HI
  | UNF_FINFO
  | UNF_GCNT
  | UNF_BUSYC
  -- 06_dispatch.md R163
  | DSP_ID
  | DSP_CTL
  | DSP_LBASE
  | DSP_LLIMIT
  | DSP_WTMO
  | DSP_OVBASE
  | DSP_OVSIZE
  | DSP_STAT
  | DSP_STEP
  | DSP_FINFO
  | DSP_FTICK
  | DSP_NSPILL
  | DSP_NLOST
  | DSP_NNAN
  -- 07_tumblers.md R182
  | TMB_ID
  | TMB_ISEL
  | TMB_VALUE
  | TMB_ADD
  | TMB_WAITS
  | TMB_STAT
  | TMB_NWRAP
  | TMB_NCHK
  | TMB_SWTUMB
  | TMB_SWTHR
  | TMB_SWCTL
  | TMB_SWVAL
  | TMB_BCMASK_LO
  | TMB_BCMASK_HI
  | TMB_BCCMD
  | TMB_RANGE
  -- 09_hbm.md R210
  | HBM_ID
  | HBM_CTL
  | HBM_STAT
  | HBM_TEMP
  | HBM_REFCTL
  | HBM_SCHED
  | HBM_LSEL
  | HBM_LREP
  | HBM_LMARG
  | HBM_NBURST_LO
  | HBM_NBURST_HI
  | HBM_RSEL
  | HBM_RRATE
  | HBM_RLEVEL
  | HBM_RSTALL
  | HBM_RBYTES_LO
  | HBM_RBYTES_HI
  | HBM_RGCAP
  -- 10_protection.md R238
  | HBM_ECE
  | HBM_EUE
  | HBM_EPSN
  | HBM_ELAST
  | HBM_SCRUB
  | HBM_SLAP
  | HBM_SSTAT
  | HBM_NCSEL
  | HBM_NCCTL
  | HBM_BLSEL
  | HBM_BLENT
  | HBM_BLSTAT
  | HBM_BLMIN
  | HBM_PENSEL
  | HBM_PEN_LO
  | HBM_PEN_HI
  | HBM_RETSEL
  | HBM_RET_LO
  | HBM_RET_HI
  | HBM_RETCNT
  | HBM_STEST
  -- 10_protection.md R239
  | SBF_SCRUB
  | SBF_SLAP
  | SBF_SSTAT
  | SBF_ECE
  | SBF_EUE
  | SBF_ELAST
  | SBF_NRMW
  | SBF_ZFILL
  | SBF_STEST
  -- 10_protection.md R240
  | CMP_SCRUB
  | CMP_SLAP
  | CMP_ECE
  | CMP_EUE
  | CMP_STEST
  | CMP_PSTEST
  -- 11_translation.md R265
  | KRG_ID
  | KRG_PKG
  | KRG_EW0_LO
  | KRG_EW0_HI
  | KRG_EW1_LO
  | KRG_EW1_HI
  | KRG_ECMD
  | KRG_ESTAT
  | KRG_QSEL
  | KRG_QUOTA
  | KRG_QUSE
  | KRG_PGEN
  | KRG_FCNT
  | KRG_RKSEL
  | KRG_RKBASE_LO
  | KRG_RKBASE_HI
  | KRG_RKLEN
  | KRG_RKCTL
  | KRG_RKTIME
  | KRG_RKHALT_LO
  | KRG_RKHALT_HI
  | KRG_HWSEL
  | KRG_HWCTL
  | KRG_HWBASE_LO
  | KRG_HWBASE_HI
  | KRG_HWRKEY
  | KRG_HWLEN
  | KRG_IN
  -- 12_hub_knuckles.md R292
  | HUB_ID
  | HUB_SLICE
  | HUB_SSEL
  | HUB_SERR
  | HUB_KMAP
  | HUB_NPATH
  | HUB_RDROP
  | HUB_DBSEL
  | HUB_DB
  | HUB_DBDROP
  | HUB_PFENCE_LO
  | HUB_PFENCE_HI
  | HUB_PDROP
  -- 12_hub_knuckles.md R293
  | KNK_ID
  | KNK_CTL
  | KNK_STAT
  | KNK_LMASK
  | KNK_PMASK
  | KNK_AMASK
  | KNK_QCTL
  | KNK_QERR
  | KNK_RLIM
  | KNK_NREPLAY
  | KNK_NCRC
  | KNK_MSEL
  | KNK_MARG
  | KNK_NFLIT_LO
  | KNK_NFLIT_HI
  -- 13_aux_site.md R302
  | AUX_ID
  | AUX_CTL
  | AUX_STAT
  | AUX_ALLOW
  | AUX_LIMIT
  | AUX_WIN
  | AUX_TRANGE
  | AUX_QCTL
  | AUX_RLIM
  | AUX_NREPLAY
  | AUX_NCRC
  | AUX_DROP
  | AUX_DESC
  -- 14_serdes.md R324
  | SER_ID
  | SER_PRES
  | SER_FLT
  -- 14_serdes.md R325
  | SER_LCTL
  | SER_LSTAT
  | SER_PPM
  | SER_FOMCFG
  | SER_NCORR
  | SER_NUNC
  | SER_NCW_LO
  | SER_NCW_HI
  | SER_NFILL
  | SER_NPRBS
  | SER_RXEQ
  | SER_TXEQ
  | SER_NEVT
  -- 15_package_links.md R347
  | PLK_ID
  | PLK_RSEL
  | PLK_ROUTE
  | PLK_ROUT
  | PLK_TTMO
  | PLK_HOPS
  | PLK_STAT
  | PLK_NFAIL
  | PLK_NLATE
  | PLK_RESERVE
  -- 15_package_links.md R348
  | PLK_PCTL
  | PLK_PSTAT
  | PLK_QCTL
  | PLK_QCORR
  | PLK_RCTL
  | PLK_DOZE
  | PLK_NREPLAY
  | PLK_NCRC
  | PLK_NFRM_LO
  | PLK_NFRM_HI
  | PLK_TRK
  | PLK_QRES
  -- 16_ethernet.md R366
  | ETH_ID
  | ETH_LEAD
  | ETH_CC
  | ETH_CNPGAP
  | ETH_QSEL
  | ETH_RSEL
  | ETH_QCTL
  | ETH_DQPN
  | ETH_SPSN
  | ETH_EPSN
  | ETH_DMAC_LO
  | ETH_DMAC_HI
  | ETH_DIP
  | ETH_RBASE_LO
  | ETH_RBASE_HI
  | ETH_RSLOT
  | ETH_RTUMB
  | ETH_RCNT
  | ETH_QSTAT
  | ETH_CCRATE
  | ETH_RGCTL
  | ETH_RGKEY
  | ETH_RGBASE_LO
  | ETH_RGBASE_HI
  | ETH_RGLEN
  -- 16_ethernet.md R367
  | ETH_PCTL
  | ETH_PSTAT
  | ETH_PRIO
  | ETH_PFCEN
  | ETH_PFCTH
  | ETH_PFCWD
  | ETH_NRX_LO
  | ETH_NRX_HI
  | ETH_NTX_LO
  | ETH_NTX_HI
  | ETH_NFILT
  | ETH_NBUF
  | ETH_NWARD
  | ETH_NPFC
  | ETH_NCNP
  | ETH_NMREF
  -- 17_helham.md R370
  | MBX_ID
  | MBX_IPEND_LO
  | MBX_IPEND_HI
  | MBX_ISEL
  | MBX_ILEN
  | MBX_ISEQ
  | MBX_OSEL
  | MBX_OCTL
  | MBX_ECTL
  | MBX_SUBSEL
  | MBX_SUBCTL
  | MBX_SUBMAC_LO
  | MBX_SUBMAC_HI
  | MBX_SUBIP
  | MBX_SUBCNT
  | MBX_IDATA
  | MBX_ODATA
  | MBX_EDATA
  -- 18_security.md R406
  | WRD_ID
  | WRD_EPOCH
  | WRD_STAT
  | WRD_SVN
  | WRD_PCEIL
  | WRD_ICEIL
  | WRD_LIFE
  | WRD_TXMASK
  | WRD_PSEL
  | WRD_EMAC_LO
  | WRD_EMAC_HI
  | WRD_EIP4
  | WRD_EIP6
  | WRD_EPORT
  | WRD_NREF
  | WRD_MSEL
  | WRD_MDATA
  | WRD_MEXT
  | WRD_MCTL
  | WRD_OPCTL
  | WRD_OIN
  | WRD_OOUT
  -- 19_power_clocks.md R425
  | PWR_ID
  | PWR_STATE
  | PWR_DCTL
  | PWR_WAKE
  | PWR_LCNT_LO
  | PWR_LCNT_HI
  | PWR_CLK
  | PWR_THR
  | PWR_TJ
  | PWR_PDIE
  | PWR_RSEL
  | PWR_RSET
  | PWR_RMEAS
  -- 20_bringup.md R443
  | HUB_LDSRC
  | HUB_LDCEN
  | HUB_LDID
  | HUB_LDCTL
  | HUB_LDCORE
  | HUB_LDTMO
  | HUB_LEVEL
  -- 20_bringup.md R444
  | CMP_LDCTL
  | CMP_LDSTAT
  | CMP_LDMISS
  | CMP_LDERR
  | CMP_LDPEND
  -- 21_faults_ageing.md R451
  | FLT_ID
  | FLT_STAT
  | FLT_HEAD
  | FLT_NEXT
  | FLT_POP
  | FLT_CTL
  | FLT_DSEL
  | FLT_DROP
  | FLT_POST
  | FLT_PCTL
  | FLT_QDATA
  -- 21_faults_ageing.md R461
  | AGE_ID
  | AGE_CTL
  | AGE_STAT
  | AGE_MSEL
  | AGE_MBASE
  | AGE_MVAL
  | AGE_GUARD
  | AGE_ESEL
  | AGE_EFF
  | AGE_ROFF
deriving DecidableEq, Repr

/-- The access codes of R10. -/
inductive Acc where
  | ro | rw | w1c | w1s | wo | rol
deriving DecidableEq, Repr

/-- The power domain that holds a register (R27): a cold reset of it brings the Reset column back (R10). -/
inductive Dom where
  | aon | carrier | compute
deriving DecidableEq, Repr

/-- What a register's Reset column says (R10): a value, a value loaded from fuses, or a dash. -/
inductive RVal where
  | val (n : Nat) | fuse | dash
deriving DecidableEq, Repr

/-- The register, if any, whose fields select the instance that another register acts on. -/
inductive Sel where
  | none | mapSel | psel | pcell | osel | isel | lsel | rsel | blsel | pensel | retsel | qsel | rksel | hwsel
  | ssel | dbsel | msel | plkRsel | ethQsel | ethRsel | mbxIsel | mbxOsel | subsel | wrdPsel | railSel | dsel
  | ageMsel | esel
deriving DecidableEq, Repr

/-- A field of a register: bits [hi:lo]. -/
structure Fld where
  reg : Reg
  hi : Nat
  lo : Nat
deriving DecidableEq, Repr

/-- A line of a register table: the field, its access code and its reset value. -/
structure FldRow where
  fld : Fld
  acc : Acc
  rst : RVal
deriving DecidableEq, Repr

/-- A register's place in a die's control space: its first offset, its dimensions (stride, count; the outermost first),
its selector and its domain. -/
structure RegPlace where
  base : Nat
  dims : List (Nat × Nat)
  sel : Sel
  dom : Dom
deriving DecidableEq, Repr

end Sys2Proof.Machine
end

