-- ==== Sys2Proof/Machine/RegMap.lean ====
section
/-!
DEFINITION. The register tables of spec/ written down: `F.<register>_<field>` is a field's bits, `Reg.rows` its table,
`Reg.place` where the register lies (01_package.md R23 gives the block offsets).
-/
namespace Sys2Proof.Machine
namespace F

def CMP_ID_REV : Fld := ⟨.CMP_ID, 7, 0⟩
def CMP_ID_NCELL : Fld := ⟨.CMP_ID, 15, 8⟩
def CMP_ID_CAP : Fld := ⟨.CMP_ID, 31, 16⟩
def CMP_CELL_CTL_PARK : Fld := ⟨.CMP_CELL_CTL, 3, 0⟩
def CMP_CELL_CTL_CRST : Fld := ⟨.CMP_CELL_CTL, 7, 4⟩
def CMP_MAP_SEL_LCORE : Fld := ⟨.CMP_MAP_SEL, 6, 0⟩
def CMP_MAP_SEL_CELL : Fld := ⟨.CMP_MAP_SEL, 9, 8⟩
def CMP_MAP_DATA_PCORE : Fld := ⟨.CMP_MAP_DATA, 7, 0⟩
def CMP_PSEL_PCORE : Fld := ⟨.CMP_PSEL, 7, 0⟩
def CMP_PSEL_CELL : Fld := ⟨.CMP_PSEL, 9, 8⟩
def CMP_PCTL_DEADBOLT : Fld := ⟨.CMP_PCTL, 0, 0⟩
def CMP_PCTL_MAPPED : Fld := ⟨.CMP_PCTL, 1, 1⟩
def CMP_PCTL_FAILED : Fld := ⟨.CMP_PCTL, 2, 2⟩
def CMP_PCTL_DB_CLEAR : Fld := ⟨.CMP_PCTL, 8, 8⟩
def CMP_PDROP_COUNT : Fld := ⟨.CMP_PDROP, 31, 0⟩
def CMP_STAT_MAPERR : Fld := ⟨.CMP_STAT, 0, 0⟩
def CMP_STAT_DBERR : Fld := ⟨.CMP_STAT, 1, 1⟩
def CMP_CSTAT_STATE : Fld := ⟨.CMP_CSTAT, 2, 0⟩
def CMP_CSTAT_TRAPV : Fld := ⟨.CMP_CSTAT, 3, 3⟩
def CMP_CSTAT_NV : Fld := ⟨.CMP_CSTAT, 4, 4⟩
def CMP_CSTAT_OF : Fld := ⟨.CMP_CSTAT, 5, 5⟩
def CMP_CSTAT_SAT : Fld := ⟨.CMP_CSTAT, 6, 6⟩
def CMP_CSTAT_DEPTH : Fld := ⟨.CMP_CSTAT, 10, 8⟩
def CMP_CPC_PC : Fld := ⟨.CMP_CPC, 14, 0⟩
def CMP_CFIX_COUNT : Fld := ⟨.CMP_CFIX, 15, 0⟩
def CMP_CWAIT_ARMED : Fld := ⟨.CMP_CWAIT, 3, 0⟩
def CMP_CWAIT_MET : Fld := ⟨.CMP_CWAIT, 7, 4⟩
def CMP_TRAP_DATA : Fld := ⟨.CMP_TRAP, 31, 0⟩
def CMP_CNT_VALUE : Fld := ⟨.CMP_CNT, 31, 0⟩
def CMP_LIDX_INDEX : Fld := ⟨.CMP_LIDX, 23, 0⟩
def CMP_PBASE_BASE : Fld := ⟨.CMP_PBASE, 17, 6⟩
def CMP_PLIMIT_LIMIT : Fld := ⟨.CMP_PLIMIT, 18, 6⟩
def CMP_WTMO_TICKS : Fld := ⟨.CMP_WTMO, 23, 0⟩
def CMP_PRUN_START : Fld := ⟨.CMP_PRUN, 0, 0⟩
def CMP_PRUN_ABORT : Fld := ⟨.CMP_PRUN, 1, 1⟩
def CMP_PRUN_PERR : Fld := ⟨.CMP_PRUN, 2, 2⟩
def CMP_PSTAT_NRUN : Fld := ⟨.CMP_PSTAT, 7, 0⟩
def CMP_PSTAT_NTRAP : Fld := ⟨.CMP_PSTAT, 15, 8⟩
def CMP_PSTAT_NDONE : Fld := ⟨.CMP_PSTAT, 23, 16⟩
def TEN_ID_NENG : Fld := ⟨.TEN_ID, 7, 0⟩
def TEN_ID_REV : Fld := ⟨.TEN_ID, 15, 8⟩
def TEN_ID_G16 : Fld := ⟨.TEN_ID, 16, 16⟩
def TEN_NSHARE_SHARE : Fld := ⟨.TEN_NSHARE, 4, 0⟩
def TEN_OUT_COUNT : Fld := ⟨.TEN_OUT, 14, 0⟩
def TEN_HALT_LO_MASK : Fld := ⟨.TEN_HALT_LO, 31, 0⟩
def TEN_HALT_HI_MASK : Fld := ⟨.TEN_HALT_HI, 31, 0⟩
def TEN_CTL_START : Fld := ⟨.TEN_CTL, 0, 0⟩
def TEN_CTL_ABORT : Fld := ⟨.TEN_CTL, 1, 1⟩
def TEN_CTL_RESUME : Fld := ⟨.TEN_CTL, 2, 2⟩
def TEN_CTL_PART : Fld := ⟨.TEN_CTL, 13, 8⟩
def TEN_CTL_ASSIGN : Fld := ⟨.TEN_CTL, 14, 14⟩
def TEN_LBASE_BASE : Fld := ⟨.TEN_LBASE, 22, 0⟩
def TEN_LLIMIT_LIMIT : Fld := ⟨.TEN_LLIMIT, 22, 0⟩
def TEN_WTMO_TICKS : Fld := ⟨.TEN_WTMO, 23, 0⟩
def TEN_STAT_STATE : Fld := ⟨.TEN_STAT, 2, 0⟩
def TEN_STAT_FLTV : Fld := ⟨.TEN_STAT, 3, 3⟩
def TEN_STAT_CAUSE : Fld := ⟨.TEN_STAT, 15, 8⟩
def TEN_STAT_OUT : Fld := ⟨.TEN_STAT, 24, 16⟩
def TEN_ENTRY_INDEX : Fld := ⟨.TEN_ENTRY, 22, 0⟩
def TEN_PROG_NEXT : Fld := ⟨.TEN_PROG, 31, 0⟩
def TEN_FIDX_INDEX : Fld := ⟨.TEN_FIDX, 31, 0⟩
def TEN_FADDR_LO_ADDR : Fld := ⟨.TEN_FADDR_LO, 31, 0⟩
def TEN_FADDR_HI_ADDR : Fld := ⟨.TEN_FADDR_HI, 31, 0⟩
def TEN_FINFO_INFO : Fld := ⟨.TEN_FINFO, 31, 0⟩
def TEN_FTICK_TICK : Fld := ⟨.TEN_FTICK, 31, 0⟩
def SBF_ID_MIB : Fld := ⟨.SBF_ID, 15, 0⟩
def SBF_ID_NBANK : Fld := ⟨.SBF_ID, 24, 16⟩
def SBF_OSEL_MIB : Fld := ⟨.SBF_OSEL, 8, 0⟩
def SBF_OWNER_PART : Fld := ⟨.SBF_OWNER, 5, 0⟩
def SBF_OWNER_REMOTE : Fld := ⟨.SBF_OWNER, 6, 6⟩
def SBF_OWNER_OWNED : Fld := ⟨.SBF_OWNER, 7, 7⟩
def SBF_STAT_OWNERR : Fld := ⟨.SBF_STAT, 0, 0⟩
def UNF_ID_NUNF : Fld := ⟨.UNF_ID, 7, 0⟩
def UNF_ID_NCTX : Fld := ⟨.UNF_ID, 15, 8⟩
def UNF_FLT_MASK : Fld := ⟨.UNF_FLT, 23, 0⟩
def UNF_CTL_PART : Fld := ⟨.UNF_CTL, 5, 0⟩
def UNF_CTL_ASSIGN : Fld := ⟨.UNF_CTL, 6, 6⟩
def UNF_STAT_BUSY : Fld := ⟨.UNF_STAT, 3, 0⟩
def UNF_STAT_FLTV : Fld := ⟨.UNF_STAT, 4, 4⟩
def UNF_STAT_CODE : Fld := ⟨.UNF_STAT, 15, 8⟩
def UNF_STAT_TENG : Fld := ⟨.UNF_STAT, 21, 16⟩
def UNF_FSEG_LO_ADDR : Fld := ⟨.UNF_FSEG_LO, 31, 0⟩
def UNF_FSEG_HI_ADDR : Fld := ⟨.UNF_FSEG_HI, 31, 0⟩
def UNF_FINFO_GROUP : Fld := ⟨.UNF_FINFO, 7, 0⟩
def UNF_FINFO_ROWS : Fld := ⟨.UNF_FINFO, 15, 8⟩
def UNF_FINFO_SEG : Fld := ⟨.UNF_FINFO, 31, 16⟩
def UNF_GCNT_COUNT : Fld := ⟨.UNF_GCNT, 31, 0⟩
def UNF_BUSYC_COUNT : Fld := ⟨.UNF_BUSYC, 31, 0⟩
def DSP_ID_MAXEM1 : Fld := ⟨.DSP_ID, 7, 0⟩
def DSP_ID_MAXK : Fld := ⟨.DSP_ID, 11, 8⟩
def DSP_CTL_START : Fld := ⟨.DSP_CTL, 0, 0⟩
def DSP_CTL_ABORT : Fld := ⟨.DSP_CTL, 1, 1⟩
def DSP_CTL_PART : Fld := ⟨.DSP_CTL, 13, 8⟩
def DSP_CTL_ASSIGN : Fld := ⟨.DSP_CTL, 14, 14⟩
def DSP_LBASE_BASE : Fld := ⟨.DSP_LBASE, 22, 0⟩
def DSP_LLIMIT_LIMIT : Fld := ⟨.DSP_LLIMIT, 22, 0⟩
def DSP_WTMO_TICKS : Fld := ⟨.DSP_WTMO, 23, 0⟩
def DSP_OVBASE_BASE : Fld := ⟨.DSP_OVBASE, 21, 0⟩
def DSP_OVSIZE_SIZE : Fld := ⟨.DSP_OVSIZE, 21, 0⟩
def DSP_STAT_STATE : Fld := ⟨.DSP_STAT, 2, 0⟩
def DSP_STAT_FLTV : Fld := ⟨.DSP_STAT, 3, 3⟩
def DSP_STAT_CAUSE : Fld := ⟨.DSP_STAT, 15, 8⟩
def DSP_STEP_INDEX : Fld := ⟨.DSP_STEP, 22, 0⟩
def DSP_FINFO_INFO : Fld := ⟨.DSP_FINFO, 31, 0⟩
def DSP_FTICK_TICK : Fld := ⟨.DSP_FTICK, 31, 0⟩
def DSP_NSPILL_COUNT : Fld := ⟨.DSP_NSPILL, 31, 0⟩
def DSP_NLOST_COUNT : Fld := ⟨.DSP_NLOST, 31, 0⟩
def DSP_NNAN_COUNT : Fld := ⟨.DSP_NNAN, 31, 0⟩
def TMB_ID_NTUMB : Fld := ⟨.TMB_ID, 16, 0⟩
def TMB_ID_CADD : Fld := ⟨.TMB_ID, 17, 17⟩
def TMB_ID_CADDEN : Fld := ⟨.TMB_ID, 18, 18⟩
def TMB_ISEL_INDEX : Fld := ⟨.TMB_ISEL, 15, 0⟩
def TMB_VALUE_VALUE : Fld := ⟨.TMB_VALUE, 31, 0⟩
def TMB_ADD_AMOUNT : Fld := ⟨.TMB_ADD, 31, 0⟩
def TMB_WAITS_ARMED : Fld := ⟨.TMB_WAITS, 14, 0⟩
def TMB_STAT_RANGEERR : Fld := ⟨.TMB_STAT, 0, 0⟩
def TMB_STAT_CHKERR : Fld := ⟨.TMB_STAT, 1, 1⟩
def TMB_STAT_WRAP : Fld := ⟨.TMB_STAT, 2, 2⟩
def TMB_NWRAP_COUNT : Fld := ⟨.TMB_NWRAP, 31, 0⟩
def TMB_NCHK_COUNT : Fld := ⟨.TMB_NCHK, 31, 0⟩
def TMB_SWTUMB_INDEX : Fld := ⟨.TMB_SWTUMB, 15, 0⟩
def TMB_SWTUMB_DIE : Fld := ⟨.TMB_SWTUMB, 17, 16⟩
def TMB_SWTHR_THR : Fld := ⟨.TMB_SWTHR, 31, 0⟩
def TMB_SWCTL_ARM : Fld := ⟨.TMB_SWCTL, 0, 0⟩
def TMB_SWCTL_WITHDRAW : Fld := ⟨.TMB_SWCTL, 1, 1⟩
def TMB_SWCTL_ARMED : Fld := ⟨.TMB_SWCTL, 2, 2⟩
def TMB_SWCTL_MET : Fld := ⟨.TMB_SWCTL, 3, 3⟩
def TMB_SWVAL_VALUE : Fld := ⟨.TMB_SWVAL, 31, 0⟩
def TMB_BCMASK_LO_CELLS : Fld := ⟨.TMB_BCMASK_LO, 31, 0⟩
def TMB_BCMASK_HI_CELLS : Fld := ⟨.TMB_BCMASK_HI, 15, 0⟩
def TMB_BCCMD_CMD : Fld := ⟨.TMB_BCCMD, 1, 0⟩
def TMB_RANGE_BASE : Fld := ⟨.TMB_RANGE, 9, 0⟩
def TMB_RANGE_NUM : Fld := ⟨.TMB_RANGE, 20, 10⟩
def TMB_RANGE_REMOTE : Fld := ⟨.TMB_RANGE, 21, 21⟩
def HBM_ID_HEIGHT : Fld := ⟨.HBM_ID, 4, 0⟩
def HBM_ID_DENS : Fld := ⟨.HBM_ID, 15, 8⟩
def HBM_ID_NSIDM1 : Fld := ⟨.HBM_ID, 17, 16⟩
def HBM_ID_NREP : Fld := ⟨.HBM_ID, 23, 18⟩
def HBM_CTL_CMD : Fld := ⟨.HBM_CTL, 2, 0⟩
def HBM_STAT_STATE : Fld := ⟨.HBM_STAT, 2, 0⟩
def HBM_STAT_BAND : Fld := ⟨.HBM_STAT, 5, 3⟩
def HBM_STAT_HOT : Fld := ⟨.HBM_STAT, 6, 6⟩
def HBM_STAT_BANDX : Fld := ⟨.HBM_STAT, 7, 7⟩
def HBM_STAT_TRAINERR : Fld := ⟨.HBM_STAT, 8, 8⟩
def HBM_STAT_NERAS : Fld := ⟨.HBM_STAT, 23, 16⟩
def HBM_TEMP_TEMP : Fld := ⟨.HBM_TEMP, 7, 0⟩
def HBM_TEMP_TMAX : Fld := ⟨.HBM_TEMP, 15, 8⟩
def HBM_TEMP_TMAXCLR : Fld := ⟨.HBM_TEMP, 16, 16⟩
def HBM_REFCTL_MINBAND : Fld := ⟨.HBM_REFCTL, 1, 0⟩
def HBM_REFCTL_STRETCH : Fld := ⟨.HBM_REFCTL, 15, 8⟩
def HBM_SCHED_WBATCH : Fld := ⟨.HBM_SCHED, 5, 0⟩
def HBM_SCHED_OPENTMO : Fld := ⟨.HBM_SCHED, 15, 8⟩
def HBM_LSEL_PC : Fld := ⟨.HBM_LSEL, 5, 0⟩
def HBM_LREP_REP0 : Fld := ⟨.HBM_LREP, 7, 0⟩
def HBM_LREP_REP1 : Fld := ⟨.HBM_LREP, 15, 8⟩
def HBM_LREP_ERAS0 : Fld := ⟨.HBM_LREP, 23, 16⟩
def HBM_LREP_ERAS1 : Fld := ⟨.HBM_LREP, 31, 24⟩
def HBM_LMARG_WMIN : Fld := ⟨.HBM_LMARG, 7, 0⟩
def HBM_LMARG_WLANE : Fld := ⟨.HBM_LMARG, 13, 8⟩
def HBM_LMARG_RMIN : Fld := ⟨.HBM_LMARG, 23, 16⟩
def HBM_LMARG_RLANE : Fld := ⟨.HBM_LMARG, 29, 24⟩
def HBM_NBURST_LO_COUNT : Fld := ⟨.HBM_NBURST_LO, 31, 0⟩
def HBM_NBURST_HI_COUNT : Fld := ⟨.HBM_NBURST_HI, 31, 0⟩
def HBM_RSEL_BKT : Fld := ⟨.HBM_RSEL, 5, 0⟩
def HBM_RSEL_GRP : Fld := ⟨.HBM_RSEL, 9, 8⟩
def HBM_RRATE_RATE : Fld := ⟨.HBM_RRATE, 11, 0⟩
def HBM_RRATE_DEPTH : Fld := ⟨.HBM_RRATE, 27, 16⟩
def HBM_RRATE_BORROW : Fld := ⟨.HBM_RRATE, 30, 30⟩
def HBM_RRATE_EN : Fld := ⟨.HBM_RRATE, 31, 31⟩
def HBM_RLEVEL_LEVEL : Fld := ⟨.HBM_RLEVEL, 19, 0⟩
def HBM_RSTALL_COUNT : Fld := ⟨.HBM_RSTALL, 31, 0⟩
def HBM_RBYTES_LO_COUNT : Fld := ⟨.HBM_RBYTES_LO, 31, 0⟩
def HBM_RBYTES_HI_COUNT : Fld := ⟨.HBM_RBYTES_HI, 31, 0⟩
def HBM_RGCAP_GCAP : Fld := ⟨.HBM_RGCAP, 11, 0⟩
def HBM_RGCAP_RATEERR : Fld := ⟨.HBM_RGCAP, 16, 16⟩
def HBM_ECE_COUNT : Fld := ⟨.HBM_ECE, 31, 0⟩
def HBM_EUE_COUNT : Fld := ⟨.HBM_EUE, 31, 0⟩
def HBM_EPSN_COUNT : Fld := ⟨.HBM_EPSN, 31, 0⟩
def HBM_ELAST_PC : Fld := ⟨.HBM_ELAST, 5, 0⟩
def HBM_ELAST_BANK : Fld := ⟨.HBM_ELAST, 9, 6⟩
def HBM_ELAST_SID : Fld := ⟨.HBM_ELAST, 11, 10⟩
def HBM_ELAST_ROW : Fld := ⟨.HBM_ELAST, 25, 12⟩
def HBM_ELAST_COL : Fld := ⟨.HBM_ELAST, 30, 26⟩
def HBM_ELAST_UE : Fld := ⟨.HBM_ELAST, 31, 31⟩
def HBM_SCRUB_EN : Fld := ⟨.HBM_SCRUB, 0, 0⟩
def HBM_SCRUB_SPACE : Fld := ⟨.HBM_SCRUB, 15, 4⟩
def HBM_SCRUB_LAPMAX : Fld := ⟨.HBM_SCRUB, 31, 16⟩
def HBM_SLAP_TICKS : Fld := ⟨.HBM_SLAP, 31, 0⟩
def HBM_SSTAT_LAPS : Fld := ⟨.HBM_SSTAT, 15, 0⟩
def HBM_SSTAT_LAPLATE : Fld := ⟨.HBM_SSTAT, 16, 16⟩
def HBM_NCSEL_REGION : Fld := ⟨.HBM_NCSEL, 16, 0⟩
def HBM_NCCTL_TONARROW : Fld := ⟨.HBM_NCCTL, 0, 0⟩
def HBM_NCCTL_TOWIDE : Fld := ⟨.HBM_NCCTL, 1, 1⟩
def HBM_NCCTL_BUSY : Fld := ⟨.HBM_NCCTL, 2, 2⟩
def HBM_NCCTL_NARROW : Fld := ⟨.HBM_NCCTL, 3, 3⟩
def HBM_BLSEL_PC : Fld := ⟨.HBM_BLSEL, 5, 0⟩
def HBM_BLSEL_BANK : Fld := ⟨.HBM_BLSEL, 11, 6⟩
def HBM_BLSEL_ENTRY : Fld := ⟨.HBM_BLSEL, 16, 12⟩
def HBM_BLENT_ROW : Fld := ⟨.HBM_BLENT, 13, 0⟩
def HBM_BLENT_STATE : Fld := ⟨.HBM_BLENT, 15, 14⟩
def HBM_BLENT_GEN : Fld := ⟨.HBM_BLENT, 17, 16⟩
def HBM_BLSTAT_NCUT : Fld := ⟨.HBM_BLSTAT, 15, 0⟩
def HBM_BLSTAT_NPEND : Fld := ⟨.HBM_BLSTAT, 22, 16⟩
def HBM_BLMIN_FREEMIN : Fld := ⟨.HBM_BLMIN, 5, 0⟩
def HBM_PENSEL_INDEX : Fld := ⟨.HBM_PENSEL, 5, 0⟩
def HBM_PEN_LO_ENTRY : Fld := ⟨.HBM_PEN_LO, 31, 0⟩
def HBM_PEN_HI_ENTRY : Fld := ⟨.HBM_PEN_HI, 31, 0⟩
def HBM_RETSEL_INDEX : Fld := ⟨.HBM_RETSEL, 9, 0⟩
def HBM_RET_LO_ENTRY : Fld := ⟨.HBM_RET_LO, 31, 0⟩
def HBM_RET_HI_ENTRY : Fld := ⟨.HBM_RET_HI, 31, 0⟩
def HBM_RETCNT_COUNT : Fld := ⟨.HBM_RETCNT, 10, 0⟩
def HBM_RETCNT_RETOVF : Fld := ⟨.HBM_RETCNT, 16, 16⟩
def HBM_STEST_RUN : Fld := ⟨.HBM_STEST, 0, 0⟩
def HBM_STEST_DONE : Fld := ⟨.HBM_STEST, 1, 1⟩
def HBM_STEST_FAIL : Fld := ⟨.HBM_STEST, 2, 2⟩
def HBM_STEST_PATTERN : Fld := ⟨.HBM_STEST, 15, 8⟩
def SBF_SCRUB_EN : Fld := ⟨.SBF_SCRUB, 0, 0⟩
def SBF_SCRUB_SPACE : Fld := ⟨.SBF_SCRUB, 15, 4⟩
def SBF_SCRUB_LAPMAX : Fld := ⟨.SBF_SCRUB, 31, 16⟩
def SBF_SLAP_TICKS : Fld := ⟨.SBF_SLAP, 31, 0⟩
def SBF_SSTAT_LAPS : Fld := ⟨.SBF_SSTAT, 15, 0⟩
def SBF_SSTAT_LAPLATE : Fld := ⟨.SBF_SSTAT, 16, 16⟩
def SBF_ECE_COUNT : Fld := ⟨.SBF_ECE, 31, 0⟩
def SBF_EUE_COUNT : Fld := ⟨.SBF_EUE, 31, 0⟩
def SBF_ELAST_BANK : Fld := ⟨.SBF_ELAST, 7, 0⟩
def SBF_ELAST_LINE : Fld := ⟨.SBF_ELAST, 22, 8⟩
def SBF_ELAST_WORD : Fld := ⟨.SBF_ELAST, 23, 23⟩
def SBF_ELAST_UE : Fld := ⟨.SBF_ELAST, 24, 24⟩
def SBF_NRMW_COUNT : Fld := ⟨.SBF_NRMW, 31, 0⟩
def SBF_ZFILL_MIB : Fld := ⟨.SBF_ZFILL, 8, 0⟩
def SBF_ZFILL_GO : Fld := ⟨.SBF_ZFILL, 9, 9⟩
def SBF_ZFILL_BUSY : Fld := ⟨.SBF_ZFILL, 10, 10⟩
def SBF_STEST_RUN : Fld := ⟨.SBF_STEST, 0, 0⟩
def SBF_STEST_DONE : Fld := ⟨.SBF_STEST, 1, 1⟩
def SBF_STEST_FAIL : Fld := ⟨.SBF_STEST, 2, 2⟩
def SBF_STEST_PATTERN : Fld := ⟨.SBF_STEST, 15, 8⟩
def CMP_SCRUB_EN : Fld := ⟨.CMP_SCRUB, 0, 0⟩
def CMP_SCRUB_SPACE : Fld := ⟨.CMP_SCRUB, 15, 4⟩
def CMP_SCRUB_LAPMAX : Fld := ⟨.CMP_SCRUB, 31, 16⟩
def CMP_SLAP_TICKS : Fld := ⟨.CMP_SLAP, 31, 0⟩
def CMP_ECE_COUNT : Fld := ⟨.CMP_ECE, 31, 0⟩
def CMP_EUE_COUNT : Fld := ⟨.CMP_EUE, 31, 0⟩
def CMP_STEST_RUN : Fld := ⟨.CMP_STEST, 0, 0⟩
def CMP_STEST_DONE : Fld := ⟨.CMP_STEST, 1, 1⟩
def CMP_STEST_FAIL : Fld := ⟨.CMP_STEST, 2, 2⟩
def CMP_STEST_NFAIL : Fld := ⟨.CMP_STEST, 25, 16⟩
def CMP_PSTEST_TESTED : Fld := ⟨.CMP_PSTEST, 0, 0⟩
def CMP_PSTEST_PASS : Fld := ⟨.CMP_PSTEST, 1, 1⟩
def KRG_ID_LOG2SETS : Fld := ⟨.KRG_ID, 7, 0⟩
def KRG_ID_WAYS : Fld := ⟨.KRG_ID, 11, 8⟩
def KRG_PKG_PKG : Fld := ⟨.KRG_PKG, 11, 0⟩
def KRG_EW0_LO_WORD : Fld := ⟨.KRG_EW0_LO, 31, 0⟩
def KRG_EW0_HI_WORD : Fld := ⟨.KRG_EW0_HI, 31, 0⟩
def KRG_EW1_LO_WORD : Fld := ⟨.KRG_EW1_LO, 31, 0⟩
def KRG_EW1_HI_WORD : Fld := ⟨.KRG_EW1_HI, 31, 0⟩
def KRG_ECMD_CMD : Fld := ⟨.KRG_ECMD, 2, 0⟩
def KRG_ESTAT_RESULT : Fld := ⟨.KRG_ESTAT, 3, 0⟩
def KRG_ESTAT_BUSY : Fld := ⟨.KRG_ESTAT, 4, 4⟩
def KRG_ESTAT_WAY : Fld := ⟨.KRG_ESTAT, 10, 8⟩
def KRG_QSEL_IDENT : Fld := ⟨.KRG_QSEL, 5, 0⟩
def KRG_QUOTA_MAX : Fld := ⟨.KRG_QUOTA, 21, 0⟩
def KRG_QUSE_COUNT : Fld := ⟨.KRG_QUSE, 21, 0⟩
def KRG_PGEN_GEN : Fld := ⟨.KRG_PGEN, 31, 0⟩
def KRG_FCNT_COUNT : Fld := ⟨.KRG_FCNT, 31, 0⟩
def KRG_RKSEL_IDENT : Fld := ⟨.KRG_RKSEL, 5, 0⟩
def KRG_RKBASE_LO_DVA : Fld := ⟨.KRG_RKBASE_LO, 31, 12⟩
def KRG_RKBASE_HI_DVA : Fld := ⟨.KRG_RKBASE_HI, 24, 0⟩
def KRG_RKLEN_PAGES : Fld := ⟨.KRG_RKLEN, 31, 0⟩
def KRG_RKCTL_GO : Fld := ⟨.KRG_RKCTL, 0, 0⟩
def KRG_RKCTL_ALL : Fld := ⟨.KRG_RKCTL, 1, 1⟩
def KRG_RKCTL_BUSY : Fld := ⟨.KRG_RKCTL, 2, 2⟩
def KRG_RKCTL_TMO : Fld := ⟨.KRG_RKCTL, 3, 3⟩
def KRG_RKTIME_TICKS : Fld := ⟨.KRG_RKTIME, 31, 0⟩
def KRG_RKHALT_LO_MASK : Fld := ⟨.KRG_RKHALT_LO, 31, 0⟩
def KRG_RKHALT_HI_MASK : Fld := ⟨.KRG_RKHALT_HI, 31, 0⟩
def KRG_HWSEL_WIN : Fld := ⟨.KRG_HWSEL, 9, 0⟩
def KRG_HWCTL_QP : Fld := ⟨.KRG_HWCTL, 11, 0⟩
def KRG_HWCTL_EN : Fld := ⟨.KRG_HWCTL, 31, 31⟩
def KRG_HWBASE_LO_HVA : Fld := ⟨.KRG_HWBASE_LO, 31, 12⟩
def KRG_HWBASE_HI_HVA : Fld := ⟨.KRG_HWBASE_HI, 31, 0⟩
def KRG_HWRKEY_RKEY : Fld := ⟨.KRG_HWRKEY, 31, 0⟩
def KRG_HWLEN_PAGES : Fld := ⟨.KRG_HWLEN, 31, 0⟩
def KRG_IN_MASK : Fld := ⟨.KRG_IN, 31, 0⟩
def HUB_ID_NPORT : Fld := ⟨.HUB_ID, 7, 0⟩
def HUB_ID_NSLICE : Fld := ⟨.HUB_ID, 12, 8⟩
def HUB_SLICE_FAIL : Fld := ⟨.HUB_SLICE, 16, 0⟩
def HUB_SLICE_SPARE : Fld := ⟨.HUB_SLICE, 21, 17⟩
def HUB_SSEL_SLICE : Fld := ⟨.HUB_SSEL, 4, 0⟩
def HUB_SERR_COUNT : Fld := ⟨.HUB_SERR, 31, 0⟩
def HUB_KMAP_UP : Fld := ⟨.HUB_KMAP, 3, 0⟩
def HUB_KMAP_EN : Fld := ⟨.HUB_KMAP, 7, 4⟩
def HUB_NPATH_COUNT : Fld := ⟨.HUB_NPATH, 31, 0⟩
def HUB_RDROP_COUNT : Fld := ⟨.HUB_RDROP, 31, 0⟩
def HUB_DBSEL_PCORE : Fld := ⟨.HUB_DBSEL, 7, 0⟩
def HUB_DBSEL_CELL : Fld := ⟨.HUB_DBSEL, 9, 8⟩
def HUB_DBSEL_CDIE : Fld := ⟨.HUB_DBSEL, 11, 10⟩
def HUB_DB_DEADBOLT : Fld := ⟨.HUB_DB, 0, 0⟩
def HUB_DB_DB_CLEAR : Fld := ⟨.HUB_DB, 8, 8⟩
def HUB_DB_DBERR : Fld := ⟨.HUB_DB, 9, 9⟩
def HUB_DBDROP_COUNT : Fld := ⟨.HUB_DBDROP, 31, 0⟩
def HUB_PFENCE_LO_FENCE : Fld := ⟨.HUB_PFENCE_LO, 31, 0⟩
def HUB_PFENCE_HI_FENCE : Fld := ⟨.HUB_PFENCE_HI, 7, 0⟩
def HUB_PDROP_COUNT : Fld := ⟨.HUB_PDROP, 31, 0⟩
def KNK_ID_NMOD : Fld := ⟨.KNK_ID, 4, 0⟩
def KNK_ID_PVER : Fld := ⟨.KNK_ID, 15, 8⟩
def KNK_ID_PVUSE : Fld := ⟨.KNK_ID, 23, 16⟩
def KNK_ID_PEER : Fld := ⟨.KNK_ID, 25, 24⟩
def KNK_CTL_CMD : Fld := ⟨.KNK_CTL, 2, 0⟩
def KNK_CTL_PEND : Fld := ⟨.KNK_CTL, 3, 3⟩
def KNK_STAT_STATE : Fld := ⟨.KNK_STAT, 2, 0⟩
def KNK_STAT_DEGRADED : Fld := ⟨.KNK_STAT, 3, 3⟩
def KNK_STAT_WIDTHERR : Fld := ⟨.KNK_STAT, 4, 4⟩
def KNK_STAT_QUALERR : Fld := ⟨.KNK_STAT, 5, 5⟩
def KNK_STAT_STORM : Fld := ⟨.KNK_STAT, 6, 6⟩
def KNK_STAT_NACT : Fld := ⟨.KNK_STAT, 12, 8⟩
def KNK_LMASK_MASK : Fld := ⟨.KNK_LMASK, 17, 0⟩
def KNK_PMASK_MASK : Fld := ⟨.KNK_PMASK, 17, 0⟩
def KNK_AMASK_MASK : Fld := ⟨.KNK_AMASK, 17, 0⟩
def KNK_QCTL_QTIME : Fld := ⟨.KNK_QCTL, 23, 0⟩
def KNK_QCTL_QMAX : Fld := ⟨.KNK_QCTL, 31, 24⟩
def KNK_QERR_COUNT : Fld := ⟨.KNK_QERR, 31, 0⟩
def KNK_RLIM_LIMIT : Fld := ⟨.KNK_RLIM, 7, 0⟩
def KNK_NREPLAY_COUNT : Fld := ⟨.KNK_NREPLAY, 31, 0⟩
def KNK_NCRC_COUNT : Fld := ⟨.KNK_NCRC, 31, 0⟩
def KNK_MSEL_MOD : Fld := ⟨.KNK_MSEL, 4, 0⟩
def KNK_MARG_WMIN : Fld := ⟨.KNK_MARG, 7, 0⟩
def KNK_MARG_WIRE : Fld := ⟨.KNK_MARG, 14, 8⟩
def KNK_NFLIT_LO_COUNT : Fld := ⟨.KNK_NFLIT_LO, 31, 0⟩
def KNK_NFLIT_HI_COUNT : Fld := ⟨.KNK_NFLIT_HI, 31, 0⟩
def AUX_ID_CAPPED : Fld := ⟨.AUX_ID, 0, 0⟩
def AUX_CTL_CMD : Fld := ⟨.AUX_CTL, 1, 0⟩
def AUX_CTL_PEND : Fld := ⟨.AUX_CTL, 2, 2⟩
def AUX_CTL_FENCE : Fld := ⟨.AUX_CTL, 3, 3⟩
def AUX_STAT_STATE : Fld := ⟨.AUX_STAT, 2, 0⟩
def AUX_STAT_CAUSE : Fld := ⟨.AUX_STAT, 15, 8⟩
def AUX_STAT_RATE : Fld := ⟨.AUX_STAT, 18, 16⟩
def AUX_STAT_PVUSE : Fld := ⟨.AUX_STAT, 20, 19⟩
def AUX_ALLOW_VENDOR : Fld := ⟨.AUX_ALLOW, 15, 0⟩
def AUX_ALLOW_PRODUCT : Fld := ⟨.AUX_ALLOW, 31, 16⟩
def AUX_LIMIT_RATES : Fld := ⟨.AUX_LIMIT, 4, 0⟩
def AUX_LIMIT_PMAX : Fld := ⟨.AUX_LIMIT, 31, 16⟩
def AUX_WIN_WLOG2 : Fld := ⟨.AUX_WIN, 5, 0⟩
def AUX_TRANGE_BASE : Fld := ⟨.AUX_TRANGE, 9, 0⟩
def AUX_TRANGE_NUM : Fld := ⟨.AUX_TRANGE, 20, 10⟩
def AUX_QCTL_QTIME : Fld := ⟨.AUX_QCTL, 23, 0⟩
def AUX_QCTL_QMAX : Fld := ⟨.AUX_QCTL, 31, 24⟩
def AUX_RLIM_LIMIT : Fld := ⟨.AUX_RLIM, 7, 0⟩
def AUX_NREPLAY_COUNT : Fld := ⟨.AUX_NREPLAY, 31, 0⟩
def AUX_NCRC_COUNT : Fld := ⟨.AUX_NCRC, 31, 0⟩
def AUX_DROP_COUNT : Fld := ⟨.AUX_DROP, 31, 0⟩
def AUX_DESC_DATA : Fld := ⟨.AUX_DESC, 31, 0⟩
def SER_ID_NLANE : Fld := ⟨.SER_ID, 4, 0⟩
def SER_PRES_LANES : Fld := ⟨.SER_PRES, 20, 0⟩
def SER_FLT_MASK : Fld := ⟨.SER_FLT, 20, 0⟩
def SER_LCTL_CMD : Fld := ⟨.SER_LCTL, 2, 0⟩
def SER_LCTL_PEND : Fld := ⟨.SER_LCTL, 3, 3⟩
def SER_LCTL_MODE : Fld := ⟨.SER_LCTL, 5, 4⟩
def SER_LCTL_LOOPOK : Fld := ⟨.SER_LCTL, 6, 6⟩
def SER_LCTL_TXDOZE : Fld := ⟨.SER_LCTL, 7, 7⟩
def SER_LCTL_TLOOP : Fld := ⟨.SER_LCTL, 9, 8⟩
def SER_LCTL_PRBS : Fld := ⟨.SER_LCTL, 10, 10⟩
def SER_LSTAT_STATE : Fld := ⟨.SER_LSTAT, 3, 0⟩
def SER_LSTAT_TXDZ : Fld := ⟨.SER_LSTAT, 4, 4⟩
def SER_LSTAT_RXDZ : Fld := ⟨.SER_LSTAT, 5, 5⟩
def SER_LSTAT_LOOPT : Fld := ⟨.SER_LSTAT, 6, 6⟩
def SER_LSTAT_FOM : Fld := ⟨.SER_LSTAT, 15, 8⟩
def SER_LSTAT_LOWFOM : Fld := ⟨.SER_LSTAT, 16, 16⟩
def SER_LSTAT_ELASTIC : Fld := ⟨.SER_LSTAT, 17, 17⟩
def SER_LSTAT_ALIGNLOSS : Fld := ⟨.SER_LSTAT, 18, 18⟩
def SER_LSTAT_TRAINERR : Fld := ⟨.SER_LSTAT, 19, 19⟩
def SER_LSTAT_LOS : Fld := ⟨.SER_LSTAT, 20, 20⟩
def SER_LSTAT_WAKEERR : Fld := ⟨.SER_LSTAT, 21, 21⟩
def SER_PPM_OFFS : Fld := ⟨.SER_PPM, 15, 0⟩
def SER_FOMCFG_FOMMIN : Fld := ⟨.SER_FOMCFG, 7, 0⟩
def SER_FOMCFG_FOMTRN : Fld := ⟨.SER_FOMCFG, 15, 8⟩
def SER_NCORR_COUNT : Fld := ⟨.SER_NCORR, 31, 0⟩
def SER_NUNC_COUNT : Fld := ⟨.SER_NUNC, 31, 0⟩
def SER_NCW_LO_COUNT : Fld := ⟨.SER_NCW_LO, 31, 0⟩
def SER_NCW_HI_COUNT : Fld := ⟨.SER_NCW_HI, 31, 0⟩
def SER_NFILL_DEL : Fld := ⟨.SER_NFILL, 15, 0⟩
def SER_NFILL_INS : Fld := ⟨.SER_NFILL, 31, 16⟩
def SER_NPRBS_COUNT : Fld := ⟨.SER_NPRBS, 31, 0⟩
def SER_RXEQ_CTLE : Fld := ⟨.SER_RXEQ, 4, 0⟩
def SER_RXEQ_DFE1 : Fld := ⟨.SER_RXEQ, 11, 5⟩
def SER_TXEQ_PRE2 : Fld := ⟨.SER_TXEQ, 5, 0⟩
def SER_TXEQ_PRE1 : Fld := ⟨.SER_TXEQ, 11, 6⟩
def SER_TXEQ_MAIN : Fld := ⟨.SER_TXEQ, 17, 12⟩
def SER_TXEQ_POST1 : Fld := ⟨.SER_TXEQ, 23, 18⟩
def SER_NEVT_NLOSS : Fld := ⟨.SER_NEVT, 15, 0⟩
def SER_NEVT_NTRAIN : Fld := ⟨.SER_NEVT, 31, 16⟩
def PLK_ID_NPORT : Fld := ⟨.PLK_ID, 2, 0⟩
def PLK_ID_RSVLANE : Fld := ⟨.PLK_ID, 3, 3⟩
def PLK_RSEL_PKG : Fld := ⟨.PLK_RSEL, 11, 0⟩
def PLK_ROUTE_PRI : Fld := ⟨.PLK_ROUTE, 3, 0⟩
def PLK_ROUTE_PV : Fld := ⟨.PLK_ROUTE, 4, 4⟩
def PLK_ROUTE_ALT1 : Fld := ⟨.PLK_ROUTE, 8, 5⟩
def PLK_ROUTE_A1V : Fld := ⟨.PLK_ROUTE, 9, 9⟩
def PLK_ROUTE_ALT2 : Fld := ⟨.PLK_ROUTE, 13, 10⟩
def PLK_ROUTE_A2V : Fld := ⟨.PLK_ROUTE, 14, 14⟩
def PLK_ROUTE_CUR : Fld := ⟨.PLK_ROUTE, 17, 16⟩
def PLK_ROUTE_HOLD : Fld := ⟨.PLK_ROUTE, 18, 18⟩
def PLK_ROUT_OUT : Fld := ⟨.PLK_ROUT, 12, 0⟩
def PLK_TTMO_TICKS : Fld := ⟨.PLK_TTMO, 23, 0⟩
def PLK_HOPS_INIT : Fld := ⟨.PLK_HOPS, 3, 0⟩
def PLK_STAT_NOROUTE : Fld := ⟨.PLK_STAT, 0, 0⟩
def PLK_STAT_HOPERR : Fld := ⟨.PLK_STAT, 1, 1⟩
def PLK_STAT_TIMEOUT : Fld := ⟨.PLK_STAT, 2, 2⟩
def PLK_NFAIL_COUNT : Fld := ⟨.PLK_NFAIL, 31, 0⟩
def PLK_NLATE_COUNT : Fld := ⟨.PLK_NLATE, 31, 0⟩
def PLK_RESERVE_PORT : Fld := ⟨.PLK_RESERVE, 1, 0⟩
def PLK_RESERVE_EN : Fld := ⟨.PLK_RESERVE, 2, 2⟩
def PLK_RESERVE_INUSE : Fld := ⟨.PLK_RESERVE, 3, 3⟩
def PLK_RESERVE_LIDX : Fld := ⟨.PLK_RESERVE, 5, 4⟩
def PLK_PCTL_CMD : Fld := ⟨.PLK_PCTL, 1, 0⟩
def PLK_PCTL_PEND : Fld := ⟨.PLK_PCTL, 2, 2⟩
def PLK_PCTL_MINL : Fld := ⟨.PLK_PCTL, 5, 3⟩
def PLK_PSTAT_STATE : Fld := ⟨.PLK_PSTAT, 2, 0⟩
def PLK_PSTAT_LANES : Fld := ⟨.PLK_PSTAT, 6, 3⟩
def PLK_PSTAT_RSV : Fld := ⟨.PLK_PSTAT, 7, 7⟩
def PLK_PSTAT_QUALERR : Fld := ⟨.PLK_PSTAT, 8, 8⟩
def PLK_PSTAT_STORM : Fld := ⟨.PLK_PSTAT, 9, 9⟩
def PLK_PSTAT_PEERERR : Fld := ⟨.PLK_PSTAT, 10, 10⟩
def PLK_PSTAT_PEERPKG : Fld := ⟨.PLK_PSTAT, 23, 12⟩
def PLK_PSTAT_PEERPORT : Fld := ⟨.PLK_PSTAT, 27, 24⟩
def PLK_QCTL_QTIME : Fld := ⟨.PLK_QCTL, 23, 0⟩
def PLK_QCORR_MAX : Fld := ⟨.PLK_QCORR, 31, 0⟩
def PLK_RCTL_RLIM : Fld := ⟨.PLK_RCTL, 7, 0⟩
def PLK_RCTL_RMAX : Fld := ⟨.PLK_RCTL, 15, 8⟩
def PLK_RCTL_ATMO : Fld := ⟨.PLK_RCTL, 23, 16⟩
def PLK_DOZE_IDLE : Fld := ⟨.PLK_DOZE, 15, 0⟩
def PLK_NREPLAY_COUNT : Fld := ⟨.PLK_NREPLAY, 31, 0⟩
def PLK_NCRC_COUNT : Fld := ⟨.PLK_NCRC, 31, 0⟩
def PLK_NFRM_LO_COUNT : Fld := ⟨.PLK_NFRM_LO, 31, 0⟩
def PLK_NFRM_HI_COUNT : Fld := ⟨.PLK_NFRM_HI, 31, 0⟩
def PLK_TRK_OUTB : Fld := ⟨.PLK_TRK, 12, 0⟩
def PLK_TRK_INB : Fld := ⟨.PLK_TRK, 28, 16⟩
def PLK_QRES_COUNT : Fld := ⟨.PLK_QRES, 31, 0⟩
def ETH_ID_NPORT : Fld := ⟨.ETH_ID, 1, 0⟩
def ETH_ID_NQP : Fld := ⟨.ETH_ID, 26, 16⟩
def ETH_LEAD_DIE : Fld := ⟨.ETH_LEAD, 1, 0⟩
def ETH_CC_RAI : Fld := ⟨.ETH_CC, 11, 0⟩
def ETH_CC_RMIN : Fld := ⟨.ETH_CC, 23, 12⟩
def ETH_CNPGAP_TICKS : Fld := ⟨.ETH_CNPGAP, 15, 0⟩
def ETH_QSEL_QP : Fld := ⟨.ETH_QSEL, 9, 0⟩
def ETH_RSEL_REGION : Fld := ⟨.ETH_RSEL, 7, 0⟩
def ETH_QCTL_STATE : Fld := ⟨.ETH_QCTL, 1, 0⟩
def ETH_QCTL_PORT : Fld := ⟨.ETH_QCTL, 2, 2⟩
def ETH_QCTL_V6 : Fld := ⟨.ETH_QCTL, 3, 3⟩
def ETH_QCTL_PMTU : Fld := ⟨.ETH_QCTL, 6, 4⟩
def ETH_QCTL_RETRY : Fld := ⟨.ETH_QCTL, 9, 7⟩
def ETH_QCTL_T : Fld := ⟨.ETH_QCTL, 14, 10⟩
def ETH_QCTL_ORD : Fld := ⟨.ETH_QCTL, 21, 15⟩
def ETH_QCTL_RNRT : Fld := ⟨.ETH_QCTL, 26, 22⟩
def ETH_QCTL_RING : Fld := ⟨.ETH_QCTL, 27, 27⟩
def ETH_DQPN_QPN : Fld := ⟨.ETH_DQPN, 23, 0⟩
def ETH_SPSN_PSN : Fld := ⟨.ETH_SPSN, 23, 0⟩
def ETH_EPSN_PSN : Fld := ⟨.ETH_EPSN, 23, 0⟩
def ETH_DMAC_LO_MAC : Fld := ⟨.ETH_DMAC_LO, 31, 0⟩
def ETH_DMAC_HI_MAC : Fld := ⟨.ETH_DMAC_HI, 15, 0⟩
def ETH_DIP_ADDR : Fld := ⟨.ETH_DIP, 31, 0⟩
def ETH_RBASE_LO_GPA : Fld := ⟨.ETH_RBASE_LO, 31, 0⟩
def ETH_RBASE_HI_GPA : Fld := ⟨.ETH_RBASE_HI, 27, 0⟩
def ETH_RSLOT_RN : Fld := ⟨.ETH_RSLOT, 12, 0⟩
def ETH_RTUMB_ARR : Fld := ⟨.ETH_RTUMB, 15, 0⟩
def ETH_RTUMB_FREE : Fld := ⟨.ETH_RTUMB, 31, 16⟩
def ETH_RCNT_COUNT : Fld := ⟨.ETH_RCNT, 31, 0⟩
def ETH_QSTAT_SYND : Fld := ⟨.ETH_QSTAT, 7, 0⟩
def ETH_QSTAT_OUT : Fld := ⟨.ETH_QSTAT, 16, 8⟩
def ETH_CCRATE_RATE : Fld := ⟨.ETH_CCRATE, 11, 0⟩
def ETH_RGCTL_EN : Fld := ⟨.ETH_RGCTL, 0, 0⟩
def ETH_RGCTL_R : Fld := ⟨.ETH_RGCTL, 1, 1⟩
def ETH_RGCTL_W : Fld := ⟨.ETH_RGCTL, 2, 2⟩
def ETH_RGCTL_ALLQP : Fld := ⟨.ETH_RGCTL, 3, 3⟩
def ETH_RGCTL_QP : Fld := ⟨.ETH_RGCTL, 13, 4⟩
def ETH_RGKEY_RKEY : Fld := ⟨.ETH_RGKEY, 31, 0⟩
def ETH_RGBASE_LO_GPA : Fld := ⟨.ETH_RGBASE_LO, 31, 0⟩
def ETH_RGBASE_HI_GPA : Fld := ⟨.ETH_RGBASE_HI, 27, 0⟩
def ETH_RGLEN_PAGES : Fld := ⟨.ETH_RGLEN, 31, 0⟩
def ETH_PCTL_CMD : Fld := ⟨.ETH_PCTL, 1, 0⟩
def ETH_PCTL_PEND : Fld := ⟨.ETH_PCTL, 2, 2⟩
def ETH_PCTL_PHY : Fld := ⟨.ETH_PCTL, 3, 3⟩
def ETH_PSTAT_STATE : Fld := ⟨.ETH_PSTAT, 2, 0⟩
def ETH_PSTAT_ANERR : Fld := ⟨.ETH_PSTAT, 3, 3⟩
def ETH_PSTAT_PFCWD : Fld := ⟨.ETH_PSTAT, 4, 4⟩
def ETH_PRIO_ROCE : Fld := ⟨.ETH_PRIO, 2, 0⟩
def ETH_PRIO_CTL : Fld := ⟨.ETH_PRIO, 5, 3⟩
def ETH_PRIO_ROCEDSCP : Fld := ⟨.ETH_PRIO, 11, 6⟩
def ETH_PRIO_CTLDSCP : Fld := ⟨.ETH_PRIO, 17, 12⟩
def ETH_PFCEN_PRIO : Fld := ⟨.ETH_PFCEN, 7, 0⟩
def ETH_PFCTH_XOFF : Fld := ⟨.ETH_PFCTH, 11, 0⟩
def ETH_PFCTH_XON : Fld := ⟨.ETH_PFCTH, 23, 12⟩
def ETH_PFCWD_TICKS : Fld := ⟨.ETH_PFCWD, 23, 0⟩
def ETH_NRX_LO_COUNT : Fld := ⟨.ETH_NRX_LO, 31, 0⟩
def ETH_NRX_HI_COUNT : Fld := ⟨.ETH_NRX_HI, 31, 0⟩
def ETH_NTX_LO_COUNT : Fld := ⟨.ETH_NTX_LO, 31, 0⟩
def ETH_NTX_HI_COUNT : Fld := ⟨.ETH_NTX_HI, 31, 0⟩
def ETH_NFILT_COUNT : Fld := ⟨.ETH_NFILT, 31, 0⟩
def ETH_NBUF_COUNT : Fld := ⟨.ETH_NBUF, 31, 0⟩
def ETH_NWARD_COUNT : Fld := ⟨.ETH_NWARD, 31, 0⟩
def ETH_NPFC_RX : Fld := ⟨.ETH_NPFC, 15, 0⟩
def ETH_NPFC_TX : Fld := ⟨.ETH_NPFC, 31, 16⟩
def ETH_NCNP_RX : Fld := ⟨.ETH_NCNP, 15, 0⟩
def ETH_NCNP_TX : Fld := ⟨.ETH_NCNP, 31, 16⟩
def ETH_NMREF_COUNT : Fld := ⟨.ETH_NMREF, 31, 0⟩
def MBX_ID_NIN : Fld := ⟨.MBX_ID, 6, 0⟩
def MBX_ID_NOUT : Fld := ⟨.MBX_ID, 14, 8⟩
def MBX_IPEND_LO_SLOTS : Fld := ⟨.MBX_IPEND_LO, 31, 0⟩
def MBX_IPEND_HI_SLOTS : Fld := ⟨.MBX_IPEND_HI, 30, 0⟩
def MBX_ISEL_SLOT : Fld := ⟨.MBX_ISEL, 5, 0⟩
def MBX_ILEN_LEN : Fld := ⟨.MBX_ILEN, 12, 0⟩
def MBX_ILEN_PORT : Fld := ⟨.MBX_ILEN, 18, 16⟩
def MBX_ISEQ_SEQ : Fld := ⟨.MBX_ISEQ, 31, 0⟩
def MBX_OSEL_SLOT : Fld := ⟨.MBX_OSEL, 5, 0⟩
def MBX_OCTL_LEN : Fld := ⟨.MBX_OCTL, 12, 0⟩
def MBX_OCTL_SEND : Fld := ⟨.MBX_OCTL, 16, 16⟩
def MBX_OCTL_HELD : Fld := ⟨.MBX_OCTL, 17, 17⟩
def MBX_ECTL_LEN : Fld := ⟨.MBX_ECTL, 12, 0⟩
def MBX_ECTL_SUB : Fld := ⟨.MBX_ECTL, 15, 13⟩
def MBX_ECTL_SEND : Fld := ⟨.MBX_ECTL, 16, 16⟩
def MBX_ECTL_BUSY : Fld := ⟨.MBX_ECTL, 17, 17⟩
def MBX_SUBSEL_SUB : Fld := ⟨.MBX_SUBSEL, 2, 0⟩
def MBX_SUBCTL_EN : Fld := ⟨.MBX_SUBCTL, 0, 0⟩
def MBX_SUBCTL_V6 : Fld := ⟨.MBX_SUBCTL, 1, 1⟩
def MBX_SUBCTL_PORT : Fld := ⟨.MBX_SUBCTL, 4, 2⟩
def MBX_SUBCTL_SLOT : Fld := ⟨.MBX_SUBCTL, 10, 5⟩
def MBX_SUBCTL_UDP : Fld := ⟨.MBX_SUBCTL, 31, 16⟩
def MBX_SUBMAC_LO_MAC : Fld := ⟨.MBX_SUBMAC_LO, 31, 0⟩
def MBX_SUBMAC_HI_MAC : Fld := ⟨.MBX_SUBMAC_HI, 15, 0⟩
def MBX_SUBIP_ADDR : Fld := ⟨.MBX_SUBIP, 31, 0⟩
def MBX_SUBCNT_COUNT : Fld := ⟨.MBX_SUBCNT, 31, 0⟩
def MBX_IDATA_DATA : Fld := ⟨.MBX_IDATA, 31, 0⟩
def MBX_ODATA_DATA : Fld := ⟨.MBX_ODATA, 31, 0⟩
def MBX_EDATA_DATA : Fld := ⟨.MBX_EDATA, 31, 0⟩
def WRD_ID_REV : Fld := ⟨.WRD_ID, 7, 0⟩
def WRD_ID_KGEN : Fld := ⟨.WRD_ID, 9, 8⟩
def WRD_ID_KEYV : Fld := ⟨.WRD_ID, 10, 10⟩
def WRD_ID_COSIGN : Fld := ⟨.WRD_ID, 11, 11⟩
def WRD_ID_REVOKED : Fld := ⟨.WRD_ID, 15, 12⟩
def WRD_EPOCH_EPOCH : Fld := ⟨.WRD_EPOCH, 31, 0⟩
def WRD_STAT_BOOTLOCK : Fld := ⟨.WRD_STAT, 0, 0⟩
def WRD_STAT_BOOTFAIL : Fld := ⟨.WRD_STAT, 1, 1⟩
def WRD_STAT_DEBUG : Fld := ⟨.WRD_STAT, 3, 2⟩
def WRD_STAT_THROTTLE : Fld := ⟨.WRD_STAT, 4, 4⟩
def WRD_SVN_SVN : Fld := ⟨.WRD_SVN, 6, 0⟩
def WRD_SVN_RBCOUNT : Fld := ⟨.WRD_SVN, 14, 8⟩
def WRD_PCEIL_WATTS : Fld := ⟨.WRD_PCEIL, 11, 0⟩
def WRD_ICEIL_AMPS : Fld := ⟨.WRD_ICEIL, 10, 0⟩
def WRD_LIFE_STEPS : Fld := ⟨.WRD_LIFE, 3, 0⟩
def WRD_TXMASK_PORTS : Fld := ⟨.WRD_TXMASK, 15, 0⟩
def WRD_PSEL_PORT : Fld := ⟨.WRD_PSEL, 2, 0⟩
def WRD_EMAC_LO_MAC : Fld := ⟨.WRD_EMAC_LO, 31, 0⟩
def WRD_EMAC_HI_MAC : Fld := ⟨.WRD_EMAC_HI, 15, 0⟩
def WRD_EIP4_ADDR : Fld := ⟨.WRD_EIP4, 31, 0⟩
def WRD_EIP6_ADDR : Fld := ⟨.WRD_EIP6, 31, 0⟩
def WRD_EPORT_VLAN : Fld := ⟨.WRD_EPORT, 11, 0⟩
def WRD_EPORT_CEIL : Fld := ⟨.WRD_EPORT, 24, 16⟩
def WRD_NREF_COUNT : Fld := ⟨.WRD_NREF, 31, 0⟩
def WRD_MSEL_MEAS : Fld := ⟨.WRD_MSEL, 1, 0⟩
def WRD_MSEL_WORD : Fld := ⟨.WRD_MSEL, 4, 2⟩
def WRD_MDATA_DATA : Fld := ⟨.WRD_MDATA, 31, 0⟩
def WRD_MEXT_DATA : Fld := ⟨.WRD_MEXT, 31, 0⟩
def WRD_MCTL_EXTEND : Fld := ⟨.WRD_MCTL, 0, 0⟩
def WRD_OPCTL_OP : Fld := ⟨.WRD_OPCTL, 3, 0⟩
def WRD_OPCTL_GO : Fld := ⟨.WRD_OPCTL, 4, 4⟩
def WRD_OPCTL_BUSY : Fld := ⟨.WRD_OPCTL, 5, 5⟩
def WRD_OPCTL_ERR : Fld := ⟨.WRD_OPCTL, 6, 6⟩
def WRD_OIN_DATA : Fld := ⟨.WRD_OIN, 31, 0⟩
def WRD_OOUT_DATA : Fld := ⟨.WRD_OOUT, 31, 0⟩
def PWR_ID_REV : Fld := ⟨.PWR_ID, 7, 0⟩
def PWR_STATE_CUR : Fld := ⟨.PWR_STATE, 2, 0⟩
def PWR_STATE_TGT : Fld := ⟨.PWR_STATE, 5, 3⟩
def PWR_STATE_BUSY : Fld := ⟨.PWR_STATE, 6, 6⟩
def PWR_STATE_TRIPPED : Fld := ⟨.PWR_STATE, 7, 7⟩
def PWR_STATE_FAST : Fld := ⟨.PWR_STATE, 8, 8⟩
def PWR_DCTL_TARGET : Fld := ⟨.PWR_DCTL, 2, 0⟩
def PWR_DCTL_GO : Fld := ⟨.PWR_DCTL, 3, 3⟩
def PWR_DCTL_PEND : Fld := ⟨.PWR_DCTL, 4, 4⟩
def PWR_DCTL_PTGT : Fld := ⟨.PWR_DCTL, 7, 5⟩
def PWR_DCTL_REFUSED : Fld := ⟨.PWR_DCTL, 8, 8⟩
def PWR_WAKE_PULSE : Fld := ⟨.PWR_WAKE, 0, 0⟩
def PWR_WAKE_COUNT : Fld := ⟨.PWR_WAKE, 15, 8⟩
def PWR_LCNT_LO_COUNT : Fld := ⟨.PWR_LCNT_LO, 31, 0⟩
def PWR_LCNT_HI_COUNT : Fld := ⟨.PWR_LCNT_HI, 31, 0⟩
def PWR_CLK_SLOWOK : Fld := ⟨.PWR_CLK, 0, 0⟩
def PWR_CLK_SLOWLOSS : Fld := ⟨.PWR_CLK, 1, 1⟩
def PWR_CLK_REFOK : Fld := ⟨.PWR_CLK, 2, 2⟩
def PWR_CLK_REFLOSS : Fld := ⟨.PWR_CLK, 3, 3⟩
def PWR_CLK_HUBLOCK : Fld := ⟨.PWR_CLK, 4, 4⟩
def PWR_CLK_CMPLOCK : Fld := ⟨.PWR_CLK, 7, 5⟩
def PWR_CLK_HBMLOCK : Fld := ⟨.PWR_CLK, 11, 8⟩
def PWR_CLK_KNKLOCK : Fld := ⟨.PWR_CLK, 13, 12⟩
def PWR_THR_DUTYM1 : Fld := ⟨.PWR_THR, 3, 0⟩
def PWR_THR_TEMP : Fld := ⟨.PWR_THR, 4, 4⟩
def PWR_THR_PCEIL : Fld := ⟨.PWR_THR, 5, 5⟩
def PWR_THR_ICEIL : Fld := ⟨.PWR_THR, 6, 6⟩
def PWR_THR_NTHR : Fld := ⟨.PWR_THR, 31, 16⟩
def PWR_TJ_TJMAX : Fld := ⟨.PWR_TJ, 7, 0⟩
def PWR_TJ_TJPEAK : Fld := ⟨.PWR_TJ, 15, 8⟩
def PWR_TJ_PEAKCLR : Fld := ⟨.PWR_TJ, 16, 16⟩
def PWR_PDIE_WATTS : Fld := ⟨.PWR_PDIE, 11, 0⟩
def PWR_PDIE_PKG : Fld := ⟨.PWR_PDIE, 27, 16⟩
def PWR_RSEL_RAIL : Fld := ⟨.PWR_RSEL, 3, 0⟩
def PWR_RSET_MV : Fld := ⟨.PWR_RSET, 10, 0⟩
def PWR_RMEAS_MV : Fld := ⟨.PWR_RMEAS, 10, 0⟩
def PWR_RMEAS_CURR : Fld := ⟨.PWR_RMEAS, 31, 16⟩
def HUB_LDSRC_BASE : Fld := ⟨.HUB_LDSRC, 22, 0⟩
def HUB_LDCEN_INDEX : Fld := ⟨.HUB_LDCEN, 15, 0⟩
def HUB_LDCEN_DIE : Fld := ⟨.HUB_LDCEN, 17, 16⟩
def HUB_LDID_IMGID : Fld := ⟨.HUB_LDID, 31, 0⟩
def HUB_LDCTL_NCHM1 : Fld := ⟨.HUB_LDCTL, 4, 0⟩
def HUB_LDCTL_CHUNK : Fld := ⟨.HUB_LDCTL, 12, 8⟩
def HUB_LDCTL_UNI : Fld := ⟨.HUB_LDCTL, 13, 13⟩
def HUB_LDCTL_GO : Fld := ⟨.HUB_LDCTL, 14, 14⟩
def HUB_LDCTL_BUSY : Fld := ⟨.HUB_LDCTL, 15, 15⟩
def HUB_LDCTL_CELLMASK : Fld := ⟨.HUB_LDCTL, 27, 16⟩
def HUB_LDCORE_PCORE : Fld := ⟨.HUB_LDCORE, 7, 0⟩
def HUB_LDCORE_CELL : Fld := ⟨.HUB_LDCORE, 9, 8⟩
def HUB_LDCORE_CDIE : Fld := ⟨.HUB_LDCORE, 11, 10⟩
def HUB_LDTMO_TICKS : Fld := ⟨.HUB_LDTMO, 15, 0⟩
def HUB_LEVEL_B0OK : Fld := ⟨.HUB_LEVEL, 0, 0⟩
def CMP_LDCTL_LOAD : Fld := ⟨.CMP_LDCTL, 3, 0⟩
def CMP_LDCTL_TEST : Fld := ⟨.CMP_LDCTL, 7, 4⟩
def CMP_LDSTAT_STATE : Fld := ⟨.CMP_LDSTAT, 2, 0⟩
def CMP_LDSTAT_TDONE : Fld := ⟨.CMP_LDSTAT, 3, 3⟩
def CMP_LDSTAT_TPASS : Fld := ⟨.CMP_LDSTAT, 4, 4⟩
def CMP_LDSTAT_NCHM1 : Fld := ⟨.CMP_LDSTAT, 12, 8⟩
def CMP_LDMISS_CHUNKS : Fld := ⟨.CMP_LDMISS, 31, 0⟩
def CMP_LDERR_CRC : Fld := ⟨.CMP_LDERR, 15, 0⟩
def CMP_LDERR_MISMATCH : Fld := ⟨.CMP_LDERR, 31, 16⟩
def CMP_LDPEND_CORES : Fld := ⟨.CMP_LDPEND, 31, 0⟩
def FLT_ID_DEPTH : Fld := ⟨.FLT_ID, 10, 0⟩
def FLT_ID_NCLASS : Fld := ⟨.FLT_ID, 23, 16⟩
def FLT_STAT_COUNT : Fld := ⟨.FLT_STAT, 10, 0⟩
def FLT_STAT_OVF : Fld := ⟨.FLT_STAT, 16, 16⟩
def FLT_STAT_FULL : Fld := ⟨.FLT_STAT, 17, 17⟩
def FLT_HEAD_INDEX : Fld := ⟨.FLT_HEAD, 9, 0⟩
def FLT_NEXT_SEQ : Fld := ⟨.FLT_NEXT, 15, 0⟩
def FLT_POP_N : Fld := ⟨.FLT_POP, 10, 0⟩
def FLT_CTL_IRQ : Fld := ⟨.FLT_CTL, 0, 0⟩
def FLT_CTL_ALERTOVF : Fld := ⟨.FLT_CTL, 1, 1⟩
def FLT_DSEL_CLASS : Fld := ⟨.FLT_DSEL, 3, 0⟩
def FLT_DROP_COUNT : Fld := ⟨.FLT_DROP, 31, 0⟩
def FLT_POST_DATA : Fld := ⟨.FLT_POST, 31, 0⟩
def FLT_PCTL_GO : Fld := ⟨.FLT_PCTL, 0, 0⟩
def FLT_PCTL_DROPPED : Fld := ⟨.FLT_PCTL, 1, 1⟩
def FLT_QDATA_DATA : Fld := ⟨.FLT_QDATA, 31, 0⟩
def AGE_ID_NMON : Fld := ⟨.AGE_ID, 6, 0⟩
def AGE_ID_NRAIL : Fld := ⟨.AGE_ID, 19, 16⟩
def AGE_CTL_EN : Fld := ⟨.AGE_CTL, 0, 0⟩
def AGE_CTL_SAMPLE : Fld := ⟨.AGE_CTL, 1, 1⟩
def AGE_CTL_PERIOD : Fld := ⟨.AGE_CTL, 31, 16⟩
def AGE_STAT_BUSY : Fld := ⟨.AGE_STAT, 0, 0⟩
def AGE_STAT_DRIFT : Fld := ⟨.AGE_STAT, 1, 1⟩
def AGE_STAT_NSAMP : Fld := ⟨.AGE_STAT, 31, 16⟩
def AGE_MSEL_MON : Fld := ⟨.AGE_MSEL, 5, 0⟩
def AGE_MBASE_DELAY : Fld := ⟨.AGE_MBASE, 15, 0⟩
def AGE_MBASE_RAIL : Fld := ⟨.AGE_MBASE, 19, 16⟩
def AGE_MVAL_DELAY : Fld := ⟨.AGE_MVAL, 15, 0⟩
def AGE_MVAL_TJ : Fld := ⟨.AGE_MVAL, 23, 16⟩
def AGE_GUARD_PCT : Fld := ⟨.AGE_GUARD, 7, 0⟩
def AGE_GUARD_DRIFTMAX : Fld := ⟨.AGE_GUARD, 15, 8⟩
def AGE_ESEL_RAIL : Fld := ⟨.AGE_ESEL, 3, 0⟩
def AGE_EFF_EFF : Fld := ⟨.AGE_EFF, 7, 0⟩
def AGE_EFF_EFFMIN : Fld := ⟨.AGE_EFF, 15, 8⟩
def AGE_ROFF_STEPS : Fld := ⟨.AGE_ROFF, 3, 0⟩
def AGE_ROFF_PEND : Fld := ⟨.AGE_ROFF, 11, 8⟩
def AGE_ROFF_PENDV : Fld := ⟨.AGE_ROFF, 12, 12⟩

end F

/-- The register tables: each register's fields, in the order of its table; bits no field covers are reserved (R11). -/
def Reg.rows : Reg → List FldRow
  | .CMP_ID => [⟨F.CMP_ID_REV, .ro, .fuse⟩, ⟨F.CMP_ID_NCELL, .ro, .val 4⟩, ⟨F.CMP_ID_CAP, .ro, .fuse⟩]
  | .CMP_CELL_CTL => [⟨F.CMP_CELL_CTL_PARK, .rw, .val 15⟩, ⟨F.CMP_CELL_CTL_CRST, .w1s, .val 0⟩]
  | .CMP_MAP_SEL => [⟨F.CMP_MAP_SEL_LCORE, .rw, .val 0⟩, ⟨F.CMP_MAP_SEL_CELL, .rw, .val 0⟩]
  | .CMP_MAP_DATA => [⟨F.CMP_MAP_DATA_PCORE, .rw, .fuse⟩]
  | .CMP_PSEL => [⟨F.CMP_PSEL_PCORE, .rw, .val 0⟩, ⟨F.CMP_PSEL_CELL, .rw, .val 0⟩]
  | .CMP_PCTL => [⟨F.CMP_PCTL_DEADBOLT, .w1s, .val 0⟩, ⟨F.CMP_PCTL_MAPPED, .ro, .dash⟩, ⟨F.CMP_PCTL_FAILED, .rw, .fuse⟩, ⟨F.CMP_PCTL_DB_CLEAR, .wo, .val 0⟩]
  | .CMP_PDROP => [⟨F.CMP_PDROP_COUNT, .ro, .val 0⟩]
  | .CMP_STAT => [⟨F.CMP_STAT_MAPERR, .w1c, .val 0⟩, ⟨F.CMP_STAT_DBERR, .w1c, .val 0⟩]
  | .CMP_CSTAT => [⟨F.CMP_CSTAT_STATE, .ro, .val 0⟩, ⟨F.CMP_CSTAT_TRAPV, .ro, .val 0⟩, ⟨F.CMP_CSTAT_NV, .ro, .val 0⟩, ⟨F.CMP_CSTAT_OF, .ro, .val 0⟩, ⟨F.CMP_CSTAT_SAT, .ro, .val 0⟩, ⟨F.CMP_CSTAT_DEPTH, .ro, .val 0⟩]
  | .CMP_CPC => [⟨F.CMP_CPC_PC, .ro, .val 0⟩]
  | .CMP_CFIX => [⟨F.CMP_CFIX_COUNT, .ro, .val 0⟩]
  | .CMP_CWAIT => [⟨F.CMP_CWAIT_ARMED, .ro, .val 0⟩, ⟨F.CMP_CWAIT_MET, .ro, .val 0⟩]
  | .CMP_TRAP => [⟨F.CMP_TRAP_DATA, .ro, .val 0⟩]
  | .CMP_CNT => [⟨F.CMP_CNT_VALUE, .ro, .val 0⟩]
  | .CMP_LIDX => [⟨F.CMP_LIDX_INDEX, .ro, .val 0⟩]
  | .CMP_PBASE => [⟨F.CMP_PBASE_BASE, .rw, .val 0⟩]
  | .CMP_PLIMIT => [⟨F.CMP_PLIMIT_LIMIT, .rw, .val 0⟩]
  | .CMP_WTMO => [⟨F.CMP_WTMO_TICKS, .rw, .val 0⟩]
  | .CMP_PRUN => [⟨F.CMP_PRUN_START, .w1s, .val 0⟩, ⟨F.CMP_PRUN_ABORT, .w1s, .val 0⟩, ⟨F.CMP_PRUN_PERR, .w1c, .val 0⟩]
  | .CMP_PSTAT => [⟨F.CMP_PSTAT_NRUN, .ro, .val 0⟩, ⟨F.CMP_PSTAT_NTRAP, .ro, .val 0⟩, ⟨F.CMP_PSTAT_NDONE, .ro, .val 0⟩]
  | .TEN_ID => [⟨F.TEN_ID_NENG, .ro, .val 64⟩, ⟨F.TEN_ID_REV, .ro, .fuse⟩, ⟨F.TEN_ID_G16, .ro, .fuse⟩]
  | .TEN_NSHARE => [⟨F.TEN_NSHARE_SHARE, .rw, .val 8⟩]
  | .TEN_OUT => [⟨F.TEN_OUT_COUNT, .ro, .val 0⟩]
  | .TEN_HALT_LO => [⟨F.TEN_HALT_LO_MASK, .ro, .val 0⟩]
  | .TEN_HALT_HI => [⟨F.TEN_HALT_HI_MASK, .ro, .val 0⟩]
  | .TEN_CTL => [⟨F.TEN_CTL_START, .w1s, .val 0⟩, ⟨F.TEN_CTL_ABORT, .w1s, .val 0⟩, ⟨F.TEN_CTL_RESUME, .w1s, .val 0⟩, ⟨F.TEN_CTL_PART, .rw, .val 0⟩, ⟨F.TEN_CTL_ASSIGN, .rw, .val 0⟩]
  | .TEN_LBASE => [⟨F.TEN_LBASE_BASE, .rw, .val 0⟩]
  | .TEN_LLIMIT => [⟨F.TEN_LLIMIT_LIMIT, .rw, .val 0⟩]
  | .TEN_WTMO => [⟨F.TEN_WTMO_TICKS, .rw, .val 0⟩]
  | .TEN_STAT => [⟨F.TEN_STAT_STATE, .ro, .val 0⟩, ⟨F.TEN_STAT_FLTV, .ro, .val 0⟩, ⟨F.TEN_STAT_CAUSE, .ro, .val 0⟩, ⟨F.TEN_STAT_OUT, .ro, .val 0⟩]
  | .TEN_ENTRY => [⟨F.TEN_ENTRY_INDEX, .ro, .val 0⟩]
  | .TEN_PROG => [⟨F.TEN_PROG_NEXT, .ro, .val 0⟩]
  | .TEN_FIDX => [⟨F.TEN_FIDX_INDEX, .ro, .val 0⟩]
  | .TEN_FADDR_LO => [⟨F.TEN_FADDR_LO_ADDR, .ro, .val 0⟩]
  | .TEN_FADDR_HI => [⟨F.TEN_FADDR_HI_ADDR, .ro, .val 0⟩]
  | .TEN_FINFO => [⟨F.TEN_FINFO_INFO, .ro, .val 0⟩]
  | .TEN_FTICK => [⟨F.TEN_FTICK_TICK, .ro, .val 0⟩]
  | .SBF_ID => [⟨F.SBF_ID_MIB, .ro, .val 384⟩, ⟨F.SBF_ID_NBANK, .ro, .val 256⟩]
  | .SBF_OSEL => [⟨F.SBF_OSEL_MIB, .rw, .val 0⟩]
  | .SBF_OWNER => [⟨F.SBF_OWNER_PART, .rw, .val 0⟩, ⟨F.SBF_OWNER_REMOTE, .rw, .val 0⟩, ⟨F.SBF_OWNER_OWNED, .rw, .val 0⟩]
  | .SBF_STAT => [⟨F.SBF_STAT_OWNERR, .w1c, .val 0⟩]
  | .UNF_ID => [⟨F.UNF_ID_NUNF, .ro, .val 24⟩, ⟨F.UNF_ID_NCTX, .ro, .val 4⟩]
  | .UNF_FLT => [⟨F.UNF_FLT_MASK, .ro, .val 0⟩]
  | .UNF_CTL => [⟨F.UNF_CTL_PART, .rw, .val 0⟩, ⟨F.UNF_CTL_ASSIGN, .rw, .val 0⟩]
  | .UNF_STAT => [⟨F.UNF_STAT_BUSY, .ro, .val 0⟩, ⟨F.UNF_STAT_FLTV, .w1c, .val 0⟩, ⟨F.UNF_STAT_CODE, .ro, .val 0⟩, ⟨F.UNF_STAT_TENG, .ro, .val 0⟩]
  | .UNF_FSEG_LO => [⟨F.UNF_FSEG_LO_ADDR, .ro, .val 0⟩]
  | .UNF_FSEG_HI => [⟨F.UNF_FSEG_HI_ADDR, .ro, .val 0⟩]
  | .UNF_FINFO => [⟨F.UNF_FINFO_GROUP, .ro, .val 0⟩, ⟨F.UNF_FINFO_ROWS, .ro, .val 0⟩, ⟨F.UNF_FINFO_SEG, .ro, .val 0⟩]
  | .UNF_GCNT => [⟨F.UNF_GCNT_COUNT, .ro, .val 0⟩]
  | .UNF_BUSYC => [⟨F.UNF_BUSYC_COUNT, .ro, .val 0⟩]
  | .DSP_ID => [⟨F.DSP_ID_MAXEM1, .ro, .val 255⟩, ⟨F.DSP_ID_MAXK, .ro, .val 8⟩]
  | .DSP_CTL => [⟨F.DSP_CTL_START, .w1s, .val 0⟩, ⟨F.DSP_CTL_ABORT, .w1s, .val 0⟩, ⟨F.DSP_CTL_PART, .rw, .val 0⟩, ⟨F.DSP_CTL_ASSIGN, .rw, .val 0⟩]
  | .DSP_LBASE => [⟨F.DSP_LBASE_BASE, .rw, .val 0⟩]
  | .DSP_LLIMIT => [⟨F.DSP_LLIMIT_LIMIT, .rw, .val 0⟩]
  | .DSP_WTMO => [⟨F.DSP_WTMO_TICKS, .rw, .val 0⟩]
  | .DSP_OVBASE => [⟨F.DSP_OVBASE_BASE, .rw, .val 0⟩]
  | .DSP_OVSIZE => [⟨F.DSP_OVSIZE_SIZE, .rw, .val 0⟩]
  | .DSP_STAT => [⟨F.DSP_STAT_STATE, .ro, .val 0⟩, ⟨F.DSP_STAT_FLTV, .ro, .val 0⟩, ⟨F.DSP_STAT_CAUSE, .ro, .val 0⟩]
  | .DSP_STEP => [⟨F.DSP_STEP_INDEX, .ro, .val 0⟩]
  | .DSP_FINFO => [⟨F.DSP_FINFO_INFO, .ro, .val 0⟩]
  | .DSP_FTICK => [⟨F.DSP_FTICK_TICK, .ro, .val 0⟩]
  | .DSP_NSPILL => [⟨F.DSP_NSPILL_COUNT, .ro, .val 0⟩]
  | .DSP_NLOST => [⟨F.DSP_NLOST_COUNT, .ro, .val 0⟩]
  | .DSP_NNAN => [⟨F.DSP_NNAN_COUNT, .ro, .val 0⟩]
  | .TMB_ID => [⟨F.TMB_ID_NTUMB, .ro, .val 65536⟩, ⟨F.TMB_ID_CADD, .ro, .fuse⟩, ⟨F.TMB_ID_CADDEN, .ro, .val 0⟩]
  | .TMB_ISEL => [⟨F.TMB_ISEL_INDEX, .rw, .val 0⟩]
  | .TMB_VALUE => [⟨F.TMB_VALUE_VALUE, .rw, .val 0⟩]
  | .TMB_ADD => [⟨F.TMB_ADD_AMOUNT, .wo, .val 0⟩]
  | .TMB_WAITS => [⟨F.TMB_WAITS_ARMED, .ro, .val 0⟩]
  | .TMB_STAT => [⟨F.TMB_STAT_RANGEERR, .w1c, .val 0⟩, ⟨F.TMB_STAT_CHKERR, .w1c, .val 0⟩, ⟨F.TMB_STAT_WRAP, .w1c, .val 0⟩]
  | .TMB_NWRAP => [⟨F.TMB_NWRAP_COUNT, .ro, .val 0⟩]
  | .TMB_NCHK => [⟨F.TMB_NCHK_COUNT, .ro, .val 0⟩]
  | .TMB_SWTUMB => [⟨F.TMB_SWTUMB_INDEX, .rw, .val 0⟩, ⟨F.TMB_SWTUMB_DIE, .rw, .val 0⟩]
  | .TMB_SWTHR => [⟨F.TMB_SWTHR_THR, .rw, .val 0⟩]
  | .TMB_SWCTL => [⟨F.TMB_SWCTL_ARM, .w1s, .val 0⟩, ⟨F.TMB_SWCTL_WITHDRAW, .w1s, .val 0⟩, ⟨F.TMB_SWCTL_ARMED, .ro, .val 0⟩, ⟨F.TMB_SWCTL_MET, .w1c, .val 0⟩]
  | .TMB_SWVAL => [⟨F.TMB_SWVAL_VALUE, .ro, .val 0⟩]
  | .TMB_BCMASK_LO => [⟨F.TMB_BCMASK_LO_CELLS, .rw, .val 0⟩]
  | .TMB_BCMASK_HI => [⟨F.TMB_BCMASK_HI_CELLS, .rw, .val 0⟩]
  | .TMB_BCCMD => [⟨F.TMB_BCCMD_CMD, .wo, .val 0⟩]
  | .TMB_RANGE => [⟨F.TMB_RANGE_BASE, .rw, .val 0⟩, ⟨F.TMB_RANGE_NUM, .rw, .val 0⟩, ⟨F.TMB_RANGE_REMOTE, .rw, .val 0⟩]
  | .HBM_ID => [⟨F.HBM_ID_HEIGHT, .ro, .val 0⟩, ⟨F.HBM_ID_DENS, .ro, .val 0⟩, ⟨F.HBM_ID_NSIDM1, .ro, .val 0⟩, ⟨F.HBM_ID_NREP, .ro, .val 0⟩]
  | .HBM_CTL => [⟨F.HBM_CTL_CMD, .wo, .val 0⟩]
  | .HBM_STAT => [⟨F.HBM_STAT_STATE, .ro, .val 0⟩, ⟨F.HBM_STAT_BAND, .ro, .val 1⟩, ⟨F.HBM_STAT_HOT, .w1c, .val 0⟩, ⟨F.HBM_STAT_BANDX, .w1c, .val 0⟩, ⟨F.HBM_STAT_TRAINERR, .w1c, .val 0⟩, ⟨F.HBM_STAT_NERAS, .ro, .val 0⟩]
  | .HBM_TEMP => [⟨F.HBM_TEMP_TEMP, .ro, .val 0⟩, ⟨F.HBM_TEMP_TMAX, .ro, .val 0⟩, ⟨F.HBM_TEMP_TMAXCLR, .wo, .val 0⟩]
  | .HBM_REFCTL => [⟨F.HBM_REFCTL_MINBAND, .rw, .val 1⟩, ⟨F.HBM_REFCTL_STRETCH, .rw, .val 0⟩]
  | .HBM_SCHED => [⟨F.HBM_SCHED_WBATCH, .rw, .val 32⟩, ⟨F.HBM_SCHED_OPENTMO, .rw, .val 64⟩]
  | .HBM_LSEL => [⟨F.HBM_LSEL_PC, .rw, .val 0⟩]
  | .HBM_LREP => [⟨F.HBM_LREP_REP0, .ro, .val 255⟩, ⟨F.HBM_LREP_REP1, .ro, .val 255⟩, ⟨F.HBM_LREP_ERAS0, .ro, .val 255⟩, ⟨F.HBM_LREP_ERAS1, .ro, .val 255⟩]
  | .HBM_LMARG => [⟨F.HBM_LMARG_WMIN, .ro, .val 0⟩, ⟨F.HBM_LMARG_WLANE, .ro, .val 0⟩, ⟨F.HBM_LMARG_RMIN, .ro, .val 0⟩, ⟨F.HBM_LMARG_RLANE, .ro, .val 0⟩]
  | .HBM_NBURST_LO => [⟨F.HBM_NBURST_LO_COUNT, .ro, .val 0⟩]
  | .HBM_NBURST_HI => [⟨F.HBM_NBURST_HI_COUNT, .ro, .val 0⟩]
  | .HBM_RSEL => [⟨F.HBM_RSEL_BKT, .rw, .val 0⟩, ⟨F.HBM_RSEL_GRP, .rw, .val 0⟩]
  | .HBM_RRATE => [⟨F.HBM_RRATE_RATE, .rw, .val 0⟩, ⟨F.HBM_RRATE_DEPTH, .rw, .val 2⟩, ⟨F.HBM_RRATE_BORROW, .rw, .val 0⟩, ⟨F.HBM_RRATE_EN, .rw, .val 0⟩]
  | .HBM_RLEVEL => [⟨F.HBM_RLEVEL_LEVEL, .ro, .val 0⟩]
  | .HBM_RSTALL => [⟨F.HBM_RSTALL_COUNT, .ro, .val 0⟩]
  | .HBM_RBYTES_LO => [⟨F.HBM_RBYTES_LO_COUNT, .ro, .val 0⟩]
  | .HBM_RBYTES_HI => [⟨F.HBM_RBYTES_HI_COUNT, .ro, .val 0⟩]
  | .HBM_RGCAP => [⟨F.HBM_RGCAP_GCAP, .ro, .val 2976⟩, ⟨F.HBM_RGCAP_RATEERR, .w1c, .val 0⟩]
  | .HBM_ECE => [⟨F.HBM_ECE_COUNT, .ro, .val 0⟩]
  | .HBM_EUE => [⟨F.HBM_EUE_COUNT, .ro, .val 0⟩]
  | .HBM_EPSN => [⟨F.HBM_EPSN_COUNT, .ro, .val 0⟩]
  | .HBM_ELAST => [⟨F.HBM_ELAST_PC, .ro, .val 0⟩, ⟨F.HBM_ELAST_BANK, .ro, .val 0⟩, ⟨F.HBM_ELAST_SID, .ro, .val 0⟩, ⟨F.HBM_ELAST_ROW, .ro, .val 0⟩, ⟨F.HBM_ELAST_COL, .ro, .val 0⟩, ⟨F.HBM_ELAST_UE, .ro, .val 0⟩]
  | .HBM_SCRUB => [⟨F.HBM_SCRUB_EN, .rw, .val 1⟩, ⟨F.HBM_SCRUB_SPACE, .rw, .val 64⟩, ⟨F.HBM_SCRUB_LAPMAX, .rw, .val 600⟩]
  | .HBM_SLAP => [⟨F.HBM_SLAP_TICKS, .ro, .val 0⟩]
  | .HBM_SSTAT => [⟨F.HBM_SSTAT_LAPS, .ro, .val 0⟩, ⟨F.HBM_SSTAT_LAPLATE, .w1c, .val 0⟩]
  | .HBM_NCSEL => [⟨F.HBM_NCSEL_REGION, .rw, .val 0⟩]
  | .HBM_NCCTL => [⟨F.HBM_NCCTL_TONARROW, .w1s, .val 0⟩, ⟨F.HBM_NCCTL_TOWIDE, .w1s, .val 0⟩, ⟨F.HBM_NCCTL_BUSY, .ro, .val 0⟩, ⟨F.HBM_NCCTL_NARROW, .ro, .val 0⟩]
  | .HBM_BLSEL => [⟨F.HBM_BLSEL_PC, .rw, .val 0⟩, ⟨F.HBM_BLSEL_BANK, .rw, .val 0⟩, ⟨F.HBM_BLSEL_ENTRY, .rw, .val 0⟩]
  | .HBM_BLENT => [⟨F.HBM_BLENT_ROW, .rol, .val 0⟩, ⟨F.HBM_BLENT_STATE, .rol, .val 0⟩, ⟨F.HBM_BLENT_GEN, .rol, .val 0⟩]
  | .HBM_BLSTAT => [⟨F.HBM_BLSTAT_NCUT, .ro, .val 0⟩, ⟨F.HBM_BLSTAT_NPEND, .rol, .val 0⟩]
  | .HBM_BLMIN => [⟨F.HBM_BLMIN_FREEMIN, .ro, .val 32⟩]
  | .HBM_PENSEL => [⟨F.HBM_PENSEL_INDEX, .rw, .val 0⟩]
  | .HBM_PEN_LO => [⟨F.HBM_PEN_LO_ENTRY, .rol, .val 0⟩]
  | .HBM_PEN_HI => [⟨F.HBM_PEN_HI_ENTRY, .rol, .val 0⟩]
  | .HBM_RETSEL => [⟨F.HBM_RETSEL_INDEX, .rw, .val 0⟩]
  | .HBM_RET_LO => [⟨F.HBM_RET_LO_ENTRY, .rol, .val 0⟩]
  | .HBM_RET_HI => [⟨F.HBM_RET_HI_ENTRY, .rol, .val 0⟩]
  | .HBM_RETCNT => [⟨F.HBM_RETCNT_COUNT, .rol, .val 0⟩, ⟨F.HBM_RETCNT_RETOVF, .w1c, .val 0⟩]
  | .HBM_STEST => [⟨F.HBM_STEST_RUN, .w1s, .val 0⟩, ⟨F.HBM_STEST_DONE, .ro, .val 0⟩, ⟨F.HBM_STEST_FAIL, .ro, .val 0⟩, ⟨F.HBM_STEST_PATTERN, .ro, .val 0⟩]
  | .SBF_SCRUB => [⟨F.SBF_SCRUB_EN, .rw, .val 1⟩, ⟨F.SBF_SCRUB_SPACE, .rw, .val 64⟩, ⟨F.SBF_SCRUB_LAPMAX, .rw, .val 1000⟩]
  | .SBF_SLAP => [⟨F.SBF_SLAP_TICKS, .ro, .val 0⟩]
  | .SBF_SSTAT => [⟨F.SBF_SSTAT_LAPS, .ro, .val 0⟩, ⟨F.SBF_SSTAT_LAPLATE, .w1c, .val 0⟩]
  | .SBF_ECE => [⟨F.SBF_ECE_COUNT, .ro, .val 0⟩]
  | .SBF_EUE => [⟨F.SBF_EUE_COUNT, .ro, .val 0⟩]
  | .SBF_ELAST => [⟨F.SBF_ELAST_BANK, .ro, .val 0⟩, ⟨F.SBF_ELAST_LINE, .ro, .val 0⟩, ⟨F.SBF_ELAST_WORD, .ro, .val 0⟩, ⟨F.SBF_ELAST_UE, .ro, .val 0⟩]
  | .SBF_NRMW => [⟨F.SBF_NRMW_COUNT, .ro, .val 0⟩]
  | .SBF_ZFILL => [⟨F.SBF_ZFILL_MIB, .rw, .val 0⟩, ⟨F.SBF_ZFILL_GO, .w1s, .val 0⟩, ⟨F.SBF_ZFILL_BUSY, .ro, .val 0⟩]
  | .SBF_STEST => [⟨F.SBF_STEST_RUN, .w1s, .val 0⟩, ⟨F.SBF_STEST_DONE, .ro, .val 0⟩, ⟨F.SBF_STEST_FAIL, .ro, .val 0⟩, ⟨F.SBF_STEST_PATTERN, .ro, .val 0⟩]
  | .CMP_SCRUB => [⟨F.CMP_SCRUB_EN, .rw, .val 1⟩, ⟨F.CMP_SCRUB_SPACE, .rw, .val 16⟩, ⟨F.CMP_SCRUB_LAPMAX, .rw, .val 1000⟩]
  | .CMP_SLAP => [⟨F.CMP_SLAP_TICKS, .ro, .val 0⟩]
  | .CMP_ECE => [⟨F.CMP_ECE_COUNT, .ro, .val 0⟩]
  | .CMP_EUE => [⟨F.CMP_EUE_COUNT, .ro, .val 0⟩]
  | .CMP_STEST => [⟨F.CMP_STEST_RUN, .w1s, .val 0⟩, ⟨F.CMP_STEST_DONE, .ro, .val 0⟩, ⟨F.CMP_STEST_FAIL, .ro, .val 0⟩, ⟨F.CMP_STEST_NFAIL, .ro, .val 0⟩]
  | .CMP_PSTEST => [⟨F.CMP_PSTEST_TESTED, .ro, .val 0⟩, ⟨F.CMP_PSTEST_PASS, .ro, .val 0⟩]
  | .KRG_ID => [⟨F.KRG_ID_LOG2SETS, .ro, .val 18⟩, ⟨F.KRG_ID_WAYS, .ro, .val 8⟩]
  | .KRG_PKG => [⟨F.KRG_PKG_PKG, .ro, .val 0⟩]
  | .KRG_EW0_LO => [⟨F.KRG_EW0_LO_WORD, .rw, .dash⟩]
  | .KRG_EW0_HI => [⟨F.KRG_EW0_HI_WORD, .rw, .dash⟩]
  | .KRG_EW1_LO => [⟨F.KRG_EW1_LO_WORD, .rw, .dash⟩]
  | .KRG_EW1_HI => [⟨F.KRG_EW1_HI_WORD, .rw, .dash⟩]
  | .KRG_ECMD => [⟨F.KRG_ECMD_CMD, .wo, .val 0⟩]
  | .KRG_ESTAT => [⟨F.KRG_ESTAT_RESULT, .ro, .val 0⟩, ⟨F.KRG_ESTAT_BUSY, .ro, .val 0⟩, ⟨F.KRG_ESTAT_WAY, .ro, .val 0⟩]
  | .KRG_QSEL => [⟨F.KRG_QSEL_IDENT, .rw, .val 0⟩]
  | .KRG_QUOTA => [⟨F.KRG_QUOTA_MAX, .rw, .val 0⟩]
  | .KRG_QUSE => [⟨F.KRG_QUSE_COUNT, .ro, .val 0⟩]
  | .KRG_PGEN => [⟨F.KRG_PGEN_GEN, .rw, .val 0⟩]
  | .KRG_FCNT => [⟨F.KRG_FCNT_COUNT, .ro, .val 0⟩]
  | .KRG_RKSEL => [⟨F.KRG_RKSEL_IDENT, .rw, .val 0⟩]
  | .KRG_RKBASE_LO => [⟨F.KRG_RKBASE_LO_DVA, .rw, .val 0⟩]
  | .KRG_RKBASE_HI => [⟨F.KRG_RKBASE_HI_DVA, .rw, .val 0⟩]
  | .KRG_RKLEN => [⟨F.KRG_RKLEN_PAGES, .rw, .val 0⟩]
  | .KRG_RKCTL => [⟨F.KRG_RKCTL_GO, .w1s, .val 0⟩, ⟨F.KRG_RKCTL_ALL, .rw, .val 0⟩, ⟨F.KRG_RKCTL_BUSY, .ro, .val 0⟩, ⟨F.KRG_RKCTL_TMO, .w1c, .val 0⟩]
  | .KRG_RKTIME => [⟨F.KRG_RKTIME_TICKS, .ro, .val 0⟩]
  | .KRG_RKHALT_LO => [⟨F.KRG_RKHALT_LO_MASK, .ro, .val 0⟩]
  | .KRG_RKHALT_HI => [⟨F.KRG_RKHALT_HI_MASK, .ro, .val 0⟩]
  | .KRG_HWSEL => [⟨F.KRG_HWSEL_WIN, .rw, .val 0⟩]
  | .KRG_HWCTL => [⟨F.KRG_HWCTL_QP, .rw, .val 0⟩, ⟨F.KRG_HWCTL_EN, .rw, .val 0⟩]
  | .KRG_HWBASE_LO => [⟨F.KRG_HWBASE_LO_HVA, .rw, .val 0⟩]
  | .KRG_HWBASE_HI => [⟨F.KRG_HWBASE_HI_HVA, .rw, .val 0⟩]
  | .KRG_HWRKEY => [⟨F.KRG_HWRKEY_RKEY, .rw, .val 0⟩]
  | .KRG_HWLEN => [⟨F.KRG_HWLEN_PAGES, .rw, .val 0⟩]
  | .KRG_IN => [⟨F.KRG_IN_MASK, .rw, .val 0⟩]
  | .HUB_ID => [⟨F.HUB_ID_NPORT, .ro, .val 40⟩, ⟨F.HUB_ID_NSLICE, .ro, .fuse⟩]
  | .HUB_SLICE => [⟨F.HUB_SLICE_FAIL, .rol, .fuse⟩, ⟨F.HUB_SLICE_SPARE, .ro, .val 31⟩]
  | .HUB_SSEL => [⟨F.HUB_SSEL_SLICE, .rw, .val 0⟩]
  | .HUB_SERR => [⟨F.HUB_SERR_COUNT, .ro, .val 0⟩]
  | .HUB_KMAP => [⟨F.HUB_KMAP_UP, .ro, .val 0⟩, ⟨F.HUB_KMAP_EN, .rw, .val 0⟩]
  | .HUB_NPATH => [⟨F.HUB_NPATH_COUNT, .ro, .val 0⟩]
  | .HUB_RDROP => [⟨F.HUB_RDROP_COUNT, .ro, .val 0⟩]
  | .HUB_DBSEL => [⟨F.HUB_DBSEL_PCORE, .rw, .val 0⟩, ⟨F.HUB_DBSEL_CELL, .rw, .val 0⟩, ⟨F.HUB_DBSEL_CDIE, .rw, .val 0⟩]
  | .HUB_DB => [⟨F.HUB_DB_DEADBOLT, .w1s, .val 0⟩, ⟨F.HUB_DB_DB_CLEAR, .wo, .val 0⟩, ⟨F.HUB_DB_DBERR, .w1c, .val 0⟩]
  | .HUB_DBDROP => [⟨F.HUB_DBDROP_COUNT, .ro, .val 0⟩]
  | .HUB_PFENCE_LO => [⟨F.HUB_PFENCE_LO_FENCE, .rw, .val 0⟩]
  | .HUB_PFENCE_HI => [⟨F.HUB_PFENCE_HI_FENCE, .rw, .val 0⟩]
  | .HUB_PDROP => [⟨F.HUB_PDROP_COUNT, .ro, .val 0⟩]
  | .KNK_ID => [⟨F.KNK_ID_NMOD, .ro, .fuse⟩, ⟨F.KNK_ID_PVER, .ro, .fuse⟩, ⟨F.KNK_ID_PVUSE, .ro, .val 0⟩, ⟨F.KNK_ID_PEER, .ro, .val 0⟩]
  | .KNK_CTL => [⟨F.KNK_CTL_CMD, .wo, .val 0⟩, ⟨F.KNK_CTL_PEND, .ro, .val 0⟩]
  | .KNK_STAT => [⟨F.KNK_STAT_STATE, .ro, .val 0⟩, ⟨F.KNK_STAT_DEGRADED, .ro, .val 0⟩, ⟨F.KNK_STAT_WIDTHERR, .w1c, .val 0⟩, ⟨F.KNK_STAT_QUALERR, .w1c, .val 0⟩, ⟨F.KNK_STAT_STORM, .w1c, .val 0⟩, ⟨F.KNK_STAT_NACT, .ro, .val 0⟩]
  | .KNK_LMASK => [⟨F.KNK_LMASK_MASK, .ro, .val 0⟩]
  | .KNK_PMASK => [⟨F.KNK_PMASK_MASK, .ro, .val 0⟩]
  | .KNK_AMASK => [⟨F.KNK_AMASK_MASK, .ro, .val 0⟩]
  | .KNK_QCTL => [⟨F.KNK_QCTL_QTIME, .rw, .val 100000⟩, ⟨F.KNK_QCTL_QMAX, .rw, .val 0⟩]
  | .KNK_QERR => [⟨F.KNK_QERR_COUNT, .ro, .val 0⟩]
  | .KNK_RLIM => [⟨F.KNK_RLIM_LIMIT, .rw, .val 8⟩]
  | .KNK_NREPLAY => [⟨F.KNK_NREPLAY_COUNT, .ro, .val 0⟩]
  | .KNK_NCRC => [⟨F.KNK_NCRC_COUNT, .ro, .val 0⟩]
  | .KNK_MSEL => [⟨F.KNK_MSEL_MOD, .rw, .val 0⟩]
  | .KNK_MARG => [⟨F.KNK_MARG_WMIN, .ro, .val 0⟩, ⟨F.KNK_MARG_WIRE, .ro, .val 0⟩]
  | .KNK_NFLIT_LO => [⟨F.KNK_NFLIT_LO_COUNT, .ro, .val 0⟩]
  | .KNK_NFLIT_HI => [⟨F.KNK_NFLIT_HI_COUNT, .ro, .val 0⟩]
  | .AUX_ID => [⟨F.AUX_ID_CAPPED, .ro, .fuse⟩]
  | .AUX_CTL => [⟨F.AUX_CTL_CMD, .wo, .val 0⟩, ⟨F.AUX_CTL_PEND, .ro, .val 0⟩, ⟨F.AUX_CTL_FENCE, .ro, .val 1⟩]
  | .AUX_STAT => [⟨F.AUX_STAT_STATE, .ro, .val 0⟩, ⟨F.AUX_STAT_CAUSE, .ro, .val 0⟩, ⟨F.AUX_STAT_RATE, .ro, .val 0⟩, ⟨F.AUX_STAT_PVUSE, .ro, .val 0⟩]
  | .AUX_ALLOW => [⟨F.AUX_ALLOW_VENDOR, .rol, .val 0⟩, ⟨F.AUX_ALLOW_PRODUCT, .rol, .val 0⟩]
  | .AUX_LIMIT => [⟨F.AUX_LIMIT_RATES, .rw, .val 31⟩, ⟨F.AUX_LIMIT_PMAX, .rol, .fuse⟩]
  | .AUX_WIN => [⟨F.AUX_WIN_WLOG2, .ro, .val 0⟩]
  | .AUX_TRANGE => [⟨F.AUX_TRANGE_BASE, .rw, .val 0⟩, ⟨F.AUX_TRANGE_NUM, .rw, .val 0⟩]
  | .AUX_QCTL => [⟨F.AUX_QCTL_QTIME, .rw, .val 100000⟩, ⟨F.AUX_QCTL_QMAX, .rw, .val 0⟩]
  | .AUX_RLIM => [⟨F.AUX_RLIM_LIMIT, .rw, .val 8⟩]
  | .AUX_NREPLAY => [⟨F.AUX_NREPLAY_COUNT, .ro, .val 0⟩]
  | .AUX_NCRC => [⟨F.AUX_NCRC_COUNT, .ro, .val 0⟩]
  | .AUX_DROP => [⟨F.AUX_DROP_COUNT, .ro, .val 0⟩]
  | .AUX_DESC => [⟨F.AUX_DESC_DATA, .ro, .val 0⟩]
  | .SER_ID => [⟨F.SER_ID_NLANE, .ro, .val 21⟩]
  | .SER_PRES => [⟨F.SER_PRES_LANES, .ro, .fuse⟩]
  | .SER_FLT => [⟨F.SER_FLT_MASK, .ro, .val 0⟩]
  | .SER_LCTL => [⟨F.SER_LCTL_CMD, .wo, .val 0⟩, ⟨F.SER_LCTL_PEND, .ro, .val 0⟩, ⟨F.SER_LCTL_MODE, .rw, .fuse⟩, ⟨F.SER_LCTL_LOOPOK, .rw, .val 1⟩, ⟨F.SER_LCTL_TXDOZE, .rw, .val 0⟩, ⟨F.SER_LCTL_TLOOP, .rw, .val 0⟩, ⟨F.SER_LCTL_PRBS, .rw, .val 0⟩]
  | .SER_LSTAT => [⟨F.SER_LSTAT_STATE, .ro, .val 0⟩, ⟨F.SER_LSTAT_TXDZ, .ro, .val 0⟩, ⟨F.SER_LSTAT_RXDZ, .ro, .val 0⟩, ⟨F.SER_LSTAT_LOOPT, .ro, .val 0⟩, ⟨F.SER_LSTAT_FOM, .ro, .val 0⟩, ⟨F.SER_LSTAT_LOWFOM, .w1c, .val 0⟩, ⟨F.SER_LSTAT_ELASTIC, .w1c, .val 0⟩, ⟨F.SER_LSTAT_ALIGNLOSS, .w1c, .val 0⟩, ⟨F.SER_LSTAT_TRAINERR, .w1c, .val 0⟩, ⟨F.SER_LSTAT_LOS, .w1c, .val 0⟩, ⟨F.SER_LSTAT_WAKEERR, .w1c, .val 0⟩]
  | .SER_PPM => [⟨F.SER_PPM_OFFS, .ro, .val 0⟩]
  | .SER_FOMCFG => [⟨F.SER_FOMCFG_FOMMIN, .rw, .val 64⟩, ⟨F.SER_FOMCFG_FOMTRN, .rw, .val 96⟩]
  | .SER_NCORR => [⟨F.SER_NCORR_COUNT, .ro, .val 0⟩]
  | .SER_NUNC => [⟨F.SER_NUNC_COUNT, .ro, .val 0⟩]
  | .SER_NCW_LO => [⟨F.SER_NCW_LO_COUNT, .ro, .val 0⟩]
  | .SER_NCW_HI => [⟨F.SER_NCW_HI_COUNT, .ro, .val 0⟩]
  | .SER_NFILL => [⟨F.SER_NFILL_DEL, .ro, .val 0⟩, ⟨F.SER_NFILL_INS, .ro, .val 0⟩]
  | .SER_NPRBS => [⟨F.SER_NPRBS_COUNT, .ro, .val 0⟩]
  | .SER_RXEQ => [⟨F.SER_RXEQ_CTLE, .ro, .val 0⟩, ⟨F.SER_RXEQ_DFE1, .ro, .val 0⟩]
  | .SER_TXEQ => [⟨F.SER_TXEQ_PRE2, .ro, .val 0⟩, ⟨F.SER_TXEQ_PRE1, .ro, .val 0⟩, ⟨F.SER_TXEQ_MAIN, .ro, .val 0⟩, ⟨F.SER_TXEQ_POST1, .ro, .val 0⟩]
  | .SER_NEVT => [⟨F.SER_NEVT_NLOSS, .ro, .val 0⟩, ⟨F.SER_NEVT_NTRAIN, .ro, .val 0⟩]
  | .PLK_ID => [⟨F.PLK_ID_NPORT, .ro, .val 4⟩, ⟨F.PLK_ID_RSVLANE, .ro, .fuse⟩]
  | .PLK_RSEL => [⟨F.PLK_RSEL_PKG, .rw, .val 0⟩]
  | .PLK_ROUTE => [⟨F.PLK_ROUTE_PRI, .rw, .val 0⟩, ⟨F.PLK_ROUTE_PV, .rw, .val 0⟩, ⟨F.PLK_ROUTE_ALT1, .rw, .val 0⟩, ⟨F.PLK_ROUTE_A1V, .rw, .val 0⟩, ⟨F.PLK_ROUTE_ALT2, .rw, .val 0⟩, ⟨F.PLK_ROUTE_A2V, .rw, .val 0⟩, ⟨F.PLK_ROUTE_CUR, .ro, .val 3⟩, ⟨F.PLK_ROUTE_HOLD, .ro, .val 0⟩]
  | .PLK_ROUT => [⟨F.PLK_ROUT_OUT, .ro, .val 0⟩]
  | .PLK_TTMO => [⟨F.PLK_TTMO_TICKS, .rw, .val 10000⟩]
  | .PLK_HOPS => [⟨F.PLK_HOPS_INIT, .rw, .val 8⟩]
  | .PLK_STAT => [⟨F.PLK_STAT_NOROUTE, .w1c, .val 0⟩, ⟨F.PLK_STAT_HOPERR, .w1c, .val 0⟩, ⟨F.PLK_STAT_TIMEOUT, .w1c, .val 0⟩]
  | .PLK_NFAIL => [⟨F.PLK_NFAIL_COUNT, .ro, .val 0⟩]
  | .PLK_NLATE => [⟨F.PLK_NLATE_COUNT, .ro, .val 0⟩]
  | .PLK_RESERVE => [⟨F.PLK_RESERVE_PORT, .rw, .val 0⟩, ⟨F.PLK_RESERVE_EN, .rw, .val 0⟩, ⟨F.PLK_RESERVE_INUSE, .ro, .val 0⟩, ⟨F.PLK_RESERVE_LIDX, .ro, .val 0⟩]
  | .PLK_PCTL => [⟨F.PLK_PCTL_CMD, .wo, .val 0⟩, ⟨F.PLK_PCTL_PEND, .ro, .val 0⟩, ⟨F.PLK_PCTL_MINL, .rw, .val 4⟩]
  | .PLK_PSTAT => [⟨F.PLK_PSTAT_STATE, .ro, .val 0⟩, ⟨F.PLK_PSTAT_LANES, .ro, .val 0⟩, ⟨F.PLK_PSTAT_RSV, .ro, .val 0⟩, ⟨F.PLK_PSTAT_QUALERR, .w1c, .val 0⟩, ⟨F.PLK_PSTAT_STORM, .w1c, .val 0⟩, ⟨F.PLK_PSTAT_PEERERR, .w1c, .val 0⟩, ⟨F.PLK_PSTAT_PEERPKG, .ro, .val 0⟩, ⟨F.PLK_PSTAT_PEERPORT, .ro, .val 0⟩]
  | .PLK_QCTL => [⟨F.PLK_QCTL_QTIME, .rw, .val 100000⟩]
  | .PLK_QCORR => [⟨F.PLK_QCORR_MAX, .rw, .val 10200000⟩]
  | .PLK_RCTL => [⟨F.PLK_RCTL_RLIM, .rw, .val 8⟩, ⟨F.PLK_RCTL_RMAX, .rw, .val 64⟩, ⟨F.PLK_RCTL_ATMO, .rw, .val 10⟩]
  | .PLK_DOZE => [⟨F.PLK_DOZE_IDLE, .rw, .val 16000⟩]
  | .PLK_NREPLAY => [⟨F.PLK_NREPLAY_COUNT, .ro, .val 0⟩]
  | .PLK_NCRC => [⟨F.PLK_NCRC_COUNT, .ro, .val 0⟩]
  | .PLK_NFRM_LO => [⟨F.PLK_NFRM_LO_COUNT, .ro, .val 0⟩]
  | .PLK_NFRM_HI => [⟨F.PLK_NFRM_HI_COUNT, .ro, .val 0⟩]
  | .PLK_TRK => [⟨F.PLK_TRK_OUTB, .ro, .val 0⟩, ⟨F.PLK_TRK_INB, .ro, .val 0⟩]
  | .PLK_QRES => [⟨F.PLK_QRES_COUNT, .ro, .val 0⟩]
  | .ETH_ID => [⟨F.ETH_ID_NPORT, .ro, .val 2⟩, ⟨F.ETH_ID_NQP, .ro, .val 1024⟩]
  | .ETH_LEAD => [⟨F.ETH_LEAD_DIE, .rw, .val 0⟩]
  | .ETH_CC => [⟨F.ETH_CC_RAI, .rw, .val 50⟩, ⟨F.ETH_CC_RMIN, .rw, .val 10⟩]
  | .ETH_CNPGAP => [⟨F.ETH_CNPGAP_TICKS, .rw, .val 50⟩]
  | .ETH_QSEL => [⟨F.ETH_QSEL_QP, .rw, .val 0⟩]
  | .ETH_RSEL => [⟨F.ETH_RSEL_REGION, .rw, .val 0⟩]
  | .ETH_QCTL => [⟨F.ETH_QCTL_STATE, .rw, .val 0⟩, ⟨F.ETH_QCTL_PORT, .rw, .val 0⟩, ⟨F.ETH_QCTL_V6, .rw, .val 0⟩, ⟨F.ETH_QCTL_PMTU, .rw, .val 5⟩, ⟨F.ETH_QCTL_RETRY, .rw, .val 7⟩, ⟨F.ETH_QCTL_T, .rw, .val 14⟩, ⟨F.ETH_QCTL_ORD, .rw, .val 16⟩, ⟨F.ETH_QCTL_RNRT, .rw, .val 1⟩, ⟨F.ETH_QCTL_RING, .rw, .val 0⟩]
  | .ETH_DQPN => [⟨F.ETH_DQPN_QPN, .rw, .val 0⟩]
  | .ETH_SPSN => [⟨F.ETH_SPSN_PSN, .rw, .val 0⟩]
  | .ETH_EPSN => [⟨F.ETH_EPSN_PSN, .rw, .val 0⟩]
  | .ETH_DMAC_LO => [⟨F.ETH_DMAC_LO_MAC, .rw, .val 0⟩]
  | .ETH_DMAC_HI => [⟨F.ETH_DMAC_HI_MAC, .rw, .val 0⟩]
  | .ETH_DIP => [⟨F.ETH_DIP_ADDR, .rw, .val 0⟩]
  | .ETH_RBASE_LO => [⟨F.ETH_RBASE_LO_GPA, .rw, .val 0⟩]
  | .ETH_RBASE_HI => [⟨F.ETH_RBASE_HI_GPA, .rw, .val 0⟩]
  | .ETH_RSLOT => [⟨F.ETH_RSLOT_RN, .rw, .val 0⟩]
  | .ETH_RTUMB => [⟨F.ETH_RTUMB_ARR, .rw, .val 0⟩, ⟨F.ETH_RTUMB_FREE, .rw, .val 0⟩]
  | .ETH_RCNT => [⟨F.ETH_RCNT_COUNT, .ro, .val 0⟩]
  | .ETH_QSTAT => [⟨F.ETH_QSTAT_SYND, .ro, .val 0⟩, ⟨F.ETH_QSTAT_OUT, .ro, .val 0⟩]
  | .ETH_CCRATE => [⟨F.ETH_CCRATE_RATE, .ro, .val 0⟩]
  | .ETH_RGCTL => [⟨F.ETH_RGCTL_EN, .rw, .val 0⟩, ⟨F.ETH_RGCTL_R, .rw, .val 0⟩, ⟨F.ETH_RGCTL_W, .rw, .val 0⟩, ⟨F.ETH_RGCTL_ALLQP, .rw, .val 0⟩, ⟨F.ETH_RGCTL_QP, .rw, .val 0⟩]
  | .ETH_RGKEY => [⟨F.ETH_RGKEY_RKEY, .rw, .val 0⟩]
  | .ETH_RGBASE_LO => [⟨F.ETH_RGBASE_LO_GPA, .rw, .val 0⟩]
  | .ETH_RGBASE_HI => [⟨F.ETH_RGBASE_HI_GPA, .rw, .val 0⟩]
  | .ETH_RGLEN => [⟨F.ETH_RGLEN_PAGES, .rw, .val 0⟩]
  | .ETH_PCTL => [⟨F.ETH_PCTL_CMD, .wo, .val 0⟩, ⟨F.ETH_PCTL_PEND, .ro, .val 0⟩, ⟨F.ETH_PCTL_PHY, .rw, .val 0⟩]
  | .ETH_PSTAT => [⟨F.ETH_PSTAT_STATE, .ro, .val 0⟩, ⟨F.ETH_PSTAT_ANERR, .w1c, .val 0⟩, ⟨F.ETH_PSTAT_PFCWD, .w1c, .val 0⟩]
  | .ETH_PRIO => [⟨F.ETH_PRIO_ROCE, .rw, .val 3⟩, ⟨F.ETH_PRIO_CTL, .rw, .val 6⟩, ⟨F.ETH_PRIO_ROCEDSCP, .rw, .val 26⟩, ⟨F.ETH_PRIO_CTLDSCP, .rw, .val 48⟩]
  | .ETH_PFCEN => [⟨F.ETH_PFCEN_PRIO, .rw, .val 8⟩]
  | .ETH_PFCTH => [⟨F.ETH_PFCTH_XOFF, .rw, .val 2048⟩, ⟨F.ETH_PFCTH_XON, .rw, .val 1536⟩]
  | .ETH_PFCWD => [⟨F.ETH_PFCWD_TICKS, .rw, .val 100000⟩]
  | .ETH_NRX_LO => [⟨F.ETH_NRX_LO_COUNT, .ro, .val 0⟩]
  | .ETH_NRX_HI => [⟨F.ETH_NRX_HI_COUNT, .ro, .val 0⟩]
  | .ETH_NTX_LO => [⟨F.ETH_NTX_LO_COUNT, .ro, .val 0⟩]
  | .ETH_NTX_HI => [⟨F.ETH_NTX_HI_COUNT, .ro, .val 0⟩]
  | .ETH_NFILT => [⟨F.ETH_NFILT_COUNT, .ro, .val 0⟩]
  | .ETH_NBUF => [⟨F.ETH_NBUF_COUNT, .ro, .val 0⟩]
  | .ETH_NWARD => [⟨F.ETH_NWARD_COUNT, .ro, .val 0⟩]
  | .ETH_NPFC => [⟨F.ETH_NPFC_RX, .ro, .val 0⟩, ⟨F.ETH_NPFC_TX, .ro, .val 0⟩]
  | .ETH_NCNP => [⟨F.ETH_NCNP_RX, .ro, .val 0⟩, ⟨F.ETH_NCNP_TX, .ro, .val 0⟩]
  | .ETH_NMREF => [⟨F.ETH_NMREF_COUNT, .ro, .val 0⟩]
  | .MBX_ID => [⟨F.MBX_ID_NIN, .ro, .val 64⟩, ⟨F.MBX_ID_NOUT, .ro, .val 64⟩]
  | .MBX_IPEND_LO => [⟨F.MBX_IPEND_LO_SLOTS, .w1c, .val 0⟩]
  | .MBX_IPEND_HI => [⟨F.MBX_IPEND_HI_SLOTS, .w1c, .val 0⟩]
  | .MBX_ISEL => [⟨F.MBX_ISEL_SLOT, .rw, .val 0⟩]
  | .MBX_ILEN => [⟨F.MBX_ILEN_LEN, .ro, .val 0⟩, ⟨F.MBX_ILEN_PORT, .ro, .val 0⟩]
  | .MBX_ISEQ => [⟨F.MBX_ISEQ_SEQ, .ro, .val 0⟩]
  | .MBX_OSEL => [⟨F.MBX_OSEL_SLOT, .rw, .val 0⟩]
  | .MBX_OCTL => [⟨F.MBX_OCTL_LEN, .rw, .val 0⟩, ⟨F.MBX_OCTL_SEND, .w1s, .val 0⟩, ⟨F.MBX_OCTL_HELD, .ro, .val 0⟩]
  | .MBX_ECTL => [⟨F.MBX_ECTL_LEN, .rw, .val 0⟩, ⟨F.MBX_ECTL_SUB, .rw, .val 0⟩, ⟨F.MBX_ECTL_SEND, .w1s, .val 0⟩, ⟨F.MBX_ECTL_BUSY, .ro, .val 0⟩]
  | .MBX_SUBSEL => [⟨F.MBX_SUBSEL_SUB, .rw, .val 0⟩]
  | .MBX_SUBCTL => [⟨F.MBX_SUBCTL_EN, .rw, .val 0⟩, ⟨F.MBX_SUBCTL_V6, .rw, .val 0⟩, ⟨F.MBX_SUBCTL_PORT, .rw, .val 0⟩, ⟨F.MBX_SUBCTL_SLOT, .rw, .val 0⟩, ⟨F.MBX_SUBCTL_UDP, .rw, .val 0⟩]
  | .MBX_SUBMAC_LO => [⟨F.MBX_SUBMAC_LO_MAC, .rw, .val 0⟩]
  | .MBX_SUBMAC_HI => [⟨F.MBX_SUBMAC_HI_MAC, .rw, .val 0⟩]
  | .MBX_SUBIP => [⟨F.MBX_SUBIP_ADDR, .rw, .val 0⟩]
  | .MBX_SUBCNT => [⟨F.MBX_SUBCNT_COUNT, .ro, .val 0⟩]
  | .MBX_IDATA => [⟨F.MBX_IDATA_DATA, .ro, .dash⟩]
  | .MBX_ODATA => [⟨F.MBX_ODATA_DATA, .rw, .dash⟩]
  | .MBX_EDATA => [⟨F.MBX_EDATA_DATA, .rw, .dash⟩]
  | .WRD_ID => [⟨F.WRD_ID_REV, .ro, .fuse⟩, ⟨F.WRD_ID_KGEN, .ro, .fuse⟩, ⟨F.WRD_ID_KEYV, .ro, .fuse⟩, ⟨F.WRD_ID_COSIGN, .ro, .fuse⟩, ⟨F.WRD_ID_REVOKED, .ro, .fuse⟩]
  | .WRD_EPOCH => [⟨F.WRD_EPOCH_EPOCH, .rw, .val 0⟩]
  | .WRD_STAT => [⟨F.WRD_STAT_BOOTLOCK, .w1s, .val 0⟩, ⟨F.WRD_STAT_BOOTFAIL, .ro, .val 0⟩, ⟨F.WRD_STAT_DEBUG, .ro, .val 0⟩, ⟨F.WRD_STAT_THROTTLE, .ro, .val 0⟩]
  | .WRD_SVN => [⟨F.WRD_SVN_SVN, .rol, .val 0⟩, ⟨F.WRD_SVN_RBCOUNT, .ro, .fuse⟩]
  | .WRD_PCEIL => [⟨F.WRD_PCEIL_WATTS, .ro, .val 900⟩]
  | .WRD_ICEIL => [⟨F.WRD_ICEIL_AMPS, .ro, .val 300⟩]
  | .WRD_LIFE => [⟨F.WRD_LIFE_STEPS, .ro, .fuse⟩]
  | .WRD_TXMASK => [⟨F.WRD_TXMASK_PORTS, .ro, .val 0⟩]
  | .WRD_PSEL => [⟨F.WRD_PSEL_PORT, .rw, .val 0⟩]
  | .WRD_EMAC_LO => [⟨F.WRD_EMAC_LO_MAC, .ro, .fuse⟩]
  | .WRD_EMAC_HI => [⟨F.WRD_EMAC_HI_MAC, .ro, .fuse⟩]
  | .WRD_EIP4 => [⟨F.WRD_EIP4_ADDR, .ro, .val 0⟩]
  | .WRD_EIP6 => [⟨F.WRD_EIP6_ADDR, .ro, .fuse⟩]
  | .WRD_EPORT => [⟨F.WRD_EPORT_VLAN, .ro, .val 0⟩, ⟨F.WRD_EPORT_CEIL, .ro, .val 10⟩]
  | .WRD_NREF => [⟨F.WRD_NREF_COUNT, .ro, .val 0⟩]
  | .WRD_MSEL => [⟨F.WRD_MSEL_MEAS, .rw, .val 0⟩, ⟨F.WRD_MSEL_WORD, .rw, .val 0⟩]
  | .WRD_MDATA => [⟨F.WRD_MDATA_DATA, .ro, .val 0⟩]
  | .WRD_MEXT => [⟨F.WRD_MEXT_DATA, .wo, .val 0⟩]
  | .WRD_MCTL => [⟨F.WRD_MCTL_EXTEND, .w1s, .val 0⟩]
  | .WRD_OPCTL => [⟨F.WRD_OPCTL_OP, .rw, .val 0⟩, ⟨F.WRD_OPCTL_GO, .w1s, .val 0⟩, ⟨F.WRD_OPCTL_BUSY, .ro, .val 0⟩, ⟨F.WRD_OPCTL_ERR, .w1c, .val 0⟩]
  | .WRD_OIN => [⟨F.WRD_OIN_DATA, .rw, .dash⟩]
  | .WRD_OOUT => [⟨F.WRD_OOUT_DATA, .ro, .val 0⟩]
  | .PWR_ID => [⟨F.PWR_ID_REV, .ro, .fuse⟩]
  | .PWR_STATE => [⟨F.PWR_STATE_CUR, .ro, .val 4⟩, ⟨F.PWR_STATE_TGT, .ro, .val 4⟩, ⟨F.PWR_STATE_BUSY, .ro, .val 0⟩, ⟨F.PWR_STATE_TRIPPED, .w1c, .val 0⟩, ⟨F.PWR_STATE_FAST, .rw, .val 0⟩]
  | .PWR_DCTL => [⟨F.PWR_DCTL_TARGET, .rw, .val 0⟩, ⟨F.PWR_DCTL_GO, .w1s, .val 0⟩, ⟨F.PWR_DCTL_PEND, .ro, .val 0⟩, ⟨F.PWR_DCTL_PTGT, .ro, .val 0⟩, ⟨F.PWR_DCTL_REFUSED, .w1c, .val 0⟩]
  | .PWR_WAKE => [⟨F.PWR_WAKE_PULSE, .w1c, .val 0⟩, ⟨F.PWR_WAKE_COUNT, .ro, .val 0⟩]
  | .PWR_LCNT_LO => [⟨F.PWR_LCNT_LO_COUNT, .ro, .val 0⟩]
  | .PWR_LCNT_HI => [⟨F.PWR_LCNT_HI_COUNT, .ro, .val 0⟩]
  | .PWR_CLK => [⟨F.PWR_CLK_SLOWOK, .ro, .val 0⟩, ⟨F.PWR_CLK_SLOWLOSS, .w1c, .val 0⟩, ⟨F.PWR_CLK_REFOK, .ro, .val 0⟩, ⟨F.PWR_CLK_REFLOSS, .w1c, .val 0⟩, ⟨F.PWR_CLK_HUBLOCK, .ro, .val 0⟩, ⟨F.PWR_CLK_CMPLOCK, .ro, .val 0⟩, ⟨F.PWR_CLK_HBMLOCK, .ro, .val 0⟩, ⟨F.PWR_CLK_KNKLOCK, .ro, .val 0⟩]
  | .PWR_THR => [⟨F.PWR_THR_DUTYM1, .ro, .val 15⟩, ⟨F.PWR_THR_TEMP, .ro, .val 0⟩, ⟨F.PWR_THR_PCEIL, .ro, .val 0⟩, ⟨F.PWR_THR_ICEIL, .ro, .val 0⟩, ⟨F.PWR_THR_NTHR, .ro, .val 0⟩]
  | .PWR_TJ => [⟨F.PWR_TJ_TJMAX, .ro, .val 0⟩, ⟨F.PWR_TJ_TJPEAK, .ro, .val 0⟩, ⟨F.PWR_TJ_PEAKCLR, .wo, .val 0⟩]
  | .PWR_PDIE => [⟨F.PWR_PDIE_WATTS, .ro, .val 0⟩, ⟨F.PWR_PDIE_PKG, .ro, .val 0⟩]
  | .PWR_RSEL => [⟨F.PWR_RSEL_RAIL, .rw, .val 0⟩]
  | .PWR_RSET => [⟨F.PWR_RSET_MV, .rw, .fuse⟩]
  | .PWR_RMEAS => [⟨F.PWR_RMEAS_MV, .ro, .val 0⟩, ⟨F.PWR_RMEAS_CURR, .ro, .val 0⟩]
  | .HUB_LDSRC => [⟨F.HUB_LDSRC_BASE, .rw, .val 0⟩]
  | .HUB_LDCEN => [⟨F.HUB_LDCEN_INDEX, .rw, .val 0⟩, ⟨F.HUB_LDCEN_DIE, .rw, .val 0⟩]
  | .HUB_LDID => [⟨F.HUB_LDID_IMGID, .rw, .val 0⟩]
  | .HUB_LDCTL => [⟨F.HUB_LDCTL_NCHM1, .rw, .val 0⟩, ⟨F.HUB_LDCTL_CHUNK, .rw, .val 0⟩, ⟨F.HUB_LDCTL_UNI, .rw, .val 0⟩, ⟨F.HUB_LDCTL_GO, .w1s, .val 0⟩, ⟨F.HUB_LDCTL_BUSY, .ro, .val 0⟩, ⟨F.HUB_LDCTL_CELLMASK, .rw, .val 0⟩]
  | .HUB_LDCORE => [⟨F.HUB_LDCORE_PCORE, .rw, .val 0⟩, ⟨F.HUB_LDCORE_CELL, .rw, .val 0⟩, ⟨F.HUB_LDCORE_CDIE, .rw, .val 0⟩]
  | .HUB_LDTMO => [⟨F.HUB_LDTMO_TICKS, .rw, .val 20⟩]
  | .HUB_LEVEL => [⟨F.HUB_LEVEL_B0OK, .w1c, .fuse⟩]
  | .CMP_LDCTL => [⟨F.CMP_LDCTL_LOAD, .w1s, .val 0⟩, ⟨F.CMP_LDCTL_TEST, .rw, .val 0⟩]
  | .CMP_LDSTAT => [⟨F.CMP_LDSTAT_STATE, .ro, .val 0⟩, ⟨F.CMP_LDSTAT_TDONE, .ro, .val 0⟩, ⟨F.CMP_LDSTAT_TPASS, .ro, .val 0⟩, ⟨F.CMP_LDSTAT_NCHM1, .ro, .val 0⟩]
  | .CMP_LDMISS => [⟨F.CMP_LDMISS_CHUNKS, .ro, .val 4294967295⟩]
  | .CMP_LDERR => [⟨F.CMP_LDERR_CRC, .ro, .val 0⟩, ⟨F.CMP_LDERR_MISMATCH, .ro, .val 0⟩]
  | .CMP_LDPEND => [⟨F.CMP_LDPEND_CORES, .ro, .val 0⟩]
  | .FLT_ID => [⟨F.FLT_ID_DEPTH, .ro, .val 1024⟩, ⟨F.FLT_ID_NCLASS, .ro, .val 11⟩]
  | .FLT_STAT => [⟨F.FLT_STAT_COUNT, .ro, .val 0⟩, ⟨F.FLT_STAT_OVF, .w1c, .val 0⟩, ⟨F.FLT_STAT_FULL, .ro, .val 0⟩]
  | .FLT_HEAD => [⟨F.FLT_HEAD_INDEX, .ro, .val 0⟩]
  | .FLT_NEXT => [⟨F.FLT_NEXT_SEQ, .ro, .val 0⟩]
  | .FLT_POP => [⟨F.FLT_POP_N, .wo, .val 0⟩]
  | .FLT_CTL => [⟨F.FLT_CTL_IRQ, .rw, .val 1⟩, ⟨F.FLT_CTL_ALERTOVF, .rw, .val 0⟩]
  | .FLT_DSEL => [⟨F.FLT_DSEL_CLASS, .rw, .val 0⟩]
  | .FLT_DROP => [⟨F.FLT_DROP_COUNT, .rw, .val 0⟩]
  | .FLT_POST => [⟨F.FLT_POST_DATA, .rw, .val 0⟩]
  | .FLT_PCTL => [⟨F.FLT_PCTL_GO, .w1s, .val 0⟩, ⟨F.FLT_PCTL_DROPPED, .w1c, .val 0⟩]
  | .FLT_QDATA => [⟨F.FLT_QDATA_DATA, .ro, .dash⟩]
  | .AGE_ID => [⟨F.AGE_ID_NMON, .ro, .val 64⟩, ⟨F.AGE_ID_NRAIL, .ro, .val 9⟩]
  | .AGE_CTL => [⟨F.AGE_CTL_EN, .rw, .val 1⟩, ⟨F.AGE_CTL_SAMPLE, .w1s, .val 0⟩, ⟨F.AGE_CTL_PERIOD, .rw, .val 600⟩]
  | .AGE_STAT => [⟨F.AGE_STAT_BUSY, .ro, .val 0⟩, ⟨F.AGE_STAT_DRIFT, .w1c, .val 0⟩, ⟨F.AGE_STAT_NSAMP, .ro, .val 0⟩]
  | .AGE_MSEL => [⟨F.AGE_MSEL_MON, .rw, .val 0⟩]
  | .AGE_MBASE => [⟨F.AGE_MBASE_DELAY, .ro, .fuse⟩, ⟨F.AGE_MBASE_RAIL, .ro, .fuse⟩]
  | .AGE_MVAL => [⟨F.AGE_MVAL_DELAY, .ro, .val 0⟩, ⟨F.AGE_MVAL_TJ, .ro, .val 0⟩]
  | .AGE_GUARD => [⟨F.AGE_GUARD_PCT, .rw, .val 10⟩, ⟨F.AGE_GUARD_DRIFTMAX, .rw, .val 40⟩]
  | .AGE_ESEL => [⟨F.AGE_ESEL_RAIL, .rw, .val 0⟩]
  | .AGE_EFF => [⟨F.AGE_EFF_EFF, .ro, .val 0⟩, ⟨F.AGE_EFF_EFFMIN, .ro, .val 255⟩]
  | .AGE_ROFF => [⟨F.AGE_ROFF_STEPS, .ro, .val 0⟩, ⟨F.AGE_ROFF_PEND, .rw, .val 0⟩, ⟨F.AGE_ROFF_PENDV, .rw, .val 0⟩]

/-- Where each register lies, what selects its instance and which domain holds it. -/
def Reg.place : Reg → RegPlace
  | .CMP_ID => ⟨0x600000, [(0x40000, 3)], .none, .compute⟩
  | .CMP_CELL_CTL => ⟨0x600004, [(0x40000, 3)], .none, .compute⟩
  | .CMP_MAP_SEL => ⟨0x600010, [(0x40000, 3)], .none, .compute⟩
  | .CMP_MAP_DATA => ⟨0x600014, [(0x40000, 3)], .mapSel, .compute⟩
  | .CMP_PSEL => ⟨0x600018, [(0x40000, 3)], .none, .compute⟩
  | .CMP_PCTL => ⟨0x60001c, [(0x40000, 3)], .psel, .compute⟩
  | .CMP_PDROP => ⟨0x600020, [(0x40000, 3)], .psel, .compute⟩
  | .CMP_STAT => ⟨0x600024, [(0x40000, 3)], .none, .compute⟩
  | .CMP_CSTAT => ⟨0x610000, [(0x40000, 3), (0x100, 512)], .none, .compute⟩
  | .CMP_CPC => ⟨0x610004, [(0x40000, 3), (0x100, 512)], .none, .compute⟩
  | .CMP_CFIX => ⟨0x610008, [(0x40000, 3), (0x100, 512)], .none, .compute⟩
  | .CMP_CWAIT => ⟨0x61000c, [(0x40000, 3), (0x100, 512)], .none, .compute⟩
  | .CMP_TRAP => ⟨0x610020, [(0x40000, 3), (0x100, 512), (0x4, 8)], .none, .compute⟩
  | .CMP_CNT => ⟨0x610040, [(0x40000, 3), (0x100, 512), (0x4, 16)], .none, .compute⟩
  | .CMP_LIDX => ⟨0x610080, [(0x40000, 3), (0x100, 512), (0x4, 4)], .none, .compute⟩
  | .CMP_PBASE => ⟨0x630000, [(0x40000, 3), (0x4000, 4)], .none, .compute⟩
  | .CMP_PLIMIT => ⟨0x630004, [(0x40000, 3), (0x4000, 4)], .none, .compute⟩
  | .CMP_WTMO => ⟨0x630008, [(0x40000, 3), (0x4000, 4)], .none, .compute⟩
  | .CMP_PRUN => ⟨0x63000c, [(0x40000, 3), (0x4000, 4)], .none, .compute⟩
  | .CMP_PSTAT => ⟨0x630010, [(0x40000, 3), (0x4000, 4)], .none, .compute⟩
  | .TEN_ID => ⟨0x300000, [], .none, .carrier⟩
  | .TEN_NSHARE => ⟨0x300004, [], .none, .carrier⟩
  | .TEN_OUT => ⟨0x300008, [], .none, .carrier⟩
  | .TEN_HALT_LO => ⟨0x300010, [], .none, .carrier⟩
  | .TEN_HALT_HI => ⟨0x300014, [], .none, .carrier⟩
  | .TEN_CTL => ⟨0x301000, [(0x40, 64)], .none, .carrier⟩
  | .TEN_LBASE => ⟨0x301004, [(0x40, 64)], .none, .carrier⟩
  | .TEN_LLIMIT => ⟨0x301008, [(0x40, 64)], .none, .carrier⟩
  | .TEN_WTMO => ⟨0x30100c, [(0x40, 64)], .none, .carrier⟩
  | .TEN_STAT => ⟨0x301010, [(0x40, 64)], .none, .compute⟩
  | .TEN_ENTRY => ⟨0x301014, [(0x40, 64)], .none, .compute⟩
  | .TEN_PROG => ⟨0x301018, [(0x40, 64)], .none, .compute⟩
  | .TEN_FIDX => ⟨0x30101c, [(0x40, 64)], .none, .compute⟩
  | .TEN_FADDR_LO => ⟨0x301020, [(0x40, 64)], .none, .compute⟩
  | .TEN_FADDR_HI => ⟨0x301024, [(0x40, 64)], .none, .compute⟩
  | .TEN_FINFO => ⟨0x301028, [(0x40, 64)], .none, .compute⟩
  | .TEN_FTICK => ⟨0x30102c, [(0x40, 64)], .none, .compute⟩
  | .SBF_ID => ⟨0x350000, [], .none, .carrier⟩
  | .SBF_OSEL => ⟨0x350004, [], .none, .carrier⟩
  | .SBF_OWNER => ⟨0x350008, [], .osel, .carrier⟩
  | .SBF_STAT => ⟨0x35000c, [], .none, .carrier⟩
  | .UNF_ID => ⟨0x310000, [], .none, .carrier⟩
  | .UNF_FLT => ⟨0x310004, [], .none, .carrier⟩
  | .UNF_CTL => ⟨0x311000, [(0x40, 24)], .none, .carrier⟩
  | .UNF_STAT => ⟨0x311004, [(0x40, 24)], .none, .compute⟩
  | .UNF_FSEG_LO => ⟨0x311008, [(0x40, 24)], .none, .compute⟩
  | .UNF_FSEG_HI => ⟨0x31100c, [(0x40, 24)], .none, .compute⟩
  | .UNF_FINFO => ⟨0x311010, [(0x40, 24)], .none, .compute⟩
  | .UNF_GCNT => ⟨0x311014, [(0x40, 24)], .none, .compute⟩
  | .UNF_BUSYC => ⟨0x311018, [(0x40, 24)], .none, .compute⟩
  | .DSP_ID => ⟨0x320000, [], .none, .carrier⟩
  | .DSP_CTL => ⟨0x320004, [], .none, .carrier⟩
  | .DSP_LBASE => ⟨0x320008, [], .none, .carrier⟩
  | .DSP_LLIMIT => ⟨0x32000c, [], .none, .carrier⟩
  | .DSP_WTMO => ⟨0x320010, [], .none, .carrier⟩
  | .DSP_OVBASE => ⟨0x320014, [], .none, .carrier⟩
  | .DSP_OVSIZE => ⟨0x320018, [], .none, .carrier⟩
  | .DSP_STAT => ⟨0x320020, [], .none, .compute⟩
  | .DSP_STEP => ⟨0x320024, [], .none, .compute⟩
  | .DSP_FINFO => ⟨0x320028, [], .none, .compute⟩
  | .DSP_FTICK => ⟨0x32002c, [], .none, .compute⟩
  | .DSP_NSPILL => ⟨0x320030, [], .none, .compute⟩
  | .DSP_NLOST => ⟨0x320034, [], .none, .compute⟩
  | .DSP_NNAN => ⟨0x320038, [], .none, .compute⟩
  | .TMB_ID => ⟨0x330000, [], .none, .carrier⟩
  | .TMB_ISEL => ⟨0x330004, [], .none, .carrier⟩
  | .TMB_VALUE => ⟨0x330008, [], .isel, .carrier⟩
  | .TMB_ADD => ⟨0x33000c, [], .isel, .carrier⟩
  | .TMB_WAITS => ⟨0x330010, [], .isel, .carrier⟩
  | .TMB_STAT => ⟨0x330014, [], .none, .carrier⟩
  | .TMB_NWRAP => ⟨0x330018, [], .none, .carrier⟩
  | .TMB_NCHK => ⟨0x33001c, [], .none, .carrier⟩
  | .TMB_SWTUMB => ⟨0x330020, [], .none, .carrier⟩
  | .TMB_SWTHR => ⟨0x330024, [], .none, .carrier⟩
  | .TMB_SWCTL => ⟨0x330028, [], .none, .carrier⟩
  | .TMB_SWVAL => ⟨0x33002c, [], .none, .carrier⟩
  | .TMB_BCMASK_LO => ⟨0x330030, [], .none, .carrier⟩
  | .TMB_BCMASK_HI => ⟨0x330034, [], .none, .carrier⟩
  | .TMB_BCCMD => ⟨0x330038, [], .none, .carrier⟩
  | .TMB_RANGE => ⟨0x330100, [(0x100, 4), (0x4, 64)], .none, .carrier⟩
  | .HBM_ID => ⟨0x200000, [(0x10000, 4)], .none, .carrier⟩
  | .HBM_CTL => ⟨0x200004, [(0x10000, 4)], .none, .carrier⟩
  | .HBM_STAT => ⟨0x200008, [(0x10000, 4)], .none, .carrier⟩
  | .HBM_TEMP => ⟨0x20000c, [(0x10000, 4)], .none, .carrier⟩
  | .HBM_REFCTL => ⟨0x200010, [(0x10000, 4)], .none, .carrier⟩
  | .HBM_SCHED => ⟨0x200014, [(0x10000, 4)], .none, .carrier⟩
  | .HBM_LSEL => ⟨0x200018, [(0x10000, 4)], .none, .carrier⟩
  | .HBM_LREP => ⟨0x20001c, [(0x10000, 4)], .lsel, .carrier⟩
  | .HBM_LMARG => ⟨0x200020, [(0x10000, 4)], .lsel, .carrier⟩
  | .HBM_NBURST_LO => ⟨0x200024, [(0x10000, 4)], .none, .carrier⟩
  | .HBM_NBURST_HI => ⟨0x200028, [(0x10000, 4)], .none, .carrier⟩
  | .HBM_RSEL => ⟨0x200030, [(0x10000, 4)], .none, .carrier⟩
  | .HBM_RRATE => ⟨0x200034, [(0x10000, 4)], .rsel, .carrier⟩
  | .HBM_RLEVEL => ⟨0x200038, [(0x10000, 4)], .rsel, .carrier⟩
  | .HBM_RSTALL => ⟨0x20003c, [(0x10000, 4)], .rsel, .carrier⟩
  | .HBM_RBYTES_LO => ⟨0x200040, [(0x10000, 4)], .rsel, .carrier⟩
  | .HBM_RBYTES_HI => ⟨0x200044, [(0x10000, 4)], .rsel, .carrier⟩
  | .HBM_RGCAP => ⟨0x200048, [(0x10000, 4)], .none, .carrier⟩
  | .HBM_ECE => ⟨0x200100, [(0x10000, 4)], .none, .carrier⟩
  | .HBM_EUE => ⟨0x200104, [(0x10000, 4)], .none, .carrier⟩
  | .HBM_EPSN => ⟨0x200108, [(0x10000, 4)], .none, .carrier⟩
  | .HBM_ELAST => ⟨0x20010c, [(0x10000, 4)], .none, .carrier⟩
  | .HBM_SCRUB => ⟨0x200110, [(0x10000, 4)], .none, .carrier⟩
  | .HBM_SLAP => ⟨0x200114, [(0x10000, 4)], .none, .carrier⟩
  | .HBM_SSTAT => ⟨0x200118, [(0x10000, 4)], .none, .carrier⟩
  | .HBM_NCSEL => ⟨0x200120, [(0x10000, 4)], .none, .carrier⟩
  | .HBM_NCCTL => ⟨0x200124, [(0x10000, 4)], .none, .carrier⟩
  | .HBM_BLSEL => ⟨0x200130, [(0x10000, 4)], .none, .carrier⟩
  | .HBM_BLENT => ⟨0x200134, [(0x10000, 4)], .blsel, .carrier⟩
  | .HBM_BLSTAT => ⟨0x200138, [(0x10000, 4)], .none, .carrier⟩
  | .HBM_BLMIN => ⟨0x20013c, [(0x10000, 4)], .none, .carrier⟩
  | .HBM_PENSEL => ⟨0x200140, [(0x10000, 4)], .none, .carrier⟩
  | .HBM_PEN_LO => ⟨0x200144, [(0x10000, 4)], .pensel, .carrier⟩
  | .HBM_PEN_HI => ⟨0x200148, [(0x10000, 4)], .pensel, .carrier⟩
  | .HBM_RETSEL => ⟨0x200150, [(0x10000, 4)], .none, .carrier⟩
  | .HBM_RET_LO => ⟨0x200154, [(0x10000, 4)], .retsel, .carrier⟩
  | .HBM_RET_HI => ⟨0x200158, [(0x10000, 4)], .retsel, .carrier⟩
  | .HBM_RETCNT => ⟨0x20015c, [(0x10000, 4)], .none, .carrier⟩
  | .HBM_STEST => ⟨0x200160, [(0x10000, 4)], .none, .carrier⟩
  | .SBF_SCRUB => ⟨0x350100, [], .none, .carrier⟩
  | .SBF_SLAP => ⟨0x350104, [], .none, .carrier⟩
  | .SBF_SSTAT => ⟨0x350108, [], .none, .carrier⟩
  | .SBF_ECE => ⟨0x35010c, [], .none, .carrier⟩
  | .SBF_EUE => ⟨0x350110, [], .none, .carrier⟩
  | .SBF_ELAST => ⟨0x350114, [], .none, .carrier⟩
  | .SBF_NRMW => ⟨0x350118, [], .none, .carrier⟩
  | .SBF_ZFILL => ⟨0x35011c, [], .none, .carrier⟩
  | .SBF_STEST => ⟨0x350120, [], .none, .carrier⟩
  | .CMP_SCRUB => ⟨0x600100, [(0x40000, 3)], .none, .compute⟩
  | .CMP_SLAP => ⟨0x600104, [(0x40000, 3)], .none, .compute⟩
  | .CMP_ECE => ⟨0x600108, [(0x40000, 3)], .none, .compute⟩
  | .CMP_EUE => ⟨0x60010c, [(0x40000, 3)], .none, .compute⟩
  | .CMP_STEST => ⟨0x600110, [(0x40000, 3)], .none, .compute⟩
  | .CMP_PSTEST => ⟨0x600114, [(0x40000, 3)], .psel, .compute⟩
  | .KRG_ID => ⟨0x340000, [], .none, .carrier⟩
  | .KRG_PKG => ⟨0x340004, [], .none, .carrier⟩
  | .KRG_EW0_LO => ⟨0x340008, [], .none, .carrier⟩
  | .KRG_EW0_HI => ⟨0x34000c, [], .none, .carrier⟩
  | .KRG_EW1_LO => ⟨0x340010, [], .none, .carrier⟩
  | .KRG_EW1_HI => ⟨0x340014, [], .none, .carrier⟩
  | .KRG_ECMD => ⟨0x340018, [], .none, .carrier⟩
  | .KRG_ESTAT => ⟨0x34001c, [], .none, .carrier⟩
  | .KRG_QSEL => ⟨0x340020, [], .none, .carrier⟩
  | .KRG_QUOTA => ⟨0x340024, [], .qsel, .carrier⟩
  | .KRG_QUSE => ⟨0x340028, [], .qsel, .carrier⟩
  | .KRG_PGEN => ⟨0x34002c, [], .qsel, .carrier⟩
  | .KRG_FCNT => ⟨0x340030, [], .none, .carrier⟩
  | .KRG_RKSEL => ⟨0x340040, [], .none, .carrier⟩
  | .KRG_RKBASE_LO => ⟨0x340044, [], .rksel, .carrier⟩
  | .KRG_RKBASE_HI => ⟨0x340048, [], .rksel, .carrier⟩
  | .KRG_RKLEN => ⟨0x34004c, [], .rksel, .carrier⟩
  | .KRG_RKCTL => ⟨0x340050, [], .rksel, .carrier⟩
  | .KRG_RKTIME => ⟨0x340054, [], .rksel, .carrier⟩
  | .KRG_RKHALT_LO => ⟨0x340058, [], .rksel, .carrier⟩
  | .KRG_RKHALT_HI => ⟨0x34005c, [], .rksel, .carrier⟩
  | .KRG_HWSEL => ⟨0x340100, [], .none, .carrier⟩
  | .KRG_HWCTL => ⟨0x340104, [], .hwsel, .carrier⟩
  | .KRG_HWBASE_LO => ⟨0x340108, [], .hwsel, .carrier⟩
  | .KRG_HWBASE_HI => ⟨0x34010c, [], .hwsel, .carrier⟩
  | .KRG_HWRKEY => ⟨0x340110, [], .hwsel, .carrier⟩
  | .KRG_HWLEN => ⟨0x340114, [], .hwsel, .carrier⟩
  | .KRG_IN => ⟨0x340120, [(0x4, 8)], .none, .carrier⟩
  | .HUB_ID => ⟨0x100000, [], .none, .carrier⟩
  | .HUB_SLICE => ⟨0x100004, [], .none, .carrier⟩
  | .HUB_SSEL => ⟨0x100008, [], .none, .carrier⟩
  | .HUB_SERR => ⟨0x10000c, [], .ssel, .carrier⟩
  | .HUB_KMAP => ⟨0x100010, [], .none, .carrier⟩
  | .HUB_NPATH => ⟨0x100014, [], .none, .carrier⟩
  | .HUB_RDROP => ⟨0x100018, [], .none, .carrier⟩
  | .HUB_DBSEL => ⟨0x100020, [], .none, .carrier⟩
  | .HUB_DB => ⟨0x100024, [], .dbsel, .carrier⟩
  | .HUB_DBDROP => ⟨0x100028, [], .dbsel, .carrier⟩
  | .HUB_PFENCE_LO => ⟨0x100030, [], .none, .carrier⟩
  | .HUB_PFENCE_HI => ⟨0x100034, [], .none, .carrier⟩
  | .HUB_PDROP => ⟨0x100038, [], .none, .carrier⟩
  | .KNK_ID => ⟨0x110000, [(0x10000, 2)], .none, .carrier⟩
  | .KNK_CTL => ⟨0x110004, [(0x10000, 2)], .none, .carrier⟩
  | .KNK_STAT => ⟨0x110008, [(0x10000, 2)], .none, .carrier⟩
  | .KNK_LMASK => ⟨0x11000c, [(0x10000, 2)], .none, .carrier⟩
  | .KNK_PMASK => ⟨0x110010, [(0x10000, 2)], .none, .carrier⟩
  | .KNK_AMASK => ⟨0x110014, [(0x10000, 2)], .none, .carrier⟩
  | .KNK_QCTL => ⟨0x110018, [(0x10000, 2)], .none, .carrier⟩
  | .KNK_QERR => ⟨0x11001c, [(0x10000, 2)], .none, .carrier⟩
  | .KNK_RLIM => ⟨0x110020, [(0x10000, 2)], .none, .carrier⟩
  | .KNK_NREPLAY => ⟨0x110024, [(0x10000, 2)], .none, .carrier⟩
  | .KNK_NCRC => ⟨0x110028, [(0x10000, 2)], .none, .carrier⟩
  | .KNK_MSEL => ⟨0x110030, [(0x10000, 2)], .none, .carrier⟩
  | .KNK_MARG => ⟨0x110034, [(0x10000, 2)], .msel, .carrier⟩
  | .KNK_NFLIT_LO => ⟨0x110038, [(0x10000, 2)], .none, .carrier⟩
  | .KNK_NFLIT_HI => ⟨0x11003c, [(0x10000, 2)], .none, .carrier⟩
  | .AUX_ID => ⟨0x500000, [], .none, .carrier⟩
  | .AUX_CTL => ⟨0x500004, [], .none, .carrier⟩
  | .AUX_STAT => ⟨0x500008, [], .none, .carrier⟩
  | .AUX_ALLOW => ⟨0x50000c, [], .none, .carrier⟩
  | .AUX_LIMIT => ⟨0x500010, [], .none, .carrier⟩
  | .AUX_WIN => ⟨0x500014, [], .none, .carrier⟩
  | .AUX_TRANGE => ⟨0x500018, [], .none, .carrier⟩
  | .AUX_QCTL => ⟨0x50001c, [], .none, .carrier⟩
  | .AUX_RLIM => ⟨0x500020, [], .none, .carrier⟩
  | .AUX_NREPLAY => ⟨0x500024, [], .none, .carrier⟩
  | .AUX_NCRC => ⟨0x500028, [], .none, .carrier⟩
  | .AUX_DROP => ⟨0x50002c, [], .none, .carrier⟩
  | .AUX_DESC => ⟨0x500040, [(0x4, 16)], .none, .carrier⟩
  | .SER_ID => ⟨0x400000, [], .none, .carrier⟩
  | .SER_PRES => ⟨0x400004, [], .none, .carrier⟩
  | .SER_FLT => ⟨0x400008, [], .none, .carrier⟩
  | .SER_LCTL => ⟨0x401000, [(0x40, 21)], .none, .carrier⟩
  | .SER_LSTAT => ⟨0x401004, [(0x40, 21)], .none, .carrier⟩
  | .SER_PPM => ⟨0x401008, [(0x40, 21)], .none, .carrier⟩
  | .SER_FOMCFG => ⟨0x40100c, [(0x40, 21)], .none, .carrier⟩
  | .SER_NCORR => ⟨0x401010, [(0x40, 21)], .none, .carrier⟩
  | .SER_NUNC => ⟨0x401014, [(0x40, 21)], .none, .carrier⟩
  | .SER_NCW_LO => ⟨0x401018, [(0x40, 21)], .none, .carrier⟩
  | .SER_NCW_HI => ⟨0x40101c, [(0x40, 21)], .none, .carrier⟩
  | .SER_NFILL => ⟨0x401020, [(0x40, 21)], .none, .carrier⟩
  | .SER_NPRBS => ⟨0x401024, [(0x40, 21)], .none, .carrier⟩
  | .SER_RXEQ => ⟨0x401028, [(0x40, 21)], .none, .carrier⟩
  | .SER_TXEQ => ⟨0x40102c, [(0x40, 21)], .none, .carrier⟩
  | .SER_NEVT => ⟨0x401030, [(0x40, 21)], .none, .carrier⟩
  | .PLK_ID => ⟨0x410000, [], .none, .carrier⟩
  | .PLK_RSEL => ⟨0x410004, [], .none, .carrier⟩
  | .PLK_ROUTE => ⟨0x410008, [], .plkRsel, .carrier⟩
  | .PLK_ROUT => ⟨0x41000c, [], .plkRsel, .carrier⟩
  | .PLK_TTMO => ⟨0x410010, [], .none, .carrier⟩
  | .PLK_HOPS => ⟨0x410014, [], .none, .carrier⟩
  | .PLK_STAT => ⟨0x410018, [], .none, .carrier⟩
  | .PLK_NFAIL => ⟨0x41001c, [], .none, .carrier⟩
  | .PLK_NLATE => ⟨0x410020, [], .none, .carrier⟩
  | .PLK_RESERVE => ⟨0x410024, [], .none, .carrier⟩
  | .PLK_PCTL => ⟨0x411000, [(0x40, 4)], .none, .carrier⟩
  | .PLK_PSTAT => ⟨0x411004, [(0x40, 4)], .none, .carrier⟩
  | .PLK_QCTL => ⟨0x411008, [(0x40, 4)], .none, .carrier⟩
  | .PLK_QCORR => ⟨0x41100c, [(0x40, 4)], .none, .carrier⟩
  | .PLK_RCTL => ⟨0x411010, [(0x40, 4)], .none, .carrier⟩
  | .PLK_DOZE => ⟨0x411014, [(0x40, 4)], .none, .carrier⟩
  | .PLK_NREPLAY => ⟨0x411018, [(0x40, 4)], .none, .carrier⟩
  | .PLK_NCRC => ⟨0x41101c, [(0x40, 4)], .none, .carrier⟩
  | .PLK_NFRM_LO => ⟨0x411020, [(0x40, 4)], .none, .carrier⟩
  | .PLK_NFRM_HI => ⟨0x411024, [(0x40, 4)], .none, .carrier⟩
  | .PLK_TRK => ⟨0x411028, [(0x40, 4)], .none, .carrier⟩
  | .PLK_QRES => ⟨0x41102c, [(0x40, 4)], .none, .carrier⟩
  | .ETH_ID => ⟨0x420000, [], .none, .carrier⟩
  | .ETH_LEAD => ⟨0x420004, [], .none, .carrier⟩
  | .ETH_CC => ⟨0x420008, [], .none, .carrier⟩
  | .ETH_CNPGAP => ⟨0x42000c, [], .none, .carrier⟩
  | .ETH_QSEL => ⟨0x420010, [], .none, .carrier⟩
  | .ETH_RSEL => ⟨0x420014, [], .none, .carrier⟩
  | .ETH_QCTL => ⟨0x420100, [], .ethQsel, .carrier⟩
  | .ETH_DQPN => ⟨0x420104, [], .ethQsel, .carrier⟩
  | .ETH_SPSN => ⟨0x420108, [], .ethQsel, .carrier⟩
  | .ETH_EPSN => ⟨0x42010c, [], .ethQsel, .carrier⟩
  | .ETH_DMAC_LO => ⟨0x420110, [], .ethQsel, .carrier⟩
  | .ETH_DMAC_HI => ⟨0x420114, [], .ethQsel, .carrier⟩
  | .ETH_DIP => ⟨0x420118, [(0x4, 4)], .ethQsel, .carrier⟩
  | .ETH_RBASE_LO => ⟨0x420128, [], .ethQsel, .carrier⟩
  | .ETH_RBASE_HI => ⟨0x42012c, [], .ethQsel, .carrier⟩
  | .ETH_RSLOT => ⟨0x420130, [], .ethQsel, .carrier⟩
  | .ETH_RTUMB => ⟨0x420134, [], .ethQsel, .carrier⟩
  | .ETH_RCNT => ⟨0x420138, [], .ethQsel, .carrier⟩
  | .ETH_QSTAT => ⟨0x42013c, [], .ethQsel, .carrier⟩
  | .ETH_CCRATE => ⟨0x420140, [], .ethQsel, .carrier⟩
  | .ETH_RGCTL => ⟨0x420200, [], .ethRsel, .carrier⟩
  | .ETH_RGKEY => ⟨0x420204, [], .ethRsel, .carrier⟩
  | .ETH_RGBASE_LO => ⟨0x420208, [], .ethRsel, .carrier⟩
  | .ETH_RGBASE_HI => ⟨0x42020c, [], .ethRsel, .carrier⟩
  | .ETH_RGLEN => ⟨0x420210, [], .ethRsel, .carrier⟩
  | .ETH_PCTL => ⟨0x421000, [(0x100, 2)], .none, .carrier⟩
  | .ETH_PSTAT => ⟨0x421004, [(0x100, 2)], .none, .carrier⟩
  | .ETH_PRIO => ⟨0x421008, [(0x100, 2)], .none, .carrier⟩
  | .ETH_PFCEN => ⟨0x42100c, [(0x100, 2)], .none, .carrier⟩
  | .ETH_PFCTH => ⟨0x421010, [(0x100, 2)], .none, .carrier⟩
  | .ETH_PFCWD => ⟨0x421014, [(0x100, 2)], .none, .carrier⟩
  | .ETH_NRX_LO => ⟨0x421018, [(0x100, 2)], .none, .carrier⟩
  | .ETH_NRX_HI => ⟨0x42101c, [(0x100, 2)], .none, .carrier⟩
  | .ETH_NTX_LO => ⟨0x421020, [(0x100, 2)], .none, .carrier⟩
  | .ETH_NTX_HI => ⟨0x421024, [(0x100, 2)], .none, .carrier⟩
  | .ETH_NFILT => ⟨0x421028, [(0x100, 2)], .none, .carrier⟩
  | .ETH_NBUF => ⟨0x42102c, [(0x100, 2)], .none, .carrier⟩
  | .ETH_NWARD => ⟨0x421030, [(0x100, 2)], .none, .carrier⟩
  | .ETH_NPFC => ⟨0x421034, [(0x100, 2)], .none, .carrier⟩
  | .ETH_NCNP => ⟨0x421038, [(0x100, 2)], .none, .carrier⟩
  | .ETH_NMREF => ⟨0x42103c, [(0x100, 2)], .none, .carrier⟩
  | .MBX_ID => ⟨0x10000, [], .none, .carrier⟩
  | .MBX_IPEND_LO => ⟨0x10004, [], .none, .carrier⟩
  | .MBX_IPEND_HI => ⟨0x10008, [], .none, .carrier⟩
  | .MBX_ISEL => ⟨0x1000c, [], .none, .carrier⟩
  | .MBX_ILEN => ⟨0x10010, [], .mbxIsel, .carrier⟩
  | .MBX_ISEQ => ⟨0x10014, [], .mbxIsel, .carrier⟩
  | .MBX_OSEL => ⟨0x10018, [], .none, .carrier⟩
  | .MBX_OCTL => ⟨0x1001c, [], .mbxOsel, .carrier⟩
  | .MBX_ECTL => ⟨0x10020, [], .none, .carrier⟩
  | .MBX_SUBSEL => ⟨0x10030, [], .none, .carrier⟩
  | .MBX_SUBCTL => ⟨0x10034, [], .subsel, .carrier⟩
  | .MBX_SUBMAC_LO => ⟨0x10038, [], .subsel, .carrier⟩
  | .MBX_SUBMAC_HI => ⟨0x1003c, [], .subsel, .carrier⟩
  | .MBX_SUBIP => ⟨0x10040, [(0x4, 4)], .subsel, .carrier⟩
  | .MBX_SUBCNT => ⟨0x10050, [], .subsel, .carrier⟩
  | .MBX_IDATA => ⟨0x11000, [(0x4, 1024)], .mbxIsel, .carrier⟩
  | .MBX_ODATA => ⟨0x12000, [(0x4, 1024)], .mbxOsel, .carrier⟩
  | .MBX_EDATA => ⟨0x13000, [(0x4, 1024)], .none, .carrier⟩
  | .WRD_ID => ⟨0x20000, [], .none, .aon⟩
  | .WRD_EPOCH => ⟨0x20004, [], .none, .aon⟩
  | .WRD_STAT => ⟨0x20008, [], .none, .aon⟩
  | .WRD_SVN => ⟨0x2000c, [], .none, .aon⟩
  | .WRD_PCEIL => ⟨0x20010, [], .none, .aon⟩
  | .WRD_ICEIL => ⟨0x20014, [], .none, .aon⟩
  | .WRD_LIFE => ⟨0x20018, [], .none, .aon⟩
  | .WRD_TXMASK => ⟨0x2001c, [], .none, .aon⟩
  | .WRD_PSEL => ⟨0x20020, [], .none, .aon⟩
  | .WRD_EMAC_LO => ⟨0x20024, [], .wrdPsel, .aon⟩
  | .WRD_EMAC_HI => ⟨0x20028, [], .wrdPsel, .aon⟩
  | .WRD_EIP4 => ⟨0x2002c, [], .wrdPsel, .aon⟩
  | .WRD_EIP6 => ⟨0x20030, [(0x4, 4)], .wrdPsel, .aon⟩
  | .WRD_EPORT => ⟨0x20040, [], .wrdPsel, .aon⟩
  | .WRD_NREF => ⟨0x20044, [], .none, .aon⟩
  | .WRD_MSEL => ⟨0x20048, [], .none, .aon⟩
  | .WRD_MDATA => ⟨0x2004c, [], .none, .aon⟩
  | .WRD_MEXT => ⟨0x20050, [(0x4, 8)], .none, .aon⟩
  | .WRD_MCTL => ⟨0x20070, [], .none, .aon⟩
  | .WRD_OPCTL => ⟨0x20074, [], .none, .aon⟩
  | .WRD_OIN => ⟨0x20400, [(0x4, 128)], .none, .aon⟩
  | .WRD_OOUT => ⟨0x20600, [(0x4, 128)], .none, .aon⟩
  | .PWR_ID => ⟨0x30000, [], .none, .aon⟩
  | .PWR_STATE => ⟨0x30004, [], .none, .aon⟩
  | .PWR_DCTL => ⟨0x30008, [], .none, .aon⟩
  | .PWR_WAKE => ⟨0x3000c, [], .none, .aon⟩
  | .PWR_LCNT_LO => ⟨0x30010, [], .none, .aon⟩
  | .PWR_LCNT_HI => ⟨0x30014, [], .none, .aon⟩
  | .PWR_CLK => ⟨0x30018, [], .none, .aon⟩
  | .PWR_THR => ⟨0x3001c, [], .none, .aon⟩
  | .PWR_TJ => ⟨0x30020, [], .none, .aon⟩
  | .PWR_PDIE => ⟨0x30024, [], .none, .aon⟩
  | .PWR_RSEL => ⟨0x30028, [], .none, .aon⟩
  | .PWR_RSET => ⟨0x3002c, [], .railSel, .aon⟩
  | .PWR_RMEAS => ⟨0x30030, [], .railSel, .aon⟩
  | .HUB_LDSRC => ⟨0x100100, [], .none, .carrier⟩
  | .HUB_LDCEN => ⟨0x100104, [], .none, .carrier⟩
  | .HUB_LDID => ⟨0x100108, [], .none, .carrier⟩
  | .HUB_LDCTL => ⟨0x10010c, [], .none, .carrier⟩
  | .HUB_LDCORE => ⟨0x100110, [], .none, .carrier⟩
  | .HUB_LDTMO => ⟨0x100114, [], .none, .carrier⟩
  | .HUB_LEVEL => ⟨0x100120, [], .none, .carrier⟩
  | .CMP_LDCTL => ⟨0x600200, [(0x40000, 3)], .none, .compute⟩
  | .CMP_LDSTAT => ⟨0x600204, [(0x40000, 3)], .psel, .compute⟩
  | .CMP_LDMISS => ⟨0x600208, [(0x40000, 3)], .psel, .compute⟩
  | .CMP_LDERR => ⟨0x60020c, [(0x40000, 3)], .psel, .compute⟩
  | .CMP_LDPEND => ⟨0x600210, [(0x40000, 3), (0x4, 5)], .pcell, .compute⟩
  | .FLT_ID => ⟨0x40000, [], .none, .carrier⟩
  | .FLT_STAT => ⟨0x40004, [], .none, .carrier⟩
  | .FLT_HEAD => ⟨0x40008, [], .none, .carrier⟩
  | .FLT_NEXT => ⟨0x4000c, [], .none, .carrier⟩
  | .FLT_POP => ⟨0x40010, [], .none, .carrier⟩
  | .FLT_CTL => ⟨0x40014, [], .none, .carrier⟩
  | .FLT_DSEL => ⟨0x40018, [], .none, .carrier⟩
  | .FLT_DROP => ⟨0x4001c, [], .dsel, .carrier⟩
  | .FLT_POST => ⟨0x40020, [(0x4, 8)], .none, .carrier⟩
  | .FLT_PCTL => ⟨0x40040, [], .none, .carrier⟩
  | .FLT_QDATA => ⟨0x48000, [(0x4, 8192)], .none, .carrier⟩
  | .AGE_ID => ⟨0x700000, [], .none, .aon⟩
  | .AGE_CTL => ⟨0x700004, [], .none, .aon⟩
  | .AGE_STAT => ⟨0x700008, [], .none, .aon⟩
  | .AGE_MSEL => ⟨0x70000c, [], .none, .aon⟩
  | .AGE_MBASE => ⟨0x700010, [], .ageMsel, .aon⟩
  | .AGE_MVAL => ⟨0x700014, [], .ageMsel, .aon⟩
  | .AGE_GUARD => ⟨0x700018, [], .none, .aon⟩
  | .AGE_ESEL => ⟨0x70001c, [], .none, .aon⟩
  | .AGE_EFF => ⟨0x700020, [], .esel, .aon⟩
  | .AGE_ROFF => ⟨0x700024, [], .esel, .aon⟩

/-- Part 0 of `Reg.all`. -/
def Reg.all0 : List Reg :=
  [.CMP_ID, .CMP_CELL_CTL, .CMP_MAP_SEL, .CMP_MAP_DATA, .CMP_PSEL, .CMP_PCTL, .CMP_PDROP, .CMP_STAT, .CMP_CSTAT, .CMP_CPC, .CMP_CFIX, .CMP_CWAIT, .CMP_TRAP, .CMP_CNT, .CMP_LIDX, .CMP_PBASE, .CMP_PLIMIT, .CMP_WTMO, .CMP_PRUN, .CMP_PSTAT, .TEN_ID, .TEN_NSHARE, .TEN_OUT, .TEN_HALT_LO, .TEN_HALT_HI, .TEN_CTL, .TEN_LBASE, .TEN_LLIMIT, .TEN_WTMO, .TEN_STAT, .TEN_ENTRY, .TEN_PROG, .TEN_FIDX, .TEN_FADDR_LO, .TEN_FADDR_HI, .TEN_FINFO, .TEN_FTICK, .SBF_ID, .SBF_OSEL, .SBF_OWNER]

/-- Part 1 of `Reg.all`. -/
def Reg.all1 : List Reg :=
  [.SBF_STAT, .UNF_ID, .UNF_FLT, .UNF_CTL, .UNF_STAT, .UNF_FSEG_LO, .UNF_FSEG_HI, .UNF_FINFO, .UNF_GCNT, .UNF_BUSYC, .DSP_ID, .DSP_CTL, .DSP_LBASE, .DSP_LLIMIT, .DSP_WTMO, .DSP_OVBASE, .DSP_OVSIZE, .DSP_STAT, .DSP_STEP, .DSP_FINFO, .DSP_FTICK, .DSP_NSPILL, .DSP_NLOST, .DSP_NNAN, .TMB_ID, .TMB_ISEL, .TMB_VALUE, .TMB_ADD, .TMB_WAITS, .TMB_STAT, .TMB_NWRAP, .TMB_NCHK, .TMB_SWTUMB, .TMB_SWTHR, .TMB_SWCTL, .TMB_SWVAL, .TMB_BCMASK_LO, .TMB_BCMASK_HI, .TMB_BCCMD, .TMB_RANGE]

/-- Part 2 of `Reg.all`. -/
def Reg.all2 : List Reg :=
  [.HBM_ID, .HBM_CTL, .HBM_STAT, .HBM_TEMP, .HBM_REFCTL, .HBM_SCHED, .HBM_LSEL, .HBM_LREP, .HBM_LMARG, .HBM_NBURST_LO, .HBM_NBURST_HI, .HBM_RSEL, .HBM_RRATE, .HBM_RLEVEL, .HBM_RSTALL, .HBM_RBYTES_LO, .HBM_RBYTES_HI, .HBM_RGCAP, .HBM_ECE, .HBM_EUE, .HBM_EPSN, .HBM_ELAST, .HBM_SCRUB, .HBM_SLAP, .HBM_SSTAT, .HBM_NCSEL, .HBM_NCCTL, .HBM_BLSEL, .HBM_BLENT, .HBM_BLSTAT, .HBM_BLMIN, .HBM_PENSEL, .HBM_PEN_LO, .HBM_PEN_HI, .HBM_RETSEL, .HBM_RET_LO, .HBM_RET_HI, .HBM_RETCNT, .HBM_STEST, .SBF_SCRUB]

/-- Part 3 of `Reg.all`. -/
def Reg.all3 : List Reg :=
  [.SBF_SLAP, .SBF_SSTAT, .SBF_ECE, .SBF_EUE, .SBF_ELAST, .SBF_NRMW, .SBF_ZFILL, .SBF_STEST, .CMP_SCRUB, .CMP_SLAP, .CMP_ECE, .CMP_EUE, .CMP_STEST, .CMP_PSTEST, .KRG_ID, .KRG_PKG, .KRG_EW0_LO, .KRG_EW0_HI, .KRG_EW1_LO, .KRG_EW1_HI, .KRG_ECMD, .KRG_ESTAT, .KRG_QSEL, .KRG_QUOTA, .KRG_QUSE, .KRG_PGEN, .KRG_FCNT, .KRG_RKSEL, .KRG_RKBASE_LO, .KRG_RKBASE_HI, .KRG_RKLEN, .KRG_RKCTL, .KRG_RKTIME, .KRG_RKHALT_LO, .KRG_RKHALT_HI, .KRG_HWSEL, .KRG_HWCTL, .KRG_HWBASE_LO, .KRG_HWBASE_HI, .KRG_HWRKEY]

/-- Part 4 of `Reg.all`. -/
def Reg.all4 : List Reg :=
  [.KRG_HWLEN, .KRG_IN, .HUB_ID, .HUB_SLICE, .HUB_SSEL, .HUB_SERR, .HUB_KMAP, .HUB_NPATH, .HUB_RDROP, .HUB_DBSEL, .HUB_DB, .HUB_DBDROP, .HUB_PFENCE_LO, .HUB_PFENCE_HI, .HUB_PDROP, .KNK_ID, .KNK_CTL, .KNK_STAT, .KNK_LMASK, .KNK_PMASK, .KNK_AMASK, .KNK_QCTL, .KNK_QERR, .KNK_RLIM, .KNK_NREPLAY, .KNK_NCRC, .KNK_MSEL, .KNK_MARG, .KNK_NFLIT_LO, .KNK_NFLIT_HI, .AUX_ID, .AUX_CTL, .AUX_STAT, .AUX_ALLOW, .AUX_LIMIT, .AUX_WIN, .AUX_TRANGE, .AUX_QCTL, .AUX_RLIM, .AUX_NREPLAY]

/-- Part 5 of `Reg.all`. -/
def Reg.all5 : List Reg :=
  [.AUX_NCRC, .AUX_DROP, .AUX_DESC, .SER_ID, .SER_PRES, .SER_FLT, .SER_LCTL, .SER_LSTAT, .SER_PPM, .SER_FOMCFG, .SER_NCORR, .SER_NUNC, .SER_NCW_LO, .SER_NCW_HI, .SER_NFILL, .SER_NPRBS, .SER_RXEQ, .SER_TXEQ, .SER_NEVT, .PLK_ID, .PLK_RSEL, .PLK_ROUTE, .PLK_ROUT, .PLK_TTMO, .PLK_HOPS, .PLK_STAT, .PLK_NFAIL, .PLK_NLATE, .PLK_RESERVE, .PLK_PCTL, .PLK_PSTAT, .PLK_QCTL, .PLK_QCORR, .PLK_RCTL, .PLK_DOZE, .PLK_NREPLAY, .PLK_NCRC, .PLK_NFRM_LO, .PLK_NFRM_HI, .PLK_TRK]

/-- Part 6 of `Reg.all`. -/
def Reg.all6 : List Reg :=
  [.PLK_QRES, .ETH_ID, .ETH_LEAD, .ETH_CC, .ETH_CNPGAP, .ETH_QSEL, .ETH_RSEL, .ETH_QCTL, .ETH_DQPN, .ETH_SPSN, .ETH_EPSN, .ETH_DMAC_LO, .ETH_DMAC_HI, .ETH_DIP, .ETH_RBASE_LO, .ETH_RBASE_HI, .ETH_RSLOT, .ETH_RTUMB, .ETH_RCNT, .ETH_QSTAT, .ETH_CCRATE, .ETH_RGCTL, .ETH_RGKEY, .ETH_RGBASE_LO, .ETH_RGBASE_HI, .ETH_RGLEN, .ETH_PCTL, .ETH_PSTAT, .ETH_PRIO, .ETH_PFCEN, .ETH_PFCTH, .ETH_PFCWD, .ETH_NRX_LO, .ETH_NRX_HI, .ETH_NTX_LO, .ETH_NTX_HI, .ETH_NFILT, .ETH_NBUF, .ETH_NWARD, .ETH_NPFC]

/-- Part 7 of `Reg.all`. -/
def Reg.all7 : List Reg :=
  [.ETH_NCNP, .ETH_NMREF, .MBX_ID, .MBX_IPEND_LO, .MBX_IPEND_HI, .MBX_ISEL, .MBX_ILEN, .MBX_ISEQ, .MBX_OSEL, .MBX_OCTL, .MBX_ECTL, .MBX_SUBSEL, .MBX_SUBCTL, .MBX_SUBMAC_LO, .MBX_SUBMAC_HI, .MBX_SUBIP, .MBX_SUBCNT, .MBX_IDATA, .MBX_ODATA, .MBX_EDATA, .WRD_ID, .WRD_EPOCH, .WRD_STAT, .WRD_SVN, .WRD_PCEIL, .WRD_ICEIL, .WRD_LIFE, .WRD_TXMASK, .WRD_PSEL, .WRD_EMAC_LO, .WRD_EMAC_HI, .WRD_EIP4, .WRD_EIP6, .WRD_EPORT, .WRD_NREF, .WRD_MSEL, .WRD_MDATA, .WRD_MEXT, .WRD_MCTL, .WRD_OPCTL]

/-- Part 8 of `Reg.all`. -/
def Reg.all8 : List Reg :=
  [.WRD_OIN, .WRD_OOUT, .PWR_ID, .PWR_STATE, .PWR_DCTL, .PWR_WAKE, .PWR_LCNT_LO, .PWR_LCNT_HI, .PWR_CLK, .PWR_THR, .PWR_TJ, .PWR_PDIE, .PWR_RSEL, .PWR_RSET, .PWR_RMEAS, .HUB_LDSRC, .HUB_LDCEN, .HUB_LDID, .HUB_LDCTL, .HUB_LDCORE, .HUB_LDTMO, .HUB_LEVEL, .CMP_LDCTL, .CMP_LDSTAT, .CMP_LDMISS, .CMP_LDERR, .CMP_LDPEND, .FLT_ID, .FLT_STAT, .FLT_HEAD, .FLT_NEXT, .FLT_POP, .FLT_CTL, .FLT_DSEL, .FLT_DROP, .FLT_POST, .FLT_PCTL, .FLT_QDATA, .AGE_ID, .AGE_CTL]

/-- Part 9 of `Reg.all`. -/
def Reg.all9 : List Reg :=
  [.AGE_STAT, .AGE_MSEL, .AGE_MBASE, .AGE_MVAL, .AGE_GUARD, .AGE_ESEL, .AGE_EFF, .AGE_ROFF]

/-- Every register, in the order of the tables: what the address decoder searches. -/
def Reg.all : List Reg :=
  Reg.all0 ++ Reg.all1 ++ Reg.all2 ++ Reg.all3 ++ Reg.all4 ++ Reg.all5 ++ Reg.all6 ++ Reg.all7 ++ Reg.all8 ++ Reg.all9

end Sys2Proof.Machine
end

