-- ==== Sys2Proof/Machine/State.lean ====
section
/-!
DEFINITION. The state of a Grildafold package, as plain data, and the state after reset. `Dev` is the package;
`State` adds the queue of commands that wait. Registers have their one home in `Dev.rf`; what the manual gives the
package without a register stands in the other fields.
-/
namespace Sys2Proof.Machine

/-! The package and its fuses -/

/-- The order codes of R2. -/
inductive Order where
  | gf4_1024s | gf4_768s | gf4_1024x | gf2_512s
deriving DecidableEq, Repr

/-- What fuses, straps and the order code fix for the package (R2, R254, and every "Fuse" of a register table). -/
structure Fuse where
  /-- The order code (R2). -/
  order : Order
  /-- For each base die: it is Idhinis B0 (R4), otherwise A1. -/
  b0 : List Bool
  /-- The twelve package-number straps (R254, R467). -/
  strap : Nat
  /-- Each die's ward-key generations: programmed and revoked, counted from generation 0 (R402). -/
  keys : List (Nat × Nat)
  /-- Each die's co-signature fuse (R390). -/
  cosign : List Bool
  /-- Ward keys by die and generation: 32 bytes each (R402). -/
  wardKey : KMap (Nat × Nat) Bytes
  /-- Rollback fuses blown, per die (R393). -/
  rollback : List Nat
  /-- Life-fuse steps blown, per die (R463). -/
  life : List Nat
  /-- Firmware-key revocation fuses, per die (R389, R402). -/
  revoked : List Nat
deriving DecidableEq, Repr

/-- Where a register's value is kept: the register, the die, the instance (flat over its dimensions) and what the
register's selector names. -/
structure RKey where
  reg : Reg
  die : Nat
  i : Nat
  s : Nat
deriving DecidableEq, Repr

/-! The control network (R170–R178) -/

/-- An end of the control network or of a transaction: a core by logical number, a physical core that carries none (a
cell in test mode), a tile engine, a dispatch unit, a steward, a package-link port, a tumbler bank, a cell (0–47, R33),
an auxiliary site, a queue pair of the Ethernet side of a die, a package-link port toward a package (R345). -/
inductive Ep where
  | core (l : Nat)
  | phys (k : Nat)
  | eng (die e : Nat)
  | dsp (die : Nat)
  | stw (die : Nat)
  | port (p : Nat)
  | bank (die : Nat)
  | cell (c : Nat)
  | site (die : Nat)
  | qp (die q : Nat)
  | link (p pkg : Nat)
deriving DecidableEq, Repr

/-- A control message in flight (R175), with the ends it travels between. -/
structure CtlMsg where
  src : Ep
  dst : Ep
  opc : Nat
  slot : Nat
  gen : Nat
  peer : Nat
  tumb : Nat
  val : Nat
  imm : Nat
deriving DecidableEq, Repr

/-- An armed wait in a home's wait table (R171). -/
structure WaitEnt where
  home : Nat
  idx : Nat
  thr : Nat
  who : Ep
  slot : Nat
  gen : Nat
deriving DecidableEq, Repr

/-- A range of tumblers: base and count in units of 64 (R168). -/
structure TRange where
  base : Nat
  num : Nat
  remote : Bool
deriving DecidableEq, Repr

/-! Cores (R33–R89) -/

/-- The core states of R83. -/
inductive CoreSt where
  | held | loader | idle | run | wait | trap | done
deriving DecidableEq, Repr

/-- An active loop level (R71): first and last word of the body, index, trip count. -/
structure LoopLvl where
  start : Nat
  stop : Nat
  idx : Nat
  trip : Nat
deriving DecidableEq, Repr

/-- A wait slot of a core (R77). -/
structure WSlotC where
  armed : Bool
  met : Bool
  gen : Nat
  die : Nat
  idx : Nat
  thr : Nat
deriving DecidableEq, Repr

/-- A fetched plan word (R81, R82): its word index, its bits, and whether it was uncorrectable. -/
structure FWord where
  ix : Nat
  w : Nat
  ue : Bool
deriving DecidableEq, Repr

/-- A matrix operation in the queue (R72): the word, its place, operands, accumulator, flags of the word, groups used. -/
structure MatOp where
  ix : Nat
  w : Nat
  a : Tile
  b : Tile
  acc : Nat
  clr : Bool
  exp : Int
  groups : List Grp
deriving DecidableEq, Repr

/-- An accumulator tile (R50, R53): 256 elements and the exponent E. -/
structure AccTile where
  v : List Nat
  e : Int
deriving DecidableEq, Repr

/-- What a core's loader has latched (R435). -/
structure Loader where
  latched : Bool
  nchm1 : Nat
  census : Nat
  imgid : Nat
  miss : Nat
deriving DecidableEq, Repr

/-- A physical core. -/
structure Core where
  st : CoreSt
  pc : Nat
  cnt : List Nat
  ad : List (Nat × Nat)
  loops : List LoopLvl
  latA : Option Tile
  latB : Option Tile
  acc : List AccTile
  vr : List (List Nat)
  rng : List Nat
  lut : List Nat
  flags : Flags
  dcap : Nat
  slots : List WSlotC
  trapv : Bool
  trap : Bytes
  fbuf : List FWord
  mat : List MatOp
  /-- Streams a SEED is loading (R75). -/
  seedP : Option (List Nat)
  /-- A table an LUTLD is loading (R59). -/
  lutP : Option (List Nat)
  /-- A TRADD's add, held for the release of R78. -/
  tradd : Option CtlMsg
  /-- Count registers that await a CVAL, with the tumbler asked, oldest first (R79). -/
  cvals : List (Nat × Nat)
  /-- Slots the blocking word waits on, and the tick it blocked (R77). -/
  blk : Nat
  blkAt : Nat
  /-- The word that blocks. -/
  blkW : Nat
  /-- The loop buffer: issued words of the innermost loop's body, when it has 16 words or fewer (R71). -/
  lbuf : List FWord
  /-- END has been issued and drains (R75). -/
  ending : Bool
  cfix : Nat
  /-- The copy of the partition's ranges, one per home die (R168). -/
  rngs : List TRange
  ldr : Loader
deriving DecidableEq, Repr

/-- What a cell holds besides its registers: the plan region and wait limit in force (R89), a reset under way (R37), a
PARK that waits for it (R38). -/
structure CellSt where
  pbase : Nat
  plimit : Nat
  wtmo : Nat
  parkHeld : Bool
deriving DecidableEq, Repr

/-! Transactions (R276–R278) and tile engines (R90–R115) -/

/-- Where an access lands: a GPA, a scratchpad offset of a logical core, an offset in a host window of a die. -/
inductive Tgt where
  | gpa (a : Nat)
  | spad (l off : Nat)
  | host (die win off : Nat)
deriving DecidableEq, Repr

/-- The transaction kinds of R277, and the space-2 line read of R165 under READ. -/
inductive TOp where
  | read | write | reduce | nread | nwrite
deriving DecidableEq, Repr

/-- A request in flight. `unf` marks an output line of an unfold engine's context (engine, context). -/
structure Txn where
  src : Ep
  slot : Nat
  op : TOp
  tgt : Tgt
  bkt : Nat
  red : Nat
  gran : Nat
  data : Bytes
  unf : Option (Nat × Nat)
  sq : Nat
deriving DecidableEq, Repr

/-- A response: the STAT code of R278 (0 for success) and the data of a read. `home` is
the die and hub port at which it entered; none when a hub itself answers. -/
structure Rsp where
  dst : Ep
  slot : Nat
  stat : Nat
  data : Bytes
  unf : Option (Nat × Nat)
  home : Option (Nat × Nat)
deriving DecidableEq, Repr

/-- What travels in hubs, knuckles and ports. -/
inductive Pkt where
  | req (t : Txn)
  | rsp (r : Rsp)
deriving DecidableEq, Repr

/-- Where a window slot's transaction stands (R104). -/
inductive SlotSt where
  | reading     -- its read is outstanding
  | held        -- its data waits for the rest of a packed line, or for the unfold parse
  | lineWait    -- a scattered unit waits for its line
  | writing     -- its write or reduce is outstanding
  | failed      -- it failed (R110)
  | again       -- RESUME asked for it (R111)
deriving DecidableEq, Repr

/-- A failure: cause of R109, detail, endpoint. -/
structure Fail where
  cause : Nat
  info : Nat
  addr : Nat
deriving DecidableEq, Repr

/-- A window slot in use. -/
structure WSlot where
  slot : Nat
  ent : Nat
  idx : Nat
  st : SlotSt
  src : Tgt
  dst : Tgt
  data : Bytes
  fail : Option Fail
  old : Bool
deriving DecidableEq, Repr

/-- An add of an entry: none, still to be sent, sent (R102). -/
inductive AddSt where
  | none | todo | sent
deriving DecidableEq, Repr

/-- An entry in execution or with transactions outstanding. -/
structure EntRun where
  n : Nat
  raw : Bytes
  total : Nat
  next : Nat
  fin : Nat
  add : AddSt
  /-- A TADD's translated tumbler (R95). -/
  tgt : Option Nat
  /-- Unfold rows of the entry not yet complete (R138). -/
  rows : Nat
deriving DecidableEq, Repr

/-- How a fetched entry turned out (R93). -/
inductive FetchSt where
  | ok | ue | owner | limit
deriving DecidableEq, Repr

/-- A fetched move-list entry. -/
structure Fetched where
  n : Nat
  raw : Bytes
  st : FetchSt
deriving DecidableEq, Repr

/-- A translation latch (R251): a page of an endpoint and its entry. -/
structure Latch where
  page : Nat
  size : Nat
  w1 : Nat
deriving DecidableEq, Repr

/-- A tile engine, besides its registers. -/
structure Eng where
  /-- The entry that the fetch unit reads next, and those fetched. -/
  fetchN : Nat
  fetched : List Fetched
  /-- Entries begun, oldest first; the last is in execution. -/
  ents : List EntRun
  slots : List WSlot
  /-- An entry whose wait is armed (R101), with generation and start tick. -/
  waiting : Option Fetched
  waitAt : Nat
  armed : Bool
  gen : Nat
  /-- Adds sent and not acknowledged: (home die, index) (R95). -/
  unacked : List (Nat × Nat)
  /-- Adds to other packages among them: package, index, entry, DST endpoint (R345). -/
  radds : List (Nat × Nat × Nat × Nat)
  /-- The END entry has been executed (R95). -/
  ended : Bool
  /-- A failure has been met and the halt waits for issued transactions (R110). -/
  halting : Bool
  /-- Failures that no window slot holds: entry, transaction index, failure. -/
  fails : List (Nat × Nat × Fail)
  latch : List (Option Latch)
  /-- Lines of the index list read so far: line number and bytes (R98). -/
  ixl : KMap Nat Bytes
  /-- The line a scatter is unpacking: line number and bytes (R121). -/
  lineBuf : Option (Nat × Bytes)
deriving DecidableEq, Repr

/-- An output line of an unfold row: its place in the tile in lines, its bytes, the first input line that it derives from,
and whether RESUME asked for it again. -/
structure OutLine where
  at_ : Nat
  data : Bytes
  from_ : Nat
  again : Bool
deriving DecidableEq, Repr

/-- A parsed segment that waits for the output walk: first group in the row, header line, bytes. -/
structure Seg where
  grp : Nat
  line : Nat
  bytes : Bytes
deriving DecidableEq, Repr

/-- A context of an unfold engine (R137): its row, the input held and how far it is parsed, the output made. -/
structure UCtx where
  eng : Nat
  ent : Nat
  row : Nat
  raw : Bytes
  /-- Input lines of the row that have arrived and are not parsed: line number and bytes. -/
  buf : KMap Nat Bytes
  /-- Lines parsed. -/
  parsed : Nat
  /-- Groups and segments of the row parsed so far. -/
  grp : Nat
  seg : Nat
  /-- Header line of the segment being parsed, and its bytes so far. -/
  segLine : Nat
  segBytes : Bytes
  toWalk : List Seg
  /-- The three arrays as far as they are walked. -/
  elems : Bytes
  bits : Bytes
  scales : Bytes
  /-- Ends of segments in the element array, with their header lines. -/
  marks : List (Nat × Nat)
  /-- Lines of the element array made ready. -/
  sent : Nat
  /-- The last lines of every array are ready. -/
  flushed : Bool
  /-- Output lines not yet issued, issued and not answered, and failed (R138, R141). -/
  ready : List OutLine
  out : List OutLine
  failed : List OutLine
  /-- A structural check failed (R140). -/
  bad : Bool
  /-- Input lines issued before a rekey cut (R261). -/
  oldIn : Nat
deriving DecidableEq, Repr

/-- An unfold engine: contexts 0–3, the rows that wait for one (engine, entry, row), the context walked last. -/
structure Unf where
  ctx : KMap Nat UCtx
  waitq : List (Nat × Nat × Nat)
  rr : Nat
deriving DecidableEq, Repr

/-- An overflow write of the dispatch unit that is not acknowledged: tag, step, HBM offset, the step's descriptor. -/
structure DspOut where
  tag : Nat
  step : Nat
  off : Nat
  raw : Bytes
deriving DecidableEq, Repr

/-- An add of a step that is not yet sent: step, home die, tumbler, amount. -/
structure DspAdd where
  step : Nat
  home : Nat
  idx : Nat
  val : Nat
deriving DecidableEq, Repr

/-- A dispatch unit, besides its registers (R144–R163). -/
structure Dsp where
  /-- The step whose descriptor is fetched next, and those fetched, the next to execute first. -/
  fetchN : Nat
  fetched : List Fetched
  /-- The wait of the first fetched step: armed, since when, generation; or met. -/
  armed : Bool
  waitAt : Nat
  gen : Nat
  met : Bool
  adds : List DspAdd
  out : List DspOut
  tag : Nat
  /-- Adds sent and not acknowledged: (home die, index). -/
  unacked : List (Nat × Nat)
  /-- The END step has been executed. -/
  ended : Bool
  /-- The first failure: cause and DSP_FINFO; the halt waits for issued writes. -/
  fail : Option (Nat × Nat)
deriving DecidableEq, Repr

/-! HBM and stored-data protection (R192–R240) -/

/-- A cut in progress (R232, R233): the logical row served, the row it is copied from, the blank taken, its GEN. -/
structure Cut where
  orig : RowId
  src : RowId
  entry : Nat
  gen : Nat
deriving DecidableEq, Repr

/-- A scrubber: the next unit of its walk, the tick at which the lap began, the duration of its last lap (R228, R229). -/
structure Scrub where
  pos : Nat
  start : Nat
  last : Nat
deriving DecidableEq, Repr

/-- A stack's controller, besides its registers. -/
structure HbmSt where
  /-- Measured band, and since when the samples have stayed 3 °C below its limit (R201). -/
  meas : Nat
  below : Option Nat
  /-- Failing rows queued for a cut, and the cut under way (R232). -/
  fails : List RowId
  cut : Option Cut
  /-- Repair resources the stack still has (R234). -/
  repairs : Nat
  /-- Rows escalated in the running memory test (R431). -/
  escal : Nat
deriving DecidableEq, Repr

/-- An entry of a shared-buffer bank's merge buffer (R222): its 32-byte word, the halves held. -/
structure MEnt where
  word : Nat
  lo : Option Bytes
  hi : Option Bytes
deriving DecidableEq, Repr

/-- The memory test of a die (R430): pattern, phase, path; none when no test runs. -/
structure MemTest where
  pattern : Nat
  phase : Nat
  full : Bool
deriving DecidableEq, Repr

/-! The key ring (R241–R265) -/

/-- A key-ring entry: its two words (R246). -/
structure KEnt where
  w0 : Nat
  w1 : Nat
deriving DecidableEq, Repr

/-- A rekey drain (R260, R261): the tick of the cut, and the site's request tag at the cut (requests below it are old). -/
structure Drain where
  at_ : Nat
  cut : Nat
  /-- Old writes, by issue number, that a port had accepted at the limit (R262). -/
  left : List Nat
deriving DecidableEq, Repr

/-! Knuckles and the auxiliary site (R279–R302) -/

/-- The flit layer at one end of a link (R285–R289): the last SEQ accepted, a NAK outstanding, NAKs sent; the next SEQ to
send and the last one acknowledged, as the far end's flits tell; consecutive NAKs with one ACKSEQ; slots of credit held. -/
structure FLink where
  rx : Nat
  nak : Bool
  naks : Nat
  tx : Nat
  acked : Nat
  nakSeq : Nat
  nakRun : Nat
  cred : List Nat
deriving DecidableEq, Repr

/-- A knuckle's training (R281–R284): the step in progress (0 none), whether it is FULL, a qualification failed before, a
width check failed before, trainings of each end, modules each end has not failed. -/
structure Knk where
  step : Nat
  full : Bool
  qretry : Bool
  wretry : Bool
  trains : Nat × Nat
  good : Nat × Nat
deriving DecidableEq, Repr

/-- A request from a site die: its header and the lines that have arrived (R295, R298). -/
structure SReq where
  hdr : Bytes
  lines : List Bytes
deriving DecidableEq, Repr

/-- A site request issued into the package: the tag of its first line, its header, answers by line: (STAT, data). -/
structure SOut where
  tag : Nat
  hdr : Bytes
  n : Nat
  got : KMap Nat (Nat × Bytes)
deriving DecidableEq, Repr

/-- An auxiliary site's adapter, besides its registers: the bring-up step (0 none), repeats of training and qualification,
the flit layer; requests of the site being received, complete, and issued; tumbler writes that wait or are not
acknowledged; window requests sent to the site (tag, request, tick) and answers being received; transaction headers and
lines sent to the site. -/
structure Site where
  step : Nat
  tretry : Bool
  qretry : Bool
  pend : Option Nat
  link : FLink
  hdrs : List SReq
  reqs : List SReq
  issued : List SOut
  adds : List SReq
  addOut : List (SReq × Nat × Nat)
  tag : Nat
  win : List (Nat × Txn × Nat)
  answers : List SReq
  sent : List SReq
deriving DecidableEq, Repr
/-! Serial lanes and package links (R303–R348) -/

/-- A delivered block: 0 data, 1 control, 2 a block lost to an uncorrectable codeword, 3 an empty slot; 32 bytes. -/
structure Blk where
  kind : Nat
  bytes : Bytes
deriving DecidableEq, Repr

/-- A lane, besides its registers. -/
structure Lane where
  /-- The sequence under way: 0 none, 1 that of R312, 2 the short TRAIN of R308, 3 the hunt of R310, 4 the exit of R321. -/
  seq : Nat
  retry : Bool
  /-- The command held, 0 for none; the tick at which STATE was entered. -/
  pend : Nat
  at_ : Nat
  /-- The receiver is aligned; the last headers judged, true for an invalid one (R309, R310). -/
  lock : Bool
  hdrs : List Bool
  /-- The last 58 payload bits received (R306). -/
  scr : Nat
  /-- The elastic buffer, oldest first, and what has been delivered to the upper layer (R307). -/
  ebuf : List Blk
  out : List Blk
  /-- TRAIN exchange: consecutive READY blocks received, own and far loop-timing requests, the far lane and package. -/
  ready : Nat
  req : Bool
  farReq : Bool
  farLane : Nat
  farPkg : Nat
  /-- The tick of the last refused fall-back; since when the offset is above +400 ppm, and FOM below FOMMIN. -/
  refused : Option Nat
  fast : Option Nat
  low : Option Nat
  /-- The tick of the last adaptation step in UP (R315). -/
  stepAt : Nat
  /-- The port layer requests doze; since when the transmitter dozes; wake codewords received (R316–R318). -/
  doze : Bool
  dozeAt : Nat
  wakes : Nat
  /-- The PRBS31 checker: bits seen (at most 31) and the last 31 (R322). -/
  prbsN : Nat
  prbs : Nat
  /-- The tick of the last block received. -/
  seen : Nat
  /-- Far package, port and lane index of the last LINK block with IDV (R331). -/
  ident : Option (Nat × Nat × Nat)
  /-- Codewords of one control type sent: type and number (R316–R320). -/
  sent : List (Nat × Nat)
deriving DecidableEq, Repr

/-- A message in a sub-channel's stream (R330): its link header's fields, the header or control message, its lines. -/
structure LMsg where
  kind : Nat
  hops : Nat
  spkg : Nat
  dpkg : Nat
  tag : Nat
  hdr : Bytes
  lines : Bytes
deriving DecidableEq, Repr

/-- What an outbound tracker entry stands for: a request of the package, a tumbler add, a request in transit (the port it
came by and its inbound entry there). -/
inductive LWho where
  | txn (t : Txn)
  | add (m : CtlMsg)
  | transit (port tag : Nat)
deriving DecidableEq, Repr

/-- An outbound tracker entry (R341): LTAG, what it stands for, the destination package, the tick at which it left. -/
structure OTrk where
  tag : Nat
  who : LWho
  pkg : Nat
  at_ : Nat
deriving DecidableEq, Repr

/-- An inbound tracker entry (R341): its number, the request, answers by line (STAT, data); `fwd` when it was forwarded. -/
structure ITrk where
  tag : Nat
  msg : LMsg
  n : Nat
  got : KMap Nat (Nat × Bytes)
  fwd : Bool
deriving DecidableEq, Repr

/-- A sequenced frame: SEQ, sub-channel (0 requests, 1 responses), its payload units. -/
structure LFrame where
  seq : Nat
  sub : Nat
  units : Bytes
deriving DecidableEq, Repr

/-- A package-link port, besides its registers. -/
structure PPort where
  /-- Qualification repeated; the command held; the tick at which STATE was entered. -/
  qretry : Bool
  pend : Nat
  at_ : Nat
  /-- SER_NUNC and SER_NCORR of each lane index when qualification began; indices with a failed QUAL frame (R338). -/
  qbase : List (Nat × Nat)
  qbad : Nat
  /-- Transmitter (R333): frames held, next SEQ, last acknowledged, the tick it advanced, repeated NAKs, replays, storm. -/
  held : List LFrame
  tx : Nat
  acked : Nat
  ackAt : Nat
  nakSeq : Option Nat
  nakRun : Nat
  replays : List Nat
  storm : Option Nat
  /-- Receiver: last SEQ accepted, a NAK outstanding, frames accepted and not acknowledged, frames ahead by lane index. -/
  rx : Nat
  nak : Bool
  owe : Nat
  early : List (Nat × LFrame)
  /-- Frames that may be sent, and buffers freed and not yet returned, by sub-channel (R332). -/
  cred : Nat × Nat
  freed : Nat × Nat
  /-- Streams received and not yet cut into messages, messages not yet sent, by sub-channel (R330). -/
  rxs : Bytes × Bytes
  txs : Bytes × Bytes
  inReq : List LMsg
  inRsp : List LMsg
  otrk : List OTrk
  itrk : List ITrk
  itag : Nat
  /-- The lane index whose turn it is, and what has been sent: lane index and bytes of a frame or LINK block. -/
  turn : Nat
  wire : List (Nat × Bytes)
deriving DecidableEq, Repr

/-! Host Ethernet ports (R349–R367) -/

/-- An accepted packet (R352): priority, kind (0 RoCEv2, 1 mailbox, 2 PFC), source MAC, IP version and address, UDP port,
the CE mark, the UDP payload (or the PFC body), the frame's length. -/
structure RPkt where
  prio : Nat
  kind : Nat
  mac : Nat
  v6 : Bool
  ip : Nat
  udp : Nat
  ce : Bool
  pl : Bytes
  len : Nat
deriving DecidableEq, Repr

/-- A frame to send: its priority, whether it is PFC, its bytes with FCS. -/
structure EFrame where
  prio : Nat
  pfc : Bool
  bytes : Bytes
deriving DecidableEq, Repr

/-- An Ethernet port, besides its registers. -/
structure EPort where
  at_ : Nat
  phy : Nat
  pend : Nat
  rx : List RPkt
  tx : List EFrame
  wire : List Bytes
  /-- Priorities that the port has paused at its partner (R354). -/
  xoff : List Nat
  /-- Paused priorities: the quanta of the last PFC frame and since when without a break (R354, R355). -/
  paused : KMap Nat (Nat × Nat)
  /-- Priorities whose watchdog has tripped: the tick of the last pause received. -/
  wd : KMap Nat Nat
  /-- The egress bucket in bytes and the tick of that level (R365). -/
  level : Nat
  levAt : Nat
  /-- The tick of the last record of a frame dropped by the Ward (R364). -/
  wardAt : Option Nat
deriving DecidableEq, Repr

/-- An RDMA operation of a queue pair as requester (R358): a WRITE or a READ, first PSN, packets, sent or waiting, host
address, remote key, the line requests it carries in order, lines of a READ received. -/
structure QOp where
  write : Bool
  psn : Nat
  npk : Nat
  sent : Bool
  va : Nat
  rkey : Nat
  lines : List Txn
  got : Nat
deriving DecidableEq, Repr

/-- An inbound packet or READ of a queue pair under way (R359, R360): 0 a READ, 1 a packet of a WRITE, 2 the last packet of a
WRITE, 3 a SEND; its PSN, first line tag, lines, answers by line, bytes, offset in the first line, line requests that wait for the
earlier ones of the queue pair. -/
structure QIn where
  kind : Nat
  psn : Nat
  tag : Nat
  n : Nat
  got : KMap Nat (Nat × Bytes)
  len : Nat
  off : Nat
  wait : List Txn
deriving DecidableEq, Repr

/-- A multi-packet inbound message: a SEND or a WRITE, its place, length and remote key, its data so far. -/
structure QMsg where
  send : Bool
  va : Nat
  rkey : Nat
  len : Nat
  data : Bytes
deriving DecidableEq, Repr

/-- A queue pair, besides its registers. -/
structure QP where
  ops : List QOp
  at_ : Nat
  retries : Nat
  /-- The ticks of the last rate cut, of the last CNP received or rate increase, of the last CNP sent (R356). -/
  cutAt : Option Nat
  cnpAt : Nat
  sentAt : Option Nat
  msg : Option QMsg
  inb : List QIn
  tag : Nat
  msn : Nat
  /-- A NAK for a sequence error has been sent and the expected PSN has not come. -/
  nak : Bool
deriving DecidableEq, Repr

/-! Mailbox and stewards (R362–R388) -/

/-- The source of a delivered request: sequence number, port, MAC, IP version and address, UDP port, message length, and
whether it has been answered (R363). -/
structure MIn where
  seq : Nat
  port : Nat
  mac : Nat
  v6 : Bool
  ip : Nat
  udp : Nat
  len : Nat
  done : Bool
deriving DecidableEq, Repr

/-- A session (R376): identifier, key, the SA expected while step 2 is awaited, the tick of step 1, the least COUNTER that is
still accepted (R378). -/
structure Sess where
  sid : Nat
  key : Bytes
  sax : Option Bytes
  at_ : Nat
  ctr : Nat
deriving DecidableEq, Repr

/-- A Helham request as its answer needs it: slot, session, opcode, COUNTER, TAG, body. -/
structure HReq where
  slot : Nat
  sid : Nat
  op : Nat
  ctr : Nat
  tag : Nat
  body : Bytes
deriving DecidableEq, Repr

/-- A domain of R379. -/
inductive HDom where
  | pkg
  | die (d : Nat)
  | part (p : Nat)
  | link (kind die i : Nat)
deriving DecidableEq, Repr

/-- A command under way: the request, its phase, the tick at which it began, whether ACCEPTED or DEFERRED has been sent,
whether it waits in a pending slot, dies that do not answer, a number the phase keeps. -/
structure Job where
  req : HReq
  phase : Nat
  at_ : Nat
  acc : Bool
  held : Bool
  silent : Nat
  arg : Nat
deriving DecidableEq, Repr

/-- A subscription (R387): session, event classes. -/
structure Sub where
  sid : Nat
  classes : Nat
deriving DecidableEq, Repr

/-- A plan watched for its end (R384): partition, tumbler, threshold. -/
structure Watch where
  part : Nat
  home : Nat
  idx : Nat
  thr : Nat
deriving DecidableEq, Repr

/-- A margin proposal (R460, R462): its PID and the 32 bytes of each die. -/
structure MProp where
  pid : Nat
  dies : List Bytes
deriving DecidableEq, Repr

/-- A steward: its firmware runs; it acts as lead; sessions; commands under way; subscriptions; watched plans; the tick of
the last heartbeat and of an election's start; the proposal, the tick of the last evaluation and each die's NSAMP at it; the next session number
and PID; the image being staged and its total length. -/
structure Stew where
  fw : Bool
  lead : Bool
  sess : List Sess
  jobs : List Job
  subs : KMap Nat Sub
  watch : List Watch
  hbAt : Nat
  elect : Option Nat
  prop : Option MProp
  evalAt : Option Nat
  nsamp : List Nat
  sid : Nat
  pid : Nat
  image : KMap Nat Bytes
  total : Nat
deriving DecidableEq, Repr

/-- A partition as its creator recorded it (R383): cells, engines, unfold engines and dispatch units by die; a reset under
way; fault held (R454); in P1; the body of its PARTITION_CREATE. -/
structure Part where
  cells : Nat
  ten : List Nat
  unf : List Nat
  dsp : Nat
  reset : Bool
  fault : Bool
  parked : Bool
  body : Bytes
deriving DecidableEq, Repr

/-! The Ward, power and bring-up (R389–R444) -/

/-- A relayed ward-slot update that waits for other Wards: the dies that do not answer, the per-die codes, the tick. -/
structure WRelay where
  silent : Nat
  codes : List Nat
  at_ : Nat
deriving DecidableEq, Repr

/-- A Ward, besides its registers: nonces (its own and one for each die, R391), last COUNTER accepted, host keys,
measurements, what the booted header gave, an operation under way, an update that waits. -/
structure Ward where
  nonces : List Bytes
  ctr : Option Nat
  host : KMap Nat Bytes
  meas : List Bytes
  fwver : Nat
  sigkey : Nat
  op : Option (Nat × Bytes)
  relay : Option WRelay
deriving DecidableEq, Repr

/-- A die's power side, besides its registers: the final target of the running transition and the tick at which its step
began; duties asked by temperature, package ceiling and current ceiling (in sixteenths), since when each release condition
holds and the tick of the last step of each; the last power figures of the dies; a memory test of this bring-up has ended; the tick of the last periodic ageing sample. -/
structure PwSt where
  goal : Nat
  begun : Nat
  duty : List Nat
  cool : List (Option Nat)
  stepAt : List Nat
  figs : List Nat
  tested : Bool
  ageAt : Nat
deriving DecidableEq, Repr


/-! The package -/

/-- Which power domains of a die are powered besides the always-on domain (R27, R407): the whole carrier domain, the
part of it that P3 keeps (R237), the compute domain. -/
structure DiePw where
  carrier : Bool
  kept : Bool
  compute : Bool
deriving DecidableEq, Repr

/-- A Grildafold package. -/
structure Dev where
  fuse : Fuse
  pw : List DiePw
  /-- The always-on domain of each die is powered (PWRGOOD, R470). -/
  aon : List Bool
  /-- Register values; an absent register holds its reset value (R10). -/
  rf : KMap RKey Word
  /-- Captured upper halves and held lower halves of R12: by steward and _LO register. -/
  capt : KMap (Nat × RKey) Word
  held : KMap (Nat × RKey) Word
  /-- The model's own: the draw counter of the free values (Config). -/
  free : Nat
  mem : Memory
  /-- Ranges of storage that hold no valid code (R225). -/
  unwritten : List (Nat × Nat)
  /-- Masks by which stored words differ from their codewords, by the address of the protected unit. -/
  errs : KMap Nat Nat
  /-- The local counter of each die (R8, R423). -/
  lcnt : List Nat
  cores : KMap Nat Core
  cells : KMap Nat CellSt
  /-- The partition that a cell belongs to (R29). -/
  cellPart : KMap Nat Nat
  tmb : KMap Nat Word
  waits : List WaitEnt
  /-- Generation of each steward's wait (R180). -/
  swGen : List Nat
  ctl : List CtlMsg
  net : List Pkt
  /-- Issue order of transactions (R106). -/
  sqn : Nat
  engs : KMap Nat Eng
  unfs : KMap Nat Unf
  dsps : KMap Nat Dsp
  /-- Requests held by the bandwidth regulators, by (die, stack × 4 + group, bucket), oldest first (R205–R207). -/
  bq : KMap (Nat × Nat × Nat) (List Txn)
  /-- Admitted reads and reduces, by (die, channel 0–127) (R198). -/
  rdq : KMap (Nat × Nat) (List Txn)
  /-- Written units that wait to drain, by (die, channel) (R197, R198). -/
  wrq : KMap (Nat × Nat) (List Nat)
  /-- Open rows: by (die, pseudo-channel 0–255, bank) (R198). -/
  rows : KMap (Nat × Nat × Nat) Nat
  hbm : KMap Nat HbmSt
  /-- Narrow-coded regions, (die, region) (R217), and a conversion under way (R218). -/
  narrow : List (Nat × Nat)
  conv : KMap Nat (Nat × Bool)
  merge : KMap (Nat × Nat) (List MEnt)
  /-- Scrubbers: by memory (0 HBM, 1 shared buffer, 2 scratchpad) and unit: die × 128 + channel, die × 256 + bank, core key
  (R228). -/
  scrub : KMap (Nat × Nat) Scrub
  /-- Corrected SRAM words that wait for their write-back: unit address, stored data at the read, data to write (R228). -/
  wback : List (Nat × Bytes × Bytes)
  /-- Checker self-tests under way: memory, die, stack or compute die (R230). -/
  stest : List (Nat × Nat × Nat)
  /-- The MiB that a zero fill of a die is writing (R239). -/
  zfill : KMap Nat Nat
  memtest : KMap Nat MemTest
  krg : KMap (Nat × Nat × Nat) KEnt
  /-- A key-ring command's result that BUSY still hides: (result, way) (R256). -/
  krgP : KMap Nat (Nat × Nat)
  drains : KMap (Nat × Nat) Drain
  /-- What the last steward load returned and whether the access faulted, and stores since the last fence (R187). -/
  stwIo : KMap Nat (Bytes × Bool × Nat)
  flinks : KMap (Nat × Nat) FLink
  knks : KMap Nat Knk
  /-- A KNK_CTL command held in its pending slot, by (die, instance) (R284). -/
  knkPend : KMap (Nat × Nat) Nat
  /-- Map updates on their way: (die, knuckle) (R274). -/
  mapUpd : List (Nat × Nat)
  sites : KMap Nat Site
  /-- A cause that asserts ALERT_N, and TRIP_N asserted, per die (R390, R419, R422, R423, R428). -/
  alert : List Bool
  tripN : List Bool
  /-- Interrupts of each steward by accepted fault records (R451, FLT_CTL.IRQ). -/
  irqs : List Nat
  /-- Lanes by (die, local lane), package-link ports 0–15, Ethernet ports by (die, local port), queue pairs. -/
  lanes : KMap (Nat × Nat) Lane
  ports : KMap Nat PPort
  eths : KMap (Nat × Nat) EPort
  qps : KMap Nat QP
  /-- The requests that the inbound slots hold, by (die, slot) (R363, R368); the messages stand in MBX_IDATA, MBX_ODATA. -/
  mbxIn : KMap (Nat × Nat) MIn
  stews : KMap Nat Stew
  parts : KMap Nat Part
  wards : KMap Nat Ward
  pws : KMap Nat PwSt
  /-- Loader chunks on their way to physical cores: header and data (R435). -/
  chunks : List (Nat × Bytes)
  /-- Telemetry block and dynamic address of each die's I3C target (R474). -/
  i3c : KMap Nat (Bytes × Option Nat)
  /-- What that target last answered: acknowledged, and its bytes. -/
  i3cOut : KMap Nat (Bool × Bytes)
  /-- Image banks of the boot flashes, by (die, bank) (R390). -/
  flash : KMap (Nat × Nat) Bytes
deriving DecidableEq, Repr

/-! Outcomes -/

/-- Reasons the machine stops with a fault. No command of the table ends in one: what the manual calls a fault is an
effect on the state (a trap, a halt, a record). -/
inductive Fault where
  /-- Raised by no command. Safe: it stands for an outcome the model never gives. -/
  | none
deriving DecidableEq, Repr

/-- Reasons there is no meaning for a command. -/
inductive Refusal where
  /-- Raised by an arm of `exec` whose command has no meaning yet. Safe: nothing follows from it. -/
  | notModelled (mnemonic : String)
deriving DecidableEq, Repr

/-- The machine: the commands that wait, first in first out, and the package. -/
structure State where
  pending : List Instr
  dev : Dev
deriving DecidableEq, Repr

/-- A command's effect on the package alone: the queue is left as it is. -/
def State.on (f : Dev → Dev) (s : State) : Host.Outcome State Fault Refusal := .next { s with dev := f s.dev }

/-! Reset -/

/-- First address of the scratchpads in `Dev.mem`. -/
def scratchBase : Nat := 2 ^ 60

/-- Address of a GPA's die and space in `Dev.mem`: the GPA without its package field (R22). -/
def gpaBase (die space : Nat) : Nat := die * 2 ^ 46 + space * 2 ^ 43

/-- What holds no valid code before anything is written: the shared buffers, the scratchpads and, before its memory
test, HBM (R225). -/
def unwrittenAtReset : List (Nat × Nat) :=
  (scratchBase, 12288 * 2 ^ 18) ::
  (List.range 4).flatMap fun die => [(gpaBase die 0, 2 ^ 38), (gpaBase die 1, 384 * 2 ^ 20)]

/-- A Ward as its always-on domain comes up: nonces drawn from its random source (R391), nothing measured, no host key. -/
def Ward.fresh (k : Nat) : Ward where
  nonces := (List.range 4).map fun j => (List.range 16).map fun b => Config.random k (16 * j + b)
  ctr := none
  host := []
  meas := List.replicate 3 (List.replicate 32 0)
  fwver := 0
  sigkey := 0
  op := none
  relay := none

/-- The package right after the always-on domains have come up with nothing else powered: every register at its Reset
column (R10), every queue empty. Fuses and order code are the model's choice (log entry 4). -/
def Dev.reset : Dev where
  fuse := { order := .gf4_1024x, b0 := [true, true, true, true], strap := 0,
            keys := List.replicate 4 (0, 0), cosign := List.replicate 4 false, wardKey := [], rollback := [0, 0, 0, 0],
            life := [0, 0, 0, 0], revoked := [0, 0, 0, 0] }
  pw := List.replicate 4 ⟨false, false, false⟩
  aon := [true, true, true, true]
  rf := []
  capt := []
  held := []
  free := 4
  mem := []
  unwritten := unwrittenAtReset
  errs := []
  lcnt := [0, 0, 0, 0]
  cores := []
  cells := []
  cellPart := []
  tmb := []
  waits := []
  swGen := [0, 0, 0, 0]
  ctl := []
  net := []
  sqn := 0
  engs := []
  unfs := []
  dsps := []
  bq := []
  rdq := []
  wrq := []
  rows := []
  hbm := []
  narrow := []
  conv := []
  merge := []
  scrub := []
  wback := []
  stest := []
  zfill := []
  memtest := []
  krg := []
  krgP := []
  drains := []
  stwIo := []
  flinks := []
  knks := []
  knkPend := []
  mapUpd := []
  sites := []
  alert := [false, false, false, false]
  tripN := [false, false, false, false]
  irqs := [0, 0, 0, 0]
  lanes := []
  ports := []
  eths := []
  qps := []
  mbxIn := []
  stews := []
  parts := []
  wards := (List.range 4).map fun die => (die, Ward.fresh die)
  pws := []
  chunks := []
  i3c := []
  i3cOut := []
  flash := []

/-- The machine right after reset: the package at reset, no command waiting. -/
def State.reset : State := { pending := [], dev := Dev.reset }

end Sys2Proof.Machine
end

