-- ==== Sys2Proof/Machine/Regs.lean ====
section
/-!
DEFINITION. The control registers: their values, their addresses (R9, R23, R24), the generic access codes (R10, R11,
R14), and the 64-bit pairs (R12).
-/
namespace Sys2Proof.Machine

/-! Facts of the package (R2–R4) -/

/-- The package is a GF2. -/
def Dev.gf2 (d : Dev) : Bool := d.fuse.order == .gf2_512s

/-- Base dies of the package (R2, R3). -/
def Dev.ndies (d : Dev) : Nat := if d.gf2 then 2 else 4

/-- Cells, and partitions, of the package (R3, R29). -/
def Dev.ncells (d : Dev) : Nat := 12 * d.ndies

/-- HBM capacity of a die in bytes (R22). -/
def Dev.hbmBytes (d : Dev) : Nat := if d.fuse.order == .gf4_768s then 192 * 2 ^ 30 else 256 * 2 ^ 30

/-- The die's own revision is Idhinis B0. -/
def Dev.dieB0 (d : Dev) (die : Nat) : Bool := d.fuse.b0.getD die false

/-! Values -/

/-- The set point of each rail at test, mV: the typical value of its row (R421, R466). Log entry 4. -/
def railTyp (rail : Nat) : Nat := [800, 750, 850, 850, 750, 750, 750, 750, 750].getD rail 0

/-- What fuses load into a field (R10, "Fuse", "Lane", "Link-local"). Log entry 4. -/
def Dev.fuseVal (d : Dev) (f : Fld) (die i s : Nat) : Nat :=
  match f.reg with
  | .CMP_ID => if f.lo = 0 then 0xA0 else 7
  | .CMP_MAP_DATA => s % 128
  | .TEN_ID => if f.lo = 8 then (if d.dieB0 die then 0xB0 else 0xA1) else (if d.dieB0 die then 1 else 0)
  | .TMB_ID => if d.dieB0 die then 1 else 0
  | .HUB_ID => if d.gf2 then 0x10 else 0x11
  | .KNK_ID => if f.lo = 0 then (if d.gf2 then 17 else 18) else (if d.dieB0 die then 2 else 1)
  | .AUX_ID => if d.fuse.order == .gf4_1024x then 0 else 1
  | .AUX_LIMIT => 300
  | .SER_PRES => if d.gf2 then 0x1EFFFF else 0x1FFFFF
  | .SER_LCTL => if i < 17 then 0 else 1
  | .PLK_ID => if d.gf2 then 0 else 1
  | .WRD_ID =>
    let k := d.fuse.keys.getD die (0, 0)
    if f.lo = 0 then (if d.dieB0 die then 0xB0 else 0xA1)
    else if f.lo = 8 then k.1 - 1
    else if f.lo = 10 then (if k.2 < k.1 then 1 else 0)
    else if f.lo = 11 then (if d.fuse.cosign.getD die false then 1 else 0)
    else d.fuse.revoked.getD die 0
  | .WRD_SVN => d.fuse.rollback.getD die 0
  | .WRD_LIFE => d.fuse.life.getD die 0
  | .WRD_EIP6 => [0xFE000000, 0x020000FF, 0, 0xFE800000].getD i 0
  | .PWR_ID => if d.dieB0 die then 0xB0 else 0xA1
  | .PWR_RSET => railTyp s
  | .HUB_LEVEL => if d.dieB0 die then 1 else 0
  | .AGE_MBASE => if f.lo = 0 then 0x2710 else s % 9
  | _ => 0

/-- A field's value at its reset. A dash, "undefined until written", is 0 (log entry 3). -/
def Dev.resetFld (d : Dev) (row : FldRow) (die i s : Nat) : Nat :=
  match row.rst with
  | .val n => n
  | .fuse => d.fuseVal row.fld die i s
  | .dash => 0

/-- A register's value at its reset. -/
def Dev.resetWord (d : Dev) (k : RKey) : Nat :=
  k.reg.rows.foldl (fun w row => setBits w row.fld.hi row.fld.lo (d.resetFld row k.die k.i k.s)) 0

/-- The word a register holds. -/
def Dev.raw (d : Dev) (k : RKey) : Nat :=
  match d.rf.at? k with
  | some w => w.toNat
  | none => d.resetWord k

/-- A register set to a word. -/
def Dev.setRaw (d : Dev) (k : RKey) (w : Nat) : Dev := { d with rf := d.rf.put k (BitVec.ofNat 32 w) }

/-- A field's value. -/
def Dev.get (d : Dev) (f : Fld) (die : Nat) (i : Nat := 0) (s : Nat := 0) : Nat :=
  bitsOf (d.raw ⟨f.reg, die, i, s⟩) f.hi f.lo

/-- A field is not 0. -/
def Dev.on? (d : Dev) (f : Fld) (die : Nat) (i : Nat := 0) (s : Nat := 0) : Bool := d.get f die i s != 0

/-- A field set to a value. -/
def Dev.put (d : Dev) (f : Fld) (v die : Nat) (i : Nat := 0) (s : Nat := 0) : Dev :=
  d.setRaw ⟨f.reg, die, i, s⟩ (setBits (d.raw ⟨f.reg, die, i, s⟩) f.hi f.lo v)

/-- A counter field that wraps, counted up by `k`. -/
def Dev.count (d : Dev) (f : Fld) (k die : Nat) (i : Nat := 0) (s : Nat := 0) : Dev :=
  d.put f ((d.get f die i s + k) % 2 ^ (f.hi + 1 - f.lo)) die i s

/-- A counter field that stays at its largest value, counted up by `k`. -/
def Dev.countSat (d : Dev) (f : Fld) (k die : Nat) (i : Nat := 0) (s : Nat := 0) : Dev :=
  d.put f (satAdd (f.hi + 1 - f.lo) (d.get f die i s) k) die i s

/-- A 64-bit counter in a _LO and a _HI register, counted up by `k`. -/
def Dev.count64 (d : Dev) (lo hi : Fld) (k die : Nat) (i : Nat := 0) (s : Nat := 0) : Dev :=
  let n := d.get lo die i s + 2 ^ 32 * d.get hi die i s + k
  (d.put lo (n % 2 ^ 32) die i s).put hi (n / 2 ^ 32 % 2 ^ (hi.hi + 1 - hi.lo)) die i s

/-- A 64-bit value in a _LO and a _HI field, each from its own bit. -/
def Dev.put64 (d : Dev) (lo hi : Fld) (v die : Nat) (i : Nat := 0) (s : Nat := 0) : Dev :=
  (d.put lo (v / 2 ^ lo.lo % 2 ^ (32 - lo.lo)) die i s).put hi (v / 2 ^ 32) die i s

/-- The 64-bit value that a _LO and a _HI field hold. -/
def Dev.get64 (d : Dev) (lo hi : Fld) (die : Nat) (i : Nat := 0) (s : Nat := 0) : Nat :=
  d.get lo die i s * 2 ^ lo.lo + 2 ^ 32 * d.get hi die i s

/-- Registers of the named domains of a die at their Reset column (R10). -/
def Dev.resetRegs (d : Dev) (die : Nat) (doms : List Dom) : Dev :=
  { d with rf := d.rf.delIf fun k => k.die == die && doms.contains (Reg.place k.reg).dom }

/-! Addresses (R23, R24) -/

/-- A block of a die's control space: first offset, instances and their stride, last defined register's offset. -/
structure RegBlock where
  base : Nat
  num : Nat
  stride : Nat
  last : Nat
deriving DecidableEq, Repr

/-- The blocks of R23 with the instances this package builds. -/
def Dev.blocks (d : Dev) : List RegBlock :=
  [⟨0x10000, 1, 0x10000, 0x3FFC⟩, ⟨0x20000, 1, 0x10000, 0x7FC⟩, ⟨0x30000, 1, 0x10000, 0x30⟩,
   ⟨0x40000, 1, 0x10000, 0xFFFC⟩, ⟨0x100000, 1, 0x10000, 0x120⟩,
   ⟨0x110000, if d.gf2 then 1 else 2, 0x10000, 0x3C⟩, ⟨0x200000, 4, 0x10000, 0x160⟩, ⟨0x300000, 1, 0x10000, 0x1FEC⟩,
   ⟨0x310000, 1, 0x10000, 0x15D8⟩, ⟨0x320000, 1, 0x10000, 0x38⟩, ⟨0x330000, 1, 0x10000, 0x4BC⟩,
   ⟨0x340000, 1, 0x10000, 0x13C⟩, ⟨0x350000, 1, 0x10000, 0x120⟩, ⟨0x400000, 1, 0x10000, 0x1530⟩,
   ⟨0x410000, 1, 0x10000, 0x10EC⟩, ⟨0x420000, 1, 0x10000, 0x113C⟩, ⟨0x500000, 1, 0x10000, 0x7C⟩,
   ⟨0x600000, 3, 0x40000, 0x3C010⟩, ⟨0x700000, 1, 0x10000, 0x24⟩]

/-- An offset lies in some block, not beyond its last defined register (R24). -/
def Dev.inBlock (d : Dev) (off : Nat) : Bool :=
  d.blocks.any fun b => (List.range b.num).any fun n =>
    b.base + b.stride * n ≤ off && off ≤ b.base + b.stride * n + b.last

/-- The flat index that an offset from a register's first instance names. -/
def dimIndex : List (Nat × Nat) → Nat → Option Nat
  | [], off => if off = 0 then some 0 else none
  | (st, n) :: ds, off =>
    let q := min (off / st) (n - 1)
    match dimIndex ds (off - q * st) with
    | some j => some (q * (ds.foldl (fun a p => a * p.2) 1) + j)
    | none => none

/-- The register and instance at an offset of the control space. -/
def regAt (off : Nat) : Option (Reg × Nat) :=
  Reg.all.findSome? fun r =>
    let p := r.place
    if off < p.base then none else (dimIndex p.dims (off - p.base)).map fun i => (r, i)

/-- The package has the register: on GF2, lane 16 and the ranges of dies 2 and 3 follow R24 (R169, R303). -/
def Dev.regBuilt (d : Dev) (r : Reg) (i : Nat) : Bool :=
  match r with
  | .TMB_RANGE => i % 64 < 48 && (!d.gf2 || i < 128)
  | .SER_LCTL | .SER_LSTAT | .SER_PPM | .SER_FOMCFG | .SER_NCORR | .SER_NUNC | .SER_NCW_LO | .SER_NCW_HI | .SER_NFILL | .SER_NPRBS |
    .SER_RXEQ | .SER_TXEQ | .SER_NEVT => !d.gf2 || i != 16
  | _ => true

/-- Instances of the innermost dimensions under one selector. -/
def innerOf (r : Reg) : Nat := match r with | .CMP_LDPEND => 5 | _ => 1

/-- What a register's selector names now. -/
def Dev.selOf (d : Dev) (r : Reg) (die i : Nat) : Nat :=
  let n := i / innerOf r
  match r.place.sel with
  | .none => 0
  | .mapSel => d.get F.CMP_MAP_SEL_CELL die n * 128 + d.get F.CMP_MAP_SEL_LCORE die n
  | .psel => d.get F.CMP_PSEL_CELL die n * 256 + d.get F.CMP_PSEL_PCORE die n
  | .pcell => d.get F.CMP_PSEL_CELL die n
  | .osel => d.get F.SBF_OSEL_MIB die
  | .isel => d.get F.TMB_ISEL_INDEX die
  | .lsel => d.get F.HBM_LSEL_PC die n
  | .rsel => d.get F.HBM_RSEL_GRP die n * 64 + d.get F.HBM_RSEL_BKT die n
  | .blsel => d.raw ⟨.HBM_BLSEL, die, n, 0⟩ % 2 ^ 17
  | .pensel => d.get F.HBM_PENSEL_INDEX die n
  | .retsel => d.get F.HBM_RETSEL_INDEX die n
  | .qsel => d.get F.KRG_QSEL_IDENT die
  | .rksel => d.get F.KRG_RKSEL_IDENT die
  | .hwsel => d.get F.KRG_HWSEL_WIN die
  | .ssel => d.get F.HUB_SSEL_SLICE die
  | .dbsel => d.raw ⟨.HUB_DBSEL, die, 0, 0⟩ % 2 ^ 12
  | .msel => d.get F.KNK_MSEL_MOD die n
  | .plkRsel => d.get F.PLK_RSEL_PKG die
  | .ethQsel => d.get F.ETH_QSEL_QP die
  | .ethRsel => d.get F.ETH_RSEL_REGION die
  | .mbxIsel => d.get F.MBX_ISEL_SLOT die
  | .mbxOsel => d.get F.MBX_OSEL_SLOT die
  | .subsel => d.get F.MBX_SUBSEL_SUB die
  | .wrdPsel => d.get F.WRD_PSEL_PORT die
  | .railSel => d.get F.PWR_RSEL_RAIL die
  | .dsel => d.get F.FLT_DSEL_CLASS die
  | .ageMsel => d.get F.AGE_MSEL_MON die
  | .esel => d.get F.AGE_ESEL_RAIL die

/-! Generic writes (R10, R11, R14) -/

/-- A package-link port number that a route may name: the package builds it (R340). -/
def Dev.portBuilt (d : Dev) (p : Nat) : Bool := p < 4 * d.ndies

/-- Some chapter defines the encoding `v` of a writable field; any other is reserved (R14). -/
def Dev.encOk (d : Dev) (f : Fld) (v : Nat) : Bool :=
  if f = F.CMP_MAP_DATA_PCORE ∨ f = F.CMP_PSEL_PCORE ∨ f = F.HUB_DBSEL_PCORE ∨ f = F.HUB_LDCORE_PCORE then v < 136
  else if f = F.HUB_DBSEL_CDIE ∨ f = F.HUB_LDCORE_CDIE then v < 3
  else if f = F.CMP_PLIMIT_LIMIT then v ≤ 0xA00
  else if f = F.TEN_NSHARE_SHARE then 1 ≤ v && v ≤ 16
  else if f = F.SBF_OSEL_MIB ∨ f = F.SBF_ZFILL_MIB then v < 384
  else if f = F.TMB_SWTUMB_DIE ∨ f = F.HUB_LDCEN_DIE ∨ f = F.ETH_LEAD_DIE then v < d.ndies
  else if f = F.HBM_REFCTL_MINBAND then v != 0
  else if f = F.HBM_SCHED_WBATCH then 8 ≤ v
  else if f = F.HBM_SCHED_OPENTMO ∨ f = F.KNK_RLIM_LIMIT ∨ f = F.AUX_RLIM_LIMIT ∨ f = F.PLK_TTMO_TICKS ∨
      f = F.PLK_HOPS_INIT ∨ f = F.PLK_RCTL_RLIM ∨ f = F.PLK_RCTL_RMAX ∨ f = F.PLK_RCTL_ATMO ∨ f = F.ETH_QCTL_T ∨
      f = F.HBM_SCRUB_SPACE ∨ f = F.SBF_SCRUB_SPACE ∨ f = F.CMP_SCRUB_SPACE then v != 0
  else if f = F.HBM_RSEL_BKT then v < 50
  else if f = F.HBM_RRATE_DEPTH then 2 ≤ v
  else if f = F.HBM_BLENT_STATE then v < 3
  else if f = F.KRG_QUOTA_MAX then v ≤ 0x200000
  else if f = F.SER_LCTL_MODE then v < 2
  else if f = F.PLK_ROUTE_PRI ∨ f = F.PLK_ROUTE_ALT1 ∨ f = F.PLK_ROUTE_ALT2 then d.portBuilt v
  else if f = F.PLK_PCTL_MINL then 1 ≤ v && v ≤ 4
  else if f = F.ETH_QCTL_PMTU then 3 ≤ v && v ≤ 5
  else if f = F.ETH_QCTL_ORD then 1 ≤ v && v ≤ 64
  else if f = F.WRD_OPCTL_OP then v == 1 || v == 2
  else if f = F.MBX_ISEL_SLOT ∨ f = F.MBX_OSEL_SLOT then v < 63
  else if f = F.PWR_DCTL_TARGET then v < 5
  else if f = F.PWR_RSEL_RAIL ∨ f = F.AGE_ESEL_RAIL then v < 9
  else if f = F.FLT_DSEL_CLASS then 1 ≤ v && v < 12
  else if f = F.AGE_CTL_PERIOD then 60 ≤ v
  else if f = F.AGE_ROFF_PEND then v ≤ 10
  else true

/-- One field of a write under its access code (R10); a reserved encoding keeps the field (R14). -/
def Dev.writeFld (d : Dev) (die old new w : Nat) (row : FldRow) : Nat :=
  let f := row.fld
  let o := bitsOf old f.hi f.lo
  let n := bitsOf new f.hi f.lo
  match row.acc with
  | .ro => w
  | .wo => w
  | .rw => if d.encOk f n then setBits w f.hi f.lo n else w
  | .w1c => setBits w f.hi f.lo ((List.range (f.hi + 1 - f.lo)).foldl (fun x j => if hasBit n j then clrBit x j else x) o)
  | .w1s => setBits w f.hi f.lo ((List.range (f.hi + 1 - f.lo)).foldl (fun x j => if hasBit n j then orBit x j else x) o)
  | .rol => if d.on? F.WRD_STAT_BOOTLOCK die || !d.encOk f n then w else setBits w f.hi f.lo n

/-- A register write with the access codes alone, the rows in `keep` left out (bits that a family's operation handles). -/
def Dev.writeGen (d : Dev) (k : RKey) (v : Nat) (keep : List Fld := []) : Dev :=
  let old := d.raw k
  d.setRaw k ((k.reg.rows.filter fun row => !keep.contains row.fld).foldl (d.writeFld k.die old v) old)

/-! 64-bit pairs (R12) -/

/-- The _LO registers with their _HI registers. -/
def pairs64 : List (Reg × Reg) :=
  [(.TEN_HALT_LO, .TEN_HALT_HI), (.TEN_FADDR_LO, .TEN_FADDR_HI), (.UNF_FSEG_LO, .UNF_FSEG_HI),
   (.TMB_BCMASK_LO, .TMB_BCMASK_HI), (.HBM_NBURST_LO, .HBM_NBURST_HI), (.HBM_RBYTES_LO, .HBM_RBYTES_HI),
   (.HBM_PEN_LO, .HBM_PEN_HI), (.HBM_RET_LO, .HBM_RET_HI), (.KRG_EW0_LO, .KRG_EW0_HI), (.KRG_EW1_LO, .KRG_EW1_HI),
   (.KRG_RKBASE_LO, .KRG_RKBASE_HI), (.KRG_RKHALT_LO, .KRG_RKHALT_HI), (.KRG_HWBASE_LO, .KRG_HWBASE_HI),
   (.HUB_PFENCE_LO, .HUB_PFENCE_HI), (.KNK_NFLIT_LO, .KNK_NFLIT_HI), (.SER_NCW_LO, .SER_NCW_HI),
   (.PLK_NFRM_LO, .PLK_NFRM_HI), (.ETH_DMAC_LO, .ETH_DMAC_HI), (.ETH_RBASE_LO, .ETH_RBASE_HI),
   (.ETH_RGBASE_LO, .ETH_RGBASE_HI), (.ETH_NRX_LO, .ETH_NRX_HI), (.ETH_NTX_LO, .ETH_NTX_HI),
   (.MBX_IPEND_LO, .MBX_IPEND_HI), (.MBX_SUBMAC_LO, .MBX_SUBMAC_HI), (.WRD_EMAC_LO, .WRD_EMAC_HI),
   (.PWR_LCNT_LO, .PWR_LCNT_HI)]

/-- The _HI register of a _LO register. -/
def hiOf (r : Reg) : Option Reg := (pairs64.find? fun p => p.1 == r).map (·.2)

/-- The _LO register of a _HI register. -/
def loOf (r : Reg) : Option Reg := (pairs64.find? fun p => p.2 == r).map (·.1)

/-! Free values -/

/-- The next draw number, and the package with it used up. -/
def Dev.draw (d : Dev) : Nat × Dev := (d.free, { d with free := d.free + 1 })

end Sys2Proof.Machine
end

