-- ==== Sys2Proof/Machine/Faults.lean ====
section
/-!
DEFINITION. The fault queue (R445–R448, R451, R479): posting a record, dropping it when the queue is full, removing
records.
-/
namespace Sys2Proof.Machine

/-! Powered domains (R27, R28) -/

/-- The power flags of a die. -/
def Dev.pwOf (d : Dev) (die : Nat) : DiePw := d.pw.getD die ⟨false, false, false⟩

/-- The whole carrier domain of a die is powered. -/
def Dev.carrierUp (d : Dev) (die : Nat) : Bool := (d.pwOf die).carrier

/-- The part of the carrier domain that P3 keeps is powered (R237, R407, R445). -/
def Dev.keptUp (d : Dev) (die : Nat) : Bool := (d.pwOf die).carrier || (d.pwOf die).kept

/-- The compute domain of a die is powered. -/
def Dev.computeUp (d : Dev) (die : Nat) : Bool := (d.pwOf die).compute

/-- A die's local counter (R8, R423). -/
def Dev.tick (d : Dev) (die : Nat) : Nat := d.lcnt.getD die 0

/-- A timeout of `t` ticks that started at tick `at_` has expired: between `t` and `t + 1` ticks, taken at `t + 1` (R8). -/
def Dev.late (d : Dev) (die at_ t : Nat) : Bool := at_ + t + 1 ≤ d.tick die

/-! Records (R446, R447) -/

/-- A fault record before the queue gives it a SEQ. -/
structure Rec where
  cls : Nat
  code : Nat
  flags : Nat
  part : Nat
  unit : Nat
  info : Nat
  addr : Nat
deriving DecidableEq, Repr

/-- PART of a record that affects no partition. -/
def noPart : Nat := 0xFF

/-- The eight words of a record of a die with a SEQ, little-endian (R446). -/
def recWords (die tick seq : Nat) (r : Rec) : List Nat :=
  [r.cls % 256 + 2 ^ 8 * (r.code % 256) + 2 ^ 16 * die + 2 ^ 24 * r.flags,
   seq % 2 ^ 16 + 2 ^ 16 * (r.part % 256),
   tick % 2 ^ 32, tick / 2 ^ 32 % 2 ^ 32, r.unit % 2 ^ 32, r.info % 2 ^ 32, r.addr % 2 ^ 32, r.addr / 2 ^ 32 % 2 ^ 32]

/-- A drop counter counted up, saturating (R448). -/
def Dev.fltDrop (d : Dev) (die cls : Nat) : Dev :=
  (d.put F.FLT_STAT_OVF 1 die).countSat F.FLT_DROP_COUNT 1 die 0 cls

/-- Eight words written at ring position `pos` of the queue. -/
def Dev.fltStore (d : Dev) (die pos : Nat) : Nat → List Nat → Dev
  | _, [] => d
  | j, w :: ws => (Dev.fltStore d die pos (j + 1) ws).setRaw ⟨.FLT_QDATA, die, pos * 8 + j, 0⟩ w

/-- A record (its words, given the SEQ) enters the queue, or is dropped and counted when 1,024 are held (R445, R448). -/
def Dev.fltPut (d : Dev) (die cls : Nat) (words : Nat → List Nat) : Dev :=
  let n := d.get F.FLT_STAT_COUNT die
  if 1024 ≤ n then d.fltDrop die cls
  else
    let seq := d.get F.FLT_NEXT_SEQ die
    let pos := (d.get F.FLT_HEAD_INDEX die + n) % 1024
    let d1 := d.fltStore die pos 0 (words seq)
    let d2 := d1.put F.FLT_NEXT_SEQ ((seq + 1) % 2 ^ 16) die
    let d3 := d2.put F.FLT_STAT_COUNT (n + 1) die
    let d4 := d3.put F.FLT_STAT_FULL (if n + 1 = 1024 then 1 else 0) die
    if d4.on? F.FLT_CTL_IRQ die then { d4 with irqs := d4.irqs.set die (d4.irqs.getD die 0 + 1) } else d4

/-- A unit of a die posts a record (R445): the queue's domain must be powered. -/
def Dev.post (d : Dev) (die : Nat) (r : Rec) : Dev :=
  if d.keptUp die then d.fltPut die r.cls fun seq => recWords die (d.tick die) seq r else d

/-- The steward of a die posts a record: FLAGS.STEWARD is set, and a record that is dropped sets DROPPED (R446, R448, R479). -/
def Dev.stwPost (d : Dev) (die : Nat) (r : Rec) : Dev :=
  let d1 := d.post die { r with flags := orBit r.flags 2 }
  if d.keptUp die ∧ 1024 ≤ d.get F.FLT_STAT_COUNT die then d1.put F.FLT_PCTL_DROPPED 1 die else d1

/-- FLT_POP: the `n` oldest records leave, all of them when more are named (R451). -/
def Dev.fltPop (d : Dev) (die n : Nat) : Dev :=
  let c := d.get F.FLT_STAT_COUNT die
  let k := min n c
  let d1 := d.put F.FLT_HEAD_INDEX ((d.get F.FLT_HEAD_INDEX die + k) % 1024) die
  let d2 := d1.put F.FLT_STAT_COUNT (c - k) die
  if k = 0 then d2 else d2.put F.FLT_STAT_FULL 0 die

/-- The record at place `j` (0 the oldest) of a die's queue, as words. -/
def Dev.fltRecord (d : Dev) (die j : Nat) : List Nat :=
  (List.range 8).map fun w => d.raw ⟨.FLT_QDATA, die, ((d.get F.FLT_HEAD_INDEX die + j) % 1024) * 8 + w, 0⟩

/-- FLT_PCTL.GO: the steward posts FLT_POST0–FLT_POST7 (R479). SEQ, DIE[1:0] and FLAGS.STEWARD are the hardware's. -/
def Dev.fltPost (d : Dev) (die : Nat) : Dev :=
  let ws := (List.range 8).map fun j => d.raw ⟨.FLT_POST, die, j, 0⟩
  let cls := ws.getD 0 0 % 256
  if cls = 0 ∨ 0x0B < cls then d.put F.FLT_PCTL_DROPPED 1 die
  else
    let full := 1024 ≤ d.get F.FLT_STAT_COUNT die
    let w0 := orBit (setBits (ws.getD 0 0) 17 16 die) 26
    let d1 := d.fltPut die cls fun seq => w0 :: setBits (ws.getD 1 0) 15 0 seq :: ws.drop 2
    if full then d1.put F.FLT_PCTL_DROPPED 1 die else d1

/-- The contact ALERT_N is asserted: on a cause, or while OVF and ALERTOVF are set (R451, R467). -/
def Dev.alertN (d : Dev) (die : Nat) : Bool :=
  d.alert.getD die false || (d.on? F.FLT_CTL_ALERTOVF die && d.on? F.FLT_STAT_OVF die)

/-- A cause asserts ALERT_N. -/
def Dev.raiseAlert (d : Dev) (die : Nat) : Dev := { d with alert := d.alert.set die true }

/-- A steward's access misses every block: a CONTROL_ADDR record (R24, R447). -/
def Dev.ctlMiss (d : Dev) (die off : Nat) (write : Bool) : Dev :=
  d.post die ⟨9, if write then 2 else 1, 0, noPart, 0, 0, off⟩

end Sys2Proof.Machine
end

