-- ==== Sys2Proof/Machine/Ops.lean ====
section
/-!
DEFINITION. Shared operations: core and cell numbers (R21, R33), the spare map and the deadbolts (R35, R36, R38, R271),
routes between dies (R273), the control network and the tumbler bank (R166–R182).
-/
namespace Sys2Proof.Machine

/-! Cells and cores -/

/-- Base die of a cell number 12d + 4n + c (R33). -/
def cellDie (cn : Nat) : Nat := cn / 12

/-- Compute die of a cell number. -/
def cellN (cn : Nat) : Nat := cn % 12 / 4

/-- Cell within its compute die. -/
def cellC (cn : Nat) : Nat := cn % 4

/-- The key of physical core `p` of a cell. -/
def coreKey (cn p : Nat) : Nat := cn * 256 + p

/-- The cell of a logical core number (R21). -/
def lcoreCell (l : Nat) : Nat := 12 * bitsOf l 12 11 + 4 * bitsOf l 10 9 + bitsOf l 8 7

/-- The logical core number of core `lc` of a cell (R21). -/
def lcoreOf (cn lc : Nat) : Nat := cellDie cn * 2 ^ 11 + cellN cn * 2 ^ 9 + cellC cn * 2 ^ 7 + lc

/-- The cell's PARK bit (R37). -/
def Dev.parked (d : Dev) (cn : Nat) : Bool := hasBit (d.get F.CMP_CELL_CTL_PARK (cellDie cn) (cellN cn)) (cellC cn)

/-- The cell's CRST bit (R37). -/
def Dev.inReset (d : Dev) (cn : Nat) : Bool := hasBit (d.get F.CMP_CELL_CTL_CRST (cellDie cn) (cellN cn)) (cellC cn)

/-- The cell is in test mode (R38, R437). -/
def Dev.testMode (d : Dev) (cn : Nat) : Bool := hasBit (d.get F.CMP_LDCTL_TEST (cellDie cn) (cellN cn)) (cellC cn)

/-- The physical core that the spare map assigns to core `lc` of a cell (R35). -/
def Dev.mapOf (d : Dev) (cn lc : Nat) : Nat := d.get F.CMP_MAP_DATA_PCORE (cellDie cn) (cellN cn) (cellC cn * 128 + lc)

/-- The logical core of the cell that the map assigns to physical core `p`, whether or not the map applies. -/
def Dev.carries (d : Dev) (cn p : Nat) : Option Nat := (List.range 128).find? fun lc => d.mapOf cn lc == p

/-- MAPPED of CMP_PCTL: the core carries a logical number and the cell is not in test mode (R37, R38). -/
def Dev.mappedP (d : Dev) (cn p : Nat) : Bool := !d.testMode cn && (d.carries cn p).isSome

/-- The deadbolt of a physical core in its cell network (R36). -/
def Dev.deadbolt (d : Dev) (cn p : Nat) : Bool := d.on? F.CMP_PCTL_DEADBOLT (cellDie cn) (cellN cn) (cellC cn * 256 + p)

/-- FAILED of a physical core. -/
def Dev.failedP (d : Dev) (cn p : Nat) : Bool := d.on? F.CMP_PCTL_FAILED (cellDie cn) (cellN cn) (cellC cn * 256 + p)

/-- What HUB_DBSEL holds when it selects a physical core (R292). -/
def hubSel (cn p : Nat) : Nat := cellN cn * 1024 + cellC cn * 256 + p

/-- The deadbolt of a physical core at its hub (R271). -/
def Dev.hubDeadbolt (d : Dev) (cn p : Nat) : Bool := d.on? F.HUB_DB_DEADBOLT (cellDie cn) 0 (hubSel cn p)

/-- The physical core of a logical core number: its cell's key, where the map applies. -/
def Dev.physOf (d : Dev) (l : Nat) : Nat := coreKey (lcoreCell l) (d.mapOf (lcoreCell l) (l % 128))

/-- The state a physical core has before anything has run on it: held, its registers at 0 (R35, R83). -/
def Core.initial : Core where
  st := .held
  pc := 0
  cnt := List.replicate 16 0
  ad := List.replicate 16 (0, 0)
  loops := []
  latA := none
  latB := none
  acc := List.replicate 4 ⟨List.replicate 256 0, 0⟩
  vr := List.replicate 16 (List.replicate 16 0)
  rng := [0, 0, 0, 0]
  lut := List.replicate 770 0
  flags := Flags.none
  dcap := 32
  slots := List.replicate 4 ⟨false, false, 0, 0, 0, 0⟩
  trapv := false
  trap := []
  fbuf := []
  mat := []
  seedP := none
  lutP := none
  tradd := none
  cvals := []
  blk := 0
  blkAt := 0
  blkW := 0
  lbuf := []
  ending := false
  cfix := 0
  rngs := []
  ldr := ⟨false, 0, 0, 0, 0⟩

/-- A physical core. -/
def Dev.coreAt (d : Dev) (k : Nat) : Core := d.cores.atD k Core.initial

/-- The package with a physical core changed. -/
def Dev.setCore (d : Dev) (k : Nat) (c : Core) : Dev := { d with cores := d.cores.put k c }

/-- A cell. -/
def Dev.cellAt (d : Dev) (cn : Nat) : CellSt := d.cells.atD cn ⟨0, 0, 0, false⟩

/-- The package with a cell changed. -/
def Dev.setCell (d : Dev) (cn : Nat) (c : CellSt) : Dev := { d with cells := d.cells.put cn c }

/-- The partition of a cell, 0xFF for none (R29). -/
def Dev.partOf (d : Dev) (cn : Nat) : Nat := d.cellPart.atD cn noPart

/-- UNIT of a CORE record (R447). -/
def coreUnit (l p cn : Nat) : Nat := l + 2 ^ 16 * p + 2 ^ 24 * cellC cn + 2 ^ 26 * cellN cn

/-- An item of a physical core is discarded at its deadbolt (R36); the first one posts DEADBOLT_SPEAKS (R455). -/
def Dev.dbDiscard (d : Dev) (cn p : Nat) : Dev :=
  let die := cellDie cn
  let s := cellC cn * 256 + p
  let first := d.get F.CMP_PDROP_COUNT die (cellN cn) s == 0
  let d1 := d.countSat F.CMP_PDROP_COUNT 1 die (cellN cn) s
  if first then d1.post die ⟨1, 0x40, 0, d.partOf cn, coreUnit 0 p cn, 0, 0⟩ else d1

/-- An item arrives at the hub from a physical core deadbolted there (R271). -/
def Dev.hubDiscard (d : Dev) (cn p : Nat) : Dev := d.countSat F.HUB_DBDROP_COUNT 1 (cellDie cn) 0 (hubSel cn p)

/-! Routes between dies (R273) -/

/-- The bit of the knuckle that joins two neighbouring dies: 0–1, 0–2, 1–3, 2–3. -/
def knuckleBit (a b : Nat) : Nat :=
  match min a b, max a b with
  | 0, 1 => 0
  | 0, 2 => 1
  | 1, 3 => 2
  | _, _ => 3

/-- The instance by which a die reaches a neighbour: 0 the row, 1 the column (R273). -/
def knuckleInst (a b : Nat) : Nat := if a ^^^ b = 1 then 0 else 1

/-- Knuckles in service as a die holds them: UP and EN of HUB_KMAP (R273). -/
def Dev.kmap (d : Dev) (die : Nat) : Nat := d.get F.HUB_KMAP_UP die &&& d.get F.HUB_KMAP_EN die

/-- All knuckles along a path are in the map. -/
def pathOk (m : Nat) : Nat → List Nat → Bool
  | _, [] => true
  | a, b :: bs => hasBit m (knuckleBit a b) && pathOk m b bs

/-- The path from a die to another under a knuckle map: the dies after the first. -/
def routePath (m a b : Nat) : Option (List Nat) :=
  let r := a ^^^ 1
  let c := a ^^^ 2
  let cands :=
    if a = b then [[]]
    else if b = r then [[b], [c, c ^^^ 1, b]]
    else if b = c then [[b], [r, r ^^^ 2, b]]
    else [[r, b], [c, b]]
  cands.find? (pathOk m a)

/-- One die reaches another now. -/
def Dev.reaches (d : Dev) (a b : Nat) : Bool := (routePath (d.kmap a) a b).isSome && d.carrierUp b

/-! Control messages (R170, R175) -/

/-- PEER of an end (R175). -/
def Ep.peer : Ep → Nat
  | .core l => l
  | .phys _ => 0
  | .eng die e => 2 ^ 13 + die * 64 + e
  | .dsp die => 2 * 2 ^ 13 + die
  | .stw die => 3 * 2 ^ 13 + die
  | .port p => 4 * 2 ^ 13 + p
  | .bank _ => 0
  | .cell _ => 0
  | .site die => 3 * 2 ^ 13 + die
  | .qp die _ => 3 * 2 ^ 13 + die
  | .link p _ => 4 * 2 ^ 13 + p

/-- The end a PEER names; none for a reserved KIND. -/
def peerEp (n : Nat) : Option Ep :=
  match bitsOf n 15 13 with
  | 0 => some (.core (n % 2 ^ 13))
  | 1 => some (.eng (bitsOf n 7 6) (n % 64))
  | 2 => some (.dsp (n % 4))
  | 3 => some (.stw (n % 4))
  | 4 => some (.port (n % 64))
  | _ => none

/-- Package-link ports of a die (R323). -/
def portDie (p : Nat) : Nat := p / 4

/-- The base die on which an end lies. -/
def Ep.die : Ep → Nat
  | .core l => bitsOf l 12 11
  | .phys k => cellDie (k / 256)
  | .eng die _ => die
  | .dsp die => die
  | .stw die => die
  | .port p => portDie p
  | .bank die => die
  | .cell cn => cellDie cn
  | .site die => die
  | .qp die _ => die
  | .link p _ => portDie p

/-- The control-router port of an end on its own die (R174). -/
def Ep.ctlPort : Ep → Nat
  | .core l => 4 * bitsOf l 10 9 + bitsOf l 8 7
  | .phys k => k / 256 % 12
  | .eng _ e => 12 + e
  | .dsp _ => 76
  | .bank _ => 77
  | .stw _ => 78
  | .cell cn => cn % 12
  | .port _ => 78
  | .site _ => 78
  | .qp _ _ => 78
  | .link _ _ => 78

/-- The port by which the router of the receiver's die received a message (R174, R447): the sender's own port on one
die, a knuckle side otherwise. DEDUCED, log entry 7. -/
def Dev.rxPort (d : Dev) (m : CtlMsg) : Nat :=
  if m.src.die = m.dst.die then m.src.ctlPort
  else
    match routePath (d.kmap m.src.die) m.src.die m.dst.die with
    | some ps => 79 + knuckleInst m.dst.die ((m.src.die :: ps).getD (ps.length - 1) 0)
    | none => 79

/-- TUMB of a tumbler and partition (R175). -/
def tumbField (home idx part : Nat) : Nat := idx + 2 ^ 16 * home + 2 ^ 18 * (part % 64)

/-- Bytes 0–14 of a message (R175). -/
def CtlMsg.body (m : CtlMsg) : Bytes :=
  leBytes 1 m.opc ++ leBytes 1 (m.slot % 4 + 4 * (m.gen % 16)) ++ leBytes 2 m.peer ++ leBytes 4 m.tumb ++
    leBytes 4 m.val ++ leBytes 3 m.imm

/-- The CHK of 15 bytes (R175). -/
def chkOf (bs : Bytes) : Nat := crcMsb 8 0x07 0x00 bs

/-- The 16 bytes of a message. -/
def CtlMsg.bytes (m : CtlMsg) : Bytes := m.body ++ leBytes 1 (chkOf m.body)

/-- A message as a receiver reads its bytes, between the same ends; none when CHK fails (R177). -/
def CtlMsg.received (m : CtlMsg) (noise : Bytes) : Option CtlMsg :=
  let bs := xorBytes m.bytes noise
  if chkOf (bs.take 15) = field bs 15 1 then
    some { m with opc := field bs 0 1, slot := field bs 1 1 % 4, gen := bitsOf (field bs 1 1) 5 2, peer := field bs 2 2,
                  tumb := field bs 4 4, val := field bs 8 4, imm := field bs 12 3 }
  else none

/-- A message is sent. -/
def Dev.send (d : Dev) (m : CtlMsg) : Dev := { d with ctl := d.ctl ++ [m] }

/-- An end sends an operation to a tumbler's home. -/
def Dev.sendOp (d : Dev) (src : Ep) (opc slot gen home idx part val imm : Nat) : Dev :=
  d.send ⟨src, .bank home, opc, slot, gen, src.peer, tumbField home idx part, val, imm⟩

/-- A message is discarded for its check: counted, CHKERR set, a CONTROL_NET record (R177). -/
def Dev.chkFail (d : Dev) (m : CtlMsg) : Dev :=
  let die := m.dst.die
  let d1 := (d.countSat F.TMB_NCHK_COUNT 1 die).put F.TMB_STAT_CHKERR 1 die
  d1.post die ⟨8, 1, 0, noPart, d.rxPort m, d1.get F.TMB_NCHK_COUNT die, 0⟩

/-! The tumbler bank (R164–R173) -/

/-- Key of tumbler `idx` of a die. -/
def tmbKey (die idx : Nat) : Nat := die * 65536 + idx

/-- A tumbler's value. -/
def Dev.tumbler (d : Dev) (die idx : Nat) : Nat := (d.tmb.atD (tmbKey die idx) 0).toNat

/-- A tumbler given a value. -/
def Dev.setTumbler (d : Dev) (die idx v : Nat) : Dev := { d with tmb := d.tmb.put (tmbKey die idx) (BitVec.ofNat 32 v) }

/-- The home sends WAKE for an armed wait, with the value that met it (R171). -/
def Dev.wakeWait (d : Dev) (v : Nat) (w : WaitEnt) : Dev :=
  d.send ⟨.bank w.home, w.who, 0x09, w.slot, w.gen, w.who.peer, tumbField w.home w.idx 0, v, 0⟩

/-- The armed waits of a tumbler that its value meets are answered and leave the table (R171). -/
def Dev.evalWaits (d : Dev) (home idx : Nat) : Dev :=
  let v := d.tumbler home idx
  let met := fun (w : WaitEnt) => w.home == home && w.idx == idx && decide (w.thr ≤ v)
  (d.waits.filter met).foldl (fun d' w => d'.wakeWait v w) { d with waits := d.waits.filter fun w => !met w }

/-- SET at the home (R170). -/
def Dev.bankSet (d : Dev) (home idx v : Nat) : Dev := (d.setTumbler home idx v).evalWaits home idx

/-- ADD at the home, modulo 2^32; a carry sets WRAP and counts (R167, R170). -/
def Dev.bankAdd (d : Dev) (home idx v : Nat) : Dev :=
  let n := d.tumbler home idx + v % 2 ^ 32
  let d1 := if 2 ^ 32 ≤ n then (d.put F.TMB_STAT_WRAP 1 home).countSat F.TMB_NWRAP_COUNT 1 home else d
  d1.bankSet home idx n

/-- WITHDRAW at the home: the issuer's armed wait in a slot leaves the table (R170). -/
def Dev.bankWithdraw (d : Dev) (home : Nat) (who : Ep) (slot : Nat) : Dev :=
  { d with waits := d.waits.filter fun w => !(w.home == home && w.who == who && w.slot == slot) }

/-- ARM at the home (R171): evaluated on arrival. The table holds one entry per wait source. -/
def Dev.bankArm (d : Dev) (w : WaitEnt) : Dev :=
  let d1 := d.bankWithdraw w.home w.who w.slot
  if w.thr ≤ d1.tumbler w.home w.idx then d1.wakeWait (d1.tumbler w.home w.idx) w
  else { d1 with waits := d1.waits ++ [w] }

/-- The range of a partition on a home die, as a die's registers hold it (R168). -/
def Dev.rangeAt (d : Dev) (die home part : Nat) : TRange :=
  ⟨d.get F.TMB_RANGE_BASE die (home * 64 + part), d.get F.TMB_RANGE_NUM die (home * 64 + part),
   d.on? F.TMB_RANGE_REMOTE die (home * 64 + part)⟩

/-- A tumbler lies in a range. -/
def TRange.has (r : TRange) (idx : Nat) : Bool := 64 * r.base ≤ idx && idx < 64 * (r.base + r.num)

/-- A partition's ranges on every home die, from a die's registers (R168). -/
def Dev.rangesOf (d : Dev) (die part : Nat) : List TRange := (List.range 4).map fun h => d.rangeAt die h part

/-- A tumbler lies in some range open to other packages (R178). -/
def Dev.remoteTumbler (d : Dev) (home idx : Nat) : Bool :=
  (List.range 48).any fun p => (d.rangeAt home home p).remote && (d.rangeAt home home p).has idx

/-! The common level (R4, R429) -/

/-- The B0 features are in force on a die: every base die of the package is B0 (R4) and the die's B0OK is 1 (R429). -/
def Dev.b0Level (d : Dev) (die : Nat) : Bool :=
  ((List.range d.ndies).all fun j => d.dieB0 j) && d.on? F.HUB_LEVEL_B0OK die

/-- Environment errors strike stored words: (unit address, mask) pairs laid over the masks held (R225–R227). -/
def Dev.upset (d : Dev) (ups : List (Nat × Nat)) : Dev :=
  { d with errs := ups.foldl (fun m u => m.put u.1 (m.atD u.1 0 ^^^ u.2)) d.errs }

end Sys2Proof.Machine
end

