-- ==== Sys2Proof/Machine/Store.lean ====
section
/-!
DEFINITION. The SRAMs under their codes: scratchpad words of 8 bytes (R40, R219, R221, R224) and shared-buffer words of
32 bytes (R118, R220, R224). `Dev.mem` holds what was written; `Dev.errs` holds, for a protected unit, the mask by
which the stored word differs from its codeword; `Dev.unwritten` the ranges that hold no valid code (R225).
-/
namespace Sys2Proof.Machine

/-- What a read of stored data gives: the data after decoding, the address of the first uncorrectable unit if there is
one, and how many units were corrected. -/
structure Rd where
  data : Bytes
  ue : Option Nat
  fixed : Nat
deriving DecidableEq, Repr

/-- Two reads one after the other. -/
def Rd.append (a b : Rd) : Rd := ⟨a.data ++ b.data, a.ue.orElse fun _ => b.ue, a.fixed + b.fixed⟩

/-- `n` arbitrary bytes (R225): the draw, the address. -/
def freeBytes (k a : Nat) : Nat → Bytes
  | 0 => []
  | n + 1 => Config.freeByte k a :: freeBytes k (a + 1) n

/-- Bytes with the bits of a number laid over them by exclusive-or. -/
def xorNat (bs : Bytes) (m : Nat) : Bytes := xorBytes bs (leBytes bs.length m)

/-- The data of a unit after its decoder has spoken; `sh` is the place of data bit 0 in the mask. -/
def unitRead (bs : Bytes) (a sh : Nat) : Verdict → Rd
  | .clean m => ⟨xorNat bs (m / 2 ^ sh), none, 0⟩
  | .corrected m => ⟨xorNat bs (m / 2 ^ sh), none, 1⟩
  | .poisoned => ⟨bs, some a, 0⟩
  | .bad => ⟨bs, some a, 0⟩

/-- A unit of `w` bytes at `a` read under draw `k`; `dec` is the memory's decoder. Data never written is arbitrary, or
uncorrectable (R225). -/
def Dev.readUnit (d : Dev) (k a w sh : Nat) (dec : Nat → Verdict) : Rd :=
  if touches d.unwritten a w then
    (if Config.freeNat k a % 2 = 1 then ⟨freeBytes k a w, some a, 0⟩ else ⟨freeBytes k a w, none, 0⟩)
  else
    match d.errs.at? a with
    | none => ⟨d.mem.bytes a w, none, 0⟩
    | some m => unitRead (d.mem.bytes a w) a sh (dec m)

/-- A unit's stored data bits as they stand, without correction. -/
def Dev.rawUnit (d : Dev) (k a w sh : Nat) : Bytes :=
  if touches d.unwritten a w then freeBytes k a w
  else xorNat (d.mem.bytes a w) (d.errs.atD a 0 / 2 ^ sh % 2 ^ (8 * w))

/-- A unit written whole: new data with a valid code. -/
def Dev.writeUnit (d : Dev) (a : Nat) (bs : Bytes) : Dev :=
  { d with mem := d.mem.setBytes a bs, errs := d.errs.del a, unwritten := cutRange d.unwritten a bs.length }

/-- A unit whose stored word is given a mask that its decoder refuses (R224, R226). -/
def Dev.markUnit (d : Dev) (a m : Nat) : Dev := { d with errs := d.errs.put a m }

/-- The unit addresses that cover `n` bytes from `a`. -/
def unitsOf (w a n : Nat) : List Nat :=
  (List.range ((a % w + n + w - 1) / w)).map fun j => a / w * w + j * w

/-! Scratchpad -/

/-- Address in `Dev.mem` of a scratchpad offset of a physical core. -/
def spAddr (key off : Nat) : Nat := scratchBase + key * 2 ^ 18 + off

/-- The core key of a scratchpad address. -/
def spKey (a : Nat) : Nat := (a - scratchBase) / 2 ^ 18

/-- First offset beyond a scratchpad (R39). -/
def spEnd : Nat := 0x28000

/-- The cell of a core key. -/
def keyCell (key : Nat) : Nat := key / 256

/-- A word of a scratchpad read (R40). -/
def Dev.spWord (d : Dev) (k a : Nat) : Rd := d.readUnit k a 8 7 secdedVerdict

/-- `n` bytes of a core's scratchpad read, every word that holds one of them decoded. -/
def Dev.spRead (d : Dev) (k key off n : Nat) : Rd :=
  let r := (unitsOf 8 (spAddr key off) n).foldl (fun (r : Rd) a => r.append (d.spWord k a)) ⟨[], none, 0⟩
  { r with data := slice r.data (off % 8) n }

/-- Counters of a compute die after a scratchpad read (R240). -/
def Dev.spCount (d : Dev) (key fixed ues : Nat) : Dev :=
  let die := cellDie (keyCell key)
  let n := cellN (keyCell key)
  let d1 := if fixed = 0 then d else d.countSat F.CMP_ECE_COUNT fixed die n
  if ues = 0 then d1 else d1.countSat F.CMP_EUE_COUNT ues die n

/-- A read with its effects: counters, and the draw used up. -/
def Dev.spLoad (d : Dev) (key off n : Nat) : Rd × Dev :=
  let (k, d1) := d.draw
  let r := d.spRead k key off n
  (r, d1.spCount key r.fixed (if r.ue.isSome then 1 else 0))

/-- A write of `bs` that lies within one scratchpad word at `a` (its word address), from byte `p` of the word (R221). -/
def Dev.spWriteWord (d : Dev) (k key a p : Nat) (bs : Bytes) : Dev :=
  if bs.length = 8 then d.writeUnit a bs
  else
    let r := d.spWord k a
    match r.ue with
    | none => (d.writeUnit a (overlay r.data p bs)).spCount key r.fixed 0
    | some _ => (((d.writeUnit a (overlay (d.rawUnit k a 8 7) p bs)).markUnit a 3)).spCount key 0 1

/-- The parts of a write, each within one unit of `w` bytes: (unit address, first byte in it, bytes). -/
def splitUnits (w a : Nat) (bs : Bytes) : List (Nat × Nat × Bytes) :=
  (unitsOf w a bs.length).map fun u =>
    let lo := max u a
    let hi := min (u + w) (a + bs.length)
    (u, lo - u, slice bs (lo - a) (hi - lo))

/-- Bytes written into a core's scratchpad. -/
def Dev.spStore (d : Dev) (key off : Nat) (bs : Bytes) : Dev :=
  let (k, d1) := d.draw
  (splitUnits 8 (spAddr key off) bs).foldl (fun d' p => d'.spWriteWord k key p.1 p.2.1 p.2.2) d1

/-- A core's scratchpad left without valid code (R35, R40, R225). -/
def Dev.spInvalid (d : Dev) (key : Nat) : Dev :=
  let a := spAddr key 0
  { d with unwritten := (a, 2 ^ 18) :: cutRange d.unwritten a (2 ^ 18),
           mem := d.mem.zero a (2 ^ 18),
           errs := d.errs.delIf fun u => a ≤ u && u < a + 2 ^ 18 }

/-! Shared buffer -/

/-- Address in `Dev.mem` of a shared-buffer offset of a die. -/
def sbAddr (die off : Nat) : Nat := gpaBase die 1 + off

/-- The bank of a shared-buffer offset: L[7:0] xor L[15:8] for line number L (R116). -/
def sbBank (off : Nat) : Nat := bitsOf (off / 64) 7 0 ^^^ bitsOf (off / 64) 15 8

/-- The line within its bank (R116). -/
def sbLine (off : Nat) : Nat := off / 64 / 256

/-- The entries of a bank's merge buffer, oldest first (R222). -/
def Dev.mergeOf (d : Dev) (die bank : Nat) : List MEnt := d.merge.atD (die, bank) []

/-- A bank's merge buffer replaced. -/
def Dev.setMerge (d : Dev) (die bank : Nat) (es : List MEnt) : Dev :=
  { d with merge := if es.isEmpty then d.merge.del (die, bank) else d.merge.put (die, bank) es }

/-- The merge entry of a 32-byte word (its offset). -/
def Dev.mergeEnt (d : Dev) (die woff : Nat) : Option MEnt :=
  (d.mergeOf die (sbBank woff)).find? fun e => e.word == woff

/-- A word's bytes with the halves of a merge entry laid over them (R118, R222). -/
def MEnt.overlay (e : MEnt) (bs : Bytes) : Bytes := (e.lo.getD (bs.take 16)) ++ (e.hi.getD (bs.drop 16))

/-- Both halves of a merge entry are valid. -/
def MEnt.whole (e : MEnt) : Bool := e.lo.isSome && e.hi.isSome

/-- A 32-byte word of the shared buffer as stored. -/
def Dev.sbWord (d : Dev) (k die woff : Nat) : Rd := d.readUnit k (sbAddr die woff) 32 18 bchVerdict

/-- A 32-byte word as a client reads it, merged data included. -/
def Dev.sbWordM (d : Dev) (k die woff : Nat) : Rd :=
  match d.mergeEnt die woff with
  | none => d.sbWord k die woff
  | some e =>
    let r := d.sbWord k die woff
    if e.whole then ⟨e.overlay r.data, none, 0⟩ else { r with data := e.overlay r.data }

/-- Counters and SBF_ELAST after a word was corrected or found uncorrectable (R239). -/
def Dev.sbCount (d : Dev) (die woff : Nat) (r : Rd) : Dev :=
  let last := fun (d' : Dev) (ue : Nat) =>
    d'.setRaw ⟨.SBF_ELAST, die, 0, 0⟩ (sbBank woff + 2 ^ 8 * sbLine woff + 2 ^ 23 * (woff / 32 % 2) + 2 ^ 24 * ue)
  match r.ue with
  | some _ => last (d.countSat F.SBF_EUE_COUNT 1 die) 1
  | none => if r.fixed = 0 then d else last (d.countSat F.SBF_ECE_COUNT 1 die) 0

/-- The words that hold bytes [off, off + n) read in order, with counters. -/
def Dev.sbWords (d : Dev) (k die : Nat) : List Nat → Rd × Dev
  | [] => (⟨[], none, 0⟩, d)
  | w :: ws =>
    let r := d.sbWordM k die w
    let (rs, d') := Dev.sbWords (d.sbCount die w r) k die ws
    (r.append rs, d')

/-- `n` bytes of a die's shared buffer read, with the read's effects. -/
def Dev.sbLoad (d : Dev) (die off n : Nat) : Rd × Dev :=
  let (k, d1) := d.draw
  let (r, d2) := d1.sbWords k die (unitsOf 32 off n)
  ({ r with data := slice r.data (off % 32) n }, d2)

/-- A word merged with new bytes from byte `p`, by read-modify-write (R222, R224). -/
def Dev.sbRmw (d : Dev) (die woff p : Nat) (bs : Bytes) : Dev :=
  let (k, d0) := d.draw
  let r := d0.sbWord k die woff
  let d1 := d0.sbCount die woff r
  match r.ue with
  | none => d1.writeUnit (sbAddr die woff) (overlay r.data p bs)
  | some _ => (d1.writeUnit (sbAddr die woff) (overlay (d0.rawUnit k (sbAddr die woff) 32 18) p bs)).markUnit (sbAddr die woff) 7

/-- A merge entry leaves its buffer. -/
def Dev.sbDropEnt (d : Dev) (die woff : Nat) : Dev :=
  d.setMerge die (sbBank woff) ((d.mergeOf die (sbBank woff)).filter fun e => e.word != woff)

/-- A merge entry is applied: whole, with no read, or by read-modify-write, which is counted (R222). -/
def Dev.sbApply (d : Dev) (die : Nat) (e : MEnt) : Dev :=
  let d0 := d.sbDropEnt die e.word
  let d1 := if e.whole then d0 else d0.count F.SBF_NRMW_COUNT 1 die
  match e.lo, e.hi with
  | some l, some h => d1.writeUnit (sbAddr die e.word) (l ++ h)
  | some l, none => d1.sbRmw die e.word 0 l
  | none, some h => d1.sbRmw die e.word 16 h
  | none, none => d1

/-- The entry of a word, if any, is applied first (R222: REDUCE and steward accesses). -/
def Dev.sbFlush (d : Dev) (die woff : Nat) : Dev :=
  match d.mergeEnt die woff with
  | none => d
  | some e => d.sbApply die e

/-- A whole 32-byte word is written: halves held are discarded (R222). -/
def Dev.sbWrite32 (d : Dev) (die woff : Nat) (bs : Bytes) : Dev := (d.sbDropEnt die woff).writeUnit (sbAddr die woff) bs

/-- A 16-byte write goes through the merge buffer (R118, R222). -/
def Dev.sbWrite16 (d : Dev) (die off : Nat) (bs : Bytes) : Dev :=
  let woff := off / 32 * 32
  let bank := sbBank woff
  let half := fun (e : MEnt) => if off % 32 = 0 then { e with lo := some bs } else { e with hi := some bs }
  match d.mergeEnt die woff with
  | some _ => d.setMerge die bank ((d.mergeOf die bank).map fun e => if e.word = woff then half e else e)
  | none =>
    let d1 :=
      if 32 ≤ (d.mergeOf die bank).length then
        match d.mergeOf die bank with
        | [] => d
        | e :: _ => d.sbApply die e
      else d
    d1.setMerge die bank (d1.mergeOf die bank ++ [half ⟨woff, none, none⟩])

/-- Bytes written into the shared buffer in whole words where they cover one, by read-modify-write elsewhere (steward
stores and other partial writes); entries of the words are applied first. -/
def Dev.sbStore (d : Dev) (die off : Nat) (bs : Bytes) : Dev :=
  (splitUnits 32 off bs).foldl (fun d' p =>
    if p.2.2.length = 32 then d'.sbWrite32 die p.1 p.2.2 else (d'.sbFlush die p.1).sbRmw die p.1 p.2.1 p.2.2) d

/-- A die's shared buffer left without valid code (R225). -/
def Dev.sbInvalid (d : Dev) (die : Nat) : Dev :=
  let a := sbAddr die 0
  { d with unwritten := (a, 384 * 2 ^ 20) :: cutRange d.unwritten a (384 * 2 ^ 20),
           mem := d.mem.zero a (384 * 2 ^ 20),
           errs := d.errs.delIf fun u => a ≤ u && u < a + 384 * 2 ^ 20,
           merge := d.merge.delIf fun b => b.1 == die }

end Sys2Proof.Machine
end

