-- ==== Sys2Proof/Machine/Plan.lean ====
section
/-!
DEFINITION. Cores at work: fetching and issuing plan words (R66–R82), traps (R85–R87), and each word's effect. A word is
taken from the head of the core's fetch buffer; the command that issues it names the core by cell and physical index.
-/
namespace Sys2Proof.Machine

/-! Issue -/

/-- The word about to issue: the core's cell, physical index and key, its logical number, its registers, the word's
place, bits and fetch error. -/
structure Iss where
  cn : Nat
  p : Nat
  key : Nat
  l : Nat
  c : Core
  ix : Nat
  w : Nat
  ue : Bool
deriving DecidableEq, Repr

/-- A trap: its cause and INFO (R86). -/
abbrev Trap := Nat × Nat

/-- Opcode of the word (R66). -/
def Iss.op (i : Iss) : Nat := i.w % 256

/-- Bits [hi:lo] of the word. -/
def Iss.f (i : Iss) (hi lo : Nat) : Nat := bitsOf i.w hi lo

/-- The logical core number of physical core `p` of a cell; 0 where the core carries none. -/
def Dev.lnumOf (d : Dev) (cn p : Nat) : Nat := lcoreOf cn ((d.carries cn p).getD 0)

/-- A cell's clocks run: it is not parked and not in reset (R37). -/
def Dev.cellRuns (d : Dev) (cn : Nat) : Bool :=
  !d.parked cn && !d.inReset cn && d.computeUp (cellDie cn) && hasBit (d.get F.PWR_CLK_CMPLOCK (cellDie cn)) (cellN cn)

/-- The level whose back-edge is due: the innermost one, when issue has passed its last word (R71). -/
def Core.backEdge (c : Core) : Option LoopLvl :=
  match c.loops.getLast? with
  | some v => if c.pc = v.stop + 1 then some v else none
  | none => none

/-- What issues next on a core, if it can issue: it runs, no back-edge is due, no TRADD holds it; the fetch buffer holds
the word, or issue has reached PLIMIT (R81). -/
def Dev.ready (d : Dev) (cn p : Nat) : Option Iss :=
  let key := coreKey cn p
  let c := d.coreAt key
  if c.st = .run ∧ d.cellRuns cn = true ∧ c.backEdge = none ∧ c.tradd = none then
    if (d.cellAt cn).plimit * 8 ≤ c.pc then some ⟨cn, p, key, d.lnumOf cn p, c, c.pc, 0, false⟩
    else
      match c.fbuf with
      | h :: _ => if h.ix = c.pc then some ⟨cn, p, key, d.lnumOf cn p, c, h.ix, h.w, h.ue⟩ else none
      | [] => none
  else none

/-- The plan's end has been reached at issue (R81). -/
def Dev.atLimit (d : Dev) (i : Iss) : Bool := (d.cellAt i.cn).plimit * 8 ≤ i.ix

/-- The index of a loop level; 0 when it is not active (R68). -/
def Core.lidx (c : Core) (j : Nat) : Nat := ((c.loops[j]?).map (·.idx)).getD 0

/-- A count register. -/
def Core.c? (c : Core) (j : Nat) : Nat := c.cnt.getD j 0

/-- An address register's offset. -/
def Core.a? (c : Core) (j : Nat) : Nat := (c.ad.getD j (0, 0)).1

/-- A count register set. -/
def Core.setC (c : Core) (j v : Nat) : Core := { c with cnt := c.cnt.set j v }

/-- The post-increment of an address register, when its PI bit is 1 (R70). -/
def Core.postInc (c : Core) (j pi : Nat) : Core :=
  if pi = 1 then
    let a := c.ad.getD j (0, 0)
    { c with ad := c.ad.set j ((a.1 + a.2) % 2 ^ 18, a.2) }
  else c

/-- Flags joined into a core's sticky flags (R65). -/
def Core.flag (c : Core) (f : Flags) : Core := { c with flags := c.flags.or f }

/-- The predicate of a word holds (R68). -/
def Iss.executes (i : Iss) : Bool :=
  i.f 8 8 == 0 || (decide (i.c.lidx (i.f 11 10) < i.c.c? (i.f 15 12)) != (i.f 9 9 == 1))

/-- The loop buffer after a word of the innermost loop has issued (R71). -/
def Core.keepWord (c : Core) (h : FWord) : List FWord :=
  match c.loops.getLast? with
  | some v =>
    if v.start ≤ h.ix ∧ h.ix ≤ v.stop ∧ v.stop < v.start + 16 ∧ (c.lbuf.all fun x => x.ix != h.ix) then c.lbuf ++ [h]
    else c.lbuf
  | none => []

/-- The word leaves the fetch buffer and the core's next word is the one after it. -/
def Core.advance (c : Core) : Core :=
  match c.fbuf with
  | h :: t => { c with pc := c.pc + 1, fbuf := t, lbuf := c.keepWord h }
  | [] => { c with pc := c.pc + 1 }

/-- Issue continues at another word: what was fetched ahead is dropped (R80). -/
def Core.jump (c : Core) (pc : Nat) : Core := { c with pc := pc, fbuf := [] }

/-- A control message leaves a core: a deadbolted core's is discarded at its port or at the hub (R36, R271). -/
def Dev.coreSend (d : Dev) (cn p : Nat) (m : CtlMsg) : Dev :=
  if d.deadbolt cn p then d.dbDiscard cn p else if d.hubDeadbolt cn p then d.hubDiscard cn p else d.send m

/-- A core's armed and unmet slots are withdrawn at their homes; all its slots are free (R85, R84). -/
def Dev.withdrawSlots (d : Dev) (cn p : Nat) : Dev :=
  let key := coreKey cn p
  let l := d.lnumOf cn p
  let c := d.coreAt key
  let d1 := c.slots.zipIdx.foldl (fun d' s =>
    if s.1.armed && !s.1.met then
      d'.coreSend cn p ⟨.core l, .bank s.1.die, 0x05, s.2, s.1.gen, l, tumbField s.1.die s.1.idx (d.partOf cn), 0, 0⟩
    else d') d
  d1.setCore key { d1.coreAt key with slots := c.slots.map fun s => { s with armed := false, met := false }, blk := 0 }

/-- The trap record of R87. -/
def trapRecord (cause l ix phys w info tick lidx depth : Nat) (f : Flags) : Bytes :=
  leBytes 2 cause ++ leBytes 2 l ++ leBytes 2 ix ++ leBytes 2 phys ++ leBytes 8 w ++ leBytes 4 info ++
    leBytes 4 tick ++ leBytes 4 (lidx % 2 ^ 24 + 2 ^ 24 * depth) ++ leBytes 1 (ofBits [f.nv, f.of, f.sat]) ++ zeros 3

/-- A core traps at a word (R85): slots withdrawn, TRAP entered, the record written, the event sent. In test mode no
record is to be posted, and no event is sent (R437; log entry 8). -/
def Dev.trapCore (d : Dev) (cn p ix w : Nat) (t : Trap) : Dev :=
  let key := coreKey cn p
  let l := d.lnumOf cn p
  let d1 := d.withdrawSlots cn p
  let c := d1.coreAt key
  let r := trapRecord t.1 l ix (p + 2 ^ 8 * cellC cn) (if t.1 = 1 then 0 else w) t.2 (d.tick (cellDie cn))
    (((c.loops.getLast?).map (·.idx)).getD 0) c.loops.length c.flags
  let d2 := d1.setCore key { c with st := .trap, pc := ix, fbuf := [], trapv := true, trap := r, tradd := none, ending := false }
  if d2.testMode cn then d2 else d2.coreSend cn p ⟨.core l, .stw (cellDie cn), 0x10, 0, 0, l, 0, t.1, 0⟩

/-- The trap with the lowest cause (R86). -/
def lowest : List Trap → Option Trap
  | [] => none
  | t :: ts =>
    match lowest ts with
    | none => some t
    | some u => if u.1 < t.1 then some u else some t

/-- Issue of a word of opcode `op`. Decoding comes first: a reserved encoding traps whether or not the word executes
(R68). A word waits for count registers that await a CVAL (R79) and while `wait` holds. A word that does not execute
only passes (`skip`); one that executes traps on the lowest of its causes or acts. `act` is applied after the word has
left the fetch buffer; it may still answer a trap that its reads raise. -/
def Dev.issue (d : Dev) (cn p op : Nat) (resv : Iss → Bool) (reads : Iss → List Nat) (wait : Iss → Bool)
    (skip : Iss → Core → Core) (traps : Dev → Iss → List Trap) (act : Iss → Dev → Dev × Option Trap) : Dev :=
  match d.ready cn p with
  | none => d
  | some i =>
    if i.ue || d.atLimit i || i.op != op then d
    else if resv i then d.trapCore cn p i.ix i.w (3, 0)
    else if ((if i.f 8 8 = 1 then [i.f 15 12] else []) ++ reads i).any fun r => i.c.cvals.any fun v => v.1 == r then d
    else if !i.executes then d.setCore i.key (skip i i.c.advance)
    else if wait i then d
    else
      match lowest (traps d i) with
      | some t => d.trapCore cn p i.ix i.w t
      | none =>
        match act i (d.setCore i.key i.c.advance) with
        | (d', none) => d'
        | (d', some t) => d'.trapCore cn p i.ix i.w t

/-- A word's operand fields that are not listed must be 0 (R66): `used` are the listed bit ranges of [63:16]. -/
def resvOutside (used : List (Nat × Nat)) (w : Nat) : Bool :=
  used.foldl (fun x r => setBits x r.1 r.2 0) (w / 2 ^ 16 * 2 ^ 16) != 0

/-- Nothing beyond the plain issue. -/
def noReads (_ : Iss) : List Nat := []
def noWait (_ : Iss) : Bool := false
def noSkip (_ : Iss) (c : Core) : Core := c
def noTraps (_ : Dev) (_ : Iss) : List Trap := []

/-- A word that changes only the core's registers. -/
def Dev.issueReg (d : Dev) (cn p op : Nat) (resv : Iss → Bool) (reads : Iss → List Nat) (f : Iss → Core → Core) : Dev :=
  d.issue cn p op resv reads noWait noSkip noTraps fun i d' => (d'.setCore i.key (f i (d'.coreAt i.key)), none)

/-! Accesses -/

/-- An access of `n` bytes at an offset that runs beyond the scratchpad traps (R39). -/
def offTrap (a n : Nat) : List Trap := if spEnd < a + n then [(8, max a spEnd)] else []

/-- An address that is not a multiple of `k` traps (R86). -/
def alignTrap (a k : Nat) : List Trap := if a % k = 0 then [] else [(9, a)]

/-- A store into the cell's plan region traps (R81). -/
def Dev.planTrap (d : Dev) (cn a n : Nat) : List Trap :=
  let s := d.cellAt cn
  if a < s.plimit * 64 ∧ s.pbase * 64 < a + n then [(10, a)] else []

/-- The trap of an uncorrectable word at a `Dev.mem` address (R82). -/
def ueTrap (key a : Nat) : Trap := (13, a - spAddr key 0)

/-- A word reads `n` bytes at an offset; with the data it changes the core by `f`, or it traps with DATA_UE. -/
def Dev.loadThen (d : Dev) (key off n : Nat) (f : Bytes → Core → Core) : Dev × Option Trap :=
  let (r, d1) := d.spLoad key off n
  match r.ue with
  | some a => (d1, some (ueTrap key a))
  | none => (d1.setCore key (f r.data (d1.coreAt key)), none)

/-! Fetch (R81, R82) -/

/-- Fields of a group's words as fetched. -/
def fetchWords (rs : List (Nat × Rd)) : List FWord := rs.map fun x => ⟨x.1, leNat x.2.data, x.2.ue.isSome⟩

/-- The first word that the fetch unit has not read. -/
def Core.fetchAt (c : Core) : Nat := ((c.fbuf.getLast?).map (·.ix + 1)).getD c.pc

/-- The fetch unit reads the rest of a 32-byte group: below PLIMIT, at most 8 words ahead of issue. -/
def Dev.planFetch (d : Dev) (cn p : Nat) : Dev :=
  let key := coreKey cn p
  let c := d.coreAt key
  let a := c.fetchAt
  let n := 4 - a % 4
  if (c.st = .run ∨ c.st = .wait) ∧ d.cellRuns cn = true ∧ c.fbuf.length + n ≤ 8 ∧ a < (d.cellAt cn).plimit * 8 then
    let (k, d1) := d.draw
    let rs := (List.range n).map fun j => (a + j, d1.spWord k (spAddr key (8 * (a + j))))
    let fixed := rs.foldl (fun s x => s + x.2.fixed) 0
    let ues := (rs.filter fun x => x.2.ue.isSome).length
    (d1.spCount key fixed ues).setCore key { c with fbuf := c.fbuf ++ fetchWords rs, cfix := satAdd 16 c.cfix fixed }
  else d

/-! Control and count words (R69, R71, R75) -/

/-- Opcodes of R67. -/
def opcodes : List Nat :=
  [0, 1, 2, 3, 4, 5, 6, 8, 9, 0xA, 0xB, 0xC, 0x10, 0x11, 0x18, 0x19, 0x1A, 0x20, 0x21, 0x22, 0x23, 0x24, 0x30, 0x31, 0x32, 0x33,
   0x34, 0x35]

/-- NOP; and what stops issue before an opcode is known: PC_LIMIT, FETCH_UE, a reserved OP (R81, R82, R67). -/
def Dev.wNop (d : Dev) (cn p : Nat) : Dev :=
  match d.ready cn p with
  | none => d
  | some i =>
    if d.atLimit i then d.trapCore cn p i.ix 0 (2, (d.cellAt cn).plimit * 64)
    else if i.ue then d.trapCore cn p i.ix 0 (1, 8 * i.ix)
    else if !opcodes.contains i.op then d.trapCore cn p i.ix i.w (3, 0)
    else d.issueReg cn p 0 (fun i => resvOutside [] i.w) noReads fun _ c => c

/-- Slots that are armed, as a mask. -/
def Core.armedMask (c : Core) : Nat := ofBits (c.slots.map (·.armed))

/-- Slots that are armed and met, as a mask. -/
def Core.metMask (c : Core) : Nat := ofBits (c.slots.map fun s => s.armed && s.met)

/-- Some slot of a mask is armed and not met. -/
def Core.unmet (c : Core) (mask : Nat) : Bool := c.slots.zipIdx.any fun s => hasBit mask s.2 && s.1.armed && !s.1.met

/-- The slots of a mask become free (R77). -/
def Core.freeSlots (c : Core) (mask : Nat) : Core :=
  { c with slots := c.slots.zipIdx.map fun s => if hasBit mask s.2 then { s.1 with armed := false, met := false } else s.1 }

/-- The core blocks on the slots of a mask (R77). -/
def Core.block (c : Core) (mask tick w : Nat) : Core := { c with st := .wait, blk := mask, blkAt := tick, blkW := w }

/-- END: blocks on every armed slot, then drains (R75). -/
def Dev.wEnd (d : Dev) (cn p : Nat) : Dev :=
  d.issueReg cn p 1 (fun i => resvOutside [] i.w) noReads fun i c =>
    { c.block c.armedMask (d.tick (cellDie cn)) i.w with ending := true }

/-- END's drain is complete: its slots are met, and every earlier word's operations have completed (R75). -/
def Core.drained (c : Core) : Bool :=
  c.ending && !c.unmet c.blk && c.mat.isEmpty && c.seedP.isNone && c.lutP.isNone && c.tradd.isNone && c.cvals.isEmpty

/-- The core enters DONE (R75). -/
def Dev.coreDone (d : Dev) (cn p : Nat) : Dev :=
  let key := coreKey cn p
  let c := d.coreAt key
  if c.st = .wait ∧ c.drained = true ∧ d.cellRuns cn = true then
    d.setCore key { c.freeSlots c.blk with st := .done, blk := 0, ending := false }
  else d

/-- LOOP (R71). -/
def Dev.wLoop (d : Dev) (cn p : Nat) : Dev :=
  let last := fun (i : Iss) => i.ix + i.f 27 16 + 1
  d.issue cn p 2 (fun i => resvOutside [(56, 16)] i.w) (fun i => if i.f 28 28 = 1 then [i.f 32 29] else []) noWait
    (fun i c => c.jump (last i + 1))
    (fun _ i =>
      (if i.c.loops.length = 4 then [(4, 0)] else []) ++
      (match i.c.loops.getLast? with
       | some v => if v.stop < last i then [(5, v.stop)] else []
       | none => []))
    fun i d' =>
      let c := d'.coreAt i.key
      let trip := if i.f 28 28 = 1 then min (i.c.c? (i.f 32 29)) (i.f 56 33) else i.f 56 33
      (d'.setCore i.key
        (if trip = 0 then c.jump (last i + 1)
         else { c with loops := c.loops ++ [⟨i.ix + 1, last i, 0, trip⟩], lbuf := [] }), none)

/-- The words of the loop buffer that stand at the start of the body without a gap. -/
def runFrom : Nat → List FWord → List FWord
  | _, [] => []
  | a, w :: ws => if w.ix = a then w :: runFrom (a + 1) ws else []

/-- The back-edge of the innermost loop (R71): the index advances, or the loop exits. -/
def Dev.backEdge (d : Dev) (cn p : Nat) : Dev :=
  let key := coreKey cn p
  let c := d.coreAt key
  if c.st = .run ∧ d.cellRuns cn = true ∧ c.tradd = none then
    match c.backEdge with
    | none => d
    | some v =>
      let outer := c.loops.dropLast
      if v.idx + 1 < v.trip then
        d.setCore key { c with loops := outer ++ [{ v with idx := v.idx + 1 }], pc := v.start, fbuf := runFrom v.start c.lbuf }
      else d.setCore key { c with loops := outer, lbuf := [] }
  else d

/-- SEED: the streams are read; they come into force 4 cycles later (R75). A stream seeded with 0 is 1 (R64). -/
def Dev.wSeed (d : Dev) (cn p : Nat) : Dev :=
  d.issue cn p 3 (fun i => resvOutside [(20, 16)] i.w) noReads (fun i => i.c.seedP.isSome) noSkip
    (fun _ i => offTrap (i.c.a? (i.f 19 16)) 32 ++ alignTrap (i.c.a? (i.f 19 16)) 32)
    fun i d' => d'.loadThen i.key (i.c.a? (i.f 19 16)) 32 fun bs c =>
      { c.postInc (i.f 19 16) (i.f 20 20) with
        seedP := some ((List.range 4).map fun j => max 1 (field bs (8 * j) 8)) }

/-- The new streams are in force (R75). -/
def Dev.seedDone (d : Dev) (cn p : Nat) : Dev :=
  let c := d.coreAt (coreKey cn p)
  match c.seedP with
  | some g => if d.cellRuns cn then d.setCore (coreKey cn p) { c with rng := g, seedP := none } else d
  | none => d

/-- FLAGS: reads the flags and clears those of CLRM (R75). -/
def Dev.wFlags (d : Dev) (cn p : Nat) : Dev :=
  d.issueReg cn p 4 (fun i => resvOutside [(22, 16)] i.w) noReads fun i c =>
    { c.setC (i.f 19 16) (ofBits [c.flags.nv, c.flags.of, c.flags.sat]) with
      flags := ⟨c.flags.nv && i.f 20 20 == 0, c.flags.of && i.f 21 21 == 0, c.flags.sat && i.f 22 22 == 0⟩ }

/-- DCAP: 1–32, 0 selects 32 (R75). -/
def Dev.wDcap (d : Dev) (cn p : Nat) : Dev :=
  d.issueReg cn p 5 (fun i => resvOutside [(21, 16)] i.w || 32 < i.f 21 16) noReads fun i c =>
    { c with dcap := if i.f 21 16 = 0 then 32 else i.f 21 16 }

/-- LUTLD: the table image is read; it comes into force 49 cycles later (R59, R73). -/
def Dev.wLutld (d : Dev) (cn p : Nat) : Dev :=
  d.issue cn p 6 (fun i => resvOutside [(20, 16)] i.w) noReads (fun i => i.c.lutP.isSome) noSkip
    (fun _ i => offTrap (i.c.a? (i.f 19 16)) 3136 ++ alignTrap (i.c.a? (i.f 19 16)) 64)
    fun i d' => d'.loadThen i.key (i.c.a? (i.f 19 16)) 3136 fun bs c =>
      { c.postInc (i.f 19 16) (i.f 20 20) with lutP := some ((List.range 770).map fun j => field bs (4 * j) 4) }

/-- The new table is in force (R59). -/
def Dev.lutDone (d : Dev) (cn p : Nat) : Dev :=
  let c := d.coreAt (coreKey cn p)
  match c.lutP with
  | some t => if d.cellRuns cn then d.setCore (coreKey cn p) { c with lut := t, lutP := none } else d
  | none => d

/-- CSET. -/
def Dev.wCset (d : Dev) (cn p : Nat) : Dev :=
  d.issueReg cn p 8 (fun i => resvOutside [(51, 16)] i.w) noReads fun i c => c.setC (i.f 19 16) (i.f 51 20)

/-- CALC: the sum is exact, shifted right, clamped (R69). -/
def calcVal (cs imm sh : Nat) : Nat :=
  let s := ((cs : Int) + sext 24 imm) / (2 ^ sh : Nat)
  (max 0 (min (2 ^ 32 - 1) s)).toNat

/-- CALC. -/
def Dev.wCalc (d : Dev) (cn p : Nat) : Dev :=
  d.issueReg cn p 9 (fun i => resvOutside [(52, 16)] i.w) (fun i => [i.f 23 20]) fun i c =>
    c.setC (i.f 19 16) (calcVal (i.c.c? (i.f 23 20)) (i.f 47 24) (i.f 52 48))

/-- CMIN. -/
def Dev.wCmin (d : Dev) (cn p : Nat) : Dev :=
  d.issueReg cn p 0xA (fun i => resvOutside [(55, 16)] i.w) (fun i => [i.f 23 20]) fun i c =>
    c.setC (i.f 19 16) (min (i.c.c? (i.f 23 20)) (i.f 55 24))

/-- CLOAD. -/
def Dev.wCload (d : Dev) (cn p : Nat) : Dev :=
  d.issue cn p 0xB (fun i => resvOutside [(24, 16)] i.w) noReads noWait noSkip
    (fun _ i => offTrap (i.c.a? (i.f 23 20)) 4 ++ alignTrap (i.c.a? (i.f 23 20)) 4)
    fun i d' => d'.loadThen i.key (i.c.a? (i.f 23 20)) 4 fun bs c =>
      (c.setC (i.f 19 16) (leNat bs)).postInc (i.f 23 20) (i.f 24 24)

/-- CSTORE: a read-modify-write of its 8-byte word (R221). -/
def Dev.wCstore (d : Dev) (cn p : Nat) : Dev :=
  d.issue cn p 0xC (fun i => resvOutside [(24, 16)] i.w) (fun i => [i.f 19 16]) noWait noSkip
    (fun d' i => offTrap (i.c.a? (i.f 23 20)) 4 ++ alignTrap (i.c.a? (i.f 23 20)) 4 ++ d'.planTrap cn (i.c.a? (i.f 23 20)) 4)
    fun i d' =>
      let d1 := d'.spStore i.key (i.c.a? (i.f 23 20)) (leBytes 4 (i.c.c? (i.f 19 16)))
      (d1.setCore i.key ((d1.coreAt i.key).postInc (i.f 23 20) (i.f 24 24)), none)

/-! Address words (R70) -/

/-- ASET. -/
def Dev.wAset (d : Dev) (cn p : Nat) : Dev :=
  d.issueReg cn p 0x10 (fun i => resvOutside [(55, 16)] i.w) noReads fun i c =>
    { c with ad := c.ad.set (i.f 19 16) (i.f 37 20, i.f 55 38) }

/-- AADD: arithmetic modulo 2^18. -/
def Dev.wAadd (d : Dev) (cn p : Nat) : Dev :=
  d.issueReg cn p 0x11 (fun i => resvOutside [(37, 16)] i.w) noReads fun i c =>
    let a := c.ad.getD (i.f 19 16) (0, 0)
    { c with ad := c.ad.set (i.f 19 16) ((a.1 + i.f 37 20) % 2 ^ 18, a.2) }

/-! Matrix words (R72) -/

/-- MTA: the A latch, always a dense tile. -/
def Dev.wMta (d : Dev) (cn p : Nat) : Dev :=
  d.issue cn p 0x18 (fun i => resvOutside [(29, 16)] i.w || 7 < i.f 29 26) noReads noWait noSkip
    (fun _ i => alignTrap (i.c.a? (i.f 19 16)) 64 ++ (if i.f 29 26 = 7 then [] else alignTrap (i.c.a? (i.f 24 21)) 64))
    fun i d' =>
      let c := d'.coreAt i.key
      let t : Tile := ⟨i.c.a? (i.f 19 16), i.c.a? (i.f 24 21), 0, i.f 29 26, false⟩
      (d'.setCore i.key ({ c with latA := some t }.postInc (i.f 19 16) (i.f 20 20)
        |>.postInc (i.f 24 21) (if i.f 29 26 = 7 then 0 else i.f 25 25)), none)

/-- MTB: the B latch. -/
def Dev.wMtb (d : Dev) (cn p : Nat) : Dev :=
  d.issue cn p 0x19 (fun i => resvOutside [(35, 16)] i.w || 7 < i.f 29 26) noReads noWait noSkip
    (fun _ i => alignTrap (i.c.a? (i.f 19 16)) 64 ++ (if i.f 29 26 = 7 then [] else alignTrap (i.c.a? (i.f 24 21)) 64) ++
      (if i.f 35 35 = 0 then [] else alignTrap (i.c.a? (i.f 33 30)) 64))
    fun i d' =>
      let c := d'.coreAt i.key
      let t : Tile := ⟨i.c.a? (i.f 19 16), i.c.a? (i.f 24 21), i.c.a? (i.f 33 30), i.f 29 26, i.f 35 35 == 1⟩
      (d'.setCore i.key ({ c with latB := some t }.postInc (i.f 19 16) (i.f 20 20)
        |>.postInc (i.f 24 21) (if i.f 29 26 = 7 then 0 else i.f 25 25)
        |>.postInc (i.f 33 30) (if i.f 35 35 = 0 then 0 else i.f 34 34)), none)

/-- A byte of a scratchpad as a decoded read gives it under draw `k`. -/
def Dev.spByte (d : Dev) (k key off : Nat) : Nat :=
  ((d.spWord k (spAddr key (off / 8 * 8))).data.getD (off % 8) 0).toNat

/-- Both latches hold MXINT8 tiles. -/
def Core.intPair (c : Core) : Bool :=
  match c.latA, c.latB with
  | some a, some b => a.fmt == 5 && b.fmt == 5
  | _, _ => false

/-- The first uncorrectable word, by offset, among byte ranges of a scratchpad read under draw `k`. -/
def Dev.rangesUe (d : Dev) (k key : Nat) (rs : List (Nat × Nat)) : Option Nat :=
  (rs.flatMap fun r => (unitsOf 8 r.1 r.2)).find? fun o => (d.spWord k (spAddr key o)).ue.isSome

/-- The traps of operand ranges: OFFSET over the whole access, DATA_UE at the first bad word (R39, R82). -/
def Dev.rangesTraps (d : Dev) (k key : Nat) (rs : List (Nat × Nat)) : List Trap :=
  (match (rs.filter fun r => spEnd < r.1 + r.2).map fun r => max r.1 spEnd with
   | [] => []
   | o :: os => [(8, os.foldl min o)]) ++
  (match d.rangesUe k key (rs.filter fun r => r.1 + r.2 ≤ spEnd) with
   | some o => [(13, o)]
   | none => [])

/-- An accumulator tile becomes undefined: free values (R82). -/
def Core.loseAcc (c : Core) (k j : Nat) : Core :=
  { c with acc := c.acc.set j ⟨(List.range 256).map fun e => Config.freeNat k e % 2 ^ 32, (Config.freeNat k 256 % 256 : Nat) - 128⟩ }

/-- MMA: the operation is queued. The bitmap scan finds its present rows and checks the cap in force (R72, R49, R55). -/
def Dev.wMma (d : Dev) (cn p : Nat) : Dev :=
  d.issue cn p 0x1A
    (fun i => resvOutside [(34, 16)] i.w || (i.f 34 27 != 0 && !(i.f 18 18 == 1 && i.c.intPair))) noReads
    (fun i => 2 ≤ i.c.mat.length) noSkip
    (fun _ i =>
      match i.c.latA, i.c.latB with
      | some a, some b => if pairingOk a.fmt b.fmt then [] else [(3, 0)]
      | none, some _ => [(6, 1)]
      | some _, none => [(6, 2)]
      | none, none => [(6, 3)])
    fun i d' =>
      match i.c.latA, i.c.latB with
      | some a, some b =>
        let (k, d1) := d'.draw
        let groups := i.f 26 19 + 1
        let bmr := if b.sp then [(b.bm, 4 * groups)] else []
        let pr := presentRows (d1.spByte k i.key) b groups
        let cap := (pr.zipIdx.find? fun g => i.c.dcap < g.1.length).map fun g => (g.2 + 2 ^ 8 * g.1.length)
        let ts := d1.rangesTraps k i.key bmr ++
          (match cap with | some x => if b.sp then [(12, x)] else [] | none => [])
        match lowest ts with
        | some t =>
          if t.1 = 12 then (d1, some t)
          else (d1.setCore i.key ((d1.coreAt i.key).loseAcc k (i.f 17 16)), some t)
        | none =>
          let c := d1.coreAt i.key
          (d1.setCore i.key { c with mat := c.mat ++
            [⟨i.ix, i.w, a, b, i.f 17 16, i.f 18 18 == 1, sext 8 (i.f 34 27), usedGroups pr⟩] }, none)
      | _, _ => (d', none)

/-- The oldest matrix operation of a core ends (R51–R54): its operands are read, its accumulator and the flags change.
Reads that fail leave the accumulator undefined and trap at the MMA word (R39, R82). -/
def Dev.mmaDone (d : Dev) (cn p : Nat) : Dev :=
  let key := coreKey cn p
  let c := d.coreAt key
  match c.mat with
  | [] => d
  | op :: rest =>
    let (k, d1) := d.draw
    let rs := operandRanges op.a op.b op.groups
    let fixed := (((rs.filter fun r => r.1 + r.2 ≤ spEnd).flatMap fun r => unitsOf 8 r.1 r.2).eraseDups.filter
      fun o => (d1.spWord k (spAddr key o)).fixed != 0).length
    match lowest (d1.rangesTraps k key rs) with
    | some t =>
      let d2 := (d1.spCount key fixed (if t.1 = 13 then 1 else 0)).setCore key ({ c with mat := rest }.loseAcc k op.acc)
      if c.st = .run ∨ c.st = .wait then d2.trapCore cn p op.ix op.w t else d2
    | none =>
      let at0 := c.acc.getD op.acc ⟨[], 0⟩
      let e := if op.clr && op.a.fmt == 5 then op.exp else at0.e
      let v0 := if op.clr then List.replicate 256 0 else at0.v
      let r := matTile (d1.spByte k key) op.a op.b op.groups (fun j => Config.freeNat k j % 2 == 1) e v0
      (d1.spCount key fixed 0).setCore key
        ({ c with mat := rest, acc := c.acc.set op.acc ⟨r.1, e⟩ }.flag r.2)

/-! Vector words (R73) -/

/-- A vector register's lanes. -/
def Core.v? (c : Core) (j : Nat) : List Nat := c.vr.getD j []

/-- A vector register set. -/
def Core.setV (c : Core) (j : Nat) (v : List Nat) : Core := { c with vr := c.vr.set j v }

/-- VLD. -/
def Dev.wVld (d : Dev) (cn p : Nat) : Dev :=
  d.issue cn p 0x20 (fun i => resvOutside [(24, 16)] i.w) noReads noWait noSkip
    (fun _ i => offTrap (i.c.a? (i.f 23 20)) 64 ++ alignTrap (i.c.a? (i.f 23 20)) 64)
    fun i d' => d'.loadThen i.key (i.c.a? (i.f 23 20)) 64 fun bs c =>
      (c.setV (i.f 19 16) ((List.range 16).map fun j => field bs (4 * j) 4)).postInc (i.f 23 20) (i.f 24 24)

/-- VST. -/
def Dev.wVst (d : Dev) (cn p : Nat) : Dev :=
  d.issue cn p 0x21 (fun i => resvOutside [(24, 16)] i.w) noReads noWait noSkip
    (fun d' i => offTrap (i.c.a? (i.f 23 20)) 64 ++ alignTrap (i.c.a? (i.f 23 20)) 64 ++
      d'.planTrap cn (i.c.a? (i.f 23 20)) 64)
    fun i d' =>
      let d1 := d'.spStore i.key (i.c.a? (i.f 23 20)) ((i.c.v? (i.f 19 16)).flatMap (leBytes 4))
      (d1.setCore i.key ((d1.coreAt i.key).postInc (i.f 23 20) (i.f 24 24)), none)

/-- VACC: waits for earlier operations into the accumulator (R51). -/
def Dev.wVacc (d : Dev) (cn p : Nat) : Dev :=
  d.issue cn p 0x22 (fun i => resvOutside [(28, 16)] i.w) noReads
    (fun i => i.c.mat.any fun o => o.acc == i.f 17 16) noSkip noTraps
    fun i d' =>
      let row := (i.f 21 18 + (if i.f 22 22 = 1 then i.c.lidx (i.f 24 23) else 0)) % 16
      let t := i.c.acc.getD (i.f 17 16) ⟨[], 0⟩
      (d'.setCore i.key ((d'.coreAt i.key).setV (i.f 28 25) ((List.range 16).map fun n => t.v.getD (16 * row + n) 0)), none)

/-- Codes of FN (R73). -/
def fnCodes : List Nat :=
  List.range 0xB ++ (List.range 0xB).map (0x10 + ·) ++ [0x20, 0x21, 0x28, 0x29, 0x2A, 0x2B, 0x30]

/-- A binary operation on lanes that yields flags. -/
def lanes2 (f : Nat → Nat → Nat × Flags) (a b : List Nat) : List Nat × Flags :=
  let r := (List.range 16).map fun j => f (a.getD j 0) (b.getD j 0)
  (r.map (·.1), r.foldl (fun s x => s.or x.2) .none)

/-- An operation on lanes that sets no flag. -/
def pure2 (f : Nat → Nat → Nat) (a b : List Nat) : List Nat × Flags := lanes2 (fun x y => (f x y, .none)) a b

/-- The mask lane of a comparison. -/
def maskLane (b : Bool) : Nat := if b then 0xFFFFFFFF else 0

/-- The horizontal sum: lane pairs, then pair sums, over four levels (R57). -/
def hsum (v : List Nat) : Nat × Flags :=
  (List.range 4).foldl (fun (st : List Nat × Flags) _ =>
    let r := (List.range (st.1.length / 2)).map fun j => fadd (st.1.getD (2 * j) 0) (st.1.getD (2 * j + 1) 0)
    (r.map (·.1), r.foldl (fun s x => s.or x.2) st.2)) (v, .none) |> fun p => (p.1.getD 0 0, p.2)

/-- A result in lane 0. -/
def lane0 (x : Nat) : List Nat := x :: List.replicate 15 0

/-- The function of a VOP on its source registers; `k` is the draw of the fixed functions' last places (R58). -/
def vopFn (k fn : Nat) (lut a b c : List Nat) : List Nat × Flags :=
  match fn with
  | 0x00 => lanes2 fadd a b
  | 0x01 => lanes2 fsub a b
  | 0x02 => lanes2 fmul a b
  | 0x03 =>
    let r := (List.range 16).map fun j => ffma (a.getD j 0) (b.getD j 0) (c.getD j 0)
    (r.map (·.1), r.foldl (fun s x => s.or x.2) .none)
  | 0x04 => pure2 fmin a b
  | 0x05 => pure2 fmax a b
  | 0x06 => pure2 (fun x _ => x % 2 ^ 31) a b
  | 0x07 => pure2 (fun x _ => x ^^^ 2 ^ 31) a b
  | 0x08 => pure2 fcmplt a b
  | 0x09 => pure2 fcmpeq a b
  | 0x0A => ((List.range 16).map fun j => if c.getD j 0 ≠ 0 then a.getD j 0 else b.getD j 0, .none)
  | 0x10 => pure2 (fun x y => (x + y) % 2 ^ 32) a b
  | 0x11 => pure2 (fun x y => (x + 2 ^ 32 - y) % 2 ^ 32) a b
  | 0x12 => pure2 (fun x y => x * 2 ^ (y % 32) % 2 ^ 32) a b
  | 0x13 => pure2 (fun x y => x / 2 ^ (y % 32)) a b
  | 0x14 => pure2 (fun x y => wrapTo 32 (sext 32 x / (2 ^ (y % 32) : Nat))) a b
  | 0x15 => pure2 (fun x y => x &&& y) a b
  | 0x16 => pure2 (fun x y => x ||| y) a b
  | 0x17 => pure2 (fun x y => x ^^^ y) a b
  | 0x18 => pure2 (fun x y => if sext 32 x ≤ sext 32 y then x else y) a b
  | 0x19 => pure2 (fun x y => if sext 32 x ≤ sext 32 y then y else x) a b
  | 0x1A => pure2 (fun x y => maskLane (sext 32 x < sext 32 y)) a b
  | 0x20 => let r := hsum a; (lane0 r.1, r.2)
  | 0x21 => (lane0 (a.tail.foldl fmax (a.getD 0 0)), .none)
  | 0x28 => lanes2 (fun x y => fexp2 (Config.freeNat k y) x) a (List.range 16)
  | 0x29 => lanes2 (fun x y => flog2 (Config.freeNat k y) x) a (List.range 16)
  | 0x2A => pure2 (fun x y => frecip (Config.freeNat k y) x) a (List.range 16)
  | 0x2B => lanes2 (fun x y => frsqrt (Config.freeNat k y) x) a (List.range 16)
  | 0x30 => lanes2 (fun x _ => lutEval lut x) a b
  | _ => (a, .none)

/-- VOP. A lookup waits until a table load has finished. -/
def Dev.wVop (d : Dev) (cn p : Nat) : Dev :=
  d.issue cn p 0x23 (fun i => resvOutside [(39, 16)] i.w || !fnCodes.contains (i.f 23 16)) noReads
    (fun i => i.f 23 16 == 0x30 && i.c.lutP.isSome) noSkip noTraps
    fun i d' =>
      let (k, d1) := d'.draw
      let c := d1.coreAt i.key
      let r := vopFn k (i.f 23 16) c.lut (c.v? (i.f 31 28)) (c.v? (i.f 35 32)) (c.v? (i.f 39 36))
      (d1.setCore i.key ((c.setV (i.f 27 24) r.1).flag r.2), none)

/-! Conversion (R60–R64, R74) -/

/-- A scratchpad word rewritten bit by bit (R221): bits [lo, lo + n) of the word at unit address `a` become `v`. -/
def Dev.spBits (d : Dev) (key a lo n v : Nat) : Dev :=
  let (k, d1) := d.draw
  let r := d1.spWord k a
  let put := fun (bs : Bytes) => leBytes 8 (setBits (leNat bs) (lo + n - 1) lo v)
  match r.ue with
  | none => (d1.writeUnit a (put r.data)).spCount key r.fixed 0
  | some _ => ((d1.writeUnit a (put (d1.rawUnit k a 8 7))).markUnit a 3).spCount key 0 1

/-- `n` bits of a scratchpad from a bit address (its offset × 8) become `v`; they may cross one word boundary. -/
def Dev.spStoreBits (d : Dev) (key bit n v : Nat) : Dev :=
  let a := spAddr key (bit / 64 * 8)
  let lo := bit % 64
  if lo + n ≤ 64 then d.spBits key a lo n v
  else (d.spBits key a lo (64 - lo) (v % 2 ^ (64 - lo))).spBits key (a + 8) 0 (lo + n - 64) (v / 2 ^ (64 - lo))

/-- Where a VCVT writes: byte ranges of its elements and of its scale (R74). -/
def vcvtRanges (i : Iss) : List (Nat × Nat) :=
  let fmt := i.f 27 24
  let ead := i.c.a? (i.f 34 31)
  let sad := i.c.a? (i.f 39 36)
  if fmt = 7 then [(ead, 32)]
  else
    (if i.f 30 30 = 0 then [(ead, 4 * elemBits fmt)]
     else (List.range 32).map fun k =>
       let b := elemBits fmt * i.f 44 41
       (ead + rowBytes fmt * k + b / 8, (b % 8 + elemBits fmt + 7) / 8)) ++
    [(sad, if fmt = 6 then 4 else 1)]

/-- The alignment of a VCVT's destinations (R74). -/
def vcvtAlign (i : Iss) : List Trap :=
  let fmt := i.f 27 24
  let ead := i.c.a? (i.f 34 31)
  let sad := i.c.a? (i.f 39 36)
  alignTrap ead (if fmt = 7 then 32 else if i.f 30 30 = 0 then 8 else 64) ++
    (if fmt = 6 then alignTrap sad 4 else [])

/-- The bytes of a scale entry: E8M0, or the 4-byte SMX4 entry of R48. -/
def scaleEntry (fmt : Nat) (b : Block) : Bytes :=
  if fmt = 6 then leBytes 1 b.scale ++ leBytes 2 b.offs ++ zeros 1 else leBytes 1 b.scale

/-- The traps of a VCVT's accesses: the lowest offset beyond the scratchpad, a destination in the plan region. -/
def Dev.vcvtTraps (d : Dev) (cn : Nat) (i : Iss) : List Trap :=
  let rs := vcvtRanges i
  (match (rs.filter fun r => spEnd < r.1 + r.2).map fun r => max r.1 spEnd with
   | [] => []
   | o :: os => [(8, os.foldl min o)]) ++ vcvtAlign i ++ (rs.flatMap fun r => d.planTrap cn r.1 r.2)

/-- VCVT. -/
def Dev.wVcvt (d : Dev) (cn p : Nat) : Dev :=
  d.issue cn p 0x24 (fun i => resvOutside [(44, 16)] i.w || 7 < i.f 27 24) noReads (fun i => i.c.seedP.isSome) noSkip
    (fun d' i => d'.vcvtTraps cn i)
    fun i d' =>
      let fmt := i.f 27 24
      let sr := i.f 28 28 == 1
      let sat := i.f 29 29 == 1
      let g1 := i.c.rng.map rngStep
      let g2 := g1.map rngStep
      let ead := i.c.a? (i.f 34 31)
      let sad := i.c.a? (i.f 39 36)
      let c := d'.coreAt i.key
      if fmt = 7 then
        let r := convBf16 sat (c.v? (i.f 19 16)) (if sr then some (rngLanes g1) else none)
        let d1 := d'.spStore i.key ead (packElems 16 r.1)
        (d1.setCore i.key (({ c with rng := if sr then g1 else c.rng }.postInc (i.f 34 31) (i.f 35 35)).flag r.2), none)
      else
        let b := convBlock fmt sat (c.v? (i.f 19 16) ++ c.v? (i.f 23 20))
          (if sr then some (rngLanes g1 ++ rngLanes g2) else none)
        let w := elemBits fmt
        let d1 :=
          if i.f 30 30 = 0 then d'.spStore i.key ead (packElems w b.elems)
          else b.elems.zipIdx.foldl (fun d2 e =>
            d2.spStoreBits i.key (8 * (ead + rowBytes fmt * e.2) + w * i.f 44 41) w e.1) d'
        let d2 := d1.spStore i.key sad (scaleEntry fmt b)
        (d2.setCore i.key ((({ c with rng := if sr then g2 else c.rng }.postInc (i.f 34 31) (i.f 35 35)).postInc
          (i.f 39 36) (i.f 40 40)).flag b.flags), none)

/-! Tumbler words (R76–R79) -/

/-- TUMBLER_RANGE: outside the partition's range, or on a die the package does not have (R76). -/
def Dev.tumbTrap (d : Dev) (i : Iss) : List Trap :=
  let h := i.f 17 16
  if h < d.ndies ∧ ((i.c.rngs.getD h ⟨0, 0, false⟩).has (i.f 33 18)) = true then [] else [(7, i.f 33 18 + 2 ^ 16 * h)]

/-- The operand IMM + c[CREG] modulo 2^32 (R76, R170). -/
def Iss.operand (i : Iss) : Nat := (i.f 55 34 + (if i.f 62 62 = 1 then i.c.c? (i.f 61 58) else 0)) % 2 ^ 32

/-- The count registers that a tumbler word reads. -/
def Iss.tumbReads (i : Iss) : List Nat := if i.f 62 62 = 1 then [i.f 61 58] else []

/-- The message of a tumbler word. -/
def Dev.tumbMsg (d : Dev) (i : Iss) (opc slot gen val imm : Nat) : CtlMsg :=
  ⟨.core i.l, .bank (i.f 17 16), opc, slot, gen, i.l, tumbField (i.f 17 16) (i.f 33 18) (d.partOf i.cn), val, imm⟩

/-- Reserved fields of a tumbler word: SLOT and BLK outside TWAIT (R76). -/
def tumbResv (i : Iss) : Bool := i.f 57 56 != 0 || i.f 63 63 != 0

/-- TWAIT. -/
def Dev.wTwait (d : Dev) (cn p : Nat) : Dev :=
  d.issue cn p 0x30 (fun _ => d.testMode cn) Iss.tumbReads noWait noSkip
    (fun d' i =>
      let s := i.c.slots.getD (i.f 57 56) ⟨false, false, 0, 0, 0, 0⟩
      d'.tumbTrap i ++ (if s.armed && !s.met then [(0xB, i.f 57 56)] else []))
    fun i d' =>
      let c := d'.coreAt i.key
      let j := i.f 57 56
      let s := c.slots.getD j ⟨false, false, 0, 0, 0, 0⟩
      let s' : WSlotC := ⟨true, false, (s.gen + 1) % 16, i.f 17 16, i.f 33 18, i.operand⟩
      let c1 := { c with slots := c.slots.set j s' }
      let c2 := if i.f 63 63 = 1 then c1.block (2 ^ j) (d'.tick (cellDie cn)) i.w else c1
      ((d'.setCore i.key c2).coreSend cn p (d'.tumbMsg i 0x04 j s'.gen i.operand 0), none)

/-- WSYNC. -/
def Dev.wWsync (d : Dev) (cn p : Nat) : Dev :=
  d.issueReg cn p 0x31 (fun i => d.testMode cn || resvOutside [(19, 16)] i.w) noReads fun i c =>
    if c.unmet (i.f 19 16) then c.block (i.f 19 16) (d.tick (cellDie cn)) i.w else c.freeSlots (i.f 19 16)

/-- TADD. -/
def Dev.wTadd (d : Dev) (cn p : Nat) : Dev :=
  d.issue cn p 0x32 (fun i => d.testMode cn || tumbResv i) Iss.tumbReads noWait noSkip Dev.tumbTrap
    fun i d' => (d'.coreSend cn p (d'.tumbMsg i 0x01 0 0 i.operand 0), none)

/-- TSET. -/
def Dev.wTset (d : Dev) (cn p : Nat) : Dev :=
  d.issue cn p 0x33 (fun i => d.testMode cn || tumbResv i) Iss.tumbReads noWait noSkip Dev.tumbTrap
    fun i d' => (d'.coreSend cn p (d'.tumbMsg i 0x02 0 0 i.operand 0), none)

/-- TRADD: issue stalls until its release (R78). -/
def Dev.wTradd (d : Dev) (cn p : Nat) : Dev :=
  d.issue cn p 0x34 (fun i => d.testMode cn || tumbResv i) Iss.tumbReads noWait noSkip Dev.tumbTrap
    fun i d' => (d'.setCore i.key { d'.coreAt i.key with tradd := some (d'.tumbMsg i 0x03 0 0 i.operand 0) }, none)

/-- Every scratchpad access of the core's earlier words has completed: TRADD sends its add (R78). -/
def Dev.traddRelease (d : Dev) (cn p : Nat) : Dev :=
  let key := coreKey cn p
  let c := d.coreAt key
  match c.tradd with
  | some m =>
    if c.mat.isEmpty && c.seedP.isNone && c.lutP.isNone then (d.setCore key { c with tradd := none }).coreSend cn p m else d
  | none => d

/-- TCADD: B0 only; the comparison value is c[CREG] (R79). -/
def Dev.wTcadd (d : Dev) (cn p : Nat) : Dev :=
  d.issue cn p 0x35 (fun i => d.testMode cn || tumbResv i || i.f 62 62 == 1 || !d.b0Level (cellDie cn)) (fun i => [i.f 61 58]) noWait noSkip
    Dev.tumbTrap
    fun i d' =>
      let c := d'.coreAt i.key
      ((d'.setCore i.key { c with cvals := c.cvals ++ [(i.f 61 58, tmbKey (i.f 17 16) (i.f 33 18))] }).coreSend cn p
        (d'.tumbMsg i 0x06 0 0 (i.c.c? (i.f 61 58)) (i.f 55 34)), none)

/-! Waits (R77) -/

/-- The tumbler of the lowest unmet slot of a mask, as TUMBLER_RANGE reports one. -/
def Core.lowestUnmet (c : Core) (mask : Nat) : Nat :=
  match c.slots.zipIdx.find? fun s => hasBit mask s.2 && s.1.armed && !s.1.met with
  | some s => s.1.idx + 2 ^ 16 * s.1.die
  | none => 0

/-- A blocked core's wait runs out (R77, R8). -/
def Dev.coreTimeout (d : Dev) (cn p : Nat) : Dev :=
  let c := d.coreAt (coreKey cn p)
  let t := (d.cellAt cn).wtmo
  if c.st = .wait ∧ c.unmet c.blk = true ∧ t ≠ 0 ∧ d.late (cellDie cn) c.blkAt t = true ∧ d.cellRuns cn = true then
    d.trapCore cn p (c.pc - 1) c.blkW (0xE, c.lowestUnmet c.blk)
  else d

/-- A WAKE for a slot of a core: stale generations are discarded; a core whose blocking word has every slot met goes on,
and WSYNC frees its slots (R77, R171). An END waits for its drain (R75). -/
def Core.wake (c : Core) (slot gen : Nat) : Core :=
  let s := c.slots.getD slot ⟨false, false, 0, 0, 0, 0⟩
  if s.armed && !s.met && s.gen == gen then
    let c1 := { c with slots := c.slots.set slot { s with met := true } }
    if c1.st = .wait ∧ c1.ending = false ∧ c1.unmet c1.blk = false then
      (if c1.blkW % 256 = 0x31 then { c1.freeSlots c1.blk with st := .run, blk := 0 } else { c1 with st := .run, blk := 0 })
    else c1
  else c

/-- A CVAL writes the count register that has waited longest for its tumbler (R79). -/
def Core.cval (c : Core) (t v : Nat) : Core :=
  match c.cvals.find? fun x => x.2 == t with
  | some x => { c.setC x.1 v with cvals := c.cvals.erase x }
  | none => c

end Sys2Proof.Machine
end

