-- ==== Sys2Proof/Machine/Cells.lean ====
section
/-!
DEFINITION. Cells: park, unpark and reset (R37, R168), the spare map and deadbolts (R35, R36, R38), test mode and the
loader state (R435, R437, R444), START and ABORT of a cell's plan (R84).
-/
namespace Sys2Proof.Machine

/-- The physical indices of a cell's cores (R33). -/
def pcores : List Nat := List.range 136

/-- A change applied to every physical core of a cell. -/
def Dev.eachCore (d : Dev) (_cn : Nat) (f : Dev → Nat → Dev) : Dev := pcores.foldl f d

/-- The core a physical core becomes on a core reset: HELD, registers at reset, its generator and table at their reset
values; the slot generations go on (R35, R64, R59, R171). -/
def Core.reset (c : Core) (l : Nat) : Core :=
  { Core.initial with rng := rngSeed l, slots := c.slots.map fun s => ⟨false, false, s.gen, 0, 0, 0⟩, rngs := c.rngs }

/-- A core stops issuing and enters IDLE with no trap record; its armed slots are withdrawn (R84). -/
def Dev.stopCore (d : Dev) (cn p : Nat) : Dev :=
  let d1 := d.withdrawSlots cn p
  let key := coreKey cn p
  d1.setCore key { d1.coreAt key with st := .idle, fbuf := [], lbuf := [], ending := false, blk := 0 }

/-- Words already issued complete: queued matrix operations, loads in progress, a TRADD's release (R37, R84). -/
def Dev.drainCore (d : Dev) (cn p : Nat) : Dev :=
  ((((d.mmaDone cn p).mmaDone cn p).seedDone cn p).lutDone cn p).traddRelease cn p

/-- ABORT of one core (R84). -/
def Dev.abortCore (d : Dev) (cn p : Nat) : Dev :=
  let c := d.coreAt (coreKey cn p)
  match c.st with
  | .run => d.stopCore cn p
  | .wait => d.stopCore cn p
  | .trap => d.setCore (coreKey cn p) { c with st := .idle }
  | _ => d

/-- ABORT of a cell's plan (R84). -/
def Dev.planAbort (d : Dev) (cn : Nat) : Dev := d.eachCore cn fun d' p => d'.abortCore cn p

/-- The region [PBASE, PLIMIT) obeys R81. -/
def regionOk (base limit : Nat) : Bool := base < limit && limit - base ≤ 1024 && limit ≤ 0xA00

/-- One core starts (R84): registers, latches, flags, slots and trap record cleared, generator and table at reset, RUN
at PBASE. Accumulator tiles and operations under way are not registers and stay (log entry 9). -/
def Core.start (c : Core) (l pbase : Nat) : Core :=
  { c.reset l with st := .run, pc := pbase * 8, acc := c.acc, mat := c.mat, cfix := c.cfix, ldr := c.ldr }

/-- The cores of a cell that LOAD places in LOADER: every active core in test mode, every mapped core otherwise (R444,
R437). -/
def Dev.loadable (d : Dev) (cn p : Nat) : Bool :=
  if d.testMode cn then !d.failedP cn p && !d.deadbolt cn p else (d.carries cn p).isSome

/-- START of a cell's plan (R84). -/
def Dev.planStart (d : Dev) (cn : Nat) : Dev :=
  let die := cellDie cn
  let n := cellN cn
  let c := cellC cn
  if !d.cellRuns cn then d
  else
    let b := d.get F.CMP_PBASE_BASE die (n * 4 + c)
    let l := d.get F.CMP_PLIMIT_LIMIT die (n * 4 + c)
    if !regionOk b l then d.put F.CMP_PRUN_PERR 1 die (n * 4 + c)
    else
      let d1 := d.setCell cn { d.cellAt cn with pbase := b, plimit := l, wtmo := d.get F.CMP_WTMO_TICKS die (n * 4 + c) }
      d1.eachCore cn fun d' p =>
        let k := d'.coreAt (coreKey cn p)
        if (k.st = .idle ∨ k.st = .done) ∧ d'.loadable cn p = true then d'.setCore (coreKey cn p) (k.start (d'.lnumOf cn p) b) else d'

/-- A write of START and ABORT bits: together they act as ABORT (R84). -/
def Dev.planRun (d : Dev) (cn : Nat) (start abort : Bool) : Dev :=
  if abort then d.planAbort cn else if start then d.planStart cn else d

/-- The PARK bit of a cell set to a value. -/
def Dev.setPark (d : Dev) (cn : Nat) (b : Bool) : Dev :=
  let old := d.get F.CMP_CELL_CTL_PARK (cellDie cn) (cellN cn)
  d.put F.CMP_CELL_CTL_PARK (if b then orBit old (cellC cn) else clrBit old (cellC cn)) (cellDie cn) (cellN cn)

/-- A cell is parked (R37, R84): running and waiting cores stop, what has been issued completes, the clocks stop. -/
def Dev.parkNow (d : Dev) (cn : Nat) : Dev :=
  let d1 := d.eachCore cn fun d' p =>
    let s := (d'.coreAt (coreKey cn p)).st
    (if s = .run ∨ s = .wait then d'.stopCore cn p else d').drainCore cn p
  d1.setPark cn true

/-- PARK written for a cell: held while its reset is under way (R38). -/
def Dev.cellPark (d : Dev) (cn : Nat) : Dev :=
  if d.inReset cn then d.setCell cn { d.cellAt cn with parkHeld := true }
  else if d.parked cn then d
  else d.parkNow cn

/-- A cell is unparked: its cores load a copy of the partition's ranges (R168). -/
def Dev.cellUnpark (d : Dev) (cn : Nat) : Dev :=
  let d0 := d.setCell cn { d.cellAt cn with parkHeld := false }
  if !d.parked cn then d0
  else
    let p := d.partOf cn
    let rs := if p < 48 then d.rangesOf (cellDie cn) p else []
    let d1 := d0.setPark cn false
    d1.eachCore cn fun d' q =>
      let c := d'.coreAt (coreKey cn q)
      if c.rngs = rs then d' else d'.setCore (coreKey cn q) { c with rngs := rs }

/-- CRST written for a cell: its cores enter HELD at once, slots withdrawn, scratchpads undefined (R37, R40, R84). -/
def Dev.cellReset (d : Dev) (cn : Nat) : Dev :=
  let die := cellDie cn
  let d1 := d.put F.CMP_CELL_CTL_CRST (orBit (d.get F.CMP_CELL_CTL_CRST die (cellN cn)) (cellC cn)) die (cellN cn)
  d1.eachCore cn fun d' p =>
    let key := coreKey cn p
    let d2 := (d'.withdrawSlots cn p).spInvalid key
    d2.setCore key ((d2.coreAt key).reset (d2.lnumOf cn p))

/-- The reset of a cell completes: CRST clears and a held PARK takes effect (R37, R38). -/
def Dev.cellResetDone (d : Dev) (cn : Nat) : Dev :=
  if !d.inReset cn then d
  else
    let die := cellDie cn
    let d1 := d.put F.CMP_CELL_CTL_CRST (clrBit (d.get F.CMP_CELL_CTL_CRST die (cellN cn)) (cellC cn)) die (cellN cn)
    if (d1.cellAt cn).parkHeld then (d1.setCell cn { d1.cellAt cn with parkHeld := false }).parkNow cn else d1

/-- The cell number of cell `c` of compute die `n` of a base die. -/
def cellNo (die n c : Nat) : Nat := 12 * die + 4 * n + c

/-- A write to CMP_CELL_CTL. -/
def Dev.cellCtlWrite (d : Dev) (die n v : Nat) : Dev :=
  (List.range 4).foldl (fun d' c =>
    let cn := cellNo die n c
    let d1 := if hasBit v (4 + c) then d'.cellReset cn else d'
    if hasBit v c then d1.cellPark cn else d1.cellUnpark cn) d

/-- The CMP_MAP_DATA of a logical core, `s` as its selector gives it, is written (R35, R38): refused with MAPERR, or the logical core moves; the core that takes the number
starts reset with undefined contents, and the one it leaves is held in reset. In test mode the map does not apply and no
core changes. -/
def Dev.mapSet (d : Dev) (die n s v : Nat) : Dev :=
  let cn := cellNo die n (s / 128)
  let lc := s % 128
  let p := v % 256
  if !d.parked cn then d.put F.CMP_STAT_MAPERR 1 die n
  else if 136 ≤ p then d
  else
    let other := (List.range 128).any fun j => j != lc && d.mapOf cn j == p
    if other || d.deadbolt cn p || d.failedP cn p then d.put F.CMP_STAT_MAPERR 1 die n
    else
      let q := d.mapOf cn lc
      let d1 := d.put F.CMP_MAP_DATA_PCORE p die n s
      if p = q || d.testMode cn then d1
      else
        let l := lcoreOf cn lc
        let d2 := d1.spInvalid (coreKey cn p)
        let d3 := d2.setCore (coreKey cn p) ((d2.coreAt (coreKey cn p)).reset l)
        d3.setCore (coreKey cn q) ((d3.coreAt (coreKey cn q)).reset 0)

/-- A write to CMP_MAP_DATA of the selected logical core. -/
def Dev.mapWrite (d : Dev) (die n v : Nat) : Dev := d.mapSet die n (d.selOf .CMP_MAP_DATA die n) v

/-- The CMP_PCTL of a physical core is written (R37, R38): DEADBOLT, FAILED, DB_CLEAR. -/
def Dev.pctlSet (d : Dev) (die n s v : Nat) : Dev :=
  let cn := cellNo die n (s / 256)
  let p := s % 256
  let d1 := d.put F.CMP_PCTL_FAILED (bitOf v 2) die n s
  let db := hasBit v 0
  let clr := hasBit v 8
  if db && clr then d1.put F.CMP_STAT_DBERR 1 die n
  else if db then
    (if d1.mappedP cn p then d1.put F.CMP_STAT_DBERR 1 die n else d1.put F.CMP_PCTL_DEADBOLT 1 die n s)
  else if clr && !d1.mappedP cn p then (d1.put F.CMP_PCTL_DEADBOLT 0 die n s).put F.CMP_PDROP_COUNT 0 die n s
  else d1

/-- A write to CMP_PCTL of the selected core. -/
def Dev.pctlWrite (d : Dev) (die n v : Nat) : Dev := d.pctlSet die n (d.selOf .CMP_PCTL die n) v

/-- LOADER with nothing latched and an all-ones bitmap (R435). -/
def freshLoader : Loader := ⟨false, 0, 0, 0, 0xFFFFFFFF⟩

/-- LOAD written for a cell (R444); a cell in reset does not take it (log entry 10). -/
def Dev.loaderEnter (d : Dev) (cn : Nat) : Dev :=
  if d.inReset cn then d
  else d.eachCore cn fun d' p =>
    if d'.loadable cn p then
      let d1 := d'.withdrawSlots cn p
      let key := coreKey cn p
      d1.setCore key { d1.coreAt key with st := .loader, fbuf := [], ending := false, ldr := freshLoader }
    else d'

/-- A cell's TEST bit set to a value (R38, R437, R438): only while parked; clearing it is refused with DBERR while the
map names a deadbolted or failed core. Cores in LOADER leave it; when TEST clears, mapped cores that are not HELD are
IDLE, and the others are HELD as spares. -/
def Dev.setTest (d : Dev) (cn : Nat) (b : Bool) : Dev :=
  let die := cellDie cn
  let n := cellN cn
  let old := d.get F.CMP_LDCTL_TEST die n
  if !d.parked cn || d.testMode cn == b then d
  else if !b && (List.range 128).any (fun lc => d.deadbolt cn (d.mapOf cn lc) || d.failedP cn (d.mapOf cn lc)) then
    d.put F.CMP_STAT_DBERR 1 die n
  else
    let d1 := d.put F.CMP_LDCTL_TEST (if b then orBit old (cellC cn) else clrBit old (cellC cn)) die n
    d1.eachCore cn fun d' p =>
      let key := coreKey cn p
      let c := d'.coreAt key
      let st := if c.st = .loader ∨ c.st = .held then CoreSt.held
        else if b then c.st else if (d'.carries cn p).isSome then .idle else .held
      if st = c.st then d' else d'.setCore key { c with st := st, ldr := if c.st = .loader then freshLoader else c.ldr }

/-- A write to CMP_LDCTL (R444). -/
def Dev.ldctlWrite (d : Dev) (die n v : Nat) : Dev :=
  (List.range 4).foldl (fun d' c =>
    let cn := cellNo die n c
    let d1 := d'.setTest cn (hasBit v (4 + c))
    if hasBit v c then d1.loaderEnter cn else d1) d

/-- A write to CMP_PRUN (R84, R89). -/
def Dev.prunWrite (d : Dev) (die i v : Nat) : Dev :=
  let cn := 12 * die + i
  let d1 := if hasBit v 2 then d.put F.CMP_PRUN_PERR 0 die i else d
  d1.planRun cn (hasBit v 0) (hasBit v 1)

/-- BCAST acts on a cell as a write of its CMP_PRUN (R179). -/
def Dev.bcastCell (d : Dev) (cn cmd : Nat) : Dev := d.planRun cn (cmd == 1) (cmd == 2)

end Sys2Proof.Machine
end

