-- ==== Sys2Proof/Machine/KeyRing.lean ====
section
/-!
DEFINITION. The key ring of a die (R241–R259): entries, lookup and checks, the KRG_ECMD commands, quotas, host windows.
-/
namespace Sys2Proof.Machine

/-- Width of the page offset of a size code (R241). -/
def pageBits : Nat → Nat
  | 0 => 12
  | 1 => 16
  | 2 => 21
  | _ => 30

/-- The set of an entry of identity `p`, size `z` and page number `v` (R245). -/
def krgSet (p z v : Nat) : Nat := bitsOf v 17 0 ^^^ bitsOf v 35 18 ^^^ bitsOf v 44 36 ^^^ (p * 2 ^ 12) ^^^ (z * 2 ^ 10)

/-! Entry fields (R246) -/

def KEnt.valid (e : KEnt) : Bool := hasBit e.w0 0
def KEnt.size (e : KEnt) : Nat := bitsOf e.w0 2 1
def KEnt.ident (e : KEnt) : Nat := bitsOf e.w0 8 3
def KEnt.used (e : KEnt) : Bool := hasBit e.w0 9
def KEnt.va (e : KEnt) : Nat := bitsOf e.w0 56 12 * 2 ^ 12
/-- The entry targets a host window. -/
def KEnt.host (e : KEnt) : Bool := hasBit e.w1 4

/-- Space of a GPA (R22). -/
def gpaSpace (g : Nat) : Nat := bitsOf g 45 43
/-- Base die of a GPA. -/
def gpaDie (g : Nat) : Nat := bitsOf g 47 46
/-- Package of a GPA. -/
def gpaPkg (g : Nat) : Nat := bitsOf g 59 48
/-- Offset of a GPA in its space. -/
def gpaOff (g : Nat) : Nat := bitsOf g 42 0

/-- The GPA names this package, as a die's KRG_PKG tells (R253, R254). -/
def Dev.ownPkg (d : Dev) (die g : Nat) : Bool := gpaPkg g == d.get F.KRG_PKG_PKG die

/-- Bytes of a space of a die that accesses may reach (R22, R165, R297). -/
def Dev.spaceSize (d : Dev) (die space : Nat) : Nat :=
  match space with
  | 0 => d.hbmBytes
  | 1 => 384 * 2 ^ 20
  | 2 => 0x40000
  | 3 => if d.get F.AUX_WIN_WLOG2 die = 0 then 0 else 2 ^ d.get F.AUX_WIN_WLOG2 die
  | _ => 0

/-- An HBM offset addresses a blank (R195). -/
def blankOff (off : Nat) : Bool := bitsOf off 35 27 == 0x1FF

/-- A GPA of this package lies in the range used in its space, on a die the package has (R22, R195). -/
def Dev.inRange (d : Dev) (g : Nat) : Bool :=
  gpaDie g < d.ndies && gpaOff g < d.spaceSize (gpaDie g) (gpaSpace g) && !(gpaSpace g == 0 && blankOff (gpaOff g))

/-! Lookup (R248) -/

/-- The way of a set that holds the page of `dva`. -/
def Dev.krgWay (d : Dev) (die p z dva : Nat) : Option Nat :=
  let v := dva / 2 ^ pageBits z
  (List.range 8).find? fun w =>
    match d.krg.at? (die, krgSet p z v, w) with
    | some e => e.valid && e.ident == p && e.size == z && e.va / 2 ^ pageBits z == v
    | none => false

/-- The entry that a lookup uses: set, way and entry, the smallest page first. -/
def Dev.krgFind (d : Dev) (die p dva : Nat) : Option (Nat × Nat × KEnt) :=
  (List.range 4).findSome? fun z =>
    match d.krgWay die p z dva with
    | some w =>
      let s := krgSet p z (dva / 2 ^ pageBits z)
      (d.krg.at? (die, s, w)).map fun e => (s, w, e)
    | none => none

/-- What an access asks of the key ring: identity, DVA, kind (0 read, 1 write, 2 REDUCE, 3 TADD), narrow or not, its part
in an unfold row (0 none, 1 input, 2 output), and whether it comes from the auxiliary site. -/
structure KAcc where
  ident : Nat
  dva : Nat
  acc : Nat
  nar : Bool
  unf : Nat
  site : Bool
deriving DecidableEq, Repr

/-- The access has its right (R249). -/
def KAcc.right (a : KAcc) (e : KEnt) : Bool :=
  match a.acc with
  | 0 => hasBit e.w1 0
  | 2 => hasBit e.w1 2
  | _ => hasBit e.w1 1

/-- The target that an entry gives an access (R250 steps 1 and 2). -/
def KAcc.target (a : KAcc) (die : Nat) (e : KEnt) : Tgt :=
  let o := a.dva % 2 ^ pageBits e.size
  if e.host then .host die (bitsOf e.w1 53 44) (bitsOf e.w1 43 12 * 2 ^ 12 + o)
  else .gpa (bitsOf e.w1 59 12 * 2 ^ 12 + o)

/-- The space and kind checks (R9, R22, R100, R132, R165, R252, R297): the access may name this target. -/
def Dev.spaceOk (d : Dev) (die : Nat) (a : KAcc) : Tgt → Bool
  | .host _ _ _ => !a.nar && a.acc < 2 && a.unf == 0
  | .spad _ _ => false
  | .gpa g =>
    let sp := gpaSpace g
    let own := d.ownPkg die g
    (match sp with
     | 0 => a.acc != 3
     | 1 => a.acc != 3
     | 2 => !a.nar && (a.acc == 0 || a.acc == 3 || (a.acc == 1 && a.site))
     | 3 => !a.nar && a.acc < 2
     | _ => false) &&
    (match a.unf with
     | 0 => true
     | 1 => sp < 2 && own
     | _ => sp == 1 && own && gpaDie g == die)

/-- The code of R250 for an access through an entry: 0 when steps 3 to 5 pass. -/
def Dev.krgCode (d : Dev) (die : Nat) (a : KAcc) (e : KEnt) : Nat :=
  if !a.right e then 2
  else if a.nar && !hasBit e.w1 3 then 3
  else if !d.spaceOk die a (a.target die e) then 4
  else
    match a.target die e with
    | .host _ w off =>
      if !d.on? F.KRG_HWCTL_EN die 0 w then 6 else if off / 2 ^ 12 < d.get F.KRG_HWLEN_PAGES die 0 w then 0 else 5
    | .gpa g => if d.ownPkg die g && !d.inRange g then 5 else 0
    | .spad _ _ => 0

/-- TEN_FINFO of a translation fault (R250). -/
def KAcc.finfo (a : KAcc) (code side : Nat) (host : Bool) : Nat :=
  code + 2 ^ 4 * a.acc + (if a.nar then 2 ^ 6 else 0) + (if host then 2 ^ 7 else 0) + 2 ^ 8 * side

/-- A translation fault is counted (R259). -/
def Dev.krgFault (d : Dev) (die : Nat) : Dev := d.countSat F.KRG_FCNT_COUNT 1 die

/-- The USED bit of an entry set (R246). -/
def Dev.krgUse (d : Dev) (die set way : Nat) (e : KEnt) : Dev :=
  { d with krg := d.krg.put (die, set, way) { e with w0 := orBit e.w0 9 } }

/-- The outcome of a translation: code (0 for none), whether the entry names a host window, the target. -/
structure Xlat where
  code : Nat
  host : Bool
  tgt : Tgt
deriving DecidableEq, Repr

/-- A lookup with its effects (R248, R250): USED on a pass, the fault counted on a failure. The entry is given back for
the latch. -/
def Dev.lookup (d : Dev) (die : Nat) (a : KAcc) : Xlat × Option KEnt × Dev :=
  match d.krgFind die a.ident a.dva with
  | none => (⟨1, false, .gpa 0⟩, none, d.krgFault die)
  | some (s, w, e) =>
    let c := d.krgCode die a e
    if c = 0 then (⟨0, e.host, a.target die e⟩, some e, d.krgUse die s w e) else (⟨c, e.host, .gpa 0⟩, none, d.krgFault die)

/-! Commands (R247, R256) -/

/-- INSERT refuses the staged entry with BAD_ENTRY (R247, R298). -/
def Dev.badEntry (d : Dev) (die w0 w1 : Nat) : Bool :=
  let e : KEnt := ⟨w0, w1⟩
  let s := pageBits e.size
  let g := bitsOf w1 59 12 * 2 ^ 12
  let sp := gpaSpace g
  let own := d.ownPkg die g
  !e.valid || bitsOf w0 11 10 != 0 || bitsOf w0 63 57 != 0 || bitsOf w1 11 5 != 0 || 52 ≤ e.ident ||
  e.va % 2 ^ s != 0 ||
  (if e.host then
     bitsOf w1 63 54 != 0 || (bitsOf w1 43 12 * 2 ^ 12) % 2 ^ s != 0 || hasBit w1 2 || hasBit w1 3
   else
     bitsOf w1 63 60 != 0 || g % 2 ^ s != 0 || 4 ≤ sp ||
     (own && (d.ndies ≤ gpaDie g || d.spaceSize (gpaDie g) sp < gpaOff g + 2 ^ s)) ||
     (hasBit w1 2 && 1 < sp) || (hasBit w1 3 && sp != 0)) ||
  (48 ≤ e.ident && (hasBit w1 2 || e.host || !own || 3 ≤ sp))

/-- The staged words (KRG_EW0, KRG_EW1). -/
def Dev.staged (d : Dev) (die : Nat) : KEnt :=
  ⟨d.get64 F.KRG_EW0_LO_WORD F.KRG_EW0_HI_WORD die, d.get64 F.KRG_EW1_LO_WORD F.KRG_EW1_HI_WORD die⟩

/-- The set of an entry. -/
def KEnt.set (e : KEnt) : Nat := krgSet e.ident e.size (e.va / 2 ^ pageBits e.size)

/-- The way of the held entry with the identity, size and VA of another. -/
def Dev.krgMatch (d : Dev) (die : Nat) (e : KEnt) : Option Nat := d.krgWay die e.ident e.size e.va

/-- A key-ring command of a die executed on an entry: result, way affected, package. -/
def Dev.krgExec (d : Dev) (die cmd : Nat) (e : KEnt) : Nat × Option Nat × Dev :=
  let m := d.krgMatch die e
  match cmd with
  | 1 =>
    if d.badEntry die e.w0 e.w1 then (4, none, d)
    else if m.isSome then (2, none, d)
    else if d.get F.KRG_QUOTA_MAX die 0 e.ident ≤ d.get F.KRG_QUSE_COUNT die 0 e.ident then (3, none, d)
    else
      match (List.range 8).filter fun w => !((d.krg.at? (die, e.set, w)).any KEnt.valid) with
      | [] => (1, none, d)
      | ws =>
        let (k, d0) := d.draw
        let w := ws.getD (Config.freeNat k 0 % ws.length) 0
        let d1 := { d0 with krg := d0.krg.put (die, e.set, w) { e with w0 := clrBit e.w0 9 } }
        (0, some w, d1.count F.KRG_QUSE_COUNT 1 die 0 e.ident)
  | 2 =>
    if d.badEntry die e.w0 e.w1 then (4, none, d)
    else
      match m with
      | none => (5, none, d)
      | some w =>
        let h := d.krg.atD (die, e.set, w) ⟨0, 0⟩
        if h.w1 / 8 != e.w1 / 8 then (4, none, d)
        else if (h.w1 % 8) &&& (e.w1 % 8) != h.w1 % 8 then (7, none, d)
        else (0, some w, { d with krg := d.krg.put (die, e.set, w) { h with w1 := e.w1 } })
  | 3 =>
    match m with
    | none => (5, none, d)
    | some w =>
      let h := d.krg.atD (die, e.set, w) ⟨0, 0⟩
      (0, some w, (d.put64 F.KRG_EW0_LO_WORD F.KRG_EW0_HI_WORD h.w0 die).put64 F.KRG_EW1_LO_WORD F.KRG_EW1_HI_WORD h.w1 die)
  | _ =>
    match m with
    | none => (5, none, d)
    | some w =>
      let h := d.krg.atD (die, e.set, w) ⟨0, 0⟩
      if h.used then (6, none, d)
      else
        let d1 := { d with krg := d.krg.del (die, e.set, w) }
        (0, some w, d1.put F.KRG_QUSE_COUNT (d1.get F.KRG_QUSE_COUNT die 0 e.ident - 1) die 0 e.ident)

/-- A command written to KRG_ECMD: no effect while BUSY; its result stays hidden until it completes (R256). -/
def Dev.krgCmd (d : Dev) (die cmd : Nat) : Dev :=
  if d.on? F.KRG_ESTAT_BUSY die then d
  else
    let (r, w, d1) := d.krgExec die cmd (d.staged die)
    let d2 := { d1 with krgP := d1.krgP.put die (r, w.getD (d1.get F.KRG_ESTAT_WAY die)) }
    d2.put F.KRG_ESTAT_BUSY 1 die

/-- A write to KRG_ECMD: codes 0 and 5–7 are reserved (R265, R14). -/
def Dev.krgCmdWrite (d : Dev) (die v : Nat) : Dev := if 1 ≤ v % 8 ∧ v % 8 ≤ 4 then d.krgCmd die (v % 8) else d

/-- A key-ring command completes: RESULT and WAY are shown, BUSY clears (R256). -/
def Dev.krgDone (d : Dev) (die : Nat) : Dev :=
  match d.krgP.at? die with
  | none => d
  | some (r, w) =>
    (({ d with krgP := d.krgP.del die }.put F.KRG_ESTAT_RESULT r die).put F.KRG_ESTAT_WAY w die).put F.KRG_ESTAT_BUSY 0 die

/-! Host windows (R252) -/

/-- A write to a register of the selected host-window descriptor: with EN = 1, only a write that clears EN acts. -/
def Dev.hwWrite (d : Dev) (die : Nat) (r : Reg) (v : Nat) : Dev :=
  let w := d.selOf r die 0
  if d.on? F.KRG_HWCTL_EN die 0 w && !(r == .KRG_HWCTL && !hasBit v 31) then d else d.writeGen ⟨r, die, 0, w⟩ v

/-- The base of a host window. -/
def Dev.hwBase (d : Dev) (die w : Nat) : Nat := d.get64 F.KRG_HWBASE_LO_HVA F.KRG_HWBASE_HI_HVA die 0 w

end Sys2Proof.Machine
end

