-- ==== Sys2Proof/Machine/Hbm.lean ====
section
/-!
DEFINITION. HBM (R192–R210) and its protection and repair (R211–R218, R223–R237): where an offset lies, decoded reads
and writes under the line and narrow codes, failing rows, blanks, pending and retired lists, and a stack's controller.
-/
namespace Sys2Proof.Machine

/-! The address hash (R194) -/

/-- The cell of a space-0 offset. -/
structure HLoc where
  stack : Nat
  chan : Nat
  col : Nat
  bank : Nat
  row : Nat
  sid : Nat
deriving DecidableEq, Repr

/-- R194. -/
def hbmLoc (a : Nat) : HLoc :=
  let ch := bitsOf a 14 8 ^^^ bitsOf a 21 15 ^^^ bitsOf a 28 22 ^^^ bitsOf a 35 29
  ⟨bitsOf ch 6 5, bitsOf ch 4 0, bitsOf a 17 15 * 4 + bitsOf a 7 6, bitsOf a 21 18 ^^^ bitsOf a 25 22, bitsOf a 35 22, bitsOf a 37 36⟩

/-- The offset of a line, from its cell: the inverse of R194 (R236). -/
def hbmOff (l : HLoc) : Nat :=
  let ch := l.stack * 32 + l.chan
  let a21 := (l.bank ^^^ (l.row % 16)) * 8 + l.col / 4
  let a28 := l.row % 128
  let a35 := l.row / 128
  l.sid * 2 ^ 36 + l.row * 2 ^ 22 + a21 * 2 ^ 15 + (ch ^^^ a21 ^^^ a28 ^^^ a35) * 2 ^ 8 + l.col % 4 * 2 ^ 6

/-- Channel of the die, 0–127. -/
def HLoc.chan7 (l : HLoc) : Nat := l.stack * 32 + l.chan

/-- Bank of the pseudo-channel: SID × 16 + bank. -/
def HLoc.bank6 (l : HLoc) : Nat := l.sid * 16 + l.bank

/-- Group of the die: 4s + q[4:3] (R192). -/
def HLoc.group (l : HLoc) : Nat := 4 * l.stack + l.chan / 8

/-- Pseudo-channel of a narrow unit at an offset: the odd one when bit 5 is set (R194). -/
def pcOf (a : Nat) : Nat := 2 * (hbmLoc a).chan + bitOf a 5

/-- A stack's key. -/
def hbmKey (die stack : Nat) : Nat := die * 4 + stack

/-- A stack's controller. -/
def Dev.hbmAt (d : Dev) (die stack : Nat) : HbmSt := d.hbm.atD (hbmKey die stack) ⟨1, none, [], none, 0, 0⟩

/-- A stack's controller replaced. -/
def Dev.setHbm (d : Dev) (die stack : Nat) (h : HbmSt) : Dev := { d with hbm := d.hbm.put (hbmKey die stack) h }

/-- Address in `Dev.mem` of an HBM offset. -/
def hbAddr (die off : Nat) : Nat := gpaBase die 0 + off

/-- The region of an offset is narrow-coded (R217). -/
def Dev.narrowAt (d : Dev) (die off : Nat) : Bool := d.narrow.contains (die, off / 2 ^ 21)

/-- Every stack of the die is READY (R204). -/
def Dev.hbmReady (d : Dev) (die : Nat) : Bool := (List.range 4).all fun s => d.get F.HBM_STAT_STATE die s == 2

/-- The first stack of a die that is not READY. -/
def Dev.downStack (d : Dev) (die : Nat) : Nat := ((List.range 4).find? fun s => d.get F.HBM_STAT_STATE die s != 2).getD 0

/-! Erasures (R203, R213) -/

/-- Lanes of a pseudo-channel carried as erasures. -/
def Dev.erased (d : Dev) (die stack pc : Nat) : List Nat :=
  [d.get F.HBM_LREP_ERAS0 die stack pc, d.get F.HBM_LREP_ERAS1 die stack pc].filter (· < 36)

/-- Symbol of a wide-coded line on a lane (R213). -/
def lineSym (odd lane : Nat) : Nat := if lane < 32 then 32 * odd + lane else 64 + 4 * odd + (lane - 32)

/-- Pseudo-channel (0 even, 1 odd) of a symbol of a line (R213). -/
def symOdd (s : Nat) : Nat := if s < 64 then s / 32 else (s - 64) / 4

/-- Erased symbols of a line. -/
def Dev.lineErased (d : Dev) (die : Nat) (l : HLoc) : List Nat :=
  (d.erased die l.stack (2 * l.chan)).map (lineSym 0) ++ (d.erased die l.stack (2 * l.chan + 1)).map (lineSym 1)

/-! Decoded reads -/

/-- A protected unit of HBM: its offset, its size (64 wide, 32 narrow), its decoder's verdict on the mask held. -/
def Dev.hbVerdict (d : Dev) (die off w mask : Nat) : Verdict :=
  let l := hbmLoc off
  if w = 64 then rsVerdict lineCode linePoison mask (d.lineErased die l)
  else rsVerdict narrowCode narrowPoison mask (d.erased die l.stack (pcOf off))

/-- Size of the protected unit at an offset (R217). -/
def Dev.hbUnit (d : Dev) (die off : Nat) : Nat := if d.narrowAt die off then 32 else 64

/-- Data of a unit read under draw `k`. -/
def Dev.hbRead (d : Dev) (k die off w : Nat) : Rd := d.readUnit k (hbAddr die off) w 0 (d.hbVerdict die off w)

/-- The poison mask of a unit (R215). -/
def poisonOf (w : Nat) : Nat := if w = 64 then linePoison else narrowPoison

/-- A unit is written poisoned: zero data under the poison checks (R215). -/
def Dev.hbPoison (d : Dev) (die off w : Nat) : Dev :=
  (d.writeUnit (hbAddr die off) (zeros w)).markUnit (hbAddr die off) (poisonOf w)

/-! Blanks (R231–R236) -/

/-- What HBM_BLSEL holds when it selects an entry. -/
def blSel (pc bank x : Nat) : Nat := pc + 2 ^ 6 * bank + 2 ^ 12 * x

/-- The IN_USE blank that serves a logical row of a bank. -/
def Dev.blankOf (d : Dev) (die stack pc bank row : Nat) : Option Nat :=
  (List.range 32).find? fun x =>
    d.get F.HBM_BLENT_STATE die stack (blSel pc bank x) == 1 && d.get F.HBM_BLENT_ROW die stack (blSel pc bank x) == row

/-- The FREE entries of a bank. -/
def Dev.freeBlanks (d : Dev) (die stack pc bank : Nat) : List Nat :=
  (List.range 32).filter fun x => d.get F.HBM_BLENT_STATE die stack (blSel pc bank x) == 0

/-- The physical row that serves a logical row. -/
def Dev.physRow (d : Dev) (die stack pc bank row : Nat) : Nat :=
  match d.blankOf die stack pc bank row with
  | some x => 16352 + x
  | none => row

/-- The logical row that a physical row serves. -/
def Dev.logRow (d : Dev) (die stack : Nat) (r : RowId) : Nat :=
  if r.row < 16352 then r.row else d.get F.HBM_BLENT_ROW die stack (blSel r.pc r.bank (r.row - 16352))

/-- The entry of R236 for a physical row, as 64 bits. -/
def Dev.rowEntry (d : Dev) (die stack : Nat) (r : RowId) : Nat :=
  let l := d.logRow die stack r
  let off := hbmOff ⟨stack, r.pc / 2, 0, r.bank % 16, l, r.bank / 16⟩
  r.pc + 2 ^ 6 * r.bank + 2 ^ 12 * r.row + (if r.row < 16352 then 0 else 2 ^ 26) + 2 ^ 32 * (off / 2 ^ 18)

/-- A MEMORY record of a stack (R447). -/
def Dev.memRec (d : Dev) (die stack code addr : Nat) : Dev :=
  d.post die ⟨4, code, 0, noPart, 2 ^ 4 * stack, d.raw ⟨.HBM_ELAST, die, stack, 0⟩, addr⟩

/-- Entries of the pending list. -/
def Dev.pendList (d : Dev) (die stack : Nat) : List Nat :=
  (List.range (d.get F.HBM_BLSTAT_NPEND die stack)).map fun j => d.get64 F.HBM_PEN_LO_ENTRY F.HBM_PEN_HI_ENTRY die stack j

/-- Entries of the retired list. -/
def Dev.retList (d : Dev) (die stack : Nat) : List Nat :=
  (List.range (d.get F.HBM_RETCNT_COUNT die stack)).map fun j => d.get64 F.HBM_RET_LO_ENTRY F.HBM_RET_HI_ENTRY die stack j

/-- The row is pending or retired already (R226). -/
def Dev.rowListed (d : Dev) (die stack : Nat) (r : RowId) : Bool :=
  let e := d.rowEntry die stack r
  (d.pendList die stack).any (fun x => x % 2 ^ 27 == e % 2 ^ 27) || (d.retList die stack).any fun x => x % 2 ^ 27 == e % 2 ^ 27

/-- A row is retired (R236). -/
def Dev.retireRow (d : Dev) (die stack : Nat) (r : RowId) : Dev :=
  let e := d.rowEntry die stack r
  let n := d.get F.HBM_RETCNT_COUNT die stack
  if 1024 ≤ n then (d.put F.HBM_RETCNT_RETOVF 1 die stack).memRec die stack 6 e
  else
    ((d.put64 F.HBM_RET_LO_ENTRY F.HBM_RET_HI_ENTRY e die stack n).put F.HBM_RETCNT_COUNT (n + 1) die stack).memRec die stack 5 e

/-- A row is escalated (R234). -/
def Dev.escalate (d : Dev) (die stack : Nat) (r : RowId) : Dev :=
  let h := d.hbmAt die stack
  let e := d.rowEntry die stack r
  let n := d.get F.HBM_BLSTAT_NPEND die stack
  let d0 := d.setHbm die stack { h with escal := h.escal + 1 }
  if h.repairs = 0 ∨ 64 ≤ n then d0.retireRow die stack r
  else
    ((d0.put64 F.HBM_PEN_LO_ENTRY F.HBM_PEN_HI_ENTRY e die stack n).put F.HBM_BLSTAT_NPEND (n + 1) die stack).memRec die stack 4 e

/-- FREEMIN after a change of a bank's entries. -/
def Dev.freeMin (d : Dev) (die stack pc bank : Nat) : Dev :=
  let n := (d.freeBlanks die stack pc bank).length
  d.put F.HBM_BLMIN_FREEMIN (min n (d.get F.HBM_BLMIN_FREEMIN die stack)) die stack

/-- A physical row is declared failing (R226, R232–R234): queued for a cut, escalated, or, with the queue full, not
recorded. A failing blank's entry becomes BAD. -/
def Dev.rowFails (d : Dev) (die stack : Nat) (r : RowId) : Dev :=
  let h := d.hbmAt die stack
  if d.rowListed die stack r || h.fails.contains r || h.cut.any (fun c => c.src == r) then d
  else if 16 ≤ h.fails.length then d
  else
    let blank := 16352 ≤ r.row
    let sel := blSel r.pc r.bank (r.row - 16352)
    let gen := d.get F.HBM_BLENT_GEN die stack sel
    let e := d.rowEntry die stack r
    let d1 := if blank then (d.put F.HBM_BLENT_STATE 2 die stack sel).memRec die stack 3 e else d
    if (d1.freeBlanks die stack r.pc r.bank).isEmpty || (blank && gen == 3) then d1.escalate die stack r
    else d1.setHbm die stack { h with fails := h.fails ++ [r] }

/-- A request for a row waits while the row is locked for a cut (R232). -/
def Dev.rowLocked (d : Dev) (die off : Nat) : Bool :=
  let l := hbmLoc off
  match (d.hbmAt die l.stack).cut with
  | some c => c.orig.pc / 2 == l.chan && c.orig.bank == l.bank6 && c.orig.row == l.row
  | none => false

/-! Effects of a decode (R226, R227) -/

/-- Pseudo-channels (0 even, 1 odd) whose symbols a mask of a unit touches. -/
def maskSides (off w mask : Nat) : List Nat :=
  if w = 64 then
    ([0, 1].filter fun o => (List.range 72).any fun s => symOdd s == o && bitsOf mask (8 * s + 7) (8 * s) != 0)
  else [bitOf off 5]

/-- The rows of the named pseudo-channels of a unit's pair are declared failing. -/
def Dev.sidesFail (d : Dev) (die off : Nat) (sides : List Nat) : Dev :=
  let l := hbmLoc off
  sides.foldl (fun d' o =>
    let pc := 2 * l.chan + o
    d'.rowFails die l.stack ⟨pc, l.bank6, d'.physRow die l.stack pc l.bank6 l.row⟩) d

/-- HBM_ELAST after an error of a unit. -/
def Dev.hbLast (d : Dev) (die off pc ue : Nat) : Dev :=
  let l := hbmLoc off
  d.setRaw ⟨.HBM_ELAST, die, l.stack, 0⟩ (pc + 2 ^ 6 * l.bank6 + 2 ^ 12 * l.row + 2 ^ 26 * l.col + 2 ^ 31 * ue)

/-- Symbols of a mask that are in error outside the erased ones. -/
def errSyms (n mask : Nat) (erased : List Nat) : List Nat :=
  (List.range n).filter fun s => bitsOf mask (8 * s + 7) (8 * s) != 0 && !erased.contains s

/-- What the controller does about a unit it has read (R226): a corrected one is written back and read once more, `again`
being the mask with which it comes back; an uncorrectable one is written poisoned. `never` written data has no verdict. -/
def Dev.hbAfter (d : Dev) (die off w again : Nat) : Dev :=
  let a := hbAddr die off
  let l := hbmLoc off
  let mask := d.errs.atD a 0
  let er := if w = 64 then d.lineErased die l else d.erased die l.stack (pcOf off)
  let n := if w = 64 then 72 else 36
  let pcs := maskSides off w mask
  let pc0 := 2 * l.chan + pcs.headD (bitOf off 5)
  if touches d.unwritten a w then d
  else
    match d.hbVerdict die off w mask with
    | .clean _ => d
    | .corrected rest =>
      let d1 := (d.countSat F.HBM_ECE_COUNT 1 die l.stack).hbLast die off pc0 0
      let d2 := (d1.writeUnit a (xorNat (d.mem.bytes a w) rest)).markUnit a again
      let d3 := if again = 0 then { d2 with errs := d2.errs.del a } else d2
      let same := (errSyms n again er).filter fun s => (errSyms n (mask ^^^ rest) er).contains s
      d3.sidesFail die off (if w = 64 then [0, 1].filter fun o => same.any fun s => symOdd s == o
                            else if same.isEmpty then [] else [bitOf off 5])
    | .poisoned => d.countSat F.HBM_EPSN_COUNT 1 die l.stack
    | .bad =>
      let d1 := (d.countSat F.HBM_EUE_COUNT 1 die l.stack).hbLast die off pc0 1
      ((d1.hbPoison die off w).sidesFail die off pcs).memRec die l.stack 1 off

/-- The protected units that cover `n` bytes at an offset of HBM. -/
def Dev.hbUnits (d : Dev) (die off n : Nat) : List (Nat × Nat) :=
  let w := d.hbUnit die off
  (unitsOf w off n).map fun u => (u, w)

/-- `n` bytes of HBM read with the read's effects; `again` gives the masks that come back after a write-back, by unit
address. Data never written may come back uncorrectable: then only the count and the record follow. -/
def Dev.hbLoad (d : Dev) (die off n : Nat) (again : List (Nat × Nat)) : Rd × Dev :=
  let (k, d0) := d.draw
  let us := d0.hbUnits die off n
  let r := us.foldl (fun (r : Rd) u => r.append (d0.hbRead k die u.1 u.2)) ⟨[], none, 0⟩
  let d1 := us.foldl (fun d' u => d'.hbAfter die u.1 u.2 (((again.find? fun x => x.1 == hbAddr die u.1).map (·.2)).getD 0)) d0
  ({ r with data := slice r.data (off % (d0.hbUnit die off)) n }, d1)

/-- Bytes written within one unit at `u`, from byte `p`: whole, or by read-modify-write (R223, R224). The flag tells that
the old unit could not be corrected. -/
def Dev.hbWriteUnit (d : Dev) (die u w p : Nat) (bs : Bytes) : Dev × Bool :=
  if bs.length = w then (d.writeUnit (hbAddr die u) bs, false)
  else
    let (k, d0) := d.draw
    let r := d0.hbRead k die u w
    let d1 := d0.hbAfter die u w 0
    match r.ue with
    | none => (d1.writeUnit (hbAddr die u) (overlay r.data p bs), false)
    | some _ => (((d1.hbPoison die u w).countSat F.HBM_EUE_COUNT 1 die (hbmLoc u).stack), true)

/-- Bytes written into HBM. -/
def Dev.hbStore (d : Dev) (die off : Nat) (bs : Bytes) : Dev × Bool :=
  (splitUnits (d.hbUnit die off) off bs).foldl (fun (s : Dev × Bool) p =>
    let r := s.1.hbWriteUnit die p.1 (d.hbUnit die off) p.2.1 p.2.2
    (r.1, s.2 || r.2)) (d, false)

/-- A die's HBM left without contents (R225). -/
def Dev.hbInvalid (d : Dev) (die : Nat) : Dev :=
  let a := hbAddr die 0
  { d with unwritten := (a, 2 ^ 38) :: cutRange d.unwritten a (2 ^ 38),
           mem := d.mem.zero a (2 ^ 38),
           errs := d.errs.delIf fun u => a ≤ u && u < a + 2 ^ 38 }

/-- A range of HBM written with zeros and valid code (R218, R430). -/
def Dev.hbZero (d : Dev) (die off n : Nat) : Dev :=
  let a := hbAddr die off
  { d with unwritten := cutRange d.unwritten a n,
           mem := d.mem.zero a n,
           errs := d.errs.delIf fun u => a ≤ u && u < a + n }

/-! Cutting blanks (R232, R233) -/

/-- A controller starts the cut of the oldest failing row. -/
def Dev.blankCut (d : Dev) (die stack : Nat) : Dev :=
  let h := d.hbmAt die stack
  match h.fails with
  | [] => d
  | r :: rest =>
    if h.cut.isSome then d
    else
      match d.freeBlanks die stack r.pc r.bank with
      | [] => (d.setHbm die stack { h with fails := rest }).escalate die stack r
      | xs =>
        let (k, d0) := d.draw
        let x := xs.getD (Config.freeNat k 0 % xs.length) 0
        let gen := if r.row < 16352 then 0 else d.get F.HBM_BLENT_GEN die stack (blSel r.pc r.bank (r.row - 16352)) + 1
        d0.setHbm die stack { h with fails := rest, cut := some ⟨⟨r.pc, r.bank, d.logRow die stack r⟩, r, x, gen⟩ }

/-- One line of a cut: decoded, the failing pseudo-channel's half rewritten; uncorrectable, poisoned. -/
def Dev.cutUnit (d : Dev) (die u w odd : Nat) : Dev :=
  let a := hbAddr die u
  let mask := d.errs.atD a 0
  if touches d.unwritten a w || mask == 0 then d
  else
    match d.hbVerdict die u w mask with
    | .corrected rest =>
      let keep := if w = 64 then
          ofSymbols ((List.range 72).map fun s => if symOdd s == odd then 0 else bitsOf mask (8 * s + 7) (8 * s))
        else 0
      let d1 := d.writeUnit a (xorNat (d.mem.bytes a w) rest)
      if keep = 0 then d1 else d1.markUnit a keep
    | .bad => d.hbPoison die u w
    | _ => d

/-- The cut in progress ends. -/
def Dev.blankCutDone (d : Dev) (die stack : Nat) : Dev :=
  let h := d.hbmAt die stack
  match h.cut with
  | none => d
  | some c =>
    let odd := c.orig.pc % 2
    let d1 := (List.range 32).foldl (fun d' col =>
      let off := hbmOff ⟨stack, c.orig.pc / 2, col, c.orig.bank % 16, c.orig.row, c.orig.bank / 16⟩
      if d'.narrowAt die off then d'.cutUnit die (off + 32 * odd) 32 odd else d'.cutUnit die off 64 odd) d
    let sel := blSel c.orig.pc c.orig.bank c.entry
    let d2 := ((d1.put F.HBM_BLENT_STATE 1 die stack sel).put F.HBM_BLENT_ROW c.orig.row die stack sel).put
      F.HBM_BLENT_GEN c.gen die stack sel
    let d3 := (d2.countSat F.HBM_BLSTAT_NCUT 1 die stack).freeMin die stack c.orig.pc c.orig.bank
    let d4 := d3.setHbm die stack { d3.hbmAt die stack with cut := none }
    d4.memRec die stack 2 (d4.rowEntry die stack ⟨c.orig.pc, c.orig.bank, 16352 + c.entry⟩)

/-! Coding regions (R217, R218) -/

/-- A write to HBM_NCCTL of any instance: exactly one of TONARROW and TOWIDE, while no conversion runs. -/
def Dev.ncWrite (d : Dev) (die inst v : Nat) : Dev :=
  if (d.conv.at? die).isSome || hasBit v 0 == hasBit v 1 then d
  else { d with conv := d.conv.put die (d.get F.HBM_NCSEL_REGION die inst, hasBit v 0) }

/-- A conversion ends: the region is zero in the new code and the map bit changes. -/
def Dev.ncDone (d : Dev) (die : Nat) : Dev :=
  match d.conv.at? die with
  | none => d
  | some (r, nar) =>
    let d1 := d.hbZero die (r * 2 ^ 21) (2 ^ 21)
    let others := d1.narrow.filter fun x => x != (die, r)
    { d1 with conv := d1.conv.del die, narrow := if nar then others ++ [(die, r)] else others }

/-! A stack's state (R200–R203, R210) -/

/-- The band in force (R201). -/
def Dev.bandOf (d : Dev) (die stack : Nat) : Nat := max (d.hbmAt die stack).meas (d.get F.HBM_REFCTL_MINBAND die stack)

/-- GCAP of a band (R200). -/
def gcapOf (band : Nat) : Nat := [0, 2976, 2870, 2656].getD band 0

/-- Upper limit of a band, °C. -/
def bandLimit (band : Nat) : Nat := [0, 85, 95, 105].getD band 1000

/-- A refresh slot: the band in force takes effect (R201). -/
def Dev.hbRefresh (d : Dev) (die stack : Nat) : Dev :=
  let st := d.get F.HBM_STAT_STATE die stack
  if st = 2 ∨ st = 3 then d.put F.HBM_STAT_BAND (d.bandOf die stack) die stack else d

/-- The measured band after a temperature sample (R201): it rises at once, and falls one band after 1 ms (1,000 ticks)
at least 3 °C below the limit of the band beneath. -/
def measBand (h : HbmSt) (temp now : Nat) : Nat × Option Nat :=
  let up := if temp ≤ 85 then 1 else if temp ≤ 95 then 2 else if temp ≤ 105 then 3 else 4
  if h.meas < up then (up, none)
  else if h.meas = 1 ∨ bandLimit (h.meas - 1) < temp + 3 then (h.meas, none)
  else
    match h.below with
    | none => (h.meas, some now)
    | some t => if t + 1000 ≤ now then (h.meas - 1, none) else (h.meas, some t)

/-- A stack temperature sample (R201, R208). -/
def Dev.hbTemp (d : Dev) (die stack temp : Nat) : Dev :=
  let h := d.hbmAt die stack
  let (m, b) := measBand h temp (d.tick die)
  let d1 := (d.setHbm die stack { h with meas := m, below := b }).put F.HBM_TEMP_TEMP temp die stack
  let d2 := d1.put F.HBM_TEMP_TMAX (max temp (d1.get F.HBM_TEMP_TMAX die stack)) die stack
  let thermal := fun (d' : Dev) (code : Nat) => d'.post die ⟨7, code, 0, noPart, 1 + 2 ^ 4 * stack, temp, 0⟩
  let d3 := if m = 4 ∧ h.meas < 4 then thermal (d2.put F.HBM_STAT_HOT 1 die stack) 1 else d2
  if d3.get F.HBM_REFCTL_MINBAND die stack < m ∧ h.meas < m then thermal (d3.put F.HBM_STAT_BANDX 1 die stack) 2 else d3

/-- TMAXCLR (R210). -/
def Dev.hbTmaxClr (d : Dev) (die stack : Nat) : Dev := d.put F.HBM_TEMP_TMAX (d.get F.HBM_TEMP_TEMP die stack) die stack

/-- The rates of the enabled buckets of a group, one bucket's left out. -/
def Dev.rateSum (d : Dev) (die stack grp except : Nat) : Nat :=
  (List.range 50).foldl (fun s b =>
    if b != except && d.on? F.HBM_RRATE_EN die stack (grp * 64 + b) then s + d.get F.HBM_RRATE_RATE die stack (grp * 64 + b) else s) 0

/-- The HBM_RRATE of a group's bucket, `s` as its selector gives it, is written (R206, R208, R209). -/
def Dev.rrateSet (d : Dev) (die stack s v : Nat) : Dev :=
  let k : RKey := ⟨.HBM_RRATE, die, stack, s⟩
  let d1 := d.writeGen k v
  let sum := d.rateSum die stack (s / 64) (s % 64) + (if hasBit v 31 then v % 2 ^ 12 else 0)
  if d.get F.HBM_RGCAP_GCAP die stack < sum ∧ hasBit v 31 = true then d.put F.HBM_RGCAP_RATEERR 1 die stack
  else
    let depth := d1.get F.HBM_RRATE_DEPTH die stack s * 256
    let lvl := d.get F.HBM_RLEVEL_LEVEL die stack s
    d1.put F.HBM_RLEVEL_LEVEL (if hasBit v 31 && !d.on? F.HBM_RRATE_EN die stack s then depth else min lvl depth) die stack s

/-- A write to HBM_RRATE. -/
def Dev.rrateWrite (d : Dev) (die stack v : Nat) : Dev := d.rrateSet die stack (d.selOf .HBM_RRATE die stack) v

/-- A write to HBM_REFCTL: MINBAND is refused when a sum of rates exceeds the new band's GCAP (R208). -/
def Dev.refctlWrite (d : Dev) (die stack v : Nat) : Dev :=
  let d1 := d.put F.HBM_REFCTL_STRETCH (bitsOf v 15 8) die stack
  let m := v % 4
  if m = 0 then d1
  else if (List.range 4).any fun g => decide (gcapOf m < d.rateSum die stack g 64) then d1.put F.HBM_RGCAP_RATEERR 1 die stack
  else (d1.put F.HBM_REFCTL_MINBAND m die stack).put F.HBM_RGCAP_GCAP (gcapOf m) die stack

/-- A stack goes to a state. -/
def Dev.hbState (d : Dev) (die stack st : Nat) : Dev := d.put F.HBM_STAT_STATE st die stack

/-- Write queues of a stack drained (R197, R210). -/
def Dev.hbDrain (d : Dev) (die stack : Nat) : Dev :=
  { d with wrq := d.wrq.delIf fun k => k.1 == die && k.2 / 32 == stack }

/-- CMD 1: a cold training starts (R202). -/
def Dev.hbTrain (d : Dev) (die stack : Nat) : Dev := d.hbState die stack 1

/-- CMD 2: self-refresh; it waits for a cut in progress (R232, R210). -/
def Dev.hbSelfref (d : Dev) (die stack : Nat) : Dev :=
  if d.get F.HBM_STAT_STATE die stack = 2 ∧ (d.hbmAt die stack).cut = none then (d.hbDrain die stack).hbState die stack 3 else d

/-- CMD 3: self-refresh ends and the eyes are trained again (R202). -/
def Dev.hbWake (d : Dev) (die stack : Nat) : Dev := if d.get F.HBM_STAT_STATE die stack = 3 then d.hbState die stack 1 else d

/-- CMD 4: the stack is held down. -/
def Dev.hbHold (d : Dev) (die stack : Nat) : Dev := d.hbState die stack 4

/-- A write to HBM_CTL. -/
def Dev.hbCtlWrite (d : Dev) (die stack v : Nat) : Dev :=
  match v % 8 with
  | 1 => d.hbTrain die stack
  | 2 => d.hbSelfref die stack
  | 3 => d.hbWake die stack
  | 4 => d.hbHold die stack
  | _ => d

/-- Lane assignment of one pseudo-channel: up to two repairs, then erasures (R203). -/
def Dev.assignLanes (d : Dev) (die stack pc : Nat) (nrep : Nat) (ls : List Nat) : Dev :=
  let reps := ls.take (min nrep 2)
  let er := ls.drop (min nrep 2)
  let put := fun (d' : Dev) (f : Fld) (o : Option Nat) => d'.put f (o.getD 0xFF) die stack pc
  put (put (put (put d F.HBM_LREP_REP0 reps[0]?) F.HBM_LREP_REP1 reps[1]?) F.HBM_LREP_ERAS0 er[0]?) F.HBM_LREP_ERAS1 er[1]?

/-- A training ends (R202, R203): repairs and erasures assigned from the start, margins recorded, READY or DOWN. -/
def Dev.hbTrained (d : Dev) (die stack : Nat) (t : TrainRes) : Dev :=
  if d.get F.HBM_STAT_STATE die stack ≠ 1 then d
  else
    let of := fun pc => (t.lanes.filter fun l => l.1 == pc).map (·.2)
    let d1 := (List.range 64).foldl (fun d' pc =>
      let d2 := if (of pc).isEmpty && d'.raw ⟨.HBM_LREP, die, stack, pc⟩ == 0xFFFFFFFF then d' else d'.assignLanes die stack pc t.nrep (of pc)
      match t.margs.find? fun m => m.1 == pc with
      | some m => d2.setRaw ⟨.HBM_LMARG, die, stack, pc⟩
          (m.2.1 % 2 ^ 8 + 2 ^ 8 * (m.2.2.1 % 2 ^ 6) + 2 ^ 16 * (m.2.2.2.1 % 2 ^ 8) + 2 ^ 24 * (m.2.2.2.2 % 2 ^ 6))
      | none => d2) d
    let left := fun pc => (of pc).length - min t.nrep 2
    let ovr := (List.range 32).any fun q => decide (2 < left (2 * q) + left (2 * q + 1))
    let neras := (List.range 64).foldl (fun n pc => n + left pc) 0
    let d2 := d1.setRaw ⟨.HBM_ID, die, stack, 0⟩
      (t.height % 32 + 2 ^ 8 * (t.dens % 256) + 2 ^ 16 * (t.nsidm1 % 4) + 2 ^ 18 * (t.nrep % 64))
    let d3 := (d2.setHbm die stack { d2.hbmAt die stack with repairs := t.repairs }).put F.HBM_STAT_NERAS (neras % 256) die stack
    if t.dead || ovr then (d3.put F.HBM_STAT_TRAINERR 1 die stack).hbState die stack 4
    else (d3.put F.HBM_STAT_BAND (d3.bandOf die stack) die stack).hbState die stack 2

/-! Scheduling (R198) -/

/-- A row is opened by a burst. -/
def Dev.openRow (d : Dev) (die off : Nat) : Dev :=
  let l := hbmLoc off
  { d with rows := d.rows.put (die, 2 * l.chan7 + bitOf off 5, l.bank6) l.row }

/-- A burst's row is open. -/
def Dev.rowOpen (d : Dev) (die off : Nat) : Bool :=
  let l := hbmLoc off
  d.rows.at? (die, 2 * l.chan7 + bitOf off 5, l.bank6) == some l.row

/-- An open row idle for OPENTMO hub cycles is closed. -/
def Dev.rowClose (d : Dev) (die pc bank : Nat) : Dev := { d with rows := d.rows.del (die, pc, bank) }

/-- A channel's write queue drains WBATCH bursts (R198). -/
def Dev.wrDrain (d : Dev) (die chan : Nat) : Dev :=
  let q := d.wrq.atD (die, chan) []
  let n := d.get F.HBM_SCHED_WBATCH die (chan / 32)
  if q.length < n then d
  else
    let d1 := (q.take n).foldl (fun d' off => d'.openRow die off) { d with wrq := d.wrq.put (die, chan) (q.drop n) }
    d1.count64 F.HBM_NBURST_LO_COUNT F.HBM_NBURST_HI_COUNT n die (chan / 32)

end Sys2Proof.Machine
end

