-- ==== Sys2Proof/Machine/Home.lean ====
section
/-!
DEFINITION. Requests in the hub and at their homes (R106, R107, R117, R118, R165, R184, R194, R197, R204–R207, R222,
R253, R266–R278, R291): paths and fences, the checks at the home, reads, writes, reduces and narrow accesses.
-/
namespace Sys2Proof.Machine

/-! STAT codes (R278) -/

def statUE : Nat := 1
def statRange : Nat := 2
def statReset : Nat := 3
def statRefused : Nat := 4
def statStack : Nat := 5
def statPath : Nat := 6
def statProto : Nat := 7
def statOwner : Nat := 8
/-- A narrow request to a wide-coded region (R217, R250 step 6): the model's own code for it. -/
def statNarrow : Nat := 0x20
/-- An inbound line refused by a closed plan region (R81): the model's own code for it. -/
def statProtect : Nat := 0x21

/-! Ports and paths (R266, R272–R274) -/

/-- The hub port of an end on its own die (R266). -/
def Ep.hubPort : Ep → Nat
  | .core l => 4 * bitsOf l 10 9 + bitsOf l 8 7
  | .phys k => k / 256 % 12
  | .cell cn => cn % 12
  | .eng _ e => 28 + e / 8
  | .dsp _ => 39
  | .stw _ => 39
  | .bank _ => 39
  | .port _ => 38
  | .site _ => 38
  | .qp _ _ => 38
  | .link _ _ => 38

/-- The die of a target's home, for a target of this package; for one in another package, none. -/
def Dev.homeDie (d : Dev) (srcDie : Nat) : Tgt → Option Nat
  | .gpa g => if d.ownPkg srcDie g then some (gpaDie g) else none
  | .spad l _ => some (bitsOf l 12 11)
  | .host die _ _ => some die

/-- The hub port at the home of a target (R266); none for space 2, which the control network serves. -/
def Tgt.hubPort : Tgt → Option Nat
  | .spad l _ => some (4 * bitsOf l 10 9 + bitsOf l 8 7)
  | .host _ _ _ => some 38
  | .gpa g =>
    match gpaSpace g with
    | 0 => some (12 + 2 * (hbmLoc (gpaOff g)).stack + (hbmLoc (gpaOff g)).chan % 2)
    | 1 => some (20 + sbBank (gpaOff g) % 8)
    | 3 => some 38
    | _ => none

/-- A hub port is fenced (R272). -/
def Dev.fenced (d : Dev) (die p : Nat) : Bool :=
  if p < 32 then hasBit (d.get F.HUB_PFENCE_LO_FENCE die) p else hasBit (d.get F.HUB_PFENCE_HI_FENCE die) (p - 32)

/-- The knuckle ports crossed along a path. -/
def pathPorts : Nat → List Nat → List (Nat × Nat)
  | _, [] => []
  | a, b :: bs => (a, 36 + knuckleInst a b) :: (b, 36 + knuckleInst b a) :: pathPorts b bs

/-- The first fenced port that an item meets between two dies, its end ports included. -/
def Dev.fenceOn (d : Dev) (a b : Nat) (pa pb : Option Nat) (path : List Nat) : Option (Nat × Nat) :=
  ((pa.toList.map fun p => (a, p)) ++ pathPorts a path ++ (pb.toList.map fun p => (b, p))).find? fun x => d.fenced x.1 x.2

/-- An item is discarded at a fenced port. -/
def Dev.pdrop (d : Dev) (die : Nat) : Dev := d.countSat F.HUB_PDROP_COUNT 1 die

/-- A packet leaves the hub. -/
def Dev.netDrop (d : Dev) (n : Nat) : Dev := { d with net := d.net.eraseIdx n }

/-- A packet enters the hub. -/
def Dev.netPut (d : Dev) (p : Pkt) : Dev := { d with net := d.net ++ [p] }

/-- The die and hub port of a request's home in this package. -/
def Dev.homeEnd (d : Dev) (t : Txn) : Option (Nat × Nat) :=
  match d.homeDie t.src.die t.tgt, t.tgt.hubPort with
  | some die, some p => some (die, p)
  | _, _ => none

/-- A request is answered by its home. -/
def Dev.respond (d : Dev) (t : Txn) (stat : Nat) (data : Bytes) : Dev :=
  d.netPut (.rsp ⟨t.src, t.slot, stat, data, t.unf, d.homeEnd t⟩)

/-- A request is answered with PATH at the hub of a die, and counted. -/
def Dev.pathFail (d : Dev) (die : Nat) (t : Txn) : Dev :=
  (d.countSat F.HUB_NPATH_COUNT 1 die).netPut (.rsp ⟨t.src, t.slot, statPath, [], t.unf, none⟩)

/-- Two targets are one destination of R106: a scratchpad, a space of a die, a host window. -/
def sameDest : Tgt → Tgt → Bool
  | .gpa a, .gpa b => gpaDie a == gpaDie b && gpaSpace a == gpaSpace b && gpaPkg a == gpaPkg b
  | .spad a _, .spad b _ => a == b
  | .host x w _, .host y v _ => x == y && w == v
  | _, _ => false

/-- Two requests take the same way: one source to one destination (R106, R268). -/
def sameWay (t u : Txn) : Bool := t.src == u.src && sameDest t.tgt u.tgt

/-- The request is the first of its way in the hub. -/
def Dev.firstOfWay (d : Dev) (n : Nat) (t : Txn) : Bool :=
  !((d.net.take n).any fun p => match p with | .req u => sameWay t u | .rsp _ => false)

/-! Lane-wise combination (R100) -/

/-- One lane of a REDUCE: old value, new value. -/
def redLane (red a b : Nat) : Nat :=
  match red with
  | 0 => (fadd a b).1
  | 1 => if b = 0x80000000 then 0x80000000 else (satAdd32 a (sext 32 b)).1
  | _ => fmax a b

/-- A line combined with another (R100). -/
def redLine (red : Nat) (old new : Bytes) : Bytes :=
  (List.range 16).flatMap fun j => leBytes 4 (redLane red (field old (4 * j) 4) (field new (4 * j) 4))

/-! Checks at the home -/

/-- An access from another package is admitted (R253). -/
def Dev.admitted (d : Dev) (die space off n : Nat) : Bool :=
  match space with
  | 0 => hasBit (d.get F.KRG_IN_MASK die (bitsOf off 37 30 / 32)) (bitsOf off 37 30 % 32)
  | 1 => d.on? F.SBF_OWNER_REMOTE die 0 (off / 2 ^ 20)
  | 2 => (List.range ((n + 3) / 4)).all fun j => d.remoteTumbler die (off / 4 + j)
  | _ => false

/-- The owner check of a shared-buffer access (R117, R298), by bucket. -/
def Dev.ownerOk (d : Dev) (die off bkt sdie : Nat) : Bool :=
  let o := d.on? F.SBF_OWNER_OWNED die 0 (off / 2 ^ 20)
  let p := d.get F.SBF_OWNER_PART die 0 (off / 2 ^ 20)
  if bkt = 48 then o && p == 48 + sdie else o && p == bkt

/-- The request comes from outside the package: through a package link or an Ethernet queue pair. -/
def Txn.outside (t : Txn) : Bool := match t.src with | .port _ => true | .qp _ _ => true | _ => false

/-- The request comes through a package link: the home admits it (R253). A region has admitted a queue pair's (R359). -/
def Txn.linked (t : Txn) : Bool := match t.src with | .port _ => true | _ => false

/-- The request is an engine's or a dispatch unit's: an owner check it fails is marked in SBF_STAT. -/
def Txn.owned (t : Txn) : Bool := match t.src with | .eng _ _ => true | .dsp _ => true | _ => false

/-- Bytes that a request moves. -/
def Txn.len (t : Txn) : Nat := match t.op with | .nread => t.gran | .nwrite => t.gran | _ => 64

/-- The check that a request meets at a GPA's home: its STAT, or 0. -/
def Dev.homeCheck (d : Dev) (t : Txn) (g : Nat) : Nat :=
  let die := gpaDie g
  let off := gpaOff g
  let sp := gpaSpace g
  if t.linked && !d.admitted die sp off t.len then statRefused
  else if !d.inRange g then statRange
  else
    match sp with
    | 0 =>
      if !d.hbmReady die then statStack
      else if (t.op == .nread || t.op == .nwrite) && !d.narrowAt die off then statNarrow
      else 0
    | 1 => if t.outside || d.ownerOk die off t.bkt t.src.die then 0 else statOwner
    | 2 =>
      if t.op != .read then statProto
      else
        match t.src with
        | .site s =>
          let r : TRange := ⟨d.get F.AUX_TRANGE_BASE s, d.get F.AUX_TRANGE_NUM s, false⟩
          if (List.range 16).all fun j => r.has (off / 4 + j) then 0 else statRefused
        | _ => 0
    | _ => statProto

/-! Performing (R184) -/

/-- The outcome of a request at its home. -/
structure Perf where
  stat : Nat
  data : Bytes
deriving DecidableEq, Repr

/-- A read's outcome. -/
def Rd.perf (r : Rd) : Perf := match r.ue with | none => ⟨0, r.data⟩ | some _ => ⟨statUE, []⟩

/-- A request performed at a shared-buffer bank (R116, R118, R222). -/
def Dev.sbPerform (d : Dev) (die off : Nat) (t : Txn) : Perf × Dev :=
  match t.op with
  | .read => let (r, d1) := d.sbLoad die off 64; (r.perf, d1)
  | .nread => let (r, d1) := d.sbLoad die off t.gran; (r.perf, d1)
  | .write =>
    (⟨0, []⟩, if t.data.length = 64 then (d.sbWrite32 die off (t.data.take 32)).sbWrite32 die (off + 32) (slice t.data 32 32)
      else d.sbStore die off t.data)
  | .nwrite => (⟨0, []⟩, if t.gran = 16 then d.sbWrite16 die off t.data else d.sbWrite32 die off t.data)
  | .reduce =>
    let d0 := (d.sbFlush die off).sbFlush die (off + 32)
    let (r, d1) := d0.sbLoad die off 64
    match r.ue with
    | some _ => (⟨statUE, []⟩, d1)
    | none =>
      let l := redLine t.red r.data t.data
      (⟨0, []⟩, (d1.sbWrite32 die off (l.take 32)).sbWrite32 die (off + 32) (slice l 32 32))

/-- A request performed at an HBM controller (R197, R223, R226). -/
def Dev.hbPerform (d : Dev) (die off : Nat) (t : Txn) (again : List (Nat × Nat)) : Perf × Dev :=
  match t.op with
  | .read => let (r, d1) := d.hbLoad die off 64 again; (r.perf, d1)
  | .nread => let (r, d1) := d.hbLoad die off t.gran again; (r.perf, d1)
  | .write => (⟨0, []⟩, (d.hbStore die off t.data).1)
  | .nwrite => (⟨0, []⟩, (d.hbStore die off t.data).1)
  | .reduce =>
    let (r, d1) := d.hbLoad die off 64 again
    match r.ue with
    | some _ => (⟨statUE, []⟩, d1)
    | none => (⟨0, []⟩, (d1.hbStore die off (redLine t.red r.data t.data)).1)

/-- A line read of space 2: sixteen tumblers (R165). -/
def Dev.tumblerLine (d : Dev) (die off : Nat) : Bytes :=
  (List.range 16).flatMap fun j => leBytes 4 (d.tumbler die (off / 4 + j))

/-- The plan region of a cell is closed: a core of it is in RUN, WAIT or TRAP (R81). -/
def Dev.planClosed (d : Dev) (cn : Nat) : Bool :=
  pcoresOf.any fun p =>
    let s := (d.coreAt (coreKey cn p)).st
    s == .run || s == .wait || s == .trap
where
  /-- The physical indices of a cell's cores. -/
  pcoresOf : List Nat := List.range 136

/-- A request performed at a scratchpad (R40–R42, R81, R113). -/
def Dev.spPerform (d : Dev) (l off : Nat) (t : Txn) : Perf × Dev :=
  let cn := lcoreCell l
  let key := d.physOf l
  if !d.cellRuns cn || d.testMode cn then (⟨statReset, []⟩, d)
  else if spEnd < off + 64 then (⟨statRange, []⟩, d)
  else
    match t.op with
    | .read => let (r, d1) := d.spLoad key off 64; (r.perf, d1)
    | .write =>
      if d.planClosed cn && !(d.planTrap cn off 64).isEmpty then (⟨statProtect, []⟩, d) else (⟨0, []⟩, d.spStore key off t.data)
    | _ => (⟨statProto, []⟩, d)

/-! HBM queues (R205–R207) -/

/-- Tokens that a request costs (R206). -/
def Txn.cost (t : Txn) : Nat := match t.op with | .reduce => 4 | .nread => 1 | .nwrite => 1 | _ => 2

/-- The HBM offset of a request. -/
def Txn.hbOff (t : Txn) : Nat := match t.tgt with | .gpa g => gpaOff g | _ => 0

/-- A request enters its bucket's queue in its group (R205). -/
def Dev.bqPut (d : Dev) (die : Nat) (t : Txn) : Dev :=
  let k := (die, (hbmLoc t.hbOff).group, t.bkt)
  { d with bq := d.bq.put k (d.bq.atD k [] ++ [t]) }

/-- An older request of the same source waits for the same die's HBM: in a bucket, or a reduce not yet served (R106). -/
def Dev.olderWaits (d : Dev) (die : Nat) (t : Txn) : Bool :=
  (d.bq.any fun e => e.1.1 == die && e.2.any fun u => u.src == t.src && u.sq < t.sq) ||
  (d.rdq.any fun e => e.1.1 == die && e.2.any fun u => u.src == t.src && u.sq < t.sq && u.op == .reduce)

/-- An admitted access to the same line waits to be served (R197). -/
def Dev.lineWaits (d : Dev) (die : Nat) (t : Txn) : Bool :=
  (d.rdq.atD (die, (hbmLoc t.hbOff).chan7) []).any fun u => u.hbOff / 64 == t.hbOff / 64

/-- The levels of a group's buckets after `n` hub cycles: RATE added, DEPTH the ceiling; a held request counts a stalled
cycle (R207, R210). -/
def Dev.fillBuckets (d : Dev) (die grp n : Nat) : Dev :=
  (List.range 50).foldl (fun d' b =>
    let s := grp % 4 * 64 + b
    let st := grp / 4
    let d1 :=
      if d'.on? F.HBM_RRATE_EN die st s then
        d'.put F.HBM_RLEVEL_LEVEL (min (d'.get F.HBM_RLEVEL_LEVEL die st s + n * d'.get F.HBM_RRATE_RATE die st s)
          (d'.get F.HBM_RRATE_DEPTH die st s * 256)) die st s
      else d'
    if (d1.bq.atD (die, grp, b) []).isEmpty then d1 else d1.countSat F.HBM_RSTALL_COUNT n die st s) d

/-- A write's bursts enter the write queue of its channel (R197). -/
def Dev.wrqPut (d : Dev) (die : Nat) (t : Txn) : Dev :=
  let c := (hbmLoc t.hbOff).chan7
  let us := if t.len = 64 then [t.hbOff, t.hbOff + 32] else [t.hbOff / 32 * 32]
  { d with wrq := d.wrq.put (die, c) (d.wrq.atD (die, c) [] ++ us) }

/-- A group admits the head of a bucket `n` hub cycles after its last admission (R207). Tokens are debited, or idle
capacity is borrowed (BORROW, or EN = 0). A write is performed and acknowledged; a read or reduce is queued. -/
def Dev.hbAdmit (d : Dev) (die grp bkt n : Nat) : Dev :=
  let d0 := d.fillBuckets die grp n
  match d0.bq.atD (die, grp, bkt) [] with
  | [] => d0
  | t :: ts =>
    let s := grp % 4 * 64 + bkt
    let st := grp / 4
    let en := d0.on? F.HBM_RRATE_EN die st s
    let lvl := d0.get F.HBM_RLEVEL_LEVEL die st s
    let tokens := en && t.cost * 256 ≤ lvl
    if d0.olderWaits die t || d0.lineWaits die t || d0.rowLocked die t.hbOff || !(tokens || !en || d0.on? F.HBM_RRATE_BORROW die st s) then d0
    else
      let d1 := { d0 with bq := if ts.isEmpty then d0.bq.del (die, grp, bkt) else d0.bq.put (die, grp, bkt) ts }
      let d2 := if tokens then d1.put F.HBM_RLEVEL_LEVEL (lvl - t.cost * 256) die st s else d1
      let d3 := d2.count64 F.HBM_RBYTES_LO_COUNT F.HBM_RBYTES_HI_COUNT t.cost die st s
      if !d3.hbmReady die then (d3.memRec die (d3.downStack die) 8 t.hbOff).respond t statStack []
      else if t.op == .write || t.op == .nwrite then
        let (p, d4) := d3.hbPerform die t.hbOff t []
        (d4.wrqPut die t).respond t p.stat p.data
      else
        let c := (hbmLoc t.hbOff).chan7
        { d3 with rdq := d3.rdq.put (die, c) (d3.rdq.atD (die, c) [] ++ [t]) }

/-- Bursts of a request and the pseudo-channels they use. -/
def Dev.burst (d : Dev) (die : Nat) (t : Txn) : Dev :=
  let d1 := d.openRow die t.hbOff
  let d2 := if t.len = 64 then d1.openRow die (t.hbOff + 32) else d1
  d2.count64 F.HBM_NBURST_LO_COUNT F.HBM_NBURST_HI_COUNT (if t.len = 64 then 2 else 1) die (hbmLoc t.hbOff).stack

/-- A read or reduce may be served now: it is the oldest, or its row is open and it passes at most seven older requests
(R198); no older access to its line is a reduce, nor does it reduce a line that an older access reads (R197). -/
def Dev.servable (d : Dev) (die i : Nat) (q : List Txn) (t : Txn) : Bool :=
  let older := q.take i
  (i == 0 || (i ≤ 7 && d.rowOpen die t.hbOff)) && !d.rowLocked die t.hbOff &&
    !(older.any fun u => u.hbOff / 64 == t.hbOff / 64 && (u.op == .reduce || t.op == .reduce)) &&
    !(t.op == .reduce && (d.rdq.any fun e => e.1.1 == die && e.2.any fun u => u.src == t.src && u.sq < t.sq && u.op == .reduce))

/-- The scheduler of a channel serves the `i`-th queued read or reduce (R198, R226). -/
def Dev.hbServe (d : Dev) (die chan i : Nat) (again : List (Nat × Nat)) : Dev :=
  let q := d.rdq.atD (die, chan) []
  match q[i]? with
  | none => d
  | some t =>
    if !d.servable die i q t then d
    else
      let d1 := { d with rdq := if q.length = 1 then d.rdq.del (die, chan) else d.rdq.put (die, chan) (q.eraseIdx i) }
      if !d1.hbmReady die then (d1.memRec die (d1.downStack die) 8 t.hbOff).respond t statStack []
      else
        let (p, d2) := (d1.burst die t).hbPerform die t.hbOff t again
        d2.respond t p.stat p.data

/-! Arrival at a home in the package -/

/-- A request has reached the home of a GPA of this package: refused, queued, or performed and answered (R184). -/
def Dev.atHome (d : Dev) (t : Txn) (g : Nat) : Dev :=
  let die := gpaDie g
  let off := gpaOff g
  let c := d.homeCheck t g
  if c ≠ 0 then
    let d1 := if c = statOwner ∧ t.owned = true then d.put F.SBF_STAT_OWNERR 1 die else d
    let d2 := if c = statStack then d1.memRec die (d1.downStack die) 8 off else d1
    d2.respond t c []
  else
    match gpaSpace g with
    | 0 => d.bqPut die t
    | 1 => let (p, d1) := d.sbPerform die off t; d1.respond t p.stat p.data
    | _ => d.respond t 0 (d.tumblerLine die off)

end Sys2Proof.Machine
end

