-- ==== Sys2Proof/Machine/Entry.lean ====
section
/-!
DEFINITION. Move-list entries (R94–R100, R120, R121, R132–R134): their fields, the conditions an entry must meet before
it issues, and the transactions of each shape.
-/
namespace Sys2Proof.Machine

/-- A move-list entry (R94). -/
structure Ent where
  op : Nat
  flags : Nat
  mode : Nat
  unfx : Nat
  wtumb : Nat
  wthr : Nat
  atumb : Nat
  aval : Nat
  gstr : Nat
  src : Nat
  dst : Nat
  x : Nat
  y : Nat
  z : Nat
  srow : Nat
  drow : Nat
  spln : Nat
  dpln : Nat
  list : Nat
  desc : Nat
deriving DecidableEq, Repr

/-- The fields of 64 bytes (R94). -/
def parseEnt (b : Bytes) : Ent :=
  ⟨field b 0 1, field b 1 1, field b 2 1, field b 3 1, field b 4 4, field b 8 4, field b 12 4, field b 16 4, field b 20 4,
   field b 24 8, field b 32 8, field b 40 4, field b 44 2, field b 46 2, field b 48 4, field b 52 4, field b 56 4, field b 60 4,
   field b 48 8, field b 56 8⟩

def Ent.wen (e : Ent) : Bool := hasBit e.flags 0
def Ent.aen (e : Ent) : Bool := hasBit e.flags 1
def Ent.unf (e : Ent) : Bool := hasBit e.flags 2
def Ent.narrow (e : Ent) : Bool := hasBit e.flags 3
/-- The destination is the gathered side. -/
def Ent.gside (e : Ent) : Bool := hasBit e.flags 4
def Ent.g16 (e : Ent) : Bool := hasBit e.flags 5
def Ent.shape (e : Ent) : Nat := e.mode % 4
def Ent.red (e : Ent) : Nat := bitsOf e.mode 3 2
/-- Granule of a narrow unit (R120). -/
def Ent.gran (e : Ent) : Nat := if e.g16 then 16 else 32

/-! The unfold descriptor (R133) -/

def Ent.groups (e : Ent) : Nat := e.desc % 256 + 1
/-- The density cap C. -/
def Ent.cap (e : Ent) : Nat := if bitsOf e.desc 13 8 = 0 then 32 else bitsOf e.desc 13 8
def Ent.osp (e : Ent) : Bool := hasBit e.desc 14
def Ent.ufmt (e : Ent) : Nat := bitsOf e.desc 19 16
def Ent.boff (e : Ent) : Nat := bitsOf e.desc 47 32
def Ent.soff (e : Ent) : Nat := bitsOf e.desc 63 48

/-- A number rounded up to a multiple of 64. -/
def up64 (n : Nat) : Nat := (n + 63) / 64 * 64

/-- Extent of the element array (R134). -/
def Ent.extent (e : Ent) : Nat := up64 (e.groups * (if e.osp then e.cap else 32) * rowBytes e.ufmt)

/-- The layout conditions of R134. -/
def Ent.layoutOk (e : Ent) : Bool :=
  if e.osp then
    decide (e.extent ≤ e.boff * 64) && (e.ufmt == 7 || decide (e.boff * 64 + up64 (4 * e.groups) ≤ e.soff * 64))
  else e.ufmt == 7 || decide (e.extent ≤ e.soff * 64)

/-! Endpoints (R96) -/

/-- Scratchpad form. -/
def epSpad (v : Nat) : Bool := hasBit v 63

/-- Logical core of a scratchpad endpoint. -/
def epCore (v : Nat) : Nat := bitsOf v 30 18

/-- Reserved bits are 0, and LCORE does not name compute die 3 (R96, R99). -/
def epOk (v : Nat) : Bool :=
  if epSpad v then bitsOf v 62 31 == 0 && bitsOf (epCore v) 10 9 != 3 else bitsOf v 62 57 == 0

/-- An endpoint moved by a signed number of bytes: DVAs modulo 2^57, scratchpad offsets modulo 2^18. -/
def epAdd (v : Nat) (n : Int) : Nat :=
  if epSpad v then v / 2 ^ 18 * 2 ^ 18 + wrapTo 18 ((v % 2 ^ 18 : Nat) + n) else wrapTo 57 ((v : Int) + n)

/-- The moved scratchpad offset itself, not wrapped. -/
def epOff (v : Nat) (n : Int) : Int := (v % 2 ^ 18 : Nat) + n

/-! Conditions (R95, R99, R132–R134) -/

/-- All the numbers are 0. -/
def allZero (l : List Nat) : Bool := l.all (· == 0)

/-- The fields that NOP and END reserve are 0 (R95). -/
def Ent.plainOk (e : Ent) : Bool :=
  e.flags / 4 == 0 && allZero [e.mode, e.unfx, e.gstr, e.src, e.dst, e.x, e.y, e.z, e.srow, e.drow, e.spln, e.dpln]

/-- The conditions of a TADD entry (R95, R165). -/
def Ent.taddOk (e : Ent) : Bool :=
  e.flags / 2 == 0 && allZero [e.mode, e.unfx, e.atumb, e.gstr, e.src, e.x, e.y, e.z, e.srow, e.drow, e.spln, e.dpln] &&
    !epSpad e.dst && epOk e.dst && e.dst % 4 == 0

/-- The conditions of an entry with UNF = 1 on base die `die` (R132–R134). -/
def Ent.unfOk (e : Ent) (die : Nat) : Bool :=
  e.op == 1 && e.shape < 2 && !e.narrow && !e.g16 && e.red == 0 && !e.gside && e.unfx < 24 &&
  !epSpad e.src && epOk e.src && e.x != 0 && e.x % 64 == 0 && e.src % 64 == 0 && allZero [e.gstr, e.z] &&
  (e.shape == 1 || allZero [e.y, e.srow, e.drow]) && e.srow % 64 == 0 && e.drow % 64 == 0 && e.dst % 64 == 0 && epOk e.dst &&
  (!epSpad e.dst || bitsOf (epCore e.dst) 12 11 == die) &&
  !hasBit e.desc 15 && bitsOf e.desc 31 20 == 0 && decide (bitsOf e.desc 13 8 ≤ 32) && e.ufmt < 8 &&
  (e.osp || e.boff == 0) && (e.ufmt != 7 || e.soff == 0) && e.layoutOk

/-- The fields that a SHAPE does not use are 0 (R97, R98, R94). -/
def Ent.shapeOk (e : Ent) : Bool :=
  match e.shape with
  | 0 => allZero [e.y, e.z, e.srow, e.drow, e.spln, e.dpln, e.gstr]
  | 1 => allZero [e.z, e.spln, e.dpln, e.gstr]
  | 2 => e.gstr == 0
  | _ => allZero [e.z, e.spln, e.dpln]

/-- X, strides and endpoints are multiples of their granules (R99, R121). -/
def Ent.alignOk (e : Ent) : Bool :=
  let g := if e.narrow then e.gran else 64
  let gath := if e.gside then e.dst else e.src
  let lin := if e.gside then e.src else e.dst
  e.x != 0 && e.x % g == 0 && e.gstr % g == 0 && gath % g == 0 && lin % 64 == 0 &&
  (if e.shape = 3 then e.list % 64 == 0 else e.srow % 64 == 0 && e.drow % 64 == 0 && e.spln % 64 == 0 && e.dpln % 64 == 0)

/-- The conditions of a COPY or REDUCE without UNF (R99). -/
def Ent.moveOk (e : Ent) (b0 : Bool) : Bool :=
  let gath := if e.gside then e.dst else e.src
  e.unfx == 0 && (e.shape == 3 || (!e.narrow && !e.g16 && !e.gside)) && (!e.g16 || (e.narrow && b0)) &&
  (!e.narrow || !epSpad gath) &&
  (if e.op = 2 then !e.narrow && !epSpad e.dst && e.red != 3 else e.red == 0) &&
  epOk e.src && epOk e.dst && (e.shape != 3 || epOk e.list) && e.shapeOk && e.alignOk

/-- An entry may be executed: no reserved encoding, every condition met that the entry alone decides. -/
def Ent.ok (e : Ent) (b0 : Bool) (die : Nat) : Bool :=
  e.flags / 64 == 0 && e.mode / 16 == 0 && e.unfx / 32 == 0 && e.wtumb / 2 ^ 18 == 0 && e.atumb / 2 ^ 18 == 0 &&
  e.aval / 2 ^ 22 == 0 &&
  (match e.op with
   | 0x00 => e.plainOk
   | 0x0F => e.plainOk
   | 0x03 => e.taddOk
   | 0x01 => if e.unf then e.unfOk die else e.moveOk b0
   | 0x02 => if e.unf then false else e.moveOk b0
   | _ => false)

/-! Transactions (R97, R98) -/

/-- Index-list lines of a gather. -/
def Ent.nList (e : Ent) : Nat := if e.shape = 3 then (4 * (e.y + 1) + 63) / 64 else 0

/-- Narrow units, or lines, of one element or row. -/
def Ent.perRow (e : Ent) : Nat := if e.narrow then e.x / e.gran else e.x / 64

/-- Rows of the shape. -/
def Ent.rows (e : Ent) : Nat := (e.y + 1) * (e.z + 1)

/-- Transactions of the entry: for a gather, the index-list lines first (log entry 15). -/
def Ent.total (e : Ent) : Nat :=
  match e.op with
  | 0x01 => e.nList + e.rows * e.perRow
  | 0x02 => e.nList + e.rows * e.perRow
  | 0x03 => 1
  | _ => 0

/-- What a transaction of an entry is: a read of index-list line j; a line moved or reduced; unit j of a narrow gather or
scatter; input line l of unfold row y. -/
inductive TKind where
  | list (j : Nat)
  | move
  | gather (j : Nat)
  | scatter (j : Nat)
  | feed (y l : Nat)
deriving DecidableEq, Repr

/-- The kind of transaction `k`. -/
def Ent.kind (e : Ent) (k : Nat) : TKind :=
  if e.unf then .feed (k / e.perRow) (k % e.perRow)
  else if k < e.nList then .list k
  else if e.narrow then (if e.gside then .scatter (k - e.nList) else .gather (k - e.nList))
  else .move

/-- Units per line of the linear side of a narrow entry (R121). -/
def Ent.perLine (e : Ent) : Nat := 64 / e.gran

/-- The element of a gather whose index transaction `k` uses. -/
def Ent.elemOf (e : Ent) (k : Nat) : Nat := (k - e.nList) / e.perRow

/-- The source and destination endpoints of transaction `k`, with the offsets added to SRC and DST (or LIST); `ix` is the
element's index in a gather. -/
def Ent.places (e : Ent) (k ix : Nat) : (Nat × Int) × (Nat × Int) :=
  match e.kind k with
  | .list j => ((e.list, 64 * j), (e.list, 64 * j))
  | .feed y l => ((e.src, (y : Int) * sext 32 e.srow + 64 * l), (e.dst, (y : Int) * sext 32 e.drow))
  | .gather j => ((e.src, ix * e.gstr + j % e.perRow * e.gran), (e.dst, 64 * (j / e.perLine)))
  | .scatter j => ((e.src, 64 * (j / e.perLine)), (e.dst, ix * e.gstr + j % e.perRow * e.gran))
  | .move =>
    let j := k - e.nList
    let r := j / e.perRow
    let l := j % e.perRow
    if e.shape = 3 then
      let g : Int := ix * e.gstr + 64 * l
      let n : Int := r * e.x + 64 * l
      if e.gside then ((e.src, n), (e.dst, g)) else ((e.src, g), (e.dst, n))
    else
      let y := r % (e.y + 1)
      let z := r / (e.y + 1)
      ((e.src, (z : Int) * sext 32 e.spln + y * sext 32 e.srow + 64 * l),
       (e.dst, (z : Int) * sext 32 e.dpln + y * sext 32 e.drow + 64 * l))

/-- Units of a narrow entry in line `n` of its linear side. -/
def Ent.lineUnits (e : Ent) (n : Nat) : Nat := min e.perLine (e.rows * e.perRow - n * e.perLine)

end Sys2Proof.Machine
end

