-- ==== Sys2Proof/Machine/Engine.lean ====
section
/-!
DEFINITION. Tile engines (R90–R123): fetching and beginning entries, issuing transactions, their responses, adds, waits,
halts, RESUME, ABORT and START.
-/
namespace Sys2Proof.Machine

/-! An engine -/

/-- Key of engine `e` of a die. -/
def engKey (die e : Nat) : Nat := die * 64 + e

/-- An engine that has not run. -/
def Eng.initial : Eng where
  fetchN := 0
  fetched := []
  ents := []
  slots := []
  waiting := none
  waitAt := 0
  armed := false
  gen := 0
  unacked := []
  radds := []
  ended := false
  halting := false
  fails := []
  latch := [none, none, none]
  ixl := []
  lineBuf := none

/-- An engine. -/
def Dev.eng (d : Dev) (die e : Nat) : Eng := d.engs.atD (engKey die e) Eng.initial

/-- An engine replaced. -/
def Dev.setEng (d : Dev) (die e : Nat) (g : Eng) : Dev := { d with engs := d.engs.put (engKey die e) g }

/-- An engine changed. -/
def Dev.modEng (d : Dev) (die e : Nat) (f : Eng → Eng) : Dev := d.setEng die e (f (d.eng die e))

/-- An unfold engine of a die. -/
def Dev.unfAt (d : Dev) (die u : Nat) : Unf := d.unfs.atD (die * 24 + u) ⟨[], [], 0⟩

/-- An unfold engine replaced. -/
def Dev.setUnf (d : Dev) (die u : Nat) (q : Unf) : Dev := { d with unfs := d.unfs.put (die * 24 + u) q }

/-! TEN_STAT.STATE (R108) -/

def tenIdle : Nat := 1
def tenRun : Nat := 2
def tenWait : Nat := 3
def tenDone : Nat := 4
def tenHaltR : Nat := 5
def tenHalt : Nat := 6
def tenDrain : Nat := 7

/-- State of an engine. -/
def Dev.tenSt (d : Dev) (die e : Nat) : Nat := d.get F.TEN_STAT_STATE die e

/-- State of an engine set. -/
def Dev.setTen (d : Dev) (die e st : Nat) : Dev := d.put F.TEN_STAT_STATE st die e

/-- Partition of an engine. -/
def Dev.tenPart (d : Dev) (die e : Nat) : Nat := d.get F.TEN_CTL_PART die e

/-- An engine that works: in RUN or WAIT, its compute domain powered. -/
def Dev.tenLive (d : Dev) (die e : Nat) : Bool :=
  (d.tenSt die e == tenRun || d.tenSt die e == tenWait) && d.computeUp die

/-- The slot is outstanding: issued and neither completed nor failed (R261). -/
def WSlot.out (s : WSlot) : Bool := s.st != .failed && s.st != .again

/-- Transactions outstanding of an engine (R104). -/
def Eng.out (g : Eng) : Nat := (g.slots.filter WSlot.out).length

/-- The entry `n` among those begun. -/
def Eng.ent (g : Eng) (n : Nat) : Option Ent := (g.ents.find? fun r => r.n == n).map fun r => parseEnt r.raw

/-! Halts (R109, R110) -/

/-- The cause is resumable (R109). -/
def resumable (cause : Nat) : Bool := cause == 4 || cause == 7

/-- The wait of an engine is withdrawn (R110, R112). -/
def Dev.engWithdraw (d : Dev) (die e : Nat) : Dev :=
  let g := d.eng die e
  match g.armed, g.waiting with
  | true, some f =>
    let t := (parseEnt f.raw).wtumb
    (d.setEng die e { g with armed := false }).sendOp (.eng die e) 5 0 g.gen (bitsOf t 17 16) (t % 2 ^ 16) (d.tenPart die e) 0 0
  | _, _ => d

/-- A failure is met: issue stops, the armed wait is withdrawn. -/
def Dev.engStop (d : Dev) (die e : Nat) : Dev :=
  if d.tenLive die e then (d.engWithdraw die e).modEng die e fun g => { g with halting := true } else d

/-- A failure that no window slot holds. -/
def Dev.engFail (d : Dev) (die e n ix : Nat) (f : Fail) : Dev :=
  (d.modEng die e fun g => { g with fails := g.fails ++ [(n, ix, f)] }).engStop die e

/-- The failures met: entry, transaction index, failure. -/
def Eng.allFails (g : Eng) : List (Nat × Nat × Fail) :=
  g.fails ++ (g.slots.filterMap fun s => s.fail.map fun f => (s.ent, s.idx, f))

/-- The failure of the lowest entry and index. -/
def lowestFail : List (Nat × Nat × Fail) → Option (Nat × Nat × Fail)
  | [] => none
  | x :: xs =>
    match lowestFail xs with
    | none => some x
    | some y => if y.1 < x.1 ∨ (y.1 = x.1 ∧ y.2.1 < x.2.1) then some y else some x

/-- The failure that the status records: the lowest non-resumable one, or the lowest (R110 step 6). -/
def Eng.theFail (g : Eng) : Option (Nat × Nat × Fail) :=
  match lowestFail (g.allFails.filter fun x => !resumable x.2.2.cause) with
  | some x => some x
  | none => lowestFail g.allFails

/-- A failure is recorded in the status and posted (R110, R447). TEN_FINFO holds only a TRANSLATION or UNFOLD detail (R115); the record
of a transfer that failed in another package carries its STAT and port (R345). -/
def Dev.engRecord (d : Dev) (die e : Nat) (x : Nat × Nat × Fail) (res : Bool) : Dev :=
  let f := x.2.2
  let d1 := (d.put F.TEN_STAT_FLTV 1 die e).put F.TEN_STAT_CAUSE f.cause die e
  let d2 := (d1.put F.TEN_FIDX_INDEX (x.2.1 % 2 ^ 32) die e).put64 F.TEN_FADDR_LO_ADDR F.TEN_FADDR_HI_ADDR f.addr die e
  let d3 := (d2.put F.TEN_FINFO_INFO (if f.cause = 4 ∨ f.cause = 0xE then f.info else 0) die e).put F.TEN_FTICK_TICK (d.tick die % 2 ^ 32) die e
  d3.post die ⟨2, f.cause, if res then 1 else 0, d.tenPart die e, e, f.info, f.addr⟩

/-! Endpoints and translation (R96, R99, R165, R250, R251) -/

/-- A translation by an engine: its latch for the side, or a lookup that reloads it. -/
def Dev.engLookup (d : Dev) (die e side : Nat) (a : KAcc) (fresh : Bool) : Xlat × Dev :=
  let hit := if fresh then none else
    match (d.eng die e).latch.getD side none with
    | some l => if a.dva / 2 ^ pageBits l.size = l.page then some (⟨2 * l.size, l.w1⟩ : KEnt) else none
    | none => none
  match hit with
  | some en =>
    let c := d.krgCode die a en
    if c = 0 then (⟨0, en.host, a.target die en⟩, d) else (⟨c, en.host, .gpa 0⟩, d.krgFault die)
  | none =>
    let (x, en, d1) := d.lookup die a
    match en with
    | some k => (x, d1.modEng die e fun g => { g with latch := g.latch.set side (some ⟨a.dva / 2 ^ pageBits k.size, k.size, k.w1⟩) })
    | none => (x, d1)

/-- An access of a transaction: the endpoint and displacement, its side (0 SRC, 1 DST, 2 LIST), its kind for R249, narrow,
part in an unfold row, bytes. -/
structure Leg where
  ep : Nat
  off : Int
  side : Nat
  acc : Nat
  nar : Bool
  unf : Nat
  n : Nat
deriving DecidableEq, Repr

/-- The endpoint a leg names, in the form of R96. -/
def Leg.addr (l : Leg) : Nat := epAdd l.ep l.off

/-- A tumbler of the partition's range, as the die's registers give it (R101, R165). -/
def Dev.tumbOk (d : Dev) (die part t : Nat) : Bool :=
  bitsOf t 17 16 < d.ndies && (d.rangeAt die (bitsOf t 17 16) part).has (t % 2 ^ 16)

/-- A leg resolved to its target, or the failure it meets. -/
def Dev.resolve (d : Dev) (die e : Nat) (l : Leg) (fresh : Bool) : (Tgt ⊕ Fail) × Dev :=
  if epSpad l.ep then
    let lc := epCore l.ep
    let o := epOff l.ep l.off
    let cn := lcoreCell lc
    if o < 0 ∨ (spEnd : Int) < o + l.n ∨ d.ndies ≤ bitsOf lc 12 11 ∨ d.partOf cn ≠ d.tenPart die e then
      (.inr ⟨5, 0, l.addr⟩, d)
    else (.inl (.spad lc o.toNat), d)
  else
    let a : KAcc := ⟨d.tenPart die e, l.addr, l.acc, l.nar, l.unf, false⟩
    let (x, d1) := d.engLookup die e l.side a fresh
    if x.code ≠ 0 then (.inr ⟨4, a.finfo x.code l.side x.host, l.addr⟩, d1)
    else
      match x.tgt with
      | .gpa g =>
        if gpaSpace g = 2 ∧ d1.ownPkg die g = true then
          let t := gpaDie g * 2 ^ 16 + gpaOff g / 4
          match (List.range ((l.n + 3) / 4)).find? fun j => !d1.tumbOk die (d1.tenPart die e) (t + j) with
          | some j => (.inr ⟨9, 0, t + j⟩, d1)
          | none => (.inl x.tgt, d1)
        else (.inl x.tgt, d1)
      | _ => (.inl x.tgt, d1)

/-! Fetching (R93) -/

/-- The engine's fetch unit reads the entry after those it holds. -/
def Dev.listFetch (d : Dev) (die e : Nat) : Dev :=
  let g := d.eng die e
  let n := g.fetchN
  let stopped := (g.fetched.getLast?).any fun f => f.st == .limit
  if !d.tenLive die e || g.halting || 4 ≤ g.fetched.length || stopped then d
  else
    let push := fun (d' : Dev) (raw : Bytes) (st : FetchSt) => d'.modEng die e fun g => { g with fetched := g.fetched ++ [⟨n, raw, st⟩], fetchN := n + 1 }
    if d.get F.TEN_LLIMIT_LIMIT die e ≤ n then push d [] .limit
    else if 384 * 2 ^ 20 ≤ n * 64 then push d [] .owner
    else if !d.ownerOk die (n * 64) (d.tenPart die e) die then push d [] .owner
    else
      let (r, d1) := d.sbLoad die (n * 64) 64
      push d1 r.data (if r.ue.isSome then .ue else .ok)

/-! Beginning an entry (R95, R99, R101–R103) -/

/-- The entry in execution has issued its last transaction (R103). -/
def Eng.issuedAll (g : Eng) : Bool :=
  (match g.ents.getLast? with | some r => r.next == r.total | none => true) && !(g.slots.any fun s => s.st == .again)

/-- The entry begins to issue. -/
def Dev.engBegin (d : Dev) (die e : Nat) (f : Fetched) : Dev :=
  let en := parseEnt f.raw
  let r : EntRun := ⟨f.n, f.raw, en.total, 0, 0, if en.aen then .todo else .none, none, if en.unf then en.rows else 0⟩
  d.modEng die e fun g => { g with ents := g.ents ++ [r], ended := en.op == 0x0F, lineBuf := none }

/-- The engine sends its wait and enters WAIT (R101). -/
def Dev.engArm (d : Dev) (die e : Nat) (f : Fetched) : Dev :=
  let en := parseEnt f.raw
  let g := d.eng die e
  let gen := (g.gen + 1) % 16
  let d1 := d.setEng die e { g with waiting := some f, waitAt := d.tick die, armed := true, gen := gen }
  (d1.setTen die e tenWait).sendOp (.eng die e) 4 0 gen (bitsOf en.wtumb 17 16) (en.wtumb % 2 ^ 16) (d.tenPart die e) en.wthr 0

/-- A failure of an entry before it issues: no endpoint fails, so what TEN_FADDR then holds is not stated. -/
def Dev.entFail (d : Dev) (die e n cause : Nat) : Dev :=
  let (k, d1) := d.draw
  d1.engFail die e n 0 ⟨cause, 0, Config.freeNat k 0 % 2 ^ 64⟩

/-- The next entry reaches execution: the position's own failures (R93), the entry's conditions (R95, R99, R134), its
tumblers (R101, R102), its wait. `op` is the operation that this command stands for. -/
def Dev.entBegin (d : Dev) (die e op : Nat) : Dev :=
  let g := d.eng die e
  if d.tenSt die e ≠ tenRun ∨ d.computeUp die = false ∨ g.halting = true ∨ g.ended = true ∨ g.issuedAll = false then d
  else
    match g.fetched with
    | [] => d
    | f :: rest =>
      let en := parseEnt f.raw
      let part := d.tenPart die e
      let known := [0x00, 0x01, 0x02, 0x03, 0x0F].contains en.op
      if f.st == .ok && known && en.op != op then d
      else
        let d1 := (d.setEng die e { g with fetched := rest }).put F.TEN_ENTRY_INDEX
          ((f.n + 2 ^ 23 - d.get F.TEN_LBASE_BASE die e) % 2 ^ 23) die e
        let d2 := d1.put F.TEN_PROG_NEXT 0 die e
        match f.st with
        | .limit => d2.entFail die e f.n 2
        | .owner => (d2.put F.SBF_STAT_OWNERR 1 die).entFail die e f.n 8
        | .ue => d2.entFail die e f.n 1
        | .ok =>
          if !en.ok (d.b0Level die) die then d2.entFail die e f.n 3
          else if en.unf && !(d.on? F.UNF_CTL_ASSIGN die en.unfx && d.get F.UNF_CTL_PART die en.unfx == part) then
            d2.engFail die e f.n 0 ⟨0xE, 1, en.src⟩
          else if en.wen && !d.tumbOk die part en.wtumb then d2.engFail die e f.n 0 ⟨9, 0, en.wtumb⟩
          else if en.aen && !d.tumbOk die part en.atumb then d2.engFail die e f.n 0 ⟨9, 0, en.atumb⟩
          else if en.wen then d2.engArm die e f
          else d2.engBegin die e f

/-- A WAKE reaches the engine: stale generations are discarded (R101, R171). -/
def Dev.engWake (d : Dev) (die e gen : Nat) : Dev :=
  let g := d.eng die e
  match g.waiting with
  | some f =>
    if g.armed && g.gen == gen && d.tenSt die e == tenWait then
      ((d.setEng die e { g with waiting := none, armed := false }).setTen die e tenRun).engBegin die e f
    else d
  | none => d

/-- The wait runs out (R101, R8). -/
def Dev.engTimeout (d : Dev) (die e : Nat) : Dev :=
  let g := d.eng die e
  let t := d.get F.TEN_WTMO_TICKS die e
  match g.waiting with
  | some f =>
    if g.armed && d.tenSt die e == tenWait && t != 0 && d.late die g.waitAt t && d.computeUp die then
      let d1 := (d.engWithdraw die e).modEng die e fun g => { g with waiting := none }
      d1.entFail die e f.n 0xB
    else d
  | none => d

/-! Issue (R102–R104, R120, R121) -/

/-- The legs of transaction `k` of an entry, source and destination. -/
def Ent.legs (en : Ent) (k ix : Nat) : Leg × Leg :=
  let p := en.places k ix
  match en.kind k with
  | .list _ => (⟨p.1.1, p.1.2, 2, 0, false, 0, 64⟩, ⟨p.1.1, p.1.2, 2, 0, false, 0, 64⟩)
  | .feed _ _ => (⟨p.1.1, p.1.2, 0, 0, false, 1, 64⟩, ⟨p.2.1, p.2.2, 1, 1, false, 2, 64⟩)
  | .gather _ => (⟨p.1.1, p.1.2, 0, 0, true, 0, en.gran⟩, ⟨p.2.1, p.2.2, 1, 1, false, 0, 64⟩)
  | .scatter _ => (⟨p.1.1, p.1.2, 0, 0, false, 0, 64⟩, ⟨p.2.1, p.2.2, 1, 1, true, 0, en.gran⟩)
  | .move => (⟨p.1.1, p.1.2, 0, 0, false, 0, 64⟩, ⟨p.2.1, p.2.2, 1, if en.op = 2 then 2 else 1, false, 0, 64⟩)

/-- Key of an index-list line among those read. -/
def ixKey (n j : Nat) : Nat := n * 2 ^ 12 + j

/-- The index of an element, when its list line has been read (R98). -/
def Eng.index (g : Eng) (n i : Nat) : Option Nat := (g.ixl.at? (ixKey n (i / 16))).map fun bs => field bs (4 * (i % 16)) 4

/-- The index transaction `k` needs: 0 where it needs none. -/
def Eng.indexFor (g : Eng) (en : Ent) (n k : Nat) : Option Nat :=
  match en.kind k with
  | .list _ => some 0
  | .feed _ _ => some 0
  | _ => if en.shape = 3 then g.index n (en.elemOf k) else some 0

/-- Lowest free window slot. -/
def Eng.freeSlot (g : Eng) : Nat := ((List.range 256).find? fun i => !(g.slots.any fun s => s.slot == i)).getD 0

/-- The first byte and length that a target and size cover, as one line of addresses. -/
def Tgt.line (t : Tgt) : Nat × Nat × Nat :=
  match t with
  | .gpa g => (0, g / 64, 0)
  | .spad l off => (1, l, off / 64)
  | .host die w off => (2, die * 1024 + w, off / 64)

/-- The slot's write has not left yet. -/
def WSlot.unwritten (s : WSlot) : Bool := s.st == .reading || s.st == .held || s.st == .lineWait

/-- The slot's transaction writes. -/
def Eng.writes (g : Eng) (s : WSlot) : Bool :=
  match g.ent s.ent with
  | some en => match en.kind s.idx with | .list _ => false | .feed _ _ => false | _ => true
  | none => false

/-- Rows of an entry of the engine that still unfold. -/
def Dev.rowsOf (d : Dev) (die e : Nat) : List UCtx :=
  (d.unfs.filter fun u => u.1 / 24 == die).flatMap fun u => (u.2.ctx.map (·.2)).filter fun c => c.eng == e

/-- A write to the line, earlier in issue order and not yet sent, would have to be read back (R103): issue waits. Rows that
still unfold into the target's destination count. -/
def Dev.readBack (d : Dev) (die e : Nat) (t : Tgt) : Bool :=
  let g := d.eng die e
  (g.slots.any fun s => s.unwritten && g.writes s && s.dst.line == t.line) ||
  ((d.rowsOf die e).any fun c =>
    let en := parseEnt c.raw
    if epSpad en.dst then (match t with | .spad l _ => l == epCore en.dst | _ => false)
    else match t with | .gpa q => gpaSpace q == 1 && gpaDie q == die | _ => false)

/-- A request of an engine leaves. -/
def Dev.engSend (d : Dev) (die e : Nat) (slot : Nat) (op : TOp) (t : Tgt) (red gran : Nat) (data : Bytes) (unf : Option (Nat × Nat)) : Dev :=
  { d with sqn := d.sqn + 1 }.netPut (.req ⟨.eng die e, slot, op, t, d.tenPart die e, red, gran, data, unf, d.sqn⟩)

/-- The slot of the engine replaced by place in the window list. -/
def Eng.setSlot (g : Eng) (j : Nat) (s : WSlot) : Eng := { g with slots := g.slots.set j s }

/-- The read that a transaction begins with. -/
def Ent.readOp (en : Ent) (k : Nat) : TOp := match en.kind k with | .gather _ => .nread | _ => .read

/-- Transaction `k` is a unit whose line another unit reads (R121). -/
def Ent.follows (en : Ent) (k : Nat) : Bool := match en.kind k with | .scatter j => j % en.perLine != 0 | _ => false

/-- Legs of a transaction resolved: source, then destination for those that write. -/
def Dev.resolveBoth (d : Dev) (die e : Nat) (en : Ent) (k ix : Nat) (fresh : Bool) : (Tgt × Tgt ⊕ Fail) × Dev :=
  let (ls, ld) := en.legs k ix
  match d.resolve die e ls fresh with
  | (.inr f, d1) => (.inr f, d1)
  | (.inl s, d1) =>
    match en.kind k with
    | .list _ => (.inl (s, s), d1)
    | .feed _ _ => (.inl (s, s), d1)
    | _ =>
      match d1.resolve die e ld fresh with
      | (.inr f, d2) => (.inr f, d2)
      | (.inl t, d2) => (.inl (s, t), d2)

/-- A transaction of an entry is issued into window slot number `sl`, at place `j` of the window list: it fails at once, or
its read leaves, or it waits for the line that another unit reads, whose bytes may already be there. -/
def Dev.issueAt (d : Dev) (die e j sl n : Nat) (en : Ent) (k ix : Nat) (kept : Bytes) (fresh : Bool) : Dev :=
  match d.resolveBoth die e en k ix fresh with
  | (.inr f, d1) =>
    (d1.modEng die e fun g => g.setSlot j ⟨sl, n, k, .failed, .gpa 0, .gpa 0, kept, some f, false⟩).engStop die e
  | (.inl (s, t), d1) =>
    let put := fun (d' : Dev) (st : SlotSt) (data : Bytes) => d'.modEng die e fun g => g.setSlot j ⟨sl, n, k, st, s, t, data, none, false⟩
    let line := match en.kind k with | .scatter u => u / en.perLine | _ => 0
    let have_ := match (d1.eng die e).lineBuf with | some (l, bs) => if l = n * 2 ^ 32 + line then some bs else none | none => none
    if !kept.isEmpty then put d1 .held kept
    else if en.follows k then
      match en.kind k, have_ with
      | .scatter u, some bs => put d1 .held (slice bs (u % en.perLine * en.gran) en.gran)
      | _, _ => put d1 .lineWait []
    else (put d1 .reading []).engSend die e sl (en.readOp k) s 0 en.gran [] none

/-- The source of a transaction, to see whether it must wait for an earlier write (R103): translated without effect. -/
def Dev.peekSrc (d : Dev) (die e : Nat) (en : Ent) (k ix : Nat) : Option Tgt :=
  match (d.resolve die e (en.legs k ix).1 false).1 with
  | .inl t => some t
  | .inr _ => none

/-- Everything earlier than a release has completed, and earlier adds are sent (R102): no slot is in use by entries up to
`n`, no earlier entry has an unsent add or unfinished rows. -/
def Eng.released (g : Eng) (n : Nat) : Bool :=
  !(g.slots.any fun s => s.ent ≤ n) &&
  (g.ents.all fun r => if r.n < n then r.next == r.total && r.add != .todo && r.rows == 0 else r.n != n || r.rows == 0)

/-- A row of an unfold entry has its context. -/
def Dev.rowCtx (d : Dev) (die e n y u : Nat) : Bool :=
  match d.unfs.at? (die * 24 + u) with
  | some q => q.ctx.any fun c => c.2.eng == e && c.2.ent == n && c.2.row == y
  | none => false

/-- The row waits, or comes to wait, for a context of its unfold engine (R137). -/
def Dev.rowAsk (d : Dev) (die e n y u : Nat) : Dev :=
  let q := d.unfAt die u
  if q.waitq.contains (e, n, y) then d else d.setUnf die u { q with waitq := q.waitq ++ [(e, n, y)] }

/-- A TADD entry's add leaves once it is released: its DST is translated, and the add goes to the tumbler's home, or to the
package-link port `port` toward another package (R95, R102, R345). -/
def Dev.taddSend (d : Dev) (die e port : Nat) (r : EntRun) (en : Ent) : Dev :=
  if !(d.eng die e).released r.n then d
  else
    match d.resolve die e ⟨en.dst, 0, 1, 3, false, 0, 4⟩ false with
    | (.inr f, d1) => d1.engFail die e r.n 0 f
    | (.inl (.gpa g), d1) =>
      let part := d1.tenPart die e
      let own := d1.ownPkg die g
      let d2 := (d1.put F.TEN_PROG_NEXT 1 die e).modEng die e fun x =>
        { x with ents := x.ents.map fun q => if q.n = r.n then { q with next := 1, fin := 1 } else q,
                 unacked := x.unacked ++ [(if own then gpaDie g else 4 + gpaPkg g, gpaOff g / 4)],
                 radds := if own then x.radds else x.radds ++ [(gpaPkg g, gpaOff g / 4, r.n, epAdd en.dst 0)] }
      if own then d2.sendOp (.eng die e) 3 0 0 (gpaDie g) (gpaOff g / 4) part en.aval 0
      else d2.send ⟨.eng die e, .link port (gpaPkg g), 3, 0, 0, (Ep.eng die e).peer, tumbField (gpaDie g) (gpaOff g / 4) part, en.aval, 0⟩
    | (.inl _, d1) => d1

/-- The port that the routing table of a die selects for a package: CUR of PLK_ROUTE; none when it names none (R340). -/
def Dev.routePort (d : Dev) (die pkg : Nat) : Option Nat :=
  match d.get F.PLK_ROUTE_CUR die 0 pkg with
  | 0 => some (d.get F.PLK_ROUTE_PRI die 0 pkg)
  | 1 => some (d.get F.PLK_ROUTE_ALT1 die 0 pkg)
  | 2 => some (d.get F.PLK_ROUTE_ALT2 die 0 pkg)
  | _ => none

/-- The package that a TADD's DST names, for the choice of its port; none when it does not translate or is the own one. -/
def Dev.taddPkg (d : Dev) (die e : Nat) (en : Ent) : Option Nat :=
  match (d.resolve die e ⟨en.dst, 0, 1, 3, false, 0, 4⟩ false).1 with
  | .inl (.gpa g) => if d.ownPkg die g then none else some (gpaPkg g)
  | _ => none

/-- The engine issues a transaction: one that RESUME asks for, or the next of the entry in execution (R104, R111). -/
def Dev.txnIssue (d : Dev) (die e : Nat) : Dev :=
  let g := d.eng die e
  if d.tenSt die e ≠ tenRun ∨ g.halting = true ∨ d.computeUp die = false then d
  else
    match (g.slots.zipIdx.filter fun s => s.1.st == .again), g.ents.getLast? with
    | s :: _, _ =>
      match g.ent s.1.ent with
      | none => d
      | some en =>
        match g.indexFor en s.1.ent s.1.idx with
        | none => d
        | some ix => d.issueAt die e s.2 s.1.slot s.1.ent en s.1.idx ix s.1.data true
    | [], none => d
    | [], some r =>
      let en := parseEnt r.raw
      if r.total ≤ r.next then d
      else if en.op = 3 then
        match d.taddPkg die e en with
        | none => d.taddSend die e 0 r en
        | some p =>
          match d.routePort die p with
          | some q => d.taddSend die e q r en
          | none =>
            if g.released r.n then
              (d.put F.PLK_STAT_NOROUTE 1 die).engFail die e r.n 0 ⟨0xD, 0, en.dst⟩
            else d
      else if 256 ≤ g.slots.length then d
      else
        match g.indexFor en r.n r.next with
        | none => d
        | some ix =>
          match (match en.kind r.next with
                 | .feed y _ => if d.rowCtx die e r.n y en.unfx then none else some (d.rowAsk die e r.n y en.unfx)
                 | _ => none) with
          | some d' => d'
          | none =>
            if (d.peekSrc die e en r.next ix).any (d.readBack die e) then d
            else
              let sl := g.freeSlot
              let d1 := (d.put F.TEN_PROG_NEXT ((r.next + 1) % 2 ^ 32) die e).modEng die e fun x =>
                { x with ents := x.ents.map fun q => if q.n = r.n then { q with next := q.next + 1 } else q,
                         slots := x.slots ++ [⟨sl, r.n, r.next, .lineWait, .gpa 0, .gpa 0, [], none, false⟩] }
              d1.issueAt die e g.slots.length sl r.n en r.next ix [] false

/-! Writes leave in issue order (R106, R121) -/

/-- A row of an earlier entry still unfolds into the slot's destination (R136). -/
def Dev.rowBefore (d : Dev) (die e : Nat) (s : WSlot) : Bool :=
  (d.rowsOf die e).any fun c =>
    c.ent < s.ent &&
      (let en := parseEnt c.raw
       if epSpad en.dst then (match s.dst with | .spad l _ => l == epCore en.dst | _ => false)
       else match s.dst with | .gpa q => gpaSpace q == 1 && gpaDie q == die | _ => false)

/-- The slots of the line of a packed gather unit: their places, when the whole line is held. -/
def Eng.packed (g : Eng) (en : Ent) (s : WSlot) (j : Nat) : Option (List (Nat × WSlot)) :=
  let l := j / en.perLine
  let us := (g.slots.zipIdx.map fun x => (x.2, x.1)).filter fun x =>
    x.2.ent == s.ent && (match en.kind x.2.idx with | .gather u => u / en.perLine == l | _ => false) && x.2.st == .held
  if us.length = en.lineUnits l then some us else none

/-- What leaves for the held slot at place `p`, if it may: the operation, its data, and the places that it writes for. -/
def Eng.writeOf (g : Eng) (p : Nat) (s : WSlot) : Option (TOp × Nat × Bytes × List Nat) :=
  match g.ent s.ent with
  | none => none
  | some en =>
    match en.kind s.idx with
    | .move => some (if en.op = 2 then .reduce else .write, en.red, s.data, [p])
    | .scatter _ => some (.nwrite, 0, s.data, [p])
    | .gather j =>
      (g.packed en s j).map fun us =>
        let bs := (us.foldl (fun (acc : Bytes) u =>
          match en.kind u.2.idx with
          | .gather q => overlay acc (q % en.perLine * en.gran) u.2.data
          | _ => acc) (zeros 64))
        (.write, 0, bs, us.map (·.1))
    | _ => none

/-- The first slot whose write may leave: no earlier slot still owes a write to its destination. -/
def Dev.nextWrite (d : Dev) (die e : Nat) : Option (WSlot × TOp × Nat × Bytes × List Nat) :=
  let g := d.eng die e
  g.slots.zipIdx.findSome? fun x =>
    let s := x.1
    let older := (g.slots.take x.2).any fun t => t.unwritten && g.writes t && sameDest t.dst s.dst
    if s.st == .held && !older && !d.rowBefore die e s then (g.writeOf x.2 s).map fun w => (s, w) else none

/-- Writes leave while any may; at most `fuel` of them. -/
def Dev.pump (d : Dev) (die e : Nat) : Nat → Dev
  | 0 => d
  | fuel + 1 =>
    match d.nextWrite die e with
    | none => d
    | some (s, op, red, data, ps) =>
      let d1 := d.modEng die e fun g =>
        { g with slots := g.slots.zipIdx.map fun x => if ps.contains x.2 then { x.1 with st := .writing } else x.1 }
      let gran := match (d.eng die e).ent s.ent with | some en => en.gran | none => 32
      (d1.engSend die e s.slot op s.dst red gran data none).pump die e fuel

/-! Completion -/

/-- Transactions of entry `n` completed: `k` more. Entries at the head that have completed and sent their adds leave. -/
def Eng.finish (g : Eng) (n k : Nat) : Eng :=
  let es := g.ents.map fun r => if r.n = n then { r with fin := r.fin + k } else r
  { g with ents := es }

/-- Entries from the head that have nothing left: all transactions complete, the add sent. The last stays for TEN_PROG. -/
def pruneEnts : List EntRun → List EntRun
  | r :: s :: es => if r.fin = r.total ∧ r.add ≠ .todo ∧ r.rows = 0 then pruneEnts (s :: es) else r :: s :: es
  | es => es

/-- The slots at some places complete. -/
def Dev.slotsDone (d : Dev) (die e : Nat) (ps : List Nat) : Dev :=
  d.modEng die e fun g =>
    let gone := (g.slots.zipIdx.filter fun x => ps.contains x.2).map (·.1)
    let g1 := gone.foldl (fun (a : Eng) s => a.finish s.ent 1) { g with slots := (g.slots.zipIdx.filter fun x => !ps.contains x.2).map (·.1) }
    { g1 with ents := pruneEnts g1.ents }

/-- Slots at some places fail with one failure. -/
def Dev.slotsFail (d : Dev) (die e : Nat) (ps : List Nat) (f : Fail) (keep : Bool) : Dev :=
  (d.modEng die e fun g =>
    { g with slots := g.slots.zipIdx.map fun x =>
        if ps.contains x.2 then { x.1 with st := .failed, fail := some f, data := if keep then x.1.data else [] } else x.1 }).engStop die e

/-- The halt cause of a STAT (R278, R345); `away` for another package or a host window. -/
def causeOf (stat : Nat) (away : Bool) : Nat :=
  if stat = statUE ∨ stat = statStack then 0xA
  else if away then 0xD
  else if stat = statRange ∨ stat = statNarrow then 4
  else if stat = statReset then 7
  else if stat = statRefused then 0xD
  else if stat = statOwner then 8
  else if stat = statProtect then 6
  else 0xA

/-- A target lies outside the package. -/
def Dev.away (d : Dev) (die : Nat) : Tgt → Bool
  | .gpa g => !d.ownPkg die g
  | .host _ _ _ => true
  | .spad _ _ => false

/-- The failure of a transaction's read or write by its STAT; TEN_FINFO of a refused range or region (R250). A translation
fault found at the home is counted as well. -/
def Dev.statFail (d : Dev) (die e : Nat) (s : WSlot) (writing : Bool) (stat : Nat) : Fail × Dev :=
  let g := d.eng die e
  match g.ent s.ent with
  | none => (⟨0xA, 0, 0⟩, d)
  | some en =>
    let ix := (g.indexFor en s.ent s.idx).getD 0
    let l := if writing then (en.legs s.idx ix).2 else (en.legs s.idx ix).1
    let away := d.away die (if writing then s.dst else s.src)
    let cause := causeOf (stat % 2 ^ 8) away
    let a : KAcc := ⟨0, 0, l.acc, l.nar, 0, false⟩
    let info := if away then stat else if cause = 4 then a.finfo (if stat = statNarrow then 3 else 5) l.side false else 0
    (⟨cause, info, l.addr⟩, if cause = 4 then d.krgFault die else d)

/-- The places of the units that share the line of a scatter unit. -/
def Eng.lineMates (g : Eng) (en : Ent) (s : WSlot) : List Nat :=
  match en.kind s.idx with
  | .scatter j =>
    (g.slots.zipIdx.filter fun x => x.1.ent == s.ent && x.1.st != .writing && x.1.st != .held &&
      (match en.kind x.1.idx with | .scatter u => u / en.perLine == j / en.perLine | _ => false)).map (·.2)
  | _ => []

/-- The places of the units that share the written line of a gather unit. -/
def Eng.packMates (g : Eng) (en : Ent) (s : WSlot) (p : Nat) : List Nat :=
  match en.kind s.idx with
  | .gather j =>
    (g.slots.zipIdx.filter fun x => x.1.ent == s.ent && x.1.st == .writing &&
      (match en.kind x.1.idx with | .gather u => u / en.perLine == j / en.perLine | _ => false)).map (·.2)
  | _ => [p]

/-- Input of a context of an unfold engine (R137): a line of a row arrives. -/
def Dev.ctxFeed (d : Dev) (die e n u y l : Nat) (bs : Bytes) : Dev :=
  let q := d.unfAt die u
  d.setUnf die u { q with ctx := q.ctx.map fun c =>
    if c.2.eng = e ∧ c.2.ent = n ∧ c.2.row = y then (c.1, { c.2 with buf := c.2.buf.put l bs }) else c }

/-- A response without failure reaches a slot of an engine, at place `p`. -/
def Dev.slotOk (d : Dev) (die e p : Nat) (s : WSlot) (data : Bytes) : Dev :=
  let g := d.eng die e
  let drain := d.tenSt die e == tenDrain
  match g.ent s.ent with
  | none => d.modEng die e fun g => { g with slots := g.slots.eraseIdx p }
  | some en =>
    if s.st == .writing then d.slotsDone die e (g.packMates en s p)
    else
      match en.kind s.idx with
      | .list j => (d.modEng die e fun g => { g with ixl := g.ixl.put (ixKey s.ent j) data }).slotsDone die e [p]
      | .move => d.modEng die e fun g => g.setSlot p { s with st := .held, data := data }
      | .gather _ =>
        if drain then d.modEng die e fun g => { g with slots := g.slots.eraseIdx p }
        else d.modEng die e fun g => g.setSlot p { s with st := .held, data := data }
      | .scatter j =>
        let ps := g.lineMates en s
        if drain then d.modEng die e fun g => { g with slots := (g.slots.zipIdx.filter fun x => !ps.contains x.2).map (·.1) }
        else
          let sl := g.slots.zipIdx.map fun x =>
            if ps.contains x.2 && (x.1.st == .lineWait || x.2 == p) then
              (match en.kind x.1.idx with
               | .scatter u => { x.1 with st := SlotSt.held, data := slice data (u % en.perLine * en.gran) en.gran }
               | _ => x.1)
            else x.1
          d.modEng die e fun g => { g with slots := sl, lineBuf := some (s.ent * 2 ^ 32 + j / en.perLine, data) }
      | .feed y l =>
        if drain then d.modEng die e fun g => { g with slots := g.slots.eraseIdx p }
        else (d.ctxFeed die e s.ent en.unfx y l data).modEng die e fun g => g.setSlot p { s with st := .held }

/-- A failure of a slot's read or write (R110): the units that depend on it fail with it. -/
def Dev.slotBad (d : Dev) (die e p : Nat) (s : WSlot) (stat : Nat) : Dev :=
  let g := d.eng die e
  let wr := s.st == .writing
  let (f, d1) := d.statFail die e s wr stat
  match g.ent s.ent with
  | none => d1.slotsFail die e [p] f false
  | some en =>
    let ps := if wr then g.packMates en s p else if (g.lineMates en s).isEmpty then [p] else g.lineMates en s
    let keep := wr && (match en.kind s.idx with | .scatter _ => true | _ => false)
    d1.slotsFail die e ps f keep

/-- A response reaches a tile engine (R102, R110); one that finds no slot is discarded and counted (R291). -/
def Dev.engResponse (d : Dev) (die e slot stat : Nat) (data : Bytes) : Dev :=
  let g := d.eng die e
  match g.slots.zipIdx.find? fun x => x.1.slot == slot && (x.1.st == .reading || x.1.st == .writing) with
  | none => d.countSat F.HUB_RDROP_COUNT 1 die
  | some (s, p) => ((if stat = 0 then d.slotOk die e p s data else d.slotBad die e p s stat)).pump die e 256

/-! Halting, adds, END, ABORT, START, RESUME -/

/-- Transactions of the engine that are under way in the hub or at a home: reads, writes, unfold output. -/
def Dev.engBusy (d : Dev) (die e : Nat) : Bool :=
  ((d.eng die e).slots.any fun s => s.st == .reading || s.st == .writing) || (d.rowsOf die e).any fun c => !c.out.isEmpty

/-- Contexts of the engine are freed, and rows that wait for one (R141). -/
def Dev.freeRows (d : Dev) (die e : Nat) : Dev :=
  (List.range 24).foldl (fun d' u =>
    match d'.unfs.at? (die * 24 + u) with
    | none => d'
    | some q =>
      let gone := (q.ctx.filter fun c => c.2.eng == e).map (·.1)
      let d1 := d'.setUnf die u ⟨q.ctx.filter fun c => c.2.eng != e, q.waitq.filter fun w => w.1 != e, q.rr⟩
      d1.put F.UNF_STAT_BUSY (gone.foldl clrBit (d1.get F.UNF_STAT_BUSY die u)) die u) d

/-- The halt takes effect once no issued transaction is under way (R110 steps 2, 6–8). -/
def Dev.engSettle (d : Dev) (die e : Nat) : Dev :=
  let g := d.eng die e
  if !g.halting || !d.tenLive die e || d.engBusy die e then d
  else
    match g.theFail with
    | none => d
    | some x =>
      let res := resumable x.2.2.cause
      let d1 := (d.engRecord die e x res).setTen die e (if res then tenHaltR else tenHalt)
      if res then d1.modEng die e fun g => { g with halting := false }
      else (d1.freeRows die e).modEng die e fun g => { g with halting := false, slots := [], fails := [], waiting := none }

/-- An entry's add is sent (R102). -/
def Dev.engAdd (d : Dev) (die e : Nat) : Dev :=
  let g := d.eng die e
  match g.ents.find? fun r => r.add == .todo with
  | none => d
  | some r =>
    let en := parseEnt r.raw
    if !d.tenLive die e || g.halting || !g.released r.n || r.next != r.total then d
    else
      let home := bitsOf en.atumb 17 16
      let idx := en.atumb % 2 ^ 16
      let d1 := d.modEng die e fun x =>
        let es := x.ents.map fun q => if q.n = r.n then { q with add := AddSt.sent } else q
        { x with ents := pruneEnts es, unacked := x.unacked ++ [(home, idx)] }
      d1.sendOp (.eng die e) 3 0 0 home idx (d.tenPart die e) en.aval 0

/-- An ACK of an add reaches the engine (R95). -/
def Dev.engAck (d : Dev) (die e home idx : Nat) : Dev :=
  d.modEng die e fun g =>
    { g with unacked := g.unacked.erase (home, idx),
             radds := match g.radds.find? fun a => 4 + a.1 == home && a.2.1 == idx with | some a => g.radds.erase a | none => g.radds }

/-- END's conditions hold: DONE (R95). -/
def Dev.engDone (d : Dev) (die e : Nat) : Dev :=
  let g := d.eng die e
  if d.tenSt die e == tenRun && d.computeUp die && g.ended && !g.halting && g.slots.isEmpty && g.unacked.isEmpty &&
      g.ents.all (fun r => r.fin == r.total && r.add != .todo && r.rows == 0) then
    (d.setTen die e tenDone).modEng die e fun g => { g with ents := [], fetched := [], ended := false }
  else d

/-- ABORT (R112, R141). -/
def Dev.engAbort (d : Dev) (die e : Nat) : Dev :=
  let st := d.tenSt die e
  if !d.computeUp die || !(st == tenRun || st == tenWait || st == tenHaltR || st == tenHalt) then d
  else
    let d1 := (d.engWithdraw die e).setTen die e tenDrain
    let halted := st == tenHaltR || st == tenHalt
    let move := fun (g : Eng) (s : WSlot) =>
      match g.ent s.ent with | some en => (match en.kind s.idx with | .move => true | _ => false) | none => false
    let keep := fun (g : Eng) (s : WSlot) =>
      s.st == .reading || s.st == .writing || (s.st == .failed && !halted) || (s.st == .held && move g s)
    let noAdd := fun (r : EntRun) => { r with add := if r.add = AddSt.todo then AddSt.none else r.add }
    d1.modEng die e fun g => { g with waiting := none, fetched := [], halting := false, ended := false,
                                      fails := if halted then [] else g.fails, ents := g.ents.map noAdd,
                                      slots := g.slots.filter (keep g) }

/-- The engine enters IDLE when nothing it issued is under way (R112); a failure met while draining is recorded. -/
def Dev.engDrained (d : Dev) (die e : Nat) : Dev :=
  let g := d.eng die e
  if d.tenSt die e ≠ tenDrain ∨ d.engBusy die e = true ∨ (g.slots.any fun s => s.st == .held) = true then d
  else
    let d1 := match g.theFail with | some x => d.engRecord die e x false | none => d
    ((d1.freeRows die e).setTen die e tenIdle).modEng die e fun x =>
      { Eng.initial with gen := x.gen, latch := x.latch }

/-- START (R112). -/
def Dev.engStart (d : Dev) (die e : Nat) : Dev :=
  let st := d.tenSt die e
  if !d.computeUp die || !(st == tenIdle || st == tenDone) then d
  else
    let z := fun (d' : Dev) (r : Reg) => d'.setRaw ⟨r, die, e, 0⟩ 0
    let d1 := ((d.put F.TEN_STAT_FLTV 0 die e).put F.TEN_STAT_CAUSE 0 die e).setTen die e tenRun
    let d2 := [Reg.TEN_FIDX, .TEN_FADDR_LO, .TEN_FADDR_HI, .TEN_FINFO, .TEN_FTICK, .TEN_ENTRY, .TEN_PROG].foldl z d1
    d2.modEng die e fun g => { Eng.initial with gen := g.gen, latch := g.latch, fetchN := d.get F.TEN_LBASE_BASE die e }

/-- RESUME (R111): failed transactions are to be issued again, a withdrawn wait is sent again, and contexts send their
failed output again. -/
def Dev.engResume (d : Dev) (die e : Nat) : Dev :=
  if d.tenSt die e ≠ tenHaltR ∨ d.computeUp die = false then d
  else
    let d1 := (d.setTen die e tenRun).modEng die e fun g =>
      { g with fails := [], slots := g.slots.map fun s => if s.st = .failed then { s with st := .again, fail := none } else s }
    match (d1.eng die e).waiting with
    | some f => d1.engArm die e f
    | none => d1

/-- The engine resets with its partition (R115, R441) or with the compute domain. -/
def Dev.engReset (d : Dev) (die e : Nat) : Dev :=
  let d1 := (d.engWithdraw die e).freeRows die e
  let d2 := [Reg.TEN_STAT, .TEN_ENTRY, .TEN_PROG, .TEN_FIDX, .TEN_FADDR_LO, .TEN_FADDR_HI, .TEN_FINFO, .TEN_FTICK].foldl
    (fun d' r => { d' with rf := d'.rf.del ⟨r, die, e, 0⟩ }) d1
  (d2.setTen die e (if d2.on? F.TEN_CTL_ASSIGN die e then tenIdle else 0)).setEng die e { Eng.initial with gen := (d.eng die e).gen }

/-- TEN_OUT.COUNT (R114). -/
def Dev.tenOut (d : Dev) (die : Nat) : Nat := (List.range 64).foldl (fun n e => n + (d.eng die e).out) 0

/-- TEN_HALT_LO (first = 0) and TEN_HALT_HI (first = 32) (R114). -/
def Dev.tenHaltMask (d : Dev) (die first : Nat) : Nat :=
  ofBits ((List.range 32).map fun j => d.on? F.TEN_STAT_FLTV die (first + j))

end Sys2Proof.Machine
end

