-- ==== Sys2Proof/Machine/Unfold.lean ====
section
/-!
DEFINITION. Unfold engines (R124–R143): contexts, the parse of segments with its checks, the output walk, output lines and
their answers, row completion.
-/
namespace Sys2Proof.Machine

/-! Segments (R125–R127) -/

/-- A segment header (R125). -/
structure SegHdr where
  tag : Nat
  fmt : Nat
  sform : Bool
  dense : Bool
  resv : Bool
  ng : Nat
  nline : Nat
  nrow : Nat
deriving DecidableEq, Repr

/-- The header of a segment's bytes. -/
def segHdr (bs : Bytes) : SegHdr :=
  let h := field bs 0 8
  ⟨bitsOf h 7 0, bitsOf h 11 8, hasBit h 12, hasBit h 13, bitsOf h 15 14 != 0 || bitsOf h 31 21 != 0, bitsOf h 20 16 + 1,
   bitsOf h 47 32, bitsOf h 63 48⟩

/-- Bytes of a scale record (R127). -/
def recSize (fmt : Nat) (compact : Bool) : Nat :=
  if fmt = 7 then 0 else if fmt = 6 then (if compact then 33 else 48) else (if compact then 9 else 16)

/-- First byte after the bitmaps. -/
def SegHdr.mapsEnd (h : SegHdr) : Nat := if h.dense then 8 else 8 + 4 * h.ng

/-- The bitmap word of group `g` of a segment (R126, R135). -/
def SegHdr.map (h : SegHdr) (bs : Bytes) (g : Nat) : Nat := if h.dense then 2 ^ 32 - 1 else field bs (8 + 4 * g) 4

/-- Present rows of a group. -/
def SegHdr.rowsOf (h : SegHdr) (bs : Bytes) (g : Nat) : Nat := popCount (h.map bs g) 32

/-- Groups before `g` that have a record. -/
def SegHdr.recsBefore (h : SegHdr) (bs : Bytes) (g : Nat) : Nat :=
  ((List.range g).filter fun j => h.rowsOf bs j != 0).length

/-- Present rows of the groups before `g`. -/
def SegHdr.rowsBefore (h : SegHdr) (bs : Bytes) (g : Nat) : Nat := (List.range g).foldl (fun n j => n + h.rowsOf bs j) 0

/-- First byte of the element rows. -/
def SegHdr.elemsAt (h : SegHdr) (bs : Bytes) : Nat := h.mapsEnd + h.recsBefore bs h.ng * recSize h.fmt h.sform

/-- The length in lines that the arrays give (R126). -/
def SegHdr.lines (h : SegHdr) (bs : Bytes) : Nat := ceilDiv (h.elemsAt bs + h.rowsBefore bs h.ng * rowBytes h.fmt) 64

/-- A compact record obeys R127. -/
def recOk (fmt : Nat) (r : Bytes) : Bool :=
  let base := field r 0 1
  let deltas :=
    if fmt = 6 then (List.range 16).map fun l => field r (1 + 2 * l) 2 % 16
    else (List.range 16).map fun l => field r (1 + l / 2) 1 / 16 ^ (l % 2) % 16
  base ≤ 0xFE && deltas.all fun x => x == 15 || base + x ≤ 0xFE

/-- How far the parse of a segment has come. -/
inductive Parse where
  /-- More of its lines are needed. -/
  | more
  /-- It has failed: detail of R140, group, present rows; none where the detail concerns no group. -/
  | fail (code : Nat) (grp : Option (Nat × Nat))
  /-- It is complete and passes. -/
  | whole
deriving DecidableEq, Repr

/-- The checks of R140 in parse order on the bytes of a segment read so far: `left` lines of the row from its header on,
`room` groups the row still takes, the descriptor's format and cap. -/
def segParse (fmt cap room left : Nat) (bs : Bytes) : Parse :=
  let h := segHdr bs
  let have_ := min bs.length (h.nline * 64)
  let seen := if h.dense then h.ng else min h.ng ((have_ - 8) / 4)
  if h.tag ≠ 0x5B then .fail 2 none
  else if h.resv || (h.sform && h.fmt == 7) || h.fmt != fmt then .fail 3 none
  else if left < h.nline then .fail 6 none
  else if room < h.ng then .fail 5 none
  else
    match (List.range seen).find? fun g => cap < h.rowsOf bs g with
    | some g => .fail 4 (some (g, h.rowsOf bs g))
    | none =>
      if seen < h.ng then (if h.nline * 64 ≤ bs.length then .fail 5 none else .more)
      else if h.nrow ≠ h.rowsBefore bs h.ng ∨ h.nline ≠ h.lines bs then .fail 5 none
      else
        let n := recSize h.fmt h.sform
        let recs := (List.range h.ng).filter fun g =>
          h.rowsOf bs g != 0 && decide (h.mapsEnd + (h.recsBefore bs g + 1) * n ≤ bs.length)
        match recs.find? fun g => h.sform && !recOk h.fmt (slice bs (h.mapsEnd + h.recsBefore bs g * n) n) with
        | some g => .fail 7 (some (g, h.rowsOf bs g))
        | none => if h.nline * 64 ≤ bs.length then .whole else .more

/-! Expansion (R127, R128, R135) -/

/-- The scales a group writes, from its record (R127, R135). -/
def groupScales (fmt : Nat) (compact : Bool) (r : Bytes) : Bytes :=
  let scale := fun (x : Nat) => if x = 15 then 0xFF else field r 0 1 + x
  if fmt = 7 then []
  else if fmt = 6 then
    (List.range 16).flatMap fun l =>
      if compact then
        let w := field r (1 + 2 * l) 2
        leBytes 1 (scale (w % 16)) ++ leBytes 2 (w / 16) ++ [0]
      else slice r (3 * l) 3 ++ [0]
  else if compact then (List.range 16).flatMap fun l => leBytes 1 (scale (field r (1 + l / 2) 1 / 16 ^ (l % 2) % 16))
  else r

/-- The scales of a group with no present row (R135). -/
def emptyScales (fmt : Nat) : Bytes :=
  if fmt = 7 then [] else if fmt = 6 then (List.range 16).flatMap fun _ => [0x7F, 0, 0, 0] else List.replicate 16 0x7F

/-- What a segment adds to the element array. -/
def SegHdr.elems (h : SegHdr) (bs : Bytes) (osp : Bool) : Bytes :=
  let s := rowBytes h.fmt
  let at_ := h.elemsAt bs
  if osp then slice bs at_ (h.rowsBefore bs h.ng * s)
  else
    (List.range h.ng).flatMap fun g =>
      let w := h.map bs g
      (List.range 32).flatMap fun j =>
        if hasBit w j then slice bs (at_ + (h.rowsBefore bs g + popCount (w % 2 ^ j) 32) * s) s else zeros s

/-- What a segment adds to the bitmap array. -/
def SegHdr.maps (h : SegHdr) (bs : Bytes) : Bytes := (List.range h.ng).flatMap fun g => leBytes 4 (h.map bs g)

/-- What a segment adds to the scale array. -/
def SegHdr.scales (h : SegHdr) (bs : Bytes) : Bytes :=
  let n := recSize h.fmt h.sform
  (List.range h.ng).flatMap fun g =>
    if h.rowsOf bs g = 0 then emptyScales h.fmt
    else groupScales h.fmt h.sform (slice bs (h.mapsEnd + h.recsBefore bs g * n) n)

/-- Hub cycles that a segment occupies the walk (R139). -/
def SegHdr.walkTime (h : SegHdr) : Nat :=
  ceilDiv (max (h.ng * (32 * rowBytes h.fmt + scaleGroupBytes h.fmt)) (h.nline * 64)) 512

/-! Contexts (R137) -/

/-- A context of an unfold engine replaced. -/
def Dev.setCtx (d : Dev) (die u x : Nat) (c : UCtx) : Dev :=
  let q := d.unfAt die u
  d.setUnf die u { q with ctx := q.ctx.put x c }

/-- A row that has just been given a context. -/
def UCtx.fresh (e n y : Nat) (raw : Bytes) : UCtx :=
  ⟨e, n, y, raw, [], 0, 0, 0, 0, [], [], [], [], [], [], 0, false, [], [], [], false, 0⟩

/-- The entry that a context serves. -/
def UCtx.en (c : UCtx) : Ent := parseEnt c.raw

/-- Lines of the row. -/
def UCtx.lines (c : UCtx) : Nat := c.en.x / 64

/-- The engine works: in RUN or WAIT and not on its way into a halt. -/
def Dev.rowsRun (d : Dev) (die e : Nat) : Bool := d.tenLive die e && !(d.eng die e).halting

/-- The oldest waiting row of an engine that works gets one free context, which one the manual leaves open (R137). -/
def Dev.unfGrant (d : Dev) (die u : Nat) : Dev :=
  let q := d.unfAt die u
  match q.waitq.find? fun w => d.rowsRun die w.1 with
  | none => d
  | some w =>
    match (List.range 4).filter fun x => (q.ctx.at? x).isNone with
    | [] => d
    | xs =>
      match (d.eng die w.1).ents.find? fun r => r.n == w.2.1 with
      | none => d.setUnf die u { q with waitq := q.waitq.erase w }
      | some r =>
        let (k, d1) := d.draw
        let x := xs.getD (Config.freeNat k 0 % xs.length) 0
        let d2 := d1.setUnf die u { q with ctx := q.ctx.put x (UCtx.fresh w.1 w.2.1 w.2.2 r.raw), waitq := q.waitq.erase w }
        d2.put F.UNF_STAT_BUSY (orBit (d2.get F.UNF_STAT_BUSY die u) x) die u

/-- The address of a line of the row's input, in the form of R96. -/
def UCtx.inAddr (c : UCtx) (l : Nat) : Nat := epAdd c.en.src ((c.row : Int) * sext 32 c.en.srow + 64 * l)

/-- A structural check fails (R140): the feeding engine halts with UNFOLD, and the unfold engine records it unless it
holds a record. Where no group is concerned, GROUP and ROWS are not stated; `zero` says that they read 0. -/
def Dev.unfFail (d : Dev) (die u x : Nat) (c : UCtx) (line code : Nat) (grp : Option (Nat × Nat)) (zero : Bool) : Dev :=
  let (k, d0) := d.draw
  let a := c.inAddr line
  let d1 := d0.setCtx die u x { c with bad := true }
  let gr := if zero then (0, 0) else grp.getD (Config.freeNat k 1, Config.freeNat k 2)
  let d2 :=
    if d1.on? F.UNF_STAT_FLTV die u then d1
    else
      let p := ((d1.put F.UNF_STAT_FLTV 1 die u).put F.UNF_STAT_CODE code die u).put F.UNF_STAT_TENG c.eng die u
      let p1 := p.put64 F.UNF_FSEG_LO_ADDR F.UNF_FSEG_HI_ADDR a die u
      ((p1.put F.UNF_FINFO_GROUP gr.1 die u).put F.UNF_FINFO_ROWS gr.2 die u).put F.UNF_FINFO_SEG c.seg die u
  d2.engFail die c.eng c.ent (Config.freeNat k 0 % 2 ^ 32) ⟨0xE, code, a⟩

/-- The window slot of a parsed line is free again (R138). -/
def Dev.lineParsed (d : Dev) (die e n ix : Nat) : Dev :=
  d.slotsDone die e (((d.eng die e).slots.zipIdx.filter fun s => s.1.ent == n && s.1.idx == ix).map (·.2))

/-- A context parses its next line, when it has arrived (R137, R140). -/
def Dev.unfParse (d : Dev) (die u x : Nat) : Dev :=
  match (d.unfAt die u).ctx.at? x with
  | none => d
  | some c =>
    match c.buf.at? c.parsed with
    | none => d
    | some bs =>
      if c.bad || !d.rowsRun die c.eng then d
      else
        let en := c.en
        let start := if c.segBytes.isEmpty then c.parsed else c.segLine
        let seg := c.segBytes ++ bs
        let c1 : UCtx := { c with buf := c.buf.del c.parsed, parsed := c.parsed + 1, segLine := start, segBytes := seg }
        let d1 := d.lineParsed die c.eng c.ent (c.row * en.perRow + c.parsed)
        match segParse en.ufmt en.cap (en.groups - c.grp) (c.lines - start) seg with
        | .fail code g => d1.unfFail die u x c1 start code g false
        | .more => d1.setCtx die u x c1
        | .whole =>
          let h := segHdr seg
          let c2 : UCtx := { c1 with grp := c.grp + h.ng, seg := c.seg + 1, segBytes := [], toWalk := c.toWalk ++ [⟨c.grp, start, seg⟩] }
          if c2.parsed = c.lines ∧ c2.grp ≠ en.groups then d1.unfFail die u x c2 c.lines 5 none true
          else d1.setCtx die u x c2

/-! Output (R135, R136, R138, R141) -/

/-- The first input line that byte `p` of the element array derives from. -/
def UCtx.lineFrom (c : UCtx) (p : Nat) : Nat := ((c.marks.find? fun m => p < m.1).map (·.2)).getD 0

/-- Element lines that are complete, or the last one, made ready. -/
def UCtx.stage (c : UCtx) (final : Bool) : UCtx :=
  let n := if final then ceilDiv c.elems.length 64 else c.elems.length / 64
  let ls := (List.range (n - c.sent)).map fun j =>
    (⟨c.sent + j, slice c.elems (64 * (c.sent + j)) 64, c.lineFrom (64 * (c.sent + j)), false⟩ : OutLine)
  { c with ready := c.ready ++ ls, sent := max c.sent n }

/-- The lines of an array from line `base` of the tile. -/
def arrayLines (base : Nat) (bs : Bytes) : List OutLine :=
  (List.range (ceilDiv bs.length 64)).map fun j => ⟨base + j, slice bs (64 * j) 64, 0, false⟩

/-- The row's last element line, its bitmaps and its scales made ready, once every group is walked. -/
def UCtx.flush (c : UCtx) : UCtx :=
  if c.flushed || !c.toWalk.isEmpty || c.grp != c.en.groups || c.parsed != c.lines then c
  else
    let c1 := c.stage true
    { c1 with flushed := true,
              ready := c1.ready ++ (if c.en.osp then arrayLines c.en.boff c.bits else []) ++ arrayLines c.en.soff c.scales }

/-- A context walks its next segment. -/
def UCtx.walk (c : UCtx) : UCtx :=
  match c.toWalk with
  | [] => c
  | s :: rest =>
    let h := segHdr s.bytes
    let el := c.elems ++ h.elems s.bytes c.en.osp
    ({ c with toWalk := rest, elems := el, bits := c.bits ++ h.maps s.bytes, scales := c.scales ++ h.scales s.bytes,
              marks := c.marks ++ [(el.length, s.line)] }.stage false).flush

/-- A context may be walked: a segment waits, its engine works, and its 4 KiB staging buffer has room (R137). -/
def Dev.walkable (d : Dev) (die : Nat) (c : UCtx) : Bool :=
  !c.toWalk.isEmpty && !c.bad && d.rowsRun die c.eng && c.ready.length < 64

/-- The destination of an output line. -/
def UCtx.leg (c : UCtx) (o : OutLine) : Leg := ⟨c.en.dst, (c.row : Int) * sext 32 c.en.drow + 64 * o.at_, 1, 1, false, 2, 64⟩

/-- A write of an earlier entry of the engine to the destination has not left yet (R106, R136). -/
def Dev.writeBefore (d : Dev) (die : Nat) (c : UCtx) (t : Tgt) : Bool :=
  let g := d.eng die c.eng
  g.slots.any fun s => s.ent < c.ent && s.unwritten && g.writes s && sameDest s.dst t

/-- Output lines of a context leave while they may: at most 64 unacknowledged (R138), translated by the feeding engine,
after earlier writes to their destination. One whose translation fails is kept for RESUME. -/
def Dev.ctxPump (d : Dev) (die u x : Nat) : Nat → Dev
  | 0 => d
  | fuel + 1 =>
    match (d.unfAt die u).ctx.at? x with
    | none => d
    | some c =>
      match c.ready with
      | [] => d
      | o :: rest =>
        if 64 ≤ c.out.length || !d.rowsRun die c.eng then d
        else
          match d.resolve die c.eng (c.leg o) o.again with
          | (.inr f, d1) =>
            let (k, d2) := d1.draw
            (d2.setCtx die u x { c with ready := rest, failed := c.failed ++ [o] }).engFail die c.eng c.ent (Config.freeNat k 0 % 2 ^ 32) f
          | (.inl t, d1) =>
            if d.writeBefore die c t then d
            else
              ((d1.setCtx die u x { c with ready := rest, out := c.out ++ [o] }).engSend die c.eng o.at_ .write t 0 32 o.data
                (some (u, x))).ctxPump die u x fuel

/-- Output lines of an engine's rows leave while they may. -/
def Dev.rowsPump (d : Dev) (die e : Nat) : Dev :=
  (List.range 24).foldl (fun d' u =>
    (d'.unfAt die u).ctx.foldl (fun d2 c => if c.2.eng = e then d2.ctxPump die u c.1 64 else d2) d') d

/-- What follows at once from a change to an engine: writes that may leave do, and a halt that may take effect does. -/
def Dev.engFollow (d : Dev) (die e : Nat) : Dev := ((d.pump die e 256).rowsPump die e).engSettle die e

/-- The output walk takes the next context in turn that may be walked (R137, R139). How long contexts were busy besides
the walk's own cycles is free. -/
def Dev.unfWalk (d : Dev) (die u : Nat) : Dev :=
  let q := d.unfAt die u
  match ((List.range 4).map fun j => (q.rr + 1 + j) % 4).find? fun x => (q.ctx.at? x).any (d.walkable die) with
  | none => d
  | some x =>
    match q.ctx.at? x with
    | none => d
    | some c =>
      let h := segHdr ((c.toWalk.map (·.bytes)).headD [])
      let (k, d0) := d.draw
      let d1 := (d0.setUnf die u { q with rr := x }).setCtx die u x c.walk
      let d2 := d1.count F.UNF_GCNT_COUNT h.ng die u
      (d2.count F.UNF_BUSYC_COUNT (h.walkTime + Config.freeNat k 0) die u).rowsPump die c.eng

/-- An answer to an output line (R138, R141): a failed one is kept for RESUME. -/
def Dev.unfResponse (d : Dev) (die e u x at_ stat : Nat) : Dev :=
  match (d.unfAt die u).ctx.at? x with
  | none => d.countSat F.HUB_RDROP_COUNT 1 die
  | some c =>
    match c.out.find? fun o => o.at_ == at_ with
    | none => d.countSat F.HUB_RDROP_COUNT 1 die
    | some o =>
      let c1 := { c with out := c.out.erase o }
      if stat = 0 then d.setCtx die u x c1
      else
        let l := c.leg o
        let cause := causeOf stat false
        let a : KAcc := ⟨0, 0, 1, false, 0, false⟩
        let (k, d1) := (d.setCtx die u x { c1 with failed := c.failed ++ [o] }).draw
        let d2 := if cause = 4 then d1.krgFault die else d1
        d2.engFail die e c.ent (Config.freeNat k 0 % 2 ^ 32) ⟨cause, if cause = 4 then a.finfo 5 1 false else 0, l.addr⟩

/-- Failed output lines of an engine's rows are to be sent again (R141). -/
def Dev.rowsRetry (d : Dev) (die e : Nat) : Dev :=
  (List.range 24).foldl (fun d' u =>
    let q := d'.unfAt die u
    if q.ctx.any (fun c => c.2.eng == e && !c.2.failed.isEmpty) then
      let again := fun (c : UCtx) => { c with ready := (c.failed.map fun o => { o with again := true }) ++ c.ready, failed := [] }
      d'.setUnf die u { q with ctx := q.ctx.map fun c => if c.2.eng = e then (c.1, again c.2) else c }
    else d') d

/-- A row completes: every input line parsed, every output line answered (R138). Its context is free. -/
def Dev.unfRowDone (d : Dev) (die u x : Nat) : Dev :=
  match (d.unfAt die u).ctx.at? x with
  | none => d
  | some c =>
    if !c.flushed || !c.ready.isEmpty || !c.out.isEmpty || !c.failed.isEmpty then d
    else
      let q := d.unfAt die u
      let d1 := (d.setUnf die u { q with ctx := q.ctx.del x }).put F.UNF_STAT_BUSY (clrBit (d.get F.UNF_STAT_BUSY die u) x) die u
      d1.modEng die c.eng fun g =>
        let es := g.ents.map fun r => if r.n = c.ent then { r with rows := r.rows - 1 } else r
        { g with ents := pruneEnts es }

/-! Commands of an engine and of an unfold engine -/

/-- RESUME with the rows of the engine (R111, R141). -/
def Dev.engResumeAll (d : Dev) (die e : Nat) : Dev :=
  if d.tenSt die e = tenHaltR then ((d.engResume die e).rowsRetry die e).engFollow die e else d

/-- A write to TEN_CTL (R91, R112, R115): PART and ASSIGN only in UNASSIGNED and IDLE; ABORT before START and RESUME. -/
def Dev.tenCtlWrite (d : Dev) (die e v : Nat) : Dev :=
  let st := d.tenSt die e
  let d1 :=
    if st = 0 ∨ st = tenIdle then
      ((d.put F.TEN_CTL_PART (bitsOf v 13 8) die e).put F.TEN_CTL_ASSIGN (bitOf v 14) die e).setTen die e (if hasBit v 14 then tenIdle else 0)
    else d
  if hasBit v 1 then d1.engAbort die e
  else
    let d2 := if hasBit v 0 then d1.engStart die e else d1
    if hasBit v 2 then d2.engResumeAll die e else d2

/-- A write to UNF_CTL (R131): no effect while a context is busy. -/
def Dev.unfCtlWrite (d : Dev) (die u v : Nat) : Dev :=
  if d.get F.UNF_STAT_BUSY die u ≠ 0 then d else d.writeGen ⟨.UNF_CTL, die, u, 0⟩ v

/-- UNF_FLT.MASK (R142). -/
def Dev.unfFltMask (d : Dev) (die : Nat) : Nat := ofBits ((List.range 24).map fun u => d.on? F.UNF_STAT_FLTV die u)

/-- An unfold engine resets with its partition (R131, R141). -/
def Dev.unfReset (d : Dev) (die u : Nat) : Dev :=
  let d1 := [Reg.UNF_STAT, .UNF_FSEG_LO, .UNF_FSEG_HI, .UNF_FINFO, .UNF_GCNT, .UNF_BUSYC].foldl
    (fun d' r => { d' with rf := d'.rf.del ⟨r, die, u, 0⟩ }) d
  { d1 with unfs := d1.unfs.del (die * 24 + u) }

end Sys2Proof.Machine
end

