-- ==== Sys2Proof/Machine/Dsp.lean ====
section
/-!
DEFINITION. The dispatch unit (R144–R163): descriptors, GATE, REPACK and COMBINE, overflow areas, waits and adds, halts,
START and ABORT. A step's reads and its shared-buffer writes are performed as one; its overflow writes go to the HBM
controllers as requests, so that the regulators count them (R154).
-/
namespace Sys2Proof.Machine

/-! Descriptors (R147, R158) -/

/-- A step descriptor. -/
structure Step where
  op : Nat
  flags : Nat
  wtumb : Nat
  wthr : Nat
  atumb : Nat
  aval : Nat
  raw : Bytes
deriving DecidableEq, Repr

/-- The common fields of 128 bytes. -/
def parseStep (b : Bytes) : Step := ⟨field b 0 1, field b 1 1, field b 4 4, field b 8 4, field b 12 4, field b 16 4, b⟩

def Step.wen (s : Step) : Bool := hasBit s.flags 0
def Step.aen (s : Step) : Bool := hasBit s.flags 1

/-- A field of a step. -/
def Step.f (s : Step) (off n : Nat) : Nat := field s.raw off n

def Step.tokens (s : Step) : Nat := s.f 20 2 + 1
def Step.experts (s : Step) : Nat := s.f 22 1 + 1
/-- K of GATE and REPACK. -/
def Step.k (s : Step) : Nat := s.f 23 1 % 16
def Step.cap (s : Step) : Nat := s.f 24 2 + 1
/-- K of COMBINE. -/
def Step.kc (s : Step) : Nat := s.f 24 1 % 16
/-- Bytes of the overflow area that a step writes (R154). -/
def Step.area (s : Step) : Nat := 64 + 16 * s.f 60 4

/-- The bytes from `a` to the one before `b` are 0. -/
def Step.zero (s : Step) (a b : Nat) : Bool := (slice s.raw a (b - a)).all (· == 0)

/-- 4-byte fields are multiples of 64. -/
def Step.al (s : Step) (offs : List Nat) : Bool := offs.all fun o => s.f o 4 % 64 == 0

/-- The descriptor is no reserved encoding (R147, R158). -/
def Step.ok (s : Step) : Bool :=
  s.flags / 4 == 0 && s.zero 2 4 && s.wtumb / 2 ^ 18 == 0 && s.atumb / 2 ^ 18 == 0 && s.aval / 2 ^ 22 == 0 &&
  (match s.op with
   | 0x00 => s.zero 20 128
   | 0x0F => s.zero 20 128
   | 0x01 =>
     s.zero 26 28 && s.zero 64 128 && s.f 23 1 / 64 == 0 && s.al [32, 36, 40, 44, 48, 52] &&
     1 ≤ s.k && s.k ≤ 8 && s.k ≤ s.experts && 4 * s.experts ≤ s.f 36 4 && 4 * s.cap ≤ s.f 44 4
   | 0x02 =>
     s.zero 26 28 && s.zero 36 40 && s.zero 64 128 && s.f 23 1 / 64 == 0 && s.al [40, 44, 48, 52] &&
     1 ≤ s.k && s.k ≤ 8 && s.k ≤ s.experts && bitsOf (s.f 23 1) 5 4 != 0 && 4 * s.cap ≤ s.f 44 4
   | 0x03 =>
     s.zero 25 26 && s.zero 60 128 && s.f 24 1 / 16 == 0 && s.al [28, 32, 36, 40, 44, 48, 52, 56] &&
     1 ≤ s.kc && s.kc ≤ 8 && s.f 20 2 + s.f 22 2 ≤ 65535 && 1 ≤ s.f 26 2 && s.f 26 2 ≤ 1024 &&
     64 * s.f 26 2 ≤ s.f 32 4 && 64 * s.f 26 2 ≤ s.f 40 4
   | _ => false)

/-! The unit -/

/-- A dispatch unit that has not run. -/
def Dsp.initial : Dsp := ⟨0, [], false, 0, 0, false, [], [], 0, [], false, none⟩

/-- The dispatch unit of a die. -/
def Dev.dsp (d : Dev) (die : Nat) : Dsp := d.dsps.atD die Dsp.initial

/-- The dispatch unit changed. -/
def Dev.modDsp (d : Dev) (die : Nat) (f : Dsp → Dsp) : Dev := { d with dsps := d.dsps.put die (f (d.dsp die)) }

/-! DSP_STAT.STATE (R161) -/

def dspIdle : Nat := 1
def dspRun : Nat := 2
def dspWait : Nat := 3
def dspDone : Nat := 4
def dspHalt : Nat := 6
def dspDrain : Nat := 7

def Dev.dspSt (d : Dev) (die : Nat) : Nat := d.get F.DSP_STAT_STATE die
def Dev.setDsp (d : Dev) (die st : Nat) : Dev := d.put F.DSP_STAT_STATE st die
def Dev.dspPart (d : Dev) (die : Nat) : Nat := d.get F.DSP_CTL_PART die

/-- The unit works: in RUN or WAIT, no failure met. -/
def Dev.dspLive (d : Dev) (die : Nat) : Bool :=
  (d.dspSt die == dspRun || d.dspSt die == dspWait) && d.computeUp die && (d.dsp die).fail.isNone

/-! Failures (R161, R162) -/

/-- An armed wait is withdrawn. -/
def Dev.dspWithdraw (d : Dev) (die : Nat) : Dev :=
  let u := d.dsp die
  match u.armed, u.fetched with
  | true, f :: _ =>
    let t := (parseStep f.raw).wtumb
    (d.modDsp die fun u => { u with armed := false }).sendOp (.dsp die) 5 0 u.gen (bitsOf t 17 16) (t % 2 ^ 16) (d.dspPart die) 0 0
  | _, _ => d

/-- The first failure is kept. -/
def Dev.dspFail (d : Dev) (die cause info : Nat) : Dev :=
  (d.dspWithdraw die).modDsp die fun u => if u.fail.isSome then u else { u with fail := some (cause, info) }

/-- A failure is recorded and posted (R162, R447). -/
def Dev.dspRecord (d : Dev) (die : Nat) (x : Nat × Nat) : Dev :=
  let d1 := (d.put F.DSP_STAT_FLTV 1 die).put F.DSP_STAT_CAUSE x.1 die
  let d2 := (d1.put F.DSP_FINFO_INFO x.2 die).put F.DSP_FTICK_TICK (d.tick die % 2 ^ 32) die
  let d3 := if x.1 = 4 then d2.put F.SBF_STAT_OWNERR 1 die else d2
  d3.post die ⟨3, x.1, 0, d.dspPart die, 0, x.2, 0⟩

/-- What follows once no write is outstanding: a halt takes effect (R162); after END, the unit is DONE when its adds are
sent (R147). -/
def Dev.dspSettle (d : Dev) (die : Nat) : Dev :=
  let u := d.dsp die
  let st := d.dspSt die
  if !(st == dspRun || st == dspWait) || !u.out.isEmpty then d
  else
    match u.fail with
    | some x => ((d.dspRecord die x).setDsp die dspHalt).modDsp die fun u => { u with adds := [], fetched := [], fail := none }
    | none => if u.ended && u.adds.isEmpty then (d.setDsp die dspDone).modDsp die fun u => { u with ended := false, fetched := [] } else d

/-! Reads and writes (R145, R160) -/

/-- The outcome of the unit's accesses: a value, or cause and DSP_FINFO of the failure. -/
inductive DR (α : Type) where
  | ok (a : α)
  | bad (cause info : Nat)
deriving Repr

/-- A port on the way of an access is fenced (R272). -/
def Dev.dspFenced (d : Dev) (die space off : Nat) : Bool :=
  (d.fenceOn die die (some 39) (Tgt.gpa (die * 2 ^ 46 + space * 2 ^ 43 + off)).hubPort []).isSome

/-- The access of a line that is refused, with its effects. -/
def Dev.dspDeny (d : Dev) (die space off : Nat) : Option (Nat × Nat) × Dev :=
  if d.dspFenced die space off then (some (6, off / 64), (d.pdrop die).countSat F.HUB_NPATH_COUNT 1 die)
  else if space = 1 then
    (if 384 * 2 ^ 20 ≤ off || !d.ownerOk die off (d.dspPart die) die then (some (4, off / 64), d) else (none, d))
  else if !d.hbmReady die then (some (6, off / 64), d.memRec die (d.downStack die) 8 off)
  else if blankOff off || d.hbmBytes ≤ off then (some (6, off / 64), d)
  else (none, d)

/-- Lines read in order. -/
def Dev.dspLines (d : Dev) (die space : Nat) : List Nat → DR Bytes × Dev
  | [] => (.ok [], d)
  | off :: offs =>
    match d.dspDeny die space off with
    | (some x, d1) => (.bad x.1 x.2, d1)
    | (none, d1) =>
      let (r, d2) := if space = 1 then d1.sbLoad die off 64 else d1.hbLoad die off 64 []
      if r.ue.isSome then (.bad 6 (off / 64), d2)
      else
        match Dev.dspLines d2 die space offs with
        | (.ok bs, d3) => (.ok (r.data ++ bs), d3)
        | (.bad c i, d3) => (.bad c i, d3)

/-- The lines of `n` bytes from a line. -/
def linesAt (off n : Nat) : List Nat := (List.range (ceilDiv n 64)).map fun j => off + 64 * j

/-- Bytes of the shared buffer or of the die's HBM read. -/
def Dev.dspRead (d : Dev) (die space off n : Nat) : DR Bytes × Dev := d.dspLines die space (linesAt off n)

/-- Strings read one after the other: (offset, length). -/
def Dev.dspReads (d : Dev) (die : Nat) : List (Nat × Nat) → DR (List Bytes) × Dev
  | [] => (.ok [], d)
  | (off, n) :: xs =>
    match d.dspRead die 1 off n with
    | (.bad c i, d1) => (.bad c i, d1)
    | (.ok bs, d1) =>
      match Dev.dspReads d1 die xs with
      | (.ok r, d2) => (.ok (bs :: r), d2)
      | (.bad c i, d2) => (.bad c i, d2)

/-- The first line of some arrays whose write is refused. -/
def Dev.dspRefused (d : Dev) (die : Nat) (ws : List (Nat × Bytes)) : Option (Nat × Nat) :=
  (ws.flatMap fun w => linesAt w.1 w.2.length).findSome? fun off => (d.dspDeny die 1 off).1

/-- Arrays written in the shared buffer, or the failure. -/
def Dev.dspWrite (d : Dev) (die : Nat) (ws : List (Nat × Bytes)) : DR Unit × Dev :=
  match d.dspRefused die ws with
  | some x => (.bad x.1 x.2, if x.1 = 6 then (d.pdrop die).countSat F.HUB_NPATH_COUNT 1 die else d)
  | none => (.ok (), ws.foldl (fun d' w => d'.sbStore die w.1 w.2) d)

/-- A line of the overflow window is written: a request that the unit's bucket pays for. -/
def Dev.dspSpill (d : Dev) (die step : Nat) (raw : Bytes) (off : Nat) (bs : Bytes) : Dev :=
  let u := d.dsp die
  let g := d.get F.KRG_PKG_PKG die * 2 ^ 48 + die * 2 ^ 46 + off
  let d1 := d.modDsp die fun u => { u with out := u.out ++ [⟨u.tag, step, off, raw⟩], tag := u.tag + 1 }
  { d1 with sqn := d1.sqn + 1 }.netPut (.req ⟨.dsp die, u.tag, .write, .gpa g, d.dspPart die, 0, 32, bs, none, d1.sqn⟩)

/-! Selection (R149, R150) -/

/-- The place of a binary32 value in the order of R149: NaN 0, then rising, +0 and −0 equal. -/
def rankKey (b : Nat) : Nat :=
  if (fv32 b).isNan then 0 else if hasBit b 31 then 2 ^ 31 - b % 2 ^ 31 else 2 ^ 31 + b % 2 ^ 31

/-- An element put before the first that does not precede it. -/
def insertBy {α : Type} (lt : α → α → Bool) (x : α) : List α → List α
  | [] => [x]
  | y :: ys => if lt y x then y :: insertBy lt x ys else x :: y :: ys

/-- A list put in order; equal elements keep their order. -/
def sortBy {α : Type} (lt : α → α → Bool) : List α → List α
  | [] => []
  | x :: xs => insertBy lt x (sortBy lt xs)

/-- The experts of a token in rank order (R149). -/
def selectK (k : Nat) (scores : List Nat) : List Nat :=
  let before := fun a b =>
    let x := rankKey (scores.getD a 0)
    let y := rankKey (scores.getD b 0)
    y < x || (x == y && a < b)
  (sortBy before (List.range scores.length)).take k

/-- floor(log2(e) · 2^128). -/
def log2E128 : Nat := 490923683258796565746369346286093237521

/-- exp(−m·2^e) scaled by 2^480; 0 where it is below 2^−380. -/
def expNeg (m : Nat) (e : Int) : Nat :=
  if m = 0 then 2 ^ 480
  else if 8 < floorLog2 m e then 0
  else
    let p := m * log2E128
    let y := if 0 ≤ e - 64 then p * 2 ^ (e - 64).toNat else p / 2 ^ (64 - e).toNat
    let i := ceilDiv y (2 ^ 64)
    exp2Frac (i * 2 ^ 64 - y) * 2 ^ 400 / 2 ^ i

/-- A finite non-negative binary32 pattern's value scaled by 2^300. -/
def val300 (b : Nat) : Nat := if b < 2 ^ 23 then b * 2 ^ 151 else (2 ^ 23 + b % 2 ^ 23) * 2 ^ (b / 2 ^ 23 + 150)

/-- A pattern within 4 ulp of the softmax term num/sum (R150), one of them taken by a free number. -/
def softTerm (k num sum : Nat) : Nat :=
  let v := num * 2 ^ 300 / sum
  let ulp := 2 ^ (max v.log2 174 - 23)
  let p := (round32 false v (-300)).1
  let near := ((List.range 18).map fun j => p + j - 9).filter fun b => val300 b ≤ v + 4 * ulp && v ≤ val300 b + 4 * ulp
  near.getD (k % near.length) p

/-- The weights of a token's selected scores (R150), and whether the NaN rule applied. -/
def gateWeights (norm : Bool) (k : Nat) (sel : List Nat) : List Nat × Bool :=
  if !norm then (sel, false)
  else if sel.any fun b => !(fv32 b).isFin then (sel.map fun _ => qNaN, true)
  else
    let s0 := sel.headD 0
    let terms := sel.map fun b =>
      match (fv32 s0).add (fv32 b).neg with
      | .fin _ m e => expNeg m e
      | _ => 0
    let sum := terms.foldl (· + ·) 0
    (terms.zipIdx.map fun t => softTerm (Config.freeNat k t.2) t.1 sum, false)

/-! Slots, counts, records (R151–R156) -/

/-- A selected choice: token, rank, expert, weight, score. -/
structure Choice where
  t : Nat
  r : Nat
  e : Nat
  w : Nat
  s : Nat
deriving DecidableEq, Repr

/-- The bytes of an overflow record (R154). -/
def Choice.record (c : Choice) : Bytes :=
  leBytes 4 c.t ++ leBytes 1 c.e ++ leBytes 1 c.r ++ [0, 0] ++ leBytes 4 c.w ++ leBytes 4 c.s

/-- WHERE of a served choice (R153). -/
def whereOf (pass row : Nat) : Nat := row + 2 ^ 24 * pass + 2 ^ 31

/-- Choices served so far: expert, slot, choice; and those spilled. -/
structure Served where
  slots : List (Nat × Nat × Choice)
  spills : List Choice
deriving DecidableEq, Repr

/-- Choices taken in order into at most `cap` slots of each expert. -/
def serve (cap : Nat) (cs : List Choice) : Served :=
  cs.foldl (fun a c =>
    let n := (a.slots.filter fun x => x.1 == c.e).length
    if n < cap then { a with slots := a.slots ++ [(c.e, n, c)] } else { a with spills := a.spills ++ [c] }) ⟨[], []⟩

/-- Valid count of an expert. -/
def Served.count (v : Served) (e : Nat) : Nat := (v.slots.filter fun x => x.1 == e).length

/-- Bytes completed with zeros to a whole line. -/
def padLine (bs : Bytes) : Bytes := bs ++ zeros ((64 - bs.length % 64) % 64)

/-- The slot lists of a step (R152). -/
def Step.lists (s : Step) (v : Served) : List (Nat × Bytes) :=
  (List.range s.experts).map fun e =>
    (s.f 40 4 + e * s.f 44 4,
     (List.range (ceilDiv s.cap 16 * 16)).flatMap fun i =>
       leBytes 4 (match v.slots.find? fun x => x.1 == e && x.2.1 == i with | some x => x.2.2.t | none => s.f 28 4))

/-- The valid counts of a step (R152). -/
def Step.counts (s : Step) (v : Served) : List (Nat × Bytes) :=
  [(s.f 48 4, padLine ((List.range s.experts).flatMap fun e => leBytes 4 (v.count e)))]

/-- The overflow window's first HBM offset, when the area [at, at + n) lies in the window (R154, R163). -/
def Dev.ovArea (d : Dev) (die woff n : Nat) : Option Nat :=
  let base := d.get F.DSP_OVBASE_BASE die * 2 ^ 16
  let size := d.get F.DSP_OVSIZE_SIZE die * 2 ^ 16
  if size = 0 ∨ size < woff + n ∨ d.hbmBytes < base + size then none else some (base + woff)

/-- Records and header written to the overflow area at HBM offset `area` (R154, R155); the bytes of the last record line
that no record fills are free. NLOST is given back. -/
def Dev.dspOverflow (d : Dev) (die step : Nat) (s : Step) (area : Nat) (v : Served) (ncand : Nat) : Nat × Dev :=
  let (k, d0) := d.draw
  let n := min v.spills.length (s.f 60 4)
  let lost := v.spills.length - n
  let recs := (v.spills.take n).flatMap Choice.record
  let line := fun (j : Nat) => (List.range 64).map fun b => recs.getD (64 * j + b) (Config.freeByte k (64 * j + b))
  let d1 := (List.range (ceilDiv recs.length 64)).foldl (fun d' j => d'.dspSpill die step s.raw (area + 64 + 64 * j) (line j)) d0
  let hdr := leBytes 4 n ++ leBytes 4 lost ++ leBytes 4 ncand ++ leBytes 4 v.slots.length ++ zeros 48
  let d2 := d1.dspSpill die step s.raw area hdr
  (lost, (d2.count F.DSP_NSPILL_COUNT n die).countSat F.DSP_NLOST_COUNT lost die)

/-! Operations -/

/-- A step's result: OVF_FULL with NLOST when records were lost (R155). -/
def Dev.dspFull (x : Nat × Dev) : DR Unit × Dev := if x.1 = 0 then (.ok (), x.2) else (.bad 9 x.1, x.2)

/-- GATE performed (R148–R155). -/
def Dev.gateRun (d : Dev) (die step : Nat) (s : Step) : DR Unit × Dev :=
  match d.ovArea die (64 * s.f 56 4) s.area with
  | none => (.bad 8 (s.f 56 4), d)
  | some area =>
    match d.dspReads die ((List.range s.tokens).map fun t => (s.f 32 4 + t * s.f 36 4, 4 * s.experts)) with
    | (.bad c i, d1) => (.bad c i, d1)
    | (.ok rows, d1) =>
      let (k, d2) := d1.draw
      let norm := hasBit (s.f 23 1) 5
      let toks := rows.zipIdx.map fun row =>
        let sc := (List.range s.experts).map fun e => field row.1 (4 * e) 4
        let sel := selectK s.k sc
        let (ws, nan) := gateWeights norm (k + 2 ^ 32 * row.2) (sel.map fun e => sc.getD e 0)
        ((sel.zipIdx.map fun (x : Nat × Nat) => (⟨row.2, x.2, x.1, ws.getD x.2 0, sc.getD x.1 0⟩ : Choice)), nan)
      let cs := toks.flatMap (·.1)
      let order := (List.range s.experts).flatMap fun e =>
        let l := cs.filter fun c => c.e == e
        if hasBit (s.f 23 1) 4 then sortBy (fun a b => rankKey b.s < rankKey a.s || (rankKey a.s == rankKey b.s && a.t < b.t)) l else l
      let v := serve s.cap order
      let entry := fun (c : Choice) =>
        leBytes 4 (match v.slots.find? fun x => x.2.2.t == c.t && x.2.2.r == c.r with | some x => whereOf 0 (x.1 * s.cap + x.2.1) | none => 0) ++
          leBytes 4 c.w
      let d3 := d2.countSat F.DSP_NNAN_COUNT (toks.filter (·.2)).length die
      match d3.dspWrite die (s.lists v ++ s.counts v ++ [(s.f 52 4, padLine (cs.flatMap entry))]) with
      | (.bad c i, d4) => (.bad c i, d4)
      | (.ok (), d4) => Dev.dspFull (d4.dspOverflow die step s area v cs.length)

/-- Combine-table entries rewritten one by one, each as a read-modify-write of its line (R156, R159). -/
def Dev.dspEntries (d : Dev) (die ctab k : Nat) : List (Nat × Choice) → DR Unit × Dev
  | [] => (.ok (), d)
  | (w, c) :: xs =>
    let off := ctab + (c.t * k + c.r) * 8
    match d.dspRead die 1 (off / 64 * 64) 64 with
    | (.bad ca i, d1) => (.bad ca i, d1)
    | (.ok bs, d1) =>
      Dev.dspEntries (d1.sbStore die (off / 64 * 64) (overlay bs (off % 64) (leBytes 4 w ++ leBytes 4 c.w))) die ctab k xs

/-- The record at place `j` of the input area, if it obeys R156. -/
def Step.recordOk (s : Step) (bs : Bytes) (j : Nat) : Option Choice :=
  let t := field bs (16 * j) 4
  let e := field bs (16 * j + 4) 1
  let r := field bs (16 * j + 5) 1
  if s.f 20 2 < t ∨ s.f 22 1 < e ∨ s.k ≤ r ∨ field bs (16 * j + 6) 2 ≠ 0 then none
  else some ⟨t, r, e, field bs (16 * j + 8) 4, field bs (16 * j + 12) 4⟩

/-- REPACK performed (R156). -/
def Dev.repackRun (d : Dev) (die step : Nat) (s : Step) : DR Unit × Dev :=
  match d.ovArea die (64 * s.f 56 4) s.area, d.ovArea die (64 * s.f 32 4) 64 with
  | none, _ => (.bad 8 (s.f 56 4), d)
  | _, none => (.bad 8 (s.f 32 4), d)
  | some area, some inp =>
    match d.dspRead die 0 inp 64 with
    | (.bad c i, d1) => (.bad c i, d1)
    | (.ok h, d1) =>
      let n := field h 0 4
      if (d1.ovArea die (64 * s.f 32 4) (64 + 16 * n)).isNone then (.bad 8 (s.f 32 4), d1)
      else
        match d1.dspRead die 0 (inp + 64) (16 * n) with
        | (.bad c i, d2) => (.bad c i, d2)
        | (.ok bs, d2) =>
          match (List.range n).find? fun j => (s.recordOk bs j).isNone with
          | some j => (.bad 0x0A j, d2)
          | none =>
            let v := serve s.cap ((List.range n).filterMap fun j => s.recordOk bs j)
            let pass := bitsOf (s.f 23 1) 5 4
            match d2.dspWrite die (s.lists v ++ s.counts v) with
            | (.bad c i, d3) => (.bad c i, d3)
            | (.ok (), d3) =>
              match d3.dspEntries die (s.f 52 4) s.k (v.slots.map fun x => (whereOf pass (x.1 * s.cap + x.2.1), x.2.2)) with
              | (.bad c i, d4) => (.bad c i, d4)
              | (.ok (), d4) => Dev.dspFull (d4.dspOverflow die step s area v n)

/-- One output row of COMBINE (R157): served choices as (weight, row bytes) in rank order. -/
def combineRow (lanes : Nat) (xs : List (Nat × Bytes)) : Bytes :=
  (List.range lanes).flatMap fun l => leBytes 4 (xs.foldl (fun acc x => (ffma x.1 (field x.2 (4 * l) 4) acc).1) 0)

/-- Tokens of a COMBINE one after the other. -/
def Dev.combineTokens (d : Dev) (die : Nat) (s : Step) : List Nat → DR Unit × Dev
  | [] => (.ok (), d)
  | t :: ts =>
    let off := s.f 36 4 + t * s.kc * 8
    match d.dspRead die 1 (off / 64 * 64) (off % 64 + 8 * s.kc) with
    | (.bad c i, d1) => (.bad c i, d1)
    | (.ok bs, d1) =>
      let es : List (Nat × Nat) := ((List.range s.kc).map fun r => (field bs (off % 64 + 8 * r) 4, field bs (off % 64 + 8 * r + 4) 4)).filter fun e => hasBit e.1 31
      match d1.dspReads die (es.map fun (e : Nat × Nat) => (s.f (44 + 4 * bitsOf e.1 25 24) 4 + bitsOf e.1 23 0 * s.f 40 4, 64 * s.f 26 2)) with
      | (.bad c i, d2) => (.bad c i, d2)
      | (.ok rows, d2) =>
        match d2.dspWrite die [(s.f 28 4 + (t - s.f 20 2) * s.f 32 4, combineRow (16 * s.f 26 2) ((es.map fun e => e.2).zip rows))] with
        | (.bad c i, d3) => (.bad c i, d3)
        | (.ok (), d3) => Dev.combineTokens d3 die s ts

/-- COMBINE performed (R157). -/
def Dev.combineRun (d : Dev) (die : Nat) (s : Step) : DR Unit × Dev :=
  d.combineTokens die s ((List.range (s.f 22 2 + 1)).map fun j => s.f 20 2 + j)

/-! Undefined outputs (R162) -/

/-- Storage of a shared buffer that the unit owns, in [off, off + n), left undefined. -/
def Dev.sbUndef (d : Dev) (die off n : Nat) : Dev :=
  (List.range ((off % 2 ^ 20 + n + 2 ^ 20 - 1) / 2 ^ 20)).foldl (fun d' j =>
    let a := max off ((off / 2 ^ 20 + j) * 2 ^ 20)
    let b := min (off + n) ((off / 2 ^ 20 + j + 1) * 2 ^ 20)
    if a < 384 * 2 ^ 20 && d'.ownerOk die a (d'.dspPart die) die then
      { d' with unwritten := (gpaBase die 1 + a, b - a) :: cutRange d'.unwritten (gpaBase die 1 + a) (b - a) }
    else d') d

/-- The token lists and the counts of a step become undefined. -/
def Dev.undefLists (d : Dev) (die : Nat) (s : Step) : Dev :=
  ((List.range s.experts).foldl (fun x e => x.sbUndef die (s.f 40 4 + e * s.f 44 4) (up64 (4 * s.cap))) d).sbUndef die (s.f 48 4)
    (up64 (4 * s.experts))

/-- The overflow area of a step becomes undefined. -/
def Dev.undefArea (d : Dev) (die : Nat) (s : Step) : Dev :=
  match d.ovArea die (64 * s.f 56 4) s.area with
  | some a => { d with unwritten := (gpaBase die 0 + a, up64 s.area) :: cutRange d.unwritten (gpaBase die 0 + a) (up64 s.area) }
  | none => d

/-- Every output of a step left undefined. -/
def Dev.dspUndef (d : Dev) (die : Nat) (s : Step) : Dev :=
  match s.op with
  | 1 => ((d.undefLists die s).sbUndef die (s.f 52 4) (up64 (8 * s.tokens * s.k))).undefArea die s
  | 2 => ((d.undefLists die s).sbUndef die (s.f 52 4) (up64 (8 * s.tokens * s.k))).undefArea die s
  | 3 => (List.range (s.f 22 2 + 1)).foldl (fun x j => x.sbUndef die (s.f 28 4 + j * s.f 32 4) (64 * s.f 26 2)) d
  | _ => d

/-! Steps -/

/-- The unit's fetch (R93, R146): one descriptor ahead. -/
def Dev.dspFetch (d : Dev) (die : Nat) : Dev :=
  let u := d.dsp die
  let n := u.fetchN
  let stopped := (u.fetched.getLast?).any fun f => f.st == .limit
  if !d.dspLive die || u.ended || 2 ≤ u.fetched.length || stopped then d
  else
    let push := fun (d' : Dev) (raw : Bytes) (st : FetchSt) => d'.modDsp die fun u => { u with fetched := u.fetched ++ [⟨n, raw, st⟩], fetchN := n + 1 }
    let pos := d.get F.DSP_LBASE_BASE die + 2 * n
    if d.get F.DSP_LLIMIT_LIMIT die < pos + 2 then push d [] .limit
    else if 384 * 2 ^ 20 < (pos + 2) * 64 || !d.ownerOk die (pos * 64) (d.dspPart die) die then push d [] .owner
    else
      let (r, d1) := d.sbLoad die (pos * 64) 128
      push d1 r.data (if r.ue.isSome then .ue else .ok)

/-- The step has been executed: it leaves the list, and its add is to be sent. -/
def Dev.dspRan (d : Dev) (die : Nat) (n : Nat) (s : Step) : Dev :=
  let add := if s.aen then [(⟨n, bitsOf s.atumb 17 16, s.atumb % 2 ^ 16, s.aval⟩ : DspAdd)] else []
  d.modDsp die fun u => { u with fetched := u.fetched.drop 1, met := false, adds := u.adds ++ add, ended := s.op == 0x0F }

/-- The step's work, its result taken. -/
def Dev.dspWork (d : Dev) (die n : Nat) (s : Step) : Dev :=
  let (r, d1) := match s.op with
    | 1 => d.gateRun die n s
    | 2 => d.repackRun die n s
    | 3 => d.combineRun die s
    | _ => (.ok (), d)
  match r with
  | .ok () => d1.dspRan die n s
  | .bad c i => (if c = 9 then d1 else d1.dspUndef die s).dspFail die c i

/-- A tumbler of a step lies in the partition's range. -/
def Dev.dspTumbOk (d : Dev) (die t : Nat) : Bool := d.tumbOk die (d.dspPart die) t

/-- The next step is executed as far as it can be (R147, R158): its own failures, its tumblers, its wait, its work. `op` is
the operation that the command stands for. A REPACK reads only after the unit's earlier overflow writes (R160). -/
def Dev.dspBegin (d : Dev) (die op : Nat) : Dev :=
  let u := d.dsp die
  if d.dspSt die ≠ dspRun ∨ d.dspLive die = false ∨ u.ended = true then d
  else
    match u.fetched with
    | [] => d
    | f :: _ =>
      let s := parseStep f.raw
      let known := [0x00, 0x01, 0x02, 0x03, 0x0F].contains s.op
      if f.st == .ok && known && s.op != op then d
      else if f.st == .ok && s.op == 2 && !u.out.isEmpty then d
      else
        let d1 := d.put F.DSP_STEP_INDEX (f.n % 2 ^ 23) die
        let pos := d.get F.DSP_LBASE_BASE die + 2 * f.n
        (match f.st with
         | .limit => d1.dspFail die 2 0
         | .owner => d1.dspFail die 4 pos
         | .ue => d1.dspFail die 1 0
         | .ok =>
           if !s.ok then d1.dspFail die 3 0
           else if s.wen && !d.dspTumbOk die s.wtumb then (d1.dspUndef die s).dspFail die 5 s.wtumb
           else if s.aen && !d.dspTumbOk die s.atumb then (d1.dspUndef die s).dspFail die 5 s.atumb
           else if s.wen && !u.met then
             let g := (u.gen + 1) % 16
             let d2 := d1.modDsp die fun u => { u with armed := true, waitAt := d.tick die, gen := g }
             (d2.setDsp die dspWait).sendOp (.dsp die) 4 0 g (bitsOf s.wtumb 17 16) (s.wtumb % 2 ^ 16) (d.dspPart die) s.wthr 0
           else d1.dspWork die f.n s).dspSettle die

/-- A WAKE reaches the unit: stale generations are discarded (R101, R147). -/
def Dev.dspWake (d : Dev) (die gen : Nat) : Dev :=
  let u := d.dsp die
  if u.armed && u.gen == gen && d.dspSt die == dspWait then
    (d.modDsp die fun u => { u with armed := false, met := true }).setDsp die dspRun
  else d

/-- The wait runs out (R147, R8). -/
def Dev.dspTimeout (d : Dev) (die : Nat) : Dev :=
  let u := d.dsp die
  let t := d.get F.DSP_WTMO_TICKS die
  match u.fetched with
  | [] => d
  | f :: _ =>
    if u.armed && d.dspSt die == dspWait && t != 0 && d.late die u.waitAt t && d.computeUp die then
      let s := parseStep f.raw
      ((d.dspUndef die s).dspFail die 7 s.wtumb).dspSettle die
    else d

/-- The oldest add is sent, once every write of its step is acknowledged (R147). -/
def Dev.dspAdd (d : Dev) (die : Nat) : Dev :=
  let u := d.dsp die
  match u.adds with
  | [] => d
  | a :: as =>
    if !d.dspLive die || u.out.any (fun o => o.step == a.step) then d
    else
      let d1 := d.modDsp die fun u => { u with adds := as, unacked := u.unacked ++ [(a.home, a.idx)] }
      (d1.sendOp (.dsp die) 3 0 0 a.home a.idx (d.dspPart die) a.val 0).dspSettle die

/-- An ACK reaches the unit. -/
def Dev.dspAck (d : Dev) (die home idx : Nat) : Dev :=
  d.modDsp die fun u => { u with unacked := u.unacked.erase (home, idx) }

/-- An answer to an overflow write (R278). -/
def Dev.dspResponse (d : Dev) (die tag stat : Nat) : Dev :=
  match (d.dsp die).out.find? fun o => o.tag == tag with
  | none => d.countSat F.HUB_RDROP_COUNT 1 die
  | some o =>
    let d1 := d.modDsp die fun u => { u with out := u.out.erase o }
    (if stat = 0 then d1 else (d1.dspUndef die (parseStep o.raw)).dspFail die 6 (o.off / 64)).dspSettle die

/-! START, ABORT, DRAIN (R162) -/

/-- START. -/
def Dev.dspStart (d : Dev) (die : Nat) : Dev :=
  let st := d.dspSt die
  if !d.computeUp die || !(st == dspIdle || st == dspDone) then d
  else
    let d1 := ((d.put F.DSP_STAT_FLTV 0 die).put F.DSP_STAT_CAUSE 0 die).setDsp die dspRun
    let d2 := [Reg.DSP_FINFO, .DSP_FTICK, .DSP_STEP].foldl (fun d' r => d'.setRaw ⟨r, die, 0, 0⟩ 0) d1
    d2.modDsp die fun u => { Dsp.initial with gen := u.gen, tag := u.tag }

/-- ABORT. -/
def Dev.dspAbort (d : Dev) (die : Nat) : Dev :=
  let st := d.dspSt die
  if !d.computeUp die || !(st == dspRun || st == dspWait || st == dspHalt) then d
  else ((d.dspWithdraw die).setDsp die dspDrain).modDsp die fun u => { u with fetched := [], adds := [], met := false, ended := false }

/-- The unit enters IDLE once its issued writes are answered. -/
def Dev.dspDrained (d : Dev) (die : Nat) : Dev :=
  let u := d.dsp die
  if d.dspSt die ≠ dspDrain ∨ u.out.isEmpty = false then d
  else
    let d1 := match u.fail with | some x => d.dspRecord die x | none => d
    (d1.setDsp die dspIdle).modDsp die fun u => { Dsp.initial with gen := u.gen, tag := u.tag }

/-- A write to DSP_CTL (R144, R162). -/
def Dev.dspCtlWrite (d : Dev) (die v : Nat) : Dev :=
  let st := d.dspSt die
  let d1 :=
    if st = 0 ∨ st = dspIdle then
      ((d.put F.DSP_CTL_PART (bitsOf v 13 8) die).put F.DSP_CTL_ASSIGN (bitOf v 14) die).setDsp die (if hasBit v 14 then dspIdle else 0)
    else d
  if hasBit v 1 then d1.dspAbort die else if hasBit v 0 then d1.dspStart die else d1

/-- A write to DSP_OVBASE or DSP_OVSIZE (R163). -/
def Dev.dspOvWrite (d : Dev) (die : Nat) (r : Reg) (v : Nat) : Dev :=
  if d.dspSt die = 0 ∨ d.dspSt die = dspIdle then d.writeGen ⟨r, die, 0, 0⟩ v else d

/-- The unit resets with its partition (R162): the outputs of the step in progress are undefined. -/
def Dev.dspReset (d : Dev) (die : Nat) : Dev :=
  let d0 := (d.dsp die).out.foldl (fun d' o => d'.dspUndef die (parseStep o.raw)) (d.dspWithdraw die)
  let d1 := [Reg.DSP_STAT, .DSP_STEP, .DSP_FINFO, .DSP_FTICK, .DSP_NSPILL, .DSP_NLOST, .DSP_NNAN].foldl
    (fun d' r => { d' with rf := d'.rf.del ⟨r, die, 0, 0⟩ }) d0
  (d1.setDsp die (if d1.on? F.DSP_CTL_ASSIGN die then dspIdle else 0)).modDsp die fun u => { Dsp.initial with gen := u.gen, tag := u.tag }

end Sys2Proof.Machine
end

