-- ==== Sys2Proof/Machine/Tumblers.lean ====
section
/-!
DEFINITION. Control messages at their receivers (R170–R181) and the registers of the tumbler block (R169, R179, R180, R182).
-/
namespace Sys2Proof.Machine

/-! Messages -/

/-- The message at place `n` in flight, when it carries `opc` and is the first between its ends (operations from one issuer
to one home are applied in issue order, R172). -/
def Dev.ctlAt (d : Dev) (n opc : Nat) : Option CtlMsg :=
  match d.ctl[n]? with
  | none => none
  | some m =>
    if m.opc == opc && !((d.ctl.take n).any fun x => x.src == m.src && x.dst == m.dst) then some m else none

/-- The message at place `n` is no longer in flight. -/
def Dev.ctlDrop (d : Dev) (n : Nat) : Dev := { d with ctl := d.ctl.eraseIdx n }

/-- The message finds its way: its receiver's carrier domain is powered and reached (R181). -/
def Dev.ctlPath (d : Dev) (m : CtlMsg) : Bool :=
  d.carrierUp m.dst.die && (m.src.die == m.dst.die || (routePath (d.kmap m.src.die) m.src.die m.dst.die).isSome)

/-- The waiter or issuer that a message names: a core in test mode has no number of its own, and a queue pair's add is known
by its Ethernet port (R360). -/
def CtlMsg.who (m : CtlMsg) : Option Ep :=
  match m.src with
  | .phys k => some (.phys k)
  | .qp die q => some (.qp die q)
  | _ => peerEp m.peer

/-- The home acknowledges a RADD from an engine, a dispatch unit or another package (R170). -/
def Dev.ackRadd (d : Dev) (home : Nat) (m : CtlMsg) : Dev :=
  match m.who with
  | some (.core _) => d
  | some (.phys _) => d
  | some (.stw _) => d
  | some w => d.send ⟨.bank home, w, 0x08, m.slot, m.gen, m.peer, m.tumb, 0, 0⟩
  | none => d

/-- An operation at its home bank (R170–R173). A message whose PEER is reserved and that asks for an answer is discarded. -/
def Dev.bankRun (d : Dev) (home : Nat) (m : CtlMsg) : Dev :=
  let idx := m.tumb % 2 ^ 16
  match m.opc with
  | 0x01 => d.bankAdd home idx m.val
  | 0x02 => d.bankSet home idx m.val
  | 0x03 => (d.bankAdd home idx m.val).ackRadd home m
  | 0x04 => match m.who with | some w => d.bankArm ⟨home, idx, m.val, w, m.slot, m.gen⟩ | none => d.chkFail m
  | 0x05 => match m.who with | some w => d.bankWithdraw home w m.slot | none => d.chkFail m
  | 0x06 =>
    match m.who with
    | some w =>
      let v := d.tumbler home idx
      let d1 := if v = m.val then d.bankAdd home idx (m.imm % 2 ^ 22) else d
      d1.send ⟨.bank home, w, 0x0A, m.slot, m.gen, m.peer, m.tumb, v, 0⟩
    | none => d.chkFail m
  | _ => d.chkFail m

/-- A reply at a core (R77, R79, R171): discarded at a deadbolt (R36), or by a parked, reset or unpowered cell. -/
def Dev.coreRun (d : Dev) (cn p : Nat) (m : CtlMsg) : Dev :=
  let key := coreKey cn p
  if d.deadbolt cn p then d.dbDiscard cn p
  else if !d.cellRuns cn then d
  else if m.opc = 0x09 then d.setCore key ((d.coreAt key).wake m.slot m.gen)
  else if m.opc = 0x0A then d.setCore key ((d.coreAt key).cval (m.tumb % 2 ^ 18) m.val)
  else d.chkFail m

/-- A trap event at a steward: the record of R447, from the core's trap record (R87). -/
def Dev.trapEvent (d : Dev) (die : Nat) (m : CtlMsg) : Dev :=
  match m.who with
  | some (.core l) =>
    let cn := lcoreCell l
    let key := d.physOf l
    let t := (d.coreAt key).trap
    d.stwPost die ⟨1, m.val, 0, d.partOf cn, coreUnit l (key % 256) cn, field t 16 4, field t 4 2⟩
  | _ => d

/-- A WAKE at a steward (R180): MET, the value, and its interrupt for as long as MET is set. -/
def Dev.swWake (d : Dev) (die : Nat) (m : CtlMsg) : Dev :=
  if d.on? F.TMB_SWCTL_ARMED die && d.swGen.getD die 0 == m.gen then
    ((d.put F.TMB_SWCTL_ARMED 0 die).put F.TMB_SWCTL_MET 1 die).put F.TMB_SWVAL_VALUE m.val die
  else d

/-- An engine's control message: a WAKE or the ACK of an add. -/
def Dev.engRun (d : Dev) (die e : Nat) (m : CtlMsg) : Dev :=
  if !d.computeUp die then d
  else if m.opc = 0x09 then d.engWake die e m.gen
  else if m.opc = 0x08 then d.engAck die e (bitsOf m.tumb 17 16) (m.tumb % 2 ^ 16)
  else d.chkFail m

/-- A dispatch unit's control message. -/
def Dev.dspRunMsg (d : Dev) (die : Nat) (m : CtlMsg) : Dev :=
  if !d.computeUp die then d
  else if m.opc = 0x09 then d.dspWake die m.gen
  else if m.opc = 0x08 then d.dspAck die (bitsOf m.tumb 17 16) (m.tumb % 2 ^ 16)
  else d.chkFail m

/-! Registers -/

/-- A write to TMB_RANGE of home die `h` and partition `p` (R168, R169). -/
def Dev.rangeWrite (d : Dev) (die i v : Nat) : Dev :=
  let h := i / 64
  let base := bitsOf v 9 0
  let num := bitsOf v 20 10
  if 1024 < num ∨ 1024 < base + num then
    (d.put F.TMB_RANGE_REMOTE (bitOf v 21) die i).put F.TMB_STAT_RANGEERR 1 die
  else if (List.range 48).any fun p =>
      p != i % 64 && (let r := d.rangeAt die h p; decide (max base r.base < min (base + num) (r.base + r.num))) then
    d.put F.TMB_STAT_RANGEERR 1 die
  else d.setRaw ⟨.TMB_RANGE, die, i, 0⟩ (v % 2 ^ 22)

/-- A BCAST goes to every cell of a mask (R179); VAL carries the command. -/
def Dev.bcastTo (d : Dev) (die mask cmd : Nat) : Dev :=
  ((List.range d.ncells).filter (hasBit mask)).foldl
    (fun d' cn => d'.send ⟨.stw die, .cell cn, 0x11, 0, 0, (Ep.stw die).peer, 0, cmd, 0⟩) d

/-- A write to TMB_BCCMD. -/
def Dev.bcastWrite (d : Dev) (die v : Nat) : Dev :=
  let cmd := v % 4
  if cmd = 1 ∨ cmd = 2 then d.bcastTo die (d.get F.TMB_BCMASK_LO_CELLS die + 2 ^ 32 * d.get F.TMB_BCMASK_HI_CELLS die) cmd else d

/-- The steward's armed wait is withdrawn (R180). -/
def Dev.swWithdraw (d : Dev) (die : Nat) : Dev :=
  if d.on? F.TMB_SWCTL_ARMED die then
    (d.put F.TMB_SWCTL_ARMED 0 die).sendOp (.stw die) 5 0 (d.swGen.getD die 0) (d.get F.TMB_SWTUMB_DIE die)
      (d.get F.TMB_SWTUMB_INDEX die) 0 0 0
  else d

/-- The steward's wait is armed (R180). -/
def Dev.swArm (d : Dev) (die : Nat) : Dev :=
  let d1 := (d.swWithdraw die).put F.TMB_SWCTL_MET 0 die
  let g := (d.swGen.getD die 0 + 1) % 16
  ({ d1 with swGen := d1.swGen.set die g }.put F.TMB_SWCTL_ARMED 1 die).sendOp (.stw die) 4 0 g
    (d1.get F.TMB_SWTUMB_DIE die) (d1.get F.TMB_SWTUMB_INDEX die) 0 (d1.get F.TMB_SWTHR_THR die) 0

/-- A write to TMB_SWCTL (R180): MET under W1C; WITHDRAW prevails over ARM. -/
def Dev.swCtlWrite (d : Dev) (die v : Nat) : Dev :=
  let d1 := if hasBit v 3 then d.put F.TMB_SWCTL_MET 0 die else d
  if hasBit v 1 then d1.swWithdraw die else if hasBit v 0 then d1.swArm die else d1

/-- Armed waits at a home: TMB_WAITS.ARMED. -/
def Dev.waitsAt (d : Dev) (home : Nat) : Nat := (d.waits.filter fun w => w.home == home).length

end Sys2Proof.Machine
end

