-- ==== Sys2Proof/Machine/Hub.lean ====
section
/-!
DEFINITION. Hub deadbolts, fences and the knuckle map (R271–R275), knuckle training (R281–R284) and flits (R285–R290). A
packet or control message stands in one list from its issue to its receiver; what a flit's slots hold is therefore already
there, and a received flit acts on the link layer, and on a header that is no request (R277).
-/
namespace Sys2Proof.Machine

/-! Deadbolts at the hub (R271, R292) -/

/-- The HUB_DB of a core, `s` as its selector gives it, is written. -/
def Dev.hubDbSet (d : Dev) (die s v : Nat) : Dev :=
  let d1 := if hasBit v 9 then d.put F.HUB_DB_DBERR 0 die 0 s else d
  let db := hasBit v 0
  let clr := hasBit v 8
  let cell := d1.on? F.CMP_PCTL_DEADBOLT die (s / 1024) (s % 1024)
  if db && (clr || !cell) then d1.put F.HUB_DB_DBERR 1 die 0 s
  else if db then d1.put F.HUB_DB_DEADBOLT 1 die 0 s
  else if clr then (d1.put F.HUB_DB_DEADBOLT 0 die 0 s).put F.HUB_DBDROP_COUNT 0 die 0 s
  else d1

/-- A write to HUB_DB of the selected core. -/
def Dev.hubDbWrite (d : Dev) (die v : Nat) : Dev := d.hubDbSet die (d.selOf .HUB_DB die 0) v

/-- A write to a HUB_PFENCE register (R272). -/
def Dev.fenceWrite (d : Dev) (die : Nat) (r : Reg) (v : Nat) : Dev := d.writeGen ⟨r, die, 0, 0⟩ v

/-- A write to HUB_KMAP: EN (R275). -/
def Dev.kmapWrite (d : Dev) (die v : Nat) : Dev := d.put F.HUB_KMAP_EN (bitsOf v 7 4) die

/-! The knuckle map (R273–R275) -/

/-- The dies a knuckle joins: 0–1, 0–2, 1–3, 2–3. -/
def knuckleEnds (k : Nat) : Nat × Nat :=
  match k with
  | 0 => (0, 1)
  | 1 => (0, 2)
  | 2 => (1, 3)
  | _ => (2, 3)

/-- The knuckles that the package builds. -/
def Dev.knuckles (d : Dev) : List Nat := if d.gf2 then [0] else [0, 1, 2, 3]

/-- The knuckle at an instance of a die. -/
def knuckleAt (die inst : Nat) : Nat := knuckleBit die (if inst = 0 then die ^^^ 1 else die ^^^ 2)

/-- The register instance of a knuckle at one of its ends. -/
def endInst (k die : Nat) : Nat :=
  let e := knuckleEnds k
  knuckleInst die (if die = e.1 then e.2 else e.1)

/-- UP and EN of a knuckle cleared in a die's map. -/
def Dev.kmapClear (d : Dev) (die k : Nat) : Dev :=
  (d.put F.HUB_KMAP_UP (clrBit (d.get F.HUB_KMAP_UP die) k) die).put F.HUB_KMAP_EN (clrBit (d.get F.HUB_KMAP_EN die) k) die

/-- A knuckle leaves service (R274): its ends clear its bits, and a map update is on its way to every die. -/
def Dev.knkOut (d : Dev) (k : Nat) : Dev :=
  let e := knuckleEnds k
  if !hasBit (d.get F.HUB_KMAP_UP e.1) k && !hasBit (d.get F.HUB_KMAP_UP e.2) k then d
  else
    let d1 := (d.kmapClear e.1 k).kmapClear e.2 k
    { d1 with mapUpd := d1.mapUpd.filter (fun x => x.2 != k) ++ (List.range d1.ndies).map fun die => (die, k) }

/-- A knuckle's training completes (R275): UP on every powered die; its ends hold one map of what is up. -/
def Dev.knkUp (d : Dev) (k : Nat) : Dev :=
  let e := knuckleEnds k
  let ups := d.get F.HUB_KMAP_UP e.1 ||| d.get F.HUB_KMAP_UP e.2
  let d1 := (d.put F.HUB_KMAP_UP ups e.1).put F.HUB_KMAP_UP ups e.2
  { (List.range d1.ndies).foldl (fun d' die =>
      if d'.carrierUp die then d'.put F.HUB_KMAP_UP (orBit (d'.get F.HUB_KMAP_UP die) k) die else d') d1 with
    mapUpd := d1.mapUpd.filter fun x => x.2 != k }

/-- A packet held by a lost knuckle is answered with PATH at the hub of a die; a response becomes one (R274). -/
def Dev.lostPkt (d : Dev) (die : Nat) : Pkt → Dev
  | .req t => d.pathFail die t
  | .rsp r => (d.countSat F.HUB_NPATH_COUNT 1 die).netPut (.rsp { r with stat := statPath, data := [], home := none })

/-- A map update reaches a die (R274): the knuckle's bits clear. `pkts` and `msgs` are the packets and control messages, by
their places, that this die's hub holds for the knuckle: answered with PATH, discarded. -/
def Dev.mapUpdate (d : Dev) (die k : Nat) (pkts msgs : List Nat) : Dev :=
  if !d.mapUpd.contains (die, k) then d
  else
    let d1 := { d with mapUpd := d.mapUpd.erase (die, k) }
    if !d1.carrierUp die then d1
    else
      let d2 := d1.kmapClear die k
      let lost := (d2.net.zipIdx.filter fun x => pkts.contains x.2).map (·.1)
      let d3 := { d2 with net := (d2.net.zipIdx.filter fun x => !pkts.contains x.2).map (·.1),
                          ctl := (d2.ctl.zipIdx.filter fun x => !msgs.contains x.2 || x.1.src.die == x.1.dst.die).map (·.1) }
      lost.foldl (fun d' p => d'.lostPkt die p) d3

/-! Knuckle training (R281–R284) -/

/-- Credits at the start: memory requests and responses, sync, event, debug (R288). -/
def credits : List Nat := [768, 768, 64, 32, 16]

/-- A flit layer at the start: SEQ 0 is expected and sent first (R281). -/
def FLink.initial : FLink := ⟨511, false, 0, 0, 511, 512, 0, credits⟩

def Dev.flink (d : Dev) (die inst : Nat) : FLink := d.flinks.atD (die, inst) FLink.initial
def Dev.setFlink (d : Dev) (die inst : Nat) (l : FLink) : Dev := { d with flinks := d.flinks.put (die, inst) l }
def Dev.knk (d : Dev) (k : Nat) : Knk := d.knks.atD k ⟨0, true, false, false, (0, 0), (0, 0)⟩
def Dev.setKnk (d : Dev) (k : Nat) (x : Knk) : Dev := { d with knks := d.knks.put k x }

/-- KNK_STAT.STATE at one end. -/
def Dev.knkSt (d : Dev) (die inst : Nat) : Nat := d.get F.KNK_STAT_STATE die inst

/-- A change at both ends of a knuckle: die, instance. -/
def Dev.bothEnds (d : Dev) (k : Nat) (f : Dev → Nat → Nat → Dev) : Dev :=
  let e := knuckleEnds k
  f (f d e.1 (endInst k e.1)) e.2 (endInst k e.2)

/-- STATE of both ends. -/
def Dev.knkState (d : Dev) (k st : Nat) : Dev := d.bothEnds k fun d' die i => d'.put F.KNK_STAT_STATE st die i

/-- A KNUCKLE record at an end (R447). -/
def Dev.knkRec (d : Dev) (k code : Nat) : Dev :=
  let e := knuckleEnds k
  d.bothEnds k fun d' die i =>
    d'.post die ⟨5, code, 0, noPart, i + 2 ^ 8 * (if die = e.1 then e.2 else e.1), d'.get F.KNK_AMASK_MASK die i, 0⟩

/-- Modules built on a knuckle (R279). -/
def Dev.modules (d : Dev) : Nat := if d.gf2 then 2 ^ 17 - 1 else 2 ^ 18 - 1

/-- The sequence FULL begins (R281). A training counts once for each end. -/
def Dev.knkFull (d : Dev) (k : Nat) (qretry wretry : Bool) : Dev :=
  let x := d.knk k
  ((d.knkOut k).knkState k 1).setKnk k
    { step := 1, full := true, qretry := qretry, wretry := wretry, trains := ((x.trains.1 + 1) % 64, (x.trains.2 + 1) % 64),
      good := (d.modules, d.modules) }

/-- RECOVER begins (R281, R289): the active modules alone. -/
def Dev.knkRecover (d : Dev) (k : Nat) : Dev :=
  let e := knuckleEnds k
  let x := d.knk k
  (d.knkState k 5).setKnk k
    { x with step := 3, full := false, qretry := false, wretry := false, trains := ((x.trains.1 + 1) % 64, (x.trains.2 + 1) % 64),
             good := (d.get F.KNK_AMASK_MASK e.1 (endInst k e.1), d.get F.KNK_AMASK_MASK e.2 (endInst k e.2)) }

/-- The knuckle is held DOWN. -/
def Dev.knkDown (d : Dev) (k : Nat) : Dev := (((d.knkOut k).knkState k 6).setKnk k { d.knk k with step := 0 }).knkRec k 4

/-- Sticky bits of both ends cleared, as a training command does (R449). -/
def Dev.knkClear (d : Dev) (k : Nat) : Dev :=
  d.bothEnds k fun d' die i =>
    ((d'.put F.KNK_STAT_WIDTHERR 0 die i).put F.KNK_STAT_STORM 0 die i).put F.KNK_STAT_QUALERR 0 die i

/-- A command acts: RECOVER on a knuckle in service, FULL, HOLD (R281, R284). -/
def Dev.knkCmd (d : Dev) (k cmd : Nat) : Dev :=
  let e := knuckleEnds k
  match cmd with
  | 1 => if d.knkSt e.1 (endInst k e.1) = 4 then d.knkRecover k else d
  | 2 => (d.knkClear k).knkFull k false false
  | 3 => d.knkDown k
  | _ => d

/-- A write to KNK_CTL: held in the pending slot during a sequence; without effect while the slot is full (R284). -/
def Dev.knkCtlWrite (d : Dev) (die inst v : Nat) : Dev :=
  let cmd := v % 8
  if cmd < 1 ∨ 3 < cmd then d
  else
    let st := d.knkSt die inst
    if st = 1 ∨ st = 2 ∨ st = 3 ∨ st = 5 then
      if d.on? F.KNK_CTL_PEND die inst then d
      else { d with knkPend := d.knkPend.put (die, inst) cmd }.put F.KNK_CTL_PEND 1 die inst
    else d.knkCmd (knuckleAt die inst) cmd

/-- A sequence has ended: held commands run. -/
def Dev.knkEnded (d : Dev) (k : Nat) : Dev :=
  d.bothEnds k fun d' die i =>
    match d'.knkPend.at? (die, i) with
    | some c => ({ d' with knkPend := d'.knkPend.del (die, i) }.put F.KNK_CTL_PEND 0 die i).knkCmd k c
    | none => d'

/-- The lowest `n` set bits of a mask. -/
def lowestBits (m n : Nat) : Nat := ofBits ((List.range 18).map fun i => hasBit m i && popCount (m % 2 ^ i) 18 < n)

/-- The active set of two local masks (R282); 0 when fewer than 8 modules are left. -/
def activeSet (a b : Nat) : Nat :=
  let t := a &&& b
  if 16 ≤ popCount t 18 then lowestBits t 16 else if 8 ≤ popCount t 18 then lowestBits t 8 else 0

/-- AMASK, NACT and DEGRADED of an end from the masks it holds. -/
def Dev.knkActive (d : Dev) (die i : Nat) : Dev :=
  let a := activeSet (d.get F.KNK_LMASK_MASK die i) (d.get F.KNK_PMASK_MASK die i)
  let n := popCount a 18
  ((d.put F.KNK_AMASK_MASK a die i).put F.KNK_STAT_NACT n die i).put F.KNK_STAT_DEGRADED (if n = 8 then 1 else 0) die i

/-- Modules of a mask whose smallest eye is at least 10/64 UI. -/
def eyesOk (m : Nat) (margs : List (Nat × Nat)) : Nat :=
  ofBits ((List.range 18).map fun i => hasBit m i && decide (10 ≤ (margs.getD i (0, 0)).1))

/-- Margins recorded in KNK_MARG for the modules of a mask. -/
def Dev.knkMargs (d : Dev) (die i m : Nat) (margs : List (Nat × Nat)) : Dev :=
  (bitsSet m 18).foldl (fun d' j =>
    (d'.put F.KNK_MARG_WMIN ((margs.getD j (0, 0)).1 % 256) die i j).put F.KNK_MARG_WIRE ((margs.getD j (0, 0)).2 % 128) die i j) d

/-- The width check passes: active masks and versions agree, and no copy of a word is missing (R283). -/
def Dev.widthOk (d : Dev) (k : Nat) (a b : KnkRes) : Bool :=
  let e := knuckleEnds k
  let i := endInst k e.1
  let j := endInst k e.2
  d.get F.KNK_AMASK_MASK e.1 i == d.get F.KNK_AMASK_MASK e.2 j &&
    d.get F.KNK_ID_PVUSE e.1 i == d.get F.KNK_ID_PVUSE e.2 j && a.copies && b.copies

/-- The knuckle enters UP with its link layer at the start; after RECOVER the layer goes on (R281, R289). -/
def Dev.knkEnterUp (d : Dev) (k : Nat) (fresh : Bool) : Dev :=
  let d1 := ((d.knkState k 4).setKnk k { d.knk k with step := 0, qretry := false, wretry := false })
  let d2 := if fresh then (d1.bothEnds k fun d' die i => d'.setFlink die i FLink.initial).knkUp k
    else d1.bothEnds k fun d' die i => d'.setFlink die i { d'.flink die i with nakRun := 0, nakSeq := 512 }
  let d3 := if d2.on? F.KNK_STAT_DEGRADED (knuckleEnds k).1 (endInst k (knuckleEnds k).1) then d2.knkRec k 5 else d2
  d3.knkEnded k

/-- A step of the training of knuckle `k` ends at both sides (R281–R283): `a` and `b` are the outcomes at its ends. -/
def Dev.knkStepEnd (d : Dev) (k : Nat) (a b : KnkRes) : Dev :=
  let x := d.knk k
  let e := knuckleEnds k
  let i := endInst k e.1
  let j := endInst k e.2
  let go := fun (d' : Dev) (n : Nat) (g : Nat × Nat) => d'.setKnk k { x with step := n, good := g }
  if !d.carrierUp e.1 || !d.carrierUp e.2 then d
  else
    match x.step with
    | 1 =>
      let v := min (d.get F.KNK_ID_PVER e.1 i) (d.get F.KNK_ID_PVER e.2 j)
      let d1 := ((d.put F.KNK_ID_PVUSE v e.1 i).put F.KNK_ID_PVUSE v e.2 j)
      go ((d1.put F.KNK_ID_PEER e.2 e.1 i).put F.KNK_ID_PEER e.1 e.2 j) 2 x.good
    | 2 => go d 3 (x.good.1 &&& a.good, x.good.2 &&& b.good)
    | 3 => go d 4 (x.good.1 &&& a.good, x.good.2 &&& b.good)
    | 4 =>
      let d1 := (d.knkMargs e.1 i x.good.1 a.margs).knkMargs e.2 j x.good.2 b.margs
      let g := (eyesOk x.good.1 a.margs, eyesOk x.good.2 b.margs)
      if x.full then go d1 5 g
      else
        let cut := fun (d' : Dev) (die inst was now : Nat) =>
          let m := d'.get F.KNK_LMASK_MASK die inst
          (d'.put F.KNK_LMASK_MASK (m - (m &&& (was - (was &&& now)))) die inst).knkActive die inst
        let d2 := cut (cut d1 e.1 i x.good.1 g.1) e.2 j x.good.2 g.2
        if d2.get F.KNK_AMASK_MASK e.1 i = 0 ∨ d2.get F.KNK_AMASK_MASK e.2 j = 0 then d2.knkFull k false false
        else (go d2 6 g).knkState k 2
    | 5 =>
      let d1 := ((d.put F.KNK_LMASK_MASK x.good.1 e.1 i).put F.KNK_PMASK_MASK x.good.2 e.1 i)
      let d2 := ((d1.put F.KNK_LMASK_MASK x.good.2 e.2 j).put F.KNK_PMASK_MASK x.good.1 e.2 j)
      let d3 := (d2.knkActive e.1 i).knkActive e.2 j
      if d3.get F.KNK_AMASK_MASK e.1 i = 0 then (d3.knkDown k).knkEnded k else (go d3 6 x.good).knkState k 2
    | 6 =>
      if d.widthOk k a b then (if x.full then (go d 7 x.good).knkState k 3 else d.knkEnterUp k false)
      else
        let d1 := d.bothEnds k fun d' die n => d'.put F.KNK_STAT_WIDTHERR 1 die n
        if x.wretry then ((d1.knkDown k).knkRec k 1).knkEnded k else d1.knkFull k false true
    | _ => d

/-- The qualification of knuckle `k` ends with the errors counted at each end (R281). -/
def Dev.knkQualEnd (d : Dev) (k ea eb : Nat) : Dev :=
  let x := d.knk k
  let e := knuckleEnds k
  let i := endInst k e.1
  let j := endInst k e.2
  if x.step ≠ 7 ∨ d.carrierUp e.1 = false ∨ d.carrierUp e.2 = false then d
  else
    let d1 := (d.put F.KNK_QERR_COUNT (min ea (2 ^ 32 - 1)) e.1 i).put F.KNK_QERR_COUNT (min eb (2 ^ 32 - 1)) e.2 j
    if ea ≤ d1.get F.KNK_QCTL_QMAX e.1 i ∧ eb ≤ d1.get F.KNK_QCTL_QMAX e.2 j then d1.knkEnterUp k true
    else
      let d2 := d1.bothEnds k fun d' die n => d'.put F.KNK_STAT_QUALERR 1 die n
      if x.qretry then ((d2.knkDown k).knkRec k 3).knkEnded k else d2.knkFull k true x.wretry

/-! Flits (R285–R289) -/

/-- The tag word of a flit of 256 data bytes and 8 tag bytes. -/
def flitTag (f : Bytes) : Nat := field f 256 8

/-- The CRC of a flit (R286). -/
def flitCrc (f : Bytes) : Nat := crcMsb 24 0x864CFB 0xFFFFFF (f.take 256 ++ slice f 256 5)

/-- The slots of a flit: code and 64 bytes. -/
def flitSlots (f : Bytes) : List (Nat × Bytes) :=
  (List.range 4).map fun j => (bitsOf (flitTag f) (23 + 4 * j) (20 + 4 * j), slice f (64 * j) 64)

/-- What a received flit does to a link layer: the layer, whether it is discarded for its CRC or a slot code, whether it
makes the transmitter resend, the slots it delivers. -/
structure FlitOut where
  link : FLink
  bad : Bool
  replay : Bool
  slots : List (Nat × Bytes)
deriving DecidableEq, Repr

/-- A flit received by a link layer that takes the slot codes `codes` (R286, R288, R289). -/
def FLink.receive (l : FLink) (f : Bytes) (codes : List Nat) : FlitOut :=
  let t := flitTag f
  let sl := flitSlots f
  let nakNow := fun (l : FLink) => if l.nak then l else { l with nak := true, naks := l.naks + 1 }
  if flitCrc f ≠ bitsOf t 63 40 ∨ (sl.all fun s => s.1 == 0 || codes.contains s.1) = false then ⟨nakNow l, true, false, []⟩
  else
    let ackseq := bitsOf t 17 9
    let kind := bitsOf t 19 18
    let run := if l.nakSeq = ackseq then l.nakRun + 1 else 1
    let l1 :=
      if kind = 1 then { l with acked := ackseq, nakRun := 0, nakSeq := 512 }
      else if kind = 2 then { l with acked := ackseq, nakRun := run, nakSeq := ackseq }
      else l
    let c := bitsOf t 38 36
    let l2 := if c < 5 then { l1 with cred := l1.cred.set c (min (l1.cred.getD c 0 + 4) (credits.getD c 0)) } else l1
    if sl.all fun s => s.1 == 0 then ⟨l2, false, kind == 2, []⟩
    else
      let seq := bitsOf t 8 0
      if seq = (l2.rx + 1) % 512 then
        ⟨{ l2 with rx := seq, nak := false }, false, kind == 2, sl.filter fun s => s.1 != 0⟩
      else ⟨nakNow l2, false, kind == 2, []⟩

/-- The source end and slot that a transaction header names (R276). -/
def hdrSrc (h : Bytes) : Option (Ep × Nat) :=
  let s := field h 4 4
  let die := bitsOf s 1 0
  match bitsOf s 4 2 with
  | 0 => some (.eng die (bitsOf s 10 5), bitsOf s 18 11)
  | 1 => some (.dsp die, bitsOf s 18 5)
  | 2 => some (.stw die, bitsOf s 18 5)
  | 3 => some (.site die, bitsOf s 18 5)
  | 4 => some (.port (4 * die), bitsOf s 18 5)
  | _ => none

/-- A request header with a reserved TOP or field (R276, R277). -/
def hdrReserved (h : Bytes) : Bool :=
  let top := field h 0 1
  let flg := field h 1 1
  top < 1 || 5 < top || bitsOf (field h 2 1) 7 6 != 0 || field h 3 1 != 0 || bitsOf (field h 4 4) 31 19 != 0 ||
    bitsOf (field h 8 8) 63 60 != 0 || 4 < bitsOf (field h 4 4) 4 2 || (top == 3 && bitsOf flg 6 5 == 3) || (top != 3 && bitsOf flg 6 5 != 0)

/-- The four headers of a header slot that are not empty. -/
def slotHdrs (bs : Bytes) : List Bytes := ((List.range 4).map fun j => slice bs (16 * j) 16).filter fun h => h.any (· != 0)

/-- A header that is no valid request is answered FAIL with PROTOCOL (R277). -/
def Dev.hdrCheck (d : Dev) (h : Bytes) : Dev :=
  if hdrReserved h then
    match hdrSrc h with
    | some (ep, slot) => d.netPut (.rsp ⟨ep, slot, statProto, [], none, none⟩)
    | none => d
  else d

/-- Consecutive NAKs with one ACKSEQ have reached KNK_RLIM: STORM, and RECOVER (R289). -/
def Dev.knkStorm (d : Dev) (die inst : Nat) : Dev :=
  let k := knuckleAt die inst
  let d1 := d.put F.KNK_STAT_STORM 1 die inst
  let e := knuckleEnds k
  (d1.post die ⟨5, 2, 0, noPart, inst + 2 ^ 8 * (if die = e.1 then e.2 else e.1), d1.get F.KNK_AMASK_MASK die inst, 0⟩).knkRecover k

/-- A flit reaches the end of a knuckle in service (R285–R289). The far end has sent it, and counts it unless it is idle. -/
def Dev.knkFlit (d : Dev) (die inst : Nat) (f : Bytes) : Dev :=
  if d.knkSt die inst ≠ 4 ∨ d.carrierUp die = false then d
  else
    let far := if inst = 0 then die ^^^ 1 else die ^^^ 2
    let o := (d.flink die inst).receive f [1, 2, 3, 4, 5, 6, 7]
    let d1 := d.setFlink die inst o.link
    let idle := bitsOf (flitTag f) 35 20 = 0
    let d2 := if idle then d1 else d1.count64 F.KNK_NFLIT_LO_COUNT F.KNK_NFLIT_HI_COUNT 1 far inst
    let d3 := if o.bad then d2.countSat F.KNK_NCRC_COUNT 1 die inst else d2
    let d4 := if o.replay then d3.countSat F.KNK_NREPLAY_COUNT 1 die inst else d3
    let d5 := if o.slots.isEmpty then d4 else d4.setFlink far inst { d4.flink far inst with tx := (o.link.rx + 1) % 512 }
    let d6 := ((o.slots.filter fun s => s.1 == 1).flatMap fun s => slotHdrs s.2).foldl Dev.hdrCheck d5
    if o.replay && d6.get F.KNK_RLIM_LIMIT die inst ≤ o.link.nakRun then d6.knkStorm die inst else d6

/-- A NAK is repeated while the expected flit has not come (R289). -/
def Dev.knkNakAgain (d : Dev) (die inst : Nat) : Dev :=
  let l := d.flink die inst
  if l.nak && d.knkSt die inst == 4 then d.setFlink die inst { l with naks := l.naks + 1 } else d

/-- The forwarded clock, the valid wire or the sideband of a knuckle stops at an end (R290): the knuckle leaves service. A
neighbour whose carrier domain is lost is reported (R454). -/
def Dev.knkSignalLoss (d : Dev) (die inst : Nat) : Dev :=
  let k := knuckleAt die inst
  let far := if inst = 0 then die ^^^ 1 else die ^^^ 2
  if !d.carrierUp die || d.knkSt die inst == 0 || d.knkSt die inst == 6 then d
  else
    let d1 := ((d.knkOut k).put F.KNK_STAT_STATE 6 die inst).setKnk k { d.knk k with step := 0 }
    let d2 := if d1.carrierUp far then d1.put F.KNK_STAT_STATE 6 far inst else d1
    let d3 := d2.post die ⟨5, 4, 0, noPart, inst + 2 ^ 8 * far, d2.get F.KNK_AMASK_MASK die inst, 0⟩
    (if d3.carrierUp far then d3 else d3.post die ⟨0x0A, 6, 0, noPart, far, 0, 0⟩).knkEnded k

end Sys2Proof.Machine
end

