-- ==== Sys2Proof/Machine/Site.lean ====
section
/-!
DEFINITION. The auxiliary site (R294–R302): bring-up and hold-down, site flits, window requests, requests of the site die,
tumbler writes.
-/
namespace Sys2Proof.Machine

/-! The adapter -/

/-- An adapter at rest. -/
def Site.initial : Site := ⟨0, false, false, none, FLink.initial, [], [], [], [], [], 0, [], [], []⟩

def Dev.site (d : Dev) (die : Nat) : Site := d.sites.atD die Site.initial
def Dev.setSite (d : Dev) (die : Nat) (s : Site) : Dev := { d with sites := d.sites.put die s }
def Dev.modSite (d : Dev) (die : Nat) (f : Site → Site) : Dev := d.setSite die (f (d.site die))

/-- AUX_STAT.STATE. -/
def Dev.auxSt (d : Dev) (die : Nat) : Nat := d.get F.AUX_STAT_STATE die
def Dev.setAux (d : Dev) (die st : Nat) : Dev := d.put F.AUX_STAT_STATE st die

/-- The descriptor as AUX_DESC0–AUX_DESC15 hold it. -/
def Dev.auxDesc (d : Dev) (die : Nat) : Bytes := (List.range 16).flatMap fun j => leBytes 4 (d.raw ⟨.AUX_DESC, die, j, 0⟩)

/-- The header of a response: its TOP and STAT laid over the request's header (R276, R277). -/
def rspHdr (req : Bytes) (top stat : Nat) : Bytes := overlay (overlay req 0 (leBytes 1 top)) 3 (leBytes 1 stat)

/-- Something is sent to the site: a header and the lines that follow it. -/
def Dev.siteSend (d : Dev) (die : Nat) (hdr : Bytes) (lines : List Bytes) : Dev :=
  d.modSite die fun s => { s with sent := s.sent ++ [⟨hdr, lines⟩] }

/-! Down and up (R300, R301) -/

/-- The site goes down with a cause: fenced, the window closed, window requests answered with PATH, and what the site had
asked for forgotten. A held command then runs. -/
def Dev.siteDown (d : Dev) (die cause : Nat) : Dev :=
  let s := d.site die
  let d1 := ((d.setAux die 5).put F.AUX_STAT_CAUSE cause die).put F.AUX_CTL_FENCE 1 die
  let d2 := (d1.put F.AUX_WIN_WLOG2 0 die).put F.AUX_CTL_PEND 0 die
  let d3 := s.win.foldl (fun d' w => d'.pathFail die w.2.1) d2
  (d3.setSite die { Site.initial with tag := s.tag }).post die ⟨6, 1, 0, noPart, 1 + 2 ^ 8 * die, cause, 0⟩

/-- Bring-up begins (R300): a capped site stays EMPTY. -/
def Dev.siteTrain (d : Dev) (die : Nat) : Dev :=
  if d.on? F.AUX_ID_CAPPED die then d
  else
    let s := d.site die
    let d1 := s.win.foldl (fun d' w => d'.pathFail die w.2.1) d
    let d2 := ((d1.put F.AUX_STAT_CAUSE 0 die).put F.AUX_CTL_FENCE 1 die).put F.AUX_WIN_WLOG2 0 die
    let d3 := if d2.auxSt die = 3 then d2.setAux die 5 else d2
    d3.setSite die { Site.initial with tag := s.tag, step := 1 }

/-- A command acts. -/
def Dev.siteCmd (d : Dev) (die cmd : Nat) : Dev :=
  if cmd = 1 then d.siteTrain die
  else if cmd = 2 && !d.on? F.AUX_ID_CAPPED die then d.siteDown die 0x0B
  else d

/-- A write to AUX_CTL: held during TRAIN, QUAL and RECOVER, without effect while PEND is 1 (R301). -/
def Dev.auxCtlWrite (d : Dev) (die v : Nat) : Dev :=
  let cmd := v % 4
  if cmd ≠ 1 ∧ cmd ≠ 2 then d
  else
    let st := d.auxSt die
    if st = 1 ∨ st = 2 ∨ st = 4 then
      if d.on? F.AUX_CTL_PEND die then d
      else (d.modSite die fun s => { s with pend := some cmd }).put F.AUX_CTL_PEND 1 die
    else d.siteCmd die cmd

/-- The sequence has ended: a held command runs. -/
def Dev.siteEnded (d : Dev) (die : Nat) (pend : Option Nat) : Dev :=
  match pend with
  | none => d
  | some c => ((d.put F.AUX_CTL_PEND 0 die).modSite die fun s => { s with pend := none }).siteCmd die c

/-- The site enters UP: its window is granted and the fence clears (R297, R301). -/
def Dev.siteUp (d : Dev) (die : Nat) (fresh : Bool) : Dev :=
  let d1 := (d.setAux die 3).put F.AUX_WIN_WLOG2 (field (d.auxDesc die) 12 1 % 64) die
  (d1.put F.AUX_CTL_FENCE 0 die).modSite die fun s =>
    { s with step := 0, link := if fresh then FLink.initial else { s.link with nakRun := 0, nakSeq := 512 } }

/-! Bring-up (R294, R296, R300) -/

/-- The highest set bit below 5 of a rate set. -/
def topRate (m : Nat) : Nat := if hasBit m 4 then 4 else if hasBit m 3 then 3 else if hasBit m 2 then 2 else if hasBit m 1 then 1 else 0

/-- The protocol version that a site uses with a descriptor; 0 for none (R295). -/
def Dev.siteVer (d : Dev) (die : Nat) (x : Bytes) : Nat :=
  if hasBit (field x 5 1) 1 && d.b0Level die then 2 else if hasBit (field x 5 1) 0 then 1 else 0

/-- The cause with which a descriptor is refused, 0 when it passes (R300). -/
def Dev.descCause (d : Dev) (die : Nat) (x : Bytes) : Nat :=
  let w := field x 12 1
  let vendor := d.get F.AUX_ALLOW_VENDOR die
  if field x 0 4 != 0x00535841 || field x 4 1 != 1 || field x 60 4 != crc32c (slice x 0 60) || field x 5 1 / 4 != 0 ||
      field x 11 1 / 32 != 0 || field x 13 1 / 4 != 0 || !((slice x 20 40).all (· == 0)) then 2
  else if vendor == 0 || field x 6 2 != vendor || field x 8 2 != d.get F.AUX_ALLOW_PRODUCT die then 3
  else if field x 11 1 &&& d.get F.AUX_LIMIT_RATES die == 0 || d.siteVer die x == 0 then 4
  else if (w != 0 && (w < 30 || 40 < w)) || (w == 0 && field x 14 2 == 0) then 5
  else if d.get F.AUX_LIMIT_PMAX die < field x 18 2 then 6
  else 0

/-- The site goes down in its sequence, and a held command runs. -/
def Dev.siteFail (d : Dev) (die cause : Nat) : Dev := (d.siteDown die cause).siteEnded die (d.site die).pend

/-- A bring-up step of a site ends: 1 sideband, 2 descriptor, 3 mainband training, 4 qualification, 5 RECOVER. -/
def Dev.siteStepEnd (d : Dev) (die : Nat) (r : SiteRes) : Dev :=
  let s := d.site die
  if !d.carrierUp die then d
  else
    match s.step with
    | 1 => if r.ok then d.modSite die fun x => { x with step := 2 } else d.siteFail die 1
    | 2 =>
      let x := slice r.desc 0 64
      let d1 := (List.range 16).foldl (fun d' j => d'.setRaw ⟨.AUX_DESC, die, j, 0⟩ (field x (4 * j) 4)) d
      let c := d1.descCause die x
      if c ≠ 0 then d1.siteFail die c
      else
        let d2 := d1.put F.AUX_STAT_RATE (topRate (field x 11 1 &&& d1.get F.AUX_LIMIT_RATES die)) die
        ((d2.put F.AUX_STAT_PVUSE (d2.siteVer die x) die).setAux die 1).modSite die fun x => { x with step := 3 }
    | 3 =>
      if r.ok then (d.setAux die 2).modSite die fun x => { x with step := 4 }
      else if s.tretry then d.siteFail die 7
      else d.modSite die fun x => { x with tretry := true }
    | 4 =>
      if r.errs ≤ bitsOf (d.raw ⟨.AUX_QCTL, die, 0, 0⟩) 31 24 then (d.siteUp die true).siteEnded die s.pend
      else if s.qretry then d.siteFail die 8
      else (d.setAux die 1).modSite die fun x => { x with step := 3, qretry := true }
    | 5 => if r.ok then (d.siteUp die false).siteEnded die s.pend else d.siteFail die 9
    | _ => d

/-- The site enters RECOVER (R295, R297). -/
def Dev.siteRecover (d : Dev) (die : Nat) : Dev :=
  ((d.setAux die 4).put F.AUX_WIN_WLOG2 0 die).modSite die fun s => { s with step := 5 }

/-- The sideband falls silent in service (R300). -/
def Dev.siteSideband (d : Dev) (die : Nat) : Dev := if d.auxSt die = 3 then d.siteDown die 1 else d

/-! Flits (R295) -/

/-- Lines that follow a request header, and that follow a response header (R277). -/
def hdrLines (h : Bytes) : Nat :=
  let n := bitsOf (field h 1 1) 4 0 + 1
  match field h 0 1 with
  | 2 => n
  | 3 => n
  | 5 => 1
  | 8 => n
  | _ => 0

/-- Lines are handed to the headers that wait for them, in header order. -/
def fillLines : List SReq → List Bytes → List SReq
  | q, [] => q
  | [], _ => []
  | r :: rs, l :: ls =>
    if r.lines.length < hdrLines r.hdr then fillLines ({ r with lines := r.lines ++ [l] } :: rs) ls
    else r :: fillLines rs (l :: ls)
termination_by q ls => q.length + ls.length

/-- The leading entries that have all their lines, and the rest. -/
def takeFull : List SReq → List SReq × List SReq
  | [] => ([], [])
  | r :: rs => if r.lines.length = hdrLines r.hdr then (let (a, b) := takeFull rs; (r :: a, b)) else ([], r :: rs)

/-- A complete answer of the site to a window request: its tag names the request. Line data goes back to the source. -/
def Dev.siteAnswer (d : Dev) (die : Nat) (a : SReq) : Dev :=
  let tag := bitsOf (field a.hdr 4 4) 18 5
  match (d.site die).win.find? fun w => w.1 == tag with
  | none => d.countSat F.AUX_DROP_COUNT 1 die
  | some w =>
    let d1 := d.modSite die fun s => { s with win := s.win.erase w }
    match field a.hdr 0 1 with
    | 8 => d1.respond w.2.1 0 (a.lines.headD [])
    | 9 => d1.respond w.2.1 0 []
    | _ => d1.respond w.2.1 (field a.hdr 3 1) []

/-- A flit arrives from the site (R295): discarded and counted as an item while the site is fenced; otherwise checked, taken in
order or answered with a NAK, its requests and answers assembled. -/
def Dev.siteFlit (d : Dev) (die : Nat) (f : Bytes) : Dev :=
  if !d.carrierUp die || d.on? F.AUX_ID_CAPPED die then d
  else if d.auxSt die ≠ 3 then d.countSat F.AUX_DROP_COUNT 1 die
  else
    let s := d.site die
    let o := s.link.receive f [1, 2, 3, 4]
    let lines := fun (code : Nat) => (o.slots.filter fun x => x.1 == code).map (·.2)
    let hdrs := fun (code : Nat) => ((lines code).flatMap slotHdrs).map fun h => (⟨h, []⟩ : SReq)
    let (reqs, rwait) := takeFull (fillLines (s.hdrs ++ hdrs 1) (lines 2))
    let (answers, await) := takeFull (fillLines (s.answers ++ hdrs 3) (lines 4))
    let d1 := d.setSite die { s with link := o.link, hdrs := rwait, reqs := s.reqs ++ reqs, answers := await }
    let d2 := if o.bad then d1.countSat F.AUX_NCRC_COUNT 1 die else d1
    let d3 := if o.replay then d2.countSat F.AUX_NREPLAY_COUNT 1 die else d2
    let d4 := answers.foldl (fun d' a => d'.siteAnswer die a) d3
    if o.replay && d4.get F.AUX_RLIM_LIMIT die ≤ o.link.nakRun then d4.siteRecover die else d4

/-! The window (R297) -/

/-- A request of the package reaches the window: PATH while the site is held down, RANGE where the window does not take it;
otherwise it goes to the site under a tag of its own. -/
def Dev.windowReq (d : Dev) (t : Txn) (g : Nat) : Dev :=
  let die := gpaDie g
  let s := d.site die
  let attr := field (d.auxDesc die) 13 1
  if t.outside then d.respond t statRefused []
  else if d.on? F.AUX_CTL_FENCE die then d.pathFail die t
  else if 2 ^ field (d.auxDesc die) 12 1 < gpaOff g + 64 || field (d.auxDesc die) 12 1 == 0 || !(t.op == .read && hasBit attr 0 || t.op == .write && hasBit attr 1) then
    d.respond t statRange []
  else
    let tag := s.tag % 2 ^ 14
    let hdr := leBytes 1 (if t.op = .read then 1 else 2) ++ [0] ++ leBytes 1 t.bkt ++ [0] ++ leBytes 4 (die + 2 ^ 2 * 4 + 2 ^ 5 * tag) ++ leBytes 8 g
    (d.setSite die { s with tag := s.tag + 1, win := s.win ++ [(tag, t, d.tick die)] }).siteSend die hdr (if t.op = .read then [] else [t.data])

/-- The oldest window request has been unanswered for 4 × RLAT: PATH, and RECOVER (R297). -/
def Dev.windowTimeout (d : Dev) (die : Nat) : Dev :=
  let s := d.site die
  match s.win with
  | [] => d
  | w :: ws =>
    if d.auxSt die = 3 ∧ d.late die w.2.2 (ceilDiv (4 * field (d.auxDesc die) 16 2) 1000) = true then
      ((d.setSite die { s with win := ws }).pathFail die w.2.1).siteRecover die
    else d

/-! Requests of the site (R298, R299) -/

/-- The key-ring access of line `j` of a site request. -/
def siteAcc (die : Nat) (h : Bytes) (j : Nat) : KAcc :=
  let top := field h 0 1
  ⟨48 + die, (bitsOf (field h 8 8) 56 0 + 64 * j) % 2 ^ 57, if top = 1 ∨ top = 4 then 0 else if top = 3 then 2 else 1, 3 < top, 0, true⟩

/-- Requests of the site that are outstanding in the package. -/
def Site.busy (s : Site) : Nat := s.issued.length + s.addOut.length + s.adds.length

/-- Lines of a request issued into the package one by one; the first that fails to translate gives the STAT. -/
def Dev.siteLines (d : Dev) (die tag : Nat) (r : SReq) : List Nat → Option Nat × Dev
  | [] => (none, d)
  | j :: js =>
    let top := field r.hdr 0 1
    let (x, _, d1) := d.lookup die (siteAcc die r.hdr j)
    if x.code ≠ 0 then (some statRange, d1)
    else
      let op : TOp := match top with | 1 => .read | 2 => .write | 3 => .reduce | 4 => .nread | _ => .nwrite
      let gran := if hasBit (field r.hdr 1 1) 7 then 16 else 32
      let data := r.lines.getD j []
      let t : Txn := ⟨.site die, tag + j, op, x.tgt, 48, bitsOf (field r.hdr 1 1) 6 5, gran, if op = .nwrite then data.take gran else data, none, d1.sqn⟩
      Dev.siteLines ({ d1 with sqn := d1.sqn + 1 }.netPut (.req t)) die tag r js

/-- The target of a site WRITE is space 2 (R299). -/
def Dev.siteTumb (d : Dev) (die : Nat) (r : SReq) : Option Nat :=
  if field r.hdr 0 1 = 2 then
    match (d.lookup die (siteAcc die r.hdr 0)).1 with
    | ⟨0, _, .gpa g⟩ => if gpaSpace g = 2 then some g else none
    | _ => none
  else none

/-- The adapter issues the next request of the site (R298): at most MAXOUT outstanding; a tumbler write waits. -/
def Dev.siteRequest (d : Dev) (die : Nat) : Dev :=
  let s := d.site die
  match s.reqs with
  | [] => d
  | r :: rs =>
    let h := r.hdr
    let top := field h 0 1
    let n := if top = 4 ∨ top = 5 then 1 else bitsOf (field h 1 1) 4 0 + 1
    if d.auxSt die ≠ 3 then d
    else if hdrReserved h || (hasBit (field h 1 1) 7 && (top < 4 || d.get F.AUX_STAT_PVUSE die != 2)) then
      (d.setSite die { s with reqs := rs }).siteSend die (rspHdr h 0x0A statProto) []
    else if field (d.auxDesc die) 14 2 ≤ s.busy then d
    else
      match d.siteTumb die r with
      | some g =>
        let tr : TRange := ⟨d.get F.AUX_TRANGE_BASE die, d.get F.AUX_TRANGE_NUM die, false⟩
        let d1 := (d.lookup die (siteAcc die h 0)).2.2
        if n ≠ 1 then (d1.setSite die { s with reqs := rs }).siteSend die (rspHdr h 0x0A statRange) []
        else if !tr.has (gpaOff g / 4) then (d1.setSite die { s with reqs := rs }).siteSend die (rspHdr h 0x0A statRefused) []
        else d1.setSite die { s with reqs := rs, adds := s.adds ++ [{ r with hdr := overlay h 8 (leBytes 8 g) }] }
      | none =>
        match d.siteLines die s.tag r (List.range n) with
        | (some st, d1) => (({ d with krg := d1.krg, rf := d1.rf }).setSite die { s with reqs := rs }).siteSend die (rspHdr h 0x0A st) []
        | (none, d1) => d1.setSite die { d1.site die with reqs := rs, tag := s.tag + n, issued := s.issued ++ [⟨s.tag, h, n, []⟩] }

/-- An answer to a line of a site request; the whole request answered, the site is (R298). -/
def Dev.siteResponse (d : Dev) (die tag stat : Nat) (data : Bytes) : Dev :=
  let s := d.site die
  match s.issued.find? fun o => o.tag ≤ tag && tag < o.tag + o.n with
  | none => d.countSat F.AUX_DROP_COUNT 1 die
  | some o =>
    let got := o.got.put (tag - o.tag) (stat, data)
    if got.length < o.n then d.setSite die { s with issued := s.issued.map fun x => if x.tag = o.tag then { x with got := got } else x }
    else
      let d1 := d.setSite die { s with issued := s.issued.filter fun x => x.tag != o.tag }
      match got.find? fun x => x.2.1 != 0 with
      | some x => d1.siteSend die (rspHdr o.hdr 0x0A x.2.1) []
      | none =>
        let top := field o.hdr 0 1
        if top = 1 ∨ top = 4 then d1.siteSend die (rspHdr o.hdr 8 0) ((List.range o.n).map fun j => slice (got.atD j (0, [])).2 0 64)
        else d1.siteSend die (rspHdr o.hdr 9 0) []

/-- A tumbler write becomes a release-add once every earlier site write is acknowledged (R299). -/
def Dev.siteAdd (d : Dev) (die : Nat) : Dev :=
  let s := d.site die
  match s.adds with
  | [] => d
  | r :: rs =>
    let writes := s.issued.any fun o => let top := field o.hdr 0 1; top == 2 || top == 3 || top == 5
    if writes || d.auxSt die != 3 then d
    else
      let g := field r.hdr 8 8
      let v := field (r.lines.headD []) 0 4 % 2 ^ 22
      (d.setSite die { s with adds := rs, addOut := s.addOut ++ [(r, gpaDie g, gpaOff g / 4)] }).send
        ⟨.site die, .bank (gpaDie g), 3, 0, 0, (Ep.site die).peer, tumbField (gpaDie g) (gpaOff g / 4) (48 + die), v, 0⟩

/-- The home acknowledges a release-add of the site: DONE (R299). -/
def Dev.siteAck (d : Dev) (die home idx : Nat) : Dev :=
  let s := d.site die
  match s.addOut.find? fun a => a.2.1 == home && a.2.2 == idx with
  | none => d
  | some a => (d.setSite die { s with addOut := s.addOut.erase a }).siteSend die (rspHdr a.1.hdr 9 0) []

end Sys2Proof.Machine
end

