-- ==== Sys2Proof/Machine/Port.lean ====
section
/-!
DEFINITION. Package-link ports, their shared operations (R326–R346): the messages of the streams, frames and LINK blocks,
credits, trackers, routes, and the way a port goes DOWN. Also the accessors of lanes, Ethernet ports and queue pairs.
-/
namespace Sys2Proof.Machine

/-! Accessors -/

/-- A lane at rest. -/
def Lane.initial : Lane where
  seq := 0
  retry := false
  pend := 0
  at_ := 0
  lock := false
  hdrs := []
  scr := 0
  ebuf := []
  out := []
  ready := 0
  req := false
  farReq := false
  farLane := 0
  farPkg := 0
  refused := none
  fast := none
  low := none
  stepAt := 0
  doze := false
  dozeAt := 0
  wakes := 0
  prbsN := 0
  prbs := 0
  seen := 0
  ident := none
  sent := []

/-- A port at rest: SEQ starts at 0, the buffers are empty and credits are granted (R336 step 4). -/
def PPort.initial : PPort where
  qretry := false
  pend := 0
  at_ := 0
  qbase := []
  qbad := 0
  held := []
  tx := 0
  acked := 0xFFFF
  ackAt := 0
  nakSeq := none
  nakRun := 0
  replays := []
  storm := none
  rx := 0xFFFF
  nak := false
  owe := 0
  early := []
  cred := (256, 256)
  freed := (0, 0)
  rxs := ([], [])
  txs := ([], [])
  inReq := []
  inRsp := []
  otrk := []
  itrk := []
  itag := 0
  turn := 0
  wire := []

def Dev.lane (d : Dev) (die l : Nat) : Lane := d.lanes.atD (die, l) Lane.initial
def Dev.setLane (d : Dev) (die l : Nat) (x : Lane) : Dev := { d with lanes := d.lanes.put (die, l) x }
def Dev.modLane (d : Dev) (die l : Nat) (f : Lane → Lane) : Dev := d.setLane die l (f (d.lane die l))
def Dev.port (d : Dev) (p : Nat) : PPort := d.ports.atD p PPort.initial
def Dev.setPort (d : Dev) (p : Nat) (x : PPort) : Dev := { d with ports := d.ports.put p x }
def Dev.modPort (d : Dev) (p : Nat) (f : PPort → PPort) : Dev := d.setPort p (f (d.port p))

/-- A queue pair at rest. -/
def QP.initial : QP := ⟨[], 0, 0, none, 0, none, none, [], 0, 0, false⟩
def Dev.qp (d : Dev) (q : Nat) : QP := d.qps.atD q QP.initial
def Dev.setQp (d : Dev) (q : Nat) (x : QP) : Dev := { d with qps := d.qps.put q x }
def Dev.modQp (d : Dev) (q : Nat) (f : QP → QP) : Dev := d.setQp q (f (d.qp q))

/-- The steward of a die, before its firmware runs. -/
def Stew.initial : Stew := ⟨false, false, [], [], [], [], 0, none, none, none, [0, 0, 0, 0], 1, 1, [], 0⟩
def Dev.stew (d : Dev) (die : Nat) : Stew := d.stews.atD die Stew.initial
def Dev.modStew (d : Dev) (die : Nat) (f : Stew → Stew) : Dev := { d with stews := d.stews.put die (f (d.stew die)) }

/-- STATE of a port; its states. -/
def Dev.portSt (d : Dev) (p : Nat) : Nat := d.get F.PLK_PSTAT_STATE (portDie p) (p % 4)
def Dev.setPortSt (d : Dev) (p st : Nat) : Dev :=
  (d.put F.PLK_PSTAT_STATE st (portDie p) (p % 4)).modPort p fun x => { x with at_ := d.tick (portDie p) }
def plkTrain : Nat := 1
def plkQual : Nat := 2
def plkUp : Nat := 3
def plkRetrain : Nat := 4
def plkDown : Nat := 5

/-- A record of the link class (R447): KIND of LINK_STATUS and index in UNIT. -/
def Dev.linkRec (d : Dev) (die code kind idx info : Nat) : Dev := d.post die ⟨6, code, 0, noPart, kind + 2 ^ 8 * idx, info, 0⟩

/-- A record of a package-link port: its status register in INFO. -/
def Dev.portRec (d : Dev) (p code : Nat) : Dev :=
  d.linkRec (portDie p) code 2 (p % 4) (d.raw ⟨.PLK_PSTAT, portDie p, p % 4, 0⟩)

/-! Lanes of a port (R303, R326, R327) -/

/-- The local lane that has lane-in-port index `i` of port `p`. -/
def Dev.laneOf (d : Dev) (p i : Nat) : Nat :=
  let die := portDie p
  if d.on? F.PLK_RESERVE_INUSE die && d.get F.PLK_RESERVE_PORT die == p % 4 && d.get F.PLK_RESERVE_LIDX die == i then 16
  else 4 * (p % 4) + i

/-- The port and index that a local lane serves; none for a lane that another stands in for, or that serves no port. -/
def Dev.lanePort (d : Dev) (die l : Nat) : Option (Nat × Nat) :=
  if l < 16 then (if d.laneOf (4 * die + l / 4) (l % 4) = l then some (4 * die + l / 4, l % 4) else none)
  else if l = 16 && d.on? F.PLK_RESERVE_INUSE die then some (4 * die + d.get F.PLK_RESERVE_PORT die, d.get F.PLK_RESERVE_LIDX die)
  else none

/-- Active lane-in-port indices of a port, as a mask and as a list. -/
def Dev.portMask (d : Dev) (p : Nat) : Nat := d.get F.PLK_PSTAT_LANES (portDie p) (p % 4)
def Dev.portIdx (d : Dev) (p : Nat) : List Nat := bitsSet (d.portMask p) 4

/-! Messages (R330) -/

/-- The TOP of a request and its FLG, one line (R276, R277). -/
def Txn.top (t : Txn) : Nat := match t.op with | .read => 1 | .write => 2 | .reduce => 3 | .nread => 4 | .nwrite => 5
def Txn.flg (t : Txn) : Nat :=
  match t.op with
  | .reduce => 2 ^ 5 * t.red
  | .nread => if t.gran = 16 then 2 ^ 7 else 0
  | .nwrite => if t.gran = 16 then 2 ^ 7 else 0
  | _ => 0

/-- SRC of a request's header (R276). -/
def srcField (e : Ep) (slot : Nat) : Nat :=
  match e with
  | .eng die n => die + 2 ^ 5 * n + 2 ^ 11 * (slot % 2 ^ 8)
  | .dsp die => die + 2 ^ 2 + 2 ^ 5 * (slot % 2 ^ 14)
  | .stw die => die + 2 ^ 2 * 2 + 2 ^ 5 * (slot % 2 ^ 14)
  | .site die => die + 2 ^ 2 * 3 + 2 ^ 5 * (slot % 2 ^ 14)
  | e => e.die + 2 ^ 2 * 4 + 2 ^ 5 * (slot % 2 ^ 14)

/-- The transaction header of a line request to a GPA (R276). -/
def Txn.hdr (t : Txn) (g : Nat) : Bytes :=
  leBytes 1 t.top ++ leBytes 1 t.flg ++ leBytes 1 t.bkt ++ [0] ++ leBytes 4 (srcField t.src t.slot) ++ leBytes 8 g

/-- The lines that follow a request's header: one line slot, a narrow unit in its low bytes. -/
def Txn.lineBytes (t : Txn) : Bytes := match t.op with | .read => [] | .nread => [] | _ => slice t.data 0 64

/-- The bytes of a message in its stream. -/
def LMsg.bytes (m : LMsg) : Bytes :=
  leBytes 1 m.kind ++ leBytes 1 m.hops ++ leBytes 2 m.spkg ++ leBytes 2 m.dpkg ++ leBytes 2 m.tag ++ zeros 8 ++ slice m.hdr 0 16 ++ m.lines

/-- The first message of a stream, once it is whole, and the rest. -/
def parseMsg (s : Bytes) : Option (LMsg × Bytes) :=
  if s.length < 32 then none
  else
    let h := slice s 16 16
    let n := if field s 0 1 = 0 then 64 * hdrLines h else 0
    if s.length < 32 + n then none
    else some (⟨field s 0 1, field s 1 1 % 16, field s 2 2 % 2 ^ 12, field s 4 2 % 2 ^ 12, field s 6 2 % 2 ^ 12, h, slice s 32 n⟩, s.drop (32 + n))

/-- Every whole message at the front of a stream, and the rest; at most `fuel` of them. -/
def parseMsgs : Nat → Bytes → List LMsg × Bytes
  | 0, s => ([], s)
  | fuel + 1, s => match parseMsg s with | none => ([], s) | some (m, r) => (m :: (parseMsgs fuel r).1, (parseMsgs fuel r).2)

/-- A FAIL answer's header. -/
def LMsg.failHdr (m : LMsg) (stat : Nat) : Bytes := rspHdr (if m.kind = 0 then m.hdr else zeros 16) 0x0A stat

/-! Frames and LINK blocks (R328, R331, R332) -/

/-- Credits that a port can return now: request credits are withheld while the inbound tracker is full. -/
def PPort.due (x : PPort) : Nat × Nat :=
  (if 4096 ≤ x.itrk.length then 0 else min 15 (x.freed.1 / 16), min 15 (x.freed.2 / 16))

/-- The acknowledgement and the credits are on their way. -/
def PPort.told (x : PPort) : PPort :=
  { x with owe := 0, freed := (x.freed.1 - 16 * x.due.1, x.freed.2 - 16 * x.due.2) }

/-- The 256 bytes of a sequenced frame (R328, R329). -/
def PPort.frame (x : PPort) (f : LFrame) : Bytes :=
  let h := leBytes 1 0x10 ++ leBytes 1 (f.sub + 2 * (ceilDiv f.units.length 16)) ++ leBytes 2 f.seq ++ leBytes 2 x.rx ++ [1] ++
    leBytes 1 (x.due.1 + 2 ^ 4 * x.due.2) ++ zeros 4
  let u := slice f.units 0 240
  h ++ leBytes 4 (crc32c (h ++ u)) ++ u

/-- The next lane index in turn among the active ones. -/
def Dev.nextIdx (d : Dev) (p : Nat) : Nat :=
  let t := (d.port p).turn
  (([t % 4, (t + 1) % 4, (t + 2) % 4, (t + 3) % 4].find? fun i => hasBit (d.portMask p) i).getD 0)

/-- Bytes leave on the port's next lane. -/
def Dev.portWire (d : Dev) (p : Nat) (bs : Bytes) : Dev :=
  let i := d.nextIdx p
  d.modPort p fun x => { x with turn := i + 1, wire := x.wire ++ [(i, bs)] }

/-- The bytes of a LINK block from lane index `i` (R331): acknowledgement, NAK, credits, identity. -/
def Dev.linkBlk (d : Dev) (p i : Nat) (nak idv : Bool) : Bytes :=
  let x := d.port p
  leBytes 1 0x11 ++ leBytes 1 (1 + (if nak then 2 else 0) + (if idv then 4 else 0)) ++ leBytes 2 x.rx ++
    leBytes 1 (x.due.1 + 2 ^ 4 * x.due.2) ++ [0] ++ leBytes 2 (d.get F.KRG_PKG_PKG (portDie p)) ++ leBytes 1 p ++ leBytes 1 i ++ zeros 22

/-- A LINK block leaves on the port's next lane. -/
def Dev.portLink (d : Dev) (p : Nat) (nak : Bool) : Dev :=
  (d.setPort p (d.port p).told).portWire p (d.linkBlk p (d.nextIdx p) nak false)

/-- Doze is no longer requested on the port's transmitters (R335). -/
def Dev.portUndoze (d : Dev) (p : Nat) : Dev :=
  (d.portIdx p).foldl (fun d' i => d'.modLane (portDie p) (d'.laneOf p i) fun x => { x with doze := false }) d

/-- Frames leave while a stream has units, its sub-channel has credit and fewer than 512 are held (R332, R333). Responses go
first. -/
def Dev.portPump (d : Dev) (p : Nat) : Nat → Dev
  | 0 => d
  | fuel + 1 =>
    let x := d.port p
    if d.portSt p ≠ plkUp ∨ 512 ≤ x.held.length then d
    else
      let sub := if !x.txs.2.isEmpty && 0 < x.cred.2 then some 1 else if !x.txs.1.isEmpty && 0 < x.cred.1 then some 0 else none
      match sub with
      | none => d
      | some s =>
        let st := if s = 1 then x.txs.2 else x.txs.1
        let f : LFrame := ⟨x.tx, s, st.take 240⟩
        let x1 := { x.told with
          held := x.held ++ [f], tx := (x.tx + 1) % 2 ^ 16,
          ackAt := if x.held.isEmpty then d.tick (portDie p) else x.ackAt,
          cred := if s = 1 then (x.cred.1, x.cred.2 - 1) else (x.cred.1 - 1, x.cred.2),
          txs := if s = 1 then (x.txs.1, st.drop 240) else (st.drop 240, x.txs.2) }
        let d1 := (d.setPort p x1).portWire p (x.frame f)
        Dev.portPump (d1.count64 F.PLK_NFRM_LO_COUNT F.PLK_NFRM_HI_COUNT 1 (portDie p) (p % 4)) p fuel

/-- The port forms frames while it can: no more than it has staged units. -/
def Dev.portRun (d : Dev) (p : Nat) : Dev := d.portPump p ((d.port p).txs.1.length + (d.port p).txs.2.length)

/-- A message enters a sub-channel's stream. -/
def Dev.portSend (d : Dev) (p sub : Nat) (m : LMsg) : Dev :=
  ((d.portUndoze p).modPort p fun x => { x with txs := if sub = 1 then (x.txs.1, x.txs.2 ++ m.bytes) else (x.txs.1 ++ m.bytes, x.txs.2) }).portRun p

/-! Trackers (R341, R342) -/

/-- PLK_TRK of a port. -/
def Dev.portTrk (d : Dev) (p : Nat) : Dev :=
  let x := d.port p
  (d.put F.PLK_TRK_OUTB x.otrk.length (portDie p) (p % 4)).put F.PLK_TRK_INB x.itrk.length (portDie p) (p % 4)

/-- The lowest free outbound entry. -/
def PPort.freeTag (x : PPort) : Option Nat := (List.range 4096).find? fun t => !(x.otrk.any fun o => o.tag == t)

/-- The die whose PLK_ROUT counts an outbound entry; none for a request in transit. -/
def LWho.die : LWho → Option Nat
  | .txn t => some t.src.die
  | .add m => some m.src.die
  | .transit _ _ => none

/-- OUT of a die's entry for a package changes by one; HOLD clears when it reaches zero (R343). -/
def Dev.outUp (d : Dev) (die pkg : Nat) : Dev := d.put F.PLK_ROUT_OUT (d.get F.PLK_ROUT_OUT die 0 pkg + 1) die 0 pkg
def Dev.outFall (d : Dev) (die pkg : Nat) : Dev := d.put F.PLK_ROUT_OUT (d.get F.PLK_ROUT_OUT die 0 pkg - 1) die 0 pkg

/-- A request takes an outbound entry and leaves by the port; none when no entry is free. -/
def Dev.portOut (d : Dev) (p pkg : Nat) (who : LWho) (m : LMsg) : Option Dev :=
  match (d.port p).freeTag with
  | none => none
  | some t =>
    let d1 := d.modPort p fun x => { x with otrk := x.otrk ++ [⟨t, who, pkg, d.tick (portDie p)⟩] }
    let d2 := match who.die with | some die => d1.outUp die pkg | none => d1
    some ((d2.portTrk p).portSend p 0 { m with tag := t })

/-- An answer leaves by the port its request came from, and the inbound entry is free; one that finds no entry is late. -/
def Dev.answerIn (d : Dev) (p itag kind : Nat) (hdr lines : Bytes) : Dev :=
  match (d.port p).itrk.find? fun e => e.tag == itag with
  | none => d.countSat F.PLK_NLATE_COUNT 1 (portDie p)
  | some e =>
    let d1 := d.modPort p fun x => { x with itrk := x.itrk.filter fun y => y.tag != itag }
    (d1.portTrk p).portSend p 1 ⟨kind, 0, e.msg.spkg, e.msg.dpkg, e.msg.tag, hdr, lines⟩

/-- A tumbler add to another package fails (R345): its engine halts. -/
def Dev.addFail (d : Dev) (p pkg : Nat) (m : CtlMsg) (stat : Nat) : Dev :=
  match m.src with
  | .eng die e =>
    let idx := m.tumb % 2 ^ 16
    match (d.eng die e).radds.find? fun a => a.1 == pkg && a.2.1 == idx with
    | none => d.countSat F.HUB_RDROP_COUNT 1 die
    | some a =>
      let d1 := d.modEng die e fun g => { g with unacked := g.unacked.erase (4 + pkg, idx), radds := g.radds.erase a }
      (d1.engFail die e a.2.2.1 0 ⟨causeOf stat true, stat + 2 ^ 8 * p, a.2.2.2⟩).engFollow die e
  | _ => d

/-- An outbound entry is answered FAIL toward its source, counted in PLK_NFAIL; its OUT falls (R342, R344). The STAT a source
in the package sees carries the port. -/
def Dev.otrkFail (d : Dev) (p stat : Nat) (o : OTrk) : Dev :=
  let die := portDie p
  let d0 := d.modPort p fun x => { x with otrk := x.otrk.filter fun y => y.tag != o.tag }
  let d1 := (d0.portTrk p).countSat F.PLK_NFAIL_COUNT 1 die
  let d2 := match o.who.die with | some s => d1.outFall s o.pkg | none => d1
  match o.who with
  | .txn t => d2.respond t (stat + 2 ^ 8 * p) []
  | .add m => d2.addFail p o.pkg m stat
  | .transit ip it =>
    match (d2.port ip).itrk.find? fun e => e.tag == it with
    | none => d2
    | some e => d2.answerIn ip it 0 (e.msg.failHdr stat) []

/-! Routes (R340, R344) -/

/-- Port of a route at a place: 0 PRI, 1 ALT1, 2 ALT2, when valid. -/
def Dev.routeAt (d : Dev) (die pkg i : Nat) : Option Nat :=
  match i with
  | 0 => if d.on? F.PLK_ROUTE_PV die 0 pkg then some (d.get F.PLK_ROUTE_PRI die 0 pkg) else none
  | 1 => if d.on? F.PLK_ROUTE_A1V die 0 pkg then some (d.get F.PLK_ROUTE_ALT1 die 0 pkg) else none
  | _ => if d.on? F.PLK_ROUTE_A2V die 0 pkg then some (d.get F.PLK_ROUTE_ALT2 die 0 pkg) else none

/-- The first place from `from_` on whose port is valid and UP; 3 for none. -/
def Dev.routeFirst (d : Dev) (die pkg from_ : Nat) : Nat :=
  (([0, 1, 2].filter fun i => from_ ≤ i).find? fun i =>
    match d.routeAt die pkg i with | some q => d.portSt q == plkUp | none => false).getD 3

/-- Packages whose entry a die has written. -/
def Dev.routed (d : Dev) (die : Nat) : List Nat := (d.rf.filter fun e => e.1.reg == .PLK_ROUTE && e.1.die == die).map fun e => e.1.s

/-- Every die moves the entries whose CUR names a port to their next alternate that is UP, or to none, without HOLD. -/
def Dev.moveRoutes (d : Dev) (p : Nat) : Dev :=
  (List.range d.ndies).foldl (fun d0 die =>
    (d0.routed die).foldl (fun d' pkg =>
      if d'.routePort die pkg = some p then d'.put F.PLK_ROUTE_CUR (d'.routeFirst die pkg (d'.get F.PLK_ROUTE_CUR die 0 pkg + 1)) die 0 pkg
      else d') d0) d

/-- HOLD clears on entries with nothing outstanding (R343, R346). -/
def Dev.holdsClear (d : Dev) : Dev :=
  (List.range d.ndies).foldl (fun d0 die =>
    (d0.routed die).foldl (fun d' pkg =>
      if d'.get F.PLK_ROUT_OUT die 0 pkg = 0 then d'.put F.PLK_ROUTE_HOLD 0 die 0 pkg else d') d0) d

/-! DOWN (R344) -/

/-- What a port holds is discarded, its outbound requests fail with PATH, its inbound entries are forgotten. -/
def Dev.portFlush (d : Dev) (p : Nat) : Dev :=
  let x := d.port p
  let d1 := d.setPort p { PPort.initial with pend := x.pend, at_ := x.at_, qretry := x.qretry, storm := x.storm, otrk := x.otrk, itag := x.itag, wire := x.wire }
  ((x.otrk.foldl (fun d' o => d'.otrkFail p statPath o) d1).portTrk p).holdsClear

/-- The port enters DOWN. -/
def Dev.portDown (d : Dev) (p : Nat) : Dev :=
  let d1 := (d.setPortSt p plkDown).put F.PLK_PSTAT_LANES 0 (portDie p) (p % 4)
  ((d1.moveRoutes p).portFlush p).portRec p 1

/-- A lane is lost to its port in service (R339). -/
def Dev.portLaneLost (d : Dev) (die l : Nat) : Dev :=
  match d.lanePort die l with
  | none => d
  | some (p, i) =>
    if (d.portSt p = plkUp ∨ d.portSt p = plkRetrain) ∧ hasBit (d.portMask p) i = true then
      let m := clrBit (d.portMask p) i
      let d1 := d.put F.PLK_PSTAT_LANES m die (p % 4)
      if popCount m 4 < d1.get F.PLK_PCTL_MINL die (p % 4) then d1.portDown p else d1
    else d

end Sys2Proof.Machine
end

