-- ==== Sys2Proof/Machine/Lanes.lean ====
section
/-!
DEFINITION. Serial lanes (R303–R325): states and commands, training, the receive path (RS(544,516), descrambler, elastic
buffer), loop timing, the eye monitor, doze and deep sleep, test patterns.
-/
namespace Sys2Proof.Machine

/-! States (R311) -/

def laneStOff : Nat := 0
def laneCal : Nat := 1
def laneAdapt : Nat := 2
def laneAlign : Nat := 3
def laneTrain : Nat := 4
def laneUp : Nat := 5
def laneSleep : Nat := 6
def laneTest : Nat := 7
def laneDown : Nat := 8

def Dev.laneSt (d : Dev) (die l : Nat) : Nat := d.get F.SER_LSTAT_STATE die l

/-- STATE is entered. -/
def Dev.setLaneSt (d : Dev) (die l st : Nat) : Dev :=
  (d.put F.SER_LSTAT_STATE st die l).modLane die l fun x => { x with at_ := d.tick die, ready := 0 }

/-- The lane is bonded out and its die's carrier domain powered. -/
def Dev.laneHere (d : Dev) (die l : Nat) : Bool := hasBit (d.get F.SER_PRES_LANES die) l && d.carrierUp die

/-- The lane runs in Ethernet mode (R304). -/
def ethLane (l : Nat) : Bool := decide (17 ≤ l)

/-- A sticky bit is set, and a record of the link class posted (R325). -/
def Dev.laneErr (d : Dev) (die l : Nat) (f : Fld) (code : Nat) : Dev :=
  let d1 := d.put f 1 die l
  d1.linkRec die code 4 l (d1.raw ⟨.SER_LSTAT, die, l, 0⟩)

/-- Neither direction dozes. -/
def Dev.laneAwake (d : Dev) (die l : Nat) : Dev := (d.put F.SER_LSTAT_TXDZ 0 die l).put F.SER_LSTAT_RXDZ 0 die l

/-! Sequences and commands (R308, R312, R314, R320–R322) -/

/-- The full sequence begins at CAL, in local timing (R308, R312). -/
def Dev.laneFull (d : Dev) (die l : Nat) (again : Bool) : Dev :=
  let d1 := ((d.laneAwake die l).put F.SER_LSTAT_LOOPT 0 die l).count F.SER_NEVT_NTRAIN 1 die l
  (d1.setLaneSt die l laneCal).modLane die l fun x =>
    { x with seq := 1, retry := again, lock := false, hdrs := [], ebuf := [], out := [], req := false, farReq := false, ident := none,
             fast := none, low := none, wakes := 0 }

/-- The lane is held DOWN. -/
def Dev.laneDownNow (d : Dev) (die l : Nat) : Dev :=
  (((d.laneAwake die l).setLaneSt die l laneDown).modLane die l fun x => { x with seq := 0, lock := false, out := [], ebuf := [] }).portLaneLost die l

/-- Codewords of one control type are sent. -/
def Dev.laneSend (d : Dev) (die l type n : Nat) : Dev := d.modLane die l fun x => { x with sent := x.sent ++ [(type, n)] }

/-- Deep sleep is entered; calibration and equaliser settings stay (R320). -/
def Dev.laneSleepNow (d : Dev) (die l : Nat) : Dev :=
  ((d.laneAwake die l).setLaneSt die l laneSleep).modLane die l fun x => { x with seq := 0, lock := false, out := [], ebuf := [], hdrs := [], ident := none }

/-- The exit from deep sleep begins (R321). -/
def Dev.laneWakeNow (d : Dev) (die l : Nat) : Dev := (d.setLaneSt die l laneCal).modLane die l fun x => { x with seq := 4, retry := false }

/-- Sticky bits of a lane cleared, as a TRAIN command does (R449). -/
def Dev.laneClear (d : Dev) (die l : Nat) : Dev :=
  d.setRaw ⟨.SER_LSTAT, die, l, 0⟩ (setBits (d.raw ⟨.SER_LSTAT, die, l, 0⟩) 21 16 0)

/-- A command acts; one that its state does not accept has no effect (R314). A transmitter that dozes wakes before it sends
SLEEP (R319). -/
def Dev.laneCmd (d : Dev) (die l cmd : Nat) : Dev :=
  let st := d.laneSt die l
  match cmd with
  | 1 =>
    if st = laneStOff ∨ st = laneUp ∨ st = laneTest ∨ st = laneDown then
      ((if st = laneUp then d.portLaneLost die l else d).laneClear die l).laneFull die l false
    else d
  | 2 => if st = laneStOff then d else d.laneDownNow die l
  | 3 =>
    if st = laneUp ∧ ethLane l = false then
      let d1 := if d.on? F.SER_LSTAT_TXDZ die l then d.laneSend die l 4 16 else d
      (d1.laneSend die l 3 16).laneSleepNow die l
    else d
  | 4 => if st = laneSleep then d.laneWakeNow die l else d
  | 5 =>
    if st = laneUp ∨ st = laneDown then
      (((d.laneAwake die l).setLaneSt die l laneTest).modLane die l fun x => { x with prbsN := 0, prbs := 0, out := [], ebuf := [] }).portLaneLost die l
    else d
  | _ => d

/-- The lane is in a sequence. -/
def Dev.laneBusy (d : Dev) (die l : Nat) : Bool := let st := d.laneSt die l; laneCal ≤ st && st ≤ laneTrain

/-- A command is written: held one deep during a sequence, without effect while PEND is 1 (R314). -/
def Dev.laneCmdWrite (d : Dev) (die l cmd : Nat) : Dev :=
  if !d.laneHere die l || cmd < 1 || 5 < cmd then d
  else if d.laneBusy die l then
    if d.on? F.SER_LCTL_PEND die l then d
    else (d.put F.SER_LCTL_PEND 1 die l).modLane die l fun x => { x with pend := cmd }
  else d.laneCmd die l cmd

/-- The sequence has ended: a held command runs. -/
def Dev.laneEnded (d : Dev) (die l : Nat) : Dev :=
  let c := (d.lane die l).pend
  if c = 0 then d else ((d.put F.SER_LCTL_PEND 0 die l).modLane die l fun x => { x with pend := 0 }).laneCmd die l c

/-- A write to SER_LCTL: each lane takes the one MODE it supports, in OFF or DOWN (R304); then the command. -/
def Dev.laneCtlWrite (d : Dev) (die l v : Nat) : Dev :=
  if !d.laneHere die l then d
  else
    let d1 := d.writeGen ⟨.SER_LCTL, die, l, 0⟩ v [F.SER_LCTL_MODE]
    let st := d.laneSt die l
    let m := bitsOf v 5 4
    let d2 := if (st = laneStOff ∨ st = laneDown) ∧ m = (if ethLane l then 1 else 0) then d1.put F.SER_LCTL_MODE m die l else d1
    d2.laneCmdWrite die l (v % 8)

/-- The lane enters UP with its elastic buffer at its centre. -/
def Dev.laneEnterUp (d : Dev) (die l : Nat) : Dev :=
  ((d.setLaneSt die l laneUp).modLane die l fun x =>
    { x with seq := 0, retry := false, ebuf := List.replicate 4 ⟨3, []⟩, out := [], hdrs := [], fast := none, low := none,
             seen := d.tick die, stepAt := d.tick die }).laneEnded die l

/-! Alignment and loop timing (R307–R310) -/

/-- Alignment is lost: delivery stops and the lane hunts again (R310). -/
def Dev.laneLoss (d : Dev) (die l : Nat) : Dev :=
  let d1 := (d.put F.SER_LSTAT_ALIGNLOSS 1 die l).count F.SER_NEVT_NLOSS 1 die l
  (d1.setLaneSt die l laneAlign).modLane die l fun x => { x with seq := 3, lock := false, hdrs := [], ebuf := [] }

/-- The short TRAIN of the fall-back begins, with or without a request of this end (R308). -/
def Dev.laneShort (d : Dev) (die l : Nat) (req : Bool) : Dev :=
  (d.setLaneSt die l laneTrain).modLane die l fun x => { x with seq := 2, retry := false, req := req, farReq := false, ebuf := [] }

/-- A block is lost at a full elastic buffer (R307, R308): ELASTIC, a record, and the fall-back; TRAINERR when it recurs within
1 s of a refusal. -/
def Dev.laneElastic (d : Dev) (die l : Nat) : Dev :=
  let x := d.lane die l
  let d1 := d.laneErr die l F.SER_LSTAT_ELASTIC 6
  let again := match x.refused with | some t => decide (d.tick die ≤ t + 1000000) | none => false
  let d2 := if again then d1.laneErr die l F.SER_LSTAT_TRAINERR 4 else d1
  if d2.on? F.SER_LCTL_LOOPOK die l then d2.laneShort die l true
  else d2.modLane die l fun y => { y with refused := some (d.tick die) }

/-- The far end's frequency has been measured, in 0.1 ppm (R307). -/
def Dev.lanePpm (d : Dev) (die l offs : Nat) : Dev :=
  if !d.laneHere die l || d.laneSt die l != laneUp then d
  else
    let fast := decide (4000 < sext 16 offs)
    (d.put F.SER_PPM_OFFS (offs % 2 ^ 16) die l).modLane die l fun x =>
      { x with fast := if fast then some (x.fast.getD (d.tick die)) else none }

/-- The offset has stayed above +400 ppm for 100 µs: loop timing is requested (R308). -/
def Dev.laneLoopReq (d : Dev) (die l : Nat) : Dev :=
  match (d.lane die l).fast with
  | none => d
  | some t =>
    if d.laneSt die l = laneUp ∧ d.on? F.SER_LCTL_LOOPOK die l = true ∧ d.on? F.SER_LSTAT_LOOPT die l = false ∧ d.late die t 100 = true then
      (d.modLane die l fun x => { x with fast := none }).laneShort die l true
    else d

/-- The hunter has tested a candidate: 64 consecutive valid headers lock (R309). -/
def Dev.laneLock (d : Dev) (die l : Nat) (hdrs : List Nat) : Dev :=
  if d.laneHere die l && d.laneSt die l == laneAlign && decide (64 ≤ hdrs.length) && hdrs.all fun h => h == 1 || h == 2 then
    d.modLane die l fun x => { x with lock := true }
  else d

/-- Not relocked within 1 ms: the full sequence from ADAPT (R310). -/
def Dev.laneRelock (d : Dev) (die l : Nat) : Dev :=
  let x := d.lane die l
  if d.laneSt die l = laneAlign ∧ x.seq = 3 ∧ x.lock = false ∧ d.late die x.at_ 1000 = true then
    ((d.laneFull die l false).setLaneSt die l laneAdapt)
  else d

/-! Training (R312, R313) -/

/-- This end keeps local timing when both ends request loop timing (R308). -/
def Dev.laneKeeps (d : Dev) (die l : Nat) : Bool :=
  let x := d.lane die l
  let own := d.get F.KRG_PKG_PKG die
  if own = x.farPkg then decide (l < x.farLane) else decide (own < x.farPkg)

/-- A state of the sequence ends (R308, R312, R321). -/
def Dev.laneStep (d : Dev) (die l : Nat) (r : LaneRes) : Dev :=
  let x := d.lane die l
  if !d.laneHere die l then d
  else
    match d.laneSt die l with
    | 1 => d.setLaneSt die l laneAdapt
    | 2 =>
      let d1 := ((d.put F.SER_LSTAT_FOM (r.fom % 2 ^ 8) die l).put F.SER_RXEQ_CTLE (r.ctle % 2 ^ 5) die l).put F.SER_RXEQ_DFE1 (r.dfe1 % 2 ^ 7) die l
      let d2 := if x.seq = 1 then d1.setRaw ⟨.SER_TXEQ, die, l, 0⟩ (r.txeq % 2 ^ 24) else d1
      if d2.get F.SER_FOMCFG_FOMTRN die l ≤ r.fom then d2.setLaneSt die l laneAlign else d2
    | 3 =>
      if x.lock then (if ethLane l || x.seq == 3 then d.laneEnterUp die l else d.setLaneSt die l laneTrain) else d
    | 4 =>
      if !r.sent || x.ready < 64 then d
      else if x.seq = 2 then
        let loop := x.req && !(x.farReq && d.laneKeeps die l)
        let d1 := d.put F.SER_LSTAT_LOOPT (if loop then 1 else 0) die l
        let d2 := if x.req && !loop then d1.modLane die l fun y => { y with refused := some (d.tick die) } else d1
        d2.laneEnterUp die l
      else d.laneEnterUp die l
    | _ => d

/-- ADAPT or TRAIN has taken 10 ms: the sequence is repeated once, then TRAINERR and DOWN (R312). -/
def Dev.laneTimeout (d : Dev) (die l : Nat) : Dev :=
  let x := d.lane die l
  let st := d.laneSt die l
  if d.laneHere die l && (st == laneAdapt || st == laneTrain) && d.late die x.at_ 10000 then
    if x.retry then ((d.laneErr die l F.SER_LSTAT_TRAINERR 4).laneDownNow die l).laneEnded die l
    else d.laneFull die l true
  else d

/-! The receive path (R305–R307, R310) -/

/-- GF(2^10) of R305, and the two codes: RS(544,516), and RS(544,514) of the Ethernet lanes. -/
def gf10 : GF := ⟨10, 0x409⟩
def laneCode : RSCode := ⟨gf10, 544, 28⟩
def ethCode : RSCode := ⟨gf10, 544, 30⟩

/-- Bits of symbols in the order sent: the most significant bit of each first (R305). -/
def symBits (syms : List Nat) : List Bool := syms.flatMap fun s => (List.range 10).map fun j => hasBit s (9 - j)

/-- Bits of a byte string in the order sent: bit 0 of each byte first (R306). -/
def byteBits (bs : Bytes) : List Bool := bs.flatMap fun b => (List.range 8).map fun j => hasBit b.toNat j

/-- Bytes of a bit string in that order. -/
def bitBytes (bits : List Bool) : Bytes :=
  (List.range (bits.length / 8)).map fun k => BitVec.ofNat 8 (ofBits ((bits.drop (8 * k)).take 8))

/-- Payload bits descrambled by x^58 + x^39 + 1; the state is the last 58 bits received (R306). -/
def descramble (s : Nat) : List Bool → List Bool × Nat
  | [] => ([], s)
  | b :: bs =>
    let o := (b != hasBit s 38) != hasBit s 57
    let (r, s') := descramble ((2 * s + if b then 1 else 0) % 2 ^ 58) bs
    (o :: r, s')

/-- Blocks of a codeword, as far as its bits go: header (the first bit sent is the more significant) and payload bits. -/
def cutBlocks : Nat → List Bool → List (Nat × List Bool)
  | 0, _ => []
  | n + 1, bits =>
    ((if bits.headD false then 2 else 0) + (if (bits.drop 1).headD false then 1 else 0), (bits.drop 2).take 256) :: cutBlocks n (bits.drop 258)

/-- Blocks descrambled in order. -/
def descrambleAll (s : Nat) : List (Nat × List Bool) → List (Nat × Bytes) × Nat
  | [] => ([], s)
  | (h, bits) :: bs =>
    let (p, s1) := descramble s bits
    let (r, s2) := descrambleAll s1 bs
    ((h, bitBytes p) :: r, s2)

/-- The bits of a wake codeword's blocks, sent unscrambled (R306, R318). -/
def wakeBits : List Bool :=
  (List.range 20).flatMap fun _ => true :: false :: byteBits (0x04 :: List.replicate 31 0xA5)

/-- Received PRBS31 bits checked against x^31 + x^28 + 1: the first 31 seed the checker; mismatches are counted (R322). -/
def prbsCheck (n s errs : Nat) : List Bool → Nat × Nat × Nat
  | [] => (n, s, errs)
  | b :: bs =>
    if n < 31 then prbsCheck (n + 1) (2 * s + if b then 1 else 0) errs bs
    else
      let e := hasBit s 30 != hasBit s 27
      prbsCheck n ((2 * s + if e then 1 else 0) % 2 ^ 31) (if b = e then errs else errs + 1) bs

/-- One local block period: an entry leaves the elastic buffer, or an empty slot is read (R307). -/
def Dev.laneTake (d : Dev) (die l : Nat) : Dev :=
  let x := d.lane die l
  match x.ebuf with
  | [] => d.count F.SER_NFILL_INS 1 die l
  | b :: bs => d.setLane die l { x with ebuf := bs, out := if b.kind = 3 then x.out else x.out ++ [b] }

def Dev.laneTakes (d : Dev) (die l : Nat) : Nat → Dev
  | 0 => d
  | n + 1 => (d.laneTake die l).laneTakes die l n

/-- A block enters the elastic buffer. -/
def Dev.lanePut (d : Dev) (die l : Nat) (b : Blk) : Dev :=
  let x := d.lane die l
  if 8 ≤ x.ebuf.length then d.laneElastic die l else d.setLane die l { x with ebuf := x.ebuf ++ [b] }

/-- A header is judged: 16 of 64 consecutive invalid ones lose the alignment (R310). -/
def Dev.laneJudge (d : Dev) (die l h : Nat) : Dev :=
  let x := d.lane die l
  let hs := ((!(h == 1 || h == 2)) :: x.hdrs).take 64
  let d1 := d.setLane die l { x with hdrs := hs }
  if 16 ≤ (hs.filter id).length then d1.laneLoss die l else d1

/-- A TRAIN block of the far end (R313). -/
def Dev.laneTrainBlk (d : Dev) (die l : Nat) (b : Bytes) : Dev :=
  let sts := field b 5 1
  d.modLane die l fun x =>
    { x with ready := if hasBit sts 0 then x.ready + 1 else 0, farReq := x.farReq || hasBit sts 1, farLane := field b 1 1,
             farPkg := field b 2 2 % 2 ^ 12 }

/-- A block of a decoded codeword in UP (R306, R307), `n` local block periods long. A TRAIN block with LOOPREQ takes the lane
into the short TRAIN; a control block of an undefined type is discarded. -/
def Dev.laneBlock (d : Dev) (die l : Nat) (ue : Bool) (h : Nat) (b : Bytes) (n : Nat) : Dev :=
  let d1 := d.laneJudge die l h
  if d1.laneSt die l ≠ laneUp then d1
  else
    let t := field b 0 1
    let d2 :=
      if ue then d1.lanePut die l ⟨2, []⟩
      else if h = 1 then d1.lanePut die l ⟨0, b⟩
      else if h = 2 ∧ t = 0x01 then
        (if (d1.lane die l).ebuf.length < 4 then d1.lanePut die l ⟨3, []⟩ else d1.count F.SER_NFILL_DEL 1 die l)
      else if h = 2 ∧ t = 0x08 ∧ hasBit (field b 5 1) 1 = true then (d1.laneShort die l false).laneTrainBlk die l b
      else if h = 2 ∧ 0x10 ≤ t ∧ t ≤ 0x7F then d1.lanePut die l ⟨1, b⟩
      else d1.lanePut die l ⟨3, []⟩
    if d2.laneSt die l ≠ laneUp then d2 else d2.laneTakes die l n

/-- Blocks of a codeword in order; `takes` are the local block periods of each, one when not given. -/
def Dev.laneBlocks (d : Dev) (die l : Nat) (ue : Bool) (takes : List Nat) : Nat → List (Nat × Bytes) → Dev
  | _, [] => d
  | k, (h, b) :: bs =>
    let d1 := if d.laneSt die l = laneUp then d.laneBlock die l ue h b (takes.getD k 1) else d
    Dev.laneBlocks d1 die l ue takes (k + 1) bs

/-- Every block of a codeword is a control block of one type. -/
def allType (bs : List (Nat × Bytes)) (t : Nat) : Bool := bs.all fun b => b.1 == 2 && field b.2 0 1 == t

/-- The lane wakes from receive doze on wake codewords: after 64 valid headers the next codeword is delivered (R317). -/
def Dev.laneRxWake (d : Dev) (die l : Nat) : Dev :=
  (d.put F.SER_LSTAT_RXDZ 0 die l).modLane die l fun x => { x with wakes := 0, ebuf := List.replicate 4 ⟨3, []⟩, hdrs := [] }

/-- A codeword of 544 symbols is received (R305–R310, R313, R316–R320, R322). -/
def Dev.codeword (d : Dev) (die l : Nat) (syms takes : List Nat) : Dev :=
  let st := d.laneSt die l
  let r := (List.range 544).map fun i => syms.getD i 0 % 1024
  let d0 := d.modLane die l fun x => { x with seen := d.tick die }
  if !d.laneHere die l then d
  else if ethLane l then
    if st ≠ laneUp then d
    else
      let d1 := d0.count64 F.SER_NCW_LO_COUNT F.SER_NCW_HI_COUNT 1 die l
      match ethCode.decode r [] 15 with
      | some e => d1.countSat F.SER_NCORR_COUNT (e.filter fun s => s != 0).length die l
      | none => d1.countSat F.SER_NUNC_COUNT 1 die l
  else if st = laneTest then
    if d.on? F.SER_LCTL_PRBS die l then
      let x := d.lane die l
      let (n, s, e) := prbsCheck x.prbsN x.prbs 0 (symBits r)
      (d0.modLane die l fun y => { y with prbsN := n, prbs := s }).countSat F.SER_NPRBS_COUNT e die l
    else d0
  else
    let raw := symBits r
    let wake := raw.take 5160 == wakeBits
    if st = laneAlign then (if wake then d0.modLane die l fun x => { x with lock := true } else d0)
    else if st ≠ laneTrain ∧ st ≠ laneUp then d0
    else
      let d1 := d0.count64 F.SER_NCW_LO_COUNT F.SER_NCW_HI_COUNT 1 die l
      let dec := laneCode.decode r [] 14
      let fixed := match dec with | some e => List.zipWith (fun a b => a ^^^ b) r e | none => r
      let ue := dec.isNone
      let d2 := match dec with
        | some e => d1.countSat F.SER_NCORR_COUNT (e.filter fun s => s != 0).length die l
        | none => d1.countSat F.SER_NUNC_COUNT 1 die l
      let (blks, s') := descrambleAll (d.lane die l).scr (cutBlocks 20 (symBits fixed))
      let d3 := d2.modLane die l fun x => { x with scr := s' }
      if wake then d3.modLane die l fun x => { x with wakes := x.wakes + 1 }
      else if st = laneTrain then
        if ue then d3.modLane die l fun x => { x with ready := 0 }
        else blks.foldl (fun d' b => if b.1 = 2 ∧ field b.2 0 1 = 8 then d'.laneTrainBlk die l b.2 else d') d3
      else if d3.on? F.SER_LSTAT_RXDZ die l && (d3.lane die l).wakes < 4 then d3
      else
        let d4 := if d3.on? F.SER_LSTAT_RXDZ die l then d3.laneRxWake die l else d3
        if !ue && allType blks 2 then d4.put F.SER_LSTAT_RXDZ 1 die l
        else if !ue && allType blks 3 then (d4.laneSleepNow die l)
        else d4.laneBlocks die l ue takes 0 blks

/-! The eye monitor (R315) -/

/-- floor(4·sqrt(v·w)), at most 255. -/
def eyeFom (v w : Nat) : Nat := ((List.range 256).filter fun k => k * k ≤ 16 * (min v 63 * min w 63)).length - 1

/-- FOM over the three eyes. -/
def fomOf (eyes : List (Nat × Nat)) : Nat := (eyes.map fun e => eyeFom e.1 e.2).foldl min 255

/-- The eye monitor refreshes FOM; 10 ms below FOMMIN sets LOWFOM. -/
def Dev.laneFom (d : Dev) (die l : Nat) (eyes : List (Nat × Nat)) : Dev :=
  let st := d.laneSt die l
  if !d.laneHere die l || !(laneAdapt ≤ st && st ≤ laneUp) || d.on? F.SER_LSTAT_RXDZ die l then d
  else
    let f := fomOf eyes
    let d1 := d.put F.SER_LSTAT_FOM f die l
    if st ≠ laneUp ∨ d1.get F.SER_FOMCFG_FOMMIN die l ≤ f then d1.modLane die l fun x => { x with low := none }
    else
      match (d1.lane die l).low with
      | none => d1.modLane die l fun x => { x with low := some (d.tick die) }
      | some t =>
        if d1.late die t 10000 ∧ d1.on? F.SER_LSTAT_LOWFOM die l = false then d1.laneErr die l F.SER_LSTAT_LOWFOM 5 else d1

/-- A distance of at most one step between settings. -/
def oneStep (a b : Nat) : Nat := if a = b then 0 else if a + 1 = b ∨ b + 1 = a then 1 else 2

/-- In UP, receiver settings move by one step when that raises FOM, at most once in 1 ms. -/
def Dev.laneAdaptStep (d : Dev) (die l ctle dfe1 fom : Nat) : Dev :=
  let x := d.lane die l
  let far := oneStep (d.get F.SER_RXEQ_CTLE die l) (ctle % 2 ^ 5) +
    (if dfe1 % 2 ^ 7 = d.get F.SER_RXEQ_DFE1 die l then 0
     else if sext 7 dfe1 = sext 7 (d.get F.SER_RXEQ_DFE1 die l) + 1 ∨ sext 7 dfe1 + 1 = sext 7 (d.get F.SER_RXEQ_DFE1 die l) then 1 else 2)
  if d.laneHere die l && d.laneSt die l == laneUp && !d.on? F.SER_LSTAT_RXDZ die l && far == 1 && x.stepAt + 1000 ≤ d.tick die &&
      d.get F.SER_LSTAT_FOM die l < fom % 2 ^ 8 then
    (((d.put F.SER_RXEQ_CTLE (ctle % 2 ^ 5) die l).put F.SER_RXEQ_DFE1 (dfe1 % 2 ^ 7) die l).put F.SER_LSTAT_FOM (fom % 2 ^ 8) die l).modLane die l
      fun y => { y with stepAt := d.tick die }
  else d

/-! Doze (R316–R319) -/

/-- Doze is requested: by the port layer or by TXDOZE. -/
def Dev.dozeWanted (d : Dev) (die l : Nat) : Bool := (d.lane die l).doze || d.on? F.SER_LCTL_TXDOZE die l

/-- A transmitter whose conditions hold sends a DOZE codeword and squelches. -/
def Dev.laneDoze (d : Dev) (die l : Nat) : Dev :=
  if d.laneHere die l && d.laneSt die l == laneUp && !ethLane l && d.dozeWanted die l && !d.on? F.SER_LSTAT_TXDZ die l then
    ((d.laneSend die l 2 1).put F.SER_LSTAT_TXDZ 1 die l).modLane die l fun x => { x with dozeAt := d.tick die }
  else d

/-- The request has ended: the transmitter sends 16 wake codewords. -/
def Dev.laneUndoze (d : Dev) (die l : Nat) : Dev :=
  if d.laneHere die l && d.on? F.SER_LSTAT_TXDZ die l && !d.dozeWanted die l then
    (d.laneSend die l 4 16).put F.SER_LSTAT_TXDZ 0 die l
  else d

/-- After 100 ms of doze the transmitter wakes for 4,096 IDLE codewords, and dozes again while the request holds. -/
def Dev.laneRefresh (d : Dev) (die l : Nat) : Dev :=
  if d.laneHere die l && d.on? F.SER_LSTAT_TXDZ die l && d.late die (d.lane die l).dozeAt 100000 then
    let d1 := (d.laneSend die l 4 16).laneSend die l 0 4096
    if d.dozeWanted die l then (d1.laneSend die l 2 1).modLane die l fun x => { x with dozeAt := d.tick die }
    else d1.put F.SER_LSTAT_TXDZ 0 die l
  else d

/-- A far receiver has not locked 1 µs after the end of a doze: WAKEERR, and the hunt. -/
def Dev.laneWakeErr (d : Dev) (die l : Nat) : Dev :=
  if d.laneHere die l && d.laneSt die l == laneUp && d.on? F.SER_LSTAT_RXDZ die l then
    ((d.laneErr die l F.SER_LSTAT_WAKEERR 8).put F.SER_LSTAT_RXDZ 0 die l).laneLoss die l
  else d

/-! Deep sleep and loss of signal (R316, R321) -/

/-- The signal detector of a sleeping lane sees the far end's clock pattern. -/
def Dev.laneDetect (d : Dev) (die l : Nat) : Dev :=
  if d.laneHere die l && d.laneSt die l == laneSleep then d.laneWakeNow die l else d

/-- The far end has not answered within 20 ms: WAKEERR, and the full sequence. -/
def Dev.laneWakeLate (d : Dev) (die l : Nat) : Dev :=
  let x := d.lane die l
  if d.laneHere die l && d.laneBusy die l && x.seq == 4 && d.late die x.at_ 20000 then
    (d.laneErr die l F.SER_LSTAT_WAKEERR 8).laneFull die l false
  else d

/-- The signal is lost without a DOZE codeword. -/
def Dev.laneLos (d : Dev) (die l : Nat) : Dev :=
  if d.laneHere die l && d.laneSt die l == laneUp && !d.on? F.SER_LSTAT_RXDZ die l then
    (d.laneErr die l F.SER_LSTAT_LOS 7).laneLoss die l
  else d

/-- SER_FLT: lanes with a sticky bit set. -/
def Dev.serFlt (d : Dev) (die : Nat) : Nat := ofBits ((List.range 21).map fun l => bitsOf (d.raw ⟨.SER_LSTAT, die, l, 0⟩) 21 16 != 0)

end Sys2Proof.Machine
end

