-- ==== Sys2Proof/Machine/Links.lean ====
section
/-!
DEFINITION. Package links (R326–R348): training, identity check and qualification of a port, frames and LINK blocks at the
receiver, acknowledgement and replay, retry storms, requests and responses from other packages, routes, timeouts.
-/
namespace Sys2Proof.Machine

/-! Commands and training (R336, R339) -/

/-- The port is built and its die's carrier domain powered. -/
def Dev.portHere (d : Dev) (p : Nat) : Bool := d.portBuilt p && d.carrierUp (portDie p)

/-- The four lanes of a port. -/
def Dev.portLanes (d : Dev) (p : Nat) : List Nat := (List.range 4).map (d.laneOf p)

/-- The port trains from step 1 of R336; a port outside the transmit mask ends in DOWN (R398). -/
def Dev.portTrainNow (d : Dev) (p : Nat) : Dev :=
  let die := portDie p
  if !hasBit (d.get F.WRD_TXMASK_PORTS die) p then d.portDown p
  else
    let d1 := ((d.setPortSt p plkTrain).put F.PLK_PSTAT_LANES 0 die (p % 4)).moveRoutes p
    let d2 := (d1.portFlush p).modPort p fun x => { x with qretry := false }
    (d2.portLanes p).foldl (fun d' l => d'.laneFull die l false) d2

/-- Sticky bits of a port cleared, as a TRAIN command does (R449). -/
def Dev.portClear (d : Dev) (p : Nat) : Dev :=
  ((d.put F.PLK_PSTAT_QUALERR 0 (portDie p) (p % 4)).put F.PLK_PSTAT_STORM 0 (portDie p) (p % 4)).put F.PLK_PSTAT_PEERERR 0 (portDie p) (p % 4)

/-- A command acts: 1 TRAIN, 2 HOLD. -/
def Dev.portCmd (d : Dev) (p cmd : Nat) : Dev :=
  match cmd with
  | 1 => (d.portClear p).portTrainNow p
  | 2 => d.portDown p
  | _ => d

/-- The port is in a sequence: TRAIN, QUAL or RETRAIN. -/
def Dev.portBusy (d : Dev) (p : Nat) : Bool := let st := d.portSt p; st == plkTrain || st == plkQual || st == plkRetrain

/-- A sequence has ended: the held command runs. -/
def Dev.portEnded (d : Dev) (p : Nat) : Dev :=
  let c := (d.port p).pend
  if c = 0 then d
  else ((d.put F.PLK_PCTL_PEND 0 (portDie p) (p % 4)).modPort p fun x => { x with pend := 0 }).portCmd p c

/-- A command is written: held one deep during a sequence, without effect while PEND is 1. -/
def Dev.portCmdWrite (d : Dev) (p cmd : Nat) : Dev :=
  if !d.portHere p || cmd < 1 || 2 < cmd then d
  else if d.portBusy p then
    if d.on? F.PLK_PCTL_PEND (portDie p) (p % 4) then d
    else (d.put F.PLK_PCTL_PEND 1 (portDie p) (p % 4)).modPort p fun x => { x with pend := cmd }
  else d.portCmd p cmd

/-- A write to PLK_PCTL. -/
def Dev.plkCtlWrite (d : Dev) (die i v : Nat) : Dev := (d.writeGen ⟨.PLK_PCTL, die, i, 0⟩ v).portCmdWrite (4 * die + i) (v % 4)

/-- The port goes DOWN at the end of a sequence. -/
def Dev.portFail (d : Dev) (p : Nat) : Dev := (d.portDown p).portEnded p

/-! The identity check (R337) -/

/-- A lane of the port has ended its sequence: UP with the far identity known, or DOWN. -/
def Dev.laneSettled (d : Dev) (die l : Nat) : Bool :=
  (d.laneSt die l == laneUp && (d.lane die l).ident.isSome) || d.laneSt die l == laneDown

/-- Far package and port of the lane with index `i`, when it is UP. -/
def Dev.farOf (d : Dev) (p i : Nat) : Option (Nat × Nat × Nat) :=
  let l := d.laneOf p i
  if d.laneSt (portDie p) l = laneUp then (d.lane (portDie p) l).ident else none

/-- The far package and port that most lanes name, the lowest index first among equals. -/
def Dev.farPeer (d : Dev) (p : Nat) (is : List Nat) : Option (Nat × Nat) :=
  let all := is.filterMap fun i => (d.farOf p i).map fun x => (x.1, x.2.1)
  all.foldl (fun best x =>
    match best with
    | none => some x
    | some b => if all.count b < all.count x then some x else best) none

/-- Indices that pass the check. -/
def Dev.identPass (d : Dev) (p : Nat) (is : List Nat) : List Nat :=
  match d.farPeer p is with
  | none => []
  | some b => is.filter fun i => d.farOf p i == some (b.1, b.2, i)

/-- The check is made: PEERPKG and PEERPORT, LANES, PEERERR when a lane in UP fails. -/
def Dev.identCheck (d : Dev) (p : Nat) (is : List Nat) : Dev :=
  let die := portDie p
  let pass := d.identPass p is
  let d1 := match d.farPeer p is with
    | some b => (d.put F.PLK_PSTAT_PEERPKG b.1 die (p % 4)).put F.PLK_PSTAT_PEERPORT b.2 die (p % 4)
    | none => d
  let d2 := d1.put F.PLK_PSTAT_LANES (ofBits ((List.range 4).map fun i => pass.contains i)) die (p % 4)
  if is.any fun i => (d.farOf p i).isSome && !pass.contains i then (d2.put F.PLK_PSTAT_PEERERR 1 die (p % 4)).portRec p 9 else d2

/-- Fewer active lanes than MINL. -/
def Dev.portShort (d : Dev) (p : Nat) : Bool := decide (popCount (d.portMask p) 4 < d.get F.PLK_PCTL_MINL (portDie p) (p % 4))

/-- Qualification begins: the counters of each lane are noted (R338). -/
def Dev.portQualify (d : Dev) (p : Nat) : Dev :=
  let die := portDie p
  let base := (List.range 4).map fun i => (d.get F.SER_NUNC_COUNT die (d.laneOf p i), d.get F.SER_NCORR_COUNT die (d.laneOf p i))
  let d1 := (d.setPortSt p plkQual).modPort p fun x => { x with qbase := base, qbad := 0 }
  (d1.portLanes p).foldl (fun d' l => d'.modLane die l fun x => { x with prbsN := 0, prbs := 0 }) d1

/-- Steps 2 and 3 of R336: once every lane has settled, the identity check, then QUAL. -/
def Dev.portSettle (d : Dev) (p : Nat) : Dev :=
  if d.portSt p = plkTrain ∧ (d.portLanes p).all (d.laneSettled (portDie p)) = true then
    let d1 := d.identCheck p (List.range 4)
    if d1.portShort p then d1.portFail p else d1.portQualify p
  else d

/-- The port of a local lane settles, when it has one. -/
def Dev.laneSettle (d : Dev) (die l : Nat) : Dev :=
  match d.lanePort die l with
  | none => d
  | some (p, _) => d.portSettle p

/-- A lane of a port in training or retraining has come UP: it sends LINK blocks with IDV (R336 step 2). -/
def Dev.laneIdv (d : Dev) (die l : Nat) : Dev :=
  match d.lanePort die l with
  | none => d
  | some (p, i) =>
    if d.laneSt die l = laneUp ∧ (d.portSt p = plkTrain ∨ d.portSt p = plkRetrain) then
      d.modPort p fun x => { x with wire := x.wire ++ [(i, d.linkBlk p i false true)] }
    else d

/-! Qualification (R338) -/

/-- Index `i` passes its qualification. -/
def Dev.qualPass (d : Dev) (p i : Nat) : Bool :=
  let die := portDie p
  let l := d.laneOf p i
  let b := (d.port p).qbase.getD i (0, 0)
  d.laneSt die l == laneUp && d.get F.SER_NUNC_COUNT die l == b.1 &&
    decide (d.get F.SER_NCORR_COUNT die l - b.2 ≤ d.get F.PLK_QCORR_MAX die (p % 4)) && !hasBit (d.port p).qbad i

/-- The port enters UP with fresh buffers and credits. -/
def Dev.portUp (d : Dev) (p : Nat) : Dev :=
  let x := d.port p
  ((d.setPort p { PPort.initial with pend := x.pend, storm := x.storm, itag := x.itag, wire := x.wire }).setPortSt p plkUp).portEnded p

/-- The reserve lane can take an index of the port (R327, R338). -/
def Dev.reserveFor (d : Dev) (p : Nat) : Bool :=
  let die := portDie p
  !d.gf2 && d.on? F.PLK_RESERVE_EN die && d.get F.PLK_RESERVE_PORT die == p % 4 && !d.on? F.PLK_RESERVE_INUSE die

/-- The reserve lane replaces an index, and the port trains again. -/
def Dev.reserveTake (d : Dev) (p i : Nat) : Dev :=
  let die := portDie p
  (((d.put F.PLK_RESERVE_INUSE 1 die).put F.PLK_RESERVE_LIDX i die).put F.PLK_PSTAT_RSV 1 die (p % 4)).portTrainNow p

/-- QTIME has passed: UP, a second qualification, the reserve lane, fewer lanes, or DOWN. -/
def Dev.portQualEnd (d : Dev) (p : Nat) : Dev :=
  let die := portDie p
  let x := d.port p
  if d.portSt p = plkQual ∧ d.portHere p = true ∧ d.late die x.at_ (d.get F.PLK_QCTL_QTIME die (p % 4)) = true then
    let is := d.portIdx p
    let rises := is.map fun i => d.get F.SER_NCORR_COUNT die (d.laneOf p i) - (x.qbase.getD i (0, 0)).2
    let d1 := d.put F.PLK_QRES_COUNT (rises.foldl max 0) die (p % 4)
    let bad := is.filter fun i => !d1.qualPass p i
    match bad with
    | [] => d1.portUp p
    | b :: _ =>
      let d2 := (d1.put F.PLK_PSTAT_QUALERR 1 die (p % 4)).portRec p 3
      if !x.qretry then (d2.portQualify p).modPort p fun y => { y with qretry := true }
      else
        let d3 := d2.put F.PLK_PSTAT_LANES (ofBits ((List.range 4).map fun i => is.contains i && !bad.contains i)) die (p % 4)
        if d3.reserveFor p then d3.reserveTake p b
        else if d3.portShort p then d3.portFail p
        else d3.portUp p
  else d

/-! Acknowledgement and replay (R333, R334) -/

/-- `a` is at most `b` in the order of SEQ modulo 2^16. -/
def seqLe (a b : Nat) : Bool := decide ((b + 2 ^ 16 - a) % 2 ^ 16 < 2 ^ 15)

/-- Every held frame is sent again. -/
def Dev.portResend (d : Dev) (p : Nat) : Dev :=
  let d1 := (d.port p).held.foldl (fun d' f =>
    (d'.portWire p ((d'.port p).frame f)).count64 F.PLK_NFRM_LO_COUNT F.PLK_NFRM_HI_COUNT 1 (portDie p) (p % 4)) d
  d1.modPort p fun x => { x with ackAt := d.tick (portDie p) }

/-- A retry storm: STORM, a record, RETRAIN; DOWN for the second within 1 s (R334). -/
def Dev.portStorm (d : Dev) (p : Nat) : Dev :=
  let die := portDie p
  let now := d.tick die
  let d1 := (d.put F.PLK_PSTAT_STORM 1 die (p % 4)).portRec p 2
  match (d.port p).storm with
  | some t => if now ≤ t + 1000000 then d1.portDown p else retrain d1 now
  | none => retrain d1 now
where
  /-- Every active lane runs R312; traffic and held frames stay. -/
  retrain (d1 : Dev) (now : Nat) : Dev :=
    let d2 := (d1.setPortSt p plkRetrain).modPort p fun x => { x with storm := some now, nakSeq := none, nakRun := 0, replays := [] }
    (d2.portIdx p).foldl (fun d' i => d'.laneFull (portDie p) (d'.laneOf p i) false) d2

/-- A replay, counted; too many of them, or of NAKs with one ACKSEQ, are a storm. -/
def Dev.portReplay (d : Dev) (p : Nat) : Dev :=
  let die := portDie p
  let now := d.tick die
  let d1 := (d.countSat F.PLK_NREPLAY_COUNT 1 die (p % 4)).modPort p fun x =>
    { x with replays := (now :: x.replays).filter fun t => now < t + 1000 }
  let x := d1.port p
  if d1.get F.PLK_RCTL_RLIM die (p % 4) ≤ x.nakRun ∨ d1.get F.PLK_RCTL_RMAX die (p % 4) < x.replays.length then d1.portStorm p
  else d1.portResend p

/-- Acknowledgement, NAK and credits from the far end act on the transmitter. -/
def Dev.portAck (d : Dev) (p : Nat) (ackv nak : Bool) (ackseq req rsp : Nat) : Dev :=
  let x := d.port p
  let x1 := { x with cred := (min 256 (x.cred.1 + 16 * req), min 256 (x.cred.2 + 16 * rsp)) }
  let x2 := if ackv then { x1 with held := x1.held.filter fun f => !seqLe f.seq ackseq } else x1
  let x3 := if ackv && x2.held.length < x1.held.length then { x2 with acked := ackseq, ackAt := d.tick (portDie p) } else x2
  let x4 := if nak then { x3 with nakRun := if x3.nakSeq = some ackseq then x3.nakRun + 1 else 1, nakSeq := some ackseq } else x3
  let d1 := d.setPort p x4
  if d1.portSt p ≠ plkUp then d1 else (if nak then d1.portReplay p else d1).portRun p

/-- ACKSEQ has not advanced for ATMO ticks while frames are held. -/
def Dev.ackTimeout (d : Dev) (p : Nat) : Dev :=
  let x := d.port p
  if d.portHere p = true ∧ d.portSt p = plkUp ∧ x.held.isEmpty = false ∧
      d.late (portDie p) x.ackAt (d.get F.PLK_RCTL_ATMO (portDie p) (p % 4)) = true then d.portReplay p
  else d

/-! The receiver (R328–R333) -/

/-- The first thing a lane has delivered that begins a frame or is a LINK block; blocks of no frame are skipped, and control
types 0x13–0x7F discarded. -/
def frontBlk : List Blk → List Blk
  | [] => []
  | b :: bs => if b.kind = 1 ∧ (field b.bytes 0 1 = 0x10 ∨ field b.bytes 0 1 = 0x11 ∨ field b.bytes 0 1 = 0x12) then b :: bs else frontBlk bs

/-- A frame in assembly from its block 0: whole, or discarded for a block that is no data block, with the blocks that follow;
none while blocks are still to come. -/
def takeFrame (b : Blk) (bs : List Blk) : Option (Option Bytes × List Blk) :=
  let body := (bs.take 7).takeWhile fun x => x.kind == 0
  if body.length = 7 then some (some (slice b.bytes 0 32 ++ body.flatMap fun x => slice x.bytes 0 32), bs.drop 7)
  else
    match bs[body.length]? with
    | none => none
    | some x => some (none, bs.drop (if x.kind = 1 then body.length else body.length + 1))

/-- CRC and reserved fields of a frame are right (R329). -/
def frameOk (f : Bytes) : Bool :=
  field f 12 4 == crc32c (f.take 12 ++ f.drop 16) && field f 1 1 / 2 ^ 5 == 0 && field f 6 1 / 2 ^ 2 == 0 && field f 8 4 == 0

/-- The receiver sends its one NAK and discards what it holds ahead. -/
def Dev.portNak (d : Dev) (p : Nat) : Dev :=
  let x := d.port p
  if x.nak then d.setPort p { x with early := [] }
  else ((d.setPort p { x with nak := true, early := [] }).portUndoze p).portLink p true

/-- Whole messages received are delivered; frames that follow in order are accepted. -/
def PPort.accept (x : PPort) (f : LFrame) : PPort :=
  let s := (if f.sub = 1 then x.rxs.2 else x.rxs.1) ++ f.units
  let (ms, r) := parseMsgs 600 s
  { x with
    rx := f.seq, nak := false, owe := x.owe + 1,
    freed := if f.sub = 1 then (x.freed.1, x.freed.2 + 1) else (x.freed.1 + 1, x.freed.2),
    rxs := if f.sub = 1 then (x.rxs.1, r) else (r, x.rxs.2),
    inReq := if f.sub = 1 then x.inReq else x.inReq ++ ms,
    inRsp := if f.sub = 1 then x.inRsp ++ ms else x.inRsp }

/-- Frames held ahead that are now due, in order. -/
def PPort.catchUp (x : PPort) : Nat → PPort
  | 0 => x
  | n + 1 =>
    match x.early.find? fun e => e.2.seq == (x.rx + 1) % 2 ^ 16 with
    | none => x
    | some e => PPort.catchUp ({ x with early := x.early.filter fun y => y.2.seq != e.2.seq }.accept e.2) n

/-- A sequenced frame arrives in UP on lane index `i`: accepted, held ahead, or a repetition, which is acknowledged again. A
frame is lost when every active lane has delivered a higher SEQ (R331). -/
def Dev.portFrame (d : Dev) (p i : Nat) (f : LFrame) : Dev :=
  let x := d.port p
  if f.seq = (x.rx + 1) % 2 ^ 16 then
    let d1 := (d.setPort p ((x.accept f).catchUp x.early.length)).portUndoze p
    if 32 ≤ (d1.port p).owe then d1.portLink p false else d1
  else if seqLe f.seq x.rx then d.setPort p { x with owe := x.owe + 1 }
  else if x.nak then d
  else
    let x1 := { x with early := x.early ++ [(i, f)] }
    let d1 := d.setPort p x1
    if (d1.portIdx p).all fun j => x1.early.any fun e => e.1 == j then d1.portNak p else d1

/-- A QUAL frame is checked: CRC, SEQ 0, its PRBS31 payload continued from the frame before (R337). -/
def Dev.qualFrame (d : Dev) (p i : Nat) (f : Option Bytes) : Dev :=
  let die := portDie p
  let l := d.laneOf p i
  let x := d.lane die l
  let bad := fun (d' : Dev) => (d'.modPort p fun y => { y with qbad := orBit y.qbad i }).modLane die l fun y => { y with prbsN := 0, prbs := 0 }
  match f with
  | none => bad d
  | some f =>
    let (n, s, e) := prbsCheck x.prbsN x.prbs 0 (byteBits (f.drop 16))
    let d1 := d.modLane die l fun y => { y with prbsN := n, prbs := s }
    if frameOk f && field f 2 2 == 0 && e == 0 then d1 else bad d1

/-- A frame of 256 bytes arrives on lane index `i` (R328–R333). -/
def Dev.frameIn (d : Dev) (p i : Nat) (f : Bytes) : Dev :=
  let die := portDie p
  let qual := field f 0 1 == 0x12
  let crc := if frameOk f then d else d.countSat F.PLK_NCRC_COUNT 1 die (p % 4)
  if qual then (if d.portSt p = plkQual then crc.qualFrame p i (some f) else crc)
  else if d.portSt p ≠ plkUp then crc
  else if !frameOk f then crc.portNak p
  else
    let a := field f 6 1
    let c := field f 7 1
    let d1 := d.portAck p (hasBit a 0) (hasBit a 1) (field f 4 2) (c % 16) (c / 16)
    if d1.portSt p ≠ plkUp then d1
    else d1.portFrame p i ⟨field f 2 2, field f 1 1 % 2, (f.drop 16).take (16 * bitsOf (field f 1 1) 4 1)⟩

/-- A port's lane index assembles the next frame of what its lane has delivered. -/
def Dev.frameReceive (d : Dev) (p i : Nat) : Dev :=
  let die := portDie p
  let l := d.laneOf p i
  if !d.portHere p || 4 ≤ i then d
  else
    match frontBlk (d.lane die l).out with
    | [] => d.modLane die l fun x => { x with out := [] }
    | b :: bs =>
      let d0 := d.modLane die l fun x => { x with out := b :: bs }
      if field b.bytes 0 1 = 0x11 then d0
      else
        match takeFrame b bs with
        | none => d0
        | some (none, r) =>
          let d1 := (d0.modLane die l fun x => { x with out := r }).countSat F.PLK_NCRC_COUNT 1 die (p % 4)
          if field b.bytes 0 1 = 0x12 then (if d1.portSt p = plkQual then d1.qualFrame p i none else d1)
          else if d1.portSt p = plkUp then d1.portNak p else d1
        | some (some f, r) => (d0.modLane die l fun x => { x with out := r }).frameIn p i f

/-- A LINK block arrives on lane index `i` (R331); one with a reserved field that is not 0 is discarded. -/
def Dev.linkReceive (d : Dev) (p i : Nat) : Dev :=
  let die := portDie p
  let l := d.laneOf p i
  if !d.portHere p || 4 ≤ i then d
  else
    match frontBlk (d.lane die l).out with
    | [] => d.modLane die l fun x => { x with out := [] }
    | b :: bs =>
      if field b.bytes 0 1 ≠ 0x11 then d.modLane die l fun x => { x with out := b :: bs }
      else
        let k := field b.bytes 1 1
        let d1 := d.modLane die l fun x => { x with out := bs }
        if k / 2 ^ 3 ≠ 0 ∨ field b.bytes 5 1 ≠ 0 ∨ (slice b.bytes 10 22).any (· != 0) then d1
        else
          let far := (field b.bytes 6 2 % 2 ^ 12, field b.bytes 8 1, field b.bytes 9 1 % 4)
          let d2 := if hasBit k 2 then d1.modLane die l fun x => { x with ident := some far } else d1
          let c := field b.bytes 4 1
          let d3 := if d2.portSt p = plkUp then d2.portAck p (hasBit k 0) (hasBit k 1) (field b.bytes 2 2) (c % 16) (c / 16) else d2
          d3.portSettle p

/-- 1 µs has passed since a higher SEQ arrived: the missing frame is lost. -/
def Dev.frameLoss (d : Dev) (p : Nat) : Dev :=
  if d.portHere p && d.portSt p == plkUp && !(d.port p).early.isEmpty then d.portNak p else d

/-- The NAK is repeated. -/
def Dev.nakRepeat (d : Dev) (p : Nat) : Dev :=
  if d.portHere p && d.portSt p == plkUp && (d.port p).nak then d.portLink p true else d

/-- A frame has gone unacknowledged for 100 ns, or credits are due: a LINK block. -/
def Dev.ackDue (d : Dev) (p : Nat) : Dev :=
  let x := d.port p
  if d.portHere p && d.portSt p == plkUp && (0 < x.owe || 0 < x.due.1 || 0 < x.due.2) then d.portLink p false else d

/-! RETRAIN, doze, silence (R334, R335, R344, R413) -/

/-- RETRAIN ends once every active lane has settled: the identity check, then UP and the resending of what is held; DOWN with
fewer than MINL lanes. -/
def Dev.retrainDone (d : Dev) (p : Nat) : Dev :=
  let die := portDie p
  let is := d.portIdx p
  if d.portHere p = true ∧ d.portSt p = plkRetrain ∧ (is.all fun i => d.laneSettled die (d.laneOf p i)) = true then
    let d1 := d.identCheck p is
    if d1.portShort p then d1.portFail p
    else
      let d2 := d1.setPortSt p plkUp
      let d3 := if (d2.port p).held.isEmpty then d2 else (d2.countSat F.PLK_NREPLAY_COUNT 1 die (p % 4)).portResend p
      (d3.portRun p).portEnded p
  else d

/-- The port has been idle for PLK_DOZE hub cycles: doze is requested on its transmitters. -/
def Dev.portDoze (d : Dev) (p : Nat) : Dev :=
  let x := d.port p
  if d.portHere p && d.portSt p == plkUp && d.get F.PLK_DOZE_IDLE (portDie p) (p % 4) != 0 && x.held.isEmpty && x.owe == 0 &&
      x.due == (0, 0) && x.txs.1.isEmpty && x.txs.2.isEmpty then
    (d.portIdx p).foldl (fun d' i => d'.modLane (portDie p) (d'.laneOf p i) fun y => { y with doze := true }) d
  else d

/-- No block on any active lane for 1 ms while RXDZ is clear: DOWN. -/
def Dev.portSilence (d : Dev) (p : Nat) : Dev :=
  let die := portDie p
  if d.portHere p && d.portSt p == plkUp && (d.portIdx p).all fun i =>
      !d.on? F.SER_LSTAT_RXDZ die (d.laneOf p i) && d.late die (d.lane die (d.laneOf p i)).seen 1000 then d.portDown p
  else d

/-- A lane has not woken within 20 ms (R321): its port, held in RETRAIN by deep sleep, runs a full TRAIN (R413). -/
def Dev.laneWakeFail (d : Dev) (die l : Nat) : Dev :=
  let x := d.lane die l
  let late := d.laneHere die l && d.laneBusy die l && x.seq == 4 && d.late die x.at_ 20000
  match d.lanePort die l with
  | some (p, _) =>
    if late = true ∧ d.portSt p = plkRetrain then (d.laneErr die l F.SER_LSTAT_WAKEERR 8).portTrainNow p else d.laneWakeLate die l
  | none => d.laneWakeLate die l

/-- A port whose every active lane has entered SLEEP is held in RETRAIN (R413). -/
def Dev.portSlept (d : Dev) (p : Nat) : Dev :=
  let is := d.portIdx p
  if d.portSt p = plkUp ∧ is.isEmpty = false ∧ (is.all fun i => d.laneSt (portDie p) (d.laneOf p i) == laneSleep) = true then
    d.setPortSt p plkRetrain
  else d

/-- The port of a lane is looked at after the lane has slept. -/
def Dev.laneSlept (d : Dev) (die l : Nat) : Dev := match d.lanePort die l with | some (p, _) => d.portSlept p | none => d

/-- SLEEP is sent on the port's active lanes (R413). -/
def Dev.portSleep (d : Dev) (p : Nat) : Dev :=
  ((d.portIdx p).foldl (fun d' i => d'.laneCmd (portDie p) (d'.laneOf p i) 3) d).portSlept p

/-! Requests and responses of other packages (R341, R342, R345) -/

/-- The first request leaves the port's receive queue. -/
def PPort.popReq (x : PPort) : PPort := { x with inReq := x.inReq.tail }

/-- A request is refused at once. -/
def Dev.refuseReq (d : Dev) (p : Nat) (m : LMsg) (stat : Nat) : Dev :=
  (d.modPort p PPort.popReq).portSend p 1 ⟨0, 0, m.spkg, m.dpkg, m.tag, m.failHdr stat, []⟩

/-- A request takes an inbound entry: its number, and the package with the entry in use. -/
def Dev.takeIn (d : Dev) (p n : Nat) (m : LMsg) (fwd : Bool) : Nat × Dev :=
  let x := d.port p
  let t := x.itag
  (t, (d.setPort p { x.popReq with itag := t + 1, itrk := x.itrk ++ [⟨t, m, n, [], fwd⟩] }).portTrk p)

/-- A memory request of another package enters the hub line by line, with SRC KIND 4 and bucket 49. -/
def Dev.remoteLines (d : Dev) (p t n : Nat) (m : LMsg) : Dev :=
  let top := field m.hdr 0 1
  let flg := field m.hdr 1 1
  let op : TOp := match top with | 1 => .read | 2 => .write | 3 => .reduce | 4 => .nread | _ => .nwrite
  let gran := if hasBit flg 7 then 16 else 32
  (List.range n).foldl (fun d' j =>
    let data := (m.lines.drop (64 * j)).take 64
    let t' : Txn := ⟨.port p, t * 32 + j, op, .gpa (field m.hdr 8 8 + 64 * j), 49, bitsOf flg 6 5, gran,
      if op = .nwrite then data.take gran else data, none, d'.sqn⟩
    { d' with sqn := d'.sqn + 1 }.netPut (.req t')) d

/-- A control message as its sixteen bytes spell it. -/
def parseCtl (p : Nat) (h : Bytes) : CtlMsg :=
  let tumb := field h 4 4
  ⟨.port p, .bank (bitsOf tumb 17 16), field h 0 1, field h 1 1 % 4, bitsOf (field h 1 1) 5 2, (Ep.port p).peer, tumb, field h 8 4, field h 12 3⟩

/-- A request for this package: a memory request enters the hub, an add goes to its home if its tumbler is open. -/
def Dev.reqHere (d : Dev) (p : Nat) (m : LMsg) : Dev :=
  if m.kind = 0 then
    let top := field m.hdr 0 1
    let n := if top = 4 ∨ top = 5 then 1 else bitsOf (field m.hdr 1 1) 4 0 + 1
    if hdrReserved m.hdr || !d.ownPkg (portDie p) (field m.hdr 8 8) then d.refuseReq p m statProto
    else
      let (t, d1) := d.takeIn p n m false
      d1.remoteLines p t n m
  else
    let c := parseCtl p m.hdr
    if chkOf (m.hdr.take 15) ≠ field m.hdr 15 1 then (d.modPort p PPort.popReq).chkFail { c with dst := .port p }
    else if c.opc ≠ 3 then d.refuseReq p m statProto
    else if !d.remoteTumbler (bitsOf c.tumb 17 16) (c.tumb % 2 ^ 16) then d.refuseReq p m statRefused
    else
      let (_, d1) := d.takeIn p 1 m false
      d1.send c

/-- The routing entry of a die for a package holds its requests (R343). -/
def Dev.held? (d : Dev) (die pkg : Nat) : Bool := d.on? F.PLK_ROUTE_HOLD die 0 pkg

/-- A request for another package is forwarded by the receiving die's table with one hop less; it waits where the entry
holds or the port's tracker is full. -/
def Dev.reqForward (d : Dev) (p : Nat) (m : LMsg) : Dev :=
  let die := portDie p
  if m.hops ≤ 1 then ((d.put F.PLK_STAT_HOPERR 1 die).countSat F.PLK_NFAIL_COUNT 1 die).refuseReq p m statPath
  else
    match d.routePort die m.dpkg with
    | none => ((d.put F.PLK_STAT_NOROUTE 1 die).countSat F.PLK_NFAIL_COUNT 1 die).refuseReq p m statPath
    | some q =>
      if d.held? die m.dpkg then d
      else
        let (t, d1) := d.takeIn p 1 m true
        (d1.portOut q m.dpkg (.transit p t) { m with hops := m.hops - 1 }).getD d

/-- The oldest request of a port is taken (R341): refused when its LKIND, TOP or OPC is reserved; it waits while the inbound
tracker is full. -/
def Dev.linkRequest (d : Dev) (p : Nat) : Dev :=
  match (d.port p).inReq with
  | [] => d
  | m :: _ =>
    if !d.portHere p then d
    else if 1 < m.kind then d.refuseReq p m statProto
    else if 4096 ≤ (d.port p).itrk.length then d
    else if m.dpkg = d.get F.KRG_PKG_PKG (portDie p) then d.reqHere p m
    else d.reqForward p m

/-- A line of a remote request is answered at its home: with the last line the whole request is. -/
def Dev.portResponse (d : Dev) (p slot stat : Nat) (data : Bytes) : Dev :=
  let t := slot / 32
  match (d.port p).itrk.find? fun e => e.tag == t with
  | none => d.countSat F.PLK_NLATE_COUNT 1 (portDie p)
  | some e =>
    let got := e.got.put (slot % 32) (stat, data)
    if got.length < e.n then
      d.modPort p fun x => { x with itrk := x.itrk.map fun y => if y.tag = t then { y with got := got } else y }
    else
      match got.find? fun x => x.2.1 != 0 with
      | some x => d.answerIn p t 0 (e.msg.failHdr x.2.1) []
      | none =>
        let top := field e.msg.hdr 0 1
        if top = 1 ∨ top = 4 then
          d.answerIn p t 0 (rspHdr e.msg.hdr 8 0) ((List.range e.n).flatMap fun j => slice (got.atD j (0, [])).2 0 64)
        else d.answerIn p t 0 (rspHdr e.msg.hdr 9 0) []

/-- The home acknowledges a remote add: a tumbler response, with OPC ACK (R345). -/
def Dev.portAddAck (d : Dev) (p : Nat) (m : CtlMsg) : Dev :=
  match (d.port p).itrk.find? fun e => e.msg.kind == 1 && !e.fwd && field e.msg.hdr 4 4 % 2 ^ 18 == m.tumb % 2 ^ 18 with
  | none => d.countSat F.PLK_NLATE_COUNT 1 (portDie p)
  | some e =>
    let body := 0x08 :: slice e.msg.hdr 1 14
    d.answerIn p e.tag 1 (body ++ leBytes 1 (chkOf body)) []

/-- A response reaches what its outbound entry stands for. -/
def Dev.deliverRsp (d : Dev) (p : Nat) (o : OTrk) (m : LMsg) : Dev :=
  let top := field m.hdr 0 1
  let away := fun (s : Nat) => s + 2 ^ 8 * p
  match o.who with
  | .txn t =>
    if m.kind = 0 ∧ top = 8 then d.respond t 0 (m.lines.take t.len)
    else if m.kind = 0 ∧ top = 9 then d.respond t 0 []
    else if m.kind = 0 ∧ top = 0x0A then d.respond t (away (field m.hdr 3 1)) []
    else d.respond t (away statProto) []
  | .add a =>
    if m.kind = 1 ∧ top = 8 then d.send ⟨.link p o.pkg, a.src, 0x08, a.slot, a.gen, a.peer, a.tumb, 0, 0⟩
    else d.addFail p o.pkg a (if m.kind = 0 ∧ top = 0x0A then field m.hdr 3 1 else statProto)
  | .transit ip it => d.answerIn ip it m.kind m.hdr m.lines

/-- The oldest response of a port is taken: it retraces its request's path; one without an entry is discarded and counted. -/
def Dev.linkResponse (d : Dev) (p : Nat) : Dev :=
  match (d.port p).inRsp with
  | [] => d
  | m :: _ =>
    if !d.portHere p then d
    else
      let d0 := d.modPort p fun x => { x with inRsp := x.inRsp.tail }
      match (d0.port p).otrk.find? fun o => o.tag == m.tag with
      | none => d0.countSat F.PLK_NLATE_COUNT 1 (portDie p)
      | some o =>
        let d1 := (d0.modPort p fun x => { x with otrk := x.otrk.filter fun y => y.tag != o.tag }).portTrk p
        (match o.who.die with | some s => d1.outFall s o.pkg | none => d1).deliverRsp p o m

/-- PLK_TTMO ticks have passed since the request left (R342): PATH and TIMEOUT at its source; a transit request's entries are
freed. -/
def Dev.remoteTimeout (d : Dev) (p tag : Nat) : Dev :=
  match (d.port p).otrk.find? fun o => o.tag == tag with
  | none => d
  | some o =>
    let die := portDie p
    if !d.portHere p || !d.late die o.at_ (d.get F.PLK_TTMO_TICKS die) then d
    else
      match o.who with
      | .transit ip it =>
        freeIn ((d.modPort p fun x => { x with otrk := x.otrk.filter fun y => y.tag != o.tag }).portTrk p) ip it
      | w => (d.put F.PLK_STAT_TIMEOUT 1 (w.die.getD die)).otrkFail p statPath o
where
  /-- An inbound entry is freed without an answer. -/
  freeIn (d' : Dev) (ip it : Nat) : Dev := (d'.modPort ip fun x => { x with itrk := x.itrk.filter fun y => y.tag != it }).portTrk ip

/-! Requests of the package that leave by a port (R341, R345) -/

/-- The link header of a request of a die: HOPS, SPKG, DPKG; the port gives LTAG. -/
def Dev.linkMsg (d : Dev) (die pkg kind : Nat) (hdr lines : Bytes) : LMsg :=
  ⟨kind, d.get F.PLK_HOPS_INIT die, d.get F.KRG_PKG_PKG die, pkg, 0, hdr, lines⟩

/-- The port takes requests. -/
def Dev.portTakes (d : Dev) (q : Nat) : Bool := d.portSt q == plkUp || d.portSt q == plkRetrain

/-- A memory request of the package leaves for another; none while it waits at its entry or for a tracker entry. -/
def Dev.sendAway (d : Dev) (t : Txn) (g : Nat) : Option Dev :=
  let die := t.src.die
  let pkg := gpaPkg g
  if d.held? die pkg then none
  else
    let fail := fun (d' : Dev) (q : Nat) => (d'.countSat F.PLK_NFAIL_COUNT 1 die).respond t (statPath + 2 ^ 8 * q) []
    match d.routePort die pkg with
    | none => some (fail (d.put F.PLK_STAT_NOROUTE 1 die) 0)
    | some q =>
      if !d.portTakes q || !(die == portDie q || d.reaches die (portDie q)) then some (fail d q)
      else d.portOut q pkg (.txn t) (d.linkMsg die pkg 0 (t.hdr g) t.lineBytes)

/-- An engine's add to another package reaches its port; none while it waits. -/
def Dev.addAway (d : Dev) (q pkg : Nat) (m : CtlMsg) : Option Dev :=
  let die := m.src.die
  if d.held? die pkg then none
  else if !d.portTakes q then some ((d.countSat F.PLK_NFAIL_COUNT 1 (portDie q)).addFail q pkg m statPath)
  else d.portOut q pkg (.add m) (d.linkMsg die pkg 1 m.bytes [])

/-! Routes (R340, R343) -/

/-- The PLK_ROUTE entry of a package is written (R340, R343). -/
def Dev.routeSet (d : Dev) (die pkg v : Nat) : Dev :=
  let was := d.routePort die pkg
  let d1 := d.writeGen ⟨.PLK_ROUTE, die, 0, pkg⟩ v
  let d2 := d1.put F.PLK_ROUTE_CUR (d1.routeFirst die pkg 0) die 0 pkg
  if d2.routePort die pkg ≠ was ∧ d2.on? F.PLK_ROUT_OUT die 0 pkg = true then d2.put F.PLK_ROUTE_HOLD 1 die 0 pkg else d2

/-- A write to PLK_ROUTE of the selected package. -/
def Dev.routeWrite (d : Dev) (die v : Nat) : Dev := d.routeSet die (d.selOf .PLK_ROUTE die 0) v

/-- HOLD clears when OUT reaches zero. -/
def Dev.routeClear (d : Dev) (die pkg : Nat) : Dev :=
  if d.carrierUp die && !d.on? F.PLK_ROUT_OUT die 0 pkg then d.put F.PLK_ROUTE_HOLD 0 die 0 pkg else d

end Sys2Proof.Machine
end

