-- ==== Sys2Proof/Machine/Rekey.lean ====
section
/-!
DEFINITION. Rekey (R260–R264): the cut, the drain of old transactions, the limit of 100 ms.
-/
namespace Sys2Proof.Machine

/-! The cut (R260) -/

/-- Engines of a die that belong to an identity. -/
def Dev.identEngines (d : Dev) (die p : Nat) : List Nat :=
  if 48 ≤ p then [] else (List.range 64).filter fun e => d.on? F.TEN_CTL_ASSIGN die e && d.tenPart die e == p

/-- An entry of the identity has a page that overlaps `[base, base + len)`; every page when `all`. -/
def KEnt.cutBy (k : KEnt) (p base len : Nat) (all : Bool) : Bool :=
  k.valid && k.ident == p && (all || (decide (k.va < base + len) && decide (base < k.va + 2 ^ pageBits k.size)))

/-- Input lines of a context's row that have been issued. -/
def Dev.rowIssued (d : Dev) (die : Nat) (c : UCtx) : Nat :=
  match (d.eng die c.eng).ents.find? fun r => r.n == c.ent with
  | none => c.parsed
  | some r => min c.en.perRow (r.next - c.row * c.en.perRow)

/-- An engine's outstanding transactions become old, its latches clear. -/
def Dev.engOld (d : Dev) (die e : Nat) : Dev :=
  let d1 := d.modEng die e fun g =>
    { g with latch := g.latch.map fun _ => none, slots := g.slots.map fun s => if s.out then { s with old := true } else s }
  (List.range 24).foldl (fun d' u =>
    match d'.unfs.at? (die * 24 + u) with
    | none => d'
    | some q =>
      d'.setUnf die u { q with ctx := q.ctx.map fun c => if c.2.eng = e then (c.1, { c.2 with oldIn := d'.rowIssued die c.2 }) else c }) d1

/-- The cut: entries that overlap the range leave, and what the identity has issued is old. -/
def Dev.rekeyCut (d : Dev) (die p : Nat) : Dev :=
  let base := d.get64 F.KRG_RKBASE_LO_DVA F.KRG_RKBASE_HI_DVA die 0 p
  let len := 2 ^ 12 * d.get F.KRG_RKLEN_PAGES die 0 p
  let all := d.on? F.KRG_RKCTL_ALL die 0 p
  let gone := d.krg.filter fun x => x.1.1 == die && x.2.cutBy p base len all
  let d1 := { d with krg := d.krg.filter fun x => !(x.1.1 == die && x.2.cutBy p base len all),
                     drains := d.drains.put (die, p) ⟨d.tick die, if 48 ≤ p then (d.site die).tag else 0, []⟩ }
  let d2 := d1.put F.KRG_QUSE_COUNT (d1.get F.KRG_QUSE_COUNT die 0 p - gone.length) die 0 p
  let d3 := ((d2.put F.KRG_RKHALT_LO_MASK 0 die 0 p).put F.KRG_RKHALT_HI_MASK 0 die 0 p).put F.KRG_RKCTL_BUSY 1 die 0 p
  (d3.identEngines die p).foldl (fun d' e => d'.engOld die e) d3

/-- The KRG_RKCTL of an identity is written: ALL, TMO, and GO unless BUSY or the range is empty (R263, R265). -/
def Dev.rkctlSet (d : Dev) (die p v : Nat) : Dev :=
  let d1 := d.put F.KRG_RKCTL_ALL (bitOf v 1) die 0 p
  let d2 := if hasBit v 3 then d1.put F.KRG_RKCTL_TMO 0 die 0 p else d1
  if !hasBit v 0 || d2.on? F.KRG_RKCTL_BUSY die 0 p || (!hasBit v 1 && !d2.on? F.KRG_RKLEN_PAGES die 0 p) then d2
  else d2.rekeyCut die p

/-- A write to KRG_RKCTL of the selected identity. -/
def Dev.rkctlWrite (d : Dev) (die v : Nat) : Dev := d.rkctlSet die (d.selOf .KRG_RKCTL die 0) v

/-! The drain (R261) -/

/-- An output line derives from old input. -/
def UCtx.oldLine (c : UCtx) (o : OutLine) : Bool := decide (o.from_ < c.oldIn)

/-- A context still has output of old input: on its way, or to be made while its engine works. -/
def Dev.ctxOld (d : Dev) (die : Nat) (c : UCtx) : Bool :=
  c.out.any c.oldLine || (d.rowsRun die c.eng && (c.ready.any c.oldLine || c.toWalk.any fun s => decide (s.line < c.oldIn)))

/-- An engine has an old transaction outstanding. A row line that has arrived counts while its engine works. -/
def Dev.engHasOld (d : Dev) (die e : Nat) : Bool :=
  let g := d.eng die e
  let run := d.tenLive die e && !g.halting
  (g.slots.any fun s =>
    s.old && s.out &&
      (run || s.st != .held ||
        (match g.ent s.ent with | some en => (match en.kind s.idx with | .feed _ _ => false | _ => true) | none => false))) ||
  (d.rowsOf die e).any (d.ctxOld die)

/-- Something old of an identity is outstanding on a die. -/
def Dev.identOld (d : Dev) (die p : Nat) : Bool :=
  if 48 ≤ p then (d.site die).issued.any fun o => decide (o.tag < (d.drains.atD (die, p) ⟨0, 0, []⟩).cut)
  else (List.range 64).any fun e => d.tenPart die e == p && d.engHasOld die e

/-- A link still holds a write, by issue number: a package-link port's tracker, a queue pair's operation. -/
def Dev.linkHas (d : Dev) (sq : Nat) : Bool :=
  (d.ports.any fun x => x.2.otrk.any fun o => match o.who with | .txn t => t.sq == sq | _ => false) ||
  (d.qps.any fun x => x.2.ops.any fun o => o.lines.any fun t => t.sq == sq)

/-- The drain has ended: BUSY clears, its duration is recorded. -/
def Dev.rekeyDone (d : Dev) (die p : Nat) : Dev :=
  match d.drains.at? (die, p) with
  | none => d
  | some r =>
    if d.identOld die p || r.left.any d.linkHas then d
    else
      ({ d with drains := d.drains.del (die, p) }.put F.KRG_RKCTL_BUSY 0 die 0 p).put F.KRG_RKTIME_TICKS ((d.tick die - r.at_) % 2 ^ 32) die 0 p

/-! The limit (R262) -/

/-- The line of a target in this package's storage left undefined. -/
def Dev.tgtUndef (d : Dev) (die : Nat) (t : Tgt) : Dev :=
  let mark := fun (a : Nat) => { d with unwritten := (a, 64) :: cutRange d.unwritten a 64 }
  match t with
  | .gpa g => if d.ownPkg die g ∧ gpaSpace g < 2 then mark (gpaBase (gpaDie g) (gpaSpace g) + gpaOff g / 64 * 64) else d
  | .spad l off => mark (spAddr (d.physOf l) (off / 64 * 64))
  | .host _ _ _ => d

/-- A request is one of an engine's old ones. -/
def Dev.isOldTxn (d : Dev) (die e : Nat) (t : Txn) : Bool :=
  t.src == .eng die e &&
    (match t.unf with
     | some (u, x) => ((d.unfAt die u).ctx.at? x).any fun c => c.out.any fun o => o.at_ == t.slot && c.oldLine o
     | none => (d.eng die e).slots.any fun s => s.slot == t.slot && s.old && s.out)

/-- Requests leave the hubs and queues of the package. -/
def Dev.discard (d : Dev) (p : Txn → Bool) : Dev :=
  { d with net := d.net.filter fun x => match x with | .req t => !p t | .rsp _ => true,
           bq := d.bq.map fun x => (x.1, x.2.filter fun t => !p t),
           rdq := d.rdq.map fun x => (x.1, x.2.filter fun t => !p t) }

/-- Writes that links have accepted, by issue number. -/
def Dev.accepted (d : Dev) (p : Txn → Bool) : List Nat :=
  let w := fun (t : Txn) => p t && (t.op == .write || t.op == .reduce || t.op == .nwrite)
  (d.ports.flatMap fun x => x.2.otrk.filterMap fun o => match o.who with | .txn t => if w t then some t.sq else none | _ => none) ++
  (d.qps.flatMap fun x => x.2.ops.flatMap fun o => o.lines.filterMap fun t => if w t then some t.sq else none)

/-- Destinations of an engine's old writes left undefined. -/
def Dev.oldUndef (d : Dev) (die e : Nat) : Dev :=
  let d1 := ((d.eng die e).slots.filter fun s => s.old && s.out && (s.st == .writing || s.st == .held)).foldl (fun d' s => d'.tgtUndef die s.dst) d
  ((d1.rowsOf die e).flatMap fun c => (c.out.filter c.oldLine).map fun o => c.leg o).foldl (fun d' l =>
    match (d'.resolve die e l true).1 with | .inl t => d'.tgtUndef die t | .inr _ => d') d1

/-- An engine that still holds old transactions halts with REKEY_TIMEOUT. -/
def Dev.rekeyHalt (d : Dev) (die e p : Nat) : Dev :=
  let g := d.eng die e
  let olds := g.slots.filter fun s => s.old && s.out
  let (k, d0) := d.draw
  let n := (olds.head?.map (·.ent)).getD 0
  let ix := (olds.head?.map (·.idx)).getD 0
  let f : Fail := ⟨0xC, 0, Config.freeNat k 0 % 2 ^ 64⟩
  let d1 := ((d0.oldUndef die e).discard (d.isOldTxn die e)).modEng die e fun x => { x with slots := x.slots.filter fun s => !(s.old && s.out) }
  let d2 := (List.range 24).foldl (fun d' u =>
    match d'.unfs.at? (die * 24 + u) with
    | none => d'
    | some q => d'.setUnf die u { q with ctx := q.ctx.map fun c => if c.2.eng = e then (c.1, { c.2 with out := c.2.out.filter fun o => !c.2.oldLine o }) else c }) d1
  let d3 :=
    if d2.tenLive die e then (d2.engFail die e n ix f).engFollow die e
    else ((d2.engRecord die e (n, ix, f) false).setTen die e tenHalt).freeRows die e |>.modEng die e fun x =>
      { x with halting := false, slots := [], fails := [], waiting := none }
  if e < 32 then d3.put F.KRG_RKHALT_LO_MASK (orBit (d3.get F.KRG_RKHALT_LO_MASK die 0 p) e) die 0 p
  else d3.put F.KRG_RKHALT_HI_MASK (orBit (d3.get F.KRG_RKHALT_HI_MASK die 0 p) (e - 32)) die 0 p

/-- 100,000 ticks have passed since the cut. A site's drain takes the site down (R302). -/
def Dev.rekeyTimeout (d : Dev) (die p : Nat) : Dev :=
  match d.drains.at? (die, p) with
  | none => d
  | some r =>
    if !d.late die r.at_ 100000 || !d.identOld die p then d
    else if 48 ≤ p then
      let old := fun (t : Txn) => t.src == .site die && decide (t.slot < r.cut)
      (({ d with drains := d.drains.put (die, p) { r with left := d.accepted old } }.discard old).siteDown die 0x0A).put F.KRG_RKCTL_TMO 1 die 0 p
    else
      let es := (List.range 64).filter fun e => d.tenPart die e == p && d.engHasOld die e
      let left := es.flatMap fun e => d.accepted (d.isOldTxn die e)
      let d1 := { d with drains := d.drains.put (die, p) { r with left := r.left ++ left } }
      (es.foldl (fun d' e => d'.rekeyHalt die e p) d1).put F.KRG_RKCTL_TMO 1 die 0 p

end Sys2Proof.Machine
end

