-- ==== Sys2Proof/Machine/Eth.lean ====
section
/-!
DEFINITION. Host Ethernet ports (R349–R356, R364, R365): link-up, the form of frames, ingress, priority flow control, the
egress side with the Ward's checks and its bucket. Checksums and header layouts are those of the public standards that R350
names.
-/
namespace Sys2Proof.Machine

/-! Accessors -/

/-- An Ethernet port at rest, its egress bucket full. -/
def EPort.initial : EPort := ⟨0, 0, 0, [], [], [], [], [], [], 65536, 0, none⟩
def Dev.eth (d : Dev) (die p : Nat) : EPort := d.eths.atD (die, p) EPort.initial
def Dev.setEth (d : Dev) (die p : Nat) (x : EPort) : Dev := { d with eths := d.eths.put (die, p) x }
def Dev.modEth (d : Dev) (die p : Nat) (f : EPort → EPort) : Dev := d.setEth die p (f (d.eth die p))

/-- The port's number in the package (R349). -/
def ethNo (die p : Nat) : Nat := die + 4 * p

/-- The port is built and its die's carrier domain powered. -/
def Dev.ethHere (d : Dev) (die p : Nat) : Bool := die < d.ndies && p < 2 && d.carrierUp die

/-- STATE of a port; its states. -/
def Dev.ethSt (d : Dev) (die p : Nat) : Nat := d.get F.ETH_PSTAT_STATE die p
def ethAn : Nat := 1
def ethTrain : Nat := 2
def ethUp : Nat := 3
def ethDown : Nat := 4

/-- Settings of a port that the Ward holds (R352). -/
def Dev.ethMac (d : Dev) (die p : Nat) : Nat := d.get F.WRD_EMAC_LO_MAC die 0 (ethNo die p) + 2 ^ 32 * d.get F.WRD_EMAC_HI_MAC die 0 (ethNo die p)
def Dev.ethIp4 (d : Dev) (die p : Nat) : Nat := d.get F.WRD_EIP4_ADDR die 0 (ethNo die p)
def Dev.ethIp6 (d : Dev) (die p : Nat) : Nat :=
  (List.range 4).foldl (fun a j => a + d.get F.WRD_EIP6_ADDR die j (ethNo die p) * 2 ^ (32 * j)) 0
def Dev.ethVlan (d : Dev) (die p : Nat) : Nat := d.get F.WRD_EPORT_VLAN die 0 (ethNo die p)
def Dev.ethCeil (d : Dev) (die p : Nat) : Nat := d.get F.WRD_EPORT_CEIL die 0 (ethNo die p)

/-- A record of an Ethernet port: its status register in INFO. -/
def Dev.ethRec (d : Dev) (die p code : Nat) : Dev := d.linkRec die code 3 p (d.raw ⟨.ETH_PSTAT, die, p, 0⟩)

/-! Link-up (R351) -/

/-- The local lanes of a port. -/
def ethLanes (p : Nat) : List Nat := [17 + 2 * p, 18 + 2 * p]

/-- The sequence begins: STATE becomes AN. -/
def Dev.ethStart (d : Dev) (die p : Nat) : Dev :=
  (d.put F.ETH_PSTAT_STATE ethAn die p).modEth die p fun x => { x with at_ := d.tick die, phy := d.get F.ETH_PCTL_PHY die p }

/-- DOWN, with both transmitters squelched. -/
def Dev.ethDownNow (d : Dev) (die p : Nat) : Dev :=
  (ethLanes p).foldl (fun d' l => if d'.laneSt die l = laneStOff then d' else d'.laneDownNow die l) (d.put F.ETH_PSTAT_STATE ethDown die p)

/-- A command acts: 1 TRAIN, which clears the sticky bits (R449), 2 HOLD. -/
def Dev.ethCmd (d : Dev) (die p cmd : Nat) : Dev :=
  match cmd with
  | 1 => ((d.put F.ETH_PSTAT_ANERR 0 die p).put F.ETH_PSTAT_PFCWD 0 die p).ethStart die p
  | 2 => d.ethDownNow die p
  | _ => d

/-- The port is in a sequence. -/
def Dev.ethBusy (d : Dev) (die p : Nat) : Bool := d.ethSt die p == ethAn || d.ethSt die p == ethTrain

/-- The sequence has ended: the held command runs. -/
def Dev.ethEnded (d : Dev) (die p : Nat) : Dev :=
  let c := (d.eth die p).pend
  if c = 0 then d else ((d.put F.ETH_PCTL_PEND 0 die p).modEth die p fun x => { x with pend := 0 }).ethCmd die p c

/-- A command is written: held one deep in AN and TRAIN, without effect while PEND is 1. -/
def Dev.ethCmdWrite (d : Dev) (die p cmd : Nat) : Dev :=
  if !d.ethHere die p || cmd < 1 || 2 < cmd then d
  else if d.ethBusy die p then
    if d.on? F.ETH_PCTL_PEND die p then d
    else (d.put F.ETH_PCTL_PEND 1 die p).modEth die p fun x => { x with pend := cmd }
  else d.ethCmd die p cmd

/-- A write to ETH_PCTL. -/
def Dev.ethCtlWrite (d : Dev) (die p v : Nat) : Dev := (d.writeGen ⟨.ETH_PCTL, die, p, 0⟩ v).ethCmdWrite die p (v % 4)

/-- The port enters DOWN at the end of a sequence, with a record. -/
def Dev.ethFail (d : Dev) (die p code : Nat) : Dev := ((d.ethDownNow die p).ethRec die p code).ethEnded die p

/-- A link-up phase ends. In AN, `resolved` says that the partner advertises the selected PHY: STATE becomes TRAIN, and both
lanes run R312. In TRAIN, with both lanes up, STATE becomes UP. -/
def Dev.ethStepEnd (d : Dev) (die p : Nat) (resolved : Bool) : Dev :=
  if !d.ethHere die p then d
  else if d.ethSt die p = ethAn then
    if resolved then (ethLanes p).foldl (fun d' l => d'.laneFull die l false) (d.put F.ETH_PSTAT_STATE ethTrain die p)
    else (d.put F.ETH_PSTAT_ANERR 1 die p).ethFail die p 0x0B
  else if d.ethSt die p = ethTrain ∧ (ethLanes p).all (fun l => d.laneSt die l == laneUp) = true then
    (d.put F.ETH_PSTAT_STATE ethUp die p).ethEnded die p
  else d

/-- Abilities are not resolved within 500 ms. -/
def Dev.ethAnTimeout (d : Dev) (die p : Nat) : Dev :=
  if d.ethHere die p && d.ethSt die p == ethAn && d.late die (d.eth die p).at_ 500000 then
    (d.put F.ETH_PSTAT_ANERR 1 die p).ethFail die p 0x0B
  else d

/-- The port is not UP 3 s after the command. -/
def Dev.ethUpTimeout (d : Dev) (die p : Nat) : Dev :=
  if d.ethHere die p && d.ethBusy die p && d.late die (d.eth die p).at_ 3000000 then d.ethFail die p 1 else d

/-- PCS lock is lost in UP: the sequence runs again; when that run fails, the port enters DOWN. -/
def Dev.ethLockLoss (d : Dev) (die p : Nat) : Dev := if d.ethHere die p && d.ethSt die p == ethUp then d.ethStart die p else d

/-! Checksums -/

/-- CRC-32 of IEEE 802.3: reflected, initial and final value all ones. -/
def crc32 (bs : Bytes) : Nat :=
  (bs.foldl (fun c b =>
    (List.range 8).foldl (fun c _ => if hasBit c 0 then c / 2 ^^^ 0xEDB88320 else c / 2) (c ^^^ b.toNat)) 0xFFFFFFFF) ^^^ 0xFFFFFFFF

/-- Sum of 16-bit big-endian words, a last odd byte padded with zero. -/
def wordSum : Bytes → Nat
  | [] => 0
  | [a] => a.toNat * 256
  | a :: b :: r => a.toNat * 256 + b.toNat + wordSum r

/-- The ones'-complement sum folded to 16 bits. -/
def fold16 (n : Nat) : Nat :=
  let a := n % 2 ^ 16 + n / 2 ^ 16
  let b := a % 2 ^ 16 + a / 2 ^ 16
  b % 2 ^ 16 + b / 2 ^ 16

/-- The Internet checksum (RFC 791). -/
def inetSum (bs : Bytes) : Nat := 0xFFFF - fold16 (wordSum bs)

/-- The pseudo-header of UDP (RFC 768, RFC 8200). -/
def pseudoHdr (v6 : Bool) (src dst len : Nat) : Bytes :=
  if v6 then beBytes 16 src ++ beBytes 16 dst ++ beBytes 4 len ++ [0, 0, 0, 17] else beBytes 4 src ++ beBytes 4 dst ++ [0, 17] ++ beBytes 2 len

/-- The UDP checksum; 0 is sent as all ones. -/
def udpSum (v6 : Bool) (src dst : Nat) (udp : Bytes) : Nat :=
  let c := inetSum (pseudoHdr v6 src dst udp.length ++ udp)
  if c = 0 then 0xFFFF else c

/-! Frames sent (R350, R353) -/

/-- An IP header. DF is set, TTL or hop limit 64, flow label 0. -/
def ipHdr (v6 : Bool) (src dst dscp ecn len : Nat) : Bytes :=
  if v6 then beBytes 4 (0x60000000 + (dscp * 4 + ecn) * 2 ^ 20) ++ beBytes 2 len ++ [17, 64] ++ beBytes 16 src ++ beBytes 16 dst
  else
    let h := fun (c : Nat) => [0x45, BitVec.ofNat 8 (dscp * 4 + ecn)] ++ beBytes 2 (20 + len) ++ [0, 0, 0x40, 0, 64, 17] ++ beBytes 2 c ++ beBytes 4 src ++ beBytes 4 dst
    h (inetSum (h 0))

/-- A frame: addresses, one C-TAG, EtherType, contents padded to 64 bytes with the FCS. -/
def ethFrame (dmac smac prio vid etype : Nat) (body : Bytes) : Bytes :=
  let f := beBytes 6 dmac ++ beBytes 6 smac ++ beBytes 2 0x8100 ++ beBytes 2 (prio * 2 ^ 13 + vid) ++ beBytes 2 etype ++ body
  let g := f ++ zeros (60 - f.length)
  g ++ leBytes 4 (crc32 g)

/-- Where a datagram goes: next-hop MAC, IP version and address, UDP port. -/
structure Dest where
  mac : Nat
  v6 : Bool
  ip : Nat
  udp : Nat
deriving DecidableEq, Repr

/-- The port's own address of an IP version. -/
def Dev.ethIp (d : Dev) (die p : Nat) (v6 : Bool) : Nat := if v6 then d.ethIp6 die p else d.ethIp4 die p

/-- IP header and UDP header with their payload, checksum `sum` or computed. -/
def Dev.udpPacket (d : Dev) (die p : Nat) (dst : Dest) (dscp ecn sport : Nat) (pl : Bytes) (sum : Bool) : Bytes :=
  let src := d.ethIp die p dst.v6
  let u := fun (c : Nat) => beBytes 2 sport ++ beBytes 2 dst.udp ++ beBytes 2 (8 + pl.length) ++ beBytes 2 c ++ pl
  ipHdr dst.v6 src dst.ip dscp ecn (8 + pl.length) ++ u (if sum then udpSum dst.v6 src dst.ip (u 0) else 0)

/-- A packet queued on a port; frames of a priority whose watchdog has tripped are discarded (R355). -/
def Dev.ethQueue (d : Dev) (die p : Nat) (f : EFrame) : Dev :=
  if !f.pfc && (((d.eth die p).wd.at? f.prio).isSome) then d else d.modEth die p fun x => { x with tx := x.tx ++ [f] }

/-- A packet built and queued. -/
def Dev.ethSend (d : Dev) (die p : Nat) (dst : Dest) (prio : Nat) (pkt : Bytes) : Dev :=
  d.ethQueue die p ⟨prio, false, ethFrame dst.mac (d.ethMac die p) prio (d.ethVlan die p) (if dst.v6 then 0x86DD else 0x0800) pkt⟩

/-- A PFC frame for one priority (IEEE 802.1Qbb). -/
def Dev.pfcSend (d : Dev) (die p prio quanta : Nat) : Dev :=
  let body := beBytes 2 0x0101 ++ beBytes 2 (2 ^ prio) ++ (List.range 8).flatMap fun i => beBytes 2 (if i = prio then quanta else 0)
  (d.ethQueue die p ⟨prio, true, ethFrame 0x0180C2000001 (d.ethMac die p) prio (d.ethVlan die p) 0x8808 body⟩).count F.ETH_NPFC_TX 1 die p

/-! Ingress (R352, R354) -/

/-- Bytes that a priority holds in the receive buffer, and all of them. -/
def EPort.holds (x : EPort) (prio : Nat) : Nat := ((x.rx.filter fun r => r.kind != 2 && r.prio == prio).map fun r => r.len).sum
def EPort.fill (x : EPort) : Nat := ((x.rx.filter fun r => r.kind != 2).map fun r => r.len).sum

/-- A priority that crosses XOFF or XON makes the port send a PFC frame. -/
def Dev.pfcCheck (d : Dev) (die p prio : Nat) : Dev :=
  let x := d.eth die p
  if !hasBit (d.get F.ETH_PFCEN_PRIO die p) prio then d
  else if !x.xoff.contains prio && d.get F.ETH_PFCTH_XOFF die p * 1024 < x.holds prio then
    (d.setEth die p { x with xoff := prio :: x.xoff }).pfcSend die p prio 0xFFFF
  else if x.xoff.contains prio && x.holds prio ≤ d.get F.ETH_PFCTH_XON die p * 1024 then
    (d.setEth die p { x with xoff := x.xoff.filter fun q => q != prio }).pfcSend die p prio 0
  else d

/-- The packets of an IP packet that R350 admits: addresses, CE mark, the UDP datagram; none for any other. -/
structure IpPkt where
  v6 : Bool
  src : Nat
  dst : Nat
  ce : Bool
  udp : Bytes
deriving DecidableEq, Repr

/-- An IP packet as it is received. -/
def parseIp (etype : Nat) (b : Bytes) : Option IpPkt :=
  if etype = 0x0800 then
    let len := beNat (slice b 2 2)
    if field b 0 1 = 0x45 ∧ 28 ≤ len ∧ len ≤ b.length ∧ beNat (slice b 6 2) % 2 ^ 14 = 0 ∧ field b 9 1 = 17 ∧ inetSum (b.take 20) = 0 then
      some ⟨false, beNat (slice b 12 4), beNat (slice b 16 4), field b 1 1 % 4 == 3, slice b 20 (len - 20)⟩
    else none
  else if etype = 0x86DD then
    let len := beNat (slice b 4 2)
    if field b 0 1 / 16 = 6 ∧ 8 ≤ len ∧ 40 + len ≤ b.length ∧ field b 6 1 = 17 then
      some ⟨true, beNat (slice b 8 16), beNat (slice b 24 16), bitsOf (beNat (slice b 0 4)) 21 20 == 3, slice b 40 len⟩
    else none
  else none

/-- The UDP header is right: length, and a non-zero checksum. -/
def udpOk (x : IpPkt) : Bool :=
  beNat (slice x.udp 4 2) == x.udp.length && (beNat (slice x.udp 6 2) == 0 || inetSum (pseudoHdr x.v6 x.src x.dst x.udp.length ++ x.udp) == 0)

/-- The ICRC of a RoCEv2 packet (IBTA Annex A17): the IP and UDP headers and the BTH with the fields that may change in
transit read as ones. -/
def icrcOf (v6 : Bool) (ip : Bytes) (udp : Bytes) : Nat :=
  let h := if v6 then overlay (overlay ip 0 [(slice ip 0 1).headD 0 ||| 0x0F, 0xFF, 0xFF, 0xFF]) 7 [0xFF]
    else overlay (overlay (overlay ip 1 [0xFF]) 8 [0xFF]) 10 [0xFF, 0xFF]
  crc32 (List.replicate 8 0xFF ++ h ++ overlay (overlay (udp.take (udp.length - 4)) 6 [0xFF, 0xFF]) 12 [0xFF])

/-- A frame as the filter of R352 takes it; none when it is filtered out. A PFC frame has the address of IEEE 802.1Qbb or the
port's own. -/
def Dev.ethAccept (d : Dev) (die p : Nat) (f : Bytes) : Option RPkt :=
  let dmac := beNat (slice f 0 6)
  let smac := beNat (slice f 6 6)
  let tagged := beNat (slice f 12 2) == 0x8100
  let tci := beNat (slice f 14 2)
  let vid := d.ethVlan die p
  let at_ := if tagged then 16 else 12
  let etype := beNat (slice f at_ 2)
  let prio := if tagged then tci / 2 ^ 13 else 0
  let body := slice f (at_ + 2) (f.length - 4 - (at_ + 2))
  if f.length < 64 ∨ 9216 < f.length ∨ leNat (f.drop (f.length - 4)) ≠ crc32 (f.take (f.length - 4)) then none
  else if !(if tagged then tci % 2 ^ 12 == vid else vid == 0) || etype == 0x8100 then none
  else if etype = 0x8808 then
    if (dmac = d.ethMac die p ∨ dmac = 0x0180C2000001) ∧ beNat (slice body 0 2) = 0x0101 then
      some ⟨prio, 2, smac, false, 0, 0, false, body, f.length⟩
    else none
  else if dmac ≠ d.ethMac die p then none
  else
    match parseIp etype body with
    | none => none
    | some x =>
      let dport := beNat (slice x.udp 2 2)
      let pl := x.udp.drop 8
      if x.dst ≠ d.ethIp die p x.v6 ∨ (x.v6 = false ∧ x.dst = 0) ∨ udpOk x = false then none
      else if dport = 18771 then some ⟨prio, 1, smac, x.v6, x.src, beNat (slice x.udp 0 2), x.ce, pl, f.length⟩
      else if dport = 4791 ∧ 16 ≤ pl.length ∧ leNat (pl.drop (pl.length - 4)) = icrcOf x.v6 (body.take (if x.v6 then 40 else 20)) x.udp then
        some ⟨prio, 0, smac, x.v6, x.src, beNat (slice x.udp 0 2), x.ce, pl.take (pl.length - 4), f.length⟩
      else none

/-- An accepted packet enters the receive buffer. A frame that finds the buffer full is discarded and counted. -/
def Dev.rxPut (d : Dev) (die p : Nat) (r : RPkt) : Dev :=
  if r.kind ≠ 2 ∧ 4 * 2 ^ 20 < (d.eth die p).fill + r.len then d.countSat F.ETH_NBUF_COUNT 1 die p
  else
    let d1 := (d.modEth die p fun x => { x with rx := x.rx ++ [r] }).count64 F.ETH_NRX_LO_COUNT F.ETH_NRX_HI_COUNT 1 die p
    if r.kind = 2 then d1 else d1.pfcCheck die p r.prio

/-- The first packet of a kind leaves the receive buffer: the packet, and what follows. -/
def Dev.rxTake (d : Dev) (die p kind : Nat) : Option (RPkt × Dev) :=
  match (d.eth die p).rx.find? fun r => r.kind == kind with
  | none => none
  | some r =>
    let d1 := d.modEth die p fun x => { x with rx := x.rx.erase r }
    some (r, if kind = 2 then d1 else d1.pfcCheck die p r.prio)

/-! Being paused (R354, R355) -/

/-- The first received PFC frame acts: its enabled priorities stop for the quanta given, a quanta of 0 resumes them. -/
def Dev.pfcReceive (d : Dev) (die p : Nat) : Dev :=
  match d.rxTake die p 2 with
  | none => d
  | some (r, d1) =>
    let en := field r.pl 3 1
    let now := d.tick die
    let step := fun (x : EPort) (i : Nat) =>
      if !hasBit en i then x
      else
        let q := beNat (slice r.pl (4 + 2 * i) 2)
        let w := if (x.wd.at? i).isSome then x.wd.put i now else x.wd
        if q = 0 then { x with paused := x.paused.del i } else { x with paused := x.paused.put i (q, ((x.paused.at? i).map (·.2)).getD now), wd := w }
    (d1.modEth die p fun x => (List.range 8).foldl step x).count F.ETH_NPFC_RX 1 die p

/-- Every 40 µs above XON the PFC frame is repeated. -/
def Dev.pfcRepeat (d : Dev) (die p prio : Nat) : Dev :=
  let x := d.eth die p
  if d.ethHere die p && x.xoff.contains prio && d.get F.ETH_PFCTH_XON die p * 1024 < x.holds prio then d.pfcSend die p prio 0xFFFF else d

/-- A pause's quanta have run out. -/
def Dev.pauseExpire (d : Dev) (die p prio : Nat) : Dev := d.modEth die p fun x => { x with paused := x.paused.del prio }

/-- A priority has stayed paused without a break for ETH_PFCWD ticks: PFCWD, a record, its queued frames are discarded. -/
def Dev.pfcWatchdog (d : Dev) (die p prio : Nat) : Dev :=
  let x := d.eth die p
  let t := d.get F.ETH_PFCWD_TICKS die p
  match x.paused.at? prio with
  | none => d
  | some (_, since) =>
    if !d.ethHere die p || t == 0 || (x.wd.at? prio).isSome || !d.late die since t then d
    else
      ((d.put F.ETH_PSTAT_PFCWD 1 die p).ethRec die p 0x0A).modEth die p fun y =>
        { y with wd := y.wd.put prio (d.tick die), tx := y.tx.filter fun f => f.pfc || f.prio != prio }

/-- 1 ms has passed with no pause received: normal sending resumes. -/
def Dev.pfcResume (d : Dev) (die p prio : Nat) : Dev :=
  match (d.eth die p).wd.at? prio with
  | none => d
  | some t => if d.late die t 1000 then d.modEth die p fun x => { x with wd := x.wd.del prio, paused := x.paused.del prio } else d

/-! Egress (R364, R365) -/

/-- The Ward lets the frame pass: source MAC, VID, source address, UDP ports. -/
def Dev.wardPass (d : Dev) (die p : Nat) (f : EFrame) : Bool :=
  let b := f.bytes.drop 18
  let etype := beNat (slice f.bytes 16 2)
  beNat (slice f.bytes 6 6) == d.ethMac die p && beNat (slice f.bytes 14 2) % 2 ^ 12 == d.ethVlan die p &&
    (f.pfc ||
      (let v6 := etype == 0x86DD
       let src := if v6 then beNat (slice b 8 16) else beNat (slice b 12 4)
       let u := b.drop (if v6 then 40 else 20)
       src == d.ethIp die p v6 && (v6 || src != 0) && (beNat (slice u 2 2) == 4791 || beNat (slice u 0 2) == 18771)))

/-- The bucket's level now: 125 bytes a tick for each Gb/s of the ceiling, at most 64 KiB. -/
def Dev.ethLevel (d : Dev) (die p : Nat) : Nat :=
  let x := d.eth die p
  min 65536 (x.level + 125 * d.ethCeil die p * (d.tick die - x.levAt))

/-- The next frame of a class starts: a PFC frame (class 8), or one of a priority that is not paused. It waits for the
bucket; one that fails the Ward's checks is discarded and counted. -/
def Dev.ethEgress (d : Dev) (die p cls : Nat) : Dev :=
  let x := d.eth die p
  match x.tx.find? fun f => if cls = 8 then f.pfc else !f.pfc && f.prio == cls with
  | none => d
  | some f =>
    let charge := if f.pfc then 0 else f.bytes.length + 20
    let lvl := d.ethLevel die p
    if !d.ethHere die p || d.ethSt die p != ethUp || (!f.pfc && (d.ethCeil die p == 0 || (x.paused.at? f.prio).isSome || lvl < charge)) then d
    else
      let d1 := d.setEth die p { x with tx := x.tx.erase f }
      if d.wardPass die p f then
        (d1.modEth die p fun y => { y with wire := y.wire ++ [f.bytes], level := lvl - charge, levAt := d.tick die }).count64 F.ETH_NTX_LO_COUNT F.ETH_NTX_HI_COUNT 1 die p
      else
        let d2 := d1.countSat F.ETH_NWARD_COUNT 1 die p
        let due := match x.wardAt with | none => true | some t => decide (t + 1000 ≤ d.tick die)
        if due then (d2.ethRec die p 0x0C).modEth die p fun y => { y with wardAt := some (d.tick die) } else d2

end Sys2Proof.Machine
end

