-- ==== Sys2Proof/Machine/Rdma.lean ====
section
/-!
DEFINITION. RoCEv2 queue pairs (R356–R361): packets, the requester that carries host-window operations, the responder for
device regions and rings, congestion control. Packet layouts and opcodes are those of RoCEv2 (IBTA Annex A17).
-/
namespace Sys2Proof.Machine

/-! Queue pairs (R357) -/

/-- The die of a queue pair, and its number on that die. -/
def qpDie (q : Nat) : Nat := q / 1024
def Dev.qpGet (d : Dev) (f : Fld) (q : Nat) (i : Nat := 0) : Nat := d.get f (qpDie q) i (q % 1024)
def Dev.qpPut (d : Dev) (f : Fld) (v q : Nat) : Dev := d.put f v (qpDie q) 0 (q % 1024)

/-- STATE of a queue pair: 0 RESET, 1 RTS, 2 ERROR. -/
def Dev.qpSt (d : Dev) (q : Nat) : Nat := d.qpGet F.ETH_QCTL_STATE q

/-- The local port a queue pair is bound to. -/
def Dev.qpPort (d : Dev) (q : Nat) : Nat := d.qpGet F.ETH_QCTL_PORT q

/-- The path MTU in bytes. -/
def Dev.qpMtu (d : Dev) (q : Nat) : Nat := 2 ^ (7 + d.qpGet F.ETH_QCTL_PMTU q)

/-- OUT of ETH_QSTAT. -/
def Dev.qpOut (d : Dev) (q : Nat) : Dev := d.qpPut F.ETH_QSTAT_OUT (min (d.qp q).ops.length 511) q

/-- Where a queue pair's packets go. -/
def Dev.qpDest (d : Dev) (q : Nat) : Dest :=
  let ip := (List.range 4).foldl (fun a j => a + d.qpGet F.ETH_DIP_ADDR q j * 2 ^ (32 * j)) 0
  let v6 := d.qpGet F.ETH_QCTL_V6 q == 1
  ⟨d.qpGet F.ETH_DMAC_LO_MAC q + 2 ^ 32 * d.qpGet F.ETH_DMAC_HI_MAC q, v6, if v6 then ip else ip % 2 ^ 32, 4791⟩

/-! Packets -/

/-- A base transport header: opcode, pad count, remote QPN, acknowledge request, PSN. -/
def bth (op pad qpn : Nat) (ack : Bool) (psn : Nat) : Bytes :=
  leBytes 1 op ++ leBytes 1 (pad * 16) ++ [0xFF, 0xFF, 0] ++ beBytes 3 qpn ++ [if ack then 0x80 else 0] ++ beBytes 3 psn

/-- An RDMA header: virtual address, remote key, length. -/
def reth (va rkey len : Nat) : Bytes := beBytes 8 va ++ beBytes 4 rkey ++ beBytes 4 len

/-- A packet of a queue pair leaves by its port: marked as RoCEv2 data, or as control traffic (R353). -/
def Dev.roceSend (d : Dev) (q : Nat) (ctl : Bool) (pl : Bytes) : Dev :=
  let die := qpDie q
  let p := d.qpPort q
  let dst := d.qpDest q
  let dscp := if ctl then d.get F.ETH_PRIO_CTLDSCP die p else d.get F.ETH_PRIO_ROCEDSCP die p
  let pkt := fun (b : Bytes) (sum : Bool) => d.udpPacket die p dst dscp (if ctl then 0 else 2) (0xC000 + q) b sum
  let k := pkt (pl ++ zeros 4) false
  let n := if dst.v6 then 40 else 20
  d.ethSend die p dst (if ctl then d.get F.ETH_PRIO_CTL die p else d.get F.ETH_PRIO_ROCE die p)
    (pkt (pl ++ leBytes 4 (icrcOf dst.v6 (k.take n) (k.drop n))) dst.v6)

/-- An acknowledgement with a syndrome and the message number. -/
def Dev.ackSend (d : Dev) (q psn synd : Nat) : Dev :=
  d.roceSend q false (bth 0x11 0 (d.qpGet F.ETH_DQPN_QPN q) false psn ++ leBytes 1 synd ++ beBytes 3 ((d.qp q).msn % 2 ^ 24))

/-! Errors (R358, R359) -/

/-- STAT that a failed host-window operation gives its source: REFUSED, the QP above it, the syndrome above that. -/
def qpStat (q synd : Nat) : Nat := statRefused + 2 ^ 8 * q + 2 ^ 20 * synd

/-- The queue pair enters ERROR: every outstanding operation fails, and a record is posted. -/
def Dev.qpError (d : Dev) (q synd : Nat) : Dev :=
  let x := d.qp q
  let d1 := (d.qpPut F.ETH_QCTL_STATE 2 q).qpPut F.ETH_QSTAT_SYND synd q
  let d2 := d1.setQp q { x with ops := [], msg := none, inb := [], nak := false }
  let d3 := (x.ops.flatMap (·.lines)).foldl (fun d' t => d'.respond t (qpStat q synd) []) d2
  (d3.qpOut q).linkRec (qpDie q) 0x0D 3 (d.qpPort q) (d3.raw ⟨.ETH_QSTAT, qpDie q, 0, q % 1024⟩)

/-- A NAK is sent and the queue pair enters ERROR: code 1 invalid request, 2 remote access, 3 remote operational. -/
def Dev.nakError (d : Dev) (q psn code : Nat) : Dev :=
  (d.ackSend q psn (0x60 + code)).qpError q (if code = 1 then 4 else code)

/-! The requester (R358) -/

/-- Packets of an operation from packet `from_` on. -/
def Dev.opPackets (d : Dev) (q : Nat) (o : QOp) : List Bytes :=
  let qpn := d.qpGet F.ETH_DQPN_QPN q
  let mtu := d.qpMtu q
  if o.write then
    let data := o.lines.flatMap fun t => slice t.data 0 64
    ((List.range o.npk).filter fun j => o.got ≤ j).map fun j =>
      let last := decide (j + 1 = o.npk)
      let op := if o.npk = 1 then 0x0A else if j = 0 then 0x06 else if last then 0x08 else 0x07
      bth op 0 qpn last ((o.psn + j) % 2 ^ 24) ++ (if j = 0 then reth o.va o.rkey data.length else []) ++ (data.drop (j * mtu)).take mtu
  else
    [bth 0x0C 0 qpn true ((o.psn + o.got * 64 / mtu) % 2 ^ 24) ++ reth (o.va + 64 * o.got) o.rkey (64 * (o.lines.length - o.got))]

/-- READs sent and not complete. -/
def QP.reads (x : QP) : Nat := (x.ops.filter fun o => o.sent && !o.write).length

/-- Waiting operations are sent in order; a READ waits while ORD are outstanding, and what follows waits with it. -/
def Dev.qpPump (d : Dev) (q : Nat) : Nat → Dev
  | 0 => d
  | fuel + 1 =>
    let x := d.qp q
    match x.ops.find? fun o => !o.sent with
    | none => d
    | some o =>
      if d.qpSt q ≠ 1 ∨ (o.write = false ∧ d.qpGet F.ETH_QCTL_ORD q ≤ x.reads) then d
      else
        let psn := d.qpGet F.ETH_SPSN_PSN q
        let o1 := { o with sent := true, psn := psn }
        let first := !(x.ops.any (·.sent))
        let d1 := d.setQp q { x with ops := (x.ops.takeWhile (·.sent)) ++ [o1] ++ (x.ops.dropWhile (·.sent)).tail,
                                     at_ := if first then d.tick (qpDie q) else x.at_, retries := if first then 0 else x.retries }
        let d2 := d1.qpPut F.ETH_SPSN_PSN ((psn + o.npk) % 2 ^ 24) q
        Dev.qpPump ((d2.opPackets q o1).foldl (fun d' b => d'.roceSend q false b) d2) q fuel

/-- Lines of a host window become an operation of its queue pair; it fails at once when the queue pair is not in RTS. -/
def Dev.qpOp (d : Dev) (q va rkey : Nat) (write : Bool) (ts : List Txn) : Dev :=
  if d.qpSt q ≠ 1 then ts.foldl (fun d' t => d'.respond t (qpStat q (d.qpGet F.ETH_QSTAT_SYND q)) []) d
  else
    let o : QOp := ⟨write, 0, ceilDiv (64 * ts.length) (d.qpMtu q), false, va, rkey, ts, 0⟩
    ((d.modQp q fun x => { x with ops := x.ops ++ [o] }).qpOut q).qpPump q 64

/-- `a` is at most `b` in the order of PSNs. -/
def psnLe (a b : Nat) : Bool := decide ((b + 2 ^ 24 - a) % 2 ^ 24 < 2 ^ 23)

/-- Progress: the timer starts again. -/
def Dev.qpProgress (d : Dev) (q : Nat) : Dev := d.modQp q fun x => { x with at_ := d.tick (qpDie q), retries := 0 }

/-- An acknowledgement up to a PSN completes WRITEs, and notes packets of one that is covered in part. -/
def Dev.ackUpTo (d : Dev) (q psn : Nat) : Dev :=
  let x := d.qp q
  let done := x.ops.filter fun o => o.write && o.sent && psnLe (o.psn + o.npk - 1) psn
  let part := fun (o : QOp) => if o.write && o.sent && psnLe o.psn psn then { o with got := max o.got ((psn + 1 + 2 ^ 24 - o.psn) % 2 ^ 24) } else o
  let ops := (x.ops.filter fun o => !(o.write && o.sent && psnLe (o.psn + o.npk - 1) psn)).map part
  let d1 := d.setQp q { x with ops := ops }
  let d2 := if ops = x.ops then d1 else d1.qpProgress q
  (((done.flatMap (·.lines)).foldl (fun d' t => d'.respond t 0 []) d2).qpOut q).qpPump q 64

/-- Packets are sent again from the first unacknowledged PSN, or RETRY is exhausted. -/
def Dev.qpRetry (d : Dev) (q : Nat) : Dev :=
  let x := d.qp q
  if d.qpGet F.ETH_QCTL_RETRY q ≤ x.retries then d.qpError q 1
  else
    let d1 := d.setQp q { x with retries := x.retries + 1, at_ := d.tick (qpDie q) }
    ((x.ops.filter (·.sent)).flatMap (d1.opPackets q)).foldl (fun d' b => d'.roceSend q false b) d1

/-- TIMEOUT has passed without progress. A port that enters DOWN in the same tick takes the queue pair to ERROR (R361). -/
def Dev.qpTimeout (d : Dev) (q : Nat) : Dev :=
  let die := qpDie q
  let x := d.qp q
  if d.qpSt q = 1 ∧ d.carrierUp die = true ∧ (x.ops.any (·.sent)) = true ∧
      d.late die x.at_ (ceilDiv (4096 * 2 ^ d.qpGet F.ETH_QCTL_T q) 1000) = true then
    if d.ethSt die (d.qpPort q) = ethDown ∧ (d.eth die (d.qpPort q)).at_ = d.tick die then d.qpError q 1 else d.qpRetry q
  else d

/-! The queue pair of a received packet -/

/-- The queue pair of this die that a RoCEv2 packet names, bound to the port; none for any other QPN (R357). -/
def Dev.qpOf (d : Dev) (die p : Nat) (pl : Bytes) : Option Nat :=
  let n := beNat (slice pl 5 3)
  if 0x100 + 1024 * die ≤ n ∧ n < 0x100 + 1024 * (die + 1) ∧ d.qpPort (n - 0x100) = p then some (n - 0x100) else none

/-- The first RoCEv2 packet of a port, when its opcode is one of `ops`: it leaves the buffer, and acts when its queue pair
is in RTS. -/
def Dev.roceTake (d : Dev) (die p : Nat) (ops : List Nat) (act : Dev → Nat → Bytes → Dev) : Dev :=
  match d.rxTake die p 0 with
  | none => d
  | some (r, d1) =>
    if !ops.contains (field r.pl 0 1) then d
    else
      match d.qpOf die p r.pl with
      | none => d1
      | some q => if d.qpSt q = 1 then act d1 q r.pl else d1

/-- PSN and pad count of a packet; the bytes of its data, which begin at `at_`. -/
def psnOf (pl : Bytes) : Nat := beNat (slice pl 9 3)
def dataOf (pl : Bytes) (at_ : Nat) : Bytes := (pl.drop at_).take (pl.length - at_ - bitsOf (field pl 1 1) 5 4)

/-- An ACK: syndromes 0x00–0x1F. -/
def Dev.rdmaAck (d : Dev) (die p : Nat) : Dev :=
  match (d.eth die p).rx.find? fun r => r.kind == 0 with
  | none => d
  | some r => if 0x20 ≤ field r.pl 12 1 then d else d.roceTake die p [0x11] fun d' q pl => d'.ackUpTo q (psnOf pl)

/-- A NAK: a sequence error sends again, the other errors take the queue pair to ERROR. A NAK acknowledges what comes before
its PSN. -/
def Dev.rdmaNak (d : Dev) (die p : Nat) : Dev :=
  match (d.eth die p).rx.find? fun r => r.kind == 0 with
  | none => d
  | some r =>
    if field r.pl 12 1 < 0x20 then d
    else d.roceTake die p [0x11] fun d' q pl =>
      let d1 := d'.ackUpTo q ((psnOf pl + 2 ^ 24 - 1) % 2 ^ 24)
      match field pl 12 1 with
      | 0x60 => d1.qpRetry q
      | 0x61 => d1.qpError q 4
      | 0x62 => d1.qpError q 2
      | 0x63 => d1.qpError q 3
      | _ => d1

/-- A READ response packet: the lines it carries go to their destinations; the last one completes the READ. A packet with
another PSN than the one due is discarded. -/
def Dev.rdmaReadRsp (d : Dev) (die p : Nat) : Dev :=
  d.roceTake die p [0x0D, 0x0E, 0x0F, 0x10] fun d' q pl =>
    let x := d'.qp q
    match x.ops.find? fun o => o.sent && !o.write with
    | none => d'
    | some o =>
      let mid := field pl 0 1 == 0x0E
      let data := dataOf pl (if mid then 12 else 16)
      let n := min (data.length / 64) (o.lines.length - o.got)
      if psnOf pl ≠ (o.psn + o.got * 64 / d'.qpMtu q) % 2 ^ 24 ∨ n = 0 then d'
      else
        let ls := (o.lines.drop o.got).take n
        let o1 := { o with got := o.got + n }
        let d1 := d'.setQp q { x with ops := if o1.got = o.lines.length then x.ops.erase o else x.ops.map fun y => if y = o then o1 else y }
        let d2 := (ls.zipIdx.foldl (fun d2 t => d2.respond t.1 0 (slice data (64 * t.2) 64)) d1).qpProgress q
        let d3 := if mid then d2 else d2.ackUpTo q ((o.psn + 2 ^ 24 - 1) % 2 ^ 24)
        (d3.qpOut q).qpPump q 64

/-! The responder (R359, R360) -/

/-- The enabled region bound to the queue pair that has a remote key. -/
def Dev.regionOf (d : Dev) (q rkey : Nat) : Option Nat :=
  let die := qpDie q
  (List.range 256).find? fun r =>
    d.on? F.ETH_RGCTL_EN die 0 r && d.get F.ETH_RGKEY_RKEY die 0 r == rkey &&
      (d.on? F.ETH_RGCTL_ALLQP die 0 r || d.get F.ETH_RGCTL_QP die 0 r == q % 1024)

/-- The GPA of byte `va` of a region. -/
def Dev.regionGpa (d : Dev) (die r va : Nat) : Nat := d.get64 F.ETH_RGBASE_LO_GPA F.ETH_RGBASE_HI_GPA die 0 r + va

/-- An access of `len` bytes from `va`: the region that admits it. -/
def Dev.regionFor (d : Dev) (q rkey va len : Nat) (write : Bool) : Option Nat :=
  match d.regionOf q rkey with
  | none => none
  | some r =>
    let die := qpDie q
    if (if write then d.on? F.ETH_RGCTL_W die 0 r else d.on? F.ETH_RGCTL_R die 0 r) && decide (va + len ≤ 2 ^ 12 * d.get F.ETH_RGLEN_PAGES die 0 r) then some r
    else none

/-- A line request of a queue pair, with SRC KIND 4 and bucket 49. -/
def qpTxn (q slot : Nat) (op : TOp) (g : Nat) (data : Bytes) : Txn := ⟨.qp (qpDie q) q, slot, op, .gpa g, 49, 0, 32, data, none, 0⟩

/-- The writes of a byte string to a GPA, line by line; a line that is covered in part is merged at its home. -/
def qpWrites (q tag g : Nat) (bs : Bytes) : List Txn := (splitUnits 64 g bs).zipIdx.map fun x => qpTxn q (tag + x.2) .write (x.1.1 + x.1.2.1) x.1.2.2

/-- The reads of the lines that hold `len` bytes from a GPA. -/
def qpReads (q tag g len : Nat) : List Txn := (unitsOf 64 g len).zipIdx.map fun x => qpTxn q (tag + x.2) .read x.1 []

/-- Requests that are the oldest of their queue pair enter the hub. -/
def Dev.qpIssue (d : Dev) (q : Nat) : Dev :=
  let x := d.qp q
  match x.inb with
  | [] => d
  | i :: is =>
    i.wait.foldl (fun d' t => { d' with sqn := d'.sqn + 1 }.netPut (.req { t with sq := d'.sqn })) (d.setQp q { x with inb := { i with wait := [] } :: is })

/-- READ response packets from PSN `psn` on: those that lie wholly in the first `n` bytes, or all of them. -/
def Dev.readPackets (d : Dev) (q psn : Nat) (data : Bytes) (n : Nat) : List Bytes :=
  let mtu := d.qpMtu q
  let k := max 1 (ceilDiv data.length mtu)
  let qpn := d.qpGet F.ETH_DQPN_QPN q
  ((List.range k).filter fun j => n = data.length || decide (mtu * (j + 1) ≤ n)).map fun j =>
    let part := (data.drop (j * mtu)).take mtu
    let pad := (4 - part.length % 4) % 4
    let op := if k = 1 then 0x10 else if j = 0 then 0x0D else if j + 1 = k then 0x0F else 0x0E
    bth op pad qpn false ((psn + j) % 2 ^ 24) ++ (if op = 0x0E then [] else leBytes 1 0x1F ++ beBytes 3 ((d.qp q).msn % 2 ^ 24)) ++ part ++ zeros pad

/-- Where the answers of an inbound request first fail: the line and the NAK code. -/
def QIn.bad (i : QIn) : Option (Nat × Nat) :=
  (List.range i.n).findSome? fun j =>
    let s := (i.got.atD j (0, [])).1
    if s = 0 then none else some (j, if s = statRange ∨ s = statOwner ∨ s = statRefused then 2 else 3)

/-- Answered requests at the head are finished in order: data or acknowledgement leaves, or a NAK. -/
def Dev.qpDrain (d : Dev) (q : Nat) : Nat → Dev
  | 0 => d
  | fuel + 1 =>
    let x := d.qp q
    match x.inb with
    | [] => d
    | i :: is =>
      if i.got.length < i.n ∨ i.wait.isEmpty = false then d.qpIssue q
      else
        let d1 := d.setQp q { x with inb := is, msn := if i.kind = 1 then x.msn else x.msn + 1 }
        let data := (((List.range i.n).flatMap fun j => slice (i.got.atD j (0, [])).2 0 64).drop i.off).take i.len
        match i.kind, i.bad with
        | 0, none => Dev.qpDrain ((d1.readPackets q i.psn data data.length).foldl (fun d' b => d'.roceSend q false b) d1) q fuel
        | 0, some (j, c) =>
          let ps := d1.readPackets q i.psn data (min (data.length - 1) (64 * j - i.off))
          (ps.foldl (fun d' b => d'.roceSend q false b) d1).nakError q ((i.psn + ps.length) % 2 ^ 24) c
        | _, some (_, c) => d1.nakError q i.psn c
        | 1, none => Dev.qpDrain d1 q fuel
        | 2, none => Dev.qpDrain (d1.ackSend q i.psn 0x1F) q fuel
        | _, none =>
          let die := qpDie q
          let arr := d1.qpGet F.ETH_RTUMB_ARR q
          let d2 := d1.send ⟨.qp die q, .bank die, 3, 0, 0, 4 * 2 ^ 13 + 16 + ethNo die (d1.qpPort q), tumbField die arr 0, 1, 0⟩
          Dev.qpDrain (d2.ackSend q i.psn 0x1F) q fuel

/-- An answer to a line of an inbound request. -/
def Dev.qpResponse (d : Dev) (q slot stat : Nat) (data : Bytes) : Dev :=
  let x := d.qp q
  match x.inb.find? fun i => i.tag ≤ slot && slot < i.tag + i.n with
  | none => d.countSat F.HUB_RDROP_COUNT 1 (qpDie q)
  | some i =>
    (d.setQp q { x with inb := x.inb.map fun y => if y.tag = i.tag then { y with got := y.got.put (slot - i.tag) (stat, data) } else y }).qpDrain q 64

/-- An inbound request is taken: it waits behind the earlier ones. -/
def Dev.qpTake (d : Dev) (q : Nat) (i : QIn) (n : Nat) : Dev :=
  (d.modQp q fun x => { x with inb := x.inb ++ [i], tag := x.tag + n }).qpDrain q 64

/-- The PSN of a request: the one expected, one already taken (true), or one ahead, which is answered with one NAK. -/
def Dev.psnCheck (d : Dev) (q psn : Nat) (dup : Dev → Dev) (ok : Dev → Dev) : Dev :=
  let e := d.qpGet F.ETH_EPSN_PSN q
  if psn = e then ok (d.modQp q fun x => { x with nak := false })
  else if psnLe psn e then dup d
  else if (d.qp q).nak then d
  else (d.modQp q fun x => { x with nak := true }).ackSend q e 0x60

/-- A request that has been acknowledged before is acknowledged again. -/
def Dev.ackAgain (d : Dev) (q : Nat) : Dev := if (d.qp q).inb.isEmpty then d.ackSend q ((d.qpGet F.ETH_EPSN_PSN q + 2 ^ 24 - 1) % 2 ^ 24) 0x1F else d

/-- The next PSN expected, `n` on. -/
def Dev.psnNext (d : Dev) (q n : Nat) : Dev := d.qpPut F.ETH_EPSN_PSN ((d.qpGet F.ETH_EPSN_PSN q + n) % 2 ^ 24) q

/-- Part of an inbound WRITE: `first` and `last` say which packet of the message it is. -/
def Dev.writePart (d : Dev) (q : Nat) (pl : Bytes) (first last : Bool) : Dev :=
  let psn := psnOf pl
  let m := if first then some (⟨false, beNat (slice pl 12 8), beNat (slice pl 20 4), beNat (slice pl 24 4), []⟩ : QMsg) else (d.qp q).msg
  let op := field pl 0 1
  let data := dataOf pl (if first then 28 else if op = 0x09 then 16 else 12)
  let data := if op = 0x0B then data.drop 4 else data
  match m with
  | none => d.nakError q psn 1
  | some m =>
    if m.send || (first && (d.qp q).msg.isSome) || m.len < data.length || (last && data.length != m.len) then d.nakError q psn 1
    else
      match d.regionFor q m.rkey m.va m.len true with
      | none => if m.len = 0 then finish d psn m data 0 [] else d.nakError q psn 2
      | some r =>
        let tag := (d.qp q).tag
        let ts := qpWrites q tag (d.regionGpa (qpDie q) r m.va) data
        finish d psn m data ts.length ts
where
  /-- The packet's lines wait their turn, and the rest of the message is awaited. -/
  finish (d : Dev) (psn : Nat) (m : QMsg) (data : Bytes) (n : Nat) (ts : List Txn) : Dev :=
    let d1 := (d.psnNext q 1).modQp q fun x => { x with msg := if last then none else some { m with va := m.va + data.length, len := m.len - data.length } }
    d1.qpTake q ⟨if last then 2 else 1, psn, (d.qp q).tag, n, [], data.length, 0, ts⟩ n

/-- An inbound WRITE packet. -/
def Dev.rdmaWrite (d : Dev) (die p : Nat) : Dev :=
  d.roceTake die p [6, 7, 8, 9, 0xA, 0xB] fun d' q pl =>
    let op := field pl 0 1
    d'.psnCheck q (psnOf pl) (fun d2 => d2.ackAgain q) fun d2 => d2.writePart q pl (op == 6 || op == 0xA || op == 0xB) (8 ≤ op)

/-- An inbound READ: at most 64 outstanding. A repeated READ is answered again. -/
def Dev.rdmaRead (d : Dev) (die p : Nat) : Dev :=
  d.roceTake die p [0x0C] fun d' q pl =>
    let psn := psnOf pl
    let va := beNat (slice pl 12 8)
    let len := beNat (slice pl 24 4)
    let run := fun (d2 : Dev) (adv : Bool) =>
      if d2.qp q |>.msg.isSome then d2.nakError q psn 1
      else if 64 ≤ ((d2.qp q).inb.filter fun i => i.kind == 0).length then d2.nakError q psn 1
      else
        match d2.regionFor q (beNat (slice pl 20 4)) va len false with
        | none => if len = 0 then take d2 q psn len 0 [] adv else d2.nakError q psn 2
        | some r =>
          let g := d2.regionGpa (qpDie q) r va
          take d2 q psn len (g % 64) (qpReads q (d2.qp q).tag g len) adv
    d'.psnCheck q psn (fun d2 => run d2 false) fun d2 => run d2 true
where
  /-- The READ is taken; its response uses one PSN for each packet. -/
  take (d : Dev) (q psn len off : Nat) (ts : List Txn) (adv : Bool) : Dev :=
    let d1 := if adv then d.psnNext q (max 1 (ceilDiv len (d.qpMtu q))) else d
    d1.qpTake q ⟨0, psn, (d.qp q).tag, ts.length, [], len, off, ts⟩ ts.length

/-- The lines of a ring slot (R360): length, immediate data, then the message. -/
def ringSlot (data : Bytes) (imm : Option Bytes) : Bytes :=
  slice (leBytes 4 data.length ++ slice (imm.getD []) 0 4 ++ [if imm.isSome then 1 else 0]) 0 64 ++ slice data 0 (ceilDiv data.length 64 * 64)

/-- An inbound SEND packet; its last one delivers the message to the ring. -/
def Dev.rdmaSend (d : Dev) (die p : Nat) : Dev :=
  d.roceTake die p [0, 1, 2, 3, 4, 5] fun d' q pl =>
    let op := field pl 0 1
    let first := op == 0 || 4 ≤ op
    let last := 2 ≤ op
    let imm := op == 3 || op == 5
    let psn := psnOf pl
    d'.psnCheck q psn (fun d2 => d2.ackAgain q) fun d2 =>
      let m := if first then some (⟨true, 0, 0, 0, []⟩ : QMsg) else (d2.qp q).msg
      match m with
      | none => d2.nakError q psn 1
      | some m =>
        let data := m.data ++ dataOf pl (if imm then 16 else 12)
        let rn := d2.qpGet F.ETH_RSLOT_RN q
        if !m.send || (first && (d2.qp q).msg.isSome) || 4096 < data.length || d2.qpGet F.ETH_QCTL_RING q == 0 then d2.nakError q psn 1
        else if !last then (d2.psnNext q 1).modQp q fun x => { x with msg := some { m with data := data } }
        else
          let k := d2.qpGet F.ETH_RCNT_COUNT q
          if d2.tumbler (qpDie q) (d2.qpGet F.ETH_RTUMB_FREE q) + rn ≤ k then (d2.modQp q fun x => { x with msg := none }).ackSend q psn (0x20 + d2.qpGet F.ETH_QCTL_RNRT q)
          else
            let g := d2.get64 F.ETH_RBASE_LO_GPA F.ETH_RBASE_HI_GPA (qpDie q) 0 (q % 1024) + k % rn * 4160
            let ts := qpWrites q (d2.qp q).tag g (ringSlot data (if imm then some (slice pl 12 4) else none))
            let d3 := ((d2.psnNext q 1).qpPut F.ETH_RCNT_COUNT ((k + 1) % 2 ^ 32) q).modQp q fun x => { x with msg := none }
            d3.qpTake q ⟨3, psn, (d2.qp q).tag, ts.length, [], data.length, 0, ts⟩ ts.length

/-! Congestion (R356) -/

/-- A CNP is sent for a packet with CE, at most one in ETH_CNPGAP ticks. -/
def Dev.cnpSend (d : Dev) (die p q : Nat) : Dev :=
  let now := d.tick die
  let due := match (d.qp q).sentAt with | none => true | some t => decide (t + d.get F.ETH_CNPGAP_TICKS die ≤ now)
  if due then
    ((d.roceSend q true (bth 0x81 0 (d.qpGet F.ETH_DQPN_QPN q) false 0 ++ zeros 16)).modQp q fun x => { x with sentAt := some now }).count F.ETH_NCNP_TX 1 die p
  else d

/-- A CNP arrives: the rate falls by an eighth, at most once in 50 µs. -/
def Dev.cnpReceive (d : Dev) (die p : Nat) : Dev :=
  d.roceTake die p [0x81] fun d' q _ =>
    let now := d'.tick die
    let x := d'.qp q
    let r := d'.qpGet F.ETH_CCRATE_RATE q
    let d1 := (d'.setQp q { x with cnpAt := now }).count F.ETH_NCNP_RX 1 die p
    let due := match x.cutAt with | none => true | some t => decide (t + 50 ≤ now)
    if due then
      (d1.qpPut F.ETH_CCRATE_RATE (max (d1.get F.ETH_CC_RMIN die) (r - r / 8)) q).modQp q fun y => { y with cutAt := some now }
    else d1

/-- The port rate, in 0.1 Gb/s. -/
def portRate : Nat := 4000

/-- 55 µs have passed with no CNP: the rate rises. -/
def Dev.rateUp (d : Dev) (q : Nat) : Dev :=
  let die := qpDie q
  let x := d.qp q
  if d.carrierUp die && d.qpSt q == 1 && x.cnpAt + 55 ≤ d.tick die then
    (d.qpPut F.ETH_CCRATE_RATE (min portRate (d.qpGet F.ETH_CCRATE_RATE q + d.get F.ETH_CC_RAI die)) q).setQp q { x with cnpAt := d.tick die }
  else d

/-! Receiving a frame (R352, R356, R357) -/

/-- A frame arrives: filtered and counted, or taken into the buffer. A RoCEv2 packet for no queue pair of the port is
filtered; one with CE makes the port send a CNP; one with an opcode that is not supported is refused. -/
def Dev.ethReceive (d : Dev) (die p : Nat) (f : Bytes) : Dev :=
  if !d.ethHere die p || d.ethSt die p != ethUp then d
  else
    match d.ethAccept die p f with
    | none => d.countSat F.ETH_NFILT_COUNT 1 die p
    | some r =>
      if r.kind ≠ 0 then d.rxPut die p r
      else
        match d.qpOf die p r.pl with
        | none => d.countSat F.ETH_NFILT_COUNT 1 die p
        | some q =>
          let d1 := if r.ce then d.cnpSend die p q else d
          let op := field r.pl 0 1
          if op ≤ 0x11 ∨ op = 0x81 then d1.rxPut die p r
          else if d1.qpSt q = 1 then d1.nakError q (psnOf r.pl) 1
          else d1

/-! Registers (R357, R359, R366) -/

/-- A write to ETH_QCTL of the selected queue pair. -/
def Dev.qctlWrite (d : Dev) (die v : Nat) : Dev :=
  let s := d.selOf .ETH_QCTL die 0
  let q := 1024 * die + s
  let want := v % 4
  match d.qpSt q with
  | 0 =>
    let d1 := d.writeGen ⟨.ETH_QCTL, die, 0, s⟩ v [F.ETH_QCTL_STATE]
    let d2 := if d1.qpGet F.ETH_QCTL_RING q = 1 ∧ d1.qpGet F.ETH_RSLOT_RN q = 0 then d1.qpPut F.ETH_QCTL_RING (d.qpGet F.ETH_QCTL_RING q) q else d1
    if want = 1 then
      ((((d2.qpPut F.ETH_QCTL_STATE 1 q).qpPut F.ETH_CCRATE_RATE portRate q).qpPut F.ETH_RCNT_COUNT 0 q).qpPut F.ETH_QSTAT_SYND 0 q).setQp q
        { QP.initial with cnpAt := d.tick die }
    else d2
  | 1 =>
    if want = 0 then
      let d1 := if (d.qp q).ops.isEmpty then d else d.qpError q 5
      (d1.qpPut F.ETH_QCTL_STATE 0 q).setQp q QP.initial
    else d
  | _ => if want = 0 then (d.qpPut F.ETH_QCTL_STATE 0 q).setQp q QP.initial else d

/-- A write to another context register: only in RESET. A ring base off its alignment, and RN = 0 with RING = 1, are reserved. -/
def Dev.qpRegWrite (d : Dev) (die i : Nat) (r : Reg) (v : Nat) : Dev :=
  let s := d.selOf r die i
  let q := 1024 * die + s
  if d.qpSt q ≠ 0 ∨ (r = .ETH_RBASE_LO ∧ v % 64 ≠ 0) ∨ (r = .ETH_RSLOT ∧ d.qpGet F.ETH_QCTL_RING q = 1 ∧ v % 2 ^ 13 = 0) ∨
      (r = .ETH_RSLOT ∧ 4096 < v % 2 ^ 13) then d
  else d.writeGen ⟨r, die, i, s⟩ v

/-- A write to a region register: other fields than EN only while EN is 0. A base off its alignment is reserved. -/
def Dev.regionWrite (d : Dev) (die : Nat) (r : Reg) (v : Nat) : Dev :=
  let s := d.selOf r die 0
  if d.on? F.ETH_RGCTL_EN die 0 s then (if r = .ETH_RGCTL then d.put F.ETH_RGCTL_EN (bitOf v 0) die 0 s else d)
  else if r = .ETH_RGBASE_LO ∧ v % 2 ^ 12 ≠ 0 then d
  else d.writeGen ⟨r, die, 0, s⟩ v

end Sys2Proof.Machine
end

