-- ==== Sys2Proof/Machine/Deliver.lean ====
section
/-!
DEFINITION. Delivery: a request reaches its home (R106, R184, R266, R270–R274), a response its issuer (R102, R278, R291), a
control message its receiver (R170–R181).
-/
namespace Sys2Proof.Machine

/-! Requests -/

/-- A request meets a path of hubs from its issuer's die to another: an error in a slice (R270), no path (R274), a fence
(R272); otherwise it goes on. `slice` names the die and hub slice at which the line fails its parity. -/
def Dev.onPath (d : Dev) (t : Txn) (dst : Nat) (port : Option Nat) (slice : Option (Nat × Nat)) (go : Dev → Dev) : Dev :=
  let src := t.src.die
  match routePath (d.kmap src) src dst with
  | none => d.pathFail src t
  | some path =>
    if !d.carrierUp dst then d.pathFail src t
    else
      match d.fenceOn src dst (some t.src.hubPort) port path with
      | some x => (d.pdrop x.1).pathFail x.1 t
      | none =>
        match slice with
        | some (die, j) =>
          if (src :: path).contains die then
            let d1 := (d.countSat F.HUB_SERR_COUNT 1 die 0 j).post die ⟨0x0A, 5, 0, noPart, j, 0, 0⟩
            d1.netPut (.rsp ⟨t.src, t.slot, statUE, [], t.unf, none⟩)
          else go d
        | none => go d

/-- The lines of a host window that one RDMA operation carries: consecutive lines of one kind in the hub from place `n`. -/
def hostRun (net : List Pkt) (t : Txn) : List Txn :=
  let ways := net.filterMap fun p => match p with | .req u => if sameWay t u then some u else none | .rsp _ => none
  let off := fun (u : Txn) => match u.tgt with | .host _ _ o => o | _ => 0
  ((ways.zipIdx.takeWhile fun x => x.1.op == t.op && off x.1 == off t + 64 * x.2 && x.1.data.length == t.data.length).map (·.1)).take 64

/-- A request for a host window reaches the queue pair the window names (R263, R358). -/
def Dev.hostReq (d : Dev) (n die w off : Nat) (t : Txn) (slice : Option (Nat × Nat)) : Dev :=
  let run := hostRun (d.net.drop n) t
  let q := d.get F.KRG_HWCTL_QP die 0 w
  let d1 := { d with net := d.net.filter fun p => match p with | .req u => !run.contains u | .rsp _ => true }
  let each := fun (f : Dev → Txn → Dev) => run.foldl f d1
  if !d.on? F.KRG_HWCTL_EN die 0 w then each fun d' u => d'.respond u statRange []
  else
    match routePath (d.kmap t.src.die) t.src.die (qpDie q) with
    | none => each fun d' u => d'.pathFail t.src.die u
    | some path =>
      if !d.carrierUp (qpDie q) then each fun d' u => d'.pathFail t.src.die u
      else
        match d.fenceOn t.src.die (qpDie q) (some t.src.hubPort) (some 38) path with
        | some x => each fun d' u => (d'.pdrop x.1).pathFail x.1 u
        | none =>
          match slice with
          | some _ => (d.netDrop n).onPath t (qpDie q) (some 38) slice id
          | none => d1.qpOp q (d.hwBase die w + off) (d.get F.KRG_HWRKEY_RKEY die 0 w) (t.op == .write) run

/-- The request at place `n` in the hub reaches its home (R184). Order is kept between one source and one destination
(R106): it must be the first of its way. `ups` are the errors found in stored data. A request for another package waits at
its port where the route holds it or the tracker is full (R341, R343). -/
def Dev.homeRequest (d : Dev) (n : Nat) (ups : List (Nat × Nat)) (slice : Option (Nat × Nat)) : Dev :=
  match d.net[n]? with
  | some (.req t) =>
    if !d.firstOfWay n t then d
    else
      let d0 := d.upset ups
      match t.tgt with
      | .host die w off => d0.hostReq n die w off t slice
      | .spad l off =>
        (d0.netDrop n).onPath t (bitsOf l 12 11) t.tgt.hubPort slice fun d1 =>
          let (p, d2) := d1.spPerform l off t
          d2.respond t p.stat p.data
      | .gpa g =>
        if d.ownPkg t.src.die g then
          (d0.netDrop n).onPath t (gpaDie g) t.tgt.hubPort slice fun d1 =>
            if gpaSpace g = 3 then d1.windowReq t g else d1.atHome t g
        else
          match d.routePort t.src.die (gpaPkg g) with
          | some q =>
            if d.portTakes q then
              match (d0.netDrop n).sendAway t g with
              | none => d
              | some d1 => (d0.netDrop n).onPath t (portDie q) (some 38) slice fun _ => d1
            else ((d0.netDrop n).sendAway t g).getD d
          | none => ((d0.netDrop n).sendAway t g).getD d
  | _ => d

/-! Responses -/

/-- The partition of a tile engine or of a dispatch unit is in reset (R291). -/
def Dev.partReset (d : Dev) (p : Nat) : Bool := match d.parts.at? p with | some x => x.reset | none => false

/-- A response is handed to the end that issued the request. -/
def Dev.rspTo (d : Dev) (r : Rsp) : Dev :=
  match r.dst with
  | .eng die e =>
    if !d.computeUp die then d
    else if d.partReset (d.get F.TEN_CTL_PART die e) then d.countSat F.HUB_RDROP_COUNT 1 die
    else
      match r.unf with
      | some (u, x) => (d.unfResponse die e u x r.slot r.stat).engFollow die e
      | none => (d.engResponse die e r.slot r.stat r.data).engFollow die e
  | .dsp die =>
    if !d.computeUp die then d
    else if d.partReset (d.get F.DSP_CTL_PART die) then d.countSat F.HUB_RDROP_COUNT 1 die
    else d.dspResponse die r.slot r.stat
  | .site die => d.siteResponse die r.slot r.stat r.data
  | .port p => d.portResponse p r.slot r.stat r.data
  | .qp _ q => d.qpResponse q r.slot r.stat r.data
  | _ => d

/-- The response at place `n` in the hub returns to its issuer (R102). On its way it may meet a fence (R272) or fail its
parity in a slice, which makes its data uncorrectable (R270). -/
def Dev.homeResponse (d : Dev) (n : Nat) (slice : Option (Nat × Nat)) : Dev :=
  match d.net[n]? with
  | some (.rsp r) =>
    let dst := r.dst.die
    let d1 := d.netDrop n
    let src := match r.home with | some h => h.1 | none => dst
    match routePath (d.kmap src) src dst with
    | none => d1.netPut (.rsp { r with stat := statPath, data := [], home := none })
    | some path =>
      if !d.carrierUp dst then d1
      else
        match d.fenceOn src dst (r.home.map (·.2)) (some r.dst.hubPort) path with
        | some x => d1.pdrop x.1
        | none =>
          match slice with
          | some (die, j) =>
            if (src :: path).contains die then
              let d2 := (d1.countSat F.HUB_SERR_COUNT 1 die 0 j).post die ⟨0x0A, 5, 0, noPart, j, 0, 0⟩
              d2.rspTo (if r.stat = 0 then { r with stat := statUE, data := [] } else r)
            else d1.rspTo r
          | none => d1.rspTo r
  | _ => d

/-! Control messages -/

/-- A control message is handed to its receiver. -/
def Dev.ctlTo (d : Dev) (m : CtlMsg) : Option Dev :=
  match m.dst with
  | .bank home => some (d.bankRun home m)
  | .core l => let k := d.physOf l; some (d.coreRun (k / 256) (k % 256) m)
  | .phys k => some (d.coreRun (k / 256) (k % 256) m)
  | .eng die e => some ((if m.opc = 0x08 then match m.src with | .link _ pkg => d.engAck die e (4 + pkg) (m.tumb % 2 ^ 16) | _ => d.engRun die e m else d.engRun die e m).engFollow die e)
  | .dsp die => some (d.dspRunMsg die m)
  | .stw die => some (if m.opc = 0x09 then d.swWake die m else if m.opc = 0x10 then d.trapEvent die m else d.chkFail m)
  | .cell cn => some (if m.opc = 0x11 then d.bcastCell cn m.val else d.chkFail m)
  | .site die => some (if m.opc = 0x08 then d.siteAck die (bitsOf m.tumb 17 16) (m.tumb % 2 ^ 16) else d.chkFail m)
  | .port p => some (if m.opc = 0x08 then d.portAddAck p m else d.chkFail m)
  | .qp _ _ => some (if m.opc = 0x08 then d else d.chkFail m)
  | .link q pkg => d.addAway q pkg m

/-- The control message at place `n`, an operation `opc`, reaches its receiver: discarded where it finds no way (R181) or
its check fails (R177); it waits where an add to another package cannot leave yet (R345). `noise` are the errors it met. -/
def Dev.ctlArrive (d : Dev) (n opc : Nat) (noise : Bytes) : Dev :=
  match d.ctlAt n opc with
  | none => d
  | some m =>
    let d1 := d.ctlDrop n
    if !d.ctlPath m then d1
    else
      match m.received noise with
      | none => d1.chkFail m
      | some x => (d1.ctlTo x).getD d

end Sys2Proof.Machine
end

