-- ==== Sys2Proof/Machine/Mailbox.lean ====
section
/-!
DEFINITION. The mailbox (R362, R363, R368–R370): requests delivered, replies, refusals and event frames. The message of a slot
stands in MBX_IDATA and MBX_ODATA, slot 63's too, which no selector reaches.
-/
namespace Sys2Proof.Machine

/-- The epoch a die's Ward holds names another die than `by` (R369, R371): an epoch of 0 names none. -/
def Dev.epochOther (d : Dev) (die by_ : Nat) : Bool :=
  let e := d.get F.WRD_EPOCH_EPOCH die
  e != 0 && e % 4 != by_

/-- Bytes written into consecutive words of a data register (a mailbox slot, the event buffer, a Ward buffer). -/
def Dev.putData (d : Dev) (r : Reg) (die s : Nat) (bs : Bytes) : Dev :=
  (List.range (ceilDiv bs.length 4)).foldl (fun d' j => d'.setRaw ⟨r, die, j, s⟩ (field bs (4 * j) 4)) d

/-- The first `n` bytes of a data register. -/
def Dev.dataOf (d : Dev) (r : Reg) (die s n : Nat) : Bytes :=
  ((List.range (ceilDiv n 4)).flatMap fun j => leBytes 4 (d.raw ⟨r, die, j, s⟩)).take n

/-- The UDP payload of a mailbox frame (R362). -/
def mbxPayload (kind slot code seq : Nat) (msg : Bytes) : Bytes :=
  leBytes 2 0x48A7 ++ leBytes 1 1 ++ leBytes 1 kind ++ leBytes 1 slot ++ leBytes 1 code ++ leBytes 2 msg.length ++ leBytes 4 seq ++
    zeros 4 ++ msg

/-- A mailbox frame leaves by a port (R350, R362). -/
def Dev.mbxFrame (d : Dev) (die p : Nat) (dst : Dest) (kind slot code seq : Nat) (msg : Bytes) : Dev :=
  d.ethSend die p dst (d.get F.ETH_PRIO_CTL die p)
    (d.udpPacket die p dst (d.get F.ETH_PRIO_CTLDSCP die p) 0 18771 (mbxPayload kind slot code seq msg) true)

/-- The port by its number 0–7: die and local port, both usable from a die. -/
def Dev.portFrom (d : Dev) (die n : Nat) : Bool := d.ethHere (n % 4) (n / 4) && d.ethSt (n % 4) (n / 4) == ethUp && d.reaches die (n % 4)

/-- The reply that an outbound slot holds is sent to the source of the slot's request, or held while the port of its arrival
is not UP (R363). -/
def Dev.replyOut (d : Dev) (die slot : Nat) (m : MIn) : Dev :=
  if d.portFrom die m.port then
    (d.put F.MBX_OCTL_HELD 0 die 0 slot).mbxFrame (m.port % 4) (m.port / 4) ⟨m.mac, m.v6, m.ip, m.udp⟩ 2 slot 0 m.seq
      (d.dataOf .MBX_ODATA die slot (min 4096 (d.get F.MBX_OCTL_LEN die 0 slot)))
  else d.put F.MBX_OCTL_HELD 1 die 0 slot

/-- SEND of a slot: its request is answered (R369). A slot that holds no request has nothing to answer. -/
def Dev.slotSend (d : Dev) (die slot : Nat) : Dev :=
  match d.mbxIn.at? (die, slot) with
  | none => d
  | some m => { d with mbxIn := d.mbxIn.put (die, slot) { m with done := true } }.replyOut die slot m

/-- A message put into an outbound slot and sent. -/
def Dev.slotReply (d : Dev) (die slot : Nat) (msg : Bytes) : Dev :=
  ((d.putData .MBX_ODATA die slot msg).put F.MBX_OCTL_LEN msg.length die 0 slot).slotSend die slot

/-- A refused access to a register that the Ward guards is counted. -/
def Dev.wardRefuse (d : Dev) (die : Nat) : Dev := d.countSat F.WRD_NREF_COUNT 1 die

/-- A write to MBX_OCTL of the selected slot, by the steward of `by_`. -/
def Dev.octlWrite (d : Dev) (die by_ v : Nat) : Dev :=
  let s := d.selOf .MBX_OCTL die 0
  let d1 := d.put F.MBX_OCTL_LEN (bitsOf v 12 0) die 0 s
  if !hasBit v 16 then d1 else if d.epochOther die by_ then d1.wardRefuse die else d1.slotSend die s

/-- The event in MBX_EDATA is sent to a subscription (R386, R387): its count goes into SEQ. It is lost when the port is not
UP. -/
def Dev.eventSend (d : Dev) (die : Nat) : Dev :=
  let sub := d.get F.MBX_ECTL_SUB die
  if d.on? F.MBX_ECTL_BUSY die || !d.on? F.MBX_SUBCTL_EN die 0 sub then d
  else
    let n := (d.get F.MBX_SUBCNT_COUNT die 0 sub + 1) % 2 ^ 32
    let d1 := (d.put F.MBX_SUBCNT_COUNT n die 0 sub).put F.MBX_ECTL_BUSY 1 die
    let p := d.get F.MBX_SUBCTL_PORT die 0 sub
    let v6 := d.on? F.MBX_SUBCTL_V6 die 0 sub
    let ip := (List.range (if v6 then 4 else 1)).foldl (fun a j => a + d.get F.MBX_SUBIP_ADDR die j sub * 2 ^ (32 * j)) 0
    let dst : Dest := ⟨d.get F.MBX_SUBMAC_LO_MAC die 0 sub + 2 ^ 32 * d.get F.MBX_SUBMAC_HI_MAC die 0 sub, v6, ip, d.get F.MBX_SUBCTL_UDP die 0 sub⟩
    if d.portFrom die p then
      d1.mbxFrame (p % 4) (p / 4) dst 3 (d.get F.MBX_SUBCTL_SLOT die 0 sub) 0 n (d.dataOf .MBX_EDATA die 0 (min 4096 (d.get F.MBX_ECTL_LEN die)))
    else d1

/-- A write to MBX_ECTL. -/
def Dev.ectlWrite (d : Dev) (die by_ v : Nat) : Dev :=
  if d.on? F.MBX_ECTL_BUSY die then d
  else
    let d1 := (d.put F.MBX_ECTL_LEN (bitsOf v 12 0) die).put F.MBX_ECTL_SUB (bitsOf v 15 13) die
    if !hasBit v 16 then d1 else if d.epochOther die by_ then d1.wardRefuse die else d1.eventSend die

/-- The EVENT frame has been sent. -/
def Dev.eventDone (d : Dev) (die : Nat) : Dev := if d.carrierUp die then d.put F.MBX_ECTL_BUSY 0 die else d

/-- A write to MBX_SUBCTL: EN written to 1 clears the count. -/
def Dev.subWrite (d : Dev) (die v : Nat) : Dev :=
  let s := d.selOf .MBX_SUBCTL die 0
  let d1 := d.writeGen ⟨.MBX_SUBCTL, die, 0, s⟩ v
  if hasBit v 0 then d1.put F.MBX_SUBCNT_COUNT 0 die 0 s else d1

/-- A write to ETH_LEAD. -/
def Dev.leadWrite (d : Dev) (die by_ v : Nat) : Dev := if d.epochOther die by_ then d.wardRefuse die else d.writeGen ⟨.ETH_LEAD, die, 0, 0⟩ v

/-- A REFUSE frame goes back by the port of arrival, and is counted (R363). -/
def Dev.mbxRefuse (d : Dev) (die p : Nat) (r : RPkt) (code : Nat) : Dev :=
  let d1 := d.count F.ETH_NMREF_COUNT 1 die p
  if d.ethSt die p = ethUp then d1.mbxFrame die p ⟨r.mac, r.v6, r.ip, r.udp⟩ 4 (field r.pl 4 1) code (field r.pl 8 4) [] else d1

/-- What is wrong with a mailbox frame as a REQUEST: 0, or the code of its REFUSE. -/
def mbxBad (b : Bytes) : Nat :=
  let len := field b 6 2
  if b.length < 16 ∨ field b 0 2 ≠ 0x48A7 ∨ field b 2 1 ≠ 1 ∨ field b 3 1 ≠ 1 ∨ 63 < field b 4 1 ∨ field b 5 1 ≠ 0 ∨ field b 12 4 ≠ 0 then 2
  else if 4096 < len then 3
  else if len + 16 ≠ b.length then 2
  else 0

/-- A request is delivered to an inbound slot, and the steward is interrupted by its MBX_IPEND bit; slot 63 has none. -/
def Dev.slotDeliver (d : Dev) (die p lead : Nat) (r : RPkt) : Dev :=
  let slot := field r.pl 4 1
  let seq := field r.pl 8 4
  let msg := r.pl.drop 16
  let m : MIn := ⟨seq, ethNo die p, r.mac, r.v6, r.ip, r.udp, msg.length, false⟩
  let d1 := ({ d with mbxIn := d.mbxIn.put (lead, slot) m }.putData .MBX_IDATA lead slot msg).put F.MBX_OCTL_HELD 0 lead 0 slot
  let d2 := ((d1.put F.MBX_ILEN_LEN msg.length lead 0 slot).put F.MBX_ILEN_PORT (ethNo die p) lead 0 slot).put F.MBX_ISEQ_SEQ seq lead 0 slot
  if slot < 32 then d2.put F.MBX_IPEND_LO_SLOTS (orBit (d2.get F.MBX_IPEND_LO_SLOTS lead) slot) lead
  else if slot < 63 then d2.put F.MBX_IPEND_HI_SLOTS (orBit (d2.get F.MBX_IPEND_HI_SLOTS lead) (slot - 32)) lead
  else d2

/-- The first mailbox frame that a port has received goes to the receiver of the die in ETH_LEAD (R363); it is lost when that
die is not reached. -/
def Dev.mbxRequest (d : Dev) (die p : Nat) : Dev :=
  match d.rxTake die p 1 with
  | none => d
  | some (r, d1) =>
    let lead := d.get F.ETH_LEAD_DIE die
    if !d.carrierUp die || !d.reaches die lead then d1
    else
      let bad := mbxBad r.pl
      if bad ≠ 0 then d1.mbxRefuse die p r bad
      else
        let slot := field r.pl 4 1
        let seq := field r.pl 8 4
        match d.mbxIn.at? (lead, slot) with
        | none => d1.slotDeliver die p lead r
        | some m =>
          if !m.done then (if m.seq = seq then d1 else d1.mbxRefuse die p r 1)
          else if m.seq = seq then d1.replyOut lead slot m
          else d1.slotDeliver die p lead r

end Sys2Proof.Machine
end

