-- ==== Sys2Proof/Machine/Sm3.lean ====
section
/-!
DEFINITION. SM3 and HMAC-SM3 (R374, R389, R397, R399), as GB/T 32905 and RFC 2104 define them. PRESUMED, log entry 90.
-/
namespace Sys2Proof.Machine

/-- The permutations P0 and P1. -/
def sm3P0 (x : BitVec 32) : BitVec 32 := x ^^^ x.rotateLeft 9 ^^^ x.rotateLeft 17
def sm3P1 (x : BitVec 32) : BitVec 32 := x ^^^ x.rotateLeft 15 ^^^ x.rotateLeft 23

/-- The initial value. -/
def sm3Iv : List (BitVec 32) :=
  [0x7380166f, 0x4914b2b9, 0x172442d7, 0xda8a0600, 0xa96f30bc, 0x163138aa, 0xe38dee4d, 0xb0fb0e4e]

/-- One word of the message schedule, newest first in `w`. -/
def sm3Next (w : List (BitVec 32)) : BitVec 32 :=
  let g := fun (k : Nat) => w.getD (k - 1) 0
  sm3P1 (g 16 ^^^ g 9 ^^^ (g 3).rotateLeft 15) ^^^ (g 13).rotateLeft 7 ^^^ g 6

/-- The schedule extended by `n` words. -/
def sm3Extend : Nat → List (BitVec 32) → List (BitVec 32)
  | 0, w => w
  | n + 1, w => sm3Extend n (sm3Next w :: w)

/-- Round `j` on the eight working words. -/
def sm3Round (ws : List (BitVec 32)) (v : List (BitVec 32)) (j : Nat) : List (BitVec 32) :=
  match v with
  | [a, b, c, d, e, f, g, h] =>
    let t : BitVec 32 := if j < 16 then 0x79cc4519 else 0x7a879d8a
    let ss1 := (a.rotateLeft 12 + e + t.rotateLeft (j % 32)).rotateLeft 7
    let ff := if j < 16 then a ^^^ b ^^^ c else (a &&& b) ||| (a &&& c) ||| (b &&& c)
    let gg := if j < 16 then e ^^^ f ^^^ g else (e &&& f) ||| (~~~e &&& g)
    let tt1 := ff + d + (ss1 ^^^ a.rotateLeft 12) + (ws.getD j 0 ^^^ ws.getD (j + 4) 0)
    let tt2 := gg + h + ss1 + ws.getD j 0
    [tt1, a, b.rotateLeft 9, c, sm3P0 tt2, e, f.rotateLeft 19, g]
  | _ => v

/-- The compression of a 64-byte block. -/
def sm3Block (v : List (BitVec 32)) (blk : Bytes) : List (BitVec 32) :=
  let w0 := (List.range 16).map fun j => BitVec.ofNat 32 (beNat (slice blk (4 * j) 4))
  let ws := (sm3Extend 52 w0.reverse).reverse
  List.zipWith (· ^^^ ·) ((List.range 64).foldl (sm3Round ws) v) v

/-- A message padded to whole blocks. -/
def sm3Pad (m : Bytes) : Bytes := m ++ [0x80] ++ zeros ((119 - m.length % 64) % 64) ++ beBytes 8 (8 * m.length)

/-- The SM3 hash of a message, 32 bytes. -/
def sm3 (m : Bytes) : Bytes :=
  let p := sm3Pad m
  ((List.range (p.length / 64)).foldl (fun v j => sm3Block v (slice p (64 * j) 64)) sm3Iv).flatMap fun x => beBytes 4 x.toNat

/-- HMAC-SM3 of a message under a key, 32 bytes. -/
def hmac (key m : Bytes) : Bytes :=
  let k := if 64 < key.length then sm3 key else key
  let k64 := k ++ zeros (64 - k.length)
  sm3 (k64.map (· ^^^ 0x5C) ++ sm3 (k64.map (· ^^^ 0x36) ++ m))

end Sys2Proof.Machine
end

