-- ==== Sys2Proof/Machine/Ward.lean ====
section
/-!
DEFINITION. The Ward (R389–R406): the epoch register, measurements, identity operations, the ward slot, debug unlock, and the
boot of a die from an image.
-/
namespace Sys2Proof.Machine

def Dev.ward (d : Dev) (die : Nat) : Ward := d.wards.atD die (Ward.fresh die)
def Dev.setWard (d : Dev) (die : Nat) (w : Ward) : Dev := { d with wards := d.wards.put die w }
def Dev.modWard (d : Dev) (die : Nat) (f : Ward → Ward) : Dev := d.setWard die (f (d.ward die))

/-- The die's own nonce. -/
def Dev.nonce (d : Dev) (die : Nat) : Bytes := (d.ward die).nonces.getD die []

/-- Programmed and revoked generations of a die's ward key; its current key. -/
def Dev.keyGens (d : Dev) (die : Nat) : Nat × Nat := d.fuse.keys.getD die (0, 0)
def Dev.wardKey? (d : Dev) (die : Nat) : Option Bytes :=
  let k := d.keyGens die
  if k.2 < k.1 then some (d.fuse.wardKey.atD (die, k.1 - 1) []) else none

/-- The always-on domain of a die is up. -/
def Dev.aonUp (d : Dev) (die : Nat) : Bool := d.aon.getD die false

/-! Registers (R371, R391, R397, R406) -/

/-- A write to WRD_EPOCH: one not above the held value has no effect. -/
def Dev.epochWrite (d : Dev) (die v : Nat) : Dev :=
  if d.aonUp die && decide (d.get F.WRD_EPOCH_EPOCH die < v) then d.put F.WRD_EPOCH_EPOCH (v % 2 ^ 32) die else d

/-- A word of the selected measurement. -/
def Dev.measWord (d : Dev) (die : Nat) : Nat :=
  field ((d.ward die).meas.getD (d.get F.WRD_MSEL_MEAS die) []) (4 * d.get F.WRD_MSEL_WORD die) 4

/-- EXTEND of WRD_MCTL: MEAS2 = SM3(MEAS2 ‖ D). -/
def Dev.measExtend (d : Dev) (die : Nat) : Dev :=
  if !d.aonUp die then d
  else d.modWard die fun w => { w with meas := w.meas.set 2 (sm3 (w.meas.getD 2 [] ++ d.dataOf .WRD_MEXT die 0 32)) }

/-! Identity operations (R395, R396) -/

/-- The settings of R403 that a Ward holds, in item order: item, index, value. -/
def Dev.wardItems (d : Dev) (die : Nat) : List (Nat × Nat × Nat) :=
  let ports := [die, die + 4]
  let each := fun (id : Nat) (f : Nat → Nat) => ports.map fun p => (id, p, f p)
  [(1, 0, d.get F.WRD_PCEIL_WATTS die), (2, die, d.get F.WRD_ICEIL_AMPS die)] ++
    each 3 (fun p => d.get F.WRD_EMAC_LO_MAC die 0 p) ++ each 4 (fun p => d.get F.WRD_EMAC_HI_MAC die 0 p) ++
    each 5 (fun p => d.get F.WRD_EIP4_ADDR die 0 p) ++
    (ports.flatMap fun p => (List.range 4).map fun j => (6, 4 * p + j, d.get F.WRD_EIP6_ADDR die j p)) ++
    each 7 (fun p => d.get F.WRD_EPORT_VLAN die 0 p) ++ each 8 (fun p => d.get F.WRD_EPORT_CEIL die 0 p) ++
    [(9, 0, d.get F.WRD_TXMASK_PORTS die)]

/-- WARDCFG: the SM3 of the settings. -/
def Dev.wardCfg (d : Dev) (die : Nat) : Bytes :=
  sm3 ((d.wardItems die).flatMap fun x => leBytes 2 x.1 ++ leBytes 2 x.2.1 ++ leBytes 4 x.2.2)

/-- An attestation report (R396). -/
def Dev.report (d : Dev) (die : Nat) (nonce : Bytes) : Bytes × Dev :=
  let w := d.ward die
  let dbg := d.on? F.WRD_STAT_DEBUG die
  let flags := (if d.fuse.cosign.getD die false then 1 else 0) + 2 * d.get F.WRD_STAT_BOOTLOCK die + (if dbg then 4 else 0)
  let body := leBytes 2 1 ++ leBytes 1 die ++ leBytes 1 (d.get F.WRD_ID_REV die) ++ leBytes 4 (d.get F.WRD_EPOCH_EPOCH die) ++
    slice (Config.serial die) 0 8 ++ leBytes 4 w.fwver ++ leBytes 1 (d.get F.WRD_SVN_SVN die) ++
    leBytes 1 (d.get F.WRD_SVN_RBCOUNT die) ++ leBytes 1 flags ++ leBytes 1 w.sigkey ++ slice nonce 0 32 ++
    w.meas.flatten ++ d.wardCfg die ++ slice (Config.pubKey die) 0 64
  let (k, d1) := d.draw
  (body ++ (if dbg then zeros 64 else slice (Config.sm2Sign die k body) 0 64), d1)

/-- GO of WRD_OPCTL for operation 1 (ATTEST) or 2 (KEYX); it has no effect while BUSY is set. -/
def Dev.wardGo (d : Dev) (die op : Nat) : Dev :=
  if !d.aonUp die || d.on? F.WRD_OPCTL_BUSY die || !(op == 1 || op == 2) then d
  else (d.put F.WRD_OPCTL_BUSY 1 die).modWard die fun w => { w with op := some (op, d.dataOf .WRD_OIN die 0 512) }

/-- A write to WRD_OPCTL. -/
def Dev.opctlWrite (d : Dev) (die v : Nat) : Dev :=
  let d1 := d.writeGen ⟨.WRD_OPCTL, die, 0, 0⟩ v [F.WRD_OPCTL_GO]
  if hasBit v 4 then d1.wardGo die (d1.get F.WRD_OPCTL_OP die) else d1

/-- The responder of the key exchange with the key in a host-key slot (R395): RB, SB, K, SAX; none for an empty slot. -/
def Dev.keyx (d : Dev) (die : Nat) (inp : Bytes) : Option Bytes × Dev :=
  match (d.ward die).host.at? (field inp 0 1) with
  | none => (none, d)
  | some key => let (k, d1) := d.draw; (some (slice (Config.sm2Keyx die k (key ++ slice inp 0 100)) 0 160), d1)

/-- The operation under way ends: the output buffer, or ERR. -/
def Dev.wardOpDone (d : Dev) (die : Nat) : Dev :=
  match (d.ward die).op with
  | none => d
  | some (op, inp) =>
    let d1 := (d.put F.WRD_OPCTL_BUSY 0 die).modWard die fun w => { w with op := none }
    if op = 1 then let (r, d2) := d1.report die (inp.take 32); d2.putData .WRD_OOUT die 0 r
    else
      match d1.keyx die inp with
      | (none, d2) => d2.put F.WRD_OPCTL_ERR 1 die
      | (some r, d2) => d2.putData .WRD_OOUT die 0 r

/-! The ward slot (R399–R403) -/

/-- A WARD_UPDATE: the whole message and its parts. -/
structure WUpd where
  raw : Bytes
  op : Nat
  mask : Nat
  nitem : Nat
  arg : Nat
  ctr : Nat
  tag : Nat
  auth : Bool
deriving DecidableEq, Repr

/-- A message of the ward slot. -/
def wardMsg (m : Bytes) : WUpd :=
  ⟨m, field m 32 1, field m 33 1, field m 34 2, field m 36 4, field m 8 8, field m 28 4, hasBit (field m 2 1) 1⟩

/-- Length of the body that OP and NITEM give. -/
def WUpd.blen (u : WUpd) : Nat :=
  match u.op with
  | 1 => 72 + 8 * u.nitem
  | 2 => 136
  | 3 => 104
  | 4 => 104
  | _ => 72

/-- Item `j` of a SET: ID, INDEX, VALUE. -/
def WUpd.item (u : WUpd) (j : Nat) : Nat × Nat × Nat :=
  (field u.raw (104 + 8 * j) 2, field u.raw (106 + 8 * j) 2, field u.raw (108 + 8 * j) 4)

def WUpd.items (u : WUpd) : List (Nat × Nat × Nat) := if u.op = 1 then (List.range u.nitem).map u.item else []

/-- How a request breaks its form (R401): STATUS and DETAIL; none when it is well formed. -/
def WUpd.malformed (u : WUpd) : Option (Nat × Nat) :=
  let m := u.raw
  let flags := field m 2 1
  if m.length < 32 ∨ field m 0 2 ≠ 0xF0 ∨ hasBit flags 0 ∨ 4 ≤ flags ∨ field m 3 1 ≠ 0 ∨ field m 4 4 ≠ 0 ∨ field m 18 2 ≠ 0 ∨
      field m 20 4 ≠ 0 ∨ field m 24 4 ≠ 0 then some (0x12, 0)
  else if 5 < u.op then some (0x12, 0)
  else if 15 < u.mask ∨ (u.mask = 0 ∧ u.op ≠ 0) then some (0x12, 1)
  else if (if u.op = 1 then u.nitem = 0 ∨ 120 < u.nitem else u.nitem ≠ 0) then some (0x12, 2)
  else if u.op ≠ 2 ∧ u.op ≠ 5 ∧ u.arg ≠ 0 then some (0x12, 4)
  else
    match (List.range 4).find? fun j => !hasBit u.mask j && (slice m (40 + 16 * j) 16).any (· != 0) with
    | some j => some (0x12, 8 + 16 * j)
    | none =>
      if field m 16 2 ≠ u.blen ∨ m.length ≠ 32 + u.blen + (if u.auth then 32 else 0) then some (0x12, 72)
      else if u.auth ≠ (u.op ≠ 0 && u.op ≠ 3) then some (0x13, 2)
      else none

/-- Check 1: the MAC, under a die's ward key. -/
def WUpd.macOk (u : WUpd) (key : Option Bytes) : Bool :=
  if u.auth then (match key with | some k => u.raw.drop (32 + u.blen) == hmac k (u.raw.take (32 + u.blen)) | none => false) else true

/-- An item is valid (R403). -/
def Dev.itemOk (d : Dev) (x : Nat × Nat × Nat) : Bool :=
  let (id, ix, v) := x
  let port := ix < 8 && ix % 4 < d.ndies
  match id with
  | 1 => ix == 0 && 100 ≤ v && v ≤ 2200
  | 2 => ix < d.ndies && 1 ≤ v && v ≤ 1200
  | 3 => port
  | 4 => port && v < 2 ^ 16
  | 5 => port
  | 6 => ix < 32 && ix / 4 % 4 < d.ndies
  | 7 => port && v ≤ 4094
  | 8 => port && v ≤ 400
  | 9 => ix == 0 && v < 2 ^ (4 * d.ndies)
  | _ => false

/-- The ports of a die that the mask shuts and that are in service go DOWN, their lanes squelched (R404). -/
def Dev.txMask (d : Dev) (die v : Nat) : Dev :=
  let d1 := d.put F.WRD_TXMASK_PORTS v die
  (List.range 4).foldl (fun d' j =>
    let p := 4 * die + j
    if !hasBit v p && d'.portHere p && d'.portSt p != plkDown && d'.portSt p != 0 then
      ((d'.portLanes p).foldl (fun d2 l => d2.laneDownNow die l) d').portDown p
    else d') d1

/-- An item applied on the Ward that owns it. -/
def Dev.itemPut (d : Dev) (die : Nat) (x : Nat × Nat × Nat) : Dev :=
  let (id, ix, v) := x
  match id with
  | 1 => d.put F.WRD_PCEIL_WATTS v die
  | 2 => if ix = die then d.put F.WRD_ICEIL_AMPS v die else d
  | 9 => d.txMask die v
  | 6 => if ix / 4 % 4 = die then d.put F.WRD_EIP6_ADDR v die (ix % 4) (ix / 4) else d
  | _ =>
    if ix % 4 ≠ die then d
    else
      match id with
      | 3 => d.put F.WRD_EMAC_LO_MAC v die 0 ix
      | 4 => d.put F.WRD_EMAC_HI_MAC v die 0 ix
      | 5 => d.put F.WRD_EIP4_ADDR v die 0 ix
      | 7 => d.put F.WRD_EPORT_VLAN v die 0 ix
      | 8 => d.put F.WRD_EPORT_CEIL v die 0 ix
      | _ => d

/-- The checks of a Ward on an update (R399, R402): its per-die code. -/
def Dev.wardCheck (d : Dev) (die : Nat) (u : WUpd) : Nat :=
  if !u.macOk (d.wardKey? die) then 1
  else if slice u.raw (40 + 16 * die) 16 ≠ d.nonce die then 3
  else if (match (d.ward die).ctr with | some c => decide (u.ctr ≤ c) | none => false) then 2
  else
    match u.op with
    | 1 => if u.items.all d.itemOk then 0 else 4
    | 2 => if u.arg < 4 then 0 else 4
    | 3 => if (d.keyGens die).1 = 0 then 0 else 5
    | _ => 0

/-- Generation fuses blown: one programmed, the earlier ones revoked (R402); after generation 3 none is left to program. -/
def Dev.keyBlow (d : Dev) (die : Nat) (key : Bytes) : Dev :=
  let g := d.keyGens die
  let n := if g.1 < 4 then g.1 + 1 else g.1
  let fu := { d.fuse with
    keys := d.fuse.keys.set die (n, g.1), wardKey := if g.1 < 4 then d.fuse.wardKey.put (die, g.1) key else d.fuse.wardKey }
  let d1 := { d with fuse := fu }
  (d1.put F.WRD_ID_KGEN (n - 1) die).put F.WRD_ID_KEYV (if g.1 < n then 1 else 0) die

/-- Rollback fuses blown up to a count (R393). -/
def Dev.rollbackBlow (d : Dev) (die t : Nat) : Dev :=
  let n := max t (d.fuse.rollback.getD die 0)
  { d with fuse := { d.fuse with rollback := d.fuse.rollback.set die n } }.put F.WRD_SVN_RBCOUNT n die

/-- A Ward applies an update that it accepts. -/
def Dev.wardApply (d : Dev) (die : Nat) (u : WUpd) : Dev :=
  let d1 := d.modWard die fun w => { w with ctr := some u.ctr }
  match u.op with
  | 1 => u.items.foldl (fun d' x => d'.itemPut die x) d1
  | 2 =>
    let key := slice u.raw 104 64
    d1.modWard die fun w => { w with host := if key.all (· == 0) then w.host.del u.arg else w.host.put u.arg key }
  | 3 => d1.keyBlow die (slice u.raw 104 32)
  | 4 => d1.keyBlow die (slice u.raw 104 32)
  | 5 => d1.rollbackBlow die u.arg
  | _ => d1

/-- A reply of the Ward from slot 63. -/
def Dev.wardReply (d : Dev) (die : Nat) (u : WUpd) (stat det : Nat) (body : Bytes) : Dev :=
  let key := if stat = 0x12 ∨ stat = 0x13 then none else d.wardKey? die
  let head := slice u.raw 0 2 ++ leBytes 1 (if key.isSome then 3 else 1) ++ leBytes 1 stat ++ zeros 4 ++ leBytes 8 u.ctr ++
    leBytes 2 body.length ++ zeros 2 ++ leBytes 4 det ++ leBytes 4 (d.get F.WRD_EPOCH_EPOCH die) ++ leBytes 4 u.tag ++ body
  d.slotReply die 63 (head ++ match key with | some k => hmac k head | none => [])

/-- The Wards that a relayed message reaches. -/
def Dev.wardReach (d : Dev) (die j : Nat) : Bool := j == die || (d.aonUp j && d.reaches die j)

/-- Body of the reply to NONCE_GET: a status per die, the nonces, the last COUNTERs, the generations. -/
def Dev.nonceBody (d : Dev) (codes : List Nat) : Bytes :=
  (codes.flatMap fun c => leBytes 1 c) ++ ((List.range 4).flatMap fun j => if j < d.ndies then slice (d.nonce j) 0 16 else zeros 16) ++
    ((List.range 4).flatMap fun j => leBytes 8 ((d.ward j).ctr.getD 0)) ++
    (List.range 4).flatMap fun j => leBytes 1 (d.get F.WRD_ID_KGEN j)

/-- The reply once every Ward has answered. -/
def Dev.wardAnswer (d : Dev) (die : Nat) (u : WUpd) (codes : List Nat) : Dev :=
  match codes.find? fun c => c != 0 with
  | some c => d.wardReply die u 0x14 c (codes.flatMap fun x => leBytes 1 x)
  | none => d.wardReply die u 0 0 (if u.op = 0 then d.nonceBody codes else codes.flatMap fun x => leBytes 1 x)

/-- The named Wards apply the update, each on its own checks; `fails` are the dies whose fuses do not take. -/
def Dev.wardRelay (d : Dev) (die : Nat) (u : WUpd) (fails : Nat) : Dev :=
  let named := (List.range 4).filter fun j => if u.op = 0 then j < d.ndies else hasBit u.mask j
  let there := named.filter (d.wardReach die)
  let high := u.op == 5 && there.any fun j => decide (d.get F.WRD_SVN_SVN j < u.arg)
  let code := fun (j : Nat) =>
    if !there.contains j || u.op = 0 then 0
    else
      let c := d.wardCheck j u
      if c ≠ 0 then c else if high then 6 else if 3 ≤ u.op && hasBit fails j then 9 else 0
  let codes := (List.range 4).map code
  let d1 := there.foldl (fun d' j => if u.op ≠ 0 ∧ codes.getD j 0 = 0 then d'.wardApply j u else d') d
  let silent := ofBits ((List.range 4).map fun j => named.contains j && !there.contains j)
  if silent = 0 then d1.wardAnswer die u codes
  else d1.modWard die fun w => { w with relay := some ⟨silent, codes, d1.tick die⟩ }

/-- The ward slot's request with an operation (R399). A request that is malformed, or names no operation, is answered as R401
says; the lead's Ward then makes checks 1 and 3 before it relays. -/
def Dev.wardUpdate (d : Dev) (die op fails : Nat) : Dev :=
  match d.mbxIn.at? (die, 63) with
  | none => d
  | some m =>
    let u := wardMsg (d.dataOf .MBX_IDATA die 63 m.len)
    if !d.carrierUp die || m.done || (d.ward die).relay.isSome || !(u.op == op || (op == 0 && 5 < u.op)) then d
    else
      match u.malformed with
      | some (s, det) => d.wardReply die u s det []
      | none =>
        if op = 0 ∨ op = 3 then d.wardRelay die u fails
        else if (d.wardKey? die).isNone then d.wardReply die u 0x13 7 []
        else if !u.macOk (d.wardKey? die) then d.wardReply die u 0x13 2 []
        else if (match (d.ward die).ctr with | some c => decide (u.ctr ≤ c) | none => false) then d.wardReply die u 0x13 3 []
        else d.wardRelay die u fails

/-- A relayed message has drawn no answer from some die for 1 s (R400). -/
def Dev.wardTimeout (d : Dev) (die : Nat) : Dev :=
  match (d.ward die).relay, d.mbxIn.at? (die, 63) with
  | some r, some m =>
    if !d.late die r.at_ 1000000 then d
    else
      let u := wardMsg (d.dataOf .MBX_IDATA die 63 m.len)
      (d.modWard die fun w => { w with relay := none }).wardReply die u 0x21 r.silent (r.codes.flatMap fun x => leBytes 1 x)
  | _, _ => d

/-! Debug unlock (R405) -/

/-- A token shifted in through WARD_DEBUG. -/
def Dev.wardDebug (d : Dev) (die : Nat) (token : Bytes) : Dev :=
  let level := field token 0 1
  let sel := field token 1 1
  let cust := Config.custHash die == some (sm3 (Config.custKey die))
  let key := if sel = 0 then Config.debugKey else Config.custKey die
  let ok := token.length == 92 && (level == 1 || level == 2) && (sel == 0 || sel == 1 && cust) && field token 2 2 == 0 &&
    slice token 4 8 == slice (Config.serial die) 0 8 && slice token 12 16 == d.nonce die &&
    Config.sm2Verify key (token.take 28) (slice token 28 64)
  if !d.aonUp die || !ok then d
  else
    let (k, d1) := d.draw
    let new := (List.range 16).map (Config.random k)
    (d1.put F.WRD_STAT_DEBUG (max level (d.get F.WRD_STAT_DEBUG die)) die).modWard die fun w => { w with nonces := w.nonces.set die new }

/-! Boot (R389–R391) -/

/-- A section of an image header: kind, revision, offset, length, hash. -/
structure ImgSec where
  kind : Nat
  rev : Nat
  off : Nat
  len : Nat
  hash : Bytes
deriving DecidableEq, Repr

/-- The sections of an image, as its header lists them. -/
def imgSecs (m : Bytes) : List ImgSec :=
  (List.range (min 16 (field m 6 2))).map fun j =>
    let p := 32 + 48 * j
    ⟨field m p 1, field m (p + 1) 1, field m (p + 4) 4, field m (p + 8) 4, slice m (p + 16) 32⟩

/-- Every reserved field of a header is 0 (R390). -/
def imgReserved (m : Bytes) : Bool :=
  let n := field m 6 2
  let zero := fun (p k : Nat) => (slice m p k).all (· == 0)
  field m 14 1 < 2 && zero 15 1 && zero 20 12 && zero 992 32 && (hasBit (field m 14 1) 0 || zero 864 128) &&
    (List.range 16).all fun j => if j < n then zero (34 + 48 * j) 2 && zero (44 + 48 * j) 4 else zero (32 + 48 * j) 48

/-- The steward section that a die boots. -/
def Dev.imgSec (d : Dev) (die : Nat) (m : Bytes) : Option ImgSec :=
  (imgSecs m).find? fun s => s.kind == 0 && s.rev == d.get F.WRD_ID_REV die

/-- A ROM accepts a bank (R390): 0, or what it fails: 1 incomplete, 2 hash, 3 signature, 4 rollback. -/
def Dev.imgCheck (d : Dev) (die : Nat) (m : Bytes) : Nat :=
  let k := field m 13 1
  let cosigned := hasBit (field m 14 1) 0
  let cokey := slice m 928 64
  if m.length < 1024 ∨ field m 0 4 ≠ 0x46484C47 ∨ field m 4 2 ≠ 1 ∨ field m 6 2 = 0 ∨ 16 < field m 6 2 ∨ imgReserved m = false ∨
      64 < field m 12 1 then 1
  else if 3 < k ∨ hasBit (d.get F.WRD_ID_REVOKED die) k ∨ Config.sm2Verify (Config.romKey k) (m.take 800) (slice m 800 64) = false then 3
  else if d.fuse.cosign.getD die false = true ∧
      (!cosigned || Config.custHash die != some (sm3 cokey) || !Config.sm2Verify cokey (m.take 800) (slice m 864 64)) = true then 3
  else if field m 12 1 < d.get F.WRD_SVN_RBCOUNT die then 4
  else
    match d.imgSec die m with
    | none => 1
    | some s => if s.hash = sm3 (slice m s.off s.len) then 0 else 2

/-- The flash that a die's ROM reads: its own, or on GF4 that of die 0, then 3 (R390). -/
def Dev.flashDies (d : Dev) (die : Nat) : List Nat := if d.gf2 || die == 0 || die == 3 then [die] else [0, 3]

/-- The bank that a die boots from a flash: the accepted one with the higher VERSION. -/
def Dev.bootBank (d : Dev) (die fl : Nat) : Option Bytes :=
  let ok := ([0, 1].filterMap fun b => d.flash.at? (fl, b)).filter fun m => d.imgCheck die m == 0
  match ok with
  | [a, b] => some (if field a 8 4 < field b 8 4 then b else a)
  | [a] => some a
  | _ => none

/-- A die accepts no bank (R390, R428): its neighbours hold its knuckles DOWN and, where their firmware runs, post
NEIGHBOUR_BOOTFAIL (R447). DEDUCED, log entry 120. -/
def Dev.bootFails (d : Dev) (die : Nat) : Dev :=
  let ks := d.knuckles.filter fun k => (knuckleEnds k).1 == die || (knuckleEnds k).2 == die
  let d1 := ks.foldl (fun d' k => if d'.knkSt die (endInst k die) = 6 then d' else d'.knkDown k)
    ((d.put F.WRD_STAT_BOOTFAIL 1 die).raiseAlert die)
  ks.foldl (fun d' k =>
    let n := if (knuckleEnds k).1 == die then (knuckleEnds k).2 else (knuckleEnds k).1
    if d'.carrierUp n && (d'.stews.at? n).any (·.fw) then d'.stwPost n ⟨0x0A, 8, 0, noPart, die, 0, 0⟩ else d') d1

/-- The ROM boots (R391). `found` are flash banks, (die, bank), that nothing in the package has written, as the ROM finds
them. A die that accepts no bank stays in ROM. -/
def Dev.romBoot (d : Dev) (die : Nat) (found : List ((Nat × Nat) × Bytes)) : Dev :=
  if !d.carrierUp die || (d.stews.at? die).any (·.fw) then d
  else
    let d1 := { d with flash := found.foldl (fun f (x : (Nat × Nat) × Bytes) => if (f.at? x.1).isSome then f else f.put x.1 x.2) d.flash }
    let fl := (d.flashDies die).filter fun j => j == die || d.reaches die j
    match fl.findSome? (d1.bootBank die) with
    | none => d1.bootFails die
    | some m =>
      match d1.imgSec die m with
      | none => d1
      | some s =>
        let d2 := if d1.on? F.WRD_STAT_BOOTLOCK die then d1 else
          (d1.put F.WRD_SVN_SVN (field m 12 1) die).modWard die fun w =>
            { w with meas := (w.meas.set 0 (sm3 (m.take 1024))).set 1 (sm3 (slice m s.off s.len)), fwver := field m 8 4, sigkey := field m 13 1 }
        { d2 with stews := d2.stews.put die { (d2.stews.atD die Stew.initial) with fw := true, hbAt := d2.tick die } }

end Sys2Proof.Machine
end

