-- ==== Sys2Proof/Machine/Power.lean ====
section
/-!
DEFINITION. Power states and clocks (R27, R28, R407–R425, R454, R470, R471): domains that come up and go down, the sequencer
of a die, the Ward's throttle and trip, rails, clocks, the local counter.
-/
namespace Sys2Proof.Machine

def PwSt.initial : PwSt := ⟨4, 0, [16, 16, 16], [none, none, none], [0, 0, 0], [0, 0, 0, 0], false, 0⟩
def Dev.pws? (d : Dev) (die : Nat) : PwSt := d.pws.atD die PwSt.initial
def Dev.setPw (d : Dev) (die : Nat) (x : PwSt) : Dev := { d with pws := d.pws.put die x }
def Dev.modPw (d : Dev) (die : Nat) (f : PwSt → PwSt) : Dev := d.setPw die (f (d.pws? die))

/-- The power flags of a die set. -/
def Dev.flags (d : Dev) (die : Nat) (x : DiePw) : Dev := { d with pw := d.pw.set die x }

/-! Domains going down -/

/-- Registers of a domain at their Reset column, but for those that `keep` names. -/
def Dev.resetBut (d : Dev) (die : Nat) (dom : Dom) (keep : Reg → Bool) : Dev :=
  { d with rf := d.rf.delIf fun k => k.die == die && (Reg.place k.reg).dom == dom && !keep k.reg }

/-- Registers whose contents firmware restores from the repair log before anything uses them (R36, R237, R440). -/
def logReg (r : Reg) : Bool :=
  [Reg.CMP_MAP_DATA, .CMP_PCTL, .HBM_BLENT, .HBM_BLSTAT, .HBM_BLMIN, .HBM_PEN_LO, .HBM_PEN_HI, .HBM_RET_LO, .HBM_RET_HI,
   .HBM_RETCNT, .HUB_SLICE, .HUB_DB].contains r

/-- Registers that P3 keeps, or that the steward restores at its exit from its record (R407, R414). -/
def sleepReg (r : Reg) : Bool :=
  logReg r ||
  [Reg.HBM_ID, .HBM_STAT, .HBM_TEMP, .HBM_REFCTL, .HBM_SCHED, .HBM_LREP, .HBM_LMARG, .HBM_RRATE, .HBM_RGCAP, .SBF_OWNER, .TMB_RANGE,
   .PLK_ROUTE, .HUB_KMAP, .ETH_PCTL, .ETH_PRIO, .ETH_PFCEN, .ETH_PFCTH, .ETH_PFCWD, .ETH_LEAD, .FLT_STAT, .FLT_HEAD, .FLT_NEXT,
   .FLT_CTL, .FLT_DROP, .FLT_QDATA, .KRG_PKG].contains r

/-- An end of the control network lies in a die's compute domain. -/
def Ep.inCompute (die : Nat) : Ep → Bool
  | .core l => bitsOf l 12 11 == die
  | .phys k => cellDie (k / 256) == die
  | .eng x _ => x == die
  | .dsp x => x == die
  | _ => false

/-- The scratchpads of cells `c`, …, `c + n - 1` without valid code. -/
def Dev.spadsInvalid (d : Dev) (c n : Nat) : Dev :=
  let a := spAddr (coreKey c 0) 0
  let k := n * 256 * 2 ^ 18
  { d with unwritten := (a, k) :: cutRange d.unwritten a k,
           mem := d.mem.zero a k,
           errs := d.errs.delIf fun u => a ≤ u && u < a + k,
           wback := d.wback.filter fun w => w.1 < a || a + k ≤ w.1,
           scrub := d.scrub.delIf fun x => x.1 == 2 && c ≤ x.2 / 256 && x.2 / 256 < c + n }

/-- A die's compute domain loses its power: cores, cells, engines and their registers (R27, R407); armed waits are withdrawn
(R181). -/
def Dev.computeOff (d : Dev) (die : Nat) : Dev :=
  let p := d.pwOf die
  let d1 := ((d.flags die ⟨p.carrier, p.kept, false⟩).resetBut die .compute logReg).spadsInvalid (12 * die) 12
  { d1 with cores := d1.cores.delIf (fun k => cellDie (k / 256) == die),
            cells := d1.cells.delIf (fun c => cellDie c == die),
            engs := d1.engs.delIf (fun k => k / 64 == die),
            unfs := d1.unfs.delIf (fun k => k / 24 == die),
            dsps := d1.dsps.del die,
            waits := d1.waits.filter (fun w => !w.who.inCompute die),
            chunks := d1.chunks.filter (fun x => cellDie (x.1 / 256) != die),
            stest := d1.stest.filter fun x => !(x.1 == 2 && x.2.1 == die) }.put F.PWR_CLK_CMPLOCK 0 die

/-- Requests of others that a die holds fail with PATH at their issuers' hubs when its carrier domain goes (R274, R454). -/
def Dev.heldTxns (d : Dev) (die : Nat) : List Txn :=
  (d.bq.filter fun e => e.1.1 == die).flatMap (·.2) ++ (d.rdq.filter fun e => e.1.1 == die).flatMap (·.2) ++
    ((d.site die).win.map fun w => w.2.1) ++
    (d.qps.filter fun e => qpDie e.1 == die).flatMap fun e => e.2.ops.flatMap (·.lines)

/-- A die's carrier domain loses its power (R407, R414); in P3 a part of it stays, with HBM data, the steward and its record. -/
def Dev.carrierOff (d : Dev) (die : Nat) (sleep : Bool) : Dev :=
  let held := (d.heldTxns die).filter fun t => t.src.die != die
  let d0 := (List.range 4).foldl (fun d' j => ((d'.moveRoutes (4 * die + j)).portFlush (4 * die + j))) (d.computeOff die)
  let d1 := ((d0.flags die ⟨false, sleep, false⟩).resetBut die .carrier (if sleep then sleepReg else logReg)).sbInvalid die
  let d2 := if sleep then d1 else
    { d1.hbInvalid die with hbm := d1.hbm.delIf (fun k => k / 4 == die), narrow := d1.narrow.filter (fun r => r.1 != die),
                            stews := d1.stews.del die }
  let d3 := { d2 with
    tmb := d2.tmb.delIf fun k => k / 65536 == die
    waits := d2.waits.filter fun w => w.home != die && w.who.die != die
    ctl := d2.ctl.filter fun m => m.src.die != die && m.dst.die != die
    net := d2.net.filter fun p => match p with | .req _ => true | .rsp r => r.dst.die != die
    capt := d2.capt.delIf fun k => k.1 == die || k.2.die == die
    held := d2.held.delIf fun k => k.1 == die || k.2.die == die
    bq := d2.bq.delIf fun k => k.1 == die
    rdq := d2.rdq.delIf fun k => k.1 == die
    wrq := d2.wrq.delIf fun k => k.1 == die
    rows := d2.rows.delIf fun k => k.1 == die
    conv := d2.conv.del die
    zfill := d2.zfill.del die
    memtest := d2.memtest.del die
    scrub := d2.scrub.delIf fun x => x.1 == 0 && x.2 / 128 == die || x.1 == 1 && x.2 / 256 == die
    stest := d2.stest.filter fun x => x.2.1 != die
    krg := d2.krg.delIf fun k => k.1 == die
    krgP := d2.krgP.del die
    drains := d2.drains.delIf fun k => k.1 == die
    stwIo := d2.stwIo.del die
    flinks := d2.flinks.delIf fun k => k.1 == die
    knkPend := d2.knkPend.delIf fun k => k.1 == die
    mapUpd := d2.mapUpd.filter fun x => x.1 != die
    sites := d2.sites.del die
    lanes := d2.lanes.delIf fun k => k.1 == die
    ports := d2.ports.delIf fun p => portDie p == die
    eths := d2.eths.delIf fun k => k.1 == die
    qps := d2.qps.delIf fun q => qpDie q == die
    mbxIn := d2.mbxIn.delIf fun k => k.1 == die }
  let d4 := (d3.put F.HUB_KMAP_UP 0 die).put F.PWR_CLK_HUBLOCK 0 die
  held.foldl (fun d' t => d'.pathFail t.src.die t) d4

/-- The knuckles of a die, by number. -/
def Dev.knucklesOf (d : Dev) (die : Nat) : List Nat := d.knuckles.filter fun k => (knuckleEnds k).1 == die || (knuckleEnds k).2 == die

/-- Neighbours find a die's knuckles dead (R290, R454). -/
def Dev.knucklesLost (d : Dev) (die : Nat) : Dev :=
  (d.knucklesOf die).foldl (fun d' k => d'.knkDown k) d

/-- A partition holds something on a die: a cell, an engine, a dispatch unit, a tumbler range, a MiB. -/
def Dev.partOn (d : Dev) (p : Nat) (x : Part) (die : Nat) : Bool :=
  (List.range 12).any (fun j => hasBit x.cells (12 * die + j)) || x.ten.getD die 0 != 0 || x.unf.getD die 0 != 0 || hasBit x.dsp die ||
    (d.rangeAt die die p).num != 0 || field x.body (84 + 4 * die) 4 / 2 ^ 9 % 2 ^ 9 != 0

/-- A die's carrier domain is lost through a fault (R28, R454): its state is P4, its neighbours report it, its partitions are
held. -/
def Dev.carrierLost (d : Dev) (die : Nat) : Dev :=
  let parts := d.parts.map fun (x : Nat × Part) => if d.partOn x.1 x.2 die then (x.1, { x.2 with fault := true }) else x
  let d1 := ({ d with parts := parts }.carrierOff die false).knucklesLost die
  let d2 := ([die ^^^ 1, die ^^^ 2].filter fun n => n < d.ndies).foldl
    (fun d' n => d'.post n ⟨0x0A, 6, 0, noPart, die, 0, 0⟩) d1
  let d3 := (((d2.put F.PWR_STATE_CUR 4 die).put F.PWR_STATE_TGT 4 die).put F.PWR_STATE_BUSY 0 die).put F.PWR_DCTL_PEND 0 die
  d3.modPw die fun x => { x with goal := 4, tested := false }

/-- One compute die goes down: its clock stops, what its cells hold is lost; its cell lanes are fenced (R272, R452). -/
def Dev.computeDieLost (d : Dev) (die n : Nat) : Dev :=
  let c := 12 * die + 4 * n
  let d1 := d.spadsInvalid c 4
  let mine := fun (k : Nat) => c ≤ k && k < c + 4
  let d2 := { d1 with cores := d1.cores.delIf (fun k => mine (k / 256)), cells := d1.cells.delIf mine,
                      waits := d1.waits.filter fun w => match w.who with
                        | .core l => !mine (lcoreCell l)
                        | .phys k => !mine (k / 256)
                        | _ => true }
  let d3 := d2.put F.CMP_CELL_CTL_PARK 15 die n
  let d4 := d3.put F.PWR_CLK_CMPLOCK (clrBit (d3.get F.PWR_CLK_CMPLOCK die) n) die
  (List.range 4).foldl (fun d' j => d'.put F.HUB_PFENCE_LO_FENCE (orBit (d'.get F.HUB_PFENCE_LO_FENCE die) (4 * n + j)) die) d4

/-! Domains coming up -/

/-- A die's carrier domain comes up (R27, R254): registers at reset, the straps sampled, knuckles between powered dies train. -/
def Dev.carrierOn (d : Dev) (die : Nat) : Dev :=
  let p := d.pwOf die
  let d1 := ((d.flags die ⟨true, true, p.compute⟩).put F.KRG_PKG_PKG d.fuse.strap die).put F.PWR_CLK_HUBLOCK 1 die
  (d1.knucklesOf die).foldl (fun d' k =>
    let e := knuckleEnds k
    if d'.carrierUp e.1 && d'.carrierUp e.2 then d'.knkFull k false false else d') (d1.put F.PWR_CLK_REFOK 1 die)

/-- A die's compute domain comes up and its PLLs lock (R411, R426 step 13): cells parked, cores HELD; the engines and the
dispatch unit that a partition keeps are IDLE. -/
def Dev.computeOn (d : Dev) (die : Nat) : Dev :=
  let p := d.pwOf die
  if !p.carrier || p.compute then d
  else
    let d1 := (d.flags die ⟨p.carrier, p.kept, true⟩).put F.PWR_CLK_CMPLOCK 7 die
    let d2 := (List.range 64).foldl (fun d' e => if d'.on? F.TEN_CTL_ASSIGN die e then d'.setTen die e tenIdle else d') d1
    if d2.on? F.DSP_CTL_ASSIGN die then d2.setDsp die dspIdle else d2

/-- An engine, unfold engine or dispatch unit at its reset is assigned to a partition, or to none (R115, R143, R163). -/
def Dev.tenAssign (d : Dev) (die e p : Nat) (on : Bool) : Dev :=
  ((d.put F.TEN_CTL_PART (if on then p else 0) die e).put F.TEN_CTL_ASSIGN (if on then 1 else 0) die e).engReset die e
def Dev.unfAssign (d : Dev) (die u p : Nat) (on : Bool) : Dev :=
  (((d.unfReset die u).put F.UNF_CTL_PART (if on then p else 0) die u)).put F.UNF_CTL_ASSIGN (if on then 1 else 0) die u
def Dev.dspAssign (d : Dev) (die p : Nat) (on : Bool) : Dev :=
  ((d.put F.DSP_CTL_PART (if on then p else 0) die).put F.DSP_CTL_ASSIGN (if on then 1 else 0) die).dspReset die

/-- A partition's engines and dispatch unit on a die, assigned or released. -/
def Dev.partAssign (d : Dev) (die p : Nat) (x : Part) (on : Bool) : Dev :=
  let d1 := (bitsSet (x.ten.getD die 0) 64).foldl (fun d' e => d'.tenAssign die e p on) d
  let d2 := (bitsSet (x.unf.getD die 0) 24).foldl (fun d' u => d'.unfAssign die u p on) d1
  if hasBit x.dsp die then d2.dspAssign die p on else d2

/-! The sequencer (R409, R415) -/

/-- The die's state, and the state its running step leads to. -/
def Dev.pwCur (d : Dev) (die : Nat) : Nat := d.get F.PWR_STATE_CUR die
def Dev.pwTgt (d : Dev) (die : Nat) : Nat := d.get F.PWR_STATE_TGT die
def Dev.pwBusy (d : Dev) (die : Nat) : Bool := d.on? F.PWR_STATE_BUSY die

/-- A target that the state allows: P3 and P4 are left only by a wake request. -/
def pwAllowed (cur tgt : Nat) : Bool := tgt < 5 && (cur < tgt || (tgt < cur && cur ≤ 2))

/-- The next state on the way. -/
def pwNext (cur goal : Nat) : Nat := if cur < goal then cur + 1 else cur - 1

/-- A port sends SLEEP if it holds no unacknowledged frame, or when it may wait no longer (R413). -/
def Dev.portRest (d : Dev) (p : Nat) (force : Bool) : Dev :=
  if d.portHere p && d.portSt p == plkUp && ((d.port p).held.isEmpty || force) then d.portSleep p else d

/-- The ports of a die. -/
def diePorts (die : Nat) : List Nat := (List.range 4).map fun j => 4 * die + j

/-- A step begins. -/
def Dev.pwBegin (d : Dev) (die goal : Nat) : Dev :=
  let cur := d.pwCur die
  let tgt := pwNext cur goal
  let d1 := ((d.put F.PWR_STATE_TGT tgt die).put F.PWR_STATE_BUSY 1 die).modPw die fun x => { x with goal := goal, begun := d.tick die }
  match cur, tgt with
  | 1, 2 => (diePorts die).foldl (fun d' p => d'.portRest p false) ((List.range 4).foldl (fun d' s => d'.hbSelfref die s) d1)
  | 2, 1 =>
    let d2 := (List.range 4).foldl (fun d' s => d'.hbWake die s) (d1.computeOn die)
    (diePorts die).foldl (fun d' p => (List.range 4).foldl (fun d3 i =>
      let l := d3.laneOf p i
      if d3.laneSt die l = laneSleep then d3.laneCmdWrite die l 4 else d3) d') d2
  | _, _ => d1

/-- GO of PWR_DCTL: starts a transition, or holds its target one deep. -/
def Dev.pwGo (d : Dev) (die tgt : Nat) : Dev :=
  if !d.aonUp die then d
  else if d.pwBusy die then
    if d.on? F.PWR_DCTL_PEND die then d else (d.put F.PWR_DCTL_PEND 1 die).put F.PWR_DCTL_PTGT tgt die
  else if pwAllowed (d.pwCur die) tgt then d.pwBegin die tgt
  else d

/-- A write to PWR_DCTL. -/
def Dev.pdctlWrite (d : Dev) (die v : Nat) : Dev :=
  let d1 := d.writeGen ⟨.PWR_DCTL, die, 0, 0⟩ v [F.PWR_DCTL_GO]
  if hasBit v 3 then d1.pwGo die (d1.get F.PWR_DCTL_TARGET die) else d1

/-- Exit from P3 or P4 begins (R412, R414, R426): carrier domain up, P1 the target. -/
def Dev.pwExit (d : Dev) (die : Nat) : Dev :=
  let d1 := ((d.put F.PWR_STATE_TGT 1 die).put F.PWR_STATE_BUSY 1 die).modPw die fun x => { x with goal := 1, begun := d.tick die, tested := false }
  { d1 with tripN := d1.tripN.set die false }.carrierOn die

/-- Rails whose set point a margin moves, in the order of R460. -/
def marginRails : List Nat := [1, 2, 3, 6, 7, 8]

/-- A rail's offset applied (R463): life fuses blown up to it. `fuse` tells whether they blow. -/
def Dev.railApply (d : Dev) (die r : Nat) (fuse : Bool) : Dev :=
  let pend := d.get F.AGE_ROFF_PEND die 0 r
  let life := d.get F.WRD_LIFE_STEPS die
  let d1 := if life < pend then
      { d with fuse := { d.fuse with life := d.fuse.life.set die pend } }.put F.WRD_LIFE_STEPS pend die else d
  if life < pend && !fuse then d
  else ((d1.put F.PWR_RSET_MV (railTyp r + 5 * pend) die 0 r).put F.AGE_ROFF_STEPS pend die 0 r).put F.AGE_ROFF_PENDV 0 die 0 r

/-- Approved margins take effect while the die is parked in P1 (R463). `fails` names rails whose fuse does not blow: then no set
point of the die changes. -/
def Dev.marginApply (d : Dev) (die fails : Nat) : Dev :=
  let rs := marginRails.filter fun r => d.on? F.AGE_ROFF_PENDV die 0 r
  let bad := rs.filter fun r => hasBit fails r && decide (d.get F.WRD_LIFE_STEPS die < d.get F.AGE_ROFF_PEND die 0 r)
  if bad.isEmpty then rs.foldl (fun d' r => d'.railApply die r true) d
  else bad.foldl (fun d' r => d'.stwPost die ⟨0x0B, 6, 0, noPart, r, d.get F.AGE_ROFF_PEND die 0 r, 0⟩) d

/-- The first pending rows of a stack are hard-repaired (R235): `ok` tells, row by row, whether the stack confirms. A row that
is not repaired, or on P3 entry can borrow no blank in another bank of its pseudo-channel, is retired. -/
def Dev.hardRepair (d : Dev) (die stack : Nat) (sleep : Bool) (ok : List Bool) : Dev :=
  let pend := d.pendList die stack
  let k := min 8 pend.length
  let row := fun (e : Nat) => (⟨e % 64, bitsOf e 9 6 + 16 * bitsOf e 11 10, bitsOf e 25 12⟩ : RowId)
  let borrow := fun (d' : Dev) (r : RowId) => (List.range 64).any fun b => b != r.bank && !(d'.freeBlanks die stack r.pc b).isEmpty
  let rest := pend.drop k
  let d1 := rest.zipIdx.foldl (fun d' x => d'.put64 F.HBM_PEN_LO_ENTRY F.HBM_PEN_HI_ENTRY x.1 die stack x.2)
    (d.put F.HBM_BLSTAT_NPEND rest.length die stack)
  (pend.take k).zipIdx.foldl (fun d' x =>
    let r := row x.1
    if ok.getD x.2 true && (!sleep || borrow d' r) then
      d'.setHbm die stack { d'.hbmAt die stack with repairs := (d'.hbmAt die stack).repairs - 1 }
    else d'.retireRow die stack r) d1

/-- No transfer of the die's engines and dispatch unit is under way (R410). -/
def Dev.dieDrained (d : Dev) (die : Nat) : Bool :=
  ((d.engs.filter fun e => e.1 / 64 == die).all fun e => !d.engBusy die (e.1 % 64) && d.tenSt die (e.1 % 64) != tenDrain) &&
    (d.dsp die).out.isEmpty

/-- A partition with a cell, engine or dispatch unit on a die is assigned again from the steward's record (R414). -/
def Dev.restoreDie (d : Dev) (die : Nat) : Dev := d.parts.foldl (fun d' (x : Nat × Part) => d'.partAssign die x.1 x.2 true) d

/-- What the step of `cur` to `tgt` needs before it may end. -/
def Dev.pwReady (d : Dev) (die cur tgt : Nat) : Bool :=
  let hst := fun (s : Nat) => d.get F.HBM_STAT_STATE die s
  match cur, tgt with
  | 0, 1 => d.dieDrained die
  | 1, 2 =>
    ((List.range 4).all fun s => (hst s != 2 || (d.hbmAt die s).cut.isNone) && hst s != 1) && (diePorts die).all fun p => d.portSt p != plkUp
  | 2, 1 => (List.range 4).all fun s => hst s != 1
  | 3, 1 => d.computeUp die && (List.range 4).all fun s => hst s != 1
  | 4, 1 => d.computeUp die && (d.pws? die).tested
  | _, _ => true

/-- The end state of a step takes effect. `fails` and `ok` are what fuses and hard repairs turn out to be. -/
def Dev.pwEnter (d : Dev) (die cur tgt fails : Nat) (ok : List (List Bool)) : Dev :=
  let repair := fun (sleep : Bool) => (List.range 4).foldl (fun d' s => d'.hardRepair die s sleep (ok.getD s [])) d
  match cur, tgt with
  | 0, 1 => (((List.range 12).foldl (fun d' j => d'.cellPark (12 * die + j)) d).put F.PWR_CLK_CMPLOCK 0 die).marginApply die fails
  | 1, 0 => d.put F.PWR_CLK_CMPLOCK 7 die
  | 1, 2 => ((List.range 4).foldl (fun d' s => d'.hbSelfref die s) d).computeOff die
  | 2, 3 => ((repair true).carrierOff die true).knucklesLost die
  | 3, 4 => (repair false).carrierOff die false
  | 3, 1 => ((d.restoreDie die).put F.PWR_CLK_CMPLOCK 0 die).marginApply die fails
  | _, 1 => (d.put F.PWR_CLK_CMPLOCK 0 die).marginApply die fails
  | _, _ => d

/-- The running transition has reached its end state: a held target runs if the state allows it (R415), a held wake request
always (R416). -/
def Dev.pwEnded (d : Dev) (die : Nat) : Dev :=
  if !d.on? F.PWR_DCTL_PEND die then d
  else
    let t := d.get F.PWR_DCTL_PTGT die
    let cur := d.pwCur die
    let d1 := (d.put F.PWR_DCTL_PEND 0 die).put F.PWR_DCTL_PTGT 0 die
    if 3 ≤ cur ∧ t = 1 then d1.pwExit die else if pwAllowed cur t then d1.pwBegin die t else d1.put F.PWR_DCTL_REFUSED 1 die

/-- POWER_STEP_COMPLETE: the step under way ends, and the next one of the transition begins. -/
def Dev.pwStep (d : Dev) (die fails : Nat) (ok : List (List Bool)) : Dev :=
  let cur := d.pwCur die
  let tgt := d.pwTgt die
  if !d.aonUp die || !d.pwBusy die || !d.pwReady die cur tgt then d
  else
    let d1 := ((d.pwEnter die cur tgt fails ok).put F.PWR_STATE_CUR tgt die).put F.PWR_STATE_BUSY 0 die
    let goal := (d.pws? die).goal
    if goal ≠ tgt then d1.pwBegin die goal else d1.pwEnded die

/-- A port still holds frames 100 µs after the entry to P2 began (R413). -/
def Dev.portSleepTimeout (d : Dev) (p : Nat) : Dev :=
  let die := portDie p
  if d.pwBusy die && d.pwCur die == 1 && d.pwTgt die == 2 then d.portRest p (d.late die (d.pws? die).begun 100) else d

/-- WAKE_REQUEST: a pulse of 2–20 µs on RESET_N (R412, R416, R419). -/
def Dev.wake (d : Dev) (die : Nat) : Dev :=
  if !d.aonUp die then d
  else
    let cur := d.pwCur die
    let tripped := d.tripN.getD die false
    if cur = 4 ∧ tripped = true ∧ 95 ≤ d.get F.PWR_TJ_TJMAX die then d
    else
      let d1 := (d.put F.PWR_WAKE_PULSE 1 die).count F.PWR_WAKE_COUNT 1 die
      if d.pwBusy die then
        if 3 ≤ d.pwTgt die || 3 ≤ (d.pws? die).goal then (d1.put F.PWR_DCTL_PEND 1 die).put F.PWR_DCTL_PTGT 1 die else d1
      else if 3 ≤ cur then d1.pwExit die
      else d1

/-! Contacts (R470, R471) -/

/-- RESET_N low for 1 ms or longer, and its release: carrier and compute domains start again; a tripped die stays in P4. -/
def Dev.dieReset (d : Dev) (die : Nat) : Dev :=
  if !d.aonUp die || d.tripN.getD die false then d
  else (if d.keptUp die then d.carrierLost die else d).pwExit die

/-- PWRGOOD falls: every domain of the die goes down; what its always-on domain held is lost. -/
def Dev.powerFall (d : Dev) (die : Nat) : Dev :=
  if !d.aonUp die then d
  else
    let d1 := (if d.keptUp die then d.carrierLost die else d).resetBut die .aon fun _ => false
    { d1 with aon := d1.aon.set die false, lcnt := d1.lcnt.set die 0, wards := d1.wards.del die, pws := d1.pws.del die,
              i3c := d1.i3c.del die, i3cOut := d1.i3cOut.del die, alert := d1.alert.set die false, tripN := d1.tripN.set die false }

/-- PWRGOOD rises: the cold reset of the always-on domain (R391, R426); `low` tells that RESET_N holds the die there. -/
def Dev.powerRise (d : Dev) (die : Nat) (low : Bool) : Dev :=
  if d.ndies ≤ die then d
  else
    let d1 := d.powerFall die
    let (k, d2) := d1.draw
    let d3 := { d2 with aon := d2.aon.set die true, wards := d2.wards.put die (Ward.fresh k) }
    let d4 := (d3.put F.PWR_CLK_SLOWOK 1 die).put F.PWR_CLK_REFOK 1 die
    if low then d4 else d4.pwExit die

/-! The Ward's protection (R417–R420) -/

/-- The throttle of a die as its three causes ask: duty, flags, an episode counted and reported at its start. -/
def Dev.thrSet (d : Dev) (die : Nat) : Dev :=
  let du := (d.pws? die).duty
  let low := du.foldl min 16
  let acting := fun (i : Nat) => if du.getD i 16 < 16 then 1 else 0
  let was := d.on? F.WRD_STAT_THROTTLE die
  let d1 := (((d.put F.PWR_THR_DUTYM1 (low - 1) die).put F.PWR_THR_TEMP (acting 0) die).put F.PWR_THR_PCEIL (acting 1) die).put
    F.PWR_THR_ICEIL (acting 2) die
  let d2 := d1.put F.WRD_STAT_THROTTLE (if low < 16 then 1 else 0) die
  if low < 16 ∧ was = false then
    (d2.countSat F.PWR_THR_NTHR 1 die).post die ⟨7, 3, 0, noPart, 0, d.get F.PWR_TJ_TJMAX die, 0⟩
  else d2

/-- Current of the VCMP rails, in tenths of an ampere. -/
def Dev.vcmpCurr (d : Dev) (die : Nat) : Nat :=
  d.get F.PWR_RMEAS_CURR die 0 6 + d.get F.PWR_RMEAS_CURR die 0 7 + d.get F.PWR_RMEAS_CURR die 0 8

/-- A cause asks for less: 0 temperature, 1 package ceiling, 2 current ceiling. -/
def Dev.tooMuch (d : Dev) (die c : Nat) : Bool :=
  match c with
  | 0 => decide (100 ≤ d.get F.PWR_TJ_TJMAX die)
  | 1 => decide (d.get F.WRD_PCEIL_WATTS die < d.get F.PWR_PDIE_PKG die)
  | _ => decide (10 * d.get F.WRD_ICEIL_AMPS die < d.vcmpCurr die)

/-- A cause's release condition: 97 °C or below, below 97% of the ceiling. -/
def Dev.cooled (d : Dev) (die c : Nat) : Bool :=
  match c with
  | 0 => decide (d.get F.PWR_TJ_TJMAX die ≤ 97)
  | 1 => decide (100 * d.get F.PWR_PDIE_PKG die < 97 * d.get F.WRD_PCEIL_WATTS die)
  | _ => decide (10 * d.vcmpCurr die < 97 * d.get F.WRD_ICEIL_AMPS die)

/-- Since when the release conditions hold, brought up to date after a sample. -/
def Dev.coolNote (d : Dev) (die : Nat) : Dev :=
  let since := fun (x : PwSt) (c : Nat) => if d.cooled die c then some ((x.cool.getD c none).getD (d.tick die)) else none
  d.modPw die fun x => { x with cool := (List.range 3).map (since x) }

/-- One step down for a cause, every 10 µs, to 4/16. -/
def Dev.thrStep (d : Dev) (die c : Nat) : Dev :=
  let x := d.pws? die
  let n := x.duty.getD c 16
  let first := n == 16
  if !d.aonUp die || 2 < c || !d.tooMuch die c || !(first || x.stepAt.getD c 0 + 10 ≤ d.tick die) then d
  else (d.setPw die { x with duty := x.duty.set c (max 4 (n - 1)), stepAt := x.stepAt.set c (d.tick die) }).thrSet die

/-- One step up for a cause, every 1 ms while its release condition has held for 1 ms. -/
def Dev.thrRelease (d : Dev) (die c : Nat) : Dev :=
  let x := d.pws? die
  let held := match x.cool.getD c none with | some t => decide (t + 1000 ≤ d.tick die) | none => false
  if !d.aonUp die || 2 < c || !held || !d.cooled die c || x.duty.getD c 16 == 16 || !decide (x.stepAt.getD c 0 + 1000 ≤ d.tick die) then d
  else (d.setPw die { x with duty := x.duty.set c (x.duty.getD c 16 + 1), stepAt := x.stepAt.set c (d.tick die) }).thrSet die

/-- The junction sensors are sampled: the highest reads `tj` °C. -/
def Dev.tjSample (d : Dev) (die tj : Nat) : Dev :=
  if !d.aonUp die then d
  else ((d.put F.PWR_TJ_TJMAX tj die).put F.PWR_TJ_TJPEAK (max (tj % 256) (d.get F.PWR_TJ_TJPEAK die)) die).coolNote die

/-- PEAKCLR. -/
def Dev.tjWrite (d : Dev) (die v : Nat) : Dev := if hasBit v 16 then d.put F.PWR_TJ_TJPEAK (d.get F.PWR_TJ_TJMAX die) die else d

/-- The Wards measure and exchange (R418): the die's power, its rails' voltages and currents, and the dies whose figures arrive. -/
def Dev.pwFigures (d : Dev) (die watts : Nat) (rails : List (Nat × Nat)) (arrived : Nat) : Dev :=
  if !d.aonUp die then d
  else
    let d1 := rails.zipIdx.foldl (fun d' (x : (Nat × Nat) × Nat) =>
      if x.2 < 9 then (d'.put F.PWR_RMEAS_MV x.1.1 die 0 x.2).put F.PWR_RMEAS_CURR x.1.2 die 0 x.2 else d') (d.put F.PWR_PDIE_WATTS watts die)
    let figs := (List.range 4).map fun j =>
      if j = die then watts % 2 ^ 12 else if hasBit arrived j && d.aonUp j && j < d.ndies then d.get F.PWR_PDIE_WATTS j else (d.pws? die).figs.getD j 0
    ((d1.modPw die fun x => { x with figs := figs }).put F.PWR_PDIE_PKG (figs.foldl (· + ·) 0) die).coolNote die

/-- 110 °C on a sensor: the die trips (R419). -/
def Dev.trip (d : Dev) (die : Nat) : Dev :=
  if !d.aonUp die || !d.keptUp die then d
  else
    let d1 := (d.carrierLost die).put F.PWR_STATE_TRIPPED 1 die
    { d1 with tripN := d1.tripN.set die true }

/-! Rails and clocks (R421–R423) -/

/-- A rail has been out of regulation for 5 µs: its domain goes down as a fault. -/
def Dev.railFault (d : Dev) (die rail : Nat) : Dev :=
  let d1 := d.post die ⟨0x0A, 2, 0, noPart, rail, 0, 0⟩
  if !d.aonUp die then d
  else if rail = 0 then d.powerFall die
  else if rail < 6 then (if d.keptUp die then d1.carrierLost die else d)
  else if rail < 9 ∧ d.computeUp die = true then d1.computeDieLost die (rail - 6)
  else d

/-- The window of a rail's set point: VMIN and VMAX of its row, mV (R421). -/
def railWindow (rail : Nat) : Nat × Nat :=
  [(760, 840), (680, 850), (800, 950), (800, 900), (0, 0), (0, 0), (600, 900), (600, 900), (600, 900)].getD rail (0, 0)

/-- A write to PWR_RSET of the selected rail (R398, R421). -/
def Dev.rsetWrite (d : Dev) (die v : Nat) : Dev :=
  let r := d.selOf .PWR_RSET die 0
  let mv := v % 2 ^ 11
  let w := railWindow r
  if r = 4 ∨ r = 5 then d
  else if w.1 ≤ mv ∧ mv ≤ min w.2 (railTyp r + 5 * d.get F.WRD_LIFE_STEPS die) then d.put F.PWR_RSET_MV mv die 0 r
  else d.wardRefuse die

/-- The reference input has stopped for 10 µs (R422). -/
def Dev.refLoss (d : Dev) (die : Nat) : Dev :=
  if !d.aonUp die || !d.on? F.PWR_CLK_REFOK die then d
  else
    let d1 := (((d.post die ⟨0x0A, 3, 0, noPart, 0, 0, 0⟩).put F.PWR_CLK_REFLOSS 1 die).put F.PWR_CLK_REFOK 0 die).raiseAlert die
    if d.keptUp die then d1.carrierLost die else d1

/-- A running PLL loses lock (R422), numbered along its table: 0 hub, 1 steward, 2–4 compute, 5–8 HBM, 9–10 knuckle, 11–31 lanes,
32 auxiliary site. -/
def Dev.pllLoss (d : Dev) (die n : Nat) : Dev :=
  let rec1 := d.post die ⟨0x0A, 1, 0, noPart, n, 0, 0⟩
  if !d.carrierUp die then (if n = 1 ∧ d.keptUp die = true then { rec1 with stews := rec1.stews.del die } else d)
  else if n = 0 then rec1.carrierLost die
  else if n = 1 then { rec1 with stews := rec1.stews.del die }
  else if n < 5 then
    (if hasBit (d.get F.PWR_CLK_CMPLOCK die) (n - 2) then rec1.computeDieLost die (n - 2) else d)
  else if n < 9 then
    (let s := n - 5; let st := d.get F.HBM_STAT_STATE die s; if st = 1 ∨ st = 2 then (rec1.memRec die s 8 0).hbHold die s else d)
  else if n < 11 then d.knkSignalLoss die (n - 9)
  else if n < 32 then
    (let l := n - 11
     let st := d.laneSt die l
     if st = laneStOff ∨ st = laneSleep then d else ((d.linkRec die 1 4 l (d.raw ⟨.SER_LSTAT, die, l, 0⟩)).portLaneLost die l).laneDownNow die l)
  else if n = 32 ∧ 1 ≤ d.auxSt die then d.siteDown die 1
  else d

/-- Slow-clock edges have stopped for 1 µs: the internal oscillator takes over (R423). -/
def Dev.slowLoss (d : Dev) (die : Nat) : Dev :=
  if !d.aonUp die || !d.on? F.PWR_CLK_SLOWOK die then d
  else ((((d.put F.PWR_CLK_SLOWOK 0 die).put F.PWR_CLK_SLOWLOSS 1 die).raiseAlert die).post die ⟨0x0A, 4, 0, noPart, 0, 0, 0⟩)

/-- 1,000 consecutive good edges: the input is used again. -/
def Dev.slowBack (d : Dev) (die : Nat) : Dev := if d.aonUp die then d.put F.PWR_CLK_SLOWOK 1 die else d

/-- The local counter advances by one (R8, R423). -/
def Dev.tickUp (d : Dev) (die : Nat) : Dev :=
  if d.aonUp die then { d with lcnt := d.lcnt.set die ((d.tick die + 1) % 2 ^ 64) } else d

end Sys2Proof.Machine
end

