-- ==== Sys2Proof/Machine/Bringup.lean ====
section
/-!
DEFINITION. Bring-up (R230, R426–R444): self-tests, the memory test, the common level, chunks of the core image, and what
firmware does as it starts.
-/
namespace Sys2Proof.Machine

/-! Checker self-test (R230) -/

/-- A checker self-test of a block ends after about 1 ms: the first pattern that failed (0 for none), and in the CMP block the
cores whose own checker failed, as (cell, physical core). -/
def Dev.stestDone (d : Dev) (mem die i pattern : Nat) (bad : List (Nat × Nat)) : Dev :=
  if !d.stest.contains (mem, die, i) then d
  else
    let d1 := { d with stest := d.stest.erase (mem, die, i) }
    let fail := if pattern = 0 then 0 else 1
    match mem with
    | 0 =>
      let d2 := ((d1.put F.HBM_STEST_DONE 1 die i).put F.HBM_STEST_FAIL fail die i).put F.HBM_STEST_PATTERN pattern die i
      if pattern = 0 then d2 else (d2.memRec die i 9 0).hbHold die i
    | 1 =>
      let d2 := ((d1.put F.SBF_STEST_DONE 1 die).put F.SBF_STEST_FAIL fail die).put F.SBF_STEST_PATTERN pattern die
      if pattern = 0 then d2
      else ((d2.post die ⟨4, 9, 0, noPart, 1, d.raw ⟨.SBF_ELAST, die, 0, 0⟩, 0⟩).carrierLost die).raiseAlert die
    | _ =>
      let nbad := ((List.range 4).flatMap fun c => (List.range 136).filter fun p => bad.contains (c, p)).length
      let d2 := ((d1.put F.CMP_STEST_DONE 1 die i).put F.CMP_STEST_FAIL fail die i).put
        F.CMP_STEST_NFAIL nbad die i
      let d3 := (List.range 4).foldl (fun d' c => (List.range 136).foldl (fun x p =>
        (x.put F.CMP_PSTEST_TESTED 1 die i (c * 256 + p)).put F.CMP_PSTEST_PASS (if bad.contains (c, p) then 0 else 1) die i (c * 256 + p)) d') d2
      if pattern = 0 then d3 else d3.post die ⟨4, 9, 0, noPart, 2, 0, 0⟩

/-! Built-in self-test (R270, R415, R426, R428) -/

/-- Lane that slice 16 carries for a mask of failed slices (R270). -/
def spareLane (fail : Nat) : Nat := ((List.range 16).find? (hasBit fail)).getD 0x1F

/-- The built-in self-test of a die ends: slices newly found failed, and whether the shared buffer, tumbler bank or key ring
failed. A first failed slice restarts the carrier domain; a second one, or one on a die without slice 16, or a failed array
takes the die down to P4 with its alert. At the exit from P3 the compute domain is then powered (R414). -/
def Dev.bistEnd (d : Dev) (die slices : Nat) (arrays : Bool) : Dev :=
  let cur := d.pwCur die
  if !d.carrierUp die || !d.pwBusy die || cur < 3 then d
  else
    let was := d.get F.HUB_SLICE_FAIL die
    let all := was ||| (slices % 2 ^ 17)
    let d1 := (d.put F.HUB_SLICE_FAIL all die).put F.HUB_SLICE_SPARE (if d.gf2 then 0x1F else spareLane all) die
    if arrays || 2 ≤ popCount all 17 || (d.gf2 && popCount all 16 != 0) then (d1.carrierLost die).raiseAlert die
    else if all ≠ was then (d1.carrierOff die false).pwExit die
    else if cur = 3 then d1.computeOn die
    else d1

/-! Memory test (R430, R431) -/

/-- STRETCH of a die's stacks set by the memory test. -/
def Dev.stretch (d : Dev) (die v : Nat) : Dev := (List.range 4).foldl (fun d' s => d'.put F.HBM_REFCTL_STRETCH v die s) d

/-- The memory test of a die begins: its lines hold the test's patterns until the last fill. -/
def Dev.memStart (d : Dev) (die : Nat) (full : Bool) : Dev :=
  let d0 := (List.range 4).foldl (fun d' s => d'.setHbm die s { d'.hbmAt die s with escal := 0 }) d
  ({ d0 with memtest := d0.memtest.put die ⟨0, 0, full⟩, narrow := d0.narrow.filter fun r => r.1 != die }.hbInvalid die).stretch die 0

/-- A stack's training has ended; at a cold start the memory test begins once every stack has settled (R426 steps 8 and 9). -/
def Dev.trainDone (d : Dev) (die stack : Nat) (t : TrainRes) : Dev :=
  let d1 := d.hbTrained die stack t
  if d.get F.HBM_STAT_STATE die stack = 1 ∧ d1.pwBusy die = true ∧ d1.pwCur die = 4 ∧ (d1.memtest.at? die).isNone = true ∧
      (d1.pws? die).tested = false ∧ ((List.range 4).all fun s => 2 ≤ d1.get F.HBM_STAT_STATE die s) = true then
    d1.memStart die (!d1.on? F.PWR_STATE_FAST die)
  else d1

/-- Phases: 0 fill, 1 disturb, 2 verify, 3 hold, 4 verify, 5 stretched disturb, 6 verify; the fast path ends at 2. -/
def MemTest.last (m : MemTest) : Nat := if m.full then 6 else 2

/-- A phase is a verify. -/
def MemTest.verifies (m : MemTest) : Bool := m.phase == 2 || m.phase == 4 || m.phase == 6

/-- Failing rows found by a verify: blanks are cut or the rows escalate; a stack with more than 4,096 escalated rows is held
down. -/
def Dev.memVerify (d : Dev) (die : Nat) (rows : List (Nat × RowId)) : Dev :=
  let d1 := rows.foldl (fun d' x => if x.1 < 4 then d'.rowFails die x.1 x.2 else d') d
  (List.range 4).foldl (fun d' s => if 4096 < (d'.hbmAt die s).escal then (d'.memRec die s 8 0).hbHold die s else d') d1

/-- The test of a die ends with a fill of zeros; at bring-up the compute domain is then powered (R426 steps 10 and 13). -/
def Dev.memEnd (d : Dev) (die : Nat) : Dev :=
  let d1 := ({ d with memtest := d.memtest.del die }.hbZero die 0 d.hbmBytes).stretch die 0
  if d1.pwBusy die && d1.pwCur die == 4 then (d1.modPw die fun x => { x with tested := true }).computeOn die else d1

/-- MEMORY_TEST_PHASE_END: the phase under way on a die ends. `rows` are the rows (stack, row) that a verify finds failing. -/
def Dev.memPhase (d : Dev) (die : Nat) (rows : List (Nat × RowId)) : Dev :=
  match d.memtest.at? die with
  | none => d
  | some m =>
    let d1 := if m.verifies then d.memVerify die rows else d
    let goOn := fun (x : MemTest) => { d1 with memtest := d1.memtest.put die x }.stretch die (if x.phase = 3 ∨ x.phase = 5 then 7 else 0)
    if m.phase < m.last then goOn { m with phase := m.phase + 1 }
    else if m.pattern < 7 then goOn { m with pattern := m.pattern + 1, phase := 0 }
    else d1.memEnd die

/-! Common level (R429) -/

/-- A write of 1 to HUB_LEVEL.B0OK clears it. -/
def Dev.b0okClear (d : Dev) (die : Nat) : Dev := if d.carrierUp die then d.put F.HUB_LEVEL_B0OK 0 die else d

/-! The core image (R435, R439) -/

/-- Physical cores in LOADER that a chunk is for: those of the cells in the mask, or the one named. -/
def Dev.loaders (d : Dev) (die mask : Nat) (uni : Bool) : List Nat :=
  let core := coreKey (cellNo die (d.get F.HUB_LDCORE_CDIE die) (d.get F.HUB_LDCORE_CELL die)) (d.get F.HUB_LDCORE_PCORE die)
  let keys := if uni then [core] else (bitsSet mask 12).flatMap fun j => pcores.map fun p => coreKey (12 * die + j) p
  keys.filter fun k => (d.coreAt k).st == .loader

/-- GO of HUB_LDCTL: a chunk is read from the shared buffer and sent with its header. No effect while BUSY is set. -/
def Dev.chunkGo (d : Dev) (die : Nat) : Dev :=
  if !d.carrierUp die || d.on? F.HUB_LDCTL_BUSY die then d
  else
    let k := d.get F.HUB_LDCTL_CHUNK die
    let off := d.get F.HUB_LDSRC_BASE die * 64 + k * 4096
    let (data, d1) := (List.range 64).foldl (fun (s : Bytes × Dev) j =>
      let (r, d') := s.2.sbLoad die (off + 64 * j) 64
      (s.1 ++ slice r.data 0 64, d')) ([], d)
    let hdr := leBytes 1 0x4C ++ leBytes 1 (d.get F.HUB_LDCTL_NCHM1 die) ++ leBytes 1 k ++ zeros 1 ++
      leBytes 4 (d.get F.HUB_LDCEN_INDEX die + 2 ^ 16 * d.get F.HUB_LDCEN_DIE die) ++ leBytes 4 (d.get F.HUB_LDID_IMGID die) ++
      leBytes 4 (crc32c data)
    let dst := d.loaders die (d.get F.HUB_LDCTL_CELLMASK die) (d.on? F.HUB_LDCTL_UNI die)
    { d1 with chunks := d1.chunks ++ dst.map fun key => (key, hdr ++ data) }.put F.HUB_LDCTL_BUSY 1 die

/-- A write to HUB_LDCTL. -/
def Dev.ldHubWrite (d : Dev) (die v : Nat) : Dev :=
  let d1 := if d.on? F.HUB_LDCTL_BUSY die then d else d.writeGen ⟨.HUB_LDCTL, die, 0, 0⟩ v [F.HUB_LDCTL_GO]
  if hasBit v 14 then d1.chunkGo die else d1

/-- The chunk has left the hub. -/
def Dev.chunkSent (d : Dev) (die : Nat) : Dev := if d.carrierUp die then d.put F.HUB_LDCTL_BUSY 0 die else d

/-- Every chunk up to NCHM1 has been received: the census is counted up and the core is IDLE. -/
def Dev.loaderDone (d : Dev) (cn p : Nat) : Dev :=
  let key := coreKey cn p
  let c := d.coreAt key
  let n := c.ldr.census
  (d.setCore key { c with st := .idle }).coreSend cn p
    ⟨.phys key, .bank (bitsOf n 17 16), 1, 0, 0, d.lnumOf cn p, tumbField (bitsOf n 17 16) (n % 2 ^ 16) 0, 1, 0⟩

/-- A chunk reaches a core (R435). Whether the lines of a chunk that is discarded are in the scratchpad is free. -/
def Dev.chunkAt (d : Dev) (cn p : Nat) (b : Bytes) : Dev :=
  let key := coreKey cn p
  let c := d.coreAt key
  let k := field b 2 1 % 32
  let data := b.drop 16
  let nch := field b 1 1 % 32
  let cen := field b 4 4 % 2 ^ 18
  let img := field b 8 4
  let s := cellC cn * 256 + p
  let die := cellDie cn
  let same := !c.ldr.latched || (c.ldr.nchm1 == nch && c.ldr.census == cen && c.ldr.imgid == img)
  let crc := crc32c data == field b 12 4
  let (f, d1) := d.draw
  let wr := fun (x : Dev) => x.spStore key (k * 4096) data
  if !crc || !same then
    let d2 := if Config.freeBool f then wr d1 else d1
    if !crc then d2.countSat F.CMP_LDERR_CRC 1 die (cellN cn) s else d2.countSat F.CMP_LDERR_MISMATCH 1 die (cellN cn) s
  else
    let l : Loader := ⟨true, nch, cen, img, clrBit c.ldr.miss k⟩
    let d2 := (wr d1).setCore key { c with ldr := l }
    if l.miss % 2 ^ (nch + 1) = 0 then d2.loaderDone cn p else d2

/-- The chunk at place `n` on its way reaches its core, with the errors it met (R435): a deadbolt discards its lines; a core
that is not in LOADER discards it. A parked cell's core in LOADER receives (R411 and R436 load parked cells). -/
def Dev.chunkReceive (d : Dev) (n : Nat) (noise : Bytes) : Dev :=
  match d.chunks[n]? with
  | none => d
  | some (key, b) =>
    let d1 := { d with chunks := d.chunks.eraseIdx n }
    let cn := key / 256
    let p := key % 256
    if d.deadbolt cn p then (List.range 64).foldl (fun d' _ => d'.dbDiscard cn p) d1
    else if (d.coreAt key).st ≠ .loader ∨ d.computeUp (cellDie cn) = false then d1
    else d1.chunkAt cn p (xorBytes b noise)

/-! Firmware starts (R391, R463) -/

/-- Adjustable rails set for the life offset after a cold reset of the always-on domain (R463). -/
def Dev.railsRestore (d : Dev) (die : Nat) : Dev :=
  let life := d.get F.WRD_LIFE_STEPS die
  marginRails.foldl (fun d' r =>
    if (d'.rf.at? ⟨.AGE_ROFF, die, 0, r⟩).isSome then d'
    else (d'.put F.PWR_RSET_MV (railTyp r + 5 * life) die 0 r).put F.AGE_ROFF_STEPS life die 0 r) d

/-- ROM_BOOT: the ROM boots, and the firmware sets the rails. -/
def Dev.boot (d : Dev) (die : Nat) (found : List ((Nat × Nat) × Bytes)) : Dev :=
  let d1 := d.romBoot die found
  if (d1.stews.at? die).any (·.fw) && !(d.stews.at? die).any (·.fw) then d1.railsRestore die else d1

/-- BOOTLOCK set: every RO/L register is locked (R391). -/
def Dev.bootLock (d : Dev) (die : Nat) : Dev := if d.aonUp die then d.put F.WRD_STAT_BOOTLOCK 1 die else d

end Sys2Proof.Machine
end

