-- ==== Sys2Proof/Machine/HelBase.lean ====
section
/-!
DEFINITION. The frame of the Helham command set (R371–R381, R386–R388): lead-only messages and their epoch, requests and
their checks, replies, events, commands under way, pending slots of domains.
-/
namespace Sys2Proof.Machine

/-! Lead-only messages (R371, R372) -/

/-- The epoch that a die's Ward holds. -/
def Dev.epoch (d : Dev) (die : Nat) : Nat := d.get F.WRD_EPOCH_EPOCH die

/-- A steward acts as lead, with its mailbox powered. -/
def Dev.leads (d : Dev) (die : Nat) : Bool := d.carrierUp die && (d.stew die).fw && (d.stew die).lead

/-- A steward that meets a higher epoch stores it: it abandons its election, and as a lead it is one no more: its sessions end, its
requests are lost (R372, R373). -/
def Dev.demote (d : Dev) (die e : Nat) : Dev :=
  let d1 := d.epochWrite die e
  match d1.stews.at? die with
  | none => d1
  | some x =>
    let y : Stew := { x with elect := none }
    let z : Stew := if x.lead then { y with lead := false, jobs := [], sess := [], subs := [], watch := [], prop := none } else y
    { d1 with stews := d1.stews.put die z }

/-- The Ward of die `t` handles a message of the steward of `by_` under epoch `e`: admitted, a higher epoch stored, or refused and
recorded (R372, R455). -/
def Dev.leadAdmit (d : Dev) (by_ t e : Nat) : Bool × Dev :=
  if d.epoch t ≤ e ∧ e % 4 = by_ ∧ e ≠ 0 then (true, if d.epoch t < e then (if t = by_ then d.epochWrite t e else d.demote t e) else d)
  else (false, (d.wardRefuse t).post t ⟨0x0A, 7, 0, noPart, by_, e, 0⟩)

/-- What came of messages to several dies: those that do not answer, and whether the sender is no lead any more. -/
structure LeadRes where
  silent : Nat
  lost : Bool
deriving DecidableEq, Repr

/-- The steward of `die` sends messages to the dies `ts`. -/
def Dev.leadSend (d : Dev) (die : Nat) (ts : List Nat) : LeadRes × Dev :=
  ts.foldl (fun (s : LeadRes × Dev) t =>
    if s.1.lost || t == die then s
    else if !s.2.reaches die t then (⟨orBit s.1.silent t, false⟩, s.2)
    else
      let e := s.2.epoch die
      let own := s.2.epoch t
      match s.2.leadAdmit die t e with
      | (true, d') => (s.1, d')
      | (false, d') => if e < own then (⟨s.1.silent, true⟩, d'.demote die own) else (⟨orBit s.1.silent t, false⟩, d'))
    (⟨0, false⟩, d)

/-- Dies whose carrier domain is up. -/
def Dev.liveDies (d : Dev) : List Nat := (List.range d.ndies).filter d.carrierUp

/-! Messages (R374) -/

/-- A Helham message; with a key, its MAC follows. -/
def helMsg (op flags stat sid ctr det epoch tag : Nat) (body : Bytes) (key : Option Bytes) : Bytes :=
  let m := leBytes 2 op ++ leBytes 1 (flags + if key.isSome then 2 else 0) ++ leBytes 1 stat ++ leBytes 4 sid ++ leBytes 8 ctr ++
    leBytes 2 body.length ++ zeros 2 ++ leBytes 4 det ++ leBytes 4 epoch ++ leBytes 4 tag ++ body
  m ++ match key with | some k => hmac k m | none => []

def sOk : Nat := 0x00
def sAccepted : Nat := 0x01
def sDeferred : Nat := 0x02
def sBusy : Nat := 0x10
def sState : Nat := 0x11
def sArg : Nat := 0x12
def sAuth : Nat := 0x13
def sWard : Nat := 0x14
def sFailed : Nat := 0x20
def sTimeout : Nat := 0x21

/-- An open session of the lead. -/
def Dev.sessOf (d : Dev) (die sid : Nat) : Option Sess := (d.stew die).sess.find? fun x => x.sid == sid && x.sax.isNone

/-- A reply to a request, from its slot; `sid` is the session whose key makes its MAC (R375). -/
def Dev.helReply (d : Dev) (die : Nat) (q : HReq) (sid stat det : Nat) (body : Bytes) : Dev :=
  let key := if stat = sAuth then none else (d.sessOf die sid).map (·.key)
  if d.epochOther die die then d.wardRefuse die
  else d.slotReply die q.slot (helMsg q.op 1 stat sid q.ctr det (d.epoch die) q.tag body key)

/-- An event goes to one subscription (R386): its COUNTER is the frame's SEQ. -/
def Dev.eventTo (d : Dev) (die sub : Nat) (x : Sub) (code tag : Nat) (body : Bytes) : Dev :=
  let key := if code = 3 then none else (d.sessOf die x.sid).map (·.key)
  let n := (d.get F.MBX_SUBCNT_COUNT die 0 sub + 1) % 2 ^ 32
  let m := helMsg (0x100 + code) 0 0 x.sid n 0 (d.epoch die) tag body key
  if d.epochOther die die then d.wardRefuse die
  else ((((d.put F.MBX_ECTL_BUSY 0 die).putData .MBX_EDATA die 0 m).put F.MBX_ECTL_LEN m.length die).put F.MBX_ECTL_SUB sub die).eventSend die

/-- An event goes to every subscription that asks for its class (R387). -/
def Dev.helEvent (d : Dev) (die code tag : Nat) (body : Bytes) : Dev :=
  (d.stew die).subs.foldl (fun d' (x : Nat × Sub) => if hasBit x.2.classes code then d'.eventTo die x.1 x.2 code tag body else d') d

/-- OP_DONE of a request. -/
def Dev.opDone (d : Dev) (die : Nat) (q : HReq) (stat det : Nat) : Dev :=
  d.helEvent die 1 q.tag (leBytes 2 q.op ++ leBytes 1 stat ++ zeros 1 ++ leBytes 4 det)

/-! Requests (R368, R369, R374–R378) -/

/-- Opcodes of the table of R381. -/
def helOps : List Nat :=
  [0x01, 0x02, 0x03, 0x04, 0x10, 0x11, 0x20, 0x21, 0x22, 0x23, 0x30, 0x31, 0x32, 0x40, 0x41, 0x42, 0x43, 0x50, 0x51, 0x60, 0x61, 0x62,
   0x70, 0x71, 0x80, 0x81, 0x90, 0x91, 0xA0, 0xA1]

/-- Commands that need no session. -/
def helFree (op : Nat) : Bool := op == 1 || op == 2 || op == 3

/-- Commands answered before bring-up has ended (R427). -/
def helEarly (op : Nat) : Bool := [0x01, 0x02, 0x03, 0x04, 0x11, 0x50, 0x51, 0x60].contains op

/-- A delivered request that the steward has not answered: its message. -/
def Dev.helWaiting (d : Dev) (die slot : Nat) : Option Bytes :=
  match d.mbxIn.at? (die, slot) with
  | none => none
  | some m =>
    if !d.leads die || !d.on? F.WRD_STAT_BOOTLOCK die || 63 ≤ slot || m.done || (d.stew die).jobs.any (fun j => !j.acc && j.req.slot == slot)
    then none
    else some (d.dataOf .MBX_IDATA die slot m.len)

/-- The parts of a request. -/
def helReq (slot : Nat) (m : Bytes) : HReq :=
  ⟨slot, field m 4 4, field m 0 2, field m 8 8, field m 28 4, slice m 32 (field m 16 2)⟩

/-- Why a request's authority is refused: a DETAIL of NOT_AUTH, 0 for none (R376, R378). -/
def Dev.helAuth (d : Dev) (die : Nat) (m : Bytes) (q : HReq) : Nat :=
  let auth := hasBit (field m 2 1) 1
  let free := helFree q.op || !helOps.contains q.op
  if q.op = 0xF0 then 5
  else if q.sid = 0 then (if auth then 1 else if free then 0 else 4)
  else
    match d.sessOf die q.sid with
    | none => 1
    | some x =>
      if !auth then 4
      else
        let n := 32 + field m 16 2
        if m.drop n ≠ hmac x.key (m.take n) then 2 else if q.ctr < x.ctr then 3 else 0

/-- A request's form is refused with BAD_ARG: its header (R374), an opcode of no command (R381), its length. -/
def helForm (m : Bytes) (q : HReq) : Bool :=
  let f := field m 2 1
  m.length < 32 || hasBit f 0 || 4 ≤ f || field m 3 1 != 0 || field m 18 2 != 0 || field m 20 4 != 0 || field m 24 4 != 0 ||
    m.length != 32 + field m 16 2 + (if hasBit f 1 then 32 else 0) || 4096 < m.length || !helOps.contains q.op

/-- The steward takes the request of a slot (R369): its pending bit is cleared, an accepted COUNTER is kept. The request, and its
refusal as STATUS and DETAIL. -/
def Dev.helTake (d : Dev) (die slot : Nat) (m : Bytes) : HReq × Option (Nat × Nat) × Dev :=
  let q := helReq slot m
  let d1 :=
    if slot < 32 then d.put F.MBX_IPEND_LO_SLOTS (clrBit (d.get F.MBX_IPEND_LO_SLOTS die) slot) die
    else d.put F.MBX_IPEND_HI_SLOTS (clrBit (d.get F.MBX_IPEND_HI_SLOTS die) (slot - 32)) die
  let a := d.helAuth die m q
  let d2 := if a = 0 ∧ q.sid ≠ 0 then
      d1.modStew die fun x => { x with sess := x.sess.map fun s => if s.sid = q.sid then { s with ctr := q.ctr + 1 } else s }
    else d1
  if a ≠ 0 then (q, some (sAuth, a), d2)
  else if helForm m q then (q, some (sArg, 0), d2)
  else if !helEarly q.op && 2 < d.pwCur die then (q, some (sState, 0), d2)
  else (q, none, d2)

/-! Domains (R379, R380) -/

/-- The domain that a domain command names. -/
def helDom (q : HReq) : Option HDom :=
  let b := fun (j : Nat) => field q.body j 1
  match q.op with
  | 0x10 => some (match b 0 with | 0 => .pkg | 1 => .die (b 1) | _ => .part (b 1))
  | 0x21 => some (.part (b 0))
  | 0x22 => some (.part (b 0))
  | 0x61 => some (.link (b 0) (b 1) (b 2))
  | 0xA0 => some (match bitsSet (b 0) 4 with | [x] => .die x | _ => .pkg)
  | _ => none

/-- One domain contains the other. A partition meets every die on which it holds something. -/
def Dev.domMeets (d : Dev) (x y : HDom) : Bool :=
  let on := fun (p die : Nat) => match d.parts.at? p with | some a => d.partOn p a die | none => false
  match x, y with
  | .pkg, _ => true
  | _, .pkg => true
  | .die a, .die b => a == b
  | .die a, .part p => on p a
  | .part p, .die a => on p a
  | .die a, .link _ b _ => a == b
  | .link _ a _, .die b => a == b
  | .part a, .part b => a == b
  | .link a b c, .link a' b' c' => a == a' && b == b' && c == c'
  | _, _ => false

/-- A link of the die is in a sequence of its own. -/
def Dev.linkRuns (d : Dev) (die : Nat) : Bool :=
  ((List.range 2).any fun i => [1, 2, 3, 5].contains (d.knkSt die i)) || [1, 2, 4].contains (d.auxSt die) ||
    ((diePorts die).any fun p => d.portSt p == plkTrain || d.portSt p == plkQual) ||
    ((List.range 2).any fun p => d.ethBusy die p) || (List.range 21).any fun l => 1 ≤ d.laneSt die l && d.laneSt die l ≤ 4

/-- A transition runs in a domain, or in one that contains it or lies within it, besides the job at `skip`. A sequence of the link that
a LINK_RETRAIN names is that link's own to answer (R284). -/
def Dev.domBusy (d : Dev) (lead : Nat) (x : HDom) (skip : Option Nat) : Bool :=
  let link := match x with | .link _ _ _ => true | _ => false
  ((d.stew lead).jobs.zipIdx.any fun j =>
      some j.2 != skip && !j.1.held && !(link && j.1.req.op == 0x61) && (match helDom j.1.req with | some y => d.domMeets x y | none => false)) ||
    (List.range d.ndies).any fun die => d.reaches lead die && d.domMeets x (.die die) &&
      (d.pwBusy die || (match x with | .link _ _ _ => false | .part _ => false | _ => d.linkRuns die))

/-! Commands -/

/-- What a command's work has come to: STATUS, DETAIL and body of its answer; the phase and number that it goes on with when it is not
at its end; the session that its reply is under; a session that ends after the reply. -/
structure HOut where
  d : Dev
  stat : Nat
  det : Nat
  body : Bytes
  more : Option (Nat × Nat)
  sid : Option Nat
  close : Option Nat

/-- Answers at a command's end. -/
def Dev.hDone (d : Dev) (stat det : Nat) (body : Bytes) : HOut := ⟨d, stat, det, body, none, none, none⟩
def Dev.hOk (d : Dev) (body : Bytes) : HOut := d.hDone sOk 0 body
def Dev.hArg (d : Dev) (off : Nat) : HOut := d.hDone sArg off []
def Dev.hBad (d : Dev) (off : Nat) : HOut := d.hDone sState off []

/-- The work goes on: `stat` is ACCEPTED or DEFERRED when that is answered at once, OK when the answer waits. -/
def Dev.hMore (d : Dev) (stat phase arg : Nat) : HOut := ⟨d, stat, 0, [], some (phase, arg), none, none⟩

/-- A command of R381: its opcode, the length of a body, the other dies that it needs, its work on the lead's die from a phase. -/
structure HCmd where
  op : Nat
  len : Bytes → Nat
  dies : Dev → HReq → List Nat
  run : Dev → Nat → HReq → Nat → Nat → HOut

/-- The commands under way of a steward, with one of them put at a place, or removed. -/
def Dev.setJob (d : Dev) (die : Nat) (at_ : Option Nat) (j : Job) : Dev :=
  d.modStew die fun x => { x with jobs := match at_ with | some n => x.jobs.set n j | none => x.jobs ++ [j] }
def Dev.dropJob (d : Dev) (die : Nat) (at_ : Option Nat) : Dev :=
  match at_ with
  | some n => d.modStew die fun x => { x with jobs := x.jobs.eraseIdx n }
  | none => d

/-- A session ends, with its subscription. -/
def Dev.sessEnd (d : Dev) (die sid : Nat) : Dev :=
  let gone := ((d.stew die).subs.filter fun (x : Nat × Sub) => x.2.sid == sid).map (·.1)
  let d1 := d.modStew die fun x => { x with sess := x.sess.filter fun s => s.sid != sid, subs := x.subs.filter fun (s : Nat × Sub) => s.2.sid != sid }
  gone.foldl (fun d' sub => d'.liveDies.foldl (fun d2 j => d2.put F.MBX_SUBCTL_EN 0 j 0 sub) d') d1

/-- A command's work is at its end: its reply, or OP_DONE after ACCEPTED or DEFERRED. -/
def Dev.helEnd (d : Dev) (die : Nat) (j : Job) (o : HOut) : Dev :=
  let d1 := if j.acc then d.opDone die j.req o.stat o.det else d.helReply die j.req (o.sid.getD j.req.sid) o.stat (if o.stat = sOk then 0 else o.det) o.body
  match o.close with | some s => d1.sessEnd die s | none => d1

/-- A command works on: first its messages to other dies, then its own work. A command that is not at its end 1 s after it began
is answered ACCEPTED (R377). -/
def Dev.helStep (d : Dev) (die : Nat) (c : HCmd) (at_ : Option Nat) (j : Job) : Dev :=
  let (r, d1) := d.leadSend die ((c.dies d j.req).filter fun t => t < d.ndies)
  if r.lost then d1
  else if r.silent ≠ 0 then d1.setJob die at_ { j with silent := r.silent, at_ := if j.silent = 0 then d1.tick die else j.at_ }
  else
    let o := c.run d1 die j.req j.phase j.arg
    match o.more with
    | none => (o.d.dropJob die at_).helEnd die j o
    | some (ph, arg) =>
      let slow := at_.isSome && o.d.late die j.at_ 1000000
      let say := !j.acc && (o.stat != sOk || slow)
      let d2 := o.d.setJob die at_ { j with phase := ph, arg := arg, acc := j.acc || say, silent := 0 }
      if say then d2.helReply die j.req j.req.sid (if o.stat = sOk then sAccepted else o.stat) 0 o.body else d2

/-- A request that has passed its checks begins, or waits for its domain (R380). -/
def Dev.helBegin (d : Dev) (die : Nat) (c : HCmd) (q : HReq) : Dev :=
  let j : Job := ⟨q, 0, d.tick die, false, false, 0, 0⟩
  match helDom q with
  | none => d.helStep die c none j
  | some x =>
    if !d.domBusy die x none then d.helStep die c none j
    else if (d.stew die).jobs.any (fun k => k.held && (match helDom k.req with | some y => d.domMeets x y | none => false)) then
      d.helReply die q q.sid sBusy 1 []
    else (d.setJob die none { j with acc := true, held := true }).helReply die q q.sid sDeferred 0 []

/-- A body that is not as long as its command says: the offset at which it is refused (R374). -/
def bodyBad (c : HCmd) (b : Bytes) : Option Nat :=
  let n := c.len b
  if b.length < n then some b.length else if n < b.length then some n else none

/-- A command of the lead: `again` false, the request in inbound slot `n` is taken up; true, the command under way at place `n`
goes on. -/
def Dev.helRun (d : Dev) (die n : Nat) (again : Bool) (c : HCmd) : Dev :=
  if again then
    match (d.stew die).jobs[n]? with
    | none => d
    | some j => if !d.leads die || j.held || j.req.op != c.op then d else d.helStep die c (some n) j
  else
    match d.helWaiting die n with
    | none => d
    | some m =>
      if !(field m 0 2 == c.op || (c.op == 1 && !helOps.contains (field m 0 2))) then d
      else
        match d.helTake die n m with
        | (q, some (s, det), d1) => d1.helReply die q q.sid s det []
        | (q, none, d1) =>
          match bodyBad c q.body with
          | some off => d1.helReply die q q.sid sArg off []
          | none => d1.helBegin die c q

/-- A die has not answered for 1 s (R377). -/
def Dev.helTimeout (d : Dev) (die n : Nat) : Dev :=
  match (d.stew die).jobs[n]? with
  | none => d
  | some j =>
    if !d.leads die || j.silent = 0 || !d.late die j.at_ 1000000 then d
    else (d.dropJob die (some n)).helEnd die j (d.hDone sTimeout j.silent [])

end Sys2Proof.Machine
end

