-- ==== Sys2Proof/Machine/HelSess.lean ====
section
/-!
DEFINITION. The identity, session and power commands of the Helham command set (R376, R382, R408, R409).
-/
namespace Sys2Proof.Machine

/-- No other die is needed. -/
def noDies (_ : Dev) (_ : HReq) : List Nat := []

/-- A body's byte, and a field of it. -/
def HReq.b (q : HReq) (j : Nat) : Nat := field q.body j 1
def HReq.f (q : HReq) (j n : Nat) : Nat := field q.body j n

/-- The first of a body's reserved ranges, (offset, size), that is not 0 (R374). -/
def HReq.reserved (q : HReq) (rs : List (Nat × Nat)) : Option Nat :=
  (rs.find? fun r => (slice q.body r.1 r.2).any (· != 0)).map (·.1)

/-- "Per die" data of four entries (R381). -/
def Dev.perDie (d : Dev) (n : Nat) (f : Nat → Bytes) : Bytes :=
  (List.range 4).flatMap fun j => if j < d.ndies then slice (f j) 0 n else zeros n

/-! Identity -/

/-- The answer to IDENTIFY. -/
def Dev.identity (d : Dev) (die : Nat) : Bytes :=
  let b0 := d.b0Level die
  let fam := if d.gf2 then 2 else 4
  let order := match d.fuse.order with | .gf4_1024s => 0 | .gf4_768s => 1 | .gf4_1024x => 2 | .gf2_512s => 3
  leBytes 2 fam ++ leBytes 1 order ++ leBytes 1 d.ndies ++ leBytes 2 (d.get F.KRG_PKG_PKG die) ++ leBytes 1 (if b0 then 0xB0 else 0xA1) ++
    leBytes 1 (if b0 then 3 else 0) ++ leBytes 1 (ofBits ((List.range 4).map d.carrierUp)) ++ leBytes 1 die ++ zeros 2 ++
    leBytes 4 (d.epoch die) ++
    d.perDie 16 fun j => leBytes 1 (d.get F.WRD_ID_REV j) ++ ((List.range 3).flatMap fun n => leBytes 1 (d.get F.CMP_ID_REV j n)) ++
      leBytes 4 (d.ward j).fwver ++ slice (Config.serial j) 0 8

/-- IDENTIFY; a request whose opcode is no command's is taken up here and refused by its form. -/
def cmdIdentify : HCmd := ⟨0x01, fun _ => 0, noDies, fun d die _ _ _ => d.hOk (d.identity die)⟩

/-- A Ward operation that firmware starts and awaits: the output buffer, none on ERR. -/
def Dev.wardCall (d : Dev) (die op : Nat) (inp : Bytes) (n : Nat) : Option Bytes × Dev :=
  let d1 := ((d.putData .WRD_OIN die 0 inp).put F.WRD_OPCTL_ERR 0 die).put F.WRD_OPCTL_OP op die
  let d2 := (d1.wardGo die op).wardOpDone die
  (if d2.on? F.WRD_OPCTL_ERR die then none else some (d2.dataOf .WRD_OOUT die 0 n), d2)

/-- Some Ward among `ds` runs an operation. -/
def Dev.wardsBusy (d : Dev) (ds : List Nat) : Bool := ds.any fun j => d.on? F.WRD_OPCTL_BUSY j

/-- ATTEST. -/
def cmdAttest : HCmd :=
  ⟨0x02, fun _ => 33, fun _ q => bitsSet (q.b 32) 4, fun d _ q _ _ =>
    let ds := bitsSet (q.b 32) 4
    if 16 ≤ q.b 32 ∨ (ds.any fun j => d.ndies ≤ j) = true then d.hArg 32
    else if d.wardsBusy ds then d.hMore sOk 0 0
    else
      let (out, d1) := ds.foldl (fun (s : Bytes × Dev) j =>
        let (r, d') := s.2.wardCall j 1 (q.body.take 32) 312
        (s.1 ++ r.getD (zeros 312), d')) ([], d)
      d1.hOk (leBytes 1 ds.length ++ zeros 1 ++ leBytes 2 312 ++ out)⟩

/-! Sessions (R376) -/

/-- The next session number: not 0, not in use. -/
def Stew.nextSid (x : Stew) : Nat :=
  ((List.range 17).map fun k => (x.sid + k) % 2 ^ 32).find? (fun n => n != 0 && !x.sess.any fun s => s.sid == n) |>.getD 0

/-- SESSION_OPEN, step 1. -/
def Dev.sessStep1 (d : Dev) (die : Nat) (q : HReq) : HOut :=
  if q.sid ≠ 0 then d.hArg 0
  else if q.b 2 = 0 ∨ 32 < q.b 2 then d.hArg 2
  else if q.b 3 ≠ 0 then d.hArg 3
  else if 16 ≤ (d.stew die).sess.length then d.hDone sBusy 2 []
  else if d.wardsBusy [die] then d.hMore sOk 0 0
  else
    match d.wardCall die 2 (slice q.body 1 2 ++ zeros 2 ++ slice q.body 4 96) 160 with
    | (none, d1) => d1.hDone sAuth 7 []
    | (some out, d1) =>
      let sid := (d1.stew die).nextSid
      let s : Sess := ⟨sid, slice out 96 32, some (slice out 128 32), d1.tick die, 0⟩
      (d1.modStew die fun x => { x with sess := x.sess ++ [s], sid := (sid + 1) % 2 ^ 32 }).hOk (leBytes 4 sid ++ slice out 0 96)

/-- SESSION_OPEN, step 2: a wrong SA discards the session; the reply to the right one is under the new key. -/
def Dev.sessStep2 (d : Dev) (die : Nat) (q : HReq) : HOut :=
  match q.reserved [(1, 3)] with
  | some off => d.hArg off
  | none =>
    let sid := q.f 4 4
    match (d.stew die).sess.find? fun s => s.sid == sid && s.sax.isSome with
    | none => d.hDone sAuth 1 []
    | some s =>
      if s.sax = some (slice q.body 8 32) then
        let d1 := d.modStew die fun x => { x with sess := x.sess.map fun t => if t.sid = sid then { t with sax := none } else t }
        ⟨d1, sOk, 0, [], none, some sid, none⟩
      else (d.modStew die fun x => { x with sess := x.sess.filter fun t => t.sid != sid }).hDone sAuth 6 []

/-- The two steps of SESSION_OPEN; a step that is neither is refused by the first command. -/
def cmdSession1 : HCmd :=
  ⟨0x03, fun b => if field b 0 1 = 1 then 100 else b.length, noDies, fun d die q _ _ => if q.b 0 = 1 then d.sessStep1 die q else d.hArg 0⟩
def cmdSession2 : HCmd := ⟨0x03, fun _ => 40, noDies, fun d die q _ _ => d.sessStep2 die q⟩

/-- A command of SESSION_OPEN taken up when the request is for its step. -/
def Dev.sessRun (d : Dev) (die slot : Nat) (second : Bool) : Dev :=
  match d.helWaiting die slot with
  | none => d
  | some m =>
    if (field m 0 2 == 0x03 && field m 32 1 == 2) = second then d.helRun die slot false (if second then cmdSession2 else cmdSession1) else d

/-- A session whose second step has not come within 2 s. -/
def Dev.sessTimeout (d : Dev) (die n : Nat) : Dev :=
  match (d.stew die).sess[n]? with
  | some s => if s.sax.isSome && d.late die s.at_ 2000000 then d.modStew die fun x => { x with sess := x.sess.eraseIdx n } else d
  | none => d

/-- SESSION_CLOSE: the key is erased after the reply. -/
def cmdClose : HCmd := ⟨0x04, fun _ => 0, noDies, fun d _ q _ _ => ⟨d, sOk, 0, [], none, none, some q.sid⟩⟩

/-! Power (R408, R409) -/

/-- State of the package: the shallowest of its dies. -/
def Dev.pkgState (d : Dev) : Nat := ((List.range d.ndies).map d.pwCur).foldl min 4

/-- Dies on which a partition has a cell; partitions with a cell on one of some dies. -/
def Part.cellDies (x : Part) : List Nat := (List.range 4).filter fun j => bitsOf x.cells (12 * j + 11) (12 * j) != 0
def Dev.partsOn (d : Dev) (ds : List Nat) : List Nat := (d.parts.filter fun (x : Nat × Part) => x.2.cellDies.any ds.contains).map (·.1)

/-- The dies that a POWER_SET moves. -/
def Dev.powerDies (d : Dev) (q : HReq) : List Nat :=
  match q.b 0 with
  | 0 => (List.range d.ndies).filter d.carrierUp
  | 1 => [q.b 1]
  | _ => []

/-- Dies that hold something of a partition. -/
def Dev.partDies (d : Dev) (p : Nat) : List Nat :=
  match d.parts.at? p with
  | some x => d.liveDies.filter fun j => d.partOn p x j
  | none => []

/-- The steward of `die` writes ABORT to a partition's engines and dispatch units and broadcasts it to its cells (R179). -/
def Dev.partAbort (d : Dev) (die p : Nat) : Dev :=
  match d.parts.at? p with
  | none => d
  | some x =>
    let d1 := d.liveDies.foldl (fun d' j =>
      let d2 := (bitsSet (x.ten.getD j 0) 64).foldl (fun d3 e => d3.engAbort j e) d'
      if hasBit x.dsp j then d2.dspAbort j else d2) d
    d1.bcastTo die x.cells 2

/-- Every engine and dispatch unit of a partition has left DRAIN. -/
def Dev.partDrained (d : Dev) (p : Nat) : Bool :=
  match d.parts.at? p with
  | none => true
  | some x => d.liveDies.all fun j =>
      ((bitsSet (x.ten.getD j 0) 64).all fun e => d.tenSt j e != tenDrain) && !(hasBit x.dsp j && d.dspSt j == dspDrain)

/-- A partition's cells parked, or unparked. -/
def Dev.partPark (d : Dev) (p : Nat) (park : Bool) : Dev :=
  match d.parts.at? p with
  | none => d
  | some x =>
    let d1 := (bitsSet x.cells d.ncells).foldl (fun d' cn =>
      if !d'.computeUp (cellDie cn) then d' else if park then d'.cellPark cn else d'.cellUnpark cn) d
    { d1 with parts := d1.parts.put p { x with parked := park } }

/-- A drain of a partition's identity is outstanding on some die. -/
def Dev.rekeying (d : Dev) (p : Nat) : Bool := d.drains.any fun (x : (Nat × Nat) × Drain) => x.1.2 == p

/-- A condition of R408, R416 or R454's own that a POWER_SET breaks: the offset of its field. -/
def Dev.powerBad (d : Dev) (die : Nat) (q : HReq) : Option Nat :=
  let t := q.b 2
  match q.b 0 with
  | 0 => if 3 ≤ d.pkgState then some 1 else none
  | 1 =>
    let x := q.b 1
    let cur := d.pwCur x
    let others := (List.range d.ndies).any fun j => j != x && decide (d.pwCur j ≤ 1)
    let routed := (d.knucklesOf x).any fun k => hasBit (d.kmap die) k
    if 3 ≤ cur ∨ (cur = 0 ∧ 0 < t ∧ ((d.partsOn [x]).all fun p => match d.parts.at? p with | some y => y.parked | none => true) = false) then some 1
    else if 3 ≤ t ∧ (x = die ∨ (others && routed) = true) then some 2
    else if d.parts.any fun (p : Nat × Part) => d.partOn p.1 p.2 x && d.rekeying p.1 then some 1
    else none
  | _ =>
    match d.parts.at? (q.b 1) with
    | none => some 1
    | some y => if t = 0 ∧ (y.cellDies.all fun j => d.pwCur j == 0) = false then some 2 else none

/-- A field of a POWER_SET that is refused. -/
def Dev.powerArg (d : Dev) (q : HReq) : Option Nat :=
  let t := q.b 2
  if 2 < q.b 0 then some 0
  else if (match q.b 0 with | 0 => q.b 1 != 0 | 1 => decide (d.ndies ≤ q.b 1) | _ => decide (d.ncells ≤ q.b 1)) then some 1
  else if (match q.b 0 with | 0 => 4 | 1 => 3 | _ => 1) < t then some 2
  else if 2 ≤ q.b 3 then some 3
  else none

/-- The state before a POWER_SET. -/
def Dev.powerPrior (d : Dev) (q : HReq) : Nat :=
  match q.b 0 with
  | 0 => d.pkgState
  | 1 => d.pwCur (q.b 1)
  | _ => match d.parts.at? (q.b 1) with | some y => if y.parked then 1 else 0 | none => 0

/-- The sequencers of some dies are started. -/
def Dev.powerGo (d : Dev) (ds : List Nat) (t fast : Nat) : Dev :=
  ds.foldl (fun d' j =>
    let d1 := if t = 4 then d'.put F.PWR_STATE_FAST fast j else d'
    if d1.pwCur j = t then d1 else (d1.put F.PWR_DCTL_TARGET t j).pwGo j t) d

/-- POWER_SET: partitions that leave P0 are aborted, drained and parked; then the sequencers run. `arg` is PRIOR. The reply of a
transition to P3 or P4 is sent before it begins. `over`: the Ward finds its ceiling exceeded. -/
def Dev.powerRun (d : Dev) (die : Nat) (q : HReq) (phase arg : Nat) (ovr : Bool) : HOut :=
  let t := q.b 2
  let ds := d.powerDies q
  let parts := match q.b 0 with | 0 => if t = 0 then d.parts.map Prod.fst else d.partsOn ds | 1 => if t = 0 then [] else d.partsOn ds | _ => [q.b 1]
  let answer := fun (x : Dev) => x.hOk (leBytes 1 arg)
  let park := fun (x : Dev) (b : Bool) => parts.foldl (fun (y : Dev) p => y.partPark p b) x
  match phase with
  | 0 =>
    match d.powerArg q with
    | some off => d.hArg off
    | none =>
      match d.powerBad die q with
      | some off => d.hBad off
      | none =>
        let prior := d.powerPrior q
        if ovr && decide (t < prior) then d.hDone sWard 7 []
        else if t = prior then d.hOk (leBytes 1 prior)
        else if t = 0 then
          (if q.b 0 = 2 then (park d false).hOk (leBytes 1 prior) else (d.powerGo ds t 0).hMore sOk 2 prior)
        else if prior = 0 then (parts.foldl (fun (x : Dev) p => x.partAbort die p) d).hMore sOk 1 prior
        else if 3 ≤ t then (d.powerGo ds t (bitOf (q.b 3) 0)).hDone sAccepted 0 (leBytes 1 prior)
        else (d.powerGo ds t 0).hMore sOk 2 prior
  | 1 =>
    if !parts.all d.partDrained then d.hMore sOk 1 arg
    else if q.b 0 = 2 then answer (park d true)
    else if 3 ≤ t then ((park d true).powerGo ds t (bitOf (q.b 3) 0)).hDone sAccepted 0 (leBytes 1 arg)
    else ((park d true).powerGo ds t 0).hMore sOk 2 arg
  | _ =>
    if ds.any fun j => d.pwBusy j then d.hMore sOk 2 arg
    else answer (if q.b 0 = 0 ∧ t = 0 then park d false else d)

def cmdPower (ovr : Bool) : HCmd :=
  ⟨0x10, fun _ => 4, fun d q => if q.b 0 = 2 then d.partDies (q.b 1) else d.powerDies q, fun d die q ph arg => d.powerRun die q ph arg ovr⟩

/-- POWER_QUERY. -/
def Dev.powerQuery (d : Dev) (die : Nat) : Bytes :=
  leBytes 1 d.pkgState ++ zeros 3 ++ d.perDie 1 (fun j => leBytes 1 (d.pwCur j)) ++
    ((List.range 48).flatMap fun p => leBytes 1 (match d.parts.at? p with | some x => if x.parked then 1 else 0 | none => 0xFF)) ++
    leBytes 2 (d.get F.PWR_PDIE_PKG die) ++ zeros 2 ++ d.perDie 1 fun j => leBytes 1 (d.get F.PWR_TJ_TJMAX j)

def cmdPowerQuery : HCmd := ⟨0x11, fun _ => 0, noDies, fun d die _ _ _ => d.hOk (d.powerQuery die)⟩

end Sys2Proof.Machine
end

