-- ==== Sys2Proof/Machine/HelPart.lean ====
section
/-!
DEFINITION. The partition and translation commands of the Helham command set (R257, R259, R263, R383, R441).
-/
namespace Sys2Proof.Machine

/-! PARTITION_CREATE -/

/-- The resources that a PARTITION_CREATE names. -/
def HReq.cells (q : HReq) : Nat := q.f 8 8
def HReq.ten (q : HReq) (j : Nat) : Nat := q.f (16 + 8 * j) 8
def HReq.unf (q : HReq) (j : Nat) : Nat := q.f (48 + 4 * j) 4
def HReq.trange (q : HReq) (j : Nat) : Nat := q.f (68 + 4 * j) 4
def HReq.sbf (q : HReq) (j : Nat) : Nat := q.f (84 + 4 * j) 4
def HReq.hbmr (q : HReq) (j : Nat) : Nat := q.f (100 + 4 * j) 4

/-- MiBs of a body's SBF field: first and number. -/
def sbfMibs (w : Nat) : List Nat := (List.range (bitsOf w 17 9)).map fun m => w % 2 ^ 9 + m

/-- The first offset in a list that a test picks out. -/
def firstBad (xs : List (Nat × Bool)) : Option Nat := (xs.find? fun x => x.2).map (·.1)

/-- The first field of a PARTITION_CREATE that is refused (R3, R14, R383). -/
def Dev.createArg (d : Dev) (q : HReq) : Option Nat :=
  let each := fun (base stride : Nat) (bad : Nat → Bool) => (List.range 4).map fun j => (base + stride * j, bad j)
  let absent := fun (j w : Nat) => decide (d.ndies ≤ j) && w != 0
  firstBad ([(0, decide (d.ncells ≤ q.b 0)), (1, (slice q.body 1 7).any (· != 0)), (8, decide (2 ^ d.ncells ≤ q.cells))] ++
    each 16 8 (fun j => absent j (q.ten j)) ++
    each 48 4 (fun j => absent j (q.unf j) || decide (2 ^ 24 ≤ q.unf j)) ++
    [(64, decide (2 ^ d.ndies ≤ q.b 64)), (65, (slice q.body 65 3).any (· != 0))] ++
    each 68 4 (fun j => absent j (q.trange j) || decide (2 ^ 22 ≤ q.trange j) || decide (1024 < bitsOf (q.trange j) 9 0 + bitsOf (q.trange j) 20 10)) ++
    each 84 4 (fun j => absent j (q.sbf j) || decide (2 ^ 19 ≤ q.sbf j) || decide (384 < q.sbf j % 2 ^ 9 + bitsOf (q.sbf j) 17 9)) ++
    each 100 4 (fun j => absent j (q.hbmr j) || decide (2 ^ 25 ≤ q.hbmr j) || (q.hbmr j != 0 && decide (bitsOf (q.hbmr j) 23 12 < 2))) ++
    [(116, decide (0x200000 < q.f 116 4))])

/-- A cell has 128 physical cores that may carry a logical number (R428). -/
def Dev.cellUsable (d : Dev) (cn : Nat) : Bool := decide (128 ≤ (pcores.filter fun p => !d.failedP cn p && !d.deadbolt cn p).length)

/-- The first resource of a PARTITION_CREATE in the wrong state: of another partition, or on a die that has no power for it. -/
def Dev.createBad (d : Dev) (q : HReq) : Option Nat :=
  let each := fun (base stride : Nat) (bad : Nat → Bool) => (List.range 4).map fun j => (base + stride * j, bad j)
  let off := fun (j : Nat) => !d.carrierUp j || !d.computeUp j
  firstBad ([(0, (d.parts.at? (q.b 0)).isSome),
      (8, (bitsSet q.cells 48).any fun cn => d.pwCur (cellDie cn) != 0 || off (cellDie cn) || d.partOf cn != noPart || !d.cellUsable cn)] ++
    each 16 8 (fun j => q.ten j != 0 && (off j || (bitsSet (q.ten j) 64).any fun e => d.on? F.TEN_CTL_ASSIGN j e)) ++
    each 48 4 (fun j => q.unf j != 0 && (off j || (bitsSet (q.unf j) 24).any fun u => d.on? F.UNF_CTL_ASSIGN j u)) ++
    [(64, (bitsSet (q.b 64) 4).any fun j => off j || d.on? F.DSP_CTL_ASSIGN j)] ++
    each 68 4 (fun j =>
      let b := bitsOf (q.trange j) 9 0
      let n := bitsOf (q.trange j) 20 10
      n != 0 && (!d.carrierUp j || (List.range 48).any fun p =>
        p != q.b 0 && (let r := d.rangeAt j j p; decide (b < r.base + r.num) && decide (r.base < b + n)))) ++
    each 84 4 (fun j => !(sbfMibs (q.sbf j)).isEmpty && (!d.carrierUp j || (sbfMibs (q.sbf j)).any fun m => d.on? F.SBF_OWNER_OWNED j 0 m)) ++
    each 100 4 (fun j => q.hbmr j != 0 && !d.carrierUp j))

/-- The stacks and groups of a die. -/
def dieGroups : List (Nat × Nat) := (List.range 4).flatMap fun s => (List.range 4).map fun g => (s, g)

/-- The first die on which a rate sum is refused (R208). -/
def Dev.createRate (d : Dev) (q : HReq) : Option Nat :=
  (List.range d.ndies).find? fun j =>
    q.hbmr j != 0 && dieGroups.any fun x => decide (d.get F.HBM_RGCAP_GCAP j x.1 < d.rateSum j x.1 x.2 (q.b 0) + q.hbmr j % 2 ^ 12)

/-- A bucket of a partition set in every group of a die. -/
def Dev.partBucket (d : Dev) (j p w : Nat) : Dev := dieGroups.foldl (fun d' x => d'.rrateSet j x.1 (x.2 * 64 + p) w) d

/-- MiBs of a die given an owner byte. -/
def Dev.ownMibs (d : Dev) (j : Nat) (ms : List Nat) (w : Nat) : Dev := ms.foldl (fun d' m => d'.setRaw ⟨.SBF_OWNER, j, 0, m⟩ w) d

/-- The cores of a new partition's cell that were DONE are IDLE. -/
def Dev.cellIdle (d : Dev) (cn : Nat) : Dev :=
  d.eachCore cn fun d' p =>
    let c := d'.coreAt (coreKey cn p)
    if c.st = .done then d'.setCore (coreKey cn p) { c with st := .idle } else d'

/-- The resources of a partition assigned. -/
def Dev.createPart (d : Dev) (q : HReq) : Dev :=
  let p := q.b 0
  let cells := bitsSet q.cells 48
  let x : Part := ⟨q.cells, (List.range 4).map q.ten, (List.range 4).map q.unf, q.b 64, false, false, false, q.body⟩
  let live := d.liveDies
  let d1 := { d with parts := d.parts.put p x, cellPart := cells.foldl (fun m cn => m.put cn p) d.cellPart }
  let d2 := live.foldl (fun d' j => d'.partAssign j p x true) d1
  let d3 := live.foldl (fun d' j => (List.range d.ndies).foldl (fun d4 h => d4.rangeWrite j (h * 64 + p) (q.trange h)) d') d2
  let d4 := live.foldl (fun d' j => d'.ownMibs j (sbfMibs (q.sbf j)) (p + 2 ^ 6 * bitOf (q.sbf j) 18 + 2 ^ 7)) d3
  let d5 := live.foldl (fun d' j =>
    let w := q.hbmr j
    if w = 0 then d' else d'.partBucket j p (w % 2 ^ 12 + 2 ^ 16 * bitsOf w 23 12 + 2 ^ 30 * bitOf w 24 + 2 ^ 31)) d4
  let d6 := live.foldl (fun d' j => if q.ten j = 0 then d' else d'.put F.KRG_QUOTA_MAX (q.f 116 4) j 0 p) d5
  cells.foldl (fun d' cn => (d'.cellIdle cn).cellUnpark cn) d6

def cmdCreate : HCmd :=
  ⟨0x20, fun _ => 120, fun d _ => d.liveDies, fun d _ q _ _ =>
    match d.createArg q with
    | some off => d.hArg off
    | none =>
      match d.createBad q with
      | some off => d.hBad off
      | none =>
        match d.createRate q with
        | some j => d.hArg (100 + 4 * j)
        | none => (d.createPart q).hOk []⟩

/-! PARTITION_DESTROY -/

/-- A partition named by byte 0 that may be reset or destroyed: it exists, and no drain of its identity is outstanding. -/
def Dev.partNamed (d : Dev) (q : HReq) (k : Part → HOut) : HOut :=
  if d.ncells ≤ q.b 0 then d.hArg 0
  else
    match d.parts.at? (q.b 0) with
    | none => d.hBad 0
    | some x => if d.rekeying (q.b 0) then d.hBad 0 else k x

/-- Dies of the mirror set (R255) of an identity, whether or not they are up. -/
def Dev.mirror (d : Dev) (p : Nat) : List Nat :=
  if 48 ≤ p then (if p - 48 < d.ndies then [p - 48] else [])
  else match d.parts.at? p with | some x => (List.range d.ndies).filter fun j => x.ten.getD j 0 != 0 | none => []
def Dev.mirrorLive (d : Dev) (p : Nat) : List Nat := (d.mirror p).filter d.carrierUp

/-- Every bucket of a partition is closed on a die (step 3). -/
def Dev.closeBuckets (d : Dev) (p j : Nat) : Dev :=
  dieGroups.foldl (fun d' g => d'.rrateSet j g.1 (g.2 * 64 + p) (setBits (d'.raw ⟨.HBM_RRATE, j, g.1, g.2 * 64 + p⟩) 31 31 0)) d

/-- A partition's MiB of a die's shared buffer are unowned (step 4). -/
def Dev.freeMibs (d : Dev) (p j : Nat) : Dev :=
  d.ownMibs j ((List.range 384).filter fun m => d.on? F.SBF_OWNER_OWNED j 0 m && d.get F.SBF_OWNER_PART j 0 m == p) 0

/-- A partition's tumbler ranges are empty on a die (step 5). -/
def Dev.closeRanges (d : Dev) (p j : Nat) : Dev := (List.range d.ndies).foldl (fun d' h => d'.rangeWrite j (h * 64 + p) 0) d

/-- Steps 2 to 6 of a destruction, on the dies that are up. -/
def Dev.destroyPart (d : Dev) (p : Nat) (x : Part) : Dev :=
  let live := d.liveDies
  let d2 := live.foldl (fun d' j => d'.partAssign j p x false) (d.partPark p true)
  let d3 := live.foldl (fun d' j => d'.closeBuckets p j) d2
  let d4 := live.foldl (fun d' j => d'.freeMibs p j) d3
  let d5 := live.foldl (fun d' j => d'.closeRanges p j) d4
  (d.mirrorLive p).foldl (fun d' j => d'.rkctlSet j p 3) d5

/-- The last step: quota 0, and the partition is no more. -/
def Dev.forgetPart (d : Dev) (die p : Nat) : Dev :=
  let d1 := (d.mirrorLive p).foldl (fun d' j => d'.put F.KRG_QUOTA_MAX 0 j 0 p) d
  { d1 with parts := d1.parts.del p, cellPart := d1.cellPart.filter fun (c : Nat × Nat) => c.2 != p }.modStew die fun x =>
    { x with watch := x.watch.filter fun w => w.part != p }

def cmdDestroy : HCmd :=
  ⟨0x21, fun _ => 1, fun d _ => d.liveDies, fun d die q ph arg =>
    let p := q.b 0
    match ph with
    | 0 => d.partNamed q fun _ => (d.partAbort die p).hMore sOk 1 0
    | 1 =>
      if !d.partDrained p then d.hMore sOk 1 arg
      else match d.parts.at? p with | some x => (d.destroyPart p x).hMore sOk 2 arg | none => d.hOk []
    | _ => if d.rekeying p then d.hMore sOk 2 arg else (d.forgetPart die p).hOk []⟩

/-! PARTITION_RESET (R441) -/

/-- A change of the record of a partition. -/
def Dev.modPart (d : Dev) (p : Nat) (f : Part → Part) : Dev :=
  match d.parts.at? p with | some x => { d with parts := d.parts.put p (f x) } | none => d

/-- The cells of a partition. -/
def Dev.partCells (d : Dev) (p : Nat) : List Nat := match d.parts.at? p with | some x => bitsSet x.cells d.ncells | none => []

/-- Steps 2 and 3: CRST of the cells, compute-domain registers of the units at reset. -/
def Dev.resetPart (d : Dev) (p : Nat) (x : Part) : Dev :=
  let d1 := (bitsSet x.cells d.ncells).foldl (fun d' cn => d'.cellReset cn) (d.modPart p fun y => { y with reset := true })
  d1.liveDies.foldl (fun d' j =>
    let d2 := (bitsSet (x.ten.getD j 0) 64).foldl (fun d3 e => d3.engReset j e) d'
    let d4 := (bitsSet (x.unf.getD j 0) 24).foldl (fun d3 u => d3.unfReset j u) d2
    if hasBit x.dsp j then d4.dspReset j else d4) d1

/-- A partition may not be reset: a die of it is lost, or has no compute domain. -/
def Dev.resetBad (d : Dev) (x : Part) : Bool :=
  x.fault || (List.range 4).any fun j =>
    (x.cellDies.contains j || x.ten.getD j 0 != 0 || x.unf.getD j 0 != 0 || hasBit x.dsp j) && !d.computeUp j

def cmdReset : HCmd :=
  ⟨0x22, fun _ => 1, fun d q => d.partDies (q.b 0), fun d die q ph arg =>
    let p := q.b 0
    let cells := d.partCells p
    match ph with
    | 0 => d.partNamed q fun x => if d.resetBad x then d.hBad 0 else (d.partAbort die p).hMore sOk 1 (if x.parked then 1 else 0)
    | 1 =>
      if !d.partDrained p then d.hMore sOk 1 arg
      else match d.parts.at? p with | some x => (d.resetPart p x).hMore sOk 2 arg | none => d.hOk []
    | 2 =>
      if cells.any d.inReset then d.hMore sOk 2 arg
      else (cells.foldl (fun d' cn => (d'.cellUnpark cn).loaderEnter cn) d).hMore sOk 3 arg
    | _ =>
      if cells.any fun cn => (List.range 128).any fun l => (d.coreAt (coreKey cn (d.mapOf cn l))).st == .loader then d.hMore sOk 3 arg
      else
        let d1 := d.modPart p fun y => { y with reset := false }
        (if arg = 1 then d1.partPark p true else d1).hOk []⟩

/-! PARTITION_QUERY -/

/-- A partition runs: a core, an engine or a dispatch unit is at work, waits, or stands trapped or halted in its plan. -/
def Dev.partRuns (d : Dev) (x : Part) : Bool :=
  ((bitsSet x.cells d.ncells).any fun cn => pcores.any fun p =>
    match (d.coreAt (coreKey cn p)).st with | .run => true | .wait => true | .trap => true | _ => false) ||
  d.liveDies.any fun j =>
    ((bitsSet (x.ten.getD j 0) 64).any fun e => let s := d.tenSt j e; s == tenRun || s == tenWait || 5 ≤ s) ||
    (hasBit x.dsp j && (let s := d.dspSt j; s == dspRun || s == dspWait || 5 ≤ s))

def cmdPartQuery : HCmd :=
  ⟨0x23, fun _ => 1, fun d q => d.partDies (q.b 0), fun d _ q _ _ =>
    if d.ncells ≤ q.b 0 then d.hArg 0
    else
      match d.parts.at? (q.b 0) with
      | none => d.hOk (leBytes 2 0xFF00 ++ zeros 26)
      | some x =>
        let st := if x.fault then 4 else if x.reset then 3 else if d.partRuns x then 2 else 1
        d.hOk (leBytes 1 st ++ leBytes 1 (if x.parked then 1 else 0) ++ zeros 2 ++
          d.perDie 4 (fun j => leBytes 4 (d.get F.KRG_PGEN_GEN j 0 (q.b 0))) ++ leBytes 8 x.cells)⟩

/-! MAP_SYNC (R257) -/

/-- Operation `k` of a MAP_SYNC: its command and entry. -/
def HReq.mapOp (q : HReq) (k : Nat) : Nat × KEnt := (q.b (8 + 24 * k), ⟨q.f (16 + 24 * k) 8, q.f (24 + 24 * k) 8⟩)

/-- The first field of a MAP_SYNC that is refused. -/
def Dev.mapArg (d : Dev) (q : HReq) : Option Nat :=
  let n := q.f 2 2
  if 51 < q.b 0 ∨ (48 ≤ q.b 0 ∧ d.ndies ≤ q.b 0 - 48) ∨ (q.b 0 < 48 ∧ d.ncells ≤ q.b 0) then some 0
  else
    (q.reserved [(1, 1)]).orElse fun _ =>
    if n = 0 ∨ 167 < n then some 2
    else
      (q.reserved [(4, 4)]).orElse fun _ =>
      (List.range n).findSome? fun k =>
        let o := 8 + 24 * k
        if !(q.b o == 1 || q.b o == 2 || q.b o == 4) then some o
        else if (slice q.body (o + 1) 7).any (· != 0) then some (o + 1)
        else if (q.mapOp k).2.ident != q.b 0 then some (o + 8)
        else none

/-- A batch as far as it has gone: the failure (operation, result, die), and the package. -/
structure MapRun where
  bad : Option (Nat × Nat × Nat)
  d : Dev

/-- The operations on every die of the mirror set, to the first that fails. -/
def mapApply (q : HReq) (ds : List Nat) (d : Dev) : MapRun :=
  ((List.range (q.f 2 2)).flatMap fun k => ds.map fun j => (k, j)).foldl (fun (r : MapRun) (x : Nat × Nat) =>
    match r.bad with
    | some _ => r
    | none =>
      let (cmd, e) := q.mapOp x.1
      match r.d.krgExec x.2 cmd e with
      | (0, _, d') => ⟨none, d'⟩
      | (res, _, d') => ⟨some (x.1, res, x.2), d'⟩) ⟨none, d⟩

/-- The INSERTs done before operation `k` on die `j` failed are reversed; those found USED, by operation. -/
def mapReverse (q : HReq) (ds : List Nat) (k j : Nat) (d : Dev) : List Nat × Dev :=
  let done := ((List.range (k + 1)).filter fun o => (q.mapOp o).1 == 1).flatMap fun o =>
    (if o = k then ds.takeWhile (· != j) else ds).map fun x => (o, x)
  done.foldl (fun (s : List Nat × Dev) (x : Nat × Nat) =>
    match s.2.krgExec x.2 4 (q.mapOp x.1).2 with
    | (6, _, d') => (if s.1.contains x.1 then s.1 else s.1 ++ [x.1], d')
    | (_, _, d') => (s.1, d')) ([], d)

def Dev.mapSync (d : Dev) (q : HReq) : HOut :=
  let p := q.b 0
  let ds := d.mirrorLive p
  let gen := fun (x : Dev) => leBytes 4 (match ds with | j :: _ => x.get F.KRG_PGEN_GEN j 0 p | [] => 0)
  match d.mapArg q with
  | some off => d.hArg off
  | none =>
    if p < 48 ∧ (d.parts.at? p).isNone = true then d.hBad 0
    else
      let r := mapApply q ds d
      match r.bad with
      | none =>
        let d1 := ds.foldl (fun d' j => d'.count F.KRG_PGEN_GEN 1 j 0 p) r.d
        d1.hOk (leBytes 2 0xFFFF ++ zeros 2 ++ gen d1 ++ zeros 2 ++ leBytes 2 0xFFFF)
      | some (k, res, j) =>
        let (used, d1) := mapReverse q ds k j r.d
        d1.hDone sFailed 0 (leBytes 2 k ++ leBytes 1 res ++ leBytes 1 j ++ gen d1 ++ leBytes 2 used.length ++ leBytes 2 (used.headD 0xFFFF))

def cmdMapSync : HCmd :=
  ⟨0x30, fun b => let n := field b 2 2; if n = 0 ∨ 167 < n then b.length else 8 + 24 * n, fun d q => d.mirrorLive (q.b 0), fun d _ q _ _ => d.mapSync q⟩

/-! REKEY (R263) -/

/-- The first field of a REKEY that is refused. -/
def Dev.rekeyArg (d : Dev) (q : HReq) : Option Nat :=
  firstBad [(0, 51 < q.b 0 || (48 ≤ q.b 0 && d.ndies ≤ q.b 0 - 48) || (q.b 0 < 48 && d.ncells ≤ q.b 0)), (1, 2 ≤ q.b 1),
    (2, (slice q.body 2 6).any (· != 0)), (8, q.f 8 8 % 2 ^ 12 != 0 || 2 ^ 57 ≤ q.f 8 8), (16, q.f 16 4 == 0 && q.b 1 == 0)]

/-- Dies of a mask. -/
def maskOf (js : List Nat) : Nat := js.foldl orBit 0

def Dev.rekeyRun (d : Dev) (q : HReq) (phase arg : Nat) : HOut :=
  let p := q.b 0
  match phase with
  | 0 =>
    match d.rekeyArg q with
    | some off => d.hArg off
    | none =>
      if p < 48 ∧ (d.parts.at? p).isNone = true then d.hBad 0
      else if d.rekeying p then d.hMore sOk 0 0
      else
        let ds := d.mirrorLive p
        let d1 := ds.foldl (fun d' j =>
          ((d'.put64 F.KRG_RKBASE_LO_DVA F.KRG_RKBASE_HI_DVA (q.f 8 8) j 0 p).put F.KRG_RKLEN_PAGES (q.f 16 4) j 0 p).rkctlSet j p (1 + 2 * q.b 1)) d
        d1.hMore sOk 1 (maskOf (d.mirror p))
  | _ =>
    if d.rekeying p then d.hMore sOk 1 arg
    else
      let there := bitsSet arg 4
      let live := there.filter d.carrierUp
      let halt := fun (j : Nat) => d.get64 F.KRG_RKHALT_LO_MASK F.KRG_RKHALT_HI_MASK j 0 p
      let of := fun (n : Nat) (f : Nat → Nat) => (List.range 4).flatMap fun j => leBytes n (if live.contains j then f j else 0)
      let lost := maskOf (there.filter fun j => !d.carrierUp j)
      d.hDone sOk (maskOf live + 2 ^ 4 * lost + 2 ^ 8 * maskOf (live.filter fun j => halt j != 0))
        (leBytes 1 (maskOf live) ++ leBytes 1 lost ++ zeros 6 ++ of 8 halt ++ of 4 fun j => d.get F.KRG_RKTIME_TICKS j 0 p)

def cmdRekey : HCmd := ⟨0x31, fun _ => 20, fun d q => d.mirrorLive (q.b 0), fun d _ q ph arg => d.rekeyRun q ph arg⟩

/-! FAULT_RESUME (R259) -/

def cmdResume : HCmd :=
  ⟨0x32, fun _ => 16, fun _ q => [q.b 0], fun d _ q _ _ =>
    let j := q.b 0
    if d.ndies ≤ j then d.hArg 0
    else
      match q.reserved [(1, 7)] with
      | some off => d.hArg off
      | none =>
        if !d.computeUp j then d.hBad 0
        else
          let es := (bitsSet (q.f 8 8) 64).filter fun e => d.tenSt j e == tenHaltR
          let m := maskOf es
          (es.foldl (fun d' e => d'.engResumeAll j e) d).hOk (leBytes 8 m ++ leBytes 8 (q.f 8 8 - m))⟩

end Sys2Proof.Machine
end

