-- ==== Sys2Proof/Machine/HelPlan.lean ====
section
/-!
DEFINITION. The plan, fault and event-subscription commands of the Helham command set (R384, R387, R446, R449).
-/
namespace Sys2Proof.Machine

/-! PLAN_LOAD -/

/-- A section of a PLAN_LOAD. -/
structure PSec where
  kind : Nat
  die : Nat
  len : Nat
  src : Nat
  a1 : Nat
  a2 : Nat
  crc : Nat
deriving DecidableEq, Repr

def HReq.sec (q : HReq) (k : Nat) : PSec :=
  let o := 8 + 32 * k
  ⟨q.b o, q.b (o + 1), q.f (o + 4) 4, q.f (o + 8) 8, q.f (o + 16) 8, q.f (o + 24) 4, q.f (o + 28) 4⟩

/-- Logical cores of a scratchpad section. -/
def PSec.cores (s : PSec) : List Nat := (List.range (bitsOf s.a1 28 16)).map fun j => s.a1 % 2 ^ 13 + j

/-- What is refused in section `k`: BAD_ARG or BAD_STATE at an offset. -/
def Dev.secBad (d : Dev) (p : Nat) (x : Part) (k : Nat) (s : PSec) : Option (Nat × Nat) :=
  let o := 8 + 32 * k
  let mine := fun (m : Nat) => d.on? F.SBF_OWNER_OWNED s.die 0 m && d.get F.SBF_OWNER_PART s.die 0 m == p
  if 4 < s.kind then some (sArg, o)
  else if (s.kind = 1 ∨ 3 ≤ s.kind) ∧ d.ndies ≤ s.die then some (sArg, o + 1)
  else
    match s.kind with
    | 0 =>
      if spEnd < s.a2 + s.len then some (sArg, o + 24)
      else if (s.cores.any fun l => !hasBit x.cells (lcoreCell l) || decide (2 ^ 13 ≤ l)) = true then some (sState, o + 16) else none
    | 1 =>
      if 384 * 2 ^ 20 < s.a2 + s.len then some (sArg, o + 24)
      else if s.len ≠ 0 ∧ ((List.range ((s.a2 + s.len - 1) / 2 ^ 20 + 1 - s.a2 / 2 ^ 20)).all fun j => mine (s.a2 / 2 ^ 20 + j)) = false then
        some (sState, o + 24)
      else none
    | 2 =>
      if 0xA00 < bitsOf s.a2 24 12 then some (sArg, o + 24)
      else if ((bitsSet s.a1 48).all fun cn => hasBit x.cells cn) = false then some (sState, o + 16) else none
    | 3 => if ((bitsSet s.a1 64).all fun e => hasBit (x.ten.getD s.die 0) e) = false then some (sState, o + 16) else none
    | _ => if hasBit x.dsp s.die then none else some (sState, o + 1)

/-- A partition's cores are IDLE or DONE, its engines and dispatch units too. -/
def Dev.partAtRest (d : Dev) (x : Part) : Bool :=
  ((bitsSet x.cells d.ncells).all fun cn => (List.range 128).all fun l =>
    match (d.coreAt (coreKey cn (d.mapOf cn l))).st with | .idle => true | .done => true | _ => false) &&
  d.liveDies.all fun j =>
    ((bitsSet (x.ten.getD j 0) 64).all fun e => d.tenSt j e == tenIdle || d.tenSt j e == tenDone) &&
    (!hasBit x.dsp j || d.dspSt j == dspIdle || d.dspSt j == dspDone)

/-- What a PLAN_LOAD is refused for. -/
def Dev.loadBad (d : Dev) (q : HReq) : Option (Nat × Nat) :=
  let n := q.b 1
  if d.ncells ≤ q.b 0 then some (sArg, 0)
  else if n = 0 ∨ 125 < n then some (sArg, 1)
  else
    match q.reserved ((2, 6) :: (List.range n).map fun k => (10 + 32 * k, 2)) with
    | some off => some (sArg, off)
    | none =>
      match d.parts.at? (q.b 0) with
      | none => some (sState, 0)
      | some x => if !d.partAtRest x then some (sState, 0) else (List.range n).findSome? fun k => d.secBad (q.b 0) x k (q.sec k)

/-- Source bytes that an engine reads from a GPA of the package; none where the read faults. -/
def Dev.srcRead (d : Dev) (g n : Nat) : Option Bytes × Dev :=
  let die := gpaDie g
  let off := gpaOff g
  let ok := fun (r : Rd × Dev) => (if r.1.ue.isSome then none else some (slice r.1.data 0 n), r.2)
  if n = 0 then (some [], d)
  else if !d.carrierUp die then (none, d)
  else if gpaSpace g = 0 then
    (if d.hbmBytes < off + n ∨ d.hbmReady die = false ∨ (blankOff off || blankOff (off + n - 1)) = true then (none, d) else ok (d.hbLoad die off n []))
  else if gpaSpace g = 1 then (if 384 * 2 ^ 20 < off + n then (none, d) else ok (d.sbLoad die off n))
  else (none, d)

/-- The source bytes of section `k`, core `j` of its cores; `far` are bytes of other packages, in the order of use. -/
def Dev.secSource (d : Dev) (die : Nat) (s : PSec) (j : Nat) (far : Bytes) : Option Bytes × Dev :=
  let g := s.src + j * bitsOf s.a1 63 32
  if d.ownPkg die g then d.srcRead g s.len else (some (slice far 0 s.len), d)

/-- A section performed: none when it fails. -/
def Dev.secLoad (d : Dev) (die : Nat) (s : PSec) (far : Bytes) : Option Dev :=
  match s.kind with
  | 0 =>
    match d.secSource die s 0 far with
    | (none, _) => none
    | (some first, d1) =>
      if crc32c first ≠ s.crc then none
      else
        s.cores.zipIdx.foldl (fun (o : Option Dev) (x : Nat × Nat) =>
          match o with
          | none => none
          | some d' =>
            match d'.secSource die s x.2 (far.drop (x.2 * s.len)) with
            | (none, _) => none
            | (some bs, d2) => some (d2.spStore (d2.physOf x.1) s.a2 bs)) (some d1)
  | 1 =>
    match d.secSource die s 0 far with
    | (none, _) => none
    | (some bs, d1) => if crc32c bs ≠ s.crc then none else some (d1.sbStore s.die s.a2 bs)
  | 2 =>
    some ((bitsSet s.a1 48).foldl (fun d' cn =>
      ((d'.put F.CMP_PBASE_BASE (s.a2 % 2 ^ 12) (cellDie cn) (cn % 12)).put F.CMP_PLIMIT_LIMIT (bitsOf s.a2 24 12) (cellDie cn) (cn % 12)).put
        F.CMP_WTMO_TICKS (s.len % 2 ^ 24) (cellDie cn) (cn % 12)) d)
  | 3 =>
    some ((bitsSet s.a1 64).foldl (fun d' e =>
      ((d'.put F.TEN_LBASE_BASE (s.a2 % 2 ^ 23) s.die e).put F.TEN_LLIMIT_LIMIT (s.len % 2 ^ 23) s.die e).put F.TEN_WTMO_TICKS (s.src % 2 ^ 24) s.die e) d)
  | _ =>
    some (((d.put F.DSP_LBASE_BASE (s.a2 % 2 ^ 23) s.die).put F.DSP_LLIMIT_LIMIT (s.len % 2 ^ 23) s.die).put F.DSP_WTMO_TICKS (s.src % 2 ^ 24) s.die)

/-- The sections in order, to the first that fails. -/
def Dev.secRun (d : Dev) (die : Nat) (q : HReq) (far : List Bytes) : Nat → Nat → Dev × Option Nat
  | _, 0 => (d, none)
  | k, n + 1 =>
    match d.secLoad die (q.sec k) (far.getD k []) with
    | none => (d, some k)
    | some d1 => Dev.secRun d1 die q far (k + 1) n

/-- PLAN_LOAD; `far` holds, by section, what is read from other packages. -/
def cmdLoad (far : List Bytes) : HCmd :=
  ⟨0x40, fun b => let n := field b 1 1; if n = 0 ∨ 125 < n then b.length else 8 + 32 * n, fun d q => d.partDies (q.b 0), fun d die q ph _ =>
    match ph with
    | 0 => match d.loadBad q with | some (s, off) => d.hDone s off [] | none => d.hMore sAccepted 1 0
    | _ =>
      match d.secRun die q far 0 (q.b 1) with
      | (d1, some k) => d1.hDone sFailed k []
      | (d1, none) => d1.hOk []⟩

/-! PLAN_START, PLAN_DONE, PLAN_ABORT, PLAN_STATUS -/

def Dev.planGo (d : Dev) (die : Nat) (q : HReq) : HOut :=
  let p := q.b 0
  let t := q.f 4 4
  let none32 := 0xFFFFFFFF
  if d.ncells ≤ p then d.hArg 0
  else if 8 ≤ q.b 1 then d.hArg 1
  else
    match q.reserved [(2, 2)] with
    | some off => d.hArg off
    | none =>
      if t ≠ none32 ∧ (2 ^ 18 ≤ t ∨ d.ndies ≤ bitsOf t 17 16) then d.hArg 4
      else
        match d.parts.at? p with
        | none => d.hBad 0
        | some x =>
          let d1 := if !hasBit (q.b 1) 0 then d else d.liveDies.foldl (fun d' j => (bitsSet (x.ten.getD j 0) 64).foldl (fun d2 e => d2.engStart j e) d') d
          let d2 := if !hasBit (q.b 1) 1 then d1 else d1.liveDies.foldl (fun d' j => if hasBit x.dsp j then d'.dspStart j else d') d1
          let d3 := if hasBit (q.b 1) 2 then d2.bcastTo die x.cells 1 else d2
          let w : Watch := ⟨p, bitsOf t 17 16, t % 2 ^ 16, q.f 8 4⟩
          (if t = none32 then d3 else d3.modStew die fun s => { s with watch := s.watch ++ [w] }).hOk []

def cmdStart : HCmd := ⟨0x41, fun _ => 12, fun d q => d.partDies (q.b 0), fun d die q _ _ => d.planGo die q⟩

/-- The lead finds that the tumbler of a watched plan has reached its threshold. -/
def Dev.planDone (d : Dev) (die n : Nat) : Dev :=
  match (d.stew die).watch[n]? with
  | none => d
  | some w =>
    let (r, d1) := d.leadSend die [w.home]
    let v := d1.tumbler w.home w.idx
    if !d.leads die || r.lost || r.silent != 0 || decide (v < w.thr) then (if d.leads die then d1 else d)
    else
      (d1.modStew die fun s => { s with watch := s.watch.eraseIdx n }).helEvent die 6 0 (leBytes 1 w.part ++ zeros 3 ++ leBytes 4 v)

/-- No core of a partition runs, waits or stands trapped. -/
def Dev.coresStopped (d : Dev) (p : Nat) : Bool :=
  (d.partCells p).all fun cn => pcores.all fun k => match (d.coreAt (coreKey cn k)).st with | .run => false | .wait => false | .trap => false | _ => true

def cmdAbort : HCmd :=
  ⟨0x42, fun _ => 1, fun d q => d.partDies (q.b 0), fun d die q ph arg =>
    let p := q.b 0
    if d.ncells ≤ p then d.hArg 0
    else if (d.parts.at? p).isNone then d.hBad 0
    else if ph = 0 then (d.partAbort die p).hMore sOk 1 0
    else if d.partDrained p && d.coresStopped p then d.hOk []
    else d.hMore sOk 1 arg⟩

/-- The counts of PLAN_STATUS. -/
def Dev.planStatus (d : Dev) (x : Part) : Bytes :=
  let sts := (bitsSet x.cells d.ncells).flatMap fun cn => (List.range 128).map fun l => (d.coreAt (coreKey cn (d.mapOf cn l))).st
  let cnt := fun (f : CoreSt → Bool) => leBytes 2 (sts.filter f).length
  let ens := d.liveDies.flatMap fun j => (bitsSet (x.ten.getD j 0) 64).map (d.tenSt j)
  let ecnt := fun (f : Nat → Bool) => leBytes 2 (ens.filter f).length
  cnt (fun s => s == .run || s == .wait) ++ cnt (· == .trap) ++ cnt (· == .done) ++ cnt (· == .idle) ++
    ecnt (fun s => s == tenRun || s == tenWait) ++ ecnt (fun s => s == tenHalt || s == tenHaltR) ++ ecnt (· == tenDone) ++
    leBytes 1 (ofBits ((List.range 4).map fun j => hasBit x.dsp j && d.dspSt j == dspHalt))

def cmdStatus : HCmd :=
  ⟨0x43, fun _ => 1, fun d q => d.partDies (q.b 0), fun d _ q _ _ =>
    if d.ncells ≤ q.b 0 then d.hArg 0
    else match d.parts.at? (q.b 0) with | none => d.hBad 0 | some x => d.hOk (d.planStatus x)⟩

/-! FAULT_READ -/

/-- The 32 bytes of a record of the words `ws`. -/
def recBytes (ws : List Nat) : Bytes := ws.flatMap (leBytes 4)

/-- A record that FAULT_READ builds from status: SWEPT set, SEQ 0 (R446). -/
def sweptRec (die tick : Nat) (r : Rec) : Bytes := recBytes (recWords die tick 0 { r with flags := r.flags + 2 })

/-- Records of a die's status that holds a failure (R384, R449): channels, cores, dispatch unit, unfold engines. -/
def Dev.sweep (d : Dev) (die : Nat) : List Bytes :=
  let eng := fun (e cause info : Nat) =>
    sweptRec die (d.get F.TEN_FTICK_TICK die e)
      ⟨2, cause, if d.tenSt die e = tenHaltR then 1 else 0, d.tenPart die e, e, info, d.get64 F.TEN_FADDR_LO_ADDR F.TEN_FADDR_HI_ADDR die e⟩
  let engs := (List.range 64).filterMap fun e =>
    if d.on? F.TEN_STAT_FLTV die e then some (eng e (d.get F.TEN_STAT_CAUSE die e) (d.get F.TEN_FINFO_INFO die e)) else none
  let cores := (List.range 12).flatMap fun j => pcores.filterMap fun p =>
    let cn := 12 * die + j
    let c := d.coreAt (coreKey cn p)
    if c.trapv then
      some (sweptRec die (field c.trap 20 4) ⟨1, field c.trap 0 2, 0, d.partOf cn, coreUnit (field c.trap 2 2) p cn, field c.trap 16 4, field c.trap 4 2⟩)
    else none
  let dsp := if d.on? F.DSP_STAT_FLTV die then
      [sweptRec die (d.get F.DSP_FTICK_TICK die) ⟨3, d.get F.DSP_STAT_CAUSE die, 0, d.get F.DSP_CTL_PART die, 0, d.get F.DSP_FINFO_INFO die, 0⟩] else []
  let unfs := (List.range 24).filterMap fun u =>
    if d.on? F.UNF_STAT_FLTV die u then
      (let e := d.get F.UNF_STAT_TENG die u
       some (eng e (d.get F.TEN_STAT_CAUSE die e) (d.get F.UNF_STAT_CODE die u)))
    else none
  engs ++ cores ++ dsp ++ unfs

/-- Drop counters of a die summed, saturating. -/
def Dev.dropSum (d : Dev) (die : Nat) : Nat :=
  min 0xFFFFFFFF (((List.range 11).map fun c => d.get F.FLT_DROP_COUNT die 0 (c + 1)).foldl (· + ·) 0)

/-- Records read from each die's queue, up to a number of them. -/
def splitMax : Nat → List (Nat × Nat) → List (Nat × Nat)
  | _, [] => []
  | m, (die, c) :: xs => (die, min m c) :: splitMax (m - c) xs

def Dev.faultRead (d : Dev) (q : HReq) : HOut :=
  let ds := bitsSet (q.b 0) 4
  let max := q.f 2 2
  if 16 ≤ q.b 0 ∨ (ds.any fun j => d.ndies ≤ j) = true then d.hArg 0
  else if 4 ≤ q.b 1 then d.hArg 1
  else if max = 0 ∨ 125 < max then d.hArg 2
  else
    let queued := ds.map fun j => (j, d.get F.FLT_STAT_COUNT j)
    let taken := splitMax max queued
    let recs := taken.flatMap fun x => (List.range x.2).map fun k => recBytes (d.fltRecord x.1 k)
    let swept := if hasBit (q.b 1) 0 then ds.flatMap d.sweep else []
    let out := recs ++ swept.take (max - recs.length)
    let left := decide (out.length < (queued.map (·.2)).foldl (· + ·) 0 + swept.length)
    let body := leBytes 2 out.length ++ leBytes 1 (maskOf (ds.filter fun j => d.on? F.FLT_STAT_OVF j)) ++ leBytes 1 (if left then 1 else 0) ++
      ((List.range 4).flatMap fun j => leBytes 4 (if ds.contains j then d.dropSum j else 0)) ++ zeros 12 ++ out.flatten
    let d1 := if hasBit (q.b 1) 1 then
        taken.foldl (fun d' x =>
          (List.range 11).foldl (fun d2 c => d2.put F.FLT_DROP_COUNT 0 x.1 0 (c + 1)) ((d'.fltPop x.1 x.2).put F.FLT_STAT_OVF 0 x.1)) d
      else d
    d1.hOk body

def cmdFaultRead : HCmd := ⟨0x50, fun _ => 4, fun _ q => bitsSet (q.b 0) 4, fun d _ q _ _ => d.faultRead q⟩

/-! EVENT_SUBSCRIBE -/

/-- A subscription's registers written on a die. -/
def Dev.subPut (d : Dev) (j sub slot port : Nat) (q : HReq) : Dev :=
  let d1 := (((d.put F.MBX_SUBCTL_EN 1 j 0 sub).put F.MBX_SUBCTL_V6 (q.b 5) j 0 sub).put F.MBX_SUBCTL_PORT port j 0 sub).put F.MBX_SUBCTL_SLOT slot j 0 sub
  let d2 := (((d1.put F.MBX_SUBCTL_UDP (q.f 6 2) j 0 sub).put F.MBX_SUBMAC_LO_MAC (q.f 8 4) j 0 sub).put F.MBX_SUBMAC_HI_MAC (q.f 12 2) j 0 sub).put
    F.MBX_SUBCNT_COUNT 0 j 0 sub
  (List.range 4).foldl (fun d' k => d'.put F.MBX_SUBIP_ADDR (q.f (16 + 4 * k) 4) j k sub) d2

def Dev.subscribe (d : Dev) (die : Nat) (q : HReq) : HOut :=
  let classes := q.f 0 4
  let arrival := match d.mbxIn.at? (die, q.slot) with | some m => m.port | none => 0
  let port := if q.b 4 = 0xFF then arrival else q.b 4
  let own := ((d.stew die).subs.find? fun (x : Nat × Sub) => x.2.sid == q.sid).map Prod.fst
  let free := (List.range 8).find? fun s => ((d.stew die).subs.at? s).isNone
  if hasBit classes 0 || decide (2 ^ 9 ≤ classes) then d.hArg 0
  else if q.b 4 ≠ 0xFF ∧ (8 ≤ q.b 4 ∨ d.ndies ≤ q.b 4 % 4) then d.hArg 4
  else if 2 ≤ q.b 5 then d.hArg 5
  else
    match q.reserved [(14, 2)] with
    | some off => d.hArg off
    | none =>
      if classes = 0 then
        match own with
        | none => d.hOk (leBytes 1 0xFF)
        | some s =>
          ((d.liveDies.foldl (fun d' j => d'.put F.MBX_SUBCTL_EN 0 j 0 s) d).modStew die fun x => { x with subs := x.subs.del s }).hOk (leBytes 1 s)
      else
        match own.orElse fun _ => free with
        | none => d.hDone sBusy 2 []
        | some s =>
          ((d.liveDies.foldl (fun d' j => d'.subPut j s q.slot port q) d).modStew die fun x => { x with subs := x.subs.put s ⟨q.sid, classes⟩ }).hOk
            (leBytes 1 s)

def cmdSubscribe : HCmd := ⟨0x51, fun _ => 32, fun d _ => d.liveDies, fun d die q _ _ => d.subscribe die q⟩

end Sys2Proof.Machine
end

