-- ==== Sys2Proof/Machine/Ageing.lean ====
section
/-!
DEFINITION. Ageing monitors and margin proposals (R458–R464), and the I3C telemetry target of a die (R474).
-/
namespace Sys2Proof.Machine

/-! Samples (R459) -/

/-- Baseline and last sample of a monitor, 0.1 ps. -/
def Dev.ageBase (d : Dev) (die m : Nat) : Nat := d.get F.AGE_MBASE_DELAY die 0 m
def Dev.ageVal (d : Dev) (die m : Nat) : Nat := d.get F.AGE_MVAL_DELAY die 0 m

/-- A monitor's drift in 0.01%, 0 if negative. -/
def Dev.ageDrift (d : Dev) (die m : Nat) : Nat :=
  let b := d.ageBase die m
  if b = 0 then 0 else 10000 * (d.ageVal die m - b) / b

/-- The smallest eye of a serving stack, and the smallest width of a knuckle in service, 1/64 UI. -/
def Dev.hbmMargin (d : Dev) (die s : Nat) : Nat :=
  ((List.range 64).map fun pc => min (d.get F.HBM_LMARG_WMIN die s pc) (d.get F.HBM_LMARG_RMIN die s pc)).foldl min 255
def Dev.knkMargin (d : Dev) (die i : Nat) : Nat :=
  ((bitsSet (d.raw ⟨.KNK_AMASK, die, i, 0⟩) 18).map fun m => d.get F.KNK_MARG_WMIN die i m).foldl min 255

/-- Stacks that serve, knuckles and lanes in service. -/
def Dev.stacksUp (d : Dev) (die : Nat) : List Nat := (List.range 4).filter fun s => d.get F.HBM_STAT_STATE die s == 2
def Dev.knksUp (d : Dev) (die : Nat) : List Nat := (List.range 2).filter fun i => d.knkSt die i == 4
def Dev.lanesUp (d : Dev) (die : Nat) : List Nat := (List.range 21).filter fun l => d.laneSt die l == laneUp

/-- The steward posts an AGEING record. -/
def Dev.ageRec (d : Dev) (die code unit info : Nat) : Dev := d.stwPost die ⟨0x0B, code, 0, noPart, unit, info, 0⟩

/-- The records after a sample. -/
def Dev.ageRecs (d : Dev) (die : Nat) : Dev :=
  let drifts := (List.range 64).filter fun m =>
    decide (d.get F.AGE_GUARD_DRIFTMAX die * d.ageBase die m < 1000 * (d.ageVal die m - d.ageBase die m))
  let d0 := if drifts.isEmpty then d else d.put F.AGE_STAT_DRIFT 1 die
  if !(d.stew die).fw then d0
  else
    let d1 := drifts.foldl (fun d' m => d'.ageRec die 1 m (d.ageDrift die m)) d0
    let d2 := ((d.stacksUp die).filter fun s => d.hbmMargin die s < 14).foldl (fun d' s => d'.ageRec die 2 s (d.hbmMargin die s)) d1
    let d3 := ((d.knksUp die).filter fun i => d.knkMargin die i < 12).foldl (fun d' i => d'.ageRec die 3 i (d.knkMargin die i)) d2
    let d4 := ((d.lanesUp die).filter fun l => d.get F.SER_LSTAT_FOM die l < d.get F.SER_FOMCFG_FOMMIN die).foldl
      (fun d' l => d'.ageRec die 4 l (d.get F.SER_LSTAT_FOM die l)) d3
    ((List.range 9).filter fun r => d.get F.AGE_EFF_EFF die 0 r < 88).foldl (fun d' r => d'.ageRec die 5 r (d.get F.AGE_EFF_EFF die 0 r)) d4

/-- A sample taken. -/
def Dev.ageTake (d : Dev) (die : Nat) (a : AgeRes) : Dev :=
  let d1 := (List.range 64).foldl (fun d' m => (d'.put F.AGE_MVAL_DELAY (a.delays.getD m 0) die 0 m).put F.AGE_MVAL_TJ a.tj die 0 m) d
  let d2 := (List.range 9).foldl (fun d' r =>
    let e := a.effs.getD r 0 % 256
    (d'.put F.AGE_EFF_EFF e die 0 r).put F.AGE_EFF_EFFMIN (min e (d'.get F.AGE_EFF_EFFMIN die 0 r)) die 0 r) d1
  let d3 := a.hbm.foldl (fun d' (x : Nat × Nat × Nat) => if x.1 < 4 ∧ x.2.1 < 64 then d'.setRaw ⟨.HBM_LMARG, die, x.1, x.2.1⟩ (x.2.2 % 2 ^ 30) else d') d2
  let d4 := a.knk.foldl (fun d' (x : Nat × Nat × Nat × Nat) =>
    if x.1 < 2 ∧ x.2.1 < 18 then (d'.put F.KNK_MARG_WMIN x.2.2.1 die x.1 x.2.1).put F.KNK_MARG_WIRE x.2.2.2 die x.1 x.2.1 else d') d3
  (d4.count F.AGE_STAT_NSAMP 1 die).ageRecs die

/-- A sample of a die may be taken: P0 or P1, and no transition with which it would coincide. -/
def Dev.ageAble (d : Dev) (die : Nat) : Bool := d.carrierUp die && decide (d.pwCur die ≤ 1) && !d.pwBusy die

/-- AGE_SAMPLE: PERIOD seconds have passed. -/
def Dev.ageSample (d : Dev) (die : Nat) (a : AgeRes) : Dev :=
  if !d.aonUp die || !d.on? F.AGE_CTL_EN die || 1 < d.pwCur die || d.tick die < (d.pws? die).ageAt + 1000000 * d.get F.AGE_CTL_PERIOD die then d
  else
    let d1 := d.modPw die fun x => { x with ageAt := d.tick die }
    if d1.ageAble die then d1.ageTake die a else d1

/-- AGE_SAMPLE_NOW: SAMPLE written to 1. -/
def Dev.ageNow (d : Dev) (die : Nat) (a : AgeRes) : Dev := if d.ageAble die then d.ageTake die a else d

/-! Proposals (R460, R462, R463) -/

/-- Steps that a monitor asks for: (drift − guard) ÷ 0.5%, rounded up, at most 15. -/
def Dev.monSteps (d : Dev) (die m : Nat) : Nat :=
  let b := d.ageBase die m
  min 15 (ceilDiv (1000 * (d.ageVal die m - b) - d.get F.AGE_GUARD_PCT die * b) (5 * b))

/-- Steps of a rail. -/
def Dev.railSteps (d : Dev) (die r : Nat) : Nat :=
  (((List.range 64).filter fun m => d.get F.AGE_MBASE_RAIL die 0 m == r).map (d.monSteps die)).foldl max 0

/-- The monitor with the largest drift. -/
def Dev.worstMon (d : Dev) (die : Nat) : Nat :=
  (List.range 64).foldl (fun w m => if d.ageVal die w * d.ageBase die m < d.ageVal die m * d.ageBase die w then m else w) 0

/-- A die's proposal. -/
def Dev.proposal (d : Dev) (die nsamp : Nat) : Bytes :=
  let steps := marginRails.map (d.railSteps die)
  let hbm := ((d.stacksUp die).map (d.hbmMargin die)).foldl min 255
  let knk := ((d.knksUp die).map (d.knkMargin die)).foldl min 255
  let fom := ((d.lanesUp die).map fun l => d.get F.SER_LSTAT_FOM die l).foldl min 255
  let eff := ((List.range 9).map fun r => d.get F.AGE_EFF_EFF die 0 r).foldl min 255
  let flags := 1 + (if steps.any fun s => decide (10 < s) then 2 else 0) + (if hbm < 14 then 4 else 0) + (if knk < 12 then 8 else 0) +
    (if fom < d.get F.SER_FOMCFG_FOMMIN die then 16 else 0)
  let w := d.worstMon die
  leBytes 1 die ++ leBytes 1 flags ++ leBytes 1 (d.get F.WRD_LIFE_STEPS die) ++ zeros 1 ++ (steps.flatMap fun s => leBytes 1 s) ++ zeros 2 ++
    leBytes 1 w ++ zeros 1 ++ leBytes 2 (min 0xFFFF (d.ageDrift die w)) ++ leBytes 1 hbm ++ leBytes 1 knk ++ leBytes 1 fom ++ leBytes 1 eff ++
    leBytes 4 ((d.get F.AGE_STAT_NSAMP die + 2 ^ 16 - nsamp) % 2 ^ 16) ++ zeros 8

/-- MARGIN_EVALUATE: the lead evaluates the dies it reaches; a proposal is opened when a rail's steps differ from those in force. -/
def Dev.marginEval (d : Dev) (die : Nat) : Dev :=
  let due := match (d.stew die).evalAt with | none => true | some t => decide (t + 86400 * 1000000 ≤ d.tick die)
  if !d.leads die || !due then d
  else
    let (r, d1) := d.leadSend die d.liveDies
    if r.lost then d1
    else
      let ds := d1.liveDies.filter fun j => !hasBit r.silent j
      let d2 := d1.modStew die fun x => { x with evalAt := some (d1.tick die) }
      if !ds.any fun j => marginRails.any fun rail => d2.railSteps j rail != d2.get F.AGE_ROFF_STEPS j 0 rail then d2
      else
        let x := d2.stew die
        let p : MProp := ⟨x.pid, (List.range 4).map fun j => if ds.contains j then d2.proposal j (x.nsamp.getD j 0) else zeros 32⟩
        (d2.modStew die fun y => { y with
          prop := some p
          nsamp := (List.range 4).map fun j => if ds.contains j then d2.get F.AGE_STAT_NSAMP j else y.nsamp.getD j 0
          pid := if y.pid = 2 ^ 32 - 1 then 1 else y.pid + 1 }).helEvent die 7 0 (leBytes 4 p.pid)

def cmdMarginReport : HCmd :=
  ⟨0x70, fun _ => 1, noDies, fun d die q _ _ =>
    let ds := bitsSet (q.b 0) 4
    if 16 ≤ q.b 0 ∨ (ds.any fun j => d.ndies ≤ j) = true then d.hArg 0
    else
      match (d.stew die).prop with
      | none => d.hOk (zeros (8 + 32 * ds.length))
      | some p => d.hOk (leBytes 4 p.pid ++ zeros 4 ++ ds.flatMap fun j => p.dies.getD j (zeros 32))⟩

/-- An approved proposal of a die is written into its PEND fields. -/
def Dev.marginPend (d : Dev) (die : Nat) (p : Bytes) : Dev :=
  marginRails.zipIdx.foldl (fun d' (x : Nat × Nat) => (d'.put F.AGE_ROFF_PEND (field p (4 + x.2) 1) die 0 x.1).put F.AGE_ROFF_PENDV 1 die 0 x.1) d

def cmdMarginApply : HCmd :=
  ⟨0x71, fun _ => 5, fun d _ => d.liveDies, fun d die q _ _ =>
    match (d.stew die).prop with
    | none => d.hBad 0
    | some p =>
      if p.pid ≠ q.f 0 4 then d.hBad 0
      else if 2 ≤ q.b 4 then d.hArg 4
      else if q.b 4 = 1 ∧ (p.dies.any fun x => hasBit (field x 1 1) 1) = true then d.hDone sWard 8 []
      else
        let d1 := d.modStew die fun x => { x with prop := none }
        (if q.b 4 = 0 then d1
         else (List.range d.ndies).foldl (fun d' j =>
           let x := p.dies.getD j []
           if d'.aonUp j && hasBit (field x 1 1) 0 then d'.marginPend j x else d') d1).hOk []⟩

/-! I3C telemetry (R474) -/

/-- The telemetry block of a die now. -/
def Dev.i3cBlock (d : Dev) (die : Nat) : Bytes :=
  let flags := ofBits [d.on? F.WRD_STAT_THROTTLE die, d.on? F.PWR_STATE_TRIPPED die, d.on? F.WRD_STAT_BOOTFAIL die, d.on? F.PWR_CLK_REFLOSS die,
    d.on? F.PWR_CLK_SLOWLOSS die, d.on? F.FLT_STAT_OVF die, d.on? F.WRD_STAT_BOOTLOCK die]
  let hot := ((List.range 4).map fun s => let st := d.get F.HBM_STAT_STATE die s; if 1 ≤ st ∧ st ≤ 3 then d.get F.HBM_TEMP_TEMP die s else 0).foldl max 0
  leBytes 1 1 ++ leBytes 1 die ++ leBytes 1 (d.pwCur die) ++ leBytes 1 flags ++ leBytes 1 (d.get F.PWR_TJ_TJMAX die) ++ leBytes 1 hot ++
    leBytes 2 (d.get F.PWR_PDIE_WATTS die) ++ leBytes 2 (d.get F.PWR_PDIE_PKG die) ++ leBytes 2 (d.get F.WRD_PCEIL_WATTS die) ++
    leBytes 1 (d.get F.PWR_THR_DUTYM1 die) ++ zeros 3 ++ leBytes 8 (d.tick die) ++ leBytes 4 (d.epoch die) ++ zeros 4

/-- A target: the block as last refreshed, its dynamic address. -/
def Dev.i3cAt (d : Dev) (die : Nat) : Bytes × Option Nat := d.i3c.atD die (zeros 32, none)

/-- I3C_BLOCK_REFRESH. -/
def Dev.i3cRefresh (d : Dev) (die : Nat) : Dev :=
  if d.aonUp die then { d with i3c := d.i3c.put die (d.i3cBlock die, (d.i3cAt die).2) } else d

/-- A target answers an address: its dynamic one, or while it has none the static one, 0x58 + d. -/
def Dev.i3cHears (d : Dev) (die addr : Nat) : Bool := d.aonUp die && (d.i3cAt die).2.getD (0x58 + die) == addr

/-- A private read of `n` bytes: the block as it stood at the start. -/
def Dev.i3cRead (d : Dev) (die addr n : Nat) : Dev :=
  if d.i3cHears die addr then { d with i3cOut := d.i3cOut.put die (true, (d.i3cAt die).1.take (min n 32)) } else d

/-- A private write is NACKed. -/
def Dev.i3cWrite (d : Dev) (die addr : Nat) : Dev := if d.i3cHears die addr then { d with i3cOut := d.i3cOut.put die (false, []) } else d

/-- Bytes of a CCC's answer. -/
def cccLen (code : Nat) : Nat := match code with | 0x8D => 6 | 0x8E => 1 | 0x8F => 1 | 0x90 => 2 | _ => 0

/-- A CCC: a dynamic address is assigned (ENTDAA, SETDASA, SETNEWDA) or given up (RSTDAA); a GET is answered. -/
def Dev.i3cCcc (d : Dev) (die code addr : Nat) : Dev :=
  if !d.aonUp die then d
  else
    let b := (d.i3cAt die).1
    let d1 := match code with
      | 0x06 => { d with i3c := d.i3c.put die (b, none) }
      | 0x07 => if (d.i3cAt die).2.isNone then { d with i3c := d.i3c.put die (b, some addr) } else d
      | 0x87 => if (d.i3cAt die).2.isNone then { d with i3c := d.i3c.put die (b, some addr) } else d
      | 0x88 => if (d.i3cAt die).2.isSome then { d with i3c := d.i3c.put die (b, some addr) } else d
      | _ => d
    { d1 with i3cOut := d1.i3cOut.put die (true, (List.range (cccLen code)).map (Config.i3cId die code)) }

end Sys2Proof.Machine
end

