-- ==== Sys2Proof/Machine/Protect.lean ====
section
/-!
DEFINITION. Scrubbing (R228, R229), the merge buffers' own writes (R222), zero fills (R239) and the start of checker
self-tests (R230).
-/
namespace Sys2Proof.Machine

/-! Walks -/

/-- The HBM offset of line `n` of a channel's walk, in address order (R194, R229). -/
def chanLine (ch n : Nat) : Nat :=
  let a := n / 4 * 2 ^ 15 + n % 4 * 2 ^ 6
  a + (ch ^^^ bitsOf a 21 15 ^^^ bitsOf a 28 22 ^^^ bitsOf a 35 29) * 2 ^ 8

/-- Units of a walk by memory: HBM lines of a channel, lines of a bank, words of a scratchpad (R229). -/
def Dev.walkUnits (d : Dev) (mem : Nat) : Nat :=
  match mem with
  | 0 => d.hbmBytes / 2 ^ 13
  | 1 => 24576
  | _ => 20480

/-- A scrubber. -/
def Dev.scrubAt (d : Dev) (mem unit : Nat) : Scrub := d.scrub.atD (mem, unit) ⟨0, 0, 0⟩

/-- LAPLATE's record of a memory (R229, R447). -/
def Dev.lapLate (d : Dev) (mem die stack : Nat) : Dev := d.post die ⟨4, 7, 0, noPart, mem + 2 ^ 4 * stack, 0, 0⟩

/-- A lap of a unit that took `t` ticks has ended: SLAP takes the slowest unit's last lap, the laps are counted, and a lap
beyond LAPMAX is reported (R229). -/
def Dev.lapEnd (d : Dev) (mem die unit t : Nat) : Dev :=
  let slowest := fun (us : List Nat) => us.foldl (fun m u => max m (d.scrubAt mem u).last) 0
  match mem with
  | 0 =>
    let st := unit % 128 / 32
    let d1 := (d.put F.HBM_SLAP_TICKS (slowest ((List.range 32).map fun c => die * 128 + st * 32 + c) % 2 ^ 32) die st).count F.HBM_SSTAT_LAPS 1 die st
    let m := d1.get F.HBM_SCRUB_LAPMAX die st * 1000000
    if m ≠ 0 ∧ m < t then (d1.put F.HBM_SSTAT_LAPLATE 1 die st).lapLate 0 die st else d1
  | 1 =>
    let d1 := (d.put F.SBF_SLAP_TICKS (slowest ((List.range 256).map fun b => die * 256 + b) % 2 ^ 32) die).count F.SBF_SSTAT_LAPS 1 die
    let m := d1.get F.SBF_SCRUB_LAPMAX die * 1000
    if m ≠ 0 ∧ m < t then (d1.put F.SBF_SSTAT_LAPLATE 1 die).lapLate 1 die 0 else d1
  | _ =>
    let m := d.get F.CMP_SCRUB_LAPMAX die (cellN (keyCell unit)) * 1000
    if m ≠ 0 ∧ m < t then d.lapLate 2 die 0 else d

/-- The walk of a unit goes on by one (R228, R229). -/
def Dev.scrubStep (d : Dev) (mem die unit : Nat) : Dev :=
  let s := d.scrubAt mem unit
  let start := if s.pos = 0 then d.tick die else s.start
  let t := d.tick die - start
  if s.pos + 1 < d.walkUnits mem then { d with scrub := d.scrub.put (mem, unit) ⟨s.pos + 1, start, s.last⟩ }
  else { d with scrub := d.scrub.put (mem, unit) ⟨0, start, t⟩ }.lapEnd mem die unit t

/-! Reads -/

/-- An uncorrectable SRAM word found by a scrubber is left as it is and reported (R227, R447). -/
def Dev.sramUe (d : Dev) (mem die part info addr : Nat) : Dev := d.post die ⟨4, 0x0A, 0, part, mem, info, addr⟩

/-- A corrected SRAM word waits for its write-back (R228). -/
def Dev.wbackPut (d : Dev) (a w : Nat) (good : Bytes) : Dev :=
  { d with wback := d.wback.filter (fun x => x.1 != a) ++ [(a, d.mem.bytes a w, good)] }

/-- A shared-buffer word scrubbed. -/
def Dev.scrubSb (d : Dev) (die woff : Nat) : Dev :=
  let (k, d0) := d.draw
  let r := d0.sbWord k die woff
  let d1 := d0.sbCount die woff r
  if r.ue.isSome then
    let o := woff / 2 ^ 20
    let part := if d1.on? F.SBF_OWNER_OWNED die 0 o then d1.get F.SBF_OWNER_PART die 0 o else noPart
    d1.sramUe 1 die part (d1.raw ⟨.SBF_ELAST, die, 0, 0⟩) (woff / 64 * 64)
  else if r.fixed = 0 then d1 else d1.wbackPut (sbAddr die woff) 32 r.data

/-- A scratchpad word scrubbed. ADDR and INFO of its record are not stated. -/
def Dev.scrubSp (d : Dev) (key off : Nat) : Dev :=
  let (k, d0) := d.draw
  let r := d0.spWord k (spAddr key off)
  let d1 := d0.spCount key r.fixed (if r.ue.isSome then 1 else 0)
  if r.ue.isSome then
    d1.sramUe 2 (cellDie (keyCell key)) (d1.partOf (keyCell key)) (Config.freeNat k 1 % 2 ^ 32) (Config.freeNat k 2 % 2 ^ 64)
  else if r.fixed = 0 then d1 else d1.wbackPut (spAddr key off) 8 r.data

/-- A scrubber reads its next unit in an idle cycle (R228): `unit` is a channel (0–127) or bank of the die, or a core's key
within the die. `again` gives the masks that come back when a corrected HBM line is read once more (R226). -/
def Dev.scrubRead (d : Dev) (mem die unit : Nat) (again : List (Nat × Nat)) : Dev :=
  match mem with
  | 0 =>
    let st := unit / 32
    let off := chanLine unit (d.scrubAt 0 (die * 128 + unit)).pos
    if d.on? F.HBM_SCRUB_EN die st && d.get F.HBM_STAT_STATE die st == 2 && (d.rdq.atD (die, unit) []).isEmpty && !d.rowLocked die off then
      (if blankOff off then d else (d.hbLoad die off 64 again).2).scrubStep 0 die (die * 128 + unit)
    else d
  | 1 =>
    if d.on? F.SBF_SCRUB_EN die && d.carrierUp die then
      let ln := (d.scrubAt 1 (die * 256 + unit)).pos
      let off := (ln * 256 + (unit ^^^ ln % 256)) * 64
      ((d.scrubSb die off).scrubSb die (off + 32)).scrubStep 1 die (die * 256 + unit)
    else d
  | _ =>
    let key := die * 12 * 256 + unit
    if d.on? F.CMP_SCRUB_EN die (cellN (keyCell key)) && d.cellRuns (keyCell key) then
      (d.scrubSp key (8 * (d.scrubAt 2 key).pos)).scrubStep 2 die key
    else d

/-- A write-back of a scrubber, dropped if the word has been written since its read (R228). -/
def Dev.scrubWback (d : Dev) (n : Nat) : Dev :=
  match d.wback[n]? with
  | none => d
  | some (a, old, good) =>
    let d1 := { d with wback := d.wback.eraseIdx n }
    if d.mem.bytes a old.length = old ∧ (d.errs.at? a).isSome then d1.writeUnit a good else d1

/-! Merge buffers (R222) -/

/-- The oldest entry of a bank that holds one half reaches its age and is applied. -/
def Dev.mergeAge (d : Dev) (die bank : Nat) : Dev :=
  match (d.mergeOf die bank).find? fun e => !e.whole with
  | some e => d.sbApply die e
  | none => d

/-- A bank writes an entry that holds both halves. -/
def Dev.mergeWrite (d : Dev) (die bank : Nat) : Dev :=
  match (d.mergeOf die bank).find? fun e => e.whole with
  | some e => d.sbApply die e
  | none => d

/-! Zero fill (R239) -/

/-- A write to SBF_ZFILL: the MiB, and GO, which has no effect while a fill is under way. -/
def Dev.zfillWrite (d : Dev) (die v : Nat) : Dev :=
  let d1 := if v % 512 < 384 then d.put F.SBF_ZFILL_MIB (v % 512) die else d
  if hasBit v 9 && !d1.on? F.SBF_ZFILL_BUSY die then
    { d1 with zfill := d1.zfill.put die (d1.get F.SBF_ZFILL_MIB die) }.put F.SBF_ZFILL_BUSY 1 die
  else d1

/-- A fill ends: the MiB holds zeros, and BUSY clears. -/
def Dev.zfillDone (d : Dev) (die : Nat) : Dev :=
  match d.zfill.at? die with
  | none => d
  | some m =>
    let a := sbAddr die (m * 2 ^ 20)
    let d1 := { d with zfill := d.zfill.del die, mem := d.mem.zero a (2 ^ 20), unwritten := cutRange d.unwritten a (2 ^ 20),
                       errs := d.errs.delIf (fun u => a ≤ u && u < a + 2 ^ 20),
                       merge := d.merge.map fun (b : (Nat × Nat) × List MEnt) => if b.1.1 = die then (b.1, b.2.filter fun e => e.word / 2 ^ 20 != m) else b }
    d1.put F.SBF_ZFILL_BUSY 0 die

/-! Checker self-test (R230) -/

/-- RUN: the test of a block starts; DONE, FAIL and PATTERN of an earlier one are cleared. -/
def Dev.stestRun (d : Dev) (mem die i : Nat) : Dev :=
  if d.stest.contains (mem, die, i) then d
  else
    let r : Reg := match mem with | 0 => .HBM_STEST | 1 => .SBF_STEST | _ => .CMP_STEST
    { d with stest := d.stest ++ [(mem, die, i)] }.setRaw ⟨r, die, i, 0⟩ 0

end Sys2Proof.Machine
end

