-- ==== Sys2Proof/Machine/Steward.lean ====
section
/-!
DEFINITION. The steward's accesses: reads and writes of control registers (R9–R14, R24, R372) with the registers that only
show state kept elsewhere, and loads and stores of spaces 0–3 (R187).
-/
namespace Sys2Proof.Machine

/-! Register reads -/

/-- The code of a core state (R83). -/
def coreCode : CoreSt → Nat
  | .held => 0
  | .loader => 1
  | .idle => 2
  | .run => 3
  | .wait => 4
  | .trap => 5
  | .done => 6

/-- The cell and the core of the status window `w` of compute die `n`: windows are numbered cell × 128 + logical core (R88). -/
def Dev.winCore (d : Dev) (die n w : Nat) : Core :=
  let cn := cellNo die n (w / 128)
  d.coreAt (coreKey cn (d.mapOf cn (w % 128)))

/-- A register of a core's status window (R88), entry `j` of a run of registers. -/
def Core.window (c : Core) (r : Reg) (j : Nat) : Nat :=
  match r with
  | .CMP_CSTAT =>
    coreCode c.st + 2 ^ 3 * ofBits [c.trapv, c.flags.nv, c.flags.of, c.flags.sat] + 2 ^ 8 * (c.loops.length % 8)
  | .CMP_CPC => c.pc % 2 ^ 15
  | .CMP_CFIX => min c.cfix 0xFFFF
  | .CMP_CWAIT => c.armedMask + 2 ^ 4 * (c.armedMask &&& c.metMask)
  | .CMP_TRAP => field c.trap (4 * j) 4
  | .CMP_CNT => c.c? j % 2 ^ 32
  | .CMP_LIDX => c.lidx j % 2 ^ 24
  | _ => 0

/-- Physical cores of a cell that satisfy a condition, counted. -/
def Dev.coreCount (d : Dev) (cn : Nat) (f : CoreSt → Bool) : Nat := (pcores.filter fun p => f (d.coreAt (coreKey cn p)).st).length

/-- CMP_LDSTAT, CMP_LDMISS of a physical core (R435, R437, R444). -/
def Dev.ldStat (d : Dev) (cn p : Nat) : Nat :=
  let c := d.coreAt (coreKey cn p)
  let ended := d.testMode cn && c.st == .done
  coreCode c.st + 2 ^ 3 * ofBits [ended, ended && c.c? 15 == 0] + 2 ^ 8 * c.ldr.nchm1

def Dev.ldMiss (d : Dev) (cn p : Nat) : Nat :=
  let l := (d.coreAt (coreKey cn p)).ldr
  if l.latched then l.miss % 2 ^ (l.nchm1 + 1) else l.miss

/-- Which unit's PLLs are locked: PWR_CLK with HBMLOCK and KNKLOCK from the states of the stacks and knuckles (R422). -/
def Dev.clkWord (d : Dev) (die : Nat) : Nat :=
  let on := d.carrierUp die
  let hbm := ofBits ((List.range 4).map fun s => on && (let st := d.get F.HBM_STAT_STATE die s; st == 1 || st == 2))
  let knk := ofBits ((List.range 2).map fun n => on && (let st := d.knkSt die n; 1 ≤ st && st ≤ 5))
  setBits (setBits (d.raw ⟨.PWR_CLK, die, 0, 0⟩) 11 8 hbm) 13 12 knk

/-- The slowest last lap of the scratchpads of a compute die (R229). -/
def Dev.cmpLap (d : Dev) (die n : Nat) : Nat :=
  (List.range 4).foldl (fun m c => pcores.foldl (fun m' p => max m' (d.scrubAt 2 (coreKey (cellNo die n c) p)).last) m) 0

/-- A write-only field reads as 0 (R10). -/
def Dev.shown (k : RKey) (w : Nat) : Nat :=
  k.reg.rows.foldl (fun x row => match row.acc with | .wo => setBits x row.fld.hi row.fld.lo 0 | _ => x) w

/-- What a read of a register gives: the word it holds, or what it shows of the package's state. -/
def Dev.regRead (d : Dev) (die : Nat) (r : Reg) (i s : Nat) : Nat :=
  let k : RKey := ⟨r, die, i, s⟩
  let plain := d.raw k
  match r with
  | .CMP_CSTAT | .CMP_CPC | .CMP_CFIX | .CMP_CWAIT => (d.winCore die (i / 512) (i % 512)).window r 0
  | .CMP_TRAP => (d.winCore die (i / 8 / 512) (i / 8 % 512)).window r (i % 8)
  | .CMP_CNT => (d.winCore die (i / 16 / 512) (i / 16 % 512)).window r (i % 16)
  | .CMP_LIDX => (d.winCore die (i / 4 / 512) (i / 4 % 512)).window r (i % 4)
  | .CMP_PSTAT =>
    let cn := 12 * die + i
    d.coreCount cn (fun x => x == .run || x == .wait) + 2 ^ 8 * d.coreCount cn (· == .trap) + 2 ^ 16 * d.coreCount cn (· == .done)
  | .CMP_PCTL => Dev.shown k (setBits plain 1 1 (if d.mappedP (cellNo die i (s / 256)) (s % 256) then 1 else 0))
  | .CMP_LDSTAT => d.ldStat (cellNo die i (s / 256)) (s % 256)
  | .CMP_LDMISS => d.ldMiss (cellNo die i (s / 256)) (s % 256)
  | .CMP_LDPEND =>
    let cn := cellNo die (i / 5) s
    ofBits ((List.range 32).map fun b => let p := 32 * (i % 5) + b; decide (p < 136) && (d.coreAt (coreKey cn p)).st == .loader)
  | .CMP_SLAP => d.cmpLap die i % 2 ^ 32
  | .TEN_OUT => d.tenOut die
  | .TEN_HALT_LO => d.tenHaltMask die 0
  | .TEN_HALT_HI => d.tenHaltMask die 32
  | .TEN_STAT => setBits plain 24 16 (d.eng die i).out
  | .UNF_FLT => d.unfFltMask die
  | .TMB_ID => setBits plain 18 18 (if d.b0Level die then 1 else 0)
  | .TMB_VALUE => d.tumbler die s
  | .TMB_WAITS => d.waitsAt die
  | .HBM_NCCTL =>
    let g := d.get F.HBM_NCSEL_REGION die i
    setBits (setBits plain 3 3 (if d.narrow.contains (die, g) then 1 else 0)) 2 2 (if (d.conv.at? die).isSome then 1 else 0)
  | .SER_FLT => d.serFlt die
  | .WRD_MDATA => d.measWord die
  | .PWR_LCNT_LO => d.tick die % 2 ^ 32
  | .PWR_LCNT_HI => d.tick die / 2 ^ 32 % 2 ^ 32
  | .PWR_CLK => d.clkWord die
  | _ => Dev.shown k plain

/-! Register writes -/

/-- A checker self-test is run by bit 0 (R230). -/
def Dev.stestWrite (d : Dev) (mem die i v : Nat) : Dev := if hasBit v 0 then d.stestRun mem die i else d

/-- A steward of die `by_` writes a register of `die` (HBM_NCSEL and HBM_NCCTL act die-wide, R238); the selector's value is `s`. A register whose write does more than its
access codes say has its own operation. -/
def Dev.regWrite (d : Dev) (by_ die : Nat) (r : Reg) (i s v : Nat) : Dev :=
  match r with
  | .CMP_CELL_CTL => d.cellCtlWrite die i v
  | .CMP_MAP_DATA => d.mapSet die i s v
  | .CMP_PCTL => d.pctlSet die i s v
  | .CMP_LDCTL => d.ldctlWrite die i v
  | .CMP_PRUN => d.prunWrite die i v
  | .CMP_STEST => d.stestWrite 2 die i v
  | .SBF_STEST => d.stestWrite 1 die 0 v
  | .HBM_STEST => d.stestWrite 0 die i v
  | .TEN_CTL => d.tenCtlWrite die i v
  | .UNF_CTL => d.unfCtlWrite die i v
  | .DSP_CTL => d.dspCtlWrite die v
  | .DSP_OVBASE | .DSP_OVSIZE => d.dspOvWrite die r v
  | .TMB_VALUE => d.bankSet die s v
  | .TMB_ADD => d.bankAdd die s v
  | .TMB_RANGE => d.rangeWrite die i v
  | .TMB_SWCTL => d.swCtlWrite die v
  | .TMB_BCMASK_LO => d.writeGen ⟨r, die, i, s⟩ (if d.gf2 then v % 2 ^ 24 else v)
  | .TMB_BCMASK_HI => d.writeGen ⟨r, die, i, s⟩ (if d.gf2 then 0 else v)
  | .TMB_BCCMD => d.bcastWrite die v
  | .HBM_CTL => d.hbCtlWrite die i v
  | .HBM_TEMP => if hasBit v 16 then d.hbTmaxClr die i else d
  | .HBM_REFCTL => d.refctlWrite die i v
  | .HBM_RRATE => d.rrateSet die i s v
  | .HBM_NCSEL => (List.range 4).foldl (fun d' j => d'.writeGen ⟨r, die, j, 0⟩ v) d
  | .HBM_NCCTL => d.ncWrite die i v
  | .SBF_ZFILL => d.zfillWrite die v
  | .KRG_ECMD => d.krgCmdWrite die v
  | .KRG_RKCTL => d.rkctlSet die s v
  | .KRG_HWCTL | .KRG_HWBASE_LO | .KRG_HWBASE_HI | .KRG_HWRKEY | .KRG_HWLEN => d.hwWrite die r v
  | .HUB_DB => d.hubDbSet die s v
  | .HUB_PFENCE_LO | .HUB_PFENCE_HI => d.fenceWrite die r v
  | .HUB_KMAP => d.kmapWrite die v
  | .HUB_LDCTL => d.ldHubWrite die v
  | .HUB_LEVEL => if hasBit v 0 then d.b0okClear die else d
  | .KNK_CTL => d.knkCtlWrite die i v
  | .AUX_CTL => d.auxCtlWrite die v
  | .SER_LCTL => d.laneCtlWrite die i v
  | .PLK_PCTL => d.plkCtlWrite die i v
  | .PLK_ROUTE => d.routeSet die s v
  | .ETH_PCTL => d.ethCtlWrite die i v
  | .ETH_QCTL => d.qctlWrite die v
  | .ETH_DQPN | .ETH_SPSN | .ETH_EPSN | .ETH_DMAC_LO | .ETH_DMAC_HI | .ETH_DIP | .ETH_RBASE_LO | .ETH_RBASE_HI | .ETH_RSLOT | .ETH_RTUMB =>
    d.qpRegWrite die i r v
  | .ETH_RGCTL | .ETH_RGKEY | .ETH_RGBASE_LO | .ETH_RGBASE_HI | .ETH_RGLEN => d.regionWrite die r v
  | .ETH_LEAD => d.leadWrite die by_ v
  | .MBX_OCTL => d.octlWrite die by_ v
  | .MBX_ECTL => d.ectlWrite die by_ v
  | .MBX_EDATA => if d.on? F.MBX_ECTL_BUSY die then d else d.writeGen ⟨r, die, i, 0⟩ v
  | .MBX_SUBCTL => d.subWrite die v
  | .WRD_EPOCH => d.epochWrite die v
  | .WRD_STAT => if hasBit v 0 then d.bootLock die else d
  | .WRD_MEXT => d.setRaw ⟨r, die, i, 0⟩ v
  | .WRD_MCTL => if hasBit v 0 then d.measExtend die else d
  | .WRD_OPCTL => d.opctlWrite die v
  | .PWR_DCTL => d.pdctlWrite die v
  | .PWR_TJ => d.tjWrite die v
  | .PWR_RSET => d.rsetWrite die v
  | .FLT_POP => d.fltPop die (v % 2 ^ 11)
  | .FLT_PCTL =>
    let d1 := if hasBit v 1 then d.put F.FLT_PCTL_DROPPED 0 die else d
    if hasBit v 0 then d1.fltPost die else d1
  | .AGE_CTL => d.writeGen ⟨r, die, i, s⟩ v [F.AGE_CTL_SAMPLE]
  | _ => d.writeGen ⟨r, die, i, s⟩ v

/-! Accesses -/

/-- The registers of the carrier domain that P3 keeps powered (R27, R237, R445). -/
def sleepRead (r : Reg) : Bool :=
  [Reg.HBM_ID, .HBM_CTL, .HBM_STAT, .HBM_TEMP, .HBM_REFCTL, .FLT_ID, .FLT_STAT, .FLT_HEAD, .FLT_NEXT, .FLT_POP, .FLT_CTL, .FLT_DSEL,
   .FLT_DROP, .FLT_POST, .FLT_PCTL, .FLT_QDATA].contains r

/-- The domain that holds a register is powered. -/
def Dev.regUp (d : Dev) (die : Nat) (r : Reg) : Bool :=
  match (Reg.place r).dom with
  | .aon => d.aonUp die
  | .carrier => d.carrierUp die || (d.keptUp die && sleepRead r)
  | .compute => d.computeUp die

/-- The steward of a die runs. -/
def Dev.stewardRuns (d : Dev) (die : Nat) : Bool := d.keptUp die

/-- The result of a steward's access: bytes, whether it faulted; stores since the last fence stay (R187). -/
def Dev.stwResult (d : Dev) (by_ : Nat) (bs : Bytes) (bad : Bool) : Dev :=
  { d with stwIo := d.stwIo.put by_ (bs, bad, ((d.stwIo.at? by_).map (fun (x : Bytes × Bool × Nat) => x.2.2)).getD 0) }

/-- A store of a steward is counted until its next fence. -/
def Dev.stwStore (d : Dev) (by_ : Nat) : Dev :=
  match d.stwIo.at? by_ with
  | some (bs, bad, n) => { d with stwIo := d.stwIo.put by_ (bs, bad, n + 1) }
  | none => { d with stwIo := d.stwIo.put by_ ([], false, 1) }

/-- A steward's access to a die's control space: another die's Ward admits or refuses it (R372). A refusal is an access
fault, and one with a higher epoch demotes the sender. -/
def Dev.stwAccess (d : Dev) (by_ die : Nat) (act : Dev → Dev) : Dev :=
  if !d.stewardRuns by_ || d.ndies ≤ die || d.ndies ≤ by_ then d
  else if by_ == die then act d
  else if !d.reaches by_ die then d.stwResult by_ [] true
  else
    match d.leadAdmit by_ die (d.epoch by_) with
    | (true, d1) => act d1
    | (false, d1) =>
      let own := d.epoch die
      (if d.epoch by_ < own then d1.demote by_ own else d1).stwResult by_ [] true

/-- The register at an offset, if one is there (R24). -/
def Dev.regHere (d : Dev) (off : Nat) : Option (Reg × Nat) :=
  if d.inBlock off then (regAt off).filter fun x => d.regBuilt x.1 x.2 else none

/-- The words captured and held of R12, by steward and _LO register. -/
def pairKey (by_ die : Nat) (lo : Reg) (i : Nat) : Nat × RKey := (by_, ⟨lo, die, i, 0⟩)

/-- A steward reads a control register (R10, R12, R24). -/
def Dev.stwRead (d : Dev) (by_ die off : Nat) : Dev :=
  d.stwAccess by_ die fun d =>
    match d.regHere off with
    | none => (d.ctlMiss die off false).stwResult by_ (zeros 4) false
    | some (r, i) =>
      if !d.regUp die r then d.stwResult by_ (zeros 4) false
      else
        let v := d.regRead die r i (d.selOf r die i)
        match hiOf r, loOf r with
        | some hi, _ =>
          let up := d.regRead die hi i (d.selOf hi die i)
          { d with capt := d.capt.put (pairKey by_ die r i) (BitVec.ofNat 32 up) }.stwResult by_ (leBytes 4 v) false
        | none, some lo =>
          (match d.capt.at? (pairKey by_ die lo i) with
           | some w => { d with capt := d.capt.del (pairKey by_ die lo i) }.stwResult by_ (leBytes 4 w.toNat) false
           | none => d.stwResult by_ (leBytes 4 v) false)
        | none, none => d.stwResult by_ (leBytes 4 v) false

/-- A steward writes a control register (R10, R12, R24): a _LO word is held until its _HI is written. -/
def Dev.stwWrite (d : Dev) (by_ die off v : Nat) : Dev :=
  d.stwAccess by_ die fun d =>
    match d.regHere off with
    | none => d.ctlMiss die off true
    | some (r, i) =>
      if !d.regUp die r then d
      else
        let s := d.selOf r die i
        let w := v % 2 ^ 32
        match hiOf r, loOf r with
        | some _, _ => { d with held := d.held.put (pairKey by_ die r i) (BitVec.ofNat 32 w) }
        | none, some lo =>
          (match d.held.at? (pairKey by_ die lo i) with
           | some x => ({ d with held := d.held.del (pairKey by_ die lo i) }.regWrite by_ die lo i s x.toNat).regWrite by_ die r i s w
           | none => d.regWrite by_ die r i s w)
        | none, none => d.regWrite by_ die r i s w

/-- REG64_LO_READ: a read of a _LO register. -/
def Dev.loRead (d : Dev) (by_ die off : Nat) : Dev :=
  match (d.regHere off).map Prod.fst with
  | some r => if (hiOf r).isSome then d.stwRead by_ die off else d
  | none => d

/-- REG64_LO_WRITE and REG64_HI_WRITE: a write of a register of a pair, of its lower or its upper half. -/
def Dev.pairWrite (d : Dev) (by_ die off v : Nat) (upper : Bool) : Dev :=
  match (d.regHere off).map Prod.fst with
  | some r => if (if upper then (loOf r).isSome else (hiOf r).isSome) then d.stwWrite by_ die off v else d
  | none => d

/-- REGISTER_WRITE: a write of a register that belongs to no pair. -/
def Dev.oneWrite (d : Dev) (by_ die off v : Nat) : Dev :=
  match (d.regHere off).map Prod.fst with
  | some r => if (loOf r).isSome || (hiOf r).isSome then d else d.stwWrite by_ die off v
  | none => d

/-- CONTROL_ADDRESS_MISS: an access to an offset where no register is. -/
def Dev.missAccess (d : Dev) (by_ die off : Nat) (write : Bool) : Dev :=
  if (d.regHere off).isSome then d else if write then d.stwWrite by_ die off 0 else d.stwRead by_ die off

/-- LEAD_ONLY_MESSAGE: any access to the control space of another die. -/
def Dev.leadMessage (d : Dev) (by_ die off v : Nat) (write : Bool) : Dev :=
  if by_ == die then d else if write then d.stwWrite by_ die off v else d.stwRead by_ die off

/-! Spaces 0–3 (R187, R223, R227) -/

/-- A store of a steward to words of space 2: each whole word is a SET (R165). -/
def Dev.tumbStore (d : Dev) (die off : Nat) (bs : Bytes) : Dev :=
  if off % 4 ≠ 0 ∨ bs.length % 4 ≠ 0 then d
  else (List.range (bs.length / 4)).foldl (fun d' j => d'.bankSet die (off / 4 + j) (field bs (4 * j) 4)) d

/-- An access lies inside its space's range. -/
def Dev.ioRange (d : Dev) (g n : Nat) : Bool :=
  d.inRange g && (n == 0 || d.inRange (g + n - 1)) && gpaSpace (g + n - 1) == gpaSpace g

/-- The home of a steward's access is there: the die reached, powered, and its HBM stack ready. -/
def Dev.ioHome (d : Dev) (by_ g : Nat) : Bool :=
  let die := gpaDie g
  (by_ == die || d.reaches by_ die) && d.carrierUp die &&
    (gpaSpace g != 0 || (d.get F.HBM_STAT_STATE die (hbmLoc (gpaOff g)).stack == 2 && !blankOff (gpaOff g))) &&
    (gpaSpace g != 3 || d.auxSt die == 3)

/-- A steward's store, performed as device I/O at its home. -/
def Dev.ioStore (d : Dev) (by_ g : Nat) (bs : Bytes) : Dev :=
  let die := gpaDie g
  let off := gpaOff g
  let d1 := d.stwStore by_
  match gpaSpace g with
  | 0 => (d1.hbStore die off bs).1
  | 1 => d1.sbStore die off bs
  | 2 => d1.tumbStore die off bs
  | _ => d1

/-- A steward's load. Space 3 is the site die's memory: what it answers is the command's. -/
def Dev.ioLoad (d : Dev) (by_ g n : Nat) (ups again : List (Nat × Nat)) (answer : Bytes) : Dev :=
  let die := gpaDie g
  let off := gpaOff g
  let give := fun (x : Rd × Dev) => x.2.stwResult by_ (if x.1.ue.isSome then [] else x.1.data) x.1.ue.isSome
  match gpaSpace g with
  | 0 => give ((d.upset ups).hbLoad die off n again)
  | 1 => give ((d.upset ups).sbLoad die off n)
  | 2 => d.stwResult by_ (slice (d.tumblerLine die (off / 64 * 64)) (off % 64) n) false
  | _ => d.stwResult by_ (slice answer 0 n) false

/-- STEWARD_MEMORY_ACCESS: a load of `n` bytes, or a store, of up to eight bytes aligned to their number. An address outside
the package, a space's range or an absent home is an access fault. -/
def Dev.stwIoAccess (d : Dev) (by_ g n : Nat) (write : Bool) (bs answer : Bytes) (ups again : List (Nat × Nat)) : Dev :=
  if !d.carrierUp by_ then d
  else if gpaPkg g ≠ d.get F.KRG_PKG_PKG by_ ∨ d.ndies ≤ gpaDie g ∨ 3 < gpaSpace g ∨ d.ioRange g n = false ∨ d.ioHome by_ g = false then
    d.stwResult by_ [] true
  else if write then d.ioStore by_ g (slice bs 0 n)
  else d.ioLoad by_ g n ups again answer

/-- STEWARD_FENCE: every earlier store is performed at its home already; the fence completes. -/
def Dev.stwFence (d : Dev) (by_ : Nat) : Dev :=
  match d.stwIo.at? by_ with
  | some (bs, bad, _) => { d with stwIo := d.stwIo.put by_ (bs, bad, 0) }
  | none => d

end Sys2Proof.Machine
end

