-- ==== Sys2Proof/Machine/HelLink.lean ====
section
/-!
DEFINITION. The Helham commands of links, routes, firmware, cores and memory (R385), and the domain commands that waited in a
pending slot (R380).
-/
namespace Sys2Proof.Machine

/-! LINK_STATUS, LINK_RETRAIN -/

/-- What is wrong with bytes 0–2 of LINK_STATUS and LINK_RETRAIN: the offset of a field that names nothing. -/
def Dev.linkArg (d : Dev) (q : HReq) : Option Nat :=
  let die := q.b 1
  let i := q.b 2
  if 4 < q.b 0 then some 0
  else if d.ndies ≤ die then some 1
  else
    let there := match q.b 0 with
      | 0 => decide (i < if d.gf2 then 1 else 2)
      | 1 => i == 0
      | 2 => decide (i < 4)
      | 3 => decide (i < 2)
      | _ => d.laneHere die i
    if there then none else some 2

/-- Offset of the first register of a link. -/
def linkBase (kind i : Nat) : Nat :=
  match kind with
  | 0 => 0x110000 + i * 0x10000
  | 1 => 0x500000
  | 2 => 0x411000 + i * 0x40
  | 3 => 0x421000 + i * 0x100
  | _ => 0x401000 + i * 0x40

/-- The sixteen words at a link's registers; an offset that holds none reads as 0. -/
def Dev.linkRegs (d : Dev) (die base : Nat) : Bytes :=
  (List.range 16).flatMap fun k =>
    leBytes 4 (match d.regHere (base + 4 * k) with | some (r, i) => d.regRead die r i (d.selOf r die i) | none => 0)

def cmdLinkStatus : HCmd :=
  ⟨0x60, fun _ => 3, fun d q => if q.b 1 < d.ndies then [q.b 1] else [], fun d _ q _ _ =>
    match d.linkArg q with
    | some off => d.hArg off
    | none => d.hOk (d.linkRegs (q.b 1) (linkBase (q.b 0) (q.b 2)))⟩

/-- PEND of a link's command register. -/
def Dev.linkPend (d : Dev) (kind die i : Nat) : Bool :=
  match kind with
  | 0 => d.on? F.KNK_CTL_PEND die i
  | 1 => d.on? F.AUX_CTL_PEND die
  | 2 => d.on? F.PLK_PCTL_PEND die i
  | 3 => d.on? F.ETH_PCTL_PEND die i
  | _ => d.on? F.SER_LCTL_PEND die i

/-- The last command code of a link's command register. -/
def linkCodes (kind : Nat) : Nat := match kind with | 0 => 3 | 1 => 2 | 2 => 2 | 3 => 2 | _ => 5

/-- A command code written to a link's command register, its other fields kept. -/
def Dev.linkCmd (d : Dev) (kind die i cmd : Nat) : Dev :=
  match kind with
  | 0 => d.knkCtlWrite die i cmd
  | 1 => d.auxCtlWrite die cmd
  | 2 => d.portCmdWrite (4 * die + i) cmd
  | 3 => d.ethCmdWrite die i cmd
  | _ => d.laneCmdWrite die i cmd

def cmdLinkRetrain : HCmd :=
  ⟨0x61, fun _ => 4, fun d q => if q.b 1 < d.ndies then [q.b 1] else [], fun d _ q ph _ =>
    let kind := q.b 0
    let die := q.b 1
    let i := q.b 2
    if ph = 0 then
      match d.linkArg q with
      | some off => d.hArg off
      | none =>
        if q.b 3 = 0 ∨ linkCodes kind < q.b 3 then d.hArg 3
        else if !d.carrierUp die then d.hBad 1
        else if d.linkPend kind die i then d.hDone sBusy 1 []
        else
          let d1 := d.linkCmd kind die i (q.b 3)
          if d1.linkPend kind die i then d1.hMore sDeferred 1 0 else d1.hOk []
    else if d.linkPend kind die i then d.hMore sOk 1 0
    else d.hOk []⟩

/-! ROUTE_SET -/

/-- An entry of KIND 0: its package, and its PLK_ROUTE word. -/
def HReq.route (q : HReq) (k : Nat) : Nat × Nat :=
  let e := q.f (4 + 4 * k) 4
  (e % 2 ^ 12, bitsOf e 26 12)

/-- An entry names only ports that the package builds. -/
def Dev.routeOk (d : Dev) (w : Nat) : Bool :=
  (!hasBit w 4 || d.portBuilt (w % 16)) && (!hasBit w 9 || d.portBuilt (bitsOf w 8 5)) && (!hasBit w 14 || d.portBuilt (bitsOf w 13 10))

/-- Entries written on every die that is up: NAPPLIED and NHOLD. -/
def Dev.routesSet (d : Dev) (q : HReq) (n : Nat) : HOut :=
  let ds := d.liveDies
  let (holds, d1) := (List.range n).foldl (fun (s : Nat × Dev) k =>
    let (pkg, w) := q.route k
    let d' := ds.foldl (fun (x : Dev) j => x.routeSet j pkg w) s.2
    (s.1 + (if ds.any fun j => d'.on? F.PLK_ROUTE_HOLD j 0 pkg then 1 else 0), d')) (0, d)
  d1.hOk (leBytes 2 n ++ leBytes 2 holds)

def cmdRoutes : HCmd :=
  ⟨0x62, fun b => if field b 0 1 = 0 then 4 + 4 * field b 2 2 else b.length, fun d _ => d.liveDies, fun d _ q _ _ =>
    let n := q.f 2 2
    if q.b 0 ≠ 0 then d.hArg 0
    else if n = 0 ∨ 1007 < n then d.hArg 2
    else match (List.range n).find? fun k => !d.routeOk (q.route k).2 with
      | some k => d.hArg (4 + 4 * k)
      | none => d.routesSet q n⟩

/-- The steward sets EN of the named knuckles on every die (R275). -/
def cmdKnuckles : HCmd :=
  ⟨0x62, fun b => if b.length = 4 then 4 else 2, fun d _ => d.liveDies, fun d _ q _ _ =>
    let m := q.b 1
    if (if d.gf2 then 2 else 16) ≤ m then d.hArg 1
    else
      let d1 := d.liveDies.foldl (fun d' j => d'.kmapWrite j (2 ^ 4 * (d'.get F.HUB_KMAP_EN j ||| m))) d
      d1.hOk (zeros 4)⟩

/-- A ROUTE_SET in an inbound slot, of KIND 1 or of another KIND. -/
def Dev.routeRun (d : Dev) (die slot : Nat) (knuckles : Bool) : Dev :=
  match d.helWaiting die slot with
  | none => d
  | some m =>
    if (field m 0 2 == 0x62 && field m 32 1 == 1) = knuckles then d.helRun die slot false (if knuckles then cmdKnuckles else cmdRoutes)
    else d

/-! Firmware (R385, R390) -/

/-- Length of an image bank. -/
def bankSize : Nat := 32 * 2 ^ 20

/-- Bytes of a staged image that are held without a gap from offset 0. -/
def imageHigh (m : KMap Nat Bytes) : Nat :=
  m.foldl (fun h _ => (m.find? fun (x : Nat × Bytes) => decide (x.1 ≤ h) && decide (h < x.1 + x.2.length)).elim h fun x => x.1 + x.2.length) 0

/-- The bytes of a staged image. -/
def imageBytes (m : KMap Nat Bytes) (n : Nat) : Bytes := m.foldl (fun bs (x : Nat × Bytes) => overlay bs x.1 x.2) (zeros n)

/-- The bank of a flash that does not hold the image its die runs: bank B when bank A is accepted and has the VERSION that booted,
else bank A. -/
def Dev.idleBank (d : Dev) (fl : Nat) : Nat :=
  match d.flash.at? (fl, 0) with
  | some m => if d.imgCheck fl m == 0 && field m 8 4 == (d.ward fl).fwver then 1 else 0
  | none => 0

/-- The dies with a boot flash port (R20). -/
def Dev.flashPorts (d : Dev) : List Nat := if d.gf2 then [0, 1] else [0, 3]

/-- Bytes of a bank written, the bytes before them erased where the bank holds none. -/
def Dev.bankPut (d : Dev) (fl off : Nat) (bs : Bytes) : Dev :=
  let b := d.idleBank fl
  let old := d.flash.atD (fl, b) []
  let long := old ++ List.replicate (off + bs.length - old.length) 0xFF
  { d with flash := d.flash.put (fl, b) (overlay long off bs) }

def cmdStage : HCmd :=
  ⟨0x80, fun b => 16 + field b 12 2, fun d _ => d.flashPorts, fun d die q _ _ =>
    let off := q.f 0 4
    let total := q.f 4 4
    let len := q.f 12 2
    let data := slice q.body 16 len
    if len = 0 ∨ 4000 < len then d.hArg 12
    else if total = 0 ∨ bankSize < total then d.hArg 4
    else if total < off + len then d.hArg 0
    else if crc32c data ≠ q.f 8 4 then d.hArg 8
    else
      let x := d.stew die
      let img := (if x.total = total then x.image else []).put off data
      let d1 := d.modStew die fun y => { y with image := img, total := total }
      (d1.flashPorts.foldl (fun (d' : Dev) fl => d'.bankPut fl off data) d1).hOk (leBytes 4 (imageHigh img))⟩

/-- What FW_COMMIT finds: 0, or the DETAIL of FAILED. `bad`: a flash does not hold what was written. -/
def Dev.commitCode (d : Dev) (die : Nat) (q : HReq) (bad : Bool) : Nat :=
  let x := d.stew die
  let total := q.f 0 4
  if x.total ≠ total ∨ imageHigh x.image < total then 1
  else
    let m := imageBytes x.image total
    if sm3 m ≠ slice q.body 8 32 then 2
    else
      let c := d.imgCheck die m
      if c ≠ 0 then c else if bad then 5 else 0

def cmdCommit (bad : Bool) : HCmd :=
  ⟨0x81, fun _ => 40, fun d _ => d.flashPorts, fun d die q ph _ =>
    if ph = 0 then d.hMore sAccepted 1 0
    else
      let c := d.commitCode die q bad
      if c = 0 then d.hOk [] else d.hDone sFailed c []⟩

/-! CORE_RETEST, SPARE_MAP -/

/-- A field of CORE that names nothing; the fourth byte is below `last`. -/
def Dev.coreArg (d : Dev) (q : HReq) (last : Nat) : Option Nat :=
  firstBad [(0, decide (q.b 0 < d.ndies)), (1, decide (q.b 1 < 3)), (2, decide (q.b 2 < 4)), (3, decide (q.b 3 < last))]

/-- The cell that CORE names. -/
def HReq.cell (q : HReq) : Nat := cellNo (q.b 0) (q.b 1) (q.b 2)

/-- A core that passes has FAILED and both deadbolts cleared and is a spare; its scratchpad is left as the test leaves it. -/
def Dev.coreRetested (d : Dev) (die n c p : Nat) (pass : Bool) : Dev :=
  let d1 := d.spInvalid (coreKey (cellNo die n c) p)
  if pass then (d1.pctlSet die n (c * 256 + p) 0x100).hubDbSet die (n * 1024 + c * 256 + p) 0x100 else d1

def cmdRetest (pass : Bool) : HCmd :=
  ⟨0x90, fun _ => 4, fun d q => if q.b 0 < d.ndies then [q.b 0] else [], fun d _ q ph _ =>
    if ph = 0 then
      match d.coreArg q 136 with
      | some off => d.hArg off
      | none =>
        let runs := match d.parts.at? (d.partOf q.cell) with | some x => d.partRuns x | none => false
        if !d.computeUp (q.b 0) || (d.carries q.cell (q.b 3)).isSome || runs then d.hBad 0 else d.hMore sAccepted 1 0
    else (d.coreRetested (q.b 0) (q.b 1) (q.b 2) (q.b 3) pass).hDone sOk (if pass then 1 else 0) []⟩

/-- A physical core may take a logical number: it carries none, has not failed and is not deadbolted (R38). -/
def Dev.spareOk (d : Dev) (cn p : Nat) : Bool := (d.carries cn p).isNone && !d.failedP cn p && !d.deadbolt cn p

/-- SPARE_MAP (R36): park, map, load the spare, deadbolt the old core, unpark. `arg` packs the old and the new core and whether the
cell was parked. -/
def cmdSpare : HCmd :=
  ⟨0x91, fun _ => 6, fun d q => if q.b 0 < d.ndies then [q.b 0] else [], fun d _ q ph arg =>
    let die := q.b 0
    let n := q.b 1
    let c := q.b 2
    let cn := q.cell
    let lc := q.b 3
    if ph = 0 then
      match d.coreArg q 128 with
      | some off => d.hArg off
      | none =>
        if 136 ≤ q.b 4 ∧ q.b 4 ≠ 0xFF then d.hArg 4
        else
          let busy := pcores.any fun p => match (d.coreAt (coreKey cn p)).st with | .run => true | .wait => true | _ => false
          let new := if q.b 4 = 0xFF then pcores.find? (d.spareOk cn) else if d.spareOk cn (q.b 4) then some (q.b 4) else none
          if !d.computeUp die || busy then d.hBad 0
          else match new with
            | none => d.hBad 4
            | some p =>
              let old := d.mapOf cn lc
              let d1 := (d.cellPark cn).mapSet die n (c * 128 + lc) p
              let k := coreKey cn p
              let d2 := d1.setCore k { d1.coreAt k with st := .loader, ldr := freshLoader }
              d2.hMore sOk 1 (old + 2 ^ 8 * p + 2 ^ 16 * (if d.parked cn then 1 else 0))
    else
      let old := arg % 2 ^ 8
      let p := bitsOf arg 15 8
      if (d.coreAt (coreKey cn p)).st == .loader then d.hMore sOk 1 arg
      else
        let d1 := if hasBit (q.b 5) 0 then
            (d.pctlSet die n (c * 256 + old) 5).hubDbSet die (n * 1024 + c * 256 + old) 1 else d
        (if hasBit arg 16 then d1 else d1.cellUnpark cn).hOk (leBytes 1 old ++ leBytes 1 p)⟩

/-! MEMTEST, BLANK_REPORT -/

def cmdMemtest : HCmd :=
  ⟨0xA0, fun _ => 2, fun _ q => bitsSet (q.b 0) 4, fun d _ q ph _ =>
    let ds := bitsSet (q.b 0) 4
    if ph = 0 then
      if 2 ^ d.ndies ≤ q.b 0 ∨ q.b 0 = 0 then d.hArg 0
      else if 2 ≤ q.b 1 then d.hArg 1
      else if !d.parts.isEmpty || ds.any (fun j => !d.carrierUp j) then d.hBad 0
      else (ds.foldl (fun (x : Dev) j => x.memStart j (q.b 1 == 1)) d).hMore sAccepted 1 0
    else if ds.any fun j => (d.memtest.at? j).isSome then d.hMore sOk 1 0
    else
      let down := ds.flatMap fun j => (List.range 4).map fun s => if d.get F.HBM_STAT_STATE j s = 4 then 2 ^ (4 * j + s) else 0
      d.hDone sOk (down.foldl (· + ·) 0) []⟩

def cmdBlank : HCmd :=
  ⟨0xA1, fun _ => 4, fun d q => if q.b 0 < d.ndies then [q.b 0] else [], fun d _ q _ _ =>
    if d.ndies ≤ q.b 0 then d.hArg 0
    else if 4 ≤ q.b 1 then d.hArg 1
    else
      let es := ((d.retList (q.b 0) (q.b 1)).drop (q.f 2 2)).take 503
      d.hOk (leBytes 2 (d.get F.HBM_RETCNT_COUNT (q.b 0) (q.b 1)) ++ leBytes 1 (d.get F.HBM_BLSTAT_NPEND (q.b 0) (q.b 1)) ++
        leBytes 1 (d.get F.HBM_BLMIN_FREEMIN (q.b 0) (q.b 1)) ++ leBytes 2 es.length ++ zeros 2 ++ es.flatMap (leBytes 8))⟩

/-! DEFERRED_COMMAND_RUN (R380) -/

/-- The commands that may wait in a pending slot, by opcode. -/
def heldCmd (op : Nat) (ovr : Bool) : Option HCmd :=
  match op with
  | 0x10 => some (cmdPower ovr)
  | 0x21 => some cmdDestroy
  | 0x22 => some cmdReset
  | 0x61 => some cmdLinkRetrain
  | 0xA0 => some cmdMemtest
  | _ => none

/-- The held command at place `n` runs, now that the transition of its domain has ended. -/
def Dev.deferredRun (d : Dev) (die n : Nat) (ovr : Bool) : Dev :=
  match (d.stew die).jobs[n]? with
  | none => d
  | some j =>
    match helDom j.req, heldCmd j.req.op ovr with
    | some x, some c =>
      if !d.leads die || !j.held || d.domBusy die x (some n) then d
      else
        let j1 := { j with held := false, at_ := d.tick die }
        (d.setJob die (some n) j1).helStep die c (some n) j1
    | _, _ => d

end Sys2Proof.Machine
end

