-- ==== Sys2Proof/Machine/Elect.lean ====
section
/-!
DEFINITION. The lead's heartbeat and the election of a lead (R371–R373, R388).
-/
namespace Sys2Proof.Machine

/-- The dies whose stewards a die's steward reaches, itself among them. -/
def Dev.leadReach (d : Dev) (die : Nat) : List Nat := (List.range d.ndies).filter fun j => d.carrierUp j && (j == die || d.reaches die j)

/-- ETH_LEAD of a die set by the lead. -/
def Dev.ethLead (d : Dev) (die j : Nat) : Dev :=
  if d.get F.ETH_LEAD_DIE j = die then d
  else if j = die then d.put F.ETH_LEAD_DIE die j
  else match d.leadAdmit die j (d.epoch die) with
    | (true, d1) => d1.put F.ETH_LEAD_DIE die j
    | (false, d1) => let own := d.epoch j; if d.epoch die < own then d1.demote die own else d1

/-- The lead's heartbeat reaches every steward that it can reach; ETH_LEAD is rewritten where a change of the knuckle map has left it
naming another die. -/
def Dev.heartbeat (d : Dev) (die : Nat) : Dev :=
  if !d.leads die then d
  else (d.leadReach die).foldl (fun d' j =>
    let d1 := if d'.epoch j ≤ d'.epoch die && (d'.stews.at? j).isSome then d'.modStew j fun x => { x with hbAt := d'.tick j } else d'
    if d1.leads die then d1.ethLead die j else d1) d

/-- A steward may start an election: no heartbeat for 100 ms, the lead's die out of reach, or no lead named yet. -/
def Dev.electionDue (d : Dev) (die : Nat) : Bool :=
  let e := d.epoch die
  e == 0 || !(e % 4 == die || d.reaches die (e % 4)) || d.late die (d.stew die).hbAt 100000

/-- An election starts. -/
def Dev.electionStart (d : Dev) (die : Nat) : Dev :=
  let x := d.stew die
  if !d.carrierUp die || !x.fw || x.lead || x.elect.isSome || !d.electionDue die then d
  else d.modStew die fun y => { y with elect := some (d.tick die) }

/-- A proposal handled by the Wards of some dies in turn: the higher epoch of a Ward that refuses it, if one does. -/
def Dev.propose (d : Dev) (die e : Nat) (ts : List Nat) : Option Nat × Dev :=
  ts.foldl (fun (s : Option Nat × Dev) t =>
    if s.1.isSome then s
    else
      let own := s.2.epoch t
      match s.2.leadAdmit die t e with
      | (true, d1) => (none, d1)
      | (false, d1) => (some own, d1)) (none, d)

/-- LEAD_CHANGE goes to the subscriptions whose addresses every steward holds, and they are dropped (R388). -/
def Dev.leadChange (d : Dev) (die : Nat) : Dev :=
  (List.range 8).foldl (fun d' sub =>
    if d'.on? F.MBX_SUBCTL_EN die 0 sub then
      (d'.leadReach die).foldl (fun (x : Dev) j => x.put F.MBX_SUBCTL_EN 0 j 0 sub)
        (d'.eventTo die sub ⟨0, 8⟩ 3 0 (leBytes 4 (d'.epoch die) ++ leBytes 1 die))
    else d') d

/-- The steward has waited 20 ms × d and proposes itself (R373): the lead when every reachable Ward stores the epoch. -/
def Dev.electionPropose (d : Dev) (die : Nat) : Dev :=
  match (d.stew die).elect with
  | none => d
  | some t =>
    if !d.carrierUp die || !(d.stew die).fw || !d.late die t (20000 * die) then d
    else
      let e := (d.epoch die / 4 + 1) * 4 + die
      match d.propose die e (d.leadReach die) with
      | (some own, d1) => if d.epoch die < own then d1.demote die own else d1.modStew die fun x => { x with elect := none }
      | (none, d1) =>
        let d2 := d1.modStew die fun x => { x with lead := true, elect := none, hbAt := d1.tick die, jobs := [], sess := [], subs := [] }
        ((d2.leadReach die).foldl (fun (y : Dev) j => y.put F.ETH_LEAD_DIE die j) d2).leadChange die

end Sys2Proof.Machine
end

