-- ==== Sys2Proof/Machine/Command.lean ====
section
/-!
DEFINITION. How a command meets the package: only a unit that the package builds, in a domain that is powered (R3, R27, R28), acts;
otherwise nothing changes. And a few operations that one command each needs.
-/
namespace Sys2Proof.Machine

/-- A command about a die. -/
def State.onDie (die : Nat) (f : Dev → Dev) (s : State) : Host.Outcome State Fault Refusal :=
  s.on fun d => if die < d.ndies then f d else d

/-- A command of a die's always-on domain. -/
def State.onAon (die : Nat) (f : Dev → Dev) (s : State) : Host.Outcome State Fault Refusal :=
  s.on fun d => if die < d.ndies && d.aonUp die then f d else d

/-- A command of what P3 keeps powered in a die's carrier domain. -/
def State.onKept (die : Nat) (f : Dev → Dev) (s : State) : Host.Outcome State Fault Refusal :=
  s.on fun d => if die < d.ndies && d.keptUp die then f d else d

/-- A command of a die's carrier domain. -/
def State.onCarrier (die : Nat) (f : Dev → Dev) (s : State) : Host.Outcome State Fault Refusal :=
  s.on fun d => if die < d.ndies && d.carrierUp die then f d else d

/-- A command of a die's compute domain. -/
def State.onCompute (die : Nat) (f : Dev → Dev) (s : State) : Host.Outcome State Fault Refusal :=
  s.on fun d => if die < d.ndies && d.carrierUp die && d.computeUp die then f d else d

/-- A command about a cell. -/
def State.onCell (cell : Nat) (f : Dev → Dev) (s : State) : Host.Outcome State Fault Refusal := s.onCompute (cellDie cell) f

/-- A command about a physical core. -/
def State.onCore (cell core : Nat) (f : Dev → Dev) (s : State) : Host.Outcome State Fault Refusal :=
  s.onCell cell fun d => if core < 136 then f d else d

/-- A command about a lane: its own effect, then what its port makes of the lane's new state (R331, R336, R413). -/
def State.onLane (die lane : Nat) (f : Dev → Dev) (s : State) : Host.Outcome State Fault Refusal :=
  s.onCarrier die fun d =>
    if !d.laneHere die lane then d
    else
      let d1 := f d
      let d2 := if d.laneSt die lane ≠ laneUp ∧ d1.laneSt die lane = laneUp then d1.laneIdv die lane else d1
      (d2.laneSettle die lane).laneSlept die lane

/-- A command about a package-link port. -/
def State.onPort (port : Nat) (f : Dev → Dev) (s : State) : Host.Outcome State Fault Refusal :=
  s.onCarrier (portDie port) fun d => if d.portHere port then f d else d

/-- A command about an Ethernet port. -/
def State.onEth (die port : Nat) (f : Dev → Dev) (s : State) : Host.Outcome State Fault Refusal :=
  s.onCarrier die fun d => if d.ethHere die port then f d else d

/-- A command about a knuckle between two dies. -/
def State.onKnuckle (k : Nat) (f : Dev → Dev) (s : State) : Host.Outcome State Fault Refusal :=
  s.on fun d => if d.knuckles.contains k && d.carrierUp (knuckleEnds k).1 && d.carrierUp (knuckleEnds k).2 then f d else d

/-- A command about a die's end of a knuckle. -/
def State.onKnuckleEnd (die inst : Nat) (f : Dev → Dev) (s : State) : Host.Outcome State Fault Refusal :=
  s.onCarrier die fun d => if inst < (if d.gf2 then 1 else 2) then f d else d

/-- The engine that feeds a context of an unfold engine goes on after the context's step. -/
def Dev.ctxFollow (d : Dev) (die u x : Nat) (d1 : Dev) : Dev :=
  match (d.unfAt die u).ctx.at? x with
  | some c => d1.engFollow die c.eng
  | none => d1

/-- CMP_PCTL of the selected core written with FAILED as it is (R37). -/
def Dev.pctlBit (d : Dev) (die n v : Nat) : Dev :=
  d.pctlWrite die n (v + 4 * d.get F.CMP_PCTL_FAILED die n (d.selOf .CMP_PCTL die n))

/-- LOAD of CMP_LDCTL for the cells of a mask (R444). -/
def Dev.loadCells (d : Dev) (die n mask : Nat) : Dev := (bitsSet mask 4).foldl (fun d' c => d'.loaderEnter (cellNo die n c)) d

/-- STATE of ETH_QCTL written, its other fields as they are (R357). -/
def Dev.qpState (d : Dev) (die want : Nat) : Dev :=
  d.qctlWrite die (setBits (d.raw ⟨.ETH_QCTL, die, 0, d.selOf .ETH_QCTL die 0⟩) 1 0 want)

/-- The registers of a host-window descriptor, by their order in the block (R252). -/
def hwReg (j : Nat) : Reg := [Reg.KRG_HWCTL, .KRG_HWBASE_LO, .KRG_HWBASE_HI, .KRG_HWRKEY, .KRG_HWLEN].getD j .KRG_HWLEN

/-- Both halves of HUB_PFENCE (R272). -/
def Dev.portFence (d : Dev) (die mask : Nat) : Dev :=
  (d.fenceWrite die .HUB_PFENCE_LO (mask % 2 ^ 32)).fenceWrite die .HUB_PFENCE_HI (mask / 2 ^ 32)

/-- TEST of SER_LCTL with its loop and PRBS (R314, R322). -/
def Dev.laneTestWrite (d : Dev) (die l loop prbs : Nat) : Dev :=
  d.laneCtlWrite die l (setBits (setBits (setBits (d.raw ⟨.SER_LCTL, die, l, 0⟩) 9 8 loop) 10 10 prbs) 2 0 5)

/-- GO of HUB_LDCTL with the chunk, its count and its cells (R443). -/
def Dev.chunkSend (d : Dev) (die nchm1 chunk : Nat) (uni : Bool) (mask : Nat) : Dev :=
  d.ldHubWrite die (nchm1 % 2 ^ 5 + 2 ^ 8 * (chunk % 2 ^ 5) + 2 ^ 13 * (if uni then 1 else 0) + 2 ^ 14 + 2 ^ 16 * (mask % 2 ^ 12))

end Sys2Proof.Machine
end

