-- ==== Sys2Proof/Machine/CmdRegs.lean ====
section
/-!
DEFINITION. Meanings of the commands: the steward's accesses to control registers and to memory.
-/
namespace Sys2Proof.Machine

/-- REGISTER_WRITE (R10). -/
def execRegisterWrite (by_ : Nat) (die : Nat) (off : Nat) (value : Nat) (s : State) : Host.Outcome State Fault Refusal :=
  s.on fun d => d.oneWrite by_ die off value

/-- REG64_LO_READ (R12). -/
def execReg64LoRead (by_ : Nat) (die : Nat) (off : Nat) (s : State) : Host.Outcome State Fault Refusal :=
  s.on fun d => d.loRead by_ die off

/-- REG64_LO_WRITE (R12). -/
def execReg64LoWrite (by_ : Nat) (die : Nat) (off : Nat) (value : Nat) (s : State) : Host.Outcome State Fault Refusal :=
  s.on fun d => d.pairWrite by_ die off value false

/-- REG64_HI_WRITE (R12). -/
def execReg64HiWrite (by_ : Nat) (die : Nat) (off : Nat) (value : Nat) (s : State) : Host.Outcome State Fault Refusal :=
  s.on fun d => d.pairWrite by_ die off value true

/-- CONTROL_ADDRESS_MISS (R24). -/
def execControlAddressMiss (by_ : Nat) (die : Nat) (off : Nat) (write : Bool) (s : State) : Host.Outcome State Fault Refusal :=
  s.on fun d => d.missAccess by_ die off write

/-- STEWARD_MEMORY_ACCESS (R187). -/
def execStewardMemoryAccess (die : Nat) (gpa : Nat) (len : Nat) (write : Bool) (data : Bytes) (answer : Bytes) (ups : List (Nat × Nat)) (again : List (Nat × Nat)) (s : State) : Host.Outcome State Fault Refusal :=
  s.onCarrier die fun d => d.stwIoAccess die gpa len write data answer ups again

/-- STEWARD_FENCE (R187). -/
def execStewardFence (die : Nat) (s : State) : Host.Outcome State Fault Refusal :=
  s.onCarrier die fun d => d.stwFence die

end Sys2Proof.Machine
end

