-- ==== Sys2Proof/Machine/CmdCells.lean ====
section
/-!
DEFINITION. Meanings of the commands: the controls of cells.
-/
namespace Sys2Proof.Machine

/-- CELL_PARK (R37). -/
def execCellPark (cell : Nat) (s : State) : Host.Outcome State Fault Refusal :=
  s.onCell cell fun d => d.cellPark cell

/-- CELL_UNPARK (R168). -/
def execCellUnpark (cell : Nat) (s : State) : Host.Outcome State Fault Refusal :=
  s.onCell cell fun d => d.cellUnpark cell

/-- CELL_RESET (R37). -/
def execCellReset (cell : Nat) (s : State) : Host.Outcome State Fault Refusal :=
  s.onCell cell fun d => d.cellReset cell

/-- CELL_RESET_COMPLETE (R37). -/
def execCellResetComplete (cell : Nat) (s : State) : Host.Outcome State Fault Refusal :=
  s.onCell cell fun d => d.cellResetDone cell

/-- MAP_DATA_WRITE (R38). -/
def execMapDataWrite (die : Nat) (cdie : Nat) (value : Nat) (s : State) : Host.Outcome State Fault Refusal :=
  s.onCompute die fun d => d.mapWrite die cdie value

/-- DEADBOLT_SET (R38). -/
def execDeadboltSet (die : Nat) (cdie : Nat) (s : State) : Host.Outcome State Fault Refusal :=
  s.onCompute die fun d => d.pctlBit die cdie 1

/-- DB_CLEAR (R37). -/
def execDbClear (die : Nat) (cdie : Nat) (s : State) : Host.Outcome State Fault Refusal :=
  s.onCompute die fun d => d.pctlBit die cdie 0x100

/-- CELL_TEST_MODE_WRITE (R444). -/
def execCellTestModeWrite (cell : Nat) (test : Bool) (s : State) : Host.Outcome State Fault Refusal :=
  s.onCell cell fun d => d.setTest cell test

/-- LOADER_ENTER (R444). -/
def execLoaderEnter (die : Nat) (cdie : Nat) (mask : Nat) (s : State) : Host.Outcome State Fault Refusal :=
  s.onCompute die fun d => d.loadCells die cdie mask

/-- CELL_START (R84). -/
def execCellStart (cell : Nat) (s : State) : Host.Outcome State Fault Refusal :=
  s.onCell cell fun d => d.planRun cell true false

/-- CELL_ABORT (R84). -/
def execCellAbort (cell : Nat) (s : State) : Host.Outcome State Fault Refusal :=
  s.onCell cell fun d => d.planRun cell false true

end Sys2Proof.Machine
end

