-- ==== Sys2Proof/Machine/CmdPlan.lean ====
section
/-!
DEFINITION. Meanings of the commands: plan fetch and the plan words of a core.
-/
namespace Sys2Proof.Machine

/-- PLAN_FETCH (R81). -/
def execPlanFetch (cell : Nat) (core : Nat) (ups : List (Nat × Nat)) (s : State) : Host.Outcome State Fault Refusal :=
  s.onCore cell core fun d => (d.upset ups).planFetch cell core

/-- NOP (R67). -/
def execNop (cell : Nat) (core : Nat) (s : State) : Host.Outcome State Fault Refusal :=
  s.onCore cell core fun d => d.wNop cell core

/-- END (R75). -/
def execEndWord (cell : Nat) (core : Nat) (s : State) : Host.Outcome State Fault Refusal :=
  s.onCore cell core fun d => d.wEnd cell core

/-- CORE_DONE (R75). -/
def execCoreDone (cell : Nat) (core : Nat) (s : State) : Host.Outcome State Fault Refusal :=
  s.onCore cell core fun d => d.coreDone cell core

/-- LOOP (R71). -/
def execLoopWord (cell : Nat) (core : Nat) (s : State) : Host.Outcome State Fault Refusal :=
  s.onCore cell core fun d => d.wLoop cell core

/-- LOOP_BACK_EDGE (R71). -/
def execLoopBackEdge (cell : Nat) (core : Nat) (s : State) : Host.Outcome State Fault Refusal :=
  s.onCore cell core fun d => d.backEdge cell core

/-- SEED (R75). -/
def execSeedWord (cell : Nat) (core : Nat) (ups : List (Nat × Nat)) (s : State) : Host.Outcome State Fault Refusal :=
  s.onCore cell core fun d => (d.upset ups).wSeed cell core

/-- SEED_COMPLETE (R75). -/
def execSeedComplete (cell : Nat) (core : Nat) (s : State) : Host.Outcome State Fault Refusal :=
  s.onCore cell core fun d => d.seedDone cell core

/-- FLAGS (R75). -/
def execFlags (cell : Nat) (core : Nat) (s : State) : Host.Outcome State Fault Refusal :=
  s.onCore cell core fun d => d.wFlags cell core

/-- DCAP (R75). -/
def execDcap (cell : Nat) (core : Nat) (s : State) : Host.Outcome State Fault Refusal :=
  s.onCore cell core fun d => d.wDcap cell core

/-- LUTLD (R59). -/
def execLutld (cell : Nat) (core : Nat) (ups : List (Nat × Nat)) (s : State) : Host.Outcome State Fault Refusal :=
  s.onCore cell core fun d => (d.upset ups).wLutld cell core

/-- LUTLD_COMPLETE (R59). -/
def execLutldComplete (cell : Nat) (core : Nat) (s : State) : Host.Outcome State Fault Refusal :=
  s.onCore cell core fun d => d.lutDone cell core

/-- CSET (R69). -/
def execCset (cell : Nat) (core : Nat) (s : State) : Host.Outcome State Fault Refusal :=
  s.onCore cell core fun d => d.wCset cell core

/-- CALC (R69). -/
def execCalc (cell : Nat) (core : Nat) (s : State) : Host.Outcome State Fault Refusal :=
  s.onCore cell core fun d => d.wCalc cell core

/-- CMIN (R69). -/
def execCmin (cell : Nat) (core : Nat) (s : State) : Host.Outcome State Fault Refusal :=
  s.onCore cell core fun d => d.wCmin cell core

/-- CLOAD (R69). -/
def execCload (cell : Nat) (core : Nat) (ups : List (Nat × Nat)) (s : State) : Host.Outcome State Fault Refusal :=
  s.onCore cell core fun d => (d.upset ups).wCload cell core

/-- CSTORE (R69). -/
def execCstore (cell : Nat) (core : Nat) (ups : List (Nat × Nat)) (s : State) : Host.Outcome State Fault Refusal :=
  s.onCore cell core fun d => (d.upset ups).wCstore cell core

/-- ASET (R70). -/
def execAset (cell : Nat) (core : Nat) (s : State) : Host.Outcome State Fault Refusal :=
  s.onCore cell core fun d => d.wAset cell core

/-- AADD (R70). -/
def execAadd (cell : Nat) (core : Nat) (s : State) : Host.Outcome State Fault Refusal :=
  s.onCore cell core fun d => d.wAadd cell core

/-- MTA (R72). -/
def execMta (cell : Nat) (core : Nat) (s : State) : Host.Outcome State Fault Refusal :=
  s.onCore cell core fun d => d.wMta cell core

/-- MTB (R72). -/
def execMtb (cell : Nat) (core : Nat) (s : State) : Host.Outcome State Fault Refusal :=
  s.onCore cell core fun d => d.wMtb cell core

/-- MMA (R72). -/
def execMma (cell : Nat) (core : Nat) (ups : List (Nat × Nat)) (s : State) : Host.Outcome State Fault Refusal :=
  s.onCore cell core fun d => (d.upset ups).wMma cell core

/-- MMA_COMPLETE (R51). -/
def execMmaComplete (cell : Nat) (core : Nat) (ups : List (Nat × Nat)) (s : State) : Host.Outcome State Fault Refusal :=
  s.onCore cell core fun d => (d.upset ups).mmaDone cell core

/-- VLD (R73). -/
def execVld (cell : Nat) (core : Nat) (ups : List (Nat × Nat)) (s : State) : Host.Outcome State Fault Refusal :=
  s.onCore cell core fun d => (d.upset ups).wVld cell core

/-- VST (R73). -/
def execVst (cell : Nat) (core : Nat) (s : State) : Host.Outcome State Fault Refusal :=
  s.onCore cell core fun d => d.wVst cell core

/-- VACC (R73). -/
def execVacc (cell : Nat) (core : Nat) (s : State) : Host.Outcome State Fault Refusal :=
  s.onCore cell core fun d => d.wVacc cell core

/-- VOP (R73). -/
def execVop (cell : Nat) (core : Nat) (s : State) : Host.Outcome State Fault Refusal :=
  s.onCore cell core fun d => d.wVop cell core

/-- VCVT (R74). -/
def execVcvt (cell : Nat) (core : Nat) (ups : List (Nat × Nat)) (s : State) : Host.Outcome State Fault Refusal :=
  s.onCore cell core fun d => (d.upset ups).wVcvt cell core

/-- TWAIT (R77). -/
def execTwait (cell : Nat) (core : Nat) (s : State) : Host.Outcome State Fault Refusal :=
  s.onCore cell core fun d => d.wTwait cell core

/-- WSYNC (R77). -/
def execWsync (cell : Nat) (core : Nat) (s : State) : Host.Outcome State Fault Refusal :=
  s.onCore cell core fun d => d.wWsync cell core

/-- TADD (R76). -/
def execTadd (cell : Nat) (core : Nat) (s : State) : Host.Outcome State Fault Refusal :=
  s.onCore cell core fun d => d.wTadd cell core

/-- TSET (R76). -/
def execTset (cell : Nat) (core : Nat) (s : State) : Host.Outcome State Fault Refusal :=
  s.onCore cell core fun d => d.wTset cell core

/-- TRADD (R78). -/
def execTradd (cell : Nat) (core : Nat) (s : State) : Host.Outcome State Fault Refusal :=
  s.onCore cell core fun d => d.wTradd cell core

/-- TRADD_RELEASE (R78). -/
def execTraddRelease (cell : Nat) (core : Nat) (s : State) : Host.Outcome State Fault Refusal :=
  s.onCore cell core fun d => d.traddRelease cell core

/-- TCADD (R79). -/
def execTcadd (cell : Nat) (core : Nat) (s : State) : Host.Outcome State Fault Refusal :=
  s.onCore cell core fun d => d.wTcadd cell core

/-- CORE_WAIT_TIMEOUT (R77). -/
def execCoreWaitTimeout (cell : Nat) (core : Nat) (s : State) : Host.Outcome State Fault Refusal :=
  s.onCore cell core fun d => d.coreTimeout cell core

end Sys2Proof.Machine
end

