-- ==== Sys2Proof/Machine/CmdEngines.lean ====
section
/-!
DEFINITION. Meanings of the commands: tile engines and the homes of their requests.
-/
namespace Sys2Proof.Machine

/-- LIST_FETCH (R93). -/
def execListFetch (die : Nat) (eng : Nat) (ups : List (Nat × Nat)) (s : State) : Host.Outcome State Fault Refusal :=
  s.onCompute die fun d => (d.upset ups).listFetch die eng

/-- NOP_ENTRY (R95). -/
def execNopEntry (die : Nat) (eng : Nat) (s : State) : Host.Outcome State Fault Refusal :=
  s.onCompute die fun d => (d.entBegin die eng 0).engFollow die eng

/-- COPY (R95). -/
def execCopy (die : Nat) (eng : Nat) (s : State) : Host.Outcome State Fault Refusal :=
  s.onCompute die fun d => (d.entBegin die eng 1).engFollow die eng

/-- REDUCE (R100). -/
def execReduce (die : Nat) (eng : Nat) (s : State) : Host.Outcome State Fault Refusal :=
  s.onCompute die fun d => (d.entBegin die eng 2).engFollow die eng

/-- TADD_ENTRY (R95). -/
def execTaddEntry (die : Nat) (eng : Nat) (s : State) : Host.Outcome State Fault Refusal :=
  s.onCompute die fun d => (d.entBegin die eng 3).engFollow die eng

/-- END_ENTRY (R95). -/
def execEndEntry (die : Nat) (eng : Nat) (s : State) : Host.Outcome State Fault Refusal :=
  s.onCompute die fun d => (d.entBegin die eng 0xF).engFollow die eng

/-- TRANSACTION_ISSUE (R104). -/
def execTransactionIssue (die : Nat) (eng : Nat) (s : State) : Host.Outcome State Fault Refusal :=
  s.onCompute die fun d => (d.txnIssue die eng).engFollow die eng

/-- TRANSACTION_RESPONSE (R102). -/
def execTransactionResponse (place : Nat) (slice : Option (Nat × Nat)) (s : State) : Host.Outcome State Fault Refusal :=
  s.on fun d => d.homeResponse place slice

/-- ENGINE_RELEASE_ADD (R102). -/
def execEngineReleaseAdd (die : Nat) (eng : Nat) (s : State) : Host.Outcome State Fault Refusal :=
  s.onCompute die fun d => (d.engAdd die eng).engFollow die eng

/-- ENGINE_DONE (R95). -/
def execEngineDone (die : Nat) (eng : Nat) (s : State) : Host.Outcome State Fault Refusal :=
  s.onCompute die fun d => d.engDone die eng

/-- ENGINE_WAIT_TIMEOUT (R101). -/
def execEngineWaitTimeout (die : Nat) (eng : Nat) (s : State) : Host.Outcome State Fault Refusal :=
  s.onCompute die fun d => (d.engTimeout die eng).engFollow die eng

/-- ENGINE_START (R112). -/
def execEngineStart (die : Nat) (eng : Nat) (s : State) : Host.Outcome State Fault Refusal :=
  s.onCompute die fun d => d.engStart die eng

/-- ENGINE_ABORT (R112). -/
def execEngineAbort (die : Nat) (eng : Nat) (s : State) : Host.Outcome State Fault Refusal :=
  s.onCompute die fun d => (d.engAbort die eng).engFollow die eng

/-- ENGINE_RESUME (R111). -/
def execEngineResume (die : Nat) (eng : Nat) (s : State) : Host.Outcome State Fault Refusal :=
  s.onCompute die fun d => d.engResumeAll die eng

/-- ENGINE_DRAIN_COMPLETE (R112). -/
def execEngineDrainComplete (die : Nat) (eng : Nat) (s : State) : Host.Outcome State Fault Refusal :=
  s.onCompute die fun d => d.engDrained die eng

/-- HOME_REQUEST (R184). -/
def execHomeRequest (place : Nat) (ups : List (Nat × Nat)) (slice : Option (Nat × Nat)) (s : State) : Host.Outcome State Fault Refusal :=
  s.on fun d => d.homeRequest place ups slice

/-- MERGE_ENTRY_AGE_OUT (R222). -/
def execMergeEntryAgeOut (die : Nat) (bank : Nat) (ups : List (Nat × Nat)) (s : State) : Host.Outcome State Fault Refusal :=
  s.onCarrier die fun d => (d.upset ups).mergeAge die bank

/-- MERGE_WORD_WRITE (R222). -/
def execMergeWordWrite (die : Nat) (bank : Nat) (s : State) : Host.Outcome State Fault Refusal :=
  s.onCarrier die fun d => d.mergeWrite die bank

end Sys2Proof.Machine
end

