-- ==== Sys2Proof/Machine/CmdUnfold.lean ====
section
/-!
DEFINITION. Meanings of the commands: unfold engines.
-/
namespace Sys2Proof.Machine

/-- UNFOLD_CONTEXT_GRANT (R137). -/
def execUnfoldContextGrant (die : Nat) (unit : Nat) (s : State) : Host.Outcome State Fault Refusal :=
  s.onCompute die fun d => d.unfGrant die unit

/-- UNFOLD_INPUT_PARSE (R140). -/
def execUnfoldInputParse (die : Nat) (unit : Nat) (ctx : Nat) (s : State) : Host.Outcome State Fault Refusal :=
  s.onCompute die fun d => d.ctxFollow die unit ctx (d.unfParse die unit ctx)

/-- UNFOLD_OUTPUT_WALK (R139). -/
def execUnfoldOutputWalk (die : Nat) (unit : Nat) (s : State) : Host.Outcome State Fault Refusal :=
  s.onCompute die fun d => d.unfWalk die unit

/-- UNFOLD_ROW_COMPLETE (R138). -/
def execUnfoldRowComplete (die : Nat) (unit : Nat) (ctx : Nat) (s : State) : Host.Outcome State Fault Refusal :=
  s.onCompute die fun d => d.ctxFollow die unit ctx (d.unfRowDone die unit ctx)

end Sys2Proof.Machine
end

