-- ==== Sys2Proof/Machine/CmdDispatch.lean ====
section
/-!
DEFINITION. Meanings of the commands: the dispatch unit.
-/
namespace Sys2Proof.Machine

/-- DSP_STEP_FETCH (R146). -/
def execDspStepFetch (die : Nat) (ups : List (Nat × Nat)) (s : State) : Host.Outcome State Fault Refusal :=
  s.onCompute die fun d => (d.upset ups).dspFetch die

/-- STEP_NOP (R147). -/
def execStepNop (die : Nat) (s : State) : Host.Outcome State Fault Refusal :=
  s.onCompute die fun d => d.dspBegin die 0

/-- GATE (R151). -/
def execGate (die : Nat) (ups : List (Nat × Nat)) (s : State) : Host.Outcome State Fault Refusal :=
  s.onCompute die fun d => (d.upset ups).dspBegin die 1

/-- REPACK (R156). -/
def execRepack (die : Nat) (ups : List (Nat × Nat)) (s : State) : Host.Outcome State Fault Refusal :=
  s.onCompute die fun d => (d.upset ups).dspBegin die 2

/-- COMBINE (R157). -/
def execCombine (die : Nat) (ups : List (Nat × Nat)) (s : State) : Host.Outcome State Fault Refusal :=
  s.onCompute die fun d => (d.upset ups).dspBegin die 3

/-- STEP_END (R147). -/
def execStepEnd (die : Nat) (s : State) : Host.Outcome State Fault Refusal :=
  s.onCompute die fun d => d.dspBegin die 0xF

/-- DSP_RELEASE_ADD (R147). -/
def execDspReleaseAdd (die : Nat) (s : State) : Host.Outcome State Fault Refusal :=
  s.onCompute die fun d => d.dspAdd die

/-- DSP_WAIT_TIMEOUT (R147). -/
def execDspWaitTimeout (die : Nat) (s : State) : Host.Outcome State Fault Refusal :=
  s.onCompute die fun d => d.dspTimeout die

/-- DSP_START (R162). -/
def execDspStart (die : Nat) (s : State) : Host.Outcome State Fault Refusal :=
  s.onCompute die fun d => d.dspStart die

/-- DSP_ABORT (R162). -/
def execDspAbort (die : Nat) (s : State) : Host.Outcome State Fault Refusal :=
  s.onCompute die fun d => d.dspAbort die

/-- DSP_DRAIN_COMPLETE (R162). -/
def execDspDrainComplete (die : Nat) (s : State) : Host.Outcome State Fault Refusal :=
  s.onCompute die fun d => d.dspDrained die

end Sys2Proof.Machine
end

