-- ==== Sys2Proof/Machine/CmdTumblers.lean ====
section
/-!
DEFINITION. Meanings of the commands: tumblers and the control network.
-/
namespace Sys2Proof.Machine

/-- ADD (R170). -/
def execAdd (place : Nat) (noise : Bytes) (s : State) : Host.Outcome State Fault Refusal :=
  s.on fun d => d.ctlArrive place 1 noise

/-- SET (R170). -/
def execSetMsg (place : Nat) (noise : Bytes) (s : State) : Host.Outcome State Fault Refusal :=
  s.on fun d => d.ctlArrive place 2 noise

/-- RADD (R170). -/
def execRadd (place : Nat) (noise : Bytes) (s : State) : Host.Outcome State Fault Refusal :=
  s.on fun d => d.ctlArrive place 3 noise

/-- ARM (R171). -/
def execArm (place : Nat) (noise : Bytes) (s : State) : Host.Outcome State Fault Refusal :=
  s.on fun d => d.ctlArrive place 4 noise

/-- WITHDRAW (R170). -/
def execWithdraw (place : Nat) (noise : Bytes) (s : State) : Host.Outcome State Fault Refusal :=
  s.on fun d => d.ctlArrive place 5 noise

/-- CADD (R170). -/
def execCadd (place : Nat) (noise : Bytes) (s : State) : Host.Outcome State Fault Refusal :=
  s.on fun d => d.ctlArrive place 6 noise

/-- ACK (R170). -/
def execAck (place : Nat) (noise : Bytes) (s : State) : Host.Outcome State Fault Refusal :=
  s.on fun d => d.ctlArrive place 8 noise

/-- WAKE (R171). -/
def execWake (place : Nat) (noise : Bytes) (s : State) : Host.Outcome State Fault Refusal :=
  s.on fun d => d.ctlArrive place 9 noise

/-- CVAL (R170). -/
def execCval (place : Nat) (noise : Bytes) (s : State) : Host.Outcome State Fault Refusal :=
  s.on fun d => d.ctlArrive place 0xA noise

/-- EVENT (R170). -/
def execEvent (place : Nat) (noise : Bytes) (s : State) : Host.Outcome State Fault Refusal :=
  s.on fun d => d.ctlArrive place 0x10 noise

/-- BCAST (R179). -/
def execBcast (place : Nat) (noise : Bytes) (s : State) : Host.Outcome State Fault Refusal :=
  s.on fun d => d.ctlArrive place 0x11 noise

/-- TMB_VALUE_WRITE (R182). -/
def execTmbValueWrite (die : Nat) (value : Nat) (s : State) : Host.Outcome State Fault Refusal :=
  s.onCarrier die fun d => d.bankSet die (d.selOf .TMB_VALUE die 0) value

/-- TMB_ADD_WRITE (R182). -/
def execTmbAddWrite (die : Nat) (value : Nat) (s : State) : Host.Outcome State Fault Refusal :=
  s.onCarrier die fun d => d.bankAdd die (d.selOf .TMB_ADD die 0) value

/-- TMB_RANGE_WRITE (R169). -/
def execTmbRangeWrite (die : Nat) (home : Nat) (part : Nat) (value : Nat) (s : State) : Host.Outcome State Fault Refusal :=
  s.onCarrier die fun d => d.rangeWrite die (home * 64 + part) value

/-- BROADCAST_START (R179). -/
def execBroadcastStart (die : Nat) (s : State) : Host.Outcome State Fault Refusal :=
  s.onCarrier die fun d => d.bcastWrite die 1

/-- BROADCAST_ABORT (R179). -/
def execBroadcastAbort (die : Nat) (s : State) : Host.Outcome State Fault Refusal :=
  s.onCarrier die fun d => d.bcastWrite die 2

/-- STEWARD_WAIT_ARM (R180). -/
def execStewardWaitArm (die : Nat) (s : State) : Host.Outcome State Fault Refusal :=
  s.onCarrier die fun d => d.swCtlWrite die 1

/-- STEWARD_WAIT_WITHDRAW (R180). -/
def execStewardWaitWithdraw (die : Nat) (s : State) : Host.Outcome State Fault Refusal :=
  s.onCarrier die fun d => d.swCtlWrite die 2

end Sys2Proof.Machine
end

