-- ==== Sys2Proof/Machine/CmdHbm.lean ====
section
/-!
DEFINITION. Meanings of the commands: the HBM controllers.
-/
namespace Sys2Proof.Machine

/-- HBM_REQUEST_ADMIT (R207). -/
def execHbmRequestAdmit (die : Nat) (grp : Nat) (bkt : Nat) (cycles : Nat) (s : State) : Host.Outcome State Fault Refusal :=
  s.onCarrier die fun d => d.hbAdmit die grp bkt cycles

/-- HBM_READ_SERVE (R198). -/
def execHbmReadServe (die : Nat) (chan : Nat) (place : Nat) (ups : List (Nat × Nat)) (again : List (Nat × Nat)) (s : State) : Host.Outcome State Fault Refusal :=
  s.onCarrier die fun d => (d.upset ups).hbServe die chan place again

/-- HBM_WRITE_BATCH_DRAIN (R198). -/
def execHbmWriteBatchDrain (die : Nat) (chan : Nat) (s : State) : Host.Outcome State Fault Refusal :=
  s.onCarrier die fun d => d.wrDrain die chan

/-- ROW_CLOSE_TIMEOUT (R198). -/
def execRowCloseTimeout (die : Nat) (pc : Nat) (bank : Nat) (s : State) : Host.Outcome State Fault Refusal :=
  s.onCarrier die fun d => d.rowClose die pc bank

/-- HBM_REFRESH (R200). -/
def execHbmRefresh (die : Nat) (stack : Nat) (s : State) : Host.Outcome State Fault Refusal :=
  s.onKept die fun d => d.hbRefresh die stack

/-- HBM_TEMP_SAMPLE (R201). -/
def execHbmTempSample (die : Nat) (stack : Nat) (temp : Nat) (s : State) : Host.Outcome State Fault Refusal :=
  s.onKept die fun d => d.hbTemp die stack temp

/-- HBM_TRAIN (R202). -/
def execHbmTrain (die : Nat) (stack : Nat) (s : State) : Host.Outcome State Fault Refusal :=
  s.onCarrier die fun d => d.hbCtlWrite die stack 1

/-- HBM_SELFREF_ENTER (R210). -/
def execHbmSelfrefEnter (die : Nat) (stack : Nat) (s : State) : Host.Outcome State Fault Refusal :=
  s.onCarrier die fun d => d.hbCtlWrite die stack 2

/-- HBM_SELFREF_EXIT (R202). -/
def execHbmSelfrefExit (die : Nat) (stack : Nat) (s : State) : Host.Outcome State Fault Refusal :=
  s.onCarrier die fun d => d.hbCtlWrite die stack 3

/-- HBM_HOLD_DOWN (R210). -/
def execHbmHoldDown (die : Nat) (stack : Nat) (s : State) : Host.Outcome State Fault Refusal :=
  s.onCarrier die fun d => d.hbCtlWrite die stack 4

/-- HBM_TRAINING_COMPLETE (R202). -/
def execHbmTrainingComplete (die : Nat) (stack : Nat) (res : TrainRes) (s : State) : Host.Outcome State Fault Refusal :=
  s.onCarrier die fun d => d.trainDone die stack res

/-- HBM_RRATE_WRITE (R208). -/
def execHbmRrateWrite (die : Nat) (stack : Nat) (value : Nat) (s : State) : Host.Outcome State Fault Refusal :=
  s.onCarrier die fun d => d.rrateWrite die stack value

/-- MINBAND_WRITE (R208). -/
def execMinbandWrite (die : Nat) (stack : Nat) (band : Nat) (s : State) : Host.Outcome State Fault Refusal :=
  s.onCarrier die fun d => d.refctlWrite die stack (band + 2 ^ 8 * d.get F.HBM_REFCTL_STRETCH die stack)

/-- HBM_TMAXCLR (R210). -/
def execHbmTmaxclr (die : Nat) (stack : Nat) (s : State) : Host.Outcome State Fault Refusal :=
  s.onCarrier die fun d => d.hbTmaxClr die stack

/-- BLANK_CUT (R232). -/
def execBlankCut (die : Nat) (stack : Nat) (s : State) : Host.Outcome State Fault Refusal :=
  s.onCarrier die fun d => d.blankCut die stack

/-- BLANK_CUT_COMPLETE (R232). -/
def execBlankCutComplete (die : Nat) (stack : Nat) (s : State) : Host.Outcome State Fault Refusal :=
  s.onCarrier die fun d => d.blankCutDone die stack

/-- REGION_TO_NARROW (R218). -/
def execRegionToNarrow (die : Nat) (stack : Nat) (s : State) : Host.Outcome State Fault Refusal :=
  s.onCarrier die fun d => d.ncWrite die stack 1

/-- REGION_TO_WIDE (R218). -/
def execRegionToWide (die : Nat) (stack : Nat) (s : State) : Host.Outcome State Fault Refusal :=
  s.onCarrier die fun d => d.ncWrite die stack 2

/-- REGION_CONVERSION_COMPLETE (R218). -/
def execRegionConversionComplete (die : Nat) (s : State) : Host.Outcome State Fault Refusal :=
  s.onCarrier die fun d => d.ncDone die

end Sys2Proof.Machine
end

