-- ==== Sys2Proof/Machine/CmdProtect.lean ====
section
/-!
DEFINITION. Meanings of the commands: stored-data protection.
-/
namespace Sys2Proof.Machine

/-- SCRUB_READ (R228). -/
def execScrubRead (mem : Nat) (die : Nat) (unit : Nat) (ups : List (Nat × Nat)) (again : List (Nat × Nat)) (s : State) : Host.Outcome State Fault Refusal :=
  s.onCarrier die fun d => (d.upset ups).scrubRead mem die unit again

/-- SCRUB_WRITEBACK (R228). -/
def execScrubWriteback (place : Nat) (s : State) : Host.Outcome State Fault Refusal :=
  s.on fun d => d.scrubWback place

/-- CHECKER_SELF_TEST (R230). -/
def execCheckerSelfTest (mem : Nat) (die : Nat) (inst : Nat) (s : State) : Host.Outcome State Fault Refusal :=
  s.onCarrier die fun d => if mem == 2 && !d.computeUp die then d else d.stestRun mem die inst

/-- CHECKER_SELF_TEST_DONE (R230). -/
def execCheckerSelfTestDone (mem : Nat) (die : Nat) (inst : Nat) (pattern : Nat) (bad : List (Nat × Nat)) (s : State) : Host.Outcome State Fault Refusal :=
  s.onCarrier die fun d => d.stestDone mem die inst pattern bad

/-- SBF_ZFILL (R239). -/
def execSbfZfill (die : Nat) (mib : Nat) (s : State) : Host.Outcome State Fault Refusal :=
  s.onCarrier die fun d => d.zfillWrite die (mib + 2 ^ 9)

/-- SBF_ZFILL_DONE (R239). -/
def execSbfZfillDone (die : Nat) (s : State) : Host.Outcome State Fault Refusal :=
  s.onCarrier die fun d => d.zfillDone die

end Sys2Proof.Machine
end

