-- ==== Sys2Proof/Machine/CmdKeys.lean ====
section
/-!
DEFINITION. Meanings of the commands: the key ring.
-/
namespace Sys2Proof.Machine

/-- INSERT (R256). -/
def execInsert (die : Nat) (s : State) : Host.Outcome State Fault Refusal :=
  s.onCarrier die fun d => d.krgCmdWrite die 1

/-- MODIFY (R256). -/
def execModify (die : Nat) (s : State) : Host.Outcome State Fault Refusal :=
  s.onCarrier die fun d => d.krgCmdWrite die 2

/-- READ (R256). -/
def execReadEntry (die : Nat) (s : State) : Host.Outcome State Fault Refusal :=
  s.onCarrier die fun d => d.krgCmdWrite die 3

/-- REMOVE_UNUSED (R256). -/
def execRemoveUnused (die : Nat) (s : State) : Host.Outcome State Fault Refusal :=
  s.onCarrier die fun d => d.krgCmdWrite die 4

/-- KRG_COMMAND_DONE (R256). -/
def execKrgCommandDone (die : Nat) (s : State) : Host.Outcome State Fault Refusal :=
  s.onCarrier die fun d => d.krgDone die

/-- QUOTA_WRITE (R244). -/
def execQuotaWrite (die : Nat) (value : Nat) (s : State) : Host.Outcome State Fault Refusal :=
  s.onCarrier die fun d => d.writeGen ⟨.KRG_QUOTA, die, 0, d.selOf .KRG_QUOTA die 0⟩ value

/-- HOST_WINDOW_WRITE (R252). -/
def execHostWindowWrite (die : Nat) (word : Nat) (value : Nat) (s : State) : Host.Outcome State Fault Refusal :=
  s.onCarrier die fun d => d.hwWrite die (hwReg word) value

/-- REKEY_CUT (R260). -/
def execRekeyCut (die : Nat) (all : Bool) (s : State) : Host.Outcome State Fault Refusal :=
  s.onCarrier die fun d => d.rkctlWrite die (if all then 3 else 1)

/-- REKEY_DRAIN_END (R261). -/
def execRekeyDrainEnd (die : Nat) (ident : Nat) (s : State) : Host.Outcome State Fault Refusal :=
  s.onCarrier die fun d => d.rekeyDone die ident

/-- REKEY_TIMEOUT (R262). -/
def execRekeyTimeout (die : Nat) (ident : Nat) (s : State) : Host.Outcome State Fault Refusal :=
  s.onCarrier die fun d => d.rekeyTimeout die ident

end Sys2Proof.Machine
end

