-- ==== Sys2Proof/Machine/CmdHub.lean ====
section
/-!
DEFINITION. Meanings of the commands: the hub and the knuckles.
-/
namespace Sys2Proof.Machine

/-- HUB_DEADBOLT_SET (R271). -/
def execHubDeadboltSet (die : Nat) (s : State) : Host.Outcome State Fault Refusal :=
  s.onCarrier die fun d => d.hubDbWrite die 1

/-- HUB_DB_CLEAR (R292). -/
def execHubDbClear (die : Nat) (s : State) : Host.Outcome State Fault Refusal :=
  s.onCarrier die fun d => d.hubDbWrite die 0x100

/-- PORT_FENCE_WRITE (R272). -/
def execPortFenceWrite (die : Nat) (mask : Nat) (s : State) : Host.Outcome State Fault Refusal :=
  s.onCarrier die fun d => d.portFence die mask

/-- KMAP_EN_WRITE (R275). -/
def execKmapEnWrite (die : Nat) (en : Nat) (s : State) : Host.Outcome State Fault Refusal :=
  s.onCarrier die fun d => d.kmapWrite die (2 ^ 4 * en)

/-- MAP_UPDATE (R274). -/
def execMapUpdate (die : Nat) (knuckle : Nat) (pkts : List Nat) (msgs : List Nat) (s : State) : Host.Outcome State Fault Refusal :=
  s.onCarrier die fun d => d.mapUpdate die knuckle pkts msgs

/-- KNUCKLE_RECOVER (R281). -/
def execKnuckleRecover (die : Nat) (inst : Nat) (s : State) : Host.Outcome State Fault Refusal :=
  s.onKnuckleEnd die inst fun d => d.knkCtlWrite die inst 1

/-- KNUCKLE_FULL (R281). -/
def execKnuckleFull (die : Nat) (inst : Nat) (s : State) : Host.Outcome State Fault Refusal :=
  s.onKnuckleEnd die inst fun d => d.knkCtlWrite die inst 2

/-- KNUCKLE_HOLD (R284). -/
def execKnuckleHold (die : Nat) (inst : Nat) (s : State) : Host.Outcome State Fault Refusal :=
  s.onKnuckleEnd die inst fun d => d.knkCtlWrite die inst 3

/-- KNUCKLE_TRAINING_STEP_END (R281). -/
def execKnuckleTrainingStepEnd (knuckle : Nat) (near : KnkRes) (far : KnkRes) (s : State) : Host.Outcome State Fault Refusal :=
  s.onKnuckle knuckle fun d => d.knkStepEnd knuckle near far

/-- KNUCKLE_QUAL_END (R281). -/
def execKnuckleQualEnd (knuckle : Nat) (nearErrs : Nat) (farErrs : Nat) (s : State) : Host.Outcome State Fault Refusal :=
  s.onKnuckle knuckle fun d => d.knkQualEnd knuckle nearErrs farErrs

/-- KNUCKLE_FLIT_RECEIVE (R289). -/
def execKnuckleFlitReceive (die : Nat) (inst : Nat) (flit : Bytes) (s : State) : Host.Outcome State Fault Refusal :=
  s.onKnuckleEnd die inst fun d => d.knkFlit die inst flit

/-- KNUCKLE_NAK_REPEAT (R289). -/
def execKnuckleNakRepeat (die : Nat) (inst : Nat) (s : State) : Host.Outcome State Fault Refusal :=
  s.onKnuckleEnd die inst fun d => d.knkNakAgain die inst

/-- KNUCKLE_SIGNAL_LOSS (R290). -/
def execKnuckleSignalLoss (die : Nat) (inst : Nat) (s : State) : Host.Outcome State Fault Refusal :=
  s.onKnuckleEnd die inst fun d => d.knkSignalLoss die inst

end Sys2Proof.Machine
end

