-- ==== Sys2Proof/Machine/CmdSite.lean ====
section
/-!
DEFINITION. Meanings of the commands: the auxiliary site.
-/
namespace Sys2Proof.Machine

/-- SITE_TRAIN (R300). -/
def execSiteTrain (die : Nat) (s : State) : Host.Outcome State Fault Refusal :=
  s.onCarrier die fun d => d.auxCtlWrite die 1

/-- SITE_HOLD (R300). -/
def execSiteHold (die : Nat) (s : State) : Host.Outcome State Fault Refusal :=
  s.onCarrier die fun d => d.auxCtlWrite die 2

/-- SITE_BRINGUP_STEP_END (R300). -/
def execSiteBringupStepEnd (die : Nat) (res : SiteRes) (s : State) : Host.Outcome State Fault Refusal :=
  s.onCarrier die fun d => d.siteStepEnd die res

/-- SITE_FLIT_RECEIVE (R295). -/
def execSiteFlitReceive (die : Nat) (flit : Bytes) (s : State) : Host.Outcome State Fault Refusal :=
  s.onCarrier die fun d => d.siteFlit die flit

/-- SITE_REQUEST (R298). -/
def execSiteRequest (die : Nat) (s : State) : Host.Outcome State Fault Refusal :=
  s.onCarrier die fun d => d.siteRequest die

/-- SITE_TUMBLER_WRITE (R299). -/
def execSiteTumblerWrite (die : Nat) (s : State) : Host.Outcome State Fault Refusal :=
  s.onCarrier die fun d => d.siteAdd die

/-- SITE_REQUEST_TIMEOUT (R297). -/
def execSiteRequestTimeout (die : Nat) (s : State) : Host.Outcome State Fault Refusal :=
  s.onCarrier die fun d => d.windowTimeout die

/-- SITE_SIDEBAND_LOSS (R300). -/
def execSiteSidebandLoss (die : Nat) (s : State) : Host.Outcome State Fault Refusal :=
  s.onCarrier die fun d => d.siteSideband die

end Sys2Proof.Machine
end

