-- ==== Sys2Proof/Machine/CmdLanes.lean ====
section
/-!
DEFINITION. Meanings of the commands: serial lanes.
-/
namespace Sys2Proof.Machine

/-- LANE_TRAIN (R312). -/
def execLaneTrain (die : Nat) (lane : Nat) (s : State) : Host.Outcome State Fault Refusal :=
  s.onLane die lane fun d => d.laneCmdWrite die lane 1

/-- LANE_HOLD (R314). -/
def execLaneHold (die : Nat) (lane : Nat) (s : State) : Host.Outcome State Fault Refusal :=
  s.onLane die lane fun d => d.laneCmdWrite die lane 2

/-- LANE_SLEEP (R320). -/
def execLaneSleep (die : Nat) (lane : Nat) (s : State) : Host.Outcome State Fault Refusal :=
  s.onLane die lane fun d => d.laneCmdWrite die lane 3

/-- LANE_WAKE (R321). -/
def execLaneWake (die : Nat) (lane : Nat) (s : State) : Host.Outcome State Fault Refusal :=
  s.onLane die lane fun d => d.laneCmdWrite die lane 4

/-- LANE_TEST (R322). -/
def execLaneTest (die : Nat) (lane : Nat) (loop : Nat) (prbs : Nat) (s : State) : Host.Outcome State Fault Refusal :=
  s.onLane die lane fun d => d.laneTestWrite die lane loop prbs

/-- LANE_STATE_END (R312). -/
def execLaneStateEnd (die : Nat) (lane : Nat) (res : LaneRes) (s : State) : Host.Outcome State Fault Refusal :=
  s.onLane die lane fun d => d.laneStep die lane res

/-- LANE_TRAIN_TIMEOUT (R312). -/
def execLaneTrainTimeout (die : Nat) (lane : Nat) (s : State) : Host.Outcome State Fault Refusal :=
  s.onLane die lane fun d => d.laneTimeout die lane

/-- CODEWORD_RECEIVE (R310). -/
def execCodewordReceive (die : Nat) (lane : Nat) (syms : List Nat) (takes : List Nat) (s : State) : Host.Outcome State Fault Refusal :=
  s.onLane die lane fun d => d.codeword die lane syms takes

/-- ALIGN_LOCK (R309). -/
def execAlignLock (die : Nat) (lane : Nat) (hdrs : List Nat) (s : State) : Host.Outcome State Fault Refusal :=
  s.onLane die lane fun d => d.laneLock die lane hdrs

/-- ALIGN_RELOCK_TIMEOUT (R310). -/
def execAlignRelockTimeout (die : Nat) (lane : Nat) (s : State) : Host.Outcome State Fault Refusal :=
  s.onLane die lane fun d => d.laneRelock die lane

/-- PPM_MEASURE (R307). -/
def execPpmMeasure (die : Nat) (lane : Nat) (offs : Nat) (s : State) : Host.Outcome State Fault Refusal :=
  s.onLane die lane fun d => d.lanePpm die lane offs

/-- LOOP_TIMING_REQUEST (R308). -/
def execLoopTimingRequest (die : Nat) (lane : Nat) (s : State) : Host.Outcome State Fault Refusal :=
  s.onLane die lane fun d => d.laneLoopReq die lane

/-- FOM_REFRESH (R315). -/
def execFomRefresh (die : Nat) (lane : Nat) (eyes : List (Nat × Nat)) (s : State) : Host.Outcome State Fault Refusal :=
  s.onLane die lane fun d => d.laneFom die lane eyes

/-- ADAPT_STEP (R315). -/
def execAdaptStep (die : Nat) (lane : Nat) (ctle : Nat) (dfe1 : Nat) (fom : Nat) (s : State) : Host.Outcome State Fault Refusal :=
  s.onLane die lane fun d => d.laneAdaptStep die lane ctle dfe1 fom

/-- DOZE_ENTER (R316). -/
def execDozeEnter (die : Nat) (lane : Nat) (s : State) : Host.Outcome State Fault Refusal :=
  s.onLane die lane fun d => d.laneDoze die lane

/-- DOZE_EXIT (R317). -/
def execDozeExit (die : Nat) (lane : Nat) (s : State) : Host.Outcome State Fault Refusal :=
  s.onLane die lane fun d => d.laneUndoze die lane

/-- DOZE_REFRESH_WAKE (R317). -/
def execDozeRefreshWake (die : Nat) (lane : Nat) (s : State) : Host.Outcome State Fault Refusal :=
  s.onLane die lane fun d => d.laneRefresh die lane

/-- WAKE_LOCK_TIMEOUT (R317). -/
def execWakeLockTimeout (die : Nat) (lane : Nat) (s : State) : Host.Outcome State Fault Refusal :=
  s.onLane die lane fun d => d.laneWakeErr die lane

/-- SIGNAL_DETECT (R321). -/
def execSignalDetect (die : Nat) (lane : Nat) (s : State) : Host.Outcome State Fault Refusal :=
  s.onLane die lane fun d => d.laneDetect die lane

/-- LANE_WAKE_TIMEOUT (R321). -/
def execLaneWakeTimeout (die : Nat) (lane : Nat) (s : State) : Host.Outcome State Fault Refusal :=
  s.onLane die lane fun d => d.laneWakeFail die lane

/-- LOSS_OF_SIGNAL (R316). -/
def execLossOfSignal (die : Nat) (lane : Nat) (s : State) : Host.Outcome State Fault Refusal :=
  s.onLane die lane fun d => d.laneLos die lane

end Sys2Proof.Machine
end

