-- ==== Sys2Proof/Machine/CmdLinks.lean ====
section
/-!
DEFINITION. Meanings of the commands: package-link ports.
-/
namespace Sys2Proof.Machine

/-- PORT_TRAIN (R336). -/
def execPortTrain (port : Nat) (s : State) : Host.Outcome State Fault Refusal :=
  s.onPort port fun d => d.portCmdWrite port 1

/-- PORT_HOLD (R339). -/
def execPortHold (port : Nat) (s : State) : Host.Outcome State Fault Refusal :=
  s.onPort port fun d => d.portCmdWrite port 2

/-- PORT_QUAL_END (R338). -/
def execPortQualEnd (port : Nat) (s : State) : Host.Outcome State Fault Refusal :=
  s.onPort port fun d => d.portQualEnd port

/-- FRAME_RECEIVE (R333). -/
def execFrameReceive (port : Nat) (idx : Nat) (s : State) : Host.Outcome State Fault Refusal :=
  s.onPort port fun d => d.frameReceive port idx

/-- LINK_BLOCK_RECEIVE (R331). -/
def execLinkBlockReceive (port : Nat) (idx : Nat) (s : State) : Host.Outcome State Fault Refusal :=
  s.onPort port fun d => d.linkReceive port idx

/-- FRAME_LOSS_TIMEOUT (R331). -/
def execFrameLossTimeout (port : Nat) (s : State) : Host.Outcome State Fault Refusal :=
  s.onPort port fun d => d.frameLoss port

/-- FRAME_NAK_REPEAT (R333). -/
def execFrameNakRepeat (port : Nat) (s : State) : Host.Outcome State Fault Refusal :=
  s.onPort port fun d => d.nakRepeat port

/-- ACK_DUE (R333). -/
def execAckDue (port : Nat) (s : State) : Host.Outcome State Fault Refusal :=
  s.onPort port fun d => d.ackDue port

/-- ACK_TIMEOUT_REPLAY (R333). -/
def execAckTimeoutReplay (port : Nat) (s : State) : Host.Outcome State Fault Refusal :=
  s.onPort port fun d => d.ackTimeout port

/-- PORT_RETRAIN_COMPLETE (R334). -/
def execPortRetrainComplete (port : Nat) (s : State) : Host.Outcome State Fault Refusal :=
  s.onPort port fun d => d.retrainDone port

/-- PORT_DOZE_REQUEST (R335). -/
def execPortDozeRequest (port : Nat) (s : State) : Host.Outcome State Fault Refusal :=
  s.onPort port fun d => d.portDoze port

/-- PORT_SILENCE (R344). -/
def execPortSilence (port : Nat) (s : State) : Host.Outcome State Fault Refusal :=
  s.onPort port fun d => d.portSilence port

/-- LINK_REQUEST_ARRIVE (R341). -/
def execLinkRequestArrive (port : Nat) (s : State) : Host.Outcome State Fault Refusal :=
  s.onPort port fun d => d.linkRequest port

/-- LINK_RESPONSE_ARRIVE (R341). -/
def execLinkResponseArrive (port : Nat) (s : State) : Host.Outcome State Fault Refusal :=
  s.onPort port fun d => d.linkResponse port

/-- REMOTE_REQUEST_TIMEOUT (R342). -/
def execRemoteRequestTimeout (port : Nat) (tag : Nat) (s : State) : Host.Outcome State Fault Refusal :=
  s.onPort port fun d => d.remoteTimeout port tag

/-- ROUTE_WRITE (R340). -/
def execRouteWrite (die : Nat) (value : Nat) (s : State) : Host.Outcome State Fault Refusal :=
  s.onCarrier die fun d => d.routeWrite die value

/-- ROUTE_HOLD_CLEAR (R343). -/
def execRouteHoldClear (die : Nat) (pkg : Nat) (s : State) : Host.Outcome State Fault Refusal :=
  s.onCarrier die fun d => d.routeClear die pkg

end Sys2Proof.Machine
end

