-- ==== Sys2Proof/Machine/CmdEth.lean ====
section
/-!
DEFINITION. Meanings of the commands: Ethernet ports, queue pairs and the mailbox.
-/
namespace Sys2Proof.Machine

/-- ETH_PORT_TRAIN (R351). -/
def execEthPortTrain (die : Nat) (port : Nat) (s : State) : Host.Outcome State Fault Refusal :=
  s.onEth die port fun d => d.ethCmdWrite die port 1

/-- ETH_PORT_HOLD (R351). -/
def execEthPortHold (die : Nat) (port : Nat) (s : State) : Host.Outcome State Fault Refusal :=
  s.onEth die port fun d => d.ethCmdWrite die port 2

/-- ETH_LINKUP_STEP_END (R351). -/
def execEthLinkupStepEnd (die : Nat) (port : Nat) (resolved : Bool) (s : State) : Host.Outcome State Fault Refusal :=
  s.onEth die port fun d => d.ethStepEnd die port resolved

/-- ETH_AN_TIMEOUT (R351). -/
def execEthAnTimeout (die : Nat) (port : Nat) (s : State) : Host.Outcome State Fault Refusal :=
  s.onEth die port fun d => d.ethAnTimeout die port

/-- ETH_UP_TIMEOUT (R351). -/
def execEthUpTimeout (die : Nat) (port : Nat) (s : State) : Host.Outcome State Fault Refusal :=
  s.onEth die port fun d => d.ethUpTimeout die port

/-- ETH_PCS_LOCK_LOSS (R351). -/
def execEthPcsLockLoss (die : Nat) (port : Nat) (s : State) : Host.Outcome State Fault Refusal :=
  s.onEth die port fun d => d.ethLockLoss die port

/-- ETH_FRAME_RECEIVE (R352). -/
def execEthFrameReceive (die : Nat) (port : Nat) (frame : Bytes) (s : State) : Host.Outcome State Fault Refusal :=
  s.onEth die port fun d => d.ethReceive die port frame

/-- PFC_RECEIVE (R354). -/
def execPfcReceive (die : Nat) (port : Nat) (s : State) : Host.Outcome State Fault Refusal :=
  s.onEth die port fun d => d.pfcReceive die port

/-- PFC_REPEAT (R354). -/
def execPfcRepeat (die : Nat) (port : Nat) (prio : Nat) (s : State) : Host.Outcome State Fault Refusal :=
  s.onEth die port fun d => d.pfcRepeat die port prio

/-- PAUSE_EXPIRE (R354). -/
def execPauseExpire (die : Nat) (port : Nat) (prio : Nat) (s : State) : Host.Outcome State Fault Refusal :=
  s.onEth die port fun d => d.pauseExpire die port prio

/-- PFC_WATCHDOG (R355). -/
def execPfcWatchdog (die : Nat) (port : Nat) (prio : Nat) (s : State) : Host.Outcome State Fault Refusal :=
  s.onEth die port fun d => d.pfcWatchdog die port prio

/-- PFC_WATCHDOG_RESUME (R355). -/
def execPfcWatchdogResume (die : Nat) (port : Nat) (prio : Nat) (s : State) : Host.Outcome State Fault Refusal :=
  s.onEth die port fun d => d.pfcResume die port prio

/-- CNP_RECEIVE (R356). -/
def execCnpReceive (die : Nat) (port : Nat) (s : State) : Host.Outcome State Fault Refusal :=
  s.onEth die port fun d => d.cnpReceive die port

/-- CC_RATE_INCREASE (R356). -/
def execCcRateIncrease (qp : Nat) (s : State) : Host.Outcome State Fault Refusal :=
  s.onCarrier (qpDie qp) fun d => d.rateUp qp

/-- FRAME_EGRESS (R365). -/
def execFrameEgress (die : Nat) (port : Nat) (cls : Nat) (s : State) : Host.Outcome State Fault Refusal :=
  s.onEth die port fun d => d.ethEgress die port cls

/-- QP_STATE_WRITE (R357). -/
def execQpStateWrite (die : Nat) (want : Nat) (s : State) : Host.Outcome State Fault Refusal :=
  s.onCarrier die fun d => d.qpState die want

/-- RDMA_ACK_RECEIVE (R358). -/
def execRdmaAckReceive (die : Nat) (port : Nat) (s : State) : Host.Outcome State Fault Refusal :=
  s.onEth die port fun d => d.rdmaAck die port

/-- RDMA_NAK_RECEIVE (R358). -/
def execRdmaNakReceive (die : Nat) (port : Nat) (s : State) : Host.Outcome State Fault Refusal :=
  s.onEth die port fun d => d.rdmaNak die port

/-- RDMA_READ_RESPONSE (R358). -/
def execRdmaReadResponse (die : Nat) (port : Nat) (s : State) : Host.Outcome State Fault Refusal :=
  s.onEth die port fun d => d.rdmaReadRsp die port

/-- RDMA_RETRANSMIT_TIMEOUT (R358). -/
def execRdmaRetransmitTimeout (qp : Nat) (s : State) : Host.Outcome State Fault Refusal :=
  s.onCarrier (qpDie qp) fun d => d.qpTimeout qp

/-- RDMA_WRITE (R359). -/
def execRdmaWrite (die : Nat) (port : Nat) (s : State) : Host.Outcome State Fault Refusal :=
  s.onEth die port fun d => d.rdmaWrite die port

/-- RDMA_READ (R359). -/
def execRdmaRead (die : Nat) (port : Nat) (s : State) : Host.Outcome State Fault Refusal :=
  s.onEth die port fun d => d.rdmaRead die port

/-- SEND (R360). -/
def execSendIn (die : Nat) (port : Nat) (s : State) : Host.Outcome State Fault Refusal :=
  s.onEth die port fun d => d.rdmaSend die port

/-- MAILBOX_REQUEST (R363). -/
def execMailboxRequest (die : Nat) (port : Nat) (s : State) : Host.Outcome State Fault Refusal :=
  s.onEth die port fun d => d.mbxRequest die port

/-- REPLY_SEND (R369). -/
def execReplySend (by_ : Nat) (die : Nat) (len : Nat) (s : State) : Host.Outcome State Fault Refusal :=
  s.onCarrier die fun d => d.octlWrite die by_ (len + 2 ^ 16)

/-- EVENT_SEND (R370). -/
def execEventSend (by_ : Nat) (die : Nat) (sub : Nat) (len : Nat) (s : State) : Host.Outcome State Fault Refusal :=
  s.onCarrier die fun d => d.ectlWrite die by_ (len + 2 ^ 13 * sub + 2 ^ 16)

end Sys2Proof.Machine
end

