-- ==== Sys2Proof/Machine/CmdHelham.lean ====
section
/-!
DEFINITION. Meanings of the commands: the Helham command set and the election of the lead.
-/
namespace Sys2Proof.Machine

/-- IDENTIFY (R382). -/
def execIdentify (die : Nat) (n : Nat) (again : Bool) (s : State) : Host.Outcome State Fault Refusal :=
  s.onCarrier die fun d => d.helRun die n again cmdIdentify

/-- ATTEST (R382). -/
def execAttest (die : Nat) (n : Nat) (again : Bool) (s : State) : Host.Outcome State Fault Refusal :=
  s.onCarrier die fun d => d.helRun die n again cmdAttest

/-- SESSION_OPEN_STEP1 (R376). -/
def execSessionOpenStep1 (die : Nat) (n : Nat) (s : State) : Host.Outcome State Fault Refusal :=
  s.onCarrier die fun d => d.sessRun die n false

/-- SESSION_OPEN_STEP2 (R376). -/
def execSessionOpenStep2 (die : Nat) (n : Nat) (s : State) : Host.Outcome State Fault Refusal :=
  s.onCarrier die fun d => d.sessRun die n true

/-- SESSION_OPEN_TIMEOUT (R376). -/
def execSessionOpenTimeout (die : Nat) (n : Nat) (s : State) : Host.Outcome State Fault Refusal :=
  s.onCarrier die fun d => d.sessTimeout die n

/-- SESSION_CLOSE (R382). -/
def execSessionClose (die : Nat) (n : Nat) (again : Bool) (s : State) : Host.Outcome State Fault Refusal :=
  s.onCarrier die fun d => d.helRun die n again cmdClose

/-- POWER_SET (R408). -/
def execPowerSet (die : Nat) (n : Nat) (again : Bool) (ovr : Bool) (s : State) : Host.Outcome State Fault Refusal :=
  s.onCarrier die fun d => d.helRun die n again (cmdPower ovr)

/-- POWER_QUERY (R382). -/
def execPowerQuery (die : Nat) (n : Nat) (again : Bool) (s : State) : Host.Outcome State Fault Refusal :=
  s.onCarrier die fun d => d.helRun die n again cmdPowerQuery

/-- PARTITION_CREATE (R383). -/
def execPartitionCreate (die : Nat) (n : Nat) (again : Bool) (s : State) : Host.Outcome State Fault Refusal :=
  s.onCarrier die fun d => d.helRun die n again cmdCreate

/-- PARTITION_DESTROY (R383). -/
def execPartitionDestroy (die : Nat) (n : Nat) (again : Bool) (s : State) : Host.Outcome State Fault Refusal :=
  s.onCarrier die fun d => d.helRun die n again cmdDestroy

/-- PARTITION_RESET (R441). -/
def execPartitionReset (die : Nat) (n : Nat) (again : Bool) (s : State) : Host.Outcome State Fault Refusal :=
  s.onCarrier die fun d => d.helRun die n again cmdReset

/-- PARTITION_QUERY (R383). -/
def execPartitionQuery (die : Nat) (n : Nat) (again : Bool) (s : State) : Host.Outcome State Fault Refusal :=
  s.onCarrier die fun d => d.helRun die n again cmdPartQuery

/-- MAP_SYNC (R257). -/
def execMapSync (die : Nat) (n : Nat) (again : Bool) (s : State) : Host.Outcome State Fault Refusal :=
  s.onCarrier die fun d => d.helRun die n again cmdMapSync

/-- REKEY (R263). -/
def execRekey (die : Nat) (n : Nat) (again : Bool) (s : State) : Host.Outcome State Fault Refusal :=
  s.onCarrier die fun d => d.helRun die n again cmdRekey

/-- FAULT_RESUME (R259). -/
def execFaultResume (die : Nat) (n : Nat) (again : Bool) (s : State) : Host.Outcome State Fault Refusal :=
  s.onCarrier die fun d => d.helRun die n again cmdResume

/-- PLAN_LOAD (R384). -/
def execPlanLoad (die : Nat) (n : Nat) (again : Bool) (far : List Bytes) (s : State) : Host.Outcome State Fault Refusal :=
  s.onCarrier die fun d => d.helRun die n again (cmdLoad far)

/-- PLAN_START (R384). -/
def execPlanStart (die : Nat) (n : Nat) (again : Bool) (s : State) : Host.Outcome State Fault Refusal :=
  s.onCarrier die fun d => d.helRun die n again cmdStart

/-- PLAN_DONE (R384). -/
def execPlanDone (die : Nat) (n : Nat) (s : State) : Host.Outcome State Fault Refusal :=
  s.onCarrier die fun d => d.planDone die n

/-- PLAN_ABORT (R384). -/
def execPlanAbort (die : Nat) (n : Nat) (again : Bool) (s : State) : Host.Outcome State Fault Refusal :=
  s.onCarrier die fun d => d.helRun die n again cmdAbort

/-- PLAN_STATUS (R384). -/
def execPlanStatus (die : Nat) (n : Nat) (again : Bool) (s : State) : Host.Outcome State Fault Refusal :=
  s.onCarrier die fun d => d.helRun die n again cmdStatus

/-- FAULT_READ (R384). -/
def execFaultRead (die : Nat) (n : Nat) (again : Bool) (s : State) : Host.Outcome State Fault Refusal :=
  s.onCarrier die fun d => d.helRun die n again cmdFaultRead

/-- EVENT_SUBSCRIBE (R387). -/
def execEventSubscribe (die : Nat) (n : Nat) (again : Bool) (s : State) : Host.Outcome State Fault Refusal :=
  s.onCarrier die fun d => d.helRun die n again cmdSubscribe

/-- LINK_STATUS (R385). -/
def execLinkStatus (die : Nat) (n : Nat) (again : Bool) (s : State) : Host.Outcome State Fault Refusal :=
  s.onCarrier die fun d => d.helRun die n again cmdLinkStatus

/-- LINK_RETRAIN (R385). -/
def execLinkRetrain (die : Nat) (n : Nat) (again : Bool) (s : State) : Host.Outcome State Fault Refusal :=
  s.onCarrier die fun d => d.helRun die n again cmdLinkRetrain

/-- ROUTE_SET_ROUTES (R385). -/
def execRouteSetRoutes (die : Nat) (n : Nat) (s : State) : Host.Outcome State Fault Refusal :=
  s.onCarrier die fun d => d.routeRun die n false

/-- ROUTE_SET_KNUCKLES (R275). -/
def execRouteSetKnuckles (die : Nat) (n : Nat) (s : State) : Host.Outcome State Fault Refusal :=
  s.onCarrier die fun d => d.routeRun die n true

/-- MARGIN_REPORT (R462). -/
def execMarginReport (die : Nat) (n : Nat) (again : Bool) (s : State) : Host.Outcome State Fault Refusal :=
  s.onCarrier die fun d => d.helRun die n again cmdMarginReport

/-- MARGIN_APPLY (R463). -/
def execMarginApply (die : Nat) (n : Nat) (again : Bool) (s : State) : Host.Outcome State Fault Refusal :=
  s.onCarrier die fun d => d.helRun die n again cmdMarginApply

/-- FW_STAGE (R385). -/
def execFwStage (die : Nat) (n : Nat) (again : Bool) (s : State) : Host.Outcome State Fault Refusal :=
  s.onCarrier die fun d => d.helRun die n again cmdStage

/-- FW_COMMIT (R385). -/
def execFwCommit (die : Nat) (n : Nat) (again : Bool) (bad : Bool) (s : State) : Host.Outcome State Fault Refusal :=
  s.onCarrier die fun d => d.helRun die n again (cmdCommit bad)

/-- CORE_RETEST (R385). -/
def execCoreRetest (die : Nat) (n : Nat) (again : Bool) (pass : Bool) (s : State) : Host.Outcome State Fault Refusal :=
  s.onCarrier die fun d => d.helRun die n again (cmdRetest pass)

/-- SPARE_MAP (R385). -/
def execSpareMap (die : Nat) (n : Nat) (again : Bool) (s : State) : Host.Outcome State Fault Refusal :=
  s.onCarrier die fun d => d.helRun die n again cmdSpare

/-- MEMTEST (R430). -/
def execMemtest (die : Nat) (n : Nat) (again : Bool) (s : State) : Host.Outcome State Fault Refusal :=
  s.onCarrier die fun d => d.helRun die n again cmdMemtest

/-- BLANK_REPORT (R385). -/
def execBlankReport (die : Nat) (n : Nat) (again : Bool) (s : State) : Host.Outcome State Fault Refusal :=
  s.onCarrier die fun d => d.helRun die n again cmdBlank

/-- DEFERRED_COMMAND_RUN (R380). -/
def execDeferredCommandRun (die : Nat) (n : Nat) (ovr : Bool) (s : State) : Host.Outcome State Fault Refusal :=
  s.onCarrier die fun d => d.deferredRun die n ovr

/-- LEAD_HEARTBEAT (R373). -/
def execLeadHeartbeat (die : Nat) (s : State) : Host.Outcome State Fault Refusal :=
  s.onCarrier die fun d => d.heartbeat die

/-- ELECTION_START (R373). -/
def execElectionStart (die : Nat) (s : State) : Host.Outcome State Fault Refusal :=
  s.onCarrier die fun d => d.electionStart die

/-- ELECTION_PROPOSE (R373). -/
def execElectionPropose (die : Nat) (s : State) : Host.Outcome State Fault Refusal :=
  s.onCarrier die fun d => d.electionPropose die

/-- LEAD_ONLY_MESSAGE (R372). -/
def execLeadOnlyMessage (by_ : Nat) (die : Nat) (off : Nat) (value : Nat) (write : Bool) (s : State) : Host.Outcome State Fault Refusal :=
  s.onCarrier by_ fun d => d.leadMessage by_ die off value write

/-- LEAD_MESSAGE_TIMEOUT (R377). -/
def execLeadMessageTimeout (die : Nat) (n : Nat) (s : State) : Host.Outcome State Fault Refusal :=
  s.onCarrier die fun d => d.helTimeout die n

end Sys2Proof.Machine
end

