-- ==== Sys2Proof/Machine/CmdWard.lean ====
section
/-!
DEFINITION. Meanings of the commands: the Ward.
-/
namespace Sys2Proof.Machine

/-- NONCE_GET (R400). -/
def execNonceGet (die : Nat) (fails : Nat) (s : State) : Host.Outcome State Fault Refusal :=
  s.onCarrier die fun d => d.wardUpdate die 0 fails

/-- WARD_SET (R403). -/
def execWardSet (die : Nat) (fails : Nat) (s : State) : Host.Outcome State Fault Refusal :=
  s.onCarrier die fun d => d.wardUpdate die 1 fails

/-- HOST_KEY (R399). -/
def execHostKey (die : Nat) (fails : Nat) (s : State) : Host.Outcome State Fault Refusal :=
  s.onCarrier die fun d => d.wardUpdate die 2 fails

/-- PROVISION (R402). -/
def execProvision (die : Nat) (fails : Nat) (s : State) : Host.Outcome State Fault Refusal :=
  s.onCarrier die fun d => d.wardUpdate die 3 fails

/-- ROTATE (R402). -/
def execRotate (die : Nat) (fails : Nat) (s : State) : Host.Outcome State Fault Refusal :=
  s.onCarrier die fun d => d.wardUpdate die 4 fails

/-- ROLLBACK (R393). -/
def execRollback (die : Nat) (fails : Nat) (s : State) : Host.Outcome State Fault Refusal :=
  s.onCarrier die fun d => d.wardUpdate die 5 fails

/-- ROM_BOOT (R391). -/
def execRomBoot (die : Nat) (banks : List ((Nat × Nat) × Bytes)) (s : State) : Host.Outcome State Fault Refusal :=
  s.onCarrier die fun d => d.boot die banks

/-- BOOTLOCK_SET (R391). -/
def execBootlockSet (die : Nat) (s : State) : Host.Outcome State Fault Refusal :=
  s.onAon die fun d => d.bootLock die

/-- WARD_ATTEST (R395). -/
def execWardAttest (die : Nat) (s : State) : Host.Outcome State Fault Refusal :=
  s.onAon die fun d => d.opctlWrite die (1 + 2 ^ 4)

/-- WARD_KEYX (R395). -/
def execWardKeyx (die : Nat) (s : State) : Host.Outcome State Fault Refusal :=
  s.onAon die fun d => d.opctlWrite die (2 + 2 ^ 4)

/-- WARD_OP_COMPLETE (R395). -/
def execWardOpComplete (die : Nat) (s : State) : Host.Outcome State Fault Refusal :=
  s.onAon die fun d => d.wardOpDone die

/-- MEAS_EXTEND (R397). -/
def execMeasExtend (die : Nat) (s : State) : Host.Outcome State Fault Refusal :=
  s.onAon die fun d => d.measExtend die

/-- EPOCH_WRITE (R406). -/
def execEpochWrite (die : Nat) (value : Nat) (s : State) : Host.Outcome State Fault Refusal :=
  s.onAon die fun d => d.epochWrite die value

/-- WARD_DEBUG (R405). -/
def execWardDebug (die : Nat) (token : Bytes) (s : State) : Host.Outcome State Fault Refusal :=
  s.onAon die fun d => d.wardDebug die token

end Sys2Proof.Machine
end

