-- ==== Sys2Proof/Machine/CmdPower.lean ====
section
/-!
DEFINITION. Meanings of the commands: power, clocks, bring-up and the core image.
-/
namespace Sys2Proof.Machine

/-- POWER_SEQUENCER_GO (R415). -/
def execPowerSequencerGo (die : Nat) (target : Nat) (s : State) : Host.Outcome State Fault Refusal :=
  s.onAon die fun d => d.pdctlWrite die (target + 2 ^ 3)

/-- POWER_STEP_COMPLETE (R409). -/
def execPowerStepComplete (die : Nat) (fails : Nat) (repairs : List (List Bool)) (s : State) : Host.Outcome State Fault Refusal :=
  s.onAon die fun d => d.pwStep die fails repairs

/-- WAKE_REQUEST (R412). -/
def execWakeRequest (die : Nat) (s : State) : Host.Outcome State Fault Refusal :=
  s.onAon die fun d => d.wake die

/-- DIE_RESET (R470). -/
def execDieReset (die : Nat) (s : State) : Host.Outcome State Fault Refusal :=
  s.onAon die fun d => d.dieReset die

/-- POWER_GOOD_RISE (R470). -/
def execPowerGoodRise (die : Nat) (resetLow : Bool) (s : State) : Host.Outcome State Fault Refusal :=
  s.onDie die fun d => d.powerRise die resetLow

/-- POWER_GOOD_FALL (R470). -/
def execPowerGoodFall (die : Nat) (s : State) : Host.Outcome State Fault Refusal :=
  s.onDie die fun d => d.powerFall die

/-- JUNCTION_SAMPLE (R417). -/
def execJunctionSample (die : Nat) (tj : Nat) (s : State) : Host.Outcome State Fault Refusal :=
  s.onAon die fun d => d.tjSample die tj

/-- THROTTLE_STEP (R417). -/
def execThrottleStep (die : Nat) (cause : Nat) (s : State) : Host.Outcome State Fault Refusal :=
  s.onAon die fun d => d.thrStep die cause

/-- THROTTLE_RELEASE_STEP (R417). -/
def execThrottleReleaseStep (die : Nat) (cause : Nat) (s : State) : Host.Outcome State Fault Refusal :=
  s.onAon die fun d => d.thrRelease die cause

/-- POWER_FIGURE_EXCHANGE (R418). -/
def execPowerFigureExchange (die : Nat) (watts : Nat) (rails : List (Nat × Nat)) (arrived : Nat) (s : State) : Host.Outcome State Fault Refusal :=
  s.onAon die fun d => d.pwFigures die watts rails arrived

/-- THERMAL_TRIP (R419). -/
def execThermalTrip (die : Nat) (s : State) : Host.Outcome State Fault Refusal :=
  s.onAon die fun d => d.trip die

/-- RAIL_FAULT (R421). -/
def execRailFault (die : Nat) (rail : Nat) (s : State) : Host.Outcome State Fault Refusal :=
  s.onAon die fun d => d.railFault die rail

/-- REFCLK_LOSS (R422). -/
def execRefclkLoss (die : Nat) (s : State) : Host.Outcome State Fault Refusal :=
  s.onAon die fun d => d.refLoss die

/-- PLL_LOCK_LOSS (R422). -/
def execPllLockLoss (die : Nat) (pll : Nat) (s : State) : Host.Outcome State Fault Refusal :=
  s.onAon die fun d => d.pllLoss die pll

/-- SLOWCLK_LOSS (R423). -/
def execSlowclkLoss (die : Nat) (s : State) : Host.Outcome State Fault Refusal :=
  s.onAon die fun d => d.slowLoss die

/-- SLOWCLK_RESTORE (R423). -/
def execSlowclkRestore (die : Nat) (s : State) : Host.Outcome State Fault Refusal :=
  s.onAon die fun d => d.slowBack die

/-- MEMORY_TEST_PHASE_END (R430). -/
def execMemoryTestPhaseEnd (die : Nat) (rows : List (Nat × RowId)) (s : State) : Host.Outcome State Fault Refusal :=
  s.onCarrier die fun d => d.memPhase die rows

/-- B0OK_CLEAR (R429). -/
def execB0okClear (die : Nat) (s : State) : Host.Outcome State Fault Refusal :=
  s.onCarrier die fun d => d.b0okClear die

/-- CHUNK_SEND (R435). -/
def execChunkSend (die : Nat) (nchm1 : Nat) (chunk : Nat) (uni : Bool) (mask : Nat) (s : State) : Host.Outcome State Fault Refusal :=
  s.onCarrier die fun d => d.chunkSend die nchm1 chunk uni mask

/-- CHUNK_RECEIVE (R435). -/
def execChunkReceive (place : Nat) (noise : Bytes) (s : State) : Host.Outcome State Fault Refusal :=
  s.on fun d => d.chunkReceive place noise

end Sys2Proof.Machine
end

