-- ==== Sys2Proof/Machine/CmdFaults.lean ====
section
/-!
DEFINITION. Meanings of the commands: the fault queue, ageing, telemetry and the events of a block's own time.
-/
namespace Sys2Proof.Machine

/-- FAULT_POST (R479). -/
def execFaultPost (die : Nat) (s : State) : Host.Outcome State Fault Refusal :=
  s.onKept die fun d => d.fltPost die

/-- FAULT_POP (R451). -/
def execFaultPop (die : Nat) (count : Nat) (s : State) : Host.Outcome State Fault Refusal :=
  s.onKept die fun d => d.fltPop die count

/-- AGE_SAMPLE (R459). -/
def execAgeSample (die : Nat) (res : AgeRes) (s : State) : Host.Outcome State Fault Refusal :=
  s.onAon die fun d => d.ageSample die res

/-- AGE_SAMPLE_NOW (R461). -/
def execAgeSampleNow (die : Nat) (res : AgeRes) (s : State) : Host.Outcome State Fault Refusal :=
  s.onAon die fun d => d.ageNow die res

/-- MARGIN_EVALUATE (R460). -/
def execMarginEvaluate (die : Nat) (s : State) : Host.Outcome State Fault Refusal :=
  s.onCarrier die fun d => d.marginEval die

/-- I3C_PRIVATE_READ (R474). -/
def execI3cPrivateRead (die : Nat) (addr : Nat) (len : Nat) (s : State) : Host.Outcome State Fault Refusal :=
  s.onAon die fun d => d.i3cRead die addr len

/-- I3C_PRIVATE_WRITE (R474). -/
def execI3cPrivateWrite (die : Nat) (addr : Nat) (s : State) : Host.Outcome State Fault Refusal :=
  s.onAon die fun d => d.i3cWrite die addr

/-- I3C_CCC (R474). -/
def execI3cCcc (die : Nat) (code : Nat) (addr : Nat) (s : State) : Host.Outcome State Fault Refusal :=
  s.onAon die fun d => d.i3cCcc die code addr

/-- I3C_BLOCK_REFRESH (R474). -/
def execI3cBlockRefresh (die : Nat) (s : State) : Host.Outcome State Fault Refusal :=
  s.onAon die fun d => d.i3cRefresh die

/-- LOCAL_COUNTER_TICK (R423). -/
def execLocalCounterTick (die : Nat) (s : State) : Host.Outcome State Fault Refusal :=
  s.onAon die fun d => d.tickUp die

/-- BUILT_IN_SELF_TEST_END (R426). -/
def execBuiltInSelfTestEnd (die : Nat) (slices : Nat) (arrays : Bool) (s : State) : Host.Outcome State Fault Refusal :=
  s.onCarrier die fun d => d.bistEnd die slices arrays

/-- CHUNK_SEND_COMPLETE (R443). -/
def execChunkSendComplete (die : Nat) (s : State) : Host.Outcome State Fault Refusal :=
  s.onCarrier die fun d => d.chunkSent die

/-- EVENT_SEND_COMPLETE (R370). -/
def execEventSendComplete (die : Nat) (s : State) : Host.Outcome State Fault Refusal :=
  s.onCarrier die fun d => d.eventDone die

/-- PORT_SLEEP_WAIT_TIMEOUT (R413). -/
def execPortSleepWaitTimeout (port : Nat) (s : State) : Host.Outcome State Fault Refusal :=
  s.onPort port fun d => d.portSleepTimeout port

/-- WARD_RELAY_TIMEOUT (R400). -/
def execWardRelayTimeout (die : Nat) (s : State) : Host.Outcome State Fault Refusal :=
  s.onCarrier die fun d => d.wardTimeout die

end Sys2Proof.Machine
end

