-- ==== Sys2Proof/Machine/Dispatch.lean ====
section
/-!
DEFINITION. The meaning of every command: one direct call each.
-/
namespace Sys2Proof.Machine

/-- What a command does to everything but the queue. -/
def exec (i : Instr) (s : State) : Host.Outcome State Fault Refusal :=
  match i with
  | .registerWrite by_ die off value => Sys2Proof.Machine.execRegisterWrite by_ die off value s
  | .reg64LoRead by_ die off => Sys2Proof.Machine.execReg64LoRead by_ die off s
  | .reg64LoWrite by_ die off value => Sys2Proof.Machine.execReg64LoWrite by_ die off value s
  | .reg64HiWrite by_ die off value => Sys2Proof.Machine.execReg64HiWrite by_ die off value s
  | .controlAddressMiss by_ die off write => Sys2Proof.Machine.execControlAddressMiss by_ die off write s
  | .cellPark cell => Sys2Proof.Machine.execCellPark cell s
  | .cellUnpark cell => Sys2Proof.Machine.execCellUnpark cell s
  | .cellReset cell => Sys2Proof.Machine.execCellReset cell s
  | .cellResetComplete cell => Sys2Proof.Machine.execCellResetComplete cell s
  | .mapDataWrite die cdie value => Sys2Proof.Machine.execMapDataWrite die cdie value s
  | .deadboltSet die cdie => Sys2Proof.Machine.execDeadboltSet die cdie s
  | .dbClear die cdie => Sys2Proof.Machine.execDbClear die cdie s
  | .cellTestModeWrite cell test => Sys2Proof.Machine.execCellTestModeWrite cell test s
  | .loaderEnter die cdie mask => Sys2Proof.Machine.execLoaderEnter die cdie mask s
  | .planFetch cell core ups => Sys2Proof.Machine.execPlanFetch cell core ups s
  | .nop cell core => Sys2Proof.Machine.execNop cell core s
  | .endWord cell core => Sys2Proof.Machine.execEndWord cell core s
  | .coreDone cell core => Sys2Proof.Machine.execCoreDone cell core s
  | .loopWord cell core => Sys2Proof.Machine.execLoopWord cell core s
  | .loopBackEdge cell core => Sys2Proof.Machine.execLoopBackEdge cell core s
  | .seedWord cell core ups => Sys2Proof.Machine.execSeedWord cell core ups s
  | .seedComplete cell core => Sys2Proof.Machine.execSeedComplete cell core s
  | .flags cell core => Sys2Proof.Machine.execFlags cell core s
  | .dcap cell core => Sys2Proof.Machine.execDcap cell core s
  | .lutld cell core ups => Sys2Proof.Machine.execLutld cell core ups s
  | .lutldComplete cell core => Sys2Proof.Machine.execLutldComplete cell core s
  | .cset cell core => Sys2Proof.Machine.execCset cell core s
  | .calc cell core => Sys2Proof.Machine.execCalc cell core s
  | .cmin cell core => Sys2Proof.Machine.execCmin cell core s
  | .cload cell core ups => Sys2Proof.Machine.execCload cell core ups s
  | .cstore cell core ups => Sys2Proof.Machine.execCstore cell core ups s
  | .aset cell core => Sys2Proof.Machine.execAset cell core s
  | .aadd cell core => Sys2Proof.Machine.execAadd cell core s
  | .mta cell core => Sys2Proof.Machine.execMta cell core s
  | .mtb cell core => Sys2Proof.Machine.execMtb cell core s
  | .mma cell core ups => Sys2Proof.Machine.execMma cell core ups s
  | .mmaComplete cell core ups => Sys2Proof.Machine.execMmaComplete cell core ups s
  | .vld cell core ups => Sys2Proof.Machine.execVld cell core ups s
  | .vst cell core => Sys2Proof.Machine.execVst cell core s
  | .vacc cell core => Sys2Proof.Machine.execVacc cell core s
  | .vop cell core => Sys2Proof.Machine.execVop cell core s
  | .vcvt cell core ups => Sys2Proof.Machine.execVcvt cell core ups s
  | .twait cell core => Sys2Proof.Machine.execTwait cell core s
  | .wsync cell core => Sys2Proof.Machine.execWsync cell core s
  | .tadd cell core => Sys2Proof.Machine.execTadd cell core s
  | .tset cell core => Sys2Proof.Machine.execTset cell core s
  | .tradd cell core => Sys2Proof.Machine.execTradd cell core s
  | .traddRelease cell core => Sys2Proof.Machine.execTraddRelease cell core s
  | .tcadd cell core => Sys2Proof.Machine.execTcadd cell core s
  | .coreWaitTimeout cell core => Sys2Proof.Machine.execCoreWaitTimeout cell core s
  | .cellStart cell => Sys2Proof.Machine.execCellStart cell s
  | .cellAbort cell => Sys2Proof.Machine.execCellAbort cell s
  | .listFetch die eng ups => Sys2Proof.Machine.execListFetch die eng ups s
  | .nopEntry die eng => Sys2Proof.Machine.execNopEntry die eng s
  | .copy die eng => Sys2Proof.Machine.execCopy die eng s
  | .reduce die eng => Sys2Proof.Machine.execReduce die eng s
  | .taddEntry die eng => Sys2Proof.Machine.execTaddEntry die eng s
  | .endEntry die eng => Sys2Proof.Machine.execEndEntry die eng s
  | .transactionIssue die eng => Sys2Proof.Machine.execTransactionIssue die eng s
  | .transactionResponse place slice => Sys2Proof.Machine.execTransactionResponse place slice s
  | .engineReleaseAdd die eng => Sys2Proof.Machine.execEngineReleaseAdd die eng s
  | .engineDone die eng => Sys2Proof.Machine.execEngineDone die eng s
  | .engineWaitTimeout die eng => Sys2Proof.Machine.execEngineWaitTimeout die eng s
  | .engineStart die eng => Sys2Proof.Machine.execEngineStart die eng s
  | .engineAbort die eng => Sys2Proof.Machine.execEngineAbort die eng s
  | .engineResume die eng => Sys2Proof.Machine.execEngineResume die eng s
  | .engineDrainComplete die eng => Sys2Proof.Machine.execEngineDrainComplete die eng s
  | .homeRequest place ups slice => Sys2Proof.Machine.execHomeRequest place ups slice s
  | .mergeEntryAgeOut die bank ups => Sys2Proof.Machine.execMergeEntryAgeOut die bank ups s
  | .mergeWordWrite die bank => Sys2Proof.Machine.execMergeWordWrite die bank s
  | .unfoldContextGrant die unit => Sys2Proof.Machine.execUnfoldContextGrant die unit s
  | .unfoldInputParse die unit ctx => Sys2Proof.Machine.execUnfoldInputParse die unit ctx s
  | .unfoldOutputWalk die unit => Sys2Proof.Machine.execUnfoldOutputWalk die unit s
  | .unfoldRowComplete die unit ctx => Sys2Proof.Machine.execUnfoldRowComplete die unit ctx s
  | .dspStepFetch die ups => Sys2Proof.Machine.execDspStepFetch die ups s
  | .stepNop die => Sys2Proof.Machine.execStepNop die s
  | .gate die ups => Sys2Proof.Machine.execGate die ups s
  | .repack die ups => Sys2Proof.Machine.execRepack die ups s
  | .combine die ups => Sys2Proof.Machine.execCombine die ups s
  | .stepEnd die => Sys2Proof.Machine.execStepEnd die s
  | .dspReleaseAdd die => Sys2Proof.Machine.execDspReleaseAdd die s
  | .dspWaitTimeout die => Sys2Proof.Machine.execDspWaitTimeout die s
  | .dspStart die => Sys2Proof.Machine.execDspStart die s
  | .dspAbort die => Sys2Proof.Machine.execDspAbort die s
  | .dspDrainComplete die => Sys2Proof.Machine.execDspDrainComplete die s
  | .add place noise => Sys2Proof.Machine.execAdd place noise s
  | .setMsg place noise => Sys2Proof.Machine.execSetMsg place noise s
  | .radd place noise => Sys2Proof.Machine.execRadd place noise s
  | .arm place noise => Sys2Proof.Machine.execArm place noise s
  | .withdraw place noise => Sys2Proof.Machine.execWithdraw place noise s
  | .cadd place noise => Sys2Proof.Machine.execCadd place noise s
  | .ack place noise => Sys2Proof.Machine.execAck place noise s
  | .wake place noise => Sys2Proof.Machine.execWake place noise s
  | .cval place noise => Sys2Proof.Machine.execCval place noise s
  | .event place noise => Sys2Proof.Machine.execEvent place noise s
  | .bcast place noise => Sys2Proof.Machine.execBcast place noise s
  | .tmbValueWrite die value => Sys2Proof.Machine.execTmbValueWrite die value s
  | .tmbAddWrite die value => Sys2Proof.Machine.execTmbAddWrite die value s
  | .tmbRangeWrite die home part value => Sys2Proof.Machine.execTmbRangeWrite die home part value s
  | .broadcastStart die => Sys2Proof.Machine.execBroadcastStart die s
  | .broadcastAbort die => Sys2Proof.Machine.execBroadcastAbort die s
  | .stewardWaitArm die => Sys2Proof.Machine.execStewardWaitArm die s
  | .stewardWaitWithdraw die => Sys2Proof.Machine.execStewardWaitWithdraw die s
  | .stewardMemoryAccess die gpa len write data answer ups again => Sys2Proof.Machine.execStewardMemoryAccess die gpa len write data answer ups again s
  | .stewardFence die => Sys2Proof.Machine.execStewardFence die s
  | .hbmRequestAdmit die grp bkt cycles => Sys2Proof.Machine.execHbmRequestAdmit die grp bkt cycles s
  | .hbmReadServe die chan place ups again => Sys2Proof.Machine.execHbmReadServe die chan place ups again s
  | .hbmWriteBatchDrain die chan => Sys2Proof.Machine.execHbmWriteBatchDrain die chan s
  | .rowCloseTimeout die pc bank => Sys2Proof.Machine.execRowCloseTimeout die pc bank s
  | .hbmRefresh die stack => Sys2Proof.Machine.execHbmRefresh die stack s
  | .hbmTempSample die stack temp => Sys2Proof.Machine.execHbmTempSample die stack temp s
  | .hbmTrain die stack => Sys2Proof.Machine.execHbmTrain die stack s
  | .hbmSelfrefEnter die stack => Sys2Proof.Machine.execHbmSelfrefEnter die stack s
  | .hbmSelfrefExit die stack => Sys2Proof.Machine.execHbmSelfrefExit die stack s
  | .hbmHoldDown die stack => Sys2Proof.Machine.execHbmHoldDown die stack s
  | .hbmTrainingComplete die stack res => Sys2Proof.Machine.execHbmTrainingComplete die stack res s
  | .hbmRrateWrite die stack value => Sys2Proof.Machine.execHbmRrateWrite die stack value s
  | .minbandWrite die stack band => Sys2Proof.Machine.execMinbandWrite die stack band s
  | .hbmTmaxclr die stack => Sys2Proof.Machine.execHbmTmaxclr die stack s
  | .blankCut die stack => Sys2Proof.Machine.execBlankCut die stack s
  | .blankCutComplete die stack => Sys2Proof.Machine.execBlankCutComplete die stack s
  | .regionToNarrow die stack => Sys2Proof.Machine.execRegionToNarrow die stack s
  | .regionToWide die stack => Sys2Proof.Machine.execRegionToWide die stack s
  | .regionConversionComplete die => Sys2Proof.Machine.execRegionConversionComplete die s
  | .scrubRead mem die unit ups again => Sys2Proof.Machine.execScrubRead mem die unit ups again s
  | .scrubWriteback place => Sys2Proof.Machine.execScrubWriteback place s
  | .checkerSelfTest mem die inst => Sys2Proof.Machine.execCheckerSelfTest mem die inst s
  | .checkerSelfTestDone mem die inst pattern bad => Sys2Proof.Machine.execCheckerSelfTestDone mem die inst pattern bad s
  | .sbfZfill die mib => Sys2Proof.Machine.execSbfZfill die mib s
  | .sbfZfillDone die => Sys2Proof.Machine.execSbfZfillDone die s
  | .insert die => Sys2Proof.Machine.execInsert die s
  | .modify die => Sys2Proof.Machine.execModify die s
  | .readEntry die => Sys2Proof.Machine.execReadEntry die s
  | .removeUnused die => Sys2Proof.Machine.execRemoveUnused die s
  | .krgCommandDone die => Sys2Proof.Machine.execKrgCommandDone die s
  | .quotaWrite die value => Sys2Proof.Machine.execQuotaWrite die value s
  | .hostWindowWrite die word value => Sys2Proof.Machine.execHostWindowWrite die word value s
  | .rekeyCut die all => Sys2Proof.Machine.execRekeyCut die all s
  | .rekeyDrainEnd die ident => Sys2Proof.Machine.execRekeyDrainEnd die ident s
  | .rekeyTimeout die ident => Sys2Proof.Machine.execRekeyTimeout die ident s
  | .hubDeadboltSet die => Sys2Proof.Machine.execHubDeadboltSet die s
  | .hubDbClear die => Sys2Proof.Machine.execHubDbClear die s
  | .portFenceWrite die mask => Sys2Proof.Machine.execPortFenceWrite die mask s
  | .kmapEnWrite die en => Sys2Proof.Machine.execKmapEnWrite die en s
  | .mapUpdate die knuckle pkts msgs => Sys2Proof.Machine.execMapUpdate die knuckle pkts msgs s
  | .knuckleRecover die inst => Sys2Proof.Machine.execKnuckleRecover die inst s
  | .knuckleFull die inst => Sys2Proof.Machine.execKnuckleFull die inst s
  | .knuckleHold die inst => Sys2Proof.Machine.execKnuckleHold die inst s
  | .knuckleTrainingStepEnd knuckle near far => Sys2Proof.Machine.execKnuckleTrainingStepEnd knuckle near far s
  | .knuckleQualEnd knuckle nearErrs farErrs => Sys2Proof.Machine.execKnuckleQualEnd knuckle nearErrs farErrs s
  | .knuckleFlitReceive die inst flit => Sys2Proof.Machine.execKnuckleFlitReceive die inst flit s
  | .knuckleNakRepeat die inst => Sys2Proof.Machine.execKnuckleNakRepeat die inst s
  | .knuckleSignalLoss die inst => Sys2Proof.Machine.execKnuckleSignalLoss die inst s
  | .siteTrain die => Sys2Proof.Machine.execSiteTrain die s
  | .siteHold die => Sys2Proof.Machine.execSiteHold die s
  | .siteBringupStepEnd die res => Sys2Proof.Machine.execSiteBringupStepEnd die res s
  | .siteFlitReceive die flit => Sys2Proof.Machine.execSiteFlitReceive die flit s
  | .siteRequest die => Sys2Proof.Machine.execSiteRequest die s
  | .siteTumblerWrite die => Sys2Proof.Machine.execSiteTumblerWrite die s
  | .siteRequestTimeout die => Sys2Proof.Machine.execSiteRequestTimeout die s
  | .siteSidebandLoss die => Sys2Proof.Machine.execSiteSidebandLoss die s
  | .laneTrain die lane => Sys2Proof.Machine.execLaneTrain die lane s
  | .laneHold die lane => Sys2Proof.Machine.execLaneHold die lane s
  | .laneSleep die lane => Sys2Proof.Machine.execLaneSleep die lane s
  | .laneWake die lane => Sys2Proof.Machine.execLaneWake die lane s
  | .laneTest die lane loop prbs => Sys2Proof.Machine.execLaneTest die lane loop prbs s
  | .laneStateEnd die lane res => Sys2Proof.Machine.execLaneStateEnd die lane res s
  | .laneTrainTimeout die lane => Sys2Proof.Machine.execLaneTrainTimeout die lane s
  | .codewordReceive die lane syms takes => Sys2Proof.Machine.execCodewordReceive die lane syms takes s
  | .alignLock die lane hdrs => Sys2Proof.Machine.execAlignLock die lane hdrs s
  | .alignRelockTimeout die lane => Sys2Proof.Machine.execAlignRelockTimeout die lane s
  | .ppmMeasure die lane offs => Sys2Proof.Machine.execPpmMeasure die lane offs s
  | .loopTimingRequest die lane => Sys2Proof.Machine.execLoopTimingRequest die lane s
  | .fomRefresh die lane eyes => Sys2Proof.Machine.execFomRefresh die lane eyes s
  | .adaptStep die lane ctle dfe1 fom => Sys2Proof.Machine.execAdaptStep die lane ctle dfe1 fom s
  | .dozeEnter die lane => Sys2Proof.Machine.execDozeEnter die lane s
  | .dozeExit die lane => Sys2Proof.Machine.execDozeExit die lane s
  | .dozeRefreshWake die lane => Sys2Proof.Machine.execDozeRefreshWake die lane s
  | .wakeLockTimeout die lane => Sys2Proof.Machine.execWakeLockTimeout die lane s
  | .signalDetect die lane => Sys2Proof.Machine.execSignalDetect die lane s
  | .laneWakeTimeout die lane => Sys2Proof.Machine.execLaneWakeTimeout die lane s
  | .lossOfSignal die lane => Sys2Proof.Machine.execLossOfSignal die lane s
  | .portTrain port => Sys2Proof.Machine.execPortTrain port s
  | .portHold port => Sys2Proof.Machine.execPortHold port s
  | .portQualEnd port => Sys2Proof.Machine.execPortQualEnd port s
  | .frameReceive port idx => Sys2Proof.Machine.execFrameReceive port idx s
  | .linkBlockReceive port idx => Sys2Proof.Machine.execLinkBlockReceive port idx s
  | .frameLossTimeout port => Sys2Proof.Machine.execFrameLossTimeout port s
  | .frameNakRepeat port => Sys2Proof.Machine.execFrameNakRepeat port s
  | .ackDue port => Sys2Proof.Machine.execAckDue port s
  | .ackTimeoutReplay port => Sys2Proof.Machine.execAckTimeoutReplay port s
  | .portRetrainComplete port => Sys2Proof.Machine.execPortRetrainComplete port s
  | .portDozeRequest port => Sys2Proof.Machine.execPortDozeRequest port s
  | .portSilence port => Sys2Proof.Machine.execPortSilence port s
  | .linkRequestArrive port => Sys2Proof.Machine.execLinkRequestArrive port s
  | .linkResponseArrive port => Sys2Proof.Machine.execLinkResponseArrive port s
  | .remoteRequestTimeout port tag => Sys2Proof.Machine.execRemoteRequestTimeout port tag s
  | .routeWrite die value => Sys2Proof.Machine.execRouteWrite die value s
  | .routeHoldClear die pkg => Sys2Proof.Machine.execRouteHoldClear die pkg s
  | .ethPortTrain die port => Sys2Proof.Machine.execEthPortTrain die port s
  | .ethPortHold die port => Sys2Proof.Machine.execEthPortHold die port s
  | .ethLinkupStepEnd die port resolved => Sys2Proof.Machine.execEthLinkupStepEnd die port resolved s
  | .ethAnTimeout die port => Sys2Proof.Machine.execEthAnTimeout die port s
  | .ethUpTimeout die port => Sys2Proof.Machine.execEthUpTimeout die port s
  | .ethPcsLockLoss die port => Sys2Proof.Machine.execEthPcsLockLoss die port s
  | .ethFrameReceive die port frame => Sys2Proof.Machine.execEthFrameReceive die port frame s
  | .pfcReceive die port => Sys2Proof.Machine.execPfcReceive die port s
  | .pfcRepeat die port prio => Sys2Proof.Machine.execPfcRepeat die port prio s
  | .pauseExpire die port prio => Sys2Proof.Machine.execPauseExpire die port prio s
  | .pfcWatchdog die port prio => Sys2Proof.Machine.execPfcWatchdog die port prio s
  | .pfcWatchdogResume die port prio => Sys2Proof.Machine.execPfcWatchdogResume die port prio s
  | .cnpReceive die port => Sys2Proof.Machine.execCnpReceive die port s
  | .ccRateIncrease qp => Sys2Proof.Machine.execCcRateIncrease qp s
  | .frameEgress die port cls => Sys2Proof.Machine.execFrameEgress die port cls s
  | .qpStateWrite die want => Sys2Proof.Machine.execQpStateWrite die want s
  | .rdmaAckReceive die port => Sys2Proof.Machine.execRdmaAckReceive die port s
  | .rdmaNakReceive die port => Sys2Proof.Machine.execRdmaNakReceive die port s
  | .rdmaReadResponse die port => Sys2Proof.Machine.execRdmaReadResponse die port s
  | .rdmaRetransmitTimeout qp => Sys2Proof.Machine.execRdmaRetransmitTimeout qp s
  | .rdmaWrite die port => Sys2Proof.Machine.execRdmaWrite die port s
  | .rdmaRead die port => Sys2Proof.Machine.execRdmaRead die port s
  | .sendIn die port => Sys2Proof.Machine.execSendIn die port s
  | .mailboxRequest die port => Sys2Proof.Machine.execMailboxRequest die port s
  | .replySend by_ die len => Sys2Proof.Machine.execReplySend by_ die len s
  | .eventSend by_ die sub len => Sys2Proof.Machine.execEventSend by_ die sub len s
  | .identify die n again => Sys2Proof.Machine.execIdentify die n again s
  | .attest die n again => Sys2Proof.Machine.execAttest die n again s
  | .sessionOpenStep1 die n => Sys2Proof.Machine.execSessionOpenStep1 die n s
  | .sessionOpenStep2 die n => Sys2Proof.Machine.execSessionOpenStep2 die n s
  | .sessionOpenTimeout die n => Sys2Proof.Machine.execSessionOpenTimeout die n s
  | .sessionClose die n again => Sys2Proof.Machine.execSessionClose die n again s
  | .powerSet die n again ovr => Sys2Proof.Machine.execPowerSet die n again ovr s
  | .powerQuery die n again => Sys2Proof.Machine.execPowerQuery die n again s
  | .partitionCreate die n again => Sys2Proof.Machine.execPartitionCreate die n again s
  | .partitionDestroy die n again => Sys2Proof.Machine.execPartitionDestroy die n again s
  | .partitionReset die n again => Sys2Proof.Machine.execPartitionReset die n again s
  | .partitionQuery die n again => Sys2Proof.Machine.execPartitionQuery die n again s
  | .mapSync die n again => Sys2Proof.Machine.execMapSync die n again s
  | .rekey die n again => Sys2Proof.Machine.execRekey die n again s
  | .faultResume die n again => Sys2Proof.Machine.execFaultResume die n again s
  | .planLoad die n again far => Sys2Proof.Machine.execPlanLoad die n again far s
  | .planStart die n again => Sys2Proof.Machine.execPlanStart die n again s
  | .planDone die n => Sys2Proof.Machine.execPlanDone die n s
  | .planAbort die n again => Sys2Proof.Machine.execPlanAbort die n again s
  | .planStatus die n again => Sys2Proof.Machine.execPlanStatus die n again s
  | .faultRead die n again => Sys2Proof.Machine.execFaultRead die n again s
  | .eventSubscribe die n again => Sys2Proof.Machine.execEventSubscribe die n again s
  | .linkStatus die n again => Sys2Proof.Machine.execLinkStatus die n again s
  | .linkRetrain die n again => Sys2Proof.Machine.execLinkRetrain die n again s
  | .routeSetRoutes die n => Sys2Proof.Machine.execRouteSetRoutes die n s
  | .routeSetKnuckles die n => Sys2Proof.Machine.execRouteSetKnuckles die n s
  | .marginReport die n again => Sys2Proof.Machine.execMarginReport die n again s
  | .marginApply die n again => Sys2Proof.Machine.execMarginApply die n again s
  | .fwStage die n again => Sys2Proof.Machine.execFwStage die n again s
  | .fwCommit die n again bad => Sys2Proof.Machine.execFwCommit die n again bad s
  | .coreRetest die n again pass => Sys2Proof.Machine.execCoreRetest die n again pass s
  | .spareMap die n again => Sys2Proof.Machine.execSpareMap die n again s
  | .memtest die n again => Sys2Proof.Machine.execMemtest die n again s
  | .blankReport die n again => Sys2Proof.Machine.execBlankReport die n again s
  | .deferredCommandRun die n ovr => Sys2Proof.Machine.execDeferredCommandRun die n ovr s
  | .leadHeartbeat die => Sys2Proof.Machine.execLeadHeartbeat die s
  | .electionStart die => Sys2Proof.Machine.execElectionStart die s
  | .electionPropose die => Sys2Proof.Machine.execElectionPropose die s
  | .leadOnlyMessage by_ die off value write => Sys2Proof.Machine.execLeadOnlyMessage by_ die off value write s
  | .leadMessageTimeout die n => Sys2Proof.Machine.execLeadMessageTimeout die n s
  | .nonceGet die fails => Sys2Proof.Machine.execNonceGet die fails s
  | .wardSet die fails => Sys2Proof.Machine.execWardSet die fails s
  | .hostKey die fails => Sys2Proof.Machine.execHostKey die fails s
  | .provision die fails => Sys2Proof.Machine.execProvision die fails s
  | .rotate die fails => Sys2Proof.Machine.execRotate die fails s
  | .rollback die fails => Sys2Proof.Machine.execRollback die fails s
  | .romBoot die banks => Sys2Proof.Machine.execRomBoot die banks s
  | .bootlockSet die => Sys2Proof.Machine.execBootlockSet die s
  | .wardAttest die => Sys2Proof.Machine.execWardAttest die s
  | .wardKeyx die => Sys2Proof.Machine.execWardKeyx die s
  | .wardOpComplete die => Sys2Proof.Machine.execWardOpComplete die s
  | .measExtend die => Sys2Proof.Machine.execMeasExtend die s
  | .epochWrite die value => Sys2Proof.Machine.execEpochWrite die value s
  | .wardDebug die token => Sys2Proof.Machine.execWardDebug die token s
  | .powerSequencerGo die target => Sys2Proof.Machine.execPowerSequencerGo die target s
  | .powerStepComplete die fails repairs => Sys2Proof.Machine.execPowerStepComplete die fails repairs s
  | .wakeRequest die => Sys2Proof.Machine.execWakeRequest die s
  | .dieReset die => Sys2Proof.Machine.execDieReset die s
  | .powerGoodRise die resetLow => Sys2Proof.Machine.execPowerGoodRise die resetLow s
  | .powerGoodFall die => Sys2Proof.Machine.execPowerGoodFall die s
  | .junctionSample die tj => Sys2Proof.Machine.execJunctionSample die tj s
  | .throttleStep die cause => Sys2Proof.Machine.execThrottleStep die cause s
  | .throttleReleaseStep die cause => Sys2Proof.Machine.execThrottleReleaseStep die cause s
  | .powerFigureExchange die watts rails arrived => Sys2Proof.Machine.execPowerFigureExchange die watts rails arrived s
  | .thermalTrip die => Sys2Proof.Machine.execThermalTrip die s
  | .railFault die rail => Sys2Proof.Machine.execRailFault die rail s
  | .refclkLoss die => Sys2Proof.Machine.execRefclkLoss die s
  | .pllLockLoss die pll => Sys2Proof.Machine.execPllLockLoss die pll s
  | .slowclkLoss die => Sys2Proof.Machine.execSlowclkLoss die s
  | .slowclkRestore die => Sys2Proof.Machine.execSlowclkRestore die s
  | .memoryTestPhaseEnd die rows => Sys2Proof.Machine.execMemoryTestPhaseEnd die rows s
  | .b0okClear die => Sys2Proof.Machine.execB0okClear die s
  | .chunkSend die nchm1 chunk uni mask => Sys2Proof.Machine.execChunkSend die nchm1 chunk uni mask s
  | .chunkReceive place noise => Sys2Proof.Machine.execChunkReceive place noise s
  | .faultPost die => Sys2Proof.Machine.execFaultPost die s
  | .faultPop die count => Sys2Proof.Machine.execFaultPop die count s
  | .ageSample die res => Sys2Proof.Machine.execAgeSample die res s
  | .ageSampleNow die res => Sys2Proof.Machine.execAgeSampleNow die res s
  | .marginEvaluate die => Sys2Proof.Machine.execMarginEvaluate die s
  | .i3cPrivateRead die addr len => Sys2Proof.Machine.execI3cPrivateRead die addr len s
  | .i3cPrivateWrite die addr => Sys2Proof.Machine.execI3cPrivateWrite die addr s
  | .i3cCcc die code addr => Sys2Proof.Machine.execI3cCcc die code addr s
  | .i3cBlockRefresh die => Sys2Proof.Machine.execI3cBlockRefresh die s
  | .localCounterTick die => Sys2Proof.Machine.execLocalCounterTick die s
  | .builtInSelfTestEnd die slices arrays => Sys2Proof.Machine.execBuiltInSelfTestEnd die slices arrays s
  | .chunkSendComplete die => Sys2Proof.Machine.execChunkSendComplete die s
  | .eventSendComplete die => Sys2Proof.Machine.execEventSendComplete die s
  | .portSleepWaitTimeout port => Sys2Proof.Machine.execPortSleepWaitTimeout port s
  | .wardRelayTimeout die => Sys2Proof.Machine.execWardRelayTimeout die s

end Sys2Proof.Machine
end

