-- ==== Sys2Proof/Machine/Step.lean ====
section
/-!
DEFINITION. A step of the machine: the oldest waiting command is carried out.
-/
namespace Sys2Proof.Machine

/-- The command at the front of the queue acts on the machine with the rest of the queue; with none waiting the package idles (log entry
1). -/
def step (s : State) : Host.Outcome State Fault Refusal :=
  match s.pending with
  | [] => .next s
  | c :: cs => exec c { s with pending := cs }

/-- The machine with the command that a word spells at the front of its queue; a word that spells none changes nothing. -/
def State.withFetchWord (s : State) (nbits w : Nat) : State :=
  match Sys2Proof.decodeTableWord nbits w with
  | some c => { s with pending := c :: s.pending }
  | none => s

end Sys2Proof.Machine
end

