-- ==== Sys2Proof/WellFormed.lean ====
section
/-!
DEFINITION. The operands that a command admits: each number within the range of what it names. What the meanings do outside it is of no account.
-/
namespace Sys2Proof

/-- Every operand lies in its range. -/
def Instr.wf : Instr → Bool
  | .registerWrite by_ die _ value => decide (by_ < 4) && decide (die < 4) && decide (value < 2 ^ 32)
  | .reg64LoRead by_ die _ => decide (by_ < 4) && decide (die < 4)
  | .reg64LoWrite by_ die _ value => decide (by_ < 4) && decide (die < 4) && decide (value < 2 ^ 32)
  | .reg64HiWrite by_ die _ value => decide (by_ < 4) && decide (die < 4) && decide (value < 2 ^ 32)
  | .controlAddressMiss by_ die _ _ => decide (by_ < 4) && decide (die < 4)
  | .cellPark cell => decide (cell < 48)
  | .cellUnpark cell => decide (cell < 48)
  | .cellReset cell => decide (cell < 48)
  | .cellResetComplete cell => decide (cell < 48)
  | .mapDataWrite die cdie value => decide (die < 4) && decide (cdie < 3) && decide (value < 2 ^ 32)
  | .deadboltSet die cdie => decide (die < 4) && decide (cdie < 3)
  | .dbClear die cdie => decide (die < 4) && decide (cdie < 3)
  | .cellTestModeWrite cell _ => decide (cell < 48)
  | .loaderEnter die cdie mask => decide (die < 4) && decide (cdie < 3) && decide (mask < 16)
  | .planFetch cell core _ => decide (cell < 48) && decide (core < 136)
  | .nop cell core => decide (cell < 48) && decide (core < 136)
  | .endWord cell core => decide (cell < 48) && decide (core < 136)
  | .coreDone cell core => decide (cell < 48) && decide (core < 136)
  | .loopWord cell core => decide (cell < 48) && decide (core < 136)
  | .loopBackEdge cell core => decide (cell < 48) && decide (core < 136)
  | .seedWord cell core _ => decide (cell < 48) && decide (core < 136)
  | .seedComplete cell core => decide (cell < 48) && decide (core < 136)
  | .flags cell core => decide (cell < 48) && decide (core < 136)
  | .dcap cell core => decide (cell < 48) && decide (core < 136)
  | .lutld cell core _ => decide (cell < 48) && decide (core < 136)
  | .lutldComplete cell core => decide (cell < 48) && decide (core < 136)
  | .cset cell core => decide (cell < 48) && decide (core < 136)
  | .calc cell core => decide (cell < 48) && decide (core < 136)
  | .cmin cell core => decide (cell < 48) && decide (core < 136)
  | .cload cell core _ => decide (cell < 48) && decide (core < 136)
  | .cstore cell core _ => decide (cell < 48) && decide (core < 136)
  | .aset cell core => decide (cell < 48) && decide (core < 136)
  | .aadd cell core => decide (cell < 48) && decide (core < 136)
  | .mta cell core => decide (cell < 48) && decide (core < 136)
  | .mtb cell core => decide (cell < 48) && decide (core < 136)
  | .mma cell core _ => decide (cell < 48) && decide (core < 136)
  | .mmaComplete cell core _ => decide (cell < 48) && decide (core < 136)
  | .vld cell core _ => decide (cell < 48) && decide (core < 136)
  | .vst cell core => decide (cell < 48) && decide (core < 136)
  | .vacc cell core => decide (cell < 48) && decide (core < 136)
  | .vop cell core => decide (cell < 48) && decide (core < 136)
  | .vcvt cell core _ => decide (cell < 48) && decide (core < 136)
  | .twait cell core => decide (cell < 48) && decide (core < 136)
  | .wsync cell core => decide (cell < 48) && decide (core < 136)
  | .tadd cell core => decide (cell < 48) && decide (core < 136)
  | .tset cell core => decide (cell < 48) && decide (core < 136)
  | .tradd cell core => decide (cell < 48) && decide (core < 136)
  | .traddRelease cell core => decide (cell < 48) && decide (core < 136)
  | .tcadd cell core => decide (cell < 48) && decide (core < 136)
  | .coreWaitTimeout cell core => decide (cell < 48) && decide (core < 136)
  | .cellStart cell => decide (cell < 48)
  | .cellAbort cell => decide (cell < 48)
  | .listFetch die eng _ => decide (die < 4) && decide (eng < 64)
  | .nopEntry die eng => decide (die < 4) && decide (eng < 64)
  | .copy die eng => decide (die < 4) && decide (eng < 64)
  | .reduce die eng => decide (die < 4) && decide (eng < 64)
  | .taddEntry die eng => decide (die < 4) && decide (eng < 64)
  | .endEntry die eng => decide (die < 4) && decide (eng < 64)
  | .transactionIssue die eng => decide (die < 4) && decide (eng < 64)
  | .transactionResponse _ _ => true
  | .engineReleaseAdd die eng => decide (die < 4) && decide (eng < 64)
  | .engineDone die eng => decide (die < 4) && decide (eng < 64)
  | .engineWaitTimeout die eng => decide (die < 4) && decide (eng < 64)
  | .engineStart die eng => decide (die < 4) && decide (eng < 64)
  | .engineAbort die eng => decide (die < 4) && decide (eng < 64)
  | .engineResume die eng => decide (die < 4) && decide (eng < 64)
  | .engineDrainComplete die eng => decide (die < 4) && decide (eng < 64)
  | .homeRequest _ _ _ => true
  | .mergeEntryAgeOut die bank _ => decide (die < 4) && decide (bank < 256)
  | .mergeWordWrite die bank => decide (die < 4) && decide (bank < 256)
  | .unfoldContextGrant die unit => decide (die < 4) && decide (unit < 24)
  | .unfoldInputParse die unit ctx => decide (die < 4) && decide (unit < 24) && decide (ctx < 4)
  | .unfoldOutputWalk die unit => decide (die < 4) && decide (unit < 24)
  | .unfoldRowComplete die unit ctx => decide (die < 4) && decide (unit < 24) && decide (ctx < 4)
  | .dspStepFetch die _ => decide (die < 4)
  | .stepNop die => decide (die < 4)
  | .gate die _ => decide (die < 4)
  | .repack die _ => decide (die < 4)
  | .combine die _ => decide (die < 4)
  | .stepEnd die => decide (die < 4)
  | .dspReleaseAdd die => decide (die < 4)
  | .dspWaitTimeout die => decide (die < 4)
  | .dspStart die => decide (die < 4)
  | .dspAbort die => decide (die < 4)
  | .dspDrainComplete die => decide (die < 4)
  | .add _ _ => true
  | .setMsg _ _ => true
  | .radd _ _ => true
  | .arm _ _ => true
  | .withdraw _ _ => true
  | .cadd _ _ => true
  | .ack _ _ => true
  | .wake _ _ => true
  | .cval _ _ => true
  | .event _ _ => true
  | .bcast _ _ => true
  | .tmbValueWrite die value => decide (die < 4) && decide (value < 2 ^ 32)
  | .tmbAddWrite die value => decide (die < 4) && decide (value < 2 ^ 32)
  | .tmbRangeWrite die home part value => decide (die < 4) && decide (home < 4) && decide (part < 64) && decide (value < 2 ^ 32)
  | .broadcastStart die => decide (die < 4)
  | .broadcastAbort die => decide (die < 4)
  | .stewardWaitArm die => decide (die < 4)
  | .stewardWaitWithdraw die => decide (die < 4)
  | .stewardMemoryAccess die gpa len _ _ _ _ _ => decide (die < 4) && decide (gpa < 2 ^ 60) && decide (len < 65)
  | .stewardFence die => decide (die < 4)
  | .hbmRequestAdmit die grp bkt _ => decide (die < 4) && decide (grp < 16) && decide (bkt < 50)
  | .hbmReadServe die chan _ _ _ => decide (die < 4) && decide (chan < 128)
  | .hbmWriteBatchDrain die chan => decide (die < 4) && decide (chan < 128)
  | .rowCloseTimeout die pc bank => decide (die < 4) && decide (pc < 256) && decide (bank < 64)
  | .hbmRefresh die stack => decide (die < 4) && decide (stack < 4)
  | .hbmTempSample die stack temp => decide (die < 4) && decide (stack < 4) && decide (temp < 256)
  | .hbmTrain die stack => decide (die < 4) && decide (stack < 4)
  | .hbmSelfrefEnter die stack => decide (die < 4) && decide (stack < 4)
  | .hbmSelfrefExit die stack => decide (die < 4) && decide (stack < 4)
  | .hbmHoldDown die stack => decide (die < 4) && decide (stack < 4)
  | .hbmTrainingComplete die stack _ => decide (die < 4) && decide (stack < 4)
  | .hbmRrateWrite die stack value => decide (die < 4) && decide (stack < 4) && decide (value < 2 ^ 32)
  | .minbandWrite die stack band => decide (die < 4) && decide (stack < 4) && decide (band < 4)
  | .hbmTmaxclr die stack => decide (die < 4) && decide (stack < 4)
  | .blankCut die stack => decide (die < 4) && decide (stack < 4)
  | .blankCutComplete die stack => decide (die < 4) && decide (stack < 4)
  | .regionToNarrow die stack => decide (die < 4) && decide (stack < 4)
  | .regionToWide die stack => decide (die < 4) && decide (stack < 4)
  | .regionConversionComplete die => decide (die < 4)
  | .scrubRead mem die _ _ _ => decide (mem < 3) && decide (die < 4)
  | .scrubWriteback _ => true
  | .checkerSelfTest mem die inst => decide (mem < 3) && decide (die < 4) && decide (inst < 4)
  | .checkerSelfTestDone mem die inst pattern _ => decide (mem < 3) && decide (die < 4) && decide (inst < 4) && decide (pattern < 256)
  | .sbfZfill die mib => decide (die < 4) && decide (mib < 512)
  | .sbfZfillDone die => decide (die < 4)
  | .insert die => decide (die < 4)
  | .modify die => decide (die < 4)
  | .readEntry die => decide (die < 4)
  | .removeUnused die => decide (die < 4)
  | .krgCommandDone die => decide (die < 4)
  | .quotaWrite die value => decide (die < 4) && decide (value < 2 ^ 32)
  | .hostWindowWrite die word value => decide (die < 4) && decide (word < 5) && decide (value < 2 ^ 32)
  | .rekeyCut die _ => decide (die < 4)
  | .rekeyDrainEnd die ident => decide (die < 4) && decide (ident < 64)
  | .rekeyTimeout die ident => decide (die < 4) && decide (ident < 64)
  | .hubDeadboltSet die => decide (die < 4)
  | .hubDbClear die => decide (die < 4)
  | .portFenceWrite die mask => decide (die < 4) && decide (mask < 2 ^ 40)
  | .kmapEnWrite die en => decide (die < 4) && decide (en < 16)
  | .mapUpdate die knuckle _ _ => decide (die < 4) && decide (knuckle < 4)
  | .knuckleRecover die inst => decide (die < 4) && decide (inst < 2)
  | .knuckleFull die inst => decide (die < 4) && decide (inst < 2)
  | .knuckleHold die inst => decide (die < 4) && decide (inst < 2)
  | .knuckleTrainingStepEnd knuckle _ _ => decide (knuckle < 4)
  | .knuckleQualEnd knuckle _ _ => decide (knuckle < 4)
  | .knuckleFlitReceive die inst _ => decide (die < 4) && decide (inst < 2)
  | .knuckleNakRepeat die inst => decide (die < 4) && decide (inst < 2)
  | .knuckleSignalLoss die inst => decide (die < 4) && decide (inst < 2)
  | .siteTrain die => decide (die < 4)
  | .siteHold die => decide (die < 4)
  | .siteBringupStepEnd die _ => decide (die < 4)
  | .siteFlitReceive die _ => decide (die < 4)
  | .siteRequest die => decide (die < 4)
  | .siteTumblerWrite die => decide (die < 4)
  | .siteRequestTimeout die => decide (die < 4)
  | .siteSidebandLoss die => decide (die < 4)
  | .laneTrain die lane => decide (die < 4) && decide (lane < 21)
  | .laneHold die lane => decide (die < 4) && decide (lane < 21)
  | .laneSleep die lane => decide (die < 4) && decide (lane < 21)
  | .laneWake die lane => decide (die < 4) && decide (lane < 21)
  | .laneTest die lane loop prbs => decide (die < 4) && decide (lane < 21) && decide (loop < 4) && decide (prbs < 2)
  | .laneStateEnd die lane _ => decide (die < 4) && decide (lane < 21)
  | .laneTrainTimeout die lane => decide (die < 4) && decide (lane < 21)
  | .codewordReceive die lane _ _ => decide (die < 4) && decide (lane < 21)
  | .alignLock die lane _ => decide (die < 4) && decide (lane < 21)
  | .alignRelockTimeout die lane => decide (die < 4) && decide (lane < 21)
  | .ppmMeasure die lane offs => decide (die < 4) && decide (lane < 21) && decide (offs < 65536)
  | .loopTimingRequest die lane => decide (die < 4) && decide (lane < 21)
  | .fomRefresh die lane _ => decide (die < 4) && decide (lane < 21)
  | .adaptStep die lane ctle dfe1 fom => decide (die < 4) && decide (lane < 21) && decide (ctle < 32) && decide (dfe1 < 128) && decide (fom < 256)
  | .dozeEnter die lane => decide (die < 4) && decide (lane < 21)
  | .dozeExit die lane => decide (die < 4) && decide (lane < 21)
  | .dozeRefreshWake die lane => decide (die < 4) && decide (lane < 21)
  | .wakeLockTimeout die lane => decide (die < 4) && decide (lane < 21)
  | .signalDetect die lane => decide (die < 4) && decide (lane < 21)
  | .laneWakeTimeout die lane => decide (die < 4) && decide (lane < 21)
  | .lossOfSignal die lane => decide (die < 4) && decide (lane < 21)
  | .portTrain port => decide (port < 16)
  | .portHold port => decide (port < 16)
  | .portQualEnd port => decide (port < 16)
  | .frameReceive port idx => decide (port < 16) && decide (idx < 4)
  | .linkBlockReceive port idx => decide (port < 16) && decide (idx < 4)
  | .frameLossTimeout port => decide (port < 16)
  | .frameNakRepeat port => decide (port < 16)
  | .ackDue port => decide (port < 16)
  | .ackTimeoutReplay port => decide (port < 16)
  | .portRetrainComplete port => decide (port < 16)
  | .portDozeRequest port => decide (port < 16)
  | .portSilence port => decide (port < 16)
  | .linkRequestArrive port => decide (port < 16)
  | .linkResponseArrive port => decide (port < 16)
  | .remoteRequestTimeout port _ => decide (port < 16)
  | .routeWrite die value => decide (die < 4) && decide (value < 2 ^ 32)
  | .routeHoldClear die pkg => decide (die < 4) && decide (pkg < 4096)
  | .ethPortTrain die port => decide (die < 4) && decide (port < 2)
  | .ethPortHold die port => decide (die < 4) && decide (port < 2)
  | .ethLinkupStepEnd die port _ => decide (die < 4) && decide (port < 2)
  | .ethAnTimeout die port => decide (die < 4) && decide (port < 2)
  | .ethUpTimeout die port => decide (die < 4) && decide (port < 2)
  | .ethPcsLockLoss die port => decide (die < 4) && decide (port < 2)
  | .ethFrameReceive die port _ => decide (die < 4) && decide (port < 2)
  | .pfcReceive die port => decide (die < 4) && decide (port < 2)
  | .pfcRepeat die port prio => decide (die < 4) && decide (port < 2) && decide (prio < 8)
  | .pauseExpire die port prio => decide (die < 4) && decide (port < 2) && decide (prio < 8)
  | .pfcWatchdog die port prio => decide (die < 4) && decide (port < 2) && decide (prio < 8)
  | .pfcWatchdogResume die port prio => decide (die < 4) && decide (port < 2) && decide (prio < 8)
  | .cnpReceive die port => decide (die < 4) && decide (port < 2)
  | .ccRateIncrease qp => decide (qp < 4096)
  | .frameEgress die port cls => decide (die < 4) && decide (port < 2) && decide (cls < 9)
  | .qpStateWrite die want => decide (die < 4) && decide (want < 4)
  | .rdmaAckReceive die port => decide (die < 4) && decide (port < 2)
  | .rdmaNakReceive die port => decide (die < 4) && decide (port < 2)
  | .rdmaReadResponse die port => decide (die < 4) && decide (port < 2)
  | .rdmaRetransmitTimeout qp => decide (qp < 4096)
  | .rdmaWrite die port => decide (die < 4) && decide (port < 2)
  | .rdmaRead die port => decide (die < 4) && decide (port < 2)
  | .sendIn die port => decide (die < 4) && decide (port < 2)
  | .mailboxRequest die port => decide (die < 4) && decide (port < 2)
  | .replySend by_ die len => decide (by_ < 4) && decide (die < 4) && decide (len < 4097)
  | .eventSend by_ die sub len => decide (by_ < 4) && decide (die < 4) && decide (sub < 8) && decide (len < 4097)
  | .identify die _ _ => decide (die < 4)
  | .attest die _ _ => decide (die < 4)
  | .sessionOpenStep1 die _ => decide (die < 4)
  | .sessionOpenStep2 die _ => decide (die < 4)
  | .sessionOpenTimeout die _ => decide (die < 4)
  | .sessionClose die _ _ => decide (die < 4)
  | .powerSet die _ _ _ => decide (die < 4)
  | .powerQuery die _ _ => decide (die < 4)
  | .partitionCreate die _ _ => decide (die < 4)
  | .partitionDestroy die _ _ => decide (die < 4)
  | .partitionReset die _ _ => decide (die < 4)
  | .partitionQuery die _ _ => decide (die < 4)
  | .mapSync die _ _ => decide (die < 4)
  | .rekey die _ _ => decide (die < 4)
  | .faultResume die _ _ => decide (die < 4)
  | .planLoad die _ _ _ => decide (die < 4)
  | .planStart die _ _ => decide (die < 4)
  | .planDone die _ => decide (die < 4)
  | .planAbort die _ _ => decide (die < 4)
  | .planStatus die _ _ => decide (die < 4)
  | .faultRead die _ _ => decide (die < 4)
  | .eventSubscribe die _ _ => decide (die < 4)
  | .linkStatus die _ _ => decide (die < 4)
  | .linkRetrain die _ _ => decide (die < 4)
  | .routeSetRoutes die _ => decide (die < 4)
  | .routeSetKnuckles die _ => decide (die < 4)
  | .marginReport die _ _ => decide (die < 4)
  | .marginApply die _ _ => decide (die < 4)
  | .fwStage die _ _ => decide (die < 4)
  | .fwCommit die _ _ _ => decide (die < 4)
  | .coreRetest die _ _ _ => decide (die < 4)
  | .spareMap die _ _ => decide (die < 4)
  | .memtest die _ _ => decide (die < 4)
  | .blankReport die _ _ => decide (die < 4)
  | .deferredCommandRun die _ _ => decide (die < 4)
  | .leadHeartbeat die => decide (die < 4)
  | .electionStart die => decide (die < 4)
  | .electionPropose die => decide (die < 4)
  | .leadOnlyMessage by_ die _ value _ => decide (by_ < 4) && decide (die < 4) && decide (value < 2 ^ 32)
  | .leadMessageTimeout die _ => decide (die < 4)
  | .nonceGet die fails => decide (die < 4) && decide (fails < 16)
  | .wardSet die fails => decide (die < 4) && decide (fails < 16)
  | .hostKey die fails => decide (die < 4) && decide (fails < 16)
  | .provision die fails => decide (die < 4) && decide (fails < 16)
  | .rotate die fails => decide (die < 4) && decide (fails < 16)
  | .rollback die fails => decide (die < 4) && decide (fails < 16)
  | .romBoot die _ => decide (die < 4)
  | .bootlockSet die => decide (die < 4)
  | .wardAttest die => decide (die < 4)
  | .wardKeyx die => decide (die < 4)
  | .wardOpComplete die => decide (die < 4)
  | .measExtend die => decide (die < 4)
  | .epochWrite die value => decide (die < 4) && decide (value < 2 ^ 32)
  | .wardDebug die _ => decide (die < 4)
  | .powerSequencerGo die target => decide (die < 4) && decide (target < 8)
  | .powerStepComplete die _ _ => decide (die < 4)
  | .wakeRequest die => decide (die < 4)
  | .dieReset die => decide (die < 4)
  | .powerGoodRise die _ => decide (die < 4)
  | .powerGoodFall die => decide (die < 4)
  | .junctionSample die tj => decide (die < 4) && decide (tj < 256)
  | .throttleStep die cause => decide (die < 4) && decide (cause < 3)
  | .throttleReleaseStep die cause => decide (die < 4) && decide (cause < 3)
  | .powerFigureExchange die watts _ arrived => decide (die < 4) && decide (watts < 4096) && decide (arrived < 16)
  | .thermalTrip die => decide (die < 4)
  | .railFault die rail => decide (die < 4) && decide (rail < 9)
  | .refclkLoss die => decide (die < 4)
  | .pllLockLoss die pll => decide (die < 4) && decide (pll < 33)
  | .slowclkLoss die => decide (die < 4)
  | .slowclkRestore die => decide (die < 4)
  | .memoryTestPhaseEnd die _ => decide (die < 4)
  | .b0okClear die => decide (die < 4)
  | .chunkSend die nchm1 chunk _ mask => decide (die < 4) && decide (nchm1 < 32) && decide (chunk < 32) && decide (mask < 4096)
  | .chunkReceive _ _ => true
  | .faultPost die => decide (die < 4)
  | .faultPop die count => decide (die < 4) && decide (count < 2048)
  | .ageSample die _ => decide (die < 4)
  | .ageSampleNow die _ => decide (die < 4)
  | .marginEvaluate die => decide (die < 4)
  | .i3cPrivateRead die addr _ => decide (die < 4) && decide (addr < 128)
  | .i3cPrivateWrite die addr => decide (die < 4) && decide (addr < 128)
  | .i3cCcc die code addr => decide (die < 4) && decide (code < 256) && decide (addr < 128)
  | .i3cBlockRefresh die => decide (die < 4)
  | .localCounterTick die => decide (die < 4)
  | .builtInSelfTestEnd die slices _ => decide (die < 4) && decide (slices < 2 ^ 17)
  | .chunkSendComplete die => decide (die < 4)
  | .eventSendComplete die => decide (die < 4)
  | .portSleepWaitTimeout port => decide (port < 16)
  | .wardRelayTimeout die => decide (die < 4)

end Sys2Proof
end

