-- ==== Sys2Proof/Safety.lean ====
section
/-!
DEFINITION. The terms in which the claims speak of a run: stored data in canonical form, the unit that a command is about, a command that
completes, and the pieces of the package that a command may change.
-/
namespace Sys2Proof.Machine

/-- The stored data of the package stands in the one canonical form of `Memory.wf`. -/
def State.stored (s : State) : Prop := s.dev.mem.wf = true

/-- A command completes with an effect: it answers a next state, the commands that wait stay as they are, and the package afterwards has
the property. -/
def Completes (c : Instr) (s : State) (P : Dev → Prop) : Prop :=
  ∃ t, exec c s = .next t ∧ t.pending = s.pending ∧ P t.dev

/-! Units -/

/-- The unit a command is about. -/
inductive Place where
  | anyone                     -- the command names its unit by a place in a list, or by an address
  | ofDie (die : Nat)
  | ofAon (die : Nat)
  | ofKept (die : Nat)
  | ofCarrier (die : Nat)
  | ofCompute (die : Nat)
  | ofCore (cell core : Nat)
  | ofLane (die lane : Nat)
  | ofPort (port : Nat)
  | ofEth (die port : Nat)
  | ofKnuckle (knuckle : Nat)
  | ofKnuckleEnd (die inst : Nat)
deriving DecidableEq, Repr

/-- The package builds the unit and its power domain is up (R3, R27, R28). -/
def Place.up (d : Dev) : Place → Bool
  | .anyone => true
  | .ofDie die => decide (die < d.ndies)
  | .ofAon die => decide (die < d.ndies) && d.aonUp die
  | .ofKept die => decide (die < d.ndies) && d.keptUp die
  | .ofCarrier die => decide (die < d.ndies) && d.carrierUp die
  | .ofCompute die => decide (die < d.ndies) && d.carrierUp die && d.computeUp die
  | .ofCore cell core =>
    decide (cellDie cell < d.ndies) && d.carrierUp (cellDie cell) && d.computeUp (cellDie cell) && decide (core < 136)
  | .ofLane die lane => decide (die < d.ndies) && d.carrierUp die && d.laneHere die lane
  | .ofPort port => decide (portDie port < d.ndies) && d.carrierUp (portDie port) && d.portHere port
  | .ofEth die port => decide (die < d.ndies) && d.carrierUp die && d.ethHere die port
  | .ofKnuckle k => d.knuckles.contains k && d.carrierUp (knuckleEnds k).1 && d.carrierUp (knuckleEnds k).2
  | .ofKnuckleEnd die inst => decide (die < d.ndies) && d.carrierUp die && decide (inst < (if d.gf2 then 1 else 2))

/-- The unit of every command. -/
def placeOf : Instr → Place
  | .registerWrite _ _ _ _ => .anyone
  | .reg64LoRead _ _ _ => .anyone
  | .reg64LoWrite _ _ _ _ => .anyone
  | .reg64HiWrite _ _ _ _ => .anyone
  | .controlAddressMiss _ _ _ _ => .anyone
  | .cellPark cell => .ofCompute (cellDie cell)
  | .cellUnpark cell => .ofCompute (cellDie cell)
  | .cellReset cell => .ofCompute (cellDie cell)
  | .cellResetComplete cell => .ofCompute (cellDie cell)
  | .mapDataWrite die _ _ => .ofCompute die
  | .deadboltSet die _ => .ofCompute die
  | .dbClear die _ => .ofCompute die
  | .cellTestModeWrite cell _ => .ofCompute (cellDie cell)
  | .loaderEnter die _ _ => .ofCompute die
  | .planFetch cell core _ => .ofCore cell core
  | .nop cell core => .ofCore cell core
  | .endWord cell core => .ofCore cell core
  | .coreDone cell core => .ofCore cell core
  | .loopWord cell core => .ofCore cell core
  | .loopBackEdge cell core => .ofCore cell core
  | .seedWord cell core _ => .ofCore cell core
  | .seedComplete cell core => .ofCore cell core
  | .flags cell core => .ofCore cell core
  | .dcap cell core => .ofCore cell core
  | .lutld cell core _ => .ofCore cell core
  | .lutldComplete cell core => .ofCore cell core
  | .cset cell core => .ofCore cell core
  | .calc cell core => .ofCore cell core
  | .cmin cell core => .ofCore cell core
  | .cload cell core _ => .ofCore cell core
  | .cstore cell core _ => .ofCore cell core
  | .aset cell core => .ofCore cell core
  | .aadd cell core => .ofCore cell core
  | .mta cell core => .ofCore cell core
  | .mtb cell core => .ofCore cell core
  | .mma cell core _ => .ofCore cell core
  | .mmaComplete cell core _ => .ofCore cell core
  | .vld cell core _ => .ofCore cell core
  | .vst cell core => .ofCore cell core
  | .vacc cell core => .ofCore cell core
  | .vop cell core => .ofCore cell core
  | .vcvt cell core _ => .ofCore cell core
  | .twait cell core => .ofCore cell core
  | .wsync cell core => .ofCore cell core
  | .tadd cell core => .ofCore cell core
  | .tset cell core => .ofCore cell core
  | .tradd cell core => .ofCore cell core
  | .traddRelease cell core => .ofCore cell core
  | .tcadd cell core => .ofCore cell core
  | .coreWaitTimeout cell core => .ofCore cell core
  | .cellStart cell => .ofCompute (cellDie cell)
  | .cellAbort cell => .ofCompute (cellDie cell)
  | .listFetch die _ _ => .ofCompute die
  | .nopEntry die _ => .ofCompute die
  | .copy die _ => .ofCompute die
  | .reduce die _ => .ofCompute die
  | .taddEntry die _ => .ofCompute die
  | .endEntry die _ => .ofCompute die
  | .transactionIssue die _ => .ofCompute die
  | .transactionResponse _ _ => .anyone
  | .engineReleaseAdd die _ => .ofCompute die
  | .engineDone die _ => .ofCompute die
  | .engineWaitTimeout die _ => .ofCompute die
  | .engineStart die _ => .ofCompute die
  | .engineAbort die _ => .ofCompute die
  | .engineResume die _ => .ofCompute die
  | .engineDrainComplete die _ => .ofCompute die
  | .homeRequest _ _ _ => .anyone
  | .mergeEntryAgeOut die _ _ => .ofCarrier die
  | .mergeWordWrite die _ => .ofCarrier die
  | .unfoldContextGrant die _ => .ofCompute die
  | .unfoldInputParse die _ _ => .ofCompute die
  | .unfoldOutputWalk die _ => .ofCompute die
  | .unfoldRowComplete die _ _ => .ofCompute die
  | .dspStepFetch die _ => .ofCompute die
  | .stepNop die => .ofCompute die
  | .gate die _ => .ofCompute die
  | .repack die _ => .ofCompute die
  | .combine die _ => .ofCompute die
  | .stepEnd die => .ofCompute die
  | .dspReleaseAdd die => .ofCompute die
  | .dspWaitTimeout die => .ofCompute die
  | .dspStart die => .ofCompute die
  | .dspAbort die => .ofCompute die
  | .dspDrainComplete die => .ofCompute die
  | .add _ _ => .anyone
  | .setMsg _ _ => .anyone
  | .radd _ _ => .anyone
  | .arm _ _ => .anyone
  | .withdraw _ _ => .anyone
  | .cadd _ _ => .anyone
  | .ack _ _ => .anyone
  | .wake _ _ => .anyone
  | .cval _ _ => .anyone
  | .event _ _ => .anyone
  | .bcast _ _ => .anyone
  | .tmbValueWrite die _ => .ofCarrier die
  | .tmbAddWrite die _ => .ofCarrier die
  | .tmbRangeWrite die _ _ _ => .ofCarrier die
  | .broadcastStart die => .ofCarrier die
  | .broadcastAbort die => .ofCarrier die
  | .stewardWaitArm die => .ofCarrier die
  | .stewardWaitWithdraw die => .ofCarrier die
  | .stewardMemoryAccess die _ _ _ _ _ _ _ => .ofCarrier die
  | .stewardFence die => .ofCarrier die
  | .hbmRequestAdmit die _ _ _ => .ofCarrier die
  | .hbmReadServe die _ _ _ _ => .ofCarrier die
  | .hbmWriteBatchDrain die _ => .ofCarrier die
  | .rowCloseTimeout die _ _ => .ofCarrier die
  | .hbmRefresh die _ => .ofKept die
  | .hbmTempSample die _ _ => .ofKept die
  | .hbmTrain die _ => .ofCarrier die
  | .hbmSelfrefEnter die _ => .ofCarrier die
  | .hbmSelfrefExit die _ => .ofCarrier die
  | .hbmHoldDown die _ => .ofCarrier die
  | .hbmTrainingComplete die _ _ => .ofCarrier die
  | .hbmRrateWrite die _ _ => .ofCarrier die
  | .minbandWrite die _ _ => .ofCarrier die
  | .hbmTmaxclr die _ => .ofCarrier die
  | .blankCut die _ => .ofCarrier die
  | .blankCutComplete die _ => .ofCarrier die
  | .regionToNarrow die _ => .ofCarrier die
  | .regionToWide die _ => .ofCarrier die
  | .regionConversionComplete die => .ofCarrier die
  | .scrubRead _ die _ _ _ => .ofCarrier die
  | .scrubWriteback _ => .anyone
  | .checkerSelfTest _ die _ => .ofCarrier die
  | .checkerSelfTestDone _ die _ _ _ => .ofCarrier die
  | .sbfZfill die _ => .ofCarrier die
  | .sbfZfillDone die => .ofCarrier die
  | .insert die => .ofCarrier die
  | .modify die => .ofCarrier die
  | .readEntry die => .ofCarrier die
  | .removeUnused die => .ofCarrier die
  | .krgCommandDone die => .ofCarrier die
  | .quotaWrite die _ => .ofCarrier die
  | .hostWindowWrite die _ _ => .ofCarrier die
  | .rekeyCut die _ => .ofCarrier die
  | .rekeyDrainEnd die _ => .ofCarrier die
  | .rekeyTimeout die _ => .ofCarrier die
  | .hubDeadboltSet die => .ofCarrier die
  | .hubDbClear die => .ofCarrier die
  | .portFenceWrite die _ => .ofCarrier die
  | .kmapEnWrite die _ => .ofCarrier die
  | .mapUpdate die _ _ _ => .ofCarrier die
  | .knuckleRecover die inst => .ofKnuckleEnd die inst
  | .knuckleFull die inst => .ofKnuckleEnd die inst
  | .knuckleHold die inst => .ofKnuckleEnd die inst
  | .knuckleTrainingStepEnd knuckle _ _ => .ofKnuckle knuckle
  | .knuckleQualEnd knuckle _ _ => .ofKnuckle knuckle
  | .knuckleFlitReceive die inst _ => .ofKnuckleEnd die inst
  | .knuckleNakRepeat die inst => .ofKnuckleEnd die inst
  | .knuckleSignalLoss die inst => .ofKnuckleEnd die inst
  | .siteTrain die => .ofCarrier die
  | .siteHold die => .ofCarrier die
  | .siteBringupStepEnd die _ => .ofCarrier die
  | .siteFlitReceive die _ => .ofCarrier die
  | .siteRequest die => .ofCarrier die
  | .siteTumblerWrite die => .ofCarrier die
  | .siteRequestTimeout die => .ofCarrier die
  | .siteSidebandLoss die => .ofCarrier die
  | .laneTrain die lane => .ofLane die lane
  | .laneHold die lane => .ofLane die lane
  | .laneSleep die lane => .ofLane die lane
  | .laneWake die lane => .ofLane die lane
  | .laneTest die lane _ _ => .ofLane die lane
  | .laneStateEnd die lane _ => .ofLane die lane
  | .laneTrainTimeout die lane => .ofLane die lane
  | .codewordReceive die lane _ _ => .ofLane die lane
  | .alignLock die lane _ => .ofLane die lane
  | .alignRelockTimeout die lane => .ofLane die lane
  | .ppmMeasure die lane _ => .ofLane die lane
  | .loopTimingRequest die lane => .ofLane die lane
  | .fomRefresh die lane _ => .ofLane die lane
  | .adaptStep die lane _ _ _ => .ofLane die lane
  | .dozeEnter die lane => .ofLane die lane
  | .dozeExit die lane => .ofLane die lane
  | .dozeRefreshWake die lane => .ofLane die lane
  | .wakeLockTimeout die lane => .ofLane die lane
  | .signalDetect die lane => .ofLane die lane
  | .laneWakeTimeout die lane => .ofLane die lane
  | .lossOfSignal die lane => .ofLane die lane
  | .portTrain port => .ofPort port
  | .portHold port => .ofPort port
  | .portQualEnd port => .ofPort port
  | .frameReceive port _ => .ofPort port
  | .linkBlockReceive port _ => .ofPort port
  | .frameLossTimeout port => .ofPort port
  | .frameNakRepeat port => .ofPort port
  | .ackDue port => .ofPort port
  | .ackTimeoutReplay port => .ofPort port
  | .portRetrainComplete port => .ofPort port
  | .portDozeRequest port => .ofPort port
  | .portSilence port => .ofPort port
  | .linkRequestArrive port => .ofPort port
  | .linkResponseArrive port => .ofPort port
  | .remoteRequestTimeout port _ => .ofPort port
  | .routeWrite die _ => .ofCarrier die
  | .routeHoldClear die _ => .ofCarrier die
  | .ethPortTrain die port => .ofEth die port
  | .ethPortHold die port => .ofEth die port
  | .ethLinkupStepEnd die port _ => .ofEth die port
  | .ethAnTimeout die port => .ofEth die port
  | .ethUpTimeout die port => .ofEth die port
  | .ethPcsLockLoss die port => .ofEth die port
  | .ethFrameReceive die port _ => .ofEth die port
  | .pfcReceive die port => .ofEth die port
  | .pfcRepeat die port _ => .ofEth die port
  | .pauseExpire die port _ => .ofEth die port
  | .pfcWatchdog die port _ => .ofEth die port
  | .pfcWatchdogResume die port _ => .ofEth die port
  | .cnpReceive die port => .ofEth die port
  | .ccRateIncrease qp => .ofCarrier (qpDie qp)
  | .frameEgress die port _ => .ofEth die port
  | .qpStateWrite die _ => .ofCarrier die
  | .rdmaAckReceive die port => .ofEth die port
  | .rdmaNakReceive die port => .ofEth die port
  | .rdmaReadResponse die port => .ofEth die port
  | .rdmaRetransmitTimeout qp => .ofCarrier (qpDie qp)
  | .rdmaWrite die port => .ofEth die port
  | .rdmaRead die port => .ofEth die port
  | .sendIn die port => .ofEth die port
  | .mailboxRequest die port => .ofEth die port
  | .replySend _ die _ => .ofCarrier die
  | .eventSend _ die _ _ => .ofCarrier die
  | .identify die _ _ => .ofCarrier die
  | .attest die _ _ => .ofCarrier die
  | .sessionOpenStep1 die _ => .ofCarrier die
  | .sessionOpenStep2 die _ => .ofCarrier die
  | .sessionOpenTimeout die _ => .ofCarrier die
  | .sessionClose die _ _ => .ofCarrier die
  | .powerSet die _ _ _ => .ofCarrier die
  | .powerQuery die _ _ => .ofCarrier die
  | .partitionCreate die _ _ => .ofCarrier die
  | .partitionDestroy die _ _ => .ofCarrier die
  | .partitionReset die _ _ => .ofCarrier die
  | .partitionQuery die _ _ => .ofCarrier die
  | .mapSync die _ _ => .ofCarrier die
  | .rekey die _ _ => .ofCarrier die
  | .faultResume die _ _ => .ofCarrier die
  | .planLoad die _ _ _ => .ofCarrier die
  | .planStart die _ _ => .ofCarrier die
  | .planDone die _ => .ofCarrier die
  | .planAbort die _ _ => .ofCarrier die
  | .planStatus die _ _ => .ofCarrier die
  | .faultRead die _ _ => .ofCarrier die
  | .eventSubscribe die _ _ => .ofCarrier die
  | .linkStatus die _ _ => .ofCarrier die
  | .linkRetrain die _ _ => .ofCarrier die
  | .routeSetRoutes die _ => .ofCarrier die
  | .routeSetKnuckles die _ => .ofCarrier die
  | .marginReport die _ _ => .ofCarrier die
  | .marginApply die _ _ => .ofCarrier die
  | .fwStage die _ _ => .ofCarrier die
  | .fwCommit die _ _ _ => .ofCarrier die
  | .coreRetest die _ _ _ => .ofCarrier die
  | .spareMap die _ _ => .ofCarrier die
  | .memtest die _ _ => .ofCarrier die
  | .blankReport die _ _ => .ofCarrier die
  | .deferredCommandRun die _ _ => .ofCarrier die
  | .leadHeartbeat die => .ofCarrier die
  | .electionStart die => .ofCarrier die
  | .electionPropose die => .ofCarrier die
  | .leadOnlyMessage by_ _ _ _ _ => .ofCarrier by_
  | .leadMessageTimeout die _ => .ofCarrier die
  | .nonceGet die _ => .ofCarrier die
  | .wardSet die _ => .ofCarrier die
  | .hostKey die _ => .ofCarrier die
  | .provision die _ => .ofCarrier die
  | .rotate die _ => .ofCarrier die
  | .rollback die _ => .ofCarrier die
  | .romBoot die _ => .ofCarrier die
  | .bootlockSet die => .ofAon die
  | .wardAttest die => .ofAon die
  | .wardKeyx die => .ofAon die
  | .wardOpComplete die => .ofAon die
  | .measExtend die => .ofAon die
  | .epochWrite die _ => .ofAon die
  | .wardDebug die _ => .ofAon die
  | .powerSequencerGo die _ => .ofAon die
  | .powerStepComplete die _ _ => .ofAon die
  | .wakeRequest die => .ofAon die
  | .dieReset die => .ofAon die
  | .powerGoodRise die _ => .ofDie die
  | .powerGoodFall die => .ofDie die
  | .junctionSample die _ => .ofAon die
  | .throttleStep die _ => .ofAon die
  | .throttleReleaseStep die _ => .ofAon die
  | .powerFigureExchange die _ _ _ => .ofAon die
  | .thermalTrip die => .ofAon die
  | .railFault die _ => .ofAon die
  | .refclkLoss die => .ofAon die
  | .pllLockLoss die _ => .ofAon die
  | .slowclkLoss die => .ofAon die
  | .slowclkRestore die => .ofAon die
  | .memoryTestPhaseEnd die _ => .ofCarrier die
  | .b0okClear die => .ofCarrier die
  | .chunkSend die _ _ _ _ => .ofCarrier die
  | .chunkReceive _ _ => .anyone
  | .faultPost die => .ofKept die
  | .faultPop die _ => .ofKept die
  | .ageSample die _ => .ofAon die
  | .ageSampleNow die _ => .ofAon die
  | .marginEvaluate die => .ofCarrier die
  | .i3cPrivateRead die _ _ => .ofAon die
  | .i3cPrivateWrite die _ => .ofAon die
  | .i3cCcc die _ _ => .ofAon die
  | .i3cBlockRefresh die => .ofAon die
  | .localCounterTick die => .ofAon die
  | .builtInSelfTestEnd die _ _ => .ofCarrier die
  | .chunkSendComplete die => .ofCarrier die
  | .eventSendComplete die => .ofCarrier die
  | .portSleepWaitTimeout port => .ofPort port
  | .wardRelayTimeout die => .ofCarrier die

/-- A command's operands are in range and its unit is there to act. -/
def isUp (c : Instr) (s : State) : Prop := c.wf = true ∧ (placeOf c).up s.dev = true

/-- What a command does: wherever its operands are in range and its unit is there to act, it completes, and the packages before and after
stand in the relation. -/
def Effect (c : Instr) (P : Dev → Dev → Prop) : Prop := ∀ s, isUp c s → Completes c s (P s.dev)

/-! Pieces -/

/-- A piece of the package: a register, in all its dies, instances and selections, or another field of `Dev`. -/
inductive Piece where
  | reg (r : Reg)
  | fuse | pw | aon | capt | held | free | mem | unwritten | errs | lcnt | cores | cells
  | cellPart | tmb | waits | swGen | ctl | net | sqn | engs | unfs | dsps | bq | rdq
  | wrq | rows | hbm | narrow | conv | merge | scrub | wback | stest | zfill | memtest | krg
  | krgP | drains | stwIo | flinks | knks | knkPend | mapUpd | sites | alert | tripN | irqs | lanes
  | ports | eths | qps | mbxIn | stews | parts | wards | pws | chunks | i3c | i3cOut | flash
deriving DecidableEq, Repr

/-- A piece is the same in two packages. A register's value that fuses load (R10) is the same if the fuses are. -/
def Piece.same (d e : Dev) : Piece → Prop
  | .reg r => ∀ die i s, e.rf.at? ⟨r, die, i, s⟩ = d.rf.at? ⟨r, die, i, s⟩ ∧ (e.fuse = d.fuse → e.raw ⟨r, die, i, s⟩ = d.raw ⟨r, die, i, s⟩)
  | .fuse => e.fuse = d.fuse
  | .pw => e.pw = d.pw
  | .aon => e.aon = d.aon
  | .capt => e.capt = d.capt
  | .held => e.held = d.held
  | .free => e.free = d.free
  | .mem => e.mem = d.mem
  | .unwritten => e.unwritten = d.unwritten
  | .errs => e.errs = d.errs
  | .lcnt => e.lcnt = d.lcnt
  | .cores => e.cores = d.cores
  | .cells => e.cells = d.cells
  | .cellPart => e.cellPart = d.cellPart
  | .tmb => e.tmb = d.tmb
  | .waits => e.waits = d.waits
  | .swGen => e.swGen = d.swGen
  | .ctl => e.ctl = d.ctl
  | .net => e.net = d.net
  | .sqn => e.sqn = d.sqn
  | .engs => e.engs = d.engs
  | .unfs => e.unfs = d.unfs
  | .dsps => e.dsps = d.dsps
  | .bq => e.bq = d.bq
  | .rdq => e.rdq = d.rdq
  | .wrq => e.wrq = d.wrq
  | .rows => e.rows = d.rows
  | .hbm => e.hbm = d.hbm
  | .narrow => e.narrow = d.narrow
  | .conv => e.conv = d.conv
  | .merge => e.merge = d.merge
  | .scrub => e.scrub = d.scrub
  | .wback => e.wback = d.wback
  | .stest => e.stest = d.stest
  | .zfill => e.zfill = d.zfill
  | .memtest => e.memtest = d.memtest
  | .krg => e.krg = d.krg
  | .krgP => e.krgP = d.krgP
  | .drains => e.drains = d.drains
  | .stwIo => e.stwIo = d.stwIo
  | .flinks => e.flinks = d.flinks
  | .knks => e.knks = d.knks
  | .knkPend => e.knkPend = d.knkPend
  | .mapUpd => e.mapUpd = d.mapUpd
  | .sites => e.sites = d.sites
  | .alert => e.alert = d.alert
  | .tripN => e.tripN = d.tripN
  | .irqs => e.irqs = d.irqs
  | .lanes => e.lanes = d.lanes
  | .ports => e.ports = d.ports
  | .eths => e.eths = d.eths
  | .qps => e.qps = d.qps
  | .mbxIn => e.mbxIn = d.mbxIn
  | .stews => e.stews = d.stews
  | .parts => e.parts = d.parts
  | .wards => e.wards = d.wards
  | .pws => e.pws = d.pws
  | .chunks => e.chunks = d.chunks
  | .i3c => e.i3c = d.i3c
  | .i3cOut => e.i3cOut = d.i3cOut
  | .flash => e.flash = d.flash

/-- Some registers. -/
def regs (l : List Reg) : List Piece := l.map .reg

/-- Every register. -/
def allRegisters : List Piece := regs Reg.all

/-- A fault record is posted (R448): the queue of its die, its counters, the interrupts of its steward. -/
def posting : List Piece := regs [.FLT_STAT, .FLT_NEXT, .FLT_DROP, .FLT_QDATA] ++ [.irqs]

/-- Stored data, which of it holds valid code, and its errors. -/
def storedData : List Piece := [.mem, .unwritten, .errs]

/-- A core acts: its registers, what it sends, what deadbolts discard, its trap record (R36, R84, R86, R271). -/
def coreGoes : List Piece := regs [.CMP_PDROP, .HUB_DBDROP] ++ posting ++ [.cores, .ctl]

/-- What a tile engine keeps of its state and of a failure, with its rows in unfold engines (R110, R115). -/
def engineStops : List Piece := regs [.TEN_STAT, .TEN_FIDX, .TEN_FADDR_LO, .TEN_FADDR_HI, .TEN_FINFO, .TEN_FTICK, .UNF_STAT]
    ++ [.engs, .unfs]

/-- A tile engine goes on: it fails or issues transactions and adds, with what the key ring counts (R100-R112, R251). -/
def engineGoes : List Piece := engineStops ++ posting ++ regs [.KRG_FCNT] ++ [.free, .ctl, .net, .sqn, .krg]

/-- What a dispatch unit keeps of its state and of a failure (R160-R163). -/
def dispatchStops : List Piece := regs [.DSP_STAT, .DSP_FINFO, .DSP_FTICK, .SBF_STAT] ++ [.dsps] ++ posting

/-- Words of the shared buffer are read through their code (R220, R239). -/
def sbufReads : List Piece := regs [.SBF_ECE, .SBF_EUE, .SBF_ELAST] ++ [.free, .errs]

/-- Words of the shared buffer are read and written (R220-R222, R239). -/
def sbufMoves : List Piece := sbufReads ++ regs [.SBF_NRMW] ++ [.mem, .unwritten]

/-- Lines of HBM are read through their code, with the rows that fail (R212-R216, R231-R238). -/
def hbmReads : List Piece := regs [.HBM_ECE, .HBM_EUE, .HBM_EPSN, .HBM_ELAST, .HBM_BLENT, .HBM_BLSTAT, .HBM_PEN_LO,
    .HBM_PEN_HI, .HBM_RET_LO, .HBM_RET_HI, .HBM_RETCNT] ++ [.free] ++ storedData ++ [.hbm] ++ posting

/-- A package-link port takes traffic (R335, R338-R345). -/
def portSends : List Piece := regs [.PLK_ROUT, .PLK_NFRM_LO, .PLK_NFRM_HI, .PLK_TRK] ++ [.lanes, .ports]

/-- A package-link port may leave UP, and engines hear of it (R336, R342-R344). -/
def portDowns : List Piece := engineGoes ++ portSends ++ regs [.HUB_RDROP, .PLK_ROUTE, .PLK_NFAIL, .PLK_NLATE, .PLK_PSTAT]

/-- A lane changes state, and its port follows (R315, R331, R336). -/
def laneMoves : List Piece := portDowns ++ regs [.SER_LSTAT, .SER_NEVT, .PLK_PCTL]

/-- The auxiliary site leaves UP (R296, R300). -/
def siteDowns : List Piece := regs [.HUB_NPATH, .AUX_STAT, .AUX_WIN] ++ [.net, .sites]

/-- A knuckle changes state, and the maps of knuckles in service hear of it (R273, R274, R284). -/
def knuckleMoves : List Piece := regs [.HUB_KMAP, .KNK_STAT] ++ [.mapUpd, .knks]

/-- A steward answers a Helham request and may send events (R368-R388). -/
def helham : List Piece := regs [.MBX_IPEND_LO, .MBX_IPEND_HI, .MBX_OCTL, .MBX_ECTL, .MBX_SUBCTL, .MBX_SUBCNT, .MBX_ODATA,
    .MBX_EDATA, .WRD_EPOCH, .WRD_NREF] ++ posting ++ [.eths, .mbxIn, .stews]

/-- A reply goes out (R364, R370). -/
def replies : List Piece := regs [.MBX_OCTL, .WRD_NREF] ++ [.eths, .mbxIn]

/-- The pieces that a command may change; it leaves every other piece as it is. -/
def mayChange : Instr → List Piece
  | .registerWrite _ _ _ _ => allRegisters ++ laneMoves ++ helham ++ sbufMoves ++ [.pw, .held, .cores, .cells, .tmb, .waits,
    .swGen, .dsps, .wrq, .conv, .stest, .zfill, .krgP, .drains, .stwIo, .knks, .knkPend, .mapUpd, .sites, .qps, .wards, .pws,
    .chunks]
  | .reg64LoRead _ _ _ => posting ++ regs [.WRD_EPOCH, .WRD_NREF] ++ [.capt, .stwIo, .stews]
  | .reg64LoWrite _ _ _ _ => allRegisters ++ laneMoves ++ helham ++ sbufMoves ++ [.pw, .held, .cores, .cells, .tmb, .waits,
    .swGen, .dsps, .wrq, .conv, .stest, .zfill, .krgP, .drains, .stwIo, .knks, .knkPend, .mapUpd, .sites, .qps, .wards, .pws,
    .chunks]
  | .reg64HiWrite _ _ _ _ => allRegisters ++ laneMoves ++ helham ++ sbufMoves ++ [.pw, .held, .cores, .cells, .tmb, .waits,
    .swGen, .dsps, .wrq, .conv, .stest, .zfill, .krgP, .drains, .stwIo, .knks, .knkPend, .mapUpd, .sites, .qps, .wards, .pws,
    .chunks]
  | .controlAddressMiss _ _ _ _ => allRegisters ++ laneMoves ++ helham ++ sbufMoves ++ [.pw, .capt, .held, .cores, .cells,
    .tmb, .waits, .swGen, .dsps, .wrq, .conv, .stest, .zfill, .krgP, .drains, .stwIo, .knks, .knkPend, .mapUpd, .sites, .qps,
    .wards, .pws, .chunks]
  | .cellPark _ => coreGoes ++ regs [.CMP_CELL_CTL, .CMP_ECE, .CMP_EUE] ++ [.free, .cells]
  | .cellUnpark _ => regs [.CMP_CELL_CTL] ++ [.cores, .cells]
  | .cellReset _ => coreGoes ++ storedData ++ regs [.CMP_CELL_CTL]
  | .cellResetComplete _ => coreGoes ++ regs [.CMP_CELL_CTL, .CMP_ECE, .CMP_EUE] ++ [.free, .cells]
  | .mapDataWrite _ _ _ => storedData ++ regs [.CMP_MAP_DATA, .CMP_STAT] ++ [.cores]
  | .deadboltSet _ _ => regs [.CMP_PCTL, .CMP_PDROP, .CMP_STAT]
  | .dbClear _ _ => regs [.CMP_PCTL, .CMP_PDROP, .CMP_STAT]
  | .cellTestModeWrite _ _ => regs [.CMP_STAT, .CMP_LDCTL] ++ [.cores]
  | .loaderEnter _ _ _ => coreGoes
  | .planFetch _ _ _ => regs [.CMP_ECE, .CMP_EUE] ++ [.free, .errs, .cores]
  | .nop _ _ => coreGoes
  | .endWord _ _ => coreGoes
  | .coreDone _ _ => [.cores]
  | .loopWord _ _ => coreGoes
  | .loopBackEdge _ _ => [.cores]
  | .seedWord _ _ _ => coreGoes ++ regs [.CMP_ECE, .CMP_EUE] ++ [.free, .errs]
  | .seedComplete _ _ => [.cores]
  | .flags _ _ => coreGoes
  | .dcap _ _ => coreGoes
  | .lutld _ _ _ => coreGoes ++ regs [.CMP_ECE, .CMP_EUE] ++ [.free, .errs]
  | .lutldComplete _ _ => [.cores]
  | .cset _ _ => coreGoes
  | .calc _ _ => coreGoes
  | .cmin _ _ => coreGoes
  | .cload _ _ _ => coreGoes ++ regs [.CMP_ECE, .CMP_EUE] ++ [.free, .errs]
  | .cstore _ _ _ => coreGoes ++ storedData ++ regs [.CMP_ECE, .CMP_EUE] ++ [.free]
  | .aset _ _ => coreGoes
  | .aadd _ _ => coreGoes
  | .mta _ _ => coreGoes
  | .mtb _ _ => coreGoes
  | .mma _ _ _ => coreGoes ++ [.free, .errs]
  | .mmaComplete _ _ _ => coreGoes ++ regs [.CMP_ECE, .CMP_EUE] ++ [.free, .errs]
  | .vld _ _ _ => coreGoes ++ regs [.CMP_ECE, .CMP_EUE] ++ [.free, .errs]
  | .vst _ _ => coreGoes ++ storedData ++ regs [.CMP_ECE, .CMP_EUE] ++ [.free]
  | .vacc _ _ => coreGoes
  | .vop _ _ => coreGoes ++ [.free]
  | .vcvt _ _ _ => coreGoes ++ storedData ++ regs [.CMP_ECE, .CMP_EUE] ++ [.free]
  | .twait _ _ => coreGoes
  | .wsync _ _ => coreGoes
  | .tadd _ _ => coreGoes
  | .tset _ _ => coreGoes
  | .tradd _ _ => coreGoes
  | .traddRelease _ _ => coreGoes
  | .tcadd _ _ => coreGoes
  | .coreWaitTimeout _ _ => coreGoes
  | .cellStart _ => coreGoes ++ regs [.CMP_PRUN] ++ [.cells]
  | .cellAbort _ => coreGoes ++ regs [.CMP_PRUN] ++ [.cells]
  | .listFetch _ _ _ => sbufReads ++ [.engs]
  | .nopEntry _ _ => engineGoes ++ regs [.TEN_ENTRY, .TEN_PROG, .SBF_STAT]
  | .copy _ _ => engineGoes ++ regs [.TEN_ENTRY, .TEN_PROG, .SBF_STAT]
  | .reduce _ _ => engineGoes ++ regs [.TEN_ENTRY, .TEN_PROG, .SBF_STAT]
  | .taddEntry _ _ => engineGoes ++ regs [.TEN_ENTRY, .TEN_PROG, .SBF_STAT]
  | .endEntry _ _ => engineGoes ++ regs [.TEN_ENTRY, .TEN_PROG, .SBF_STAT]
  | .transactionIssue _ _ => engineGoes ++ regs [.TEN_PROG, .PLK_STAT]
  | .transactionResponse _ _ => engineGoes ++ dispatchStops ++ regs [.HUB_SERR, .HUB_RDROP, .HUB_PDROP, .AUX_DROP, .PLK_NLATE,
    .PLK_NFRM_LO, .PLK_NFRM_HI, .PLK_TRK, .ETH_QCTL, .ETH_QSTAT] ++ [.unwritten, .sites, .lanes, .ports, .eths, .qps]
  | .engineReleaseAdd _ _ => engineGoes
  | .engineDone _ _ => regs [.TEN_STAT] ++ [.engs]
  | .engineWaitTimeout _ _ => engineGoes
  | .engineStart _ _ => regs [.TEN_STAT, .TEN_ENTRY, .TEN_PROG, .TEN_FIDX, .TEN_FADDR_LO, .TEN_FADDR_HI, .TEN_FINFO,
    .TEN_FTICK] ++ [.engs]
  | .engineAbort _ _ => engineGoes
  | .engineResume _ _ => engineGoes
  | .engineDrainComplete _ _ => engineStops ++ posting
  | .homeRequest _ _ _ => sbufMoves ++ portSends ++ posting ++ regs [.SBF_STAT, .CMP_ECE, .CMP_EUE, .HUB_SERR, .HUB_NPATH,
    .HUB_PDROP, .PLK_STAT, .PLK_NFAIL, .ETH_SPSN, .ETH_QSTAT] ++ [.net, .bq, .merge, .sites, .eths, .qps]
  | .mergeEntryAgeOut _ _ _ => sbufMoves ++ [.merge]
  | .mergeWordWrite _ _ => sbufMoves ++ [.merge]
  | .unfoldContextGrant _ _ => regs [.UNF_STAT] ++ [.free, .unfs]
  | .unfoldInputParse _ _ _ => engineGoes ++ regs [.UNF_FSEG_LO, .UNF_FSEG_HI, .UNF_FINFO]
  | .unfoldOutputWalk _ _ => regs [.UNF_GCNT, .UNF_BUSYC, .KRG_FCNT] ++ [.free, .ctl, .net, .sqn, .engs, .unfs, .krg]
  | .unfoldRowComplete _ _ _ => engineGoes
  | .dspStepFetch _ _ => sbufReads ++ [.dsps]
  | .stepNop _ => hbmReads ++ dispatchStops ++ sbufMoves ++ regs [.DSP_STEP, .DSP_NSPILL, .DSP_NLOST, .DSP_NNAN, .HUB_NPATH,
    .HUB_PDROP] ++ [.ctl, .net, .sqn, .merge]
  | .gate _ _ => hbmReads ++ dispatchStops ++ sbufMoves ++ regs [.DSP_STEP, .DSP_NSPILL, .DSP_NLOST, .DSP_NNAN, .HUB_NPATH,
    .HUB_PDROP] ++ [.ctl, .net, .sqn, .merge]
  | .repack _ _ => hbmReads ++ dispatchStops ++ sbufMoves ++ regs [.DSP_STEP, .DSP_NSPILL, .DSP_NLOST, .DSP_NNAN, .HUB_NPATH,
    .HUB_PDROP] ++ [.ctl, .net, .sqn, .merge]
  | .combine _ _ => hbmReads ++ dispatchStops ++ sbufMoves ++ regs [.DSP_STEP, .DSP_NSPILL, .DSP_NLOST, .DSP_NNAN, .HUB_NPATH,
    .HUB_PDROP] ++ [.ctl, .net, .sqn, .merge]
  | .stepEnd _ => hbmReads ++ dispatchStops ++ sbufMoves ++ regs [.DSP_STEP, .DSP_NSPILL, .DSP_NLOST, .DSP_NNAN, .HUB_NPATH,
    .HUB_PDROP] ++ [.ctl, .net, .sqn, .merge]
  | .dspReleaseAdd _ => dispatchStops ++ [.ctl]
  | .dspWaitTimeout _ => dispatchStops ++ [.unwritten, .ctl]
  | .dspStart _ => regs [.DSP_STAT, .DSP_STEP, .DSP_FINFO, .DSP_FTICK] ++ [.dsps]
  | .dspAbort _ => regs [.DSP_STAT] ++ [.ctl, .dsps]
  | .dspDrainComplete _ => dispatchStops
  | .add _ _ => engineGoes ++ coreGoes ++ portSends ++ regs [.CMP_PRUN, .DSP_STAT, .TMB_STAT, .TMB_NWRAP, .TMB_NCHK,
    .TMB_SWCTL, .TMB_SWVAL, .HUB_RDROP, .PLK_NFAIL, .PLK_NLATE, .FLT_PCTL] ++ [.cells, .tmb, .waits, .dsps, .sites]
  | .setMsg _ _ => engineGoes ++ coreGoes ++ portSends ++ regs [.CMP_PRUN, .DSP_STAT, .TMB_STAT, .TMB_NWRAP, .TMB_NCHK,
    .TMB_SWCTL, .TMB_SWVAL, .HUB_RDROP, .PLK_NFAIL, .PLK_NLATE, .FLT_PCTL] ++ [.cells, .tmb, .waits, .dsps, .sites]
  | .radd _ _ => engineGoes ++ coreGoes ++ portSends ++ regs [.CMP_PRUN, .DSP_STAT, .TMB_STAT, .TMB_NWRAP, .TMB_NCHK,
    .TMB_SWCTL, .TMB_SWVAL, .HUB_RDROP, .PLK_NFAIL, .PLK_NLATE, .FLT_PCTL] ++ [.cells, .tmb, .waits, .dsps, .sites]
  | .arm _ _ => engineGoes ++ coreGoes ++ portSends ++ regs [.CMP_PRUN, .DSP_STAT, .TMB_STAT, .TMB_NWRAP, .TMB_NCHK,
    .TMB_SWCTL, .TMB_SWVAL, .HUB_RDROP, .PLK_NFAIL, .PLK_NLATE, .FLT_PCTL] ++ [.cells, .tmb, .waits, .dsps, .sites]
  | .withdraw _ _ => engineGoes ++ coreGoes ++ portSends ++ regs [.CMP_PRUN, .DSP_STAT, .TMB_STAT, .TMB_NWRAP, .TMB_NCHK,
    .TMB_SWCTL, .TMB_SWVAL, .HUB_RDROP, .PLK_NFAIL, .PLK_NLATE, .FLT_PCTL] ++ [.cells, .tmb, .waits, .dsps, .sites]
  | .cadd _ _ => engineGoes ++ coreGoes ++ portSends ++ regs [.CMP_PRUN, .DSP_STAT, .TMB_STAT, .TMB_NWRAP, .TMB_NCHK,
    .TMB_SWCTL, .TMB_SWVAL, .HUB_RDROP, .PLK_NFAIL, .PLK_NLATE, .FLT_PCTL] ++ [.cells, .tmb, .waits, .dsps, .sites]
  | .ack _ _ => engineGoes ++ coreGoes ++ portSends ++ regs [.CMP_PRUN, .DSP_STAT, .TMB_STAT, .TMB_NWRAP, .TMB_NCHK,
    .TMB_SWCTL, .TMB_SWVAL, .HUB_RDROP, .PLK_NFAIL, .PLK_NLATE, .FLT_PCTL] ++ [.cells, .tmb, .waits, .dsps, .sites]
  | .wake _ _ => engineGoes ++ coreGoes ++ portSends ++ regs [.CMP_PRUN, .DSP_STAT, .TMB_STAT, .TMB_NWRAP, .TMB_NCHK,
    .TMB_SWCTL, .TMB_SWVAL, .HUB_RDROP, .PLK_NFAIL, .PLK_NLATE, .FLT_PCTL] ++ [.cells, .tmb, .waits, .dsps, .sites]
  | .cval _ _ => engineGoes ++ coreGoes ++ portSends ++ regs [.CMP_PRUN, .DSP_STAT, .TMB_STAT, .TMB_NWRAP, .TMB_NCHK,
    .TMB_SWCTL, .TMB_SWVAL, .HUB_RDROP, .PLK_NFAIL, .PLK_NLATE, .FLT_PCTL] ++ [.cells, .tmb, .waits, .dsps, .sites]
  | .event _ _ => engineGoes ++ coreGoes ++ portSends ++ regs [.CMP_PRUN, .DSP_STAT, .TMB_STAT, .TMB_NWRAP, .TMB_NCHK,
    .TMB_SWCTL, .TMB_SWVAL, .HUB_RDROP, .PLK_NFAIL, .PLK_NLATE, .FLT_PCTL] ++ [.cells, .tmb, .waits, .dsps, .sites]
  | .bcast _ _ => engineGoes ++ coreGoes ++ portSends ++ regs [.CMP_PRUN, .DSP_STAT, .TMB_STAT, .TMB_NWRAP, .TMB_NCHK,
    .TMB_SWCTL, .TMB_SWVAL, .HUB_RDROP, .PLK_NFAIL, .PLK_NLATE, .FLT_PCTL] ++ [.cells, .tmb, .waits, .dsps, .sites]
  | .tmbValueWrite _ _ => [.tmb, .waits, .ctl]
  | .tmbAddWrite _ _ => regs [.TMB_STAT, .TMB_NWRAP] ++ [.tmb, .waits, .ctl]
  | .tmbRangeWrite _ _ _ _ => regs [.TMB_STAT, .TMB_RANGE]
  | .broadcastStart _ => [.ctl]
  | .broadcastAbort _ => [.ctl]
  | .stewardWaitArm _ => regs [.TMB_SWCTL] ++ [.swGen, .ctl]
  | .stewardWaitWithdraw _ => regs [.TMB_SWCTL] ++ [.swGen, .ctl]
  | .stewardMemoryAccess _ _ _ _ _ _ _ _ => hbmReads ++ sbufMoves ++ [.tmb, .waits, .ctl, .merge, .stwIo]
  | .stewardFence _ => [.stwIo]
  | .hbmRequestAdmit _ _ _ _ => hbmReads ++ regs [.HBM_RLEVEL, .HBM_RSTALL, .HBM_RBYTES_LO, .HBM_RBYTES_HI] ++ [.net, .bq,
    .rdq, .wrq]
  | .hbmReadServe _ _ _ _ _ => hbmReads ++ regs [.HBM_NBURST_LO, .HBM_NBURST_HI] ++ [.net, .rdq, .rows]
  | .hbmWriteBatchDrain _ _ => regs [.HBM_NBURST_LO, .HBM_NBURST_HI] ++ [.wrq, .rows]
  | .rowCloseTimeout _ _ _ => [.rows]
  | .hbmRefresh _ _ => regs [.HBM_STAT]
  | .hbmTempSample _ _ _ => posting ++ regs [.HBM_STAT, .HBM_TEMP] ++ [.hbm]
  | .hbmTrain _ _ => regs [.HBM_STAT] ++ [.wrq]
  | .hbmSelfrefEnter _ _ => regs [.HBM_STAT] ++ [.wrq]
  | .hbmSelfrefExit _ _ => regs [.HBM_STAT] ++ [.wrq]
  | .hbmHoldDown _ _ => regs [.HBM_STAT] ++ [.wrq]
  | .hbmTrainingComplete _ _ _ => storedData ++ regs [.HBM_ID, .HBM_STAT, .HBM_REFCTL, .HBM_LREP, .HBM_LMARG] ++ [.hbm,
    .narrow, .memtest]
  | .hbmRrateWrite _ _ _ => regs [.HBM_RRATE, .HBM_RLEVEL, .HBM_RGCAP]
  | .minbandWrite _ _ _ => regs [.HBM_REFCTL, .HBM_RGCAP]
  | .hbmTmaxclr _ _ => regs [.HBM_TEMP]
  | .blankCut _ _ => posting ++ regs [.HBM_BLSTAT, .HBM_PEN_LO, .HBM_PEN_HI, .HBM_RET_LO, .HBM_RET_HI, .HBM_RETCNT] ++ [.free,
    .hbm]
  | .blankCutComplete _ _ => posting ++ storedData ++ regs [.HBM_BLENT, .HBM_BLSTAT, .HBM_BLMIN] ++ [.hbm]
  | .regionToNarrow _ _ => [.conv]
  | .regionToWide _ _ => [.conv]
  | .regionConversionComplete _ => storedData ++ [.narrow, .conv]
  | .scrubRead _ _ _ _ _ => hbmReads ++ sbufReads ++ regs [.HBM_SLAP, .HBM_SSTAT, .SBF_SLAP, .SBF_SSTAT, .CMP_ECE, .CMP_EUE] ++
    [.scrub, .wback]
  | .scrubWriteback _ => storedData ++ [.wback]
  | .checkerSelfTest _ _ _ => regs [.HBM_STEST, .SBF_STEST, .CMP_STEST] ++ [.stest]
  | .checkerSelfTestDone _ _ _ _ _ => allRegisters ++ laneMoves ++ hbmReads ++ helham ++ [.pw, .capt, .held, .cores, .cells,
    .tmb, .waits, .dsps, .bq, .rdq, .wrq, .rows, .narrow, .conv, .merge, .scrub, .wback, .stest, .zfill, .memtest, .krgP,
    .drains, .stwIo, .flinks, .knks, .knkPend, .mapUpd, .sites, .alert, .qps, .parts, .pws, .chunks]
  | .sbfZfill _ _ => regs [.SBF_ZFILL] ++ [.zfill]
  | .sbfZfillDone _ => storedData ++ regs [.SBF_ZFILL] ++ [.merge, .zfill]
  | .insert _ => regs [.KRG_EW0_LO, .KRG_EW0_HI, .KRG_EW1_LO, .KRG_EW1_HI, .KRG_ESTAT, .KRG_QUSE] ++ [.free, .krg, .krgP]
  | .modify _ => regs [.KRG_EW0_LO, .KRG_EW0_HI, .KRG_EW1_LO, .KRG_EW1_HI, .KRG_ESTAT, .KRG_QUSE] ++ [.free, .krg, .krgP]
  | .readEntry _ => regs [.KRG_EW0_LO, .KRG_EW0_HI, .KRG_EW1_LO, .KRG_EW1_HI, .KRG_ESTAT, .KRG_QUSE] ++ [.free, .krg, .krgP]
  | .removeUnused _ => regs [.KRG_EW0_LO, .KRG_EW0_HI, .KRG_EW1_LO, .KRG_EW1_HI, .KRG_ESTAT, .KRG_QUSE] ++ [.free, .krg, .krgP]
  | .krgCommandDone _ => regs [.KRG_ESTAT] ++ [.krgP]
  | .quotaWrite _ _ => regs [.KRG_QUOTA]
  | .hostWindowWrite _ _ _ => regs [.KRG_HWCTL, .KRG_HWBASE_LO, .KRG_HWBASE_HI, .KRG_HWRKEY, .KRG_HWLEN]
  | .rekeyCut _ _ => regs [.KRG_QUSE, .KRG_RKCTL, .KRG_RKHALT_LO, .KRG_RKHALT_HI] ++ [.engs, .unfs, .krg, .drains]
  | .rekeyDrainEnd _ _ => regs [.KRG_RKCTL, .KRG_RKTIME] ++ [.drains]
  | .rekeyTimeout _ _ => engineGoes ++ siteDowns ++ regs [.KRG_RKCTL, .KRG_RKHALT_LO, .KRG_RKHALT_HI, .AUX_CTL] ++ [.unwritten,
    .bq, .rdq, .drains]
  | .hubDeadboltSet _ => regs [.HUB_DB, .HUB_DBDROP]
  | .hubDbClear _ => regs [.HUB_DB, .HUB_DBDROP]
  | .portFenceWrite _ _ => regs [.HUB_PFENCE_LO, .HUB_PFENCE_HI]
  | .kmapEnWrite _ _ => regs [.HUB_KMAP]
  | .mapUpdate _ _ _ _ => regs [.HUB_KMAP, .HUB_NPATH] ++ [.ctl, .net, .mapUpd]
  | .knuckleRecover _ _ => posting ++ knuckleMoves ++ regs [.KNK_CTL] ++ [.knkPend]
  | .knuckleFull _ _ => posting ++ knuckleMoves ++ regs [.KNK_CTL] ++ [.knkPend]
  | .knuckleHold _ _ => posting ++ knuckleMoves ++ regs [.KNK_CTL] ++ [.knkPend]
  | .knuckleTrainingStepEnd _ _ _ => posting ++ knuckleMoves ++ regs [.KNK_ID, .KNK_CTL, .KNK_LMASK, .KNK_PMASK, .KNK_AMASK,
    .KNK_MARG] ++ [.flinks, .knkPend]
  | .knuckleQualEnd _ _ _ => posting ++ knuckleMoves ++ regs [.KNK_CTL, .KNK_QERR] ++ [.flinks, .knkPend]
  | .knuckleFlitReceive _ _ _ => posting ++ regs [.KNK_STAT, .KNK_NREPLAY, .KNK_NCRC, .KNK_NFLIT_LO, .KNK_NFLIT_HI] ++ [.net,
    .flinks, .knks]
  | .knuckleNakRepeat _ _ => [.flinks]
  | .knuckleSignalLoss _ _ => posting ++ knuckleMoves ++ regs [.KNK_CTL] ++ [.knkPend]
  | .siteTrain _ => posting ++ siteDowns ++ regs [.AUX_CTL]
  | .siteHold _ => posting ++ siteDowns ++ regs [.AUX_CTL]
  | .siteBringupStepEnd _ _ => posting ++ siteDowns ++ regs [.AUX_CTL, .AUX_DESC]
  | .siteFlitReceive _ _ => regs [.AUX_STAT, .AUX_WIN, .AUX_NREPLAY, .AUX_NCRC, .AUX_DROP] ++ [.net, .sites]
  | .siteRequest _ => regs [.KRG_FCNT] ++ [.net, .sqn, .krg, .sites]
  | .siteTumblerWrite _ => [.ctl, .sites]
  | .siteRequestTimeout _ => siteDowns
  | .siteSidebandLoss _ => posting ++ siteDowns ++ regs [.AUX_CTL]
  | .laneTrain _ _ => laneMoves ++ regs [.SER_LCTL]
  | .laneHold _ _ => laneMoves ++ regs [.SER_LCTL]
  | .laneSleep _ _ => laneMoves ++ regs [.SER_LCTL]
  | .laneWake _ _ => laneMoves ++ regs [.SER_LCTL]
  | .laneTest _ _ _ _ => laneMoves ++ regs [.SER_LCTL]
  | .laneStateEnd _ _ _ => laneMoves ++ regs [.SER_LCTL, .SER_RXEQ, .SER_TXEQ]
  | .laneTrainTimeout _ _ => laneMoves ++ regs [.SER_LCTL]
  | .codewordReceive _ _ _ _ => laneMoves ++ regs [.SER_NCORR, .SER_NUNC, .SER_NCW_LO, .SER_NCW_HI, .SER_NFILL, .SER_NPRBS]
  | .alignLock _ _ _ => laneMoves
  | .alignRelockTimeout _ _ => laneMoves
  | .ppmMeasure _ _ _ => laneMoves ++ regs [.SER_PPM]
  | .loopTimingRequest _ _ => laneMoves
  | .fomRefresh _ _ _ => laneMoves
  | .adaptStep _ _ _ _ _ => laneMoves ++ regs [.SER_RXEQ]
  | .dozeEnter _ _ => laneMoves
  | .dozeExit _ _ => laneMoves
  | .dozeRefreshWake _ _ => laneMoves
  | .wakeLockTimeout _ _ => laneMoves
  | .signalDetect _ _ => laneMoves
  | .laneWakeTimeout _ _ => laneMoves
  | .lossOfSignal _ _ => laneMoves
  | .portTrain _ => laneMoves
  | .portHold _ => laneMoves
  | .portQualEnd _ => laneMoves ++ regs [.PLK_RESERVE, .PLK_QRES]
  | .frameReceive _ _ => portDowns ++ regs [.SER_LSTAT, .SER_NEVT, .PLK_NREPLAY, .PLK_NCRC]
  | .linkBlockReceive _ _ => laneMoves ++ regs [.PLK_NREPLAY]
  | .frameLossTimeout _ => [.lanes, .ports]
  | .frameNakRepeat _ => [.ports]
  | .ackDue _ => [.ports]
  | .ackTimeoutReplay _ => portDowns ++ regs [.SER_LSTAT, .SER_NEVT, .PLK_NREPLAY]
  | .portRetrainComplete _ => laneMoves ++ regs [.PLK_NREPLAY]
  | .portDozeRequest _ => [.lanes]
  | .portSilence _ => portDowns
  | .linkRequestArrive _ => portSends ++ posting ++ regs [.TMB_STAT, .TMB_NCHK, .PLK_STAT, .PLK_NFAIL] ++ [.ctl, .net, .sqn]
  | .linkResponseArrive _ => engineGoes ++ portSends ++ regs [.HUB_RDROP, .PLK_NLATE]
  | .remoteRequestTimeout _ _ => engineGoes ++ portSends ++ regs [.HUB_RDROP, .PLK_STAT, .PLK_NFAIL, .PLK_NLATE]
  | .routeWrite _ _ => regs [.PLK_ROUTE]
  | .routeHoldClear _ _ => regs [.PLK_ROUTE]
  | .ethPortTrain _ _ => portDowns ++ regs [.SER_LSTAT, .ETH_PCTL, .ETH_PSTAT] ++ [.eths]
  | .ethPortHold _ _ => portDowns ++ regs [.SER_LSTAT, .ETH_PCTL, .ETH_PSTAT] ++ [.eths]
  | .ethLinkupStepEnd _ _ _ => portDowns ++ regs [.SER_LSTAT, .SER_NEVT, .ETH_PCTL, .ETH_PSTAT] ++ [.eths]
  | .ethAnTimeout _ _ => portDowns ++ regs [.SER_LSTAT, .ETH_PCTL, .ETH_PSTAT] ++ [.eths]
  | .ethUpTimeout _ _ => portDowns ++ regs [.SER_LSTAT, .ETH_PCTL, .ETH_PSTAT] ++ [.eths]
  | .ethPcsLockLoss _ _ => regs [.ETH_PSTAT] ++ [.eths]
  | .ethFrameReceive _ _ _ => posting ++ regs [.ETH_QCTL, .ETH_QSTAT, .ETH_NRX_LO, .ETH_NRX_HI, .ETH_NFILT, .ETH_NBUF,
    .ETH_NPFC, .ETH_NCNP] ++ [.net, .eths, .qps]
  | .pfcReceive _ _ => regs [.ETH_NPFC] ++ [.eths]
  | .pfcRepeat _ _ _ => regs [.ETH_NPFC] ++ [.eths]
  | .pauseExpire _ _ _ => [.eths]
  | .pfcWatchdog _ _ _ => posting ++ regs [.ETH_PSTAT] ++ [.eths]
  | .pfcWatchdogResume _ _ _ => [.eths]
  | .cnpReceive _ _ => regs [.ETH_CCRATE, .ETH_NPFC, .ETH_NCNP] ++ [.eths, .qps]
  | .ccRateIncrease _ => regs [.ETH_CCRATE] ++ [.qps]
  | .frameEgress _ _ _ => posting ++ regs [.ETH_NTX_LO, .ETH_NTX_HI, .ETH_NWARD] ++ [.eths]
  | .qpStateWrite _ _ => posting ++ regs [.ETH_QCTL, .ETH_RCNT, .ETH_QSTAT, .ETH_CCRATE] ++ [.net, .qps]
  | .rdmaAckReceive _ _ => regs [.ETH_SPSN, .ETH_QSTAT, .ETH_NPFC] ++ [.net, .eths, .qps]
  | .rdmaNakReceive _ _ => posting ++ regs [.ETH_QCTL, .ETH_SPSN, .ETH_QSTAT, .ETH_NPFC] ++ [.net, .eths, .qps]
  | .rdmaReadResponse _ _ => regs [.ETH_SPSN, .ETH_QSTAT, .ETH_NPFC] ++ [.net, .eths, .qps]
  | .rdmaRetransmitTimeout _ => posting ++ regs [.ETH_QCTL, .ETH_QSTAT] ++ [.net, .eths, .qps]
  | .rdmaWrite _ _ => posting ++ regs [.ETH_QCTL, .ETH_EPSN, .ETH_QSTAT, .ETH_NPFC] ++ [.ctl, .net, .sqn, .eths, .qps]
  | .rdmaRead _ _ => posting ++ regs [.ETH_QCTL, .ETH_EPSN, .ETH_QSTAT, .ETH_NPFC] ++ [.ctl, .net, .sqn, .eths, .qps]
  | .sendIn _ _ => posting ++ regs [.ETH_QCTL, .ETH_EPSN, .ETH_RCNT, .ETH_QSTAT, .ETH_NPFC] ++ [.ctl, .net, .sqn, .eths, .qps]
  | .mailboxRequest _ _ => regs [.ETH_NPFC, .ETH_NMREF, .MBX_IPEND_LO, .MBX_IPEND_HI, .MBX_ILEN, .MBX_ISEQ, .MBX_OCTL,
    .MBX_IDATA] ++ [.eths, .mbxIn]
  | .replySend _ _ _ => replies
  | .eventSend _ _ _ _ => regs [.MBX_ECTL, .MBX_SUBCNT, .WRD_NREF] ++ [.eths]
  | .identify _ _ _ => helham
  | .attest _ _ _ => helham ++ regs [.WRD_OPCTL, .WRD_OIN, .WRD_OOUT] ++ [.free, .wards]
  | .sessionOpenStep1 _ _ => helham ++ regs [.WRD_OPCTL, .WRD_OIN, .WRD_OOUT] ++ [.free, .wards]
  | .sessionOpenStep2 _ _ => helham ++ regs [.WRD_OPCTL, .WRD_OIN, .WRD_OOUT] ++ [.free, .wards]
  | .sessionOpenTimeout _ _ => [.stews]
  | .sessionClose _ _ _ => helham
  | .powerSet _ _ _ _ => portDowns ++ helham ++ coreGoes ++ regs [.CMP_CELL_CTL, .DSP_STAT, .HBM_STAT, .CMP_ECE, .CMP_EUE,
    .SER_LCTL, .SER_LSTAT, .SER_NEVT, .PWR_STATE, .PWR_DCTL, .PWR_CLK] ++ [.pw, .cells, .dsps, .wrq, .parts, .pws]
  | .powerQuery _ _ _ => helham
  | .partitionCreate _ _ _ => helham ++ engineStops ++ regs [.CMP_CELL_CTL, .TEN_CTL, .TEN_ENTRY, .TEN_PROG, .SBF_OWNER,
    .UNF_CTL, .UNF_FSEG_LO, .UNF_FSEG_HI, .UNF_FINFO, .UNF_GCNT, .UNF_BUSYC, .DSP_CTL, .DSP_STAT, .DSP_STEP, .DSP_FINFO,
    .DSP_FTICK, .DSP_NSPILL, .DSP_NLOST, .DSP_NNAN, .TMB_STAT, .TMB_RANGE, .HBM_RRATE, .HBM_RLEVEL, .HBM_RGCAP, .KRG_QUOTA]
    ++ [.unwritten, .cores, .cells, .cellPart, .ctl, .dsps, .parts]
  | .partitionDestroy _ _ _ => helham ++ coreGoes ++ engineStops ++ regs [.CMP_CELL_CTL, .TEN_CTL, .TEN_ENTRY, .TEN_PROG,
    .SBF_OWNER, .UNF_CTL, .UNF_FSEG_LO, .UNF_FSEG_HI, .UNF_FINFO, .UNF_GCNT, .UNF_BUSYC, .DSP_CTL, .DSP_STAT, .DSP_STEP,
    .DSP_FINFO, .DSP_FTICK, .DSP_NSPILL, .DSP_NLOST, .DSP_NNAN, .TMB_STAT, .TMB_RANGE, .HBM_RRATE, .HBM_RLEVEL, .HBM_RGCAP,
    .CMP_ECE, .CMP_EUE, .KRG_QUOTA, .KRG_QUSE, .KRG_RKCTL, .KRG_RKHALT_LO, .KRG_RKHALT_HI] ++ [.free, .unwritten, .cells,
    .cellPart, .dsps, .krg, .drains, .parts]
  | .partitionReset _ _ _ => helham ++ coreGoes ++ engineStops ++ storedData ++ regs [.CMP_CELL_CTL, .TEN_ENTRY, .TEN_PROG,
    .UNF_FSEG_LO, .UNF_FSEG_HI, .UNF_FINFO, .UNF_GCNT, .UNF_BUSYC, .DSP_STAT, .DSP_STEP, .DSP_FINFO, .DSP_FTICK, .DSP_NSPILL,
    .DSP_NLOST, .DSP_NNAN, .CMP_ECE, .CMP_EUE] ++ [.free, .cells, .dsps, .parts]
  | .partitionQuery _ _ _ => helham
  | .mapSync _ _ _ => helham ++ regs [.KRG_EW0_LO, .KRG_EW0_HI, .KRG_EW1_LO, .KRG_EW1_HI, .KRG_QUSE, .KRG_PGEN] ++ [.free,
    .krg]
  | .rekey _ _ _ => helham ++ regs [.KRG_QUSE, .KRG_RKBASE_LO, .KRG_RKBASE_HI, .KRG_RKLEN, .KRG_RKCTL, .KRG_RKHALT_LO,
    .KRG_RKHALT_HI] ++ [.engs, .unfs, .krg, .drains]
  | .faultResume _ _ _ => engineGoes ++ helham
  | .planLoad _ _ _ _ => hbmReads ++ helham ++ sbufMoves ++ regs [.CMP_PBASE, .CMP_PLIMIT, .CMP_WTMO, .TEN_LBASE, .TEN_LLIMIT,
    .TEN_WTMO, .DSP_LBASE, .DSP_LLIMIT, .DSP_WTMO, .CMP_ECE, .CMP_EUE] ++ [.merge]
  | .planStart _ _ _ => helham ++ regs [.TEN_STAT, .TEN_ENTRY, .TEN_PROG, .TEN_FIDX, .TEN_FADDR_LO, .TEN_FADDR_HI, .TEN_FINFO,
    .TEN_FTICK, .DSP_STAT, .DSP_STEP, .DSP_FINFO, .DSP_FTICK] ++ [.ctl, .engs, .dsps]
  | .planDone _ _ => posting ++ regs [.MBX_ECTL, .MBX_SUBCNT, .MBX_EDATA, .WRD_EPOCH, .WRD_NREF] ++ [.eths, .stews]
  | .planAbort _ _ _ => helham ++ regs [.TEN_STAT, .DSP_STAT] ++ [.ctl, .engs, .dsps]
  | .planStatus _ _ _ => helham
  | .faultRead _ _ _ => helham ++ regs [.FLT_HEAD]
  | .eventSubscribe _ _ _ => helham ++ regs [.MBX_SUBMAC_LO, .MBX_SUBMAC_HI, .MBX_SUBIP]
  | .linkStatus _ _ _ => helham
  | .linkRetrain _ _ _ => laneMoves ++ helham ++ siteDowns ++ knuckleMoves ++ regs [.KNK_CTL, .AUX_CTL, .SER_LCTL, .ETH_PCTL,
    .ETH_PSTAT] ++ [.knkPend]
  | .routeSetRoutes _ _ => helham ++ regs [.HUB_KMAP, .PLK_ROUTE]
  | .routeSetKnuckles _ _ => helham ++ regs [.HUB_KMAP, .PLK_ROUTE]
  | .marginReport _ _ _ => helham
  | .marginApply _ _ _ => helham ++ regs [.AGE_ROFF]
  | .fwStage _ _ _ => helham ++ [.flash]
  | .fwCommit _ _ _ _ => helham
  | .coreRetest _ _ _ _ => helham ++ storedData ++ regs [.CMP_PCTL, .CMP_PDROP, .CMP_STAT, .HUB_DB, .HUB_DBDROP]
  | .spareMap _ _ _ => helham ++ coreGoes ++ storedData ++ regs [.CMP_CELL_CTL, .CMP_MAP_DATA, .CMP_PCTL, .CMP_STAT, .CMP_ECE,
    .CMP_EUE, .HUB_DB] ++ [.free, .cells]
  | .memtest _ _ _ => helham ++ storedData ++ regs [.HBM_REFCTL] ++ [.hbm, .narrow, .memtest]
  | .blankReport _ _ _ => helham
  | .deferredCommandRun _ _ _ => laneMoves ++ coreGoes ++ siteDowns ++ knuckleMoves ++ replies ++ storedData ++ regs
    [.CMP_CELL_CTL, .TEN_CTL, .TEN_ENTRY, .TEN_PROG, .SBF_OWNER, .UNF_CTL, .UNF_FSEG_LO, .UNF_FSEG_HI, .UNF_FINFO, .UNF_GCNT,
    .UNF_BUSYC, .DSP_CTL, .DSP_STAT, .DSP_STEP, .DSP_FINFO, .DSP_FTICK, .DSP_NSPILL, .DSP_NLOST, .DSP_NNAN, .TMB_STAT,
    .TMB_RANGE, .HBM_STAT, .HBM_REFCTL, .HBM_RRATE, .HBM_RLEVEL, .HBM_RGCAP, .CMP_ECE, .CMP_EUE, .KRG_QUOTA, .KRG_QUSE,
    .KRG_RKCTL, .KRG_RKHALT_LO, .KRG_RKHALT_HI, .KNK_CTL, .AUX_CTL, .SER_LCTL, .ETH_PCTL, .ETH_PSTAT, .MBX_ECTL, .MBX_SUBCTL,
    .MBX_SUBCNT, .MBX_ODATA, .MBX_EDATA, .WRD_EPOCH, .PWR_STATE, .PWR_DCTL, .PWR_CLK] ++ [.pw, .cells, .cellPart, .dsps,
    .wrq, .hbm, .narrow, .memtest, .drains, .knkPend, .stews, .parts, .pws]
  | .leadHeartbeat _ => posting ++ regs [.ETH_LEAD, .WRD_EPOCH, .WRD_NREF] ++ [.stews]
  | .electionStart _ => [.stews]
  | .electionPropose _ => posting ++ regs [.ETH_LEAD, .MBX_ECTL, .MBX_SUBCTL, .MBX_SUBCNT, .MBX_EDATA, .WRD_EPOCH, .WRD_NREF]
    ++ [.eths, .stews]
  | .leadOnlyMessage _ _ _ _ _ => allRegisters ++ laneMoves ++ helham ++ sbufMoves ++ [.pw, .capt, .held, .cores, .cells, .tmb,
    .waits, .swGen, .dsps, .wrq, .conv, .stest, .zfill, .krgP, .drains, .stwIo, .knks, .knkPend, .mapUpd, .sites, .qps,
    .wards, .pws, .chunks]
  | .leadMessageTimeout _ _ => replies ++ regs [.MBX_ECTL, .MBX_SUBCTL, .MBX_SUBCNT, .MBX_ODATA, .MBX_EDATA] ++ [.stews]
  | .nonceGet _ _ => portDowns ++ regs [.SER_LSTAT, .MBX_OCTL, .MBX_ODATA, .WRD_ID, .WRD_SVN, .WRD_PCEIL, .WRD_ICEIL,
    .WRD_TXMASK, .WRD_EMAC_LO, .WRD_EMAC_HI, .WRD_EIP4, .WRD_EIP6, .WRD_EPORT] ++ [.fuse, .eths, .mbxIn, .wards]
  | .wardSet _ _ => portDowns ++ regs [.SER_LSTAT, .MBX_OCTL, .MBX_ODATA, .WRD_ID, .WRD_SVN, .WRD_PCEIL, .WRD_ICEIL,
    .WRD_TXMASK, .WRD_EMAC_LO, .WRD_EMAC_HI, .WRD_EIP4, .WRD_EIP6, .WRD_EPORT] ++ [.fuse, .eths, .mbxIn, .wards]
  | .hostKey _ _ => portDowns ++ regs [.SER_LSTAT, .MBX_OCTL, .MBX_ODATA, .WRD_ID, .WRD_SVN, .WRD_PCEIL, .WRD_ICEIL,
    .WRD_TXMASK, .WRD_EMAC_LO, .WRD_EMAC_HI, .WRD_EIP4, .WRD_EIP6, .WRD_EPORT] ++ [.fuse, .eths, .mbxIn, .wards]
  | .provision _ _ => portDowns ++ regs [.SER_LSTAT, .MBX_OCTL, .MBX_ODATA, .WRD_ID, .WRD_SVN, .WRD_PCEIL, .WRD_ICEIL,
    .WRD_TXMASK, .WRD_EMAC_LO, .WRD_EMAC_HI, .WRD_EIP4, .WRD_EIP6, .WRD_EPORT] ++ [.fuse, .eths, .mbxIn, .wards]
  | .rotate _ _ => portDowns ++ regs [.SER_LSTAT, .MBX_OCTL, .MBX_ODATA, .WRD_ID, .WRD_SVN, .WRD_PCEIL, .WRD_ICEIL,
    .WRD_TXMASK, .WRD_EMAC_LO, .WRD_EMAC_HI, .WRD_EIP4, .WRD_EIP6, .WRD_EPORT] ++ [.fuse, .eths, .mbxIn, .wards]
  | .rollback _ _ => portDowns ++ regs [.SER_LSTAT, .MBX_OCTL, .MBX_ODATA, .WRD_ID, .WRD_SVN, .WRD_PCEIL, .WRD_ICEIL,
    .WRD_TXMASK, .WRD_EMAC_LO, .WRD_EMAC_HI, .WRD_EIP4, .WRD_EIP6, .WRD_EPORT] ++ [.fuse, .eths, .mbxIn, .wards]
  | .romBoot _ _ => posting ++ knuckleMoves ++ regs [.WRD_STAT, .WRD_SVN, .PWR_RSET, .FLT_PCTL, .AGE_ROFF] ++ [.alert, .stews,
    .wards, .flash]
  | .bootlockSet _ => regs [.WRD_STAT]
  | .wardAttest _ => regs [.WRD_OPCTL] ++ [.wards]
  | .wardKeyx _ => regs [.WRD_OPCTL] ++ [.wards]
  | .wardOpComplete _ => regs [.WRD_OPCTL, .WRD_OOUT] ++ [.free, .wards]
  | .measExtend _ => [.wards]
  | .epochWrite _ _ => regs [.WRD_EPOCH]
  | .wardDebug _ _ => regs [.WRD_STAT] ++ [.free, .wards]
  | .powerSequencerGo _ _ => portDowns ++ regs [.DSP_STAT, .HBM_STAT, .SER_LCTL, .SER_LSTAT, .SER_NEVT, .PWR_STATE, .PWR_DCTL,
    .PWR_CLK] ++ [.pw, .wrq, .pws]
  | .powerStepComplete _ _ _ => allRegisters ++ laneMoves ++ hbmReads ++ helham ++ [.fuse, .pw, .capt, .held, .cores, .cells,
    .tmb, .waits, .dsps, .bq, .rdq, .wrq, .rows, .narrow, .conv, .merge, .scrub, .wback, .stest, .zfill, .memtest, .krgP,
    .drains, .stwIo, .flinks, .knks, .knkPend, .mapUpd, .sites, .tripN, .qps, .pws, .chunks]
  | .wakeRequest _ => knuckleMoves ++ regs [.KRG_PKG, .PWR_STATE, .PWR_DCTL, .PWR_WAKE, .PWR_CLK] ++ [.pw, .tripN, .pws]
  | .dieReset _ => allRegisters ++ laneMoves ++ hbmReads ++ helham ++ [.pw, .capt, .held, .cores, .cells, .tmb, .waits, .dsps,
    .bq, .rdq, .wrq, .rows, .narrow, .conv, .merge, .scrub, .wback, .stest, .zfill, .memtest, .krgP, .drains, .stwIo,
    .flinks, .knks, .knkPend, .mapUpd, .sites, .tripN, .qps, .parts, .pws, .chunks]
  | .powerGoodRise _ _ => allRegisters ++ laneMoves ++ hbmReads ++ helham ++ [.pw, .aon, .capt, .held, .lcnt, .cores, .cells,
    .tmb, .waits, .dsps, .bq, .rdq, .wrq, .rows, .narrow, .conv, .merge, .scrub, .wback, .stest, .zfill, .memtest, .krgP,
    .drains, .stwIo, .flinks, .knks, .knkPend, .mapUpd, .sites, .alert, .tripN, .qps, .parts, .wards, .pws, .chunks, .i3c,
    .i3cOut]
  | .powerGoodFall _ => allRegisters ++ laneMoves ++ hbmReads ++ helham ++ [.pw, .aon, .capt, .held, .lcnt, .cores, .cells,
    .tmb, .waits, .dsps, .bq, .rdq, .wrq, .rows, .narrow, .conv, .merge, .scrub, .wback, .stest, .zfill, .memtest, .krgP,
    .drains, .stwIo, .flinks, .knks, .knkPend, .mapUpd, .sites, .alert, .tripN, .qps, .parts, .wards, .pws, .chunks, .i3c,
    .i3cOut]
  | .junctionSample _ _ => regs [.PWR_TJ] ++ [.pws]
  | .throttleStep _ _ => posting ++ regs [.WRD_STAT, .PWR_THR] ++ [.pws]
  | .throttleReleaseStep _ _ => posting ++ regs [.WRD_STAT, .PWR_THR] ++ [.pws]
  | .powerFigureExchange _ _ _ _ => regs [.PWR_PDIE, .PWR_RMEAS] ++ [.pws]
  | .thermalTrip _ => allRegisters ++ laneMoves ++ hbmReads ++ helham ++ [.pw, .capt, .held, .cores, .cells, .tmb, .waits,
    .dsps, .bq, .rdq, .wrq, .rows, .narrow, .conv, .merge, .scrub, .wback, .stest, .zfill, .memtest, .krgP, .drains, .stwIo,
    .flinks, .knks, .knkPend, .mapUpd, .sites, .tripN, .qps, .parts, .pws, .chunks]
  | .railFault _ _ => allRegisters ++ laneMoves ++ hbmReads ++ helham ++ [.pw, .aon, .capt, .held, .lcnt, .cores, .cells, .tmb,
    .waits, .dsps, .bq, .rdq, .wrq, .rows, .narrow, .conv, .merge, .scrub, .wback, .stest, .zfill, .memtest, .krgP, .drains,
    .stwIo, .flinks, .knks, .knkPend, .mapUpd, .sites, .alert, .tripN, .qps, .parts, .wards, .pws, .chunks, .i3c, .i3cOut]
  | .refclkLoss _ => allRegisters ++ laneMoves ++ hbmReads ++ helham ++ [.pw, .capt, .held, .cores, .cells, .tmb, .waits,
    .dsps, .bq, .rdq, .wrq, .rows, .narrow, .conv, .merge, .scrub, .wback, .stest, .zfill, .memtest, .krgP, .drains, .stwIo,
    .flinks, .knks, .knkPend, .mapUpd, .sites, .alert, .qps, .parts, .pws, .chunks]
  | .pllLockLoss _ _ => allRegisters ++ laneMoves ++ hbmReads ++ helham ++ [.pw, .capt, .held, .cores, .cells, .tmb, .waits,
    .dsps, .bq, .rdq, .wrq, .rows, .narrow, .conv, .merge, .scrub, .wback, .stest, .zfill, .memtest, .krgP, .drains, .stwIo,
    .flinks, .knks, .knkPend, .mapUpd, .sites, .qps, .parts, .pws, .chunks]
  | .slowclkLoss _ => posting ++ regs [.PWR_CLK] ++ [.alert]
  | .slowclkRestore _ => regs [.PWR_CLK]
  | .memoryTestPhaseEnd _ _ => posting ++ storedData ++ regs [.TEN_STAT, .DSP_STAT, .HBM_STAT, .HBM_REFCTL, .HBM_BLENT,
    .HBM_BLSTAT, .HBM_PEN_LO, .HBM_PEN_HI, .HBM_RET_LO, .HBM_RET_HI, .HBM_RETCNT, .PWR_CLK] ++ [.pw, .hbm, .memtest, .pws]
  | .b0okClear _ => regs [.HUB_LEVEL]
  | .chunkSend _ _ _ _ _ => regs [.SBF_ECE, .SBF_EUE, .SBF_ELAST, .HUB_LDCTL] ++ [.free, .chunks]
  | .chunkReceive _ _ => coreGoes ++ storedData ++ regs [.CMP_ECE, .CMP_EUE, .CMP_LDERR] ++ [.free, .chunks]
  | .faultPost _ => posting ++ regs [.FLT_PCTL]
  | .faultPop _ _ => regs [.FLT_STAT, .FLT_HEAD]
  | .ageSample _ _ => posting ++ regs [.HBM_LMARG, .KNK_MARG, .FLT_PCTL, .AGE_STAT, .AGE_MVAL, .AGE_EFF] ++ [.pws]
  | .ageSampleNow _ _ => posting ++ regs [.HBM_LMARG, .KNK_MARG, .FLT_PCTL, .AGE_STAT, .AGE_MVAL, .AGE_EFF]
  | .marginEvaluate _ => posting ++ regs [.MBX_ECTL, .MBX_SUBCNT, .MBX_EDATA, .WRD_EPOCH, .WRD_NREF] ++ [.eths, .stews]
  | .i3cPrivateRead _ _ _ => [.i3cOut]
  | .i3cPrivateWrite _ _ => [.i3cOut]
  | .i3cCcc _ _ _ => [.i3c, .i3cOut]
  | .i3cBlockRefresh _ => [.i3c]
  | .localCounterTick _ => [.lcnt]
  | .builtInSelfTestEnd _ _ _ => allRegisters ++ laneMoves ++ hbmReads ++ helham ++ [.pw, .capt, .held, .cores, .cells, .tmb,
    .waits, .dsps, .bq, .rdq, .wrq, .rows, .narrow, .conv, .merge, .scrub, .wback, .stest, .zfill, .memtest, .krgP, .drains,
    .stwIo, .flinks, .knks, .knkPend, .mapUpd, .sites, .alert, .tripN, .qps, .parts, .pws, .chunks]
  | .chunkSendComplete _ => regs [.HUB_LDCTL]
  | .eventSendComplete _ => regs [.MBX_ECTL]
  | .portSleepWaitTimeout _ => portDowns ++ regs [.SER_LSTAT, .SER_NEVT]
  | .wardRelayTimeout _ => regs [.MBX_OCTL, .MBX_ODATA] ++ [.eths, .mbxIn, .wards]

/-! Plan words -/

/-- A word of opcode `op` is the next that a core issues (R66-R82): the core and its cell's clocks run, no back-edge is due, no TRADD
holds issue; the word stands below PLIMIT, was read without error, and no register that it reads awaits a CVAL. `reads` are the registers its
operands read. `i` is the word with what its core holds. -/
def Issues (d : Dev) (cell core op : Nat) (reads : List Nat) (i : Iss) : Prop :=
  d.ready cell core = some i ∧ i.ue = false ∧ d.atLimit i = false ∧ i.op = op ∧
    (∀ v ∈ i.c.cvals, v.1 ∉ reads ∧ (i.f 8 8 = 1 → v.1 ≠ i.f 15 12))

/-- The core of a word that has issued: the word has left its fetch buffer, and `f` has acted where the word executes (R68). -/
def Iss.after (i : Iss) (f : Core → Core) : Core := if i.executes = true then f i.c.advance else i.c.advance

/-- A core has trapped (R85-R87): it is in TRAP at word `ix`, and its trap record names the cause and INFO. -/
def Core.trapped (c : Core) (ix : Nat) (t : Trap) : Prop :=
  c.st = .trap ∧ c.pc = ix ∧ c.trapv = true ∧ field c.trap 0 2 = t.1 % 2 ^ 16 ∧ field c.trap 4 2 = ix % 2 ^ 16 ∧ field c.trap 16 4 = t.2 % 2 ^ 32

/-- A core's message as it leaves the core: what a deadbolt at its cell or at the hub holds back is counted, not sent (R36, R271). -/
def sentBy (d e : Dev) (cell core : Nat) (m : CtlMsg) : Prop :=
  d.deadbolt cell core = false → d.hubDeadbolt cell core = false → e.ctl = d.ctl ++ [m]

/-- Bytes [p, p + n) of `Dev.mem` lie in none of the 8-byte words that hold bytes of the ranges (first offset, length) of a scratchpad. -/
def outsideWords (key : Nat) (rs : List (Nat × Nat)) (a : Nat) : Prop :=
  ∀ r ∈ rs, a < (spAddr key r.1) / 8 * 8 ∨ (spAddr key (r.1 + r.2) + 7) / 8 * 8 ≤ a


/-- The next step of a dispatch unit has all that it needs (R144–R147, R158): the unit runs, no failure met, no END executed; the step's
descriptor is fetched, is of operation `op` and obeys its conditions; its wait is met; its tumblers lie in the partition's range. -/
def Dev.dspNext (d : Dev) (die op : Nat) (f : Fetched) (rest : List Fetched) : Prop :=
  let s := parseStep f.raw
  d.dspSt die = dspRun ∧ d.dspLive die = true ∧ (d.dsp die).ended = false ∧ (d.dsp die).fetched = f :: rest ∧ f.st = .ok ∧ s.op = op ∧
    s.ok = true ∧ (s.wen = true → d.dspTumbOk die s.wtumb = true ∧ (d.dsp die).met = true) ∧ (s.aen = true → d.dspTumbOk die s.atumb = true)

/-- The adds of a unit once a step has been executed (R147). -/
def Dev.dspAdds (d : Dev) (die : Nat) (f : Fetched) : List DspAdd :=
  let s := parseStep f.raw
  (d.dsp die).adds ++ if s.aen then [⟨f.n, bitsOf s.atumb 17 16, s.atumb % 2 ^ 16, s.aval⟩] else []

/-! Tile engines -/

/-- Nothing of an engine waits to follow at once: it is not on its way into a halt, no slot holds data whose write may leave (R106, R121), and
no unfold context is its (R137). -/
def Dev.engQuiet (d : Dev) (die e : Nat) : Prop :=
  (d.eng die e).halting = false ∧ (∀ s ∈ (d.eng die e).slots, s.st ≠ .held) ∧ ∀ u, u < 24 → ∀ c ∈ (d.unfAt die u).ctx, c.2.eng ≠ e

/-- The next entry of an engine's list has all that it needs to begin (R93, R95, R99, R101–R103): the engine runs, no failure met, no END executed,
the entry before it has issued its last transaction; the entry is fetched, is of operation `op` and obeys its conditions; the unfold
engine it names is the partition's; its tumblers lie in the partition's range. -/
def Dev.entNext (d : Dev) (die e op : Nat) (f : Fetched) (rest : List Fetched) : Prop :=
  let en := parseEnt f.raw
  let g := d.eng die e
  let part := d.tenPart die e
  d.tenSt die e = tenRun ∧ g.ended = false ∧ g.issuedAll = true ∧ d.engQuiet die e ∧ g.fetched = f :: rest ∧ f.st = .ok ∧ en.op = op ∧
    en.ok (d.b0Level die) die = true ∧
    (en.unf = true → d.on? F.UNF_CTL_ASSIGN die en.unfx = true ∧ d.get F.UNF_CTL_PART die en.unfx = part) ∧
    (en.wen = true → d.tumbOk die part en.wtumb = true) ∧ (en.aen = true → d.tumbOk die part en.atumb = true)

/-- An operation on a tumbler, as its sender composes it (R170, R175). -/
def opMsg (src : Ep) (opc gen home idx part val : Nat) : CtlMsg :=
  ⟨src, .bank home, opc, 0, gen, src.peer, tumbField home idx part, val, 0⟩

/-- The state in which the next transaction of an entry has its window slot, before its endpoints are translated (R104). -/
def Dev.slotTaken (d : Dev) (die e : Nat) (r : EntRun) : Dev :=
  (d.put F.TEN_PROG_NEXT ((r.next + 1) % 2 ^ 32) die e).modEng die e fun x =>
    { x with
      ents := x.ents.map fun q => if q.n = r.n then { q with next := q.next + 1 } else q,
      slots := x.slots ++ [⟨(d.eng die e).freeSlot, r.n, r.next, .lineWait, .gpa 0, .gpa 0, [], none, false⟩] }

/-- A packet that waits in the hub meets no obstacle between two ends: a path leads there, the die there is up, no port on the way is fenced
(R272–R274). -/
def Dev.wayOpen (d : Dev) (src dst : Nat) (pa pb : Option Nat) : Prop :=
  ∃ path, routePath (d.kmap src) src dst = some path ∧ d.carrierUp dst = true ∧ d.fenceOn src dst pa pb path = none

/-! Unfold engines -/

/-- The feeding engine of a row has nothing else under way: only the row's next line holds a window slot, the engine is not on its way into a halt, no
output line waits or is unanswered in any context of the die (R137, R138). -/
def Dev.lineNext (d : Dev) (die : Nat) (c : UCtx) : Prop :=
  d.rowsRun die c.eng = true ∧ c.bad = false ∧ (d.eng die c.eng).fails = [] ∧
  (∀ s ∈ (d.eng die c.eng).slots, s.ent = c.ent ∧ s.idx = c.row * c.en.perRow + c.parsed) ∧
  (∀ u, u < 24 → ∀ q ∈ (d.unfAt die u).ctx, q.2.ready = []) ∧ (∀ q ∈ d.rowsOf die c.eng, q.out = [])

/-- A row's context once its next line has joined the segment being parsed. -/
def UCtx.joined (c : UCtx) (bs : Bytes) : UCtx :=
  { c with
    buf := c.buf.del c.parsed, parsed := c.parsed + 1, segBytes := c.segBytes ++ bs,
    segLine := if c.segBytes.isEmpty then c.parsed else c.segLine }

/-- A register that a write changes by the access codes of its fields alone (R10): its write starts nothing and is not refused. -/
def plainReg (r : Reg) : Bool :=
  !([Reg.CMP_CELL_CTL, .CMP_MAP_DATA, .CMP_PCTL, .CMP_LDCTL, .CMP_PRUN, .CMP_STEST, .SBF_STEST, .HBM_STEST, .TEN_CTL, .UNF_CTL, .DSP_CTL,
    .DSP_OVBASE, .DSP_OVSIZE, .TMB_VALUE, .TMB_ADD, .TMB_RANGE, .TMB_SWCTL, .TMB_BCMASK_LO, .TMB_BCMASK_HI, .TMB_BCCMD, .HBM_CTL, .HBM_TEMP,
    .HBM_REFCTL, .HBM_RRATE, .HBM_NCSEL, .HBM_NCCTL, .SBF_ZFILL, .KRG_ECMD, .KRG_RKCTL, .KRG_HWCTL, .KRG_HWBASE_LO, .KRG_HWBASE_HI,
    .KRG_HWRKEY, .KRG_HWLEN, .HUB_DB, .HUB_PFENCE_LO, .HUB_PFENCE_HI, .HUB_KMAP, .HUB_LDCTL, .HUB_LEVEL, .KNK_CTL, .AUX_CTL, .SER_LCTL,
    .PLK_PCTL, .PLK_ROUTE, .ETH_PCTL, .ETH_QCTL, .ETH_DQPN, .ETH_SPSN, .ETH_EPSN, .ETH_DMAC_LO, .ETH_DMAC_HI, .ETH_DIP, .ETH_RBASE_LO,
    .ETH_RBASE_HI, .ETH_RSLOT, .ETH_RTUMB, .ETH_RGCTL, .ETH_RGKEY, .ETH_RGBASE_LO, .ETH_RGBASE_HI, .ETH_RGLEN, .ETH_LEAD, .MBX_OCTL,
    .MBX_ECTL, .MBX_EDATA, .MBX_SUBCTL, .WRD_EPOCH, .WRD_STAT, .WRD_MEXT, .WRD_MCTL, .WRD_OPCTL, .PWR_DCTL, .PWR_TJ, .PWR_RSET,
    .FLT_POP, .FLT_PCTL, .AGE_CTL] : List Reg).contains r

/-- What a write of the word `v` leaves of a register's fields, each by its access code (R10); a reserved encoding leaves the field (R14). -/
def Dev.written (d e : Dev) (k : RKey) (v : Nat) : Prop :=
  ∀ row ∈ k.reg.rows,
    let old := d.get row.fld k.die k.i k.s
    let now := e.get row.fld k.die k.i k.s
    let new := bitsOf v row.fld.hi row.fld.lo
    match row.acc with
    | .ro => now = old
    | .wo => now = old
    | .rw => now = if d.encOk row.fld new = true then new else old
    | .w1c => ∀ j, hasBit now j = (hasBit old j && !hasBit new j)
    | .w1s => ∀ j, hasBit now j = (hasBit old j || hasBit new j)
    | .rol => now = if d.on? F.WRD_STAT_BOOTLOCK k.die = true ∨ d.encOk row.fld new = false then old else new

/-- A steward's last access to memory or to a register gave bytes, or faulted (R187). -/
def Dev.answered (d : Dev) (die : Nat) (bs : Bytes) (bad : Bool) : Prop :=
  (d.stwIo.at? die).map (fun x => (x.1, x.2.1)) = some (bs, bad)

/-- A die's fault queue after a record is posted (R445, R446, R448): the record stands behind those held and takes the next SEQ; a full queue drops it,
counts it by its class and sets OVF. -/
def Dev.posted (d e : Dev) (die : Nat) (r : Rec) : Prop :=
  let n := d.get F.FLT_STAT_COUNT die
  if n < 1024 then
    e.get F.FLT_STAT_COUNT die = n + 1 ∧ e.get F.FLT_NEXT_SEQ die = (d.get F.FLT_NEXT_SEQ die + 1) % 2 ^ 16 ∧
    e.get F.FLT_HEAD_INDEX die = d.get F.FLT_HEAD_INDEX die ∧
    e.fltRecord die n = (recWords die (d.tick die) (d.get F.FLT_NEXT_SEQ die) r).map (· % 2 ^ 32) ∧
    ∀ j, j < n → e.fltRecord die j = d.fltRecord die j
  else
    e.get F.FLT_STAT_COUNT die = n ∧ e.get F.FLT_STAT_OVF die = 1 ∧
    e.get F.FLT_DROP_COUNT die 0 r.cls = satAdd 32 (d.get F.FLT_DROP_COUNT die 0 r.cls) 1 ∧ ∀ j, e.fltRecord die j = d.fltRecord die j

/-- A protected unit of stored data was written and holds its codeword unaltered (R224, R225). -/
def Dev.clean (d : Dev) (a w : Nat) : Prop := touches d.unwritten a w = false ∧ d.errs.at? a = none

/-! Knuckles -/

/-- The two ends of a knuckle: die, register instance (R273). -/
def knuckleSides (k : Nat) : List (Nat × Nat) :=
  [((knuckleEnds k).1, endInst k (knuckleEnds k).1), ((knuckleEnds k).2, endInst k (knuckleEnds k).2)]

/-- A knuckle shows a state at both ends (R284, R293). -/
def Dev.knkBoth (d : Dev) (k st : Nat) : Prop := ∀ x ∈ knuckleSides k, d.knkSt x.1 x.2 = st

/-- A knuckle is out of service in the maps of both its ends (R274). -/
def Dev.knkGone (d : Dev) (k : Nat) : Prop := ∀ x ∈ knuckleSides k, hasBit (d.get F.HUB_KMAP_UP x.1) k = false

/-- No command waits for a knuckle's sequence to end (R284). -/
def Dev.knkNoPend (d : Dev) (k : Nat) : Prop := ∀ x ∈ knuckleSides k, d.knkPend.at? x = none
end Sys2Proof.Machine
end

