-- ==== Sys2Proof/Certificates/Slice0/Obligations.lean ====
section
/-!
DEFINITION. What the model's users may rely on: the statements for the provers.
-/
open Sys2Proof Sys2Proof.Machine

/-- Commands are carried out in the order in which they wait: a step does to the rest of the machine what the command at the front of the
queue does, with the rest of the queue left waiting. -/
def Obligations.StepRunsFrontCommand : Prop :=
  ∀ (c : Instr) (cs : List Instr) (d : Dev), step ⟨c :: cs, d⟩ = exec c ⟨cs, d⟩

/-- With no command waiting a step leaves the package as it is. The model's choice, log entry 1. -/
def Obligations.EmptyQueueIdles : Prop :=
  ∀ d : Dev, step ⟨[], d⟩ = .next ⟨[], d⟩

/-- No command ends in a fault or a refusal, in any state: whatever the specification calls a failure is an effect on the package. -/
def Obligations.EveryCommandAnswers : Prop :=
  ∀ (c : Instr) (s : State), ∃ t, exec c s = .next t

/-- Stored data stands in its canonical form at reset. -/
def Obligations.ResetIsStored : Prop := State.reset.stored

/-- Every step keeps stored data in its canonical form: addresses strictly rise and no cell holds what an unlisted address reads as. -/
def Obligations.StepKeepsStored : Prop :=
  ∀ s t : State, s.stored → step s = .next t → t.stored

/-- Frame of every command: it leaves the queue as it is, and every piece of the package that `mayChange` does not list for it. -/
def Obligations.EveryCommandFrame : Prop :=
  ∀ (c : Instr) (s t : State), exec c s = .next t → t.pending = s.pending ∧ ∀ p : Piece, p ∉ mayChange c → p.same s.dev t.dev

/-- A command whose unit the package does not build, or whose power domain is down, changes nothing. The model's choice, log entry 11. -/
def Obligations.AbsentUnitUnchanged : Prop :=
  ∀ (c : Instr) (s : State), (placeOf c).up s.dev = false → exec c s = .next s

/-- Count words, NOP, FLAGS and DCAP (R69, R75): the word leaves the fetch buffer; where its predicate holds it writes its count register,
clears the flags that CLRM names, or sets the density cap. -/
def Obligations.CountWords : Prop :=
  ∀ cell core : Nat,
    Effect (.nop cell core) (fun d e => ∀ i, Issues d cell core 0 [] i → resvOutside [] i.w = false →
      e.coreAt (coreKey cell core) = i.c.advance) ∧
    Effect (.cset cell core) (fun d e => ∀ i, Issues d cell core 0x08 [] i → resvOutside [(51, 16)] i.w = false →
      e.coreAt (coreKey cell core) = i.after fun c => { c with cnt := c.cnt.set (i.f 19 16) (i.f 51 20) }) ∧
    Effect (.calc cell core) (fun d e => ∀ i, Issues d cell core 0x09 [i.f 23 20] i → resvOutside [(52, 16)] i.w = false →
      let sum : Int := (i.c.cnt.getD (i.f 23 20) 0 : Nat) + sext 24 (i.f 47 24)
      e.coreAt (coreKey cell core) = i.after fun c =>
        { c with cnt := c.cnt.set (i.f 19 16) (max 0 (min (2 ^ 32 - 1) (sum / (2 ^ i.f 52 48 : Nat)))).toNat }) ∧
    Effect (.cmin cell core) (fun d e => ∀ i, Issues d cell core 0x0A [i.f 23 20] i → resvOutside [(55, 16)] i.w = false →
      e.coreAt (coreKey cell core) = i.after fun c =>
        { c with cnt := c.cnt.set (i.f 19 16) (min (i.c.cnt.getD (i.f 23 20) 0) (i.f 55 24)) }) ∧
    Effect (.flags cell core) (fun d e => ∀ i, Issues d cell core 0x04 [] i → resvOutside [(22, 16)] i.w = false →
      e.coreAt (coreKey cell core) = i.after fun c =>
        { c with cnt := c.cnt.set (i.f 19 16) (ofBits [c.flags.nv, c.flags.of, c.flags.sat]),
                 flags := ⟨c.flags.nv && i.f 20 20 == 0, c.flags.of && i.f 21 21 == 0, c.flags.sat && i.f 22 22 == 0⟩ }) ∧
    Effect (.dcap cell core) (fun d e => ∀ i, Issues d cell core 0x05 [] i → resvOutside [(21, 16)] i.w = false → i.f 21 16 ≤ 32 →
      e.coreAt (coreKey cell core) = i.after fun c => { c with dcap := if i.f 21 16 = 0 then 32 else i.f 21 16 })

/-- Address words and the reading of an accumulator row (R70, R73): ASET sets a register and its increment, AADD adds modulo 2^18; VACC
copies a row of the accumulator into a vector register once no queued operation writes that accumulator (R51). -/
def Obligations.AddressAndRowWords : Prop :=
  ∀ cell core : Nat,
    Effect (.aset cell core) (fun d e => ∀ i, Issues d cell core 0x10 [] i → resvOutside [(55, 16)] i.w = false →
      e.coreAt (coreKey cell core) = i.after fun c => { c with ad := c.ad.set (i.f 19 16) (i.f 37 20, i.f 55 38) }) ∧
    Effect (.aadd cell core) (fun d e => ∀ i, Issues d cell core 0x11 [] i → resvOutside [(37, 16)] i.w = false →
      let a := i.c.ad.getD (i.f 19 16) (0, 0)
      e.coreAt (coreKey cell core) = i.after fun c => { c with ad := c.ad.set (i.f 19 16) ((a.1 + i.f 37 20) % 2 ^ 18, a.2) }) ∧
    Effect (.vacc cell core) (fun d e => ∀ i, Issues d cell core 0x22 [] i → resvOutside [(28, 16)] i.w = false →
      (∀ o ∈ i.c.mat, o.acc ≠ i.f 17 16) →
      let row := (i.f 21 18 + if i.f 22 22 = 1 then i.c.lidx (i.f 24 23) else 0) % 16
      let t := i.c.acc.getD (i.f 17 16) ⟨[], 0⟩
      e.coreAt (coreKey cell core) = i.after fun c =>
        { c with vr := c.vr.set (i.f 28 25) ((List.range 16).map fun n => t.v.getD (16 * row + n) 0) })

/-- MTA and MTB (R72): the latch takes the addresses as the registers hold them, then the registers that the word names are incremented; a
misaligned address traps instead. -/
def Obligations.LatchWords : Prop :=
  ∀ cell core : Nat,
    Effect (.mta cell core) (fun d e => ∀ i, Issues d cell core 0x18 [] i → resvOutside [(29, 16)] i.w = false → i.f 29 26 ≤ 7 →
      i.c.a? (i.f 19 16) % 64 = 0 → (i.f 29 26 ≠ 7 → i.c.a? (i.f 24 21) % 64 = 0) →
      e.coreAt (coreKey cell core) = i.after fun c =>
        ({ c with latA := some ⟨i.c.a? (i.f 19 16), i.c.a? (i.f 24 21), 0, i.f 29 26, false⟩ }.postInc (i.f 19 16) (i.f 20 20)).postInc
          (i.f 24 21) (if i.f 29 26 = 7 then 0 else i.f 25 25)) ∧
    Effect (.mtb cell core) (fun d e => ∀ i, Issues d cell core 0x19 [] i → resvOutside [(35, 16)] i.w = false → i.f 29 26 ≤ 7 →
      i.c.a? (i.f 19 16) % 64 = 0 → (i.f 29 26 ≠ 7 → i.c.a? (i.f 24 21) % 64 = 0) → (i.f 35 35 = 1 → i.c.a? (i.f 33 30) % 64 = 0) →
      e.coreAt (coreKey cell core) = i.after fun c =>
        (({ c with latB := some ⟨i.c.a? (i.f 19 16), i.c.a? (i.f 24 21), i.c.a? (i.f 33 30), i.f 29 26, i.f 35 35 == 1⟩ }.postInc
          (i.f 19 16) (i.f 20 20)).postInc (i.f 24 21) (if i.f 29 26 = 7 then 0 else i.f 25 25)).postInc
          (i.f 33 30) (if i.f 35 35 = 0 then 0 else i.f 34 34)) ∧
    (∀ s i, isUp (.mta cell core) s → Issues s.dev cell core 0x18 [] i → resvOutside [(29, 16)] i.w = false → i.f 29 26 ≤ 7 →
      i.executes = true → i.c.a? (i.f 19 16) % 64 ≠ 0 →
      Completes (.mta cell core) s fun e => (e.coreAt (coreKey cell core)).trapped i.ix (9, i.c.a? (i.f 19 16)))

/-- LOOP and the back-edge (R71): an executed LOOP opens a level with index 0 and the trip count it fixes now, or skips its body when that count is
0, as a LOOP does that its predicate turns away; at the back-edge the index advances to the first word of the body, or after the last trip the
level closes. -/
def Obligations.LoopWords : Prop :=
  ∀ cell core : Nat,
    Effect (.loopWord cell core) (fun d e => ∀ i, Issues d cell core 0x02 (if i.f 28 28 = 1 then [i.f 32 29] else []) i →
      resvOutside [(56, 16)] i.w = false →
      let last := i.ix + i.f 27 16 + 1
      let trip := if i.f 28 28 = 1 then min (i.c.cnt.getD (i.f 32 29) 0) (i.f 56 33) else i.f 56 33
      let c := e.coreAt (coreKey cell core)
      if i.executes = false then c = { i.c.advance with pc := last + 1, fbuf := [] }
      else if 4 = i.c.loops.length then c.trapped i.ix (4, 0)
      else if (∃ v, i.c.loops.getLast? = some v ∧ v.stop < last) then ∃ v, i.c.loops.getLast? = some v ∧ c.trapped i.ix (5, v.stop)
      else if trip = 0 then c = { i.c.advance with pc := last + 1, fbuf := [] }
      else c = { i.c.advance with loops := i.c.loops ++ [⟨i.ix + 1, last, 0, trip⟩], lbuf := [] }) ∧
    Effect (.loopBackEdge cell core) (fun d e => ∀ v, (d.coreAt (coreKey cell core)).st = .run → d.cellRuns cell = true →
      (d.coreAt (coreKey cell core)).tradd = none → (d.coreAt (coreKey cell core)).loops.getLast? = some v →
      (d.coreAt (coreKey cell core)).pc = v.stop + 1 →
      let c := d.coreAt (coreKey cell core)
      let c' := e.coreAt (coreKey cell core)
      if v.idx + 1 < v.trip then c'.pc = v.start ∧ c'.loops = c.loops.dropLast ++ [{ v with idx := v.idx + 1 }]
      else c'.pc = c.pc ∧ c'.loops = c.loops.dropLast)

/-- Loads of a core (R69, R73, R75, R59, R39, R70): a word whose address is aligned and within the scratchpad and whose data is
correctable writes its register, or the streams or the table that come into force when the load ends, then the address register is
incremented; an access beyond the scratchpad traps with OFFSET. -/
def Obligations.LoadWords : Prop :=
  ∀ (cell core : Nat) (ups : List (Nat × Nat)),
    let k := coreKey cell core
    let clean := fun (d : Dev) (i : Iss) (a n al : Nat) =>
      i.executes = true → a % al = 0 ∧ a + n ≤ 0x28000 ∧ ((d.upset ups).spRead d.free k a n).ue = none
    let bytes := fun (d : Dev) (a n : Nat) => ((d.upset ups).spRead d.free k a n).data
    Effect (.cload cell core ups) (fun d e => ∀ i, Issues d cell core 0x0B [] i → resvOutside [(24, 16)] i.w = false →
      clean d i (i.c.a? (i.f 23 20)) 4 4 →
      e.coreAt k = i.after fun c =>
        { c with cnt := c.cnt.set (i.f 19 16) (leNat (bytes d (i.c.a? (i.f 23 20)) 4)) }.postInc (i.f 23 20) (i.f 24 24)) ∧
    Effect (.vld cell core ups) (fun d e => ∀ i, Issues d cell core 0x20 [] i → resvOutside [(24, 16)] i.w = false →
      clean d i (i.c.a? (i.f 23 20)) 64 64 →
      e.coreAt k = i.after fun c =>
        { c with vr := c.vr.set (i.f 19 16) ((List.range 16).map fun j => field (bytes d (i.c.a? (i.f 23 20)) 64) (4 * j) 4) }.postInc
          (i.f 23 20) (i.f 24 24)) ∧
    Effect (.seedWord cell core ups) (fun d e => ∀ i, Issues d cell core 0x03 [] i → resvOutside [(20, 16)] i.w = false →
      i.c.seedP = none → clean d i (i.c.a? (i.f 19 16)) 32 32 →
      e.coreAt k = i.after fun c =>
        { c.postInc (i.f 19 16) (i.f 20 20) with
          seedP := some ((List.range 4).map fun j => max 1 (field (bytes d (i.c.a? (i.f 19 16)) 32) (8 * j) 8)) }) ∧
    Effect (.lutld cell core ups) (fun d e => ∀ i, Issues d cell core 0x06 [] i → resvOutside [(20, 16)] i.w = false →
      i.c.lutP = none → clean d i (i.c.a? (i.f 19 16)) 3136 64 →
      e.coreAt k = i.after fun c =>
        { c.postInc (i.f 19 16) (i.f 20 20) with
          lutP := some ((List.range 770).map fun j => field (bytes d (i.c.a? (i.f 19 16)) 3136) (4 * j) 4) }) ∧
    Effect (.seedComplete cell core) (fun d e => ∀ g, (d.coreAt k).seedP = some g → d.cellRuns cell = true →
      e.coreAt k = { d.coreAt k with rng := g, seedP := none }) ∧
    Effect (.lutldComplete cell core) (fun d e => ∀ t, (d.coreAt k).lutP = some t → d.cellRuns cell = true →
      e.coreAt k = { d.coreAt k with lut := t, lutP := none }) ∧
    Effect (.cload cell core ups) (fun d e => ∀ i, Issues d cell core 0x0B [] i → resvOutside [(24, 16)] i.w = false →
      i.executes = true → 0x28000 < i.c.a? (i.f 23 20) + 4 → (e.coreAt k).trapped i.ix (8, max (i.c.a? (i.f 23 20)) 0x28000)) ∧
    Effect (.vld cell core ups) (fun d e => ∀ i, Issues d cell core 0x20 [] i → resvOutside [(24, 16)] i.w = false →
      i.executes = true → 0x28000 < i.c.a? (i.f 23 20) + 64 → (e.coreAt k).trapped i.ix (8, max (i.c.a? (i.f 23 20)) 0x28000))

/-- Stores of a core with their frame of memory (R69, R73, R70, R39, R81, R221): CSTORE stores its count register as 4 bytes, VST its vector
register as 64, at the address that the address register holds; every byte outside the 8-byte words that hold those bytes reads as before. A
store into the cell's plan region traps with PLAN_WRITE and stores nothing. -/
def Obligations.StoreWords : Prop :=
  ∀ (cell core : Nat) (ups : List (Nat × Nat)),
    let k := coreKey cell core
    let free := fun (d : Dev) (i : Iss) (a n : Nat) =>
      i.executes = true ∧ a % n = 0 ∧ a + n ≤ 0x28000 ∧ ¬(a < (d.cellAt cell).plimit * 64 ∧ (d.cellAt cell).pbase * 64 < a + n)
    let stores := fun (d e : Dev) (a : Nat) (bs : Bytes) =>
      d.mem.wf = true → ∀ x, (spAddr k a ≤ x → x < spAddr k a + bs.length → e.mem.byte x = bs.getD (x - spAddr k a) 0) ∧
        (outsideWords k [(a, bs.length)] x → e.mem.byte x = d.mem.byte x)
    Effect (.cstore cell core ups) (fun d e => ∀ i, Issues d cell core 0x0C [i.f 19 16] i → resvOutside [(24, 16)] i.w = false →
      free d i (i.c.a? (i.f 23 20)) 4 →
      stores d e (i.c.a? (i.f 23 20)) (leBytes 4 (i.c.cnt.getD (i.f 19 16) 0)) ∧
        e.coreAt k = i.c.advance.postInc (i.f 23 20) (i.f 24 24)) ∧
    Effect (.vst cell core) (fun d e => ∀ i, Issues d cell core 0x21 [] i → resvOutside [(24, 16)] i.w = false →
      free d i (i.c.a? (i.f 23 20)) 64 → (i.c.vr.getD (i.f 19 16) []).length = 16 →
      stores d e (i.c.a? (i.f 23 20)) ((i.c.vr.getD (i.f 19 16) []).flatMap (leBytes 4)) ∧
        e.coreAt k = i.c.advance.postInc (i.f 23 20) (i.f 24 24)) ∧
    Effect (.cstore cell core ups) (fun d e => ∀ i, Issues d cell core 0x0C [i.f 19 16] i → resvOutside [(24, 16)] i.w = false →
      i.executes = true → i.c.a? (i.f 23 20) % 4 = 0 → i.c.a? (i.f 23 20) + 4 ≤ 0x28000 →
      i.c.a? (i.f 23 20) < (d.cellAt cell).plimit * 64 → (d.cellAt cell).pbase * 64 < i.c.a? (i.f 23 20) + 4 →
      (e.coreAt k).trapped i.ix (10, i.c.a? (i.f 23 20)) ∧ e.mem = d.mem) ∧
    Effect (.vst cell core) (fun d e => ∀ i, Issues d cell core 0x21 [] i → i.executes = false →
      resvOutside [(24, 16)] i.w = false → e.coreAt k = i.c.advance ∧ e.mem = d.mem)

/-- VOP (R73): the destination register takes the function's lanes, the sticky flags join; the lanes of the integer, logical and
select functions are as the FN table gives them. A lookup waits for a table load to end. -/
def Obligations.VopWord : Prop :=
  (∀ cell core : Nat, Effect (.vop cell core) (fun d e => ∀ i, Issues d cell core 0x23 [] i → resvOutside [(39, 16)] i.w = false →
    i.f 23 16 ∈ fnCodes → (i.f 23 16 = 0x30 → i.c.lutP = none) →
    let r := vopFn d.free (i.f 23 16) i.c.lut (i.c.vr.getD (i.f 31 28) []) (i.c.vr.getD (i.f 35 32) []) (i.c.vr.getD (i.f 39 36) [])
    e.coreAt (coreKey cell core) = i.after fun c => { c with vr := c.vr.set (i.f 27 24) r.1, flags := c.flags.or r.2 })) ∧
  (∀ (k : Nat) (lut a b c : List Nat) (j : Nat), j < 16 →
    let lane := fun fn => (vopFn k fn lut a b c).1.getD j 0
    let x := a.getD j 0
    let y := b.getD j 0
    lane 0x0A = (if c.getD j 0 ≠ 0 then x else y) ∧ lane 0x10 = (x + y) % 2 ^ 32 ∧ lane 0x11 = (x + 2 ^ 32 - y) % 2 ^ 32 ∧
    lane 0x12 = x * 2 ^ (y % 32) % 2 ^ 32 ∧ lane 0x13 = x / 2 ^ (y % 32) ∧ lane 0x15 = x &&& y ∧ lane 0x16 = x ||| y ∧
    lane 0x17 = x ^^^ y ∧ lane 0x18 = (if sext 32 x ≤ sext 32 y then x else y) ∧ lane 0x19 = (if sext 32 x ≤ sext 32 y then y else x) ∧
    lane 0x1A = (if sext 32 x < sext 32 y then 0xFFFFFFFF else 0) ∧ (0 < j → lane 0x20 = 0 ∧ lane 0x21 = 0))

/-- VCVT (R74, R60-R64, R48) with its frame of memory: BF16 writes 16 values as 32 bytes; the other formats write a scale entry and, in the
packed form, the block's elements; the generator steps when rounding is stochastic, the flags join, the address registers are incremented; every
byte outside the 8-byte words of its destinations reads as before. -/
def Obligations.VcvtWord : Prop :=
  ∀ (cell core : Nat) (ups : List (Nat × Nat)),
    Effect (.vcvt cell core ups) (fun d e => ∀ i, Issues d cell core 0x24 [] i → resvOutside [(44, 16)] i.w = false → i.f 27 24 ≤ 7 →
      i.executes = true → i.c.seedP = none →
      (∀ r ∈ vcvtRanges i, r.1 + r.2 ≤ 0x28000 ∧ ¬(r.1 < (d.cellAt cell).plimit * 64 ∧ (d.cellAt cell).pbase * 64 < r.1 + r.2)) →
      let k := coreKey cell core
      let fmt := i.f 27 24
      let ead := i.c.a? (i.f 34 31)
      let sad := i.c.a? (i.f 39 36)
      ead % (if fmt = 7 then 32 else if i.f 30 30 = 0 then 8 else 64) = 0 → (fmt = 6 → sad % 4 = 0) → d.mem.wf = true →
      let g1 := i.c.rng.map rngStep
      let g2 := g1.map rngStep
      let sr := i.f 28 28 == 1
      let sat := i.f 29 29 == 1
      let c := e.coreAt k
      (∀ x, outsideWords k (vcvtRanges i) x → e.mem.byte x = d.mem.byte x) ∧
      (if fmt = 7 then
        let r := convBf16 sat (i.c.vr.getD (i.f 19 16) []) (if sr then some (rngLanes g1) else none)
        (∀ x, spAddr k ead ≤ x → x < spAddr k ead + (packElems 16 r.1).length → e.mem.byte x = (packElems 16 r.1).getD (x - spAddr k ead) 0) ∧
        c.rng = (if sr then g1 else i.c.rng) ∧ c.flags = i.c.flags.or r.2 ∧ c.ad = (i.c.postInc (i.f 34 31) (i.f 35 35)).ad
      else
        let b := convBlock fmt sat (i.c.vr.getD (i.f 19 16) [] ++ i.c.vr.getD (i.f 23 20) [])
          (if sr then some (rngLanes g1 ++ rngLanes g2) else none)
        let sc := scaleEntry fmt b
        let el := packElems (elemBits fmt) b.elems
        (∀ x, spAddr k sad ≤ x → x < spAddr k sad + sc.length → e.mem.byte x = sc.getD (x - spAddr k sad) 0) ∧
        (i.f 30 30 = 0 → ∀ x, spAddr k ead ≤ x → x < spAddr k ead + el.length → outsideWords k [(sad, sc.length)] x →
          e.mem.byte x = el.getD (x - spAddr k ead) 0) ∧
        c.rng = (if sr then g2 else i.c.rng) ∧ c.flags = i.c.flags.or b.flags ∧
        c.ad = ((i.c.postInc (i.f 34 31) (i.f 35 35)).postInc (i.f 39 36) (i.f 40 40)).ad))

/-- MMA, its completion and plan fetch (R72, R49-R55, R81, R82): an MMA with both latches valid and a pairing that R50 allows is queued with
the operands as latched, and traps with OPERAND_UNSET without them; a sparse operation whose bitmap names more rows in a group than the
cap traps with DENSITY_CAP and leaves the accumulators alone; the oldest operation ends by replacing its accumulator and joining the
flags; fetch appends the words up to the next 32-byte boundary. -/
def Obligations.MatrixAndFetch : Prop :=
  ∀ (cell core : Nat) (ups : List (Nat × Nat)),
    let k := coreKey cell core
    let word := fun (i : Iss) => resvOutside [(34, 16)] i.w = false ∧ (i.f 34 27 = 0 ∨ (i.f 18 18 = 1 ∧ i.c.intPair = true)) ∧
      i.executes = true ∧ i.c.mat.length < 2
    Effect (.mma cell core ups) (fun d e => ∀ i a b, Issues d cell core 0x1A [] i → word i → i.c.latA = some a → i.c.latB = some b →
      pairingOk a.fmt b.fmt = true →
      let u := d.upset ups
      let pr := presentRows (u.spByte u.free k) b (i.f 26 19 + 1)
      (b.sp = true → u.rangesTraps u.free k [(b.bm, 4 * (i.f 26 19 + 1))] = [] ∧ ∀ g ∈ pr, g.length ≤ i.c.dcap) →
      e.coreAt k = { i.c.advance with mat := i.c.mat ++ [⟨i.ix, i.w, a, b, i.f 17 16, i.f 18 18 == 1, sext 8 (i.f 34 27), usedGroups pr⟩] }) ∧
    Effect (.mma cell core ups) (fun d e => ∀ i a b, Issues d cell core 0x1A [] i → word i → i.c.latA = some a → i.c.latB = some b →
      pairingOk a.fmt b.fmt = true → b.sp = true →
      let u := d.upset ups
      let pr := presentRows (u.spByte u.free k) b (i.f 26 19 + 1)
      u.rangesTraps u.free k [(b.bm, 4 * (i.f 26 19 + 1))] = [] → (∃ g ∈ pr, i.c.dcap < g.length) →
      (e.coreAt k).acc = i.c.acc ∧ ∃ x, (e.coreAt k).trapped i.ix (12, x)) ∧
    Effect (.mma cell core ups) (fun d e => ∀ i, Issues d cell core 0x1A [] i → word i → i.c.latA = none →
      (e.coreAt k).trapped i.ix (6, if i.c.latB = none then 3 else 1)) ∧
    Effect (.mmaComplete cell core ups) (fun d e => ∀ op rest, (d.coreAt k).mat = op :: rest →
      let u := d.upset ups
      let c := d.coreAt k
      let t := c.acc.getD op.acc ⟨[], 0⟩
      let r := matTile (u.spByte u.free k) op.a op.b op.groups (fun j => Config.freeNat u.free j % 2 == 1)
        (if op.clr && op.a.fmt == 5 then op.exp else t.e) (if op.clr then List.replicate 256 0 else t.v)
      if u.rangesTraps u.free k (operandRanges op.a op.b op.groups) = [] then
        e.coreAt k = { c with mat := rest, acc := c.acc.set op.acc ⟨r.1, if op.clr && op.a.fmt == 5 then op.exp else t.e⟩,
                              flags := c.flags.or r.2 }
      else (e.coreAt k).mat = rest ∧ (∀ j, j ≠ op.acc → (e.coreAt k).acc[j]? = c.acc[j]?) ∧
        (c.st = .run ∨ c.st = .wait → (e.coreAt k).st = .trap ∧ (e.coreAt k).pc = op.ix)) ∧
    Effect (.planFetch cell core ups) (fun d e =>
      let c := d.coreAt k
      let n := 4 - c.fetchAt % 4
      (c.st = .run ∨ c.st = .wait) → d.cellRuns cell = true → c.fbuf.length + n ≤ 8 → c.fetchAt < (d.cellAt cell).plimit * 8 →
      (e.coreAt k).fbuf = c.fbuf ++ (List.range n).map fun j =>
        let r := (d.upset ups).spWord d.free (spAddr k (8 * (c.fetchAt + j)))
        ⟨c.fetchAt + j, leNat r.data, r.ue.isSome⟩)

/-- Tumbler words (R76, R77, R79): TADD, TSET and TCADD send their message to the tumbler's home and go on; TWAIT arms its slot with the next
generation and blocks where BLK is 1; WSYNC blocks on its unmet slots or frees them; a tumbler outside the partition's range traps. -/
def Obligations.TumblerWords : Prop :=
  ∀ cell core : Nat,
    let k := coreKey cell core
    let dieOf := fun (i : Iss) => i.f 17 16
    let inRange := fun (d : Dev) (i : Iss) => dieOf i < d.ndies ∧ ((i.c.rngs.getD (dieOf i) ⟨0, 0, false⟩).has (i.f 33 18)) = true
    let value := fun (i : Iss) => (i.f 55 34 + if i.f 62 62 = 1 then i.c.cnt.getD (i.f 61 58) 0 else 0) % 2 ^ 32
    let msg := fun (d : Dev) (i : Iss) opc slot gen val imm =>
      (⟨.core i.l, .bank (dieOf i), opc, slot, gen, i.l, tumbField (dieOf i) (i.f 33 18) (d.partOf cell), val, imm⟩ : CtlMsg)
    let sends := fun (d e : Dev) (i : Iss) (m : CtlMsg) => sentBy d e cell core m ∧ e.coreAt k = i.c.advance
    let reads := fun (i : Iss) => if i.f 62 62 = 1 then [i.f 61 58] else []
    Effect (.tadd cell core) (fun d e => ∀ i, Issues d cell core 0x32 (reads i) i → d.testMode cell = false → i.f 57 56 = 0 → i.f 63 63 = 0 →
      i.executes = true → if inRange d i then sends d e i (msg d i 1 0 0 (value i) 0)
        else (e.coreAt k).trapped i.ix (7, i.f 33 18 + 2 ^ 16 * dieOf i)) ∧
    Effect (.tset cell core) (fun d e => ∀ i, Issues d cell core 0x33 (reads i) i → d.testMode cell = false → i.f 57 56 = 0 → i.f 63 63 = 0 →
      i.executes = true → inRange d i → sends d e i (msg d i 2 0 0 (value i) 0)) ∧
    Effect (.tcadd cell core) (fun d e => ∀ i, Issues d cell core 0x35 [i.f 61 58] i → d.testMode cell = false → i.f 57 56 = 0 → i.f 63 62 = 0 →
      d.b0Level (cellDie cell) = true → i.executes = true → inRange d i →
      sentBy d e cell core (msg d i 6 0 0 (i.c.cnt.getD (i.f 61 58) 0) (i.f 55 34)) ∧
      e.coreAt k = { i.c.advance with cvals := i.c.cvals ++ [(i.f 61 58, tmbKey (dieOf i) (i.f 33 18))] }) ∧
    Effect (.twait cell core) (fun d e => ∀ i, Issues d cell core 0x30 (reads i) i → d.testMode cell = false → i.executes = true → inRange d i →
      let j := i.f 57 56
      let s := i.c.slots.getD j ⟨false, false, 0, 0, 0, 0⟩
      if s.armed = true ∧ s.met = false then (e.coreAt k).trapped i.ix (0xB, j)
      else sentBy d e cell core (msg d i 4 j ((s.gen + 1) % 16) (value i) 0) ∧
        (e.coreAt k).slots = i.c.slots.set j ⟨true, false, (s.gen + 1) % 16, dieOf i, i.f 33 18, value i⟩ ∧
        (e.coreAt k).st = (if i.f 63 63 = 1 then .wait else i.c.st) ∧ (i.f 63 63 = 1 → (e.coreAt k).blk = 2 ^ j)) ∧
    Effect (.wsync cell core) (fun d e => ∀ i, Issues d cell core 0x31 [] i → d.testMode cell = false → resvOutside [(19, 16)] i.w = false →
      i.executes = true →
      let c := e.coreAt k
      if i.c.unmet (i.f 19 16) = true then c.st = .wait ∧ c.blk = i.f 19 16 ∧ c.slots = i.c.slots
      else c.st = i.c.st ∧ ∀ j, c.slots[j]? = (i.c.slots[j]?).map fun s =>
        if hasBit (i.f 19 16) j = true then { s with armed := false, met := false } else s) ∧
    (∀ (c : Core) mask, c.unmet mask = true ↔
      ∃ j s, c.slots[j]? = some s ∧ hasBit mask j = true ∧ s.armed = true ∧ s.met = false)

/-- TRADD, END and the core's waits (R75, R77, R78): TRADD holds its add back until the matrix operations, the seed and the table load have ended;
END blocks on every armed slot and the core enters DONE once everything has ended; a wait that runs past the cell's WTMO traps. -/
def Obligations.CoreEndsAndWaits : Prop :=
  ∀ cell core : Nat,
    let k := coreKey cell core
    Effect (.tradd cell core) (fun d e => ∀ i, Issues d cell core 0x34 (if i.f 62 62 = 1 then [i.f 61 58] else []) i → d.testMode cell = false →
      i.f 57 56 = 0 → i.f 63 63 = 0 → i.executes = true → i.f 17 16 < d.ndies →
      ((i.c.rngs.getD (i.f 17 16) ⟨0, 0, false⟩).has (i.f 33 18)) = true →
      e.ctl = d.ctl ∧ e.coreAt k = { i.c.advance with tradd := some ⟨.core i.l, .bank (i.f 17 16), 3, 0, 0, i.l,
        tumbField (i.f 17 16) (i.f 33 18) (d.partOf cell), (i.f 55 34 + if i.f 62 62 = 1 then i.c.cnt.getD (i.f 61 58) 0 else 0) % 2 ^ 32, 0⟩ }) ∧
    Effect (.traddRelease cell core) (fun d e => ∀ m, (d.coreAt k).tradd = some m →
      if (d.coreAt k).mat = [] ∧ (d.coreAt k).seedP = none ∧ (d.coreAt k).lutP = none then
        e.coreAt k = { d.coreAt k with tradd := none } ∧ sentBy d e cell core m
      else e.coreAt k = d.coreAt k ∧ e.ctl = d.ctl) ∧
    Effect (.endWord cell core) (fun d e => ∀ i, Issues d cell core 1 [] i → resvOutside [] i.w = false → i.executes = true →
      e.coreAt k = { i.c.advance with st := .wait, blk := ofBits (i.c.slots.map (·.armed)), blkAt := d.tick (cellDie cell), blkW := i.w,
                                      ending := true }) ∧
    Effect (.coreDone cell core) (fun d e =>
      let c := d.coreAt k
      c.st = .wait → c.ending = true → d.cellRuns cell = true →
      if c.unmet c.blk = false ∧ c.mat = [] ∧ c.seedP = none ∧ c.lutP = none ∧ c.tradd = none ∧ c.cvals = [] then
        (e.coreAt k).st = .done ∧ (e.coreAt k).slots = (c.freeSlots c.blk).slots
      else e.coreAt k = c) ∧
    Effect (.coreWaitTimeout cell core) (fun d e =>
      let c := d.coreAt k
      let t := (d.cellAt cell).wtmo
      c.st = .wait → c.unmet c.blk = true → d.cellRuns cell = true →
      if t ≠ 0 ∧ d.late (cellDie cell) c.blkAt t = true then (e.coreAt k).trapped (c.pc - 1) (0xE, c.lowestUnmet c.blk)
      else e.coreAt k = c)

/-- What stops a core before a word has a meaning (R67, R81, R82): issue at PLIMIT, a word that was fetched with an uncorrectable error, a
reserved opcode, a field of a word outside its layout that is not 0 (here of NOP, END, CSET, AADD, VLD, and the functions of VOP that the
table does not have), each whether or not the word's predicate holds. -/
def Obligations.StopsBeforeMeaning : Prop :=
  ∀ cell core : Nat,
    let k := coreKey cell core
    Effect (.nop cell core) (fun d e => ∀ i, d.ready cell core = some i →
      ((d.cellAt cell).plimit * 8 ≤ i.ix → (e.coreAt k).trapped i.ix (2, (d.cellAt cell).plimit * 64)) ∧
      (i.ix < (d.cellAt cell).plimit * 8 → i.ue = true → (e.coreAt k).trapped i.ix (1, 8 * i.ix)) ∧
      (i.ix < (d.cellAt cell).plimit * 8 → i.ue = false → i.op ∉ opcodes → (e.coreAt k).trapped i.ix (3, 0))) ∧
    Effect (.endWord cell core) (fun d e => ∀ i, Issues d cell core 0x01 [] i → i.w / 2 ^ 16 ≠ 0 → (e.coreAt k).trapped i.ix (3, 0)) ∧
    Effect (.cset cell core) (fun d e => ∀ i, Issues d cell core 0x08 [] i → i.w / 2 ^ 52 ≠ 0 → (e.coreAt k).trapped i.ix (3, 0)) ∧
    Effect (.aadd cell core) (fun d e => ∀ i, Issues d cell core 0x11 [] i → i.w / 2 ^ 38 ≠ 0 → (e.coreAt k).trapped i.ix (3, 0)) ∧
    Effect (.vop cell core) (fun d e => ∀ i, Issues d cell core 0x23 [] i → i.f 23 16 ∉ fnCodes → (e.coreAt k).trapped i.ix (3, 0)) ∧
    Effect (.tadd cell core) (fun d e => ∀ i, Issues d cell core 0x32 (if i.f 62 62 = 1 then [i.f 61 58] else []) i → i.f 57 56 ≠ 0 →
      (e.coreAt k).trapped i.ix (3, 0))

/-- PARK, its clearing, and a cell's reset (R37, R38, R84, R168): parking stops the cores that run and wait; a PARK written during the reset is
held until the reset ends; unparking gives the cores their partition's tumbler ranges; a reset holds every core with its registers at reset and its
slots' generations kept. -/
def Obligations.CellParkAndReset : Prop :=
  ∀ cell : Nat,
    let core := fun (d : Dev) p => d.coreAt (coreKey cell p)
    Effect (.cellPark cell) (fun d e =>
      if d.inReset cell = true then (e.cellAt cell).parkHeld = true ∧ (∀ p, core e p = core d p) ∧ e.parked cell = d.parked cell
      else e.parked cell = true ∧ ∀ p < 136, (core e p).st =
        if d.parked cell = false ∧ ((core d p).st = .run ∨ (core d p).st = .wait) then .idle else (core d p).st) ∧
    Effect (.cellUnpark cell) (fun d e => e.parked cell = false ∧ (e.cellAt cell).parkHeld = false ∧
      (d.parked cell = true → d.partOf cell < 48 → ∀ p < 136, (core e p).rngs = d.rangesOf (cellDie cell) (d.partOf cell))) ∧
    Effect (.cellReset cell) (fun d e => e.inReset cell = true ∧ ∀ p < 136,
      let c := core e p
      c.st = .held ∧ c.cnt = List.replicate 16 0 ∧ c.ad = List.replicate 16 (0, 0) ∧ c.vr = List.replicate 16 (List.replicate 16 0) ∧
      c.acc = List.replicate 4 ⟨List.replicate 256 0, 0⟩ ∧ c.latA = none ∧ c.latB = none ∧ c.loops = [] ∧ c.flags = Flags.none ∧
      c.dcap = 32 ∧ c.rng = rngSeed (d.lnumOf cell p) ∧ c.trapv = false ∧ c.mat = [] ∧
      c.slots = (core d p).slots.map fun s => ⟨false, false, s.gen, 0, 0, 0⟩) ∧
    Effect (.cellResetComplete cell) (fun d e => e.inReset cell = false ∧
      (d.inReset cell = true → (d.cellAt cell).parkHeld = true → e.parked cell = true ∧ (e.cellAt cell).parkHeld = false) ∧
      ((d.cellAt cell).parkHeld = false → e.parked cell = d.parked cell))

/-- The spare map and the deadbolts (R35, R36, R37, R38): a CMP_MAP_DATA write moves a logical core where the cell is parked and the core it names
takes no other number and is neither deadbolted nor failed, and both the core that takes the number and the one that loses it are then held in
reset; otherwise MAPERR is set and the map stays. A core that the map assigns takes no deadbolt: DBERR is set. -/
def Obligations.SpareMapAndDeadbolts : Prop :=
  ∀ die cdie value : Nat,
    Effect (.mapDataWrite die cdie value) (fun d e =>
      let s := d.selOf .CMP_MAP_DATA die cdie
      let cn := cellNo die cdie (s / 128)
      let p := value % 256
      let entry := fun (d : Dev) => d.get F.CMP_MAP_DATA_PCORE die cdie s
      let taken := (List.range 128).any (fun j => j != s % 128 && d.mapOf cn j == p) || d.deadbolt cn p || d.failedP cn p
      (entry e = if d.parked cn = true ∧ p < 136 ∧ taken = false then p else entry d) ∧
      (d.parked cn = false ∨ (p < 136 ∧ taken = true) → e.get F.CMP_STAT_MAPERR die cdie = 1) ∧
      (d.parked cn = true → p < 136 → taken = false → p ≠ d.mapOf cn (s % 128) → d.testMode cn = false →
        (e.coreAt (coreKey cn p)).st = .held ∧ (e.coreAt (coreKey cn (d.mapOf cn (s % 128)))).st = .held)) ∧
    Effect (.deadboltSet die cdie) (fun d e =>
      let s := d.selOf .CMP_PCTL die cdie
      let bolt := fun (d : Dev) => d.get F.CMP_PCTL_DEADBOLT die cdie s
      if d.mappedP (cellNo die cdie (s / 256)) (s % 256) = true then e.get F.CMP_STAT_DBERR die cdie = 1 ∧ bolt e = bolt d
      else bolt e = 1 ∧ e.get F.CMP_STAT_DBERR die cdie = d.get F.CMP_STAT_DBERR die cdie) ∧
    Effect (.dbClear die cdie) (fun d e =>
      let s := d.selOf .CMP_PCTL die cdie
      let bolt := fun (d : Dev) => d.get F.CMP_PCTL_DEADBOLT die cdie s
      let drops := fun (d : Dev) => d.get F.CMP_PDROP_COUNT die cdie s
      if d.mappedP (cellNo die cdie (s / 256)) (s % 256) = true then bolt e = bolt d ∧ drops e = drops d
      else bolt e = 0 ∧ drops e = 0)

/-- Test mode, the loader, and the start and abort of a cell's plan (R38, R84, R437, R438, R444). -/
def Obligations.CellModesAndPlans : Prop :=
  (∀ (cell : Nat) (test : Bool),
    let core := fun (d : Dev) p => d.coreAt (coreKey cell p)
    let bad := fun (d : Dev) => (List.range 128).any fun lc => d.deadbolt cell (d.mapOf cell lc) || d.failedP cell (d.mapOf cell lc)
    Effect (.cellTestModeWrite cell test) (fun d e =>
      if d.parked cell = false ∨ d.testMode cell = test then e.testMode cell = d.testMode cell ∧ ∀ p, core e p = core d p
      else if test = false ∧ bad d = true then
        e.testMode cell = true ∧ e.get F.CMP_STAT_DBERR (cellDie cell) (cellN cell) = 1 ∧ ∀ p, core e p = core d p
      else e.testMode cell = test ∧ ∀ p < 136, (core e p).st =
        if (core d p).st = .loader ∨ (core d p).st = .held then .held
        else if test = true then (core d p).st
        else if (d.carries cell p).isSome = true then .idle else .held)) ∧
  (∀ die cdie mask : Nat, Effect (.loaderEnter die cdie mask) (fun d e => ∀ c p, c < 4 → hasBit mask c = true → p < 136 →
      let cn := cellNo die cdie c
      d.inReset cn = false →
      if d.loadable cn p = true then (e.coreAt (coreKey cn p)).st = .loader ∧ (e.coreAt (coreKey cn p)).ldr = ⟨false, 0, 0, 0, 0xFFFFFFFF⟩
      else e.coreAt (coreKey cn p) = d.coreAt (coreKey cn p))) ∧
  (∀ cell : Nat,
    let core := fun (d : Dev) p => d.coreAt (coreKey cell p)
    Effect (.cellStart cell) (fun d e => d.cellRuns cell = true →
      let at_ := 4 * cellN cell + cellC cell
      let base := d.get F.CMP_PBASE_BASE (cellDie cell) at_
      let limit := d.get F.CMP_PLIMIT_LIMIT (cellDie cell) at_
      if base < limit ∧ limit ≤ base + 1024 ∧ limit ≤ 0xA00 then
        (e.cellAt cell).pbase = base ∧ (e.cellAt cell).plimit = limit ∧
        ∀ p < 136, if ((core d p).st = .idle ∨ (core d p).st = .done) ∧ d.loadable cell p = true then
            let c := core e p
            c.st = .run ∧ c.pc = 8 * base ∧ c.cnt = List.replicate 16 0 ∧ c.flags = Flags.none ∧ c.loops = [] ∧ c.trapv = false ∧
            c.rng = rngSeed (d.lnumOf cell p) ∧ c.acc = (core d p).acc
          else core e p = core d p
      else e.get F.CMP_PRUN_PERR (cellDie cell) at_ = 1 ∧ ∀ p, core e p = core d p) ∧
    Effect (.cellAbort cell) (fun d e => ∀ p < 136, (core e p).st =
      if (core d p).st = .run ∨ (core d p).st = .wait ∨ (core d p).st = .trap then .idle else (core d p).st))

/-- A dispatch unit executes the step whose descriptor it has fetched (R144–R158, R161, R162): NOP and END leave the list and queue their add,
END then ends the list; GATE, REPACK and COMBINE leave the list where their work has succeeded, and where it has failed the unit halts with the
failure's cause as soon as no overflow write is outstanding. -/
def Obligations.DispatchSteps : Prop :=
  ∀ (die : Nat) (ups : List (Nat × Nat)),
    let left := fun (u : Dsp) (adds : List DspAdd) => { u with fetched := u.fetched.drop 1, met := false, adds := adds }
    let work := fun (d e : Dev) (run : Dev → Nat → Step → DR Unit × Dev) (f : Fetched) (rest : List Fetched) =>
      let r := run ((d.upset ups).put F.DSP_STEP_INDEX (f.n % 2 ^ 23) die) f.n (parseStep f.raw)
      match r.1 with
      | .ok () => e.dsp die = left (r.2.dsp die) (d.dspAdds die f) ∧ (e.dsp die).fetched = rest ∧ e.dspSt die = dspRun ∧ e.mem = r.2.mem
      | .bad cause info =>
        if (r.2.dsp die).out = [] then e.dspSt die = dspHalt ∧ e.get F.DSP_STAT_CAUSE die = cause % 2 ^ 8 ∧ e.get F.DSP_FINFO_INFO die = info % 2 ^ 32
        else (e.dsp die).fail = some (cause, info) ∧ e.dspSt die = dspRun
    Effect (.stepNop die) (fun d e => ∀ f rest, d.dspNext die 0 f rest →
      e.dsp die = left (d.dsp die) (d.dspAdds die f) ∧ e.get F.DSP_STEP_INDEX die = f.n % 2 ^ 23 ∧ e.dspSt die = dspRun) ∧
    Effect (.stepEnd die) (fun d e => ∀ f rest, d.dspNext die 0x0F f rest →
      if (d.dsp die).out = [] ∧ d.dspAdds die f = [] then e.dspSt die = dspDone ∧ (e.dsp die).fetched = []
      else (e.dsp die).ended = true ∧ (e.dsp die).adds = d.dspAdds die f ∧ (e.dsp die).fetched = rest ∧ e.dspSt die = dspRun) ∧
    Effect (.gate die ups) (fun d e => ∀ f rest, d.dspNext die 1 f rest → work d e (Dev.gateRun · die) f rest) ∧
    Effect (.repack die ups) (fun d e => ∀ f rest, d.dspNext die 2 f rest → (d.dsp die).out = [] → work d e (Dev.repackRun · die) f rest) ∧
    Effect (.combine die ups) (fun d e => ∀ f rest, d.dspNext die 3 f rest → work d e (fun d _ s => d.combineRun die s) f rest)

/-- The dispatch unit around its steps (R93, R146, R147, R161, R162): the fetch of the next descriptor, the sending of an add once the step's writes are
answered, the timeout of a wait, START, ABORT and the end of a drain. -/
def Obligations.DispatchUnit : Prop :=
  ∀ (die : Nat) (ups : List (Nat × Nat)),
    Effect (.dspStepFetch die ups) (fun d e =>
      let u := d.dsp die
      let pos := d.get F.DSP_LBASE_BASE die + 2 * u.fetchN
      let takes := fun (raw : Bytes) (st : FetchSt) =>
        (e.dsp die).fetched = u.fetched ++ [⟨u.fetchN, raw, st⟩] ∧ (e.dsp die).fetchN = u.fetchN + 1
      d.dspLive die = true → u.ended = false → u.fetched.length < 2 → (∀ f, u.fetched.getLast? = some f → f.st ≠ .limit) →
      if d.get F.DSP_LLIMIT_LIMIT die < pos + 2 then takes [] .limit
      else if 384 * 2 ^ 20 < (pos + 2) * 64 ∨ d.ownerOk die (pos * 64) (d.dspPart die) die = false then takes [] .owner
      else
        let r := ((d.upset ups).sbLoad die (pos * 64) 128).1
        takes r.data (if r.ue.isSome then .ue else .ok)) ∧
    Effect (.dspReleaseAdd die) (fun d e => ∀ a as, (d.dsp die).adds = a :: as → d.dspLive die = true →
      if (∀ o ∈ (d.dsp die).out, o.step ≠ a.step) then
        e.ctl = d.ctl ++ [⟨.dsp die, .bank a.home, 3, 0, 0, (Ep.dsp die).peer, tumbField a.home a.idx (d.dspPart die), a.val, 0⟩] ∧
        (e.dsp die).adds = as ∧ (e.dsp die).unacked = (d.dsp die).unacked ++ [(a.home, a.idx)] ∧
        (e.dspSt die = dspDone ↔ (d.dsp die).ended = true ∧ as = [] ∧ (d.dsp die).out = [])
      else e = d) ∧
    Effect (.dspWaitTimeout die) (fun d e => ∀ f rest, (d.dsp die).fetched = f :: rest → (d.dsp die).armed = true → (d.dsp die).fail = none →
      d.dspSt die = dspWait → (d.dsp die).out = [] →
      let t := d.get F.DSP_WTMO_TICKS die
      if t ≠ 0 ∧ d.late die (d.dsp die).waitAt t = true then
        e.dspSt die = dspHalt ∧ e.get F.DSP_STAT_CAUSE die = 7 ∧ e.get F.DSP_FINFO_INFO die = (parseStep f.raw).wtumb % 2 ^ 32 ∧
        (e.dsp die).armed = false ∧ (e.dsp die).fetched = []
      else e = d) ∧
    Effect (.dspStart die) (fun d e =>
      if d.dspSt die = dspIdle ∨ d.dspSt die = dspDone then
        e.dspSt die = dspRun ∧ e.get F.DSP_STAT_FLTV die = 0 ∧ e.get F.DSP_STAT_CAUSE die = 0 ∧ e.get F.DSP_STEP_INDEX die = 0 ∧
        e.get F.DSP_FINFO_INFO die = 0 ∧ e.dsp die = { Dsp.initial with gen := (d.dsp die).gen, tag := (d.dsp die).tag }
      else e = d) ∧
    Effect (.dspAbort die) (fun d e =>
      if d.dspSt die = dspRun ∨ d.dspSt die = dspWait ∨ d.dspSt die = dspHalt then
        e.dspSt die = dspDrain ∧ (e.dsp die).fetched = [] ∧ (e.dsp die).adds = [] ∧ (e.dsp die).out = (d.dsp die).out
      else e = d) ∧
    Effect (.dspDrainComplete die) (fun d e =>
      if d.dspSt die = dspDrain ∧ (d.dsp die).out = [] then
        e.dspSt die = dspIdle ∧ e.dsp die = { Dsp.initial with gen := (d.dsp die).gen, tag := (d.dsp die).tag }
      else e = d)

/-- Selection and capacity (R149, R151–R154): the experts of a token are the k best of its scores in falling order, ties to the lower expert,
NaN below every number and both zeros equal; choices taken in order fill each expert's slots up to its capacity, and a choice
is lost to the overflow only where its expert is full. -/
def Obligations.SelectionAndCapacity : Prop :=
  (∀ (k : Nat) (scores : List Nat),
    let better := fun a b => rankKey (scores.getD b 0) < rankKey (scores.getD a 0) ∨
      (rankKey (scores.getD a 0) = rankKey (scores.getD b 0) ∧ a < b)
    let sel := selectK k scores
    sel.length = min k scores.length ∧ sel.Nodup ∧ (∀ e ∈ sel, e < scores.length) ∧ sel.Pairwise better ∧
    ∀ a ∈ sel, ∀ b, b < scores.length → b ∉ sel → better a b) ∧
  rankKey 0x00000000 = rankKey 0x80000000 ∧
  (∀ b, (fv32 b).isNan = true → ∀ c, rankKey b ≤ rankKey c) ∧
  (∀ (cap : Nat) (cs : List Choice),
    let v := serve cap cs
    (∀ e, v.count e ≤ cap) ∧ v.slots.length + v.spills.length = cs.length ∧
    (∀ e n c, (e, n, c) ∈ v.slots → c.e = e ∧ n < v.count e ∧ c ∈ cs) ∧
    (∀ c ∈ v.spills, c ∈ cs ∧ v.count c.e = cap) ∧
    ((v.slots.map fun s => (s.1, s.2.1)).Nodup))

/-- A tile engine's list (R93, R95, R101): the fetch unit reads entries in order, four ahead at most, and marks the position that lies past LLIMIT, that
belongs to another or that cannot be read. An entry that may begin leaves the fetch unit: with a wait, the engine sends it and enters WAIT;
else the entry begins with nothing issued, and END ends the list. -/
def Obligations.EngineEntries : Prop :=
  ∀ (die eng : Nat) (ups : List (Nat × Nat)),
    let begins := fun (op : Nat) (d e : Dev) => ∀ f rest, d.entNext die eng op f rest →
      let en := parseEnt f.raw
      let g := d.eng die eng
      e.get F.TEN_ENTRY_INDEX die eng = ((f.n + 2 ^ 23 - d.get F.TEN_LBASE_BASE die eng) % 2 ^ 23) ∧ e.get F.TEN_PROG_NEXT die eng = 0 ∧
      if en.wen = true then
        e.tenSt die eng = tenWait ∧
        e.eng die eng = { g with fetched := rest, waiting := some f, waitAt := d.tick die, armed := true, gen := (g.gen + 1) % 16 } ∧
        e.ctl = d.ctl ++ [opMsg (.eng die eng) 4 ((g.gen + 1) % 16) (bitsOf en.wtumb 17 16) (en.wtumb % 2 ^ 16) (d.tenPart die eng) en.wthr]
      else
        e.tenSt die eng = tenRun ∧ e.ctl = d.ctl ∧
        e.eng die eng = { g with
          fetched := rest, ended := op == 0x0F, lineBuf := none,
          ents := g.ents ++ [⟨f.n, f.raw, en.total, 0, 0, if en.aen then .todo else .none, none, if en.unf then en.rows else 0⟩] }
    Effect (.listFetch die eng ups) (fun d e =>
      let g := d.eng die eng
      let takes := fun (raw : Bytes) (st : FetchSt) =>
        e.eng die eng = { g with fetched := g.fetched ++ [⟨g.fetchN, raw, st⟩], fetchN := g.fetchN + 1 }
      d.tenLive die eng = true → g.halting = false → g.fetched.length < 4 → (∀ f, g.fetched.getLast? = some f → f.st ≠ .limit) →
      if d.get F.TEN_LLIMIT_LIMIT die eng ≤ g.fetchN then takes [] .limit
      else if 384 * 2 ^ 20 ≤ g.fetchN * 64 ∨ d.ownerOk die (g.fetchN * 64) (d.tenPart die eng) die = false then takes [] .owner
      else
        let r := ((d.upset ups).sbLoad die (g.fetchN * 64) 64).1
        takes r.data (if r.ue.isSome then .ue else .ok)) ∧
    Effect (.nopEntry die eng) (begins 0) ∧ Effect (.copy die eng) (begins 1) ∧ Effect (.reduce die eng) (begins 2) ∧
    Effect (.taddEntry die eng) (begins 3) ∧ Effect (.endEntry die eng) (begins 0x0F)

/-- A tile engine around its entries (R95, R101, R102, R110, R111, R112): an entry's add leaves once everything before its release has completed; END's
conditions make the engine DONE; a wait that runs out halts it; START, ABORT and RESUME act in the states that the manual names and in no other; a
drained engine enters IDLE. -/
def Obligations.EngineUnit : Prop :=
  ∀ die eng : Nat,
    Effect (.engineReleaseAdd die eng) (fun d e => ∀ r, (d.eng die eng).ents.find? (fun r => r.add == .todo) = some r → d.tenLive die eng = true →
      d.engQuiet die eng →
      let g := d.eng die eng
      let en := parseEnt r.raw
      if g.released r.n = true ∧ r.next = r.total then
        e.ctl = d.ctl ++ [opMsg (.eng die eng) 3 0 (bitsOf en.atumb 17 16) (en.atumb % 2 ^ 16) (d.tenPart die eng) en.aval] ∧
        e.eng die eng = { g with
          ents := pruneEnts (g.ents.map fun q => if q.n = r.n then { q with add := .sent } else q),
          unacked := g.unacked ++ [(bitsOf en.atumb 17 16, en.atumb % 2 ^ 16)] }
      else e = d) ∧
    Effect (.engineDone die eng) (fun d e =>
      let g := d.eng die eng
      if d.tenSt die eng = tenRun ∧ g.ended = true ∧ g.halting = false ∧ g.slots = [] ∧ g.unacked = [] ∧
          ∀ r ∈ g.ents, r.fin = r.total ∧ r.add ≠ .todo ∧ r.rows = 0 then
        e.tenSt die eng = tenDone ∧ e.eng die eng = { g with ents := [], fetched := [], ended := false }
      else e = d) ∧
    Effect (.engineWaitTimeout die eng) (fun d e => ∀ f, (d.eng die eng).waiting = some f → (d.eng die eng).armed = true →
      d.tenSt die eng = tenWait → d.engQuiet die eng → (d.eng die eng).slots = [] → (d.eng die eng).fails = [] → d.engBusy die eng = false →
      let t := d.get F.TEN_WTMO_TICKS die eng
      if t ≠ 0 ∧ d.late die (d.eng die eng).waitAt t = true then
        e.tenSt die eng = tenHalt ∧ e.get F.TEN_STAT_FLTV die eng = 1 ∧ e.get F.TEN_STAT_CAUSE die eng = 0xB ∧
        (e.eng die eng).waiting = none ∧ (e.eng die eng).armed = false
      else e = d) ∧
    Effect (.engineStart die eng) (fun d e =>
      if d.tenSt die eng = tenIdle ∨ d.tenSt die eng = tenDone then
        e.tenSt die eng = tenRun ∧ e.get F.TEN_STAT_FLTV die eng = 0 ∧ e.get F.TEN_STAT_CAUSE die eng = 0 ∧
        e.get F.TEN_ENTRY_INDEX die eng = 0 ∧ e.get F.TEN_PROG_NEXT die eng = 0 ∧
        e.eng die eng = { Eng.initial with
          gen := (d.eng die eng).gen, latch := (d.eng die eng).latch, fetchN := d.get F.TEN_LBASE_BASE die eng }
      else e = d) ∧
    Effect (.engineAbort die eng) (fun d e => d.engQuiet die eng →
      let st := d.tenSt die eng
      let g := d.eng die eng
      if st = tenRun ∨ st = tenWait ∨ st = tenHaltR ∨ st = tenHalt then
        e.tenSt die eng = tenDrain ∧ (e.eng die eng).fetched = [] ∧ (e.eng die eng).waiting = none ∧ (e.eng die eng).armed = (g.armed && g.waiting.isNone) ∧
        ∀ s, s ∈ (e.eng die eng).slots ↔
          s ∈ g.slots ∧ (s.st = .reading ∨ s.st = .writing ∨ (s.st = .failed ∧ st ≠ tenHaltR ∧ st ≠ tenHalt))
      else e = d) ∧
    Effect (.engineResume die eng) (fun d e => d.engQuiet die eng → (d.eng die eng).waiting = none →
      if d.tenSt die eng = tenHaltR then
        e.tenSt die eng = tenRun ∧ e.eng die eng = { d.eng die eng with
          fails := [], slots := (d.eng die eng).slots.map fun s => if s.st = .failed then { s with st := .again, fail := none } else s }
      else e = d) ∧
    Effect (.engineDrainComplete die eng) (fun d e =>
      let g := d.eng die eng
      if d.tenSt die eng = tenDrain ∧ d.engBusy die eng = false ∧ (∀ s ∈ g.slots, s.st ≠ .held) then
        e.tenSt die eng = tenIdle ∧ e.eng die eng = { Eng.initial with gen := g.gen, latch := g.latch }
      else e = d)

/-- Transactions of a tile engine (R97, R102, R104, R110, R278): the next transaction of the entry takes the lowest free slot and, its endpoints
translated, its read leaves for the source; the data that returns leaves at once for the destination; the answer to the write frees the slot and
completes the transaction; a failed answer halts the engine once nothing is under way, resumably or not as its cause says. -/
def Obligations.EngineTransactions : Prop :=
  (∀ die eng : Nat,
    Effect (.transactionIssue die eng) (fun d e => ∀ r ix s t d2, d.tenSt die eng = tenRun → d.engQuiet die eng →
      let g := d.eng die eng
      let en := parseEnt r.raw
      (∀ s ∈ g.slots, s.st ≠ .again) → g.ents.getLast? = some r → r.next < r.total → en.op ≠ 3 → g.slots.length < 256 →
      (match en.kind r.next with | .feed _ _ => False | _ => True) → en.follows r.next = false → g.indexFor en r.n r.next = some ix →
      (d.peekSrc die eng en r.next ix).any (d.readBack die eng) = false →
      (d.slotTaken die eng r).resolveBoth die eng en r.next ix false = (.inl (s, t), d2) →
      (e.eng die eng).slots = g.slots ++ [⟨g.freeSlot, r.n, r.next, .reading, s, t, [], none, false⟩] ∧
      (e.eng die eng).ents = g.ents.map (fun q => if q.n = r.n then { q with next := q.next + 1 } else q) ∧
      e.net = d.net ++ [.req ⟨.eng die eng, g.freeSlot, en.readOp r.next, s, d.tenPart die eng, 0, en.gran, [], none, d.sqn⟩])) ∧
  (∀ place : Nat,
    Effect (.transactionResponse place none) (fun d e => ∀ die eng slot stat data home s en, d.net[place]? = some (.rsp ⟨.eng die eng, slot, stat, data, none, home⟩) →
      d.computeUp die = true → d.wayOpen (home.elim die (·.1)) die (home.map (·.2)) (some (28 + eng / 8)) →
      d.partReset (d.tenPart die eng) = false →
      let g := d.eng die eng
      d.engQuiet die eng → d.rowsOf die eng = [] →
      g.slots = [s] → s.slot = slot → g.ent s.ent = some en → en.kind s.idx = .move → g.fails = [] →
      (stat = 0 → s.st = .reading →
        (e.eng die eng).slots = [{ s with st := .writing, data := data }] ∧
        e.net = d.net.eraseIdx place ++ [.req ⟨.eng die eng, s.slot, if en.op = 2 then .reduce else .write, s.dst, d.tenPart die eng, en.red, en.gran,
          data, none, d.sqn⟩]) ∧
      (stat = 0 → s.st = .writing → (e.eng die eng).slots = [] ∧ e.net = d.net.eraseIdx place ∧
        (e.eng die eng).ents = pruneEnts (g.ents.map fun r => if r.n = s.ent then { r with fin := r.fin + 1 } else r)) ∧
      (stat ≠ 0 → (s.st = .reading ∨ s.st = .writing) → d.tenLive die eng = true →
        let cause := causeOf (stat % 2 ^ 8) (d.away die (if s.st = .writing then s.dst else s.src))
        e.get F.TEN_STAT_FLTV die eng = 1 ∧ e.get F.TEN_STAT_CAUSE die eng = cause ∧
        if resumable cause = true then e.tenSt die eng = tenHaltR ∧ ∃ f, (e.eng die eng).slots = [{ s with st := .failed, fail := some f, data := [] }]
        else e.tenSt die eng = tenHalt ∧ (e.eng die eng).slots = [])))

/-- Requests at their homes (R106, R117, R118, R184, R197, R205, R222, R278): a request for a die of the package that is the first of its way reaches its home; one
that the home's checks refuse is answered with their STAT and touches nothing; one for the HBM joins its bucket's queue; the others are performed whole and
answered. Merge buffers apply their entries: a half by read-modify-write, a whole word as it stands. -/
def Obligations.HomesAndMerges : Prop :=
  (∀ (place : Nat) (ups : List (Nat × Nat)),
    Effect (.homeRequest place ups none) (fun d e => ∀ t, d.net[place]? = some (.req t) → d.firstOfWay place t = true →
      let u := (d.upset ups).netDrop place
      let answers := fun (stat : Nat) (data : Bytes) => e.net = u.net ++ [.rsp ⟨t.src, t.slot, stat, data, t.unf, d.homeEnd t⟩]
      (∀ g, t.tgt = .gpa g → d.ownPkg t.src.die g = true → gpaSpace g < 3 → d.wayOpen t.src.die (gpaDie g) (some t.src.hubPort) t.tgt.hubPort →
        if d.homeCheck t g ≠ 0 then answers (d.homeCheck t g) [] ∧ e.mem = d.mem ∧ e.bq = d.bq ∧ e.merge = d.merge
        else if gpaSpace g = 0 then
          e.net = u.net ∧ e.mem = d.mem ∧
          e.bq = d.bq.put (gpaDie g, (hbmLoc t.hbOff).group, t.bkt) (d.bq.atD (gpaDie g, (hbmLoc t.hbOff).group, t.bkt) [] ++ [t])
        else if gpaSpace g = 1 then
          let p := u.sbPerform (gpaDie g) (gpaOff g) t
          answers p.1.stat p.1.data ∧ e.mem = p.2.mem ∧ e.merge = p.2.merge
        else answers 0 (d.tumblerLine (gpaDie g) (gpaOff g)) ∧ e.mem = d.mem) ∧
      (∀ l off, t.tgt = .spad l off → d.wayOpen t.src.die (bitsOf l 12 11) (some t.src.hubPort) t.tgt.hubPort →
        let p := u.spPerform l off t
        answers p.1.stat p.1.data ∧ e.mem = p.2.mem))) ∧
  (∀ (die bank : Nat) (ups : List (Nat × Nat)),
    Effect (.mergeEntryAgeOut die bank ups) (fun d e => ∀ m, (d.mergeOf die bank).find? (fun m => !m.whole) = some m → sbBank m.word = bank →
      let old := (d.upset ups).sbWord d.free die m.word
      e.mergeOf die bank = (d.mergeOf die bank).filter (fun x => x.word != m.word) ∧
      (d.mem.wf = true → old.ue = none → old.data.length = 32 → ∀ bs, (m.lo = some bs ∨ m.hi = some bs) → bs.length = 16 →
        ∀ x, e.mem.byte x = if sbAddr die m.word ≤ x ∧ x < sbAddr die m.word + 32 then (m.overlay old.data).getD (x - sbAddr die m.word) 0
          else d.mem.byte x)) ∧
    Effect (.mergeWordWrite die bank) (fun d e => ∀ m l h, (d.mergeOf die bank).find? (fun m => m.whole) = some m → sbBank m.word = bank →
      m.lo = some l → m.hi = some h →
      e.mergeOf die bank = (d.mergeOf die bank).filter (fun x => x.word != m.word) ∧
      (d.mem.wf = true → ∀ x, e.mem.byte x = if sbAddr die m.word ≤ x ∧ x < sbAddr die m.word + (l ++ h).length then (l ++ h).getD (x - sbAddr die m.word) 0
          else d.mem.byte x)))

/-- Unfold engines (R125, R126, R137–R141): the oldest waiting row of an engine that works takes a free context; a line that joins its segment leaves
more to be read, completes a segment for the walk, or fails a check, which halts the feeding engine; the output walk expands the next segment in turn; a
row with every line parsed and answered frees its context. -/
def Obligations.UnfoldRows : Prop :=
  ∀ die unit : Nat,
    Effect (.unfoldContextGrant die unit) (fun d e => ∀ w r, (d.unfAt die unit).waitq.find? (fun w => d.rowsRun die w.1) = some w →
      (d.eng die w.1).ents.find? (fun r => r.n == w.2.1) = some r →
      if ((List.range 4).all fun x => ((d.unfAt die unit).ctx.at? x).isSome) = true then e = d
      else ∃ x, x < 4 ∧ (d.unfAt die unit).ctx.at? x = none ∧ (e.unfAt die unit).ctx.at? x = some (UCtx.fresh w.1 w.2.1 w.2.2 r.raw) ∧
        (e.unfAt die unit).waitq = (d.unfAt die unit).waitq.erase w ∧ (∀ y, y ≠ x → (e.unfAt die unit).ctx.at? y = (d.unfAt die unit).ctx.at? y) ∧
        hasBit (e.get F.UNF_STAT_BUSY die unit) x = true) ∧
    (∀ x : Nat, x < 4 →
      Effect (.unfoldInputParse die unit x) (fun d e => ∀ c bs, (d.unfAt die unit).ctx.at? x = some c → c.buf.at? c.parsed = some bs →
        d.lineNext die c →
        let n := c.joined bs
        match segParse c.en.ufmt c.en.cap (c.en.groups - c.grp) (c.lines - n.segLine) n.segBytes with
        | .more => (e.unfAt die unit).ctx.at? x = some n ∧ (e.eng die c.eng).slots = []
        | .whole =>
          let h := segHdr n.segBytes
          ¬ (n.parsed = c.lines ∧ c.grp + h.ng ≠ c.en.groups) →
            (e.unfAt die unit).ctx.at? x = some { n with
              grp := c.grp + h.ng, seg := c.seg + 1, segBytes := [], toWalk := c.toWalk ++ [⟨c.grp, n.segLine, n.segBytes⟩] } ∧
            (e.eng die c.eng).slots = []
        | .fail code _ =>
          e.tenSt die c.eng = tenHalt ∧ e.get F.TEN_STAT_CAUSE die c.eng = 0xE ∧ e.get F.UNF_STAT_FLTV die unit = 1 ∧
          (d.get F.UNF_STAT_FLTV die unit = 0 → e.get F.UNF_STAT_CODE die unit = code % 2 ^ 8)) ∧
      Effect (.unfoldRowComplete die unit x) (fun d e => ∀ c, (d.unfAt die unit).ctx.at? x = some c → c.flushed = true →
        c.ready = [] → c.out = [] → c.failed = [] → (d.eng die c.eng).halting = false →
        (∀ s ∈ (d.eng die c.eng).slots, s.st ≠ .held) → (∀ u, u < 24 → ∀ q ∈ (d.unfAt die u).ctx, q.2.ready = []) →
        (e.unfAt die unit).ctx.at? x = none ∧ hasBit (e.get F.UNF_STAT_BUSY die unit) x = false ∧
        (e.eng die c.eng).ents = pruneEnts ((d.eng die c.eng).ents.map fun r => if r.n = c.ent then { r with rows := r.rows - 1 } else r))) ∧
    Effect (.unfoldOutputWalk die unit) (fun d e => ∀ x c sg rest,
      ((List.range 4).map fun j => ((d.unfAt die unit).rr + 1 + j) % 4).find? (fun x => ((d.unfAt die unit).ctx.at? x).any (d.walkable die)) = some x →
      (d.unfAt die unit).ctx.at? x = some c → c.toWalk = sg :: rest →
      e.get F.UNF_GCNT_COUNT die unit = (d.get F.UNF_GCNT_COUNT die unit + (segHdr sg.bytes).ng) % 2 ^ 32 ∧
      ∃ c', (e.unfAt die unit).ctx.at? x = some c' ∧ c'.toWalk = rest ∧ c'.elems = c.elems ++ (segHdr sg.bytes).elems sg.bytes c.en.osp ∧
        c'.bits = c.bits ++ (segHdr sg.bytes).maps sg.bytes ∧ c'.scales = c.scales ++ (segHdr sg.bytes).scales sg.bytes)

/-- Control registers as their die's steward reaches them (R10, R12, R14, R24): a write gives each field what its access code says; reading a _LO
register answers it and keeps the upper half for this steward; the lower half of a pair is kept until the upper half is written, and both then take effect; where
no register is, reads answer 0, writes are ignored, and the access is recorded. -/
def Obligations.ControlRegisters : Prop :=
  ∀ die off value : Nat,
    let here := fun (d : Dev) r i => d.stewardRuns die = true ∧ die < d.ndies ∧ d.regHere off = some (r, i) ∧ d.regUp die r = true
    Effect (.registerWrite die die off value) (fun d e => ∀ r i, here d r i → loOf r = none → hiOf r = none → plainReg r = true →
      d.written e ⟨r, die, i, d.selOf r die i⟩ value ∧ ∀ k : RKey, k ≠ ⟨r, die, i, d.selOf r die i⟩ → e.raw k = d.raw k) ∧
    Effect (.reg64LoRead die die off) (fun d e => ∀ r i hi, here d r i → hiOf r = some hi →
      e.answered die (leBytes 4 (d.regRead die r i (d.selOf r die i))) false ∧ e.rf = d.rf ∧
      e.capt.at? (pairKey die die r i) = some (BitVec.ofNat 32 (d.regRead die hi i (d.selOf hi die i)))) ∧
    Effect (.reg64LoWrite die die off value) (fun d e => ∀ r i hi, here d r i → hiOf r = some hi →
      e.held.at? (pairKey die die r i) = some (BitVec.ofNat 32 value) ∧ e.rf = d.rf) ∧
    Effect (.reg64HiWrite die die off value) (fun d e => ∀ r i lo, here d r i → hiOf r = none → loOf r = some lo →
      plainReg r = true → plainReg lo = true → r ≠ lo →
      let s := d.selOf r die i
      e.held.at? (pairKey die die lo i) = none ∧ d.written e ⟨r, die, i, s⟩ value ∧
      match d.held.at? (pairKey die die lo i) with
      | some x => d.written e ⟨lo, die, i, s⟩ x.toNat
      | none => e.raw ⟨lo, die, i, s⟩ = d.raw ⟨lo, die, i, s⟩) ∧
    ∀ write : Bool, Effect (.controlAddressMiss die die off write) (fun d e => d.stewardRuns die = true → die < d.ndies → d.regHere off = none →
      d.posted e die ⟨9, if write then 2 else 1, 0, noPart, 0, 0, off⟩ ∧ (write = false → e.answered die (zeros 4) false))

/-- A steward's loads and stores (R187, R222, R223, R227): an access that no space takes, or whose home is not there, faults and changes nothing; a
store within one protected unit of HBM or of the shared buffer writes its bytes and no other; a store of whole words to space 2 sets tumblers; a
load answers what is stored, or what the site die answers. A fence leaves no store to wait for. -/
def Obligations.StewardMemory : Prop :=
  ∀ (die g len : Nat) (data answer : Bytes) (ups again : List (Nat × Nat)),
    let gd := gpaDie g
    let off := gpaOff g
    let ok := fun (d : Dev) => gpaPkg g = d.get F.KRG_PKG_PKG die ∧ gd < d.ndies ∧ gpaSpace g ≤ 3 ∧ d.ioRange g len = true ∧ d.ioHome die g = true
    let wrote := fun (d e : Dev) (a : Nat) => ∀ x, e.mem.byte x = if a ≤ x ∧ x < a + len then data.getD (x - a) 0 else d.mem.byte x
    (∀ write, Effect (.stewardMemoryAccess die g len write data answer ups again) (fun d e => ¬ ok d →
      e.answered die [] true ∧ e.mem = d.mem ∧ e.tmb = d.tmb ∧ e.rf = d.rf)) ∧
    Effect (.stewardMemoryAccess die g len true data answer ups again) (fun d e => ok d → 0 < len → d.mem.wf = true →
      (gpaSpace g = 0 → off % d.hbUnit gd off + len ≤ d.hbUnit gd off →
        d.clean (hbAddr gd (off / d.hbUnit gd off * d.hbUnit gd off)) (d.hbUnit gd off) → wrote d e (hbAddr gd off)) ∧
      (gpaSpace g = 1 → off % 32 + len ≤ 32 → d.mergeEnt gd (off / 32 * 32) = none → d.clean (sbAddr gd (off / 32 * 32)) 32 →
        wrote d e (sbAddr gd off)) ∧
      (gpaSpace g = 2 → off % 4 = 0 → len % 4 = 0 →
        ∀ j, e.tumbler gd j = if off / 4 ≤ j ∧ j < (off + len) / 4 then field data (4 * (j - off / 4)) 4 else d.tumbler gd j) ∧
      (gpaSpace g = 2 ∨ gpaSpace g = 3 → e.mem = d.mem)) ∧
    Effect (.stewardMemoryAccess die g len false data answer ups again) (fun d e => ok d → 0 < len →
      (gpaSpace g = 0 → ups = [] → off % d.hbUnit gd off + len ≤ d.hbUnit gd off →
        d.clean (hbAddr gd (off / d.hbUnit gd off * d.hbUnit gd off)) (d.hbUnit gd off) → e.answered die (d.mem.bytes (hbAddr gd off) len) false) ∧
      (gpaSpace g = 1 → ups = [] → off % 32 + len ≤ 32 → d.mergeEnt gd (off / 32 * 32) = none → d.clean (sbAddr gd (off / 32 * 32)) 32 →
        e.answered die (d.mem.bytes (sbAddr gd off) len) false) ∧
      (gpaSpace g = 2 → e.answered die (slice (d.tumblerLine gd (off / 64 * 64)) (off % 64) len) false) ∧
      (gpaSpace g = 3 → e.answered die (slice answer 0 len) false) ∧ e.tmb = d.tmb) ∧
    Effect (.stewardFence die) (fun d e => ∀ x, d.stwIo.at? die = some x → e.stwIo.at? die = some (x.1, x.2.1, 0))

/-- The fault queue (R445, R446, R448, R451, R479): a record that the steward posts has SEQ, DIE and FLAGS.STEWARD from the hardware and stands behind
those held; one of a class that does not exist, or one that finds 1,024 records, sets DROPPED; FLT_POP removes the oldest records and leaves the order of
the others. -/
def Obligations.FaultQueue : Prop :=
  (∀ die : Nat, Effect (.faultPost die) (fun d e =>
    let w := fun j => d.raw ⟨.FLT_POST, die, j, 0⟩
    let n := d.get F.FLT_STAT_COUNT die
    let old := ∀ j, j < n → e.fltRecord die j = d.fltRecord die j
    if w 0 % 256 = 0 ∨ 11 < w 0 % 256 then
      e.get F.FLT_PCTL_DROPPED die = 1 ∧ e.get F.FLT_STAT_COUNT die = n ∧ e.get F.FLT_NEXT_SEQ die = d.get F.FLT_NEXT_SEQ die ∧ old
    else if n < 1024 then
      e.get F.FLT_STAT_COUNT die = n + 1 ∧ e.get F.FLT_NEXT_SEQ die = (d.get F.FLT_NEXT_SEQ die + 1) % 2 ^ 16 ∧ old ∧
      e.fltRecord die n = (orBit (setBits (w 0) 17 16 die) 26 :: setBits (w 1) 15 0 (d.get F.FLT_NEXT_SEQ die) ::
        (List.range 6).map fun j => w (j + 2)).map (· % 2 ^ 32)
    else e.get F.FLT_PCTL_DROPPED die = 1 ∧ e.get F.FLT_STAT_OVF die = 1 ∧ e.get F.FLT_STAT_COUNT die = n)) ∧
  (∀ die count : Nat, Effect (.faultPop die count) (fun d e =>
    let n := d.get F.FLT_STAT_COUNT die
    let k := min count n
    e.get F.FLT_STAT_COUNT die = n - k ∧ ∀ j, e.fltRecord die j = d.fltRecord die (k + j)))

/-- Ageing samples, the lead's margin proposal, the telemetry target, and events of a block's own time (R423, R443, R459–R462, R474): a sample stores the
monitors' delays and the rails' figures, unless the die is in no state for one; the lead evaluates once a day; a private read returns the telemetry block
as it was refreshed, a private write is refused; the local counter advances by one. -/
def Obligations.AgeingAndTelemetry : Prop :=
  ∀ die : Nat,
    let took := fun (d e : Dev) (a : AgeRes) =>
      e.get F.AGE_STAT_NSAMP die = (d.get F.AGE_STAT_NSAMP die + 1) % 2 ^ 16 ∧
      (∀ m, m < 64 → e.get F.AGE_MVAL_DELAY die 0 m = a.delays.getD m 0 % 2 ^ 16 ∧ e.get F.AGE_MVAL_TJ die 0 m = a.tj % 2 ^ 8) ∧
      (∀ r, r < 9 → e.get F.AGE_EFF_EFF die 0 r = a.effs.getD r 0 % 256 ∧
        e.get F.AGE_EFF_EFFMIN die 0 r = min (a.effs.getD r 0 % 256) (d.get F.AGE_EFF_EFFMIN die 0 r))
    let able := fun (d : Dev) => d.carrierUp die = true ∧ d.get F.PWR_STATE_CUR die ≤ 1 ∧ d.get F.PWR_STATE_BUSY die = 0
    (∀ a : AgeRes, Effect (.ageSampleNow die a) (fun d e => (able d → took d e a) ∧ (¬ able d → e = d)) ∧
      Effect (.ageSample die a) (fun d e =>
        let due := d.get F.AGE_CTL_EN die = 1 ∧ d.get F.PWR_STATE_CUR die ≤ 1 ∧ (d.pws? die).ageAt + 1000000 * d.get F.AGE_CTL_PERIOD die ≤ d.tick die
        (due → (e.pws? die).ageAt = d.tick die ∧ (able d → took d e a)) ∧ (¬ due → e = d))) ∧
    Effect (.marginEvaluate die) (fun d e =>
      let due := (d.stew die).evalAt = none ∨ ∃ t, (d.stew die).evalAt = some t ∧ t + 86400 * 1000000 ≤ d.tick die
      (¬ (d.leads die = true ∧ due) → e = d) ∧
      (d.leads die = true → due → (d.leadSend die d.liveDies).1.lost = false → (e.stew die).evalAt = some (d.tick die)) ∧
      (d.leads die = true → due → d.liveDies = [die] → (∃ rail ∈ marginRails, d.railSteps die rail ≠ d.get F.AGE_ROFF_STEPS die 0 rail) →
        ∃ p, (e.stew die).prop = some p ∧ p.pid = (d.stew die).pid ∧ p.dies.getD die [] = d.proposal die ((d.stew die).nsamp.getD die 0))) ∧
    Effect (.i3cBlockRefresh die) (fun d e => e.i3cAt die = (d.i3cBlock die, (d.i3cAt die).2)) ∧
    (∀ addr len : Nat, Effect (.i3cPrivateRead die addr len) (fun d e =>
      if (d.i3cAt die).2.getD (0x58 + die) = addr then e.i3cOut.at? die = some (true, (d.i3cAt die).1.take (min len 32)) ∧ e.i3c = d.i3c else e = d)) ∧
    (∀ addr : Nat, Effect (.i3cPrivateWrite die addr) (fun d e =>
      if (d.i3cAt die).2.getD (0x58 + die) = addr then e.i3cOut.at? die = some (false, []) ∧ e.i3c = d.i3c else e = d)) ∧
    (∀ code addr : Nat, Effect (.i3cCcc die code addr) (fun d e =>
      (e.i3cAt die).1 = (d.i3cAt die).1 ∧
      (e.i3cAt die).2 =
        if code = 0x06 then none
        else if (code = 0x07 ∨ code = 0x87) ∧ (d.i3cAt die).2 = none ∨ code = 0x88 ∧ (d.i3cAt die).2 ≠ none then some addr
        else (d.i3cAt die).2)) ∧
    Effect (.localCounterTick die) (fun d e => die < d.lcnt.length →
      e.tick die = (d.tick die + 1) % 2 ^ 64 ∧ ∀ j, j ≠ die → e.tick j = d.tick j) ∧
    Effect (.chunkSendComplete die) (fun d e => e.get F.HUB_LDCTL_BUSY die = 0) ∧
    Effect (.eventSendComplete die) (fun d e => e.get F.MBX_ECTL_BUSY die = 0)

/-- Scrubbing, checker self-tests and zero fills (R228, R229, R230, R239): an enabled scrubber reads the next unit of its walk and comes back to the first
after the last, with the time of that lap; an SRAM word is written back with corrected data only if it has not been written since; a self-test touches no
stored data and reports the first pattern that failed; a zero fill leaves one MiB zero and nothing else. -/
def Obligations.ScrubsAndFills : Prop :=
  (∀ (mem die unit : Nat) (ups again : List (Nat × Nat)),
    let key := if mem = 0 then die * 128 + unit else if mem = 1 then die * 256 + unit else die * 12 * 256 + unit
    let off := fun (d : Dev) => chanLine unit (d.scrubAt 0 key).pos
    let runs := fun (d : Dev) =>
      if mem = 0 then d.on? F.HBM_SCRUB_EN die (unit / 32) = true ∧ d.get F.HBM_STAT_STATE die (unit / 32) = 2 ∧ d.rdq.atD (die, unit) [] = [] ∧
        d.rowLocked die (off d) = false
      else if mem = 1 then d.on? F.SBF_SCRUB_EN die = true
      else d.on? F.CMP_SCRUB_EN die (cellN (keyCell key)) = true ∧ d.cellRuns (keyCell key) = true
    Effect (.scrubRead mem die unit ups again) (fun d e =>
      let s := d.scrubAt mem key
      let start := if s.pos = 0 then d.tick die else s.start
      (¬ runs d → e = d.upset ups) ∧
      (runs d →
        e.scrubAt mem key = (if s.pos + 1 < d.walkUnits mem then ⟨s.pos + 1, start, s.last⟩ else ⟨0, start, d.tick die - start⟩) ∧
        (mem ≠ 0 → e.mem = d.mem) ∧
        (mem = 0 → d.walkUnits 0 ≤ s.pos + 1 → e.get F.HBM_SSTAT_LAPS die (unit % 128 / 32) = (d.get F.HBM_SSTAT_LAPS die (unit % 128 / 32) + 1) % 2 ^ 16) ∧
        (mem = 1 → d.walkUnits 1 ≤ s.pos + 1 → e.get F.SBF_SSTAT_LAPS die = (d.get F.SBF_SSTAT_LAPS die + 1) % 2 ^ 16)))) ∧
  (∀ place : Nat, Effect (.scrubWriteback place) (fun d e => ∀ a old good, d.wback[place]? = some (a, old, good) →
      e.wback = d.wback.eraseIdx place ∧
      if d.mem.bytes a old.length = old ∧ (d.errs.at? a).isSome = true then
        e.errs.at? a = none ∧ (d.mem.wf = true → ∀ x, e.mem.byte x = if a ≤ x ∧ x < a + good.length then good.getD (x - a) 0 else d.mem.byte x)
      else e.mem = d.mem ∧ e.errs = d.errs)) ∧
  (∀ mem die inst : Nat,
    Effect (.checkerSelfTest mem die inst) (fun d e => e.mem = d.mem ∧
      ((mem, die, inst) ∉ d.stest → (mem = 2 → d.computeUp die = true) → (mem, die, inst) ∈ e.stest ∧
        (mem = 0 → e.get F.HBM_STEST_DONE die inst = 0 ∧ e.get F.HBM_STEST_FAIL die inst = 0) ∧
        (mem = 1 → e.get F.SBF_STEST_DONE die inst = 0 ∧ e.get F.SBF_STEST_FAIL die inst = 0) ∧
        (mem = 2 → e.get F.CMP_STEST_DONE die inst = 0 ∧ e.get F.CMP_STEST_FAIL die inst = 0))) ∧
    ∀ (pattern : Nat) (bad : List (Nat × Nat)), Effect (.checkerSelfTestDone mem die inst pattern bad) (fun d e =>
      ((mem, die, inst) ∉ d.stest → e = d) ∧
      ((mem, die, inst) ∈ d.stest → pattern = 0 → e.stest = d.stest.erase (mem, die, inst) ∧ e.mem = d.mem ∧
        (mem = 0 → e.get F.HBM_STEST_DONE die inst = 1 ∧ e.get F.HBM_STEST_FAIL die inst = 0 ∧ e.get F.HBM_STEST_PATTERN die inst = 0) ∧
        (mem = 1 → e.get F.SBF_STEST_DONE die = 1 ∧ e.get F.SBF_STEST_FAIL die = 0 ∧ e.get F.SBF_STEST_PATTERN die = 0)) ∧
      ((mem, die, inst) ∈ d.stest → mem = 2 → e.get F.CMP_STEST_DONE die inst = 1 ∧
        e.get F.CMP_STEST_FAIL die inst = (if pattern = 0 then 0 else 1) ∧
        ∀ c p, c < 4 → p < 136 → e.get F.CMP_PSTEST_PASS die inst (c * 256 + p) = if bad.contains (c, p) = true then 0 else 1) ∧
      ((mem, die, inst) ∈ d.stest → mem = 0 → pattern ≠ 0 → e.get F.HBM_STAT_STATE die inst = 4))) ∧
  (∀ die mib : Nat, Effect (.sbfZfill die mib) (fun d e =>
      let m := if mib < 384 then mib else d.get F.SBF_ZFILL_MIB die
      e.mem = d.mem ∧
      if d.get F.SBF_ZFILL_BUSY die = 0 then e.zfill.at? die = some m ∧ e.get F.SBF_ZFILL_BUSY die = 1 ∧ e.get F.SBF_ZFILL_MIB die = m
      else e.zfill = d.zfill)) ∧
  (∀ die : Nat, Effect (.sbfZfillDone die) (fun d e => ∀ m, d.zfill.at? die = some m → d.mem.wf = true →
      e.get F.SBF_ZFILL_BUSY die = 0 ∧ e.zfill.at? die = none ∧
      (∀ x, e.mem.byte x = if sbAddr die (m * 2 ^ 20) ≤ x ∧ x < sbAddr die (m * 2 ^ 20) + 2 ^ 20 then 0 else d.mem.byte x) ∧
      ∀ u, sbAddr die (m * 2 ^ 20) ≤ u → u < sbAddr die (m * 2 ^ 20) + 2 ^ 20 → e.errs.at? u = none))

/-- The key ring's commands (R244–R248, R256): with BUSY set a command has no effect; otherwise it is carried out on the staged entry, and its result
waits until the command completes. A refused command leaves the entries as they are. -/
def Obligations.KeyRingCommands : Prop :=
  ∀ die : Nat,
    let acts := fun (d e : Dev) (P : KEnt → (Nat → Option Nat → Prop) → Prop) =>
      (d.on? F.KRG_ESTAT_BUSY die = true → e = d) ∧
      (d.on? F.KRG_ESTAT_BUSY die = false → P (d.staged die) fun r w =>
        e.get F.KRG_ESTAT_BUSY die = 1 ∧ ∃ q, e.krgP.at? die = some (r, q) ∧ ∀ x, w = some x → q = x)
    let free := fun (d : Dev) (k : KEnt) (w : Nat) => ∀ x, d.krg.at? (die, k.set, w) = some x → x.valid = false
    Effect (.insert die) (fun d e => acts d e fun k ans =>
      let use := d.get F.KRG_QUSE_COUNT die 0 k.ident
      if d.badEntry die k.w0 k.w1 = true then ans 4 none ∧ e.krg = d.krg
      else if (d.krgMatch die k).isSome = true then ans 2 none ∧ e.krg = d.krg
      else if d.get F.KRG_QUOTA_MAX die 0 k.ident ≤ use then ans 3 none ∧ e.krg = d.krg
      else ((∀ w, w < 8 → ¬ free d k w) → ans 1 none ∧ e.krg = d.krg) ∧
        ((∃ w, w < 8 ∧ free d k w) → ∃ w, w < 8 ∧ free d k w ∧ ans 0 (some w) ∧ e.krg.at? (die, k.set, w) = some { k with w0 := clrBit k.w0 9 } ∧
          (∀ x, x ≠ (die, k.set, w) → e.krg.at? x = d.krg.at? x) ∧ e.get F.KRG_QUSE_COUNT die 0 k.ident = (use + 1) % 2 ^ 22)) ∧
    Effect (.modify die) (fun d e => acts d e fun k ans =>
      if d.badEntry die k.w0 k.w1 = true then ans 4 none ∧ e.krg = d.krg
      else match d.krgMatch die k with
        | none => ans 5 none ∧ e.krg = d.krg
        | some w =>
          let h := d.krg.atD (die, k.set, w) ⟨0, 0⟩
          if h.w1 / 8 ≠ k.w1 / 8 then ans 4 none ∧ e.krg = d.krg
          else if ((List.range 3).any fun j => hasBit h.w1 j && !hasBit k.w1 j) = true then ans 7 none ∧ e.krg = d.krg
          else ans 0 (some w) ∧ e.krg = d.krg.put (die, k.set, w) { h with w1 := k.w1 }) ∧
    Effect (.readEntry die) (fun d e => acts d e fun k ans => e.krg = d.krg ∧
      match d.krgMatch die k with
      | none => ans 5 none ∧ e.staged die = k
      | some w =>
        let h := d.krg.atD (die, k.set, w) ⟨0, 0⟩
        ans 0 (some w) ∧ e.staged die = ⟨h.w0 % 2 ^ 64, h.w1 % 2 ^ 64⟩) ∧
    Effect (.removeUnused die) (fun d e => acts d e fun k ans =>
      match d.krgMatch die k with
      | none => ans 5 none ∧ e.krg = d.krg
      | some w => if (d.krg.atD (die, k.set, w) ⟨0, 0⟩).used = true then ans 6 none ∧ e.krg = d.krg
        else ans 0 (some w) ∧ e.krg = d.krg.del (die, k.set, w) ∧ e.get F.KRG_QUSE_COUNT die 0 k.ident = d.get F.KRG_QUSE_COUNT die 0 k.ident - 1) ∧
    Effect (.krgCommandDone die) (fun d e => match d.krgP.at? die with
      | none => e = d
      | some (r, w) => e.get F.KRG_ESTAT_RESULT die = r % 16 ∧ e.get F.KRG_ESTAT_WAY die = w % 8 ∧ e.get F.KRG_ESTAT_BUSY die = 0 ∧ e.krg = d.krg)

/-- Quotas, host windows and REKEY (R244, R252, R260–R263): a quota is written at once; an enabled window's descriptor takes only a write that clears EN;
the cut removes what the identity holds in the range and makes what its engines have issued old; the drain ends when nothing old is outstanding; at the
limit every engine that still holds something old is named in KRG_RKHALT. -/
def Obligations.RekeyAndWindows : Prop :=
  ∀ die : Nat,
    (∀ value : Nat, Effect (.quotaWrite die value) (fun d e =>
      d.written e ⟨.KRG_QUOTA, die, 0, d.get F.KRG_QSEL_IDENT die⟩ value ∧ ∀ p, e.get F.KRG_QUSE_COUNT die 0 p = d.get F.KRG_QUSE_COUNT die 0 p)) ∧
    (∀ word value : Nat, Effect (.hostWindowWrite die word value) (fun d e =>
      let w := d.get F.KRG_HWSEL_WIN die
      if d.on? F.KRG_HWCTL_EN die 0 w = true ∧ ¬ (word = 0 ∧ hasBit value 31 = false) then e = d
      else d.written e ⟨hwReg word, die, 0, w⟩ value)) ∧
    (∀ all : Bool, Effect (.rekeyCut die all) (fun d e =>
      let p := d.get F.KRG_RKSEL_IDENT die
      let base := d.get64 F.KRG_RKBASE_LO_DVA F.KRG_RKBASE_HI_DVA die 0 p
      let pages := d.get F.KRG_RKLEN_PAGES die 0 p
      e.on? F.KRG_RKCTL_ALL die 0 p = all ∧
      if d.on? F.KRG_RKCTL_BUSY die 0 p = true ∨ (all = false ∧ pages = 0) then e.krg = d.krg ∧ e.drains = d.drains ∧ e.engs = d.engs
      else e.get F.KRG_RKCTL_BUSY die 0 p = 1 ∧ e.get64 F.KRG_RKHALT_LO_MASK F.KRG_RKHALT_HI_MASK die 0 p = 0 ∧
        e.krg = d.krg.filter (fun x => !(x.1.1 == die && x.2.cutBy p base (2 ^ 12 * pages) all)) ∧
        (∀ x ∈ d.identEngines die p, (∀ l ∈ (e.eng die x).latch, l = none) ∧ ∀ s ∈ (e.eng die x).slots, s.out = true → s.old = true) ∧
        ∀ x, x < 64 → x ∉ d.identEngines die p → e.eng die x = d.eng die x)) ∧
    (∀ p : Nat, Effect (.rekeyDrainEnd die p) (fun d e => match d.drains.at? (die, p) with
      | none => e = d
      | some r =>
        if d.identOld die p = true ∨ ∃ sq ∈ r.left, d.linkHas sq = true then e = d
        else e.get F.KRG_RKCTL_BUSY die 0 p = 0 ∧ e.get F.KRG_RKTIME_TICKS die 0 p = (d.tick die - r.at_) % 2 ^ 32 ∧ e.drains.at? (die, p) = none)) ∧
    ∀ p : Nat, Effect (.rekeyTimeout die p) (fun d e => match d.drains.at? (die, p) with
      | none => e = d
      | some r =>
        if d.late die r.at_ 100000 = false ∨ d.identOld die p = false then e = d
        else e.get F.KRG_RKCTL_TMO die 0 p = 1 ∧
          (p < 48 → ∀ x, x < 64 → d.tenPart die x = p → d.engHasOld die x = true →
            hasBit (e.get64 F.KRG_RKHALT_LO_MASK F.KRG_RKHALT_HI_MASK die 0 p) x = true))

/-- R245: the set of an entry is v[17:0] ^ v[35:18] ^ v[44:36] ^ (p << 12) ^ (z << 10), v the page number of its VA; pages of one size and one
identity in one aligned run of 262,144 pages lie in different sets, so that pages that meet in a set lie in different runs. -/
def Obligations.EntrySets : Prop :=
  (∀ e : KEnt, ∀ i, i < 18 →
    let v := e.va / 2 ^ pageBits e.size
    e.set.testBit i = (((v.testBit i ^^ v.testBit (18 + i)) ^^ (decide (i < 9) && v.testBit (36 + i))) ^^
      (decide (12 ≤ i) && e.ident.testBit (i - 12)) ^^ (decide (10 ≤ i) && e.size.testBit (i - 10)))) ∧
  (∀ e : KEnt, e.set < 2 ^ 18) ∧
  (∀ p z v v' : Nat, v / 2 ^ 18 = v' / 2 ^ 18 → krgSet p z v = krgSet p z v' → v = v') ∧
  ∀ p z s : Nat, ∀ vs : List Nat, vs.Nodup → (∀ v ∈ vs, krgSet p z v = s) → (vs.map fun v => v / 2 ^ 18).Nodup

/-- R219: the scratchpad's code. A stored word of 72 bits, data bit i at x^(7+i), bit 71 the check bit 7, is taken as it is where its check bits 0–6
are what d(x)·x^7 leaves modulo x^7 + x^3 + 1 (sums of multiples of it brought d(x)·x^7 to them), and its weight is even; and nowhere else. -/
def Obligations.ScratchpadCode : Prop :=
  ∀ m : Nat, m < 2 ^ 72 →
    (secdedVerdict m = .clean m ↔
      (∃ s : List Nat, (∀ i ∈ s, i < 64) ∧ (m / 2 ^ 7 % 2 ^ 64) * 2 ^ 7 = s.foldl (fun a i => a ^^^ (2 ^ 7 + 2 ^ 3 + 1) * 2 ^ i) (m % 2 ^ 7)) ∧
      ((List.range 72).filter fun i => m.testBit i).length % 2 = 0)

/-- R45: elements are packed with no padding: bit j of element i of a run of w-bit elements is bit w·i + j of the run, counted from bit 0 of its first
byte, as a conversion stores them and as the matrix unit reads them; a block of 32 elements has 32, 24 or 16 bytes. -/
def Obligations.PackedElements : Prop :=
  (∀ (w : Nat) (es : List Nat), 0 < w →
    (∀ i j, i < es.length → j < w →
      ((packElems w es).getD ((w * i + j) / 8) 0).toNat.testBit ((w * i + j) % 8) = (es.getD i 0).testBit j) ∧
    (es.length = 32 → (packElems w es).length = 4 * w) ∧
    (w = 4 → ∀ i, 2 * i + 1 < es.length →
      ((packElems w es).getD i 0).toNat % 16 = es.getD (2 * i) 0 % 16 ∧ ((packElems w es).getD i 0).toNat / 16 = es.getD (2 * i + 1) 0 % 16)) ∧
  ∀ (rd : Nat → Nat) (fmt a l j : Nat), (∀ x, rd x < 256) → fmt ≤ 6 → j < elemBits fmt →
    (laneElem rd fmt a l).testBit j = (rd (a + (elemBits fmt * l + j) / 8)).testBit ((elemBits fmt * l + j) % 8)

/-- The hub's deadbolts and fences and the knuckle map (R271–R275): the deadbolt needs the cell network's, and clears only through DB_CLEAR; a map update
clears the knuckle's bits in the die's map, answers the packets held for it with PATH, and discards the control messages. -/
def Obligations.HubFencesAndMap : Prop :=
  ∀ die : Nat,
    Effect (.hubDeadboltSet die) (fun d e =>
      let s := d.selOf .HUB_DB die 0
      e.get F.HUB_DBDROP_COUNT die 0 s = d.get F.HUB_DBDROP_COUNT die 0 s ∧
      if d.on? F.CMP_PCTL_DEADBOLT die (s / 1024) (s % 1024) = true then
        e.get F.HUB_DB_DEADBOLT die 0 s = 1 ∧ e.get F.HUB_DB_DBERR die 0 s = d.get F.HUB_DB_DBERR die 0 s
      else e.get F.HUB_DB_DEADBOLT die 0 s = d.get F.HUB_DB_DEADBOLT die 0 s ∧ e.get F.HUB_DB_DBERR die 0 s = 1) ∧
    Effect (.hubDbClear die) (fun d e =>
      let s := d.selOf .HUB_DB die 0
      e.get F.HUB_DB_DEADBOLT die 0 s = 0 ∧ e.get F.HUB_DBDROP_COUNT die 0 s = 0 ∧ e.get F.HUB_DB_DBERR die 0 s = d.get F.HUB_DB_DBERR die 0 s) ∧
    (∀ mask : Nat, Effect (.portFenceWrite die mask) (fun _ e =>
      e.get F.HUB_PFENCE_LO_FENCE die + 2 ^ 32 * e.get F.HUB_PFENCE_HI_FENCE die = mask)) ∧
    (∀ en : Nat, Effect (.kmapEnWrite die en) (fun d e =>
      e.get F.HUB_KMAP_EN die = en ∧ e.get F.HUB_KMAP_UP die = d.get F.HUB_KMAP_UP die)) ∧
    ∀ (k : Nat) (pkts msgs : List Nat), Effect (.mapUpdate die k pkts msgs) (fun d e =>
      if (die, k) ∈ d.mapUpd then
        let lost := (d.net.zipIdx.filter fun x => pkts.contains x.2).map (·.1)
        e.mapUpd = d.mapUpd.erase (die, k) ∧ hasBit (e.kmap die) k = false ∧ hasBit (e.get F.HUB_KMAP_UP die) k = false ∧
        (∀ j, j < 4 → j ≠ k → hasBit (e.get F.HUB_KMAP_UP die) j = hasBit (d.get F.HUB_KMAP_UP die) j ∧ hasBit (e.get F.HUB_KMAP_EN die) j = hasBit (d.get F.HUB_KMAP_EN die) j) ∧
        e.net = (d.net.zipIdx.filter fun x => !pkts.contains x.2).map (·.1) ++ lost.map (fun p => match p with
          | .req t => .rsp ⟨t.src, t.slot, 6, [], t.unf, none⟩
          | .rsp r => .rsp { r with stat := 6, data := [], home := none }) ∧
        e.ctl = (d.ctl.zipIdx.filter fun x => !msgs.contains x.2 || x.1.src.die == x.1.dst.die).map (·.1)
      else e = d)

/-- Knuckle training (R274, R275, R281–R284): a command waits while a sequence runs; RECOVER acts on a knuckle in service; FULL and HOLD take it out of
service; the steps of a training, its width check and its qualification; a failed one is repeated once. -/
def Obligations.KnuckleTraining : Prop :=
  (∀ die inst : Nat,
    let k := knuckleAt die inst
    let waits := fun (d : Dev) => d.knkSt die inst ∈ [1, 2, 3, 5]
    let held := fun (d e : Dev) (cmd : Nat) => if d.on? F.KNK_CTL_PEND die inst = true then e = d else
      e.get F.KNK_CTL_PEND die inst = 1 ∧ e.knkPend.at? (die, inst) = some cmd ∧ e.knks = d.knks
    Effect (.knuckleRecover die inst) (fun d e =>
      if waits d then held d e 1
      else if d.knkSt (knuckleEnds k).1 (endInst k (knuckleEnds k).1) = 4 then e.knkBoth k 5 ∧ (e.knk k).step = 3 ∧ (e.knk k).full = false ∧
        (e.knk k).trains = (((d.knk k).trains.1 + 1) % 64, ((d.knk k).trains.2 + 1) % 64)
      else e = d) ∧
    Effect (.knuckleFull die inst) (fun d e =>
      if waits d then held d e 2
      else e.knkBoth k 1 ∧ e.knkGone k ∧ (e.knk k).step = 1 ∧ (e.knk k).full = true ∧ (e.knk k).good = (d.modules, d.modules) ∧
        ∀ x ∈ knuckleSides k, e.get F.KNK_STAT_WIDTHERR x.1 x.2 = 0 ∧ e.get F.KNK_STAT_QUALERR x.1 x.2 = 0 ∧ e.get F.KNK_STAT_STORM x.1 x.2 = 0) ∧
    Effect (.knuckleHold die inst) (fun d e =>
      if waits d then held d e 3 else e.knkBoth k 6 ∧ e.knkGone k ∧ (e.knk k).step = 0)) ∧
  (∀ (k : Nat) (a b : KnkRes), Effect (.knuckleTrainingStepEnd k a b) (fun d e =>
    let x := d.knk k
    let p := (knuckleSides k).getD 0 (0, 0)
    let q := (knuckleSides k).getD 1 (0, 0)
    (x.step = 1 → (e.knk k).step = 2 ∧ ∀ s ∈ knuckleSides k, e.get F.KNK_ID_PVUSE s.1 s.2 = min (d.get F.KNK_ID_PVER p.1 p.2) (d.get F.KNK_ID_PVER q.1 q.2)) ∧
    (x.step = 2 ∨ x.step = 3 → (e.knk k).step = x.step + 1 ∧ (e.knk k).good = (x.good.1 &&& a.good, x.good.2 &&& b.good)) ∧
    (x.step = 4 → x.full = true → (e.knk k).step = 5 ∧ (e.knk k).good = (eyesOk x.good.1 a.margs, eyesOk x.good.2 b.margs)) ∧
    (x.step = 5 → activeSet (x.good.1 % 2 ^ 18) (x.good.2 % 2 ^ 18) ≠ 0 → (e.knk k).step = 6 ∧ e.knkBoth k 2 ∧
      ∀ s ∈ knuckleSides k, e.get F.KNK_AMASK_MASK s.1 s.2 = activeSet (x.good.1 % 2 ^ 18) (x.good.2 % 2 ^ 18)) ∧
    (x.step = 6 → x.full = true → d.widthOk k a b = true → (e.knk k).step = 7 ∧ e.knkBoth k 3) ∧
    (x.step = 6 → x.wretry = false → d.widthOk k a b = false → (e.knk k).step = 1 ∧ (e.knk k).wretry = true ∧ e.knkBoth k 1 ∧ e.knkGone k ∧
      ∀ s ∈ knuckleSides k, e.get F.KNK_STAT_WIDTHERR s.1 s.2 = 1) ∧
    (x.step = 6 → x.wretry = true → d.widthOk k a b = false → d.knkNoPend k → (e.knk k).step = 0 ∧ e.knkBoth k 6 ∧ e.knkGone k))) ∧
  ∀ k ea eb : Nat, Effect (.knuckleQualEnd k ea eb) (fun d e =>
    let x := d.knk k
    let p := (knuckleSides k).getD 0 (0, 0)
    let q := (knuckleSides k).getD 1 (0, 0)
    let pass := ea ≤ d.get F.KNK_QCTL_QMAX p.1 p.2 ∧ eb ≤ d.get F.KNK_QCTL_QMAX q.1 q.2
    if x.step = 7 then
      e.get F.KNK_QERR_COUNT p.1 p.2 = min ea (2 ^ 32 - 1) ∧ e.get F.KNK_QERR_COUNT q.1 q.2 = min eb (2 ^ 32 - 1) ∧
      (pass → d.knkNoPend k → e.knkBoth k 4 ∧ (e.knk k).step = 0 ∧
        (∀ j, j < d.ndies → d.carrierUp j = true → hasBit (e.get F.HUB_KMAP_UP j) k = true) ∧ ∀ s ∈ knuckleSides k, e.flink s.1 s.2 = FLink.initial) ∧
      (¬ pass → x.qretry = false → e.knkBoth k 1 ∧ e.knkGone k ∧ (e.knk k).step = 1 ∧ (e.knk k).qretry = true) ∧
      (¬ pass → x.qretry = true → d.knkNoPend k → e.knkBoth k 6 ∧ e.knkGone k ∧ (e.knk k).step = 0)
    else e = d)

/-- Flits of a knuckle (R285, R286, R289, R290): a flit is taken in order, or discarded with one NAK; a run of NAKs of one ACKSEQ as long as KNK_RLIM sets
STORM and begins RECOVER; a lost signal takes the knuckle out of service. -/
def Obligations.KnuckleFlits : Prop :=
  ∀ die inst : Nat,
    let k := knuckleAt die inst
    (∀ f : Bytes, Effect (.knuckleFlitReceive die inst f) (fun d e =>
      let l := d.flink die inst
      let t := flitTag f
      let o := l.receive f [1, 2, 3, 4, 5, 6, 7]
      let used := (flitSlots f).filter fun s => s.1 != 0
      let bad := flitCrc f ≠ bitsOf t 63 40 ∨ ∃ s ∈ used, 7 < s.1
      if d.knkSt die inst = 4 then
        e.flink die inst = o.link ∧
        (bad → (e.flink die inst).rx = l.rx ∧ (e.flink die inst).nak = true ∧ e.get F.KNK_NCRC_COUNT die inst = satAdd 32 (d.get F.KNK_NCRC_COUNT die inst) 1) ∧
        (¬ bad → used ≠ [] → if bitsOf t 8 0 = (l.rx + 1) % 512 then (e.flink die inst).rx = bitsOf t 8 0 ∧ (e.flink die inst).nak = false
          else (e.flink die inst).rx = l.rx ∧ (e.flink die inst).nak = true) ∧
        (¬ bad → (e.flink die inst).naks = l.naks ∨ (l.nak = false ∧ (e.flink die inst).naks = l.naks + 1)) ∧
        (¬ bad → bitsOf t 19 18 = 2 → e.get F.KNK_NREPLAY_COUNT die inst = satAdd 32 (d.get F.KNK_NREPLAY_COUNT die inst) 1) ∧
        (¬ bad → bitsOf t 19 18 = 2 → d.get F.KNK_RLIM_LIMIT die inst ≤ (e.flink die inst).nakRun →
          e.get F.KNK_STAT_STORM die inst = 1 ∧ e.knkBoth k 5 ∧ (e.knk k).step = 3)
      else e = d)) ∧
    Effect (.knuckleNakRepeat die inst) (fun d e =>
      if (d.flink die inst).nak = true ∧ d.knkSt die inst = 4 then e.flink die inst = { d.flink die inst with naks := (d.flink die inst).naks + 1 } else e = d) ∧
    Effect (.knuckleSignalLoss die inst) (fun d e =>
      if d.knkSt die inst = 0 ∨ d.knkSt die inst = 6 then e = d
      else d.knkNoPend k → (∀ x ∈ knuckleSides k, d.carrierUp x.1 = true → e.knkSt x.1 x.2 = 6) ∧ e.knkGone k ∧ (e.knk k).step = 0)

/-- The operations of the control network at a tumbler's home (R167, R170–R172), for a message that is first of its way, finds its path and keeps its
check: ADD and RADD add modulo 2^32 and record a wrap, SET stores, CADD adds where the value compares equal and always replies CVAL with the value before;
each update answers, in the table's order, exactly the armed waits that the new value meets. ARM is evaluated on arrival; WITHDRAW removes the issuer's
wait of that slot. A steward's writes to TMB_VALUE and TMB_ADD execute SET and ADD (R182). -/
def Obligations.TumblerOperations : Prop :=
  let upd := fun (d e : Dev) (base : List CtlMsg) (home idx v : Nat) (more : List CtlMsg) =>
    let met := fun (w : WaitEnt) => w.home == home && w.idx == idx && decide (w.thr ≤ v)
    e.tumbler home idx = v ∧ (∀ a j, j < 65536 → (a, j) ≠ (home, idx) → e.tumbler a j = d.tumbler a j) ∧
    e.waits = d.waits.filter (fun w => !met w) ∧
    e.ctl = base ++ (d.waits.filter met).map (fun w => ⟨.bank home, w.who, 0x09, w.slot, w.gen, w.who.peer, tumbField home idx 0, v, 0⟩) ++ more
  let wrap := fun (d e : Dev) (home n : Nat) =>
    if 2 ^ 32 ≤ n then e.get F.TMB_STAT_WRAP home = 1 ∧ e.get F.TMB_NWRAP_COUNT home = satAdd 32 (d.get F.TMB_NWRAP_COUNT home) 1
    else e.get F.TMB_STAT_WRAP home = d.get F.TMB_STAT_WRAP home ∧ e.get F.TMB_NWRAP_COUNT home = d.get F.TMB_NWRAP_COUNT home
  let reach := fun (d : Dev) (n opc : Nat) (noise : Bytes) (x : CtlMsg) (home : Nat) =>
    x.opc = opc ∧ ∃ m, d.ctlAt n opc = some m ∧ d.ctlPath m = true ∧ m.received noise = some x ∧ x.dst = .bank home
  (∀ (n : Nat) (noise : Bytes) (x : CtlMsg) (home : Nat),
    let idx := x.tumb % 2 ^ 16
    Effect (.add n noise) (fun d e => reach d n 1 noise x home →
      upd d e (d.ctl.eraseIdx n) home idx ((d.tumbler home idx + x.val % 2 ^ 32) % 2 ^ 32) [] ∧ wrap d e home (d.tumbler home idx + x.val % 2 ^ 32)) ∧
    Effect (.setMsg n noise) (fun d e => reach d n 2 noise x home → upd d e (d.ctl.eraseIdx n) home idx (x.val % 2 ^ 32) []) ∧
    Effect (.radd n noise) (fun d e => reach d n 3 noise x home →
      upd d e (d.ctl.eraseIdx n) home idx ((d.tumbler home idx + x.val % 2 ^ 32) % 2 ^ 32)
        (match x.who with
          | none | some (.core _) | some (.phys _) | some (.stw _) => []
          | some w => [⟨.bank home, w, 0x08, x.slot, x.gen, x.peer, x.tumb, 0, 0⟩]) ∧ wrap d e home (d.tumbler home idx + x.val % 2 ^ 32)) ∧
    Effect (.arm n noise) (fun d e => reach d n 4 noise x home → ∀ w, x.who = some w →
      let rest := d.waits.filter fun y => !(y.home == home && y.who == w && y.slot == x.slot)
      let v := d.tumbler home idx
      e.tmb = d.tmb ∧
      if x.val ≤ v then e.waits = rest ∧ e.ctl = d.ctl.eraseIdx n ++ [⟨.bank home, w, 0x09, x.slot, x.gen, w.peer, tumbField home idx 0, v, 0⟩]
      else e.waits = rest ++ [⟨home, idx, x.val, w, x.slot, x.gen⟩] ∧ e.ctl = d.ctl.eraseIdx n) ∧
    Effect (.withdraw n noise) (fun d e => reach d n 5 noise x home → ∀ w, x.who = some w →
      e.tmb = d.tmb ∧ e.ctl = d.ctl.eraseIdx n ∧ e.waits = d.waits.filter fun y => !(y.home == home && y.who == w && y.slot == x.slot)) ∧
    Effect (.cadd n noise) (fun d e => reach d n 6 noise x home → ∀ w, x.who = some w →
      let v := d.tumbler home idx
      let reply : CtlMsg := ⟨.bank home, w, 0x0A, x.slot, x.gen, x.peer, x.tumb, v, 0⟩
      if v = x.val then upd d e (d.ctl.eraseIdx n) home idx ((v + x.imm % 2 ^ 22) % 2 ^ 32) [reply] ∧ wrap d e home (v + x.imm % 2 ^ 22)
      else e.tmb = d.tmb ∧ e.waits = d.waits ∧ e.ctl = d.ctl.eraseIdx n ++ [reply])) ∧
  ∀ die value : Nat,
    Effect (.tmbValueWrite die value) (fun d e => upd d e d.ctl die (d.selOf .TMB_VALUE die 0) value []) ∧
    Effect (.tmbAddWrite die value) (fun d e =>
      let idx := d.selOf .TMB_ADD die 0
      upd d e d.ctl die idx ((d.tumbler die idx + value) % 2 ^ 32) [] ∧ wrap d e die (d.tumbler die idx + value))

/-- Control messages (R170, R171, R177, R179–R181): one that is not there, or not the first of its way, does nothing; one with no path is discarded; one that
fails its check is counted, CHKERR is set, and it changes no tumbler and no wait; a WAKE meets the steward's wait of its generation, a WAKE or a
CVAL at a core its slot or count register; an ACK ends the add it answers; a broadcast acts as CMP_PRUN does. -/
def Obligations.ControlMessages : Prop :=
  let reach := fun (d : Dev) (n opc : Nat) (noise : Bytes) (x : CtlMsg) =>
    x.opc = opc ∧ ∃ m, d.ctlAt n opc = some m ∧ d.ctlPath m = true ∧ m.received noise = some x
  ∀ (n : Nat) (noise : Bytes),
    (∀ c ∈ [(Instr.add n noise, 1), (.setMsg n noise, 2), (.radd n noise, 3), (.arm n noise, 4), (.withdraw n noise, 5), (.cadd n noise, 6), (.ack n noise, 8),
        (.wake n noise, 9), (.cval n noise, 0x0A), (.event n noise, 0x10), (.bcast n noise, 0x11)],
      Effect c.1 (fun d e =>
        (d.ctlAt n c.2 = none → e = d) ∧
        ∀ m, d.ctlAt n c.2 = some m →
          if d.ctlPath m = false then e = { d with ctl := d.ctl.eraseIdx n }
          else m.received noise = none → e.ctl = d.ctl.eraseIdx n ∧ e.tmb = d.tmb ∧ e.waits = d.waits ∧ e.cores = d.cores ∧
            e.get F.TMB_STAT_CHKERR m.dst.die = 1 ∧ e.get F.TMB_NCHK_COUNT m.dst.die = satAdd 32 (d.get F.TMB_NCHK_COUNT m.dst.die) 1)) ∧
    ∀ x : CtlMsg,
    Effect (.wake n noise) (fun d e => reach d n 9 noise x →
      (∀ die, x.dst = .stw die →
        if d.get F.TMB_SWCTL_ARMED die ≠ 0 ∧ d.swGen.getD die 0 = x.gen then
          e.get F.TMB_SWCTL_ARMED die = 0 ∧ e.get F.TMB_SWCTL_MET die = 1 ∧ e.get F.TMB_SWVAL_VALUE die = x.val % 2 ^ 32
        else e = { d with ctl := d.ctl.eraseIdx n }) ∧
      ∀ l, x.dst = .core l →
        let k := d.physOf l
        if d.deadbolt (k / 256) (k % 256) = true then e.cores = d.cores
        else if d.cellRuns (k / 256) = true then e.coreAt (coreKey (k / 256) (k % 256)) = (d.coreAt (coreKey (k / 256) (k % 256))).wake x.slot x.gen
        else e = { d with ctl := d.ctl.eraseIdx n }) ∧
    Effect (.cval n noise) (fun d e => reach d n 0x0A noise x → ∀ l, x.dst = .core l →
        let k := d.physOf l
        if d.deadbolt (k / 256) (k % 256) = true then e.cores = d.cores
        else if d.cellRuns (k / 256) = true then
          e.coreAt (coreKey (k / 256) (k % 256)) = (d.coreAt (coreKey (k / 256) (k % 256))).cval (x.tumb % 2 ^ 18) x.val
        else e = { d with ctl := d.ctl.eraseIdx n }) ∧
    Effect (.ack n noise) (fun d e => reach d n 8 noise x → ∀ die, x.dst = .dsp die → d.computeUp die = true →
      (e.dsp die).unacked = (d.dsp die).unacked.erase (bitsOf x.tumb 17 16, x.tumb % 2 ^ 16)) ∧
    Effect (.event n noise) (fun d e => reach d n 0x10 noise x → ∀ die, x.dst = .stw die → ∀ l, x.who = some (.core l) →
      let cn := lcoreCell l
      let t := (d.coreAt (d.physOf l)).trap
      e = ({ d with ctl := d.ctl.eraseIdx n }).stwPost die ⟨1, x.val, 0, d.partOf cn, coreUnit l (d.physOf l % 256) cn, field t 16 4, field t 4 2⟩) ∧
    Effect (.bcast n noise) (fun d e => reach d n 0x11 noise x → ∀ cn, x.dst = .cell cn →
      cn < 48 → d.carrierUp (cellDie cn) = true → d.computeUp (cellDie cn) = true → cellDie cn < d.ndies →
      let s : State := ⟨[], { d with ctl := d.ctl.eraseIdx n }⟩
      (x.val = 1 → exec (.cellStart cn) s = .next ⟨[], e⟩) ∧ (x.val = 2 → exec (.cellAbort cn) s = .next ⟨[], e⟩) ∧
      (x.val ≠ 1 → x.val ≠ 2 → e = s.dev))

/-- The registers of the tumbler block (R168, R169, R179, R180): a TMB_RANGE that would overlap another partition's range of that home, or whose fields are
reserved together, leaves BASE and NUM and sets RANGEERR; a broadcast sends one BCAST to each existing cell of the mask; the steward's wait is armed with
its next generation after the old one is withdrawn, and WITHDRAW removes it. -/
def Obligations.TumblerRegisters : Prop :=
  ∀ die : Nat,
    (∀ home part value : Nat, Effect (.tmbRangeWrite die home part value) (fun d e =>
      let i := home * 64 + part
      let base := value % 1024
      let num := value / 1024 % 2048
      let bad := 1024 < num ∨ 1024 < base + num
      let clash := ∃ p, p < 48 ∧ p ≠ part ∧ base < (d.rangeAt die home p).base + (d.rangeAt die home p).num ∧
        (d.rangeAt die home p).base < base + num ∧ 0 < num ∧ 0 < (d.rangeAt die home p).num
      (bad → e.get F.TMB_RANGE_BASE die i = d.get F.TMB_RANGE_BASE die i ∧ e.get F.TMB_RANGE_NUM die i = d.get F.TMB_RANGE_NUM die i ∧
        e.get F.TMB_RANGE_REMOTE die i = value / 2 ^ 21 % 2 ∧ e.get F.TMB_STAT_RANGEERR die = 1) ∧
      (¬ bad → clash → e.rangeAt die home part = d.rangeAt die home part ∧ e.get F.TMB_STAT_RANGEERR die = 1) ∧
      (¬ bad → ¬ clash → e.get F.TMB_RANGE_BASE die i = base ∧ e.get F.TMB_RANGE_NUM die i = num ∧ e.get F.TMB_RANGE_REMOTE die i = value / 2 ^ 21 % 2 ∧
        e.get F.TMB_STAT_RANGEERR die = d.get F.TMB_STAT_RANGEERR die) ∧
      ∀ h p, h < 4 → p < 64 → (h, p) ≠ (home, part) → e.rangeAt die h p = d.rangeAt die h p)) ∧
    (∀ c ∈ [(Instr.broadcastStart die, 1), (.broadcastAbort die, 2)], Effect c.1 (fun d e =>
      let cells := (List.range d.ncells).filter (hasBit (d.get F.TMB_BCMASK_LO_CELLS die + 2 ^ 32 * d.get F.TMB_BCMASK_HI_CELLS die))
      e = { d with ctl := d.ctl ++ cells.map fun cn => ⟨.stw die, .cell cn, 0x11, 0, 0, (Ep.stw die).peer, 0, c.2, 0⟩ })) ∧
    let op := fun (d : Dev) (opc gen val : Nat) => (⟨.stw die, .bank (d.get F.TMB_SWTUMB_DIE die), opc, 0, gen, (Ep.stw die).peer,
        tumbField (d.get F.TMB_SWTUMB_DIE die) (d.get F.TMB_SWTUMB_INDEX die) 0, val, 0⟩ : CtlMsg)
    let gone := fun (d : Dev) => if d.get F.TMB_SWCTL_ARMED die = 0 then d.ctl else d.ctl ++ [op d 5 (d.swGen.getD die 0) 0]
    Effect (.stewardWaitArm die) (fun d e =>
      let g := (d.swGen.getD die 0 + 1) % 16
      e.get F.TMB_SWCTL_ARMED die = 1 ∧ e.get F.TMB_SWCTL_MET die = 0 ∧ e.swGen = d.swGen.set die g ∧
      e.ctl = gone d ++ [op d 4 g (d.get F.TMB_SWTHR_THR die)]) ∧
    Effect (.stewardWaitWithdraw die) (fun d e =>
      e.get F.TMB_SWCTL_ARMED die = 0 ∧ e.get F.TMB_SWCTL_MET die = d.get F.TMB_SWCTL_MET die ∧ e.swGen = d.swGen ∧ e.ctl = gone d)

/-- The power sequencer of a die (R409, R412, R415, R416, R470): GO starts a step, or is held one deep, or has no effect; a step that may end leads to
its state, and the next step of the transition begins at once; a wake request is counted, starts the exit of P3 and P4, and is held while a step toward
them runs; reset and PWRGOOD lead to the exit toward P1, the fall of PWRGOOD clears the always-on domain. -/
def Obligations.PowerSequencer : Prop :=
  ∀ die : Nat,
    let cur := fun (d : Dev) => d.get F.PWR_STATE_CUR die
    let tgt := fun (d : Dev) => d.get F.PWR_STATE_TGT die
    let busy := fun (d : Dev) => d.get F.PWR_STATE_BUSY die
    let pend := fun (d : Dev) => d.get F.PWR_DCTL_PEND die
    let ptgt := fun (d : Dev) => d.get F.PWR_DCTL_PTGT die
    let same := fun (d e : Dev) => cur e = cur d ∧ tgt e = tgt d ∧ busy e = busy d
    let next := fun (c goal : Nat) => if c < goal then c + 1 else c - 1
    let exits := fun (e : Dev) => tgt e = 1 ∧ busy e = 1 ∧ (e.pws? die).goal = 1 ∧ (e.pws? die).tested = false
    (∀ t : Nat, Effect (.powerSequencerGo die t) (fun d e => t < 5 →
      e.get F.PWR_DCTL_TARGET die = t ∧
      if busy d ≠ 0 then same d e ∧ if pend d ≠ 0 then pend e = pend d ∧ ptgt e = ptgt d else pend e = 1 ∧ ptgt e = t
      else if cur d < t ∨ (t < cur d ∧ cur d ≤ 2) then cur e = cur d ∧ tgt e = next (cur d) t ∧ busy e = 1 ∧ (e.pws? die).goal = t
      else same d e)) ∧
    (∀ (fails : Nat) (repairs : List (List Bool)), Effect (.powerStepComplete die fails repairs) (fun d e =>
      if busy d ≠ 0 ∧ d.pwReady die (cur d) (tgt d) = true then
        cur e = tgt d ∧
        if (d.pws? die).goal ≠ tgt d then tgt e = next (tgt d) (d.pws? die).goal % 8 ∧ busy e = 1 ∧ (e.pws? die).goal = (d.pws? die).goal else pend e = 0
      else e = d)) ∧
    Effect (.wakeRequest die) (fun d e =>
      if cur d = 4 ∧ d.tripN.getD die false = true ∧ 95 ≤ d.get F.PWR_TJ_TJMAX die then e = d
      else e.get F.PWR_WAKE_PULSE die = 1 ∧ e.get F.PWR_WAKE_COUNT die = (d.get F.PWR_WAKE_COUNT die + 1) % 2 ^ 8 ∧ cur e = cur d ∧
        if busy d ≠ 0 then tgt e = tgt d ∧ busy e = busy d ∧
          if 3 ≤ tgt d ∨ 3 ≤ (d.pws? die).goal then pend e = 1 ∧ ptgt e = 1 else pend e = pend d ∧ ptgt e = ptgt d
        else if 3 ≤ cur d then exits e ∧ e.tripN = d.tripN.set die false ∧ e.pw = d.pw.set die ⟨true, true, d.computeUp die⟩
        else tgt e = tgt d ∧ busy e = busy d) ∧
    Effect (.dieReset die) (fun d e =>
      if d.tripN.getD die false = true then e = d else exits e ∧ (d.keptUp die = true → cur e = 4)) ∧
    (∀ low : Bool, Effect (.powerGoodRise die low) (fun d e =>
      e.aon = d.aon.set die true ∧ (low = false → exits e))) ∧
    Effect (.powerGoodFall die) (fun d e =>
      if d.aonUp die = true then
        e.aon = d.aon.set die false ∧ e.lcnt = d.lcnt.set die 0 ∧ e.alert = d.alert.set die false ∧ e.tripN = d.tripN.set die false ∧
        e.wards.at? die = none ∧ e.pws.at? die = none ∧ ∀ k : RKey, k.die = die → (Reg.place k.reg).dom = .aon → e.rf.at? k = none
      else e = d)

/-- The Ward's protection, rails and clocks (R417–R419, R421–R423): the highest junction temperature and its peak; a throttle step down a cause's duty, to
no less than 4 of 16, and up again, with the flags, the duty of the lowest cause and the count of episodes; the power figures and their sum; a trip, a
lost rail or a lost clock takes down what it powers or clocks, and only that. -/
def Obligations.WardProtection : Prop :=
  ∀ die : Nat,
    let lost := fun (e : Dev) => e.get F.PWR_STATE_CUR die = 4 ∧ e.get F.PWR_STATE_TGT die = 4 ∧ e.get F.PWR_STATE_BUSY die = 0
    let thr := fun (d e : Dev) (duty : List Nat) =>
      let low := duty.foldl min 16
      (e.pws? die).duty = duty ∧ e.get F.PWR_THR_DUTYM1 die = low - 1 ∧
      (∀ x ∈ [(F.PWR_THR_TEMP, 0), (F.PWR_THR_PCEIL, 1), (F.PWR_THR_ICEIL, 2)], e.get x.1 die = if duty.getD x.2 16 < 16 then 1 else 0) ∧
      e.get F.WRD_STAT_THROTTLE die = (if low < 16 then 1 else 0) ∧
      e.get F.PWR_THR_NTHR die = if low < 16 ∧ d.get F.WRD_STAT_THROTTLE die = 0 then satAdd 16 (d.get F.PWR_THR_NTHR die) 1 else d.get F.PWR_THR_NTHR die
    (∀ tj : Nat, Effect (.junctionSample die tj) (fun d e =>
      e.get F.PWR_TJ_TJMAX die = tj ∧ e.get F.PWR_TJ_TJPEAK die = max tj (d.get F.PWR_TJ_TJPEAK die) ∧ (e.pws? die).duty = (d.pws? die).duty)) ∧
    (∀ c : Nat, Effect (.throttleStep die c) (fun d e =>
      let x := d.pws? die
      if d.tooMuch die c = true ∧ (x.duty.getD c 16 = 16 ∨ x.stepAt.getD c 0 + 10 ≤ d.tick die) then
        thr d e (x.duty.set c (max 4 (x.duty.getD c 16 - 1))) ∧ (e.pws? die).stepAt = x.stepAt.set c (d.tick die)
      else e = d)) ∧
    (∀ c : Nat, Effect (.throttleReleaseStep die c) (fun d e =>
      let x := d.pws? die
      if d.cooled die c = true ∧ x.duty.getD c 16 ≠ 16 ∧ x.stepAt.getD c 0 + 1000 ≤ d.tick die ∧ (∃ t, x.cool.getD c none = some t ∧ t + 1000 ≤ d.tick die) then
        thr d e (x.duty.set c (x.duty.getD c 16 + 1))
      else e = d)) ∧
    (∀ (watts arrived : Nat) (rails : List (Nat × Nat)), Effect (.powerFigureExchange die watts rails arrived) (fun d e =>
      let figs := (List.range 4).map fun j =>
        if j = die then watts else if hasBit arrived j = true ∧ d.aonUp j = true ∧ j < d.ndies then d.get F.PWR_PDIE_WATTS j else (d.pws? die).figs.getD j 0
      e.get F.PWR_PDIE_WATTS die = watts ∧ (e.pws? die).figs = figs ∧ e.get F.PWR_PDIE_PKG die = figs.foldl (· + ·) 0 % 2 ^ 12)) ∧
    Effect (.thermalTrip die) (fun d e =>
      if d.keptUp die = true then lost e ∧ e.get F.PWR_STATE_TRIPPED die = 1 ∧ e.tripN = d.tripN.set die true else e = d) ∧
    (∀ r : Nat, Effect (.railFault die r) (fun d e =>
      (r = 0 → e.aon = d.aon.set die false) ∧
      (r ≠ 0 → r < 6 → if d.keptUp die = true then lost e else e = d) ∧
      (6 ≤ r → if d.computeUp die = true then
          e.get F.PWR_CLK_CMPLOCK die = clrBit (d.get F.PWR_CLK_CMPLOCK die) (r - 6) ∧ e.get F.CMP_CELL_CTL_PARK die (r - 6) = 15 ∧ e.pw = d.pw ∧
          ∀ c, 12 * die + 4 * (r - 6) ≤ c → c < 12 * die + 4 * (r - 6) + 4 → e.cells.at? c = none
        else e = d))) ∧
    Effect (.refclkLoss die) (fun d e =>
      if d.get F.PWR_CLK_REFOK die = 0 then e = d
      else e.alert = d.alert.set die true ∧ if d.keptUp die = true then lost e else e.get F.PWR_CLK_REFLOSS die = 1 ∧ e.get F.PWR_CLK_REFOK die = 0) ∧
    (∀ p : Nat, Effect (.pllLockLoss die p) (fun d e =>
      (p = 0 → if d.carrierUp die = true then lost e else e = d) ∧
      (p = 1 → if d.keptUp die = true then e.stews.at? die = none ∧ e.pw = d.pw else e = d) ∧
      (2 ≤ p → p < 5 → if d.carrierUp die = true ∧ hasBit (d.get F.PWR_CLK_CMPLOCK die) (p - 2) = true then
        e.get F.PWR_CLK_CMPLOCK die = clrBit (d.get F.PWR_CLK_CMPLOCK die) (p - 2) ∧ e.pw = d.pw else e = d))) ∧
    Effect (.slowclkLoss die) (fun d e =>
      if d.get F.PWR_CLK_SLOWOK die = 0 then e = d
      else e.get F.PWR_CLK_SLOWOK die = 0 ∧ e.get F.PWR_CLK_SLOWLOSS die = 1 ∧ e.alert = d.alert.set die true ∧ e.lcnt = d.lcnt) ∧
    Effect (.slowclkRestore die) (fun d e => e.get F.PWR_CLK_SLOWOK die = 1 ∧ e.get F.PWR_CLK_SLOWLOSS die = d.get F.PWR_CLK_SLOWLOSS die)

/-- Bring-up (R270, R414, R428, R430, R435, R443): the built-in self-test's failed slices and what they take down; the phases of the memory test, full or fast,
pattern by pattern, with STRETCH in the hold and the stretched disturb alone; B0OK; a chunk sent to the cores in LOADER, and a chunk at a core: its CRC, its
latched header, the bitmap, and the census add at the last. -/
def Obligations.BringUp : Prop :=
  ∀ die : Nat,
    (∀ (slices : Nat) (arrays : Bool), Effect (.builtInSelfTestEnd die slices arrays) (fun d e =>
      let was := d.get F.HUB_SLICE_FAIL die
      let all := was ||| slices
      if d.get F.PWR_STATE_BUSY die = 0 ∨ d.get F.PWR_STATE_CUR die < 3 then e = d
      else if arrays = true ∨ 2 ≤ popCount all 17 ∨ (d.gf2 = true ∧ popCount all 16 ≠ 0) then
        e.get F.PWR_STATE_CUR die = 4 ∧ e.get F.PWR_STATE_TGT die = 4 ∧ e.get F.PWR_STATE_BUSY die = 0 ∧ e.alert = d.alert.set die true
      else if all ≠ was then e.get F.PWR_STATE_TGT die = 1 ∧ e.get F.PWR_STATE_BUSY die = 1
      else e.get F.HUB_SLICE_FAIL die = all ∧ e.get F.HUB_SLICE_SPARE die = (if d.gf2 then 0x1F else spareLane all))) ∧
    (∀ rows : List (Nat × RowId), Effect (.memoryTestPhaseEnd die rows) (fun d e =>
      match d.memtest.at? die with
      | none => e = d
      | some m =>
        let last := if m.full then 6 else 2
        let goes := fun (x : MemTest) => e.memtest.at? die = some x ∧
          ∀ s, s < 4 → e.get F.HBM_REFCTL_STRETCH die s = if x.phase = 3 ∨ x.phase = 5 then 7 else 0
        if m.phase < last then goes { m with phase := m.phase + 1 }
        else if m.pattern < 7 then goes { m with pattern := m.pattern + 1, phase := 0 }
        else e.memtest.at? die = none ∧ ∀ s, s < 4 → e.get F.HBM_REFCTL_STRETCH die s = 0)) ∧
    Effect (.b0okClear die) (fun d e => e.get F.HUB_LEVEL_B0OK die = 0 ∧ e.pw = d.pw) ∧
    (∀ (nch chunk mask : Nat) (uni : Bool), Effect (.chunkSend die nch chunk uni mask) (fun d e =>
      if d.get F.HUB_LDCTL_BUSY die ≠ 0 then e = d
      else e.get F.HUB_LDCTL_BUSY die = 1 ∧ e.get F.HUB_LDCTL_NCHM1 die = nch ∧ e.get F.HUB_LDCTL_CHUNK die = chunk ∧ e.get F.HUB_LDCTL_CELLMASK die = mask ∧
        ∃ data : Bytes, ∃ dst : List Nat, e.chunks = d.chunks ++ dst.map (fun key => (key, leBytes 1 0x4C ++ leBytes 1 nch ++ leBytes 1 chunk ++ zeros 1 ++
            leBytes 4 (d.get F.HUB_LDCEN_INDEX die + 2 ^ 16 * d.get F.HUB_LDCEN_DIE die) ++ leBytes 4 (d.get F.HUB_LDID_IMGID die) ++ leBytes 4 (crc32c data) ++ data)) ∧
          ∀ key ∈ dst, (d.coreAt key).st = .loader)) ∧
    ∀ (n : Nat) (noise : Bytes), Effect (.chunkReceive n noise) (fun d e => ∀ key b, d.chunks[n]? = some (key, b) →
      let c := d.coreAt key
      let x := xorBytes b noise
      let k := field x 2 1 % 32
      let l : Loader := ⟨true, field x 1 1 % 32, field x 4 4 % 2 ^ 18, field x 8 4, clrBit c.ldr.miss k⟩
      e.chunks = d.chunks.eraseIdx n ∧
      if d.deadbolt (key / 256) (key % 256) = true ∨ c.st ≠ .loader ∨ d.computeUp (cellDie (key / 256)) = false then
        e.cores = d.cores ∧ e.mem = d.mem ∧ e.ctl = d.ctl
      else if crc32c (x.drop 16) ≠ field x 12 4 ∨ (c.ldr.latched = true ∧ ¬ (c.ldr.nchm1 = l.nchm1 ∧ c.ldr.census = l.census ∧ c.ldr.imgid = l.imgid)) then
        e.cores = d.cores ∧ e.ctl = d.ctl
      else if l.miss % 2 ^ (l.nchm1 + 1) = 0 then
        e.coreAt key = { c with ldr := l, st := .idle } ∧ (d.hubDeadbolt (key / 256) (key % 256) = false →
          ∃ m : CtlMsg, e.ctl = d.ctl ++ [m] ∧ m.opc = 1 ∧ m.val = 1 ∧ m.dst = .bank (l.census / 2 ^ 16 % 4) ∧ m.tumb % 2 ^ 16 = l.census % 2 ^ 16)
      else e.coreAt key = { c with ldr := l } ∧ e.ctl = d.ctl)

/-- The auxiliary site (R295–R301): TRAIN and HOLD wait one deep while a sequence runs; a capped site stays EMPTY; each bring-up step leads on, is repeated
once where the rule allows it, or takes the site down with its cause: fenced, its window closed, its requests forgotten. A flit is counted and dropped by a
fenced site, else taken in order; the NAK storm, and a window request unanswered too long, lead to RECOVER. A refused request of the site is answered FAIL;
a tumbler write becomes a release-add once every earlier write is acknowledged. -/
def Obligations.AuxiliarySite : Prop :=
  ∀ die : Nat,
    let st := fun (d : Dev) => d.get F.AUX_STAT_STATE die
    let down := fun (e : Dev) (cause : Nat) => st e = 5 ∧ e.get F.AUX_STAT_CAUSE die = cause ∧ e.get F.AUX_CTL_FENCE die = 1 ∧ e.get F.AUX_WIN_WLOG2 die = 0 ∧
      (e.site die).step = 0 ∧ (e.site die).win = [] ∧ (e.site die).reqs = [] ∧ (e.site die).issued = []
    let recover := fun (e : Dev) => st e = 4 ∧ e.get F.AUX_WIN_WLOG2 die = 0 ∧ (e.site die).step = 5
    let held := fun (d e : Dev) (cmd : Nat) =>
      if d.get F.AUX_CTL_PEND die ≠ 0 then e = d else e.get F.AUX_CTL_PEND die = 1 ∧ (e.site die).pend = some cmd ∧ st e = st d
    Effect (.siteTrain die) (fun d e =>
      if st d = 1 ∨ st d = 2 ∨ st d = 4 then held d e 1
      else if d.get F.AUX_ID_CAPPED die ≠ 0 then e = d
      else st e = (if st d = 3 then 5 else st d) ∧ e.get F.AUX_CTL_FENCE die = 1 ∧ e.get F.AUX_STAT_CAUSE die = 0 ∧ e.get F.AUX_WIN_WLOG2 die = 0 ∧
        (e.site die).step = 1 ∧ (e.site die).win = []) ∧
    Effect (.siteHold die) (fun d e =>
      if st d = 1 ∨ st d = 2 ∨ st d = 4 then held d e 2 else if d.get F.AUX_ID_CAPPED die ≠ 0 then e = d else down e 0x0B) ∧
    (∀ r : SiteRes, Effect (.siteBringupStepEnd die r) (fun d e =>
      let s := d.site die
      let fails := fun (cause : Nat) => s.pend = none → down e cause
      (s.step = 1 → if r.ok then (e.site die).step = 2 ∧ st e = st d else fails 1) ∧
      (s.step = 2 →
        let x := slice r.desc 0 64
        if d.descCause die x ≠ 0 then fails (d.descCause die x)
        else st e = 1 ∧ (e.site die).step = 3 ∧ e.get F.AUX_STAT_RATE die = topRate (field x 11 1 &&& d.get F.AUX_LIMIT_RATES die) ∧
          e.get F.AUX_STAT_PVUSE die = d.siteVer die x) ∧
      (s.step = 3 → if r.ok then st e = 2 ∧ (e.site die).step = 4 else if s.tretry then fails 7 else st e = st d ∧ (e.site die).step = 3 ∧ (e.site die).tretry = true) ∧
      (s.step = 4 →
        if r.errs ≤ bitsOf (d.raw ⟨.AUX_QCTL, die, 0, 0⟩) 31 24 then
          s.pend = none → st e = 3 ∧ e.get F.AUX_CTL_FENCE die = 0 ∧ (e.site die).step = 0 ∧ e.get F.AUX_WIN_WLOG2 die = field (d.auxDesc die) 12 1 % 64
        else if s.qretry then fails 8 else st e = 1 ∧ (e.site die).step = 3 ∧ (e.site die).qretry = true) ∧
      (s.step = 5 → if r.ok then s.pend = none → st e = 3 ∧ e.get F.AUX_CTL_FENCE die = 0 ∧ (e.site die).link.rx = s.link.rx else fails 9) ∧
      (s.step = 0 ∨ 5 < s.step → e = d))) ∧
    (∀ f : Bytes, Effect (.siteFlitReceive die f) (fun d e =>
      let o := (d.site die).link.receive f [1, 2, 3, 4]
      let used := (flitSlots f).filter fun s => s.1 != 0
      let bad := flitCrc f ≠ bitsOf (flitTag f) 63 40 ∨ ∃ s ∈ used, 4 < s.1
      if d.get F.AUX_ID_CAPPED die ≠ 0 then e = d
      else if st d ≠ 3 then e.get F.AUX_DROP_COUNT die = satAdd 32 (d.get F.AUX_DROP_COUNT die) 1 ∧ e.sites = d.sites ∧ e.net = d.net
      else (e.site die).link = o.link ∧
        (bad → (e.site die).link.rx = (d.site die).link.rx ∧ e.get F.AUX_NCRC_COUNT die = satAdd 32 (d.get F.AUX_NCRC_COUNT die) 1 ∧ st e = 3) ∧
        (¬ bad → e.get F.AUX_NCRC_COUNT die = d.get F.AUX_NCRC_COUNT die) ∧
        (¬ bad → bitsOf (flitTag f) 19 18 = 2 → e.get F.AUX_NREPLAY_COUNT die = satAdd 32 (d.get F.AUX_NREPLAY_COUNT die) 1 ∧
          if d.get F.AUX_RLIM_LIMIT die ≤ o.link.nakRun then recover e else st e = 3))) ∧
    Effect (.siteRequest die) (fun d e =>
      let s := d.site die
      match s.reqs with
      | [] => e = d
      | r :: rs =>
        let bad := hdrReserved r.hdr = true ∨ (hasBit (field r.hdr 1 1) 7 = true ∧ (field r.hdr 0 1 < 4 ∨ d.get F.AUX_STAT_PVUSE die ≠ 2))
        if st d ≠ 3 then e = d
        else if bad then (e.site die).reqs = rs ∧ (e.site die).sent = s.sent ++ [⟨rspHdr r.hdr 0x0A statProto, []⟩] ∧ e.net = d.net
        else if field (d.auxDesc die) 14 2 ≤ s.busy then e = d
        else (e.site die).reqs = rs) ∧
    Effect (.siteTumblerWrite die) (fun d e =>
      let s := d.site die
      match s.adds with
      | [] => e = d
      | r :: rs =>
        if st d ≠ 3 ∨ (s.issued.any fun o => field o.hdr 0 1 == 2 || field o.hdr 0 1 == 3 || field o.hdr 0 1 == 5) = true then e = d
        else
          let home := gpaDie (field r.hdr 8 8)
          let idx := gpaOff (field r.hdr 8 8) / 4
          (e.site die).adds = rs ∧ (e.site die).addOut = s.addOut ++ [(r, home, idx)] ∧
          e.ctl = d.ctl ++ [⟨.site die, .bank home, 3, 0, 0, (Ep.site die).peer, tumbField home idx (48 + die), field (r.lines.headD []) 0 4 % 2 ^ 22, 0⟩]) ∧
    Effect (.siteRequestTimeout die) (fun d e =>
      match (d.site die).win with
      | [] => e = d
      | w :: ws =>
        if st d = 3 ∧ d.late die w.2.2 (ceilDiv (4 * field (d.auxDesc die) 16 2) 1000) = true then recover e ∧ (e.site die).win = ws else e = d) ∧
    Effect (.siteSidebandLoss die) (fun d e => if st d = 3 then down e 1 else e = d)

/-- A lane's commands, sequence and alignment (R307–R314, R320–R322), where its port is not in TRAIN: in a sequence a command is held one deep; TRAIN begins
the sequence at CAL with the sticky bits clear; HOLD, SLEEP, WAKE and TEST act in their states and have no effect in others; each state of the sequence leads to the next
on what it found, a sequence of more than 10 ms is repeated once and then given up with TRAINERR; alignment is taken on 64 valid headers. -/
def Obligations.LaneSequence : Prop :=
  ∀ die l : Nat,
    let st := fun (d : Dev) => d.get F.SER_LSTAT_STATE die l
    let alone := fun (d : Dev) => ∀ p i, d.lanePort die l = some (p, i) → d.portSt p ≠ 1
    let same := fun (d e : Dev) => e.lane die l = d.lane die l ∧ e.raw ⟨.SER_LSTAT, die, l, 0⟩ = d.raw ⟨.SER_LSTAT, die, l, 0⟩
    let awake := fun (e : Dev) => e.get F.SER_LSTAT_TXDZ die l = 0 ∧ e.get F.SER_LSTAT_RXDZ die l = 0
    let began := fun (e : Dev) => st e = 1 ∧ awake e ∧ e.get F.SER_LSTAT_LOOPT die l = 0 ∧ (e.lane die l).seq = 1 ∧ (e.lane die l).lock = false ∧ (e.lane die l).ebuf = []
    let busy := fun (d : Dev) => 1 ≤ st d ∧ st d ≤ 4
    let held := fun (d e : Dev) (cmd : Nat) =>
      if d.get F.SER_LCTL_PEND die l ≠ 0 then same d e
      else e.get F.SER_LCTL_PEND die l = 1 ∧ e.lane die l = { d.lane die l with pend := cmd } ∧ e.raw ⟨.SER_LSTAT, die, l, 0⟩ = d.raw ⟨.SER_LSTAT, die, l, 0⟩
    Effect (.laneTrain die l) (fun d e => alone d →
      if busy d then held d e 1
      else if st d = 0 ∨ st d = 5 ∨ st d = 7 ∨ st d = 8 then began e ∧ bitsOf (e.raw ⟨.SER_LSTAT, die, l, 0⟩) 21 16 = 0 ∧
        e.get F.SER_NEVT_NTRAIN die l = (d.get F.SER_NEVT_NTRAIN die l + 1) % 2 ^ 16
      else same d e) ∧
    Effect (.laneHold die l) (fun d e => alone d → if busy d then held d e 2 else if st d = 0 then same d e else st e = 8 ∧ awake e) ∧
    Effect (.laneSleep die l) (fun d e => alone d →
      if busy d then held d e 3
      else if st d = 5 ∧ l < 17 then st e = 6 ∧ awake e ∧ (e.lane die l).seq = 0 ∧ (e.lane die l).lock = false ∧
        (e.lane die l).sent = (d.lane die l).sent ++ (if d.get F.SER_LSTAT_TXDZ die l ≠ 0 then [(4, 16)] else []) ++ [(3, 16)]
      else same d e) ∧
    Effect (.laneWake die l) (fun d e => alone d →
      if busy d then held d e 4 else if st d = 6 then st e = 1 ∧ (e.lane die l).seq = 4 ∧ (e.lane die l).retry = false else same d e) ∧
    (∀ loop prbs, Effect (.laneTest die l loop prbs) (fun d e => alone d →
      e.get F.SER_LCTL_TLOOP die l = loop ∧ e.get F.SER_LCTL_PRBS die l = prbs ∧
      if busy d then held d e 5 else if st d = 5 ∨ st d = 8 then st e = 7 ∧ awake e else same d e)) ∧
    (∀ r : LaneRes, Effect (.laneStateEnd die l r) (fun d e => alone d →
      let x := d.lane die l
      (st d = 1 → st e = 2) ∧
      (st d = 2 → e.get F.SER_LSTAT_FOM die l = r.fom % 256 ∧ e.get F.SER_RXEQ_CTLE die l = r.ctle % 32 ∧ e.get F.SER_RXEQ_DFE1 die l = r.dfe1 % 128 ∧
        (x.seq = 1 → e.raw ⟨.SER_TXEQ, die, l, 0⟩ = r.txeq % 2 ^ 24) ∧ st e = if d.get F.SER_FOMCFG_FOMTRN die l ≤ r.fom then 3 else 2) ∧
      (st d = 3 → if x.lock = false then same d e else if 17 ≤ l ∨ x.seq = 3 then x.pend = 0 → st e = 5 ∧ (e.lane die l).ebuf = List.replicate 4 ⟨3, []⟩ else st e = 4) ∧
      (st d = 4 → if r.sent = false ∨ x.ready < 64 then same d e else x.pend = 0 → st e = 5 ∧ (e.lane die l).ebuf = List.replicate 4 ⟨3, []⟩ ∧
        (x.seq = 2 → e.get F.SER_LSTAT_LOOPT die l = if x.req = true ∧ ¬ (x.farReq = true ∧ d.laneKeeps die l = true) then 1 else 0)) ∧
      (st d = 0 ∨ 4 < st d → same d e))) ∧
    Effect (.laneTrainTimeout die l) (fun d e => alone d →
      if (st d = 2 ∨ st d = 4) ∧ d.late die (d.lane die l).at_ 10000 = true then
        if (d.lane die l).retry = true then (d.lane die l).pend = 0 → st e = 8 ∧ e.get F.SER_LSTAT_TRAINERR die l = 1 else began e ∧ (e.lane die l).retry = true
      else same d e) ∧
    (∀ hdrs : List Nat, Effect (.alignLock die l hdrs) (fun d e => alone d →
      if st d = 3 ∧ 64 ≤ hdrs.length ∧ ∀ h ∈ hdrs, h = 1 ∨ h = 2 then e.lane die l = { d.lane die l with lock := true } ∧ st e = 3 else same d e)) ∧
    Effect (.alignRelockTimeout die l) (fun d e => alone d →
      if st d = 3 ∧ (d.lane die l).seq = 3 ∧ (d.lane die l).lock = false ∧ d.late die (d.lane die l).at_ 1000 = true then st e = 2 ∧ (e.lane die l).seq = 1 else same d e) ∧
    (∀ offs, Effect (.ppmMeasure die l offs) (fun d e => alone d →
      if st d = 5 then e.get F.SER_PPM_OFFS die l = offs ∧ st e = 5 ∧
        (e.lane die l).fast = if 4000 < sext 16 offs then some ((d.lane die l).fast.getD (d.tick die)) else none
      else same d e)) ∧
    Effect (.loopTimingRequest die l) (fun d e => alone d →
      if st d = 5 ∧ d.get F.SER_LCTL_LOOPOK die l ≠ 0 ∧ d.get F.SER_LSTAT_LOOPT die l = 0 ∧ (∃ t, (d.lane die l).fast = some t ∧ d.late die t 100 = true) then
        st e = 4 ∧ (e.lane die l).seq = 2 ∧ (e.lane die l).req = true
      else same d e)

/-- Reception, the eye monitor, doze and deep sleep of a lane (R305–R310, R313, R315–R322), where its port is not in TRAIN: a codeword is decoded and counted as corrected or
uncorrectable, in TEST its PRBS errors are counted, and the wake codeword locks a lane in ALIGN; FOM is refreshed and settings move by one step where that raises it; a transmitter dozes and wakes; a wake that fails, a
signal that is lost and a sleeper that is called each have their state, sticky bit and sequence (a sleeper not answered, where its port is not in RETRAIN). -/
def Obligations.LaneReception : Prop :=
  ∀ die l : Nat,
    let st := fun (d : Dev) => d.get F.SER_LSTAT_STATE die l
    let alone := fun (d : Dev) => ∀ p i, d.lanePort die l = some (p, i) → d.portSt p ≠ 1
    let same := fun (d e : Dev) => e.lane die l = d.lane die l ∧ e.raw ⟨.SER_LSTAT, die, l, 0⟩ = d.raw ⟨.SER_LSTAT, die, l, 0⟩
    let lost := fun (d e : Dev) => st e = 3 ∧ e.get F.SER_LSTAT_ALIGNLOSS die l = 1 ∧ e.get F.SER_NEVT_NLOSS die l = (d.get F.SER_NEVT_NLOSS die l + 1) % 2 ^ 16 ∧
      (e.lane die l).seq = 3 ∧ (e.lane die l).lock = false ∧ (e.lane die l).ebuf = []
    let words := fun (d : Dev) => d.get F.SER_NCW_LO_COUNT die l + 2 ^ 32 * d.get F.SER_NCW_HI_COUNT die l
    let uncorr := fun (d : Dev) => d.get F.SER_NUNC_COUNT die l
    let corr := fun (d : Dev) => d.get F.SER_NCORR_COUNT die l
    (∀ syms takes : List Nat, Effect (.codewordReceive die l syms takes) (fun d e => alone d →
      let r := (List.range 544).map fun i => syms.getD i 0 % 1024
      let dec := if 17 ≤ l then ethCode.decode r [] 15 else laneCode.decode r [] 14
      let x := d.lane die l
      let counts := if 17 ≤ l then st d = 5 else st d = 4 ∨ st d = 5
      if counts then
        words e % 2 ^ 64 = (words d + 1) % 2 ^ 64 ∧
        match dec with
        | some c => corr e = satAdd 32 (corr d) (c.filter fun s => s != 0).length ∧ uncorr e = uncorr d
        | none => uncorr e = satAdd 32 (uncorr d) 1 ∧ corr e = corr d
      else words e = words d ∧ corr e = corr d ∧ uncorr e = uncorr d ∧ st e = st d ∧
        if l < 17 ∧ st d = 7 ∧ d.get F.SER_LCTL_PRBS die l ≠ 0 then
          e.get F.SER_NPRBS_COUNT die l = satAdd 32 (d.get F.SER_NPRBS_COUNT die l) (prbsCheck x.prbsN x.prbs 0 (symBits r)).2.2
        else e.get F.SER_NPRBS_COUNT die l = d.get F.SER_NPRBS_COUNT die l ∧
          (e.lane die l).lock = (x.lock || decide (l < 17 ∧ st d = 3 ∧ (symBits r).take 5160 = wakeBits)))) ∧
    (∀ eyes : List (Nat × Nat), Effect (.fomRefresh die l eyes) (fun d e => alone d →
      if 2 ≤ st d ∧ st d ≤ 5 ∧ d.get F.SER_LSTAT_RXDZ die l = 0 then
        e.get F.SER_LSTAT_FOM die l = fomOf eyes ∧ st e = st d ∧
        if st d ≠ 5 ∨ d.get F.SER_FOMCFG_FOMMIN die l ≤ fomOf eyes then (e.lane die l).low = none ∧ e.get F.SER_LSTAT_LOWFOM die l = d.get F.SER_LSTAT_LOWFOM die l
        else match (d.lane die l).low with
          | none => (e.lane die l).low = some (d.tick die) ∧ e.get F.SER_LSTAT_LOWFOM die l = d.get F.SER_LSTAT_LOWFOM die l
          | some t => (d.late die t 10000 = true → e.get F.SER_LSTAT_LOWFOM die l ≠ 0) ∧ (d.late die t 10000 = false → e.get F.SER_LSTAT_LOWFOM die l = d.get F.SER_LSTAT_LOWFOM die l)
      else same d e)) ∧
    (∀ ctle dfe1 fom, Effect (.adaptStep die l ctle dfe1 fom) (fun d e => alone d →
      let c := d.get F.SER_RXEQ_CTLE die l
      let f := d.get F.SER_RXEQ_DFE1 die l
      let one := (ctle = c ∧ (sext 7 dfe1 = sext 7 f + 1 ∨ sext 7 dfe1 + 1 = sext 7 f)) ∨ (dfe1 = f ∧ (ctle = c + 1 ∨ ctle + 1 = c))
      if st d = 5 ∧ d.get F.SER_LSTAT_RXDZ die l = 0 ∧ one ∧ (d.lane die l).stepAt + 1000 ≤ d.tick die ∧ d.get F.SER_LSTAT_FOM die l < fom then
        e.get F.SER_RXEQ_CTLE die l = ctle ∧ e.get F.SER_RXEQ_DFE1 die l = dfe1 ∧ e.get F.SER_LSTAT_FOM die l = fom ∧ (e.lane die l).stepAt = d.tick die ∧ st e = 5
      else same d e ∧ e.raw ⟨.SER_RXEQ, die, l, 0⟩ = d.raw ⟨.SER_RXEQ, die, l, 0⟩)) ∧
    Effect (.dozeEnter die l) (fun d e => alone d →
      if st d = 5 ∧ l < 17 ∧ d.dozeWanted die l = true ∧ d.get F.SER_LSTAT_TXDZ die l = 0 then
        e.get F.SER_LSTAT_TXDZ die l = 1 ∧ st e = 5 ∧ (e.lane die l).sent = (d.lane die l).sent ++ [(2, 1)]
      else same d e) ∧
    Effect (.dozeExit die l) (fun d e => alone d →
      if d.get F.SER_LSTAT_TXDZ die l ≠ 0 ∧ d.dozeWanted die l = false then
        e.get F.SER_LSTAT_TXDZ die l = 0 ∧ st e = st d ∧ (e.lane die l).sent = (d.lane die l).sent ++ [(4, 16)]
      else same d e) ∧
    Effect (.dozeRefreshWake die l) (fun d e => alone d →
      if d.get F.SER_LSTAT_TXDZ die l ≠ 0 ∧ d.late die (d.lane die l).dozeAt 100000 = true then
        e.get F.SER_LSTAT_TXDZ die l = (if d.dozeWanted die l then 1 else 0) ∧ st e = st d ∧
        (e.lane die l).sent = (d.lane die l).sent ++ [(4, 16), (0, 4096)] ++ (if d.dozeWanted die l then [(2, 1)] else [])
      else same d e) ∧
    Effect (.wakeLockTimeout die l) (fun d e => alone d →
      if st d = 5 ∧ d.get F.SER_LSTAT_RXDZ die l ≠ 0 then lost d e ∧ e.get F.SER_LSTAT_WAKEERR die l = 1 ∧ e.get F.SER_LSTAT_RXDZ die l = 0 else same d e) ∧
    Effect (.signalDetect die l) (fun d e => alone d → if st d = 6 then st e = 1 ∧ (e.lane die l).seq = 4 else same d e) ∧
    Effect (.laneWakeTimeout die l) (fun d e => alone d → (∀ p i, d.lanePort die l = some (p, i) → d.portSt p ≠ 4) →
      if 1 ≤ st d ∧ st d ≤ 4 ∧ (d.lane die l).seq = 4 ∧ d.late die (d.lane die l).at_ 20000 = true then
        st e = 1 ∧ (e.lane die l).seq = 1 ∧ e.get F.SER_LSTAT_WAKEERR die l = 1 ∧ e.get F.SER_NEVT_NTRAIN die l = (d.get F.SER_NEVT_NTRAIN die l + 1) % 2 ^ 16
      else same d e) ∧
    Effect (.lossOfSignal die l) (fun d e => alone d →
      if st d = 5 ∧ d.get F.SER_LSTAT_RXDZ die l = 0 then lost d e ∧ e.get F.SER_LSTAT_LOS die l = 1 else same d e)

/-- A package-link port around its traffic (R333–R339, R344, R413): TRAIN and HOLD, held one deep in a sequence; the end of a qualification, by what each lane did in it;
the end of a RETRAIN; a replay, and the retry storm it may be; the NAK of a lost frame, its repetition, and the acknowledgement that is due; doze of an idle port, DOWN of a
silent one, and SLEEP of one that may wait no longer. -/
def Obligations.PortSequence : Prop :=
  ∀ p : Nat,
    let die := portDie p
    let n := p % 4
    let st := fun (d : Dev) => d.get F.PLK_PSTAT_STATE die n
    let lst := fun (d : Dev) (i : Nat) => d.get F.SER_LSTAT_STATE die (d.laneOf p i)
    let lanes := fun (d : Dev) => d.get F.PLK_PSTAT_LANES die n
    let same := fun (d e : Dev) => e.port p = d.port p ∧ e.raw ⟨.PLK_PSTAT, die, n, 0⟩ = d.raw ⟨.PLK_PSTAT, die, n, 0⟩
    let down := fun (e : Dev) => st e = 5 ∧ lanes e = 0
    let trains := fun (d e : Dev) => if hasBit (d.get F.WRD_TXMASK_PORTS die) p = true then st e = 1 ∧ lanes e = 0 ∧ ∀ i, i < 4 → lst e i = 1 else down e
    let held := fun (d e : Dev) (cmd : Nat) =>
      if d.get F.PLK_PCTL_PEND die n ≠ 0 then e = d
      else e.get F.PLK_PCTL_PEND die n = 1 ∧ e.port p = { d.port p with pend := cmd } ∧ st e = st d
    let mask := fun (is : List Nat) => ofBits ((List.range 4).map fun i => is.contains i)
    let short := fun (d : Dev) (is : List Nat) => popCount (mask is) 4 < d.get F.PLK_PCTL_MINL die n
    Effect (.portTrain p) (fun d e =>
      if st d = 1 ∨ st d = 2 ∨ st d = 4 then held d e 1
      else trains d e ∧ e.get F.PLK_PSTAT_QUALERR die n = 0 ∧ e.get F.PLK_PSTAT_STORM die n = 0 ∧ e.get F.PLK_PSTAT_PEERERR die n = 0) ∧
    Effect (.portHold p) (fun d e => if st d = 1 ∨ st d = 2 ∨ st d = 4 then held d e 2 else down e) ∧
    Effect (.portQualEnd p) (fun d e =>
      let x := d.port p
      let is := d.portIdx p
      let good := is.filter fun i => d.qualPass p i
      let bad := is.filter fun i => !d.qualPass p i
      if st d = 2 ∧ d.late die x.at_ (d.get F.PLK_QCTL_QTIME die n) = true then
        match bad with
        | [] => x.pend = 0 → st e = 3 ∧ lanes e = lanes d ∧ (e.port p).held = [] ∧ (e.port p).cred = (256, 256)
        | b :: _ =>
          (x.pend = 0 → e.get F.PLK_PSTAT_QUALERR die n = 1) ∧
          if x.qretry = false then st e = 2 ∧ (e.port p).qretry = true ∧ (e.port p).qbad = 0 ∧ lanes e = lanes d
          else if d.reserveFor p = true then trains d e ∧ e.get F.PLK_RESERVE_INUSE die = 1 ∧ e.get F.PLK_RESERVE_LIDX die = b % 4 ∧ e.get F.PLK_PSTAT_RSV die n = 1
          else if short d good then x.pend = 0 → down e
          else x.pend = 0 → st e = 3 ∧ lanes e = mask good
      else e = d) ∧
    Effect (.portRetrainComplete p) (fun d e =>
      let is := d.portIdx p
      if st d = 4 ∧ ∀ i ∈ is, d.laneSettled die (d.laneOf p i) = true then
        if short d (d.identPass p is) then (d.port p).pend = 0 → down e
        else (d.port p).pend = 0 → st e = 3 ∧ lanes e = mask (d.identPass p is) ∧
          e.get F.PLK_NREPLAY_COUNT die n = satAdd 32 (d.get F.PLK_NREPLAY_COUNT die n) (if (d.port p).held = [] then 0 else 1)
      else e = d) ∧
    Effect (.ackTimeoutReplay p) (fun d e =>
      let x := d.port p
      let now := d.tick die
      let replays := (now :: x.replays).filter fun t => now < t + 1000
      if st d = 3 ∧ x.held ≠ [] ∧ d.late die x.ackAt (d.get F.PLK_RCTL_ATMO die n) = true then
        e.get F.PLK_NREPLAY_COUNT die n = satAdd 32 (d.get F.PLK_NREPLAY_COUNT die n) 1 ∧
        if d.get F.PLK_RCTL_RLIM die n ≤ x.nakRun ∨ d.get F.PLK_RCTL_RMAX die n < replays.length then
          e.get F.PLK_PSTAT_STORM die n = 1 ∧
          if ∃ t, x.storm = some t ∧ now ≤ t + 1000000 then down e else st e = 4 ∧ (e.port p).storm = some now ∧ (e.port p).held = x.held
        else st e = 3 ∧ (e.port p).held = x.held ∧ (e.port p).replays = replays ∧ (e.port p).ackAt = now ∧ (e.port p).wire.length = x.wire.length + x.held.length
      else e = d) ∧
    Effect (.frameLossTimeout p) (fun d e =>
      if st d = 3 ∧ (d.port p).early ≠ [] then
        (e.port p).early = [] ∧ (e.port p).nak = true ∧ (e.port p).rx = (d.port p).rx ∧ (e.port p).wire.length = (d.port p).wire.length + if (d.port p).nak then 0 else 1
      else e = d) ∧
    Effect (.frameNakRepeat p) (fun d e =>
      if st d = 3 ∧ (d.port p).nak = true then (e.port p).wire = (d.port p).wire ++ [(d.nextIdx p, d.linkBlk p (d.nextIdx p) true false)] ∧ (e.port p).owe = 0 ∧ (e.port p).nak = true
      else e = d) ∧
    Effect (.ackDue p) (fun d e =>
      let x := d.port p
      if st d = 3 ∧ (0 < x.owe ∨ 0 < x.due.1 ∨ 0 < x.due.2) then
        (e.port p).wire = x.wire ++ [(d.nextIdx p, d.linkBlk p (d.nextIdx p) false false)] ∧ (e.port p).owe = 0 ∧ (e.port p).freed = (x.freed.1 - 16 * x.due.1, x.freed.2 - 16 * x.due.2)
      else e = d) ∧
    Effect (.portDozeRequest p) (fun d e =>
      let x := d.port p
      if st d = 3 ∧ d.get F.PLK_DOZE_IDLE die n ≠ 0 ∧ x.held = [] ∧ x.owe = 0 ∧ x.due = (0, 0) ∧ x.txs = ([], []) then
        same d e ∧ ∀ i ∈ d.portIdx p, (e.lane die (d.laneOf p i)).doze = true
      else e = d) ∧
    Effect (.portSilence p) (fun d e =>
      if st d = 3 ∧ ∀ i ∈ d.portIdx p, d.get F.SER_LSTAT_RXDZ die (d.laneOf p i) = 0 ∧ d.late die (d.lane die (d.laneOf p i)).seen 1000 = true then down e else e = d) ∧
    Effect (.portSleepWaitTimeout p) (fun d e =>
      if d.pwBusy die = true ∧ d.pwCur die = 1 ∧ d.pwTgt die = 2 ∧ st d = 3 ∧ ((d.port p).held = [] ∨ d.late die (d.pws? die).begun 100 = true) then
        (∀ i ∈ d.portIdx p, lst d i = 5 → lst e i = 6) ∧
        ((∀ i ∈ d.portIdx p, lst d i = 5 ∨ lst d i = 6) → d.portIdx p ≠ [] → st e = 4)
      else e = d)
end

