-- ==== Sys2Proof/Laws/Regs.lean ====
section
/-!
SUPPORT. What the operations over numbers, maps and registers do: a bit field written reads back and every other bit stays,
a map holds at a key what was last put there, and a register field written leaves every other field and register as it was.
-/
namespace Sys2Proof.Machine

/-! Bit fields -/

theorem bitsOf_lt (n hi lo : Nat) : bitsOf n hi lo < 2 ^ (hi + 1 - lo) := Nat.mod_lt _ (Nat.two_pow_pos _)

theorem testBit_bitsOf (n hi lo i : Nat) :
    (bitsOf n hi lo).testBit i = (decide (i < hi + 1 - lo) && n.testBit (lo + i)) := by
  simp [bitsOf, Nat.testBit_mod_two_pow, Nat.testBit_div_two_pow, Nat.add_comm]

/-- A number cut at a bit field. -/
theorem split_field (n lo w : Nat) : n = n / 2 ^ (lo + w) * 2 ^ (lo + w) + n / 2 ^ lo % 2 ^ w * 2 ^ lo + n % 2 ^ lo := by
  have h1 := Nat.div_add_mod n (2 ^ lo)
  have h2 := Nat.div_add_mod (n / 2 ^ lo) (2 ^ w)
  rw [Nat.div_div_eq_div_mul, ← Nat.pow_add] at h2
  calc n = 2 ^ lo * (n / 2 ^ lo) + n % 2 ^ lo := h1.symm
    _ = 2 ^ lo * (2 ^ w * (n / 2 ^ (lo + w)) + n / 2 ^ lo % 2 ^ w) + n % 2 ^ lo := by rw [h2]
    _ = _ := by
      rw [Nat.mul_add, ← Nat.mul_assoc, ← Nat.pow_add, Nat.mul_comm (2 ^ (lo + w)), Nat.mul_comm (2 ^ lo) (n / 2 ^ lo % 2 ^ w)]

theorem testBit_setBits (n hi lo v i : Nat) (h : lo ≤ hi) :
    (setBits n hi lo v).testBit i = if lo ≤ i ∧ i ≤ hi then v.testBit (i - lo) else n.testBit i := by
  obtain ⟨w, hw⟩ : ∃ w, hi + 1 - lo = w := ⟨_, rfl⟩
  have hs := split_field n lo w
  have hc : n % 2 ^ lo < 2 ^ lo := Nat.mod_lt _ (Nat.two_pow_pos _)
  have hb : n / 2 ^ lo % 2 ^ w < 2 ^ w := Nat.mod_lt _ (Nat.two_pow_pos _)
  have hv : v % 2 ^ w < 2 ^ w := Nat.mod_lt _ (Nat.two_pow_pos _)
  generalize hA : n / 2 ^ (lo + w) = A at hs
  generalize hB : n / 2 ^ lo % 2 ^ w = B at hs hb
  generalize hC : n % 2 ^ lo = C at hs hc
  generalize hV : v % 2 ^ w = V at hv
  have key : ∀ x, x < 2 ^ w → ∀ j, (A * 2 ^ (lo + w) + x * 2 ^ lo + C).testBit j =
      if j < lo then C.testBit j else if j < lo + w then x.testBit (j - lo) else A.testBit (j - (lo + w)) := by
    intro x hx j
    have e : A * 2 ^ (lo + w) + x * 2 ^ lo + C = 2 ^ lo * (2 ^ w * A + x) + C := by
      rw [Nat.mul_add, ← Nat.mul_assoc, ← Nat.pow_add, Nat.mul_comm A, Nat.mul_comm x]
    rw [e, Nat.testBit_two_pow_mul_add _ hc]
    split
    · rfl
    · rw [Nat.testBit_two_pow_mul_add _ hx]
      by_cases hj : j - lo < w
      · rw [if_pos hj, if_pos (by omega)]
      · rw [if_neg hj, if_neg (by omega)]
        congr 1; omega
  have hset : setBits n hi lo v = A * 2 ^ (lo + w) + V * 2 ^ lo + C := by
    simp only [setBits, bitsOf, hw, hB, hV]
    omega
  rw [hset, key V hv i]
  have hn := key B hb i
  rw [← hs] at hn
  rw [hn]
  by_cases h1 : i < lo
  · rw [if_pos h1, if_neg (by omega), if_pos h1]
  · rw [if_neg h1]
    by_cases h2 : i < lo + w
    · rw [if_pos h2, if_pos (by omega), ← hV, Nat.testBit_mod_two_pow]
      simp; omega
    · rw [if_neg h2, if_neg (by omega), if_neg h1, if_neg h2]

theorem bitsOf_setBits (n hi lo v : Nat) (h : lo ≤ hi) : bitsOf (setBits n hi lo v) hi lo = v % 2 ^ (hi + 1 - lo) := by
  apply Nat.eq_of_testBit_eq
  intro i
  rw [testBit_bitsOf, testBit_setBits _ _ _ _ _ h, Nat.testBit_mod_two_pow]
  by_cases hi' : i < hi + 1 - lo
  · rw [if_pos (by omega)]; simp [hi']
  · simp [hi']

theorem bitsOf_setBits_ne (n hi lo v hi' lo' : Nat) (h : lo ≤ hi) (hd : hi < lo' ∨ hi' < lo) :
    bitsOf (setBits n hi lo v) hi' lo' = bitsOf n hi' lo' := by
  apply Nat.eq_of_testBit_eq
  intro i
  rw [testBit_bitsOf, testBit_bitsOf, testBit_setBits _ _ _ _ _ h]
  by_cases hi2 : i < hi' + 1 - lo'
  · rw [if_neg (by omega)]
  · simp [hi2]

theorem bitsOf_mod (n hi lo w : Nat) (h : hi < w) : bitsOf (n % 2 ^ w) hi lo = bitsOf n hi lo := by
  apply Nat.eq_of_testBit_eq
  intro i
  rw [testBit_bitsOf, testBit_bitsOf, Nat.testBit_mod_two_pow]
  by_cases hi2 : i < hi + 1 - lo
  · have : lo + i < w := by omega
    simp [this]
  · simp [hi2]

/-! Maps -/

section
variable {κ α : Type} [DecidableEq κ]

theorem KMap.at?_put (m : KMap κ α) (k k' : κ) (v : α) :
    KMap.at? (KMap.put m k v) k' = if k' = k then some v else KMap.at? m k' := by
  induction m with
  | nil => simp [KMap.put, KMap.at?]
  | cons e m ih =>
    obtain ⟨k0, v0⟩ := e
    simp only [KMap.put]
    split
    · rename_i h; subst h
      simp only [KMap.at?]
      split <;> rfl
    · rename_i h
      simp only [KMap.at?]
      split
      · rename_i h2; subst h2
        rw [if_neg (fun e => h e.symm)]
      · rename_i h2; rw [ih]

theorem KMap.atD_put (m : KMap κ α) (k k' : κ) (v x : α) :
    KMap.atD (KMap.put m k v) k' x = if k' = k then v else KMap.atD m k' x := by
  simp only [KMap.atD, KMap.at?_put]; split <;> rfl

theorem KMap.at?_filter (m : KMap κ α) (p : κ → Bool) (k : κ) :
    KMap.at? (m.filter fun e => p e.1) k = if p k = true then KMap.at? m k else none := by
  induction m with
  | nil => simp [KMap.at?]
  | cons e m ih =>
    obtain ⟨k0, v0⟩ := e
    simp only [List.filter_cons]
    by_cases h : p k0 = true
    · rw [if_pos h]
      simp only [KMap.at?]
      by_cases hk : k = k0
      · subst hk; simp [h]
      · rw [if_neg hk, ih, if_neg hk]
    · rw [if_neg h, ih]
      simp only [KMap.at?]
      by_cases hk : k = k0
      · subst hk; simp [h]
      · rw [if_neg hk]

theorem KMap.at?_del (m : KMap κ α) (k k' : κ) : KMap.at? (KMap.del m k) k' = if k' = k then none else KMap.at? m k' := by
  have h := KMap.at?_filter m (fun x => decide (x ≠ k)) k'
  simp only [KMap.del]
  rw [h]
  by_cases hk : k' = k <;> simp [hk]

theorem KMap.at?_delIf (m : KMap κ α) (p : κ → Bool) (k : κ) :
    KMap.at? (KMap.delIf m p) k = if p k = true then none else KMap.at? m k := by
  have h := KMap.at?_filter m (fun x => !p x) k
  simp only [KMap.delIf]
  rw [h]
  by_cases hk : p k = true <;> simp [hk]

end

/-! Registers -/

/-- A register's value depends on the register file and the fuses alone. -/
theorem Dev.raw_congr (d e : Dev) (h1 : d.rf = e.rf) (h2 : d.fuse = e.fuse) (k : RKey) : d.raw k = e.raw k := by
  cases d; cases e; simp only at h1 h2; subst h1; subst h2; rfl

theorem Dev.get_congr (d e : Dev) (h1 : d.rf = e.rf) (h2 : d.fuse = e.fuse) (f : Fld) (die i s : Nat) :
    d.get f die i s = e.get f die i s := by
  simp only [Dev.get, Dev.raw_congr d e h1 h2]

/-- What every register holds after one is set. -/
theorem Dev.raw_setRaw (d : Dev) (k k' : RKey) (w : Nat) :
    (d.setRaw k w).raw k' = if k' = k then w % 2 ^ 32 else d.raw k' := by
  have hr : ∀ x, (d.setRaw k w).resetWord x = d.resetWord x := fun _ => rfl
  unfold Dev.raw
  simp only [Dev.setRaw, KMap.at?_put]
  split
  · rename_i v h
    split at h
    · rename_i hk; rw [if_pos hk]; cases h; simp
    · rename_i hk; rw [if_neg hk, h]
  · rename_i h
    split at h
    · cases h
    · rename_i hk; rw [if_neg hk, h]; exact hr k'

/-- A field set reads back, cut to the field's width. -/
theorem Dev.get_put (d : Dev) (f : Fld) (v die i s : Nat) (h1 : f.hi < 32) (h2 : f.lo ≤ f.hi) :
    (d.put f v die i s).get f die i s = v % 2 ^ (f.hi + 1 - f.lo) := by
  simp only [Dev.put, Dev.get, Dev.raw_setRaw, if_pos]
  rw [bitsOf_mod _ _ _ _ h1, bitsOf_setBits _ _ _ _ h2]

/-- A field set leaves every other field as it was: another register's, another instance's, or other bits of the same one. -/
theorem Dev.get_put_ne (d : Dev) (f g : Fld) (v die i s die' i' s' : Nat) (h1 : g.hi < 32) (h2 : f.lo ≤ f.hi)
    (h : g.reg ≠ f.reg ∨ die' ≠ die ∨ i' ≠ i ∨ s' ≠ s ∨ f.hi < g.lo ∨ g.hi < f.lo) :
    (d.put f v die i s).get g die' i' s' = d.get g die' i' s' := by
  simp only [Dev.put, Dev.get, Dev.raw_setRaw]
  split
  · rename_i hk
    simp only [RKey.mk.injEq] at hk
    obtain ⟨hr, hd, hi, hs⟩ := hk
    rw [bitsOf_mod _ _ _ _ h1, bitsOf_setBits_ne _ _ _ _ _ _ h2 (by simp_all), ← hr, ← hd, ← hi, ← hs]
  · rfl

/-- A whole register of another name is left as it was. -/
theorem Dev.raw_put_ne (d : Dev) (f : Fld) (v die i s : Nat) (k : RKey) (h : k ≠ ⟨f.reg, die, i, s⟩) :
    (d.put f v die i s).raw k = d.raw k := by
  simp only [Dev.put, Dev.raw_setRaw, if_neg h]

/-- A register set changes nothing but the register file. -/
theorem Dev.setRaw_rf (d : Dev) (k : RKey) (w : Nat) : { d.setRaw k w with rf := d.rf } = d := rfl

/-- A field set changes nothing but the register file. -/
theorem Dev.put_rf (d : Dev) (f : Fld) (v die i s : Nat) : { d.put f v die i s with rf := d.rf } = d := rfl

end Sys2Proof.Machine
end

