-- ==== Sys2Proof/Laws/Effects.lean ====
section
/-!
SUPPORT. What a command does when its unit is there to act: the meaning's own change of the package, whatever wrapper it stands under.
-/
namespace Sys2Proof.Machine

/-- A command that acts through `f` wherever its unit is up has every effect that `f` has on a package where it is up. -/
theorem Effect.intro {c : Instr} {P : Dev → Dev → Prop} (f : Dev → Dev)
    (hx : ∀ s, (placeOf c).up s.dev = true → exec c s = s.on f)
    (h : ∀ d, c.wf = true → (placeOf c).up d = true → P d (f d)) : Effect c P :=
  fun s hs => ⟨{ s with dev := f s.dev }, hx s hs.2, rfl, h s.dev hs.1 hs.2⟩

theorem State.onDie_up {die : Nat} {f : Dev → Dev} {s : State} (h : (Place.ofDie die).up s.dev = true) : s.onDie die f = s.on f := by
  simp only [Place.up, decide_eq_true_eq] at h
  simp [State.onDie, State.on, h]

theorem State.onAon_up {die : Nat} {f : Dev → Dev} {s : State} (h : (Place.ofAon die).up s.dev = true) : s.onAon die f = s.on f := by
  simp only [Place.up, Bool.and_eq_true, decide_eq_true_eq] at h
  simp [State.onAon, State.on, h]

theorem State.onKept_up {die : Nat} {f : Dev → Dev} {s : State} (h : (Place.ofKept die).up s.dev = true) : s.onKept die f = s.on f := by
  simp only [Place.up, Bool.and_eq_true, decide_eq_true_eq] at h
  simp [State.onKept, State.on, h]

theorem State.onCarrier_up {die : Nat} {f : Dev → Dev} {s : State} (h : (Place.ofCarrier die).up s.dev = true) :
    s.onCarrier die f = s.on f := by
  simp only [Place.up, Bool.and_eq_true, decide_eq_true_eq] at h
  simp [State.onCarrier, State.on, h]

theorem State.onCompute_up {die : Nat} {f : Dev → Dev} {s : State} (h : (Place.ofCompute die).up s.dev = true) :
    s.onCompute die f = s.on f := by
  simp only [Place.up, Bool.and_eq_true, decide_eq_true_eq] at h
  simp [State.onCompute, State.on, h]

theorem State.onCell_up {cell : Nat} {f : Dev → Dev} {s : State} (h : (Place.ofCompute (cellDie cell)).up s.dev = true) :
    s.onCell cell f = s.on f := State.onCompute_up h

theorem State.onCore_up {cell core : Nat} {f : Dev → Dev} {s : State} (h : (Place.ofCore cell core).up s.dev = true) :
    s.onCore cell core f = s.on f := by
  simp only [Place.up, Bool.and_eq_true, decide_eq_true_eq] at h
  simp [State.onCore, State.onCell, State.onCompute, State.on, h]

theorem State.onPort_up {port : Nat} {f : Dev → Dev} {s : State} (h : (Place.ofPort port).up s.dev = true) : s.onPort port f = s.on f := by
  simp only [Place.up, Bool.and_eq_true, decide_eq_true_eq] at h
  simp [State.onPort, State.onCarrier, State.on, h]

theorem State.onEth_up {die port : Nat} {f : Dev → Dev} {s : State} (h : (Place.ofEth die port).up s.dev = true) :
    s.onEth die port f = s.on f := by
  simp only [Place.up, Bool.and_eq_true, decide_eq_true_eq] at h
  simp [State.onEth, State.onCarrier, State.on, h]

theorem State.onKnuckle_up {k : Nat} {f : Dev → Dev} {s : State} (h : (Place.ofKnuckle k).up s.dev = true) :
    s.onKnuckle k f = s.on f := by
  simp only [Place.up, Bool.and_eq_true] at h
  unfold State.onKnuckle State.on
  dsimp only
  rw [if_pos (by rw [h.1.1, h.1.2, h.2]; rfl)]

theorem State.onKnuckleEnd_up {die inst : Nat} {f : Dev → Dev} {s : State} (h : (Place.ofKnuckleEnd die inst).up s.dev = true) :
    s.onKnuckleEnd die inst f = s.on f := by
  simp only [Place.up, Bool.and_eq_true, decide_eq_true_eq] at h
  unfold State.onKnuckleEnd State.onCarrier State.on
  dsimp only
  rw [if_pos (by simp [h.1.1, h.1.2]), if_pos h.2]

/-- What a command about a lane makes of the package, its own change given. -/
def Dev.laneAfter (die lane : Nat) (f : Dev → Dev) (d : Dev) : Dev :=
  let d1 := f d
  let d2 := if d.laneSt die lane ≠ laneUp ∧ d1.laneSt die lane = laneUp then d1.laneIdv die lane else d1
  (d2.laneSettle die lane).laneSlept die lane

theorem State.onLane_up {die lane : Nat} {f : Dev → Dev} {s : State} (h : (Place.ofLane die lane).up s.dev = true) :
    s.onLane die lane f = s.on (Dev.laneAfter die lane f) := by
  simp only [Place.up, Bool.and_eq_true, decide_eq_true_eq] at h
  unfold State.onLane State.onCarrier State.on
  dsimp only
  rw [if_pos (by simp [h.1.1, h.1.2]), if_neg (by simp [h.2])]
  rfl

/-! A unit that is not there -/

theorem State.onDie_absent {die : Nat} {f : Dev → Dev} {s : State} (h : (Place.ofDie die).up s.dev = false) : s.onDie die f = .next s := by
  simp only [Place.up, decide_eq_false_iff_not] at h
  simp [State.onDie, State.on, h]

theorem State.onAon_absent {die : Nat} {f : Dev → Dev} {s : State} (h : (Place.ofAon die).up s.dev = false) : s.onAon die f = .next s := by
  simp only [Place.up] at h
  simp [State.onAon, State.on, h]

theorem State.onKept_absent {die : Nat} {f : Dev → Dev} {s : State} (h : (Place.ofKept die).up s.dev = false) :
    s.onKept die f = .next s := by
  simp only [Place.up] at h
  simp [State.onKept, State.on, h]

theorem State.onCarrier_absent {die : Nat} {f : Dev → Dev} {s : State} (h : (Place.ofCarrier die).up s.dev = false) :
    s.onCarrier die f = .next s := by
  simp only [Place.up] at h
  simp [State.onCarrier, State.on, h]

theorem State.onCompute_absent {die : Nat} {f : Dev → Dev} {s : State} (h : (Place.ofCompute die).up s.dev = false) :
    s.onCompute die f = .next s := by
  simp only [Place.up] at h
  simp [State.onCompute, State.on, h]

theorem State.onCell_absent {cell : Nat} {f : Dev → Dev} {s : State} (h : (Place.ofCompute (cellDie cell)).up s.dev = false) :
    s.onCell cell f = .next s := State.onCompute_absent h

/-- A condition under a condition. -/
theorem and_ite {α : Type} (a b : Bool) (x y : α) : (if a = true then (if b = true then x else y) else y) = if (a && b) = true then x else y := by
  cases a <;> cases b <;> rfl

theorem State.onCore_absent {cell core : Nat} {f : Dev → Dev} {s : State} (h : (Place.ofCore cell core).up s.dev = false) :
    s.onCore cell core f = .next s := by
  simp only [Place.up] at h
  unfold State.onCore State.onCell State.onCompute State.on
  dsimp only
  rw [show (if core < 136 then f s.dev else s.dev) = if decide (core < 136) = true then f s.dev else s.dev by simp, and_ite, h]
  rfl

theorem State.onPort_absent {port : Nat} {f : Dev → Dev} {s : State} (h : (Place.ofPort port).up s.dev = false) :
    s.onPort port f = .next s := by
  simp only [Place.up] at h
  unfold State.onPort State.onCarrier State.on
  dsimp only
  rw [and_ite, h]
  rfl

theorem State.onEth_absent {die port : Nat} {f : Dev → Dev} {s : State} (h : (Place.ofEth die port).up s.dev = false) :
    s.onEth die port f = .next s := by
  simp only [Place.up] at h
  unfold State.onEth State.onCarrier State.on
  dsimp only
  rw [and_ite, h]
  rfl

theorem State.onKnuckle_absent {k : Nat} {f : Dev → Dev} {s : State} (h : (Place.ofKnuckle k).up s.dev = false) :
    s.onKnuckle k f = .next s := by
  simp only [Place.up] at h
  unfold State.onKnuckle State.on
  dsimp only
  rw [h]
  rfl

theorem State.onKnuckleEnd_absent {die inst : Nat} {f : Dev → Dev} {s : State} (h : (Place.ofKnuckleEnd die inst).up s.dev = false) :
    s.onKnuckleEnd die inst f = .next s := by
  simp only [Place.up] at h
  unfold State.onKnuckleEnd State.onCarrier State.on
  dsimp only
  rw [show (if inst < (if s.dev.gf2 = true then 1 else 2) then f s.dev else s.dev) =
      if decide (inst < (if s.dev.gf2 = true then 1 else 2)) = true then f s.dev else s.dev by simp only [decide_eq_true_eq], and_ite, h]
  rfl

theorem State.onLane_absent {die lane : Nat} {f : Dev → Dev} {s : State} (h : (Place.ofLane die lane).up s.dev = false) :
    s.onLane die lane f = .next s := by
  simp only [Place.up] at h
  unfold State.onLane State.onCarrier State.on
  dsimp only
  cases hl : s.dev.laneHere die lane with
  | false => simp
  | true =>
    rw [hl, Bool.and_true] at h
    rw [h]
    rfl

/-! Reading a field that has just been written -/

/-- A field is its own value after it is put, if the value fits. -/
theorem Dev.get_put_self (d : Dev) (f : Fld) (v die i s : Nat) (h1 : f.hi < 32) (h2 : f.lo ≤ f.hi) (hv : v < 2 ^ (f.hi + 1 - f.lo)) :
    (d.put f v die i s).get f die i s = v := by
  rw [Dev.get_put d f v die i s h1 h2, Nat.mod_eq_of_lt hv]

theorem Dev.get_lt (d : Dev) (f : Fld) (die i s : Nat) : d.get f die i s < 2 ^ (f.hi + 1 - f.lo) := bitsOf_lt _ _ _

/-! Every command -/

theorem Effect.registerWrite_of {P : Dev → Dev → Prop} (by_ : Nat) (die : Nat) (off : Nat) (value : Nat)
    (h : ∀ d, Instr.wf (.registerWrite by_ die off value) = true → (placeOf (.registerWrite by_ die off value)).up d = true → P d (d.oneWrite by_ die off value)) : Effect (.registerWrite by_ die off value) P :=
  Effect.intro (fun d => d.oneWrite by_ die off value) (fun s h => by show execRegisterWrite .. = _; unfold execRegisterWrite; exact rfl) h

theorem Effect.reg64LoRead_of {P : Dev → Dev → Prop} (by_ : Nat) (die : Nat) (off : Nat)
    (h : ∀ d, Instr.wf (.reg64LoRead by_ die off) = true → (placeOf (.reg64LoRead by_ die off)).up d = true → P d (d.loRead by_ die off)) : Effect (.reg64LoRead by_ die off) P :=
  Effect.intro (fun d => d.loRead by_ die off) (fun s h => by show execReg64LoRead .. = _; unfold execReg64LoRead; exact rfl) h

theorem Effect.reg64LoWrite_of {P : Dev → Dev → Prop} (by_ : Nat) (die : Nat) (off : Nat) (value : Nat)
    (h : ∀ d, Instr.wf (.reg64LoWrite by_ die off value) = true → (placeOf (.reg64LoWrite by_ die off value)).up d = true → P d (d.pairWrite by_ die off value false)) : Effect (.reg64LoWrite by_ die off value) P :=
  Effect.intro (fun d => d.pairWrite by_ die off value false) (fun s h => by show execReg64LoWrite .. = _; unfold execReg64LoWrite; exact rfl) h

theorem Effect.reg64HiWrite_of {P : Dev → Dev → Prop} (by_ : Nat) (die : Nat) (off : Nat) (value : Nat)
    (h : ∀ d, Instr.wf (.reg64HiWrite by_ die off value) = true → (placeOf (.reg64HiWrite by_ die off value)).up d = true → P d (d.pairWrite by_ die off value true)) : Effect (.reg64HiWrite by_ die off value) P :=
  Effect.intro (fun d => d.pairWrite by_ die off value true) (fun s h => by show execReg64HiWrite .. = _; unfold execReg64HiWrite; exact rfl) h

theorem Effect.controlAddressMiss_of {P : Dev → Dev → Prop} (by_ : Nat) (die : Nat) (off : Nat) (write : Bool)
    (h : ∀ d, Instr.wf (.controlAddressMiss by_ die off write) = true → (placeOf (.controlAddressMiss by_ die off write)).up d = true → P d (d.missAccess by_ die off write)) : Effect (.controlAddressMiss by_ die off write) P :=
  Effect.intro (fun d => d.missAccess by_ die off write) (fun s h => by show execControlAddressMiss .. = _; unfold execControlAddressMiss; exact rfl) h

theorem Effect.cellPark_of {P : Dev → Dev → Prop} (cell : Nat)
    (h : ∀ d, Instr.wf (.cellPark cell) = true → (placeOf (.cellPark cell)).up d = true → P d (d.cellPark cell)) : Effect (.cellPark cell) P :=
  Effect.intro (fun d => d.cellPark cell) (fun s h => by show execCellPark .. = _; unfold execCellPark; exact State.onCell_up h) h

theorem Effect.cellUnpark_of {P : Dev → Dev → Prop} (cell : Nat)
    (h : ∀ d, Instr.wf (.cellUnpark cell) = true → (placeOf (.cellUnpark cell)).up d = true → P d (d.cellUnpark cell)) : Effect (.cellUnpark cell) P :=
  Effect.intro (fun d => d.cellUnpark cell) (fun s h => by show execCellUnpark .. = _; unfold execCellUnpark; exact State.onCell_up h) h

theorem Effect.cellReset_of {P : Dev → Dev → Prop} (cell : Nat)
    (h : ∀ d, Instr.wf (.cellReset cell) = true → (placeOf (.cellReset cell)).up d = true → P d (d.cellReset cell)) : Effect (.cellReset cell) P :=
  Effect.intro (fun d => d.cellReset cell) (fun s h => by show execCellReset .. = _; unfold execCellReset; exact State.onCell_up h) h

theorem Effect.cellResetComplete_of {P : Dev → Dev → Prop} (cell : Nat)
    (h : ∀ d, Instr.wf (.cellResetComplete cell) = true → (placeOf (.cellResetComplete cell)).up d = true → P d (d.cellResetDone cell)) : Effect (.cellResetComplete cell) P :=
  Effect.intro (fun d => d.cellResetDone cell) (fun s h => by show execCellResetComplete .. = _; unfold execCellResetComplete; exact State.onCell_up h) h

theorem Effect.mapDataWrite_of {P : Dev → Dev → Prop} (die : Nat) (cdie : Nat) (value : Nat)
    (h : ∀ d, Instr.wf (.mapDataWrite die cdie value) = true → (placeOf (.mapDataWrite die cdie value)).up d = true → P d (d.mapWrite die cdie value)) : Effect (.mapDataWrite die cdie value) P :=
  Effect.intro (fun d => d.mapWrite die cdie value) (fun s h => by show execMapDataWrite .. = _; unfold execMapDataWrite; exact State.onCompute_up h) h

theorem Effect.deadboltSet_of {P : Dev → Dev → Prop} (die : Nat) (cdie : Nat)
    (h : ∀ d, Instr.wf (.deadboltSet die cdie) = true → (placeOf (.deadboltSet die cdie)).up d = true → P d (d.pctlBit die cdie 1)) : Effect (.deadboltSet die cdie) P :=
  Effect.intro (fun d => d.pctlBit die cdie 1) (fun s h => by show execDeadboltSet .. = _; unfold execDeadboltSet; exact State.onCompute_up h) h

theorem Effect.dbClear_of {P : Dev → Dev → Prop} (die : Nat) (cdie : Nat)
    (h : ∀ d, Instr.wf (.dbClear die cdie) = true → (placeOf (.dbClear die cdie)).up d = true → P d (d.pctlBit die cdie 0x100)) : Effect (.dbClear die cdie) P :=
  Effect.intro (fun d => d.pctlBit die cdie 0x100) (fun s h => by show execDbClear .. = _; unfold execDbClear; exact State.onCompute_up h) h

theorem Effect.cellTestModeWrite_of {P : Dev → Dev → Prop} (cell : Nat) (test : Bool)
    (h : ∀ d, Instr.wf (.cellTestModeWrite cell test) = true → (placeOf (.cellTestModeWrite cell test)).up d = true → P d (d.setTest cell test)) : Effect (.cellTestModeWrite cell test) P :=
  Effect.intro (fun d => d.setTest cell test) (fun s h => by show execCellTestModeWrite .. = _; unfold execCellTestModeWrite; exact State.onCell_up h) h

theorem Effect.loaderEnter_of {P : Dev → Dev → Prop} (die : Nat) (cdie : Nat) (mask : Nat)
    (h : ∀ d, Instr.wf (.loaderEnter die cdie mask) = true → (placeOf (.loaderEnter die cdie mask)).up d = true → P d (d.loadCells die cdie mask)) : Effect (.loaderEnter die cdie mask) P :=
  Effect.intro (fun d => d.loadCells die cdie mask) (fun s h => by show execLoaderEnter .. = _; unfold execLoaderEnter; exact State.onCompute_up h) h

theorem Effect.planFetch_of {P : Dev → Dev → Prop} (cell : Nat) (core : Nat) (ups : List (Nat × Nat))
    (h : ∀ d, Instr.wf (.planFetch cell core ups) = true → (placeOf (.planFetch cell core ups)).up d = true → P d ((d.upset ups).planFetch cell core)) : Effect (.planFetch cell core ups) P :=
  Effect.intro (fun d => (d.upset ups).planFetch cell core) (fun s h => by show execPlanFetch .. = _; unfold execPlanFetch; exact State.onCore_up h) h

theorem Effect.nop_of {P : Dev → Dev → Prop} (cell : Nat) (core : Nat)
    (h : ∀ d, Instr.wf (.nop cell core) = true → (placeOf (.nop cell core)).up d = true → P d (d.wNop cell core)) : Effect (.nop cell core) P :=
  Effect.intro (fun d => d.wNop cell core) (fun s h => by show execNop .. = _; unfold execNop; exact State.onCore_up h) h

theorem Effect.endWord_of {P : Dev → Dev → Prop} (cell : Nat) (core : Nat)
    (h : ∀ d, Instr.wf (.endWord cell core) = true → (placeOf (.endWord cell core)).up d = true → P d (d.wEnd cell core)) : Effect (.endWord cell core) P :=
  Effect.intro (fun d => d.wEnd cell core) (fun s h => by show execEndWord .. = _; unfold execEndWord; exact State.onCore_up h) h

theorem Effect.coreDone_of {P : Dev → Dev → Prop} (cell : Nat) (core : Nat)
    (h : ∀ d, Instr.wf (.coreDone cell core) = true → (placeOf (.coreDone cell core)).up d = true → P d (d.coreDone cell core)) : Effect (.coreDone cell core) P :=
  Effect.intro (fun d => d.coreDone cell core) (fun s h => by show execCoreDone .. = _; unfold execCoreDone; exact State.onCore_up h) h

theorem Effect.loopWord_of {P : Dev → Dev → Prop} (cell : Nat) (core : Nat)
    (h : ∀ d, Instr.wf (.loopWord cell core) = true → (placeOf (.loopWord cell core)).up d = true → P d (d.wLoop cell core)) : Effect (.loopWord cell core) P :=
  Effect.intro (fun d => d.wLoop cell core) (fun s h => by show execLoopWord .. = _; unfold execLoopWord; exact State.onCore_up h) h

theorem Effect.loopBackEdge_of {P : Dev → Dev → Prop} (cell : Nat) (core : Nat)
    (h : ∀ d, Instr.wf (.loopBackEdge cell core) = true → (placeOf (.loopBackEdge cell core)).up d = true → P d (d.backEdge cell core)) : Effect (.loopBackEdge cell core) P :=
  Effect.intro (fun d => d.backEdge cell core) (fun s h => by show execLoopBackEdge .. = _; unfold execLoopBackEdge; exact State.onCore_up h) h

theorem Effect.seedWord_of {P : Dev → Dev → Prop} (cell : Nat) (core : Nat) (ups : List (Nat × Nat))
    (h : ∀ d, Instr.wf (.seedWord cell core ups) = true → (placeOf (.seedWord cell core ups)).up d = true → P d ((d.upset ups).wSeed cell core)) : Effect (.seedWord cell core ups) P :=
  Effect.intro (fun d => (d.upset ups).wSeed cell core) (fun s h => by show execSeedWord .. = _; unfold execSeedWord; exact State.onCore_up h) h

theorem Effect.seedComplete_of {P : Dev → Dev → Prop} (cell : Nat) (core : Nat)
    (h : ∀ d, Instr.wf (.seedComplete cell core) = true → (placeOf (.seedComplete cell core)).up d = true → P d (d.seedDone cell core)) : Effect (.seedComplete cell core) P :=
  Effect.intro (fun d => d.seedDone cell core) (fun s h => by show execSeedComplete .. = _; unfold execSeedComplete; exact State.onCore_up h) h

theorem Effect.flags_of {P : Dev → Dev → Prop} (cell : Nat) (core : Nat)
    (h : ∀ d, Instr.wf (.flags cell core) = true → (placeOf (.flags cell core)).up d = true → P d (d.wFlags cell core)) : Effect (.flags cell core) P :=
  Effect.intro (fun d => d.wFlags cell core) (fun s h => by show execFlags .. = _; unfold execFlags; exact State.onCore_up h) h

theorem Effect.dcap_of {P : Dev → Dev → Prop} (cell : Nat) (core : Nat)
    (h : ∀ d, Instr.wf (.dcap cell core) = true → (placeOf (.dcap cell core)).up d = true → P d (d.wDcap cell core)) : Effect (.dcap cell core) P :=
  Effect.intro (fun d => d.wDcap cell core) (fun s h => by show execDcap .. = _; unfold execDcap; exact State.onCore_up h) h

theorem Effect.lutld_of {P : Dev → Dev → Prop} (cell : Nat) (core : Nat) (ups : List (Nat × Nat))
    (h : ∀ d, Instr.wf (.lutld cell core ups) = true → (placeOf (.lutld cell core ups)).up d = true → P d ((d.upset ups).wLutld cell core)) : Effect (.lutld cell core ups) P :=
  Effect.intro (fun d => (d.upset ups).wLutld cell core) (fun s h => by show execLutld .. = _; unfold execLutld; exact State.onCore_up h) h

theorem Effect.lutldComplete_of {P : Dev → Dev → Prop} (cell : Nat) (core : Nat)
    (h : ∀ d, Instr.wf (.lutldComplete cell core) = true → (placeOf (.lutldComplete cell core)).up d = true → P d (d.lutDone cell core)) : Effect (.lutldComplete cell core) P :=
  Effect.intro (fun d => d.lutDone cell core) (fun s h => by show execLutldComplete .. = _; unfold execLutldComplete; exact State.onCore_up h) h

theorem Effect.cset_of {P : Dev → Dev → Prop} (cell : Nat) (core : Nat)
    (h : ∀ d, Instr.wf (.cset cell core) = true → (placeOf (.cset cell core)).up d = true → P d (d.wCset cell core)) : Effect (.cset cell core) P :=
  Effect.intro (fun d => d.wCset cell core) (fun s h => by show execCset .. = _; unfold execCset; exact State.onCore_up h) h

theorem Effect.calc_of {P : Dev → Dev → Prop} (cell : Nat) (core : Nat)
    (h : ∀ d, Instr.wf (.calc cell core) = true → (placeOf (.calc cell core)).up d = true → P d (d.wCalc cell core)) : Effect (.calc cell core) P :=
  Effect.intro (fun d => d.wCalc cell core) (fun s h => by show execCalc .. = _; unfold execCalc; exact State.onCore_up h) h

theorem Effect.cmin_of {P : Dev → Dev → Prop} (cell : Nat) (core : Nat)
    (h : ∀ d, Instr.wf (.cmin cell core) = true → (placeOf (.cmin cell core)).up d = true → P d (d.wCmin cell core)) : Effect (.cmin cell core) P :=
  Effect.intro (fun d => d.wCmin cell core) (fun s h => by show execCmin .. = _; unfold execCmin; exact State.onCore_up h) h

theorem Effect.cload_of {P : Dev → Dev → Prop} (cell : Nat) (core : Nat) (ups : List (Nat × Nat))
    (h : ∀ d, Instr.wf (.cload cell core ups) = true → (placeOf (.cload cell core ups)).up d = true → P d ((d.upset ups).wCload cell core)) : Effect (.cload cell core ups) P :=
  Effect.intro (fun d => (d.upset ups).wCload cell core) (fun s h => by show execCload .. = _; unfold execCload; exact State.onCore_up h) h

theorem Effect.cstore_of {P : Dev → Dev → Prop} (cell : Nat) (core : Nat) (ups : List (Nat × Nat))
    (h : ∀ d, Instr.wf (.cstore cell core ups) = true → (placeOf (.cstore cell core ups)).up d = true → P d ((d.upset ups).wCstore cell core)) : Effect (.cstore cell core ups) P :=
  Effect.intro (fun d => (d.upset ups).wCstore cell core) (fun s h => by show execCstore .. = _; unfold execCstore; exact State.onCore_up h) h

theorem Effect.aset_of {P : Dev → Dev → Prop} (cell : Nat) (core : Nat)
    (h : ∀ d, Instr.wf (.aset cell core) = true → (placeOf (.aset cell core)).up d = true → P d (d.wAset cell core)) : Effect (.aset cell core) P :=
  Effect.intro (fun d => d.wAset cell core) (fun s h => by show execAset .. = _; unfold execAset; exact State.onCore_up h) h

theorem Effect.aadd_of {P : Dev → Dev → Prop} (cell : Nat) (core : Nat)
    (h : ∀ d, Instr.wf (.aadd cell core) = true → (placeOf (.aadd cell core)).up d = true → P d (d.wAadd cell core)) : Effect (.aadd cell core) P :=
  Effect.intro (fun d => d.wAadd cell core) (fun s h => by show execAadd .. = _; unfold execAadd; exact State.onCore_up h) h

theorem Effect.mta_of {P : Dev → Dev → Prop} (cell : Nat) (core : Nat)
    (h : ∀ d, Instr.wf (.mta cell core) = true → (placeOf (.mta cell core)).up d = true → P d (d.wMta cell core)) : Effect (.mta cell core) P :=
  Effect.intro (fun d => d.wMta cell core) (fun s h => by show execMta .. = _; unfold execMta; exact State.onCore_up h) h

theorem Effect.mtb_of {P : Dev → Dev → Prop} (cell : Nat) (core : Nat)
    (h : ∀ d, Instr.wf (.mtb cell core) = true → (placeOf (.mtb cell core)).up d = true → P d (d.wMtb cell core)) : Effect (.mtb cell core) P :=
  Effect.intro (fun d => d.wMtb cell core) (fun s h => by show execMtb .. = _; unfold execMtb; exact State.onCore_up h) h

theorem Effect.mma_of {P : Dev → Dev → Prop} (cell : Nat) (core : Nat) (ups : List (Nat × Nat))
    (h : ∀ d, Instr.wf (.mma cell core ups) = true → (placeOf (.mma cell core ups)).up d = true → P d ((d.upset ups).wMma cell core)) : Effect (.mma cell core ups) P :=
  Effect.intro (fun d => (d.upset ups).wMma cell core) (fun s h => by show execMma .. = _; unfold execMma; exact State.onCore_up h) h

theorem Effect.mmaComplete_of {P : Dev → Dev → Prop} (cell : Nat) (core : Nat) (ups : List (Nat × Nat))
    (h : ∀ d, Instr.wf (.mmaComplete cell core ups) = true → (placeOf (.mmaComplete cell core ups)).up d = true → P d ((d.upset ups).mmaDone cell core)) : Effect (.mmaComplete cell core ups) P :=
  Effect.intro (fun d => (d.upset ups).mmaDone cell core) (fun s h => by show execMmaComplete .. = _; unfold execMmaComplete; exact State.onCore_up h) h

theorem Effect.vld_of {P : Dev → Dev → Prop} (cell : Nat) (core : Nat) (ups : List (Nat × Nat))
    (h : ∀ d, Instr.wf (.vld cell core ups) = true → (placeOf (.vld cell core ups)).up d = true → P d ((d.upset ups).wVld cell core)) : Effect (.vld cell core ups) P :=
  Effect.intro (fun d => (d.upset ups).wVld cell core) (fun s h => by show execVld .. = _; unfold execVld; exact State.onCore_up h) h

theorem Effect.vst_of {P : Dev → Dev → Prop} (cell : Nat) (core : Nat)
    (h : ∀ d, Instr.wf (.vst cell core) = true → (placeOf (.vst cell core)).up d = true → P d (d.wVst cell core)) : Effect (.vst cell core) P :=
  Effect.intro (fun d => d.wVst cell core) (fun s h => by show execVst .. = _; unfold execVst; exact State.onCore_up h) h

theorem Effect.vacc_of {P : Dev → Dev → Prop} (cell : Nat) (core : Nat)
    (h : ∀ d, Instr.wf (.vacc cell core) = true → (placeOf (.vacc cell core)).up d = true → P d (d.wVacc cell core)) : Effect (.vacc cell core) P :=
  Effect.intro (fun d => d.wVacc cell core) (fun s h => by show execVacc .. = _; unfold execVacc; exact State.onCore_up h) h

theorem Effect.vop_of {P : Dev → Dev → Prop} (cell : Nat) (core : Nat)
    (h : ∀ d, Instr.wf (.vop cell core) = true → (placeOf (.vop cell core)).up d = true → P d (d.wVop cell core)) : Effect (.vop cell core) P :=
  Effect.intro (fun d => d.wVop cell core) (fun s h => by show execVop .. = _; unfold execVop; exact State.onCore_up h) h

theorem Effect.vcvt_of {P : Dev → Dev → Prop} (cell : Nat) (core : Nat) (ups : List (Nat × Nat))
    (h : ∀ d, Instr.wf (.vcvt cell core ups) = true → (placeOf (.vcvt cell core ups)).up d = true → P d ((d.upset ups).wVcvt cell core)) : Effect (.vcvt cell core ups) P :=
  Effect.intro (fun d => (d.upset ups).wVcvt cell core) (fun s h => by show execVcvt .. = _; unfold execVcvt; exact State.onCore_up h) h

theorem Effect.twait_of {P : Dev → Dev → Prop} (cell : Nat) (core : Nat)
    (h : ∀ d, Instr.wf (.twait cell core) = true → (placeOf (.twait cell core)).up d = true → P d (d.wTwait cell core)) : Effect (.twait cell core) P :=
  Effect.intro (fun d => d.wTwait cell core) (fun s h => by show execTwait .. = _; unfold execTwait; exact State.onCore_up h) h

theorem Effect.wsync_of {P : Dev → Dev → Prop} (cell : Nat) (core : Nat)
    (h : ∀ d, Instr.wf (.wsync cell core) = true → (placeOf (.wsync cell core)).up d = true → P d (d.wWsync cell core)) : Effect (.wsync cell core) P :=
  Effect.intro (fun d => d.wWsync cell core) (fun s h => by show execWsync .. = _; unfold execWsync; exact State.onCore_up h) h

theorem Effect.tadd_of {P : Dev → Dev → Prop} (cell : Nat) (core : Nat)
    (h : ∀ d, Instr.wf (.tadd cell core) = true → (placeOf (.tadd cell core)).up d = true → P d (d.wTadd cell core)) : Effect (.tadd cell core) P :=
  Effect.intro (fun d => d.wTadd cell core) (fun s h => by show execTadd .. = _; unfold execTadd; exact State.onCore_up h) h

theorem Effect.tset_of {P : Dev → Dev → Prop} (cell : Nat) (core : Nat)
    (h : ∀ d, Instr.wf (.tset cell core) = true → (placeOf (.tset cell core)).up d = true → P d (d.wTset cell core)) : Effect (.tset cell core) P :=
  Effect.intro (fun d => d.wTset cell core) (fun s h => by show execTset .. = _; unfold execTset; exact State.onCore_up h) h

theorem Effect.tradd_of {P : Dev → Dev → Prop} (cell : Nat) (core : Nat)
    (h : ∀ d, Instr.wf (.tradd cell core) = true → (placeOf (.tradd cell core)).up d = true → P d (d.wTradd cell core)) : Effect (.tradd cell core) P :=
  Effect.intro (fun d => d.wTradd cell core) (fun s h => by show execTradd .. = _; unfold execTradd; exact State.onCore_up h) h

theorem Effect.traddRelease_of {P : Dev → Dev → Prop} (cell : Nat) (core : Nat)
    (h : ∀ d, Instr.wf (.traddRelease cell core) = true → (placeOf (.traddRelease cell core)).up d = true → P d (d.traddRelease cell core)) : Effect (.traddRelease cell core) P :=
  Effect.intro (fun d => d.traddRelease cell core) (fun s h => by show execTraddRelease .. = _; unfold execTraddRelease; exact State.onCore_up h) h

theorem Effect.tcadd_of {P : Dev → Dev → Prop} (cell : Nat) (core : Nat)
    (h : ∀ d, Instr.wf (.tcadd cell core) = true → (placeOf (.tcadd cell core)).up d = true → P d (d.wTcadd cell core)) : Effect (.tcadd cell core) P :=
  Effect.intro (fun d => d.wTcadd cell core) (fun s h => by show execTcadd .. = _; unfold execTcadd; exact State.onCore_up h) h

theorem Effect.coreWaitTimeout_of {P : Dev → Dev → Prop} (cell : Nat) (core : Nat)
    (h : ∀ d, Instr.wf (.coreWaitTimeout cell core) = true → (placeOf (.coreWaitTimeout cell core)).up d = true → P d (d.coreTimeout cell core)) : Effect (.coreWaitTimeout cell core) P :=
  Effect.intro (fun d => d.coreTimeout cell core) (fun s h => by show execCoreWaitTimeout .. = _; unfold execCoreWaitTimeout; exact State.onCore_up h) h

theorem Effect.cellStart_of {P : Dev → Dev → Prop} (cell : Nat)
    (h : ∀ d, Instr.wf (.cellStart cell) = true → (placeOf (.cellStart cell)).up d = true → P d (d.planRun cell true false)) : Effect (.cellStart cell) P :=
  Effect.intro (fun d => d.planRun cell true false) (fun s h => by show execCellStart .. = _; unfold execCellStart; exact State.onCell_up h) h

theorem Effect.cellAbort_of {P : Dev → Dev → Prop} (cell : Nat)
    (h : ∀ d, Instr.wf (.cellAbort cell) = true → (placeOf (.cellAbort cell)).up d = true → P d (d.planRun cell false true)) : Effect (.cellAbort cell) P :=
  Effect.intro (fun d => d.planRun cell false true) (fun s h => by show execCellAbort .. = _; unfold execCellAbort; exact State.onCell_up h) h

theorem Effect.listFetch_of {P : Dev → Dev → Prop} (die : Nat) (eng : Nat) (ups : List (Nat × Nat))
    (h : ∀ d, Instr.wf (.listFetch die eng ups) = true → (placeOf (.listFetch die eng ups)).up d = true → P d ((d.upset ups).listFetch die eng)) : Effect (.listFetch die eng ups) P :=
  Effect.intro (fun d => (d.upset ups).listFetch die eng) (fun s h => by show execListFetch .. = _; unfold execListFetch; exact State.onCompute_up h) h

theorem Effect.nopEntry_of {P : Dev → Dev → Prop} (die : Nat) (eng : Nat)
    (h : ∀ d, Instr.wf (.nopEntry die eng) = true → (placeOf (.nopEntry die eng)).up d = true → P d ((d.entBegin die eng 0).engFollow die eng)) : Effect (.nopEntry die eng) P :=
  Effect.intro (fun d => (d.entBegin die eng 0).engFollow die eng) (fun s h => by show execNopEntry .. = _; unfold execNopEntry; exact State.onCompute_up h) h

theorem Effect.copy_of {P : Dev → Dev → Prop} (die : Nat) (eng : Nat)
    (h : ∀ d, Instr.wf (.copy die eng) = true → (placeOf (.copy die eng)).up d = true → P d ((d.entBegin die eng 1).engFollow die eng)) : Effect (.copy die eng) P :=
  Effect.intro (fun d => (d.entBegin die eng 1).engFollow die eng) (fun s h => by show execCopy .. = _; unfold execCopy; exact State.onCompute_up h) h

theorem Effect.reduce_of {P : Dev → Dev → Prop} (die : Nat) (eng : Nat)
    (h : ∀ d, Instr.wf (.reduce die eng) = true → (placeOf (.reduce die eng)).up d = true → P d ((d.entBegin die eng 2).engFollow die eng)) : Effect (.reduce die eng) P :=
  Effect.intro (fun d => (d.entBegin die eng 2).engFollow die eng) (fun s h => by show execReduce .. = _; unfold execReduce; exact State.onCompute_up h) h

theorem Effect.taddEntry_of {P : Dev → Dev → Prop} (die : Nat) (eng : Nat)
    (h : ∀ d, Instr.wf (.taddEntry die eng) = true → (placeOf (.taddEntry die eng)).up d = true → P d ((d.entBegin die eng 3).engFollow die eng)) : Effect (.taddEntry die eng) P :=
  Effect.intro (fun d => (d.entBegin die eng 3).engFollow die eng) (fun s h => by show execTaddEntry .. = _; unfold execTaddEntry; exact State.onCompute_up h) h

theorem Effect.endEntry_of {P : Dev → Dev → Prop} (die : Nat) (eng : Nat)
    (h : ∀ d, Instr.wf (.endEntry die eng) = true → (placeOf (.endEntry die eng)).up d = true → P d ((d.entBegin die eng 0xF).engFollow die eng)) : Effect (.endEntry die eng) P :=
  Effect.intro (fun d => (d.entBegin die eng 0xF).engFollow die eng) (fun s h => by show execEndEntry .. = _; unfold execEndEntry; exact State.onCompute_up h) h

theorem Effect.transactionIssue_of {P : Dev → Dev → Prop} (die : Nat) (eng : Nat)
    (h : ∀ d, Instr.wf (.transactionIssue die eng) = true → (placeOf (.transactionIssue die eng)).up d = true → P d ((d.txnIssue die eng).engFollow die eng)) : Effect (.transactionIssue die eng) P :=
  Effect.intro (fun d => (d.txnIssue die eng).engFollow die eng) (fun s h => by show execTransactionIssue .. = _; unfold execTransactionIssue; exact State.onCompute_up h) h

theorem Effect.transactionResponse_of {P : Dev → Dev → Prop} (place : Nat) (slice : Option (Nat × Nat))
    (h : ∀ d, Instr.wf (.transactionResponse place slice) = true → (placeOf (.transactionResponse place slice)).up d = true → P d (d.homeResponse place slice)) : Effect (.transactionResponse place slice) P :=
  Effect.intro (fun d => d.homeResponse place slice) (fun s h => by show execTransactionResponse .. = _; unfold execTransactionResponse; exact rfl) h

theorem Effect.engineReleaseAdd_of {P : Dev → Dev → Prop} (die : Nat) (eng : Nat)
    (h : ∀ d, Instr.wf (.engineReleaseAdd die eng) = true → (placeOf (.engineReleaseAdd die eng)).up d = true → P d ((d.engAdd die eng).engFollow die eng)) : Effect (.engineReleaseAdd die eng) P :=
  Effect.intro (fun d => (d.engAdd die eng).engFollow die eng) (fun s h => by show execEngineReleaseAdd .. = _; unfold execEngineReleaseAdd; exact State.onCompute_up h) h

theorem Effect.engineDone_of {P : Dev → Dev → Prop} (die : Nat) (eng : Nat)
    (h : ∀ d, Instr.wf (.engineDone die eng) = true → (placeOf (.engineDone die eng)).up d = true → P d (d.engDone die eng)) : Effect (.engineDone die eng) P :=
  Effect.intro (fun d => d.engDone die eng) (fun s h => by show execEngineDone .. = _; unfold execEngineDone; exact State.onCompute_up h) h

theorem Effect.engineWaitTimeout_of {P : Dev → Dev → Prop} (die : Nat) (eng : Nat)
    (h : ∀ d, Instr.wf (.engineWaitTimeout die eng) = true → (placeOf (.engineWaitTimeout die eng)).up d = true → P d ((d.engTimeout die eng).engFollow die eng)) : Effect (.engineWaitTimeout die eng) P :=
  Effect.intro (fun d => (d.engTimeout die eng).engFollow die eng) (fun s h => by show execEngineWaitTimeout .. = _; unfold execEngineWaitTimeout; exact State.onCompute_up h) h

theorem Effect.engineStart_of {P : Dev → Dev → Prop} (die : Nat) (eng : Nat)
    (h : ∀ d, Instr.wf (.engineStart die eng) = true → (placeOf (.engineStart die eng)).up d = true → P d (d.engStart die eng)) : Effect (.engineStart die eng) P :=
  Effect.intro (fun d => d.engStart die eng) (fun s h => by show execEngineStart .. = _; unfold execEngineStart; exact State.onCompute_up h) h

theorem Effect.engineAbort_of {P : Dev → Dev → Prop} (die : Nat) (eng : Nat)
    (h : ∀ d, Instr.wf (.engineAbort die eng) = true → (placeOf (.engineAbort die eng)).up d = true → P d ((d.engAbort die eng).engFollow die eng)) : Effect (.engineAbort die eng) P :=
  Effect.intro (fun d => (d.engAbort die eng).engFollow die eng) (fun s h => by show execEngineAbort .. = _; unfold execEngineAbort; exact State.onCompute_up h) h

theorem Effect.engineResume_of {P : Dev → Dev → Prop} (die : Nat) (eng : Nat)
    (h : ∀ d, Instr.wf (.engineResume die eng) = true → (placeOf (.engineResume die eng)).up d = true → P d (d.engResumeAll die eng)) : Effect (.engineResume die eng) P :=
  Effect.intro (fun d => d.engResumeAll die eng) (fun s h => by show execEngineResume .. = _; unfold execEngineResume; exact State.onCompute_up h) h

theorem Effect.engineDrainComplete_of {P : Dev → Dev → Prop} (die : Nat) (eng : Nat)
    (h : ∀ d, Instr.wf (.engineDrainComplete die eng) = true → (placeOf (.engineDrainComplete die eng)).up d = true → P d (d.engDrained die eng)) : Effect (.engineDrainComplete die eng) P :=
  Effect.intro (fun d => d.engDrained die eng) (fun s h => by show execEngineDrainComplete .. = _; unfold execEngineDrainComplete; exact State.onCompute_up h) h

theorem Effect.homeRequest_of {P : Dev → Dev → Prop} (place : Nat) (ups : List (Nat × Nat)) (slice : Option (Nat × Nat))
    (h : ∀ d, Instr.wf (.homeRequest place ups slice) = true → (placeOf (.homeRequest place ups slice)).up d = true → P d (d.homeRequest place ups slice)) : Effect (.homeRequest place ups slice) P :=
  Effect.intro (fun d => d.homeRequest place ups slice) (fun s h => by show execHomeRequest .. = _; unfold execHomeRequest; exact rfl) h

theorem Effect.mergeEntryAgeOut_of {P : Dev → Dev → Prop} (die : Nat) (bank : Nat) (ups : List (Nat × Nat))
    (h : ∀ d, Instr.wf (.mergeEntryAgeOut die bank ups) = true → (placeOf (.mergeEntryAgeOut die bank ups)).up d = true → P d ((d.upset ups).mergeAge die bank)) : Effect (.mergeEntryAgeOut die bank ups) P :=
  Effect.intro (fun d => (d.upset ups).mergeAge die bank) (fun s h => by show execMergeEntryAgeOut .. = _; unfold execMergeEntryAgeOut; exact State.onCarrier_up h) h

theorem Effect.mergeWordWrite_of {P : Dev → Dev → Prop} (die : Nat) (bank : Nat)
    (h : ∀ d, Instr.wf (.mergeWordWrite die bank) = true → (placeOf (.mergeWordWrite die bank)).up d = true → P d (d.mergeWrite die bank)) : Effect (.mergeWordWrite die bank) P :=
  Effect.intro (fun d => d.mergeWrite die bank) (fun s h => by show execMergeWordWrite .. = _; unfold execMergeWordWrite; exact State.onCarrier_up h) h

theorem Effect.unfoldContextGrant_of {P : Dev → Dev → Prop} (die : Nat) (unit : Nat)
    (h : ∀ d, Instr.wf (.unfoldContextGrant die unit) = true → (placeOf (.unfoldContextGrant die unit)).up d = true → P d (d.unfGrant die unit)) : Effect (.unfoldContextGrant die unit) P :=
  Effect.intro (fun d => d.unfGrant die unit) (fun s h => by show execUnfoldContextGrant .. = _; unfold execUnfoldContextGrant; exact State.onCompute_up h) h

theorem Effect.unfoldInputParse_of {P : Dev → Dev → Prop} (die : Nat) (unit : Nat) (ctx : Nat)
    (h : ∀ d, Instr.wf (.unfoldInputParse die unit ctx) = true → (placeOf (.unfoldInputParse die unit ctx)).up d = true → P d (d.ctxFollow die unit ctx (d.unfParse die unit ctx))) : Effect (.unfoldInputParse die unit ctx) P :=
  Effect.intro (fun d => d.ctxFollow die unit ctx (d.unfParse die unit ctx)) (fun s h => by show execUnfoldInputParse .. = _; unfold execUnfoldInputParse; exact State.onCompute_up h) h

theorem Effect.unfoldOutputWalk_of {P : Dev → Dev → Prop} (die : Nat) (unit : Nat)
    (h : ∀ d, Instr.wf (.unfoldOutputWalk die unit) = true → (placeOf (.unfoldOutputWalk die unit)).up d = true → P d (d.unfWalk die unit)) : Effect (.unfoldOutputWalk die unit) P :=
  Effect.intro (fun d => d.unfWalk die unit) (fun s h => by show execUnfoldOutputWalk .. = _; unfold execUnfoldOutputWalk; exact State.onCompute_up h) h

theorem Effect.unfoldRowComplete_of {P : Dev → Dev → Prop} (die : Nat) (unit : Nat) (ctx : Nat)
    (h : ∀ d, Instr.wf (.unfoldRowComplete die unit ctx) = true → (placeOf (.unfoldRowComplete die unit ctx)).up d = true → P d (d.ctxFollow die unit ctx (d.unfRowDone die unit ctx))) : Effect (.unfoldRowComplete die unit ctx) P :=
  Effect.intro (fun d => d.ctxFollow die unit ctx (d.unfRowDone die unit ctx)) (fun s h => by show execUnfoldRowComplete .. = _; unfold execUnfoldRowComplete; exact State.onCompute_up h) h

theorem Effect.dspStepFetch_of {P : Dev → Dev → Prop} (die : Nat) (ups : List (Nat × Nat))
    (h : ∀ d, Instr.wf (.dspStepFetch die ups) = true → (placeOf (.dspStepFetch die ups)).up d = true → P d ((d.upset ups).dspFetch die)) : Effect (.dspStepFetch die ups) P :=
  Effect.intro (fun d => (d.upset ups).dspFetch die) (fun s h => by show execDspStepFetch .. = _; unfold execDspStepFetch; exact State.onCompute_up h) h

theorem Effect.stepNop_of {P : Dev → Dev → Prop} (die : Nat)
    (h : ∀ d, Instr.wf (.stepNop die) = true → (placeOf (.stepNop die)).up d = true → P d (d.dspBegin die 0)) : Effect (.stepNop die) P :=
  Effect.intro (fun d => d.dspBegin die 0) (fun s h => by show execStepNop .. = _; unfold execStepNop; exact State.onCompute_up h) h

theorem Effect.gate_of {P : Dev → Dev → Prop} (die : Nat) (ups : List (Nat × Nat))
    (h : ∀ d, Instr.wf (.gate die ups) = true → (placeOf (.gate die ups)).up d = true → P d ((d.upset ups).dspBegin die 1)) : Effect (.gate die ups) P :=
  Effect.intro (fun d => (d.upset ups).dspBegin die 1) (fun s h => by show execGate .. = _; unfold execGate; exact State.onCompute_up h) h

theorem Effect.repack_of {P : Dev → Dev → Prop} (die : Nat) (ups : List (Nat × Nat))
    (h : ∀ d, Instr.wf (.repack die ups) = true → (placeOf (.repack die ups)).up d = true → P d ((d.upset ups).dspBegin die 2)) : Effect (.repack die ups) P :=
  Effect.intro (fun d => (d.upset ups).dspBegin die 2) (fun s h => by show execRepack .. = _; unfold execRepack; exact State.onCompute_up h) h

theorem Effect.combine_of {P : Dev → Dev → Prop} (die : Nat) (ups : List (Nat × Nat))
    (h : ∀ d, Instr.wf (.combine die ups) = true → (placeOf (.combine die ups)).up d = true → P d ((d.upset ups).dspBegin die 3)) : Effect (.combine die ups) P :=
  Effect.intro (fun d => (d.upset ups).dspBegin die 3) (fun s h => by show execCombine .. = _; unfold execCombine; exact State.onCompute_up h) h

theorem Effect.stepEnd_of {P : Dev → Dev → Prop} (die : Nat)
    (h : ∀ d, Instr.wf (.stepEnd die) = true → (placeOf (.stepEnd die)).up d = true → P d (d.dspBegin die 0xF)) : Effect (.stepEnd die) P :=
  Effect.intro (fun d => d.dspBegin die 0xF) (fun s h => by show execStepEnd .. = _; unfold execStepEnd; exact State.onCompute_up h) h

theorem Effect.dspReleaseAdd_of {P : Dev → Dev → Prop} (die : Nat)
    (h : ∀ d, Instr.wf (.dspReleaseAdd die) = true → (placeOf (.dspReleaseAdd die)).up d = true → P d (d.dspAdd die)) : Effect (.dspReleaseAdd die) P :=
  Effect.intro (fun d => d.dspAdd die) (fun s h => by show execDspReleaseAdd .. = _; unfold execDspReleaseAdd; exact State.onCompute_up h) h

theorem Effect.dspWaitTimeout_of {P : Dev → Dev → Prop} (die : Nat)
    (h : ∀ d, Instr.wf (.dspWaitTimeout die) = true → (placeOf (.dspWaitTimeout die)).up d = true → P d (d.dspTimeout die)) : Effect (.dspWaitTimeout die) P :=
  Effect.intro (fun d => d.dspTimeout die) (fun s h => by show execDspWaitTimeout .. = _; unfold execDspWaitTimeout; exact State.onCompute_up h) h

theorem Effect.dspStart_of {P : Dev → Dev → Prop} (die : Nat)
    (h : ∀ d, Instr.wf (.dspStart die) = true → (placeOf (.dspStart die)).up d = true → P d (d.dspStart die)) : Effect (.dspStart die) P :=
  Effect.intro (fun d => d.dspStart die) (fun s h => by show execDspStart .. = _; unfold execDspStart; exact State.onCompute_up h) h

theorem Effect.dspAbort_of {P : Dev → Dev → Prop} (die : Nat)
    (h : ∀ d, Instr.wf (.dspAbort die) = true → (placeOf (.dspAbort die)).up d = true → P d (d.dspAbort die)) : Effect (.dspAbort die) P :=
  Effect.intro (fun d => d.dspAbort die) (fun s h => by show execDspAbort .. = _; unfold execDspAbort; exact State.onCompute_up h) h

theorem Effect.dspDrainComplete_of {P : Dev → Dev → Prop} (die : Nat)
    (h : ∀ d, Instr.wf (.dspDrainComplete die) = true → (placeOf (.dspDrainComplete die)).up d = true → P d (d.dspDrained die)) : Effect (.dspDrainComplete die) P :=
  Effect.intro (fun d => d.dspDrained die) (fun s h => by show execDspDrainComplete .. = _; unfold execDspDrainComplete; exact State.onCompute_up h) h

theorem Effect.add_of {P : Dev → Dev → Prop} (place : Nat) (noise : Bytes)
    (h : ∀ d, Instr.wf (.add place noise) = true → (placeOf (.add place noise)).up d = true → P d (d.ctlArrive place 1 noise)) : Effect (.add place noise) P :=
  Effect.intro (fun d => d.ctlArrive place 1 noise) (fun s h => by show execAdd .. = _; unfold execAdd; exact rfl) h

theorem Effect.setMsg_of {P : Dev → Dev → Prop} (place : Nat) (noise : Bytes)
    (h : ∀ d, Instr.wf (.setMsg place noise) = true → (placeOf (.setMsg place noise)).up d = true → P d (d.ctlArrive place 2 noise)) : Effect (.setMsg place noise) P :=
  Effect.intro (fun d => d.ctlArrive place 2 noise) (fun s h => by show execSetMsg .. = _; unfold execSetMsg; exact rfl) h

theorem Effect.radd_of {P : Dev → Dev → Prop} (place : Nat) (noise : Bytes)
    (h : ∀ d, Instr.wf (.radd place noise) = true → (placeOf (.radd place noise)).up d = true → P d (d.ctlArrive place 3 noise)) : Effect (.radd place noise) P :=
  Effect.intro (fun d => d.ctlArrive place 3 noise) (fun s h => by show execRadd .. = _; unfold execRadd; exact rfl) h

theorem Effect.arm_of {P : Dev → Dev → Prop} (place : Nat) (noise : Bytes)
    (h : ∀ d, Instr.wf (.arm place noise) = true → (placeOf (.arm place noise)).up d = true → P d (d.ctlArrive place 4 noise)) : Effect (.arm place noise) P :=
  Effect.intro (fun d => d.ctlArrive place 4 noise) (fun s h => by show execArm .. = _; unfold execArm; exact rfl) h

theorem Effect.withdraw_of {P : Dev → Dev → Prop} (place : Nat) (noise : Bytes)
    (h : ∀ d, Instr.wf (.withdraw place noise) = true → (placeOf (.withdraw place noise)).up d = true → P d (d.ctlArrive place 5 noise)) : Effect (.withdraw place noise) P :=
  Effect.intro (fun d => d.ctlArrive place 5 noise) (fun s h => by show execWithdraw .. = _; unfold execWithdraw; exact rfl) h

theorem Effect.cadd_of {P : Dev → Dev → Prop} (place : Nat) (noise : Bytes)
    (h : ∀ d, Instr.wf (.cadd place noise) = true → (placeOf (.cadd place noise)).up d = true → P d (d.ctlArrive place 6 noise)) : Effect (.cadd place noise) P :=
  Effect.intro (fun d => d.ctlArrive place 6 noise) (fun s h => by show execCadd .. = _; unfold execCadd; exact rfl) h

theorem Effect.ack_of {P : Dev → Dev → Prop} (place : Nat) (noise : Bytes)
    (h : ∀ d, Instr.wf (.ack place noise) = true → (placeOf (.ack place noise)).up d = true → P d (d.ctlArrive place 8 noise)) : Effect (.ack place noise) P :=
  Effect.intro (fun d => d.ctlArrive place 8 noise) (fun s h => by show execAck .. = _; unfold execAck; exact rfl) h

theorem Effect.wake_of {P : Dev → Dev → Prop} (place : Nat) (noise : Bytes)
    (h : ∀ d, Instr.wf (.wake place noise) = true → (placeOf (.wake place noise)).up d = true → P d (d.ctlArrive place 9 noise)) : Effect (.wake place noise) P :=
  Effect.intro (fun d => d.ctlArrive place 9 noise) (fun s h => by show execWake .. = _; unfold execWake; exact rfl) h

theorem Effect.cval_of {P : Dev → Dev → Prop} (place : Nat) (noise : Bytes)
    (h : ∀ d, Instr.wf (.cval place noise) = true → (placeOf (.cval place noise)).up d = true → P d (d.ctlArrive place 0xA noise)) : Effect (.cval place noise) P :=
  Effect.intro (fun d => d.ctlArrive place 0xA noise) (fun s h => by show execCval .. = _; unfold execCval; exact rfl) h

theorem Effect.event_of {P : Dev → Dev → Prop} (place : Nat) (noise : Bytes)
    (h : ∀ d, Instr.wf (.event place noise) = true → (placeOf (.event place noise)).up d = true → P d (d.ctlArrive place 0x10 noise)) : Effect (.event place noise) P :=
  Effect.intro (fun d => d.ctlArrive place 0x10 noise) (fun s h => by show execEvent .. = _; unfold execEvent; exact rfl) h

theorem Effect.bcast_of {P : Dev → Dev → Prop} (place : Nat) (noise : Bytes)
    (h : ∀ d, Instr.wf (.bcast place noise) = true → (placeOf (.bcast place noise)).up d = true → P d (d.ctlArrive place 0x11 noise)) : Effect (.bcast place noise) P :=
  Effect.intro (fun d => d.ctlArrive place 0x11 noise) (fun s h => by show execBcast .. = _; unfold execBcast; exact rfl) h

theorem Effect.tmbValueWrite_of {P : Dev → Dev → Prop} (die : Nat) (value : Nat)
    (h : ∀ d, Instr.wf (.tmbValueWrite die value) = true → (placeOf (.tmbValueWrite die value)).up d = true → P d (d.bankSet die (d.selOf .TMB_VALUE die 0) value)) : Effect (.tmbValueWrite die value) P :=
  Effect.intro (fun d => d.bankSet die (d.selOf .TMB_VALUE die 0) value) (fun s h => by show execTmbValueWrite .. = _; unfold execTmbValueWrite; exact State.onCarrier_up h) h

theorem Effect.tmbAddWrite_of {P : Dev → Dev → Prop} (die : Nat) (value : Nat)
    (h : ∀ d, Instr.wf (.tmbAddWrite die value) = true → (placeOf (.tmbAddWrite die value)).up d = true → P d (d.bankAdd die (d.selOf .TMB_ADD die 0) value)) : Effect (.tmbAddWrite die value) P :=
  Effect.intro (fun d => d.bankAdd die (d.selOf .TMB_ADD die 0) value) (fun s h => by show execTmbAddWrite .. = _; unfold execTmbAddWrite; exact State.onCarrier_up h) h

theorem Effect.tmbRangeWrite_of {P : Dev → Dev → Prop} (die : Nat) (home : Nat) (part : Nat) (value : Nat)
    (h : ∀ d, Instr.wf (.tmbRangeWrite die home part value) = true → (placeOf (.tmbRangeWrite die home part value)).up d = true → P d (d.rangeWrite die (home * 64 + part) value)) : Effect (.tmbRangeWrite die home part value) P :=
  Effect.intro (fun d => d.rangeWrite die (home * 64 + part) value) (fun s h => by show execTmbRangeWrite .. = _; unfold execTmbRangeWrite; exact State.onCarrier_up h) h

theorem Effect.broadcastStart_of {P : Dev → Dev → Prop} (die : Nat)
    (h : ∀ d, Instr.wf (.broadcastStart die) = true → (placeOf (.broadcastStart die)).up d = true → P d (d.bcastWrite die 1)) : Effect (.broadcastStart die) P :=
  Effect.intro (fun d => d.bcastWrite die 1) (fun s h => by show execBroadcastStart .. = _; unfold execBroadcastStart; exact State.onCarrier_up h) h

theorem Effect.broadcastAbort_of {P : Dev → Dev → Prop} (die : Nat)
    (h : ∀ d, Instr.wf (.broadcastAbort die) = true → (placeOf (.broadcastAbort die)).up d = true → P d (d.bcastWrite die 2)) : Effect (.broadcastAbort die) P :=
  Effect.intro (fun d => d.bcastWrite die 2) (fun s h => by show execBroadcastAbort .. = _; unfold execBroadcastAbort; exact State.onCarrier_up h) h

theorem Effect.stewardWaitArm_of {P : Dev → Dev → Prop} (die : Nat)
    (h : ∀ d, Instr.wf (.stewardWaitArm die) = true → (placeOf (.stewardWaitArm die)).up d = true → P d (d.swCtlWrite die 1)) : Effect (.stewardWaitArm die) P :=
  Effect.intro (fun d => d.swCtlWrite die 1) (fun s h => by show execStewardWaitArm .. = _; unfold execStewardWaitArm; exact State.onCarrier_up h) h

theorem Effect.stewardWaitWithdraw_of {P : Dev → Dev → Prop} (die : Nat)
    (h : ∀ d, Instr.wf (.stewardWaitWithdraw die) = true → (placeOf (.stewardWaitWithdraw die)).up d = true → P d (d.swCtlWrite die 2)) : Effect (.stewardWaitWithdraw die) P :=
  Effect.intro (fun d => d.swCtlWrite die 2) (fun s h => by show execStewardWaitWithdraw .. = _; unfold execStewardWaitWithdraw; exact State.onCarrier_up h) h

theorem Effect.stewardMemoryAccess_of {P : Dev → Dev → Prop} (die : Nat) (gpa : Nat) (len : Nat) (write : Bool) (data : Bytes) (answer : Bytes) (ups : List (Nat × Nat)) (again : List (Nat × Nat))
    (h : ∀ d, Instr.wf (.stewardMemoryAccess die gpa len write data answer ups again) = true → (placeOf (.stewardMemoryAccess die gpa len write data answer ups again)).up d = true → P d (d.stwIoAccess die gpa len write data answer ups again)) : Effect (.stewardMemoryAccess die gpa len write data answer ups again) P :=
  Effect.intro (fun d => d.stwIoAccess die gpa len write data answer ups again) (fun s h => by show execStewardMemoryAccess .. = _; unfold execStewardMemoryAccess; exact State.onCarrier_up h) h

theorem Effect.stewardFence_of {P : Dev → Dev → Prop} (die : Nat)
    (h : ∀ d, Instr.wf (.stewardFence die) = true → (placeOf (.stewardFence die)).up d = true → P d (d.stwFence die)) : Effect (.stewardFence die) P :=
  Effect.intro (fun d => d.stwFence die) (fun s h => by show execStewardFence .. = _; unfold execStewardFence; exact State.onCarrier_up h) h

theorem Effect.hbmRequestAdmit_of {P : Dev → Dev → Prop} (die : Nat) (grp : Nat) (bkt : Nat) (cycles : Nat)
    (h : ∀ d, Instr.wf (.hbmRequestAdmit die grp bkt cycles) = true → (placeOf (.hbmRequestAdmit die grp bkt cycles)).up d = true → P d (d.hbAdmit die grp bkt cycles)) : Effect (.hbmRequestAdmit die grp bkt cycles) P :=
  Effect.intro (fun d => d.hbAdmit die grp bkt cycles) (fun s h => by show execHbmRequestAdmit .. = _; unfold execHbmRequestAdmit; exact State.onCarrier_up h) h

theorem Effect.hbmReadServe_of {P : Dev → Dev → Prop} (die : Nat) (chan : Nat) (place : Nat) (ups : List (Nat × Nat)) (again : List (Nat × Nat))
    (h : ∀ d, Instr.wf (.hbmReadServe die chan place ups again) = true → (placeOf (.hbmReadServe die chan place ups again)).up d = true → P d ((d.upset ups).hbServe die chan place again)) : Effect (.hbmReadServe die chan place ups again) P :=
  Effect.intro (fun d => (d.upset ups).hbServe die chan place again) (fun s h => by show execHbmReadServe .. = _; unfold execHbmReadServe; exact State.onCarrier_up h) h

theorem Effect.hbmWriteBatchDrain_of {P : Dev → Dev → Prop} (die : Nat) (chan : Nat)
    (h : ∀ d, Instr.wf (.hbmWriteBatchDrain die chan) = true → (placeOf (.hbmWriteBatchDrain die chan)).up d = true → P d (d.wrDrain die chan)) : Effect (.hbmWriteBatchDrain die chan) P :=
  Effect.intro (fun d => d.wrDrain die chan) (fun s h => by show execHbmWriteBatchDrain .. = _; unfold execHbmWriteBatchDrain; exact State.onCarrier_up h) h

theorem Effect.rowCloseTimeout_of {P : Dev → Dev → Prop} (die : Nat) (pc : Nat) (bank : Nat)
    (h : ∀ d, Instr.wf (.rowCloseTimeout die pc bank) = true → (placeOf (.rowCloseTimeout die pc bank)).up d = true → P d (d.rowClose die pc bank)) : Effect (.rowCloseTimeout die pc bank) P :=
  Effect.intro (fun d => d.rowClose die pc bank) (fun s h => by show execRowCloseTimeout .. = _; unfold execRowCloseTimeout; exact State.onCarrier_up h) h

theorem Effect.hbmRefresh_of {P : Dev → Dev → Prop} (die : Nat) (stack : Nat)
    (h : ∀ d, Instr.wf (.hbmRefresh die stack) = true → (placeOf (.hbmRefresh die stack)).up d = true → P d (d.hbRefresh die stack)) : Effect (.hbmRefresh die stack) P :=
  Effect.intro (fun d => d.hbRefresh die stack) (fun s h => by show execHbmRefresh .. = _; unfold execHbmRefresh; exact State.onKept_up h) h

theorem Effect.hbmTempSample_of {P : Dev → Dev → Prop} (die : Nat) (stack : Nat) (temp : Nat)
    (h : ∀ d, Instr.wf (.hbmTempSample die stack temp) = true → (placeOf (.hbmTempSample die stack temp)).up d = true → P d (d.hbTemp die stack temp)) : Effect (.hbmTempSample die stack temp) P :=
  Effect.intro (fun d => d.hbTemp die stack temp) (fun s h => by show execHbmTempSample .. = _; unfold execHbmTempSample; exact State.onKept_up h) h

theorem Effect.hbmTrain_of {P : Dev → Dev → Prop} (die : Nat) (stack : Nat)
    (h : ∀ d, Instr.wf (.hbmTrain die stack) = true → (placeOf (.hbmTrain die stack)).up d = true → P d (d.hbCtlWrite die stack 1)) : Effect (.hbmTrain die stack) P :=
  Effect.intro (fun d => d.hbCtlWrite die stack 1) (fun s h => by show execHbmTrain .. = _; unfold execHbmTrain; exact State.onCarrier_up h) h

theorem Effect.hbmSelfrefEnter_of {P : Dev → Dev → Prop} (die : Nat) (stack : Nat)
    (h : ∀ d, Instr.wf (.hbmSelfrefEnter die stack) = true → (placeOf (.hbmSelfrefEnter die stack)).up d = true → P d (d.hbCtlWrite die stack 2)) : Effect (.hbmSelfrefEnter die stack) P :=
  Effect.intro (fun d => d.hbCtlWrite die stack 2) (fun s h => by show execHbmSelfrefEnter .. = _; unfold execHbmSelfrefEnter; exact State.onCarrier_up h) h

theorem Effect.hbmSelfrefExit_of {P : Dev → Dev → Prop} (die : Nat) (stack : Nat)
    (h : ∀ d, Instr.wf (.hbmSelfrefExit die stack) = true → (placeOf (.hbmSelfrefExit die stack)).up d = true → P d (d.hbCtlWrite die stack 3)) : Effect (.hbmSelfrefExit die stack) P :=
  Effect.intro (fun d => d.hbCtlWrite die stack 3) (fun s h => by show execHbmSelfrefExit .. = _; unfold execHbmSelfrefExit; exact State.onCarrier_up h) h

theorem Effect.hbmHoldDown_of {P : Dev → Dev → Prop} (die : Nat) (stack : Nat)
    (h : ∀ d, Instr.wf (.hbmHoldDown die stack) = true → (placeOf (.hbmHoldDown die stack)).up d = true → P d (d.hbCtlWrite die stack 4)) : Effect (.hbmHoldDown die stack) P :=
  Effect.intro (fun d => d.hbCtlWrite die stack 4) (fun s h => by show execHbmHoldDown .. = _; unfold execHbmHoldDown; exact State.onCarrier_up h) h

theorem Effect.hbmTrainingComplete_of {P : Dev → Dev → Prop} (die : Nat) (stack : Nat) (res : TrainRes)
    (h : ∀ d, Instr.wf (.hbmTrainingComplete die stack res) = true → (placeOf (.hbmTrainingComplete die stack res)).up d = true → P d (d.trainDone die stack res)) : Effect (.hbmTrainingComplete die stack res) P :=
  Effect.intro (fun d => d.trainDone die stack res) (fun s h => by show execHbmTrainingComplete .. = _; unfold execHbmTrainingComplete; exact State.onCarrier_up h) h

theorem Effect.hbmRrateWrite_of {P : Dev → Dev → Prop} (die : Nat) (stack : Nat) (value : Nat)
    (h : ∀ d, Instr.wf (.hbmRrateWrite die stack value) = true → (placeOf (.hbmRrateWrite die stack value)).up d = true → P d (d.rrateWrite die stack value)) : Effect (.hbmRrateWrite die stack value) P :=
  Effect.intro (fun d => d.rrateWrite die stack value) (fun s h => by show execHbmRrateWrite .. = _; unfold execHbmRrateWrite; exact State.onCarrier_up h) h

theorem Effect.minbandWrite_of {P : Dev → Dev → Prop} (die : Nat) (stack : Nat) (band : Nat)
    (h : ∀ d, Instr.wf (.minbandWrite die stack band) = true → (placeOf (.minbandWrite die stack band)).up d = true → P d (d.refctlWrite die stack (band + 2 ^ 8 * d.get F.HBM_REFCTL_STRETCH die stack))) : Effect (.minbandWrite die stack band) P :=
  Effect.intro (fun d => d.refctlWrite die stack (band + 2 ^ 8 * d.get F.HBM_REFCTL_STRETCH die stack)) (fun s h => by show execMinbandWrite .. = _; unfold execMinbandWrite; exact State.onCarrier_up h) h

theorem Effect.hbmTmaxclr_of {P : Dev → Dev → Prop} (die : Nat) (stack : Nat)
    (h : ∀ d, Instr.wf (.hbmTmaxclr die stack) = true → (placeOf (.hbmTmaxclr die stack)).up d = true → P d (d.hbTmaxClr die stack)) : Effect (.hbmTmaxclr die stack) P :=
  Effect.intro (fun d => d.hbTmaxClr die stack) (fun s h => by show execHbmTmaxclr .. = _; unfold execHbmTmaxclr; exact State.onCarrier_up h) h

theorem Effect.blankCut_of {P : Dev → Dev → Prop} (die : Nat) (stack : Nat)
    (h : ∀ d, Instr.wf (.blankCut die stack) = true → (placeOf (.blankCut die stack)).up d = true → P d (d.blankCut die stack)) : Effect (.blankCut die stack) P :=
  Effect.intro (fun d => d.blankCut die stack) (fun s h => by show execBlankCut .. = _; unfold execBlankCut; exact State.onCarrier_up h) h

theorem Effect.blankCutComplete_of {P : Dev → Dev → Prop} (die : Nat) (stack : Nat)
    (h : ∀ d, Instr.wf (.blankCutComplete die stack) = true → (placeOf (.blankCutComplete die stack)).up d = true → P d (d.blankCutDone die stack)) : Effect (.blankCutComplete die stack) P :=
  Effect.intro (fun d => d.blankCutDone die stack) (fun s h => by show execBlankCutComplete .. = _; unfold execBlankCutComplete; exact State.onCarrier_up h) h

theorem Effect.regionToNarrow_of {P : Dev → Dev → Prop} (die : Nat) (stack : Nat)
    (h : ∀ d, Instr.wf (.regionToNarrow die stack) = true → (placeOf (.regionToNarrow die stack)).up d = true → P d (d.ncWrite die stack 1)) : Effect (.regionToNarrow die stack) P :=
  Effect.intro (fun d => d.ncWrite die stack 1) (fun s h => by show execRegionToNarrow .. = _; unfold execRegionToNarrow; exact State.onCarrier_up h) h

theorem Effect.regionToWide_of {P : Dev → Dev → Prop} (die : Nat) (stack : Nat)
    (h : ∀ d, Instr.wf (.regionToWide die stack) = true → (placeOf (.regionToWide die stack)).up d = true → P d (d.ncWrite die stack 2)) : Effect (.regionToWide die stack) P :=
  Effect.intro (fun d => d.ncWrite die stack 2) (fun s h => by show execRegionToWide .. = _; unfold execRegionToWide; exact State.onCarrier_up h) h

theorem Effect.regionConversionComplete_of {P : Dev → Dev → Prop} (die : Nat)
    (h : ∀ d, Instr.wf (.regionConversionComplete die) = true → (placeOf (.regionConversionComplete die)).up d = true → P d (d.ncDone die)) : Effect (.regionConversionComplete die) P :=
  Effect.intro (fun d => d.ncDone die) (fun s h => by show execRegionConversionComplete .. = _; unfold execRegionConversionComplete; exact State.onCarrier_up h) h

theorem Effect.scrubRead_of {P : Dev → Dev → Prop} (mem : Nat) (die : Nat) (unit : Nat) (ups : List (Nat × Nat)) (again : List (Nat × Nat))
    (h : ∀ d, Instr.wf (.scrubRead mem die unit ups again) = true → (placeOf (.scrubRead mem die unit ups again)).up d = true → P d ((d.upset ups).scrubRead mem die unit again)) : Effect (.scrubRead mem die unit ups again) P :=
  Effect.intro (fun d => (d.upset ups).scrubRead mem die unit again) (fun s h => by show execScrubRead .. = _; unfold execScrubRead; exact State.onCarrier_up h) h

theorem Effect.scrubWriteback_of {P : Dev → Dev → Prop} (place : Nat)
    (h : ∀ d, Instr.wf (.scrubWriteback place) = true → (placeOf (.scrubWriteback place)).up d = true → P d (d.scrubWback place)) : Effect (.scrubWriteback place) P :=
  Effect.intro (fun d => d.scrubWback place) (fun s h => by show execScrubWriteback .. = _; unfold execScrubWriteback; exact rfl) h

theorem Effect.checkerSelfTest_of {P : Dev → Dev → Prop} (mem : Nat) (die : Nat) (inst : Nat)
    (h : ∀ d, Instr.wf (.checkerSelfTest mem die inst) = true → (placeOf (.checkerSelfTest mem die inst)).up d = true → P d (if mem == 2 && !d.computeUp die then d else d.stestRun mem die inst)) : Effect (.checkerSelfTest mem die inst) P :=
  Effect.intro (fun d => if mem == 2 && !d.computeUp die then d else d.stestRun mem die inst) (fun s h => by show execCheckerSelfTest .. = _; unfold execCheckerSelfTest; exact State.onCarrier_up h) h

theorem Effect.checkerSelfTestDone_of {P : Dev → Dev → Prop} (mem : Nat) (die : Nat) (inst : Nat) (pattern : Nat) (bad : List (Nat × Nat))
    (h : ∀ d, Instr.wf (.checkerSelfTestDone mem die inst pattern bad) = true → (placeOf (.checkerSelfTestDone mem die inst pattern bad)).up d = true → P d (d.stestDone mem die inst pattern bad)) : Effect (.checkerSelfTestDone mem die inst pattern bad) P :=
  Effect.intro (fun d => d.stestDone mem die inst pattern bad) (fun s h => by show execCheckerSelfTestDone .. = _; unfold execCheckerSelfTestDone; exact State.onCarrier_up h) h

theorem Effect.sbfZfill_of {P : Dev → Dev → Prop} (die : Nat) (mib : Nat)
    (h : ∀ d, Instr.wf (.sbfZfill die mib) = true → (placeOf (.sbfZfill die mib)).up d = true → P d (d.zfillWrite die (mib + 2 ^ 9))) : Effect (.sbfZfill die mib) P :=
  Effect.intro (fun d => d.zfillWrite die (mib + 2 ^ 9)) (fun s h => by show execSbfZfill .. = _; unfold execSbfZfill; exact State.onCarrier_up h) h

theorem Effect.sbfZfillDone_of {P : Dev → Dev → Prop} (die : Nat)
    (h : ∀ d, Instr.wf (.sbfZfillDone die) = true → (placeOf (.sbfZfillDone die)).up d = true → P d (d.zfillDone die)) : Effect (.sbfZfillDone die) P :=
  Effect.intro (fun d => d.zfillDone die) (fun s h => by show execSbfZfillDone .. = _; unfold execSbfZfillDone; exact State.onCarrier_up h) h

theorem Effect.insert_of {P : Dev → Dev → Prop} (die : Nat)
    (h : ∀ d, Instr.wf (.insert die) = true → (placeOf (.insert die)).up d = true → P d (d.krgCmdWrite die 1)) : Effect (.insert die) P :=
  Effect.intro (fun d => d.krgCmdWrite die 1) (fun s h => by show execInsert .. = _; unfold execInsert; exact State.onCarrier_up h) h

theorem Effect.modify_of {P : Dev → Dev → Prop} (die : Nat)
    (h : ∀ d, Instr.wf (.modify die) = true → (placeOf (.modify die)).up d = true → P d (d.krgCmdWrite die 2)) : Effect (.modify die) P :=
  Effect.intro (fun d => d.krgCmdWrite die 2) (fun s h => by show execModify .. = _; unfold execModify; exact State.onCarrier_up h) h

theorem Effect.readEntry_of {P : Dev → Dev → Prop} (die : Nat)
    (h : ∀ d, Instr.wf (.readEntry die) = true → (placeOf (.readEntry die)).up d = true → P d (d.krgCmdWrite die 3)) : Effect (.readEntry die) P :=
  Effect.intro (fun d => d.krgCmdWrite die 3) (fun s h => by show execReadEntry .. = _; unfold execReadEntry; exact State.onCarrier_up h) h

theorem Effect.removeUnused_of {P : Dev → Dev → Prop} (die : Nat)
    (h : ∀ d, Instr.wf (.removeUnused die) = true → (placeOf (.removeUnused die)).up d = true → P d (d.krgCmdWrite die 4)) : Effect (.removeUnused die) P :=
  Effect.intro (fun d => d.krgCmdWrite die 4) (fun s h => by show execRemoveUnused .. = _; unfold execRemoveUnused; exact State.onCarrier_up h) h

theorem Effect.krgCommandDone_of {P : Dev → Dev → Prop} (die : Nat)
    (h : ∀ d, Instr.wf (.krgCommandDone die) = true → (placeOf (.krgCommandDone die)).up d = true → P d (d.krgDone die)) : Effect (.krgCommandDone die) P :=
  Effect.intro (fun d => d.krgDone die) (fun s h => by show execKrgCommandDone .. = _; unfold execKrgCommandDone; exact State.onCarrier_up h) h

theorem Effect.quotaWrite_of {P : Dev → Dev → Prop} (die : Nat) (value : Nat)
    (h : ∀ d, Instr.wf (.quotaWrite die value) = true → (placeOf (.quotaWrite die value)).up d = true → P d (d.writeGen ⟨.KRG_QUOTA, die, 0, d.selOf .KRG_QUOTA die 0⟩ value)) : Effect (.quotaWrite die value) P :=
  Effect.intro (fun d => d.writeGen ⟨.KRG_QUOTA, die, 0, d.selOf .KRG_QUOTA die 0⟩ value) (fun s h => by show execQuotaWrite .. = _; unfold execQuotaWrite; exact State.onCarrier_up h) h

theorem Effect.hostWindowWrite_of {P : Dev → Dev → Prop} (die : Nat) (word : Nat) (value : Nat)
    (h : ∀ d, Instr.wf (.hostWindowWrite die word value) = true → (placeOf (.hostWindowWrite die word value)).up d = true → P d (d.hwWrite die (hwReg word) value)) : Effect (.hostWindowWrite die word value) P :=
  Effect.intro (fun d => d.hwWrite die (hwReg word) value) (fun s h => by show execHostWindowWrite .. = _; unfold execHostWindowWrite; exact State.onCarrier_up h) h

theorem Effect.rekeyCut_of {P : Dev → Dev → Prop} (die : Nat) (all : Bool)
    (h : ∀ d, Instr.wf (.rekeyCut die all) = true → (placeOf (.rekeyCut die all)).up d = true → P d (d.rkctlWrite die (if all then 3 else 1))) : Effect (.rekeyCut die all) P :=
  Effect.intro (fun d => d.rkctlWrite die (if all then 3 else 1)) (fun s h => by show execRekeyCut .. = _; unfold execRekeyCut; exact State.onCarrier_up h) h

theorem Effect.rekeyDrainEnd_of {P : Dev → Dev → Prop} (die : Nat) (ident : Nat)
    (h : ∀ d, Instr.wf (.rekeyDrainEnd die ident) = true → (placeOf (.rekeyDrainEnd die ident)).up d = true → P d (d.rekeyDone die ident)) : Effect (.rekeyDrainEnd die ident) P :=
  Effect.intro (fun d => d.rekeyDone die ident) (fun s h => by show execRekeyDrainEnd .. = _; unfold execRekeyDrainEnd; exact State.onCarrier_up h) h

theorem Effect.rekeyTimeout_of {P : Dev → Dev → Prop} (die : Nat) (ident : Nat)
    (h : ∀ d, Instr.wf (.rekeyTimeout die ident) = true → (placeOf (.rekeyTimeout die ident)).up d = true → P d (d.rekeyTimeout die ident)) : Effect (.rekeyTimeout die ident) P :=
  Effect.intro (fun d => d.rekeyTimeout die ident) (fun s h => by show execRekeyTimeout .. = _; unfold execRekeyTimeout; exact State.onCarrier_up h) h

theorem Effect.hubDeadboltSet_of {P : Dev → Dev → Prop} (die : Nat)
    (h : ∀ d, Instr.wf (.hubDeadboltSet die) = true → (placeOf (.hubDeadboltSet die)).up d = true → P d (d.hubDbWrite die 1)) : Effect (.hubDeadboltSet die) P :=
  Effect.intro (fun d => d.hubDbWrite die 1) (fun s h => by show execHubDeadboltSet .. = _; unfold execHubDeadboltSet; exact State.onCarrier_up h) h

theorem Effect.hubDbClear_of {P : Dev → Dev → Prop} (die : Nat)
    (h : ∀ d, Instr.wf (.hubDbClear die) = true → (placeOf (.hubDbClear die)).up d = true → P d (d.hubDbWrite die 0x100)) : Effect (.hubDbClear die) P :=
  Effect.intro (fun d => d.hubDbWrite die 0x100) (fun s h => by show execHubDbClear .. = _; unfold execHubDbClear; exact State.onCarrier_up h) h

theorem Effect.portFenceWrite_of {P : Dev → Dev → Prop} (die : Nat) (mask : Nat)
    (h : ∀ d, Instr.wf (.portFenceWrite die mask) = true → (placeOf (.portFenceWrite die mask)).up d = true → P d (d.portFence die mask)) : Effect (.portFenceWrite die mask) P :=
  Effect.intro (fun d => d.portFence die mask) (fun s h => by show execPortFenceWrite .. = _; unfold execPortFenceWrite; exact State.onCarrier_up h) h

theorem Effect.kmapEnWrite_of {P : Dev → Dev → Prop} (die : Nat) (en : Nat)
    (h : ∀ d, Instr.wf (.kmapEnWrite die en) = true → (placeOf (.kmapEnWrite die en)).up d = true → P d (d.kmapWrite die (2 ^ 4 * en))) : Effect (.kmapEnWrite die en) P :=
  Effect.intro (fun d => d.kmapWrite die (2 ^ 4 * en)) (fun s h => by show execKmapEnWrite .. = _; unfold execKmapEnWrite; exact State.onCarrier_up h) h

theorem Effect.mapUpdate_of {P : Dev → Dev → Prop} (die : Nat) (knuckle : Nat) (pkts : List Nat) (msgs : List Nat)
    (h : ∀ d, Instr.wf (.mapUpdate die knuckle pkts msgs) = true → (placeOf (.mapUpdate die knuckle pkts msgs)).up d = true → P d (d.mapUpdate die knuckle pkts msgs)) : Effect (.mapUpdate die knuckle pkts msgs) P :=
  Effect.intro (fun d => d.mapUpdate die knuckle pkts msgs) (fun s h => by show execMapUpdate .. = _; unfold execMapUpdate; exact State.onCarrier_up h) h

theorem Effect.knuckleRecover_of {P : Dev → Dev → Prop} (die : Nat) (inst : Nat)
    (h : ∀ d, Instr.wf (.knuckleRecover die inst) = true → (placeOf (.knuckleRecover die inst)).up d = true → P d (d.knkCtlWrite die inst 1)) : Effect (.knuckleRecover die inst) P :=
  Effect.intro (fun d => d.knkCtlWrite die inst 1) (fun s h => by show execKnuckleRecover .. = _; unfold execKnuckleRecover; exact State.onKnuckleEnd_up h) h

theorem Effect.knuckleFull_of {P : Dev → Dev → Prop} (die : Nat) (inst : Nat)
    (h : ∀ d, Instr.wf (.knuckleFull die inst) = true → (placeOf (.knuckleFull die inst)).up d = true → P d (d.knkCtlWrite die inst 2)) : Effect (.knuckleFull die inst) P :=
  Effect.intro (fun d => d.knkCtlWrite die inst 2) (fun s h => by show execKnuckleFull .. = _; unfold execKnuckleFull; exact State.onKnuckleEnd_up h) h

theorem Effect.knuckleHold_of {P : Dev → Dev → Prop} (die : Nat) (inst : Nat)
    (h : ∀ d, Instr.wf (.knuckleHold die inst) = true → (placeOf (.knuckleHold die inst)).up d = true → P d (d.knkCtlWrite die inst 3)) : Effect (.knuckleHold die inst) P :=
  Effect.intro (fun d => d.knkCtlWrite die inst 3) (fun s h => by show execKnuckleHold .. = _; unfold execKnuckleHold; exact State.onKnuckleEnd_up h) h

theorem Effect.knuckleTrainingStepEnd_of {P : Dev → Dev → Prop} (knuckle : Nat) (near : KnkRes) (far : KnkRes)
    (h : ∀ d, Instr.wf (.knuckleTrainingStepEnd knuckle near far) = true → (placeOf (.knuckleTrainingStepEnd knuckle near far)).up d = true → P d (d.knkStepEnd knuckle near far)) : Effect (.knuckleTrainingStepEnd knuckle near far) P :=
  Effect.intro (fun d => d.knkStepEnd knuckle near far) (fun s h => by show execKnuckleTrainingStepEnd .. = _; unfold execKnuckleTrainingStepEnd; exact State.onKnuckle_up h) h

theorem Effect.knuckleQualEnd_of {P : Dev → Dev → Prop} (knuckle : Nat) (nearErrs : Nat) (farErrs : Nat)
    (h : ∀ d, Instr.wf (.knuckleQualEnd knuckle nearErrs farErrs) = true → (placeOf (.knuckleQualEnd knuckle nearErrs farErrs)).up d = true → P d (d.knkQualEnd knuckle nearErrs farErrs)) : Effect (.knuckleQualEnd knuckle nearErrs farErrs) P :=
  Effect.intro (fun d => d.knkQualEnd knuckle nearErrs farErrs) (fun s h => by show execKnuckleQualEnd .. = _; unfold execKnuckleQualEnd; exact State.onKnuckle_up h) h

theorem Effect.knuckleFlitReceive_of {P : Dev → Dev → Prop} (die : Nat) (inst : Nat) (flit : Bytes)
    (h : ∀ d, Instr.wf (.knuckleFlitReceive die inst flit) = true → (placeOf (.knuckleFlitReceive die inst flit)).up d = true → P d (d.knkFlit die inst flit)) : Effect (.knuckleFlitReceive die inst flit) P :=
  Effect.intro (fun d => d.knkFlit die inst flit) (fun s h => by show execKnuckleFlitReceive .. = _; unfold execKnuckleFlitReceive; exact State.onKnuckleEnd_up h) h

theorem Effect.knuckleNakRepeat_of {P : Dev → Dev → Prop} (die : Nat) (inst : Nat)
    (h : ∀ d, Instr.wf (.knuckleNakRepeat die inst) = true → (placeOf (.knuckleNakRepeat die inst)).up d = true → P d (d.knkNakAgain die inst)) : Effect (.knuckleNakRepeat die inst) P :=
  Effect.intro (fun d => d.knkNakAgain die inst) (fun s h => by show execKnuckleNakRepeat .. = _; unfold execKnuckleNakRepeat; exact State.onKnuckleEnd_up h) h

theorem Effect.knuckleSignalLoss_of {P : Dev → Dev → Prop} (die : Nat) (inst : Nat)
    (h : ∀ d, Instr.wf (.knuckleSignalLoss die inst) = true → (placeOf (.knuckleSignalLoss die inst)).up d = true → P d (d.knkSignalLoss die inst)) : Effect (.knuckleSignalLoss die inst) P :=
  Effect.intro (fun d => d.knkSignalLoss die inst) (fun s h => by show execKnuckleSignalLoss .. = _; unfold execKnuckleSignalLoss; exact State.onKnuckleEnd_up h) h

theorem Effect.siteTrain_of {P : Dev → Dev → Prop} (die : Nat)
    (h : ∀ d, Instr.wf (.siteTrain die) = true → (placeOf (.siteTrain die)).up d = true → P d (d.auxCtlWrite die 1)) : Effect (.siteTrain die) P :=
  Effect.intro (fun d => d.auxCtlWrite die 1) (fun s h => by show execSiteTrain .. = _; unfold execSiteTrain; exact State.onCarrier_up h) h

theorem Effect.siteHold_of {P : Dev → Dev → Prop} (die : Nat)
    (h : ∀ d, Instr.wf (.siteHold die) = true → (placeOf (.siteHold die)).up d = true → P d (d.auxCtlWrite die 2)) : Effect (.siteHold die) P :=
  Effect.intro (fun d => d.auxCtlWrite die 2) (fun s h => by show execSiteHold .. = _; unfold execSiteHold; exact State.onCarrier_up h) h

theorem Effect.siteBringupStepEnd_of {P : Dev → Dev → Prop} (die : Nat) (res : SiteRes)
    (h : ∀ d, Instr.wf (.siteBringupStepEnd die res) = true → (placeOf (.siteBringupStepEnd die res)).up d = true → P d (d.siteStepEnd die res)) : Effect (.siteBringupStepEnd die res) P :=
  Effect.intro (fun d => d.siteStepEnd die res) (fun s h => by show execSiteBringupStepEnd .. = _; unfold execSiteBringupStepEnd; exact State.onCarrier_up h) h

theorem Effect.siteFlitReceive_of {P : Dev → Dev → Prop} (die : Nat) (flit : Bytes)
    (h : ∀ d, Instr.wf (.siteFlitReceive die flit) = true → (placeOf (.siteFlitReceive die flit)).up d = true → P d (d.siteFlit die flit)) : Effect (.siteFlitReceive die flit) P :=
  Effect.intro (fun d => d.siteFlit die flit) (fun s h => by show execSiteFlitReceive .. = _; unfold execSiteFlitReceive; exact State.onCarrier_up h) h

theorem Effect.siteRequest_of {P : Dev → Dev → Prop} (die : Nat)
    (h : ∀ d, Instr.wf (.siteRequest die) = true → (placeOf (.siteRequest die)).up d = true → P d (d.siteRequest die)) : Effect (.siteRequest die) P :=
  Effect.intro (fun d => d.siteRequest die) (fun s h => by show execSiteRequest .. = _; unfold execSiteRequest; exact State.onCarrier_up h) h

theorem Effect.siteTumblerWrite_of {P : Dev → Dev → Prop} (die : Nat)
    (h : ∀ d, Instr.wf (.siteTumblerWrite die) = true → (placeOf (.siteTumblerWrite die)).up d = true → P d (d.siteAdd die)) : Effect (.siteTumblerWrite die) P :=
  Effect.intro (fun d => d.siteAdd die) (fun s h => by show execSiteTumblerWrite .. = _; unfold execSiteTumblerWrite; exact State.onCarrier_up h) h

theorem Effect.siteRequestTimeout_of {P : Dev → Dev → Prop} (die : Nat)
    (h : ∀ d, Instr.wf (.siteRequestTimeout die) = true → (placeOf (.siteRequestTimeout die)).up d = true → P d (d.windowTimeout die)) : Effect (.siteRequestTimeout die) P :=
  Effect.intro (fun d => d.windowTimeout die) (fun s h => by show execSiteRequestTimeout .. = _; unfold execSiteRequestTimeout; exact State.onCarrier_up h) h

theorem Effect.siteSidebandLoss_of {P : Dev → Dev → Prop} (die : Nat)
    (h : ∀ d, Instr.wf (.siteSidebandLoss die) = true → (placeOf (.siteSidebandLoss die)).up d = true → P d (d.siteSideband die)) : Effect (.siteSidebandLoss die) P :=
  Effect.intro (fun d => d.siteSideband die) (fun s h => by show execSiteSidebandLoss .. = _; unfold execSiteSidebandLoss; exact State.onCarrier_up h) h

theorem Effect.laneTrain_of {P : Dev → Dev → Prop} (die : Nat) (lane : Nat)
    (h : ∀ d, Instr.wf (.laneTrain die lane) = true → (placeOf (.laneTrain die lane)).up d = true → P d (Dev.laneAfter die lane (fun d => d.laneCmdWrite die lane 1) d)) : Effect (.laneTrain die lane) P :=
  Effect.intro (fun d => Dev.laneAfter die lane (fun d => d.laneCmdWrite die lane 1) d) (fun s h => by show execLaneTrain .. = _; unfold execLaneTrain; exact State.onLane_up h) h

theorem Effect.laneHold_of {P : Dev → Dev → Prop} (die : Nat) (lane : Nat)
    (h : ∀ d, Instr.wf (.laneHold die lane) = true → (placeOf (.laneHold die lane)).up d = true → P d (Dev.laneAfter die lane (fun d => d.laneCmdWrite die lane 2) d)) : Effect (.laneHold die lane) P :=
  Effect.intro (fun d => Dev.laneAfter die lane (fun d => d.laneCmdWrite die lane 2) d) (fun s h => by show execLaneHold .. = _; unfold execLaneHold; exact State.onLane_up h) h

theorem Effect.laneSleep_of {P : Dev → Dev → Prop} (die : Nat) (lane : Nat)
    (h : ∀ d, Instr.wf (.laneSleep die lane) = true → (placeOf (.laneSleep die lane)).up d = true → P d (Dev.laneAfter die lane (fun d => d.laneCmdWrite die lane 3) d)) : Effect (.laneSleep die lane) P :=
  Effect.intro (fun d => Dev.laneAfter die lane (fun d => d.laneCmdWrite die lane 3) d) (fun s h => by show execLaneSleep .. = _; unfold execLaneSleep; exact State.onLane_up h) h

theorem Effect.laneWake_of {P : Dev → Dev → Prop} (die : Nat) (lane : Nat)
    (h : ∀ d, Instr.wf (.laneWake die lane) = true → (placeOf (.laneWake die lane)).up d = true → P d (Dev.laneAfter die lane (fun d => d.laneCmdWrite die lane 4) d)) : Effect (.laneWake die lane) P :=
  Effect.intro (fun d => Dev.laneAfter die lane (fun d => d.laneCmdWrite die lane 4) d) (fun s h => by show execLaneWake .. = _; unfold execLaneWake; exact State.onLane_up h) h

theorem Effect.laneTest_of {P : Dev → Dev → Prop} (die : Nat) (lane : Nat) (loop : Nat) (prbs : Nat)
    (h : ∀ d, Instr.wf (.laneTest die lane loop prbs) = true → (placeOf (.laneTest die lane loop prbs)).up d = true → P d (Dev.laneAfter die lane (fun d => d.laneTestWrite die lane loop prbs) d)) : Effect (.laneTest die lane loop prbs) P :=
  Effect.intro (fun d => Dev.laneAfter die lane (fun d => d.laneTestWrite die lane loop prbs) d) (fun s h => by show execLaneTest .. = _; unfold execLaneTest; exact State.onLane_up h) h

theorem Effect.laneStateEnd_of {P : Dev → Dev → Prop} (die : Nat) (lane : Nat) (res : LaneRes)
    (h : ∀ d, Instr.wf (.laneStateEnd die lane res) = true → (placeOf (.laneStateEnd die lane res)).up d = true → P d (Dev.laneAfter die lane (fun d => d.laneStep die lane res) d)) : Effect (.laneStateEnd die lane res) P :=
  Effect.intro (fun d => Dev.laneAfter die lane (fun d => d.laneStep die lane res) d) (fun s h => by show execLaneStateEnd .. = _; unfold execLaneStateEnd; exact State.onLane_up h) h

theorem Effect.laneTrainTimeout_of {P : Dev → Dev → Prop} (die : Nat) (lane : Nat)
    (h : ∀ d, Instr.wf (.laneTrainTimeout die lane) = true → (placeOf (.laneTrainTimeout die lane)).up d = true → P d (Dev.laneAfter die lane (fun d => d.laneTimeout die lane) d)) : Effect (.laneTrainTimeout die lane) P :=
  Effect.intro (fun d => Dev.laneAfter die lane (fun d => d.laneTimeout die lane) d) (fun s h => by show execLaneTrainTimeout .. = _; unfold execLaneTrainTimeout; exact State.onLane_up h) h

theorem Effect.codewordReceive_of {P : Dev → Dev → Prop} (die : Nat) (lane : Nat) (syms : List Nat) (takes : List Nat)
    (h : ∀ d, Instr.wf (.codewordReceive die lane syms takes) = true → (placeOf (.codewordReceive die lane syms takes)).up d = true → P d (Dev.laneAfter die lane (fun d => d.codeword die lane syms takes) d)) : Effect (.codewordReceive die lane syms takes) P :=
  Effect.intro (fun d => Dev.laneAfter die lane (fun d => d.codeword die lane syms takes) d) (fun s h => by show execCodewordReceive .. = _; unfold execCodewordReceive; exact State.onLane_up h) h

theorem Effect.alignLock_of {P : Dev → Dev → Prop} (die : Nat) (lane : Nat) (hdrs : List Nat)
    (h : ∀ d, Instr.wf (.alignLock die lane hdrs) = true → (placeOf (.alignLock die lane hdrs)).up d = true → P d (Dev.laneAfter die lane (fun d => d.laneLock die lane hdrs) d)) : Effect (.alignLock die lane hdrs) P :=
  Effect.intro (fun d => Dev.laneAfter die lane (fun d => d.laneLock die lane hdrs) d) (fun s h => by show execAlignLock .. = _; unfold execAlignLock; exact State.onLane_up h) h

theorem Effect.alignRelockTimeout_of {P : Dev → Dev → Prop} (die : Nat) (lane : Nat)
    (h : ∀ d, Instr.wf (.alignRelockTimeout die lane) = true → (placeOf (.alignRelockTimeout die lane)).up d = true → P d (Dev.laneAfter die lane (fun d => d.laneRelock die lane) d)) : Effect (.alignRelockTimeout die lane) P :=
  Effect.intro (fun d => Dev.laneAfter die lane (fun d => d.laneRelock die lane) d) (fun s h => by show execAlignRelockTimeout .. = _; unfold execAlignRelockTimeout; exact State.onLane_up h) h

theorem Effect.ppmMeasure_of {P : Dev → Dev → Prop} (die : Nat) (lane : Nat) (offs : Nat)
    (h : ∀ d, Instr.wf (.ppmMeasure die lane offs) = true → (placeOf (.ppmMeasure die lane offs)).up d = true → P d (Dev.laneAfter die lane (fun d => d.lanePpm die lane offs) d)) : Effect (.ppmMeasure die lane offs) P :=
  Effect.intro (fun d => Dev.laneAfter die lane (fun d => d.lanePpm die lane offs) d) (fun s h => by show execPpmMeasure .. = _; unfold execPpmMeasure; exact State.onLane_up h) h

theorem Effect.loopTimingRequest_of {P : Dev → Dev → Prop} (die : Nat) (lane : Nat)
    (h : ∀ d, Instr.wf (.loopTimingRequest die lane) = true → (placeOf (.loopTimingRequest die lane)).up d = true → P d (Dev.laneAfter die lane (fun d => d.laneLoopReq die lane) d)) : Effect (.loopTimingRequest die lane) P :=
  Effect.intro (fun d => Dev.laneAfter die lane (fun d => d.laneLoopReq die lane) d) (fun s h => by show execLoopTimingRequest .. = _; unfold execLoopTimingRequest; exact State.onLane_up h) h

theorem Effect.fomRefresh_of {P : Dev → Dev → Prop} (die : Nat) (lane : Nat) (eyes : List (Nat × Nat))
    (h : ∀ d, Instr.wf (.fomRefresh die lane eyes) = true → (placeOf (.fomRefresh die lane eyes)).up d = true → P d (Dev.laneAfter die lane (fun d => d.laneFom die lane eyes) d)) : Effect (.fomRefresh die lane eyes) P :=
  Effect.intro (fun d => Dev.laneAfter die lane (fun d => d.laneFom die lane eyes) d) (fun s h => by show execFomRefresh .. = _; unfold execFomRefresh; exact State.onLane_up h) h

theorem Effect.adaptStep_of {P : Dev → Dev → Prop} (die : Nat) (lane : Nat) (ctle : Nat) (dfe1 : Nat) (fom : Nat)
    (h : ∀ d, Instr.wf (.adaptStep die lane ctle dfe1 fom) = true → (placeOf (.adaptStep die lane ctle dfe1 fom)).up d = true → P d (Dev.laneAfter die lane (fun d => d.laneAdaptStep die lane ctle dfe1 fom) d)) : Effect (.adaptStep die lane ctle dfe1 fom) P :=
  Effect.intro (fun d => Dev.laneAfter die lane (fun d => d.laneAdaptStep die lane ctle dfe1 fom) d) (fun s h => by show execAdaptStep .. = _; unfold execAdaptStep; exact State.onLane_up h) h

theorem Effect.dozeEnter_of {P : Dev → Dev → Prop} (die : Nat) (lane : Nat)
    (h : ∀ d, Instr.wf (.dozeEnter die lane) = true → (placeOf (.dozeEnter die lane)).up d = true → P d (Dev.laneAfter die lane (fun d => d.laneDoze die lane) d)) : Effect (.dozeEnter die lane) P :=
  Effect.intro (fun d => Dev.laneAfter die lane (fun d => d.laneDoze die lane) d) (fun s h => by show execDozeEnter .. = _; unfold execDozeEnter; exact State.onLane_up h) h

theorem Effect.dozeExit_of {P : Dev → Dev → Prop} (die : Nat) (lane : Nat)
    (h : ∀ d, Instr.wf (.dozeExit die lane) = true → (placeOf (.dozeExit die lane)).up d = true → P d (Dev.laneAfter die lane (fun d => d.laneUndoze die lane) d)) : Effect (.dozeExit die lane) P :=
  Effect.intro (fun d => Dev.laneAfter die lane (fun d => d.laneUndoze die lane) d) (fun s h => by show execDozeExit .. = _; unfold execDozeExit; exact State.onLane_up h) h

theorem Effect.dozeRefreshWake_of {P : Dev → Dev → Prop} (die : Nat) (lane : Nat)
    (h : ∀ d, Instr.wf (.dozeRefreshWake die lane) = true → (placeOf (.dozeRefreshWake die lane)).up d = true → P d (Dev.laneAfter die lane (fun d => d.laneRefresh die lane) d)) : Effect (.dozeRefreshWake die lane) P :=
  Effect.intro (fun d => Dev.laneAfter die lane (fun d => d.laneRefresh die lane) d) (fun s h => by show execDozeRefreshWake .. = _; unfold execDozeRefreshWake; exact State.onLane_up h) h

theorem Effect.wakeLockTimeout_of {P : Dev → Dev → Prop} (die : Nat) (lane : Nat)
    (h : ∀ d, Instr.wf (.wakeLockTimeout die lane) = true → (placeOf (.wakeLockTimeout die lane)).up d = true → P d (Dev.laneAfter die lane (fun d => d.laneWakeErr die lane) d)) : Effect (.wakeLockTimeout die lane) P :=
  Effect.intro (fun d => Dev.laneAfter die lane (fun d => d.laneWakeErr die lane) d) (fun s h => by show execWakeLockTimeout .. = _; unfold execWakeLockTimeout; exact State.onLane_up h) h

theorem Effect.signalDetect_of {P : Dev → Dev → Prop} (die : Nat) (lane : Nat)
    (h : ∀ d, Instr.wf (.signalDetect die lane) = true → (placeOf (.signalDetect die lane)).up d = true → P d (Dev.laneAfter die lane (fun d => d.laneDetect die lane) d)) : Effect (.signalDetect die lane) P :=
  Effect.intro (fun d => Dev.laneAfter die lane (fun d => d.laneDetect die lane) d) (fun s h => by show execSignalDetect .. = _; unfold execSignalDetect; exact State.onLane_up h) h

theorem Effect.laneWakeTimeout_of {P : Dev → Dev → Prop} (die : Nat) (lane : Nat)
    (h : ∀ d, Instr.wf (.laneWakeTimeout die lane) = true → (placeOf (.laneWakeTimeout die lane)).up d = true → P d (Dev.laneAfter die lane (fun d => d.laneWakeFail die lane) d)) : Effect (.laneWakeTimeout die lane) P :=
  Effect.intro (fun d => Dev.laneAfter die lane (fun d => d.laneWakeFail die lane) d) (fun s h => by show execLaneWakeTimeout .. = _; unfold execLaneWakeTimeout; exact State.onLane_up h) h

theorem Effect.lossOfSignal_of {P : Dev → Dev → Prop} (die : Nat) (lane : Nat)
    (h : ∀ d, Instr.wf (.lossOfSignal die lane) = true → (placeOf (.lossOfSignal die lane)).up d = true → P d (Dev.laneAfter die lane (fun d => d.laneLos die lane) d)) : Effect (.lossOfSignal die lane) P :=
  Effect.intro (fun d => Dev.laneAfter die lane (fun d => d.laneLos die lane) d) (fun s h => by show execLossOfSignal .. = _; unfold execLossOfSignal; exact State.onLane_up h) h

theorem Effect.portTrain_of {P : Dev → Dev → Prop} (port : Nat)
    (h : ∀ d, Instr.wf (.portTrain port) = true → (placeOf (.portTrain port)).up d = true → P d (d.portCmdWrite port 1)) : Effect (.portTrain port) P :=
  Effect.intro (fun d => d.portCmdWrite port 1) (fun s h => by show execPortTrain .. = _; unfold execPortTrain; exact State.onPort_up h) h

theorem Effect.portHold_of {P : Dev → Dev → Prop} (port : Nat)
    (h : ∀ d, Instr.wf (.portHold port) = true → (placeOf (.portHold port)).up d = true → P d (d.portCmdWrite port 2)) : Effect (.portHold port) P :=
  Effect.intro (fun d => d.portCmdWrite port 2) (fun s h => by show execPortHold .. = _; unfold execPortHold; exact State.onPort_up h) h

theorem Effect.portQualEnd_of {P : Dev → Dev → Prop} (port : Nat)
    (h : ∀ d, Instr.wf (.portQualEnd port) = true → (placeOf (.portQualEnd port)).up d = true → P d (d.portQualEnd port)) : Effect (.portQualEnd port) P :=
  Effect.intro (fun d => d.portQualEnd port) (fun s h => by show execPortQualEnd .. = _; unfold execPortQualEnd; exact State.onPort_up h) h

theorem Effect.frameReceive_of {P : Dev → Dev → Prop} (port : Nat) (idx : Nat)
    (h : ∀ d, Instr.wf (.frameReceive port idx) = true → (placeOf (.frameReceive port idx)).up d = true → P d (d.frameReceive port idx)) : Effect (.frameReceive port idx) P :=
  Effect.intro (fun d => d.frameReceive port idx) (fun s h => by show execFrameReceive .. = _; unfold execFrameReceive; exact State.onPort_up h) h

theorem Effect.linkBlockReceive_of {P : Dev → Dev → Prop} (port : Nat) (idx : Nat)
    (h : ∀ d, Instr.wf (.linkBlockReceive port idx) = true → (placeOf (.linkBlockReceive port idx)).up d = true → P d (d.linkReceive port idx)) : Effect (.linkBlockReceive port idx) P :=
  Effect.intro (fun d => d.linkReceive port idx) (fun s h => by show execLinkBlockReceive .. = _; unfold execLinkBlockReceive; exact State.onPort_up h) h

theorem Effect.frameLossTimeout_of {P : Dev → Dev → Prop} (port : Nat)
    (h : ∀ d, Instr.wf (.frameLossTimeout port) = true → (placeOf (.frameLossTimeout port)).up d = true → P d (d.frameLoss port)) : Effect (.frameLossTimeout port) P :=
  Effect.intro (fun d => d.frameLoss port) (fun s h => by show execFrameLossTimeout .. = _; unfold execFrameLossTimeout; exact State.onPort_up h) h

theorem Effect.frameNakRepeat_of {P : Dev → Dev → Prop} (port : Nat)
    (h : ∀ d, Instr.wf (.frameNakRepeat port) = true → (placeOf (.frameNakRepeat port)).up d = true → P d (d.nakRepeat port)) : Effect (.frameNakRepeat port) P :=
  Effect.intro (fun d => d.nakRepeat port) (fun s h => by show execFrameNakRepeat .. = _; unfold execFrameNakRepeat; exact State.onPort_up h) h

theorem Effect.ackDue_of {P : Dev → Dev → Prop} (port : Nat)
    (h : ∀ d, Instr.wf (.ackDue port) = true → (placeOf (.ackDue port)).up d = true → P d (d.ackDue port)) : Effect (.ackDue port) P :=
  Effect.intro (fun d => d.ackDue port) (fun s h => by show execAckDue .. = _; unfold execAckDue; exact State.onPort_up h) h

theorem Effect.ackTimeoutReplay_of {P : Dev → Dev → Prop} (port : Nat)
    (h : ∀ d, Instr.wf (.ackTimeoutReplay port) = true → (placeOf (.ackTimeoutReplay port)).up d = true → P d (d.ackTimeout port)) : Effect (.ackTimeoutReplay port) P :=
  Effect.intro (fun d => d.ackTimeout port) (fun s h => by show execAckTimeoutReplay .. = _; unfold execAckTimeoutReplay; exact State.onPort_up h) h

theorem Effect.portRetrainComplete_of {P : Dev → Dev → Prop} (port : Nat)
    (h : ∀ d, Instr.wf (.portRetrainComplete port) = true → (placeOf (.portRetrainComplete port)).up d = true → P d (d.retrainDone port)) : Effect (.portRetrainComplete port) P :=
  Effect.intro (fun d => d.retrainDone port) (fun s h => by show execPortRetrainComplete .. = _; unfold execPortRetrainComplete; exact State.onPort_up h) h

theorem Effect.portDozeRequest_of {P : Dev → Dev → Prop} (port : Nat)
    (h : ∀ d, Instr.wf (.portDozeRequest port) = true → (placeOf (.portDozeRequest port)).up d = true → P d (d.portDoze port)) : Effect (.portDozeRequest port) P :=
  Effect.intro (fun d => d.portDoze port) (fun s h => by show execPortDozeRequest .. = _; unfold execPortDozeRequest; exact State.onPort_up h) h

theorem Effect.portSilence_of {P : Dev → Dev → Prop} (port : Nat)
    (h : ∀ d, Instr.wf (.portSilence port) = true → (placeOf (.portSilence port)).up d = true → P d (d.portSilence port)) : Effect (.portSilence port) P :=
  Effect.intro (fun d => d.portSilence port) (fun s h => by show execPortSilence .. = _; unfold execPortSilence; exact State.onPort_up h) h

theorem Effect.linkRequestArrive_of {P : Dev → Dev → Prop} (port : Nat)
    (h : ∀ d, Instr.wf (.linkRequestArrive port) = true → (placeOf (.linkRequestArrive port)).up d = true → P d (d.linkRequest port)) : Effect (.linkRequestArrive port) P :=
  Effect.intro (fun d => d.linkRequest port) (fun s h => by show execLinkRequestArrive .. = _; unfold execLinkRequestArrive; exact State.onPort_up h) h

theorem Effect.linkResponseArrive_of {P : Dev → Dev → Prop} (port : Nat)
    (h : ∀ d, Instr.wf (.linkResponseArrive port) = true → (placeOf (.linkResponseArrive port)).up d = true → P d (d.linkResponse port)) : Effect (.linkResponseArrive port) P :=
  Effect.intro (fun d => d.linkResponse port) (fun s h => by show execLinkResponseArrive .. = _; unfold execLinkResponseArrive; exact State.onPort_up h) h

theorem Effect.remoteRequestTimeout_of {P : Dev → Dev → Prop} (port : Nat) (tag : Nat)
    (h : ∀ d, Instr.wf (.remoteRequestTimeout port tag) = true → (placeOf (.remoteRequestTimeout port tag)).up d = true → P d (d.remoteTimeout port tag)) : Effect (.remoteRequestTimeout port tag) P :=
  Effect.intro (fun d => d.remoteTimeout port tag) (fun s h => by show execRemoteRequestTimeout .. = _; unfold execRemoteRequestTimeout; exact State.onPort_up h) h

theorem Effect.routeWrite_of {P : Dev → Dev → Prop} (die : Nat) (value : Nat)
    (h : ∀ d, Instr.wf (.routeWrite die value) = true → (placeOf (.routeWrite die value)).up d = true → P d (d.routeWrite die value)) : Effect (.routeWrite die value) P :=
  Effect.intro (fun d => d.routeWrite die value) (fun s h => by show execRouteWrite .. = _; unfold execRouteWrite; exact State.onCarrier_up h) h

theorem Effect.routeHoldClear_of {P : Dev → Dev → Prop} (die : Nat) (pkg : Nat)
    (h : ∀ d, Instr.wf (.routeHoldClear die pkg) = true → (placeOf (.routeHoldClear die pkg)).up d = true → P d (d.routeClear die pkg)) : Effect (.routeHoldClear die pkg) P :=
  Effect.intro (fun d => d.routeClear die pkg) (fun s h => by show execRouteHoldClear .. = _; unfold execRouteHoldClear; exact State.onCarrier_up h) h

theorem Effect.ethPortTrain_of {P : Dev → Dev → Prop} (die : Nat) (port : Nat)
    (h : ∀ d, Instr.wf (.ethPortTrain die port) = true → (placeOf (.ethPortTrain die port)).up d = true → P d (d.ethCmdWrite die port 1)) : Effect (.ethPortTrain die port) P :=
  Effect.intro (fun d => d.ethCmdWrite die port 1) (fun s h => by show execEthPortTrain .. = _; unfold execEthPortTrain; exact State.onEth_up h) h

theorem Effect.ethPortHold_of {P : Dev → Dev → Prop} (die : Nat) (port : Nat)
    (h : ∀ d, Instr.wf (.ethPortHold die port) = true → (placeOf (.ethPortHold die port)).up d = true → P d (d.ethCmdWrite die port 2)) : Effect (.ethPortHold die port) P :=
  Effect.intro (fun d => d.ethCmdWrite die port 2) (fun s h => by show execEthPortHold .. = _; unfold execEthPortHold; exact State.onEth_up h) h

theorem Effect.ethLinkupStepEnd_of {P : Dev → Dev → Prop} (die : Nat) (port : Nat) (resolved : Bool)
    (h : ∀ d, Instr.wf (.ethLinkupStepEnd die port resolved) = true → (placeOf (.ethLinkupStepEnd die port resolved)).up d = true → P d (d.ethStepEnd die port resolved)) : Effect (.ethLinkupStepEnd die port resolved) P :=
  Effect.intro (fun d => d.ethStepEnd die port resolved) (fun s h => by show execEthLinkupStepEnd .. = _; unfold execEthLinkupStepEnd; exact State.onEth_up h) h

theorem Effect.ethAnTimeout_of {P : Dev → Dev → Prop} (die : Nat) (port : Nat)
    (h : ∀ d, Instr.wf (.ethAnTimeout die port) = true → (placeOf (.ethAnTimeout die port)).up d = true → P d (d.ethAnTimeout die port)) : Effect (.ethAnTimeout die port) P :=
  Effect.intro (fun d => d.ethAnTimeout die port) (fun s h => by show execEthAnTimeout .. = _; unfold execEthAnTimeout; exact State.onEth_up h) h

theorem Effect.ethUpTimeout_of {P : Dev → Dev → Prop} (die : Nat) (port : Nat)
    (h : ∀ d, Instr.wf (.ethUpTimeout die port) = true → (placeOf (.ethUpTimeout die port)).up d = true → P d (d.ethUpTimeout die port)) : Effect (.ethUpTimeout die port) P :=
  Effect.intro (fun d => d.ethUpTimeout die port) (fun s h => by show execEthUpTimeout .. = _; unfold execEthUpTimeout; exact State.onEth_up h) h

theorem Effect.ethPcsLockLoss_of {P : Dev → Dev → Prop} (die : Nat) (port : Nat)
    (h : ∀ d, Instr.wf (.ethPcsLockLoss die port) = true → (placeOf (.ethPcsLockLoss die port)).up d = true → P d (d.ethLockLoss die port)) : Effect (.ethPcsLockLoss die port) P :=
  Effect.intro (fun d => d.ethLockLoss die port) (fun s h => by show execEthPcsLockLoss .. = _; unfold execEthPcsLockLoss; exact State.onEth_up h) h

theorem Effect.ethFrameReceive_of {P : Dev → Dev → Prop} (die : Nat) (port : Nat) (frame : Bytes)
    (h : ∀ d, Instr.wf (.ethFrameReceive die port frame) = true → (placeOf (.ethFrameReceive die port frame)).up d = true → P d (d.ethReceive die port frame)) : Effect (.ethFrameReceive die port frame) P :=
  Effect.intro (fun d => d.ethReceive die port frame) (fun s h => by show execEthFrameReceive .. = _; unfold execEthFrameReceive; exact State.onEth_up h) h

theorem Effect.pfcReceive_of {P : Dev → Dev → Prop} (die : Nat) (port : Nat)
    (h : ∀ d, Instr.wf (.pfcReceive die port) = true → (placeOf (.pfcReceive die port)).up d = true → P d (d.pfcReceive die port)) : Effect (.pfcReceive die port) P :=
  Effect.intro (fun d => d.pfcReceive die port) (fun s h => by show execPfcReceive .. = _; unfold execPfcReceive; exact State.onEth_up h) h

theorem Effect.pfcRepeat_of {P : Dev → Dev → Prop} (die : Nat) (port : Nat) (prio : Nat)
    (h : ∀ d, Instr.wf (.pfcRepeat die port prio) = true → (placeOf (.pfcRepeat die port prio)).up d = true → P d (d.pfcRepeat die port prio)) : Effect (.pfcRepeat die port prio) P :=
  Effect.intro (fun d => d.pfcRepeat die port prio) (fun s h => by show execPfcRepeat .. = _; unfold execPfcRepeat; exact State.onEth_up h) h

theorem Effect.pauseExpire_of {P : Dev → Dev → Prop} (die : Nat) (port : Nat) (prio : Nat)
    (h : ∀ d, Instr.wf (.pauseExpire die port prio) = true → (placeOf (.pauseExpire die port prio)).up d = true → P d (d.pauseExpire die port prio)) : Effect (.pauseExpire die port prio) P :=
  Effect.intro (fun d => d.pauseExpire die port prio) (fun s h => by show execPauseExpire .. = _; unfold execPauseExpire; exact State.onEth_up h) h

theorem Effect.pfcWatchdog_of {P : Dev → Dev → Prop} (die : Nat) (port : Nat) (prio : Nat)
    (h : ∀ d, Instr.wf (.pfcWatchdog die port prio) = true → (placeOf (.pfcWatchdog die port prio)).up d = true → P d (d.pfcWatchdog die port prio)) : Effect (.pfcWatchdog die port prio) P :=
  Effect.intro (fun d => d.pfcWatchdog die port prio) (fun s h => by show execPfcWatchdog .. = _; unfold execPfcWatchdog; exact State.onEth_up h) h

theorem Effect.pfcWatchdogResume_of {P : Dev → Dev → Prop} (die : Nat) (port : Nat) (prio : Nat)
    (h : ∀ d, Instr.wf (.pfcWatchdogResume die port prio) = true → (placeOf (.pfcWatchdogResume die port prio)).up d = true → P d (d.pfcResume die port prio)) : Effect (.pfcWatchdogResume die port prio) P :=
  Effect.intro (fun d => d.pfcResume die port prio) (fun s h => by show execPfcWatchdogResume .. = _; unfold execPfcWatchdogResume; exact State.onEth_up h) h

theorem Effect.cnpReceive_of {P : Dev → Dev → Prop} (die : Nat) (port : Nat)
    (h : ∀ d, Instr.wf (.cnpReceive die port) = true → (placeOf (.cnpReceive die port)).up d = true → P d (d.cnpReceive die port)) : Effect (.cnpReceive die port) P :=
  Effect.intro (fun d => d.cnpReceive die port) (fun s h => by show execCnpReceive .. = _; unfold execCnpReceive; exact State.onEth_up h) h

theorem Effect.ccRateIncrease_of {P : Dev → Dev → Prop} (qp : Nat)
    (h : ∀ d, Instr.wf (.ccRateIncrease qp) = true → (placeOf (.ccRateIncrease qp)).up d = true → P d (d.rateUp qp)) : Effect (.ccRateIncrease qp) P :=
  Effect.intro (fun d => d.rateUp qp) (fun s h => by show execCcRateIncrease .. = _; unfold execCcRateIncrease; exact State.onCarrier_up h) h

theorem Effect.frameEgress_of {P : Dev → Dev → Prop} (die : Nat) (port : Nat) (cls : Nat)
    (h : ∀ d, Instr.wf (.frameEgress die port cls) = true → (placeOf (.frameEgress die port cls)).up d = true → P d (d.ethEgress die port cls)) : Effect (.frameEgress die port cls) P :=
  Effect.intro (fun d => d.ethEgress die port cls) (fun s h => by show execFrameEgress .. = _; unfold execFrameEgress; exact State.onEth_up h) h

theorem Effect.qpStateWrite_of {P : Dev → Dev → Prop} (die : Nat) (want : Nat)
    (h : ∀ d, Instr.wf (.qpStateWrite die want) = true → (placeOf (.qpStateWrite die want)).up d = true → P d (d.qpState die want)) : Effect (.qpStateWrite die want) P :=
  Effect.intro (fun d => d.qpState die want) (fun s h => by show execQpStateWrite .. = _; unfold execQpStateWrite; exact State.onCarrier_up h) h

theorem Effect.rdmaAckReceive_of {P : Dev → Dev → Prop} (die : Nat) (port : Nat)
    (h : ∀ d, Instr.wf (.rdmaAckReceive die port) = true → (placeOf (.rdmaAckReceive die port)).up d = true → P d (d.rdmaAck die port)) : Effect (.rdmaAckReceive die port) P :=
  Effect.intro (fun d => d.rdmaAck die port) (fun s h => by show execRdmaAckReceive .. = _; unfold execRdmaAckReceive; exact State.onEth_up h) h

theorem Effect.rdmaNakReceive_of {P : Dev → Dev → Prop} (die : Nat) (port : Nat)
    (h : ∀ d, Instr.wf (.rdmaNakReceive die port) = true → (placeOf (.rdmaNakReceive die port)).up d = true → P d (d.rdmaNak die port)) : Effect (.rdmaNakReceive die port) P :=
  Effect.intro (fun d => d.rdmaNak die port) (fun s h => by show execRdmaNakReceive .. = _; unfold execRdmaNakReceive; exact State.onEth_up h) h

theorem Effect.rdmaReadResponse_of {P : Dev → Dev → Prop} (die : Nat) (port : Nat)
    (h : ∀ d, Instr.wf (.rdmaReadResponse die port) = true → (placeOf (.rdmaReadResponse die port)).up d = true → P d (d.rdmaReadRsp die port)) : Effect (.rdmaReadResponse die port) P :=
  Effect.intro (fun d => d.rdmaReadRsp die port) (fun s h => by show execRdmaReadResponse .. = _; unfold execRdmaReadResponse; exact State.onEth_up h) h

theorem Effect.rdmaRetransmitTimeout_of {P : Dev → Dev → Prop} (qp : Nat)
    (h : ∀ d, Instr.wf (.rdmaRetransmitTimeout qp) = true → (placeOf (.rdmaRetransmitTimeout qp)).up d = true → P d (d.qpTimeout qp)) : Effect (.rdmaRetransmitTimeout qp) P :=
  Effect.intro (fun d => d.qpTimeout qp) (fun s h => by show execRdmaRetransmitTimeout .. = _; unfold execRdmaRetransmitTimeout; exact State.onCarrier_up h) h

theorem Effect.rdmaWrite_of {P : Dev → Dev → Prop} (die : Nat) (port : Nat)
    (h : ∀ d, Instr.wf (.rdmaWrite die port) = true → (placeOf (.rdmaWrite die port)).up d = true → P d (d.rdmaWrite die port)) : Effect (.rdmaWrite die port) P :=
  Effect.intro (fun d => d.rdmaWrite die port) (fun s h => by show execRdmaWrite .. = _; unfold execRdmaWrite; exact State.onEth_up h) h

theorem Effect.rdmaRead_of {P : Dev → Dev → Prop} (die : Nat) (port : Nat)
    (h : ∀ d, Instr.wf (.rdmaRead die port) = true → (placeOf (.rdmaRead die port)).up d = true → P d (d.rdmaRead die port)) : Effect (.rdmaRead die port) P :=
  Effect.intro (fun d => d.rdmaRead die port) (fun s h => by show execRdmaRead .. = _; unfold execRdmaRead; exact State.onEth_up h) h

theorem Effect.sendIn_of {P : Dev → Dev → Prop} (die : Nat) (port : Nat)
    (h : ∀ d, Instr.wf (.sendIn die port) = true → (placeOf (.sendIn die port)).up d = true → P d (d.rdmaSend die port)) : Effect (.sendIn die port) P :=
  Effect.intro (fun d => d.rdmaSend die port) (fun s h => by show execSendIn .. = _; unfold execSendIn; exact State.onEth_up h) h

theorem Effect.mailboxRequest_of {P : Dev → Dev → Prop} (die : Nat) (port : Nat)
    (h : ∀ d, Instr.wf (.mailboxRequest die port) = true → (placeOf (.mailboxRequest die port)).up d = true → P d (d.mbxRequest die port)) : Effect (.mailboxRequest die port) P :=
  Effect.intro (fun d => d.mbxRequest die port) (fun s h => by show execMailboxRequest .. = _; unfold execMailboxRequest; exact State.onEth_up h) h

theorem Effect.replySend_of {P : Dev → Dev → Prop} (by_ : Nat) (die : Nat) (len : Nat)
    (h : ∀ d, Instr.wf (.replySend by_ die len) = true → (placeOf (.replySend by_ die len)).up d = true → P d (d.octlWrite die by_ (len + 2 ^ 16))) : Effect (.replySend by_ die len) P :=
  Effect.intro (fun d => d.octlWrite die by_ (len + 2 ^ 16)) (fun s h => by show execReplySend .. = _; unfold execReplySend; exact State.onCarrier_up h) h

theorem Effect.eventSend_of {P : Dev → Dev → Prop} (by_ : Nat) (die : Nat) (sub : Nat) (len : Nat)
    (h : ∀ d, Instr.wf (.eventSend by_ die sub len) = true → (placeOf (.eventSend by_ die sub len)).up d = true → P d (d.ectlWrite die by_ (len + 2 ^ 13 * sub + 2 ^ 16))) : Effect (.eventSend by_ die sub len) P :=
  Effect.intro (fun d => d.ectlWrite die by_ (len + 2 ^ 13 * sub + 2 ^ 16)) (fun s h => by show execEventSend .. = _; unfold execEventSend; exact State.onCarrier_up h) h

theorem Effect.identify_of {P : Dev → Dev → Prop} (die : Nat) (n : Nat) (again : Bool)
    (h : ∀ d, Instr.wf (.identify die n again) = true → (placeOf (.identify die n again)).up d = true → P d (d.helRun die n again cmdIdentify)) : Effect (.identify die n again) P :=
  Effect.intro (fun d => d.helRun die n again cmdIdentify) (fun s h => by show execIdentify .. = _; unfold execIdentify; exact State.onCarrier_up h) h

theorem Effect.attest_of {P : Dev → Dev → Prop} (die : Nat) (n : Nat) (again : Bool)
    (h : ∀ d, Instr.wf (.attest die n again) = true → (placeOf (.attest die n again)).up d = true → P d (d.helRun die n again cmdAttest)) : Effect (.attest die n again) P :=
  Effect.intro (fun d => d.helRun die n again cmdAttest) (fun s h => by show execAttest .. = _; unfold execAttest; exact State.onCarrier_up h) h

theorem Effect.sessionOpenStep1_of {P : Dev → Dev → Prop} (die : Nat) (n : Nat)
    (h : ∀ d, Instr.wf (.sessionOpenStep1 die n) = true → (placeOf (.sessionOpenStep1 die n)).up d = true → P d (d.sessRun die n false)) : Effect (.sessionOpenStep1 die n) P :=
  Effect.intro (fun d => d.sessRun die n false) (fun s h => by show execSessionOpenStep1 .. = _; unfold execSessionOpenStep1; exact State.onCarrier_up h) h

theorem Effect.sessionOpenStep2_of {P : Dev → Dev → Prop} (die : Nat) (n : Nat)
    (h : ∀ d, Instr.wf (.sessionOpenStep2 die n) = true → (placeOf (.sessionOpenStep2 die n)).up d = true → P d (d.sessRun die n true)) : Effect (.sessionOpenStep2 die n) P :=
  Effect.intro (fun d => d.sessRun die n true) (fun s h => by show execSessionOpenStep2 .. = _; unfold execSessionOpenStep2; exact State.onCarrier_up h) h

theorem Effect.sessionOpenTimeout_of {P : Dev → Dev → Prop} (die : Nat) (n : Nat)
    (h : ∀ d, Instr.wf (.sessionOpenTimeout die n) = true → (placeOf (.sessionOpenTimeout die n)).up d = true → P d (d.sessTimeout die n)) : Effect (.sessionOpenTimeout die n) P :=
  Effect.intro (fun d => d.sessTimeout die n) (fun s h => by show execSessionOpenTimeout .. = _; unfold execSessionOpenTimeout; exact State.onCarrier_up h) h

theorem Effect.sessionClose_of {P : Dev → Dev → Prop} (die : Nat) (n : Nat) (again : Bool)
    (h : ∀ d, Instr.wf (.sessionClose die n again) = true → (placeOf (.sessionClose die n again)).up d = true → P d (d.helRun die n again cmdClose)) : Effect (.sessionClose die n again) P :=
  Effect.intro (fun d => d.helRun die n again cmdClose) (fun s h => by show execSessionClose .. = _; unfold execSessionClose; exact State.onCarrier_up h) h

theorem Effect.powerSet_of {P : Dev → Dev → Prop} (die : Nat) (n : Nat) (again : Bool) (ovr : Bool)
    (h : ∀ d, Instr.wf (.powerSet die n again ovr) = true → (placeOf (.powerSet die n again ovr)).up d = true → P d (d.helRun die n again (cmdPower ovr))) : Effect (.powerSet die n again ovr) P :=
  Effect.intro (fun d => d.helRun die n again (cmdPower ovr)) (fun s h => by show execPowerSet .. = _; unfold execPowerSet; exact State.onCarrier_up h) h

theorem Effect.powerQuery_of {P : Dev → Dev → Prop} (die : Nat) (n : Nat) (again : Bool)
    (h : ∀ d, Instr.wf (.powerQuery die n again) = true → (placeOf (.powerQuery die n again)).up d = true → P d (d.helRun die n again cmdPowerQuery)) : Effect (.powerQuery die n again) P :=
  Effect.intro (fun d => d.helRun die n again cmdPowerQuery) (fun s h => by show execPowerQuery .. = _; unfold execPowerQuery; exact State.onCarrier_up h) h

theorem Effect.partitionCreate_of {P : Dev → Dev → Prop} (die : Nat) (n : Nat) (again : Bool)
    (h : ∀ d, Instr.wf (.partitionCreate die n again) = true → (placeOf (.partitionCreate die n again)).up d = true → P d (d.helRun die n again cmdCreate)) : Effect (.partitionCreate die n again) P :=
  Effect.intro (fun d => d.helRun die n again cmdCreate) (fun s h => by show execPartitionCreate .. = _; unfold execPartitionCreate; exact State.onCarrier_up h) h

theorem Effect.partitionDestroy_of {P : Dev → Dev → Prop} (die : Nat) (n : Nat) (again : Bool)
    (h : ∀ d, Instr.wf (.partitionDestroy die n again) = true → (placeOf (.partitionDestroy die n again)).up d = true → P d (d.helRun die n again cmdDestroy)) : Effect (.partitionDestroy die n again) P :=
  Effect.intro (fun d => d.helRun die n again cmdDestroy) (fun s h => by show execPartitionDestroy .. = _; unfold execPartitionDestroy; exact State.onCarrier_up h) h

theorem Effect.partitionReset_of {P : Dev → Dev → Prop} (die : Nat) (n : Nat) (again : Bool)
    (h : ∀ d, Instr.wf (.partitionReset die n again) = true → (placeOf (.partitionReset die n again)).up d = true → P d (d.helRun die n again cmdReset)) : Effect (.partitionReset die n again) P :=
  Effect.intro (fun d => d.helRun die n again cmdReset) (fun s h => by show execPartitionReset .. = _; unfold execPartitionReset; exact State.onCarrier_up h) h

theorem Effect.partitionQuery_of {P : Dev → Dev → Prop} (die : Nat) (n : Nat) (again : Bool)
    (h : ∀ d, Instr.wf (.partitionQuery die n again) = true → (placeOf (.partitionQuery die n again)).up d = true → P d (d.helRun die n again cmdPartQuery)) : Effect (.partitionQuery die n again) P :=
  Effect.intro (fun d => d.helRun die n again cmdPartQuery) (fun s h => by show execPartitionQuery .. = _; unfold execPartitionQuery; exact State.onCarrier_up h) h

theorem Effect.mapSync_of {P : Dev → Dev → Prop} (die : Nat) (n : Nat) (again : Bool)
    (h : ∀ d, Instr.wf (.mapSync die n again) = true → (placeOf (.mapSync die n again)).up d = true → P d (d.helRun die n again cmdMapSync)) : Effect (.mapSync die n again) P :=
  Effect.intro (fun d => d.helRun die n again cmdMapSync) (fun s h => by show execMapSync .. = _; unfold execMapSync; exact State.onCarrier_up h) h

theorem Effect.rekey_of {P : Dev → Dev → Prop} (die : Nat) (n : Nat) (again : Bool)
    (h : ∀ d, Instr.wf (.rekey die n again) = true → (placeOf (.rekey die n again)).up d = true → P d (d.helRun die n again cmdRekey)) : Effect (.rekey die n again) P :=
  Effect.intro (fun d => d.helRun die n again cmdRekey) (fun s h => by show execRekey .. = _; unfold execRekey; exact State.onCarrier_up h) h

theorem Effect.faultResume_of {P : Dev → Dev → Prop} (die : Nat) (n : Nat) (again : Bool)
    (h : ∀ d, Instr.wf (.faultResume die n again) = true → (placeOf (.faultResume die n again)).up d = true → P d (d.helRun die n again cmdResume)) : Effect (.faultResume die n again) P :=
  Effect.intro (fun d => d.helRun die n again cmdResume) (fun s h => by show execFaultResume .. = _; unfold execFaultResume; exact State.onCarrier_up h) h

theorem Effect.planLoad_of {P : Dev → Dev → Prop} (die : Nat) (n : Nat) (again : Bool) (far : List Bytes)
    (h : ∀ d, Instr.wf (.planLoad die n again far) = true → (placeOf (.planLoad die n again far)).up d = true → P d (d.helRun die n again (cmdLoad far))) : Effect (.planLoad die n again far) P :=
  Effect.intro (fun d => d.helRun die n again (cmdLoad far)) (fun s h => by show execPlanLoad .. = _; unfold execPlanLoad; exact State.onCarrier_up h) h

theorem Effect.planStart_of {P : Dev → Dev → Prop} (die : Nat) (n : Nat) (again : Bool)
    (h : ∀ d, Instr.wf (.planStart die n again) = true → (placeOf (.planStart die n again)).up d = true → P d (d.helRun die n again cmdStart)) : Effect (.planStart die n again) P :=
  Effect.intro (fun d => d.helRun die n again cmdStart) (fun s h => by show execPlanStart .. = _; unfold execPlanStart; exact State.onCarrier_up h) h

theorem Effect.planDone_of {P : Dev → Dev → Prop} (die : Nat) (n : Nat)
    (h : ∀ d, Instr.wf (.planDone die n) = true → (placeOf (.planDone die n)).up d = true → P d (d.planDone die n)) : Effect (.planDone die n) P :=
  Effect.intro (fun d => d.planDone die n) (fun s h => by show execPlanDone .. = _; unfold execPlanDone; exact State.onCarrier_up h) h

theorem Effect.planAbort_of {P : Dev → Dev → Prop} (die : Nat) (n : Nat) (again : Bool)
    (h : ∀ d, Instr.wf (.planAbort die n again) = true → (placeOf (.planAbort die n again)).up d = true → P d (d.helRun die n again cmdAbort)) : Effect (.planAbort die n again) P :=
  Effect.intro (fun d => d.helRun die n again cmdAbort) (fun s h => by show execPlanAbort .. = _; unfold execPlanAbort; exact State.onCarrier_up h) h

theorem Effect.planStatus_of {P : Dev → Dev → Prop} (die : Nat) (n : Nat) (again : Bool)
    (h : ∀ d, Instr.wf (.planStatus die n again) = true → (placeOf (.planStatus die n again)).up d = true → P d (d.helRun die n again cmdStatus)) : Effect (.planStatus die n again) P :=
  Effect.intro (fun d => d.helRun die n again cmdStatus) (fun s h => by show execPlanStatus .. = _; unfold execPlanStatus; exact State.onCarrier_up h) h

theorem Effect.faultRead_of {P : Dev → Dev → Prop} (die : Nat) (n : Nat) (again : Bool)
    (h : ∀ d, Instr.wf (.faultRead die n again) = true → (placeOf (.faultRead die n again)).up d = true → P d (d.helRun die n again cmdFaultRead)) : Effect (.faultRead die n again) P :=
  Effect.intro (fun d => d.helRun die n again cmdFaultRead) (fun s h => by show execFaultRead .. = _; unfold execFaultRead; exact State.onCarrier_up h) h

theorem Effect.eventSubscribe_of {P : Dev → Dev → Prop} (die : Nat) (n : Nat) (again : Bool)
    (h : ∀ d, Instr.wf (.eventSubscribe die n again) = true → (placeOf (.eventSubscribe die n again)).up d = true → P d (d.helRun die n again cmdSubscribe)) : Effect (.eventSubscribe die n again) P :=
  Effect.intro (fun d => d.helRun die n again cmdSubscribe) (fun s h => by show execEventSubscribe .. = _; unfold execEventSubscribe; exact State.onCarrier_up h) h

theorem Effect.linkStatus_of {P : Dev → Dev → Prop} (die : Nat) (n : Nat) (again : Bool)
    (h : ∀ d, Instr.wf (.linkStatus die n again) = true → (placeOf (.linkStatus die n again)).up d = true → P d (d.helRun die n again cmdLinkStatus)) : Effect (.linkStatus die n again) P :=
  Effect.intro (fun d => d.helRun die n again cmdLinkStatus) (fun s h => by show execLinkStatus .. = _; unfold execLinkStatus; exact State.onCarrier_up h) h

theorem Effect.linkRetrain_of {P : Dev → Dev → Prop} (die : Nat) (n : Nat) (again : Bool)
    (h : ∀ d, Instr.wf (.linkRetrain die n again) = true → (placeOf (.linkRetrain die n again)).up d = true → P d (d.helRun die n again cmdLinkRetrain)) : Effect (.linkRetrain die n again) P :=
  Effect.intro (fun d => d.helRun die n again cmdLinkRetrain) (fun s h => by show execLinkRetrain .. = _; unfold execLinkRetrain; exact State.onCarrier_up h) h

theorem Effect.routeSetRoutes_of {P : Dev → Dev → Prop} (die : Nat) (n : Nat)
    (h : ∀ d, Instr.wf (.routeSetRoutes die n) = true → (placeOf (.routeSetRoutes die n)).up d = true → P d (d.routeRun die n false)) : Effect (.routeSetRoutes die n) P :=
  Effect.intro (fun d => d.routeRun die n false) (fun s h => by show execRouteSetRoutes .. = _; unfold execRouteSetRoutes; exact State.onCarrier_up h) h

theorem Effect.routeSetKnuckles_of {P : Dev → Dev → Prop} (die : Nat) (n : Nat)
    (h : ∀ d, Instr.wf (.routeSetKnuckles die n) = true → (placeOf (.routeSetKnuckles die n)).up d = true → P d (d.routeRun die n true)) : Effect (.routeSetKnuckles die n) P :=
  Effect.intro (fun d => d.routeRun die n true) (fun s h => by show execRouteSetKnuckles .. = _; unfold execRouteSetKnuckles; exact State.onCarrier_up h) h

theorem Effect.marginReport_of {P : Dev → Dev → Prop} (die : Nat) (n : Nat) (again : Bool)
    (h : ∀ d, Instr.wf (.marginReport die n again) = true → (placeOf (.marginReport die n again)).up d = true → P d (d.helRun die n again cmdMarginReport)) : Effect (.marginReport die n again) P :=
  Effect.intro (fun d => d.helRun die n again cmdMarginReport) (fun s h => by show execMarginReport .. = _; unfold execMarginReport; exact State.onCarrier_up h) h

theorem Effect.marginApply_of {P : Dev → Dev → Prop} (die : Nat) (n : Nat) (again : Bool)
    (h : ∀ d, Instr.wf (.marginApply die n again) = true → (placeOf (.marginApply die n again)).up d = true → P d (d.helRun die n again cmdMarginApply)) : Effect (.marginApply die n again) P :=
  Effect.intro (fun d => d.helRun die n again cmdMarginApply) (fun s h => by show execMarginApply .. = _; unfold execMarginApply; exact State.onCarrier_up h) h

theorem Effect.fwStage_of {P : Dev → Dev → Prop} (die : Nat) (n : Nat) (again : Bool)
    (h : ∀ d, Instr.wf (.fwStage die n again) = true → (placeOf (.fwStage die n again)).up d = true → P d (d.helRun die n again cmdStage)) : Effect (.fwStage die n again) P :=
  Effect.intro (fun d => d.helRun die n again cmdStage) (fun s h => by show execFwStage .. = _; unfold execFwStage; exact State.onCarrier_up h) h

theorem Effect.fwCommit_of {P : Dev → Dev → Prop} (die : Nat) (n : Nat) (again : Bool) (bad : Bool)
    (h : ∀ d, Instr.wf (.fwCommit die n again bad) = true → (placeOf (.fwCommit die n again bad)).up d = true → P d (d.helRun die n again (cmdCommit bad))) : Effect (.fwCommit die n again bad) P :=
  Effect.intro (fun d => d.helRun die n again (cmdCommit bad)) (fun s h => by show execFwCommit .. = _; unfold execFwCommit; exact State.onCarrier_up h) h

theorem Effect.coreRetest_of {P : Dev → Dev → Prop} (die : Nat) (n : Nat) (again : Bool) (pass : Bool)
    (h : ∀ d, Instr.wf (.coreRetest die n again pass) = true → (placeOf (.coreRetest die n again pass)).up d = true → P d (d.helRun die n again (cmdRetest pass))) : Effect (.coreRetest die n again pass) P :=
  Effect.intro (fun d => d.helRun die n again (cmdRetest pass)) (fun s h => by show execCoreRetest .. = _; unfold execCoreRetest; exact State.onCarrier_up h) h

theorem Effect.spareMap_of {P : Dev → Dev → Prop} (die : Nat) (n : Nat) (again : Bool)
    (h : ∀ d, Instr.wf (.spareMap die n again) = true → (placeOf (.spareMap die n again)).up d = true → P d (d.helRun die n again cmdSpare)) : Effect (.spareMap die n again) P :=
  Effect.intro (fun d => d.helRun die n again cmdSpare) (fun s h => by show execSpareMap .. = _; unfold execSpareMap; exact State.onCarrier_up h) h

theorem Effect.memtest_of {P : Dev → Dev → Prop} (die : Nat) (n : Nat) (again : Bool)
    (h : ∀ d, Instr.wf (.memtest die n again) = true → (placeOf (.memtest die n again)).up d = true → P d (d.helRun die n again cmdMemtest)) : Effect (.memtest die n again) P :=
  Effect.intro (fun d => d.helRun die n again cmdMemtest) (fun s h => by show execMemtest .. = _; unfold execMemtest; exact State.onCarrier_up h) h

theorem Effect.blankReport_of {P : Dev → Dev → Prop} (die : Nat) (n : Nat) (again : Bool)
    (h : ∀ d, Instr.wf (.blankReport die n again) = true → (placeOf (.blankReport die n again)).up d = true → P d (d.helRun die n again cmdBlank)) : Effect (.blankReport die n again) P :=
  Effect.intro (fun d => d.helRun die n again cmdBlank) (fun s h => by show execBlankReport .. = _; unfold execBlankReport; exact State.onCarrier_up h) h

theorem Effect.deferredCommandRun_of {P : Dev → Dev → Prop} (die : Nat) (n : Nat) (ovr : Bool)
    (h : ∀ d, Instr.wf (.deferredCommandRun die n ovr) = true → (placeOf (.deferredCommandRun die n ovr)).up d = true → P d (d.deferredRun die n ovr)) : Effect (.deferredCommandRun die n ovr) P :=
  Effect.intro (fun d => d.deferredRun die n ovr) (fun s h => by show execDeferredCommandRun .. = _; unfold execDeferredCommandRun; exact State.onCarrier_up h) h

theorem Effect.leadHeartbeat_of {P : Dev → Dev → Prop} (die : Nat)
    (h : ∀ d, Instr.wf (.leadHeartbeat die) = true → (placeOf (.leadHeartbeat die)).up d = true → P d (d.heartbeat die)) : Effect (.leadHeartbeat die) P :=
  Effect.intro (fun d => d.heartbeat die) (fun s h => by show execLeadHeartbeat .. = _; unfold execLeadHeartbeat; exact State.onCarrier_up h) h

theorem Effect.electionStart_of {P : Dev → Dev → Prop} (die : Nat)
    (h : ∀ d, Instr.wf (.electionStart die) = true → (placeOf (.electionStart die)).up d = true → P d (d.electionStart die)) : Effect (.electionStart die) P :=
  Effect.intro (fun d => d.electionStart die) (fun s h => by show execElectionStart .. = _; unfold execElectionStart; exact State.onCarrier_up h) h

theorem Effect.electionPropose_of {P : Dev → Dev → Prop} (die : Nat)
    (h : ∀ d, Instr.wf (.electionPropose die) = true → (placeOf (.electionPropose die)).up d = true → P d (d.electionPropose die)) : Effect (.electionPropose die) P :=
  Effect.intro (fun d => d.electionPropose die) (fun s h => by show execElectionPropose .. = _; unfold execElectionPropose; exact State.onCarrier_up h) h

theorem Effect.leadOnlyMessage_of {P : Dev → Dev → Prop} (by_ : Nat) (die : Nat) (off : Nat) (value : Nat) (write : Bool)
    (h : ∀ d, Instr.wf (.leadOnlyMessage by_ die off value write) = true → (placeOf (.leadOnlyMessage by_ die off value write)).up d = true → P d (d.leadMessage by_ die off value write)) : Effect (.leadOnlyMessage by_ die off value write) P :=
  Effect.intro (fun d => d.leadMessage by_ die off value write) (fun s h => by show execLeadOnlyMessage .. = _; unfold execLeadOnlyMessage; exact State.onCarrier_up h) h

theorem Effect.leadMessageTimeout_of {P : Dev → Dev → Prop} (die : Nat) (n : Nat)
    (h : ∀ d, Instr.wf (.leadMessageTimeout die n) = true → (placeOf (.leadMessageTimeout die n)).up d = true → P d (d.helTimeout die n)) : Effect (.leadMessageTimeout die n) P :=
  Effect.intro (fun d => d.helTimeout die n) (fun s h => by show execLeadMessageTimeout .. = _; unfold execLeadMessageTimeout; exact State.onCarrier_up h) h

theorem Effect.nonceGet_of {P : Dev → Dev → Prop} (die : Nat) (fails : Nat)
    (h : ∀ d, Instr.wf (.nonceGet die fails) = true → (placeOf (.nonceGet die fails)).up d = true → P d (d.wardUpdate die 0 fails)) : Effect (.nonceGet die fails) P :=
  Effect.intro (fun d => d.wardUpdate die 0 fails) (fun s h => by show execNonceGet .. = _; unfold execNonceGet; exact State.onCarrier_up h) h

theorem Effect.wardSet_of {P : Dev → Dev → Prop} (die : Nat) (fails : Nat)
    (h : ∀ d, Instr.wf (.wardSet die fails) = true → (placeOf (.wardSet die fails)).up d = true → P d (d.wardUpdate die 1 fails)) : Effect (.wardSet die fails) P :=
  Effect.intro (fun d => d.wardUpdate die 1 fails) (fun s h => by show execWardSet .. = _; unfold execWardSet; exact State.onCarrier_up h) h

theorem Effect.hostKey_of {P : Dev → Dev → Prop} (die : Nat) (fails : Nat)
    (h : ∀ d, Instr.wf (.hostKey die fails) = true → (placeOf (.hostKey die fails)).up d = true → P d (d.wardUpdate die 2 fails)) : Effect (.hostKey die fails) P :=
  Effect.intro (fun d => d.wardUpdate die 2 fails) (fun s h => by show execHostKey .. = _; unfold execHostKey; exact State.onCarrier_up h) h

theorem Effect.provision_of {P : Dev → Dev → Prop} (die : Nat) (fails : Nat)
    (h : ∀ d, Instr.wf (.provision die fails) = true → (placeOf (.provision die fails)).up d = true → P d (d.wardUpdate die 3 fails)) : Effect (.provision die fails) P :=
  Effect.intro (fun d => d.wardUpdate die 3 fails) (fun s h => by show execProvision .. = _; unfold execProvision; exact State.onCarrier_up h) h

theorem Effect.rotate_of {P : Dev → Dev → Prop} (die : Nat) (fails : Nat)
    (h : ∀ d, Instr.wf (.rotate die fails) = true → (placeOf (.rotate die fails)).up d = true → P d (d.wardUpdate die 4 fails)) : Effect (.rotate die fails) P :=
  Effect.intro (fun d => d.wardUpdate die 4 fails) (fun s h => by show execRotate .. = _; unfold execRotate; exact State.onCarrier_up h) h

theorem Effect.rollback_of {P : Dev → Dev → Prop} (die : Nat) (fails : Nat)
    (h : ∀ d, Instr.wf (.rollback die fails) = true → (placeOf (.rollback die fails)).up d = true → P d (d.wardUpdate die 5 fails)) : Effect (.rollback die fails) P :=
  Effect.intro (fun d => d.wardUpdate die 5 fails) (fun s h => by show execRollback .. = _; unfold execRollback; exact State.onCarrier_up h) h

theorem Effect.romBoot_of {P : Dev → Dev → Prop} (die : Nat) (banks : List ((Nat × Nat) × Bytes))
    (h : ∀ d, Instr.wf (.romBoot die banks) = true → (placeOf (.romBoot die banks)).up d = true → P d (d.boot die banks)) : Effect (.romBoot die banks) P :=
  Effect.intro (fun d => d.boot die banks) (fun s h => by show execRomBoot .. = _; unfold execRomBoot; exact State.onCarrier_up h) h

theorem Effect.bootlockSet_of {P : Dev → Dev → Prop} (die : Nat)
    (h : ∀ d, Instr.wf (.bootlockSet die) = true → (placeOf (.bootlockSet die)).up d = true → P d (d.bootLock die)) : Effect (.bootlockSet die) P :=
  Effect.intro (fun d => d.bootLock die) (fun s h => by show execBootlockSet .. = _; unfold execBootlockSet; exact State.onAon_up h) h

theorem Effect.wardAttest_of {P : Dev → Dev → Prop} (die : Nat)
    (h : ∀ d, Instr.wf (.wardAttest die) = true → (placeOf (.wardAttest die)).up d = true → P d (d.opctlWrite die (1 + 2 ^ 4))) : Effect (.wardAttest die) P :=
  Effect.intro (fun d => d.opctlWrite die (1 + 2 ^ 4)) (fun s h => by show execWardAttest .. = _; unfold execWardAttest; exact State.onAon_up h) h

theorem Effect.wardKeyx_of {P : Dev → Dev → Prop} (die : Nat)
    (h : ∀ d, Instr.wf (.wardKeyx die) = true → (placeOf (.wardKeyx die)).up d = true → P d (d.opctlWrite die (2 + 2 ^ 4))) : Effect (.wardKeyx die) P :=
  Effect.intro (fun d => d.opctlWrite die (2 + 2 ^ 4)) (fun s h => by show execWardKeyx .. = _; unfold execWardKeyx; exact State.onAon_up h) h

theorem Effect.wardOpComplete_of {P : Dev → Dev → Prop} (die : Nat)
    (h : ∀ d, Instr.wf (.wardOpComplete die) = true → (placeOf (.wardOpComplete die)).up d = true → P d (d.wardOpDone die)) : Effect (.wardOpComplete die) P :=
  Effect.intro (fun d => d.wardOpDone die) (fun s h => by show execWardOpComplete .. = _; unfold execWardOpComplete; exact State.onAon_up h) h

theorem Effect.measExtend_of {P : Dev → Dev → Prop} (die : Nat)
    (h : ∀ d, Instr.wf (.measExtend die) = true → (placeOf (.measExtend die)).up d = true → P d (d.measExtend die)) : Effect (.measExtend die) P :=
  Effect.intro (fun d => d.measExtend die) (fun s h => by show execMeasExtend .. = _; unfold execMeasExtend; exact State.onAon_up h) h

theorem Effect.epochWrite_of {P : Dev → Dev → Prop} (die : Nat) (value : Nat)
    (h : ∀ d, Instr.wf (.epochWrite die value) = true → (placeOf (.epochWrite die value)).up d = true → P d (d.epochWrite die value)) : Effect (.epochWrite die value) P :=
  Effect.intro (fun d => d.epochWrite die value) (fun s h => by show execEpochWrite .. = _; unfold execEpochWrite; exact State.onAon_up h) h

theorem Effect.wardDebug_of {P : Dev → Dev → Prop} (die : Nat) (token : Bytes)
    (h : ∀ d, Instr.wf (.wardDebug die token) = true → (placeOf (.wardDebug die token)).up d = true → P d (d.wardDebug die token)) : Effect (.wardDebug die token) P :=
  Effect.intro (fun d => d.wardDebug die token) (fun s h => by show execWardDebug .. = _; unfold execWardDebug; exact State.onAon_up h) h

theorem Effect.powerSequencerGo_of {P : Dev → Dev → Prop} (die : Nat) (target : Nat)
    (h : ∀ d, Instr.wf (.powerSequencerGo die target) = true → (placeOf (.powerSequencerGo die target)).up d = true → P d (d.pdctlWrite die (target + 2 ^ 3))) : Effect (.powerSequencerGo die target) P :=
  Effect.intro (fun d => d.pdctlWrite die (target + 2 ^ 3)) (fun s h => by show execPowerSequencerGo .. = _; unfold execPowerSequencerGo; exact State.onAon_up h) h

theorem Effect.powerStepComplete_of {P : Dev → Dev → Prop} (die : Nat) (fails : Nat) (repairs : List (List Bool))
    (h : ∀ d, Instr.wf (.powerStepComplete die fails repairs) = true → (placeOf (.powerStepComplete die fails repairs)).up d = true → P d (d.pwStep die fails repairs)) : Effect (.powerStepComplete die fails repairs) P :=
  Effect.intro (fun d => d.pwStep die fails repairs) (fun s h => by show execPowerStepComplete .. = _; unfold execPowerStepComplete; exact State.onAon_up h) h

theorem Effect.wakeRequest_of {P : Dev → Dev → Prop} (die : Nat)
    (h : ∀ d, Instr.wf (.wakeRequest die) = true → (placeOf (.wakeRequest die)).up d = true → P d (d.wake die)) : Effect (.wakeRequest die) P :=
  Effect.intro (fun d => d.wake die) (fun s h => by show execWakeRequest .. = _; unfold execWakeRequest; exact State.onAon_up h) h

theorem Effect.dieReset_of {P : Dev → Dev → Prop} (die : Nat)
    (h : ∀ d, Instr.wf (.dieReset die) = true → (placeOf (.dieReset die)).up d = true → P d (d.dieReset die)) : Effect (.dieReset die) P :=
  Effect.intro (fun d => d.dieReset die) (fun s h => by show execDieReset .. = _; unfold execDieReset; exact State.onAon_up h) h

theorem Effect.powerGoodRise_of {P : Dev → Dev → Prop} (die : Nat) (resetLow : Bool)
    (h : ∀ d, Instr.wf (.powerGoodRise die resetLow) = true → (placeOf (.powerGoodRise die resetLow)).up d = true → P d (d.powerRise die resetLow)) : Effect (.powerGoodRise die resetLow) P :=
  Effect.intro (fun d => d.powerRise die resetLow) (fun s h => by show execPowerGoodRise .. = _; unfold execPowerGoodRise; exact State.onDie_up h) h

theorem Effect.powerGoodFall_of {P : Dev → Dev → Prop} (die : Nat)
    (h : ∀ d, Instr.wf (.powerGoodFall die) = true → (placeOf (.powerGoodFall die)).up d = true → P d (d.powerFall die)) : Effect (.powerGoodFall die) P :=
  Effect.intro (fun d => d.powerFall die) (fun s h => by show execPowerGoodFall .. = _; unfold execPowerGoodFall; exact State.onDie_up h) h

theorem Effect.junctionSample_of {P : Dev → Dev → Prop} (die : Nat) (tj : Nat)
    (h : ∀ d, Instr.wf (.junctionSample die tj) = true → (placeOf (.junctionSample die tj)).up d = true → P d (d.tjSample die tj)) : Effect (.junctionSample die tj) P :=
  Effect.intro (fun d => d.tjSample die tj) (fun s h => by show execJunctionSample .. = _; unfold execJunctionSample; exact State.onAon_up h) h

theorem Effect.throttleStep_of {P : Dev → Dev → Prop} (die : Nat) (cause : Nat)
    (h : ∀ d, Instr.wf (.throttleStep die cause) = true → (placeOf (.throttleStep die cause)).up d = true → P d (d.thrStep die cause)) : Effect (.throttleStep die cause) P :=
  Effect.intro (fun d => d.thrStep die cause) (fun s h => by show execThrottleStep .. = _; unfold execThrottleStep; exact State.onAon_up h) h

theorem Effect.throttleReleaseStep_of {P : Dev → Dev → Prop} (die : Nat) (cause : Nat)
    (h : ∀ d, Instr.wf (.throttleReleaseStep die cause) = true → (placeOf (.throttleReleaseStep die cause)).up d = true → P d (d.thrRelease die cause)) : Effect (.throttleReleaseStep die cause) P :=
  Effect.intro (fun d => d.thrRelease die cause) (fun s h => by show execThrottleReleaseStep .. = _; unfold execThrottleReleaseStep; exact State.onAon_up h) h

theorem Effect.powerFigureExchange_of {P : Dev → Dev → Prop} (die : Nat) (watts : Nat) (rails : List (Nat × Nat)) (arrived : Nat)
    (h : ∀ d, Instr.wf (.powerFigureExchange die watts rails arrived) = true → (placeOf (.powerFigureExchange die watts rails arrived)).up d = true → P d (d.pwFigures die watts rails arrived)) : Effect (.powerFigureExchange die watts rails arrived) P :=
  Effect.intro (fun d => d.pwFigures die watts rails arrived) (fun s h => by show execPowerFigureExchange .. = _; unfold execPowerFigureExchange; exact State.onAon_up h) h

theorem Effect.thermalTrip_of {P : Dev → Dev → Prop} (die : Nat)
    (h : ∀ d, Instr.wf (.thermalTrip die) = true → (placeOf (.thermalTrip die)).up d = true → P d (d.trip die)) : Effect (.thermalTrip die) P :=
  Effect.intro (fun d => d.trip die) (fun s h => by show execThermalTrip .. = _; unfold execThermalTrip; exact State.onAon_up h) h

theorem Effect.railFault_of {P : Dev → Dev → Prop} (die : Nat) (rail : Nat)
    (h : ∀ d, Instr.wf (.railFault die rail) = true → (placeOf (.railFault die rail)).up d = true → P d (d.railFault die rail)) : Effect (.railFault die rail) P :=
  Effect.intro (fun d => d.railFault die rail) (fun s h => by show execRailFault .. = _; unfold execRailFault; exact State.onAon_up h) h

theorem Effect.refclkLoss_of {P : Dev → Dev → Prop} (die : Nat)
    (h : ∀ d, Instr.wf (.refclkLoss die) = true → (placeOf (.refclkLoss die)).up d = true → P d (d.refLoss die)) : Effect (.refclkLoss die) P :=
  Effect.intro (fun d => d.refLoss die) (fun s h => by show execRefclkLoss .. = _; unfold execRefclkLoss; exact State.onAon_up h) h

theorem Effect.pllLockLoss_of {P : Dev → Dev → Prop} (die : Nat) (pll : Nat)
    (h : ∀ d, Instr.wf (.pllLockLoss die pll) = true → (placeOf (.pllLockLoss die pll)).up d = true → P d (d.pllLoss die pll)) : Effect (.pllLockLoss die pll) P :=
  Effect.intro (fun d => d.pllLoss die pll) (fun s h => by show execPllLockLoss .. = _; unfold execPllLockLoss; exact State.onAon_up h) h

theorem Effect.slowclkLoss_of {P : Dev → Dev → Prop} (die : Nat)
    (h : ∀ d, Instr.wf (.slowclkLoss die) = true → (placeOf (.slowclkLoss die)).up d = true → P d (d.slowLoss die)) : Effect (.slowclkLoss die) P :=
  Effect.intro (fun d => d.slowLoss die) (fun s h => by show execSlowclkLoss .. = _; unfold execSlowclkLoss; exact State.onAon_up h) h

theorem Effect.slowclkRestore_of {P : Dev → Dev → Prop} (die : Nat)
    (h : ∀ d, Instr.wf (.slowclkRestore die) = true → (placeOf (.slowclkRestore die)).up d = true → P d (d.slowBack die)) : Effect (.slowclkRestore die) P :=
  Effect.intro (fun d => d.slowBack die) (fun s h => by show execSlowclkRestore .. = _; unfold execSlowclkRestore; exact State.onAon_up h) h

theorem Effect.memoryTestPhaseEnd_of {P : Dev → Dev → Prop} (die : Nat) (rows : List (Nat × RowId))
    (h : ∀ d, Instr.wf (.memoryTestPhaseEnd die rows) = true → (placeOf (.memoryTestPhaseEnd die rows)).up d = true → P d (d.memPhase die rows)) : Effect (.memoryTestPhaseEnd die rows) P :=
  Effect.intro (fun d => d.memPhase die rows) (fun s h => by show execMemoryTestPhaseEnd .. = _; unfold execMemoryTestPhaseEnd; exact State.onCarrier_up h) h

theorem Effect.b0okClear_of {P : Dev → Dev → Prop} (die : Nat)
    (h : ∀ d, Instr.wf (.b0okClear die) = true → (placeOf (.b0okClear die)).up d = true → P d (d.b0okClear die)) : Effect (.b0okClear die) P :=
  Effect.intro (fun d => d.b0okClear die) (fun s h => by show execB0okClear .. = _; unfold execB0okClear; exact State.onCarrier_up h) h

theorem Effect.chunkSend_of {P : Dev → Dev → Prop} (die : Nat) (nchm1 : Nat) (chunk : Nat) (uni : Bool) (mask : Nat)
    (h : ∀ d, Instr.wf (.chunkSend die nchm1 chunk uni mask) = true → (placeOf (.chunkSend die nchm1 chunk uni mask)).up d = true → P d (d.chunkSend die nchm1 chunk uni mask)) : Effect (.chunkSend die nchm1 chunk uni mask) P :=
  Effect.intro (fun d => d.chunkSend die nchm1 chunk uni mask) (fun s h => by show execChunkSend .. = _; unfold execChunkSend; exact State.onCarrier_up h) h

theorem Effect.chunkReceive_of {P : Dev → Dev → Prop} (place : Nat) (noise : Bytes)
    (h : ∀ d, Instr.wf (.chunkReceive place noise) = true → (placeOf (.chunkReceive place noise)).up d = true → P d (d.chunkReceive place noise)) : Effect (.chunkReceive place noise) P :=
  Effect.intro (fun d => d.chunkReceive place noise) (fun s h => by show execChunkReceive .. = _; unfold execChunkReceive; exact rfl) h

theorem Effect.faultPost_of {P : Dev → Dev → Prop} (die : Nat)
    (h : ∀ d, Instr.wf (.faultPost die) = true → (placeOf (.faultPost die)).up d = true → P d (d.fltPost die)) : Effect (.faultPost die) P :=
  Effect.intro (fun d => d.fltPost die) (fun s h => by show execFaultPost .. = _; unfold execFaultPost; exact State.onKept_up h) h

theorem Effect.faultPop_of {P : Dev → Dev → Prop} (die : Nat) (count : Nat)
    (h : ∀ d, Instr.wf (.faultPop die count) = true → (placeOf (.faultPop die count)).up d = true → P d (d.fltPop die count)) : Effect (.faultPop die count) P :=
  Effect.intro (fun d => d.fltPop die count) (fun s h => by show execFaultPop .. = _; unfold execFaultPop; exact State.onKept_up h) h

theorem Effect.ageSample_of {P : Dev → Dev → Prop} (die : Nat) (res : AgeRes)
    (h : ∀ d, Instr.wf (.ageSample die res) = true → (placeOf (.ageSample die res)).up d = true → P d (d.ageSample die res)) : Effect (.ageSample die res) P :=
  Effect.intro (fun d => d.ageSample die res) (fun s h => by show execAgeSample .. = _; unfold execAgeSample; exact State.onAon_up h) h

theorem Effect.ageSampleNow_of {P : Dev → Dev → Prop} (die : Nat) (res : AgeRes)
    (h : ∀ d, Instr.wf (.ageSampleNow die res) = true → (placeOf (.ageSampleNow die res)).up d = true → P d (d.ageNow die res)) : Effect (.ageSampleNow die res) P :=
  Effect.intro (fun d => d.ageNow die res) (fun s h => by show execAgeSampleNow .. = _; unfold execAgeSampleNow; exact State.onAon_up h) h

theorem Effect.marginEvaluate_of {P : Dev → Dev → Prop} (die : Nat)
    (h : ∀ d, Instr.wf (.marginEvaluate die) = true → (placeOf (.marginEvaluate die)).up d = true → P d (d.marginEval die)) : Effect (.marginEvaluate die) P :=
  Effect.intro (fun d => d.marginEval die) (fun s h => by show execMarginEvaluate .. = _; unfold execMarginEvaluate; exact State.onCarrier_up h) h

theorem Effect.i3cPrivateRead_of {P : Dev → Dev → Prop} (die : Nat) (addr : Nat) (len : Nat)
    (h : ∀ d, Instr.wf (.i3cPrivateRead die addr len) = true → (placeOf (.i3cPrivateRead die addr len)).up d = true → P d (d.i3cRead die addr len)) : Effect (.i3cPrivateRead die addr len) P :=
  Effect.intro (fun d => d.i3cRead die addr len) (fun s h => by show execI3cPrivateRead .. = _; unfold execI3cPrivateRead; exact State.onAon_up h) h

theorem Effect.i3cPrivateWrite_of {P : Dev → Dev → Prop} (die : Nat) (addr : Nat)
    (h : ∀ d, Instr.wf (.i3cPrivateWrite die addr) = true → (placeOf (.i3cPrivateWrite die addr)).up d = true → P d (d.i3cWrite die addr)) : Effect (.i3cPrivateWrite die addr) P :=
  Effect.intro (fun d => d.i3cWrite die addr) (fun s h => by show execI3cPrivateWrite .. = _; unfold execI3cPrivateWrite; exact State.onAon_up h) h

theorem Effect.i3cCcc_of {P : Dev → Dev → Prop} (die : Nat) (code : Nat) (addr : Nat)
    (h : ∀ d, Instr.wf (.i3cCcc die code addr) = true → (placeOf (.i3cCcc die code addr)).up d = true → P d (d.i3cCcc die code addr)) : Effect (.i3cCcc die code addr) P :=
  Effect.intro (fun d => d.i3cCcc die code addr) (fun s h => by show execI3cCcc .. = _; unfold execI3cCcc; exact State.onAon_up h) h

theorem Effect.i3cBlockRefresh_of {P : Dev → Dev → Prop} (die : Nat)
    (h : ∀ d, Instr.wf (.i3cBlockRefresh die) = true → (placeOf (.i3cBlockRefresh die)).up d = true → P d (d.i3cRefresh die)) : Effect (.i3cBlockRefresh die) P :=
  Effect.intro (fun d => d.i3cRefresh die) (fun s h => by show execI3cBlockRefresh .. = _; unfold execI3cBlockRefresh; exact State.onAon_up h) h

theorem Effect.localCounterTick_of {P : Dev → Dev → Prop} (die : Nat)
    (h : ∀ d, Instr.wf (.localCounterTick die) = true → (placeOf (.localCounterTick die)).up d = true → P d (d.tickUp die)) : Effect (.localCounterTick die) P :=
  Effect.intro (fun d => d.tickUp die) (fun s h => by show execLocalCounterTick .. = _; unfold execLocalCounterTick; exact State.onAon_up h) h

theorem Effect.builtInSelfTestEnd_of {P : Dev → Dev → Prop} (die : Nat) (slices : Nat) (arrays : Bool)
    (h : ∀ d, Instr.wf (.builtInSelfTestEnd die slices arrays) = true → (placeOf (.builtInSelfTestEnd die slices arrays)).up d = true → P d (d.bistEnd die slices arrays)) : Effect (.builtInSelfTestEnd die slices arrays) P :=
  Effect.intro (fun d => d.bistEnd die slices arrays) (fun s h => by show execBuiltInSelfTestEnd .. = _; unfold execBuiltInSelfTestEnd; exact State.onCarrier_up h) h

theorem Effect.chunkSendComplete_of {P : Dev → Dev → Prop} (die : Nat)
    (h : ∀ d, Instr.wf (.chunkSendComplete die) = true → (placeOf (.chunkSendComplete die)).up d = true → P d (d.chunkSent die)) : Effect (.chunkSendComplete die) P :=
  Effect.intro (fun d => d.chunkSent die) (fun s h => by show execChunkSendComplete .. = _; unfold execChunkSendComplete; exact State.onCarrier_up h) h

theorem Effect.eventSendComplete_of {P : Dev → Dev → Prop} (die : Nat)
    (h : ∀ d, Instr.wf (.eventSendComplete die) = true → (placeOf (.eventSendComplete die)).up d = true → P d (d.eventDone die)) : Effect (.eventSendComplete die) P :=
  Effect.intro (fun d => d.eventDone die) (fun s h => by show execEventSendComplete .. = _; unfold execEventSendComplete; exact State.onCarrier_up h) h

theorem Effect.portSleepWaitTimeout_of {P : Dev → Dev → Prop} (port : Nat)
    (h : ∀ d, Instr.wf (.portSleepWaitTimeout port) = true → (placeOf (.portSleepWaitTimeout port)).up d = true → P d (d.portSleepTimeout port)) : Effect (.portSleepWaitTimeout port) P :=
  Effect.intro (fun d => d.portSleepTimeout port) (fun s h => by show execPortSleepWaitTimeout .. = _; unfold execPortSleepWaitTimeout; exact State.onPort_up h) h

theorem Effect.wardRelayTimeout_of {P : Dev → Dev → Prop} (die : Nat)
    (h : ∀ d, Instr.wf (.wardRelayTimeout die) = true → (placeOf (.wardRelayTimeout die)).up d = true → P d (d.wardTimeout die)) : Effect (.wardRelayTimeout die) P :=
  Effect.intro (fun d => d.wardTimeout die) (fun s h => by show execWardRelayTimeout .. = _; unfold execWardRelayTimeout; exact State.onCarrier_up h) h

end Sys2Proof.Machine
end

