-- ==== Sys2Proof/Laws/Agree.lean ====
section
/-!
SUPPORT. What a command may change, in one notion. The package is cut into components: each register name (all its dies and
instances) and each other field of `Dev`. A mask names components by its bits: bit n the n-th register of `Reg`, bit 368 + n the n-th
field of `Dev`. `Agree μ ω d`: the packages `ω` and `d` differ in components of the mask `μ` alone.
-/
set_option linter.unusedSimpArgs false
set_option linter.unusedVariables false
namespace Sys2Proof.Machine

/-- The mask `s` names no component that `μ` does not name. -/
def Within (s μ : Nat) : Prop := s &&& μ = s

theorem Within.refl (s : Nat) : Within s s := Nat.and_self s

theorem Within.up {s t μ : Nat} (h : Within t μ) (hs : s &&& t = s) : Within s μ := by
  unfold Within at *
  calc s &&& μ = (s &&& t) &&& μ := by rw [hs]
    _ = s &&& (t &&& μ) := Nat.and_assoc ..
    _ = s := by rw [h, hs]

theorem Within.bit {s μ i : Nat} (h : Within s μ) (hs : s.testBit i = true) : μ.testBit i = true := by
  unfold Within at h
  rw [← h, Nat.testBit_and, Bool.and_eq_true] at hs
  exact hs.2

/-- The package with the components of a mask taken out. -/
def Dev.mask (μ : Nat) (d : Dev) : Dev where
  fuse := bif μ.testBit 368 then Dev.reset.fuse else d.fuse
  pw := bif μ.testBit 369 then [] else d.pw
  aon := bif μ.testBit 370 then [] else d.aon
  rf := d.rf.delIf fun k => μ.testBit k.reg.ctorIdx
  capt := bif μ.testBit 372 then [] else d.capt
  held := bif μ.testBit 373 then [] else d.held
  free := bif μ.testBit 374 then 0 else d.free
  mem := bif μ.testBit 375 then [] else d.mem
  unwritten := bif μ.testBit 376 then [] else d.unwritten
  errs := bif μ.testBit 377 then [] else d.errs
  lcnt := bif μ.testBit 378 then [] else d.lcnt
  cores := bif μ.testBit 379 then [] else d.cores
  cells := bif μ.testBit 380 then [] else d.cells
  cellPart := bif μ.testBit 381 then [] else d.cellPart
  tmb := bif μ.testBit 382 then [] else d.tmb
  waits := bif μ.testBit 383 then [] else d.waits
  swGen := bif μ.testBit 384 then [] else d.swGen
  ctl := bif μ.testBit 385 then [] else d.ctl
  net := bif μ.testBit 386 then [] else d.net
  sqn := bif μ.testBit 387 then 0 else d.sqn
  engs := bif μ.testBit 388 then [] else d.engs
  unfs := bif μ.testBit 389 then [] else d.unfs
  dsps := bif μ.testBit 390 then [] else d.dsps
  bq := bif μ.testBit 391 then [] else d.bq
  rdq := bif μ.testBit 392 then [] else d.rdq
  wrq := bif μ.testBit 393 then [] else d.wrq
  rows := bif μ.testBit 394 then [] else d.rows
  hbm := bif μ.testBit 395 then [] else d.hbm
  narrow := bif μ.testBit 396 then [] else d.narrow
  conv := bif μ.testBit 397 then [] else d.conv
  merge := bif μ.testBit 398 then [] else d.merge
  scrub := bif μ.testBit 399 then [] else d.scrub
  wback := bif μ.testBit 400 then [] else d.wback
  stest := bif μ.testBit 401 then [] else d.stest
  zfill := bif μ.testBit 402 then [] else d.zfill
  memtest := bif μ.testBit 403 then [] else d.memtest
  krg := bif μ.testBit 404 then [] else d.krg
  krgP := bif μ.testBit 405 then [] else d.krgP
  drains := bif μ.testBit 406 then [] else d.drains
  stwIo := bif μ.testBit 407 then [] else d.stwIo
  flinks := bif μ.testBit 408 then [] else d.flinks
  knks := bif μ.testBit 409 then [] else d.knks
  knkPend := bif μ.testBit 410 then [] else d.knkPend
  mapUpd := bif μ.testBit 411 then [] else d.mapUpd
  sites := bif μ.testBit 412 then [] else d.sites
  alert := bif μ.testBit 413 then [] else d.alert
  tripN := bif μ.testBit 414 then [] else d.tripN
  irqs := bif μ.testBit 415 then [] else d.irqs
  lanes := bif μ.testBit 416 then [] else d.lanes
  ports := bif μ.testBit 417 then [] else d.ports
  eths := bif μ.testBit 418 then [] else d.eths
  qps := bif μ.testBit 419 then [] else d.qps
  mbxIn := bif μ.testBit 420 then [] else d.mbxIn
  stews := bif μ.testBit 421 then [] else d.stews
  parts := bif μ.testBit 422 then [] else d.parts
  wards := bif μ.testBit 423 then [] else d.wards
  pws := bif μ.testBit 424 then [] else d.pws
  chunks := bif μ.testBit 425 then [] else d.chunks
  i3c := bif μ.testBit 426 then [] else d.i3c
  i3cOut := bif μ.testBit 427 then [] else d.i3cOut
  flash := bif μ.testBit 428 then [] else d.flash

/-- Two packages agree but for the components of a mask. -/
@[irreducible] def Agree (μ : Nat) (o d : Dev) : Prop := d.mask μ = o.mask μ

theorem Agree.eq {μ : Nat} {o d : Dev} (h : Agree μ o d) : d.mask μ = o.mask μ := by unfold Agree at h; exact h

theorem Agree.of {μ : Nat} {o d : Dev} (h : d.mask μ = o.mask μ) : Agree μ o d := by unfold Agree; exact h

theorem Agree.refl (μ : Nat) (d : Dev) : Agree μ d d := Agree.of rfl

theorem Agree.trans {μ : Nat} {a b c : Dev} (h : Agree μ a b) (g : Agree μ b c) : Agree μ a c := Agree.of (Eq.trans g.eq h.eq)

theorem Agree.ite {μ : Nat} {ω a b : Dev} {c : Prop} [Decidable c] (ha : Agree μ ω a) (hb : Agree μ ω b) :
    Agree μ ω (if c then a else b) := by
  split <;> assumption

theorem Agree.mk2 {μ : Nat} {ω : Dev} {α : Type} {x : α} {d : Dev} (h : Agree μ ω d) : Agree μ ω (x, d).2 := h

theorem Agree.foldl {μ : Nat} {ω : Dev} {α : Type} (f : Dev → α → Dev) (l : List α) (d : Dev)
    (hf : ∀ e x, Agree μ ω e → Agree μ ω (f e x)) (h : Agree μ ω d) : Agree μ ω (l.foldl f d) := by
  induction l generalizing d with
  | nil => exact h
  | cons a l ih => exact ih _ (hf _ _ h)

theorem Agree.foldl_snd {μ : Nat} {ω : Dev} {α β : Type} (f : β × Dev → α → β × Dev) (l : List α) (s : β × Dev)
    (hf : ∀ e x, Agree μ ω e.2 → Agree μ ω (f e x).2) (h : Agree μ ω s.2) : Agree μ ω (l.foldl f s).2 := by
  induction l generalizing s with
  | nil => exact h
  | cons a l ih => exact ih _ (hf _ _ h)

theorem Agree.foldl_fst {μ : Nat} {ω : Dev} {α β : Type} (f : Dev × β → α → Dev × β) (l : List α) (s : Dev × β)
    (hf : ∀ e x, Agree μ ω e.1 → Agree μ ω (f e x).1) (h : Agree μ ω s.1) : Agree μ ω (l.foldl f s).1 := by
  induction l generalizing s with
  | nil => exact h
  | cons a l ih => exact ih _ (hf _ _ h)

theorem Agree.getD {μ : Nat} {ω : Dev} (x : Option Dev) (d : Dev) (h : ∀ e, x = some e → Agree μ ω e) (hd : Agree μ ω d) :
    Agree μ ω (x.getD d) := by
  cases x with
  | none => exact hd
  | some e => exact h e rfl

theorem KMap.delIf_put {κ α : Type} [DecidableEq κ] (m : KMap κ α) (p : κ → Bool) (k : κ) (v : α) (h : p k = true) :
    KMap.delIf (KMap.put m k v) p = KMap.delIf m p := by
  induction m with
  | nil => simp [KMap.put, KMap.delIf, h]
  | cons e m ih =>
    obtain ⟨k0, v0⟩ := e
    simp only [KMap.put]
    split
    · rename_i hk; subst hk; simp [KMap.delIf, h]
    · simp only [KMap.delIf, List.filter_cons] at ih ⊢
      split <;> simp_all

theorem KMap.delIf_delIf {κ α : Type} [DecidableEq κ] (m : KMap κ α) (p q : κ → Bool) (h : ∀ k, q k = true → p k = true) :
    KMap.delIf (KMap.delIf m q) p = KMap.delIf m p := by
  simp only [KMap.delIf, List.filter_filter]
  congr 1
  funext e
  by_cases hq : q e.1 = true
  · simp [h _ hq, hq]
  · simp [hq]

theorem Agree.setRf {μ : Nat} {ω d : Dev} (rf : KMap RKey Word)
    (hr : KMap.delIf rf (fun k => μ.testBit k.reg.ctorIdx) = KMap.delIf d.rf fun k => μ.testBit k.reg.ctorIdx)
    (h : Agree μ ω d) : Agree μ ω { d with rf := rf } := by
  refine Agree.of (Eq.trans ?_ h.eq)
  simp only [Dev.mask, hr]

theorem Dev.setRaw_kp {μ : Nat} {ω : Dev} (d : Dev) (k : RKey) (w : Nat) (hk : μ.testBit k.reg.ctorIdx = true) (h : Agree μ ω d) :
    Agree μ ω (d.setRaw k w) := Agree.setRf _ (KMap.delIf_put _ _ _ _ hk) h

theorem Dev.setKey_kp {μ : Nat} {ω : Dev} (d : Dev) (r : Reg) (die i s w : Nat) (hr : μ.testBit r.ctorIdx = true) (h : Agree μ ω d) :
    Agree μ ω (d.setRaw ⟨r, die, i, s⟩ w) := Dev.setRaw_kp _ _ _ hr h

/-- A register taken back to its reset value. -/
theorem Agree.delRf {μ : Nat} {ω d : Dev} (k : RKey) (hk : μ.testBit k.reg.ctorIdx = true) (h : Agree μ ω d) :
    Agree μ ω { d with rf := d.rf.del k } := by
  refine Agree.setRf _ ?_ h
  simp only [KMap.delIf, KMap.del, List.filter_filter]
  congr 1
  funext e
  by_cases he : e.1 = k
  · simp [he, hk]
  · simp [he]

theorem Agree.delKey {μ : Nat} {ω d : Dev} (r : Reg) (die i s : Nat) (hr : μ.testBit r.ctorIdx = true) (h : Agree μ ω d) :
    Agree μ ω { d with rf := d.rf.del ⟨r, die, i, s⟩ } := Agree.delRf _ hr h


theorem Agree.del_iff {μ : Nat} {r : Reg} (hr : μ.testBit r.ctorIdx = true) {ω e : Dev} (rf : KMap RKey Word) (die i s : Nat) :
    Agree μ ω { e with rf := KMap.del rf ⟨r, die, i, s⟩ } ↔ Agree μ ω { e with rf := rf } := by
  have h : KMap.delIf (KMap.del rf ⟨r, die, i, s⟩) (fun k => μ.testBit k.reg.ctorIdx) = KMap.delIf rf fun k => μ.testBit k.reg.ctorIdx := by
    simp only [KMap.delIf, KMap.del, List.filter_filter]
    congr 1
    funext e
    by_cases he : e.1 = ⟨r, die, i, s⟩
    · simp [he, hr]
    · simp [he]
  simp only [Agree, Dev.mask, h]


/-- What agreement says of a register that the mask does not name, when it does not name the fuses. -/
theorem Agree.raw {μ : Nat} {ω d : Dev} (h : Agree μ ω d) (k : RKey) (hf : μ.testBit 368 = false)
    (hk : μ.testBit k.reg.ctorIdx = false) : d.raw k = ω.raw k := by
  have h1 : d.fuse = ω.fuse := by
    have := congrArg Dev.fuse h.eq
    simpa [Dev.mask, hf] using this
  have h2 : d.rf.at? k = ω.rf.at? k := by
    have := congrArg (fun x : Dev => x.rf.at? k) h.eq
    simpa [Dev.mask, KMap.at?_delIf, hk] using this
  unfold Dev.raw
  rw [h2]
  have h3 : d.resetWord k = ω.resetWord k := by
    cases d; cases ω; simp only at h1; subst h1; rfl
  rw [h3]

theorem Agree.fuse {μ : Nat} {ω d : Dev} (h : Agree μ ω d) (hk : μ.testBit 368 = false) : d.fuse = ω.fuse := by
  have := congrArg Dev.fuse h.eq
  simpa [Dev.mask, hk] using this

theorem Agree.pw {μ : Nat} {ω d : Dev} (h : Agree μ ω d) (hk : μ.testBit 369 = false) : d.pw = ω.pw := by
  have := congrArg Dev.pw h.eq
  simpa [Dev.mask, hk] using this

theorem Agree.aon {μ : Nat} {ω d : Dev} (h : Agree μ ω d) (hk : μ.testBit 370 = false) : d.aon = ω.aon := by
  have := congrArg Dev.aon h.eq
  simpa [Dev.mask, hk] using this

theorem Agree.capt {μ : Nat} {ω d : Dev} (h : Agree μ ω d) (hk : μ.testBit 372 = false) : d.capt = ω.capt := by
  have := congrArg Dev.capt h.eq
  simpa [Dev.mask, hk] using this

theorem Agree.held {μ : Nat} {ω d : Dev} (h : Agree μ ω d) (hk : μ.testBit 373 = false) : d.held = ω.held := by
  have := congrArg Dev.held h.eq
  simpa [Dev.mask, hk] using this

theorem Agree.free {μ : Nat} {ω d : Dev} (h : Agree μ ω d) (hk : μ.testBit 374 = false) : d.free = ω.free := by
  have := congrArg Dev.free h.eq
  simpa [Dev.mask, hk] using this

theorem Agree.mem {μ : Nat} {ω d : Dev} (h : Agree μ ω d) (hk : μ.testBit 375 = false) : d.mem = ω.mem := by
  have := congrArg Dev.mem h.eq
  simpa [Dev.mask, hk] using this

theorem Agree.unwritten {μ : Nat} {ω d : Dev} (h : Agree μ ω d) (hk : μ.testBit 376 = false) : d.unwritten = ω.unwritten := by
  have := congrArg Dev.unwritten h.eq
  simpa [Dev.mask, hk] using this

theorem Agree.errs {μ : Nat} {ω d : Dev} (h : Agree μ ω d) (hk : μ.testBit 377 = false) : d.errs = ω.errs := by
  have := congrArg Dev.errs h.eq
  simpa [Dev.mask, hk] using this

theorem Agree.lcnt {μ : Nat} {ω d : Dev} (h : Agree μ ω d) (hk : μ.testBit 378 = false) : d.lcnt = ω.lcnt := by
  have := congrArg Dev.lcnt h.eq
  simpa [Dev.mask, hk] using this

theorem Agree.cores {μ : Nat} {ω d : Dev} (h : Agree μ ω d) (hk : μ.testBit 379 = false) : d.cores = ω.cores := by
  have := congrArg Dev.cores h.eq
  simpa [Dev.mask, hk] using this

theorem Agree.cells {μ : Nat} {ω d : Dev} (h : Agree μ ω d) (hk : μ.testBit 380 = false) : d.cells = ω.cells := by
  have := congrArg Dev.cells h.eq
  simpa [Dev.mask, hk] using this

theorem Agree.cellPart {μ : Nat} {ω d : Dev} (h : Agree μ ω d) (hk : μ.testBit 381 = false) : d.cellPart = ω.cellPart := by
  have := congrArg Dev.cellPart h.eq
  simpa [Dev.mask, hk] using this

theorem Agree.tmb {μ : Nat} {ω d : Dev} (h : Agree μ ω d) (hk : μ.testBit 382 = false) : d.tmb = ω.tmb := by
  have := congrArg Dev.tmb h.eq
  simpa [Dev.mask, hk] using this

theorem Agree.waits {μ : Nat} {ω d : Dev} (h : Agree μ ω d) (hk : μ.testBit 383 = false) : d.waits = ω.waits := by
  have := congrArg Dev.waits h.eq
  simpa [Dev.mask, hk] using this

theorem Agree.swGen {μ : Nat} {ω d : Dev} (h : Agree μ ω d) (hk : μ.testBit 384 = false) : d.swGen = ω.swGen := by
  have := congrArg Dev.swGen h.eq
  simpa [Dev.mask, hk] using this

theorem Agree.ctl {μ : Nat} {ω d : Dev} (h : Agree μ ω d) (hk : μ.testBit 385 = false) : d.ctl = ω.ctl := by
  have := congrArg Dev.ctl h.eq
  simpa [Dev.mask, hk] using this

theorem Agree.net {μ : Nat} {ω d : Dev} (h : Agree μ ω d) (hk : μ.testBit 386 = false) : d.net = ω.net := by
  have := congrArg Dev.net h.eq
  simpa [Dev.mask, hk] using this

theorem Agree.sqn {μ : Nat} {ω d : Dev} (h : Agree μ ω d) (hk : μ.testBit 387 = false) : d.sqn = ω.sqn := by
  have := congrArg Dev.sqn h.eq
  simpa [Dev.mask, hk] using this

theorem Agree.engs {μ : Nat} {ω d : Dev} (h : Agree μ ω d) (hk : μ.testBit 388 = false) : d.engs = ω.engs := by
  have := congrArg Dev.engs h.eq
  simpa [Dev.mask, hk] using this

theorem Agree.unfs {μ : Nat} {ω d : Dev} (h : Agree μ ω d) (hk : μ.testBit 389 = false) : d.unfs = ω.unfs := by
  have := congrArg Dev.unfs h.eq
  simpa [Dev.mask, hk] using this

theorem Agree.dsps {μ : Nat} {ω d : Dev} (h : Agree μ ω d) (hk : μ.testBit 390 = false) : d.dsps = ω.dsps := by
  have := congrArg Dev.dsps h.eq
  simpa [Dev.mask, hk] using this

theorem Agree.bq {μ : Nat} {ω d : Dev} (h : Agree μ ω d) (hk : μ.testBit 391 = false) : d.bq = ω.bq := by
  have := congrArg Dev.bq h.eq
  simpa [Dev.mask, hk] using this

theorem Agree.rdq {μ : Nat} {ω d : Dev} (h : Agree μ ω d) (hk : μ.testBit 392 = false) : d.rdq = ω.rdq := by
  have := congrArg Dev.rdq h.eq
  simpa [Dev.mask, hk] using this

theorem Agree.wrq {μ : Nat} {ω d : Dev} (h : Agree μ ω d) (hk : μ.testBit 393 = false) : d.wrq = ω.wrq := by
  have := congrArg Dev.wrq h.eq
  simpa [Dev.mask, hk] using this

theorem Agree.rows {μ : Nat} {ω d : Dev} (h : Agree μ ω d) (hk : μ.testBit 394 = false) : d.rows = ω.rows := by
  have := congrArg Dev.rows h.eq
  simpa [Dev.mask, hk] using this

theorem Agree.hbm {μ : Nat} {ω d : Dev} (h : Agree μ ω d) (hk : μ.testBit 395 = false) : d.hbm = ω.hbm := by
  have := congrArg Dev.hbm h.eq
  simpa [Dev.mask, hk] using this

theorem Agree.narrow {μ : Nat} {ω d : Dev} (h : Agree μ ω d) (hk : μ.testBit 396 = false) : d.narrow = ω.narrow := by
  have := congrArg Dev.narrow h.eq
  simpa [Dev.mask, hk] using this

theorem Agree.conv {μ : Nat} {ω d : Dev} (h : Agree μ ω d) (hk : μ.testBit 397 = false) : d.conv = ω.conv := by
  have := congrArg Dev.conv h.eq
  simpa [Dev.mask, hk] using this

theorem Agree.merge {μ : Nat} {ω d : Dev} (h : Agree μ ω d) (hk : μ.testBit 398 = false) : d.merge = ω.merge := by
  have := congrArg Dev.merge h.eq
  simpa [Dev.mask, hk] using this

theorem Agree.scrub {μ : Nat} {ω d : Dev} (h : Agree μ ω d) (hk : μ.testBit 399 = false) : d.scrub = ω.scrub := by
  have := congrArg Dev.scrub h.eq
  simpa [Dev.mask, hk] using this

theorem Agree.wback {μ : Nat} {ω d : Dev} (h : Agree μ ω d) (hk : μ.testBit 400 = false) : d.wback = ω.wback := by
  have := congrArg Dev.wback h.eq
  simpa [Dev.mask, hk] using this

theorem Agree.stest {μ : Nat} {ω d : Dev} (h : Agree μ ω d) (hk : μ.testBit 401 = false) : d.stest = ω.stest := by
  have := congrArg Dev.stest h.eq
  simpa [Dev.mask, hk] using this

theorem Agree.zfill {μ : Nat} {ω d : Dev} (h : Agree μ ω d) (hk : μ.testBit 402 = false) : d.zfill = ω.zfill := by
  have := congrArg Dev.zfill h.eq
  simpa [Dev.mask, hk] using this

theorem Agree.memtest {μ : Nat} {ω d : Dev} (h : Agree μ ω d) (hk : μ.testBit 403 = false) : d.memtest = ω.memtest := by
  have := congrArg Dev.memtest h.eq
  simpa [Dev.mask, hk] using this

theorem Agree.krg {μ : Nat} {ω d : Dev} (h : Agree μ ω d) (hk : μ.testBit 404 = false) : d.krg = ω.krg := by
  have := congrArg Dev.krg h.eq
  simpa [Dev.mask, hk] using this

theorem Agree.krgP {μ : Nat} {ω d : Dev} (h : Agree μ ω d) (hk : μ.testBit 405 = false) : d.krgP = ω.krgP := by
  have := congrArg Dev.krgP h.eq
  simpa [Dev.mask, hk] using this

theorem Agree.drains {μ : Nat} {ω d : Dev} (h : Agree μ ω d) (hk : μ.testBit 406 = false) : d.drains = ω.drains := by
  have := congrArg Dev.drains h.eq
  simpa [Dev.mask, hk] using this

theorem Agree.stwIo {μ : Nat} {ω d : Dev} (h : Agree μ ω d) (hk : μ.testBit 407 = false) : d.stwIo = ω.stwIo := by
  have := congrArg Dev.stwIo h.eq
  simpa [Dev.mask, hk] using this

theorem Agree.flinks {μ : Nat} {ω d : Dev} (h : Agree μ ω d) (hk : μ.testBit 408 = false) : d.flinks = ω.flinks := by
  have := congrArg Dev.flinks h.eq
  simpa [Dev.mask, hk] using this

theorem Agree.knks {μ : Nat} {ω d : Dev} (h : Agree μ ω d) (hk : μ.testBit 409 = false) : d.knks = ω.knks := by
  have := congrArg Dev.knks h.eq
  simpa [Dev.mask, hk] using this

theorem Agree.knkPend {μ : Nat} {ω d : Dev} (h : Agree μ ω d) (hk : μ.testBit 410 = false) : d.knkPend = ω.knkPend := by
  have := congrArg Dev.knkPend h.eq
  simpa [Dev.mask, hk] using this

theorem Agree.mapUpd {μ : Nat} {ω d : Dev} (h : Agree μ ω d) (hk : μ.testBit 411 = false) : d.mapUpd = ω.mapUpd := by
  have := congrArg Dev.mapUpd h.eq
  simpa [Dev.mask, hk] using this

theorem Agree.sites {μ : Nat} {ω d : Dev} (h : Agree μ ω d) (hk : μ.testBit 412 = false) : d.sites = ω.sites := by
  have := congrArg Dev.sites h.eq
  simpa [Dev.mask, hk] using this

theorem Agree.alert {μ : Nat} {ω d : Dev} (h : Agree μ ω d) (hk : μ.testBit 413 = false) : d.alert = ω.alert := by
  have := congrArg Dev.alert h.eq
  simpa [Dev.mask, hk] using this

theorem Agree.tripN {μ : Nat} {ω d : Dev} (h : Agree μ ω d) (hk : μ.testBit 414 = false) : d.tripN = ω.tripN := by
  have := congrArg Dev.tripN h.eq
  simpa [Dev.mask, hk] using this

theorem Agree.irqs {μ : Nat} {ω d : Dev} (h : Agree μ ω d) (hk : μ.testBit 415 = false) : d.irqs = ω.irqs := by
  have := congrArg Dev.irqs h.eq
  simpa [Dev.mask, hk] using this

theorem Agree.lanes {μ : Nat} {ω d : Dev} (h : Agree μ ω d) (hk : μ.testBit 416 = false) : d.lanes = ω.lanes := by
  have := congrArg Dev.lanes h.eq
  simpa [Dev.mask, hk] using this

theorem Agree.ports {μ : Nat} {ω d : Dev} (h : Agree μ ω d) (hk : μ.testBit 417 = false) : d.ports = ω.ports := by
  have := congrArg Dev.ports h.eq
  simpa [Dev.mask, hk] using this

theorem Agree.eths {μ : Nat} {ω d : Dev} (h : Agree μ ω d) (hk : μ.testBit 418 = false) : d.eths = ω.eths := by
  have := congrArg Dev.eths h.eq
  simpa [Dev.mask, hk] using this

theorem Agree.qps {μ : Nat} {ω d : Dev} (h : Agree μ ω d) (hk : μ.testBit 419 = false) : d.qps = ω.qps := by
  have := congrArg Dev.qps h.eq
  simpa [Dev.mask, hk] using this

theorem Agree.mbxIn {μ : Nat} {ω d : Dev} (h : Agree μ ω d) (hk : μ.testBit 420 = false) : d.mbxIn = ω.mbxIn := by
  have := congrArg Dev.mbxIn h.eq
  simpa [Dev.mask, hk] using this

theorem Agree.stews {μ : Nat} {ω d : Dev} (h : Agree μ ω d) (hk : μ.testBit 421 = false) : d.stews = ω.stews := by
  have := congrArg Dev.stews h.eq
  simpa [Dev.mask, hk] using this

theorem Agree.parts {μ : Nat} {ω d : Dev} (h : Agree μ ω d) (hk : μ.testBit 422 = false) : d.parts = ω.parts := by
  have := congrArg Dev.parts h.eq
  simpa [Dev.mask, hk] using this

theorem Agree.wards {μ : Nat} {ω d : Dev} (h : Agree μ ω d) (hk : μ.testBit 423 = false) : d.wards = ω.wards := by
  have := congrArg Dev.wards h.eq
  simpa [Dev.mask, hk] using this

theorem Agree.pws {μ : Nat} {ω d : Dev} (h : Agree μ ω d) (hk : μ.testBit 424 = false) : d.pws = ω.pws := by
  have := congrArg Dev.pws h.eq
  simpa [Dev.mask, hk] using this

theorem Agree.chunks {μ : Nat} {ω d : Dev} (h : Agree μ ω d) (hk : μ.testBit 425 = false) : d.chunks = ω.chunks := by
  have := congrArg Dev.chunks h.eq
  simpa [Dev.mask, hk] using this

theorem Agree.i3c {μ : Nat} {ω d : Dev} (h : Agree μ ω d) (hk : μ.testBit 426 = false) : d.i3c = ω.i3c := by
  have := congrArg Dev.i3c h.eq
  simpa [Dev.mask, hk] using this

theorem Agree.i3cOut {μ : Nat} {ω d : Dev} (h : Agree μ ω d) (hk : μ.testBit 427 = false) : d.i3cOut = ω.i3cOut := by
  have := congrArg Dev.i3cOut h.eq
  simpa [Dev.mask, hk] using this

theorem Agree.flash {μ : Nat} {ω d : Dev} (h : Agree μ ω d) (hk : μ.testBit 428 = false) : d.flash = ω.flash := by
  have := congrArg Dev.flash h.eq
  simpa [Dev.mask, hk] using this

theorem Agree.set_alert {μ : Nat} (b_alert : μ.testBit 413 = true) {ω e : Dev} (x_alert : List Bool) :
    Agree μ ω { e with alert := x_alert } ↔ Agree μ ω e := by
  simp only [Agree, Dev.mask, b_alert, cond_true]

theorem Agree.set_bq {μ : Nat} (b_bq : μ.testBit 391 = true) {ω e : Dev} (x_bq : KMap (Nat × Nat × Nat) (List Txn)) :
    Agree μ ω { e with bq := x_bq } ↔ Agree μ ω e := by
  simp only [Agree, Dev.mask, b_bq, cond_true]

theorem Agree.set_capt {μ : Nat} (b_capt : μ.testBit 372 = true) {ω e : Dev} (x_capt : KMap (Nat × RKey) Word) :
    Agree μ ω { e with capt := x_capt } ↔ Agree μ ω e := by
  simp only [Agree, Dev.mask, b_capt, cond_true]

theorem Agree.set_cells {μ : Nat} (b_cells : μ.testBit 380 = true) {ω e : Dev} (x_cells : KMap Nat CellSt) :
    Agree μ ω { e with cells := x_cells } ↔ Agree μ ω e := by
  simp only [Agree, Dev.mask, b_cells, cond_true]

theorem Agree.set_chunks {μ : Nat} (b_chunks : μ.testBit 425 = true) {ω e : Dev} (x_chunks : List (Nat × Bytes)) :
    Agree μ ω { e with chunks := x_chunks } ↔ Agree μ ω e := by
  simp only [Agree, Dev.mask, b_chunks, cond_true]

theorem Agree.set_conv {μ : Nat} (b_conv : μ.testBit 397 = true) {ω e : Dev} (x_conv : KMap Nat (Nat × Bool)) :
    Agree μ ω { e with conv := x_conv } ↔ Agree μ ω e := by
  simp only [Agree, Dev.mask, b_conv, cond_true]

theorem Agree.set_cores {μ : Nat} (b_cores : μ.testBit 379 = true) {ω e : Dev} (x_cores : KMap Nat Core) :
    Agree μ ω { e with cores := x_cores } ↔ Agree μ ω e := by
  simp only [Agree, Dev.mask, b_cores, cond_true]

theorem Agree.set_ctl {μ : Nat} (b_ctl : μ.testBit 385 = true) {ω e : Dev} (x_ctl : List CtlMsg) :
    Agree μ ω { e with ctl := x_ctl } ↔ Agree μ ω e := by
  simp only [Agree, Dev.mask, b_ctl, cond_true]

theorem Agree.set_drains {μ : Nat} (b_drains : μ.testBit 406 = true) {ω e : Dev} (x_drains : KMap (Nat × Nat) Drain) :
    Agree μ ω { e with drains := x_drains } ↔ Agree μ ω e := by
  simp only [Agree, Dev.mask, b_drains, cond_true]

theorem Agree.set_dsps {μ : Nat} (b_dsps : μ.testBit 390 = true) {ω e : Dev} (x_dsps : KMap Nat Dsp) :
    Agree μ ω { e with dsps := x_dsps } ↔ Agree μ ω e := by
  simp only [Agree, Dev.mask, b_dsps, cond_true]

theorem Agree.set_engs {μ : Nat} (b_engs : μ.testBit 388 = true) {ω e : Dev} (x_engs : KMap Nat Eng) :
    Agree μ ω { e with engs := x_engs } ↔ Agree μ ω e := by
  simp only [Agree, Dev.mask, b_engs, cond_true]

theorem Agree.set_errs {μ : Nat} (b_errs : μ.testBit 377 = true) {ω e : Dev} (x_errs : KMap Nat Nat) :
    Agree μ ω { e with errs := x_errs } ↔ Agree μ ω e := by
  simp only [Agree, Dev.mask, b_errs, cond_true]

theorem Agree.set_eths {μ : Nat} (b_eths : μ.testBit 418 = true) {ω e : Dev} (x_eths : KMap (Nat × Nat) EPort) :
    Agree μ ω { e with eths := x_eths } ↔ Agree μ ω e := by
  simp only [Agree, Dev.mask, b_eths, cond_true]

theorem Agree.set_flash {μ : Nat} (b_flash : μ.testBit 428 = true) {ω e : Dev} (x_flash : KMap (Nat × Nat) Bytes) :
    Agree μ ω { e with flash := x_flash } ↔ Agree μ ω e := by
  simp only [Agree, Dev.mask, b_flash, cond_true]

theorem Agree.set_flinks {μ : Nat} (b_flinks : μ.testBit 408 = true) {ω e : Dev} (x_flinks : KMap (Nat × Nat) FLink) :
    Agree μ ω { e with flinks := x_flinks } ↔ Agree μ ω e := by
  simp only [Agree, Dev.mask, b_flinks, cond_true]

theorem Agree.set_free {μ : Nat} (b_free : μ.testBit 374 = true) {ω e : Dev} (x_free : Nat) :
    Agree μ ω { e with free := x_free } ↔ Agree μ ω e := by
  simp only [Agree, Dev.mask, b_free, cond_true]

theorem Agree.set_fuse {μ : Nat} (b_fuse : μ.testBit 368 = true) {ω e : Dev} (x_fuse : Fuse) :
    Agree μ ω { e with fuse := x_fuse } ↔ Agree μ ω e := by
  simp only [Agree, Dev.mask, b_fuse, cond_true]

theorem Agree.set_hbm {μ : Nat} (b_hbm : μ.testBit 395 = true) {ω e : Dev} (x_hbm : KMap Nat HbmSt) :
    Agree μ ω { e with hbm := x_hbm } ↔ Agree μ ω e := by
  simp only [Agree, Dev.mask, b_hbm, cond_true]

theorem Agree.set_held {μ : Nat} (b_held : μ.testBit 373 = true) {ω e : Dev} (x_held : KMap (Nat × RKey) Word) :
    Agree μ ω { e with held := x_held } ↔ Agree μ ω e := by
  simp only [Agree, Dev.mask, b_held, cond_true]

theorem Agree.set_i3c {μ : Nat} (b_i3c : μ.testBit 426 = true) {ω e : Dev} (x_i3c : KMap Nat (Bytes × Option Nat)) :
    Agree μ ω { e with i3c := x_i3c } ↔ Agree μ ω e := by
  simp only [Agree, Dev.mask, b_i3c, cond_true]

theorem Agree.set_i3cOut {μ : Nat} (b_i3cOut : μ.testBit 427 = true) {ω e : Dev} (x_i3cOut : KMap Nat (Bool × Bytes)) :
    Agree μ ω { e with i3cOut := x_i3cOut } ↔ Agree μ ω e := by
  simp only [Agree, Dev.mask, b_i3cOut, cond_true]

theorem Agree.set_irqs {μ : Nat} (b_irqs : μ.testBit 415 = true) {ω e : Dev} (x_irqs : List Nat) :
    Agree μ ω { e with irqs := x_irqs } ↔ Agree μ ω e := by
  simp only [Agree, Dev.mask, b_irqs, cond_true]

theorem Agree.set_knkPend {μ : Nat} (b_knkPend : μ.testBit 410 = true) {ω e : Dev} (x_knkPend : KMap (Nat × Nat) Nat) :
    Agree μ ω { e with knkPend := x_knkPend } ↔ Agree μ ω e := by
  simp only [Agree, Dev.mask, b_knkPend, cond_true]

theorem Agree.set_knks {μ : Nat} (b_knks : μ.testBit 409 = true) {ω e : Dev} (x_knks : KMap Nat Knk) :
    Agree μ ω { e with knks := x_knks } ↔ Agree μ ω e := by
  simp only [Agree, Dev.mask, b_knks, cond_true]

theorem Agree.set_krg {μ : Nat} (b_krg : μ.testBit 404 = true) {ω e : Dev} (x_krg : KMap (Nat × Nat × Nat) KEnt) :
    Agree μ ω { e with krg := x_krg } ↔ Agree μ ω e := by
  simp only [Agree, Dev.mask, b_krg, cond_true]

theorem Agree.set_krgP {μ : Nat} (b_krgP : μ.testBit 405 = true) {ω e : Dev} (x_krgP : KMap Nat (Nat × Nat)) :
    Agree μ ω { e with krgP := x_krgP } ↔ Agree μ ω e := by
  simp only [Agree, Dev.mask, b_krgP, cond_true]

theorem Agree.set_lanes {μ : Nat} (b_lanes : μ.testBit 416 = true) {ω e : Dev} (x_lanes : KMap (Nat × Nat) Lane) :
    Agree μ ω { e with lanes := x_lanes } ↔ Agree μ ω e := by
  simp only [Agree, Dev.mask, b_lanes, cond_true]

theorem Agree.set_lcnt {μ : Nat} (b_lcnt : μ.testBit 378 = true) {ω e : Dev} (x_lcnt : List Nat) :
    Agree μ ω { e with lcnt := x_lcnt } ↔ Agree μ ω e := by
  simp only [Agree, Dev.mask, b_lcnt, cond_true]

theorem Agree.set_mapUpd {μ : Nat} (b_mapUpd : μ.testBit 411 = true) {ω e : Dev} (x_mapUpd : List (Nat × Nat)) :
    Agree μ ω { e with mapUpd := x_mapUpd } ↔ Agree μ ω e := by
  simp only [Agree, Dev.mask, b_mapUpd, cond_true]

theorem Agree.set_mbxIn {μ : Nat} (b_mbxIn : μ.testBit 420 = true) {ω e : Dev} (x_mbxIn : KMap (Nat × Nat) MIn) :
    Agree μ ω { e with mbxIn := x_mbxIn } ↔ Agree μ ω e := by
  simp only [Agree, Dev.mask, b_mbxIn, cond_true]

theorem Agree.set_memtest {μ : Nat} (b_memtest : μ.testBit 403 = true) {ω e : Dev} (x_memtest : KMap Nat MemTest) :
    Agree μ ω { e with memtest := x_memtest } ↔ Agree μ ω e := by
  simp only [Agree, Dev.mask, b_memtest, cond_true]

theorem Agree.set_merge {μ : Nat} (b_merge : μ.testBit 398 = true) {ω e : Dev} (x_merge : KMap (Nat × Nat) (List MEnt)) :
    Agree μ ω { e with merge := x_merge } ↔ Agree μ ω e := by
  simp only [Agree, Dev.mask, b_merge, cond_true]

theorem Agree.set_net {μ : Nat} (b_net : μ.testBit 386 = true) {ω e : Dev} (x_net : List Pkt) :
    Agree μ ω { e with net := x_net } ↔ Agree μ ω e := by
  simp only [Agree, Dev.mask, b_net, cond_true]

theorem Agree.set_parts {μ : Nat} (b_parts : μ.testBit 422 = true) {ω e : Dev} (x_parts : KMap Nat Part) :
    Agree μ ω { e with parts := x_parts } ↔ Agree μ ω e := by
  simp only [Agree, Dev.mask, b_parts, cond_true]

theorem Agree.set_ports {μ : Nat} (b_ports : μ.testBit 417 = true) {ω e : Dev} (x_ports : KMap Nat PPort) :
    Agree μ ω { e with ports := x_ports } ↔ Agree μ ω e := by
  simp only [Agree, Dev.mask, b_ports, cond_true]

theorem Agree.set_pw {μ : Nat} (b_pw : μ.testBit 369 = true) {ω e : Dev} (x_pw : List DiePw) :
    Agree μ ω { e with pw := x_pw } ↔ Agree μ ω e := by
  simp only [Agree, Dev.mask, b_pw, cond_true]

theorem Agree.set_pws {μ : Nat} (b_pws : μ.testBit 424 = true) {ω e : Dev} (x_pws : KMap Nat PwSt) :
    Agree μ ω { e with pws := x_pws } ↔ Agree μ ω e := by
  simp only [Agree, Dev.mask, b_pws, cond_true]

theorem Agree.set_qps {μ : Nat} (b_qps : μ.testBit 419 = true) {ω e : Dev} (x_qps : KMap Nat QP) :
    Agree μ ω { e with qps := x_qps } ↔ Agree μ ω e := by
  simp only [Agree, Dev.mask, b_qps, cond_true]

theorem Agree.set_rdq {μ : Nat} (b_rdq : μ.testBit 392 = true) {ω e : Dev} (x_rdq : KMap (Nat × Nat) (List Txn)) :
    Agree μ ω { e with rdq := x_rdq } ↔ Agree μ ω e := by
  simp only [Agree, Dev.mask, b_rdq, cond_true]

theorem Agree.set_rows {μ : Nat} (b_rows : μ.testBit 394 = true) {ω e : Dev} (x_rows : KMap (Nat × Nat × Nat) Nat) :
    Agree μ ω { e with rows := x_rows } ↔ Agree μ ω e := by
  simp only [Agree, Dev.mask, b_rows, cond_true]

theorem Agree.set_scrub {μ : Nat} (b_scrub : μ.testBit 399 = true) {ω e : Dev} (x_scrub : KMap (Nat × Nat) Scrub) :
    Agree μ ω { e with scrub := x_scrub } ↔ Agree μ ω e := by
  simp only [Agree, Dev.mask, b_scrub, cond_true]

theorem Agree.set_sites {μ : Nat} (b_sites : μ.testBit 412 = true) {ω e : Dev} (x_sites : KMap Nat Site) :
    Agree μ ω { e with sites := x_sites } ↔ Agree μ ω e := by
  simp only [Agree, Dev.mask, b_sites, cond_true]

theorem Agree.set_sqn {μ : Nat} (b_sqn : μ.testBit 387 = true) {ω e : Dev} (x_sqn : Nat) :
    Agree μ ω { e with sqn := x_sqn } ↔ Agree μ ω e := by
  simp only [Agree, Dev.mask, b_sqn, cond_true]

theorem Agree.set_stest {μ : Nat} (b_stest : μ.testBit 401 = true) {ω e : Dev} (x_stest : List (Nat × Nat × Nat)) :
    Agree μ ω { e with stest := x_stest } ↔ Agree μ ω e := by
  simp only [Agree, Dev.mask, b_stest, cond_true]

theorem Agree.set_stews {μ : Nat} (b_stews : μ.testBit 421 = true) {ω e : Dev} (x_stews : KMap Nat Stew) :
    Agree μ ω { e with stews := x_stews } ↔ Agree μ ω e := by
  simp only [Agree, Dev.mask, b_stews, cond_true]

theorem Agree.set_stwIo {μ : Nat} (b_stwIo : μ.testBit 407 = true) {ω e : Dev} (x_stwIo : KMap Nat (Bytes × Bool × Nat)) :
    Agree μ ω { e with stwIo := x_stwIo } ↔ Agree μ ω e := by
  simp only [Agree, Dev.mask, b_stwIo, cond_true]

theorem Agree.set_swGen {μ : Nat} (b_swGen : μ.testBit 384 = true) {ω e : Dev} (x_swGen : List Nat) :
    Agree μ ω { e with swGen := x_swGen } ↔ Agree μ ω e := by
  simp only [Agree, Dev.mask, b_swGen, cond_true]

theorem Agree.set_tmb {μ : Nat} (b_tmb : μ.testBit 382 = true) {ω e : Dev} (x_tmb : KMap Nat Word) :
    Agree μ ω { e with tmb := x_tmb } ↔ Agree μ ω e := by
  simp only [Agree, Dev.mask, b_tmb, cond_true]

theorem Agree.set_tripN {μ : Nat} (b_tripN : μ.testBit 414 = true) {ω e : Dev} (x_tripN : List Bool) :
    Agree μ ω { e with tripN := x_tripN } ↔ Agree μ ω e := by
  simp only [Agree, Dev.mask, b_tripN, cond_true]

theorem Agree.set_unfs {μ : Nat} (b_unfs : μ.testBit 389 = true) {ω e : Dev} (x_unfs : KMap Nat Unf) :
    Agree μ ω { e with unfs := x_unfs } ↔ Agree μ ω e := by
  simp only [Agree, Dev.mask, b_unfs, cond_true]

theorem Agree.set_unwritten {μ : Nat} (b_unwritten : μ.testBit 376 = true) {ω e : Dev} (x_unwritten : List (Nat × Nat)) :
    Agree μ ω { e with unwritten := x_unwritten } ↔ Agree μ ω e := by
  simp only [Agree, Dev.mask, b_unwritten, cond_true]

theorem Agree.set_waits {μ : Nat} (b_waits : μ.testBit 383 = true) {ω e : Dev} (x_waits : List WaitEnt) :
    Agree μ ω { e with waits := x_waits } ↔ Agree μ ω e := by
  simp only [Agree, Dev.mask, b_waits, cond_true]

theorem Agree.set_wards {μ : Nat} (b_wards : μ.testBit 423 = true) {ω e : Dev} (x_wards : KMap Nat Ward) :
    Agree μ ω { e with wards := x_wards } ↔ Agree μ ω e := by
  simp only [Agree, Dev.mask, b_wards, cond_true]

theorem Agree.set_wback {μ : Nat} (b_wback : μ.testBit 400 = true) {ω e : Dev} (x_wback : List (Nat × Bytes × Bytes)) :
    Agree μ ω { e with wback := x_wback } ↔ Agree μ ω e := by
  simp only [Agree, Dev.mask, b_wback, cond_true]

theorem Agree.set_wrq {μ : Nat} (b_wrq : μ.testBit 393 = true) {ω e : Dev} (x_wrq : KMap (Nat × Nat) (List Nat)) :
    Agree μ ω { e with wrq := x_wrq } ↔ Agree μ ω e := by
  simp only [Agree, Dev.mask, b_wrq, cond_true]

theorem Agree.set_zfill {μ : Nat} (b_zfill : μ.testBit 402 = true) {ω e : Dev} (x_zfill : KMap Nat Nat) :
    Agree μ ω { e with zfill := x_zfill } ↔ Agree μ ω e := by
  simp only [Agree, Dev.mask, b_zfill, cond_true]

theorem Agree.set_aon_wards {μ : Nat} (b_aon : μ.testBit 370 = true) (b_wards : μ.testBit 423 = true) {ω e : Dev} (x_aon : List Bool) (x_wards : KMap Nat Ward) :
    Agree μ ω { e with aon := x_aon, wards := x_wards } ↔ Agree μ ω e := by
  simp only [Agree, Dev.mask, b_aon, b_wards, cond_true]

theorem Agree.set_conv_narrow {μ : Nat} (b_conv : μ.testBit 397 = true) (b_narrow : μ.testBit 396 = true) {ω e : Dev} (x_conv : KMap Nat (Nat × Bool)) (x_narrow : List (Nat × Nat)) :
    Agree μ ω { e with conv := x_conv, narrow := x_narrow } ↔ Agree μ ω e := by
  simp only [Agree, Dev.mask, b_conv, b_narrow, cond_true]

theorem Agree.set_krg_drains {μ : Nat} (b_krg : μ.testBit 404 = true) (b_drains : μ.testBit 406 = true) {ω e : Dev} (x_krg : KMap (Nat × Nat × Nat) KEnt) (x_drains : KMap (Nat × Nat) Drain) :
    Agree μ ω { e with krg := x_krg, drains := x_drains } ↔ Agree μ ω e := by
  simp only [Agree, Dev.mask, b_krg, b_drains, cond_true]

theorem Agree.set_memtest_narrow {μ : Nat} (b_memtest : μ.testBit 403 = true) (b_narrow : μ.testBit 396 = true) {ω e : Dev} (x_memtest : KMap Nat MemTest) (x_narrow : List (Nat × Nat)) :
    Agree μ ω { e with memtest := x_memtest, narrow := x_narrow } ↔ Agree μ ω e := by
  simp only [Agree, Dev.mask, b_memtest, b_narrow, cond_true]

theorem Agree.set_net_ctl {μ : Nat} (b_net : μ.testBit 386 = true) (b_ctl : μ.testBit 385 = true) {ω e : Dev} (x_net : List Pkt) (x_ctl : List CtlMsg) :
    Agree μ ω { e with net := x_net, ctl := x_ctl } ↔ Agree μ ω e := by
  simp only [Agree, Dev.mask, b_net, b_ctl, cond_true]

theorem Agree.set_parts_cellPart {μ : Nat} (b_parts : μ.testBit 422 = true) (b_cellPart : μ.testBit 381 = true) {ω e : Dev} (x_parts : KMap Nat Part) (x_cellPart : KMap Nat Nat) :
    Agree μ ω { e with parts := x_parts, cellPart := x_cellPart } ↔ Agree μ ω e := by
  simp only [Agree, Dev.mask, b_parts, b_cellPart, cond_true]

theorem Agree.set_cores_cells_waits {μ : Nat} (b_cores : μ.testBit 379 = true) (b_cells : μ.testBit 380 = true) (b_waits : μ.testBit 383 = true) {ω e : Dev} (x_cores : KMap Nat Core) (x_cells : KMap Nat CellSt) (x_waits : List WaitEnt) :
    Agree μ ω { e with cores := x_cores, cells := x_cells, waits := x_waits } ↔ Agree μ ω e := by
  simp only [Agree, Dev.mask, b_cores, b_cells, b_waits, cond_true]

theorem Agree.set_hbm_narrow_stews {μ : Nat} (b_hbm : μ.testBit 395 = true) (b_narrow : μ.testBit 396 = true) (b_stews : μ.testBit 421 = true) {ω e : Dev} (x_hbm : KMap Nat HbmSt) (x_narrow : List (Nat × Nat)) (x_stews : KMap Nat Stew) :
    Agree μ ω { e with hbm := x_hbm, narrow := x_narrow, stews := x_stews } ↔ Agree μ ω e := by
  simp only [Agree, Dev.mask, b_hbm, b_narrow, b_stews, cond_true]

theorem Agree.set_mem_errs_unwritten {μ : Nat} (b_mem : μ.testBit 375 = true) (b_errs : μ.testBit 377 = true) (b_unwritten : μ.testBit 376 = true) {ω e : Dev} (x_mem : Memory) (x_errs : KMap Nat Nat) (x_unwritten : List (Nat × Nat)) :
    Agree μ ω { e with mem := x_mem, errs := x_errs, unwritten := x_unwritten } ↔ Agree μ ω e := by
  simp only [Agree, Dev.mask, b_mem, b_errs, b_unwritten, cond_true]

theorem Agree.set_net_bq_rdq {μ : Nat} (b_net : μ.testBit 386 = true) (b_bq : μ.testBit 391 = true) (b_rdq : μ.testBit 392 = true) {ω e : Dev} (x_net : List Pkt) (x_bq : KMap (Nat × Nat × Nat) (List Txn)) (x_rdq : KMap (Nat × Nat) (List Txn)) :
    Agree μ ω { e with net := x_net, bq := x_bq, rdq := x_rdq } ↔ Agree μ ω e := by
  simp only [Agree, Dev.mask, b_net, b_bq, b_rdq, cond_true]

theorem Agree.set_unwritten_mem_errs {μ : Nat} (b_unwritten : μ.testBit 376 = true) (b_mem : μ.testBit 375 = true) (b_errs : μ.testBit 377 = true) {ω e : Dev} (x_unwritten : List (Nat × Nat)) (x_mem : Memory) (x_errs : KMap Nat Nat) :
    Agree μ ω { e with unwritten := x_unwritten, mem := x_mem, errs := x_errs } ↔ Agree μ ω e := by
  simp only [Agree, Dev.mask, b_unwritten, b_mem, b_errs, cond_true]

theorem Agree.set_unwritten_mem_errs_merge {μ : Nat} (b_unwritten : μ.testBit 376 = true) (b_mem : μ.testBit 375 = true) (b_errs : μ.testBit 377 = true) (b_merge : μ.testBit 398 = true) {ω e : Dev} (x_unwritten : List (Nat × Nat)) (x_mem : Memory) (x_errs : KMap Nat Nat) (x_merge : KMap (Nat × Nat) (List MEnt)) :
    Agree μ ω { e with unwritten := x_unwritten, mem := x_mem, errs := x_errs, merge := x_merge } ↔ Agree μ ω e := by
  simp only [Agree, Dev.mask, b_unwritten, b_mem, b_errs, b_merge, cond_true]

theorem Agree.set_unwritten_mem_errs_wback_scrub {μ : Nat} (b_unwritten : μ.testBit 376 = true) (b_mem : μ.testBit 375 = true) (b_errs : μ.testBit 377 = true) (b_wback : μ.testBit 400 = true) (b_scrub : μ.testBit 399 = true) {ω e : Dev} (x_unwritten : List (Nat × Nat)) (x_mem : Memory) (x_errs : KMap Nat Nat) (x_wback : List (Nat × Bytes × Bytes)) (x_scrub : KMap (Nat × Nat) Scrub) :
    Agree μ ω { e with unwritten := x_unwritten, mem := x_mem, errs := x_errs, wback := x_wback, scrub := x_scrub } ↔ Agree μ ω e := by
  simp only [Agree, Dev.mask, b_unwritten, b_mem, b_errs, b_wback, b_scrub, cond_true]

theorem Agree.set_zfill_mem_unwritten_errs_merge {μ : Nat} (b_zfill : μ.testBit 402 = true) (b_mem : μ.testBit 375 = true) (b_unwritten : μ.testBit 376 = true) (b_errs : μ.testBit 377 = true) (b_merge : μ.testBit 398 = true) {ω e : Dev} (x_zfill : KMap Nat Nat) (x_mem : Memory) (x_unwritten : List (Nat × Nat)) (x_errs : KMap Nat Nat) (x_merge : KMap (Nat × Nat) (List MEnt)) :
    Agree μ ω { e with zfill := x_zfill, mem := x_mem, unwritten := x_unwritten, errs := x_errs, merge := x_merge } ↔ Agree μ ω e := by
  simp only [Agree, Dev.mask, b_zfill, b_mem, b_unwritten, b_errs, b_merge, cond_true]

theorem Agree.set_aon_lcnt_wards_pws_i3c_i3cOut_alert_tripN {μ : Nat} (b_aon : μ.testBit 370 = true) (b_lcnt : μ.testBit 378 = true) (b_wards : μ.testBit 423 = true) (b_pws : μ.testBit 424 = true) (b_i3c : μ.testBit 426 = true) (b_i3cOut : μ.testBit 427 = true) (b_alert : μ.testBit 413 = true) (b_tripN : μ.testBit 414 = true) {ω e : Dev} (x_aon : List Bool) (x_lcnt : List Nat) (x_wards : KMap Nat Ward) (x_pws : KMap Nat PwSt) (x_i3c : KMap Nat (Bytes × Option Nat)) (x_i3cOut : KMap Nat (Bool × Bytes)) (x_alert : List Bool) (x_tripN : List Bool) :
    Agree μ ω { e with aon := x_aon, lcnt := x_lcnt, wards := x_wards, pws := x_pws, i3c := x_i3c, i3cOut := x_i3cOut, alert := x_alert, tripN := x_tripN } ↔ Agree μ ω e := by
  simp only [Agree, Dev.mask, b_aon, b_lcnt, b_wards, b_pws, b_i3c, b_i3cOut, b_alert, b_tripN, cond_true]

theorem Agree.set_cores_cells_engs_unfs_dsps_waits_chunks_stest {μ : Nat} (b_cores : μ.testBit 379 = true) (b_cells : μ.testBit 380 = true) (b_engs : μ.testBit 388 = true) (b_unfs : μ.testBit 389 = true) (b_dsps : μ.testBit 390 = true) (b_waits : μ.testBit 383 = true) (b_chunks : μ.testBit 425 = true) (b_stest : μ.testBit 401 = true) {ω e : Dev} (x_cores : KMap Nat Core) (x_cells : KMap Nat CellSt) (x_engs : KMap Nat Eng) (x_unfs : KMap Nat Unf) (x_dsps : KMap Nat Dsp) (x_waits : List WaitEnt) (x_chunks : List (Nat × Bytes)) (x_stest : List (Nat × Nat × Nat)) :
    Agree μ ω { e with cores := x_cores, cells := x_cells, engs := x_engs, unfs := x_unfs, dsps := x_dsps, waits := x_waits, chunks := x_chunks, stest := x_stest } ↔ Agree μ ω e := by
  simp only [Agree, Dev.mask, b_cores, b_cells, b_engs, b_unfs, b_dsps, b_waits, b_chunks, b_stest, cond_true]

theorem Dev.put_kp {μ : Nat} {ω : Dev} (d : Dev) (f : Fld) (v die i s : Nat) (hf : μ.testBit f.reg.ctorIdx = true)
    (hμ : Within 0x0 μ) (hκ : Agree μ ω d) : Agree μ ω (d.put f v die i s) := Dev.setRaw_kp _ _ _ hf hκ

theorem Dev.count_kp {μ : Nat} {ω : Dev} (d : Dev) (f : Fld) (k : Nat) (die : Nat) (i : Nat) (s : Nat) (hf : μ.testBit f.reg.ctorIdx = true) (hμ : Within 0x0 μ) (hκ : Agree μ ω d) : Agree μ ω (Dev.count d f k die i s) := by
  unfold Dev.count
  repeat' (first | with_reducible assumption | intro _ | (simp only [id_eq]) | (with_reducible refine Dev.put_kp (hf := by first | assumption | exact hμ.bit rfl) (hμ := hμ.up (by decide)) (hκ := ?_) ..) | (with_reducible apply Agree.ite) | split)

theorem Dev.countSat_kp {μ : Nat} {ω : Dev} (d : Dev) (f : Fld) (k : Nat) (die : Nat) (i : Nat) (s : Nat) (hf : μ.testBit f.reg.ctorIdx = true) (hμ : Within 0x0 μ) (hκ : Agree μ ω d) : Agree μ ω (Dev.countSat d f k die i s) := by
  unfold Dev.countSat
  repeat' (first | with_reducible assumption | intro _ | (simp only [id_eq]) | (with_reducible refine Dev.put_kp (hf := by first | assumption | exact hμ.bit rfl) (hμ := hμ.up (by decide)) (hκ := ?_) ..) | (with_reducible apply Agree.ite) | split)

theorem Dev.count64_kp {μ : Nat} {ω : Dev} (d : Dev) (lo : Fld) (hi : Fld) (k : Nat) (die : Nat) (i : Nat) (s : Nat) (hlo : μ.testBit lo.reg.ctorIdx = true) (hhi : μ.testBit hi.reg.ctorIdx = true) (hμ : Within 0x0 μ) (hκ : Agree μ ω d) : Agree μ ω (Dev.count64 d lo hi k die i s) := by
  unfold Dev.count64
  repeat' (first | with_reducible assumption | intro _ | (simp only [id_eq]) | (with_reducible refine Dev.put_kp (hf := by first | assumption | exact hμ.bit rfl) (hμ := hμ.up (by decide)) (hκ := ?_) ..) | (with_reducible apply Agree.ite) | split)

theorem Dev.put64_kp {μ : Nat} {ω : Dev} (d : Dev) (lo : Fld) (hi : Fld) (v : Nat) (die : Nat) (i : Nat) (s : Nat) (hlo : μ.testBit lo.reg.ctorIdx = true) (hhi : μ.testBit hi.reg.ctorIdx = true) (hμ : Within 0x0 μ) (hκ : Agree μ ω d) : Agree μ ω (Dev.put64 d lo hi v die i s) := by
  unfold Dev.put64
  repeat' (first | with_reducible assumption | intro _ | (simp only [id_eq]) | (with_reducible refine Dev.put_kp (hf := by first | assumption | exact hμ.bit rfl) (hμ := hμ.up (by decide)) (hκ := ?_) ..) | (with_reducible apply Agree.ite) | split)

theorem Reg.ctorIdx_lt (r : Reg) : r.ctorIdx < 368 := by cases r <;> decide

theorem Reg.all_bit (r : Reg) : Nat.testBit 0xffffffffffffffffffffffffffffffffffffffffffffffffffffffffffffffffffffffffffffffffffffffffffff r.ctorIdx = true := by cases r <;> rfl

theorem Dev.resetRegs_kp {μ : Nat} {ω : Dev} (d : Dev) (die : Nat) (doms : List Dom) (hμ : Within 0xffffffffffffffffffffffffffffffffffffffffffffffffffffffffffffffffffffffffffffffffffffffffffff μ) (hκ : Agree μ ω d) :
    Agree μ ω (d.resetRegs die doms) :=
  Agree.setRf _ (KMap.delIf_delIf _ _ _ fun k _ => hμ.bit (Reg.all_bit k.reg)) hκ

theorem Dev.writeGen_kp {μ : Nat} {ω : Dev} (d : Dev) (k : RKey) (v : Nat) (keep : List Fld) (hk : μ.testBit k.reg.ctorIdx = true) (hκ : Agree μ ω d) :
    Agree μ ω (d.writeGen k v keep) := Dev.setRaw_kp _ _ _ hk hκ

theorem Dev.writeKey_kp {μ : Nat} {ω : Dev} (d : Dev) (r : Reg) (die i s v : Nat) (keep : List Fld) (hr : μ.testBit r.ctorIdx = true) (hκ : Agree μ ω d) :
    Agree μ ω (d.writeGen ⟨r, die, i, s⟩ v keep) := Dev.setRaw_kp _ _ _ hr hκ

theorem Dev.draw_kp {μ : Nat} {ω : Dev} (d : Dev)  (hμ : Within 0x4000000000000000000000000000000000000000000000000000000000000000000000000000000000000000000000 μ) (hκ : Agree μ ω d) : Agree μ ω (Dev.draw d).2 := by
  unfold Dev.draw
  repeat' (first | with_reducible assumption | intro _ | (simp only [id_eq]) | (simp only [Agree.set_free (hμ.bit (by decide))]) | (with_reducible apply Agree.ite) | split)

theorem Dev.draw_kp' {μ : Nat} {ω : Dev} {d : Dev} {y0} {rd : Dev} (heq : Dev.draw d = (y0, rd))  (hμ : Within 0x4000000000000000000000000000000000000000000000000000000000000000000000000000000000000000000000 μ) (hκ : Agree μ ω d) : Agree μ ω rd := by
  have k := Dev.draw_kp (μ := μ) (ω := ω) d  (hμ := hμ) (hκ := hκ); rw [heq] at k; exact k

theorem Dev.fltDrop_kp {μ : Nat} {ω : Dev} (d : Dev) (die : Nat) (cls : Nat)  (hμ : Within 0x41000000000000000000000000000000000000000000000000000000000000000000000000000000000000000 μ) (hκ : Agree μ ω d) : Agree μ ω (Dev.fltDrop d die cls) := by
  unfold Dev.fltDrop
  repeat' (first | with_reducible assumption | intro _ | (simp only [id_eq]) | (with_reducible refine Dev.countSat_kp (hf := by first | assumption | exact hμ.bit rfl) (hμ := hμ.up (by decide)) (hκ := ?_) ..) | (with_reducible refine Dev.put_kp (hf := by first | assumption | exact hμ.bit rfl) (hμ := hμ.up (by decide)) (hκ := ?_) ..) | (with_reducible apply Agree.ite) | split)

theorem Dev.fltStore_kp {μ : Nat} {ω : Dev} (d : Dev) (die pos j : Nat) (ws : List Nat) (hμ : Within 0x200000000000000000000000000000000000000000000000000000000000000000000000000000000000000000 μ) (hκ : Agree μ ω d) :
    Agree μ ω (Dev.fltStore d die pos j ws) := by
  induction ws generalizing j with
  | nil => exact hκ
  | cons w ws ih => exact Dev.setKey_kp _ _ _ _ _ _ (hμ.bit (by decide)) (ih _)

theorem Dev.fltPut_kp {μ : Nat} {ω : Dev} (d : Dev) (die : Nat) (cls : Nat) (words : Nat → List Nat)  (hμ : Within 0x80000000000000245000000000000000000000000000000000000000000000000000000000000000000000000000000000000000 μ) (hκ : Agree μ ω d) : Agree μ ω (Dev.fltPut d die cls words) := by
  unfold Dev.fltPut
  repeat' (first | with_reducible assumption | intro _ | (simp only [id_eq]) | (simp only [Agree.set_irqs (hμ.bit (by decide))]) | (with_reducible refine Dev.fltDrop_kp (hμ := hμ.up (by decide)) (hκ := ?_) ..) | (with_reducible refine Dev.fltStore_kp (hμ := hμ.up (by decide)) (hκ := ?_) ..) | (with_reducible refine Dev.put_kp (hf := by first | assumption | exact hμ.bit rfl) (hμ := hμ.up (by decide)) (hκ := ?_) ..) | (with_reducible apply Agree.ite) | split)

theorem Dev.post_kp {μ : Nat} {ω : Dev} (d : Dev) (die : Nat) (r : Rec)  (hμ : Within 0x80000000000000245000000000000000000000000000000000000000000000000000000000000000000000000000000000000000 μ) (hκ : Agree μ ω d) : Agree μ ω (Dev.post d die r) := by
  unfold Dev.post
  repeat' (first | with_reducible assumption | intro _ | (simp only [id_eq]) | (with_reducible refine Dev.fltPut_kp (hμ := hμ.up (by decide)) (hκ := ?_) ..) | (with_reducible apply Agree.ite) | split)

theorem Dev.stwPost_kp {μ : Nat} {ω : Dev} (d : Dev) (die : Nat) (r : Rec)  (hμ : Within 0x80000000000000345000000000000000000000000000000000000000000000000000000000000000000000000000000000000000 μ) (hκ : Agree μ ω d) : Agree μ ω (Dev.stwPost d die r) := by
  unfold Dev.stwPost
  repeat' (first | with_reducible assumption | intro _ | (simp only [id_eq]) | (with_reducible refine Dev.post_kp (hμ := hμ.up (by decide)) (hκ := ?_) ..) | (with_reducible refine Dev.put_kp (hf := by first | assumption | exact hμ.bit rfl) (hμ := hμ.up (by decide)) (hκ := ?_) ..) | (with_reducible apply Agree.ite) | split)

theorem Dev.fltPop_kp {μ : Nat} {ω : Dev} (d : Dev) (die : Nat) (n : Nat)  (hμ : Within 0x3000000000000000000000000000000000000000000000000000000000000000000000000000000000000000 μ) (hκ : Agree μ ω d) : Agree μ ω (Dev.fltPop d die n) := by
  unfold Dev.fltPop
  repeat' (first | with_reducible assumption | intro _ | (simp only [id_eq]) | (with_reducible refine Dev.put_kp (hf := by first | assumption | exact hμ.bit rfl) (hμ := hμ.up (by decide)) (hκ := ?_) ..) | (with_reducible apply Agree.ite) | split)

theorem Dev.fltPost_kp {μ : Nat} {ω : Dev} (d : Dev) (die : Nat)  (hμ : Within 0x80000000000000345000000000000000000000000000000000000000000000000000000000000000000000000000000000000000 μ) (hκ : Agree μ ω d) : Agree μ ω (Dev.fltPost d die) := by
  unfold Dev.fltPost
  repeat' (first | with_reducible assumption | intro _ | (simp only [id_eq]) | (with_reducible refine Dev.fltPut_kp (hμ := hμ.up (by decide)) (hκ := ?_) ..) | (with_reducible refine Dev.put_kp (hf := by first | assumption | exact hμ.bit rfl) (hμ := hμ.up (by decide)) (hκ := ?_) ..) | (with_reducible apply Agree.ite) | split)

theorem Dev.raiseAlert_kp {μ : Nat} {ω : Dev} (d : Dev) (die : Nat)  (hμ : Within 0x20000000000000000000000000000000000000000000000000000000000000000000000000000000000000000000000000000000 μ) (hκ : Agree μ ω d) : Agree μ ω (Dev.raiseAlert d die) := by
  unfold Dev.raiseAlert
  repeat' (first | with_reducible assumption | intro _ | (simp only [id_eq]) | (simp only [Agree.set_alert (hμ.bit (by decide))]) | (with_reducible apply Agree.ite) | split)

theorem Dev.ctlMiss_kp {μ : Nat} {ω : Dev} (d : Dev) (die : Nat) (off : Nat) (write : Bool)  (hμ : Within 0x80000000000000245000000000000000000000000000000000000000000000000000000000000000000000000000000000000000 μ) (hκ : Agree μ ω d) : Agree μ ω (Dev.ctlMiss d die off write) := by
  unfold Dev.ctlMiss
  repeat' (first | with_reducible assumption | intro _ | (simp only [id_eq]) | (with_reducible refine Dev.post_kp (hμ := hμ.up (by decide)) (hκ := ?_) ..) | (with_reducible apply Agree.ite) | split)

theorem Dev.setCore_kp {μ : Nat} {ω : Dev} (d : Dev) (k : Nat) (c : Core)  (hμ : Within 0x80000000000000000000000000000000000000000000000000000000000000000000000000000000000000000000000 μ) (hκ : Agree μ ω d) : Agree μ ω (Dev.setCore d k c) := by
  unfold Dev.setCore
  repeat' (first | with_reducible assumption | intro _ | (simp only [id_eq]) | (simp only [Agree.set_cores (hμ.bit (by decide))]) | (with_reducible refine Dev.put_kp (hf := by first | assumption | exact hμ.bit rfl) (hμ := hμ.up (by decide)) (hκ := ?_) ..) | (with_reducible apply Agree.ite) | split)

theorem Dev.setCell_kp {μ : Nat} {ω : Dev} (d : Dev) (cn : Nat) (c : CellSt)  (hμ : Within 0x100000000000000000000000000000000000000000000000000000000000000000000000000000000000000000000000 μ) (hκ : Agree μ ω d) : Agree μ ω (Dev.setCell d cn c) := by
  unfold Dev.setCell
  repeat' (first | with_reducible assumption | intro _ | (simp only [id_eq]) | (simp only [Agree.set_cells (hμ.bit (by decide))]) | (with_reducible refine Dev.put_kp (hf := by first | assumption | exact hμ.bit rfl) (hμ := hμ.up (by decide)) (hκ := ?_) ..) | (with_reducible apply Agree.ite) | split)

theorem Dev.dbDiscard_kp {μ : Nat} {ω : Dev} (d : Dev) (cn : Nat) (p : Nat)  (hμ : Within 0x80000000000000245000000000000000000000000000000000000000000000000000000000000000000000000000000000000040 μ) (hκ : Agree μ ω d) : Agree μ ω (Dev.dbDiscard d cn p) := by
  unfold Dev.dbDiscard
  repeat' (first | with_reducible assumption | intro _ | (simp only [id_eq]) | (with_reducible refine Dev.countSat_kp (hf := by first | assumption | exact hμ.bit rfl) (hμ := hμ.up (by decide)) (hκ := ?_) ..) | (with_reducible refine Dev.post_kp (hμ := hμ.up (by decide)) (hκ := ?_) ..) | (with_reducible apply Agree.ite) | split)

theorem Dev.hubDiscard_kp {μ : Nat} {ω : Dev} (d : Dev) (cn : Nat) (p : Nat)  (hμ : Within 0x8000000000000000000000000000000000000000000 μ) (hκ : Agree μ ω d) : Agree μ ω (Dev.hubDiscard d cn p) := by
  unfold Dev.hubDiscard
  repeat' (first | with_reducible assumption | intro _ | (simp only [id_eq]) | (with_reducible refine Dev.countSat_kp (hf := by first | assumption | exact hμ.bit rfl) (hμ := hμ.up (by decide)) (hκ := ?_) ..) | (with_reducible apply Agree.ite) | split)

theorem Dev.send_kp {μ : Nat} {ω : Dev} (d : Dev) (m : CtlMsg)  (hμ : Within 0x2000000000000000000000000000000000000000000000000000000000000000000000000000000000000000000000000 μ) (hκ : Agree μ ω d) : Agree μ ω (Dev.send d m) := by
  unfold Dev.send
  repeat' (first | with_reducible assumption | intro _ | (simp only [id_eq]) | (simp only [Agree.set_ctl (hμ.bit (by decide))]) | (with_reducible apply Agree.ite) | split)

theorem Dev.sendOp_kp {μ : Nat} {ω : Dev} (d : Dev) (src : Ep) (opc : Nat) (slot : Nat) (gen : Nat) (home : Nat) (idx : Nat) (part : Nat) (val : Nat) (imm : Nat)  (hμ : Within 0x2000000000000000000000000000000000000000000000000000000000000000000000000000000000000000000000000 μ) (hκ : Agree μ ω d) : Agree μ ω (Dev.sendOp d src opc slot gen home idx part val imm) := by
  unfold Dev.sendOp
  repeat' (first | with_reducible assumption | intro _ | (simp only [id_eq]) | (with_reducible refine Dev.send_kp (hμ := hμ.up (by decide)) (hκ := ?_) ..) | (with_reducible apply Agree.ite) | split)

theorem Dev.chkFail_kp {μ : Nat} {ω : Dev} (d : Dev) (m : CtlMsg)  (hμ : Within 0x80000000000000245000000000000000000000000000000000000000000000000000000000000000000000a00000000000000000 μ) (hκ : Agree μ ω d) : Agree μ ω (Dev.chkFail d m) := by
  unfold Dev.chkFail
  repeat' (first | with_reducible assumption | intro _ | (simp only [id_eq]) | (with_reducible refine Dev.countSat_kp (hf := by first | assumption | exact hμ.bit rfl) (hμ := hμ.up (by decide)) (hκ := ?_) ..) | (with_reducible refine Dev.post_kp (hμ := hμ.up (by decide)) (hκ := ?_) ..) | (with_reducible refine Dev.put_kp (hf := by first | assumption | exact hμ.bit rfl) (hμ := hμ.up (by decide)) (hκ := ?_) ..) | (with_reducible apply Agree.ite) | split)

theorem Dev.setTumbler_kp {μ : Nat} {ω : Dev} (d : Dev) (die : Nat) (idx : Nat) (v : Nat)  (hμ : Within 0x400000000000000000000000000000000000000000000000000000000000000000000000000000000000000000000000 μ) (hκ : Agree μ ω d) : Agree μ ω (Dev.setTumbler d die idx v) := by
  unfold Dev.setTumbler
  repeat' (first | with_reducible assumption | intro _ | (simp only [id_eq]) | (simp only [Agree.set_tmb (hμ.bit (by decide))]) | (with_reducible refine Dev.put_kp (hf := by first | assumption | exact hμ.bit rfl) (hμ := hμ.up (by decide)) (hκ := ?_) ..) | (with_reducible apply Agree.ite) | split)

theorem Dev.wakeWait_kp {μ : Nat} {ω : Dev} (d : Dev) (v : Nat) (w : WaitEnt)  (hμ : Within 0x2000000000000000000000000000000000000000000000000000000000000000000000000000000000000000000000000 μ) (hκ : Agree μ ω d) : Agree μ ω (Dev.wakeWait d v w) := by
  unfold Dev.wakeWait
  repeat' (first | with_reducible assumption | intro _ | (simp only [id_eq]) | (with_reducible refine Dev.send_kp (hμ := hμ.up (by decide)) (hκ := ?_) ..) | (with_reducible apply Agree.ite) | split)

theorem Dev.evalWaits_kp {μ : Nat} {ω : Dev} (d : Dev) (home : Nat) (idx : Nat)  (hμ : Within 0x2800000000000000000000000000000000000000000000000000000000000000000000000000000000000000000000000 μ) (hκ : Agree μ ω d) : Agree μ ω (Dev.evalWaits d home idx) := by
  unfold Dev.evalWaits
  repeat' (first | with_reducible assumption | intro _ | (simp only [id_eq]) | (simp only [Agree.set_waits (hμ.bit (by decide))]) | (with_reducible refine Dev.wakeWait_kp (hμ := hμ.up (by decide)) (hκ := ?_) ..) | (with_reducible apply Agree.ite) | (with_reducible apply Agree.foldl) | (with_reducible apply Agree.foldl_fst) | (with_reducible apply Agree.foldl_snd) | split)

theorem Dev.bankSet_kp {μ : Nat} {ω : Dev} (d : Dev) (home : Nat) (idx : Nat) (v : Nat)  (hμ : Within 0x2c00000000000000000000000000000000000000000000000000000000000000000000000000000000000000000000000 μ) (hκ : Agree μ ω d) : Agree μ ω (Dev.bankSet d home idx v) := by
  unfold Dev.bankSet
  repeat' (first | with_reducible assumption | intro _ | (simp only [id_eq]) | (with_reducible refine Dev.evalWaits_kp (hμ := hμ.up (by decide)) (hκ := ?_) ..) | (with_reducible refine Dev.setTumbler_kp (hμ := hμ.up (by decide)) (hκ := ?_) ..) | (with_reducible apply Agree.ite) | split)

theorem Dev.bankAdd_kp {μ : Nat} {ω : Dev} (d : Dev) (home : Nat) (idx : Nat) (v : Nat)  (hμ : Within 0x2c00000000000000000000000000000000000000000000000000000000000000000000000000000600000000000000000 μ) (hκ : Agree μ ω d) : Agree μ ω (Dev.bankAdd d home idx v) := by
  unfold Dev.bankAdd
  repeat' (first | with_reducible assumption | intro _ | (simp only [id_eq]) | (with_reducible refine Dev.bankSet_kp (hμ := hμ.up (by decide)) (hκ := ?_) ..) | (with_reducible refine Dev.countSat_kp (hf := by first | assumption | exact hμ.bit rfl) (hμ := hμ.up (by decide)) (hκ := ?_) ..) | (with_reducible refine Dev.put_kp (hf := by first | assumption | exact hμ.bit rfl) (hμ := hμ.up (by decide)) (hκ := ?_) ..) | (with_reducible apply Agree.ite) | split)

theorem Dev.bankWithdraw_kp {μ : Nat} {ω : Dev} (d : Dev) (home : Nat) (who : Ep) (slot : Nat)  (hμ : Within 0x800000000000000000000000000000000000000000000000000000000000000000000000000000000000000000000000 μ) (hκ : Agree μ ω d) : Agree μ ω (Dev.bankWithdraw d home who slot) := by
  unfold Dev.bankWithdraw
  repeat' (first | with_reducible assumption | intro _ | (simp only [id_eq]) | (simp only [Agree.set_waits (hμ.bit (by decide))]) | (with_reducible apply Agree.ite) | split)

theorem Dev.bankArm_kp {μ : Nat} {ω : Dev} (d : Dev) (w : WaitEnt)  (hμ : Within 0x2800000000000000000000000000000000000000000000000000000000000000000000000000000000000000000000000 μ) (hκ : Agree μ ω d) : Agree μ ω (Dev.bankArm d w) := by
  unfold Dev.bankArm
  repeat' (first | with_reducible assumption | intro _ | (simp only [id_eq]) | (simp only [Agree.set_waits (hμ.bit (by decide))]) | (with_reducible refine Dev.bankWithdraw_kp (hμ := hμ.up (by decide)) (hκ := ?_) ..) | (with_reducible refine Dev.wakeWait_kp (hμ := hμ.up (by decide)) (hκ := ?_) ..) | (with_reducible apply Agree.ite) | split)

theorem Dev.upset_kp {μ : Nat} {ω : Dev} (d : Dev) (ups : List (Nat × Nat))  (hμ : Within 0x20000000000000000000000000000000000000000000000000000000000000000000000000000000000000000000000 μ) (hκ : Agree μ ω d) : Agree μ ω (Dev.upset d ups) := by
  unfold Dev.upset
  repeat' (first | with_reducible assumption | intro _ | (simp only [id_eq]) | (simp only [Agree.set_errs (hμ.bit (by decide))]) | (with_reducible refine Dev.put_kp (hf := by first | assumption | exact hμ.bit rfl) (hμ := hμ.up (by decide)) (hκ := ?_) ..) | (with_reducible apply Agree.ite) | (with_reducible apply Agree.foldl) | (with_reducible apply Agree.foldl_fst) | (with_reducible apply Agree.foldl_snd) | split)

theorem Dev.writeUnit_kp {μ : Nat} {ω : Dev} (d : Dev) (a : Nat) (bs : Bytes)  (hμ : Within 0x38000000000000000000000000000000000000000000000000000000000000000000000000000000000000000000000 μ) (hκ : Agree μ ω d) : Agree μ ω (Dev.writeUnit d a bs) := by
  unfold Dev.writeUnit
  repeat' (first | with_reducible assumption | intro _ | (simp only [id_eq]) | (simp only [Agree.set_mem_errs_unwritten (hμ.bit (by decide)) (hμ.bit (by decide)) (hμ.bit (by decide))]) | (with_reducible apply Agree.ite) | split)

theorem Dev.markUnit_kp {μ : Nat} {ω : Dev} (d : Dev) (a : Nat) (m : Nat)  (hμ : Within 0x20000000000000000000000000000000000000000000000000000000000000000000000000000000000000000000000 μ) (hκ : Agree μ ω d) : Agree μ ω (Dev.markUnit d a m) := by
  unfold Dev.markUnit
  repeat' (first | with_reducible assumption | intro _ | (simp only [id_eq]) | (simp only [Agree.set_errs (hμ.bit (by decide))]) | (with_reducible refine Dev.put_kp (hf := by first | assumption | exact hμ.bit rfl) (hμ := hμ.up (by decide)) (hκ := ?_) ..) | (with_reducible apply Agree.ite) | split)

theorem Dev.spCount_kp {μ : Nat} {ω : Dev} (d : Dev) (key : Nat) (fixed : Nat) (ues : Nat)  (hμ : Within 0xc00000000000000000000000000000000 μ) (hκ : Agree μ ω d) : Agree μ ω (Dev.spCount d key fixed ues) := by
  unfold Dev.spCount
  repeat' (first | with_reducible assumption | intro _ | (simp only [id_eq]) | (with_reducible refine Dev.countSat_kp (hf := by first | assumption | exact hμ.bit rfl) (hμ := hμ.up (by decide)) (hκ := ?_) ..) | (with_reducible apply Agree.ite) | split)

theorem Dev.spLoad_kp {μ : Nat} {ω : Dev} (d : Dev) (key : Nat) (off : Nat) (n : Nat)  (hμ : Within 0x4000000000000000000000000000000000000000000000000000000000000c00000000000000000000000000000000 μ) (hκ : Agree μ ω d) : Agree μ ω (Dev.spLoad d key off n).2 := by
  unfold Dev.spLoad
  repeat' (first | with_reducible assumption | intro _ | (simp only [id_eq]) | (with_reducible refine Dev.draw_kp' (heq := by with_reducible assumption) (hμ := hμ.up (by decide)) (hκ := ?_) ..) | (with_reducible refine Dev.draw_kp (hμ := hμ.up (by decide)) (hκ := ?_) ..) | (with_reducible refine Dev.spCount_kp (hμ := hμ.up (by decide)) (hκ := ?_) ..) | (with_reducible apply Agree.ite) | split)

theorem Dev.spLoad_kp' {μ : Nat} {ω : Dev} {d : Dev} {key : Nat} {off : Nat} {n : Nat} {y0} {rd : Dev} (heq : Dev.spLoad d key off n = (y0, rd))  (hμ : Within 0x4000000000000000000000000000000000000000000000000000000000000c00000000000000000000000000000000 μ) (hκ : Agree μ ω d) : Agree μ ω rd := by
  have k := Dev.spLoad_kp (μ := μ) (ω := ω) d key off n  (hμ := hμ) (hκ := hκ); rw [heq] at k; exact k

theorem Dev.spWriteWord_kp {μ : Nat} {ω : Dev} (d : Dev) (k : Nat) (key : Nat) (a : Nat) (p : Nat) (bs : Bytes)  (hμ : Within 0x38000000000000000000000000000000000000000000000000000000000000c00000000000000000000000000000000 μ) (hκ : Agree μ ω d) : Agree μ ω (Dev.spWriteWord d k key a p bs) := by
  unfold Dev.spWriteWord
  repeat' (first | with_reducible assumption | intro _ | (simp only [id_eq]) | (with_reducible refine Dev.markUnit_kp (hμ := hμ.up (by decide)) (hκ := ?_) ..) | (with_reducible refine Dev.spCount_kp (hμ := hμ.up (by decide)) (hκ := ?_) ..) | (with_reducible refine Dev.writeUnit_kp (hμ := hμ.up (by decide)) (hκ := ?_) ..) | (with_reducible apply Agree.ite) | split)

theorem Dev.spStore_kp {μ : Nat} {ω : Dev} (d : Dev) (key : Nat) (off : Nat) (bs : Bytes)  (hμ : Within 0x3c000000000000000000000000000000000000000000000000000000000000c00000000000000000000000000000000 μ) (hκ : Agree μ ω d) : Agree μ ω (Dev.spStore d key off bs) := by
  unfold Dev.spStore
  repeat' (first | with_reducible assumption | intro _ | (simp only [id_eq]) | (with_reducible refine Dev.draw_kp' (heq := by with_reducible assumption) (hμ := hμ.up (by decide)) (hκ := ?_) ..) | (with_reducible refine Dev.draw_kp (hμ := hμ.up (by decide)) (hκ := ?_) ..) | (with_reducible refine Dev.spWriteWord_kp (hμ := hμ.up (by decide)) (hκ := ?_) ..) | (with_reducible apply Agree.ite) | (with_reducible apply Agree.foldl) | (with_reducible apply Agree.foldl_fst) | (with_reducible apply Agree.foldl_snd) | split)

theorem Dev.spInvalid_kp {μ : Nat} {ω : Dev} (d : Dev) (key : Nat)  (hμ : Within 0x38000000000000000000000000000000000000000000000000000000000000000000000000000000000000000000000 μ) (hκ : Agree μ ω d) : Agree μ ω (Dev.spInvalid d key) := by
  unfold Dev.spInvalid
  repeat' (first | with_reducible assumption | intro _ | (simp only [id_eq]) | (simp only [Agree.set_unwritten_mem_errs (hμ.bit (by decide)) (hμ.bit (by decide)) (hμ.bit (by decide))]) | (with_reducible apply Agree.ite) | split)

theorem Dev.setMerge_kp {μ : Nat} {ω : Dev} (d : Dev) (die : Nat) (bank : Nat) (es : List MEnt)  (hμ : Within 0x4000000000000000000000000000000000000000000000000000000000000000000000000000000000000000000000000000 μ) (hκ : Agree μ ω d) : Agree μ ω (Dev.setMerge d die bank es) := by
  unfold Dev.setMerge
  repeat' (first | with_reducible assumption | intro _ | (simp only [id_eq]) | (simp only [Agree.set_merge (hμ.bit (by decide))]) | (with_reducible refine Dev.put_kp (hf := by first | assumption | exact hμ.bit rfl) (hμ := hμ.up (by decide)) (hκ := ?_) ..) | (with_reducible apply Agree.ite) | split)

theorem Dev.sbCount_kp {μ : Nat} {ω : Dev} (d : Dev) (die : Nat) (woff : Nat) (r : Rd)  (hμ : Within 0x1c000000000000000000000000000000 μ) (hκ : Agree μ ω d) : Agree μ ω (Dev.sbCount d die woff r) := by
  unfold Dev.sbCount
  repeat' (first | with_reducible assumption | intro _ | (simp only [id_eq]) | (with_reducible refine Dev.setKey_kp _ _ _ _ _ _ (by first | assumption | exact hμ.bit (by decide) | exact hall _) ?_) | (with_reducible refine Dev.setRaw_kp _ _ _ (by assumption) ?_) | (with_reducible refine Dev.countSat_kp (hf := by first | assumption | exact hμ.bit rfl) (hμ := hμ.up (by decide)) (hκ := ?_) ..) | (with_reducible apply Agree.ite) | split)

theorem Dev.sbWords_kp {μ : Nat} {ω : Dev} (d : Dev) (k die : Nat) (ws : List Nat) (hμ : Within 0x1c000000000000000000000000000000 μ) (hκ : Agree μ ω d) :
    Agree μ ω (Dev.sbWords d k die ws).2 := by
  induction ws generalizing d with
  | nil => exact hκ
  | cons x ws ih =>
    unfold Dev.sbWords
    repeat' (first | with_reducible assumption | intro _ | (simp only [id_eq]) | (with_reducible refine ih _ ?_) | (with_reducible refine Dev.sbCount_kp (hμ := hμ.up (by decide)) (hκ := ?_) ..) | (with_reducible apply Agree.ite) | split)

theorem Dev.sbWords_kp' {μ : Nat} {ω : Dev} {d : Dev} {k die : Nat} {ws : List Nat} {y0} {rd : Dev} (heq : Dev.sbWords d k die ws = (y0, rd)) (hμ : Within 0x1c000000000000000000000000000000 μ) (hκ : Agree μ ω d) : Agree μ ω rd := by
  have k := Dev.sbWords_kp (μ := μ) (ω := ω) d k die ws hμ hκ; rw [heq] at k; exact k

theorem Dev.sbLoad_kp {μ : Nat} {ω : Dev} (d : Dev) (die : Nat) (off : Nat) (n : Nat)  (hμ : Within 0x400000000000000000000000000000000000000000000000000000000000001c000000000000000000000000000000 μ) (hκ : Agree μ ω d) : Agree μ ω (Dev.sbLoad d die off n).2 := by
  unfold Dev.sbLoad
  repeat' (first | with_reducible assumption | intro _ | (simp only [id_eq]) | (with_reducible refine Dev.draw_kp' (heq := by with_reducible assumption) (hμ := hμ.up (by decide)) (hκ := ?_) ..) | (with_reducible refine Dev.draw_kp (hμ := hμ.up (by decide)) (hκ := ?_) ..) | (with_reducible refine Dev.sbWords_kp' (heq := by with_reducible assumption) (hμ := hμ.up (by decide)) (hκ := ?_) ..) | (with_reducible refine Dev.sbWords_kp (hμ := hμ.up (by decide)) (hκ := ?_) ..) | (with_reducible apply Agree.ite) | split)

theorem Dev.sbLoad_kp' {μ : Nat} {ω : Dev} {d : Dev} {die : Nat} {off : Nat} {n : Nat} {y0} {rd : Dev} (heq : Dev.sbLoad d die off n = (y0, rd))  (hμ : Within 0x400000000000000000000000000000000000000000000000000000000000001c000000000000000000000000000000 μ) (hκ : Agree μ ω d) : Agree μ ω rd := by
  have k := Dev.sbLoad_kp (μ := μ) (ω := ω) d die off n  (hμ := hμ) (hκ := hκ); rw [heq] at k; exact k

theorem Dev.sbRmw_kp {μ : Nat} {ω : Dev} (d : Dev) (die : Nat) (woff : Nat) (p : Nat) (bs : Bytes)  (hμ : Within 0x3c00000000000000000000000000000000000000000000000000000000000001c000000000000000000000000000000 μ) (hκ : Agree μ ω d) : Agree μ ω (Dev.sbRmw d die woff p bs) := by
  unfold Dev.sbRmw
  repeat' (first | with_reducible assumption | intro _ | (simp only [id_eq]) | (with_reducible refine Dev.draw_kp' (heq := by with_reducible assumption) (hμ := hμ.up (by decide)) (hκ := ?_) ..) | (with_reducible refine Dev.draw_kp (hμ := hμ.up (by decide)) (hκ := ?_) ..) | (with_reducible refine Dev.markUnit_kp (hμ := hμ.up (by decide)) (hκ := ?_) ..) | (with_reducible refine Dev.sbCount_kp (hμ := hμ.up (by decide)) (hκ := ?_) ..) | (with_reducible refine Dev.writeUnit_kp (hμ := hμ.up (by decide)) (hκ := ?_) ..) | (with_reducible apply Agree.ite) | split)

theorem Dev.sbDropEnt_kp {μ : Nat} {ω : Dev} (d : Dev) (die : Nat) (woff : Nat)  (hμ : Within 0x4000000000000000000000000000000000000000000000000000000000000000000000000000000000000000000000000000 μ) (hκ : Agree μ ω d) : Agree μ ω (Dev.sbDropEnt d die woff) := by
  unfold Dev.sbDropEnt
  repeat' (first | with_reducible assumption | intro _ | (simp only [id_eq]) | (with_reducible refine Dev.setMerge_kp (hμ := hμ.up (by decide)) (hκ := ?_) ..) | (with_reducible apply Agree.ite) | split)

theorem Dev.sbApply_kp {μ : Nat} {ω : Dev} (d : Dev) (die : Nat) (e : MEnt)  (hμ : Within 0x400003c00000000000000000000000000000000000000000000000000000000000003c000000000000000000000000000000 μ) (hκ : Agree μ ω d) : Agree μ ω (Dev.sbApply d die e) := by
  unfold Dev.sbApply
  repeat' (first | with_reducible assumption | intro _ | (simp only [id_eq]) | (with_reducible refine Dev.count_kp (hf := by first | assumption | exact hμ.bit rfl) (hμ := hμ.up (by decide)) (hκ := ?_) ..) | (with_reducible refine Dev.sbDropEnt_kp (hμ := hμ.up (by decide)) (hκ := ?_) ..) | (with_reducible refine Dev.sbRmw_kp (hμ := hμ.up (by decide)) (hκ := ?_) ..) | (with_reducible refine Dev.writeUnit_kp (hμ := hμ.up (by decide)) (hκ := ?_) ..) | (with_reducible apply Agree.ite) | split)

theorem Dev.sbFlush_kp {μ : Nat} {ω : Dev} (d : Dev) (die : Nat) (woff : Nat)  (hμ : Within 0x400003c00000000000000000000000000000000000000000000000000000000000003c000000000000000000000000000000 μ) (hκ : Agree μ ω d) : Agree μ ω (Dev.sbFlush d die woff) := by
  unfold Dev.sbFlush
  repeat' (first | with_reducible assumption | intro _ | (simp only [id_eq]) | (with_reducible refine Dev.sbApply_kp (hμ := hμ.up (by decide)) (hκ := ?_) ..) | (with_reducible apply Agree.ite) | split)

theorem Dev.sbWrite32_kp {μ : Nat} {ω : Dev} (d : Dev) (die : Nat) (woff : Nat) (bs : Bytes)  (hμ : Within 0x4000038000000000000000000000000000000000000000000000000000000000000000000000000000000000000000000000 μ) (hκ : Agree μ ω d) : Agree μ ω (Dev.sbWrite32 d die woff bs) := by
  unfold Dev.sbWrite32
  repeat' (first | with_reducible assumption | intro _ | (simp only [id_eq]) | (with_reducible refine Dev.sbDropEnt_kp (hμ := hμ.up (by decide)) (hκ := ?_) ..) | (with_reducible refine Dev.writeUnit_kp (hμ := hμ.up (by decide)) (hκ := ?_) ..) | (with_reducible apply Agree.ite) | split)

theorem Dev.sbWrite16_kp {μ : Nat} {ω : Dev} (d : Dev) (die : Nat) (off : Nat) (bs : Bytes)  (hμ : Within 0x400003c00000000000000000000000000000000000000000000000000000000000003c000000000000000000000000000000 μ) (hκ : Agree μ ω d) : Agree μ ω (Dev.sbWrite16 d die off bs) := by
  unfold Dev.sbWrite16
  repeat' (first | with_reducible assumption | intro _ | (simp only [id_eq]) | (with_reducible refine Dev.sbApply_kp (hμ := hμ.up (by decide)) (hκ := ?_) ..) | (with_reducible refine Dev.setMerge_kp (hμ := hμ.up (by decide)) (hκ := ?_) ..) | (with_reducible apply Agree.ite) | split)

theorem Dev.sbStore_kp {μ : Nat} {ω : Dev} (d : Dev) (die : Nat) (off : Nat) (bs : Bytes)  (hμ : Within 0x400003c00000000000000000000000000000000000000000000000000000000000003c000000000000000000000000000000 μ) (hκ : Agree μ ω d) : Agree μ ω (Dev.sbStore d die off bs) := by
  unfold Dev.sbStore
  repeat' (first | with_reducible assumption | intro _ | (simp only [id_eq]) | (with_reducible refine Dev.sbFlush_kp (hμ := hμ.up (by decide)) (hκ := ?_) ..) | (with_reducible refine Dev.sbRmw_kp (hμ := hμ.up (by decide)) (hκ := ?_) ..) | (with_reducible refine Dev.sbWrite32_kp (hμ := hμ.up (by decide)) (hκ := ?_) ..) | (with_reducible apply Agree.ite) | (with_reducible apply Agree.foldl) | (with_reducible apply Agree.foldl_fst) | (with_reducible apply Agree.foldl_snd) | split)

theorem Dev.sbInvalid_kp {μ : Nat} {ω : Dev} (d : Dev) (die : Nat)  (hμ : Within 0x4000038000000000000000000000000000000000000000000000000000000000000000000000000000000000000000000000 μ) (hκ : Agree μ ω d) : Agree μ ω (Dev.sbInvalid d die) := by
  unfold Dev.sbInvalid
  repeat' (first | with_reducible assumption | intro _ | (simp only [id_eq]) | (simp only [Agree.set_unwritten_mem_errs_merge (hμ.bit (by decide)) (hμ.bit (by decide)) (hμ.bit (by decide)) (hμ.bit (by decide))]) | (with_reducible apply Agree.ite) | split)

theorem Dev.krgFault_kp {μ : Nat} {ω : Dev} (d : Dev) (die : Nat)  (hμ : Within 0x4000000000000000000000000000000000000 μ) (hκ : Agree μ ω d) : Agree μ ω (Dev.krgFault d die) := by
  unfold Dev.krgFault
  repeat' (first | with_reducible assumption | intro _ | (simp only [id_eq]) | (with_reducible refine Dev.countSat_kp (hf := by first | assumption | exact hμ.bit rfl) (hμ := hμ.up (by decide)) (hκ := ?_) ..) | (with_reducible apply Agree.ite) | split)

theorem Dev.krgUse_kp {μ : Nat} {ω : Dev} (d : Dev) (die : Nat) (set : Nat) (way : Nat) (e : KEnt)  (hμ : Within 0x100000000000000000000000000000000000000000000000000000000000000000000000000000000000000000000000000000 μ) (hκ : Agree μ ω d) : Agree μ ω (Dev.krgUse d die set way e) := by
  unfold Dev.krgUse
  repeat' (first | with_reducible assumption | intro _ | (simp only [id_eq]) | (simp only [Agree.set_krg (hμ.bit (by decide))]) | (with_reducible refine Dev.put_kp (hf := by first | assumption | exact hμ.bit rfl) (hμ := hμ.up (by decide)) (hκ := ?_) ..) | (with_reducible apply Agree.ite) | split)

theorem Dev.lookup_kp {μ : Nat} {ω : Dev} (d : Dev) (die : Nat) (a : KAcc)  (hμ : Within 0x100000000000000000000000000000000000000000000000000000000000000004000000000000000000000000000000000000 μ) (hκ : Agree μ ω d) : Agree μ ω (Dev.lookup d die a).2.2 := by
  unfold Dev.lookup
  repeat' (first | with_reducible assumption | intro _ | (simp only [id_eq]) | (with_reducible refine Dev.krgFault_kp (hμ := hμ.up (by decide)) (hκ := ?_) ..) | (with_reducible refine Dev.krgUse_kp (hμ := hμ.up (by decide)) (hκ := ?_) ..) | (with_reducible apply Agree.ite) | split)

theorem Dev.lookup_kp' {μ : Nat} {ω : Dev} {d : Dev} {die : Nat} {a : KAcc} {y0} {y1} {rd : Dev} (heq : Dev.lookup d die a = (y0, y1, rd))  (hμ : Within 0x100000000000000000000000000000000000000000000000000000000000000004000000000000000000000000000000000000 μ) (hκ : Agree μ ω d) : Agree μ ω rd := by
  have k := Dev.lookup_kp (μ := μ) (ω := ω) d die a  (hμ := hμ) (hκ := hκ); rw [heq] at k; exact k

theorem Dev.krgExec_kp {μ : Nat} {ω : Dev} (d : Dev) (die : Nat) (cmd : Nat) (e : KEnt)  (hμ : Within 0x1000000040000000000000000000000000000000000000000000000000000000010f0000000000000000000000000000000000 μ) (hκ : Agree μ ω d) : Agree μ ω (Dev.krgExec d die cmd e).2.2 := by
  unfold Dev.krgExec
  repeat' (first | with_reducible assumption | intro _ | (simp only [id_eq]) | (simp only [Agree.set_krg (hμ.bit (by decide))]) | (with_reducible refine Dev.count_kp (hf := by first | assumption | exact hμ.bit rfl) (hμ := hμ.up (by decide)) (hκ := ?_) ..) | (with_reducible refine Dev.draw_kp' (heq := by with_reducible assumption) (hμ := hμ.up (by decide)) (hκ := ?_) ..) | (with_reducible refine Dev.draw_kp (hμ := hμ.up (by decide)) (hκ := ?_) ..) | (with_reducible refine Dev.put_kp (hf := by first | assumption | exact hμ.bit rfl) (hμ := hμ.up (by decide)) (hκ := ?_) ..) | (with_reducible refine Dev.put64_kp (hlo := by first | assumption | exact hμ.bit rfl) (hhi := by first | assumption | exact hμ.bit rfl) (hμ := hμ.up (by decide)) (hκ := ?_) ..) | (with_reducible apply Agree.ite) | split)

theorem Dev.krgExec_kp' {μ : Nat} {ω : Dev} {d : Dev} {die : Nat} {cmd : Nat} {e : KEnt} {y0} {y1} {rd : Dev} (heq : Dev.krgExec d die cmd e = (y0, y1, rd))  (hμ : Within 0x1000000040000000000000000000000000000000000000000000000000000000010f0000000000000000000000000000000000 μ) (hκ : Agree μ ω d) : Agree μ ω rd := by
  have k := Dev.krgExec_kp (μ := μ) (ω := ω) d die cmd e  (hμ := hμ) (hκ := hκ); rw [heq] at k; exact k

theorem Dev.krgCmd_kp {μ : Nat} {ω : Dev} (d : Dev) (die : Nat) (cmd : Nat)  (hμ : Within 0x3000000040000000000000000000000000000000000000000000000000000000012f0000000000000000000000000000000000 μ) (hκ : Agree μ ω d) : Agree μ ω (Dev.krgCmd d die cmd) := by
  unfold Dev.krgCmd
  repeat' (first | with_reducible assumption | intro _ | (simp only [id_eq]) | (simp only [Agree.set_krgP (hμ.bit (by decide))]) | (with_reducible refine Dev.krgExec_kp' (heq := by with_reducible assumption) (hμ := hμ.up (by decide)) (hκ := ?_) ..) | (with_reducible refine Dev.krgExec_kp (hμ := hμ.up (by decide)) (hκ := ?_) ..) | (with_reducible refine Dev.put_kp (hf := by first | assumption | exact hμ.bit rfl) (hμ := hμ.up (by decide)) (hκ := ?_) ..) | (with_reducible apply Agree.ite) | split)

theorem Dev.krgCmdWrite_kp {μ : Nat} {ω : Dev} (d : Dev) (die : Nat) (v : Nat)  (hμ : Within 0x3000000040000000000000000000000000000000000000000000000000000000012f0000000000000000000000000000000000 μ) (hκ : Agree μ ω d) : Agree μ ω (Dev.krgCmdWrite d die v) := by
  unfold Dev.krgCmdWrite
  repeat' (first | with_reducible assumption | intro _ | (simp only [id_eq]) | (with_reducible refine Dev.krgCmd_kp (hμ := hμ.up (by decide)) (hκ := ?_) ..) | (with_reducible apply Agree.ite) | split)

theorem Dev.krgDone_kp {μ : Nat} {ω : Dev} (d : Dev) (die : Nat)  (hμ : Within 0x200000000000000000000000000000000000000000000000000000000000000000200000000000000000000000000000000000 μ) (hκ : Agree μ ω d) : Agree μ ω (Dev.krgDone d die) := by
  unfold Dev.krgDone
  repeat' (first | with_reducible assumption | intro _ | (simp only [id_eq]) | (simp only [Agree.set_krgP (hμ.bit (by decide))]) | (with_reducible refine Dev.put_kp (hf := by first | assumption | exact hμ.bit rfl) (hμ := hμ.up (by decide)) (hκ := ?_) ..) | (with_reducible apply Agree.ite) | split)

theorem Dev.hwWrite_kp {μ : Nat} {ω : Dev} (d : Dev) (die : Nat) (r : Reg) (v : Nat) (hr : μ.testBit r.ctorIdx = true) (hμ : Within 0x0 μ) (hκ : Agree μ ω d) : Agree μ ω (Dev.hwWrite d die r v) := by
  unfold Dev.hwWrite
  repeat' (first | with_reducible assumption | intro _ | (simp only [id_eq]) | (with_reducible refine Dev.writeKey_kp _ _ _ _ _ _ _ (by first | assumption | exact hμ.bit (by decide) | exact hall _) ?_) | (with_reducible apply Agree.ite) | split)

theorem Dev.setHbm_kp {μ : Nat} {ω : Dev} (d : Dev) (die : Nat) (stack : Nat) (h : HbmSt)  (hμ : Within 0x800000000000000000000000000000000000000000000000000000000000000000000000000000000000000000000000000 μ) (hκ : Agree μ ω d) : Agree μ ω (Dev.setHbm d die stack h) := by
  unfold Dev.setHbm
  repeat' (first | with_reducible assumption | intro _ | (simp only [id_eq]) | (simp only [Agree.set_hbm (hμ.bit (by decide))]) | (with_reducible refine Dev.put_kp (hf := by first | assumption | exact hμ.bit rfl) (hμ := hμ.up (by decide)) (hκ := ?_) ..) | (with_reducible apply Agree.ite) | split)

theorem Dev.hbPoison_kp {μ : Nat} {ω : Dev} (d : Dev) (die : Nat) (off : Nat) (w : Nat)  (hμ : Within 0x38000000000000000000000000000000000000000000000000000000000000000000000000000000000000000000000 μ) (hκ : Agree μ ω d) : Agree μ ω (Dev.hbPoison d die off w) := by
  unfold Dev.hbPoison
  repeat' (first | with_reducible assumption | intro _ | (simp only [id_eq]) | (with_reducible refine Dev.markUnit_kp (hμ := hμ.up (by decide)) (hκ := ?_) ..) | (with_reducible refine Dev.writeUnit_kp (hμ := hμ.up (by decide)) (hκ := ?_) ..) | (with_reducible apply Agree.ite) | split)

theorem Dev.memRec_kp {μ : Nat} {ω : Dev} (d : Dev) (die : Nat) (stack : Nat) (code : Nat) (addr : Nat)  (hμ : Within 0x80000000000000245000000000000000000000000000000000000000000000000000000000000000000000000000000000000000 μ) (hκ : Agree μ ω d) : Agree μ ω (Dev.memRec d die stack code addr) := by
  unfold Dev.memRec
  repeat' (first | with_reducible assumption | intro _ | (simp only [id_eq]) | (with_reducible refine Dev.post_kp (hμ := hμ.up (by decide)) (hκ := ?_) ..) | (with_reducible apply Agree.ite) | split)

theorem Dev.retireRow_kp {μ : Nat} {ω : Dev} (d : Dev) (die : Nat) (stack : Nat) (r : RowId)  (hμ : Within 0x80000000000000245000000000000000000000000000000000000000000000000000000000380000000000000000000000000000 μ) (hκ : Agree μ ω d) : Agree μ ω (Dev.retireRow d die stack r) := by
  unfold Dev.retireRow
  repeat' (first | with_reducible assumption | intro _ | (simp only [id_eq]) | (with_reducible refine Dev.memRec_kp (hμ := hμ.up (by decide)) (hκ := ?_) ..) | (with_reducible refine Dev.put_kp (hf := by first | assumption | exact hμ.bit rfl) (hμ := hμ.up (by decide)) (hκ := ?_) ..) | (with_reducible refine Dev.put64_kp (hlo := by first | assumption | exact hμ.bit rfl) (hhi := by first | assumption | exact hμ.bit rfl) (hμ := hμ.up (by decide)) (hκ := ?_) ..) | (with_reducible apply Agree.ite) | split)

theorem Dev.escalate_kp {μ : Nat} {ω : Dev} (d : Dev) (die : Nat) (stack : Nat) (r : RowId)  (hμ : Within 0x800008000000002450000000000000000000000000000000000000000000000000000000003b2000000000000000000000000000 μ) (hκ : Agree μ ω d) : Agree μ ω (Dev.escalate d die stack r) := by
  unfold Dev.escalate
  repeat' (first | with_reducible assumption | intro _ | (simp only [id_eq]) | (with_reducible refine Dev.memRec_kp (hμ := hμ.up (by decide)) (hκ := ?_) ..) | (with_reducible refine Dev.put_kp (hf := by first | assumption | exact hμ.bit rfl) (hμ := hμ.up (by decide)) (hκ := ?_) ..) | (with_reducible refine Dev.put64_kp (hlo := by first | assumption | exact hμ.bit rfl) (hhi := by first | assumption | exact hμ.bit rfl) (hμ := hμ.up (by decide)) (hκ := ?_) ..) | (with_reducible refine Dev.retireRow_kp (hμ := hμ.up (by decide)) (hκ := ?_) ..) | (with_reducible refine Dev.setHbm_kp (hμ := hμ.up (by decide)) (hκ := ?_) ..) | (with_reducible apply Agree.ite) | split)

theorem Dev.freeMin_kp {μ : Nat} {ω : Dev} (d : Dev) (die : Nat) (stack : Nat) (pc : Nat) (bank : Nat)  (hμ : Within 0x4000000000000000000000000000 μ) (hκ : Agree μ ω d) : Agree μ ω (Dev.freeMin d die stack pc bank) := by
  unfold Dev.freeMin
  repeat' (first | with_reducible assumption | intro _ | (simp only [id_eq]) | (with_reducible refine Dev.put_kp (hf := by first | assumption | exact hμ.bit rfl) (hμ := hμ.up (by decide)) (hκ := ?_) ..) | (with_reducible apply Agree.ite) | split)

theorem Dev.rowFails_kp {μ : Nat} {ω : Dev} (d : Dev) (die : Nat) (stack : Nat) (r : RowId)  (hμ : Within 0x800008000000002450000000000000000000000000000000000000000000000000000000003b3000000000000000000000000000 μ) (hκ : Agree μ ω d) : Agree μ ω (Dev.rowFails d die stack r) := by
  unfold Dev.rowFails
  repeat' (first | with_reducible assumption | intro _ | (simp only [id_eq]) | (with_reducible refine Dev.escalate_kp (hμ := hμ.up (by decide)) (hκ := ?_) ..) | (with_reducible refine Dev.memRec_kp (hμ := hμ.up (by decide)) (hκ := ?_) ..) | (with_reducible refine Dev.put_kp (hf := by first | assumption | exact hμ.bit rfl) (hμ := hμ.up (by decide)) (hκ := ?_) ..) | (with_reducible refine Dev.setHbm_kp (hμ := hμ.up (by decide)) (hκ := ?_) ..) | (with_reducible apply Agree.ite) | split)

theorem Dev.sidesFail_kp {μ : Nat} {ω : Dev} (d : Dev) (die : Nat) (off : Nat) (sides : List Nat)  (hμ : Within 0x800008000000002450000000000000000000000000000000000000000000000000000000003b3000000000000000000000000000 μ) (hκ : Agree μ ω d) : Agree μ ω (Dev.sidesFail d die off sides) := by
  unfold Dev.sidesFail
  repeat' (first | with_reducible assumption | intro _ | (simp only [id_eq]) | (with_reducible refine Dev.rowFails_kp (hμ := hμ.up (by decide)) (hκ := ?_) ..) | (with_reducible apply Agree.ite) | (with_reducible apply Agree.foldl) | (with_reducible apply Agree.foldl_fst) | (with_reducible apply Agree.foldl_snd) | split)

theorem Dev.hbLast_kp {μ : Nat} {ω : Dev} (d : Dev) (die : Nat) (off : Nat) (pc : Nat) (ue : Nat)  (hμ : Within 0x20000000000000000000000000 μ) (hκ : Agree μ ω d) : Agree μ ω (Dev.hbLast d die off pc ue) := by
  unfold Dev.hbLast
  repeat' (first | with_reducible assumption | intro _ | (simp only [id_eq]) | (with_reducible refine Dev.setKey_kp _ _ _ _ _ _ (by first | assumption | exact hμ.bit (by decide) | exact hall _) ?_) | (with_reducible refine Dev.setRaw_kp _ _ _ (by assumption) ?_) | (with_reducible apply Agree.ite) | split)

theorem Dev.hbAfter_kp {μ : Nat} {ω : Dev} (d : Dev) (die : Nat) (off : Nat) (w : Nat) (again : Nat)  (hμ : Within 0x800008000380002450000000000000000000000000000000000000000000000000000000003b303c000000000000000000000000 μ) (hκ : Agree μ ω d) : Agree μ ω (Dev.hbAfter d die off w again) := by
  unfold Dev.hbAfter
  repeat' (first | with_reducible assumption | intro _ | (simp only [id_eq]) | (simp only [Agree.set_errs (hμ.bit (by decide))]) | (with_reducible refine Dev.countSat_kp (hf := by first | assumption | exact hμ.bit rfl) (hμ := hμ.up (by decide)) (hκ := ?_) ..) | (with_reducible refine Dev.hbLast_kp (hμ := hμ.up (by decide)) (hκ := ?_) ..) | (with_reducible refine Dev.hbPoison_kp (hμ := hμ.up (by decide)) (hκ := ?_) ..) | (with_reducible refine Dev.markUnit_kp (hμ := hμ.up (by decide)) (hκ := ?_) ..) | (with_reducible refine Dev.memRec_kp (hμ := hμ.up (by decide)) (hκ := ?_) ..) | (with_reducible refine Dev.sidesFail_kp (hμ := hμ.up (by decide)) (hκ := ?_) ..) | (with_reducible refine Dev.writeUnit_kp (hμ := hμ.up (by decide)) (hκ := ?_) ..) | (with_reducible apply Agree.ite) | split)

theorem Dev.hbLoad_kp {μ : Nat} {ω : Dev} (d : Dev) (die : Nat) (off : Nat) (n : Nat) (again : List (Nat × Nat))  (hμ : Within 0x8000080003c0002450000000000000000000000000000000000000000000000000000000003b303c000000000000000000000000 μ) (hκ : Agree μ ω d) : Agree μ ω (Dev.hbLoad d die off n again).2 := by
  unfold Dev.hbLoad
  repeat' (first | with_reducible assumption | intro _ | (simp only [id_eq]) | (with_reducible refine Dev.draw_kp' (heq := by with_reducible assumption) (hμ := hμ.up (by decide)) (hκ := ?_) ..) | (with_reducible refine Dev.draw_kp (hμ := hμ.up (by decide)) (hκ := ?_) ..) | (with_reducible refine Dev.hbAfter_kp (hμ := hμ.up (by decide)) (hκ := ?_) ..) | (with_reducible apply Agree.ite) | (with_reducible apply Agree.foldl) | (with_reducible apply Agree.foldl_fst) | (with_reducible apply Agree.foldl_snd) | split)

theorem Dev.hbLoad_kp' {μ : Nat} {ω : Dev} {d : Dev} {die : Nat} {off : Nat} {n : Nat} {again : List (Nat × Nat)} {y0} {rd : Dev} (heq : Dev.hbLoad d die off n again = (y0, rd))  (hμ : Within 0x8000080003c0002450000000000000000000000000000000000000000000000000000000003b303c000000000000000000000000 μ) (hκ : Agree μ ω d) : Agree μ ω rd := by
  have k := Dev.hbLoad_kp (μ := μ) (ω := ω) d die off n again  (hμ := hμ) (hκ := hκ); rw [heq] at k; exact k

theorem Dev.hbWriteUnit_kp {μ : Nat} {ω : Dev} (d : Dev) (die : Nat) (u : Nat) (w : Nat) (p : Nat) (bs : Bytes)  (hμ : Within 0x8000080003c0002450000000000000000000000000000000000000000000000000000000003b303c000000000000000000000000 μ) (hκ : Agree μ ω d) : Agree μ ω (Dev.hbWriteUnit d die u w p bs).1 := by
  unfold Dev.hbWriteUnit
  repeat' (first | with_reducible assumption | intro _ | (simp only [id_eq]) | (with_reducible refine Dev.countSat_kp (hf := by first | assumption | exact hμ.bit rfl) (hμ := hμ.up (by decide)) (hκ := ?_) ..) | (with_reducible refine Dev.draw_kp' (heq := by with_reducible assumption) (hμ := hμ.up (by decide)) (hκ := ?_) ..) | (with_reducible refine Dev.draw_kp (hμ := hμ.up (by decide)) (hκ := ?_) ..) | (with_reducible refine Dev.hbAfter_kp (hμ := hμ.up (by decide)) (hκ := ?_) ..) | (with_reducible refine Dev.hbPoison_kp (hμ := hμ.up (by decide)) (hκ := ?_) ..) | (with_reducible refine Dev.writeUnit_kp (hμ := hμ.up (by decide)) (hκ := ?_) ..) | (with_reducible apply Agree.ite) | split)

theorem Dev.hbWriteUnit_kp' {μ : Nat} {ω : Dev} {d : Dev} {die : Nat} {u : Nat} {w : Nat} {p : Nat} {bs : Bytes} {rd : Dev} {y} (heq : Dev.hbWriteUnit d die u w p bs = (rd, y))  (hμ : Within 0x8000080003c0002450000000000000000000000000000000000000000000000000000000003b303c000000000000000000000000 μ) (hκ : Agree μ ω d) : Agree μ ω rd := by
  have k := Dev.hbWriteUnit_kp (μ := μ) (ω := ω) d die u w p bs  (hμ := hμ) (hκ := hκ); rw [heq] at k; exact k

theorem Dev.hbStore_kp {μ : Nat} {ω : Dev} (d : Dev) (die : Nat) (off : Nat) (bs : Bytes)  (hμ : Within 0x8000080003c0002450000000000000000000000000000000000000000000000000000000003b303c000000000000000000000000 μ) (hκ : Agree μ ω d) : Agree μ ω (Dev.hbStore d die off bs).1 := by
  unfold Dev.hbStore
  repeat' (first | with_reducible assumption | intro _ | (simp only [id_eq]) | (with_reducible refine Dev.hbWriteUnit_kp' (heq := by with_reducible assumption) (hμ := hμ.up (by decide)) (hκ := ?_) ..) | (with_reducible refine Dev.hbWriteUnit_kp (hμ := hμ.up (by decide)) (hκ := ?_) ..) | (with_reducible apply Agree.ite) | (with_reducible apply Agree.foldl) | (with_reducible apply Agree.foldl_fst) | (with_reducible apply Agree.foldl_snd) | split)

theorem Dev.hbStore_kp' {μ : Nat} {ω : Dev} {d : Dev} {die : Nat} {off : Nat} {bs : Bytes} {rd : Dev} {y} (heq : Dev.hbStore d die off bs = (rd, y))  (hμ : Within 0x8000080003c0002450000000000000000000000000000000000000000000000000000000003b303c000000000000000000000000 μ) (hκ : Agree μ ω d) : Agree μ ω rd := by
  have k := Dev.hbStore_kp (μ := μ) (ω := ω) d die off bs  (hμ := hμ) (hκ := hκ); rw [heq] at k; exact k

theorem Dev.hbInvalid_kp {μ : Nat} {ω : Dev} (d : Dev) (die : Nat)  (hμ : Within 0x38000000000000000000000000000000000000000000000000000000000000000000000000000000000000000000000 μ) (hκ : Agree μ ω d) : Agree μ ω (Dev.hbInvalid d die) := by
  unfold Dev.hbInvalid
  repeat' (first | with_reducible assumption | intro _ | (simp only [id_eq]) | (simp only [Agree.set_unwritten_mem_errs (hμ.bit (by decide)) (hμ.bit (by decide)) (hμ.bit (by decide))]) | (with_reducible apply Agree.ite) | split)

theorem Dev.hbZero_kp {μ : Nat} {ω : Dev} (d : Dev) (die : Nat) (off : Nat) (n : Nat)  (hμ : Within 0x38000000000000000000000000000000000000000000000000000000000000000000000000000000000000000000000 μ) (hκ : Agree μ ω d) : Agree μ ω (Dev.hbZero d die off n) := by
  unfold Dev.hbZero
  repeat' (first | with_reducible assumption | intro _ | (simp only [id_eq]) | (simp only [Agree.set_unwritten_mem_errs (hμ.bit (by decide)) (hμ.bit (by decide)) (hμ.bit (by decide))]) | (with_reducible apply Agree.ite) | split)

theorem Dev.blankCut_kp {μ : Nat} {ω : Dev} (d : Dev) (die : Nat) (stack : Nat)  (hμ : Within 0x800008000040002450000000000000000000000000000000000000000000000000000000003b2000000000000000000000000000 μ) (hκ : Agree μ ω d) : Agree μ ω (Dev.blankCut d die stack) := by
  unfold Dev.blankCut
  repeat' (first | with_reducible assumption | intro _ | (simp only [id_eq]) | (with_reducible refine Dev.draw_kp' (heq := by with_reducible assumption) (hμ := hμ.up (by decide)) (hκ := ?_) ..) | (with_reducible refine Dev.draw_kp (hμ := hμ.up (by decide)) (hκ := ?_) ..) | (with_reducible refine Dev.escalate_kp (hμ := hμ.up (by decide)) (hκ := ?_) ..) | (with_reducible refine Dev.setHbm_kp (hμ := hμ.up (by decide)) (hκ := ?_) ..) | (with_reducible apply Agree.ite) | split)

theorem Dev.cutUnit_kp {μ : Nat} {ω : Dev} (d : Dev) (die : Nat) (u : Nat) (w : Nat) (odd : Nat)  (hμ : Within 0x38000000000000000000000000000000000000000000000000000000000000000000000000000000000000000000000 μ) (hκ : Agree μ ω d) : Agree μ ω (Dev.cutUnit d die u w odd) := by
  unfold Dev.cutUnit
  repeat' (first | with_reducible assumption | intro _ | (simp only [id_eq]) | (with_reducible refine Dev.hbPoison_kp (hμ := hμ.up (by decide)) (hκ := ?_) ..) | (with_reducible refine Dev.markUnit_kp (hμ := hμ.up (by decide)) (hκ := ?_) ..) | (with_reducible refine Dev.writeUnit_kp (hμ := hμ.up (by decide)) (hκ := ?_) ..) | (with_reducible apply Agree.ite) | split)

theorem Dev.blankCutDone_kp {μ : Nat} {ω : Dev} (d : Dev) (die : Nat) (stack : Nat)  (hμ : Within 0x80000800038000245000000000000000000000000000000000000000000000000000000000007000000000000000000000000000 μ) (hκ : Agree μ ω d) : Agree μ ω (Dev.blankCutDone d die stack) := by
  unfold Dev.blankCutDone
  repeat' (first | with_reducible assumption | intro _ | (simp only [id_eq]) | (with_reducible refine Dev.countSat_kp (hf := by first | assumption | exact hμ.bit rfl) (hμ := hμ.up (by decide)) (hκ := ?_) ..) | (with_reducible refine Dev.cutUnit_kp (hμ := hμ.up (by decide)) (hκ := ?_) ..) | (with_reducible refine Dev.freeMin_kp (hμ := hμ.up (by decide)) (hκ := ?_) ..) | (with_reducible refine Dev.memRec_kp (hμ := hμ.up (by decide)) (hκ := ?_) ..) | (with_reducible refine Dev.put_kp (hf := by first | assumption | exact hμ.bit rfl) (hμ := hμ.up (by decide)) (hκ := ?_) ..) | (with_reducible refine Dev.setHbm_kp (hμ := hμ.up (by decide)) (hκ := ?_) ..) | (with_reducible apply Agree.ite) | (with_reducible apply Agree.foldl) | (with_reducible apply Agree.foldl_fst) | (with_reducible apply Agree.foldl_snd) | split)

theorem Dev.ncWrite_kp {μ : Nat} {ω : Dev} (d : Dev) (die : Nat) (inst : Nat) (v : Nat)  (hμ : Within 0x2000000000000000000000000000000000000000000000000000000000000000000000000000000000000000000000000000 μ) (hκ : Agree μ ω d) : Agree μ ω (Dev.ncWrite d die inst v) := by
  unfold Dev.ncWrite
  repeat' (first | with_reducible assumption | intro _ | (simp only [id_eq]) | (simp only [Agree.set_conv (hμ.bit (by decide))]) | (with_reducible refine Dev.put_kp (hf := by first | assumption | exact hμ.bit rfl) (hμ := hμ.up (by decide)) (hκ := ?_) ..) | (with_reducible apply Agree.ite) | split)

theorem Dev.ncDone_kp {μ : Nat} {ω : Dev} (d : Dev) (die : Nat)  (hμ : Within 0x3000038000000000000000000000000000000000000000000000000000000000000000000000000000000000000000000000 μ) (hκ : Agree μ ω d) : Agree μ ω (Dev.ncDone d die) := by
  unfold Dev.ncDone
  repeat' (first | with_reducible assumption | intro _ | (simp only [id_eq]) | (simp only [Agree.set_conv_narrow (hμ.bit (by decide)) (hμ.bit (by decide))]) | (with_reducible refine Dev.hbZero_kp (hμ := hμ.up (by decide)) (hκ := ?_) ..) | (with_reducible apply Agree.ite) | split)

theorem Dev.hbRefresh_kp {μ : Nat} {ω : Dev} (d : Dev) (die : Nat) (stack : Nat)  (hμ : Within 0x400000000000000000000 μ) (hκ : Agree μ ω d) : Agree μ ω (Dev.hbRefresh d die stack) := by
  unfold Dev.hbRefresh
  repeat' (first | with_reducible assumption | intro _ | (simp only [id_eq]) | (with_reducible refine Dev.put_kp (hf := by first | assumption | exact hμ.bit rfl) (hμ := hμ.up (by decide)) (hκ := ?_) ..) | (with_reducible apply Agree.ite) | split)

theorem Dev.hbTemp_kp {μ : Nat} {ω : Dev} (d : Dev) (die : Nat) (stack : Nat) (temp : Nat)  (hμ : Within 0x80000800000000245000000000000000000000000000000000000000000000000000000000000000000c00000000000000000000 μ) (hκ : Agree μ ω d) : Agree μ ω (Dev.hbTemp d die stack temp) := by
  unfold Dev.hbTemp
  repeat' (first | with_reducible assumption | intro _ | (simp only [id_eq]) | (with_reducible refine Dev.post_kp (hμ := hμ.up (by decide)) (hκ := ?_) ..) | (with_reducible refine Dev.put_kp (hf := by first | assumption | exact hμ.bit rfl) (hμ := hμ.up (by decide)) (hκ := ?_) ..) | (with_reducible refine Dev.setHbm_kp (hμ := hμ.up (by decide)) (hκ := ?_) ..) | (with_reducible apply Agree.ite) | split)

theorem Dev.hbTmaxClr_kp {μ : Nat} {ω : Dev} (d : Dev) (die : Nat) (stack : Nat)  (hμ : Within 0x800000000000000000000 μ) (hκ : Agree μ ω d) : Agree μ ω (Dev.hbTmaxClr d die stack) := by
  unfold Dev.hbTmaxClr
  repeat' (first | with_reducible assumption | intro _ | (simp only [id_eq]) | (with_reducible refine Dev.put_kp (hf := by first | assumption | exact hμ.bit rfl) (hμ := hμ.up (by decide)) (hκ := ?_) ..) | (with_reducible apply Agree.ite) | split)

theorem Dev.rrateSet_kp {μ : Nat} {ω : Dev} (d : Dev) (die : Nat) (stack : Nat) (s : Nat) (v : Nat)  (hμ : Within 0x2300000000000000000000000 μ) (hκ : Agree μ ω d) : Agree μ ω (Dev.rrateSet d die stack s v) := by
  unfold Dev.rrateSet
  repeat' (first | with_reducible assumption | intro _ | (simp only [id_eq]) | (with_reducible refine Dev.writeKey_kp _ _ _ _ _ _ _ (by first | assumption | exact hμ.bit (by decide) | exact hall _) ?_) | (with_reducible refine Dev.put_kp (hf := by first | assumption | exact hμ.bit rfl) (hμ := hμ.up (by decide)) (hκ := ?_) ..) | (with_reducible apply Agree.ite) | split)

theorem Dev.rrateWrite_kp {μ : Nat} {ω : Dev} (d : Dev) (die : Nat) (stack : Nat) (v : Nat)  (hμ : Within 0x2300000000000000000000000 μ) (hκ : Agree μ ω d) : Agree μ ω (Dev.rrateWrite d die stack v) := by
  unfold Dev.rrateWrite
  repeat' (first | with_reducible assumption | intro _ | (simp only [id_eq]) | (with_reducible refine Dev.rrateSet_kp (hμ := hμ.up (by decide)) (hκ := ?_) ..) | (with_reducible apply Agree.ite) | split)

theorem Dev.refctlWrite_kp {μ : Nat} {ω : Dev} (d : Dev) (die : Nat) (stack : Nat) (v : Nat)  (hμ : Within 0x2001000000000000000000000 μ) (hκ : Agree μ ω d) : Agree μ ω (Dev.refctlWrite d die stack v) := by
  unfold Dev.refctlWrite
  repeat' (first | with_reducible assumption | intro _ | (simp only [id_eq]) | (with_reducible refine Dev.put_kp (hf := by first | assumption | exact hμ.bit rfl) (hμ := hμ.up (by decide)) (hκ := ?_) ..) | (with_reducible apply Agree.ite) | split)

theorem Dev.hbState_kp {μ : Nat} {ω : Dev} (d : Dev) (die : Nat) (stack : Nat) (st : Nat)  (hμ : Within 0x400000000000000000000 μ) (hκ : Agree μ ω d) : Agree μ ω (Dev.hbState d die stack st) := by
  unfold Dev.hbState
  repeat' (first | with_reducible assumption | intro _ | (simp only [id_eq]) | (with_reducible refine Dev.put_kp (hf := by first | assumption | exact hμ.bit rfl) (hμ := hμ.up (by decide)) (hκ := ?_) ..) | (with_reducible apply Agree.ite) | split)

theorem Dev.hbDrain_kp {μ : Nat} {ω : Dev} (d : Dev) (die : Nat) (stack : Nat)  (hμ : Within 0x200000000000000000000000000000000000000000000000000000000000000000000000000000000000000000000000000 μ) (hκ : Agree μ ω d) : Agree μ ω (Dev.hbDrain d die stack) := by
  unfold Dev.hbDrain
  repeat' (first | with_reducible assumption | intro _ | (simp only [id_eq]) | (simp only [Agree.set_wrq (hμ.bit (by decide))]) | (with_reducible apply Agree.ite) | split)

theorem Dev.hbTrain_kp {μ : Nat} {ω : Dev} (d : Dev) (die : Nat) (stack : Nat)  (hμ : Within 0x400000000000000000000 μ) (hκ : Agree μ ω d) : Agree μ ω (Dev.hbTrain d die stack) := by
  unfold Dev.hbTrain
  repeat' (first | with_reducible assumption | intro _ | (simp only [id_eq]) | (with_reducible refine Dev.hbState_kp (hμ := hμ.up (by decide)) (hκ := ?_) ..) | (with_reducible apply Agree.ite) | split)

theorem Dev.hbSelfref_kp {μ : Nat} {ω : Dev} (d : Dev) (die : Nat) (stack : Nat)  (hμ : Within 0x200000000000000000000000000000000000000000000000000000000000000000000000000000400000000000000000000 μ) (hκ : Agree μ ω d) : Agree μ ω (Dev.hbSelfref d die stack) := by
  unfold Dev.hbSelfref
  repeat' (first | with_reducible assumption | intro _ | (simp only [id_eq]) | (with_reducible refine Dev.hbDrain_kp (hμ := hμ.up (by decide)) (hκ := ?_) ..) | (with_reducible refine Dev.hbState_kp (hμ := hμ.up (by decide)) (hκ := ?_) ..) | (with_reducible apply Agree.ite) | split)

theorem Dev.hbWake_kp {μ : Nat} {ω : Dev} (d : Dev) (die : Nat) (stack : Nat)  (hμ : Within 0x400000000000000000000 μ) (hκ : Agree μ ω d) : Agree μ ω (Dev.hbWake d die stack) := by
  unfold Dev.hbWake
  repeat' (first | with_reducible assumption | intro _ | (simp only [id_eq]) | (with_reducible refine Dev.hbState_kp (hμ := hμ.up (by decide)) (hκ := ?_) ..) | (with_reducible apply Agree.ite) | split)

theorem Dev.hbHold_kp {μ : Nat} {ω : Dev} (d : Dev) (die : Nat) (stack : Nat)  (hμ : Within 0x400000000000000000000 μ) (hκ : Agree μ ω d) : Agree μ ω (Dev.hbHold d die stack) := by
  unfold Dev.hbHold
  repeat' (first | with_reducible assumption | intro _ | (simp only [id_eq]) | (with_reducible refine Dev.hbState_kp (hμ := hμ.up (by decide)) (hκ := ?_) ..) | (with_reducible apply Agree.ite) | split)

theorem Dev.hbCtlWrite_kp {μ : Nat} {ω : Dev} (d : Dev) (die : Nat) (stack : Nat) (v : Nat)  (hμ : Within 0x200000000000000000000000000000000000000000000000000000000000000000000000000000400000000000000000000 μ) (hκ : Agree μ ω d) : Agree μ ω (Dev.hbCtlWrite d die stack v) := by
  unfold Dev.hbCtlWrite
  repeat' (first | with_reducible assumption | intro _ | (simp only [id_eq]) | (with_reducible refine Dev.hbHold_kp (hμ := hμ.up (by decide)) (hκ := ?_) ..) | (with_reducible refine Dev.hbSelfref_kp (hμ := hμ.up (by decide)) (hκ := ?_) ..) | (with_reducible refine Dev.hbTrain_kp (hμ := hμ.up (by decide)) (hκ := ?_) ..) | (with_reducible refine Dev.hbWake_kp (hμ := hμ.up (by decide)) (hκ := ?_) ..) | (with_reducible apply Agree.ite) | split)

theorem Dev.assignLanes_kp {μ : Nat} {ω : Dev} (d : Dev) (die : Nat) (stack : Nat) (pc : Nat) (nrep : Nat) (ls : List Nat)  (hμ : Within 0x8000000000000000000000 μ) (hκ : Agree μ ω d) : Agree μ ω (Dev.assignLanes d die stack pc nrep ls) := by
  unfold Dev.assignLanes
  repeat' (first | with_reducible assumption | intro _ | (simp only [id_eq]) | (with_reducible refine Dev.put_kp (hf := by first | assumption | exact hμ.bit rfl) (hμ := hμ.up (by decide)) (hκ := ?_) ..) | (with_reducible apply Agree.ite) | split)

theorem Dev.hbTrained_kp {μ : Nat} {ω : Dev} (d : Dev) (die : Nat) (stack : Nat) (t : TrainRes)  (hμ : Within 0x800000000000000000000000000000000000000000000000000000000000000000000000000018500000000000000000000 μ) (hκ : Agree μ ω d) : Agree μ ω (Dev.hbTrained d die stack t) := by
  unfold Dev.hbTrained
  repeat' (first | with_reducible assumption | intro _ | (simp only [id_eq]) | (with_reducible refine Dev.setKey_kp _ _ _ _ _ _ (by first | assumption | exact hμ.bit (by decide) | exact hall _) ?_) | (with_reducible refine Dev.setRaw_kp _ _ _ (by assumption) ?_) | (with_reducible refine Dev.assignLanes_kp (hμ := hμ.up (by decide)) (hκ := ?_) ..) | (with_reducible refine Dev.hbState_kp (hμ := hμ.up (by decide)) (hκ := ?_) ..) | (with_reducible refine Dev.put_kp (hf := by first | assumption | exact hμ.bit rfl) (hμ := hμ.up (by decide)) (hκ := ?_) ..) | (with_reducible refine Dev.setHbm_kp (hμ := hμ.up (by decide)) (hκ := ?_) ..) | (with_reducible apply Agree.ite) | (with_reducible apply Agree.foldl) | (with_reducible apply Agree.foldl_fst) | (with_reducible apply Agree.foldl_snd) | split)

theorem Dev.openRow_kp {μ : Nat} {ω : Dev} (d : Dev) (die : Nat) (off : Nat)  (hμ : Within 0x400000000000000000000000000000000000000000000000000000000000000000000000000000000000000000000000000 μ) (hκ : Agree μ ω d) : Agree μ ω (Dev.openRow d die off) := by
  unfold Dev.openRow
  repeat' (first | with_reducible assumption | intro _ | (simp only [id_eq]) | (simp only [Agree.set_rows (hμ.bit (by decide))]) | (with_reducible refine Dev.put_kp (hf := by first | assumption | exact hμ.bit rfl) (hμ := hμ.up (by decide)) (hκ := ?_) ..) | (with_reducible apply Agree.ite) | split)

theorem Dev.rowClose_kp {μ : Nat} {ω : Dev} (d : Dev) (die : Nat) (pc : Nat) (bank : Nat)  (hμ : Within 0x400000000000000000000000000000000000000000000000000000000000000000000000000000000000000000000000000 μ) (hκ : Agree μ ω d) : Agree μ ω (Dev.rowClose d die pc bank) := by
  unfold Dev.rowClose
  repeat' (first | with_reducible assumption | intro _ | (simp only [id_eq]) | (simp only [Agree.set_rows (hμ.bit (by decide))]) | (with_reducible apply Agree.ite) | split)

theorem Dev.wrDrain_kp {μ : Nat} {ω : Dev} (d : Dev) (die : Nat) (chan : Nat)  (hμ : Within 0x600000000000000000000000000000000000000000000000000000000000000000000000000060000000000000000000000 μ) (hκ : Agree μ ω d) : Agree μ ω (Dev.wrDrain d die chan) := by
  unfold Dev.wrDrain
  repeat' (first | with_reducible assumption | intro _ | (simp only [id_eq]) | (simp only [Agree.set_wrq (hμ.bit (by decide))]) | (with_reducible refine Dev.count64_kp (hlo := by first | assumption | exact hμ.bit rfl) (hhi := by first | assumption | exact hμ.bit rfl) (hμ := hμ.up (by decide)) (hκ := ?_) ..) | (with_reducible refine Dev.openRow_kp (hμ := hμ.up (by decide)) (hκ := ?_) ..) | (with_reducible refine Dev.put_kp (hf := by first | assumption | exact hμ.bit rfl) (hμ := hμ.up (by decide)) (hκ := ?_) ..) | (with_reducible apply Agree.ite) | (with_reducible apply Agree.foldl) | (with_reducible apply Agree.foldl_fst) | (with_reducible apply Agree.foldl_snd) | split)

theorem Dev.coreSend_kp {μ : Nat} {ω : Dev} (d : Dev) (cn : Nat) (p : Nat) (m : CtlMsg)  (hμ : Within 0x80000002000000245000000000000000000000000000000000000000000008000000000000000000000000000000000000000040 μ) (hκ : Agree μ ω d) : Agree μ ω (Dev.coreSend d cn p m) := by
  unfold Dev.coreSend
  repeat' (first | with_reducible assumption | intro _ | (simp only [id_eq]) | (with_reducible refine Dev.dbDiscard_kp (hμ := hμ.up (by decide)) (hκ := ?_) ..) | (with_reducible refine Dev.hubDiscard_kp (hμ := hμ.up (by decide)) (hκ := ?_) ..) | (with_reducible refine Dev.send_kp (hμ := hμ.up (by decide)) (hκ := ?_) ..) | (with_reducible apply Agree.ite) | split)

theorem Dev.withdrawSlots_kp {μ : Nat} {ω : Dev} (d : Dev) (cn : Nat) (p : Nat)  (hμ : Within 0x80000002080000245000000000000000000000000000000000000000000008000000000000000000000000000000000000000040 μ) (hκ : Agree μ ω d) : Agree μ ω (Dev.withdrawSlots d cn p) := by
  unfold Dev.withdrawSlots
  repeat' (first | with_reducible assumption | intro _ | (simp only [id_eq]) | (with_reducible refine Dev.coreSend_kp (hμ := hμ.up (by decide)) (hκ := ?_) ..) | (with_reducible refine Dev.setCore_kp (hμ := hμ.up (by decide)) (hκ := ?_) ..) | (with_reducible apply Agree.ite) | (with_reducible apply Agree.foldl) | (with_reducible apply Agree.foldl_fst) | (with_reducible apply Agree.foldl_snd) | split)

theorem Dev.trapCore_kp {μ : Nat} {ω : Dev} (d : Dev) (cn : Nat) (p : Nat) (ix : Nat) (w : Nat) (t : Trap)  (hμ : Within 0x80000002080000245000000000000000000000000000000000000000000008000000000000000000000000000000000000000040 μ) (hκ : Agree μ ω d) : Agree μ ω (Dev.trapCore d cn p ix w t) := by
  unfold Dev.trapCore
  repeat' (first | with_reducible assumption | intro _ | (simp only [id_eq]) | (with_reducible refine Dev.coreSend_kp (hμ := hμ.up (by decide)) (hκ := ?_) ..) | (with_reducible refine Dev.setCore_kp (hμ := hμ.up (by decide)) (hκ := ?_) ..) | (with_reducible refine Dev.withdrawSlots_kp (hμ := hμ.up (by decide)) (hκ := ?_) ..) | (with_reducible apply Agree.ite) | split)

theorem Dev.issue_kp {μ : Nat} {ω : Dev} (d : Dev) (cn p op : Nat) (resv : Iss → Bool) (reads : Iss → List Nat) (wait : Iss → Bool)
    (skip : Iss → Core → Core) (traps : Dev → Iss → List Trap) (act : Iss → Dev → Dev × Option Trap)
    (hact : ∀ a0 a1, Agree μ ω a1 → Agree μ ω (act a0 a1).1) (hμ : Within 0x80000002080000245000000000000000000000000000000000000000000008000000000000000000000000000000000000000040 μ) (hκ : Agree μ ω d) :
    Agree μ ω (Dev.issue d cn p op resv reads wait skip traps act) := by
  unfold Dev.issue
  split
  · exact hκ
  · rename_i i _
    have h1 := hact i (d.setCore i.key i.c.advance) (Dev.setCore_kp (hμ := hμ.up (by decide)) (hκ := hκ) ..)
    rcases he : act i (d.setCore i.key i.c.advance) with ⟨d', q⟩
    rw [he] at h1
    cases q <;> repeat' (first | with_reducible assumption | intro _ | (simp only [id_eq]) | (simp only [he]) | (with_reducible refine hact _ _ ?_) | (with_reducible refine Dev.setCore_kp (hμ := hμ.up (by decide)) (hκ := ?_) ..) | (with_reducible refine Dev.trapCore_kp (hμ := hμ.up (by decide)) (hκ := ?_) ..) | (with_reducible apply Agree.ite) | split)

theorem Dev.issueReg_kp {μ : Nat} {ω : Dev} (d : Dev) (cn : Nat) (p : Nat) (op : Nat) (resv : Iss → Bool) (reads : Iss → List Nat) (f : Iss → Core → Core)  (hμ : Within 0x80000002080000245000000000000000000000000000000000000000000008000000000000000000000000000000000000000040 μ) (hκ : Agree μ ω d) : Agree μ ω (Dev.issueReg d cn p op resv reads f) := by
  unfold Dev.issueReg
  repeat' (first | with_reducible assumption | intro _ | (simp only [id_eq]) | (with_reducible refine Dev.issue_kp (hact := ?_) (hμ := hμ.up (by decide)) (hκ := ?_) ..) | (with_reducible refine Dev.setCore_kp (hμ := hμ.up (by decide)) (hκ := ?_) ..) | (with_reducible apply Agree.ite) | split)

theorem Dev.loadThen_kp {μ : Nat} {ω : Dev} (d : Dev) (key : Nat) (off : Nat) (n : Nat) (f : Bytes → Core → Core)  (hμ : Within 0x84000000000000000000000000000000000000000000000000000000000000c00000000000000000000000000000000 μ) (hκ : Agree μ ω d) : Agree μ ω (Dev.loadThen d key off n f).1 := by
  unfold Dev.loadThen
  repeat' (first | with_reducible assumption | intro _ | (simp only [id_eq]) | (with_reducible refine Dev.setCore_kp (hμ := hμ.up (by decide)) (hκ := ?_) ..) | (with_reducible refine Dev.spLoad_kp' (heq := by with_reducible assumption) (hμ := hμ.up (by decide)) (hκ := ?_) ..) | (with_reducible refine Dev.spLoad_kp (hμ := hμ.up (by decide)) (hκ := ?_) ..) | (with_reducible apply Agree.ite) | split)

theorem Dev.loadThen_kp' {μ : Nat} {ω : Dev} {d : Dev} {key : Nat} {off : Nat} {n : Nat} {f : Bytes → Core → Core} {rd : Dev} {y} (heq : Dev.loadThen d key off n f = (rd, y))  (hμ : Within 0x84000000000000000000000000000000000000000000000000000000000000c00000000000000000000000000000000 μ) (hκ : Agree μ ω d) : Agree μ ω rd := by
  have k := Dev.loadThen_kp (μ := μ) (ω := ω) d key off n f  (hμ := hμ) (hκ := hκ); rw [heq] at k; exact k

theorem Dev.planFetch_kp {μ : Nat} {ω : Dev} (d : Dev) (cn : Nat) (p : Nat)  (hμ : Within 0x84000000000000000000000000000000000000000000000000000000000000c00000000000000000000000000000000 μ) (hκ : Agree μ ω d) : Agree μ ω (Dev.planFetch d cn p) := by
  unfold Dev.planFetch
  repeat' (first | with_reducible assumption | intro _ | (simp only [id_eq]) | (with_reducible refine Dev.draw_kp' (heq := by with_reducible assumption) (hμ := hμ.up (by decide)) (hκ := ?_) ..) | (with_reducible refine Dev.draw_kp (hμ := hμ.up (by decide)) (hκ := ?_) ..) | (with_reducible refine Dev.setCore_kp (hμ := hμ.up (by decide)) (hκ := ?_) ..) | (with_reducible refine Dev.spCount_kp (hμ := hμ.up (by decide)) (hκ := ?_) ..) | (with_reducible apply Agree.ite) | (with_reducible apply Agree.foldl) | (with_reducible apply Agree.foldl_fst) | (with_reducible apply Agree.foldl_snd) | split)

theorem Dev.wNop_kp {μ : Nat} {ω : Dev} (d : Dev) (cn : Nat) (p : Nat)  (hμ : Within 0x80000002080000245000000000000000000000000000000000000000000008000000000000000000000000000000000000000040 μ) (hκ : Agree μ ω d) : Agree μ ω (Dev.wNop d cn p) := by
  unfold Dev.wNop
  repeat' (first | with_reducible assumption | intro _ | (simp only [id_eq]) | (with_reducible refine Dev.issueReg_kp (hμ := hμ.up (by decide)) (hκ := ?_) ..) | (with_reducible refine Dev.trapCore_kp (hμ := hμ.up (by decide)) (hκ := ?_) ..) | (with_reducible apply Agree.ite) | split)

theorem Dev.wEnd_kp {μ : Nat} {ω : Dev} (d : Dev) (cn : Nat) (p : Nat)  (hμ : Within 0x80000002080000245000000000000000000000000000000000000000000008000000000000000000000000000000000000000040 μ) (hκ : Agree μ ω d) : Agree μ ω (Dev.wEnd d cn p) := by
  unfold Dev.wEnd
  repeat' (first | with_reducible assumption | intro _ | (simp only [id_eq]) | (with_reducible refine Dev.issueReg_kp (hμ := hμ.up (by decide)) (hκ := ?_) ..) | (with_reducible apply Agree.ite) | split)

theorem Dev.coreDone_kp {μ : Nat} {ω : Dev} (d : Dev) (cn : Nat) (p : Nat)  (hμ : Within 0x80000000000000000000000000000000000000000000000000000000000000000000000000000000000000000000000 μ) (hκ : Agree μ ω d) : Agree μ ω (Dev.coreDone d cn p) := by
  unfold Dev.coreDone
  repeat' (first | with_reducible assumption | intro _ | (simp only [id_eq]) | (with_reducible refine Dev.setCore_kp (hμ := hμ.up (by decide)) (hκ := ?_) ..) | (with_reducible apply Agree.ite) | split)

theorem Dev.wLoop_kp {μ : Nat} {ω : Dev} (d : Dev) (cn : Nat) (p : Nat)  (hμ : Within 0x80000002080000245000000000000000000000000000000000000000000008000000000000000000000000000000000000000040 μ) (hκ : Agree μ ω d) : Agree μ ω (Dev.wLoop d cn p) := by
  unfold Dev.wLoop
  repeat' (first | with_reducible assumption | intro _ | (simp only [id_eq]) | (with_reducible refine Dev.issue_kp (hact := ?_) (hμ := hμ.up (by decide)) (hκ := ?_) ..) | (with_reducible refine Dev.setCore_kp (hμ := hμ.up (by decide)) (hκ := ?_) ..) | (with_reducible apply Agree.ite) | split)

theorem Dev.backEdge_kp {μ : Nat} {ω : Dev} (d : Dev) (cn : Nat) (p : Nat)  (hμ : Within 0x80000000000000000000000000000000000000000000000000000000000000000000000000000000000000000000000 μ) (hκ : Agree μ ω d) : Agree μ ω (Dev.backEdge d cn p) := by
  unfold Dev.backEdge
  repeat' (first | with_reducible assumption | intro _ | (simp only [id_eq]) | (with_reducible refine Dev.setCore_kp (hμ := hμ.up (by decide)) (hκ := ?_) ..) | (with_reducible apply Agree.ite) | split)

theorem Dev.wSeed_kp {μ : Nat} {ω : Dev} (d : Dev) (cn : Nat) (p : Nat)  (hμ : Within 0x80000002084000245000000000000000000000000000000000000000000008000000000c00000000000000000000000000000040 μ) (hκ : Agree μ ω d) : Agree μ ω (Dev.wSeed d cn p) := by
  unfold Dev.wSeed
  repeat' (first | with_reducible assumption | intro _ | (simp only [id_eq]) | (with_reducible refine Dev.issue_kp (hact := ?_) (hμ := hμ.up (by decide)) (hκ := ?_) ..) | (with_reducible refine Dev.loadThen_kp' (heq := by with_reducible assumption) (hμ := hμ.up (by decide)) (hκ := ?_) ..) | (with_reducible refine Dev.loadThen_kp (hμ := hμ.up (by decide)) (hκ := ?_) ..) | (with_reducible apply Agree.ite) | split)

theorem Dev.seedDone_kp {μ : Nat} {ω : Dev} (d : Dev) (cn : Nat) (p : Nat)  (hμ : Within 0x80000000000000000000000000000000000000000000000000000000000000000000000000000000000000000000000 μ) (hκ : Agree μ ω d) : Agree μ ω (Dev.seedDone d cn p) := by
  unfold Dev.seedDone
  repeat' (first | with_reducible assumption | intro _ | (simp only [id_eq]) | (with_reducible refine Dev.setCore_kp (hμ := hμ.up (by decide)) (hκ := ?_) ..) | (with_reducible apply Agree.ite) | split)

theorem Dev.wFlags_kp {μ : Nat} {ω : Dev} (d : Dev) (cn : Nat) (p : Nat)  (hμ : Within 0x80000002080000245000000000000000000000000000000000000000000008000000000000000000000000000000000000000040 μ) (hκ : Agree μ ω d) : Agree μ ω (Dev.wFlags d cn p) := by
  unfold Dev.wFlags
  repeat' (first | with_reducible assumption | intro _ | (simp only [id_eq]) | (with_reducible refine Dev.issueReg_kp (hμ := hμ.up (by decide)) (hκ := ?_) ..) | (with_reducible apply Agree.ite) | split)

theorem Dev.wDcap_kp {μ : Nat} {ω : Dev} (d : Dev) (cn : Nat) (p : Nat)  (hμ : Within 0x80000002080000245000000000000000000000000000000000000000000008000000000000000000000000000000000000000040 μ) (hκ : Agree μ ω d) : Agree μ ω (Dev.wDcap d cn p) := by
  unfold Dev.wDcap
  repeat' (first | with_reducible assumption | intro _ | (simp only [id_eq]) | (with_reducible refine Dev.issueReg_kp (hμ := hμ.up (by decide)) (hκ := ?_) ..) | (with_reducible apply Agree.ite) | split)

theorem Dev.wLutld_kp {μ : Nat} {ω : Dev} (d : Dev) (cn : Nat) (p : Nat)  (hμ : Within 0x80000002084000245000000000000000000000000000000000000000000008000000000c00000000000000000000000000000040 μ) (hκ : Agree μ ω d) : Agree μ ω (Dev.wLutld d cn p) := by
  unfold Dev.wLutld
  repeat' (first | with_reducible assumption | intro _ | (simp only [id_eq]) | (with_reducible refine Dev.issue_kp (hact := ?_) (hμ := hμ.up (by decide)) (hκ := ?_) ..) | (with_reducible refine Dev.loadThen_kp' (heq := by with_reducible assumption) (hμ := hμ.up (by decide)) (hκ := ?_) ..) | (with_reducible refine Dev.loadThen_kp (hμ := hμ.up (by decide)) (hκ := ?_) ..) | (with_reducible apply Agree.ite) | split)

theorem Dev.lutDone_kp {μ : Nat} {ω : Dev} (d : Dev) (cn : Nat) (p : Nat)  (hμ : Within 0x80000000000000000000000000000000000000000000000000000000000000000000000000000000000000000000000 μ) (hκ : Agree μ ω d) : Agree μ ω (Dev.lutDone d cn p) := by
  unfold Dev.lutDone
  repeat' (first | with_reducible assumption | intro _ | (simp only [id_eq]) | (with_reducible refine Dev.setCore_kp (hμ := hμ.up (by decide)) (hκ := ?_) ..) | (with_reducible apply Agree.ite) | split)

theorem Dev.wCset_kp {μ : Nat} {ω : Dev} (d : Dev) (cn : Nat) (p : Nat)  (hμ : Within 0x80000002080000245000000000000000000000000000000000000000000008000000000000000000000000000000000000000040 μ) (hκ : Agree μ ω d) : Agree μ ω (Dev.wCset d cn p) := by
  unfold Dev.wCset
  repeat' (first | with_reducible assumption | intro _ | (simp only [id_eq]) | (with_reducible refine Dev.issueReg_kp (hμ := hμ.up (by decide)) (hκ := ?_) ..) | (with_reducible apply Agree.ite) | split)

theorem Dev.wCalc_kp {μ : Nat} {ω : Dev} (d : Dev) (cn : Nat) (p : Nat)  (hμ : Within 0x80000002080000245000000000000000000000000000000000000000000008000000000000000000000000000000000000000040 μ) (hκ : Agree μ ω d) : Agree μ ω (Dev.wCalc d cn p) := by
  unfold Dev.wCalc
  repeat' (first | with_reducible assumption | intro _ | (simp only [id_eq]) | (with_reducible refine Dev.issueReg_kp (hμ := hμ.up (by decide)) (hκ := ?_) ..) | (with_reducible apply Agree.ite) | split)

theorem Dev.wCmin_kp {μ : Nat} {ω : Dev} (d : Dev) (cn : Nat) (p : Nat)  (hμ : Within 0x80000002080000245000000000000000000000000000000000000000000008000000000000000000000000000000000000000040 μ) (hκ : Agree μ ω d) : Agree μ ω (Dev.wCmin d cn p) := by
  unfold Dev.wCmin
  repeat' (first | with_reducible assumption | intro _ | (simp only [id_eq]) | (with_reducible refine Dev.issueReg_kp (hμ := hμ.up (by decide)) (hκ := ?_) ..) | (with_reducible apply Agree.ite) | split)

theorem Dev.wCload_kp {μ : Nat} {ω : Dev} (d : Dev) (cn : Nat) (p : Nat)  (hμ : Within 0x80000002084000245000000000000000000000000000000000000000000008000000000c00000000000000000000000000000040 μ) (hκ : Agree μ ω d) : Agree μ ω (Dev.wCload d cn p) := by
  unfold Dev.wCload
  repeat' (first | with_reducible assumption | intro _ | (simp only [id_eq]) | (with_reducible refine Dev.issue_kp (hact := ?_) (hμ := hμ.up (by decide)) (hκ := ?_) ..) | (with_reducible refine Dev.loadThen_kp' (heq := by with_reducible assumption) (hμ := hμ.up (by decide)) (hκ := ?_) ..) | (with_reducible refine Dev.loadThen_kp (hμ := hμ.up (by decide)) (hκ := ?_) ..) | (with_reducible apply Agree.ite) | split)

theorem Dev.wCstore_kp {μ : Nat} {ω : Dev} (d : Dev) (cn : Nat) (p : Nat)  (hμ : Within 0x800000020bc000245000000000000000000000000000000000000000000008000000000c00000000000000000000000000000040 μ) (hκ : Agree μ ω d) : Agree μ ω (Dev.wCstore d cn p) := by
  unfold Dev.wCstore
  repeat' (first | with_reducible assumption | intro _ | (simp only [id_eq]) | (with_reducible refine Dev.issue_kp (hact := ?_) (hμ := hμ.up (by decide)) (hκ := ?_) ..) | (with_reducible refine Dev.setCore_kp (hμ := hμ.up (by decide)) (hκ := ?_) ..) | (with_reducible refine Dev.spStore_kp (hμ := hμ.up (by decide)) (hκ := ?_) ..) | (with_reducible apply Agree.ite) | split)

theorem Dev.wAset_kp {μ : Nat} {ω : Dev} (d : Dev) (cn : Nat) (p : Nat)  (hμ : Within 0x80000002080000245000000000000000000000000000000000000000000008000000000000000000000000000000000000000040 μ) (hκ : Agree μ ω d) : Agree μ ω (Dev.wAset d cn p) := by
  unfold Dev.wAset
  repeat' (first | with_reducible assumption | intro _ | (simp only [id_eq]) | (with_reducible refine Dev.issueReg_kp (hμ := hμ.up (by decide)) (hκ := ?_) ..) | (with_reducible apply Agree.ite) | split)

theorem Dev.wAadd_kp {μ : Nat} {ω : Dev} (d : Dev) (cn : Nat) (p : Nat)  (hμ : Within 0x80000002080000245000000000000000000000000000000000000000000008000000000000000000000000000000000000000040 μ) (hκ : Agree μ ω d) : Agree μ ω (Dev.wAadd d cn p) := by
  unfold Dev.wAadd
  repeat' (first | with_reducible assumption | intro _ | (simp only [id_eq]) | (with_reducible refine Dev.issueReg_kp (hμ := hμ.up (by decide)) (hκ := ?_) ..) | (with_reducible apply Agree.ite) | split)

theorem Dev.wMta_kp {μ : Nat} {ω : Dev} (d : Dev) (cn : Nat) (p : Nat)  (hμ : Within 0x80000002080000245000000000000000000000000000000000000000000008000000000000000000000000000000000000000040 μ) (hκ : Agree μ ω d) : Agree μ ω (Dev.wMta d cn p) := by
  unfold Dev.wMta
  repeat' (first | with_reducible assumption | intro _ | (simp only [id_eq]) | (with_reducible refine Dev.issue_kp (hact := ?_) (hμ := hμ.up (by decide)) (hκ := ?_) ..) | (with_reducible refine Dev.setCore_kp (hμ := hμ.up (by decide)) (hκ := ?_) ..) | (with_reducible apply Agree.ite) | split)

theorem Dev.wMtb_kp {μ : Nat} {ω : Dev} (d : Dev) (cn : Nat) (p : Nat)  (hμ : Within 0x80000002080000245000000000000000000000000000000000000000000008000000000000000000000000000000000000000040 μ) (hκ : Agree μ ω d) : Agree μ ω (Dev.wMtb d cn p) := by
  unfold Dev.wMtb
  repeat' (first | with_reducible assumption | intro _ | (simp only [id_eq]) | (with_reducible refine Dev.issue_kp (hact := ?_) (hμ := hμ.up (by decide)) (hκ := ?_) ..) | (with_reducible refine Dev.setCore_kp (hμ := hμ.up (by decide)) (hκ := ?_) ..) | (with_reducible apply Agree.ite) | split)

theorem Dev.wMma_kp {μ : Nat} {ω : Dev} (d : Dev) (cn : Nat) (p : Nat)  (hμ : Within 0x80000002084000245000000000000000000000000000000000000000000008000000000000000000000000000000000000000040 μ) (hκ : Agree μ ω d) : Agree μ ω (Dev.wMma d cn p) := by
  unfold Dev.wMma
  repeat' (first | with_reducible assumption | intro _ | (simp only [id_eq]) | (with_reducible refine Dev.draw_kp' (heq := by with_reducible assumption) (hμ := hμ.up (by decide)) (hκ := ?_) ..) | (with_reducible refine Dev.draw_kp (hμ := hμ.up (by decide)) (hκ := ?_) ..) | (with_reducible refine Dev.issue_kp (hact := ?_) (hμ := hμ.up (by decide)) (hκ := ?_) ..) | (with_reducible refine Dev.setCore_kp (hμ := hμ.up (by decide)) (hκ := ?_) ..) | (with_reducible apply Agree.ite) | split)

theorem Dev.mmaDone_kp {μ : Nat} {ω : Dev} (d : Dev) (cn : Nat) (p : Nat)  (hμ : Within 0x80000002084000245000000000000000000000000000000000000000000008000000000c00000000000000000000000000000040 μ) (hκ : Agree μ ω d) : Agree μ ω (Dev.mmaDone d cn p) := by
  unfold Dev.mmaDone
  repeat' (first | with_reducible assumption | intro _ | (simp only [id_eq]) | (with_reducible refine Dev.draw_kp' (heq := by with_reducible assumption) (hμ := hμ.up (by decide)) (hκ := ?_) ..) | (with_reducible refine Dev.draw_kp (hμ := hμ.up (by decide)) (hκ := ?_) ..) | (with_reducible refine Dev.setCore_kp (hμ := hμ.up (by decide)) (hκ := ?_) ..) | (with_reducible refine Dev.spCount_kp (hμ := hμ.up (by decide)) (hκ := ?_) ..) | (with_reducible refine Dev.trapCore_kp (hμ := hμ.up (by decide)) (hκ := ?_) ..) | (with_reducible apply Agree.ite) | split)

theorem Dev.wVld_kp {μ : Nat} {ω : Dev} (d : Dev) (cn : Nat) (p : Nat)  (hμ : Within 0x80000002084000245000000000000000000000000000000000000000000008000000000c00000000000000000000000000000040 μ) (hκ : Agree μ ω d) : Agree μ ω (Dev.wVld d cn p) := by
  unfold Dev.wVld
  repeat' (first | with_reducible assumption | intro _ | (simp only [id_eq]) | (with_reducible refine Dev.issue_kp (hact := ?_) (hμ := hμ.up (by decide)) (hκ := ?_) ..) | (with_reducible refine Dev.loadThen_kp' (heq := by with_reducible assumption) (hμ := hμ.up (by decide)) (hκ := ?_) ..) | (with_reducible refine Dev.loadThen_kp (hμ := hμ.up (by decide)) (hκ := ?_) ..) | (with_reducible apply Agree.ite) | split)

theorem Dev.wVst_kp {μ : Nat} {ω : Dev} (d : Dev) (cn : Nat) (p : Nat)  (hμ : Within 0x800000020bc000245000000000000000000000000000000000000000000008000000000c00000000000000000000000000000040 μ) (hκ : Agree μ ω d) : Agree μ ω (Dev.wVst d cn p) := by
  unfold Dev.wVst
  repeat' (first | with_reducible assumption | intro _ | (simp only [id_eq]) | (with_reducible refine Dev.issue_kp (hact := ?_) (hμ := hμ.up (by decide)) (hκ := ?_) ..) | (with_reducible refine Dev.setCore_kp (hμ := hμ.up (by decide)) (hκ := ?_) ..) | (with_reducible refine Dev.spStore_kp (hμ := hμ.up (by decide)) (hκ := ?_) ..) | (with_reducible apply Agree.ite) | split)

theorem Dev.wVacc_kp {μ : Nat} {ω : Dev} (d : Dev) (cn : Nat) (p : Nat)  (hμ : Within 0x80000002080000245000000000000000000000000000000000000000000008000000000000000000000000000000000000000040 μ) (hκ : Agree μ ω d) : Agree μ ω (Dev.wVacc d cn p) := by
  unfold Dev.wVacc
  repeat' (first | with_reducible assumption | intro _ | (simp only [id_eq]) | (with_reducible refine Dev.issue_kp (hact := ?_) (hμ := hμ.up (by decide)) (hκ := ?_) ..) | (with_reducible refine Dev.setCore_kp (hμ := hμ.up (by decide)) (hκ := ?_) ..) | (with_reducible apply Agree.ite) | split)

theorem Dev.wVop_kp {μ : Nat} {ω : Dev} (d : Dev) (cn : Nat) (p : Nat)  (hμ : Within 0x80000002084000245000000000000000000000000000000000000000000008000000000000000000000000000000000000000040 μ) (hκ : Agree μ ω d) : Agree μ ω (Dev.wVop d cn p) := by
  unfold Dev.wVop
  repeat' (first | with_reducible assumption | intro _ | (simp only [id_eq]) | (with_reducible refine Dev.draw_kp' (heq := by with_reducible assumption) (hμ := hμ.up (by decide)) (hκ := ?_) ..) | (with_reducible refine Dev.draw_kp (hμ := hμ.up (by decide)) (hκ := ?_) ..) | (with_reducible refine Dev.issue_kp (hact := ?_) (hμ := hμ.up (by decide)) (hκ := ?_) ..) | (with_reducible refine Dev.setCore_kp (hμ := hμ.up (by decide)) (hκ := ?_) ..) | (with_reducible apply Agree.ite) | split)

theorem Dev.spBits_kp {μ : Nat} {ω : Dev} (d : Dev) (key : Nat) (a : Nat) (lo : Nat) (n : Nat) (v : Nat)  (hμ : Within 0x3c000000000000000000000000000000000000000000000000000000000000c00000000000000000000000000000000 μ) (hκ : Agree μ ω d) : Agree μ ω (Dev.spBits d key a lo n v) := by
  unfold Dev.spBits
  repeat' (first | with_reducible assumption | intro _ | (simp only [id_eq]) | (with_reducible refine Dev.draw_kp' (heq := by with_reducible assumption) (hμ := hμ.up (by decide)) (hκ := ?_) ..) | (with_reducible refine Dev.draw_kp (hμ := hμ.up (by decide)) (hκ := ?_) ..) | (with_reducible refine Dev.markUnit_kp (hμ := hμ.up (by decide)) (hκ := ?_) ..) | (with_reducible refine Dev.put_kp (hf := by first | assumption | exact hμ.bit rfl) (hμ := hμ.up (by decide)) (hκ := ?_) ..) | (with_reducible refine Dev.spCount_kp (hμ := hμ.up (by decide)) (hκ := ?_) ..) | (with_reducible refine Dev.writeUnit_kp (hμ := hμ.up (by decide)) (hκ := ?_) ..) | (with_reducible apply Agree.ite) | split)

theorem Dev.spStoreBits_kp {μ : Nat} {ω : Dev} (d : Dev) (key : Nat) (bit : Nat) (n : Nat) (v : Nat)  (hμ : Within 0x3c000000000000000000000000000000000000000000000000000000000000c00000000000000000000000000000000 μ) (hκ : Agree μ ω d) : Agree μ ω (Dev.spStoreBits d key bit n v) := by
  unfold Dev.spStoreBits
  repeat' (first | with_reducible assumption | intro _ | (simp only [id_eq]) | (with_reducible refine Dev.spBits_kp (hμ := hμ.up (by decide)) (hκ := ?_) ..) | (with_reducible apply Agree.ite) | split)

theorem Dev.wVcvt_kp {μ : Nat} {ω : Dev} (d : Dev) (cn : Nat) (p : Nat)  (hμ : Within 0x800000020bc000245000000000000000000000000000000000000000000008000000000c00000000000000000000000000000040 μ) (hκ : Agree μ ω d) : Agree μ ω (Dev.wVcvt d cn p) := by
  unfold Dev.wVcvt
  repeat' (first | with_reducible assumption | intro _ | (simp only [id_eq]) | (with_reducible refine Dev.issue_kp (hact := ?_) (hμ := hμ.up (by decide)) (hκ := ?_) ..) | (with_reducible refine Dev.setCore_kp (hμ := hμ.up (by decide)) (hκ := ?_) ..) | (with_reducible refine Dev.spStore_kp (hμ := hμ.up (by decide)) (hκ := ?_) ..) | (with_reducible refine Dev.spStoreBits_kp (hμ := hμ.up (by decide)) (hκ := ?_) ..) | (with_reducible apply Agree.ite) | (with_reducible apply Agree.foldl) | (with_reducible apply Agree.foldl_fst) | (with_reducible apply Agree.foldl_snd) | split)

theorem Dev.wTwait_kp {μ : Nat} {ω : Dev} (d : Dev) (cn : Nat) (p : Nat)  (hμ : Within 0x80000002080000245000000000000000000000000000000000000000000008000000000000000000000000000000000000000040 μ) (hκ : Agree μ ω d) : Agree μ ω (Dev.wTwait d cn p) := by
  unfold Dev.wTwait
  repeat' (first | with_reducible assumption | intro _ | (simp only [id_eq]) | (with_reducible refine Dev.coreSend_kp (hμ := hμ.up (by decide)) (hκ := ?_) ..) | (with_reducible refine Dev.issue_kp (hact := ?_) (hμ := hμ.up (by decide)) (hκ := ?_) ..) | (with_reducible refine Dev.setCore_kp (hμ := hμ.up (by decide)) (hκ := ?_) ..) | (with_reducible apply Agree.ite) | split)

theorem Dev.wWsync_kp {μ : Nat} {ω : Dev} (d : Dev) (cn : Nat) (p : Nat)  (hμ : Within 0x80000002080000245000000000000000000000000000000000000000000008000000000000000000000000000000000000000040 μ) (hκ : Agree μ ω d) : Agree μ ω (Dev.wWsync d cn p) := by
  unfold Dev.wWsync
  repeat' (first | with_reducible assumption | intro _ | (simp only [id_eq]) | (with_reducible refine Dev.issueReg_kp (hμ := hμ.up (by decide)) (hκ := ?_) ..) | (with_reducible apply Agree.ite) | split)

theorem Dev.wTadd_kp {μ : Nat} {ω : Dev} (d : Dev) (cn : Nat) (p : Nat)  (hμ : Within 0x80000002080000245000000000000000000000000000000000000000000008000000000000000000000000000000000000000040 μ) (hκ : Agree μ ω d) : Agree μ ω (Dev.wTadd d cn p) := by
  unfold Dev.wTadd
  repeat' (first | with_reducible assumption | intro _ | (simp only [id_eq]) | (with_reducible refine Dev.coreSend_kp (hμ := hμ.up (by decide)) (hκ := ?_) ..) | (with_reducible refine Dev.issue_kp (hact := ?_) (hμ := hμ.up (by decide)) (hκ := ?_) ..) | (with_reducible apply Agree.ite) | split)

theorem Dev.wTset_kp {μ : Nat} {ω : Dev} (d : Dev) (cn : Nat) (p : Nat)  (hμ : Within 0x80000002080000245000000000000000000000000000000000000000000008000000000000000000000000000000000000000040 μ) (hκ : Agree μ ω d) : Agree μ ω (Dev.wTset d cn p) := by
  unfold Dev.wTset
  repeat' (first | with_reducible assumption | intro _ | (simp only [id_eq]) | (with_reducible refine Dev.coreSend_kp (hμ := hμ.up (by decide)) (hκ := ?_) ..) | (with_reducible refine Dev.issue_kp (hact := ?_) (hμ := hμ.up (by decide)) (hκ := ?_) ..) | (with_reducible apply Agree.ite) | split)

theorem Dev.wTradd_kp {μ : Nat} {ω : Dev} (d : Dev) (cn : Nat) (p : Nat)  (hμ : Within 0x80000002080000245000000000000000000000000000000000000000000008000000000000000000000000000000000000000040 μ) (hκ : Agree μ ω d) : Agree μ ω (Dev.wTradd d cn p) := by
  unfold Dev.wTradd
  repeat' (first | with_reducible assumption | intro _ | (simp only [id_eq]) | (with_reducible refine Dev.issue_kp (hact := ?_) (hμ := hμ.up (by decide)) (hκ := ?_) ..) | (with_reducible refine Dev.setCore_kp (hμ := hμ.up (by decide)) (hκ := ?_) ..) | (with_reducible apply Agree.ite) | split)

theorem Dev.traddRelease_kp {μ : Nat} {ω : Dev} (d : Dev) (cn : Nat) (p : Nat)  (hμ : Within 0x80000002080000245000000000000000000000000000000000000000000008000000000000000000000000000000000000000040 μ) (hκ : Agree μ ω d) : Agree μ ω (Dev.traddRelease d cn p) := by
  unfold Dev.traddRelease
  repeat' (first | with_reducible assumption | intro _ | (simp only [id_eq]) | (with_reducible refine Dev.coreSend_kp (hμ := hμ.up (by decide)) (hκ := ?_) ..) | (with_reducible refine Dev.setCore_kp (hμ := hμ.up (by decide)) (hκ := ?_) ..) | (with_reducible apply Agree.ite) | split)

theorem Dev.wTcadd_kp {μ : Nat} {ω : Dev} (d : Dev) (cn : Nat) (p : Nat)  (hμ : Within 0x80000002080000245000000000000000000000000000000000000000000008000000000000000000000000000000000000000040 μ) (hκ : Agree μ ω d) : Agree μ ω (Dev.wTcadd d cn p) := by
  unfold Dev.wTcadd
  repeat' (first | with_reducible assumption | intro _ | (simp only [id_eq]) | (with_reducible refine Dev.coreSend_kp (hμ := hμ.up (by decide)) (hκ := ?_) ..) | (with_reducible refine Dev.issue_kp (hact := ?_) (hμ := hμ.up (by decide)) (hκ := ?_) ..) | (with_reducible refine Dev.setCore_kp (hμ := hμ.up (by decide)) (hκ := ?_) ..) | (with_reducible apply Agree.ite) | split)

theorem Dev.coreTimeout_kp {μ : Nat} {ω : Dev} (d : Dev) (cn : Nat) (p : Nat)  (hμ : Within 0x80000002080000245000000000000000000000000000000000000000000008000000000000000000000000000000000000000040 μ) (hκ : Agree μ ω d) : Agree μ ω (Dev.coreTimeout d cn p) := by
  unfold Dev.coreTimeout
  repeat' (first | with_reducible assumption | intro _ | (simp only [id_eq]) | (with_reducible refine Dev.trapCore_kp (hμ := hμ.up (by decide)) (hκ := ?_) ..) | (with_reducible apply Agree.ite) | split)

theorem Dev.pdrop_kp {μ : Nat} {ω : Dev} (d : Dev) (die : Nat)  (hμ : Within 0x40000000000000000000000000000000000000000000 μ) (hκ : Agree μ ω d) : Agree μ ω (Dev.pdrop d die) := by
  unfold Dev.pdrop
  repeat' (first | with_reducible assumption | intro _ | (simp only [id_eq]) | (with_reducible refine Dev.countSat_kp (hf := by first | assumption | exact hμ.bit rfl) (hμ := hμ.up (by decide)) (hκ := ?_) ..) | (with_reducible apply Agree.ite) | split)

theorem Dev.netDrop_kp {μ : Nat} {ω : Dev} (d : Dev) (n : Nat)  (hμ : Within 0x4000000000000000000000000000000000000000000000000000000000000000000000000000000000000000000000000 μ) (hκ : Agree μ ω d) : Agree μ ω (Dev.netDrop d n) := by
  unfold Dev.netDrop
  repeat' (first | with_reducible assumption | intro _ | (simp only [id_eq]) | (simp only [Agree.set_net (hμ.bit (by decide))]) | (with_reducible apply Agree.ite) | split)

theorem Dev.netPut_kp {μ : Nat} {ω : Dev} (d : Dev) (p : Pkt)  (hμ : Within 0x4000000000000000000000000000000000000000000000000000000000000000000000000000000000000000000000000 μ) (hκ : Agree μ ω d) : Agree μ ω (Dev.netPut d p) := by
  unfold Dev.netPut
  repeat' (first | with_reducible assumption | intro _ | (simp only [id_eq]) | (simp only [Agree.set_net (hμ.bit (by decide))]) | (with_reducible apply Agree.ite) | split)

theorem Dev.respond_kp {μ : Nat} {ω : Dev} (d : Dev) (t : Txn) (stat : Nat) (data : Bytes)  (hμ : Within 0x4000000000000000000000000000000000000000000000000000000000000000000000000000000000000000000000000 μ) (hκ : Agree μ ω d) : Agree μ ω (Dev.respond d t stat data) := by
  unfold Dev.respond
  repeat' (first | with_reducible assumption | intro _ | (simp only [id_eq]) | (with_reducible refine Dev.netPut_kp (hμ := hμ.up (by decide)) (hκ := ?_) ..) | (with_reducible apply Agree.ite) | split)

theorem Dev.pathFail_kp {μ : Nat} {ω : Dev} (d : Dev) (die : Nat) (t : Txn)  (hμ : Within 0x4000000000000000000000000000000000000000000000000000000800000000000000000000000000000000000000000 μ) (hκ : Agree μ ω d) : Agree μ ω (Dev.pathFail d die t) := by
  unfold Dev.pathFail
  repeat' (first | with_reducible assumption | intro _ | (simp only [id_eq]) | (with_reducible refine Dev.countSat_kp (hf := by first | assumption | exact hμ.bit rfl) (hμ := hμ.up (by decide)) (hκ := ?_) ..) | (with_reducible refine Dev.netPut_kp (hμ := hμ.up (by decide)) (hκ := ?_) ..) | (with_reducible apply Agree.ite) | split)

theorem Dev.sbPerform_kp {μ : Nat} {ω : Dev} (d : Dev) (die : Nat) (off : Nat) (t : Txn)  (hμ : Within 0x400003c00000000000000000000000000000000000000000000000000000000000003c000000000000000000000000000000 μ) (hκ : Agree μ ω d) : Agree μ ω (Dev.sbPerform d die off t).2 := by
  unfold Dev.sbPerform
  repeat' (first | with_reducible assumption | intro _ | (simp only [id_eq]) | (with_reducible refine Dev.sbFlush_kp (hμ := hμ.up (by decide)) (hκ := ?_) ..) | (with_reducible refine Dev.sbLoad_kp' (heq := by with_reducible assumption) (hμ := hμ.up (by decide)) (hκ := ?_) ..) | (with_reducible refine Dev.sbLoad_kp (hμ := hμ.up (by decide)) (hκ := ?_) ..) | (with_reducible refine Dev.sbStore_kp (hμ := hμ.up (by decide)) (hκ := ?_) ..) | (with_reducible refine Dev.sbWrite16_kp (hμ := hμ.up (by decide)) (hκ := ?_) ..) | (with_reducible refine Dev.sbWrite32_kp (hμ := hμ.up (by decide)) (hκ := ?_) ..) | (with_reducible apply Agree.ite) | split)

theorem Dev.sbPerform_kp' {μ : Nat} {ω : Dev} {d : Dev} {die : Nat} {off : Nat} {t : Txn} {y0} {rd : Dev} (heq : Dev.sbPerform d die off t = (y0, rd))  (hμ : Within 0x400003c00000000000000000000000000000000000000000000000000000000000003c000000000000000000000000000000 μ) (hκ : Agree μ ω d) : Agree μ ω rd := by
  have k := Dev.sbPerform_kp (μ := μ) (ω := ω) d die off t  (hμ := hμ) (hκ := hκ); rw [heq] at k; exact k

theorem Dev.hbPerform_kp {μ : Nat} {ω : Dev} (d : Dev) (die : Nat) (off : Nat) (t : Txn) (again : List (Nat × Nat))  (hμ : Within 0x8000080003c0002450000000000000000000000000000000000000000000000000000000003b303c000000000000000000000000 μ) (hκ : Agree μ ω d) : Agree μ ω (Dev.hbPerform d die off t again).2 := by
  unfold Dev.hbPerform
  repeat' (first | with_reducible assumption | intro _ | (simp only [id_eq]) | (with_reducible refine Dev.hbLoad_kp' (heq := by with_reducible assumption) (hμ := hμ.up (by decide)) (hκ := ?_) ..) | (with_reducible refine Dev.hbLoad_kp (hμ := hμ.up (by decide)) (hκ := ?_) ..) | (with_reducible refine Dev.hbStore_kp' (heq := by with_reducible assumption) (hμ := hμ.up (by decide)) (hκ := ?_) ..) | (with_reducible refine Dev.hbStore_kp (hμ := hμ.up (by decide)) (hκ := ?_) ..) | (with_reducible apply Agree.ite) | split)

theorem Dev.hbPerform_kp' {μ : Nat} {ω : Dev} {d : Dev} {die : Nat} {off : Nat} {t : Txn} {again : List (Nat × Nat)} {y0} {rd : Dev} (heq : Dev.hbPerform d die off t again = (y0, rd))  (hμ : Within 0x8000080003c0002450000000000000000000000000000000000000000000000000000000003b303c000000000000000000000000 μ) (hκ : Agree μ ω d) : Agree μ ω rd := by
  have k := Dev.hbPerform_kp (μ := μ) (ω := ω) d die off t again  (hμ := hμ) (hκ := hκ); rw [heq] at k; exact k

theorem Dev.spPerform_kp {μ : Nat} {ω : Dev} (d : Dev) (l : Nat) (off : Nat) (t : Txn)  (hμ : Within 0x3c000000000000000000000000000000000000000000000000000000000000c00000000000000000000000000000000 μ) (hκ : Agree μ ω d) : Agree μ ω (Dev.spPerform d l off t).2 := by
  unfold Dev.spPerform
  repeat' (first | with_reducible assumption | intro _ | (simp only [id_eq]) | (with_reducible refine Dev.spLoad_kp' (heq := by with_reducible assumption) (hμ := hμ.up (by decide)) (hκ := ?_) ..) | (with_reducible refine Dev.spLoad_kp (hμ := hμ.up (by decide)) (hκ := ?_) ..) | (with_reducible refine Dev.spStore_kp (hμ := hμ.up (by decide)) (hκ := ?_) ..) | (with_reducible apply Agree.ite) | split)

theorem Dev.spPerform_kp' {μ : Nat} {ω : Dev} {d : Dev} {l : Nat} {off : Nat} {t : Txn} {y0} {rd : Dev} (heq : Dev.spPerform d l off t = (y0, rd))  (hμ : Within 0x3c000000000000000000000000000000000000000000000000000000000000c00000000000000000000000000000000 μ) (hκ : Agree μ ω d) : Agree μ ω rd := by
  have k := Dev.spPerform_kp (μ := μ) (ω := ω) d l off t  (hμ := hμ) (hκ := hκ); rw [heq] at k; exact k

theorem Dev.bqPut_kp {μ : Nat} {ω : Dev} (d : Dev) (die : Nat) (t : Txn)  (hμ : Within 0x80000000000000000000000000000000000000000000000000000000000000000000000000000000000000000000000000 μ) (hκ : Agree μ ω d) : Agree μ ω (Dev.bqPut d die t) := by
  unfold Dev.bqPut
  repeat' (first | with_reducible assumption | intro _ | (simp only [id_eq]) | (simp only [Agree.set_bq (hμ.bit (by decide))]) | (with_reducible refine Dev.put_kp (hf := by first | assumption | exact hμ.bit rfl) (hμ := hμ.up (by decide)) (hκ := ?_) ..) | (with_reducible apply Agree.ite) | split)

theorem Dev.fillBuckets_kp {μ : Nat} {ω : Dev} (d : Dev) (die : Nat) (grp : Nat) (n : Nat)  (hμ : Within 0x600000000000000000000000 μ) (hκ : Agree μ ω d) : Agree μ ω (Dev.fillBuckets d die grp n) := by
  unfold Dev.fillBuckets
  repeat' (first | with_reducible assumption | intro _ | (simp only [id_eq]) | (with_reducible refine Dev.countSat_kp (hf := by first | assumption | exact hμ.bit rfl) (hμ := hμ.up (by decide)) (hκ := ?_) ..) | (with_reducible refine Dev.put_kp (hf := by first | assumption | exact hμ.bit rfl) (hμ := hμ.up (by decide)) (hκ := ?_) ..) | (with_reducible apply Agree.ite) | (with_reducible apply Agree.foldl) | (with_reducible apply Agree.foldl_fst) | (with_reducible apply Agree.foldl_snd) | split)

theorem Dev.wrqPut_kp {μ : Nat} {ω : Dev} (d : Dev) (die : Nat) (t : Txn)  (hμ : Within 0x200000000000000000000000000000000000000000000000000000000000000000000000000000000000000000000000000 μ) (hκ : Agree μ ω d) : Agree μ ω (Dev.wrqPut d die t) := by
  unfold Dev.wrqPut
  repeat' (first | with_reducible assumption | intro _ | (simp only [id_eq]) | (simp only [Agree.set_wrq (hμ.bit (by decide))]) | (with_reducible refine Dev.put_kp (hf := by first | assumption | exact hμ.bit rfl) (hμ := hμ.up (by decide)) (hκ := ?_) ..) | (with_reducible apply Agree.ite) | split)

theorem Dev.hbAdmit_kp {μ : Nat} {ω : Dev} (d : Dev) (die : Nat) (grp : Nat) (bkt : Nat) (n : Nat)  (hμ : Within 0x80000b8403c0002450000000000000000000000000000000000000000000000000000000003b303de00000000000000000000000 μ) (hκ : Agree μ ω d) : Agree μ ω (Dev.hbAdmit d die grp bkt n) := by
  unfold Dev.hbAdmit
  repeat' (first | with_reducible assumption | intro _ | (simp only [id_eq]) | (simp only [Agree.set_bq (hμ.bit (by decide))]) | (simp only [Agree.set_rdq (hμ.bit (by decide))]) | (with_reducible refine Dev.count64_kp (hlo := by first | assumption | exact hμ.bit rfl) (hhi := by first | assumption | exact hμ.bit rfl) (hμ := hμ.up (by decide)) (hκ := ?_) ..) | (with_reducible refine Dev.fillBuckets_kp (hμ := hμ.up (by decide)) (hκ := ?_) ..) | (with_reducible refine Dev.hbPerform_kp' (heq := by with_reducible assumption) (hμ := hμ.up (by decide)) (hκ := ?_) ..) | (with_reducible refine Dev.hbPerform_kp (hμ := hμ.up (by decide)) (hκ := ?_) ..) | (with_reducible refine Dev.memRec_kp (hμ := hμ.up (by decide)) (hκ := ?_) ..) | (with_reducible refine Dev.put_kp (hf := by first | assumption | exact hμ.bit rfl) (hμ := hμ.up (by decide)) (hκ := ?_) ..) | (with_reducible refine Dev.respond_kp (hμ := hμ.up (by decide)) (hκ := ?_) ..) | (with_reducible refine Dev.wrqPut_kp (hμ := hμ.up (by decide)) (hκ := ?_) ..) | (with_reducible apply Agree.ite) | split)

theorem Dev.burst_kp {μ : Nat} {ω : Dev} (d : Dev) (die : Nat) (t : Txn)  (hμ : Within 0x400000000000000000000000000000000000000000000000000000000000000000000000000060000000000000000000000 μ) (hκ : Agree μ ω d) : Agree μ ω (Dev.burst d die t) := by
  unfold Dev.burst
  repeat' (first | with_reducible assumption | intro _ | (simp only [id_eq]) | (with_reducible refine Dev.count64_kp (hlo := by first | assumption | exact hμ.bit rfl) (hhi := by first | assumption | exact hμ.bit rfl) (hμ := hμ.up (by decide)) (hκ := ?_) ..) | (with_reducible refine Dev.openRow_kp (hμ := hμ.up (by decide)) (hκ := ?_) ..) | (with_reducible apply Agree.ite) | split)

theorem Dev.hbServe_kp {μ : Nat} {ω : Dev} (d : Dev) (die : Nat) (chan : Nat) (i : Nat) (again : List (Nat × Nat))  (hμ : Within 0x80000d0403c0002450000000000000000000000000000000000000000000000000000000003b303c060000000000000000000000 μ) (hκ : Agree μ ω d) : Agree μ ω (Dev.hbServe d die chan i again) := by
  unfold Dev.hbServe
  repeat' (first | with_reducible assumption | intro _ | (simp only [id_eq]) | (simp only [Agree.set_rdq (hμ.bit (by decide))]) | (with_reducible refine Dev.burst_kp (hμ := hμ.up (by decide)) (hκ := ?_) ..) | (with_reducible refine Dev.hbPerform_kp' (heq := by with_reducible assumption) (hμ := hμ.up (by decide)) (hκ := ?_) ..) | (with_reducible refine Dev.hbPerform_kp (hμ := hμ.up (by decide)) (hκ := ?_) ..) | (with_reducible refine Dev.memRec_kp (hμ := hμ.up (by decide)) (hκ := ?_) ..) | (with_reducible refine Dev.put_kp (hf := by first | assumption | exact hμ.bit rfl) (hμ := hμ.up (by decide)) (hκ := ?_) ..) | (with_reducible refine Dev.respond_kp (hμ := hμ.up (by decide)) (hκ := ?_) ..) | (with_reducible apply Agree.ite) | split)

theorem Dev.atHome_kp {μ : Nat} {ω : Dev} (d : Dev) (t : Txn) (g : Nat)  (hμ : Within 0x8000408403c00024500000000000000000000000000000000000000000000000000000003c000000000000000000010000000000 μ) (hκ : Agree μ ω d) : Agree μ ω (Dev.atHome d t g) := by
  unfold Dev.atHome
  repeat' (first | with_reducible assumption | intro _ | (simp only [id_eq]) | (with_reducible refine Dev.bqPut_kp (hμ := hμ.up (by decide)) (hκ := ?_) ..) | (with_reducible refine Dev.memRec_kp (hμ := hμ.up (by decide)) (hκ := ?_) ..) | (with_reducible refine Dev.put_kp (hf := by first | assumption | exact hμ.bit rfl) (hμ := hμ.up (by decide)) (hκ := ?_) ..) | (with_reducible refine Dev.respond_kp (hμ := hμ.up (by decide)) (hκ := ?_) ..) | (with_reducible refine Dev.sbPerform_kp' (heq := by with_reducible assumption) (hμ := hμ.up (by decide)) (hκ := ?_) ..) | (with_reducible refine Dev.sbPerform_kp (hμ := hμ.up (by decide)) (hκ := ?_) ..) | (with_reducible apply Agree.ite) | split)

theorem Dev.setEng_kp {μ : Nat} {ω : Dev} (d : Dev) (die : Nat) (e : Nat) (g : Eng)  (hμ : Within 0x10000000000000000000000000000000000000000000000000000000000000000000000000000000000000000000000000 μ) (hκ : Agree μ ω d) : Agree μ ω (Dev.setEng d die e g) := by
  unfold Dev.setEng
  repeat' (first | with_reducible assumption | intro _ | (simp only [id_eq]) | (simp only [Agree.set_engs (hμ.bit (by decide))]) | (with_reducible refine Dev.put_kp (hf := by first | assumption | exact hμ.bit rfl) (hμ := hμ.up (by decide)) (hκ := ?_) ..) | (with_reducible apply Agree.ite) | split)

theorem Dev.modEng_kp {μ : Nat} {ω : Dev} (d : Dev) (die : Nat) (e : Nat) (f : Eng → Eng)  (hμ : Within 0x10000000000000000000000000000000000000000000000000000000000000000000000000000000000000000000000000 μ) (hκ : Agree μ ω d) : Agree μ ω (Dev.modEng d die e f) := by
  unfold Dev.modEng
  repeat' (first | with_reducible assumption | intro _ | (simp only [id_eq]) | (with_reducible refine Dev.setEng_kp (hμ := hμ.up (by decide)) (hκ := ?_) ..) | (with_reducible apply Agree.ite) | split)

theorem Dev.setUnf_kp {μ : Nat} {ω : Dev} (d : Dev) (die : Nat) (u : Nat) (q : Unf)  (hμ : Within 0x20000000000000000000000000000000000000000000000000000000000000000000000000000000000000000000000000 μ) (hκ : Agree μ ω d) : Agree μ ω (Dev.setUnf d die u q) := by
  unfold Dev.setUnf
  repeat' (first | with_reducible assumption | intro _ | (simp only [id_eq]) | (simp only [Agree.set_unfs (hμ.bit (by decide))]) | (with_reducible refine Dev.put_kp (hf := by first | assumption | exact hμ.bit rfl) (hμ := hμ.up (by decide)) (hκ := ?_) ..) | (with_reducible apply Agree.ite) | split)

theorem Dev.setTen_kp {μ : Nat} {ω : Dev} (d : Dev) (die : Nat) (e : Nat) (st : Nat)  (hμ : Within 0x20000000 μ) (hκ : Agree μ ω d) : Agree μ ω (Dev.setTen d die e st) := by
  unfold Dev.setTen
  repeat' (first | with_reducible assumption | intro _ | (simp only [id_eq]) | (with_reducible refine Dev.put_kp (hf := by first | assumption | exact hμ.bit rfl) (hμ := hμ.up (by decide)) (hκ := ?_) ..) | (with_reducible apply Agree.ite) | split)

theorem Dev.engWithdraw_kp {μ : Nat} {ω : Dev} (d : Dev) (die : Nat) (e : Nat)  (hμ : Within 0x12000000000000000000000000000000000000000000000000000000000000000000000000000000000000000000000000 μ) (hκ : Agree μ ω d) : Agree μ ω (Dev.engWithdraw d die e) := by
  unfold Dev.engWithdraw
  repeat' (first | with_reducible assumption | intro _ | (simp only [id_eq]) | (with_reducible refine Dev.sendOp_kp (hμ := hμ.up (by decide)) (hκ := ?_) ..) | (with_reducible refine Dev.setEng_kp (hμ := hμ.up (by decide)) (hκ := ?_) ..) | (with_reducible apply Agree.ite) | split)

theorem Dev.engStop_kp {μ : Nat} {ω : Dev} (d : Dev) (die : Nat) (e : Nat)  (hμ : Within 0x12000000000000000000000000000000000000000000000000000000000000000000000000000000000000000000000000 μ) (hκ : Agree μ ω d) : Agree μ ω (Dev.engStop d die e) := by
  unfold Dev.engStop
  repeat' (first | with_reducible assumption | intro _ | (simp only [id_eq]) | (with_reducible refine Dev.engWithdraw_kp (hμ := hμ.up (by decide)) (hκ := ?_) ..) | (with_reducible refine Dev.modEng_kp (hμ := hμ.up (by decide)) (hκ := ?_) ..) | (with_reducible apply Agree.ite) | split)

theorem Dev.engFail_kp {μ : Nat} {ω : Dev} (d : Dev) (die : Nat) (e : Nat) (n : Nat) (ix : Nat) (f : Fail)  (hμ : Within 0x12000000000000000000000000000000000000000000000000000000000000000000000000000000000000000000000000 μ) (hκ : Agree μ ω d) : Agree μ ω (Dev.engFail d die e n ix f) := by
  unfold Dev.engFail
  repeat' (first | with_reducible assumption | intro _ | (simp only [id_eq]) | (with_reducible refine Dev.engStop_kp (hμ := hμ.up (by decide)) (hκ := ?_) ..) | (with_reducible refine Dev.modEng_kp (hμ := hμ.up (by decide)) (hκ := ?_) ..) | (with_reducible apply Agree.ite) | split)

theorem Dev.engRecord_kp {μ : Nat} {ω : Dev} (d : Dev) (die : Nat) (e : Nat) (x : Nat × Nat × Fail) (res : Bool)  (hμ : Within 0x80000000000000245000000000000000000000000000000000000000000000000000000000000000000000000000001f20000000 μ) (hκ : Agree μ ω d) : Agree μ ω (Dev.engRecord d die e x res) := by
  unfold Dev.engRecord
  repeat' (first | with_reducible assumption | intro _ | (simp only [id_eq]) | (with_reducible refine Dev.post_kp (hμ := hμ.up (by decide)) (hκ := ?_) ..) | (with_reducible refine Dev.put_kp (hf := by first | assumption | exact hμ.bit rfl) (hμ := hμ.up (by decide)) (hκ := ?_) ..) | (with_reducible refine Dev.put64_kp (hlo := by first | assumption | exact hμ.bit rfl) (hhi := by first | assumption | exact hμ.bit rfl) (hμ := hμ.up (by decide)) (hκ := ?_) ..) | (with_reducible apply Agree.ite) | split)

theorem Dev.engLookup_kp {μ : Nat} {ω : Dev} (d : Dev) (die : Nat) (e : Nat) (side : Nat) (a : KAcc) (fresh : Bool)  (hμ : Within 0x100010000000000000000000000000000000000000000000000000000000000004000000000000000000000000000000000000 μ) (hκ : Agree μ ω d) : Agree μ ω (Dev.engLookup d die e side a fresh).2 := by
  unfold Dev.engLookup
  repeat' (first | with_reducible assumption | intro _ | (simp only [id_eq]) | (with_reducible refine Dev.krgFault_kp (hμ := hμ.up (by decide)) (hκ := ?_) ..) | (with_reducible refine Dev.lookup_kp' (heq := by with_reducible assumption) (hμ := hμ.up (by decide)) (hκ := ?_) ..) | (with_reducible refine Dev.lookup_kp (hμ := hμ.up (by decide)) (hκ := ?_) ..) | (with_reducible refine Dev.modEng_kp (hμ := hμ.up (by decide)) (hκ := ?_) ..) | (with_reducible apply Agree.ite) | split)

theorem Dev.engLookup_kp' {μ : Nat} {ω : Dev} {d : Dev} {die : Nat} {e : Nat} {side : Nat} {a : KAcc} {fresh : Bool} {y0} {rd : Dev} (heq : Dev.engLookup d die e side a fresh = (y0, rd))  (hμ : Within 0x100010000000000000000000000000000000000000000000000000000000000004000000000000000000000000000000000000 μ) (hκ : Agree μ ω d) : Agree μ ω rd := by
  have k := Dev.engLookup_kp (μ := μ) (ω := ω) d die e side a fresh  (hμ := hμ) (hκ := hκ); rw [heq] at k; exact k

theorem Dev.resolve_kp {μ : Nat} {ω : Dev} (d : Dev) (die : Nat) (e : Nat) (l : Leg) (fresh : Bool)  (hμ : Within 0x100010000000000000000000000000000000000000000000000000000000000004000000000000000000000000000000000000 μ) (hκ : Agree μ ω d) : Agree μ ω (Dev.resolve d die e l fresh).2 := by
  unfold Dev.resolve
  repeat' (first | with_reducible assumption | intro _ | (simp only [id_eq]) | (with_reducible refine Dev.engLookup_kp' (heq := by with_reducible assumption) (hμ := hμ.up (by decide)) (hκ := ?_) ..) | (with_reducible refine Dev.engLookup_kp (hμ := hμ.up (by decide)) (hκ := ?_) ..) | (with_reducible apply Agree.ite) | split)

theorem Dev.resolve_kp' {μ : Nat} {ω : Dev} {d : Dev} {die : Nat} {e : Nat} {l : Leg} {fresh : Bool} {y0} {rd : Dev} (heq : Dev.resolve d die e l fresh = (y0, rd))  (hμ : Within 0x100010000000000000000000000000000000000000000000000000000000000004000000000000000000000000000000000000 μ) (hκ : Agree μ ω d) : Agree μ ω rd := by
  have k := Dev.resolve_kp (μ := μ) (ω := ω) d die e l fresh  (hμ := hμ) (hκ := hκ); rw [heq] at k; exact k

theorem Dev.listFetch_kp {μ : Nat} {ω : Dev} (d : Dev) (die : Nat) (e : Nat)  (hμ : Within 0x1000400000000000000000000000000000000000000000000000000000000000001c000000000000000000000000000000 μ) (hκ : Agree μ ω d) : Agree μ ω (Dev.listFetch d die e) := by
  unfold Dev.listFetch
  repeat' (first | with_reducible assumption | intro _ | (simp only [id_eq]) | (with_reducible refine Dev.modEng_kp (hμ := hμ.up (by decide)) (hκ := ?_) ..) | (with_reducible refine Dev.sbLoad_kp' (heq := by with_reducible assumption) (hμ := hμ.up (by decide)) (hκ := ?_) ..) | (with_reducible refine Dev.sbLoad_kp (hμ := hμ.up (by decide)) (hκ := ?_) ..) | (with_reducible apply Agree.ite) | split)

theorem Dev.engBegin_kp {μ : Nat} {ω : Dev} (d : Dev) (die : Nat) (e : Nat) (f : Fetched)  (hμ : Within 0x10000000000000000000000000000000000000000000000000000000000000000000000000000000000000000000000000 μ) (hκ : Agree μ ω d) : Agree μ ω (Dev.engBegin d die e f) := by
  unfold Dev.engBegin
  repeat' (first | with_reducible assumption | intro _ | (simp only [id_eq]) | (with_reducible refine Dev.modEng_kp (hμ := hμ.up (by decide)) (hκ := ?_) ..) | (with_reducible apply Agree.ite) | split)

theorem Dev.engArm_kp {μ : Nat} {ω : Dev} (d : Dev) (die : Nat) (e : Nat) (f : Fetched)  (hμ : Within 0x12000000000000000000000000000000000000000000000000000000000000000000000000000000000000000020000000 μ) (hκ : Agree μ ω d) : Agree μ ω (Dev.engArm d die e f) := by
  unfold Dev.engArm
  repeat' (first | with_reducible assumption | intro _ | (simp only [id_eq]) | (with_reducible refine Dev.sendOp_kp (hμ := hμ.up (by decide)) (hκ := ?_) ..) | (with_reducible refine Dev.setEng_kp (hμ := hμ.up (by decide)) (hκ := ?_) ..) | (with_reducible refine Dev.setTen_kp (hμ := hμ.up (by decide)) (hκ := ?_) ..) | (with_reducible apply Agree.ite) | split)

theorem Dev.entFail_kp {μ : Nat} {ω : Dev} (d : Dev) (die : Nat) (e : Nat) (n : Nat) (cause : Nat)  (hμ : Within 0x12004000000000000000000000000000000000000000000000000000000000000000000000000000000000000000000000 μ) (hκ : Agree μ ω d) : Agree μ ω (Dev.entFail d die e n cause) := by
  unfold Dev.entFail
  repeat' (first | with_reducible assumption | intro _ | (simp only [id_eq]) | (with_reducible refine Dev.draw_kp' (heq := by with_reducible assumption) (hμ := hμ.up (by decide)) (hκ := ?_) ..) | (with_reducible refine Dev.draw_kp (hμ := hμ.up (by decide)) (hκ := ?_) ..) | (with_reducible refine Dev.engFail_kp (hμ := hμ.up (by decide)) (hκ := ?_) ..) | (with_reducible apply Agree.ite) | split)

theorem Dev.entBegin_kp {μ : Nat} {ω : Dev} (d : Dev) (die : Nat) (e : Nat) (op : Nat)  (hμ : Within 0x120040000000000000000000000000000000000000000000000000000000000000000000000000000000000100e0000000 μ) (hκ : Agree μ ω d) : Agree μ ω (Dev.entBegin d die e op) := by
  unfold Dev.entBegin
  repeat' (first | with_reducible assumption | intro _ | (simp only [id_eq]) | (with_reducible refine Dev.engArm_kp (hμ := hμ.up (by decide)) (hκ := ?_) ..) | (with_reducible refine Dev.engBegin_kp (hμ := hμ.up (by decide)) (hκ := ?_) ..) | (with_reducible refine Dev.engFail_kp (hμ := hμ.up (by decide)) (hκ := ?_) ..) | (with_reducible refine Dev.entFail_kp (hμ := hμ.up (by decide)) (hκ := ?_) ..) | (with_reducible refine Dev.put_kp (hf := by first | assumption | exact hμ.bit rfl) (hμ := hμ.up (by decide)) (hκ := ?_) ..) | (with_reducible refine Dev.setEng_kp (hμ := hμ.up (by decide)) (hκ := ?_) ..) | (with_reducible apply Agree.ite) | split)

theorem Dev.engWake_kp {μ : Nat} {ω : Dev} (d : Dev) (die : Nat) (e : Nat) (gen : Nat)  (hμ : Within 0x10000000000000000000000000000000000000000000000000000000000000000000000000000000000000000020000000 μ) (hκ : Agree μ ω d) : Agree μ ω (Dev.engWake d die e gen) := by
  unfold Dev.engWake
  repeat' (first | with_reducible assumption | intro _ | (simp only [id_eq]) | (with_reducible refine Dev.engBegin_kp (hμ := hμ.up (by decide)) (hκ := ?_) ..) | (with_reducible refine Dev.setEng_kp (hμ := hμ.up (by decide)) (hκ := ?_) ..) | (with_reducible refine Dev.setTen_kp (hμ := hμ.up (by decide)) (hκ := ?_) ..) | (with_reducible apply Agree.ite) | split)

theorem Dev.engTimeout_kp {μ : Nat} {ω : Dev} (d : Dev) (die : Nat) (e : Nat)  (hμ : Within 0x12004000000000000000000000000000000000000000000000000000000000000000000000000000000000000000000000 μ) (hκ : Agree μ ω d) : Agree μ ω (Dev.engTimeout d die e) := by
  unfold Dev.engTimeout
  repeat' (first | with_reducible assumption | intro _ | (simp only [id_eq]) | (with_reducible refine Dev.engWithdraw_kp (hμ := hμ.up (by decide)) (hκ := ?_) ..) | (with_reducible refine Dev.entFail_kp (hμ := hμ.up (by decide)) (hκ := ?_) ..) | (with_reducible refine Dev.modEng_kp (hμ := hμ.up (by decide)) (hκ := ?_) ..) | (with_reducible apply Agree.ite) | split)

theorem Dev.engSend_kp {μ : Nat} {ω : Dev} (d : Dev) (die : Nat) (e : Nat) (slot : Nat) (op : TOp) (t : Tgt) (red : Nat) (gran : Nat) (data : Bytes) (unf : Option (Nat × Nat))  (hμ : Within 0xc000000000000000000000000000000000000000000000000000000000000000000000000000000000000000000000000 μ) (hκ : Agree μ ω d) : Agree μ ω (Dev.engSend d die e slot op t red gran data unf) := by
  unfold Dev.engSend
  repeat' (first | with_reducible assumption | intro _ | (simp only [id_eq]) | (simp only [Agree.set_sqn (hμ.bit (by decide))]) | (with_reducible refine Dev.netPut_kp (hμ := hμ.up (by decide)) (hκ := ?_) ..) | (with_reducible apply Agree.ite) | split)

theorem Dev.resolveBoth_kp {μ : Nat} {ω : Dev} (d : Dev) (die : Nat) (e : Nat) (en : Ent) (k : Nat) (ix : Nat) (fresh : Bool)  (hμ : Within 0x100010000000000000000000000000000000000000000000000000000000000004000000000000000000000000000000000000 μ) (hκ : Agree μ ω d) : Agree μ ω (Dev.resolveBoth d die e en k ix fresh).2 := by
  unfold Dev.resolveBoth
  repeat' (first | with_reducible assumption | intro _ | (simp only [id_eq]) | (with_reducible refine Dev.resolve_kp' (heq := by with_reducible assumption) (hμ := hμ.up (by decide)) (hκ := ?_) ..) | (with_reducible refine Dev.resolve_kp (hμ := hμ.up (by decide)) (hκ := ?_) ..) | (with_reducible apply Agree.ite) | split)

theorem Dev.resolveBoth_kp' {μ : Nat} {ω : Dev} {d : Dev} {die : Nat} {e : Nat} {en : Ent} {k : Nat} {ix : Nat} {fresh : Bool} {y0} {rd : Dev} (heq : Dev.resolveBoth d die e en k ix fresh = (y0, rd))  (hμ : Within 0x100010000000000000000000000000000000000000000000000000000000000004000000000000000000000000000000000000 μ) (hκ : Agree μ ω d) : Agree μ ω rd := by
  have k := Dev.resolveBoth_kp (μ := μ) (ω := ω) d die e en k ix fresh  (hμ := hμ) (hκ := hκ); rw [heq] at k; exact k

theorem Dev.issueAt_kp {μ : Nat} {ω : Dev} (d : Dev) (die : Nat) (e : Nat) (j : Nat) (sl : Nat) (n : Nat) (en : Ent) (k : Nat) (ix : Nat) (kept : Bytes) (fresh : Bool)  (hμ : Within 0x10001e000000000000000000000000000000000000000000000000000000000004000000000000000000000000000000000000 μ) (hκ : Agree μ ω d) : Agree μ ω (Dev.issueAt d die e j sl n en k ix kept fresh) := by
  unfold Dev.issueAt
  repeat' (first | with_reducible assumption | intro _ | (simp only [id_eq]) | (with_reducible refine Dev.engSend_kp (hμ := hμ.up (by decide)) (hκ := ?_) ..) | (with_reducible refine Dev.engStop_kp (hμ := hμ.up (by decide)) (hκ := ?_) ..) | (with_reducible refine Dev.modEng_kp (hμ := hμ.up (by decide)) (hκ := ?_) ..) | (with_reducible refine Dev.put_kp (hf := by first | assumption | exact hμ.bit rfl) (hμ := hμ.up (by decide)) (hκ := ?_) ..) | (with_reducible refine Dev.resolveBoth_kp' (heq := by with_reducible assumption) (hμ := hμ.up (by decide)) (hκ := ?_) ..) | (with_reducible refine Dev.resolveBoth_kp (hμ := hμ.up (by decide)) (hκ := ?_) ..) | (with_reducible apply Agree.ite) | split)

theorem Dev.rowAsk_kp {μ : Nat} {ω : Dev} (d : Dev) (die : Nat) (e : Nat) (n : Nat) (y : Nat) (u : Nat)  (hμ : Within 0x20000000000000000000000000000000000000000000000000000000000000000000000000000000000000000000000000 μ) (hκ : Agree μ ω d) : Agree μ ω (Dev.rowAsk d die e n y u) := by
  unfold Dev.rowAsk
  repeat' (first | with_reducible assumption | intro _ | (simp only [id_eq]) | (with_reducible refine Dev.setUnf_kp (hμ := hμ.up (by decide)) (hκ := ?_) ..) | (with_reducible apply Agree.ite) | split)

theorem Dev.taddSend_kp {μ : Nat} {ω : Dev} (d : Dev) (die : Nat) (e : Nat) (port : Nat) (r : EntRun) (en : Ent)  (hμ : Within 0x100012000000000000000000000000000000000000000000000000000000000004000000000000000000000000000080000000 μ) (hκ : Agree μ ω d) : Agree μ ω (Dev.taddSend d die e port r en) := by
  unfold Dev.taddSend
  repeat' (first | with_reducible assumption | intro _ | (simp only [id_eq]) | (with_reducible refine Dev.engFail_kp (hμ := hμ.up (by decide)) (hκ := ?_) ..) | (with_reducible refine Dev.modEng_kp (hμ := hμ.up (by decide)) (hκ := ?_) ..) | (with_reducible refine Dev.put_kp (hf := by first | assumption | exact hμ.bit rfl) (hμ := hμ.up (by decide)) (hκ := ?_) ..) | (with_reducible refine Dev.resolve_kp' (heq := by with_reducible assumption) (hμ := hμ.up (by decide)) (hκ := ?_) ..) | (with_reducible refine Dev.resolve_kp (hμ := hμ.up (by decide)) (hκ := ?_) ..) | (with_reducible refine Dev.send_kp (hμ := hμ.up (by decide)) (hκ := ?_) ..) | (with_reducible refine Dev.sendOp_kp (hμ := hμ.up (by decide)) (hκ := ?_) ..) | (with_reducible apply Agree.ite) | split)

theorem Dev.txnIssue_kp {μ : Nat} {ω : Dev} (d : Dev) (die e : Nat) (hμ : Within 0x10003e000000000000000000000000000000000000000200000000000000000004000000000000000000000000000080000000 μ) (hκ : Agree μ ω d) : Agree μ ω (Dev.txnIssue d die e) := by
  unfold Dev.txnIssue
  repeat' (first | with_reducible assumption | intro _ | (simp only [id_eq]) | (with_reducible refine Dev.engFail_kp (hμ := hμ.up (by decide)) (hκ := ?_) ..) | (with_reducible refine Dev.issueAt_kp (hμ := hμ.up (by decide)) (hκ := ?_) ..) | (with_reducible refine Dev.modEng_kp (hμ := hμ.up (by decide)) (hκ := ?_) ..) | (with_reducible refine Dev.put_kp (hf := by first | assumption | exact hμ.bit rfl) (hμ := hμ.up (by decide)) (hκ := ?_) ..) | (with_reducible refine Dev.rowAsk_kp (hμ := hμ.up (by decide)) (hκ := ?_) ..) | (with_reducible refine Dev.taddSend_kp (hμ := hμ.up (by decide)) (hκ := ?_) ..) | (with_reducible apply Agree.ite) | split)
  rename_i hq
  split at hq
  · split at hq
    · contradiction
    · cases hq; exact Dev.rowAsk_kp (hμ := hμ.up (by decide)) (hκ := hκ) ..
  · contradiction

theorem Dev.pump_kp {μ : Nat} {ω : Dev} (d : Dev) (die e : Nat) (n : Nat) (hμ : Within 0x1c000000000000000000000000000000000000000000000000000000000000000000000000000000000000000000000000 μ) (hκ : Agree μ ω d) :
    Agree μ ω (Dev.pump d die e n) := by
  induction n generalizing d with
  | zero => exact hκ
  | succ n ih =>
    unfold Dev.pump
    repeat' (first | with_reducible assumption | intro _ | (simp only [id_eq]) | (with_reducible refine ih _ ?_) | (with_reducible refine Dev.engSend_kp (hμ := hμ.up (by decide)) (hκ := ?_) ..) | (with_reducible refine Dev.modEng_kp (hμ := hμ.up (by decide)) (hκ := ?_) ..) | (with_reducible apply Agree.ite) | split)

theorem Dev.slotsDone_kp {μ : Nat} {ω : Dev} (d : Dev) (die : Nat) (e : Nat) (ps : List Nat)  (hμ : Within 0x10000000000000000000000000000000000000000000000000000000000000000000000000000000000000000000000000 μ) (hκ : Agree μ ω d) : Agree μ ω (Dev.slotsDone d die e ps) := by
  unfold Dev.slotsDone
  repeat' (first | with_reducible assumption | intro _ | (simp only [id_eq]) | (with_reducible refine Dev.modEng_kp (hμ := hμ.up (by decide)) (hκ := ?_) ..) | (with_reducible apply Agree.ite) | (with_reducible apply Agree.foldl) | (with_reducible apply Agree.foldl_fst) | (with_reducible apply Agree.foldl_snd) | split)

theorem Dev.slotsFail_kp {μ : Nat} {ω : Dev} (d : Dev) (die : Nat) (e : Nat) (ps : List Nat) (f : Fail) (keep : Bool)  (hμ : Within 0x12000000000000000000000000000000000000000000000000000000000000000000000000000000000000000000000000 μ) (hκ : Agree μ ω d) : Agree μ ω (Dev.slotsFail d die e ps f keep) := by
  unfold Dev.slotsFail
  repeat' (first | with_reducible assumption | intro _ | (simp only [id_eq]) | (with_reducible refine Dev.engStop_kp (hμ := hμ.up (by decide)) (hκ := ?_) ..) | (with_reducible refine Dev.modEng_kp (hμ := hμ.up (by decide)) (hκ := ?_) ..) | (with_reducible apply Agree.ite) | split)

theorem Dev.statFail_kp {μ : Nat} {ω : Dev} (d : Dev) (die : Nat) (e : Nat) (s : WSlot) (writing : Bool) (stat : Nat)  (hμ : Within 0x4000000000000000000000000000000000000 μ) (hκ : Agree μ ω d) : Agree μ ω (Dev.statFail d die e s writing stat).2 := by
  unfold Dev.statFail
  repeat' (first | with_reducible assumption | intro _ | (simp only [id_eq]) | (with_reducible refine Dev.krgFault_kp (hμ := hμ.up (by decide)) (hκ := ?_) ..) | (with_reducible apply Agree.ite) | split)

theorem Dev.statFail_kp' {μ : Nat} {ω : Dev} {d : Dev} {die : Nat} {e : Nat} {s : WSlot} {writing : Bool} {stat : Nat} {y0} {rd : Dev} (heq : Dev.statFail d die e s writing stat = (y0, rd))  (hμ : Within 0x4000000000000000000000000000000000000 μ) (hκ : Agree μ ω d) : Agree μ ω rd := by
  have k := Dev.statFail_kp (μ := μ) (ω := ω) d die e s writing stat  (hμ := hμ) (hκ := hκ); rw [heq] at k; exact k

theorem Dev.ctxFeed_kp {μ : Nat} {ω : Dev} (d : Dev) (die : Nat) (e : Nat) (n : Nat) (u : Nat) (y : Nat) (l : Nat) (bs : Bytes)  (hμ : Within 0x20000000000000000000000000000000000000000000000000000000000000000000000000000000000000000000000000 μ) (hκ : Agree μ ω d) : Agree μ ω (Dev.ctxFeed d die e n u y l bs) := by
  unfold Dev.ctxFeed
  repeat' (first | with_reducible assumption | intro _ | (simp only [id_eq]) | (with_reducible refine Dev.put_kp (hf := by first | assumption | exact hμ.bit rfl) (hμ := hμ.up (by decide)) (hκ := ?_) ..) | (with_reducible refine Dev.setUnf_kp (hμ := hμ.up (by decide)) (hκ := ?_) ..) | (with_reducible apply Agree.ite) | split)

theorem Dev.slotOk_kp {μ : Nat} {ω : Dev} (d : Dev) (die : Nat) (e : Nat) (p : Nat) (s : WSlot) (data : Bytes)  (hμ : Within 0x30000000000000000000000000000000000000000000000000000000000000000000000000000000000000000000000000 μ) (hκ : Agree μ ω d) : Agree μ ω (Dev.slotOk d die e p s data) := by
  unfold Dev.slotOk
  repeat' (first | with_reducible assumption | intro _ | (simp only [id_eq]) | (with_reducible refine Dev.ctxFeed_kp (hμ := hμ.up (by decide)) (hκ := ?_) ..) | (with_reducible refine Dev.modEng_kp (hμ := hμ.up (by decide)) (hκ := ?_) ..) | (with_reducible refine Dev.put_kp (hf := by first | assumption | exact hμ.bit rfl) (hμ := hμ.up (by decide)) (hκ := ?_) ..) | (with_reducible refine Dev.slotsDone_kp (hμ := hμ.up (by decide)) (hκ := ?_) ..) | (with_reducible apply Agree.ite) | split)

theorem Dev.slotBad_kp {μ : Nat} {ω : Dev} (d : Dev) (die : Nat) (e : Nat) (p : Nat) (s : WSlot) (stat : Nat)  (hμ : Within 0x12000000000000000000000000000000000000000000000000000000000004000000000000000000000000000000000000 μ) (hκ : Agree μ ω d) : Agree μ ω (Dev.slotBad d die e p s stat) := by
  unfold Dev.slotBad
  repeat' (first | with_reducible assumption | intro _ | (simp only [id_eq]) | (with_reducible refine Dev.slotsFail_kp (hμ := hμ.up (by decide)) (hκ := ?_) ..) | (with_reducible refine Dev.statFail_kp' (heq := by with_reducible assumption) (hμ := hμ.up (by decide)) (hκ := ?_) ..) | (with_reducible refine Dev.statFail_kp (hμ := hμ.up (by decide)) (hκ := ?_) ..) | (with_reducible apply Agree.ite) | split)

theorem Dev.engResponse_kp {μ : Nat} {ω : Dev} (d : Dev) (die : Nat) (e : Nat) (slot : Nat) (stat : Nat) (data : Bytes)  (hμ : Within 0x3e000000000000000000000000000000000000000000000000000001000004000000000000000000000000000000000000 μ) (hκ : Agree μ ω d) : Agree μ ω (Dev.engResponse d die e slot stat data) := by
  unfold Dev.engResponse
  repeat' (first | with_reducible assumption | intro _ | (simp only [id_eq]) | (with_reducible refine Dev.countSat_kp (hf := by first | assumption | exact hμ.bit rfl) (hμ := hμ.up (by decide)) (hκ := ?_) ..) | (with_reducible refine Dev.pump_kp (hμ := hμ.up (by decide)) (hκ := ?_) ..) | (with_reducible refine Dev.slotBad_kp (hμ := hμ.up (by decide)) (hκ := ?_) ..) | (with_reducible refine Dev.slotOk_kp (hμ := hμ.up (by decide)) (hκ := ?_) ..) | (with_reducible apply Agree.ite) | split)

theorem Dev.freeRows_kp {μ : Nat} {ω : Dev} (d : Dev) (die : Nat) (e : Nat)  (hμ : Within 0x20000000000000000000000000000000000000000000000000000000000000000000000000000000000000100000000000 μ) (hκ : Agree μ ω d) : Agree μ ω (Dev.freeRows d die e) := by
  unfold Dev.freeRows
  repeat' (first | with_reducible assumption | intro _ | (simp only [id_eq]) | (with_reducible refine Dev.put_kp (hf := by first | assumption | exact hμ.bit rfl) (hμ := hμ.up (by decide)) (hκ := ?_) ..) | (with_reducible refine Dev.setUnf_kp (hμ := hμ.up (by decide)) (hκ := ?_) ..) | (with_reducible apply Agree.ite) | (with_reducible apply Agree.foldl) | (with_reducible apply Agree.foldl_fst) | (with_reducible apply Agree.foldl_snd) | split)

theorem Dev.engSettle_kp {μ : Nat} {ω : Dev} (d : Dev) (die : Nat) (e : Nat)  (hμ : Within 0x80000030000000245000000000000000000000000000000000000000000000000000000000000000000000000000101f20000000 μ) (hκ : Agree μ ω d) : Agree μ ω (Dev.engSettle d die e) := by
  unfold Dev.engSettle
  repeat' (first | with_reducible assumption | intro _ | (simp only [id_eq]) | (with_reducible refine Dev.engRecord_kp (hμ := hμ.up (by decide)) (hκ := ?_) ..) | (with_reducible refine Dev.freeRows_kp (hμ := hμ.up (by decide)) (hκ := ?_) ..) | (with_reducible refine Dev.modEng_kp (hμ := hμ.up (by decide)) (hκ := ?_) ..) | (with_reducible refine Dev.setTen_kp (hμ := hμ.up (by decide)) (hκ := ?_) ..) | (with_reducible apply Agree.ite) | split)

theorem Dev.engAdd_kp {μ : Nat} {ω : Dev} (d : Dev) (die : Nat) (e : Nat)  (hμ : Within 0x12000000000000000000000000000000000000000000000000000000000000000000000000000000000000000000000000 μ) (hκ : Agree μ ω d) : Agree μ ω (Dev.engAdd d die e) := by
  unfold Dev.engAdd
  repeat' (first | with_reducible assumption | intro _ | (simp only [id_eq]) | (with_reducible refine Dev.modEng_kp (hμ := hμ.up (by decide)) (hκ := ?_) ..) | (with_reducible refine Dev.sendOp_kp (hμ := hμ.up (by decide)) (hκ := ?_) ..) | (with_reducible apply Agree.ite) | split)

theorem Dev.engAck_kp {μ : Nat} {ω : Dev} (d : Dev) (die : Nat) (e : Nat) (home : Nat) (idx : Nat)  (hμ : Within 0x10000000000000000000000000000000000000000000000000000000000000000000000000000000000000000000000000 μ) (hκ : Agree μ ω d) : Agree μ ω (Dev.engAck d die e home idx) := by
  unfold Dev.engAck
  repeat' (first | with_reducible assumption | intro _ | (simp only [id_eq]) | (with_reducible refine Dev.modEng_kp (hμ := hμ.up (by decide)) (hκ := ?_) ..) | (with_reducible apply Agree.ite) | split)

theorem Dev.engDone_kp {μ : Nat} {ω : Dev} (d : Dev) (die : Nat) (e : Nat)  (hμ : Within 0x10000000000000000000000000000000000000000000000000000000000000000000000000000000000000000020000000 μ) (hκ : Agree μ ω d) : Agree μ ω (Dev.engDone d die e) := by
  unfold Dev.engDone
  repeat' (first | with_reducible assumption | intro _ | (simp only [id_eq]) | (with_reducible refine Dev.modEng_kp (hμ := hμ.up (by decide)) (hκ := ?_) ..) | (with_reducible refine Dev.setTen_kp (hμ := hμ.up (by decide)) (hκ := ?_) ..) | (with_reducible apply Agree.ite) | split)

theorem Dev.engAbort_kp {μ : Nat} {ω : Dev} (d : Dev) (die : Nat) (e : Nat)  (hμ : Within 0x12000000000000000000000000000000000000000000000000000000000000000000000000000000000000000020000000 μ) (hκ : Agree μ ω d) : Agree μ ω (Dev.engAbort d die e) := by
  unfold Dev.engAbort
  repeat' (first | with_reducible assumption | intro _ | (simp only [id_eq]) | (with_reducible refine Dev.engWithdraw_kp (hμ := hμ.up (by decide)) (hκ := ?_) ..) | (with_reducible refine Dev.modEng_kp (hμ := hμ.up (by decide)) (hκ := ?_) ..) | (with_reducible refine Dev.setTen_kp (hμ := hμ.up (by decide)) (hκ := ?_) ..) | (with_reducible apply Agree.ite) | split)

theorem Dev.engDrained_kp {μ : Nat} {ω : Dev} (d : Dev) (die : Nat) (e : Nat)  (hμ : Within 0x80000030000000245000000000000000000000000000000000000000000000000000000000000000000000000000101f20000000 μ) (hκ : Agree μ ω d) : Agree μ ω (Dev.engDrained d die e) := by
  unfold Dev.engDrained
  repeat' (first | with_reducible assumption | intro _ | (simp only [id_eq]) | (with_reducible refine Dev.engRecord_kp (hμ := hμ.up (by decide)) (hκ := ?_) ..) | (with_reducible refine Dev.freeRows_kp (hμ := hμ.up (by decide)) (hκ := ?_) ..) | (with_reducible refine Dev.modEng_kp (hμ := hμ.up (by decide)) (hκ := ?_) ..) | (with_reducible refine Dev.setTen_kp (hμ := hμ.up (by decide)) (hκ := ?_) ..) | (with_reducible apply Agree.ite) | split)

theorem Dev.engStart_kp {μ : Nat} {ω : Dev} (d : Dev) (die e : Nat) (hμ : Within 0x10000000000000000000000000000000000000000000000000000000000000000000000000000000000000001fe0000000 μ) (hκ : Agree μ ω d) : Agree μ ω (d.engStart die e) := by
  skip
  unfold Dev.engStart
  simp only [List.foldl]
  repeat' (first | with_reducible assumption | intro _ | (simp only [id_eq]) | (simp only [Agree.del_iff (r := .TEN_ENTRY) (hμ.bit (by decide)), Agree.del_iff (r := .TEN_PROG) (hμ.bit (by decide)), Agree.del_iff (r := .TEN_FIDX) (hμ.bit (by decide)), Agree.del_iff (r := .TEN_FADDR_LO) (hμ.bit (by decide)), Agree.del_iff (r := .TEN_FADDR_HI) (hμ.bit (by decide)), Agree.del_iff (r := .TEN_FINFO) (hμ.bit (by decide)), Agree.del_iff (r := .TEN_FTICK) (hμ.bit (by decide))]) | (with_reducible refine Dev.setKey_kp _ _ _ _ _ _ (by first | assumption | exact hμ.bit (by decide) | exact hall _) ?_) | (with_reducible refine Dev.setRaw_kp _ _ _ (by assumption) ?_) | (with_reducible refine Dev.modEng_kp (hμ := hμ.up (by decide)) (hκ := ?_) ..) | (with_reducible refine Dev.put_kp (hf := by first | assumption | exact hμ.bit rfl) (hμ := hμ.up (by decide)) (hκ := ?_) ..) | (with_reducible refine Dev.setTen_kp (hμ := hμ.up (by decide)) (hκ := ?_) ..) | (with_reducible apply Agree.ite) | (with_reducible apply Agree.foldl) | (with_reducible apply Agree.foldl_fst) | (with_reducible apply Agree.foldl_snd) | split)

theorem Dev.engResume_kp {μ : Nat} {ω : Dev} (d : Dev) (die : Nat) (e : Nat)  (hμ : Within 0x12000000000000000000000000000000000000000000000000000000000000000000000000000000000000000020000000 μ) (hκ : Agree μ ω d) : Agree μ ω (Dev.engResume d die e) := by
  unfold Dev.engResume
  repeat' (first | with_reducible assumption | intro _ | (simp only [id_eq]) | (with_reducible refine Dev.engArm_kp (hμ := hμ.up (by decide)) (hκ := ?_) ..) | (with_reducible refine Dev.modEng_kp (hμ := hμ.up (by decide)) (hκ := ?_) ..) | (with_reducible refine Dev.setTen_kp (hμ := hμ.up (by decide)) (hκ := ?_) ..) | (with_reducible apply Agree.ite) | split)

theorem Dev.engReset_kp {μ : Nat} {ω : Dev} (d : Dev) (die e : Nat) (hμ : Within 0x32000000000000000000000000000000000000000000000000000000000000000000000000000000000000101fe0000000 μ) (hκ : Agree μ ω d) : Agree μ ω (d.engReset die e) := by
  skip
  unfold Dev.engReset
  simp only [List.foldl]
  repeat' (first | with_reducible assumption | intro _ | (simp only [id_eq]) | (simp only [Agree.del_iff (r := .TEN_STAT) (hμ.bit (by decide)), Agree.del_iff (r := .TEN_ENTRY) (hμ.bit (by decide)), Agree.del_iff (r := .TEN_PROG) (hμ.bit (by decide)), Agree.del_iff (r := .TEN_FIDX) (hμ.bit (by decide)), Agree.del_iff (r := .TEN_FADDR_LO) (hμ.bit (by decide)), Agree.del_iff (r := .TEN_FADDR_HI) (hμ.bit (by decide)), Agree.del_iff (r := .TEN_FINFO) (hμ.bit (by decide)), Agree.del_iff (r := .TEN_FTICK) (hμ.bit (by decide))]) | (with_reducible refine Dev.engWithdraw_kp (hμ := hμ.up (by decide)) (hκ := ?_) ..) | (with_reducible refine Dev.freeRows_kp (hμ := hμ.up (by decide)) (hκ := ?_) ..) | (with_reducible refine Dev.setEng_kp (hμ := hμ.up (by decide)) (hκ := ?_) ..) | (with_reducible refine Dev.setTen_kp (hμ := hμ.up (by decide)) (hκ := ?_) ..) | (with_reducible apply Agree.ite) | (with_reducible apply Agree.foldl) | (with_reducible apply Agree.foldl_fst) | (with_reducible apply Agree.foldl_snd) | split)

theorem Dev.setCtx_kp {μ : Nat} {ω : Dev} (d : Dev) (die : Nat) (u : Nat) (x : Nat) (c : UCtx)  (hμ : Within 0x20000000000000000000000000000000000000000000000000000000000000000000000000000000000000000000000000 μ) (hκ : Agree μ ω d) : Agree μ ω (Dev.setCtx d die u x c) := by
  unfold Dev.setCtx
  repeat' (first | with_reducible assumption | intro _ | (simp only [id_eq]) | (with_reducible refine Dev.put_kp (hf := by first | assumption | exact hμ.bit rfl) (hμ := hμ.up (by decide)) (hκ := ?_) ..) | (with_reducible refine Dev.setUnf_kp (hμ := hμ.up (by decide)) (hκ := ?_) ..) | (with_reducible apply Agree.ite) | split)

theorem Dev.unfGrant_kp {μ : Nat} {ω : Dev} (d : Dev) (die : Nat) (u : Nat)  (hμ : Within 0x20004000000000000000000000000000000000000000000000000000000000000000000000000000000000100000000000 μ) (hκ : Agree μ ω d) : Agree μ ω (Dev.unfGrant d die u) := by
  unfold Dev.unfGrant
  repeat' (first | with_reducible assumption | intro _ | (simp only [id_eq]) | (with_reducible refine Dev.draw_kp' (heq := by with_reducible assumption) (hμ := hμ.up (by decide)) (hκ := ?_) ..) | (with_reducible refine Dev.draw_kp (hμ := hμ.up (by decide)) (hκ := ?_) ..) | (with_reducible refine Dev.put_kp (hf := by first | assumption | exact hμ.bit rfl) (hμ := hμ.up (by decide)) (hκ := ?_) ..) | (with_reducible refine Dev.setUnf_kp (hμ := hμ.up (by decide)) (hκ := ?_) ..) | (with_reducible apply Agree.ite) | split)

theorem Dev.unfFail_kp {μ : Nat} {ω : Dev} (d : Dev) (die : Nat) (u : Nat) (x : Nat) (c : UCtx) (line : Nat) (code : Nat) (grp : Option (Nat × Nat)) (zero : Bool)  (hμ : Within 0x32004000000000000000000000000000000000000000000000000000000000000000000000000000000000f00000000000 μ) (hκ : Agree μ ω d) : Agree μ ω (Dev.unfFail d die u x c line code grp zero) := by
  unfold Dev.unfFail
  repeat' (first | with_reducible assumption | intro _ | (simp only [id_eq]) | (with_reducible refine Dev.draw_kp' (heq := by with_reducible assumption) (hμ := hμ.up (by decide)) (hκ := ?_) ..) | (with_reducible refine Dev.draw_kp (hμ := hμ.up (by decide)) (hκ := ?_) ..) | (with_reducible refine Dev.engFail_kp (hμ := hμ.up (by decide)) (hκ := ?_) ..) | (with_reducible refine Dev.put_kp (hf := by first | assumption | exact hμ.bit rfl) (hμ := hμ.up (by decide)) (hκ := ?_) ..) | (with_reducible refine Dev.put64_kp (hlo := by first | assumption | exact hμ.bit rfl) (hhi := by first | assumption | exact hμ.bit rfl) (hμ := hμ.up (by decide)) (hκ := ?_) ..) | (with_reducible refine Dev.setCtx_kp (hμ := hμ.up (by decide)) (hκ := ?_) ..) | (with_reducible apply Agree.ite) | split)

theorem Dev.lineParsed_kp {μ : Nat} {ω : Dev} (d : Dev) (die : Nat) (e : Nat) (n : Nat) (ix : Nat)  (hμ : Within 0x10000000000000000000000000000000000000000000000000000000000000000000000000000000000000000000000000 μ) (hκ : Agree μ ω d) : Agree μ ω (Dev.lineParsed d die e n ix) := by
  unfold Dev.lineParsed
  repeat' (first | with_reducible assumption | intro _ | (simp only [id_eq]) | (with_reducible refine Dev.slotsDone_kp (hμ := hμ.up (by decide)) (hκ := ?_) ..) | (with_reducible apply Agree.ite) | split)

theorem Dev.unfParse_kp {μ : Nat} {ω : Dev} (d : Dev) (die : Nat) (u : Nat) (x : Nat)  (hμ : Within 0x32004000000000000000000000000000000000000000000000000000000000000000000000000000000000f00000000000 μ) (hκ : Agree μ ω d) : Agree μ ω (Dev.unfParse d die u x) := by
  unfold Dev.unfParse
  repeat' (first | with_reducible assumption | intro _ | (simp only [id_eq]) | (with_reducible refine Dev.lineParsed_kp (hμ := hμ.up (by decide)) (hκ := ?_) ..) | (with_reducible refine Dev.setCtx_kp (hμ := hμ.up (by decide)) (hκ := ?_) ..) | (with_reducible refine Dev.unfFail_kp (hμ := hμ.up (by decide)) (hκ := ?_) ..) | (with_reducible apply Agree.ite) | split)

theorem Dev.ctxPump_kp {μ : Nat} {ω : Dev} (d : Dev) (die u x : Nat) (n : Nat) (hμ : Within 0x10003e004000000000000000000000000000000000000000000000000000000004000000000000000000000000000000000000 μ) (hκ : Agree μ ω d) :
    Agree μ ω (Dev.ctxPump d die u x n) := by
  induction n generalizing d with
  | zero => exact hκ
  | succ n ih =>
    unfold Dev.ctxPump
    repeat' (first | with_reducible assumption | intro _ | (simp only [id_eq]) | (with_reducible refine ih _ ?_) | (with_reducible refine Dev.draw_kp' (heq := by with_reducible assumption) (hμ := hμ.up (by decide)) (hκ := ?_) ..) | (with_reducible refine Dev.draw_kp (hμ := hμ.up (by decide)) (hκ := ?_) ..) | (with_reducible refine Dev.engFail_kp (hμ := hμ.up (by decide)) (hκ := ?_) ..) | (with_reducible refine Dev.engSend_kp (hμ := hμ.up (by decide)) (hκ := ?_) ..) | (with_reducible refine Dev.resolve_kp' (heq := by with_reducible assumption) (hμ := hμ.up (by decide)) (hκ := ?_) ..) | (with_reducible refine Dev.resolve_kp (hμ := hμ.up (by decide)) (hκ := ?_) ..) | (with_reducible refine Dev.setCtx_kp (hμ := hμ.up (by decide)) (hκ := ?_) ..) | (with_reducible apply Agree.ite) | split)

theorem Dev.rowsPump_kp {μ : Nat} {ω : Dev} (d : Dev) (die : Nat) (e : Nat)  (hμ : Within 0x10003e004000000000000000000000000000000000000000000000000000000004000000000000000000000000000000000000 μ) (hκ : Agree μ ω d) : Agree μ ω (Dev.rowsPump d die e) := by
  unfold Dev.rowsPump
  repeat' (first | with_reducible assumption | intro _ | (simp only [id_eq]) | (with_reducible refine Dev.ctxPump_kp (hμ := hμ.up (by decide)) (hκ := ?_) ..) | (with_reducible apply Agree.ite) | (with_reducible apply Agree.foldl) | (with_reducible apply Agree.foldl_fst) | (with_reducible apply Agree.foldl_snd) | split)

theorem Dev.engFollow_kp {μ : Nat} {ω : Dev} (d : Dev) (die : Nat) (e : Nat)  (hμ : Within 0x8010003e004000245000000000000000000000000000000000000000000000000004000000000000000000000000101f20000000 μ) (hκ : Agree μ ω d) : Agree μ ω (Dev.engFollow d die e) := by
  unfold Dev.engFollow
  repeat' (first | with_reducible assumption | intro _ | (simp only [id_eq]) | (with_reducible refine Dev.engSettle_kp (hμ := hμ.up (by decide)) (hκ := ?_) ..) | (with_reducible refine Dev.pump_kp (hμ := hμ.up (by decide)) (hκ := ?_) ..) | (with_reducible refine Dev.rowsPump_kp (hμ := hμ.up (by decide)) (hκ := ?_) ..) | (with_reducible apply Agree.ite) | split)

theorem Dev.unfWalk_kp {μ : Nat} {ω : Dev} (d : Dev) (die : Nat) (u : Nat)  (hμ : Within 0x10003e004000000000000000000000000000000000000000000000000000000004000000000000000000000003000000000000 μ) (hκ : Agree μ ω d) : Agree μ ω (Dev.unfWalk d die u) := by
  unfold Dev.unfWalk
  repeat' (first | with_reducible assumption | intro _ | (simp only [id_eq]) | (with_reducible refine Dev.count_kp (hf := by first | assumption | exact hμ.bit rfl) (hμ := hμ.up (by decide)) (hκ := ?_) ..) | (with_reducible refine Dev.draw_kp' (heq := by with_reducible assumption) (hμ := hμ.up (by decide)) (hκ := ?_) ..) | (with_reducible refine Dev.draw_kp (hμ := hμ.up (by decide)) (hκ := ?_) ..) | (with_reducible refine Dev.rowsPump_kp (hμ := hμ.up (by decide)) (hκ := ?_) ..) | (with_reducible refine Dev.setCtx_kp (hμ := hμ.up (by decide)) (hκ := ?_) ..) | (with_reducible refine Dev.setUnf_kp (hμ := hμ.up (by decide)) (hκ := ?_) ..) | (with_reducible apply Agree.ite) | split)

theorem Dev.unfResponse_kp {μ : Nat} {ω : Dev} (d : Dev) (die : Nat) (e : Nat) (u : Nat) (x : Nat) (at_ : Nat) (stat : Nat)  (hμ : Within 0x32004000000000000000000000000000000000000000000000000001000004000000000000000000000000000000000000 μ) (hκ : Agree μ ω d) : Agree μ ω (Dev.unfResponse d die e u x at_ stat) := by
  unfold Dev.unfResponse
  repeat' (first | with_reducible assumption | intro _ | (simp only [id_eq]) | (with_reducible refine Dev.countSat_kp (hf := by first | assumption | exact hμ.bit rfl) (hμ := hμ.up (by decide)) (hκ := ?_) ..) | (with_reducible refine Dev.draw_kp' (heq := by with_reducible assumption) (hμ := hμ.up (by decide)) (hκ := ?_) ..) | (with_reducible refine Dev.draw_kp (hμ := hμ.up (by decide)) (hκ := ?_) ..) | (with_reducible refine Dev.engFail_kp (hμ := hμ.up (by decide)) (hκ := ?_) ..) | (with_reducible refine Dev.krgFault_kp (hμ := hμ.up (by decide)) (hκ := ?_) ..) | (with_reducible refine Dev.setCtx_kp (hμ := hμ.up (by decide)) (hκ := ?_) ..) | (with_reducible apply Agree.ite) | split)

theorem Dev.rowsRetry_kp {μ : Nat} {ω : Dev} (d : Dev) (die : Nat) (e : Nat)  (hμ : Within 0x20000000000000000000000000000000000000000000000000000000000000000000000000000000000000000000000000 μ) (hκ : Agree μ ω d) : Agree μ ω (Dev.rowsRetry d die e) := by
  unfold Dev.rowsRetry
  repeat' (first | with_reducible assumption | intro _ | (simp only [id_eq]) | (with_reducible refine Dev.setUnf_kp (hμ := hμ.up (by decide)) (hκ := ?_) ..) | (with_reducible apply Agree.ite) | (with_reducible apply Agree.foldl) | (with_reducible apply Agree.foldl_fst) | (with_reducible apply Agree.foldl_snd) | split)

theorem Dev.unfRowDone_kp {μ : Nat} {ω : Dev} (d : Dev) (die : Nat) (u : Nat) (x : Nat)  (hμ : Within 0x30000000000000000000000000000000000000000000000000000000000000000000000000000000000000100000000000 μ) (hκ : Agree μ ω d) : Agree μ ω (Dev.unfRowDone d die u x) := by
  unfold Dev.unfRowDone
  repeat' (first | with_reducible assumption | intro _ | (simp only [id_eq]) | (simp only [Agree.set_rows (hμ.bit (by decide))]) | (with_reducible refine Dev.modEng_kp (hμ := hμ.up (by decide)) (hκ := ?_) ..) | (with_reducible refine Dev.put_kp (hf := by first | assumption | exact hμ.bit rfl) (hμ := hμ.up (by decide)) (hκ := ?_) ..) | (with_reducible refine Dev.setUnf_kp (hμ := hμ.up (by decide)) (hκ := ?_) ..) | (with_reducible apply Agree.ite) | split)

theorem Dev.engResumeAll_kp {μ : Nat} {ω : Dev} (d : Dev) (die : Nat) (e : Nat)  (hμ : Within 0x8010003e004000245000000000000000000000000000000000000000000000000004000000000000000000000000101f20000000 μ) (hκ : Agree μ ω d) : Agree μ ω (Dev.engResumeAll d die e) := by
  unfold Dev.engResumeAll
  repeat' (first | with_reducible assumption | intro _ | (simp only [id_eq]) | (with_reducible refine Dev.engFollow_kp (hμ := hμ.up (by decide)) (hκ := ?_) ..) | (with_reducible refine Dev.engResume_kp (hμ := hμ.up (by decide)) (hκ := ?_) ..) | (with_reducible refine Dev.rowsRetry_kp (hμ := hμ.up (by decide)) (hκ := ?_) ..) | (with_reducible apply Agree.ite) | split)

theorem Dev.tenCtlWrite_kp {μ : Nat} {ω : Dev} (d : Dev) (die : Nat) (e : Nat) (v : Nat)  (hμ : Within 0x8010003e004000245000000000000000000000000000000000000000000000000004000000000000000000000000101fe2000000 μ) (hκ : Agree μ ω d) : Agree μ ω (Dev.tenCtlWrite d die e v) := by
  unfold Dev.tenCtlWrite
  repeat' (first | with_reducible assumption | intro _ | (simp only [id_eq]) | (with_reducible refine Dev.engAbort_kp (hμ := hμ.up (by decide)) (hκ := ?_) ..) | (with_reducible refine Dev.engResumeAll_kp (hμ := hμ.up (by decide)) (hκ := ?_) ..) | (with_reducible refine Dev.engStart_kp (hμ := hμ.up (by decide)) (hκ := ?_) ..) | (with_reducible refine Dev.put_kp (hf := by first | assumption | exact hμ.bit rfl) (hμ := hμ.up (by decide)) (hκ := ?_) ..) | (with_reducible refine Dev.setTen_kp (hμ := hμ.up (by decide)) (hκ := ?_) ..) | (with_reducible apply Agree.ite) | split)

theorem Dev.unfCtlWrite_kp {μ : Nat} {ω : Dev} (d : Dev) (die : Nat) (u : Nat) (v : Nat)  (hμ : Within 0x80000000000 μ) (hκ : Agree μ ω d) : Agree μ ω (Dev.unfCtlWrite d die u v) := by
  unfold Dev.unfCtlWrite
  repeat' (first | with_reducible assumption | intro _ | (simp only [id_eq]) | (with_reducible refine Dev.writeKey_kp _ _ _ _ _ _ _ (by first | assumption | exact hμ.bit (by decide) | exact hall _) ?_) | (with_reducible apply Agree.ite) | split)

theorem Dev.unfReset_kp {μ : Nat} {ω : Dev} (d : Dev) (die u : Nat) (hμ : Within 0x20000000000000000000000000000000000000000000000000000000000000000000000000000000000003f00000000000 μ) (hκ : Agree μ ω d) : Agree μ ω (d.unfReset die u) := by
  refine (Agree.set_unfs (hμ.bit (by decide)) _).mpr ?_
  simp only [List.foldl]
  simp only [Agree.del_iff (r := .UNF_STAT) (hμ.bit (by decide)), Agree.del_iff (r := .UNF_FSEG_LO) (hμ.bit (by decide)), Agree.del_iff (r := .UNF_FSEG_HI) (hμ.bit (by decide)), Agree.del_iff (r := .UNF_FINFO) (hμ.bit (by decide)), Agree.del_iff (r := .UNF_GCNT) (hμ.bit (by decide)), Agree.del_iff (r := .UNF_BUSYC) (hμ.bit (by decide))]
  exact hκ

theorem Dev.modDsp_kp {μ : Nat} {ω : Dev} (d : Dev) (die : Nat) (f : Dsp → Dsp)  (hμ : Within 0x40000000000000000000000000000000000000000000000000000000000000000000000000000000000000000000000000 μ) (hκ : Agree μ ω d) : Agree μ ω (Dev.modDsp d die f) := by
  unfold Dev.modDsp
  repeat' (first | with_reducible assumption | intro _ | (simp only [id_eq]) | (simp only [Agree.set_dsps (hμ.bit (by decide))]) | (with_reducible refine Dev.put_kp (hf := by first | assumption | exact hμ.bit rfl) (hμ := hμ.up (by decide)) (hκ := ?_) ..) | (with_reducible apply Agree.ite) | split)

theorem Dev.setDsp_kp {μ : Nat} {ω : Dev} (d : Dev) (die : Nat) (st : Nat)  (hμ : Within 0x200000000000000 μ) (hκ : Agree μ ω d) : Agree μ ω (Dev.setDsp d die st) := by
  unfold Dev.setDsp
  repeat' (first | with_reducible assumption | intro _ | (simp only [id_eq]) | (with_reducible refine Dev.put_kp (hf := by first | assumption | exact hμ.bit rfl) (hμ := hμ.up (by decide)) (hκ := ?_) ..) | (with_reducible apply Agree.ite) | split)

theorem Dev.dspWithdraw_kp {μ : Nat} {ω : Dev} (d : Dev) (die : Nat)  (hμ : Within 0x42000000000000000000000000000000000000000000000000000000000000000000000000000000000000000000000000 μ) (hκ : Agree μ ω d) : Agree μ ω (Dev.dspWithdraw d die) := by
  unfold Dev.dspWithdraw
  repeat' (first | with_reducible assumption | intro _ | (simp only [id_eq]) | (with_reducible refine Dev.modDsp_kp (hμ := hμ.up (by decide)) (hκ := ?_) ..) | (with_reducible refine Dev.sendOp_kp (hμ := hμ.up (by decide)) (hκ := ?_) ..) | (with_reducible apply Agree.ite) | split)

theorem Dev.dspFail_kp {μ : Nat} {ω : Dev} (d : Dev) (die : Nat) (cause : Nat) (info : Nat)  (hμ : Within 0x42000000000000000000000000000000000000000000000000000000000000000000000000000000000000000000000000 μ) (hκ : Agree μ ω d) : Agree μ ω (Dev.dspFail d die cause info) := by
  unfold Dev.dspFail
  repeat' (first | with_reducible assumption | intro _ | (simp only [id_eq]) | (with_reducible refine Dev.dspWithdraw_kp (hμ := hμ.up (by decide)) (hκ := ?_) ..) | (with_reducible refine Dev.modDsp_kp (hμ := hμ.up (by decide)) (hκ := ?_) ..) | (with_reducible apply Agree.ite) | split)

theorem Dev.dspRecord_kp {μ : Nat} {ω : Dev} (d : Dev) (die : Nat) (x : Nat × Nat)  (hμ : Within 0x80000000000000245000000000000000000000000000000000000000000000000000000000000000000000001a00010000000000 μ) (hκ : Agree μ ω d) : Agree μ ω (Dev.dspRecord d die x) := by
  unfold Dev.dspRecord
  repeat' (first | with_reducible assumption | intro _ | (simp only [id_eq]) | (with_reducible refine Dev.post_kp (hμ := hμ.up (by decide)) (hκ := ?_) ..) | (with_reducible refine Dev.put_kp (hf := by first | assumption | exact hμ.bit rfl) (hμ := hμ.up (by decide)) (hκ := ?_) ..) | (with_reducible apply Agree.ite) | split)

theorem Dev.dspSettle_kp {μ : Nat} {ω : Dev} (d : Dev) (die : Nat)  (hμ : Within 0x80000040000000245000000000000000000000000000000000000000000000000000000000000000000000001a00010000000000 μ) (hκ : Agree μ ω d) : Agree μ ω (Dev.dspSettle d die) := by
  unfold Dev.dspSettle
  repeat' (first | with_reducible assumption | intro _ | (simp only [id_eq]) | (with_reducible refine Dev.dspRecord_kp (hμ := hμ.up (by decide)) (hκ := ?_) ..) | (with_reducible refine Dev.modDsp_kp (hμ := hμ.up (by decide)) (hκ := ?_) ..) | (with_reducible refine Dev.setDsp_kp (hμ := hμ.up (by decide)) (hκ := ?_) ..) | (with_reducible apply Agree.ite) | split)

theorem Dev.dspDeny_kp {μ : Nat} {ω : Dev} (d : Dev) (die : Nat) (space : Nat) (off : Nat)  (hμ : Within 0x80000000000000245000000000000000000000000000000000000000000040800000000000000000000000000000000000000000 μ) (hκ : Agree μ ω d) : Agree μ ω (Dev.dspDeny d die space off).2 := by
  unfold Dev.dspDeny
  repeat' (first | with_reducible assumption | intro _ | (simp only [id_eq]) | (with_reducible refine Dev.countSat_kp (hf := by first | assumption | exact hμ.bit rfl) (hμ := hμ.up (by decide)) (hκ := ?_) ..) | (with_reducible refine Dev.memRec_kp (hμ := hμ.up (by decide)) (hκ := ?_) ..) | (with_reducible refine Dev.pdrop_kp (hμ := hμ.up (by decide)) (hκ := ?_) ..) | (with_reducible apply Agree.ite) | split)

theorem Dev.dspDeny_kp' {μ : Nat} {ω : Dev} {d : Dev} {die : Nat} {space : Nat} {off : Nat} {y0} {rd : Dev} (heq : Dev.dspDeny d die space off = (y0, rd))  (hμ : Within 0x80000000000000245000000000000000000000000000000000000000000040800000000000000000000000000000000000000000 μ) (hκ : Agree μ ω d) : Agree μ ω rd := by
  have k := Dev.dspDeny_kp (μ := μ) (ω := ω) d die space off  (hμ := hμ) (hκ := hκ); rw [heq] at k; exact k

theorem Dev.dspLines_kp {μ : Nat} {ω : Dev} (d : Dev) (die space : Nat) (offs : List Nat) (hμ : Within 0x8000080003c00024500000000000000000000000000000000000000000004080000000001c3b303c000000000000000000000000 μ) (hκ : Agree μ ω d) :
    Agree μ ω (Dev.dspLines d die space offs).2 := by
  induction offs generalizing d with
  | nil => exact hκ
  | cons off offs ih =>
    unfold Dev.dspLines
    rcases hd : d.dspDeny die space off with ⟨q, d1⟩
    have h1 := Dev.dspDeny_kp' hd (hμ.up (by decide)) hκ
    cases q with
    | some x => simp only; exact h1
    | none =>
      have h2 : Agree μ ω (if space = 1 then d1.sbLoad die off 64 else d1.hbLoad die off 64 []).2 := by
        split
        · exact Dev.sbLoad_kp (hμ := hμ.up (by decide)) (hκ := h1) ..
        · exact Dev.hbLoad_kp (hμ := hμ.up (by decide)) (hκ := h1) ..
      simp only
      generalize (if space = 1 then d1.sbLoad die off 64 else d1.hbLoad die off 64 []) = r at h2 ⊢
      split
      · exact h2
      · have h3 := ih r.2 h2
        rcases hr : Dev.dspLines r.2 die space offs with ⟨y, d3⟩
        rw [hr] at h3
        cases y <;> exact h3

theorem Dev.dspLines_kp' {μ : Nat} {ω : Dev} {d : Dev} {die space : Nat} {offs : List Nat} {y0} {rd : Dev} (heq : Dev.dspLines d die space offs = (y0, rd)) (hμ : Within 0x8000080003c00024500000000000000000000000000000000000000000004080000000001c3b303c000000000000000000000000 μ) (hκ : Agree μ ω d) : Agree μ ω rd := by
  have k := Dev.dspLines_kp (μ := μ) (ω := ω) d die space offs hμ hκ; rw [heq] at k; exact k

theorem Dev.dspRead_kp {μ : Nat} {ω : Dev} (d : Dev) (die space off n : Nat) (hμ : Within 0x8000080003c00024500000000000000000000000000000000000000000004080000000001c3b303c000000000000000000000000 μ) (hκ : Agree μ ω d) :
    Agree μ ω (Dev.dspRead d die space off n).2 := Dev.dspLines_kp _ _ _ _ hμ hκ

theorem Dev.dspRead_kp' {μ : Nat} {ω : Dev} {d : Dev} {die space off n : Nat} {y0} {rd : Dev} (heq : Dev.dspRead d die space off n = (y0, rd)) (hμ : Within 0x8000080003c00024500000000000000000000000000000000000000000004080000000001c3b303c000000000000000000000000 μ) (hκ : Agree μ ω d) : Agree μ ω rd := by
  have k := Dev.dspRead_kp (μ := μ) (ω := ω) d die space off n hμ hκ; rw [heq] at k; exact k

theorem Dev.dspReads_kp {μ : Nat} {ω : Dev} (d : Dev) (die : Nat) (xs : List (Nat × Nat)) (hμ : Within 0x8000080003c00024500000000000000000000000000000000000000000004080000000001c3b303c000000000000000000000000 μ) (hκ : Agree μ ω d) :
    Agree μ ω (Dev.dspReads d die xs).2 := by
  induction xs generalizing d with
  | nil => exact hκ
  | cons x xs ih =>
    unfold Dev.dspReads
    rcases hd : d.dspRead die 1 x.1 x.2 with ⟨y, d1⟩
    have h1 := Dev.dspRead_kp' hd (hμ.up (by decide)) hκ
    cases y with
    | bad c i => exact h1
    | ok bs =>
      have h2 := ih d1 h1
      rcases hr : Dev.dspReads d1 die xs with ⟨z, d2⟩
      rw [hr] at h2
      simp only [hr]
      cases z <;> exact h2

theorem Dev.dspReads_kp' {μ : Nat} {ω : Dev} {d : Dev} {die : Nat} {xs : List (Nat × Nat)} {y0} {rd : Dev} (heq : Dev.dspReads d die xs = (y0, rd)) (hμ : Within 0x8000080003c00024500000000000000000000000000000000000000000004080000000001c3b303c000000000000000000000000 μ) (hκ : Agree μ ω d) : Agree μ ω rd := by
  have k := Dev.dspReads_kp (μ := μ) (ω := ω) d die xs hμ hκ; rw [heq] at k; exact k

theorem Dev.dspWrite_kp {μ : Nat} {ω : Dev} (d : Dev) (die : Nat) (ws : List (Nat × Bytes))  (hμ : Within 0x400003c00000000000000000000000000000000000000000000000004080000000003c000000000000000000000000000000 μ) (hκ : Agree μ ω d) : Agree μ ω (Dev.dspWrite d die ws).2 := by
  unfold Dev.dspWrite
  repeat' (first | with_reducible assumption | intro _ | (simp only [id_eq]) | (with_reducible refine Dev.countSat_kp (hf := by first | assumption | exact hμ.bit rfl) (hμ := hμ.up (by decide)) (hκ := ?_) ..) | (with_reducible refine Dev.pdrop_kp (hμ := hμ.up (by decide)) (hκ := ?_) ..) | (with_reducible refine Dev.sbStore_kp (hμ := hμ.up (by decide)) (hκ := ?_) ..) | (with_reducible apply Agree.ite) | (with_reducible apply Agree.foldl) | (with_reducible apply Agree.foldl_fst) | (with_reducible apply Agree.foldl_snd) | split)

theorem Dev.dspWrite_kp' {μ : Nat} {ω : Dev} {d : Dev} {die : Nat} {ws : List (Nat × Bytes)} {y0} {rd : Dev} (heq : Dev.dspWrite d die ws = (y0, rd))  (hμ : Within 0x400003c00000000000000000000000000000000000000000000000004080000000003c000000000000000000000000000000 μ) (hκ : Agree μ ω d) : Agree μ ω rd := by
  have k := Dev.dspWrite_kp (μ := μ) (ω := ω) d die ws  (hμ := hμ) (hκ := hκ); rw [heq] at k; exact k

theorem Dev.dspSpill_kp {μ : Nat} {ω : Dev} (d : Dev) (die : Nat) (step : Nat) (raw : Bytes) (off : Nat) (bs : Bytes)  (hμ : Within 0x4c000000000000000000000000000000000000000000000000000000000000000000000000000000000000000000000000 μ) (hκ : Agree μ ω d) : Agree μ ω (Dev.dspSpill d die step raw off bs) := by
  unfold Dev.dspSpill
  repeat' (first | with_reducible assumption | intro _ | (simp only [id_eq]) | (simp only [Agree.set_sqn (hμ.bit (by decide))]) | (with_reducible refine Dev.modDsp_kp (hμ := hμ.up (by decide)) (hκ := ?_) ..) | (with_reducible refine Dev.netPut_kp (hμ := hμ.up (by decide)) (hκ := ?_) ..) | (with_reducible apply Agree.ite) | split)

theorem Dev.dspOverflow_kp {μ : Nat} {ω : Dev} (d : Dev) (die : Nat) (step : Nat) (s : Step) (area : Nat) (v : Served) (ncand : Nat)  (hμ : Within 0x4c004000000000000000000000000000000000000000000000000000000000000000000000000000006000000000000000 μ) (hκ : Agree μ ω d) : Agree μ ω (Dev.dspOverflow d die step s area v ncand).2 := by
  unfold Dev.dspOverflow
  repeat' (first | with_reducible assumption | intro _ | (simp only [id_eq]) | (with_reducible refine Dev.count_kp (hf := by first | assumption | exact hμ.bit rfl) (hμ := hμ.up (by decide)) (hκ := ?_) ..) | (with_reducible refine Dev.countSat_kp (hf := by first | assumption | exact hμ.bit rfl) (hμ := hμ.up (by decide)) (hκ := ?_) ..) | (with_reducible refine Dev.draw_kp' (heq := by with_reducible assumption) (hμ := hμ.up (by decide)) (hκ := ?_) ..) | (with_reducible refine Dev.draw_kp (hμ := hμ.up (by decide)) (hκ := ?_) ..) | (with_reducible refine Dev.dspSpill_kp (hμ := hμ.up (by decide)) (hκ := ?_) ..) | (with_reducible apply Agree.ite) | (with_reducible apply Agree.foldl) | (with_reducible apply Agree.foldl_fst) | (with_reducible apply Agree.foldl_snd) | split)

theorem Dev.dspOverflow_kp' {μ : Nat} {ω : Dev} {d : Dev} {die : Nat} {step : Nat} {s : Step} {area : Nat} {v : Served} {ncand : Nat} {y0} {rd : Dev} (heq : Dev.dspOverflow d die step s area v ncand = (y0, rd))  (hμ : Within 0x4c004000000000000000000000000000000000000000000000000000000000000000000000000000006000000000000000 μ) (hκ : Agree μ ω d) : Agree μ ω rd := by
  have k := Dev.dspOverflow_kp (μ := μ) (ω := ω) d die step s area v ncand  (hμ := hμ) (hκ := hκ); rw [heq] at k; exact k

theorem Dev.dspFull_kp {μ : Nat} {ω : Dev} (x : Nat × Dev) (hκ : Agree μ ω x.2) : Agree μ ω (Dev.dspFull x).2 := by
  unfold Dev.dspFull; split <;> exact hκ

theorem Dev.dspFull2_kp {μ : Nat} {ω : Dev} (x : Nat × Dev) (hκ : Agree μ ω x.2) : Agree μ ω (Dev.dspFull x).2 := Dev.dspFull_kp x hκ

theorem Dev.gateRun_kp {μ : Nat} {ω : Dev} (d : Dev) (die step : Nat) (s : Step) (hμ : Within 0x8000484c03c00024500000000000000000000000000000000000000000004080000000003c3b303c00000000e000000000000000 μ) (hκ : Agree μ ω d) :
    Agree μ ω (Dev.gateRun d die step s).2 := by
  unfold Dev.gateRun
  repeat' (first | with_reducible assumption | intro _ | (simp only [id_eq]) | (with_reducible refine Dev.dspFull_kp _ ?_) | (with_reducible refine Dev.countSat_kp (hf := by first | assumption | exact hμ.bit rfl) (hμ := hμ.up (by decide)) (hκ := ?_) ..) | (with_reducible refine Dev.draw_kp' (heq := by with_reducible assumption) (hμ := hμ.up (by decide)) (hκ := ?_) ..) | (with_reducible refine Dev.draw_kp (hμ := hμ.up (by decide)) (hκ := ?_) ..) | (with_reducible refine Dev.dspOverflow_kp' (heq := by with_reducible assumption) (hμ := hμ.up (by decide)) (hκ := ?_) ..) | (with_reducible refine Dev.dspOverflow_kp (hμ := hμ.up (by decide)) (hκ := ?_) ..) | (with_reducible refine Dev.dspReads_kp' (heq := by with_reducible assumption) (hμ := hμ.up (by decide)) (hκ := ?_) ..) | (with_reducible refine Dev.dspReads_kp (hμ := hμ.up (by decide)) (hκ := ?_) ..) | (with_reducible refine Dev.dspWrite_kp' (heq := by with_reducible assumption) (hμ := hμ.up (by decide)) (hκ := ?_) ..) | (with_reducible refine Dev.dspWrite_kp (hμ := hμ.up (by decide)) (hκ := ?_) ..) | (with_reducible apply Agree.ite) | split)

theorem Dev.gateRun_kp' {μ : Nat} {ω : Dev} {d : Dev} {die step : Nat} {s : Step} {y0} {rd : Dev} (heq : Dev.gateRun d die step s = (y0, rd)) (hμ : Within 0x8000484c03c00024500000000000000000000000000000000000000000004080000000003c3b303c00000000e000000000000000 μ) (hκ : Agree μ ω d) : Agree μ ω rd := by
  have k := Dev.gateRun_kp (μ := μ) (ω := ω) d die step s hμ hκ; rw [heq] at k; exact k

theorem Dev.dspEntries_kp {μ : Nat} {ω : Dev} (d : Dev) (die ctab k : Nat) (xs : List (Nat × Choice)) (hμ : Within 0x8000480003c00024500000000000000000000000000000000000000000004080000000003c3b303c000000000000000000000000 μ) (hκ : Agree μ ω d) :
    Agree μ ω (Dev.dspEntries d die ctab k xs).2 := by
  induction xs generalizing d with
  | nil => exact hκ
  | cons x xs ih =>
    obtain ⟨w, c⟩ := x
    unfold Dev.dspEntries
    simp only
    rcases hd : d.dspRead die 1 ((ctab + (c.t * k + c.r) * 8) / 64 * 64) 64 with ⟨y, d1⟩
    have h1 := Dev.dspRead_kp' hd (hμ.up (by decide)) hκ
    cases y with
    | bad ca i => exact h1
    | ok bs => exact ih _ (Dev.sbStore_kp (hμ := hμ.up (by decide)) (hκ := h1) ..)

theorem Dev.dspEntries_kp' {μ : Nat} {ω : Dev} {d : Dev} {die ctab k : Nat} {xs : List (Nat × Choice)} {y0} {rd : Dev} (heq : Dev.dspEntries d die ctab k xs = (y0, rd)) (hμ : Within 0x8000480003c00024500000000000000000000000000000000000000000004080000000003c3b303c000000000000000000000000 μ) (hκ : Agree μ ω d) : Agree μ ω rd := by
  have k := Dev.dspEntries_kp (μ := μ) (ω := ω) d die ctab k xs hμ hκ; rw [heq] at k; exact k

theorem Dev.repackRun_kp {μ : Nat} {ω : Dev} (d : Dev) (die step : Nat) (s : Step) (hμ : Within 0x8000484c03c00024500000000000000000000000000000000000000000004080000000003c3b303c000000006000000000000000 μ) (hκ : Agree μ ω d) :
    Agree μ ω (Dev.repackRun d die step s).2 := by
  unfold Dev.repackRun
  repeat' (first | with_reducible assumption | intro _ | (simp only [id_eq]) | (with_reducible refine Dev.dspFull_kp _ ?_) | (with_reducible refine Dev.dspEntries_kp' (heq := by with_reducible assumption) (hμ := hμ.up (by decide)) (hκ := ?_) ..) | (with_reducible refine Dev.dspEntries_kp (hμ := hμ.up (by decide)) (hκ := ?_) ..) | (with_reducible refine Dev.dspOverflow_kp' (heq := by with_reducible assumption) (hμ := hμ.up (by decide)) (hκ := ?_) ..) | (with_reducible refine Dev.dspOverflow_kp (hμ := hμ.up (by decide)) (hκ := ?_) ..) | (with_reducible refine Dev.dspRead_kp' (heq := by with_reducible assumption) (hμ := hμ.up (by decide)) (hκ := ?_) ..) | (with_reducible refine Dev.dspRead_kp (hμ := hμ.up (by decide)) (hκ := ?_) ..) | (with_reducible refine Dev.dspWrite_kp' (heq := by with_reducible assumption) (hμ := hμ.up (by decide)) (hκ := ?_) ..) | (with_reducible refine Dev.dspWrite_kp (hμ := hμ.up (by decide)) (hκ := ?_) ..) | (with_reducible apply Agree.ite) | split)

theorem Dev.repackRun_kp' {μ : Nat} {ω : Dev} {d : Dev} {die step : Nat} {s : Step} {y0} {rd : Dev} (heq : Dev.repackRun d die step s = (y0, rd)) (hμ : Within 0x8000484c03c00024500000000000000000000000000000000000000000004080000000003c3b303c000000006000000000000000 μ) (hκ : Agree μ ω d) : Agree μ ω rd := by
  have k := Dev.repackRun_kp (μ := μ) (ω := ω) d die step s hμ hκ; rw [heq] at k; exact k

theorem Dev.combineTokens_kp {μ : Nat} {ω : Dev} (d : Dev) (die : Nat) (s : Step) (ts : List Nat) (hμ : Within 0x8000480003c00024500000000000000000000000000000000000000000004080000000003c3b303c000000000000000000000000 μ) (hκ : Agree μ ω d) :
    Agree μ ω (Dev.combineTokens d die s ts).2 := by
  induction ts generalizing d with
  | nil => exact hκ
  | cons t ts ih =>
    unfold Dev.combineTokens
    simp only
    generalize s.f 36 4 + t * s.kc * 8 = off
    rcases hd : d.dspRead die 1 (off / 64 * 64) (off % 64 + 8 * s.kc) with ⟨y, d1⟩
    have h1 := Dev.dspRead_kp' hd (hμ.up (by decide)) hκ
    cases y with
    | bad c i => exact h1
    | ok bs =>
      simp only
      split
      · exact Dev.dspReads_kp' (by assumption) (hμ.up (by decide)) h1
      · have h2 := Dev.dspReads_kp' (by assumption) (hμ.up (by decide)) h1
        split
        · exact Dev.dspWrite_kp' (by assumption) (hμ.up (by decide)) h2
        · exact ih _ (Dev.dspWrite_kp' (by assumption) (hμ.up (by decide)) h2)

theorem Dev.combineTokens_kp' {μ : Nat} {ω : Dev} {d : Dev} {die : Nat} {s : Step} {ts : List Nat} {y0} {rd : Dev} (heq : Dev.combineTokens d die s ts = (y0, rd)) (hμ : Within 0x8000480003c00024500000000000000000000000000000000000000000004080000000003c3b303c000000000000000000000000 μ) (hκ : Agree μ ω d) : Agree μ ω rd := by
  have k := Dev.combineTokens_kp (μ := μ) (ω := ω) d die s ts hμ hκ; rw [heq] at k; exact k

theorem Dev.combineRun_kp {μ : Nat} {ω : Dev} (d : Dev) (die : Nat) (s : Step)  (hμ : Within 0x8000480003c00024500000000000000000000000000000000000000000004080000000003c3b303c000000000000000000000000 μ) (hκ : Agree μ ω d) : Agree μ ω (Dev.combineRun d die s).2 := by
  unfold Dev.combineRun
  repeat' (first | with_reducible assumption | intro _ | (simp only [id_eq]) | (with_reducible refine Dev.combineTokens_kp' (heq := by with_reducible assumption) (hμ := hμ.up (by decide)) (hκ := ?_) ..) | (with_reducible refine Dev.combineTokens_kp (hμ := hμ.up (by decide)) (hκ := ?_) ..) | (with_reducible apply Agree.ite) | split)

theorem Dev.combineRun_kp' {μ : Nat} {ω : Dev} {d : Dev} {die : Nat} {s : Step} {y0} {rd : Dev} (heq : Dev.combineRun d die s = (y0, rd))  (hμ : Within 0x8000480003c00024500000000000000000000000000000000000000000004080000000003c3b303c000000000000000000000000 μ) (hκ : Agree μ ω d) : Agree μ ω rd := by
  have k := Dev.combineRun_kp (μ := μ) (ω := ω) d die s  (hμ := hμ) (hκ := hκ); rw [heq] at k; exact k

theorem Dev.sbUndef_kp {μ : Nat} {ω : Dev} (d : Dev) (die : Nat) (off : Nat) (n : Nat)  (hμ : Within 0x10000000000000000000000000000000000000000000000000000000000000000000000000000000000000000000000 μ) (hκ : Agree μ ω d) : Agree μ ω (Dev.sbUndef d die off n) := by
  unfold Dev.sbUndef
  repeat' (first | with_reducible assumption | intro _ | (simp only [id_eq]) | (simp only [Agree.set_unwritten (hμ.bit (by decide))]) | (with_reducible apply Agree.ite) | (with_reducible apply Agree.foldl) | (with_reducible apply Agree.foldl_fst) | (with_reducible apply Agree.foldl_snd) | split)

theorem Dev.undefLists_kp {μ : Nat} {ω : Dev} (d : Dev) (die : Nat) (s : Step)  (hμ : Within 0x10000000000000000000000000000000000000000000000000000000000000000000000000000000000000000000000 μ) (hκ : Agree μ ω d) : Agree μ ω (Dev.undefLists d die s) := by
  unfold Dev.undefLists
  repeat' (first | with_reducible assumption | intro _ | (simp only [id_eq]) | (with_reducible refine Dev.sbUndef_kp (hμ := hμ.up (by decide)) (hκ := ?_) ..) | (with_reducible apply Agree.ite) | (with_reducible apply Agree.foldl) | (with_reducible apply Agree.foldl_fst) | (with_reducible apply Agree.foldl_snd) | split)

theorem Dev.undefArea_kp {μ : Nat} {ω : Dev} (d : Dev) (die : Nat) (s : Step)  (hμ : Within 0x10000000000000000000000000000000000000000000000000000000000000000000000000000000000000000000000 μ) (hκ : Agree μ ω d) : Agree μ ω (Dev.undefArea d die s) := by
  unfold Dev.undefArea
  repeat' (first | with_reducible assumption | intro _ | (simp only [id_eq]) | (simp only [Agree.set_unwritten (hμ.bit (by decide))]) | (with_reducible apply Agree.ite) | split)

theorem Dev.dspUndef_kp {μ : Nat} {ω : Dev} (d : Dev) (die : Nat) (s : Step)  (hμ : Within 0x10000000000000000000000000000000000000000000000000000000000000000000000000000000000000000000000 μ) (hκ : Agree μ ω d) : Agree μ ω (Dev.dspUndef d die s) := by
  unfold Dev.dspUndef
  repeat' (first | with_reducible assumption | intro _ | (simp only [id_eq]) | (with_reducible refine Dev.sbUndef_kp (hμ := hμ.up (by decide)) (hκ := ?_) ..) | (with_reducible refine Dev.undefArea_kp (hμ := hμ.up (by decide)) (hκ := ?_) ..) | (with_reducible refine Dev.undefLists_kp (hμ := hμ.up (by decide)) (hκ := ?_) ..) | (with_reducible apply Agree.ite) | (with_reducible apply Agree.foldl) | (with_reducible apply Agree.foldl_fst) | (with_reducible apply Agree.foldl_snd) | split)

theorem Dev.dspFetch_kp {μ : Nat} {ω : Dev} (d : Dev) (die : Nat)  (hμ : Within 0x4000400000000000000000000000000000000000000000000000000000000000001c000000000000000000000000000000 μ) (hκ : Agree μ ω d) : Agree μ ω (Dev.dspFetch d die) := by
  unfold Dev.dspFetch
  repeat' (first | with_reducible assumption | intro _ | (simp only [id_eq]) | (with_reducible refine Dev.modDsp_kp (hμ := hμ.up (by decide)) (hκ := ?_) ..) | (with_reducible refine Dev.sbLoad_kp' (heq := by with_reducible assumption) (hμ := hμ.up (by decide)) (hκ := ?_) ..) | (with_reducible refine Dev.sbLoad_kp (hμ := hμ.up (by decide)) (hκ := ?_) ..) | (with_reducible apply Agree.ite) | split)

theorem Dev.dspRan_kp {μ : Nat} {ω : Dev} (d : Dev) (die : Nat) (n : Nat) (s : Step)  (hμ : Within 0x40000000000000000000000000000000000000000000000000000000000000000000000000000000000000000000000000 μ) (hκ : Agree μ ω d) : Agree μ ω (Dev.dspRan d die n s) := by
  unfold Dev.dspRan
  repeat' (first | with_reducible assumption | intro _ | (simp only [id_eq]) | (with_reducible refine Dev.modDsp_kp (hμ := hμ.up (by decide)) (hκ := ?_) ..) | (with_reducible apply Agree.ite) | split)

theorem Dev.dspWork_kp {μ : Nat} {ω : Dev} (d : Dev) (die : Nat) (n : Nat) (s : Step)  (hμ : Within 0x8000484e03c00024500000000000000000000000000000000000000000004080000000003c3b303c00000000e000000000000000 μ) (hκ : Agree μ ω d) : Agree μ ω (Dev.dspWork d die n s) := by
  unfold Dev.dspWork
  repeat' (first | with_reducible assumption | intro _ | (simp only [id_eq]) | (with_reducible refine Dev.combineRun_kp' (heq := by with_reducible assumption) (hμ := hμ.up (by decide)) (hκ := ?_) ..) | (with_reducible refine Dev.combineRun_kp (hμ := hμ.up (by decide)) (hκ := ?_) ..) | (with_reducible refine Dev.dspFail_kp (hμ := hμ.up (by decide)) (hκ := ?_) ..) | (with_reducible refine Dev.dspRan_kp (hμ := hμ.up (by decide)) (hκ := ?_) ..) | (with_reducible refine Dev.dspUndef_kp (hμ := hμ.up (by decide)) (hκ := ?_) ..) | (with_reducible refine Dev.gateRun_kp' (heq := by with_reducible assumption) (hμ := hμ.up (by decide)) (hκ := ?_) ..) | (with_reducible refine Dev.gateRun_kp (hμ := hμ.up (by decide)) (hκ := ?_) ..) | (with_reducible refine Dev.repackRun_kp' (heq := by with_reducible assumption) (hμ := hμ.up (by decide)) (hκ := ?_) ..) | (with_reducible refine Dev.repackRun_kp (hμ := hμ.up (by decide)) (hκ := ?_) ..) | (with_reducible apply Agree.ite) | split)

theorem Dev.dspBegin_kp {μ : Nat} {ω : Dev} (d : Dev) (die : Nat) (op : Nat)  (hμ : Within 0x8000484e03c00024500000000000000000000000000000000000000000004080000000003c3b303c00000000fe00010000000000 μ) (hκ : Agree μ ω d) : Agree μ ω (Dev.dspBegin d die op) := by
  unfold Dev.dspBegin
  repeat' (first | with_reducible assumption | intro _ | (simp only [id_eq]) | (with_reducible refine Dev.dspFail_kp (hμ := hμ.up (by decide)) (hκ := ?_) ..) | (with_reducible refine Dev.dspSettle_kp (hμ := hμ.up (by decide)) (hκ := ?_) ..) | (with_reducible refine Dev.dspUndef_kp (hμ := hμ.up (by decide)) (hκ := ?_) ..) | (with_reducible refine Dev.dspWork_kp (hμ := hμ.up (by decide)) (hκ := ?_) ..) | (with_reducible refine Dev.modDsp_kp (hμ := hμ.up (by decide)) (hκ := ?_) ..) | (with_reducible refine Dev.put_kp (hf := by first | assumption | exact hμ.bit rfl) (hμ := hμ.up (by decide)) (hκ := ?_) ..) | (with_reducible refine Dev.sendOp_kp (hμ := hμ.up (by decide)) (hκ := ?_) ..) | (with_reducible refine Dev.setDsp_kp (hμ := hμ.up (by decide)) (hκ := ?_) ..) | (with_reducible apply Agree.ite) | split)

theorem Dev.dspWake_kp {μ : Nat} {ω : Dev} (d : Dev) (die : Nat) (gen : Nat)  (hμ : Within 0x40000000000000000000000000000000000000000000000000000000000000000000000000000000000200000000000000 μ) (hκ : Agree μ ω d) : Agree μ ω (Dev.dspWake d die gen) := by
  unfold Dev.dspWake
  repeat' (first | with_reducible assumption | intro _ | (simp only [id_eq]) | (with_reducible refine Dev.modDsp_kp (hμ := hμ.up (by decide)) (hκ := ?_) ..) | (with_reducible refine Dev.setDsp_kp (hμ := hμ.up (by decide)) (hκ := ?_) ..) | (with_reducible apply Agree.ite) | split)

theorem Dev.dspTimeout_kp {μ : Nat} {ω : Dev} (d : Dev) (die : Nat)  (hμ : Within 0x80000042010000245000000000000000000000000000000000000000000000000000000000000000000000001a00010000000000 μ) (hκ : Agree μ ω d) : Agree μ ω (Dev.dspTimeout d die) := by
  unfold Dev.dspTimeout
  repeat' (first | with_reducible assumption | intro _ | (simp only [id_eq]) | (with_reducible refine Dev.dspFail_kp (hμ := hμ.up (by decide)) (hκ := ?_) ..) | (with_reducible refine Dev.dspSettle_kp (hμ := hμ.up (by decide)) (hκ := ?_) ..) | (with_reducible refine Dev.dspUndef_kp (hμ := hμ.up (by decide)) (hκ := ?_) ..) | (with_reducible apply Agree.ite) | split)

theorem Dev.dspAdd_kp {μ : Nat} {ω : Dev} (d : Dev) (die : Nat)  (hμ : Within 0x80000042000000245000000000000000000000000000000000000000000000000000000000000000000000001a00010000000000 μ) (hκ : Agree μ ω d) : Agree μ ω (Dev.dspAdd d die) := by
  unfold Dev.dspAdd
  repeat' (first | with_reducible assumption | intro _ | (simp only [id_eq]) | (with_reducible refine Dev.dspSettle_kp (hμ := hμ.up (by decide)) (hκ := ?_) ..) | (with_reducible refine Dev.modDsp_kp (hμ := hμ.up (by decide)) (hκ := ?_) ..) | (with_reducible refine Dev.sendOp_kp (hμ := hμ.up (by decide)) (hκ := ?_) ..) | (with_reducible apply Agree.ite) | split)

theorem Dev.dspAck_kp {μ : Nat} {ω : Dev} (d : Dev) (die : Nat) (home : Nat) (idx : Nat)  (hμ : Within 0x40000000000000000000000000000000000000000000000000000000000000000000000000000000000000000000000000 μ) (hκ : Agree μ ω d) : Agree μ ω (Dev.dspAck d die home idx) := by
  unfold Dev.dspAck
  repeat' (first | with_reducible assumption | intro _ | (simp only [id_eq]) | (with_reducible refine Dev.modDsp_kp (hμ := hμ.up (by decide)) (hκ := ?_) ..) | (with_reducible apply Agree.ite) | split)

theorem Dev.dspResponse_kp {μ : Nat} {ω : Dev} (d : Dev) (die : Nat) (tag : Nat) (stat : Nat)  (hμ : Within 0x80000042010000245000000000000000000000000000000000000000000001000000000000000000000000001a00010000000000 μ) (hκ : Agree μ ω d) : Agree μ ω (Dev.dspResponse d die tag stat) := by
  unfold Dev.dspResponse
  repeat' (first | with_reducible assumption | intro _ | (simp only [id_eq]) | (with_reducible refine Dev.countSat_kp (hf := by first | assumption | exact hμ.bit rfl) (hμ := hμ.up (by decide)) (hκ := ?_) ..) | (with_reducible refine Dev.dspFail_kp (hμ := hμ.up (by decide)) (hκ := ?_) ..) | (with_reducible refine Dev.dspSettle_kp (hμ := hμ.up (by decide)) (hκ := ?_) ..) | (with_reducible refine Dev.dspUndef_kp (hμ := hμ.up (by decide)) (hκ := ?_) ..) | (with_reducible refine Dev.modDsp_kp (hμ := hμ.up (by decide)) (hκ := ?_) ..) | (with_reducible apply Agree.ite) | split)

theorem Dev.dspStart_kp {μ : Nat} {ω : Dev} (d : Dev) (die : Nat) (hμ : Within 0x40000000000000000000000000000000000000000000000000000000000000000000000000000000001e00000000000000 μ) (hκ : Agree μ ω d) : Agree μ ω (d.dspStart die) := by
  skip
  unfold Dev.dspStart
  simp only [List.foldl]
  repeat' (first | with_reducible assumption | intro _ | (simp only [id_eq]) | (simp only [Agree.del_iff (r := .DSP_STEP) (hμ.bit (by decide)), Agree.del_iff (r := .DSP_FINFO) (hμ.bit (by decide)), Agree.del_iff (r := .DSP_FTICK) (hμ.bit (by decide))]) | (with_reducible refine Dev.setKey_kp _ _ _ _ _ _ (by first | assumption | exact hμ.bit (by decide) | exact hall _) ?_) | (with_reducible refine Dev.setRaw_kp _ _ _ (by assumption) ?_) | (with_reducible refine Dev.modDsp_kp (hμ := hμ.up (by decide)) (hκ := ?_) ..) | (with_reducible refine Dev.put_kp (hf := by first | assumption | exact hμ.bit rfl) (hμ := hμ.up (by decide)) (hκ := ?_) ..) | (with_reducible refine Dev.setDsp_kp (hμ := hμ.up (by decide)) (hκ := ?_) ..) | (with_reducible apply Agree.ite) | (with_reducible apply Agree.foldl) | (with_reducible apply Agree.foldl_fst) | (with_reducible apply Agree.foldl_snd) | split)

theorem Dev.dspAbort_kp {μ : Nat} {ω : Dev} (d : Dev) (die : Nat)  (hμ : Within 0x42000000000000000000000000000000000000000000000000000000000000000000000000000000000200000000000000 μ) (hκ : Agree μ ω d) : Agree μ ω (Dev.dspAbort d die) := by
  unfold Dev.dspAbort
  repeat' (first | with_reducible assumption | intro _ | (simp only [id_eq]) | (with_reducible refine Dev.dspWithdraw_kp (hμ := hμ.up (by decide)) (hκ := ?_) ..) | (with_reducible refine Dev.modDsp_kp (hμ := hμ.up (by decide)) (hκ := ?_) ..) | (with_reducible refine Dev.setDsp_kp (hμ := hμ.up (by decide)) (hκ := ?_) ..) | (with_reducible apply Agree.ite) | split)

theorem Dev.dspDrained_kp {μ : Nat} {ω : Dev} (d : Dev) (die : Nat)  (hμ : Within 0x80000040000000245000000000000000000000000000000000000000000000000000000000000000000000001a00010000000000 μ) (hκ : Agree μ ω d) : Agree μ ω (Dev.dspDrained d die) := by
  unfold Dev.dspDrained
  repeat' (first | with_reducible assumption | intro _ | (simp only [id_eq]) | (with_reducible refine Dev.dspRecord_kp (hμ := hμ.up (by decide)) (hκ := ?_) ..) | (with_reducible refine Dev.modDsp_kp (hμ := hμ.up (by decide)) (hκ := ?_) ..) | (with_reducible refine Dev.setDsp_kp (hμ := hμ.up (by decide)) (hκ := ?_) ..) | (with_reducible apply Agree.ite) | split)

theorem Dev.dspCtlWrite_kp {μ : Nat} {ω : Dev} (d : Dev) (die : Nat) (v : Nat)  (hμ : Within 0x42000000000000000000000000000000000000000000000000000000000000000000000000000000001e08000000000000 μ) (hκ : Agree μ ω d) : Agree μ ω (Dev.dspCtlWrite d die v) := by
  unfold Dev.dspCtlWrite
  repeat' (first | with_reducible assumption | intro _ | (simp only [id_eq]) | (with_reducible refine Dev.dspAbort_kp (hμ := hμ.up (by decide)) (hκ := ?_) ..) | (with_reducible refine Dev.dspStart_kp (hμ := hμ.up (by decide)) (hκ := ?_) ..) | (with_reducible refine Dev.put_kp (hf := by first | assumption | exact hμ.bit rfl) (hμ := hμ.up (by decide)) (hκ := ?_) ..) | (with_reducible refine Dev.setDsp_kp (hμ := hμ.up (by decide)) (hκ := ?_) ..) | (with_reducible apply Agree.ite) | split)

theorem Dev.dspOvWrite_kp {μ : Nat} {ω : Dev} (d : Dev) (die : Nat) (r : Reg) (v : Nat) (hr : μ.testBit r.ctorIdx = true) (hμ : Within 0x0 μ) (hκ : Agree μ ω d) : Agree μ ω (Dev.dspOvWrite d die r v) := by
  unfold Dev.dspOvWrite
  repeat' (first | with_reducible assumption | intro _ | (simp only [id_eq]) | (with_reducible refine Dev.writeKey_kp _ _ _ _ _ _ _ (by first | assumption | exact hμ.bit (by decide) | exact hall _) ?_) | (with_reducible apply Agree.ite) | split)

theorem Dev.dspReset_kp {μ : Nat} {ω : Dev} (d : Dev) (die : Nat) (hμ : Within 0x4201000000000000000000000000000000000000000000000000000000000000000000000000000000fe00000000000000 μ) (hκ : Agree μ ω d) : Agree μ ω (d.dspReset die) := by
  skip
  unfold Dev.dspReset
  simp only [List.foldl]
  repeat' (first | with_reducible assumption | intro _ | (simp only [id_eq]) | (simp only [Agree.del_iff (r := .DSP_STAT) (hμ.bit (by decide)), Agree.del_iff (r := .DSP_STEP) (hμ.bit (by decide)), Agree.del_iff (r := .DSP_FINFO) (hμ.bit (by decide)), Agree.del_iff (r := .DSP_FTICK) (hμ.bit (by decide)), Agree.del_iff (r := .DSP_NSPILL) (hμ.bit (by decide)), Agree.del_iff (r := .DSP_NLOST) (hμ.bit (by decide)), Agree.del_iff (r := .DSP_NNAN) (hμ.bit (by decide))]) | (with_reducible refine Dev.dspUndef_kp (hμ := hμ.up (by decide)) (hκ := ?_) ..) | (with_reducible refine Dev.dspWithdraw_kp (hμ := hμ.up (by decide)) (hκ := ?_) ..) | (with_reducible refine Dev.modDsp_kp (hμ := hμ.up (by decide)) (hκ := ?_) ..) | (with_reducible refine Dev.setDsp_kp (hμ := hμ.up (by decide)) (hκ := ?_) ..) | (with_reducible apply Agree.ite) | (with_reducible apply Agree.foldl) | (with_reducible apply Agree.foldl_fst) | (with_reducible apply Agree.foldl_snd) | split)

theorem Dev.eachCore_kp {μ : Nat} {ω : Dev} (d : Dev) (_cn : Nat) (f : Dev → Nat → Dev) (hf : ∀ a0 a1, Agree μ ω a0 → Agree μ ω (f a0 a1)) (hμ : Within 0x0 μ) (hκ : Agree μ ω d) : Agree μ ω (Dev.eachCore d _cn f) := by
  unfold Dev.eachCore
  repeat' (first | with_reducible assumption | intro _ | (simp only [id_eq]) | (with_reducible refine hf _ _ ?_) | (with_reducible apply Agree.ite) | (with_reducible apply Agree.foldl) | (with_reducible apply Agree.foldl_fst) | (with_reducible apply Agree.foldl_snd) | split)

theorem Dev.stopCore_kp {μ : Nat} {ω : Dev} (d : Dev) (cn : Nat) (p : Nat)  (hμ : Within 0x80000002080000245000000000000000000000000000000000000000000008000000000000000000000000000000000000000040 μ) (hκ : Agree μ ω d) : Agree μ ω (Dev.stopCore d cn p) := by
  unfold Dev.stopCore
  repeat' (first | with_reducible assumption | intro _ | (simp only [id_eq]) | (with_reducible refine Dev.setCore_kp (hμ := hμ.up (by decide)) (hκ := ?_) ..) | (with_reducible refine Dev.withdrawSlots_kp (hμ := hμ.up (by decide)) (hκ := ?_) ..) | (with_reducible apply Agree.ite) | split)

theorem Dev.drainCore_kp {μ : Nat} {ω : Dev} (d : Dev) (cn : Nat) (p : Nat)  (hμ : Within 0x80000002084000245000000000000000000000000000000000000000000008000000000c00000000000000000000000000000040 μ) (hκ : Agree μ ω d) : Agree μ ω (Dev.drainCore d cn p) := by
  unfold Dev.drainCore
  repeat' (first | with_reducible assumption | intro _ | (simp only [id_eq]) | (with_reducible refine Dev.lutDone_kp (hμ := hμ.up (by decide)) (hκ := ?_) ..) | (with_reducible refine Dev.mmaDone_kp (hμ := hμ.up (by decide)) (hκ := ?_) ..) | (with_reducible refine Dev.seedDone_kp (hμ := hμ.up (by decide)) (hκ := ?_) ..) | (with_reducible refine Dev.traddRelease_kp (hμ := hμ.up (by decide)) (hκ := ?_) ..) | (with_reducible apply Agree.ite) | split)

theorem Dev.abortCore_kp {μ : Nat} {ω : Dev} (d : Dev) (cn : Nat) (p : Nat)  (hμ : Within 0x80000002080000245000000000000000000000000000000000000000000008000000000000000000000000000000000000000040 μ) (hκ : Agree μ ω d) : Agree μ ω (Dev.abortCore d cn p) := by
  unfold Dev.abortCore
  repeat' (first | with_reducible assumption | intro _ | (simp only [id_eq]) | (with_reducible refine Dev.setCore_kp (hμ := hμ.up (by decide)) (hκ := ?_) ..) | (with_reducible refine Dev.stopCore_kp (hμ := hμ.up (by decide)) (hκ := ?_) ..) | (with_reducible apply Agree.ite) | split)

theorem Dev.planAbort_kp {μ : Nat} {ω : Dev} (d : Dev) (cn : Nat)  (hμ : Within 0x80000002080000245000000000000000000000000000000000000000000008000000000000000000000000000000000000000040 μ) (hκ : Agree μ ω d) : Agree μ ω (Dev.planAbort d cn) := by
  unfold Dev.planAbort
  repeat' (first | with_reducible assumption | intro _ | (simp only [id_eq]) | (with_reducible refine Dev.abortCore_kp (hμ := hμ.up (by decide)) (hκ := ?_) ..) | (with_reducible refine Dev.eachCore_kp (hf := ?_) (hμ := hμ.up (by decide)) (hκ := ?_) ..) | (with_reducible apply Agree.ite) | split)

theorem Dev.planStart_kp {μ : Nat} {ω : Dev} (d : Dev) (cn : Nat)  (hμ : Within 0x180000000000000000000000000000000000000000000000000000000000000000000000000000000000000000040000 μ) (hκ : Agree μ ω d) : Agree μ ω (Dev.planStart d cn) := by
  unfold Dev.planStart
  repeat' (first | with_reducible assumption | intro _ | (simp only [id_eq]) | (with_reducible refine Dev.eachCore_kp (hf := ?_) (hμ := hμ.up (by decide)) (hκ := ?_) ..) | (with_reducible refine Dev.put_kp (hf := by first | assumption | exact hμ.bit rfl) (hμ := hμ.up (by decide)) (hκ := ?_) ..) | (with_reducible refine Dev.setCell_kp (hμ := hμ.up (by decide)) (hκ := ?_) ..) | (with_reducible refine Dev.setCore_kp (hμ := hμ.up (by decide)) (hκ := ?_) ..) | (with_reducible apply Agree.ite) | split)

theorem Dev.planRun_kp {μ : Nat} {ω : Dev} (d : Dev) (cn : Nat) (start : Bool) (abort : Bool)  (hμ : Within 0x80000002180000245000000000000000000000000000000000000000000008000000000000000000000000000000000000040040 μ) (hκ : Agree μ ω d) : Agree μ ω (Dev.planRun d cn start abort) := by
  unfold Dev.planRun
  repeat' (first | with_reducible assumption | intro _ | (simp only [id_eq]) | (with_reducible refine Dev.planAbort_kp (hμ := hμ.up (by decide)) (hκ := ?_) ..) | (with_reducible refine Dev.planStart_kp (hμ := hμ.up (by decide)) (hκ := ?_) ..) | (with_reducible apply Agree.ite) | split)

theorem Dev.setPark_kp {μ : Nat} {ω : Dev} (d : Dev) (cn : Nat) (b : Bool)  (hμ : Within 0x2 μ) (hκ : Agree μ ω d) : Agree μ ω (Dev.setPark d cn b) := by
  unfold Dev.setPark
  repeat' (first | with_reducible assumption | intro _ | (simp only [id_eq]) | (with_reducible refine Dev.put_kp (hf := by first | assumption | exact hμ.bit rfl) (hμ := hμ.up (by decide)) (hκ := ?_) ..) | (with_reducible apply Agree.ite) | split)

theorem Dev.parkNow_kp {μ : Nat} {ω : Dev} (d : Dev) (cn : Nat)  (hμ : Within 0x80000002084000245000000000000000000000000000000000000000000008000000000c00000000000000000000000000000042 μ) (hκ : Agree μ ω d) : Agree μ ω (Dev.parkNow d cn) := by
  unfold Dev.parkNow
  repeat' (first | with_reducible assumption | intro _ | (simp only [id_eq]) | (with_reducible refine Dev.drainCore_kp (hμ := hμ.up (by decide)) (hκ := ?_) ..) | (with_reducible refine Dev.eachCore_kp (hf := ?_) (hμ := hμ.up (by decide)) (hκ := ?_) ..) | (with_reducible refine Dev.setPark_kp (hμ := hμ.up (by decide)) (hκ := ?_) ..) | (with_reducible refine Dev.stopCore_kp (hμ := hμ.up (by decide)) (hκ := ?_) ..) | (with_reducible apply Agree.ite) | split)

theorem Dev.cellPark_kp {μ : Nat} {ω : Dev} (d : Dev) (cn : Nat)  (hμ : Within 0x80000002184000245000000000000000000000000000000000000000000008000000000c00000000000000000000000000000042 μ) (hκ : Agree μ ω d) : Agree μ ω (Dev.cellPark d cn) := by
  unfold Dev.cellPark
  repeat' (first | with_reducible assumption | intro _ | (simp only [id_eq]) | (with_reducible refine Dev.parkNow_kp (hμ := hμ.up (by decide)) (hκ := ?_) ..) | (with_reducible refine Dev.setCell_kp (hμ := hμ.up (by decide)) (hκ := ?_) ..) | (with_reducible apply Agree.ite) | split)

theorem Dev.cellUnpark_kp {μ : Nat} {ω : Dev} (d : Dev) (cn : Nat)  (hμ : Within 0x180000000000000000000000000000000000000000000000000000000000000000000000000000000000000000000002 μ) (hκ : Agree μ ω d) : Agree μ ω (Dev.cellUnpark d cn) := by
  unfold Dev.cellUnpark
  repeat' (first | with_reducible assumption | intro _ | (simp only [id_eq]) | (with_reducible refine Dev.eachCore_kp (hf := ?_) (hμ := hμ.up (by decide)) (hκ := ?_) ..) | (with_reducible refine Dev.setCell_kp (hμ := hμ.up (by decide)) (hκ := ?_) ..) | (with_reducible refine Dev.setCore_kp (hμ := hμ.up (by decide)) (hκ := ?_) ..) | (with_reducible refine Dev.setPark_kp (hμ := hμ.up (by decide)) (hκ := ?_) ..) | (with_reducible apply Agree.ite) | split)

theorem Dev.cellReset_kp {μ : Nat} {ω : Dev} (d : Dev) (cn : Nat)  (hμ : Within 0x800000020b8000245000000000000000000000000000000000000000000008000000000000000000000000000000000000000042 μ) (hκ : Agree μ ω d) : Agree μ ω (Dev.cellReset d cn) := by
  unfold Dev.cellReset
  repeat' (first | with_reducible assumption | intro _ | (simp only [id_eq]) | (with_reducible refine Dev.eachCore_kp (hf := ?_) (hμ := hμ.up (by decide)) (hκ := ?_) ..) | (with_reducible refine Dev.put_kp (hf := by first | assumption | exact hμ.bit rfl) (hμ := hμ.up (by decide)) (hκ := ?_) ..) | (with_reducible refine Dev.setCore_kp (hμ := hμ.up (by decide)) (hκ := ?_) ..) | (with_reducible refine Dev.spInvalid_kp (hμ := hμ.up (by decide)) (hκ := ?_) ..) | (with_reducible refine Dev.withdrawSlots_kp (hμ := hμ.up (by decide)) (hκ := ?_) ..) | (with_reducible apply Agree.ite) | split)

theorem Dev.cellResetDone_kp {μ : Nat} {ω : Dev} (d : Dev) (cn : Nat)  (hμ : Within 0x80000002184000245000000000000000000000000000000000000000000008000000000c00000000000000000000000000000042 μ) (hκ : Agree μ ω d) : Agree μ ω (Dev.cellResetDone d cn) := by
  unfold Dev.cellResetDone
  repeat' (first | with_reducible assumption | intro _ | (simp only [id_eq]) | (with_reducible refine Dev.parkNow_kp (hμ := hμ.up (by decide)) (hκ := ?_) ..) | (with_reducible refine Dev.put_kp (hf := by first | assumption | exact hμ.bit rfl) (hμ := hμ.up (by decide)) (hκ := ?_) ..) | (with_reducible refine Dev.setCell_kp (hμ := hμ.up (by decide)) (hκ := ?_) ..) | (with_reducible apply Agree.ite) | split)

theorem Dev.cellCtlWrite_kp {μ : Nat} {ω : Dev} (d : Dev) (die : Nat) (n : Nat) (v : Nat)  (hμ : Within 0x800000021bc000245000000000000000000000000000000000000000000008000000000c00000000000000000000000000000042 μ) (hκ : Agree μ ω d) : Agree μ ω (Dev.cellCtlWrite d die n v) := by
  unfold Dev.cellCtlWrite
  repeat' (first | with_reducible assumption | intro _ | (simp only [id_eq]) | (with_reducible refine Dev.cellPark_kp (hμ := hμ.up (by decide)) (hκ := ?_) ..) | (with_reducible refine Dev.cellReset_kp (hμ := hμ.up (by decide)) (hκ := ?_) ..) | (with_reducible refine Dev.cellUnpark_kp (hμ := hμ.up (by decide)) (hκ := ?_) ..) | (with_reducible apply Agree.ite) | (with_reducible apply Agree.foldl) | (with_reducible apply Agree.foldl_fst) | (with_reducible apply Agree.foldl_snd) | split)

theorem Dev.mapSet_kp {μ : Nat} {ω : Dev} (d : Dev) (die : Nat) (n : Nat) (s : Nat) (v : Nat)  (hμ : Within 0xb8000000000000000000000000000000000000000000000000000000000000000000000000000000000000000000088 μ) (hκ : Agree μ ω d) : Agree μ ω (Dev.mapSet d die n s v) := by
  unfold Dev.mapSet
  repeat' (first | with_reducible assumption | intro _ | (simp only [id_eq]) | (with_reducible refine Dev.put_kp (hf := by first | assumption | exact hμ.bit rfl) (hμ := hμ.up (by decide)) (hκ := ?_) ..) | (with_reducible refine Dev.setCore_kp (hμ := hμ.up (by decide)) (hκ := ?_) ..) | (with_reducible refine Dev.spInvalid_kp (hμ := hμ.up (by decide)) (hκ := ?_) ..) | (with_reducible apply Agree.ite) | split)

theorem Dev.mapWrite_kp {μ : Nat} {ω : Dev} (d : Dev) (die : Nat) (n : Nat) (v : Nat)  (hμ : Within 0xb8000000000000000000000000000000000000000000000000000000000000000000000000000000000000000000088 μ) (hκ : Agree μ ω d) : Agree μ ω (Dev.mapWrite d die n v) := by
  unfold Dev.mapWrite
  repeat' (first | with_reducible assumption | intro _ | (simp only [id_eq]) | (with_reducible refine Dev.mapSet_kp (hμ := hμ.up (by decide)) (hκ := ?_) ..) | (with_reducible apply Agree.ite) | split)

theorem Dev.pctlSet_kp {μ : Nat} {ω : Dev} (d : Dev) (die : Nat) (n : Nat) (s : Nat) (v : Nat)  (hμ : Within 0xe0 μ) (hκ : Agree μ ω d) : Agree μ ω (Dev.pctlSet d die n s v) := by
  unfold Dev.pctlSet
  repeat' (first | with_reducible assumption | intro _ | (simp only [id_eq]) | (with_reducible refine Dev.put_kp (hf := by first | assumption | exact hμ.bit rfl) (hμ := hμ.up (by decide)) (hκ := ?_) ..) | (with_reducible apply Agree.ite) | split)

theorem Dev.pctlWrite_kp {μ : Nat} {ω : Dev} (d : Dev) (die : Nat) (n : Nat) (v : Nat)  (hμ : Within 0xe0 μ) (hκ : Agree μ ω d) : Agree μ ω (Dev.pctlWrite d die n v) := by
  unfold Dev.pctlWrite
  repeat' (first | with_reducible assumption | intro _ | (simp only [id_eq]) | (with_reducible refine Dev.pctlSet_kp (hμ := hμ.up (by decide)) (hκ := ?_) ..) | (with_reducible apply Agree.ite) | split)

theorem Dev.loaderEnter_kp {μ : Nat} {ω : Dev} (d : Dev) (cn : Nat)  (hμ : Within 0x80000002080000245000000000000000000000000000000000000000000008000000000000000000000000000000000000000040 μ) (hκ : Agree μ ω d) : Agree μ ω (Dev.loaderEnter d cn) := by
  unfold Dev.loaderEnter
  repeat' (first | with_reducible assumption | intro _ | (simp only [id_eq]) | (with_reducible refine Dev.eachCore_kp (hf := ?_) (hμ := hμ.up (by decide)) (hκ := ?_) ..) | (with_reducible refine Dev.setCore_kp (hμ := hμ.up (by decide)) (hκ := ?_) ..) | (with_reducible refine Dev.withdrawSlots_kp (hμ := hμ.up (by decide)) (hκ := ?_) ..) | (with_reducible apply Agree.ite) | split)

theorem Dev.setTest_kp {μ : Nat} {ω : Dev} (d : Dev) (cn : Nat) (b : Bool)  (hμ : Within 0x80000000040000000000000000000000000000000000000000000000000000000000000000000000000000000000080 μ) (hκ : Agree μ ω d) : Agree μ ω (Dev.setTest d cn b) := by
  unfold Dev.setTest
  repeat' (first | with_reducible assumption | intro _ | (simp only [id_eq]) | (with_reducible refine Dev.eachCore_kp (hf := ?_) (hμ := hμ.up (by decide)) (hκ := ?_) ..) | (with_reducible refine Dev.put_kp (hf := by first | assumption | exact hμ.bit rfl) (hμ := hμ.up (by decide)) (hκ := ?_) ..) | (with_reducible refine Dev.setCore_kp (hμ := hμ.up (by decide)) (hκ := ?_) ..) | (with_reducible apply Agree.ite) | split)

theorem Dev.ldctlWrite_kp {μ : Nat} {ω : Dev} (d : Dev) (die : Nat) (n : Nat) (v : Nat)  (hμ : Within 0x800000020800002450400000000000000000000000000000000000000000080000000000000000000000000000000000000000c0 μ) (hκ : Agree μ ω d) : Agree μ ω (Dev.ldctlWrite d die n v) := by
  unfold Dev.ldctlWrite
  repeat' (first | with_reducible assumption | intro _ | (simp only [id_eq]) | (with_reducible refine Dev.loaderEnter_kp (hμ := hμ.up (by decide)) (hκ := ?_) ..) | (with_reducible refine Dev.setTest_kp (hμ := hμ.up (by decide)) (hκ := ?_) ..) | (with_reducible apply Agree.ite) | (with_reducible apply Agree.foldl) | (with_reducible apply Agree.foldl_fst) | (with_reducible apply Agree.foldl_snd) | split)

theorem Dev.prunWrite_kp {μ : Nat} {ω : Dev} (d : Dev) (die : Nat) (i : Nat) (v : Nat)  (hμ : Within 0x80000002180000245000000000000000000000000000000000000000000008000000000000000000000000000000000000040040 μ) (hκ : Agree μ ω d) : Agree μ ω (Dev.prunWrite d die i v) := by
  unfold Dev.prunWrite
  repeat' (first | with_reducible assumption | intro _ | (simp only [id_eq]) | (with_reducible refine Dev.planRun_kp (hμ := hμ.up (by decide)) (hκ := ?_) ..) | (with_reducible refine Dev.put_kp (hf := by first | assumption | exact hμ.bit rfl) (hμ := hμ.up (by decide)) (hκ := ?_) ..) | (with_reducible apply Agree.ite) | split)

theorem Dev.bcastCell_kp {μ : Nat} {ω : Dev} (d : Dev) (cn : Nat) (cmd : Nat)  (hμ : Within 0x80000002180000245000000000000000000000000000000000000000000008000000000000000000000000000000000000040040 μ) (hκ : Agree μ ω d) : Agree μ ω (Dev.bcastCell d cn cmd) := by
  unfold Dev.bcastCell
  repeat' (first | with_reducible assumption | intro _ | (simp only [id_eq]) | (with_reducible refine Dev.planRun_kp (hμ := hμ.up (by decide)) (hκ := ?_) ..) | (with_reducible apply Agree.ite) | split)

theorem Dev.ctlDrop_kp {μ : Nat} {ω : Dev} (d : Dev) (n : Nat)  (hμ : Within 0x2000000000000000000000000000000000000000000000000000000000000000000000000000000000000000000000000 μ) (hκ : Agree μ ω d) : Agree μ ω (Dev.ctlDrop d n) := by
  unfold Dev.ctlDrop
  repeat' (first | with_reducible assumption | intro _ | (simp only [id_eq]) | (simp only [Agree.set_ctl (hμ.bit (by decide))]) | (with_reducible apply Agree.ite) | split)

theorem Dev.ackRadd_kp {μ : Nat} {ω : Dev} (d : Dev) (home : Nat) (m : CtlMsg)  (hμ : Within 0x2000000000000000000000000000000000000000000000000000000000000000000000000000000000000000000000000 μ) (hκ : Agree μ ω d) : Agree μ ω (Dev.ackRadd d home m) := by
  unfold Dev.ackRadd
  repeat' (first | with_reducible assumption | intro _ | (simp only [id_eq]) | (with_reducible refine Dev.send_kp (hμ := hμ.up (by decide)) (hκ := ?_) ..) | (with_reducible apply Agree.ite) | split)

theorem Dev.bankRun_kp {μ : Nat} {ω : Dev} (d : Dev) (home : Nat) (m : CtlMsg)  (hμ : Within 0x80000002c00000245000000000000000000000000000000000000000000000000000000000000000000000e00000000000000000 μ) (hκ : Agree μ ω d) : Agree μ ω (Dev.bankRun d home m) := by
  unfold Dev.bankRun
  repeat' (first | with_reducible assumption | intro _ | (simp only [id_eq]) | (with_reducible refine Dev.ackRadd_kp (hμ := hμ.up (by decide)) (hκ := ?_) ..) | (with_reducible refine Dev.bankAdd_kp (hμ := hμ.up (by decide)) (hκ := ?_) ..) | (with_reducible refine Dev.bankArm_kp (hμ := hμ.up (by decide)) (hκ := ?_) ..) | (with_reducible refine Dev.bankSet_kp (hμ := hμ.up (by decide)) (hκ := ?_) ..) | (with_reducible refine Dev.bankWithdraw_kp (hμ := hμ.up (by decide)) (hκ := ?_) ..) | (with_reducible refine Dev.chkFail_kp (hμ := hμ.up (by decide)) (hκ := ?_) ..) | (with_reducible refine Dev.send_kp (hμ := hμ.up (by decide)) (hκ := ?_) ..) | (with_reducible apply Agree.ite) | split)

theorem Dev.coreRun_kp {μ : Nat} {ω : Dev} (d : Dev) (cn : Nat) (p : Nat) (m : CtlMsg)  (hμ : Within 0x80000000080000245000000000000000000000000000000000000000000000000000000000000000000000a00000000000000040 μ) (hκ : Agree μ ω d) : Agree μ ω (Dev.coreRun d cn p m) := by
  unfold Dev.coreRun
  repeat' (first | with_reducible assumption | intro _ | (simp only [id_eq]) | (with_reducible refine Dev.chkFail_kp (hμ := hμ.up (by decide)) (hκ := ?_) ..) | (with_reducible refine Dev.dbDiscard_kp (hμ := hμ.up (by decide)) (hκ := ?_) ..) | (with_reducible refine Dev.setCore_kp (hμ := hμ.up (by decide)) (hκ := ?_) ..) | (with_reducible apply Agree.ite) | split)

theorem Dev.trapEvent_kp {μ : Nat} {ω : Dev} (d : Dev) (die : Nat) (m : CtlMsg)  (hμ : Within 0x80000000000000345000000000000000000000000000000000000000000000000000000000000000000000000000000000000000 μ) (hκ : Agree μ ω d) : Agree μ ω (Dev.trapEvent d die m) := by
  unfold Dev.trapEvent
  repeat' (first | with_reducible assumption | intro _ | (simp only [id_eq]) | (with_reducible refine Dev.stwPost_kp (hμ := hμ.up (by decide)) (hκ := ?_) ..) | (with_reducible apply Agree.ite) | split)

theorem Dev.swWake_kp {μ : Nat} {ω : Dev} (d : Dev) (die : Nat) (m : CtlMsg)  (hμ : Within 0xc000000000000000000 μ) (hκ : Agree μ ω d) : Agree μ ω (Dev.swWake d die m) := by
  unfold Dev.swWake
  repeat' (first | with_reducible assumption | intro _ | (simp only [id_eq]) | (with_reducible refine Dev.put_kp (hf := by first | assumption | exact hμ.bit rfl) (hμ := hμ.up (by decide)) (hκ := ?_) ..) | (with_reducible apply Agree.ite) | split)

theorem Dev.engRun_kp {μ : Nat} {ω : Dev} (d : Dev) (die : Nat) (e : Nat) (m : CtlMsg)  (hμ : Within 0x80000010000000245000000000000000000000000000000000000000000000000000000000000000000000a00000000020000000 μ) (hκ : Agree μ ω d) : Agree μ ω (Dev.engRun d die e m) := by
  unfold Dev.engRun
  repeat' (first | with_reducible assumption | intro _ | (simp only [id_eq]) | (with_reducible refine Dev.chkFail_kp (hμ := hμ.up (by decide)) (hκ := ?_) ..) | (with_reducible refine Dev.engAck_kp (hμ := hμ.up (by decide)) (hκ := ?_) ..) | (with_reducible refine Dev.engWake_kp (hμ := hμ.up (by decide)) (hκ := ?_) ..) | (with_reducible apply Agree.ite) | split)

theorem Dev.dspRunMsg_kp {μ : Nat} {ω : Dev} (d : Dev) (die : Nat) (m : CtlMsg)  (hμ : Within 0x80000040000000245000000000000000000000000000000000000000000000000000000000000000000000a00200000000000000 μ) (hκ : Agree μ ω d) : Agree μ ω (Dev.dspRunMsg d die m) := by
  unfold Dev.dspRunMsg
  repeat' (first | with_reducible assumption | intro _ | (simp only [id_eq]) | (with_reducible refine Dev.chkFail_kp (hμ := hμ.up (by decide)) (hκ := ?_) ..) | (with_reducible refine Dev.dspAck_kp (hμ := hμ.up (by decide)) (hκ := ?_) ..) | (with_reducible refine Dev.dspWake_kp (hμ := hμ.up (by decide)) (hκ := ?_) ..) | (with_reducible apply Agree.ite) | split)

theorem Dev.rangeWrite_kp {μ : Nat} {ω : Dev} (d : Dev) (die : Nat) (i : Nat) (v : Nat)  (hμ : Within 0x80200000000000000000 μ) (hκ : Agree μ ω d) : Agree μ ω (Dev.rangeWrite d die i v) := by
  unfold Dev.rangeWrite
  repeat' (first | with_reducible assumption | intro _ | (simp only [id_eq]) | (with_reducible refine Dev.setKey_kp _ _ _ _ _ _ (by first | assumption | exact hμ.bit (by decide) | exact hall _) ?_) | (with_reducible refine Dev.setRaw_kp _ _ _ (by assumption) ?_) | (with_reducible refine Dev.put_kp (hf := by first | assumption | exact hμ.bit rfl) (hμ := hμ.up (by decide)) (hκ := ?_) ..) | (with_reducible apply Agree.ite) | split)

theorem Dev.bcastTo_kp {μ : Nat} {ω : Dev} (d : Dev) (die : Nat) (mask : Nat) (cmd : Nat)  (hμ : Within 0x2000000000000000000000000000000000000000000000000000000000000000000000000000000000000000000000000 μ) (hκ : Agree μ ω d) : Agree μ ω (Dev.bcastTo d die mask cmd) := by
  unfold Dev.bcastTo
  repeat' (first | with_reducible assumption | intro _ | (simp only [id_eq]) | (with_reducible refine Dev.send_kp (hμ := hμ.up (by decide)) (hκ := ?_) ..) | (with_reducible apply Agree.ite) | (with_reducible apply Agree.foldl) | (with_reducible apply Agree.foldl_fst) | (with_reducible apply Agree.foldl_snd) | split)

theorem Dev.bcastWrite_kp {μ : Nat} {ω : Dev} (d : Dev) (die : Nat) (v : Nat)  (hμ : Within 0x2000000000000000000000000000000000000000000000000000000000000000000000000000000000000000000000000 μ) (hκ : Agree μ ω d) : Agree μ ω (Dev.bcastWrite d die v) := by
  unfold Dev.bcastWrite
  repeat' (first | with_reducible assumption | intro _ | (simp only [id_eq]) | (with_reducible refine Dev.bcastTo_kp (hμ := hμ.up (by decide)) (hκ := ?_) ..) | (with_reducible apply Agree.ite) | split)

theorem Dev.swWithdraw_kp {μ : Nat} {ω : Dev} (d : Dev) (die : Nat)  (hμ : Within 0x2000000000000000000000000000000000000000000000000000000000000000000000000000004000000000000000000 μ) (hκ : Agree μ ω d) : Agree μ ω (Dev.swWithdraw d die) := by
  unfold Dev.swWithdraw
  repeat' (first | with_reducible assumption | intro _ | (simp only [id_eq]) | (with_reducible refine Dev.put_kp (hf := by first | assumption | exact hμ.bit rfl) (hμ := hμ.up (by decide)) (hκ := ?_) ..) | (with_reducible refine Dev.sendOp_kp (hμ := hμ.up (by decide)) (hκ := ?_) ..) | (with_reducible apply Agree.ite) | split)

theorem Dev.swArm_kp {μ : Nat} {ω : Dev} (d : Dev) (die : Nat)  (hμ : Within 0x3000000000000000000000000000000000000000000000000000000000000000000000000000004000000000000000000 μ) (hκ : Agree μ ω d) : Agree μ ω (Dev.swArm d die) := by
  unfold Dev.swArm
  repeat' (first | with_reducible assumption | intro _ | (simp only [id_eq]) | (simp only [Agree.set_swGen (hμ.bit (by decide))]) | (with_reducible refine Dev.put_kp (hf := by first | assumption | exact hμ.bit rfl) (hμ := hμ.up (by decide)) (hκ := ?_) ..) | (with_reducible refine Dev.sendOp_kp (hμ := hμ.up (by decide)) (hκ := ?_) ..) | (with_reducible refine Dev.swWithdraw_kp (hμ := hμ.up (by decide)) (hκ := ?_) ..) | (with_reducible apply Agree.ite) | split)

theorem Dev.swCtlWrite_kp {μ : Nat} {ω : Dev} (d : Dev) (die : Nat) (v : Nat)  (hμ : Within 0x3000000000000000000000000000000000000000000000000000000000000000000000000000004000000000000000000 μ) (hκ : Agree μ ω d) : Agree μ ω (Dev.swCtlWrite d die v) := by
  unfold Dev.swCtlWrite
  repeat' (first | with_reducible assumption | intro _ | (simp only [id_eq]) | (with_reducible refine Dev.put_kp (hf := by first | assumption | exact hμ.bit rfl) (hμ := hμ.up (by decide)) (hκ := ?_) ..) | (with_reducible refine Dev.swArm_kp (hμ := hμ.up (by decide)) (hκ := ?_) ..) | (with_reducible refine Dev.swWithdraw_kp (hμ := hμ.up (by decide)) (hκ := ?_) ..) | (with_reducible apply Agree.ite) | split)

theorem Dev.hubDbSet_kp {μ : Nat} {ω : Dev} (d : Dev) (die : Nat) (s : Nat) (v : Nat)  (hμ : Within 0xc000000000000000000000000000000000000000000 μ) (hκ : Agree μ ω d) : Agree μ ω (Dev.hubDbSet d die s v) := by
  unfold Dev.hubDbSet
  repeat' (first | with_reducible assumption | intro _ | (simp only [id_eq]) | (with_reducible refine Dev.put_kp (hf := by first | assumption | exact hμ.bit rfl) (hμ := hμ.up (by decide)) (hκ := ?_) ..) | (with_reducible apply Agree.ite) | split)

theorem Dev.hubDbWrite_kp {μ : Nat} {ω : Dev} (d : Dev) (die : Nat) (v : Nat)  (hμ : Within 0xc000000000000000000000000000000000000000000 μ) (hκ : Agree μ ω d) : Agree μ ω (Dev.hubDbWrite d die v) := by
  unfold Dev.hubDbWrite
  repeat' (first | with_reducible assumption | intro _ | (simp only [id_eq]) | (with_reducible refine Dev.hubDbSet_kp (hμ := hμ.up (by decide)) (hκ := ?_) ..) | (with_reducible apply Agree.ite) | split)

theorem Dev.fenceWrite_kp {μ : Nat} {ω : Dev} (d : Dev) (die : Nat) (r : Reg) (v : Nat) (hr : μ.testBit r.ctorIdx = true) (hμ : Within 0x0 μ) (hκ : Agree μ ω d) : Agree μ ω (Dev.fenceWrite d die r v) := by
  unfold Dev.fenceWrite
  repeat' (first | with_reducible assumption | intro _ | (simp only [id_eq]) | (with_reducible refine Dev.writeKey_kp _ _ _ _ _ _ _ (by first | assumption | exact hμ.bit (by decide) | exact hall _) ?_) | (with_reducible apply Agree.ite) | split)

theorem Dev.kmapWrite_kp {μ : Nat} {ω : Dev} (d : Dev) (die : Nat) (v : Nat)  (hμ : Within 0x400000000000000000000000000000000000000000 μ) (hκ : Agree μ ω d) : Agree μ ω (Dev.kmapWrite d die v) := by
  unfold Dev.kmapWrite
  repeat' (first | with_reducible assumption | intro _ | (simp only [id_eq]) | (with_reducible refine Dev.put_kp (hf := by first | assumption | exact hμ.bit rfl) (hμ := hμ.up (by decide)) (hκ := ?_) ..) | (with_reducible apply Agree.ite) | split)

theorem Dev.kmapClear_kp {μ : Nat} {ω : Dev} (d : Dev) (die : Nat) (k : Nat)  (hμ : Within 0x400000000000000000000000000000000000000000 μ) (hκ : Agree μ ω d) : Agree μ ω (Dev.kmapClear d die k) := by
  unfold Dev.kmapClear
  repeat' (first | with_reducible assumption | intro _ | (simp only [id_eq]) | (with_reducible refine Dev.put_kp (hf := by first | assumption | exact hμ.bit rfl) (hμ := hμ.up (by decide)) (hκ := ?_) ..) | (with_reducible apply Agree.ite) | split)

theorem Dev.knkOut_kp {μ : Nat} {ω : Dev} (d : Dev) (k : Nat)  (hμ : Within 0x8000000000000000000000000000000000000000000000000000000000000400000000000000000000000000000000000000000 μ) (hκ : Agree μ ω d) : Agree μ ω (Dev.knkOut d k) := by
  unfold Dev.knkOut
  repeat' (first | with_reducible assumption | intro _ | (simp only [id_eq]) | (simp only [Agree.set_mapUpd (hμ.bit (by decide))]) | (with_reducible refine Dev.kmapClear_kp (hμ := hμ.up (by decide)) (hκ := ?_) ..) | (with_reducible apply Agree.ite) | split)

theorem Dev.knkUp_kp {μ : Nat} {ω : Dev} (d : Dev) (k : Nat)  (hμ : Within 0x8000000000000000000000000000000000000000000000000000000000000400000000000000000000000000000000000000000 μ) (hκ : Agree μ ω d) : Agree μ ω (Dev.knkUp d k) := by
  unfold Dev.knkUp
  repeat' (first | with_reducible assumption | intro _ | (simp only [id_eq]) | (simp only [Agree.set_mapUpd (hμ.bit (by decide))]) | (with_reducible refine Dev.put_kp (hf := by first | assumption | exact hμ.bit rfl) (hμ := hμ.up (by decide)) (hκ := ?_) ..) | (with_reducible apply Agree.ite) | (with_reducible apply Agree.foldl) | (with_reducible apply Agree.foldl_fst) | (with_reducible apply Agree.foldl_snd) | split)

theorem Dev.lostPkt_kp {μ : Nat} {ω : Dev} (d : Dev) (die : Nat) (p : Pkt) (hμ : Within 0x4000000000000000000000000000000000000000000000000000000800000000000000000000000000000000000000000 μ) (hκ : Agree μ ω d) :
    Agree μ ω (Dev.lostPkt d die p) := by
  cases p <;> unfold Dev.lostPkt
  all_goals repeat' (first | with_reducible assumption | intro _ | (simp only [id_eq]) | (with_reducible refine Dev.countSat_kp (hf := by first | assumption | exact hμ.bit rfl) (hμ := hμ.up (by decide)) (hκ := ?_) ..) | (with_reducible refine Dev.netPut_kp (hμ := hμ.up (by decide)) (hκ := ?_) ..) | (with_reducible refine Dev.pathFail_kp (hμ := hμ.up (by decide)) (hκ := ?_) ..) | (with_reducible apply Agree.ite) | split)

theorem Dev.mapUpdate_kp {μ : Nat} {ω : Dev} (d : Dev) (die : Nat) (k : Nat) (pkts : List Nat) (msgs : List Nat)  (hμ : Within 0x8000006000000000000000000000000000000000000000000000000000000c00000000000000000000000000000000000000000 μ) (hκ : Agree μ ω d) : Agree μ ω (Dev.mapUpdate d die k pkts msgs) := by
  unfold Dev.mapUpdate
  repeat' (first | with_reducible assumption | intro _ | (simp only [id_eq]) | (simp only [Agree.set_mapUpd (hμ.bit (by decide))]) | (simp only [Agree.set_net_ctl (hμ.bit (by decide)) (hμ.bit (by decide))]) | (with_reducible refine Dev.kmapClear_kp (hμ := hμ.up (by decide)) (hκ := ?_) ..) | (with_reducible refine Dev.lostPkt_kp (hμ := hμ.up (by decide)) (hκ := ?_) ..) | (with_reducible apply Agree.ite) | (with_reducible apply Agree.foldl) | (with_reducible apply Agree.foldl_fst) | (with_reducible apply Agree.foldl_snd) | split)

theorem Dev.setFlink_kp {μ : Nat} {ω : Dev} (d : Dev) (die : Nat) (inst : Nat) (l : FLink)  (hμ : Within 0x1000000000000000000000000000000000000000000000000000000000000000000000000000000000000000000000000000000 μ) (hκ : Agree μ ω d) : Agree μ ω (Dev.setFlink d die inst l) := by
  unfold Dev.setFlink
  repeat' (first | with_reducible assumption | intro _ | (simp only [id_eq]) | (simp only [Agree.set_flinks (hμ.bit (by decide))]) | (with_reducible refine Dev.put_kp (hf := by first | assumption | exact hμ.bit rfl) (hμ := hμ.up (by decide)) (hκ := ?_) ..) | (with_reducible apply Agree.ite) | split)

theorem Dev.setKnk_kp {μ : Nat} {ω : Dev} (d : Dev) (k : Nat) (x : Knk)  (hμ : Within 0x2000000000000000000000000000000000000000000000000000000000000000000000000000000000000000000000000000000 μ) (hκ : Agree μ ω d) : Agree μ ω (Dev.setKnk d k x) := by
  unfold Dev.setKnk
  repeat' (first | with_reducible assumption | intro _ | (simp only [id_eq]) | (simp only [Agree.set_knks (hμ.bit (by decide))]) | (with_reducible refine Dev.put_kp (hf := by first | assumption | exact hμ.bit rfl) (hμ := hμ.up (by decide)) (hκ := ?_) ..) | (with_reducible apply Agree.ite) | split)

theorem Dev.bothEnds_kp {μ : Nat} {ω : Dev} (d : Dev) (k : Nat) (f : Dev → Nat → Nat → Dev)
    (hf : ∀ a0 a1 a2, Agree μ ω a0 → Agree μ ω (f a0 a1 a2)) (hμ : Within 0x0 μ) (hκ : Agree μ ω d) : Agree μ ω (Dev.bothEnds d k f) :=
  hf _ _ _ (hf _ _ _ hκ)

theorem Dev.knkState_kp {μ : Nat} {ω : Dev} (d : Dev) (k : Nat) (st : Nat)  (hμ : Within 0x200000000000000000000000000000000000000000000 μ) (hκ : Agree μ ω d) : Agree μ ω (Dev.knkState d k st) := by
  unfold Dev.knkState
  repeat' (first | with_reducible assumption | intro _ | (simp only [id_eq]) | (with_reducible refine Dev.bothEnds_kp (hf := ?_) (hμ := hμ.up (by decide)) (hκ := ?_) ..) | (with_reducible refine Dev.put_kp (hf := by first | assumption | exact hμ.bit rfl) (hμ := hμ.up (by decide)) (hκ := ?_) ..) | (with_reducible apply Agree.ite) | split)

theorem Dev.knkRec_kp {μ : Nat} {ω : Dev} (d : Dev) (k : Nat) (code : Nat)  (hμ : Within 0x80000000000000245000000000000000000000000000000000000000000000000000000000000000000000000000000000000000 μ) (hκ : Agree μ ω d) : Agree μ ω (Dev.knkRec d k code) := by
  unfold Dev.knkRec
  repeat' (first | with_reducible assumption | intro _ | (simp only [id_eq]) | (with_reducible refine Dev.bothEnds_kp (hf := ?_) (hμ := hμ.up (by decide)) (hκ := ?_) ..) | (with_reducible refine Dev.post_kp (hμ := hμ.up (by decide)) (hκ := ?_) ..) | (with_reducible apply Agree.ite) | split)

theorem Dev.knkFull_kp {μ : Nat} {ω : Dev} (d : Dev) (k : Nat) (qretry : Bool) (wretry : Bool)  (hμ : Within 0xa000000000000000000000000000000000000000000000000000000000200400000000000000000000000000000000000000000 μ) (hκ : Agree μ ω d) : Agree μ ω (Dev.knkFull d k qretry wretry) := by
  unfold Dev.knkFull
  repeat' (first | with_reducible assumption | intro _ | (simp only [id_eq]) | (with_reducible refine Dev.knkOut_kp (hμ := hμ.up (by decide)) (hκ := ?_) ..) | (with_reducible refine Dev.knkState_kp (hμ := hμ.up (by decide)) (hκ := ?_) ..) | (with_reducible refine Dev.setKnk_kp (hμ := hμ.up (by decide)) (hκ := ?_) ..) | (with_reducible apply Agree.ite) | split)

theorem Dev.knkRecover_kp {μ : Nat} {ω : Dev} (d : Dev) (k : Nat)  (hμ : Within 0x2000000000000000000000000000000000000000000000000000000000200000000000000000000000000000000000000000000 μ) (hκ : Agree μ ω d) : Agree μ ω (Dev.knkRecover d k) := by
  unfold Dev.knkRecover
  repeat' (first | with_reducible assumption | intro _ | (simp only [id_eq]) | (with_reducible refine Dev.knkState_kp (hμ := hμ.up (by decide)) (hκ := ?_) ..) | (with_reducible refine Dev.setKnk_kp (hμ := hμ.up (by decide)) (hκ := ?_) ..) | (with_reducible apply Agree.ite) | split)

theorem Dev.knkDown_kp {μ : Nat} {ω : Dev} (d : Dev) (k : Nat)  (hμ : Within 0x8a000000000000245000000000000000000000000000000000000000000200400000000000000000000000000000000000000000 μ) (hκ : Agree μ ω d) : Agree μ ω (Dev.knkDown d k) := by
  unfold Dev.knkDown
  repeat' (first | with_reducible assumption | intro _ | (simp only [id_eq]) | (with_reducible refine Dev.knkOut_kp (hμ := hμ.up (by decide)) (hκ := ?_) ..) | (with_reducible refine Dev.knkRec_kp (hμ := hμ.up (by decide)) (hκ := ?_) ..) | (with_reducible refine Dev.knkState_kp (hμ := hμ.up (by decide)) (hκ := ?_) ..) | (with_reducible refine Dev.setKnk_kp (hμ := hμ.up (by decide)) (hκ := ?_) ..) | (with_reducible apply Agree.ite) | split)

theorem Dev.knkClear_kp {μ : Nat} {ω : Dev} (d : Dev) (k : Nat)  (hμ : Within 0x200000000000000000000000000000000000000000000 μ) (hκ : Agree μ ω d) : Agree μ ω (Dev.knkClear d k) := by
  unfold Dev.knkClear
  repeat' (first | with_reducible assumption | intro _ | (simp only [id_eq]) | (with_reducible refine Dev.bothEnds_kp (hf := ?_) (hμ := hμ.up (by decide)) (hκ := ?_) ..) | (with_reducible refine Dev.put_kp (hf := by first | assumption | exact hμ.bit rfl) (hμ := hμ.up (by decide)) (hκ := ?_) ..) | (with_reducible apply Agree.ite) | split)

theorem Dev.knkCmd_kp {μ : Nat} {ω : Dev} (d : Dev) (k : Nat) (cmd : Nat)  (hμ : Within 0x8a000000000000245000000000000000000000000000000000000000000200400000000000000000000000000000000000000000 μ) (hκ : Agree μ ω d) : Agree μ ω (Dev.knkCmd d k cmd) := by
  unfold Dev.knkCmd
  repeat' (first | with_reducible assumption | intro _ | (simp only [id_eq]) | (with_reducible refine Dev.knkClear_kp (hμ := hμ.up (by decide)) (hκ := ?_) ..) | (with_reducible refine Dev.knkDown_kp (hμ := hμ.up (by decide)) (hκ := ?_) ..) | (with_reducible refine Dev.knkFull_kp (hμ := hμ.up (by decide)) (hκ := ?_) ..) | (with_reducible refine Dev.knkRecover_kp (hμ := hμ.up (by decide)) (hκ := ?_) ..) | (with_reducible apply Agree.ite) | split)

theorem Dev.knkCtlWrite_kp {μ : Nat} {ω : Dev} (d : Dev) (die : Nat) (inst : Nat) (v : Nat)  (hμ : Within 0x8e000000000000245000000000000000000000000000000000000000000300400000000000000000000000000000000000000000 μ) (hκ : Agree μ ω d) : Agree μ ω (Dev.knkCtlWrite d die inst v) := by
  unfold Dev.knkCtlWrite
  repeat' (first | with_reducible assumption | intro _ | (simp only [id_eq]) | (simp only [Agree.set_knkPend (hμ.bit (by decide))]) | (with_reducible refine Dev.knkCmd_kp (hμ := hμ.up (by decide)) (hκ := ?_) ..) | (with_reducible refine Dev.put_kp (hf := by first | assumption | exact hμ.bit rfl) (hμ := hμ.up (by decide)) (hκ := ?_) ..) | (with_reducible apply Agree.ite) | split)

theorem Dev.knkEnded_kp {μ : Nat} {ω : Dev} (d : Dev) (k : Nat)  (hμ : Within 0x8e000000000000245000000000000000000000000000000000000000000300400000000000000000000000000000000000000000 μ) (hκ : Agree μ ω d) : Agree μ ω (Dev.knkEnded d k) := by
  unfold Dev.knkEnded
  repeat' (first | with_reducible assumption | intro _ | (simp only [id_eq]) | (simp only [Agree.set_knkPend (hμ.bit (by decide))]) | (with_reducible refine Dev.bothEnds_kp (hf := ?_) (hμ := hμ.up (by decide)) (hκ := ?_) ..) | (with_reducible refine Dev.knkCmd_kp (hμ := hμ.up (by decide)) (hκ := ?_) ..) | (with_reducible refine Dev.put_kp (hf := by first | assumption | exact hμ.bit rfl) (hμ := hμ.up (by decide)) (hκ := ?_) ..) | (with_reducible apply Agree.ite) | split)

theorem Dev.knkActive_kp {μ : Nat} {ω : Dev} (d : Dev) (die : Nat) (i : Nat)  (hμ : Within 0x1200000000000000000000000000000000000000000000 μ) (hκ : Agree μ ω d) : Agree μ ω (Dev.knkActive d die i) := by
  unfold Dev.knkActive
  repeat' (first | with_reducible assumption | intro _ | (simp only [id_eq]) | (with_reducible refine Dev.put_kp (hf := by first | assumption | exact hμ.bit rfl) (hμ := hμ.up (by decide)) (hκ := ?_) ..) | (with_reducible apply Agree.ite) | split)

theorem Dev.knkMargs_kp {μ : Nat} {ω : Dev} (d : Dev) (die : Nat) (i : Nat) (m : Nat) (margs : List (Nat × Nat))  (hμ : Within 0x80000000000000000000000000000000000000000000000 μ) (hκ : Agree μ ω d) : Agree μ ω (Dev.knkMargs d die i m margs) := by
  unfold Dev.knkMargs
  repeat' (first | with_reducible assumption | intro _ | (simp only [id_eq]) | (with_reducible refine Dev.put_kp (hf := by first | assumption | exact hμ.bit rfl) (hμ := hμ.up (by decide)) (hκ := ?_) ..) | (with_reducible apply Agree.ite) | (with_reducible apply Agree.foldl) | (with_reducible apply Agree.foldl_fst) | (with_reducible apply Agree.foldl_snd) | split)

theorem Dev.knkEnterUp_kp {μ : Nat} {ω : Dev} (d : Dev) (k : Nat) (fresh : Bool)  (hμ : Within 0x8f000000000000245000000000000000000000000000000000000000000300400000000000000000000000000000000000000000 μ) (hκ : Agree μ ω d) : Agree μ ω (Dev.knkEnterUp d k fresh) := by
  unfold Dev.knkEnterUp
  repeat' (first | with_reducible assumption | intro _ | (simp only [id_eq]) | (with_reducible refine Dev.bothEnds_kp (hf := ?_) (hμ := hμ.up (by decide)) (hκ := ?_) ..) | (with_reducible refine Dev.knkEnded_kp (hμ := hμ.up (by decide)) (hκ := ?_) ..) | (with_reducible refine Dev.knkRec_kp (hμ := hμ.up (by decide)) (hκ := ?_) ..) | (with_reducible refine Dev.knkState_kp (hμ := hμ.up (by decide)) (hκ := ?_) ..) | (with_reducible refine Dev.knkUp_kp (hμ := hμ.up (by decide)) (hκ := ?_) ..) | (with_reducible refine Dev.setFlink_kp (hμ := hμ.up (by decide)) (hκ := ?_) ..) | (with_reducible refine Dev.setKnk_kp (hμ := hμ.up (by decide)) (hκ := ?_) ..) | (with_reducible apply Agree.ite) | split)

theorem Dev.knkStepEnd_kp {μ : Nat} {ω : Dev} (d : Dev) (k : Nat) (a : KnkRes) (b : KnkRes)  (hμ : Within 0x8f000000000000245000000000000000000000000000000000000000081f80400000000000000000000000000000000000000000 μ) (hκ : Agree μ ω d) : Agree μ ω (Dev.knkStepEnd d k a b) := by
  unfold Dev.knkStepEnd
  repeat' (first | with_reducible assumption | intro _ | (simp only [id_eq]) | (with_reducible refine Dev.bothEnds_kp (hf := ?_) (hμ := hμ.up (by decide)) (hκ := ?_) ..) | (with_reducible refine Dev.knkActive_kp (hμ := hμ.up (by decide)) (hκ := ?_) ..) | (with_reducible refine Dev.knkDown_kp (hμ := hμ.up (by decide)) (hκ := ?_) ..) | (with_reducible refine Dev.knkEnded_kp (hμ := hμ.up (by decide)) (hκ := ?_) ..) | (with_reducible refine Dev.knkEnterUp_kp (hμ := hμ.up (by decide)) (hκ := ?_) ..) | (with_reducible refine Dev.knkFull_kp (hμ := hμ.up (by decide)) (hκ := ?_) ..) | (with_reducible refine Dev.knkMargs_kp (hμ := hμ.up (by decide)) (hκ := ?_) ..) | (with_reducible refine Dev.knkRec_kp (hμ := hμ.up (by decide)) (hκ := ?_) ..) | (with_reducible refine Dev.knkState_kp (hμ := hμ.up (by decide)) (hκ := ?_) ..) | (with_reducible refine Dev.put_kp (hf := by first | assumption | exact hμ.bit rfl) (hμ := hμ.up (by decide)) (hκ := ?_) ..) | (with_reducible refine Dev.setKnk_kp (hμ := hμ.up (by decide)) (hκ := ?_) ..) | (with_reducible apply Agree.ite) | split)

theorem Dev.knkQualEnd_kp {μ : Nat} {ω : Dev} (d : Dev) (k : Nat) (ea : Nat) (eb : Nat)  (hμ : Within 0x8f000000000000245000000000000000000000000000000000000000004300400000000000000000000000000000000000000000 μ) (hκ : Agree μ ω d) : Agree μ ω (Dev.knkQualEnd d k ea eb) := by
  unfold Dev.knkQualEnd
  repeat' (first | with_reducible assumption | intro _ | (simp only [id_eq]) | (with_reducible refine Dev.bothEnds_kp (hf := ?_) (hμ := hμ.up (by decide)) (hκ := ?_) ..) | (with_reducible refine Dev.knkDown_kp (hμ := hμ.up (by decide)) (hκ := ?_) ..) | (with_reducible refine Dev.knkEnded_kp (hμ := hμ.up (by decide)) (hκ := ?_) ..) | (with_reducible refine Dev.knkEnterUp_kp (hμ := hμ.up (by decide)) (hκ := ?_) ..) | (with_reducible refine Dev.knkFull_kp (hμ := hμ.up (by decide)) (hκ := ?_) ..) | (with_reducible refine Dev.knkRec_kp (hμ := hμ.up (by decide)) (hκ := ?_) ..) | (with_reducible refine Dev.put_kp (hf := by first | assumption | exact hμ.bit rfl) (hμ := hμ.up (by decide)) (hκ := ?_) ..) | (with_reducible apply Agree.ite) | split)

theorem Dev.hdrCheck_kp {μ : Nat} {ω : Dev} (d : Dev) (h : Bytes)  (hμ : Within 0x4000000000000000000000000000000000000000000000000000000000000000000000000000000000000000000000000 μ) (hκ : Agree μ ω d) : Agree μ ω (Dev.hdrCheck d h) := by
  unfold Dev.hdrCheck
  repeat' (first | with_reducible assumption | intro _ | (simp only [id_eq]) | (with_reducible refine Dev.netPut_kp (hμ := hμ.up (by decide)) (hκ := ?_) ..) | (with_reducible apply Agree.ite) | split)

theorem Dev.knkStorm_kp {μ : Nat} {ω : Dev} (d : Dev) (die : Nat) (inst : Nat)  (hμ : Within 0x82000000000000245000000000000000000000000000000000000000000200000000000000000000000000000000000000000000 μ) (hκ : Agree μ ω d) : Agree μ ω (Dev.knkStorm d die inst) := by
  unfold Dev.knkStorm
  repeat' (first | with_reducible assumption | intro _ | (simp only [id_eq]) | (with_reducible refine Dev.knkRecover_kp (hμ := hμ.up (by decide)) (hκ := ?_) ..) | (with_reducible refine Dev.post_kp (hμ := hμ.up (by decide)) (hκ := ?_) ..) | (with_reducible refine Dev.put_kp (hf := by first | assumption | exact hμ.bit rfl) (hμ := hμ.up (by decide)) (hκ := ?_) ..) | (with_reducible apply Agree.ite) | split)

theorem Dev.knkFlit_kp {μ : Nat} {ω : Dev} (d : Dev) (die : Nat) (inst : Nat) (f : Bytes)  (hμ : Within 0x83000004000000245000000000000000000000000000000000000000330200000000000000000000000000000000000000000000 μ) (hκ : Agree μ ω d) : Agree μ ω (Dev.knkFlit d die inst f) := by
  unfold Dev.knkFlit
  repeat' (first | with_reducible assumption | intro _ | (simp only [id_eq]) | (with_reducible refine Dev.count64_kp (hlo := by first | assumption | exact hμ.bit rfl) (hhi := by first | assumption | exact hμ.bit rfl) (hμ := hμ.up (by decide)) (hκ := ?_) ..) | (with_reducible refine Dev.countSat_kp (hf := by first | assumption | exact hμ.bit rfl) (hμ := hμ.up (by decide)) (hκ := ?_) ..) | (with_reducible refine Dev.hdrCheck_kp (hμ := hμ.up (by decide)) (hκ := ?_) ..) | (with_reducible refine Dev.knkStorm_kp (hμ := hμ.up (by decide)) (hκ := ?_) ..) | (with_reducible refine Dev.setFlink_kp (hμ := hμ.up (by decide)) (hκ := ?_) ..) | (with_reducible apply Agree.ite) | (with_reducible apply Agree.foldl) | (with_reducible apply Agree.foldl_fst) | (with_reducible apply Agree.foldl_snd) | split)

theorem Dev.knkNakAgain_kp {μ : Nat} {ω : Dev} (d : Dev) (die : Nat) (inst : Nat)  (hμ : Within 0x1000000000000000000000000000000000000000000000000000000000000000000000000000000000000000000000000000000 μ) (hκ : Agree μ ω d) : Agree μ ω (Dev.knkNakAgain d die inst) := by
  unfold Dev.knkNakAgain
  repeat' (first | with_reducible assumption | intro _ | (simp only [id_eq]) | (with_reducible refine Dev.setFlink_kp (hμ := hμ.up (by decide)) (hκ := ?_) ..) | (with_reducible apply Agree.ite) | split)

theorem Dev.knkSignalLoss_kp {μ : Nat} {ω : Dev} (d : Dev) (die : Nat) (inst : Nat)  (hμ : Within 0x8e000000000000245000000000000000000000000000000000000000000300400000000000000000000000000000000000000000 μ) (hκ : Agree μ ω d) : Agree μ ω (Dev.knkSignalLoss d die inst) := by
  unfold Dev.knkSignalLoss
  repeat' (first | with_reducible assumption | intro _ | (simp only [id_eq]) | (with_reducible refine Dev.knkEnded_kp (hμ := hμ.up (by decide)) (hκ := ?_) ..) | (with_reducible refine Dev.knkOut_kp (hμ := hμ.up (by decide)) (hκ := ?_) ..) | (with_reducible refine Dev.post_kp (hμ := hμ.up (by decide)) (hκ := ?_) ..) | (with_reducible refine Dev.put_kp (hf := by first | assumption | exact hμ.bit rfl) (hμ := hμ.up (by decide)) (hκ := ?_) ..) | (with_reducible refine Dev.setKnk_kp (hμ := hμ.up (by decide)) (hκ := ?_) ..) | (with_reducible apply Agree.ite) | split)

theorem Dev.setSite_kp {μ : Nat} {ω : Dev} (d : Dev) (die : Nat) (s : Site)  (hμ : Within 0x10000000000000000000000000000000000000000000000000000000000000000000000000000000000000000000000000000000 μ) (hκ : Agree μ ω d) : Agree μ ω (Dev.setSite d die s) := by
  unfold Dev.setSite
  repeat' (first | with_reducible assumption | intro _ | (simp only [id_eq]) | (simp only [Agree.set_sites (hμ.bit (by decide))]) | (with_reducible refine Dev.put_kp (hf := by first | assumption | exact hμ.bit rfl) (hμ := hμ.up (by decide)) (hκ := ?_) ..) | (with_reducible apply Agree.ite) | split)

theorem Dev.modSite_kp {μ : Nat} {ω : Dev} (d : Dev) (die : Nat) (f : Site → Site)  (hμ : Within 0x10000000000000000000000000000000000000000000000000000000000000000000000000000000000000000000000000000000 μ) (hκ : Agree μ ω d) : Agree μ ω (Dev.modSite d die f) := by
  unfold Dev.modSite
  repeat' (first | with_reducible assumption | intro _ | (simp only [id_eq]) | (with_reducible refine Dev.setSite_kp (hμ := hμ.up (by decide)) (hκ := ?_) ..) | (with_reducible apply Agree.ite) | split)

theorem Dev.setAux_kp {μ : Nat} {ω : Dev} (d : Dev) (die : Nat) (st : Nat)  (hμ : Within 0x1000000000000000000000000000000000000000000000000 μ) (hκ : Agree μ ω d) : Agree μ ω (Dev.setAux d die st) := by
  unfold Dev.setAux
  repeat' (first | with_reducible assumption | intro _ | (simp only [id_eq]) | (with_reducible refine Dev.put_kp (hf := by first | assumption | exact hμ.bit rfl) (hμ := hμ.up (by decide)) (hκ := ?_) ..) | (with_reducible apply Agree.ite) | split)

theorem Dev.siteSend_kp {μ : Nat} {ω : Dev} (d : Dev) (die : Nat) (hdr : Bytes) (lines : List Bytes)  (hμ : Within 0x10000000000000000000000000000000000000000000000000000000000000000000000000000000000000000000000000000000 μ) (hκ : Agree μ ω d) : Agree μ ω (Dev.siteSend d die hdr lines) := by
  unfold Dev.siteSend
  repeat' (first | with_reducible assumption | intro _ | (simp only [id_eq]) | (with_reducible refine Dev.modSite_kp (hμ := hμ.up (by decide)) (hκ := ?_) ..) | (with_reducible apply Agree.ite) | split)

theorem Dev.siteDown_kp {μ : Nat} {ω : Dev} (d : Dev) (die : Nat) (cause : Nat)  (hμ : Within 0x90000004000000245000000000000000000000000000000000000009800000800000000000000000000000000000000000000000 μ) (hκ : Agree μ ω d) : Agree μ ω (Dev.siteDown d die cause) := by
  unfold Dev.siteDown
  repeat' (first | with_reducible assumption | intro _ | (simp only [id_eq]) | (with_reducible refine Dev.pathFail_kp (hμ := hμ.up (by decide)) (hκ := ?_) ..) | (with_reducible refine Dev.post_kp (hμ := hμ.up (by decide)) (hκ := ?_) ..) | (with_reducible refine Dev.put_kp (hf := by first | assumption | exact hμ.bit rfl) (hμ := hμ.up (by decide)) (hκ := ?_) ..) | (with_reducible refine Dev.setAux_kp (hμ := hμ.up (by decide)) (hκ := ?_) ..) | (with_reducible refine Dev.setSite_kp (hμ := hμ.up (by decide)) (hκ := ?_) ..) | (with_reducible apply Agree.ite) | (with_reducible apply Agree.foldl) | (with_reducible apply Agree.foldl_fst) | (with_reducible apply Agree.foldl_snd) | split)

theorem Dev.siteTrain_kp {μ : Nat} {ω : Dev} (d : Dev) (die : Nat)  (hμ : Within 0x10000004000000000000000000000000000000000000000000000009800000800000000000000000000000000000000000000000 μ) (hκ : Agree μ ω d) : Agree μ ω (Dev.siteTrain d die) := by
  unfold Dev.siteTrain
  repeat' (first | with_reducible assumption | intro _ | (simp only [id_eq]) | (with_reducible refine Dev.pathFail_kp (hμ := hμ.up (by decide)) (hκ := ?_) ..) | (with_reducible refine Dev.put_kp (hf := by first | assumption | exact hμ.bit rfl) (hμ := hμ.up (by decide)) (hκ := ?_) ..) | (with_reducible refine Dev.setAux_kp (hμ := hμ.up (by decide)) (hκ := ?_) ..) | (with_reducible refine Dev.setSite_kp (hμ := hμ.up (by decide)) (hκ := ?_) ..) | (with_reducible apply Agree.ite) | (with_reducible apply Agree.foldl) | (with_reducible apply Agree.foldl_fst) | (with_reducible apply Agree.foldl_snd) | split)

theorem Dev.siteCmd_kp {μ : Nat} {ω : Dev} (d : Dev) (die : Nat) (cmd : Nat)  (hμ : Within 0x90000004000000245000000000000000000000000000000000000009800000800000000000000000000000000000000000000000 μ) (hκ : Agree μ ω d) : Agree μ ω (Dev.siteCmd d die cmd) := by
  unfold Dev.siteCmd
  repeat' (first | with_reducible assumption | intro _ | (simp only [id_eq]) | (with_reducible refine Dev.siteDown_kp (hμ := hμ.up (by decide)) (hκ := ?_) ..) | (with_reducible refine Dev.siteTrain_kp (hμ := hμ.up (by decide)) (hκ := ?_) ..) | (with_reducible apply Agree.ite) | split)

theorem Dev.auxCtlWrite_kp {μ : Nat} {ω : Dev} (d : Dev) (die : Nat) (v : Nat)  (hμ : Within 0x90000004000000245000000000000000000000000000000000000009800000800000000000000000000000000000000000000000 μ) (hκ : Agree μ ω d) : Agree μ ω (Dev.auxCtlWrite d die v) := by
  unfold Dev.auxCtlWrite
  repeat' (first | with_reducible assumption | intro _ | (simp only [id_eq]) | (with_reducible refine Dev.modSite_kp (hμ := hμ.up (by decide)) (hκ := ?_) ..) | (with_reducible refine Dev.put_kp (hf := by first | assumption | exact hμ.bit rfl) (hμ := hμ.up (by decide)) (hκ := ?_) ..) | (with_reducible refine Dev.siteCmd_kp (hμ := hμ.up (by decide)) (hκ := ?_) ..) | (with_reducible apply Agree.ite) | split)

theorem Dev.siteEnded_kp {μ : Nat} {ω : Dev} (d : Dev) (die : Nat) (pend : Option Nat)  (hμ : Within 0x90000004000000245000000000000000000000000000000000000009800000800000000000000000000000000000000000000000 μ) (hκ : Agree μ ω d) : Agree μ ω (Dev.siteEnded d die pend) := by
  unfold Dev.siteEnded
  repeat' (first | with_reducible assumption | intro _ | (simp only [id_eq]) | (with_reducible refine Dev.modSite_kp (hμ := hμ.up (by decide)) (hκ := ?_) ..) | (with_reducible refine Dev.put_kp (hf := by first | assumption | exact hμ.bit rfl) (hμ := hμ.up (by decide)) (hκ := ?_) ..) | (with_reducible refine Dev.siteCmd_kp (hμ := hμ.up (by decide)) (hκ := ?_) ..) | (with_reducible apply Agree.ite) | split)

theorem Dev.siteUp_kp {μ : Nat} {ω : Dev} (d : Dev) (die : Nat) (fresh : Bool)  (hμ : Within 0x10000000000000000000000000000000000000000000000000000009800000000000000000000000000000000000000000000000 μ) (hκ : Agree μ ω d) : Agree μ ω (Dev.siteUp d die fresh) := by
  unfold Dev.siteUp
  repeat' (first | with_reducible assumption | intro _ | (simp only [id_eq]) | (with_reducible refine Dev.modSite_kp (hμ := hμ.up (by decide)) (hκ := ?_) ..) | (with_reducible refine Dev.put_kp (hf := by first | assumption | exact hμ.bit rfl) (hμ := hμ.up (by decide)) (hκ := ?_) ..) | (with_reducible refine Dev.setAux_kp (hμ := hμ.up (by decide)) (hκ := ?_) ..) | (with_reducible apply Agree.ite) | split)

theorem Dev.siteFail_kp {μ : Nat} {ω : Dev} (d : Dev) (die : Nat) (cause : Nat)  (hμ : Within 0x90000004000000245000000000000000000000000000000000000009800000800000000000000000000000000000000000000000 μ) (hκ : Agree μ ω d) : Agree μ ω (Dev.siteFail d die cause) := by
  unfold Dev.siteFail
  repeat' (first | with_reducible assumption | intro _ | (simp only [id_eq]) | (with_reducible refine Dev.siteDown_kp (hμ := hμ.up (by decide)) (hκ := ?_) ..) | (with_reducible refine Dev.siteEnded_kp (hμ := hμ.up (by decide)) (hκ := ?_) ..) | (with_reducible apply Agree.ite) | split)

theorem Dev.siteStepEnd_kp {μ : Nat} {ω : Dev} (d : Dev) (die : Nat) (r : SiteRes)  (hμ : Within 0x90000004000000245000000000000000000000000000000000000409800000800000000000000000000000000000000000000000 μ) (hκ : Agree μ ω d) : Agree μ ω (Dev.siteStepEnd d die r) := by
  unfold Dev.siteStepEnd
  repeat' (first | with_reducible assumption | intro _ | (simp only [id_eq]) | (with_reducible refine Dev.setKey_kp _ _ _ _ _ _ (by first | assumption | exact hμ.bit (by decide) | exact hall _) ?_) | (with_reducible refine Dev.setRaw_kp _ _ _ (by assumption) ?_) | (with_reducible refine Dev.modSite_kp (hμ := hμ.up (by decide)) (hκ := ?_) ..) | (with_reducible refine Dev.put_kp (hf := by first | assumption | exact hμ.bit rfl) (hμ := hμ.up (by decide)) (hκ := ?_) ..) | (with_reducible refine Dev.setAux_kp (hμ := hμ.up (by decide)) (hκ := ?_) ..) | (with_reducible refine Dev.siteEnded_kp (hμ := hμ.up (by decide)) (hκ := ?_) ..) | (with_reducible refine Dev.siteFail_kp (hμ := hμ.up (by decide)) (hκ := ?_) ..) | (with_reducible refine Dev.siteUp_kp (hμ := hμ.up (by decide)) (hκ := ?_) ..) | (with_reducible apply Agree.ite) | (with_reducible apply Agree.foldl) | (with_reducible apply Agree.foldl_fst) | (with_reducible apply Agree.foldl_snd) | split)

theorem Dev.siteRecover_kp {μ : Nat} {ω : Dev} (d : Dev) (die : Nat)  (hμ : Within 0x10000000000000000000000000000000000000000000000000000009000000000000000000000000000000000000000000000000 μ) (hκ : Agree μ ω d) : Agree μ ω (Dev.siteRecover d die) := by
  unfold Dev.siteRecover
  repeat' (first | with_reducible assumption | intro _ | (simp only [id_eq]) | (with_reducible refine Dev.modSite_kp (hμ := hμ.up (by decide)) (hκ := ?_) ..) | (with_reducible refine Dev.put_kp (hf := by first | assumption | exact hμ.bit rfl) (hμ := hμ.up (by decide)) (hκ := ?_) ..) | (with_reducible refine Dev.setAux_kp (hμ := hμ.up (by decide)) (hκ := ?_) ..) | (with_reducible apply Agree.ite) | split)

theorem Dev.siteSideband_kp {μ : Nat} {ω : Dev} (d : Dev) (die : Nat)  (hμ : Within 0x90000004000000245000000000000000000000000000000000000009800000800000000000000000000000000000000000000000 μ) (hκ : Agree μ ω d) : Agree μ ω (Dev.siteSideband d die) := by
  unfold Dev.siteSideband
  repeat' (first | with_reducible assumption | intro _ | (simp only [id_eq]) | (with_reducible refine Dev.siteDown_kp (hμ := hμ.up (by decide)) (hκ := ?_) ..) | (with_reducible apply Agree.ite) | split)

theorem Dev.siteAnswer_kp {μ : Nat} {ω : Dev} (d : Dev) (die : Nat) (a : SReq)  (hμ : Within 0x10000004000000000000000000000000000000000000000000000200000000000000000000000000000000000000000000000000 μ) (hκ : Agree μ ω d) : Agree μ ω (Dev.siteAnswer d die a) := by
  unfold Dev.siteAnswer
  repeat' (first | with_reducible assumption | intro _ | (simp only [id_eq]) | (with_reducible refine Dev.countSat_kp (hf := by first | assumption | exact hμ.bit rfl) (hμ := hμ.up (by decide)) (hκ := ?_) ..) | (with_reducible refine Dev.modSite_kp (hμ := hμ.up (by decide)) (hκ := ?_) ..) | (with_reducible refine Dev.respond_kp (hμ := hμ.up (by decide)) (hκ := ?_) ..) | (with_reducible apply Agree.ite) | split)

theorem Dev.siteFlit_kp {μ : Nat} {ω : Dev} (d : Dev) (die : Nat) (f : Bytes)  (hμ : Within 0x10000004000000000000000000000000000000000000000000000389000000000000000000000000000000000000000000000000 μ) (hκ : Agree μ ω d) : Agree μ ω (Dev.siteFlit d die f) := by
  unfold Dev.siteFlit
  repeat' (first | with_reducible assumption | intro _ | (simp only [id_eq]) | (with_reducible refine Dev.countSat_kp (hf := by first | assumption | exact hμ.bit rfl) (hμ := hμ.up (by decide)) (hκ := ?_) ..) | (with_reducible refine Dev.setSite_kp (hμ := hμ.up (by decide)) (hκ := ?_) ..) | (with_reducible refine Dev.siteAnswer_kp (hμ := hμ.up (by decide)) (hκ := ?_) ..) | (with_reducible refine Dev.siteRecover_kp (hμ := hμ.up (by decide)) (hκ := ?_) ..) | (with_reducible apply Agree.ite) | (with_reducible apply Agree.foldl) | (with_reducible apply Agree.foldl_fst) | (with_reducible apply Agree.foldl_snd) | split)

theorem Dev.windowReq_kp {μ : Nat} {ω : Dev} (d : Dev) (t : Txn) (g : Nat)  (hμ : Within 0x10000004000000000000000000000000000000000000000000000000000000800000000000000000000000000000000000000000 μ) (hκ : Agree μ ω d) : Agree μ ω (Dev.windowReq d t g) := by
  unfold Dev.windowReq
  repeat' (first | with_reducible assumption | intro _ | (simp only [id_eq]) | (with_reducible refine Dev.pathFail_kp (hμ := hμ.up (by decide)) (hκ := ?_) ..) | (with_reducible refine Dev.respond_kp (hμ := hμ.up (by decide)) (hκ := ?_) ..) | (with_reducible refine Dev.setSite_kp (hμ := hμ.up (by decide)) (hκ := ?_) ..) | (with_reducible refine Dev.siteSend_kp (hμ := hμ.up (by decide)) (hκ := ?_) ..) | (with_reducible apply Agree.ite) | split)

theorem Dev.windowTimeout_kp {μ : Nat} {ω : Dev} (d : Dev) (die : Nat)  (hμ : Within 0x10000004000000000000000000000000000000000000000000000009000000800000000000000000000000000000000000000000 μ) (hκ : Agree μ ω d) : Agree μ ω (Dev.windowTimeout d die) := by
  unfold Dev.windowTimeout
  repeat' (first | with_reducible assumption | intro _ | (simp only [id_eq]) | (with_reducible refine Dev.pathFail_kp (hμ := hμ.up (by decide)) (hκ := ?_) ..) | (with_reducible refine Dev.setSite_kp (hμ := hμ.up (by decide)) (hκ := ?_) ..) | (with_reducible refine Dev.siteRecover_kp (hμ := hμ.up (by decide)) (hκ := ?_) ..) | (with_reducible apply Agree.ite) | split)

theorem Dev.siteLines_kp {μ : Nat} {ω : Dev} (d : Dev) (die tag : Nat) (r : SReq) (js : List Nat) (hμ : Within 0x10000c000000000000000000000000000000000000000000000000000000000004000000000000000000000000000000000000 μ) (hκ : Agree μ ω d) :
    Agree μ ω (Dev.siteLines d die tag r js).2 := by
  have b_sqn := hμ.bit (i := 387) (by decide)
  induction js generalizing d with
  | nil => exact hκ
  | cons j js ih =>
    unfold Dev.siteLines
    rcases hd : d.lookup die (siteAcc die r.hdr j) with ⟨x, q, d1⟩
    have h1 := Dev.lookup_kp' hd (hμ.up (by decide)) hκ
    simp only
    split
    · exact h1
    · exact ih _ (Dev.netPut_kp (hμ := hμ.up (by decide)) (hκ := (Agree.set_sqn b_sqn _).mpr h1) ..)

theorem Dev.siteLines_kp' {μ : Nat} {ω : Dev} {d : Dev} {die tag : Nat} {r : SReq} {js : List Nat} {y0} {rd : Dev} (heq : Dev.siteLines d die tag r js = (y0, rd)) (hμ : Within 0x10000c000000000000000000000000000000000000000000000000000000000004000000000000000000000000000000000000 μ) (hκ : Agree μ ω d) : Agree μ ω rd := by
  have k := Dev.siteLines_kp (μ := μ) (ω := ω) d die tag r js hμ hκ; rw [heq] at k; exact k

theorem Dev.siteRequest_kp {μ : Nat} {ω : Dev} (d : Dev) (die : Nat) (hμ : Within 0x1010000c000000000000000000000000000000000000000000000000000000000004000000000000000000000000000000000000 μ) (hκ : Agree μ ω d) : Agree μ ω (d.siteRequest die) := by
  have hm : ∀ (d1 : Dev), Agree μ ω d1 → Agree μ ω { d with krg := d1.krg, rf := d1.rf } := by
    intro d1 h1
    have g := (Agree.set_krg (hμ.bit (by decide)) d1.krg).mpr hκ
    refine Agree.setRf _ ?_ g
    have e1 := congrArg Dev.rf h1.eq
    have e2 := congrArg Dev.rf hκ.eq
    simp only [Dev.mask] at e1 e2
    rw [e1, e2]
  unfold Dev.siteRequest
  repeat' (first | with_reducible assumption | intro _ | (simp only [id_eq]) | (with_reducible refine hm _ ?_) | (with_reducible refine Dev.lookup_kp' (heq := by with_reducible assumption) (hμ := hμ.up (by decide)) (hκ := ?_) ..) | (with_reducible refine Dev.lookup_kp (hμ := hμ.up (by decide)) (hκ := ?_) ..) | (with_reducible refine Dev.setSite_kp (hμ := hμ.up (by decide)) (hκ := ?_) ..) | (with_reducible refine Dev.siteLines_kp' (heq := by with_reducible assumption) (hμ := hμ.up (by decide)) (hκ := ?_) ..) | (with_reducible refine Dev.siteLines_kp (hμ := hμ.up (by decide)) (hκ := ?_) ..) | (with_reducible refine Dev.siteSend_kp (hμ := hμ.up (by decide)) (hκ := ?_) ..) | (with_reducible apply Agree.ite) | split)

theorem Dev.siteResponse_kp {μ : Nat} {ω : Dev} (d : Dev) (die : Nat) (tag : Nat) (stat : Nat) (data : Bytes)  (hμ : Within 0x10000000000000000000000000000000000000000000000000000200000000000000000000000000000000000000000000000000 μ) (hκ : Agree μ ω d) : Agree μ ω (Dev.siteResponse d die tag stat data) := by
  unfold Dev.siteResponse
  repeat' (first | with_reducible assumption | intro _ | (simp only [id_eq]) | (with_reducible refine Dev.countSat_kp (hf := by first | assumption | exact hμ.bit rfl) (hμ := hμ.up (by decide)) (hκ := ?_) ..) | (with_reducible refine Dev.put_kp (hf := by first | assumption | exact hμ.bit rfl) (hμ := hμ.up (by decide)) (hκ := ?_) ..) | (with_reducible refine Dev.setSite_kp (hμ := hμ.up (by decide)) (hκ := ?_) ..) | (with_reducible refine Dev.siteSend_kp (hμ := hμ.up (by decide)) (hκ := ?_) ..) | (with_reducible apply Agree.ite) | split)

theorem Dev.siteAdd_kp {μ : Nat} {ω : Dev} (d : Dev) (die : Nat)  (hμ : Within 0x10000002000000000000000000000000000000000000000000000000000000000000000000000000000000000000000000000000 μ) (hκ : Agree μ ω d) : Agree μ ω (Dev.siteAdd d die) := by
  unfold Dev.siteAdd
  repeat' (first | with_reducible assumption | intro _ | (simp only [id_eq]) | (with_reducible refine Dev.send_kp (hμ := hμ.up (by decide)) (hκ := ?_) ..) | (with_reducible refine Dev.setSite_kp (hμ := hμ.up (by decide)) (hκ := ?_) ..) | (with_reducible apply Agree.ite) | split)

theorem Dev.siteAck_kp {μ : Nat} {ω : Dev} (d : Dev) (die : Nat) (home : Nat) (idx : Nat)  (hμ : Within 0x10000000000000000000000000000000000000000000000000000000000000000000000000000000000000000000000000000000 μ) (hκ : Agree μ ω d) : Agree μ ω (Dev.siteAck d die home idx) := by
  unfold Dev.siteAck
  repeat' (first | with_reducible assumption | intro _ | (simp only [id_eq]) | (with_reducible refine Dev.setSite_kp (hμ := hμ.up (by decide)) (hκ := ?_) ..) | (with_reducible refine Dev.siteSend_kp (hμ := hμ.up (by decide)) (hκ := ?_) ..) | (with_reducible apply Agree.ite) | split)

theorem Dev.setLane_kp {μ : Nat} {ω : Dev} (d : Dev) (die : Nat) (l : Nat) (x : Lane)  (hμ : Within 0x100000000000000000000000000000000000000000000000000000000000000000000000000000000000000000000000000000000 μ) (hκ : Agree μ ω d) : Agree μ ω (Dev.setLane d die l x) := by
  unfold Dev.setLane
  repeat' (first | with_reducible assumption | intro _ | (simp only [id_eq]) | (simp only [Agree.set_lanes (hμ.bit (by decide))]) | (with_reducible refine Dev.put_kp (hf := by first | assumption | exact hμ.bit rfl) (hμ := hμ.up (by decide)) (hκ := ?_) ..) | (with_reducible apply Agree.ite) | split)

theorem Dev.modLane_kp {μ : Nat} {ω : Dev} (d : Dev) (die : Nat) (l : Nat) (f : Lane → Lane)  (hμ : Within 0x100000000000000000000000000000000000000000000000000000000000000000000000000000000000000000000000000000000 μ) (hκ : Agree μ ω d) : Agree μ ω (Dev.modLane d die l f) := by
  unfold Dev.modLane
  repeat' (first | with_reducible assumption | intro _ | (simp only [id_eq]) | (with_reducible refine Dev.setLane_kp (hμ := hμ.up (by decide)) (hκ := ?_) ..) | (with_reducible apply Agree.ite) | split)

theorem Dev.setPort_kp {μ : Nat} {ω : Dev} (d : Dev) (p : Nat) (x : PPort)  (hμ : Within 0x200000000000000000000000000000000000000000000000000000000000000000000000000000000000000000000000000000000 μ) (hκ : Agree μ ω d) : Agree μ ω (Dev.setPort d p x) := by
  unfold Dev.setPort
  repeat' (first | with_reducible assumption | intro _ | (simp only [id_eq]) | (simp only [Agree.set_ports (hμ.bit (by decide))]) | (with_reducible refine Dev.put_kp (hf := by first | assumption | exact hμ.bit rfl) (hμ := hμ.up (by decide)) (hκ := ?_) ..) | (with_reducible apply Agree.ite) | split)

theorem Dev.modPort_kp {μ : Nat} {ω : Dev} (d : Dev) (p : Nat) (f : PPort → PPort)  (hμ : Within 0x200000000000000000000000000000000000000000000000000000000000000000000000000000000000000000000000000000000 μ) (hκ : Agree μ ω d) : Agree μ ω (Dev.modPort d p f) := by
  unfold Dev.modPort
  repeat' (first | with_reducible assumption | intro _ | (simp only [id_eq]) | (with_reducible refine Dev.setPort_kp (hμ := hμ.up (by decide)) (hκ := ?_) ..) | (with_reducible apply Agree.ite) | split)

theorem Dev.setQp_kp {μ : Nat} {ω : Dev} (d : Dev) (q : Nat) (x : QP)  (hμ : Within 0x800000000000000000000000000000000000000000000000000000000000000000000000000000000000000000000000000000000 μ) (hκ : Agree μ ω d) : Agree μ ω (Dev.setQp d q x) := by
  unfold Dev.setQp
  repeat' (first | with_reducible assumption | intro _ | (simp only [id_eq]) | (simp only [Agree.set_qps (hμ.bit (by decide))]) | (with_reducible refine Dev.put_kp (hf := by first | assumption | exact hμ.bit rfl) (hμ := hμ.up (by decide)) (hκ := ?_) ..) | (with_reducible apply Agree.ite) | split)

theorem Dev.modQp_kp {μ : Nat} {ω : Dev} (d : Dev) (q : Nat) (f : QP → QP)  (hμ : Within 0x800000000000000000000000000000000000000000000000000000000000000000000000000000000000000000000000000000000 μ) (hκ : Agree μ ω d) : Agree μ ω (Dev.modQp d q f) := by
  unfold Dev.modQp
  repeat' (first | with_reducible assumption | intro _ | (simp only [id_eq]) | (with_reducible refine Dev.setQp_kp (hμ := hμ.up (by decide)) (hκ := ?_) ..) | (with_reducible apply Agree.ite) | split)

theorem Dev.modStew_kp {μ : Nat} {ω : Dev} (d : Dev) (die : Nat) (f : Stew → Stew)  (hμ : Within 0x2000000000000000000000000000000000000000000000000000000000000000000000000000000000000000000000000000000000 μ) (hκ : Agree μ ω d) : Agree μ ω (Dev.modStew d die f) := by
  unfold Dev.modStew
  repeat' (first | with_reducible assumption | intro _ | (simp only [id_eq]) | (simp only [Agree.set_stews (hμ.bit (by decide))]) | (with_reducible refine Dev.put_kp (hf := by first | assumption | exact hμ.bit rfl) (hμ := hμ.up (by decide)) (hκ := ?_) ..) | (with_reducible apply Agree.ite) | split)

theorem Dev.setPortSt_kp {μ : Nat} {ω : Dev} (d : Dev) (p : Nat) (st : Nat)  (hμ : Within 0x200000000000000000000000000000000000000000000004000000000000000000000000000000000000000000000000000000000 μ) (hκ : Agree μ ω d) : Agree μ ω (Dev.setPortSt d p st) := by
  unfold Dev.setPortSt
  repeat' (first | with_reducible assumption | intro _ | (simp only [id_eq]) | (with_reducible refine Dev.modPort_kp (hμ := hμ.up (by decide)) (hκ := ?_) ..) | (with_reducible refine Dev.put_kp (hf := by first | assumption | exact hμ.bit rfl) (hμ := hμ.up (by decide)) (hκ := ?_) ..) | (with_reducible apply Agree.ite) | split)

theorem Dev.linkRec_kp {μ : Nat} {ω : Dev} (d : Dev) (die : Nat) (code : Nat) (kind : Nat) (idx : Nat) (info : Nat)  (hμ : Within 0x80000000000000245000000000000000000000000000000000000000000000000000000000000000000000000000000000000000 μ) (hκ : Agree μ ω d) : Agree μ ω (Dev.linkRec d die code kind idx info) := by
  unfold Dev.linkRec
  repeat' (first | with_reducible assumption | intro _ | (simp only [id_eq]) | (with_reducible refine Dev.post_kp (hμ := hμ.up (by decide)) (hκ := ?_) ..) | (with_reducible apply Agree.ite) | split)

theorem Dev.portRec_kp {μ : Nat} {ω : Dev} (d : Dev) (p : Nat) (code : Nat)  (hμ : Within 0x80000000000000245000000000000000000000000000000000000000000000000000000000000000000000000000000000000000 μ) (hκ : Agree μ ω d) : Agree μ ω (Dev.portRec d p code) := by
  unfold Dev.portRec
  repeat' (first | with_reducible assumption | intro _ | (simp only [id_eq]) | (with_reducible refine Dev.linkRec_kp (hμ := hμ.up (by decide)) (hκ := ?_) ..) | (with_reducible apply Agree.ite) | split)

theorem Dev.portWire_kp {μ : Nat} {ω : Dev} (d : Dev) (p : Nat) (bs : Bytes)  (hμ : Within 0x200000000000000000000000000000000000000000000000000000000000000000000000000000000000000000000000000000000 μ) (hκ : Agree μ ω d) : Agree μ ω (Dev.portWire d p bs) := by
  unfold Dev.portWire
  repeat' (first | with_reducible assumption | intro _ | (simp only [id_eq]) | (with_reducible refine Dev.modPort_kp (hμ := hμ.up (by decide)) (hκ := ?_) ..) | (with_reducible apply Agree.ite) | split)

theorem Dev.portLink_kp {μ : Nat} {ω : Dev} (d : Dev) (p : Nat) (nak : Bool)  (hμ : Within 0x200000000000000000000000000000000000000000000000000000000000000000000000000000000000000000000000000000000 μ) (hκ : Agree μ ω d) : Agree μ ω (Dev.portLink d p nak) := by
  unfold Dev.portLink
  repeat' (first | with_reducible assumption | intro _ | (simp only [id_eq]) | (with_reducible refine Dev.portWire_kp (hμ := hμ.up (by decide)) (hκ := ?_) ..) | (with_reducible refine Dev.setPort_kp (hμ := hμ.up (by decide)) (hκ := ?_) ..) | (with_reducible apply Agree.ite) | split)

theorem Dev.portUndoze_kp {μ : Nat} {ω : Dev} (d : Dev) (p : Nat)  (hμ : Within 0x100000000000000000000000000000000000000000000000000000000000000000000000000000000000000000000000000000000 μ) (hκ : Agree μ ω d) : Agree μ ω (Dev.portUndoze d p) := by
  unfold Dev.portUndoze
  repeat' (first | with_reducible assumption | intro _ | (simp only [id_eq]) | (with_reducible refine Dev.modLane_kp (hμ := hμ.up (by decide)) (hκ := ?_) ..) | (with_reducible apply Agree.ite) | (with_reducible apply Agree.foldl) | (with_reducible apply Agree.foldl_fst) | (with_reducible apply Agree.foldl_snd) | split)

theorem Dev.portPump_kp {μ : Nat} {ω : Dev} (d : Dev) (p : Nat) (n : Nat) (hμ : Within 0x200000000000000000000000000000000000000000000600000000000000000000000000000000000000000000000000000000000 μ) (hκ : Agree μ ω d) :
    Agree μ ω (Dev.portPump d p n) := by
  induction n generalizing d with
  | zero => exact hκ
  | succ n ih =>
    unfold Dev.portPump
    repeat' (first | with_reducible assumption | intro _ | (simp only [id_eq]) | (with_reducible refine ih _ ?_) | (with_reducible refine Dev.count64_kp (hlo := by first | assumption | exact hμ.bit rfl) (hhi := by first | assumption | exact hμ.bit rfl) (hμ := hμ.up (by decide)) (hκ := ?_) ..) | (with_reducible refine Dev.portWire_kp (hμ := hμ.up (by decide)) (hκ := ?_) ..) | (with_reducible refine Dev.setPort_kp (hμ := hμ.up (by decide)) (hκ := ?_) ..) | (with_reducible apply Agree.ite) | split)

theorem Dev.portRun_kp {μ : Nat} {ω : Dev} (d : Dev) (p : Nat)  (hμ : Within 0x200000000000000000000000000000000000000000000600000000000000000000000000000000000000000000000000000000000 μ) (hκ : Agree μ ω d) : Agree μ ω (Dev.portRun d p) := by
  unfold Dev.portRun
  repeat' (first | with_reducible assumption | intro _ | (simp only [id_eq]) | (with_reducible refine Dev.portPump_kp (hμ := hμ.up (by decide)) (hκ := ?_) ..) | (with_reducible apply Agree.ite) | split)

theorem Dev.portSend_kp {μ : Nat} {ω : Dev} (d : Dev) (p : Nat) (sub : Nat) (m : LMsg)  (hμ : Within 0x300000000000000000000000000000000000000000000600000000000000000000000000000000000000000000000000000000000 μ) (hκ : Agree μ ω d) : Agree μ ω (Dev.portSend d p sub m) := by
  unfold Dev.portSend
  repeat' (first | with_reducible assumption | intro _ | (simp only [id_eq]) | (with_reducible refine Dev.modPort_kp (hμ := hμ.up (by decide)) (hκ := ?_) ..) | (with_reducible refine Dev.portRun_kp (hμ := hμ.up (by decide)) (hκ := ?_) ..) | (with_reducible refine Dev.portUndoze_kp (hμ := hμ.up (by decide)) (hκ := ?_) ..) | (with_reducible apply Agree.ite) | split)

theorem Dev.portTrk_kp {μ : Nat} {ω : Dev} (d : Dev) (p : Nat)  (hμ : Within 0x800000000000000000000000000000000000000000000000000000000000 μ) (hκ : Agree μ ω d) : Agree μ ω (Dev.portTrk d p) := by
  unfold Dev.portTrk
  repeat' (first | with_reducible assumption | intro _ | (simp only [id_eq]) | (with_reducible refine Dev.put_kp (hf := by first | assumption | exact hμ.bit rfl) (hμ := hμ.up (by decide)) (hκ := ?_) ..) | (with_reducible apply Agree.ite) | split)

theorem Dev.outUp_kp {μ : Nat} {ω : Dev} (d : Dev) (die : Nat) (pkg : Nat)  (hμ : Within 0x40000000000000000000000000000000000000000000000000000000 μ) (hκ : Agree μ ω d) : Agree μ ω (Dev.outUp d die pkg) := by
  unfold Dev.outUp
  repeat' (first | with_reducible assumption | intro _ | (simp only [id_eq]) | (with_reducible refine Dev.put_kp (hf := by first | assumption | exact hμ.bit rfl) (hμ := hμ.up (by decide)) (hκ := ?_) ..) | (with_reducible apply Agree.ite) | split)

theorem Dev.outFall_kp {μ : Nat} {ω : Dev} (d : Dev) (die : Nat) (pkg : Nat)  (hμ : Within 0x40000000000000000000000000000000000000000000000000000000 μ) (hκ : Agree μ ω d) : Agree μ ω (Dev.outFall d die pkg) := by
  unfold Dev.outFall
  repeat' (first | with_reducible assumption | intro _ | (simp only [id_eq]) | (with_reducible refine Dev.put_kp (hf := by first | assumption | exact hμ.bit rfl) (hμ := hμ.up (by decide)) (hκ := ?_) ..) | (with_reducible apply Agree.ite) | split)

theorem Dev.portOut_kp {μ : Nat} {ω : Dev} {d : Dev} {p pkg : Nat} {who : LWho} {m : LMsg} {rd : Dev} (heq : Dev.portOut d p pkg who m = some rd)
    (hμ : Within 0x300000000000000000000000000000000000000000000e00040000000000000000000000000000000000000000000000000000000 μ) (hκ : Agree μ ω d) : Agree μ ω rd := by
  unfold Dev.portOut at heq
  rcases ht : (d.port p).freeTag with _ | t
  · simp only [ht] at heq; cases heq
  · simp only [ht] at heq
    have heq := Option.some.inj heq
    rw [← heq]
    repeat' (first | with_reducible assumption | intro _ | (simp only [id_eq]) | (with_reducible refine Dev.modPort_kp (hμ := hμ.up (by decide)) (hκ := ?_) ..) | (with_reducible refine Dev.outUp_kp (hμ := hμ.up (by decide)) (hκ := ?_) ..) | (with_reducible refine Dev.portSend_kp (hμ := hμ.up (by decide)) (hκ := ?_) ..) | (with_reducible refine Dev.portTrk_kp (hμ := hμ.up (by decide)) (hκ := ?_) ..) | (with_reducible apply Agree.ite) | split)

theorem Dev.answerIn_kp {μ : Nat} {ω : Dev} (d : Dev) (p : Nat) (itag : Nat) (kind : Nat) (hdr : Bytes) (lines : Bytes)  (hμ : Within 0x300000000000000000000000000000000000000000000e00800000000000000000000000000000000000000000000000000000000 μ) (hκ : Agree μ ω d) : Agree μ ω (Dev.answerIn d p itag kind hdr lines) := by
  unfold Dev.answerIn
  repeat' (first | with_reducible assumption | intro _ | (simp only [id_eq]) | (with_reducible refine Dev.countSat_kp (hf := by first | assumption | exact hμ.bit rfl) (hμ := hμ.up (by decide)) (hκ := ?_) ..) | (with_reducible refine Dev.modPort_kp (hμ := hμ.up (by decide)) (hκ := ?_) ..) | (with_reducible refine Dev.portSend_kp (hμ := hμ.up (by decide)) (hκ := ?_) ..) | (with_reducible refine Dev.portTrk_kp (hμ := hμ.up (by decide)) (hκ := ?_) ..) | (with_reducible apply Agree.ite) | split)

theorem Dev.addFail_kp {μ : Nat} {ω : Dev} (d : Dev) (p : Nat) (pkg : Nat) (m : CtlMsg) (stat : Nat)  (hμ : Within 0x8010003e004000245000000000000000000000000000000000000000000001000004000000000000000000000000101f20000000 μ) (hκ : Agree μ ω d) : Agree μ ω (Dev.addFail d p pkg m stat) := by
  unfold Dev.addFail
  repeat' (first | with_reducible assumption | intro _ | (simp only [id_eq]) | (with_reducible refine Dev.countSat_kp (hf := by first | assumption | exact hμ.bit rfl) (hμ := hμ.up (by decide)) (hκ := ?_) ..) | (with_reducible refine Dev.engFail_kp (hμ := hμ.up (by decide)) (hκ := ?_) ..) | (with_reducible refine Dev.engFollow_kp (hμ := hμ.up (by decide)) (hκ := ?_) ..) | (with_reducible refine Dev.modEng_kp (hμ := hμ.up (by decide)) (hκ := ?_) ..) | (with_reducible apply Agree.ite) | split)

theorem Dev.otrkFail_kp {μ : Nat} {ω : Dev} (d : Dev) (p : Nat) (stat : Nat) (o : OTrk)  (hμ : Within 0x38010003e004000245000000000000000000000000000e00c40000000000001000004000000000000000000000000101f20000000 μ) (hκ : Agree μ ω d) : Agree μ ω (Dev.otrkFail d p stat o) := by
  unfold Dev.otrkFail
  repeat' (first | with_reducible assumption | intro _ | (simp only [id_eq]) | (with_reducible refine Dev.addFail_kp (hμ := hμ.up (by decide)) (hκ := ?_) ..) | (with_reducible refine Dev.answerIn_kp (hμ := hμ.up (by decide)) (hκ := ?_) ..) | (with_reducible refine Dev.countSat_kp (hf := by first | assumption | exact hμ.bit rfl) (hμ := hμ.up (by decide)) (hκ := ?_) ..) | (with_reducible refine Dev.modPort_kp (hμ := hμ.up (by decide)) (hκ := ?_) ..) | (with_reducible refine Dev.outFall_kp (hμ := hμ.up (by decide)) (hκ := ?_) ..) | (with_reducible refine Dev.portTrk_kp (hμ := hμ.up (by decide)) (hκ := ?_) ..) | (with_reducible refine Dev.respond_kp (hμ := hμ.up (by decide)) (hκ := ?_) ..) | (with_reducible apply Agree.ite) | split)

theorem Dev.moveRoutes_kp {μ : Nat} {ω : Dev} (d : Dev) (p : Nat)  (hμ : Within 0x20000000000000000000000000000000000000000000000000000000 μ) (hκ : Agree μ ω d) : Agree μ ω (Dev.moveRoutes d p) := by
  unfold Dev.moveRoutes
  repeat' (first | with_reducible assumption | intro _ | (simp only [id_eq]) | (with_reducible refine Dev.put_kp (hf := by first | assumption | exact hμ.bit rfl) (hμ := hμ.up (by decide)) (hκ := ?_) ..) | (with_reducible apply Agree.ite) | (with_reducible apply Agree.foldl) | (with_reducible apply Agree.foldl_fst) | (with_reducible apply Agree.foldl_snd) | split)

theorem Dev.holdsClear_kp {μ : Nat} {ω : Dev} (d : Dev)  (hμ : Within 0x20000000000000000000000000000000000000000000000000000000 μ) (hκ : Agree μ ω d) : Agree μ ω (Dev.holdsClear d) := by
  unfold Dev.holdsClear
  repeat' (first | with_reducible assumption | intro _ | (simp only [id_eq]) | (with_reducible refine Dev.put_kp (hf := by first | assumption | exact hμ.bit rfl) (hμ := hμ.up (by decide)) (hκ := ?_) ..) | (with_reducible apply Agree.ite) | (with_reducible apply Agree.foldl) | (with_reducible apply Agree.foldl_fst) | (with_reducible apply Agree.foldl_snd) | split)

theorem Dev.portFlush_kp {μ : Nat} {ω : Dev} (d : Dev) (p : Nat)  (hμ : Within 0x38010003e004000245000000000000000000000000000e00c60000000000001000004000000000000000000000000101f20000000 μ) (hκ : Agree μ ω d) : Agree μ ω (Dev.portFlush d p) := by
  unfold Dev.portFlush
  repeat' (first | with_reducible assumption | intro _ | (simp only [id_eq]) | (with_reducible refine Dev.holdsClear_kp (hμ := hμ.up (by decide)) (hκ := ?_) ..) | (with_reducible refine Dev.otrkFail_kp (hμ := hμ.up (by decide)) (hκ := ?_) ..) | (with_reducible refine Dev.portTrk_kp (hμ := hμ.up (by decide)) (hκ := ?_) ..) | (with_reducible refine Dev.setPort_kp (hμ := hμ.up (by decide)) (hκ := ?_) ..) | (with_reducible apply Agree.ite) | (with_reducible apply Agree.foldl) | (with_reducible apply Agree.foldl_fst) | (with_reducible apply Agree.foldl_snd) | split)

theorem Dev.portDown_kp {μ : Nat} {ω : Dev} (d : Dev) (p : Nat)  (hμ : Within 0x38010003e004000245000000000000000000000000000e04c60000000000001000004000000000000000000000000101f20000000 μ) (hκ : Agree μ ω d) : Agree μ ω (Dev.portDown d p) := by
  unfold Dev.portDown
  repeat' (first | with_reducible assumption | intro _ | (simp only [id_eq]) | (with_reducible refine Dev.moveRoutes_kp (hμ := hμ.up (by decide)) (hκ := ?_) ..) | (with_reducible refine Dev.portFlush_kp (hμ := hμ.up (by decide)) (hκ := ?_) ..) | (with_reducible refine Dev.portRec_kp (hμ := hμ.up (by decide)) (hκ := ?_) ..) | (with_reducible refine Dev.put_kp (hf := by first | assumption | exact hμ.bit rfl) (hμ := hμ.up (by decide)) (hκ := ?_) ..) | (with_reducible refine Dev.setPortSt_kp (hμ := hμ.up (by decide)) (hκ := ?_) ..) | (with_reducible apply Agree.ite) | split)

theorem Dev.portLaneLost_kp {μ : Nat} {ω : Dev} (d : Dev) (die : Nat) (l : Nat)  (hμ : Within 0x38010003e004000245000000000000000000000000000e04c60000000000001000004000000000000000000000000101f20000000 μ) (hκ : Agree μ ω d) : Agree μ ω (Dev.portLaneLost d die l) := by
  unfold Dev.portLaneLost
  repeat' (first | with_reducible assumption | intro _ | (simp only [id_eq]) | (with_reducible refine Dev.portDown_kp (hμ := hμ.up (by decide)) (hκ := ?_) ..) | (with_reducible refine Dev.put_kp (hf := by first | assumption | exact hμ.bit rfl) (hμ := hμ.up (by decide)) (hκ := ?_) ..) | (with_reducible apply Agree.ite) | split)

theorem Dev.setLaneSt_kp {μ : Nat} {ω : Dev} (d : Dev) (die : Nat) (l : Nat) (st : Nat)  (hμ : Within 0x100000000000000000000000000000000000000000000000000008000000000000000000000000000000000000000000000000000 μ) (hκ : Agree μ ω d) : Agree μ ω (Dev.setLaneSt d die l st) := by
  unfold Dev.setLaneSt
  repeat' (first | with_reducible assumption | intro _ | (simp only [id_eq]) | (with_reducible refine Dev.modLane_kp (hμ := hμ.up (by decide)) (hκ := ?_) ..) | (with_reducible refine Dev.put_kp (hf := by first | assumption | exact hμ.bit rfl) (hμ := hμ.up (by decide)) (hκ := ?_) ..) | (with_reducible apply Agree.ite) | split)

theorem Dev.laneErr_kp {μ : Nat} {ω : Dev} (d : Dev) (die : Nat) (l : Nat) (f : Fld) (code : Nat) (hf : μ.testBit f.reg.ctorIdx = true) (hμ : Within 0x80000000000000245000000000000000000000000000000000000000000000000000000000000000000000000000000000000000 μ) (hκ : Agree μ ω d) : Agree μ ω (Dev.laneErr d die l f code) := by
  unfold Dev.laneErr
  repeat' (first | with_reducible assumption | intro _ | (simp only [id_eq]) | (with_reducible refine Dev.linkRec_kp (hμ := hμ.up (by decide)) (hκ := ?_) ..) | (with_reducible refine Dev.put_kp (hf := by first | assumption | exact hμ.bit rfl) (hμ := hμ.up (by decide)) (hκ := ?_) ..) | (with_reducible apply Agree.ite) | split)

theorem Dev.laneAwake_kp {μ : Nat} {ω : Dev} (d : Dev) (die : Nat) (l : Nat)  (hμ : Within 0x8000000000000000000000000000000000000000000000000000 μ) (hκ : Agree μ ω d) : Agree μ ω (Dev.laneAwake d die l) := by
  unfold Dev.laneAwake
  repeat' (first | with_reducible assumption | intro _ | (simp only [id_eq]) | (with_reducible refine Dev.put_kp (hf := by first | assumption | exact hμ.bit rfl) (hμ := hμ.up (by decide)) (hκ := ?_) ..) | (with_reducible apply Agree.ite) | split)

theorem Dev.laneFull_kp {μ : Nat} {ω : Dev} (d : Dev) (die : Nat) (l : Nat) (again : Bool)  (hμ : Within 0x100000000000000000000000000000000000000000000000004008000000000000000000000000000000000000000000000000000 μ) (hκ : Agree μ ω d) : Agree μ ω (Dev.laneFull d die l again) := by
  unfold Dev.laneFull
  repeat' (first | with_reducible assumption | intro _ | (simp only [id_eq]) | (with_reducible refine Dev.count_kp (hf := by first | assumption | exact hμ.bit rfl) (hμ := hμ.up (by decide)) (hκ := ?_) ..) | (with_reducible refine Dev.laneAwake_kp (hμ := hμ.up (by decide)) (hκ := ?_) ..) | (with_reducible refine Dev.modLane_kp (hμ := hμ.up (by decide)) (hκ := ?_) ..) | (with_reducible refine Dev.put_kp (hf := by first | assumption | exact hμ.bit rfl) (hμ := hμ.up (by decide)) (hκ := ?_) ..) | (with_reducible refine Dev.setLaneSt_kp (hμ := hμ.up (by decide)) (hκ := ?_) ..) | (with_reducible apply Agree.ite) | split)

theorem Dev.laneDownNow_kp {μ : Nat} {ω : Dev} (d : Dev) (die : Nat) (l : Nat)  (hμ : Within 0x38010003e004000245000000000000000000000000000e04c60008000000001000004000000000000000000000000101f20000000 μ) (hκ : Agree μ ω d) : Agree μ ω (Dev.laneDownNow d die l) := by
  unfold Dev.laneDownNow
  repeat' (first | with_reducible assumption | intro _ | (simp only [id_eq]) | (with_reducible refine Dev.laneAwake_kp (hμ := hμ.up (by decide)) (hκ := ?_) ..) | (with_reducible refine Dev.modLane_kp (hμ := hμ.up (by decide)) (hκ := ?_) ..) | (with_reducible refine Dev.portLaneLost_kp (hμ := hμ.up (by decide)) (hκ := ?_) ..) | (with_reducible refine Dev.setLaneSt_kp (hμ := hμ.up (by decide)) (hκ := ?_) ..) | (with_reducible apply Agree.ite) | split)

theorem Dev.laneSend_kp {μ : Nat} {ω : Dev} (d : Dev) (die : Nat) (l : Nat) (type : Nat) (n : Nat)  (hμ : Within 0x100000000000000000000000000000000000000000000000000000000000000000000000000000000000000000000000000000000 μ) (hκ : Agree μ ω d) : Agree μ ω (Dev.laneSend d die l type n) := by
  unfold Dev.laneSend
  repeat' (first | with_reducible assumption | intro _ | (simp only [id_eq]) | (with_reducible refine Dev.modLane_kp (hμ := hμ.up (by decide)) (hκ := ?_) ..) | (with_reducible apply Agree.ite) | split)

theorem Dev.laneSleepNow_kp {μ : Nat} {ω : Dev} (d : Dev) (die : Nat) (l : Nat)  (hμ : Within 0x100000000000000000000000000000000000000000000000000008000000000000000000000000000000000000000000000000000 μ) (hκ : Agree μ ω d) : Agree μ ω (Dev.laneSleepNow d die l) := by
  unfold Dev.laneSleepNow
  repeat' (first | with_reducible assumption | intro _ | (simp only [id_eq]) | (with_reducible refine Dev.laneAwake_kp (hμ := hμ.up (by decide)) (hκ := ?_) ..) | (with_reducible refine Dev.modLane_kp (hμ := hμ.up (by decide)) (hκ := ?_) ..) | (with_reducible refine Dev.setLaneSt_kp (hμ := hμ.up (by decide)) (hκ := ?_) ..) | (with_reducible apply Agree.ite) | split)

theorem Dev.laneWakeNow_kp {μ : Nat} {ω : Dev} (d : Dev) (die : Nat) (l : Nat)  (hμ : Within 0x100000000000000000000000000000000000000000000000000008000000000000000000000000000000000000000000000000000 μ) (hκ : Agree μ ω d) : Agree μ ω (Dev.laneWakeNow d die l) := by
  unfold Dev.laneWakeNow
  repeat' (first | with_reducible assumption | intro _ | (simp only [id_eq]) | (with_reducible refine Dev.modLane_kp (hμ := hμ.up (by decide)) (hκ := ?_) ..) | (with_reducible refine Dev.setLaneSt_kp (hμ := hμ.up (by decide)) (hκ := ?_) ..) | (with_reducible apply Agree.ite) | split)

theorem Dev.laneClear_kp {μ : Nat} {ω : Dev} (d : Dev) (die : Nat) (l : Nat)  (hμ : Within 0x8000000000000000000000000000000000000000000000000000 μ) (hκ : Agree μ ω d) : Agree μ ω (Dev.laneClear d die l) := by
  unfold Dev.laneClear
  repeat' (first | with_reducible assumption | intro _ | (simp only [id_eq]) | (with_reducible refine Dev.setKey_kp _ _ _ _ _ _ (by first | assumption | exact hμ.bit (by decide) | exact hall _) ?_) | (with_reducible refine Dev.setRaw_kp _ _ _ (by assumption) ?_) | (with_reducible apply Agree.ite) | split)

theorem Dev.laneCmd_kp {μ : Nat} {ω : Dev} (d : Dev) (die : Nat) (l : Nat) (cmd : Nat)  (hμ : Within 0x38010003e004000245000000000000000000000000000e04c64008000000001000004000000000000000000000000101f20000000 μ) (hκ : Agree μ ω d) : Agree μ ω (Dev.laneCmd d die l cmd) := by
  unfold Dev.laneCmd
  repeat' (first | with_reducible assumption | intro _ | (simp only [id_eq]) | (with_reducible refine Dev.laneAwake_kp (hμ := hμ.up (by decide)) (hκ := ?_) ..) | (with_reducible refine Dev.laneClear_kp (hμ := hμ.up (by decide)) (hκ := ?_) ..) | (with_reducible refine Dev.laneDownNow_kp (hμ := hμ.up (by decide)) (hκ := ?_) ..) | (with_reducible refine Dev.laneFull_kp (hμ := hμ.up (by decide)) (hκ := ?_) ..) | (with_reducible refine Dev.laneSend_kp (hμ := hμ.up (by decide)) (hκ := ?_) ..) | (with_reducible refine Dev.laneSleepNow_kp (hμ := hμ.up (by decide)) (hκ := ?_) ..) | (with_reducible refine Dev.laneWakeNow_kp (hμ := hμ.up (by decide)) (hκ := ?_) ..) | (with_reducible refine Dev.modLane_kp (hμ := hμ.up (by decide)) (hκ := ?_) ..) | (with_reducible refine Dev.portLaneLost_kp (hμ := hμ.up (by decide)) (hκ := ?_) ..) | (with_reducible refine Dev.setLaneSt_kp (hμ := hμ.up (by decide)) (hκ := ?_) ..) | (with_reducible apply Agree.ite) | split)

theorem Dev.laneCmdWrite_kp {μ : Nat} {ω : Dev} (d : Dev) (die : Nat) (l : Nat) (cmd : Nat)  (hμ : Within 0x38010003e004000245000000000000000000000000000e04c6400c000000001000004000000000000000000000000101f20000000 μ) (hκ : Agree μ ω d) : Agree μ ω (Dev.laneCmdWrite d die l cmd) := by
  unfold Dev.laneCmdWrite
  repeat' (first | with_reducible assumption | intro _ | (simp only [id_eq]) | (with_reducible refine Dev.laneCmd_kp (hμ := hμ.up (by decide)) (hκ := ?_) ..) | (with_reducible refine Dev.modLane_kp (hμ := hμ.up (by decide)) (hκ := ?_) ..) | (with_reducible refine Dev.put_kp (hf := by first | assumption | exact hμ.bit rfl) (hμ := hμ.up (by decide)) (hκ := ?_) ..) | (with_reducible apply Agree.ite) | split)

theorem Dev.laneEnded_kp {μ : Nat} {ω : Dev} (d : Dev) (die : Nat) (l : Nat)  (hμ : Within 0x38010003e004000245000000000000000000000000000e04c6400c000000001000004000000000000000000000000101f20000000 μ) (hκ : Agree μ ω d) : Agree μ ω (Dev.laneEnded d die l) := by
  unfold Dev.laneEnded
  repeat' (first | with_reducible assumption | intro _ | (simp only [id_eq]) | (with_reducible refine Dev.laneCmd_kp (hμ := hμ.up (by decide)) (hκ := ?_) ..) | (with_reducible refine Dev.modLane_kp (hμ := hμ.up (by decide)) (hκ := ?_) ..) | (with_reducible refine Dev.put_kp (hf := by first | assumption | exact hμ.bit rfl) (hμ := hμ.up (by decide)) (hκ := ?_) ..) | (with_reducible apply Agree.ite) | split)

theorem Dev.laneCtlWrite_kp {μ : Nat} {ω : Dev} (d : Dev) (die : Nat) (l : Nat) (v : Nat)  (hμ : Within 0x38010003e004000245000000000000000000000000000e04c6400c000000001000004000000000000000000000000101f20000000 μ) (hκ : Agree μ ω d) : Agree μ ω (Dev.laneCtlWrite d die l v) := by
  unfold Dev.laneCtlWrite
  repeat' (first | with_reducible assumption | intro _ | (simp only [id_eq]) | (with_reducible refine Dev.writeKey_kp _ _ _ _ _ _ _ (by first | assumption | exact hμ.bit (by decide) | exact hall _) ?_) | (with_reducible refine Dev.laneCmdWrite_kp (hμ := hμ.up (by decide)) (hκ := ?_) ..) | (with_reducible refine Dev.put_kp (hf := by first | assumption | exact hμ.bit rfl) (hμ := hμ.up (by decide)) (hκ := ?_) ..) | (with_reducible apply Agree.ite) | split)

theorem Dev.laneEnterUp_kp {μ : Nat} {ω : Dev} (d : Dev) (die : Nat) (l : Nat)  (hμ : Within 0x38010003e004000245000000000000000000000000000e04c6400c000000001000004000000000000000000000000101f20000000 μ) (hκ : Agree μ ω d) : Agree μ ω (Dev.laneEnterUp d die l) := by
  unfold Dev.laneEnterUp
  repeat' (first | with_reducible assumption | intro _ | (simp only [id_eq]) | (with_reducible refine Dev.laneEnded_kp (hμ := hμ.up (by decide)) (hκ := ?_) ..) | (with_reducible refine Dev.modLane_kp (hμ := hμ.up (by decide)) (hκ := ?_) ..) | (with_reducible refine Dev.setLaneSt_kp (hμ := hμ.up (by decide)) (hκ := ?_) ..) | (with_reducible apply Agree.ite) | split)

theorem Dev.laneLoss_kp {μ : Nat} {ω : Dev} (d : Dev) (die : Nat) (l : Nat)  (hμ : Within 0x100000000000000000000000000000000000000000000000004008000000000000000000000000000000000000000000000000000 μ) (hκ : Agree μ ω d) : Agree μ ω (Dev.laneLoss d die l) := by
  unfold Dev.laneLoss
  repeat' (first | with_reducible assumption | intro _ | (simp only [id_eq]) | (with_reducible refine Dev.count_kp (hf := by first | assumption | exact hμ.bit rfl) (hμ := hμ.up (by decide)) (hκ := ?_) ..) | (with_reducible refine Dev.modLane_kp (hμ := hμ.up (by decide)) (hκ := ?_) ..) | (with_reducible refine Dev.put_kp (hf := by first | assumption | exact hμ.bit rfl) (hμ := hμ.up (by decide)) (hκ := ?_) ..) | (with_reducible refine Dev.setLaneSt_kp (hμ := hμ.up (by decide)) (hκ := ?_) ..) | (with_reducible apply Agree.ite) | split)

theorem Dev.laneShort_kp {μ : Nat} {ω : Dev} (d : Dev) (die : Nat) (l : Nat) (req : Bool)  (hμ : Within 0x100000000000000000000000000000000000000000000000000008000000000000000000000000000000000000000000000000000 μ) (hκ : Agree μ ω d) : Agree μ ω (Dev.laneShort d die l req) := by
  unfold Dev.laneShort
  repeat' (first | with_reducible assumption | intro _ | (simp only [id_eq]) | (with_reducible refine Dev.modLane_kp (hμ := hμ.up (by decide)) (hκ := ?_) ..) | (with_reducible refine Dev.setLaneSt_kp (hμ := hμ.up (by decide)) (hκ := ?_) ..) | (with_reducible apply Agree.ite) | split)

theorem Dev.laneElastic_kp {μ : Nat} {ω : Dev} (d : Dev) (die : Nat) (l : Nat)  (hμ : Within 0x180000000000000245000000000000000000000000000000000008000000000000000000000000000000000000000000000000000 μ) (hκ : Agree μ ω d) : Agree μ ω (Dev.laneElastic d die l) := by
  unfold Dev.laneElastic
  repeat' (first | with_reducible assumption | intro _ | (simp only [id_eq]) | (with_reducible refine Dev.laneErr_kp (hf := by first | assumption | exact hμ.bit rfl) (hμ := hμ.up (by decide)) (hκ := ?_) ..) | (with_reducible refine Dev.laneShort_kp (hμ := hμ.up (by decide)) (hκ := ?_) ..) | (with_reducible refine Dev.modLane_kp (hμ := hμ.up (by decide)) (hκ := ?_) ..) | (with_reducible apply Agree.ite) | split)

theorem Dev.lanePpm_kp {μ : Nat} {ω : Dev} (d : Dev) (die : Nat) (l : Nat) (offs : Nat)  (hμ : Within 0x100000000000000000000000000000000000000000000000000010000000000000000000000000000000000000000000000000000 μ) (hκ : Agree μ ω d) : Agree μ ω (Dev.lanePpm d die l offs) := by
  unfold Dev.lanePpm
  repeat' (first | with_reducible assumption | intro _ | (simp only [id_eq]) | (with_reducible refine Dev.modLane_kp (hμ := hμ.up (by decide)) (hκ := ?_) ..) | (with_reducible refine Dev.put_kp (hf := by first | assumption | exact hμ.bit rfl) (hμ := hμ.up (by decide)) (hκ := ?_) ..) | (with_reducible apply Agree.ite) | split)

theorem Dev.laneLoopReq_kp {μ : Nat} {ω : Dev} (d : Dev) (die : Nat) (l : Nat)  (hμ : Within 0x100000000000000000000000000000000000000000000000000008000000000000000000000000000000000000000000000000000 μ) (hκ : Agree μ ω d) : Agree μ ω (Dev.laneLoopReq d die l) := by
  unfold Dev.laneLoopReq
  repeat' (first | with_reducible assumption | intro _ | (simp only [id_eq]) | (with_reducible refine Dev.laneShort_kp (hμ := hμ.up (by decide)) (hκ := ?_) ..) | (with_reducible refine Dev.modLane_kp (hμ := hμ.up (by decide)) (hκ := ?_) ..) | (with_reducible apply Agree.ite) | split)

theorem Dev.laneLock_kp {μ : Nat} {ω : Dev} (d : Dev) (die : Nat) (l : Nat) (hdrs : List Nat)  (hμ : Within 0x100000000000000000000000000000000000000000000000000000000000000000000000000000000000000000000000000000000 μ) (hκ : Agree μ ω d) : Agree μ ω (Dev.laneLock d die l hdrs) := by
  unfold Dev.laneLock
  repeat' (first | with_reducible assumption | intro _ | (simp only [id_eq]) | (with_reducible refine Dev.modLane_kp (hμ := hμ.up (by decide)) (hκ := ?_) ..) | (with_reducible apply Agree.ite) | split)

theorem Dev.laneRelock_kp {μ : Nat} {ω : Dev} (d : Dev) (die : Nat) (l : Nat)  (hμ : Within 0x100000000000000000000000000000000000000000000000004008000000000000000000000000000000000000000000000000000 μ) (hκ : Agree μ ω d) : Agree μ ω (Dev.laneRelock d die l) := by
  unfold Dev.laneRelock
  repeat' (first | with_reducible assumption | intro _ | (simp only [id_eq]) | (with_reducible refine Dev.laneFull_kp (hμ := hμ.up (by decide)) (hκ := ?_) ..) | (with_reducible refine Dev.setLaneSt_kp (hμ := hμ.up (by decide)) (hκ := ?_) ..) | (with_reducible apply Agree.ite) | split)

theorem Dev.laneStep_kp {μ : Nat} {ω : Dev} (d : Dev) (die : Nat) (l : Nat) (r : LaneRes)  (hμ : Within 0x38010003e004000245000000000000000000000000000e04c6700c000000001000004000000000000000000000000101f20000000 μ) (hκ : Agree μ ω d) : Agree μ ω (Dev.laneStep d die l r) := by
  unfold Dev.laneStep
  repeat' (first | with_reducible assumption | intro _ | (simp only [id_eq]) | (with_reducible refine Dev.setKey_kp _ _ _ _ _ _ (by first | assumption | exact hμ.bit (by decide) | exact hall _) ?_) | (with_reducible refine Dev.setRaw_kp _ _ _ (by assumption) ?_) | (with_reducible refine Dev.laneEnterUp_kp (hμ := hμ.up (by decide)) (hκ := ?_) ..) | (with_reducible refine Dev.modLane_kp (hμ := hμ.up (by decide)) (hκ := ?_) ..) | (with_reducible refine Dev.put_kp (hf := by first | assumption | exact hμ.bit rfl) (hμ := hμ.up (by decide)) (hκ := ?_) ..) | (with_reducible refine Dev.setLaneSt_kp (hμ := hμ.up (by decide)) (hκ := ?_) ..) | (with_reducible apply Agree.ite) | split)

theorem Dev.laneTimeout_kp {μ : Nat} {ω : Dev} (d : Dev) (die : Nat) (l : Nat)  (hμ : Within 0x38010003e004000245000000000000000000000000000e04c6400c000000001000004000000000000000000000000101f20000000 μ) (hκ : Agree μ ω d) : Agree μ ω (Dev.laneTimeout d die l) := by
  unfold Dev.laneTimeout
  repeat' (first | with_reducible assumption | intro _ | (simp only [id_eq]) | (with_reducible refine Dev.laneDownNow_kp (hμ := hμ.up (by decide)) (hκ := ?_) ..) | (with_reducible refine Dev.laneEnded_kp (hμ := hμ.up (by decide)) (hκ := ?_) ..) | (with_reducible refine Dev.laneErr_kp (hf := by first | assumption | exact hμ.bit rfl) (hμ := hμ.up (by decide)) (hκ := ?_) ..) | (with_reducible refine Dev.laneFull_kp (hμ := hμ.up (by decide)) (hκ := ?_) ..) | (with_reducible apply Agree.ite) | split)

theorem Dev.laneTake_kp {μ : Nat} {ω : Dev} (d : Dev) (die : Nat) (l : Nat)  (hμ : Within 0x100000000000000000000000000000000000000000000000000400000000000000000000000000000000000000000000000000000 μ) (hκ : Agree μ ω d) : Agree μ ω (Dev.laneTake d die l) := by
  unfold Dev.laneTake
  repeat' (first | with_reducible assumption | intro _ | (simp only [id_eq]) | (with_reducible refine Dev.count_kp (hf := by first | assumption | exact hμ.bit rfl) (hμ := hμ.up (by decide)) (hκ := ?_) ..) | (with_reducible refine Dev.setLane_kp (hμ := hμ.up (by decide)) (hκ := ?_) ..) | (with_reducible apply Agree.ite) | split)

theorem Dev.laneTakes_kp {μ : Nat} {ω : Dev} (d : Dev) (die l : Nat) (n : Nat) (hμ : Within 0x100000000000000000000000000000000000000000000000000400000000000000000000000000000000000000000000000000000 μ) (hκ : Agree μ ω d) :
    Agree μ ω (Dev.laneTakes d die l n) := by
  induction n generalizing d with
  | zero => exact hκ
  | succ n ih =>
    unfold Dev.laneTakes
    repeat' (first | with_reducible assumption | intro _ | (simp only [id_eq]) | (with_reducible refine ih _ ?_) | (with_reducible refine Dev.laneTake_kp (hμ := hμ.up (by decide)) (hκ := ?_) ..) | (with_reducible apply Agree.ite) | split)

theorem Dev.lanePut_kp {μ : Nat} {ω : Dev} (d : Dev) (die : Nat) (l : Nat) (b : Blk)  (hμ : Within 0x180000000000000245000000000000000000000000000000000008000000000000000000000000000000000000000000000000000 μ) (hκ : Agree μ ω d) : Agree μ ω (Dev.lanePut d die l b) := by
  unfold Dev.lanePut
  repeat' (first | with_reducible assumption | intro _ | (simp only [id_eq]) | (with_reducible refine Dev.laneElastic_kp (hμ := hμ.up (by decide)) (hκ := ?_) ..) | (with_reducible refine Dev.setLane_kp (hμ := hμ.up (by decide)) (hκ := ?_) ..) | (with_reducible apply Agree.ite) | split)

theorem Dev.laneJudge_kp {μ : Nat} {ω : Dev} (d : Dev) (die : Nat) (l : Nat) (h : Nat)  (hμ : Within 0x100000000000000000000000000000000000000000000000004008000000000000000000000000000000000000000000000000000 μ) (hκ : Agree μ ω d) : Agree μ ω (Dev.laneJudge d die l h) := by
  unfold Dev.laneJudge
  repeat' (first | with_reducible assumption | intro _ | (simp only [id_eq]) | (with_reducible refine Dev.laneLoss_kp (hμ := hμ.up (by decide)) (hκ := ?_) ..) | (with_reducible refine Dev.setLane_kp (hμ := hμ.up (by decide)) (hκ := ?_) ..) | (with_reducible apply Agree.ite) | split)

theorem Dev.laneTrainBlk_kp {μ : Nat} {ω : Dev} (d : Dev) (die : Nat) (l : Nat) (b : Bytes)  (hμ : Within 0x100000000000000000000000000000000000000000000000000000000000000000000000000000000000000000000000000000000 μ) (hκ : Agree μ ω d) : Agree μ ω (Dev.laneTrainBlk d die l b) := by
  unfold Dev.laneTrainBlk
  repeat' (first | with_reducible assumption | intro _ | (simp only [id_eq]) | (with_reducible refine Dev.modLane_kp (hμ := hμ.up (by decide)) (hκ := ?_) ..) | (with_reducible apply Agree.ite) | split)

theorem Dev.laneBlock_kp {μ : Nat} {ω : Dev} (d : Dev) (die : Nat) (l : Nat) (ue : Bool) (h : Nat) (b : Bytes) (n : Nat)  (hμ : Within 0x180000000000000245000000000000000000000000000000004408000000000000000000000000000000000000000000000000000 μ) (hκ : Agree μ ω d) : Agree μ ω (Dev.laneBlock d die l ue h b n) := by
  unfold Dev.laneBlock
  repeat' (first | with_reducible assumption | intro _ | (simp only [id_eq]) | (with_reducible refine Dev.count_kp (hf := by first | assumption | exact hμ.bit rfl) (hμ := hμ.up (by decide)) (hκ := ?_) ..) | (with_reducible refine Dev.laneJudge_kp (hμ := hμ.up (by decide)) (hκ := ?_) ..) | (with_reducible refine Dev.lanePut_kp (hμ := hμ.up (by decide)) (hκ := ?_) ..) | (with_reducible refine Dev.laneShort_kp (hμ := hμ.up (by decide)) (hκ := ?_) ..) | (with_reducible refine Dev.laneTakes_kp (hμ := hμ.up (by decide)) (hκ := ?_) ..) | (with_reducible refine Dev.laneTrainBlk_kp (hμ := hμ.up (by decide)) (hκ := ?_) ..) | (with_reducible apply Agree.ite) | split)

theorem Dev.laneBlocks_kp {μ : Nat} {ω : Dev} (d : Dev) (die l : Nat) (ue : Bool) (takes : List Nat) (k : Nat) (bs : List (Nat × Bytes)) (hμ : Within 0x180000000000000245000000000000000000000000000000004408000000000000000000000000000000000000000000000000000 μ) (hκ : Agree μ ω d) :
    Agree μ ω (Dev.laneBlocks d die l ue takes k bs) := by
  induction bs generalizing d k with
  | nil => exact hκ
  | cons b bs ih =>
    unfold Dev.laneBlocks
    exact ih _ _ (Agree.ite (Dev.laneBlock_kp (hμ := hμ.up (by decide)) (hκ := hκ) ..) hκ)

theorem Dev.laneRxWake_kp {μ : Nat} {ω : Dev} (d : Dev) (die : Nat) (l : Nat)  (hμ : Within 0x100000000000000000000000000000000000000000000000000008000000000000000000000000000000000000000000000000000 μ) (hκ : Agree μ ω d) : Agree μ ω (Dev.laneRxWake d die l) := by
  unfold Dev.laneRxWake
  repeat' (first | with_reducible assumption | intro _ | (simp only [id_eq]) | (with_reducible refine Dev.modLane_kp (hμ := hμ.up (by decide)) (hκ := ?_) ..) | (with_reducible refine Dev.put_kp (hf := by first | assumption | exact hμ.bit rfl) (hμ := hμ.up (by decide)) (hκ := ?_) ..) | (with_reducible apply Agree.ite) | split)

theorem Dev.codeword_kp {μ : Nat} {ω : Dev} (d : Dev) (die : Nat) (l : Nat) (syms : List Nat) (takes : List Nat)  (hμ : Within 0x180000000000000245000000000000000000000000000000004fc8000000000000000000000000000000000000000000000000000 μ) (hκ : Agree μ ω d) : Agree μ ω (Dev.codeword d die l syms takes) := by
  unfold Dev.codeword
  repeat' (first | with_reducible assumption | intro _ | (simp only [id_eq]) | (with_reducible refine Dev.count64_kp (hlo := by first | assumption | exact hμ.bit rfl) (hhi := by first | assumption | exact hμ.bit rfl) (hμ := hμ.up (by decide)) (hκ := ?_) ..) | (with_reducible refine Dev.countSat_kp (hf := by first | assumption | exact hμ.bit rfl) (hμ := hμ.up (by decide)) (hκ := ?_) ..) | (with_reducible refine Dev.laneBlocks_kp (hμ := hμ.up (by decide)) (hκ := ?_) ..) | (with_reducible refine Dev.laneRxWake_kp (hμ := hμ.up (by decide)) (hκ := ?_) ..) | (with_reducible refine Dev.laneSleepNow_kp (hμ := hμ.up (by decide)) (hκ := ?_) ..) | (with_reducible refine Dev.laneTrainBlk_kp (hμ := hμ.up (by decide)) (hκ := ?_) ..) | (with_reducible refine Dev.modLane_kp (hμ := hμ.up (by decide)) (hκ := ?_) ..) | (with_reducible refine Dev.put_kp (hf := by first | assumption | exact hμ.bit rfl) (hμ := hμ.up (by decide)) (hκ := ?_) ..) | (with_reducible apply Agree.ite) | (with_reducible apply Agree.foldl) | (with_reducible apply Agree.foldl_fst) | (with_reducible apply Agree.foldl_snd) | split)

theorem Dev.laneFom_kp {μ : Nat} {ω : Dev} (d : Dev) (die : Nat) (l : Nat) (eyes : List (Nat × Nat))  (hμ : Within 0x180000000000000245000000000000000000000000000000000008000000000000000000000000000000000000000000000000000 μ) (hκ : Agree μ ω d) : Agree μ ω (Dev.laneFom d die l eyes) := by
  unfold Dev.laneFom
  repeat' (first | with_reducible assumption | intro _ | (simp only [id_eq]) | (with_reducible refine Dev.laneErr_kp (hf := by first | assumption | exact hμ.bit rfl) (hμ := hμ.up (by decide)) (hκ := ?_) ..) | (with_reducible refine Dev.modLane_kp (hμ := hμ.up (by decide)) (hκ := ?_) ..) | (with_reducible refine Dev.put_kp (hf := by first | assumption | exact hμ.bit rfl) (hμ := hμ.up (by decide)) (hκ := ?_) ..) | (with_reducible apply Agree.ite) | split)

theorem Dev.laneAdaptStep_kp {μ : Nat} {ω : Dev} (d : Dev) (die : Nat) (l : Nat) (ctle : Nat) (dfe1 : Nat) (fom : Nat)  (hμ : Within 0x100000000000000000000000000000000000000000000000001008000000000000000000000000000000000000000000000000000 μ) (hκ : Agree μ ω d) : Agree μ ω (Dev.laneAdaptStep d die l ctle dfe1 fom) := by
  unfold Dev.laneAdaptStep
  repeat' (first | with_reducible assumption | intro _ | (simp only [id_eq]) | (with_reducible refine Dev.modLane_kp (hμ := hμ.up (by decide)) (hκ := ?_) ..) | (with_reducible refine Dev.put_kp (hf := by first | assumption | exact hμ.bit rfl) (hμ := hμ.up (by decide)) (hκ := ?_) ..) | (with_reducible apply Agree.ite) | split)

theorem Dev.laneDoze_kp {μ : Nat} {ω : Dev} (d : Dev) (die : Nat) (l : Nat)  (hμ : Within 0x100000000000000000000000000000000000000000000000000008000000000000000000000000000000000000000000000000000 μ) (hκ : Agree μ ω d) : Agree μ ω (Dev.laneDoze d die l) := by
  unfold Dev.laneDoze
  repeat' (first | with_reducible assumption | intro _ | (simp only [id_eq]) | (with_reducible refine Dev.laneSend_kp (hμ := hμ.up (by decide)) (hκ := ?_) ..) | (with_reducible refine Dev.modLane_kp (hμ := hμ.up (by decide)) (hκ := ?_) ..) | (with_reducible refine Dev.put_kp (hf := by first | assumption | exact hμ.bit rfl) (hμ := hμ.up (by decide)) (hκ := ?_) ..) | (with_reducible apply Agree.ite) | split)

theorem Dev.laneUndoze_kp {μ : Nat} {ω : Dev} (d : Dev) (die : Nat) (l : Nat)  (hμ : Within 0x100000000000000000000000000000000000000000000000000008000000000000000000000000000000000000000000000000000 μ) (hκ : Agree μ ω d) : Agree μ ω (Dev.laneUndoze d die l) := by
  unfold Dev.laneUndoze
  repeat' (first | with_reducible assumption | intro _ | (simp only [id_eq]) | (with_reducible refine Dev.laneSend_kp (hμ := hμ.up (by decide)) (hκ := ?_) ..) | (with_reducible refine Dev.put_kp (hf := by first | assumption | exact hμ.bit rfl) (hμ := hμ.up (by decide)) (hκ := ?_) ..) | (with_reducible apply Agree.ite) | split)

theorem Dev.laneRefresh_kp {μ : Nat} {ω : Dev} (d : Dev) (die : Nat) (l : Nat)  (hμ : Within 0x100000000000000000000000000000000000000000000000000008000000000000000000000000000000000000000000000000000 μ) (hκ : Agree μ ω d) : Agree μ ω (Dev.laneRefresh d die l) := by
  unfold Dev.laneRefresh
  repeat' (first | with_reducible assumption | intro _ | (simp only [id_eq]) | (with_reducible refine Dev.laneSend_kp (hμ := hμ.up (by decide)) (hκ := ?_) ..) | (with_reducible refine Dev.modLane_kp (hμ := hμ.up (by decide)) (hκ := ?_) ..) | (with_reducible refine Dev.put_kp (hf := by first | assumption | exact hμ.bit rfl) (hμ := hμ.up (by decide)) (hκ := ?_) ..) | (with_reducible apply Agree.ite) | split)

theorem Dev.laneWakeErr_kp {μ : Nat} {ω : Dev} (d : Dev) (die : Nat) (l : Nat)  (hμ : Within 0x180000000000000245000000000000000000000000000000004008000000000000000000000000000000000000000000000000000 μ) (hκ : Agree μ ω d) : Agree μ ω (Dev.laneWakeErr d die l) := by
  unfold Dev.laneWakeErr
  repeat' (first | with_reducible assumption | intro _ | (simp only [id_eq]) | (with_reducible refine Dev.laneErr_kp (hf := by first | assumption | exact hμ.bit rfl) (hμ := hμ.up (by decide)) (hκ := ?_) ..) | (with_reducible refine Dev.laneLoss_kp (hμ := hμ.up (by decide)) (hκ := ?_) ..) | (with_reducible refine Dev.put_kp (hf := by first | assumption | exact hμ.bit rfl) (hμ := hμ.up (by decide)) (hκ := ?_) ..) | (with_reducible apply Agree.ite) | split)

theorem Dev.laneDetect_kp {μ : Nat} {ω : Dev} (d : Dev) (die : Nat) (l : Nat)  (hμ : Within 0x100000000000000000000000000000000000000000000000000008000000000000000000000000000000000000000000000000000 μ) (hκ : Agree μ ω d) : Agree μ ω (Dev.laneDetect d die l) := by
  unfold Dev.laneDetect
  repeat' (first | with_reducible assumption | intro _ | (simp only [id_eq]) | (with_reducible refine Dev.laneWakeNow_kp (hμ := hμ.up (by decide)) (hκ := ?_) ..) | (with_reducible apply Agree.ite) | split)

theorem Dev.laneWakeLate_kp {μ : Nat} {ω : Dev} (d : Dev) (die : Nat) (l : Nat)  (hμ : Within 0x180000000000000245000000000000000000000000000000004008000000000000000000000000000000000000000000000000000 μ) (hκ : Agree μ ω d) : Agree μ ω (Dev.laneWakeLate d die l) := by
  unfold Dev.laneWakeLate
  repeat' (first | with_reducible assumption | intro _ | (simp only [id_eq]) | (with_reducible refine Dev.laneErr_kp (hf := by first | assumption | exact hμ.bit rfl) (hμ := hμ.up (by decide)) (hκ := ?_) ..) | (with_reducible refine Dev.laneFull_kp (hμ := hμ.up (by decide)) (hκ := ?_) ..) | (with_reducible apply Agree.ite) | split)

theorem Dev.laneLos_kp {μ : Nat} {ω : Dev} (d : Dev) (die : Nat) (l : Nat)  (hμ : Within 0x180000000000000245000000000000000000000000000000004008000000000000000000000000000000000000000000000000000 μ) (hκ : Agree μ ω d) : Agree μ ω (Dev.laneLos d die l) := by
  unfold Dev.laneLos
  repeat' (first | with_reducible assumption | intro _ | (simp only [id_eq]) | (with_reducible refine Dev.laneErr_kp (hf := by first | assumption | exact hμ.bit rfl) (hμ := hμ.up (by decide)) (hκ := ?_) ..) | (with_reducible refine Dev.laneLoss_kp (hμ := hμ.up (by decide)) (hκ := ?_) ..) | (with_reducible apply Agree.ite) | split)

theorem Dev.portTrainNow_kp {μ : Nat} {ω : Dev} (d : Dev) (p : Nat)  (hμ : Within 0x38010003e004000245000000000000000000000000000e04c64008000000001000004000000000000000000000000101f20000000 μ) (hκ : Agree μ ω d) : Agree μ ω (Dev.portTrainNow d p) := by
  unfold Dev.portTrainNow
  repeat' (first | with_reducible assumption | intro _ | (simp only [id_eq]) | (with_reducible refine Dev.laneFull_kp (hμ := hμ.up (by decide)) (hκ := ?_) ..) | (with_reducible refine Dev.modPort_kp (hμ := hμ.up (by decide)) (hκ := ?_) ..) | (with_reducible refine Dev.moveRoutes_kp (hμ := hμ.up (by decide)) (hκ := ?_) ..) | (with_reducible refine Dev.portDown_kp (hμ := hμ.up (by decide)) (hκ := ?_) ..) | (with_reducible refine Dev.portFlush_kp (hμ := hμ.up (by decide)) (hκ := ?_) ..) | (with_reducible refine Dev.put_kp (hf := by first | assumption | exact hμ.bit rfl) (hμ := hμ.up (by decide)) (hκ := ?_) ..) | (with_reducible refine Dev.setPortSt_kp (hμ := hμ.up (by decide)) (hκ := ?_) ..) | (with_reducible apply Agree.ite) | (with_reducible apply Agree.foldl) | (with_reducible apply Agree.foldl_fst) | (with_reducible apply Agree.foldl_snd) | split)

theorem Dev.portClear_kp {μ : Nat} {ω : Dev} (d : Dev) (p : Nat)  (hμ : Within 0x4000000000000000000000000000000000000000000000000000000000 μ) (hκ : Agree μ ω d) : Agree μ ω (Dev.portClear d p) := by
  unfold Dev.portClear
  repeat' (first | with_reducible assumption | intro _ | (simp only [id_eq]) | (with_reducible refine Dev.put_kp (hf := by first | assumption | exact hμ.bit rfl) (hμ := hμ.up (by decide)) (hκ := ?_) ..) | (with_reducible apply Agree.ite) | split)

theorem Dev.portCmd_kp {μ : Nat} {ω : Dev} (d : Dev) (p : Nat) (cmd : Nat)  (hμ : Within 0x38010003e004000245000000000000000000000000000e04c64008000000001000004000000000000000000000000101f20000000 μ) (hκ : Agree μ ω d) : Agree μ ω (Dev.portCmd d p cmd) := by
  unfold Dev.portCmd
  repeat' (first | with_reducible assumption | intro _ | (simp only [id_eq]) | (with_reducible refine Dev.portClear_kp (hμ := hμ.up (by decide)) (hκ := ?_) ..) | (with_reducible refine Dev.portDown_kp (hμ := hμ.up (by decide)) (hκ := ?_) ..) | (with_reducible refine Dev.portTrainNow_kp (hμ := hμ.up (by decide)) (hκ := ?_) ..) | (with_reducible apply Agree.ite) | split)

theorem Dev.portEnded_kp {μ : Nat} {ω : Dev} (d : Dev) (p : Nat)  (hμ : Within 0x38010003e004000245000000000000000000000000000e06c64008000000001000004000000000000000000000000101f20000000 μ) (hκ : Agree μ ω d) : Agree μ ω (Dev.portEnded d p) := by
  unfold Dev.portEnded
  repeat' (first | with_reducible assumption | intro _ | (simp only [id_eq]) | (with_reducible refine Dev.modPort_kp (hμ := hμ.up (by decide)) (hκ := ?_) ..) | (with_reducible refine Dev.portCmd_kp (hμ := hμ.up (by decide)) (hκ := ?_) ..) | (with_reducible refine Dev.put_kp (hf := by first | assumption | exact hμ.bit rfl) (hμ := hμ.up (by decide)) (hκ := ?_) ..) | (with_reducible apply Agree.ite) | split)

theorem Dev.portCmdWrite_kp {μ : Nat} {ω : Dev} (d : Dev) (p : Nat) (cmd : Nat)  (hμ : Within 0x38010003e004000245000000000000000000000000000e06c64008000000001000004000000000000000000000000101f20000000 μ) (hκ : Agree μ ω d) : Agree μ ω (Dev.portCmdWrite d p cmd) := by
  unfold Dev.portCmdWrite
  repeat' (first | with_reducible assumption | intro _ | (simp only [id_eq]) | (with_reducible refine Dev.modPort_kp (hμ := hμ.up (by decide)) (hκ := ?_) ..) | (with_reducible refine Dev.portCmd_kp (hμ := hμ.up (by decide)) (hκ := ?_) ..) | (with_reducible refine Dev.put_kp (hf := by first | assumption | exact hμ.bit rfl) (hμ := hμ.up (by decide)) (hκ := ?_) ..) | (with_reducible apply Agree.ite) | split)

theorem Dev.plkCtlWrite_kp {μ : Nat} {ω : Dev} (d : Dev) (die : Nat) (i : Nat) (v : Nat)  (hμ : Within 0x38010003e004000245000000000000000000000000000e06c64008000000001000004000000000000000000000000101f20000000 μ) (hκ : Agree μ ω d) : Agree μ ω (Dev.plkCtlWrite d die i v) := by
  unfold Dev.plkCtlWrite
  repeat' (first | with_reducible assumption | intro _ | (simp only [id_eq]) | (with_reducible refine Dev.writeKey_kp _ _ _ _ _ _ _ (by first | assumption | exact hμ.bit (by decide) | exact hall _) ?_) | (with_reducible refine Dev.portCmdWrite_kp (hμ := hμ.up (by decide)) (hκ := ?_) ..) | (with_reducible apply Agree.ite) | split)

theorem Dev.portFail_kp {μ : Nat} {ω : Dev} (d : Dev) (p : Nat)  (hμ : Within 0x38010003e004000245000000000000000000000000000e06c64008000000001000004000000000000000000000000101f20000000 μ) (hκ : Agree μ ω d) : Agree μ ω (Dev.portFail d p) := by
  unfold Dev.portFail
  repeat' (first | with_reducible assumption | intro _ | (simp only [id_eq]) | (with_reducible refine Dev.portDown_kp (hμ := hμ.up (by decide)) (hκ := ?_) ..) | (with_reducible refine Dev.portEnded_kp (hμ := hμ.up (by decide)) (hκ := ?_) ..) | (with_reducible apply Agree.ite) | split)

theorem Dev.identCheck_kp {μ : Nat} {ω : Dev} (d : Dev) (p : Nat) (is : List Nat)  (hμ : Within 0x80000000000000245000000000000000000000000000004000000000000000000000000000000000000000000000000000000000 μ) (hκ : Agree μ ω d) : Agree μ ω (Dev.identCheck d p is) := by
  unfold Dev.identCheck
  repeat' (first | with_reducible assumption | intro _ | (simp only [id_eq]) | (with_reducible refine Dev.portRec_kp (hμ := hμ.up (by decide)) (hκ := ?_) ..) | (with_reducible refine Dev.put_kp (hf := by first | assumption | exact hμ.bit rfl) (hμ := hμ.up (by decide)) (hκ := ?_) ..) | (with_reducible apply Agree.ite) | split)

theorem Dev.portQualify_kp {μ : Nat} {ω : Dev} (d : Dev) (p : Nat)  (hμ : Within 0x300000000000000000000000000000000000000000000004000000000000000000000000000000000000000000000000000000000 μ) (hκ : Agree μ ω d) : Agree μ ω (Dev.portQualify d p) := by
  unfold Dev.portQualify
  repeat' (first | with_reducible assumption | intro _ | (simp only [id_eq]) | (with_reducible refine Dev.modLane_kp (hμ := hμ.up (by decide)) (hκ := ?_) ..) | (with_reducible refine Dev.modPort_kp (hμ := hμ.up (by decide)) (hκ := ?_) ..) | (with_reducible refine Dev.setPortSt_kp (hμ := hμ.up (by decide)) (hκ := ?_) ..) | (with_reducible apply Agree.ite) | (with_reducible apply Agree.foldl) | (with_reducible apply Agree.foldl_fst) | (with_reducible apply Agree.foldl_snd) | split)

theorem Dev.portSettle_kp {μ : Nat} {ω : Dev} (d : Dev) (p : Nat)  (hμ : Within 0x38010003e004000245000000000000000000000000000e06c64008000000001000004000000000000000000000000101f20000000 μ) (hκ : Agree μ ω d) : Agree μ ω (Dev.portSettle d p) := by
  unfold Dev.portSettle
  repeat' (first | with_reducible assumption | intro _ | (simp only [id_eq]) | (with_reducible refine Dev.identCheck_kp (hμ := hμ.up (by decide)) (hκ := ?_) ..) | (with_reducible refine Dev.portFail_kp (hμ := hμ.up (by decide)) (hκ := ?_) ..) | (with_reducible refine Dev.portQualify_kp (hμ := hμ.up (by decide)) (hκ := ?_) ..) | (with_reducible apply Agree.ite) | split)

theorem Dev.laneSettle_kp {μ : Nat} {ω : Dev} (d : Dev) (die : Nat) (l : Nat)  (hμ : Within 0x38010003e004000245000000000000000000000000000e06c64008000000001000004000000000000000000000000101f20000000 μ) (hκ : Agree μ ω d) : Agree μ ω (Dev.laneSettle d die l) := by
  unfold Dev.laneSettle
  repeat' (first | with_reducible assumption | intro _ | (simp only [id_eq]) | (with_reducible refine Dev.portSettle_kp (hμ := hμ.up (by decide)) (hκ := ?_) ..) | (with_reducible apply Agree.ite) | split)

theorem Dev.laneIdv_kp {μ : Nat} {ω : Dev} (d : Dev) (die : Nat) (l : Nat)  (hμ : Within 0x200000000000000000000000000000000000000000000000000000000000000000000000000000000000000000000000000000000 μ) (hκ : Agree μ ω d) : Agree μ ω (Dev.laneIdv d die l) := by
  unfold Dev.laneIdv
  repeat' (first | with_reducible assumption | intro _ | (simp only [id_eq]) | (with_reducible refine Dev.modPort_kp (hμ := hμ.up (by decide)) (hκ := ?_) ..) | (with_reducible apply Agree.ite) | split)

theorem Dev.portUp_kp {μ : Nat} {ω : Dev} (d : Dev) (p : Nat)  (hμ : Within 0x38010003e004000245000000000000000000000000000e06c64008000000001000004000000000000000000000000101f20000000 μ) (hκ : Agree μ ω d) : Agree μ ω (Dev.portUp d p) := by
  unfold Dev.portUp
  repeat' (first | with_reducible assumption | intro _ | (simp only [id_eq]) | (with_reducible refine Dev.portEnded_kp (hμ := hμ.up (by decide)) (hκ := ?_) ..) | (with_reducible refine Dev.setPort_kp (hμ := hμ.up (by decide)) (hκ := ?_) ..) | (with_reducible refine Dev.setPortSt_kp (hμ := hμ.up (by decide)) (hκ := ?_) ..) | (with_reducible apply Agree.ite) | split)

theorem Dev.reserveTake_kp {μ : Nat} {ω : Dev} (d : Dev) (p : Nat) (i : Nat)  (hμ : Within 0x38010003e004000245000000000000000000000000000e05c64008000000001000004000000000000000000000000101f20000000 μ) (hκ : Agree μ ω d) : Agree μ ω (Dev.reserveTake d p i) := by
  unfold Dev.reserveTake
  repeat' (first | with_reducible assumption | intro _ | (simp only [id_eq]) | (with_reducible refine Dev.portTrainNow_kp (hμ := hμ.up (by decide)) (hκ := ?_) ..) | (with_reducible refine Dev.put_kp (hf := by first | assumption | exact hμ.bit rfl) (hμ := hμ.up (by decide)) (hκ := ?_) ..) | (with_reducible apply Agree.ite) | split)

theorem Dev.portQualEnd_kp {μ : Nat} {ω : Dev} (d : Dev) (p : Nat)  (hμ : Within 0x38010003e004000245000000000000000000000000001e07c64008000000001000004000000000000000000000000101f20000000 μ) (hκ : Agree μ ω d) : Agree μ ω (Dev.portQualEnd d p) := by
  unfold Dev.portQualEnd
  repeat' (first | with_reducible assumption | intro _ | (simp only [id_eq]) | (with_reducible refine Dev.modPort_kp (hμ := hμ.up (by decide)) (hκ := ?_) ..) | (with_reducible refine Dev.portFail_kp (hμ := hμ.up (by decide)) (hκ := ?_) ..) | (with_reducible refine Dev.portQualify_kp (hμ := hμ.up (by decide)) (hκ := ?_) ..) | (with_reducible refine Dev.portRec_kp (hμ := hμ.up (by decide)) (hκ := ?_) ..) | (with_reducible refine Dev.portUp_kp (hμ := hμ.up (by decide)) (hκ := ?_) ..) | (with_reducible refine Dev.put_kp (hf := by first | assumption | exact hμ.bit rfl) (hμ := hμ.up (by decide)) (hκ := ?_) ..) | (with_reducible refine Dev.reserveTake_kp (hμ := hμ.up (by decide)) (hκ := ?_) ..) | (with_reducible apply Agree.ite) | (with_reducible apply Agree.foldl) | (with_reducible apply Agree.foldl_fst) | (with_reducible apply Agree.foldl_snd) | split)

theorem Dev.portResend_kp {μ : Nat} {ω : Dev} (d : Dev) (p : Nat)  (hμ : Within 0x200000000000000000000000000000000000000000000600000000000000000000000000000000000000000000000000000000000 μ) (hκ : Agree μ ω d) : Agree μ ω (Dev.portResend d p) := by
  unfold Dev.portResend
  repeat' (first | with_reducible assumption | intro _ | (simp only [id_eq]) | (with_reducible refine Dev.count64_kp (hlo := by first | assumption | exact hμ.bit rfl) (hhi := by first | assumption | exact hμ.bit rfl) (hμ := hμ.up (by decide)) (hκ := ?_) ..) | (with_reducible refine Dev.modPort_kp (hμ := hμ.up (by decide)) (hκ := ?_) ..) | (with_reducible refine Dev.portWire_kp (hμ := hμ.up (by decide)) (hκ := ?_) ..) | (with_reducible apply Agree.ite) | (with_reducible apply Agree.foldl) | (with_reducible apply Agree.foldl_fst) | (with_reducible apply Agree.foldl_snd) | split)

theorem Dev.portStorm_kp {μ : Nat} {ω : Dev} (d : Dev) (p : Nat) (hμ : Within 0x38010003e004000245000000000000000000000000000e04c64008000000001000004000000000000000000000000101f20000000 μ) (hκ : Agree μ ω d) : Agree μ ω (Dev.portStorm d p) := by
  have hr : ∀ (e : Dev) (n : Nat), Agree μ ω e → Agree μ ω (Dev.portStorm.retrain p e n) := by
    intro e n hκ
    unfold Dev.portStorm.retrain
    repeat' (first | with_reducible assumption | intro _ | (simp only [id_eq]) | (with_reducible refine Dev.laneFull_kp (hμ := hμ.up (by decide)) (hκ := ?_) ..) | (with_reducible refine Dev.modPort_kp (hμ := hμ.up (by decide)) (hκ := ?_) ..) | (with_reducible refine Dev.portDown_kp (hμ := hμ.up (by decide)) (hκ := ?_) ..) | (with_reducible refine Dev.portRec_kp (hμ := hμ.up (by decide)) (hκ := ?_) ..) | (with_reducible refine Dev.put_kp (hf := by first | assumption | exact hμ.bit rfl) (hμ := hμ.up (by decide)) (hκ := ?_) ..) | (with_reducible refine Dev.setPortSt_kp (hμ := hμ.up (by decide)) (hκ := ?_) ..) | (with_reducible apply Agree.ite) | (with_reducible apply Agree.foldl) | (with_reducible apply Agree.foldl_fst) | (with_reducible apply Agree.foldl_snd) | split)
  unfold Dev.portStorm
  repeat' (first | with_reducible assumption | intro _ | (simp only [id_eq]) | (with_reducible refine hr _ _ ?_) | (with_reducible refine Dev.laneFull_kp (hμ := hμ.up (by decide)) (hκ := ?_) ..) | (with_reducible refine Dev.modPort_kp (hμ := hμ.up (by decide)) (hκ := ?_) ..) | (with_reducible refine Dev.portDown_kp (hμ := hμ.up (by decide)) (hκ := ?_) ..) | (with_reducible refine Dev.portRec_kp (hμ := hμ.up (by decide)) (hκ := ?_) ..) | (with_reducible refine Dev.put_kp (hf := by first | assumption | exact hμ.bit rfl) (hμ := hμ.up (by decide)) (hκ := ?_) ..) | (with_reducible refine Dev.setPortSt_kp (hμ := hμ.up (by decide)) (hκ := ?_) ..) | (with_reducible apply Agree.ite) | (with_reducible apply Agree.foldl) | (with_reducible apply Agree.foldl_fst) | (with_reducible apply Agree.foldl_snd) | split)

theorem Dev.portReplay_kp {μ : Nat} {ω : Dev} (d : Dev) (p : Nat)  (hμ : Within 0x38010003e004000245000000000000000000000000000e84c64008000000001000004000000000000000000000000101f20000000 μ) (hκ : Agree μ ω d) : Agree μ ω (Dev.portReplay d p) := by
  unfold Dev.portReplay
  repeat' (first | with_reducible assumption | intro _ | (simp only [id_eq]) | (with_reducible refine Dev.countSat_kp (hf := by first | assumption | exact hμ.bit rfl) (hμ := hμ.up (by decide)) (hκ := ?_) ..) | (with_reducible refine Dev.modPort_kp (hμ := hμ.up (by decide)) (hκ := ?_) ..) | (with_reducible refine Dev.portResend_kp (hμ := hμ.up (by decide)) (hκ := ?_) ..) | (with_reducible refine Dev.portStorm_kp (hμ := hμ.up (by decide)) (hκ := ?_) ..) | (with_reducible apply Agree.ite) | split)

theorem Dev.portAck_kp {μ : Nat} {ω : Dev} (d : Dev) (p : Nat) (ackv : Bool) (nak : Bool) (ackseq : Nat) (req : Nat) (rsp : Nat)  (hμ : Within 0x38010003e004000245000000000000000000000000000e84c64008000000001000004000000000000000000000000101f20000000 μ) (hκ : Agree μ ω d) : Agree μ ω (Dev.portAck d p ackv nak ackseq req rsp) := by
  unfold Dev.portAck
  repeat' (first | with_reducible assumption | intro _ | (simp only [id_eq]) | (simp only [Agree.set_held (hμ.bit (by decide))]) | (with_reducible refine Dev.portReplay_kp (hμ := hμ.up (by decide)) (hκ := ?_) ..) | (with_reducible refine Dev.portRun_kp (hμ := hμ.up (by decide)) (hκ := ?_) ..) | (with_reducible refine Dev.setPort_kp (hμ := hμ.up (by decide)) (hκ := ?_) ..) | (with_reducible apply Agree.ite) | split)

theorem Dev.ackTimeout_kp {μ : Nat} {ω : Dev} (d : Dev) (p : Nat)  (hμ : Within 0x38010003e004000245000000000000000000000000000e84c64008000000001000004000000000000000000000000101f20000000 μ) (hκ : Agree μ ω d) : Agree μ ω (Dev.ackTimeout d p) := by
  unfold Dev.ackTimeout
  repeat' (first | with_reducible assumption | intro _ | (simp only [id_eq]) | (with_reducible refine Dev.portReplay_kp (hμ := hμ.up (by decide)) (hκ := ?_) ..) | (with_reducible apply Agree.ite) | split)

theorem Dev.portNak_kp {μ : Nat} {ω : Dev} (d : Dev) (p : Nat)  (hμ : Within 0x300000000000000000000000000000000000000000000000000000000000000000000000000000000000000000000000000000000 μ) (hκ : Agree μ ω d) : Agree μ ω (Dev.portNak d p) := by
  unfold Dev.portNak
  repeat' (first | with_reducible assumption | intro _ | (simp only [id_eq]) | (with_reducible refine Dev.portLink_kp (hμ := hμ.up (by decide)) (hκ := ?_) ..) | (with_reducible refine Dev.portUndoze_kp (hμ := hμ.up (by decide)) (hκ := ?_) ..) | (with_reducible refine Dev.setPort_kp (hμ := hμ.up (by decide)) (hκ := ?_) ..) | (with_reducible apply Agree.ite) | split)

theorem Dev.portFrame_kp {μ : Nat} {ω : Dev} (d : Dev) (p : Nat) (i : Nat) (f : LFrame)  (hμ : Within 0x300000000000000000000000000000000000000000000000000000000000000000000000000000000000000000000000000000000 μ) (hκ : Agree μ ω d) : Agree μ ω (Dev.portFrame d p i f) := by
  unfold Dev.portFrame
  repeat' (first | with_reducible assumption | intro _ | (simp only [id_eq]) | (with_reducible refine Dev.portLink_kp (hμ := hμ.up (by decide)) (hκ := ?_) ..) | (with_reducible refine Dev.portNak_kp (hμ := hμ.up (by decide)) (hκ := ?_) ..) | (with_reducible refine Dev.portUndoze_kp (hμ := hμ.up (by decide)) (hκ := ?_) ..) | (with_reducible refine Dev.setPort_kp (hμ := hμ.up (by decide)) (hκ := ?_) ..) | (with_reducible apply Agree.ite) | split)

theorem Dev.qualFrame_kp {μ : Nat} {ω : Dev} (d : Dev) (p : Nat) (i : Nat) (f : Option Bytes)  (hμ : Within 0x300000000000000000000000000000000000000000000000000000000000000000000000000000000000000000000000000000000 μ) (hκ : Agree μ ω d) : Agree μ ω (Dev.qualFrame d p i f) := by
  unfold Dev.qualFrame
  repeat' (first | with_reducible assumption | intro _ | (simp only [id_eq]) | (with_reducible refine Dev.modLane_kp (hμ := hμ.up (by decide)) (hκ := ?_) ..) | (with_reducible refine Dev.modPort_kp (hμ := hμ.up (by decide)) (hκ := ?_) ..) | (with_reducible apply Agree.ite) | split)

theorem Dev.frameIn_kp {μ : Nat} {ω : Dev} (d : Dev) (p : Nat) (i : Nat) (f : Bytes)  (hμ : Within 0x38010003e004000245000000000000000000000000000f84c64008000000001000004000000000000000000000000101f20000000 μ) (hκ : Agree μ ω d) : Agree μ ω (Dev.frameIn d p i f) := by
  unfold Dev.frameIn
  repeat' (first | with_reducible assumption | intro _ | (simp only [id_eq]) | (with_reducible refine Dev.countSat_kp (hf := by first | assumption | exact hμ.bit rfl) (hμ := hμ.up (by decide)) (hκ := ?_) ..) | (with_reducible refine Dev.portAck_kp (hμ := hμ.up (by decide)) (hκ := ?_) ..) | (with_reducible refine Dev.portFrame_kp (hμ := hμ.up (by decide)) (hκ := ?_) ..) | (with_reducible refine Dev.portNak_kp (hμ := hμ.up (by decide)) (hκ := ?_) ..) | (with_reducible refine Dev.qualFrame_kp (hμ := hμ.up (by decide)) (hκ := ?_) ..) | (with_reducible apply Agree.ite) | split)

theorem Dev.frameReceive_kp {μ : Nat} {ω : Dev} (d : Dev) (p : Nat) (i : Nat)  (hμ : Within 0x38010003e004000245000000000000000000000000000f84c64008000000001000004000000000000000000000000101f20000000 μ) (hκ : Agree μ ω d) : Agree μ ω (Dev.frameReceive d p i) := by
  unfold Dev.frameReceive
  repeat' (first | with_reducible assumption | intro _ | (simp only [id_eq]) | (with_reducible refine Dev.countSat_kp (hf := by first | assumption | exact hμ.bit rfl) (hμ := hμ.up (by decide)) (hκ := ?_) ..) | (with_reducible refine Dev.frameIn_kp (hμ := hμ.up (by decide)) (hκ := ?_) ..) | (with_reducible refine Dev.modLane_kp (hμ := hμ.up (by decide)) (hκ := ?_) ..) | (with_reducible refine Dev.portNak_kp (hμ := hμ.up (by decide)) (hκ := ?_) ..) | (with_reducible refine Dev.qualFrame_kp (hμ := hμ.up (by decide)) (hκ := ?_) ..) | (with_reducible apply Agree.ite) | split)

theorem Dev.linkReceive_kp {μ : Nat} {ω : Dev} (d : Dev) (p : Nat) (i : Nat)  (hμ : Within 0x38010003e004000245000000000000000000000000000e86c64008000000001000004000000000000000000000000101f20000000 μ) (hκ : Agree μ ω d) : Agree μ ω (Dev.linkReceive d p i) := by
  unfold Dev.linkReceive
  repeat' (first | with_reducible assumption | intro _ | (simp only [id_eq]) | (with_reducible refine Dev.modLane_kp (hμ := hμ.up (by decide)) (hκ := ?_) ..) | (with_reducible refine Dev.portAck_kp (hμ := hμ.up (by decide)) (hκ := ?_) ..) | (with_reducible refine Dev.portSettle_kp (hμ := hμ.up (by decide)) (hκ := ?_) ..) | (with_reducible apply Agree.ite) | split)

theorem Dev.frameLoss_kp {μ : Nat} {ω : Dev} (d : Dev) (p : Nat)  (hμ : Within 0x300000000000000000000000000000000000000000000000000000000000000000000000000000000000000000000000000000000 μ) (hκ : Agree μ ω d) : Agree μ ω (Dev.frameLoss d p) := by
  unfold Dev.frameLoss
  repeat' (first | with_reducible assumption | intro _ | (simp only [id_eq]) | (with_reducible refine Dev.portNak_kp (hμ := hμ.up (by decide)) (hκ := ?_) ..) | (with_reducible apply Agree.ite) | split)

theorem Dev.nakRepeat_kp {μ : Nat} {ω : Dev} (d : Dev) (p : Nat)  (hμ : Within 0x200000000000000000000000000000000000000000000000000000000000000000000000000000000000000000000000000000000 μ) (hκ : Agree μ ω d) : Agree μ ω (Dev.nakRepeat d p) := by
  unfold Dev.nakRepeat
  repeat' (first | with_reducible assumption | intro _ | (simp only [id_eq]) | (with_reducible refine Dev.portLink_kp (hμ := hμ.up (by decide)) (hκ := ?_) ..) | (with_reducible apply Agree.ite) | split)

theorem Dev.ackDue_kp {μ : Nat} {ω : Dev} (d : Dev) (p : Nat)  (hμ : Within 0x200000000000000000000000000000000000000000000000000000000000000000000000000000000000000000000000000000000 μ) (hκ : Agree μ ω d) : Agree μ ω (Dev.ackDue d p) := by
  unfold Dev.ackDue
  repeat' (first | with_reducible assumption | intro _ | (simp only [id_eq]) | (with_reducible refine Dev.portLink_kp (hμ := hμ.up (by decide)) (hκ := ?_) ..) | (with_reducible apply Agree.ite) | split)

theorem Dev.retrainDone_kp {μ : Nat} {ω : Dev} (d : Dev) (p : Nat)  (hμ : Within 0x38010003e004000245000000000000000000000000000e86c64008000000001000004000000000000000000000000101f20000000 μ) (hκ : Agree μ ω d) : Agree μ ω (Dev.retrainDone d p) := by
  unfold Dev.retrainDone
  repeat' (first | with_reducible assumption | intro _ | (simp only [id_eq]) | (with_reducible refine Dev.countSat_kp (hf := by first | assumption | exact hμ.bit rfl) (hμ := hμ.up (by decide)) (hκ := ?_) ..) | (with_reducible refine Dev.identCheck_kp (hμ := hμ.up (by decide)) (hκ := ?_) ..) | (with_reducible refine Dev.portEnded_kp (hμ := hμ.up (by decide)) (hκ := ?_) ..) | (with_reducible refine Dev.portFail_kp (hμ := hμ.up (by decide)) (hκ := ?_) ..) | (with_reducible refine Dev.portResend_kp (hμ := hμ.up (by decide)) (hκ := ?_) ..) | (with_reducible refine Dev.portRun_kp (hμ := hμ.up (by decide)) (hκ := ?_) ..) | (with_reducible refine Dev.setPortSt_kp (hμ := hμ.up (by decide)) (hκ := ?_) ..) | (with_reducible apply Agree.ite) | split)

theorem Dev.portDoze_kp {μ : Nat} {ω : Dev} (d : Dev) (p : Nat)  (hμ : Within 0x100000000000000000000000000000000000000000000000000000000000000000000000000000000000000000000000000000000 μ) (hκ : Agree μ ω d) : Agree μ ω (Dev.portDoze d p) := by
  unfold Dev.portDoze
  repeat' (first | with_reducible assumption | intro _ | (simp only [id_eq]) | (with_reducible refine Dev.modLane_kp (hμ := hμ.up (by decide)) (hκ := ?_) ..) | (with_reducible apply Agree.ite) | (with_reducible apply Agree.foldl) | (with_reducible apply Agree.foldl_fst) | (with_reducible apply Agree.foldl_snd) | split)

theorem Dev.portSilence_kp {μ : Nat} {ω : Dev} (d : Dev) (p : Nat)  (hμ : Within 0x38010003e004000245000000000000000000000000000e04c60000000000001000004000000000000000000000000101f20000000 μ) (hκ : Agree μ ω d) : Agree μ ω (Dev.portSilence d p) := by
  unfold Dev.portSilence
  repeat' (first | with_reducible assumption | intro _ | (simp only [id_eq]) | (with_reducible refine Dev.portDown_kp (hμ := hμ.up (by decide)) (hκ := ?_) ..) | (with_reducible apply Agree.ite) | split)

theorem Dev.laneWakeFail_kp {μ : Nat} {ω : Dev} (d : Dev) (die : Nat) (l : Nat)  (hμ : Within 0x38010003e004000245000000000000000000000000000e04c64008000000001000004000000000000000000000000101f20000000 μ) (hκ : Agree μ ω d) : Agree μ ω (Dev.laneWakeFail d die l) := by
  unfold Dev.laneWakeFail
  repeat' (first | with_reducible assumption | intro _ | (simp only [id_eq]) | (with_reducible refine Dev.laneErr_kp (hf := by first | assumption | exact hμ.bit rfl) (hμ := hμ.up (by decide)) (hκ := ?_) ..) | (with_reducible refine Dev.laneWakeLate_kp (hμ := hμ.up (by decide)) (hκ := ?_) ..) | (with_reducible refine Dev.portTrainNow_kp (hμ := hμ.up (by decide)) (hκ := ?_) ..) | (with_reducible apply Agree.ite) | split)

theorem Dev.portSlept_kp {μ : Nat} {ω : Dev} (d : Dev) (p : Nat)  (hμ : Within 0x200000000000000000000000000000000000000000000004000000000000000000000000000000000000000000000000000000000 μ) (hκ : Agree μ ω d) : Agree μ ω (Dev.portSlept d p) := by
  unfold Dev.portSlept
  repeat' (first | with_reducible assumption | intro _ | (simp only [id_eq]) | (with_reducible refine Dev.setPortSt_kp (hμ := hμ.up (by decide)) (hκ := ?_) ..) | (with_reducible apply Agree.ite) | split)

theorem Dev.laneSlept_kp {μ : Nat} {ω : Dev} (d : Dev) (die : Nat) (l : Nat)  (hμ : Within 0x200000000000000000000000000000000000000000000004000000000000000000000000000000000000000000000000000000000 μ) (hκ : Agree μ ω d) : Agree μ ω (Dev.laneSlept d die l) := by
  unfold Dev.laneSlept
  repeat' (first | with_reducible assumption | intro _ | (simp only [id_eq]) | (with_reducible refine Dev.portSlept_kp (hμ := hμ.up (by decide)) (hκ := ?_) ..) | (with_reducible apply Agree.ite) | split)

theorem Dev.portSleep_kp {μ : Nat} {ω : Dev} (d : Dev) (p : Nat)  (hμ : Within 0x38010003e004000245000000000000000000000000000e04c64008000000001000004000000000000000000000000101f20000000 μ) (hκ : Agree μ ω d) : Agree μ ω (Dev.portSleep d p) := by
  unfold Dev.portSleep
  repeat' (first | with_reducible assumption | intro _ | (simp only [id_eq]) | (with_reducible refine Dev.laneCmd_kp (hμ := hμ.up (by decide)) (hκ := ?_) ..) | (with_reducible refine Dev.portSlept_kp (hμ := hμ.up (by decide)) (hκ := ?_) ..) | (with_reducible apply Agree.ite) | (with_reducible apply Agree.foldl) | (with_reducible apply Agree.foldl_fst) | (with_reducible apply Agree.foldl_snd) | split)

theorem Dev.refuseReq_kp {μ : Nat} {ω : Dev} (d : Dev) (p : Nat) (m : LMsg) (stat : Nat)  (hμ : Within 0x300000000000000000000000000000000000000000000600000000000000000000000000000000000000000000000000000000000 μ) (hκ : Agree μ ω d) : Agree μ ω (Dev.refuseReq d p m stat) := by
  unfold Dev.refuseReq
  repeat' (first | with_reducible assumption | intro _ | (simp only [id_eq]) | (with_reducible refine Dev.modPort_kp (hμ := hμ.up (by decide)) (hκ := ?_) ..) | (with_reducible refine Dev.portSend_kp (hμ := hμ.up (by decide)) (hκ := ?_) ..) | (with_reducible apply Agree.ite) | split)

theorem Dev.takeIn_kp {μ : Nat} {ω : Dev} (d : Dev) (p : Nat) (n : Nat) (m : LMsg) (fwd : Bool)  (hμ : Within 0x200000000000000000000000000000000000000000000800000000000000000000000000000000000000000000000000000000000 μ) (hκ : Agree μ ω d) : Agree μ ω (Dev.takeIn d p n m fwd).2 := by
  unfold Dev.takeIn
  repeat' (first | with_reducible assumption | intro _ | (simp only [id_eq]) | (with_reducible refine Dev.portTrk_kp (hμ := hμ.up (by decide)) (hκ := ?_) ..) | (with_reducible refine Dev.setPort_kp (hμ := hμ.up (by decide)) (hκ := ?_) ..) | (with_reducible apply Agree.ite) | split)

theorem Dev.takeIn_kp' {μ : Nat} {ω : Dev} {d : Dev} {p : Nat} {n : Nat} {m : LMsg} {fwd : Bool} {y0} {rd : Dev} (heq : Dev.takeIn d p n m fwd = (y0, rd))  (hμ : Within 0x200000000000000000000000000000000000000000000800000000000000000000000000000000000000000000000000000000000 μ) (hκ : Agree μ ω d) : Agree μ ω rd := by
  have k := Dev.takeIn_kp (μ := μ) (ω := ω) d p n m fwd  (hμ := hμ) (hκ := hκ); rw [heq] at k; exact k

theorem Dev.remoteLines_kp {μ : Nat} {ω : Dev} (d : Dev) (p : Nat) (t : Nat) (n : Nat) (m : LMsg)  (hμ : Within 0xc000000000000000000000000000000000000000000000000000000000000000000000000000000000000000000000000 μ) (hκ : Agree μ ω d) : Agree μ ω (Dev.remoteLines d p t n m) := by
  unfold Dev.remoteLines
  repeat' (first | with_reducible assumption | intro _ | (simp only [id_eq]) | (simp only [Agree.set_sqn (hμ.bit (by decide))]) | (with_reducible refine Dev.netPut_kp (hμ := hμ.up (by decide)) (hκ := ?_) ..) | (with_reducible apply Agree.ite) | (with_reducible apply Agree.foldl) | (with_reducible apply Agree.foldl_fst) | (with_reducible apply Agree.foldl_snd) | split)

theorem Dev.reqHere_kp {μ : Nat} {ω : Dev} (d : Dev) (p : Nat) (m : LMsg)  (hμ : Within 0x38000000e000000245000000000000000000000000000e00000000000000000000000000000000000000000a00000000000000000 μ) (hκ : Agree μ ω d) : Agree μ ω (Dev.reqHere d p m) := by
  unfold Dev.reqHere
  repeat' (first | with_reducible assumption | intro _ | (simp only [id_eq]) | (with_reducible refine Dev.chkFail_kp (hμ := hμ.up (by decide)) (hκ := ?_) ..) | (with_reducible refine Dev.modPort_kp (hμ := hμ.up (by decide)) (hκ := ?_) ..) | (with_reducible refine Dev.refuseReq_kp (hμ := hμ.up (by decide)) (hκ := ?_) ..) | (with_reducible refine Dev.remoteLines_kp (hμ := hμ.up (by decide)) (hκ := ?_) ..) | (with_reducible refine Dev.send_kp (hμ := hμ.up (by decide)) (hκ := ?_) ..) | (with_reducible refine Dev.takeIn_kp' (heq := by with_reducible assumption) (hμ := hμ.up (by decide)) (hκ := ?_) ..) | (with_reducible refine Dev.takeIn_kp (hμ := hμ.up (by decide)) (hκ := ?_) ..) | (with_reducible apply Agree.ite) | split)

theorem Dev.reqForward_kp {μ : Nat} {ω : Dev} (d : Dev) (p : Nat) (m : LMsg)  (hμ : Within 0x300000000000000000000000000000000000000000000e00640000000000000000000000000000000000000000000000000000000 μ) (hκ : Agree μ ω d) : Agree μ ω (Dev.reqForward d p m) := by
  unfold Dev.reqForward
  repeat' (first | with_reducible assumption | intro _ | (simp only [id_eq]) | (with_reducible refine Dev.countSat_kp (hf := by first | assumption | exact hμ.bit rfl) (hμ := hμ.up (by decide)) (hκ := ?_) ..) | (with_reducible refine Dev.portOut_kp (heq := by with_reducible assumption) (hμ := hμ.up (by decide)) (hκ := ?_) ..) | (with_reducible refine Agree.getD _ _ (fun _ he => Dev.portOut_kp (heq := he) (hμ := hμ.up (by decide)) (hκ := ?_) ..) ?_) | (with_reducible refine Dev.put_kp (hf := by first | assumption | exact hμ.bit rfl) (hμ := hμ.up (by decide)) (hκ := ?_) ..) | (with_reducible refine Dev.refuseReq_kp (hμ := hμ.up (by decide)) (hκ := ?_) ..) | (with_reducible refine Dev.takeIn_kp' (heq := by with_reducible assumption) (hμ := hμ.up (by decide)) (hκ := ?_) ..) | (with_reducible refine Dev.takeIn_kp (hμ := hμ.up (by decide)) (hκ := ?_) ..) | (with_reducible apply Agree.ite) | split)

theorem Dev.linkRequest_kp {μ : Nat} {ω : Dev} (d : Dev) (p : Nat)  (hμ : Within 0x38000000e000000245000000000000000000000000000e00640000000000000000000000000000000000000a00000000000000000 μ) (hκ : Agree μ ω d) : Agree μ ω (Dev.linkRequest d p) := by
  unfold Dev.linkRequest
  repeat' (first | with_reducible assumption | intro _ | (simp only [id_eq]) | (with_reducible refine Dev.refuseReq_kp (hμ := hμ.up (by decide)) (hκ := ?_) ..) | (with_reducible refine Dev.reqForward_kp (hμ := hμ.up (by decide)) (hκ := ?_) ..) | (with_reducible refine Dev.reqHere_kp (hμ := hμ.up (by decide)) (hκ := ?_) ..) | (with_reducible apply Agree.ite) | split)

theorem Dev.portResponse_kp {μ : Nat} {ω : Dev} (d : Dev) (p : Nat) (slot : Nat) (stat : Nat) (data : Bytes)  (hμ : Within 0x300000000000000000000000000000000000000000000e00800000000000000000000000000000000000000000000000000000000 μ) (hκ : Agree μ ω d) : Agree μ ω (Dev.portResponse d p slot stat data) := by
  unfold Dev.portResponse
  repeat' (first | with_reducible assumption | intro _ | (simp only [id_eq]) | (with_reducible refine Dev.answerIn_kp (hμ := hμ.up (by decide)) (hκ := ?_) ..) | (with_reducible refine Dev.countSat_kp (hf := by first | assumption | exact hμ.bit rfl) (hμ := hμ.up (by decide)) (hκ := ?_) ..) | (with_reducible refine Dev.modPort_kp (hμ := hμ.up (by decide)) (hκ := ?_) ..) | (with_reducible refine Dev.put_kp (hf := by first | assumption | exact hμ.bit rfl) (hμ := hμ.up (by decide)) (hκ := ?_) ..) | (with_reducible apply Agree.ite) | split)

theorem Dev.portAddAck_kp {μ : Nat} {ω : Dev} (d : Dev) (p : Nat) (m : CtlMsg)  (hμ : Within 0x300000000000000000000000000000000000000000000e00800000000000000000000000000000000000000000000000000000000 μ) (hκ : Agree μ ω d) : Agree μ ω (Dev.portAddAck d p m) := by
  unfold Dev.portAddAck
  repeat' (first | with_reducible assumption | intro _ | (simp only [id_eq]) | (with_reducible refine Dev.answerIn_kp (hμ := hμ.up (by decide)) (hκ := ?_) ..) | (with_reducible refine Dev.countSat_kp (hf := by first | assumption | exact hμ.bit rfl) (hμ := hμ.up (by decide)) (hκ := ?_) ..) | (with_reducible apply Agree.ite) | split)

theorem Dev.deliverRsp_kp {μ : Nat} {ω : Dev} (d : Dev) (p : Nat) (o : OTrk) (m : LMsg)  (hμ : Within 0x38010003e004000245000000000000000000000000000e00800000000000001000004000000000000000000000000101f20000000 μ) (hκ : Agree μ ω d) : Agree μ ω (Dev.deliverRsp d p o m) := by
  unfold Dev.deliverRsp
  repeat' (first | with_reducible assumption | intro _ | (simp only [id_eq]) | (with_reducible refine Dev.addFail_kp (hμ := hμ.up (by decide)) (hκ := ?_) ..) | (with_reducible refine Dev.answerIn_kp (hμ := hμ.up (by decide)) (hκ := ?_) ..) | (with_reducible refine Dev.respond_kp (hμ := hμ.up (by decide)) (hκ := ?_) ..) | (with_reducible refine Dev.send_kp (hμ := hμ.up (by decide)) (hκ := ?_) ..) | (with_reducible apply Agree.ite) | split)

theorem Dev.linkResponse_kp {μ : Nat} {ω : Dev} (d : Dev) (p : Nat)  (hμ : Within 0x38010003e004000245000000000000000000000000000e00840000000000001000004000000000000000000000000101f20000000 μ) (hκ : Agree μ ω d) : Agree μ ω (Dev.linkResponse d p) := by
  unfold Dev.linkResponse
  repeat' (first | with_reducible assumption | intro _ | (simp only [id_eq]) | (with_reducible refine Dev.countSat_kp (hf := by first | assumption | exact hμ.bit rfl) (hμ := hμ.up (by decide)) (hκ := ?_) ..) | (with_reducible refine Dev.deliverRsp_kp (hμ := hμ.up (by decide)) (hκ := ?_) ..) | (with_reducible refine Dev.modPort_kp (hμ := hμ.up (by decide)) (hκ := ?_) ..) | (with_reducible refine Dev.outFall_kp (hμ := hμ.up (by decide)) (hκ := ?_) ..) | (with_reducible refine Dev.portTrk_kp (hμ := hμ.up (by decide)) (hκ := ?_) ..) | (with_reducible apply Agree.ite) | split)

theorem Dev.remoteTimeout_kp {μ : Nat} {ω : Dev} (d : Dev) (p tag : Nat) (hμ : Within 0x38010003e004000245000000000000000000000000000e00e40000000000001000004000000000000000000000000101f20000000 μ) (hκ : Agree μ ω d) : Agree μ ω (Dev.remoteTimeout d p tag) := by
  have hr : ∀ (e : Dev) (i j : Nat), Agree μ ω e → Agree μ ω (Dev.remoteTimeout.freeIn e i j) := by
    intro e i j hκ
    unfold Dev.remoteTimeout.freeIn
    repeat' (first | with_reducible assumption | intro _ | (simp only [id_eq]) | (with_reducible refine Dev.modPort_kp (hμ := hμ.up (by decide)) (hκ := ?_) ..) | (with_reducible refine Dev.otrkFail_kp (hμ := hμ.up (by decide)) (hκ := ?_) ..) | (with_reducible refine Dev.portTrk_kp (hμ := hμ.up (by decide)) (hκ := ?_) ..) | (with_reducible refine Dev.put_kp (hf := by first | assumption | exact hμ.bit rfl) (hμ := hμ.up (by decide)) (hκ := ?_) ..) | (with_reducible apply Agree.ite) | split)
  unfold Dev.remoteTimeout
  repeat' (first | with_reducible assumption | intro _ | (simp only [id_eq]) | (with_reducible refine hr _ _ _ ?_) | (with_reducible refine Dev.modPort_kp (hμ := hμ.up (by decide)) (hκ := ?_) ..) | (with_reducible refine Dev.otrkFail_kp (hμ := hμ.up (by decide)) (hκ := ?_) ..) | (with_reducible refine Dev.portTrk_kp (hμ := hμ.up (by decide)) (hκ := ?_) ..) | (with_reducible refine Dev.put_kp (hf := by first | assumption | exact hμ.bit rfl) (hμ := hμ.up (by decide)) (hκ := ?_) ..) | (with_reducible apply Agree.ite) | split)

theorem Dev.sendAway_kp {μ : Nat} {ω : Dev} {d : Dev} {t : Txn} {g : Nat} {rd : Dev} (heq : Dev.sendAway d t g = some rd)
    (hμ : Within 0x300000004000000000000000000000000000000000000e00640000000000000000000000000000000000000000000000000000000 μ) (hκ : Agree μ ω d) : Agree μ ω rd := by
  unfold Dev.sendAway at heq
  simp only at heq
  split at heq
  · contradiction
  · split at heq
    · simp only [Option.some.injEq] at heq
      rw [← heq]
      repeat' (first | with_reducible assumption | intro _ | (simp only [id_eq]) | (with_reducible refine Dev.countSat_kp (hf := by first | assumption | exact hμ.bit rfl) (hμ := hμ.up (by decide)) (hκ := ?_) ..) | (with_reducible refine Dev.portOut_kp (heq := by with_reducible assumption) (hμ := hμ.up (by decide)) (hκ := ?_) ..) | (with_reducible refine Agree.getD _ _ (fun _ he => Dev.portOut_kp (heq := he) (hμ := hμ.up (by decide)) (hκ := ?_) ..) ?_) | (with_reducible refine Dev.put_kp (hf := by first | assumption | exact hμ.bit rfl) (hμ := hμ.up (by decide)) (hκ := ?_) ..) | (with_reducible refine Dev.respond_kp (hμ := hμ.up (by decide)) (hκ := ?_) ..) | (with_reducible apply Agree.ite) | split)
    · split at heq
      · simp only [Option.some.injEq] at heq
        rw [← heq]
        repeat' (first | with_reducible assumption | intro _ | (simp only [id_eq]) | (with_reducible refine Dev.countSat_kp (hf := by first | assumption | exact hμ.bit rfl) (hμ := hμ.up (by decide)) (hκ := ?_) ..) | (with_reducible refine Dev.portOut_kp (heq := by with_reducible assumption) (hμ := hμ.up (by decide)) (hκ := ?_) ..) | (with_reducible refine Agree.getD _ _ (fun _ he => Dev.portOut_kp (heq := he) (hμ := hμ.up (by decide)) (hκ := ?_) ..) ?_) | (with_reducible refine Dev.put_kp (hf := by first | assumption | exact hμ.bit rfl) (hμ := hμ.up (by decide)) (hκ := ?_) ..) | (with_reducible refine Dev.respond_kp (hμ := hμ.up (by decide)) (hκ := ?_) ..) | (with_reducible apply Agree.ite) | split)
      · exact Dev.portOut_kp heq (hμ.up (by decide)) hκ

theorem Dev.addAway_kp {μ : Nat} {ω : Dev} {d : Dev} {q pkg : Nat} {m : CtlMsg} {rd : Dev} (heq : Dev.addAway d q pkg m = some rd)
    (hμ : Within 0x38010003e004000245000000000000000000000000000e00440000000000001000004000000000000000000000000101f20000000 μ) (hκ : Agree μ ω d) : Agree μ ω rd := by
  unfold Dev.addAway at heq
  simp only at heq
  split at heq
  · contradiction
  · split at heq
    · simp only [Option.some.injEq] at heq
      rw [← heq]
      repeat' (first | with_reducible assumption | intro _ | (simp only [id_eq]) | (with_reducible refine Dev.addFail_kp (hμ := hμ.up (by decide)) (hκ := ?_) ..) | (with_reducible refine Dev.countSat_kp (hf := by first | assumption | exact hμ.bit rfl) (hμ := hμ.up (by decide)) (hκ := ?_) ..) | (with_reducible refine Dev.portOut_kp (heq := by with_reducible assumption) (hμ := hμ.up (by decide)) (hκ := ?_) ..) | (with_reducible refine Agree.getD _ _ (fun _ he => Dev.portOut_kp (heq := he) (hμ := hμ.up (by decide)) (hκ := ?_) ..) ?_) | (with_reducible apply Agree.ite) | split)
    · exact Dev.portOut_kp heq (hμ.up (by decide)) hκ

theorem Dev.routeSet_kp {μ : Nat} {ω : Dev} (d : Dev) (die : Nat) (pkg : Nat) (v : Nat)  (hμ : Within 0x20000000000000000000000000000000000000000000000000000000 μ) (hκ : Agree μ ω d) : Agree μ ω (Dev.routeSet d die pkg v) := by
  unfold Dev.routeSet
  repeat' (first | with_reducible assumption | intro _ | (simp only [id_eq]) | (with_reducible refine Dev.writeKey_kp _ _ _ _ _ _ _ (by first | assumption | exact hμ.bit (by decide) | exact hall _) ?_) | (with_reducible refine Dev.put_kp (hf := by first | assumption | exact hμ.bit rfl) (hμ := hμ.up (by decide)) (hκ := ?_) ..) | (with_reducible apply Agree.ite) | split)

theorem Dev.routeWrite_kp {μ : Nat} {ω : Dev} (d : Dev) (die : Nat) (v : Nat)  (hμ : Within 0x20000000000000000000000000000000000000000000000000000000 μ) (hκ : Agree μ ω d) : Agree μ ω (Dev.routeWrite d die v) := by
  unfold Dev.routeWrite
  repeat' (first | with_reducible assumption | intro _ | (simp only [id_eq]) | (with_reducible refine Dev.routeSet_kp (hμ := hμ.up (by decide)) (hκ := ?_) ..) | (with_reducible apply Agree.ite) | split)

theorem Dev.routeClear_kp {μ : Nat} {ω : Dev} (d : Dev) (die : Nat) (pkg : Nat)  (hμ : Within 0x20000000000000000000000000000000000000000000000000000000 μ) (hκ : Agree μ ω d) : Agree μ ω (Dev.routeClear d die pkg) := by
  unfold Dev.routeClear
  repeat' (first | with_reducible assumption | intro _ | (simp only [id_eq]) | (with_reducible refine Dev.put_kp (hf := by first | assumption | exact hμ.bit rfl) (hμ := hμ.up (by decide)) (hκ := ?_) ..) | (with_reducible apply Agree.ite) | split)

theorem Dev.engOld_kp {μ : Nat} {ω : Dev} (d : Dev) (die : Nat) (e : Nat)  (hμ : Within 0x30000000000000000000000000000000000000000000000000000000000000000000000000000000000000000000000000 μ) (hκ : Agree μ ω d) : Agree μ ω (Dev.engOld d die e) := by
  unfold Dev.engOld
  repeat' (first | with_reducible assumption | intro _ | (simp only [id_eq]) | (with_reducible refine Dev.modEng_kp (hμ := hμ.up (by decide)) (hκ := ?_) ..) | (with_reducible refine Dev.setUnf_kp (hμ := hμ.up (by decide)) (hκ := ?_) ..) | (with_reducible apply Agree.ite) | (with_reducible apply Agree.foldl) | (with_reducible apply Agree.foldl_fst) | (with_reducible apply Agree.foldl_snd) | split)

theorem Dev.rekeyCut_kp {μ : Nat} {ω : Dev} (d : Dev) (die : Nat) (p : Nat)  (hμ : Within 0x500030000000000000000000000000000000000000000000000000000000000681000000000000000000000000000000000000 μ) (hκ : Agree μ ω d) : Agree μ ω (Dev.rekeyCut d die p) := by
  unfold Dev.rekeyCut
  repeat' (first | with_reducible assumption | intro _ | (simp only [id_eq]) | (simp only [Agree.set_krg_drains (hμ.bit (by decide)) (hμ.bit (by decide))]) | (with_reducible refine Dev.engOld_kp (hμ := hμ.up (by decide)) (hκ := ?_) ..) | (with_reducible refine Dev.put_kp (hf := by first | assumption | exact hμ.bit rfl) (hμ := hμ.up (by decide)) (hκ := ?_) ..) | (with_reducible apply Agree.ite) | (with_reducible apply Agree.foldl) | (with_reducible apply Agree.foldl_fst) | (with_reducible apply Agree.foldl_snd) | split)

theorem Dev.rkctlSet_kp {μ : Nat} {ω : Dev} (d : Dev) (die : Nat) (p : Nat) (v : Nat)  (hμ : Within 0x500030000000000000000000000000000000000000000000000000000000000681000000000000000000000000000000000000 μ) (hκ : Agree μ ω d) : Agree μ ω (Dev.rkctlSet d die p v) := by
  unfold Dev.rkctlSet
  repeat' (first | with_reducible assumption | intro _ | (simp only [id_eq]) | (with_reducible refine Dev.put_kp (hf := by first | assumption | exact hμ.bit rfl) (hμ := hμ.up (by decide)) (hκ := ?_) ..) | (with_reducible refine Dev.rekeyCut_kp (hμ := hμ.up (by decide)) (hκ := ?_) ..) | (with_reducible apply Agree.ite) | split)

theorem Dev.rkctlWrite_kp {μ : Nat} {ω : Dev} (d : Dev) (die : Nat) (v : Nat)  (hμ : Within 0x500030000000000000000000000000000000000000000000000000000000000681000000000000000000000000000000000000 μ) (hκ : Agree μ ω d) : Agree μ ω (Dev.rkctlWrite d die v) := by
  unfold Dev.rkctlWrite
  repeat' (first | with_reducible assumption | intro _ | (simp only [id_eq]) | (with_reducible refine Dev.rkctlSet_kp (hμ := hμ.up (by decide)) (hκ := ?_) ..) | (with_reducible apply Agree.ite) | split)

theorem Dev.rekeyDone_kp {μ : Nat} {ω : Dev} (d : Dev) (die : Nat) (p : Nat)  (hμ : Within 0x400000000000000000000000000000000000000000000000000000000000000180000000000000000000000000000000000000 μ) (hκ : Agree μ ω d) : Agree μ ω (Dev.rekeyDone d die p) := by
  unfold Dev.rekeyDone
  repeat' (first | with_reducible assumption | intro _ | (simp only [id_eq]) | (simp only [Agree.set_drains (hμ.bit (by decide))]) | (with_reducible refine Dev.put_kp (hf := by first | assumption | exact hμ.bit rfl) (hμ := hμ.up (by decide)) (hκ := ?_) ..) | (with_reducible apply Agree.ite) | split)

theorem Dev.tgtUndef_kp {μ : Nat} {ω : Dev} (d : Dev) (die : Nat) (t : Tgt)  (hμ : Within 0x10000000000000000000000000000000000000000000000000000000000000000000000000000000000000000000000 μ) (hκ : Agree μ ω d) : Agree μ ω (Dev.tgtUndef d die t) := by
  unfold Dev.tgtUndef
  repeat' (first | with_reducible assumption | intro _ | (simp only [id_eq]) | (simp only [Agree.set_unwritten (hμ.bit (by decide))]) | (with_reducible apply Agree.ite) | split)

theorem Dev.discard_kp {μ : Nat} {ω : Dev} (d : Dev) (p : Txn → Bool)  (hμ : Within 0x184000000000000000000000000000000000000000000000000000000000000000000000000000000000000000000000000 μ) (hκ : Agree μ ω d) : Agree μ ω (Dev.discard d p) := by
  unfold Dev.discard
  repeat' (first | with_reducible assumption | intro _ | (simp only [id_eq]) | (simp only [Agree.set_net_bq_rdq (hμ.bit (by decide)) (hμ.bit (by decide)) (hμ.bit (by decide))]) | (with_reducible apply Agree.ite) | split)

theorem Dev.oldUndef_kp {μ : Nat} {ω : Dev} (d : Dev) (die : Nat) (e : Nat)  (hμ : Within 0x100010010000000000000000000000000000000000000000000000000000000004000000000000000000000000000000000000 μ) (hκ : Agree μ ω d) : Agree μ ω (Dev.oldUndef d die e) := by
  unfold Dev.oldUndef
  repeat' (first | with_reducible assumption | intro _ | (simp only [id_eq]) | (with_reducible refine Dev.resolve_kp' (heq := by with_reducible assumption) (hμ := hμ.up (by decide)) (hκ := ?_) ..) | (with_reducible refine Dev.resolve_kp (hμ := hμ.up (by decide)) (hκ := ?_) ..) | (with_reducible refine Dev.tgtUndef_kp (hμ := hμ.up (by decide)) (hκ := ?_) ..) | (with_reducible apply Agree.ite) | (with_reducible apply Agree.foldl) | (with_reducible apply Agree.foldl_fst) | (with_reducible apply Agree.foldl_snd) | split)

theorem Dev.rekeyHalt_kp {μ : Nat} {ω : Dev} (d : Dev) (die : Nat) (e : Nat) (p : Nat)  (hμ : Within 0x801001be014000245000000000000000000000000000000000000000000000000604000000000000000000000000101f20000000 μ) (hκ : Agree μ ω d) : Agree μ ω (Dev.rekeyHalt d die e p) := by
  unfold Dev.rekeyHalt
  repeat' (first | with_reducible assumption | intro _ | (simp only [id_eq]) | (with_reducible refine Dev.discard_kp (hμ := hμ.up (by decide)) (hκ := ?_) ..) | (with_reducible refine Dev.draw_kp' (heq := by with_reducible assumption) (hμ := hμ.up (by decide)) (hκ := ?_) ..) | (with_reducible refine Dev.draw_kp (hμ := hμ.up (by decide)) (hκ := ?_) ..) | (with_reducible refine Dev.engFail_kp (hμ := hμ.up (by decide)) (hκ := ?_) ..) | (with_reducible refine Dev.engFollow_kp (hμ := hμ.up (by decide)) (hκ := ?_) ..) | (with_reducible refine Dev.engRecord_kp (hμ := hμ.up (by decide)) (hκ := ?_) ..) | (with_reducible refine Dev.freeRows_kp (hμ := hμ.up (by decide)) (hκ := ?_) ..) | (with_reducible refine Dev.modEng_kp (hμ := hμ.up (by decide)) (hκ := ?_) ..) | (with_reducible refine Dev.oldUndef_kp (hμ := hμ.up (by decide)) (hκ := ?_) ..) | (with_reducible refine Dev.put_kp (hf := by first | assumption | exact hμ.bit rfl) (hμ := hμ.up (by decide)) (hκ := ?_) ..) | (with_reducible refine Dev.setTen_kp (hμ := hμ.up (by decide)) (hκ := ?_) ..) | (with_reducible refine Dev.setUnf_kp (hμ := hμ.up (by decide)) (hκ := ?_) ..) | (with_reducible apply Agree.ite) | (with_reducible apply Agree.foldl) | (with_reducible apply Agree.foldl_fst) | (with_reducible apply Agree.foldl_snd) | split)

theorem Dev.rekeyTimeout_kp {μ : Nat} {ω : Dev} (d : Dev) (die : Nat) (p : Nat)  (hμ : Within 0x905001be014000245000000000000000000000000000000000000009800000800684000000000000000000000000101f20000000 μ) (hκ : Agree μ ω d) : Agree μ ω (Dev.rekeyTimeout d die p) := by
  unfold Dev.rekeyTimeout
  repeat' (first | with_reducible assumption | intro _ | (simp only [id_eq]) | (simp only [Agree.set_drains (hμ.bit (by decide))]) | (with_reducible refine Dev.discard_kp (hμ := hμ.up (by decide)) (hκ := ?_) ..) | (with_reducible refine Dev.put_kp (hf := by first | assumption | exact hμ.bit rfl) (hμ := hμ.up (by decide)) (hκ := ?_) ..) | (with_reducible refine Dev.rekeyHalt_kp (hμ := hμ.up (by decide)) (hκ := ?_) ..) | (with_reducible refine Dev.siteDown_kp (hμ := hμ.up (by decide)) (hκ := ?_) ..) | (with_reducible apply Agree.ite) | (with_reducible apply Agree.foldl) | (with_reducible apply Agree.foldl_fst) | (with_reducible apply Agree.foldl_snd) | split)

theorem Dev.setEth_kp {μ : Nat} {ω : Dev} (d : Dev) (die : Nat) (p : Nat) (x : EPort)  (hμ : Within 0x400000000000000000000000000000000000000000000000000000000000000000000000000000000000000000000000000000000 μ) (hκ : Agree μ ω d) : Agree μ ω (Dev.setEth d die p x) := by
  unfold Dev.setEth
  repeat' (first | with_reducible assumption | intro _ | (simp only [id_eq]) | (simp only [Agree.set_eths (hμ.bit (by decide))]) | (with_reducible refine Dev.put_kp (hf := by first | assumption | exact hμ.bit rfl) (hμ := hμ.up (by decide)) (hκ := ?_) ..) | (with_reducible apply Agree.ite) | split)

theorem Dev.modEth_kp {μ : Nat} {ω : Dev} (d : Dev) (die : Nat) (p : Nat) (f : EPort → EPort)  (hμ : Within 0x400000000000000000000000000000000000000000000000000000000000000000000000000000000000000000000000000000000 μ) (hκ : Agree μ ω d) : Agree μ ω (Dev.modEth d die p f) := by
  unfold Dev.modEth
  repeat' (first | with_reducible assumption | intro _ | (simp only [id_eq]) | (with_reducible refine Dev.setEth_kp (hμ := hμ.up (by decide)) (hκ := ?_) ..) | (with_reducible apply Agree.ite) | split)

theorem Dev.ethRec_kp {μ : Nat} {ω : Dev} (d : Dev) (die : Nat) (p : Nat) (code : Nat)  (hμ : Within 0x80000000000000245000000000000000000000000000000000000000000000000000000000000000000000000000000000000000 μ) (hκ : Agree μ ω d) : Agree μ ω (Dev.ethRec d die p code) := by
  unfold Dev.ethRec
  repeat' (first | with_reducible assumption | intro _ | (simp only [id_eq]) | (with_reducible refine Dev.linkRec_kp (hμ := hμ.up (by decide)) (hκ := ?_) ..) | (with_reducible apply Agree.ite) | split)

theorem Dev.ethStart_kp {μ : Nat} {ω : Dev} (d : Dev) (die : Nat) (p : Nat)  (hμ : Within 0x400000000000000000000000000000000000008000000000000000000000000000000000000000000000000000000000000000000 μ) (hκ : Agree μ ω d) : Agree μ ω (Dev.ethStart d die p) := by
  unfold Dev.ethStart
  repeat' (first | with_reducible assumption | intro _ | (simp only [id_eq]) | (with_reducible refine Dev.modEth_kp (hμ := hμ.up (by decide)) (hκ := ?_) ..) | (with_reducible refine Dev.put_kp (hf := by first | assumption | exact hμ.bit rfl) (hμ := hμ.up (by decide)) (hκ := ?_) ..) | (with_reducible apply Agree.ite) | split)

theorem Dev.ethDownNow_kp {μ : Nat} {ω : Dev} (d : Dev) (die : Nat) (p : Nat)  (hμ : Within 0x38010003e004000245000000000000000000008000000e04c60008000000001000004000000000000000000000000101f20000000 μ) (hκ : Agree μ ω d) : Agree μ ω (Dev.ethDownNow d die p) := by
  unfold Dev.ethDownNow
  repeat' (first | with_reducible assumption | intro _ | (simp only [id_eq]) | (with_reducible refine Dev.laneDownNow_kp (hμ := hμ.up (by decide)) (hκ := ?_) ..) | (with_reducible refine Dev.put_kp (hf := by first | assumption | exact hμ.bit rfl) (hμ := hμ.up (by decide)) (hκ := ?_) ..) | (with_reducible apply Agree.ite) | (with_reducible apply Agree.foldl) | (with_reducible apply Agree.foldl_fst) | (with_reducible apply Agree.foldl_snd) | split)

theorem Dev.ethCmd_kp {μ : Nat} {ω : Dev} (d : Dev) (die : Nat) (p : Nat) (cmd : Nat)  (hμ : Within 0x78010003e004000245000000000000000000008000000e04c60008000000001000004000000000000000000000000101f20000000 μ) (hκ : Agree μ ω d) : Agree μ ω (Dev.ethCmd d die p cmd) := by
  unfold Dev.ethCmd
  repeat' (first | with_reducible assumption | intro _ | (simp only [id_eq]) | (with_reducible refine Dev.ethDownNow_kp (hμ := hμ.up (by decide)) (hκ := ?_) ..) | (with_reducible refine Dev.ethStart_kp (hμ := hμ.up (by decide)) (hκ := ?_) ..) | (with_reducible refine Dev.put_kp (hf := by first | assumption | exact hμ.bit rfl) (hμ := hμ.up (by decide)) (hκ := ?_) ..) | (with_reducible apply Agree.ite) | split)

theorem Dev.ethEnded_kp {μ : Nat} {ω : Dev} (d : Dev) (die : Nat) (p : Nat)  (hμ : Within 0x78010003e00400024500000000000000000000c000000e04c60008000000001000004000000000000000000000000101f20000000 μ) (hκ : Agree μ ω d) : Agree μ ω (Dev.ethEnded d die p) := by
  unfold Dev.ethEnded
  repeat' (first | with_reducible assumption | intro _ | (simp only [id_eq]) | (with_reducible refine Dev.ethCmd_kp (hμ := hμ.up (by decide)) (hκ := ?_) ..) | (with_reducible refine Dev.modEth_kp (hμ := hμ.up (by decide)) (hκ := ?_) ..) | (with_reducible refine Dev.put_kp (hf := by first | assumption | exact hμ.bit rfl) (hμ := hμ.up (by decide)) (hκ := ?_) ..) | (with_reducible apply Agree.ite) | split)

theorem Dev.ethCmdWrite_kp {μ : Nat} {ω : Dev} (d : Dev) (die : Nat) (p : Nat) (cmd : Nat)  (hμ : Within 0x78010003e00400024500000000000000000000c000000e04c60008000000001000004000000000000000000000000101f20000000 μ) (hκ : Agree μ ω d) : Agree μ ω (Dev.ethCmdWrite d die p cmd) := by
  unfold Dev.ethCmdWrite
  repeat' (first | with_reducible assumption | intro _ | (simp only [id_eq]) | (with_reducible refine Dev.ethCmd_kp (hμ := hμ.up (by decide)) (hκ := ?_) ..) | (with_reducible refine Dev.modEth_kp (hμ := hμ.up (by decide)) (hκ := ?_) ..) | (with_reducible refine Dev.put_kp (hf := by first | assumption | exact hμ.bit rfl) (hμ := hμ.up (by decide)) (hκ := ?_) ..) | (with_reducible apply Agree.ite) | split)

theorem Dev.ethCtlWrite_kp {μ : Nat} {ω : Dev} (d : Dev) (die : Nat) (p : Nat) (v : Nat)  (hμ : Within 0x78010003e00400024500000000000000000000c000000e04c60008000000001000004000000000000000000000000101f20000000 μ) (hκ : Agree μ ω d) : Agree μ ω (Dev.ethCtlWrite d die p v) := by
  unfold Dev.ethCtlWrite
  repeat' (first | with_reducible assumption | intro _ | (simp only [id_eq]) | (with_reducible refine Dev.writeKey_kp _ _ _ _ _ _ _ (by first | assumption | exact hμ.bit (by decide) | exact hall _) ?_) | (with_reducible refine Dev.ethCmdWrite_kp (hμ := hμ.up (by decide)) (hκ := ?_) ..) | (with_reducible apply Agree.ite) | split)

theorem Dev.ethFail_kp {μ : Nat} {ω : Dev} (d : Dev) (die : Nat) (p : Nat) (code : Nat)  (hμ : Within 0x78010003e00400024500000000000000000000c000000e04c60008000000001000004000000000000000000000000101f20000000 μ) (hκ : Agree μ ω d) : Agree μ ω (Dev.ethFail d die p code) := by
  unfold Dev.ethFail
  repeat' (first | with_reducible assumption | intro _ | (simp only [id_eq]) | (with_reducible refine Dev.ethDownNow_kp (hμ := hμ.up (by decide)) (hκ := ?_) ..) | (with_reducible refine Dev.ethEnded_kp (hμ := hμ.up (by decide)) (hκ := ?_) ..) | (with_reducible refine Dev.ethRec_kp (hμ := hμ.up (by decide)) (hκ := ?_) ..) | (with_reducible apply Agree.ite) | split)

theorem Dev.ethStepEnd_kp {μ : Nat} {ω : Dev} (d : Dev) (die : Nat) (p : Nat) (resolved : Bool)  (hμ : Within 0x78010003e00400024500000000000000000000c000000e04c64008000000001000004000000000000000000000000101f20000000 μ) (hκ : Agree μ ω d) : Agree μ ω (Dev.ethStepEnd d die p resolved) := by
  unfold Dev.ethStepEnd
  repeat' (first | with_reducible assumption | intro _ | (simp only [id_eq]) | (with_reducible refine Dev.ethEnded_kp (hμ := hμ.up (by decide)) (hκ := ?_) ..) | (with_reducible refine Dev.ethFail_kp (hμ := hμ.up (by decide)) (hκ := ?_) ..) | (with_reducible refine Dev.laneFull_kp (hμ := hμ.up (by decide)) (hκ := ?_) ..) | (with_reducible refine Dev.put_kp (hf := by first | assumption | exact hμ.bit rfl) (hμ := hμ.up (by decide)) (hκ := ?_) ..) | (with_reducible apply Agree.ite) | (with_reducible apply Agree.foldl) | (with_reducible apply Agree.foldl_fst) | (with_reducible apply Agree.foldl_snd) | split)

theorem Dev.ethAnTimeout_kp {μ : Nat} {ω : Dev} (d : Dev) (die : Nat) (p : Nat)  (hμ : Within 0x78010003e00400024500000000000000000000c000000e04c60008000000001000004000000000000000000000000101f20000000 μ) (hκ : Agree μ ω d) : Agree μ ω (Dev.ethAnTimeout d die p) := by
  unfold Dev.ethAnTimeout
  repeat' (first | with_reducible assumption | intro _ | (simp only [id_eq]) | (with_reducible refine Dev.ethFail_kp (hμ := hμ.up (by decide)) (hκ := ?_) ..) | (with_reducible refine Dev.put_kp (hf := by first | assumption | exact hμ.bit rfl) (hμ := hμ.up (by decide)) (hκ := ?_) ..) | (with_reducible apply Agree.ite) | split)

theorem Dev.ethUpTimeout_kp {μ : Nat} {ω : Dev} (d : Dev) (die : Nat) (p : Nat)  (hμ : Within 0x78010003e00400024500000000000000000000c000000e04c60008000000001000004000000000000000000000000101f20000000 μ) (hκ : Agree μ ω d) : Agree μ ω (Dev.ethUpTimeout d die p) := by
  unfold Dev.ethUpTimeout
  repeat' (first | with_reducible assumption | intro _ | (simp only [id_eq]) | (with_reducible refine Dev.ethFail_kp (hμ := hμ.up (by decide)) (hκ := ?_) ..) | (with_reducible apply Agree.ite) | split)

theorem Dev.ethLockLoss_kp {μ : Nat} {ω : Dev} (d : Dev) (die : Nat) (p : Nat)  (hμ : Within 0x400000000000000000000000000000000000008000000000000000000000000000000000000000000000000000000000000000000 μ) (hκ : Agree μ ω d) : Agree μ ω (Dev.ethLockLoss d die p) := by
  unfold Dev.ethLockLoss
  repeat' (first | with_reducible assumption | intro _ | (simp only [id_eq]) | (with_reducible refine Dev.ethStart_kp (hμ := hμ.up (by decide)) (hκ := ?_) ..) | (with_reducible apply Agree.ite) | split)

theorem Dev.ethQueue_kp {μ : Nat} {ω : Dev} (d : Dev) (die : Nat) (p : Nat) (f : EFrame)  (hμ : Within 0x400000000000000000000000000000000000000000000000000000000000000000000000000000000000000000000000000000000 μ) (hκ : Agree μ ω d) : Agree μ ω (Dev.ethQueue d die p f) := by
  unfold Dev.ethQueue
  repeat' (first | with_reducible assumption | intro _ | (simp only [id_eq]) | (with_reducible refine Dev.modEth_kp (hμ := hμ.up (by decide)) (hκ := ?_) ..) | (with_reducible apply Agree.ite) | split)

theorem Dev.ethSend_kp {μ : Nat} {ω : Dev} (d : Dev) (die : Nat) (p : Nat) (dst : Dest) (prio : Nat) (pkt : Bytes)  (hμ : Within 0x400000000000000000000000000000000000000000000000000000000000000000000000000000000000000000000000000000000 μ) (hκ : Agree μ ω d) : Agree μ ω (Dev.ethSend d die p dst prio pkt) := by
  unfold Dev.ethSend
  repeat' (first | with_reducible assumption | intro _ | (simp only [id_eq]) | (with_reducible refine Dev.ethQueue_kp (hμ := hμ.up (by decide)) (hκ := ?_) ..) | (with_reducible apply Agree.ite) | split)

theorem Dev.pfcSend_kp {μ : Nat} {ω : Dev} (d : Dev) (die : Nat) (p : Nat) (prio : Nat) (quanta : Nat)  (hμ : Within 0x400000000000000000000000000000000008000000000000000000000000000000000000000000000000000000000000000000000 μ) (hκ : Agree μ ω d) : Agree μ ω (Dev.pfcSend d die p prio quanta) := by
  unfold Dev.pfcSend
  repeat' (first | with_reducible assumption | intro _ | (simp only [id_eq]) | (with_reducible refine Dev.count_kp (hf := by first | assumption | exact hμ.bit rfl) (hμ := hμ.up (by decide)) (hκ := ?_) ..) | (with_reducible refine Dev.ethQueue_kp (hμ := hμ.up (by decide)) (hκ := ?_) ..) | (with_reducible apply Agree.ite) | split)

theorem Dev.pfcCheck_kp {μ : Nat} {ω : Dev} (d : Dev) (die : Nat) (p : Nat) (prio : Nat)  (hμ : Within 0x400000000000000000000000000000000008000000000000000000000000000000000000000000000000000000000000000000000 μ) (hκ : Agree μ ω d) : Agree μ ω (Dev.pfcCheck d die p prio) := by
  unfold Dev.pfcCheck
  repeat' (first | with_reducible assumption | intro _ | (simp only [id_eq]) | (with_reducible refine Dev.pfcSend_kp (hμ := hμ.up (by decide)) (hκ := ?_) ..) | (with_reducible refine Dev.setEth_kp (hμ := hμ.up (by decide)) (hκ := ?_) ..) | (with_reducible apply Agree.ite) | split)

theorem Dev.rxPut_kp {μ : Nat} {ω : Dev} (d : Dev) (die : Nat) (p : Nat) (r : RPkt)  (hμ : Within 0x40000000000000000000000000000000000a300000000000000000000000000000000000000000000000000000000000000000000 μ) (hκ : Agree μ ω d) : Agree μ ω (Dev.rxPut d die p r) := by
  unfold Dev.rxPut
  repeat' (first | with_reducible assumption | intro _ | (simp only [id_eq]) | (with_reducible refine Dev.count64_kp (hlo := by first | assumption | exact hμ.bit rfl) (hhi := by first | assumption | exact hμ.bit rfl) (hμ := hμ.up (by decide)) (hκ := ?_) ..) | (with_reducible refine Dev.countSat_kp (hf := by first | assumption | exact hμ.bit rfl) (hμ := hμ.up (by decide)) (hκ := ?_) ..) | (with_reducible refine Dev.modEth_kp (hμ := hμ.up (by decide)) (hκ := ?_) ..) | (with_reducible refine Dev.pfcCheck_kp (hμ := hμ.up (by decide)) (hκ := ?_) ..) | (with_reducible apply Agree.ite) | split)

theorem Dev.rxTake_kp {μ : Nat} {ω : Dev} {d : Dev} {die p kind : Nat} {r : RPkt} {d1 : Dev} (heq : Dev.rxTake d die p kind = some (r, d1))
    (hμ : Within 0x400000000000000000000000000000000008000000000000000000000000000000000000000000000000000000000000000000000 μ) (hκ : Agree μ ω d) : Agree μ ω d1 := by
  unfold Dev.rxTake at heq
  split at heq
  · contradiction
  · rename_i r' _
    simp only [Option.some.injEq, Prod.mk.injEq] at heq
    rw [← heq.2]
    have h1 : Agree μ ω (d.modEth die p fun x => { x with rx := x.rx.erase r' }) := Dev.modEth_kp (hμ := hμ.up (by decide)) (hκ := hκ) ..
    exact Agree.ite h1 (Dev.pfcCheck_kp (hμ := hμ.up (by decide)) (hκ := h1) ..)

theorem Dev.pfcReceive_kp {μ : Nat} {ω : Dev} (d : Dev) (die : Nat) (p : Nat)  (hμ : Within 0x400000000000000000000000000000000008000000000000000000000000000000000000000000000000000000000000000000000 μ) (hκ : Agree μ ω d) : Agree μ ω (Dev.pfcReceive d die p) := by
  unfold Dev.pfcReceive
  repeat' (first | with_reducible assumption | intro _ | (simp only [id_eq]) | (with_reducible refine Dev.count_kp (hf := by first | assumption | exact hμ.bit rfl) (hμ := hμ.up (by decide)) (hκ := ?_) ..) | (with_reducible refine Dev.modEth_kp (hμ := hμ.up (by decide)) (hκ := ?_) ..) | (with_reducible refine Dev.put_kp (hf := by first | assumption | exact hμ.bit rfl) (hμ := hμ.up (by decide)) (hκ := ?_) ..) | (with_reducible refine Dev.rxTake_kp (heq := by with_reducible assumption) (hμ := hμ.up (by decide)) (hκ := ?_)) | (with_reducible apply Agree.ite) | (with_reducible apply Agree.foldl) | (with_reducible apply Agree.foldl_fst) | (with_reducible apply Agree.foldl_snd) | split)

theorem Dev.pfcRepeat_kp {μ : Nat} {ω : Dev} (d : Dev) (die : Nat) (p : Nat) (prio : Nat)  (hμ : Within 0x400000000000000000000000000000000008000000000000000000000000000000000000000000000000000000000000000000000 μ) (hκ : Agree μ ω d) : Agree μ ω (Dev.pfcRepeat d die p prio) := by
  unfold Dev.pfcRepeat
  repeat' (first | with_reducible assumption | intro _ | (simp only [id_eq]) | (with_reducible refine Dev.pfcSend_kp (hμ := hμ.up (by decide)) (hκ := ?_) ..) | (with_reducible apply Agree.ite) | split)

theorem Dev.pauseExpire_kp {μ : Nat} {ω : Dev} (d : Dev) (die : Nat) (p : Nat) (prio : Nat)  (hμ : Within 0x400000000000000000000000000000000000000000000000000000000000000000000000000000000000000000000000000000000 μ) (hκ : Agree μ ω d) : Agree μ ω (Dev.pauseExpire d die p prio) := by
  unfold Dev.pauseExpire
  repeat' (first | with_reducible assumption | intro _ | (simp only [id_eq]) | (with_reducible refine Dev.modEth_kp (hμ := hμ.up (by decide)) (hκ := ?_) ..) | (with_reducible apply Agree.ite) | split)

theorem Dev.pfcWatchdog_kp {μ : Nat} {ω : Dev} (d : Dev) (die : Nat) (p : Nat) (prio : Nat)  (hμ : Within 0x480000000000000245000000000000000000008000000000000000000000000000000000000000000000000000000000000000000 μ) (hκ : Agree μ ω d) : Agree μ ω (Dev.pfcWatchdog d die p prio) := by
  unfold Dev.pfcWatchdog
  repeat' (first | with_reducible assumption | intro _ | (simp only [id_eq]) | (with_reducible refine Dev.ethRec_kp (hμ := hμ.up (by decide)) (hκ := ?_) ..) | (with_reducible refine Dev.modEth_kp (hμ := hμ.up (by decide)) (hκ := ?_) ..) | (with_reducible refine Dev.put_kp (hf := by first | assumption | exact hμ.bit rfl) (hμ := hμ.up (by decide)) (hκ := ?_) ..) | (with_reducible apply Agree.ite) | split)

theorem Dev.pfcResume_kp {μ : Nat} {ω : Dev} (d : Dev) (die : Nat) (p : Nat) (prio : Nat)  (hμ : Within 0x400000000000000000000000000000000000000000000000000000000000000000000000000000000000000000000000000000000 μ) (hκ : Agree μ ω d) : Agree μ ω (Dev.pfcResume d die p prio) := by
  unfold Dev.pfcResume
  repeat' (first | with_reducible assumption | intro _ | (simp only [id_eq]) | (with_reducible refine Dev.modEth_kp (hμ := hμ.up (by decide)) (hκ := ?_) ..) | (with_reducible apply Agree.ite) | split)

theorem Dev.ethEgress_kp {μ : Nat} {ω : Dev} (d : Dev) (die : Nat) (p : Nat) (cls : Nat)  (hμ : Within 0x480000000000000245000000000000000004c00000000000000000000000000000000000000000000000000000000000000000000 μ) (hκ : Agree μ ω d) : Agree μ ω (Dev.ethEgress d die p cls) := by
  unfold Dev.ethEgress
  repeat' (first | with_reducible assumption | intro _ | (simp only [id_eq]) | (with_reducible refine Dev.count64_kp (hlo := by first | assumption | exact hμ.bit rfl) (hhi := by first | assumption | exact hμ.bit rfl) (hμ := hμ.up (by decide)) (hκ := ?_) ..) | (with_reducible refine Dev.countSat_kp (hf := by first | assumption | exact hμ.bit rfl) (hμ := hμ.up (by decide)) (hκ := ?_) ..) | (with_reducible refine Dev.ethRec_kp (hμ := hμ.up (by decide)) (hκ := ?_) ..) | (with_reducible refine Dev.modEth_kp (hμ := hμ.up (by decide)) (hκ := ?_) ..) | (with_reducible refine Dev.setEth_kp (hμ := hμ.up (by decide)) (hκ := ?_) ..) | (with_reducible apply Agree.ite) | split)

theorem Dev.qpPut_kp {μ : Nat} {ω : Dev} (d : Dev) (f : Fld) (v : Nat) (q : Nat) (hf : μ.testBit f.reg.ctorIdx = true) (hμ : Within 0x0 μ) (hκ : Agree μ ω d) : Agree μ ω (Dev.qpPut d f v q) := by
  unfold Dev.qpPut
  repeat' (first | with_reducible assumption | intro _ | (simp only [id_eq]) | (with_reducible refine Dev.put_kp (hf := by first | assumption | exact hμ.bit rfl) (hμ := hμ.up (by decide)) (hκ := ?_) ..) | (with_reducible apply Agree.ite) | split)

theorem Dev.qpOut_kp {μ : Nat} {ω : Dev} (d : Dev) (q : Nat)  (hμ : Within 0x80000000000000000000000000000000000000000000000000000000000000000 μ) (hκ : Agree μ ω d) : Agree μ ω (Dev.qpOut d q) := by
  unfold Dev.qpOut
  repeat' (first | with_reducible assumption | intro _ | (simp only [id_eq]) | (with_reducible refine Dev.qpPut_kp (hf := by first | assumption | exact hμ.bit rfl) (hμ := hμ.up (by decide)) (hκ := ?_) ..) | (with_reducible apply Agree.ite) | split)

theorem Dev.roceSend_kp {μ : Nat} {ω : Dev} (d : Dev) (q : Nat) (ctl : Bool) (pl : Bytes)  (hμ : Within 0x400000000000000000000000000000000000000000000000000000000000000000000000000000000000000000000000000000000 μ) (hκ : Agree μ ω d) : Agree μ ω (Dev.roceSend d q ctl pl) := by
  unfold Dev.roceSend
  repeat' (first | with_reducible assumption | intro _ | (simp only [id_eq]) | (with_reducible refine Dev.ethSend_kp (hμ := hμ.up (by decide)) (hκ := ?_) ..) | (with_reducible apply Agree.ite) | split)

theorem Dev.ackSend_kp {μ : Nat} {ω : Dev} (d : Dev) (q : Nat) (psn : Nat) (synd : Nat)  (hμ : Within 0x400000000000000000000000000000000000000000000000000000000000000000000000000000000000000000000000000000000 μ) (hκ : Agree μ ω d) : Agree μ ω (Dev.ackSend d q psn synd) := by
  unfold Dev.ackSend
  repeat' (first | with_reducible assumption | intro _ | (simp only [id_eq]) | (with_reducible refine Dev.roceSend_kp (hμ := hμ.up (by decide)) (hκ := ?_) ..) | (with_reducible apply Agree.ite) | split)

theorem Dev.qpError_kp {μ : Nat} {ω : Dev} (d : Dev) (q : Nat) (synd : Nat)  (hμ : Within 0x880000004000000245000000000000000000000080080000000000000000000000000000000000000000000000000000000000000 μ) (hκ : Agree μ ω d) : Agree μ ω (Dev.qpError d q synd) := by
  unfold Dev.qpError
  repeat' (first | with_reducible assumption | intro _ | (simp only [id_eq]) | (with_reducible refine Dev.linkRec_kp (hμ := hμ.up (by decide)) (hκ := ?_) ..) | (with_reducible refine Dev.qpOut_kp (hμ := hμ.up (by decide)) (hκ := ?_) ..) | (with_reducible refine Dev.qpPut_kp (hf := by first | assumption | exact hμ.bit rfl) (hμ := hμ.up (by decide)) (hκ := ?_) ..) | (with_reducible refine Dev.respond_kp (hμ := hμ.up (by decide)) (hκ := ?_) ..) | (with_reducible refine Dev.setQp_kp (hμ := hμ.up (by decide)) (hκ := ?_) ..) | (with_reducible apply Agree.ite) | (with_reducible apply Agree.foldl) | (with_reducible apply Agree.foldl_fst) | (with_reducible apply Agree.foldl_snd) | split)

theorem Dev.nakError_kp {μ : Nat} {ω : Dev} (d : Dev) (q : Nat) (psn : Nat) (code : Nat)  (hμ : Within 0xc80000004000000245000000000000000000000080080000000000000000000000000000000000000000000000000000000000000 μ) (hκ : Agree μ ω d) : Agree μ ω (Dev.nakError d q psn code) := by
  unfold Dev.nakError
  repeat' (first | with_reducible assumption | intro _ | (simp only [id_eq]) | (with_reducible refine Dev.ackSend_kp (hμ := hμ.up (by decide)) (hκ := ?_) ..) | (with_reducible refine Dev.qpError_kp (hμ := hμ.up (by decide)) (hκ := ?_) ..) | (with_reducible apply Agree.ite) | split)

theorem Dev.qpPump_kp {μ : Nat} {ω : Dev} (d : Dev) (q : Nat) (n : Nat) (hμ : Within 0xc00000000000000000000000000000000000000000200000000000000000000000000000000000000000000000000000000000000 μ) (hκ : Agree μ ω d) :
    Agree μ ω (Dev.qpPump d q n) := by
  induction n generalizing d with
  | zero => exact hκ
  | succ n ih =>
    unfold Dev.qpPump
    repeat' (first | with_reducible assumption | intro _ | (simp only [id_eq]) | (with_reducible refine ih _ ?_) | (with_reducible refine Dev.qpPut_kp (hf := by first | assumption | exact hμ.bit rfl) (hμ := hμ.up (by decide)) (hκ := ?_) ..) | (with_reducible refine Dev.roceSend_kp (hμ := hμ.up (by decide)) (hκ := ?_) ..) | (with_reducible refine Dev.setQp_kp (hμ := hμ.up (by decide)) (hκ := ?_) ..) | (with_reducible apply Agree.ite) | (with_reducible apply Agree.foldl) | (with_reducible apply Agree.foldl_fst) | (with_reducible apply Agree.foldl_snd) | split)

theorem Dev.qpOp_kp {μ : Nat} {ω : Dev} (d : Dev) (q : Nat) (va : Nat) (rkey : Nat) (write : Bool) (ts : List Txn)  (hμ : Within 0xc00000004000000000000000000000000000000080200000000000000000000000000000000000000000000000000000000000000 μ) (hκ : Agree μ ω d) : Agree μ ω (Dev.qpOp d q va rkey write ts) := by
  unfold Dev.qpOp
  repeat' (first | with_reducible assumption | intro _ | (simp only [id_eq]) | (with_reducible refine Dev.modQp_kp (hμ := hμ.up (by decide)) (hκ := ?_) ..) | (with_reducible refine Dev.qpOut_kp (hμ := hμ.up (by decide)) (hκ := ?_) ..) | (with_reducible refine Dev.qpPump_kp (hμ := hμ.up (by decide)) (hκ := ?_) ..) | (with_reducible refine Dev.respond_kp (hμ := hμ.up (by decide)) (hκ := ?_) ..) | (with_reducible apply Agree.ite) | (with_reducible apply Agree.foldl) | (with_reducible apply Agree.foldl_fst) | (with_reducible apply Agree.foldl_snd) | split)

theorem Dev.qpProgress_kp {μ : Nat} {ω : Dev} (d : Dev) (q : Nat)  (hμ : Within 0x800000000000000000000000000000000000000000000000000000000000000000000000000000000000000000000000000000000 μ) (hκ : Agree μ ω d) : Agree μ ω (Dev.qpProgress d q) := by
  unfold Dev.qpProgress
  repeat' (first | with_reducible assumption | intro _ | (simp only [id_eq]) | (with_reducible refine Dev.modQp_kp (hμ := hμ.up (by decide)) (hκ := ?_) ..) | (with_reducible apply Agree.ite) | split)

theorem Dev.ackUpTo_kp {μ : Nat} {ω : Dev} (d : Dev) (q : Nat) (psn : Nat)  (hμ : Within 0xc00000004000000000000000000000000000000080200000000000000000000000000000000000000000000000000000000000000 μ) (hκ : Agree μ ω d) : Agree μ ω (Dev.ackUpTo d q psn) := by
  unfold Dev.ackUpTo
  repeat' (first | with_reducible assumption | intro _ | (simp only [id_eq]) | (with_reducible refine Dev.qpOut_kp (hμ := hμ.up (by decide)) (hκ := ?_) ..) | (with_reducible refine Dev.qpProgress_kp (hμ := hμ.up (by decide)) (hκ := ?_) ..) | (with_reducible refine Dev.qpPump_kp (hμ := hμ.up (by decide)) (hκ := ?_) ..) | (with_reducible refine Dev.respond_kp (hμ := hμ.up (by decide)) (hκ := ?_) ..) | (with_reducible refine Dev.setQp_kp (hμ := hμ.up (by decide)) (hκ := ?_) ..) | (with_reducible apply Agree.ite) | (with_reducible apply Agree.foldl) | (with_reducible apply Agree.foldl_fst) | (with_reducible apply Agree.foldl_snd) | split)

theorem Dev.qpRetry_kp {μ : Nat} {ω : Dev} (d : Dev) (q : Nat)  (hμ : Within 0xc80000004000000245000000000000000000000080080000000000000000000000000000000000000000000000000000000000000 μ) (hκ : Agree μ ω d) : Agree μ ω (Dev.qpRetry d q) := by
  unfold Dev.qpRetry
  repeat' (first | with_reducible assumption | intro _ | (simp only [id_eq]) | (with_reducible refine Dev.qpError_kp (hμ := hμ.up (by decide)) (hκ := ?_) ..) | (with_reducible refine Dev.roceSend_kp (hμ := hμ.up (by decide)) (hκ := ?_) ..) | (with_reducible refine Dev.setQp_kp (hμ := hμ.up (by decide)) (hκ := ?_) ..) | (with_reducible apply Agree.ite) | (with_reducible apply Agree.foldl) | (with_reducible apply Agree.foldl_fst) | (with_reducible apply Agree.foldl_snd) | split)

theorem Dev.qpTimeout_kp {μ : Nat} {ω : Dev} (d : Dev) (q : Nat)  (hμ : Within 0xc80000004000000245000000000000000000000080080000000000000000000000000000000000000000000000000000000000000 μ) (hκ : Agree μ ω d) : Agree μ ω (Dev.qpTimeout d q) := by
  unfold Dev.qpTimeout
  repeat' (first | with_reducible assumption | intro _ | (simp only [id_eq]) | (with_reducible refine Dev.qpError_kp (hμ := hμ.up (by decide)) (hκ := ?_) ..) | (with_reducible refine Dev.qpRetry_kp (hμ := hμ.up (by decide)) (hκ := ?_) ..) | (with_reducible apply Agree.ite) | split)

theorem Dev.roceTake_kp {μ : Nat} {ω : Dev} (d : Dev) (die : Nat) (p : Nat) (ops : List Nat) (act : Dev → Nat → Bytes → Dev) (hact : ∀ a0 a1 a2, Agree μ ω a0 → Agree μ ω (act a0 a1 a2)) (hμ : Within 0x400000000000000000000000000000000008000000000000000000000000000000000000000000000000000000000000000000000 μ) (hκ : Agree μ ω d) : Agree μ ω (Dev.roceTake d die p ops act) := by
  unfold Dev.roceTake
  repeat' (first | with_reducible assumption | intro _ | (simp only [id_eq]) | (with_reducible refine hact _ _ _ ?_) | (with_reducible refine Dev.rxTake_kp (heq := by with_reducible assumption) (hμ := hμ.up (by decide)) (hκ := ?_)) | (with_reducible apply Agree.ite) | split)

theorem Dev.rdmaAck_kp {μ : Nat} {ω : Dev} (d : Dev) (die : Nat) (p : Nat)  (hμ : Within 0xc00000004000000000000000000000000008000080200000000000000000000000000000000000000000000000000000000000000 μ) (hκ : Agree μ ω d) : Agree μ ω (Dev.rdmaAck d die p) := by
  unfold Dev.rdmaAck
  repeat' (first | with_reducible assumption | intro _ | (simp only [id_eq]) | (with_reducible refine Dev.ackUpTo_kp (hμ := hμ.up (by decide)) (hκ := ?_) ..) | (with_reducible refine Dev.roceTake_kp (hact := ?_) (hμ := hμ.up (by decide)) (hκ := ?_) ..) | (with_reducible apply Agree.ite) | split)

theorem Dev.rdmaNak_kp {μ : Nat} {ω : Dev} (d : Dev) (die : Nat) (p : Nat)  (hμ : Within 0xc80000004000000245000000000000000008000080280000000000000000000000000000000000000000000000000000000000000 μ) (hκ : Agree μ ω d) : Agree μ ω (Dev.rdmaNak d die p) := by
  unfold Dev.rdmaNak
  repeat' (first | with_reducible assumption | intro _ | (simp only [id_eq]) | (with_reducible refine Dev.ackUpTo_kp (hμ := hμ.up (by decide)) (hκ := ?_) ..) | (with_reducible refine Dev.qpError_kp (hμ := hμ.up (by decide)) (hκ := ?_) ..) | (with_reducible refine Dev.qpRetry_kp (hμ := hμ.up (by decide)) (hκ := ?_) ..) | (with_reducible refine Dev.roceTake_kp (hact := ?_) (hμ := hμ.up (by decide)) (hκ := ?_) ..) | (with_reducible apply Agree.ite) | split)

theorem Dev.rdmaReadRsp_kp {μ : Nat} {ω : Dev} (d : Dev) (die : Nat) (p : Nat)  (hμ : Within 0xc00000004000000000000000000000000008000080200000000000000000000000000000000000000000000000000000000000000 μ) (hκ : Agree μ ω d) : Agree μ ω (Dev.rdmaReadRsp d die p) := by
  unfold Dev.rdmaReadRsp
  repeat' (first | with_reducible assumption | intro _ | (simp only [id_eq]) | (with_reducible refine Dev.ackUpTo_kp (hμ := hμ.up (by decide)) (hκ := ?_) ..) | (with_reducible refine Dev.qpOut_kp (hμ := hμ.up (by decide)) (hκ := ?_) ..) | (with_reducible refine Dev.qpProgress_kp (hμ := hμ.up (by decide)) (hκ := ?_) ..) | (with_reducible refine Dev.qpPump_kp (hμ := hμ.up (by decide)) (hκ := ?_) ..) | (with_reducible refine Dev.respond_kp (hμ := hμ.up (by decide)) (hκ := ?_) ..) | (with_reducible refine Dev.roceTake_kp (hact := ?_) (hμ := hμ.up (by decide)) (hκ := ?_) ..) | (with_reducible refine Dev.setQp_kp (hμ := hμ.up (by decide)) (hκ := ?_) ..) | (with_reducible apply Agree.ite) | (with_reducible apply Agree.foldl) | (with_reducible apply Agree.foldl_fst) | (with_reducible apply Agree.foldl_snd) | split)

theorem Dev.qpIssue_kp {μ : Nat} {ω : Dev} (d : Dev) (q : Nat)  (hμ : Within 0x80000000c000000000000000000000000000000000000000000000000000000000000000000000000000000000000000000000000 μ) (hκ : Agree μ ω d) : Agree μ ω (Dev.qpIssue d q) := by
  unfold Dev.qpIssue
  repeat' (first | with_reducible assumption | intro _ | (simp only [id_eq]) | (simp only [Agree.set_sqn (hμ.bit (by decide))]) | (with_reducible refine Dev.netPut_kp (hμ := hμ.up (by decide)) (hκ := ?_) ..) | (with_reducible refine Dev.setQp_kp (hμ := hμ.up (by decide)) (hκ := ?_) ..) | (with_reducible apply Agree.ite) | (with_reducible apply Agree.foldl) | (with_reducible apply Agree.foldl_fst) | (with_reducible apply Agree.foldl_snd) | split)

theorem Dev.qpDrain_kp {μ : Nat} {ω : Dev} (d : Dev) (q : Nat) (n : Nat) (hμ : Within 0xc8000000e000000245000000000000000000000080080000000000000000000000000000000000000000000000000000000000000 μ) (hκ : Agree μ ω d) :
    Agree μ ω (Dev.qpDrain d q n) := by
  induction n generalizing d with
  | zero => exact hκ
  | succ n ih =>
    unfold Dev.qpDrain
    repeat' (first | with_reducible assumption | intro _ | (simp only [id_eq]) | (with_reducible refine ih _ ?_) | (with_reducible refine Dev.ackSend_kp (hμ := hμ.up (by decide)) (hκ := ?_) ..) | (with_reducible refine Dev.nakError_kp (hμ := hμ.up (by decide)) (hκ := ?_) ..) | (with_reducible refine Dev.qpIssue_kp (hμ := hμ.up (by decide)) (hκ := ?_) ..) | (with_reducible refine Dev.roceSend_kp (hμ := hμ.up (by decide)) (hκ := ?_) ..) | (with_reducible refine Dev.send_kp (hμ := hμ.up (by decide)) (hκ := ?_) ..) | (with_reducible refine Dev.setQp_kp (hμ := hμ.up (by decide)) (hκ := ?_) ..) | (with_reducible apply Agree.ite) | (with_reducible apply Agree.foldl) | (with_reducible apply Agree.foldl_fst) | (with_reducible apply Agree.foldl_snd) | split)

theorem Dev.qpResponse_kp {μ : Nat} {ω : Dev} (d : Dev) (q : Nat) (slot : Nat) (stat : Nat) (data : Bytes)  (hμ : Within 0xc8000000e000000245000000000000000000000080080000000000000000001000000000000000000000000000000000000000000 μ) (hκ : Agree μ ω d) : Agree μ ω (Dev.qpResponse d q slot stat data) := by
  unfold Dev.qpResponse
  repeat' (first | with_reducible assumption | intro _ | (simp only [id_eq]) | (with_reducible refine Dev.countSat_kp (hf := by first | assumption | exact hμ.bit rfl) (hμ := hμ.up (by decide)) (hκ := ?_) ..) | (with_reducible refine Dev.put_kp (hf := by first | assumption | exact hμ.bit rfl) (hμ := hμ.up (by decide)) (hκ := ?_) ..) | (with_reducible refine Dev.qpDrain_kp (hμ := hμ.up (by decide)) (hκ := ?_) ..) | (with_reducible refine Dev.setQp_kp (hμ := hμ.up (by decide)) (hκ := ?_) ..) | (with_reducible apply Agree.ite) | split)

theorem Dev.qpTake_kp {μ : Nat} {ω : Dev} (d : Dev) (q : Nat) (i : QIn) (n : Nat)  (hμ : Within 0xc8000000e000000245000000000000000000000080080000000000000000000000000000000000000000000000000000000000000 μ) (hκ : Agree μ ω d) : Agree μ ω (Dev.qpTake d q i n) := by
  unfold Dev.qpTake
  repeat' (first | with_reducible assumption | intro _ | (simp only [id_eq]) | (with_reducible refine Dev.modQp_kp (hμ := hμ.up (by decide)) (hκ := ?_) ..) | (with_reducible refine Dev.qpDrain_kp (hμ := hμ.up (by decide)) (hκ := ?_) ..) | (with_reducible apply Agree.ite) | split)

theorem Dev.psnCheck_kp {μ : Nat} {ω : Dev} (d : Dev) (q : Nat) (psn : Nat) (dup : Dev → Dev) (ok : Dev → Dev) (hdup : ∀ a0, Agree μ ω a0 → Agree μ ω (dup a0)) (hok : ∀ a0, Agree μ ω a0 → Agree μ ω (ok a0)) (hμ : Within 0xc00000000000000000000000000000000000000000000000000000000000000000000000000000000000000000000000000000000 μ) (hκ : Agree μ ω d) : Agree μ ω (Dev.psnCheck d q psn dup ok) := by
  unfold Dev.psnCheck
  repeat' (first | with_reducible assumption | intro _ | (simp only [id_eq]) | (with_reducible refine hdup _ ?_) | (with_reducible refine hok _ ?_) | (with_reducible refine Dev.ackSend_kp (hμ := hμ.up (by decide)) (hκ := ?_) ..) | (with_reducible refine Dev.modQp_kp (hμ := hμ.up (by decide)) (hκ := ?_) ..) | (with_reducible apply Agree.ite) | split)

theorem Dev.ackAgain_kp {μ : Nat} {ω : Dev} (d : Dev) (q : Nat)  (hμ : Within 0x400000000000000000000000000000000000000000000000000000000000000000000000000000000000000000000000000000000 μ) (hκ : Agree μ ω d) : Agree μ ω (Dev.ackAgain d q) := by
  unfold Dev.ackAgain
  repeat' (first | with_reducible assumption | intro _ | (simp only [id_eq]) | (with_reducible refine Dev.ackSend_kp (hμ := hμ.up (by decide)) (hκ := ?_) ..) | (with_reducible apply Agree.ite) | split)

theorem Dev.psnNext_kp {μ : Nat} {ω : Dev} (d : Dev) (q : Nat) (n : Nat)  (hμ : Within 0x400000000000000000000000000000000000000000000000000000000000000 μ) (hκ : Agree μ ω d) : Agree μ ω (Dev.psnNext d q n) := by
  unfold Dev.psnNext
  repeat' (first | with_reducible assumption | intro _ | (simp only [id_eq]) | (with_reducible refine Dev.qpPut_kp (hf := by first | assumption | exact hμ.bit rfl) (hμ := hμ.up (by decide)) (hκ := ?_) ..) | (with_reducible apply Agree.ite) | split)

theorem Dev.writePart_kp {μ : Nat} {ω : Dev} (d : Dev) (q : Nat) (pl : Bytes) (first last : Bool) (hμ : Within 0xc8000000e000000245000000000000000000000080480000000000000000000000000000000000000000000000000000000000000 μ) (hκ : Agree μ ω d) :
    Agree μ ω (Dev.writePart d q pl first last) := by
  have hf : ∀ (e : Dev) (psn : Nat) (m : QMsg) (b : Bytes) (n : Nat) (ts : List Txn), Agree μ ω e →
      Agree μ ω (Dev.writePart.finish q last e psn m b n ts) := by
    intro e psn m b n ts hκ
    unfold Dev.writePart.finish
    repeat' (first | with_reducible assumption | intro _ | (simp only [id_eq]) | (with_reducible refine Dev.modQp_kp (hμ := hμ.up (by decide)) (hκ := ?_) ..) | (with_reducible refine Dev.nakError_kp (hμ := hμ.up (by decide)) (hκ := ?_) ..) | (with_reducible refine Dev.psnNext_kp (hμ := hμ.up (by decide)) (hκ := ?_) ..) | (with_reducible refine Dev.qpTake_kp (hμ := hμ.up (by decide)) (hκ := ?_) ..) | (with_reducible refine Dev.send_kp (hμ := hμ.up (by decide)) (hκ := ?_) ..) | (with_reducible apply Agree.ite) | split)
  unfold Dev.writePart
  repeat' (first | with_reducible assumption | intro _ | (simp only [id_eq]) | (with_reducible refine hf _ _ _ _ _ _ ?_) | (with_reducible refine Dev.modQp_kp (hμ := hμ.up (by decide)) (hκ := ?_) ..) | (with_reducible refine Dev.nakError_kp (hμ := hμ.up (by decide)) (hκ := ?_) ..) | (with_reducible refine Dev.psnNext_kp (hμ := hμ.up (by decide)) (hκ := ?_) ..) | (with_reducible refine Dev.qpTake_kp (hμ := hμ.up (by decide)) (hκ := ?_) ..) | (with_reducible refine Dev.send_kp (hμ := hμ.up (by decide)) (hκ := ?_) ..) | (with_reducible apply Agree.ite) | split)

theorem Dev.rdmaWrite_kp {μ : Nat} {ω : Dev} (d : Dev) (die : Nat) (p : Nat)  (hμ : Within 0xc8000000e000000245000000000000000008000080480000000000000000000000000000000000000000000000000000000000000 μ) (hκ : Agree μ ω d) : Agree μ ω (Dev.rdmaWrite d die p) := by
  unfold Dev.rdmaWrite
  repeat' (first | with_reducible assumption | intro _ | (simp only [id_eq]) | (with_reducible refine Dev.ackAgain_kp (hμ := hμ.up (by decide)) (hκ := ?_) ..) | (with_reducible refine Dev.psnCheck_kp (hdup := ?_) (hok := ?_) (hμ := hμ.up (by decide)) (hκ := ?_) ..) | (with_reducible refine Dev.roceTake_kp (hact := ?_) (hμ := hμ.up (by decide)) (hκ := ?_) ..) | (with_reducible refine Dev.writePart_kp (hμ := hμ.up (by decide)) (hκ := ?_) ..) | (with_reducible apply Agree.ite) | split)

theorem Dev.rdmaRead_kp {μ : Nat} {ω : Dev} (d : Dev) (die p : Nat) (hμ : Within 0xc8000000e000000245000000000000000008000080480000000000000000000000000000000000000000000000000000000000000 μ) (hκ : Agree μ ω d) : Agree μ ω (Dev.rdmaRead d die p) := by
  have hf : ∀ (e : Dev) (q psn len off : Nat) (ts : List Txn) (adv : Bool), Agree μ ω e →
      Agree μ ω (Dev.rdmaRead.take e q psn len off ts adv) := by
    intro e q psn len off ts adv hκ
    unfold Dev.rdmaRead.take
    repeat' (first | with_reducible assumption | intro _ | (simp only [id_eq]) | (with_reducible refine Dev.nakError_kp (hμ := hμ.up (by decide)) (hκ := ?_) ..) | (with_reducible refine Dev.psnCheck_kp (hdup := ?_) (hok := ?_) (hμ := hμ.up (by decide)) (hκ := ?_) ..) | (with_reducible refine Dev.psnNext_kp (hμ := hμ.up (by decide)) (hκ := ?_) ..) | (with_reducible refine Dev.qpTake_kp (hμ := hμ.up (by decide)) (hκ := ?_) ..) | (with_reducible refine Dev.roceTake_kp (hact := ?_) (hμ := hμ.up (by decide)) (hκ := ?_) ..) | (with_reducible apply Agree.ite) | split)
  unfold Dev.rdmaRead
  repeat' (first | with_reducible assumption | intro _ | (simp only [id_eq]) | (with_reducible refine hf _ _ _ _ _ _ _ ?_) | (with_reducible refine Dev.nakError_kp (hμ := hμ.up (by decide)) (hκ := ?_) ..) | (with_reducible refine Dev.psnCheck_kp (hdup := ?_) (hok := ?_) (hμ := hμ.up (by decide)) (hκ := ?_) ..) | (with_reducible refine Dev.psnNext_kp (hμ := hμ.up (by decide)) (hκ := ?_) ..) | (with_reducible refine Dev.qpTake_kp (hμ := hμ.up (by decide)) (hκ := ?_) ..) | (with_reducible refine Dev.roceTake_kp (hact := ?_) (hμ := hμ.up (by decide)) (hκ := ?_) ..) | (with_reducible apply Agree.ite) | split)

theorem Dev.rdmaSend_kp {μ : Nat} {ω : Dev} (d : Dev) (die : Nat) (p : Nat)  (hμ : Within 0xc8000000e0000002450000000000000000080000c0480000000000000000000000000000000000000000000000000000000000000 μ) (hκ : Agree μ ω d) : Agree μ ω (Dev.rdmaSend d die p) := by
  unfold Dev.rdmaSend
  repeat' (first | with_reducible assumption | intro _ | (simp only [id_eq]) | (with_reducible refine Dev.ackAgain_kp (hμ := hμ.up (by decide)) (hκ := ?_) ..) | (with_reducible refine Dev.ackSend_kp (hμ := hμ.up (by decide)) (hκ := ?_) ..) | (with_reducible refine Dev.modQp_kp (hμ := hμ.up (by decide)) (hκ := ?_) ..) | (with_reducible refine Dev.nakError_kp (hμ := hμ.up (by decide)) (hκ := ?_) ..) | (with_reducible refine Dev.psnCheck_kp (hdup := ?_) (hok := ?_) (hμ := hμ.up (by decide)) (hκ := ?_) ..) | (with_reducible refine Dev.psnNext_kp (hμ := hμ.up (by decide)) (hκ := ?_) ..) | (with_reducible refine Dev.qpPut_kp (hf := by first | assumption | exact hμ.bit rfl) (hμ := hμ.up (by decide)) (hκ := ?_) ..) | (with_reducible refine Dev.qpTake_kp (hμ := hμ.up (by decide)) (hκ := ?_) ..) | (with_reducible refine Dev.roceTake_kp (hact := ?_) (hμ := hμ.up (by decide)) (hκ := ?_) ..) | (with_reducible refine Dev.send_kp (hμ := hμ.up (by decide)) (hκ := ?_) ..) | (with_reducible apply Agree.ite) | split)

theorem Dev.cnpSend_kp {μ : Nat} {ω : Dev} (d : Dev) (die : Nat) (p : Nat) (q : Nat)  (hμ : Within 0xc00000000000000000000000000000000010000000000000000000000000000000000000000000000000000000000000000000000 μ) (hκ : Agree μ ω d) : Agree μ ω (Dev.cnpSend d die p q) := by
  unfold Dev.cnpSend
  repeat' (first | with_reducible assumption | intro _ | (simp only [id_eq]) | (with_reducible refine Dev.count_kp (hf := by first | assumption | exact hμ.bit rfl) (hμ := hμ.up (by decide)) (hκ := ?_) ..) | (with_reducible refine Dev.modQp_kp (hμ := hμ.up (by decide)) (hκ := ?_) ..) | (with_reducible refine Dev.roceSend_kp (hμ := hμ.up (by decide)) (hκ := ?_) ..) | (with_reducible apply Agree.ite) | split)

theorem Dev.cnpReceive_kp {μ : Nat} {ω : Dev} (d : Dev) (die : Nat) (p : Nat)  (hμ : Within 0xc00000000000000000000000000000000018000100000000000000000000000000000000000000000000000000000000000000000 μ) (hκ : Agree μ ω d) : Agree μ ω (Dev.cnpReceive d die p) := by
  unfold Dev.cnpReceive
  repeat' (first | with_reducible assumption | intro _ | (simp only [id_eq]) | (with_reducible refine Dev.count_kp (hf := by first | assumption | exact hμ.bit rfl) (hμ := hμ.up (by decide)) (hκ := ?_) ..) | (with_reducible refine Dev.modQp_kp (hμ := hμ.up (by decide)) (hκ := ?_) ..) | (with_reducible refine Dev.qpPut_kp (hf := by first | assumption | exact hμ.bit rfl) (hμ := hμ.up (by decide)) (hκ := ?_) ..) | (with_reducible refine Dev.roceTake_kp (hact := ?_) (hμ := hμ.up (by decide)) (hκ := ?_) ..) | (with_reducible refine Dev.setQp_kp (hμ := hμ.up (by decide)) (hκ := ?_) ..) | (with_reducible apply Agree.ite) | split)

theorem Dev.rateUp_kp {μ : Nat} {ω : Dev} (d : Dev) (q : Nat)  (hμ : Within 0x800000000000000000000000000000000000000100000000000000000000000000000000000000000000000000000000000000000 μ) (hκ : Agree μ ω d) : Agree μ ω (Dev.rateUp d q) := by
  unfold Dev.rateUp
  repeat' (first | with_reducible assumption | intro _ | (simp only [id_eq]) | (with_reducible refine Dev.qpPut_kp (hf := by first | assumption | exact hμ.bit rfl) (hμ := hμ.up (by decide)) (hκ := ?_) ..) | (with_reducible refine Dev.setQp_kp (hμ := hμ.up (by decide)) (hκ := ?_) ..) | (with_reducible apply Agree.ite) | split)

theorem Dev.ethReceive_kp {μ : Nat} {ω : Dev} (d : Dev) (die : Nat) (p : Nat) (f : Bytes)  (hμ : Within 0xc8000000400000024500000000000000001b300080080000000000000000000000000000000000000000000000000000000000000 μ) (hκ : Agree μ ω d) : Agree μ ω (Dev.ethReceive d die p f) := by
  unfold Dev.ethReceive
  repeat' (first | with_reducible assumption | intro _ | (simp only [id_eq]) | (with_reducible refine Dev.cnpSend_kp (hμ := hμ.up (by decide)) (hκ := ?_) ..) | (with_reducible refine Dev.countSat_kp (hf := by first | assumption | exact hμ.bit rfl) (hμ := hμ.up (by decide)) (hκ := ?_) ..) | (with_reducible refine Dev.nakError_kp (hμ := hμ.up (by decide)) (hκ := ?_) ..) | (with_reducible refine Dev.rxPut_kp (hμ := hμ.up (by decide)) (hκ := ?_) ..) | (with_reducible apply Agree.ite) | split)

theorem Dev.qctlWrite_kp {μ : Nat} {ω : Dev} (d : Dev) (die : Nat) (v : Nat)  (hμ : Within 0x8800000040000002450000000000000000000001c0080000000000000000000000000000000000000000000000000000000000000 μ) (hκ : Agree μ ω d) : Agree μ ω (Dev.qctlWrite d die v) := by
  unfold Dev.qctlWrite
  repeat' (first | with_reducible assumption | intro _ | (simp only [id_eq]) | (with_reducible refine Dev.writeKey_kp _ _ _ _ _ _ _ (by first | assumption | exact hμ.bit (by decide) | exact hall _) ?_) | (with_reducible refine Dev.qpError_kp (hμ := hμ.up (by decide)) (hκ := ?_) ..) | (with_reducible refine Dev.qpPut_kp (hf := by first | assumption | exact hμ.bit rfl) (hμ := hμ.up (by decide)) (hκ := ?_) ..) | (with_reducible refine Dev.setQp_kp (hμ := hμ.up (by decide)) (hκ := ?_) ..) | (with_reducible apply Agree.ite) | split)

theorem Dev.qpRegWrite_kp {μ : Nat} {ω : Dev} (d : Dev) (die : Nat) (i : Nat) (r : Reg) (v : Nat) (hr : μ.testBit r.ctorIdx = true) (hμ : Within 0x0 μ) (hκ : Agree μ ω d) : Agree μ ω (Dev.qpRegWrite d die i r v) := by
  unfold Dev.qpRegWrite
  repeat' (first | with_reducible assumption | intro _ | (simp only [id_eq]) | (with_reducible refine Dev.writeKey_kp _ _ _ _ _ _ _ (by first | assumption | exact hμ.bit (by decide) | exact hall _) ?_) | (with_reducible apply Agree.ite) | split)

theorem Dev.regionWrite_kp {μ : Nat} {ω : Dev} (d : Dev) (die : Nat) (r : Reg) (v : Nat) (hr : μ.testBit r.ctorIdx = true) (hμ : Within 0x200000000000000000000000000000000000000000000000000000000000000000 μ) (hκ : Agree μ ω d) : Agree μ ω (Dev.regionWrite d die r v) := by
  unfold Dev.regionWrite
  repeat' (first | with_reducible assumption | intro _ | (simp only [id_eq]) | (with_reducible refine Dev.writeKey_kp _ _ _ _ _ _ _ (by first | assumption | exact hμ.bit (by decide) | exact hall _) ?_) | (with_reducible refine Dev.put_kp (hf := by first | assumption | exact hμ.bit rfl) (hμ := hμ.up (by decide)) (hκ := ?_) ..) | (with_reducible apply Agree.ite) | split)

theorem Dev.onPath_kp {μ : Nat} {ω : Dev} (d : Dev) (t : Txn) (dst : Nat) (port : Option Nat) (slice : Option (Nat × Nat)) (go : Dev → Dev) (hgo : ∀ a0, Agree μ ω a0 → Agree μ ω (go a0)) (hμ : Within 0x80000004000000245000000000000000000000000000000000000000000040a00000000000000000000000000000000000000000 μ) (hκ : Agree μ ω d) : Agree μ ω (Dev.onPath d t dst port slice go) := by
  unfold Dev.onPath
  repeat' (first | with_reducible assumption | intro _ | (simp only [id_eq]) | (with_reducible refine hgo _ ?_) | (with_reducible refine Dev.countSat_kp (hf := by first | assumption | exact hμ.bit rfl) (hμ := hμ.up (by decide)) (hκ := ?_) ..) | (with_reducible refine Dev.netPut_kp (hμ := hμ.up (by decide)) (hκ := ?_) ..) | (with_reducible refine Dev.pathFail_kp (hμ := hμ.up (by decide)) (hκ := ?_) ..) | (with_reducible refine Dev.pdrop_kp (hμ := hμ.up (by decide)) (hκ := ?_) ..) | (with_reducible refine Dev.post_kp (hμ := hμ.up (by decide)) (hκ := ?_) ..) | (with_reducible apply Agree.ite) | split)

theorem Dev.hostReq_kp {μ : Nat} {ω : Dev} (d : Dev) (n : Nat) (die : Nat) (w : Nat) (off : Nat) (t : Txn) (slice : Option (Nat × Nat))  (hμ : Within 0xc80000004000000245000000000000000000000080200000000000000000040a00000000000000000000000000000000000000000 μ) (hκ : Agree μ ω d) : Agree μ ω (Dev.hostReq d n die w off t slice) := by
  unfold Dev.hostReq
  repeat' (first | with_reducible assumption | intro _ | (simp only [id_eq]) | (simp only [Agree.set_net (hμ.bit (by decide))]) | (with_reducible refine Dev.netDrop_kp (hμ := hμ.up (by decide)) (hκ := ?_) ..) | (with_reducible refine Dev.onPath_kp (hgo := ?_) (hμ := hμ.up (by decide)) (hκ := ?_) ..) | (with_reducible refine Dev.pathFail_kp (hμ := hμ.up (by decide)) (hκ := ?_) ..) | (with_reducible refine Dev.pdrop_kp (hμ := hμ.up (by decide)) (hκ := ?_) ..) | (with_reducible refine Dev.qpOp_kp (hμ := hμ.up (by decide)) (hκ := ?_) ..) | (with_reducible refine Dev.respond_kp (hμ := hμ.up (by decide)) (hκ := ?_) ..) | (with_reducible apply Agree.ite) | (with_reducible apply Agree.foldl) | (with_reducible apply Agree.foldl_fst) | (with_reducible apply Agree.foldl_snd) | split)

theorem Dev.homeRequest_kp {μ : Nat} {ω : Dev} (d : Dev) (n : Nat) (ups : List (Nat × Nat)) (slice : Option (Nat × Nat))  (hμ : Within 0xf9000408403c000245000000000000000000000080200e00640000000000040a00000000c3c000000000000000000010000000000 μ) (hκ : Agree μ ω d) : Agree μ ω (Dev.homeRequest d n ups slice) := by
  unfold Dev.homeRequest
  repeat' (first | with_reducible assumption | intro _ | (simp only [id_eq]) | (with_reducible refine Dev.atHome_kp (hμ := hμ.up (by decide)) (hκ := ?_) ..) | (with_reducible refine Dev.hostReq_kp (hμ := hμ.up (by decide)) (hκ := ?_) ..) | (with_reducible refine Dev.netDrop_kp (hμ := hμ.up (by decide)) (hκ := ?_) ..) | (with_reducible refine Dev.onPath_kp (hgo := ?_) (hμ := hμ.up (by decide)) (hκ := ?_) ..) | (with_reducible refine Dev.respond_kp (hμ := hμ.up (by decide)) (hκ := ?_) ..) | (with_reducible refine Dev.sendAway_kp (heq := by with_reducible assumption) (hμ := hμ.up (by decide)) (hκ := ?_) ..) | (with_reducible refine Agree.getD _ _ (fun _ he => Dev.sendAway_kp (heq := he) (hμ := hμ.up (by decide)) (hκ := ?_) ..) ?_) | (with_reducible refine Dev.spPerform_kp' (heq := by with_reducible assumption) (hμ := hμ.up (by decide)) (hκ := ?_) ..) | (with_reducible refine Dev.spPerform_kp (hμ := hμ.up (by decide)) (hκ := ?_) ..) | (with_reducible refine Dev.upset_kp (hμ := hμ.up (by decide)) (hκ := ?_) ..) | (with_reducible refine Dev.windowReq_kp (hμ := hμ.up (by decide)) (hκ := ?_) ..) | (with_reducible apply Agree.ite) | split)

theorem Dev.rspTo_kp {μ : Nat} {ω : Dev} (d : Dev) (r : Rsp)  (hμ : Within 0xf9010007e014000245000000000000000000000080080e00800000200000001000004000000000000000000001a00111f20000000 μ) (hκ : Agree μ ω d) : Agree μ ω (Dev.rspTo d r) := by
  unfold Dev.rspTo
  repeat' (first | with_reducible assumption | intro _ | (simp only [id_eq]) | (with_reducible refine Dev.countSat_kp (hf := by first | assumption | exact hμ.bit rfl) (hμ := hμ.up (by decide)) (hκ := ?_) ..) | (with_reducible refine Dev.dspResponse_kp (hμ := hμ.up (by decide)) (hκ := ?_) ..) | (with_reducible refine Dev.engFollow_kp (hμ := hμ.up (by decide)) (hκ := ?_) ..) | (with_reducible refine Dev.engResponse_kp (hμ := hμ.up (by decide)) (hκ := ?_) ..) | (with_reducible refine Dev.portResponse_kp (hμ := hμ.up (by decide)) (hκ := ?_) ..) | (with_reducible refine Dev.qpResponse_kp (hμ := hμ.up (by decide)) (hκ := ?_) ..) | (with_reducible refine Dev.siteResponse_kp (hμ := hμ.up (by decide)) (hκ := ?_) ..) | (with_reducible refine Dev.unfResponse_kp (hμ := hμ.up (by decide)) (hκ := ?_) ..) | (with_reducible apply Agree.ite) | split)

theorem Dev.homeResponse_kp {μ : Nat} {ω : Dev} (d : Dev) (n : Nat) (slice : Option (Nat × Nat))  (hμ : Within 0xf9010007e014000245000000000000000000000080080e00800000200000041200004000000000000000000001a00111f20000000 μ) (hκ : Agree μ ω d) : Agree μ ω (Dev.homeResponse d n slice) := by
  unfold Dev.homeResponse
  repeat' (first | with_reducible assumption | intro _ | (simp only [id_eq]) | (with_reducible refine Dev.countSat_kp (hf := by first | assumption | exact hμ.bit rfl) (hμ := hμ.up (by decide)) (hκ := ?_) ..) | (with_reducible refine Dev.netDrop_kp (hμ := hμ.up (by decide)) (hκ := ?_) ..) | (with_reducible refine Dev.netPut_kp (hμ := hμ.up (by decide)) (hκ := ?_) ..) | (with_reducible refine Dev.pdrop_kp (hμ := hμ.up (by decide)) (hκ := ?_) ..) | (with_reducible refine Dev.post_kp (hμ := hμ.up (by decide)) (hκ := ?_) ..) | (with_reducible refine Dev.rspTo_kp (hμ := hμ.up (by decide)) (hκ := ?_) ..) | (with_reducible apply Agree.ite) | split)

theorem Dev.ctlTo_kp {μ : Nat} {ω : Dev} {d : Dev} {m : CtlMsg} {rd : Dev} (heq : Dev.ctlTo d m = some rd)
    (hμ : Within 0x39010007ed84000345000000000000000000000000000e00c4000000000000900000400000000000000000ce00200101f20040040 μ) (hκ : Agree μ ω d) : Agree μ ω rd := by
  unfold Dev.ctlTo at heq
  split at heq
  case h_11 => exact Dev.addAway_kp heq (hμ.up (by decide)) hκ
  all_goals
    have heq := Option.some.inj heq
    rw [← heq]
    repeat' (first | with_reducible assumption | intro _ | (simp only [id_eq]) | (with_reducible refine Dev.addAway_kp (heq := by with_reducible assumption) (hμ := hμ.up (by decide)) (hκ := ?_) ..) | (with_reducible refine Agree.getD _ _ (fun _ he => Dev.addAway_kp (heq := he) (hμ := hμ.up (by decide)) (hκ := ?_) ..) ?_) | (with_reducible refine Dev.bankRun_kp (hμ := hμ.up (by decide)) (hκ := ?_) ..) | (with_reducible refine Dev.bcastCell_kp (hμ := hμ.up (by decide)) (hκ := ?_) ..) | (with_reducible refine Dev.chkFail_kp (hμ := hμ.up (by decide)) (hκ := ?_) ..) | (with_reducible refine Dev.coreRun_kp (hμ := hμ.up (by decide)) (hκ := ?_) ..) | (with_reducible refine Dev.dspRunMsg_kp (hμ := hμ.up (by decide)) (hκ := ?_) ..) | (with_reducible refine Dev.engAck_kp (hμ := hμ.up (by decide)) (hκ := ?_) ..) | (with_reducible refine Dev.engFollow_kp (hμ := hμ.up (by decide)) (hκ := ?_) ..) | (with_reducible refine Dev.engRun_kp (hμ := hμ.up (by decide)) (hκ := ?_) ..) | (with_reducible refine Dev.portAddAck_kp (hμ := hμ.up (by decide)) (hκ := ?_) ..) | (with_reducible refine Dev.siteAck_kp (hμ := hμ.up (by decide)) (hκ := ?_) ..) | (with_reducible refine Dev.swWake_kp (hμ := hμ.up (by decide)) (hκ := ?_) ..) | (with_reducible refine Dev.trapEvent_kp (hμ := hμ.up (by decide)) (hκ := ?_) ..) | (with_reducible apply Agree.ite) | split)

theorem Dev.ctlArrive_kp {μ : Nat} {ω : Dev} (d : Dev) (n : Nat) (opc : Nat) (noise : Bytes)  (hμ : Within 0x39010007ed84000345000000000000000000000000000e00c4000000000000900000400000000000000000ce00200101f20040040 μ) (hκ : Agree μ ω d) : Agree μ ω (Dev.ctlArrive d n opc noise) := by
  unfold Dev.ctlArrive
  repeat' (first | with_reducible assumption | intro _ | (simp only [id_eq]) | (with_reducible refine Dev.chkFail_kp (hμ := hμ.up (by decide)) (hκ := ?_) ..) | (with_reducible refine Dev.ctlDrop_kp (hμ := hμ.up (by decide)) (hκ := ?_) ..) | (with_reducible refine Dev.ctlTo_kp (heq := by with_reducible assumption) (hμ := hμ.up (by decide)) (hκ := ?_) ..) | (with_reducible refine Agree.getD _ _ (fun _ he => Dev.ctlTo_kp (heq := he) (hμ := hμ.up (by decide)) (hκ := ?_) ..) ?_) | (with_reducible apply Agree.ite) | split)

theorem Dev.putData_kp {μ : Nat} {ω : Dev} (d : Dev) (r : Reg) (die : Nat) (s : Nat) (bs : Bytes) (hr : μ.testBit r.ctorIdx = true) (hμ : Within 0x0 μ) (hκ : Agree μ ω d) : Agree μ ω (Dev.putData d r die s bs) := by
  unfold Dev.putData
  repeat' (first | with_reducible assumption | intro _ | (simp only [id_eq]) | (with_reducible refine Dev.setKey_kp _ _ _ _ _ _ (by first | assumption | exact hμ.bit (by decide) | exact hall _) ?_) | (with_reducible refine Dev.setRaw_kp _ _ _ (by assumption) ?_) | (with_reducible apply Agree.ite) | (with_reducible apply Agree.foldl) | (with_reducible apply Agree.foldl_fst) | (with_reducible apply Agree.foldl_snd) | split)

theorem Dev.mbxFrame_kp {μ : Nat} {ω : Dev} (d : Dev) (die : Nat) (p : Nat) (dst : Dest) (kind : Nat) (slot : Nat) (code : Nat) (seq : Nat) (msg : Bytes)  (hμ : Within 0x400000000000000000000000000000000000000000000000000000000000000000000000000000000000000000000000000000000 μ) (hκ : Agree μ ω d) : Agree μ ω (Dev.mbxFrame d die p dst kind slot code seq msg) := by
  unfold Dev.mbxFrame
  repeat' (first | with_reducible assumption | intro _ | (simp only [id_eq]) | (with_reducible refine Dev.ethSend_kp (hμ := hμ.up (by decide)) (hκ := ?_) ..) | (with_reducible apply Agree.ite) | split)

theorem Dev.replyOut_kp {μ : Nat} {ω : Dev} (d : Dev) (die : Nat) (slot : Nat) (m : MIn)  (hμ : Within 0x400000000000000000000000000000002000000000000000000000000000000000000000000000000000000000000000000000000 μ) (hκ : Agree μ ω d) : Agree μ ω (Dev.replyOut d die slot m) := by
  unfold Dev.replyOut
  repeat' (first | with_reducible assumption | intro _ | (simp only [id_eq]) | (with_reducible refine Dev.mbxFrame_kp (hμ := hμ.up (by decide)) (hκ := ?_) ..) | (with_reducible refine Dev.put_kp (hf := by first | assumption | exact hμ.bit rfl) (hμ := hμ.up (by decide)) (hκ := ?_) ..) | (with_reducible apply Agree.ite) | split)

theorem Dev.slotSend_kp {μ : Nat} {ω : Dev} (d : Dev) (die : Nat) (slot : Nat)  (hμ : Within 0x1400000000000000000000000000000002000000000000000000000000000000000000000000000000000000000000000000000000 μ) (hκ : Agree μ ω d) : Agree μ ω (Dev.slotSend d die slot) := by
  unfold Dev.slotSend
  repeat' (first | with_reducible assumption | intro _ | (simp only [id_eq]) | (simp only [Agree.set_mbxIn (hμ.bit (by decide))]) | (with_reducible refine Dev.put_kp (hf := by first | assumption | exact hμ.bit rfl) (hμ := hμ.up (by decide)) (hκ := ?_) ..) | (with_reducible refine Dev.replyOut_kp (hμ := hμ.up (by decide)) (hκ := ?_) ..) | (with_reducible apply Agree.ite) | split)

theorem Dev.slotReply_kp {μ : Nat} {ω : Dev} (d : Dev) (die : Nat) (slot : Nat) (msg : Bytes)  (hμ : Within 0x1400000000000000000000000000000402000000000000000000000000000000000000000000000000000000000000000000000000 μ) (hκ : Agree μ ω d) : Agree μ ω (Dev.slotReply d die slot msg) := by
  unfold Dev.slotReply
  repeat' (first | with_reducible assumption | intro _ | (simp only [id_eq]) | (with_reducible refine Dev.put_kp (hf := by first | assumption | exact hμ.bit rfl) (hμ := hμ.up (by decide)) (hκ := ?_) ..) | (with_reducible refine Dev.putData_kp (hr := by first | assumption | exact hμ.bit rfl) (hμ := hμ.up (by decide)) (hκ := ?_) ..) | (with_reducible refine Dev.slotSend_kp (hμ := hμ.up (by decide)) (hκ := ?_) ..) | (with_reducible apply Agree.ite) | split)

theorem Dev.wardRefuse_kp {μ : Nat} {ω : Dev} (d : Dev) (die : Nat)  (hμ : Within 0x4000000000000000000000000000000000000000000000000000000000000000000000000000000 μ) (hκ : Agree μ ω d) : Agree μ ω (Dev.wardRefuse d die) := by
  unfold Dev.wardRefuse
  repeat' (first | with_reducible assumption | intro _ | (simp only [id_eq]) | (with_reducible refine Dev.countSat_kp (hf := by first | assumption | exact hμ.bit rfl) (hμ := hμ.up (by decide)) (hκ := ?_) ..) | (with_reducible apply Agree.ite) | split)

theorem Dev.octlWrite_kp {μ : Nat} {ω : Dev} (d : Dev) (die : Nat) (by_ : Nat) (v : Nat)  (hμ : Within 0x1400000000000000000000000004000002000000000000000000000000000000000000000000000000000000000000000000000000 μ) (hκ : Agree μ ω d) : Agree μ ω (Dev.octlWrite d die by_ v) := by
  unfold Dev.octlWrite
  repeat' (first | with_reducible assumption | intro _ | (simp only [id_eq]) | (with_reducible refine Dev.put_kp (hf := by first | assumption | exact hμ.bit rfl) (hμ := hμ.up (by decide)) (hκ := ?_) ..) | (with_reducible refine Dev.slotSend_kp (hμ := hμ.up (by decide)) (hκ := ?_) ..) | (with_reducible refine Dev.wardRefuse_kp (hμ := hμ.up (by decide)) (hκ := ?_) ..) | (with_reducible apply Agree.ite) | split)

theorem Dev.eventSend_kp {μ : Nat} {ω : Dev} (d : Dev) (die : Nat)  (hμ : Within 0x400000000000000000000000000000104000000000000000000000000000000000000000000000000000000000000000000000000 μ) (hκ : Agree μ ω d) : Agree μ ω (Dev.eventSend d die) := by
  unfold Dev.eventSend
  repeat' (first | with_reducible assumption | intro _ | (simp only [id_eq]) | (with_reducible refine Dev.mbxFrame_kp (hμ := hμ.up (by decide)) (hκ := ?_) ..) | (with_reducible refine Dev.put_kp (hf := by first | assumption | exact hμ.bit rfl) (hμ := hμ.up (by decide)) (hκ := ?_) ..) | (with_reducible apply Agree.ite) | (with_reducible apply Agree.foldl) | (with_reducible apply Agree.foldl_fst) | (with_reducible apply Agree.foldl_snd) | split)

theorem Dev.ectlWrite_kp {μ : Nat} {ω : Dev} (d : Dev) (die : Nat) (by_ : Nat) (v : Nat)  (hμ : Within 0x400000000000000000000000004000104000000000000000000000000000000000000000000000000000000000000000000000000 μ) (hκ : Agree μ ω d) : Agree μ ω (Dev.ectlWrite d die by_ v) := by
  unfold Dev.ectlWrite
  repeat' (first | with_reducible assumption | intro _ | (simp only [id_eq]) | (with_reducible refine Dev.eventSend_kp (hμ := hμ.up (by decide)) (hκ := ?_) ..) | (with_reducible refine Dev.put_kp (hf := by first | assumption | exact hμ.bit rfl) (hμ := hμ.up (by decide)) (hκ := ?_) ..) | (with_reducible refine Dev.wardRefuse_kp (hμ := hμ.up (by decide)) (hκ := ?_) ..) | (with_reducible apply Agree.ite) | split)

theorem Dev.eventDone_kp {μ : Nat} {ω : Dev} (d : Dev) (die : Nat)  (hμ : Within 0x4000000000000000000000000000000000000000000000000000000000000000000000000 μ) (hκ : Agree μ ω d) : Agree μ ω (Dev.eventDone d die) := by
  unfold Dev.eventDone
  repeat' (first | with_reducible assumption | intro _ | (simp only [id_eq]) | (with_reducible refine Dev.put_kp (hf := by first | assumption | exact hμ.bit rfl) (hμ := hμ.up (by decide)) (hκ := ?_) ..) | (with_reducible apply Agree.ite) | split)

theorem Dev.subWrite_kp {μ : Nat} {ω : Dev} (d : Dev) (die : Nat) (v : Nat)  (hμ : Within 0x110000000000000000000000000000000000000000000000000000000000000000000000000 μ) (hκ : Agree μ ω d) : Agree μ ω (Dev.subWrite d die v) := by
  unfold Dev.subWrite
  repeat' (first | with_reducible assumption | intro _ | (simp only [id_eq]) | (with_reducible refine Dev.writeKey_kp _ _ _ _ _ _ _ (by first | assumption | exact hμ.bit (by decide) | exact hall _) ?_) | (with_reducible refine Dev.put_kp (hf := by first | assumption | exact hμ.bit rfl) (hμ := hμ.up (by decide)) (hκ := ?_) ..) | (with_reducible apply Agree.ite) | split)

theorem Dev.leadWrite_kp {μ : Nat} {ω : Dev} (d : Dev) (die : Nat) (by_ : Nat) (v : Nat)  (hμ : Within 0x4000000000000000004000000000000000000000000000000000000000000000000000000000000 μ) (hκ : Agree μ ω d) : Agree μ ω (Dev.leadWrite d die by_ v) := by
  unfold Dev.leadWrite
  repeat' (first | with_reducible assumption | intro _ | (simp only [id_eq]) | (with_reducible refine Dev.writeKey_kp _ _ _ _ _ _ _ (by first | assumption | exact hμ.bit (by decide) | exact hall _) ?_) | (with_reducible refine Dev.wardRefuse_kp (hμ := hμ.up (by decide)) (hκ := ?_) ..) | (with_reducible apply Agree.ite) | split)

theorem Dev.mbxRefuse_kp {μ : Nat} {ω : Dev} (d : Dev) (die : Nat) (p : Nat) (r : RPkt) (code : Nat)  (hμ : Within 0x400000000000000000000000000000000020000000000000000000000000000000000000000000000000000000000000000000000 μ) (hκ : Agree μ ω d) : Agree μ ω (Dev.mbxRefuse d die p r code) := by
  unfold Dev.mbxRefuse
  repeat' (first | with_reducible assumption | intro _ | (simp only [id_eq]) | (with_reducible refine Dev.count_kp (hf := by first | assumption | exact hμ.bit rfl) (hμ := hμ.up (by decide)) (hκ := ?_) ..) | (with_reducible refine Dev.mbxFrame_kp (hμ := hμ.up (by decide)) (hκ := ?_) ..) | (with_reducible apply Agree.ite) | split)

theorem Dev.slotDeliver_kp {μ : Nat} {ω : Dev} (d : Dev) (die : Nat) (p : Nat) (lead : Nat) (r : RPkt)  (hμ : Within 0x1000000000000000000000000000000202d80000000000000000000000000000000000000000000000000000000000000000000000 μ) (hκ : Agree μ ω d) : Agree μ ω (Dev.slotDeliver d die p lead r) := by
  unfold Dev.slotDeliver
  repeat' (first | with_reducible assumption | intro _ | (simp only [id_eq]) | (simp only [Agree.set_mbxIn (hμ.bit (by decide))]) | (with_reducible refine Dev.put_kp (hf := by first | assumption | exact hμ.bit rfl) (hμ := hμ.up (by decide)) (hκ := ?_) ..) | (with_reducible refine Dev.putData_kp (hr := by first | assumption | exact hμ.bit rfl) (hμ := hμ.up (by decide)) (hκ := ?_) ..) | (with_reducible apply Agree.ite) | split)

theorem Dev.mbxRequest_kp {μ : Nat} {ω : Dev} (d : Dev) (die : Nat) (p : Nat)  (hμ : Within 0x1400000000000000000000000000000202da8000000000000000000000000000000000000000000000000000000000000000000000 μ) (hκ : Agree μ ω d) : Agree μ ω (Dev.mbxRequest d die p) := by
  unfold Dev.mbxRequest
  repeat' (first | with_reducible assumption | intro _ | (simp only [id_eq]) | (with_reducible refine Dev.mbxRefuse_kp (hμ := hμ.up (by decide)) (hκ := ?_) ..) | (with_reducible refine Dev.replyOut_kp (hμ := hμ.up (by decide)) (hκ := ?_) ..) | (with_reducible refine Dev.rxTake_kp (heq := by with_reducible assumption) (hμ := hμ.up (by decide)) (hκ := ?_)) | (with_reducible refine Dev.slotDeliver_kp (hμ := hμ.up (by decide)) (hκ := ?_) ..) | (with_reducible apply Agree.ite) | split)

theorem Dev.setWard_kp {μ : Nat} {ω : Dev} (d : Dev) (die : Nat) (w : Ward)  (hμ : Within 0x8000000000000000000000000000000000000000000000000000000000000000000000000000000000000000000000000000000000 μ) (hκ : Agree μ ω d) : Agree μ ω (Dev.setWard d die w) := by
  unfold Dev.setWard
  repeat' (first | with_reducible assumption | intro _ | (simp only [id_eq]) | (simp only [Agree.set_wards (hμ.bit (by decide))]) | (with_reducible refine Dev.put_kp (hf := by first | assumption | exact hμ.bit rfl) (hμ := hμ.up (by decide)) (hκ := ?_) ..) | (with_reducible apply Agree.ite) | split)

theorem Dev.modWard_kp {μ : Nat} {ω : Dev} (d : Dev) (die : Nat) (f : Ward → Ward)  (hμ : Within 0x8000000000000000000000000000000000000000000000000000000000000000000000000000000000000000000000000000000000 μ) (hκ : Agree μ ω d) : Agree μ ω (Dev.modWard d die f) := by
  unfold Dev.modWard
  repeat' (first | with_reducible assumption | intro _ | (simp only [id_eq]) | (with_reducible refine Dev.setWard_kp (hμ := hμ.up (by decide)) (hκ := ?_) ..) | (with_reducible apply Agree.ite) | split)

theorem Dev.epochWrite_kp {μ : Nat} {ω : Dev} (d : Dev) (die : Nat) (v : Nat)  (hμ : Within 0x2000000000000000000000000000000000000000000000000000000000000000000000000000 μ) (hκ : Agree μ ω d) : Agree μ ω (Dev.epochWrite d die v) := by
  unfold Dev.epochWrite
  repeat' (first | with_reducible assumption | intro _ | (simp only [id_eq]) | (with_reducible refine Dev.put_kp (hf := by first | assumption | exact hμ.bit rfl) (hμ := hμ.up (by decide)) (hκ := ?_) ..) | (with_reducible apply Agree.ite) | split)

theorem Dev.measExtend_kp {μ : Nat} {ω : Dev} (d : Dev) (die : Nat)  (hμ : Within 0x8000000000000000000000000000000000000000000000000000000000000000000000000000000000000000000000000000000000 μ) (hκ : Agree μ ω d) : Agree μ ω (Dev.measExtend d die) := by
  unfold Dev.measExtend
  repeat' (first | with_reducible assumption | intro _ | (simp only [id_eq]) | (with_reducible refine Dev.modWard_kp (hμ := hμ.up (by decide)) (hκ := ?_) ..) | (with_reducible apply Agree.ite) | split)

theorem Dev.report_kp {μ : Nat} {ω : Dev} (d : Dev) (die : Nat) (nonce : Bytes)  (hμ : Within 0x4000000000000000000000000000000000000000000000000000000000000000000000000000000000000000000000 μ) (hκ : Agree μ ω d) : Agree μ ω (Dev.report d die nonce).2 := by
  unfold Dev.report
  repeat' (first | with_reducible assumption | intro _ | (simp only [id_eq]) | (with_reducible refine Dev.draw_kp' (heq := by with_reducible assumption) (hμ := hμ.up (by decide)) (hκ := ?_) ..) | (with_reducible refine Dev.draw_kp (hμ := hμ.up (by decide)) (hκ := ?_) ..) | (with_reducible apply Agree.ite) | split)

theorem Dev.report_kp' {μ : Nat} {ω : Dev} {d : Dev} {die : Nat} {nonce : Bytes} {y0} {rd : Dev} (heq : Dev.report d die nonce = (y0, rd))  (hμ : Within 0x4000000000000000000000000000000000000000000000000000000000000000000000000000000000000000000000 μ) (hκ : Agree μ ω d) : Agree μ ω rd := by
  have k := Dev.report_kp (μ := μ) (ω := ω) d die nonce  (hμ := hμ) (hκ := hκ); rw [heq] at k; exact k

theorem Dev.wardGo_kp {μ : Nat} {ω : Dev} (d : Dev) (die : Nat) (op : Nat)  (hμ : Within 0x8000000000000000000000000080000000000000000000000000000000000000000000000000000000000000000000000000000000 μ) (hκ : Agree μ ω d) : Agree μ ω (Dev.wardGo d die op) := by
  unfold Dev.wardGo
  repeat' (first | with_reducible assumption | intro _ | (simp only [id_eq]) | (with_reducible refine Dev.modWard_kp (hμ := hμ.up (by decide)) (hκ := ?_) ..) | (with_reducible refine Dev.put_kp (hf := by first | assumption | exact hμ.bit rfl) (hμ := hμ.up (by decide)) (hκ := ?_) ..) | (with_reducible apply Agree.ite) | split)

theorem Dev.opctlWrite_kp {μ : Nat} {ω : Dev} (d : Dev) (die : Nat) (v : Nat)  (hμ : Within 0x8000000000000000000000000080000000000000000000000000000000000000000000000000000000000000000000000000000000 μ) (hκ : Agree μ ω d) : Agree μ ω (Dev.opctlWrite d die v) := by
  unfold Dev.opctlWrite
  repeat' (first | with_reducible assumption | intro _ | (simp only [id_eq]) | (with_reducible refine Dev.writeKey_kp _ _ _ _ _ _ _ (by first | assumption | exact hμ.bit (by decide) | exact hall _) ?_) | (with_reducible refine Dev.wardGo_kp (hμ := hμ.up (by decide)) (hκ := ?_) ..) | (with_reducible apply Agree.ite) | split)

theorem Dev.keyx_kp {μ : Nat} {ω : Dev} (d : Dev) (die : Nat) (inp : Bytes)  (hμ : Within 0x4000000000000000000000000000000000000000000000000000000000000000000000000000000000000000000000 μ) (hκ : Agree μ ω d) : Agree μ ω (Dev.keyx d die inp).2 := by
  unfold Dev.keyx
  repeat' (first | with_reducible assumption | intro _ | (simp only [id_eq]) | (with_reducible refine Dev.draw_kp' (heq := by with_reducible assumption) (hμ := hμ.up (by decide)) (hκ := ?_) ..) | (with_reducible refine Dev.draw_kp (hμ := hμ.up (by decide)) (hκ := ?_) ..) | (with_reducible apply Agree.ite) | split)

theorem Dev.keyx_kp' {μ : Nat} {ω : Dev} {d : Dev} {die : Nat} {inp : Bytes} {y0} {rd : Dev} (heq : Dev.keyx d die inp = (y0, rd))  (hμ : Within 0x4000000000000000000000000000000000000000000000000000000000000000000000000000000000000000000000 μ) (hκ : Agree μ ω d) : Agree μ ω rd := by
  have k := Dev.keyx_kp (μ := μ) (ω := ω) d die inp  (hμ := hμ) (hκ := hκ); rw [heq] at k; exact k

theorem Dev.wardOpDone_kp {μ : Nat} {ω : Dev} (d : Dev) (die : Nat)  (hμ : Within 0x8000000000004000000000000280000000000000000000000000000000000000000000000000000000000000000000000000000000 μ) (hκ : Agree μ ω d) : Agree μ ω (Dev.wardOpDone d die) := by
  unfold Dev.wardOpDone
  repeat' (first | with_reducible assumption | intro _ | (simp only [id_eq]) | (with_reducible refine Dev.keyx_kp' (heq := by with_reducible assumption) (hμ := hμ.up (by decide)) (hκ := ?_) ..) | (with_reducible refine Dev.keyx_kp (hμ := hμ.up (by decide)) (hκ := ?_) ..) | (with_reducible refine Dev.modWard_kp (hμ := hμ.up (by decide)) (hκ := ?_) ..) | (with_reducible refine Dev.put_kp (hf := by first | assumption | exact hμ.bit rfl) (hμ := hμ.up (by decide)) (hκ := ?_) ..) | (with_reducible refine Dev.putData_kp (hr := by first | assumption | exact hμ.bit rfl) (hμ := hμ.up (by decide)) (hκ := ?_) ..) | (with_reducible refine Dev.report_kp' (heq := by with_reducible assumption) (hμ := hμ.up (by decide)) (hκ := ?_) ..) | (with_reducible refine Dev.report_kp (hμ := hμ.up (by decide)) (hκ := ?_) ..) | (with_reducible apply Agree.ite) | split)

theorem Dev.txMask_kp {μ : Nat} {ω : Dev} (d : Dev) (die : Nat) (v : Nat)  (hμ : Within 0x38010003e004000245000000000080000000000000000e04c60008000000001000004000000000000000000000000101f20000000 μ) (hκ : Agree μ ω d) : Agree μ ω (Dev.txMask d die v) := by
  unfold Dev.txMask
  repeat' (first | with_reducible assumption | intro _ | (simp only [id_eq]) | (with_reducible refine Dev.laneDownNow_kp (hμ := hμ.up (by decide)) (hκ := ?_) ..) | (with_reducible refine Dev.portDown_kp (hμ := hμ.up (by decide)) (hκ := ?_) ..) | (with_reducible refine Dev.put_kp (hf := by first | assumption | exact hμ.bit rfl) (hμ := hμ.up (by decide)) (hκ := ?_) ..) | (with_reducible apply Agree.ite) | (with_reducible apply Agree.foldl) | (with_reducible apply Agree.foldl_fst) | (with_reducible apply Agree.foldl_snd) | split)

theorem Dev.itemPut_kp {μ : Nat} {ω : Dev} (d : Dev) (die : Nat) (x : Nat × Nat × Nat)  (hμ : Within 0x38010003e004000245000000003eb0000000000000000e04c60008000000001000004000000000000000000000000101f20000000 μ) (hκ : Agree μ ω d) : Agree μ ω (Dev.itemPut d die x) := by
  unfold Dev.itemPut
  repeat' (first | with_reducible assumption | intro _ | (simp only [id_eq]) | (with_reducible refine Dev.put_kp (hf := by first | assumption | exact hμ.bit rfl) (hμ := hμ.up (by decide)) (hκ := ?_) ..) | (with_reducible refine Dev.txMask_kp (hμ := hμ.up (by decide)) (hκ := ?_) ..) | (with_reducible apply Agree.ite) | split)

theorem Dev.keyBlow_kp {μ : Nat} {ω : Dev} (d : Dev) (die : Nat) (key : Bytes)  (hμ : Within 0x100000000000000001000000000000000000000000000000000000000000000000000000000000000000000000000 μ) (hκ : Agree μ ω d) : Agree μ ω (Dev.keyBlow d die key) := by
  unfold Dev.keyBlow
  repeat' (first | with_reducible assumption | intro _ | (simp only [id_eq]) | (simp only [Agree.set_fuse (hμ.bit (by decide))]) | (with_reducible refine Dev.put_kp (hf := by first | assumption | exact hμ.bit rfl) (hμ := hμ.up (by decide)) (hκ := ?_) ..) | (with_reducible apply Agree.ite) | split)

theorem Dev.rollbackBlow_kp {μ : Nat} {ω : Dev} (d : Dev) (die : Nat) (t : Nat)  (hμ : Within 0x100000000000000008000000000000000000000000000000000000000000000000000000000000000000000000000 μ) (hκ : Agree μ ω d) : Agree μ ω (Dev.rollbackBlow d die t) := by
  unfold Dev.rollbackBlow
  repeat' (first | with_reducible assumption | intro _ | (simp only [id_eq]) | (simp only [Agree.set_fuse (hμ.bit (by decide))]) | (with_reducible refine Dev.put_kp (hf := by first | assumption | exact hμ.bit rfl) (hμ := hμ.up (by decide)) (hκ := ?_) ..) | (with_reducible apply Agree.ite) | split)

theorem Dev.wardApply_kp {μ : Nat} {ω : Dev} (d : Dev) (die : Nat) (u : WUpd)  (hμ : Within 0x838010003e004100245000000003eb9000000000000000e04c60008000000001000004000000000000000000000000101f20000000 μ) (hκ : Agree μ ω d) : Agree μ ω (Dev.wardApply d die u) := by
  unfold Dev.wardApply
  repeat' (first | with_reducible assumption | intro _ | (simp only [id_eq]) | (with_reducible refine Dev.itemPut_kp (hμ := hμ.up (by decide)) (hκ := ?_) ..) | (with_reducible refine Dev.keyBlow_kp (hμ := hμ.up (by decide)) (hκ := ?_) ..) | (with_reducible refine Dev.modWard_kp (hμ := hμ.up (by decide)) (hκ := ?_) ..) | (with_reducible refine Dev.put_kp (hf := by first | assumption | exact hμ.bit rfl) (hμ := hμ.up (by decide)) (hκ := ?_) ..) | (with_reducible refine Dev.rollbackBlow_kp (hμ := hμ.up (by decide)) (hκ := ?_) ..) | (with_reducible apply Agree.ite) | (with_reducible apply Agree.foldl) | (with_reducible apply Agree.foldl_fst) | (with_reducible apply Agree.foldl_snd) | split)

theorem Dev.wardReply_kp {μ : Nat} {ω : Dev} (d : Dev) (die : Nat) (u : WUpd) (stat : Nat) (det : Nat) (body : Bytes)  (hμ : Within 0x1400000000000000000000000000000402000000000000000000000000000000000000000000000000000000000000000000000000 μ) (hκ : Agree μ ω d) : Agree μ ω (Dev.wardReply d die u stat det body) := by
  unfold Dev.wardReply
  repeat' (first | with_reducible assumption | intro _ | (simp only [id_eq]) | (with_reducible refine Dev.slotReply_kp (hμ := hμ.up (by decide)) (hκ := ?_) ..) | (with_reducible apply Agree.ite) | split)

theorem Dev.wardAnswer_kp {μ : Nat} {ω : Dev} (d : Dev) (die : Nat) (u : WUpd) (codes : List Nat)  (hμ : Within 0x1400000000000000000000000000000402000000000000000000000000000000000000000000000000000000000000000000000000 μ) (hκ : Agree μ ω d) : Agree μ ω (Dev.wardAnswer d die u codes) := by
  unfold Dev.wardAnswer
  repeat' (first | with_reducible assumption | intro _ | (simp only [id_eq]) | (with_reducible refine Dev.wardReply_kp (hμ := hμ.up (by decide)) (hκ := ?_) ..) | (with_reducible apply Agree.ite) | split)

theorem Dev.wardRelay_kp {μ : Nat} {ω : Dev} (d : Dev) (die : Nat) (u : WUpd) (fails : Nat)  (hμ : Within 0x978010003e004100245000000003eb9402000000000000e04c60008000000001000004000000000000000000000000101f20000000 μ) (hκ : Agree μ ω d) : Agree μ ω (Dev.wardRelay d die u fails) := by
  unfold Dev.wardRelay
  repeat' (first | with_reducible assumption | intro _ | (simp only [id_eq]) | (with_reducible refine Dev.modWard_kp (hμ := hμ.up (by decide)) (hκ := ?_) ..) | (with_reducible refine Dev.wardAnswer_kp (hμ := hμ.up (by decide)) (hκ := ?_) ..) | (with_reducible refine Dev.wardApply_kp (hμ := hμ.up (by decide)) (hκ := ?_) ..) | (with_reducible apply Agree.ite) | (with_reducible apply Agree.foldl) | (with_reducible apply Agree.foldl_fst) | (with_reducible apply Agree.foldl_snd) | split)

theorem Dev.wardUpdate_kp {μ : Nat} {ω : Dev} (d : Dev) (die : Nat) (op : Nat) (fails : Nat)  (hμ : Within 0x978010003e004100245000000003eb9402000000000000e04c60008000000001000004000000000000000000000000101f20000000 μ) (hκ : Agree μ ω d) : Agree μ ω (Dev.wardUpdate d die op fails) := by
  unfold Dev.wardUpdate
  repeat' (first | with_reducible assumption | intro _ | (simp only [id_eq]) | (with_reducible refine Dev.wardRelay_kp (hμ := hμ.up (by decide)) (hκ := ?_) ..) | (with_reducible refine Dev.wardReply_kp (hμ := hμ.up (by decide)) (hκ := ?_) ..) | (with_reducible apply Agree.ite) | split)

theorem Dev.wardTimeout_kp {μ : Nat} {ω : Dev} (d : Dev) (die : Nat)  (hμ : Within 0x9400000000000000000000000000000402000000000000000000000000000000000000000000000000000000000000000000000000 μ) (hκ : Agree μ ω d) : Agree μ ω (Dev.wardTimeout d die) := by
  unfold Dev.wardTimeout
  repeat' (first | with_reducible assumption | intro _ | (simp only [id_eq]) | (with_reducible refine Dev.modWard_kp (hμ := hμ.up (by decide)) (hκ := ?_) ..) | (with_reducible refine Dev.wardReply_kp (hμ := hμ.up (by decide)) (hκ := ?_) ..) | (with_reducible apply Agree.ite) | split)

theorem Dev.wardDebug_kp {μ : Nat} {ω : Dev} (d : Dev) (die : Nat) (token : Bytes)  (hμ : Within 0x8000000000004000000000000000004000000000000000000000000000000000000000000000000000000000000000000000000000 μ) (hκ : Agree μ ω d) : Agree μ ω (Dev.wardDebug d die token) := by
  unfold Dev.wardDebug
  repeat' (first | with_reducible assumption | intro _ | (simp only [id_eq]) | (with_reducible refine Dev.draw_kp' (heq := by with_reducible assumption) (hμ := hμ.up (by decide)) (hκ := ?_) ..) | (with_reducible refine Dev.draw_kp (hμ := hμ.up (by decide)) (hκ := ?_) ..) | (with_reducible refine Dev.modWard_kp (hμ := hμ.up (by decide)) (hκ := ?_) ..) | (with_reducible refine Dev.put_kp (hf := by first | assumption | exact hμ.bit rfl) (hμ := hμ.up (by decide)) (hκ := ?_) ..) | (with_reducible apply Agree.ite) | split)

theorem Dev.bootFails_kp {μ : Nat} {ω : Dev} (d : Dev) (die : Nat)  (hμ : Within 0xaa000000000000345000000000004000000000000000000000000000000200400000000000000000000000000000000000000000 μ) (hκ : Agree μ ω d) : Agree μ ω (Dev.bootFails d die) := by
  unfold Dev.bootFails
  repeat' (first | with_reducible assumption | intro _ | (simp only [id_eq]) | (with_reducible refine Dev.knkDown_kp (hμ := hμ.up (by decide)) (hκ := ?_) ..) | (with_reducible refine Dev.put_kp (hf := by first | assumption | exact hμ.bit rfl) (hμ := hμ.up (by decide)) (hκ := ?_) ..) | (with_reducible refine Dev.raiseAlert_kp (hμ := hμ.up (by decide)) (hκ := ?_) ..) | (with_reducible refine Dev.stwPost_kp (hμ := hμ.up (by decide)) (hκ := ?_) ..) | (with_reducible apply Agree.ite) | (with_reducible apply Agree.foldl) | (with_reducible apply Agree.foldl_fst) | (with_reducible apply Agree.foldl_snd) | split)

theorem Dev.romBoot_kp {μ : Nat} {ω : Dev} (d : Dev) (die : Nat) (found : List ((Nat × Nat) × Bytes))  (hμ : Within 0x10a0aa00000000000034500000000000c000000000000000000000000000000200400000000000000000000000000000000000000000 μ) (hκ : Agree μ ω d) : Agree μ ω (Dev.romBoot d die found) := by
  unfold Dev.romBoot
  repeat' (first | with_reducible assumption | intro _ | (simp only [id_eq]) | (simp only [Agree.set_flash (hμ.bit (by decide))]) | (simp only [Agree.set_stews (hμ.bit (by decide))]) | (with_reducible refine Dev.bootFails_kp (hμ := hμ.up (by decide)) (hκ := ?_) ..) | (with_reducible refine Dev.modWard_kp (hμ := hμ.up (by decide)) (hκ := ?_) ..) | (with_reducible refine Dev.put_kp (hf := by first | assumption | exact hμ.bit rfl) (hμ := hμ.up (by decide)) (hκ := ?_) ..) | (with_reducible apply Agree.ite) | (with_reducible apply Agree.foldl) | (with_reducible apply Agree.foldl_fst) | (with_reducible apply Agree.foldl_snd) | split)

theorem Dev.setPw_kp {μ : Nat} {ω : Dev} (d : Dev) (die : Nat) (x : PwSt)  (hμ : Within 0x10000000000000000000000000000000000000000000000000000000000000000000000000000000000000000000000000000000000 μ) (hκ : Agree μ ω d) : Agree μ ω (Dev.setPw d die x) := by
  unfold Dev.setPw
  repeat' (first | with_reducible assumption | intro _ | (simp only [id_eq]) | (simp only [Agree.set_pws (hμ.bit (by decide))]) | (with_reducible refine Dev.put_kp (hf := by first | assumption | exact hμ.bit rfl) (hμ := hμ.up (by decide)) (hκ := ?_) ..) | (with_reducible apply Agree.ite) | split)

theorem Dev.modPw_kp {μ : Nat} {ω : Dev} (d : Dev) (die : Nat) (f : PwSt → PwSt)  (hμ : Within 0x10000000000000000000000000000000000000000000000000000000000000000000000000000000000000000000000000000000000 μ) (hκ : Agree μ ω d) : Agree μ ω (Dev.modPw d die f) := by
  unfold Dev.modPw
  repeat' (first | with_reducible assumption | intro _ | (simp only [id_eq]) | (with_reducible refine Dev.setPw_kp (hμ := hμ.up (by decide)) (hκ := ?_) ..) | (with_reducible apply Agree.ite) | split)

theorem Dev.flags_kp {μ : Nat} {ω : Dev} (d : Dev) (die : Nat) (x : DiePw)  (hμ : Within 0x200000000000000000000000000000000000000000000000000000000000000000000000000000000000000000000 μ) (hκ : Agree μ ω d) : Agree μ ω (Dev.flags d die x) := by
  unfold Dev.flags
  repeat' (first | with_reducible assumption | intro _ | (simp only [id_eq]) | (simp only [Agree.set_pw (hμ.bit (by decide))]) | (with_reducible apply Agree.ite) | split)

theorem Dev.resetBut_kp {μ : Nat} {ω : Dev} (d : Dev) (die : Nat) (dom : Dom) (keep : Reg → Bool) (hμ : Within 0xffffffffffffffffffffffffffffffffffffffffffffffffffffffffffffffffffffffffffffffffffffffffffff μ) (hκ : Agree μ ω d) :
    Agree μ ω (d.resetBut die dom keep) :=
  Agree.setRf _ (KMap.delIf_delIf _ _ _ fun k _ => hμ.bit (Reg.all_bit k.reg)) hκ

theorem Dev.spadsInvalid_kp {μ : Nat} {ω : Dev} (d : Dev) (c : Nat) (n : Nat)  (hμ : Within 0x18000038000000000000000000000000000000000000000000000000000000000000000000000000000000000000000000000 μ) (hκ : Agree μ ω d) : Agree μ ω (Dev.spadsInvalid d c n) := by
  unfold Dev.spadsInvalid
  repeat' (first | with_reducible assumption | intro _ | (simp only [id_eq]) | (simp only [Agree.set_unwritten_mem_errs_wback_scrub (hμ.bit (by decide)) (hμ.bit (by decide)) (hμ.bit (by decide)) (hμ.bit (by decide)) (hμ.bit (by decide))]) | (with_reducible apply Agree.ite) | split)

theorem Dev.computeOff_kp {μ : Nat} {ω : Dev} (d : Dev) (die : Nat)  (hμ : Within 0x200000380709b82ffffffffffffffffffffffffffffffffffffffffffffffffffffffffffffffffffffffffffffffffffffffffffff μ) (hκ : Agree μ ω d) : Agree μ ω (Dev.computeOff d die) := by
  unfold Dev.computeOff
  repeat' (first | with_reducible assumption | intro _ | (simp only [id_eq]) | (simp only [Agree.set_cores_cells_engs_unfs_dsps_waits_chunks_stest (hμ.bit (by decide)) (hμ.bit (by decide)) (hμ.bit (by decide)) (hμ.bit (by decide)) (hμ.bit (by decide)) (hμ.bit (by decide)) (hμ.bit (by decide)) (hμ.bit (by decide))]) | (with_reducible refine Dev.flags_kp (hμ := hμ.up (by decide)) (hκ := ?_) ..) | (with_reducible refine Dev.put_kp (hf := by first | assumption | exact hμ.bit rfl) (hμ := hμ.up (by decide)) (hκ := ?_) ..) | (with_reducible refine Dev.resetBut_kp (hμ := hμ.up (by decide)) (hκ := ?_) ..) | (with_reducible refine Dev.spadsInvalid_kp (hμ := hμ.up (by decide)) (hκ := ?_) ..) | (with_reducible apply Agree.ite) | split)

theorem Dev.carrierOff_kp {μ : Nat} {ω : Dev} (d : Dev) (die : Nat) (sleep : Bool) (hμ : Within 0x23f9dfffffedbf2ffffffffffffffffffffffffffffffffffffffffffffffffffffffffffffffffffffffffffffffffffffffffffff μ) (hκ : Agree μ ω d) : Agree μ ω (d.carrierOff die sleep) := by
  unfold Dev.carrierOff
  simp only
  refine Agree.foldl _ _ _ (fun e t h => Dev.pathFail_kp (hμ := hμ.up (by decide)) (hκ := h) ..) ?_
  refine Dev.put_kp _ _ _ _ _ _ (hμ.bit (by decide)) (hμ.up (by decide)) (Dev.put_kp _ _ _ _ _ _ (hμ.bit (by decide)) (hμ.up (by decide)) ?_)
  have hbits : ∀ i, Nat.testBit 0x23f9dfffffedbf2ffffffffffffffffffffffffffffffffffffffffffffffffffffffffffffffffffffffffffffffffffffffffffff i = true → μ.testBit i = true := fun i h => hμ.bit h
  have h0 : Agree μ ω ((List.range 4).foldl (fun d' j => ((d'.moveRoutes (4 * die + j)).portFlush (4 * die + j))) (d.computeOff die)) := by
    repeat' (first | with_reducible assumption | intro _ | (simp only [id_eq]) | (simp only [Agree.set_hbm_narrow_stews (hμ.bit (by decide)) (hμ.bit (by decide)) (hμ.bit (by decide))]) | (simp only [Agree.set_tmb (hμ.bit (by decide))]) | (with_reducible refine Dev.computeOff_kp (hμ := hμ.up (by decide)) (hκ := ?_) ..) | (with_reducible refine Dev.flags_kp (hμ := hμ.up (by decide)) (hκ := ?_) ..) | (with_reducible refine Dev.hbInvalid_kp (hμ := hμ.up (by decide)) (hκ := ?_) ..) | (with_reducible refine Dev.moveRoutes_kp (hμ := hμ.up (by decide)) (hκ := ?_) ..) | (with_reducible refine Dev.pathFail_kp (hμ := hμ.up (by decide)) (hκ := ?_) ..) | (with_reducible refine Dev.portFlush_kp (hμ := hμ.up (by decide)) (hκ := ?_) ..) | (with_reducible refine Dev.put_kp (hf := by first | assumption | exact hμ.bit rfl) (hμ := hμ.up (by decide)) (hκ := ?_) ..) | (with_reducible refine Dev.resetBut_kp (hμ := hμ.up (by decide)) (hκ := ?_) ..) | (with_reducible refine Dev.sbInvalid_kp (hμ := hμ.up (by decide)) (hκ := ?_) ..) | (with_reducible apply Agree.ite) | (with_reducible apply Agree.foldl) | (with_reducible apply Agree.foldl_fst) | (with_reducible apply Agree.foldl_snd) | split)
  generalize (List.range 4).foldl (fun d' j => ((d'.moveRoutes (4 * die + j)).portFlush (4 * die + j))) (d.computeOff die) = d0 at h0 ⊢
  have h1 : Agree μ ω (((d0.flags die ⟨false, sleep, false⟩).resetBut die .carrier (if sleep then sleepReg else logReg)).sbInvalid die) := by
    repeat' (first | with_reducible assumption | intro _ | (simp only [id_eq]) | (simp only [Agree.set_hbm_narrow_stews (hμ.bit (by decide)) (hμ.bit (by decide)) (hμ.bit (by decide))]) | (simp only [Agree.set_tmb (hμ.bit (by decide))]) | (with_reducible refine Dev.computeOff_kp (hμ := hμ.up (by decide)) (hκ := ?_) ..) | (with_reducible refine Dev.flags_kp (hμ := hμ.up (by decide)) (hκ := ?_) ..) | (with_reducible refine Dev.hbInvalid_kp (hμ := hμ.up (by decide)) (hκ := ?_) ..) | (with_reducible refine Dev.moveRoutes_kp (hμ := hμ.up (by decide)) (hκ := ?_) ..) | (with_reducible refine Dev.pathFail_kp (hμ := hμ.up (by decide)) (hκ := ?_) ..) | (with_reducible refine Dev.portFlush_kp (hμ := hμ.up (by decide)) (hκ := ?_) ..) | (with_reducible refine Dev.put_kp (hf := by first | assumption | exact hμ.bit rfl) (hμ := hμ.up (by decide)) (hκ := ?_) ..) | (with_reducible refine Dev.resetBut_kp (hμ := hμ.up (by decide)) (hκ := ?_) ..) | (with_reducible refine Dev.sbInvalid_kp (hμ := hμ.up (by decide)) (hκ := ?_) ..) | (with_reducible apply Agree.ite) | (with_reducible apply Agree.foldl) | (with_reducible apply Agree.foldl_fst) | (with_reducible apply Agree.foldl_snd) | split)
  generalize (((d0.flags die ⟨false, sleep, false⟩).resetBut die .carrier (if sleep then sleepReg else logReg)).sbInvalid die) = d1 at h1 ⊢
  have h2 : Agree μ ω (if sleep = true then d1 else
    { d1.hbInvalid die with hbm := d1.hbm.delIf (fun k => k / 4 == die), narrow := d1.narrow.filter (fun r => r.1 != die),
                            stews := d1.stews.del die }) := by
    split
    · exact h1
    · simp only [Agree.set_hbm_narrow_stews (hbits 395 (by decide)) (hbits 396 (by decide)) (hbits 421 (by decide))]
      exact Dev.hbInvalid_kp (hμ := hμ.up (by decide)) (hκ := h1) ..
  generalize (if sleep = true then d1 else
    { d1.hbInvalid die with hbm := d1.hbm.delIf (fun k => k / 4 == die), narrow := d1.narrow.filter (fun r => r.1 != die),
                            stews := d1.stews.del die }) = d2 at h2 ⊢
  refine Agree.of (Eq.trans ?_ h2.eq)
  simp only [Dev.mask, hbits 382 (by decide), hbits 383 (by decide), hbits 385 (by decide), hbits 386 (by decide), hbits 372 (by decide), hbits 373 (by decide), hbits 391 (by decide), hbits 392 (by decide), hbits 393 (by decide), hbits 394 (by decide), hbits 397 (by decide), hbits 402 (by decide), hbits 403 (by decide), hbits 399 (by decide), hbits 401 (by decide), hbits 404 (by decide), hbits 405 (by decide), hbits 406 (by decide), hbits 407 (by decide), hbits 408 (by decide), hbits 410 (by decide), hbits 411 (by decide), hbits 412 (by decide), hbits 416 (by decide), hbits 417 (by decide), hbits 418 (by decide), hbits 419 (by decide), hbits 420 (by decide), cond_true]

theorem Dev.knucklesLost_kp {μ : Nat} {ω : Dev} (d : Dev) (die : Nat)  (hμ : Within 0x8a000000000000245000000000000000000000000000000000000000000200400000000000000000000000000000000000000000 μ) (hκ : Agree μ ω d) : Agree μ ω (Dev.knucklesLost d die) := by
  unfold Dev.knucklesLost
  repeat' (first | with_reducible assumption | intro _ | (simp only [id_eq]) | (with_reducible refine Dev.knkDown_kp (hμ := hμ.up (by decide)) (hκ := ?_) ..) | (with_reducible apply Agree.ite) | (with_reducible apply Agree.foldl) | (with_reducible apply Agree.foldl_fst) | (with_reducible apply Agree.foldl_snd) | split)

theorem Dev.carrierLost_kp {μ : Nat} {ω : Dev} (d : Dev) (die : Nat)  (hμ : Within 0x37f9ffffffedbf2ffffffffffffffffffffffffffffffffffffffffffffffffffffffffffffffffffffffffffffffffffffffffffff μ) (hκ : Agree μ ω d) : Agree μ ω (Dev.carrierLost d die) := by
  unfold Dev.carrierLost
  repeat' (first | with_reducible assumption | intro _ | (simp only [id_eq]) | (simp only [Agree.set_parts (hμ.bit (by decide))]) | (with_reducible refine Dev.carrierOff_kp (hμ := hμ.up (by decide)) (hκ := ?_) ..) | (with_reducible refine Dev.knucklesLost_kp (hμ := hμ.up (by decide)) (hκ := ?_) ..) | (with_reducible refine Dev.modPw_kp (hμ := hμ.up (by decide)) (hκ := ?_) ..) | (with_reducible refine Dev.post_kp (hμ := hμ.up (by decide)) (hκ := ?_) ..) | (with_reducible refine Dev.put_kp (hf := by first | assumption | exact hμ.bit rfl) (hμ := hμ.up (by decide)) (hκ := ?_) ..) | (with_reducible apply Agree.ite) | (with_reducible apply Agree.foldl) | (with_reducible apply Agree.foldl_fst) | (with_reducible apply Agree.foldl_snd) | split)

theorem Dev.computeDieLost_kp {μ : Nat} {ω : Dev} (d : Dev) (die : Nat) (n : Nat)  (hμ : Within 0x180009b8000000000010000000000000000000000000000000000000010000000000000000000000000000000000000000002 μ) (hκ : Agree μ ω d) : Agree μ ω (Dev.computeDieLost d die n) := by
  unfold Dev.computeDieLost
  repeat' (first | with_reducible assumption | intro _ | (simp only [id_eq]) | (simp only [Agree.set_cores_cells_waits (hμ.bit (by decide)) (hμ.bit (by decide)) (hμ.bit (by decide))]) | (with_reducible refine Dev.put_kp (hf := by first | assumption | exact hμ.bit rfl) (hμ := hμ.up (by decide)) (hκ := ?_) ..) | (with_reducible refine Dev.spadsInvalid_kp (hμ := hμ.up (by decide)) (hκ := ?_) ..) | (with_reducible apply Agree.ite) | (with_reducible apply Agree.foldl) | (with_reducible apply Agree.foldl_fst) | (with_reducible apply Agree.foldl_snd) | split)

theorem Dev.carrierOn_kp {μ : Nat} {ω : Dev} (d : Dev) (die : Nat)  (hμ : Within 0xa000000000200000000010000000000000000000000000000000000000200400000008000000000000000000000000000000000 μ) (hκ : Agree μ ω d) : Agree μ ω (Dev.carrierOn d die) := by
  unfold Dev.carrierOn
  repeat' (first | with_reducible assumption | intro _ | (simp only [id_eq]) | (with_reducible refine Dev.flags_kp (hμ := hμ.up (by decide)) (hκ := ?_) ..) | (with_reducible refine Dev.knkFull_kp (hμ := hμ.up (by decide)) (hκ := ?_) ..) | (with_reducible refine Dev.put_kp (hf := by first | assumption | exact hμ.bit rfl) (hμ := hμ.up (by decide)) (hκ := ?_) ..) | (with_reducible apply Agree.ite) | (with_reducible apply Agree.foldl) | (with_reducible apply Agree.foldl_fst) | (with_reducible apply Agree.foldl_snd) | split)

theorem Dev.computeOn_kp {μ : Nat} {ω : Dev} (d : Dev) (die : Nat)  (hμ : Within 0x200000000010000000000000000000000000000000000000000000000000000000000000000000200000020000000 μ) (hκ : Agree μ ω d) : Agree μ ω (Dev.computeOn d die) := by
  unfold Dev.computeOn
  repeat' (first | with_reducible assumption | intro _ | (simp only [id_eq]) | (with_reducible refine Dev.flags_kp (hμ := hμ.up (by decide)) (hκ := ?_) ..) | (with_reducible refine Dev.put_kp (hf := by first | assumption | exact hμ.bit rfl) (hμ := hμ.up (by decide)) (hκ := ?_) ..) | (with_reducible refine Dev.setDsp_kp (hμ := hμ.up (by decide)) (hκ := ?_) ..) | (with_reducible refine Dev.setTen_kp (hμ := hμ.up (by decide)) (hκ := ?_) ..) | (with_reducible apply Agree.ite) | (with_reducible apply Agree.foldl) | (with_reducible apply Agree.foldl_fst) | (with_reducible apply Agree.foldl_snd) | split)

theorem Dev.tenAssign_kp {μ : Nat} {ω : Dev} (d : Dev) (die : Nat) (e : Nat) (p : Nat) (on : Bool)  (hμ : Within 0x32000000000000000000000000000000000000000000000000000000000000000000000000000000000000101fe2000000 μ) (hκ : Agree μ ω d) : Agree μ ω (Dev.tenAssign d die e p on) := by
  unfold Dev.tenAssign
  repeat' (first | with_reducible assumption | intro _ | (simp only [id_eq]) | (with_reducible refine Dev.engReset_kp (hμ := hμ.up (by decide)) (hκ := ?_) ..) | (with_reducible refine Dev.put_kp (hf := by first | assumption | exact hμ.bit rfl) (hμ := hμ.up (by decide)) (hκ := ?_) ..) | (with_reducible apply Agree.ite) | split)

theorem Dev.unfAssign_kp {μ : Nat} {ω : Dev} (d : Dev) (die : Nat) (u : Nat) (p : Nat) (on : Bool)  (hμ : Within 0x20000000000000000000000000000000000000000000000000000000000000000000000000000000000003f80000000000 μ) (hκ : Agree μ ω d) : Agree μ ω (Dev.unfAssign d die u p on) := by
  unfold Dev.unfAssign
  repeat' (first | with_reducible assumption | intro _ | (simp only [id_eq]) | (with_reducible refine Dev.put_kp (hf := by first | assumption | exact hμ.bit rfl) (hμ := hμ.up (by decide)) (hκ := ?_) ..) | (with_reducible refine Dev.unfReset_kp (hμ := hμ.up (by decide)) (hκ := ?_) ..) | (with_reducible apply Agree.ite) | split)

theorem Dev.dspAssign_kp {μ : Nat} {ω : Dev} (d : Dev) (die : Nat) (p : Nat) (on : Bool)  (hμ : Within 0x4201000000000000000000000000000000000000000000000000000000000000000000000000000000fe08000000000000 μ) (hκ : Agree μ ω d) : Agree μ ω (Dev.dspAssign d die p on) := by
  unfold Dev.dspAssign
  repeat' (first | with_reducible assumption | intro _ | (simp only [id_eq]) | (with_reducible refine Dev.dspReset_kp (hμ := hμ.up (by decide)) (hκ := ?_) ..) | (with_reducible refine Dev.put_kp (hf := by first | assumption | exact hμ.bit rfl) (hμ := hμ.up (by decide)) (hκ := ?_) ..) | (with_reducible apply Agree.ite) | split)

theorem Dev.partAssign_kp {μ : Nat} {ω : Dev} (d : Dev) (die : Nat) (p : Nat) (x : Part) (on : Bool)  (hμ : Within 0x7201000000000000000000000000000000000000000000000000000000000000000000000000000000fe0bf81fe2000000 μ) (hκ : Agree μ ω d) : Agree μ ω (Dev.partAssign d die p x on) := by
  unfold Dev.partAssign
  repeat' (first | with_reducible assumption | intro _ | (simp only [id_eq]) | (with_reducible refine Dev.dspAssign_kp (hμ := hμ.up (by decide)) (hκ := ?_) ..) | (with_reducible refine Dev.tenAssign_kp (hμ := hμ.up (by decide)) (hκ := ?_) ..) | (with_reducible refine Dev.unfAssign_kp (hμ := hμ.up (by decide)) (hκ := ?_) ..) | (with_reducible apply Agree.ite) | (with_reducible apply Agree.foldl) | (with_reducible apply Agree.foldl_fst) | (with_reducible apply Agree.foldl_snd) | split)

theorem Dev.portRest_kp {μ : Nat} {ω : Dev} (d : Dev) (p : Nat) (force : Bool)  (hμ : Within 0x38010003e004000245000000000000000000000000000e04c64008000000001000004000000000000000000000000101f20000000 μ) (hκ : Agree μ ω d) : Agree μ ω (Dev.portRest d p force) := by
  unfold Dev.portRest
  repeat' (first | with_reducible assumption | intro _ | (simp only [id_eq]) | (with_reducible refine Dev.portSleep_kp (hμ := hμ.up (by decide)) (hκ := ?_) ..) | (with_reducible apply Agree.ite) | split)

theorem Dev.pwBegin_kp {μ : Nat} {ω : Dev} (d : Dev) (die : Nat) (goal : Nat)  (hμ : Within 0x1038010023e004200245000010800000000000000000000e04c6400c000000001000004000000000000000400000200101f20000000 μ) (hκ : Agree μ ω d) : Agree μ ω (Dev.pwBegin d die goal) := by
  unfold Dev.pwBegin
  repeat' (first | with_reducible assumption | intro _ | (simp only [id_eq]) | (with_reducible refine Dev.computeOn_kp (hμ := hμ.up (by decide)) (hκ := ?_) ..) | (with_reducible refine Dev.hbSelfref_kp (hμ := hμ.up (by decide)) (hκ := ?_) ..) | (with_reducible refine Dev.hbWake_kp (hμ := hμ.up (by decide)) (hκ := ?_) ..) | (with_reducible refine Dev.laneCmdWrite_kp (hμ := hμ.up (by decide)) (hκ := ?_) ..) | (with_reducible refine Dev.modPw_kp (hμ := hμ.up (by decide)) (hκ := ?_) ..) | (with_reducible refine Dev.portRest_kp (hμ := hμ.up (by decide)) (hκ := ?_) ..) | (with_reducible refine Dev.put_kp (hf := by first | assumption | exact hμ.bit rfl) (hμ := hμ.up (by decide)) (hκ := ?_) ..) | (with_reducible apply Agree.ite) | (with_reducible apply Agree.foldl) | (with_reducible apply Agree.foldl_fst) | (with_reducible apply Agree.foldl_snd) | split)

theorem Dev.pwGo_kp {μ : Nat} {ω : Dev} (d : Dev) (die : Nat) (tgt : Nat)  (hμ : Within 0x1038010023e004200245000011800000000000000000000e04c6400c000000001000004000000000000000400000200101f20000000 μ) (hκ : Agree μ ω d) : Agree μ ω (Dev.pwGo d die tgt) := by
  unfold Dev.pwGo
  repeat' (first | with_reducible assumption | intro _ | (simp only [id_eq]) | (with_reducible refine Dev.put_kp (hf := by first | assumption | exact hμ.bit rfl) (hμ := hμ.up (by decide)) (hκ := ?_) ..) | (with_reducible refine Dev.pwBegin_kp (hμ := hμ.up (by decide)) (hκ := ?_) ..) | (with_reducible apply Agree.ite) | split)

theorem Dev.pdctlWrite_kp {μ : Nat} {ω : Dev} (d : Dev) (die : Nat) (v : Nat)  (hμ : Within 0x1038010023e004200245000011800000000000000000000e04c6400c000000001000004000000000000000400000200101f20000000 μ) (hκ : Agree μ ω d) : Agree μ ω (Dev.pdctlWrite d die v) := by
  unfold Dev.pdctlWrite
  repeat' (first | with_reducible assumption | intro _ | (simp only [id_eq]) | (with_reducible refine Dev.writeKey_kp _ _ _ _ _ _ _ (by first | assumption | exact hμ.bit (by decide) | exact hall _) ?_) | (with_reducible refine Dev.pwGo_kp (hμ := hμ.up (by decide)) (hκ := ?_) ..) | (with_reducible apply Agree.ite) | split)

theorem Dev.pwExit_kp {μ : Nat} {ω : Dev} (d : Dev) (die : Nat)  (hμ : Within 0x1004a000000000200000000010800000000000000000000000000000000000200400000008000000000000000000000000000000000 μ) (hκ : Agree μ ω d) : Agree μ ω (Dev.pwExit d die) := by
  unfold Dev.pwExit
  repeat' (first | with_reducible assumption | intro _ | (simp only [id_eq]) | (simp only [Agree.set_tripN (hμ.bit (by decide))]) | (with_reducible refine Dev.carrierOn_kp (hμ := hμ.up (by decide)) (hκ := ?_) ..) | (with_reducible refine Dev.modPw_kp (hμ := hμ.up (by decide)) (hκ := ?_) ..) | (with_reducible refine Dev.put_kp (hf := by first | assumption | exact hμ.bit rfl) (hμ := hμ.up (by decide)) (hκ := ?_) ..) | (with_reducible apply Agree.ite) | split)

theorem Dev.railApply_kp {μ : Nat} {ω : Dev} (d : Dev) (die : Nat) (r : Nat) (fuse : Bool)  (hμ : Within 0x180000000200000040000000000000000000000000000000000000000000000000000000000000000000000000000 μ) (hκ : Agree μ ω d) : Agree μ ω (Dev.railApply d die r fuse) := by
  unfold Dev.railApply
  repeat' (first | with_reducible assumption | intro _ | (simp only [id_eq]) | (simp only [Agree.set_fuse (hμ.bit (by decide))]) | (with_reducible refine Dev.put_kp (hf := by first | assumption | exact hμ.bit rfl) (hμ := hμ.up (by decide)) (hκ := ?_) ..) | (with_reducible apply Agree.ite) | split)

theorem Dev.marginApply_kp {μ : Nat} {ω : Dev} (d : Dev) (die : Nat) (fails : Nat)  (hμ : Within 0x80000000000180345000200000040000000000000000000000000000000000000000000000000000000000000000000000000000 μ) (hκ : Agree μ ω d) : Agree μ ω (Dev.marginApply d die fails) := by
  unfold Dev.marginApply
  repeat' (first | with_reducible assumption | intro _ | (simp only [id_eq]) | (with_reducible refine Dev.railApply_kp (hμ := hμ.up (by decide)) (hκ := ?_) ..) | (with_reducible refine Dev.stwPost_kp (hμ := hμ.up (by decide)) (hκ := ?_) ..) | (with_reducible apply Agree.ite) | (with_reducible apply Agree.foldl) | (with_reducible apply Agree.foldl_fst) | (with_reducible apply Agree.foldl_snd) | split)

theorem Dev.hardRepair_kp {μ : Nat} {ω : Dev} (d : Dev) (die : Nat) (stack : Nat) (sleep : Bool) (ok : List Bool)  (hμ : Within 0x800008000000002450000000000000000000000000000000000000000000000000000000003b2000000000000000000000000000 μ) (hκ : Agree μ ω d) : Agree μ ω (Dev.hardRepair d die stack sleep ok) := by
  unfold Dev.hardRepair
  repeat' (first | with_reducible assumption | intro _ | (simp only [id_eq]) | (with_reducible refine Dev.put_kp (hf := by first | assumption | exact hμ.bit rfl) (hμ := hμ.up (by decide)) (hκ := ?_) ..) | (with_reducible refine Dev.put64_kp (hlo := by first | assumption | exact hμ.bit rfl) (hhi := by first | assumption | exact hμ.bit rfl) (hμ := hμ.up (by decide)) (hκ := ?_) ..) | (with_reducible refine Dev.retireRow_kp (hμ := hμ.up (by decide)) (hκ := ?_) ..) | (with_reducible refine Dev.setHbm_kp (hμ := hμ.up (by decide)) (hκ := ?_) ..) | (with_reducible apply Agree.ite) | (with_reducible apply Agree.foldl) | (with_reducible apply Agree.foldl_fst) | (with_reducible apply Agree.foldl_snd) | split)

theorem Dev.restoreDie_kp {μ : Nat} {ω : Dev} (d : Dev) (die : Nat)  (hμ : Within 0x7201000000000000000000000000000000000000000000000000000000000000000000000000000000fe0bf81fe2000000 μ) (hκ : Agree μ ω d) : Agree μ ω (Dev.restoreDie d die) := by
  unfold Dev.restoreDie
  repeat' (first | with_reducible assumption | intro _ | (simp only [id_eq]) | (with_reducible refine Dev.partAssign_kp (hμ := hμ.up (by decide)) (hκ := ?_) ..) | (with_reducible apply Agree.ite) | (with_reducible apply Agree.foldl) | (with_reducible apply Agree.foldl_fst) | (with_reducible apply Agree.foldl_snd) | split)

theorem Dev.pwEnter_kp {μ : Nat} {ω : Dev} (d : Dev) (die : Nat) (cur : Nat) (tgt : Nat) (fails : Nat) (ok : List (List Bool))  (hμ : Within 0x23f9ffffffedbf3ffffffffffffffffffffffffffffffffffffffffffffffffffffffffffffffffffffffffffffffffffffffffffff μ) (hκ : Agree μ ω d) : Agree μ ω (Dev.pwEnter d die cur tgt fails ok) := by
  unfold Dev.pwEnter
  repeat' (first | with_reducible assumption | intro _ | (simp only [id_eq]) | (with_reducible refine Dev.carrierOff_kp (hμ := hμ.up (by decide)) (hκ := ?_) ..) | (with_reducible refine Dev.cellPark_kp (hμ := hμ.up (by decide)) (hκ := ?_) ..) | (with_reducible refine Dev.computeOff_kp (hμ := hμ.up (by decide)) (hκ := ?_) ..) | (with_reducible refine Dev.hardRepair_kp (hμ := hμ.up (by decide)) (hκ := ?_) ..) | (with_reducible refine Dev.hbSelfref_kp (hμ := hμ.up (by decide)) (hκ := ?_) ..) | (with_reducible refine Dev.knucklesLost_kp (hμ := hμ.up (by decide)) (hκ := ?_) ..) | (with_reducible refine Dev.marginApply_kp (hμ := hμ.up (by decide)) (hκ := ?_) ..) | (with_reducible refine Dev.put_kp (hf := by first | assumption | exact hμ.bit rfl) (hμ := hμ.up (by decide)) (hκ := ?_) ..) | (with_reducible refine Dev.restoreDie_kp (hμ := hμ.up (by decide)) (hκ := ?_) ..) | (with_reducible apply Agree.ite) | (with_reducible apply Agree.foldl) | (with_reducible apply Agree.foldl_fst) | (with_reducible apply Agree.foldl_snd) | split)

theorem Dev.pwEnded_kp {μ : Nat} {ω : Dev} (d : Dev) (die : Nat)  (hμ : Within 0x103ca10023e004200245000011800000000000000000000e04c6400c000000201400004008000000000000400000200101f20000000 μ) (hκ : Agree μ ω d) : Agree μ ω (Dev.pwEnded d die) := by
  unfold Dev.pwEnded
  repeat' (first | with_reducible assumption | intro _ | (simp only [id_eq]) | (with_reducible refine Dev.put_kp (hf := by first | assumption | exact hμ.bit rfl) (hμ := hμ.up (by decide)) (hκ := ?_) ..) | (with_reducible refine Dev.pwBegin_kp (hμ := hμ.up (by decide)) (hκ := ?_) ..) | (with_reducible refine Dev.pwExit_kp (hμ := hμ.up (by decide)) (hκ := ?_) ..) | (with_reducible apply Agree.ite) | split)

theorem Dev.pwStep_kp {μ : Nat} {ω : Dev} (d : Dev) (die : Nat) (fails : Nat) (ok : List (List Bool))  (hμ : Within 0x33fdffffffedbf3ffffffffffffffffffffffffffffffffffffffffffffffffffffffffffffffffffffffffffffffffffffffffffff μ) (hκ : Agree μ ω d) : Agree μ ω (Dev.pwStep d die fails ok) := by
  unfold Dev.pwStep
  repeat' (first | with_reducible assumption | intro _ | (simp only [id_eq]) | (with_reducible refine Dev.put_kp (hf := by first | assumption | exact hμ.bit rfl) (hμ := hμ.up (by decide)) (hκ := ?_) ..) | (with_reducible refine Dev.pwBegin_kp (hμ := hμ.up (by decide)) (hκ := ?_) ..) | (with_reducible refine Dev.pwEnded_kp (hμ := hμ.up (by decide)) (hκ := ?_) ..) | (with_reducible refine Dev.pwEnter_kp (hμ := hμ.up (by decide)) (hκ := ?_) ..) | (with_reducible apply Agree.ite) | split)

theorem Dev.portSleepTimeout_kp {μ : Nat} {ω : Dev} (d : Dev) (p : Nat)  (hμ : Within 0x38010003e004000245000000000000000000000000000e04c64008000000001000004000000000000000000000000101f20000000 μ) (hκ : Agree μ ω d) : Agree μ ω (Dev.portSleepTimeout d p) := by
  unfold Dev.portSleepTimeout
  repeat' (first | with_reducible assumption | intro _ | (simp only [id_eq]) | (with_reducible refine Dev.portRest_kp (hμ := hμ.up (by decide)) (hκ := ?_) ..) | (with_reducible apply Agree.ite) | split)

theorem Dev.wake_kp {μ : Nat} {ω : Dev} (d : Dev) (die : Nat)  (hμ : Within 0x1004a000000000200000000013800000000000000000000000000000000000200400000008000000000000000000000000000000000 μ) (hκ : Agree μ ω d) : Agree μ ω (Dev.wake d die) := by
  unfold Dev.wake
  repeat' (first | with_reducible assumption | intro _ | (simp only [id_eq]) | (with_reducible refine Dev.count_kp (hf := by first | assumption | exact hμ.bit rfl) (hμ := hμ.up (by decide)) (hκ := ?_) ..) | (with_reducible refine Dev.put_kp (hf := by first | assumption | exact hμ.bit rfl) (hμ := hμ.up (by decide)) (hκ := ?_) ..) | (with_reducible refine Dev.pwExit_kp (hμ := hμ.up (by decide)) (hκ := ?_) ..) | (with_reducible apply Agree.ite) | split)

theorem Dev.dieReset_kp {μ : Nat} {ω : Dev} (d : Dev) (die : Nat)  (hμ : Within 0x37fdffffffedbf2ffffffffffffffffffffffffffffffffffffffffffffffffffffffffffffffffffffffffffffffffffffffffffff μ) (hκ : Agree μ ω d) : Agree μ ω (Dev.dieReset d die) := by
  unfold Dev.dieReset
  repeat' (first | with_reducible assumption | intro _ | (simp only [id_eq]) | (with_reducible refine Dev.carrierLost_kp (hμ := hμ.up (by decide)) (hκ := ?_) ..) | (with_reducible refine Dev.pwExit_kp (hμ := hμ.up (by decide)) (hκ := ?_) ..) | (with_reducible apply Agree.ite) | split)

theorem Dev.powerFall_kp {μ : Nat} {ω : Dev} (d : Dev) (die : Nat)  (hμ : Within 0xffffffffffedff6ffffffffffffffffffffffffffffffffffffffffffffffffffffffffffffffffffffffffffffffffffffffffffff μ) (hκ : Agree μ ω d) : Agree μ ω (Dev.powerFall d die) := by
  unfold Dev.powerFall
  repeat' (first | with_reducible assumption | intro _ | (simp only [id_eq]) | (simp only [Agree.set_aon_lcnt_wards_pws_i3c_i3cOut_alert_tripN (hμ.bit (by decide)) (hμ.bit (by decide)) (hμ.bit (by decide)) (hμ.bit (by decide)) (hμ.bit (by decide)) (hμ.bit (by decide)) (hμ.bit (by decide)) (hμ.bit (by decide))]) | (with_reducible refine Dev.carrierLost_kp (hμ := hμ.up (by decide)) (hκ := ?_) ..) | (with_reducible refine Dev.resetBut_kp (hμ := hμ.up (by decide)) (hκ := ?_) ..) | (with_reducible apply Agree.ite) | split)

theorem Dev.powerRise_kp {μ : Nat} {ω : Dev} (d : Dev) (die : Nat) (low : Bool)  (hμ : Within 0xffffffffffedff6ffffffffffffffffffffffffffffffffffffffffffffffffffffffffffffffffffffffffffffffffffffffffffff μ) (hκ : Agree μ ω d) : Agree μ ω (Dev.powerRise d die low) := by
  unfold Dev.powerRise
  repeat' (first | with_reducible assumption | intro _ | (simp only [id_eq]) | (simp only [Agree.set_aon_wards (hμ.bit (by decide)) (hμ.bit (by decide))]) | (with_reducible refine Dev.draw_kp' (heq := by with_reducible assumption) (hμ := hμ.up (by decide)) (hκ := ?_) ..) | (with_reducible refine Dev.draw_kp (hμ := hμ.up (by decide)) (hκ := ?_) ..) | (with_reducible refine Dev.powerFall_kp (hμ := hμ.up (by decide)) (hκ := ?_) ..) | (with_reducible refine Dev.put_kp (hf := by first | assumption | exact hμ.bit rfl) (hμ := hμ.up (by decide)) (hκ := ?_) ..) | (with_reducible refine Dev.pwExit_kp (hμ := hμ.up (by decide)) (hκ := ?_) ..) | (with_reducible apply Agree.ite) | split)

theorem Dev.thrSet_kp {μ : Nat} {ω : Dev} (d : Dev) (die : Nat)  (hμ : Within 0x80000000000000245000020000004000000000000000000000000000000000000000000000000000000000000000000000000000 μ) (hκ : Agree μ ω d) : Agree μ ω (Dev.thrSet d die) := by
  unfold Dev.thrSet
  repeat' (first | with_reducible assumption | intro _ | (simp only [id_eq]) | (with_reducible refine Dev.countSat_kp (hf := by first | assumption | exact hμ.bit rfl) (hμ := hμ.up (by decide)) (hκ := ?_) ..) | (with_reducible refine Dev.post_kp (hμ := hμ.up (by decide)) (hκ := ?_) ..) | (with_reducible refine Dev.put_kp (hf := by first | assumption | exact hμ.bit rfl) (hμ := hμ.up (by decide)) (hκ := ?_) ..) | (with_reducible apply Agree.ite) | (with_reducible apply Agree.foldl) | (with_reducible apply Agree.foldl_fst) | (with_reducible apply Agree.foldl_snd) | split)

theorem Dev.coolNote_kp {μ : Nat} {ω : Dev} (d : Dev) (die : Nat)  (hμ : Within 0x10000000000000000000000000000000000000000000000000000000000000000000000000000000000000000000000000000000000 μ) (hκ : Agree μ ω d) : Agree μ ω (Dev.coolNote d die) := by
  unfold Dev.coolNote
  repeat' (first | with_reducible assumption | intro _ | (simp only [id_eq]) | (with_reducible refine Dev.modPw_kp (hμ := hμ.up (by decide)) (hκ := ?_) ..) | (with_reducible apply Agree.ite) | split)

theorem Dev.thrStep_kp {μ : Nat} {ω : Dev} (d : Dev) (die : Nat) (c : Nat)  (hμ : Within 0x10080000000000000245000020000004000000000000000000000000000000000000000000000000000000000000000000000000000 μ) (hκ : Agree μ ω d) : Agree μ ω (Dev.thrStep d die c) := by
  unfold Dev.thrStep
  repeat' (first | with_reducible assumption | intro _ | (simp only [id_eq]) | (with_reducible refine Dev.setPw_kp (hμ := hμ.up (by decide)) (hκ := ?_) ..) | (with_reducible refine Dev.thrSet_kp (hμ := hμ.up (by decide)) (hκ := ?_) ..) | (with_reducible apply Agree.ite) | split)

theorem Dev.thrRelease_kp {μ : Nat} {ω : Dev} (d : Dev) (die : Nat) (c : Nat)  (hμ : Within 0x10080000000000000245000020000004000000000000000000000000000000000000000000000000000000000000000000000000000 μ) (hκ : Agree μ ω d) : Agree μ ω (Dev.thrRelease d die c) := by
  unfold Dev.thrRelease
  repeat' (first | with_reducible assumption | intro _ | (simp only [id_eq]) | (with_reducible refine Dev.setPw_kp (hμ := hμ.up (by decide)) (hκ := ?_) ..) | (with_reducible refine Dev.thrSet_kp (hμ := hμ.up (by decide)) (hκ := ?_) ..) | (with_reducible apply Agree.ite) | split)

theorem Dev.tjSample_kp {μ : Nat} {ω : Dev} (d : Dev) (die : Nat) (tj : Nat)  (hμ : Within 0x10000000000000000000000040000000000000000000000000000000000000000000000000000000000000000000000000000000000 μ) (hκ : Agree μ ω d) : Agree μ ω (Dev.tjSample d die tj) := by
  unfold Dev.tjSample
  repeat' (first | with_reducible assumption | intro _ | (simp only [id_eq]) | (with_reducible refine Dev.coolNote_kp (hμ := hμ.up (by decide)) (hκ := ?_) ..) | (with_reducible refine Dev.put_kp (hf := by first | assumption | exact hμ.bit rfl) (hμ := hμ.up (by decide)) (hκ := ?_) ..) | (with_reducible apply Agree.ite) | split)

theorem Dev.tjWrite_kp {μ : Nat} {ω : Dev} (d : Dev) (die : Nat) (v : Nat)  (hμ : Within 0x40000000000000000000000000000000000000000000000000000000000000000000000000000000000 μ) (hκ : Agree μ ω d) : Agree μ ω (Dev.tjWrite d die v) := by
  unfold Dev.tjWrite
  repeat' (first | with_reducible assumption | intro _ | (simp only [id_eq]) | (with_reducible refine Dev.put_kp (hf := by first | assumption | exact hμ.bit rfl) (hμ := hμ.up (by decide)) (hκ := ?_) ..) | (with_reducible apply Agree.ite) | split)

theorem Dev.pwFigures_kp {μ : Nat} {ω : Dev} (d : Dev) (die : Nat) (watts : Nat) (rails : List (Nat × Nat)) (arrived : Nat)  (hμ : Within 0x10000000000000000000000480000000000000000000000000000000000000000000000000000000000000000000000000000000000 μ) (hκ : Agree μ ω d) : Agree μ ω (Dev.pwFigures d die watts rails arrived) := by
  unfold Dev.pwFigures
  repeat' (first | with_reducible assumption | intro _ | (simp only [id_eq]) | (with_reducible refine Dev.coolNote_kp (hμ := hμ.up (by decide)) (hκ := ?_) ..) | (with_reducible refine Dev.modPw_kp (hμ := hμ.up (by decide)) (hκ := ?_) ..) | (with_reducible refine Dev.put_kp (hf := by first | assumption | exact hμ.bit rfl) (hμ := hμ.up (by decide)) (hκ := ?_) ..) | (with_reducible apply Agree.ite) | (with_reducible apply Agree.foldl) | (with_reducible apply Agree.foldl_fst) | (with_reducible apply Agree.foldl_snd) | split)

theorem Dev.trip_kp {μ : Nat} {ω : Dev} (d : Dev) (die : Nat)  (hμ : Within 0x37fdffffffedbf2ffffffffffffffffffffffffffffffffffffffffffffffffffffffffffffffffffffffffffffffffffffffffffff μ) (hκ : Agree μ ω d) : Agree μ ω (Dev.trip d die) := by
  unfold Dev.trip
  repeat' (first | with_reducible assumption | intro _ | (simp only [id_eq]) | (simp only [Agree.set_tripN (hμ.bit (by decide))]) | (with_reducible refine Dev.carrierLost_kp (hμ := hμ.up (by decide)) (hκ := ?_) ..) | (with_reducible refine Dev.put_kp (hf := by first | assumption | exact hμ.bit rfl) (hμ := hμ.up (by decide)) (hκ := ?_) ..) | (with_reducible apply Agree.ite) | split)

theorem Dev.railFault_kp {μ : Nat} {ω : Dev} (d : Dev) (die : Nat) (rail : Nat)  (hμ : Within 0xffffffffffedff6ffffffffffffffffffffffffffffffffffffffffffffffffffffffffffffffffffffffffffffffffffffffffffff μ) (hκ : Agree μ ω d) : Agree μ ω (Dev.railFault d die rail) := by
  unfold Dev.railFault
  repeat' (first | with_reducible assumption | intro _ | (simp only [id_eq]) | (with_reducible refine Dev.carrierLost_kp (hμ := hμ.up (by decide)) (hκ := ?_) ..) | (with_reducible refine Dev.computeDieLost_kp (hμ := hμ.up (by decide)) (hκ := ?_) ..) | (with_reducible refine Dev.post_kp (hμ := hμ.up (by decide)) (hκ := ?_) ..) | (with_reducible refine Dev.powerFall_kp (hμ := hμ.up (by decide)) (hκ := ?_) ..) | (with_reducible apply Agree.ite) | split)

theorem Dev.rsetWrite_kp {μ : Nat} {ω : Dev} (d : Dev) (die : Nat) (v : Nat)  (hμ : Within 0x200004000000000000000000000000000000000000000000000000000000000000000000000000000000 μ) (hκ : Agree μ ω d) : Agree μ ω (Dev.rsetWrite d die v) := by
  unfold Dev.rsetWrite
  repeat' (first | with_reducible assumption | intro _ | (simp only [id_eq]) | (with_reducible refine Dev.put_kp (hf := by first | assumption | exact hμ.bit rfl) (hμ := hμ.up (by decide)) (hκ := ?_) ..) | (with_reducible refine Dev.wardRefuse_kp (hμ := hμ.up (by decide)) (hκ := ?_) ..) | (with_reducible apply Agree.ite) | split)

theorem Dev.refLoss_kp {μ : Nat} {ω : Dev} (d : Dev) (die : Nat)  (hμ : Within 0x37fbffffffedbf2ffffffffffffffffffffffffffffffffffffffffffffffffffffffffffffffffffffffffffffffffffffffffffff μ) (hκ : Agree μ ω d) : Agree μ ω (Dev.refLoss d die) := by
  unfold Dev.refLoss
  repeat' (first | with_reducible assumption | intro _ | (simp only [id_eq]) | (with_reducible refine Dev.carrierLost_kp (hμ := hμ.up (by decide)) (hκ := ?_) ..) | (with_reducible refine Dev.post_kp (hμ := hμ.up (by decide)) (hκ := ?_) ..) | (with_reducible refine Dev.put_kp (hf := by first | assumption | exact hμ.bit rfl) (hμ := hμ.up (by decide)) (hκ := ?_) ..) | (with_reducible refine Dev.raiseAlert_kp (hμ := hμ.up (by decide)) (hκ := ?_) ..) | (with_reducible apply Agree.ite) | split)

theorem Dev.pllLoss_kp {μ : Nat} {ω : Dev} (d : Dev) (die : Nat) (n : Nat)  (hμ : Within 0x37f9ffffffedbf2ffffffffffffffffffffffffffffffffffffffffffffffffffffffffffffffffffffffffffffffffffffffffffff μ) (hκ : Agree μ ω d) : Agree μ ω (Dev.pllLoss d die n) := by
  unfold Dev.pllLoss
  repeat' (first | with_reducible assumption | intro _ | (simp only [id_eq]) | (simp only [Agree.set_stews (hμ.bit (by decide))]) | (with_reducible refine Dev.carrierLost_kp (hμ := hμ.up (by decide)) (hκ := ?_) ..) | (with_reducible refine Dev.computeDieLost_kp (hμ := hμ.up (by decide)) (hκ := ?_) ..) | (with_reducible refine Dev.hbHold_kp (hμ := hμ.up (by decide)) (hκ := ?_) ..) | (with_reducible refine Dev.knkSignalLoss_kp (hμ := hμ.up (by decide)) (hκ := ?_) ..) | (with_reducible refine Dev.laneDownNow_kp (hμ := hμ.up (by decide)) (hκ := ?_) ..) | (with_reducible refine Dev.linkRec_kp (hμ := hμ.up (by decide)) (hκ := ?_) ..) | (with_reducible refine Dev.memRec_kp (hμ := hμ.up (by decide)) (hκ := ?_) ..) | (with_reducible refine Dev.portLaneLost_kp (hμ := hμ.up (by decide)) (hκ := ?_) ..) | (with_reducible refine Dev.post_kp (hμ := hμ.up (by decide)) (hκ := ?_) ..) | (with_reducible refine Dev.siteDown_kp (hμ := hμ.up (by decide)) (hκ := ?_) ..) | (with_reducible apply Agree.ite) | split)

theorem Dev.slowLoss_kp {μ : Nat} {ω : Dev} (d : Dev) (die : Nat)  (hμ : Within 0xa0000000000000245000010000000000000000000000000000000000000000000000000000000000000000000000000000000000 μ) (hκ : Agree μ ω d) : Agree μ ω (Dev.slowLoss d die) := by
  unfold Dev.slowLoss
  repeat' (first | with_reducible assumption | intro _ | (simp only [id_eq]) | (with_reducible refine Dev.post_kp (hμ := hμ.up (by decide)) (hκ := ?_) ..) | (with_reducible refine Dev.put_kp (hf := by first | assumption | exact hμ.bit rfl) (hμ := hμ.up (by decide)) (hκ := ?_) ..) | (with_reducible refine Dev.raiseAlert_kp (hμ := hμ.up (by decide)) (hκ := ?_) ..) | (with_reducible apply Agree.ite) | split)

theorem Dev.slowBack_kp {μ : Nat} {ω : Dev} (d : Dev) (die : Nat)  (hμ : Within 0x10000000000000000000000000000000000000000000000000000000000000000000000000000000000 μ) (hκ : Agree μ ω d) : Agree μ ω (Dev.slowBack d die) := by
  unfold Dev.slowBack
  repeat' (first | with_reducible assumption | intro _ | (simp only [id_eq]) | (with_reducible refine Dev.put_kp (hf := by first | assumption | exact hμ.bit rfl) (hμ := hμ.up (by decide)) (hκ := ?_) ..) | (with_reducible apply Agree.ite) | split)

theorem Dev.tickUp_kp {μ : Nat} {ω : Dev} (d : Dev) (die : Nat)  (hμ : Within 0x40000000000000000000000000000000000000000000000000000000000000000000000000000000000000000000000 μ) (hκ : Agree μ ω d) : Agree μ ω (Dev.tickUp d die) := by
  unfold Dev.tickUp
  repeat' (first | with_reducible assumption | intro _ | (simp only [id_eq]) | (simp only [Agree.set_lcnt (hμ.bit (by decide))]) | (with_reducible apply Agree.ite) | split)

theorem Dev.stestDone_kp {μ : Nat} {ω : Dev} (d : Dev) (mem : Nat) (die : Nat) (i : Nat) (pattern : Nat) (bad : List (Nat × Nat))  (hμ : Within 0x37fbffffffedbf2ffffffffffffffffffffffffffffffffffffffffffffffffffffffffffffffffffffffffffffffffffffffffffff μ) (hκ : Agree μ ω d) : Agree μ ω (Dev.stestDone d mem die i pattern bad) := by
  unfold Dev.stestDone
  repeat' (first | with_reducible assumption | intro _ | (simp only [id_eq]) | (simp only [Agree.set_stest (hμ.bit (by decide))]) | (with_reducible refine Dev.carrierLost_kp (hμ := hμ.up (by decide)) (hκ := ?_) ..) | (with_reducible refine Dev.hbHold_kp (hμ := hμ.up (by decide)) (hκ := ?_) ..) | (with_reducible refine Dev.memRec_kp (hμ := hμ.up (by decide)) (hκ := ?_) ..) | (with_reducible refine Dev.post_kp (hμ := hμ.up (by decide)) (hκ := ?_) ..) | (with_reducible refine Dev.put_kp (hf := by first | assumption | exact hμ.bit rfl) (hμ := hμ.up (by decide)) (hκ := ?_) ..) | (with_reducible refine Dev.raiseAlert_kp (hμ := hμ.up (by decide)) (hκ := ?_) ..) | (with_reducible apply Agree.ite) | (with_reducible apply Agree.foldl) | (with_reducible apply Agree.foldl_fst) | (with_reducible apply Agree.foldl_snd) | split)

theorem Dev.bistEnd_kp {μ : Nat} {ω : Dev} (d : Dev) (die : Nat) (slices : Nat) (arrays : Bool)  (hμ : Within 0x37ffffffffedbf2ffffffffffffffffffffffffffffffffffffffffffffffffffffffffffffffffffffffffffffffffffffffffffff μ) (hκ : Agree μ ω d) : Agree μ ω (Dev.bistEnd d die slices arrays) := by
  unfold Dev.bistEnd
  repeat' (first | with_reducible assumption | intro _ | (simp only [id_eq]) | (with_reducible refine Dev.carrierLost_kp (hμ := hμ.up (by decide)) (hκ := ?_) ..) | (with_reducible refine Dev.carrierOff_kp (hμ := hμ.up (by decide)) (hκ := ?_) ..) | (with_reducible refine Dev.computeOn_kp (hμ := hμ.up (by decide)) (hκ := ?_) ..) | (with_reducible refine Dev.put_kp (hf := by first | assumption | exact hμ.bit rfl) (hμ := hμ.up (by decide)) (hκ := ?_) ..) | (with_reducible refine Dev.pwExit_kp (hμ := hμ.up (by decide)) (hκ := ?_) ..) | (with_reducible refine Dev.raiseAlert_kp (hμ := hμ.up (by decide)) (hκ := ?_) ..) | (with_reducible apply Agree.ite) | split)

theorem Dev.stretch_kp {μ : Nat} {ω : Dev} (d : Dev) (die : Nat) (v : Nat)  (hμ : Within 0x1000000000000000000000 μ) (hκ : Agree μ ω d) : Agree μ ω (Dev.stretch d die v) := by
  unfold Dev.stretch
  repeat' (first | with_reducible assumption | intro _ | (simp only [id_eq]) | (with_reducible refine Dev.put_kp (hf := by first | assumption | exact hμ.bit rfl) (hμ := hμ.up (by decide)) (hκ := ?_) ..) | (with_reducible apply Agree.ite) | (with_reducible apply Agree.foldl) | (with_reducible apply Agree.foldl_fst) | (with_reducible apply Agree.foldl_snd) | split)

theorem Dev.memStart_kp {μ : Nat} {ω : Dev} (d : Dev) (die : Nat) (full : Bool)  (hμ : Within 0x81800038000000000000000000000000000000000000000000000000000000000000000000000001000000000000000000000 μ) (hκ : Agree μ ω d) : Agree μ ω (Dev.memStart d die full) := by
  unfold Dev.memStart
  repeat' (first | with_reducible assumption | intro _ | (simp only [id_eq]) | (simp only [Agree.set_memtest_narrow (hμ.bit (by decide)) (hμ.bit (by decide))]) | (with_reducible refine Dev.hbInvalid_kp (hμ := hμ.up (by decide)) (hκ := ?_) ..) | (with_reducible refine Dev.put_kp (hf := by first | assumption | exact hμ.bit rfl) (hμ := hμ.up (by decide)) (hκ := ?_) ..) | (with_reducible refine Dev.setHbm_kp (hμ := hμ.up (by decide)) (hκ := ?_) ..) | (with_reducible refine Dev.stretch_kp (hμ := hμ.up (by decide)) (hκ := ?_) ..) | (with_reducible apply Agree.ite) | (with_reducible apply Agree.foldl) | (with_reducible apply Agree.foldl_fst) | (with_reducible apply Agree.foldl_snd) | split)

theorem Dev.trainDone_kp {μ : Nat} {ω : Dev} (d : Dev) (die : Nat) (stack : Nat) (t : TrainRes)  (hμ : Within 0x81800038000000000000000000000000000000000000000000000000000000000000000000000019500000000000000000000 μ) (hκ : Agree μ ω d) : Agree μ ω (Dev.trainDone d die stack t) := by
  unfold Dev.trainDone
  repeat' (first | with_reducible assumption | intro _ | (simp only [id_eq]) | (with_reducible refine Dev.hbTrained_kp (hμ := hμ.up (by decide)) (hκ := ?_) ..) | (with_reducible refine Dev.memStart_kp (hμ := hμ.up (by decide)) (hκ := ?_) ..) | (with_reducible apply Agree.ite) | split)

theorem Dev.memVerify_kp {μ : Nat} {ω : Dev} (d : Dev) (die : Nat) (rows : List (Nat × RowId))  (hμ : Within 0x800008000000002450000000000000000000000000000000000000000000000000000000003b3000000400000000000000000000 μ) (hκ : Agree μ ω d) : Agree μ ω (Dev.memVerify d die rows) := by
  unfold Dev.memVerify
  repeat' (first | with_reducible assumption | intro _ | (simp only [id_eq]) | (with_reducible refine Dev.hbHold_kp (hμ := hμ.up (by decide)) (hκ := ?_) ..) | (with_reducible refine Dev.memRec_kp (hμ := hμ.up (by decide)) (hκ := ?_) ..) | (with_reducible refine Dev.rowFails_kp (hμ := hμ.up (by decide)) (hκ := ?_) ..) | (with_reducible apply Agree.ite) | (with_reducible apply Agree.foldl) | (with_reducible apply Agree.foldl_fst) | (with_reducible apply Agree.foldl_snd) | split)

theorem Dev.memEnd_kp {μ : Nat} {ω : Dev} (d : Dev) (die : Nat)  (hμ : Within 0x10000080000038200000000010000000000000000000000000000000000000000000000000000000000001000000200000020000000 μ) (hκ : Agree μ ω d) : Agree μ ω (Dev.memEnd d die) := by
  unfold Dev.memEnd
  repeat' (first | with_reducible assumption | intro _ | (simp only [id_eq]) | (simp only [Agree.set_memtest (hμ.bit (by decide))]) | (with_reducible refine Dev.computeOn_kp (hμ := hμ.up (by decide)) (hκ := ?_) ..) | (with_reducible refine Dev.hbZero_kp (hμ := hμ.up (by decide)) (hκ := ?_) ..) | (with_reducible refine Dev.modPw_kp (hμ := hμ.up (by decide)) (hκ := ?_) ..) | (with_reducible refine Dev.stretch_kp (hμ := hμ.up (by decide)) (hκ := ?_) ..) | (with_reducible apply Agree.ite) | split)

theorem Dev.memPhase_kp {μ : Nat} {ω : Dev} (d : Dev) (die : Nat) (rows : List (Nat × RowId))  (hμ : Within 0x100800808000382002450000100000000000000000000000000000000000000000000000000003b3000001400000200000020000000 μ) (hκ : Agree μ ω d) : Agree μ ω (Dev.memPhase d die rows) := by
  unfold Dev.memPhase
  repeat' (first | with_reducible assumption | intro _ | (simp only [id_eq]) | (simp only [Agree.set_memtest (hμ.bit (by decide))]) | (with_reducible refine Dev.memEnd_kp (hμ := hμ.up (by decide)) (hκ := ?_) ..) | (with_reducible refine Dev.memVerify_kp (hμ := hμ.up (by decide)) (hκ := ?_) ..) | (with_reducible refine Dev.put_kp (hf := by first | assumption | exact hμ.bit rfl) (hμ := hμ.up (by decide)) (hκ := ?_) ..) | (with_reducible refine Dev.stretch_kp (hμ := hμ.up (by decide)) (hκ := ?_) ..) | (with_reducible apply Agree.ite) | split)

theorem Dev.b0okClear_kp {μ : Nat} {ω : Dev} (d : Dev) (die : Nat)  (hμ : Within 0x20000000000000000000000000000000000000000000000000000000000000000000000000000000000000 μ) (hκ : Agree μ ω d) : Agree μ ω (Dev.b0okClear d die) := by
  unfold Dev.b0okClear
  repeat' (first | with_reducible assumption | intro _ | (simp only [id_eq]) | (with_reducible refine Dev.put_kp (hf := by first | assumption | exact hμ.bit rfl) (hμ := hμ.up (by decide)) (hκ := ?_) ..) | (with_reducible apply Agree.ite) | split)

theorem Dev.chunkGo_kp {μ : Nat} {ω : Dev} (d : Dev) (die : Nat)  (hμ : Within 0x2000000000000400000000400000000000000000000000000000000000000000000000000001c000000000000000000000000000000 μ) (hκ : Agree μ ω d) : Agree μ ω (Dev.chunkGo d die) := by
  unfold Dev.chunkGo
  repeat' (first | with_reducible assumption | intro _ | (simp only [id_eq]) | (simp only [Agree.set_chunks (hμ.bit (by decide))]) | (with_reducible refine Dev.put_kp (hf := by first | assumption | exact hμ.bit rfl) (hμ := hμ.up (by decide)) (hκ := ?_) ..) | (with_reducible refine Dev.sbLoad_kp' (heq := by with_reducible assumption) (hμ := hμ.up (by decide)) (hκ := ?_) ..) | (with_reducible refine Dev.sbLoad_kp (hμ := hμ.up (by decide)) (hκ := ?_) ..) | (with_reducible apply Agree.ite) | (with_reducible apply Agree.foldl) | (with_reducible apply Agree.foldl_fst) | (with_reducible apply Agree.foldl_snd) | split)

theorem Dev.ldHubWrite_kp {μ : Nat} {ω : Dev} (d : Dev) (die : Nat) (v : Nat)  (hμ : Within 0x2000000000000400000000400000000000000000000000000000000000000000000000000001c000000000000000000000000000000 μ) (hκ : Agree μ ω d) : Agree μ ω (Dev.ldHubWrite d die v) := by
  unfold Dev.ldHubWrite
  repeat' (first | with_reducible assumption | intro _ | (simp only [id_eq]) | (with_reducible refine Dev.writeKey_kp _ _ _ _ _ _ _ (by first | assumption | exact hμ.bit (by decide) | exact hall _) ?_) | (with_reducible refine Dev.chunkGo_kp (hμ := hμ.up (by decide)) (hκ := ?_) ..) | (with_reducible apply Agree.ite) | split)

theorem Dev.chunkSent_kp {μ : Nat} {ω : Dev} (d : Dev) (die : Nat)  (hμ : Within 0x4000000000000000000000000000000000000000000000000000000000000000000000000000000000000 μ) (hκ : Agree μ ω d) : Agree μ ω (Dev.chunkSent d die) := by
  unfold Dev.chunkSent
  repeat' (first | with_reducible assumption | intro _ | (simp only [id_eq]) | (with_reducible refine Dev.put_kp (hf := by first | assumption | exact hμ.bit rfl) (hμ := hμ.up (by decide)) (hκ := ?_) ..) | (with_reducible apply Agree.ite) | split)

theorem Dev.loaderDone_kp {μ : Nat} {ω : Dev} (d : Dev) (cn : Nat) (p : Nat)  (hμ : Within 0x80000002080000245000000000000000000000000000000000000000000008000000000000000000000000000000000000000040 μ) (hκ : Agree μ ω d) : Agree μ ω (Dev.loaderDone d cn p) := by
  unfold Dev.loaderDone
  repeat' (first | with_reducible assumption | intro _ | (simp only [id_eq]) | (with_reducible refine Dev.coreSend_kp (hμ := hμ.up (by decide)) (hκ := ?_) ..) | (with_reducible refine Dev.setCore_kp (hμ := hμ.up (by decide)) (hκ := ?_) ..) | (with_reducible apply Agree.ite) | split)

theorem Dev.chunkAt_kp {μ : Nat} {ω : Dev} (d : Dev) (cn : Nat) (p : Nat) (b : Bytes)  (hμ : Within 0x800000020bc000245200000000000000000000000000000000000000000008000000000c00000000000000000000000000000040 μ) (hκ : Agree μ ω d) : Agree μ ω (Dev.chunkAt d cn p b) := by
  unfold Dev.chunkAt
  repeat' (first | with_reducible assumption | intro _ | (simp only [id_eq]) | (with_reducible refine Dev.countSat_kp (hf := by first | assumption | exact hμ.bit rfl) (hμ := hμ.up (by decide)) (hκ := ?_) ..) | (with_reducible refine Dev.draw_kp' (heq := by with_reducible assumption) (hμ := hμ.up (by decide)) (hκ := ?_) ..) | (with_reducible refine Dev.draw_kp (hμ := hμ.up (by decide)) (hκ := ?_) ..) | (with_reducible refine Dev.loaderDone_kp (hμ := hμ.up (by decide)) (hκ := ?_) ..) | (with_reducible refine Dev.setCore_kp (hμ := hμ.up (by decide)) (hκ := ?_) ..) | (with_reducible refine Dev.spStore_kp (hμ := hμ.up (by decide)) (hκ := ?_) ..) | (with_reducible apply Agree.ite) | split)

theorem Dev.chunkReceive_kp {μ : Nat} {ω : Dev} (d : Dev) (n : Nat) (noise : Bytes)  (hμ : Within 0x200800000020bc000245200000000000000000000000000000000000000000008000000000c00000000000000000000000000000040 μ) (hκ : Agree μ ω d) : Agree μ ω (Dev.chunkReceive d n noise) := by
  unfold Dev.chunkReceive
  repeat' (first | with_reducible assumption | intro _ | (simp only [id_eq]) | (simp only [Agree.set_chunks (hμ.bit (by decide))]) | (with_reducible refine Dev.chunkAt_kp (hμ := hμ.up (by decide)) (hκ := ?_) ..) | (with_reducible refine Dev.dbDiscard_kp (hμ := hμ.up (by decide)) (hκ := ?_) ..) | (with_reducible apply Agree.ite) | (with_reducible apply Agree.foldl) | (with_reducible apply Agree.foldl_fst) | (with_reducible apply Agree.foldl_snd) | split)

theorem Dev.railsRestore_kp {μ : Nat} {ω : Dev} (d : Dev) (die : Nat)  (hμ : Within 0x80000000200000000000000000000000000000000000000000000000000000000000000000000000000000000000 μ) (hκ : Agree μ ω d) : Agree μ ω (Dev.railsRestore d die) := by
  unfold Dev.railsRestore
  repeat' (first | with_reducible assumption | intro _ | (simp only [id_eq]) | (with_reducible refine Dev.put_kp (hf := by first | assumption | exact hμ.bit rfl) (hμ := hμ.up (by decide)) (hκ := ?_) ..) | (with_reducible apply Agree.ite) | (with_reducible apply Agree.foldl) | (with_reducible apply Agree.foldl_fst) | (with_reducible apply Agree.foldl_snd) | split)

theorem Dev.boot_kp {μ : Nat} {ω : Dev} (d : Dev) (die : Nat) (found : List ((Nat × Nat) × Bytes))  (hμ : Within 0x10a0aa00000000008034500020000000c000000000000000000000000000000200400000000000000000000000000000000000000000 μ) (hκ : Agree μ ω d) : Agree μ ω (Dev.boot d die found) := by
  unfold Dev.boot
  repeat' (first | with_reducible assumption | intro _ | (simp only [id_eq]) | (with_reducible refine Dev.railsRestore_kp (hμ := hμ.up (by decide)) (hκ := ?_) ..) | (with_reducible refine Dev.romBoot_kp (hμ := hμ.up (by decide)) (hκ := ?_) ..) | (with_reducible apply Agree.ite) | split)

theorem Dev.bootLock_kp {μ : Nat} {ω : Dev} (d : Dev) (die : Nat)  (hμ : Within 0x4000000000000000000000000000000000000000000000000000000000000000000000000000 μ) (hκ : Agree μ ω d) : Agree μ ω (Dev.bootLock d die) := by
  unfold Dev.bootLock
  repeat' (first | with_reducible assumption | intro _ | (simp only [id_eq]) | (with_reducible refine Dev.put_kp (hf := by first | assumption | exact hμ.bit rfl) (hμ := hμ.up (by decide)) (hκ := ?_) ..) | (with_reducible apply Agree.ite) | split)

theorem Dev.demote_kp {μ : Nat} {ω : Dev} (d : Dev) (die : Nat) (e : Nat)  (hμ : Within 0x2000000000000000000000000000002000000000000000000000000000000000000000000000000000000000000000000000000000 μ) (hκ : Agree μ ω d) : Agree μ ω (Dev.demote d die e) := by
  unfold Dev.demote
  repeat' (first | with_reducible assumption | intro _ | (simp only [id_eq]) | (simp only [Agree.set_stews (hμ.bit (by decide))]) | (with_reducible refine Dev.epochWrite_kp (hμ := hμ.up (by decide)) (hκ := ?_) ..) | (with_reducible refine Dev.put_kp (hf := by first | assumption | exact hμ.bit rfl) (hμ := hμ.up (by decide)) (hκ := ?_) ..) | (with_reducible apply Agree.ite) | split)

theorem Dev.leadAdmit_kp {μ : Nat} {ω : Dev} (d : Dev) (by_ : Nat) (t : Nat) (e : Nat)  (hμ : Within 0x2080000000000000245000000004002000000000000000000000000000000000000000000000000000000000000000000000000000 μ) (hκ : Agree μ ω d) : Agree μ ω (Dev.leadAdmit d by_ t e).2 := by
  unfold Dev.leadAdmit
  repeat' (first | with_reducible assumption | intro _ | (simp only [id_eq]) | (with_reducible refine Dev.demote_kp (hμ := hμ.up (by decide)) (hκ := ?_) ..) | (with_reducible refine Dev.epochWrite_kp (hμ := hμ.up (by decide)) (hκ := ?_) ..) | (with_reducible refine Dev.post_kp (hμ := hμ.up (by decide)) (hκ := ?_) ..) | (with_reducible refine Dev.wardRefuse_kp (hμ := hμ.up (by decide)) (hκ := ?_) ..) | (with_reducible apply Agree.ite) | split)

theorem Dev.leadAdmit_kp' {μ : Nat} {ω : Dev} {d : Dev} {by_ : Nat} {t : Nat} {e : Nat} {y0} {rd : Dev} (heq : Dev.leadAdmit d by_ t e = (y0, rd))  (hμ : Within 0x2080000000000000245000000004002000000000000000000000000000000000000000000000000000000000000000000000000000 μ) (hκ : Agree μ ω d) : Agree μ ω rd := by
  have k := Dev.leadAdmit_kp (μ := μ) (ω := ω) d by_ t e  (hμ := hμ) (hκ := hκ); rw [heq] at k; exact k

theorem Dev.leadSend_kp {μ : Nat} {ω : Dev} (d : Dev) (die : Nat) (ts : List Nat)  (hμ : Within 0x2080000000000000245000000004002000000000000000000000000000000000000000000000000000000000000000000000000000 μ) (hκ : Agree μ ω d) : Agree μ ω (Dev.leadSend d die ts).2 := by
  unfold Dev.leadSend
  repeat' (first | with_reducible assumption | intro _ | (simp only [id_eq]) | (with_reducible refine Dev.demote_kp (hμ := hμ.up (by decide)) (hκ := ?_) ..) | (with_reducible refine Dev.leadAdmit_kp' (heq := by with_reducible assumption) (hμ := hμ.up (by decide)) (hκ := ?_) ..) | (with_reducible refine Dev.leadAdmit_kp (hμ := hμ.up (by decide)) (hκ := ?_) ..) | (with_reducible apply Agree.ite) | (with_reducible apply Agree.foldl) | (with_reducible apply Agree.foldl_fst) | (with_reducible apply Agree.foldl_snd) | split)

theorem Dev.leadSend_kp' {μ : Nat} {ω : Dev} {d : Dev} {die : Nat} {ts : List Nat} {y0} {rd : Dev} (heq : Dev.leadSend d die ts = (y0, rd))  (hμ : Within 0x2080000000000000245000000004002000000000000000000000000000000000000000000000000000000000000000000000000000 μ) (hκ : Agree μ ω d) : Agree μ ω rd := by
  have k := Dev.leadSend_kp (μ := μ) (ω := ω) d die ts  (hμ := hμ) (hκ := hκ); rw [heq] at k; exact k

theorem Dev.helReply_kp {μ : Nat} {ω : Dev} (d : Dev) (die : Nat) (q : HReq) (sid : Nat) (stat : Nat) (det : Nat) (body : Bytes)  (hμ : Within 0x1400000000000000000000000004000402000000000000000000000000000000000000000000000000000000000000000000000000 μ) (hκ : Agree μ ω d) : Agree μ ω (Dev.helReply d die q sid stat det body) := by
  unfold Dev.helReply
  repeat' (first | with_reducible assumption | intro _ | (simp only [id_eq]) | (with_reducible refine Dev.slotReply_kp (hμ := hμ.up (by decide)) (hκ := ?_) ..) | (with_reducible refine Dev.wardRefuse_kp (hμ := hμ.up (by decide)) (hκ := ?_) ..) | (with_reducible apply Agree.ite) | split)

theorem Dev.eventTo_kp {μ : Nat} {ω : Dev} (d : Dev) (die : Nat) (sub : Nat) (x : Sub) (code : Nat) (tag : Nat) (body : Bytes)  (hμ : Within 0x400000000000000000000000004000904000000000000000000000000000000000000000000000000000000000000000000000000 μ) (hκ : Agree μ ω d) : Agree μ ω (Dev.eventTo d die sub x code tag body) := by
  unfold Dev.eventTo
  repeat' (first | with_reducible assumption | intro _ | (simp only [id_eq]) | (with_reducible refine Dev.eventSend_kp (hμ := hμ.up (by decide)) (hκ := ?_) ..) | (with_reducible refine Dev.put_kp (hf := by first | assumption | exact hμ.bit rfl) (hμ := hμ.up (by decide)) (hκ := ?_) ..) | (with_reducible refine Dev.putData_kp (hr := by first | assumption | exact hμ.bit rfl) (hμ := hμ.up (by decide)) (hκ := ?_) ..) | (with_reducible refine Dev.wardRefuse_kp (hμ := hμ.up (by decide)) (hκ := ?_) ..) | (with_reducible apply Agree.ite) | split)

theorem Dev.helEvent_kp {μ : Nat} {ω : Dev} (d : Dev) (die : Nat) (code : Nat) (tag : Nat) (body : Bytes)  (hμ : Within 0x400000000000000000000000004000904000000000000000000000000000000000000000000000000000000000000000000000000 μ) (hκ : Agree μ ω d) : Agree μ ω (Dev.helEvent d die code tag body) := by
  unfold Dev.helEvent
  repeat' (first | with_reducible assumption | intro _ | (simp only [id_eq]) | (with_reducible refine Dev.eventTo_kp (hμ := hμ.up (by decide)) (hκ := ?_) ..) | (with_reducible apply Agree.ite) | (with_reducible apply Agree.foldl) | (with_reducible apply Agree.foldl_fst) | (with_reducible apply Agree.foldl_snd) | split)

theorem Dev.opDone_kp {μ : Nat} {ω : Dev} (d : Dev) (die : Nat) (q : HReq) (stat : Nat) (det : Nat)  (hμ : Within 0x400000000000000000000000004000904000000000000000000000000000000000000000000000000000000000000000000000000 μ) (hκ : Agree μ ω d) : Agree μ ω (Dev.opDone d die q stat det) := by
  unfold Dev.opDone
  repeat' (first | with_reducible assumption | intro _ | (simp only [id_eq]) | (with_reducible refine Dev.helEvent_kp (hμ := hμ.up (by decide)) (hκ := ?_) ..) | (with_reducible apply Agree.ite) | split)

theorem Dev.helTake_kp {μ : Nat} {ω : Dev} (d : Dev) (die : Nat) (slot : Nat) (m : Bytes)  (hμ : Within 0x2000000000000000000000000000000000180000000000000000000000000000000000000000000000000000000000000000000000 μ) (hκ : Agree μ ω d) : Agree μ ω (Dev.helTake d die slot m).2.2 := by
  unfold Dev.helTake
  repeat' (first | with_reducible assumption | intro _ | (simp only [id_eq]) | (with_reducible refine Dev.modStew_kp (hμ := hμ.up (by decide)) (hκ := ?_) ..) | (with_reducible refine Dev.put_kp (hf := by first | assumption | exact hμ.bit rfl) (hμ := hμ.up (by decide)) (hκ := ?_) ..) | (with_reducible apply Agree.ite) | split)

theorem Dev.helTake_kp' {μ : Nat} {ω : Dev} {d : Dev} {die : Nat} {slot : Nat} {m : Bytes} {y0} {y1} {rd : Dev} (heq : Dev.helTake d die slot m = (y0, y1, rd))  (hμ : Within 0x2000000000000000000000000000000000180000000000000000000000000000000000000000000000000000000000000000000000 μ) (hκ : Agree μ ω d) : Agree μ ω rd := by
  have k := Dev.helTake_kp (μ := μ) (ω := ω) d die slot m  (hμ := hμ) (hκ := hκ); rw [heq] at k; exact k

theorem Dev.hDone_kp {μ : Nat} {ω : Dev} (d : Dev) (stat : Nat) (det : Nat) (body : Bytes)  (hμ : Within 0x0 μ) (hκ : Agree μ ω d) : Agree μ ω (Dev.hDone d stat det body).d := by
  unfold Dev.hDone
  repeat' (first | with_reducible assumption | intro _ | (simp only [id_eq]) | (with_reducible apply Agree.ite) | split)

theorem Dev.hOk_kp {μ : Nat} {ω : Dev} (d : Dev) (body : Bytes)  (hμ : Within 0x0 μ) (hκ : Agree μ ω d) : Agree μ ω (Dev.hOk d body).d := by
  unfold Dev.hOk
  repeat' (first | with_reducible assumption | intro _ | (simp only [id_eq]) | (with_reducible refine Dev.hDone_kp (hμ := hμ.up (by decide)) (hκ := ?_) ..) | (with_reducible apply Agree.ite) | split)

theorem Dev.hArg_kp {μ : Nat} {ω : Dev} (d : Dev) (off : Nat)  (hμ : Within 0x0 μ) (hκ : Agree μ ω d) : Agree μ ω (Dev.hArg d off).d := by
  unfold Dev.hArg
  repeat' (first | with_reducible assumption | intro _ | (simp only [id_eq]) | (with_reducible refine Dev.hDone_kp (hμ := hμ.up (by decide)) (hκ := ?_) ..) | (with_reducible apply Agree.ite) | split)

theorem Dev.hBad_kp {μ : Nat} {ω : Dev} (d : Dev) (off : Nat)  (hμ : Within 0x0 μ) (hκ : Agree μ ω d) : Agree μ ω (Dev.hBad d off).d := by
  unfold Dev.hBad
  repeat' (first | with_reducible assumption | intro _ | (simp only [id_eq]) | (with_reducible refine Dev.hDone_kp (hμ := hμ.up (by decide)) (hκ := ?_) ..) | (with_reducible apply Agree.ite) | split)

theorem Dev.hMore_kp {μ : Nat} {ω : Dev} (d : Dev) (stat : Nat) (phase : Nat) (arg : Nat)  (hμ : Within 0x0 μ) (hκ : Agree μ ω d) : Agree μ ω (Dev.hMore d stat phase arg).d := by
  unfold Dev.hMore
  repeat' (first | with_reducible assumption | intro _ | (simp only [id_eq]) | (with_reducible apply Agree.ite) | split)

theorem Dev.setJob_kp {μ : Nat} {ω : Dev} (d : Dev) (die : Nat) (at_ : Option Nat) (j : Job)  (hμ : Within 0x2000000000000000000000000000000000000000000000000000000000000000000000000000000000000000000000000000000000 μ) (hκ : Agree μ ω d) : Agree μ ω (Dev.setJob d die at_ j) := by
  unfold Dev.setJob
  repeat' (first | with_reducible assumption | intro _ | (simp only [id_eq]) | (with_reducible refine Dev.modStew_kp (hμ := hμ.up (by decide)) (hκ := ?_) ..) | (with_reducible apply Agree.ite) | split)

theorem Dev.dropJob_kp {μ : Nat} {ω : Dev} (d : Dev) (die : Nat) (at_ : Option Nat)  (hμ : Within 0x2000000000000000000000000000000000000000000000000000000000000000000000000000000000000000000000000000000000 μ) (hκ : Agree μ ω d) : Agree μ ω (Dev.dropJob d die at_) := by
  unfold Dev.dropJob
  repeat' (first | with_reducible assumption | intro _ | (simp only [id_eq]) | (with_reducible refine Dev.modStew_kp (hμ := hμ.up (by decide)) (hκ := ?_) ..) | (with_reducible apply Agree.ite) | split)

theorem Dev.sessEnd_kp {μ : Nat} {ω : Dev} (d : Dev) (die : Nat) (sid : Nat)  (hμ : Within 0x2000000000000000000000000000000010000000000000000000000000000000000000000000000000000000000000000000000000 μ) (hκ : Agree μ ω d) : Agree μ ω (Dev.sessEnd d die sid) := by
  unfold Dev.sessEnd
  repeat' (first | with_reducible assumption | intro _ | (simp only [id_eq]) | (with_reducible refine Dev.modStew_kp (hμ := hμ.up (by decide)) (hκ := ?_) ..) | (with_reducible refine Dev.put_kp (hf := by first | assumption | exact hμ.bit rfl) (hμ := hμ.up (by decide)) (hκ := ?_) ..) | (with_reducible apply Agree.ite) | (with_reducible apply Agree.foldl) | (with_reducible apply Agree.foldl_fst) | (with_reducible apply Agree.foldl_snd) | split)

theorem Dev.helEnd_kp {μ : Nat} {ω : Dev} (d : Dev) (die : Nat) (j : Job) (o : HOut)  (hμ : Within 0x3400000000000000000000000004000d16000000000000000000000000000000000000000000000000000000000000000000000000 μ) (hκ : Agree μ ω d) : Agree μ ω (Dev.helEnd d die j o) := by
  unfold Dev.helEnd
  repeat' (first | with_reducible assumption | intro _ | (simp only [id_eq]) | (with_reducible refine Dev.helReply_kp (hμ := hμ.up (by decide)) (hκ := ?_) ..) | (with_reducible refine Dev.opDone_kp (hμ := hμ.up (by decide)) (hκ := ?_) ..) | (with_reducible refine Dev.sessEnd_kp (hμ := hμ.up (by decide)) (hκ := ?_) ..) | (with_reducible apply Agree.ite) | split)

theorem Dev.helStep_kp {μ : Nat} {ω : Dev} (d : Dev) (die : Nat) (c : HCmd) (at_ : Option Nat) (j : Job) (hc : ∀ d die q ph a, Agree μ ω d → Agree μ ω (c.run d die q ph a).d) (hμ : Within 0x3480000000000000245000000004002d16000000000000000000000000000000000000000000000000000000000000000000000000 μ) (hκ : Agree μ ω d) : Agree μ ω (Dev.helStep d die c at_ j) := by
  unfold Dev.helStep
  repeat' (first | with_reducible assumption | intro _ | (simp only [id_eq]) | (with_reducible refine hc _ _ _ _ _ ?_) | (with_reducible refine Dev.dropJob_kp (hμ := hμ.up (by decide)) (hκ := ?_) ..) | (with_reducible refine Dev.helEnd_kp (hμ := hμ.up (by decide)) (hκ := ?_) ..) | (with_reducible refine Dev.helReply_kp (hμ := hμ.up (by decide)) (hκ := ?_) ..) | (with_reducible refine Dev.leadSend_kp' (heq := by with_reducible assumption) (hμ := hμ.up (by decide)) (hκ := ?_) ..) | (with_reducible refine Dev.leadSend_kp (hμ := hμ.up (by decide)) (hκ := ?_) ..) | (with_reducible refine Dev.setJob_kp (hμ := hμ.up (by decide)) (hκ := ?_) ..) | (with_reducible apply Agree.ite) | split)

theorem Dev.helBegin_kp {μ : Nat} {ω : Dev} (d : Dev) (die : Nat) (c : HCmd) (q : HReq) (hc : ∀ d die q ph a, Agree μ ω d → Agree μ ω (c.run d die q ph a).d) (hμ : Within 0x3480000000000000245000000004002d16000000000000000000000000000000000000000000000000000000000000000000000000 μ) (hκ : Agree μ ω d) : Agree μ ω (Dev.helBegin d die c q) := by
  unfold Dev.helBegin
  repeat' (first | with_reducible assumption | intro _ | (simp only [id_eq]) | (with_reducible refine hc _ _ _ _ _ ?_) | (with_reducible refine Dev.helReply_kp (hμ := hμ.up (by decide)) (hκ := ?_) ..) | (with_reducible refine Dev.helStep_kp (hc := ?_) (hμ := hμ.up (by decide)) (hκ := ?_) ..) | (with_reducible refine Dev.setJob_kp (hμ := hμ.up (by decide)) (hκ := ?_) ..) | (with_reducible apply Agree.ite) | split)

theorem Dev.helRun_kp {μ : Nat} {ω : Dev} (d : Dev) (die : Nat) (n : Nat) (again : Bool) (c : HCmd) (hc : ∀ d die q ph a, Agree μ ω d → Agree μ ω (c.run d die q ph a).d) (hμ : Within 0x3480000000000000245000000004002d16180000000000000000000000000000000000000000000000000000000000000000000000 μ) (hκ : Agree μ ω d) : Agree μ ω (Dev.helRun d die n again c) := by
  unfold Dev.helRun
  repeat' (first | with_reducible assumption | intro _ | (simp only [id_eq]) | (with_reducible refine hc _ _ _ _ _ ?_) | (with_reducible refine Dev.helBegin_kp (hc := ?_) (hμ := hμ.up (by decide)) (hκ := ?_) ..) | (with_reducible refine Dev.helReply_kp (hμ := hμ.up (by decide)) (hκ := ?_) ..) | (with_reducible refine Dev.helStep_kp (hc := ?_) (hμ := hμ.up (by decide)) (hκ := ?_) ..) | (with_reducible refine Dev.helTake_kp' (heq := by with_reducible assumption) (hμ := hμ.up (by decide)) (hκ := ?_) ..) | (with_reducible refine Dev.helTake_kp (hμ := hμ.up (by decide)) (hκ := ?_) ..) | (with_reducible apply Agree.ite) | split)

theorem Dev.helTimeout_kp {μ : Nat} {ω : Dev} (d : Dev) (die : Nat) (n : Nat)  (hμ : Within 0x3400000000000000000000000004000d16000000000000000000000000000000000000000000000000000000000000000000000000 μ) (hκ : Agree μ ω d) : Agree μ ω (Dev.helTimeout d die n) := by
  unfold Dev.helTimeout
  repeat' (first | with_reducible assumption | intro _ | (simp only [id_eq]) | (with_reducible refine Dev.dropJob_kp (hμ := hμ.up (by decide)) (hκ := ?_) ..) | (with_reducible refine Dev.hDone_kp (hμ := hμ.up (by decide)) (hκ := ?_) ..) | (with_reducible refine Dev.helEnd_kp (hμ := hμ.up (by decide)) (hκ := ?_) ..) | (with_reducible apply Agree.ite) | split)

theorem cmdIdentify_kp {μ : Nat} {ω : Dev}  (d : Dev) (die : Nat) (q : HReq) (ph a : Nat) (hμ : Within 0x0 μ) (hκ : Agree μ ω d) : Agree μ ω ((cmdIdentify).run d die q ph a).d := by
  skip
  unfold cmdIdentify
  repeat' (first | with_reducible assumption | intro _ | (simp only [id_eq]) | (with_reducible refine Dev.hOk_kp (hμ := hμ.up (by decide)) (hκ := ?_) ..) | (with_reducible apply Agree.ite) | split)

theorem Dev.wardCall_kp {μ : Nat} {ω : Dev} (d : Dev) (die : Nat) (op : Nat) (inp : Bytes) (n : Nat)  (hμ : Within 0x8000000000004000000000000380000000000000000000000000000000000000000000000000000000000000000000000000000000 μ) (hκ : Agree μ ω d) : Agree μ ω (Dev.wardCall d die op inp n).2 := by
  unfold Dev.wardCall
  repeat' (first | with_reducible assumption | intro _ | (simp only [id_eq]) | (with_reducible refine Dev.put_kp (hf := by first | assumption | exact hμ.bit rfl) (hμ := hμ.up (by decide)) (hκ := ?_) ..) | (with_reducible refine Dev.putData_kp (hr := by first | assumption | exact hμ.bit rfl) (hμ := hμ.up (by decide)) (hκ := ?_) ..) | (with_reducible refine Dev.wardGo_kp (hμ := hμ.up (by decide)) (hκ := ?_) ..) | (with_reducible refine Dev.wardOpDone_kp (hμ := hμ.up (by decide)) (hκ := ?_) ..) | (with_reducible apply Agree.ite) | split)

theorem Dev.wardCall_kp' {μ : Nat} {ω : Dev} {d : Dev} {die : Nat} {op : Nat} {inp : Bytes} {n : Nat} {y0} {rd : Dev} (heq : Dev.wardCall d die op inp n = (y0, rd))  (hμ : Within 0x8000000000004000000000000380000000000000000000000000000000000000000000000000000000000000000000000000000000 μ) (hκ : Agree μ ω d) : Agree μ ω rd := by
  have k := Dev.wardCall_kp (μ := μ) (ω := ω) d die op inp n  (hμ := hμ) (hκ := hκ); rw [heq] at k; exact k

theorem cmdAttest_kp {μ : Nat} {ω : Dev}  (d : Dev) (die : Nat) (q : HReq) (ph a : Nat) (hμ : Within 0x8000000000004000000000000380000000000000000000000000000000000000000000000000000000000000000000000000000000 μ) (hκ : Agree μ ω d) : Agree μ ω ((cmdAttest).run d die q ph a).d := by
  skip
  unfold cmdAttest
  repeat' (first | with_reducible assumption | intro _ | (simp only [id_eq]) | (with_reducible refine Dev.hArg_kp (hμ := hμ.up (by decide)) (hκ := ?_) ..) | (with_reducible refine Dev.hMore_kp (hμ := hμ.up (by decide)) (hκ := ?_) ..) | (with_reducible refine Dev.hOk_kp (hμ := hμ.up (by decide)) (hκ := ?_) ..) | (with_reducible refine Dev.wardCall_kp' (heq := by with_reducible assumption) (hμ := hμ.up (by decide)) (hκ := ?_) ..) | (with_reducible refine Dev.wardCall_kp (hμ := hμ.up (by decide)) (hκ := ?_) ..) | (with_reducible apply Agree.ite) | (with_reducible apply Agree.foldl) | (with_reducible apply Agree.foldl_fst) | (with_reducible apply Agree.foldl_snd) | split)

theorem Dev.sessStep1_kp {μ : Nat} {ω : Dev} (d : Dev) (die : Nat) (q : HReq)  (hμ : Within 0xa000000000004000000000000380000000000000000000000000000000000000000000000000000000000000000000000000000000 μ) (hκ : Agree μ ω d) : Agree μ ω (Dev.sessStep1 d die q).d := by
  unfold Dev.sessStep1
  repeat' (first | with_reducible assumption | intro _ | (simp only [id_eq]) | (with_reducible refine Dev.hArg_kp (hμ := hμ.up (by decide)) (hκ := ?_) ..) | (with_reducible refine Dev.hDone_kp (hμ := hμ.up (by decide)) (hκ := ?_) ..) | (with_reducible refine Dev.hMore_kp (hμ := hμ.up (by decide)) (hκ := ?_) ..) | (with_reducible refine Dev.hOk_kp (hμ := hμ.up (by decide)) (hκ := ?_) ..) | (with_reducible refine Dev.modStew_kp (hμ := hμ.up (by decide)) (hκ := ?_) ..) | (with_reducible refine Dev.wardCall_kp' (heq := by with_reducible assumption) (hμ := hμ.up (by decide)) (hκ := ?_) ..) | (with_reducible refine Dev.wardCall_kp (hμ := hμ.up (by decide)) (hκ := ?_) ..) | (with_reducible apply Agree.ite) | split)

theorem Dev.sessStep2_kp {μ : Nat} {ω : Dev} (d : Dev) (die : Nat) (q : HReq)  (hμ : Within 0x2000000000000000000000000000000000000000000000000000000000000000000000000000000000000000000000000000000000 μ) (hκ : Agree μ ω d) : Agree μ ω (Dev.sessStep2 d die q).d := by
  unfold Dev.sessStep2
  repeat' (first | with_reducible assumption | intro _ | (simp only [id_eq]) | (with_reducible refine Dev.hArg_kp (hμ := hμ.up (by decide)) (hκ := ?_) ..) | (with_reducible refine Dev.hDone_kp (hμ := hμ.up (by decide)) (hκ := ?_) ..) | (with_reducible refine Dev.modStew_kp (hμ := hμ.up (by decide)) (hκ := ?_) ..) | (with_reducible apply Agree.ite) | split)

theorem cmdSession1_kp {μ : Nat} {ω : Dev}  (d : Dev) (die : Nat) (q : HReq) (ph a : Nat) (hμ : Within 0xa000000000004000000000000380000000000000000000000000000000000000000000000000000000000000000000000000000000 μ) (hκ : Agree μ ω d) : Agree μ ω ((cmdSession1).run d die q ph a).d := by
  skip
  unfold cmdSession1
  repeat' (first | with_reducible assumption | intro _ | (simp only [id_eq]) | (with_reducible refine Dev.hArg_kp (hμ := hμ.up (by decide)) (hκ := ?_) ..) | (with_reducible refine Dev.sessStep1_kp (hμ := hμ.up (by decide)) (hκ := ?_) ..) | (with_reducible apply Agree.ite) | split)

theorem cmdSession2_kp {μ : Nat} {ω : Dev}  (d : Dev) (die : Nat) (q : HReq) (ph a : Nat) (hμ : Within 0x2000000000000000000000000000000000000000000000000000000000000000000000000000000000000000000000000000000000 μ) (hκ : Agree μ ω d) : Agree μ ω ((cmdSession2).run d die q ph a).d := by
  skip
  unfold cmdSession2
  repeat' (first | with_reducible assumption | intro _ | (simp only [id_eq]) | (with_reducible refine Dev.sessStep2_kp (hμ := hμ.up (by decide)) (hκ := ?_) ..) | (with_reducible apply Agree.ite) | split)

theorem Dev.sessRun_kp {μ : Nat} {ω : Dev} (d : Dev) (die : Nat) (slot : Nat) (second : Bool)  (hμ : Within 0xb480000000004000245000000384002d16180000000000000000000000000000000000000000000000000000000000000000000000 μ) (hκ : Agree μ ω d) : Agree μ ω (Dev.sessRun d die slot second) := by
  unfold Dev.sessRun
  repeat' (first | with_reducible assumption | intro _ | (simp only [id_eq]) | (with_reducible refine Dev.helRun_kp (hc := ?_) (hμ := hμ.up (by decide)) (hκ := ?_) ..) | (with_reducible refine cmdSession1_kp (hμ := hμ.up (by decide)) (hκ := ?_) ..) | (with_reducible refine cmdSession2_kp (hμ := hμ.up (by decide)) (hκ := ?_) ..) | (with_reducible apply Agree.ite) | split)

theorem Dev.sessTimeout_kp {μ : Nat} {ω : Dev} (d : Dev) (die : Nat) (n : Nat)  (hμ : Within 0x2000000000000000000000000000000000000000000000000000000000000000000000000000000000000000000000000000000000 μ) (hκ : Agree μ ω d) : Agree μ ω (Dev.sessTimeout d die n) := by
  unfold Dev.sessTimeout
  repeat' (first | with_reducible assumption | intro _ | (simp only [id_eq]) | (with_reducible refine Dev.modStew_kp (hμ := hμ.up (by decide)) (hκ := ?_) ..) | (with_reducible apply Agree.ite) | split)

theorem cmdClose_kp {μ : Nat} {ω : Dev}  (d : Dev) (die : Nat) (q : HReq) (ph a : Nat) (hμ : Within 0x0 μ) (hκ : Agree μ ω d) : Agree μ ω ((cmdClose).run d die q ph a).d := by
  skip
  unfold cmdClose
  repeat' (first | with_reducible assumption | intro _ | (simp only [id_eq]) | (with_reducible apply Agree.ite) | split)

theorem Dev.partAbort_kp {μ : Nat} {ω : Dev} (d : Dev) (die : Nat) (p : Nat)  (hμ : Within 0x52000000000000000000000000000000000000000000000000000000000000000000000000000000000200000020000000 μ) (hκ : Agree μ ω d) : Agree μ ω (Dev.partAbort d die p) := by
  unfold Dev.partAbort
  repeat' (first | with_reducible assumption | intro _ | (simp only [id_eq]) | (with_reducible refine Dev.bcastTo_kp (hμ := hμ.up (by decide)) (hκ := ?_) ..) | (with_reducible refine Dev.dspAbort_kp (hμ := hμ.up (by decide)) (hκ := ?_) ..) | (with_reducible refine Dev.engAbort_kp (hμ := hμ.up (by decide)) (hκ := ?_) ..) | (with_reducible apply Agree.ite) | (with_reducible apply Agree.foldl) | (with_reducible apply Agree.foldl_fst) | (with_reducible apply Agree.foldl_snd) | split)

theorem Dev.partPark_kp {μ : Nat} {ω : Dev} (d : Dev) (p : Nat) (park : Bool)  (hμ : Within 0x4080000002184000245000000000000000000000000000000000000000000008000000000c00000000000000000000000000000042 μ) (hκ : Agree μ ω d) : Agree μ ω (Dev.partPark d p park) := by
  unfold Dev.partPark
  repeat' (first | with_reducible assumption | intro _ | (simp only [id_eq]) | (simp only [Agree.set_parts (hμ.bit (by decide))]) | (with_reducible refine Dev.cellPark_kp (hμ := hμ.up (by decide)) (hκ := ?_) ..) | (with_reducible refine Dev.cellUnpark_kp (hμ := hμ.up (by decide)) (hκ := ?_) ..) | (with_reducible refine Dev.put_kp (hf := by first | assumption | exact hμ.bit rfl) (hμ := hμ.up (by decide)) (hκ := ?_) ..) | (with_reducible apply Agree.ite) | (with_reducible apply Agree.foldl) | (with_reducible apply Agree.foldl_fst) | (with_reducible apply Agree.foldl_snd) | split)

theorem Dev.powerGo_kp {μ : Nat} {ω : Dev} (d : Dev) (ds : List Nat) (t : Nat) (fast : Nat)  (hμ : Within 0x1038010023e004200245000011800000000000000000000e04c6400c000000001000004000000000000000400000200101f20000000 μ) (hκ : Agree μ ω d) : Agree μ ω (Dev.powerGo d ds t fast) := by
  unfold Dev.powerGo
  repeat' (first | with_reducible assumption | intro _ | (simp only [id_eq]) | (with_reducible refine Dev.put_kp (hf := by first | assumption | exact hμ.bit rfl) (hμ := hμ.up (by decide)) (hκ := ?_) ..) | (with_reducible refine Dev.pwGo_kp (hμ := hμ.up (by decide)) (hκ := ?_) ..) | (with_reducible apply Agree.ite) | (with_reducible apply Agree.foldl) | (with_reducible apply Agree.foldl_fst) | (with_reducible apply Agree.foldl_snd) | split)

theorem Dev.powerRun_kp {μ : Nat} {ω : Dev} (d : Dev) (die : Nat) (q : HReq) (phase : Nat) (arg : Nat) (ovr : Bool)  (hμ : Within 0x1438010027e184200245000011800000000000000000000e04c6400c000000009000004000c00000000000400000200101f20000042 μ) (hκ : Agree μ ω d) : Agree μ ω (Dev.powerRun d die q phase arg ovr).d := by
  unfold Dev.powerRun
  repeat' (first | with_reducible assumption | intro _ | (simp only [id_eq]) | (with_reducible refine Dev.hArg_kp (hμ := hμ.up (by decide)) (hκ := ?_) ..) | (with_reducible refine Dev.hBad_kp (hμ := hμ.up (by decide)) (hκ := ?_) ..) | (with_reducible refine Dev.hDone_kp (hμ := hμ.up (by decide)) (hκ := ?_) ..) | (with_reducible refine Dev.hMore_kp (hμ := hμ.up (by decide)) (hκ := ?_) ..) | (with_reducible refine Dev.hOk_kp (hμ := hμ.up (by decide)) (hκ := ?_) ..) | (with_reducible refine Dev.partAbort_kp (hμ := hμ.up (by decide)) (hκ := ?_) ..) | (with_reducible refine Dev.partPark_kp (hμ := hμ.up (by decide)) (hκ := ?_) ..) | (with_reducible refine Dev.powerGo_kp (hμ := hμ.up (by decide)) (hκ := ?_) ..) | (with_reducible apply Agree.ite) | (with_reducible apply Agree.foldl) | (with_reducible apply Agree.foldl_fst) | (with_reducible apply Agree.foldl_snd) | split)

theorem cmdPower_kp {μ : Nat} {ω : Dev} (ovr : Bool) (d : Dev) (die : Nat) (q : HReq) (ph a : Nat) (hμ : Within 0x1438010027e184200245000011800000000000000000000e04c6400c000000009000004000c00000000000400000200101f20000042 μ) (hκ : Agree μ ω d) : Agree μ ω ((cmdPower ovr).run d die q ph a).d := by
  skip
  unfold cmdPower
  repeat' (first | with_reducible assumption | intro _ | (simp only [id_eq]) | (with_reducible refine Dev.powerRun_kp (hμ := hμ.up (by decide)) (hκ := ?_) ..) | (with_reducible apply Agree.ite) | split)

theorem cmdPowerQuery_kp {μ : Nat} {ω : Dev}  (d : Dev) (die : Nat) (q : HReq) (ph a : Nat) (hμ : Within 0x0 μ) (hκ : Agree μ ω d) : Agree μ ω ((cmdPowerQuery).run d die q ph a).d := by
  skip
  unfold cmdPowerQuery
  repeat' (first | with_reducible assumption | intro _ | (simp only [id_eq]) | (with_reducible refine Dev.hOk_kp (hμ := hμ.up (by decide)) (hκ := ?_) ..) | (with_reducible apply Agree.ite) | split)

theorem Dev.partBucket_kp {μ : Nat} {ω : Dev} (d : Dev) (j : Nat) (p : Nat) (w : Nat)  (hμ : Within 0x2300000000000000000000000 μ) (hκ : Agree μ ω d) : Agree μ ω (Dev.partBucket d j p w) := by
  unfold Dev.partBucket
  repeat' (first | with_reducible assumption | intro _ | (simp only [id_eq]) | (with_reducible refine Dev.rrateSet_kp (hμ := hμ.up (by decide)) (hκ := ?_) ..) | (with_reducible apply Agree.ite) | (with_reducible apply Agree.foldl) | (with_reducible apply Agree.foldl_fst) | (with_reducible apply Agree.foldl_snd) | split)

theorem Dev.ownMibs_kp {μ : Nat} {ω : Dev} (d : Dev) (j : Nat) (ms : List Nat) (w : Nat)  (hμ : Within 0x8000000000 μ) (hκ : Agree μ ω d) : Agree μ ω (Dev.ownMibs d j ms w) := by
  unfold Dev.ownMibs
  repeat' (first | with_reducible assumption | intro _ | (simp only [id_eq]) | (with_reducible refine Dev.setKey_kp _ _ _ _ _ _ (by first | assumption | exact hμ.bit (by decide) | exact hall _) ?_) | (with_reducible refine Dev.setRaw_kp _ _ _ (by assumption) ?_) | (with_reducible apply Agree.ite) | (with_reducible apply Agree.foldl) | (with_reducible apply Agree.foldl_fst) | (with_reducible apply Agree.foldl_snd) | split)

theorem Dev.cellIdle_kp {μ : Nat} {ω : Dev} (d : Dev) (cn : Nat)  (hμ : Within 0x80000000000000000000000000000000000000000000000000000000000000000000000000000000000000000000000 μ) (hκ : Agree μ ω d) : Agree μ ω (Dev.cellIdle d cn) := by
  unfold Dev.cellIdle
  repeat' (first | with_reducible assumption | intro _ | (simp only [id_eq]) | (with_reducible refine Dev.eachCore_kp (hf := ?_) (hμ := hμ.up (by decide)) (hκ := ?_) ..) | (with_reducible refine Dev.setCore_kp (hμ := hμ.up (by decide)) (hκ := ?_) ..) | (with_reducible apply Agree.ite) | split)

theorem Dev.createPart_kp {μ : Nat} {ω : Dev} (d : Dev) (q : HReq)  (hμ : Within 0x400000007239000000000000000000000000000000000000000000000000000000000080000000000230008020fe0bf89fe2000002 μ) (hκ : Agree μ ω d) : Agree μ ω (Dev.createPart d q) := by
  unfold Dev.createPart
  repeat' (first | with_reducible assumption | intro _ | (simp only [id_eq]) | (simp only [Agree.set_parts_cellPart (hμ.bit (by decide)) (hμ.bit (by decide))]) | (with_reducible refine Dev.cellIdle_kp (hμ := hμ.up (by decide)) (hκ := ?_) ..) | (with_reducible refine Dev.cellUnpark_kp (hμ := hμ.up (by decide)) (hκ := ?_) ..) | (with_reducible refine Dev.ownMibs_kp (hμ := hμ.up (by decide)) (hκ := ?_) ..) | (with_reducible refine Dev.partAssign_kp (hμ := hμ.up (by decide)) (hκ := ?_) ..) | (with_reducible refine Dev.partBucket_kp (hμ := hμ.up (by decide)) (hκ := ?_) ..) | (with_reducible refine Dev.put_kp (hf := by first | assumption | exact hμ.bit rfl) (hμ := hμ.up (by decide)) (hκ := ?_) ..) | (with_reducible refine Dev.rangeWrite_kp (hμ := hμ.up (by decide)) (hκ := ?_) ..) | (with_reducible apply Agree.ite) | (with_reducible apply Agree.foldl) | (with_reducible apply Agree.foldl_fst) | (with_reducible apply Agree.foldl_snd) | split)

theorem cmdCreate_kp {μ : Nat} {ω : Dev}  (d : Dev) (die : Nat) (q : HReq) (ph a : Nat) (hμ : Within 0x400000007239000000000000000000000000000000000000000000000000000000000080000000000230008020fe0bf89fe2000002 μ) (hκ : Agree μ ω d) : Agree μ ω ((cmdCreate).run d die q ph a).d := by
  skip
  unfold cmdCreate
  repeat' (first | with_reducible assumption | intro _ | (simp only [id_eq]) | (with_reducible refine Dev.createPart_kp (hμ := hμ.up (by decide)) (hκ := ?_) ..) | (with_reducible refine Dev.hArg_kp (hμ := hμ.up (by decide)) (hκ := ?_) ..) | (with_reducible refine Dev.hBad_kp (hμ := hμ.up (by decide)) (hκ := ?_) ..) | (with_reducible refine Dev.hOk_kp (hμ := hμ.up (by decide)) (hκ := ?_) ..) | (with_reducible apply Agree.ite) | split)

theorem Dev.partNamed_kp {μ : Nat} {ω : Dev} (d : Dev) (q : HReq) (k : Part → HOut) (hk : ∀ x, Agree μ ω (k x).d) (hμ : Within 0x0 μ)
    (hκ : Agree μ ω d) : Agree μ ω (Dev.partNamed d q k).d := by
  unfold Dev.partNamed
  repeat' (first | with_reducible assumption | intro _ | (simp only [id_eq]) | (with_reducible refine hk _) | (with_reducible refine hk _) | (with_reducible refine Dev.hArg_kp (hμ := hμ.up (by decide)) (hκ := ?_) ..) | (with_reducible refine Dev.hBad_kp (hμ := hμ.up (by decide)) (hκ := ?_) ..) | (with_reducible apply Agree.ite) | split)

theorem Dev.closeBuckets_kp {μ : Nat} {ω : Dev} (d : Dev) (p : Nat) (j : Nat)  (hμ : Within 0x2300000000000000000000000 μ) (hκ : Agree μ ω d) : Agree μ ω (Dev.closeBuckets d p j) := by
  unfold Dev.closeBuckets
  repeat' (first | with_reducible assumption | intro _ | (simp only [id_eq]) | (with_reducible refine Dev.rrateSet_kp (hμ := hμ.up (by decide)) (hκ := ?_) ..) | (with_reducible apply Agree.ite) | (with_reducible apply Agree.foldl) | (with_reducible apply Agree.foldl_fst) | (with_reducible apply Agree.foldl_snd) | split)

theorem Dev.freeMibs_kp {μ : Nat} {ω : Dev} (d : Dev) (p : Nat) (j : Nat)  (hμ : Within 0x8000000000 μ) (hκ : Agree μ ω d) : Agree μ ω (Dev.freeMibs d p j) := by
  unfold Dev.freeMibs
  repeat' (first | with_reducible assumption | intro _ | (simp only [id_eq]) | (with_reducible refine Dev.ownMibs_kp (hμ := hμ.up (by decide)) (hκ := ?_) ..) | (with_reducible apply Agree.ite) | split)

theorem Dev.closeRanges_kp {μ : Nat} {ω : Dev} (d : Dev) (p : Nat) (j : Nat)  (hμ : Within 0x80200000000000000000 μ) (hκ : Agree μ ω d) : Agree μ ω (Dev.closeRanges d p j) := by
  unfold Dev.closeRanges
  repeat' (first | with_reducible assumption | intro _ | (simp only [id_eq]) | (with_reducible refine Dev.rangeWrite_kp (hμ := hμ.up (by decide)) (hκ := ?_) ..) | (with_reducible apply Agree.ite) | (with_reducible apply Agree.foldl) | (with_reducible apply Agree.foldl_fst) | (with_reducible apply Agree.foldl_snd) | split)

theorem Dev.destroyPart_kp {μ : Nat} {ω : Dev} (d : Dev) (p : Nat) (x : Part)  (hμ : Within 0x4080500072194000245000000000000000000000000000000000000000000008000681000c0000000230008020fe0bf89fe2000042 μ) (hκ : Agree μ ω d) : Agree μ ω (Dev.destroyPart d p x) := by
  unfold Dev.destroyPart
  repeat' (first | with_reducible assumption | intro _ | (simp only [id_eq]) | (with_reducible refine Dev.closeBuckets_kp (hμ := hμ.up (by decide)) (hκ := ?_) ..) | (with_reducible refine Dev.closeRanges_kp (hμ := hμ.up (by decide)) (hκ := ?_) ..) | (with_reducible refine Dev.freeMibs_kp (hμ := hμ.up (by decide)) (hκ := ?_) ..) | (with_reducible refine Dev.partAssign_kp (hμ := hμ.up (by decide)) (hκ := ?_) ..) | (with_reducible refine Dev.partPark_kp (hμ := hμ.up (by decide)) (hκ := ?_) ..) | (with_reducible refine Dev.rkctlSet_kp (hμ := hμ.up (by decide)) (hκ := ?_) ..) | (with_reducible apply Agree.ite) | (with_reducible apply Agree.foldl) | (with_reducible apply Agree.foldl_fst) | (with_reducible apply Agree.foldl_snd) | split)

theorem Dev.forgetPart_kp {μ : Nat} {ω : Dev} (d : Dev) (die : Nat) (p : Nat)  (hμ : Within 0x6000000000200000000000000000000000000000000000000000000000000000000000800000000000000000000000000000000000 μ) (hκ : Agree μ ω d) : Agree μ ω (Dev.forgetPart d die p) := by
  unfold Dev.forgetPart
  repeat' (first | with_reducible assumption | intro _ | (simp only [id_eq]) | (simp only [Agree.set_parts_cellPart (hμ.bit (by decide)) (hμ.bit (by decide))]) | (with_reducible refine Dev.modStew_kp (hμ := hμ.up (by decide)) (hκ := ?_) ..) | (with_reducible refine Dev.put_kp (hf := by first | assumption | exact hμ.bit rfl) (hμ := hμ.up (by decide)) (hκ := ?_) ..) | (with_reducible apply Agree.ite) | (with_reducible apply Agree.foldl) | (with_reducible apply Agree.foldl_fst) | (with_reducible apply Agree.foldl_snd) | split)

theorem cmdDestroy_kp {μ : Nat} {ω : Dev}  (d : Dev) (die : Nat) (q : HReq) (ph a : Nat) (hμ : Within 0x6080500072394000245000000000000000000000000000000000000000000008000681800c0000000230008020fe0bf89fe2000042 μ) (hκ : Agree μ ω d) : Agree μ ω ((cmdDestroy).run d die q ph a).d := by
  skip
  unfold cmdDestroy
  repeat' (first | with_reducible assumption | intro _ | (simp only [id_eq]) | (with_reducible refine Dev.destroyPart_kp (hμ := hμ.up (by decide)) (hκ := ?_) ..) | (with_reducible refine Dev.forgetPart_kp (hμ := hμ.up (by decide)) (hκ := ?_) ..) | (with_reducible refine Dev.hMore_kp (hμ := hμ.up (by decide)) (hκ := ?_) ..) | (with_reducible refine Dev.hOk_kp (hμ := hμ.up (by decide)) (hκ := ?_) ..) | (with_reducible refine Dev.partAbort_kp (hμ := hμ.up (by decide)) (hκ := ?_) ..) | (with_reducible refine Dev.partNamed_kp (hk := ?_) (hμ := hμ.up (by decide)) (hκ := ?_) ..) | (with_reducible apply Agree.ite) | split)

theorem Dev.modPart_kp {μ : Nat} {ω : Dev} (d : Dev) (p : Nat) (f : Part → Part)  (hμ : Within 0x4000000000000000000000000000000000000000000000000000000000000000000000000000000000000000000000000000000000 μ) (hκ : Agree μ ω d) : Agree μ ω (Dev.modPart d p f) := by
  unfold Dev.modPart
  repeat' (first | with_reducible assumption | intro _ | (simp only [id_eq]) | (simp only [Agree.set_parts (hμ.bit (by decide))]) | (with_reducible refine Dev.put_kp (hf := by first | assumption | exact hμ.bit rfl) (hμ := hμ.up (by decide)) (hκ := ?_) ..) | (with_reducible apply Agree.ite) | split)

theorem Dev.resetPart_kp {μ : Nat} {ω : Dev} (d : Dev) (p : Nat) (x : Part)  (hμ : Within 0x40800000720b800024500000000000000000000000000000000000000000000800000000000000000000000000fe03f01fe0000042 μ) (hκ : Agree μ ω d) : Agree μ ω (Dev.resetPart d p x) := by
  unfold Dev.resetPart
  repeat' (first | with_reducible assumption | intro _ | (simp only [id_eq]) | (with_reducible refine Dev.cellReset_kp (hμ := hμ.up (by decide)) (hκ := ?_) ..) | (with_reducible refine Dev.dspReset_kp (hμ := hμ.up (by decide)) (hκ := ?_) ..) | (with_reducible refine Dev.engReset_kp (hμ := hμ.up (by decide)) (hκ := ?_) ..) | (with_reducible refine Dev.modPart_kp (hμ := hμ.up (by decide)) (hκ := ?_) ..) | (with_reducible refine Dev.unfReset_kp (hμ := hμ.up (by decide)) (hκ := ?_) ..) | (with_reducible apply Agree.ite) | (with_reducible apply Agree.foldl) | (with_reducible apply Agree.foldl_fst) | (with_reducible apply Agree.foldl_snd) | split)

theorem cmdReset_kp {μ : Nat} {ω : Dev}  (d : Dev) (die : Nat) (q : HReq) (ph a : Nat) (hμ : Within 0x40800000721bc000245000000000000000000000000000000000000000000008000000000c0000000000000000fe03f01fe0000042 μ) (hκ : Agree μ ω d) : Agree μ ω ((cmdReset).run d die q ph a).d := by
  skip
  unfold cmdReset
  repeat' (first | with_reducible assumption | intro _ | (simp only [id_eq]) | (with_reducible refine Dev.cellUnpark_kp (hμ := hμ.up (by decide)) (hκ := ?_) ..) | (with_reducible refine Dev.hBad_kp (hμ := hμ.up (by decide)) (hκ := ?_) ..) | (with_reducible refine Dev.hMore_kp (hμ := hμ.up (by decide)) (hκ := ?_) ..) | (with_reducible refine Dev.hOk_kp (hμ := hμ.up (by decide)) (hκ := ?_) ..) | (with_reducible refine Dev.loaderEnter_kp (hμ := hμ.up (by decide)) (hκ := ?_) ..) | (with_reducible refine Dev.modPart_kp (hμ := hμ.up (by decide)) (hκ := ?_) ..) | (with_reducible refine Dev.partAbort_kp (hμ := hμ.up (by decide)) (hκ := ?_) ..) | (with_reducible refine Dev.partNamed_kp (hk := ?_) (hμ := hμ.up (by decide)) (hκ := ?_) ..) | (with_reducible refine Dev.partPark_kp (hμ := hμ.up (by decide)) (hκ := ?_) ..) | (with_reducible refine Dev.resetPart_kp (hμ := hμ.up (by decide)) (hκ := ?_) ..) | (with_reducible apply Agree.ite) | (with_reducible apply Agree.foldl) | (with_reducible apply Agree.foldl_fst) | (with_reducible apply Agree.foldl_snd) | split)

theorem cmdPartQuery_kp {μ : Nat} {ω : Dev}  (d : Dev) (die : Nat) (q : HReq) (ph a : Nat) (hμ : Within 0x0 μ) (hκ : Agree μ ω d) : Agree μ ω ((cmdPartQuery).run d die q ph a).d := by
  skip
  unfold cmdPartQuery
  repeat' (first | with_reducible assumption | intro _ | (simp only [id_eq]) | (with_reducible refine Dev.hArg_kp (hμ := hμ.up (by decide)) (hκ := ?_) ..) | (with_reducible refine Dev.hOk_kp (hμ := hμ.up (by decide)) (hκ := ?_) ..) | (with_reducible apply Agree.ite) | split)

theorem mapApply_kp {μ : Nat} {ω : Dev} (q : HReq) (ds : List Nat) (d : Dev) (hμ : Within 0x1000000040000000000000000000000000000000000000000000000000000000010f0000000000000000000000000000000000 μ) (hκ : Agree μ ω d) :
    Agree μ ω (mapApply q ds d).d := by
  have hf : ∀ (f : MapRun → Nat × Nat → MapRun) (l : List (Nat × Nat)) (r : MapRun),
      (∀ r x, Agree μ ω r.d → Agree μ ω (f r x).d) → Agree μ ω r.d → Agree μ ω (l.foldl f r).d := by
    intro f l
    induction l with
    | nil => intro r _ h; exact h
    | cons a l ih => intro r hf h; exact ih _ hf (hf _ _ h)
  unfold mapApply
  refine hf _ _ _ (fun r x h => ?_) hκ
  split
  · exact h
  · simp only
    split <;> exact Dev.krgExec_kp' (by assumption) (hμ.up (by decide)) h

theorem mapReverse_kp {μ : Nat} {ω : Dev} (q : HReq) (ds : List Nat) (k : Nat) (j : Nat) (d : Dev)  (hμ : Within 0x1000000040000000000000000000000000000000000000000000000000000000010f0000000000000000000000000000000000 μ) (hκ : Agree μ ω d) : Agree μ ω (mapReverse q ds k j d).2 := by
  unfold mapReverse
  repeat' (first | with_reducible assumption | intro _ | (simp only [id_eq]) | (with_reducible refine Dev.krgExec_kp' (heq := by with_reducible assumption) (hμ := hμ.up (by decide)) (hκ := ?_) ..) | (with_reducible refine Dev.krgExec_kp (hμ := hμ.up (by decide)) (hκ := ?_) ..) | (with_reducible apply Agree.ite) | (with_reducible apply Agree.foldl) | (with_reducible apply Agree.foldl_fst) | (with_reducible apply Agree.foldl_snd) | split)

theorem mapReverse_kp' {μ : Nat} {ω : Dev} {q : HReq} {ds : List Nat} {k : Nat} {j : Nat} {d : Dev} {y0} {rd : Dev} (heq : mapReverse q ds k j d = (y0, rd))  (hμ : Within 0x1000000040000000000000000000000000000000000000000000000000000000010f0000000000000000000000000000000000 μ) (hκ : Agree μ ω d) : Agree μ ω rd := by
  have k := mapReverse_kp (μ := μ) (ω := ω) q ds k j d  (hμ := hμ) (hκ := hκ); rw [heq] at k; exact k

theorem Dev.mapSync_kp {μ : Nat} {ω : Dev} (d : Dev) (q : HReq)  (hμ : Within 0x1000000040000000000000000000000000000000000000000000000000000000030f0000000000000000000000000000000000 μ) (hκ : Agree μ ω d) : Agree μ ω (Dev.mapSync d q).d := by
  unfold Dev.mapSync
  repeat' (first | with_reducible assumption | intro _ | (simp only [id_eq]) | (with_reducible refine Dev.count_kp (hf := by first | assumption | exact hμ.bit rfl) (hμ := hμ.up (by decide)) (hκ := ?_) ..) | (with_reducible refine Dev.hArg_kp (hμ := hμ.up (by decide)) (hκ := ?_) ..) | (with_reducible refine Dev.hBad_kp (hμ := hμ.up (by decide)) (hκ := ?_) ..) | (with_reducible refine Dev.hDone_kp (hμ := hμ.up (by decide)) (hκ := ?_) ..) | (with_reducible refine Dev.hOk_kp (hμ := hμ.up (by decide)) (hκ := ?_) ..) | (with_reducible refine mapApply_kp (hμ := hμ.up (by decide)) (hκ := ?_) ..) | (with_reducible refine mapReverse_kp' (heq := by with_reducible assumption) (hμ := hμ.up (by decide)) (hκ := ?_) ..) | (with_reducible refine mapReverse_kp (hμ := hμ.up (by decide)) (hκ := ?_) ..) | (with_reducible apply Agree.ite) | (with_reducible apply Agree.foldl) | (with_reducible apply Agree.foldl_fst) | (with_reducible apply Agree.foldl_snd) | split)

theorem cmdMapSync_kp {μ : Nat} {ω : Dev}  (d : Dev) (die : Nat) (q : HReq) (ph a : Nat) (hμ : Within 0x1000000040000000000000000000000000000000000000000000000000000000030f0000000000000000000000000000000000 μ) (hκ : Agree μ ω d) : Agree μ ω ((cmdMapSync).run d die q ph a).d := by
  skip
  unfold cmdMapSync
  repeat' (first | with_reducible assumption | intro _ | (simp only [id_eq]) | (with_reducible refine Dev.mapSync_kp (hμ := hμ.up (by decide)) (hκ := ?_) ..) | (with_reducible apply Agree.ite) | split)

theorem Dev.rekeyRun_kp {μ : Nat} {ω : Dev} (d : Dev) (q : HReq) (phase : Nat) (arg : Nat)  (hμ : Within 0x5000300000000000000000000000000000000000000000000000000000000006f1000000000000000000000000000000000000 μ) (hκ : Agree μ ω d) : Agree μ ω (Dev.rekeyRun d q phase arg).d := by
  unfold Dev.rekeyRun
  repeat' (first | with_reducible assumption | intro _ | (simp only [id_eq]) | (with_reducible refine Dev.hArg_kp (hμ := hμ.up (by decide)) (hκ := ?_) ..) | (with_reducible refine Dev.hBad_kp (hμ := hμ.up (by decide)) (hκ := ?_) ..) | (with_reducible refine Dev.hDone_kp (hμ := hμ.up (by decide)) (hκ := ?_) ..) | (with_reducible refine Dev.hMore_kp (hμ := hμ.up (by decide)) (hκ := ?_) ..) | (with_reducible refine Dev.put_kp (hf := by first | assumption | exact hμ.bit rfl) (hμ := hμ.up (by decide)) (hκ := ?_) ..) | (with_reducible refine Dev.put64_kp (hlo := by first | assumption | exact hμ.bit rfl) (hhi := by first | assumption | exact hμ.bit rfl) (hμ := hμ.up (by decide)) (hκ := ?_) ..) | (with_reducible refine Dev.rkctlSet_kp (hμ := hμ.up (by decide)) (hκ := ?_) ..) | (with_reducible apply Agree.ite) | (with_reducible apply Agree.foldl) | (with_reducible apply Agree.foldl_fst) | (with_reducible apply Agree.foldl_snd) | split)

theorem cmdRekey_kp {μ : Nat} {ω : Dev}  (d : Dev) (die : Nat) (q : HReq) (ph a : Nat) (hμ : Within 0x5000300000000000000000000000000000000000000000000000000000000006f1000000000000000000000000000000000000 μ) (hκ : Agree μ ω d) : Agree μ ω ((cmdRekey).run d die q ph a).d := by
  skip
  unfold cmdRekey
  repeat' (first | with_reducible assumption | intro _ | (simp only [id_eq]) | (with_reducible refine Dev.rekeyRun_kp (hμ := hμ.up (by decide)) (hκ := ?_) ..) | (with_reducible apply Agree.ite) | split)

theorem cmdResume_kp {μ : Nat} {ω : Dev}  (d : Dev) (die : Nat) (q : HReq) (ph a : Nat) (hμ : Within 0x8010003e004000245000000000000000000000000000000000000000000000000004000000000000000000000000101f20000000 μ) (hκ : Agree μ ω d) : Agree μ ω ((cmdResume).run d die q ph a).d := by
  skip
  unfold cmdResume
  repeat' (first | with_reducible assumption | intro _ | (simp only [id_eq]) | (with_reducible refine Dev.engResumeAll_kp (hμ := hμ.up (by decide)) (hκ := ?_) ..) | (with_reducible refine Dev.hArg_kp (hμ := hμ.up (by decide)) (hκ := ?_) ..) | (with_reducible refine Dev.hBad_kp (hμ := hμ.up (by decide)) (hκ := ?_) ..) | (with_reducible refine Dev.hOk_kp (hμ := hμ.up (by decide)) (hκ := ?_) ..) | (with_reducible apply Agree.ite) | (with_reducible apply Agree.foldl) | (with_reducible apply Agree.foldl_fst) | (with_reducible apply Agree.foldl_snd) | split)

theorem Dev.srcRead_kp {μ : Nat} {ω : Dev} (d : Dev) (g : Nat) (n : Nat)  (hμ : Within 0x8000080003c00024500000000000000000000000000000000000000000000000000000001c3b303c000000000000000000000000 μ) (hκ : Agree μ ω d) : Agree μ ω (Dev.srcRead d g n).2 := by
  unfold Dev.srcRead
  repeat' (first | with_reducible assumption | intro _ | (simp only [id_eq]) | (with_reducible refine Dev.hbLoad_kp' (heq := by with_reducible assumption) (hμ := hμ.up (by decide)) (hκ := ?_) ..) | (with_reducible refine Dev.hbLoad_kp (hμ := hμ.up (by decide)) (hκ := ?_) ..) | (with_reducible refine Dev.sbLoad_kp' (heq := by with_reducible assumption) (hμ := hμ.up (by decide)) (hκ := ?_) ..) | (with_reducible refine Dev.sbLoad_kp (hμ := hμ.up (by decide)) (hκ := ?_) ..) | (with_reducible apply Agree.ite) | split)

theorem Dev.srcRead_kp' {μ : Nat} {ω : Dev} {d : Dev} {g : Nat} {n : Nat} {y0} {rd : Dev} (heq : Dev.srcRead d g n = (y0, rd))  (hμ : Within 0x8000080003c00024500000000000000000000000000000000000000000000000000000001c3b303c000000000000000000000000 μ) (hκ : Agree μ ω d) : Agree μ ω rd := by
  have k := Dev.srcRead_kp (μ := μ) (ω := ω) d g n  (hμ := hμ) (hκ := hκ); rw [heq] at k; exact k

theorem Dev.secSource_kp {μ : Nat} {ω : Dev} (d : Dev) (die : Nat) (s : PSec) (j : Nat) (far : Bytes)  (hμ : Within 0x8000080003c00024500000000000000000000000000000000000000000000000000000001c3b303c000000000000000000000000 μ) (hκ : Agree μ ω d) : Agree μ ω (Dev.secSource d die s j far).2 := by
  unfold Dev.secSource
  repeat' (first | with_reducible assumption | intro _ | (simp only [id_eq]) | (with_reducible refine Dev.srcRead_kp' (heq := by with_reducible assumption) (hμ := hμ.up (by decide)) (hκ := ?_) ..) | (with_reducible refine Dev.srcRead_kp (hμ := hμ.up (by decide)) (hκ := ?_) ..) | (with_reducible apply Agree.ite) | split)

theorem Dev.secSource_kp' {μ : Nat} {ω : Dev} {d : Dev} {die : Nat} {s : PSec} {j : Nat} {far : Bytes} {y0} {rd : Dev} (heq : Dev.secSource d die s j far = (y0, rd))  (hμ : Within 0x8000080003c00024500000000000000000000000000000000000000000000000000000001c3b303c000000000000000000000000 μ) (hκ : Agree μ ω d) : Agree μ ω rd := by
  have k := Dev.secSource_kp (μ := μ) (ω := ω) d die s j far  (hμ := hμ) (hκ := hκ); rw [heq] at k; exact k

theorem Dev.secLoad_kp {μ : Nat} {ω : Dev} {d : Dev} {die : Nat} {s : PSec} {far : Bytes} {rd : Dev} (heq : Dev.secLoad d die s far = some rd)
    (hμ : Within 0x8000480003c000245000000000000000000000000000000000000000000000000000000c3c3b303c00000000007000001c038000 μ) (hκ : Agree μ ω d) : Agree μ ω rd := by
  have hf : ∀ (f : Option Dev → Nat × Nat → Option Dev) (l : List (Nat × Nat)) (q : Option Dev),
      (∀ q x e, f q x = some e → (∀ e', q = some e' → Agree μ ω e') → Agree μ ω e) →
      (∀ e, q = some e → Agree μ ω e) → ∀ e, l.foldl f q = some e → Agree μ ω e := by
    intro f l
    induction l with
    | nil => intro q _ hq e he; exact hq e he
    | cons a l ih => intro q hf hq e he; exact ih _ hf (fun e' he' => hf _ _ _ he' hq) e he
  unfold Dev.secLoad at heq
  split at heq
  · split at heq
    · contradiction
    · have h0 := Dev.secSource_kp' (by assumption) (hμ.up (by decide)) hκ
      split at heq
      · contradiction
      · refine hf _ _ _ ?_ (fun e he => by cases he; exact h0) _ heq
        intro q x e he hs
        cases q with
        | none => contradiction
        | some d' =>
          simp only at he
          split at he
          · contradiction
          · cases he
            exact Dev.spStore_kp (hμ := hμ.up (by decide)) (hκ := Dev.secSource_kp' (by assumption) (hμ.up (by decide)) (hs d' rfl)) ..
  · split at heq
    · contradiction
    · have h0 := Dev.secSource_kp' (by assumption) (hμ.up (by decide)) hκ
      split at heq
      · contradiction
      · cases heq; exact Dev.sbStore_kp (hμ := hμ.up (by decide)) (hκ := h0) ..
  all_goals
    cases heq
    repeat' (first | with_reducible assumption | intro _ | (simp only [id_eq]) | (with_reducible refine Dev.put_kp (hf := by first | assumption | exact hμ.bit rfl) (hμ := hμ.up (by decide)) (hκ := ?_) ..) | (with_reducible refine Dev.sbStore_kp (hμ := hμ.up (by decide)) (hκ := ?_) ..) | (with_reducible refine Dev.secSource_kp' (heq := by with_reducible assumption) (hμ := hμ.up (by decide)) (hκ := ?_) ..) | (with_reducible refine Dev.secSource_kp (hμ := hμ.up (by decide)) (hκ := ?_) ..) | (with_reducible refine Dev.spStore_kp (hμ := hμ.up (by decide)) (hκ := ?_) ..) | (with_reducible apply Agree.ite) | (with_reducible apply Agree.foldl) | (with_reducible apply Agree.foldl_fst) | (with_reducible apply Agree.foldl_snd) | split)

theorem Dev.secRun_kp {μ : Nat} {ω : Dev} (d : Dev) (die : Nat) (q : HReq) (far : List Bytes) (k n : Nat) (hμ : Within 0x8000480003c000245000000000000000000000000000000000000000000000000000000c3c3b303c00000000007000001c038000 μ) (hκ : Agree μ ω d) :
    Agree μ ω (Dev.secRun d die q far k n).1 := by
  induction n generalizing d k with
  | zero => exact hκ
  | succ n ih =>
    unfold Dev.secRun
    split
    · exact hκ
    · exact ih _ _ (Dev.secLoad_kp (by assumption) (hμ.up (by decide)) hκ)

theorem Dev.secRun_kp' {μ : Nat} {ω : Dev} {d : Dev} {die : Nat} {q : HReq} {far : List Bytes} {k n : Nat} {rd : Dev} {y}
    (heq : Dev.secRun d die q far k n = (rd, y)) (hμ : Within 0x8000480003c000245000000000000000000000000000000000000000000000000000000c3c3b303c00000000007000001c038000 μ) (hκ : Agree μ ω d) : Agree μ ω rd := by
  have g := Dev.secRun_kp (μ := μ) (ω := ω) d die q far k n hμ hκ; rw [heq] at g; exact g

theorem cmdLoad_kp {μ : Nat} {ω : Dev} (far : List Bytes) (d : Dev) (die : Nat) (q : HReq) (ph a : Nat) (hμ : Within 0x8000480003c000245000000000000000000000000000000000000000000000000000000c3c3b303c00000000007000001c038000 μ) (hκ : Agree μ ω d) : Agree μ ω ((cmdLoad far).run d die q ph a).d := by
  skip
  unfold cmdLoad
  repeat' (first | with_reducible assumption | intro _ | (simp only [id_eq]) | (with_reducible refine Dev.hDone_kp (hμ := hμ.up (by decide)) (hκ := ?_) ..) | (with_reducible refine Dev.hMore_kp (hμ := hμ.up (by decide)) (hκ := ?_) ..) | (with_reducible refine Dev.hOk_kp (hμ := hμ.up (by decide)) (hκ := ?_) ..) | (with_reducible refine Dev.secRun_kp' (heq := by with_reducible assumption) (hμ := hμ.up (by decide)) (hκ := ?_) ..) | (with_reducible refine Dev.secRun_kp (hμ := hμ.up (by decide)) (hκ := ?_) ..) | (with_reducible apply Agree.ite) | split)

theorem Dev.planGo_kp {μ : Nat} {ω : Dev} (d : Dev) (die : Nat) (q : HReq)  (hμ : Within 0x2000000052000000000000000000000000000000000000000000000000000000000000000000000000000000001e00001fe0000000 μ) (hκ : Agree μ ω d) : Agree μ ω (Dev.planGo d die q).d := by
  unfold Dev.planGo
  repeat' (first | with_reducible assumption | intro _ | (simp only [id_eq]) | (with_reducible refine Dev.bcastTo_kp (hμ := hμ.up (by decide)) (hκ := ?_) ..) | (with_reducible refine Dev.dspStart_kp (hμ := hμ.up (by decide)) (hκ := ?_) ..) | (with_reducible refine Dev.engStart_kp (hμ := hμ.up (by decide)) (hκ := ?_) ..) | (with_reducible refine Dev.hArg_kp (hμ := hμ.up (by decide)) (hκ := ?_) ..) | (with_reducible refine Dev.hBad_kp (hμ := hμ.up (by decide)) (hκ := ?_) ..) | (with_reducible refine Dev.hOk_kp (hμ := hμ.up (by decide)) (hκ := ?_) ..) | (with_reducible refine Dev.modStew_kp (hμ := hμ.up (by decide)) (hκ := ?_) ..) | (with_reducible apply Agree.ite) | (with_reducible apply Agree.foldl) | (with_reducible apply Agree.foldl_fst) | (with_reducible apply Agree.foldl_snd) | split)

theorem cmdStart_kp {μ : Nat} {ω : Dev}  (d : Dev) (die : Nat) (q : HReq) (ph a : Nat) (hμ : Within 0x2000000052000000000000000000000000000000000000000000000000000000000000000000000000000000001e00001fe0000000 μ) (hκ : Agree μ ω d) : Agree μ ω ((cmdStart).run d die q ph a).d := by
  skip
  unfold cmdStart
  repeat' (first | with_reducible assumption | intro _ | (simp only [id_eq]) | (with_reducible refine Dev.planGo_kp (hμ := hμ.up (by decide)) (hκ := ?_) ..) | (with_reducible apply Agree.ite) | split)

theorem Dev.planDone_kp {μ : Nat} {ω : Dev} (d : Dev) (die : Nat) (n : Nat)  (hμ : Within 0x2480000000000000245000000004002904000000000000000000000000000000000000000000000000000000000000000000000000 μ) (hκ : Agree μ ω d) : Agree μ ω (Dev.planDone d die n) := by
  unfold Dev.planDone
  repeat' (first | with_reducible assumption | intro _ | (simp only [id_eq]) | (with_reducible refine Dev.helEvent_kp (hμ := hμ.up (by decide)) (hκ := ?_) ..) | (with_reducible refine Dev.leadSend_kp' (heq := by with_reducible assumption) (hμ := hμ.up (by decide)) (hκ := ?_) ..) | (with_reducible refine Dev.leadSend_kp (hμ := hμ.up (by decide)) (hκ := ?_) ..) | (with_reducible refine Dev.modStew_kp (hμ := hμ.up (by decide)) (hκ := ?_) ..) | (with_reducible apply Agree.ite) | split)

theorem cmdAbort_kp {μ : Nat} {ω : Dev}  (d : Dev) (die : Nat) (q : HReq) (ph a : Nat) (hμ : Within 0x52000000000000000000000000000000000000000000000000000000000000000000000000000000000200000020000000 μ) (hκ : Agree μ ω d) : Agree μ ω ((cmdAbort).run d die q ph a).d := by
  skip
  unfold cmdAbort
  repeat' (first | with_reducible assumption | intro _ | (simp only [id_eq]) | (with_reducible refine Dev.hArg_kp (hμ := hμ.up (by decide)) (hκ := ?_) ..) | (with_reducible refine Dev.hBad_kp (hμ := hμ.up (by decide)) (hκ := ?_) ..) | (with_reducible refine Dev.hMore_kp (hμ := hμ.up (by decide)) (hκ := ?_) ..) | (with_reducible refine Dev.hOk_kp (hμ := hμ.up (by decide)) (hκ := ?_) ..) | (with_reducible refine Dev.partAbort_kp (hμ := hμ.up (by decide)) (hκ := ?_) ..) | (with_reducible apply Agree.ite) | split)

theorem cmdStatus_kp {μ : Nat} {ω : Dev}  (d : Dev) (die : Nat) (q : HReq) (ph a : Nat) (hμ : Within 0x0 μ) (hκ : Agree μ ω d) : Agree μ ω ((cmdStatus).run d die q ph a).d := by
  skip
  unfold cmdStatus
  repeat' (first | with_reducible assumption | intro _ | (simp only [id_eq]) | (with_reducible refine Dev.hArg_kp (hμ := hμ.up (by decide)) (hκ := ?_) ..) | (with_reducible refine Dev.hBad_kp (hμ := hμ.up (by decide)) (hκ := ?_) ..) | (with_reducible refine Dev.hOk_kp (hμ := hμ.up (by decide)) (hκ := ?_) ..) | (with_reducible apply Agree.ite) | split)

theorem Dev.faultRead_kp {μ : Nat} {ω : Dev} (d : Dev) (q : HReq)  (hμ : Within 0x43000000000000000000000000000000000000000000000000000000000000000000000000000000000000000 μ) (hκ : Agree μ ω d) : Agree μ ω (Dev.faultRead d q).d := by
  unfold Dev.faultRead
  repeat' (first | with_reducible assumption | intro _ | (simp only [id_eq]) | (with_reducible refine Dev.fltPop_kp (hμ := hμ.up (by decide)) (hκ := ?_) ..) | (with_reducible refine Dev.hArg_kp (hμ := hμ.up (by decide)) (hκ := ?_) ..) | (with_reducible refine Dev.hOk_kp (hμ := hμ.up (by decide)) (hκ := ?_) ..) | (with_reducible refine Dev.put_kp (hf := by first | assumption | exact hμ.bit rfl) (hμ := hμ.up (by decide)) (hκ := ?_) ..) | (with_reducible apply Agree.ite) | (with_reducible apply Agree.foldl) | (with_reducible apply Agree.foldl_fst) | (with_reducible apply Agree.foldl_snd) | split)

theorem cmdFaultRead_kp {μ : Nat} {ω : Dev}  (d : Dev) (die : Nat) (q : HReq) (ph a : Nat) (hμ : Within 0x43000000000000000000000000000000000000000000000000000000000000000000000000000000000000000 μ) (hκ : Agree μ ω d) : Agree μ ω ((cmdFaultRead).run d die q ph a).d := by
  skip
  unfold cmdFaultRead
  repeat' (first | with_reducible assumption | intro _ | (simp only [id_eq]) | (with_reducible refine Dev.faultRead_kp (hμ := hμ.up (by decide)) (hκ := ?_) ..) | (with_reducible apply Agree.ite) | split)

theorem Dev.subPut_kp {μ : Nat} {ω : Dev} (d : Dev) (j : Nat) (sub : Nat) (slot : Nat) (port : Nat) (q : HReq)  (hμ : Within 0x1f0000000000000000000000000000000000000000000000000000000000000000000000000 μ) (hκ : Agree μ ω d) : Agree μ ω (Dev.subPut d j sub slot port q) := by
  unfold Dev.subPut
  repeat' (first | with_reducible assumption | intro _ | (simp only [id_eq]) | (with_reducible refine Dev.put_kp (hf := by first | assumption | exact hμ.bit rfl) (hμ := hμ.up (by decide)) (hκ := ?_) ..) | (with_reducible apply Agree.ite) | (with_reducible apply Agree.foldl) | (with_reducible apply Agree.foldl_fst) | (with_reducible apply Agree.foldl_snd) | split)

theorem Dev.subscribe_kp {μ : Nat} {ω : Dev} (d : Dev) (die : Nat) (q : HReq)  (hμ : Within 0x20000000000000000000000000000001f0000000000000000000000000000000000000000000000000000000000000000000000000 μ) (hκ : Agree μ ω d) : Agree μ ω (Dev.subscribe d die q).d := by
  unfold Dev.subscribe
  repeat' (first | with_reducible assumption | intro _ | (simp only [id_eq]) | (with_reducible refine Dev.hArg_kp (hμ := hμ.up (by decide)) (hκ := ?_) ..) | (with_reducible refine Dev.hDone_kp (hμ := hμ.up (by decide)) (hκ := ?_) ..) | (with_reducible refine Dev.hOk_kp (hμ := hμ.up (by decide)) (hκ := ?_) ..) | (with_reducible refine Dev.modStew_kp (hμ := hμ.up (by decide)) (hκ := ?_) ..) | (with_reducible refine Dev.put_kp (hf := by first | assumption | exact hμ.bit rfl) (hμ := hμ.up (by decide)) (hκ := ?_) ..) | (with_reducible refine Dev.subPut_kp (hμ := hμ.up (by decide)) (hκ := ?_) ..) | (with_reducible apply Agree.ite) | (with_reducible apply Agree.foldl) | (with_reducible apply Agree.foldl_fst) | (with_reducible apply Agree.foldl_snd) | split)

theorem cmdSubscribe_kp {μ : Nat} {ω : Dev}  (d : Dev) (die : Nat) (q : HReq) (ph a : Nat) (hμ : Within 0x20000000000000000000000000000001f0000000000000000000000000000000000000000000000000000000000000000000000000 μ) (hκ : Agree μ ω d) : Agree μ ω ((cmdSubscribe).run d die q ph a).d := by
  skip
  unfold cmdSubscribe
  repeat' (first | with_reducible assumption | intro _ | (simp only [id_eq]) | (with_reducible refine Dev.subscribe_kp (hμ := hμ.up (by decide)) (hκ := ?_) ..) | (with_reducible apply Agree.ite) | split)

theorem Dev.ageRec_kp {μ : Nat} {ω : Dev} (d : Dev) (die : Nat) (code : Nat) (unit : Nat) (info : Nat)  (hμ : Within 0x80000000000000345000000000000000000000000000000000000000000000000000000000000000000000000000000000000000 μ) (hκ : Agree μ ω d) : Agree μ ω (Dev.ageRec d die code unit info) := by
  unfold Dev.ageRec
  repeat' (first | with_reducible assumption | intro _ | (simp only [id_eq]) | (with_reducible refine Dev.stwPost_kp (hμ := hμ.up (by decide)) (hκ := ?_) ..) | (with_reducible apply Agree.ite) | split)

theorem Dev.ageRecs_kp {μ : Nat} {ω : Dev} (d : Dev) (die : Nat)  (hμ : Within 0x80000000000001345000000000000000000000000000000000000000000000000000000000000000000000000000000000000000 μ) (hκ : Agree μ ω d) : Agree μ ω (Dev.ageRecs d die) := by
  unfold Dev.ageRecs
  repeat' (first | with_reducible assumption | intro _ | (simp only [id_eq]) | (with_reducible refine Dev.ageRec_kp (hμ := hμ.up (by decide)) (hκ := ?_) ..) | (with_reducible refine Dev.put_kp (hf := by first | assumption | exact hμ.bit rfl) (hμ := hμ.up (by decide)) (hκ := ?_) ..) | (with_reducible apply Agree.ite) | (with_reducible apply Agree.foldl) | (with_reducible apply Agree.foldl_fst) | (with_reducible apply Agree.foldl_snd) | split)

theorem Dev.ageTake_kp {μ : Nat} {ω : Dev} (d : Dev) (die : Nat) (a : AgeRes)  (hμ : Within 0x80000000000049345000000000000000000000000000000000000000080000000000000000000000010000000000000000000000 μ) (hκ : Agree μ ω d) : Agree μ ω (Dev.ageTake d die a) := by
  unfold Dev.ageTake
  repeat' (first | with_reducible assumption | intro _ | (simp only [id_eq]) | (with_reducible refine Dev.setKey_kp _ _ _ _ _ _ (by first | assumption | exact hμ.bit (by decide) | exact hall _) ?_) | (with_reducible refine Dev.setRaw_kp _ _ _ (by assumption) ?_) | (with_reducible refine Dev.ageRecs_kp (hμ := hμ.up (by decide)) (hκ := ?_) ..) | (with_reducible refine Dev.count_kp (hf := by first | assumption | exact hμ.bit rfl) (hμ := hμ.up (by decide)) (hκ := ?_) ..) | (with_reducible refine Dev.put_kp (hf := by first | assumption | exact hμ.bit rfl) (hμ := hμ.up (by decide)) (hκ := ?_) ..) | (with_reducible apply Agree.ite) | (with_reducible apply Agree.foldl) | (with_reducible apply Agree.foldl_fst) | (with_reducible apply Agree.foldl_snd) | split)

theorem Dev.ageSample_kp {μ : Nat} {ω : Dev} (d : Dev) (die : Nat) (a : AgeRes)  (hμ : Within 0x10080000000000049345000000000000000000000000000000000000000080000000000000000000000010000000000000000000000 μ) (hκ : Agree μ ω d) : Agree μ ω (Dev.ageSample d die a) := by
  unfold Dev.ageSample
  repeat' (first | with_reducible assumption | intro _ | (simp only [id_eq]) | (with_reducible refine Dev.ageTake_kp (hμ := hμ.up (by decide)) (hκ := ?_) ..) | (with_reducible refine Dev.modPw_kp (hμ := hμ.up (by decide)) (hκ := ?_) ..) | (with_reducible apply Agree.ite) | split)

theorem Dev.ageNow_kp {μ : Nat} {ω : Dev} (d : Dev) (die : Nat) (a : AgeRes)  (hμ : Within 0x80000000000049345000000000000000000000000000000000000000080000000000000000000000010000000000000000000000 μ) (hκ : Agree μ ω d) : Agree μ ω (Dev.ageNow d die a) := by
  unfold Dev.ageNow
  repeat' (first | with_reducible assumption | intro _ | (simp only [id_eq]) | (with_reducible refine Dev.ageTake_kp (hμ := hμ.up (by decide)) (hκ := ?_) ..) | (with_reducible apply Agree.ite) | split)

theorem Dev.marginEval_kp {μ : Nat} {ω : Dev} (d : Dev) (die : Nat)  (hμ : Within 0x2480000000000000245000000004002904000000000000000000000000000000000000000000000000000000000000000000000000 μ) (hκ : Agree μ ω d) : Agree μ ω (Dev.marginEval d die) := by
  unfold Dev.marginEval
  repeat' (first | with_reducible assumption | intro _ | (simp only [id_eq]) | (with_reducible refine Dev.helEvent_kp (hμ := hμ.up (by decide)) (hκ := ?_) ..) | (with_reducible refine Dev.leadSend_kp' (heq := by with_reducible assumption) (hμ := hμ.up (by decide)) (hκ := ?_) ..) | (with_reducible refine Dev.leadSend_kp (hμ := hμ.up (by decide)) (hκ := ?_) ..) | (with_reducible refine Dev.modStew_kp (hμ := hμ.up (by decide)) (hκ := ?_) ..) | (with_reducible apply Agree.ite) | split)

theorem cmdMarginReport_kp {μ : Nat} {ω : Dev}  (d : Dev) (die : Nat) (q : HReq) (ph a : Nat) (hμ : Within 0x0 μ) (hκ : Agree μ ω d) : Agree μ ω ((cmdMarginReport).run d die q ph a).d := by
  skip
  unfold cmdMarginReport
  repeat' (first | with_reducible assumption | intro _ | (simp only [id_eq]) | (with_reducible refine Dev.hArg_kp (hμ := hμ.up (by decide)) (hκ := ?_) ..) | (with_reducible refine Dev.hOk_kp (hμ := hμ.up (by decide)) (hκ := ?_) ..) | (with_reducible apply Agree.ite) | split)

theorem Dev.marginPend_kp {μ : Nat} {ω : Dev} (d : Dev) (die : Nat) (p : Bytes)  (hμ : Within 0x80000000000000000000000000000000000000000000000000000000000000000000000000000000000000000000 μ) (hκ : Agree μ ω d) : Agree μ ω (Dev.marginPend d die p) := by
  unfold Dev.marginPend
  repeat' (first | with_reducible assumption | intro _ | (simp only [id_eq]) | (with_reducible refine Dev.put_kp (hf := by first | assumption | exact hμ.bit rfl) (hμ := hμ.up (by decide)) (hκ := ?_) ..) | (with_reducible apply Agree.ite) | (with_reducible apply Agree.foldl) | (with_reducible apply Agree.foldl_fst) | (with_reducible apply Agree.foldl_snd) | split)

theorem cmdMarginApply_kp {μ : Nat} {ω : Dev}  (d : Dev) (die : Nat) (q : HReq) (ph a : Nat) (hμ : Within 0x2000000000000080000000000000000000000000000000000000000000000000000000000000000000000000000000000000000000 μ) (hκ : Agree μ ω d) : Agree μ ω ((cmdMarginApply).run d die q ph a).d := by
  skip
  unfold cmdMarginApply
  repeat' (first | with_reducible assumption | intro _ | (simp only [id_eq]) | (with_reducible refine Dev.hArg_kp (hμ := hμ.up (by decide)) (hκ := ?_) ..) | (with_reducible refine Dev.hBad_kp (hμ := hμ.up (by decide)) (hκ := ?_) ..) | (with_reducible refine Dev.hDone_kp (hμ := hμ.up (by decide)) (hκ := ?_) ..) | (with_reducible refine Dev.hOk_kp (hμ := hμ.up (by decide)) (hκ := ?_) ..) | (with_reducible refine Dev.marginPend_kp (hμ := hμ.up (by decide)) (hκ := ?_) ..) | (with_reducible refine Dev.modStew_kp (hμ := hμ.up (by decide)) (hκ := ?_) ..) | (with_reducible apply Agree.ite) | (with_reducible apply Agree.foldl) | (with_reducible apply Agree.foldl_fst) | (with_reducible apply Agree.foldl_snd) | split)

theorem Dev.i3cRefresh_kp {μ : Nat} {ω : Dev} (d : Dev) (die : Nat)  (hμ : Within 0x40000000000000000000000000000000000000000000000000000000000000000000000000000000000000000000000000000000000 μ) (hκ : Agree μ ω d) : Agree μ ω (Dev.i3cRefresh d die) := by
  unfold Dev.i3cRefresh
  repeat' (first | with_reducible assumption | intro _ | (simp only [id_eq]) | (simp only [Agree.set_i3c (hμ.bit (by decide))]) | (with_reducible refine Dev.put_kp (hf := by first | assumption | exact hμ.bit rfl) (hμ := hμ.up (by decide)) (hκ := ?_) ..) | (with_reducible apply Agree.ite) | split)

theorem Dev.i3cRead_kp {μ : Nat} {ω : Dev} (d : Dev) (die : Nat) (addr : Nat) (n : Nat)  (hμ : Within 0x80000000000000000000000000000000000000000000000000000000000000000000000000000000000000000000000000000000000 μ) (hκ : Agree μ ω d) : Agree μ ω (Dev.i3cRead d die addr n) := by
  unfold Dev.i3cRead
  repeat' (first | with_reducible assumption | intro _ | (simp only [id_eq]) | (simp only [Agree.set_i3cOut (hμ.bit (by decide))]) | (with_reducible refine Dev.put_kp (hf := by first | assumption | exact hμ.bit rfl) (hμ := hμ.up (by decide)) (hκ := ?_) ..) | (with_reducible apply Agree.ite) | split)

theorem Dev.i3cWrite_kp {μ : Nat} {ω : Dev} (d : Dev) (die : Nat) (addr : Nat)  (hμ : Within 0x80000000000000000000000000000000000000000000000000000000000000000000000000000000000000000000000000000000000 μ) (hκ : Agree μ ω d) : Agree μ ω (Dev.i3cWrite d die addr) := by
  unfold Dev.i3cWrite
  repeat' (first | with_reducible assumption | intro _ | (simp only [id_eq]) | (simp only [Agree.set_i3cOut (hμ.bit (by decide))]) | (with_reducible refine Dev.put_kp (hf := by first | assumption | exact hμ.bit rfl) (hμ := hμ.up (by decide)) (hκ := ?_) ..) | (with_reducible apply Agree.ite) | split)

theorem Dev.i3cCcc_kp {μ : Nat} {ω : Dev} (d : Dev) (die : Nat) (code : Nat) (addr : Nat)  (hμ : Within 0xc0000000000000000000000000000000000000000000000000000000000000000000000000000000000000000000000000000000000 μ) (hκ : Agree μ ω d) : Agree μ ω (Dev.i3cCcc d die code addr) := by
  unfold Dev.i3cCcc
  repeat' (first | with_reducible assumption | intro _ | (simp only [id_eq]) | (simp only [Agree.set_i3c (hμ.bit (by decide))]) | (simp only [Agree.set_i3cOut (hμ.bit (by decide))]) | (with_reducible refine Dev.put_kp (hf := by first | assumption | exact hμ.bit rfl) (hμ := hμ.up (by decide)) (hκ := ?_) ..) | (with_reducible apply Agree.ite) | split)

theorem Dev.lapLate_kp {μ : Nat} {ω : Dev} (d : Dev) (mem : Nat) (die : Nat) (stack : Nat)  (hμ : Within 0x80000000000000245000000000000000000000000000000000000000000000000000000000000000000000000000000000000000 μ) (hκ : Agree μ ω d) : Agree μ ω (Dev.lapLate d mem die stack) := by
  unfold Dev.lapLate
  repeat' (first | with_reducible assumption | intro _ | (simp only [id_eq]) | (with_reducible refine Dev.post_kp (hμ := hμ.up (by decide)) (hκ := ?_) ..) | (with_reducible apply Agree.ite) | split)

theorem Dev.lapEnd_kp {μ : Nat} {ω : Dev} (d : Dev) (mem : Nat) (die : Nat) (unit : Nat) (t : Nat)  (hμ : Within 0x80000000000000245000000000000000000000000000000000000000000000000000000003000180000000000000000000000000 μ) (hκ : Agree μ ω d) : Agree μ ω (Dev.lapEnd d mem die unit t) := by
  unfold Dev.lapEnd
  repeat' (first | with_reducible assumption | intro _ | (simp only [id_eq]) | (with_reducible refine Dev.count_kp (hf := by first | assumption | exact hμ.bit rfl) (hμ := hμ.up (by decide)) (hκ := ?_) ..) | (with_reducible refine Dev.lapLate_kp (hμ := hμ.up (by decide)) (hκ := ?_) ..) | (with_reducible refine Dev.put_kp (hf := by first | assumption | exact hμ.bit rfl) (hμ := hμ.up (by decide)) (hκ := ?_) ..) | (with_reducible apply Agree.ite) | (with_reducible apply Agree.foldl) | (with_reducible apply Agree.foldl_fst) | (with_reducible apply Agree.foldl_snd) | split)

theorem Dev.scrubStep_kp {μ : Nat} {ω : Dev} (d : Dev) (mem : Nat) (die : Nat) (unit : Nat)  (hμ : Within 0x80008000000000245000000000000000000000000000000000000000000000000000000003000180000000000000000000000000 μ) (hκ : Agree μ ω d) : Agree μ ω (Dev.scrubStep d mem die unit) := by
  unfold Dev.scrubStep
  repeat' (first | with_reducible assumption | intro _ | (simp only [id_eq]) | (simp only [Agree.set_scrub (hμ.bit (by decide))]) | (with_reducible refine Dev.lapEnd_kp (hμ := hμ.up (by decide)) (hκ := ?_) ..) | (with_reducible refine Dev.put_kp (hf := by first | assumption | exact hμ.bit rfl) (hμ := hμ.up (by decide)) (hκ := ?_) ..) | (with_reducible apply Agree.ite) | split)

theorem Dev.sramUe_kp {μ : Nat} {ω : Dev} (d : Dev) (mem : Nat) (die : Nat) (part : Nat) (info : Nat) (addr : Nat)  (hμ : Within 0x80000000000000245000000000000000000000000000000000000000000000000000000000000000000000000000000000000000 μ) (hκ : Agree μ ω d) : Agree μ ω (Dev.sramUe d mem die part info addr) := by
  unfold Dev.sramUe
  repeat' (first | with_reducible assumption | intro _ | (simp only [id_eq]) | (with_reducible refine Dev.post_kp (hμ := hμ.up (by decide)) (hκ := ?_) ..) | (with_reducible apply Agree.ite) | split)

theorem Dev.wbackPut_kp {μ : Nat} {ω : Dev} (d : Dev) (a : Nat) (w : Nat) (good : Bytes)  (hμ : Within 0x10000000000000000000000000000000000000000000000000000000000000000000000000000000000000000000000000000 μ) (hκ : Agree μ ω d) : Agree μ ω (Dev.wbackPut d a w good) := by
  unfold Dev.wbackPut
  repeat' (first | with_reducible assumption | intro _ | (simp only [id_eq]) | (simp only [Agree.set_wback (hμ.bit (by decide))]) | (with_reducible apply Agree.ite) | split)

theorem Dev.scrubSb_kp {μ : Nat} {ω : Dev} (d : Dev) (die : Nat) (woff : Nat)  (hμ : Within 0x8001000000400024500000000000000000000000000000000000000000000000000000001c000000000000000000000000000000 μ) (hκ : Agree μ ω d) : Agree μ ω (Dev.scrubSb d die woff) := by
  unfold Dev.scrubSb
  repeat' (first | with_reducible assumption | intro _ | (simp only [id_eq]) | (with_reducible refine Dev.draw_kp' (heq := by with_reducible assumption) (hμ := hμ.up (by decide)) (hκ := ?_) ..) | (with_reducible refine Dev.draw_kp (hμ := hμ.up (by decide)) (hκ := ?_) ..) | (with_reducible refine Dev.sbCount_kp (hμ := hμ.up (by decide)) (hκ := ?_) ..) | (with_reducible refine Dev.sramUe_kp (hμ := hμ.up (by decide)) (hκ := ?_) ..) | (with_reducible refine Dev.wbackPut_kp (hμ := hμ.up (by decide)) (hκ := ?_) ..) | (with_reducible apply Agree.ite) | split)

theorem Dev.scrubSp_kp {μ : Nat} {ω : Dev} (d : Dev) (key : Nat) (off : Nat)  (hμ : Within 0x80010000004000245000000000000000000000000000000000000000000000000000000c00000000000000000000000000000000 μ) (hκ : Agree μ ω d) : Agree μ ω (Dev.scrubSp d key off) := by
  unfold Dev.scrubSp
  repeat' (first | with_reducible assumption | intro _ | (simp only [id_eq]) | (with_reducible refine Dev.draw_kp' (heq := by with_reducible assumption) (hμ := hμ.up (by decide)) (hκ := ?_) ..) | (with_reducible refine Dev.draw_kp (hμ := hμ.up (by decide)) (hκ := ?_) ..) | (with_reducible refine Dev.spCount_kp (hμ := hμ.up (by decide)) (hκ := ?_) ..) | (with_reducible refine Dev.sramUe_kp (hμ := hμ.up (by decide)) (hκ := ?_) ..) | (with_reducible refine Dev.wbackPut_kp (hμ := hμ.up (by decide)) (hκ := ?_) ..) | (with_reducible apply Agree.ite) | split)

theorem Dev.scrubRead_kp {μ : Nat} {ω : Dev} (d : Dev) (mem : Nat) (die : Nat) (unit : Nat) (again : List (Nat × Nat))  (hμ : Within 0x8001880003c000245000000000000000000000000000000000000000000000000000000c1f3b31bc000000000000000000000000 μ) (hκ : Agree μ ω d) : Agree μ ω (Dev.scrubRead d mem die unit again) := by
  unfold Dev.scrubRead
  repeat' (first | with_reducible assumption | intro _ | (simp only [id_eq]) | (with_reducible refine Dev.hbLoad_kp' (heq := by with_reducible assumption) (hμ := hμ.up (by decide)) (hκ := ?_) ..) | (with_reducible refine Dev.hbLoad_kp (hμ := hμ.up (by decide)) (hκ := ?_) ..) | (with_reducible refine Dev.scrubSb_kp (hμ := hμ.up (by decide)) (hκ := ?_) ..) | (with_reducible refine Dev.scrubSp_kp (hμ := hμ.up (by decide)) (hκ := ?_) ..) | (with_reducible refine Dev.scrubStep_kp (hμ := hμ.up (by decide)) (hκ := ?_) ..) | (with_reducible apply Agree.ite) | split)

theorem Dev.scrubWback_kp {μ : Nat} {ω : Dev} (d : Dev) (n : Nat)  (hμ : Within 0x10000038000000000000000000000000000000000000000000000000000000000000000000000000000000000000000000000 μ) (hκ : Agree μ ω d) : Agree μ ω (Dev.scrubWback d n) := by
  unfold Dev.scrubWback
  repeat' (first | with_reducible assumption | intro _ | (simp only [id_eq]) | (simp only [Agree.set_wback (hμ.bit (by decide))]) | (with_reducible refine Dev.writeUnit_kp (hμ := hμ.up (by decide)) (hκ := ?_) ..) | (with_reducible apply Agree.ite) | split)

theorem Dev.mergeAge_kp {μ : Nat} {ω : Dev} (d : Dev) (die : Nat) (bank : Nat)  (hμ : Within 0x400003c00000000000000000000000000000000000000000000000000000000000003c000000000000000000000000000000 μ) (hκ : Agree μ ω d) : Agree μ ω (Dev.mergeAge d die bank) := by
  unfold Dev.mergeAge
  repeat' (first | with_reducible assumption | intro _ | (simp only [id_eq]) | (with_reducible refine Dev.sbApply_kp (hμ := hμ.up (by decide)) (hκ := ?_) ..) | (with_reducible apply Agree.ite) | split)

theorem Dev.mergeWrite_kp {μ : Nat} {ω : Dev} (d : Dev) (die : Nat) (bank : Nat)  (hμ : Within 0x400003c00000000000000000000000000000000000000000000000000000000000003c000000000000000000000000000000 μ) (hκ : Agree μ ω d) : Agree μ ω (Dev.mergeWrite d die bank) := by
  unfold Dev.mergeWrite
  repeat' (first | with_reducible assumption | intro _ | (simp only [id_eq]) | (with_reducible refine Dev.sbApply_kp (hμ := hμ.up (by decide)) (hκ := ?_) ..) | (with_reducible apply Agree.ite) | split)

theorem Dev.zfillWrite_kp {μ : Nat} {ω : Dev} (d : Dev) (die : Nat) (v : Nat)  (hμ : Within 0x40000000000000000000000000000000000000000000000000000000000000000000040000000000000000000000000000000 μ) (hκ : Agree μ ω d) : Agree μ ω (Dev.zfillWrite d die v) := by
  unfold Dev.zfillWrite
  repeat' (first | with_reducible assumption | intro _ | (simp only [id_eq]) | (simp only [Agree.set_zfill (hμ.bit (by decide))]) | (with_reducible refine Dev.put_kp (hf := by first | assumption | exact hμ.bit rfl) (hμ := hμ.up (by decide)) (hκ := ?_) ..) | (with_reducible apply Agree.ite) | split)

theorem Dev.zfillDone_kp {μ : Nat} {ω : Dev} (d : Dev) (die : Nat)  (hμ : Within 0x44000038000000000000000000000000000000000000000000000000000000000000040000000000000000000000000000000 μ) (hκ : Agree μ ω d) : Agree μ ω (Dev.zfillDone d die) := by
  unfold Dev.zfillDone
  repeat' (first | with_reducible assumption | intro _ | (simp only [id_eq]) | (simp only [Agree.set_zfill_mem_unwritten_errs_merge (hμ.bit (by decide)) (hμ.bit (by decide)) (hμ.bit (by decide)) (hμ.bit (by decide)) (hμ.bit (by decide))]) | (with_reducible refine Dev.put_kp (hf := by first | assumption | exact hμ.bit rfl) (hμ := hμ.up (by decide)) (hκ := ?_) ..) | (with_reducible apply Agree.ite) | split)

theorem Dev.stestRun_kp {μ : Nat} {ω : Dev} (d : Dev) (mem : Nat) (die : Nat) (i : Nat)  (hμ : Within 0x20000000000000000000000000000000000000000000000000000000000000000001080400000000000000000000000000000 μ) (hκ : Agree μ ω d) : Agree μ ω (Dev.stestRun d mem die i) := by
  unfold Dev.stestRun
  repeat' (first | with_reducible assumption | intro _ | (simp only [id_eq]) | (simp only [Agree.set_stest (hμ.bit (by decide))]) | (with_reducible refine Dev.setKey_kp _ _ _ _ _ _ (by first | assumption | exact hμ.bit (by decide) | exact hall _) ?_) | (with_reducible refine Dev.setRaw_kp _ _ _ (by assumption) ?_) | (with_reducible apply Agree.ite) | split)

theorem Dev.stestWrite_kp {μ : Nat} {ω : Dev} (d : Dev) (mem : Nat) (die : Nat) (i : Nat) (v : Nat)  (hμ : Within 0x20000000000000000000000000000000000000000000000000000000000000000001080400000000000000000000000000000 μ) (hκ : Agree μ ω d) : Agree μ ω (Dev.stestWrite d mem die i v) := by
  unfold Dev.stestWrite
  repeat' (first | with_reducible assumption | intro _ | (simp only [id_eq]) | (with_reducible refine Dev.stestRun_kp (hμ := hμ.up (by decide)) (hκ := ?_) ..) | (with_reducible apply Agree.ite) | split)

theorem Dev.regWrite_kp {μ : Nat} {ω : Dev} (d : Dev) (by_ die : Nat) (r : Reg) (i s v : Nat) (hμ : Within 0x39f9e76227fdbc2ffffffffffffffffffffffffffffffffffffffffffffffffffffffffffffffffffffffffffffffffffffffffffff μ) (hκ : Agree μ ω d) :
    Agree μ ω (d.regWrite by_ die r i s v) := by
  have hall : ∀ r : Reg, μ.testBit r.ctorIdx = true := fun r => (hμ.up (s := 0xffffffffffffffffffffffffffffffffffffffffffffffffffffffffffffffffffffffffffffffffffffffffffff) (by decide)).bit (Reg.all_bit r)
  unfold Dev.regWrite
  repeat' (first | with_reducible assumption | intro _ | (simp only [id_eq]) | (with_reducible refine Dev.setKey_kp _ _ _ _ _ _ (by first | assumption | exact hμ.bit (by decide) | exact hall _) ?_) | (with_reducible refine Dev.setRaw_kp _ _ _ (by assumption) ?_) | (with_reducible refine Dev.writeKey_kp _ _ _ _ _ _ _ (by first | assumption | exact hμ.bit (by decide) | exact hall _) ?_) | (with_reducible refine Dev.auxCtlWrite_kp (hμ := hμ.up (by decide)) (hκ := ?_) ..) | (with_reducible refine Dev.b0okClear_kp (hμ := hμ.up (by decide)) (hκ := ?_) ..) | (with_reducible refine Dev.bankAdd_kp (hμ := hμ.up (by decide)) (hκ := ?_) ..) | (with_reducible refine Dev.bankSet_kp (hμ := hμ.up (by decide)) (hκ := ?_) ..) | (with_reducible refine Dev.bcastWrite_kp (hμ := hμ.up (by decide)) (hκ := ?_) ..) | (with_reducible refine Dev.bootLock_kp (hμ := hμ.up (by decide)) (hκ := ?_) ..) | (with_reducible refine Dev.cellCtlWrite_kp (hμ := hμ.up (by decide)) (hκ := ?_) ..) | (with_reducible refine Dev.dspCtlWrite_kp (hμ := hμ.up (by decide)) (hκ := ?_) ..) | (with_reducible refine Dev.dspOvWrite_kp (hr := by first | assumption | exact hμ.bit rfl) (hμ := hμ.up (by decide)) (hκ := ?_) ..) | (with_reducible refine Dev.ectlWrite_kp (hμ := hμ.up (by decide)) (hκ := ?_) ..) | (with_reducible refine Dev.epochWrite_kp (hμ := hμ.up (by decide)) (hκ := ?_) ..) | (with_reducible refine Dev.ethCtlWrite_kp (hμ := hμ.up (by decide)) (hκ := ?_) ..) | (with_reducible refine Dev.fenceWrite_kp (hr := by first | assumption | exact hμ.bit rfl) (hμ := hμ.up (by decide)) (hκ := ?_) ..) | (with_reducible refine Dev.fltPop_kp (hμ := hμ.up (by decide)) (hκ := ?_) ..) | (with_reducible refine Dev.fltPost_kp (hμ := hμ.up (by decide)) (hκ := ?_) ..) | (with_reducible refine Dev.hbCtlWrite_kp (hμ := hμ.up (by decide)) (hκ := ?_) ..) | (with_reducible refine Dev.hbTmaxClr_kp (hμ := hμ.up (by decide)) (hκ := ?_) ..) | (with_reducible refine Dev.hubDbSet_kp (hμ := hμ.up (by decide)) (hκ := ?_) ..) | (with_reducible refine Dev.hwWrite_kp (hr := by first | assumption | exact hμ.bit rfl) (hμ := hμ.up (by decide)) (hκ := ?_) ..) | (with_reducible refine Dev.kmapWrite_kp (hμ := hμ.up (by decide)) (hκ := ?_) ..) | (with_reducible refine Dev.knkCtlWrite_kp (hμ := hμ.up (by decide)) (hκ := ?_) ..) | (with_reducible refine Dev.krgCmdWrite_kp (hμ := hμ.up (by decide)) (hκ := ?_) ..) | (with_reducible refine Dev.laneCtlWrite_kp (hμ := hμ.up (by decide)) (hκ := ?_) ..) | (with_reducible refine Dev.ldHubWrite_kp (hμ := hμ.up (by decide)) (hκ := ?_) ..) | (with_reducible refine Dev.ldctlWrite_kp (hμ := hμ.up (by decide)) (hκ := ?_) ..) | (with_reducible refine Dev.leadWrite_kp (hμ := hμ.up (by decide)) (hκ := ?_) ..) | (with_reducible refine Dev.mapSet_kp (hμ := hμ.up (by decide)) (hκ := ?_) ..) | (with_reducible refine Dev.measExtend_kp (hμ := hμ.up (by decide)) (hκ := ?_) ..) | (with_reducible refine Dev.ncWrite_kp (hμ := hμ.up (by decide)) (hκ := ?_) ..) | (with_reducible refine Dev.octlWrite_kp (hμ := hμ.up (by decide)) (hκ := ?_) ..) | (with_reducible refine Dev.opctlWrite_kp (hμ := hμ.up (by decide)) (hκ := ?_) ..) | (with_reducible refine Dev.pctlSet_kp (hμ := hμ.up (by decide)) (hκ := ?_) ..) | (with_reducible refine Dev.pdctlWrite_kp (hμ := hμ.up (by decide)) (hκ := ?_) ..) | (with_reducible refine Dev.plkCtlWrite_kp (hμ := hμ.up (by decide)) (hκ := ?_) ..) | (with_reducible refine Dev.prunWrite_kp (hμ := hμ.up (by decide)) (hκ := ?_) ..) | (with_reducible refine Dev.put_kp (hf := by first | assumption | exact hμ.bit rfl) (hμ := hμ.up (by decide)) (hκ := ?_) ..) | (with_reducible refine Dev.qctlWrite_kp (hμ := hμ.up (by decide)) (hκ := ?_) ..) | (with_reducible refine Dev.qpRegWrite_kp (hr := by first | assumption | exact hμ.bit rfl) (hμ := hμ.up (by decide)) (hκ := ?_) ..) | (with_reducible refine Dev.rangeWrite_kp (hμ := hμ.up (by decide)) (hκ := ?_) ..) | (with_reducible refine Dev.refctlWrite_kp (hμ := hμ.up (by decide)) (hκ := ?_) ..) | (with_reducible refine Dev.regionWrite_kp (hr := by first | assumption | exact hμ.bit rfl) (hμ := hμ.up (by decide)) (hκ := ?_) ..) | (with_reducible refine Dev.rkctlSet_kp (hμ := hμ.up (by decide)) (hκ := ?_) ..) | (with_reducible refine Dev.routeSet_kp (hμ := hμ.up (by decide)) (hκ := ?_) ..) | (with_reducible refine Dev.rrateSet_kp (hμ := hμ.up (by decide)) (hκ := ?_) ..) | (with_reducible refine Dev.rsetWrite_kp (hμ := hμ.up (by decide)) (hκ := ?_) ..) | (with_reducible refine Dev.stestWrite_kp (hμ := hμ.up (by decide)) (hκ := ?_) ..) | (with_reducible refine Dev.subWrite_kp (hμ := hμ.up (by decide)) (hκ := ?_) ..) | (with_reducible refine Dev.swCtlWrite_kp (hμ := hμ.up (by decide)) (hκ := ?_) ..) | (with_reducible refine Dev.tenCtlWrite_kp (hμ := hμ.up (by decide)) (hκ := ?_) ..) | (with_reducible refine Dev.tjWrite_kp (hμ := hμ.up (by decide)) (hκ := ?_) ..) | (with_reducible refine Dev.unfCtlWrite_kp (hμ := hμ.up (by decide)) (hκ := ?_) ..) | (with_reducible refine Dev.zfillWrite_kp (hμ := hμ.up (by decide)) (hκ := ?_) ..) | (with_reducible apply Agree.ite) | (with_reducible apply Agree.foldl) | (with_reducible apply Agree.foldl_fst) | (with_reducible apply Agree.foldl_snd) | split)

theorem Dev.stwResult_kp {μ : Nat} {ω : Dev} (d : Dev) (by_ : Nat) (bs : Bytes) (bad : Bool)  (hμ : Within 0x800000000000000000000000000000000000000000000000000000000000000000000000000000000000000000000000000000 μ) (hκ : Agree μ ω d) : Agree μ ω (Dev.stwResult d by_ bs bad) := by
  unfold Dev.stwResult
  repeat' (first | with_reducible assumption | intro _ | (simp only [id_eq]) | (simp only [Agree.set_stwIo (hμ.bit (by decide))]) | (with_reducible refine Dev.put_kp (hf := by first | assumption | exact hμ.bit rfl) (hμ := hμ.up (by decide)) (hκ := ?_) ..) | (with_reducible apply Agree.ite) | split)

theorem Dev.stwStore_kp {μ : Nat} {ω : Dev} (d : Dev) (by_ : Nat)  (hμ : Within 0x800000000000000000000000000000000000000000000000000000000000000000000000000000000000000000000000000000 μ) (hκ : Agree μ ω d) : Agree μ ω (Dev.stwStore d by_) := by
  unfold Dev.stwStore
  repeat' (first | with_reducible assumption | intro _ | (simp only [id_eq]) | (simp only [Agree.set_stwIo (hμ.bit (by decide))]) | (with_reducible refine Dev.put_kp (hf := by first | assumption | exact hμ.bit rfl) (hμ := hμ.up (by decide)) (hκ := ?_) ..) | (with_reducible apply Agree.ite) | split)

theorem Dev.stwAccess_kp {μ : Nat} {ω : Dev} (d : Dev) (by_ : Nat) (die : Nat) (act : Dev → Dev) (hact : ∀ a0, Agree μ ω a0 → Agree μ ω (act a0)) (hμ : Within 0x2080800000000000245000000004002000000000000000000000000000000000000000000000000000000000000000000000000000 μ) (hκ : Agree μ ω d) : Agree μ ω (Dev.stwAccess d by_ die act) := by
  unfold Dev.stwAccess
  repeat' (first | with_reducible assumption | intro _ | (simp only [id_eq]) | (with_reducible refine hact _ ?_) | (with_reducible refine Dev.demote_kp (hμ := hμ.up (by decide)) (hκ := ?_) ..) | (with_reducible refine Dev.leadAdmit_kp' (heq := by with_reducible assumption) (hμ := hμ.up (by decide)) (hκ := ?_) ..) | (with_reducible refine Dev.leadAdmit_kp (hμ := hμ.up (by decide)) (hκ := ?_) ..) | (with_reducible refine Dev.stwResult_kp (hμ := hμ.up (by decide)) (hκ := ?_) ..) | (with_reducible apply Agree.ite) | split)

theorem Dev.stwRead_kp {μ : Nat} {ω : Dev} (d : Dev) (by_ : Nat) (die : Nat) (off : Nat)  (hμ : Within 0x2080800000001000245000000004002000000000000000000000000000000000000000000000000000000000000000000000000000 μ) (hκ : Agree μ ω d) : Agree μ ω (Dev.stwRead d by_ die off) := by
  unfold Dev.stwRead
  repeat' (first | with_reducible assumption | intro _ | (simp only [id_eq]) | (simp only [Agree.set_capt (hμ.bit (by decide))]) | (with_reducible refine Dev.ctlMiss_kp (hμ := hμ.up (by decide)) (hκ := ?_) ..) | (with_reducible refine Dev.put_kp (hf := by first | assumption | exact hμ.bit rfl) (hμ := hμ.up (by decide)) (hκ := ?_) ..) | (with_reducible refine Dev.stwAccess_kp (hact := ?_) (hμ := hμ.up (by decide)) (hκ := ?_) ..) | (with_reducible refine Dev.stwResult_kp (hμ := hμ.up (by decide)) (hκ := ?_) ..) | (with_reducible apply Agree.ite) | split)

theorem Dev.stwWrite_kp {μ : Nat} {ω : Dev} (d : Dev) (by_ : Nat) (die : Nat) (off : Nat) (v : Nat)  (hμ : Within 0x3bf9ef6227fdbe2ffffffffffffffffffffffffffffffffffffffffffffffffffffffffffffffffffffffffffffffffffffffffffff μ) (hκ : Agree μ ω d) : Agree μ ω (Dev.stwWrite d by_ die off v) := by
  unfold Dev.stwWrite
  repeat' (first | with_reducible assumption | intro _ | (simp only [id_eq]) | (simp only [Agree.set_held (hμ.bit (by decide))]) | (with_reducible refine Dev.ctlMiss_kp (hμ := hμ.up (by decide)) (hκ := ?_) ..) | (with_reducible refine Dev.put_kp (hf := by first | assumption | exact hμ.bit rfl) (hμ := hμ.up (by decide)) (hκ := ?_) ..) | (with_reducible refine Dev.regWrite_kp (hμ := hμ.up (by decide)) (hκ := ?_) ..) | (with_reducible refine Dev.stwAccess_kp (hact := ?_) (hμ := hμ.up (by decide)) (hκ := ?_) ..) | (with_reducible apply Agree.ite) | split)

theorem Dev.loRead_kp {μ : Nat} {ω : Dev} (d : Dev) (by_ : Nat) (die : Nat) (off : Nat)  (hμ : Within 0x2080800000001000245000000004002000000000000000000000000000000000000000000000000000000000000000000000000000 μ) (hκ : Agree μ ω d) : Agree μ ω (Dev.loRead d by_ die off) := by
  unfold Dev.loRead
  repeat' (first | with_reducible assumption | intro _ | (simp only [id_eq]) | (with_reducible refine Dev.stwRead_kp (hμ := hμ.up (by decide)) (hκ := ?_) ..) | (with_reducible apply Agree.ite) | split)

theorem Dev.pairWrite_kp {μ : Nat} {ω : Dev} (d : Dev) (by_ : Nat) (die : Nat) (off : Nat) (v : Nat) (upper : Bool)  (hμ : Within 0x3bf9ef6227fdbe2ffffffffffffffffffffffffffffffffffffffffffffffffffffffffffffffffffffffffffffffffffffffffffff μ) (hκ : Agree μ ω d) : Agree μ ω (Dev.pairWrite d by_ die off v upper) := by
  unfold Dev.pairWrite
  repeat' (first | with_reducible assumption | intro _ | (simp only [id_eq]) | (with_reducible refine Dev.stwWrite_kp (hμ := hμ.up (by decide)) (hκ := ?_) ..) | (with_reducible apply Agree.ite) | split)

theorem Dev.oneWrite_kp {μ : Nat} {ω : Dev} (d : Dev) (by_ : Nat) (die : Nat) (off : Nat) (v : Nat)  (hμ : Within 0x3bf9ef6227fdbe2ffffffffffffffffffffffffffffffffffffffffffffffffffffffffffffffffffffffffffffffffffffffffffff μ) (hκ : Agree μ ω d) : Agree μ ω (Dev.oneWrite d by_ die off v) := by
  unfold Dev.oneWrite
  repeat' (first | with_reducible assumption | intro _ | (simp only [id_eq]) | (with_reducible refine Dev.stwWrite_kp (hμ := hμ.up (by decide)) (hκ := ?_) ..) | (with_reducible apply Agree.ite) | split)

theorem Dev.missAccess_kp {μ : Nat} {ω : Dev} (d : Dev) (by_ : Nat) (die : Nat) (off : Nat) (write : Bool)  (hμ : Within 0x3bf9ef6227fdbf2ffffffffffffffffffffffffffffffffffffffffffffffffffffffffffffffffffffffffffffffffffffffffffff μ) (hκ : Agree μ ω d) : Agree μ ω (Dev.missAccess d by_ die off write) := by
  unfold Dev.missAccess
  repeat' (first | with_reducible assumption | intro _ | (simp only [id_eq]) | (with_reducible refine Dev.stwRead_kp (hμ := hμ.up (by decide)) (hκ := ?_) ..) | (with_reducible refine Dev.stwWrite_kp (hμ := hμ.up (by decide)) (hκ := ?_) ..) | (with_reducible apply Agree.ite) | split)

theorem Dev.leadMessage_kp {μ : Nat} {ω : Dev} (d : Dev) (by_ : Nat) (die : Nat) (off : Nat) (v : Nat) (write : Bool)  (hμ : Within 0x3bf9ef6227fdbf2ffffffffffffffffffffffffffffffffffffffffffffffffffffffffffffffffffffffffffffffffffffffffffff μ) (hκ : Agree μ ω d) : Agree μ ω (Dev.leadMessage d by_ die off v write) := by
  unfold Dev.leadMessage
  repeat' (first | with_reducible assumption | intro _ | (simp only [id_eq]) | (with_reducible refine Dev.stwRead_kp (hμ := hμ.up (by decide)) (hκ := ?_) ..) | (with_reducible refine Dev.stwWrite_kp (hμ := hμ.up (by decide)) (hκ := ?_) ..) | (with_reducible apply Agree.ite) | split)

theorem Dev.tumbStore_kp {μ : Nat} {ω : Dev} (d : Dev) (die : Nat) (off : Nat) (bs : Bytes)  (hμ : Within 0x2c00000000000000000000000000000000000000000000000000000000000000000000000000000000000000000000000 μ) (hκ : Agree μ ω d) : Agree μ ω (Dev.tumbStore d die off bs) := by
  unfold Dev.tumbStore
  repeat' (first | with_reducible assumption | intro _ | (simp only [id_eq]) | (with_reducible refine Dev.bankSet_kp (hμ := hμ.up (by decide)) (hκ := ?_) ..) | (with_reducible apply Agree.ite) | (with_reducible apply Agree.foldl) | (with_reducible apply Agree.foldl_fst) | (with_reducible apply Agree.foldl_snd) | split)

theorem Dev.ioStore_kp {μ : Nat} {ω : Dev} (d : Dev) (by_ : Nat) (g : Nat) (bs : Bytes)  (hμ : Within 0x80804802c3c00024500000000000000000000000000000000000000000000000000000003c3b303c000000000000000000000000 μ) (hκ : Agree μ ω d) : Agree μ ω (Dev.ioStore d by_ g bs) := by
  unfold Dev.ioStore
  repeat' (first | with_reducible assumption | intro _ | (simp only [id_eq]) | (with_reducible refine Dev.hbStore_kp' (heq := by with_reducible assumption) (hμ := hμ.up (by decide)) (hκ := ?_) ..) | (with_reducible refine Dev.hbStore_kp (hμ := hμ.up (by decide)) (hκ := ?_) ..) | (with_reducible refine Dev.sbStore_kp (hμ := hμ.up (by decide)) (hκ := ?_) ..) | (with_reducible refine Dev.stwStore_kp (hμ := hμ.up (by decide)) (hκ := ?_) ..) | (with_reducible refine Dev.tumbStore_kp (hμ := hμ.up (by decide)) (hκ := ?_) ..) | (with_reducible apply Agree.ite) | split)

theorem Dev.ioLoad_kp {μ : Nat} {ω : Dev} (d : Dev) (by_ : Nat) (g : Nat) (n : Nat) (ups : List (Nat × Nat)) (again : List (Nat × Nat)) (answer : Bytes)  (hμ : Within 0x8080080003c00024500000000000000000000000000000000000000000000000000000001c3b303c000000000000000000000000 μ) (hκ : Agree μ ω d) : Agree μ ω (Dev.ioLoad d by_ g n ups again answer) := by
  unfold Dev.ioLoad
  repeat' (first | with_reducible assumption | intro _ | (simp only [id_eq]) | (with_reducible refine Dev.hbLoad_kp' (heq := by with_reducible assumption) (hμ := hμ.up (by decide)) (hκ := ?_) ..) | (with_reducible refine Dev.hbLoad_kp (hμ := hμ.up (by decide)) (hκ := ?_) ..) | (with_reducible refine Dev.sbLoad_kp' (heq := by with_reducible assumption) (hμ := hμ.up (by decide)) (hκ := ?_) ..) | (with_reducible refine Dev.sbLoad_kp (hμ := hμ.up (by decide)) (hκ := ?_) ..) | (with_reducible refine Dev.stwResult_kp (hμ := hμ.up (by decide)) (hκ := ?_) ..) | (with_reducible refine Dev.upset_kp (hμ := hμ.up (by decide)) (hκ := ?_) ..) | (with_reducible apply Agree.ite) | split)

theorem Dev.stwIoAccess_kp {μ : Nat} {ω : Dev} (d : Dev) (by_ : Nat) (g : Nat) (n : Nat) (write : Bool) (bs : Bytes) (answer : Bytes) (ups : List (Nat × Nat)) (again : List (Nat × Nat))  (hμ : Within 0x80804802c3c00024500000000000000000000000000000000000000000000000000000003c3b303c000000000000000000000000 μ) (hκ : Agree μ ω d) : Agree μ ω (Dev.stwIoAccess d by_ g n write bs answer ups again) := by
  unfold Dev.stwIoAccess
  repeat' (first | with_reducible assumption | intro _ | (simp only [id_eq]) | (with_reducible refine Dev.ioLoad_kp (hμ := hμ.up (by decide)) (hκ := ?_) ..) | (with_reducible refine Dev.ioStore_kp (hμ := hμ.up (by decide)) (hκ := ?_) ..) | (with_reducible refine Dev.stwResult_kp (hμ := hμ.up (by decide)) (hκ := ?_) ..) | (with_reducible apply Agree.ite) | split)

theorem Dev.stwFence_kp {μ : Nat} {ω : Dev} (d : Dev) (by_ : Nat)  (hμ : Within 0x800000000000000000000000000000000000000000000000000000000000000000000000000000000000000000000000000000 μ) (hκ : Agree μ ω d) : Agree μ ω (Dev.stwFence d by_) := by
  unfold Dev.stwFence
  repeat' (first | with_reducible assumption | intro _ | (simp only [id_eq]) | (simp only [Agree.set_stwIo (hμ.bit (by decide))]) | (with_reducible refine Dev.put_kp (hf := by first | assumption | exact hμ.bit rfl) (hμ := hμ.up (by decide)) (hκ := ?_) ..) | (with_reducible apply Agree.ite) | split)

theorem cmdLinkStatus_kp {μ : Nat} {ω : Dev}  (d : Dev) (die : Nat) (q : HReq) (ph a : Nat) (hμ : Within 0x0 μ) (hκ : Agree μ ω d) : Agree μ ω ((cmdLinkStatus).run d die q ph a).d := by
  skip
  unfold cmdLinkStatus
  repeat' (first | with_reducible assumption | intro _ | (simp only [id_eq]) | (with_reducible refine Dev.hArg_kp (hμ := hμ.up (by decide)) (hκ := ?_) ..) | (with_reducible refine Dev.hOk_kp (hμ := hμ.up (by decide)) (hκ := ?_) ..) | (with_reducible apply Agree.ite) | split)

theorem Dev.linkCmd_kp {μ : Nat} {ω : Dev} (d : Dev) (kind : Nat) (die : Nat) (i : Nat) (cmd : Nat)  (hμ : Within 0x79e10003e00400024500000000000000000000c000000e06c6400c009800301c00004000000000000000000000000101f20000000 μ) (hκ : Agree μ ω d) : Agree μ ω (Dev.linkCmd d kind die i cmd) := by
  unfold Dev.linkCmd
  repeat' (first | with_reducible assumption | intro _ | (simp only [id_eq]) | (with_reducible refine Dev.auxCtlWrite_kp (hμ := hμ.up (by decide)) (hκ := ?_) ..) | (with_reducible refine Dev.ethCmdWrite_kp (hμ := hμ.up (by decide)) (hκ := ?_) ..) | (with_reducible refine Dev.knkCtlWrite_kp (hμ := hμ.up (by decide)) (hκ := ?_) ..) | (with_reducible refine Dev.laneCmdWrite_kp (hμ := hμ.up (by decide)) (hκ := ?_) ..) | (with_reducible refine Dev.portCmdWrite_kp (hμ := hμ.up (by decide)) (hκ := ?_) ..) | (with_reducible apply Agree.ite) | split)

theorem cmdLinkRetrain_kp {μ : Nat} {ω : Dev}  (d : Dev) (die : Nat) (q : HReq) (ph a : Nat) (hμ : Within 0x79e10003e00400024500000000000000000000c000000e06c6400c009800301c00004000000000000000000000000101f20000000 μ) (hκ : Agree μ ω d) : Agree μ ω ((cmdLinkRetrain).run d die q ph a).d := by
  skip
  unfold cmdLinkRetrain
  repeat' (first | with_reducible assumption | intro _ | (simp only [id_eq]) | (with_reducible refine Dev.hArg_kp (hμ := hμ.up (by decide)) (hκ := ?_) ..) | (with_reducible refine Dev.hBad_kp (hμ := hμ.up (by decide)) (hκ := ?_) ..) | (with_reducible refine Dev.hDone_kp (hμ := hμ.up (by decide)) (hκ := ?_) ..) | (with_reducible refine Dev.hMore_kp (hμ := hμ.up (by decide)) (hκ := ?_) ..) | (with_reducible refine Dev.hOk_kp (hμ := hμ.up (by decide)) (hκ := ?_) ..) | (with_reducible refine Dev.linkCmd_kp (hμ := hμ.up (by decide)) (hκ := ?_) ..) | (with_reducible apply Agree.ite) | split)

theorem Dev.routesSet_kp {μ : Nat} {ω : Dev} (d : Dev) (q : HReq) (n : Nat)  (hμ : Within 0x20000000000000000000000000000000000000000000000000000000 μ) (hκ : Agree μ ω d) : Agree μ ω (Dev.routesSet d q n).d := by
  unfold Dev.routesSet
  repeat' (first | with_reducible assumption | intro _ | (simp only [id_eq]) | (with_reducible refine Dev.hOk_kp (hμ := hμ.up (by decide)) (hκ := ?_) ..) | (with_reducible refine Dev.routeSet_kp (hμ := hμ.up (by decide)) (hκ := ?_) ..) | (with_reducible apply Agree.ite) | (with_reducible apply Agree.foldl) | (with_reducible apply Agree.foldl_fst) | (with_reducible apply Agree.foldl_snd) | split)

theorem cmdRoutes_kp {μ : Nat} {ω : Dev}  (d : Dev) (die : Nat) (q : HReq) (ph a : Nat) (hμ : Within 0x20000000000000000000000000000000000000000000000000000000 μ) (hκ : Agree μ ω d) : Agree μ ω ((cmdRoutes).run d die q ph a).d := by
  skip
  unfold cmdRoutes
  repeat' (first | with_reducible assumption | intro _ | (simp only [id_eq]) | (with_reducible refine Dev.hArg_kp (hμ := hμ.up (by decide)) (hκ := ?_) ..) | (with_reducible refine Dev.routesSet_kp (hμ := hμ.up (by decide)) (hκ := ?_) ..) | (with_reducible apply Agree.ite) | split)

theorem cmdKnuckles_kp {μ : Nat} {ω : Dev}  (d : Dev) (die : Nat) (q : HReq) (ph a : Nat) (hμ : Within 0x400000000000000000000000000000000000000000 μ) (hκ : Agree μ ω d) : Agree μ ω ((cmdKnuckles).run d die q ph a).d := by
  skip
  unfold cmdKnuckles
  repeat' (first | with_reducible assumption | intro _ | (simp only [id_eq]) | (with_reducible refine Dev.hArg_kp (hμ := hμ.up (by decide)) (hκ := ?_) ..) | (with_reducible refine Dev.hOk_kp (hμ := hμ.up (by decide)) (hκ := ?_) ..) | (with_reducible refine Dev.kmapWrite_kp (hμ := hμ.up (by decide)) (hκ := ?_) ..) | (with_reducible apply Agree.ite) | (with_reducible apply Agree.foldl) | (with_reducible apply Agree.foldl_fst) | (with_reducible apply Agree.foldl_snd) | split)

theorem Dev.routeRun_kp {μ : Nat} {ω : Dev} (d : Dev) (die : Nat) (slot : Nat) (knuckles : Bool)  (hμ : Within 0x3480000000000000245000000004002d16180000000000000020000000000000400000000000000000000000000000000000000000 μ) (hκ : Agree μ ω d) : Agree μ ω (Dev.routeRun d die slot knuckles) := by
  unfold Dev.routeRun
  repeat' (first | with_reducible assumption | intro _ | (simp only [id_eq]) | (with_reducible refine Dev.helRun_kp (hc := ?_) (hμ := hμ.up (by decide)) (hκ := ?_) ..) | (with_reducible refine cmdKnuckles_kp (hμ := hμ.up (by decide)) (hκ := ?_) ..) | (with_reducible refine cmdRoutes_kp (hμ := hμ.up (by decide)) (hκ := ?_) ..) | (with_reducible apply Agree.ite) | split)

theorem Dev.bankPut_kp {μ : Nat} {ω : Dev} (d : Dev) (fl : Nat) (off : Nat) (bs : Bytes)  (hμ : Within 0x100000000000000000000000000000000000000000000000000000000000000000000000000000000000000000000000000000000000 μ) (hκ : Agree μ ω d) : Agree μ ω (Dev.bankPut d fl off bs) := by
  unfold Dev.bankPut
  repeat' (first | with_reducible assumption | intro _ | (simp only [id_eq]) | (simp only [Agree.set_flash (hμ.bit (by decide))]) | (with_reducible refine Dev.put_kp (hf := by first | assumption | exact hμ.bit rfl) (hμ := hμ.up (by decide)) (hκ := ?_) ..) | (with_reducible apply Agree.ite) | split)

theorem cmdStage_kp {μ : Nat} {ω : Dev}  (d : Dev) (die : Nat) (q : HReq) (ph a : Nat) (hμ : Within 0x102000000000000000000000000000000000000000000000000000000000000000000000000000000000000000000000000000000000 μ) (hκ : Agree μ ω d) : Agree μ ω ((cmdStage).run d die q ph a).d := by
  skip
  unfold cmdStage
  repeat' (first | with_reducible assumption | intro _ | (simp only [id_eq]) | (with_reducible refine Dev.bankPut_kp (hμ := hμ.up (by decide)) (hκ := ?_) ..) | (with_reducible refine Dev.hArg_kp (hμ := hμ.up (by decide)) (hκ := ?_) ..) | (with_reducible refine Dev.hOk_kp (hμ := hμ.up (by decide)) (hκ := ?_) ..) | (with_reducible refine Dev.modStew_kp (hμ := hμ.up (by decide)) (hκ := ?_) ..) | (with_reducible refine Dev.put_kp (hf := by first | assumption | exact hμ.bit rfl) (hμ := hμ.up (by decide)) (hκ := ?_) ..) | (with_reducible apply Agree.ite) | (with_reducible apply Agree.foldl) | (with_reducible apply Agree.foldl_fst) | (with_reducible apply Agree.foldl_snd) | split)

theorem cmdCommit_kp {μ : Nat} {ω : Dev} (bad : Bool) (d : Dev) (die : Nat) (q : HReq) (ph a : Nat) (hμ : Within 0x0 μ) (hκ : Agree μ ω d) : Agree μ ω ((cmdCommit bad).run d die q ph a).d := by
  skip
  unfold cmdCommit
  repeat' (first | with_reducible assumption | intro _ | (simp only [id_eq]) | (with_reducible refine Dev.hDone_kp (hμ := hμ.up (by decide)) (hκ := ?_) ..) | (with_reducible refine Dev.hMore_kp (hμ := hμ.up (by decide)) (hκ := ?_) ..) | (with_reducible refine Dev.hOk_kp (hμ := hμ.up (by decide)) (hκ := ?_) ..) | (with_reducible apply Agree.ite) | split)

theorem Dev.coreRetested_kp {μ : Nat} {ω : Dev} (d : Dev) (die : Nat) (n : Nat) (c : Nat) (p : Nat) (pass : Bool)  (hμ : Within 0x3800000000000000000000000000000000000000000000000000c0000000000000000000000000000000000000000e0 μ) (hκ : Agree μ ω d) : Agree μ ω (Dev.coreRetested d die n c p pass) := by
  unfold Dev.coreRetested
  repeat' (first | with_reducible assumption | intro _ | (simp only [id_eq]) | (with_reducible refine Dev.hubDbSet_kp (hμ := hμ.up (by decide)) (hκ := ?_) ..) | (with_reducible refine Dev.pctlSet_kp (hμ := hμ.up (by decide)) (hκ := ?_) ..) | (with_reducible refine Dev.spInvalid_kp (hμ := hμ.up (by decide)) (hκ := ?_) ..) | (with_reducible apply Agree.ite) | split)

theorem cmdRetest_kp {μ : Nat} {ω : Dev} (pass : Bool) (d : Dev) (die : Nat) (q : HReq) (ph a : Nat) (hμ : Within 0x3800000000000000000000000000000000000000000000000000c0000000000000000000000000000000000000000e0 μ) (hκ : Agree μ ω d) : Agree μ ω ((cmdRetest pass).run d die q ph a).d := by
  skip
  unfold cmdRetest
  repeat' (first | with_reducible assumption | intro _ | (simp only [id_eq]) | (with_reducible refine Dev.coreRetested_kp (hμ := hμ.up (by decide)) (hκ := ?_) ..) | (with_reducible refine Dev.hArg_kp (hμ := hμ.up (by decide)) (hκ := ?_) ..) | (with_reducible refine Dev.hBad_kp (hμ := hμ.up (by decide)) (hκ := ?_) ..) | (with_reducible refine Dev.hDone_kp (hμ := hμ.up (by decide)) (hκ := ?_) ..) | (with_reducible refine Dev.hMore_kp (hμ := hμ.up (by decide)) (hκ := ?_) ..) | (with_reducible apply Agree.ite) | split)

theorem cmdSpare_kp {μ : Nat} {ω : Dev}  (d : Dev) (die : Nat) (q : HReq) (ph a : Nat) (hμ : Within 0x800000021bc00024500000000000000000000000000000000000000000000c000000000c000000000000000000000000000000ea μ) (hκ : Agree μ ω d) : Agree μ ω ((cmdSpare).run d die q ph a).d := by
  skip
  unfold cmdSpare
  repeat' (first | with_reducible assumption | intro _ | (simp only [id_eq]) | (with_reducible refine Dev.cellPark_kp (hμ := hμ.up (by decide)) (hκ := ?_) ..) | (with_reducible refine Dev.cellUnpark_kp (hμ := hμ.up (by decide)) (hκ := ?_) ..) | (with_reducible refine Dev.hArg_kp (hμ := hμ.up (by decide)) (hκ := ?_) ..) | (with_reducible refine Dev.hBad_kp (hμ := hμ.up (by decide)) (hκ := ?_) ..) | (with_reducible refine Dev.hMore_kp (hμ := hμ.up (by decide)) (hκ := ?_) ..) | (with_reducible refine Dev.hOk_kp (hμ := hμ.up (by decide)) (hκ := ?_) ..) | (with_reducible refine Dev.hubDbSet_kp (hμ := hμ.up (by decide)) (hκ := ?_) ..) | (with_reducible refine Dev.mapSet_kp (hμ := hμ.up (by decide)) (hκ := ?_) ..) | (with_reducible refine Dev.pctlSet_kp (hμ := hμ.up (by decide)) (hκ := ?_) ..) | (with_reducible refine Dev.setCore_kp (hμ := hμ.up (by decide)) (hκ := ?_) ..) | (with_reducible apply Agree.ite) | split)

theorem cmdMemtest_kp {μ : Nat} {ω : Dev}  (d : Dev) (die : Nat) (q : HReq) (ph a : Nat) (hμ : Within 0x81800038000000000000000000000000000000000000000000000000000000000000000000000001000000000000000000000 μ) (hκ : Agree μ ω d) : Agree μ ω ((cmdMemtest).run d die q ph a).d := by
  skip
  unfold cmdMemtest
  repeat' (first | with_reducible assumption | intro _ | (simp only [id_eq]) | (with_reducible refine Dev.hArg_kp (hμ := hμ.up (by decide)) (hκ := ?_) ..) | (with_reducible refine Dev.hBad_kp (hμ := hμ.up (by decide)) (hκ := ?_) ..) | (with_reducible refine Dev.hDone_kp (hμ := hμ.up (by decide)) (hκ := ?_) ..) | (with_reducible refine Dev.hMore_kp (hμ := hμ.up (by decide)) (hκ := ?_) ..) | (with_reducible refine Dev.memStart_kp (hμ := hμ.up (by decide)) (hκ := ?_) ..) | (with_reducible apply Agree.ite) | (with_reducible apply Agree.foldl) | (with_reducible apply Agree.foldl_fst) | (with_reducible apply Agree.foldl_snd) | split)

theorem cmdBlank_kp {μ : Nat} {ω : Dev}  (d : Dev) (die : Nat) (q : HReq) (ph a : Nat) (hμ : Within 0x0 μ) (hκ : Agree μ ω d) : Agree μ ω ((cmdBlank).run d die q ph a).d := by
  skip
  unfold cmdBlank
  repeat' (first | with_reducible assumption | intro _ | (simp only [id_eq]) | (with_reducible refine Dev.hArg_kp (hμ := hμ.up (by decide)) (hκ := ?_) ..) | (with_reducible refine Dev.hOk_kp (hμ := hμ.up (by decide)) (hκ := ?_) ..) | (with_reducible apply Agree.ite) | split)

theorem heldCmd_kp {μ : Nat} {ω : Dev} (op : Nat) (ovr : Bool) (c : HCmd) (hc : heldCmd op ovr = some c) (hμ : Within 0x1679e581a7e3bc20024500001180000000000000c000000e06c6400c009800309c00685800c0000000230148020fe0bf89fe2000042 μ)
    (d : Dev) (die : Nat) (q : HReq) (ph a : Nat) (hκ : Agree μ ω d) : Agree μ ω (c.run d die q ph a).d := by
  unfold heldCmd at hc
  split at hc
  case h_1 => cases hc; exact cmdPower_kp (hμ := hμ.up (by decide)) (hκ := hκ) ..
  case h_2 => cases hc; exact cmdDestroy_kp (hμ := hμ.up (by decide)) (hκ := hκ) ..
  case h_3 => cases hc; exact cmdReset_kp (hμ := hμ.up (by decide)) (hκ := hκ) ..
  case h_4 => cases hc; exact cmdLinkRetrain_kp (hμ := hμ.up (by decide)) (hκ := hκ) ..
  case h_5 => cases hc; exact cmdMemtest_kp (hμ := hμ.up (by decide)) (hκ := hκ) ..
  all_goals contradiction

theorem Dev.deferredRun_kp {μ : Nat} {ω : Dev} (d : Dev) (die n : Nat) (ovr : Bool) (hμ : Within 0x1779e581a7e3bc200245000011804002d1600000c000000e06c6400c009800309c00685800c0000000230148020fe0bf89fe2000042 μ) (hκ : Agree μ ω d) :
    Agree μ ω (Dev.deferredRun d die n ovr) := by
  unfold Dev.deferredRun
  split
  · exact hκ
  · split
    · rename_i hc
      split
      · exact hκ
      · refine Dev.helStep_kp _ _ _ _ _ (fun e die q ph a he => heldCmd_kp _ _ _ hc (hμ.up (by decide)) e die q ph a he) (hμ.up (by decide)) ?_
        exact Dev.setJob_kp (hμ := hμ.up (by decide)) (hκ := hκ) ..
    · exact hκ

theorem Dev.ethLead_kp {μ : Nat} {ω : Dev} (d : Dev) (die : Nat) (j : Nat)  (hμ : Within 0x2080000000000000245000000004002000000000000004000000000000000000000000000000000000000000000000000000000000 μ) (hκ : Agree μ ω d) : Agree μ ω (Dev.ethLead d die j) := by
  unfold Dev.ethLead
  repeat' (first | with_reducible assumption | intro _ | (simp only [id_eq]) | (with_reducible refine Dev.demote_kp (hμ := hμ.up (by decide)) (hκ := ?_) ..) | (with_reducible refine Dev.leadAdmit_kp' (heq := by with_reducible assumption) (hμ := hμ.up (by decide)) (hκ := ?_) ..) | (with_reducible refine Dev.leadAdmit_kp (hμ := hμ.up (by decide)) (hκ := ?_) ..) | (with_reducible refine Dev.put_kp (hf := by first | assumption | exact hμ.bit rfl) (hμ := hμ.up (by decide)) (hκ := ?_) ..) | (with_reducible apply Agree.ite) | split)

theorem Dev.heartbeat_kp {μ : Nat} {ω : Dev} (d : Dev) (die : Nat)  (hμ : Within 0x2080000000000000245000000004002000000000000004000000000000000000000000000000000000000000000000000000000000 μ) (hκ : Agree μ ω d) : Agree μ ω (Dev.heartbeat d die) := by
  unfold Dev.heartbeat
  repeat' (first | with_reducible assumption | intro _ | (simp only [id_eq]) | (with_reducible refine Dev.ethLead_kp (hμ := hμ.up (by decide)) (hκ := ?_) ..) | (with_reducible refine Dev.modStew_kp (hμ := hμ.up (by decide)) (hκ := ?_) ..) | (with_reducible apply Agree.ite) | (with_reducible apply Agree.foldl) | (with_reducible apply Agree.foldl_fst) | (with_reducible apply Agree.foldl_snd) | split)

theorem Dev.electionStart_kp {μ : Nat} {ω : Dev} (d : Dev) (die : Nat)  (hμ : Within 0x2000000000000000000000000000000000000000000000000000000000000000000000000000000000000000000000000000000000 μ) (hκ : Agree μ ω d) : Agree μ ω (Dev.electionStart d die) := by
  unfold Dev.electionStart
  repeat' (first | with_reducible assumption | intro _ | (simp only [id_eq]) | (with_reducible refine Dev.modStew_kp (hμ := hμ.up (by decide)) (hκ := ?_) ..) | (with_reducible apply Agree.ite) | split)

theorem Dev.propose_kp {μ : Nat} {ω : Dev} (d : Dev) (die : Nat) (e : Nat) (ts : List Nat)  (hμ : Within 0x2080000000000000245000000004002000000000000000000000000000000000000000000000000000000000000000000000000000 μ) (hκ : Agree μ ω d) : Agree μ ω (Dev.propose d die e ts).2 := by
  unfold Dev.propose
  repeat' (first | with_reducible assumption | intro _ | (simp only [id_eq]) | (with_reducible refine Dev.leadAdmit_kp' (heq := by with_reducible assumption) (hμ := hμ.up (by decide)) (hκ := ?_) ..) | (with_reducible refine Dev.leadAdmit_kp (hμ := hμ.up (by decide)) (hκ := ?_) ..) | (with_reducible apply Agree.ite) | (with_reducible apply Agree.foldl) | (with_reducible apply Agree.foldl_fst) | (with_reducible apply Agree.foldl_snd) | split)

theorem Dev.propose_kp' {μ : Nat} {ω : Dev} {d : Dev} {die : Nat} {e : Nat} {ts : List Nat} {y0} {rd : Dev} (heq : Dev.propose d die e ts = (y0, rd))  (hμ : Within 0x2080000000000000245000000004002000000000000000000000000000000000000000000000000000000000000000000000000000 μ) (hκ : Agree μ ω d) : Agree μ ω rd := by
  have k := Dev.propose_kp (μ := μ) (ω := ω) d die e ts  (hμ := hμ) (hκ := hκ); rw [heq] at k; exact k

theorem Dev.leadChange_kp {μ : Nat} {ω : Dev} (d : Dev) (die : Nat)  (hμ : Within 0x400000000000000000000000004000914000000000000000000000000000000000000000000000000000000000000000000000000 μ) (hκ : Agree μ ω d) : Agree μ ω (Dev.leadChange d die) := by
  unfold Dev.leadChange
  repeat' (first | with_reducible assumption | intro _ | (simp only [id_eq]) | (with_reducible refine Dev.eventTo_kp (hμ := hμ.up (by decide)) (hκ := ?_) ..) | (with_reducible refine Dev.put_kp (hf := by first | assumption | exact hμ.bit rfl) (hμ := hμ.up (by decide)) (hκ := ?_) ..) | (with_reducible apply Agree.ite) | (with_reducible apply Agree.foldl) | (with_reducible apply Agree.foldl_fst) | (with_reducible apply Agree.foldl_snd) | split)

theorem Dev.electionPropose_kp {μ : Nat} {ω : Dev} (d : Dev) (die : Nat)  (hμ : Within 0x2480000000000000245000000004002914000000000004000000000000000000000000000000000000000000000000000000000000 μ) (hκ : Agree μ ω d) : Agree μ ω (Dev.electionPropose d die) := by
  unfold Dev.electionPropose
  repeat' (first | with_reducible assumption | intro _ | (simp only [id_eq]) | (with_reducible refine Dev.demote_kp (hμ := hμ.up (by decide)) (hκ := ?_) ..) | (with_reducible refine Dev.leadChange_kp (hμ := hμ.up (by decide)) (hκ := ?_) ..) | (with_reducible refine Dev.modStew_kp (hμ := hμ.up (by decide)) (hκ := ?_) ..) | (with_reducible refine Dev.propose_kp' (heq := by with_reducible assumption) (hμ := hμ.up (by decide)) (hκ := ?_) ..) | (with_reducible refine Dev.propose_kp (hμ := hμ.up (by decide)) (hκ := ?_) ..) | (with_reducible refine Dev.put_kp (hf := by first | assumption | exact hμ.bit rfl) (hμ := hμ.up (by decide)) (hκ := ?_) ..) | (with_reducible apply Agree.ite) | (with_reducible apply Agree.foldl) | (with_reducible apply Agree.foldl_fst) | (with_reducible apply Agree.foldl_snd) | split)

theorem Dev.ctxFollow_kp {μ : Nat} {ω : Dev} (d : Dev) (die : Nat) (u : Nat) (x : Nat) (d1 : Dev)  (hμ : Within 0x8010003e004000245000000000000000000000000000000000000000000000000004000000000000000000000000101f20000000 μ) (hκ : Agree μ ω d) (hκ1 : Agree μ ω d1) : Agree μ ω (Dev.ctxFollow d die u x d1) := by
  unfold Dev.ctxFollow
  repeat' (first | with_reducible assumption | intro _ | (simp only [id_eq]) | (with_reducible refine Dev.engFollow_kp (hμ := hμ.up (by decide)) (hκ := ?_) ..) | (with_reducible apply Agree.ite) | split)

theorem Dev.pctlBit_kp {μ : Nat} {ω : Dev} (d : Dev) (die : Nat) (n : Nat) (v : Nat)  (hμ : Within 0xe0 μ) (hκ : Agree μ ω d) : Agree μ ω (Dev.pctlBit d die n v) := by
  unfold Dev.pctlBit
  repeat' (first | with_reducible assumption | intro _ | (simp only [id_eq]) | (with_reducible refine Dev.pctlWrite_kp (hμ := hμ.up (by decide)) (hκ := ?_) ..) | (with_reducible apply Agree.ite) | split)

theorem Dev.loadCells_kp {μ : Nat} {ω : Dev} (d : Dev) (die : Nat) (n : Nat) (mask : Nat)  (hμ : Within 0x80000002080000245000000000000000000000000000000000000000000008000000000000000000000000000000000000000040 μ) (hκ : Agree μ ω d) : Agree μ ω (Dev.loadCells d die n mask) := by
  unfold Dev.loadCells
  repeat' (first | with_reducible assumption | intro _ | (simp only [id_eq]) | (with_reducible refine Dev.loaderEnter_kp (hμ := hμ.up (by decide)) (hκ := ?_) ..) | (with_reducible apply Agree.ite) | (with_reducible apply Agree.foldl) | (with_reducible apply Agree.foldl_fst) | (with_reducible apply Agree.foldl_snd) | split)

theorem Dev.qpState_kp {μ : Nat} {ω : Dev} (d : Dev) (die : Nat) (want : Nat)  (hμ : Within 0x8800000040000002450000000000000000000001c0080000000000000000000000000000000000000000000000000000000000000 μ) (hκ : Agree μ ω d) : Agree μ ω (Dev.qpState d die want) := by
  unfold Dev.qpState
  repeat' (first | with_reducible assumption | intro _ | (simp only [id_eq]) | (with_reducible refine Dev.qctlWrite_kp (hμ := hμ.up (by decide)) (hκ := ?_) ..) | (with_reducible apply Agree.ite) | split)

theorem Dev.portFence_kp {μ : Nat} {ω : Dev} (d : Dev) (die : Nat) (mask : Nat)  (hμ : Within 0x30000000000000000000000000000000000000000000 μ) (hκ : Agree μ ω d) : Agree μ ω (Dev.portFence d die mask) := by
  unfold Dev.portFence
  repeat' (first | with_reducible assumption | intro _ | (simp only [id_eq]) | (with_reducible refine Dev.fenceWrite_kp (hr := by first | assumption | exact hμ.bit rfl) (hμ := hμ.up (by decide)) (hκ := ?_) ..) | (with_reducible apply Agree.ite) | split)

theorem Dev.laneTestWrite_kp {μ : Nat} {ω : Dev} (d : Dev) (die : Nat) (l : Nat) (loop : Nat) (prbs : Nat)  (hμ : Within 0x38010003e004000245000000000000000000000000000e04c6400c000000001000004000000000000000000000000101f20000000 μ) (hκ : Agree μ ω d) : Agree μ ω (Dev.laneTestWrite d die l loop prbs) := by
  unfold Dev.laneTestWrite
  repeat' (first | with_reducible assumption | intro _ | (simp only [id_eq]) | (with_reducible refine Dev.laneCtlWrite_kp (hμ := hμ.up (by decide)) (hκ := ?_) ..) | (with_reducible apply Agree.ite) | split)

theorem Dev.chunkSend_kp {μ : Nat} {ω : Dev} (d : Dev) (die : Nat) (nchm1 : Nat) (chunk : Nat) (uni : Bool) (mask : Nat)  (hμ : Within 0x2000000000000400000000400000000000000000000000000000000000000000000000000001c000000000000000000000000000000 μ) (hκ : Agree μ ω d) : Agree μ ω (Dev.chunkSend d die nchm1 chunk uni mask) := by
  unfold Dev.chunkSend
  repeat' (first | with_reducible assumption | intro _ | (simp only [id_eq]) | (with_reducible refine Dev.ldHubWrite_kp (hμ := hμ.up (by decide)) (hκ := ?_) ..) | (with_reducible apply Agree.ite) | split)

end Sys2Proof.Machine
end

