-- ==== Sys2Proof/Laws/Memory.lean ====
section
/-!
SUPPORT. What the operations over memory do: each keeps the canonical form, a byte just written reads back, and every other
byte reads as before.
-/
namespace Sys2Proof.Machine

/-- Every listed address of `m` lies above `a`. -/
def Memory.above (a : Nat) (m : Memory) : Prop := ∀ c ∈ m, a < c.1

theorem Memory.wf_cons (c : Host.Cell) (m : Memory) :
    Memory.wf (c :: m) = true ↔ c.2 ≠ Memory.blank ∧ Memory.above c.1 m ∧ m.wf = true := by
  induction m generalizing c with
  | nil => simp [Memory.wf, Memory.above]
  | cons c' m ih =>
    have h := ih c'
    simp only [Memory.wf, Bool.and_eq_true, decide_eq_true_eq, ne_eq] at h ⊢
    constructor
    · rintro ⟨⟨h1, h2⟩, h3⟩
      refine ⟨h1, ?_, h3⟩
      intro x hx
      rcases List.mem_cons.1 hx with rfl | hx
      · exact h2
      · exact Nat.lt_trans h2 ((h.1 h3).2.1 x hx)
    · rintro ⟨h1, h2, h3⟩
      exact ⟨⟨h1, h2 c' List.mem_cons_self⟩, h3⟩

theorem Memory.byte_above (m : Memory) (a : Nat) (h : m.above a) : m.byte a = Memory.blank := by
  cases m with
  | nil => rfl
  | cons c m =>
    have hc := h c List.mem_cons_self
    simp only [Memory.byte]
    rw [if_neg (by omega), if_pos hc]

theorem Memory.setByte_above (m : Memory) (a b : Nat) (v : Byte) (hm : m.above b) (hab : b < a) :
    (m.setByte a v).above b := by
  induction m with
  | nil =>
    intro x hx
    simp only [Memory.setByte] at hx
    split at hx
    · simp at hx
    · simp only [List.mem_singleton] at hx; subst hx; exact hab
  | cons c m ih =>
    intro x hx
    have ht : Memory.above b m := fun y hy => hm y (List.mem_cons_of_mem _ hy)
    simp only [Memory.setByte] at hx
    split at hx
    · split at hx
      · exact ht x hx
      · rcases List.mem_cons.1 hx with rfl | hx
        · exact hab
        · exact ht x hx
    · split at hx
      · split at hx
        · exact hm x hx
        · rcases List.mem_cons.1 hx with rfl | hx
          · exact hab
          · exact hm x hx
      · rcases List.mem_cons.1 hx with rfl | hx
        · exact hm _ List.mem_cons_self
        · exact ih ht x hx

/-- A byte written keeps the canonical form. -/
theorem Memory.setByte_wf (m : Memory) (a : Nat) (v : Byte) (h : m.wf = true) : (m.setByte a v).wf = true := by
  induction m with
  | nil =>
    simp only [Memory.setByte]
    split
    · rfl
    · rename_i hv; simpa [Memory.wf] using hv
  | cons c m ih =>
    obtain ⟨h1, h2, h3⟩ := (Memory.wf_cons c m).1 h
    simp only [Memory.setByte]
    split
    · rename_i hca
      split
      · exact h3
      · rename_i hv
        exact (Memory.wf_cons _ _).2 ⟨hv, fun x hx => hca ▸ h2 x hx, h3⟩
    · rename_i hca
      split
      · rename_i hlt
        split
        · exact h
        · rename_i hv
          refine (Memory.wf_cons _ _).2 ⟨hv, ?_, h⟩
          intro x hx
          rcases List.mem_cons.1 hx with rfl | hx
          · exact hlt
          · exact Nat.lt_trans hlt (h2 x hx)
      · rename_i hlt
        exact (Memory.wf_cons _ _).2 ⟨h1, Memory.setByte_above _ _ _ _ h2 (by omega), ih h3⟩

/-- What every address reads as after a byte is written. -/
theorem Memory.byte_setByte (m : Memory) (a b : Nat) (v : Byte) (h : m.wf = true) :
    (m.setByte a v).byte b = if b = a then v else m.byte b := by
  induction m with
  | nil =>
    simp only [Memory.setByte]
    split
    · rename_i hv
      simp only [Memory.byte]; split <;> simp_all
    · simp only [Memory.byte]
      by_cases hba : b = a
      · subst hba; simp
      · rw [if_neg (by omega), if_neg hba]; split <;> rfl
  | cons c m ih =>
    obtain ⟨_, h2, h3⟩ := (Memory.wf_cons c m).1 h
    simp only [Memory.setByte]
    split
    · rename_i hca
      subst hca
      split
      · rename_i hv
        by_cases hb : b = c.1
        · subst hb; rw [if_pos rfl, hv, Memory.byte_above _ _ h2]
        · rw [if_neg hb]
          simp only [Memory.byte]
          rw [if_neg (by omega)]
          split
          · exact Memory.byte_above _ _ (fun x hx => Nat.lt_trans ‹_› (h2 x hx))
          · rfl
      · simp only [Memory.byte]
        by_cases hb : b = c.1
        · subst hb; simp
        · have hb' : ¬ c.1 = b := fun e => hb e.symm
          simp only [if_neg hb, if_neg hb']
    · rename_i hca
      split
      · rename_i hlt
        split
        · rename_i hv
          by_cases hb : b = a
          · subst hb
            rw [if_pos rfl, hv]
            exact Memory.byte_above _ _ (fun x hx => by
              rcases List.mem_cons.1 hx with rfl | hx
              · exact hlt
              · exact Nat.lt_trans hlt (h2 x hx))
          · rw [if_neg hb]
        · by_cases hb : b = a
          · subst hb; simp [Memory.byte]
          · rw [if_neg hb]
            have hab : a ≠ b := fun e => hb e.symm
            rw [Memory.byte]
            rw [if_neg hab]
            split
            · rename_i hlb
              refine (Memory.byte_above _ _ (fun x hx => ?_)).symm
              rcases List.mem_cons.1 hx with rfl | hx
              · exact Nat.lt_trans hlb hlt
              · exact Nat.lt_trans hlb (Nat.lt_trans hlt (h2 x hx))
            · rfl
      · rename_i hlt
        simp only [Memory.byte, ih h3]
        by_cases hb : b = a
        · subst hb
          rw [if_neg hca, if_neg (by omega), if_pos rfl]
          rw [if_pos rfl]
        · simp only [if_neg hb]

/-- A byte string written keeps the canonical form. -/
theorem Memory.setBytes_wf (m : Memory) (a : Nat) (bs : Bytes) (h : m.wf = true) : (m.setBytes a bs).wf = true := by
  induction bs generalizing m a with
  | nil => exact h
  | cons b bs ih => exact ih _ _ (Memory.setByte_wf _ _ _ h)

/-- What every address reads as after a byte string is written. -/
theorem Memory.byte_setBytes (m : Memory) (a b : Nat) (bs : Bytes) (h : m.wf = true) :
    (m.setBytes a bs).byte b = if a ≤ b ∧ b < a + bs.length then bs.getD (b - a) 0 else m.byte b := by
  induction bs generalizing m a with
  | nil => exact (if_neg (fun h => by simp only [List.length_nil] at h; omega)).symm
  | cons x bs ih =>
    simp only [Memory.setBytes]
    rw [ih _ _ (Memory.setByte_wf _ _ _ h), Memory.byte_setByte _ _ _ _ h]
    simp only [List.length_cons]
    by_cases h1 : b = a
    · subst h1
      rw [if_neg (by omega), if_pos rfl, if_pos (by omega)]; simp
    · by_cases h2 : a + 1 ≤ b ∧ b < a + 1 + bs.length
      · rw [if_pos h2, if_pos (by omega)]
        have : b - a = (b - (a + 1)) + 1 := by omega
        rw [this, List.getD_cons_succ]
      · rw [if_neg h2, if_neg h1, if_neg (by omega)]

/-- Zeros written over a range keep the canonical form. -/
theorem Memory.filter_wf (m : Memory) (p : Host.Cell → Bool) (h : m.wf = true) : Memory.wf (m.filter p) = true := by
  induction m with
  | nil => rfl
  | cons c m ih =>
    obtain ⟨h1, h2, h3⟩ := (Memory.wf_cons c m).1 h
    simp only [List.filter_cons]
    split
    · exact (Memory.wf_cons _ _).2 ⟨h1, fun x hx => h2 x (List.mem_filter.1 hx).1, ih h3⟩
    · exact ih h3

theorem Memory.zero_wf (m : Memory) (a n : Nat) (h : m.wf = true) : (m.zero a n).wf = true := Memory.filter_wf _ _ h

/-- What every address reads as after zeros are written over a range. -/
theorem Memory.byte_zero (m : Memory) (a n b : Nat) (h : m.wf = true) :
    (m.zero a n).byte b = if a ≤ b ∧ b < a + n then Memory.blank else m.byte b := by
  induction m with
  | nil => simp [Memory.zero, Memory.byte]
  | cons c m ih =>
    obtain ⟨_, h2, h3⟩ := (Memory.wf_cons c m).1 h
    have ih := ih h3
    simp only [Memory.zero, List.filter_cons] at ih ⊢
    split
    · rename_i hk
      simp only [Bool.or_eq_true, decide_eq_true_eq] at hk
      simp only [Memory.byte]
      by_cases hb : c.1 = b
      · rw [if_pos hb, if_neg (by omega), if_pos hb]
      · rw [if_neg hb, if_neg hb]
        by_cases hlt : b < c.1
        · rw [if_pos hlt, if_pos hlt]; split <;> rfl
        · rw [if_neg hlt, if_neg hlt]; exact ih
    · rename_i hk
      simp only [Bool.or_eq_true, decide_eq_true_eq, not_or, Nat.not_lt, Nat.not_le] at hk
      rw [ih]
      by_cases hin : a ≤ b ∧ b < a + n
      · rw [if_pos hin, if_pos hin]
      · rw [if_neg hin, if_neg hin]
        simp only [Memory.byte]
        rw [if_neg (by omega)]
        split
        · exact Memory.byte_above _ _ (fun x hx => Nat.lt_trans ‹_› (h2 x hx))
        · rfl

end Sys2Proof.Machine
end

