-- ==== Sys2Proof/Laws/Frames.lean ====
section
/-!
SUPPORT. What the operations that reach the package's memory do to it: they keep its canonical form.
-/
set_option linter.unusedSimpArgs false
namespace Sys2Proof.Machine

/-- The package stores its bytes in the canonical form. -/
@[irreducible] def Kept (d : Dev) : Prop := d.mem.wf = true

theorem Kept.of {d : Dev} (h : d.mem.wf = true) : Kept d := by unfold Kept; exact h

theorem Kept.out {d : Dev} (h : Kept d) : d.mem.wf = true := by unfold Kept at h; exact h

theorem Agree.kept {μ : Nat} {a b : Dev} (h : Agree μ a b) (hb : μ.testBit 375 = false) (ha : Kept a) : Kept b := by
  refine Kept.of ?_; rw [h.mem hb]; exact ha.out

theorem Kept.ite {a b : Dev} {c : Prop} [Decidable c] (ha : Kept a) (hb : Kept b) : Kept (if c then a else b) := by
  split <;> assumption

theorem Kept.foldl {α : Type} (f : Dev → α → Dev) (l : List α) (d : Dev) (hf : ∀ e x, Kept e → Kept (f e x)) (h : Kept d) :
    Kept (l.foldl f d) := by
  induction l generalizing d with
  | nil => exact h
  | cons a l ih => exact ih _ (hf _ _ h)

theorem Kept.foldl_snd {α β : Type} (f : β × Dev → α → β × Dev) (l : List α) (s : β × Dev)
    (hf : ∀ e x, Kept e.2 → Kept (f e x).2) (h : Kept s.2) : Kept (l.foldl f s).2 := by
  induction l generalizing s with
  | nil => exact h
  | cons a l ih => exact ih _ (hf _ _ h)

theorem Kept.foldl_fst {α β : Type} (f : Dev × β → α → Dev × β) (l : List α) (s : Dev × β)
    (hf : ∀ e x, Kept e.1 → Kept (f e x).1) (h : Kept s.1) : Kept (l.foldl f s).1 := by
  induction l generalizing s with
  | nil => exact h
  | cons a l ih => exact ih _ (hf _ _ h)

theorem Kept.getD (x : Option Dev) (d : Dev) (h : ∀ e, x = some e → Kept e) (hd : Kept d) : Kept (x.getD d) := by
  cases x with
  | none => exact hd
  | some e => exact h e rfl

theorem Kept.raw {d : Dev} {k : RKey} {w : Nat} (h : Kept d) : Kept (d.setRaw k w) := Kept.of h.out

theorem Dev.put_fst (d : Dev) (f : Fld) (v die i s : Nat) (hκ : Kept d) : Kept (d.put f v die i s) := Kept.of hκ.out
theorem Dev.writeGen_fst (d : Dev) (k : RKey) (v : Nat) (keep : List Fld) (hκ : Kept d) : Kept (d.writeGen k v keep) := Kept.of hκ.out

theorem Kept.set_bq {e : Dev} (x_bq : KMap (Nat × Nat × Nat) (List Txn)) : Kept { e with bq := x_bq } ↔ Kept e := ⟨fun h => Kept.of h.out, fun h => Kept.of h.out⟩

theorem Kept.set_capt {e : Dev} (x_capt : KMap (Nat × RKey) Word) : Kept { e with capt := x_capt } ↔ Kept e := ⟨fun h => Kept.of h.out, fun h => Kept.of h.out⟩

theorem Kept.set_chunks {e : Dev} (x_chunks : List (Nat × Bytes)) : Kept { e with chunks := x_chunks } ↔ Kept e := ⟨fun h => Kept.of h.out, fun h => Kept.of h.out⟩

theorem Kept.set_errs {e : Dev} (x_errs : KMap Nat Nat) : Kept { e with errs := x_errs } ↔ Kept e := ⟨fun h => Kept.of h.out, fun h => Kept.of h.out⟩

theorem Kept.set_held {e : Dev} (x_held : KMap (Nat × RKey) Word) : Kept { e with held := x_held } ↔ Kept e := ⟨fun h => Kept.of h.out, fun h => Kept.of h.out⟩

theorem Kept.set_knkPend {e : Dev} (x_knkPend : KMap (Nat × Nat) Nat) : Kept { e with knkPend := x_knkPend } ↔ Kept e := ⟨fun h => Kept.of h.out, fun h => Kept.of h.out⟩

theorem Kept.set_memtest {e : Dev} (x_memtest : KMap Nat MemTest) : Kept { e with memtest := x_memtest } ↔ Kept e := ⟨fun h => Kept.of h.out, fun h => Kept.of h.out⟩

theorem Kept.set_net {e : Dev} (x_net : List Pkt) : Kept { e with net := x_net } ↔ Kept e := ⟨fun h => Kept.of h.out, fun h => Kept.of h.out⟩

theorem Kept.set_parts {e : Dev} (x_parts : KMap Nat Part) : Kept { e with parts := x_parts } ↔ Kept e := ⟨fun h => Kept.of h.out, fun h => Kept.of h.out⟩

theorem Kept.set_rdq {e : Dev} (x_rdq : KMap (Nat × Nat) (List Txn)) : Kept { e with rdq := x_rdq } ↔ Kept e := ⟨fun h => Kept.of h.out, fun h => Kept.of h.out⟩

theorem Kept.set_stest {e : Dev} (x_stest : List (Nat × Nat × Nat)) : Kept { e with stest := x_stest } ↔ Kept e := ⟨fun h => Kept.of h.out, fun h => Kept.of h.out⟩

theorem Kept.set_stews {e : Dev} (x_stews : KMap Nat Stew) : Kept { e with stews := x_stews } ↔ Kept e := ⟨fun h => Kept.of h.out, fun h => Kept.of h.out⟩

theorem Kept.set_tmb {e : Dev} (x_tmb : KMap Nat Word) : Kept { e with tmb := x_tmb } ↔ Kept e := ⟨fun h => Kept.of h.out, fun h => Kept.of h.out⟩

theorem Kept.set_tripN {e : Dev} (x_tripN : List Bool) : Kept { e with tripN := x_tripN } ↔ Kept e := ⟨fun h => Kept.of h.out, fun h => Kept.of h.out⟩

theorem Kept.set_wback {e : Dev} (x_wback : List (Nat × Bytes × Bytes)) : Kept { e with wback := x_wback } ↔ Kept e := ⟨fun h => Kept.of h.out, fun h => Kept.of h.out⟩

theorem Kept.set_aon_wards {e : Dev} (x_aon : List Bool) (x_wards : KMap Nat Ward) : Kept { e with aon := x_aon, wards := x_wards } ↔ Kept e := ⟨fun h => Kept.of h.out, fun h => Kept.of h.out⟩

theorem Kept.set_conv_narrow {e : Dev} (x_conv : KMap Nat (Nat × Bool)) (x_narrow : List (Nat × Nat)) : Kept { e with conv := x_conv, narrow := x_narrow } ↔ Kept e := ⟨fun h => Kept.of h.out, fun h => Kept.of h.out⟩

theorem Kept.set_memtest_narrow {e : Dev} (x_memtest : KMap Nat MemTest) (x_narrow : List (Nat × Nat)) : Kept { e with memtest := x_memtest, narrow := x_narrow } ↔ Kept e := ⟨fun h => Kept.of h.out, fun h => Kept.of h.out⟩

theorem Kept.set_cores_cells_waits {e : Dev} (x_cores : KMap Nat Core) (x_cells : KMap Nat CellSt) (x_waits : List WaitEnt) : Kept { e with cores := x_cores, cells := x_cells, waits := x_waits } ↔ Kept e := ⟨fun h => Kept.of h.out, fun h => Kept.of h.out⟩

theorem Kept.set_hbm_narrow_stews {e : Dev} (x_hbm : KMap Nat HbmSt) (x_narrow : List (Nat × Nat)) (x_stews : KMap Nat Stew) : Kept { e with hbm := x_hbm, narrow := x_narrow, stews := x_stews } ↔ Kept e := ⟨fun h => Kept.of h.out, fun h => Kept.of h.out⟩

theorem Kept.set_aon_lcnt_wards_pws_i3c_i3cOut_alert_tripN {e : Dev} (x_aon : List Bool) (x_lcnt : List Nat) (x_wards : KMap Nat Ward) (x_pws : KMap Nat PwSt) (x_i3c : KMap Nat (Bytes × Option Nat)) (x_i3cOut : KMap Nat (Bool × Bytes)) (x_alert : List Bool) (x_tripN : List Bool) : Kept { e with aon := x_aon, lcnt := x_lcnt, wards := x_wards, pws := x_pws, i3c := x_i3c, i3cOut := x_i3cOut, alert := x_alert, tripN := x_tripN } ↔ Kept e := ⟨fun h => Kept.of h.out, fun h => Kept.of h.out⟩

theorem Kept.set_cores_cells_engs_unfs_dsps_waits_chunks_stest {e : Dev} (x_cores : KMap Nat Core) (x_cells : KMap Nat CellSt) (x_engs : KMap Nat Eng) (x_unfs : KMap Nat Unf) (x_dsps : KMap Nat Dsp) (x_waits : List WaitEnt) (x_chunks : List (Nat × Bytes)) (x_stest : List (Nat × Nat × Nat)) : Kept { e with cores := x_cores, cells := x_cells, engs := x_engs, unfs := x_unfs, dsps := x_dsps, waits := x_waits, chunks := x_chunks, stest := x_stest } ↔ Kept e := ⟨fun h => Kept.of h.out, fun h => Kept.of h.out⟩

theorem Dev.draw_st (d : Dev) (hκ : Kept d) : Kept (Dev.draw d).2 := (Agree.kept (Dev.draw_kp (hμ := Within.refl _) (hκ := Agree.refl ..) ..) (by decide) hκ)

theorem Dev.draw_st' {d : Dev} {y0} {rd : Dev} (heq : Dev.draw d = (y0, rd)) (hκ : Kept d) : Kept rd := (Agree.kept (Dev.draw_kp' heq (Within.refl _) (Agree.refl ..)) (by decide) hκ)

theorem Dev.post_st (d : Dev) (die : Nat) (r : Rec) (hκ : Kept d) : Kept (Dev.post d die r) := (Agree.kept (Dev.post_kp (hμ := Within.refl _) (hκ := Agree.refl ..) ..) (by decide) hκ)

theorem Dev.fltPop_st (d : Dev) (die : Nat) (n : Nat) (hκ : Kept d) : Kept (Dev.fltPop d die n) := (Agree.kept (Dev.fltPop_kp (hμ := Within.refl _) (hκ := Agree.refl ..) ..) (by decide) hκ)

theorem Dev.fltPost_st (d : Dev) (die : Nat) (hκ : Kept d) : Kept (Dev.fltPost d die) := (Agree.kept (Dev.fltPost_kp (hμ := Within.refl _) (hκ := Agree.refl ..) ..) (by decide) hκ)

theorem Dev.raiseAlert_st (d : Dev) (die : Nat) (hκ : Kept d) : Kept (Dev.raiseAlert d die) := (Agree.kept (Dev.raiseAlert_kp (hμ := Within.refl _) (hκ := Agree.refl ..) ..) (by decide) hκ)

theorem Dev.ctlMiss_st (d : Dev) (die : Nat) (off : Nat) (write : Bool) (hκ : Kept d) : Kept (Dev.ctlMiss d die off write) := (Agree.kept (Dev.ctlMiss_kp (hμ := Within.refl _) (hκ := Agree.refl ..) ..) (by decide) hκ)

theorem Dev.setCore_st (d : Dev) (k : Nat) (c : Core) (hκ : Kept d) : Kept (Dev.setCore d k c) := (Agree.kept (Dev.setCore_kp (hμ := Within.refl _) (hκ := Agree.refl ..) ..) (by decide) hκ)

theorem Dev.setCell_st (d : Dev) (cn : Nat) (c : CellSt) (hκ : Kept d) : Kept (Dev.setCell d cn c) := (Agree.kept (Dev.setCell_kp (hμ := Within.refl _) (hκ := Agree.refl ..) ..) (by decide) hκ)

theorem Dev.dbDiscard_st (d : Dev) (cn : Nat) (p : Nat) (hκ : Kept d) : Kept (Dev.dbDiscard d cn p) := (Agree.kept (Dev.dbDiscard_kp (hμ := Within.refl _) (hκ := Agree.refl ..) ..) (by decide) hκ)

theorem Dev.send_st (d : Dev) (m : CtlMsg) (hκ : Kept d) : Kept (Dev.send d m) := (Agree.kept (Dev.send_kp (hμ := Within.refl _) (hκ := Agree.refl ..) ..) (by decide) hκ)

theorem Dev.sendOp_st (d : Dev) (src : Ep) (opc : Nat) (slot : Nat) (gen : Nat) (home : Nat) (idx : Nat) (part : Nat) (val : Nat) (imm : Nat) (hκ : Kept d) : Kept (Dev.sendOp d src opc slot gen home idx part val imm) := (Agree.kept (Dev.sendOp_kp (hμ := Within.refl _) (hκ := Agree.refl ..) ..) (by decide) hκ)

theorem Dev.bankSet_st (d : Dev) (home : Nat) (idx : Nat) (v : Nat) (hκ : Kept d) : Kept (Dev.bankSet d home idx v) := (Agree.kept (Dev.bankSet_kp (hμ := Within.refl _) (hκ := Agree.refl ..) ..) (by decide) hκ)

theorem Dev.bankAdd_st (d : Dev) (home : Nat) (idx : Nat) (v : Nat) (hκ : Kept d) : Kept (Dev.bankAdd d home idx v) := (Agree.kept (Dev.bankAdd_kp (hμ := Within.refl _) (hκ := Agree.refl ..) ..) (by decide) hκ)

theorem Dev.upset_st (d : Dev) (ups : List (Nat × Nat)) (hκ : Kept d) : Kept (Dev.upset d ups) := (Agree.kept (Dev.upset_kp (hμ := Within.refl _) (hκ := Agree.refl ..) ..) (by decide) hκ)

theorem Dev.markUnit_st (d : Dev) (a : Nat) (m : Nat) (hκ : Kept d) : Kept (Dev.markUnit d a m) := (Agree.kept (Dev.markUnit_kp (hμ := Within.refl _) (hκ := Agree.refl ..) ..) (by decide) hκ)

theorem Dev.spCount_st (d : Dev) (key : Nat) (fixed : Nat) (ues : Nat) (hκ : Kept d) : Kept (Dev.spCount d key fixed ues) := (Agree.kept (Dev.spCount_kp (hμ := Within.refl _) (hκ := Agree.refl ..) ..) (by decide) hκ)

theorem Dev.spLoad_st (d : Dev) (key : Nat) (off : Nat) (n : Nat) (hκ : Kept d) : Kept (Dev.spLoad d key off n).2 := (Agree.kept (Dev.spLoad_kp (hμ := Within.refl _) (hκ := Agree.refl ..) ..) (by decide) hκ)

theorem Dev.spLoad_st' {d : Dev} {key : Nat} {off : Nat} {n : Nat} {y0} {rd : Dev} (heq : Dev.spLoad d key off n = (y0, rd)) (hκ : Kept d) : Kept rd := (Agree.kept (Dev.spLoad_kp' heq (Within.refl _) (Agree.refl ..)) (by decide) hκ)

theorem Dev.setMerge_st (d : Dev) (die : Nat) (bank : Nat) (es : List MEnt) (hκ : Kept d) : Kept (Dev.setMerge d die bank es) := (Agree.kept (Dev.setMerge_kp (hμ := Within.refl _) (hκ := Agree.refl ..) ..) (by decide) hκ)

theorem Dev.sbCount_st (d : Dev) (die : Nat) (woff : Nat) (r : Rd) (hκ : Kept d) : Kept (Dev.sbCount d die woff r) := (Agree.kept (Dev.sbCount_kp (hμ := Within.refl _) (hκ := Agree.refl ..) ..) (by decide) hκ)

theorem Dev.sbLoad_st (d : Dev) (die : Nat) (off : Nat) (n : Nat) (hκ : Kept d) : Kept (Dev.sbLoad d die off n).2 := (Agree.kept (Dev.sbLoad_kp (hμ := Within.refl _) (hκ := Agree.refl ..) ..) (by decide) hκ)

theorem Dev.sbLoad_st' {d : Dev} {die : Nat} {off : Nat} {n : Nat} {y0} {rd : Dev} (heq : Dev.sbLoad d die off n = (y0, rd)) (hκ : Kept d) : Kept rd := (Agree.kept (Dev.sbLoad_kp' heq (Within.refl _) (Agree.refl ..)) (by decide) hκ)

theorem Dev.sbDropEnt_st (d : Dev) (die : Nat) (woff : Nat) (hκ : Kept d) : Kept (Dev.sbDropEnt d die woff) := (Agree.kept (Dev.sbDropEnt_kp (hμ := Within.refl _) (hκ := Agree.refl ..) ..) (by decide) hκ)

theorem Dev.krgCmdWrite_st (d : Dev) (die : Nat) (v : Nat) (hκ : Kept d) : Kept (Dev.krgCmdWrite d die v) := (Agree.kept (Dev.krgCmdWrite_kp (hμ := Within.refl _) (hκ := Agree.refl ..) ..) (by decide) hκ)

theorem Dev.krgDone_st (d : Dev) (die : Nat) (hκ : Kept d) : Kept (Dev.krgDone d die) := (Agree.kept (Dev.krgDone_kp (hμ := Within.refl _) (hκ := Agree.refl ..) ..) (by decide) hκ)

theorem Dev.setHbm_st (d : Dev) (die : Nat) (stack : Nat) (h : HbmSt) (hκ : Kept d) : Kept (Dev.setHbm d die stack h) := (Agree.kept (Dev.setHbm_kp (hμ := Within.refl _) (hκ := Agree.refl ..) ..) (by decide) hκ)

theorem Dev.memRec_st (d : Dev) (die : Nat) (stack : Nat) (code : Nat) (addr : Nat) (hκ : Kept d) : Kept (Dev.memRec d die stack code addr) := (Agree.kept (Dev.memRec_kp (hμ := Within.refl _) (hκ := Agree.refl ..) ..) (by decide) hκ)

theorem Dev.freeMin_st (d : Dev) (die : Nat) (stack : Nat) (pc : Nat) (bank : Nat) (hκ : Kept d) : Kept (Dev.freeMin d die stack pc bank) := (Agree.kept (Dev.freeMin_kp (hμ := Within.refl _) (hκ := Agree.refl ..) ..) (by decide) hκ)

theorem Dev.sidesFail_st (d : Dev) (die : Nat) (off : Nat) (sides : List Nat) (hκ : Kept d) : Kept (Dev.sidesFail d die off sides) := (Agree.kept (Dev.sidesFail_kp (hμ := Within.refl _) (hκ := Agree.refl ..) ..) (by decide) hκ)

theorem Dev.hbLast_st (d : Dev) (die : Nat) (off : Nat) (pc : Nat) (ue : Nat) (hκ : Kept d) : Kept (Dev.hbLast d die off pc ue) := (Agree.kept (Dev.hbLast_kp (hμ := Within.refl _) (hκ := Agree.refl ..) ..) (by decide) hκ)

theorem Dev.blankCut_st (d : Dev) (die : Nat) (stack : Nat) (hκ : Kept d) : Kept (Dev.blankCut d die stack) := (Agree.kept (Dev.blankCut_kp (hμ := Within.refl _) (hκ := Agree.refl ..) ..) (by decide) hκ)

theorem Dev.ncWrite_st (d : Dev) (die : Nat) (inst : Nat) (v : Nat) (hκ : Kept d) : Kept (Dev.ncWrite d die inst v) := (Agree.kept (Dev.ncWrite_kp (hμ := Within.refl _) (hκ := Agree.refl ..) ..) (by decide) hκ)

theorem Dev.hbRefresh_st (d : Dev) (die : Nat) (stack : Nat) (hκ : Kept d) : Kept (Dev.hbRefresh d die stack) := (Agree.kept (Dev.hbRefresh_kp (hμ := Within.refl _) (hκ := Agree.refl ..) ..) (by decide) hκ)

theorem Dev.hbTemp_st (d : Dev) (die : Nat) (stack : Nat) (temp : Nat) (hκ : Kept d) : Kept (Dev.hbTemp d die stack temp) := (Agree.kept (Dev.hbTemp_kp (hμ := Within.refl _) (hκ := Agree.refl ..) ..) (by decide) hκ)

theorem Dev.hbTmaxClr_st (d : Dev) (die : Nat) (stack : Nat) (hκ : Kept d) : Kept (Dev.hbTmaxClr d die stack) := (Agree.kept (Dev.hbTmaxClr_kp (hμ := Within.refl _) (hκ := Agree.refl ..) ..) (by decide) hκ)

theorem Dev.rrateSet_st (d : Dev) (die : Nat) (stack : Nat) (s : Nat) (v : Nat) (hκ : Kept d) : Kept (Dev.rrateSet d die stack s v) := (Agree.kept (Dev.rrateSet_kp (hμ := Within.refl _) (hκ := Agree.refl ..) ..) (by decide) hκ)

theorem Dev.rrateWrite_st (d : Dev) (die : Nat) (stack : Nat) (v : Nat) (hκ : Kept d) : Kept (Dev.rrateWrite d die stack v) := (Agree.kept (Dev.rrateWrite_kp (hμ := Within.refl _) (hκ := Agree.refl ..) ..) (by decide) hκ)

theorem Dev.refctlWrite_st (d : Dev) (die : Nat) (stack : Nat) (v : Nat) (hκ : Kept d) : Kept (Dev.refctlWrite d die stack v) := (Agree.kept (Dev.refctlWrite_kp (hμ := Within.refl _) (hκ := Agree.refl ..) ..) (by decide) hκ)

theorem Dev.hbSelfref_st (d : Dev) (die : Nat) (stack : Nat) (hκ : Kept d) : Kept (Dev.hbSelfref d die stack) := (Agree.kept (Dev.hbSelfref_kp (hμ := Within.refl _) (hκ := Agree.refl ..) ..) (by decide) hκ)

theorem Dev.hbHold_st (d : Dev) (die : Nat) (stack : Nat) (hκ : Kept d) : Kept (Dev.hbHold d die stack) := (Agree.kept (Dev.hbHold_kp (hμ := Within.refl _) (hκ := Agree.refl ..) ..) (by decide) hκ)

theorem Dev.hbCtlWrite_st (d : Dev) (die : Nat) (stack : Nat) (v : Nat) (hκ : Kept d) : Kept (Dev.hbCtlWrite d die stack v) := (Agree.kept (Dev.hbCtlWrite_kp (hμ := Within.refl _) (hκ := Agree.refl ..) ..) (by decide) hκ)

theorem Dev.hbTrained_st (d : Dev) (die : Nat) (stack : Nat) (t : TrainRes) (hκ : Kept d) : Kept (Dev.hbTrained d die stack t) := (Agree.kept (Dev.hbTrained_kp (hμ := Within.refl _) (hκ := Agree.refl ..) ..) (by decide) hκ)

theorem Dev.rowClose_st (d : Dev) (die : Nat) (pc : Nat) (bank : Nat) (hκ : Kept d) : Kept (Dev.rowClose d die pc bank) := (Agree.kept (Dev.rowClose_kp (hμ := Within.refl _) (hκ := Agree.refl ..) ..) (by decide) hκ)

theorem Dev.wrDrain_st (d : Dev) (die : Nat) (chan : Nat) (hκ : Kept d) : Kept (Dev.wrDrain d die chan) := (Agree.kept (Dev.wrDrain_kp (hμ := Within.refl _) (hκ := Agree.refl ..) ..) (by decide) hκ)

theorem Dev.coreSend_st (d : Dev) (cn : Nat) (p : Nat) (m : CtlMsg) (hκ : Kept d) : Kept (Dev.coreSend d cn p m) := (Agree.kept (Dev.coreSend_kp (hμ := Within.refl _) (hκ := Agree.refl ..) ..) (by decide) hκ)

theorem Dev.withdrawSlots_st (d : Dev) (cn : Nat) (p : Nat) (hκ : Kept d) : Kept (Dev.withdrawSlots d cn p) := (Agree.kept (Dev.withdrawSlots_kp (hμ := Within.refl _) (hκ := Agree.refl ..) ..) (by decide) hκ)

theorem Dev.trapCore_st (d : Dev) (cn : Nat) (p : Nat) (ix : Nat) (w : Nat) (t : Trap) (hκ : Kept d) : Kept (Dev.trapCore d cn p ix w t) := (Agree.kept (Dev.trapCore_kp (hμ := Within.refl _) (hκ := Agree.refl ..) ..) (by decide) hκ)

theorem Dev.loadThen_st (d : Dev) (key : Nat) (off : Nat) (n : Nat) (f : Bytes → Core → Core) (hκ : Kept d) : Kept (Dev.loadThen d key off n f).1 := (Agree.kept (Dev.loadThen_kp (hμ := Within.refl _) (hκ := Agree.refl ..) ..) (by decide) hκ)

theorem Dev.loadThen_st' {d : Dev} {key : Nat} {off : Nat} {n : Nat} {f : Bytes → Core → Core} {rd : Dev} {y} (heq : Dev.loadThen d key off n f = (rd, y)) (hκ : Kept d) : Kept rd := (Agree.kept (Dev.loadThen_kp' heq (Within.refl _) (Agree.refl ..)) (by decide) hκ)

theorem Dev.planFetch_st (d : Dev) (cn : Nat) (p : Nat) (hκ : Kept d) : Kept (Dev.planFetch d cn p) := (Agree.kept (Dev.planFetch_kp (hμ := Within.refl _) (hκ := Agree.refl ..) ..) (by decide) hκ)

theorem Dev.wNop_st (d : Dev) (cn : Nat) (p : Nat) (hκ : Kept d) : Kept (Dev.wNop d cn p) := (Agree.kept (Dev.wNop_kp (hμ := Within.refl _) (hκ := Agree.refl ..) ..) (by decide) hκ)

theorem Dev.wEnd_st (d : Dev) (cn : Nat) (p : Nat) (hκ : Kept d) : Kept (Dev.wEnd d cn p) := (Agree.kept (Dev.wEnd_kp (hμ := Within.refl _) (hκ := Agree.refl ..) ..) (by decide) hκ)

theorem Dev.coreDone_st (d : Dev) (cn : Nat) (p : Nat) (hκ : Kept d) : Kept (Dev.coreDone d cn p) := (Agree.kept (Dev.coreDone_kp (hμ := Within.refl _) (hκ := Agree.refl ..) ..) (by decide) hκ)

theorem Dev.backEdge_st (d : Dev) (cn : Nat) (p : Nat) (hκ : Kept d) : Kept (Dev.backEdge d cn p) := (Agree.kept (Dev.backEdge_kp (hμ := Within.refl _) (hκ := Agree.refl ..) ..) (by decide) hκ)

theorem Dev.seedDone_st (d : Dev) (cn : Nat) (p : Nat) (hκ : Kept d) : Kept (Dev.seedDone d cn p) := (Agree.kept (Dev.seedDone_kp (hμ := Within.refl _) (hκ := Agree.refl ..) ..) (by decide) hκ)

theorem Dev.wFlags_st (d : Dev) (cn : Nat) (p : Nat) (hκ : Kept d) : Kept (Dev.wFlags d cn p) := (Agree.kept (Dev.wFlags_kp (hμ := Within.refl _) (hκ := Agree.refl ..) ..) (by decide) hκ)

theorem Dev.wDcap_st (d : Dev) (cn : Nat) (p : Nat) (hκ : Kept d) : Kept (Dev.wDcap d cn p) := (Agree.kept (Dev.wDcap_kp (hμ := Within.refl _) (hκ := Agree.refl ..) ..) (by decide) hκ)

theorem Dev.lutDone_st (d : Dev) (cn : Nat) (p : Nat) (hκ : Kept d) : Kept (Dev.lutDone d cn p) := (Agree.kept (Dev.lutDone_kp (hμ := Within.refl _) (hκ := Agree.refl ..) ..) (by decide) hκ)

theorem Dev.wCset_st (d : Dev) (cn : Nat) (p : Nat) (hκ : Kept d) : Kept (Dev.wCset d cn p) := (Agree.kept (Dev.wCset_kp (hμ := Within.refl _) (hκ := Agree.refl ..) ..) (by decide) hκ)

theorem Dev.wCalc_st (d : Dev) (cn : Nat) (p : Nat) (hκ : Kept d) : Kept (Dev.wCalc d cn p) := (Agree.kept (Dev.wCalc_kp (hμ := Within.refl _) (hκ := Agree.refl ..) ..) (by decide) hκ)

theorem Dev.wCmin_st (d : Dev) (cn : Nat) (p : Nat) (hκ : Kept d) : Kept (Dev.wCmin d cn p) := (Agree.kept (Dev.wCmin_kp (hμ := Within.refl _) (hκ := Agree.refl ..) ..) (by decide) hκ)

theorem Dev.wAset_st (d : Dev) (cn : Nat) (p : Nat) (hκ : Kept d) : Kept (Dev.wAset d cn p) := (Agree.kept (Dev.wAset_kp (hμ := Within.refl _) (hκ := Agree.refl ..) ..) (by decide) hκ)

theorem Dev.wAadd_st (d : Dev) (cn : Nat) (p : Nat) (hκ : Kept d) : Kept (Dev.wAadd d cn p) := (Agree.kept (Dev.wAadd_kp (hμ := Within.refl _) (hκ := Agree.refl ..) ..) (by decide) hκ)

theorem Dev.mmaDone_st (d : Dev) (cn : Nat) (p : Nat) (hκ : Kept d) : Kept (Dev.mmaDone d cn p) := (Agree.kept (Dev.mmaDone_kp (hμ := Within.refl _) (hκ := Agree.refl ..) ..) (by decide) hκ)

theorem Dev.wWsync_st (d : Dev) (cn : Nat) (p : Nat) (hκ : Kept d) : Kept (Dev.wWsync d cn p) := (Agree.kept (Dev.wWsync_kp (hμ := Within.refl _) (hκ := Agree.refl ..) ..) (by decide) hκ)

theorem Dev.traddRelease_st (d : Dev) (cn : Nat) (p : Nat) (hκ : Kept d) : Kept (Dev.traddRelease d cn p) := (Agree.kept (Dev.traddRelease_kp (hμ := Within.refl _) (hκ := Agree.refl ..) ..) (by decide) hκ)

theorem Dev.coreTimeout_st (d : Dev) (cn : Nat) (p : Nat) (hκ : Kept d) : Kept (Dev.coreTimeout d cn p) := (Agree.kept (Dev.coreTimeout_kp (hμ := Within.refl _) (hκ := Agree.refl ..) ..) (by decide) hκ)

theorem Dev.pdrop_st (d : Dev) (die : Nat) (hκ : Kept d) : Kept (Dev.pdrop d die) := (Agree.kept (Dev.pdrop_kp (hμ := Within.refl _) (hκ := Agree.refl ..) ..) (by decide) hκ)

theorem Dev.netDrop_st (d : Dev) (n : Nat) (hκ : Kept d) : Kept (Dev.netDrop d n) := (Agree.kept (Dev.netDrop_kp (hμ := Within.refl _) (hκ := Agree.refl ..) ..) (by decide) hκ)

theorem Dev.netPut_st (d : Dev) (p : Pkt) (hκ : Kept d) : Kept (Dev.netPut d p) := (Agree.kept (Dev.netPut_kp (hμ := Within.refl _) (hκ := Agree.refl ..) ..) (by decide) hκ)

theorem Dev.respond_st (d : Dev) (t : Txn) (stat : Nat) (data : Bytes) (hκ : Kept d) : Kept (Dev.respond d t stat data) := (Agree.kept (Dev.respond_kp (hμ := Within.refl _) (hκ := Agree.refl ..) ..) (by decide) hκ)

theorem Dev.pathFail_st (d : Dev) (die : Nat) (t : Txn) (hκ : Kept d) : Kept (Dev.pathFail d die t) := (Agree.kept (Dev.pathFail_kp (hμ := Within.refl _) (hκ := Agree.refl ..) ..) (by decide) hκ)

theorem Dev.bqPut_st (d : Dev) (die : Nat) (t : Txn) (hκ : Kept d) : Kept (Dev.bqPut d die t) := (Agree.kept (Dev.bqPut_kp (hμ := Within.refl _) (hκ := Agree.refl ..) ..) (by decide) hκ)

theorem Dev.fillBuckets_st (d : Dev) (die : Nat) (grp : Nat) (n : Nat) (hκ : Kept d) : Kept (Dev.fillBuckets d die grp n) := (Agree.kept (Dev.fillBuckets_kp (hμ := Within.refl _) (hκ := Agree.refl ..) ..) (by decide) hκ)

theorem Dev.wrqPut_st (d : Dev) (die : Nat) (t : Txn) (hκ : Kept d) : Kept (Dev.wrqPut d die t) := (Agree.kept (Dev.wrqPut_kp (hμ := Within.refl _) (hκ := Agree.refl ..) ..) (by decide) hκ)

theorem Dev.burst_st (d : Dev) (die : Nat) (t : Txn) (hκ : Kept d) : Kept (Dev.burst d die t) := (Agree.kept (Dev.burst_kp (hμ := Within.refl _) (hκ := Agree.refl ..) ..) (by decide) hκ)

theorem Dev.listFetch_st (d : Dev) (die : Nat) (e : Nat) (hκ : Kept d) : Kept (Dev.listFetch d die e) := (Agree.kept (Dev.listFetch_kp (hμ := Within.refl _) (hκ := Agree.refl ..) ..) (by decide) hκ)

theorem Dev.entBegin_st (d : Dev) (die : Nat) (e : Nat) (op : Nat) (hκ : Kept d) : Kept (Dev.entBegin d die e op) := (Agree.kept (Dev.entBegin_kp (hμ := Within.refl _) (hκ := Agree.refl ..) ..) (by decide) hκ)

theorem Dev.engTimeout_st (d : Dev) (die : Nat) (e : Nat) (hκ : Kept d) : Kept (Dev.engTimeout d die e) := (Agree.kept (Dev.engTimeout_kp (hμ := Within.refl _) (hκ := Agree.refl ..) ..) (by decide) hκ)

theorem Dev.txnIssue_st (d : Dev) (die : Nat) (e : Nat) (hκ : Kept d) : Kept (Dev.txnIssue d die e) := (Agree.kept (Dev.txnIssue_kp (hμ := Within.refl _) (hκ := Agree.refl ..) ..) (by decide) hκ)

theorem Dev.engAdd_st (d : Dev) (die : Nat) (e : Nat) (hκ : Kept d) : Kept (Dev.engAdd d die e) := (Agree.kept (Dev.engAdd_kp (hμ := Within.refl _) (hκ := Agree.refl ..) ..) (by decide) hκ)

theorem Dev.engDone_st (d : Dev) (die : Nat) (e : Nat) (hκ : Kept d) : Kept (Dev.engDone d die e) := (Agree.kept (Dev.engDone_kp (hμ := Within.refl _) (hκ := Agree.refl ..) ..) (by decide) hκ)

theorem Dev.engAbort_st (d : Dev) (die : Nat) (e : Nat) (hκ : Kept d) : Kept (Dev.engAbort d die e) := (Agree.kept (Dev.engAbort_kp (hμ := Within.refl _) (hκ := Agree.refl ..) ..) (by decide) hκ)

theorem Dev.engDrained_st (d : Dev) (die : Nat) (e : Nat) (hκ : Kept d) : Kept (Dev.engDrained d die e) := (Agree.kept (Dev.engDrained_kp (hμ := Within.refl _) (hκ := Agree.refl ..) ..) (by decide) hκ)

theorem Dev.engStart_st (d : Dev) (die : Nat) (e : Nat) (hκ : Kept d) : Kept (Dev.engStart d die e) := (Agree.kept (Dev.engStart_kp (hμ := Within.refl _) (hκ := Agree.refl ..) ..) (by decide) hκ)

theorem Dev.engReset_st (d : Dev) (die : Nat) (e : Nat) (hκ : Kept d) : Kept (Dev.engReset d die e) := (Agree.kept (Dev.engReset_kp (hμ := Within.refl _) (hκ := Agree.refl ..) ..) (by decide) hκ)

theorem Dev.unfGrant_st (d : Dev) (die : Nat) (u : Nat) (hκ : Kept d) : Kept (Dev.unfGrant d die u) := (Agree.kept (Dev.unfGrant_kp (hμ := Within.refl _) (hκ := Agree.refl ..) ..) (by decide) hκ)

theorem Dev.unfParse_st (d : Dev) (die : Nat) (u : Nat) (x : Nat) (hκ : Kept d) : Kept (Dev.unfParse d die u x) := (Agree.kept (Dev.unfParse_kp (hμ := Within.refl _) (hκ := Agree.refl ..) ..) (by decide) hκ)

theorem Dev.engFollow_st (d : Dev) (die : Nat) (e : Nat) (hκ : Kept d) : Kept (Dev.engFollow d die e) := (Agree.kept (Dev.engFollow_kp (hμ := Within.refl _) (hκ := Agree.refl ..) ..) (by decide) hκ)

theorem Dev.unfWalk_st (d : Dev) (die : Nat) (u : Nat) (hκ : Kept d) : Kept (Dev.unfWalk d die u) := (Agree.kept (Dev.unfWalk_kp (hμ := Within.refl _) (hκ := Agree.refl ..) ..) (by decide) hκ)

theorem Dev.unfRowDone_st (d : Dev) (die : Nat) (u : Nat) (x : Nat) (hκ : Kept d) : Kept (Dev.unfRowDone d die u x) := (Agree.kept (Dev.unfRowDone_kp (hμ := Within.refl _) (hκ := Agree.refl ..) ..) (by decide) hκ)

theorem Dev.engResumeAll_st (d : Dev) (die : Nat) (e : Nat) (hκ : Kept d) : Kept (Dev.engResumeAll d die e) := (Agree.kept (Dev.engResumeAll_kp (hμ := Within.refl _) (hκ := Agree.refl ..) ..) (by decide) hκ)

theorem Dev.tenCtlWrite_st (d : Dev) (die : Nat) (e : Nat) (v : Nat) (hκ : Kept d) : Kept (Dev.tenCtlWrite d die e v) := (Agree.kept (Dev.tenCtlWrite_kp (hμ := Within.refl _) (hκ := Agree.refl ..) ..) (by decide) hκ)

theorem Dev.unfCtlWrite_st (d : Dev) (die : Nat) (u : Nat) (v : Nat) (hκ : Kept d) : Kept (Dev.unfCtlWrite d die u v) := (Agree.kept (Dev.unfCtlWrite_kp (hμ := Within.refl _) (hκ := Agree.refl ..) ..) (by decide) hκ)

theorem Dev.unfReset_st (d : Dev) (die : Nat) (u : Nat) (hκ : Kept d) : Kept (Dev.unfReset d die u) := (Agree.kept (Dev.unfReset_kp (hμ := Within.refl _) (hκ := Agree.refl ..) ..) (by decide) hκ)

theorem Dev.modDsp_st (d : Dev) (die : Nat) (f : Dsp → Dsp) (hκ : Kept d) : Kept (Dev.modDsp d die f) := (Agree.kept (Dev.modDsp_kp (hμ := Within.refl _) (hκ := Agree.refl ..) ..) (by decide) hκ)

theorem Dev.setDsp_st (d : Dev) (die : Nat) (st : Nat) (hκ : Kept d) : Kept (Dev.setDsp d die st) := (Agree.kept (Dev.setDsp_kp (hμ := Within.refl _) (hκ := Agree.refl ..) ..) (by decide) hκ)

theorem Dev.dspFail_st (d : Dev) (die : Nat) (cause : Nat) (info : Nat) (hκ : Kept d) : Kept (Dev.dspFail d die cause info) := (Agree.kept (Dev.dspFail_kp (hμ := Within.refl _) (hκ := Agree.refl ..) ..) (by decide) hκ)

theorem Dev.dspSettle_st (d : Dev) (die : Nat) (hκ : Kept d) : Kept (Dev.dspSettle d die) := (Agree.kept (Dev.dspSettle_kp (hμ := Within.refl _) (hκ := Agree.refl ..) ..) (by decide) hκ)

theorem Dev.dspOverflow_st (d : Dev) (die : Nat) (step : Nat) (s : Step) (area : Nat) (v : Served) (ncand : Nat) (hκ : Kept d) : Kept (Dev.dspOverflow d die step s area v ncand).2 := (Agree.kept (Dev.dspOverflow_kp (hμ := Within.refl _) (hκ := Agree.refl ..) ..) (by decide) hκ)

theorem Dev.dspOverflow_st' {d : Dev} {die : Nat} {step : Nat} {s : Step} {area : Nat} {v : Served} {ncand : Nat} {y0} {rd : Dev} (heq : Dev.dspOverflow d die step s area v ncand = (y0, rd)) (hκ : Kept d) : Kept rd := (Agree.kept (Dev.dspOverflow_kp' heq (Within.refl _) (Agree.refl ..)) (by decide) hκ)

theorem Dev.dspUndef_st (d : Dev) (die : Nat) (s : Step) (hκ : Kept d) : Kept (Dev.dspUndef d die s) := (Agree.kept (Dev.dspUndef_kp (hμ := Within.refl _) (hκ := Agree.refl ..) ..) (by decide) hκ)

theorem Dev.dspFetch_st (d : Dev) (die : Nat) (hκ : Kept d) : Kept (Dev.dspFetch d die) := (Agree.kept (Dev.dspFetch_kp (hμ := Within.refl _) (hκ := Agree.refl ..) ..) (by decide) hκ)

theorem Dev.dspRan_st (d : Dev) (die : Nat) (n : Nat) (s : Step) (hκ : Kept d) : Kept (Dev.dspRan d die n s) := (Agree.kept (Dev.dspRan_kp (hμ := Within.refl _) (hκ := Agree.refl ..) ..) (by decide) hκ)

theorem Dev.dspTimeout_st (d : Dev) (die : Nat) (hκ : Kept d) : Kept (Dev.dspTimeout d die) := (Agree.kept (Dev.dspTimeout_kp (hμ := Within.refl _) (hκ := Agree.refl ..) ..) (by decide) hκ)

theorem Dev.dspAdd_st (d : Dev) (die : Nat) (hκ : Kept d) : Kept (Dev.dspAdd d die) := (Agree.kept (Dev.dspAdd_kp (hμ := Within.refl _) (hκ := Agree.refl ..) ..) (by decide) hκ)

theorem Dev.dspStart_st (d : Dev) (die : Nat) (hκ : Kept d) : Kept (Dev.dspStart d die) := (Agree.kept (Dev.dspStart_kp (hμ := Within.refl _) (hκ := Agree.refl ..) ..) (by decide) hκ)

theorem Dev.dspAbort_st (d : Dev) (die : Nat) (hκ : Kept d) : Kept (Dev.dspAbort d die) := (Agree.kept (Dev.dspAbort_kp (hμ := Within.refl _) (hκ := Agree.refl ..) ..) (by decide) hκ)

theorem Dev.dspDrained_st (d : Dev) (die : Nat) (hκ : Kept d) : Kept (Dev.dspDrained d die) := (Agree.kept (Dev.dspDrained_kp (hμ := Within.refl _) (hκ := Agree.refl ..) ..) (by decide) hκ)

theorem Dev.dspCtlWrite_st (d : Dev) (die : Nat) (v : Nat) (hκ : Kept d) : Kept (Dev.dspCtlWrite d die v) := (Agree.kept (Dev.dspCtlWrite_kp (hμ := Within.refl _) (hκ := Agree.refl ..) ..) (by decide) hκ)

theorem Dev.dspReset_st (d : Dev) (die : Nat) (hκ : Kept d) : Kept (Dev.dspReset d die) := (Agree.kept (Dev.dspReset_kp (hμ := Within.refl _) (hκ := Agree.refl ..) ..) (by decide) hκ)

theorem Dev.stopCore_st (d : Dev) (cn : Nat) (p : Nat) (hκ : Kept d) : Kept (Dev.stopCore d cn p) := (Agree.kept (Dev.stopCore_kp (hμ := Within.refl _) (hκ := Agree.refl ..) ..) (by decide) hκ)

theorem Dev.drainCore_st (d : Dev) (cn : Nat) (p : Nat) (hκ : Kept d) : Kept (Dev.drainCore d cn p) := (Agree.kept (Dev.drainCore_kp (hμ := Within.refl _) (hκ := Agree.refl ..) ..) (by decide) hκ)

theorem Dev.abortCore_st (d : Dev) (cn : Nat) (p : Nat) (hκ : Kept d) : Kept (Dev.abortCore d cn p) := (Agree.kept (Dev.abortCore_kp (hμ := Within.refl _) (hκ := Agree.refl ..) ..) (by decide) hκ)

theorem Dev.planRun_st (d : Dev) (cn : Nat) (start : Bool) (abort : Bool) (hκ : Kept d) : Kept (Dev.planRun d cn start abort) := (Agree.kept (Dev.planRun_kp (hμ := Within.refl _) (hκ := Agree.refl ..) ..) (by decide) hκ)

theorem Dev.setPark_st (d : Dev) (cn : Nat) (b : Bool) (hκ : Kept d) : Kept (Dev.setPark d cn b) := (Agree.kept (Dev.setPark_kp (hμ := Within.refl _) (hκ := Agree.refl ..) ..) (by decide) hκ)

theorem Dev.cellPark_st (d : Dev) (cn : Nat) (hκ : Kept d) : Kept (Dev.cellPark d cn) := (Agree.kept (Dev.cellPark_kp (hμ := Within.refl _) (hκ := Agree.refl ..) ..) (by decide) hκ)

theorem Dev.cellResetDone_st (d : Dev) (cn : Nat) (hκ : Kept d) : Kept (Dev.cellResetDone d cn) := (Agree.kept (Dev.cellResetDone_kp (hμ := Within.refl _) (hκ := Agree.refl ..) ..) (by decide) hκ)

theorem Dev.pctlSet_st (d : Dev) (die : Nat) (n : Nat) (s : Nat) (v : Nat) (hκ : Kept d) : Kept (Dev.pctlSet d die n s v) := (Agree.kept (Dev.pctlSet_kp (hμ := Within.refl _) (hκ := Agree.refl ..) ..) (by decide) hκ)

theorem Dev.ldctlWrite_st (d : Dev) (die : Nat) (n : Nat) (v : Nat) (hκ : Kept d) : Kept (Dev.ldctlWrite d die n v) := (Agree.kept (Dev.ldctlWrite_kp (hμ := Within.refl _) (hκ := Agree.refl ..) ..) (by decide) hκ)

theorem Dev.prunWrite_st (d : Dev) (die : Nat) (i : Nat) (v : Nat) (hκ : Kept d) : Kept (Dev.prunWrite d die i v) := (Agree.kept (Dev.prunWrite_kp (hμ := Within.refl _) (hκ := Agree.refl ..) ..) (by decide) hκ)

theorem Dev.rangeWrite_st (d : Dev) (die : Nat) (i : Nat) (v : Nat) (hκ : Kept d) : Kept (Dev.rangeWrite d die i v) := (Agree.kept (Dev.rangeWrite_kp (hμ := Within.refl _) (hκ := Agree.refl ..) ..) (by decide) hκ)

theorem Dev.bcastWrite_st (d : Dev) (die : Nat) (v : Nat) (hκ : Kept d) : Kept (Dev.bcastWrite d die v) := (Agree.kept (Dev.bcastWrite_kp (hμ := Within.refl _) (hκ := Agree.refl ..) ..) (by decide) hκ)

theorem Dev.swCtlWrite_st (d : Dev) (die : Nat) (v : Nat) (hκ : Kept d) : Kept (Dev.swCtlWrite d die v) := (Agree.kept (Dev.swCtlWrite_kp (hμ := Within.refl _) (hκ := Agree.refl ..) ..) (by decide) hκ)

theorem Dev.hubDbSet_st (d : Dev) (die : Nat) (s : Nat) (v : Nat) (hκ : Kept d) : Kept (Dev.hubDbSet d die s v) := (Agree.kept (Dev.hubDbSet_kp (hμ := Within.refl _) (hκ := Agree.refl ..) ..) (by decide) hκ)

theorem Dev.hubDbWrite_st (d : Dev) (die : Nat) (v : Nat) (hκ : Kept d) : Kept (Dev.hubDbWrite d die v) := (Agree.kept (Dev.hubDbWrite_kp (hμ := Within.refl _) (hκ := Agree.refl ..) ..) (by decide) hκ)

theorem Dev.kmapWrite_st (d : Dev) (die : Nat) (v : Nat) (hκ : Kept d) : Kept (Dev.kmapWrite d die v) := (Agree.kept (Dev.kmapWrite_kp (hμ := Within.refl _) (hκ := Agree.refl ..) ..) (by decide) hκ)

theorem Dev.knkUp_st (d : Dev) (k : Nat) (hκ : Kept d) : Kept (Dev.knkUp d k) := (Agree.kept (Dev.knkUp_kp (hμ := Within.refl _) (hκ := Agree.refl ..) ..) (by decide) hκ)

theorem Dev.mapUpdate_st (d : Dev) (die : Nat) (k : Nat) (pkts : List Nat) (msgs : List Nat) (hκ : Kept d) : Kept (Dev.mapUpdate d die k pkts msgs) := (Agree.kept (Dev.mapUpdate_kp (hμ := Within.refl _) (hκ := Agree.refl ..) ..) (by decide) hκ)

theorem Dev.setFlink_st (d : Dev) (die : Nat) (inst : Nat) (l : FLink) (hκ : Kept d) : Kept (Dev.setFlink d die inst l) := (Agree.kept (Dev.setFlink_kp (hμ := Within.refl _) (hκ := Agree.refl ..) ..) (by decide) hκ)

theorem Dev.setKnk_st (d : Dev) (k : Nat) (x : Knk) (hκ : Kept d) : Kept (Dev.setKnk d k x) := (Agree.kept (Dev.setKnk_kp (hμ := Within.refl _) (hκ := Agree.refl ..) ..) (by decide) hκ)

theorem Dev.knkFull_st (d : Dev) (k : Nat) (qretry : Bool) (wretry : Bool) (hκ : Kept d) : Kept (Dev.knkFull d k qretry wretry) := (Agree.kept (Dev.knkFull_kp (hμ := Within.refl _) (hκ := Agree.refl ..) ..) (by decide) hκ)

theorem Dev.knkDown_st (d : Dev) (k : Nat) (hκ : Kept d) : Kept (Dev.knkDown d k) := (Agree.kept (Dev.knkDown_kp (hμ := Within.refl _) (hκ := Agree.refl ..) ..) (by decide) hκ)

theorem Dev.knkCmd_st (d : Dev) (k : Nat) (cmd : Nat) (hκ : Kept d) : Kept (Dev.knkCmd d k cmd) := (Agree.kept (Dev.knkCmd_kp (hμ := Within.refl _) (hκ := Agree.refl ..) ..) (by decide) hκ)

theorem Dev.knkCtlWrite_st (d : Dev) (die : Nat) (inst : Nat) (v : Nat) (hκ : Kept d) : Kept (Dev.knkCtlWrite d die inst v) := (Agree.kept (Dev.knkCtlWrite_kp (hμ := Within.refl _) (hκ := Agree.refl ..) ..) (by decide) hκ)

theorem Dev.knkActive_st (d : Dev) (die : Nat) (i : Nat) (hκ : Kept d) : Kept (Dev.knkActive d die i) := (Agree.kept (Dev.knkActive_kp (hμ := Within.refl _) (hκ := Agree.refl ..) ..) (by decide) hκ)

theorem Dev.knkMargs_st (d : Dev) (die : Nat) (i : Nat) (m : Nat) (margs : List (Nat × Nat)) (hκ : Kept d) : Kept (Dev.knkMargs d die i m margs) := (Agree.kept (Dev.knkMargs_kp (hμ := Within.refl _) (hκ := Agree.refl ..) ..) (by decide) hκ)

theorem Dev.knkFlit_st (d : Dev) (die : Nat) (inst : Nat) (f : Bytes) (hκ : Kept d) : Kept (Dev.knkFlit d die inst f) := (Agree.kept (Dev.knkFlit_kp (hμ := Within.refl _) (hκ := Agree.refl ..) ..) (by decide) hκ)

theorem Dev.knkNakAgain_st (d : Dev) (die : Nat) (inst : Nat) (hκ : Kept d) : Kept (Dev.knkNakAgain d die inst) := (Agree.kept (Dev.knkNakAgain_kp (hμ := Within.refl _) (hκ := Agree.refl ..) ..) (by decide) hκ)

theorem Dev.knkSignalLoss_st (d : Dev) (die : Nat) (inst : Nat) (hκ : Kept d) : Kept (Dev.knkSignalLoss d die inst) := (Agree.kept (Dev.knkSignalLoss_kp (hμ := Within.refl _) (hκ := Agree.refl ..) ..) (by decide) hκ)

theorem Dev.siteDown_st (d : Dev) (die : Nat) (cause : Nat) (hκ : Kept d) : Kept (Dev.siteDown d die cause) := (Agree.kept (Dev.siteDown_kp (hμ := Within.refl _) (hκ := Agree.refl ..) ..) (by decide) hκ)

theorem Dev.auxCtlWrite_st (d : Dev) (die : Nat) (v : Nat) (hκ : Kept d) : Kept (Dev.auxCtlWrite d die v) := (Agree.kept (Dev.auxCtlWrite_kp (hμ := Within.refl _) (hκ := Agree.refl ..) ..) (by decide) hκ)

theorem Dev.siteStepEnd_st (d : Dev) (die : Nat) (r : SiteRes) (hκ : Kept d) : Kept (Dev.siteStepEnd d die r) := (Agree.kept (Dev.siteStepEnd_kp (hμ := Within.refl _) (hκ := Agree.refl ..) ..) (by decide) hκ)

theorem Dev.siteSideband_st (d : Dev) (die : Nat) (hκ : Kept d) : Kept (Dev.siteSideband d die) := (Agree.kept (Dev.siteSideband_kp (hμ := Within.refl _) (hκ := Agree.refl ..) ..) (by decide) hκ)

theorem Dev.siteFlit_st (d : Dev) (die : Nat) (f : Bytes) (hκ : Kept d) : Kept (Dev.siteFlit d die f) := (Agree.kept (Dev.siteFlit_kp (hμ := Within.refl _) (hκ := Agree.refl ..) ..) (by decide) hκ)

theorem Dev.windowReq_st (d : Dev) (t : Txn) (g : Nat) (hκ : Kept d) : Kept (Dev.windowReq d t g) := (Agree.kept (Dev.windowReq_kp (hμ := Within.refl _) (hκ := Agree.refl ..) ..) (by decide) hκ)

theorem Dev.windowTimeout_st (d : Dev) (die : Nat) (hκ : Kept d) : Kept (Dev.windowTimeout d die) := (Agree.kept (Dev.windowTimeout_kp (hμ := Within.refl _) (hκ := Agree.refl ..) ..) (by decide) hκ)

theorem Dev.siteRequest_st (d : Dev) (die : Nat) (hκ : Kept d) : Kept (Dev.siteRequest d die) := (Agree.kept (Dev.siteRequest_kp (hμ := Within.refl _) (hκ := Agree.refl ..) ..) (by decide) hκ)

theorem Dev.siteAdd_st (d : Dev) (die : Nat) (hκ : Kept d) : Kept (Dev.siteAdd d die) := (Agree.kept (Dev.siteAdd_kp (hμ := Within.refl _) (hκ := Agree.refl ..) ..) (by decide) hκ)

theorem Dev.setQp_st (d : Dev) (q : Nat) (x : QP) (hκ : Kept d) : Kept (Dev.setQp d q x) := (Agree.kept (Dev.setQp_kp (hμ := Within.refl _) (hκ := Agree.refl ..) ..) (by decide) hκ)

theorem Dev.modQp_st (d : Dev) (q : Nat) (f : QP → QP) (hκ : Kept d) : Kept (Dev.modQp d q f) := (Agree.kept (Dev.modQp_kp (hμ := Within.refl _) (hκ := Agree.refl ..) ..) (by decide) hκ)

theorem Dev.linkRec_st (d : Dev) (die : Nat) (code : Nat) (kind : Nat) (idx : Nat) (info : Nat) (hκ : Kept d) : Kept (Dev.linkRec d die code kind idx info) := (Agree.kept (Dev.linkRec_kp (hμ := Within.refl _) (hκ := Agree.refl ..) ..) (by decide) hκ)

theorem Dev.moveRoutes_st (d : Dev) (p : Nat) (hκ : Kept d) : Kept (Dev.moveRoutes d p) := (Agree.kept (Dev.moveRoutes_kp (hμ := Within.refl _) (hκ := Agree.refl ..) ..) (by decide) hκ)

theorem Dev.portFlush_st (d : Dev) (p : Nat) (hκ : Kept d) : Kept (Dev.portFlush d p) := (Agree.kept (Dev.portFlush_kp (hμ := Within.refl _) (hκ := Agree.refl ..) ..) (by decide) hκ)

theorem Dev.portLaneLost_st (d : Dev) (die : Nat) (l : Nat) (hκ : Kept d) : Kept (Dev.portLaneLost d die l) := (Agree.kept (Dev.portLaneLost_kp (hμ := Within.refl _) (hκ := Agree.refl ..) ..) (by decide) hκ)

theorem Dev.laneDownNow_st (d : Dev) (die : Nat) (l : Nat) (hκ : Kept d) : Kept (Dev.laneDownNow d die l) := (Agree.kept (Dev.laneDownNow_kp (hμ := Within.refl _) (hκ := Agree.refl ..) ..) (by decide) hκ)

theorem Dev.laneCmdWrite_st (d : Dev) (die : Nat) (l : Nat) (cmd : Nat) (hκ : Kept d) : Kept (Dev.laneCmdWrite d die l cmd) := (Agree.kept (Dev.laneCmdWrite_kp (hμ := Within.refl _) (hκ := Agree.refl ..) ..) (by decide) hκ)

theorem Dev.laneCtlWrite_st (d : Dev) (die : Nat) (l : Nat) (v : Nat) (hκ : Kept d) : Kept (Dev.laneCtlWrite d die l v) := (Agree.kept (Dev.laneCtlWrite_kp (hμ := Within.refl _) (hκ := Agree.refl ..) ..) (by decide) hκ)

theorem Dev.lanePpm_st (d : Dev) (die : Nat) (l : Nat) (offs : Nat) (hκ : Kept d) : Kept (Dev.lanePpm d die l offs) := (Agree.kept (Dev.lanePpm_kp (hμ := Within.refl _) (hκ := Agree.refl ..) ..) (by decide) hκ)

theorem Dev.laneLoopReq_st (d : Dev) (die : Nat) (l : Nat) (hκ : Kept d) : Kept (Dev.laneLoopReq d die l) := (Agree.kept (Dev.laneLoopReq_kp (hμ := Within.refl _) (hκ := Agree.refl ..) ..) (by decide) hκ)

theorem Dev.laneLock_st (d : Dev) (die : Nat) (l : Nat) (hdrs : List Nat) (hκ : Kept d) : Kept (Dev.laneLock d die l hdrs) := (Agree.kept (Dev.laneLock_kp (hμ := Within.refl _) (hκ := Agree.refl ..) ..) (by decide) hκ)

theorem Dev.laneRelock_st (d : Dev) (die : Nat) (l : Nat) (hκ : Kept d) : Kept (Dev.laneRelock d die l) := (Agree.kept (Dev.laneRelock_kp (hμ := Within.refl _) (hκ := Agree.refl ..) ..) (by decide) hκ)

theorem Dev.laneStep_st (d : Dev) (die : Nat) (l : Nat) (r : LaneRes) (hκ : Kept d) : Kept (Dev.laneStep d die l r) := (Agree.kept (Dev.laneStep_kp (hμ := Within.refl _) (hκ := Agree.refl ..) ..) (by decide) hκ)

theorem Dev.laneTimeout_st (d : Dev) (die : Nat) (l : Nat) (hκ : Kept d) : Kept (Dev.laneTimeout d die l) := (Agree.kept (Dev.laneTimeout_kp (hμ := Within.refl _) (hκ := Agree.refl ..) ..) (by decide) hκ)

theorem Dev.codeword_st (d : Dev) (die : Nat) (l : Nat) (syms : List Nat) (takes : List Nat) (hκ : Kept d) : Kept (Dev.codeword d die l syms takes) := (Agree.kept (Dev.codeword_kp (hμ := Within.refl _) (hκ := Agree.refl ..) ..) (by decide) hκ)

theorem Dev.laneFom_st (d : Dev) (die : Nat) (l : Nat) (eyes : List (Nat × Nat)) (hκ : Kept d) : Kept (Dev.laneFom d die l eyes) := (Agree.kept (Dev.laneFom_kp (hμ := Within.refl _) (hκ := Agree.refl ..) ..) (by decide) hκ)

theorem Dev.laneAdaptStep_st (d : Dev) (die : Nat) (l : Nat) (ctle : Nat) (dfe1 : Nat) (fom : Nat) (hκ : Kept d) : Kept (Dev.laneAdaptStep d die l ctle dfe1 fom) := (Agree.kept (Dev.laneAdaptStep_kp (hμ := Within.refl _) (hκ := Agree.refl ..) ..) (by decide) hκ)

theorem Dev.laneDoze_st (d : Dev) (die : Nat) (l : Nat) (hκ : Kept d) : Kept (Dev.laneDoze d die l) := (Agree.kept (Dev.laneDoze_kp (hμ := Within.refl _) (hκ := Agree.refl ..) ..) (by decide) hκ)

theorem Dev.laneUndoze_st (d : Dev) (die : Nat) (l : Nat) (hκ : Kept d) : Kept (Dev.laneUndoze d die l) := (Agree.kept (Dev.laneUndoze_kp (hμ := Within.refl _) (hκ := Agree.refl ..) ..) (by decide) hκ)

theorem Dev.laneRefresh_st (d : Dev) (die : Nat) (l : Nat) (hκ : Kept d) : Kept (Dev.laneRefresh d die l) := (Agree.kept (Dev.laneRefresh_kp (hμ := Within.refl _) (hκ := Agree.refl ..) ..) (by decide) hκ)

theorem Dev.laneWakeErr_st (d : Dev) (die : Nat) (l : Nat) (hκ : Kept d) : Kept (Dev.laneWakeErr d die l) := (Agree.kept (Dev.laneWakeErr_kp (hμ := Within.refl _) (hκ := Agree.refl ..) ..) (by decide) hκ)

theorem Dev.laneDetect_st (d : Dev) (die : Nat) (l : Nat) (hκ : Kept d) : Kept (Dev.laneDetect d die l) := (Agree.kept (Dev.laneDetect_kp (hμ := Within.refl _) (hκ := Agree.refl ..) ..) (by decide) hκ)

theorem Dev.laneLos_st (d : Dev) (die : Nat) (l : Nat) (hκ : Kept d) : Kept (Dev.laneLos d die l) := (Agree.kept (Dev.laneLos_kp (hμ := Within.refl _) (hκ := Agree.refl ..) ..) (by decide) hκ)

theorem Dev.portCmdWrite_st (d : Dev) (p : Nat) (cmd : Nat) (hκ : Kept d) : Kept (Dev.portCmdWrite d p cmd) := (Agree.kept (Dev.portCmdWrite_kp (hμ := Within.refl _) (hκ := Agree.refl ..) ..) (by decide) hκ)

theorem Dev.plkCtlWrite_st (d : Dev) (die : Nat) (i : Nat) (v : Nat) (hκ : Kept d) : Kept (Dev.plkCtlWrite d die i v) := (Agree.kept (Dev.plkCtlWrite_kp (hμ := Within.refl _) (hκ := Agree.refl ..) ..) (by decide) hκ)

theorem Dev.portQualEnd_st (d : Dev) (p : Nat) (hκ : Kept d) : Kept (Dev.portQualEnd d p) := (Agree.kept (Dev.portQualEnd_kp (hμ := Within.refl _) (hκ := Agree.refl ..) ..) (by decide) hκ)

theorem Dev.ackTimeout_st (d : Dev) (p : Nat) (hκ : Kept d) : Kept (Dev.ackTimeout d p) := (Agree.kept (Dev.ackTimeout_kp (hμ := Within.refl _) (hκ := Agree.refl ..) ..) (by decide) hκ)

theorem Dev.frameReceive_st (d : Dev) (p : Nat) (i : Nat) (hκ : Kept d) : Kept (Dev.frameReceive d p i) := (Agree.kept (Dev.frameReceive_kp (hμ := Within.refl _) (hκ := Agree.refl ..) ..) (by decide) hκ)

theorem Dev.linkReceive_st (d : Dev) (p : Nat) (i : Nat) (hκ : Kept d) : Kept (Dev.linkReceive d p i) := (Agree.kept (Dev.linkReceive_kp (hμ := Within.refl _) (hκ := Agree.refl ..) ..) (by decide) hκ)

theorem Dev.frameLoss_st (d : Dev) (p : Nat) (hκ : Kept d) : Kept (Dev.frameLoss d p) := (Agree.kept (Dev.frameLoss_kp (hμ := Within.refl _) (hκ := Agree.refl ..) ..) (by decide) hκ)

theorem Dev.nakRepeat_st (d : Dev) (p : Nat) (hκ : Kept d) : Kept (Dev.nakRepeat d p) := (Agree.kept (Dev.nakRepeat_kp (hμ := Within.refl _) (hκ := Agree.refl ..) ..) (by decide) hκ)

theorem Dev.ackDue_st (d : Dev) (p : Nat) (hκ : Kept d) : Kept (Dev.ackDue d p) := (Agree.kept (Dev.ackDue_kp (hμ := Within.refl _) (hκ := Agree.refl ..) ..) (by decide) hκ)

theorem Dev.retrainDone_st (d : Dev) (p : Nat) (hκ : Kept d) : Kept (Dev.retrainDone d p) := (Agree.kept (Dev.retrainDone_kp (hμ := Within.refl _) (hκ := Agree.refl ..) ..) (by decide) hκ)

theorem Dev.portDoze_st (d : Dev) (p : Nat) (hκ : Kept d) : Kept (Dev.portDoze d p) := (Agree.kept (Dev.portDoze_kp (hμ := Within.refl _) (hκ := Agree.refl ..) ..) (by decide) hκ)

theorem Dev.portSilence_st (d : Dev) (p : Nat) (hκ : Kept d) : Kept (Dev.portSilence d p) := (Agree.kept (Dev.portSilence_kp (hμ := Within.refl _) (hκ := Agree.refl ..) ..) (by decide) hκ)

theorem Dev.laneWakeFail_st (d : Dev) (die : Nat) (l : Nat) (hκ : Kept d) : Kept (Dev.laneWakeFail d die l) := (Agree.kept (Dev.laneWakeFail_kp (hμ := Within.refl _) (hκ := Agree.refl ..) ..) (by decide) hκ)

theorem Dev.linkRequest_st (d : Dev) (p : Nat) (hκ : Kept d) : Kept (Dev.linkRequest d p) := (Agree.kept (Dev.linkRequest_kp (hμ := Within.refl _) (hκ := Agree.refl ..) ..) (by decide) hκ)

theorem Dev.linkResponse_st (d : Dev) (p : Nat) (hκ : Kept d) : Kept (Dev.linkResponse d p) := (Agree.kept (Dev.linkResponse_kp (hμ := Within.refl _) (hκ := Agree.refl ..) ..) (by decide) hκ)

theorem Dev.remoteTimeout_st (d : Dev) (p : Nat) (tag : Nat) (hκ : Kept d) : Kept (Dev.remoteTimeout d p tag) := (Agree.kept (Dev.remoteTimeout_kp (hμ := Within.refl _) (hκ := Agree.refl ..) ..) (by decide) hκ)

theorem Dev.sendAway_st {d : Dev} {t : Txn} {g : Nat} {rd : Dev} (heq : Dev.sendAway d t g = some rd) (hκ : Kept d) : Kept rd := (Agree.kept (Dev.sendAway_kp (heq := heq) (hμ := Within.refl _) (hκ := Agree.refl ..) ..) (by decide) hκ)

theorem Dev.routeSet_st (d : Dev) (die : Nat) (pkg : Nat) (v : Nat) (hκ : Kept d) : Kept (Dev.routeSet d die pkg v) := (Agree.kept (Dev.routeSet_kp (hμ := Within.refl _) (hκ := Agree.refl ..) ..) (by decide) hκ)

theorem Dev.routeWrite_st (d : Dev) (die : Nat) (v : Nat) (hκ : Kept d) : Kept (Dev.routeWrite d die v) := (Agree.kept (Dev.routeWrite_kp (hμ := Within.refl _) (hκ := Agree.refl ..) ..) (by decide) hκ)

theorem Dev.routeClear_st (d : Dev) (die : Nat) (pkg : Nat) (hκ : Kept d) : Kept (Dev.routeClear d die pkg) := (Agree.kept (Dev.routeClear_kp (hμ := Within.refl _) (hκ := Agree.refl ..) ..) (by decide) hκ)

theorem Dev.rkctlSet_st (d : Dev) (die : Nat) (p : Nat) (v : Nat) (hκ : Kept d) : Kept (Dev.rkctlSet d die p v) := (Agree.kept (Dev.rkctlSet_kp (hμ := Within.refl _) (hκ := Agree.refl ..) ..) (by decide) hκ)

theorem Dev.rkctlWrite_st (d : Dev) (die : Nat) (v : Nat) (hκ : Kept d) : Kept (Dev.rkctlWrite d die v) := (Agree.kept (Dev.rkctlWrite_kp (hμ := Within.refl _) (hκ := Agree.refl ..) ..) (by decide) hκ)

theorem Dev.rekeyDone_st (d : Dev) (die : Nat) (p : Nat) (hκ : Kept d) : Kept (Dev.rekeyDone d die p) := (Agree.kept (Dev.rekeyDone_kp (hμ := Within.refl _) (hκ := Agree.refl ..) ..) (by decide) hκ)

theorem Dev.rekeyTimeout_st (d : Dev) (die : Nat) (p : Nat) (hκ : Kept d) : Kept (Dev.rekeyTimeout d die p) := (Agree.kept (Dev.rekeyTimeout_kp (hμ := Within.refl _) (hκ := Agree.refl ..) ..) (by decide) hκ)

theorem Dev.ethCmdWrite_st (d : Dev) (die : Nat) (p : Nat) (cmd : Nat) (hκ : Kept d) : Kept (Dev.ethCmdWrite d die p cmd) := (Agree.kept (Dev.ethCmdWrite_kp (hμ := Within.refl _) (hκ := Agree.refl ..) ..) (by decide) hκ)

theorem Dev.ethCtlWrite_st (d : Dev) (die : Nat) (p : Nat) (v : Nat) (hκ : Kept d) : Kept (Dev.ethCtlWrite d die p v) := (Agree.kept (Dev.ethCtlWrite_kp (hμ := Within.refl _) (hκ := Agree.refl ..) ..) (by decide) hκ)

theorem Dev.ethStepEnd_st (d : Dev) (die : Nat) (p : Nat) (resolved : Bool) (hκ : Kept d) : Kept (Dev.ethStepEnd d die p resolved) := (Agree.kept (Dev.ethStepEnd_kp (hμ := Within.refl _) (hκ := Agree.refl ..) ..) (by decide) hκ)

theorem Dev.ethAnTimeout_st (d : Dev) (die : Nat) (p : Nat) (hκ : Kept d) : Kept (Dev.ethAnTimeout d die p) := (Agree.kept (Dev.ethAnTimeout_kp (hμ := Within.refl _) (hκ := Agree.refl ..) ..) (by decide) hκ)

theorem Dev.ethUpTimeout_st (d : Dev) (die : Nat) (p : Nat) (hκ : Kept d) : Kept (Dev.ethUpTimeout d die p) := (Agree.kept (Dev.ethUpTimeout_kp (hμ := Within.refl _) (hκ := Agree.refl ..) ..) (by decide) hκ)

theorem Dev.ethLockLoss_st (d : Dev) (die : Nat) (p : Nat) (hκ : Kept d) : Kept (Dev.ethLockLoss d die p) := (Agree.kept (Dev.ethLockLoss_kp (hμ := Within.refl _) (hκ := Agree.refl ..) ..) (by decide) hκ)

theorem Dev.rxTake_st {d : Dev} {die : Nat} {p : Nat} {kind : Nat} {r : RPkt} {rd : Dev} (heq : Dev.rxTake d die p kind = some (r, rd)) (hκ : Kept d) : Kept rd := (Agree.kept (Dev.rxTake_kp (heq := heq) (hμ := Within.refl _) (hκ := Agree.refl ..) ..) (by decide) hκ)

theorem Dev.pfcReceive_st (d : Dev) (die : Nat) (p : Nat) (hκ : Kept d) : Kept (Dev.pfcReceive d die p) := (Agree.kept (Dev.pfcReceive_kp (hμ := Within.refl _) (hκ := Agree.refl ..) ..) (by decide) hκ)

theorem Dev.pfcRepeat_st (d : Dev) (die : Nat) (p : Nat) (prio : Nat) (hκ : Kept d) : Kept (Dev.pfcRepeat d die p prio) := (Agree.kept (Dev.pfcRepeat_kp (hμ := Within.refl _) (hκ := Agree.refl ..) ..) (by decide) hκ)

theorem Dev.pauseExpire_st (d : Dev) (die : Nat) (p : Nat) (prio : Nat) (hκ : Kept d) : Kept (Dev.pauseExpire d die p prio) := (Agree.kept (Dev.pauseExpire_kp (hμ := Within.refl _) (hκ := Agree.refl ..) ..) (by decide) hκ)

theorem Dev.pfcWatchdog_st (d : Dev) (die : Nat) (p : Nat) (prio : Nat) (hκ : Kept d) : Kept (Dev.pfcWatchdog d die p prio) := (Agree.kept (Dev.pfcWatchdog_kp (hμ := Within.refl _) (hκ := Agree.refl ..) ..) (by decide) hκ)

theorem Dev.pfcResume_st (d : Dev) (die : Nat) (p : Nat) (prio : Nat) (hκ : Kept d) : Kept (Dev.pfcResume d die p prio) := (Agree.kept (Dev.pfcResume_kp (hμ := Within.refl _) (hκ := Agree.refl ..) ..) (by decide) hκ)

theorem Dev.ethEgress_st (d : Dev) (die : Nat) (p : Nat) (cls : Nat) (hκ : Kept d) : Kept (Dev.ethEgress d die p cls) := (Agree.kept (Dev.ethEgress_kp (hμ := Within.refl _) (hκ := Agree.refl ..) ..) (by decide) hκ)

theorem Dev.qpOut_st (d : Dev) (q : Nat) (hκ : Kept d) : Kept (Dev.qpOut d q) := (Agree.kept (Dev.qpOut_kp (hμ := Within.refl _) (hκ := Agree.refl ..) ..) (by decide) hκ)

theorem Dev.ackSend_st (d : Dev) (q : Nat) (psn : Nat) (synd : Nat) (hκ : Kept d) : Kept (Dev.ackSend d q psn synd) := (Agree.kept (Dev.ackSend_kp (hμ := Within.refl _) (hκ := Agree.refl ..) ..) (by decide) hκ)

theorem Dev.qpError_st (d : Dev) (q : Nat) (synd : Nat) (hκ : Kept d) : Kept (Dev.qpError d q synd) := (Agree.kept (Dev.qpError_kp (hμ := Within.refl _) (hκ := Agree.refl ..) ..) (by decide) hκ)

theorem Dev.nakError_st (d : Dev) (q : Nat) (psn : Nat) (code : Nat) (hκ : Kept d) : Kept (Dev.nakError d q psn code) := (Agree.kept (Dev.nakError_kp (hμ := Within.refl _) (hκ := Agree.refl ..) ..) (by decide) hκ)

theorem Dev.qpPump_st (d : Dev) (q : Nat) (n : Nat) (hκ : Kept d) : Kept (Dev.qpPump d q n) := (Agree.kept (Dev.qpPump_kp (hμ := Within.refl _) (hκ := Agree.refl ..) ..) (by decide) hκ)

theorem Dev.qpOp_st (d : Dev) (q : Nat) (va : Nat) (rkey : Nat) (write : Bool) (ts : List Txn) (hκ : Kept d) : Kept (Dev.qpOp d q va rkey write ts) := (Agree.kept (Dev.qpOp_kp (hμ := Within.refl _) (hκ := Agree.refl ..) ..) (by decide) hκ)

theorem Dev.qpProgress_st (d : Dev) (q : Nat) (hκ : Kept d) : Kept (Dev.qpProgress d q) := (Agree.kept (Dev.qpProgress_kp (hμ := Within.refl _) (hκ := Agree.refl ..) ..) (by decide) hκ)

theorem Dev.ackUpTo_st (d : Dev) (q : Nat) (psn : Nat) (hκ : Kept d) : Kept (Dev.ackUpTo d q psn) := (Agree.kept (Dev.ackUpTo_kp (hμ := Within.refl _) (hκ := Agree.refl ..) ..) (by decide) hκ)

theorem Dev.qpRetry_st (d : Dev) (q : Nat) (hκ : Kept d) : Kept (Dev.qpRetry d q) := (Agree.kept (Dev.qpRetry_kp (hμ := Within.refl _) (hκ := Agree.refl ..) ..) (by decide) hκ)

theorem Dev.qpTimeout_st (d : Dev) (q : Nat) (hκ : Kept d) : Kept (Dev.qpTimeout d q) := (Agree.kept (Dev.qpTimeout_kp (hμ := Within.refl _) (hκ := Agree.refl ..) ..) (by decide) hκ)

theorem Dev.qpTake_st (d : Dev) (q : Nat) (i : QIn) (n : Nat) (hκ : Kept d) : Kept (Dev.qpTake d q i n) := (Agree.kept (Dev.qpTake_kp (hμ := Within.refl _) (hκ := Agree.refl ..) ..) (by decide) hκ)

theorem Dev.ackAgain_st (d : Dev) (q : Nat) (hκ : Kept d) : Kept (Dev.ackAgain d q) := (Agree.kept (Dev.ackAgain_kp (hμ := Within.refl _) (hκ := Agree.refl ..) ..) (by decide) hκ)

theorem Dev.psnNext_st (d : Dev) (q : Nat) (n : Nat) (hκ : Kept d) : Kept (Dev.psnNext d q n) := (Agree.kept (Dev.psnNext_kp (hμ := Within.refl _) (hκ := Agree.refl ..) ..) (by decide) hκ)

theorem Dev.writePart_st (d : Dev) (q : Nat) (pl : Bytes) (first : Bool) (last : Bool) (hκ : Kept d) : Kept (Dev.writePart d q pl first last) := (Agree.kept (Dev.writePart_kp (hμ := Within.refl _) (hκ := Agree.refl ..) ..) (by decide) hκ)

theorem Dev.rateUp_st (d : Dev) (q : Nat) (hκ : Kept d) : Kept (Dev.rateUp d q) := (Agree.kept (Dev.rateUp_kp (hμ := Within.refl _) (hκ := Agree.refl ..) ..) (by decide) hκ)

theorem Dev.ethReceive_st (d : Dev) (die : Nat) (p : Nat) (f : Bytes) (hκ : Kept d) : Kept (Dev.ethReceive d die p f) := (Agree.kept (Dev.ethReceive_kp (hμ := Within.refl _) (hκ := Agree.refl ..) ..) (by decide) hκ)

theorem Dev.qctlWrite_st (d : Dev) (die : Nat) (v : Nat) (hκ : Kept d) : Kept (Dev.qctlWrite d die v) := (Agree.kept (Dev.qctlWrite_kp (hμ := Within.refl _) (hκ := Agree.refl ..) ..) (by decide) hκ)

theorem Dev.homeResponse_st (d : Dev) (n : Nat) (slice : Option (Nat × Nat)) (hκ : Kept d) : Kept (Dev.homeResponse d n slice) := (Agree.kept (Dev.homeResponse_kp (hμ := Within.refl _) (hκ := Agree.refl ..) ..) (by decide) hκ)

theorem Dev.ctlArrive_st (d : Dev) (n : Nat) (opc : Nat) (noise : Bytes) (hκ : Kept d) : Kept (Dev.ctlArrive d n opc noise) := (Agree.kept (Dev.ctlArrive_kp (hμ := Within.refl _) (hκ := Agree.refl ..) ..) (by decide) hκ)

theorem Dev.octlWrite_st (d : Dev) (die : Nat) (by_ : Nat) (v : Nat) (hκ : Kept d) : Kept (Dev.octlWrite d die by_ v) := (Agree.kept (Dev.octlWrite_kp (hμ := Within.refl _) (hκ := Agree.refl ..) ..) (by decide) hκ)

theorem Dev.ectlWrite_st (d : Dev) (die : Nat) (by_ : Nat) (v : Nat) (hκ : Kept d) : Kept (Dev.ectlWrite d die by_ v) := (Agree.kept (Dev.ectlWrite_kp (hμ := Within.refl _) (hκ := Agree.refl ..) ..) (by decide) hκ)

theorem Dev.eventDone_st (d : Dev) (die : Nat) (hκ : Kept d) : Kept (Dev.eventDone d die) := (Agree.kept (Dev.eventDone_kp (hμ := Within.refl _) (hκ := Agree.refl ..) ..) (by decide) hκ)

theorem Dev.subWrite_st (d : Dev) (die : Nat) (v : Nat) (hκ : Kept d) : Kept (Dev.subWrite d die v) := (Agree.kept (Dev.subWrite_kp (hμ := Within.refl _) (hκ := Agree.refl ..) ..) (by decide) hκ)

theorem Dev.leadWrite_st (d : Dev) (die : Nat) (by_ : Nat) (v : Nat) (hκ : Kept d) : Kept (Dev.leadWrite d die by_ v) := (Agree.kept (Dev.leadWrite_kp (hμ := Within.refl _) (hκ := Agree.refl ..) ..) (by decide) hκ)

theorem Dev.mbxRequest_st (d : Dev) (die : Nat) (p : Nat) (hκ : Kept d) : Kept (Dev.mbxRequest d die p) := (Agree.kept (Dev.mbxRequest_kp (hμ := Within.refl _) (hκ := Agree.refl ..) ..) (by decide) hκ)

theorem Dev.epochWrite_st (d : Dev) (die : Nat) (v : Nat) (hκ : Kept d) : Kept (Dev.epochWrite d die v) := (Agree.kept (Dev.epochWrite_kp (hμ := Within.refl _) (hκ := Agree.refl ..) ..) (by decide) hκ)

theorem Dev.measExtend_st (d : Dev) (die : Nat) (hκ : Kept d) : Kept (Dev.measExtend d die) := (Agree.kept (Dev.measExtend_kp (hμ := Within.refl _) (hκ := Agree.refl ..) ..) (by decide) hκ)

theorem Dev.opctlWrite_st (d : Dev) (die : Nat) (v : Nat) (hκ : Kept d) : Kept (Dev.opctlWrite d die v) := (Agree.kept (Dev.opctlWrite_kp (hμ := Within.refl _) (hκ := Agree.refl ..) ..) (by decide) hκ)

theorem Dev.wardOpDone_st (d : Dev) (die : Nat) (hκ : Kept d) : Kept (Dev.wardOpDone d die) := (Agree.kept (Dev.wardOpDone_kp (hμ := Within.refl _) (hκ := Agree.refl ..) ..) (by decide) hκ)

theorem Dev.wardUpdate_st (d : Dev) (die : Nat) (op : Nat) (fails : Nat) (hκ : Kept d) : Kept (Dev.wardUpdate d die op fails) := (Agree.kept (Dev.wardUpdate_kp (hμ := Within.refl _) (hκ := Agree.refl ..) ..) (by decide) hκ)

theorem Dev.wardTimeout_st (d : Dev) (die : Nat) (hκ : Kept d) : Kept (Dev.wardTimeout d die) := (Agree.kept (Dev.wardTimeout_kp (hμ := Within.refl _) (hκ := Agree.refl ..) ..) (by decide) hκ)

theorem Dev.wardDebug_st (d : Dev) (die : Nat) (token : Bytes) (hκ : Kept d) : Kept (Dev.wardDebug d die token) := (Agree.kept (Dev.wardDebug_kp (hμ := Within.refl _) (hκ := Agree.refl ..) ..) (by decide) hκ)

theorem Dev.modPw_st (d : Dev) (die : Nat) (f : PwSt → PwSt) (hκ : Kept d) : Kept (Dev.modPw d die f) := (Agree.kept (Dev.modPw_kp (hμ := Within.refl _) (hκ := Agree.refl ..) ..) (by decide) hκ)

theorem Dev.flags_st (d : Dev) (die : Nat) (x : DiePw) (hκ : Kept d) : Kept (Dev.flags d die x) := (Agree.kept (Dev.flags_kp (hμ := Within.refl _) (hκ := Agree.refl ..) ..) (by decide) hκ)

theorem Dev.resetBut_st (d : Dev) (die : Nat) (dom : Dom) (keep : Reg → Bool) (hκ : Kept d) : Kept (Dev.resetBut d die dom keep) := (Agree.kept (Dev.resetBut_kp (hμ := Within.refl _) (hκ := Agree.refl ..) ..) (by decide) hκ)

theorem Dev.knucklesLost_st (d : Dev) (die : Nat) (hκ : Kept d) : Kept (Dev.knucklesLost d die) := (Agree.kept (Dev.knucklesLost_kp (hμ := Within.refl _) (hκ := Agree.refl ..) ..) (by decide) hκ)

theorem Dev.computeOn_st (d : Dev) (die : Nat) (hκ : Kept d) : Kept (Dev.computeOn d die) := (Agree.kept (Dev.computeOn_kp (hμ := Within.refl _) (hκ := Agree.refl ..) ..) (by decide) hκ)

theorem Dev.pwBegin_st (d : Dev) (die : Nat) (goal : Nat) (hκ : Kept d) : Kept (Dev.pwBegin d die goal) := (Agree.kept (Dev.pwBegin_kp (hμ := Within.refl _) (hκ := Agree.refl ..) ..) (by decide) hκ)

theorem Dev.pdctlWrite_st (d : Dev) (die : Nat) (v : Nat) (hκ : Kept d) : Kept (Dev.pdctlWrite d die v) := (Agree.kept (Dev.pdctlWrite_kp (hμ := Within.refl _) (hκ := Agree.refl ..) ..) (by decide) hκ)

theorem Dev.pwExit_st (d : Dev) (die : Nat) (hκ : Kept d) : Kept (Dev.pwExit d die) := (Agree.kept (Dev.pwExit_kp (hμ := Within.refl _) (hκ := Agree.refl ..) ..) (by decide) hκ)

theorem Dev.marginApply_st (d : Dev) (die : Nat) (fails : Nat) (hκ : Kept d) : Kept (Dev.marginApply d die fails) := (Agree.kept (Dev.marginApply_kp (hμ := Within.refl _) (hκ := Agree.refl ..) ..) (by decide) hκ)

theorem Dev.hardRepair_st (d : Dev) (die : Nat) (stack : Nat) (sleep : Bool) (ok : List Bool) (hκ : Kept d) : Kept (Dev.hardRepair d die stack sleep ok) := (Agree.kept (Dev.hardRepair_kp (hμ := Within.refl _) (hκ := Agree.refl ..) ..) (by decide) hκ)

theorem Dev.restoreDie_st (d : Dev) (die : Nat) (hκ : Kept d) : Kept (Dev.restoreDie d die) := (Agree.kept (Dev.restoreDie_kp (hμ := Within.refl _) (hκ := Agree.refl ..) ..) (by decide) hκ)

theorem Dev.pwEnded_st (d : Dev) (die : Nat) (hκ : Kept d) : Kept (Dev.pwEnded d die) := (Agree.kept (Dev.pwEnded_kp (hμ := Within.refl _) (hκ := Agree.refl ..) ..) (by decide) hκ)

theorem Dev.portSleepTimeout_st (d : Dev) (p : Nat) (hκ : Kept d) : Kept (Dev.portSleepTimeout d p) := (Agree.kept (Dev.portSleepTimeout_kp (hμ := Within.refl _) (hκ := Agree.refl ..) ..) (by decide) hκ)

theorem Dev.wake_st (d : Dev) (die : Nat) (hκ : Kept d) : Kept (Dev.wake d die) := (Agree.kept (Dev.wake_kp (hμ := Within.refl _) (hκ := Agree.refl ..) ..) (by decide) hκ)

theorem Dev.thrStep_st (d : Dev) (die : Nat) (c : Nat) (hκ : Kept d) : Kept (Dev.thrStep d die c) := (Agree.kept (Dev.thrStep_kp (hμ := Within.refl _) (hκ := Agree.refl ..) ..) (by decide) hκ)

theorem Dev.thrRelease_st (d : Dev) (die : Nat) (c : Nat) (hκ : Kept d) : Kept (Dev.thrRelease d die c) := (Agree.kept (Dev.thrRelease_kp (hμ := Within.refl _) (hκ := Agree.refl ..) ..) (by decide) hκ)

theorem Dev.tjSample_st (d : Dev) (die : Nat) (tj : Nat) (hκ : Kept d) : Kept (Dev.tjSample d die tj) := (Agree.kept (Dev.tjSample_kp (hμ := Within.refl _) (hκ := Agree.refl ..) ..) (by decide) hκ)

theorem Dev.tjWrite_st (d : Dev) (die : Nat) (v : Nat) (hκ : Kept d) : Kept (Dev.tjWrite d die v) := (Agree.kept (Dev.tjWrite_kp (hμ := Within.refl _) (hκ := Agree.refl ..) ..) (by decide) hκ)

theorem Dev.pwFigures_st (d : Dev) (die : Nat) (watts : Nat) (rails : List (Nat × Nat)) (arrived : Nat) (hκ : Kept d) : Kept (Dev.pwFigures d die watts rails arrived) := (Agree.kept (Dev.pwFigures_kp (hμ := Within.refl _) (hκ := Agree.refl ..) ..) (by decide) hκ)

theorem Dev.rsetWrite_st (d : Dev) (die : Nat) (v : Nat) (hκ : Kept d) : Kept (Dev.rsetWrite d die v) := (Agree.kept (Dev.rsetWrite_kp (hμ := Within.refl _) (hκ := Agree.refl ..) ..) (by decide) hκ)

theorem Dev.slowLoss_st (d : Dev) (die : Nat) (hκ : Kept d) : Kept (Dev.slowLoss d die) := (Agree.kept (Dev.slowLoss_kp (hμ := Within.refl _) (hκ := Agree.refl ..) ..) (by decide) hκ)

theorem Dev.slowBack_st (d : Dev) (die : Nat) (hκ : Kept d) : Kept (Dev.slowBack d die) := (Agree.kept (Dev.slowBack_kp (hμ := Within.refl _) (hκ := Agree.refl ..) ..) (by decide) hκ)

theorem Dev.tickUp_st (d : Dev) (die : Nat) (hκ : Kept d) : Kept (Dev.tickUp d die) := (Agree.kept (Dev.tickUp_kp (hμ := Within.refl _) (hκ := Agree.refl ..) ..) (by decide) hκ)

theorem Dev.stretch_st (d : Dev) (die : Nat) (v : Nat) (hκ : Kept d) : Kept (Dev.stretch d die v) := (Agree.kept (Dev.stretch_kp (hμ := Within.refl _) (hκ := Agree.refl ..) ..) (by decide) hκ)

theorem Dev.memVerify_st (d : Dev) (die : Nat) (rows : List (Nat × RowId)) (hκ : Kept d) : Kept (Dev.memVerify d die rows) := (Agree.kept (Dev.memVerify_kp (hμ := Within.refl _) (hκ := Agree.refl ..) ..) (by decide) hκ)

theorem Dev.b0okClear_st (d : Dev) (die : Nat) (hκ : Kept d) : Kept (Dev.b0okClear d die) := (Agree.kept (Dev.b0okClear_kp (hμ := Within.refl _) (hκ := Agree.refl ..) ..) (by decide) hκ)

theorem Dev.ldHubWrite_st (d : Dev) (die : Nat) (v : Nat) (hκ : Kept d) : Kept (Dev.ldHubWrite d die v) := (Agree.kept (Dev.ldHubWrite_kp (hμ := Within.refl _) (hκ := Agree.refl ..) ..) (by decide) hκ)

theorem Dev.chunkSent_st (d : Dev) (die : Nat) (hκ : Kept d) : Kept (Dev.chunkSent d die) := (Agree.kept (Dev.chunkSent_kp (hμ := Within.refl _) (hκ := Agree.refl ..) ..) (by decide) hκ)

theorem Dev.loaderDone_st (d : Dev) (cn : Nat) (p : Nat) (hκ : Kept d) : Kept (Dev.loaderDone d cn p) := (Agree.kept (Dev.loaderDone_kp (hμ := Within.refl _) (hκ := Agree.refl ..) ..) (by decide) hκ)

theorem Dev.boot_st (d : Dev) (die : Nat) (found : List ((Nat × Nat) × Bytes)) (hκ : Kept d) : Kept (Dev.boot d die found) := (Agree.kept (Dev.boot_kp (hμ := Within.refl _) (hκ := Agree.refl ..) ..) (by decide) hκ)

theorem Dev.bootLock_st (d : Dev) (die : Nat) (hκ : Kept d) : Kept (Dev.bootLock d die) := (Agree.kept (Dev.bootLock_kp (hμ := Within.refl _) (hκ := Agree.refl ..) ..) (by decide) hκ)

theorem Dev.demote_st (d : Dev) (die : Nat) (e : Nat) (hκ : Kept d) : Kept (Dev.demote d die e) := (Agree.kept (Dev.demote_kp (hμ := Within.refl _) (hκ := Agree.refl ..) ..) (by decide) hκ)

theorem Dev.leadAdmit_st (d : Dev) (by_ : Nat) (t : Nat) (e : Nat) (hκ : Kept d) : Kept (Dev.leadAdmit d by_ t e).2 := (Agree.kept (Dev.leadAdmit_kp (hμ := Within.refl _) (hκ := Agree.refl ..) ..) (by decide) hκ)

theorem Dev.leadAdmit_st' {d : Dev} {by_ : Nat} {t : Nat} {e : Nat} {y0} {rd : Dev} (heq : Dev.leadAdmit d by_ t e = (y0, rd)) (hκ : Kept d) : Kept rd := (Agree.kept (Dev.leadAdmit_kp' heq (Within.refl _) (Agree.refl ..)) (by decide) hκ)

theorem Dev.leadSend_st (d : Dev) (die : Nat) (ts : List Nat) (hκ : Kept d) : Kept (Dev.leadSend d die ts).2 := (Agree.kept (Dev.leadSend_kp (hμ := Within.refl _) (hκ := Agree.refl ..) ..) (by decide) hκ)

theorem Dev.leadSend_st' {d : Dev} {die : Nat} {ts : List Nat} {y0} {rd : Dev} (heq : Dev.leadSend d die ts = (y0, rd)) (hκ : Kept d) : Kept rd := (Agree.kept (Dev.leadSend_kp' heq (Within.refl _) (Agree.refl ..)) (by decide) hκ)

theorem Dev.helReply_st (d : Dev) (die : Nat) (q : HReq) (sid : Nat) (stat : Nat) (det : Nat) (body : Bytes) (hκ : Kept d) : Kept (Dev.helReply d die q sid stat det body) := (Agree.kept (Dev.helReply_kp (hμ := Within.refl _) (hκ := Agree.refl ..) ..) (by decide) hκ)

theorem Dev.helTake_st (d : Dev) (die : Nat) (slot : Nat) (m : Bytes) (hκ : Kept d) : Kept (Dev.helTake d die slot m).2.2 := (Agree.kept (Dev.helTake_kp (hμ := Within.refl _) (hκ := Agree.refl ..) ..) (by decide) hκ)

theorem Dev.helTake_st' {d : Dev} {die : Nat} {slot : Nat} {m : Bytes} {y0} {y1} {rd : Dev} (heq : Dev.helTake d die slot m = (y0, y1, rd)) (hκ : Kept d) : Kept rd := (Agree.kept (Dev.helTake_kp' heq (Within.refl _) (Agree.refl ..)) (by decide) hκ)

theorem Dev.hDone_st (d : Dev) (stat : Nat) (det : Nat) (body : Bytes) (hκ : Kept d) : Kept (Dev.hDone d stat det body).d := (Agree.kept (Dev.hDone_kp (hμ := Within.refl _) (hκ := Agree.refl ..) ..) (by decide) hκ)

theorem Dev.hOk_st (d : Dev) (body : Bytes) (hκ : Kept d) : Kept (Dev.hOk d body).d := (Agree.kept (Dev.hOk_kp (hμ := Within.refl _) (hκ := Agree.refl ..) ..) (by decide) hκ)

theorem Dev.hArg_st (d : Dev) (off : Nat) (hκ : Kept d) : Kept (Dev.hArg d off).d := (Agree.kept (Dev.hArg_kp (hμ := Within.refl _) (hκ := Agree.refl ..) ..) (by decide) hκ)

theorem Dev.hBad_st (d : Dev) (off : Nat) (hκ : Kept d) : Kept (Dev.hBad d off).d := (Agree.kept (Dev.hBad_kp (hμ := Within.refl _) (hκ := Agree.refl ..) ..) (by decide) hκ)

theorem Dev.hMore_st (d : Dev) (stat : Nat) (phase : Nat) (arg : Nat) (hκ : Kept d) : Kept (Dev.hMore d stat phase arg).d := (Agree.kept (Dev.hMore_kp (hμ := Within.refl _) (hκ := Agree.refl ..) ..) (by decide) hκ)

theorem Dev.setJob_st (d : Dev) (die : Nat) (at_ : Option Nat) (j : Job) (hκ : Kept d) : Kept (Dev.setJob d die at_ j) := (Agree.kept (Dev.setJob_kp (hμ := Within.refl _) (hκ := Agree.refl ..) ..) (by decide) hκ)

theorem Dev.dropJob_st (d : Dev) (die : Nat) (at_ : Option Nat) (hκ : Kept d) : Kept (Dev.dropJob d die at_) := (Agree.kept (Dev.dropJob_kp (hμ := Within.refl _) (hκ := Agree.refl ..) ..) (by decide) hκ)

theorem Dev.helEnd_st (d : Dev) (die : Nat) (j : Job) (o : HOut) (hκ : Kept d) : Kept (Dev.helEnd d die j o) := (Agree.kept (Dev.helEnd_kp (hμ := Within.refl _) (hκ := Agree.refl ..) ..) (by decide) hκ)

theorem Dev.helTimeout_st (d : Dev) (die : Nat) (n : Nat) (hκ : Kept d) : Kept (Dev.helTimeout d die n) := (Agree.kept (Dev.helTimeout_kp (hμ := Within.refl _) (hκ := Agree.refl ..) ..) (by decide) hκ)

theorem cmdIdentify_st  (d : Dev) (die : Nat) (q : HReq) (ph a : Nat) (hκ : Kept d) : Kept ((cmdIdentify).run d die q ph a).d := (Agree.kept (cmdIdentify_kp (hμ := Within.refl _) (hκ := Agree.refl ..) ..) (by decide) hκ)

theorem cmdAttest_st  (d : Dev) (die : Nat) (q : HReq) (ph a : Nat) (hκ : Kept d) : Kept ((cmdAttest).run d die q ph a).d := (Agree.kept (cmdAttest_kp (hμ := Within.refl _) (hκ := Agree.refl ..) ..) (by decide) hκ)

theorem cmdSession1_st  (d : Dev) (die : Nat) (q : HReq) (ph a : Nat) (hκ : Kept d) : Kept ((cmdSession1).run d die q ph a).d := (Agree.kept (cmdSession1_kp (hμ := Within.refl _) (hκ := Agree.refl ..) ..) (by decide) hκ)

theorem cmdSession2_st  (d : Dev) (die : Nat) (q : HReq) (ph a : Nat) (hκ : Kept d) : Kept ((cmdSession2).run d die q ph a).d := (Agree.kept (cmdSession2_kp (hμ := Within.refl _) (hκ := Agree.refl ..) ..) (by decide) hκ)

theorem Dev.sessTimeout_st (d : Dev) (die : Nat) (n : Nat) (hκ : Kept d) : Kept (Dev.sessTimeout d die n) := (Agree.kept (Dev.sessTimeout_kp (hμ := Within.refl _) (hκ := Agree.refl ..) ..) (by decide) hκ)

theorem cmdClose_st  (d : Dev) (die : Nat) (q : HReq) (ph a : Nat) (hκ : Kept d) : Kept ((cmdClose).run d die q ph a).d := (Agree.kept (cmdClose_kp (hμ := Within.refl _) (hκ := Agree.refl ..) ..) (by decide) hκ)

theorem Dev.partAbort_st (d : Dev) (die : Nat) (p : Nat) (hκ : Kept d) : Kept (Dev.partAbort d die p) := (Agree.kept (Dev.partAbort_kp (hμ := Within.refl _) (hκ := Agree.refl ..) ..) (by decide) hκ)

theorem Dev.partPark_st (d : Dev) (p : Nat) (park : Bool) (hκ : Kept d) : Kept (Dev.partPark d p park) := (Agree.kept (Dev.partPark_kp (hμ := Within.refl _) (hκ := Agree.refl ..) ..) (by decide) hκ)

theorem cmdPower_st (ovr : Bool) (d : Dev) (die : Nat) (q : HReq) (ph a : Nat) (hκ : Kept d) : Kept ((cmdPower ovr).run d die q ph a).d := (Agree.kept (cmdPower_kp (hμ := Within.refl _) (hκ := Agree.refl ..) ..) (by decide) hκ)

theorem cmdPowerQuery_st  (d : Dev) (die : Nat) (q : HReq) (ph a : Nat) (hκ : Kept d) : Kept ((cmdPowerQuery).run d die q ph a).d := (Agree.kept (cmdPowerQuery_kp (hμ := Within.refl _) (hκ := Agree.refl ..) ..) (by decide) hκ)

theorem cmdCreate_st  (d : Dev) (die : Nat) (q : HReq) (ph a : Nat) (hκ : Kept d) : Kept ((cmdCreate).run d die q ph a).d := (Agree.kept (cmdCreate_kp (hμ := Within.refl _) (hκ := Agree.refl ..) ..) (by decide) hκ)

theorem Dev.destroyPart_st (d : Dev) (p : Nat) (x : Part) (hκ : Kept d) : Kept (Dev.destroyPart d p x) := (Agree.kept (Dev.destroyPart_kp (hμ := Within.refl _) (hκ := Agree.refl ..) ..) (by decide) hκ)

theorem Dev.forgetPart_st (d : Dev) (die : Nat) (p : Nat) (hκ : Kept d) : Kept (Dev.forgetPart d die p) := (Agree.kept (Dev.forgetPart_kp (hμ := Within.refl _) (hκ := Agree.refl ..) ..) (by decide) hκ)

theorem Dev.modPart_st (d : Dev) (p : Nat) (f : Part → Part) (hκ : Kept d) : Kept (Dev.modPart d p f) := (Agree.kept (Dev.modPart_kp (hμ := Within.refl _) (hκ := Agree.refl ..) ..) (by decide) hκ)

theorem cmdPartQuery_st  (d : Dev) (die : Nat) (q : HReq) (ph a : Nat) (hκ : Kept d) : Kept ((cmdPartQuery).run d die q ph a).d := (Agree.kept (cmdPartQuery_kp (hμ := Within.refl _) (hκ := Agree.refl ..) ..) (by decide) hκ)

theorem cmdMapSync_st  (d : Dev) (die : Nat) (q : HReq) (ph a : Nat) (hκ : Kept d) : Kept ((cmdMapSync).run d die q ph a).d := (Agree.kept (cmdMapSync_kp (hμ := Within.refl _) (hκ := Agree.refl ..) ..) (by decide) hκ)

theorem cmdRekey_st  (d : Dev) (die : Nat) (q : HReq) (ph a : Nat) (hκ : Kept d) : Kept ((cmdRekey).run d die q ph a).d := (Agree.kept (cmdRekey_kp (hμ := Within.refl _) (hκ := Agree.refl ..) ..) (by decide) hκ)

theorem cmdResume_st  (d : Dev) (die : Nat) (q : HReq) (ph a : Nat) (hκ : Kept d) : Kept ((cmdResume).run d die q ph a).d := (Agree.kept (cmdResume_kp (hμ := Within.refl _) (hκ := Agree.refl ..) ..) (by decide) hκ)

theorem cmdStart_st  (d : Dev) (die : Nat) (q : HReq) (ph a : Nat) (hκ : Kept d) : Kept ((cmdStart).run d die q ph a).d := (Agree.kept (cmdStart_kp (hμ := Within.refl _) (hκ := Agree.refl ..) ..) (by decide) hκ)

theorem Dev.planDone_st (d : Dev) (die : Nat) (n : Nat) (hκ : Kept d) : Kept (Dev.planDone d die n) := (Agree.kept (Dev.planDone_kp (hμ := Within.refl _) (hκ := Agree.refl ..) ..) (by decide) hκ)

theorem cmdAbort_st  (d : Dev) (die : Nat) (q : HReq) (ph a : Nat) (hκ : Kept d) : Kept ((cmdAbort).run d die q ph a).d := (Agree.kept (cmdAbort_kp (hμ := Within.refl _) (hκ := Agree.refl ..) ..) (by decide) hκ)

theorem cmdStatus_st  (d : Dev) (die : Nat) (q : HReq) (ph a : Nat) (hκ : Kept d) : Kept ((cmdStatus).run d die q ph a).d := (Agree.kept (cmdStatus_kp (hμ := Within.refl _) (hκ := Agree.refl ..) ..) (by decide) hκ)

theorem cmdFaultRead_st  (d : Dev) (die : Nat) (q : HReq) (ph a : Nat) (hκ : Kept d) : Kept ((cmdFaultRead).run d die q ph a).d := (Agree.kept (cmdFaultRead_kp (hμ := Within.refl _) (hκ := Agree.refl ..) ..) (by decide) hκ)

theorem cmdSubscribe_st  (d : Dev) (die : Nat) (q : HReq) (ph a : Nat) (hκ : Kept d) : Kept ((cmdSubscribe).run d die q ph a).d := (Agree.kept (cmdSubscribe_kp (hμ := Within.refl _) (hκ := Agree.refl ..) ..) (by decide) hκ)

theorem Dev.ageSample_st (d : Dev) (die : Nat) (a : AgeRes) (hκ : Kept d) : Kept (Dev.ageSample d die a) := (Agree.kept (Dev.ageSample_kp (hμ := Within.refl _) (hκ := Agree.refl ..) ..) (by decide) hκ)

theorem Dev.ageNow_st (d : Dev) (die : Nat) (a : AgeRes) (hκ : Kept d) : Kept (Dev.ageNow d die a) := (Agree.kept (Dev.ageNow_kp (hμ := Within.refl _) (hκ := Agree.refl ..) ..) (by decide) hκ)

theorem Dev.marginEval_st (d : Dev) (die : Nat) (hκ : Kept d) : Kept (Dev.marginEval d die) := (Agree.kept (Dev.marginEval_kp (hμ := Within.refl _) (hκ := Agree.refl ..) ..) (by decide) hκ)

theorem cmdMarginReport_st  (d : Dev) (die : Nat) (q : HReq) (ph a : Nat) (hκ : Kept d) : Kept ((cmdMarginReport).run d die q ph a).d := (Agree.kept (cmdMarginReport_kp (hμ := Within.refl _) (hκ := Agree.refl ..) ..) (by decide) hκ)

theorem cmdMarginApply_st  (d : Dev) (die : Nat) (q : HReq) (ph a : Nat) (hκ : Kept d) : Kept ((cmdMarginApply).run d die q ph a).d := (Agree.kept (cmdMarginApply_kp (hμ := Within.refl _) (hκ := Agree.refl ..) ..) (by decide) hκ)

theorem Dev.i3cRefresh_st (d : Dev) (die : Nat) (hκ : Kept d) : Kept (Dev.i3cRefresh d die) := (Agree.kept (Dev.i3cRefresh_kp (hμ := Within.refl _) (hκ := Agree.refl ..) ..) (by decide) hκ)

theorem Dev.i3cRead_st (d : Dev) (die : Nat) (addr : Nat) (n : Nat) (hκ : Kept d) : Kept (Dev.i3cRead d die addr n) := (Agree.kept (Dev.i3cRead_kp (hμ := Within.refl _) (hκ := Agree.refl ..) ..) (by decide) hκ)

theorem Dev.i3cWrite_st (d : Dev) (die : Nat) (addr : Nat) (hκ : Kept d) : Kept (Dev.i3cWrite d die addr) := (Agree.kept (Dev.i3cWrite_kp (hμ := Within.refl _) (hκ := Agree.refl ..) ..) (by decide) hκ)

theorem Dev.i3cCcc_st (d : Dev) (die : Nat) (code : Nat) (addr : Nat) (hκ : Kept d) : Kept (Dev.i3cCcc d die code addr) := (Agree.kept (Dev.i3cCcc_kp (hμ := Within.refl _) (hκ := Agree.refl ..) ..) (by decide) hκ)

theorem Dev.scrubStep_st (d : Dev) (mem : Nat) (die : Nat) (unit : Nat) (hκ : Kept d) : Kept (Dev.scrubStep d mem die unit) := (Agree.kept (Dev.scrubStep_kp (hμ := Within.refl _) (hκ := Agree.refl ..) ..) (by decide) hκ)

theorem Dev.scrubSb_st (d : Dev) (die : Nat) (woff : Nat) (hκ : Kept d) : Kept (Dev.scrubSb d die woff) := (Agree.kept (Dev.scrubSb_kp (hμ := Within.refl _) (hκ := Agree.refl ..) ..) (by decide) hκ)

theorem Dev.scrubSp_st (d : Dev) (key : Nat) (off : Nat) (hκ : Kept d) : Kept (Dev.scrubSp d key off) := (Agree.kept (Dev.scrubSp_kp (hμ := Within.refl _) (hκ := Agree.refl ..) ..) (by decide) hκ)

theorem Dev.zfillWrite_st (d : Dev) (die : Nat) (v : Nat) (hκ : Kept d) : Kept (Dev.zfillWrite d die v) := (Agree.kept (Dev.zfillWrite_kp (hμ := Within.refl _) (hκ := Agree.refl ..) ..) (by decide) hκ)

theorem Dev.stestRun_st (d : Dev) (mem : Nat) (die : Nat) (i : Nat) (hκ : Kept d) : Kept (Dev.stestRun d mem die i) := (Agree.kept (Dev.stestRun_kp (hμ := Within.refl _) (hκ := Agree.refl ..) ..) (by decide) hκ)

theorem Dev.stestWrite_st (d : Dev) (mem : Nat) (die : Nat) (i : Nat) (v : Nat) (hκ : Kept d) : Kept (Dev.stestWrite d mem die i v) := (Agree.kept (Dev.stestWrite_kp (hμ := Within.refl _) (hκ := Agree.refl ..) ..) (by decide) hκ)

theorem Dev.stwResult_st (d : Dev) (by_ : Nat) (bs : Bytes) (bad : Bool) (hκ : Kept d) : Kept (Dev.stwResult d by_ bs bad) := (Agree.kept (Dev.stwResult_kp (hμ := Within.refl _) (hκ := Agree.refl ..) ..) (by decide) hκ)

theorem Dev.stwStore_st (d : Dev) (by_ : Nat) (hκ : Kept d) : Kept (Dev.stwStore d by_) := (Agree.kept (Dev.stwStore_kp (hμ := Within.refl _) (hκ := Agree.refl ..) ..) (by decide) hκ)

theorem Dev.loRead_st (d : Dev) (by_ : Nat) (die : Nat) (off : Nat) (hκ : Kept d) : Kept (Dev.loRead d by_ die off) := (Agree.kept (Dev.loRead_kp (hμ := Within.refl _) (hκ := Agree.refl ..) ..) (by decide) hκ)

theorem Dev.tumbStore_st (d : Dev) (die : Nat) (off : Nat) (bs : Bytes) (hκ : Kept d) : Kept (Dev.tumbStore d die off bs) := (Agree.kept (Dev.tumbStore_kp (hμ := Within.refl _) (hκ := Agree.refl ..) ..) (by decide) hκ)

theorem Dev.stwFence_st (d : Dev) (by_ : Nat) (hκ : Kept d) : Kept (Dev.stwFence d by_) := (Agree.kept (Dev.stwFence_kp (hμ := Within.refl _) (hκ := Agree.refl ..) ..) (by decide) hκ)

theorem cmdLinkStatus_st  (d : Dev) (die : Nat) (q : HReq) (ph a : Nat) (hκ : Kept d) : Kept ((cmdLinkStatus).run d die q ph a).d := (Agree.kept (cmdLinkStatus_kp (hμ := Within.refl _) (hκ := Agree.refl ..) ..) (by decide) hκ)

theorem cmdLinkRetrain_st  (d : Dev) (die : Nat) (q : HReq) (ph a : Nat) (hκ : Kept d) : Kept ((cmdLinkRetrain).run d die q ph a).d := (Agree.kept (cmdLinkRetrain_kp (hμ := Within.refl _) (hκ := Agree.refl ..) ..) (by decide) hκ)

theorem cmdRoutes_st  (d : Dev) (die : Nat) (q : HReq) (ph a : Nat) (hκ : Kept d) : Kept ((cmdRoutes).run d die q ph a).d := (Agree.kept (cmdRoutes_kp (hμ := Within.refl _) (hκ := Agree.refl ..) ..) (by decide) hκ)

theorem cmdKnuckles_st  (d : Dev) (die : Nat) (q : HReq) (ph a : Nat) (hκ : Kept d) : Kept ((cmdKnuckles).run d die q ph a).d := (Agree.kept (cmdKnuckles_kp (hμ := Within.refl _) (hκ := Agree.refl ..) ..) (by decide) hκ)

theorem cmdStage_st  (d : Dev) (die : Nat) (q : HReq) (ph a : Nat) (hκ : Kept d) : Kept ((cmdStage).run d die q ph a).d := (Agree.kept (cmdStage_kp (hμ := Within.refl _) (hκ := Agree.refl ..) ..) (by decide) hκ)

theorem cmdCommit_st (bad : Bool) (d : Dev) (die : Nat) (q : HReq) (ph a : Nat) (hκ : Kept d) : Kept ((cmdCommit bad).run d die q ph a).d := (Agree.kept (cmdCommit_kp (hμ := Within.refl _) (hκ := Agree.refl ..) ..) (by decide) hκ)

theorem cmdBlank_st  (d : Dev) (die : Nat) (q : HReq) (ph a : Nat) (hκ : Kept d) : Kept ((cmdBlank).run d die q ph a).d := (Agree.kept (cmdBlank_kp (hμ := Within.refl _) (hκ := Agree.refl ..) ..) (by decide) hκ)

theorem Dev.heartbeat_st (d : Dev) (die : Nat) (hκ : Kept d) : Kept (Dev.heartbeat d die) := (Agree.kept (Dev.heartbeat_kp (hμ := Within.refl _) (hκ := Agree.refl ..) ..) (by decide) hκ)

theorem Dev.electionStart_st (d : Dev) (die : Nat) (hκ : Kept d) : Kept (Dev.electionStart d die) := (Agree.kept (Dev.electionStart_kp (hμ := Within.refl _) (hκ := Agree.refl ..) ..) (by decide) hκ)

theorem Dev.electionPropose_st (d : Dev) (die : Nat) (hκ : Kept d) : Kept (Dev.electionPropose d die) := (Agree.kept (Dev.electionPropose_kp (hμ := Within.refl _) (hκ := Agree.refl ..) ..) (by decide) hκ)

theorem Dev.pctlBit_st (d : Dev) (die : Nat) (n : Nat) (v : Nat) (hκ : Kept d) : Kept (Dev.pctlBit d die n v) := (Agree.kept (Dev.pctlBit_kp (hμ := Within.refl _) (hκ := Agree.refl ..) ..) (by decide) hκ)

theorem Dev.loadCells_st (d : Dev) (die : Nat) (n : Nat) (mask : Nat) (hκ : Kept d) : Kept (Dev.loadCells d die n mask) := (Agree.kept (Dev.loadCells_kp (hμ := Within.refl _) (hκ := Agree.refl ..) ..) (by decide) hκ)

theorem Dev.qpState_st (d : Dev) (die : Nat) (want : Nat) (hκ : Kept d) : Kept (Dev.qpState d die want) := (Agree.kept (Dev.qpState_kp (hμ := Within.refl _) (hκ := Agree.refl ..) ..) (by decide) hκ)

theorem Dev.portFence_st (d : Dev) (die : Nat) (mask : Nat) (hκ : Kept d) : Kept (Dev.portFence d die mask) := (Agree.kept (Dev.portFence_kp (hμ := Within.refl _) (hκ := Agree.refl ..) ..) (by decide) hκ)

theorem Dev.laneTestWrite_st (d : Dev) (die : Nat) (l : Nat) (loop : Nat) (prbs : Nat) (hκ : Kept d) : Kept (Dev.laneTestWrite d die l loop prbs) := (Agree.kept (Dev.laneTestWrite_kp (hμ := Within.refl _) (hκ := Agree.refl ..) ..) (by decide) hκ)

theorem Dev.chunkSend_st (d : Dev) (die : Nat) (nchm1 : Nat) (chunk : Nat) (uni : Bool) (mask : Nat) (hκ : Kept d) : Kept (Dev.chunkSend d die nchm1 chunk uni mask) := (Agree.kept (Dev.chunkSend_kp (hμ := Within.refl _) (hκ := Agree.refl ..) ..) (by decide) hκ)

theorem Dev.count_fst (d : Dev) (f : Fld) (k : Nat) (die : Nat) (i : Nat) (s : Nat) (hκ : Kept d) : Kept (Dev.count d f k die i s) :=
  Agree.kept (μ := 0xffffffffffffffffffffffffffffffffffffffffffffffffffffffffffffffffffffffffffffffffffffffffffff) (Dev.count_kp (hf := ((Within.refl _).up (s := 0xffffffffffffffffffffffffffffffffffffffffffffffffffffffffffffffffffffffffffffffffffffffffffff) (by decide)).bit (Reg.all_bit _)) (hμ := (Within.refl _).up (by decide)) (hκ := Agree.refl ..) ..) (by decide) hκ

theorem Dev.countSat_fst (d : Dev) (f : Fld) (k : Nat) (die : Nat) (i : Nat) (s : Nat) (hκ : Kept d) : Kept (Dev.countSat d f k die i s) :=
  Agree.kept (μ := 0xffffffffffffffffffffffffffffffffffffffffffffffffffffffffffffffffffffffffffffffffffffffffffff) (Dev.countSat_kp (hf := ((Within.refl _).up (s := 0xffffffffffffffffffffffffffffffffffffffffffffffffffffffffffffffffffffffffffffffffffffffffffff) (by decide)).bit (Reg.all_bit _)) (hμ := (Within.refl _).up (by decide)) (hκ := Agree.refl ..) ..) (by decide) hκ

theorem Dev.count64_fst (d : Dev) (lo : Fld) (hi : Fld) (k : Nat) (die : Nat) (i : Nat) (s : Nat) (hκ : Kept d) : Kept (Dev.count64 d lo hi k die i s) :=
  Agree.kept (μ := 0xffffffffffffffffffffffffffffffffffffffffffffffffffffffffffffffffffffffffffffffffffffffffffff) (Dev.count64_kp (hlo := ((Within.refl _).up (s := 0xffffffffffffffffffffffffffffffffffffffffffffffffffffffffffffffffffffffffffffffffffffffffffff) (by decide)).bit (Reg.all_bit _)) (hhi := ((Within.refl _).up (s := 0xffffffffffffffffffffffffffffffffffffffffffffffffffffffffffffffffffffffffffffffffffffffffffff) (by decide)).bit (Reg.all_bit _)) (hμ := (Within.refl _).up (by decide)) (hκ := Agree.refl ..) ..) (by decide) hκ

theorem Dev.hwWrite_fst (d : Dev) (die : Nat) (r : Reg) (v : Nat) (hκ : Kept d) : Kept (Dev.hwWrite d die r v) :=
  Agree.kept (μ := 0xffffffffffffffffffffffffffffffffffffffffffffffffffffffffffffffffffffffffffffffffffffffffffff) (Dev.hwWrite_kp (hr := ((Within.refl _).up (s := 0xffffffffffffffffffffffffffffffffffffffffffffffffffffffffffffffffffffffffffffffffffffffffffff) (by decide)).bit (Reg.all_bit _)) (hμ := (Within.refl _).up (by decide)) (hκ := Agree.refl ..) ..) (by decide) hκ

theorem Dev.dspOvWrite_fst (d : Dev) (die : Nat) (r : Reg) (v : Nat) (hκ : Kept d) : Kept (Dev.dspOvWrite d die r v) :=
  Agree.kept (μ := 0xffffffffffffffffffffffffffffffffffffffffffffffffffffffffffffffffffffffffffffffffffffffffffff) (Dev.dspOvWrite_kp (hr := ((Within.refl _).up (s := 0xffffffffffffffffffffffffffffffffffffffffffffffffffffffffffffffffffffffffffffffffffffffffffff) (by decide)).bit (Reg.all_bit _)) (hμ := (Within.refl _).up (by decide)) (hκ := Agree.refl ..) ..) (by decide) hκ

theorem Dev.fenceWrite_fst (d : Dev) (die : Nat) (r : Reg) (v : Nat) (hκ : Kept d) : Kept (Dev.fenceWrite d die r v) :=
  Agree.kept (μ := 0xffffffffffffffffffffffffffffffffffffffffffffffffffffffffffffffffffffffffffffffffffffffffffff) (Dev.fenceWrite_kp (hr := ((Within.refl _).up (s := 0xffffffffffffffffffffffffffffffffffffffffffffffffffffffffffffffffffffffffffffffffffffffffffff) (by decide)).bit (Reg.all_bit _)) (hμ := (Within.refl _).up (by decide)) (hκ := Agree.refl ..) ..) (by decide) hκ

theorem Dev.qpPut_fst (d : Dev) (f : Fld) (v : Nat) (q : Nat) (hκ : Kept d) : Kept (Dev.qpPut d f v q) :=
  Agree.kept (μ := 0xffffffffffffffffffffffffffffffffffffffffffffffffffffffffffffffffffffffffffffffffffffffffffff) (Dev.qpPut_kp (hf := ((Within.refl _).up (s := 0xffffffffffffffffffffffffffffffffffffffffffffffffffffffffffffffffffffffffffffffffffffffffffff) (by decide)).bit (Reg.all_bit _)) (hμ := (Within.refl _).up (by decide)) (hκ := Agree.refl ..) ..) (by decide) hκ

theorem Dev.qpRegWrite_fst (d : Dev) (die : Nat) (i : Nat) (r : Reg) (v : Nat) (hκ : Kept d) : Kept (Dev.qpRegWrite d die i r v) :=
  Agree.kept (μ := 0xffffffffffffffffffffffffffffffffffffffffffffffffffffffffffffffffffffffffffffffffffffffffffff) (Dev.qpRegWrite_kp (hr := ((Within.refl _).up (s := 0xffffffffffffffffffffffffffffffffffffffffffffffffffffffffffffffffffffffffffffffffffffffffffff) (by decide)).bit (Reg.all_bit _)) (hμ := (Within.refl _).up (by decide)) (hκ := Agree.refl ..) ..) (by decide) hκ

theorem Dev.regionWrite_fst (d : Dev) (die : Nat) (r : Reg) (v : Nat) (hκ : Kept d) : Kept (Dev.regionWrite d die r v) :=
  Agree.kept (μ := 0xffffffffffffffffffffffffffffffffffffffffffffffffffffffffffffffffffffffffffffffffffffffffffff) (Dev.regionWrite_kp (hr := ((Within.refl _).up (s := 0xffffffffffffffffffffffffffffffffffffffffffffffffffffffffffffffffffffffffffffffffffffffffffff) (by decide)).bit (Reg.all_bit _)) (hμ := (Within.refl _).up (by decide)) (hκ := Agree.refl ..) ..) (by decide) hκ

theorem Dev.writeUnit_st (d : Dev) (a : Nat) (bs : Bytes)  (hκ : Kept d) : Kept (Dev.writeUnit d a bs) := by
  unfold Dev.writeUnit
  repeat' (first | with_reducible assumption | intro _ | (simp only [id_eq]) | (with_reducible refine Kept.of (Memory.setBytes_wf _ _ _ (Kept.out ?_))) | (with_reducible refine Kept.of (Memory.zero_wf _ _ _ (Kept.out ?_))) | (with_reducible apply Kept.ite) | split)

theorem Dev.spWriteWord_st (d : Dev) (k : Nat) (key : Nat) (a : Nat) (p : Nat) (bs : Bytes)  (hκ : Kept d) : Kept (Dev.spWriteWord d k key a p bs) := by
  unfold Dev.spWriteWord
  repeat' (first | with_reducible assumption | intro _ | (simp only [id_eq]) | (with_reducible refine Dev.markUnit_st (hκ := ?_) ..) | (with_reducible refine Dev.spCount_st (hκ := ?_) ..) | (with_reducible refine Dev.writeUnit_st (hκ := ?_) ..) | (with_reducible apply Kept.ite) | split)

theorem Dev.spStore_st (d : Dev) (key : Nat) (off : Nat) (bs : Bytes)  (hκ : Kept d) : Kept (Dev.spStore d key off bs) := by
  unfold Dev.spStore
  repeat' (first | with_reducible assumption | intro _ | (simp only [id_eq]) | (with_reducible refine Dev.draw_st' (heq := by with_reducible assumption) (hκ := ?_) ..) | (with_reducible refine Dev.draw_st (hκ := ?_) ..) | (with_reducible refine Dev.spWriteWord_st (hκ := ?_) ..) | (with_reducible apply Kept.ite) | (with_reducible apply Kept.foldl) | (with_reducible apply Kept.foldl_fst) | (with_reducible apply Kept.foldl_snd) | split)

theorem Dev.spInvalid_st (d : Dev) (key : Nat)  (hκ : Kept d) : Kept (Dev.spInvalid d key) := by
  unfold Dev.spInvalid
  repeat' (first | with_reducible assumption | intro _ | (simp only [id_eq]) | (with_reducible refine Kept.of (Memory.setBytes_wf _ _ _ (Kept.out ?_))) | (with_reducible refine Kept.of (Memory.zero_wf _ _ _ (Kept.out ?_))) | (with_reducible apply Kept.ite) | split)

theorem Dev.sbRmw_st (d : Dev) (die : Nat) (woff : Nat) (p : Nat) (bs : Bytes)  (hκ : Kept d) : Kept (Dev.sbRmw d die woff p bs) := by
  unfold Dev.sbRmw
  repeat' (first | with_reducible assumption | intro _ | (simp only [id_eq]) | (with_reducible refine Dev.draw_st' (heq := by with_reducible assumption) (hκ := ?_) ..) | (with_reducible refine Dev.draw_st (hκ := ?_) ..) | (with_reducible refine Dev.markUnit_st (hκ := ?_) ..) | (with_reducible refine Dev.sbCount_st (hκ := ?_) ..) | (with_reducible refine Dev.writeUnit_st (hκ := ?_) ..) | (with_reducible apply Kept.ite) | split)

theorem Dev.sbApply_st (d : Dev) (die : Nat) (e : MEnt)  (hκ : Kept d) : Kept (Dev.sbApply d die e) := by
  unfold Dev.sbApply
  repeat' (first | with_reducible assumption | intro _ | (simp only [id_eq]) | (with_reducible refine Dev.count_fst (hκ := ?_) ..) | (with_reducible refine Dev.sbDropEnt_st (hκ := ?_) ..) | (with_reducible refine Dev.sbRmw_st (hκ := ?_) ..) | (with_reducible refine Dev.writeUnit_st (hκ := ?_) ..) | (with_reducible apply Kept.ite) | split)

theorem Dev.sbFlush_st (d : Dev) (die : Nat) (woff : Nat)  (hκ : Kept d) : Kept (Dev.sbFlush d die woff) := by
  unfold Dev.sbFlush
  repeat' (first | with_reducible assumption | intro _ | (simp only [id_eq]) | (with_reducible refine Dev.sbApply_st (hκ := ?_) ..) | (with_reducible apply Kept.ite) | split)

theorem Dev.sbWrite32_st (d : Dev) (die : Nat) (woff : Nat) (bs : Bytes)  (hκ : Kept d) : Kept (Dev.sbWrite32 d die woff bs) := by
  unfold Dev.sbWrite32
  repeat' (first | with_reducible assumption | intro _ | (simp only [id_eq]) | (with_reducible refine Dev.sbDropEnt_st (hκ := ?_) ..) | (with_reducible refine Dev.writeUnit_st (hκ := ?_) ..) | (with_reducible apply Kept.ite) | split)

theorem Dev.sbWrite16_st (d : Dev) (die : Nat) (off : Nat) (bs : Bytes)  (hκ : Kept d) : Kept (Dev.sbWrite16 d die off bs) := by
  unfold Dev.sbWrite16
  repeat' (first | with_reducible assumption | intro _ | (simp only [id_eq]) | (with_reducible refine Dev.sbApply_st (hκ := ?_) ..) | (with_reducible refine Dev.setMerge_st (hκ := ?_) ..) | (with_reducible apply Kept.ite) | split)

theorem Dev.sbStore_st (d : Dev) (die : Nat) (off : Nat) (bs : Bytes)  (hκ : Kept d) : Kept (Dev.sbStore d die off bs) := by
  unfold Dev.sbStore
  repeat' (first | with_reducible assumption | intro _ | (simp only [id_eq]) | (with_reducible refine Dev.sbFlush_st (hκ := ?_) ..) | (with_reducible refine Dev.sbRmw_st (hκ := ?_) ..) | (with_reducible refine Dev.sbWrite32_st (hκ := ?_) ..) | (with_reducible apply Kept.ite) | (with_reducible apply Kept.foldl) | (with_reducible apply Kept.foldl_fst) | (with_reducible apply Kept.foldl_snd) | split)

theorem Dev.sbInvalid_st (d : Dev) (die : Nat)  (hκ : Kept d) : Kept (Dev.sbInvalid d die) := by
  unfold Dev.sbInvalid
  repeat' (first | with_reducible assumption | intro _ | (simp only [id_eq]) | (with_reducible refine Kept.of (Memory.setBytes_wf _ _ _ (Kept.out ?_))) | (with_reducible refine Kept.of (Memory.zero_wf _ _ _ (Kept.out ?_))) | (with_reducible apply Kept.ite) | split)

theorem Dev.hbPoison_st (d : Dev) (die : Nat) (off : Nat) (w : Nat)  (hκ : Kept d) : Kept (Dev.hbPoison d die off w) := by
  unfold Dev.hbPoison
  repeat' (first | with_reducible assumption | intro _ | (simp only [id_eq]) | (with_reducible refine Dev.markUnit_st (hκ := ?_) ..) | (with_reducible refine Dev.writeUnit_st (hκ := ?_) ..) | (with_reducible apply Kept.ite) | split)

theorem Dev.hbAfter_st (d : Dev) (die : Nat) (off : Nat) (w : Nat) (again : Nat)  (hκ : Kept d) : Kept (Dev.hbAfter d die off w again) := by
  unfold Dev.hbAfter
  repeat' (first | with_reducible assumption | intro _ | (simp only [id_eq]) | (simp only [Kept.set_errs]) | (with_reducible refine Dev.countSat_fst (hκ := ?_) ..) | (with_reducible refine Dev.hbLast_st (hκ := ?_) ..) | (with_reducible refine Dev.hbPoison_st (hκ := ?_) ..) | (with_reducible refine Dev.markUnit_st (hκ := ?_) ..) | (with_reducible refine Dev.memRec_st (hκ := ?_) ..) | (with_reducible refine Dev.sidesFail_st (hκ := ?_) ..) | (with_reducible refine Dev.writeUnit_st (hκ := ?_) ..) | (with_reducible apply Kept.ite) | split)

theorem Dev.hbLoad_st (d : Dev) (die : Nat) (off : Nat) (n : Nat) (again : List (Nat × Nat))  (hκ : Kept d) : Kept (Dev.hbLoad d die off n again).2 := by
  unfold Dev.hbLoad
  repeat' (first | with_reducible assumption | intro _ | (simp only [id_eq]) | (with_reducible refine Dev.draw_st' (heq := by with_reducible assumption) (hκ := ?_) ..) | (with_reducible refine Dev.draw_st (hκ := ?_) ..) | (with_reducible refine Dev.hbAfter_st (hκ := ?_) ..) | (with_reducible apply Kept.ite) | (with_reducible apply Kept.foldl) | (with_reducible apply Kept.foldl_fst) | (with_reducible apply Kept.foldl_snd) | split)

theorem Dev.hbLoad_st' {d : Dev} {die : Nat} {off : Nat} {n : Nat} {again : List (Nat × Nat)} {y0} {rd : Dev} (heq : Dev.hbLoad d die off n again = (y0, rd))  (hκ : Kept d) : Kept rd := by
  have k := Dev.hbLoad_st d die off n again  (hκ := hκ); rw [heq] at k; exact k

theorem Dev.hbWriteUnit_st (d : Dev) (die : Nat) (u : Nat) (w : Nat) (p : Nat) (bs : Bytes)  (hκ : Kept d) : Kept (Dev.hbWriteUnit d die u w p bs).1 := by
  unfold Dev.hbWriteUnit
  repeat' (first | with_reducible assumption | intro _ | (simp only [id_eq]) | (with_reducible refine Dev.countSat_fst (hκ := ?_) ..) | (with_reducible refine Dev.draw_st' (heq := by with_reducible assumption) (hκ := ?_) ..) | (with_reducible refine Dev.draw_st (hκ := ?_) ..) | (with_reducible refine Dev.hbAfter_st (hκ := ?_) ..) | (with_reducible refine Dev.hbPoison_st (hκ := ?_) ..) | (with_reducible refine Dev.writeUnit_st (hκ := ?_) ..) | (with_reducible apply Kept.ite) | split)

theorem Dev.hbWriteUnit_st' {d : Dev} {die : Nat} {u : Nat} {w : Nat} {p : Nat} {bs : Bytes} {rd : Dev} {y} (heq : Dev.hbWriteUnit d die u w p bs = (rd, y))  (hκ : Kept d) : Kept rd := by
  have k := Dev.hbWriteUnit_st d die u w p bs  (hκ := hκ); rw [heq] at k; exact k

theorem Dev.hbStore_st (d : Dev) (die : Nat) (off : Nat) (bs : Bytes)  (hκ : Kept d) : Kept (Dev.hbStore d die off bs).1 := by
  unfold Dev.hbStore
  repeat' (first | with_reducible assumption | intro _ | (simp only [id_eq]) | (with_reducible refine Dev.hbWriteUnit_st' (heq := by with_reducible assumption) (hκ := ?_) ..) | (with_reducible refine Dev.hbWriteUnit_st (hκ := ?_) ..) | (with_reducible apply Kept.ite) | (with_reducible apply Kept.foldl) | (with_reducible apply Kept.foldl_fst) | (with_reducible apply Kept.foldl_snd) | split)

theorem Dev.hbStore_st' {d : Dev} {die : Nat} {off : Nat} {bs : Bytes} {rd : Dev} {y} (heq : Dev.hbStore d die off bs = (rd, y))  (hκ : Kept d) : Kept rd := by
  have k := Dev.hbStore_st d die off bs  (hκ := hκ); rw [heq] at k; exact k

theorem Dev.hbInvalid_st (d : Dev) (die : Nat)  (hκ : Kept d) : Kept (Dev.hbInvalid d die) := by
  unfold Dev.hbInvalid
  repeat' (first | with_reducible assumption | intro _ | (simp only [id_eq]) | (with_reducible refine Kept.of (Memory.setBytes_wf _ _ _ (Kept.out ?_))) | (with_reducible refine Kept.of (Memory.zero_wf _ _ _ (Kept.out ?_))) | (with_reducible apply Kept.ite) | split)

theorem Dev.hbZero_st (d : Dev) (die : Nat) (off : Nat) (n : Nat)  (hκ : Kept d) : Kept (Dev.hbZero d die off n) := by
  unfold Dev.hbZero
  repeat' (first | with_reducible assumption | intro _ | (simp only [id_eq]) | (with_reducible refine Kept.of (Memory.setBytes_wf _ _ _ (Kept.out ?_))) | (with_reducible refine Kept.of (Memory.zero_wf _ _ _ (Kept.out ?_))) | (with_reducible apply Kept.ite) | split)

theorem Dev.cutUnit_st (d : Dev) (die : Nat) (u : Nat) (w : Nat) (odd : Nat)  (hκ : Kept d) : Kept (Dev.cutUnit d die u w odd) := by
  unfold Dev.cutUnit
  repeat' (first | with_reducible assumption | intro _ | (simp only [id_eq]) | (with_reducible refine Dev.hbPoison_st (hκ := ?_) ..) | (with_reducible refine Dev.markUnit_st (hκ := ?_) ..) | (with_reducible refine Dev.writeUnit_st (hκ := ?_) ..) | (with_reducible apply Kept.ite) | split)

theorem Dev.blankCutDone_st (d : Dev) (die : Nat) (stack : Nat)  (hκ : Kept d) : Kept (Dev.blankCutDone d die stack) := by
  unfold Dev.blankCutDone
  repeat' (first | with_reducible assumption | intro _ | (simp only [id_eq]) | (with_reducible refine Dev.countSat_fst (hκ := ?_) ..) | (with_reducible refine Dev.cutUnit_st (hκ := ?_) ..) | (with_reducible refine Dev.freeMin_st (hκ := ?_) ..) | (with_reducible refine Dev.memRec_st (hκ := ?_) ..) | (with_reducible refine Dev.put_fst (hκ := ?_) ..) | (with_reducible refine Dev.setHbm_st (hκ := ?_) ..) | (with_reducible apply Kept.ite) | (with_reducible apply Kept.foldl) | (with_reducible apply Kept.foldl_fst) | (with_reducible apply Kept.foldl_snd) | split)

theorem Dev.ncDone_st (d : Dev) (die : Nat)  (hκ : Kept d) : Kept (Dev.ncDone d die) := by
  unfold Dev.ncDone
  repeat' (first | with_reducible assumption | intro _ | (simp only [id_eq]) | (simp only [Kept.set_conv_narrow]) | (with_reducible refine Dev.hbZero_st (hκ := ?_) ..) | (with_reducible apply Kept.ite) | split)

theorem Dev.issue_st (d : Dev) (cn p op : Nat) (resv : Iss → Bool) (reads : Iss → List Nat) (wait : Iss → Bool)
    (skip : Iss → Core → Core) (traps : Dev → Iss → List Trap) (act : Iss → Dev → Dev × Option Trap)
    (hact : ∀ a0 a1, Kept a1 → Kept (act a0 a1).1) (hκ : Kept d) :
    Kept (Dev.issue d cn p op resv reads wait skip traps act) := by
  unfold Dev.issue
  split
  · exact hκ
  · rename_i i _
    have h1 := hact i (d.setCore i.key i.c.advance) (Agree.kept (Dev.setCore_kp (hμ := Within.refl _) (hκ := Agree.refl ..) ..) (by decide) hκ)
    rcases he : act i (d.setCore i.key i.c.advance) with ⟨d', q⟩
    rw [he] at h1
    cases q <;> repeat' (first | with_reducible assumption | intro _ | (simp only [id_eq]) | (simp only [he]) | (with_reducible refine hact _ _ ?_) | (with_reducible refine Dev.setCore_st (hκ := ?_) ..) | (with_reducible refine Dev.trapCore_st (hκ := ?_) ..) | (with_reducible apply Kept.ite) | split)

theorem Dev.issueReg_st (d : Dev) (cn : Nat) (p : Nat) (op : Nat) (resv : Iss → Bool) (reads : Iss → List Nat) (f : Iss → Core → Core)  (hκ : Kept d) : Kept (Dev.issueReg d cn p op resv reads f) := by
  unfold Dev.issueReg
  repeat' (first | with_reducible assumption | intro _ | (simp only [id_eq]) | (with_reducible refine Dev.issue_st (hact := ?_) (hκ := ?_) ..) | (with_reducible refine Dev.setCore_st (hκ := ?_) ..) | (with_reducible apply Kept.ite) | split)

theorem Dev.wLoop_st (d : Dev) (cn : Nat) (p : Nat)  (hκ : Kept d) : Kept (Dev.wLoop d cn p) := by
  unfold Dev.wLoop
  repeat' (first | with_reducible assumption | intro _ | (simp only [id_eq]) | (with_reducible refine Dev.issue_st (hact := ?_) (hκ := ?_) ..) | (with_reducible refine Dev.setCore_st (hκ := ?_) ..) | (with_reducible apply Kept.ite) | split)

theorem Dev.wSeed_st (d : Dev) (cn : Nat) (p : Nat)  (hκ : Kept d) : Kept (Dev.wSeed d cn p) := by
  unfold Dev.wSeed
  repeat' (first | with_reducible assumption | intro _ | (simp only [id_eq]) | (with_reducible refine Dev.issue_st (hact := ?_) (hκ := ?_) ..) | (with_reducible refine Dev.loadThen_st' (heq := by with_reducible assumption) (hκ := ?_) ..) | (with_reducible refine Dev.loadThen_st (hκ := ?_) ..) | (with_reducible apply Kept.ite) | split)

theorem Dev.wLutld_st (d : Dev) (cn : Nat) (p : Nat)  (hκ : Kept d) : Kept (Dev.wLutld d cn p) := by
  unfold Dev.wLutld
  repeat' (first | with_reducible assumption | intro _ | (simp only [id_eq]) | (with_reducible refine Dev.issue_st (hact := ?_) (hκ := ?_) ..) | (with_reducible refine Dev.loadThen_st' (heq := by with_reducible assumption) (hκ := ?_) ..) | (with_reducible refine Dev.loadThen_st (hκ := ?_) ..) | (with_reducible apply Kept.ite) | split)

theorem Dev.wCload_st (d : Dev) (cn : Nat) (p : Nat)  (hκ : Kept d) : Kept (Dev.wCload d cn p) := by
  unfold Dev.wCload
  repeat' (first | with_reducible assumption | intro _ | (simp only [id_eq]) | (with_reducible refine Dev.issue_st (hact := ?_) (hκ := ?_) ..) | (with_reducible refine Dev.loadThen_st' (heq := by with_reducible assumption) (hκ := ?_) ..) | (with_reducible refine Dev.loadThen_st (hκ := ?_) ..) | (with_reducible apply Kept.ite) | split)

theorem Dev.wCstore_st (d : Dev) (cn : Nat) (p : Nat)  (hκ : Kept d) : Kept (Dev.wCstore d cn p) := by
  unfold Dev.wCstore
  repeat' (first | with_reducible assumption | intro _ | (simp only [id_eq]) | (with_reducible refine Dev.issue_st (hact := ?_) (hκ := ?_) ..) | (with_reducible refine Dev.setCore_st (hκ := ?_) ..) | (with_reducible refine Dev.spStore_st (hκ := ?_) ..) | (with_reducible apply Kept.ite) | split)

theorem Dev.wMta_st (d : Dev) (cn : Nat) (p : Nat)  (hκ : Kept d) : Kept (Dev.wMta d cn p) := by
  unfold Dev.wMta
  repeat' (first | with_reducible assumption | intro _ | (simp only [id_eq]) | (with_reducible refine Dev.issue_st (hact := ?_) (hκ := ?_) ..) | (with_reducible refine Dev.setCore_st (hκ := ?_) ..) | (with_reducible apply Kept.ite) | split)

theorem Dev.wMtb_st (d : Dev) (cn : Nat) (p : Nat)  (hκ : Kept d) : Kept (Dev.wMtb d cn p) := by
  unfold Dev.wMtb
  repeat' (first | with_reducible assumption | intro _ | (simp only [id_eq]) | (with_reducible refine Dev.issue_st (hact := ?_) (hκ := ?_) ..) | (with_reducible refine Dev.setCore_st (hκ := ?_) ..) | (with_reducible apply Kept.ite) | split)

theorem Dev.wMma_st (d : Dev) (cn : Nat) (p : Nat)  (hκ : Kept d) : Kept (Dev.wMma d cn p) := by
  unfold Dev.wMma
  repeat' (first | with_reducible assumption | intro _ | (simp only [id_eq]) | (with_reducible refine Dev.draw_st' (heq := by with_reducible assumption) (hκ := ?_) ..) | (with_reducible refine Dev.draw_st (hκ := ?_) ..) | (with_reducible refine Dev.issue_st (hact := ?_) (hκ := ?_) ..) | (with_reducible refine Dev.setCore_st (hκ := ?_) ..) | (with_reducible apply Kept.ite) | split)

theorem Dev.wVld_st (d : Dev) (cn : Nat) (p : Nat)  (hκ : Kept d) : Kept (Dev.wVld d cn p) := by
  unfold Dev.wVld
  repeat' (first | with_reducible assumption | intro _ | (simp only [id_eq]) | (with_reducible refine Dev.issue_st (hact := ?_) (hκ := ?_) ..) | (with_reducible refine Dev.loadThen_st' (heq := by with_reducible assumption) (hκ := ?_) ..) | (with_reducible refine Dev.loadThen_st (hκ := ?_) ..) | (with_reducible apply Kept.ite) | split)

theorem Dev.wVst_st (d : Dev) (cn : Nat) (p : Nat)  (hκ : Kept d) : Kept (Dev.wVst d cn p) := by
  unfold Dev.wVst
  repeat' (first | with_reducible assumption | intro _ | (simp only [id_eq]) | (with_reducible refine Dev.issue_st (hact := ?_) (hκ := ?_) ..) | (with_reducible refine Dev.setCore_st (hκ := ?_) ..) | (with_reducible refine Dev.spStore_st (hκ := ?_) ..) | (with_reducible apply Kept.ite) | split)

theorem Dev.wVacc_st (d : Dev) (cn : Nat) (p : Nat)  (hκ : Kept d) : Kept (Dev.wVacc d cn p) := by
  unfold Dev.wVacc
  repeat' (first | with_reducible assumption | intro _ | (simp only [id_eq]) | (with_reducible refine Dev.issue_st (hact := ?_) (hκ := ?_) ..) | (with_reducible refine Dev.setCore_st (hκ := ?_) ..) | (with_reducible apply Kept.ite) | split)

theorem Dev.wVop_st (d : Dev) (cn : Nat) (p : Nat)  (hκ : Kept d) : Kept (Dev.wVop d cn p) := by
  unfold Dev.wVop
  repeat' (first | with_reducible assumption | intro _ | (simp only [id_eq]) | (with_reducible refine Dev.draw_st' (heq := by with_reducible assumption) (hκ := ?_) ..) | (with_reducible refine Dev.draw_st (hκ := ?_) ..) | (with_reducible refine Dev.issue_st (hact := ?_) (hκ := ?_) ..) | (with_reducible refine Dev.setCore_st (hκ := ?_) ..) | (with_reducible apply Kept.ite) | split)

theorem Dev.spBits_st (d : Dev) (key : Nat) (a : Nat) (lo : Nat) (n : Nat) (v : Nat)  (hκ : Kept d) : Kept (Dev.spBits d key a lo n v) := by
  unfold Dev.spBits
  repeat' (first | with_reducible assumption | intro _ | (simp only [id_eq]) | (with_reducible refine Dev.draw_st' (heq := by with_reducible assumption) (hκ := ?_) ..) | (with_reducible refine Dev.draw_st (hκ := ?_) ..) | (with_reducible refine Dev.markUnit_st (hκ := ?_) ..) | (with_reducible refine Dev.put_fst (hκ := ?_) ..) | (with_reducible refine Dev.spCount_st (hκ := ?_) ..) | (with_reducible refine Dev.writeUnit_st (hκ := ?_) ..) | (with_reducible apply Kept.ite) | split)

theorem Dev.spStoreBits_st (d : Dev) (key : Nat) (bit : Nat) (n : Nat) (v : Nat)  (hκ : Kept d) : Kept (Dev.spStoreBits d key bit n v) := by
  unfold Dev.spStoreBits
  repeat' (first | with_reducible assumption | intro _ | (simp only [id_eq]) | (with_reducible refine Dev.spBits_st (hκ := ?_) ..) | (with_reducible apply Kept.ite) | split)

theorem Dev.wVcvt_st (d : Dev) (cn : Nat) (p : Nat)  (hκ : Kept d) : Kept (Dev.wVcvt d cn p) := by
  unfold Dev.wVcvt
  repeat' (first | with_reducible assumption | intro _ | (simp only [id_eq]) | (with_reducible refine Dev.issue_st (hact := ?_) (hκ := ?_) ..) | (with_reducible refine Dev.setCore_st (hκ := ?_) ..) | (with_reducible refine Dev.spStore_st (hκ := ?_) ..) | (with_reducible refine Dev.spStoreBits_st (hκ := ?_) ..) | (with_reducible apply Kept.ite) | (with_reducible apply Kept.foldl) | (with_reducible apply Kept.foldl_fst) | (with_reducible apply Kept.foldl_snd) | split)

theorem Dev.wTwait_st (d : Dev) (cn : Nat) (p : Nat)  (hκ : Kept d) : Kept (Dev.wTwait d cn p) := by
  unfold Dev.wTwait
  repeat' (first | with_reducible assumption | intro _ | (simp only [id_eq]) | (with_reducible refine Dev.coreSend_st (hκ := ?_) ..) | (with_reducible refine Dev.issue_st (hact := ?_) (hκ := ?_) ..) | (with_reducible refine Dev.setCore_st (hκ := ?_) ..) | (with_reducible apply Kept.ite) | split)

theorem Dev.wTadd_st (d : Dev) (cn : Nat) (p : Nat)  (hκ : Kept d) : Kept (Dev.wTadd d cn p) := by
  unfold Dev.wTadd
  repeat' (first | with_reducible assumption | intro _ | (simp only [id_eq]) | (with_reducible refine Dev.coreSend_st (hκ := ?_) ..) | (with_reducible refine Dev.issue_st (hact := ?_) (hκ := ?_) ..) | (with_reducible apply Kept.ite) | split)

theorem Dev.wTset_st (d : Dev) (cn : Nat) (p : Nat)  (hκ : Kept d) : Kept (Dev.wTset d cn p) := by
  unfold Dev.wTset
  repeat' (first | with_reducible assumption | intro _ | (simp only [id_eq]) | (with_reducible refine Dev.coreSend_st (hκ := ?_) ..) | (with_reducible refine Dev.issue_st (hact := ?_) (hκ := ?_) ..) | (with_reducible apply Kept.ite) | split)

theorem Dev.wTradd_st (d : Dev) (cn : Nat) (p : Nat)  (hκ : Kept d) : Kept (Dev.wTradd d cn p) := by
  unfold Dev.wTradd
  repeat' (first | with_reducible assumption | intro _ | (simp only [id_eq]) | (with_reducible refine Dev.issue_st (hact := ?_) (hκ := ?_) ..) | (with_reducible refine Dev.setCore_st (hκ := ?_) ..) | (with_reducible apply Kept.ite) | split)

theorem Dev.wTcadd_st (d : Dev) (cn : Nat) (p : Nat)  (hκ : Kept d) : Kept (Dev.wTcadd d cn p) := by
  unfold Dev.wTcadd
  repeat' (first | with_reducible assumption | intro _ | (simp only [id_eq]) | (with_reducible refine Dev.coreSend_st (hκ := ?_) ..) | (with_reducible refine Dev.issue_st (hact := ?_) (hκ := ?_) ..) | (with_reducible refine Dev.setCore_st (hκ := ?_) ..) | (with_reducible apply Kept.ite) | split)

theorem Dev.sbPerform_st (d : Dev) (die : Nat) (off : Nat) (t : Txn)  (hκ : Kept d) : Kept (Dev.sbPerform d die off t).2 := by
  unfold Dev.sbPerform
  repeat' (first | with_reducible assumption | intro _ | (simp only [id_eq]) | (with_reducible refine Dev.sbFlush_st (hκ := ?_) ..) | (with_reducible refine Dev.sbLoad_st' (heq := by with_reducible assumption) (hκ := ?_) ..) | (with_reducible refine Dev.sbLoad_st (hκ := ?_) ..) | (with_reducible refine Dev.sbStore_st (hκ := ?_) ..) | (with_reducible refine Dev.sbWrite16_st (hκ := ?_) ..) | (with_reducible refine Dev.sbWrite32_st (hκ := ?_) ..) | (with_reducible apply Kept.ite) | split)

theorem Dev.sbPerform_st' {d : Dev} {die : Nat} {off : Nat} {t : Txn} {y0} {rd : Dev} (heq : Dev.sbPerform d die off t = (y0, rd))  (hκ : Kept d) : Kept rd := by
  have k := Dev.sbPerform_st d die off t  (hκ := hκ); rw [heq] at k; exact k

theorem Dev.hbPerform_st (d : Dev) (die : Nat) (off : Nat) (t : Txn) (again : List (Nat × Nat))  (hκ : Kept d) : Kept (Dev.hbPerform d die off t again).2 := by
  unfold Dev.hbPerform
  repeat' (first | with_reducible assumption | intro _ | (simp only [id_eq]) | (with_reducible refine Dev.hbLoad_st' (heq := by with_reducible assumption) (hκ := ?_) ..) | (with_reducible refine Dev.hbLoad_st (hκ := ?_) ..) | (with_reducible refine Dev.hbStore_st' (heq := by with_reducible assumption) (hκ := ?_) ..) | (with_reducible refine Dev.hbStore_st (hκ := ?_) ..) | (with_reducible apply Kept.ite) | split)

theorem Dev.hbPerform_st' {d : Dev} {die : Nat} {off : Nat} {t : Txn} {again : List (Nat × Nat)} {y0} {rd : Dev} (heq : Dev.hbPerform d die off t again = (y0, rd))  (hκ : Kept d) : Kept rd := by
  have k := Dev.hbPerform_st d die off t again  (hκ := hκ); rw [heq] at k; exact k

theorem Dev.spPerform_st (d : Dev) (l : Nat) (off : Nat) (t : Txn)  (hκ : Kept d) : Kept (Dev.spPerform d l off t).2 := by
  unfold Dev.spPerform
  repeat' (first | with_reducible assumption | intro _ | (simp only [id_eq]) | (with_reducible refine Dev.spLoad_st' (heq := by with_reducible assumption) (hκ := ?_) ..) | (with_reducible refine Dev.spLoad_st (hκ := ?_) ..) | (with_reducible refine Dev.spStore_st (hκ := ?_) ..) | (with_reducible apply Kept.ite) | split)

theorem Dev.spPerform_st' {d : Dev} {l : Nat} {off : Nat} {t : Txn} {y0} {rd : Dev} (heq : Dev.spPerform d l off t = (y0, rd))  (hκ : Kept d) : Kept rd := by
  have k := Dev.spPerform_st d l off t  (hκ := hκ); rw [heq] at k; exact k

theorem Dev.hbAdmit_st (d : Dev) (die : Nat) (grp : Nat) (bkt : Nat) (n : Nat)  (hκ : Kept d) : Kept (Dev.hbAdmit d die grp bkt n) := by
  unfold Dev.hbAdmit
  repeat' (first | with_reducible assumption | intro _ | (simp only [id_eq]) | (simp only [Kept.set_bq]) | (simp only [Kept.set_rdq]) | (with_reducible refine Dev.count64_fst (hκ := ?_) ..) | (with_reducible refine Dev.fillBuckets_st (hκ := ?_) ..) | (with_reducible refine Dev.hbPerform_st' (heq := by with_reducible assumption) (hκ := ?_) ..) | (with_reducible refine Dev.hbPerform_st (hκ := ?_) ..) | (with_reducible refine Dev.memRec_st (hκ := ?_) ..) | (with_reducible refine Dev.put_fst (hκ := ?_) ..) | (with_reducible refine Dev.respond_st (hκ := ?_) ..) | (with_reducible refine Dev.wrqPut_st (hκ := ?_) ..) | (with_reducible apply Kept.ite) | split)

theorem Dev.hbServe_st (d : Dev) (die : Nat) (chan : Nat) (i : Nat) (again : List (Nat × Nat))  (hκ : Kept d) : Kept (Dev.hbServe d die chan i again) := by
  unfold Dev.hbServe
  repeat' (first | with_reducible assumption | intro _ | (simp only [id_eq]) | (simp only [Kept.set_rdq]) | (with_reducible refine Dev.burst_st (hκ := ?_) ..) | (with_reducible refine Dev.hbPerform_st' (heq := by with_reducible assumption) (hκ := ?_) ..) | (with_reducible refine Dev.hbPerform_st (hκ := ?_) ..) | (with_reducible refine Dev.memRec_st (hκ := ?_) ..) | (with_reducible refine Dev.put_fst (hκ := ?_) ..) | (with_reducible refine Dev.respond_st (hκ := ?_) ..) | (with_reducible apply Kept.ite) | split)

theorem Dev.atHome_st (d : Dev) (t : Txn) (g : Nat)  (hκ : Kept d) : Kept (Dev.atHome d t g) := by
  unfold Dev.atHome
  repeat' (first | with_reducible assumption | intro _ | (simp only [id_eq]) | (with_reducible refine Dev.bqPut_st (hκ := ?_) ..) | (with_reducible refine Dev.memRec_st (hκ := ?_) ..) | (with_reducible refine Dev.put_fst (hκ := ?_) ..) | (with_reducible refine Dev.respond_st (hκ := ?_) ..) | (with_reducible refine Dev.sbPerform_st' (heq := by with_reducible assumption) (hκ := ?_) ..) | (with_reducible refine Dev.sbPerform_st (hκ := ?_) ..) | (with_reducible apply Kept.ite) | split)

theorem Dev.dspLines_st (d : Dev) (die space : Nat) (offs : List Nat) (hκ : Kept d) : Kept (Dev.dspLines d die space offs).2 := by
  induction offs generalizing d with
  | nil => exact hκ
  | cons off offs ih =>
    unfold Dev.dspLines
    rcases hd : d.dspDeny die space off with ⟨q, d1⟩
    have h1 : Kept d1 := Agree.kept (Dev.dspDeny_kp' hd (Within.refl _) (Agree.refl _ _)) (by decide) hκ
    cases q with
    | some x => simp only; exact h1
    | none =>
      have h2 : Kept (if space = 1 then d1.sbLoad die off 64 else d1.hbLoad die off 64 []).2 := by
        split
        · exact (Agree.kept (Dev.sbLoad_kp (hμ := Within.refl _) (hκ := Agree.refl ..) ..) (by decide) h1)
        · exact Dev.hbLoad_st (hκ := h1) ..
      simp only
      generalize (if space = 1 then d1.sbLoad die off 64 else d1.hbLoad die off 64 []) = r at h2 ⊢
      split
      · exact h2
      · have h3 := ih r.2 h2
        rcases hr : Dev.dspLines r.2 die space offs with ⟨y, d3⟩
        rw [hr] at h3
        cases y <;> exact h3

theorem Dev.dspLines_st' {d : Dev} {die space : Nat} {offs : List Nat} {y0} {rd : Dev} (heq : Dev.dspLines d die space offs = (y0, rd)) (hκ : Kept d) : Kept rd := by
  have k := Dev.dspLines_st d die space offs hκ; rw [heq] at k; exact k

theorem Dev.dspRead_st (d : Dev) (die space off n : Nat) (hκ : Kept d) : Kept (Dev.dspRead d die space off n).2 :=
  Dev.dspLines_st _ _ _ _ hκ

theorem Dev.dspRead_st' {d : Dev} {die space off n : Nat} {y0} {rd : Dev} (heq : Dev.dspRead d die space off n = (y0, rd)) (hκ : Kept d) : Kept rd := by
  have k := Dev.dspRead_st d die space off n hκ; rw [heq] at k; exact k

theorem Dev.dspReads_st (d : Dev) (die : Nat) (xs : List (Nat × Nat)) (hκ : Kept d) : Kept (Dev.dspReads d die xs).2 := by
  induction xs generalizing d with
  | nil => exact hκ
  | cons x xs ih =>
    unfold Dev.dspReads
    rcases hd : d.dspRead die 1 x.1 x.2 with ⟨y, d1⟩
    have h1 := Dev.dspRead_st' hd hκ
    cases y with
    | bad c i => exact h1
    | ok bs =>
      have h2 := ih d1 h1
      rcases hr : Dev.dspReads d1 die xs with ⟨z, d2⟩
      rw [hr] at h2
      simp only [hr]
      cases z <;> exact h2

theorem Dev.dspReads_st' {d : Dev} {die : Nat} {xs : List (Nat × Nat)} {y0} {rd : Dev} (heq : Dev.dspReads d die xs = (y0, rd)) (hκ : Kept d) : Kept rd := by
  have k := Dev.dspReads_st d die xs hκ; rw [heq] at k; exact k

theorem Dev.dspWrite_st (d : Dev) (die : Nat) (ws : List (Nat × Bytes))  (hκ : Kept d) : Kept (Dev.dspWrite d die ws).2 := by
  unfold Dev.dspWrite
  repeat' (first | with_reducible assumption | intro _ | (simp only [id_eq]) | (with_reducible refine Dev.countSat_fst (hκ := ?_) ..) | (with_reducible refine Dev.pdrop_st (hκ := ?_) ..) | (with_reducible refine Dev.sbStore_st (hκ := ?_) ..) | (with_reducible apply Kept.ite) | (with_reducible apply Kept.foldl) | (with_reducible apply Kept.foldl_fst) | (with_reducible apply Kept.foldl_snd) | split)

theorem Dev.dspWrite_st' {d : Dev} {die : Nat} {ws : List (Nat × Bytes)} {y0} {rd : Dev} (heq : Dev.dspWrite d die ws = (y0, rd))  (hκ : Kept d) : Kept rd := by
  have k := Dev.dspWrite_st d die ws  (hκ := hκ); rw [heq] at k; exact k

theorem Dev.gateRun_st (d : Dev) (die step : Nat) (s : Step) (hκ : Kept d) : Kept (Dev.gateRun d die step s).2 := by
  have hfull : ∀ x : Nat × Dev, Kept x.2 → Kept (Dev.dspFull x).2 := by
    intro x h; unfold Dev.dspFull; split <;> exact h
  unfold Dev.gateRun
  repeat' (first | with_reducible assumption | intro _ | (simp only [id_eq]) | (with_reducible refine hfull _ ?_) | (with_reducible refine Dev.countSat_fst (hκ := ?_) ..) | (with_reducible refine Dev.draw_st' (heq := by with_reducible assumption) (hκ := ?_) ..) | (with_reducible refine Dev.draw_st (hκ := ?_) ..) | (with_reducible refine Dev.dspOverflow_st' (heq := by with_reducible assumption) (hκ := ?_) ..) | (with_reducible refine Dev.dspOverflow_st (hκ := ?_) ..) | (with_reducible refine Dev.dspReads_st' (heq := by with_reducible assumption) (hκ := ?_) ..) | (with_reducible refine Dev.dspReads_st (hκ := ?_) ..) | (with_reducible refine Dev.dspWrite_st' (heq := by with_reducible assumption) (hκ := ?_) ..) | (with_reducible refine Dev.dspWrite_st (hκ := ?_) ..) | (with_reducible apply Kept.ite) | split)

theorem Dev.gateRun_st' {d : Dev} {die step : Nat} {s : Step} {y0} {rd : Dev} (heq : Dev.gateRun d die step s = (y0, rd)) (hκ : Kept d) : Kept rd := by
  have k := Dev.gateRun_st d die step s hκ; rw [heq] at k; exact k

theorem Dev.dspEntries_st (d : Dev) (die ctab k : Nat) (xs : List (Nat × Choice)) (hκ : Kept d) : Kept (Dev.dspEntries d die ctab k xs).2 := by
  induction xs generalizing d with
  | nil => exact hκ
  | cons x xs ih =>
    obtain ⟨w, c⟩ := x
    unfold Dev.dspEntries
    simp only
    rcases hd : d.dspRead die 1 ((ctab + (c.t * k + c.r) * 8) / 64 * 64) 64 with ⟨y, d1⟩
    have h1 := Dev.dspRead_st' hd hκ
    cases y with
    | bad ca i => exact h1
    | ok bs => exact ih _ (Dev.sbStore_st (hκ := h1) ..)

theorem Dev.dspEntries_st' {d : Dev} {die ctab k : Nat} {xs : List (Nat × Choice)} {y0} {rd : Dev} (heq : Dev.dspEntries d die ctab k xs = (y0, rd)) (hκ : Kept d) : Kept rd := by
  have k := Dev.dspEntries_st d die ctab k xs hκ; rw [heq] at k; exact k

theorem Dev.repackRun_st (d : Dev) (die step : Nat) (s : Step) (hκ : Kept d) : Kept (Dev.repackRun d die step s).2 := by
  have hfull : ∀ x : Nat × Dev, Kept x.2 → Kept (Dev.dspFull x).2 := by
    intro x h; unfold Dev.dspFull; split <;> exact h
  unfold Dev.repackRun
  repeat' (first | with_reducible assumption | intro _ | (simp only [id_eq]) | (with_reducible refine hfull _ ?_) | (with_reducible refine Dev.dspEntries_st' (heq := by with_reducible assumption) (hκ := ?_) ..) | (with_reducible refine Dev.dspEntries_st (hκ := ?_) ..) | (with_reducible refine Dev.dspOverflow_st' (heq := by with_reducible assumption) (hκ := ?_) ..) | (with_reducible refine Dev.dspOverflow_st (hκ := ?_) ..) | (with_reducible refine Dev.dspRead_st' (heq := by with_reducible assumption) (hκ := ?_) ..) | (with_reducible refine Dev.dspRead_st (hκ := ?_) ..) | (with_reducible refine Dev.dspWrite_st' (heq := by with_reducible assumption) (hκ := ?_) ..) | (with_reducible refine Dev.dspWrite_st (hκ := ?_) ..) | (with_reducible apply Kept.ite) | split)

theorem Dev.repackRun_st' {d : Dev} {die step : Nat} {s : Step} {y0} {rd : Dev} (heq : Dev.repackRun d die step s = (y0, rd)) (hκ : Kept d) : Kept rd := by
  have k := Dev.repackRun_st d die step s hκ; rw [heq] at k; exact k

theorem Dev.combineTokens_st (d : Dev) (die : Nat) (s : Step) (ts : List Nat) (hκ : Kept d) : Kept (Dev.combineTokens d die s ts).2 := by
  induction ts generalizing d with
  | nil => exact hκ
  | cons t ts ih =>
    unfold Dev.combineTokens
    simp only
    generalize s.f 36 4 + t * s.kc * 8 = off
    rcases hd : d.dspRead die 1 (off / 64 * 64) (off % 64 + 8 * s.kc) with ⟨y, d1⟩
    have h1 := Dev.dspRead_st' hd hκ
    cases y with
    | bad c i => exact h1
    | ok bs =>
      simp only
      split
      · exact Dev.dspReads_st' (by assumption) h1
      · have h2 := Dev.dspReads_st' (by assumption) h1
        split
        · exact Dev.dspWrite_st' (by assumption) h2
        · exact ih _ (Dev.dspWrite_st' (by assumption) h2)

theorem Dev.combineTokens_st' {d : Dev} {die : Nat} {s : Step} {ts : List Nat} {y0} {rd : Dev} (heq : Dev.combineTokens d die s ts = (y0, rd)) (hκ : Kept d) : Kept rd := by
  have k := Dev.combineTokens_st d die s ts hκ; rw [heq] at k; exact k

theorem Dev.combineRun_st (d : Dev) (die : Nat) (s : Step)  (hκ : Kept d) : Kept (Dev.combineRun d die s).2 := by
  unfold Dev.combineRun
  repeat' (first | with_reducible assumption | intro _ | (simp only [id_eq]) | (with_reducible refine Dev.combineTokens_st' (heq := by with_reducible assumption) (hκ := ?_) ..) | (with_reducible refine Dev.combineTokens_st (hκ := ?_) ..) | (with_reducible apply Kept.ite) | split)

theorem Dev.combineRun_st' {d : Dev} {die : Nat} {s : Step} {y0} {rd : Dev} (heq : Dev.combineRun d die s = (y0, rd))  (hκ : Kept d) : Kept rd := by
  have k := Dev.combineRun_st d die s  (hκ := hκ); rw [heq] at k; exact k

theorem Dev.dspWork_st (d : Dev) (die : Nat) (n : Nat) (s : Step)  (hκ : Kept d) : Kept (Dev.dspWork d die n s) := by
  unfold Dev.dspWork
  repeat' (first | with_reducible assumption | intro _ | (simp only [id_eq]) | (with_reducible refine Dev.combineRun_st' (heq := by with_reducible assumption) (hκ := ?_) ..) | (with_reducible refine Dev.combineRun_st (hκ := ?_) ..) | (with_reducible refine Dev.dspFail_st (hκ := ?_) ..) | (with_reducible refine Dev.dspRan_st (hκ := ?_) ..) | (with_reducible refine Dev.dspUndef_st (hκ := ?_) ..) | (with_reducible refine Dev.gateRun_st' (heq := by with_reducible assumption) (hκ := ?_) ..) | (with_reducible refine Dev.gateRun_st (hκ := ?_) ..) | (with_reducible refine Dev.repackRun_st' (heq := by with_reducible assumption) (hκ := ?_) ..) | (with_reducible refine Dev.repackRun_st (hκ := ?_) ..) | (with_reducible apply Kept.ite) | split)

theorem Dev.dspBegin_st (d : Dev) (die : Nat) (op : Nat)  (hκ : Kept d) : Kept (Dev.dspBegin d die op) := by
  unfold Dev.dspBegin
  repeat' (first | with_reducible assumption | intro _ | (simp only [id_eq]) | (with_reducible refine Dev.dspFail_st (hκ := ?_) ..) | (with_reducible refine Dev.dspSettle_st (hκ := ?_) ..) | (with_reducible refine Dev.dspUndef_st (hκ := ?_) ..) | (with_reducible refine Dev.dspWork_st (hκ := ?_) ..) | (with_reducible refine Dev.modDsp_st (hκ := ?_) ..) | (with_reducible refine Dev.put_fst (hκ := ?_) ..) | (with_reducible refine Dev.sendOp_st (hκ := ?_) ..) | (with_reducible refine Dev.setDsp_st (hκ := ?_) ..) | (with_reducible apply Kept.ite) | split)

theorem Dev.eachCore_st (d : Dev) (_cn : Nat) (f : Dev → Nat → Dev) (hf : ∀ a0 a1, Kept a0 → Kept (f a0 a1)) (hκ : Kept d) : Kept (Dev.eachCore d _cn f) := by
  unfold Dev.eachCore
  repeat' (first | with_reducible assumption | intro _ | (simp only [id_eq]) | (with_reducible refine hf _ _ ?_) | (with_reducible apply Kept.ite) | (with_reducible apply Kept.foldl) | (with_reducible apply Kept.foldl_fst) | (with_reducible apply Kept.foldl_snd) | split)

theorem Dev.planAbort_st (d : Dev) (cn : Nat)  (hκ : Kept d) : Kept (Dev.planAbort d cn) := by
  unfold Dev.planAbort
  repeat' (first | with_reducible assumption | intro _ | (simp only [id_eq]) | (with_reducible refine Dev.abortCore_st (hκ := ?_) ..) | (with_reducible refine Dev.eachCore_st (hf := ?_) (hκ := ?_) ..) | (with_reducible apply Kept.ite) | split)

theorem Dev.planStart_st (d : Dev) (cn : Nat)  (hκ : Kept d) : Kept (Dev.planStart d cn) := by
  unfold Dev.planStart
  repeat' (first | with_reducible assumption | intro _ | (simp only [id_eq]) | (with_reducible refine Dev.eachCore_st (hf := ?_) (hκ := ?_) ..) | (with_reducible refine Dev.put_fst (hκ := ?_) ..) | (with_reducible refine Dev.setCell_st (hκ := ?_) ..) | (with_reducible refine Dev.setCore_st (hκ := ?_) ..) | (with_reducible apply Kept.ite) | split)

theorem Dev.parkNow_st (d : Dev) (cn : Nat)  (hκ : Kept d) : Kept (Dev.parkNow d cn) := by
  unfold Dev.parkNow
  repeat' (first | with_reducible assumption | intro _ | (simp only [id_eq]) | (with_reducible refine Dev.drainCore_st (hκ := ?_) ..) | (with_reducible refine Dev.eachCore_st (hf := ?_) (hκ := ?_) ..) | (with_reducible refine Dev.setPark_st (hκ := ?_) ..) | (with_reducible refine Dev.stopCore_st (hκ := ?_) ..) | (with_reducible apply Kept.ite) | split)

theorem Dev.cellUnpark_st (d : Dev) (cn : Nat)  (hκ : Kept d) : Kept (Dev.cellUnpark d cn) := by
  unfold Dev.cellUnpark
  repeat' (first | with_reducible assumption | intro _ | (simp only [id_eq]) | (with_reducible refine Dev.eachCore_st (hf := ?_) (hκ := ?_) ..) | (with_reducible refine Dev.setCell_st (hκ := ?_) ..) | (with_reducible refine Dev.setCore_st (hκ := ?_) ..) | (with_reducible refine Dev.setPark_st (hκ := ?_) ..) | (with_reducible apply Kept.ite) | split)

theorem Dev.cellReset_st (d : Dev) (cn : Nat)  (hκ : Kept d) : Kept (Dev.cellReset d cn) := by
  unfold Dev.cellReset
  repeat' (first | with_reducible assumption | intro _ | (simp only [id_eq]) | (with_reducible refine Dev.eachCore_st (hf := ?_) (hκ := ?_) ..) | (with_reducible refine Dev.put_fst (hκ := ?_) ..) | (with_reducible refine Dev.setCore_st (hκ := ?_) ..) | (with_reducible refine Dev.spInvalid_st (hκ := ?_) ..) | (with_reducible refine Dev.withdrawSlots_st (hκ := ?_) ..) | (with_reducible apply Kept.ite) | split)

theorem Dev.cellCtlWrite_st (d : Dev) (die : Nat) (n : Nat) (v : Nat)  (hκ : Kept d) : Kept (Dev.cellCtlWrite d die n v) := by
  unfold Dev.cellCtlWrite
  repeat' (first | with_reducible assumption | intro _ | (simp only [id_eq]) | (with_reducible refine Dev.cellPark_st (hκ := ?_) ..) | (with_reducible refine Dev.cellReset_st (hκ := ?_) ..) | (with_reducible refine Dev.cellUnpark_st (hκ := ?_) ..) | (with_reducible apply Kept.ite) | (with_reducible apply Kept.foldl) | (with_reducible apply Kept.foldl_fst) | (with_reducible apply Kept.foldl_snd) | split)

theorem Dev.mapSet_st (d : Dev) (die : Nat) (n : Nat) (s : Nat) (v : Nat)  (hκ : Kept d) : Kept (Dev.mapSet d die n s v) := by
  unfold Dev.mapSet
  repeat' (first | with_reducible assumption | intro _ | (simp only [id_eq]) | (with_reducible refine Dev.put_fst (hκ := ?_) ..) | (with_reducible refine Dev.setCore_st (hκ := ?_) ..) | (with_reducible refine Dev.spInvalid_st (hκ := ?_) ..) | (with_reducible apply Kept.ite) | split)

theorem Dev.mapWrite_st (d : Dev) (die : Nat) (n : Nat) (v : Nat)  (hκ : Kept d) : Kept (Dev.mapWrite d die n v) := by
  unfold Dev.mapWrite
  repeat' (first | with_reducible assumption | intro _ | (simp only [id_eq]) | (with_reducible refine Dev.mapSet_st (hκ := ?_) ..) | (with_reducible apply Kept.ite) | split)

theorem Dev.loaderEnter_st (d : Dev) (cn : Nat)  (hκ : Kept d) : Kept (Dev.loaderEnter d cn) := by
  unfold Dev.loaderEnter
  repeat' (first | with_reducible assumption | intro _ | (simp only [id_eq]) | (with_reducible refine Dev.eachCore_st (hf := ?_) (hκ := ?_) ..) | (with_reducible refine Dev.setCore_st (hκ := ?_) ..) | (with_reducible refine Dev.withdrawSlots_st (hκ := ?_) ..) | (with_reducible apply Kept.ite) | split)

theorem Dev.setTest_st (d : Dev) (cn : Nat) (b : Bool)  (hκ : Kept d) : Kept (Dev.setTest d cn b) := by
  unfold Dev.setTest
  repeat' (first | with_reducible assumption | intro _ | (simp only [id_eq]) | (with_reducible refine Dev.eachCore_st (hf := ?_) (hκ := ?_) ..) | (with_reducible refine Dev.put_fst (hκ := ?_) ..) | (with_reducible refine Dev.setCore_st (hκ := ?_) ..) | (with_reducible apply Kept.ite) | split)

theorem Dev.bothEnds_st (d : Dev) (k : Nat) (f : Dev → Nat → Nat → Dev) (hf : ∀ a0 a1 a2, Kept a0 → Kept (f a0 a1 a2)) (hκ : Kept d) : Kept (Dev.bothEnds d k f) := by
  unfold Dev.bothEnds
  repeat' (first | with_reducible assumption | intro _ | (simp only [id_eq]) | (with_reducible refine hf _ _ _ ?_) | (with_reducible apply Kept.ite) | split)

theorem Dev.knkState_st (d : Dev) (k : Nat) (st : Nat)  (hκ : Kept d) : Kept (Dev.knkState d k st) := by
  unfold Dev.knkState
  repeat' (first | with_reducible assumption | intro _ | (simp only [id_eq]) | (with_reducible refine Dev.bothEnds_st (hf := ?_) (hκ := ?_) ..) | (with_reducible refine Dev.put_fst (hκ := ?_) ..) | (with_reducible apply Kept.ite) | split)

theorem Dev.knkRec_st (d : Dev) (k : Nat) (code : Nat)  (hκ : Kept d) : Kept (Dev.knkRec d k code) := by
  unfold Dev.knkRec
  repeat' (first | with_reducible assumption | intro _ | (simp only [id_eq]) | (with_reducible refine Dev.bothEnds_st (hf := ?_) (hκ := ?_) ..) | (with_reducible refine Dev.post_st (hκ := ?_) ..) | (with_reducible apply Kept.ite) | split)

theorem Dev.knkClear_st (d : Dev) (k : Nat)  (hκ : Kept d) : Kept (Dev.knkClear d k) := by
  unfold Dev.knkClear
  repeat' (first | with_reducible assumption | intro _ | (simp only [id_eq]) | (with_reducible refine Dev.bothEnds_st (hf := ?_) (hκ := ?_) ..) | (with_reducible refine Dev.put_fst (hκ := ?_) ..) | (with_reducible apply Kept.ite) | split)

theorem Dev.knkEnded_st (d : Dev) (k : Nat)  (hκ : Kept d) : Kept (Dev.knkEnded d k) := by
  unfold Dev.knkEnded
  repeat' (first | with_reducible assumption | intro _ | (simp only [id_eq]) | (simp only [Kept.set_knkPend]) | (with_reducible refine Dev.bothEnds_st (hf := ?_) (hκ := ?_) ..) | (with_reducible refine Dev.knkCmd_st (hκ := ?_) ..) | (with_reducible refine Dev.put_fst (hκ := ?_) ..) | (with_reducible apply Kept.ite) | split)

theorem Dev.knkEnterUp_st (d : Dev) (k : Nat) (fresh : Bool)  (hκ : Kept d) : Kept (Dev.knkEnterUp d k fresh) := by
  unfold Dev.knkEnterUp
  repeat' (first | with_reducible assumption | intro _ | (simp only [id_eq]) | (with_reducible refine Dev.bothEnds_st (hf := ?_) (hκ := ?_) ..) | (with_reducible refine Dev.knkEnded_st (hκ := ?_) ..) | (with_reducible refine Dev.knkRec_st (hκ := ?_) ..) | (with_reducible refine Dev.knkState_st (hκ := ?_) ..) | (with_reducible refine Dev.knkUp_st (hκ := ?_) ..) | (with_reducible refine Dev.setFlink_st (hκ := ?_) ..) | (with_reducible refine Dev.setKnk_st (hκ := ?_) ..) | (with_reducible apply Kept.ite) | split)

theorem Dev.knkStepEnd_st (d : Dev) (k : Nat) (a : KnkRes) (b : KnkRes)  (hκ : Kept d) : Kept (Dev.knkStepEnd d k a b) := by
  unfold Dev.knkStepEnd
  repeat' (first | with_reducible assumption | intro _ | (simp only [id_eq]) | (with_reducible refine Dev.bothEnds_st (hf := ?_) (hκ := ?_) ..) | (with_reducible refine Dev.knkActive_st (hκ := ?_) ..) | (with_reducible refine Dev.knkDown_st (hκ := ?_) ..) | (with_reducible refine Dev.knkEnded_st (hκ := ?_) ..) | (with_reducible refine Dev.knkEnterUp_st (hκ := ?_) ..) | (with_reducible refine Dev.knkFull_st (hκ := ?_) ..) | (with_reducible refine Dev.knkMargs_st (hκ := ?_) ..) | (with_reducible refine Dev.knkRec_st (hκ := ?_) ..) | (with_reducible refine Dev.knkState_st (hκ := ?_) ..) | (with_reducible refine Dev.put_fst (hκ := ?_) ..) | (with_reducible refine Dev.setKnk_st (hκ := ?_) ..) | (with_reducible apply Kept.ite) | split)

theorem Dev.knkQualEnd_st (d : Dev) (k : Nat) (ea : Nat) (eb : Nat)  (hκ : Kept d) : Kept (Dev.knkQualEnd d k ea eb) := by
  unfold Dev.knkQualEnd
  repeat' (first | with_reducible assumption | intro _ | (simp only [id_eq]) | (with_reducible refine Dev.bothEnds_st (hf := ?_) (hκ := ?_) ..) | (with_reducible refine Dev.knkDown_st (hκ := ?_) ..) | (with_reducible refine Dev.knkEnded_st (hκ := ?_) ..) | (with_reducible refine Dev.knkEnterUp_st (hκ := ?_) ..) | (with_reducible refine Dev.knkFull_st (hκ := ?_) ..) | (with_reducible refine Dev.knkRec_st (hκ := ?_) ..) | (with_reducible refine Dev.put_fst (hκ := ?_) ..) | (with_reducible apply Kept.ite) | split)

theorem Dev.roceTake_st (d : Dev) (die : Nat) (p : Nat) (ops : List Nat) (act : Dev → Nat → Bytes → Dev) (hact : ∀ a0 a1 a2, Kept a0 → Kept (act a0 a1 a2)) (hκ : Kept d) : Kept (Dev.roceTake d die p ops act) := by
  unfold Dev.roceTake
  repeat' (first | with_reducible assumption | intro _ | (simp only [id_eq]) | (with_reducible refine hact _ _ _ ?_) | (with_reducible refine Dev.rxTake_st (heq := by with_reducible assumption) (hκ := ?_) ..) | (with_reducible apply Kept.ite) | split)

theorem Dev.rdmaAck_st (d : Dev) (die : Nat) (p : Nat)  (hκ : Kept d) : Kept (Dev.rdmaAck d die p) := by
  unfold Dev.rdmaAck
  repeat' (first | with_reducible assumption | intro _ | (simp only [id_eq]) | (with_reducible refine Dev.ackUpTo_st (hκ := ?_) ..) | (with_reducible refine Dev.roceTake_st (hact := ?_) (hκ := ?_) ..) | (with_reducible apply Kept.ite) | split)

theorem Dev.rdmaNak_st (d : Dev) (die : Nat) (p : Nat)  (hκ : Kept d) : Kept (Dev.rdmaNak d die p) := by
  unfold Dev.rdmaNak
  repeat' (first | with_reducible assumption | intro _ | (simp only [id_eq]) | (with_reducible refine Dev.ackUpTo_st (hκ := ?_) ..) | (with_reducible refine Dev.qpError_st (hκ := ?_) ..) | (with_reducible refine Dev.qpRetry_st (hκ := ?_) ..) | (with_reducible refine Dev.roceTake_st (hact := ?_) (hκ := ?_) ..) | (with_reducible apply Kept.ite) | split)

theorem Dev.rdmaReadRsp_st (d : Dev) (die : Nat) (p : Nat)  (hκ : Kept d) : Kept (Dev.rdmaReadRsp d die p) := by
  unfold Dev.rdmaReadRsp
  repeat' (first | with_reducible assumption | intro _ | (simp only [id_eq]) | (with_reducible refine Dev.ackUpTo_st (hκ := ?_) ..) | (with_reducible refine Dev.qpOut_st (hκ := ?_) ..) | (with_reducible refine Dev.qpProgress_st (hκ := ?_) ..) | (with_reducible refine Dev.qpPump_st (hκ := ?_) ..) | (with_reducible refine Dev.respond_st (hκ := ?_) ..) | (with_reducible refine Dev.roceTake_st (hact := ?_) (hκ := ?_) ..) | (with_reducible refine Dev.setQp_st (hκ := ?_) ..) | (with_reducible apply Kept.ite) | (with_reducible apply Kept.foldl) | (with_reducible apply Kept.foldl_fst) | (with_reducible apply Kept.foldl_snd) | split)

theorem Dev.psnCheck_st (d : Dev) (q : Nat) (psn : Nat) (dup : Dev → Dev) (ok : Dev → Dev) (hdup : ∀ a0, Kept a0 → Kept (dup a0)) (hok : ∀ a0, Kept a0 → Kept (ok a0)) (hκ : Kept d) : Kept (Dev.psnCheck d q psn dup ok) := by
  unfold Dev.psnCheck
  repeat' (first | with_reducible assumption | intro _ | (simp only [id_eq]) | (with_reducible refine hdup _ ?_) | (with_reducible refine hok _ ?_) | (with_reducible refine Dev.ackSend_st (hκ := ?_) ..) | (with_reducible refine Dev.modQp_st (hκ := ?_) ..) | (with_reducible apply Kept.ite) | split)

theorem Dev.rdmaWrite_st (d : Dev) (die : Nat) (p : Nat)  (hκ : Kept d) : Kept (Dev.rdmaWrite d die p) := by
  unfold Dev.rdmaWrite
  repeat' (first | with_reducible assumption | intro _ | (simp only [id_eq]) | (with_reducible refine Dev.ackAgain_st (hκ := ?_) ..) | (with_reducible refine Dev.psnCheck_st (hdup := ?_) (hok := ?_) (hκ := ?_) ..) | (with_reducible refine Dev.roceTake_st (hact := ?_) (hκ := ?_) ..) | (with_reducible refine Dev.writePart_st (hκ := ?_) ..) | (with_reducible apply Kept.ite) | split)

theorem Dev.rdmaRead_st (d : Dev) (die p : Nat) (hκ : Kept d) : Kept (Dev.rdmaRead d die p) := by
  have hf : ∀ (e : Dev) (q psn len off : Nat) (ts : List Txn) (adv : Bool), Kept e → Kept (Dev.rdmaRead.take e q psn len off ts adv) := by
    intro e q psn len off ts adv hκ
    unfold Dev.rdmaRead.take
    repeat' (first | with_reducible assumption | intro _ | (simp only [id_eq]) | (with_reducible refine Dev.nakError_st (hκ := ?_) ..) | (with_reducible refine Dev.psnCheck_st (hdup := ?_) (hok := ?_) (hκ := ?_) ..) | (with_reducible refine Dev.psnNext_st (hκ := ?_) ..) | (with_reducible refine Dev.qpTake_st (hκ := ?_) ..) | (with_reducible refine Dev.roceTake_st (hact := ?_) (hκ := ?_) ..) | (with_reducible apply Kept.ite) | split)
  unfold Dev.rdmaRead
  repeat' (first | with_reducible assumption | intro _ | (simp only [id_eq]) | (with_reducible refine hf _ _ _ _ _ _ _ ?_) | (with_reducible refine Dev.nakError_st (hκ := ?_) ..) | (with_reducible refine Dev.psnCheck_st (hdup := ?_) (hok := ?_) (hκ := ?_) ..) | (with_reducible refine Dev.psnNext_st (hκ := ?_) ..) | (with_reducible refine Dev.qpTake_st (hκ := ?_) ..) | (with_reducible refine Dev.roceTake_st (hact := ?_) (hκ := ?_) ..) | (with_reducible apply Kept.ite) | split)

theorem Dev.rdmaSend_st (d : Dev) (die : Nat) (p : Nat)  (hκ : Kept d) : Kept (Dev.rdmaSend d die p) := by
  unfold Dev.rdmaSend
  repeat' (first | with_reducible assumption | intro _ | (simp only [id_eq]) | (with_reducible refine Dev.ackAgain_st (hκ := ?_) ..) | (with_reducible refine Dev.ackSend_st (hκ := ?_) ..) | (with_reducible refine Dev.modQp_st (hκ := ?_) ..) | (with_reducible refine Dev.nakError_st (hκ := ?_) ..) | (with_reducible refine Dev.psnCheck_st (hdup := ?_) (hok := ?_) (hκ := ?_) ..) | (with_reducible refine Dev.psnNext_st (hκ := ?_) ..) | (with_reducible refine Dev.qpPut_fst (hκ := ?_) ..) | (with_reducible refine Dev.qpTake_st (hκ := ?_) ..) | (with_reducible refine Dev.roceTake_st (hact := ?_) (hκ := ?_) ..) | (with_reducible refine Dev.send_st (hκ := ?_) ..) | (with_reducible apply Kept.ite) | split)

theorem Dev.cnpReceive_st (d : Dev) (die : Nat) (p : Nat)  (hκ : Kept d) : Kept (Dev.cnpReceive d die p) := by
  unfold Dev.cnpReceive
  repeat' (first | with_reducible assumption | intro _ | (simp only [id_eq]) | (with_reducible refine Dev.count_fst (hκ := ?_) ..) | (with_reducible refine Dev.modQp_st (hκ := ?_) ..) | (with_reducible refine Dev.qpPut_fst (hκ := ?_) ..) | (with_reducible refine Dev.roceTake_st (hact := ?_) (hκ := ?_) ..) | (with_reducible refine Dev.setQp_st (hκ := ?_) ..) | (with_reducible apply Kept.ite) | split)

theorem Dev.onPath_st (d : Dev) (t : Txn) (dst : Nat) (port : Option Nat) (slice : Option (Nat × Nat)) (go : Dev → Dev) (hgo : ∀ a0, Kept a0 → Kept (go a0)) (hκ : Kept d) : Kept (Dev.onPath d t dst port slice go) := by
  unfold Dev.onPath
  repeat' (first | with_reducible assumption | intro _ | (simp only [id_eq]) | (with_reducible refine hgo _ ?_) | (with_reducible refine Dev.countSat_fst (hκ := ?_) ..) | (with_reducible refine Dev.netPut_st (hκ := ?_) ..) | (with_reducible refine Dev.pathFail_st (hκ := ?_) ..) | (with_reducible refine Dev.pdrop_st (hκ := ?_) ..) | (with_reducible refine Dev.post_st (hκ := ?_) ..) | (with_reducible apply Kept.ite) | split)

theorem Dev.hostReq_st (d : Dev) (n : Nat) (die : Nat) (w : Nat) (off : Nat) (t : Txn) (slice : Option (Nat × Nat))  (hκ : Kept d) : Kept (Dev.hostReq d n die w off t slice) := by
  unfold Dev.hostReq
  repeat' (first | with_reducible assumption | intro _ | (simp only [id_eq]) | (simp only [Kept.set_net]) | (with_reducible refine Dev.netDrop_st (hκ := ?_) ..) | (with_reducible refine Dev.onPath_st (hgo := ?_) (hκ := ?_) ..) | (with_reducible refine Dev.pathFail_st (hκ := ?_) ..) | (with_reducible refine Dev.pdrop_st (hκ := ?_) ..) | (with_reducible refine Dev.qpOp_st (hκ := ?_) ..) | (with_reducible refine Dev.respond_st (hκ := ?_) ..) | (with_reducible apply Kept.ite) | (with_reducible apply Kept.foldl) | (with_reducible apply Kept.foldl_fst) | (with_reducible apply Kept.foldl_snd) | split)

theorem Dev.homeRequest_st (d : Dev) (n : Nat) (ups : List (Nat × Nat)) (slice : Option (Nat × Nat))  (hκ : Kept d) : Kept (Dev.homeRequest d n ups slice) := by
  unfold Dev.homeRequest
  repeat' (first | with_reducible assumption | intro _ | (simp only [id_eq]) | (with_reducible refine Dev.atHome_st (hκ := ?_) ..) | (with_reducible refine Dev.hostReq_st (hκ := ?_) ..) | (with_reducible refine Dev.netDrop_st (hκ := ?_) ..) | (with_reducible refine Dev.onPath_st (hgo := ?_) (hκ := ?_) ..) | (with_reducible refine Dev.respond_st (hκ := ?_) ..) | (with_reducible refine Dev.sendAway_st (heq := by with_reducible assumption) (hκ := ?_) ..) | (with_reducible refine Kept.getD _ _ (fun _ he => Dev.sendAway_st (heq := he) (hκ := ?_) ..) ?_) | (with_reducible refine Dev.spPerform_st' (heq := by with_reducible assumption) (hκ := ?_) ..) | (with_reducible refine Dev.spPerform_st (hκ := ?_) ..) | (with_reducible refine Dev.upset_st (hκ := ?_) ..) | (with_reducible refine Dev.windowReq_st (hκ := ?_) ..) | (with_reducible apply Kept.ite) | split)

theorem Dev.spadsInvalid_st (d : Dev) (c : Nat) (n : Nat)  (hκ : Kept d) : Kept (Dev.spadsInvalid d c n) := by
  unfold Dev.spadsInvalid
  repeat' (first | with_reducible assumption | intro _ | (simp only [id_eq]) | (with_reducible refine Kept.of (Memory.setBytes_wf _ _ _ (Kept.out ?_))) | (with_reducible refine Kept.of (Memory.zero_wf _ _ _ (Kept.out ?_))) | (with_reducible apply Kept.ite) | split)

theorem Dev.computeOff_st (d : Dev) (die : Nat)  (hκ : Kept d) : Kept (Dev.computeOff d die) := by
  unfold Dev.computeOff
  repeat' (first | with_reducible assumption | intro _ | (simp only [id_eq]) | (simp only [Kept.set_cores_cells_engs_unfs_dsps_waits_chunks_stest]) | (with_reducible refine Dev.flags_st (hκ := ?_) ..) | (with_reducible refine Dev.put_fst (hκ := ?_) ..) | (with_reducible refine Dev.resetBut_st (hκ := ?_) ..) | (with_reducible refine Dev.spadsInvalid_st (hκ := ?_) ..) | (with_reducible apply Kept.ite) | split)

theorem Dev.carrierOff_st (d : Dev) (die : Nat) (sleep : Bool) (hκ : Kept d) : Kept (d.carrierOff die sleep) := by
  unfold Dev.carrierOff
  simp only
  refine Kept.foldl _ _ _ (fun e t h => Dev.pathFail_st (hκ := h) ..) ?_
  refine Dev.put_fst _ _ _ _ _ _ (Dev.put_fst _ _ _ _ _ _ ?_)
  have h0 : Kept ((List.range 4).foldl (fun d' j => ((d'.moveRoutes (4 * die + j)).portFlush (4 * die + j))) (d.computeOff die)) := by
    repeat' (first | with_reducible assumption | intro _ | (simp only [id_eq]) | (simp only [Kept.set_hbm_narrow_stews]) | (simp only [Kept.set_tmb]) | (with_reducible refine Dev.computeOff_st (hκ := ?_) ..) | (with_reducible refine Dev.flags_st (hκ := ?_) ..) | (with_reducible refine Dev.hbInvalid_st (hκ := ?_) ..) | (with_reducible refine Dev.moveRoutes_st (hκ := ?_) ..) | (with_reducible refine Dev.pathFail_st (hκ := ?_) ..) | (with_reducible refine Dev.portFlush_st (hκ := ?_) ..) | (with_reducible refine Dev.put_fst (hκ := ?_) ..) | (with_reducible refine Dev.resetBut_st (hκ := ?_) ..) | (with_reducible refine Dev.sbInvalid_st (hκ := ?_) ..) | (with_reducible apply Kept.ite) | (with_reducible apply Kept.foldl) | (with_reducible apply Kept.foldl_fst) | (with_reducible apply Kept.foldl_snd) | split)
  generalize (List.range 4).foldl (fun d' j => ((d'.moveRoutes (4 * die + j)).portFlush (4 * die + j))) (d.computeOff die) = d0 at h0 ⊢
  have h1 : Kept (((d0.flags die ⟨false, sleep, false⟩).resetBut die .carrier (if sleep then sleepReg else logReg)).sbInvalid die) := by
    repeat' (first | with_reducible assumption | intro _ | (simp only [id_eq]) | (simp only [Kept.set_hbm_narrow_stews]) | (simp only [Kept.set_tmb]) | (with_reducible refine Dev.computeOff_st (hκ := ?_) ..) | (with_reducible refine Dev.flags_st (hκ := ?_) ..) | (with_reducible refine Dev.hbInvalid_st (hκ := ?_) ..) | (with_reducible refine Dev.moveRoutes_st (hκ := ?_) ..) | (with_reducible refine Dev.pathFail_st (hκ := ?_) ..) | (with_reducible refine Dev.portFlush_st (hκ := ?_) ..) | (with_reducible refine Dev.put_fst (hκ := ?_) ..) | (with_reducible refine Dev.resetBut_st (hκ := ?_) ..) | (with_reducible refine Dev.sbInvalid_st (hκ := ?_) ..) | (with_reducible apply Kept.ite) | (with_reducible apply Kept.foldl) | (with_reducible apply Kept.foldl_fst) | (with_reducible apply Kept.foldl_snd) | split)
  generalize (((d0.flags die ⟨false, sleep, false⟩).resetBut die .carrier (if sleep then sleepReg else logReg)).sbInvalid die) = d1 at h1 ⊢
  have h2 : Kept (if sleep = true then d1 else
    { d1.hbInvalid die with hbm := d1.hbm.delIf (fun k => k / 4 == die), narrow := d1.narrow.filter (fun r => r.1 != die),
                            stews := d1.stews.del die }) := by
    split
    · exact h1
    · exact Kept.of (Dev.hbInvalid_st (hκ := h1) ..).out
  exact Kept.of h2.out

theorem Dev.carrierLost_st (d : Dev) (die : Nat)  (hκ : Kept d) : Kept (Dev.carrierLost d die) := by
  unfold Dev.carrierLost
  repeat' (first | with_reducible assumption | intro _ | (simp only [id_eq]) | (simp only [Kept.set_parts]) | (with_reducible refine Dev.carrierOff_st (hκ := ?_) ..) | (with_reducible refine Dev.knucklesLost_st (hκ := ?_) ..) | (with_reducible refine Dev.modPw_st (hκ := ?_) ..) | (with_reducible refine Dev.post_st (hκ := ?_) ..) | (with_reducible refine Dev.put_fst (hκ := ?_) ..) | (with_reducible apply Kept.ite) | (with_reducible apply Kept.foldl) | (with_reducible apply Kept.foldl_fst) | (with_reducible apply Kept.foldl_snd) | split)

theorem Dev.computeDieLost_st (d : Dev) (die : Nat) (n : Nat)  (hκ : Kept d) : Kept (Dev.computeDieLost d die n) := by
  unfold Dev.computeDieLost
  repeat' (first | with_reducible assumption | intro _ | (simp only [id_eq]) | (simp only [Kept.set_cores_cells_waits]) | (with_reducible refine Dev.put_fst (hκ := ?_) ..) | (with_reducible refine Dev.spadsInvalid_st (hκ := ?_) ..) | (with_reducible apply Kept.ite) | (with_reducible apply Kept.foldl) | (with_reducible apply Kept.foldl_fst) | (with_reducible apply Kept.foldl_snd) | split)

theorem Dev.pwEnter_st (d : Dev) (die : Nat) (cur : Nat) (tgt : Nat) (fails : Nat) (ok : List (List Bool))  (hκ : Kept d) : Kept (Dev.pwEnter d die cur tgt fails ok) := by
  unfold Dev.pwEnter
  repeat' (first | with_reducible assumption | intro _ | (simp only [id_eq]) | (with_reducible refine Dev.carrierOff_st (hκ := ?_) ..) | (with_reducible refine Dev.cellPark_st (hκ := ?_) ..) | (with_reducible refine Dev.computeOff_st (hκ := ?_) ..) | (with_reducible refine Dev.hardRepair_st (hκ := ?_) ..) | (with_reducible refine Dev.hbSelfref_st (hκ := ?_) ..) | (with_reducible refine Dev.knucklesLost_st (hκ := ?_) ..) | (with_reducible refine Dev.marginApply_st (hκ := ?_) ..) | (with_reducible refine Dev.put_fst (hκ := ?_) ..) | (with_reducible refine Dev.restoreDie_st (hκ := ?_) ..) | (with_reducible apply Kept.ite) | (with_reducible apply Kept.foldl) | (with_reducible apply Kept.foldl_fst) | (with_reducible apply Kept.foldl_snd) | split)

theorem Dev.pwStep_st (d : Dev) (die : Nat) (fails : Nat) (ok : List (List Bool))  (hκ : Kept d) : Kept (Dev.pwStep d die fails ok) := by
  unfold Dev.pwStep
  repeat' (first | with_reducible assumption | intro _ | (simp only [id_eq]) | (with_reducible refine Dev.put_fst (hκ := ?_) ..) | (with_reducible refine Dev.pwBegin_st (hκ := ?_) ..) | (with_reducible refine Dev.pwEnded_st (hκ := ?_) ..) | (with_reducible refine Dev.pwEnter_st (hκ := ?_) ..) | (with_reducible apply Kept.ite) | split)

theorem Dev.dieReset_st (d : Dev) (die : Nat)  (hκ : Kept d) : Kept (Dev.dieReset d die) := by
  unfold Dev.dieReset
  repeat' (first | with_reducible assumption | intro _ | (simp only [id_eq]) | (with_reducible refine Dev.carrierLost_st (hκ := ?_) ..) | (with_reducible refine Dev.pwExit_st (hκ := ?_) ..) | (with_reducible apply Kept.ite) | split)

theorem Dev.powerFall_st (d : Dev) (die : Nat)  (hκ : Kept d) : Kept (Dev.powerFall d die) := by
  unfold Dev.powerFall
  repeat' (first | with_reducible assumption | intro _ | (simp only [id_eq]) | (simp only [Kept.set_aon_lcnt_wards_pws_i3c_i3cOut_alert_tripN]) | (with_reducible refine Dev.carrierLost_st (hκ := ?_) ..) | (with_reducible refine Dev.resetBut_st (hκ := ?_) ..) | (with_reducible apply Kept.ite) | split)

theorem Dev.powerRise_st (d : Dev) (die : Nat) (low : Bool)  (hκ : Kept d) : Kept (Dev.powerRise d die low) := by
  unfold Dev.powerRise
  repeat' (first | with_reducible assumption | intro _ | (simp only [id_eq]) | (simp only [Kept.set_aon_wards]) | (with_reducible refine Dev.draw_st' (heq := by with_reducible assumption) (hκ := ?_) ..) | (with_reducible refine Dev.draw_st (hκ := ?_) ..) | (with_reducible refine Dev.powerFall_st (hκ := ?_) ..) | (with_reducible refine Dev.put_fst (hκ := ?_) ..) | (with_reducible refine Dev.pwExit_st (hκ := ?_) ..) | (with_reducible apply Kept.ite) | split)

theorem Dev.trip_st (d : Dev) (die : Nat)  (hκ : Kept d) : Kept (Dev.trip d die) := by
  unfold Dev.trip
  repeat' (first | with_reducible assumption | intro _ | (simp only [id_eq]) | (simp only [Kept.set_tripN]) | (with_reducible refine Dev.carrierLost_st (hκ := ?_) ..) | (with_reducible refine Dev.put_fst (hκ := ?_) ..) | (with_reducible apply Kept.ite) | split)

theorem Dev.railFault_st (d : Dev) (die : Nat) (rail : Nat)  (hκ : Kept d) : Kept (Dev.railFault d die rail) := by
  unfold Dev.railFault
  repeat' (first | with_reducible assumption | intro _ | (simp only [id_eq]) | (with_reducible refine Dev.carrierLost_st (hκ := ?_) ..) | (with_reducible refine Dev.computeDieLost_st (hκ := ?_) ..) | (with_reducible refine Dev.post_st (hκ := ?_) ..) | (with_reducible refine Dev.powerFall_st (hκ := ?_) ..) | (with_reducible apply Kept.ite) | split)

theorem Dev.refLoss_st (d : Dev) (die : Nat)  (hκ : Kept d) : Kept (Dev.refLoss d die) := by
  unfold Dev.refLoss
  repeat' (first | with_reducible assumption | intro _ | (simp only [id_eq]) | (with_reducible refine Dev.carrierLost_st (hκ := ?_) ..) | (with_reducible refine Dev.post_st (hκ := ?_) ..) | (with_reducible refine Dev.put_fst (hκ := ?_) ..) | (with_reducible refine Dev.raiseAlert_st (hκ := ?_) ..) | (with_reducible apply Kept.ite) | split)

theorem Dev.pllLoss_st (d : Dev) (die : Nat) (n : Nat)  (hκ : Kept d) : Kept (Dev.pllLoss d die n) := by
  unfold Dev.pllLoss
  repeat' (first | with_reducible assumption | intro _ | (simp only [id_eq]) | (simp only [Kept.set_stews]) | (with_reducible refine Dev.carrierLost_st (hκ := ?_) ..) | (with_reducible refine Dev.computeDieLost_st (hκ := ?_) ..) | (with_reducible refine Dev.hbHold_st (hκ := ?_) ..) | (with_reducible refine Dev.knkSignalLoss_st (hκ := ?_) ..) | (with_reducible refine Dev.laneDownNow_st (hκ := ?_) ..) | (with_reducible refine Dev.linkRec_st (hκ := ?_) ..) | (with_reducible refine Dev.memRec_st (hκ := ?_) ..) | (with_reducible refine Dev.portLaneLost_st (hκ := ?_) ..) | (with_reducible refine Dev.post_st (hκ := ?_) ..) | (with_reducible refine Dev.siteDown_st (hκ := ?_) ..) | (with_reducible apply Kept.ite) | split)

theorem Dev.stestDone_st (d : Dev) (mem : Nat) (die : Nat) (i : Nat) (pattern : Nat) (bad : List (Nat × Nat))  (hκ : Kept d) : Kept (Dev.stestDone d mem die i pattern bad) := by
  unfold Dev.stestDone
  repeat' (first | with_reducible assumption | intro _ | (simp only [id_eq]) | (simp only [Kept.set_stest]) | (with_reducible refine Dev.carrierLost_st (hκ := ?_) ..) | (with_reducible refine Dev.hbHold_st (hκ := ?_) ..) | (with_reducible refine Dev.memRec_st (hκ := ?_) ..) | (with_reducible refine Dev.post_st (hκ := ?_) ..) | (with_reducible refine Dev.put_fst (hκ := ?_) ..) | (with_reducible refine Dev.raiseAlert_st (hκ := ?_) ..) | (with_reducible apply Kept.ite) | (with_reducible apply Kept.foldl) | (with_reducible apply Kept.foldl_fst) | (with_reducible apply Kept.foldl_snd) | split)

theorem Dev.bistEnd_st (d : Dev) (die : Nat) (slices : Nat) (arrays : Bool)  (hκ : Kept d) : Kept (Dev.bistEnd d die slices arrays) := by
  unfold Dev.bistEnd
  repeat' (first | with_reducible assumption | intro _ | (simp only [id_eq]) | (with_reducible refine Dev.carrierLost_st (hκ := ?_) ..) | (with_reducible refine Dev.carrierOff_st (hκ := ?_) ..) | (with_reducible refine Dev.computeOn_st (hκ := ?_) ..) | (with_reducible refine Dev.put_fst (hκ := ?_) ..) | (with_reducible refine Dev.pwExit_st (hκ := ?_) ..) | (with_reducible refine Dev.raiseAlert_st (hκ := ?_) ..) | (with_reducible apply Kept.ite) | split)

theorem Dev.memStart_st (d : Dev) (die : Nat) (full : Bool)  (hκ : Kept d) : Kept (Dev.memStart d die full) := by
  unfold Dev.memStart
  repeat' (first | with_reducible assumption | intro _ | (simp only [id_eq]) | (simp only [Kept.set_memtest_narrow]) | (with_reducible refine Dev.hbInvalid_st (hκ := ?_) ..) | (with_reducible refine Dev.put_fst (hκ := ?_) ..) | (with_reducible refine Dev.setHbm_st (hκ := ?_) ..) | (with_reducible refine Dev.stretch_st (hκ := ?_) ..) | (with_reducible apply Kept.ite) | (with_reducible apply Kept.foldl) | (with_reducible apply Kept.foldl_fst) | (with_reducible apply Kept.foldl_snd) | split)

theorem Dev.trainDone_st (d : Dev) (die : Nat) (stack : Nat) (t : TrainRes)  (hκ : Kept d) : Kept (Dev.trainDone d die stack t) := by
  unfold Dev.trainDone
  repeat' (first | with_reducible assumption | intro _ | (simp only [id_eq]) | (with_reducible refine Dev.hbTrained_st (hκ := ?_) ..) | (with_reducible refine Dev.memStart_st (hκ := ?_) ..) | (with_reducible apply Kept.ite) | split)

theorem Dev.memEnd_st (d : Dev) (die : Nat)  (hκ : Kept d) : Kept (Dev.memEnd d die) := by
  unfold Dev.memEnd
  repeat' (first | with_reducible assumption | intro _ | (simp only [id_eq]) | (simp only [Kept.set_memtest]) | (with_reducible refine Dev.computeOn_st (hκ := ?_) ..) | (with_reducible refine Dev.hbZero_st (hκ := ?_) ..) | (with_reducible refine Dev.modPw_st (hκ := ?_) ..) | (with_reducible refine Dev.stretch_st (hκ := ?_) ..) | (with_reducible apply Kept.ite) | split)

theorem Dev.memPhase_st (d : Dev) (die : Nat) (rows : List (Nat × RowId))  (hκ : Kept d) : Kept (Dev.memPhase d die rows) := by
  unfold Dev.memPhase
  repeat' (first | with_reducible assumption | intro _ | (simp only [id_eq]) | (simp only [Kept.set_memtest]) | (with_reducible refine Dev.memEnd_st (hκ := ?_) ..) | (with_reducible refine Dev.memVerify_st (hκ := ?_) ..) | (with_reducible refine Dev.put_fst (hκ := ?_) ..) | (with_reducible refine Dev.stretch_st (hκ := ?_) ..) | (with_reducible apply Kept.ite) | split)

theorem Dev.chunkAt_st (d : Dev) (cn : Nat) (p : Nat) (b : Bytes)  (hκ : Kept d) : Kept (Dev.chunkAt d cn p b) := by
  unfold Dev.chunkAt
  repeat' (first | with_reducible assumption | intro _ | (simp only [id_eq]) | (with_reducible refine Dev.countSat_fst (hκ := ?_) ..) | (with_reducible refine Dev.draw_st' (heq := by with_reducible assumption) (hκ := ?_) ..) | (with_reducible refine Dev.draw_st (hκ := ?_) ..) | (with_reducible refine Dev.loaderDone_st (hκ := ?_) ..) | (with_reducible refine Dev.setCore_st (hκ := ?_) ..) | (with_reducible refine Dev.spStore_st (hκ := ?_) ..) | (with_reducible apply Kept.ite) | split)

theorem Dev.chunkReceive_st (d : Dev) (n : Nat) (noise : Bytes)  (hκ : Kept d) : Kept (Dev.chunkReceive d n noise) := by
  unfold Dev.chunkReceive
  repeat' (first | with_reducible assumption | intro _ | (simp only [id_eq]) | (simp only [Kept.set_chunks]) | (with_reducible refine Dev.chunkAt_st (hκ := ?_) ..) | (with_reducible refine Dev.dbDiscard_st (hκ := ?_) ..) | (with_reducible apply Kept.ite) | (with_reducible apply Kept.foldl) | (with_reducible apply Kept.foldl_fst) | (with_reducible apply Kept.foldl_snd) | split)

theorem Dev.helStep_st (d : Dev) (die : Nat) (c : HCmd) (at_ : Option Nat) (j : Job) (hc : ∀ d die q ph a, Kept d → Kept (c.run d die q ph a).d) (hκ : Kept d) : Kept (Dev.helStep d die c at_ j) := by
  unfold Dev.helStep
  repeat' (first | with_reducible assumption | intro _ | (simp only [id_eq]) | (with_reducible refine hc _ _ _ _ _ ?_) | (with_reducible refine Dev.dropJob_st (hκ := ?_) ..) | (with_reducible refine Dev.helEnd_st (hκ := ?_) ..) | (with_reducible refine Dev.helReply_st (hκ := ?_) ..) | (with_reducible refine Dev.leadSend_st' (heq := by with_reducible assumption) (hκ := ?_) ..) | (with_reducible refine Dev.leadSend_st (hκ := ?_) ..) | (with_reducible refine Dev.setJob_st (hκ := ?_) ..) | (with_reducible apply Kept.ite) | split)

theorem Dev.helBegin_st (d : Dev) (die : Nat) (c : HCmd) (q : HReq) (hc : ∀ d die q ph a, Kept d → Kept (c.run d die q ph a).d) (hκ : Kept d) : Kept (Dev.helBegin d die c q) := by
  unfold Dev.helBegin
  repeat' (first | with_reducible assumption | intro _ | (simp only [id_eq]) | (with_reducible refine hc _ _ _ _ _ ?_) | (with_reducible refine Dev.helReply_st (hκ := ?_) ..) | (with_reducible refine Dev.helStep_st (hc := ?_) (hκ := ?_) ..) | (with_reducible refine Dev.setJob_st (hκ := ?_) ..) | (with_reducible apply Kept.ite) | split)

theorem Dev.helRun_st (d : Dev) (die : Nat) (n : Nat) (again : Bool) (c : HCmd) (hc : ∀ d die q ph a, Kept d → Kept (c.run d die q ph a).d) (hκ : Kept d) : Kept (Dev.helRun d die n again c) := by
  unfold Dev.helRun
  repeat' (first | with_reducible assumption | intro _ | (simp only [id_eq]) | (with_reducible refine hc _ _ _ _ _ ?_) | (with_reducible refine Dev.helBegin_st (hc := ?_) (hκ := ?_) ..) | (with_reducible refine Dev.helReply_st (hκ := ?_) ..) | (with_reducible refine Dev.helStep_st (hc := ?_) (hκ := ?_) ..) | (with_reducible refine Dev.helTake_st' (heq := by with_reducible assumption) (hκ := ?_) ..) | (with_reducible refine Dev.helTake_st (hκ := ?_) ..) | (with_reducible apply Kept.ite) | split)

theorem Dev.sessRun_st (d : Dev) (die : Nat) (slot : Nat) (second : Bool)  (hκ : Kept d) : Kept (Dev.sessRun d die slot second) := by
  unfold Dev.sessRun
  repeat' (first | with_reducible assumption | intro _ | (simp only [id_eq]) | (with_reducible refine Dev.helRun_st (hc := ?_) (hκ := ?_) ..) | (with_reducible refine cmdSession1_st (hκ := ?_) ..) | (with_reducible refine cmdSession2_st (hκ := ?_) ..) | (with_reducible apply Kept.ite) | split)

theorem Dev.cellIdle_st (d : Dev) (cn : Nat)  (hκ : Kept d) : Kept (Dev.cellIdle d cn) := by
  unfold Dev.cellIdle
  repeat' (first | with_reducible assumption | intro _ | (simp only [id_eq]) | (with_reducible refine Dev.eachCore_st (hf := ?_) (hκ := ?_) ..) | (with_reducible refine Dev.setCore_st (hκ := ?_) ..) | (with_reducible apply Kept.ite) | split)

theorem Dev.partNamed_st (d : Dev) (q : HReq) (k : Part → HOut) (hk : ∀ a0, Kept (k a0).d) (hκ : Kept d) : Kept (Dev.partNamed d q k).d := by
  unfold Dev.partNamed
  repeat' (first | with_reducible assumption | intro _ | (simp only [id_eq]) | (with_reducible refine hk _) | (with_reducible refine Dev.hArg_st (hκ := ?_) ..) | (with_reducible refine Dev.hBad_st (hκ := ?_) ..) | (with_reducible apply Kept.ite) | split)

theorem cmdDestroy_st  (d : Dev) (die : Nat) (q : HReq) (ph a : Nat) (hκ : Kept d) : Kept ((cmdDestroy).run d die q ph a).d := by
  unfold cmdDestroy
  repeat' (first | with_reducible assumption | intro _ | (simp only [id_eq]) | (with_reducible refine Dev.destroyPart_st (hκ := ?_) ..) | (with_reducible refine Dev.forgetPart_st (hκ := ?_) ..) | (with_reducible refine Dev.hMore_st (hκ := ?_) ..) | (with_reducible refine Dev.hOk_st (hκ := ?_) ..) | (with_reducible refine Dev.partAbort_st (hκ := ?_) ..) | (with_reducible refine Dev.partNamed_st (hk := ?_) (hκ := ?_) ..) | (with_reducible apply Kept.ite) | split)

theorem Dev.resetPart_st (d : Dev) (p : Nat) (x : Part)  (hκ : Kept d) : Kept (Dev.resetPart d p x) := by
  unfold Dev.resetPart
  repeat' (first | with_reducible assumption | intro _ | (simp only [id_eq]) | (with_reducible refine Dev.cellReset_st (hκ := ?_) ..) | (with_reducible refine Dev.dspReset_st (hκ := ?_) ..) | (with_reducible refine Dev.engReset_st (hκ := ?_) ..) | (with_reducible refine Dev.modPart_st (hκ := ?_) ..) | (with_reducible refine Dev.unfReset_st (hκ := ?_) ..) | (with_reducible apply Kept.ite) | (with_reducible apply Kept.foldl) | (with_reducible apply Kept.foldl_fst) | (with_reducible apply Kept.foldl_snd) | split)

theorem cmdReset_st  (d : Dev) (die : Nat) (q : HReq) (ph a : Nat) (hκ : Kept d) : Kept ((cmdReset).run d die q ph a).d := by
  unfold cmdReset
  repeat' (first | with_reducible assumption | intro _ | (simp only [id_eq]) | (with_reducible refine Dev.cellUnpark_st (hκ := ?_) ..) | (with_reducible refine Dev.hBad_st (hκ := ?_) ..) | (with_reducible refine Dev.hMore_st (hκ := ?_) ..) | (with_reducible refine Dev.hOk_st (hκ := ?_) ..) | (with_reducible refine Dev.loaderEnter_st (hκ := ?_) ..) | (with_reducible refine Dev.modPart_st (hκ := ?_) ..) | (with_reducible refine Dev.partAbort_st (hκ := ?_) ..) | (with_reducible refine Dev.partNamed_st (hk := ?_) (hκ := ?_) ..) | (with_reducible refine Dev.partPark_st (hκ := ?_) ..) | (with_reducible refine Dev.resetPart_st (hκ := ?_) ..) | (with_reducible apply Kept.ite) | (with_reducible apply Kept.foldl) | (with_reducible apply Kept.foldl_fst) | (with_reducible apply Kept.foldl_snd) | split)

theorem Dev.srcRead_st (d : Dev) (g : Nat) (n : Nat)  (hκ : Kept d) : Kept (Dev.srcRead d g n).2 := by
  unfold Dev.srcRead
  repeat' (first | with_reducible assumption | intro _ | (simp only [id_eq]) | (with_reducible refine Dev.hbLoad_st' (heq := by with_reducible assumption) (hκ := ?_) ..) | (with_reducible refine Dev.hbLoad_st (hκ := ?_) ..) | (with_reducible refine Dev.sbLoad_st' (heq := by with_reducible assumption) (hκ := ?_) ..) | (with_reducible refine Dev.sbLoad_st (hκ := ?_) ..) | (with_reducible apply Kept.ite) | split)

theorem Dev.srcRead_st' {d : Dev} {g : Nat} {n : Nat} {y0} {rd : Dev} (heq : Dev.srcRead d g n = (y0, rd))  (hκ : Kept d) : Kept rd := by
  have k := Dev.srcRead_st d g n  (hκ := hκ); rw [heq] at k; exact k

theorem Dev.secSource_st (d : Dev) (die : Nat) (s : PSec) (j : Nat) (far : Bytes)  (hκ : Kept d) : Kept (Dev.secSource d die s j far).2 := by
  unfold Dev.secSource
  repeat' (first | with_reducible assumption | intro _ | (simp only [id_eq]) | (with_reducible refine Dev.srcRead_st' (heq := by with_reducible assumption) (hκ := ?_) ..) | (with_reducible refine Dev.srcRead_st (hκ := ?_) ..) | (with_reducible apply Kept.ite) | split)

theorem Dev.secSource_st' {d : Dev} {die : Nat} {s : PSec} {j : Nat} {far : Bytes} {y0} {rd : Dev} (heq : Dev.secSource d die s j far = (y0, rd))  (hκ : Kept d) : Kept rd := by
  have k := Dev.secSource_st d die s j far  (hκ := hκ); rw [heq] at k; exact k

theorem Dev.secLoad_st {d : Dev} {die : Nat} {s : PSec} {far : Bytes} {rd : Dev} (heq : Dev.secLoad d die s far = some rd)
    (hκ : Kept d) : Kept rd := by
  have hf : ∀ (f : Option Dev → Nat × Nat → Option Dev) (l : List (Nat × Nat)) (q : Option Dev),
      (∀ q x e, f q x = some e → (∀ e', q = some e' → Kept e') → Kept e) →
      (∀ e, q = some e → Kept e) → ∀ e, l.foldl f q = some e → Kept e := by
    intro f l
    induction l with
    | nil => intro q _ hq e he; exact hq e he
    | cons a l ih => intro q hf hq e he; exact ih _ hf (fun e' he' => hf _ _ _ he' hq) e he
  unfold Dev.secLoad at heq
  split at heq
  · split at heq
    · contradiction
    · have h0 := Dev.secSource_st' (by assumption) hκ
      split at heq
      · contradiction
      · refine hf _ _ _ ?_ (fun e he => by cases he; exact h0) _ heq
        intro q x e he hs
        cases q with
        | none => contradiction
        | some d' =>
          simp only at he
          split at he
          · contradiction
          · cases he
            exact Dev.spStore_st (hκ := Dev.secSource_st' (by assumption) (hs d' rfl)) ..
  · split at heq
    · contradiction
    · have h0 := Dev.secSource_st' (by assumption) hκ
      split at heq
      · contradiction
      · cases heq; exact Dev.sbStore_st (hκ := h0) ..
  all_goals
    cases heq
    repeat' (first | with_reducible assumption | intro _ | (simp only [id_eq]) | (with_reducible refine Dev.put_fst (hκ := ?_) ..) | (with_reducible refine Dev.sbStore_st (hκ := ?_) ..) | (with_reducible refine Dev.secSource_st' (heq := by with_reducible assumption) (hκ := ?_) ..) | (with_reducible refine Dev.secSource_st (hκ := ?_) ..) | (with_reducible refine Dev.spStore_st (hκ := ?_) ..) | (with_reducible apply Kept.ite) | (with_reducible apply Kept.foldl) | (with_reducible apply Kept.foldl_fst) | (with_reducible apply Kept.foldl_snd) | split)

theorem Dev.secRun_st (d : Dev) (die : Nat) (q : HReq) (far : List Bytes) (k n : Nat) (hκ : Kept d) : Kept (Dev.secRun d die q far k n).1 := by
  induction n generalizing d k with
  | zero => exact hκ
  | succ n ih =>
    unfold Dev.secRun
    split
    · exact hκ
    · exact ih _ _ (Dev.secLoad_st (by assumption) hκ)

theorem Dev.secRun_st' {d : Dev} {die : Nat} {q : HReq} {far : List Bytes} {k n : Nat} {y0} {rd : Dev} (heq : Dev.secRun d die q far k n = (rd, y0)) (hκ : Kept d) : Kept rd := by
  have k := Dev.secRun_st d die q far k n hκ; rw [heq] at k; exact k

theorem cmdLoad_st (far : List Bytes) (d : Dev) (die : Nat) (q : HReq) (ph a : Nat) (hκ : Kept d) : Kept ((cmdLoad far).run d die q ph a).d := by
  unfold cmdLoad
  repeat' (first | with_reducible assumption | intro _ | (simp only [id_eq]) | (with_reducible refine Dev.hDone_st (hκ := ?_) ..) | (with_reducible refine Dev.hMore_st (hκ := ?_) ..) | (with_reducible refine Dev.hOk_st (hκ := ?_) ..) | (with_reducible refine Dev.secRun_st' (heq := by with_reducible assumption) (hκ := ?_) ..) | (with_reducible refine Dev.secRun_st (hκ := ?_) ..) | (with_reducible apply Kept.ite) | split)

theorem Dev.scrubRead_st (d : Dev) (mem : Nat) (die : Nat) (unit : Nat) (again : List (Nat × Nat))  (hκ : Kept d) : Kept (Dev.scrubRead d mem die unit again) := by
  unfold Dev.scrubRead
  repeat' (first | with_reducible assumption | intro _ | (simp only [id_eq]) | (with_reducible refine Dev.hbLoad_st' (heq := by with_reducible assumption) (hκ := ?_) ..) | (with_reducible refine Dev.hbLoad_st (hκ := ?_) ..) | (with_reducible refine Dev.scrubSb_st (hκ := ?_) ..) | (with_reducible refine Dev.scrubSp_st (hκ := ?_) ..) | (with_reducible refine Dev.scrubStep_st (hκ := ?_) ..) | (with_reducible apply Kept.ite) | split)

theorem Dev.scrubWback_st (d : Dev) (n : Nat)  (hκ : Kept d) : Kept (Dev.scrubWback d n) := by
  unfold Dev.scrubWback
  repeat' (first | with_reducible assumption | intro _ | (simp only [id_eq]) | (simp only [Kept.set_wback]) | (with_reducible refine Dev.writeUnit_st (hκ := ?_) ..) | (with_reducible apply Kept.ite) | split)

theorem Dev.mergeAge_st (d : Dev) (die : Nat) (bank : Nat)  (hκ : Kept d) : Kept (Dev.mergeAge d die bank) := by
  unfold Dev.mergeAge
  repeat' (first | with_reducible assumption | intro _ | (simp only [id_eq]) | (with_reducible refine Dev.sbApply_st (hκ := ?_) ..) | (with_reducible apply Kept.ite) | split)

theorem Dev.mergeWrite_st (d : Dev) (die : Nat) (bank : Nat)  (hκ : Kept d) : Kept (Dev.mergeWrite d die bank) := by
  unfold Dev.mergeWrite
  repeat' (first | with_reducible assumption | intro _ | (simp only [id_eq]) | (with_reducible refine Dev.sbApply_st (hκ := ?_) ..) | (with_reducible apply Kept.ite) | split)

theorem Dev.zfillDone_st (d : Dev) (die : Nat)  (hκ : Kept d) : Kept (Dev.zfillDone d die) := by
  unfold Dev.zfillDone
  repeat' (first | with_reducible assumption | intro _ | (simp only [id_eq]) | (with_reducible refine Kept.of (Memory.setBytes_wf _ _ _ (Kept.out ?_))) | (with_reducible refine Kept.of (Memory.zero_wf _ _ _ (Kept.out ?_))) | (with_reducible refine Dev.put_fst (hκ := ?_) ..) | (with_reducible apply Kept.ite) | split)

theorem Dev.regWrite_st (d : Dev) (by_ : Nat) (die : Nat) (r : Reg) (i : Nat) (s : Nat) (v : Nat)  (hκ : Kept d) : Kept (Dev.regWrite d by_ die r i s v) := by
  unfold Dev.regWrite
  repeat' (first | with_reducible assumption | intro _ | (simp only [id_eq]) | (with_reducible refine Dev.auxCtlWrite_st (hκ := ?_) ..) | (with_reducible refine Dev.b0okClear_st (hκ := ?_) ..) | (with_reducible refine Dev.bankAdd_st (hκ := ?_) ..) | (with_reducible refine Dev.bankSet_st (hκ := ?_) ..) | (with_reducible refine Dev.bcastWrite_st (hκ := ?_) ..) | (with_reducible refine Dev.bootLock_st (hκ := ?_) ..) | (with_reducible refine Dev.cellCtlWrite_st (hκ := ?_) ..) | (with_reducible refine Dev.dspCtlWrite_st (hκ := ?_) ..) | (with_reducible refine Dev.dspOvWrite_fst (hκ := ?_) ..) | (with_reducible refine Dev.ectlWrite_st (hκ := ?_) ..) | (with_reducible refine Dev.epochWrite_st (hκ := ?_) ..) | (with_reducible refine Dev.ethCtlWrite_st (hκ := ?_) ..) | (with_reducible refine Dev.fenceWrite_fst (hκ := ?_) ..) | (with_reducible refine Dev.fltPop_st (hκ := ?_) ..) | (with_reducible refine Dev.fltPost_st (hκ := ?_) ..) | (with_reducible refine Dev.hbCtlWrite_st (hκ := ?_) ..) | (with_reducible refine Dev.hbTmaxClr_st (hκ := ?_) ..) | (with_reducible refine Dev.hubDbSet_st (hκ := ?_) ..) | (with_reducible refine Dev.hwWrite_fst (hκ := ?_) ..) | (with_reducible refine Dev.kmapWrite_st (hκ := ?_) ..) | (with_reducible refine Dev.knkCtlWrite_st (hκ := ?_) ..) | (with_reducible refine Dev.krgCmdWrite_st (hκ := ?_) ..) | (with_reducible refine Dev.laneCtlWrite_st (hκ := ?_) ..) | (with_reducible refine Dev.ldHubWrite_st (hκ := ?_) ..) | (with_reducible refine Dev.ldctlWrite_st (hκ := ?_) ..) | (with_reducible refine Dev.leadWrite_st (hκ := ?_) ..) | (with_reducible refine Dev.mapSet_st (hκ := ?_) ..) | (with_reducible refine Dev.measExtend_st (hκ := ?_) ..) | (with_reducible refine Dev.ncWrite_st (hκ := ?_) ..) | (with_reducible refine Dev.octlWrite_st (hκ := ?_) ..) | (with_reducible refine Dev.opctlWrite_st (hκ := ?_) ..) | (with_reducible refine Dev.pctlSet_st (hκ := ?_) ..) | (with_reducible refine Dev.pdctlWrite_st (hκ := ?_) ..) | (with_reducible refine Dev.plkCtlWrite_st (hκ := ?_) ..) | (with_reducible refine Dev.prunWrite_st (hκ := ?_) ..) | (with_reducible refine Dev.put_fst (hκ := ?_) ..) | (with_reducible refine Dev.qctlWrite_st (hκ := ?_) ..) | (with_reducible refine Dev.qpRegWrite_fst (hκ := ?_) ..) | (with_reducible refine Dev.rangeWrite_st (hκ := ?_) ..) | (with_reducible refine Dev.refctlWrite_st (hκ := ?_) ..) | (with_reducible refine Dev.regionWrite_fst (hκ := ?_) ..) | (with_reducible refine Dev.rkctlSet_st (hκ := ?_) ..) | (with_reducible refine Dev.routeSet_st (hκ := ?_) ..) | (with_reducible refine Dev.rrateSet_st (hκ := ?_) ..) | (with_reducible refine Dev.rsetWrite_st (hκ := ?_) ..) | (with_reducible refine Kept.raw ?_) | (with_reducible refine Dev.stestWrite_st (hκ := ?_) ..) | (with_reducible refine Dev.subWrite_st (hκ := ?_) ..) | (with_reducible refine Dev.swCtlWrite_st (hκ := ?_) ..) | (with_reducible refine Dev.tenCtlWrite_st (hκ := ?_) ..) | (with_reducible refine Dev.tjWrite_st (hκ := ?_) ..) | (with_reducible refine Dev.unfCtlWrite_st (hκ := ?_) ..) | (with_reducible refine Dev.writeGen_fst (hκ := ?_) ..) | (with_reducible refine Dev.zfillWrite_st (hκ := ?_) ..) | (with_reducible apply Kept.ite) | (with_reducible apply Kept.foldl) | (with_reducible apply Kept.foldl_fst) | (with_reducible apply Kept.foldl_snd) | split)

theorem Dev.stwAccess_st (d : Dev) (by_ : Nat) (die : Nat) (act : Dev → Dev) (hact : ∀ a0, Kept a0 → Kept (act a0)) (hκ : Kept d) : Kept (Dev.stwAccess d by_ die act) := by
  unfold Dev.stwAccess
  repeat' (first | with_reducible assumption | intro _ | (simp only [id_eq]) | (with_reducible refine hact _ ?_) | (with_reducible refine Dev.demote_st (hκ := ?_) ..) | (with_reducible refine Dev.leadAdmit_st' (heq := by with_reducible assumption) (hκ := ?_) ..) | (with_reducible refine Dev.leadAdmit_st (hκ := ?_) ..) | (with_reducible refine Dev.stwResult_st (hκ := ?_) ..) | (with_reducible apply Kept.ite) | split)

theorem Dev.stwRead_st (d : Dev) (by_ : Nat) (die : Nat) (off : Nat)  (hκ : Kept d) : Kept (Dev.stwRead d by_ die off) := by
  unfold Dev.stwRead
  repeat' (first | with_reducible assumption | intro _ | (simp only [id_eq]) | (simp only [Kept.set_capt]) | (with_reducible refine Dev.ctlMiss_st (hκ := ?_) ..) | (with_reducible refine Dev.put_fst (hκ := ?_) ..) | (with_reducible refine Dev.stwAccess_st (hact := ?_) (hκ := ?_) ..) | (with_reducible refine Dev.stwResult_st (hκ := ?_) ..) | (with_reducible apply Kept.ite) | split)

theorem Dev.stwWrite_st (d : Dev) (by_ : Nat) (die : Nat) (off : Nat) (v : Nat)  (hκ : Kept d) : Kept (Dev.stwWrite d by_ die off v) := by
  unfold Dev.stwWrite
  repeat' (first | with_reducible assumption | intro _ | (simp only [id_eq]) | (simp only [Kept.set_held]) | (with_reducible refine Dev.ctlMiss_st (hκ := ?_) ..) | (with_reducible refine Dev.put_fst (hκ := ?_) ..) | (with_reducible refine Dev.regWrite_st (hκ := ?_) ..) | (with_reducible refine Dev.stwAccess_st (hact := ?_) (hκ := ?_) ..) | (with_reducible apply Kept.ite) | split)

theorem Dev.pairWrite_st (d : Dev) (by_ : Nat) (die : Nat) (off : Nat) (v : Nat) (upper : Bool)  (hκ : Kept d) : Kept (Dev.pairWrite d by_ die off v upper) := by
  unfold Dev.pairWrite
  repeat' (first | with_reducible assumption | intro _ | (simp only [id_eq]) | (with_reducible refine Dev.stwWrite_st (hκ := ?_) ..) | (with_reducible apply Kept.ite) | split)

theorem Dev.oneWrite_st (d : Dev) (by_ : Nat) (die : Nat) (off : Nat) (v : Nat)  (hκ : Kept d) : Kept (Dev.oneWrite d by_ die off v) := by
  unfold Dev.oneWrite
  repeat' (first | with_reducible assumption | intro _ | (simp only [id_eq]) | (with_reducible refine Dev.stwWrite_st (hκ := ?_) ..) | (with_reducible apply Kept.ite) | split)

theorem Dev.missAccess_st (d : Dev) (by_ : Nat) (die : Nat) (off : Nat) (write : Bool)  (hκ : Kept d) : Kept (Dev.missAccess d by_ die off write) := by
  unfold Dev.missAccess
  repeat' (first | with_reducible assumption | intro _ | (simp only [id_eq]) | (with_reducible refine Dev.stwRead_st (hκ := ?_) ..) | (with_reducible refine Dev.stwWrite_st (hκ := ?_) ..) | (with_reducible apply Kept.ite) | split)

theorem Dev.leadMessage_st (d : Dev) (by_ : Nat) (die : Nat) (off : Nat) (v : Nat) (write : Bool)  (hκ : Kept d) : Kept (Dev.leadMessage d by_ die off v write) := by
  unfold Dev.leadMessage
  repeat' (first | with_reducible assumption | intro _ | (simp only [id_eq]) | (with_reducible refine Dev.stwRead_st (hκ := ?_) ..) | (with_reducible refine Dev.stwWrite_st (hκ := ?_) ..) | (with_reducible apply Kept.ite) | split)

theorem Dev.ioStore_st (d : Dev) (by_ : Nat) (g : Nat) (bs : Bytes)  (hκ : Kept d) : Kept (Dev.ioStore d by_ g bs) := by
  unfold Dev.ioStore
  repeat' (first | with_reducible assumption | intro _ | (simp only [id_eq]) | (with_reducible refine Dev.hbStore_st' (heq := by with_reducible assumption) (hκ := ?_) ..) | (with_reducible refine Dev.hbStore_st (hκ := ?_) ..) | (with_reducible refine Dev.sbStore_st (hκ := ?_) ..) | (with_reducible refine Dev.stwStore_st (hκ := ?_) ..) | (with_reducible refine Dev.tumbStore_st (hκ := ?_) ..) | (with_reducible apply Kept.ite) | split)

theorem Dev.ioLoad_st (d : Dev) (by_ : Nat) (g : Nat) (n : Nat) (ups : List (Nat × Nat)) (again : List (Nat × Nat)) (answer : Bytes)  (hκ : Kept d) : Kept (Dev.ioLoad d by_ g n ups again answer) := by
  unfold Dev.ioLoad
  repeat' (first | with_reducible assumption | intro _ | (simp only [id_eq]) | (with_reducible refine Dev.hbLoad_st' (heq := by with_reducible assumption) (hκ := ?_) ..) | (with_reducible refine Dev.hbLoad_st (hκ := ?_) ..) | (with_reducible refine Dev.sbLoad_st' (heq := by with_reducible assumption) (hκ := ?_) ..) | (with_reducible refine Dev.sbLoad_st (hκ := ?_) ..) | (with_reducible refine Dev.stwResult_st (hκ := ?_) ..) | (with_reducible refine Dev.upset_st (hκ := ?_) ..) | (with_reducible apply Kept.ite) | split)

theorem Dev.stwIoAccess_st (d : Dev) (by_ : Nat) (g : Nat) (n : Nat) (write : Bool) (bs : Bytes) (answer : Bytes) (ups : List (Nat × Nat)) (again : List (Nat × Nat))  (hκ : Kept d) : Kept (Dev.stwIoAccess d by_ g n write bs answer ups again) := by
  unfold Dev.stwIoAccess
  repeat' (first | with_reducible assumption | intro _ | (simp only [id_eq]) | (with_reducible refine Dev.ioLoad_st (hκ := ?_) ..) | (with_reducible refine Dev.ioStore_st (hκ := ?_) ..) | (with_reducible refine Dev.stwResult_st (hκ := ?_) ..) | (with_reducible apply Kept.ite) | split)

theorem Dev.routeRun_st (d : Dev) (die : Nat) (slot : Nat) (knuckles : Bool)  (hκ : Kept d) : Kept (Dev.routeRun d die slot knuckles) := by
  unfold Dev.routeRun
  repeat' (first | with_reducible assumption | intro _ | (simp only [id_eq]) | (with_reducible refine Dev.helRun_st (hc := ?_) (hκ := ?_) ..) | (with_reducible refine cmdKnuckles_st (hκ := ?_) ..) | (with_reducible refine cmdRoutes_st (hκ := ?_) ..) | (with_reducible apply Kept.ite) | split)

theorem Dev.coreRetested_st (d : Dev) (die : Nat) (n : Nat) (c : Nat) (p : Nat) (pass : Bool)  (hκ : Kept d) : Kept (Dev.coreRetested d die n c p pass) := by
  unfold Dev.coreRetested
  repeat' (first | with_reducible assumption | intro _ | (simp only [id_eq]) | (with_reducible refine Dev.hubDbSet_st (hκ := ?_) ..) | (with_reducible refine Dev.pctlSet_st (hκ := ?_) ..) | (with_reducible refine Dev.spInvalid_st (hκ := ?_) ..) | (with_reducible apply Kept.ite) | split)

theorem cmdRetest_st (pass : Bool) (d : Dev) (die : Nat) (q : HReq) (ph a : Nat) (hκ : Kept d) : Kept ((cmdRetest pass).run d die q ph a).d := by
  unfold cmdRetest
  repeat' (first | with_reducible assumption | intro _ | (simp only [id_eq]) | (with_reducible refine Dev.coreRetested_st (hκ := ?_) ..) | (with_reducible refine Dev.hArg_st (hκ := ?_) ..) | (with_reducible refine Dev.hBad_st (hκ := ?_) ..) | (with_reducible refine Dev.hDone_st (hκ := ?_) ..) | (with_reducible refine Dev.hMore_st (hκ := ?_) ..) | (with_reducible apply Kept.ite) | split)

theorem cmdSpare_st  (d : Dev) (die : Nat) (q : HReq) (ph a : Nat) (hκ : Kept d) : Kept ((cmdSpare).run d die q ph a).d := by
  unfold cmdSpare
  repeat' (first | with_reducible assumption | intro _ | (simp only [id_eq]) | (with_reducible refine Dev.cellPark_st (hκ := ?_) ..) | (with_reducible refine Dev.cellUnpark_st (hκ := ?_) ..) | (with_reducible refine Dev.hArg_st (hκ := ?_) ..) | (with_reducible refine Dev.hBad_st (hκ := ?_) ..) | (with_reducible refine Dev.hMore_st (hκ := ?_) ..) | (with_reducible refine Dev.hOk_st (hκ := ?_) ..) | (with_reducible refine Dev.hubDbSet_st (hκ := ?_) ..) | (with_reducible refine Dev.mapSet_st (hκ := ?_) ..) | (with_reducible refine Dev.pctlSet_st (hκ := ?_) ..) | (with_reducible refine Dev.setCore_st (hκ := ?_) ..) | (with_reducible apply Kept.ite) | split)

theorem cmdMemtest_st  (d : Dev) (die : Nat) (q : HReq) (ph a : Nat) (hκ : Kept d) : Kept ((cmdMemtest).run d die q ph a).d := by
  unfold cmdMemtest
  repeat' (first | with_reducible assumption | intro _ | (simp only [id_eq]) | (with_reducible refine Dev.hArg_st (hκ := ?_) ..) | (with_reducible refine Dev.hBad_st (hκ := ?_) ..) | (with_reducible refine Dev.hDone_st (hκ := ?_) ..) | (with_reducible refine Dev.hMore_st (hκ := ?_) ..) | (with_reducible refine Dev.memStart_st (hκ := ?_) ..) | (with_reducible apply Kept.ite) | (with_reducible apply Kept.foldl) | (with_reducible apply Kept.foldl_fst) | (with_reducible apply Kept.foldl_snd) | split)

theorem heldCmd_st (op : Nat) (ovr : Bool) (c : HCmd) (hc : heldCmd op ovr = some c)
    (d : Dev) (die : Nat) (q : HReq) (ph a : Nat) (hκ : Kept d) : Kept (c.run d die q ph a).d := by
  unfold heldCmd at hc
  split at hc
  case h_1 => cases hc; exact (Agree.kept (cmdPower_kp (hμ := Within.refl _) (hκ := Agree.refl ..) ..) (by decide) hκ)
  case h_2 => cases hc; exact (Agree.kept (cmdDestroy_kp (hμ := Within.refl _) (hκ := Agree.refl ..) ..) (by decide) hκ)
  case h_3 => cases hc; exact cmdReset_st (hκ := hκ) ..
  case h_4 => cases hc; exact (Agree.kept (cmdLinkRetrain_kp (hμ := Within.refl _) (hκ := Agree.refl ..) ..) (by decide) hκ)
  case h_5 => cases hc; exact cmdMemtest_st (hκ := hκ) ..
  all_goals contradiction

theorem Dev.deferredRun_st (d : Dev) (die n : Nat) (ovr : Bool) (hκ : Kept d) : Kept (Dev.deferredRun d die n ovr) := by
  unfold Dev.deferredRun
  split
  · exact hκ
  · split
    · rename_i hc
      split
      · exact hκ
      · refine Dev.helStep_st _ _ _ _ _ (fun e die q ph a he => heldCmd_st _ _ _ hc e die q ph a he) ?_
        exact (Agree.kept (Dev.setJob_kp (hμ := Within.refl _) (hκ := Agree.refl ..) ..) (by decide) hκ)
    · exact hκ

/-! Commands -/

/-- A command that acts through `f` answers a next state, leaves the queue, and changes what `f` changes. -/
theorem State.on_kp {μ : Nat} (f : Dev → Dev) (s t : State) (hf : ∀ d, Agree μ d (f d)) (e : s.on f = .next t) :
    t.pending = s.pending ∧ Agree μ s.dev t.dev := by
  unfold State.on at e
  cases e
  exact ⟨rfl, hf _⟩

theorem State.on_st (f : Dev → Dev) (s t : State) (hf : ∀ d, Kept d → Kept (f d)) (h : Kept s.dev) (e : s.on f = .next t) :
    Kept t.dev := by
  unfold State.on at e
  cases e
  exact hf _ h

theorem State.onDie_kp {μ : Nat} (die : Nat) (f : Dev → Dev) (s t : State) (hf : ∀ d, Agree μ d (f d)) (e : s.onDie die f = .next t) :
    t.pending = s.pending ∧ Agree μ s.dev t.dev := by
  exact State.on_kp _ s t (fun d => Agree.ite (hf d) (Agree.refl _ _)) e

theorem State.onDie_st (die : Nat) (f : Dev → Dev) (s t : State) (hf : ∀ d, Kept d → Kept (f d)) (h : Kept s.dev) (e : s.onDie die f = .next t) :
    Kept t.dev := by
  exact State.on_st _ s t (fun d hd => Kept.ite (hf d hd) hd) h e

theorem State.onAon_kp {μ : Nat} (die : Nat) (f : Dev → Dev) (s t : State) (hf : ∀ d, Agree μ d (f d)) (e : s.onAon die f = .next t) :
    t.pending = s.pending ∧ Agree μ s.dev t.dev := by
  exact State.on_kp _ s t (fun d => Agree.ite (hf d) (Agree.refl _ _)) e

theorem State.onAon_st (die : Nat) (f : Dev → Dev) (s t : State) (hf : ∀ d, Kept d → Kept (f d)) (h : Kept s.dev) (e : s.onAon die f = .next t) :
    Kept t.dev := by
  exact State.on_st _ s t (fun d hd => Kept.ite (hf d hd) hd) h e

theorem State.onKept_kp {μ : Nat} (die : Nat) (f : Dev → Dev) (s t : State) (hf : ∀ d, Agree μ d (f d)) (e : s.onKept die f = .next t) :
    t.pending = s.pending ∧ Agree μ s.dev t.dev := by
  exact State.on_kp _ s t (fun d => Agree.ite (hf d) (Agree.refl _ _)) e

theorem State.onKept_st (die : Nat) (f : Dev → Dev) (s t : State) (hf : ∀ d, Kept d → Kept (f d)) (h : Kept s.dev) (e : s.onKept die f = .next t) :
    Kept t.dev := by
  exact State.on_st _ s t (fun d hd => Kept.ite (hf d hd) hd) h e

theorem State.onCarrier_kp {μ : Nat} (die : Nat) (f : Dev → Dev) (s t : State) (hf : ∀ d, Agree μ d (f d)) (e : s.onCarrier die f = .next t) :
    t.pending = s.pending ∧ Agree μ s.dev t.dev := by
  exact State.on_kp _ s t (fun d => Agree.ite (hf d) (Agree.refl _ _)) e

theorem State.onCarrier_st (die : Nat) (f : Dev → Dev) (s t : State) (hf : ∀ d, Kept d → Kept (f d)) (h : Kept s.dev) (e : s.onCarrier die f = .next t) :
    Kept t.dev := by
  exact State.on_st _ s t (fun d hd => Kept.ite (hf d hd) hd) h e

theorem State.onCompute_kp {μ : Nat} (die : Nat) (f : Dev → Dev) (s t : State) (hf : ∀ d, Agree μ d (f d)) (e : s.onCompute die f = .next t) :
    t.pending = s.pending ∧ Agree μ s.dev t.dev := by
  exact State.on_kp _ s t (fun d => Agree.ite (hf d) (Agree.refl _ _)) e

theorem State.onCompute_st (die : Nat) (f : Dev → Dev) (s t : State) (hf : ∀ d, Kept d → Kept (f d)) (h : Kept s.dev) (e : s.onCompute die f = .next t) :
    Kept t.dev := by
  exact State.on_st _ s t (fun d hd => Kept.ite (hf d hd) hd) h e

theorem State.onCell_kp {μ : Nat} (cell : Nat) (f : Dev → Dev) (s t : State) (hf : ∀ d, Agree μ d (f d)) (e : s.onCell cell f = .next t) :
    t.pending = s.pending ∧ Agree μ s.dev t.dev := by
  exact State.onCompute_kp _ _ s t hf e

theorem State.onCell_st (cell : Nat) (f : Dev → Dev) (s t : State) (hf : ∀ d, Kept d → Kept (f d)) (h : Kept s.dev) (e : s.onCell cell f = .next t) :
    Kept t.dev := by
  exact State.onCompute_st _ _ s t hf h e

theorem State.onCore_kp {μ : Nat} (cell core : Nat) (f : Dev → Dev) (s t : State) (hf : ∀ d, Agree μ d (f d)) (e : s.onCore cell core f = .next t) :
    t.pending = s.pending ∧ Agree μ s.dev t.dev := by
  exact State.onCell_kp _ _ s t (fun d => Agree.ite (hf d) (Agree.refl _ _)) e

theorem State.onCore_st (cell core : Nat) (f : Dev → Dev) (s t : State) (hf : ∀ d, Kept d → Kept (f d)) (h : Kept s.dev) (e : s.onCore cell core f = .next t) :
    Kept t.dev := by
  exact State.onCell_st _ _ s t (fun d hd => Kept.ite (hf d hd) hd) h e

theorem State.onPort_kp {μ : Nat} (port : Nat) (f : Dev → Dev) (s t : State) (hf : ∀ d, Agree μ d (f d)) (e : s.onPort port f = .next t) :
    t.pending = s.pending ∧ Agree μ s.dev t.dev := by
  exact State.onCarrier_kp _ _ s t (fun d => Agree.ite (hf d) (Agree.refl _ _)) e

theorem State.onPort_st (port : Nat) (f : Dev → Dev) (s t : State) (hf : ∀ d, Kept d → Kept (f d)) (h : Kept s.dev) (e : s.onPort port f = .next t) :
    Kept t.dev := by
  exact State.onCarrier_st _ _ s t (fun d hd => Kept.ite (hf d hd) hd) h e

theorem State.onEth_kp {μ : Nat} (die port : Nat) (f : Dev → Dev) (s t : State) (hf : ∀ d, Agree μ d (f d)) (e : s.onEth die port f = .next t) :
    t.pending = s.pending ∧ Agree μ s.dev t.dev := by
  exact State.onCarrier_kp _ _ s t (fun d => Agree.ite (hf d) (Agree.refl _ _)) e

theorem State.onEth_st (die port : Nat) (f : Dev → Dev) (s t : State) (hf : ∀ d, Kept d → Kept (f d)) (h : Kept s.dev) (e : s.onEth die port f = .next t) :
    Kept t.dev := by
  exact State.onCarrier_st _ _ s t (fun d hd => Kept.ite (hf d hd) hd) h e

theorem State.onKnuckle_kp {μ : Nat} (k : Nat) (f : Dev → Dev) (s t : State) (hf : ∀ d, Agree μ d (f d)) (e : s.onKnuckle k f = .next t) :
    t.pending = s.pending ∧ Agree μ s.dev t.dev := by
  exact State.on_kp _ s t (fun d => Agree.ite (hf d) (Agree.refl _ _)) e

theorem State.onKnuckle_st (k : Nat) (f : Dev → Dev) (s t : State) (hf : ∀ d, Kept d → Kept (f d)) (h : Kept s.dev) (e : s.onKnuckle k f = .next t) :
    Kept t.dev := by
  exact State.on_st _ s t (fun d hd => Kept.ite (hf d hd) hd) h e

theorem State.onKnuckleEnd_kp {μ : Nat} (die inst : Nat) (f : Dev → Dev) (s t : State) (hf : ∀ d, Agree μ d (f d)) (e : s.onKnuckleEnd die inst f = .next t) :
    t.pending = s.pending ∧ Agree μ s.dev t.dev := by
  exact State.onCarrier_kp _ _ s t (fun d => Agree.ite (hf d) (Agree.refl _ _)) e

theorem State.onKnuckleEnd_st (die inst : Nat) (f : Dev → Dev) (s t : State) (hf : ∀ d, Kept d → Kept (f d)) (h : Kept s.dev) (e : s.onKnuckleEnd die inst f = .next t) :
    Kept t.dev := by
  exact State.onCarrier_st _ _ s t (fun d hd => Kept.ite (hf d hd) hd) h e

theorem State.onLane_kp {μ : Nat} (die lane : Nat) (f : Dev → Dev) (s t : State) (hμ : Within 0x38010003e004000245000000000000000000000000000e06c64008000000001000004000000000000000000000000101f20000000 μ) (hf : ∀ d, Agree μ d (f d)) (e : s.onLane die lane f = .next t) :
    t.pending = s.pending ∧ Agree μ s.dev t.dev := by
  refine State.onCarrier_kp _ _ s t (fun d => ?_) e
  split
  · exact Agree.refl _ _
  · refine Dev.laneSlept_kp (hμ := hμ.up (by decide)) (hκ := Dev.laneSettle_kp (hμ := hμ.up (by decide)) (hκ := ?_) ..) ..
    exact Agree.ite (Dev.laneIdv_kp (hμ := hμ.up (by decide)) (hκ := hf d) ..) (hf d)

theorem State.onLane_st (die lane : Nat) (f : Dev → Dev) (s t : State) (hf : ∀ d, Kept d → Kept (f d)) (h : Kept s.dev) (e : s.onLane die lane f = .next t) :
    Kept t.dev := by
  refine State.onCarrier_st _ _ s t (fun d hd => ?_) h e
  split
  · exact hd
  · have h1 := hf d hd
    refine Agree.kept (Dev.laneSlept_kp (hμ := Within.refl _) (hκ := Agree.refl ..) ..) (by decide)
      (Agree.kept (Dev.laneSettle_kp (hμ := Within.refl _) (hκ := Agree.refl ..) ..) (by decide) ?_)
    exact Kept.ite (Agree.kept (Dev.laneIdv_kp (hμ := Within.refl _) (hκ := Agree.refl ..) ..) (by decide) h1) h1

theorem Dev.ctxFollow_st (d : Dev) (die u x : Nat) (d1 : Dev) (h : Kept d1) : Kept (d.ctxFollow die u x d1) := by
  unfold Dev.ctxFollow
  repeat' (first | with_reducible assumption | (with_reducible refine Dev.engFollow_st (hκ := ?_) ..) | split)

theorem hwReg_bit {μ : Nat} (j : Nat) (h : Within 0x1f000000000000000000000000000000000000000 μ) : μ.testBit (hwReg j).ctorIdx = true := by
  refine h.bit ?_
  rcases j with _ | _ | _ | _ | _ | j
  all_goals first | decide | (show Nat.testBit _ (Reg.ctorIdx .KRG_HWLEN) = true; decide)

theorem execCellPark_kp {cell : Nat} {s t : State} (h : execCellPark cell s = .next t) : t.pending = s.pending ∧ Agree 0x80000002184000245000000000000000000000000000000000000000000008000000000c00000000000000000000000000000042 s.dev t.dev := by
  refine State.onCell_kp _ _ s t (fun d => ?_) h
  repeat' (first | (with_reducible exact Agree.refl _ _) | with_reducible assumption | intro _ | (with_reducible refine Dev.cellPark_kp (hμ := (Within.refl _).up (by decide)) (hκ := ?_) ..) | (with_reducible apply Agree.ite) | (simp only [id_eq]) | split)

theorem execCellPark_st {cell : Nat} {s t : State} (hs : Kept s.dev) (h : execCellPark cell s = .next t) : Kept t.dev := by
  refine State.onCell_st _ _ s t (fun d hκ => ?_) hs h
  repeat' (first | with_reducible assumption | intro _ | (with_reducible refine Dev.cellPark_st (hκ := ?_) ..) | (with_reducible apply Kept.ite) | (simp only [id_eq]) | split)

theorem execCellUnpark_kp {cell : Nat} {s t : State} (h : execCellUnpark cell s = .next t) : t.pending = s.pending ∧ Agree 0x180000000000000000000000000000000000000000000000000000000000000000000000000000000000000000000002 s.dev t.dev := by
  refine State.onCell_kp _ _ s t (fun d => ?_) h
  repeat' (first | (with_reducible exact Agree.refl _ _) | with_reducible assumption | intro _ | (with_reducible refine Dev.cellUnpark_kp (hμ := (Within.refl _).up (by decide)) (hκ := ?_) ..) | (with_reducible apply Agree.ite) | (simp only [id_eq]) | split)

theorem execCellUnpark_st {cell : Nat} {s t : State} (hs : Kept s.dev) (h : execCellUnpark cell s = .next t) : Kept t.dev := by
  refine State.onCell_st _ _ s t (fun d hκ => ?_) hs h
  repeat' (first | with_reducible assumption | intro _ | (with_reducible refine Dev.cellUnpark_st (hκ := ?_) ..) | (with_reducible apply Kept.ite) | (simp only [id_eq]) | split)

theorem execCellReset_kp {cell : Nat} {s t : State} (h : execCellReset cell s = .next t) : t.pending = s.pending ∧ Agree 0x800000020b8000245000000000000000000000000000000000000000000008000000000000000000000000000000000000000042 s.dev t.dev := by
  refine State.onCell_kp _ _ s t (fun d => ?_) h
  repeat' (first | (with_reducible exact Agree.refl _ _) | with_reducible assumption | intro _ | (with_reducible refine Dev.cellReset_kp (hμ := (Within.refl _).up (by decide)) (hκ := ?_) ..) | (with_reducible apply Agree.ite) | (simp only [id_eq]) | split)

theorem execCellReset_st {cell : Nat} {s t : State} (hs : Kept s.dev) (h : execCellReset cell s = .next t) : Kept t.dev := by
  refine State.onCell_st _ _ s t (fun d hκ => ?_) hs h
  repeat' (first | with_reducible assumption | intro _ | (with_reducible refine Dev.cellReset_st (hκ := ?_) ..) | (with_reducible apply Kept.ite) | (simp only [id_eq]) | split)

theorem execCellResetComplete_kp {cell : Nat} {s t : State} (h : execCellResetComplete cell s = .next t) : t.pending = s.pending ∧ Agree 0x80000002184000245000000000000000000000000000000000000000000008000000000c00000000000000000000000000000042 s.dev t.dev := by
  refine State.onCell_kp _ _ s t (fun d => ?_) h
  repeat' (first | (with_reducible exact Agree.refl _ _) | with_reducible assumption | intro _ | (with_reducible refine Dev.cellResetDone_kp (hμ := (Within.refl _).up (by decide)) (hκ := ?_) ..) | (with_reducible apply Agree.ite) | (simp only [id_eq]) | split)

theorem execCellResetComplete_st {cell : Nat} {s t : State} (hs : Kept s.dev) (h : execCellResetComplete cell s = .next t) : Kept t.dev := by
  refine State.onCell_st _ _ s t (fun d hκ => ?_) hs h
  repeat' (first | with_reducible assumption | intro _ | (with_reducible refine Dev.cellResetDone_st (hκ := ?_) ..) | (with_reducible apply Kept.ite) | (simp only [id_eq]) | split)

theorem execMapDataWrite_kp {die : Nat} {cdie : Nat} {value : Nat} {s t : State} (h : execMapDataWrite die cdie value s = .next t) : t.pending = s.pending ∧ Agree 0xb8000000000000000000000000000000000000000000000000000000000000000000000000000000000000000000088 s.dev t.dev := by
  refine State.onCompute_kp _ _ s t (fun d => ?_) h
  repeat' (first | (with_reducible exact Agree.refl _ _) | with_reducible assumption | intro _ | (with_reducible refine Dev.mapWrite_kp (hμ := (Within.refl _).up (by decide)) (hκ := ?_) ..) | (with_reducible apply Agree.ite) | (simp only [id_eq]) | split)

theorem execMapDataWrite_st {die : Nat} {cdie : Nat} {value : Nat} {s t : State} (hs : Kept s.dev) (h : execMapDataWrite die cdie value s = .next t) : Kept t.dev := by
  refine State.onCompute_st _ _ s t (fun d hκ => ?_) hs h
  repeat' (first | with_reducible assumption | intro _ | (with_reducible refine Dev.mapWrite_st (hκ := ?_) ..) | (with_reducible apply Kept.ite) | (simp only [id_eq]) | split)

theorem execDeadboltSet_kp {die : Nat} {cdie : Nat} {s t : State} (h : execDeadboltSet die cdie s = .next t) : t.pending = s.pending ∧ Agree 0xe0 s.dev t.dev := by
  refine State.onCompute_kp _ _ s t (fun d => ?_) h
  repeat' (first | (with_reducible exact Agree.refl _ _) | with_reducible assumption | intro _ | (with_reducible refine Dev.pctlBit_kp (hμ := (Within.refl _).up (by decide)) (hκ := ?_) ..) | (with_reducible apply Agree.ite) | (simp only [id_eq]) | split)

theorem execDeadboltSet_st {die : Nat} {cdie : Nat} {s t : State} (hs : Kept s.dev) (h : execDeadboltSet die cdie s = .next t) : Kept t.dev := by
  refine State.onCompute_st _ _ s t (fun d hκ => ?_) hs h
  repeat' (first | with_reducible assumption | intro _ | (with_reducible refine Dev.pctlBit_st (hκ := ?_) ..) | (with_reducible apply Kept.ite) | (simp only [id_eq]) | split)

theorem execDbClear_kp {die : Nat} {cdie : Nat} {s t : State} (h : execDbClear die cdie s = .next t) : t.pending = s.pending ∧ Agree 0xe0 s.dev t.dev := by
  refine State.onCompute_kp _ _ s t (fun d => ?_) h
  repeat' (first | (with_reducible exact Agree.refl _ _) | with_reducible assumption | intro _ | (with_reducible refine Dev.pctlBit_kp (hμ := (Within.refl _).up (by decide)) (hκ := ?_) ..) | (with_reducible apply Agree.ite) | (simp only [id_eq]) | split)

theorem execDbClear_st {die : Nat} {cdie : Nat} {s t : State} (hs : Kept s.dev) (h : execDbClear die cdie s = .next t) : Kept t.dev := by
  refine State.onCompute_st _ _ s t (fun d hκ => ?_) hs h
  repeat' (first | with_reducible assumption | intro _ | (with_reducible refine Dev.pctlBit_st (hκ := ?_) ..) | (with_reducible apply Kept.ite) | (simp only [id_eq]) | split)

theorem execCellTestModeWrite_kp {cell : Nat} {test : Bool} {s t : State} (h : execCellTestModeWrite cell test s = .next t) : t.pending = s.pending ∧ Agree 0x80000000040000000000000000000000000000000000000000000000000000000000000000000000000000000000080 s.dev t.dev := by
  refine State.onCell_kp _ _ s t (fun d => ?_) h
  repeat' (first | (with_reducible exact Agree.refl _ _) | with_reducible assumption | intro _ | (with_reducible refine Dev.setTest_kp (hμ := (Within.refl _).up (by decide)) (hκ := ?_) ..) | (with_reducible apply Agree.ite) | (simp only [id_eq]) | split)

theorem execCellTestModeWrite_st {cell : Nat} {test : Bool} {s t : State} (hs : Kept s.dev) (h : execCellTestModeWrite cell test s = .next t) : Kept t.dev := by
  refine State.onCell_st _ _ s t (fun d hκ => ?_) hs h
  repeat' (first | with_reducible assumption | intro _ | (with_reducible refine Dev.setTest_st (hκ := ?_) ..) | (with_reducible apply Kept.ite) | (simp only [id_eq]) | split)

theorem execLoaderEnter_kp {die : Nat} {cdie : Nat} {mask : Nat} {s t : State} (h : execLoaderEnter die cdie mask s = .next t) : t.pending = s.pending ∧ Agree 0x80000002080000245000000000000000000000000000000000000000000008000000000000000000000000000000000000000040 s.dev t.dev := by
  refine State.onCompute_kp _ _ s t (fun d => ?_) h
  repeat' (first | (with_reducible exact Agree.refl _ _) | with_reducible assumption | intro _ | (with_reducible refine Dev.loadCells_kp (hμ := (Within.refl _).up (by decide)) (hκ := ?_) ..) | (with_reducible apply Agree.ite) | (simp only [id_eq]) | split)

theorem execLoaderEnter_st {die : Nat} {cdie : Nat} {mask : Nat} {s t : State} (hs : Kept s.dev) (h : execLoaderEnter die cdie mask s = .next t) : Kept t.dev := by
  refine State.onCompute_st _ _ s t (fun d hκ => ?_) hs h
  repeat' (first | with_reducible assumption | intro _ | (with_reducible refine Dev.loadCells_st (hκ := ?_) ..) | (with_reducible apply Kept.ite) | (simp only [id_eq]) | split)

theorem execCellStart_kp {cell : Nat} {s t : State} (h : execCellStart cell s = .next t) : t.pending = s.pending ∧ Agree 0x80000002180000245000000000000000000000000000000000000000000008000000000000000000000000000000000000040040 s.dev t.dev := by
  refine State.onCell_kp _ _ s t (fun d => ?_) h
  repeat' (first | (with_reducible exact Agree.refl _ _) | with_reducible assumption | intro _ | (with_reducible refine Dev.planRun_kp (hμ := (Within.refl _).up (by decide)) (hκ := ?_) ..) | (with_reducible apply Agree.ite) | (simp only [id_eq]) | split)

theorem execCellStart_st {cell : Nat} {s t : State} (hs : Kept s.dev) (h : execCellStart cell s = .next t) : Kept t.dev := by
  refine State.onCell_st _ _ s t (fun d hκ => ?_) hs h
  repeat' (first | with_reducible assumption | intro _ | (with_reducible refine Dev.planRun_st (hκ := ?_) ..) | (with_reducible apply Kept.ite) | (simp only [id_eq]) | split)

theorem execCellAbort_kp {cell : Nat} {s t : State} (h : execCellAbort cell s = .next t) : t.pending = s.pending ∧ Agree 0x80000002180000245000000000000000000000000000000000000000000008000000000000000000000000000000000000040040 s.dev t.dev := by
  refine State.onCell_kp _ _ s t (fun d => ?_) h
  repeat' (first | (with_reducible exact Agree.refl _ _) | with_reducible assumption | intro _ | (with_reducible refine Dev.planRun_kp (hμ := (Within.refl _).up (by decide)) (hκ := ?_) ..) | (with_reducible apply Agree.ite) | (simp only [id_eq]) | split)

theorem execCellAbort_st {cell : Nat} {s t : State} (hs : Kept s.dev) (h : execCellAbort cell s = .next t) : Kept t.dev := by
  refine State.onCell_st _ _ s t (fun d hκ => ?_) hs h
  repeat' (first | with_reducible assumption | intro _ | (with_reducible refine Dev.planRun_st (hκ := ?_) ..) | (with_reducible apply Kept.ite) | (simp only [id_eq]) | split)

theorem execDspStepFetch_kp {die : Nat} {ups : List (Nat × Nat)} {s t : State} (h : execDspStepFetch die ups s = .next t) : t.pending = s.pending ∧ Agree 0x4002400000000000000000000000000000000000000000000000000000000000001c000000000000000000000000000000 s.dev t.dev := by
  refine State.onCompute_kp _ _ s t (fun d => ?_) h
  repeat' (first | (with_reducible exact Agree.refl _ _) | with_reducible assumption | intro _ | (with_reducible refine Dev.upset_kp (hμ := (Within.refl _).up (by decide)) (hκ := ?_) ..) | (with_reducible refine Dev.dspFetch_kp (hμ := (Within.refl _).up (by decide)) (hκ := ?_) ..) | (with_reducible apply Agree.ite) | (simp only [id_eq]) | split)

theorem execDspStepFetch_st {die : Nat} {ups : List (Nat × Nat)} {s t : State} (hs : Kept s.dev) (h : execDspStepFetch die ups s = .next t) : Kept t.dev := by
  refine State.onCompute_st _ _ s t (fun d hκ => ?_) hs h
  repeat' (first | with_reducible assumption | intro _ | (with_reducible refine Dev.upset_st (hκ := ?_) ..) | (with_reducible refine Dev.dspFetch_st (hκ := ?_) ..) | (with_reducible apply Kept.ite) | (simp only [id_eq]) | split)

theorem execStepNop_kp {die : Nat} {s t : State} (h : execStepNop die s = .next t) : t.pending = s.pending ∧ Agree 0x8000484e03c00024500000000000000000000000000000000000000000004080000000003c3b303c00000000fe00010000000000 s.dev t.dev := by
  refine State.onCompute_kp _ _ s t (fun d => ?_) h
  repeat' (first | (with_reducible exact Agree.refl _ _) | with_reducible assumption | intro _ | (with_reducible refine Dev.dspBegin_kp (hμ := (Within.refl _).up (by decide)) (hκ := ?_) ..) | (with_reducible apply Agree.ite) | (simp only [id_eq]) | split)

theorem execStepNop_st {die : Nat} {s t : State} (hs : Kept s.dev) (h : execStepNop die s = .next t) : Kept t.dev := by
  refine State.onCompute_st _ _ s t (fun d hκ => ?_) hs h
  repeat' (first | with_reducible assumption | intro _ | (with_reducible refine Dev.dspBegin_st (hκ := ?_) ..) | (with_reducible apply Kept.ite) | (simp only [id_eq]) | split)

theorem execGate_kp {die : Nat} {ups : List (Nat × Nat)} {s t : State} (h : execGate die ups s = .next t) : t.pending = s.pending ∧ Agree 0x8000484e03c00024500000000000000000000000000000000000000000004080000000003c3b303c00000000fe00010000000000 s.dev t.dev := by
  refine State.onCompute_kp _ _ s t (fun d => ?_) h
  repeat' (first | (with_reducible exact Agree.refl _ _) | with_reducible assumption | intro _ | (with_reducible refine Dev.upset_kp (hμ := (Within.refl _).up (by decide)) (hκ := ?_) ..) | (with_reducible refine Dev.dspBegin_kp (hμ := (Within.refl _).up (by decide)) (hκ := ?_) ..) | (with_reducible apply Agree.ite) | (simp only [id_eq]) | split)

theorem execGate_st {die : Nat} {ups : List (Nat × Nat)} {s t : State} (hs : Kept s.dev) (h : execGate die ups s = .next t) : Kept t.dev := by
  refine State.onCompute_st _ _ s t (fun d hκ => ?_) hs h
  repeat' (first | with_reducible assumption | intro _ | (with_reducible refine Dev.upset_st (hκ := ?_) ..) | (with_reducible refine Dev.dspBegin_st (hκ := ?_) ..) | (with_reducible apply Kept.ite) | (simp only [id_eq]) | split)

theorem execRepack_kp {die : Nat} {ups : List (Nat × Nat)} {s t : State} (h : execRepack die ups s = .next t) : t.pending = s.pending ∧ Agree 0x8000484e03c00024500000000000000000000000000000000000000000004080000000003c3b303c00000000fe00010000000000 s.dev t.dev := by
  refine State.onCompute_kp _ _ s t (fun d => ?_) h
  repeat' (first | (with_reducible exact Agree.refl _ _) | with_reducible assumption | intro _ | (with_reducible refine Dev.upset_kp (hμ := (Within.refl _).up (by decide)) (hκ := ?_) ..) | (with_reducible refine Dev.dspBegin_kp (hμ := (Within.refl _).up (by decide)) (hκ := ?_) ..) | (with_reducible apply Agree.ite) | (simp only [id_eq]) | split)

theorem execRepack_st {die : Nat} {ups : List (Nat × Nat)} {s t : State} (hs : Kept s.dev) (h : execRepack die ups s = .next t) : Kept t.dev := by
  refine State.onCompute_st _ _ s t (fun d hκ => ?_) hs h
  repeat' (first | with_reducible assumption | intro _ | (with_reducible refine Dev.upset_st (hκ := ?_) ..) | (with_reducible refine Dev.dspBegin_st (hκ := ?_) ..) | (with_reducible apply Kept.ite) | (simp only [id_eq]) | split)

theorem execCombine_kp {die : Nat} {ups : List (Nat × Nat)} {s t : State} (h : execCombine die ups s = .next t) : t.pending = s.pending ∧ Agree 0x8000484e03c00024500000000000000000000000000000000000000000004080000000003c3b303c00000000fe00010000000000 s.dev t.dev := by
  refine State.onCompute_kp _ _ s t (fun d => ?_) h
  repeat' (first | (with_reducible exact Agree.refl _ _) | with_reducible assumption | intro _ | (with_reducible refine Dev.upset_kp (hμ := (Within.refl _).up (by decide)) (hκ := ?_) ..) | (with_reducible refine Dev.dspBegin_kp (hμ := (Within.refl _).up (by decide)) (hκ := ?_) ..) | (with_reducible apply Agree.ite) | (simp only [id_eq]) | split)

theorem execCombine_st {die : Nat} {ups : List (Nat × Nat)} {s t : State} (hs : Kept s.dev) (h : execCombine die ups s = .next t) : Kept t.dev := by
  refine State.onCompute_st _ _ s t (fun d hκ => ?_) hs h
  repeat' (first | with_reducible assumption | intro _ | (with_reducible refine Dev.upset_st (hκ := ?_) ..) | (with_reducible refine Dev.dspBegin_st (hκ := ?_) ..) | (with_reducible apply Kept.ite) | (simp only [id_eq]) | split)

theorem execStepEnd_kp {die : Nat} {s t : State} (h : execStepEnd die s = .next t) : t.pending = s.pending ∧ Agree 0x8000484e03c00024500000000000000000000000000000000000000000004080000000003c3b303c00000000fe00010000000000 s.dev t.dev := by
  refine State.onCompute_kp _ _ s t (fun d => ?_) h
  repeat' (first | (with_reducible exact Agree.refl _ _) | with_reducible assumption | intro _ | (with_reducible refine Dev.dspBegin_kp (hμ := (Within.refl _).up (by decide)) (hκ := ?_) ..) | (with_reducible apply Agree.ite) | (simp only [id_eq]) | split)

theorem execStepEnd_st {die : Nat} {s t : State} (hs : Kept s.dev) (h : execStepEnd die s = .next t) : Kept t.dev := by
  refine State.onCompute_st _ _ s t (fun d hκ => ?_) hs h
  repeat' (first | with_reducible assumption | intro _ | (with_reducible refine Dev.dspBegin_st (hκ := ?_) ..) | (with_reducible apply Kept.ite) | (simp only [id_eq]) | split)

theorem execDspReleaseAdd_kp {die : Nat} {s t : State} (h : execDspReleaseAdd die s = .next t) : t.pending = s.pending ∧ Agree 0x80000042000000245000000000000000000000000000000000000000000000000000000000000000000000001a00010000000000 s.dev t.dev := by
  refine State.onCompute_kp _ _ s t (fun d => ?_) h
  repeat' (first | (with_reducible exact Agree.refl _ _) | with_reducible assumption | intro _ | (with_reducible refine Dev.dspAdd_kp (hμ := (Within.refl _).up (by decide)) (hκ := ?_) ..) | (with_reducible apply Agree.ite) | (simp only [id_eq]) | split)

theorem execDspReleaseAdd_st {die : Nat} {s t : State} (hs : Kept s.dev) (h : execDspReleaseAdd die s = .next t) : Kept t.dev := by
  refine State.onCompute_st _ _ s t (fun d hκ => ?_) hs h
  repeat' (first | with_reducible assumption | intro _ | (with_reducible refine Dev.dspAdd_st (hκ := ?_) ..) | (with_reducible apply Kept.ite) | (simp only [id_eq]) | split)

theorem execDspWaitTimeout_kp {die : Nat} {s t : State} (h : execDspWaitTimeout die s = .next t) : t.pending = s.pending ∧ Agree 0x80000042010000245000000000000000000000000000000000000000000000000000000000000000000000001a00010000000000 s.dev t.dev := by
  refine State.onCompute_kp _ _ s t (fun d => ?_) h
  repeat' (first | (with_reducible exact Agree.refl _ _) | with_reducible assumption | intro _ | (with_reducible refine Dev.dspTimeout_kp (hμ := (Within.refl _).up (by decide)) (hκ := ?_) ..) | (with_reducible apply Agree.ite) | (simp only [id_eq]) | split)

theorem execDspWaitTimeout_st {die : Nat} {s t : State} (hs : Kept s.dev) (h : execDspWaitTimeout die s = .next t) : Kept t.dev := by
  refine State.onCompute_st _ _ s t (fun d hκ => ?_) hs h
  repeat' (first | with_reducible assumption | intro _ | (with_reducible refine Dev.dspTimeout_st (hκ := ?_) ..) | (with_reducible apply Kept.ite) | (simp only [id_eq]) | split)

theorem execDspStart_kp {die : Nat} {s t : State} (h : execDspStart die s = .next t) : t.pending = s.pending ∧ Agree 0x40000000000000000000000000000000000000000000000000000000000000000000000000000000001e00000000000000 s.dev t.dev := by
  refine State.onCompute_kp _ _ s t (fun d => ?_) h
  repeat' (first | (with_reducible exact Agree.refl _ _) | with_reducible assumption | intro _ | (with_reducible refine Dev.dspStart_kp (hμ := (Within.refl _).up (by decide)) (hκ := ?_) ..) | (with_reducible apply Agree.ite) | (simp only [id_eq]) | split)

theorem execDspStart_st {die : Nat} {s t : State} (hs : Kept s.dev) (h : execDspStart die s = .next t) : Kept t.dev := by
  refine State.onCompute_st _ _ s t (fun d hκ => ?_) hs h
  repeat' (first | with_reducible assumption | intro _ | (with_reducible refine Dev.dspStart_st (hκ := ?_) ..) | (with_reducible apply Kept.ite) | (simp only [id_eq]) | split)

theorem execDspAbort_kp {die : Nat} {s t : State} (h : execDspAbort die s = .next t) : t.pending = s.pending ∧ Agree 0x42000000000000000000000000000000000000000000000000000000000000000000000000000000000200000000000000 s.dev t.dev := by
  refine State.onCompute_kp _ _ s t (fun d => ?_) h
  repeat' (first | (with_reducible exact Agree.refl _ _) | with_reducible assumption | intro _ | (with_reducible refine Dev.dspAbort_kp (hμ := (Within.refl _).up (by decide)) (hκ := ?_) ..) | (with_reducible apply Agree.ite) | (simp only [id_eq]) | split)

theorem execDspAbort_st {die : Nat} {s t : State} (hs : Kept s.dev) (h : execDspAbort die s = .next t) : Kept t.dev := by
  refine State.onCompute_st _ _ s t (fun d hκ => ?_) hs h
  repeat' (first | with_reducible assumption | intro _ | (with_reducible refine Dev.dspAbort_st (hκ := ?_) ..) | (with_reducible apply Kept.ite) | (simp only [id_eq]) | split)

theorem execDspDrainComplete_kp {die : Nat} {s t : State} (h : execDspDrainComplete die s = .next t) : t.pending = s.pending ∧ Agree 0x80000040000000245000000000000000000000000000000000000000000000000000000000000000000000001a00010000000000 s.dev t.dev := by
  refine State.onCompute_kp _ _ s t (fun d => ?_) h
  repeat' (first | (with_reducible exact Agree.refl _ _) | with_reducible assumption | intro _ | (with_reducible refine Dev.dspDrained_kp (hμ := (Within.refl _).up (by decide)) (hκ := ?_) ..) | (with_reducible apply Agree.ite) | (simp only [id_eq]) | split)

theorem execDspDrainComplete_st {die : Nat} {s t : State} (hs : Kept s.dev) (h : execDspDrainComplete die s = .next t) : Kept t.dev := by
  refine State.onCompute_st _ _ s t (fun d hκ => ?_) hs h
  repeat' (first | with_reducible assumption | intro _ | (with_reducible refine Dev.dspDrained_st (hκ := ?_) ..) | (with_reducible apply Kept.ite) | (simp only [id_eq]) | split)

theorem execListFetch_kp {die : Nat} {eng : Nat} {ups : List (Nat × Nat)} {s t : State} (h : execListFetch die eng ups s = .next t) : t.pending = s.pending ∧ Agree 0x1002400000000000000000000000000000000000000000000000000000000000001c000000000000000000000000000000 s.dev t.dev := by
  refine State.onCompute_kp _ _ s t (fun d => ?_) h
  repeat' (first | (with_reducible exact Agree.refl _ _) | with_reducible assumption | intro _ | (with_reducible refine Dev.upset_kp (hμ := (Within.refl _).up (by decide)) (hκ := ?_) ..) | (with_reducible refine Dev.listFetch_kp (hμ := (Within.refl _).up (by decide)) (hκ := ?_) ..) | (with_reducible apply Agree.ite) | (simp only [id_eq]) | split)

theorem execListFetch_st {die : Nat} {eng : Nat} {ups : List (Nat × Nat)} {s t : State} (hs : Kept s.dev) (h : execListFetch die eng ups s = .next t) : Kept t.dev := by
  refine State.onCompute_st _ _ s t (fun d hκ => ?_) hs h
  repeat' (first | with_reducible assumption | intro _ | (with_reducible refine Dev.upset_st (hκ := ?_) ..) | (with_reducible refine Dev.listFetch_st (hκ := ?_) ..) | (with_reducible apply Kept.ite) | (simp only [id_eq]) | split)

theorem execNopEntry_kp {die : Nat} {eng : Nat} {s t : State} (h : execNopEntry die eng s = .next t) : t.pending = s.pending ∧ Agree 0x8010003e004000245000000000000000000000000000000000000000000000000004000000000000000000000000111fe0000000 s.dev t.dev := by
  refine State.onCompute_kp _ _ s t (fun d => ?_) h
  repeat' (first | (with_reducible exact Agree.refl _ _) | with_reducible assumption | intro _ | (with_reducible refine Dev.entBegin_kp (hμ := (Within.refl _).up (by decide)) (hκ := ?_) ..) | (with_reducible refine Dev.engFollow_kp (hμ := (Within.refl _).up (by decide)) (hκ := ?_) ..) | (with_reducible apply Agree.ite) | (simp only [id_eq]) | split)

theorem execNopEntry_st {die : Nat} {eng : Nat} {s t : State} (hs : Kept s.dev) (h : execNopEntry die eng s = .next t) : Kept t.dev := by
  refine State.onCompute_st _ _ s t (fun d hκ => ?_) hs h
  repeat' (first | with_reducible assumption | intro _ | (with_reducible refine Dev.entBegin_st (hκ := ?_) ..) | (with_reducible refine Dev.engFollow_st (hκ := ?_) ..) | (with_reducible apply Kept.ite) | (simp only [id_eq]) | split)

theorem execCopy_kp {die : Nat} {eng : Nat} {s t : State} (h : execCopy die eng s = .next t) : t.pending = s.pending ∧ Agree 0x8010003e004000245000000000000000000000000000000000000000000000000004000000000000000000000000111fe0000000 s.dev t.dev := by
  refine State.onCompute_kp _ _ s t (fun d => ?_) h
  repeat' (first | (with_reducible exact Agree.refl _ _) | with_reducible assumption | intro _ | (with_reducible refine Dev.entBegin_kp (hμ := (Within.refl _).up (by decide)) (hκ := ?_) ..) | (with_reducible refine Dev.engFollow_kp (hμ := (Within.refl _).up (by decide)) (hκ := ?_) ..) | (with_reducible apply Agree.ite) | (simp only [id_eq]) | split)

theorem execCopy_st {die : Nat} {eng : Nat} {s t : State} (hs : Kept s.dev) (h : execCopy die eng s = .next t) : Kept t.dev := by
  refine State.onCompute_st _ _ s t (fun d hκ => ?_) hs h
  repeat' (first | with_reducible assumption | intro _ | (with_reducible refine Dev.entBegin_st (hκ := ?_) ..) | (with_reducible refine Dev.engFollow_st (hκ := ?_) ..) | (with_reducible apply Kept.ite) | (simp only [id_eq]) | split)

theorem execReduce_kp {die : Nat} {eng : Nat} {s t : State} (h : execReduce die eng s = .next t) : t.pending = s.pending ∧ Agree 0x8010003e004000245000000000000000000000000000000000000000000000000004000000000000000000000000111fe0000000 s.dev t.dev := by
  refine State.onCompute_kp _ _ s t (fun d => ?_) h
  repeat' (first | (with_reducible exact Agree.refl _ _) | with_reducible assumption | intro _ | (with_reducible refine Dev.entBegin_kp (hμ := (Within.refl _).up (by decide)) (hκ := ?_) ..) | (with_reducible refine Dev.engFollow_kp (hμ := (Within.refl _).up (by decide)) (hκ := ?_) ..) | (with_reducible apply Agree.ite) | (simp only [id_eq]) | split)

theorem execReduce_st {die : Nat} {eng : Nat} {s t : State} (hs : Kept s.dev) (h : execReduce die eng s = .next t) : Kept t.dev := by
  refine State.onCompute_st _ _ s t (fun d hκ => ?_) hs h
  repeat' (first | with_reducible assumption | intro _ | (with_reducible refine Dev.entBegin_st (hκ := ?_) ..) | (with_reducible refine Dev.engFollow_st (hκ := ?_) ..) | (with_reducible apply Kept.ite) | (simp only [id_eq]) | split)

theorem execTaddEntry_kp {die : Nat} {eng : Nat} {s t : State} (h : execTaddEntry die eng s = .next t) : t.pending = s.pending ∧ Agree 0x8010003e004000245000000000000000000000000000000000000000000000000004000000000000000000000000111fe0000000 s.dev t.dev := by
  refine State.onCompute_kp _ _ s t (fun d => ?_) h
  repeat' (first | (with_reducible exact Agree.refl _ _) | with_reducible assumption | intro _ | (with_reducible refine Dev.entBegin_kp (hμ := (Within.refl _).up (by decide)) (hκ := ?_) ..) | (with_reducible refine Dev.engFollow_kp (hμ := (Within.refl _).up (by decide)) (hκ := ?_) ..) | (with_reducible apply Agree.ite) | (simp only [id_eq]) | split)

theorem execTaddEntry_st {die : Nat} {eng : Nat} {s t : State} (hs : Kept s.dev) (h : execTaddEntry die eng s = .next t) : Kept t.dev := by
  refine State.onCompute_st _ _ s t (fun d hκ => ?_) hs h
  repeat' (first | with_reducible assumption | intro _ | (with_reducible refine Dev.entBegin_st (hκ := ?_) ..) | (with_reducible refine Dev.engFollow_st (hκ := ?_) ..) | (with_reducible apply Kept.ite) | (simp only [id_eq]) | split)

theorem execEndEntry_kp {die : Nat} {eng : Nat} {s t : State} (h : execEndEntry die eng s = .next t) : t.pending = s.pending ∧ Agree 0x8010003e004000245000000000000000000000000000000000000000000000000004000000000000000000000000111fe0000000 s.dev t.dev := by
  refine State.onCompute_kp _ _ s t (fun d => ?_) h
  repeat' (first | (with_reducible exact Agree.refl _ _) | with_reducible assumption | intro _ | (with_reducible refine Dev.entBegin_kp (hμ := (Within.refl _).up (by decide)) (hκ := ?_) ..) | (with_reducible refine Dev.engFollow_kp (hμ := (Within.refl _).up (by decide)) (hκ := ?_) ..) | (with_reducible apply Agree.ite) | (simp only [id_eq]) | split)

theorem execEndEntry_st {die : Nat} {eng : Nat} {s t : State} (hs : Kept s.dev) (h : execEndEntry die eng s = .next t) : Kept t.dev := by
  refine State.onCompute_st _ _ s t (fun d hκ => ?_) hs h
  repeat' (first | with_reducible assumption | intro _ | (with_reducible refine Dev.entBegin_st (hκ := ?_) ..) | (with_reducible refine Dev.engFollow_st (hκ := ?_) ..) | (with_reducible apply Kept.ite) | (simp only [id_eq]) | split)

theorem execTransactionIssue_kp {die : Nat} {eng : Nat} {s t : State} (h : execTransactionIssue die eng s = .next t) : t.pending = s.pending ∧ Agree 0x8010003e004000245000000000000000000000000000000200000000000000000004000000000000000000000000101fa0000000 s.dev t.dev := by
  refine State.onCompute_kp _ _ s t (fun d => ?_) h
  repeat' (first | (with_reducible exact Agree.refl _ _) | with_reducible assumption | intro _ | (with_reducible refine Dev.txnIssue_kp (hμ := (Within.refl _).up (by decide)) (hκ := ?_) ..) | (with_reducible refine Dev.engFollow_kp (hμ := (Within.refl _).up (by decide)) (hκ := ?_) ..) | (with_reducible apply Agree.ite) | (simp only [id_eq]) | split)

theorem execTransactionIssue_st {die : Nat} {eng : Nat} {s t : State} (hs : Kept s.dev) (h : execTransactionIssue die eng s = .next t) : Kept t.dev := by
  refine State.onCompute_st _ _ s t (fun d hκ => ?_) hs h
  repeat' (first | with_reducible assumption | intro _ | (with_reducible refine Dev.txnIssue_st (hκ := ?_) ..) | (with_reducible refine Dev.engFollow_st (hκ := ?_) ..) | (with_reducible apply Kept.ite) | (simp only [id_eq]) | split)

theorem execTransactionResponse_kp {place : Nat} {slice : Option (Nat × Nat)} {s t : State} (h : execTransactionResponse place slice s = .next t) : t.pending = s.pending ∧ Agree 0xf9010007e014000245000000000000000000000080080e00800000200000041200004000000000000000000001a00111f20000000 s.dev t.dev := by
  refine State.on_kp _ s t (fun d => ?_) h
  repeat' (first | (with_reducible exact Agree.refl _ _) | with_reducible assumption | intro _ | (with_reducible refine Dev.homeResponse_kp (hμ := (Within.refl _).up (by decide)) (hκ := ?_) ..) | (with_reducible apply Agree.ite) | (simp only [id_eq]) | split)

theorem execTransactionResponse_st {place : Nat} {slice : Option (Nat × Nat)} {s t : State} (hs : Kept s.dev) (h : execTransactionResponse place slice s = .next t) : Kept t.dev := by
  refine State.on_st _ s t (fun d hκ => ?_) hs h
  repeat' (first | with_reducible assumption | intro _ | (with_reducible refine Dev.homeResponse_st (hκ := ?_) ..) | (with_reducible apply Kept.ite) | (simp only [id_eq]) | split)

theorem execEngineReleaseAdd_kp {die : Nat} {eng : Nat} {s t : State} (h : execEngineReleaseAdd die eng s = .next t) : t.pending = s.pending ∧ Agree 0x8010003e004000245000000000000000000000000000000000000000000000000004000000000000000000000000101f20000000 s.dev t.dev := by
  refine State.onCompute_kp _ _ s t (fun d => ?_) h
  repeat' (first | (with_reducible exact Agree.refl _ _) | with_reducible assumption | intro _ | (with_reducible refine Dev.engAdd_kp (hμ := (Within.refl _).up (by decide)) (hκ := ?_) ..) | (with_reducible refine Dev.engFollow_kp (hμ := (Within.refl _).up (by decide)) (hκ := ?_) ..) | (with_reducible apply Agree.ite) | (simp only [id_eq]) | split)

theorem execEngineReleaseAdd_st {die : Nat} {eng : Nat} {s t : State} (hs : Kept s.dev) (h : execEngineReleaseAdd die eng s = .next t) : Kept t.dev := by
  refine State.onCompute_st _ _ s t (fun d hκ => ?_) hs h
  repeat' (first | with_reducible assumption | intro _ | (with_reducible refine Dev.engAdd_st (hκ := ?_) ..) | (with_reducible refine Dev.engFollow_st (hκ := ?_) ..) | (with_reducible apply Kept.ite) | (simp only [id_eq]) | split)

theorem execEngineDone_kp {die : Nat} {eng : Nat} {s t : State} (h : execEngineDone die eng s = .next t) : t.pending = s.pending ∧ Agree 0x10000000000000000000000000000000000000000000000000000000000000000000000000000000000000000020000000 s.dev t.dev := by
  refine State.onCompute_kp _ _ s t (fun d => ?_) h
  repeat' (first | (with_reducible exact Agree.refl _ _) | with_reducible assumption | intro _ | (with_reducible refine Dev.engDone_kp (hμ := (Within.refl _).up (by decide)) (hκ := ?_) ..) | (with_reducible apply Agree.ite) | (simp only [id_eq]) | split)

theorem execEngineDone_st {die : Nat} {eng : Nat} {s t : State} (hs : Kept s.dev) (h : execEngineDone die eng s = .next t) : Kept t.dev := by
  refine State.onCompute_st _ _ s t (fun d hκ => ?_) hs h
  repeat' (first | with_reducible assumption | intro _ | (with_reducible refine Dev.engDone_st (hκ := ?_) ..) | (with_reducible apply Kept.ite) | (simp only [id_eq]) | split)

theorem execEngineWaitTimeout_kp {die : Nat} {eng : Nat} {s t : State} (h : execEngineWaitTimeout die eng s = .next t) : t.pending = s.pending ∧ Agree 0x8010003e004000245000000000000000000000000000000000000000000000000004000000000000000000000000101f20000000 s.dev t.dev := by
  refine State.onCompute_kp _ _ s t (fun d => ?_) h
  repeat' (first | (with_reducible exact Agree.refl _ _) | with_reducible assumption | intro _ | (with_reducible refine Dev.engTimeout_kp (hμ := (Within.refl _).up (by decide)) (hκ := ?_) ..) | (with_reducible refine Dev.engFollow_kp (hμ := (Within.refl _).up (by decide)) (hκ := ?_) ..) | (with_reducible apply Agree.ite) | (simp only [id_eq]) | split)

theorem execEngineWaitTimeout_st {die : Nat} {eng : Nat} {s t : State} (hs : Kept s.dev) (h : execEngineWaitTimeout die eng s = .next t) : Kept t.dev := by
  refine State.onCompute_st _ _ s t (fun d hκ => ?_) hs h
  repeat' (first | with_reducible assumption | intro _ | (with_reducible refine Dev.engTimeout_st (hκ := ?_) ..) | (with_reducible refine Dev.engFollow_st (hκ := ?_) ..) | (with_reducible apply Kept.ite) | (simp only [id_eq]) | split)

theorem execEngineStart_kp {die : Nat} {eng : Nat} {s t : State} (h : execEngineStart die eng s = .next t) : t.pending = s.pending ∧ Agree 0x10000000000000000000000000000000000000000000000000000000000000000000000000000000000000001fe0000000 s.dev t.dev := by
  refine State.onCompute_kp _ _ s t (fun d => ?_) h
  repeat' (first | (with_reducible exact Agree.refl _ _) | with_reducible assumption | intro _ | (with_reducible refine Dev.engStart_kp (hμ := (Within.refl _).up (by decide)) (hκ := ?_) ..) | (with_reducible apply Agree.ite) | (simp only [id_eq]) | split)

theorem execEngineStart_st {die : Nat} {eng : Nat} {s t : State} (hs : Kept s.dev) (h : execEngineStart die eng s = .next t) : Kept t.dev := by
  refine State.onCompute_st _ _ s t (fun d hκ => ?_) hs h
  repeat' (first | with_reducible assumption | intro _ | (with_reducible refine Dev.engStart_st (hκ := ?_) ..) | (with_reducible apply Kept.ite) | (simp only [id_eq]) | split)

theorem execEngineAbort_kp {die : Nat} {eng : Nat} {s t : State} (h : execEngineAbort die eng s = .next t) : t.pending = s.pending ∧ Agree 0x8010003e004000245000000000000000000000000000000000000000000000000004000000000000000000000000101f20000000 s.dev t.dev := by
  refine State.onCompute_kp _ _ s t (fun d => ?_) h
  repeat' (first | (with_reducible exact Agree.refl _ _) | with_reducible assumption | intro _ | (with_reducible refine Dev.engAbort_kp (hμ := (Within.refl _).up (by decide)) (hκ := ?_) ..) | (with_reducible refine Dev.engFollow_kp (hμ := (Within.refl _).up (by decide)) (hκ := ?_) ..) | (with_reducible apply Agree.ite) | (simp only [id_eq]) | split)

theorem execEngineAbort_st {die : Nat} {eng : Nat} {s t : State} (hs : Kept s.dev) (h : execEngineAbort die eng s = .next t) : Kept t.dev := by
  refine State.onCompute_st _ _ s t (fun d hκ => ?_) hs h
  repeat' (first | with_reducible assumption | intro _ | (with_reducible refine Dev.engAbort_st (hκ := ?_) ..) | (with_reducible refine Dev.engFollow_st (hκ := ?_) ..) | (with_reducible apply Kept.ite) | (simp only [id_eq]) | split)

theorem execEngineResume_kp {die : Nat} {eng : Nat} {s t : State} (h : execEngineResume die eng s = .next t) : t.pending = s.pending ∧ Agree 0x8010003e004000245000000000000000000000000000000000000000000000000004000000000000000000000000101f20000000 s.dev t.dev := by
  refine State.onCompute_kp _ _ s t (fun d => ?_) h
  repeat' (first | (with_reducible exact Agree.refl _ _) | with_reducible assumption | intro _ | (with_reducible refine Dev.engResumeAll_kp (hμ := (Within.refl _).up (by decide)) (hκ := ?_) ..) | (with_reducible apply Agree.ite) | (simp only [id_eq]) | split)

theorem execEngineResume_st {die : Nat} {eng : Nat} {s t : State} (hs : Kept s.dev) (h : execEngineResume die eng s = .next t) : Kept t.dev := by
  refine State.onCompute_st _ _ s t (fun d hκ => ?_) hs h
  repeat' (first | with_reducible assumption | intro _ | (with_reducible refine Dev.engResumeAll_st (hκ := ?_) ..) | (with_reducible apply Kept.ite) | (simp only [id_eq]) | split)

theorem execEngineDrainComplete_kp {die : Nat} {eng : Nat} {s t : State} (h : execEngineDrainComplete die eng s = .next t) : t.pending = s.pending ∧ Agree 0x80000030000000245000000000000000000000000000000000000000000000000000000000000000000000000000101f20000000 s.dev t.dev := by
  refine State.onCompute_kp _ _ s t (fun d => ?_) h
  repeat' (first | (with_reducible exact Agree.refl _ _) | with_reducible assumption | intro _ | (with_reducible refine Dev.engDrained_kp (hμ := (Within.refl _).up (by decide)) (hκ := ?_) ..) | (with_reducible apply Agree.ite) | (simp only [id_eq]) | split)

theorem execEngineDrainComplete_st {die : Nat} {eng : Nat} {s t : State} (hs : Kept s.dev) (h : execEngineDrainComplete die eng s = .next t) : Kept t.dev := by
  refine State.onCompute_st _ _ s t (fun d hκ => ?_) hs h
  repeat' (first | with_reducible assumption | intro _ | (with_reducible refine Dev.engDrained_st (hκ := ?_) ..) | (with_reducible apply Kept.ite) | (simp only [id_eq]) | split)

theorem execHomeRequest_kp {place : Nat} {ups : List (Nat × Nat)} {slice : Option (Nat × Nat)} {s t : State} (h : execHomeRequest place ups slice s = .next t) : t.pending = s.pending ∧ Agree 0xf9000408403c000245000000000000000000000080200e00640000000000040a00000000c3c000000000000000000010000000000 s.dev t.dev := by
  refine State.on_kp _ s t (fun d => ?_) h
  repeat' (first | (with_reducible exact Agree.refl _ _) | with_reducible assumption | intro _ | (with_reducible refine Dev.homeRequest_kp (hμ := (Within.refl _).up (by decide)) (hκ := ?_) ..) | (with_reducible apply Agree.ite) | (simp only [id_eq]) | split)

theorem execHomeRequest_st {place : Nat} {ups : List (Nat × Nat)} {slice : Option (Nat × Nat)} {s t : State} (hs : Kept s.dev) (h : execHomeRequest place ups slice s = .next t) : Kept t.dev := by
  refine State.on_st _ s t (fun d hκ => ?_) hs h
  repeat' (first | with_reducible assumption | intro _ | (with_reducible refine Dev.homeRequest_st (hκ := ?_) ..) | (with_reducible apply Kept.ite) | (simp only [id_eq]) | split)

theorem execMergeEntryAgeOut_kp {die : Nat} {bank : Nat} {ups : List (Nat × Nat)} {s t : State} (h : execMergeEntryAgeOut die bank ups s = .next t) : t.pending = s.pending ∧ Agree 0x400003c00000000000000000000000000000000000000000000000000000000000003c000000000000000000000000000000 s.dev t.dev := by
  refine State.onCarrier_kp _ _ s t (fun d => ?_) h
  repeat' (first | (with_reducible exact Agree.refl _ _) | with_reducible assumption | intro _ | (with_reducible refine Dev.upset_kp (hμ := (Within.refl _).up (by decide)) (hκ := ?_) ..) | (with_reducible refine Dev.mergeAge_kp (hμ := (Within.refl _).up (by decide)) (hκ := ?_) ..) | (with_reducible apply Agree.ite) | (simp only [id_eq]) | split)

theorem execMergeEntryAgeOut_st {die : Nat} {bank : Nat} {ups : List (Nat × Nat)} {s t : State} (hs : Kept s.dev) (h : execMergeEntryAgeOut die bank ups s = .next t) : Kept t.dev := by
  refine State.onCarrier_st _ _ s t (fun d hκ => ?_) hs h
  repeat' (first | with_reducible assumption | intro _ | (with_reducible refine Dev.upset_st (hκ := ?_) ..) | (with_reducible refine Dev.mergeAge_st (hκ := ?_) ..) | (with_reducible apply Kept.ite) | (simp only [id_eq]) | split)

theorem execMergeWordWrite_kp {die : Nat} {bank : Nat} {s t : State} (h : execMergeWordWrite die bank s = .next t) : t.pending = s.pending ∧ Agree 0x400003c00000000000000000000000000000000000000000000000000000000000003c000000000000000000000000000000 s.dev t.dev := by
  refine State.onCarrier_kp _ _ s t (fun d => ?_) h
  repeat' (first | (with_reducible exact Agree.refl _ _) | with_reducible assumption | intro _ | (with_reducible refine Dev.mergeWrite_kp (hμ := (Within.refl _).up (by decide)) (hκ := ?_) ..) | (with_reducible apply Agree.ite) | (simp only [id_eq]) | split)

theorem execMergeWordWrite_st {die : Nat} {bank : Nat} {s t : State} (hs : Kept s.dev) (h : execMergeWordWrite die bank s = .next t) : Kept t.dev := by
  refine State.onCarrier_st _ _ s t (fun d hκ => ?_) hs h
  repeat' (first | with_reducible assumption | intro _ | (with_reducible refine Dev.mergeWrite_st (hκ := ?_) ..) | (with_reducible apply Kept.ite) | (simp only [id_eq]) | split)

theorem execEthPortTrain_kp {die : Nat} {port : Nat} {s t : State} (h : execEthPortTrain die port s = .next t) : t.pending = s.pending ∧ Agree 0x78010003e00400024500000000000000000000c000000e04c60008000000001000004000000000000000000000000101f20000000 s.dev t.dev := by
  refine State.onEth_kp _ _ _ s t (fun d => ?_) h
  repeat' (first | (with_reducible exact Agree.refl _ _) | with_reducible assumption | intro _ | (with_reducible refine Dev.ethCmdWrite_kp (hμ := (Within.refl _).up (by decide)) (hκ := ?_) ..) | (with_reducible apply Agree.ite) | (simp only [id_eq]) | split)

theorem execEthPortTrain_st {die : Nat} {port : Nat} {s t : State} (hs : Kept s.dev) (h : execEthPortTrain die port s = .next t) : Kept t.dev := by
  refine State.onEth_st _ _ _ s t (fun d hκ => ?_) hs h
  repeat' (first | with_reducible assumption | intro _ | (with_reducible refine Dev.ethCmdWrite_st (hκ := ?_) ..) | (with_reducible apply Kept.ite) | (simp only [id_eq]) | split)

theorem execEthPortHold_kp {die : Nat} {port : Nat} {s t : State} (h : execEthPortHold die port s = .next t) : t.pending = s.pending ∧ Agree 0x78010003e00400024500000000000000000000c000000e04c60008000000001000004000000000000000000000000101f20000000 s.dev t.dev := by
  refine State.onEth_kp _ _ _ s t (fun d => ?_) h
  repeat' (first | (with_reducible exact Agree.refl _ _) | with_reducible assumption | intro _ | (with_reducible refine Dev.ethCmdWrite_kp (hμ := (Within.refl _).up (by decide)) (hκ := ?_) ..) | (with_reducible apply Agree.ite) | (simp only [id_eq]) | split)

theorem execEthPortHold_st {die : Nat} {port : Nat} {s t : State} (hs : Kept s.dev) (h : execEthPortHold die port s = .next t) : Kept t.dev := by
  refine State.onEth_st _ _ _ s t (fun d hκ => ?_) hs h
  repeat' (first | with_reducible assumption | intro _ | (with_reducible refine Dev.ethCmdWrite_st (hκ := ?_) ..) | (with_reducible apply Kept.ite) | (simp only [id_eq]) | split)

theorem execEthLinkupStepEnd_kp {die : Nat} {port : Nat} {resolved : Bool} {s t : State} (h : execEthLinkupStepEnd die port resolved s = .next t) : t.pending = s.pending ∧ Agree 0x78010003e00400024500000000000000000000c000000e04c64008000000001000004000000000000000000000000101f20000000 s.dev t.dev := by
  refine State.onEth_kp _ _ _ s t (fun d => ?_) h
  repeat' (first | (with_reducible exact Agree.refl _ _) | with_reducible assumption | intro _ | (with_reducible refine Dev.ethStepEnd_kp (hμ := (Within.refl _).up (by decide)) (hκ := ?_) ..) | (with_reducible apply Agree.ite) | (simp only [id_eq]) | split)

theorem execEthLinkupStepEnd_st {die : Nat} {port : Nat} {resolved : Bool} {s t : State} (hs : Kept s.dev) (h : execEthLinkupStepEnd die port resolved s = .next t) : Kept t.dev := by
  refine State.onEth_st _ _ _ s t (fun d hκ => ?_) hs h
  repeat' (first | with_reducible assumption | intro _ | (with_reducible refine Dev.ethStepEnd_st (hκ := ?_) ..) | (with_reducible apply Kept.ite) | (simp only [id_eq]) | split)

theorem execEthAnTimeout_kp {die : Nat} {port : Nat} {s t : State} (h : execEthAnTimeout die port s = .next t) : t.pending = s.pending ∧ Agree 0x78010003e00400024500000000000000000000c000000e04c60008000000001000004000000000000000000000000101f20000000 s.dev t.dev := by
  refine State.onEth_kp _ _ _ s t (fun d => ?_) h
  repeat' (first | (with_reducible exact Agree.refl _ _) | with_reducible assumption | intro _ | (with_reducible refine Dev.ethAnTimeout_kp (hμ := (Within.refl _).up (by decide)) (hκ := ?_) ..) | (with_reducible apply Agree.ite) | (simp only [id_eq]) | split)

theorem execEthAnTimeout_st {die : Nat} {port : Nat} {s t : State} (hs : Kept s.dev) (h : execEthAnTimeout die port s = .next t) : Kept t.dev := by
  refine State.onEth_st _ _ _ s t (fun d hκ => ?_) hs h
  repeat' (first | with_reducible assumption | intro _ | (with_reducible refine Dev.ethAnTimeout_st (hκ := ?_) ..) | (with_reducible apply Kept.ite) | (simp only [id_eq]) | split)

theorem execEthUpTimeout_kp {die : Nat} {port : Nat} {s t : State} (h : execEthUpTimeout die port s = .next t) : t.pending = s.pending ∧ Agree 0x78010003e00400024500000000000000000000c000000e04c60008000000001000004000000000000000000000000101f20000000 s.dev t.dev := by
  refine State.onEth_kp _ _ _ s t (fun d => ?_) h
  repeat' (first | (with_reducible exact Agree.refl _ _) | with_reducible assumption | intro _ | (with_reducible refine Dev.ethUpTimeout_kp (hμ := (Within.refl _).up (by decide)) (hκ := ?_) ..) | (with_reducible apply Agree.ite) | (simp only [id_eq]) | split)

theorem execEthUpTimeout_st {die : Nat} {port : Nat} {s t : State} (hs : Kept s.dev) (h : execEthUpTimeout die port s = .next t) : Kept t.dev := by
  refine State.onEth_st _ _ _ s t (fun d hκ => ?_) hs h
  repeat' (first | with_reducible assumption | intro _ | (with_reducible refine Dev.ethUpTimeout_st (hκ := ?_) ..) | (with_reducible apply Kept.ite) | (simp only [id_eq]) | split)

theorem execEthPcsLockLoss_kp {die : Nat} {port : Nat} {s t : State} (h : execEthPcsLockLoss die port s = .next t) : t.pending = s.pending ∧ Agree 0x400000000000000000000000000000000000008000000000000000000000000000000000000000000000000000000000000000000 s.dev t.dev := by
  refine State.onEth_kp _ _ _ s t (fun d => ?_) h
  repeat' (first | (with_reducible exact Agree.refl _ _) | with_reducible assumption | intro _ | (with_reducible refine Dev.ethLockLoss_kp (hμ := (Within.refl _).up (by decide)) (hκ := ?_) ..) | (with_reducible apply Agree.ite) | (simp only [id_eq]) | split)

theorem execEthPcsLockLoss_st {die : Nat} {port : Nat} {s t : State} (hs : Kept s.dev) (h : execEthPcsLockLoss die port s = .next t) : Kept t.dev := by
  refine State.onEth_st _ _ _ s t (fun d hκ => ?_) hs h
  repeat' (first | with_reducible assumption | intro _ | (with_reducible refine Dev.ethLockLoss_st (hκ := ?_) ..) | (with_reducible apply Kept.ite) | (simp only [id_eq]) | split)

theorem execEthFrameReceive_kp {die : Nat} {port : Nat} {frame : Bytes} {s t : State} (h : execEthFrameReceive die port frame s = .next t) : t.pending = s.pending ∧ Agree 0xc8000000400000024500000000000000001b300080080000000000000000000000000000000000000000000000000000000000000 s.dev t.dev := by
  refine State.onEth_kp _ _ _ s t (fun d => ?_) h
  repeat' (first | (with_reducible exact Agree.refl _ _) | with_reducible assumption | intro _ | (with_reducible refine Dev.ethReceive_kp (hμ := (Within.refl _).up (by decide)) (hκ := ?_) ..) | (with_reducible apply Agree.ite) | (simp only [id_eq]) | split)

theorem execEthFrameReceive_st {die : Nat} {port : Nat} {frame : Bytes} {s t : State} (hs : Kept s.dev) (h : execEthFrameReceive die port frame s = .next t) : Kept t.dev := by
  refine State.onEth_st _ _ _ s t (fun d hκ => ?_) hs h
  repeat' (first | with_reducible assumption | intro _ | (with_reducible refine Dev.ethReceive_st (hκ := ?_) ..) | (with_reducible apply Kept.ite) | (simp only [id_eq]) | split)

theorem execPfcReceive_kp {die : Nat} {port : Nat} {s t : State} (h : execPfcReceive die port s = .next t) : t.pending = s.pending ∧ Agree 0x400000000000000000000000000000000008000000000000000000000000000000000000000000000000000000000000000000000 s.dev t.dev := by
  refine State.onEth_kp _ _ _ s t (fun d => ?_) h
  repeat' (first | (with_reducible exact Agree.refl _ _) | with_reducible assumption | intro _ | (with_reducible refine Dev.pfcReceive_kp (hμ := (Within.refl _).up (by decide)) (hκ := ?_) ..) | (with_reducible apply Agree.ite) | (simp only [id_eq]) | split)

theorem execPfcReceive_st {die : Nat} {port : Nat} {s t : State} (hs : Kept s.dev) (h : execPfcReceive die port s = .next t) : Kept t.dev := by
  refine State.onEth_st _ _ _ s t (fun d hκ => ?_) hs h
  repeat' (first | with_reducible assumption | intro _ | (with_reducible refine Dev.pfcReceive_st (hκ := ?_) ..) | (with_reducible apply Kept.ite) | (simp only [id_eq]) | split)

theorem execPfcRepeat_kp {die : Nat} {port : Nat} {prio : Nat} {s t : State} (h : execPfcRepeat die port prio s = .next t) : t.pending = s.pending ∧ Agree 0x400000000000000000000000000000000008000000000000000000000000000000000000000000000000000000000000000000000 s.dev t.dev := by
  refine State.onEth_kp _ _ _ s t (fun d => ?_) h
  repeat' (first | (with_reducible exact Agree.refl _ _) | with_reducible assumption | intro _ | (with_reducible refine Dev.pfcRepeat_kp (hμ := (Within.refl _).up (by decide)) (hκ := ?_) ..) | (with_reducible apply Agree.ite) | (simp only [id_eq]) | split)

theorem execPfcRepeat_st {die : Nat} {port : Nat} {prio : Nat} {s t : State} (hs : Kept s.dev) (h : execPfcRepeat die port prio s = .next t) : Kept t.dev := by
  refine State.onEth_st _ _ _ s t (fun d hκ => ?_) hs h
  repeat' (first | with_reducible assumption | intro _ | (with_reducible refine Dev.pfcRepeat_st (hκ := ?_) ..) | (with_reducible apply Kept.ite) | (simp only [id_eq]) | split)

theorem execPauseExpire_kp {die : Nat} {port : Nat} {prio : Nat} {s t : State} (h : execPauseExpire die port prio s = .next t) : t.pending = s.pending ∧ Agree 0x400000000000000000000000000000000000000000000000000000000000000000000000000000000000000000000000000000000 s.dev t.dev := by
  refine State.onEth_kp _ _ _ s t (fun d => ?_) h
  repeat' (first | (with_reducible exact Agree.refl _ _) | with_reducible assumption | intro _ | (with_reducible refine Dev.pauseExpire_kp (hμ := (Within.refl _).up (by decide)) (hκ := ?_) ..) | (with_reducible apply Agree.ite) | (simp only [id_eq]) | split)

theorem execPauseExpire_st {die : Nat} {port : Nat} {prio : Nat} {s t : State} (hs : Kept s.dev) (h : execPauseExpire die port prio s = .next t) : Kept t.dev := by
  refine State.onEth_st _ _ _ s t (fun d hκ => ?_) hs h
  repeat' (first | with_reducible assumption | intro _ | (with_reducible refine Dev.pauseExpire_st (hκ := ?_) ..) | (with_reducible apply Kept.ite) | (simp only [id_eq]) | split)

theorem execPfcWatchdog_kp {die : Nat} {port : Nat} {prio : Nat} {s t : State} (h : execPfcWatchdog die port prio s = .next t) : t.pending = s.pending ∧ Agree 0x480000000000000245000000000000000000008000000000000000000000000000000000000000000000000000000000000000000 s.dev t.dev := by
  refine State.onEth_kp _ _ _ s t (fun d => ?_) h
  repeat' (first | (with_reducible exact Agree.refl _ _) | with_reducible assumption | intro _ | (with_reducible refine Dev.pfcWatchdog_kp (hμ := (Within.refl _).up (by decide)) (hκ := ?_) ..) | (with_reducible apply Agree.ite) | (simp only [id_eq]) | split)

theorem execPfcWatchdog_st {die : Nat} {port : Nat} {prio : Nat} {s t : State} (hs : Kept s.dev) (h : execPfcWatchdog die port prio s = .next t) : Kept t.dev := by
  refine State.onEth_st _ _ _ s t (fun d hκ => ?_) hs h
  repeat' (first | with_reducible assumption | intro _ | (with_reducible refine Dev.pfcWatchdog_st (hκ := ?_) ..) | (with_reducible apply Kept.ite) | (simp only [id_eq]) | split)

theorem execPfcWatchdogResume_kp {die : Nat} {port : Nat} {prio : Nat} {s t : State} (h : execPfcWatchdogResume die port prio s = .next t) : t.pending = s.pending ∧ Agree 0x400000000000000000000000000000000000000000000000000000000000000000000000000000000000000000000000000000000 s.dev t.dev := by
  refine State.onEth_kp _ _ _ s t (fun d => ?_) h
  repeat' (first | (with_reducible exact Agree.refl _ _) | with_reducible assumption | intro _ | (with_reducible refine Dev.pfcResume_kp (hμ := (Within.refl _).up (by decide)) (hκ := ?_) ..) | (with_reducible apply Agree.ite) | (simp only [id_eq]) | split)

theorem execPfcWatchdogResume_st {die : Nat} {port : Nat} {prio : Nat} {s t : State} (hs : Kept s.dev) (h : execPfcWatchdogResume die port prio s = .next t) : Kept t.dev := by
  refine State.onEth_st _ _ _ s t (fun d hκ => ?_) hs h
  repeat' (first | with_reducible assumption | intro _ | (with_reducible refine Dev.pfcResume_st (hκ := ?_) ..) | (with_reducible apply Kept.ite) | (simp only [id_eq]) | split)

theorem execCnpReceive_kp {die : Nat} {port : Nat} {s t : State} (h : execCnpReceive die port s = .next t) : t.pending = s.pending ∧ Agree 0xc00000000000000000000000000000000018000100000000000000000000000000000000000000000000000000000000000000000 s.dev t.dev := by
  refine State.onEth_kp _ _ _ s t (fun d => ?_) h
  repeat' (first | (with_reducible exact Agree.refl _ _) | with_reducible assumption | intro _ | (with_reducible refine Dev.cnpReceive_kp (hμ := (Within.refl _).up (by decide)) (hκ := ?_) ..) | (with_reducible apply Agree.ite) | (simp only [id_eq]) | split)

theorem execCnpReceive_st {die : Nat} {port : Nat} {s t : State} (hs : Kept s.dev) (h : execCnpReceive die port s = .next t) : Kept t.dev := by
  refine State.onEth_st _ _ _ s t (fun d hκ => ?_) hs h
  repeat' (first | with_reducible assumption | intro _ | (with_reducible refine Dev.cnpReceive_st (hκ := ?_) ..) | (with_reducible apply Kept.ite) | (simp only [id_eq]) | split)

theorem execCcRateIncrease_kp {qp : Nat} {s t : State} (h : execCcRateIncrease qp s = .next t) : t.pending = s.pending ∧ Agree 0x800000000000000000000000000000000000000100000000000000000000000000000000000000000000000000000000000000000 s.dev t.dev := by
  refine State.onCarrier_kp _ _ s t (fun d => ?_) h
  repeat' (first | (with_reducible exact Agree.refl _ _) | with_reducible assumption | intro _ | (with_reducible refine Dev.rateUp_kp (hμ := (Within.refl _).up (by decide)) (hκ := ?_) ..) | (with_reducible apply Agree.ite) | (simp only [id_eq]) | split)

theorem execCcRateIncrease_st {qp : Nat} {s t : State} (hs : Kept s.dev) (h : execCcRateIncrease qp s = .next t) : Kept t.dev := by
  refine State.onCarrier_st _ _ s t (fun d hκ => ?_) hs h
  repeat' (first | with_reducible assumption | intro _ | (with_reducible refine Dev.rateUp_st (hκ := ?_) ..) | (with_reducible apply Kept.ite) | (simp only [id_eq]) | split)

theorem execFrameEgress_kp {die : Nat} {port : Nat} {cls : Nat} {s t : State} (h : execFrameEgress die port cls s = .next t) : t.pending = s.pending ∧ Agree 0x480000000000000245000000000000000004c00000000000000000000000000000000000000000000000000000000000000000000 s.dev t.dev := by
  refine State.onEth_kp _ _ _ s t (fun d => ?_) h
  repeat' (first | (with_reducible exact Agree.refl _ _) | with_reducible assumption | intro _ | (with_reducible refine Dev.ethEgress_kp (hμ := (Within.refl _).up (by decide)) (hκ := ?_) ..) | (with_reducible apply Agree.ite) | (simp only [id_eq]) | split)

theorem execFrameEgress_st {die : Nat} {port : Nat} {cls : Nat} {s t : State} (hs : Kept s.dev) (h : execFrameEgress die port cls s = .next t) : Kept t.dev := by
  refine State.onEth_st _ _ _ s t (fun d hκ => ?_) hs h
  repeat' (first | with_reducible assumption | intro _ | (with_reducible refine Dev.ethEgress_st (hκ := ?_) ..) | (with_reducible apply Kept.ite) | (simp only [id_eq]) | split)

theorem execQpStateWrite_kp {die : Nat} {want : Nat} {s t : State} (h : execQpStateWrite die want s = .next t) : t.pending = s.pending ∧ Agree 0x8800000040000002450000000000000000000001c0080000000000000000000000000000000000000000000000000000000000000 s.dev t.dev := by
  refine State.onCarrier_kp _ _ s t (fun d => ?_) h
  repeat' (first | (with_reducible exact Agree.refl _ _) | with_reducible assumption | intro _ | (with_reducible refine Dev.qpState_kp (hμ := (Within.refl _).up (by decide)) (hκ := ?_) ..) | (with_reducible apply Agree.ite) | (simp only [id_eq]) | split)

theorem execQpStateWrite_st {die : Nat} {want : Nat} {s t : State} (hs : Kept s.dev) (h : execQpStateWrite die want s = .next t) : Kept t.dev := by
  refine State.onCarrier_st _ _ s t (fun d hκ => ?_) hs h
  repeat' (first | with_reducible assumption | intro _ | (with_reducible refine Dev.qpState_st (hκ := ?_) ..) | (with_reducible apply Kept.ite) | (simp only [id_eq]) | split)

theorem execRdmaAckReceive_kp {die : Nat} {port : Nat} {s t : State} (h : execRdmaAckReceive die port s = .next t) : t.pending = s.pending ∧ Agree 0xc00000004000000000000000000000000008000080200000000000000000000000000000000000000000000000000000000000000 s.dev t.dev := by
  refine State.onEth_kp _ _ _ s t (fun d => ?_) h
  repeat' (first | (with_reducible exact Agree.refl _ _) | with_reducible assumption | intro _ | (with_reducible refine Dev.rdmaAck_kp (hμ := (Within.refl _).up (by decide)) (hκ := ?_) ..) | (with_reducible apply Agree.ite) | (simp only [id_eq]) | split)

theorem execRdmaAckReceive_st {die : Nat} {port : Nat} {s t : State} (hs : Kept s.dev) (h : execRdmaAckReceive die port s = .next t) : Kept t.dev := by
  refine State.onEth_st _ _ _ s t (fun d hκ => ?_) hs h
  repeat' (first | with_reducible assumption | intro _ | (with_reducible refine Dev.rdmaAck_st (hκ := ?_) ..) | (with_reducible apply Kept.ite) | (simp only [id_eq]) | split)

theorem execRdmaNakReceive_kp {die : Nat} {port : Nat} {s t : State} (h : execRdmaNakReceive die port s = .next t) : t.pending = s.pending ∧ Agree 0xc80000004000000245000000000000000008000080280000000000000000000000000000000000000000000000000000000000000 s.dev t.dev := by
  refine State.onEth_kp _ _ _ s t (fun d => ?_) h
  repeat' (first | (with_reducible exact Agree.refl _ _) | with_reducible assumption | intro _ | (with_reducible refine Dev.rdmaNak_kp (hμ := (Within.refl _).up (by decide)) (hκ := ?_) ..) | (with_reducible apply Agree.ite) | (simp only [id_eq]) | split)

theorem execRdmaNakReceive_st {die : Nat} {port : Nat} {s t : State} (hs : Kept s.dev) (h : execRdmaNakReceive die port s = .next t) : Kept t.dev := by
  refine State.onEth_st _ _ _ s t (fun d hκ => ?_) hs h
  repeat' (first | with_reducible assumption | intro _ | (with_reducible refine Dev.rdmaNak_st (hκ := ?_) ..) | (with_reducible apply Kept.ite) | (simp only [id_eq]) | split)

theorem execRdmaReadResponse_kp {die : Nat} {port : Nat} {s t : State} (h : execRdmaReadResponse die port s = .next t) : t.pending = s.pending ∧ Agree 0xc00000004000000000000000000000000008000080200000000000000000000000000000000000000000000000000000000000000 s.dev t.dev := by
  refine State.onEth_kp _ _ _ s t (fun d => ?_) h
  repeat' (first | (with_reducible exact Agree.refl _ _) | with_reducible assumption | intro _ | (with_reducible refine Dev.rdmaReadRsp_kp (hμ := (Within.refl _).up (by decide)) (hκ := ?_) ..) | (with_reducible apply Agree.ite) | (simp only [id_eq]) | split)

theorem execRdmaReadResponse_st {die : Nat} {port : Nat} {s t : State} (hs : Kept s.dev) (h : execRdmaReadResponse die port s = .next t) : Kept t.dev := by
  refine State.onEth_st _ _ _ s t (fun d hκ => ?_) hs h
  repeat' (first | with_reducible assumption | intro _ | (with_reducible refine Dev.rdmaReadRsp_st (hκ := ?_) ..) | (with_reducible apply Kept.ite) | (simp only [id_eq]) | split)

theorem execRdmaRetransmitTimeout_kp {qp : Nat} {s t : State} (h : execRdmaRetransmitTimeout qp s = .next t) : t.pending = s.pending ∧ Agree 0xc80000004000000245000000000000000000000080080000000000000000000000000000000000000000000000000000000000000 s.dev t.dev := by
  refine State.onCarrier_kp _ _ s t (fun d => ?_) h
  repeat' (first | (with_reducible exact Agree.refl _ _) | with_reducible assumption | intro _ | (with_reducible refine Dev.qpTimeout_kp (hμ := (Within.refl _).up (by decide)) (hκ := ?_) ..) | (with_reducible apply Agree.ite) | (simp only [id_eq]) | split)

theorem execRdmaRetransmitTimeout_st {qp : Nat} {s t : State} (hs : Kept s.dev) (h : execRdmaRetransmitTimeout qp s = .next t) : Kept t.dev := by
  refine State.onCarrier_st _ _ s t (fun d hκ => ?_) hs h
  repeat' (first | with_reducible assumption | intro _ | (with_reducible refine Dev.qpTimeout_st (hκ := ?_) ..) | (with_reducible apply Kept.ite) | (simp only [id_eq]) | split)

theorem execRdmaWrite_kp {die : Nat} {port : Nat} {s t : State} (h : execRdmaWrite die port s = .next t) : t.pending = s.pending ∧ Agree 0xc8000000e000000245000000000000000008000080480000000000000000000000000000000000000000000000000000000000000 s.dev t.dev := by
  refine State.onEth_kp _ _ _ s t (fun d => ?_) h
  repeat' (first | (with_reducible exact Agree.refl _ _) | with_reducible assumption | intro _ | (with_reducible refine Dev.rdmaWrite_kp (hμ := (Within.refl _).up (by decide)) (hκ := ?_) ..) | (with_reducible apply Agree.ite) | (simp only [id_eq]) | split)

theorem execRdmaWrite_st {die : Nat} {port : Nat} {s t : State} (hs : Kept s.dev) (h : execRdmaWrite die port s = .next t) : Kept t.dev := by
  refine State.onEth_st _ _ _ s t (fun d hκ => ?_) hs h
  repeat' (first | with_reducible assumption | intro _ | (with_reducible refine Dev.rdmaWrite_st (hκ := ?_) ..) | (with_reducible apply Kept.ite) | (simp only [id_eq]) | split)

theorem execRdmaRead_kp {die : Nat} {port : Nat} {s t : State} (h : execRdmaRead die port s = .next t) : t.pending = s.pending ∧ Agree 0xc8000000e000000245000000000000000008000080480000000000000000000000000000000000000000000000000000000000000 s.dev t.dev := by
  refine State.onEth_kp _ _ _ s t (fun d => ?_) h
  repeat' (first | (with_reducible exact Agree.refl _ _) | with_reducible assumption | intro _ | (with_reducible refine Dev.rdmaRead_kp (hμ := (Within.refl _).up (by decide)) (hκ := ?_) ..) | (with_reducible apply Agree.ite) | (simp only [id_eq]) | split)

theorem execRdmaRead_st {die : Nat} {port : Nat} {s t : State} (hs : Kept s.dev) (h : execRdmaRead die port s = .next t) : Kept t.dev := by
  refine State.onEth_st _ _ _ s t (fun d hκ => ?_) hs h
  repeat' (first | with_reducible assumption | intro _ | (with_reducible refine Dev.rdmaRead_st (hκ := ?_) ..) | (with_reducible apply Kept.ite) | (simp only [id_eq]) | split)

theorem execSendIn_kp {die : Nat} {port : Nat} {s t : State} (h : execSendIn die port s = .next t) : t.pending = s.pending ∧ Agree 0xc8000000e0000002450000000000000000080000c0480000000000000000000000000000000000000000000000000000000000000 s.dev t.dev := by
  refine State.onEth_kp _ _ _ s t (fun d => ?_) h
  repeat' (first | (with_reducible exact Agree.refl _ _) | with_reducible assumption | intro _ | (with_reducible refine Dev.rdmaSend_kp (hμ := (Within.refl _).up (by decide)) (hκ := ?_) ..) | (with_reducible apply Agree.ite) | (simp only [id_eq]) | split)

theorem execSendIn_st {die : Nat} {port : Nat} {s t : State} (hs : Kept s.dev) (h : execSendIn die port s = .next t) : Kept t.dev := by
  refine State.onEth_st _ _ _ s t (fun d hκ => ?_) hs h
  repeat' (first | with_reducible assumption | intro _ | (with_reducible refine Dev.rdmaSend_st (hκ := ?_) ..) | (with_reducible apply Kept.ite) | (simp only [id_eq]) | split)

theorem execMailboxRequest_kp {die : Nat} {port : Nat} {s t : State} (h : execMailboxRequest die port s = .next t) : t.pending = s.pending ∧ Agree 0x1400000000000000000000000000000202da8000000000000000000000000000000000000000000000000000000000000000000000 s.dev t.dev := by
  refine State.onEth_kp _ _ _ s t (fun d => ?_) h
  repeat' (first | (with_reducible exact Agree.refl _ _) | with_reducible assumption | intro _ | (with_reducible refine Dev.mbxRequest_kp (hμ := (Within.refl _).up (by decide)) (hκ := ?_) ..) | (with_reducible apply Agree.ite) | (simp only [id_eq]) | split)

theorem execMailboxRequest_st {die : Nat} {port : Nat} {s t : State} (hs : Kept s.dev) (h : execMailboxRequest die port s = .next t) : Kept t.dev := by
  refine State.onEth_st _ _ _ s t (fun d hκ => ?_) hs h
  repeat' (first | with_reducible assumption | intro _ | (with_reducible refine Dev.mbxRequest_st (hκ := ?_) ..) | (with_reducible apply Kept.ite) | (simp only [id_eq]) | split)

theorem execReplySend_kp {by_ : Nat} {die : Nat} {len : Nat} {s t : State} (h : execReplySend by_ die len s = .next t) : t.pending = s.pending ∧ Agree 0x1400000000000000000000000004000002000000000000000000000000000000000000000000000000000000000000000000000000 s.dev t.dev := by
  refine State.onCarrier_kp _ _ s t (fun d => ?_) h
  repeat' (first | (with_reducible exact Agree.refl _ _) | with_reducible assumption | intro _ | (with_reducible refine Dev.octlWrite_kp (hμ := (Within.refl _).up (by decide)) (hκ := ?_) ..) | (with_reducible apply Agree.ite) | (simp only [id_eq]) | split)

theorem execReplySend_st {by_ : Nat} {die : Nat} {len : Nat} {s t : State} (hs : Kept s.dev) (h : execReplySend by_ die len s = .next t) : Kept t.dev := by
  refine State.onCarrier_st _ _ s t (fun d hκ => ?_) hs h
  repeat' (first | with_reducible assumption | intro _ | (with_reducible refine Dev.octlWrite_st (hκ := ?_) ..) | (with_reducible apply Kept.ite) | (simp only [id_eq]) | split)

theorem execEventSend_kp {by_ : Nat} {die : Nat} {sub : Nat} {len : Nat} {s t : State} (h : execEventSend by_ die sub len s = .next t) : t.pending = s.pending ∧ Agree 0x400000000000000000000000004000104000000000000000000000000000000000000000000000000000000000000000000000000 s.dev t.dev := by
  refine State.onCarrier_kp _ _ s t (fun d => ?_) h
  repeat' (first | (with_reducible exact Agree.refl _ _) | with_reducible assumption | intro _ | (with_reducible refine Dev.ectlWrite_kp (hμ := (Within.refl _).up (by decide)) (hκ := ?_) ..) | (with_reducible apply Agree.ite) | (simp only [id_eq]) | split)

theorem execEventSend_st {by_ : Nat} {die : Nat} {sub : Nat} {len : Nat} {s t : State} (hs : Kept s.dev) (h : execEventSend by_ die sub len s = .next t) : Kept t.dev := by
  refine State.onCarrier_st _ _ s t (fun d hκ => ?_) hs h
  repeat' (first | with_reducible assumption | intro _ | (with_reducible refine Dev.ectlWrite_st (hκ := ?_) ..) | (with_reducible apply Kept.ite) | (simp only [id_eq]) | split)

theorem execFaultPost_kp {die : Nat} {s t : State} (h : execFaultPost die s = .next t) : t.pending = s.pending ∧ Agree 0x80000000000000345000000000000000000000000000000000000000000000000000000000000000000000000000000000000000 s.dev t.dev := by
  refine State.onKept_kp _ _ s t (fun d => ?_) h
  repeat' (first | (with_reducible exact Agree.refl _ _) | with_reducible assumption | intro _ | (with_reducible refine Dev.fltPost_kp (hμ := (Within.refl _).up (by decide)) (hκ := ?_) ..) | (with_reducible apply Agree.ite) | (simp only [id_eq]) | split)

theorem execFaultPost_st {die : Nat} {s t : State} (hs : Kept s.dev) (h : execFaultPost die s = .next t) : Kept t.dev := by
  refine State.onKept_st _ _ s t (fun d hκ => ?_) hs h
  repeat' (first | with_reducible assumption | intro _ | (with_reducible refine Dev.fltPost_st (hκ := ?_) ..) | (with_reducible apply Kept.ite) | (simp only [id_eq]) | split)

theorem execFaultPop_kp {die : Nat} {count : Nat} {s t : State} (h : execFaultPop die count s = .next t) : t.pending = s.pending ∧ Agree 0x3000000000000000000000000000000000000000000000000000000000000000000000000000000000000000 s.dev t.dev := by
  refine State.onKept_kp _ _ s t (fun d => ?_) h
  repeat' (first | (with_reducible exact Agree.refl _ _) | with_reducible assumption | intro _ | (with_reducible refine Dev.fltPop_kp (hμ := (Within.refl _).up (by decide)) (hκ := ?_) ..) | (with_reducible refine Dev.count_kp (hf := (Within.refl _).bit (by decide)) (hμ := (Within.refl _).up (by decide)) (hκ := ?_) ..) | (with_reducible apply Agree.ite) | (simp only [id_eq]) | split)

theorem execFaultPop_st {die : Nat} {count : Nat} {s t : State} (hs : Kept s.dev) (h : execFaultPop die count s = .next t) : Kept t.dev := by
  refine State.onKept_st _ _ s t (fun d hκ => ?_) hs h
  repeat' (first | with_reducible assumption | intro _ | (with_reducible refine Dev.fltPop_st (hκ := ?_) ..) | (with_reducible refine Dev.count_fst (hκ := ?_) ..) | (with_reducible apply Kept.ite) | (simp only [id_eq]) | split)

theorem execAgeSample_kp {die : Nat} {res : AgeRes} {s t : State} (h : execAgeSample die res s = .next t) : t.pending = s.pending ∧ Agree 0x10080000000000049345000000000000000000000000000000000000000080000000000000000000000010000000000000000000000 s.dev t.dev := by
  refine State.onAon_kp _ _ s t (fun d => ?_) h
  repeat' (first | (with_reducible exact Agree.refl _ _) | with_reducible assumption | intro _ | (with_reducible refine Dev.ageSample_kp (hμ := (Within.refl _).up (by decide)) (hκ := ?_) ..) | (with_reducible apply Agree.ite) | (simp only [id_eq]) | split)

theorem execAgeSample_st {die : Nat} {res : AgeRes} {s t : State} (hs : Kept s.dev) (h : execAgeSample die res s = .next t) : Kept t.dev := by
  refine State.onAon_st _ _ s t (fun d hκ => ?_) hs h
  repeat' (first | with_reducible assumption | intro _ | (with_reducible refine Dev.ageSample_st (hκ := ?_) ..) | (with_reducible apply Kept.ite) | (simp only [id_eq]) | split)

theorem execAgeSampleNow_kp {die : Nat} {res : AgeRes} {s t : State} (h : execAgeSampleNow die res s = .next t) : t.pending = s.pending ∧ Agree 0x80000000000049345000000000000000000000000000000000000000080000000000000000000000010000000000000000000000 s.dev t.dev := by
  refine State.onAon_kp _ _ s t (fun d => ?_) h
  repeat' (first | (with_reducible exact Agree.refl _ _) | with_reducible assumption | intro _ | (with_reducible refine Dev.ageNow_kp (hμ := (Within.refl _).up (by decide)) (hκ := ?_) ..) | (with_reducible apply Agree.ite) | (simp only [id_eq]) | split)

theorem execAgeSampleNow_st {die : Nat} {res : AgeRes} {s t : State} (hs : Kept s.dev) (h : execAgeSampleNow die res s = .next t) : Kept t.dev := by
  refine State.onAon_st _ _ s t (fun d hκ => ?_) hs h
  repeat' (first | with_reducible assumption | intro _ | (with_reducible refine Dev.ageNow_st (hκ := ?_) ..) | (with_reducible apply Kept.ite) | (simp only [id_eq]) | split)

theorem execMarginEvaluate_kp {die : Nat} {s t : State} (h : execMarginEvaluate die s = .next t) : t.pending = s.pending ∧ Agree 0x2480000000000000245000000004002904000000000000000000000000000000000000000000000000000000000000000000000000 s.dev t.dev := by
  refine State.onCarrier_kp _ _ s t (fun d => ?_) h
  repeat' (first | (with_reducible exact Agree.refl _ _) | with_reducible assumption | intro _ | (with_reducible refine Dev.marginEval_kp (hμ := (Within.refl _).up (by decide)) (hκ := ?_) ..) | (with_reducible apply Agree.ite) | (simp only [id_eq]) | split)

theorem execMarginEvaluate_st {die : Nat} {s t : State} (hs : Kept s.dev) (h : execMarginEvaluate die s = .next t) : Kept t.dev := by
  refine State.onCarrier_st _ _ s t (fun d hκ => ?_) hs h
  repeat' (first | with_reducible assumption | intro _ | (with_reducible refine Dev.marginEval_st (hκ := ?_) ..) | (with_reducible apply Kept.ite) | (simp only [id_eq]) | split)

theorem execI3cPrivateRead_kp {die : Nat} {addr : Nat} {len : Nat} {s t : State} (h : execI3cPrivateRead die addr len s = .next t) : t.pending = s.pending ∧ Agree 0x80000000000000000000000000000000000000000000000000000000000000000000000000000000000000000000000000000000000 s.dev t.dev := by
  refine State.onAon_kp _ _ s t (fun d => ?_) h
  repeat' (first | (with_reducible exact Agree.refl _ _) | with_reducible assumption | intro _ | (with_reducible refine Dev.i3cRead_kp (hμ := (Within.refl _).up (by decide)) (hκ := ?_) ..) | (with_reducible apply Agree.ite) | (simp only [id_eq]) | split)

theorem execI3cPrivateRead_st {die : Nat} {addr : Nat} {len : Nat} {s t : State} (hs : Kept s.dev) (h : execI3cPrivateRead die addr len s = .next t) : Kept t.dev := by
  refine State.onAon_st _ _ s t (fun d hκ => ?_) hs h
  repeat' (first | with_reducible assumption | intro _ | (with_reducible refine Dev.i3cRead_st (hκ := ?_) ..) | (with_reducible apply Kept.ite) | (simp only [id_eq]) | split)

theorem execI3cPrivateWrite_kp {die : Nat} {addr : Nat} {s t : State} (h : execI3cPrivateWrite die addr s = .next t) : t.pending = s.pending ∧ Agree 0x80000000000000000000000000000000000000000000000000000000000000000000000000000000000000000000000000000000000 s.dev t.dev := by
  refine State.onAon_kp _ _ s t (fun d => ?_) h
  repeat' (first | (with_reducible exact Agree.refl _ _) | with_reducible assumption | intro _ | (with_reducible refine Dev.i3cWrite_kp (hμ := (Within.refl _).up (by decide)) (hκ := ?_) ..) | (with_reducible apply Agree.ite) | (simp only [id_eq]) | split)

theorem execI3cPrivateWrite_st {die : Nat} {addr : Nat} {s t : State} (hs : Kept s.dev) (h : execI3cPrivateWrite die addr s = .next t) : Kept t.dev := by
  refine State.onAon_st _ _ s t (fun d hκ => ?_) hs h
  repeat' (first | with_reducible assumption | intro _ | (with_reducible refine Dev.i3cWrite_st (hκ := ?_) ..) | (with_reducible apply Kept.ite) | (simp only [id_eq]) | split)

theorem execI3cCcc_kp {die : Nat} {code : Nat} {addr : Nat} {s t : State} (h : execI3cCcc die code addr s = .next t) : t.pending = s.pending ∧ Agree 0xc0000000000000000000000000000000000000000000000000000000000000000000000000000000000000000000000000000000000 s.dev t.dev := by
  refine State.onAon_kp _ _ s t (fun d => ?_) h
  repeat' (first | (with_reducible exact Agree.refl _ _) | with_reducible assumption | intro _ | (with_reducible refine Dev.i3cCcc_kp (hμ := (Within.refl _).up (by decide)) (hκ := ?_) ..) | (with_reducible apply Agree.ite) | (simp only [id_eq]) | split)

theorem execI3cCcc_st {die : Nat} {code : Nat} {addr : Nat} {s t : State} (hs : Kept s.dev) (h : execI3cCcc die code addr s = .next t) : Kept t.dev := by
  refine State.onAon_st _ _ s t (fun d hκ => ?_) hs h
  repeat' (first | with_reducible assumption | intro _ | (with_reducible refine Dev.i3cCcc_st (hκ := ?_) ..) | (with_reducible apply Kept.ite) | (simp only [id_eq]) | split)

theorem execI3cBlockRefresh_kp {die : Nat} {s t : State} (h : execI3cBlockRefresh die s = .next t) : t.pending = s.pending ∧ Agree 0x40000000000000000000000000000000000000000000000000000000000000000000000000000000000000000000000000000000000 s.dev t.dev := by
  refine State.onAon_kp _ _ s t (fun d => ?_) h
  repeat' (first | (with_reducible exact Agree.refl _ _) | with_reducible assumption | intro _ | (with_reducible refine Dev.i3cRefresh_kp (hμ := (Within.refl _).up (by decide)) (hκ := ?_) ..) | (with_reducible apply Agree.ite) | (simp only [id_eq]) | split)

theorem execI3cBlockRefresh_st {die : Nat} {s t : State} (hs : Kept s.dev) (h : execI3cBlockRefresh die s = .next t) : Kept t.dev := by
  refine State.onAon_st _ _ s t (fun d hκ => ?_) hs h
  repeat' (first | with_reducible assumption | intro _ | (with_reducible refine Dev.i3cRefresh_st (hκ := ?_) ..) | (with_reducible apply Kept.ite) | (simp only [id_eq]) | split)

theorem execLocalCounterTick_kp {die : Nat} {s t : State} (h : execLocalCounterTick die s = .next t) : t.pending = s.pending ∧ Agree 0x40000000000000000000000000000000000000000000000000000000000000000000000000000000000000000000000 s.dev t.dev := by
  refine State.onAon_kp _ _ s t (fun d => ?_) h
  repeat' (first | (with_reducible exact Agree.refl _ _) | with_reducible assumption | intro _ | (with_reducible refine Dev.tickUp_kp (hμ := (Within.refl _).up (by decide)) (hκ := ?_) ..) | (with_reducible apply Agree.ite) | (simp only [id_eq]) | split)

theorem execLocalCounterTick_st {die : Nat} {s t : State} (hs : Kept s.dev) (h : execLocalCounterTick die s = .next t) : Kept t.dev := by
  refine State.onAon_st _ _ s t (fun d hκ => ?_) hs h
  repeat' (first | with_reducible assumption | intro _ | (with_reducible refine Dev.tickUp_st (hκ := ?_) ..) | (with_reducible apply Kept.ite) | (simp only [id_eq]) | split)

theorem execBuiltInSelfTestEnd_kp {die : Nat} {slices : Nat} {arrays : Bool} {s t : State} (h : execBuiltInSelfTestEnd die slices arrays s = .next t) : t.pending = s.pending ∧ Agree 0x37ffffffffedbf2ffffffffffffffffffffffffffffffffffffffffffffffffffffffffffffffffffffffffffffffffffffffffffff s.dev t.dev := by
  refine State.onCarrier_kp _ _ s t (fun d => ?_) h
  repeat' (first | (with_reducible exact Agree.refl _ _) | with_reducible assumption | intro _ | (with_reducible refine Dev.bistEnd_kp (hμ := (Within.refl _).up (by decide)) (hκ := ?_) ..) | (with_reducible apply Agree.ite) | (simp only [id_eq]) | split)

theorem execBuiltInSelfTestEnd_st {die : Nat} {slices : Nat} {arrays : Bool} {s t : State} (hs : Kept s.dev) (h : execBuiltInSelfTestEnd die slices arrays s = .next t) : Kept t.dev := by
  refine State.onCarrier_st _ _ s t (fun d hκ => ?_) hs h
  repeat' (first | with_reducible assumption | intro _ | (with_reducible refine Dev.bistEnd_st (hκ := ?_) ..) | (with_reducible apply Kept.ite) | (simp only [id_eq]) | split)

theorem execChunkSendComplete_kp {die : Nat} {s t : State} (h : execChunkSendComplete die s = .next t) : t.pending = s.pending ∧ Agree 0x4000000000000000000000000000000000000000000000000000000000000000000000000000000000000 s.dev t.dev := by
  refine State.onCarrier_kp _ _ s t (fun d => ?_) h
  repeat' (first | (with_reducible exact Agree.refl _ _) | with_reducible assumption | intro _ | (with_reducible refine Dev.chunkSent_kp (hμ := (Within.refl _).up (by decide)) (hκ := ?_) ..) | (with_reducible apply Agree.ite) | (simp only [id_eq]) | split)

theorem execChunkSendComplete_st {die : Nat} {s t : State} (hs : Kept s.dev) (h : execChunkSendComplete die s = .next t) : Kept t.dev := by
  refine State.onCarrier_st _ _ s t (fun d hκ => ?_) hs h
  repeat' (first | with_reducible assumption | intro _ | (with_reducible refine Dev.chunkSent_st (hκ := ?_) ..) | (with_reducible apply Kept.ite) | (simp only [id_eq]) | split)

theorem execEventSendComplete_kp {die : Nat} {s t : State} (h : execEventSendComplete die s = .next t) : t.pending = s.pending ∧ Agree 0x4000000000000000000000000000000000000000000000000000000000000000000000000 s.dev t.dev := by
  refine State.onCarrier_kp _ _ s t (fun d => ?_) h
  repeat' (first | (with_reducible exact Agree.refl _ _) | with_reducible assumption | intro _ | (with_reducible refine Dev.eventDone_kp (hμ := (Within.refl _).up (by decide)) (hκ := ?_) ..) | (with_reducible apply Agree.ite) | (simp only [id_eq]) | split)

theorem execEventSendComplete_st {die : Nat} {s t : State} (hs : Kept s.dev) (h : execEventSendComplete die s = .next t) : Kept t.dev := by
  refine State.onCarrier_st _ _ s t (fun d hκ => ?_) hs h
  repeat' (first | with_reducible assumption | intro _ | (with_reducible refine Dev.eventDone_st (hκ := ?_) ..) | (with_reducible apply Kept.ite) | (simp only [id_eq]) | split)

theorem execPortSleepWaitTimeout_kp {port : Nat} {s t : State} (h : execPortSleepWaitTimeout port s = .next t) : t.pending = s.pending ∧ Agree 0x38010003e004000245000000000000000000000000000e04c64008000000001000004000000000000000000000000101f20000000 s.dev t.dev := by
  refine State.onPort_kp _ _ s t (fun d => ?_) h
  repeat' (first | (with_reducible exact Agree.refl _ _) | with_reducible assumption | intro _ | (with_reducible refine Dev.portSleepTimeout_kp (hμ := (Within.refl _).up (by decide)) (hκ := ?_) ..) | (with_reducible apply Agree.ite) | (simp only [id_eq]) | split)

theorem execPortSleepWaitTimeout_st {port : Nat} {s t : State} (hs : Kept s.dev) (h : execPortSleepWaitTimeout port s = .next t) : Kept t.dev := by
  refine State.onPort_st _ _ s t (fun d hκ => ?_) hs h
  repeat' (first | with_reducible assumption | intro _ | (with_reducible refine Dev.portSleepTimeout_st (hκ := ?_) ..) | (with_reducible apply Kept.ite) | (simp only [id_eq]) | split)

theorem execWardRelayTimeout_kp {die : Nat} {s t : State} (h : execWardRelayTimeout die s = .next t) : t.pending = s.pending ∧ Agree 0x9400000000000000000000000000000402000000000000000000000000000000000000000000000000000000000000000000000000 s.dev t.dev := by
  refine State.onCarrier_kp _ _ s t (fun d => ?_) h
  repeat' (first | (with_reducible exact Agree.refl _ _) | with_reducible assumption | intro _ | (with_reducible refine Dev.wardTimeout_kp (hμ := (Within.refl _).up (by decide)) (hκ := ?_) ..) | (with_reducible apply Agree.ite) | (simp only [id_eq]) | split)

theorem execWardRelayTimeout_st {die : Nat} {s t : State} (hs : Kept s.dev) (h : execWardRelayTimeout die s = .next t) : Kept t.dev := by
  refine State.onCarrier_st _ _ s t (fun d hκ => ?_) hs h
  repeat' (first | with_reducible assumption | intro _ | (with_reducible refine Dev.wardTimeout_st (hκ := ?_) ..) | (with_reducible apply Kept.ite) | (simp only [id_eq]) | split)

theorem execHbmRequestAdmit_kp {die : Nat} {grp : Nat} {bkt : Nat} {cycles : Nat} {s t : State} (h : execHbmRequestAdmit die grp bkt cycles s = .next t) : t.pending = s.pending ∧ Agree 0x80000b8403c0002450000000000000000000000000000000000000000000000000000000003b303de00000000000000000000000 s.dev t.dev := by
  refine State.onCarrier_kp _ _ s t (fun d => ?_) h
  repeat' (first | (with_reducible exact Agree.refl _ _) | with_reducible assumption | intro _ | (with_reducible refine Dev.hbAdmit_kp (hμ := (Within.refl _).up (by decide)) (hκ := ?_) ..) | (with_reducible apply Agree.ite) | (simp only [id_eq]) | split)

theorem execHbmRequestAdmit_st {die : Nat} {grp : Nat} {bkt : Nat} {cycles : Nat} {s t : State} (hs : Kept s.dev) (h : execHbmRequestAdmit die grp bkt cycles s = .next t) : Kept t.dev := by
  refine State.onCarrier_st _ _ s t (fun d hκ => ?_) hs h
  repeat' (first | with_reducible assumption | intro _ | (with_reducible refine Dev.hbAdmit_st (hκ := ?_) ..) | (with_reducible apply Kept.ite) | (simp only [id_eq]) | split)

theorem execHbmReadServe_kp {die : Nat} {chan : Nat} {place : Nat} {ups : List (Nat × Nat)} {again : List (Nat × Nat)} {s t : State} (h : execHbmReadServe die chan place ups again s = .next t) : t.pending = s.pending ∧ Agree 0x80000d0403c0002450000000000000000000000000000000000000000000000000000000003b303c060000000000000000000000 s.dev t.dev := by
  refine State.onCarrier_kp _ _ s t (fun d => ?_) h
  repeat' (first | (with_reducible exact Agree.refl _ _) | with_reducible assumption | intro _ | (with_reducible refine Dev.upset_kp (hμ := (Within.refl _).up (by decide)) (hκ := ?_) ..) | (with_reducible refine Dev.hbServe_kp (hμ := (Within.refl _).up (by decide)) (hκ := ?_) ..) | (with_reducible apply Agree.ite) | (simp only [id_eq]) | split)

theorem execHbmReadServe_st {die : Nat} {chan : Nat} {place : Nat} {ups : List (Nat × Nat)} {again : List (Nat × Nat)} {s t : State} (hs : Kept s.dev) (h : execHbmReadServe die chan place ups again s = .next t) : Kept t.dev := by
  refine State.onCarrier_st _ _ s t (fun d hκ => ?_) hs h
  repeat' (first | with_reducible assumption | intro _ | (with_reducible refine Dev.upset_st (hκ := ?_) ..) | (with_reducible refine Dev.hbServe_st (hκ := ?_) ..) | (with_reducible apply Kept.ite) | (simp only [id_eq]) | split)

theorem execHbmWriteBatchDrain_kp {die : Nat} {chan : Nat} {s t : State} (h : execHbmWriteBatchDrain die chan s = .next t) : t.pending = s.pending ∧ Agree 0x600000000000000000000000000000000000000000000000000000000000000000000000000060000000000000000000000 s.dev t.dev := by
  refine State.onCarrier_kp _ _ s t (fun d => ?_) h
  repeat' (first | (with_reducible exact Agree.refl _ _) | with_reducible assumption | intro _ | (with_reducible refine Dev.wrDrain_kp (hμ := (Within.refl _).up (by decide)) (hκ := ?_) ..) | (with_reducible apply Agree.ite) | (simp only [id_eq]) | split)

theorem execHbmWriteBatchDrain_st {die : Nat} {chan : Nat} {s t : State} (hs : Kept s.dev) (h : execHbmWriteBatchDrain die chan s = .next t) : Kept t.dev := by
  refine State.onCarrier_st _ _ s t (fun d hκ => ?_) hs h
  repeat' (first | with_reducible assumption | intro _ | (with_reducible refine Dev.wrDrain_st (hκ := ?_) ..) | (with_reducible apply Kept.ite) | (simp only [id_eq]) | split)

theorem execRowCloseTimeout_kp {die : Nat} {pc : Nat} {bank : Nat} {s t : State} (h : execRowCloseTimeout die pc bank s = .next t) : t.pending = s.pending ∧ Agree 0x400000000000000000000000000000000000000000000000000000000000000000000000000000000000000000000000000 s.dev t.dev := by
  refine State.onCarrier_kp _ _ s t (fun d => ?_) h
  repeat' (first | (with_reducible exact Agree.refl _ _) | with_reducible assumption | intro _ | (with_reducible refine Dev.rowClose_kp (hμ := (Within.refl _).up (by decide)) (hκ := ?_) ..) | (with_reducible apply Agree.ite) | (simp only [id_eq]) | split)

theorem execRowCloseTimeout_st {die : Nat} {pc : Nat} {bank : Nat} {s t : State} (hs : Kept s.dev) (h : execRowCloseTimeout die pc bank s = .next t) : Kept t.dev := by
  refine State.onCarrier_st _ _ s t (fun d hκ => ?_) hs h
  repeat' (first | with_reducible assumption | intro _ | (with_reducible refine Dev.rowClose_st (hκ := ?_) ..) | (with_reducible apply Kept.ite) | (simp only [id_eq]) | split)

theorem execHbmRefresh_kp {die : Nat} {stack : Nat} {s t : State} (h : execHbmRefresh die stack s = .next t) : t.pending = s.pending ∧ Agree 0x400000000000000000000 s.dev t.dev := by
  refine State.onKept_kp _ _ s t (fun d => ?_) h
  repeat' (first | (with_reducible exact Agree.refl _ _) | with_reducible assumption | intro _ | (with_reducible refine Dev.hbRefresh_kp (hμ := (Within.refl _).up (by decide)) (hκ := ?_) ..) | (with_reducible apply Agree.ite) | (simp only [id_eq]) | split)

theorem execHbmRefresh_st {die : Nat} {stack : Nat} {s t : State} (hs : Kept s.dev) (h : execHbmRefresh die stack s = .next t) : Kept t.dev := by
  refine State.onKept_st _ _ s t (fun d hκ => ?_) hs h
  repeat' (first | with_reducible assumption | intro _ | (with_reducible refine Dev.hbRefresh_st (hκ := ?_) ..) | (with_reducible apply Kept.ite) | (simp only [id_eq]) | split)

theorem execHbmTempSample_kp {die : Nat} {stack : Nat} {temp : Nat} {s t : State} (h : execHbmTempSample die stack temp s = .next t) : t.pending = s.pending ∧ Agree 0x80000800000000245000000000000000000000000000000000000000000000000000000000000000000c00000000000000000000 s.dev t.dev := by
  refine State.onKept_kp _ _ s t (fun d => ?_) h
  repeat' (first | (with_reducible exact Agree.refl _ _) | with_reducible assumption | intro _ | (with_reducible refine Dev.hbTemp_kp (hμ := (Within.refl _).up (by decide)) (hκ := ?_) ..) | (with_reducible apply Agree.ite) | (simp only [id_eq]) | split)

theorem execHbmTempSample_st {die : Nat} {stack : Nat} {temp : Nat} {s t : State} (hs : Kept s.dev) (h : execHbmTempSample die stack temp s = .next t) : Kept t.dev := by
  refine State.onKept_st _ _ s t (fun d hκ => ?_) hs h
  repeat' (first | with_reducible assumption | intro _ | (with_reducible refine Dev.hbTemp_st (hκ := ?_) ..) | (with_reducible apply Kept.ite) | (simp only [id_eq]) | split)

theorem execHbmTrain_kp {die : Nat} {stack : Nat} {s t : State} (h : execHbmTrain die stack s = .next t) : t.pending = s.pending ∧ Agree 0x200000000000000000000000000000000000000000000000000000000000000000000000000000400000000000000000000 s.dev t.dev := by
  refine State.onCarrier_kp _ _ s t (fun d => ?_) h
  repeat' (first | (with_reducible exact Agree.refl _ _) | with_reducible assumption | intro _ | (with_reducible refine Dev.hbCtlWrite_kp (hμ := (Within.refl _).up (by decide)) (hκ := ?_) ..) | (with_reducible apply Agree.ite) | (simp only [id_eq]) | split)

theorem execHbmTrain_st {die : Nat} {stack : Nat} {s t : State} (hs : Kept s.dev) (h : execHbmTrain die stack s = .next t) : Kept t.dev := by
  refine State.onCarrier_st _ _ s t (fun d hκ => ?_) hs h
  repeat' (first | with_reducible assumption | intro _ | (with_reducible refine Dev.hbCtlWrite_st (hκ := ?_) ..) | (with_reducible apply Kept.ite) | (simp only [id_eq]) | split)

theorem execHbmSelfrefEnter_kp {die : Nat} {stack : Nat} {s t : State} (h : execHbmSelfrefEnter die stack s = .next t) : t.pending = s.pending ∧ Agree 0x200000000000000000000000000000000000000000000000000000000000000000000000000000400000000000000000000 s.dev t.dev := by
  refine State.onCarrier_kp _ _ s t (fun d => ?_) h
  repeat' (first | (with_reducible exact Agree.refl _ _) | with_reducible assumption | intro _ | (with_reducible refine Dev.hbCtlWrite_kp (hμ := (Within.refl _).up (by decide)) (hκ := ?_) ..) | (with_reducible apply Agree.ite) | (simp only [id_eq]) | split)

theorem execHbmSelfrefEnter_st {die : Nat} {stack : Nat} {s t : State} (hs : Kept s.dev) (h : execHbmSelfrefEnter die stack s = .next t) : Kept t.dev := by
  refine State.onCarrier_st _ _ s t (fun d hκ => ?_) hs h
  repeat' (first | with_reducible assumption | intro _ | (with_reducible refine Dev.hbCtlWrite_st (hκ := ?_) ..) | (with_reducible apply Kept.ite) | (simp only [id_eq]) | split)

theorem execHbmSelfrefExit_kp {die : Nat} {stack : Nat} {s t : State} (h : execHbmSelfrefExit die stack s = .next t) : t.pending = s.pending ∧ Agree 0x200000000000000000000000000000000000000000000000000000000000000000000000000000400000000000000000000 s.dev t.dev := by
  refine State.onCarrier_kp _ _ s t (fun d => ?_) h
  repeat' (first | (with_reducible exact Agree.refl _ _) | with_reducible assumption | intro _ | (with_reducible refine Dev.hbCtlWrite_kp (hμ := (Within.refl _).up (by decide)) (hκ := ?_) ..) | (with_reducible apply Agree.ite) | (simp only [id_eq]) | split)

theorem execHbmSelfrefExit_st {die : Nat} {stack : Nat} {s t : State} (hs : Kept s.dev) (h : execHbmSelfrefExit die stack s = .next t) : Kept t.dev := by
  refine State.onCarrier_st _ _ s t (fun d hκ => ?_) hs h
  repeat' (first | with_reducible assumption | intro _ | (with_reducible refine Dev.hbCtlWrite_st (hκ := ?_) ..) | (with_reducible apply Kept.ite) | (simp only [id_eq]) | split)

theorem execHbmHoldDown_kp {die : Nat} {stack : Nat} {s t : State} (h : execHbmHoldDown die stack s = .next t) : t.pending = s.pending ∧ Agree 0x200000000000000000000000000000000000000000000000000000000000000000000000000000400000000000000000000 s.dev t.dev := by
  refine State.onCarrier_kp _ _ s t (fun d => ?_) h
  repeat' (first | (with_reducible exact Agree.refl _ _) | with_reducible assumption | intro _ | (with_reducible refine Dev.hbCtlWrite_kp (hμ := (Within.refl _).up (by decide)) (hκ := ?_) ..) | (with_reducible apply Agree.ite) | (simp only [id_eq]) | split)

theorem execHbmHoldDown_st {die : Nat} {stack : Nat} {s t : State} (hs : Kept s.dev) (h : execHbmHoldDown die stack s = .next t) : Kept t.dev := by
  refine State.onCarrier_st _ _ s t (fun d hκ => ?_) hs h
  repeat' (first | with_reducible assumption | intro _ | (with_reducible refine Dev.hbCtlWrite_st (hκ := ?_) ..) | (with_reducible apply Kept.ite) | (simp only [id_eq]) | split)

theorem execHbmTrainingComplete_kp {die : Nat} {stack : Nat} {res : TrainRes} {s t : State} (h : execHbmTrainingComplete die stack res s = .next t) : t.pending = s.pending ∧ Agree 0x81800038000000000000000000000000000000000000000000000000000000000000000000000019500000000000000000000 s.dev t.dev := by
  refine State.onCarrier_kp _ _ s t (fun d => ?_) h
  repeat' (first | (with_reducible exact Agree.refl _ _) | with_reducible assumption | intro _ | (with_reducible refine Dev.trainDone_kp (hμ := (Within.refl _).up (by decide)) (hκ := ?_) ..) | (with_reducible apply Agree.ite) | (simp only [id_eq]) | split)

theorem execHbmTrainingComplete_st {die : Nat} {stack : Nat} {res : TrainRes} {s t : State} (hs : Kept s.dev) (h : execHbmTrainingComplete die stack res s = .next t) : Kept t.dev := by
  refine State.onCarrier_st _ _ s t (fun d hκ => ?_) hs h
  repeat' (first | with_reducible assumption | intro _ | (with_reducible refine Dev.trainDone_st (hκ := ?_) ..) | (with_reducible apply Kept.ite) | (simp only [id_eq]) | split)

theorem execHbmRrateWrite_kp {die : Nat} {stack : Nat} {value : Nat} {s t : State} (h : execHbmRrateWrite die stack value s = .next t) : t.pending = s.pending ∧ Agree 0x2300000000000000000000000 s.dev t.dev := by
  refine State.onCarrier_kp _ _ s t (fun d => ?_) h
  repeat' (first | (with_reducible exact Agree.refl _ _) | with_reducible assumption | intro _ | (with_reducible refine Dev.rrateWrite_kp (hμ := (Within.refl _).up (by decide)) (hκ := ?_) ..) | (with_reducible apply Agree.ite) | (simp only [id_eq]) | split)

theorem execHbmRrateWrite_st {die : Nat} {stack : Nat} {value : Nat} {s t : State} (hs : Kept s.dev) (h : execHbmRrateWrite die stack value s = .next t) : Kept t.dev := by
  refine State.onCarrier_st _ _ s t (fun d hκ => ?_) hs h
  repeat' (first | with_reducible assumption | intro _ | (with_reducible refine Dev.rrateWrite_st (hκ := ?_) ..) | (with_reducible apply Kept.ite) | (simp only [id_eq]) | split)

theorem execMinbandWrite_kp {die : Nat} {stack : Nat} {band : Nat} {s t : State} (h : execMinbandWrite die stack band s = .next t) : t.pending = s.pending ∧ Agree 0x2001000000000000000000000 s.dev t.dev := by
  refine State.onCarrier_kp _ _ s t (fun d => ?_) h
  repeat' (first | (with_reducible exact Agree.refl _ _) | with_reducible assumption | intro _ | (with_reducible refine Dev.refctlWrite_kp (hμ := (Within.refl _).up (by decide)) (hκ := ?_) ..) | (with_reducible apply Agree.ite) | (simp only [id_eq]) | split)

theorem execMinbandWrite_st {die : Nat} {stack : Nat} {band : Nat} {s t : State} (hs : Kept s.dev) (h : execMinbandWrite die stack band s = .next t) : Kept t.dev := by
  refine State.onCarrier_st _ _ s t (fun d hκ => ?_) hs h
  repeat' (first | with_reducible assumption | intro _ | (with_reducible refine Dev.refctlWrite_st (hκ := ?_) ..) | (with_reducible apply Kept.ite) | (simp only [id_eq]) | split)

theorem execHbmTmaxclr_kp {die : Nat} {stack : Nat} {s t : State} (h : execHbmTmaxclr die stack s = .next t) : t.pending = s.pending ∧ Agree 0x800000000000000000000 s.dev t.dev := by
  refine State.onCarrier_kp _ _ s t (fun d => ?_) h
  repeat' (first | (with_reducible exact Agree.refl _ _) | with_reducible assumption | intro _ | (with_reducible refine Dev.hbTmaxClr_kp (hμ := (Within.refl _).up (by decide)) (hκ := ?_) ..) | (with_reducible apply Agree.ite) | (simp only [id_eq]) | split)

theorem execHbmTmaxclr_st {die : Nat} {stack : Nat} {s t : State} (hs : Kept s.dev) (h : execHbmTmaxclr die stack s = .next t) : Kept t.dev := by
  refine State.onCarrier_st _ _ s t (fun d hκ => ?_) hs h
  repeat' (first | with_reducible assumption | intro _ | (with_reducible refine Dev.hbTmaxClr_st (hκ := ?_) ..) | (with_reducible apply Kept.ite) | (simp only [id_eq]) | split)

theorem execBlankCut_kp {die : Nat} {stack : Nat} {s t : State} (h : execBlankCut die stack s = .next t) : t.pending = s.pending ∧ Agree 0x800008000040002450000000000000000000000000000000000000000000000000000000003b2000000000000000000000000000 s.dev t.dev := by
  refine State.onCarrier_kp _ _ s t (fun d => ?_) h
  repeat' (first | (with_reducible exact Agree.refl _ _) | with_reducible assumption | intro _ | (with_reducible refine Dev.blankCut_kp (hμ := (Within.refl _).up (by decide)) (hκ := ?_) ..) | (with_reducible apply Agree.ite) | (simp only [id_eq]) | split)

theorem execBlankCut_st {die : Nat} {stack : Nat} {s t : State} (hs : Kept s.dev) (h : execBlankCut die stack s = .next t) : Kept t.dev := by
  refine State.onCarrier_st _ _ s t (fun d hκ => ?_) hs h
  repeat' (first | with_reducible assumption | intro _ | (with_reducible refine Dev.blankCut_st (hκ := ?_) ..) | (with_reducible apply Kept.ite) | (simp only [id_eq]) | split)

theorem execBlankCutComplete_kp {die : Nat} {stack : Nat} {s t : State} (h : execBlankCutComplete die stack s = .next t) : t.pending = s.pending ∧ Agree 0x80000800038000245000000000000000000000000000000000000000000000000000000000007000000000000000000000000000 s.dev t.dev := by
  refine State.onCarrier_kp _ _ s t (fun d => ?_) h
  repeat' (first | (with_reducible exact Agree.refl _ _) | with_reducible assumption | intro _ | (with_reducible refine Dev.blankCutDone_kp (hμ := (Within.refl _).up (by decide)) (hκ := ?_) ..) | (with_reducible apply Agree.ite) | (simp only [id_eq]) | split)

theorem execBlankCutComplete_st {die : Nat} {stack : Nat} {s t : State} (hs : Kept s.dev) (h : execBlankCutComplete die stack s = .next t) : Kept t.dev := by
  refine State.onCarrier_st _ _ s t (fun d hκ => ?_) hs h
  repeat' (first | with_reducible assumption | intro _ | (with_reducible refine Dev.blankCutDone_st (hκ := ?_) ..) | (with_reducible apply Kept.ite) | (simp only [id_eq]) | split)

theorem execRegionToNarrow_kp {die : Nat} {stack : Nat} {s t : State} (h : execRegionToNarrow die stack s = .next t) : t.pending = s.pending ∧ Agree 0x2000000000000000000000000000000000000000000000000000000000000000000000000000000000000000000000000000 s.dev t.dev := by
  refine State.onCarrier_kp _ _ s t (fun d => ?_) h
  repeat' (first | (with_reducible exact Agree.refl _ _) | with_reducible assumption | intro _ | (with_reducible refine Dev.ncWrite_kp (hμ := (Within.refl _).up (by decide)) (hκ := ?_) ..) | (with_reducible apply Agree.ite) | (simp only [id_eq]) | split)

theorem execRegionToNarrow_st {die : Nat} {stack : Nat} {s t : State} (hs : Kept s.dev) (h : execRegionToNarrow die stack s = .next t) : Kept t.dev := by
  refine State.onCarrier_st _ _ s t (fun d hκ => ?_) hs h
  repeat' (first | with_reducible assumption | intro _ | (with_reducible refine Dev.ncWrite_st (hκ := ?_) ..) | (with_reducible apply Kept.ite) | (simp only [id_eq]) | split)

theorem execRegionToWide_kp {die : Nat} {stack : Nat} {s t : State} (h : execRegionToWide die stack s = .next t) : t.pending = s.pending ∧ Agree 0x2000000000000000000000000000000000000000000000000000000000000000000000000000000000000000000000000000 s.dev t.dev := by
  refine State.onCarrier_kp _ _ s t (fun d => ?_) h
  repeat' (first | (with_reducible exact Agree.refl _ _) | with_reducible assumption | intro _ | (with_reducible refine Dev.ncWrite_kp (hμ := (Within.refl _).up (by decide)) (hκ := ?_) ..) | (with_reducible apply Agree.ite) | (simp only [id_eq]) | split)

theorem execRegionToWide_st {die : Nat} {stack : Nat} {s t : State} (hs : Kept s.dev) (h : execRegionToWide die stack s = .next t) : Kept t.dev := by
  refine State.onCarrier_st _ _ s t (fun d hκ => ?_) hs h
  repeat' (first | with_reducible assumption | intro _ | (with_reducible refine Dev.ncWrite_st (hκ := ?_) ..) | (with_reducible apply Kept.ite) | (simp only [id_eq]) | split)

theorem execRegionConversionComplete_kp {die : Nat} {s t : State} (h : execRegionConversionComplete die s = .next t) : t.pending = s.pending ∧ Agree 0x3000038000000000000000000000000000000000000000000000000000000000000000000000000000000000000000000000 s.dev t.dev := by
  refine State.onCarrier_kp _ _ s t (fun d => ?_) h
  repeat' (first | (with_reducible exact Agree.refl _ _) | with_reducible assumption | intro _ | (with_reducible refine Dev.ncDone_kp (hμ := (Within.refl _).up (by decide)) (hκ := ?_) ..) | (with_reducible apply Agree.ite) | (simp only [id_eq]) | split)

theorem execRegionConversionComplete_st {die : Nat} {s t : State} (hs : Kept s.dev) (h : execRegionConversionComplete die s = .next t) : Kept t.dev := by
  refine State.onCarrier_st _ _ s t (fun d hκ => ?_) hs h
  repeat' (first | with_reducible assumption | intro _ | (with_reducible refine Dev.ncDone_st (hκ := ?_) ..) | (with_reducible apply Kept.ite) | (simp only [id_eq]) | split)

theorem execIdentify_kp {die : Nat} {n : Nat} {again : Bool} {s t : State} (h : execIdentify die n again s = .next t) : t.pending = s.pending ∧ Agree 0x3480000000000000245000000004002d16180000000000000000000000000000000000000000000000000000000000000000000000 s.dev t.dev := by
  refine State.onCarrier_kp _ _ s t (fun d => ?_) h
  repeat' (first | (with_reducible exact Agree.refl _ _) | with_reducible assumption | intro _ | (with_reducible refine Dev.helRun_kp (hc := ?_) (hμ := (Within.refl _).up (by decide)) (hκ := ?_) ..) | (with_reducible refine cmdIdentify_kp (hμ := (Within.refl _).up (by decide)) (hκ := ?_) ..) | (with_reducible refine cmdIdentify_kp (hμ := (Within.refl _).up (by decide)) (hκ := ?_) ..) | (with_reducible apply Agree.ite) | (simp only [id_eq]) | split)

theorem execIdentify_st {die : Nat} {n : Nat} {again : Bool} {s t : State} (hs : Kept s.dev) (h : execIdentify die n again s = .next t) : Kept t.dev := by
  refine State.onCarrier_st _ _ s t (fun d hκ => ?_) hs h
  repeat' (first | with_reducible assumption | intro _ | (with_reducible refine Dev.helRun_st (hc := ?_) (hκ := ?_) ..) | (with_reducible refine cmdIdentify_st (hκ := ?_) ..) | (with_reducible refine Agree.kept (cmdIdentify_kp (hμ := Within.refl _) (hκ := Agree.refl ..) ..) (by decide) ?_) | (with_reducible apply Kept.ite) | (simp only [id_eq]) | split)

theorem execAttest_kp {die : Nat} {n : Nat} {again : Bool} {s t : State} (h : execAttest die n again s = .next t) : t.pending = s.pending ∧ Agree 0xb480000000004000245000000384002d16180000000000000000000000000000000000000000000000000000000000000000000000 s.dev t.dev := by
  refine State.onCarrier_kp _ _ s t (fun d => ?_) h
  repeat' (first | (with_reducible exact Agree.refl _ _) | with_reducible assumption | intro _ | (with_reducible refine Dev.helRun_kp (hc := ?_) (hμ := (Within.refl _).up (by decide)) (hκ := ?_) ..) | (with_reducible refine cmdAttest_kp (hμ := (Within.refl _).up (by decide)) (hκ := ?_) ..) | (with_reducible refine cmdAttest_kp (hμ := (Within.refl _).up (by decide)) (hκ := ?_) ..) | (with_reducible apply Agree.ite) | (simp only [id_eq]) | split)

theorem execAttest_st {die : Nat} {n : Nat} {again : Bool} {s t : State} (hs : Kept s.dev) (h : execAttest die n again s = .next t) : Kept t.dev := by
  refine State.onCarrier_st _ _ s t (fun d hκ => ?_) hs h
  repeat' (first | with_reducible assumption | intro _ | (with_reducible refine Dev.helRun_st (hc := ?_) (hκ := ?_) ..) | (with_reducible refine cmdAttest_st (hκ := ?_) ..) | (with_reducible refine Agree.kept (cmdAttest_kp (hμ := Within.refl _) (hκ := Agree.refl ..) ..) (by decide) ?_) | (with_reducible apply Kept.ite) | (simp only [id_eq]) | split)

theorem execSessionOpenStep1_kp {die : Nat} {n : Nat} {s t : State} (h : execSessionOpenStep1 die n s = .next t) : t.pending = s.pending ∧ Agree 0xb480000000004000245000000384002d16180000000000000000000000000000000000000000000000000000000000000000000000 s.dev t.dev := by
  refine State.onCarrier_kp _ _ s t (fun d => ?_) h
  repeat' (first | (with_reducible exact Agree.refl _ _) | with_reducible assumption | intro _ | (with_reducible refine Dev.sessRun_kp (hμ := (Within.refl _).up (by decide)) (hκ := ?_) ..) | (with_reducible apply Agree.ite) | (simp only [id_eq]) | split)

theorem execSessionOpenStep1_st {die : Nat} {n : Nat} {s t : State} (hs : Kept s.dev) (h : execSessionOpenStep1 die n s = .next t) : Kept t.dev := by
  refine State.onCarrier_st _ _ s t (fun d hκ => ?_) hs h
  repeat' (first | with_reducible assumption | intro _ | (with_reducible refine Dev.sessRun_st (hκ := ?_) ..) | (with_reducible apply Kept.ite) | (simp only [id_eq]) | split)

theorem execSessionOpenStep2_kp {die : Nat} {n : Nat} {s t : State} (h : execSessionOpenStep2 die n s = .next t) : t.pending = s.pending ∧ Agree 0xb480000000004000245000000384002d16180000000000000000000000000000000000000000000000000000000000000000000000 s.dev t.dev := by
  refine State.onCarrier_kp _ _ s t (fun d => ?_) h
  repeat' (first | (with_reducible exact Agree.refl _ _) | with_reducible assumption | intro _ | (with_reducible refine Dev.sessRun_kp (hμ := (Within.refl _).up (by decide)) (hκ := ?_) ..) | (with_reducible apply Agree.ite) | (simp only [id_eq]) | split)

theorem execSessionOpenStep2_st {die : Nat} {n : Nat} {s t : State} (hs : Kept s.dev) (h : execSessionOpenStep2 die n s = .next t) : Kept t.dev := by
  refine State.onCarrier_st _ _ s t (fun d hκ => ?_) hs h
  repeat' (first | with_reducible assumption | intro _ | (with_reducible refine Dev.sessRun_st (hκ := ?_) ..) | (with_reducible apply Kept.ite) | (simp only [id_eq]) | split)

theorem execSessionOpenTimeout_kp {die : Nat} {n : Nat} {s t : State} (h : execSessionOpenTimeout die n s = .next t) : t.pending = s.pending ∧ Agree 0x2000000000000000000000000000000000000000000000000000000000000000000000000000000000000000000000000000000000 s.dev t.dev := by
  refine State.onCarrier_kp _ _ s t (fun d => ?_) h
  repeat' (first | (with_reducible exact Agree.refl _ _) | with_reducible assumption | intro _ | (with_reducible refine Dev.sessTimeout_kp (hμ := (Within.refl _).up (by decide)) (hκ := ?_) ..) | (with_reducible apply Agree.ite) | (simp only [id_eq]) | split)

theorem execSessionOpenTimeout_st {die : Nat} {n : Nat} {s t : State} (hs : Kept s.dev) (h : execSessionOpenTimeout die n s = .next t) : Kept t.dev := by
  refine State.onCarrier_st _ _ s t (fun d hκ => ?_) hs h
  repeat' (first | with_reducible assumption | intro _ | (with_reducible refine Dev.sessTimeout_st (hκ := ?_) ..) | (with_reducible apply Kept.ite) | (simp only [id_eq]) | split)

theorem execSessionClose_kp {die : Nat} {n : Nat} {again : Bool} {s t : State} (h : execSessionClose die n again s = .next t) : t.pending = s.pending ∧ Agree 0x3480000000000000245000000004002d16180000000000000000000000000000000000000000000000000000000000000000000000 s.dev t.dev := by
  refine State.onCarrier_kp _ _ s t (fun d => ?_) h
  repeat' (first | (with_reducible exact Agree.refl _ _) | with_reducible assumption | intro _ | (with_reducible refine Dev.helRun_kp (hc := ?_) (hμ := (Within.refl _).up (by decide)) (hκ := ?_) ..) | (with_reducible refine cmdClose_kp (hμ := (Within.refl _).up (by decide)) (hκ := ?_) ..) | (with_reducible refine cmdClose_kp (hμ := (Within.refl _).up (by decide)) (hκ := ?_) ..) | (with_reducible apply Agree.ite) | (simp only [id_eq]) | split)

theorem execSessionClose_st {die : Nat} {n : Nat} {again : Bool} {s t : State} (hs : Kept s.dev) (h : execSessionClose die n again s = .next t) : Kept t.dev := by
  refine State.onCarrier_st _ _ s t (fun d hκ => ?_) hs h
  repeat' (first | with_reducible assumption | intro _ | (with_reducible refine Dev.helRun_st (hc := ?_) (hκ := ?_) ..) | (with_reducible refine cmdClose_st (hκ := ?_) ..) | (with_reducible refine Agree.kept (cmdClose_kp (hμ := Within.refl _) (hκ := Agree.refl ..) ..) (by decide) ?_) | (with_reducible apply Kept.ite) | (simp only [id_eq]) | split)

theorem execPowerSet_kp {die : Nat} {n : Nat} {again : Bool} {ovr : Bool} {s t : State} (h : execPowerSet die n again ovr s = .next t) : t.pending = s.pending ∧ Agree 0x1778010027e184200245000011804002d16180000000000e04c6400c000000009000004000c00000000000400000200101f20000042 s.dev t.dev := by
  refine State.onCarrier_kp _ _ s t (fun d => ?_) h
  repeat' (first | (with_reducible exact Agree.refl _ _) | with_reducible assumption | intro _ | (with_reducible refine Dev.helRun_kp (hc := ?_) (hμ := (Within.refl _).up (by decide)) (hκ := ?_) ..) | (with_reducible refine cmdPower_kp (hμ := (Within.refl _).up (by decide)) (hκ := ?_) ..) | (with_reducible refine cmdPower_kp (hμ := (Within.refl _).up (by decide)) (hκ := ?_) ..) | (with_reducible apply Agree.ite) | (simp only [id_eq]) | split)

theorem execPowerSet_st {die : Nat} {n : Nat} {again : Bool} {ovr : Bool} {s t : State} (hs : Kept s.dev) (h : execPowerSet die n again ovr s = .next t) : Kept t.dev := by
  refine State.onCarrier_st _ _ s t (fun d hκ => ?_) hs h
  repeat' (first | with_reducible assumption | intro _ | (with_reducible refine Dev.helRun_st (hc := ?_) (hκ := ?_) ..) | (with_reducible refine cmdPower_st (hκ := ?_) ..) | (with_reducible refine Agree.kept (cmdPower_kp (hμ := Within.refl _) (hκ := Agree.refl ..) ..) (by decide) ?_) | (with_reducible apply Kept.ite) | (simp only [id_eq]) | split)

theorem execPowerQuery_kp {die : Nat} {n : Nat} {again : Bool} {s t : State} (h : execPowerQuery die n again s = .next t) : t.pending = s.pending ∧ Agree 0x3480000000000000245000000004002d16180000000000000000000000000000000000000000000000000000000000000000000000 s.dev t.dev := by
  refine State.onCarrier_kp _ _ s t (fun d => ?_) h
  repeat' (first | (with_reducible exact Agree.refl _ _) | with_reducible assumption | intro _ | (with_reducible refine Dev.helRun_kp (hc := ?_) (hμ := (Within.refl _).up (by decide)) (hκ := ?_) ..) | (with_reducible refine cmdPowerQuery_kp (hμ := (Within.refl _).up (by decide)) (hκ := ?_) ..) | (with_reducible refine cmdPowerQuery_kp (hμ := (Within.refl _).up (by decide)) (hκ := ?_) ..) | (with_reducible apply Agree.ite) | (simp only [id_eq]) | split)

theorem execPowerQuery_st {die : Nat} {n : Nat} {again : Bool} {s t : State} (hs : Kept s.dev) (h : execPowerQuery die n again s = .next t) : Kept t.dev := by
  refine State.onCarrier_st _ _ s t (fun d hκ => ?_) hs h
  repeat' (first | with_reducible assumption | intro _ | (with_reducible refine Dev.helRun_st (hc := ?_) (hκ := ?_) ..) | (with_reducible refine cmdPowerQuery_st (hκ := ?_) ..) | (with_reducible refine Agree.kept (cmdPowerQuery_kp (hμ := Within.refl _) (hκ := Agree.refl ..) ..) (by decide) ?_) | (with_reducible apply Kept.ite) | (simp only [id_eq]) | split)

theorem execPartitionCreate_kp {die : Nat} {n : Nat} {again : Bool} {s t : State} (h : execPartitionCreate die n again s = .next t) : t.pending = s.pending ∧ Agree 0x7480000072390000245000000004002d1618000000000000000000000000000000000080000000000230008020fe0bf89fe2000002 s.dev t.dev := by
  refine State.onCarrier_kp _ _ s t (fun d => ?_) h
  repeat' (first | (with_reducible exact Agree.refl _ _) | with_reducible assumption | intro _ | (with_reducible refine Dev.helRun_kp (hc := ?_) (hμ := (Within.refl _).up (by decide)) (hκ := ?_) ..) | (with_reducible refine cmdCreate_kp (hμ := (Within.refl _).up (by decide)) (hκ := ?_) ..) | (with_reducible refine cmdCreate_kp (hμ := (Within.refl _).up (by decide)) (hκ := ?_) ..) | (with_reducible apply Agree.ite) | (simp only [id_eq]) | split)

theorem execPartitionCreate_st {die : Nat} {n : Nat} {again : Bool} {s t : State} (hs : Kept s.dev) (h : execPartitionCreate die n again s = .next t) : Kept t.dev := by
  refine State.onCarrier_st _ _ s t (fun d hκ => ?_) hs h
  repeat' (first | with_reducible assumption | intro _ | (with_reducible refine Dev.helRun_st (hc := ?_) (hκ := ?_) ..) | (with_reducible refine cmdCreate_st (hκ := ?_) ..) | (with_reducible refine Agree.kept (cmdCreate_kp (hμ := Within.refl _) (hκ := Agree.refl ..) ..) (by decide) ?_) | (with_reducible apply Kept.ite) | (simp only [id_eq]) | split)

theorem execPartitionDestroy_kp {die : Nat} {n : Nat} {again : Bool} {s t : State} (h : execPartitionDestroy die n again s = .next t) : t.pending = s.pending ∧ Agree 0x7480500072394000245000000004002d16180000000000000000000000000008000681800c0000000230008020fe0bf89fe2000042 s.dev t.dev := by
  refine State.onCarrier_kp _ _ s t (fun d => ?_) h
  repeat' (first | (with_reducible exact Agree.refl _ _) | with_reducible assumption | intro _ | (with_reducible refine Dev.helRun_kp (hc := ?_) (hμ := (Within.refl _).up (by decide)) (hκ := ?_) ..) | (with_reducible refine cmdDestroy_kp (hμ := (Within.refl _).up (by decide)) (hκ := ?_) ..) | (with_reducible refine cmdDestroy_kp (hμ := (Within.refl _).up (by decide)) (hκ := ?_) ..) | (with_reducible apply Agree.ite) | (simp only [id_eq]) | split)

theorem execPartitionDestroy_st {die : Nat} {n : Nat} {again : Bool} {s t : State} (hs : Kept s.dev) (h : execPartitionDestroy die n again s = .next t) : Kept t.dev := by
  refine State.onCarrier_st _ _ s t (fun d hκ => ?_) hs h
  repeat' (first | with_reducible assumption | intro _ | (with_reducible refine Dev.helRun_st (hc := ?_) (hκ := ?_) ..) | (with_reducible refine cmdDestroy_st (hκ := ?_) ..) | (with_reducible refine cmdDestroy_st (hκ := ?_) ..) | (with_reducible apply Kept.ite) | (simp only [id_eq]) | split)

theorem execPartitionReset_kp {die : Nat} {n : Nat} {again : Bool} {s t : State} (h : execPartitionReset die n again s = .next t) : t.pending = s.pending ∧ Agree 0x74800000721bc000245000000004002d16180000000000000000000000000008000000000c0000000000000000fe03f01fe0000042 s.dev t.dev := by
  refine State.onCarrier_kp _ _ s t (fun d => ?_) h
  repeat' (first | (with_reducible exact Agree.refl _ _) | with_reducible assumption | intro _ | (with_reducible refine Dev.helRun_kp (hc := ?_) (hμ := (Within.refl _).up (by decide)) (hκ := ?_) ..) | (with_reducible refine cmdReset_kp (hμ := (Within.refl _).up (by decide)) (hκ := ?_) ..) | (with_reducible refine cmdReset_kp (hμ := (Within.refl _).up (by decide)) (hκ := ?_) ..) | (with_reducible apply Agree.ite) | (simp only [id_eq]) | split)

theorem execPartitionReset_st {die : Nat} {n : Nat} {again : Bool} {s t : State} (hs : Kept s.dev) (h : execPartitionReset die n again s = .next t) : Kept t.dev := by
  refine State.onCarrier_st _ _ s t (fun d hκ => ?_) hs h
  repeat' (first | with_reducible assumption | intro _ | (with_reducible refine Dev.helRun_st (hc := ?_) (hκ := ?_) ..) | (with_reducible refine cmdReset_st (hκ := ?_) ..) | (with_reducible refine cmdReset_st (hκ := ?_) ..) | (with_reducible apply Kept.ite) | (simp only [id_eq]) | split)

theorem execPartitionQuery_kp {die : Nat} {n : Nat} {again : Bool} {s t : State} (h : execPartitionQuery die n again s = .next t) : t.pending = s.pending ∧ Agree 0x3480000000000000245000000004002d16180000000000000000000000000000000000000000000000000000000000000000000000 s.dev t.dev := by
  refine State.onCarrier_kp _ _ s t (fun d => ?_) h
  repeat' (first | (with_reducible exact Agree.refl _ _) | with_reducible assumption | intro _ | (with_reducible refine Dev.helRun_kp (hc := ?_) (hμ := (Within.refl _).up (by decide)) (hκ := ?_) ..) | (with_reducible refine cmdPartQuery_kp (hμ := (Within.refl _).up (by decide)) (hκ := ?_) ..) | (with_reducible refine cmdPartQuery_kp (hμ := (Within.refl _).up (by decide)) (hκ := ?_) ..) | (with_reducible apply Agree.ite) | (simp only [id_eq]) | split)

theorem execPartitionQuery_st {die : Nat} {n : Nat} {again : Bool} {s t : State} (hs : Kept s.dev) (h : execPartitionQuery die n again s = .next t) : Kept t.dev := by
  refine State.onCarrier_st _ _ s t (fun d hκ => ?_) hs h
  repeat' (first | with_reducible assumption | intro _ | (with_reducible refine Dev.helRun_st (hc := ?_) (hκ := ?_) ..) | (with_reducible refine cmdPartQuery_st (hκ := ?_) ..) | (with_reducible refine Agree.kept (cmdPartQuery_kp (hμ := Within.refl _) (hκ := Agree.refl ..) ..) (by decide) ?_) | (with_reducible apply Kept.ite) | (simp only [id_eq]) | split)

theorem execMapSync_kp {die : Nat} {n : Nat} {again : Bool} {s t : State} (h : execMapSync die n again s = .next t) : t.pending = s.pending ∧ Agree 0x3480100000004000245000000004002d161800000000000000000000000000000000030f0000000000000000000000000000000000 s.dev t.dev := by
  refine State.onCarrier_kp _ _ s t (fun d => ?_) h
  repeat' (first | (with_reducible exact Agree.refl _ _) | with_reducible assumption | intro _ | (with_reducible refine Dev.helRun_kp (hc := ?_) (hμ := (Within.refl _).up (by decide)) (hκ := ?_) ..) | (with_reducible refine cmdMapSync_kp (hμ := (Within.refl _).up (by decide)) (hκ := ?_) ..) | (with_reducible refine cmdMapSync_kp (hμ := (Within.refl _).up (by decide)) (hκ := ?_) ..) | (with_reducible apply Agree.ite) | (simp only [id_eq]) | split)

theorem execMapSync_st {die : Nat} {n : Nat} {again : Bool} {s t : State} (hs : Kept s.dev) (h : execMapSync die n again s = .next t) : Kept t.dev := by
  refine State.onCarrier_st _ _ s t (fun d hκ => ?_) hs h
  repeat' (first | with_reducible assumption | intro _ | (with_reducible refine Dev.helRun_st (hc := ?_) (hκ := ?_) ..) | (with_reducible refine cmdMapSync_st (hκ := ?_) ..) | (with_reducible refine Agree.kept (cmdMapSync_kp (hμ := Within.refl _) (hκ := Agree.refl ..) ..) (by decide) ?_) | (with_reducible apply Kept.ite) | (simp only [id_eq]) | split)

theorem execRekey_kp {die : Nat} {n : Nat} {again : Bool} {s t : State} (h : execRekey die n again s = .next t) : t.pending = s.pending ∧ Agree 0x3480500030000000245000000004002d161800000000000000000000000000000006f1000000000000000000000000000000000000 s.dev t.dev := by
  refine State.onCarrier_kp _ _ s t (fun d => ?_) h
  repeat' (first | (with_reducible exact Agree.refl _ _) | with_reducible assumption | intro _ | (with_reducible refine Dev.helRun_kp (hc := ?_) (hμ := (Within.refl _).up (by decide)) (hκ := ?_) ..) | (with_reducible refine cmdRekey_kp (hμ := (Within.refl _).up (by decide)) (hκ := ?_) ..) | (with_reducible refine cmdRekey_kp (hμ := (Within.refl _).up (by decide)) (hκ := ?_) ..) | (with_reducible apply Agree.ite) | (simp only [id_eq]) | split)

theorem execRekey_st {die : Nat} {n : Nat} {again : Bool} {s t : State} (hs : Kept s.dev) (h : execRekey die n again s = .next t) : Kept t.dev := by
  refine State.onCarrier_st _ _ s t (fun d hκ => ?_) hs h
  repeat' (first | with_reducible assumption | intro _ | (with_reducible refine Dev.helRun_st (hc := ?_) (hκ := ?_) ..) | (with_reducible refine cmdRekey_st (hκ := ?_) ..) | (with_reducible refine Agree.kept (cmdRekey_kp (hμ := Within.refl _) (hκ := Agree.refl ..) ..) (by decide) ?_) | (with_reducible apply Kept.ite) | (simp only [id_eq]) | split)

theorem execFaultResume_kp {die : Nat} {n : Nat} {again : Bool} {s t : State} (h : execFaultResume die n again s = .next t) : t.pending = s.pending ∧ Agree 0x348010003e004000245000000004002d16180000000000000000000000000000000004000000000000000000000000101f20000000 s.dev t.dev := by
  refine State.onCarrier_kp _ _ s t (fun d => ?_) h
  repeat' (first | (with_reducible exact Agree.refl _ _) | with_reducible assumption | intro _ | (with_reducible refine Dev.helRun_kp (hc := ?_) (hμ := (Within.refl _).up (by decide)) (hκ := ?_) ..) | (with_reducible refine cmdResume_kp (hμ := (Within.refl _).up (by decide)) (hκ := ?_) ..) | (with_reducible refine cmdResume_kp (hμ := (Within.refl _).up (by decide)) (hκ := ?_) ..) | (with_reducible apply Agree.ite) | (simp only [id_eq]) | split)

theorem execFaultResume_st {die : Nat} {n : Nat} {again : Bool} {s t : State} (hs : Kept s.dev) (h : execFaultResume die n again s = .next t) : Kept t.dev := by
  refine State.onCarrier_st _ _ s t (fun d hκ => ?_) hs h
  repeat' (first | with_reducible assumption | intro _ | (with_reducible refine Dev.helRun_st (hc := ?_) (hκ := ?_) ..) | (with_reducible refine cmdResume_st (hκ := ?_) ..) | (with_reducible refine Agree.kept (cmdResume_kp (hμ := Within.refl _) (hκ := Agree.refl ..) ..) (by decide) ?_) | (with_reducible apply Kept.ite) | (simp only [id_eq]) | split)

theorem execPlanLoad_kp {die : Nat} {n : Nat} {again : Bool} {far : List Bytes} {s t : State} (h : execPlanLoad die n again far s = .next t) : t.pending = s.pending ∧ Agree 0x348000480003c000245000000004002d16180000000000000000000000000000000000000c3c3b303c00000000007000001c038000 s.dev t.dev := by
  refine State.onCarrier_kp _ _ s t (fun d => ?_) h
  repeat' (first | (with_reducible exact Agree.refl _ _) | with_reducible assumption | intro _ | (with_reducible refine Dev.helRun_kp (hc := ?_) (hμ := (Within.refl _).up (by decide)) (hκ := ?_) ..) | (with_reducible refine cmdLoad_kp (hμ := (Within.refl _).up (by decide)) (hκ := ?_) ..) | (with_reducible refine cmdLoad_kp (hμ := (Within.refl _).up (by decide)) (hκ := ?_) ..) | (with_reducible apply Agree.ite) | (simp only [id_eq]) | split)

theorem execPlanLoad_st {die : Nat} {n : Nat} {again : Bool} {far : List Bytes} {s t : State} (hs : Kept s.dev) (h : execPlanLoad die n again far s = .next t) : Kept t.dev := by
  refine State.onCarrier_st _ _ s t (fun d hκ => ?_) hs h
  repeat' (first | with_reducible assumption | intro _ | (with_reducible refine Dev.helRun_st (hc := ?_) (hκ := ?_) ..) | (with_reducible refine cmdLoad_st (hκ := ?_) ..) | (with_reducible refine cmdLoad_st (hκ := ?_) ..) | (with_reducible apply Kept.ite) | (simp only [id_eq]) | split)

theorem execPlanStart_kp {die : Nat} {n : Nat} {again : Bool} {s t : State} (h : execPlanStart die n again s = .next t) : t.pending = s.pending ∧ Agree 0x3480000052000000245000000004002d16180000000000000000000000000000000000000000000000000000001e00001fe0000000 s.dev t.dev := by
  refine State.onCarrier_kp _ _ s t (fun d => ?_) h
  repeat' (first | (with_reducible exact Agree.refl _ _) | with_reducible assumption | intro _ | (with_reducible refine Dev.helRun_kp (hc := ?_) (hμ := (Within.refl _).up (by decide)) (hκ := ?_) ..) | (with_reducible refine cmdStart_kp (hμ := (Within.refl _).up (by decide)) (hκ := ?_) ..) | (with_reducible refine cmdStart_kp (hμ := (Within.refl _).up (by decide)) (hκ := ?_) ..) | (with_reducible apply Agree.ite) | (simp only [id_eq]) | split)

theorem execPlanStart_st {die : Nat} {n : Nat} {again : Bool} {s t : State} (hs : Kept s.dev) (h : execPlanStart die n again s = .next t) : Kept t.dev := by
  refine State.onCarrier_st _ _ s t (fun d hκ => ?_) hs h
  repeat' (first | with_reducible assumption | intro _ | (with_reducible refine Dev.helRun_st (hc := ?_) (hκ := ?_) ..) | (with_reducible refine cmdStart_st (hκ := ?_) ..) | (with_reducible refine Agree.kept (cmdStart_kp (hμ := Within.refl _) (hκ := Agree.refl ..) ..) (by decide) ?_) | (with_reducible apply Kept.ite) | (simp only [id_eq]) | split)

theorem execPlanDone_kp {die : Nat} {n : Nat} {s t : State} (h : execPlanDone die n s = .next t) : t.pending = s.pending ∧ Agree 0x2480000000000000245000000004002904000000000000000000000000000000000000000000000000000000000000000000000000 s.dev t.dev := by
  refine State.onCarrier_kp _ _ s t (fun d => ?_) h
  repeat' (first | (with_reducible exact Agree.refl _ _) | with_reducible assumption | intro _ | (with_reducible refine Dev.planDone_kp (hμ := (Within.refl _).up (by decide)) (hκ := ?_) ..) | (with_reducible apply Agree.ite) | (simp only [id_eq]) | split)

theorem execPlanDone_st {die : Nat} {n : Nat} {s t : State} (hs : Kept s.dev) (h : execPlanDone die n s = .next t) : Kept t.dev := by
  refine State.onCarrier_st _ _ s t (fun d hκ => ?_) hs h
  repeat' (first | with_reducible assumption | intro _ | (with_reducible refine Dev.planDone_st (hκ := ?_) ..) | (with_reducible apply Kept.ite) | (simp only [id_eq]) | split)

theorem execPlanAbort_kp {die : Nat} {n : Nat} {again : Bool} {s t : State} (h : execPlanAbort die n again s = .next t) : t.pending = s.pending ∧ Agree 0x3480000052000000245000000004002d16180000000000000000000000000000000000000000000000000000000200000020000000 s.dev t.dev := by
  refine State.onCarrier_kp _ _ s t (fun d => ?_) h
  repeat' (first | (with_reducible exact Agree.refl _ _) | with_reducible assumption | intro _ | (with_reducible refine Dev.helRun_kp (hc := ?_) (hμ := (Within.refl _).up (by decide)) (hκ := ?_) ..) | (with_reducible refine cmdAbort_kp (hμ := (Within.refl _).up (by decide)) (hκ := ?_) ..) | (with_reducible refine cmdAbort_kp (hμ := (Within.refl _).up (by decide)) (hκ := ?_) ..) | (with_reducible apply Agree.ite) | (simp only [id_eq]) | split)

theorem execPlanAbort_st {die : Nat} {n : Nat} {again : Bool} {s t : State} (hs : Kept s.dev) (h : execPlanAbort die n again s = .next t) : Kept t.dev := by
  refine State.onCarrier_st _ _ s t (fun d hκ => ?_) hs h
  repeat' (first | with_reducible assumption | intro _ | (with_reducible refine Dev.helRun_st (hc := ?_) (hκ := ?_) ..) | (with_reducible refine cmdAbort_st (hκ := ?_) ..) | (with_reducible refine Agree.kept (cmdAbort_kp (hμ := Within.refl _) (hκ := Agree.refl ..) ..) (by decide) ?_) | (with_reducible apply Kept.ite) | (simp only [id_eq]) | split)

theorem execPlanStatus_kp {die : Nat} {n : Nat} {again : Bool} {s t : State} (h : execPlanStatus die n again s = .next t) : t.pending = s.pending ∧ Agree 0x3480000000000000245000000004002d16180000000000000000000000000000000000000000000000000000000000000000000000 s.dev t.dev := by
  refine State.onCarrier_kp _ _ s t (fun d => ?_) h
  repeat' (first | (with_reducible exact Agree.refl _ _) | with_reducible assumption | intro _ | (with_reducible refine Dev.helRun_kp (hc := ?_) (hμ := (Within.refl _).up (by decide)) (hκ := ?_) ..) | (with_reducible refine cmdStatus_kp (hμ := (Within.refl _).up (by decide)) (hκ := ?_) ..) | (with_reducible refine cmdStatus_kp (hμ := (Within.refl _).up (by decide)) (hκ := ?_) ..) | (with_reducible apply Agree.ite) | (simp only [id_eq]) | split)

theorem execPlanStatus_st {die : Nat} {n : Nat} {again : Bool} {s t : State} (hs : Kept s.dev) (h : execPlanStatus die n again s = .next t) : Kept t.dev := by
  refine State.onCarrier_st _ _ s t (fun d hκ => ?_) hs h
  repeat' (first | with_reducible assumption | intro _ | (with_reducible refine Dev.helRun_st (hc := ?_) (hκ := ?_) ..) | (with_reducible refine cmdStatus_st (hκ := ?_) ..) | (with_reducible refine Agree.kept (cmdStatus_kp (hμ := Within.refl _) (hκ := Agree.refl ..) ..) (by decide) ?_) | (with_reducible apply Kept.ite) | (simp only [id_eq]) | split)

theorem execFaultRead_kp {die : Nat} {n : Nat} {again : Bool} {s t : State} (h : execFaultRead die n again s = .next t) : t.pending = s.pending ∧ Agree 0x3480000000000000247000000004002d16180000000000000000000000000000000000000000000000000000000000000000000000 s.dev t.dev := by
  refine State.onCarrier_kp _ _ s t (fun d => ?_) h
  repeat' (first | (with_reducible exact Agree.refl _ _) | with_reducible assumption | intro _ | (with_reducible refine Dev.helRun_kp (hc := ?_) (hμ := (Within.refl _).up (by decide)) (hκ := ?_) ..) | (with_reducible refine cmdFaultRead_kp (hμ := (Within.refl _).up (by decide)) (hκ := ?_) ..) | (with_reducible refine cmdFaultRead_kp (hμ := (Within.refl _).up (by decide)) (hκ := ?_) ..) | (with_reducible apply Agree.ite) | (simp only [id_eq]) | split)

theorem execFaultRead_st {die : Nat} {n : Nat} {again : Bool} {s t : State} (hs : Kept s.dev) (h : execFaultRead die n again s = .next t) : Kept t.dev := by
  refine State.onCarrier_st _ _ s t (fun d hκ => ?_) hs h
  repeat' (first | with_reducible assumption | intro _ | (with_reducible refine Dev.helRun_st (hc := ?_) (hκ := ?_) ..) | (with_reducible refine cmdFaultRead_st (hκ := ?_) ..) | (with_reducible refine Agree.kept (cmdFaultRead_kp (hμ := Within.refl _) (hκ := Agree.refl ..) ..) (by decide) ?_) | (with_reducible apply Kept.ite) | (simp only [id_eq]) | split)

theorem execEventSubscribe_kp {die : Nat} {n : Nat} {again : Bool} {s t : State} (h : execEventSubscribe die n again s = .next t) : t.pending = s.pending ∧ Agree 0x3480000000000000245000000004002df6180000000000000000000000000000000000000000000000000000000000000000000000 s.dev t.dev := by
  refine State.onCarrier_kp _ _ s t (fun d => ?_) h
  repeat' (first | (with_reducible exact Agree.refl _ _) | with_reducible assumption | intro _ | (with_reducible refine Dev.helRun_kp (hc := ?_) (hμ := (Within.refl _).up (by decide)) (hκ := ?_) ..) | (with_reducible refine cmdSubscribe_kp (hμ := (Within.refl _).up (by decide)) (hκ := ?_) ..) | (with_reducible refine cmdSubscribe_kp (hμ := (Within.refl _).up (by decide)) (hκ := ?_) ..) | (with_reducible apply Agree.ite) | (simp only [id_eq]) | split)

theorem execEventSubscribe_st {die : Nat} {n : Nat} {again : Bool} {s t : State} (hs : Kept s.dev) (h : execEventSubscribe die n again s = .next t) : Kept t.dev := by
  refine State.onCarrier_st _ _ s t (fun d hκ => ?_) hs h
  repeat' (first | with_reducible assumption | intro _ | (with_reducible refine Dev.helRun_st (hc := ?_) (hκ := ?_) ..) | (with_reducible refine cmdSubscribe_st (hκ := ?_) ..) | (with_reducible refine Agree.kept (cmdSubscribe_kp (hμ := Within.refl _) (hκ := Agree.refl ..) ..) (by decide) ?_) | (with_reducible apply Kept.ite) | (simp only [id_eq]) | split)

theorem execLinkStatus_kp {die : Nat} {n : Nat} {again : Bool} {s t : State} (h : execLinkStatus die n again s = .next t) : t.pending = s.pending ∧ Agree 0x3480000000000000245000000004002d16180000000000000000000000000000000000000000000000000000000000000000000000 s.dev t.dev := by
  refine State.onCarrier_kp _ _ s t (fun d => ?_) h
  repeat' (first | (with_reducible exact Agree.refl _ _) | with_reducible assumption | intro _ | (with_reducible refine Dev.helRun_kp (hc := ?_) (hμ := (Within.refl _).up (by decide)) (hκ := ?_) ..) | (with_reducible refine cmdLinkStatus_kp (hμ := (Within.refl _).up (by decide)) (hκ := ?_) ..) | (with_reducible refine cmdLinkStatus_kp (hμ := (Within.refl _).up (by decide)) (hκ := ?_) ..) | (with_reducible apply Agree.ite) | (simp only [id_eq]) | split)

theorem execLinkStatus_st {die : Nat} {n : Nat} {again : Bool} {s t : State} (hs : Kept s.dev) (h : execLinkStatus die n again s = .next t) : Kept t.dev := by
  refine State.onCarrier_st _ _ s t (fun d hκ => ?_) hs h
  repeat' (first | with_reducible assumption | intro _ | (with_reducible refine Dev.helRun_st (hc := ?_) (hκ := ?_) ..) | (with_reducible refine cmdLinkStatus_st (hκ := ?_) ..) | (with_reducible refine Agree.kept (cmdLinkStatus_kp (hμ := Within.refl _) (hκ := Agree.refl ..) ..) (by decide) ?_) | (with_reducible apply Kept.ite) | (simp only [id_eq]) | split)

theorem execLinkRetrain_kp {die : Nat} {n : Nat} {again : Bool} {s t : State} (h : execLinkRetrain die n again s = .next t) : t.pending = s.pending ∧ Agree 0x379e10003e004000245000000004002d1618000c000000e06c6400c009800301c00004000000000000000000000000101f20000000 s.dev t.dev := by
  refine State.onCarrier_kp _ _ s t (fun d => ?_) h
  repeat' (first | (with_reducible exact Agree.refl _ _) | with_reducible assumption | intro _ | (with_reducible refine Dev.helRun_kp (hc := ?_) (hμ := (Within.refl _).up (by decide)) (hκ := ?_) ..) | (with_reducible refine cmdLinkRetrain_kp (hμ := (Within.refl _).up (by decide)) (hκ := ?_) ..) | (with_reducible refine cmdLinkRetrain_kp (hμ := (Within.refl _).up (by decide)) (hκ := ?_) ..) | (with_reducible apply Agree.ite) | (simp only [id_eq]) | split)

theorem execLinkRetrain_st {die : Nat} {n : Nat} {again : Bool} {s t : State} (hs : Kept s.dev) (h : execLinkRetrain die n again s = .next t) : Kept t.dev := by
  refine State.onCarrier_st _ _ s t (fun d hκ => ?_) hs h
  repeat' (first | with_reducible assumption | intro _ | (with_reducible refine Dev.helRun_st (hc := ?_) (hκ := ?_) ..) | (with_reducible refine cmdLinkRetrain_st (hκ := ?_) ..) | (with_reducible refine Agree.kept (cmdLinkRetrain_kp (hμ := Within.refl _) (hκ := Agree.refl ..) ..) (by decide) ?_) | (with_reducible apply Kept.ite) | (simp only [id_eq]) | split)

theorem execRouteSetRoutes_kp {die : Nat} {n : Nat} {s t : State} (h : execRouteSetRoutes die n s = .next t) : t.pending = s.pending ∧ Agree 0x3480000000000000245000000004002d16180000000000000020000000000000400000000000000000000000000000000000000000 s.dev t.dev := by
  refine State.onCarrier_kp _ _ s t (fun d => ?_) h
  repeat' (first | (with_reducible exact Agree.refl _ _) | with_reducible assumption | intro _ | (with_reducible refine Dev.routeRun_kp (hμ := (Within.refl _).up (by decide)) (hκ := ?_) ..) | (with_reducible apply Agree.ite) | (simp only [id_eq]) | split)

theorem execRouteSetRoutes_st {die : Nat} {n : Nat} {s t : State} (hs : Kept s.dev) (h : execRouteSetRoutes die n s = .next t) : Kept t.dev := by
  refine State.onCarrier_st _ _ s t (fun d hκ => ?_) hs h
  repeat' (first | with_reducible assumption | intro _ | (with_reducible refine Dev.routeRun_st (hκ := ?_) ..) | (with_reducible apply Kept.ite) | (simp only [id_eq]) | split)

theorem execRouteSetKnuckles_kp {die : Nat} {n : Nat} {s t : State} (h : execRouteSetKnuckles die n s = .next t) : t.pending = s.pending ∧ Agree 0x3480000000000000245000000004002d16180000000000000020000000000000400000000000000000000000000000000000000000 s.dev t.dev := by
  refine State.onCarrier_kp _ _ s t (fun d => ?_) h
  repeat' (first | (with_reducible exact Agree.refl _ _) | with_reducible assumption | intro _ | (with_reducible refine Dev.routeRun_kp (hμ := (Within.refl _).up (by decide)) (hκ := ?_) ..) | (with_reducible apply Agree.ite) | (simp only [id_eq]) | split)

theorem execRouteSetKnuckles_st {die : Nat} {n : Nat} {s t : State} (hs : Kept s.dev) (h : execRouteSetKnuckles die n s = .next t) : Kept t.dev := by
  refine State.onCarrier_st _ _ s t (fun d hκ => ?_) hs h
  repeat' (first | with_reducible assumption | intro _ | (with_reducible refine Dev.routeRun_st (hκ := ?_) ..) | (with_reducible apply Kept.ite) | (simp only [id_eq]) | split)

theorem execMarginReport_kp {die : Nat} {n : Nat} {again : Bool} {s t : State} (h : execMarginReport die n again s = .next t) : t.pending = s.pending ∧ Agree 0x3480000000000000245000000004002d16180000000000000000000000000000000000000000000000000000000000000000000000 s.dev t.dev := by
  refine State.onCarrier_kp _ _ s t (fun d => ?_) h
  repeat' (first | (with_reducible exact Agree.refl _ _) | with_reducible assumption | intro _ | (with_reducible refine Dev.helRun_kp (hc := ?_) (hμ := (Within.refl _).up (by decide)) (hκ := ?_) ..) | (with_reducible refine cmdMarginReport_kp (hμ := (Within.refl _).up (by decide)) (hκ := ?_) ..) | (with_reducible refine cmdMarginReport_kp (hμ := (Within.refl _).up (by decide)) (hκ := ?_) ..) | (with_reducible apply Agree.ite) | (simp only [id_eq]) | split)

theorem execMarginReport_st {die : Nat} {n : Nat} {again : Bool} {s t : State} (hs : Kept s.dev) (h : execMarginReport die n again s = .next t) : Kept t.dev := by
  refine State.onCarrier_st _ _ s t (fun d hκ => ?_) hs h
  repeat' (first | with_reducible assumption | intro _ | (with_reducible refine Dev.helRun_st (hc := ?_) (hκ := ?_) ..) | (with_reducible refine cmdMarginReport_st (hκ := ?_) ..) | (with_reducible refine Agree.kept (cmdMarginReport_kp (hμ := Within.refl _) (hκ := Agree.refl ..) ..) (by decide) ?_) | (with_reducible apply Kept.ite) | (simp only [id_eq]) | split)

theorem execMarginApply_kp {die : Nat} {n : Nat} {again : Bool} {s t : State} (h : execMarginApply die n again s = .next t) : t.pending = s.pending ∧ Agree 0x3480000000000080245000000004002d16180000000000000000000000000000000000000000000000000000000000000000000000 s.dev t.dev := by
  refine State.onCarrier_kp _ _ s t (fun d => ?_) h
  repeat' (first | (with_reducible exact Agree.refl _ _) | with_reducible assumption | intro _ | (with_reducible refine Dev.helRun_kp (hc := ?_) (hμ := (Within.refl _).up (by decide)) (hκ := ?_) ..) | (with_reducible refine cmdMarginApply_kp (hμ := (Within.refl _).up (by decide)) (hκ := ?_) ..) | (with_reducible refine cmdMarginApply_kp (hμ := (Within.refl _).up (by decide)) (hκ := ?_) ..) | (with_reducible apply Agree.ite) | (simp only [id_eq]) | split)

theorem execMarginApply_st {die : Nat} {n : Nat} {again : Bool} {s t : State} (hs : Kept s.dev) (h : execMarginApply die n again s = .next t) : Kept t.dev := by
  refine State.onCarrier_st _ _ s t (fun d hκ => ?_) hs h
  repeat' (first | with_reducible assumption | intro _ | (with_reducible refine Dev.helRun_st (hc := ?_) (hκ := ?_) ..) | (with_reducible refine cmdMarginApply_st (hκ := ?_) ..) | (with_reducible refine Agree.kept (cmdMarginApply_kp (hμ := Within.refl _) (hκ := Agree.refl ..) ..) (by decide) ?_) | (with_reducible apply Kept.ite) | (simp only [id_eq]) | split)

theorem execFwStage_kp {die : Nat} {n : Nat} {again : Bool} {s t : State} (h : execFwStage die n again s = .next t) : t.pending = s.pending ∧ Agree 0x103480000000000000245000000004002d16180000000000000000000000000000000000000000000000000000000000000000000000 s.dev t.dev := by
  refine State.onCarrier_kp _ _ s t (fun d => ?_) h
  repeat' (first | (with_reducible exact Agree.refl _ _) | with_reducible assumption | intro _ | (with_reducible refine Dev.helRun_kp (hc := ?_) (hμ := (Within.refl _).up (by decide)) (hκ := ?_) ..) | (with_reducible refine cmdStage_kp (hμ := (Within.refl _).up (by decide)) (hκ := ?_) ..) | (with_reducible refine cmdStage_kp (hμ := (Within.refl _).up (by decide)) (hκ := ?_) ..) | (with_reducible apply Agree.ite) | (simp only [id_eq]) | split)

theorem execFwStage_st {die : Nat} {n : Nat} {again : Bool} {s t : State} (hs : Kept s.dev) (h : execFwStage die n again s = .next t) : Kept t.dev := by
  refine State.onCarrier_st _ _ s t (fun d hκ => ?_) hs h
  repeat' (first | with_reducible assumption | intro _ | (with_reducible refine Dev.helRun_st (hc := ?_) (hκ := ?_) ..) | (with_reducible refine cmdStage_st (hκ := ?_) ..) | (with_reducible refine Agree.kept (cmdStage_kp (hμ := Within.refl _) (hκ := Agree.refl ..) ..) (by decide) ?_) | (with_reducible apply Kept.ite) | (simp only [id_eq]) | split)

theorem execFwCommit_kp {die : Nat} {n : Nat} {again : Bool} {bad : Bool} {s t : State} (h : execFwCommit die n again bad s = .next t) : t.pending = s.pending ∧ Agree 0x3480000000000000245000000004002d16180000000000000000000000000000000000000000000000000000000000000000000000 s.dev t.dev := by
  refine State.onCarrier_kp _ _ s t (fun d => ?_) h
  repeat' (first | (with_reducible exact Agree.refl _ _) | with_reducible assumption | intro _ | (with_reducible refine Dev.helRun_kp (hc := ?_) (hμ := (Within.refl _).up (by decide)) (hκ := ?_) ..) | (with_reducible refine cmdCommit_kp (hμ := (Within.refl _).up (by decide)) (hκ := ?_) ..) | (with_reducible refine cmdCommit_kp (hμ := (Within.refl _).up (by decide)) (hκ := ?_) ..) | (with_reducible apply Agree.ite) | (simp only [id_eq]) | split)

theorem execFwCommit_st {die : Nat} {n : Nat} {again : Bool} {bad : Bool} {s t : State} (hs : Kept s.dev) (h : execFwCommit die n again bad s = .next t) : Kept t.dev := by
  refine State.onCarrier_st _ _ s t (fun d hκ => ?_) hs h
  repeat' (first | with_reducible assumption | intro _ | (with_reducible refine Dev.helRun_st (hc := ?_) (hκ := ?_) ..) | (with_reducible refine cmdCommit_st (hκ := ?_) ..) | (with_reducible refine Agree.kept (cmdCommit_kp (hμ := Within.refl _) (hκ := Agree.refl ..) ..) (by decide) ?_) | (with_reducible apply Kept.ite) | (simp only [id_eq]) | split)

theorem execCoreRetest_kp {die : Nat} {n : Nat} {again : Bool} {pass : Bool} {s t : State} (h : execCoreRetest die n again pass s = .next t) : t.pending = s.pending ∧ Agree 0x3480000000038000245000000004002d1618000000000000000000000000000c0000000000000000000000000000000000000000e0 s.dev t.dev := by
  refine State.onCarrier_kp _ _ s t (fun d => ?_) h
  repeat' (first | (with_reducible exact Agree.refl _ _) | with_reducible assumption | intro _ | (with_reducible refine Dev.helRun_kp (hc := ?_) (hμ := (Within.refl _).up (by decide)) (hκ := ?_) ..) | (with_reducible refine cmdRetest_kp (hμ := (Within.refl _).up (by decide)) (hκ := ?_) ..) | (with_reducible refine cmdRetest_kp (hμ := (Within.refl _).up (by decide)) (hκ := ?_) ..) | (with_reducible apply Agree.ite) | (simp only [id_eq]) | split)

theorem execCoreRetest_st {die : Nat} {n : Nat} {again : Bool} {pass : Bool} {s t : State} (hs : Kept s.dev) (h : execCoreRetest die n again pass s = .next t) : Kept t.dev := by
  refine State.onCarrier_st _ _ s t (fun d hκ => ?_) hs h
  repeat' (first | with_reducible assumption | intro _ | (with_reducible refine Dev.helRun_st (hc := ?_) (hκ := ?_) ..) | (with_reducible refine cmdRetest_st (hκ := ?_) ..) | (with_reducible refine cmdRetest_st (hκ := ?_) ..) | (with_reducible apply Kept.ite) | (simp only [id_eq]) | split)

theorem execSpareMap_kp {die : Nat} {n : Nat} {again : Bool} {s t : State} (h : execSpareMap die n again s = .next t) : t.pending = s.pending ∧ Agree 0x34800000021bc000245000000004002d1618000000000000000000000000000c000000000c000000000000000000000000000000ea s.dev t.dev := by
  refine State.onCarrier_kp _ _ s t (fun d => ?_) h
  repeat' (first | (with_reducible exact Agree.refl _ _) | with_reducible assumption | intro _ | (with_reducible refine Dev.helRun_kp (hc := ?_) (hμ := (Within.refl _).up (by decide)) (hκ := ?_) ..) | (with_reducible refine cmdSpare_kp (hμ := (Within.refl _).up (by decide)) (hκ := ?_) ..) | (with_reducible refine cmdSpare_kp (hμ := (Within.refl _).up (by decide)) (hκ := ?_) ..) | (with_reducible apply Agree.ite) | (simp only [id_eq]) | split)

theorem execSpareMap_st {die : Nat} {n : Nat} {again : Bool} {s t : State} (hs : Kept s.dev) (h : execSpareMap die n again s = .next t) : Kept t.dev := by
  refine State.onCarrier_st _ _ s t (fun d hκ => ?_) hs h
  repeat' (first | with_reducible assumption | intro _ | (with_reducible refine Dev.helRun_st (hc := ?_) (hκ := ?_) ..) | (with_reducible refine cmdSpare_st (hκ := ?_) ..) | (with_reducible refine cmdSpare_st (hκ := ?_) ..) | (with_reducible apply Kept.ite) | (simp only [id_eq]) | split)

theorem execMemtest_kp {die : Nat} {n : Nat} {again : Bool} {s t : State} (h : execMemtest die n again s = .next t) : t.pending = s.pending ∧ Agree 0x3480081800038000245000000004002d16180000000000000000000000000000000000000000000000001000000000000000000000 s.dev t.dev := by
  refine State.onCarrier_kp _ _ s t (fun d => ?_) h
  repeat' (first | (with_reducible exact Agree.refl _ _) | with_reducible assumption | intro _ | (with_reducible refine Dev.helRun_kp (hc := ?_) (hμ := (Within.refl _).up (by decide)) (hκ := ?_) ..) | (with_reducible refine cmdMemtest_kp (hμ := (Within.refl _).up (by decide)) (hκ := ?_) ..) | (with_reducible refine cmdMemtest_kp (hμ := (Within.refl _).up (by decide)) (hκ := ?_) ..) | (with_reducible apply Agree.ite) | (simp only [id_eq]) | split)

theorem execMemtest_st {die : Nat} {n : Nat} {again : Bool} {s t : State} (hs : Kept s.dev) (h : execMemtest die n again s = .next t) : Kept t.dev := by
  refine State.onCarrier_st _ _ s t (fun d hκ => ?_) hs h
  repeat' (first | with_reducible assumption | intro _ | (with_reducible refine Dev.helRun_st (hc := ?_) (hκ := ?_) ..) | (with_reducible refine cmdMemtest_st (hκ := ?_) ..) | (with_reducible refine cmdMemtest_st (hκ := ?_) ..) | (with_reducible apply Kept.ite) | (simp only [id_eq]) | split)

theorem execBlankReport_kp {die : Nat} {n : Nat} {again : Bool} {s t : State} (h : execBlankReport die n again s = .next t) : t.pending = s.pending ∧ Agree 0x3480000000000000245000000004002d16180000000000000000000000000000000000000000000000000000000000000000000000 s.dev t.dev := by
  refine State.onCarrier_kp _ _ s t (fun d => ?_) h
  repeat' (first | (with_reducible exact Agree.refl _ _) | with_reducible assumption | intro _ | (with_reducible refine Dev.helRun_kp (hc := ?_) (hμ := (Within.refl _).up (by decide)) (hκ := ?_) ..) | (with_reducible refine cmdBlank_kp (hμ := (Within.refl _).up (by decide)) (hκ := ?_) ..) | (with_reducible refine cmdBlank_kp (hμ := (Within.refl _).up (by decide)) (hκ := ?_) ..) | (with_reducible apply Agree.ite) | (simp only [id_eq]) | split)

theorem execBlankReport_st {die : Nat} {n : Nat} {again : Bool} {s t : State} (hs : Kept s.dev) (h : execBlankReport die n again s = .next t) : Kept t.dev := by
  refine State.onCarrier_st _ _ s t (fun d hκ => ?_) hs h
  repeat' (first | with_reducible assumption | intro _ | (with_reducible refine Dev.helRun_st (hc := ?_) (hκ := ?_) ..) | (with_reducible refine cmdBlank_st (hκ := ?_) ..) | (with_reducible refine Agree.kept (cmdBlank_kp (hμ := Within.refl _) (hκ := Agree.refl ..) ..) (by decide) ?_) | (with_reducible apply Kept.ite) | (simp only [id_eq]) | split)

theorem execDeferredCommandRun_kp {die : Nat} {n : Nat} {ovr : Bool} {s t : State} (h : execDeferredCommandRun die n ovr s = .next t) : t.pending = s.pending ∧ Agree 0x1779e581a7e3bc200245000011804002d1600000c000000e06c6400c009800309c00685800c0000000230148020fe0bf89fe2000042 s.dev t.dev := by
  refine State.onCarrier_kp _ _ s t (fun d => ?_) h
  repeat' (first | (with_reducible exact Agree.refl _ _) | with_reducible assumption | intro _ | (with_reducible refine Dev.deferredRun_kp (hμ := (Within.refl _).up (by decide)) (hκ := ?_) ..) | (with_reducible apply Agree.ite) | (simp only [id_eq]) | split)

theorem execDeferredCommandRun_st {die : Nat} {n : Nat} {ovr : Bool} {s t : State} (hs : Kept s.dev) (h : execDeferredCommandRun die n ovr s = .next t) : Kept t.dev := by
  refine State.onCarrier_st _ _ s t (fun d hκ => ?_) hs h
  repeat' (first | with_reducible assumption | intro _ | (with_reducible refine Dev.deferredRun_st (hκ := ?_) ..) | (with_reducible apply Kept.ite) | (simp only [id_eq]) | split)

theorem execLeadHeartbeat_kp {die : Nat} {s t : State} (h : execLeadHeartbeat die s = .next t) : t.pending = s.pending ∧ Agree 0x2080000000000000245000000004002000000000000004000000000000000000000000000000000000000000000000000000000000 s.dev t.dev := by
  refine State.onCarrier_kp _ _ s t (fun d => ?_) h
  repeat' (first | (with_reducible exact Agree.refl _ _) | with_reducible assumption | intro _ | (with_reducible refine Dev.heartbeat_kp (hμ := (Within.refl _).up (by decide)) (hκ := ?_) ..) | (with_reducible apply Agree.ite) | (simp only [id_eq]) | split)

theorem execLeadHeartbeat_st {die : Nat} {s t : State} (hs : Kept s.dev) (h : execLeadHeartbeat die s = .next t) : Kept t.dev := by
  refine State.onCarrier_st _ _ s t (fun d hκ => ?_) hs h
  repeat' (first | with_reducible assumption | intro _ | (with_reducible refine Dev.heartbeat_st (hκ := ?_) ..) | (with_reducible apply Kept.ite) | (simp only [id_eq]) | split)

theorem execElectionStart_kp {die : Nat} {s t : State} (h : execElectionStart die s = .next t) : t.pending = s.pending ∧ Agree 0x2000000000000000000000000000000000000000000000000000000000000000000000000000000000000000000000000000000000 s.dev t.dev := by
  refine State.onCarrier_kp _ _ s t (fun d => ?_) h
  repeat' (first | (with_reducible exact Agree.refl _ _) | with_reducible assumption | intro _ | (with_reducible refine Dev.electionStart_kp (hμ := (Within.refl _).up (by decide)) (hκ := ?_) ..) | (with_reducible apply Agree.ite) | (simp only [id_eq]) | split)

theorem execElectionStart_st {die : Nat} {s t : State} (hs : Kept s.dev) (h : execElectionStart die s = .next t) : Kept t.dev := by
  refine State.onCarrier_st _ _ s t (fun d hκ => ?_) hs h
  repeat' (first | with_reducible assumption | intro _ | (with_reducible refine Dev.electionStart_st (hκ := ?_) ..) | (with_reducible apply Kept.ite) | (simp only [id_eq]) | split)

theorem execElectionPropose_kp {die : Nat} {s t : State} (h : execElectionPropose die s = .next t) : t.pending = s.pending ∧ Agree 0x2480000000000000245000000004002914000000000004000000000000000000000000000000000000000000000000000000000000 s.dev t.dev := by
  refine State.onCarrier_kp _ _ s t (fun d => ?_) h
  repeat' (first | (with_reducible exact Agree.refl _ _) | with_reducible assumption | intro _ | (with_reducible refine Dev.electionPropose_kp (hμ := (Within.refl _).up (by decide)) (hκ := ?_) ..) | (with_reducible apply Agree.ite) | (simp only [id_eq]) | split)

theorem execElectionPropose_st {die : Nat} {s t : State} (hs : Kept s.dev) (h : execElectionPropose die s = .next t) : Kept t.dev := by
  refine State.onCarrier_st _ _ s t (fun d hκ => ?_) hs h
  repeat' (first | with_reducible assumption | intro _ | (with_reducible refine Dev.electionPropose_st (hκ := ?_) ..) | (with_reducible apply Kept.ite) | (simp only [id_eq]) | split)

theorem execLeadOnlyMessage_kp {by_ : Nat} {die : Nat} {off : Nat} {value : Nat} {write : Bool} {s t : State} (h : execLeadOnlyMessage by_ die off value write s = .next t) : t.pending = s.pending ∧ Agree 0x3bf9ef6227fdbf2ffffffffffffffffffffffffffffffffffffffffffffffffffffffffffffffffffffffffffffffffffffffffffff s.dev t.dev := by
  refine State.onCarrier_kp _ _ s t (fun d => ?_) h
  repeat' (first | (with_reducible exact Agree.refl _ _) | with_reducible assumption | intro _ | (with_reducible refine Dev.leadMessage_kp (hμ := (Within.refl _).up (by decide)) (hκ := ?_) ..) | (with_reducible apply Agree.ite) | (simp only [id_eq]) | split)

theorem execLeadOnlyMessage_st {by_ : Nat} {die : Nat} {off : Nat} {value : Nat} {write : Bool} {s t : State} (hs : Kept s.dev) (h : execLeadOnlyMessage by_ die off value write s = .next t) : Kept t.dev := by
  refine State.onCarrier_st _ _ s t (fun d hκ => ?_) hs h
  repeat' (first | with_reducible assumption | intro _ | (with_reducible refine Dev.leadMessage_st (hκ := ?_) ..) | (with_reducible apply Kept.ite) | (simp only [id_eq]) | split)

theorem execLeadMessageTimeout_kp {die : Nat} {n : Nat} {s t : State} (h : execLeadMessageTimeout die n s = .next t) : t.pending = s.pending ∧ Agree 0x3400000000000000000000000004000d16000000000000000000000000000000000000000000000000000000000000000000000000 s.dev t.dev := by
  refine State.onCarrier_kp _ _ s t (fun d => ?_) h
  repeat' (first | (with_reducible exact Agree.refl _ _) | with_reducible assumption | intro _ | (with_reducible refine Dev.helTimeout_kp (hμ := (Within.refl _).up (by decide)) (hκ := ?_) ..) | (with_reducible apply Agree.ite) | (simp only [id_eq]) | split)

theorem execLeadMessageTimeout_st {die : Nat} {n : Nat} {s t : State} (hs : Kept s.dev) (h : execLeadMessageTimeout die n s = .next t) : Kept t.dev := by
  refine State.onCarrier_st _ _ s t (fun d hκ => ?_) hs h
  repeat' (first | with_reducible assumption | intro _ | (with_reducible refine Dev.helTimeout_st (hκ := ?_) ..) | (with_reducible apply Kept.ite) | (simp only [id_eq]) | split)

theorem execHubDeadboltSet_kp {die : Nat} {s t : State} (h : execHubDeadboltSet die s = .next t) : t.pending = s.pending ∧ Agree 0xc000000000000000000000000000000000000000000 s.dev t.dev := by
  refine State.onCarrier_kp _ _ s t (fun d => ?_) h
  repeat' (first | (with_reducible exact Agree.refl _ _) | with_reducible assumption | intro _ | (with_reducible refine Dev.hubDbWrite_kp (hμ := (Within.refl _).up (by decide)) (hκ := ?_) ..) | (with_reducible apply Agree.ite) | (simp only [id_eq]) | split)

theorem execHubDeadboltSet_st {die : Nat} {s t : State} (hs : Kept s.dev) (h : execHubDeadboltSet die s = .next t) : Kept t.dev := by
  refine State.onCarrier_st _ _ s t (fun d hκ => ?_) hs h
  repeat' (first | with_reducible assumption | intro _ | (with_reducible refine Dev.hubDbWrite_st (hκ := ?_) ..) | (with_reducible apply Kept.ite) | (simp only [id_eq]) | split)

theorem execHubDbClear_kp {die : Nat} {s t : State} (h : execHubDbClear die s = .next t) : t.pending = s.pending ∧ Agree 0xc000000000000000000000000000000000000000000 s.dev t.dev := by
  refine State.onCarrier_kp _ _ s t (fun d => ?_) h
  repeat' (first | (with_reducible exact Agree.refl _ _) | with_reducible assumption | intro _ | (with_reducible refine Dev.hubDbWrite_kp (hμ := (Within.refl _).up (by decide)) (hκ := ?_) ..) | (with_reducible apply Agree.ite) | (simp only [id_eq]) | split)

theorem execHubDbClear_st {die : Nat} {s t : State} (hs : Kept s.dev) (h : execHubDbClear die s = .next t) : Kept t.dev := by
  refine State.onCarrier_st _ _ s t (fun d hκ => ?_) hs h
  repeat' (first | with_reducible assumption | intro _ | (with_reducible refine Dev.hubDbWrite_st (hκ := ?_) ..) | (with_reducible apply Kept.ite) | (simp only [id_eq]) | split)

theorem execPortFenceWrite_kp {die : Nat} {mask : Nat} {s t : State} (h : execPortFenceWrite die mask s = .next t) : t.pending = s.pending ∧ Agree 0x30000000000000000000000000000000000000000000 s.dev t.dev := by
  refine State.onCarrier_kp _ _ s t (fun d => ?_) h
  repeat' (first | (with_reducible exact Agree.refl _ _) | with_reducible assumption | intro _ | (with_reducible refine Dev.portFence_kp (hμ := (Within.refl _).up (by decide)) (hκ := ?_) ..) | (with_reducible apply Agree.ite) | (simp only [id_eq]) | split)

theorem execPortFenceWrite_st {die : Nat} {mask : Nat} {s t : State} (hs : Kept s.dev) (h : execPortFenceWrite die mask s = .next t) : Kept t.dev := by
  refine State.onCarrier_st _ _ s t (fun d hκ => ?_) hs h
  repeat' (first | with_reducible assumption | intro _ | (with_reducible refine Dev.portFence_st (hκ := ?_) ..) | (with_reducible apply Kept.ite) | (simp only [id_eq]) | split)

theorem execKmapEnWrite_kp {die : Nat} {en : Nat} {s t : State} (h : execKmapEnWrite die en s = .next t) : t.pending = s.pending ∧ Agree 0x400000000000000000000000000000000000000000 s.dev t.dev := by
  refine State.onCarrier_kp _ _ s t (fun d => ?_) h
  repeat' (first | (with_reducible exact Agree.refl _ _) | with_reducible assumption | intro _ | (with_reducible refine Dev.kmapWrite_kp (hμ := (Within.refl _).up (by decide)) (hκ := ?_) ..) | (with_reducible apply Agree.ite) | (simp only [id_eq]) | split)

theorem execKmapEnWrite_st {die : Nat} {en : Nat} {s t : State} (hs : Kept s.dev) (h : execKmapEnWrite die en s = .next t) : Kept t.dev := by
  refine State.onCarrier_st _ _ s t (fun d hκ => ?_) hs h
  repeat' (first | with_reducible assumption | intro _ | (with_reducible refine Dev.kmapWrite_st (hκ := ?_) ..) | (with_reducible apply Kept.ite) | (simp only [id_eq]) | split)

theorem execMapUpdate_kp {die : Nat} {knuckle : Nat} {pkts : List Nat} {msgs : List Nat} {s t : State} (h : execMapUpdate die knuckle pkts msgs s = .next t) : t.pending = s.pending ∧ Agree 0x8000006000000000000000000000000000000000000000000000000000000c00000000000000000000000000000000000000000 s.dev t.dev := by
  refine State.onCarrier_kp _ _ s t (fun d => ?_) h
  repeat' (first | (with_reducible exact Agree.refl _ _) | with_reducible assumption | intro _ | (with_reducible refine Dev.mapUpdate_kp (hμ := (Within.refl _).up (by decide)) (hκ := ?_) ..) | (with_reducible apply Agree.ite) | (simp only [id_eq]) | split)

theorem execMapUpdate_st {die : Nat} {knuckle : Nat} {pkts : List Nat} {msgs : List Nat} {s t : State} (hs : Kept s.dev) (h : execMapUpdate die knuckle pkts msgs s = .next t) : Kept t.dev := by
  refine State.onCarrier_st _ _ s t (fun d hκ => ?_) hs h
  repeat' (first | with_reducible assumption | intro _ | (with_reducible refine Dev.mapUpdate_st (hκ := ?_) ..) | (with_reducible apply Kept.ite) | (simp only [id_eq]) | split)

theorem execKnuckleRecover_kp {die : Nat} {inst : Nat} {s t : State} (h : execKnuckleRecover die inst s = .next t) : t.pending = s.pending ∧ Agree 0x8e000000000000245000000000000000000000000000000000000000000300400000000000000000000000000000000000000000 s.dev t.dev := by
  refine State.onKnuckleEnd_kp _ _ _ s t (fun d => ?_) h
  repeat' (first | (with_reducible exact Agree.refl _ _) | with_reducible assumption | intro _ | (with_reducible refine Dev.knkCtlWrite_kp (hμ := (Within.refl _).up (by decide)) (hκ := ?_) ..) | (with_reducible apply Agree.ite) | (simp only [id_eq]) | split)

theorem execKnuckleRecover_st {die : Nat} {inst : Nat} {s t : State} (hs : Kept s.dev) (h : execKnuckleRecover die inst s = .next t) : Kept t.dev := by
  refine State.onKnuckleEnd_st _ _ _ s t (fun d hκ => ?_) hs h
  repeat' (first | with_reducible assumption | intro _ | (with_reducible refine Dev.knkCtlWrite_st (hκ := ?_) ..) | (with_reducible apply Kept.ite) | (simp only [id_eq]) | split)

theorem execKnuckleFull_kp {die : Nat} {inst : Nat} {s t : State} (h : execKnuckleFull die inst s = .next t) : t.pending = s.pending ∧ Agree 0x8e000000000000245000000000000000000000000000000000000000000300400000000000000000000000000000000000000000 s.dev t.dev := by
  refine State.onKnuckleEnd_kp _ _ _ s t (fun d => ?_) h
  repeat' (first | (with_reducible exact Agree.refl _ _) | with_reducible assumption | intro _ | (with_reducible refine Dev.knkCtlWrite_kp (hμ := (Within.refl _).up (by decide)) (hκ := ?_) ..) | (with_reducible apply Agree.ite) | (simp only [id_eq]) | split)

theorem execKnuckleFull_st {die : Nat} {inst : Nat} {s t : State} (hs : Kept s.dev) (h : execKnuckleFull die inst s = .next t) : Kept t.dev := by
  refine State.onKnuckleEnd_st _ _ _ s t (fun d hκ => ?_) hs h
  repeat' (first | with_reducible assumption | intro _ | (with_reducible refine Dev.knkCtlWrite_st (hκ := ?_) ..) | (with_reducible apply Kept.ite) | (simp only [id_eq]) | split)

theorem execKnuckleHold_kp {die : Nat} {inst : Nat} {s t : State} (h : execKnuckleHold die inst s = .next t) : t.pending = s.pending ∧ Agree 0x8e000000000000245000000000000000000000000000000000000000000300400000000000000000000000000000000000000000 s.dev t.dev := by
  refine State.onKnuckleEnd_kp _ _ _ s t (fun d => ?_) h
  repeat' (first | (with_reducible exact Agree.refl _ _) | with_reducible assumption | intro _ | (with_reducible refine Dev.knkCtlWrite_kp (hμ := (Within.refl _).up (by decide)) (hκ := ?_) ..) | (with_reducible apply Agree.ite) | (simp only [id_eq]) | split)

theorem execKnuckleHold_st {die : Nat} {inst : Nat} {s t : State} (hs : Kept s.dev) (h : execKnuckleHold die inst s = .next t) : Kept t.dev := by
  refine State.onKnuckleEnd_st _ _ _ s t (fun d hκ => ?_) hs h
  repeat' (first | with_reducible assumption | intro _ | (with_reducible refine Dev.knkCtlWrite_st (hκ := ?_) ..) | (with_reducible apply Kept.ite) | (simp only [id_eq]) | split)

theorem execKnuckleTrainingStepEnd_kp {knuckle : Nat} {near : KnkRes} {far : KnkRes} {s t : State} (h : execKnuckleTrainingStepEnd knuckle near far s = .next t) : t.pending = s.pending ∧ Agree 0x8f000000000000245000000000000000000000000000000000000000081f80400000000000000000000000000000000000000000 s.dev t.dev := by
  refine State.onKnuckle_kp _ _ s t (fun d => ?_) h
  repeat' (first | (with_reducible exact Agree.refl _ _) | with_reducible assumption | intro _ | (with_reducible refine Dev.knkStepEnd_kp (hμ := (Within.refl _).up (by decide)) (hκ := ?_) ..) | (with_reducible apply Agree.ite) | (simp only [id_eq]) | split)

theorem execKnuckleTrainingStepEnd_st {knuckle : Nat} {near : KnkRes} {far : KnkRes} {s t : State} (hs : Kept s.dev) (h : execKnuckleTrainingStepEnd knuckle near far s = .next t) : Kept t.dev := by
  refine State.onKnuckle_st _ _ s t (fun d hκ => ?_) hs h
  repeat' (first | with_reducible assumption | intro _ | (with_reducible refine Dev.knkStepEnd_st (hκ := ?_) ..) | (with_reducible apply Kept.ite) | (simp only [id_eq]) | split)

theorem execKnuckleQualEnd_kp {knuckle : Nat} {nearErrs : Nat} {farErrs : Nat} {s t : State} (h : execKnuckleQualEnd knuckle nearErrs farErrs s = .next t) : t.pending = s.pending ∧ Agree 0x8f000000000000245000000000000000000000000000000000000000004300400000000000000000000000000000000000000000 s.dev t.dev := by
  refine State.onKnuckle_kp _ _ s t (fun d => ?_) h
  repeat' (first | (with_reducible exact Agree.refl _ _) | with_reducible assumption | intro _ | (with_reducible refine Dev.knkQualEnd_kp (hμ := (Within.refl _).up (by decide)) (hκ := ?_) ..) | (with_reducible apply Agree.ite) | (simp only [id_eq]) | split)

theorem execKnuckleQualEnd_st {knuckle : Nat} {nearErrs : Nat} {farErrs : Nat} {s t : State} (hs : Kept s.dev) (h : execKnuckleQualEnd knuckle nearErrs farErrs s = .next t) : Kept t.dev := by
  refine State.onKnuckle_st _ _ s t (fun d hκ => ?_) hs h
  repeat' (first | with_reducible assumption | intro _ | (with_reducible refine Dev.knkQualEnd_st (hκ := ?_) ..) | (with_reducible apply Kept.ite) | (simp only [id_eq]) | split)

theorem execKnuckleFlitReceive_kp {die : Nat} {inst : Nat} {flit : Bytes} {s t : State} (h : execKnuckleFlitReceive die inst flit s = .next t) : t.pending = s.pending ∧ Agree 0x83000004000000245000000000000000000000000000000000000000330200000000000000000000000000000000000000000000 s.dev t.dev := by
  refine State.onKnuckleEnd_kp _ _ _ s t (fun d => ?_) h
  repeat' (first | (with_reducible exact Agree.refl _ _) | with_reducible assumption | intro _ | (with_reducible refine Dev.knkFlit_kp (hμ := (Within.refl _).up (by decide)) (hκ := ?_) ..) | (with_reducible apply Agree.ite) | (simp only [id_eq]) | split)

theorem execKnuckleFlitReceive_st {die : Nat} {inst : Nat} {flit : Bytes} {s t : State} (hs : Kept s.dev) (h : execKnuckleFlitReceive die inst flit s = .next t) : Kept t.dev := by
  refine State.onKnuckleEnd_st _ _ _ s t (fun d hκ => ?_) hs h
  repeat' (first | with_reducible assumption | intro _ | (with_reducible refine Dev.knkFlit_st (hκ := ?_) ..) | (with_reducible apply Kept.ite) | (simp only [id_eq]) | split)

theorem execKnuckleNakRepeat_kp {die : Nat} {inst : Nat} {s t : State} (h : execKnuckleNakRepeat die inst s = .next t) : t.pending = s.pending ∧ Agree 0x1000000000000000000000000000000000000000000000000000000000000000000000000000000000000000000000000000000 s.dev t.dev := by
  refine State.onKnuckleEnd_kp _ _ _ s t (fun d => ?_) h
  repeat' (first | (with_reducible exact Agree.refl _ _) | with_reducible assumption | intro _ | (with_reducible refine Dev.knkNakAgain_kp (hμ := (Within.refl _).up (by decide)) (hκ := ?_) ..) | (with_reducible apply Agree.ite) | (simp only [id_eq]) | split)

theorem execKnuckleNakRepeat_st {die : Nat} {inst : Nat} {s t : State} (hs : Kept s.dev) (h : execKnuckleNakRepeat die inst s = .next t) : Kept t.dev := by
  refine State.onKnuckleEnd_st _ _ _ s t (fun d hκ => ?_) hs h
  repeat' (first | with_reducible assumption | intro _ | (with_reducible refine Dev.knkNakAgain_st (hκ := ?_) ..) | (with_reducible apply Kept.ite) | (simp only [id_eq]) | split)

theorem execKnuckleSignalLoss_kp {die : Nat} {inst : Nat} {s t : State} (h : execKnuckleSignalLoss die inst s = .next t) : t.pending = s.pending ∧ Agree 0x8e000000000000245000000000000000000000000000000000000000000300400000000000000000000000000000000000000000 s.dev t.dev := by
  refine State.onKnuckleEnd_kp _ _ _ s t (fun d => ?_) h
  repeat' (first | (with_reducible exact Agree.refl _ _) | with_reducible assumption | intro _ | (with_reducible refine Dev.knkSignalLoss_kp (hμ := (Within.refl _).up (by decide)) (hκ := ?_) ..) | (with_reducible apply Agree.ite) | (simp only [id_eq]) | split)

theorem execKnuckleSignalLoss_st {die : Nat} {inst : Nat} {s t : State} (hs : Kept s.dev) (h : execKnuckleSignalLoss die inst s = .next t) : Kept t.dev := by
  refine State.onKnuckleEnd_st _ _ _ s t (fun d hκ => ?_) hs h
  repeat' (first | with_reducible assumption | intro _ | (with_reducible refine Dev.knkSignalLoss_st (hκ := ?_) ..) | (with_reducible apply Kept.ite) | (simp only [id_eq]) | split)

theorem execInsert_kp {die : Nat} {s t : State} (h : execInsert die s = .next t) : t.pending = s.pending ∧ Agree 0x3000000040000000000000000000000000000000000000000000000000000000012f0000000000000000000000000000000000 s.dev t.dev := by
  refine State.onCarrier_kp _ _ s t (fun d => ?_) h
  repeat' (first | (with_reducible exact Agree.refl _ _) | with_reducible assumption | intro _ | (with_reducible refine Dev.krgCmdWrite_kp (hμ := (Within.refl _).up (by decide)) (hκ := ?_) ..) | (with_reducible apply Agree.ite) | (simp only [id_eq]) | split)

theorem execInsert_st {die : Nat} {s t : State} (hs : Kept s.dev) (h : execInsert die s = .next t) : Kept t.dev := by
  refine State.onCarrier_st _ _ s t (fun d hκ => ?_) hs h
  repeat' (first | with_reducible assumption | intro _ | (with_reducible refine Dev.krgCmdWrite_st (hκ := ?_) ..) | (with_reducible apply Kept.ite) | (simp only [id_eq]) | split)

theorem execModify_kp {die : Nat} {s t : State} (h : execModify die s = .next t) : t.pending = s.pending ∧ Agree 0x3000000040000000000000000000000000000000000000000000000000000000012f0000000000000000000000000000000000 s.dev t.dev := by
  refine State.onCarrier_kp _ _ s t (fun d => ?_) h
  repeat' (first | (with_reducible exact Agree.refl _ _) | with_reducible assumption | intro _ | (with_reducible refine Dev.krgCmdWrite_kp (hμ := (Within.refl _).up (by decide)) (hκ := ?_) ..) | (with_reducible apply Agree.ite) | (simp only [id_eq]) | split)

theorem execModify_st {die : Nat} {s t : State} (hs : Kept s.dev) (h : execModify die s = .next t) : Kept t.dev := by
  refine State.onCarrier_st _ _ s t (fun d hκ => ?_) hs h
  repeat' (first | with_reducible assumption | intro _ | (with_reducible refine Dev.krgCmdWrite_st (hκ := ?_) ..) | (with_reducible apply Kept.ite) | (simp only [id_eq]) | split)

theorem execReadEntry_kp {die : Nat} {s t : State} (h : execReadEntry die s = .next t) : t.pending = s.pending ∧ Agree 0x3000000040000000000000000000000000000000000000000000000000000000012f0000000000000000000000000000000000 s.dev t.dev := by
  refine State.onCarrier_kp _ _ s t (fun d => ?_) h
  repeat' (first | (with_reducible exact Agree.refl _ _) | with_reducible assumption | intro _ | (with_reducible refine Dev.krgCmdWrite_kp (hμ := (Within.refl _).up (by decide)) (hκ := ?_) ..) | (with_reducible apply Agree.ite) | (simp only [id_eq]) | split)

theorem execReadEntry_st {die : Nat} {s t : State} (hs : Kept s.dev) (h : execReadEntry die s = .next t) : Kept t.dev := by
  refine State.onCarrier_st _ _ s t (fun d hκ => ?_) hs h
  repeat' (first | with_reducible assumption | intro _ | (with_reducible refine Dev.krgCmdWrite_st (hκ := ?_) ..) | (with_reducible apply Kept.ite) | (simp only [id_eq]) | split)

theorem execRemoveUnused_kp {die : Nat} {s t : State} (h : execRemoveUnused die s = .next t) : t.pending = s.pending ∧ Agree 0x3000000040000000000000000000000000000000000000000000000000000000012f0000000000000000000000000000000000 s.dev t.dev := by
  refine State.onCarrier_kp _ _ s t (fun d => ?_) h
  repeat' (first | (with_reducible exact Agree.refl _ _) | with_reducible assumption | intro _ | (with_reducible refine Dev.krgCmdWrite_kp (hμ := (Within.refl _).up (by decide)) (hκ := ?_) ..) | (with_reducible apply Agree.ite) | (simp only [id_eq]) | split)

theorem execRemoveUnused_st {die : Nat} {s t : State} (hs : Kept s.dev) (h : execRemoveUnused die s = .next t) : Kept t.dev := by
  refine State.onCarrier_st _ _ s t (fun d hκ => ?_) hs h
  repeat' (first | with_reducible assumption | intro _ | (with_reducible refine Dev.krgCmdWrite_st (hκ := ?_) ..) | (with_reducible apply Kept.ite) | (simp only [id_eq]) | split)

theorem execKrgCommandDone_kp {die : Nat} {s t : State} (h : execKrgCommandDone die s = .next t) : t.pending = s.pending ∧ Agree 0x200000000000000000000000000000000000000000000000000000000000000000200000000000000000000000000000000000 s.dev t.dev := by
  refine State.onCarrier_kp _ _ s t (fun d => ?_) h
  repeat' (first | (with_reducible exact Agree.refl _ _) | with_reducible assumption | intro _ | (with_reducible refine Dev.krgDone_kp (hμ := (Within.refl _).up (by decide)) (hκ := ?_) ..) | (with_reducible apply Agree.ite) | (simp only [id_eq]) | split)

theorem execKrgCommandDone_st {die : Nat} {s t : State} (hs : Kept s.dev) (h : execKrgCommandDone die s = .next t) : Kept t.dev := by
  refine State.onCarrier_st _ _ s t (fun d hκ => ?_) hs h
  repeat' (first | with_reducible assumption | intro _ | (with_reducible refine Dev.krgDone_st (hκ := ?_) ..) | (with_reducible apply Kept.ite) | (simp only [id_eq]) | split)

theorem execQuotaWrite_kp {die : Nat} {value : Nat} {s t : State} (h : execQuotaWrite die value s = .next t) : t.pending = s.pending ∧ Agree 0x800000000000000000000000000000000000 s.dev t.dev := by
  refine State.onCarrier_kp _ _ s t (fun d => ?_) h
  repeat' (first | (with_reducible exact Agree.refl _ _) | with_reducible assumption | intro _ | (with_reducible refine Dev.writeKey_kp _ _ _ _ _ _ _ ((Within.refl _).bit (by decide)) ?_) | (with_reducible apply Agree.ite) | (simp only [id_eq]) | split)

theorem execQuotaWrite_st {die : Nat} {value : Nat} {s t : State} (hs : Kept s.dev) (h : execQuotaWrite die value s = .next t) : Kept t.dev := by
  refine State.onCarrier_st _ _ s t (fun d hκ => ?_) hs h
  repeat' (first | with_reducible assumption | intro _ | (with_reducible refine Kept.raw ?_) | (with_reducible refine Dev.writeGen_fst (hκ := ?_) ..) | (with_reducible apply Kept.ite) | (simp only [id_eq]) | split)

theorem execHostWindowWrite_kp {die : Nat} {word : Nat} {value : Nat} {s t : State} (h : execHostWindowWrite die word value s = .next t) : t.pending = s.pending ∧ Agree 0x1f000000000000000000000000000000000000000 s.dev t.dev := by
  refine State.onCarrier_kp _ _ s t (fun d => ?_) h
  repeat' (first | (with_reducible exact Agree.refl _ _) | with_reducible assumption | intro _ | (with_reducible refine Dev.hwWrite_kp (hr := hwReg_bit _ (Within.refl _)) (hμ := (Within.refl _).up (by decide)) (hκ := ?_) ..) | (with_reducible apply Agree.ite) | (simp only [id_eq]) | split)

theorem execHostWindowWrite_st {die : Nat} {word : Nat} {value : Nat} {s t : State} (hs : Kept s.dev) (h : execHostWindowWrite die word value s = .next t) : Kept t.dev := by
  refine State.onCarrier_st _ _ s t (fun d hκ => ?_) hs h
  repeat' (first | with_reducible assumption | intro _ | (with_reducible refine Dev.hwWrite_fst (hκ := ?_) ..) | (with_reducible apply Kept.ite) | (simp only [id_eq]) | split)

theorem execRekeyCut_kp {die : Nat} {all : Bool} {s t : State} (h : execRekeyCut die all s = .next t) : t.pending = s.pending ∧ Agree 0x500030000000000000000000000000000000000000000000000000000000000681000000000000000000000000000000000000 s.dev t.dev := by
  refine State.onCarrier_kp _ _ s t (fun d => ?_) h
  repeat' (first | (with_reducible exact Agree.refl _ _) | with_reducible assumption | intro _ | (with_reducible refine Dev.rkctlWrite_kp (hμ := (Within.refl _).up (by decide)) (hκ := ?_) ..) | (with_reducible apply Agree.ite) | (simp only [id_eq]) | split)

theorem execRekeyCut_st {die : Nat} {all : Bool} {s t : State} (hs : Kept s.dev) (h : execRekeyCut die all s = .next t) : Kept t.dev := by
  refine State.onCarrier_st _ _ s t (fun d hκ => ?_) hs h
  repeat' (first | with_reducible assumption | intro _ | (with_reducible refine Dev.rkctlWrite_st (hκ := ?_) ..) | (with_reducible apply Kept.ite) | (simp only [id_eq]) | split)

theorem execRekeyDrainEnd_kp {die : Nat} {ident : Nat} {s t : State} (h : execRekeyDrainEnd die ident s = .next t) : t.pending = s.pending ∧ Agree 0x400000000000000000000000000000000000000000000000000000000000000180000000000000000000000000000000000000 s.dev t.dev := by
  refine State.onCarrier_kp _ _ s t (fun d => ?_) h
  repeat' (first | (with_reducible exact Agree.refl _ _) | with_reducible assumption | intro _ | (with_reducible refine Dev.rekeyDone_kp (hμ := (Within.refl _).up (by decide)) (hκ := ?_) ..) | (with_reducible apply Agree.ite) | (simp only [id_eq]) | split)

theorem execRekeyDrainEnd_st {die : Nat} {ident : Nat} {s t : State} (hs : Kept s.dev) (h : execRekeyDrainEnd die ident s = .next t) : Kept t.dev := by
  refine State.onCarrier_st _ _ s t (fun d hκ => ?_) hs h
  repeat' (first | with_reducible assumption | intro _ | (with_reducible refine Dev.rekeyDone_st (hκ := ?_) ..) | (with_reducible apply Kept.ite) | (simp only [id_eq]) | split)

theorem execRekeyTimeout_kp {die : Nat} {ident : Nat} {s t : State} (h : execRekeyTimeout die ident s = .next t) : t.pending = s.pending ∧ Agree 0x905001be014000245000000000000000000000000000000000000009800000800684000000000000000000000000101f20000000 s.dev t.dev := by
  refine State.onCarrier_kp _ _ s t (fun d => ?_) h
  repeat' (first | (with_reducible exact Agree.refl _ _) | with_reducible assumption | intro _ | (with_reducible refine Dev.rekeyTimeout_kp (hμ := (Within.refl _).up (by decide)) (hκ := ?_) ..) | (with_reducible apply Agree.ite) | (simp only [id_eq]) | split)

theorem execRekeyTimeout_st {die : Nat} {ident : Nat} {s t : State} (hs : Kept s.dev) (h : execRekeyTimeout die ident s = .next t) : Kept t.dev := by
  refine State.onCarrier_st _ _ s t (fun d hκ => ?_) hs h
  repeat' (first | with_reducible assumption | intro _ | (with_reducible refine Dev.rekeyTimeout_st (hκ := ?_) ..) | (with_reducible apply Kept.ite) | (simp only [id_eq]) | split)

theorem execLaneTrain_kp {die : Nat} {lane : Nat} {s t : State} (h : execLaneTrain die lane s = .next t) : t.pending = s.pending ∧ Agree 0x38010003e004000245000000000000000000000000000e06c6400c000000001000004000000000000000000000000101f20000000 s.dev t.dev := by
  refine State.onLane_kp _ _ _ s t ((Within.refl _).up (by decide)) (fun d => ?_) h
  repeat' (first | (with_reducible exact Agree.refl _ _) | with_reducible assumption | intro _ | (with_reducible refine Dev.laneCmdWrite_kp (hμ := (Within.refl _).up (by decide)) (hκ := ?_) ..) | (with_reducible apply Agree.ite) | (simp only [id_eq]) | split)

theorem execLaneTrain_st {die : Nat} {lane : Nat} {s t : State} (hs : Kept s.dev) (h : execLaneTrain die lane s = .next t) : Kept t.dev := by
  refine State.onLane_st _ _ _ s t (fun d hκ => ?_) hs h
  repeat' (first | with_reducible assumption | intro _ | (with_reducible refine Dev.laneCmdWrite_st (hκ := ?_) ..) | (with_reducible apply Kept.ite) | (simp only [id_eq]) | split)

theorem execLaneHold_kp {die : Nat} {lane : Nat} {s t : State} (h : execLaneHold die lane s = .next t) : t.pending = s.pending ∧ Agree 0x38010003e004000245000000000000000000000000000e06c6400c000000001000004000000000000000000000000101f20000000 s.dev t.dev := by
  refine State.onLane_kp _ _ _ s t ((Within.refl _).up (by decide)) (fun d => ?_) h
  repeat' (first | (with_reducible exact Agree.refl _ _) | with_reducible assumption | intro _ | (with_reducible refine Dev.laneCmdWrite_kp (hμ := (Within.refl _).up (by decide)) (hκ := ?_) ..) | (with_reducible apply Agree.ite) | (simp only [id_eq]) | split)

theorem execLaneHold_st {die : Nat} {lane : Nat} {s t : State} (hs : Kept s.dev) (h : execLaneHold die lane s = .next t) : Kept t.dev := by
  refine State.onLane_st _ _ _ s t (fun d hκ => ?_) hs h
  repeat' (first | with_reducible assumption | intro _ | (with_reducible refine Dev.laneCmdWrite_st (hκ := ?_) ..) | (with_reducible apply Kept.ite) | (simp only [id_eq]) | split)

theorem execLaneSleep_kp {die : Nat} {lane : Nat} {s t : State} (h : execLaneSleep die lane s = .next t) : t.pending = s.pending ∧ Agree 0x38010003e004000245000000000000000000000000000e06c6400c000000001000004000000000000000000000000101f20000000 s.dev t.dev := by
  refine State.onLane_kp _ _ _ s t ((Within.refl _).up (by decide)) (fun d => ?_) h
  repeat' (first | (with_reducible exact Agree.refl _ _) | with_reducible assumption | intro _ | (with_reducible refine Dev.laneCmdWrite_kp (hμ := (Within.refl _).up (by decide)) (hκ := ?_) ..) | (with_reducible apply Agree.ite) | (simp only [id_eq]) | split)

theorem execLaneSleep_st {die : Nat} {lane : Nat} {s t : State} (hs : Kept s.dev) (h : execLaneSleep die lane s = .next t) : Kept t.dev := by
  refine State.onLane_st _ _ _ s t (fun d hκ => ?_) hs h
  repeat' (first | with_reducible assumption | intro _ | (with_reducible refine Dev.laneCmdWrite_st (hκ := ?_) ..) | (with_reducible apply Kept.ite) | (simp only [id_eq]) | split)

theorem execLaneWake_kp {die : Nat} {lane : Nat} {s t : State} (h : execLaneWake die lane s = .next t) : t.pending = s.pending ∧ Agree 0x38010003e004000245000000000000000000000000000e06c6400c000000001000004000000000000000000000000101f20000000 s.dev t.dev := by
  refine State.onLane_kp _ _ _ s t ((Within.refl _).up (by decide)) (fun d => ?_) h
  repeat' (first | (with_reducible exact Agree.refl _ _) | with_reducible assumption | intro _ | (with_reducible refine Dev.laneCmdWrite_kp (hμ := (Within.refl _).up (by decide)) (hκ := ?_) ..) | (with_reducible apply Agree.ite) | (simp only [id_eq]) | split)

theorem execLaneWake_st {die : Nat} {lane : Nat} {s t : State} (hs : Kept s.dev) (h : execLaneWake die lane s = .next t) : Kept t.dev := by
  refine State.onLane_st _ _ _ s t (fun d hκ => ?_) hs h
  repeat' (first | with_reducible assumption | intro _ | (with_reducible refine Dev.laneCmdWrite_st (hκ := ?_) ..) | (with_reducible apply Kept.ite) | (simp only [id_eq]) | split)

theorem execLaneTest_kp {die : Nat} {lane : Nat} {loop : Nat} {prbs : Nat} {s t : State} (h : execLaneTest die lane loop prbs s = .next t) : t.pending = s.pending ∧ Agree 0x38010003e004000245000000000000000000000000000e06c6400c000000001000004000000000000000000000000101f20000000 s.dev t.dev := by
  refine State.onLane_kp _ _ _ s t ((Within.refl _).up (by decide)) (fun d => ?_) h
  repeat' (first | (with_reducible exact Agree.refl _ _) | with_reducible assumption | intro _ | (with_reducible refine Dev.laneTestWrite_kp (hμ := (Within.refl _).up (by decide)) (hκ := ?_) ..) | (with_reducible apply Agree.ite) | (simp only [id_eq]) | split)

theorem execLaneTest_st {die : Nat} {lane : Nat} {loop : Nat} {prbs : Nat} {s t : State} (hs : Kept s.dev) (h : execLaneTest die lane loop prbs s = .next t) : Kept t.dev := by
  refine State.onLane_st _ _ _ s t (fun d hκ => ?_) hs h
  repeat' (first | with_reducible assumption | intro _ | (with_reducible refine Dev.laneTestWrite_st (hκ := ?_) ..) | (with_reducible apply Kept.ite) | (simp only [id_eq]) | split)

theorem execLaneStateEnd_kp {die : Nat} {lane : Nat} {res : LaneRes} {s t : State} (h : execLaneStateEnd die lane res s = .next t) : t.pending = s.pending ∧ Agree 0x38010003e004000245000000000000000000000000000e06c6700c000000001000004000000000000000000000000101f20000000 s.dev t.dev := by
  refine State.onLane_kp _ _ _ s t ((Within.refl _).up (by decide)) (fun d => ?_) h
  repeat' (first | (with_reducible exact Agree.refl _ _) | with_reducible assumption | intro _ | (with_reducible refine Dev.laneStep_kp (hμ := (Within.refl _).up (by decide)) (hκ := ?_) ..) | (with_reducible apply Agree.ite) | (simp only [id_eq]) | split)

theorem execLaneStateEnd_st {die : Nat} {lane : Nat} {res : LaneRes} {s t : State} (hs : Kept s.dev) (h : execLaneStateEnd die lane res s = .next t) : Kept t.dev := by
  refine State.onLane_st _ _ _ s t (fun d hκ => ?_) hs h
  repeat' (first | with_reducible assumption | intro _ | (with_reducible refine Dev.laneStep_st (hκ := ?_) ..) | (with_reducible apply Kept.ite) | (simp only [id_eq]) | split)

theorem execLaneTrainTimeout_kp {die : Nat} {lane : Nat} {s t : State} (h : execLaneTrainTimeout die lane s = .next t) : t.pending = s.pending ∧ Agree 0x38010003e004000245000000000000000000000000000e06c6400c000000001000004000000000000000000000000101f20000000 s.dev t.dev := by
  refine State.onLane_kp _ _ _ s t ((Within.refl _).up (by decide)) (fun d => ?_) h
  repeat' (first | (with_reducible exact Agree.refl _ _) | with_reducible assumption | intro _ | (with_reducible refine Dev.laneTimeout_kp (hμ := (Within.refl _).up (by decide)) (hκ := ?_) ..) | (with_reducible apply Agree.ite) | (simp only [id_eq]) | split)

theorem execLaneTrainTimeout_st {die : Nat} {lane : Nat} {s t : State} (hs : Kept s.dev) (h : execLaneTrainTimeout die lane s = .next t) : Kept t.dev := by
  refine State.onLane_st _ _ _ s t (fun d hκ => ?_) hs h
  repeat' (first | with_reducible assumption | intro _ | (with_reducible refine Dev.laneTimeout_st (hκ := ?_) ..) | (with_reducible apply Kept.ite) | (simp only [id_eq]) | split)

theorem execCodewordReceive_kp {die : Nat} {lane : Nat} {syms : List Nat} {takes : List Nat} {s t : State} (h : execCodewordReceive die lane syms takes s = .next t) : t.pending = s.pending ∧ Agree 0x38010003e004000245000000000000000000000000000e06c64fc8000000001000004000000000000000000000000101f20000000 s.dev t.dev := by
  refine State.onLane_kp _ _ _ s t ((Within.refl _).up (by decide)) (fun d => ?_) h
  repeat' (first | (with_reducible exact Agree.refl _ _) | with_reducible assumption | intro _ | (with_reducible refine Dev.codeword_kp (hμ := (Within.refl _).up (by decide)) (hκ := ?_) ..) | (with_reducible apply Agree.ite) | (simp only [id_eq]) | split)

theorem execCodewordReceive_st {die : Nat} {lane : Nat} {syms : List Nat} {takes : List Nat} {s t : State} (hs : Kept s.dev) (h : execCodewordReceive die lane syms takes s = .next t) : Kept t.dev := by
  refine State.onLane_st _ _ _ s t (fun d hκ => ?_) hs h
  repeat' (first | with_reducible assumption | intro _ | (with_reducible refine Dev.codeword_st (hκ := ?_) ..) | (with_reducible apply Kept.ite) | (simp only [id_eq]) | split)

theorem execAlignLock_kp {die : Nat} {lane : Nat} {hdrs : List Nat} {s t : State} (h : execAlignLock die lane hdrs s = .next t) : t.pending = s.pending ∧ Agree 0x38010003e004000245000000000000000000000000000e06c64008000000001000004000000000000000000000000101f20000000 s.dev t.dev := by
  refine State.onLane_kp _ _ _ s t ((Within.refl _).up (by decide)) (fun d => ?_) h
  repeat' (first | (with_reducible exact Agree.refl _ _) | with_reducible assumption | intro _ | (with_reducible refine Dev.laneLock_kp (hμ := (Within.refl _).up (by decide)) (hκ := ?_) ..) | (with_reducible apply Agree.ite) | (simp only [id_eq]) | split)

theorem execAlignLock_st {die : Nat} {lane : Nat} {hdrs : List Nat} {s t : State} (hs : Kept s.dev) (h : execAlignLock die lane hdrs s = .next t) : Kept t.dev := by
  refine State.onLane_st _ _ _ s t (fun d hκ => ?_) hs h
  repeat' (first | with_reducible assumption | intro _ | (with_reducible refine Dev.laneLock_st (hκ := ?_) ..) | (with_reducible apply Kept.ite) | (simp only [id_eq]) | split)

theorem execAlignRelockTimeout_kp {die : Nat} {lane : Nat} {s t : State} (h : execAlignRelockTimeout die lane s = .next t) : t.pending = s.pending ∧ Agree 0x38010003e004000245000000000000000000000000000e06c64008000000001000004000000000000000000000000101f20000000 s.dev t.dev := by
  refine State.onLane_kp _ _ _ s t ((Within.refl _).up (by decide)) (fun d => ?_) h
  repeat' (first | (with_reducible exact Agree.refl _ _) | with_reducible assumption | intro _ | (with_reducible refine Dev.laneRelock_kp (hμ := (Within.refl _).up (by decide)) (hκ := ?_) ..) | (with_reducible apply Agree.ite) | (simp only [id_eq]) | split)

theorem execAlignRelockTimeout_st {die : Nat} {lane : Nat} {s t : State} (hs : Kept s.dev) (h : execAlignRelockTimeout die lane s = .next t) : Kept t.dev := by
  refine State.onLane_st _ _ _ s t (fun d hκ => ?_) hs h
  repeat' (first | with_reducible assumption | intro _ | (with_reducible refine Dev.laneRelock_st (hκ := ?_) ..) | (with_reducible apply Kept.ite) | (simp only [id_eq]) | split)

theorem execPpmMeasure_kp {die : Nat} {lane : Nat} {offs : Nat} {s t : State} (h : execPpmMeasure die lane offs s = .next t) : t.pending = s.pending ∧ Agree 0x38010003e004000245000000000000000000000000000e06c64018000000001000004000000000000000000000000101f20000000 s.dev t.dev := by
  refine State.onLane_kp _ _ _ s t ((Within.refl _).up (by decide)) (fun d => ?_) h
  repeat' (first | (with_reducible exact Agree.refl _ _) | with_reducible assumption | intro _ | (with_reducible refine Dev.lanePpm_kp (hμ := (Within.refl _).up (by decide)) (hκ := ?_) ..) | (with_reducible apply Agree.ite) | (simp only [id_eq]) | split)

theorem execPpmMeasure_st {die : Nat} {lane : Nat} {offs : Nat} {s t : State} (hs : Kept s.dev) (h : execPpmMeasure die lane offs s = .next t) : Kept t.dev := by
  refine State.onLane_st _ _ _ s t (fun d hκ => ?_) hs h
  repeat' (first | with_reducible assumption | intro _ | (with_reducible refine Dev.lanePpm_st (hκ := ?_) ..) | (with_reducible apply Kept.ite) | (simp only [id_eq]) | split)

theorem execLoopTimingRequest_kp {die : Nat} {lane : Nat} {s t : State} (h : execLoopTimingRequest die lane s = .next t) : t.pending = s.pending ∧ Agree 0x38010003e004000245000000000000000000000000000e06c64008000000001000004000000000000000000000000101f20000000 s.dev t.dev := by
  refine State.onLane_kp _ _ _ s t ((Within.refl _).up (by decide)) (fun d => ?_) h
  repeat' (first | (with_reducible exact Agree.refl _ _) | with_reducible assumption | intro _ | (with_reducible refine Dev.laneLoopReq_kp (hμ := (Within.refl _).up (by decide)) (hκ := ?_) ..) | (with_reducible apply Agree.ite) | (simp only [id_eq]) | split)

theorem execLoopTimingRequest_st {die : Nat} {lane : Nat} {s t : State} (hs : Kept s.dev) (h : execLoopTimingRequest die lane s = .next t) : Kept t.dev := by
  refine State.onLane_st _ _ _ s t (fun d hκ => ?_) hs h
  repeat' (first | with_reducible assumption | intro _ | (with_reducible refine Dev.laneLoopReq_st (hκ := ?_) ..) | (with_reducible apply Kept.ite) | (simp only [id_eq]) | split)

theorem execFomRefresh_kp {die : Nat} {lane : Nat} {eyes : List (Nat × Nat)} {s t : State} (h : execFomRefresh die lane eyes s = .next t) : t.pending = s.pending ∧ Agree 0x38010003e004000245000000000000000000000000000e06c64008000000001000004000000000000000000000000101f20000000 s.dev t.dev := by
  refine State.onLane_kp _ _ _ s t ((Within.refl _).up (by decide)) (fun d => ?_) h
  repeat' (first | (with_reducible exact Agree.refl _ _) | with_reducible assumption | intro _ | (with_reducible refine Dev.laneFom_kp (hμ := (Within.refl _).up (by decide)) (hκ := ?_) ..) | (with_reducible apply Agree.ite) | (simp only [id_eq]) | split)

theorem execFomRefresh_st {die : Nat} {lane : Nat} {eyes : List (Nat × Nat)} {s t : State} (hs : Kept s.dev) (h : execFomRefresh die lane eyes s = .next t) : Kept t.dev := by
  refine State.onLane_st _ _ _ s t (fun d hκ => ?_) hs h
  repeat' (first | with_reducible assumption | intro _ | (with_reducible refine Dev.laneFom_st (hκ := ?_) ..) | (with_reducible apply Kept.ite) | (simp only [id_eq]) | split)

theorem execAdaptStep_kp {die : Nat} {lane : Nat} {ctle : Nat} {dfe1 : Nat} {fom : Nat} {s t : State} (h : execAdaptStep die lane ctle dfe1 fom s = .next t) : t.pending = s.pending ∧ Agree 0x38010003e004000245000000000000000000000000000e06c65008000000001000004000000000000000000000000101f20000000 s.dev t.dev := by
  refine State.onLane_kp _ _ _ s t ((Within.refl _).up (by decide)) (fun d => ?_) h
  repeat' (first | (with_reducible exact Agree.refl _ _) | with_reducible assumption | intro _ | (with_reducible refine Dev.laneAdaptStep_kp (hμ := (Within.refl _).up (by decide)) (hκ := ?_) ..) | (with_reducible apply Agree.ite) | (simp only [id_eq]) | split)

theorem execAdaptStep_st {die : Nat} {lane : Nat} {ctle : Nat} {dfe1 : Nat} {fom : Nat} {s t : State} (hs : Kept s.dev) (h : execAdaptStep die lane ctle dfe1 fom s = .next t) : Kept t.dev := by
  refine State.onLane_st _ _ _ s t (fun d hκ => ?_) hs h
  repeat' (first | with_reducible assumption | intro _ | (with_reducible refine Dev.laneAdaptStep_st (hκ := ?_) ..) | (with_reducible apply Kept.ite) | (simp only [id_eq]) | split)

theorem execDozeEnter_kp {die : Nat} {lane : Nat} {s t : State} (h : execDozeEnter die lane s = .next t) : t.pending = s.pending ∧ Agree 0x38010003e004000245000000000000000000000000000e06c64008000000001000004000000000000000000000000101f20000000 s.dev t.dev := by
  refine State.onLane_kp _ _ _ s t ((Within.refl _).up (by decide)) (fun d => ?_) h
  repeat' (first | (with_reducible exact Agree.refl _ _) | with_reducible assumption | intro _ | (with_reducible refine Dev.laneDoze_kp (hμ := (Within.refl _).up (by decide)) (hκ := ?_) ..) | (with_reducible apply Agree.ite) | (simp only [id_eq]) | split)

theorem execDozeEnter_st {die : Nat} {lane : Nat} {s t : State} (hs : Kept s.dev) (h : execDozeEnter die lane s = .next t) : Kept t.dev := by
  refine State.onLane_st _ _ _ s t (fun d hκ => ?_) hs h
  repeat' (first | with_reducible assumption | intro _ | (with_reducible refine Dev.laneDoze_st (hκ := ?_) ..) | (with_reducible apply Kept.ite) | (simp only [id_eq]) | split)

theorem execDozeExit_kp {die : Nat} {lane : Nat} {s t : State} (h : execDozeExit die lane s = .next t) : t.pending = s.pending ∧ Agree 0x38010003e004000245000000000000000000000000000e06c64008000000001000004000000000000000000000000101f20000000 s.dev t.dev := by
  refine State.onLane_kp _ _ _ s t ((Within.refl _).up (by decide)) (fun d => ?_) h
  repeat' (first | (with_reducible exact Agree.refl _ _) | with_reducible assumption | intro _ | (with_reducible refine Dev.laneUndoze_kp (hμ := (Within.refl _).up (by decide)) (hκ := ?_) ..) | (with_reducible apply Agree.ite) | (simp only [id_eq]) | split)

theorem execDozeExit_st {die : Nat} {lane : Nat} {s t : State} (hs : Kept s.dev) (h : execDozeExit die lane s = .next t) : Kept t.dev := by
  refine State.onLane_st _ _ _ s t (fun d hκ => ?_) hs h
  repeat' (first | with_reducible assumption | intro _ | (with_reducible refine Dev.laneUndoze_st (hκ := ?_) ..) | (with_reducible apply Kept.ite) | (simp only [id_eq]) | split)

theorem execDozeRefreshWake_kp {die : Nat} {lane : Nat} {s t : State} (h : execDozeRefreshWake die lane s = .next t) : t.pending = s.pending ∧ Agree 0x38010003e004000245000000000000000000000000000e06c64008000000001000004000000000000000000000000101f20000000 s.dev t.dev := by
  refine State.onLane_kp _ _ _ s t ((Within.refl _).up (by decide)) (fun d => ?_) h
  repeat' (first | (with_reducible exact Agree.refl _ _) | with_reducible assumption | intro _ | (with_reducible refine Dev.laneRefresh_kp (hμ := (Within.refl _).up (by decide)) (hκ := ?_) ..) | (with_reducible apply Agree.ite) | (simp only [id_eq]) | split)

theorem execDozeRefreshWake_st {die : Nat} {lane : Nat} {s t : State} (hs : Kept s.dev) (h : execDozeRefreshWake die lane s = .next t) : Kept t.dev := by
  refine State.onLane_st _ _ _ s t (fun d hκ => ?_) hs h
  repeat' (first | with_reducible assumption | intro _ | (with_reducible refine Dev.laneRefresh_st (hκ := ?_) ..) | (with_reducible apply Kept.ite) | (simp only [id_eq]) | split)

theorem execWakeLockTimeout_kp {die : Nat} {lane : Nat} {s t : State} (h : execWakeLockTimeout die lane s = .next t) : t.pending = s.pending ∧ Agree 0x38010003e004000245000000000000000000000000000e06c64008000000001000004000000000000000000000000101f20000000 s.dev t.dev := by
  refine State.onLane_kp _ _ _ s t ((Within.refl _).up (by decide)) (fun d => ?_) h
  repeat' (first | (with_reducible exact Agree.refl _ _) | with_reducible assumption | intro _ | (with_reducible refine Dev.laneWakeErr_kp (hμ := (Within.refl _).up (by decide)) (hκ := ?_) ..) | (with_reducible apply Agree.ite) | (simp only [id_eq]) | split)

theorem execWakeLockTimeout_st {die : Nat} {lane : Nat} {s t : State} (hs : Kept s.dev) (h : execWakeLockTimeout die lane s = .next t) : Kept t.dev := by
  refine State.onLane_st _ _ _ s t (fun d hκ => ?_) hs h
  repeat' (first | with_reducible assumption | intro _ | (with_reducible refine Dev.laneWakeErr_st (hκ := ?_) ..) | (with_reducible apply Kept.ite) | (simp only [id_eq]) | split)

theorem execSignalDetect_kp {die : Nat} {lane : Nat} {s t : State} (h : execSignalDetect die lane s = .next t) : t.pending = s.pending ∧ Agree 0x38010003e004000245000000000000000000000000000e06c64008000000001000004000000000000000000000000101f20000000 s.dev t.dev := by
  refine State.onLane_kp _ _ _ s t ((Within.refl _).up (by decide)) (fun d => ?_) h
  repeat' (first | (with_reducible exact Agree.refl _ _) | with_reducible assumption | intro _ | (with_reducible refine Dev.laneDetect_kp (hμ := (Within.refl _).up (by decide)) (hκ := ?_) ..) | (with_reducible apply Agree.ite) | (simp only [id_eq]) | split)

theorem execSignalDetect_st {die : Nat} {lane : Nat} {s t : State} (hs : Kept s.dev) (h : execSignalDetect die lane s = .next t) : Kept t.dev := by
  refine State.onLane_st _ _ _ s t (fun d hκ => ?_) hs h
  repeat' (first | with_reducible assumption | intro _ | (with_reducible refine Dev.laneDetect_st (hκ := ?_) ..) | (with_reducible apply Kept.ite) | (simp only [id_eq]) | split)

theorem execLaneWakeTimeout_kp {die : Nat} {lane : Nat} {s t : State} (h : execLaneWakeTimeout die lane s = .next t) : t.pending = s.pending ∧ Agree 0x38010003e004000245000000000000000000000000000e06c64008000000001000004000000000000000000000000101f20000000 s.dev t.dev := by
  refine State.onLane_kp _ _ _ s t ((Within.refl _).up (by decide)) (fun d => ?_) h
  repeat' (first | (with_reducible exact Agree.refl _ _) | with_reducible assumption | intro _ | (with_reducible refine Dev.laneWakeFail_kp (hμ := (Within.refl _).up (by decide)) (hκ := ?_) ..) | (with_reducible apply Agree.ite) | (simp only [id_eq]) | split)

theorem execLaneWakeTimeout_st {die : Nat} {lane : Nat} {s t : State} (hs : Kept s.dev) (h : execLaneWakeTimeout die lane s = .next t) : Kept t.dev := by
  refine State.onLane_st _ _ _ s t (fun d hκ => ?_) hs h
  repeat' (first | with_reducible assumption | intro _ | (with_reducible refine Dev.laneWakeFail_st (hκ := ?_) ..) | (with_reducible apply Kept.ite) | (simp only [id_eq]) | split)

theorem execLossOfSignal_kp {die : Nat} {lane : Nat} {s t : State} (h : execLossOfSignal die lane s = .next t) : t.pending = s.pending ∧ Agree 0x38010003e004000245000000000000000000000000000e06c64008000000001000004000000000000000000000000101f20000000 s.dev t.dev := by
  refine State.onLane_kp _ _ _ s t ((Within.refl _).up (by decide)) (fun d => ?_) h
  repeat' (first | (with_reducible exact Agree.refl _ _) | with_reducible assumption | intro _ | (with_reducible refine Dev.laneLos_kp (hμ := (Within.refl _).up (by decide)) (hκ := ?_) ..) | (with_reducible apply Agree.ite) | (simp only [id_eq]) | split)

theorem execLossOfSignal_st {die : Nat} {lane : Nat} {s t : State} (hs : Kept s.dev) (h : execLossOfSignal die lane s = .next t) : Kept t.dev := by
  refine State.onLane_st _ _ _ s t (fun d hκ => ?_) hs h
  repeat' (first | with_reducible assumption | intro _ | (with_reducible refine Dev.laneLos_st (hκ := ?_) ..) | (with_reducible apply Kept.ite) | (simp only [id_eq]) | split)

theorem execPortTrain_kp {port : Nat} {s t : State} (h : execPortTrain port s = .next t) : t.pending = s.pending ∧ Agree 0x38010003e004000245000000000000000000000000000e06c64008000000001000004000000000000000000000000101f20000000 s.dev t.dev := by
  refine State.onPort_kp _ _ s t (fun d => ?_) h
  repeat' (first | (with_reducible exact Agree.refl _ _) | with_reducible assumption | intro _ | (with_reducible refine Dev.portCmdWrite_kp (hμ := (Within.refl _).up (by decide)) (hκ := ?_) ..) | (with_reducible apply Agree.ite) | (simp only [id_eq]) | split)

theorem execPortTrain_st {port : Nat} {s t : State} (hs : Kept s.dev) (h : execPortTrain port s = .next t) : Kept t.dev := by
  refine State.onPort_st _ _ s t (fun d hκ => ?_) hs h
  repeat' (first | with_reducible assumption | intro _ | (with_reducible refine Dev.portCmdWrite_st (hκ := ?_) ..) | (with_reducible apply Kept.ite) | (simp only [id_eq]) | split)

theorem execPortHold_kp {port : Nat} {s t : State} (h : execPortHold port s = .next t) : t.pending = s.pending ∧ Agree 0x38010003e004000245000000000000000000000000000e06c64008000000001000004000000000000000000000000101f20000000 s.dev t.dev := by
  refine State.onPort_kp _ _ s t (fun d => ?_) h
  repeat' (first | (with_reducible exact Agree.refl _ _) | with_reducible assumption | intro _ | (with_reducible refine Dev.portCmdWrite_kp (hμ := (Within.refl _).up (by decide)) (hκ := ?_) ..) | (with_reducible apply Agree.ite) | (simp only [id_eq]) | split)

theorem execPortHold_st {port : Nat} {s t : State} (hs : Kept s.dev) (h : execPortHold port s = .next t) : Kept t.dev := by
  refine State.onPort_st _ _ s t (fun d hκ => ?_) hs h
  repeat' (first | with_reducible assumption | intro _ | (with_reducible refine Dev.portCmdWrite_st (hκ := ?_) ..) | (with_reducible apply Kept.ite) | (simp only [id_eq]) | split)

theorem execPortQualEnd_kp {port : Nat} {s t : State} (h : execPortQualEnd port s = .next t) : t.pending = s.pending ∧ Agree 0x38010003e004000245000000000000000000000000001e07c64008000000001000004000000000000000000000000101f20000000 s.dev t.dev := by
  refine State.onPort_kp _ _ s t (fun d => ?_) h
  repeat' (first | (with_reducible exact Agree.refl _ _) | with_reducible assumption | intro _ | (with_reducible refine Dev.portQualEnd_kp (hμ := (Within.refl _).up (by decide)) (hκ := ?_) ..) | (with_reducible apply Agree.ite) | (simp only [id_eq]) | split)

theorem execPortQualEnd_st {port : Nat} {s t : State} (hs : Kept s.dev) (h : execPortQualEnd port s = .next t) : Kept t.dev := by
  refine State.onPort_st _ _ s t (fun d hκ => ?_) hs h
  repeat' (first | with_reducible assumption | intro _ | (with_reducible refine Dev.portQualEnd_st (hκ := ?_) ..) | (with_reducible apply Kept.ite) | (simp only [id_eq]) | split)

theorem execFrameReceive_kp {port : Nat} {idx : Nat} {s t : State} (h : execFrameReceive port idx s = .next t) : t.pending = s.pending ∧ Agree 0x38010003e004000245000000000000000000000000000f84c64008000000001000004000000000000000000000000101f20000000 s.dev t.dev := by
  refine State.onPort_kp _ _ s t (fun d => ?_) h
  repeat' (first | (with_reducible exact Agree.refl _ _) | with_reducible assumption | intro _ | (with_reducible refine Dev.frameReceive_kp (hμ := (Within.refl _).up (by decide)) (hκ := ?_) ..) | (with_reducible apply Agree.ite) | (simp only [id_eq]) | split)

theorem execFrameReceive_st {port : Nat} {idx : Nat} {s t : State} (hs : Kept s.dev) (h : execFrameReceive port idx s = .next t) : Kept t.dev := by
  refine State.onPort_st _ _ s t (fun d hκ => ?_) hs h
  repeat' (first | with_reducible assumption | intro _ | (with_reducible refine Dev.frameReceive_st (hκ := ?_) ..) | (with_reducible apply Kept.ite) | (simp only [id_eq]) | split)

theorem execLinkBlockReceive_kp {port : Nat} {idx : Nat} {s t : State} (h : execLinkBlockReceive port idx s = .next t) : t.pending = s.pending ∧ Agree 0x38010003e004000245000000000000000000000000000e86c64008000000001000004000000000000000000000000101f20000000 s.dev t.dev := by
  refine State.onPort_kp _ _ s t (fun d => ?_) h
  repeat' (first | (with_reducible exact Agree.refl _ _) | with_reducible assumption | intro _ | (with_reducible refine Dev.linkReceive_kp (hμ := (Within.refl _).up (by decide)) (hκ := ?_) ..) | (with_reducible apply Agree.ite) | (simp only [id_eq]) | split)

theorem execLinkBlockReceive_st {port : Nat} {idx : Nat} {s t : State} (hs : Kept s.dev) (h : execLinkBlockReceive port idx s = .next t) : Kept t.dev := by
  refine State.onPort_st _ _ s t (fun d hκ => ?_) hs h
  repeat' (first | with_reducible assumption | intro _ | (with_reducible refine Dev.linkReceive_st (hκ := ?_) ..) | (with_reducible apply Kept.ite) | (simp only [id_eq]) | split)

theorem execFrameLossTimeout_kp {port : Nat} {s t : State} (h : execFrameLossTimeout port s = .next t) : t.pending = s.pending ∧ Agree 0x300000000000000000000000000000000000000000000000000000000000000000000000000000000000000000000000000000000 s.dev t.dev := by
  refine State.onPort_kp _ _ s t (fun d => ?_) h
  repeat' (first | (with_reducible exact Agree.refl _ _) | with_reducible assumption | intro _ | (with_reducible refine Dev.frameLoss_kp (hμ := (Within.refl _).up (by decide)) (hκ := ?_) ..) | (with_reducible apply Agree.ite) | (simp only [id_eq]) | split)

theorem execFrameLossTimeout_st {port : Nat} {s t : State} (hs : Kept s.dev) (h : execFrameLossTimeout port s = .next t) : Kept t.dev := by
  refine State.onPort_st _ _ s t (fun d hκ => ?_) hs h
  repeat' (first | with_reducible assumption | intro _ | (with_reducible refine Dev.frameLoss_st (hκ := ?_) ..) | (with_reducible apply Kept.ite) | (simp only [id_eq]) | split)

theorem execFrameNakRepeat_kp {port : Nat} {s t : State} (h : execFrameNakRepeat port s = .next t) : t.pending = s.pending ∧ Agree 0x200000000000000000000000000000000000000000000000000000000000000000000000000000000000000000000000000000000 s.dev t.dev := by
  refine State.onPort_kp _ _ s t (fun d => ?_) h
  repeat' (first | (with_reducible exact Agree.refl _ _) | with_reducible assumption | intro _ | (with_reducible refine Dev.nakRepeat_kp (hμ := (Within.refl _).up (by decide)) (hκ := ?_) ..) | (with_reducible apply Agree.ite) | (simp only [id_eq]) | split)

theorem execFrameNakRepeat_st {port : Nat} {s t : State} (hs : Kept s.dev) (h : execFrameNakRepeat port s = .next t) : Kept t.dev := by
  refine State.onPort_st _ _ s t (fun d hκ => ?_) hs h
  repeat' (first | with_reducible assumption | intro _ | (with_reducible refine Dev.nakRepeat_st (hκ := ?_) ..) | (with_reducible apply Kept.ite) | (simp only [id_eq]) | split)

theorem execAckDue_kp {port : Nat} {s t : State} (h : execAckDue port s = .next t) : t.pending = s.pending ∧ Agree 0x200000000000000000000000000000000000000000000000000000000000000000000000000000000000000000000000000000000 s.dev t.dev := by
  refine State.onPort_kp _ _ s t (fun d => ?_) h
  repeat' (first | (with_reducible exact Agree.refl _ _) | with_reducible assumption | intro _ | (with_reducible refine Dev.ackDue_kp (hμ := (Within.refl _).up (by decide)) (hκ := ?_) ..) | (with_reducible apply Agree.ite) | (simp only [id_eq]) | split)

theorem execAckDue_st {port : Nat} {s t : State} (hs : Kept s.dev) (h : execAckDue port s = .next t) : Kept t.dev := by
  refine State.onPort_st _ _ s t (fun d hκ => ?_) hs h
  repeat' (first | with_reducible assumption | intro _ | (with_reducible refine Dev.ackDue_st (hκ := ?_) ..) | (with_reducible apply Kept.ite) | (simp only [id_eq]) | split)

theorem execAckTimeoutReplay_kp {port : Nat} {s t : State} (h : execAckTimeoutReplay port s = .next t) : t.pending = s.pending ∧ Agree 0x38010003e004000245000000000000000000000000000e84c64008000000001000004000000000000000000000000101f20000000 s.dev t.dev := by
  refine State.onPort_kp _ _ s t (fun d => ?_) h
  repeat' (first | (with_reducible exact Agree.refl _ _) | with_reducible assumption | intro _ | (with_reducible refine Dev.ackTimeout_kp (hμ := (Within.refl _).up (by decide)) (hκ := ?_) ..) | (with_reducible apply Agree.ite) | (simp only [id_eq]) | split)

theorem execAckTimeoutReplay_st {port : Nat} {s t : State} (hs : Kept s.dev) (h : execAckTimeoutReplay port s = .next t) : Kept t.dev := by
  refine State.onPort_st _ _ s t (fun d hκ => ?_) hs h
  repeat' (first | with_reducible assumption | intro _ | (with_reducible refine Dev.ackTimeout_st (hκ := ?_) ..) | (with_reducible apply Kept.ite) | (simp only [id_eq]) | split)

theorem execPortRetrainComplete_kp {port : Nat} {s t : State} (h : execPortRetrainComplete port s = .next t) : t.pending = s.pending ∧ Agree 0x38010003e004000245000000000000000000000000000e86c64008000000001000004000000000000000000000000101f20000000 s.dev t.dev := by
  refine State.onPort_kp _ _ s t (fun d => ?_) h
  repeat' (first | (with_reducible exact Agree.refl _ _) | with_reducible assumption | intro _ | (with_reducible refine Dev.retrainDone_kp (hμ := (Within.refl _).up (by decide)) (hκ := ?_) ..) | (with_reducible apply Agree.ite) | (simp only [id_eq]) | split)

theorem execPortRetrainComplete_st {port : Nat} {s t : State} (hs : Kept s.dev) (h : execPortRetrainComplete port s = .next t) : Kept t.dev := by
  refine State.onPort_st _ _ s t (fun d hκ => ?_) hs h
  repeat' (first | with_reducible assumption | intro _ | (with_reducible refine Dev.retrainDone_st (hκ := ?_) ..) | (with_reducible apply Kept.ite) | (simp only [id_eq]) | split)

theorem execPortDozeRequest_kp {port : Nat} {s t : State} (h : execPortDozeRequest port s = .next t) : t.pending = s.pending ∧ Agree 0x100000000000000000000000000000000000000000000000000000000000000000000000000000000000000000000000000000000 s.dev t.dev := by
  refine State.onPort_kp _ _ s t (fun d => ?_) h
  repeat' (first | (with_reducible exact Agree.refl _ _) | with_reducible assumption | intro _ | (with_reducible refine Dev.portDoze_kp (hμ := (Within.refl _).up (by decide)) (hκ := ?_) ..) | (with_reducible apply Agree.ite) | (simp only [id_eq]) | split)

theorem execPortDozeRequest_st {port : Nat} {s t : State} (hs : Kept s.dev) (h : execPortDozeRequest port s = .next t) : Kept t.dev := by
  refine State.onPort_st _ _ s t (fun d hκ => ?_) hs h
  repeat' (first | with_reducible assumption | intro _ | (with_reducible refine Dev.portDoze_st (hκ := ?_) ..) | (with_reducible apply Kept.ite) | (simp only [id_eq]) | split)

theorem execPortSilence_kp {port : Nat} {s t : State} (h : execPortSilence port s = .next t) : t.pending = s.pending ∧ Agree 0x38010003e004000245000000000000000000000000000e04c60000000000001000004000000000000000000000000101f20000000 s.dev t.dev := by
  refine State.onPort_kp _ _ s t (fun d => ?_) h
  repeat' (first | (with_reducible exact Agree.refl _ _) | with_reducible assumption | intro _ | (with_reducible refine Dev.portSilence_kp (hμ := (Within.refl _).up (by decide)) (hκ := ?_) ..) | (with_reducible apply Agree.ite) | (simp only [id_eq]) | split)

theorem execPortSilence_st {port : Nat} {s t : State} (hs : Kept s.dev) (h : execPortSilence port s = .next t) : Kept t.dev := by
  refine State.onPort_st _ _ s t (fun d hκ => ?_) hs h
  repeat' (first | with_reducible assumption | intro _ | (with_reducible refine Dev.portSilence_st (hκ := ?_) ..) | (with_reducible apply Kept.ite) | (simp only [id_eq]) | split)

theorem execLinkRequestArrive_kp {port : Nat} {s t : State} (h : execLinkRequestArrive port s = .next t) : t.pending = s.pending ∧ Agree 0x38000000e000000245000000000000000000000000000e00640000000000000000000000000000000000000a00000000000000000 s.dev t.dev := by
  refine State.onPort_kp _ _ s t (fun d => ?_) h
  repeat' (first | (with_reducible exact Agree.refl _ _) | with_reducible assumption | intro _ | (with_reducible refine Dev.linkRequest_kp (hμ := (Within.refl _).up (by decide)) (hκ := ?_) ..) | (with_reducible apply Agree.ite) | (simp only [id_eq]) | split)

theorem execLinkRequestArrive_st {port : Nat} {s t : State} (hs : Kept s.dev) (h : execLinkRequestArrive port s = .next t) : Kept t.dev := by
  refine State.onPort_st _ _ s t (fun d hκ => ?_) hs h
  repeat' (first | with_reducible assumption | intro _ | (with_reducible refine Dev.linkRequest_st (hκ := ?_) ..) | (with_reducible apply Kept.ite) | (simp only [id_eq]) | split)

theorem execLinkResponseArrive_kp {port : Nat} {s t : State} (h : execLinkResponseArrive port s = .next t) : t.pending = s.pending ∧ Agree 0x38010003e004000245000000000000000000000000000e00840000000000001000004000000000000000000000000101f20000000 s.dev t.dev := by
  refine State.onPort_kp _ _ s t (fun d => ?_) h
  repeat' (first | (with_reducible exact Agree.refl _ _) | with_reducible assumption | intro _ | (with_reducible refine Dev.linkResponse_kp (hμ := (Within.refl _).up (by decide)) (hκ := ?_) ..) | (with_reducible apply Agree.ite) | (simp only [id_eq]) | split)

theorem execLinkResponseArrive_st {port : Nat} {s t : State} (hs : Kept s.dev) (h : execLinkResponseArrive port s = .next t) : Kept t.dev := by
  refine State.onPort_st _ _ s t (fun d hκ => ?_) hs h
  repeat' (first | with_reducible assumption | intro _ | (with_reducible refine Dev.linkResponse_st (hκ := ?_) ..) | (with_reducible apply Kept.ite) | (simp only [id_eq]) | split)

theorem execRemoteRequestTimeout_kp {port : Nat} {tag : Nat} {s t : State} (h : execRemoteRequestTimeout port tag s = .next t) : t.pending = s.pending ∧ Agree 0x38010003e004000245000000000000000000000000000e00e40000000000001000004000000000000000000000000101f20000000 s.dev t.dev := by
  refine State.onPort_kp _ _ s t (fun d => ?_) h
  repeat' (first | (with_reducible exact Agree.refl _ _) | with_reducible assumption | intro _ | (with_reducible refine Dev.remoteTimeout_kp (hμ := (Within.refl _).up (by decide)) (hκ := ?_) ..) | (with_reducible apply Agree.ite) | (simp only [id_eq]) | split)

theorem execRemoteRequestTimeout_st {port : Nat} {tag : Nat} {s t : State} (hs : Kept s.dev) (h : execRemoteRequestTimeout port tag s = .next t) : Kept t.dev := by
  refine State.onPort_st _ _ s t (fun d hκ => ?_) hs h
  repeat' (first | with_reducible assumption | intro _ | (with_reducible refine Dev.remoteTimeout_st (hκ := ?_) ..) | (with_reducible apply Kept.ite) | (simp only [id_eq]) | split)

theorem execRouteWrite_kp {die : Nat} {value : Nat} {s t : State} (h : execRouteWrite die value s = .next t) : t.pending = s.pending ∧ Agree 0x20000000000000000000000000000000000000000000000000000000 s.dev t.dev := by
  refine State.onCarrier_kp _ _ s t (fun d => ?_) h
  repeat' (first | (with_reducible exact Agree.refl _ _) | with_reducible assumption | intro _ | (with_reducible refine Dev.routeWrite_kp (hμ := (Within.refl _).up (by decide)) (hκ := ?_) ..) | (with_reducible apply Agree.ite) | (simp only [id_eq]) | split)

theorem execRouteWrite_st {die : Nat} {value : Nat} {s t : State} (hs : Kept s.dev) (h : execRouteWrite die value s = .next t) : Kept t.dev := by
  refine State.onCarrier_st _ _ s t (fun d hκ => ?_) hs h
  repeat' (first | with_reducible assumption | intro _ | (with_reducible refine Dev.routeWrite_st (hκ := ?_) ..) | (with_reducible apply Kept.ite) | (simp only [id_eq]) | split)

theorem execRouteHoldClear_kp {die : Nat} {pkg : Nat} {s t : State} (h : execRouteHoldClear die pkg s = .next t) : t.pending = s.pending ∧ Agree 0x20000000000000000000000000000000000000000000000000000000 s.dev t.dev := by
  refine State.onCarrier_kp _ _ s t (fun d => ?_) h
  repeat' (first | (with_reducible exact Agree.refl _ _) | with_reducible assumption | intro _ | (with_reducible refine Dev.routeClear_kp (hμ := (Within.refl _).up (by decide)) (hκ := ?_) ..) | (with_reducible apply Agree.ite) | (simp only [id_eq]) | split)

theorem execRouteHoldClear_st {die : Nat} {pkg : Nat} {s t : State} (hs : Kept s.dev) (h : execRouteHoldClear die pkg s = .next t) : Kept t.dev := by
  refine State.onCarrier_st _ _ s t (fun d hκ => ?_) hs h
  repeat' (first | with_reducible assumption | intro _ | (with_reducible refine Dev.routeClear_st (hκ := ?_) ..) | (with_reducible apply Kept.ite) | (simp only [id_eq]) | split)

theorem execPlanFetch_kp {cell : Nat} {core : Nat} {ups : List (Nat × Nat)} {s t : State} (h : execPlanFetch cell core ups s = .next t) : t.pending = s.pending ∧ Agree 0xa4000000000000000000000000000000000000000000000000000000000000c00000000000000000000000000000000 s.dev t.dev := by
  refine State.onCore_kp _ _ _ s t (fun d => ?_) h
  repeat' (first | (with_reducible exact Agree.refl _ _) | with_reducible assumption | intro _ | (with_reducible refine Dev.upset_kp (hμ := (Within.refl _).up (by decide)) (hκ := ?_) ..) | (with_reducible refine Dev.planFetch_kp (hμ := (Within.refl _).up (by decide)) (hκ := ?_) ..) | (with_reducible apply Agree.ite) | (simp only [id_eq]) | split)

theorem execPlanFetch_st {cell : Nat} {core : Nat} {ups : List (Nat × Nat)} {s t : State} (hs : Kept s.dev) (h : execPlanFetch cell core ups s = .next t) : Kept t.dev := by
  refine State.onCore_st _ _ _ s t (fun d hκ => ?_) hs h
  repeat' (first | with_reducible assumption | intro _ | (with_reducible refine Dev.upset_st (hκ := ?_) ..) | (with_reducible refine Dev.planFetch_st (hκ := ?_) ..) | (with_reducible apply Kept.ite) | (simp only [id_eq]) | split)

theorem execNop_kp {cell : Nat} {core : Nat} {s t : State} (h : execNop cell core s = .next t) : t.pending = s.pending ∧ Agree 0x80000002080000245000000000000000000000000000000000000000000008000000000000000000000000000000000000000040 s.dev t.dev := by
  refine State.onCore_kp _ _ _ s t (fun d => ?_) h
  repeat' (first | (with_reducible exact Agree.refl _ _) | with_reducible assumption | intro _ | (with_reducible refine Dev.wNop_kp (hμ := (Within.refl _).up (by decide)) (hκ := ?_) ..) | (with_reducible apply Agree.ite) | (simp only [id_eq]) | split)

theorem execNop_st {cell : Nat} {core : Nat} {s t : State} (hs : Kept s.dev) (h : execNop cell core s = .next t) : Kept t.dev := by
  refine State.onCore_st _ _ _ s t (fun d hκ => ?_) hs h
  repeat' (first | with_reducible assumption | intro _ | (with_reducible refine Dev.wNop_st (hκ := ?_) ..) | (with_reducible apply Kept.ite) | (simp only [id_eq]) | split)

theorem execEndWord_kp {cell : Nat} {core : Nat} {s t : State} (h : execEndWord cell core s = .next t) : t.pending = s.pending ∧ Agree 0x80000002080000245000000000000000000000000000000000000000000008000000000000000000000000000000000000000040 s.dev t.dev := by
  refine State.onCore_kp _ _ _ s t (fun d => ?_) h
  repeat' (first | (with_reducible exact Agree.refl _ _) | with_reducible assumption | intro _ | (with_reducible refine Dev.wEnd_kp (hμ := (Within.refl _).up (by decide)) (hκ := ?_) ..) | (with_reducible apply Agree.ite) | (simp only [id_eq]) | split)

theorem execEndWord_st {cell : Nat} {core : Nat} {s t : State} (hs : Kept s.dev) (h : execEndWord cell core s = .next t) : Kept t.dev := by
  refine State.onCore_st _ _ _ s t (fun d hκ => ?_) hs h
  repeat' (first | with_reducible assumption | intro _ | (with_reducible refine Dev.wEnd_st (hκ := ?_) ..) | (with_reducible apply Kept.ite) | (simp only [id_eq]) | split)

theorem execCoreDone_kp {cell : Nat} {core : Nat} {s t : State} (h : execCoreDone cell core s = .next t) : t.pending = s.pending ∧ Agree 0x80000000000000000000000000000000000000000000000000000000000000000000000000000000000000000000000 s.dev t.dev := by
  refine State.onCore_kp _ _ _ s t (fun d => ?_) h
  repeat' (first | (with_reducible exact Agree.refl _ _) | with_reducible assumption | intro _ | (with_reducible refine Dev.coreDone_kp (hμ := (Within.refl _).up (by decide)) (hκ := ?_) ..) | (with_reducible apply Agree.ite) | (simp only [id_eq]) | split)

theorem execCoreDone_st {cell : Nat} {core : Nat} {s t : State} (hs : Kept s.dev) (h : execCoreDone cell core s = .next t) : Kept t.dev := by
  refine State.onCore_st _ _ _ s t (fun d hκ => ?_) hs h
  repeat' (first | with_reducible assumption | intro _ | (with_reducible refine Dev.coreDone_st (hκ := ?_) ..) | (with_reducible apply Kept.ite) | (simp only [id_eq]) | split)

theorem execLoopWord_kp {cell : Nat} {core : Nat} {s t : State} (h : execLoopWord cell core s = .next t) : t.pending = s.pending ∧ Agree 0x80000002080000245000000000000000000000000000000000000000000008000000000000000000000000000000000000000040 s.dev t.dev := by
  refine State.onCore_kp _ _ _ s t (fun d => ?_) h
  repeat' (first | (with_reducible exact Agree.refl _ _) | with_reducible assumption | intro _ | (with_reducible refine Dev.wLoop_kp (hμ := (Within.refl _).up (by decide)) (hκ := ?_) ..) | (with_reducible apply Agree.ite) | (simp only [id_eq]) | split)

theorem execLoopWord_st {cell : Nat} {core : Nat} {s t : State} (hs : Kept s.dev) (h : execLoopWord cell core s = .next t) : Kept t.dev := by
  refine State.onCore_st _ _ _ s t (fun d hκ => ?_) hs h
  repeat' (first | with_reducible assumption | intro _ | (with_reducible refine Dev.wLoop_st (hκ := ?_) ..) | (with_reducible apply Kept.ite) | (simp only [id_eq]) | split)

theorem execLoopBackEdge_kp {cell : Nat} {core : Nat} {s t : State} (h : execLoopBackEdge cell core s = .next t) : t.pending = s.pending ∧ Agree 0x80000000000000000000000000000000000000000000000000000000000000000000000000000000000000000000000 s.dev t.dev := by
  refine State.onCore_kp _ _ _ s t (fun d => ?_) h
  repeat' (first | (with_reducible exact Agree.refl _ _) | with_reducible assumption | intro _ | (with_reducible refine Dev.backEdge_kp (hμ := (Within.refl _).up (by decide)) (hκ := ?_) ..) | (with_reducible apply Agree.ite) | (simp only [id_eq]) | split)

theorem execLoopBackEdge_st {cell : Nat} {core : Nat} {s t : State} (hs : Kept s.dev) (h : execLoopBackEdge cell core s = .next t) : Kept t.dev := by
  refine State.onCore_st _ _ _ s t (fun d hκ => ?_) hs h
  repeat' (first | with_reducible assumption | intro _ | (with_reducible refine Dev.backEdge_st (hκ := ?_) ..) | (with_reducible apply Kept.ite) | (simp only [id_eq]) | split)

theorem execSeedWord_kp {cell : Nat} {core : Nat} {ups : List (Nat × Nat)} {s t : State} (h : execSeedWord cell core ups s = .next t) : t.pending = s.pending ∧ Agree 0x800000020a4000245000000000000000000000000000000000000000000008000000000c00000000000000000000000000000040 s.dev t.dev := by
  refine State.onCore_kp _ _ _ s t (fun d => ?_) h
  repeat' (first | (with_reducible exact Agree.refl _ _) | with_reducible assumption | intro _ | (with_reducible refine Dev.upset_kp (hμ := (Within.refl _).up (by decide)) (hκ := ?_) ..) | (with_reducible refine Dev.wSeed_kp (hμ := (Within.refl _).up (by decide)) (hκ := ?_) ..) | (with_reducible apply Agree.ite) | (simp only [id_eq]) | split)

theorem execSeedWord_st {cell : Nat} {core : Nat} {ups : List (Nat × Nat)} {s t : State} (hs : Kept s.dev) (h : execSeedWord cell core ups s = .next t) : Kept t.dev := by
  refine State.onCore_st _ _ _ s t (fun d hκ => ?_) hs h
  repeat' (first | with_reducible assumption | intro _ | (with_reducible refine Dev.upset_st (hκ := ?_) ..) | (with_reducible refine Dev.wSeed_st (hκ := ?_) ..) | (with_reducible apply Kept.ite) | (simp only [id_eq]) | split)

theorem execSeedComplete_kp {cell : Nat} {core : Nat} {s t : State} (h : execSeedComplete cell core s = .next t) : t.pending = s.pending ∧ Agree 0x80000000000000000000000000000000000000000000000000000000000000000000000000000000000000000000000 s.dev t.dev := by
  refine State.onCore_kp _ _ _ s t (fun d => ?_) h
  repeat' (first | (with_reducible exact Agree.refl _ _) | with_reducible assumption | intro _ | (with_reducible refine Dev.seedDone_kp (hμ := (Within.refl _).up (by decide)) (hκ := ?_) ..) | (with_reducible apply Agree.ite) | (simp only [id_eq]) | split)

theorem execSeedComplete_st {cell : Nat} {core : Nat} {s t : State} (hs : Kept s.dev) (h : execSeedComplete cell core s = .next t) : Kept t.dev := by
  refine State.onCore_st _ _ _ s t (fun d hκ => ?_) hs h
  repeat' (first | with_reducible assumption | intro _ | (with_reducible refine Dev.seedDone_st (hκ := ?_) ..) | (with_reducible apply Kept.ite) | (simp only [id_eq]) | split)

theorem execFlags_kp {cell : Nat} {core : Nat} {s t : State} (h : execFlags cell core s = .next t) : t.pending = s.pending ∧ Agree 0x80000002080000245000000000000000000000000000000000000000000008000000000000000000000000000000000000000040 s.dev t.dev := by
  refine State.onCore_kp _ _ _ s t (fun d => ?_) h
  repeat' (first | (with_reducible exact Agree.refl _ _) | with_reducible assumption | intro _ | (with_reducible refine Dev.wFlags_kp (hμ := (Within.refl _).up (by decide)) (hκ := ?_) ..) | (with_reducible apply Agree.ite) | (simp only [id_eq]) | split)

theorem execFlags_st {cell : Nat} {core : Nat} {s t : State} (hs : Kept s.dev) (h : execFlags cell core s = .next t) : Kept t.dev := by
  refine State.onCore_st _ _ _ s t (fun d hκ => ?_) hs h
  repeat' (first | with_reducible assumption | intro _ | (with_reducible refine Dev.wFlags_st (hκ := ?_) ..) | (with_reducible apply Kept.ite) | (simp only [id_eq]) | split)

theorem execDcap_kp {cell : Nat} {core : Nat} {s t : State} (h : execDcap cell core s = .next t) : t.pending = s.pending ∧ Agree 0x80000002080000245000000000000000000000000000000000000000000008000000000000000000000000000000000000000040 s.dev t.dev := by
  refine State.onCore_kp _ _ _ s t (fun d => ?_) h
  repeat' (first | (with_reducible exact Agree.refl _ _) | with_reducible assumption | intro _ | (with_reducible refine Dev.wDcap_kp (hμ := (Within.refl _).up (by decide)) (hκ := ?_) ..) | (with_reducible apply Agree.ite) | (simp only [id_eq]) | split)

theorem execDcap_st {cell : Nat} {core : Nat} {s t : State} (hs : Kept s.dev) (h : execDcap cell core s = .next t) : Kept t.dev := by
  refine State.onCore_st _ _ _ s t (fun d hκ => ?_) hs h
  repeat' (first | with_reducible assumption | intro _ | (with_reducible refine Dev.wDcap_st (hκ := ?_) ..) | (with_reducible apply Kept.ite) | (simp only [id_eq]) | split)

theorem execLutld_kp {cell : Nat} {core : Nat} {ups : List (Nat × Nat)} {s t : State} (h : execLutld cell core ups s = .next t) : t.pending = s.pending ∧ Agree 0x800000020a4000245000000000000000000000000000000000000000000008000000000c00000000000000000000000000000040 s.dev t.dev := by
  refine State.onCore_kp _ _ _ s t (fun d => ?_) h
  repeat' (first | (with_reducible exact Agree.refl _ _) | with_reducible assumption | intro _ | (with_reducible refine Dev.upset_kp (hμ := (Within.refl _).up (by decide)) (hκ := ?_) ..) | (with_reducible refine Dev.wLutld_kp (hμ := (Within.refl _).up (by decide)) (hκ := ?_) ..) | (with_reducible apply Agree.ite) | (simp only [id_eq]) | split)

theorem execLutld_st {cell : Nat} {core : Nat} {ups : List (Nat × Nat)} {s t : State} (hs : Kept s.dev) (h : execLutld cell core ups s = .next t) : Kept t.dev := by
  refine State.onCore_st _ _ _ s t (fun d hκ => ?_) hs h
  repeat' (first | with_reducible assumption | intro _ | (with_reducible refine Dev.upset_st (hκ := ?_) ..) | (with_reducible refine Dev.wLutld_st (hκ := ?_) ..) | (with_reducible apply Kept.ite) | (simp only [id_eq]) | split)

theorem execLutldComplete_kp {cell : Nat} {core : Nat} {s t : State} (h : execLutldComplete cell core s = .next t) : t.pending = s.pending ∧ Agree 0x80000000000000000000000000000000000000000000000000000000000000000000000000000000000000000000000 s.dev t.dev := by
  refine State.onCore_kp _ _ _ s t (fun d => ?_) h
  repeat' (first | (with_reducible exact Agree.refl _ _) | with_reducible assumption | intro _ | (with_reducible refine Dev.lutDone_kp (hμ := (Within.refl _).up (by decide)) (hκ := ?_) ..) | (with_reducible apply Agree.ite) | (simp only [id_eq]) | split)

theorem execLutldComplete_st {cell : Nat} {core : Nat} {s t : State} (hs : Kept s.dev) (h : execLutldComplete cell core s = .next t) : Kept t.dev := by
  refine State.onCore_st _ _ _ s t (fun d hκ => ?_) hs h
  repeat' (first | with_reducible assumption | intro _ | (with_reducible refine Dev.lutDone_st (hκ := ?_) ..) | (with_reducible apply Kept.ite) | (simp only [id_eq]) | split)

theorem execCset_kp {cell : Nat} {core : Nat} {s t : State} (h : execCset cell core s = .next t) : t.pending = s.pending ∧ Agree 0x80000002080000245000000000000000000000000000000000000000000008000000000000000000000000000000000000000040 s.dev t.dev := by
  refine State.onCore_kp _ _ _ s t (fun d => ?_) h
  repeat' (first | (with_reducible exact Agree.refl _ _) | with_reducible assumption | intro _ | (with_reducible refine Dev.wCset_kp (hμ := (Within.refl _).up (by decide)) (hκ := ?_) ..) | (with_reducible apply Agree.ite) | (simp only [id_eq]) | split)

theorem execCset_st {cell : Nat} {core : Nat} {s t : State} (hs : Kept s.dev) (h : execCset cell core s = .next t) : Kept t.dev := by
  refine State.onCore_st _ _ _ s t (fun d hκ => ?_) hs h
  repeat' (first | with_reducible assumption | intro _ | (with_reducible refine Dev.wCset_st (hκ := ?_) ..) | (with_reducible apply Kept.ite) | (simp only [id_eq]) | split)

theorem execCalc_kp {cell : Nat} {core : Nat} {s t : State} (h : execCalc cell core s = .next t) : t.pending = s.pending ∧ Agree 0x80000002080000245000000000000000000000000000000000000000000008000000000000000000000000000000000000000040 s.dev t.dev := by
  refine State.onCore_kp _ _ _ s t (fun d => ?_) h
  repeat' (first | (with_reducible exact Agree.refl _ _) | with_reducible assumption | intro _ | (with_reducible refine Dev.wCalc_kp (hμ := (Within.refl _).up (by decide)) (hκ := ?_) ..) | (with_reducible apply Agree.ite) | (simp only [id_eq]) | split)

theorem execCalc_st {cell : Nat} {core : Nat} {s t : State} (hs : Kept s.dev) (h : execCalc cell core s = .next t) : Kept t.dev := by
  refine State.onCore_st _ _ _ s t (fun d hκ => ?_) hs h
  repeat' (first | with_reducible assumption | intro _ | (with_reducible refine Dev.wCalc_st (hκ := ?_) ..) | (with_reducible apply Kept.ite) | (simp only [id_eq]) | split)

theorem execCmin_kp {cell : Nat} {core : Nat} {s t : State} (h : execCmin cell core s = .next t) : t.pending = s.pending ∧ Agree 0x80000002080000245000000000000000000000000000000000000000000008000000000000000000000000000000000000000040 s.dev t.dev := by
  refine State.onCore_kp _ _ _ s t (fun d => ?_) h
  repeat' (first | (with_reducible exact Agree.refl _ _) | with_reducible assumption | intro _ | (with_reducible refine Dev.wCmin_kp (hμ := (Within.refl _).up (by decide)) (hκ := ?_) ..) | (with_reducible apply Agree.ite) | (simp only [id_eq]) | split)

theorem execCmin_st {cell : Nat} {core : Nat} {s t : State} (hs : Kept s.dev) (h : execCmin cell core s = .next t) : Kept t.dev := by
  refine State.onCore_st _ _ _ s t (fun d hκ => ?_) hs h
  repeat' (first | with_reducible assumption | intro _ | (with_reducible refine Dev.wCmin_st (hκ := ?_) ..) | (with_reducible apply Kept.ite) | (simp only [id_eq]) | split)

theorem execCload_kp {cell : Nat} {core : Nat} {ups : List (Nat × Nat)} {s t : State} (h : execCload cell core ups s = .next t) : t.pending = s.pending ∧ Agree 0x800000020a4000245000000000000000000000000000000000000000000008000000000c00000000000000000000000000000040 s.dev t.dev := by
  refine State.onCore_kp _ _ _ s t (fun d => ?_) h
  repeat' (first | (with_reducible exact Agree.refl _ _) | with_reducible assumption | intro _ | (with_reducible refine Dev.upset_kp (hμ := (Within.refl _).up (by decide)) (hκ := ?_) ..) | (with_reducible refine Dev.wCload_kp (hμ := (Within.refl _).up (by decide)) (hκ := ?_) ..) | (with_reducible apply Agree.ite) | (simp only [id_eq]) | split)

theorem execCload_st {cell : Nat} {core : Nat} {ups : List (Nat × Nat)} {s t : State} (hs : Kept s.dev) (h : execCload cell core ups s = .next t) : Kept t.dev := by
  refine State.onCore_st _ _ _ s t (fun d hκ => ?_) hs h
  repeat' (first | with_reducible assumption | intro _ | (with_reducible refine Dev.upset_st (hκ := ?_) ..) | (with_reducible refine Dev.wCload_st (hκ := ?_) ..) | (with_reducible apply Kept.ite) | (simp only [id_eq]) | split)

theorem execCstore_kp {cell : Nat} {core : Nat} {ups : List (Nat × Nat)} {s t : State} (h : execCstore cell core ups s = .next t) : t.pending = s.pending ∧ Agree 0x800000020bc000245000000000000000000000000000000000000000000008000000000c00000000000000000000000000000040 s.dev t.dev := by
  refine State.onCore_kp _ _ _ s t (fun d => ?_) h
  repeat' (first | (with_reducible exact Agree.refl _ _) | with_reducible assumption | intro _ | (with_reducible refine Dev.upset_kp (hμ := (Within.refl _).up (by decide)) (hκ := ?_) ..) | (with_reducible refine Dev.wCstore_kp (hμ := (Within.refl _).up (by decide)) (hκ := ?_) ..) | (with_reducible apply Agree.ite) | (simp only [id_eq]) | split)

theorem execCstore_st {cell : Nat} {core : Nat} {ups : List (Nat × Nat)} {s t : State} (hs : Kept s.dev) (h : execCstore cell core ups s = .next t) : Kept t.dev := by
  refine State.onCore_st _ _ _ s t (fun d hκ => ?_) hs h
  repeat' (first | with_reducible assumption | intro _ | (with_reducible refine Dev.upset_st (hκ := ?_) ..) | (with_reducible refine Dev.wCstore_st (hκ := ?_) ..) | (with_reducible apply Kept.ite) | (simp only [id_eq]) | split)

theorem execAset_kp {cell : Nat} {core : Nat} {s t : State} (h : execAset cell core s = .next t) : t.pending = s.pending ∧ Agree 0x80000002080000245000000000000000000000000000000000000000000008000000000000000000000000000000000000000040 s.dev t.dev := by
  refine State.onCore_kp _ _ _ s t (fun d => ?_) h
  repeat' (first | (with_reducible exact Agree.refl _ _) | with_reducible assumption | intro _ | (with_reducible refine Dev.wAset_kp (hμ := (Within.refl _).up (by decide)) (hκ := ?_) ..) | (with_reducible apply Agree.ite) | (simp only [id_eq]) | split)

theorem execAset_st {cell : Nat} {core : Nat} {s t : State} (hs : Kept s.dev) (h : execAset cell core s = .next t) : Kept t.dev := by
  refine State.onCore_st _ _ _ s t (fun d hκ => ?_) hs h
  repeat' (first | with_reducible assumption | intro _ | (with_reducible refine Dev.wAset_st (hκ := ?_) ..) | (with_reducible apply Kept.ite) | (simp only [id_eq]) | split)

theorem execAadd_kp {cell : Nat} {core : Nat} {s t : State} (h : execAadd cell core s = .next t) : t.pending = s.pending ∧ Agree 0x80000002080000245000000000000000000000000000000000000000000008000000000000000000000000000000000000000040 s.dev t.dev := by
  refine State.onCore_kp _ _ _ s t (fun d => ?_) h
  repeat' (first | (with_reducible exact Agree.refl _ _) | with_reducible assumption | intro _ | (with_reducible refine Dev.wAadd_kp (hμ := (Within.refl _).up (by decide)) (hκ := ?_) ..) | (with_reducible apply Agree.ite) | (simp only [id_eq]) | split)

theorem execAadd_st {cell : Nat} {core : Nat} {s t : State} (hs : Kept s.dev) (h : execAadd cell core s = .next t) : Kept t.dev := by
  refine State.onCore_st _ _ _ s t (fun d hκ => ?_) hs h
  repeat' (first | with_reducible assumption | intro _ | (with_reducible refine Dev.wAadd_st (hκ := ?_) ..) | (with_reducible apply Kept.ite) | (simp only [id_eq]) | split)

theorem execMta_kp {cell : Nat} {core : Nat} {s t : State} (h : execMta cell core s = .next t) : t.pending = s.pending ∧ Agree 0x80000002080000245000000000000000000000000000000000000000000008000000000000000000000000000000000000000040 s.dev t.dev := by
  refine State.onCore_kp _ _ _ s t (fun d => ?_) h
  repeat' (first | (with_reducible exact Agree.refl _ _) | with_reducible assumption | intro _ | (with_reducible refine Dev.wMta_kp (hμ := (Within.refl _).up (by decide)) (hκ := ?_) ..) | (with_reducible apply Agree.ite) | (simp only [id_eq]) | split)

theorem execMta_st {cell : Nat} {core : Nat} {s t : State} (hs : Kept s.dev) (h : execMta cell core s = .next t) : Kept t.dev := by
  refine State.onCore_st _ _ _ s t (fun d hκ => ?_) hs h
  repeat' (first | with_reducible assumption | intro _ | (with_reducible refine Dev.wMta_st (hκ := ?_) ..) | (with_reducible apply Kept.ite) | (simp only [id_eq]) | split)

theorem execMtb_kp {cell : Nat} {core : Nat} {s t : State} (h : execMtb cell core s = .next t) : t.pending = s.pending ∧ Agree 0x80000002080000245000000000000000000000000000000000000000000008000000000000000000000000000000000000000040 s.dev t.dev := by
  refine State.onCore_kp _ _ _ s t (fun d => ?_) h
  repeat' (first | (with_reducible exact Agree.refl _ _) | with_reducible assumption | intro _ | (with_reducible refine Dev.wMtb_kp (hμ := (Within.refl _).up (by decide)) (hκ := ?_) ..) | (with_reducible apply Agree.ite) | (simp only [id_eq]) | split)

theorem execMtb_st {cell : Nat} {core : Nat} {s t : State} (hs : Kept s.dev) (h : execMtb cell core s = .next t) : Kept t.dev := by
  refine State.onCore_st _ _ _ s t (fun d hκ => ?_) hs h
  repeat' (first | with_reducible assumption | intro _ | (with_reducible refine Dev.wMtb_st (hκ := ?_) ..) | (with_reducible apply Kept.ite) | (simp only [id_eq]) | split)

theorem execMma_kp {cell : Nat} {core : Nat} {ups : List (Nat × Nat)} {s t : State} (h : execMma cell core ups s = .next t) : t.pending = s.pending ∧ Agree 0x800000020a4000245000000000000000000000000000000000000000000008000000000000000000000000000000000000000040 s.dev t.dev := by
  refine State.onCore_kp _ _ _ s t (fun d => ?_) h
  repeat' (first | (with_reducible exact Agree.refl _ _) | with_reducible assumption | intro _ | (with_reducible refine Dev.upset_kp (hμ := (Within.refl _).up (by decide)) (hκ := ?_) ..) | (with_reducible refine Dev.wMma_kp (hμ := (Within.refl _).up (by decide)) (hκ := ?_) ..) | (with_reducible apply Agree.ite) | (simp only [id_eq]) | split)

theorem execMma_st {cell : Nat} {core : Nat} {ups : List (Nat × Nat)} {s t : State} (hs : Kept s.dev) (h : execMma cell core ups s = .next t) : Kept t.dev := by
  refine State.onCore_st _ _ _ s t (fun d hκ => ?_) hs h
  repeat' (first | with_reducible assumption | intro _ | (with_reducible refine Dev.upset_st (hκ := ?_) ..) | (with_reducible refine Dev.wMma_st (hκ := ?_) ..) | (with_reducible apply Kept.ite) | (simp only [id_eq]) | split)

theorem execMmaComplete_kp {cell : Nat} {core : Nat} {ups : List (Nat × Nat)} {s t : State} (h : execMmaComplete cell core ups s = .next t) : t.pending = s.pending ∧ Agree 0x800000020a4000245000000000000000000000000000000000000000000008000000000c00000000000000000000000000000040 s.dev t.dev := by
  refine State.onCore_kp _ _ _ s t (fun d => ?_) h
  repeat' (first | (with_reducible exact Agree.refl _ _) | with_reducible assumption | intro _ | (with_reducible refine Dev.upset_kp (hμ := (Within.refl _).up (by decide)) (hκ := ?_) ..) | (with_reducible refine Dev.mmaDone_kp (hμ := (Within.refl _).up (by decide)) (hκ := ?_) ..) | (with_reducible apply Agree.ite) | (simp only [id_eq]) | split)

theorem execMmaComplete_st {cell : Nat} {core : Nat} {ups : List (Nat × Nat)} {s t : State} (hs : Kept s.dev) (h : execMmaComplete cell core ups s = .next t) : Kept t.dev := by
  refine State.onCore_st _ _ _ s t (fun d hκ => ?_) hs h
  repeat' (first | with_reducible assumption | intro _ | (with_reducible refine Dev.upset_st (hκ := ?_) ..) | (with_reducible refine Dev.mmaDone_st (hκ := ?_) ..) | (with_reducible apply Kept.ite) | (simp only [id_eq]) | split)

theorem execVld_kp {cell : Nat} {core : Nat} {ups : List (Nat × Nat)} {s t : State} (h : execVld cell core ups s = .next t) : t.pending = s.pending ∧ Agree 0x800000020a4000245000000000000000000000000000000000000000000008000000000c00000000000000000000000000000040 s.dev t.dev := by
  refine State.onCore_kp _ _ _ s t (fun d => ?_) h
  repeat' (first | (with_reducible exact Agree.refl _ _) | with_reducible assumption | intro _ | (with_reducible refine Dev.upset_kp (hμ := (Within.refl _).up (by decide)) (hκ := ?_) ..) | (with_reducible refine Dev.wVld_kp (hμ := (Within.refl _).up (by decide)) (hκ := ?_) ..) | (with_reducible apply Agree.ite) | (simp only [id_eq]) | split)

theorem execVld_st {cell : Nat} {core : Nat} {ups : List (Nat × Nat)} {s t : State} (hs : Kept s.dev) (h : execVld cell core ups s = .next t) : Kept t.dev := by
  refine State.onCore_st _ _ _ s t (fun d hκ => ?_) hs h
  repeat' (first | with_reducible assumption | intro _ | (with_reducible refine Dev.upset_st (hκ := ?_) ..) | (with_reducible refine Dev.wVld_st (hκ := ?_) ..) | (with_reducible apply Kept.ite) | (simp only [id_eq]) | split)

theorem execVst_kp {cell : Nat} {core : Nat} {s t : State} (h : execVst cell core s = .next t) : t.pending = s.pending ∧ Agree 0x800000020bc000245000000000000000000000000000000000000000000008000000000c00000000000000000000000000000040 s.dev t.dev := by
  refine State.onCore_kp _ _ _ s t (fun d => ?_) h
  repeat' (first | (with_reducible exact Agree.refl _ _) | with_reducible assumption | intro _ | (with_reducible refine Dev.wVst_kp (hμ := (Within.refl _).up (by decide)) (hκ := ?_) ..) | (with_reducible apply Agree.ite) | (simp only [id_eq]) | split)

theorem execVst_st {cell : Nat} {core : Nat} {s t : State} (hs : Kept s.dev) (h : execVst cell core s = .next t) : Kept t.dev := by
  refine State.onCore_st _ _ _ s t (fun d hκ => ?_) hs h
  repeat' (first | with_reducible assumption | intro _ | (with_reducible refine Dev.wVst_st (hκ := ?_) ..) | (with_reducible apply Kept.ite) | (simp only [id_eq]) | split)

theorem execVacc_kp {cell : Nat} {core : Nat} {s t : State} (h : execVacc cell core s = .next t) : t.pending = s.pending ∧ Agree 0x80000002080000245000000000000000000000000000000000000000000008000000000000000000000000000000000000000040 s.dev t.dev := by
  refine State.onCore_kp _ _ _ s t (fun d => ?_) h
  repeat' (first | (with_reducible exact Agree.refl _ _) | with_reducible assumption | intro _ | (with_reducible refine Dev.wVacc_kp (hμ := (Within.refl _).up (by decide)) (hκ := ?_) ..) | (with_reducible apply Agree.ite) | (simp only [id_eq]) | split)

theorem execVacc_st {cell : Nat} {core : Nat} {s t : State} (hs : Kept s.dev) (h : execVacc cell core s = .next t) : Kept t.dev := by
  refine State.onCore_st _ _ _ s t (fun d hκ => ?_) hs h
  repeat' (first | with_reducible assumption | intro _ | (with_reducible refine Dev.wVacc_st (hκ := ?_) ..) | (with_reducible apply Kept.ite) | (simp only [id_eq]) | split)

theorem execVop_kp {cell : Nat} {core : Nat} {s t : State} (h : execVop cell core s = .next t) : t.pending = s.pending ∧ Agree 0x80000002084000245000000000000000000000000000000000000000000008000000000000000000000000000000000000000040 s.dev t.dev := by
  refine State.onCore_kp _ _ _ s t (fun d => ?_) h
  repeat' (first | (with_reducible exact Agree.refl _ _) | with_reducible assumption | intro _ | (with_reducible refine Dev.wVop_kp (hμ := (Within.refl _).up (by decide)) (hκ := ?_) ..) | (with_reducible apply Agree.ite) | (simp only [id_eq]) | split)

theorem execVop_st {cell : Nat} {core : Nat} {s t : State} (hs : Kept s.dev) (h : execVop cell core s = .next t) : Kept t.dev := by
  refine State.onCore_st _ _ _ s t (fun d hκ => ?_) hs h
  repeat' (first | with_reducible assumption | intro _ | (with_reducible refine Dev.wVop_st (hκ := ?_) ..) | (with_reducible apply Kept.ite) | (simp only [id_eq]) | split)

theorem execVcvt_kp {cell : Nat} {core : Nat} {ups : List (Nat × Nat)} {s t : State} (h : execVcvt cell core ups s = .next t) : t.pending = s.pending ∧ Agree 0x800000020bc000245000000000000000000000000000000000000000000008000000000c00000000000000000000000000000040 s.dev t.dev := by
  refine State.onCore_kp _ _ _ s t (fun d => ?_) h
  repeat' (first | (with_reducible exact Agree.refl _ _) | with_reducible assumption | intro _ | (with_reducible refine Dev.upset_kp (hμ := (Within.refl _).up (by decide)) (hκ := ?_) ..) | (with_reducible refine Dev.wVcvt_kp (hμ := (Within.refl _).up (by decide)) (hκ := ?_) ..) | (with_reducible apply Agree.ite) | (simp only [id_eq]) | split)

theorem execVcvt_st {cell : Nat} {core : Nat} {ups : List (Nat × Nat)} {s t : State} (hs : Kept s.dev) (h : execVcvt cell core ups s = .next t) : Kept t.dev := by
  refine State.onCore_st _ _ _ s t (fun d hκ => ?_) hs h
  repeat' (first | with_reducible assumption | intro _ | (with_reducible refine Dev.upset_st (hκ := ?_) ..) | (with_reducible refine Dev.wVcvt_st (hκ := ?_) ..) | (with_reducible apply Kept.ite) | (simp only [id_eq]) | split)

theorem execTwait_kp {cell : Nat} {core : Nat} {s t : State} (h : execTwait cell core s = .next t) : t.pending = s.pending ∧ Agree 0x80000002080000245000000000000000000000000000000000000000000008000000000000000000000000000000000000000040 s.dev t.dev := by
  refine State.onCore_kp _ _ _ s t (fun d => ?_) h
  repeat' (first | (with_reducible exact Agree.refl _ _) | with_reducible assumption | intro _ | (with_reducible refine Dev.wTwait_kp (hμ := (Within.refl _).up (by decide)) (hκ := ?_) ..) | (with_reducible apply Agree.ite) | (simp only [id_eq]) | split)

theorem execTwait_st {cell : Nat} {core : Nat} {s t : State} (hs : Kept s.dev) (h : execTwait cell core s = .next t) : Kept t.dev := by
  refine State.onCore_st _ _ _ s t (fun d hκ => ?_) hs h
  repeat' (first | with_reducible assumption | intro _ | (with_reducible refine Dev.wTwait_st (hκ := ?_) ..) | (with_reducible apply Kept.ite) | (simp only [id_eq]) | split)

theorem execWsync_kp {cell : Nat} {core : Nat} {s t : State} (h : execWsync cell core s = .next t) : t.pending = s.pending ∧ Agree 0x80000002080000245000000000000000000000000000000000000000000008000000000000000000000000000000000000000040 s.dev t.dev := by
  refine State.onCore_kp _ _ _ s t (fun d => ?_) h
  repeat' (first | (with_reducible exact Agree.refl _ _) | with_reducible assumption | intro _ | (with_reducible refine Dev.wWsync_kp (hμ := (Within.refl _).up (by decide)) (hκ := ?_) ..) | (with_reducible apply Agree.ite) | (simp only [id_eq]) | split)

theorem execWsync_st {cell : Nat} {core : Nat} {s t : State} (hs : Kept s.dev) (h : execWsync cell core s = .next t) : Kept t.dev := by
  refine State.onCore_st _ _ _ s t (fun d hκ => ?_) hs h
  repeat' (first | with_reducible assumption | intro _ | (with_reducible refine Dev.wWsync_st (hκ := ?_) ..) | (with_reducible apply Kept.ite) | (simp only [id_eq]) | split)

theorem execTadd_kp {cell : Nat} {core : Nat} {s t : State} (h : execTadd cell core s = .next t) : t.pending = s.pending ∧ Agree 0x80000002080000245000000000000000000000000000000000000000000008000000000000000000000000000000000000000040 s.dev t.dev := by
  refine State.onCore_kp _ _ _ s t (fun d => ?_) h
  repeat' (first | (with_reducible exact Agree.refl _ _) | with_reducible assumption | intro _ | (with_reducible refine Dev.wTadd_kp (hμ := (Within.refl _).up (by decide)) (hκ := ?_) ..) | (with_reducible apply Agree.ite) | (simp only [id_eq]) | split)

theorem execTadd_st {cell : Nat} {core : Nat} {s t : State} (hs : Kept s.dev) (h : execTadd cell core s = .next t) : Kept t.dev := by
  refine State.onCore_st _ _ _ s t (fun d hκ => ?_) hs h
  repeat' (first | with_reducible assumption | intro _ | (with_reducible refine Dev.wTadd_st (hκ := ?_) ..) | (with_reducible apply Kept.ite) | (simp only [id_eq]) | split)

theorem execTset_kp {cell : Nat} {core : Nat} {s t : State} (h : execTset cell core s = .next t) : t.pending = s.pending ∧ Agree 0x80000002080000245000000000000000000000000000000000000000000008000000000000000000000000000000000000000040 s.dev t.dev := by
  refine State.onCore_kp _ _ _ s t (fun d => ?_) h
  repeat' (first | (with_reducible exact Agree.refl _ _) | with_reducible assumption | intro _ | (with_reducible refine Dev.wTset_kp (hμ := (Within.refl _).up (by decide)) (hκ := ?_) ..) | (with_reducible apply Agree.ite) | (simp only [id_eq]) | split)

theorem execTset_st {cell : Nat} {core : Nat} {s t : State} (hs : Kept s.dev) (h : execTset cell core s = .next t) : Kept t.dev := by
  refine State.onCore_st _ _ _ s t (fun d hκ => ?_) hs h
  repeat' (first | with_reducible assumption | intro _ | (with_reducible refine Dev.wTset_st (hκ := ?_) ..) | (with_reducible apply Kept.ite) | (simp only [id_eq]) | split)

theorem execTradd_kp {cell : Nat} {core : Nat} {s t : State} (h : execTradd cell core s = .next t) : t.pending = s.pending ∧ Agree 0x80000002080000245000000000000000000000000000000000000000000008000000000000000000000000000000000000000040 s.dev t.dev := by
  refine State.onCore_kp _ _ _ s t (fun d => ?_) h
  repeat' (first | (with_reducible exact Agree.refl _ _) | with_reducible assumption | intro _ | (with_reducible refine Dev.wTradd_kp (hμ := (Within.refl _).up (by decide)) (hκ := ?_) ..) | (with_reducible apply Agree.ite) | (simp only [id_eq]) | split)

theorem execTradd_st {cell : Nat} {core : Nat} {s t : State} (hs : Kept s.dev) (h : execTradd cell core s = .next t) : Kept t.dev := by
  refine State.onCore_st _ _ _ s t (fun d hκ => ?_) hs h
  repeat' (first | with_reducible assumption | intro _ | (with_reducible refine Dev.wTradd_st (hκ := ?_) ..) | (with_reducible apply Kept.ite) | (simp only [id_eq]) | split)

theorem execTraddRelease_kp {cell : Nat} {core : Nat} {s t : State} (h : execTraddRelease cell core s = .next t) : t.pending = s.pending ∧ Agree 0x80000002080000245000000000000000000000000000000000000000000008000000000000000000000000000000000000000040 s.dev t.dev := by
  refine State.onCore_kp _ _ _ s t (fun d => ?_) h
  repeat' (first | (with_reducible exact Agree.refl _ _) | with_reducible assumption | intro _ | (with_reducible refine Dev.traddRelease_kp (hμ := (Within.refl _).up (by decide)) (hκ := ?_) ..) | (with_reducible apply Agree.ite) | (simp only [id_eq]) | split)

theorem execTraddRelease_st {cell : Nat} {core : Nat} {s t : State} (hs : Kept s.dev) (h : execTraddRelease cell core s = .next t) : Kept t.dev := by
  refine State.onCore_st _ _ _ s t (fun d hκ => ?_) hs h
  repeat' (first | with_reducible assumption | intro _ | (with_reducible refine Dev.traddRelease_st (hκ := ?_) ..) | (with_reducible apply Kept.ite) | (simp only [id_eq]) | split)

theorem execTcadd_kp {cell : Nat} {core : Nat} {s t : State} (h : execTcadd cell core s = .next t) : t.pending = s.pending ∧ Agree 0x80000002080000245000000000000000000000000000000000000000000008000000000000000000000000000000000000000040 s.dev t.dev := by
  refine State.onCore_kp _ _ _ s t (fun d => ?_) h
  repeat' (first | (with_reducible exact Agree.refl _ _) | with_reducible assumption | intro _ | (with_reducible refine Dev.wTcadd_kp (hμ := (Within.refl _).up (by decide)) (hκ := ?_) ..) | (with_reducible apply Agree.ite) | (simp only [id_eq]) | split)

theorem execTcadd_st {cell : Nat} {core : Nat} {s t : State} (hs : Kept s.dev) (h : execTcadd cell core s = .next t) : Kept t.dev := by
  refine State.onCore_st _ _ _ s t (fun d hκ => ?_) hs h
  repeat' (first | with_reducible assumption | intro _ | (with_reducible refine Dev.wTcadd_st (hκ := ?_) ..) | (with_reducible apply Kept.ite) | (simp only [id_eq]) | split)

theorem execCoreWaitTimeout_kp {cell : Nat} {core : Nat} {s t : State} (h : execCoreWaitTimeout cell core s = .next t) : t.pending = s.pending ∧ Agree 0x80000002080000245000000000000000000000000000000000000000000008000000000000000000000000000000000000000040 s.dev t.dev := by
  refine State.onCore_kp _ _ _ s t (fun d => ?_) h
  repeat' (first | (with_reducible exact Agree.refl _ _) | with_reducible assumption | intro _ | (with_reducible refine Dev.coreTimeout_kp (hμ := (Within.refl _).up (by decide)) (hκ := ?_) ..) | (with_reducible apply Agree.ite) | (simp only [id_eq]) | split)

theorem execCoreWaitTimeout_st {cell : Nat} {core : Nat} {s t : State} (hs : Kept s.dev) (h : execCoreWaitTimeout cell core s = .next t) : Kept t.dev := by
  refine State.onCore_st _ _ _ s t (fun d hκ => ?_) hs h
  repeat' (first | with_reducible assumption | intro _ | (with_reducible refine Dev.coreTimeout_st (hκ := ?_) ..) | (with_reducible apply Kept.ite) | (simp only [id_eq]) | split)

theorem execPowerSequencerGo_kp {die : Nat} {target : Nat} {s t : State} (h : execPowerSequencerGo die target s = .next t) : t.pending = s.pending ∧ Agree 0x1038010023e004200245000011800000000000000000000e04c6400c000000001000004000000000000000400000200101f20000000 s.dev t.dev := by
  refine State.onAon_kp _ _ s t (fun d => ?_) h
  repeat' (first | (with_reducible exact Agree.refl _ _) | with_reducible assumption | intro _ | (with_reducible refine Dev.pdctlWrite_kp (hμ := (Within.refl _).up (by decide)) (hκ := ?_) ..) | (with_reducible apply Agree.ite) | (simp only [id_eq]) | split)

theorem execPowerSequencerGo_st {die : Nat} {target : Nat} {s t : State} (hs : Kept s.dev) (h : execPowerSequencerGo die target s = .next t) : Kept t.dev := by
  refine State.onAon_st _ _ s t (fun d hκ => ?_) hs h
  repeat' (first | with_reducible assumption | intro _ | (with_reducible refine Dev.pdctlWrite_st (hκ := ?_) ..) | (with_reducible apply Kept.ite) | (simp only [id_eq]) | split)

theorem execPowerStepComplete_kp {die : Nat} {fails : Nat} {repairs : List (List Bool)} {s t : State} (h : execPowerStepComplete die fails repairs s = .next t) : t.pending = s.pending ∧ Agree 0x33fdffffffedbf3ffffffffffffffffffffffffffffffffffffffffffffffffffffffffffffffffffffffffffffffffffffffffffff s.dev t.dev := by
  refine State.onAon_kp _ _ s t (fun d => ?_) h
  repeat' (first | (with_reducible exact Agree.refl _ _) | with_reducible assumption | intro _ | (with_reducible refine Dev.pwStep_kp (hμ := (Within.refl _).up (by decide)) (hκ := ?_) ..) | (with_reducible apply Agree.ite) | (simp only [id_eq]) | split)

theorem execPowerStepComplete_st {die : Nat} {fails : Nat} {repairs : List (List Bool)} {s t : State} (hs : Kept s.dev) (h : execPowerStepComplete die fails repairs s = .next t) : Kept t.dev := by
  refine State.onAon_st _ _ s t (fun d hκ => ?_) hs h
  repeat' (first | with_reducible assumption | intro _ | (with_reducible refine Dev.pwStep_st (hκ := ?_) ..) | (with_reducible apply Kept.ite) | (simp only [id_eq]) | split)

theorem execWakeRequest_kp {die : Nat} {s t : State} (h : execWakeRequest die s = .next t) : t.pending = s.pending ∧ Agree 0x1004a000000000200000000013800000000000000000000000000000000000200400000008000000000000000000000000000000000 s.dev t.dev := by
  refine State.onAon_kp _ _ s t (fun d => ?_) h
  repeat' (first | (with_reducible exact Agree.refl _ _) | with_reducible assumption | intro _ | (with_reducible refine Dev.wake_kp (hμ := (Within.refl _).up (by decide)) (hκ := ?_) ..) | (with_reducible apply Agree.ite) | (simp only [id_eq]) | split)

theorem execWakeRequest_st {die : Nat} {s t : State} (hs : Kept s.dev) (h : execWakeRequest die s = .next t) : Kept t.dev := by
  refine State.onAon_st _ _ s t (fun d hκ => ?_) hs h
  repeat' (first | with_reducible assumption | intro _ | (with_reducible refine Dev.wake_st (hκ := ?_) ..) | (with_reducible apply Kept.ite) | (simp only [id_eq]) | split)

theorem execDieReset_kp {die : Nat} {s t : State} (h : execDieReset die s = .next t) : t.pending = s.pending ∧ Agree 0x37fdffffffedbf2ffffffffffffffffffffffffffffffffffffffffffffffffffffffffffffffffffffffffffffffffffffffffffff s.dev t.dev := by
  refine State.onAon_kp _ _ s t (fun d => ?_) h
  repeat' (first | (with_reducible exact Agree.refl _ _) | with_reducible assumption | intro _ | (with_reducible refine Dev.dieReset_kp (hμ := (Within.refl _).up (by decide)) (hκ := ?_) ..) | (with_reducible apply Agree.ite) | (simp only [id_eq]) | split)

theorem execDieReset_st {die : Nat} {s t : State} (hs : Kept s.dev) (h : execDieReset die s = .next t) : Kept t.dev := by
  refine State.onAon_st _ _ s t (fun d hκ => ?_) hs h
  repeat' (first | with_reducible assumption | intro _ | (with_reducible refine Dev.dieReset_st (hκ := ?_) ..) | (with_reducible apply Kept.ite) | (simp only [id_eq]) | split)

theorem execPowerGoodRise_kp {die : Nat} {resetLow : Bool} {s t : State} (h : execPowerGoodRise die resetLow s = .next t) : t.pending = s.pending ∧ Agree 0xffffffffffedff6ffffffffffffffffffffffffffffffffffffffffffffffffffffffffffffffffffffffffffffffffffffffffffff s.dev t.dev := by
  refine State.onDie_kp _ _ s t (fun d => ?_) h
  repeat' (first | (with_reducible exact Agree.refl _ _) | with_reducible assumption | intro _ | (with_reducible refine Dev.powerRise_kp (hμ := (Within.refl _).up (by decide)) (hκ := ?_) ..) | (with_reducible apply Agree.ite) | (simp only [id_eq]) | split)

theorem execPowerGoodRise_st {die : Nat} {resetLow : Bool} {s t : State} (hs : Kept s.dev) (h : execPowerGoodRise die resetLow s = .next t) : Kept t.dev := by
  refine State.onDie_st _ _ s t (fun d hκ => ?_) hs h
  repeat' (first | with_reducible assumption | intro _ | (with_reducible refine Dev.powerRise_st (hκ := ?_) ..) | (with_reducible apply Kept.ite) | (simp only [id_eq]) | split)

theorem execPowerGoodFall_kp {die : Nat} {s t : State} (h : execPowerGoodFall die s = .next t) : t.pending = s.pending ∧ Agree 0xffffffffffedff6ffffffffffffffffffffffffffffffffffffffffffffffffffffffffffffffffffffffffffffffffffffffffffff s.dev t.dev := by
  refine State.onDie_kp _ _ s t (fun d => ?_) h
  repeat' (first | (with_reducible exact Agree.refl _ _) | with_reducible assumption | intro _ | (with_reducible refine Dev.powerFall_kp (hμ := (Within.refl _).up (by decide)) (hκ := ?_) ..) | (with_reducible apply Agree.ite) | (simp only [id_eq]) | split)

theorem execPowerGoodFall_st {die : Nat} {s t : State} (hs : Kept s.dev) (h : execPowerGoodFall die s = .next t) : Kept t.dev := by
  refine State.onDie_st _ _ s t (fun d hκ => ?_) hs h
  repeat' (first | with_reducible assumption | intro _ | (with_reducible refine Dev.powerFall_st (hκ := ?_) ..) | (with_reducible apply Kept.ite) | (simp only [id_eq]) | split)

theorem execJunctionSample_kp {die : Nat} {tj : Nat} {s t : State} (h : execJunctionSample die tj s = .next t) : t.pending = s.pending ∧ Agree 0x10000000000000000000000040000000000000000000000000000000000000000000000000000000000000000000000000000000000 s.dev t.dev := by
  refine State.onAon_kp _ _ s t (fun d => ?_) h
  repeat' (first | (with_reducible exact Agree.refl _ _) | with_reducible assumption | intro _ | (with_reducible refine Dev.tjSample_kp (hμ := (Within.refl _).up (by decide)) (hκ := ?_) ..) | (with_reducible apply Agree.ite) | (simp only [id_eq]) | split)

theorem execJunctionSample_st {die : Nat} {tj : Nat} {s t : State} (hs : Kept s.dev) (h : execJunctionSample die tj s = .next t) : Kept t.dev := by
  refine State.onAon_st _ _ s t (fun d hκ => ?_) hs h
  repeat' (first | with_reducible assumption | intro _ | (with_reducible refine Dev.tjSample_st (hκ := ?_) ..) | (with_reducible apply Kept.ite) | (simp only [id_eq]) | split)

theorem execThrottleStep_kp {die : Nat} {cause : Nat} {s t : State} (h : execThrottleStep die cause s = .next t) : t.pending = s.pending ∧ Agree 0x10080000000000000245000020000004000000000000000000000000000000000000000000000000000000000000000000000000000 s.dev t.dev := by
  refine State.onAon_kp _ _ s t (fun d => ?_) h
  repeat' (first | (with_reducible exact Agree.refl _ _) | with_reducible assumption | intro _ | (with_reducible refine Dev.thrStep_kp (hμ := (Within.refl _).up (by decide)) (hκ := ?_) ..) | (with_reducible apply Agree.ite) | (simp only [id_eq]) | split)

theorem execThrottleStep_st {die : Nat} {cause : Nat} {s t : State} (hs : Kept s.dev) (h : execThrottleStep die cause s = .next t) : Kept t.dev := by
  refine State.onAon_st _ _ s t (fun d hκ => ?_) hs h
  repeat' (first | with_reducible assumption | intro _ | (with_reducible refine Dev.thrStep_st (hκ := ?_) ..) | (with_reducible apply Kept.ite) | (simp only [id_eq]) | split)

theorem execThrottleReleaseStep_kp {die : Nat} {cause : Nat} {s t : State} (h : execThrottleReleaseStep die cause s = .next t) : t.pending = s.pending ∧ Agree 0x10080000000000000245000020000004000000000000000000000000000000000000000000000000000000000000000000000000000 s.dev t.dev := by
  refine State.onAon_kp _ _ s t (fun d => ?_) h
  repeat' (first | (with_reducible exact Agree.refl _ _) | with_reducible assumption | intro _ | (with_reducible refine Dev.thrRelease_kp (hμ := (Within.refl _).up (by decide)) (hκ := ?_) ..) | (with_reducible apply Agree.ite) | (simp only [id_eq]) | split)

theorem execThrottleReleaseStep_st {die : Nat} {cause : Nat} {s t : State} (hs : Kept s.dev) (h : execThrottleReleaseStep die cause s = .next t) : Kept t.dev := by
  refine State.onAon_st _ _ s t (fun d hκ => ?_) hs h
  repeat' (first | with_reducible assumption | intro _ | (with_reducible refine Dev.thrRelease_st (hκ := ?_) ..) | (with_reducible apply Kept.ite) | (simp only [id_eq]) | split)

theorem execPowerFigureExchange_kp {die : Nat} {watts : Nat} {rails : List (Nat × Nat)} {arrived : Nat} {s t : State} (h : execPowerFigureExchange die watts rails arrived s = .next t) : t.pending = s.pending ∧ Agree 0x10000000000000000000000480000000000000000000000000000000000000000000000000000000000000000000000000000000000 s.dev t.dev := by
  refine State.onAon_kp _ _ s t (fun d => ?_) h
  repeat' (first | (with_reducible exact Agree.refl _ _) | with_reducible assumption | intro _ | (with_reducible refine Dev.pwFigures_kp (hμ := (Within.refl _).up (by decide)) (hκ := ?_) ..) | (with_reducible apply Agree.ite) | (simp only [id_eq]) | split)

theorem execPowerFigureExchange_st {die : Nat} {watts : Nat} {rails : List (Nat × Nat)} {arrived : Nat} {s t : State} (hs : Kept s.dev) (h : execPowerFigureExchange die watts rails arrived s = .next t) : Kept t.dev := by
  refine State.onAon_st _ _ s t (fun d hκ => ?_) hs h
  repeat' (first | with_reducible assumption | intro _ | (with_reducible refine Dev.pwFigures_st (hκ := ?_) ..) | (with_reducible apply Kept.ite) | (simp only [id_eq]) | split)

theorem execThermalTrip_kp {die : Nat} {s t : State} (h : execThermalTrip die s = .next t) : t.pending = s.pending ∧ Agree 0x37fdffffffedbf2ffffffffffffffffffffffffffffffffffffffffffffffffffffffffffffffffffffffffffffffffffffffffffff s.dev t.dev := by
  refine State.onAon_kp _ _ s t (fun d => ?_) h
  repeat' (first | (with_reducible exact Agree.refl _ _) | with_reducible assumption | intro _ | (with_reducible refine Dev.trip_kp (hμ := (Within.refl _).up (by decide)) (hκ := ?_) ..) | (with_reducible apply Agree.ite) | (simp only [id_eq]) | split)

theorem execThermalTrip_st {die : Nat} {s t : State} (hs : Kept s.dev) (h : execThermalTrip die s = .next t) : Kept t.dev := by
  refine State.onAon_st _ _ s t (fun d hκ => ?_) hs h
  repeat' (first | with_reducible assumption | intro _ | (with_reducible refine Dev.trip_st (hκ := ?_) ..) | (with_reducible apply Kept.ite) | (simp only [id_eq]) | split)

theorem execRailFault_kp {die : Nat} {rail : Nat} {s t : State} (h : execRailFault die rail s = .next t) : t.pending = s.pending ∧ Agree 0xffffffffffedff6ffffffffffffffffffffffffffffffffffffffffffffffffffffffffffffffffffffffffffffffffffffffffffff s.dev t.dev := by
  refine State.onAon_kp _ _ s t (fun d => ?_) h
  repeat' (first | (with_reducible exact Agree.refl _ _) | with_reducible assumption | intro _ | (with_reducible refine Dev.railFault_kp (hμ := (Within.refl _).up (by decide)) (hκ := ?_) ..) | (with_reducible apply Agree.ite) | (simp only [id_eq]) | split)

theorem execRailFault_st {die : Nat} {rail : Nat} {s t : State} (hs : Kept s.dev) (h : execRailFault die rail s = .next t) : Kept t.dev := by
  refine State.onAon_st _ _ s t (fun d hκ => ?_) hs h
  repeat' (first | with_reducible assumption | intro _ | (with_reducible refine Dev.railFault_st (hκ := ?_) ..) | (with_reducible apply Kept.ite) | (simp only [id_eq]) | split)

theorem execRefclkLoss_kp {die : Nat} {s t : State} (h : execRefclkLoss die s = .next t) : t.pending = s.pending ∧ Agree 0x37fbffffffedbf2ffffffffffffffffffffffffffffffffffffffffffffffffffffffffffffffffffffffffffffffffffffffffffff s.dev t.dev := by
  refine State.onAon_kp _ _ s t (fun d => ?_) h
  repeat' (first | (with_reducible exact Agree.refl _ _) | with_reducible assumption | intro _ | (with_reducible refine Dev.refLoss_kp (hμ := (Within.refl _).up (by decide)) (hκ := ?_) ..) | (with_reducible apply Agree.ite) | (simp only [id_eq]) | split)

theorem execRefclkLoss_st {die : Nat} {s t : State} (hs : Kept s.dev) (h : execRefclkLoss die s = .next t) : Kept t.dev := by
  refine State.onAon_st _ _ s t (fun d hκ => ?_) hs h
  repeat' (first | with_reducible assumption | intro _ | (with_reducible refine Dev.refLoss_st (hκ := ?_) ..) | (with_reducible apply Kept.ite) | (simp only [id_eq]) | split)

theorem execPllLockLoss_kp {die : Nat} {pll : Nat} {s t : State} (h : execPllLockLoss die pll s = .next t) : t.pending = s.pending ∧ Agree 0x37f9ffffffedbf2ffffffffffffffffffffffffffffffffffffffffffffffffffffffffffffffffffffffffffffffffffffffffffff s.dev t.dev := by
  refine State.onAon_kp _ _ s t (fun d => ?_) h
  repeat' (first | (with_reducible exact Agree.refl _ _) | with_reducible assumption | intro _ | (with_reducible refine Dev.pllLoss_kp (hμ := (Within.refl _).up (by decide)) (hκ := ?_) ..) | (with_reducible apply Agree.ite) | (simp only [id_eq]) | split)

theorem execPllLockLoss_st {die : Nat} {pll : Nat} {s t : State} (hs : Kept s.dev) (h : execPllLockLoss die pll s = .next t) : Kept t.dev := by
  refine State.onAon_st _ _ s t (fun d hκ => ?_) hs h
  repeat' (first | with_reducible assumption | intro _ | (with_reducible refine Dev.pllLoss_st (hκ := ?_) ..) | (with_reducible apply Kept.ite) | (simp only [id_eq]) | split)

theorem execSlowclkLoss_kp {die : Nat} {s t : State} (h : execSlowclkLoss die s = .next t) : t.pending = s.pending ∧ Agree 0xa0000000000000245000010000000000000000000000000000000000000000000000000000000000000000000000000000000000 s.dev t.dev := by
  refine State.onAon_kp _ _ s t (fun d => ?_) h
  repeat' (first | (with_reducible exact Agree.refl _ _) | with_reducible assumption | intro _ | (with_reducible refine Dev.slowLoss_kp (hμ := (Within.refl _).up (by decide)) (hκ := ?_) ..) | (with_reducible apply Agree.ite) | (simp only [id_eq]) | split)

theorem execSlowclkLoss_st {die : Nat} {s t : State} (hs : Kept s.dev) (h : execSlowclkLoss die s = .next t) : Kept t.dev := by
  refine State.onAon_st _ _ s t (fun d hκ => ?_) hs h
  repeat' (first | with_reducible assumption | intro _ | (with_reducible refine Dev.slowLoss_st (hκ := ?_) ..) | (with_reducible apply Kept.ite) | (simp only [id_eq]) | split)

theorem execSlowclkRestore_kp {die : Nat} {s t : State} (h : execSlowclkRestore die s = .next t) : t.pending = s.pending ∧ Agree 0x10000000000000000000000000000000000000000000000000000000000000000000000000000000000 s.dev t.dev := by
  refine State.onAon_kp _ _ s t (fun d => ?_) h
  repeat' (first | (with_reducible exact Agree.refl _ _) | with_reducible assumption | intro _ | (with_reducible refine Dev.slowBack_kp (hμ := (Within.refl _).up (by decide)) (hκ := ?_) ..) | (with_reducible apply Agree.ite) | (simp only [id_eq]) | split)

theorem execSlowclkRestore_st {die : Nat} {s t : State} (hs : Kept s.dev) (h : execSlowclkRestore die s = .next t) : Kept t.dev := by
  refine State.onAon_st _ _ s t (fun d hκ => ?_) hs h
  repeat' (first | with_reducible assumption | intro _ | (with_reducible refine Dev.slowBack_st (hκ := ?_) ..) | (with_reducible apply Kept.ite) | (simp only [id_eq]) | split)

theorem execMemoryTestPhaseEnd_kp {die : Nat} {rows : List (Nat × RowId)} {s t : State} (h : execMemoryTestPhaseEnd die rows s = .next t) : t.pending = s.pending ∧ Agree 0x100800808000382002450000100000000000000000000000000000000000000000000000000003b3000001400000200000020000000 s.dev t.dev := by
  refine State.onCarrier_kp _ _ s t (fun d => ?_) h
  repeat' (first | (with_reducible exact Agree.refl _ _) | with_reducible assumption | intro _ | (with_reducible refine Dev.memPhase_kp (hμ := (Within.refl _).up (by decide)) (hκ := ?_) ..) | (with_reducible apply Agree.ite) | (simp only [id_eq]) | split)

theorem execMemoryTestPhaseEnd_st {die : Nat} {rows : List (Nat × RowId)} {s t : State} (hs : Kept s.dev) (h : execMemoryTestPhaseEnd die rows s = .next t) : Kept t.dev := by
  refine State.onCarrier_st _ _ s t (fun d hκ => ?_) hs h
  repeat' (first | with_reducible assumption | intro _ | (with_reducible refine Dev.memPhase_st (hκ := ?_) ..) | (with_reducible apply Kept.ite) | (simp only [id_eq]) | split)

theorem execB0okClear_kp {die : Nat} {s t : State} (h : execB0okClear die s = .next t) : t.pending = s.pending ∧ Agree 0x20000000000000000000000000000000000000000000000000000000000000000000000000000000000000 s.dev t.dev := by
  refine State.onCarrier_kp _ _ s t (fun d => ?_) h
  repeat' (first | (with_reducible exact Agree.refl _ _) | with_reducible assumption | intro _ | (with_reducible refine Dev.b0okClear_kp (hμ := (Within.refl _).up (by decide)) (hκ := ?_) ..) | (with_reducible apply Agree.ite) | (simp only [id_eq]) | split)

theorem execB0okClear_st {die : Nat} {s t : State} (hs : Kept s.dev) (h : execB0okClear die s = .next t) : Kept t.dev := by
  refine State.onCarrier_st _ _ s t (fun d hκ => ?_) hs h
  repeat' (first | with_reducible assumption | intro _ | (with_reducible refine Dev.b0okClear_st (hκ := ?_) ..) | (with_reducible apply Kept.ite) | (simp only [id_eq]) | split)

theorem execChunkSend_kp {die : Nat} {nchm1 : Nat} {chunk : Nat} {uni : Bool} {mask : Nat} {s t : State} (h : execChunkSend die nchm1 chunk uni mask s = .next t) : t.pending = s.pending ∧ Agree 0x2000000000000400000000400000000000000000000000000000000000000000000000000001c000000000000000000000000000000 s.dev t.dev := by
  refine State.onCarrier_kp _ _ s t (fun d => ?_) h
  repeat' (first | (with_reducible exact Agree.refl _ _) | with_reducible assumption | intro _ | (with_reducible refine Dev.chunkSend_kp (hμ := (Within.refl _).up (by decide)) (hκ := ?_) ..) | (with_reducible apply Agree.ite) | (simp only [id_eq]) | split)

theorem execChunkSend_st {die : Nat} {nchm1 : Nat} {chunk : Nat} {uni : Bool} {mask : Nat} {s t : State} (hs : Kept s.dev) (h : execChunkSend die nchm1 chunk uni mask s = .next t) : Kept t.dev := by
  refine State.onCarrier_st _ _ s t (fun d hκ => ?_) hs h
  repeat' (first | with_reducible assumption | intro _ | (with_reducible refine Dev.chunkSend_st (hκ := ?_) ..) | (with_reducible apply Kept.ite) | (simp only [id_eq]) | split)

theorem execChunkReceive_kp {place : Nat} {noise : Bytes} {s t : State} (h : execChunkReceive place noise s = .next t) : t.pending = s.pending ∧ Agree 0x200800000020bc000245200000000000000000000000000000000000000000008000000000c00000000000000000000000000000040 s.dev t.dev := by
  refine State.on_kp _ s t (fun d => ?_) h
  repeat' (first | (with_reducible exact Agree.refl _ _) | with_reducible assumption | intro _ | (with_reducible refine Dev.chunkReceive_kp (hμ := (Within.refl _).up (by decide)) (hκ := ?_) ..) | (with_reducible apply Agree.ite) | (simp only [id_eq]) | split)

theorem execChunkReceive_st {place : Nat} {noise : Bytes} {s t : State} (hs : Kept s.dev) (h : execChunkReceive place noise s = .next t) : Kept t.dev := by
  refine State.on_st _ s t (fun d hκ => ?_) hs h
  repeat' (first | with_reducible assumption | intro _ | (with_reducible refine Dev.chunkReceive_st (hκ := ?_) ..) | (with_reducible apply Kept.ite) | (simp only [id_eq]) | split)

theorem execScrubRead_kp {mem : Nat} {die : Nat} {unit : Nat} {ups : List (Nat × Nat)} {again : List (Nat × Nat)} {s t : State} (h : execScrubRead mem die unit ups again s = .next t) : t.pending = s.pending ∧ Agree 0x8001880003c000245000000000000000000000000000000000000000000000000000000c1f3b31bc000000000000000000000000 s.dev t.dev := by
  refine State.onCarrier_kp _ _ s t (fun d => ?_) h
  repeat' (first | (with_reducible exact Agree.refl _ _) | with_reducible assumption | intro _ | (with_reducible refine Dev.upset_kp (hμ := (Within.refl _).up (by decide)) (hκ := ?_) ..) | (with_reducible refine Dev.scrubRead_kp (hμ := (Within.refl _).up (by decide)) (hκ := ?_) ..) | (with_reducible apply Agree.ite) | (simp only [id_eq]) | split)

theorem execScrubRead_st {mem : Nat} {die : Nat} {unit : Nat} {ups : List (Nat × Nat)} {again : List (Nat × Nat)} {s t : State} (hs : Kept s.dev) (h : execScrubRead mem die unit ups again s = .next t) : Kept t.dev := by
  refine State.onCarrier_st _ _ s t (fun d hκ => ?_) hs h
  repeat' (first | with_reducible assumption | intro _ | (with_reducible refine Dev.upset_st (hκ := ?_) ..) | (with_reducible refine Dev.scrubRead_st (hκ := ?_) ..) | (with_reducible apply Kept.ite) | (simp only [id_eq]) | split)

theorem execScrubWriteback_kp {place : Nat} {s t : State} (h : execScrubWriteback place s = .next t) : t.pending = s.pending ∧ Agree 0x10000038000000000000000000000000000000000000000000000000000000000000000000000000000000000000000000000 s.dev t.dev := by
  refine State.on_kp _ s t (fun d => ?_) h
  repeat' (first | (with_reducible exact Agree.refl _ _) | with_reducible assumption | intro _ | (with_reducible refine Dev.scrubWback_kp (hμ := (Within.refl _).up (by decide)) (hκ := ?_) ..) | (with_reducible apply Agree.ite) | (simp only [id_eq]) | split)

theorem execScrubWriteback_st {place : Nat} {s t : State} (hs : Kept s.dev) (h : execScrubWriteback place s = .next t) : Kept t.dev := by
  refine State.on_st _ s t (fun d hκ => ?_) hs h
  repeat' (first | with_reducible assumption | intro _ | (with_reducible refine Dev.scrubWback_st (hκ := ?_) ..) | (with_reducible apply Kept.ite) | (simp only [id_eq]) | split)

theorem execCheckerSelfTest_kp {mem : Nat} {die : Nat} {inst : Nat} {s t : State} (h : execCheckerSelfTest mem die inst s = .next t) : t.pending = s.pending ∧ Agree 0x20000000000000000000000000000000000000000000000000000000000000000001080400000000000000000000000000000 s.dev t.dev := by
  refine State.onCarrier_kp _ _ s t (fun d => ?_) h
  repeat' (first | (with_reducible exact Agree.refl _ _) | with_reducible assumption | intro _ | (with_reducible refine Dev.stestRun_kp (hμ := (Within.refl _).up (by decide)) (hκ := ?_) ..) | (with_reducible apply Agree.ite) | (simp only [id_eq]) | split)

theorem execCheckerSelfTest_st {mem : Nat} {die : Nat} {inst : Nat} {s t : State} (hs : Kept s.dev) (h : execCheckerSelfTest mem die inst s = .next t) : Kept t.dev := by
  refine State.onCarrier_st _ _ s t (fun d hκ => ?_) hs h
  repeat' (first | with_reducible assumption | intro _ | (with_reducible refine Dev.stestRun_st (hκ := ?_) ..) | (with_reducible apply Kept.ite) | (simp only [id_eq]) | split)

theorem execCheckerSelfTestDone_kp {mem : Nat} {die : Nat} {inst : Nat} {pattern : Nat} {bad : List (Nat × Nat)} {s t : State} (h : execCheckerSelfTestDone mem die inst pattern bad s = .next t) : t.pending = s.pending ∧ Agree 0x37fbffffffedbf2ffffffffffffffffffffffffffffffffffffffffffffffffffffffffffffffffffffffffffffffffffffffffffff s.dev t.dev := by
  refine State.onCarrier_kp _ _ s t (fun d => ?_) h
  repeat' (first | (with_reducible exact Agree.refl _ _) | with_reducible assumption | intro _ | (with_reducible refine Dev.stestDone_kp (hμ := (Within.refl _).up (by decide)) (hκ := ?_) ..) | (with_reducible apply Agree.ite) | (simp only [id_eq]) | split)

theorem execCheckerSelfTestDone_st {mem : Nat} {die : Nat} {inst : Nat} {pattern : Nat} {bad : List (Nat × Nat)} {s t : State} (hs : Kept s.dev) (h : execCheckerSelfTestDone mem die inst pattern bad s = .next t) : Kept t.dev := by
  refine State.onCarrier_st _ _ s t (fun d hκ => ?_) hs h
  repeat' (first | with_reducible assumption | intro _ | (with_reducible refine Dev.stestDone_st (hκ := ?_) ..) | (with_reducible apply Kept.ite) | (simp only [id_eq]) | split)

theorem execSbfZfill_kp {die : Nat} {mib : Nat} {s t : State} (h : execSbfZfill die mib s = .next t) : t.pending = s.pending ∧ Agree 0x40000000000000000000000000000000000000000000000000000000000000000000040000000000000000000000000000000 s.dev t.dev := by
  refine State.onCarrier_kp _ _ s t (fun d => ?_) h
  repeat' (first | (with_reducible exact Agree.refl _ _) | with_reducible assumption | intro _ | (with_reducible refine Dev.zfillWrite_kp (hμ := (Within.refl _).up (by decide)) (hκ := ?_) ..) | (with_reducible apply Agree.ite) | (simp only [id_eq]) | split)

theorem execSbfZfill_st {die : Nat} {mib : Nat} {s t : State} (hs : Kept s.dev) (h : execSbfZfill die mib s = .next t) : Kept t.dev := by
  refine State.onCarrier_st _ _ s t (fun d hκ => ?_) hs h
  repeat' (first | with_reducible assumption | intro _ | (with_reducible refine Dev.zfillWrite_st (hκ := ?_) ..) | (with_reducible apply Kept.ite) | (simp only [id_eq]) | split)

theorem execSbfZfillDone_kp {die : Nat} {s t : State} (h : execSbfZfillDone die s = .next t) : t.pending = s.pending ∧ Agree 0x44000038000000000000000000000000000000000000000000000000000000000000040000000000000000000000000000000 s.dev t.dev := by
  refine State.onCarrier_kp _ _ s t (fun d => ?_) h
  repeat' (first | (with_reducible exact Agree.refl _ _) | with_reducible assumption | intro _ | (with_reducible refine Dev.zfillDone_kp (hμ := (Within.refl _).up (by decide)) (hκ := ?_) ..) | (with_reducible apply Agree.ite) | (simp only [id_eq]) | split)

theorem execSbfZfillDone_st {die : Nat} {s t : State} (hs : Kept s.dev) (h : execSbfZfillDone die s = .next t) : Kept t.dev := by
  refine State.onCarrier_st _ _ s t (fun d hκ => ?_) hs h
  repeat' (first | with_reducible assumption | intro _ | (with_reducible refine Dev.zfillDone_st (hκ := ?_) ..) | (with_reducible apply Kept.ite) | (simp only [id_eq]) | split)

theorem execRegisterWrite_kp {by_ : Nat} {die : Nat} {off : Nat} {value : Nat} {s t : State} (h : execRegisterWrite by_ die off value s = .next t) : t.pending = s.pending ∧ Agree 0x3bf9ef6227fdbe2ffffffffffffffffffffffffffffffffffffffffffffffffffffffffffffffffffffffffffffffffffffffffffff s.dev t.dev := by
  refine State.on_kp _ s t (fun d => ?_) h
  repeat' (first | (with_reducible exact Agree.refl _ _) | with_reducible assumption | intro _ | (with_reducible refine Dev.oneWrite_kp (hμ := (Within.refl _).up (by decide)) (hκ := ?_) ..) | (with_reducible apply Agree.ite) | (simp only [id_eq]) | split)

theorem execRegisterWrite_st {by_ : Nat} {die : Nat} {off : Nat} {value : Nat} {s t : State} (hs : Kept s.dev) (h : execRegisterWrite by_ die off value s = .next t) : Kept t.dev := by
  refine State.on_st _ s t (fun d hκ => ?_) hs h
  repeat' (first | with_reducible assumption | intro _ | (with_reducible refine Dev.oneWrite_st (hκ := ?_) ..) | (with_reducible apply Kept.ite) | (simp only [id_eq]) | split)

theorem execReg64LoRead_kp {by_ : Nat} {die : Nat} {off : Nat} {s t : State} (h : execReg64LoRead by_ die off s = .next t) : t.pending = s.pending ∧ Agree 0x2080800000001000245000000004002000000000000000000000000000000000000000000000000000000000000000000000000000 s.dev t.dev := by
  refine State.on_kp _ s t (fun d => ?_) h
  repeat' (first | (with_reducible exact Agree.refl _ _) | with_reducible assumption | intro _ | (with_reducible refine Dev.loRead_kp (hμ := (Within.refl _).up (by decide)) (hκ := ?_) ..) | (with_reducible apply Agree.ite) | (simp only [id_eq]) | split)

theorem execReg64LoRead_st {by_ : Nat} {die : Nat} {off : Nat} {s t : State} (hs : Kept s.dev) (h : execReg64LoRead by_ die off s = .next t) : Kept t.dev := by
  refine State.on_st _ s t (fun d hκ => ?_) hs h
  repeat' (first | with_reducible assumption | intro _ | (with_reducible refine Dev.loRead_st (hκ := ?_) ..) | (with_reducible apply Kept.ite) | (simp only [id_eq]) | split)

theorem execReg64LoWrite_kp {by_ : Nat} {die : Nat} {off : Nat} {value : Nat} {s t : State} (h : execReg64LoWrite by_ die off value s = .next t) : t.pending = s.pending ∧ Agree 0x3bf9ef6227fdbe2ffffffffffffffffffffffffffffffffffffffffffffffffffffffffffffffffffffffffffffffffffffffffffff s.dev t.dev := by
  refine State.on_kp _ s t (fun d => ?_) h
  repeat' (first | (with_reducible exact Agree.refl _ _) | with_reducible assumption | intro _ | (with_reducible refine Dev.pairWrite_kp (hμ := (Within.refl _).up (by decide)) (hκ := ?_) ..) | (with_reducible apply Agree.ite) | (simp only [id_eq]) | split)

theorem execReg64LoWrite_st {by_ : Nat} {die : Nat} {off : Nat} {value : Nat} {s t : State} (hs : Kept s.dev) (h : execReg64LoWrite by_ die off value s = .next t) : Kept t.dev := by
  refine State.on_st _ s t (fun d hκ => ?_) hs h
  repeat' (first | with_reducible assumption | intro _ | (with_reducible refine Dev.pairWrite_st (hκ := ?_) ..) | (with_reducible apply Kept.ite) | (simp only [id_eq]) | split)

theorem execReg64HiWrite_kp {by_ : Nat} {die : Nat} {off : Nat} {value : Nat} {s t : State} (h : execReg64HiWrite by_ die off value s = .next t) : t.pending = s.pending ∧ Agree 0x3bf9ef6227fdbe2ffffffffffffffffffffffffffffffffffffffffffffffffffffffffffffffffffffffffffffffffffffffffffff s.dev t.dev := by
  refine State.on_kp _ s t (fun d => ?_) h
  repeat' (first | (with_reducible exact Agree.refl _ _) | with_reducible assumption | intro _ | (with_reducible refine Dev.pairWrite_kp (hμ := (Within.refl _).up (by decide)) (hκ := ?_) ..) | (with_reducible apply Agree.ite) | (simp only [id_eq]) | split)

theorem execReg64HiWrite_st {by_ : Nat} {die : Nat} {off : Nat} {value : Nat} {s t : State} (hs : Kept s.dev) (h : execReg64HiWrite by_ die off value s = .next t) : Kept t.dev := by
  refine State.on_st _ s t (fun d hκ => ?_) hs h
  repeat' (first | with_reducible assumption | intro _ | (with_reducible refine Dev.pairWrite_st (hκ := ?_) ..) | (with_reducible apply Kept.ite) | (simp only [id_eq]) | split)

theorem execControlAddressMiss_kp {by_ : Nat} {die : Nat} {off : Nat} {write : Bool} {s t : State} (h : execControlAddressMiss by_ die off write s = .next t) : t.pending = s.pending ∧ Agree 0x3bf9ef6227fdbf2ffffffffffffffffffffffffffffffffffffffffffffffffffffffffffffffffffffffffffffffffffffffffffff s.dev t.dev := by
  refine State.on_kp _ s t (fun d => ?_) h
  repeat' (first | (with_reducible exact Agree.refl _ _) | with_reducible assumption | intro _ | (with_reducible refine Dev.missAccess_kp (hμ := (Within.refl _).up (by decide)) (hκ := ?_) ..) | (with_reducible apply Agree.ite) | (simp only [id_eq]) | split)

theorem execControlAddressMiss_st {by_ : Nat} {die : Nat} {off : Nat} {write : Bool} {s t : State} (hs : Kept s.dev) (h : execControlAddressMiss by_ die off write s = .next t) : Kept t.dev := by
  refine State.on_st _ s t (fun d hκ => ?_) hs h
  repeat' (first | with_reducible assumption | intro _ | (with_reducible refine Dev.missAccess_st (hκ := ?_) ..) | (with_reducible apply Kept.ite) | (simp only [id_eq]) | split)

theorem execStewardMemoryAccess_kp {die : Nat} {gpa : Nat} {len : Nat} {write : Bool} {data : Bytes} {answer : Bytes} {ups : List (Nat × Nat)} {again : List (Nat × Nat)} {s t : State} (h : execStewardMemoryAccess die gpa len write data answer ups again s = .next t) : t.pending = s.pending ∧ Agree 0x80804802c3c00024500000000000000000000000000000000000000000000000000000003c3b303c000000000000000000000000 s.dev t.dev := by
  refine State.onCarrier_kp _ _ s t (fun d => ?_) h
  repeat' (first | (with_reducible exact Agree.refl _ _) | with_reducible assumption | intro _ | (with_reducible refine Dev.stwIoAccess_kp (hμ := (Within.refl _).up (by decide)) (hκ := ?_) ..) | (with_reducible apply Agree.ite) | (simp only [id_eq]) | split)

theorem execStewardMemoryAccess_st {die : Nat} {gpa : Nat} {len : Nat} {write : Bool} {data : Bytes} {answer : Bytes} {ups : List (Nat × Nat)} {again : List (Nat × Nat)} {s t : State} (hs : Kept s.dev) (h : execStewardMemoryAccess die gpa len write data answer ups again s = .next t) : Kept t.dev := by
  refine State.onCarrier_st _ _ s t (fun d hκ => ?_) hs h
  repeat' (first | with_reducible assumption | intro _ | (with_reducible refine Dev.stwIoAccess_st (hκ := ?_) ..) | (with_reducible apply Kept.ite) | (simp only [id_eq]) | split)

theorem execStewardFence_kp {die : Nat} {s t : State} (h : execStewardFence die s = .next t) : t.pending = s.pending ∧ Agree 0x800000000000000000000000000000000000000000000000000000000000000000000000000000000000000000000000000000 s.dev t.dev := by
  refine State.onCarrier_kp _ _ s t (fun d => ?_) h
  repeat' (first | (with_reducible exact Agree.refl _ _) | with_reducible assumption | intro _ | (with_reducible refine Dev.stwFence_kp (hμ := (Within.refl _).up (by decide)) (hκ := ?_) ..) | (with_reducible apply Agree.ite) | (simp only [id_eq]) | split)

theorem execStewardFence_st {die : Nat} {s t : State} (hs : Kept s.dev) (h : execStewardFence die s = .next t) : Kept t.dev := by
  refine State.onCarrier_st _ _ s t (fun d hκ => ?_) hs h
  repeat' (first | with_reducible assumption | intro _ | (with_reducible refine Dev.stwFence_st (hκ := ?_) ..) | (with_reducible apply Kept.ite) | (simp only [id_eq]) | split)

theorem execSiteTrain_kp {die : Nat} {s t : State} (h : execSiteTrain die s = .next t) : t.pending = s.pending ∧ Agree 0x90000004000000245000000000000000000000000000000000000009800000800000000000000000000000000000000000000000 s.dev t.dev := by
  refine State.onCarrier_kp _ _ s t (fun d => ?_) h
  repeat' (first | (with_reducible exact Agree.refl _ _) | with_reducible assumption | intro _ | (with_reducible refine Dev.auxCtlWrite_kp (hμ := (Within.refl _).up (by decide)) (hκ := ?_) ..) | (with_reducible apply Agree.ite) | (simp only [id_eq]) | split)

theorem execSiteTrain_st {die : Nat} {s t : State} (hs : Kept s.dev) (h : execSiteTrain die s = .next t) : Kept t.dev := by
  refine State.onCarrier_st _ _ s t (fun d hκ => ?_) hs h
  repeat' (first | with_reducible assumption | intro _ | (with_reducible refine Dev.auxCtlWrite_st (hκ := ?_) ..) | (with_reducible apply Kept.ite) | (simp only [id_eq]) | split)

theorem execSiteHold_kp {die : Nat} {s t : State} (h : execSiteHold die s = .next t) : t.pending = s.pending ∧ Agree 0x90000004000000245000000000000000000000000000000000000009800000800000000000000000000000000000000000000000 s.dev t.dev := by
  refine State.onCarrier_kp _ _ s t (fun d => ?_) h
  repeat' (first | (with_reducible exact Agree.refl _ _) | with_reducible assumption | intro _ | (with_reducible refine Dev.auxCtlWrite_kp (hμ := (Within.refl _).up (by decide)) (hκ := ?_) ..) | (with_reducible apply Agree.ite) | (simp only [id_eq]) | split)

theorem execSiteHold_st {die : Nat} {s t : State} (hs : Kept s.dev) (h : execSiteHold die s = .next t) : Kept t.dev := by
  refine State.onCarrier_st _ _ s t (fun d hκ => ?_) hs h
  repeat' (first | with_reducible assumption | intro _ | (with_reducible refine Dev.auxCtlWrite_st (hκ := ?_) ..) | (with_reducible apply Kept.ite) | (simp only [id_eq]) | split)

theorem execSiteBringupStepEnd_kp {die : Nat} {res : SiteRes} {s t : State} (h : execSiteBringupStepEnd die res s = .next t) : t.pending = s.pending ∧ Agree 0x90000004000000245000000000000000000000000000000000000409800000800000000000000000000000000000000000000000 s.dev t.dev := by
  refine State.onCarrier_kp _ _ s t (fun d => ?_) h
  repeat' (first | (with_reducible exact Agree.refl _ _) | with_reducible assumption | intro _ | (with_reducible refine Dev.siteStepEnd_kp (hμ := (Within.refl _).up (by decide)) (hκ := ?_) ..) | (with_reducible apply Agree.ite) | (simp only [id_eq]) | split)

theorem execSiteBringupStepEnd_st {die : Nat} {res : SiteRes} {s t : State} (hs : Kept s.dev) (h : execSiteBringupStepEnd die res s = .next t) : Kept t.dev := by
  refine State.onCarrier_st _ _ s t (fun d hκ => ?_) hs h
  repeat' (first | with_reducible assumption | intro _ | (with_reducible refine Dev.siteStepEnd_st (hκ := ?_) ..) | (with_reducible apply Kept.ite) | (simp only [id_eq]) | split)

theorem execSiteFlitReceive_kp {die : Nat} {flit : Bytes} {s t : State} (h : execSiteFlitReceive die flit s = .next t) : t.pending = s.pending ∧ Agree 0x10000004000000000000000000000000000000000000000000000389000000000000000000000000000000000000000000000000 s.dev t.dev := by
  refine State.onCarrier_kp _ _ s t (fun d => ?_) h
  repeat' (first | (with_reducible exact Agree.refl _ _) | with_reducible assumption | intro _ | (with_reducible refine Dev.siteFlit_kp (hμ := (Within.refl _).up (by decide)) (hκ := ?_) ..) | (with_reducible apply Agree.ite) | (simp only [id_eq]) | split)

theorem execSiteFlitReceive_st {die : Nat} {flit : Bytes} {s t : State} (hs : Kept s.dev) (h : execSiteFlitReceive die flit s = .next t) : Kept t.dev := by
  refine State.onCarrier_st _ _ s t (fun d hκ => ?_) hs h
  repeat' (first | with_reducible assumption | intro _ | (with_reducible refine Dev.siteFlit_st (hκ := ?_) ..) | (with_reducible apply Kept.ite) | (simp only [id_eq]) | split)

theorem execSiteRequest_kp {die : Nat} {s t : State} (h : execSiteRequest die s = .next t) : t.pending = s.pending ∧ Agree 0x1010000c000000000000000000000000000000000000000000000000000000000004000000000000000000000000000000000000 s.dev t.dev := by
  refine State.onCarrier_kp _ _ s t (fun d => ?_) h
  repeat' (first | (with_reducible exact Agree.refl _ _) | with_reducible assumption | intro _ | (with_reducible refine Dev.siteRequest_kp (hμ := (Within.refl _).up (by decide)) (hκ := ?_) ..) | (with_reducible apply Agree.ite) | (simp only [id_eq]) | split)

theorem execSiteRequest_st {die : Nat} {s t : State} (hs : Kept s.dev) (h : execSiteRequest die s = .next t) : Kept t.dev := by
  refine State.onCarrier_st _ _ s t (fun d hκ => ?_) hs h
  repeat' (first | with_reducible assumption | intro _ | (with_reducible refine Dev.siteRequest_st (hκ := ?_) ..) | (with_reducible apply Kept.ite) | (simp only [id_eq]) | split)

theorem execSiteTumblerWrite_kp {die : Nat} {s t : State} (h : execSiteTumblerWrite die s = .next t) : t.pending = s.pending ∧ Agree 0x10000002000000000000000000000000000000000000000000000000000000000000000000000000000000000000000000000000 s.dev t.dev := by
  refine State.onCarrier_kp _ _ s t (fun d => ?_) h
  repeat' (first | (with_reducible exact Agree.refl _ _) | with_reducible assumption | intro _ | (with_reducible refine Dev.siteAdd_kp (hμ := (Within.refl _).up (by decide)) (hκ := ?_) ..) | (with_reducible apply Agree.ite) | (simp only [id_eq]) | split)

theorem execSiteTumblerWrite_st {die : Nat} {s t : State} (hs : Kept s.dev) (h : execSiteTumblerWrite die s = .next t) : Kept t.dev := by
  refine State.onCarrier_st _ _ s t (fun d hκ => ?_) hs h
  repeat' (first | with_reducible assumption | intro _ | (with_reducible refine Dev.siteAdd_st (hκ := ?_) ..) | (with_reducible apply Kept.ite) | (simp only [id_eq]) | split)

theorem execSiteRequestTimeout_kp {die : Nat} {s t : State} (h : execSiteRequestTimeout die s = .next t) : t.pending = s.pending ∧ Agree 0x10000004000000000000000000000000000000000000000000000009000000800000000000000000000000000000000000000000 s.dev t.dev := by
  refine State.onCarrier_kp _ _ s t (fun d => ?_) h
  repeat' (first | (with_reducible exact Agree.refl _ _) | with_reducible assumption | intro _ | (with_reducible refine Dev.windowTimeout_kp (hμ := (Within.refl _).up (by decide)) (hκ := ?_) ..) | (with_reducible apply Agree.ite) | (simp only [id_eq]) | split)

theorem execSiteRequestTimeout_st {die : Nat} {s t : State} (hs : Kept s.dev) (h : execSiteRequestTimeout die s = .next t) : Kept t.dev := by
  refine State.onCarrier_st _ _ s t (fun d hκ => ?_) hs h
  repeat' (first | with_reducible assumption | intro _ | (with_reducible refine Dev.windowTimeout_st (hκ := ?_) ..) | (with_reducible apply Kept.ite) | (simp only [id_eq]) | split)

theorem execSiteSidebandLoss_kp {die : Nat} {s t : State} (h : execSiteSidebandLoss die s = .next t) : t.pending = s.pending ∧ Agree 0x90000004000000245000000000000000000000000000000000000009800000800000000000000000000000000000000000000000 s.dev t.dev := by
  refine State.onCarrier_kp _ _ s t (fun d => ?_) h
  repeat' (first | (with_reducible exact Agree.refl _ _) | with_reducible assumption | intro _ | (with_reducible refine Dev.siteSideband_kp (hμ := (Within.refl _).up (by decide)) (hκ := ?_) ..) | (with_reducible apply Agree.ite) | (simp only [id_eq]) | split)

theorem execSiteSidebandLoss_st {die : Nat} {s t : State} (hs : Kept s.dev) (h : execSiteSidebandLoss die s = .next t) : Kept t.dev := by
  refine State.onCarrier_st _ _ s t (fun d hκ => ?_) hs h
  repeat' (first | with_reducible assumption | intro _ | (with_reducible refine Dev.siteSideband_st (hκ := ?_) ..) | (with_reducible apply Kept.ite) | (simp only [id_eq]) | split)

theorem execAdd_kp {place : Nat} {noise : Bytes} {s t : State} (h : execAdd place noise s = .next t) : t.pending = s.pending ∧ Agree 0x39010007ed84000345000000000000000000000000000e00c4000000000000900000400000000000000000ce00200101f20040040 s.dev t.dev := by
  refine State.on_kp _ s t (fun d => ?_) h
  repeat' (first | (with_reducible exact Agree.refl _ _) | with_reducible assumption | intro _ | (with_reducible refine Dev.ctlArrive_kp (hμ := (Within.refl _).up (by decide)) (hκ := ?_) ..) | (with_reducible apply Agree.ite) | (simp only [id_eq]) | split)

theorem execAdd_st {place : Nat} {noise : Bytes} {s t : State} (hs : Kept s.dev) (h : execAdd place noise s = .next t) : Kept t.dev := by
  refine State.on_st _ s t (fun d hκ => ?_) hs h
  repeat' (first | with_reducible assumption | intro _ | (with_reducible refine Dev.ctlArrive_st (hκ := ?_) ..) | (with_reducible apply Kept.ite) | (simp only [id_eq]) | split)

theorem execSetMsg_kp {place : Nat} {noise : Bytes} {s t : State} (h : execSetMsg place noise s = .next t) : t.pending = s.pending ∧ Agree 0x39010007ed84000345000000000000000000000000000e00c4000000000000900000400000000000000000ce00200101f20040040 s.dev t.dev := by
  refine State.on_kp _ s t (fun d => ?_) h
  repeat' (first | (with_reducible exact Agree.refl _ _) | with_reducible assumption | intro _ | (with_reducible refine Dev.ctlArrive_kp (hμ := (Within.refl _).up (by decide)) (hκ := ?_) ..) | (with_reducible apply Agree.ite) | (simp only [id_eq]) | split)

theorem execSetMsg_st {place : Nat} {noise : Bytes} {s t : State} (hs : Kept s.dev) (h : execSetMsg place noise s = .next t) : Kept t.dev := by
  refine State.on_st _ s t (fun d hκ => ?_) hs h
  repeat' (first | with_reducible assumption | intro _ | (with_reducible refine Dev.ctlArrive_st (hκ := ?_) ..) | (with_reducible apply Kept.ite) | (simp only [id_eq]) | split)

theorem execRadd_kp {place : Nat} {noise : Bytes} {s t : State} (h : execRadd place noise s = .next t) : t.pending = s.pending ∧ Agree 0x39010007ed84000345000000000000000000000000000e00c4000000000000900000400000000000000000ce00200101f20040040 s.dev t.dev := by
  refine State.on_kp _ s t (fun d => ?_) h
  repeat' (first | (with_reducible exact Agree.refl _ _) | with_reducible assumption | intro _ | (with_reducible refine Dev.ctlArrive_kp (hμ := (Within.refl _).up (by decide)) (hκ := ?_) ..) | (with_reducible apply Agree.ite) | (simp only [id_eq]) | split)

theorem execRadd_st {place : Nat} {noise : Bytes} {s t : State} (hs : Kept s.dev) (h : execRadd place noise s = .next t) : Kept t.dev := by
  refine State.on_st _ s t (fun d hκ => ?_) hs h
  repeat' (first | with_reducible assumption | intro _ | (with_reducible refine Dev.ctlArrive_st (hκ := ?_) ..) | (with_reducible apply Kept.ite) | (simp only [id_eq]) | split)

theorem execArm_kp {place : Nat} {noise : Bytes} {s t : State} (h : execArm place noise s = .next t) : t.pending = s.pending ∧ Agree 0x39010007ed84000345000000000000000000000000000e00c4000000000000900000400000000000000000ce00200101f20040040 s.dev t.dev := by
  refine State.on_kp _ s t (fun d => ?_) h
  repeat' (first | (with_reducible exact Agree.refl _ _) | with_reducible assumption | intro _ | (with_reducible refine Dev.ctlArrive_kp (hμ := (Within.refl _).up (by decide)) (hκ := ?_) ..) | (with_reducible apply Agree.ite) | (simp only [id_eq]) | split)

theorem execArm_st {place : Nat} {noise : Bytes} {s t : State} (hs : Kept s.dev) (h : execArm place noise s = .next t) : Kept t.dev := by
  refine State.on_st _ s t (fun d hκ => ?_) hs h
  repeat' (first | with_reducible assumption | intro _ | (with_reducible refine Dev.ctlArrive_st (hκ := ?_) ..) | (with_reducible apply Kept.ite) | (simp only [id_eq]) | split)

theorem execWithdraw_kp {place : Nat} {noise : Bytes} {s t : State} (h : execWithdraw place noise s = .next t) : t.pending = s.pending ∧ Agree 0x39010007ed84000345000000000000000000000000000e00c4000000000000900000400000000000000000ce00200101f20040040 s.dev t.dev := by
  refine State.on_kp _ s t (fun d => ?_) h
  repeat' (first | (with_reducible exact Agree.refl _ _) | with_reducible assumption | intro _ | (with_reducible refine Dev.ctlArrive_kp (hμ := (Within.refl _).up (by decide)) (hκ := ?_) ..) | (with_reducible apply Agree.ite) | (simp only [id_eq]) | split)

theorem execWithdraw_st {place : Nat} {noise : Bytes} {s t : State} (hs : Kept s.dev) (h : execWithdraw place noise s = .next t) : Kept t.dev := by
  refine State.on_st _ s t (fun d hκ => ?_) hs h
  repeat' (first | with_reducible assumption | intro _ | (with_reducible refine Dev.ctlArrive_st (hκ := ?_) ..) | (with_reducible apply Kept.ite) | (simp only [id_eq]) | split)

theorem execCadd_kp {place : Nat} {noise : Bytes} {s t : State} (h : execCadd place noise s = .next t) : t.pending = s.pending ∧ Agree 0x39010007ed84000345000000000000000000000000000e00c4000000000000900000400000000000000000ce00200101f20040040 s.dev t.dev := by
  refine State.on_kp _ s t (fun d => ?_) h
  repeat' (first | (with_reducible exact Agree.refl _ _) | with_reducible assumption | intro _ | (with_reducible refine Dev.ctlArrive_kp (hμ := (Within.refl _).up (by decide)) (hκ := ?_) ..) | (with_reducible apply Agree.ite) | (simp only [id_eq]) | split)

theorem execCadd_st {place : Nat} {noise : Bytes} {s t : State} (hs : Kept s.dev) (h : execCadd place noise s = .next t) : Kept t.dev := by
  refine State.on_st _ s t (fun d hκ => ?_) hs h
  repeat' (first | with_reducible assumption | intro _ | (with_reducible refine Dev.ctlArrive_st (hκ := ?_) ..) | (with_reducible apply Kept.ite) | (simp only [id_eq]) | split)

theorem execAck_kp {place : Nat} {noise : Bytes} {s t : State} (h : execAck place noise s = .next t) : t.pending = s.pending ∧ Agree 0x39010007ed84000345000000000000000000000000000e00c4000000000000900000400000000000000000ce00200101f20040040 s.dev t.dev := by
  refine State.on_kp _ s t (fun d => ?_) h
  repeat' (first | (with_reducible exact Agree.refl _ _) | with_reducible assumption | intro _ | (with_reducible refine Dev.ctlArrive_kp (hμ := (Within.refl _).up (by decide)) (hκ := ?_) ..) | (with_reducible apply Agree.ite) | (simp only [id_eq]) | split)

theorem execAck_st {place : Nat} {noise : Bytes} {s t : State} (hs : Kept s.dev) (h : execAck place noise s = .next t) : Kept t.dev := by
  refine State.on_st _ s t (fun d hκ => ?_) hs h
  repeat' (first | with_reducible assumption | intro _ | (with_reducible refine Dev.ctlArrive_st (hκ := ?_) ..) | (with_reducible apply Kept.ite) | (simp only [id_eq]) | split)

theorem execWake_kp {place : Nat} {noise : Bytes} {s t : State} (h : execWake place noise s = .next t) : t.pending = s.pending ∧ Agree 0x39010007ed84000345000000000000000000000000000e00c4000000000000900000400000000000000000ce00200101f20040040 s.dev t.dev := by
  refine State.on_kp _ s t (fun d => ?_) h
  repeat' (first | (with_reducible exact Agree.refl _ _) | with_reducible assumption | intro _ | (with_reducible refine Dev.ctlArrive_kp (hμ := (Within.refl _).up (by decide)) (hκ := ?_) ..) | (with_reducible apply Agree.ite) | (simp only [id_eq]) | split)

theorem execWake_st {place : Nat} {noise : Bytes} {s t : State} (hs : Kept s.dev) (h : execWake place noise s = .next t) : Kept t.dev := by
  refine State.on_st _ s t (fun d hκ => ?_) hs h
  repeat' (first | with_reducible assumption | intro _ | (with_reducible refine Dev.ctlArrive_st (hκ := ?_) ..) | (with_reducible apply Kept.ite) | (simp only [id_eq]) | split)

theorem execCval_kp {place : Nat} {noise : Bytes} {s t : State} (h : execCval place noise s = .next t) : t.pending = s.pending ∧ Agree 0x39010007ed84000345000000000000000000000000000e00c4000000000000900000400000000000000000ce00200101f20040040 s.dev t.dev := by
  refine State.on_kp _ s t (fun d => ?_) h
  repeat' (first | (with_reducible exact Agree.refl _ _) | with_reducible assumption | intro _ | (with_reducible refine Dev.ctlArrive_kp (hμ := (Within.refl _).up (by decide)) (hκ := ?_) ..) | (with_reducible apply Agree.ite) | (simp only [id_eq]) | split)

theorem execCval_st {place : Nat} {noise : Bytes} {s t : State} (hs : Kept s.dev) (h : execCval place noise s = .next t) : Kept t.dev := by
  refine State.on_st _ s t (fun d hκ => ?_) hs h
  repeat' (first | with_reducible assumption | intro _ | (with_reducible refine Dev.ctlArrive_st (hκ := ?_) ..) | (with_reducible apply Kept.ite) | (simp only [id_eq]) | split)

theorem execEvent_kp {place : Nat} {noise : Bytes} {s t : State} (h : execEvent place noise s = .next t) : t.pending = s.pending ∧ Agree 0x39010007ed84000345000000000000000000000000000e00c4000000000000900000400000000000000000ce00200101f20040040 s.dev t.dev := by
  refine State.on_kp _ s t (fun d => ?_) h
  repeat' (first | (with_reducible exact Agree.refl _ _) | with_reducible assumption | intro _ | (with_reducible refine Dev.ctlArrive_kp (hμ := (Within.refl _).up (by decide)) (hκ := ?_) ..) | (with_reducible apply Agree.ite) | (simp only [id_eq]) | split)

theorem execEvent_st {place : Nat} {noise : Bytes} {s t : State} (hs : Kept s.dev) (h : execEvent place noise s = .next t) : Kept t.dev := by
  refine State.on_st _ s t (fun d hκ => ?_) hs h
  repeat' (first | with_reducible assumption | intro _ | (with_reducible refine Dev.ctlArrive_st (hκ := ?_) ..) | (with_reducible apply Kept.ite) | (simp only [id_eq]) | split)

theorem execBcast_kp {place : Nat} {noise : Bytes} {s t : State} (h : execBcast place noise s = .next t) : t.pending = s.pending ∧ Agree 0x39010007ed84000345000000000000000000000000000e00c4000000000000900000400000000000000000ce00200101f20040040 s.dev t.dev := by
  refine State.on_kp _ s t (fun d => ?_) h
  repeat' (first | (with_reducible exact Agree.refl _ _) | with_reducible assumption | intro _ | (with_reducible refine Dev.ctlArrive_kp (hμ := (Within.refl _).up (by decide)) (hκ := ?_) ..) | (with_reducible apply Agree.ite) | (simp only [id_eq]) | split)

theorem execBcast_st {place : Nat} {noise : Bytes} {s t : State} (hs : Kept s.dev) (h : execBcast place noise s = .next t) : Kept t.dev := by
  refine State.on_st _ s t (fun d hκ => ?_) hs h
  repeat' (first | with_reducible assumption | intro _ | (with_reducible refine Dev.ctlArrive_st (hκ := ?_) ..) | (with_reducible apply Kept.ite) | (simp only [id_eq]) | split)

theorem execTmbValueWrite_kp {die : Nat} {value : Nat} {s t : State} (h : execTmbValueWrite die value s = .next t) : t.pending = s.pending ∧ Agree 0x2c00000000000000000000000000000000000000000000000000000000000000000000000000000000000000000000000 s.dev t.dev := by
  refine State.onCarrier_kp _ _ s t (fun d => ?_) h
  repeat' (first | (with_reducible exact Agree.refl _ _) | with_reducible assumption | intro _ | (with_reducible refine Dev.bankSet_kp (hμ := (Within.refl _).up (by decide)) (hκ := ?_) ..) | (with_reducible apply Agree.ite) | (simp only [id_eq]) | split)

theorem execTmbValueWrite_st {die : Nat} {value : Nat} {s t : State} (hs : Kept s.dev) (h : execTmbValueWrite die value s = .next t) : Kept t.dev := by
  refine State.onCarrier_st _ _ s t (fun d hκ => ?_) hs h
  repeat' (first | with_reducible assumption | intro _ | (with_reducible refine Dev.bankSet_st (hκ := ?_) ..) | (with_reducible apply Kept.ite) | (simp only [id_eq]) | split)

theorem execTmbAddWrite_kp {die : Nat} {value : Nat} {s t : State} (h : execTmbAddWrite die value s = .next t) : t.pending = s.pending ∧ Agree 0x2c00000000000000000000000000000000000000000000000000000000000000000000000000000600000000000000000 s.dev t.dev := by
  refine State.onCarrier_kp _ _ s t (fun d => ?_) h
  repeat' (first | (with_reducible exact Agree.refl _ _) | with_reducible assumption | intro _ | (with_reducible refine Dev.bankAdd_kp (hμ := (Within.refl _).up (by decide)) (hκ := ?_) ..) | (with_reducible apply Agree.ite) | (simp only [id_eq]) | split)

theorem execTmbAddWrite_st {die : Nat} {value : Nat} {s t : State} (hs : Kept s.dev) (h : execTmbAddWrite die value s = .next t) : Kept t.dev := by
  refine State.onCarrier_st _ _ s t (fun d hκ => ?_) hs h
  repeat' (first | with_reducible assumption | intro _ | (with_reducible refine Dev.bankAdd_st (hκ := ?_) ..) | (with_reducible apply Kept.ite) | (simp only [id_eq]) | split)

theorem execTmbRangeWrite_kp {die : Nat} {home : Nat} {part : Nat} {value : Nat} {s t : State} (h : execTmbRangeWrite die home part value s = .next t) : t.pending = s.pending ∧ Agree 0x80200000000000000000 s.dev t.dev := by
  refine State.onCarrier_kp _ _ s t (fun d => ?_) h
  repeat' (first | (with_reducible exact Agree.refl _ _) | with_reducible assumption | intro _ | (with_reducible refine Dev.rangeWrite_kp (hμ := (Within.refl _).up (by decide)) (hκ := ?_) ..) | (with_reducible apply Agree.ite) | (simp only [id_eq]) | split)

theorem execTmbRangeWrite_st {die : Nat} {home : Nat} {part : Nat} {value : Nat} {s t : State} (hs : Kept s.dev) (h : execTmbRangeWrite die home part value s = .next t) : Kept t.dev := by
  refine State.onCarrier_st _ _ s t (fun d hκ => ?_) hs h
  repeat' (first | with_reducible assumption | intro _ | (with_reducible refine Dev.rangeWrite_st (hκ := ?_) ..) | (with_reducible apply Kept.ite) | (simp only [id_eq]) | split)

theorem execBroadcastStart_kp {die : Nat} {s t : State} (h : execBroadcastStart die s = .next t) : t.pending = s.pending ∧ Agree 0x2000000000000000000000000000000000000000000000000000000000000000000000000000000000000000000000000 s.dev t.dev := by
  refine State.onCarrier_kp _ _ s t (fun d => ?_) h
  repeat' (first | (with_reducible exact Agree.refl _ _) | with_reducible assumption | intro _ | (with_reducible refine Dev.bcastWrite_kp (hμ := (Within.refl _).up (by decide)) (hκ := ?_) ..) | (with_reducible apply Agree.ite) | (simp only [id_eq]) | split)

theorem execBroadcastStart_st {die : Nat} {s t : State} (hs : Kept s.dev) (h : execBroadcastStart die s = .next t) : Kept t.dev := by
  refine State.onCarrier_st _ _ s t (fun d hκ => ?_) hs h
  repeat' (first | with_reducible assumption | intro _ | (with_reducible refine Dev.bcastWrite_st (hκ := ?_) ..) | (with_reducible apply Kept.ite) | (simp only [id_eq]) | split)

theorem execBroadcastAbort_kp {die : Nat} {s t : State} (h : execBroadcastAbort die s = .next t) : t.pending = s.pending ∧ Agree 0x2000000000000000000000000000000000000000000000000000000000000000000000000000000000000000000000000 s.dev t.dev := by
  refine State.onCarrier_kp _ _ s t (fun d => ?_) h
  repeat' (first | (with_reducible exact Agree.refl _ _) | with_reducible assumption | intro _ | (with_reducible refine Dev.bcastWrite_kp (hμ := (Within.refl _).up (by decide)) (hκ := ?_) ..) | (with_reducible apply Agree.ite) | (simp only [id_eq]) | split)

theorem execBroadcastAbort_st {die : Nat} {s t : State} (hs : Kept s.dev) (h : execBroadcastAbort die s = .next t) : Kept t.dev := by
  refine State.onCarrier_st _ _ s t (fun d hκ => ?_) hs h
  repeat' (first | with_reducible assumption | intro _ | (with_reducible refine Dev.bcastWrite_st (hκ := ?_) ..) | (with_reducible apply Kept.ite) | (simp only [id_eq]) | split)

theorem execStewardWaitArm_kp {die : Nat} {s t : State} (h : execStewardWaitArm die s = .next t) : t.pending = s.pending ∧ Agree 0x3000000000000000000000000000000000000000000000000000000000000000000000000000004000000000000000000 s.dev t.dev := by
  refine State.onCarrier_kp _ _ s t (fun d => ?_) h
  repeat' (first | (with_reducible exact Agree.refl _ _) | with_reducible assumption | intro _ | (with_reducible refine Dev.swCtlWrite_kp (hμ := (Within.refl _).up (by decide)) (hκ := ?_) ..) | (with_reducible apply Agree.ite) | (simp only [id_eq]) | split)

theorem execStewardWaitArm_st {die : Nat} {s t : State} (hs : Kept s.dev) (h : execStewardWaitArm die s = .next t) : Kept t.dev := by
  refine State.onCarrier_st _ _ s t (fun d hκ => ?_) hs h
  repeat' (first | with_reducible assumption | intro _ | (with_reducible refine Dev.swCtlWrite_st (hκ := ?_) ..) | (with_reducible apply Kept.ite) | (simp only [id_eq]) | split)

theorem execStewardWaitWithdraw_kp {die : Nat} {s t : State} (h : execStewardWaitWithdraw die s = .next t) : t.pending = s.pending ∧ Agree 0x3000000000000000000000000000000000000000000000000000000000000000000000000000004000000000000000000 s.dev t.dev := by
  refine State.onCarrier_kp _ _ s t (fun d => ?_) h
  repeat' (first | (with_reducible exact Agree.refl _ _) | with_reducible assumption | intro _ | (with_reducible refine Dev.swCtlWrite_kp (hμ := (Within.refl _).up (by decide)) (hκ := ?_) ..) | (with_reducible apply Agree.ite) | (simp only [id_eq]) | split)

theorem execStewardWaitWithdraw_st {die : Nat} {s t : State} (hs : Kept s.dev) (h : execStewardWaitWithdraw die s = .next t) : Kept t.dev := by
  refine State.onCarrier_st _ _ s t (fun d hκ => ?_) hs h
  repeat' (first | with_reducible assumption | intro _ | (with_reducible refine Dev.swCtlWrite_st (hκ := ?_) ..) | (with_reducible apply Kept.ite) | (simp only [id_eq]) | split)

theorem execUnfoldContextGrant_kp {die : Nat} {unit : Nat} {s t : State} (h : execUnfoldContextGrant die unit s = .next t) : t.pending = s.pending ∧ Agree 0x20004000000000000000000000000000000000000000000000000000000000000000000000000000000000100000000000 s.dev t.dev := by
  refine State.onCompute_kp _ _ s t (fun d => ?_) h
  repeat' (first | (with_reducible exact Agree.refl _ _) | with_reducible assumption | intro _ | (with_reducible refine Dev.unfGrant_kp (hμ := (Within.refl _).up (by decide)) (hκ := ?_) ..) | (with_reducible apply Agree.ite) | (simp only [id_eq]) | split)

theorem execUnfoldContextGrant_st {die : Nat} {unit : Nat} {s t : State} (hs : Kept s.dev) (h : execUnfoldContextGrant die unit s = .next t) : Kept t.dev := by
  refine State.onCompute_st _ _ s t (fun d hκ => ?_) hs h
  repeat' (first | with_reducible assumption | intro _ | (with_reducible refine Dev.unfGrant_st (hκ := ?_) ..) | (with_reducible apply Kept.ite) | (simp only [id_eq]) | split)

theorem execUnfoldInputParse_kp {die : Nat} {unit : Nat} {ctx : Nat} {s t : State} (h : execUnfoldInputParse die unit ctx s = .next t) : t.pending = s.pending ∧ Agree 0x8010003e004000245000000000000000000000000000000000000000000000000004000000000000000000000000f01f20000000 s.dev t.dev := by
  refine State.onCompute_kp _ _ s t (fun d => ?_) h
  repeat' (first | (with_reducible exact Agree.refl _ _) | with_reducible assumption | intro _ | (with_reducible refine Dev.ctxFollow_kp (hκ1 := ?_) (hμ := (Within.refl _).up (by decide)) (hκ := ?_) ..) | (with_reducible refine Dev.unfParse_kp (hμ := (Within.refl _).up (by decide)) (hκ := ?_) ..) | (with_reducible apply Agree.ite) | (simp only [id_eq]) | split)

theorem execUnfoldInputParse_st {die : Nat} {unit : Nat} {ctx : Nat} {s t : State} (hs : Kept s.dev) (h : execUnfoldInputParse die unit ctx s = .next t) : Kept t.dev := by
  refine State.onCompute_st _ _ s t (fun d hκ => ?_) hs h
  repeat' (first | with_reducible assumption | intro _ | (with_reducible refine Dev.ctxFollow_st _ _ _ _ _ ?_) | (with_reducible refine Agree.kept (Dev.ctxFollow_kp (hκ1 := ?_) (hμ := Within.refl _) (hκ := Agree.refl ..) ..) (by decide) ?_) | (with_reducible refine Dev.unfParse_st (hκ := ?_) ..) | (with_reducible apply Kept.ite) | (simp only [id_eq]) | split)

theorem execUnfoldOutputWalk_kp {die : Nat} {unit : Nat} {s t : State} (h : execUnfoldOutputWalk die unit s = .next t) : t.pending = s.pending ∧ Agree 0x10003e004000000000000000000000000000000000000000000000000000000004000000000000000000000003000000000000 s.dev t.dev := by
  refine State.onCompute_kp _ _ s t (fun d => ?_) h
  repeat' (first | (with_reducible exact Agree.refl _ _) | with_reducible assumption | intro _ | (with_reducible refine Dev.unfWalk_kp (hμ := (Within.refl _).up (by decide)) (hκ := ?_) ..) | (with_reducible apply Agree.ite) | (simp only [id_eq]) | split)

theorem execUnfoldOutputWalk_st {die : Nat} {unit : Nat} {s t : State} (hs : Kept s.dev) (h : execUnfoldOutputWalk die unit s = .next t) : Kept t.dev := by
  refine State.onCompute_st _ _ s t (fun d hκ => ?_) hs h
  repeat' (first | with_reducible assumption | intro _ | (with_reducible refine Dev.unfWalk_st (hκ := ?_) ..) | (with_reducible apply Kept.ite) | (simp only [id_eq]) | split)

theorem execUnfoldRowComplete_kp {die : Nat} {unit : Nat} {ctx : Nat} {s t : State} (h : execUnfoldRowComplete die unit ctx s = .next t) : t.pending = s.pending ∧ Agree 0x8010003e004000245000000000000000000000000000000000000000000000000004000000000000000000000000101f20000000 s.dev t.dev := by
  refine State.onCompute_kp _ _ s t (fun d => ?_) h
  repeat' (first | (with_reducible exact Agree.refl _ _) | with_reducible assumption | intro _ | (with_reducible refine Dev.ctxFollow_kp (hκ1 := ?_) (hμ := (Within.refl _).up (by decide)) (hκ := ?_) ..) | (with_reducible refine Dev.unfRowDone_kp (hμ := (Within.refl _).up (by decide)) (hκ := ?_) ..) | (with_reducible apply Agree.ite) | (simp only [id_eq]) | split)

theorem execUnfoldRowComplete_st {die : Nat} {unit : Nat} {ctx : Nat} {s t : State} (hs : Kept s.dev) (h : execUnfoldRowComplete die unit ctx s = .next t) : Kept t.dev := by
  refine State.onCompute_st _ _ s t (fun d hκ => ?_) hs h
  repeat' (first | with_reducible assumption | intro _ | (with_reducible refine Dev.ctxFollow_st _ _ _ _ _ ?_) | (with_reducible refine Agree.kept (Dev.ctxFollow_kp (hκ1 := ?_) (hμ := Within.refl _) (hκ := Agree.refl ..) ..) (by decide) ?_) | (with_reducible refine Dev.unfRowDone_st (hκ := ?_) ..) | (with_reducible apply Kept.ite) | (simp only [id_eq]) | split)

theorem execNonceGet_kp {die : Nat} {fails : Nat} {s t : State} (h : execNonceGet die fails s = .next t) : t.pending = s.pending ∧ Agree 0x978010003e004100245000000003eb9402000000000000e04c60008000000001000004000000000000000000000000101f20000000 s.dev t.dev := by
  refine State.onCarrier_kp _ _ s t (fun d => ?_) h
  repeat' (first | (with_reducible exact Agree.refl _ _) | with_reducible assumption | intro _ | (with_reducible refine Dev.wardUpdate_kp (hμ := (Within.refl _).up (by decide)) (hκ := ?_) ..) | (with_reducible apply Agree.ite) | (simp only [id_eq]) | split)

theorem execNonceGet_st {die : Nat} {fails : Nat} {s t : State} (hs : Kept s.dev) (h : execNonceGet die fails s = .next t) : Kept t.dev := by
  refine State.onCarrier_st _ _ s t (fun d hκ => ?_) hs h
  repeat' (first | with_reducible assumption | intro _ | (with_reducible refine Dev.wardUpdate_st (hκ := ?_) ..) | (with_reducible apply Kept.ite) | (simp only [id_eq]) | split)

theorem execWardSet_kp {die : Nat} {fails : Nat} {s t : State} (h : execWardSet die fails s = .next t) : t.pending = s.pending ∧ Agree 0x978010003e004100245000000003eb9402000000000000e04c60008000000001000004000000000000000000000000101f20000000 s.dev t.dev := by
  refine State.onCarrier_kp _ _ s t (fun d => ?_) h
  repeat' (first | (with_reducible exact Agree.refl _ _) | with_reducible assumption | intro _ | (with_reducible refine Dev.wardUpdate_kp (hμ := (Within.refl _).up (by decide)) (hκ := ?_) ..) | (with_reducible apply Agree.ite) | (simp only [id_eq]) | split)

theorem execWardSet_st {die : Nat} {fails : Nat} {s t : State} (hs : Kept s.dev) (h : execWardSet die fails s = .next t) : Kept t.dev := by
  refine State.onCarrier_st _ _ s t (fun d hκ => ?_) hs h
  repeat' (first | with_reducible assumption | intro _ | (with_reducible refine Dev.wardUpdate_st (hκ := ?_) ..) | (with_reducible apply Kept.ite) | (simp only [id_eq]) | split)

theorem execHostKey_kp {die : Nat} {fails : Nat} {s t : State} (h : execHostKey die fails s = .next t) : t.pending = s.pending ∧ Agree 0x978010003e004100245000000003eb9402000000000000e04c60008000000001000004000000000000000000000000101f20000000 s.dev t.dev := by
  refine State.onCarrier_kp _ _ s t (fun d => ?_) h
  repeat' (first | (with_reducible exact Agree.refl _ _) | with_reducible assumption | intro _ | (with_reducible refine Dev.wardUpdate_kp (hμ := (Within.refl _).up (by decide)) (hκ := ?_) ..) | (with_reducible apply Agree.ite) | (simp only [id_eq]) | split)

theorem execHostKey_st {die : Nat} {fails : Nat} {s t : State} (hs : Kept s.dev) (h : execHostKey die fails s = .next t) : Kept t.dev := by
  refine State.onCarrier_st _ _ s t (fun d hκ => ?_) hs h
  repeat' (first | with_reducible assumption | intro _ | (with_reducible refine Dev.wardUpdate_st (hκ := ?_) ..) | (with_reducible apply Kept.ite) | (simp only [id_eq]) | split)

theorem execProvision_kp {die : Nat} {fails : Nat} {s t : State} (h : execProvision die fails s = .next t) : t.pending = s.pending ∧ Agree 0x978010003e004100245000000003eb9402000000000000e04c60008000000001000004000000000000000000000000101f20000000 s.dev t.dev := by
  refine State.onCarrier_kp _ _ s t (fun d => ?_) h
  repeat' (first | (with_reducible exact Agree.refl _ _) | with_reducible assumption | intro _ | (with_reducible refine Dev.wardUpdate_kp (hμ := (Within.refl _).up (by decide)) (hκ := ?_) ..) | (with_reducible apply Agree.ite) | (simp only [id_eq]) | split)

theorem execProvision_st {die : Nat} {fails : Nat} {s t : State} (hs : Kept s.dev) (h : execProvision die fails s = .next t) : Kept t.dev := by
  refine State.onCarrier_st _ _ s t (fun d hκ => ?_) hs h
  repeat' (first | with_reducible assumption | intro _ | (with_reducible refine Dev.wardUpdate_st (hκ := ?_) ..) | (with_reducible apply Kept.ite) | (simp only [id_eq]) | split)

theorem execRotate_kp {die : Nat} {fails : Nat} {s t : State} (h : execRotate die fails s = .next t) : t.pending = s.pending ∧ Agree 0x978010003e004100245000000003eb9402000000000000e04c60008000000001000004000000000000000000000000101f20000000 s.dev t.dev := by
  refine State.onCarrier_kp _ _ s t (fun d => ?_) h
  repeat' (first | (with_reducible exact Agree.refl _ _) | with_reducible assumption | intro _ | (with_reducible refine Dev.wardUpdate_kp (hμ := (Within.refl _).up (by decide)) (hκ := ?_) ..) | (with_reducible apply Agree.ite) | (simp only [id_eq]) | split)

theorem execRotate_st {die : Nat} {fails : Nat} {s t : State} (hs : Kept s.dev) (h : execRotate die fails s = .next t) : Kept t.dev := by
  refine State.onCarrier_st _ _ s t (fun d hκ => ?_) hs h
  repeat' (first | with_reducible assumption | intro _ | (with_reducible refine Dev.wardUpdate_st (hκ := ?_) ..) | (with_reducible apply Kept.ite) | (simp only [id_eq]) | split)

theorem execRollback_kp {die : Nat} {fails : Nat} {s t : State} (h : execRollback die fails s = .next t) : t.pending = s.pending ∧ Agree 0x978010003e004100245000000003eb9402000000000000e04c60008000000001000004000000000000000000000000101f20000000 s.dev t.dev := by
  refine State.onCarrier_kp _ _ s t (fun d => ?_) h
  repeat' (first | (with_reducible exact Agree.refl _ _) | with_reducible assumption | intro _ | (with_reducible refine Dev.wardUpdate_kp (hμ := (Within.refl _).up (by decide)) (hκ := ?_) ..) | (with_reducible apply Agree.ite) | (simp only [id_eq]) | split)

theorem execRollback_st {die : Nat} {fails : Nat} {s t : State} (hs : Kept s.dev) (h : execRollback die fails s = .next t) : Kept t.dev := by
  refine State.onCarrier_st _ _ s t (fun d hκ => ?_) hs h
  repeat' (first | with_reducible assumption | intro _ | (with_reducible refine Dev.wardUpdate_st (hκ := ?_) ..) | (with_reducible apply Kept.ite) | (simp only [id_eq]) | split)

theorem execRomBoot_kp {die : Nat} {banks : List ((Nat × Nat) × Bytes)} {s t : State} (h : execRomBoot die banks s = .next t) : t.pending = s.pending ∧ Agree 0x10a0aa00000000008034500020000000c000000000000000000000000000000200400000000000000000000000000000000000000000 s.dev t.dev := by
  refine State.onCarrier_kp _ _ s t (fun d => ?_) h
  repeat' (first | (with_reducible exact Agree.refl _ _) | with_reducible assumption | intro _ | (with_reducible refine Dev.boot_kp (hμ := (Within.refl _).up (by decide)) (hκ := ?_) ..) | (with_reducible apply Agree.ite) | (simp only [id_eq]) | split)

theorem execRomBoot_st {die : Nat} {banks : List ((Nat × Nat) × Bytes)} {s t : State} (hs : Kept s.dev) (h : execRomBoot die banks s = .next t) : Kept t.dev := by
  refine State.onCarrier_st _ _ s t (fun d hκ => ?_) hs h
  repeat' (first | with_reducible assumption | intro _ | (with_reducible refine Dev.boot_st (hκ := ?_) ..) | (with_reducible apply Kept.ite) | (simp only [id_eq]) | split)

theorem execBootlockSet_kp {die : Nat} {s t : State} (h : execBootlockSet die s = .next t) : t.pending = s.pending ∧ Agree 0x4000000000000000000000000000000000000000000000000000000000000000000000000000 s.dev t.dev := by
  refine State.onAon_kp _ _ s t (fun d => ?_) h
  repeat' (first | (with_reducible exact Agree.refl _ _) | with_reducible assumption | intro _ | (with_reducible refine Dev.bootLock_kp (hμ := (Within.refl _).up (by decide)) (hκ := ?_) ..) | (with_reducible apply Agree.ite) | (simp only [id_eq]) | split)

theorem execBootlockSet_st {die : Nat} {s t : State} (hs : Kept s.dev) (h : execBootlockSet die s = .next t) : Kept t.dev := by
  refine State.onAon_st _ _ s t (fun d hκ => ?_) hs h
  repeat' (first | with_reducible assumption | intro _ | (with_reducible refine Dev.bootLock_st (hκ := ?_) ..) | (with_reducible apply Kept.ite) | (simp only [id_eq]) | split)

theorem execWardAttest_kp {die : Nat} {s t : State} (h : execWardAttest die s = .next t) : t.pending = s.pending ∧ Agree 0x8000000000000000000000000080000000000000000000000000000000000000000000000000000000000000000000000000000000 s.dev t.dev := by
  refine State.onAon_kp _ _ s t (fun d => ?_) h
  repeat' (first | (with_reducible exact Agree.refl _ _) | with_reducible assumption | intro _ | (with_reducible refine Dev.opctlWrite_kp (hμ := (Within.refl _).up (by decide)) (hκ := ?_) ..) | (with_reducible apply Agree.ite) | (simp only [id_eq]) | split)

theorem execWardAttest_st {die : Nat} {s t : State} (hs : Kept s.dev) (h : execWardAttest die s = .next t) : Kept t.dev := by
  refine State.onAon_st _ _ s t (fun d hκ => ?_) hs h
  repeat' (first | with_reducible assumption | intro _ | (with_reducible refine Dev.opctlWrite_st (hκ := ?_) ..) | (with_reducible apply Kept.ite) | (simp only [id_eq]) | split)

theorem execWardKeyx_kp {die : Nat} {s t : State} (h : execWardKeyx die s = .next t) : t.pending = s.pending ∧ Agree 0x8000000000000000000000000080000000000000000000000000000000000000000000000000000000000000000000000000000000 s.dev t.dev := by
  refine State.onAon_kp _ _ s t (fun d => ?_) h
  repeat' (first | (with_reducible exact Agree.refl _ _) | with_reducible assumption | intro _ | (with_reducible refine Dev.opctlWrite_kp (hμ := (Within.refl _).up (by decide)) (hκ := ?_) ..) | (with_reducible apply Agree.ite) | (simp only [id_eq]) | split)

theorem execWardKeyx_st {die : Nat} {s t : State} (hs : Kept s.dev) (h : execWardKeyx die s = .next t) : Kept t.dev := by
  refine State.onAon_st _ _ s t (fun d hκ => ?_) hs h
  repeat' (first | with_reducible assumption | intro _ | (with_reducible refine Dev.opctlWrite_st (hκ := ?_) ..) | (with_reducible apply Kept.ite) | (simp only [id_eq]) | split)

theorem execWardOpComplete_kp {die : Nat} {s t : State} (h : execWardOpComplete die s = .next t) : t.pending = s.pending ∧ Agree 0x8000000000004000000000000280000000000000000000000000000000000000000000000000000000000000000000000000000000 s.dev t.dev := by
  refine State.onAon_kp _ _ s t (fun d => ?_) h
  repeat' (first | (with_reducible exact Agree.refl _ _) | with_reducible assumption | intro _ | (with_reducible refine Dev.wardOpDone_kp (hμ := (Within.refl _).up (by decide)) (hκ := ?_) ..) | (with_reducible apply Agree.ite) | (simp only [id_eq]) | split)

theorem execWardOpComplete_st {die : Nat} {s t : State} (hs : Kept s.dev) (h : execWardOpComplete die s = .next t) : Kept t.dev := by
  refine State.onAon_st _ _ s t (fun d hκ => ?_) hs h
  repeat' (first | with_reducible assumption | intro _ | (with_reducible refine Dev.wardOpDone_st (hκ := ?_) ..) | (with_reducible apply Kept.ite) | (simp only [id_eq]) | split)

theorem execMeasExtend_kp {die : Nat} {s t : State} (h : execMeasExtend die s = .next t) : t.pending = s.pending ∧ Agree 0x8000000000000000000000000000000000000000000000000000000000000000000000000000000000000000000000000000000000 s.dev t.dev := by
  refine State.onAon_kp _ _ s t (fun d => ?_) h
  repeat' (first | (with_reducible exact Agree.refl _ _) | with_reducible assumption | intro _ | (with_reducible refine Dev.measExtend_kp (hμ := (Within.refl _).up (by decide)) (hκ := ?_) ..) | (with_reducible apply Agree.ite) | (simp only [id_eq]) | split)

theorem execMeasExtend_st {die : Nat} {s t : State} (hs : Kept s.dev) (h : execMeasExtend die s = .next t) : Kept t.dev := by
  refine State.onAon_st _ _ s t (fun d hκ => ?_) hs h
  repeat' (first | with_reducible assumption | intro _ | (with_reducible refine Dev.measExtend_st (hκ := ?_) ..) | (with_reducible apply Kept.ite) | (simp only [id_eq]) | split)

theorem execEpochWrite_kp {die : Nat} {value : Nat} {s t : State} (h : execEpochWrite die value s = .next t) : t.pending = s.pending ∧ Agree 0x2000000000000000000000000000000000000000000000000000000000000000000000000000 s.dev t.dev := by
  refine State.onAon_kp _ _ s t (fun d => ?_) h
  repeat' (first | (with_reducible exact Agree.refl _ _) | with_reducible assumption | intro _ | (with_reducible refine Dev.epochWrite_kp (hμ := (Within.refl _).up (by decide)) (hκ := ?_) ..) | (with_reducible apply Agree.ite) | (simp only [id_eq]) | split)

theorem execEpochWrite_st {die : Nat} {value : Nat} {s t : State} (hs : Kept s.dev) (h : execEpochWrite die value s = .next t) : Kept t.dev := by
  refine State.onAon_st _ _ s t (fun d hκ => ?_) hs h
  repeat' (first | with_reducible assumption | intro _ | (with_reducible refine Dev.epochWrite_st (hκ := ?_) ..) | (with_reducible apply Kept.ite) | (simp only [id_eq]) | split)

theorem execWardDebug_kp {die : Nat} {token : Bytes} {s t : State} (h : execWardDebug die token s = .next t) : t.pending = s.pending ∧ Agree 0x8000000000004000000000000000004000000000000000000000000000000000000000000000000000000000000000000000000000 s.dev t.dev := by
  refine State.onAon_kp _ _ s t (fun d => ?_) h
  repeat' (first | (with_reducible exact Agree.refl _ _) | with_reducible assumption | intro _ | (with_reducible refine Dev.wardDebug_kp (hμ := (Within.refl _).up (by decide)) (hκ := ?_) ..) | (with_reducible apply Agree.ite) | (simp only [id_eq]) | split)

theorem execWardDebug_st {die : Nat} {token : Bytes} {s t : State} (hs : Kept s.dev) (h : execWardDebug die token s = .next t) : Kept t.dev := by
  refine State.onAon_st _ _ s t (fun d hκ => ?_) hs h
  repeat' (first | with_reducible assumption | intro _ | (with_reducible refine Dev.wardDebug_st (hκ := ?_) ..) | (with_reducible apply Kept.ite) | (simp only [id_eq]) | split)

end Sys2Proof.Machine
end

