-- ==== Sys2Proof/Laws/Words.lean ====
section
/-!
SUPPORT. Plan words: what the shared operations of issue, load, store and trap do to the core and to its scratchpad.
-/
namespace Sys2Proof.Machine

/-! Byte strings -/

theorem slice_length (bs : Bytes) (p k : Nat) : (slice bs p k).length = k := by simp [slice]

theorem leBytes_length (k n : Nat) : (leBytes k n).length = k := by
  induction k generalizing n with
  | zero => rfl
  | succ k ih => simp [leBytes, ih]

theorem leNat_leBytes (k n : Nat) : leNat (leBytes k n) = n % 256 ^ k := by
  induction k generalizing n with
  | zero => simp [leBytes, leNat, Nat.mod_one]
  | succ k ih =>
    have h : n % 256 + 256 * (n / 256 % 256 ^ k) = n % (256 * 256 ^ k) := by rw [Nat.mod_mul]
    simp [leBytes, leNat, ih, Nat.pow_succ, Nat.mul_comm (256 ^ k) 256, h]

theorem slice_self (bs : Bytes) : slice bs 0 bs.length = bs := by
  apply List.ext_getElem
  · simp [slice]
  · intro n h1 h2; simp [slice, h2]

theorem slice_left (xs ys : Bytes) (p k : Nat) (h : p + k ≤ xs.length) : slice (xs ++ ys) p k = slice xs p k := by
  simp only [slice]
  apply List.map_congr_left
  intro j hj
  have : j < k := List.mem_range.mp hj
  simp [List.getD_eq_getElem?_getD, List.getElem?_append_left (show p + j < xs.length by omega)]

theorem slice_right (xs ys : Bytes) (p k : Nat) (h : xs.length ≤ p) : slice (xs ++ ys) p k = slice ys (p - xs.length) k := by
  simp only [slice]
  apply List.map_congr_left
  intro j hj
  simp [List.getD_eq_getElem?_getD, List.getElem?_append_right (show xs.length ≤ p + j by omega), show p + j - xs.length = p - xs.length + j by omega]

theorem field_head (k n : Nat) (ys : Bytes) : field (leBytes k n ++ ys) 0 k = n % 256 ^ k := by
  have h : slice (leBytes k n ++ ys) 0 k = leBytes k n := by
    rw [slice_left _ _ _ _ (by rw [leBytes_length]; omega)]
    have := slice_self (leBytes k n)
    rw [leBytes_length] at this
    exact this
  rw [field, h, leNat_leBytes]

theorem field_skip (xs ys : Bytes) (p k : Nat) (h : xs.length ≤ p) : field (xs ++ ys) p k = field ys (p - xs.length) k := by
  rw [field, field, slice_right _ _ _ _ h]

/-! Cores -/

theorem Dev.coreAt_setCore (d : Dev) (k k' : Nat) (c : Core) :
    (d.setCore k c).coreAt k' = if k' = k then c else d.coreAt k' := by
  simp [Dev.setCore, Dev.coreAt, KMap.atD_put]

/-- A change that leaves every core alone, as a mask says it. -/
theorem Agree.coreAt {μ : Nat} {d e : Dev} (h : Agree μ d e) (hm : μ.testBit 379 = false) (k : Nat) : e.coreAt k = d.coreAt k := by
  unfold Dev.coreAt; rw [h.cores hm]

theorem Dev.coreSend_coreAt (d : Dev) (cn p k : Nat) (m : CtlMsg) : (d.coreSend cn p m).coreAt k = d.coreAt k :=
  Agree.coreAt (Dev.coreSend_kp (hμ := Within.refl _) (hκ := Agree.refl _ _) ..) (by decide) k

theorem Dev.upset_coreAt (d : Dev) (ups : List (Nat × Nat)) (k : Nat) : (d.upset ups).coreAt k = d.coreAt k := rfl

theorem Dev.spCount_coreAt (d : Dev) (key a b k : Nat) : (d.spCount key a b).coreAt k = d.coreAt k :=
  Agree.coreAt (Dev.spCount_kp (hμ := Within.refl _) (hκ := Agree.refl _ _) ..) (by decide) k

theorem Dev.spLoad_coreAt (d : Dev) (key off n k : Nat) : (d.spLoad key off n).2.coreAt k = d.coreAt k :=
  Agree.coreAt (Dev.spLoad_kp (hμ := Within.refl _) (hκ := Agree.refl _ _) ..) (by decide) k

theorem Dev.spStore_coreAt (d : Dev) (key off k : Nat) (bs : Bytes) : (d.spStore key off bs).coreAt k = d.coreAt k :=
  Agree.coreAt (Dev.spStore_kp (hμ := Within.refl _) (hκ := Agree.refl _ _) ..) (by decide) k

/-! Issue -/

theorem Dev.ready_iss {d : Dev} {cn p : Nat} {i : Iss} (h : d.ready cn p = some i) :
    i.cn = cn ∧ i.p = p ∧ i.key = coreKey cn p ∧ i.c = d.coreAt (coreKey cn p) ∧ i.l = d.lnumOf cn p ∧ i.ix = i.c.pc := by
  unfold Dev.ready at h
  simp only at h
  split at h
  · split at h
    · cases h; simp
    · split at h
      · split at h
        · cases h; simp_all
        · cases h
      · cases h
  · cases h

theorem Issues.free {d : Dev} {cell core op : Nat} {reads : List Nat} {i : Iss} (h : Issues d cell core op reads i) :
    (((if i.f 8 8 = 1 then [i.f 15 12] else []) ++ reads).any fun r => i.c.cvals.any fun v => v.1 == r) = false := by
  obtain ⟨_, _, _, _, hv⟩ := h
  rw [Bool.eq_false_iff]
  intro hc
  rw [List.any_eq_true] at hc
  obtain ⟨r, hr, hv2⟩ := hc
  rw [List.any_eq_true] at hv2
  obtain ⟨v, hvm, he⟩ := hv2
  have he' : v.1 = r := by simpa using he
  rcases List.mem_append.mp hr with h1 | h1
  · split at h1
    · rename_i h8
      simp at h1
      exact (hv v hvm).2 h8 (he'.trans h1)
    · cases h1
  · exact (hv v hvm).1 (he' ▸ h1)

/-- A word that is next and whose encoding is reserved traps, whether or not it executes. -/
theorem Dev.issue_resv {d : Dev} {cn p op : Nat} {resv : Iss → Bool} {reads : Iss → List Nat} {wait : Iss → Bool}
    {skip : Iss → Core → Core} {traps : Dev → Iss → List Trap} {act : Iss → Dev → Dev × Option Trap} {i : Iss} {rs : List Nat}
    (h : Issues d cn p op rs i) (hr : resv i = true) :
    d.issue cn p op resv reads wait skip traps act = d.trapCore cn p i.ix i.w (3, 0) := by
  obtain ⟨h1, h2, h3, h4, _⟩ := h
  unfold Dev.issue
  simp [h1, h2, h3, h4, hr]

/-- A word that is next passes, waits, traps or acts. -/
theorem Dev.issue_eq {d : Dev} {cn p op : Nat} {resv : Iss → Bool} {reads : Iss → List Nat} {wait : Iss → Bool}
    {skip : Iss → Core → Core} {traps : Dev → Iss → List Trap} {act : Iss → Dev → Dev × Option Trap} {i : Iss}
    (h : Issues d cn p op (reads i) i) (hr : resv i = false) :
    d.issue cn p op resv reads wait skip traps act =
      if i.executes = false then d.setCore i.key (skip i i.c.advance)
      else if wait i = true then d
      else match lowest (traps d i) with
        | some t => d.trapCore cn p i.ix i.w t
        | none =>
          match act i (d.setCore i.key i.c.advance) with
          | (d', none) => d'
          | (d', some t) => d'.trapCore cn p i.ix i.w t := by
  have hf := h.free
  obtain ⟨h1, h2, h3, h4, _⟩ := h
  unfold Dev.issue
  simp only [h1, h2, h3, h4, hr, hf, bne_self_eq_false, Bool.or_false, Bool.false_eq_true, if_false]
  cases i.executes <;> simp <;> rfl

/-- A word that changes registers alone: the core it leaves. -/
theorem Dev.issueReg_core {d : Dev} {cn p op : Nat} {resv : Iss → Bool} {reads : Iss → List Nat} {f : Iss → Core → Core} {i : Iss}
    (h : Issues d cn p op (reads i) i) (hr : resv i = false) :
    (d.issueReg cn p op resv reads f).coreAt (coreKey cn p) = i.after (f i) := by
  have hk := (Dev.ready_iss h.1).2.2.1
  unfold Dev.issueReg Iss.after
  rw [Dev.issue_eq h hr, hk]
  cases i.executes <;> simp [noSkip, noWait, noTraps, lowest, Dev.coreAt_setCore]

/-- Slots withdrawn (R78): the slots and BLK, and nothing else of any core. -/
theorem Dev.withdrawSlots_coreAt (d : Dev) (cn p : Nat) : (d.withdrawSlots cn p).coreAt (coreKey cn p) =
    { d.coreAt (coreKey cn p) with
      slots := (d.coreAt (coreKey cn p)).slots.map fun s => { s with armed := false, met := false }, blk := 0 } := by
  unfold Dev.withdrawSlots
  have key : ∀ (l : List (WSlotC × Nat)) (e : Dev) (g : Dev → WSlotC × Nat → Dev), (∀ e x, (g e x).coreAt (coreKey cn p) = e.coreAt (coreKey cn p)) →
      (l.foldl g e).coreAt (coreKey cn p) = e.coreAt (coreKey cn p) := by
    intro l
    induction l with
    | nil => intros; rfl
    | cons x l ih => intro e g hg; rw [List.foldl_cons, ih _ _ hg, hg]
  simp only
  generalize hF : List.foldl _ d (d.coreAt (coreKey cn p)).slots.zipIdx = d1
  have h1 : d1.coreAt (coreKey cn p) = d.coreAt (coreKey cn p) := by
    rw [← hF]
    refine key _ _ _ fun e x => ?_
    split
    · exact Dev.coreSend_coreAt ..
    · rfl
  rw [Dev.coreAt_setCore, if_pos rfl, h1]

/-- A trap keeps what R85 does not name: every register file, the accumulators, the queued operations, the flags. -/
theorem Dev.trapCore_eq (d : Dev) (cn p ix w : Nat) (t : Trap) : ∃ sl r, (d.trapCore cn p ix w t).coreAt (coreKey cn p) =
    { d.coreAt (coreKey cn p) with slots := sl, blk := 0, st := .trap, pc := ix, fbuf := [], trapv := true, trap := r, tradd := none,
                                   ending := false } := by
  unfold Dev.trapCore
  simp only
  generalize d.lnumOf cn p = l
  generalize d.tick (cellDie cn) = tk
  have key : ∀ e : Dev, (if e.testMode cn = true then e else e.coreSend cn p ⟨.core l, .stw (cellDie cn), 0x10, 0, 0, l, 0, t.1, 0⟩).coreAt
      (coreKey cn p) = e.coreAt (coreKey cn p) := by
    intro e; split
    · rfl
    · exact Dev.coreSend_coreAt ..
  rw [key, Dev.coreAt_setCore, if_pos rfl, Dev.withdrawSlots_coreAt]
  exact ⟨_, _, rfl⟩

/-! Traps -/

theorem Dev.withdrawSlots_tick (d : Dev) (cn p die : Nat) : (d.withdrawSlots cn p).tick die = d.tick die := by
  unfold Dev.tick
  rw [(Dev.withdrawSlots_kp (d := d) (cn := cn) (p := p) (hμ := Within.refl _) (hκ := Agree.refl _ _)).lcnt (by decide)]

/-- The core that a trap leaves. -/
theorem Dev.trapCore_core (d : Dev) (cn p ix w : Nat) (t : Trap) : ((d.trapCore cn p ix w t).coreAt (coreKey cn p)).trapped ix t := by
  unfold Dev.trapCore
  simp only
  generalize d.lnumOf cn p = l
  generalize d.tick (cellDie cn) = tk
  generalize (d.withdrawSlots cn p) = d1
  have key : ∀ e : Dev, (if e.testMode cn = true then e else e.coreSend cn p ⟨.core l, .stw (cellDie cn), 0x10, 0, 0, l, 0, t.1, 0⟩).coreAt (coreKey cn p) = e.coreAt (coreKey cn p) := by
    intro e; split
    · rfl
    · exact Dev.coreSend_coreAt ..
  rw [key, Dev.coreAt_setCore, if_pos rfl]
  refine ⟨rfl, rfl, rfl, ?_, ?_, ?_⟩
  · simp only [trapRecord, List.append_assoc]
    exact field_head 2 _ _
  · simp only [trapRecord, List.append_assoc]
    rw [field_skip _ _ _ _ (by simp [leBytes_length]), field_skip _ _ _ _ (by simp [leBytes_length])]
    simp only [leBytes_length]
    exact field_head 2 _ _
  · simp only [trapRecord, List.append_assoc]
    rw [field_skip _ _ _ _ (by simp [leBytes_length]), field_skip _ _ _ _ (by simp [leBytes_length]), field_skip _ _ _ _ (by simp [leBytes_length]),
      field_skip _ _ _ _ (by simp [leBytes_length]), field_skip _ _ _ _ (by simp [leBytes_length])]
    simp only [leBytes_length]
    exact field_head 4 _ _

/-! Loads -/

/-- A load whose words are all correctable changes the core by what it read. -/
theorem Dev.loadThen_ok {d : Dev} {key off n : Nat} {f : Bytes → Core → Core} (h : (d.spRead d.free key off n).ue = none) :
    (d.loadThen key off n f).2 = none ∧
      (d.loadThen key off n f).1.coreAt key = f (d.spRead d.free key off n).data (d.coreAt key) := by
  unfold Dev.loadThen
  have hr : (d.spLoad key off n).1 = d.spRead d.free key off n := rfl
  have hc := Dev.spLoad_coreAt d key off n key
  rcases hs : d.spLoad key off n with ⟨r, d1⟩
  rw [hs] at hr hc
  simp only at hr hc ⊢
  rw [hr, h]
  simp [Dev.coreAt_setCore, hc]

end Sys2Proof.Machine
end

