-- ==== Sys2Proof/Laws/Scratch.lean ====
section
/-!
SUPPORT. What a store into a scratchpad does to every byte that the package holds.
-/
namespace Sys2Proof.Machine

theorem overlay_length (bs new : Bytes) (p : Nat) (h : p + new.length ≤ bs.length) : (overlay bs p new).length = bs.length := by
  simp only [overlay, List.length_append, List.length_take, List.length_drop]; omega

theorem overlay_getD (bs new : Bytes) (p j : Nat) (h : p + new.length ≤ bs.length) :
    (overlay bs p new).getD j 0 = if p ≤ j ∧ j < p + new.length then new.getD (j - p) 0 else bs.getD j 0 := by
  simp only [overlay, List.getD_eq_getElem?_getD]
  by_cases h1 : j < p
  · rw [if_neg (by omega), List.getElem?_append_left (by simp; omega), List.getElem?_append_left (by simp; omega), List.getElem?_take, if_pos h1]
  · by_cases h2 : j < p + new.length
    · rw [if_pos (by omega), List.getElem?_append_left (by simp; omega), List.getElem?_append_right (by simp; omega)]
      simp only [List.length_take]
      rw [show min p bs.length = p by omega]
    · rw [if_neg (by omega), List.getElem?_append_right (by simp; omega), List.getElem?_drop]
      simp only [List.length_append, List.length_take]
      rw [show p + new.length + (j - (min p bs.length + new.length)) = j by omega]

theorem Memory.bytes_length (m : Memory) (a n : Nat) : (m.bytes a n).length = n := by
  induction n generalizing a with
  | zero => rfl
  | succ n ih => simp [Memory.bytes, ih]

theorem xorBytes_length (a b : Bytes) : (xorBytes a b).length = a.length := by
  induction a generalizing b with
  | nil => rfl
  | cons x a ih => cases b <;> simp [xorBytes, ih]

theorem freeBytes_length (k a n : Nat) : (freeBytes k a n).length = n := by
  induction n generalizing a with
  | zero => rfl
  | succ n ih => simp [freeBytes, ih]

theorem xorNat_length (bs : Bytes) (m : Nat) : (xorNat bs m).length = bs.length := xorBytes_length _ _

theorem unitRead_length (bs : Bytes) (a sh : Nat) (v : Verdict) : (unitRead bs a sh v).data.length = bs.length := by
  cases v <;> simp [unitRead, xorNat_length]

/-- A unit read has as many bytes as the unit. -/
theorem Dev.readUnit_length (d : Dev) (k a w sh : Nat) (dec : Nat → Verdict) : (d.readUnit k a w sh dec).data.length = w := by
  unfold Dev.readUnit
  split
  · split <;> simp [freeBytes_length]
  · split <;> simp [unitRead_length, Memory.bytes_length]

theorem Dev.rawUnit_length (d : Dev) (k a w sh : Nat) : (d.rawUnit k a w sh).length = w := by
  unfold Dev.rawUnit
  split <;> simp [freeBytes_length, xorNat_length, Memory.bytes_length]

/-- Every byte after a unit is written. -/
theorem Dev.byte_writeUnit (d : Dev) (a x : Nat) (bs : Bytes) (h : d.mem.wf = true) :
    (d.writeUnit a bs).mem.byte x = if a ≤ x ∧ x < a + bs.length then bs.getD (x - a) 0 else d.mem.byte x :=
  Memory.byte_setBytes _ _ _ _ h

theorem Dev.spCount_mem (d : Dev) (key a b : Nat) : (d.spCount key a b).mem = d.mem :=
  (Dev.spCount_kp (hμ := Within.refl _) (hκ := Agree.refl _ _) ..).mem (by decide)

/-- Every byte after a write within one word: the bytes written, and nothing outside the word. -/
theorem Dev.byte_spWriteWord (d : Dev) (k key a p x : Nat) (bs : Bytes) (h : d.mem.wf = true) (hp : p + bs.length ≤ 8) :
    (a + p ≤ x → x < a + p + bs.length → (d.spWriteWord k key a p bs).mem.byte x = bs.getD (x - (a + p)) 0) ∧
    (x < a ∨ a + 8 ≤ x → (d.spWriteWord k key a p bs).mem.byte x = d.mem.byte x) := by
  unfold Dev.spWriteWord
  split
  · rename_i h8
    rw [Dev.byte_writeUnit _ _ _ _ h]
    have hp0 : p = 0 := by omega
    subst hp0
    refine ⟨fun h1 h2 => ?_, fun h1 => ?_⟩
    · rw [if_pos (by omega)]; simp
    · rw [if_neg (by omega)]
  · have hl : (d.spWord k a).data.length = 8 := Dev.readUnit_length ..
    have hl2 : (d.rawUnit k a 8 7).length = 8 := Dev.rawUnit_length ..
    simp only
    split
    · rw [Dev.spCount_mem, Dev.byte_writeUnit _ _ _ _ h, overlay_length _ _ _ (by omega)]
      refine ⟨fun h1 h2 => ?_, fun h1 => ?_⟩
      · rw [if_pos (by omega), overlay_getD _ _ _ _ (by omega), if_pos (by omega)]
        rw [show x - a - p = x - (a + p) by omega]
      · rw [if_neg (by omega)]
    · rw [Dev.spCount_mem]
      show _ ∧ _
      have hm : ∀ (e : Dev) (u m : Nat), (e.markUnit u m).mem = e.mem := fun _ _ _ => rfl
      rw [hm, Dev.byte_writeUnit _ _ _ _ h, overlay_length _ _ _ (by omega)]
      refine ⟨fun h1 h2 => ?_, fun h1 => ?_⟩
      · rw [if_pos (by omega), overlay_getD _ _ _ _ (by omega), if_pos (by omega)]
        rw [show x - a - p = x - (a + p) by omega]
      · rw [if_neg (by omega)]

theorem Dev.spWriteWord_wf (d : Dev) (k key a p : Nat) (bs : Bytes) (h : d.mem.wf = true) : (d.spWriteWord k key a p bs).mem.wf = true :=
  (Dev.spWriteWord_st _ _ _ _ _ _ (Kept.of h)).out

/-- A run of writes, each within a word of its own. -/
theorem Dev.byte_parts (k key x : Nat) (l : List (Nat × Nat × Bytes)) (d : Dev) (h : d.mem.wf = true)
    (hl : ∀ q ∈ l, q.2.1 + q.2.2.length ≤ 8) (hn : l.Pairwise fun q r => q.1 + 8 ≤ r.1) :
    (∀ q ∈ l, q.1 + q.2.1 ≤ x → x < q.1 + q.2.1 + q.2.2.length →
      (l.foldl (fun d' q => d'.spWriteWord k key q.1 q.2.1 q.2.2) d).mem.byte x = q.2.2.getD (x - (q.1 + q.2.1)) 0) ∧
    ((∀ q ∈ l, x < q.1 ∨ q.1 + 8 ≤ x) →
      (l.foldl (fun d' q => d'.spWriteWord k key q.1 q.2.1 q.2.2) d).mem.byte x = d.mem.byte x) := by
  induction l generalizing d with
  | nil => simp
  | cons q l ih =>
    have hq := hl q (by simp)
    have hw := Dev.spWriteWord_wf d k key q.1 q.2.1 q.2.2 h
    have hb := Dev.byte_spWriteWord d k key q.1 q.2.1 x q.2.2 h hq
    obtain ⟨hp1, hp2⟩ := List.pairwise_cons.mp hn
    obtain ⟨i1, i2⟩ := ih _ hw (fun r hr => hl r (by simp [hr])) hp2
    simp only [List.foldl_cons]
    refine ⟨fun r hr h1 h2 => ?_, fun hx => ?_⟩
    · rcases List.mem_cons.mp hr with e | hr'
      · subst e
        rw [i2 fun s hs => ?_]
        · exact hb.1 h1 h2
        · have := hp1 s hs; omega
      · exact i1 r hr' h1 h2
    · rw [i2 fun s hs => hx s (by simp [hs])]
      exact hb.2 (hx q (by simp))

/-- The parts of a write: each lies within its word, and the words stand in order. -/
theorem splitUnits_parts (a : Nat) (bs : Bytes) :
    (∀ q ∈ splitUnits 8 a bs, q.2.1 + q.2.2.length ≤ 8) ∧ (splitUnits 8 a bs).Pairwise fun q r => q.1 + 8 ≤ r.1 := by
  constructor
  · intro q hq
    simp only [splitUnits, unitsOf, List.mem_map, List.mem_range] at hq
    obtain ⟨u, ⟨j, hj, rfl⟩, rfl⟩ := hq
    simp only [slice_length]
    omega
  · simp only [splitUnits, unitsOf, List.pairwise_map]
    refine List.Pairwise.imp ?_ (List.pairwise_lt_range)
    intro i j hij
    omega

/-- The part that holds an address of the write. -/
theorem splitUnits_mem (a x : Nat) (bs : Bytes) (h1 : a ≤ x) (h2 : x < a + bs.length) :
    ∃ q ∈ splitUnits 8 a bs, q.1 + q.2.1 ≤ x ∧ x < q.1 + q.2.1 + q.2.2.length ∧ q.2.2.getD (x - (q.1 + q.2.1)) 0 = bs.getD (x - a) 0 := by
  have hj : x / 8 - a / 8 < (a % 8 + bs.length + 8 - 1) / 8 := by omega
  refine ⟨_, List.mem_map.mpr ⟨a / 8 * 8 + (x / 8 - a / 8) * 8, List.mem_map.mpr ⟨x / 8 - a / 8, List.mem_range.mpr hj, rfl⟩, rfl⟩, ?_, ?_, ?_⟩
  · simp only; omega
  · simp only [slice_length]; omega
  · simp only [slice, List.getD_eq_getElem?_getD]
    rw [List.getElem?_map, List.getElem?_range (by omega)]
    simp only [Option.map_some, Option.getD_some]
    congr 2
    omega

/-- Every byte after a store into a scratchpad: the bytes stored, and nothing outside the words that hold them. -/
theorem Dev.byte_spStore (d : Dev) (key off x : Nat) (bs : Bytes) (h : d.mem.wf = true) :
    (spAddr key off ≤ x → x < spAddr key off + bs.length → (d.spStore key off bs).mem.byte x = bs.getD (x - spAddr key off) 0) ∧
    (outsideWords key [(off, bs.length)] x → (d.spStore key off bs).mem.byte x = d.mem.byte x) := by
  unfold Dev.spStore Dev.draw
  simp only
  have hp := splitUnits_parts (spAddr key off) bs
  obtain ⟨i1, i2⟩ := Dev.byte_parts d.free key x (splitUnits 8 (spAddr key off) bs) { d with free := d.free + 1 } h hp.1 hp.2
  refine ⟨fun h1 h2 => ?_, fun hx => ?_⟩
  · obtain ⟨q, hq, g1, g2, g3⟩ := splitUnits_mem (spAddr key off) x bs h1 h2
    rw [i1 q hq g1 g2, g3]
  · refine i2 fun q hq => ?_
    simp only [splitUnits, unitsOf, List.mem_map, List.mem_range] at hq
    obtain ⟨u, ⟨j, hj, rfl⟩, rfl⟩ := hq
    have := hx (off, bs.length) (by simp)
    have he : spAddr key (off + bs.length) = spAddr key off + bs.length := by simp [spAddr, Nat.add_assoc]
    simp only at this
    rw [he] at this
    simp only
    omega

end Sys2Proof.Machine
end

