-- ==== Sys2Proof/Laws/Cells.lean ====
section
/-!
SUPPORT. What a change of every core of a cell does: an operation on one core leaves the cell's other cores alone, so each
core of the cell ends as the operation makes it of what it was.
-/
namespace Sys2Proof.Machine

/-- A change of one core, told by the key, leaves the others. -/
structure OnlyCore (k : Nat) (d e : Dev) : Prop where
  other : ∀ q, q ≠ k → e.coreAt q = d.coreAt q

theorem OnlyCore.refl (k : Nat) (d : Dev) : OnlyCore k d d := ⟨fun _ _ => rfl⟩

theorem OnlyCore.trans {k : Nat} {a b c : Dev} (h : OnlyCore k a b) (g : OnlyCore k b c) : OnlyCore k a c :=
  ⟨fun q hq => (g.other q hq).trans (h.other q hq)⟩

theorem OnlyCore.same {k : Nat} {d e : Dev} (h : ∀ q, e.coreAt q = d.coreAt q) : OnlyCore k d e := ⟨fun q _ => h q⟩

theorem OnlyCore.set (d : Dev) (k : Nat) (c : Core) : OnlyCore k d (d.setCore k c) :=
  ⟨fun q hq => by rw [Dev.coreAt_setCore, if_neg hq]⟩

theorem OnlyCore.agree {k μ : Nat} {d e : Dev} (h : Agree μ d e) (hm : μ.testBit 379 = false) : OnlyCore k d e :=
  OnlyCore.same (Agree.coreAt h hm)

theorem OnlyCore.foldl {k : Nat} {α : Type} (f : Dev → α → Dev) (l : List α) (d : Dev) (h : ∀ e a, OnlyCore k e (f e a)) :
    OnlyCore k d (l.foldl f d) := by
  induction l generalizing d with
  | nil => exact OnlyCore.refl _ _
  | cons a l ih => exact (h d a).trans (ih _)

theorem Dev.coreSend_only (d : Dev) (cn p k : Nat) (m : CtlMsg) : OnlyCore k d (d.coreSend cn p m) :=
  OnlyCore.same (Dev.coreSend_coreAt d cn p · m)

theorem Dev.withdrawSlots_only (d : Dev) (cn p : Nat) : OnlyCore (coreKey cn p) d (d.withdrawSlots cn p) := by
  unfold Dev.withdrawSlots
  refine OnlyCore.trans (OnlyCore.foldl _ _ _ fun e a => ?_) (OnlyCore.set ..)
  split
  · exact Dev.coreSend_only ..
  · exact OnlyCore.refl _ _

theorem Dev.trapCore_only (d : Dev) (cn p ix w : Nat) (t : Trap) : OnlyCore (coreKey cn p) d (d.trapCore cn p ix w t) := by
  have key : ∀ (e : Dev) (m : CtlMsg), OnlyCore (coreKey cn p) e (if e.testMode cn then e else e.coreSend cn p m) := by
    intro e m
    split
    · exact OnlyCore.refl _ _
    · exact Dev.coreSend_only ..
  exact (Dev.withdrawSlots_only d cn p).trans ((OnlyCore.set _ _ _).trans (key _ _))

theorem Dev.stopCore_only (d : Dev) (cn p : Nat) : OnlyCore (coreKey cn p) d (d.stopCore cn p) :=
  OnlyCore.trans (Dev.withdrawSlots_only d cn p) (OnlyCore.set ..)

theorem Dev.mmaDone_only (d : Dev) (cn p : Nat) : OnlyCore (coreKey cn p) d (d.mmaDone cn p) := by
  unfold Dev.mmaDone
  simp only
  split
  · exact OnlyCore.refl _ _
  · have h1 : ∀ a b c, OnlyCore (coreKey cn p) d ((d.draw.2.spCount (coreKey cn p) a b).setCore (coreKey cn p) c) := fun a b c =>
      OnlyCore.trans (b := d.draw.2.spCount (coreKey cn p) a b) (OnlyCore.same fun q => Dev.spCount_coreAt d.draw.2 _ _ _ q) (OnlyCore.set ..)
    split
    · split
      · exact OnlyCore.trans (h1 _ _ _) (Dev.trapCore_only ..)
      · exact h1 _ _ _
    · exact h1 _ _ _

theorem Dev.seedDone_only (d : Dev) (cn p : Nat) : OnlyCore (coreKey cn p) d (d.seedDone cn p) := by
  unfold Dev.seedDone
  simp only
  split
  · split
    · exact OnlyCore.set ..
    · exact OnlyCore.refl _ _
  · exact OnlyCore.refl _ _

theorem Dev.lutDone_only (d : Dev) (cn p : Nat) : OnlyCore (coreKey cn p) d (d.lutDone cn p) := by
  unfold Dev.lutDone
  simp only
  split
  · split
    · exact OnlyCore.set ..
    · exact OnlyCore.refl _ _
  · exact OnlyCore.refl _ _

theorem Dev.traddRelease_only (d : Dev) (cn p : Nat) : OnlyCore (coreKey cn p) d (d.traddRelease cn p) := by
  unfold Dev.traddRelease
  simp only
  split
  · split
    · exact OnlyCore.trans (OnlyCore.set ..) (Dev.coreSend_only ..)
    · exact OnlyCore.refl _ _
  · exact OnlyCore.refl _ _

theorem Dev.drainCore_only (d : Dev) (cn p : Nat) : OnlyCore (coreKey cn p) d (d.drainCore cn p) :=
  ((((Dev.mmaDone_only d cn p).trans (Dev.mmaDone_only ..)).trans (Dev.seedDone_only ..)).trans (Dev.lutDone_only ..)).trans
    (Dev.traddRelease_only ..)

theorem Dev.abortCore_only (d : Dev) (cn p : Nat) : OnlyCore (coreKey cn p) d (d.abortCore cn p) := by
  unfold Dev.abortCore
  simp only
  split
  · exact Dev.stopCore_only ..
  · exact Dev.stopCore_only ..
  · exact OnlyCore.set ..
  · exact OnlyCore.refl _ _

theorem coreKey_inj {cn p q : Nat} (h : coreKey cn p = coreKey cn q) : p = q := by unfold coreKey at h; omega

/-- What an operation on each core of a cell comes to: `I` is kept throughout, and each core stands to what it was as `Q` says. -/
theorem Dev.eachCore_spec {d : Dev} {cn : Nat} {f : Dev → Nat → Dev} (I : Dev → Prop) (Q : Nat → Core → Core → Prop) (h0 : I d)
    (hs : ∀ e p, I e → p < 136 →
      I (f e p) ∧ OnlyCore (coreKey cn p) e (f e p) ∧ Q p (e.coreAt (coreKey cn p)) ((f e p).coreAt (coreKey cn p))) :
    I (d.eachCore cn f) ∧ ∀ p, p < 136 → Q p (d.coreAt (coreKey cn p)) ((d.eachCore cn f).coreAt (coreKey cn p)) := by
  have key : ∀ (l : List Nat) (e : Dev), l.Nodup → (∀ p ∈ l, p < 136) → I e →
      I (l.foldl f e) ∧ (∀ p, p ∉ l → (l.foldl f e).coreAt (coreKey cn p) = e.coreAt (coreKey cn p)) ∧
      ∀ p ∈ l, Q p (e.coreAt (coreKey cn p)) ((l.foldl f e).coreAt (coreKey cn p)) := by
    intro l
    induction l with
    | nil => intro e _ _ hi; exact ⟨hi, fun _ _ => rfl, fun p hp => by simp at hp⟩
    | cons a l ih =>
      intro e hn hl hi
      obtain ⟨h1, h2, h3⟩ := hs e a hi (hl a (by simp))
      rw [List.nodup_cons] at hn
      obtain ⟨g1, g2, g3⟩ := ih (f e a) hn.2 (fun p hp => hl p (by simp [hp])) h1
      rw [List.foldl_cons]
      refine ⟨g1, fun p hp => ?_, fun p hp => ?_⟩
      · simp only [List.mem_cons, not_or] at hp
        rw [g2 p hp.2]
        exact h2.other _ fun h => hp.1 (coreKey_inj h)
      · by_cases hpa : p = a
        · subst hpa
          rw [g2 p hn.1]
          exact h3
        · have hpl : p ∈ l := by
            rcases List.mem_cons.mp hp with h | h
            · exact absurd h hpa
            · exact h
          have := g3 p hpl
          rwa [h2.other _ fun h => hpa (coreKey_inj h)] at this
  obtain ⟨h1, _, h3⟩ := key pcores d List.nodup_range (fun p hp => List.mem_range.mp hp) h0
  exact ⟨h1, fun p hp => h3 p (List.mem_range.mpr hp)⟩

/-- A register's field reads as before where a mask leaves its register and the fuses alone. -/
theorem Agree.get {μ : Nat} {d e : Dev} (h : Agree μ d e) (f : Fld) (hf : μ.testBit 368 = false) (hr : μ.testBit f.reg.ctorIdx = false)
    (die i s : Nat) : e.get f die i s = d.get f die i s := by
  unfold Dev.get
  rw [Agree.raw h _ hf hr]

theorem hasBit_testBit (n i : Nat) : hasBit n i = n.testBit i := by
  rw [hasBit, Nat.testBit_eq_decide_div_mod_eq]
  by_cases h : n / 2 ^ i % 2 = 1 <;> simp [h]

/-- A bitmap with a bit set or cleared. -/
theorem hasBit_orBit (n i j : Nat) : hasBit (orBit n i) j = (hasBit n j || decide (i = j)) := by
  have hb : orBit n i = setBits n i i 1 := by
    unfold orBit setBits hasBit bitsOf
    have : i + 1 - i = 1 := by omega
    simp only [this, Nat.pow_one, Nat.one_mod, Nat.one_mul]
    have hn := Nat.div_add_mod n (2 ^ i)
    have : n / 2 ^ i % 2 = 0 ∨ n / 2 ^ i % 2 = 1 := by omega
    rcases this with h | h
    · simp [h]
    · have h1 : 2 ^ i ≤ n := by
        rcases Nat.lt_or_ge n (2 ^ i) with h2 | h2
        · rw [Nat.div_eq_of_lt h2] at h; omega
        · exact h2
      simp [h]; omega
  rw [hb, hasBit_testBit, hasBit_testBit, testBit_setBits _ _ _ _ _ (Nat.le_refl _)]
  by_cases h : i = j
  · subst h; simp
  · rw [if_neg (by omega)]; simp [h]

theorem hasBit_clrBit (n i j : Nat) : hasBit (clrBit n i) j = (hasBit n j && decide (i ≠ j)) := by
  have hb : clrBit n i = setBits n i i 0 := by
    unfold clrBit setBits hasBit bitsOf
    have : i + 1 - i = 1 := by omega
    simp only [this, Nat.pow_one, Nat.zero_mod, Nat.zero_mul, Nat.add_zero]
    have : n / 2 ^ i % 2 = 0 ∨ n / 2 ^ i % 2 = 1 := by omega
    rcases this with h | h <;> simp [h]
  rw [hb, hasBit_testBit, hasBit_testBit, testBit_setBits _ _ _ _ _ (Nat.le_refl _)]
  by_cases h : i = j
  · subst h; simp
  · rw [if_neg (by omega)]; simp [h]

theorem hasBit_mod {v j w : Nat} (h : j < w) : hasBit (v % 2 ^ w) j = hasBit v j := by
  rw [hasBit_testBit, hasBit_testBit, Nat.testBit_mod_two_pow]; simp [h]

/-- A bit of a bitmap field that has been set. -/
theorem Dev.hasBit_put (d : Dev) (f : Fld) (v die i s j : Nat) (h1 : f.hi < 32) (h2 : f.lo ≤ f.hi) (hj : j < f.hi + 1 - f.lo) :
    hasBit ((d.put f v die i s).get f die i s) j = hasBit v j := by
  rw [Dev.get_put _ _ _ _ _ _ h1 h2, hasBit_mod hj]

theorem cellC_lt (c : Nat) : cellC c < 4 := Nat.mod_lt _ (by decide)

end Sys2Proof.Machine
end

