-- ==== Sys2Proof/Laws/Access.lean ====
section
/-!
SUPPORT. Writes of control registers by their access codes (R10): what a write leaves of each field.
-/
namespace Sys2Proof.Machine

/-- The fields of every register lie in 32 bits and apart from each other. -/
theorem Reg.rows_apart (r : Reg) :
    (r.rows.all fun a => decide (a.fld.reg = r) && decide (a.fld.lo ≤ a.fld.hi) && decide (a.fld.hi < 32)) = true ∧
    r.rows.Pairwise fun a b => a.fld.hi < b.fld.lo ∨ b.fld.hi < a.fld.lo := by
  cases r <;> decide

theorem hasBit_clrAll (n o j : Nat) (l : List Nat) :
    hasBit (l.foldl (fun x i => if hasBit n i then clrBit x i else x) o) j = (hasBit o j && !(decide (j ∈ l) && hasBit n j)) := by
  induction l generalizing o with
  | nil => simp
  | cons a l ih =>
    rw [List.foldl_cons, ih]
    by_cases h : a = j
    · subst h
      cases hn : hasBit n a <;> simp [hasBit_clrBit]
    · have h' : ¬ j = a := fun hh => h hh.symm
      cases hn : hasBit n a <;> simp [hasBit_clrBit, h, h']

theorem hasBit_setAll (n o j : Nat) (l : List Nat) :
    hasBit (l.foldl (fun x i => if hasBit n i then orBit x i else x) o) j = (hasBit o j || (decide (j ∈ l) && hasBit n j)) := by
  induction l generalizing o with
  | nil => simp
  | cons a l ih =>
    rw [List.foldl_cons, ih]
    by_cases h : a = j
    · subst h
      cases hn : hasBit n a <;> simp [hasBit_orBit]
    · have h' : ¬ j = a := fun hh => h hh.symm
      cases hn : hasBit n a <;> simp [hasBit_orBit, h, h']

theorem hasBit_field (n hi lo j : Nat) (h : hi + 1 - lo ≤ j) : hasBit (bitsOf n hi lo) j = false := by
  rw [hasBit_testBit]
  exact Nat.testBit_lt_two_pow (Nat.lt_of_lt_of_le (bitsOf_lt n hi lo) (Nat.pow_le_pow_right (by decide) h))

/-- What a write makes of one field's value. -/
def Dev.fieldAfter (d : Dev) (die old new : Nat) (row : FldRow) : Nat :=
  let f := row.fld
  let o := bitsOf old f.hi f.lo
  let n := bitsOf new f.hi f.lo
  match row.acc with
  | .ro => o
  | .wo => o
  | .rw => if d.encOk f n then n else o
  | .w1c => ((List.range (f.hi + 1 - f.lo)).foldl (fun x j => if hasBit n j then clrBit x j else x) o) % 2 ^ (f.hi + 1 - f.lo)
  | .w1s => ((List.range (f.hi + 1 - f.lo)).foldl (fun x j => if hasBit n j then orBit x j else x) o) % 2 ^ (f.hi + 1 - f.lo)
  | .rol => if d.on? F.WRD_STAT_BOOTLOCK die || !d.encOk f n then o else n

theorem bitsOf_mod_self (n hi lo : Nat) : bitsOf n hi lo % 2 ^ (hi + 1 - lo) = bitsOf n hi lo := Nat.mod_eq_of_lt (bitsOf_lt ..)

theorem Dev.writeFld_self (d : Dev) (die old new w : Nat) (row : FldRow) (h : row.fld.lo ≤ row.fld.hi)
    (hw : bitsOf w row.fld.hi row.fld.lo = bitsOf old row.fld.hi row.fld.lo) :
    bitsOf (d.writeFld die old new w row) row.fld.hi row.fld.lo = d.fieldAfter die old new row := by
  unfold Dev.writeFld Dev.fieldAfter
  dsimp only
  cases row.acc <;> dsimp only <;> first
    | exact hw
    | exact bitsOf_setBits _ _ _ _ h
    | (split <;> first
        | exact hw
        | rw [bitsOf_setBits _ _ _ _ h, bitsOf_mod_self])

theorem Dev.writeFld_other (d : Dev) (die old new w hi lo : Nat) (row : FldRow) (h : row.fld.lo ≤ row.fld.hi) (hd : row.fld.hi < lo ∨ hi < row.fld.lo) :
    bitsOf (d.writeFld die old new w row) hi lo = bitsOf w hi lo := by
  unfold Dev.writeFld
  dsimp only
  cases row.acc <;> dsimp only <;> first
    | exact bitsOf_setBits_ne _ _ _ _ _ _ h hd
    | rfl
    | (split <;> first
        | rfl
        | exact bitsOf_setBits_ne _ _ _ _ _ _ h hd)

theorem Dev.writeFlds (d : Dev) (die old new : Nat) (rows : List FldRow) (w : Nat)
    (h1 : ∀ a ∈ rows, a.fld.lo ≤ a.fld.hi) (h2 : rows.Pairwise fun a b => a.fld.hi < b.fld.lo ∨ b.fld.hi < a.fld.lo) :
    (∀ a ∈ rows, bitsOf w a.fld.hi a.fld.lo = bitsOf old a.fld.hi a.fld.lo →
      bitsOf (rows.foldl (d.writeFld die old new) w) a.fld.hi a.fld.lo = d.fieldAfter die old new a) ∧
    (∀ hi lo, (∀ a ∈ rows, a.fld.hi < lo ∨ hi < a.fld.lo) → bitsOf (rows.foldl (d.writeFld die old new) w) hi lo = bitsOf w hi lo) := by
  induction rows generalizing w with
  | nil => exact ⟨fun a h => absurd h (List.not_mem_nil), fun _ _ _ => rfl⟩
  | cons b rows ih =>
    rw [List.pairwise_cons] at h2
    obtain ⟨i1, i2⟩ := ih (d.writeFld die old new w b) (fun a ha => h1 a (List.mem_cons_of_mem _ ha)) h2.2
    have hb := h1 b (List.mem_cons_self ..)
    refine ⟨fun a ha hw => ?_, fun hi lo h => ?_⟩
    · rw [List.foldl_cons]
      rcases List.mem_cons.mp ha with rfl | ha
      · rw [i2 _ _ (fun x hx => (h2.1 x hx).symm)]
        exact Dev.writeFld_self _ _ _ _ _ _ hb hw
      · refine i1 a ha ?_
        rw [Dev.writeFld_other _ _ _ _ _ _ _ _ hb (h2.1 a ha)]
        exact hw
    · rw [List.foldl_cons, i2 _ _ (fun x hx => h x (List.mem_cons_of_mem _ hx))]
      exact Dev.writeFld_other _ _ _ _ _ _ _ _ hb (h b (List.mem_cons_self ..))

/-- A write with the access codes alone. -/
theorem Dev.writeGen_written (d : Dev) (k : RKey) (v : Nat) :
    d.written (d.writeGen k v) k v ∧ ∀ k', k' ≠ k → (d.writeGen k v).raw k' = d.raw k' := by
  obtain ⟨r1, r2⟩ := Reg.rows_apart k.reg
  have r3 : ∀ a ∈ k.reg.rows, a.fld.reg = k.reg ∧ a.fld.lo ≤ a.fld.hi ∧ a.fld.hi < 32 := fun a ha => by
    have := List.all_eq_true.mp r1 a ha
    simp only [Bool.and_eq_true, decide_eq_true_eq] at this
    exact ⟨this.1.1, this.1.2, this.2⟩
  unfold Dev.writeGen
  dsimp only
  have hfil : (k.reg.rows.filter fun row => !([] : List Fld).contains row.fld) = k.reg.rows := by
    rw [List.filter_eq_self]; intro a _; rfl
  rw [hfil]
  refine ⟨fun row hrow => ?_, fun k' hk => by rw [Dev.raw_setRaw, if_neg hk]⟩
  obtain ⟨q1, q2, q3⟩ := r3 row hrow
  have key : (d.setRaw k (k.reg.rows.foldl (d.writeFld k.die (d.raw k) v) (d.raw k))).get row.fld k.die k.i k.s = d.fieldAfter k.die (d.raw k) v row := by
    unfold Dev.get
    have hk : (⟨row.fld.reg, k.die, k.i, k.s⟩ : RKey) = k := by rw [q1]
    rw [hk, Dev.raw_setRaw, if_pos rfl, bitsOf_mod _ _ _ _ q3]
    exact (Dev.writeFlds d k.die (d.raw k) v k.reg.rows (d.raw k) (fun a ha => (r3 a ha).2.1) r2).1 row hrow rfl
  have hold : d.get row.fld k.die k.i k.s = bitsOf (d.raw k) row.fld.hi row.fld.lo := by
    unfold Dev.get
    have hk : (⟨row.fld.reg, k.die, k.i, k.s⟩ : RKey) = k := by rw [q1]
    rw [hk]
  rw [key, hold]
  unfold Dev.fieldAfter
  dsimp only
  have hbit : ∀ m j, hasBit (m % 2 ^ (row.fld.hi + 1 - row.fld.lo)) j = (decide (j < row.fld.hi + 1 - row.fld.lo) && hasBit m j) := fun m j => by
    rw [hasBit_testBit, hasBit_testBit, Nat.testBit_mod_two_pow]
  cases row.acc <;> dsimp only
  · intro j
    rw [hbit, hasBit_clrAll]
    by_cases hj : j < row.fld.hi + 1 - row.fld.lo
    · simp [hj]
    · rw [hasBit_field _ _ _ j (by omega)]; simp [hj]
  · intro j
    rw [hbit, hasBit_setAll]
    by_cases hj : j < row.fld.hi + 1 - row.fld.lo
    · simp [hj]
    · rw [hasBit_field _ _ _ j (by omega), hasBit_field _ _ _ j (by omega)]; simp [hj]
  · simp only [Bool.or_eq_true, Bool.not_eq_true']

end Sys2Proof.Machine
end

