-- ==== Sys2Proof/Laws/Pieces.lean ====
section
/-!
SUPPORT. Pieces of the package and the masks of `Agree`: a mask that a list of pieces covers leaves every other piece the same.
-/
namespace Sys2Proof.Machine

/-- The bit of a piece in a mask of `Agree`. -/
def Piece.bit : Piece → Nat
  | .reg r => r.ctorIdx
  | .fuse => 368
  | .pw => 369
  | .aon => 370
  | .capt => 372
  | .held => 373
  | .free => 374
  | .mem => 375
  | .unwritten => 376
  | .errs => 377
  | .lcnt => 378
  | .cores => 379
  | .cells => 380
  | .cellPart => 381
  | .tmb => 382
  | .waits => 383
  | .swGen => 384
  | .ctl => 385
  | .net => 386
  | .sqn => 387
  | .engs => 388
  | .unfs => 389
  | .dsps => 390
  | .bq => 391
  | .rdq => 392
  | .wrq => 393
  | .rows => 394
  | .hbm => 395
  | .narrow => 396
  | .conv => 397
  | .merge => 398
  | .scrub => 399
  | .wback => 400
  | .stest => 401
  | .zfill => 402
  | .memtest => 403
  | .krg => 404
  | .krgP => 405
  | .drains => 406
  | .stwIo => 407
  | .flinks => 408
  | .knks => 409
  | .knkPend => 410
  | .mapUpd => 411
  | .sites => 412
  | .alert => 413
  | .tripN => 414
  | .irqs => 415
  | .lanes => 416
  | .ports => 417
  | .eths => 418
  | .qps => 419
  | .mbxIn => 420
  | .stews => 421
  | .parts => 422
  | .wards => 423
  | .pws => 424
  | .chunks => 425
  | .i3c => 426
  | .i3cOut => 427
  | .flash => 428

/-- The piece of a bit. -/
def Piece.ofBit (n : Nat) : Piece :=
  if n < 368 then .reg (Reg.ofNat n)
  else List.getD [.fuse, .pw, .aon, .fuse, .capt, .held, .free, .mem, .unwritten, .errs, .lcnt, .cores, .cells, .cellPart, .tmb, .waits, .swGen, .ctl, .net, .sqn, .engs, .unfs, .dsps, .bq, .rdq, .wrq, .rows, .hbm, .narrow, .conv, .merge, .scrub, .wback, .stest, .zfill, .memtest, .krg, .krgP, .drains, .stwIo, .flinks, .knks, .knkPend, .mapUpd, .sites, .alert, .tripN, .irqs, .lanes, .ports, .eths, .qps, .mbxIn, .stews, .parts, .wards, .pws, .chunks, .i3c, .i3cOut, .flash] (n - 368) .fuse

theorem Piece.ofBit_bit (p : Piece) : Piece.ofBit p.bit = p := by
  cases p
  case reg r =>
    show (if r.ctorIdx < 368 then Piece.reg (Reg.ofNat r.ctorIdx) else _) = _
    rw [if_pos r.ctorIdx_lt, Reg.ofNat_ctorIdx]
  all_goals rfl

theorem Piece.bit_inj (p q : Piece) (h : p.bit = q.bit) : p = q := by
  rw [← Piece.ofBit_bit p, ← Piece.ofBit_bit q, h]

/-- The mask that names the pieces of a list. -/
def pieceMask (l : List Piece) : Nat := l.foldr (fun p m => 2 ^ p.bit ||| m) 0

theorem testBit_pieceMask (l : List Piece) (p : Piece) (h : p ∉ l) : (pieceMask l).testBit p.bit = false := by
  induction l with
  | nil => simp [pieceMask]
  | cons q l ih =>
    simp only [List.mem_cons, not_or] at h
    have hq : p.bit ≠ q.bit := fun e => h.1 (Piece.bit_inj _ _ e)
    have : pieceMask (q :: l) = 2 ^ q.bit ||| pieceMask l := rfl
    rw [this, Nat.testBit_or, ih h.2, Nat.testBit_two_pow]
    simp only [Bool.or_false, decide_eq_false_iff_not]
    exact fun e => hq e.symm

theorem Agree.rfAt {μ : Nat} {ω d : Dev} (h : Agree μ ω d) (k : RKey) (hk : μ.testBit k.reg.ctorIdx = false) :
    d.rf.at? k = ω.rf.at? k := by
  have := congrArg (fun x : Dev => x.rf.at? k) h.eq
  simpa [Dev.mask, KMap.at?_delIf, hk] using this

/-- A piece whose bit a mask leaves clear is the same in packages that agree but for the mask. -/
theorem Agree.piece {μ : Nat} {d e : Dev} (h : Agree μ d e) (p : Piece) (hp : μ.testBit p.bit = false) : p.same d e := by
  cases p with
  | reg r =>
    intro die i s
    refine ⟨h.rfAt _ hp, fun hf => ?_⟩
    unfold Dev.raw
    rw [h.rfAt ⟨r, die, i, s⟩ hp]
    have : e.resetWord ⟨r, die, i, s⟩ = d.resetWord ⟨r, die, i, s⟩ := by
      cases d; cases e; simp only at hf; subst hf; rfl
    rw [this]
  | fuse => exact h.fuse hp
  | pw => exact h.pw hp
  | aon => exact h.aon hp
  | capt => exact h.capt hp
  | held => exact h.held hp
  | free => exact h.free hp
  | mem => exact h.mem hp
  | unwritten => exact h.unwritten hp
  | errs => exact h.errs hp
  | lcnt => exact h.lcnt hp
  | cores => exact h.cores hp
  | cells => exact h.cells hp
  | cellPart => exact h.cellPart hp
  | tmb => exact h.tmb hp
  | waits => exact h.waits hp
  | swGen => exact h.swGen hp
  | ctl => exact h.ctl hp
  | net => exact h.net hp
  | sqn => exact h.sqn hp
  | engs => exact h.engs hp
  | unfs => exact h.unfs hp
  | dsps => exact h.dsps hp
  | bq => exact h.bq hp
  | rdq => exact h.rdq hp
  | wrq => exact h.wrq hp
  | rows => exact h.rows hp
  | hbm => exact h.hbm hp
  | narrow => exact h.narrow hp
  | conv => exact h.conv hp
  | merge => exact h.merge hp
  | scrub => exact h.scrub hp
  | wback => exact h.wback hp
  | stest => exact h.stest hp
  | zfill => exact h.zfill hp
  | memtest => exact h.memtest hp
  | krg => exact h.krg hp
  | krgP => exact h.krgP hp
  | drains => exact h.drains hp
  | stwIo => exact h.stwIo hp
  | flinks => exact h.flinks hp
  | knks => exact h.knks hp
  | knkPend => exact h.knkPend hp
  | mapUpd => exact h.mapUpd hp
  | sites => exact h.sites hp
  | alert => exact h.alert hp
  | tripN => exact h.tripN hp
  | irqs => exact h.irqs hp
  | lanes => exact h.lanes hp
  | ports => exact h.ports hp
  | eths => exact h.eths hp
  | qps => exact h.qps hp
  | mbxIn => exact h.mbxIn hp
  | stews => exact h.stews hp
  | parts => exact h.parts hp
  | wards => exact h.wards hp
  | pws => exact h.pws hp
  | chunks => exact h.chunks hp
  | i3c => exact h.i3c hp
  | i3cOut => exact h.i3cOut hp
  | flash => exact h.flash hp

/-- A command whose changes lie within a mask leaves alone every piece outside a list that covers the mask. -/
theorem Agree.frame {μ : Nat} {s t : State} {l : List Piece} (h : t.pending = s.pending ∧ Agree μ s.dev t.dev) (hm : μ &&& pieceMask l = μ) :
    t.pending = s.pending ∧ ∀ p : Piece, p ∉ l → p.same s.dev t.dev := by
  refine ⟨h.1, fun p hp => h.2.piece p ?_⟩
  rw [← hm, Nat.testBit_and, testBit_pieceMask l p hp, Bool.and_false]

end Sys2Proof.Machine
end

