-- ==== Sys2Proof/Laws/Queue.lean ====
section
/-!
SUPPORT. The fault queue: what posting a record leaves.
-/
namespace Sys2Proof.Machine

theorem Dev.raw_put (d : Dev) (f : Fld) (v die i s : Nat) (k : RKey) (h : k.reg ≠ f.reg) : (d.put f v die i s).raw k = d.raw k :=
  Dev.raw_put_ne _ _ _ _ _ _ _ (fun hk => h (by rw [hk]))

/-- The words stored at a position, and no other register. -/
theorem Dev.fltStore_raw (d : Dev) (die pos j : Nat) (ws : List Nat) (k : RKey) :
    (d.fltStore die pos j ws).raw k =
      if k.reg = .FLT_QDATA ∧ k.die = die ∧ k.s = 0 ∧ pos * 8 + j ≤ k.i ∧ k.i < pos * 8 + j + ws.length then ws.getD (k.i - (pos * 8 + j)) 0 % 2 ^ 32
      else d.raw k := by
  induction ws generalizing j with
  | nil => unfold Dev.fltStore; rw [if_neg]; intro h; simp only [List.length_nil] at h; omega
  | cons w ws ih =>
    unfold Dev.fltStore
    rw [Dev.raw_setRaw]
    split
    · rename_i hk
      rw [hk, if_pos ⟨rfl, rfl, rfl, Nat.le_refl _, by simp only [List.length_cons]; omega⟩]
      simp
    · rename_i hk
      rw [ih]
      by_cases h1 : k.reg = .FLT_QDATA ∧ k.die = die ∧ k.s = 0 ∧ pos * 8 + (j + 1) ≤ k.i ∧ k.i < pos * 8 + (j + 1) + ws.length
      · rw [if_pos h1, if_pos ⟨h1.1, h1.2.1, h1.2.2.1, by omega, by simp only [List.length_cons]; omega⟩]
        have : k.i - (pos * 8 + j) = (k.i - (pos * 8 + (j + 1))) + 1 := by omega
        rw [this]; rfl
      · rw [if_neg h1, if_neg]
        rintro ⟨h2, h3, h4, h5, h6⟩
        simp only [List.length_cons] at h6
        by_cases h7 : k.i = pos * 8 + j
        · exact hk (by obtain ⟨a, b, c, e⟩ := k; simp only at h2 h3 h4 h7; subst h2 h3 h4 h7; rfl)
        · exact h1 ⟨h2, h3, h4, by omega, by omega⟩

theorem Dev.fltStore_get (d : Dev) (die pos j : Nat) (ws : List Nat) (f : Fld) (hf : f.reg ≠ .FLT_QDATA) (a b c : Nat) :
    (d.fltStore die pos j ws).get f a b c = d.get f a b c := by
  unfold Dev.get
  rw [Dev.fltStore_raw, if_neg (fun h => hf h.1)]

/-- A record, given by its words, put into the queue. -/
theorem Dev.fltPut_words (d : Dev) (die cls : Nat) (ws : Nat → List Nat) (hw : ∀ q, (ws q).length = 8) :
    let n := d.get F.FLT_STAT_COUNT die
    let e := d.fltPut die cls ws
    if n < 1024 then
      e.get F.FLT_STAT_COUNT die = n + 1 ∧ e.get F.FLT_NEXT_SEQ die = (d.get F.FLT_NEXT_SEQ die + 1) % 2 ^ 16 ∧
      e.get F.FLT_HEAD_INDEX die = d.get F.FLT_HEAD_INDEX die ∧ e.fltRecord die n = (ws (d.get F.FLT_NEXT_SEQ die)).map (· % 2 ^ 32) ∧
      ∀ j, j < n → e.fltRecord die j = d.fltRecord die j
    else
      e.get F.FLT_STAT_COUNT die = n ∧ e.get F.FLT_STAT_OVF die = 1 ∧
      e.get F.FLT_DROP_COUNT die 0 cls = satAdd 32 (d.get F.FLT_DROP_COUNT die 0 cls) 1 ∧ ∀ j, e.fltRecord die j = d.fltRecord die j := by
  have hraw : ∀ (y : Dev) (f : Fld) v, f.reg ≠ .FLT_QDATA → ∀ k, k.reg = .FLT_QDATA → (y.put f v die).raw k = y.raw k :=
    fun y f v hf k hk => Dev.raw_put _ _ _ _ _ _ _ (by rw [hk]; exact fun h => hf h.symm)
  unfold Dev.fltPut
  dsimp only
  by_cases hn : 1024 ≤ d.get F.FLT_STAT_COUNT die
  · rw [if_pos hn, if_neg (by omega)]
    unfold Dev.fltDrop Dev.countSat
    refine ⟨?_, ?_, ?_, fun j => ?_⟩
    · rw [Dev.get_put_ne _ _ _ _ _ _ _ _ _ _ (by decide) (by decide) (.inl (by decide)),
        Dev.get_put_ne _ _ _ _ _ _ _ _ _ _ (by decide) (by decide) (.inr (.inr (.inr (.inr (by decide)))))]
    · rw [Dev.get_put_ne _ _ _ _ _ _ _ _ _ _ (by decide) (by decide) (.inl (by decide)), Dev.get_put _ _ _ _ _ _ (by decide) (by decide)]
      decide
    · rw [Dev.get_put _ _ _ _ _ _ (by decide) (by decide), Dev.get_put_ne _ _ _ _ _ _ _ _ _ _ (by decide) (by decide) (.inl (by decide))]
      exact Nat.mod_eq_of_lt (Nat.lt_of_le_of_lt (Nat.min_le_right _ _) (by decide))
    · unfold Dev.fltRecord
      refine List.map_congr_left fun w _ => ?_
      rw [Dev.raw_put_ne _ _ _ _ _ _ _ (by simp [F.FLT_DROP_COUNT]), hraw _ F.FLT_STAT_OVF _ (by decide) _ rfl, Dev.get_put_ne _ _ _ _ _ _ _ _ _ _ (by decide) (by decide) (.inl (by decide)),
        Dev.get_put_ne _ _ _ _ _ _ _ _ _ _ (by decide) (by decide) (.inl (by decide))]
  · rw [if_neg hn, if_pos (by omega)]
    generalize hfull : (if d.get F.FLT_STAT_COUNT die + 1 = 1024 then 1 else 0) = full
    generalize hd1 : d.fltStore die ((d.get F.FLT_HEAD_INDEX die + d.get F.FLT_STAT_COUNT die) % 1024) 0 (ws (d.get F.FLT_NEXT_SEQ die)) = d1
    have g1 : ∀ f : Fld, f.reg ≠ .FLT_QDATA → d1.get f die = d.get f die := fun f hf => by rw [← hd1]; exact Dev.fltStore_get _ _ _ _ _ _ hf ..
    have r1 : ∀ k : RKey, d1.raw k = _ := fun k => by rw [← hd1, Dev.fltStore_raw]
    have hirq : ∀ (y : Dev) (f : Fld) a b c, (if y.on? F.FLT_CTL_IRQ die = true then { y with irqs := y.irqs.set die (y.irqs.getD die 0 + 1) } else y).get f a b c = y.get f a b c := by
      intro y f a b c; split <;> rfl
    have hirqr : ∀ (y : Dev) k, (if y.on? F.FLT_CTL_IRQ die = true then { y with irqs := y.irqs.set die (y.irqs.getD die 0 + 1) } else y).raw k = y.raw k := by
      intro y k; split <;> rfl
    have hrec : ∀ (y : Dev) j, y.fltRecord die j = (List.range 8).map fun w => y.raw ⟨.FLT_QDATA, die, ((y.get F.FLT_HEAD_INDEX die + j) % 1024) * 8 + w, 0⟩ := fun _ _ => rfl
    have hd : (((d1.put F.FLT_NEXT_SEQ ((d.get F.FLT_NEXT_SEQ die + 1) % 2 ^ 16) die).put F.FLT_STAT_COUNT (d.get F.FLT_STAT_COUNT die + 1) die).put F.FLT_STAT_FULL full die).get F.FLT_HEAD_INDEX die = d.get F.FLT_HEAD_INDEX die := by
      rw [Dev.get_put_ne _ _ _ _ _ _ _ _ _ _ (by decide) (by decide) (.inl (by decide)),
        Dev.get_put_ne _ _ _ _ _ _ _ _ _ _ (by decide) (by decide) (.inl (by decide)),
        Dev.get_put_ne _ _ _ _ _ _ _ _ _ _ (by decide) (by decide) (.inl (by decide)), g1 _ (by decide)]
    refine ⟨?_, ?_, ?_, ?_, fun j hj => ?_⟩
    · rw [hirq, Dev.get_put_ne _ _ _ _ _ _ _ _ _ _ (by decide) (by decide) (.inr (.inr (.inr (.inr (by decide))))), Dev.get_put _ _ _ _ _ _ (by decide) (by decide)]
      exact Nat.mod_eq_of_lt (show _ < 2 ^ 11 by omega)
    · rw [hirq, Dev.get_put_ne _ _ _ _ _ _ _ _ _ _ (by decide) (by decide) (.inl (by decide)),
        Dev.get_put_ne _ _ _ _ _ _ _ _ _ _ (by decide) (by decide) (.inl (by decide)), Dev.get_put _ _ _ _ _ _ (by decide) (by decide)]
      exact Nat.mod_mod _ _
    · rw [hirq]; exact hd
    · rw [hrec]
      have hlen := hw (d.get F.FLT_NEXT_SEQ die)
      generalize hv : ws (d.get F.FLT_NEXT_SEQ die) = v at *
      apply List.ext_getElem
      · simp [hlen]
      · intro w h1 h2
        have hw8 : w < 8 := by simpa using h1
        rw [List.getElem_map, List.getElem_map, List.getElem_range, hirqr, hirq, hd,
          hraw _ F.FLT_STAT_FULL _ (by decide) _ rfl, hraw _ F.FLT_STAT_COUNT _ (by decide) _ rfl, hraw _ F.FLT_NEXT_SEQ _ (by decide) _ rfl, r1, if_pos]
        · dsimp only
          rw [Nat.add_zero, Nat.add_sub_cancel_left, List.getD_eq_getElem?_getD, List.getElem?_eq_getElem (by omega)]
          rfl
        · dsimp only; refine ⟨rfl, rfl, rfl, by omega, by omega⟩
    · rw [hrec, hrec]
      refine List.map_congr_left fun w hw' => ?_
      rw [List.mem_range] at hw'
      rw [hirqr, hirq, hd, hraw _ F.FLT_STAT_FULL _ (by decide) _ rfl, hraw _ F.FLT_STAT_COUNT _ (by decide) _ rfl, hraw _ F.FLT_NEXT_SEQ _ (by decide) _ rfl, r1, if_neg]
      dsimp only
      rintro ⟨-, -, -, h5, h6⟩
      rw [hw] at h6
      omega

/-- A record put into the queue. -/
theorem Dev.fltPut_posted (d : Dev) (die : Nat) (r : Rec) (ws : Nat → List Nat) (hw : ∀ q, (ws q).length = 8)
    (hr : ws (d.get F.FLT_NEXT_SEQ die) = recWords die (d.tick die) (d.get F.FLT_NEXT_SEQ die) r) : d.posted (d.fltPut die r.cls ws) die r := by
  have h := Dev.fltPut_words d die r.cls ws hw
  dsimp only at h
  rw [hr] at h
  exact h

/-- Posting a record. -/
theorem Dev.post_posted (d : Dev) (die : Nat) (r : Rec) (h : d.keptUp die = true) : d.posted (d.post die r) die r := by
  unfold Dev.post
  rw [if_pos h]
  exact Dev.fltPut_posted _ _ _ _ (fun _ => rfl) rfl

end Sys2Proof.Machine
end

