-- ==== Sys2Proof/Laws/State.lean ====
section
/-!
SUPPORT. Each basic update of the package, field by field: the field it changes holds what it says, and every other field and
every read of one is as it was. All are true by `rfl`, but for reads at a key that an update has just put.
-/
namespace Sys2Proof.Machine

/-! The commands that wait are no part of the package -/


/-! setRaw -/

@[simp] theorem Dev.setRaw_fuse (d : Dev) (k : RKey) (w : Nat) : (d.setRaw k w).fuse = d.fuse := rfl
@[simp] theorem Dev.setRaw_pw (d : Dev) (k : RKey) (w : Nat) : (d.setRaw k w).pw = d.pw := rfl
@[simp] theorem Dev.setRaw_aon (d : Dev) (k : RKey) (w : Nat) : (d.setRaw k w).aon = d.aon := rfl
@[simp] theorem Dev.setRaw_rf_now (d : Dev) (k : RKey) (w : Nat) : (d.setRaw k w).rf = d.rf.put k (BitVec.ofNat 32 w) := rfl
@[simp] theorem Dev.setRaw_capt (d : Dev) (k : RKey) (w : Nat) : (d.setRaw k w).capt = d.capt := rfl
@[simp] theorem Dev.setRaw_held (d : Dev) (k : RKey) (w : Nat) : (d.setRaw k w).held = d.held := rfl
@[simp] theorem Dev.setRaw_free (d : Dev) (k : RKey) (w : Nat) : (d.setRaw k w).free = d.free := rfl
@[simp] theorem Dev.setRaw_mem (d : Dev) (k : RKey) (w : Nat) : (d.setRaw k w).mem = d.mem := rfl
@[simp] theorem Dev.setRaw_unwritten (d : Dev) (k : RKey) (w : Nat) : (d.setRaw k w).unwritten = d.unwritten := rfl
@[simp] theorem Dev.setRaw_errs (d : Dev) (k : RKey) (w : Nat) : (d.setRaw k w).errs = d.errs := rfl
@[simp] theorem Dev.setRaw_lcnt (d : Dev) (k : RKey) (w : Nat) : (d.setRaw k w).lcnt = d.lcnt := rfl
@[simp] theorem Dev.setRaw_cores (d : Dev) (k : RKey) (w : Nat) : (d.setRaw k w).cores = d.cores := rfl
@[simp] theorem Dev.setRaw_cells (d : Dev) (k : RKey) (w : Nat) : (d.setRaw k w).cells = d.cells := rfl
@[simp] theorem Dev.setRaw_cellPart (d : Dev) (k : RKey) (w : Nat) : (d.setRaw k w).cellPart = d.cellPart := rfl
@[simp] theorem Dev.setRaw_tmb (d : Dev) (k : RKey) (w : Nat) : (d.setRaw k w).tmb = d.tmb := rfl
@[simp] theorem Dev.setRaw_waits (d : Dev) (k : RKey) (w : Nat) : (d.setRaw k w).waits = d.waits := rfl
@[simp] theorem Dev.setRaw_swGen (d : Dev) (k : RKey) (w : Nat) : (d.setRaw k w).swGen = d.swGen := rfl
@[simp] theorem Dev.setRaw_ctl (d : Dev) (k : RKey) (w : Nat) : (d.setRaw k w).ctl = d.ctl := rfl
@[simp] theorem Dev.setRaw_net (d : Dev) (k : RKey) (w : Nat) : (d.setRaw k w).net = d.net := rfl
@[simp] theorem Dev.setRaw_sqn (d : Dev) (k : RKey) (w : Nat) : (d.setRaw k w).sqn = d.sqn := rfl
@[simp] theorem Dev.setRaw_engs (d : Dev) (k : RKey) (w : Nat) : (d.setRaw k w).engs = d.engs := rfl
@[simp] theorem Dev.setRaw_unfs (d : Dev) (k : RKey) (w : Nat) : (d.setRaw k w).unfs = d.unfs := rfl
@[simp] theorem Dev.setRaw_dsps (d : Dev) (k : RKey) (w : Nat) : (d.setRaw k w).dsps = d.dsps := rfl
@[simp] theorem Dev.setRaw_bq (d : Dev) (k : RKey) (w : Nat) : (d.setRaw k w).bq = d.bq := rfl
@[simp] theorem Dev.setRaw_rdq (d : Dev) (k : RKey) (w : Nat) : (d.setRaw k w).rdq = d.rdq := rfl
@[simp] theorem Dev.setRaw_wrq (d : Dev) (k : RKey) (w : Nat) : (d.setRaw k w).wrq = d.wrq := rfl
@[simp] theorem Dev.setRaw_rows (d : Dev) (k : RKey) (w : Nat) : (d.setRaw k w).rows = d.rows := rfl
@[simp] theorem Dev.setRaw_hbm (d : Dev) (k : RKey) (w : Nat) : (d.setRaw k w).hbm = d.hbm := rfl
@[simp] theorem Dev.setRaw_narrow (d : Dev) (k : RKey) (w : Nat) : (d.setRaw k w).narrow = d.narrow := rfl
@[simp] theorem Dev.setRaw_conv (d : Dev) (k : RKey) (w : Nat) : (d.setRaw k w).conv = d.conv := rfl
@[simp] theorem Dev.setRaw_merge (d : Dev) (k : RKey) (w : Nat) : (d.setRaw k w).merge = d.merge := rfl
@[simp] theorem Dev.setRaw_scrub (d : Dev) (k : RKey) (w : Nat) : (d.setRaw k w).scrub = d.scrub := rfl
@[simp] theorem Dev.setRaw_wback (d : Dev) (k : RKey) (w : Nat) : (d.setRaw k w).wback = d.wback := rfl
@[simp] theorem Dev.setRaw_stest (d : Dev) (k : RKey) (w : Nat) : (d.setRaw k w).stest = d.stest := rfl
@[simp] theorem Dev.setRaw_zfill (d : Dev) (k : RKey) (w : Nat) : (d.setRaw k w).zfill = d.zfill := rfl
@[simp] theorem Dev.setRaw_memtest (d : Dev) (k : RKey) (w : Nat) : (d.setRaw k w).memtest = d.memtest := rfl
@[simp] theorem Dev.setRaw_krg (d : Dev) (k : RKey) (w : Nat) : (d.setRaw k w).krg = d.krg := rfl
@[simp] theorem Dev.setRaw_krgP (d : Dev) (k : RKey) (w : Nat) : (d.setRaw k w).krgP = d.krgP := rfl
@[simp] theorem Dev.setRaw_drains (d : Dev) (k : RKey) (w : Nat) : (d.setRaw k w).drains = d.drains := rfl
@[simp] theorem Dev.setRaw_stwIo (d : Dev) (k : RKey) (w : Nat) : (d.setRaw k w).stwIo = d.stwIo := rfl
@[simp] theorem Dev.setRaw_flinks (d : Dev) (k : RKey) (w : Nat) : (d.setRaw k w).flinks = d.flinks := rfl
@[simp] theorem Dev.setRaw_knks (d : Dev) (k : RKey) (w : Nat) : (d.setRaw k w).knks = d.knks := rfl
@[simp] theorem Dev.setRaw_knkPend (d : Dev) (k : RKey) (w : Nat) : (d.setRaw k w).knkPend = d.knkPend := rfl
@[simp] theorem Dev.setRaw_mapUpd (d : Dev) (k : RKey) (w : Nat) : (d.setRaw k w).mapUpd = d.mapUpd := rfl
@[simp] theorem Dev.setRaw_sites (d : Dev) (k : RKey) (w : Nat) : (d.setRaw k w).sites = d.sites := rfl
@[simp] theorem Dev.setRaw_alert (d : Dev) (k : RKey) (w : Nat) : (d.setRaw k w).alert = d.alert := rfl
@[simp] theorem Dev.setRaw_tripN (d : Dev) (k : RKey) (w : Nat) : (d.setRaw k w).tripN = d.tripN := rfl
@[simp] theorem Dev.setRaw_irqs (d : Dev) (k : RKey) (w : Nat) : (d.setRaw k w).irqs = d.irqs := rfl
@[simp] theorem Dev.setRaw_lanes (d : Dev) (k : RKey) (w : Nat) : (d.setRaw k w).lanes = d.lanes := rfl
@[simp] theorem Dev.setRaw_ports (d : Dev) (k : RKey) (w : Nat) : (d.setRaw k w).ports = d.ports := rfl
@[simp] theorem Dev.setRaw_eths (d : Dev) (k : RKey) (w : Nat) : (d.setRaw k w).eths = d.eths := rfl
@[simp] theorem Dev.setRaw_qps (d : Dev) (k : RKey) (w : Nat) : (d.setRaw k w).qps = d.qps := rfl
@[simp] theorem Dev.setRaw_mbxIn (d : Dev) (k : RKey) (w : Nat) : (d.setRaw k w).mbxIn = d.mbxIn := rfl
@[simp] theorem Dev.setRaw_stews (d : Dev) (k : RKey) (w : Nat) : (d.setRaw k w).stews = d.stews := rfl
@[simp] theorem Dev.setRaw_parts (d : Dev) (k : RKey) (w : Nat) : (d.setRaw k w).parts = d.parts := rfl
@[simp] theorem Dev.setRaw_wards (d : Dev) (k : RKey) (w : Nat) : (d.setRaw k w).wards = d.wards := rfl
@[simp] theorem Dev.setRaw_pws (d : Dev) (k : RKey) (w : Nat) : (d.setRaw k w).pws = d.pws := rfl
@[simp] theorem Dev.setRaw_chunks (d : Dev) (k : RKey) (w : Nat) : (d.setRaw k w).chunks = d.chunks := rfl
@[simp] theorem Dev.setRaw_i3c (d : Dev) (k : RKey) (w : Nat) : (d.setRaw k w).i3c = d.i3c := rfl
@[simp] theorem Dev.setRaw_i3cOut (d : Dev) (k : RKey) (w : Nat) : (d.setRaw k w).i3cOut = d.i3cOut := rfl
@[simp] theorem Dev.setRaw_flash (d : Dev) (k : RKey) (w : Nat) : (d.setRaw k w).flash = d.flash := rfl
@[simp] theorem Dev.setRaw_read_coreAt (d : Dev) (k : RKey) (w : Nat) (q : Nat) : (d.setRaw k w).coreAt q = d.coreAt q := rfl
@[simp] theorem Dev.setRaw_read_cellAt (d : Dev) (k : RKey) (w : Nat) (q : Nat) : (d.setRaw k w).cellAt q = d.cellAt q := rfl
@[simp] theorem Dev.setRaw_read_partOf (d : Dev) (k : RKey) (w : Nat) (q : Nat) : (d.setRaw k w).partOf q = d.partOf q := rfl
@[simp] theorem Dev.setRaw_read_tumbler (d : Dev) (k : RKey) (w : Nat) (die' j : Nat) : (d.setRaw k w).tumbler die' j = d.tumbler die' j := rfl
@[simp] theorem Dev.setRaw_read_eng (d : Dev) (k : RKey) (w : Nat) (die' e' : Nat) : (d.setRaw k w).eng die' e' = d.eng die' e' := rfl
@[simp] theorem Dev.setRaw_read_unfAt (d : Dev) (k : RKey) (w : Nat) (die' e' : Nat) : (d.setRaw k w).unfAt die' e' = d.unfAt die' e' := rfl
@[simp] theorem Dev.setRaw_read_dsp (d : Dev) (k : RKey) (w : Nat) (q : Nat) : (d.setRaw k w).dsp q = d.dsp q := rfl
@[simp] theorem Dev.setRaw_read_eth (d : Dev) (k : RKey) (w : Nat) (die' e' : Nat) : (d.setRaw k w).eth die' e' = d.eth die' e' := rfl
@[simp] theorem Dev.setRaw_read_hbmAt (d : Dev) (k : RKey) (w : Nat) (die' e' : Nat) : (d.setRaw k w).hbmAt die' e' = d.hbmAt die' e' := rfl
@[simp] theorem Dev.setRaw_read_flink (d : Dev) (k : RKey) (w : Nat) (die' e' : Nat) : (d.setRaw k w).flink die' e' = d.flink die' e' := rfl
@[simp] theorem Dev.setRaw_read_knk (d : Dev) (k : RKey) (w : Nat) (q : Nat) : (d.setRaw k w).knk q = d.knk q := rfl
@[simp] theorem Dev.setRaw_read_lane (d : Dev) (k : RKey) (w : Nat) (die' e' : Nat) : (d.setRaw k w).lane die' e' = d.lane die' e' := rfl
@[simp] theorem Dev.setRaw_read_port (d : Dev) (k : RKey) (w : Nat) (q : Nat) : (d.setRaw k w).port q = d.port q := rfl
@[simp] theorem Dev.setRaw_read_qp (d : Dev) (k : RKey) (w : Nat) (q : Nat) : (d.setRaw k w).qp q = d.qp q := rfl
@[simp] theorem Dev.setRaw_read_stew (d : Dev) (k : RKey) (w : Nat) (q : Nat) : (d.setRaw k w).stew q = d.stew q := rfl
@[simp] theorem Dev.setRaw_read_site (d : Dev) (k : RKey) (w : Nat) (q : Nat) : (d.setRaw k w).site q = d.site q := rfl
@[simp] theorem Dev.setRaw_read_ward (d : Dev) (k : RKey) (w : Nat) (q : Nat) : (d.setRaw k w).ward q = d.ward q := rfl
@[simp] theorem Dev.setRaw_read_tick (d : Dev) (k : RKey) (w : Nat) (q : Nat) : (d.setRaw k w).tick q = d.tick q := rfl
@[simp] theorem Dev.setRaw_read_pwOf (d : Dev) (k : RKey) (w : Nat) (q : Nat) : (d.setRaw k w).pwOf q = d.pwOf q := rfl
@[simp] theorem Dev.setRaw_read_aonUp (d : Dev) (k : RKey) (w : Nat) (q : Nat) : (d.setRaw k w).aonUp q = d.aonUp q := rfl

/-! put -/

@[simp] theorem Dev.put_fuse (d : Dev) (f : Fld) (v die i s : Nat) : (d.put f v die i s).fuse = d.fuse := rfl
@[simp] theorem Dev.put_pw (d : Dev) (f : Fld) (v die i s : Nat) : (d.put f v die i s).pw = d.pw := rfl
@[simp] theorem Dev.put_aon (d : Dev) (f : Fld) (v die i s : Nat) : (d.put f v die i s).aon = d.aon := rfl
@[simp] theorem Dev.put_capt (d : Dev) (f : Fld) (v die i s : Nat) : (d.put f v die i s).capt = d.capt := rfl
@[simp] theorem Dev.put_held (d : Dev) (f : Fld) (v die i s : Nat) : (d.put f v die i s).held = d.held := rfl
@[simp] theorem Dev.put_free (d : Dev) (f : Fld) (v die i s : Nat) : (d.put f v die i s).free = d.free := rfl
@[simp] theorem Dev.put_mem (d : Dev) (f : Fld) (v die i s : Nat) : (d.put f v die i s).mem = d.mem := rfl
@[simp] theorem Dev.put_unwritten (d : Dev) (f : Fld) (v die i s : Nat) : (d.put f v die i s).unwritten = d.unwritten := rfl
@[simp] theorem Dev.put_errs (d : Dev) (f : Fld) (v die i s : Nat) : (d.put f v die i s).errs = d.errs := rfl
@[simp] theorem Dev.put_lcnt (d : Dev) (f : Fld) (v die i s : Nat) : (d.put f v die i s).lcnt = d.lcnt := rfl
@[simp] theorem Dev.put_cores (d : Dev) (f : Fld) (v die i s : Nat) : (d.put f v die i s).cores = d.cores := rfl
@[simp] theorem Dev.put_cells (d : Dev) (f : Fld) (v die i s : Nat) : (d.put f v die i s).cells = d.cells := rfl
@[simp] theorem Dev.put_cellPart (d : Dev) (f : Fld) (v die i s : Nat) : (d.put f v die i s).cellPart = d.cellPart := rfl
@[simp] theorem Dev.put_tmb (d : Dev) (f : Fld) (v die i s : Nat) : (d.put f v die i s).tmb = d.tmb := rfl
@[simp] theorem Dev.put_waits (d : Dev) (f : Fld) (v die i s : Nat) : (d.put f v die i s).waits = d.waits := rfl
@[simp] theorem Dev.put_swGen (d : Dev) (f : Fld) (v die i s : Nat) : (d.put f v die i s).swGen = d.swGen := rfl
@[simp] theorem Dev.put_ctl (d : Dev) (f : Fld) (v die i s : Nat) : (d.put f v die i s).ctl = d.ctl := rfl
@[simp] theorem Dev.put_net (d : Dev) (f : Fld) (v die i s : Nat) : (d.put f v die i s).net = d.net := rfl
@[simp] theorem Dev.put_sqn (d : Dev) (f : Fld) (v die i s : Nat) : (d.put f v die i s).sqn = d.sqn := rfl
@[simp] theorem Dev.put_engs (d : Dev) (f : Fld) (v die i s : Nat) : (d.put f v die i s).engs = d.engs := rfl
@[simp] theorem Dev.put_unfs (d : Dev) (f : Fld) (v die i s : Nat) : (d.put f v die i s).unfs = d.unfs := rfl
@[simp] theorem Dev.put_dsps (d : Dev) (f : Fld) (v die i s : Nat) : (d.put f v die i s).dsps = d.dsps := rfl
@[simp] theorem Dev.put_bq (d : Dev) (f : Fld) (v die i s : Nat) : (d.put f v die i s).bq = d.bq := rfl
@[simp] theorem Dev.put_rdq (d : Dev) (f : Fld) (v die i s : Nat) : (d.put f v die i s).rdq = d.rdq := rfl
@[simp] theorem Dev.put_wrq (d : Dev) (f : Fld) (v die i s : Nat) : (d.put f v die i s).wrq = d.wrq := rfl
@[simp] theorem Dev.put_rows (d : Dev) (f : Fld) (v die i s : Nat) : (d.put f v die i s).rows = d.rows := rfl
@[simp] theorem Dev.put_hbm (d : Dev) (f : Fld) (v die i s : Nat) : (d.put f v die i s).hbm = d.hbm := rfl
@[simp] theorem Dev.put_narrow (d : Dev) (f : Fld) (v die i s : Nat) : (d.put f v die i s).narrow = d.narrow := rfl
@[simp] theorem Dev.put_conv (d : Dev) (f : Fld) (v die i s : Nat) : (d.put f v die i s).conv = d.conv := rfl
@[simp] theorem Dev.put_merge (d : Dev) (f : Fld) (v die i s : Nat) : (d.put f v die i s).merge = d.merge := rfl
@[simp] theorem Dev.put_scrub (d : Dev) (f : Fld) (v die i s : Nat) : (d.put f v die i s).scrub = d.scrub := rfl
@[simp] theorem Dev.put_wback (d : Dev) (f : Fld) (v die i s : Nat) : (d.put f v die i s).wback = d.wback := rfl
@[simp] theorem Dev.put_stest (d : Dev) (f : Fld) (v die i s : Nat) : (d.put f v die i s).stest = d.stest := rfl
@[simp] theorem Dev.put_zfill (d : Dev) (f : Fld) (v die i s : Nat) : (d.put f v die i s).zfill = d.zfill := rfl
@[simp] theorem Dev.put_memtest (d : Dev) (f : Fld) (v die i s : Nat) : (d.put f v die i s).memtest = d.memtest := rfl
@[simp] theorem Dev.put_krg (d : Dev) (f : Fld) (v die i s : Nat) : (d.put f v die i s).krg = d.krg := rfl
@[simp] theorem Dev.put_krgP (d : Dev) (f : Fld) (v die i s : Nat) : (d.put f v die i s).krgP = d.krgP := rfl
@[simp] theorem Dev.put_drains (d : Dev) (f : Fld) (v die i s : Nat) : (d.put f v die i s).drains = d.drains := rfl
@[simp] theorem Dev.put_stwIo (d : Dev) (f : Fld) (v die i s : Nat) : (d.put f v die i s).stwIo = d.stwIo := rfl
@[simp] theorem Dev.put_flinks (d : Dev) (f : Fld) (v die i s : Nat) : (d.put f v die i s).flinks = d.flinks := rfl
@[simp] theorem Dev.put_knks (d : Dev) (f : Fld) (v die i s : Nat) : (d.put f v die i s).knks = d.knks := rfl
@[simp] theorem Dev.put_knkPend (d : Dev) (f : Fld) (v die i s : Nat) : (d.put f v die i s).knkPend = d.knkPend := rfl
@[simp] theorem Dev.put_mapUpd (d : Dev) (f : Fld) (v die i s : Nat) : (d.put f v die i s).mapUpd = d.mapUpd := rfl
@[simp] theorem Dev.put_sites (d : Dev) (f : Fld) (v die i s : Nat) : (d.put f v die i s).sites = d.sites := rfl
@[simp] theorem Dev.put_alert (d : Dev) (f : Fld) (v die i s : Nat) : (d.put f v die i s).alert = d.alert := rfl
@[simp] theorem Dev.put_tripN (d : Dev) (f : Fld) (v die i s : Nat) : (d.put f v die i s).tripN = d.tripN := rfl
@[simp] theorem Dev.put_irqs (d : Dev) (f : Fld) (v die i s : Nat) : (d.put f v die i s).irqs = d.irqs := rfl
@[simp] theorem Dev.put_lanes (d : Dev) (f : Fld) (v die i s : Nat) : (d.put f v die i s).lanes = d.lanes := rfl
@[simp] theorem Dev.put_ports (d : Dev) (f : Fld) (v die i s : Nat) : (d.put f v die i s).ports = d.ports := rfl
@[simp] theorem Dev.put_eths (d : Dev) (f : Fld) (v die i s : Nat) : (d.put f v die i s).eths = d.eths := rfl
@[simp] theorem Dev.put_qps (d : Dev) (f : Fld) (v die i s : Nat) : (d.put f v die i s).qps = d.qps := rfl
@[simp] theorem Dev.put_mbxIn (d : Dev) (f : Fld) (v die i s : Nat) : (d.put f v die i s).mbxIn = d.mbxIn := rfl
@[simp] theorem Dev.put_stews (d : Dev) (f : Fld) (v die i s : Nat) : (d.put f v die i s).stews = d.stews := rfl
@[simp] theorem Dev.put_parts (d : Dev) (f : Fld) (v die i s : Nat) : (d.put f v die i s).parts = d.parts := rfl
@[simp] theorem Dev.put_wards (d : Dev) (f : Fld) (v die i s : Nat) : (d.put f v die i s).wards = d.wards := rfl
@[simp] theorem Dev.put_pws (d : Dev) (f : Fld) (v die i s : Nat) : (d.put f v die i s).pws = d.pws := rfl
@[simp] theorem Dev.put_chunks (d : Dev) (f : Fld) (v die i s : Nat) : (d.put f v die i s).chunks = d.chunks := rfl
@[simp] theorem Dev.put_i3c (d : Dev) (f : Fld) (v die i s : Nat) : (d.put f v die i s).i3c = d.i3c := rfl
@[simp] theorem Dev.put_i3cOut (d : Dev) (f : Fld) (v die i s : Nat) : (d.put f v die i s).i3cOut = d.i3cOut := rfl
@[simp] theorem Dev.put_flash (d : Dev) (f : Fld) (v die i s : Nat) : (d.put f v die i s).flash = d.flash := rfl
@[simp] theorem Dev.put_read_coreAt (d : Dev) (f : Fld) (v die i s : Nat) (q : Nat) : (d.put f v die i s).coreAt q = d.coreAt q := rfl
@[simp] theorem Dev.put_read_cellAt (d : Dev) (f : Fld) (v die i s : Nat) (q : Nat) : (d.put f v die i s).cellAt q = d.cellAt q := rfl
@[simp] theorem Dev.put_read_partOf (d : Dev) (f : Fld) (v die i s : Nat) (q : Nat) : (d.put f v die i s).partOf q = d.partOf q := rfl
@[simp] theorem Dev.put_read_tumbler (d : Dev) (f : Fld) (v die i s : Nat) (die' j : Nat) : (d.put f v die i s).tumbler die' j = d.tumbler die' j := rfl
@[simp] theorem Dev.put_read_eng (d : Dev) (f : Fld) (v die i s : Nat) (die' e' : Nat) : (d.put f v die i s).eng die' e' = d.eng die' e' := rfl
@[simp] theorem Dev.put_read_unfAt (d : Dev) (f : Fld) (v die i s : Nat) (die' e' : Nat) : (d.put f v die i s).unfAt die' e' = d.unfAt die' e' := rfl
@[simp] theorem Dev.put_read_dsp (d : Dev) (f : Fld) (v die i s : Nat) (q : Nat) : (d.put f v die i s).dsp q = d.dsp q := rfl
@[simp] theorem Dev.put_read_eth (d : Dev) (f : Fld) (v die i s : Nat) (die' e' : Nat) : (d.put f v die i s).eth die' e' = d.eth die' e' := rfl
@[simp] theorem Dev.put_read_hbmAt (d : Dev) (f : Fld) (v die i s : Nat) (die' e' : Nat) : (d.put f v die i s).hbmAt die' e' = d.hbmAt die' e' := rfl
@[simp] theorem Dev.put_read_flink (d : Dev) (f : Fld) (v die i s : Nat) (die' e' : Nat) : (d.put f v die i s).flink die' e' = d.flink die' e' := rfl
@[simp] theorem Dev.put_read_knk (d : Dev) (f : Fld) (v die i s : Nat) (q : Nat) : (d.put f v die i s).knk q = d.knk q := rfl
@[simp] theorem Dev.put_read_lane (d : Dev) (f : Fld) (v die i s : Nat) (die' e' : Nat) : (d.put f v die i s).lane die' e' = d.lane die' e' := rfl
@[simp] theorem Dev.put_read_port (d : Dev) (f : Fld) (v die i s : Nat) (q : Nat) : (d.put f v die i s).port q = d.port q := rfl
@[simp] theorem Dev.put_read_qp (d : Dev) (f : Fld) (v die i s : Nat) (q : Nat) : (d.put f v die i s).qp q = d.qp q := rfl
@[simp] theorem Dev.put_read_stew (d : Dev) (f : Fld) (v die i s : Nat) (q : Nat) : (d.put f v die i s).stew q = d.stew q := rfl
@[simp] theorem Dev.put_read_site (d : Dev) (f : Fld) (v die i s : Nat) (q : Nat) : (d.put f v die i s).site q = d.site q := rfl
@[simp] theorem Dev.put_read_ward (d : Dev) (f : Fld) (v die i s : Nat) (q : Nat) : (d.put f v die i s).ward q = d.ward q := rfl
@[simp] theorem Dev.put_read_tick (d : Dev) (f : Fld) (v die i s : Nat) (q : Nat) : (d.put f v die i s).tick q = d.tick q := rfl
@[simp] theorem Dev.put_read_pwOf (d : Dev) (f : Fld) (v die i s : Nat) (q : Nat) : (d.put f v die i s).pwOf q = d.pwOf q := rfl
@[simp] theorem Dev.put_read_aonUp (d : Dev) (f : Fld) (v die i s : Nat) (q : Nat) : (d.put f v die i s).aonUp q = d.aonUp q := rfl

/-! setCore -/

@[simp] theorem Dev.setCore_fuse (d : Dev) (k : Nat) (c : Core) : (d.setCore k c).fuse = d.fuse := rfl
@[simp] theorem Dev.setCore_pw (d : Dev) (k : Nat) (c : Core) : (d.setCore k c).pw = d.pw := rfl
@[simp] theorem Dev.setCore_aon (d : Dev) (k : Nat) (c : Core) : (d.setCore k c).aon = d.aon := rfl
@[simp] theorem Dev.setCore_rf (d : Dev) (k : Nat) (c : Core) : (d.setCore k c).rf = d.rf := rfl
@[simp] theorem Dev.setCore_capt (d : Dev) (k : Nat) (c : Core) : (d.setCore k c).capt = d.capt := rfl
@[simp] theorem Dev.setCore_held (d : Dev) (k : Nat) (c : Core) : (d.setCore k c).held = d.held := rfl
@[simp] theorem Dev.setCore_free (d : Dev) (k : Nat) (c : Core) : (d.setCore k c).free = d.free := rfl
@[simp] theorem Dev.setCore_mem (d : Dev) (k : Nat) (c : Core) : (d.setCore k c).mem = d.mem := rfl
@[simp] theorem Dev.setCore_unwritten (d : Dev) (k : Nat) (c : Core) : (d.setCore k c).unwritten = d.unwritten := rfl
@[simp] theorem Dev.setCore_errs (d : Dev) (k : Nat) (c : Core) : (d.setCore k c).errs = d.errs := rfl
@[simp] theorem Dev.setCore_lcnt (d : Dev) (k : Nat) (c : Core) : (d.setCore k c).lcnt = d.lcnt := rfl
@[simp] theorem Dev.setCore_cores_now (d : Dev) (k : Nat) (c : Core) : (d.setCore k c).cores = d.cores.put k c := rfl
@[simp] theorem Dev.setCore_cells (d : Dev) (k : Nat) (c : Core) : (d.setCore k c).cells = d.cells := rfl
@[simp] theorem Dev.setCore_cellPart (d : Dev) (k : Nat) (c : Core) : (d.setCore k c).cellPart = d.cellPart := rfl
@[simp] theorem Dev.setCore_tmb (d : Dev) (k : Nat) (c : Core) : (d.setCore k c).tmb = d.tmb := rfl
@[simp] theorem Dev.setCore_waits (d : Dev) (k : Nat) (c : Core) : (d.setCore k c).waits = d.waits := rfl
@[simp] theorem Dev.setCore_swGen (d : Dev) (k : Nat) (c : Core) : (d.setCore k c).swGen = d.swGen := rfl
@[simp] theorem Dev.setCore_ctl (d : Dev) (k : Nat) (c : Core) : (d.setCore k c).ctl = d.ctl := rfl
@[simp] theorem Dev.setCore_net (d : Dev) (k : Nat) (c : Core) : (d.setCore k c).net = d.net := rfl
@[simp] theorem Dev.setCore_sqn (d : Dev) (k : Nat) (c : Core) : (d.setCore k c).sqn = d.sqn := rfl
@[simp] theorem Dev.setCore_engs (d : Dev) (k : Nat) (c : Core) : (d.setCore k c).engs = d.engs := rfl
@[simp] theorem Dev.setCore_unfs (d : Dev) (k : Nat) (c : Core) : (d.setCore k c).unfs = d.unfs := rfl
@[simp] theorem Dev.setCore_dsps (d : Dev) (k : Nat) (c : Core) : (d.setCore k c).dsps = d.dsps := rfl
@[simp] theorem Dev.setCore_bq (d : Dev) (k : Nat) (c : Core) : (d.setCore k c).bq = d.bq := rfl
@[simp] theorem Dev.setCore_rdq (d : Dev) (k : Nat) (c : Core) : (d.setCore k c).rdq = d.rdq := rfl
@[simp] theorem Dev.setCore_wrq (d : Dev) (k : Nat) (c : Core) : (d.setCore k c).wrq = d.wrq := rfl
@[simp] theorem Dev.setCore_rows (d : Dev) (k : Nat) (c : Core) : (d.setCore k c).rows = d.rows := rfl
@[simp] theorem Dev.setCore_hbm (d : Dev) (k : Nat) (c : Core) : (d.setCore k c).hbm = d.hbm := rfl
@[simp] theorem Dev.setCore_narrow (d : Dev) (k : Nat) (c : Core) : (d.setCore k c).narrow = d.narrow := rfl
@[simp] theorem Dev.setCore_conv (d : Dev) (k : Nat) (c : Core) : (d.setCore k c).conv = d.conv := rfl
@[simp] theorem Dev.setCore_merge (d : Dev) (k : Nat) (c : Core) : (d.setCore k c).merge = d.merge := rfl
@[simp] theorem Dev.setCore_scrub (d : Dev) (k : Nat) (c : Core) : (d.setCore k c).scrub = d.scrub := rfl
@[simp] theorem Dev.setCore_wback (d : Dev) (k : Nat) (c : Core) : (d.setCore k c).wback = d.wback := rfl
@[simp] theorem Dev.setCore_stest (d : Dev) (k : Nat) (c : Core) : (d.setCore k c).stest = d.stest := rfl
@[simp] theorem Dev.setCore_zfill (d : Dev) (k : Nat) (c : Core) : (d.setCore k c).zfill = d.zfill := rfl
@[simp] theorem Dev.setCore_memtest (d : Dev) (k : Nat) (c : Core) : (d.setCore k c).memtest = d.memtest := rfl
@[simp] theorem Dev.setCore_krg (d : Dev) (k : Nat) (c : Core) : (d.setCore k c).krg = d.krg := rfl
@[simp] theorem Dev.setCore_krgP (d : Dev) (k : Nat) (c : Core) : (d.setCore k c).krgP = d.krgP := rfl
@[simp] theorem Dev.setCore_drains (d : Dev) (k : Nat) (c : Core) : (d.setCore k c).drains = d.drains := rfl
@[simp] theorem Dev.setCore_stwIo (d : Dev) (k : Nat) (c : Core) : (d.setCore k c).stwIo = d.stwIo := rfl
@[simp] theorem Dev.setCore_flinks (d : Dev) (k : Nat) (c : Core) : (d.setCore k c).flinks = d.flinks := rfl
@[simp] theorem Dev.setCore_knks (d : Dev) (k : Nat) (c : Core) : (d.setCore k c).knks = d.knks := rfl
@[simp] theorem Dev.setCore_knkPend (d : Dev) (k : Nat) (c : Core) : (d.setCore k c).knkPend = d.knkPend := rfl
@[simp] theorem Dev.setCore_mapUpd (d : Dev) (k : Nat) (c : Core) : (d.setCore k c).mapUpd = d.mapUpd := rfl
@[simp] theorem Dev.setCore_sites (d : Dev) (k : Nat) (c : Core) : (d.setCore k c).sites = d.sites := rfl
@[simp] theorem Dev.setCore_alert (d : Dev) (k : Nat) (c : Core) : (d.setCore k c).alert = d.alert := rfl
@[simp] theorem Dev.setCore_tripN (d : Dev) (k : Nat) (c : Core) : (d.setCore k c).tripN = d.tripN := rfl
@[simp] theorem Dev.setCore_irqs (d : Dev) (k : Nat) (c : Core) : (d.setCore k c).irqs = d.irqs := rfl
@[simp] theorem Dev.setCore_lanes (d : Dev) (k : Nat) (c : Core) : (d.setCore k c).lanes = d.lanes := rfl
@[simp] theorem Dev.setCore_ports (d : Dev) (k : Nat) (c : Core) : (d.setCore k c).ports = d.ports := rfl
@[simp] theorem Dev.setCore_eths (d : Dev) (k : Nat) (c : Core) : (d.setCore k c).eths = d.eths := rfl
@[simp] theorem Dev.setCore_qps (d : Dev) (k : Nat) (c : Core) : (d.setCore k c).qps = d.qps := rfl
@[simp] theorem Dev.setCore_mbxIn (d : Dev) (k : Nat) (c : Core) : (d.setCore k c).mbxIn = d.mbxIn := rfl
@[simp] theorem Dev.setCore_stews (d : Dev) (k : Nat) (c : Core) : (d.setCore k c).stews = d.stews := rfl
@[simp] theorem Dev.setCore_parts (d : Dev) (k : Nat) (c : Core) : (d.setCore k c).parts = d.parts := rfl
@[simp] theorem Dev.setCore_wards (d : Dev) (k : Nat) (c : Core) : (d.setCore k c).wards = d.wards := rfl
@[simp] theorem Dev.setCore_pws (d : Dev) (k : Nat) (c : Core) : (d.setCore k c).pws = d.pws := rfl
@[simp] theorem Dev.setCore_chunks (d : Dev) (k : Nat) (c : Core) : (d.setCore k c).chunks = d.chunks := rfl
@[simp] theorem Dev.setCore_i3c (d : Dev) (k : Nat) (c : Core) : (d.setCore k c).i3c = d.i3c := rfl
@[simp] theorem Dev.setCore_i3cOut (d : Dev) (k : Nat) (c : Core) : (d.setCore k c).i3cOut = d.i3cOut := rfl
@[simp] theorem Dev.setCore_flash (d : Dev) (k : Nat) (c : Core) : (d.setCore k c).flash = d.flash := rfl
@[simp] theorem Dev.setCore_read_raw (d : Dev) (k : Nat) (c : Core) (r : RKey) : (d.setCore k c).raw r = d.raw r := rfl
@[simp] theorem Dev.setCore_read_get (d : Dev) (k : Nat) (c : Core) (g : Fld) (die' i' s' : Nat) : (d.setCore k c).get g die' i' s' = d.get g die' i' s' := rfl
@[simp] theorem Dev.setCore_read_cellAt (d : Dev) (k : Nat) (c : Core) (q : Nat) : (d.setCore k c).cellAt q = d.cellAt q := rfl
@[simp] theorem Dev.setCore_read_partOf (d : Dev) (k : Nat) (c : Core) (q : Nat) : (d.setCore k c).partOf q = d.partOf q := rfl
@[simp] theorem Dev.setCore_read_tumbler (d : Dev) (k : Nat) (c : Core) (die' j : Nat) : (d.setCore k c).tumbler die' j = d.tumbler die' j := rfl
@[simp] theorem Dev.setCore_read_eng (d : Dev) (k : Nat) (c : Core) (die' e' : Nat) : (d.setCore k c).eng die' e' = d.eng die' e' := rfl
@[simp] theorem Dev.setCore_read_unfAt (d : Dev) (k : Nat) (c : Core) (die' e' : Nat) : (d.setCore k c).unfAt die' e' = d.unfAt die' e' := rfl
@[simp] theorem Dev.setCore_read_dsp (d : Dev) (k : Nat) (c : Core) (q : Nat) : (d.setCore k c).dsp q = d.dsp q := rfl
@[simp] theorem Dev.setCore_read_eth (d : Dev) (k : Nat) (c : Core) (die' e' : Nat) : (d.setCore k c).eth die' e' = d.eth die' e' := rfl
@[simp] theorem Dev.setCore_read_hbmAt (d : Dev) (k : Nat) (c : Core) (die' e' : Nat) : (d.setCore k c).hbmAt die' e' = d.hbmAt die' e' := rfl
@[simp] theorem Dev.setCore_read_flink (d : Dev) (k : Nat) (c : Core) (die' e' : Nat) : (d.setCore k c).flink die' e' = d.flink die' e' := rfl
@[simp] theorem Dev.setCore_read_knk (d : Dev) (k : Nat) (c : Core) (q : Nat) : (d.setCore k c).knk q = d.knk q := rfl
@[simp] theorem Dev.setCore_read_lane (d : Dev) (k : Nat) (c : Core) (die' e' : Nat) : (d.setCore k c).lane die' e' = d.lane die' e' := rfl
@[simp] theorem Dev.setCore_read_port (d : Dev) (k : Nat) (c : Core) (q : Nat) : (d.setCore k c).port q = d.port q := rfl
@[simp] theorem Dev.setCore_read_qp (d : Dev) (k : Nat) (c : Core) (q : Nat) : (d.setCore k c).qp q = d.qp q := rfl
@[simp] theorem Dev.setCore_read_stew (d : Dev) (k : Nat) (c : Core) (q : Nat) : (d.setCore k c).stew q = d.stew q := rfl
@[simp] theorem Dev.setCore_read_site (d : Dev) (k : Nat) (c : Core) (q : Nat) : (d.setCore k c).site q = d.site q := rfl
@[simp] theorem Dev.setCore_read_ward (d : Dev) (k : Nat) (c : Core) (q : Nat) : (d.setCore k c).ward q = d.ward q := rfl
@[simp] theorem Dev.setCore_read_tick (d : Dev) (k : Nat) (c : Core) (q : Nat) : (d.setCore k c).tick q = d.tick q := rfl
@[simp] theorem Dev.setCore_read_pwOf (d : Dev) (k : Nat) (c : Core) (q : Nat) : (d.setCore k c).pwOf q = d.pwOf q := rfl
@[simp] theorem Dev.setCore_read_aonUp (d : Dev) (k : Nat) (c : Core) (q : Nat) : (d.setCore k c).aonUp q = d.aonUp q := rfl
@[simp] theorem Dev.setCore_coreAt_self (d : Dev) (k : Nat) (c : Core) : (d.setCore k c).coreAt k = c := by
  unfold Dev.setCore Dev.coreAt
  rw [KMap.atD_put, if_pos rfl]

/-! setCell -/

@[simp] theorem Dev.setCell_fuse (d : Dev) (cn : Nat) (c : CellSt) : (d.setCell cn c).fuse = d.fuse := rfl
@[simp] theorem Dev.setCell_pw (d : Dev) (cn : Nat) (c : CellSt) : (d.setCell cn c).pw = d.pw := rfl
@[simp] theorem Dev.setCell_aon (d : Dev) (cn : Nat) (c : CellSt) : (d.setCell cn c).aon = d.aon := rfl
@[simp] theorem Dev.setCell_rf (d : Dev) (cn : Nat) (c : CellSt) : (d.setCell cn c).rf = d.rf := rfl
@[simp] theorem Dev.setCell_capt (d : Dev) (cn : Nat) (c : CellSt) : (d.setCell cn c).capt = d.capt := rfl
@[simp] theorem Dev.setCell_held (d : Dev) (cn : Nat) (c : CellSt) : (d.setCell cn c).held = d.held := rfl
@[simp] theorem Dev.setCell_free (d : Dev) (cn : Nat) (c : CellSt) : (d.setCell cn c).free = d.free := rfl
@[simp] theorem Dev.setCell_mem (d : Dev) (cn : Nat) (c : CellSt) : (d.setCell cn c).mem = d.mem := rfl
@[simp] theorem Dev.setCell_unwritten (d : Dev) (cn : Nat) (c : CellSt) : (d.setCell cn c).unwritten = d.unwritten := rfl
@[simp] theorem Dev.setCell_errs (d : Dev) (cn : Nat) (c : CellSt) : (d.setCell cn c).errs = d.errs := rfl
@[simp] theorem Dev.setCell_lcnt (d : Dev) (cn : Nat) (c : CellSt) : (d.setCell cn c).lcnt = d.lcnt := rfl
@[simp] theorem Dev.setCell_cores (d : Dev) (cn : Nat) (c : CellSt) : (d.setCell cn c).cores = d.cores := rfl
@[simp] theorem Dev.setCell_cells_now (d : Dev) (cn : Nat) (c : CellSt) : (d.setCell cn c).cells = d.cells.put cn c := rfl
@[simp] theorem Dev.setCell_cellPart (d : Dev) (cn : Nat) (c : CellSt) : (d.setCell cn c).cellPart = d.cellPart := rfl
@[simp] theorem Dev.setCell_tmb (d : Dev) (cn : Nat) (c : CellSt) : (d.setCell cn c).tmb = d.tmb := rfl
@[simp] theorem Dev.setCell_waits (d : Dev) (cn : Nat) (c : CellSt) : (d.setCell cn c).waits = d.waits := rfl
@[simp] theorem Dev.setCell_swGen (d : Dev) (cn : Nat) (c : CellSt) : (d.setCell cn c).swGen = d.swGen := rfl
@[simp] theorem Dev.setCell_ctl (d : Dev) (cn : Nat) (c : CellSt) : (d.setCell cn c).ctl = d.ctl := rfl
@[simp] theorem Dev.setCell_net (d : Dev) (cn : Nat) (c : CellSt) : (d.setCell cn c).net = d.net := rfl
@[simp] theorem Dev.setCell_sqn (d : Dev) (cn : Nat) (c : CellSt) : (d.setCell cn c).sqn = d.sqn := rfl
@[simp] theorem Dev.setCell_engs (d : Dev) (cn : Nat) (c : CellSt) : (d.setCell cn c).engs = d.engs := rfl
@[simp] theorem Dev.setCell_unfs (d : Dev) (cn : Nat) (c : CellSt) : (d.setCell cn c).unfs = d.unfs := rfl
@[simp] theorem Dev.setCell_dsps (d : Dev) (cn : Nat) (c : CellSt) : (d.setCell cn c).dsps = d.dsps := rfl
@[simp] theorem Dev.setCell_bq (d : Dev) (cn : Nat) (c : CellSt) : (d.setCell cn c).bq = d.bq := rfl
@[simp] theorem Dev.setCell_rdq (d : Dev) (cn : Nat) (c : CellSt) : (d.setCell cn c).rdq = d.rdq := rfl
@[simp] theorem Dev.setCell_wrq (d : Dev) (cn : Nat) (c : CellSt) : (d.setCell cn c).wrq = d.wrq := rfl
@[simp] theorem Dev.setCell_rows (d : Dev) (cn : Nat) (c : CellSt) : (d.setCell cn c).rows = d.rows := rfl
@[simp] theorem Dev.setCell_hbm (d : Dev) (cn : Nat) (c : CellSt) : (d.setCell cn c).hbm = d.hbm := rfl
@[simp] theorem Dev.setCell_narrow (d : Dev) (cn : Nat) (c : CellSt) : (d.setCell cn c).narrow = d.narrow := rfl
@[simp] theorem Dev.setCell_conv (d : Dev) (cn : Nat) (c : CellSt) : (d.setCell cn c).conv = d.conv := rfl
@[simp] theorem Dev.setCell_merge (d : Dev) (cn : Nat) (c : CellSt) : (d.setCell cn c).merge = d.merge := rfl
@[simp] theorem Dev.setCell_scrub (d : Dev) (cn : Nat) (c : CellSt) : (d.setCell cn c).scrub = d.scrub := rfl
@[simp] theorem Dev.setCell_wback (d : Dev) (cn : Nat) (c : CellSt) : (d.setCell cn c).wback = d.wback := rfl
@[simp] theorem Dev.setCell_stest (d : Dev) (cn : Nat) (c : CellSt) : (d.setCell cn c).stest = d.stest := rfl
@[simp] theorem Dev.setCell_zfill (d : Dev) (cn : Nat) (c : CellSt) : (d.setCell cn c).zfill = d.zfill := rfl
@[simp] theorem Dev.setCell_memtest (d : Dev) (cn : Nat) (c : CellSt) : (d.setCell cn c).memtest = d.memtest := rfl
@[simp] theorem Dev.setCell_krg (d : Dev) (cn : Nat) (c : CellSt) : (d.setCell cn c).krg = d.krg := rfl
@[simp] theorem Dev.setCell_krgP (d : Dev) (cn : Nat) (c : CellSt) : (d.setCell cn c).krgP = d.krgP := rfl
@[simp] theorem Dev.setCell_drains (d : Dev) (cn : Nat) (c : CellSt) : (d.setCell cn c).drains = d.drains := rfl
@[simp] theorem Dev.setCell_stwIo (d : Dev) (cn : Nat) (c : CellSt) : (d.setCell cn c).stwIo = d.stwIo := rfl
@[simp] theorem Dev.setCell_flinks (d : Dev) (cn : Nat) (c : CellSt) : (d.setCell cn c).flinks = d.flinks := rfl
@[simp] theorem Dev.setCell_knks (d : Dev) (cn : Nat) (c : CellSt) : (d.setCell cn c).knks = d.knks := rfl
@[simp] theorem Dev.setCell_knkPend (d : Dev) (cn : Nat) (c : CellSt) : (d.setCell cn c).knkPend = d.knkPend := rfl
@[simp] theorem Dev.setCell_mapUpd (d : Dev) (cn : Nat) (c : CellSt) : (d.setCell cn c).mapUpd = d.mapUpd := rfl
@[simp] theorem Dev.setCell_sites (d : Dev) (cn : Nat) (c : CellSt) : (d.setCell cn c).sites = d.sites := rfl
@[simp] theorem Dev.setCell_alert (d : Dev) (cn : Nat) (c : CellSt) : (d.setCell cn c).alert = d.alert := rfl
@[simp] theorem Dev.setCell_tripN (d : Dev) (cn : Nat) (c : CellSt) : (d.setCell cn c).tripN = d.tripN := rfl
@[simp] theorem Dev.setCell_irqs (d : Dev) (cn : Nat) (c : CellSt) : (d.setCell cn c).irqs = d.irqs := rfl
@[simp] theorem Dev.setCell_lanes (d : Dev) (cn : Nat) (c : CellSt) : (d.setCell cn c).lanes = d.lanes := rfl
@[simp] theorem Dev.setCell_ports (d : Dev) (cn : Nat) (c : CellSt) : (d.setCell cn c).ports = d.ports := rfl
@[simp] theorem Dev.setCell_eths (d : Dev) (cn : Nat) (c : CellSt) : (d.setCell cn c).eths = d.eths := rfl
@[simp] theorem Dev.setCell_qps (d : Dev) (cn : Nat) (c : CellSt) : (d.setCell cn c).qps = d.qps := rfl
@[simp] theorem Dev.setCell_mbxIn (d : Dev) (cn : Nat) (c : CellSt) : (d.setCell cn c).mbxIn = d.mbxIn := rfl
@[simp] theorem Dev.setCell_stews (d : Dev) (cn : Nat) (c : CellSt) : (d.setCell cn c).stews = d.stews := rfl
@[simp] theorem Dev.setCell_parts (d : Dev) (cn : Nat) (c : CellSt) : (d.setCell cn c).parts = d.parts := rfl
@[simp] theorem Dev.setCell_wards (d : Dev) (cn : Nat) (c : CellSt) : (d.setCell cn c).wards = d.wards := rfl
@[simp] theorem Dev.setCell_pws (d : Dev) (cn : Nat) (c : CellSt) : (d.setCell cn c).pws = d.pws := rfl
@[simp] theorem Dev.setCell_chunks (d : Dev) (cn : Nat) (c : CellSt) : (d.setCell cn c).chunks = d.chunks := rfl
@[simp] theorem Dev.setCell_i3c (d : Dev) (cn : Nat) (c : CellSt) : (d.setCell cn c).i3c = d.i3c := rfl
@[simp] theorem Dev.setCell_i3cOut (d : Dev) (cn : Nat) (c : CellSt) : (d.setCell cn c).i3cOut = d.i3cOut := rfl
@[simp] theorem Dev.setCell_flash (d : Dev) (cn : Nat) (c : CellSt) : (d.setCell cn c).flash = d.flash := rfl
@[simp] theorem Dev.setCell_read_raw (d : Dev) (cn : Nat) (c : CellSt) (r : RKey) : (d.setCell cn c).raw r = d.raw r := rfl
@[simp] theorem Dev.setCell_read_get (d : Dev) (cn : Nat) (c : CellSt) (g : Fld) (die' i' s' : Nat) : (d.setCell cn c).get g die' i' s' = d.get g die' i' s' := rfl
@[simp] theorem Dev.setCell_read_coreAt (d : Dev) (cn : Nat) (c : CellSt) (q : Nat) : (d.setCell cn c).coreAt q = d.coreAt q := rfl
@[simp] theorem Dev.setCell_read_partOf (d : Dev) (cn : Nat) (c : CellSt) (q : Nat) : (d.setCell cn c).partOf q = d.partOf q := rfl
@[simp] theorem Dev.setCell_read_tumbler (d : Dev) (cn : Nat) (c : CellSt) (die' j : Nat) : (d.setCell cn c).tumbler die' j = d.tumbler die' j := rfl
@[simp] theorem Dev.setCell_read_eng (d : Dev) (cn : Nat) (c : CellSt) (die' e' : Nat) : (d.setCell cn c).eng die' e' = d.eng die' e' := rfl
@[simp] theorem Dev.setCell_read_unfAt (d : Dev) (cn : Nat) (c : CellSt) (die' e' : Nat) : (d.setCell cn c).unfAt die' e' = d.unfAt die' e' := rfl
@[simp] theorem Dev.setCell_read_dsp (d : Dev) (cn : Nat) (c : CellSt) (q : Nat) : (d.setCell cn c).dsp q = d.dsp q := rfl
@[simp] theorem Dev.setCell_read_eth (d : Dev) (cn : Nat) (c : CellSt) (die' e' : Nat) : (d.setCell cn c).eth die' e' = d.eth die' e' := rfl
@[simp] theorem Dev.setCell_read_hbmAt (d : Dev) (cn : Nat) (c : CellSt) (die' e' : Nat) : (d.setCell cn c).hbmAt die' e' = d.hbmAt die' e' := rfl
@[simp] theorem Dev.setCell_read_flink (d : Dev) (cn : Nat) (c : CellSt) (die' e' : Nat) : (d.setCell cn c).flink die' e' = d.flink die' e' := rfl
@[simp] theorem Dev.setCell_read_knk (d : Dev) (cn : Nat) (c : CellSt) (q : Nat) : (d.setCell cn c).knk q = d.knk q := rfl
@[simp] theorem Dev.setCell_read_lane (d : Dev) (cn : Nat) (c : CellSt) (die' e' : Nat) : (d.setCell cn c).lane die' e' = d.lane die' e' := rfl
@[simp] theorem Dev.setCell_read_port (d : Dev) (cn : Nat) (c : CellSt) (q : Nat) : (d.setCell cn c).port q = d.port q := rfl
@[simp] theorem Dev.setCell_read_qp (d : Dev) (cn : Nat) (c : CellSt) (q : Nat) : (d.setCell cn c).qp q = d.qp q := rfl
@[simp] theorem Dev.setCell_read_stew (d : Dev) (cn : Nat) (c : CellSt) (q : Nat) : (d.setCell cn c).stew q = d.stew q := rfl
@[simp] theorem Dev.setCell_read_site (d : Dev) (cn : Nat) (c : CellSt) (q : Nat) : (d.setCell cn c).site q = d.site q := rfl
@[simp] theorem Dev.setCell_read_ward (d : Dev) (cn : Nat) (c : CellSt) (q : Nat) : (d.setCell cn c).ward q = d.ward q := rfl
@[simp] theorem Dev.setCell_read_tick (d : Dev) (cn : Nat) (c : CellSt) (q : Nat) : (d.setCell cn c).tick q = d.tick q := rfl
@[simp] theorem Dev.setCell_read_pwOf (d : Dev) (cn : Nat) (c : CellSt) (q : Nat) : (d.setCell cn c).pwOf q = d.pwOf q := rfl
@[simp] theorem Dev.setCell_read_aonUp (d : Dev) (cn : Nat) (c : CellSt) (q : Nat) : (d.setCell cn c).aonUp q = d.aonUp q := rfl
@[simp] theorem Dev.setCell_cellAt_self (d : Dev) (cn : Nat) (c : CellSt) : (d.setCell cn c).cellAt cn = c := by
  unfold Dev.setCell Dev.cellAt
  rw [KMap.atD_put, if_pos rfl]

/-! setTumbler -/

@[simp] theorem Dev.setTumbler_fuse (d : Dev) (die idx v : Nat) : (d.setTumbler die idx v).fuse = d.fuse := rfl
@[simp] theorem Dev.setTumbler_pw (d : Dev) (die idx v : Nat) : (d.setTumbler die idx v).pw = d.pw := rfl
@[simp] theorem Dev.setTumbler_aon (d : Dev) (die idx v : Nat) : (d.setTumbler die idx v).aon = d.aon := rfl
@[simp] theorem Dev.setTumbler_rf (d : Dev) (die idx v : Nat) : (d.setTumbler die idx v).rf = d.rf := rfl
@[simp] theorem Dev.setTumbler_capt (d : Dev) (die idx v : Nat) : (d.setTumbler die idx v).capt = d.capt := rfl
@[simp] theorem Dev.setTumbler_held (d : Dev) (die idx v : Nat) : (d.setTumbler die idx v).held = d.held := rfl
@[simp] theorem Dev.setTumbler_free (d : Dev) (die idx v : Nat) : (d.setTumbler die idx v).free = d.free := rfl
@[simp] theorem Dev.setTumbler_mem (d : Dev) (die idx v : Nat) : (d.setTumbler die idx v).mem = d.mem := rfl
@[simp] theorem Dev.setTumbler_unwritten (d : Dev) (die idx v : Nat) : (d.setTumbler die idx v).unwritten = d.unwritten := rfl
@[simp] theorem Dev.setTumbler_errs (d : Dev) (die idx v : Nat) : (d.setTumbler die idx v).errs = d.errs := rfl
@[simp] theorem Dev.setTumbler_lcnt (d : Dev) (die idx v : Nat) : (d.setTumbler die idx v).lcnt = d.lcnt := rfl
@[simp] theorem Dev.setTumbler_cores (d : Dev) (die idx v : Nat) : (d.setTumbler die idx v).cores = d.cores := rfl
@[simp] theorem Dev.setTumbler_cells (d : Dev) (die idx v : Nat) : (d.setTumbler die idx v).cells = d.cells := rfl
@[simp] theorem Dev.setTumbler_cellPart (d : Dev) (die idx v : Nat) : (d.setTumbler die idx v).cellPart = d.cellPart := rfl
@[simp] theorem Dev.setTumbler_tmb_now (d : Dev) (die idx v : Nat) : (d.setTumbler die idx v).tmb = d.tmb.put (tmbKey die idx) (BitVec.ofNat 32 v) := rfl
@[simp] theorem Dev.setTumbler_waits (d : Dev) (die idx v : Nat) : (d.setTumbler die idx v).waits = d.waits := rfl
@[simp] theorem Dev.setTumbler_swGen (d : Dev) (die idx v : Nat) : (d.setTumbler die idx v).swGen = d.swGen := rfl
@[simp] theorem Dev.setTumbler_ctl (d : Dev) (die idx v : Nat) : (d.setTumbler die idx v).ctl = d.ctl := rfl
@[simp] theorem Dev.setTumbler_net (d : Dev) (die idx v : Nat) : (d.setTumbler die idx v).net = d.net := rfl
@[simp] theorem Dev.setTumbler_sqn (d : Dev) (die idx v : Nat) : (d.setTumbler die idx v).sqn = d.sqn := rfl
@[simp] theorem Dev.setTumbler_engs (d : Dev) (die idx v : Nat) : (d.setTumbler die idx v).engs = d.engs := rfl
@[simp] theorem Dev.setTumbler_unfs (d : Dev) (die idx v : Nat) : (d.setTumbler die idx v).unfs = d.unfs := rfl
@[simp] theorem Dev.setTumbler_dsps (d : Dev) (die idx v : Nat) : (d.setTumbler die idx v).dsps = d.dsps := rfl
@[simp] theorem Dev.setTumbler_bq (d : Dev) (die idx v : Nat) : (d.setTumbler die idx v).bq = d.bq := rfl
@[simp] theorem Dev.setTumbler_rdq (d : Dev) (die idx v : Nat) : (d.setTumbler die idx v).rdq = d.rdq := rfl
@[simp] theorem Dev.setTumbler_wrq (d : Dev) (die idx v : Nat) : (d.setTumbler die idx v).wrq = d.wrq := rfl
@[simp] theorem Dev.setTumbler_rows (d : Dev) (die idx v : Nat) : (d.setTumbler die idx v).rows = d.rows := rfl
@[simp] theorem Dev.setTumbler_hbm (d : Dev) (die idx v : Nat) : (d.setTumbler die idx v).hbm = d.hbm := rfl
@[simp] theorem Dev.setTumbler_narrow (d : Dev) (die idx v : Nat) : (d.setTumbler die idx v).narrow = d.narrow := rfl
@[simp] theorem Dev.setTumbler_conv (d : Dev) (die idx v : Nat) : (d.setTumbler die idx v).conv = d.conv := rfl
@[simp] theorem Dev.setTumbler_merge (d : Dev) (die idx v : Nat) : (d.setTumbler die idx v).merge = d.merge := rfl
@[simp] theorem Dev.setTumbler_scrub (d : Dev) (die idx v : Nat) : (d.setTumbler die idx v).scrub = d.scrub := rfl
@[simp] theorem Dev.setTumbler_wback (d : Dev) (die idx v : Nat) : (d.setTumbler die idx v).wback = d.wback := rfl
@[simp] theorem Dev.setTumbler_stest (d : Dev) (die idx v : Nat) : (d.setTumbler die idx v).stest = d.stest := rfl
@[simp] theorem Dev.setTumbler_zfill (d : Dev) (die idx v : Nat) : (d.setTumbler die idx v).zfill = d.zfill := rfl
@[simp] theorem Dev.setTumbler_memtest (d : Dev) (die idx v : Nat) : (d.setTumbler die idx v).memtest = d.memtest := rfl
@[simp] theorem Dev.setTumbler_krg (d : Dev) (die idx v : Nat) : (d.setTumbler die idx v).krg = d.krg := rfl
@[simp] theorem Dev.setTumbler_krgP (d : Dev) (die idx v : Nat) : (d.setTumbler die idx v).krgP = d.krgP := rfl
@[simp] theorem Dev.setTumbler_drains (d : Dev) (die idx v : Nat) : (d.setTumbler die idx v).drains = d.drains := rfl
@[simp] theorem Dev.setTumbler_stwIo (d : Dev) (die idx v : Nat) : (d.setTumbler die idx v).stwIo = d.stwIo := rfl
@[simp] theorem Dev.setTumbler_flinks (d : Dev) (die idx v : Nat) : (d.setTumbler die idx v).flinks = d.flinks := rfl
@[simp] theorem Dev.setTumbler_knks (d : Dev) (die idx v : Nat) : (d.setTumbler die idx v).knks = d.knks := rfl
@[simp] theorem Dev.setTumbler_knkPend (d : Dev) (die idx v : Nat) : (d.setTumbler die idx v).knkPend = d.knkPend := rfl
@[simp] theorem Dev.setTumbler_mapUpd (d : Dev) (die idx v : Nat) : (d.setTumbler die idx v).mapUpd = d.mapUpd := rfl
@[simp] theorem Dev.setTumbler_sites (d : Dev) (die idx v : Nat) : (d.setTumbler die idx v).sites = d.sites := rfl
@[simp] theorem Dev.setTumbler_alert (d : Dev) (die idx v : Nat) : (d.setTumbler die idx v).alert = d.alert := rfl
@[simp] theorem Dev.setTumbler_tripN (d : Dev) (die idx v : Nat) : (d.setTumbler die idx v).tripN = d.tripN := rfl
@[simp] theorem Dev.setTumbler_irqs (d : Dev) (die idx v : Nat) : (d.setTumbler die idx v).irqs = d.irqs := rfl
@[simp] theorem Dev.setTumbler_lanes (d : Dev) (die idx v : Nat) : (d.setTumbler die idx v).lanes = d.lanes := rfl
@[simp] theorem Dev.setTumbler_ports (d : Dev) (die idx v : Nat) : (d.setTumbler die idx v).ports = d.ports := rfl
@[simp] theorem Dev.setTumbler_eths (d : Dev) (die idx v : Nat) : (d.setTumbler die idx v).eths = d.eths := rfl
@[simp] theorem Dev.setTumbler_qps (d : Dev) (die idx v : Nat) : (d.setTumbler die idx v).qps = d.qps := rfl
@[simp] theorem Dev.setTumbler_mbxIn (d : Dev) (die idx v : Nat) : (d.setTumbler die idx v).mbxIn = d.mbxIn := rfl
@[simp] theorem Dev.setTumbler_stews (d : Dev) (die idx v : Nat) : (d.setTumbler die idx v).stews = d.stews := rfl
@[simp] theorem Dev.setTumbler_parts (d : Dev) (die idx v : Nat) : (d.setTumbler die idx v).parts = d.parts := rfl
@[simp] theorem Dev.setTumbler_wards (d : Dev) (die idx v : Nat) : (d.setTumbler die idx v).wards = d.wards := rfl
@[simp] theorem Dev.setTumbler_pws (d : Dev) (die idx v : Nat) : (d.setTumbler die idx v).pws = d.pws := rfl
@[simp] theorem Dev.setTumbler_chunks (d : Dev) (die idx v : Nat) : (d.setTumbler die idx v).chunks = d.chunks := rfl
@[simp] theorem Dev.setTumbler_i3c (d : Dev) (die idx v : Nat) : (d.setTumbler die idx v).i3c = d.i3c := rfl
@[simp] theorem Dev.setTumbler_i3cOut (d : Dev) (die idx v : Nat) : (d.setTumbler die idx v).i3cOut = d.i3cOut := rfl
@[simp] theorem Dev.setTumbler_flash (d : Dev) (die idx v : Nat) : (d.setTumbler die idx v).flash = d.flash := rfl
@[simp] theorem Dev.setTumbler_read_raw (d : Dev) (die idx v : Nat) (r : RKey) : (d.setTumbler die idx v).raw r = d.raw r := rfl
@[simp] theorem Dev.setTumbler_read_get (d : Dev) (die idx v : Nat) (g : Fld) (die' i' s' : Nat) : (d.setTumbler die idx v).get g die' i' s' = d.get g die' i' s' := rfl
@[simp] theorem Dev.setTumbler_read_coreAt (d : Dev) (die idx v : Nat) (q : Nat) : (d.setTumbler die idx v).coreAt q = d.coreAt q := rfl
@[simp] theorem Dev.setTumbler_read_cellAt (d : Dev) (die idx v : Nat) (q : Nat) : (d.setTumbler die idx v).cellAt q = d.cellAt q := rfl
@[simp] theorem Dev.setTumbler_read_partOf (d : Dev) (die idx v : Nat) (q : Nat) : (d.setTumbler die idx v).partOf q = d.partOf q := rfl
@[simp] theorem Dev.setTumbler_read_eng (d : Dev) (die idx v : Nat) (die' e' : Nat) : (d.setTumbler die idx v).eng die' e' = d.eng die' e' := rfl
@[simp] theorem Dev.setTumbler_read_unfAt (d : Dev) (die idx v : Nat) (die' e' : Nat) : (d.setTumbler die idx v).unfAt die' e' = d.unfAt die' e' := rfl
@[simp] theorem Dev.setTumbler_read_dsp (d : Dev) (die idx v : Nat) (q : Nat) : (d.setTumbler die idx v).dsp q = d.dsp q := rfl
@[simp] theorem Dev.setTumbler_read_eth (d : Dev) (die idx v : Nat) (die' e' : Nat) : (d.setTumbler die idx v).eth die' e' = d.eth die' e' := rfl
@[simp] theorem Dev.setTumbler_read_hbmAt (d : Dev) (die idx v : Nat) (die' e' : Nat) : (d.setTumbler die idx v).hbmAt die' e' = d.hbmAt die' e' := rfl
@[simp] theorem Dev.setTumbler_read_flink (d : Dev) (die idx v : Nat) (die' e' : Nat) : (d.setTumbler die idx v).flink die' e' = d.flink die' e' := rfl
@[simp] theorem Dev.setTumbler_read_knk (d : Dev) (die idx v : Nat) (q : Nat) : (d.setTumbler die idx v).knk q = d.knk q := rfl
@[simp] theorem Dev.setTumbler_read_lane (d : Dev) (die idx v : Nat) (die' e' : Nat) : (d.setTumbler die idx v).lane die' e' = d.lane die' e' := rfl
@[simp] theorem Dev.setTumbler_read_port (d : Dev) (die idx v : Nat) (q : Nat) : (d.setTumbler die idx v).port q = d.port q := rfl
@[simp] theorem Dev.setTumbler_read_qp (d : Dev) (die idx v : Nat) (q : Nat) : (d.setTumbler die idx v).qp q = d.qp q := rfl
@[simp] theorem Dev.setTumbler_read_stew (d : Dev) (die idx v : Nat) (q : Nat) : (d.setTumbler die idx v).stew q = d.stew q := rfl
@[simp] theorem Dev.setTumbler_read_site (d : Dev) (die idx v : Nat) (q : Nat) : (d.setTumbler die idx v).site q = d.site q := rfl
@[simp] theorem Dev.setTumbler_read_ward (d : Dev) (die idx v : Nat) (q : Nat) : (d.setTumbler die idx v).ward q = d.ward q := rfl
@[simp] theorem Dev.setTumbler_read_tick (d : Dev) (die idx v : Nat) (q : Nat) : (d.setTumbler die idx v).tick q = d.tick q := rfl
@[simp] theorem Dev.setTumbler_read_pwOf (d : Dev) (die idx v : Nat) (q : Nat) : (d.setTumbler die idx v).pwOf q = d.pwOf q := rfl
@[simp] theorem Dev.setTumbler_read_aonUp (d : Dev) (die idx v : Nat) (q : Nat) : (d.setTumbler die idx v).aonUp q = d.aonUp q := rfl

/-! send -/

@[simp] theorem Dev.send_fuse (d : Dev) (m : CtlMsg) : (d.send m).fuse = d.fuse := rfl
@[simp] theorem Dev.send_pw (d : Dev) (m : CtlMsg) : (d.send m).pw = d.pw := rfl
@[simp] theorem Dev.send_aon (d : Dev) (m : CtlMsg) : (d.send m).aon = d.aon := rfl
@[simp] theorem Dev.send_rf (d : Dev) (m : CtlMsg) : (d.send m).rf = d.rf := rfl
@[simp] theorem Dev.send_capt (d : Dev) (m : CtlMsg) : (d.send m).capt = d.capt := rfl
@[simp] theorem Dev.send_held (d : Dev) (m : CtlMsg) : (d.send m).held = d.held := rfl
@[simp] theorem Dev.send_free (d : Dev) (m : CtlMsg) : (d.send m).free = d.free := rfl
@[simp] theorem Dev.send_mem (d : Dev) (m : CtlMsg) : (d.send m).mem = d.mem := rfl
@[simp] theorem Dev.send_unwritten (d : Dev) (m : CtlMsg) : (d.send m).unwritten = d.unwritten := rfl
@[simp] theorem Dev.send_errs (d : Dev) (m : CtlMsg) : (d.send m).errs = d.errs := rfl
@[simp] theorem Dev.send_lcnt (d : Dev) (m : CtlMsg) : (d.send m).lcnt = d.lcnt := rfl
@[simp] theorem Dev.send_cores (d : Dev) (m : CtlMsg) : (d.send m).cores = d.cores := rfl
@[simp] theorem Dev.send_cells (d : Dev) (m : CtlMsg) : (d.send m).cells = d.cells := rfl
@[simp] theorem Dev.send_cellPart (d : Dev) (m : CtlMsg) : (d.send m).cellPart = d.cellPart := rfl
@[simp] theorem Dev.send_tmb (d : Dev) (m : CtlMsg) : (d.send m).tmb = d.tmb := rfl
@[simp] theorem Dev.send_waits (d : Dev) (m : CtlMsg) : (d.send m).waits = d.waits := rfl
@[simp] theorem Dev.send_swGen (d : Dev) (m : CtlMsg) : (d.send m).swGen = d.swGen := rfl
@[simp] theorem Dev.send_ctl_now (d : Dev) (m : CtlMsg) : (d.send m).ctl = d.ctl ++ [m] := rfl
@[simp] theorem Dev.send_net (d : Dev) (m : CtlMsg) : (d.send m).net = d.net := rfl
@[simp] theorem Dev.send_sqn (d : Dev) (m : CtlMsg) : (d.send m).sqn = d.sqn := rfl
@[simp] theorem Dev.send_engs (d : Dev) (m : CtlMsg) : (d.send m).engs = d.engs := rfl
@[simp] theorem Dev.send_unfs (d : Dev) (m : CtlMsg) : (d.send m).unfs = d.unfs := rfl
@[simp] theorem Dev.send_dsps (d : Dev) (m : CtlMsg) : (d.send m).dsps = d.dsps := rfl
@[simp] theorem Dev.send_bq (d : Dev) (m : CtlMsg) : (d.send m).bq = d.bq := rfl
@[simp] theorem Dev.send_rdq (d : Dev) (m : CtlMsg) : (d.send m).rdq = d.rdq := rfl
@[simp] theorem Dev.send_wrq (d : Dev) (m : CtlMsg) : (d.send m).wrq = d.wrq := rfl
@[simp] theorem Dev.send_rows (d : Dev) (m : CtlMsg) : (d.send m).rows = d.rows := rfl
@[simp] theorem Dev.send_hbm (d : Dev) (m : CtlMsg) : (d.send m).hbm = d.hbm := rfl
@[simp] theorem Dev.send_narrow (d : Dev) (m : CtlMsg) : (d.send m).narrow = d.narrow := rfl
@[simp] theorem Dev.send_conv (d : Dev) (m : CtlMsg) : (d.send m).conv = d.conv := rfl
@[simp] theorem Dev.send_merge (d : Dev) (m : CtlMsg) : (d.send m).merge = d.merge := rfl
@[simp] theorem Dev.send_scrub (d : Dev) (m : CtlMsg) : (d.send m).scrub = d.scrub := rfl
@[simp] theorem Dev.send_wback (d : Dev) (m : CtlMsg) : (d.send m).wback = d.wback := rfl
@[simp] theorem Dev.send_stest (d : Dev) (m : CtlMsg) : (d.send m).stest = d.stest := rfl
@[simp] theorem Dev.send_zfill (d : Dev) (m : CtlMsg) : (d.send m).zfill = d.zfill := rfl
@[simp] theorem Dev.send_memtest (d : Dev) (m : CtlMsg) : (d.send m).memtest = d.memtest := rfl
@[simp] theorem Dev.send_krg (d : Dev) (m : CtlMsg) : (d.send m).krg = d.krg := rfl
@[simp] theorem Dev.send_krgP (d : Dev) (m : CtlMsg) : (d.send m).krgP = d.krgP := rfl
@[simp] theorem Dev.send_drains (d : Dev) (m : CtlMsg) : (d.send m).drains = d.drains := rfl
@[simp] theorem Dev.send_stwIo (d : Dev) (m : CtlMsg) : (d.send m).stwIo = d.stwIo := rfl
@[simp] theorem Dev.send_flinks (d : Dev) (m : CtlMsg) : (d.send m).flinks = d.flinks := rfl
@[simp] theorem Dev.send_knks (d : Dev) (m : CtlMsg) : (d.send m).knks = d.knks := rfl
@[simp] theorem Dev.send_knkPend (d : Dev) (m : CtlMsg) : (d.send m).knkPend = d.knkPend := rfl
@[simp] theorem Dev.send_mapUpd (d : Dev) (m : CtlMsg) : (d.send m).mapUpd = d.mapUpd := rfl
@[simp] theorem Dev.send_sites (d : Dev) (m : CtlMsg) : (d.send m).sites = d.sites := rfl
@[simp] theorem Dev.send_alert (d : Dev) (m : CtlMsg) : (d.send m).alert = d.alert := rfl
@[simp] theorem Dev.send_tripN (d : Dev) (m : CtlMsg) : (d.send m).tripN = d.tripN := rfl
@[simp] theorem Dev.send_irqs (d : Dev) (m : CtlMsg) : (d.send m).irqs = d.irqs := rfl
@[simp] theorem Dev.send_lanes (d : Dev) (m : CtlMsg) : (d.send m).lanes = d.lanes := rfl
@[simp] theorem Dev.send_ports (d : Dev) (m : CtlMsg) : (d.send m).ports = d.ports := rfl
@[simp] theorem Dev.send_eths (d : Dev) (m : CtlMsg) : (d.send m).eths = d.eths := rfl
@[simp] theorem Dev.send_qps (d : Dev) (m : CtlMsg) : (d.send m).qps = d.qps := rfl
@[simp] theorem Dev.send_mbxIn (d : Dev) (m : CtlMsg) : (d.send m).mbxIn = d.mbxIn := rfl
@[simp] theorem Dev.send_stews (d : Dev) (m : CtlMsg) : (d.send m).stews = d.stews := rfl
@[simp] theorem Dev.send_parts (d : Dev) (m : CtlMsg) : (d.send m).parts = d.parts := rfl
@[simp] theorem Dev.send_wards (d : Dev) (m : CtlMsg) : (d.send m).wards = d.wards := rfl
@[simp] theorem Dev.send_pws (d : Dev) (m : CtlMsg) : (d.send m).pws = d.pws := rfl
@[simp] theorem Dev.send_chunks (d : Dev) (m : CtlMsg) : (d.send m).chunks = d.chunks := rfl
@[simp] theorem Dev.send_i3c (d : Dev) (m : CtlMsg) : (d.send m).i3c = d.i3c := rfl
@[simp] theorem Dev.send_i3cOut (d : Dev) (m : CtlMsg) : (d.send m).i3cOut = d.i3cOut := rfl
@[simp] theorem Dev.send_flash (d : Dev) (m : CtlMsg) : (d.send m).flash = d.flash := rfl
@[simp] theorem Dev.send_read_raw (d : Dev) (m : CtlMsg) (r : RKey) : (d.send m).raw r = d.raw r := rfl
@[simp] theorem Dev.send_read_get (d : Dev) (m : CtlMsg) (g : Fld) (die' i' s' : Nat) : (d.send m).get g die' i' s' = d.get g die' i' s' := rfl
@[simp] theorem Dev.send_read_coreAt (d : Dev) (m : CtlMsg) (q : Nat) : (d.send m).coreAt q = d.coreAt q := rfl
@[simp] theorem Dev.send_read_cellAt (d : Dev) (m : CtlMsg) (q : Nat) : (d.send m).cellAt q = d.cellAt q := rfl
@[simp] theorem Dev.send_read_partOf (d : Dev) (m : CtlMsg) (q : Nat) : (d.send m).partOf q = d.partOf q := rfl
@[simp] theorem Dev.send_read_tumbler (d : Dev) (m : CtlMsg) (die' j : Nat) : (d.send m).tumbler die' j = d.tumbler die' j := rfl
@[simp] theorem Dev.send_read_eng (d : Dev) (m : CtlMsg) (die' e' : Nat) : (d.send m).eng die' e' = d.eng die' e' := rfl
@[simp] theorem Dev.send_read_unfAt (d : Dev) (m : CtlMsg) (die' e' : Nat) : (d.send m).unfAt die' e' = d.unfAt die' e' := rfl
@[simp] theorem Dev.send_read_dsp (d : Dev) (m : CtlMsg) (q : Nat) : (d.send m).dsp q = d.dsp q := rfl
@[simp] theorem Dev.send_read_eth (d : Dev) (m : CtlMsg) (die' e' : Nat) : (d.send m).eth die' e' = d.eth die' e' := rfl
@[simp] theorem Dev.send_read_hbmAt (d : Dev) (m : CtlMsg) (die' e' : Nat) : (d.send m).hbmAt die' e' = d.hbmAt die' e' := rfl
@[simp] theorem Dev.send_read_flink (d : Dev) (m : CtlMsg) (die' e' : Nat) : (d.send m).flink die' e' = d.flink die' e' := rfl
@[simp] theorem Dev.send_read_knk (d : Dev) (m : CtlMsg) (q : Nat) : (d.send m).knk q = d.knk q := rfl
@[simp] theorem Dev.send_read_lane (d : Dev) (m : CtlMsg) (die' e' : Nat) : (d.send m).lane die' e' = d.lane die' e' := rfl
@[simp] theorem Dev.send_read_port (d : Dev) (m : CtlMsg) (q : Nat) : (d.send m).port q = d.port q := rfl
@[simp] theorem Dev.send_read_qp (d : Dev) (m : CtlMsg) (q : Nat) : (d.send m).qp q = d.qp q := rfl
@[simp] theorem Dev.send_read_stew (d : Dev) (m : CtlMsg) (q : Nat) : (d.send m).stew q = d.stew q := rfl
@[simp] theorem Dev.send_read_site (d : Dev) (m : CtlMsg) (q : Nat) : (d.send m).site q = d.site q := rfl
@[simp] theorem Dev.send_read_ward (d : Dev) (m : CtlMsg) (q : Nat) : (d.send m).ward q = d.ward q := rfl
@[simp] theorem Dev.send_read_tick (d : Dev) (m : CtlMsg) (q : Nat) : (d.send m).tick q = d.tick q := rfl
@[simp] theorem Dev.send_read_pwOf (d : Dev) (m : CtlMsg) (q : Nat) : (d.send m).pwOf q = d.pwOf q := rfl
@[simp] theorem Dev.send_read_aonUp (d : Dev) (m : CtlMsg) (q : Nat) : (d.send m).aonUp q = d.aonUp q := rfl

/-! sendOp -/

@[simp] theorem Dev.sendOp_fuse (d : Dev) (src : Ep) (opc slot gen home idx part val imm : Nat) : (d.sendOp src opc slot gen home idx part val imm).fuse = d.fuse := rfl
@[simp] theorem Dev.sendOp_pw (d : Dev) (src : Ep) (opc slot gen home idx part val imm : Nat) : (d.sendOp src opc slot gen home idx part val imm).pw = d.pw := rfl
@[simp] theorem Dev.sendOp_aon (d : Dev) (src : Ep) (opc slot gen home idx part val imm : Nat) : (d.sendOp src opc slot gen home idx part val imm).aon = d.aon := rfl
@[simp] theorem Dev.sendOp_rf (d : Dev) (src : Ep) (opc slot gen home idx part val imm : Nat) : (d.sendOp src opc slot gen home idx part val imm).rf = d.rf := rfl
@[simp] theorem Dev.sendOp_capt (d : Dev) (src : Ep) (opc slot gen home idx part val imm : Nat) : (d.sendOp src opc slot gen home idx part val imm).capt = d.capt := rfl
@[simp] theorem Dev.sendOp_held (d : Dev) (src : Ep) (opc slot gen home idx part val imm : Nat) : (d.sendOp src opc slot gen home idx part val imm).held = d.held := rfl
@[simp] theorem Dev.sendOp_free (d : Dev) (src : Ep) (opc slot gen home idx part val imm : Nat) : (d.sendOp src opc slot gen home idx part val imm).free = d.free := rfl
@[simp] theorem Dev.sendOp_mem (d : Dev) (src : Ep) (opc slot gen home idx part val imm : Nat) : (d.sendOp src opc slot gen home idx part val imm).mem = d.mem := rfl
@[simp] theorem Dev.sendOp_unwritten (d : Dev) (src : Ep) (opc slot gen home idx part val imm : Nat) : (d.sendOp src opc slot gen home idx part val imm).unwritten = d.unwritten := rfl
@[simp] theorem Dev.sendOp_errs (d : Dev) (src : Ep) (opc slot gen home idx part val imm : Nat) : (d.sendOp src opc slot gen home idx part val imm).errs = d.errs := rfl
@[simp] theorem Dev.sendOp_lcnt (d : Dev) (src : Ep) (opc slot gen home idx part val imm : Nat) : (d.sendOp src opc slot gen home idx part val imm).lcnt = d.lcnt := rfl
@[simp] theorem Dev.sendOp_cores (d : Dev) (src : Ep) (opc slot gen home idx part val imm : Nat) : (d.sendOp src opc slot gen home idx part val imm).cores = d.cores := rfl
@[simp] theorem Dev.sendOp_cells (d : Dev) (src : Ep) (opc slot gen home idx part val imm : Nat) : (d.sendOp src opc slot gen home idx part val imm).cells = d.cells := rfl
@[simp] theorem Dev.sendOp_cellPart (d : Dev) (src : Ep) (opc slot gen home idx part val imm : Nat) : (d.sendOp src opc slot gen home idx part val imm).cellPart = d.cellPart := rfl
@[simp] theorem Dev.sendOp_tmb (d : Dev) (src : Ep) (opc slot gen home idx part val imm : Nat) : (d.sendOp src opc slot gen home idx part val imm).tmb = d.tmb := rfl
@[simp] theorem Dev.sendOp_waits (d : Dev) (src : Ep) (opc slot gen home idx part val imm : Nat) : (d.sendOp src opc slot gen home idx part val imm).waits = d.waits := rfl
@[simp] theorem Dev.sendOp_swGen (d : Dev) (src : Ep) (opc slot gen home idx part val imm : Nat) : (d.sendOp src opc slot gen home idx part val imm).swGen = d.swGen := rfl
@[simp] theorem Dev.sendOp_ctl_now (d : Dev) (src : Ep) (opc slot gen home idx part val imm : Nat) : (d.sendOp src opc slot gen home idx part val imm).ctl = d.ctl ++ [⟨src, .bank home, opc, slot, gen, src.peer, tumbField home idx part, val, imm⟩] := rfl
@[simp] theorem Dev.sendOp_net (d : Dev) (src : Ep) (opc slot gen home idx part val imm : Nat) : (d.sendOp src opc slot gen home idx part val imm).net = d.net := rfl
@[simp] theorem Dev.sendOp_sqn (d : Dev) (src : Ep) (opc slot gen home idx part val imm : Nat) : (d.sendOp src opc slot gen home idx part val imm).sqn = d.sqn := rfl
@[simp] theorem Dev.sendOp_engs (d : Dev) (src : Ep) (opc slot gen home idx part val imm : Nat) : (d.sendOp src opc slot gen home idx part val imm).engs = d.engs := rfl
@[simp] theorem Dev.sendOp_unfs (d : Dev) (src : Ep) (opc slot gen home idx part val imm : Nat) : (d.sendOp src opc slot gen home idx part val imm).unfs = d.unfs := rfl
@[simp] theorem Dev.sendOp_dsps (d : Dev) (src : Ep) (opc slot gen home idx part val imm : Nat) : (d.sendOp src opc slot gen home idx part val imm).dsps = d.dsps := rfl
@[simp] theorem Dev.sendOp_bq (d : Dev) (src : Ep) (opc slot gen home idx part val imm : Nat) : (d.sendOp src opc slot gen home idx part val imm).bq = d.bq := rfl
@[simp] theorem Dev.sendOp_rdq (d : Dev) (src : Ep) (opc slot gen home idx part val imm : Nat) : (d.sendOp src opc slot gen home idx part val imm).rdq = d.rdq := rfl
@[simp] theorem Dev.sendOp_wrq (d : Dev) (src : Ep) (opc slot gen home idx part val imm : Nat) : (d.sendOp src opc slot gen home idx part val imm).wrq = d.wrq := rfl
@[simp] theorem Dev.sendOp_rows (d : Dev) (src : Ep) (opc slot gen home idx part val imm : Nat) : (d.sendOp src opc slot gen home idx part val imm).rows = d.rows := rfl
@[simp] theorem Dev.sendOp_hbm (d : Dev) (src : Ep) (opc slot gen home idx part val imm : Nat) : (d.sendOp src opc slot gen home idx part val imm).hbm = d.hbm := rfl
@[simp] theorem Dev.sendOp_narrow (d : Dev) (src : Ep) (opc slot gen home idx part val imm : Nat) : (d.sendOp src opc slot gen home idx part val imm).narrow = d.narrow := rfl
@[simp] theorem Dev.sendOp_conv (d : Dev) (src : Ep) (opc slot gen home idx part val imm : Nat) : (d.sendOp src opc slot gen home idx part val imm).conv = d.conv := rfl
@[simp] theorem Dev.sendOp_merge (d : Dev) (src : Ep) (opc slot gen home idx part val imm : Nat) : (d.sendOp src opc slot gen home idx part val imm).merge = d.merge := rfl
@[simp] theorem Dev.sendOp_scrub (d : Dev) (src : Ep) (opc slot gen home idx part val imm : Nat) : (d.sendOp src opc slot gen home idx part val imm).scrub = d.scrub := rfl
@[simp] theorem Dev.sendOp_wback (d : Dev) (src : Ep) (opc slot gen home idx part val imm : Nat) : (d.sendOp src opc slot gen home idx part val imm).wback = d.wback := rfl
@[simp] theorem Dev.sendOp_stest (d : Dev) (src : Ep) (opc slot gen home idx part val imm : Nat) : (d.sendOp src opc slot gen home idx part val imm).stest = d.stest := rfl
@[simp] theorem Dev.sendOp_zfill (d : Dev) (src : Ep) (opc slot gen home idx part val imm : Nat) : (d.sendOp src opc slot gen home idx part val imm).zfill = d.zfill := rfl
@[simp] theorem Dev.sendOp_memtest (d : Dev) (src : Ep) (opc slot gen home idx part val imm : Nat) : (d.sendOp src opc slot gen home idx part val imm).memtest = d.memtest := rfl
@[simp] theorem Dev.sendOp_krg (d : Dev) (src : Ep) (opc slot gen home idx part val imm : Nat) : (d.sendOp src opc slot gen home idx part val imm).krg = d.krg := rfl
@[simp] theorem Dev.sendOp_krgP (d : Dev) (src : Ep) (opc slot gen home idx part val imm : Nat) : (d.sendOp src opc slot gen home idx part val imm).krgP = d.krgP := rfl
@[simp] theorem Dev.sendOp_drains (d : Dev) (src : Ep) (opc slot gen home idx part val imm : Nat) : (d.sendOp src opc slot gen home idx part val imm).drains = d.drains := rfl
@[simp] theorem Dev.sendOp_stwIo (d : Dev) (src : Ep) (opc slot gen home idx part val imm : Nat) : (d.sendOp src opc slot gen home idx part val imm).stwIo = d.stwIo := rfl
@[simp] theorem Dev.sendOp_flinks (d : Dev) (src : Ep) (opc slot gen home idx part val imm : Nat) : (d.sendOp src opc slot gen home idx part val imm).flinks = d.flinks := rfl
@[simp] theorem Dev.sendOp_knks (d : Dev) (src : Ep) (opc slot gen home idx part val imm : Nat) : (d.sendOp src opc slot gen home idx part val imm).knks = d.knks := rfl
@[simp] theorem Dev.sendOp_knkPend (d : Dev) (src : Ep) (opc slot gen home idx part val imm : Nat) : (d.sendOp src opc slot gen home idx part val imm).knkPend = d.knkPend := rfl
@[simp] theorem Dev.sendOp_mapUpd (d : Dev) (src : Ep) (opc slot gen home idx part val imm : Nat) : (d.sendOp src opc slot gen home idx part val imm).mapUpd = d.mapUpd := rfl
@[simp] theorem Dev.sendOp_sites (d : Dev) (src : Ep) (opc slot gen home idx part val imm : Nat) : (d.sendOp src opc slot gen home idx part val imm).sites = d.sites := rfl
@[simp] theorem Dev.sendOp_alert (d : Dev) (src : Ep) (opc slot gen home idx part val imm : Nat) : (d.sendOp src opc slot gen home idx part val imm).alert = d.alert := rfl
@[simp] theorem Dev.sendOp_tripN (d : Dev) (src : Ep) (opc slot gen home idx part val imm : Nat) : (d.sendOp src opc slot gen home idx part val imm).tripN = d.tripN := rfl
@[simp] theorem Dev.sendOp_irqs (d : Dev) (src : Ep) (opc slot gen home idx part val imm : Nat) : (d.sendOp src opc slot gen home idx part val imm).irqs = d.irqs := rfl
@[simp] theorem Dev.sendOp_lanes (d : Dev) (src : Ep) (opc slot gen home idx part val imm : Nat) : (d.sendOp src opc slot gen home idx part val imm).lanes = d.lanes := rfl
@[simp] theorem Dev.sendOp_ports (d : Dev) (src : Ep) (opc slot gen home idx part val imm : Nat) : (d.sendOp src opc slot gen home idx part val imm).ports = d.ports := rfl
@[simp] theorem Dev.sendOp_eths (d : Dev) (src : Ep) (opc slot gen home idx part val imm : Nat) : (d.sendOp src opc slot gen home idx part val imm).eths = d.eths := rfl
@[simp] theorem Dev.sendOp_qps (d : Dev) (src : Ep) (opc slot gen home idx part val imm : Nat) : (d.sendOp src opc slot gen home idx part val imm).qps = d.qps := rfl
@[simp] theorem Dev.sendOp_mbxIn (d : Dev) (src : Ep) (opc slot gen home idx part val imm : Nat) : (d.sendOp src opc slot gen home idx part val imm).mbxIn = d.mbxIn := rfl
@[simp] theorem Dev.sendOp_stews (d : Dev) (src : Ep) (opc slot gen home idx part val imm : Nat) : (d.sendOp src opc slot gen home idx part val imm).stews = d.stews := rfl
@[simp] theorem Dev.sendOp_parts (d : Dev) (src : Ep) (opc slot gen home idx part val imm : Nat) : (d.sendOp src opc slot gen home idx part val imm).parts = d.parts := rfl
@[simp] theorem Dev.sendOp_wards (d : Dev) (src : Ep) (opc slot gen home idx part val imm : Nat) : (d.sendOp src opc slot gen home idx part val imm).wards = d.wards := rfl
@[simp] theorem Dev.sendOp_pws (d : Dev) (src : Ep) (opc slot gen home idx part val imm : Nat) : (d.sendOp src opc slot gen home idx part val imm).pws = d.pws := rfl
@[simp] theorem Dev.sendOp_chunks (d : Dev) (src : Ep) (opc slot gen home idx part val imm : Nat) : (d.sendOp src opc slot gen home idx part val imm).chunks = d.chunks := rfl
@[simp] theorem Dev.sendOp_i3c (d : Dev) (src : Ep) (opc slot gen home idx part val imm : Nat) : (d.sendOp src opc slot gen home idx part val imm).i3c = d.i3c := rfl
@[simp] theorem Dev.sendOp_i3cOut (d : Dev) (src : Ep) (opc slot gen home idx part val imm : Nat) : (d.sendOp src opc slot gen home idx part val imm).i3cOut = d.i3cOut := rfl
@[simp] theorem Dev.sendOp_flash (d : Dev) (src : Ep) (opc slot gen home idx part val imm : Nat) : (d.sendOp src opc slot gen home idx part val imm).flash = d.flash := rfl
@[simp] theorem Dev.sendOp_read_raw (d : Dev) (src : Ep) (opc slot gen home idx part val imm : Nat) (r : RKey) : (d.sendOp src opc slot gen home idx part val imm).raw r = d.raw r := rfl
@[simp] theorem Dev.sendOp_read_get (d : Dev) (src : Ep) (opc slot gen home idx part val imm : Nat) (g : Fld) (die' i' s' : Nat) : (d.sendOp src opc slot gen home idx part val imm).get g die' i' s' = d.get g die' i' s' := rfl
@[simp] theorem Dev.sendOp_read_coreAt (d : Dev) (src : Ep) (opc slot gen home idx part val imm : Nat) (q : Nat) : (d.sendOp src opc slot gen home idx part val imm).coreAt q = d.coreAt q := rfl
@[simp] theorem Dev.sendOp_read_cellAt (d : Dev) (src : Ep) (opc slot gen home idx part val imm : Nat) (q : Nat) : (d.sendOp src opc slot gen home idx part val imm).cellAt q = d.cellAt q := rfl
@[simp] theorem Dev.sendOp_read_partOf (d : Dev) (src : Ep) (opc slot gen home idx part val imm : Nat) (q : Nat) : (d.sendOp src opc slot gen home idx part val imm).partOf q = d.partOf q := rfl
@[simp] theorem Dev.sendOp_read_tumbler (d : Dev) (src : Ep) (opc slot gen home idx part val imm : Nat) (die' j : Nat) : (d.sendOp src opc slot gen home idx part val imm).tumbler die' j = d.tumbler die' j := rfl
@[simp] theorem Dev.sendOp_read_eng (d : Dev) (src : Ep) (opc slot gen home idx part val imm : Nat) (die' e' : Nat) : (d.sendOp src opc slot gen home idx part val imm).eng die' e' = d.eng die' e' := rfl
@[simp] theorem Dev.sendOp_read_unfAt (d : Dev) (src : Ep) (opc slot gen home idx part val imm : Nat) (die' e' : Nat) : (d.sendOp src opc slot gen home idx part val imm).unfAt die' e' = d.unfAt die' e' := rfl
@[simp] theorem Dev.sendOp_read_dsp (d : Dev) (src : Ep) (opc slot gen home idx part val imm : Nat) (q : Nat) : (d.sendOp src opc slot gen home idx part val imm).dsp q = d.dsp q := rfl
@[simp] theorem Dev.sendOp_read_eth (d : Dev) (src : Ep) (opc slot gen home idx part val imm : Nat) (die' e' : Nat) : (d.sendOp src opc slot gen home idx part val imm).eth die' e' = d.eth die' e' := rfl
@[simp] theorem Dev.sendOp_read_hbmAt (d : Dev) (src : Ep) (opc slot gen home idx part val imm : Nat) (die' e' : Nat) : (d.sendOp src opc slot gen home idx part val imm).hbmAt die' e' = d.hbmAt die' e' := rfl
@[simp] theorem Dev.sendOp_read_flink (d : Dev) (src : Ep) (opc slot gen home idx part val imm : Nat) (die' e' : Nat) : (d.sendOp src opc slot gen home idx part val imm).flink die' e' = d.flink die' e' := rfl
@[simp] theorem Dev.sendOp_read_knk (d : Dev) (src : Ep) (opc slot gen home idx part val imm : Nat) (q : Nat) : (d.sendOp src opc slot gen home idx part val imm).knk q = d.knk q := rfl
@[simp] theorem Dev.sendOp_read_lane (d : Dev) (src : Ep) (opc slot gen home idx part val imm : Nat) (die' e' : Nat) : (d.sendOp src opc slot gen home idx part val imm).lane die' e' = d.lane die' e' := rfl
@[simp] theorem Dev.sendOp_read_port (d : Dev) (src : Ep) (opc slot gen home idx part val imm : Nat) (q : Nat) : (d.sendOp src opc slot gen home idx part val imm).port q = d.port q := rfl
@[simp] theorem Dev.sendOp_read_qp (d : Dev) (src : Ep) (opc slot gen home idx part val imm : Nat) (q : Nat) : (d.sendOp src opc slot gen home idx part val imm).qp q = d.qp q := rfl
@[simp] theorem Dev.sendOp_read_stew (d : Dev) (src : Ep) (opc slot gen home idx part val imm : Nat) (q : Nat) : (d.sendOp src opc slot gen home idx part val imm).stew q = d.stew q := rfl
@[simp] theorem Dev.sendOp_read_site (d : Dev) (src : Ep) (opc slot gen home idx part val imm : Nat) (q : Nat) : (d.sendOp src opc slot gen home idx part val imm).site q = d.site q := rfl
@[simp] theorem Dev.sendOp_read_ward (d : Dev) (src : Ep) (opc slot gen home idx part val imm : Nat) (q : Nat) : (d.sendOp src opc slot gen home idx part val imm).ward q = d.ward q := rfl
@[simp] theorem Dev.sendOp_read_tick (d : Dev) (src : Ep) (opc slot gen home idx part val imm : Nat) (q : Nat) : (d.sendOp src opc slot gen home idx part val imm).tick q = d.tick q := rfl
@[simp] theorem Dev.sendOp_read_pwOf (d : Dev) (src : Ep) (opc slot gen home idx part val imm : Nat) (q : Nat) : (d.sendOp src opc slot gen home idx part val imm).pwOf q = d.pwOf q := rfl
@[simp] theorem Dev.sendOp_read_aonUp (d : Dev) (src : Ep) (opc slot gen home idx part val imm : Nat) (q : Nat) : (d.sendOp src opc slot gen home idx part val imm).aonUp q = d.aonUp q := rfl

/-! ctlDrop -/

@[simp] theorem Dev.ctlDrop_fuse (d : Dev) (n : Nat) : (d.ctlDrop n).fuse = d.fuse := rfl
@[simp] theorem Dev.ctlDrop_pw (d : Dev) (n : Nat) : (d.ctlDrop n).pw = d.pw := rfl
@[simp] theorem Dev.ctlDrop_aon (d : Dev) (n : Nat) : (d.ctlDrop n).aon = d.aon := rfl
@[simp] theorem Dev.ctlDrop_rf (d : Dev) (n : Nat) : (d.ctlDrop n).rf = d.rf := rfl
@[simp] theorem Dev.ctlDrop_capt (d : Dev) (n : Nat) : (d.ctlDrop n).capt = d.capt := rfl
@[simp] theorem Dev.ctlDrop_held (d : Dev) (n : Nat) : (d.ctlDrop n).held = d.held := rfl
@[simp] theorem Dev.ctlDrop_free (d : Dev) (n : Nat) : (d.ctlDrop n).free = d.free := rfl
@[simp] theorem Dev.ctlDrop_mem (d : Dev) (n : Nat) : (d.ctlDrop n).mem = d.mem := rfl
@[simp] theorem Dev.ctlDrop_unwritten (d : Dev) (n : Nat) : (d.ctlDrop n).unwritten = d.unwritten := rfl
@[simp] theorem Dev.ctlDrop_errs (d : Dev) (n : Nat) : (d.ctlDrop n).errs = d.errs := rfl
@[simp] theorem Dev.ctlDrop_lcnt (d : Dev) (n : Nat) : (d.ctlDrop n).lcnt = d.lcnt := rfl
@[simp] theorem Dev.ctlDrop_cores (d : Dev) (n : Nat) : (d.ctlDrop n).cores = d.cores := rfl
@[simp] theorem Dev.ctlDrop_cells (d : Dev) (n : Nat) : (d.ctlDrop n).cells = d.cells := rfl
@[simp] theorem Dev.ctlDrop_cellPart (d : Dev) (n : Nat) : (d.ctlDrop n).cellPart = d.cellPart := rfl
@[simp] theorem Dev.ctlDrop_tmb (d : Dev) (n : Nat) : (d.ctlDrop n).tmb = d.tmb := rfl
@[simp] theorem Dev.ctlDrop_waits (d : Dev) (n : Nat) : (d.ctlDrop n).waits = d.waits := rfl
@[simp] theorem Dev.ctlDrop_swGen (d : Dev) (n : Nat) : (d.ctlDrop n).swGen = d.swGen := rfl
@[simp] theorem Dev.ctlDrop_ctl_now (d : Dev) (n : Nat) : (d.ctlDrop n).ctl = d.ctl.eraseIdx n := rfl
@[simp] theorem Dev.ctlDrop_net (d : Dev) (n : Nat) : (d.ctlDrop n).net = d.net := rfl
@[simp] theorem Dev.ctlDrop_sqn (d : Dev) (n : Nat) : (d.ctlDrop n).sqn = d.sqn := rfl
@[simp] theorem Dev.ctlDrop_engs (d : Dev) (n : Nat) : (d.ctlDrop n).engs = d.engs := rfl
@[simp] theorem Dev.ctlDrop_unfs (d : Dev) (n : Nat) : (d.ctlDrop n).unfs = d.unfs := rfl
@[simp] theorem Dev.ctlDrop_dsps (d : Dev) (n : Nat) : (d.ctlDrop n).dsps = d.dsps := rfl
@[simp] theorem Dev.ctlDrop_bq (d : Dev) (n : Nat) : (d.ctlDrop n).bq = d.bq := rfl
@[simp] theorem Dev.ctlDrop_rdq (d : Dev) (n : Nat) : (d.ctlDrop n).rdq = d.rdq := rfl
@[simp] theorem Dev.ctlDrop_wrq (d : Dev) (n : Nat) : (d.ctlDrop n).wrq = d.wrq := rfl
@[simp] theorem Dev.ctlDrop_rows (d : Dev) (n : Nat) : (d.ctlDrop n).rows = d.rows := rfl
@[simp] theorem Dev.ctlDrop_hbm (d : Dev) (n : Nat) : (d.ctlDrop n).hbm = d.hbm := rfl
@[simp] theorem Dev.ctlDrop_narrow (d : Dev) (n : Nat) : (d.ctlDrop n).narrow = d.narrow := rfl
@[simp] theorem Dev.ctlDrop_conv (d : Dev) (n : Nat) : (d.ctlDrop n).conv = d.conv := rfl
@[simp] theorem Dev.ctlDrop_merge (d : Dev) (n : Nat) : (d.ctlDrop n).merge = d.merge := rfl
@[simp] theorem Dev.ctlDrop_scrub (d : Dev) (n : Nat) : (d.ctlDrop n).scrub = d.scrub := rfl
@[simp] theorem Dev.ctlDrop_wback (d : Dev) (n : Nat) : (d.ctlDrop n).wback = d.wback := rfl
@[simp] theorem Dev.ctlDrop_stest (d : Dev) (n : Nat) : (d.ctlDrop n).stest = d.stest := rfl
@[simp] theorem Dev.ctlDrop_zfill (d : Dev) (n : Nat) : (d.ctlDrop n).zfill = d.zfill := rfl
@[simp] theorem Dev.ctlDrop_memtest (d : Dev) (n : Nat) : (d.ctlDrop n).memtest = d.memtest := rfl
@[simp] theorem Dev.ctlDrop_krg (d : Dev) (n : Nat) : (d.ctlDrop n).krg = d.krg := rfl
@[simp] theorem Dev.ctlDrop_krgP (d : Dev) (n : Nat) : (d.ctlDrop n).krgP = d.krgP := rfl
@[simp] theorem Dev.ctlDrop_drains (d : Dev) (n : Nat) : (d.ctlDrop n).drains = d.drains := rfl
@[simp] theorem Dev.ctlDrop_stwIo (d : Dev) (n : Nat) : (d.ctlDrop n).stwIo = d.stwIo := rfl
@[simp] theorem Dev.ctlDrop_flinks (d : Dev) (n : Nat) : (d.ctlDrop n).flinks = d.flinks := rfl
@[simp] theorem Dev.ctlDrop_knks (d : Dev) (n : Nat) : (d.ctlDrop n).knks = d.knks := rfl
@[simp] theorem Dev.ctlDrop_knkPend (d : Dev) (n : Nat) : (d.ctlDrop n).knkPend = d.knkPend := rfl
@[simp] theorem Dev.ctlDrop_mapUpd (d : Dev) (n : Nat) : (d.ctlDrop n).mapUpd = d.mapUpd := rfl
@[simp] theorem Dev.ctlDrop_sites (d : Dev) (n : Nat) : (d.ctlDrop n).sites = d.sites := rfl
@[simp] theorem Dev.ctlDrop_alert (d : Dev) (n : Nat) : (d.ctlDrop n).alert = d.alert := rfl
@[simp] theorem Dev.ctlDrop_tripN (d : Dev) (n : Nat) : (d.ctlDrop n).tripN = d.tripN := rfl
@[simp] theorem Dev.ctlDrop_irqs (d : Dev) (n : Nat) : (d.ctlDrop n).irqs = d.irqs := rfl
@[simp] theorem Dev.ctlDrop_lanes (d : Dev) (n : Nat) : (d.ctlDrop n).lanes = d.lanes := rfl
@[simp] theorem Dev.ctlDrop_ports (d : Dev) (n : Nat) : (d.ctlDrop n).ports = d.ports := rfl
@[simp] theorem Dev.ctlDrop_eths (d : Dev) (n : Nat) : (d.ctlDrop n).eths = d.eths := rfl
@[simp] theorem Dev.ctlDrop_qps (d : Dev) (n : Nat) : (d.ctlDrop n).qps = d.qps := rfl
@[simp] theorem Dev.ctlDrop_mbxIn (d : Dev) (n : Nat) : (d.ctlDrop n).mbxIn = d.mbxIn := rfl
@[simp] theorem Dev.ctlDrop_stews (d : Dev) (n : Nat) : (d.ctlDrop n).stews = d.stews := rfl
@[simp] theorem Dev.ctlDrop_parts (d : Dev) (n : Nat) : (d.ctlDrop n).parts = d.parts := rfl
@[simp] theorem Dev.ctlDrop_wards (d : Dev) (n : Nat) : (d.ctlDrop n).wards = d.wards := rfl
@[simp] theorem Dev.ctlDrop_pws (d : Dev) (n : Nat) : (d.ctlDrop n).pws = d.pws := rfl
@[simp] theorem Dev.ctlDrop_chunks (d : Dev) (n : Nat) : (d.ctlDrop n).chunks = d.chunks := rfl
@[simp] theorem Dev.ctlDrop_i3c (d : Dev) (n : Nat) : (d.ctlDrop n).i3c = d.i3c := rfl
@[simp] theorem Dev.ctlDrop_i3cOut (d : Dev) (n : Nat) : (d.ctlDrop n).i3cOut = d.i3cOut := rfl
@[simp] theorem Dev.ctlDrop_flash (d : Dev) (n : Nat) : (d.ctlDrop n).flash = d.flash := rfl
@[simp] theorem Dev.ctlDrop_read_raw (d : Dev) (n : Nat) (r : RKey) : (d.ctlDrop n).raw r = d.raw r := rfl
@[simp] theorem Dev.ctlDrop_read_get (d : Dev) (n : Nat) (g : Fld) (die' i' s' : Nat) : (d.ctlDrop n).get g die' i' s' = d.get g die' i' s' := rfl
@[simp] theorem Dev.ctlDrop_read_coreAt (d : Dev) (n : Nat) (q : Nat) : (d.ctlDrop n).coreAt q = d.coreAt q := rfl
@[simp] theorem Dev.ctlDrop_read_cellAt (d : Dev) (n : Nat) (q : Nat) : (d.ctlDrop n).cellAt q = d.cellAt q := rfl
@[simp] theorem Dev.ctlDrop_read_partOf (d : Dev) (n : Nat) (q : Nat) : (d.ctlDrop n).partOf q = d.partOf q := rfl
@[simp] theorem Dev.ctlDrop_read_tumbler (d : Dev) (n : Nat) (die' j : Nat) : (d.ctlDrop n).tumbler die' j = d.tumbler die' j := rfl
@[simp] theorem Dev.ctlDrop_read_eng (d : Dev) (n : Nat) (die' e' : Nat) : (d.ctlDrop n).eng die' e' = d.eng die' e' := rfl
@[simp] theorem Dev.ctlDrop_read_unfAt (d : Dev) (n : Nat) (die' e' : Nat) : (d.ctlDrop n).unfAt die' e' = d.unfAt die' e' := rfl
@[simp] theorem Dev.ctlDrop_read_dsp (d : Dev) (n : Nat) (q : Nat) : (d.ctlDrop n).dsp q = d.dsp q := rfl
@[simp] theorem Dev.ctlDrop_read_eth (d : Dev) (n : Nat) (die' e' : Nat) : (d.ctlDrop n).eth die' e' = d.eth die' e' := rfl
@[simp] theorem Dev.ctlDrop_read_hbmAt (d : Dev) (n : Nat) (die' e' : Nat) : (d.ctlDrop n).hbmAt die' e' = d.hbmAt die' e' := rfl
@[simp] theorem Dev.ctlDrop_read_flink (d : Dev) (n : Nat) (die' e' : Nat) : (d.ctlDrop n).flink die' e' = d.flink die' e' := rfl
@[simp] theorem Dev.ctlDrop_read_knk (d : Dev) (n : Nat) (q : Nat) : (d.ctlDrop n).knk q = d.knk q := rfl
@[simp] theorem Dev.ctlDrop_read_lane (d : Dev) (n : Nat) (die' e' : Nat) : (d.ctlDrop n).lane die' e' = d.lane die' e' := rfl
@[simp] theorem Dev.ctlDrop_read_port (d : Dev) (n : Nat) (q : Nat) : (d.ctlDrop n).port q = d.port q := rfl
@[simp] theorem Dev.ctlDrop_read_qp (d : Dev) (n : Nat) (q : Nat) : (d.ctlDrop n).qp q = d.qp q := rfl
@[simp] theorem Dev.ctlDrop_read_stew (d : Dev) (n : Nat) (q : Nat) : (d.ctlDrop n).stew q = d.stew q := rfl
@[simp] theorem Dev.ctlDrop_read_site (d : Dev) (n : Nat) (q : Nat) : (d.ctlDrop n).site q = d.site q := rfl
@[simp] theorem Dev.ctlDrop_read_ward (d : Dev) (n : Nat) (q : Nat) : (d.ctlDrop n).ward q = d.ward q := rfl
@[simp] theorem Dev.ctlDrop_read_tick (d : Dev) (n : Nat) (q : Nat) : (d.ctlDrop n).tick q = d.tick q := rfl
@[simp] theorem Dev.ctlDrop_read_pwOf (d : Dev) (n : Nat) (q : Nat) : (d.ctlDrop n).pwOf q = d.pwOf q := rfl
@[simp] theorem Dev.ctlDrop_read_aonUp (d : Dev) (n : Nat) (q : Nat) : (d.ctlDrop n).aonUp q = d.aonUp q := rfl

/-! netPut -/

@[simp] theorem Dev.netPut_fuse (d : Dev) (p : Pkt) : (d.netPut p).fuse = d.fuse := rfl
@[simp] theorem Dev.netPut_pw (d : Dev) (p : Pkt) : (d.netPut p).pw = d.pw := rfl
@[simp] theorem Dev.netPut_aon (d : Dev) (p : Pkt) : (d.netPut p).aon = d.aon := rfl
@[simp] theorem Dev.netPut_rf (d : Dev) (p : Pkt) : (d.netPut p).rf = d.rf := rfl
@[simp] theorem Dev.netPut_capt (d : Dev) (p : Pkt) : (d.netPut p).capt = d.capt := rfl
@[simp] theorem Dev.netPut_held (d : Dev) (p : Pkt) : (d.netPut p).held = d.held := rfl
@[simp] theorem Dev.netPut_free (d : Dev) (p : Pkt) : (d.netPut p).free = d.free := rfl
@[simp] theorem Dev.netPut_mem (d : Dev) (p : Pkt) : (d.netPut p).mem = d.mem := rfl
@[simp] theorem Dev.netPut_unwritten (d : Dev) (p : Pkt) : (d.netPut p).unwritten = d.unwritten := rfl
@[simp] theorem Dev.netPut_errs (d : Dev) (p : Pkt) : (d.netPut p).errs = d.errs := rfl
@[simp] theorem Dev.netPut_lcnt (d : Dev) (p : Pkt) : (d.netPut p).lcnt = d.lcnt := rfl
@[simp] theorem Dev.netPut_cores (d : Dev) (p : Pkt) : (d.netPut p).cores = d.cores := rfl
@[simp] theorem Dev.netPut_cells (d : Dev) (p : Pkt) : (d.netPut p).cells = d.cells := rfl
@[simp] theorem Dev.netPut_cellPart (d : Dev) (p : Pkt) : (d.netPut p).cellPart = d.cellPart := rfl
@[simp] theorem Dev.netPut_tmb (d : Dev) (p : Pkt) : (d.netPut p).tmb = d.tmb := rfl
@[simp] theorem Dev.netPut_waits (d : Dev) (p : Pkt) : (d.netPut p).waits = d.waits := rfl
@[simp] theorem Dev.netPut_swGen (d : Dev) (p : Pkt) : (d.netPut p).swGen = d.swGen := rfl
@[simp] theorem Dev.netPut_ctl (d : Dev) (p : Pkt) : (d.netPut p).ctl = d.ctl := rfl
@[simp] theorem Dev.netPut_net_now (d : Dev) (p : Pkt) : (d.netPut p).net = d.net ++ [p] := rfl
@[simp] theorem Dev.netPut_sqn (d : Dev) (p : Pkt) : (d.netPut p).sqn = d.sqn := rfl
@[simp] theorem Dev.netPut_engs (d : Dev) (p : Pkt) : (d.netPut p).engs = d.engs := rfl
@[simp] theorem Dev.netPut_unfs (d : Dev) (p : Pkt) : (d.netPut p).unfs = d.unfs := rfl
@[simp] theorem Dev.netPut_dsps (d : Dev) (p : Pkt) : (d.netPut p).dsps = d.dsps := rfl
@[simp] theorem Dev.netPut_bq (d : Dev) (p : Pkt) : (d.netPut p).bq = d.bq := rfl
@[simp] theorem Dev.netPut_rdq (d : Dev) (p : Pkt) : (d.netPut p).rdq = d.rdq := rfl
@[simp] theorem Dev.netPut_wrq (d : Dev) (p : Pkt) : (d.netPut p).wrq = d.wrq := rfl
@[simp] theorem Dev.netPut_rows (d : Dev) (p : Pkt) : (d.netPut p).rows = d.rows := rfl
@[simp] theorem Dev.netPut_hbm (d : Dev) (p : Pkt) : (d.netPut p).hbm = d.hbm := rfl
@[simp] theorem Dev.netPut_narrow (d : Dev) (p : Pkt) : (d.netPut p).narrow = d.narrow := rfl
@[simp] theorem Dev.netPut_conv (d : Dev) (p : Pkt) : (d.netPut p).conv = d.conv := rfl
@[simp] theorem Dev.netPut_merge (d : Dev) (p : Pkt) : (d.netPut p).merge = d.merge := rfl
@[simp] theorem Dev.netPut_scrub (d : Dev) (p : Pkt) : (d.netPut p).scrub = d.scrub := rfl
@[simp] theorem Dev.netPut_wback (d : Dev) (p : Pkt) : (d.netPut p).wback = d.wback := rfl
@[simp] theorem Dev.netPut_stest (d : Dev) (p : Pkt) : (d.netPut p).stest = d.stest := rfl
@[simp] theorem Dev.netPut_zfill (d : Dev) (p : Pkt) : (d.netPut p).zfill = d.zfill := rfl
@[simp] theorem Dev.netPut_memtest (d : Dev) (p : Pkt) : (d.netPut p).memtest = d.memtest := rfl
@[simp] theorem Dev.netPut_krg (d : Dev) (p : Pkt) : (d.netPut p).krg = d.krg := rfl
@[simp] theorem Dev.netPut_krgP (d : Dev) (p : Pkt) : (d.netPut p).krgP = d.krgP := rfl
@[simp] theorem Dev.netPut_drains (d : Dev) (p : Pkt) : (d.netPut p).drains = d.drains := rfl
@[simp] theorem Dev.netPut_stwIo (d : Dev) (p : Pkt) : (d.netPut p).stwIo = d.stwIo := rfl
@[simp] theorem Dev.netPut_flinks (d : Dev) (p : Pkt) : (d.netPut p).flinks = d.flinks := rfl
@[simp] theorem Dev.netPut_knks (d : Dev) (p : Pkt) : (d.netPut p).knks = d.knks := rfl
@[simp] theorem Dev.netPut_knkPend (d : Dev) (p : Pkt) : (d.netPut p).knkPend = d.knkPend := rfl
@[simp] theorem Dev.netPut_mapUpd (d : Dev) (p : Pkt) : (d.netPut p).mapUpd = d.mapUpd := rfl
@[simp] theorem Dev.netPut_sites (d : Dev) (p : Pkt) : (d.netPut p).sites = d.sites := rfl
@[simp] theorem Dev.netPut_alert (d : Dev) (p : Pkt) : (d.netPut p).alert = d.alert := rfl
@[simp] theorem Dev.netPut_tripN (d : Dev) (p : Pkt) : (d.netPut p).tripN = d.tripN := rfl
@[simp] theorem Dev.netPut_irqs (d : Dev) (p : Pkt) : (d.netPut p).irqs = d.irqs := rfl
@[simp] theorem Dev.netPut_lanes (d : Dev) (p : Pkt) : (d.netPut p).lanes = d.lanes := rfl
@[simp] theorem Dev.netPut_ports (d : Dev) (p : Pkt) : (d.netPut p).ports = d.ports := rfl
@[simp] theorem Dev.netPut_eths (d : Dev) (p : Pkt) : (d.netPut p).eths = d.eths := rfl
@[simp] theorem Dev.netPut_qps (d : Dev) (p : Pkt) : (d.netPut p).qps = d.qps := rfl
@[simp] theorem Dev.netPut_mbxIn (d : Dev) (p : Pkt) : (d.netPut p).mbxIn = d.mbxIn := rfl
@[simp] theorem Dev.netPut_stews (d : Dev) (p : Pkt) : (d.netPut p).stews = d.stews := rfl
@[simp] theorem Dev.netPut_parts (d : Dev) (p : Pkt) : (d.netPut p).parts = d.parts := rfl
@[simp] theorem Dev.netPut_wards (d : Dev) (p : Pkt) : (d.netPut p).wards = d.wards := rfl
@[simp] theorem Dev.netPut_pws (d : Dev) (p : Pkt) : (d.netPut p).pws = d.pws := rfl
@[simp] theorem Dev.netPut_chunks (d : Dev) (p : Pkt) : (d.netPut p).chunks = d.chunks := rfl
@[simp] theorem Dev.netPut_i3c (d : Dev) (p : Pkt) : (d.netPut p).i3c = d.i3c := rfl
@[simp] theorem Dev.netPut_i3cOut (d : Dev) (p : Pkt) : (d.netPut p).i3cOut = d.i3cOut := rfl
@[simp] theorem Dev.netPut_flash (d : Dev) (p : Pkt) : (d.netPut p).flash = d.flash := rfl
@[simp] theorem Dev.netPut_read_raw (d : Dev) (p : Pkt) (r : RKey) : (d.netPut p).raw r = d.raw r := rfl
@[simp] theorem Dev.netPut_read_get (d : Dev) (p : Pkt) (g : Fld) (die' i' s' : Nat) : (d.netPut p).get g die' i' s' = d.get g die' i' s' := rfl
@[simp] theorem Dev.netPut_read_coreAt (d : Dev) (p : Pkt) (q : Nat) : (d.netPut p).coreAt q = d.coreAt q := rfl
@[simp] theorem Dev.netPut_read_cellAt (d : Dev) (p : Pkt) (q : Nat) : (d.netPut p).cellAt q = d.cellAt q := rfl
@[simp] theorem Dev.netPut_read_partOf (d : Dev) (p : Pkt) (q : Nat) : (d.netPut p).partOf q = d.partOf q := rfl
@[simp] theorem Dev.netPut_read_tumbler (d : Dev) (p : Pkt) (die' j : Nat) : (d.netPut p).tumbler die' j = d.tumbler die' j := rfl
@[simp] theorem Dev.netPut_read_eng (d : Dev) (p : Pkt) (die' e' : Nat) : (d.netPut p).eng die' e' = d.eng die' e' := rfl
@[simp] theorem Dev.netPut_read_unfAt (d : Dev) (p : Pkt) (die' e' : Nat) : (d.netPut p).unfAt die' e' = d.unfAt die' e' := rfl
@[simp] theorem Dev.netPut_read_dsp (d : Dev) (p : Pkt) (q : Nat) : (d.netPut p).dsp q = d.dsp q := rfl
@[simp] theorem Dev.netPut_read_eth (d : Dev) (p : Pkt) (die' e' : Nat) : (d.netPut p).eth die' e' = d.eth die' e' := rfl
@[simp] theorem Dev.netPut_read_hbmAt (d : Dev) (p : Pkt) (die' e' : Nat) : (d.netPut p).hbmAt die' e' = d.hbmAt die' e' := rfl
@[simp] theorem Dev.netPut_read_flink (d : Dev) (p : Pkt) (die' e' : Nat) : (d.netPut p).flink die' e' = d.flink die' e' := rfl
@[simp] theorem Dev.netPut_read_knk (d : Dev) (p : Pkt) (q : Nat) : (d.netPut p).knk q = d.knk q := rfl
@[simp] theorem Dev.netPut_read_lane (d : Dev) (p : Pkt) (die' e' : Nat) : (d.netPut p).lane die' e' = d.lane die' e' := rfl
@[simp] theorem Dev.netPut_read_port (d : Dev) (p : Pkt) (q : Nat) : (d.netPut p).port q = d.port q := rfl
@[simp] theorem Dev.netPut_read_qp (d : Dev) (p : Pkt) (q : Nat) : (d.netPut p).qp q = d.qp q := rfl
@[simp] theorem Dev.netPut_read_stew (d : Dev) (p : Pkt) (q : Nat) : (d.netPut p).stew q = d.stew q := rfl
@[simp] theorem Dev.netPut_read_site (d : Dev) (p : Pkt) (q : Nat) : (d.netPut p).site q = d.site q := rfl
@[simp] theorem Dev.netPut_read_ward (d : Dev) (p : Pkt) (q : Nat) : (d.netPut p).ward q = d.ward q := rfl
@[simp] theorem Dev.netPut_read_tick (d : Dev) (p : Pkt) (q : Nat) : (d.netPut p).tick q = d.tick q := rfl
@[simp] theorem Dev.netPut_read_pwOf (d : Dev) (p : Pkt) (q : Nat) : (d.netPut p).pwOf q = d.pwOf q := rfl
@[simp] theorem Dev.netPut_read_aonUp (d : Dev) (p : Pkt) (q : Nat) : (d.netPut p).aonUp q = d.aonUp q := rfl

/-! netDrop -/

@[simp] theorem Dev.netDrop_fuse (d : Dev) (n : Nat) : (d.netDrop n).fuse = d.fuse := rfl
@[simp] theorem Dev.netDrop_pw (d : Dev) (n : Nat) : (d.netDrop n).pw = d.pw := rfl
@[simp] theorem Dev.netDrop_aon (d : Dev) (n : Nat) : (d.netDrop n).aon = d.aon := rfl
@[simp] theorem Dev.netDrop_rf (d : Dev) (n : Nat) : (d.netDrop n).rf = d.rf := rfl
@[simp] theorem Dev.netDrop_capt (d : Dev) (n : Nat) : (d.netDrop n).capt = d.capt := rfl
@[simp] theorem Dev.netDrop_held (d : Dev) (n : Nat) : (d.netDrop n).held = d.held := rfl
@[simp] theorem Dev.netDrop_free (d : Dev) (n : Nat) : (d.netDrop n).free = d.free := rfl
@[simp] theorem Dev.netDrop_mem (d : Dev) (n : Nat) : (d.netDrop n).mem = d.mem := rfl
@[simp] theorem Dev.netDrop_unwritten (d : Dev) (n : Nat) : (d.netDrop n).unwritten = d.unwritten := rfl
@[simp] theorem Dev.netDrop_errs (d : Dev) (n : Nat) : (d.netDrop n).errs = d.errs := rfl
@[simp] theorem Dev.netDrop_lcnt (d : Dev) (n : Nat) : (d.netDrop n).lcnt = d.lcnt := rfl
@[simp] theorem Dev.netDrop_cores (d : Dev) (n : Nat) : (d.netDrop n).cores = d.cores := rfl
@[simp] theorem Dev.netDrop_cells (d : Dev) (n : Nat) : (d.netDrop n).cells = d.cells := rfl
@[simp] theorem Dev.netDrop_cellPart (d : Dev) (n : Nat) : (d.netDrop n).cellPart = d.cellPart := rfl
@[simp] theorem Dev.netDrop_tmb (d : Dev) (n : Nat) : (d.netDrop n).tmb = d.tmb := rfl
@[simp] theorem Dev.netDrop_waits (d : Dev) (n : Nat) : (d.netDrop n).waits = d.waits := rfl
@[simp] theorem Dev.netDrop_swGen (d : Dev) (n : Nat) : (d.netDrop n).swGen = d.swGen := rfl
@[simp] theorem Dev.netDrop_ctl (d : Dev) (n : Nat) : (d.netDrop n).ctl = d.ctl := rfl
@[simp] theorem Dev.netDrop_net_now (d : Dev) (n : Nat) : (d.netDrop n).net = d.net.eraseIdx n := rfl
@[simp] theorem Dev.netDrop_sqn (d : Dev) (n : Nat) : (d.netDrop n).sqn = d.sqn := rfl
@[simp] theorem Dev.netDrop_engs (d : Dev) (n : Nat) : (d.netDrop n).engs = d.engs := rfl
@[simp] theorem Dev.netDrop_unfs (d : Dev) (n : Nat) : (d.netDrop n).unfs = d.unfs := rfl
@[simp] theorem Dev.netDrop_dsps (d : Dev) (n : Nat) : (d.netDrop n).dsps = d.dsps := rfl
@[simp] theorem Dev.netDrop_bq (d : Dev) (n : Nat) : (d.netDrop n).bq = d.bq := rfl
@[simp] theorem Dev.netDrop_rdq (d : Dev) (n : Nat) : (d.netDrop n).rdq = d.rdq := rfl
@[simp] theorem Dev.netDrop_wrq (d : Dev) (n : Nat) : (d.netDrop n).wrq = d.wrq := rfl
@[simp] theorem Dev.netDrop_rows (d : Dev) (n : Nat) : (d.netDrop n).rows = d.rows := rfl
@[simp] theorem Dev.netDrop_hbm (d : Dev) (n : Nat) : (d.netDrop n).hbm = d.hbm := rfl
@[simp] theorem Dev.netDrop_narrow (d : Dev) (n : Nat) : (d.netDrop n).narrow = d.narrow := rfl
@[simp] theorem Dev.netDrop_conv (d : Dev) (n : Nat) : (d.netDrop n).conv = d.conv := rfl
@[simp] theorem Dev.netDrop_merge (d : Dev) (n : Nat) : (d.netDrop n).merge = d.merge := rfl
@[simp] theorem Dev.netDrop_scrub (d : Dev) (n : Nat) : (d.netDrop n).scrub = d.scrub := rfl
@[simp] theorem Dev.netDrop_wback (d : Dev) (n : Nat) : (d.netDrop n).wback = d.wback := rfl
@[simp] theorem Dev.netDrop_stest (d : Dev) (n : Nat) : (d.netDrop n).stest = d.stest := rfl
@[simp] theorem Dev.netDrop_zfill (d : Dev) (n : Nat) : (d.netDrop n).zfill = d.zfill := rfl
@[simp] theorem Dev.netDrop_memtest (d : Dev) (n : Nat) : (d.netDrop n).memtest = d.memtest := rfl
@[simp] theorem Dev.netDrop_krg (d : Dev) (n : Nat) : (d.netDrop n).krg = d.krg := rfl
@[simp] theorem Dev.netDrop_krgP (d : Dev) (n : Nat) : (d.netDrop n).krgP = d.krgP := rfl
@[simp] theorem Dev.netDrop_drains (d : Dev) (n : Nat) : (d.netDrop n).drains = d.drains := rfl
@[simp] theorem Dev.netDrop_stwIo (d : Dev) (n : Nat) : (d.netDrop n).stwIo = d.stwIo := rfl
@[simp] theorem Dev.netDrop_flinks (d : Dev) (n : Nat) : (d.netDrop n).flinks = d.flinks := rfl
@[simp] theorem Dev.netDrop_knks (d : Dev) (n : Nat) : (d.netDrop n).knks = d.knks := rfl
@[simp] theorem Dev.netDrop_knkPend (d : Dev) (n : Nat) : (d.netDrop n).knkPend = d.knkPend := rfl
@[simp] theorem Dev.netDrop_mapUpd (d : Dev) (n : Nat) : (d.netDrop n).mapUpd = d.mapUpd := rfl
@[simp] theorem Dev.netDrop_sites (d : Dev) (n : Nat) : (d.netDrop n).sites = d.sites := rfl
@[simp] theorem Dev.netDrop_alert (d : Dev) (n : Nat) : (d.netDrop n).alert = d.alert := rfl
@[simp] theorem Dev.netDrop_tripN (d : Dev) (n : Nat) : (d.netDrop n).tripN = d.tripN := rfl
@[simp] theorem Dev.netDrop_irqs (d : Dev) (n : Nat) : (d.netDrop n).irqs = d.irqs := rfl
@[simp] theorem Dev.netDrop_lanes (d : Dev) (n : Nat) : (d.netDrop n).lanes = d.lanes := rfl
@[simp] theorem Dev.netDrop_ports (d : Dev) (n : Nat) : (d.netDrop n).ports = d.ports := rfl
@[simp] theorem Dev.netDrop_eths (d : Dev) (n : Nat) : (d.netDrop n).eths = d.eths := rfl
@[simp] theorem Dev.netDrop_qps (d : Dev) (n : Nat) : (d.netDrop n).qps = d.qps := rfl
@[simp] theorem Dev.netDrop_mbxIn (d : Dev) (n : Nat) : (d.netDrop n).mbxIn = d.mbxIn := rfl
@[simp] theorem Dev.netDrop_stews (d : Dev) (n : Nat) : (d.netDrop n).stews = d.stews := rfl
@[simp] theorem Dev.netDrop_parts (d : Dev) (n : Nat) : (d.netDrop n).parts = d.parts := rfl
@[simp] theorem Dev.netDrop_wards (d : Dev) (n : Nat) : (d.netDrop n).wards = d.wards := rfl
@[simp] theorem Dev.netDrop_pws (d : Dev) (n : Nat) : (d.netDrop n).pws = d.pws := rfl
@[simp] theorem Dev.netDrop_chunks (d : Dev) (n : Nat) : (d.netDrop n).chunks = d.chunks := rfl
@[simp] theorem Dev.netDrop_i3c (d : Dev) (n : Nat) : (d.netDrop n).i3c = d.i3c := rfl
@[simp] theorem Dev.netDrop_i3cOut (d : Dev) (n : Nat) : (d.netDrop n).i3cOut = d.i3cOut := rfl
@[simp] theorem Dev.netDrop_flash (d : Dev) (n : Nat) : (d.netDrop n).flash = d.flash := rfl
@[simp] theorem Dev.netDrop_read_raw (d : Dev) (n : Nat) (r : RKey) : (d.netDrop n).raw r = d.raw r := rfl
@[simp] theorem Dev.netDrop_read_get (d : Dev) (n : Nat) (g : Fld) (die' i' s' : Nat) : (d.netDrop n).get g die' i' s' = d.get g die' i' s' := rfl
@[simp] theorem Dev.netDrop_read_coreAt (d : Dev) (n : Nat) (q : Nat) : (d.netDrop n).coreAt q = d.coreAt q := rfl
@[simp] theorem Dev.netDrop_read_cellAt (d : Dev) (n : Nat) (q : Nat) : (d.netDrop n).cellAt q = d.cellAt q := rfl
@[simp] theorem Dev.netDrop_read_partOf (d : Dev) (n : Nat) (q : Nat) : (d.netDrop n).partOf q = d.partOf q := rfl
@[simp] theorem Dev.netDrop_read_tumbler (d : Dev) (n : Nat) (die' j : Nat) : (d.netDrop n).tumbler die' j = d.tumbler die' j := rfl
@[simp] theorem Dev.netDrop_read_eng (d : Dev) (n : Nat) (die' e' : Nat) : (d.netDrop n).eng die' e' = d.eng die' e' := rfl
@[simp] theorem Dev.netDrop_read_unfAt (d : Dev) (n : Nat) (die' e' : Nat) : (d.netDrop n).unfAt die' e' = d.unfAt die' e' := rfl
@[simp] theorem Dev.netDrop_read_dsp (d : Dev) (n : Nat) (q : Nat) : (d.netDrop n).dsp q = d.dsp q := rfl
@[simp] theorem Dev.netDrop_read_eth (d : Dev) (n : Nat) (die' e' : Nat) : (d.netDrop n).eth die' e' = d.eth die' e' := rfl
@[simp] theorem Dev.netDrop_read_hbmAt (d : Dev) (n : Nat) (die' e' : Nat) : (d.netDrop n).hbmAt die' e' = d.hbmAt die' e' := rfl
@[simp] theorem Dev.netDrop_read_flink (d : Dev) (n : Nat) (die' e' : Nat) : (d.netDrop n).flink die' e' = d.flink die' e' := rfl
@[simp] theorem Dev.netDrop_read_knk (d : Dev) (n : Nat) (q : Nat) : (d.netDrop n).knk q = d.knk q := rfl
@[simp] theorem Dev.netDrop_read_lane (d : Dev) (n : Nat) (die' e' : Nat) : (d.netDrop n).lane die' e' = d.lane die' e' := rfl
@[simp] theorem Dev.netDrop_read_port (d : Dev) (n : Nat) (q : Nat) : (d.netDrop n).port q = d.port q := rfl
@[simp] theorem Dev.netDrop_read_qp (d : Dev) (n : Nat) (q : Nat) : (d.netDrop n).qp q = d.qp q := rfl
@[simp] theorem Dev.netDrop_read_stew (d : Dev) (n : Nat) (q : Nat) : (d.netDrop n).stew q = d.stew q := rfl
@[simp] theorem Dev.netDrop_read_site (d : Dev) (n : Nat) (q : Nat) : (d.netDrop n).site q = d.site q := rfl
@[simp] theorem Dev.netDrop_read_ward (d : Dev) (n : Nat) (q : Nat) : (d.netDrop n).ward q = d.ward q := rfl
@[simp] theorem Dev.netDrop_read_tick (d : Dev) (n : Nat) (q : Nat) : (d.netDrop n).tick q = d.tick q := rfl
@[simp] theorem Dev.netDrop_read_pwOf (d : Dev) (n : Nat) (q : Nat) : (d.netDrop n).pwOf q = d.pwOf q := rfl
@[simp] theorem Dev.netDrop_read_aonUp (d : Dev) (n : Nat) (q : Nat) : (d.netDrop n).aonUp q = d.aonUp q := rfl

/-! setEng -/

@[simp] theorem Dev.setEng_fuse (d : Dev) (die e : Nat) (x : Eng) : (d.setEng die e x).fuse = d.fuse := rfl
@[simp] theorem Dev.setEng_pw (d : Dev) (die e : Nat) (x : Eng) : (d.setEng die e x).pw = d.pw := rfl
@[simp] theorem Dev.setEng_aon (d : Dev) (die e : Nat) (x : Eng) : (d.setEng die e x).aon = d.aon := rfl
@[simp] theorem Dev.setEng_rf (d : Dev) (die e : Nat) (x : Eng) : (d.setEng die e x).rf = d.rf := rfl
@[simp] theorem Dev.setEng_capt (d : Dev) (die e : Nat) (x : Eng) : (d.setEng die e x).capt = d.capt := rfl
@[simp] theorem Dev.setEng_held (d : Dev) (die e : Nat) (x : Eng) : (d.setEng die e x).held = d.held := rfl
@[simp] theorem Dev.setEng_free (d : Dev) (die e : Nat) (x : Eng) : (d.setEng die e x).free = d.free := rfl
@[simp] theorem Dev.setEng_mem (d : Dev) (die e : Nat) (x : Eng) : (d.setEng die e x).mem = d.mem := rfl
@[simp] theorem Dev.setEng_unwritten (d : Dev) (die e : Nat) (x : Eng) : (d.setEng die e x).unwritten = d.unwritten := rfl
@[simp] theorem Dev.setEng_errs (d : Dev) (die e : Nat) (x : Eng) : (d.setEng die e x).errs = d.errs := rfl
@[simp] theorem Dev.setEng_lcnt (d : Dev) (die e : Nat) (x : Eng) : (d.setEng die e x).lcnt = d.lcnt := rfl
@[simp] theorem Dev.setEng_cores (d : Dev) (die e : Nat) (x : Eng) : (d.setEng die e x).cores = d.cores := rfl
@[simp] theorem Dev.setEng_cells (d : Dev) (die e : Nat) (x : Eng) : (d.setEng die e x).cells = d.cells := rfl
@[simp] theorem Dev.setEng_cellPart (d : Dev) (die e : Nat) (x : Eng) : (d.setEng die e x).cellPart = d.cellPart := rfl
@[simp] theorem Dev.setEng_tmb (d : Dev) (die e : Nat) (x : Eng) : (d.setEng die e x).tmb = d.tmb := rfl
@[simp] theorem Dev.setEng_waits (d : Dev) (die e : Nat) (x : Eng) : (d.setEng die e x).waits = d.waits := rfl
@[simp] theorem Dev.setEng_swGen (d : Dev) (die e : Nat) (x : Eng) : (d.setEng die e x).swGen = d.swGen := rfl
@[simp] theorem Dev.setEng_ctl (d : Dev) (die e : Nat) (x : Eng) : (d.setEng die e x).ctl = d.ctl := rfl
@[simp] theorem Dev.setEng_net (d : Dev) (die e : Nat) (x : Eng) : (d.setEng die e x).net = d.net := rfl
@[simp] theorem Dev.setEng_sqn (d : Dev) (die e : Nat) (x : Eng) : (d.setEng die e x).sqn = d.sqn := rfl
@[simp] theorem Dev.setEng_engs_now (d : Dev) (die e : Nat) (x : Eng) : (d.setEng die e x).engs = d.engs.put (engKey die e) x := rfl
@[simp] theorem Dev.setEng_unfs (d : Dev) (die e : Nat) (x : Eng) : (d.setEng die e x).unfs = d.unfs := rfl
@[simp] theorem Dev.setEng_dsps (d : Dev) (die e : Nat) (x : Eng) : (d.setEng die e x).dsps = d.dsps := rfl
@[simp] theorem Dev.setEng_bq (d : Dev) (die e : Nat) (x : Eng) : (d.setEng die e x).bq = d.bq := rfl
@[simp] theorem Dev.setEng_rdq (d : Dev) (die e : Nat) (x : Eng) : (d.setEng die e x).rdq = d.rdq := rfl
@[simp] theorem Dev.setEng_wrq (d : Dev) (die e : Nat) (x : Eng) : (d.setEng die e x).wrq = d.wrq := rfl
@[simp] theorem Dev.setEng_rows (d : Dev) (die e : Nat) (x : Eng) : (d.setEng die e x).rows = d.rows := rfl
@[simp] theorem Dev.setEng_hbm (d : Dev) (die e : Nat) (x : Eng) : (d.setEng die e x).hbm = d.hbm := rfl
@[simp] theorem Dev.setEng_narrow (d : Dev) (die e : Nat) (x : Eng) : (d.setEng die e x).narrow = d.narrow := rfl
@[simp] theorem Dev.setEng_conv (d : Dev) (die e : Nat) (x : Eng) : (d.setEng die e x).conv = d.conv := rfl
@[simp] theorem Dev.setEng_merge (d : Dev) (die e : Nat) (x : Eng) : (d.setEng die e x).merge = d.merge := rfl
@[simp] theorem Dev.setEng_scrub (d : Dev) (die e : Nat) (x : Eng) : (d.setEng die e x).scrub = d.scrub := rfl
@[simp] theorem Dev.setEng_wback (d : Dev) (die e : Nat) (x : Eng) : (d.setEng die e x).wback = d.wback := rfl
@[simp] theorem Dev.setEng_stest (d : Dev) (die e : Nat) (x : Eng) : (d.setEng die e x).stest = d.stest := rfl
@[simp] theorem Dev.setEng_zfill (d : Dev) (die e : Nat) (x : Eng) : (d.setEng die e x).zfill = d.zfill := rfl
@[simp] theorem Dev.setEng_memtest (d : Dev) (die e : Nat) (x : Eng) : (d.setEng die e x).memtest = d.memtest := rfl
@[simp] theorem Dev.setEng_krg (d : Dev) (die e : Nat) (x : Eng) : (d.setEng die e x).krg = d.krg := rfl
@[simp] theorem Dev.setEng_krgP (d : Dev) (die e : Nat) (x : Eng) : (d.setEng die e x).krgP = d.krgP := rfl
@[simp] theorem Dev.setEng_drains (d : Dev) (die e : Nat) (x : Eng) : (d.setEng die e x).drains = d.drains := rfl
@[simp] theorem Dev.setEng_stwIo (d : Dev) (die e : Nat) (x : Eng) : (d.setEng die e x).stwIo = d.stwIo := rfl
@[simp] theorem Dev.setEng_flinks (d : Dev) (die e : Nat) (x : Eng) : (d.setEng die e x).flinks = d.flinks := rfl
@[simp] theorem Dev.setEng_knks (d : Dev) (die e : Nat) (x : Eng) : (d.setEng die e x).knks = d.knks := rfl
@[simp] theorem Dev.setEng_knkPend (d : Dev) (die e : Nat) (x : Eng) : (d.setEng die e x).knkPend = d.knkPend := rfl
@[simp] theorem Dev.setEng_mapUpd (d : Dev) (die e : Nat) (x : Eng) : (d.setEng die e x).mapUpd = d.mapUpd := rfl
@[simp] theorem Dev.setEng_sites (d : Dev) (die e : Nat) (x : Eng) : (d.setEng die e x).sites = d.sites := rfl
@[simp] theorem Dev.setEng_alert (d : Dev) (die e : Nat) (x : Eng) : (d.setEng die e x).alert = d.alert := rfl
@[simp] theorem Dev.setEng_tripN (d : Dev) (die e : Nat) (x : Eng) : (d.setEng die e x).tripN = d.tripN := rfl
@[simp] theorem Dev.setEng_irqs (d : Dev) (die e : Nat) (x : Eng) : (d.setEng die e x).irqs = d.irqs := rfl
@[simp] theorem Dev.setEng_lanes (d : Dev) (die e : Nat) (x : Eng) : (d.setEng die e x).lanes = d.lanes := rfl
@[simp] theorem Dev.setEng_ports (d : Dev) (die e : Nat) (x : Eng) : (d.setEng die e x).ports = d.ports := rfl
@[simp] theorem Dev.setEng_eths (d : Dev) (die e : Nat) (x : Eng) : (d.setEng die e x).eths = d.eths := rfl
@[simp] theorem Dev.setEng_qps (d : Dev) (die e : Nat) (x : Eng) : (d.setEng die e x).qps = d.qps := rfl
@[simp] theorem Dev.setEng_mbxIn (d : Dev) (die e : Nat) (x : Eng) : (d.setEng die e x).mbxIn = d.mbxIn := rfl
@[simp] theorem Dev.setEng_stews (d : Dev) (die e : Nat) (x : Eng) : (d.setEng die e x).stews = d.stews := rfl
@[simp] theorem Dev.setEng_parts (d : Dev) (die e : Nat) (x : Eng) : (d.setEng die e x).parts = d.parts := rfl
@[simp] theorem Dev.setEng_wards (d : Dev) (die e : Nat) (x : Eng) : (d.setEng die e x).wards = d.wards := rfl
@[simp] theorem Dev.setEng_pws (d : Dev) (die e : Nat) (x : Eng) : (d.setEng die e x).pws = d.pws := rfl
@[simp] theorem Dev.setEng_chunks (d : Dev) (die e : Nat) (x : Eng) : (d.setEng die e x).chunks = d.chunks := rfl
@[simp] theorem Dev.setEng_i3c (d : Dev) (die e : Nat) (x : Eng) : (d.setEng die e x).i3c = d.i3c := rfl
@[simp] theorem Dev.setEng_i3cOut (d : Dev) (die e : Nat) (x : Eng) : (d.setEng die e x).i3cOut = d.i3cOut := rfl
@[simp] theorem Dev.setEng_flash (d : Dev) (die e : Nat) (x : Eng) : (d.setEng die e x).flash = d.flash := rfl
@[simp] theorem Dev.setEng_read_raw (d : Dev) (die e : Nat) (x : Eng) (r : RKey) : (d.setEng die e x).raw r = d.raw r := rfl
@[simp] theorem Dev.setEng_read_get (d : Dev) (die e : Nat) (x : Eng) (g : Fld) (die' i' s' : Nat) : (d.setEng die e x).get g die' i' s' = d.get g die' i' s' := rfl
@[simp] theorem Dev.setEng_read_coreAt (d : Dev) (die e : Nat) (x : Eng) (q : Nat) : (d.setEng die e x).coreAt q = d.coreAt q := rfl
@[simp] theorem Dev.setEng_read_cellAt (d : Dev) (die e : Nat) (x : Eng) (q : Nat) : (d.setEng die e x).cellAt q = d.cellAt q := rfl
@[simp] theorem Dev.setEng_read_partOf (d : Dev) (die e : Nat) (x : Eng) (q : Nat) : (d.setEng die e x).partOf q = d.partOf q := rfl
@[simp] theorem Dev.setEng_read_tumbler (d : Dev) (die e : Nat) (x : Eng) (die' j : Nat) : (d.setEng die e x).tumbler die' j = d.tumbler die' j := rfl
@[simp] theorem Dev.setEng_read_unfAt (d : Dev) (die e : Nat) (x : Eng) (die' e' : Nat) : (d.setEng die e x).unfAt die' e' = d.unfAt die' e' := rfl
@[simp] theorem Dev.setEng_read_dsp (d : Dev) (die e : Nat) (x : Eng) (q : Nat) : (d.setEng die e x).dsp q = d.dsp q := rfl
@[simp] theorem Dev.setEng_read_eth (d : Dev) (die e : Nat) (x : Eng) (die' e' : Nat) : (d.setEng die e x).eth die' e' = d.eth die' e' := rfl
@[simp] theorem Dev.setEng_read_hbmAt (d : Dev) (die e : Nat) (x : Eng) (die' e' : Nat) : (d.setEng die e x).hbmAt die' e' = d.hbmAt die' e' := rfl
@[simp] theorem Dev.setEng_read_flink (d : Dev) (die e : Nat) (x : Eng) (die' e' : Nat) : (d.setEng die e x).flink die' e' = d.flink die' e' := rfl
@[simp] theorem Dev.setEng_read_knk (d : Dev) (die e : Nat) (x : Eng) (q : Nat) : (d.setEng die e x).knk q = d.knk q := rfl
@[simp] theorem Dev.setEng_read_lane (d : Dev) (die e : Nat) (x : Eng) (die' e' : Nat) : (d.setEng die e x).lane die' e' = d.lane die' e' := rfl
@[simp] theorem Dev.setEng_read_port (d : Dev) (die e : Nat) (x : Eng) (q : Nat) : (d.setEng die e x).port q = d.port q := rfl
@[simp] theorem Dev.setEng_read_qp (d : Dev) (die e : Nat) (x : Eng) (q : Nat) : (d.setEng die e x).qp q = d.qp q := rfl
@[simp] theorem Dev.setEng_read_stew (d : Dev) (die e : Nat) (x : Eng) (q : Nat) : (d.setEng die e x).stew q = d.stew q := rfl
@[simp] theorem Dev.setEng_read_site (d : Dev) (die e : Nat) (x : Eng) (q : Nat) : (d.setEng die e x).site q = d.site q := rfl
@[simp] theorem Dev.setEng_read_ward (d : Dev) (die e : Nat) (x : Eng) (q : Nat) : (d.setEng die e x).ward q = d.ward q := rfl
@[simp] theorem Dev.setEng_read_tick (d : Dev) (die e : Nat) (x : Eng) (q : Nat) : (d.setEng die e x).tick q = d.tick q := rfl
@[simp] theorem Dev.setEng_read_pwOf (d : Dev) (die e : Nat) (x : Eng) (q : Nat) : (d.setEng die e x).pwOf q = d.pwOf q := rfl
@[simp] theorem Dev.setEng_read_aonUp (d : Dev) (die e : Nat) (x : Eng) (q : Nat) : (d.setEng die e x).aonUp q = d.aonUp q := rfl
@[simp] theorem Dev.setEng_eng_self (d : Dev) (die e : Nat) (x : Eng) : (d.setEng die e x).eng die e = x := by
  unfold Dev.setEng Dev.eng
  rw [KMap.atD_put, if_pos rfl]

/-! setUnf -/

@[simp] theorem Dev.setUnf_fuse (d : Dev) (die u : Nat) (x : Unf) : (d.setUnf die u x).fuse = d.fuse := rfl
@[simp] theorem Dev.setUnf_pw (d : Dev) (die u : Nat) (x : Unf) : (d.setUnf die u x).pw = d.pw := rfl
@[simp] theorem Dev.setUnf_aon (d : Dev) (die u : Nat) (x : Unf) : (d.setUnf die u x).aon = d.aon := rfl
@[simp] theorem Dev.setUnf_rf (d : Dev) (die u : Nat) (x : Unf) : (d.setUnf die u x).rf = d.rf := rfl
@[simp] theorem Dev.setUnf_capt (d : Dev) (die u : Nat) (x : Unf) : (d.setUnf die u x).capt = d.capt := rfl
@[simp] theorem Dev.setUnf_held (d : Dev) (die u : Nat) (x : Unf) : (d.setUnf die u x).held = d.held := rfl
@[simp] theorem Dev.setUnf_free (d : Dev) (die u : Nat) (x : Unf) : (d.setUnf die u x).free = d.free := rfl
@[simp] theorem Dev.setUnf_mem (d : Dev) (die u : Nat) (x : Unf) : (d.setUnf die u x).mem = d.mem := rfl
@[simp] theorem Dev.setUnf_unwritten (d : Dev) (die u : Nat) (x : Unf) : (d.setUnf die u x).unwritten = d.unwritten := rfl
@[simp] theorem Dev.setUnf_errs (d : Dev) (die u : Nat) (x : Unf) : (d.setUnf die u x).errs = d.errs := rfl
@[simp] theorem Dev.setUnf_lcnt (d : Dev) (die u : Nat) (x : Unf) : (d.setUnf die u x).lcnt = d.lcnt := rfl
@[simp] theorem Dev.setUnf_cores (d : Dev) (die u : Nat) (x : Unf) : (d.setUnf die u x).cores = d.cores := rfl
@[simp] theorem Dev.setUnf_cells (d : Dev) (die u : Nat) (x : Unf) : (d.setUnf die u x).cells = d.cells := rfl
@[simp] theorem Dev.setUnf_cellPart (d : Dev) (die u : Nat) (x : Unf) : (d.setUnf die u x).cellPart = d.cellPart := rfl
@[simp] theorem Dev.setUnf_tmb (d : Dev) (die u : Nat) (x : Unf) : (d.setUnf die u x).tmb = d.tmb := rfl
@[simp] theorem Dev.setUnf_waits (d : Dev) (die u : Nat) (x : Unf) : (d.setUnf die u x).waits = d.waits := rfl
@[simp] theorem Dev.setUnf_swGen (d : Dev) (die u : Nat) (x : Unf) : (d.setUnf die u x).swGen = d.swGen := rfl
@[simp] theorem Dev.setUnf_ctl (d : Dev) (die u : Nat) (x : Unf) : (d.setUnf die u x).ctl = d.ctl := rfl
@[simp] theorem Dev.setUnf_net (d : Dev) (die u : Nat) (x : Unf) : (d.setUnf die u x).net = d.net := rfl
@[simp] theorem Dev.setUnf_sqn (d : Dev) (die u : Nat) (x : Unf) : (d.setUnf die u x).sqn = d.sqn := rfl
@[simp] theorem Dev.setUnf_engs (d : Dev) (die u : Nat) (x : Unf) : (d.setUnf die u x).engs = d.engs := rfl
@[simp] theorem Dev.setUnf_unfs_now (d : Dev) (die u : Nat) (x : Unf) : (d.setUnf die u x).unfs = d.unfs.put (die * 24 + u) x := rfl
@[simp] theorem Dev.setUnf_dsps (d : Dev) (die u : Nat) (x : Unf) : (d.setUnf die u x).dsps = d.dsps := rfl
@[simp] theorem Dev.setUnf_bq (d : Dev) (die u : Nat) (x : Unf) : (d.setUnf die u x).bq = d.bq := rfl
@[simp] theorem Dev.setUnf_rdq (d : Dev) (die u : Nat) (x : Unf) : (d.setUnf die u x).rdq = d.rdq := rfl
@[simp] theorem Dev.setUnf_wrq (d : Dev) (die u : Nat) (x : Unf) : (d.setUnf die u x).wrq = d.wrq := rfl
@[simp] theorem Dev.setUnf_rows (d : Dev) (die u : Nat) (x : Unf) : (d.setUnf die u x).rows = d.rows := rfl
@[simp] theorem Dev.setUnf_hbm (d : Dev) (die u : Nat) (x : Unf) : (d.setUnf die u x).hbm = d.hbm := rfl
@[simp] theorem Dev.setUnf_narrow (d : Dev) (die u : Nat) (x : Unf) : (d.setUnf die u x).narrow = d.narrow := rfl
@[simp] theorem Dev.setUnf_conv (d : Dev) (die u : Nat) (x : Unf) : (d.setUnf die u x).conv = d.conv := rfl
@[simp] theorem Dev.setUnf_merge (d : Dev) (die u : Nat) (x : Unf) : (d.setUnf die u x).merge = d.merge := rfl
@[simp] theorem Dev.setUnf_scrub (d : Dev) (die u : Nat) (x : Unf) : (d.setUnf die u x).scrub = d.scrub := rfl
@[simp] theorem Dev.setUnf_wback (d : Dev) (die u : Nat) (x : Unf) : (d.setUnf die u x).wback = d.wback := rfl
@[simp] theorem Dev.setUnf_stest (d : Dev) (die u : Nat) (x : Unf) : (d.setUnf die u x).stest = d.stest := rfl
@[simp] theorem Dev.setUnf_zfill (d : Dev) (die u : Nat) (x : Unf) : (d.setUnf die u x).zfill = d.zfill := rfl
@[simp] theorem Dev.setUnf_memtest (d : Dev) (die u : Nat) (x : Unf) : (d.setUnf die u x).memtest = d.memtest := rfl
@[simp] theorem Dev.setUnf_krg (d : Dev) (die u : Nat) (x : Unf) : (d.setUnf die u x).krg = d.krg := rfl
@[simp] theorem Dev.setUnf_krgP (d : Dev) (die u : Nat) (x : Unf) : (d.setUnf die u x).krgP = d.krgP := rfl
@[simp] theorem Dev.setUnf_drains (d : Dev) (die u : Nat) (x : Unf) : (d.setUnf die u x).drains = d.drains := rfl
@[simp] theorem Dev.setUnf_stwIo (d : Dev) (die u : Nat) (x : Unf) : (d.setUnf die u x).stwIo = d.stwIo := rfl
@[simp] theorem Dev.setUnf_flinks (d : Dev) (die u : Nat) (x : Unf) : (d.setUnf die u x).flinks = d.flinks := rfl
@[simp] theorem Dev.setUnf_knks (d : Dev) (die u : Nat) (x : Unf) : (d.setUnf die u x).knks = d.knks := rfl
@[simp] theorem Dev.setUnf_knkPend (d : Dev) (die u : Nat) (x : Unf) : (d.setUnf die u x).knkPend = d.knkPend := rfl
@[simp] theorem Dev.setUnf_mapUpd (d : Dev) (die u : Nat) (x : Unf) : (d.setUnf die u x).mapUpd = d.mapUpd := rfl
@[simp] theorem Dev.setUnf_sites (d : Dev) (die u : Nat) (x : Unf) : (d.setUnf die u x).sites = d.sites := rfl
@[simp] theorem Dev.setUnf_alert (d : Dev) (die u : Nat) (x : Unf) : (d.setUnf die u x).alert = d.alert := rfl
@[simp] theorem Dev.setUnf_tripN (d : Dev) (die u : Nat) (x : Unf) : (d.setUnf die u x).tripN = d.tripN := rfl
@[simp] theorem Dev.setUnf_irqs (d : Dev) (die u : Nat) (x : Unf) : (d.setUnf die u x).irqs = d.irqs := rfl
@[simp] theorem Dev.setUnf_lanes (d : Dev) (die u : Nat) (x : Unf) : (d.setUnf die u x).lanes = d.lanes := rfl
@[simp] theorem Dev.setUnf_ports (d : Dev) (die u : Nat) (x : Unf) : (d.setUnf die u x).ports = d.ports := rfl
@[simp] theorem Dev.setUnf_eths (d : Dev) (die u : Nat) (x : Unf) : (d.setUnf die u x).eths = d.eths := rfl
@[simp] theorem Dev.setUnf_qps (d : Dev) (die u : Nat) (x : Unf) : (d.setUnf die u x).qps = d.qps := rfl
@[simp] theorem Dev.setUnf_mbxIn (d : Dev) (die u : Nat) (x : Unf) : (d.setUnf die u x).mbxIn = d.mbxIn := rfl
@[simp] theorem Dev.setUnf_stews (d : Dev) (die u : Nat) (x : Unf) : (d.setUnf die u x).stews = d.stews := rfl
@[simp] theorem Dev.setUnf_parts (d : Dev) (die u : Nat) (x : Unf) : (d.setUnf die u x).parts = d.parts := rfl
@[simp] theorem Dev.setUnf_wards (d : Dev) (die u : Nat) (x : Unf) : (d.setUnf die u x).wards = d.wards := rfl
@[simp] theorem Dev.setUnf_pws (d : Dev) (die u : Nat) (x : Unf) : (d.setUnf die u x).pws = d.pws := rfl
@[simp] theorem Dev.setUnf_chunks (d : Dev) (die u : Nat) (x : Unf) : (d.setUnf die u x).chunks = d.chunks := rfl
@[simp] theorem Dev.setUnf_i3c (d : Dev) (die u : Nat) (x : Unf) : (d.setUnf die u x).i3c = d.i3c := rfl
@[simp] theorem Dev.setUnf_i3cOut (d : Dev) (die u : Nat) (x : Unf) : (d.setUnf die u x).i3cOut = d.i3cOut := rfl
@[simp] theorem Dev.setUnf_flash (d : Dev) (die u : Nat) (x : Unf) : (d.setUnf die u x).flash = d.flash := rfl
@[simp] theorem Dev.setUnf_read_raw (d : Dev) (die u : Nat) (x : Unf) (r : RKey) : (d.setUnf die u x).raw r = d.raw r := rfl
@[simp] theorem Dev.setUnf_read_get (d : Dev) (die u : Nat) (x : Unf) (g : Fld) (die' i' s' : Nat) : (d.setUnf die u x).get g die' i' s' = d.get g die' i' s' := rfl
@[simp] theorem Dev.setUnf_read_coreAt (d : Dev) (die u : Nat) (x : Unf) (q : Nat) : (d.setUnf die u x).coreAt q = d.coreAt q := rfl
@[simp] theorem Dev.setUnf_read_cellAt (d : Dev) (die u : Nat) (x : Unf) (q : Nat) : (d.setUnf die u x).cellAt q = d.cellAt q := rfl
@[simp] theorem Dev.setUnf_read_partOf (d : Dev) (die u : Nat) (x : Unf) (q : Nat) : (d.setUnf die u x).partOf q = d.partOf q := rfl
@[simp] theorem Dev.setUnf_read_tumbler (d : Dev) (die u : Nat) (x : Unf) (die' j : Nat) : (d.setUnf die u x).tumbler die' j = d.tumbler die' j := rfl
@[simp] theorem Dev.setUnf_read_eng (d : Dev) (die u : Nat) (x : Unf) (die' e' : Nat) : (d.setUnf die u x).eng die' e' = d.eng die' e' := rfl
@[simp] theorem Dev.setUnf_read_dsp (d : Dev) (die u : Nat) (x : Unf) (q : Nat) : (d.setUnf die u x).dsp q = d.dsp q := rfl
@[simp] theorem Dev.setUnf_read_eth (d : Dev) (die u : Nat) (x : Unf) (die' e' : Nat) : (d.setUnf die u x).eth die' e' = d.eth die' e' := rfl
@[simp] theorem Dev.setUnf_read_hbmAt (d : Dev) (die u : Nat) (x : Unf) (die' e' : Nat) : (d.setUnf die u x).hbmAt die' e' = d.hbmAt die' e' := rfl
@[simp] theorem Dev.setUnf_read_flink (d : Dev) (die u : Nat) (x : Unf) (die' e' : Nat) : (d.setUnf die u x).flink die' e' = d.flink die' e' := rfl
@[simp] theorem Dev.setUnf_read_knk (d : Dev) (die u : Nat) (x : Unf) (q : Nat) : (d.setUnf die u x).knk q = d.knk q := rfl
@[simp] theorem Dev.setUnf_read_lane (d : Dev) (die u : Nat) (x : Unf) (die' e' : Nat) : (d.setUnf die u x).lane die' e' = d.lane die' e' := rfl
@[simp] theorem Dev.setUnf_read_port (d : Dev) (die u : Nat) (x : Unf) (q : Nat) : (d.setUnf die u x).port q = d.port q := rfl
@[simp] theorem Dev.setUnf_read_qp (d : Dev) (die u : Nat) (x : Unf) (q : Nat) : (d.setUnf die u x).qp q = d.qp q := rfl
@[simp] theorem Dev.setUnf_read_stew (d : Dev) (die u : Nat) (x : Unf) (q : Nat) : (d.setUnf die u x).stew q = d.stew q := rfl
@[simp] theorem Dev.setUnf_read_site (d : Dev) (die u : Nat) (x : Unf) (q : Nat) : (d.setUnf die u x).site q = d.site q := rfl
@[simp] theorem Dev.setUnf_read_ward (d : Dev) (die u : Nat) (x : Unf) (q : Nat) : (d.setUnf die u x).ward q = d.ward q := rfl
@[simp] theorem Dev.setUnf_read_tick (d : Dev) (die u : Nat) (x : Unf) (q : Nat) : (d.setUnf die u x).tick q = d.tick q := rfl
@[simp] theorem Dev.setUnf_read_pwOf (d : Dev) (die u : Nat) (x : Unf) (q : Nat) : (d.setUnf die u x).pwOf q = d.pwOf q := rfl
@[simp] theorem Dev.setUnf_read_aonUp (d : Dev) (die u : Nat) (x : Unf) (q : Nat) : (d.setUnf die u x).aonUp q = d.aonUp q := rfl
@[simp] theorem Dev.setUnf_unfAt_self (d : Dev) (die u : Nat) (x : Unf) : (d.setUnf die u x).unfAt die u = x := by
  unfold Dev.setUnf Dev.unfAt
  rw [KMap.atD_put, if_pos rfl]

/-! modDsp -/

@[simp] theorem Dev.modDsp_fuse (d : Dev) (die : Nat) (f : Dsp → Dsp) : (d.modDsp die f).fuse = d.fuse := rfl
@[simp] theorem Dev.modDsp_pw (d : Dev) (die : Nat) (f : Dsp → Dsp) : (d.modDsp die f).pw = d.pw := rfl
@[simp] theorem Dev.modDsp_aon (d : Dev) (die : Nat) (f : Dsp → Dsp) : (d.modDsp die f).aon = d.aon := rfl
@[simp] theorem Dev.modDsp_rf (d : Dev) (die : Nat) (f : Dsp → Dsp) : (d.modDsp die f).rf = d.rf := rfl
@[simp] theorem Dev.modDsp_capt (d : Dev) (die : Nat) (f : Dsp → Dsp) : (d.modDsp die f).capt = d.capt := rfl
@[simp] theorem Dev.modDsp_held (d : Dev) (die : Nat) (f : Dsp → Dsp) : (d.modDsp die f).held = d.held := rfl
@[simp] theorem Dev.modDsp_free (d : Dev) (die : Nat) (f : Dsp → Dsp) : (d.modDsp die f).free = d.free := rfl
@[simp] theorem Dev.modDsp_mem (d : Dev) (die : Nat) (f : Dsp → Dsp) : (d.modDsp die f).mem = d.mem := rfl
@[simp] theorem Dev.modDsp_unwritten (d : Dev) (die : Nat) (f : Dsp → Dsp) : (d.modDsp die f).unwritten = d.unwritten := rfl
@[simp] theorem Dev.modDsp_errs (d : Dev) (die : Nat) (f : Dsp → Dsp) : (d.modDsp die f).errs = d.errs := rfl
@[simp] theorem Dev.modDsp_lcnt (d : Dev) (die : Nat) (f : Dsp → Dsp) : (d.modDsp die f).lcnt = d.lcnt := rfl
@[simp] theorem Dev.modDsp_cores (d : Dev) (die : Nat) (f : Dsp → Dsp) : (d.modDsp die f).cores = d.cores := rfl
@[simp] theorem Dev.modDsp_cells (d : Dev) (die : Nat) (f : Dsp → Dsp) : (d.modDsp die f).cells = d.cells := rfl
@[simp] theorem Dev.modDsp_cellPart (d : Dev) (die : Nat) (f : Dsp → Dsp) : (d.modDsp die f).cellPart = d.cellPart := rfl
@[simp] theorem Dev.modDsp_tmb (d : Dev) (die : Nat) (f : Dsp → Dsp) : (d.modDsp die f).tmb = d.tmb := rfl
@[simp] theorem Dev.modDsp_waits (d : Dev) (die : Nat) (f : Dsp → Dsp) : (d.modDsp die f).waits = d.waits := rfl
@[simp] theorem Dev.modDsp_swGen (d : Dev) (die : Nat) (f : Dsp → Dsp) : (d.modDsp die f).swGen = d.swGen := rfl
@[simp] theorem Dev.modDsp_ctl (d : Dev) (die : Nat) (f : Dsp → Dsp) : (d.modDsp die f).ctl = d.ctl := rfl
@[simp] theorem Dev.modDsp_net (d : Dev) (die : Nat) (f : Dsp → Dsp) : (d.modDsp die f).net = d.net := rfl
@[simp] theorem Dev.modDsp_sqn (d : Dev) (die : Nat) (f : Dsp → Dsp) : (d.modDsp die f).sqn = d.sqn := rfl
@[simp] theorem Dev.modDsp_engs (d : Dev) (die : Nat) (f : Dsp → Dsp) : (d.modDsp die f).engs = d.engs := rfl
@[simp] theorem Dev.modDsp_unfs (d : Dev) (die : Nat) (f : Dsp → Dsp) : (d.modDsp die f).unfs = d.unfs := rfl
@[simp] theorem Dev.modDsp_dsps_now (d : Dev) (die : Nat) (f : Dsp → Dsp) : (d.modDsp die f).dsps = d.dsps.put die (f (d.dsp die)) := rfl
@[simp] theorem Dev.modDsp_bq (d : Dev) (die : Nat) (f : Dsp → Dsp) : (d.modDsp die f).bq = d.bq := rfl
@[simp] theorem Dev.modDsp_rdq (d : Dev) (die : Nat) (f : Dsp → Dsp) : (d.modDsp die f).rdq = d.rdq := rfl
@[simp] theorem Dev.modDsp_wrq (d : Dev) (die : Nat) (f : Dsp → Dsp) : (d.modDsp die f).wrq = d.wrq := rfl
@[simp] theorem Dev.modDsp_rows (d : Dev) (die : Nat) (f : Dsp → Dsp) : (d.modDsp die f).rows = d.rows := rfl
@[simp] theorem Dev.modDsp_hbm (d : Dev) (die : Nat) (f : Dsp → Dsp) : (d.modDsp die f).hbm = d.hbm := rfl
@[simp] theorem Dev.modDsp_narrow (d : Dev) (die : Nat) (f : Dsp → Dsp) : (d.modDsp die f).narrow = d.narrow := rfl
@[simp] theorem Dev.modDsp_conv (d : Dev) (die : Nat) (f : Dsp → Dsp) : (d.modDsp die f).conv = d.conv := rfl
@[simp] theorem Dev.modDsp_merge (d : Dev) (die : Nat) (f : Dsp → Dsp) : (d.modDsp die f).merge = d.merge := rfl
@[simp] theorem Dev.modDsp_scrub (d : Dev) (die : Nat) (f : Dsp → Dsp) : (d.modDsp die f).scrub = d.scrub := rfl
@[simp] theorem Dev.modDsp_wback (d : Dev) (die : Nat) (f : Dsp → Dsp) : (d.modDsp die f).wback = d.wback := rfl
@[simp] theorem Dev.modDsp_stest (d : Dev) (die : Nat) (f : Dsp → Dsp) : (d.modDsp die f).stest = d.stest := rfl
@[simp] theorem Dev.modDsp_zfill (d : Dev) (die : Nat) (f : Dsp → Dsp) : (d.modDsp die f).zfill = d.zfill := rfl
@[simp] theorem Dev.modDsp_memtest (d : Dev) (die : Nat) (f : Dsp → Dsp) : (d.modDsp die f).memtest = d.memtest := rfl
@[simp] theorem Dev.modDsp_krg (d : Dev) (die : Nat) (f : Dsp → Dsp) : (d.modDsp die f).krg = d.krg := rfl
@[simp] theorem Dev.modDsp_krgP (d : Dev) (die : Nat) (f : Dsp → Dsp) : (d.modDsp die f).krgP = d.krgP := rfl
@[simp] theorem Dev.modDsp_drains (d : Dev) (die : Nat) (f : Dsp → Dsp) : (d.modDsp die f).drains = d.drains := rfl
@[simp] theorem Dev.modDsp_stwIo (d : Dev) (die : Nat) (f : Dsp → Dsp) : (d.modDsp die f).stwIo = d.stwIo := rfl
@[simp] theorem Dev.modDsp_flinks (d : Dev) (die : Nat) (f : Dsp → Dsp) : (d.modDsp die f).flinks = d.flinks := rfl
@[simp] theorem Dev.modDsp_knks (d : Dev) (die : Nat) (f : Dsp → Dsp) : (d.modDsp die f).knks = d.knks := rfl
@[simp] theorem Dev.modDsp_knkPend (d : Dev) (die : Nat) (f : Dsp → Dsp) : (d.modDsp die f).knkPend = d.knkPend := rfl
@[simp] theorem Dev.modDsp_mapUpd (d : Dev) (die : Nat) (f : Dsp → Dsp) : (d.modDsp die f).mapUpd = d.mapUpd := rfl
@[simp] theorem Dev.modDsp_sites (d : Dev) (die : Nat) (f : Dsp → Dsp) : (d.modDsp die f).sites = d.sites := rfl
@[simp] theorem Dev.modDsp_alert (d : Dev) (die : Nat) (f : Dsp → Dsp) : (d.modDsp die f).alert = d.alert := rfl
@[simp] theorem Dev.modDsp_tripN (d : Dev) (die : Nat) (f : Dsp → Dsp) : (d.modDsp die f).tripN = d.tripN := rfl
@[simp] theorem Dev.modDsp_irqs (d : Dev) (die : Nat) (f : Dsp → Dsp) : (d.modDsp die f).irqs = d.irqs := rfl
@[simp] theorem Dev.modDsp_lanes (d : Dev) (die : Nat) (f : Dsp → Dsp) : (d.modDsp die f).lanes = d.lanes := rfl
@[simp] theorem Dev.modDsp_ports (d : Dev) (die : Nat) (f : Dsp → Dsp) : (d.modDsp die f).ports = d.ports := rfl
@[simp] theorem Dev.modDsp_eths (d : Dev) (die : Nat) (f : Dsp → Dsp) : (d.modDsp die f).eths = d.eths := rfl
@[simp] theorem Dev.modDsp_qps (d : Dev) (die : Nat) (f : Dsp → Dsp) : (d.modDsp die f).qps = d.qps := rfl
@[simp] theorem Dev.modDsp_mbxIn (d : Dev) (die : Nat) (f : Dsp → Dsp) : (d.modDsp die f).mbxIn = d.mbxIn := rfl
@[simp] theorem Dev.modDsp_stews (d : Dev) (die : Nat) (f : Dsp → Dsp) : (d.modDsp die f).stews = d.stews := rfl
@[simp] theorem Dev.modDsp_parts (d : Dev) (die : Nat) (f : Dsp → Dsp) : (d.modDsp die f).parts = d.parts := rfl
@[simp] theorem Dev.modDsp_wards (d : Dev) (die : Nat) (f : Dsp → Dsp) : (d.modDsp die f).wards = d.wards := rfl
@[simp] theorem Dev.modDsp_pws (d : Dev) (die : Nat) (f : Dsp → Dsp) : (d.modDsp die f).pws = d.pws := rfl
@[simp] theorem Dev.modDsp_chunks (d : Dev) (die : Nat) (f : Dsp → Dsp) : (d.modDsp die f).chunks = d.chunks := rfl
@[simp] theorem Dev.modDsp_i3c (d : Dev) (die : Nat) (f : Dsp → Dsp) : (d.modDsp die f).i3c = d.i3c := rfl
@[simp] theorem Dev.modDsp_i3cOut (d : Dev) (die : Nat) (f : Dsp → Dsp) : (d.modDsp die f).i3cOut = d.i3cOut := rfl
@[simp] theorem Dev.modDsp_flash (d : Dev) (die : Nat) (f : Dsp → Dsp) : (d.modDsp die f).flash = d.flash := rfl
@[simp] theorem Dev.modDsp_read_raw (d : Dev) (die : Nat) (f : Dsp → Dsp) (r : RKey) : (d.modDsp die f).raw r = d.raw r := rfl
@[simp] theorem Dev.modDsp_read_get (d : Dev) (die : Nat) (f : Dsp → Dsp) (g : Fld) (die' i' s' : Nat) : (d.modDsp die f).get g die' i' s' = d.get g die' i' s' := rfl
@[simp] theorem Dev.modDsp_read_coreAt (d : Dev) (die : Nat) (f : Dsp → Dsp) (q : Nat) : (d.modDsp die f).coreAt q = d.coreAt q := rfl
@[simp] theorem Dev.modDsp_read_cellAt (d : Dev) (die : Nat) (f : Dsp → Dsp) (q : Nat) : (d.modDsp die f).cellAt q = d.cellAt q := rfl
@[simp] theorem Dev.modDsp_read_partOf (d : Dev) (die : Nat) (f : Dsp → Dsp) (q : Nat) : (d.modDsp die f).partOf q = d.partOf q := rfl
@[simp] theorem Dev.modDsp_read_tumbler (d : Dev) (die : Nat) (f : Dsp → Dsp) (die' j : Nat) : (d.modDsp die f).tumbler die' j = d.tumbler die' j := rfl
@[simp] theorem Dev.modDsp_read_eng (d : Dev) (die : Nat) (f : Dsp → Dsp) (die' e' : Nat) : (d.modDsp die f).eng die' e' = d.eng die' e' := rfl
@[simp] theorem Dev.modDsp_read_unfAt (d : Dev) (die : Nat) (f : Dsp → Dsp) (die' e' : Nat) : (d.modDsp die f).unfAt die' e' = d.unfAt die' e' := rfl
@[simp] theorem Dev.modDsp_read_eth (d : Dev) (die : Nat) (f : Dsp → Dsp) (die' e' : Nat) : (d.modDsp die f).eth die' e' = d.eth die' e' := rfl
@[simp] theorem Dev.modDsp_read_hbmAt (d : Dev) (die : Nat) (f : Dsp → Dsp) (die' e' : Nat) : (d.modDsp die f).hbmAt die' e' = d.hbmAt die' e' := rfl
@[simp] theorem Dev.modDsp_read_flink (d : Dev) (die : Nat) (f : Dsp → Dsp) (die' e' : Nat) : (d.modDsp die f).flink die' e' = d.flink die' e' := rfl
@[simp] theorem Dev.modDsp_read_knk (d : Dev) (die : Nat) (f : Dsp → Dsp) (q : Nat) : (d.modDsp die f).knk q = d.knk q := rfl
@[simp] theorem Dev.modDsp_read_lane (d : Dev) (die : Nat) (f : Dsp → Dsp) (die' e' : Nat) : (d.modDsp die f).lane die' e' = d.lane die' e' := rfl
@[simp] theorem Dev.modDsp_read_port (d : Dev) (die : Nat) (f : Dsp → Dsp) (q : Nat) : (d.modDsp die f).port q = d.port q := rfl
@[simp] theorem Dev.modDsp_read_qp (d : Dev) (die : Nat) (f : Dsp → Dsp) (q : Nat) : (d.modDsp die f).qp q = d.qp q := rfl
@[simp] theorem Dev.modDsp_read_stew (d : Dev) (die : Nat) (f : Dsp → Dsp) (q : Nat) : (d.modDsp die f).stew q = d.stew q := rfl
@[simp] theorem Dev.modDsp_read_site (d : Dev) (die : Nat) (f : Dsp → Dsp) (q : Nat) : (d.modDsp die f).site q = d.site q := rfl
@[simp] theorem Dev.modDsp_read_ward (d : Dev) (die : Nat) (f : Dsp → Dsp) (q : Nat) : (d.modDsp die f).ward q = d.ward q := rfl
@[simp] theorem Dev.modDsp_read_tick (d : Dev) (die : Nat) (f : Dsp → Dsp) (q : Nat) : (d.modDsp die f).tick q = d.tick q := rfl
@[simp] theorem Dev.modDsp_read_pwOf (d : Dev) (die : Nat) (f : Dsp → Dsp) (q : Nat) : (d.modDsp die f).pwOf q = d.pwOf q := rfl
@[simp] theorem Dev.modDsp_read_aonUp (d : Dev) (die : Nat) (f : Dsp → Dsp) (q : Nat) : (d.modDsp die f).aonUp q = d.aonUp q := rfl
@[simp] theorem Dev.modDsp_dsp_self (d : Dev) (die : Nat) (f : Dsp → Dsp) : (d.modDsp die f).dsp die = f (d.dsp die) := by
  unfold Dev.modDsp Dev.dsp
  rw [KMap.atD_put, if_pos rfl]

/-! setEth -/

@[simp] theorem Dev.setEth_fuse (d : Dev) (die p : Nat) (x : EPort) : (d.setEth die p x).fuse = d.fuse := rfl
@[simp] theorem Dev.setEth_pw (d : Dev) (die p : Nat) (x : EPort) : (d.setEth die p x).pw = d.pw := rfl
@[simp] theorem Dev.setEth_aon (d : Dev) (die p : Nat) (x : EPort) : (d.setEth die p x).aon = d.aon := rfl
@[simp] theorem Dev.setEth_rf (d : Dev) (die p : Nat) (x : EPort) : (d.setEth die p x).rf = d.rf := rfl
@[simp] theorem Dev.setEth_capt (d : Dev) (die p : Nat) (x : EPort) : (d.setEth die p x).capt = d.capt := rfl
@[simp] theorem Dev.setEth_held (d : Dev) (die p : Nat) (x : EPort) : (d.setEth die p x).held = d.held := rfl
@[simp] theorem Dev.setEth_free (d : Dev) (die p : Nat) (x : EPort) : (d.setEth die p x).free = d.free := rfl
@[simp] theorem Dev.setEth_mem (d : Dev) (die p : Nat) (x : EPort) : (d.setEth die p x).mem = d.mem := rfl
@[simp] theorem Dev.setEth_unwritten (d : Dev) (die p : Nat) (x : EPort) : (d.setEth die p x).unwritten = d.unwritten := rfl
@[simp] theorem Dev.setEth_errs (d : Dev) (die p : Nat) (x : EPort) : (d.setEth die p x).errs = d.errs := rfl
@[simp] theorem Dev.setEth_lcnt (d : Dev) (die p : Nat) (x : EPort) : (d.setEth die p x).lcnt = d.lcnt := rfl
@[simp] theorem Dev.setEth_cores (d : Dev) (die p : Nat) (x : EPort) : (d.setEth die p x).cores = d.cores := rfl
@[simp] theorem Dev.setEth_cells (d : Dev) (die p : Nat) (x : EPort) : (d.setEth die p x).cells = d.cells := rfl
@[simp] theorem Dev.setEth_cellPart (d : Dev) (die p : Nat) (x : EPort) : (d.setEth die p x).cellPart = d.cellPart := rfl
@[simp] theorem Dev.setEth_tmb (d : Dev) (die p : Nat) (x : EPort) : (d.setEth die p x).tmb = d.tmb := rfl
@[simp] theorem Dev.setEth_waits (d : Dev) (die p : Nat) (x : EPort) : (d.setEth die p x).waits = d.waits := rfl
@[simp] theorem Dev.setEth_swGen (d : Dev) (die p : Nat) (x : EPort) : (d.setEth die p x).swGen = d.swGen := rfl
@[simp] theorem Dev.setEth_ctl (d : Dev) (die p : Nat) (x : EPort) : (d.setEth die p x).ctl = d.ctl := rfl
@[simp] theorem Dev.setEth_net (d : Dev) (die p : Nat) (x : EPort) : (d.setEth die p x).net = d.net := rfl
@[simp] theorem Dev.setEth_sqn (d : Dev) (die p : Nat) (x : EPort) : (d.setEth die p x).sqn = d.sqn := rfl
@[simp] theorem Dev.setEth_engs (d : Dev) (die p : Nat) (x : EPort) : (d.setEth die p x).engs = d.engs := rfl
@[simp] theorem Dev.setEth_unfs (d : Dev) (die p : Nat) (x : EPort) : (d.setEth die p x).unfs = d.unfs := rfl
@[simp] theorem Dev.setEth_dsps (d : Dev) (die p : Nat) (x : EPort) : (d.setEth die p x).dsps = d.dsps := rfl
@[simp] theorem Dev.setEth_bq (d : Dev) (die p : Nat) (x : EPort) : (d.setEth die p x).bq = d.bq := rfl
@[simp] theorem Dev.setEth_rdq (d : Dev) (die p : Nat) (x : EPort) : (d.setEth die p x).rdq = d.rdq := rfl
@[simp] theorem Dev.setEth_wrq (d : Dev) (die p : Nat) (x : EPort) : (d.setEth die p x).wrq = d.wrq := rfl
@[simp] theorem Dev.setEth_rows (d : Dev) (die p : Nat) (x : EPort) : (d.setEth die p x).rows = d.rows := rfl
@[simp] theorem Dev.setEth_hbm (d : Dev) (die p : Nat) (x : EPort) : (d.setEth die p x).hbm = d.hbm := rfl
@[simp] theorem Dev.setEth_narrow (d : Dev) (die p : Nat) (x : EPort) : (d.setEth die p x).narrow = d.narrow := rfl
@[simp] theorem Dev.setEth_conv (d : Dev) (die p : Nat) (x : EPort) : (d.setEth die p x).conv = d.conv := rfl
@[simp] theorem Dev.setEth_merge (d : Dev) (die p : Nat) (x : EPort) : (d.setEth die p x).merge = d.merge := rfl
@[simp] theorem Dev.setEth_scrub (d : Dev) (die p : Nat) (x : EPort) : (d.setEth die p x).scrub = d.scrub := rfl
@[simp] theorem Dev.setEth_wback (d : Dev) (die p : Nat) (x : EPort) : (d.setEth die p x).wback = d.wback := rfl
@[simp] theorem Dev.setEth_stest (d : Dev) (die p : Nat) (x : EPort) : (d.setEth die p x).stest = d.stest := rfl
@[simp] theorem Dev.setEth_zfill (d : Dev) (die p : Nat) (x : EPort) : (d.setEth die p x).zfill = d.zfill := rfl
@[simp] theorem Dev.setEth_memtest (d : Dev) (die p : Nat) (x : EPort) : (d.setEth die p x).memtest = d.memtest := rfl
@[simp] theorem Dev.setEth_krg (d : Dev) (die p : Nat) (x : EPort) : (d.setEth die p x).krg = d.krg := rfl
@[simp] theorem Dev.setEth_krgP (d : Dev) (die p : Nat) (x : EPort) : (d.setEth die p x).krgP = d.krgP := rfl
@[simp] theorem Dev.setEth_drains (d : Dev) (die p : Nat) (x : EPort) : (d.setEth die p x).drains = d.drains := rfl
@[simp] theorem Dev.setEth_stwIo (d : Dev) (die p : Nat) (x : EPort) : (d.setEth die p x).stwIo = d.stwIo := rfl
@[simp] theorem Dev.setEth_flinks (d : Dev) (die p : Nat) (x : EPort) : (d.setEth die p x).flinks = d.flinks := rfl
@[simp] theorem Dev.setEth_knks (d : Dev) (die p : Nat) (x : EPort) : (d.setEth die p x).knks = d.knks := rfl
@[simp] theorem Dev.setEth_knkPend (d : Dev) (die p : Nat) (x : EPort) : (d.setEth die p x).knkPend = d.knkPend := rfl
@[simp] theorem Dev.setEth_mapUpd (d : Dev) (die p : Nat) (x : EPort) : (d.setEth die p x).mapUpd = d.mapUpd := rfl
@[simp] theorem Dev.setEth_sites (d : Dev) (die p : Nat) (x : EPort) : (d.setEth die p x).sites = d.sites := rfl
@[simp] theorem Dev.setEth_alert (d : Dev) (die p : Nat) (x : EPort) : (d.setEth die p x).alert = d.alert := rfl
@[simp] theorem Dev.setEth_tripN (d : Dev) (die p : Nat) (x : EPort) : (d.setEth die p x).tripN = d.tripN := rfl
@[simp] theorem Dev.setEth_irqs (d : Dev) (die p : Nat) (x : EPort) : (d.setEth die p x).irqs = d.irqs := rfl
@[simp] theorem Dev.setEth_lanes (d : Dev) (die p : Nat) (x : EPort) : (d.setEth die p x).lanes = d.lanes := rfl
@[simp] theorem Dev.setEth_ports (d : Dev) (die p : Nat) (x : EPort) : (d.setEth die p x).ports = d.ports := rfl
@[simp] theorem Dev.setEth_eths_now (d : Dev) (die p : Nat) (x : EPort) : (d.setEth die p x).eths = d.eths.put (die, p) x := rfl
@[simp] theorem Dev.setEth_qps (d : Dev) (die p : Nat) (x : EPort) : (d.setEth die p x).qps = d.qps := rfl
@[simp] theorem Dev.setEth_mbxIn (d : Dev) (die p : Nat) (x : EPort) : (d.setEth die p x).mbxIn = d.mbxIn := rfl
@[simp] theorem Dev.setEth_stews (d : Dev) (die p : Nat) (x : EPort) : (d.setEth die p x).stews = d.stews := rfl
@[simp] theorem Dev.setEth_parts (d : Dev) (die p : Nat) (x : EPort) : (d.setEth die p x).parts = d.parts := rfl
@[simp] theorem Dev.setEth_wards (d : Dev) (die p : Nat) (x : EPort) : (d.setEth die p x).wards = d.wards := rfl
@[simp] theorem Dev.setEth_pws (d : Dev) (die p : Nat) (x : EPort) : (d.setEth die p x).pws = d.pws := rfl
@[simp] theorem Dev.setEth_chunks (d : Dev) (die p : Nat) (x : EPort) : (d.setEth die p x).chunks = d.chunks := rfl
@[simp] theorem Dev.setEth_i3c (d : Dev) (die p : Nat) (x : EPort) : (d.setEth die p x).i3c = d.i3c := rfl
@[simp] theorem Dev.setEth_i3cOut (d : Dev) (die p : Nat) (x : EPort) : (d.setEth die p x).i3cOut = d.i3cOut := rfl
@[simp] theorem Dev.setEth_flash (d : Dev) (die p : Nat) (x : EPort) : (d.setEth die p x).flash = d.flash := rfl
@[simp] theorem Dev.setEth_read_raw (d : Dev) (die p : Nat) (x : EPort) (r : RKey) : (d.setEth die p x).raw r = d.raw r := rfl
@[simp] theorem Dev.setEth_read_get (d : Dev) (die p : Nat) (x : EPort) (g : Fld) (die' i' s' : Nat) : (d.setEth die p x).get g die' i' s' = d.get g die' i' s' := rfl
@[simp] theorem Dev.setEth_read_coreAt (d : Dev) (die p : Nat) (x : EPort) (q : Nat) : (d.setEth die p x).coreAt q = d.coreAt q := rfl
@[simp] theorem Dev.setEth_read_cellAt (d : Dev) (die p : Nat) (x : EPort) (q : Nat) : (d.setEth die p x).cellAt q = d.cellAt q := rfl
@[simp] theorem Dev.setEth_read_partOf (d : Dev) (die p : Nat) (x : EPort) (q : Nat) : (d.setEth die p x).partOf q = d.partOf q := rfl
@[simp] theorem Dev.setEth_read_tumbler (d : Dev) (die p : Nat) (x : EPort) (die' j : Nat) : (d.setEth die p x).tumbler die' j = d.tumbler die' j := rfl
@[simp] theorem Dev.setEth_read_eng (d : Dev) (die p : Nat) (x : EPort) (die' e' : Nat) : (d.setEth die p x).eng die' e' = d.eng die' e' := rfl
@[simp] theorem Dev.setEth_read_unfAt (d : Dev) (die p : Nat) (x : EPort) (die' e' : Nat) : (d.setEth die p x).unfAt die' e' = d.unfAt die' e' := rfl
@[simp] theorem Dev.setEth_read_dsp (d : Dev) (die p : Nat) (x : EPort) (q : Nat) : (d.setEth die p x).dsp q = d.dsp q := rfl
@[simp] theorem Dev.setEth_read_hbmAt (d : Dev) (die p : Nat) (x : EPort) (die' e' : Nat) : (d.setEth die p x).hbmAt die' e' = d.hbmAt die' e' := rfl
@[simp] theorem Dev.setEth_read_flink (d : Dev) (die p : Nat) (x : EPort) (die' e' : Nat) : (d.setEth die p x).flink die' e' = d.flink die' e' := rfl
@[simp] theorem Dev.setEth_read_knk (d : Dev) (die p : Nat) (x : EPort) (q : Nat) : (d.setEth die p x).knk q = d.knk q := rfl
@[simp] theorem Dev.setEth_read_lane (d : Dev) (die p : Nat) (x : EPort) (die' e' : Nat) : (d.setEth die p x).lane die' e' = d.lane die' e' := rfl
@[simp] theorem Dev.setEth_read_port (d : Dev) (die p : Nat) (x : EPort) (q : Nat) : (d.setEth die p x).port q = d.port q := rfl
@[simp] theorem Dev.setEth_read_qp (d : Dev) (die p : Nat) (x : EPort) (q : Nat) : (d.setEth die p x).qp q = d.qp q := rfl
@[simp] theorem Dev.setEth_read_stew (d : Dev) (die p : Nat) (x : EPort) (q : Nat) : (d.setEth die p x).stew q = d.stew q := rfl
@[simp] theorem Dev.setEth_read_site (d : Dev) (die p : Nat) (x : EPort) (q : Nat) : (d.setEth die p x).site q = d.site q := rfl
@[simp] theorem Dev.setEth_read_ward (d : Dev) (die p : Nat) (x : EPort) (q : Nat) : (d.setEth die p x).ward q = d.ward q := rfl
@[simp] theorem Dev.setEth_read_tick (d : Dev) (die p : Nat) (x : EPort) (q : Nat) : (d.setEth die p x).tick q = d.tick q := rfl
@[simp] theorem Dev.setEth_read_pwOf (d : Dev) (die p : Nat) (x : EPort) (q : Nat) : (d.setEth die p x).pwOf q = d.pwOf q := rfl
@[simp] theorem Dev.setEth_read_aonUp (d : Dev) (die p : Nat) (x : EPort) (q : Nat) : (d.setEth die p x).aonUp q = d.aonUp q := rfl
@[simp] theorem Dev.setEth_eth_self (d : Dev) (die p : Nat) (x : EPort) : (d.setEth die p x).eth die p = x := by
  unfold Dev.setEth Dev.eth
  rw [KMap.atD_put, if_pos rfl]

/-! setHbm -/

@[simp] theorem Dev.setHbm_fuse (d : Dev) (die stack : Nat) (h : HbmSt) : (d.setHbm die stack h).fuse = d.fuse := rfl
@[simp] theorem Dev.setHbm_pw (d : Dev) (die stack : Nat) (h : HbmSt) : (d.setHbm die stack h).pw = d.pw := rfl
@[simp] theorem Dev.setHbm_aon (d : Dev) (die stack : Nat) (h : HbmSt) : (d.setHbm die stack h).aon = d.aon := rfl
@[simp] theorem Dev.setHbm_rf (d : Dev) (die stack : Nat) (h : HbmSt) : (d.setHbm die stack h).rf = d.rf := rfl
@[simp] theorem Dev.setHbm_capt (d : Dev) (die stack : Nat) (h : HbmSt) : (d.setHbm die stack h).capt = d.capt := rfl
@[simp] theorem Dev.setHbm_held (d : Dev) (die stack : Nat) (h : HbmSt) : (d.setHbm die stack h).held = d.held := rfl
@[simp] theorem Dev.setHbm_free (d : Dev) (die stack : Nat) (h : HbmSt) : (d.setHbm die stack h).free = d.free := rfl
@[simp] theorem Dev.setHbm_mem (d : Dev) (die stack : Nat) (h : HbmSt) : (d.setHbm die stack h).mem = d.mem := rfl
@[simp] theorem Dev.setHbm_unwritten (d : Dev) (die stack : Nat) (h : HbmSt) : (d.setHbm die stack h).unwritten = d.unwritten := rfl
@[simp] theorem Dev.setHbm_errs (d : Dev) (die stack : Nat) (h : HbmSt) : (d.setHbm die stack h).errs = d.errs := rfl
@[simp] theorem Dev.setHbm_lcnt (d : Dev) (die stack : Nat) (h : HbmSt) : (d.setHbm die stack h).lcnt = d.lcnt := rfl
@[simp] theorem Dev.setHbm_cores (d : Dev) (die stack : Nat) (h : HbmSt) : (d.setHbm die stack h).cores = d.cores := rfl
@[simp] theorem Dev.setHbm_cells (d : Dev) (die stack : Nat) (h : HbmSt) : (d.setHbm die stack h).cells = d.cells := rfl
@[simp] theorem Dev.setHbm_cellPart (d : Dev) (die stack : Nat) (h : HbmSt) : (d.setHbm die stack h).cellPart = d.cellPart := rfl
@[simp] theorem Dev.setHbm_tmb (d : Dev) (die stack : Nat) (h : HbmSt) : (d.setHbm die stack h).tmb = d.tmb := rfl
@[simp] theorem Dev.setHbm_waits (d : Dev) (die stack : Nat) (h : HbmSt) : (d.setHbm die stack h).waits = d.waits := rfl
@[simp] theorem Dev.setHbm_swGen (d : Dev) (die stack : Nat) (h : HbmSt) : (d.setHbm die stack h).swGen = d.swGen := rfl
@[simp] theorem Dev.setHbm_ctl (d : Dev) (die stack : Nat) (h : HbmSt) : (d.setHbm die stack h).ctl = d.ctl := rfl
@[simp] theorem Dev.setHbm_net (d : Dev) (die stack : Nat) (h : HbmSt) : (d.setHbm die stack h).net = d.net := rfl
@[simp] theorem Dev.setHbm_sqn (d : Dev) (die stack : Nat) (h : HbmSt) : (d.setHbm die stack h).sqn = d.sqn := rfl
@[simp] theorem Dev.setHbm_engs (d : Dev) (die stack : Nat) (h : HbmSt) : (d.setHbm die stack h).engs = d.engs := rfl
@[simp] theorem Dev.setHbm_unfs (d : Dev) (die stack : Nat) (h : HbmSt) : (d.setHbm die stack h).unfs = d.unfs := rfl
@[simp] theorem Dev.setHbm_dsps (d : Dev) (die stack : Nat) (h : HbmSt) : (d.setHbm die stack h).dsps = d.dsps := rfl
@[simp] theorem Dev.setHbm_bq (d : Dev) (die stack : Nat) (h : HbmSt) : (d.setHbm die stack h).bq = d.bq := rfl
@[simp] theorem Dev.setHbm_rdq (d : Dev) (die stack : Nat) (h : HbmSt) : (d.setHbm die stack h).rdq = d.rdq := rfl
@[simp] theorem Dev.setHbm_wrq (d : Dev) (die stack : Nat) (h : HbmSt) : (d.setHbm die stack h).wrq = d.wrq := rfl
@[simp] theorem Dev.setHbm_rows (d : Dev) (die stack : Nat) (h : HbmSt) : (d.setHbm die stack h).rows = d.rows := rfl
@[simp] theorem Dev.setHbm_hbm_now (d : Dev) (die stack : Nat) (h : HbmSt) : (d.setHbm die stack h).hbm = d.hbm.put (hbmKey die stack) h := rfl
@[simp] theorem Dev.setHbm_narrow (d : Dev) (die stack : Nat) (h : HbmSt) : (d.setHbm die stack h).narrow = d.narrow := rfl
@[simp] theorem Dev.setHbm_conv (d : Dev) (die stack : Nat) (h : HbmSt) : (d.setHbm die stack h).conv = d.conv := rfl
@[simp] theorem Dev.setHbm_merge (d : Dev) (die stack : Nat) (h : HbmSt) : (d.setHbm die stack h).merge = d.merge := rfl
@[simp] theorem Dev.setHbm_scrub (d : Dev) (die stack : Nat) (h : HbmSt) : (d.setHbm die stack h).scrub = d.scrub := rfl
@[simp] theorem Dev.setHbm_wback (d : Dev) (die stack : Nat) (h : HbmSt) : (d.setHbm die stack h).wback = d.wback := rfl
@[simp] theorem Dev.setHbm_stest (d : Dev) (die stack : Nat) (h : HbmSt) : (d.setHbm die stack h).stest = d.stest := rfl
@[simp] theorem Dev.setHbm_zfill (d : Dev) (die stack : Nat) (h : HbmSt) : (d.setHbm die stack h).zfill = d.zfill := rfl
@[simp] theorem Dev.setHbm_memtest (d : Dev) (die stack : Nat) (h : HbmSt) : (d.setHbm die stack h).memtest = d.memtest := rfl
@[simp] theorem Dev.setHbm_krg (d : Dev) (die stack : Nat) (h : HbmSt) : (d.setHbm die stack h).krg = d.krg := rfl
@[simp] theorem Dev.setHbm_krgP (d : Dev) (die stack : Nat) (h : HbmSt) : (d.setHbm die stack h).krgP = d.krgP := rfl
@[simp] theorem Dev.setHbm_drains (d : Dev) (die stack : Nat) (h : HbmSt) : (d.setHbm die stack h).drains = d.drains := rfl
@[simp] theorem Dev.setHbm_stwIo (d : Dev) (die stack : Nat) (h : HbmSt) : (d.setHbm die stack h).stwIo = d.stwIo := rfl
@[simp] theorem Dev.setHbm_flinks (d : Dev) (die stack : Nat) (h : HbmSt) : (d.setHbm die stack h).flinks = d.flinks := rfl
@[simp] theorem Dev.setHbm_knks (d : Dev) (die stack : Nat) (h : HbmSt) : (d.setHbm die stack h).knks = d.knks := rfl
@[simp] theorem Dev.setHbm_knkPend (d : Dev) (die stack : Nat) (h : HbmSt) : (d.setHbm die stack h).knkPend = d.knkPend := rfl
@[simp] theorem Dev.setHbm_mapUpd (d : Dev) (die stack : Nat) (h : HbmSt) : (d.setHbm die stack h).mapUpd = d.mapUpd := rfl
@[simp] theorem Dev.setHbm_sites (d : Dev) (die stack : Nat) (h : HbmSt) : (d.setHbm die stack h).sites = d.sites := rfl
@[simp] theorem Dev.setHbm_alert (d : Dev) (die stack : Nat) (h : HbmSt) : (d.setHbm die stack h).alert = d.alert := rfl
@[simp] theorem Dev.setHbm_tripN (d : Dev) (die stack : Nat) (h : HbmSt) : (d.setHbm die stack h).tripN = d.tripN := rfl
@[simp] theorem Dev.setHbm_irqs (d : Dev) (die stack : Nat) (h : HbmSt) : (d.setHbm die stack h).irqs = d.irqs := rfl
@[simp] theorem Dev.setHbm_lanes (d : Dev) (die stack : Nat) (h : HbmSt) : (d.setHbm die stack h).lanes = d.lanes := rfl
@[simp] theorem Dev.setHbm_ports (d : Dev) (die stack : Nat) (h : HbmSt) : (d.setHbm die stack h).ports = d.ports := rfl
@[simp] theorem Dev.setHbm_eths (d : Dev) (die stack : Nat) (h : HbmSt) : (d.setHbm die stack h).eths = d.eths := rfl
@[simp] theorem Dev.setHbm_qps (d : Dev) (die stack : Nat) (h : HbmSt) : (d.setHbm die stack h).qps = d.qps := rfl
@[simp] theorem Dev.setHbm_mbxIn (d : Dev) (die stack : Nat) (h : HbmSt) : (d.setHbm die stack h).mbxIn = d.mbxIn := rfl
@[simp] theorem Dev.setHbm_stews (d : Dev) (die stack : Nat) (h : HbmSt) : (d.setHbm die stack h).stews = d.stews := rfl
@[simp] theorem Dev.setHbm_parts (d : Dev) (die stack : Nat) (h : HbmSt) : (d.setHbm die stack h).parts = d.parts := rfl
@[simp] theorem Dev.setHbm_wards (d : Dev) (die stack : Nat) (h : HbmSt) : (d.setHbm die stack h).wards = d.wards := rfl
@[simp] theorem Dev.setHbm_pws (d : Dev) (die stack : Nat) (h : HbmSt) : (d.setHbm die stack h).pws = d.pws := rfl
@[simp] theorem Dev.setHbm_chunks (d : Dev) (die stack : Nat) (h : HbmSt) : (d.setHbm die stack h).chunks = d.chunks := rfl
@[simp] theorem Dev.setHbm_i3c (d : Dev) (die stack : Nat) (h : HbmSt) : (d.setHbm die stack h).i3c = d.i3c := rfl
@[simp] theorem Dev.setHbm_i3cOut (d : Dev) (die stack : Nat) (h : HbmSt) : (d.setHbm die stack h).i3cOut = d.i3cOut := rfl
@[simp] theorem Dev.setHbm_flash (d : Dev) (die stack : Nat) (h : HbmSt) : (d.setHbm die stack h).flash = d.flash := rfl
@[simp] theorem Dev.setHbm_read_raw (d : Dev) (die stack : Nat) (h : HbmSt) (r : RKey) : (d.setHbm die stack h).raw r = d.raw r := rfl
@[simp] theorem Dev.setHbm_read_get (d : Dev) (die stack : Nat) (h : HbmSt) (g : Fld) (die' i' s' : Nat) : (d.setHbm die stack h).get g die' i' s' = d.get g die' i' s' := rfl
@[simp] theorem Dev.setHbm_read_coreAt (d : Dev) (die stack : Nat) (h : HbmSt) (q : Nat) : (d.setHbm die stack h).coreAt q = d.coreAt q := rfl
@[simp] theorem Dev.setHbm_read_cellAt (d : Dev) (die stack : Nat) (h : HbmSt) (q : Nat) : (d.setHbm die stack h).cellAt q = d.cellAt q := rfl
@[simp] theorem Dev.setHbm_read_partOf (d : Dev) (die stack : Nat) (h : HbmSt) (q : Nat) : (d.setHbm die stack h).partOf q = d.partOf q := rfl
@[simp] theorem Dev.setHbm_read_tumbler (d : Dev) (die stack : Nat) (h : HbmSt) (die' j : Nat) : (d.setHbm die stack h).tumbler die' j = d.tumbler die' j := rfl
@[simp] theorem Dev.setHbm_read_eng (d : Dev) (die stack : Nat) (h : HbmSt) (die' e' : Nat) : (d.setHbm die stack h).eng die' e' = d.eng die' e' := rfl
@[simp] theorem Dev.setHbm_read_unfAt (d : Dev) (die stack : Nat) (h : HbmSt) (die' e' : Nat) : (d.setHbm die stack h).unfAt die' e' = d.unfAt die' e' := rfl
@[simp] theorem Dev.setHbm_read_dsp (d : Dev) (die stack : Nat) (h : HbmSt) (q : Nat) : (d.setHbm die stack h).dsp q = d.dsp q := rfl
@[simp] theorem Dev.setHbm_read_eth (d : Dev) (die stack : Nat) (h : HbmSt) (die' e' : Nat) : (d.setHbm die stack h).eth die' e' = d.eth die' e' := rfl
@[simp] theorem Dev.setHbm_read_flink (d : Dev) (die stack : Nat) (h : HbmSt) (die' e' : Nat) : (d.setHbm die stack h).flink die' e' = d.flink die' e' := rfl
@[simp] theorem Dev.setHbm_read_knk (d : Dev) (die stack : Nat) (h : HbmSt) (q : Nat) : (d.setHbm die stack h).knk q = d.knk q := rfl
@[simp] theorem Dev.setHbm_read_lane (d : Dev) (die stack : Nat) (h : HbmSt) (die' e' : Nat) : (d.setHbm die stack h).lane die' e' = d.lane die' e' := rfl
@[simp] theorem Dev.setHbm_read_port (d : Dev) (die stack : Nat) (h : HbmSt) (q : Nat) : (d.setHbm die stack h).port q = d.port q := rfl
@[simp] theorem Dev.setHbm_read_qp (d : Dev) (die stack : Nat) (h : HbmSt) (q : Nat) : (d.setHbm die stack h).qp q = d.qp q := rfl
@[simp] theorem Dev.setHbm_read_stew (d : Dev) (die stack : Nat) (h : HbmSt) (q : Nat) : (d.setHbm die stack h).stew q = d.stew q := rfl
@[simp] theorem Dev.setHbm_read_site (d : Dev) (die stack : Nat) (h : HbmSt) (q : Nat) : (d.setHbm die stack h).site q = d.site q := rfl
@[simp] theorem Dev.setHbm_read_ward (d : Dev) (die stack : Nat) (h : HbmSt) (q : Nat) : (d.setHbm die stack h).ward q = d.ward q := rfl
@[simp] theorem Dev.setHbm_read_tick (d : Dev) (die stack : Nat) (h : HbmSt) (q : Nat) : (d.setHbm die stack h).tick q = d.tick q := rfl
@[simp] theorem Dev.setHbm_read_pwOf (d : Dev) (die stack : Nat) (h : HbmSt) (q : Nat) : (d.setHbm die stack h).pwOf q = d.pwOf q := rfl
@[simp] theorem Dev.setHbm_read_aonUp (d : Dev) (die stack : Nat) (h : HbmSt) (q : Nat) : (d.setHbm die stack h).aonUp q = d.aonUp q := rfl
@[simp] theorem Dev.setHbm_hbmAt_self (d : Dev) (die stack : Nat) (h : HbmSt) : (d.setHbm die stack h).hbmAt die stack = h := by
  unfold Dev.setHbm Dev.hbmAt
  rw [KMap.atD_put, if_pos rfl]

/-! setFlink -/

@[simp] theorem Dev.setFlink_fuse (d : Dev) (die inst : Nat) (l : FLink) : (d.setFlink die inst l).fuse = d.fuse := rfl
@[simp] theorem Dev.setFlink_pw (d : Dev) (die inst : Nat) (l : FLink) : (d.setFlink die inst l).pw = d.pw := rfl
@[simp] theorem Dev.setFlink_aon (d : Dev) (die inst : Nat) (l : FLink) : (d.setFlink die inst l).aon = d.aon := rfl
@[simp] theorem Dev.setFlink_rf (d : Dev) (die inst : Nat) (l : FLink) : (d.setFlink die inst l).rf = d.rf := rfl
@[simp] theorem Dev.setFlink_capt (d : Dev) (die inst : Nat) (l : FLink) : (d.setFlink die inst l).capt = d.capt := rfl
@[simp] theorem Dev.setFlink_held (d : Dev) (die inst : Nat) (l : FLink) : (d.setFlink die inst l).held = d.held := rfl
@[simp] theorem Dev.setFlink_free (d : Dev) (die inst : Nat) (l : FLink) : (d.setFlink die inst l).free = d.free := rfl
@[simp] theorem Dev.setFlink_mem (d : Dev) (die inst : Nat) (l : FLink) : (d.setFlink die inst l).mem = d.mem := rfl
@[simp] theorem Dev.setFlink_unwritten (d : Dev) (die inst : Nat) (l : FLink) : (d.setFlink die inst l).unwritten = d.unwritten := rfl
@[simp] theorem Dev.setFlink_errs (d : Dev) (die inst : Nat) (l : FLink) : (d.setFlink die inst l).errs = d.errs := rfl
@[simp] theorem Dev.setFlink_lcnt (d : Dev) (die inst : Nat) (l : FLink) : (d.setFlink die inst l).lcnt = d.lcnt := rfl
@[simp] theorem Dev.setFlink_cores (d : Dev) (die inst : Nat) (l : FLink) : (d.setFlink die inst l).cores = d.cores := rfl
@[simp] theorem Dev.setFlink_cells (d : Dev) (die inst : Nat) (l : FLink) : (d.setFlink die inst l).cells = d.cells := rfl
@[simp] theorem Dev.setFlink_cellPart (d : Dev) (die inst : Nat) (l : FLink) : (d.setFlink die inst l).cellPart = d.cellPart := rfl
@[simp] theorem Dev.setFlink_tmb (d : Dev) (die inst : Nat) (l : FLink) : (d.setFlink die inst l).tmb = d.tmb := rfl
@[simp] theorem Dev.setFlink_waits (d : Dev) (die inst : Nat) (l : FLink) : (d.setFlink die inst l).waits = d.waits := rfl
@[simp] theorem Dev.setFlink_swGen (d : Dev) (die inst : Nat) (l : FLink) : (d.setFlink die inst l).swGen = d.swGen := rfl
@[simp] theorem Dev.setFlink_ctl (d : Dev) (die inst : Nat) (l : FLink) : (d.setFlink die inst l).ctl = d.ctl := rfl
@[simp] theorem Dev.setFlink_net (d : Dev) (die inst : Nat) (l : FLink) : (d.setFlink die inst l).net = d.net := rfl
@[simp] theorem Dev.setFlink_sqn (d : Dev) (die inst : Nat) (l : FLink) : (d.setFlink die inst l).sqn = d.sqn := rfl
@[simp] theorem Dev.setFlink_engs (d : Dev) (die inst : Nat) (l : FLink) : (d.setFlink die inst l).engs = d.engs := rfl
@[simp] theorem Dev.setFlink_unfs (d : Dev) (die inst : Nat) (l : FLink) : (d.setFlink die inst l).unfs = d.unfs := rfl
@[simp] theorem Dev.setFlink_dsps (d : Dev) (die inst : Nat) (l : FLink) : (d.setFlink die inst l).dsps = d.dsps := rfl
@[simp] theorem Dev.setFlink_bq (d : Dev) (die inst : Nat) (l : FLink) : (d.setFlink die inst l).bq = d.bq := rfl
@[simp] theorem Dev.setFlink_rdq (d : Dev) (die inst : Nat) (l : FLink) : (d.setFlink die inst l).rdq = d.rdq := rfl
@[simp] theorem Dev.setFlink_wrq (d : Dev) (die inst : Nat) (l : FLink) : (d.setFlink die inst l).wrq = d.wrq := rfl
@[simp] theorem Dev.setFlink_rows (d : Dev) (die inst : Nat) (l : FLink) : (d.setFlink die inst l).rows = d.rows := rfl
@[simp] theorem Dev.setFlink_hbm (d : Dev) (die inst : Nat) (l : FLink) : (d.setFlink die inst l).hbm = d.hbm := rfl
@[simp] theorem Dev.setFlink_narrow (d : Dev) (die inst : Nat) (l : FLink) : (d.setFlink die inst l).narrow = d.narrow := rfl
@[simp] theorem Dev.setFlink_conv (d : Dev) (die inst : Nat) (l : FLink) : (d.setFlink die inst l).conv = d.conv := rfl
@[simp] theorem Dev.setFlink_merge (d : Dev) (die inst : Nat) (l : FLink) : (d.setFlink die inst l).merge = d.merge := rfl
@[simp] theorem Dev.setFlink_scrub (d : Dev) (die inst : Nat) (l : FLink) : (d.setFlink die inst l).scrub = d.scrub := rfl
@[simp] theorem Dev.setFlink_wback (d : Dev) (die inst : Nat) (l : FLink) : (d.setFlink die inst l).wback = d.wback := rfl
@[simp] theorem Dev.setFlink_stest (d : Dev) (die inst : Nat) (l : FLink) : (d.setFlink die inst l).stest = d.stest := rfl
@[simp] theorem Dev.setFlink_zfill (d : Dev) (die inst : Nat) (l : FLink) : (d.setFlink die inst l).zfill = d.zfill := rfl
@[simp] theorem Dev.setFlink_memtest (d : Dev) (die inst : Nat) (l : FLink) : (d.setFlink die inst l).memtest = d.memtest := rfl
@[simp] theorem Dev.setFlink_krg (d : Dev) (die inst : Nat) (l : FLink) : (d.setFlink die inst l).krg = d.krg := rfl
@[simp] theorem Dev.setFlink_krgP (d : Dev) (die inst : Nat) (l : FLink) : (d.setFlink die inst l).krgP = d.krgP := rfl
@[simp] theorem Dev.setFlink_drains (d : Dev) (die inst : Nat) (l : FLink) : (d.setFlink die inst l).drains = d.drains := rfl
@[simp] theorem Dev.setFlink_stwIo (d : Dev) (die inst : Nat) (l : FLink) : (d.setFlink die inst l).stwIo = d.stwIo := rfl
@[simp] theorem Dev.setFlink_flinks_now (d : Dev) (die inst : Nat) (l : FLink) : (d.setFlink die inst l).flinks = d.flinks.put (die, inst) l := rfl
@[simp] theorem Dev.setFlink_knks (d : Dev) (die inst : Nat) (l : FLink) : (d.setFlink die inst l).knks = d.knks := rfl
@[simp] theorem Dev.setFlink_knkPend (d : Dev) (die inst : Nat) (l : FLink) : (d.setFlink die inst l).knkPend = d.knkPend := rfl
@[simp] theorem Dev.setFlink_mapUpd (d : Dev) (die inst : Nat) (l : FLink) : (d.setFlink die inst l).mapUpd = d.mapUpd := rfl
@[simp] theorem Dev.setFlink_sites (d : Dev) (die inst : Nat) (l : FLink) : (d.setFlink die inst l).sites = d.sites := rfl
@[simp] theorem Dev.setFlink_alert (d : Dev) (die inst : Nat) (l : FLink) : (d.setFlink die inst l).alert = d.alert := rfl
@[simp] theorem Dev.setFlink_tripN (d : Dev) (die inst : Nat) (l : FLink) : (d.setFlink die inst l).tripN = d.tripN := rfl
@[simp] theorem Dev.setFlink_irqs (d : Dev) (die inst : Nat) (l : FLink) : (d.setFlink die inst l).irqs = d.irqs := rfl
@[simp] theorem Dev.setFlink_lanes (d : Dev) (die inst : Nat) (l : FLink) : (d.setFlink die inst l).lanes = d.lanes := rfl
@[simp] theorem Dev.setFlink_ports (d : Dev) (die inst : Nat) (l : FLink) : (d.setFlink die inst l).ports = d.ports := rfl
@[simp] theorem Dev.setFlink_eths (d : Dev) (die inst : Nat) (l : FLink) : (d.setFlink die inst l).eths = d.eths := rfl
@[simp] theorem Dev.setFlink_qps (d : Dev) (die inst : Nat) (l : FLink) : (d.setFlink die inst l).qps = d.qps := rfl
@[simp] theorem Dev.setFlink_mbxIn (d : Dev) (die inst : Nat) (l : FLink) : (d.setFlink die inst l).mbxIn = d.mbxIn := rfl
@[simp] theorem Dev.setFlink_stews (d : Dev) (die inst : Nat) (l : FLink) : (d.setFlink die inst l).stews = d.stews := rfl
@[simp] theorem Dev.setFlink_parts (d : Dev) (die inst : Nat) (l : FLink) : (d.setFlink die inst l).parts = d.parts := rfl
@[simp] theorem Dev.setFlink_wards (d : Dev) (die inst : Nat) (l : FLink) : (d.setFlink die inst l).wards = d.wards := rfl
@[simp] theorem Dev.setFlink_pws (d : Dev) (die inst : Nat) (l : FLink) : (d.setFlink die inst l).pws = d.pws := rfl
@[simp] theorem Dev.setFlink_chunks (d : Dev) (die inst : Nat) (l : FLink) : (d.setFlink die inst l).chunks = d.chunks := rfl
@[simp] theorem Dev.setFlink_i3c (d : Dev) (die inst : Nat) (l : FLink) : (d.setFlink die inst l).i3c = d.i3c := rfl
@[simp] theorem Dev.setFlink_i3cOut (d : Dev) (die inst : Nat) (l : FLink) : (d.setFlink die inst l).i3cOut = d.i3cOut := rfl
@[simp] theorem Dev.setFlink_flash (d : Dev) (die inst : Nat) (l : FLink) : (d.setFlink die inst l).flash = d.flash := rfl
@[simp] theorem Dev.setFlink_read_raw (d : Dev) (die inst : Nat) (l : FLink) (r : RKey) : (d.setFlink die inst l).raw r = d.raw r := rfl
@[simp] theorem Dev.setFlink_read_get (d : Dev) (die inst : Nat) (l : FLink) (g : Fld) (die' i' s' : Nat) : (d.setFlink die inst l).get g die' i' s' = d.get g die' i' s' := rfl
@[simp] theorem Dev.setFlink_read_coreAt (d : Dev) (die inst : Nat) (l : FLink) (q : Nat) : (d.setFlink die inst l).coreAt q = d.coreAt q := rfl
@[simp] theorem Dev.setFlink_read_cellAt (d : Dev) (die inst : Nat) (l : FLink) (q : Nat) : (d.setFlink die inst l).cellAt q = d.cellAt q := rfl
@[simp] theorem Dev.setFlink_read_partOf (d : Dev) (die inst : Nat) (l : FLink) (q : Nat) : (d.setFlink die inst l).partOf q = d.partOf q := rfl
@[simp] theorem Dev.setFlink_read_tumbler (d : Dev) (die inst : Nat) (l : FLink) (die' j : Nat) : (d.setFlink die inst l).tumbler die' j = d.tumbler die' j := rfl
@[simp] theorem Dev.setFlink_read_eng (d : Dev) (die inst : Nat) (l : FLink) (die' e' : Nat) : (d.setFlink die inst l).eng die' e' = d.eng die' e' := rfl
@[simp] theorem Dev.setFlink_read_unfAt (d : Dev) (die inst : Nat) (l : FLink) (die' e' : Nat) : (d.setFlink die inst l).unfAt die' e' = d.unfAt die' e' := rfl
@[simp] theorem Dev.setFlink_read_dsp (d : Dev) (die inst : Nat) (l : FLink) (q : Nat) : (d.setFlink die inst l).dsp q = d.dsp q := rfl
@[simp] theorem Dev.setFlink_read_eth (d : Dev) (die inst : Nat) (l : FLink) (die' e' : Nat) : (d.setFlink die inst l).eth die' e' = d.eth die' e' := rfl
@[simp] theorem Dev.setFlink_read_hbmAt (d : Dev) (die inst : Nat) (l : FLink) (die' e' : Nat) : (d.setFlink die inst l).hbmAt die' e' = d.hbmAt die' e' := rfl
@[simp] theorem Dev.setFlink_read_knk (d : Dev) (die inst : Nat) (l : FLink) (q : Nat) : (d.setFlink die inst l).knk q = d.knk q := rfl
@[simp] theorem Dev.setFlink_read_lane (d : Dev) (die inst : Nat) (l : FLink) (die' e' : Nat) : (d.setFlink die inst l).lane die' e' = d.lane die' e' := rfl
@[simp] theorem Dev.setFlink_read_port (d : Dev) (die inst : Nat) (l : FLink) (q : Nat) : (d.setFlink die inst l).port q = d.port q := rfl
@[simp] theorem Dev.setFlink_read_qp (d : Dev) (die inst : Nat) (l : FLink) (q : Nat) : (d.setFlink die inst l).qp q = d.qp q := rfl
@[simp] theorem Dev.setFlink_read_stew (d : Dev) (die inst : Nat) (l : FLink) (q : Nat) : (d.setFlink die inst l).stew q = d.stew q := rfl
@[simp] theorem Dev.setFlink_read_site (d : Dev) (die inst : Nat) (l : FLink) (q : Nat) : (d.setFlink die inst l).site q = d.site q := rfl
@[simp] theorem Dev.setFlink_read_ward (d : Dev) (die inst : Nat) (l : FLink) (q : Nat) : (d.setFlink die inst l).ward q = d.ward q := rfl
@[simp] theorem Dev.setFlink_read_tick (d : Dev) (die inst : Nat) (l : FLink) (q : Nat) : (d.setFlink die inst l).tick q = d.tick q := rfl
@[simp] theorem Dev.setFlink_read_pwOf (d : Dev) (die inst : Nat) (l : FLink) (q : Nat) : (d.setFlink die inst l).pwOf q = d.pwOf q := rfl
@[simp] theorem Dev.setFlink_read_aonUp (d : Dev) (die inst : Nat) (l : FLink) (q : Nat) : (d.setFlink die inst l).aonUp q = d.aonUp q := rfl
@[simp] theorem Dev.setFlink_flink_self (d : Dev) (die inst : Nat) (l : FLink) : (d.setFlink die inst l).flink die inst = l := by
  unfold Dev.setFlink Dev.flink
  rw [KMap.atD_put, if_pos rfl]

/-! setKnk -/

@[simp] theorem Dev.setKnk_fuse (d : Dev) (k : Nat) (x : Knk) : (d.setKnk k x).fuse = d.fuse := rfl
@[simp] theorem Dev.setKnk_pw (d : Dev) (k : Nat) (x : Knk) : (d.setKnk k x).pw = d.pw := rfl
@[simp] theorem Dev.setKnk_aon (d : Dev) (k : Nat) (x : Knk) : (d.setKnk k x).aon = d.aon := rfl
@[simp] theorem Dev.setKnk_rf (d : Dev) (k : Nat) (x : Knk) : (d.setKnk k x).rf = d.rf := rfl
@[simp] theorem Dev.setKnk_capt (d : Dev) (k : Nat) (x : Knk) : (d.setKnk k x).capt = d.capt := rfl
@[simp] theorem Dev.setKnk_held (d : Dev) (k : Nat) (x : Knk) : (d.setKnk k x).held = d.held := rfl
@[simp] theorem Dev.setKnk_free (d : Dev) (k : Nat) (x : Knk) : (d.setKnk k x).free = d.free := rfl
@[simp] theorem Dev.setKnk_mem (d : Dev) (k : Nat) (x : Knk) : (d.setKnk k x).mem = d.mem := rfl
@[simp] theorem Dev.setKnk_unwritten (d : Dev) (k : Nat) (x : Knk) : (d.setKnk k x).unwritten = d.unwritten := rfl
@[simp] theorem Dev.setKnk_errs (d : Dev) (k : Nat) (x : Knk) : (d.setKnk k x).errs = d.errs := rfl
@[simp] theorem Dev.setKnk_lcnt (d : Dev) (k : Nat) (x : Knk) : (d.setKnk k x).lcnt = d.lcnt := rfl
@[simp] theorem Dev.setKnk_cores (d : Dev) (k : Nat) (x : Knk) : (d.setKnk k x).cores = d.cores := rfl
@[simp] theorem Dev.setKnk_cells (d : Dev) (k : Nat) (x : Knk) : (d.setKnk k x).cells = d.cells := rfl
@[simp] theorem Dev.setKnk_cellPart (d : Dev) (k : Nat) (x : Knk) : (d.setKnk k x).cellPart = d.cellPart := rfl
@[simp] theorem Dev.setKnk_tmb (d : Dev) (k : Nat) (x : Knk) : (d.setKnk k x).tmb = d.tmb := rfl
@[simp] theorem Dev.setKnk_waits (d : Dev) (k : Nat) (x : Knk) : (d.setKnk k x).waits = d.waits := rfl
@[simp] theorem Dev.setKnk_swGen (d : Dev) (k : Nat) (x : Knk) : (d.setKnk k x).swGen = d.swGen := rfl
@[simp] theorem Dev.setKnk_ctl (d : Dev) (k : Nat) (x : Knk) : (d.setKnk k x).ctl = d.ctl := rfl
@[simp] theorem Dev.setKnk_net (d : Dev) (k : Nat) (x : Knk) : (d.setKnk k x).net = d.net := rfl
@[simp] theorem Dev.setKnk_sqn (d : Dev) (k : Nat) (x : Knk) : (d.setKnk k x).sqn = d.sqn := rfl
@[simp] theorem Dev.setKnk_engs (d : Dev) (k : Nat) (x : Knk) : (d.setKnk k x).engs = d.engs := rfl
@[simp] theorem Dev.setKnk_unfs (d : Dev) (k : Nat) (x : Knk) : (d.setKnk k x).unfs = d.unfs := rfl
@[simp] theorem Dev.setKnk_dsps (d : Dev) (k : Nat) (x : Knk) : (d.setKnk k x).dsps = d.dsps := rfl
@[simp] theorem Dev.setKnk_bq (d : Dev) (k : Nat) (x : Knk) : (d.setKnk k x).bq = d.bq := rfl
@[simp] theorem Dev.setKnk_rdq (d : Dev) (k : Nat) (x : Knk) : (d.setKnk k x).rdq = d.rdq := rfl
@[simp] theorem Dev.setKnk_wrq (d : Dev) (k : Nat) (x : Knk) : (d.setKnk k x).wrq = d.wrq := rfl
@[simp] theorem Dev.setKnk_rows (d : Dev) (k : Nat) (x : Knk) : (d.setKnk k x).rows = d.rows := rfl
@[simp] theorem Dev.setKnk_hbm (d : Dev) (k : Nat) (x : Knk) : (d.setKnk k x).hbm = d.hbm := rfl
@[simp] theorem Dev.setKnk_narrow (d : Dev) (k : Nat) (x : Knk) : (d.setKnk k x).narrow = d.narrow := rfl
@[simp] theorem Dev.setKnk_conv (d : Dev) (k : Nat) (x : Knk) : (d.setKnk k x).conv = d.conv := rfl
@[simp] theorem Dev.setKnk_merge (d : Dev) (k : Nat) (x : Knk) : (d.setKnk k x).merge = d.merge := rfl
@[simp] theorem Dev.setKnk_scrub (d : Dev) (k : Nat) (x : Knk) : (d.setKnk k x).scrub = d.scrub := rfl
@[simp] theorem Dev.setKnk_wback (d : Dev) (k : Nat) (x : Knk) : (d.setKnk k x).wback = d.wback := rfl
@[simp] theorem Dev.setKnk_stest (d : Dev) (k : Nat) (x : Knk) : (d.setKnk k x).stest = d.stest := rfl
@[simp] theorem Dev.setKnk_zfill (d : Dev) (k : Nat) (x : Knk) : (d.setKnk k x).zfill = d.zfill := rfl
@[simp] theorem Dev.setKnk_memtest (d : Dev) (k : Nat) (x : Knk) : (d.setKnk k x).memtest = d.memtest := rfl
@[simp] theorem Dev.setKnk_krg (d : Dev) (k : Nat) (x : Knk) : (d.setKnk k x).krg = d.krg := rfl
@[simp] theorem Dev.setKnk_krgP (d : Dev) (k : Nat) (x : Knk) : (d.setKnk k x).krgP = d.krgP := rfl
@[simp] theorem Dev.setKnk_drains (d : Dev) (k : Nat) (x : Knk) : (d.setKnk k x).drains = d.drains := rfl
@[simp] theorem Dev.setKnk_stwIo (d : Dev) (k : Nat) (x : Knk) : (d.setKnk k x).stwIo = d.stwIo := rfl
@[simp] theorem Dev.setKnk_flinks (d : Dev) (k : Nat) (x : Knk) : (d.setKnk k x).flinks = d.flinks := rfl
@[simp] theorem Dev.setKnk_knks_now (d : Dev) (k : Nat) (x : Knk) : (d.setKnk k x).knks = d.knks.put k x := rfl
@[simp] theorem Dev.setKnk_knkPend (d : Dev) (k : Nat) (x : Knk) : (d.setKnk k x).knkPend = d.knkPend := rfl
@[simp] theorem Dev.setKnk_mapUpd (d : Dev) (k : Nat) (x : Knk) : (d.setKnk k x).mapUpd = d.mapUpd := rfl
@[simp] theorem Dev.setKnk_sites (d : Dev) (k : Nat) (x : Knk) : (d.setKnk k x).sites = d.sites := rfl
@[simp] theorem Dev.setKnk_alert (d : Dev) (k : Nat) (x : Knk) : (d.setKnk k x).alert = d.alert := rfl
@[simp] theorem Dev.setKnk_tripN (d : Dev) (k : Nat) (x : Knk) : (d.setKnk k x).tripN = d.tripN := rfl
@[simp] theorem Dev.setKnk_irqs (d : Dev) (k : Nat) (x : Knk) : (d.setKnk k x).irqs = d.irqs := rfl
@[simp] theorem Dev.setKnk_lanes (d : Dev) (k : Nat) (x : Knk) : (d.setKnk k x).lanes = d.lanes := rfl
@[simp] theorem Dev.setKnk_ports (d : Dev) (k : Nat) (x : Knk) : (d.setKnk k x).ports = d.ports := rfl
@[simp] theorem Dev.setKnk_eths (d : Dev) (k : Nat) (x : Knk) : (d.setKnk k x).eths = d.eths := rfl
@[simp] theorem Dev.setKnk_qps (d : Dev) (k : Nat) (x : Knk) : (d.setKnk k x).qps = d.qps := rfl
@[simp] theorem Dev.setKnk_mbxIn (d : Dev) (k : Nat) (x : Knk) : (d.setKnk k x).mbxIn = d.mbxIn := rfl
@[simp] theorem Dev.setKnk_stews (d : Dev) (k : Nat) (x : Knk) : (d.setKnk k x).stews = d.stews := rfl
@[simp] theorem Dev.setKnk_parts (d : Dev) (k : Nat) (x : Knk) : (d.setKnk k x).parts = d.parts := rfl
@[simp] theorem Dev.setKnk_wards (d : Dev) (k : Nat) (x : Knk) : (d.setKnk k x).wards = d.wards := rfl
@[simp] theorem Dev.setKnk_pws (d : Dev) (k : Nat) (x : Knk) : (d.setKnk k x).pws = d.pws := rfl
@[simp] theorem Dev.setKnk_chunks (d : Dev) (k : Nat) (x : Knk) : (d.setKnk k x).chunks = d.chunks := rfl
@[simp] theorem Dev.setKnk_i3c (d : Dev) (k : Nat) (x : Knk) : (d.setKnk k x).i3c = d.i3c := rfl
@[simp] theorem Dev.setKnk_i3cOut (d : Dev) (k : Nat) (x : Knk) : (d.setKnk k x).i3cOut = d.i3cOut := rfl
@[simp] theorem Dev.setKnk_flash (d : Dev) (k : Nat) (x : Knk) : (d.setKnk k x).flash = d.flash := rfl
@[simp] theorem Dev.setKnk_read_raw (d : Dev) (k : Nat) (x : Knk) (r : RKey) : (d.setKnk k x).raw r = d.raw r := rfl
@[simp] theorem Dev.setKnk_read_get (d : Dev) (k : Nat) (x : Knk) (g : Fld) (die' i' s' : Nat) : (d.setKnk k x).get g die' i' s' = d.get g die' i' s' := rfl
@[simp] theorem Dev.setKnk_read_coreAt (d : Dev) (k : Nat) (x : Knk) (q : Nat) : (d.setKnk k x).coreAt q = d.coreAt q := rfl
@[simp] theorem Dev.setKnk_read_cellAt (d : Dev) (k : Nat) (x : Knk) (q : Nat) : (d.setKnk k x).cellAt q = d.cellAt q := rfl
@[simp] theorem Dev.setKnk_read_partOf (d : Dev) (k : Nat) (x : Knk) (q : Nat) : (d.setKnk k x).partOf q = d.partOf q := rfl
@[simp] theorem Dev.setKnk_read_tumbler (d : Dev) (k : Nat) (x : Knk) (die' j : Nat) : (d.setKnk k x).tumbler die' j = d.tumbler die' j := rfl
@[simp] theorem Dev.setKnk_read_eng (d : Dev) (k : Nat) (x : Knk) (die' e' : Nat) : (d.setKnk k x).eng die' e' = d.eng die' e' := rfl
@[simp] theorem Dev.setKnk_read_unfAt (d : Dev) (k : Nat) (x : Knk) (die' e' : Nat) : (d.setKnk k x).unfAt die' e' = d.unfAt die' e' := rfl
@[simp] theorem Dev.setKnk_read_dsp (d : Dev) (k : Nat) (x : Knk) (q : Nat) : (d.setKnk k x).dsp q = d.dsp q := rfl
@[simp] theorem Dev.setKnk_read_eth (d : Dev) (k : Nat) (x : Knk) (die' e' : Nat) : (d.setKnk k x).eth die' e' = d.eth die' e' := rfl
@[simp] theorem Dev.setKnk_read_hbmAt (d : Dev) (k : Nat) (x : Knk) (die' e' : Nat) : (d.setKnk k x).hbmAt die' e' = d.hbmAt die' e' := rfl
@[simp] theorem Dev.setKnk_read_flink (d : Dev) (k : Nat) (x : Knk) (die' e' : Nat) : (d.setKnk k x).flink die' e' = d.flink die' e' := rfl
@[simp] theorem Dev.setKnk_read_lane (d : Dev) (k : Nat) (x : Knk) (die' e' : Nat) : (d.setKnk k x).lane die' e' = d.lane die' e' := rfl
@[simp] theorem Dev.setKnk_read_port (d : Dev) (k : Nat) (x : Knk) (q : Nat) : (d.setKnk k x).port q = d.port q := rfl
@[simp] theorem Dev.setKnk_read_qp (d : Dev) (k : Nat) (x : Knk) (q : Nat) : (d.setKnk k x).qp q = d.qp q := rfl
@[simp] theorem Dev.setKnk_read_stew (d : Dev) (k : Nat) (x : Knk) (q : Nat) : (d.setKnk k x).stew q = d.stew q := rfl
@[simp] theorem Dev.setKnk_read_site (d : Dev) (k : Nat) (x : Knk) (q : Nat) : (d.setKnk k x).site q = d.site q := rfl
@[simp] theorem Dev.setKnk_read_ward (d : Dev) (k : Nat) (x : Knk) (q : Nat) : (d.setKnk k x).ward q = d.ward q := rfl
@[simp] theorem Dev.setKnk_read_tick (d : Dev) (k : Nat) (x : Knk) (q : Nat) : (d.setKnk k x).tick q = d.tick q := rfl
@[simp] theorem Dev.setKnk_read_pwOf (d : Dev) (k : Nat) (x : Knk) (q : Nat) : (d.setKnk k x).pwOf q = d.pwOf q := rfl
@[simp] theorem Dev.setKnk_read_aonUp (d : Dev) (k : Nat) (x : Knk) (q : Nat) : (d.setKnk k x).aonUp q = d.aonUp q := rfl
@[simp] theorem Dev.setKnk_knk_self (d : Dev) (k : Nat) (x : Knk) : (d.setKnk k x).knk k = x := by
  unfold Dev.setKnk Dev.knk
  rw [KMap.atD_put, if_pos rfl]

/-! setLane -/

@[simp] theorem Dev.setLane_fuse (d : Dev) (die l : Nat) (x : Lane) : (d.setLane die l x).fuse = d.fuse := rfl
@[simp] theorem Dev.setLane_pw (d : Dev) (die l : Nat) (x : Lane) : (d.setLane die l x).pw = d.pw := rfl
@[simp] theorem Dev.setLane_aon (d : Dev) (die l : Nat) (x : Lane) : (d.setLane die l x).aon = d.aon := rfl
@[simp] theorem Dev.setLane_rf (d : Dev) (die l : Nat) (x : Lane) : (d.setLane die l x).rf = d.rf := rfl
@[simp] theorem Dev.setLane_capt (d : Dev) (die l : Nat) (x : Lane) : (d.setLane die l x).capt = d.capt := rfl
@[simp] theorem Dev.setLane_held (d : Dev) (die l : Nat) (x : Lane) : (d.setLane die l x).held = d.held := rfl
@[simp] theorem Dev.setLane_free (d : Dev) (die l : Nat) (x : Lane) : (d.setLane die l x).free = d.free := rfl
@[simp] theorem Dev.setLane_mem (d : Dev) (die l : Nat) (x : Lane) : (d.setLane die l x).mem = d.mem := rfl
@[simp] theorem Dev.setLane_unwritten (d : Dev) (die l : Nat) (x : Lane) : (d.setLane die l x).unwritten = d.unwritten := rfl
@[simp] theorem Dev.setLane_errs (d : Dev) (die l : Nat) (x : Lane) : (d.setLane die l x).errs = d.errs := rfl
@[simp] theorem Dev.setLane_lcnt (d : Dev) (die l : Nat) (x : Lane) : (d.setLane die l x).lcnt = d.lcnt := rfl
@[simp] theorem Dev.setLane_cores (d : Dev) (die l : Nat) (x : Lane) : (d.setLane die l x).cores = d.cores := rfl
@[simp] theorem Dev.setLane_cells (d : Dev) (die l : Nat) (x : Lane) : (d.setLane die l x).cells = d.cells := rfl
@[simp] theorem Dev.setLane_cellPart (d : Dev) (die l : Nat) (x : Lane) : (d.setLane die l x).cellPart = d.cellPart := rfl
@[simp] theorem Dev.setLane_tmb (d : Dev) (die l : Nat) (x : Lane) : (d.setLane die l x).tmb = d.tmb := rfl
@[simp] theorem Dev.setLane_waits (d : Dev) (die l : Nat) (x : Lane) : (d.setLane die l x).waits = d.waits := rfl
@[simp] theorem Dev.setLane_swGen (d : Dev) (die l : Nat) (x : Lane) : (d.setLane die l x).swGen = d.swGen := rfl
@[simp] theorem Dev.setLane_ctl (d : Dev) (die l : Nat) (x : Lane) : (d.setLane die l x).ctl = d.ctl := rfl
@[simp] theorem Dev.setLane_net (d : Dev) (die l : Nat) (x : Lane) : (d.setLane die l x).net = d.net := rfl
@[simp] theorem Dev.setLane_sqn (d : Dev) (die l : Nat) (x : Lane) : (d.setLane die l x).sqn = d.sqn := rfl
@[simp] theorem Dev.setLane_engs (d : Dev) (die l : Nat) (x : Lane) : (d.setLane die l x).engs = d.engs := rfl
@[simp] theorem Dev.setLane_unfs (d : Dev) (die l : Nat) (x : Lane) : (d.setLane die l x).unfs = d.unfs := rfl
@[simp] theorem Dev.setLane_dsps (d : Dev) (die l : Nat) (x : Lane) : (d.setLane die l x).dsps = d.dsps := rfl
@[simp] theorem Dev.setLane_bq (d : Dev) (die l : Nat) (x : Lane) : (d.setLane die l x).bq = d.bq := rfl
@[simp] theorem Dev.setLane_rdq (d : Dev) (die l : Nat) (x : Lane) : (d.setLane die l x).rdq = d.rdq := rfl
@[simp] theorem Dev.setLane_wrq (d : Dev) (die l : Nat) (x : Lane) : (d.setLane die l x).wrq = d.wrq := rfl
@[simp] theorem Dev.setLane_rows (d : Dev) (die l : Nat) (x : Lane) : (d.setLane die l x).rows = d.rows := rfl
@[simp] theorem Dev.setLane_hbm (d : Dev) (die l : Nat) (x : Lane) : (d.setLane die l x).hbm = d.hbm := rfl
@[simp] theorem Dev.setLane_narrow (d : Dev) (die l : Nat) (x : Lane) : (d.setLane die l x).narrow = d.narrow := rfl
@[simp] theorem Dev.setLane_conv (d : Dev) (die l : Nat) (x : Lane) : (d.setLane die l x).conv = d.conv := rfl
@[simp] theorem Dev.setLane_merge (d : Dev) (die l : Nat) (x : Lane) : (d.setLane die l x).merge = d.merge := rfl
@[simp] theorem Dev.setLane_scrub (d : Dev) (die l : Nat) (x : Lane) : (d.setLane die l x).scrub = d.scrub := rfl
@[simp] theorem Dev.setLane_wback (d : Dev) (die l : Nat) (x : Lane) : (d.setLane die l x).wback = d.wback := rfl
@[simp] theorem Dev.setLane_stest (d : Dev) (die l : Nat) (x : Lane) : (d.setLane die l x).stest = d.stest := rfl
@[simp] theorem Dev.setLane_zfill (d : Dev) (die l : Nat) (x : Lane) : (d.setLane die l x).zfill = d.zfill := rfl
@[simp] theorem Dev.setLane_memtest (d : Dev) (die l : Nat) (x : Lane) : (d.setLane die l x).memtest = d.memtest := rfl
@[simp] theorem Dev.setLane_krg (d : Dev) (die l : Nat) (x : Lane) : (d.setLane die l x).krg = d.krg := rfl
@[simp] theorem Dev.setLane_krgP (d : Dev) (die l : Nat) (x : Lane) : (d.setLane die l x).krgP = d.krgP := rfl
@[simp] theorem Dev.setLane_drains (d : Dev) (die l : Nat) (x : Lane) : (d.setLane die l x).drains = d.drains := rfl
@[simp] theorem Dev.setLane_stwIo (d : Dev) (die l : Nat) (x : Lane) : (d.setLane die l x).stwIo = d.stwIo := rfl
@[simp] theorem Dev.setLane_flinks (d : Dev) (die l : Nat) (x : Lane) : (d.setLane die l x).flinks = d.flinks := rfl
@[simp] theorem Dev.setLane_knks (d : Dev) (die l : Nat) (x : Lane) : (d.setLane die l x).knks = d.knks := rfl
@[simp] theorem Dev.setLane_knkPend (d : Dev) (die l : Nat) (x : Lane) : (d.setLane die l x).knkPend = d.knkPend := rfl
@[simp] theorem Dev.setLane_mapUpd (d : Dev) (die l : Nat) (x : Lane) : (d.setLane die l x).mapUpd = d.mapUpd := rfl
@[simp] theorem Dev.setLane_sites (d : Dev) (die l : Nat) (x : Lane) : (d.setLane die l x).sites = d.sites := rfl
@[simp] theorem Dev.setLane_alert (d : Dev) (die l : Nat) (x : Lane) : (d.setLane die l x).alert = d.alert := rfl
@[simp] theorem Dev.setLane_tripN (d : Dev) (die l : Nat) (x : Lane) : (d.setLane die l x).tripN = d.tripN := rfl
@[simp] theorem Dev.setLane_irqs (d : Dev) (die l : Nat) (x : Lane) : (d.setLane die l x).irqs = d.irqs := rfl
@[simp] theorem Dev.setLane_lanes_now (d : Dev) (die l : Nat) (x : Lane) : (d.setLane die l x).lanes = d.lanes.put (die, l) x := rfl
@[simp] theorem Dev.setLane_ports (d : Dev) (die l : Nat) (x : Lane) : (d.setLane die l x).ports = d.ports := rfl
@[simp] theorem Dev.setLane_eths (d : Dev) (die l : Nat) (x : Lane) : (d.setLane die l x).eths = d.eths := rfl
@[simp] theorem Dev.setLane_qps (d : Dev) (die l : Nat) (x : Lane) : (d.setLane die l x).qps = d.qps := rfl
@[simp] theorem Dev.setLane_mbxIn (d : Dev) (die l : Nat) (x : Lane) : (d.setLane die l x).mbxIn = d.mbxIn := rfl
@[simp] theorem Dev.setLane_stews (d : Dev) (die l : Nat) (x : Lane) : (d.setLane die l x).stews = d.stews := rfl
@[simp] theorem Dev.setLane_parts (d : Dev) (die l : Nat) (x : Lane) : (d.setLane die l x).parts = d.parts := rfl
@[simp] theorem Dev.setLane_wards (d : Dev) (die l : Nat) (x : Lane) : (d.setLane die l x).wards = d.wards := rfl
@[simp] theorem Dev.setLane_pws (d : Dev) (die l : Nat) (x : Lane) : (d.setLane die l x).pws = d.pws := rfl
@[simp] theorem Dev.setLane_chunks (d : Dev) (die l : Nat) (x : Lane) : (d.setLane die l x).chunks = d.chunks := rfl
@[simp] theorem Dev.setLane_i3c (d : Dev) (die l : Nat) (x : Lane) : (d.setLane die l x).i3c = d.i3c := rfl
@[simp] theorem Dev.setLane_i3cOut (d : Dev) (die l : Nat) (x : Lane) : (d.setLane die l x).i3cOut = d.i3cOut := rfl
@[simp] theorem Dev.setLane_flash (d : Dev) (die l : Nat) (x : Lane) : (d.setLane die l x).flash = d.flash := rfl
@[simp] theorem Dev.setLane_read_raw (d : Dev) (die l : Nat) (x : Lane) (r : RKey) : (d.setLane die l x).raw r = d.raw r := rfl
@[simp] theorem Dev.setLane_read_get (d : Dev) (die l : Nat) (x : Lane) (g : Fld) (die' i' s' : Nat) : (d.setLane die l x).get g die' i' s' = d.get g die' i' s' := rfl
@[simp] theorem Dev.setLane_read_coreAt (d : Dev) (die l : Nat) (x : Lane) (q : Nat) : (d.setLane die l x).coreAt q = d.coreAt q := rfl
@[simp] theorem Dev.setLane_read_cellAt (d : Dev) (die l : Nat) (x : Lane) (q : Nat) : (d.setLane die l x).cellAt q = d.cellAt q := rfl
@[simp] theorem Dev.setLane_read_partOf (d : Dev) (die l : Nat) (x : Lane) (q : Nat) : (d.setLane die l x).partOf q = d.partOf q := rfl
@[simp] theorem Dev.setLane_read_tumbler (d : Dev) (die l : Nat) (x : Lane) (die' j : Nat) : (d.setLane die l x).tumbler die' j = d.tumbler die' j := rfl
@[simp] theorem Dev.setLane_read_eng (d : Dev) (die l : Nat) (x : Lane) (die' e' : Nat) : (d.setLane die l x).eng die' e' = d.eng die' e' := rfl
@[simp] theorem Dev.setLane_read_unfAt (d : Dev) (die l : Nat) (x : Lane) (die' e' : Nat) : (d.setLane die l x).unfAt die' e' = d.unfAt die' e' := rfl
@[simp] theorem Dev.setLane_read_dsp (d : Dev) (die l : Nat) (x : Lane) (q : Nat) : (d.setLane die l x).dsp q = d.dsp q := rfl
@[simp] theorem Dev.setLane_read_eth (d : Dev) (die l : Nat) (x : Lane) (die' e' : Nat) : (d.setLane die l x).eth die' e' = d.eth die' e' := rfl
@[simp] theorem Dev.setLane_read_hbmAt (d : Dev) (die l : Nat) (x : Lane) (die' e' : Nat) : (d.setLane die l x).hbmAt die' e' = d.hbmAt die' e' := rfl
@[simp] theorem Dev.setLane_read_flink (d : Dev) (die l : Nat) (x : Lane) (die' e' : Nat) : (d.setLane die l x).flink die' e' = d.flink die' e' := rfl
@[simp] theorem Dev.setLane_read_knk (d : Dev) (die l : Nat) (x : Lane) (q : Nat) : (d.setLane die l x).knk q = d.knk q := rfl
@[simp] theorem Dev.setLane_read_port (d : Dev) (die l : Nat) (x : Lane) (q : Nat) : (d.setLane die l x).port q = d.port q := rfl
@[simp] theorem Dev.setLane_read_qp (d : Dev) (die l : Nat) (x : Lane) (q : Nat) : (d.setLane die l x).qp q = d.qp q := rfl
@[simp] theorem Dev.setLane_read_stew (d : Dev) (die l : Nat) (x : Lane) (q : Nat) : (d.setLane die l x).stew q = d.stew q := rfl
@[simp] theorem Dev.setLane_read_site (d : Dev) (die l : Nat) (x : Lane) (q : Nat) : (d.setLane die l x).site q = d.site q := rfl
@[simp] theorem Dev.setLane_read_ward (d : Dev) (die l : Nat) (x : Lane) (q : Nat) : (d.setLane die l x).ward q = d.ward q := rfl
@[simp] theorem Dev.setLane_read_tick (d : Dev) (die l : Nat) (x : Lane) (q : Nat) : (d.setLane die l x).tick q = d.tick q := rfl
@[simp] theorem Dev.setLane_read_pwOf (d : Dev) (die l : Nat) (x : Lane) (q : Nat) : (d.setLane die l x).pwOf q = d.pwOf q := rfl
@[simp] theorem Dev.setLane_read_aonUp (d : Dev) (die l : Nat) (x : Lane) (q : Nat) : (d.setLane die l x).aonUp q = d.aonUp q := rfl
@[simp] theorem Dev.setLane_lane_self (d : Dev) (die l : Nat) (x : Lane) : (d.setLane die l x).lane die l = x := by
  unfold Dev.setLane Dev.lane
  rw [KMap.atD_put, if_pos rfl]

/-! setPort -/

@[simp] theorem Dev.setPort_fuse (d : Dev) (p : Nat) (x : PPort) : (d.setPort p x).fuse = d.fuse := rfl
@[simp] theorem Dev.setPort_pw (d : Dev) (p : Nat) (x : PPort) : (d.setPort p x).pw = d.pw := rfl
@[simp] theorem Dev.setPort_aon (d : Dev) (p : Nat) (x : PPort) : (d.setPort p x).aon = d.aon := rfl
@[simp] theorem Dev.setPort_rf (d : Dev) (p : Nat) (x : PPort) : (d.setPort p x).rf = d.rf := rfl
@[simp] theorem Dev.setPort_capt (d : Dev) (p : Nat) (x : PPort) : (d.setPort p x).capt = d.capt := rfl
@[simp] theorem Dev.setPort_held (d : Dev) (p : Nat) (x : PPort) : (d.setPort p x).held = d.held := rfl
@[simp] theorem Dev.setPort_free (d : Dev) (p : Nat) (x : PPort) : (d.setPort p x).free = d.free := rfl
@[simp] theorem Dev.setPort_mem (d : Dev) (p : Nat) (x : PPort) : (d.setPort p x).mem = d.mem := rfl
@[simp] theorem Dev.setPort_unwritten (d : Dev) (p : Nat) (x : PPort) : (d.setPort p x).unwritten = d.unwritten := rfl
@[simp] theorem Dev.setPort_errs (d : Dev) (p : Nat) (x : PPort) : (d.setPort p x).errs = d.errs := rfl
@[simp] theorem Dev.setPort_lcnt (d : Dev) (p : Nat) (x : PPort) : (d.setPort p x).lcnt = d.lcnt := rfl
@[simp] theorem Dev.setPort_cores (d : Dev) (p : Nat) (x : PPort) : (d.setPort p x).cores = d.cores := rfl
@[simp] theorem Dev.setPort_cells (d : Dev) (p : Nat) (x : PPort) : (d.setPort p x).cells = d.cells := rfl
@[simp] theorem Dev.setPort_cellPart (d : Dev) (p : Nat) (x : PPort) : (d.setPort p x).cellPart = d.cellPart := rfl
@[simp] theorem Dev.setPort_tmb (d : Dev) (p : Nat) (x : PPort) : (d.setPort p x).tmb = d.tmb := rfl
@[simp] theorem Dev.setPort_waits (d : Dev) (p : Nat) (x : PPort) : (d.setPort p x).waits = d.waits := rfl
@[simp] theorem Dev.setPort_swGen (d : Dev) (p : Nat) (x : PPort) : (d.setPort p x).swGen = d.swGen := rfl
@[simp] theorem Dev.setPort_ctl (d : Dev) (p : Nat) (x : PPort) : (d.setPort p x).ctl = d.ctl := rfl
@[simp] theorem Dev.setPort_net (d : Dev) (p : Nat) (x : PPort) : (d.setPort p x).net = d.net := rfl
@[simp] theorem Dev.setPort_sqn (d : Dev) (p : Nat) (x : PPort) : (d.setPort p x).sqn = d.sqn := rfl
@[simp] theorem Dev.setPort_engs (d : Dev) (p : Nat) (x : PPort) : (d.setPort p x).engs = d.engs := rfl
@[simp] theorem Dev.setPort_unfs (d : Dev) (p : Nat) (x : PPort) : (d.setPort p x).unfs = d.unfs := rfl
@[simp] theorem Dev.setPort_dsps (d : Dev) (p : Nat) (x : PPort) : (d.setPort p x).dsps = d.dsps := rfl
@[simp] theorem Dev.setPort_bq (d : Dev) (p : Nat) (x : PPort) : (d.setPort p x).bq = d.bq := rfl
@[simp] theorem Dev.setPort_rdq (d : Dev) (p : Nat) (x : PPort) : (d.setPort p x).rdq = d.rdq := rfl
@[simp] theorem Dev.setPort_wrq (d : Dev) (p : Nat) (x : PPort) : (d.setPort p x).wrq = d.wrq := rfl
@[simp] theorem Dev.setPort_rows (d : Dev) (p : Nat) (x : PPort) : (d.setPort p x).rows = d.rows := rfl
@[simp] theorem Dev.setPort_hbm (d : Dev) (p : Nat) (x : PPort) : (d.setPort p x).hbm = d.hbm := rfl
@[simp] theorem Dev.setPort_narrow (d : Dev) (p : Nat) (x : PPort) : (d.setPort p x).narrow = d.narrow := rfl
@[simp] theorem Dev.setPort_conv (d : Dev) (p : Nat) (x : PPort) : (d.setPort p x).conv = d.conv := rfl
@[simp] theorem Dev.setPort_merge (d : Dev) (p : Nat) (x : PPort) : (d.setPort p x).merge = d.merge := rfl
@[simp] theorem Dev.setPort_scrub (d : Dev) (p : Nat) (x : PPort) : (d.setPort p x).scrub = d.scrub := rfl
@[simp] theorem Dev.setPort_wback (d : Dev) (p : Nat) (x : PPort) : (d.setPort p x).wback = d.wback := rfl
@[simp] theorem Dev.setPort_stest (d : Dev) (p : Nat) (x : PPort) : (d.setPort p x).stest = d.stest := rfl
@[simp] theorem Dev.setPort_zfill (d : Dev) (p : Nat) (x : PPort) : (d.setPort p x).zfill = d.zfill := rfl
@[simp] theorem Dev.setPort_memtest (d : Dev) (p : Nat) (x : PPort) : (d.setPort p x).memtest = d.memtest := rfl
@[simp] theorem Dev.setPort_krg (d : Dev) (p : Nat) (x : PPort) : (d.setPort p x).krg = d.krg := rfl
@[simp] theorem Dev.setPort_krgP (d : Dev) (p : Nat) (x : PPort) : (d.setPort p x).krgP = d.krgP := rfl
@[simp] theorem Dev.setPort_drains (d : Dev) (p : Nat) (x : PPort) : (d.setPort p x).drains = d.drains := rfl
@[simp] theorem Dev.setPort_stwIo (d : Dev) (p : Nat) (x : PPort) : (d.setPort p x).stwIo = d.stwIo := rfl
@[simp] theorem Dev.setPort_flinks (d : Dev) (p : Nat) (x : PPort) : (d.setPort p x).flinks = d.flinks := rfl
@[simp] theorem Dev.setPort_knks (d : Dev) (p : Nat) (x : PPort) : (d.setPort p x).knks = d.knks := rfl
@[simp] theorem Dev.setPort_knkPend (d : Dev) (p : Nat) (x : PPort) : (d.setPort p x).knkPend = d.knkPend := rfl
@[simp] theorem Dev.setPort_mapUpd (d : Dev) (p : Nat) (x : PPort) : (d.setPort p x).mapUpd = d.mapUpd := rfl
@[simp] theorem Dev.setPort_sites (d : Dev) (p : Nat) (x : PPort) : (d.setPort p x).sites = d.sites := rfl
@[simp] theorem Dev.setPort_alert (d : Dev) (p : Nat) (x : PPort) : (d.setPort p x).alert = d.alert := rfl
@[simp] theorem Dev.setPort_tripN (d : Dev) (p : Nat) (x : PPort) : (d.setPort p x).tripN = d.tripN := rfl
@[simp] theorem Dev.setPort_irqs (d : Dev) (p : Nat) (x : PPort) : (d.setPort p x).irqs = d.irqs := rfl
@[simp] theorem Dev.setPort_lanes (d : Dev) (p : Nat) (x : PPort) : (d.setPort p x).lanes = d.lanes := rfl
@[simp] theorem Dev.setPort_ports_now (d : Dev) (p : Nat) (x : PPort) : (d.setPort p x).ports = d.ports.put p x := rfl
@[simp] theorem Dev.setPort_eths (d : Dev) (p : Nat) (x : PPort) : (d.setPort p x).eths = d.eths := rfl
@[simp] theorem Dev.setPort_qps (d : Dev) (p : Nat) (x : PPort) : (d.setPort p x).qps = d.qps := rfl
@[simp] theorem Dev.setPort_mbxIn (d : Dev) (p : Nat) (x : PPort) : (d.setPort p x).mbxIn = d.mbxIn := rfl
@[simp] theorem Dev.setPort_stews (d : Dev) (p : Nat) (x : PPort) : (d.setPort p x).stews = d.stews := rfl
@[simp] theorem Dev.setPort_parts (d : Dev) (p : Nat) (x : PPort) : (d.setPort p x).parts = d.parts := rfl
@[simp] theorem Dev.setPort_wards (d : Dev) (p : Nat) (x : PPort) : (d.setPort p x).wards = d.wards := rfl
@[simp] theorem Dev.setPort_pws (d : Dev) (p : Nat) (x : PPort) : (d.setPort p x).pws = d.pws := rfl
@[simp] theorem Dev.setPort_chunks (d : Dev) (p : Nat) (x : PPort) : (d.setPort p x).chunks = d.chunks := rfl
@[simp] theorem Dev.setPort_i3c (d : Dev) (p : Nat) (x : PPort) : (d.setPort p x).i3c = d.i3c := rfl
@[simp] theorem Dev.setPort_i3cOut (d : Dev) (p : Nat) (x : PPort) : (d.setPort p x).i3cOut = d.i3cOut := rfl
@[simp] theorem Dev.setPort_flash (d : Dev) (p : Nat) (x : PPort) : (d.setPort p x).flash = d.flash := rfl
@[simp] theorem Dev.setPort_read_raw (d : Dev) (p : Nat) (x : PPort) (r : RKey) : (d.setPort p x).raw r = d.raw r := rfl
@[simp] theorem Dev.setPort_read_get (d : Dev) (p : Nat) (x : PPort) (g : Fld) (die' i' s' : Nat) : (d.setPort p x).get g die' i' s' = d.get g die' i' s' := rfl
@[simp] theorem Dev.setPort_read_coreAt (d : Dev) (p : Nat) (x : PPort) (q : Nat) : (d.setPort p x).coreAt q = d.coreAt q := rfl
@[simp] theorem Dev.setPort_read_cellAt (d : Dev) (p : Nat) (x : PPort) (q : Nat) : (d.setPort p x).cellAt q = d.cellAt q := rfl
@[simp] theorem Dev.setPort_read_partOf (d : Dev) (p : Nat) (x : PPort) (q : Nat) : (d.setPort p x).partOf q = d.partOf q := rfl
@[simp] theorem Dev.setPort_read_tumbler (d : Dev) (p : Nat) (x : PPort) (die' j : Nat) : (d.setPort p x).tumbler die' j = d.tumbler die' j := rfl
@[simp] theorem Dev.setPort_read_eng (d : Dev) (p : Nat) (x : PPort) (die' e' : Nat) : (d.setPort p x).eng die' e' = d.eng die' e' := rfl
@[simp] theorem Dev.setPort_read_unfAt (d : Dev) (p : Nat) (x : PPort) (die' e' : Nat) : (d.setPort p x).unfAt die' e' = d.unfAt die' e' := rfl
@[simp] theorem Dev.setPort_read_dsp (d : Dev) (p : Nat) (x : PPort) (q : Nat) : (d.setPort p x).dsp q = d.dsp q := rfl
@[simp] theorem Dev.setPort_read_eth (d : Dev) (p : Nat) (x : PPort) (die' e' : Nat) : (d.setPort p x).eth die' e' = d.eth die' e' := rfl
@[simp] theorem Dev.setPort_read_hbmAt (d : Dev) (p : Nat) (x : PPort) (die' e' : Nat) : (d.setPort p x).hbmAt die' e' = d.hbmAt die' e' := rfl
@[simp] theorem Dev.setPort_read_flink (d : Dev) (p : Nat) (x : PPort) (die' e' : Nat) : (d.setPort p x).flink die' e' = d.flink die' e' := rfl
@[simp] theorem Dev.setPort_read_knk (d : Dev) (p : Nat) (x : PPort) (q : Nat) : (d.setPort p x).knk q = d.knk q := rfl
@[simp] theorem Dev.setPort_read_lane (d : Dev) (p : Nat) (x : PPort) (die' e' : Nat) : (d.setPort p x).lane die' e' = d.lane die' e' := rfl
@[simp] theorem Dev.setPort_read_qp (d : Dev) (p : Nat) (x : PPort) (q : Nat) : (d.setPort p x).qp q = d.qp q := rfl
@[simp] theorem Dev.setPort_read_stew (d : Dev) (p : Nat) (x : PPort) (q : Nat) : (d.setPort p x).stew q = d.stew q := rfl
@[simp] theorem Dev.setPort_read_site (d : Dev) (p : Nat) (x : PPort) (q : Nat) : (d.setPort p x).site q = d.site q := rfl
@[simp] theorem Dev.setPort_read_ward (d : Dev) (p : Nat) (x : PPort) (q : Nat) : (d.setPort p x).ward q = d.ward q := rfl
@[simp] theorem Dev.setPort_read_tick (d : Dev) (p : Nat) (x : PPort) (q : Nat) : (d.setPort p x).tick q = d.tick q := rfl
@[simp] theorem Dev.setPort_read_pwOf (d : Dev) (p : Nat) (x : PPort) (q : Nat) : (d.setPort p x).pwOf q = d.pwOf q := rfl
@[simp] theorem Dev.setPort_read_aonUp (d : Dev) (p : Nat) (x : PPort) (q : Nat) : (d.setPort p x).aonUp q = d.aonUp q := rfl
@[simp] theorem Dev.setPort_port_self (d : Dev) (p : Nat) (x : PPort) : (d.setPort p x).port p = x := by
  unfold Dev.setPort Dev.port
  rw [KMap.atD_put, if_pos rfl]

/-! setQp -/

@[simp] theorem Dev.setQp_fuse (d : Dev) (n : Nat) (x : QP) : (d.setQp n x).fuse = d.fuse := rfl
@[simp] theorem Dev.setQp_pw (d : Dev) (n : Nat) (x : QP) : (d.setQp n x).pw = d.pw := rfl
@[simp] theorem Dev.setQp_aon (d : Dev) (n : Nat) (x : QP) : (d.setQp n x).aon = d.aon := rfl
@[simp] theorem Dev.setQp_rf (d : Dev) (n : Nat) (x : QP) : (d.setQp n x).rf = d.rf := rfl
@[simp] theorem Dev.setQp_capt (d : Dev) (n : Nat) (x : QP) : (d.setQp n x).capt = d.capt := rfl
@[simp] theorem Dev.setQp_held (d : Dev) (n : Nat) (x : QP) : (d.setQp n x).held = d.held := rfl
@[simp] theorem Dev.setQp_free (d : Dev) (n : Nat) (x : QP) : (d.setQp n x).free = d.free := rfl
@[simp] theorem Dev.setQp_mem (d : Dev) (n : Nat) (x : QP) : (d.setQp n x).mem = d.mem := rfl
@[simp] theorem Dev.setQp_unwritten (d : Dev) (n : Nat) (x : QP) : (d.setQp n x).unwritten = d.unwritten := rfl
@[simp] theorem Dev.setQp_errs (d : Dev) (n : Nat) (x : QP) : (d.setQp n x).errs = d.errs := rfl
@[simp] theorem Dev.setQp_lcnt (d : Dev) (n : Nat) (x : QP) : (d.setQp n x).lcnt = d.lcnt := rfl
@[simp] theorem Dev.setQp_cores (d : Dev) (n : Nat) (x : QP) : (d.setQp n x).cores = d.cores := rfl
@[simp] theorem Dev.setQp_cells (d : Dev) (n : Nat) (x : QP) : (d.setQp n x).cells = d.cells := rfl
@[simp] theorem Dev.setQp_cellPart (d : Dev) (n : Nat) (x : QP) : (d.setQp n x).cellPart = d.cellPart := rfl
@[simp] theorem Dev.setQp_tmb (d : Dev) (n : Nat) (x : QP) : (d.setQp n x).tmb = d.tmb := rfl
@[simp] theorem Dev.setQp_waits (d : Dev) (n : Nat) (x : QP) : (d.setQp n x).waits = d.waits := rfl
@[simp] theorem Dev.setQp_swGen (d : Dev) (n : Nat) (x : QP) : (d.setQp n x).swGen = d.swGen := rfl
@[simp] theorem Dev.setQp_ctl (d : Dev) (n : Nat) (x : QP) : (d.setQp n x).ctl = d.ctl := rfl
@[simp] theorem Dev.setQp_net (d : Dev) (n : Nat) (x : QP) : (d.setQp n x).net = d.net := rfl
@[simp] theorem Dev.setQp_sqn (d : Dev) (n : Nat) (x : QP) : (d.setQp n x).sqn = d.sqn := rfl
@[simp] theorem Dev.setQp_engs (d : Dev) (n : Nat) (x : QP) : (d.setQp n x).engs = d.engs := rfl
@[simp] theorem Dev.setQp_unfs (d : Dev) (n : Nat) (x : QP) : (d.setQp n x).unfs = d.unfs := rfl
@[simp] theorem Dev.setQp_dsps (d : Dev) (n : Nat) (x : QP) : (d.setQp n x).dsps = d.dsps := rfl
@[simp] theorem Dev.setQp_bq (d : Dev) (n : Nat) (x : QP) : (d.setQp n x).bq = d.bq := rfl
@[simp] theorem Dev.setQp_rdq (d : Dev) (n : Nat) (x : QP) : (d.setQp n x).rdq = d.rdq := rfl
@[simp] theorem Dev.setQp_wrq (d : Dev) (n : Nat) (x : QP) : (d.setQp n x).wrq = d.wrq := rfl
@[simp] theorem Dev.setQp_rows (d : Dev) (n : Nat) (x : QP) : (d.setQp n x).rows = d.rows := rfl
@[simp] theorem Dev.setQp_hbm (d : Dev) (n : Nat) (x : QP) : (d.setQp n x).hbm = d.hbm := rfl
@[simp] theorem Dev.setQp_narrow (d : Dev) (n : Nat) (x : QP) : (d.setQp n x).narrow = d.narrow := rfl
@[simp] theorem Dev.setQp_conv (d : Dev) (n : Nat) (x : QP) : (d.setQp n x).conv = d.conv := rfl
@[simp] theorem Dev.setQp_merge (d : Dev) (n : Nat) (x : QP) : (d.setQp n x).merge = d.merge := rfl
@[simp] theorem Dev.setQp_scrub (d : Dev) (n : Nat) (x : QP) : (d.setQp n x).scrub = d.scrub := rfl
@[simp] theorem Dev.setQp_wback (d : Dev) (n : Nat) (x : QP) : (d.setQp n x).wback = d.wback := rfl
@[simp] theorem Dev.setQp_stest (d : Dev) (n : Nat) (x : QP) : (d.setQp n x).stest = d.stest := rfl
@[simp] theorem Dev.setQp_zfill (d : Dev) (n : Nat) (x : QP) : (d.setQp n x).zfill = d.zfill := rfl
@[simp] theorem Dev.setQp_memtest (d : Dev) (n : Nat) (x : QP) : (d.setQp n x).memtest = d.memtest := rfl
@[simp] theorem Dev.setQp_krg (d : Dev) (n : Nat) (x : QP) : (d.setQp n x).krg = d.krg := rfl
@[simp] theorem Dev.setQp_krgP (d : Dev) (n : Nat) (x : QP) : (d.setQp n x).krgP = d.krgP := rfl
@[simp] theorem Dev.setQp_drains (d : Dev) (n : Nat) (x : QP) : (d.setQp n x).drains = d.drains := rfl
@[simp] theorem Dev.setQp_stwIo (d : Dev) (n : Nat) (x : QP) : (d.setQp n x).stwIo = d.stwIo := rfl
@[simp] theorem Dev.setQp_flinks (d : Dev) (n : Nat) (x : QP) : (d.setQp n x).flinks = d.flinks := rfl
@[simp] theorem Dev.setQp_knks (d : Dev) (n : Nat) (x : QP) : (d.setQp n x).knks = d.knks := rfl
@[simp] theorem Dev.setQp_knkPend (d : Dev) (n : Nat) (x : QP) : (d.setQp n x).knkPend = d.knkPend := rfl
@[simp] theorem Dev.setQp_mapUpd (d : Dev) (n : Nat) (x : QP) : (d.setQp n x).mapUpd = d.mapUpd := rfl
@[simp] theorem Dev.setQp_sites (d : Dev) (n : Nat) (x : QP) : (d.setQp n x).sites = d.sites := rfl
@[simp] theorem Dev.setQp_alert (d : Dev) (n : Nat) (x : QP) : (d.setQp n x).alert = d.alert := rfl
@[simp] theorem Dev.setQp_tripN (d : Dev) (n : Nat) (x : QP) : (d.setQp n x).tripN = d.tripN := rfl
@[simp] theorem Dev.setQp_irqs (d : Dev) (n : Nat) (x : QP) : (d.setQp n x).irqs = d.irqs := rfl
@[simp] theorem Dev.setQp_lanes (d : Dev) (n : Nat) (x : QP) : (d.setQp n x).lanes = d.lanes := rfl
@[simp] theorem Dev.setQp_ports (d : Dev) (n : Nat) (x : QP) : (d.setQp n x).ports = d.ports := rfl
@[simp] theorem Dev.setQp_eths (d : Dev) (n : Nat) (x : QP) : (d.setQp n x).eths = d.eths := rfl
@[simp] theorem Dev.setQp_qps_now (d : Dev) (n : Nat) (x : QP) : (d.setQp n x).qps = d.qps.put n x := rfl
@[simp] theorem Dev.setQp_mbxIn (d : Dev) (n : Nat) (x : QP) : (d.setQp n x).mbxIn = d.mbxIn := rfl
@[simp] theorem Dev.setQp_stews (d : Dev) (n : Nat) (x : QP) : (d.setQp n x).stews = d.stews := rfl
@[simp] theorem Dev.setQp_parts (d : Dev) (n : Nat) (x : QP) : (d.setQp n x).parts = d.parts := rfl
@[simp] theorem Dev.setQp_wards (d : Dev) (n : Nat) (x : QP) : (d.setQp n x).wards = d.wards := rfl
@[simp] theorem Dev.setQp_pws (d : Dev) (n : Nat) (x : QP) : (d.setQp n x).pws = d.pws := rfl
@[simp] theorem Dev.setQp_chunks (d : Dev) (n : Nat) (x : QP) : (d.setQp n x).chunks = d.chunks := rfl
@[simp] theorem Dev.setQp_i3c (d : Dev) (n : Nat) (x : QP) : (d.setQp n x).i3c = d.i3c := rfl
@[simp] theorem Dev.setQp_i3cOut (d : Dev) (n : Nat) (x : QP) : (d.setQp n x).i3cOut = d.i3cOut := rfl
@[simp] theorem Dev.setQp_flash (d : Dev) (n : Nat) (x : QP) : (d.setQp n x).flash = d.flash := rfl
@[simp] theorem Dev.setQp_read_raw (d : Dev) (n : Nat) (x : QP) (r : RKey) : (d.setQp n x).raw r = d.raw r := rfl
@[simp] theorem Dev.setQp_read_get (d : Dev) (n : Nat) (x : QP) (g : Fld) (die' i' s' : Nat) : (d.setQp n x).get g die' i' s' = d.get g die' i' s' := rfl
@[simp] theorem Dev.setQp_read_coreAt (d : Dev) (n : Nat) (x : QP) (q : Nat) : (d.setQp n x).coreAt q = d.coreAt q := rfl
@[simp] theorem Dev.setQp_read_cellAt (d : Dev) (n : Nat) (x : QP) (q : Nat) : (d.setQp n x).cellAt q = d.cellAt q := rfl
@[simp] theorem Dev.setQp_read_partOf (d : Dev) (n : Nat) (x : QP) (q : Nat) : (d.setQp n x).partOf q = d.partOf q := rfl
@[simp] theorem Dev.setQp_read_tumbler (d : Dev) (n : Nat) (x : QP) (die' j : Nat) : (d.setQp n x).tumbler die' j = d.tumbler die' j := rfl
@[simp] theorem Dev.setQp_read_eng (d : Dev) (n : Nat) (x : QP) (die' e' : Nat) : (d.setQp n x).eng die' e' = d.eng die' e' := rfl
@[simp] theorem Dev.setQp_read_unfAt (d : Dev) (n : Nat) (x : QP) (die' e' : Nat) : (d.setQp n x).unfAt die' e' = d.unfAt die' e' := rfl
@[simp] theorem Dev.setQp_read_dsp (d : Dev) (n : Nat) (x : QP) (q : Nat) : (d.setQp n x).dsp q = d.dsp q := rfl
@[simp] theorem Dev.setQp_read_eth (d : Dev) (n : Nat) (x : QP) (die' e' : Nat) : (d.setQp n x).eth die' e' = d.eth die' e' := rfl
@[simp] theorem Dev.setQp_read_hbmAt (d : Dev) (n : Nat) (x : QP) (die' e' : Nat) : (d.setQp n x).hbmAt die' e' = d.hbmAt die' e' := rfl
@[simp] theorem Dev.setQp_read_flink (d : Dev) (n : Nat) (x : QP) (die' e' : Nat) : (d.setQp n x).flink die' e' = d.flink die' e' := rfl
@[simp] theorem Dev.setQp_read_knk (d : Dev) (n : Nat) (x : QP) (q : Nat) : (d.setQp n x).knk q = d.knk q := rfl
@[simp] theorem Dev.setQp_read_lane (d : Dev) (n : Nat) (x : QP) (die' e' : Nat) : (d.setQp n x).lane die' e' = d.lane die' e' := rfl
@[simp] theorem Dev.setQp_read_port (d : Dev) (n : Nat) (x : QP) (q : Nat) : (d.setQp n x).port q = d.port q := rfl
@[simp] theorem Dev.setQp_read_stew (d : Dev) (n : Nat) (x : QP) (q : Nat) : (d.setQp n x).stew q = d.stew q := rfl
@[simp] theorem Dev.setQp_read_site (d : Dev) (n : Nat) (x : QP) (q : Nat) : (d.setQp n x).site q = d.site q := rfl
@[simp] theorem Dev.setQp_read_ward (d : Dev) (n : Nat) (x : QP) (q : Nat) : (d.setQp n x).ward q = d.ward q := rfl
@[simp] theorem Dev.setQp_read_tick (d : Dev) (n : Nat) (x : QP) (q : Nat) : (d.setQp n x).tick q = d.tick q := rfl
@[simp] theorem Dev.setQp_read_pwOf (d : Dev) (n : Nat) (x : QP) (q : Nat) : (d.setQp n x).pwOf q = d.pwOf q := rfl
@[simp] theorem Dev.setQp_read_aonUp (d : Dev) (n : Nat) (x : QP) (q : Nat) : (d.setQp n x).aonUp q = d.aonUp q := rfl
@[simp] theorem Dev.setQp_qp_self (d : Dev) (n : Nat) (x : QP) : (d.setQp n x).qp n = x := by
  unfold Dev.setQp Dev.qp
  rw [KMap.atD_put, if_pos rfl]

/-! modStew -/

@[simp] theorem Dev.modStew_fuse (d : Dev) (die : Nat) (f : Stew → Stew) : (d.modStew die f).fuse = d.fuse := rfl
@[simp] theorem Dev.modStew_pw (d : Dev) (die : Nat) (f : Stew → Stew) : (d.modStew die f).pw = d.pw := rfl
@[simp] theorem Dev.modStew_aon (d : Dev) (die : Nat) (f : Stew → Stew) : (d.modStew die f).aon = d.aon := rfl
@[simp] theorem Dev.modStew_rf (d : Dev) (die : Nat) (f : Stew → Stew) : (d.modStew die f).rf = d.rf := rfl
@[simp] theorem Dev.modStew_capt (d : Dev) (die : Nat) (f : Stew → Stew) : (d.modStew die f).capt = d.capt := rfl
@[simp] theorem Dev.modStew_held (d : Dev) (die : Nat) (f : Stew → Stew) : (d.modStew die f).held = d.held := rfl
@[simp] theorem Dev.modStew_free (d : Dev) (die : Nat) (f : Stew → Stew) : (d.modStew die f).free = d.free := rfl
@[simp] theorem Dev.modStew_mem (d : Dev) (die : Nat) (f : Stew → Stew) : (d.modStew die f).mem = d.mem := rfl
@[simp] theorem Dev.modStew_unwritten (d : Dev) (die : Nat) (f : Stew → Stew) : (d.modStew die f).unwritten = d.unwritten := rfl
@[simp] theorem Dev.modStew_errs (d : Dev) (die : Nat) (f : Stew → Stew) : (d.modStew die f).errs = d.errs := rfl
@[simp] theorem Dev.modStew_lcnt (d : Dev) (die : Nat) (f : Stew → Stew) : (d.modStew die f).lcnt = d.lcnt := rfl
@[simp] theorem Dev.modStew_cores (d : Dev) (die : Nat) (f : Stew → Stew) : (d.modStew die f).cores = d.cores := rfl
@[simp] theorem Dev.modStew_cells (d : Dev) (die : Nat) (f : Stew → Stew) : (d.modStew die f).cells = d.cells := rfl
@[simp] theorem Dev.modStew_cellPart (d : Dev) (die : Nat) (f : Stew → Stew) : (d.modStew die f).cellPart = d.cellPart := rfl
@[simp] theorem Dev.modStew_tmb (d : Dev) (die : Nat) (f : Stew → Stew) : (d.modStew die f).tmb = d.tmb := rfl
@[simp] theorem Dev.modStew_waits (d : Dev) (die : Nat) (f : Stew → Stew) : (d.modStew die f).waits = d.waits := rfl
@[simp] theorem Dev.modStew_swGen (d : Dev) (die : Nat) (f : Stew → Stew) : (d.modStew die f).swGen = d.swGen := rfl
@[simp] theorem Dev.modStew_ctl (d : Dev) (die : Nat) (f : Stew → Stew) : (d.modStew die f).ctl = d.ctl := rfl
@[simp] theorem Dev.modStew_net (d : Dev) (die : Nat) (f : Stew → Stew) : (d.modStew die f).net = d.net := rfl
@[simp] theorem Dev.modStew_sqn (d : Dev) (die : Nat) (f : Stew → Stew) : (d.modStew die f).sqn = d.sqn := rfl
@[simp] theorem Dev.modStew_engs (d : Dev) (die : Nat) (f : Stew → Stew) : (d.modStew die f).engs = d.engs := rfl
@[simp] theorem Dev.modStew_unfs (d : Dev) (die : Nat) (f : Stew → Stew) : (d.modStew die f).unfs = d.unfs := rfl
@[simp] theorem Dev.modStew_dsps (d : Dev) (die : Nat) (f : Stew → Stew) : (d.modStew die f).dsps = d.dsps := rfl
@[simp] theorem Dev.modStew_bq (d : Dev) (die : Nat) (f : Stew → Stew) : (d.modStew die f).bq = d.bq := rfl
@[simp] theorem Dev.modStew_rdq (d : Dev) (die : Nat) (f : Stew → Stew) : (d.modStew die f).rdq = d.rdq := rfl
@[simp] theorem Dev.modStew_wrq (d : Dev) (die : Nat) (f : Stew → Stew) : (d.modStew die f).wrq = d.wrq := rfl
@[simp] theorem Dev.modStew_rows (d : Dev) (die : Nat) (f : Stew → Stew) : (d.modStew die f).rows = d.rows := rfl
@[simp] theorem Dev.modStew_hbm (d : Dev) (die : Nat) (f : Stew → Stew) : (d.modStew die f).hbm = d.hbm := rfl
@[simp] theorem Dev.modStew_narrow (d : Dev) (die : Nat) (f : Stew → Stew) : (d.modStew die f).narrow = d.narrow := rfl
@[simp] theorem Dev.modStew_conv (d : Dev) (die : Nat) (f : Stew → Stew) : (d.modStew die f).conv = d.conv := rfl
@[simp] theorem Dev.modStew_merge (d : Dev) (die : Nat) (f : Stew → Stew) : (d.modStew die f).merge = d.merge := rfl
@[simp] theorem Dev.modStew_scrub (d : Dev) (die : Nat) (f : Stew → Stew) : (d.modStew die f).scrub = d.scrub := rfl
@[simp] theorem Dev.modStew_wback (d : Dev) (die : Nat) (f : Stew → Stew) : (d.modStew die f).wback = d.wback := rfl
@[simp] theorem Dev.modStew_stest (d : Dev) (die : Nat) (f : Stew → Stew) : (d.modStew die f).stest = d.stest := rfl
@[simp] theorem Dev.modStew_zfill (d : Dev) (die : Nat) (f : Stew → Stew) : (d.modStew die f).zfill = d.zfill := rfl
@[simp] theorem Dev.modStew_memtest (d : Dev) (die : Nat) (f : Stew → Stew) : (d.modStew die f).memtest = d.memtest := rfl
@[simp] theorem Dev.modStew_krg (d : Dev) (die : Nat) (f : Stew → Stew) : (d.modStew die f).krg = d.krg := rfl
@[simp] theorem Dev.modStew_krgP (d : Dev) (die : Nat) (f : Stew → Stew) : (d.modStew die f).krgP = d.krgP := rfl
@[simp] theorem Dev.modStew_drains (d : Dev) (die : Nat) (f : Stew → Stew) : (d.modStew die f).drains = d.drains := rfl
@[simp] theorem Dev.modStew_stwIo (d : Dev) (die : Nat) (f : Stew → Stew) : (d.modStew die f).stwIo = d.stwIo := rfl
@[simp] theorem Dev.modStew_flinks (d : Dev) (die : Nat) (f : Stew → Stew) : (d.modStew die f).flinks = d.flinks := rfl
@[simp] theorem Dev.modStew_knks (d : Dev) (die : Nat) (f : Stew → Stew) : (d.modStew die f).knks = d.knks := rfl
@[simp] theorem Dev.modStew_knkPend (d : Dev) (die : Nat) (f : Stew → Stew) : (d.modStew die f).knkPend = d.knkPend := rfl
@[simp] theorem Dev.modStew_mapUpd (d : Dev) (die : Nat) (f : Stew → Stew) : (d.modStew die f).mapUpd = d.mapUpd := rfl
@[simp] theorem Dev.modStew_sites (d : Dev) (die : Nat) (f : Stew → Stew) : (d.modStew die f).sites = d.sites := rfl
@[simp] theorem Dev.modStew_alert (d : Dev) (die : Nat) (f : Stew → Stew) : (d.modStew die f).alert = d.alert := rfl
@[simp] theorem Dev.modStew_tripN (d : Dev) (die : Nat) (f : Stew → Stew) : (d.modStew die f).tripN = d.tripN := rfl
@[simp] theorem Dev.modStew_irqs (d : Dev) (die : Nat) (f : Stew → Stew) : (d.modStew die f).irqs = d.irqs := rfl
@[simp] theorem Dev.modStew_lanes (d : Dev) (die : Nat) (f : Stew → Stew) : (d.modStew die f).lanes = d.lanes := rfl
@[simp] theorem Dev.modStew_ports (d : Dev) (die : Nat) (f : Stew → Stew) : (d.modStew die f).ports = d.ports := rfl
@[simp] theorem Dev.modStew_eths (d : Dev) (die : Nat) (f : Stew → Stew) : (d.modStew die f).eths = d.eths := rfl
@[simp] theorem Dev.modStew_qps (d : Dev) (die : Nat) (f : Stew → Stew) : (d.modStew die f).qps = d.qps := rfl
@[simp] theorem Dev.modStew_mbxIn (d : Dev) (die : Nat) (f : Stew → Stew) : (d.modStew die f).mbxIn = d.mbxIn := rfl
@[simp] theorem Dev.modStew_stews_now (d : Dev) (die : Nat) (f : Stew → Stew) : (d.modStew die f).stews = d.stews.put die (f (d.stew die)) := rfl
@[simp] theorem Dev.modStew_parts (d : Dev) (die : Nat) (f : Stew → Stew) : (d.modStew die f).parts = d.parts := rfl
@[simp] theorem Dev.modStew_wards (d : Dev) (die : Nat) (f : Stew → Stew) : (d.modStew die f).wards = d.wards := rfl
@[simp] theorem Dev.modStew_pws (d : Dev) (die : Nat) (f : Stew → Stew) : (d.modStew die f).pws = d.pws := rfl
@[simp] theorem Dev.modStew_chunks (d : Dev) (die : Nat) (f : Stew → Stew) : (d.modStew die f).chunks = d.chunks := rfl
@[simp] theorem Dev.modStew_i3c (d : Dev) (die : Nat) (f : Stew → Stew) : (d.modStew die f).i3c = d.i3c := rfl
@[simp] theorem Dev.modStew_i3cOut (d : Dev) (die : Nat) (f : Stew → Stew) : (d.modStew die f).i3cOut = d.i3cOut := rfl
@[simp] theorem Dev.modStew_flash (d : Dev) (die : Nat) (f : Stew → Stew) : (d.modStew die f).flash = d.flash := rfl
@[simp] theorem Dev.modStew_read_raw (d : Dev) (die : Nat) (f : Stew → Stew) (r : RKey) : (d.modStew die f).raw r = d.raw r := rfl
@[simp] theorem Dev.modStew_read_get (d : Dev) (die : Nat) (f : Stew → Stew) (g : Fld) (die' i' s' : Nat) : (d.modStew die f).get g die' i' s' = d.get g die' i' s' := rfl
@[simp] theorem Dev.modStew_read_coreAt (d : Dev) (die : Nat) (f : Stew → Stew) (q : Nat) : (d.modStew die f).coreAt q = d.coreAt q := rfl
@[simp] theorem Dev.modStew_read_cellAt (d : Dev) (die : Nat) (f : Stew → Stew) (q : Nat) : (d.modStew die f).cellAt q = d.cellAt q := rfl
@[simp] theorem Dev.modStew_read_partOf (d : Dev) (die : Nat) (f : Stew → Stew) (q : Nat) : (d.modStew die f).partOf q = d.partOf q := rfl
@[simp] theorem Dev.modStew_read_tumbler (d : Dev) (die : Nat) (f : Stew → Stew) (die' j : Nat) : (d.modStew die f).tumbler die' j = d.tumbler die' j := rfl
@[simp] theorem Dev.modStew_read_eng (d : Dev) (die : Nat) (f : Stew → Stew) (die' e' : Nat) : (d.modStew die f).eng die' e' = d.eng die' e' := rfl
@[simp] theorem Dev.modStew_read_unfAt (d : Dev) (die : Nat) (f : Stew → Stew) (die' e' : Nat) : (d.modStew die f).unfAt die' e' = d.unfAt die' e' := rfl
@[simp] theorem Dev.modStew_read_dsp (d : Dev) (die : Nat) (f : Stew → Stew) (q : Nat) : (d.modStew die f).dsp q = d.dsp q := rfl
@[simp] theorem Dev.modStew_read_eth (d : Dev) (die : Nat) (f : Stew → Stew) (die' e' : Nat) : (d.modStew die f).eth die' e' = d.eth die' e' := rfl
@[simp] theorem Dev.modStew_read_hbmAt (d : Dev) (die : Nat) (f : Stew → Stew) (die' e' : Nat) : (d.modStew die f).hbmAt die' e' = d.hbmAt die' e' := rfl
@[simp] theorem Dev.modStew_read_flink (d : Dev) (die : Nat) (f : Stew → Stew) (die' e' : Nat) : (d.modStew die f).flink die' e' = d.flink die' e' := rfl
@[simp] theorem Dev.modStew_read_knk (d : Dev) (die : Nat) (f : Stew → Stew) (q : Nat) : (d.modStew die f).knk q = d.knk q := rfl
@[simp] theorem Dev.modStew_read_lane (d : Dev) (die : Nat) (f : Stew → Stew) (die' e' : Nat) : (d.modStew die f).lane die' e' = d.lane die' e' := rfl
@[simp] theorem Dev.modStew_read_port (d : Dev) (die : Nat) (f : Stew → Stew) (q : Nat) : (d.modStew die f).port q = d.port q := rfl
@[simp] theorem Dev.modStew_read_qp (d : Dev) (die : Nat) (f : Stew → Stew) (q : Nat) : (d.modStew die f).qp q = d.qp q := rfl
@[simp] theorem Dev.modStew_read_site (d : Dev) (die : Nat) (f : Stew → Stew) (q : Nat) : (d.modStew die f).site q = d.site q := rfl
@[simp] theorem Dev.modStew_read_ward (d : Dev) (die : Nat) (f : Stew → Stew) (q : Nat) : (d.modStew die f).ward q = d.ward q := rfl
@[simp] theorem Dev.modStew_read_tick (d : Dev) (die : Nat) (f : Stew → Stew) (q : Nat) : (d.modStew die f).tick q = d.tick q := rfl
@[simp] theorem Dev.modStew_read_pwOf (d : Dev) (die : Nat) (f : Stew → Stew) (q : Nat) : (d.modStew die f).pwOf q = d.pwOf q := rfl
@[simp] theorem Dev.modStew_read_aonUp (d : Dev) (die : Nat) (f : Stew → Stew) (q : Nat) : (d.modStew die f).aonUp q = d.aonUp q := rfl
@[simp] theorem Dev.modStew_stew_self (d : Dev) (die : Nat) (f : Stew → Stew) : (d.modStew die f).stew die = f (d.stew die) := by
  unfold Dev.modStew Dev.stew
  rw [KMap.atD_put, if_pos rfl]

/-! setSite -/

@[simp] theorem Dev.setSite_fuse (d : Dev) (die : Nat) (x : Site) : (d.setSite die x).fuse = d.fuse := rfl
@[simp] theorem Dev.setSite_pw (d : Dev) (die : Nat) (x : Site) : (d.setSite die x).pw = d.pw := rfl
@[simp] theorem Dev.setSite_aon (d : Dev) (die : Nat) (x : Site) : (d.setSite die x).aon = d.aon := rfl
@[simp] theorem Dev.setSite_rf (d : Dev) (die : Nat) (x : Site) : (d.setSite die x).rf = d.rf := rfl
@[simp] theorem Dev.setSite_capt (d : Dev) (die : Nat) (x : Site) : (d.setSite die x).capt = d.capt := rfl
@[simp] theorem Dev.setSite_held (d : Dev) (die : Nat) (x : Site) : (d.setSite die x).held = d.held := rfl
@[simp] theorem Dev.setSite_free (d : Dev) (die : Nat) (x : Site) : (d.setSite die x).free = d.free := rfl
@[simp] theorem Dev.setSite_mem (d : Dev) (die : Nat) (x : Site) : (d.setSite die x).mem = d.mem := rfl
@[simp] theorem Dev.setSite_unwritten (d : Dev) (die : Nat) (x : Site) : (d.setSite die x).unwritten = d.unwritten := rfl
@[simp] theorem Dev.setSite_errs (d : Dev) (die : Nat) (x : Site) : (d.setSite die x).errs = d.errs := rfl
@[simp] theorem Dev.setSite_lcnt (d : Dev) (die : Nat) (x : Site) : (d.setSite die x).lcnt = d.lcnt := rfl
@[simp] theorem Dev.setSite_cores (d : Dev) (die : Nat) (x : Site) : (d.setSite die x).cores = d.cores := rfl
@[simp] theorem Dev.setSite_cells (d : Dev) (die : Nat) (x : Site) : (d.setSite die x).cells = d.cells := rfl
@[simp] theorem Dev.setSite_cellPart (d : Dev) (die : Nat) (x : Site) : (d.setSite die x).cellPart = d.cellPart := rfl
@[simp] theorem Dev.setSite_tmb (d : Dev) (die : Nat) (x : Site) : (d.setSite die x).tmb = d.tmb := rfl
@[simp] theorem Dev.setSite_waits (d : Dev) (die : Nat) (x : Site) : (d.setSite die x).waits = d.waits := rfl
@[simp] theorem Dev.setSite_swGen (d : Dev) (die : Nat) (x : Site) : (d.setSite die x).swGen = d.swGen := rfl
@[simp] theorem Dev.setSite_ctl (d : Dev) (die : Nat) (x : Site) : (d.setSite die x).ctl = d.ctl := rfl
@[simp] theorem Dev.setSite_net (d : Dev) (die : Nat) (x : Site) : (d.setSite die x).net = d.net := rfl
@[simp] theorem Dev.setSite_sqn (d : Dev) (die : Nat) (x : Site) : (d.setSite die x).sqn = d.sqn := rfl
@[simp] theorem Dev.setSite_engs (d : Dev) (die : Nat) (x : Site) : (d.setSite die x).engs = d.engs := rfl
@[simp] theorem Dev.setSite_unfs (d : Dev) (die : Nat) (x : Site) : (d.setSite die x).unfs = d.unfs := rfl
@[simp] theorem Dev.setSite_dsps (d : Dev) (die : Nat) (x : Site) : (d.setSite die x).dsps = d.dsps := rfl
@[simp] theorem Dev.setSite_bq (d : Dev) (die : Nat) (x : Site) : (d.setSite die x).bq = d.bq := rfl
@[simp] theorem Dev.setSite_rdq (d : Dev) (die : Nat) (x : Site) : (d.setSite die x).rdq = d.rdq := rfl
@[simp] theorem Dev.setSite_wrq (d : Dev) (die : Nat) (x : Site) : (d.setSite die x).wrq = d.wrq := rfl
@[simp] theorem Dev.setSite_rows (d : Dev) (die : Nat) (x : Site) : (d.setSite die x).rows = d.rows := rfl
@[simp] theorem Dev.setSite_hbm (d : Dev) (die : Nat) (x : Site) : (d.setSite die x).hbm = d.hbm := rfl
@[simp] theorem Dev.setSite_narrow (d : Dev) (die : Nat) (x : Site) : (d.setSite die x).narrow = d.narrow := rfl
@[simp] theorem Dev.setSite_conv (d : Dev) (die : Nat) (x : Site) : (d.setSite die x).conv = d.conv := rfl
@[simp] theorem Dev.setSite_merge (d : Dev) (die : Nat) (x : Site) : (d.setSite die x).merge = d.merge := rfl
@[simp] theorem Dev.setSite_scrub (d : Dev) (die : Nat) (x : Site) : (d.setSite die x).scrub = d.scrub := rfl
@[simp] theorem Dev.setSite_wback (d : Dev) (die : Nat) (x : Site) : (d.setSite die x).wback = d.wback := rfl
@[simp] theorem Dev.setSite_stest (d : Dev) (die : Nat) (x : Site) : (d.setSite die x).stest = d.stest := rfl
@[simp] theorem Dev.setSite_zfill (d : Dev) (die : Nat) (x : Site) : (d.setSite die x).zfill = d.zfill := rfl
@[simp] theorem Dev.setSite_memtest (d : Dev) (die : Nat) (x : Site) : (d.setSite die x).memtest = d.memtest := rfl
@[simp] theorem Dev.setSite_krg (d : Dev) (die : Nat) (x : Site) : (d.setSite die x).krg = d.krg := rfl
@[simp] theorem Dev.setSite_krgP (d : Dev) (die : Nat) (x : Site) : (d.setSite die x).krgP = d.krgP := rfl
@[simp] theorem Dev.setSite_drains (d : Dev) (die : Nat) (x : Site) : (d.setSite die x).drains = d.drains := rfl
@[simp] theorem Dev.setSite_stwIo (d : Dev) (die : Nat) (x : Site) : (d.setSite die x).stwIo = d.stwIo := rfl
@[simp] theorem Dev.setSite_flinks (d : Dev) (die : Nat) (x : Site) : (d.setSite die x).flinks = d.flinks := rfl
@[simp] theorem Dev.setSite_knks (d : Dev) (die : Nat) (x : Site) : (d.setSite die x).knks = d.knks := rfl
@[simp] theorem Dev.setSite_knkPend (d : Dev) (die : Nat) (x : Site) : (d.setSite die x).knkPend = d.knkPend := rfl
@[simp] theorem Dev.setSite_mapUpd (d : Dev) (die : Nat) (x : Site) : (d.setSite die x).mapUpd = d.mapUpd := rfl
@[simp] theorem Dev.setSite_sites_now (d : Dev) (die : Nat) (x : Site) : (d.setSite die x).sites = d.sites.put die x := rfl
@[simp] theorem Dev.setSite_alert (d : Dev) (die : Nat) (x : Site) : (d.setSite die x).alert = d.alert := rfl
@[simp] theorem Dev.setSite_tripN (d : Dev) (die : Nat) (x : Site) : (d.setSite die x).tripN = d.tripN := rfl
@[simp] theorem Dev.setSite_irqs (d : Dev) (die : Nat) (x : Site) : (d.setSite die x).irqs = d.irqs := rfl
@[simp] theorem Dev.setSite_lanes (d : Dev) (die : Nat) (x : Site) : (d.setSite die x).lanes = d.lanes := rfl
@[simp] theorem Dev.setSite_ports (d : Dev) (die : Nat) (x : Site) : (d.setSite die x).ports = d.ports := rfl
@[simp] theorem Dev.setSite_eths (d : Dev) (die : Nat) (x : Site) : (d.setSite die x).eths = d.eths := rfl
@[simp] theorem Dev.setSite_qps (d : Dev) (die : Nat) (x : Site) : (d.setSite die x).qps = d.qps := rfl
@[simp] theorem Dev.setSite_mbxIn (d : Dev) (die : Nat) (x : Site) : (d.setSite die x).mbxIn = d.mbxIn := rfl
@[simp] theorem Dev.setSite_stews (d : Dev) (die : Nat) (x : Site) : (d.setSite die x).stews = d.stews := rfl
@[simp] theorem Dev.setSite_parts (d : Dev) (die : Nat) (x : Site) : (d.setSite die x).parts = d.parts := rfl
@[simp] theorem Dev.setSite_wards (d : Dev) (die : Nat) (x : Site) : (d.setSite die x).wards = d.wards := rfl
@[simp] theorem Dev.setSite_pws (d : Dev) (die : Nat) (x : Site) : (d.setSite die x).pws = d.pws := rfl
@[simp] theorem Dev.setSite_chunks (d : Dev) (die : Nat) (x : Site) : (d.setSite die x).chunks = d.chunks := rfl
@[simp] theorem Dev.setSite_i3c (d : Dev) (die : Nat) (x : Site) : (d.setSite die x).i3c = d.i3c := rfl
@[simp] theorem Dev.setSite_i3cOut (d : Dev) (die : Nat) (x : Site) : (d.setSite die x).i3cOut = d.i3cOut := rfl
@[simp] theorem Dev.setSite_flash (d : Dev) (die : Nat) (x : Site) : (d.setSite die x).flash = d.flash := rfl
@[simp] theorem Dev.setSite_read_raw (d : Dev) (die : Nat) (x : Site) (r : RKey) : (d.setSite die x).raw r = d.raw r := rfl
@[simp] theorem Dev.setSite_read_get (d : Dev) (die : Nat) (x : Site) (g : Fld) (die' i' s' : Nat) : (d.setSite die x).get g die' i' s' = d.get g die' i' s' := rfl
@[simp] theorem Dev.setSite_read_coreAt (d : Dev) (die : Nat) (x : Site) (q : Nat) : (d.setSite die x).coreAt q = d.coreAt q := rfl
@[simp] theorem Dev.setSite_read_cellAt (d : Dev) (die : Nat) (x : Site) (q : Nat) : (d.setSite die x).cellAt q = d.cellAt q := rfl
@[simp] theorem Dev.setSite_read_partOf (d : Dev) (die : Nat) (x : Site) (q : Nat) : (d.setSite die x).partOf q = d.partOf q := rfl
@[simp] theorem Dev.setSite_read_tumbler (d : Dev) (die : Nat) (x : Site) (die' j : Nat) : (d.setSite die x).tumbler die' j = d.tumbler die' j := rfl
@[simp] theorem Dev.setSite_read_eng (d : Dev) (die : Nat) (x : Site) (die' e' : Nat) : (d.setSite die x).eng die' e' = d.eng die' e' := rfl
@[simp] theorem Dev.setSite_read_unfAt (d : Dev) (die : Nat) (x : Site) (die' e' : Nat) : (d.setSite die x).unfAt die' e' = d.unfAt die' e' := rfl
@[simp] theorem Dev.setSite_read_dsp (d : Dev) (die : Nat) (x : Site) (q : Nat) : (d.setSite die x).dsp q = d.dsp q := rfl
@[simp] theorem Dev.setSite_read_eth (d : Dev) (die : Nat) (x : Site) (die' e' : Nat) : (d.setSite die x).eth die' e' = d.eth die' e' := rfl
@[simp] theorem Dev.setSite_read_hbmAt (d : Dev) (die : Nat) (x : Site) (die' e' : Nat) : (d.setSite die x).hbmAt die' e' = d.hbmAt die' e' := rfl
@[simp] theorem Dev.setSite_read_flink (d : Dev) (die : Nat) (x : Site) (die' e' : Nat) : (d.setSite die x).flink die' e' = d.flink die' e' := rfl
@[simp] theorem Dev.setSite_read_knk (d : Dev) (die : Nat) (x : Site) (q : Nat) : (d.setSite die x).knk q = d.knk q := rfl
@[simp] theorem Dev.setSite_read_lane (d : Dev) (die : Nat) (x : Site) (die' e' : Nat) : (d.setSite die x).lane die' e' = d.lane die' e' := rfl
@[simp] theorem Dev.setSite_read_port (d : Dev) (die : Nat) (x : Site) (q : Nat) : (d.setSite die x).port q = d.port q := rfl
@[simp] theorem Dev.setSite_read_qp (d : Dev) (die : Nat) (x : Site) (q : Nat) : (d.setSite die x).qp q = d.qp q := rfl
@[simp] theorem Dev.setSite_read_stew (d : Dev) (die : Nat) (x : Site) (q : Nat) : (d.setSite die x).stew q = d.stew q := rfl
@[simp] theorem Dev.setSite_read_ward (d : Dev) (die : Nat) (x : Site) (q : Nat) : (d.setSite die x).ward q = d.ward q := rfl
@[simp] theorem Dev.setSite_read_tick (d : Dev) (die : Nat) (x : Site) (q : Nat) : (d.setSite die x).tick q = d.tick q := rfl
@[simp] theorem Dev.setSite_read_pwOf (d : Dev) (die : Nat) (x : Site) (q : Nat) : (d.setSite die x).pwOf q = d.pwOf q := rfl
@[simp] theorem Dev.setSite_read_aonUp (d : Dev) (die : Nat) (x : Site) (q : Nat) : (d.setSite die x).aonUp q = d.aonUp q := rfl
@[simp] theorem Dev.setSite_site_self (d : Dev) (die : Nat) (x : Site) : (d.setSite die x).site die = x := by
  unfold Dev.setSite Dev.site
  rw [KMap.atD_put, if_pos rfl]

/-! setWard -/

@[simp] theorem Dev.setWard_fuse (d : Dev) (die : Nat) (w : Ward) : (d.setWard die w).fuse = d.fuse := rfl
@[simp] theorem Dev.setWard_pw (d : Dev) (die : Nat) (w : Ward) : (d.setWard die w).pw = d.pw := rfl
@[simp] theorem Dev.setWard_aon (d : Dev) (die : Nat) (w : Ward) : (d.setWard die w).aon = d.aon := rfl
@[simp] theorem Dev.setWard_rf (d : Dev) (die : Nat) (w : Ward) : (d.setWard die w).rf = d.rf := rfl
@[simp] theorem Dev.setWard_capt (d : Dev) (die : Nat) (w : Ward) : (d.setWard die w).capt = d.capt := rfl
@[simp] theorem Dev.setWard_held (d : Dev) (die : Nat) (w : Ward) : (d.setWard die w).held = d.held := rfl
@[simp] theorem Dev.setWard_free (d : Dev) (die : Nat) (w : Ward) : (d.setWard die w).free = d.free := rfl
@[simp] theorem Dev.setWard_mem (d : Dev) (die : Nat) (w : Ward) : (d.setWard die w).mem = d.mem := rfl
@[simp] theorem Dev.setWard_unwritten (d : Dev) (die : Nat) (w : Ward) : (d.setWard die w).unwritten = d.unwritten := rfl
@[simp] theorem Dev.setWard_errs (d : Dev) (die : Nat) (w : Ward) : (d.setWard die w).errs = d.errs := rfl
@[simp] theorem Dev.setWard_lcnt (d : Dev) (die : Nat) (w : Ward) : (d.setWard die w).lcnt = d.lcnt := rfl
@[simp] theorem Dev.setWard_cores (d : Dev) (die : Nat) (w : Ward) : (d.setWard die w).cores = d.cores := rfl
@[simp] theorem Dev.setWard_cells (d : Dev) (die : Nat) (w : Ward) : (d.setWard die w).cells = d.cells := rfl
@[simp] theorem Dev.setWard_cellPart (d : Dev) (die : Nat) (w : Ward) : (d.setWard die w).cellPart = d.cellPart := rfl
@[simp] theorem Dev.setWard_tmb (d : Dev) (die : Nat) (w : Ward) : (d.setWard die w).tmb = d.tmb := rfl
@[simp] theorem Dev.setWard_waits (d : Dev) (die : Nat) (w : Ward) : (d.setWard die w).waits = d.waits := rfl
@[simp] theorem Dev.setWard_swGen (d : Dev) (die : Nat) (w : Ward) : (d.setWard die w).swGen = d.swGen := rfl
@[simp] theorem Dev.setWard_ctl (d : Dev) (die : Nat) (w : Ward) : (d.setWard die w).ctl = d.ctl := rfl
@[simp] theorem Dev.setWard_net (d : Dev) (die : Nat) (w : Ward) : (d.setWard die w).net = d.net := rfl
@[simp] theorem Dev.setWard_sqn (d : Dev) (die : Nat) (w : Ward) : (d.setWard die w).sqn = d.sqn := rfl
@[simp] theorem Dev.setWard_engs (d : Dev) (die : Nat) (w : Ward) : (d.setWard die w).engs = d.engs := rfl
@[simp] theorem Dev.setWard_unfs (d : Dev) (die : Nat) (w : Ward) : (d.setWard die w).unfs = d.unfs := rfl
@[simp] theorem Dev.setWard_dsps (d : Dev) (die : Nat) (w : Ward) : (d.setWard die w).dsps = d.dsps := rfl
@[simp] theorem Dev.setWard_bq (d : Dev) (die : Nat) (w : Ward) : (d.setWard die w).bq = d.bq := rfl
@[simp] theorem Dev.setWard_rdq (d : Dev) (die : Nat) (w : Ward) : (d.setWard die w).rdq = d.rdq := rfl
@[simp] theorem Dev.setWard_wrq (d : Dev) (die : Nat) (w : Ward) : (d.setWard die w).wrq = d.wrq := rfl
@[simp] theorem Dev.setWard_rows (d : Dev) (die : Nat) (w : Ward) : (d.setWard die w).rows = d.rows := rfl
@[simp] theorem Dev.setWard_hbm (d : Dev) (die : Nat) (w : Ward) : (d.setWard die w).hbm = d.hbm := rfl
@[simp] theorem Dev.setWard_narrow (d : Dev) (die : Nat) (w : Ward) : (d.setWard die w).narrow = d.narrow := rfl
@[simp] theorem Dev.setWard_conv (d : Dev) (die : Nat) (w : Ward) : (d.setWard die w).conv = d.conv := rfl
@[simp] theorem Dev.setWard_merge (d : Dev) (die : Nat) (w : Ward) : (d.setWard die w).merge = d.merge := rfl
@[simp] theorem Dev.setWard_scrub (d : Dev) (die : Nat) (w : Ward) : (d.setWard die w).scrub = d.scrub := rfl
@[simp] theorem Dev.setWard_wback (d : Dev) (die : Nat) (w : Ward) : (d.setWard die w).wback = d.wback := rfl
@[simp] theorem Dev.setWard_stest (d : Dev) (die : Nat) (w : Ward) : (d.setWard die w).stest = d.stest := rfl
@[simp] theorem Dev.setWard_zfill (d : Dev) (die : Nat) (w : Ward) : (d.setWard die w).zfill = d.zfill := rfl
@[simp] theorem Dev.setWard_memtest (d : Dev) (die : Nat) (w : Ward) : (d.setWard die w).memtest = d.memtest := rfl
@[simp] theorem Dev.setWard_krg (d : Dev) (die : Nat) (w : Ward) : (d.setWard die w).krg = d.krg := rfl
@[simp] theorem Dev.setWard_krgP (d : Dev) (die : Nat) (w : Ward) : (d.setWard die w).krgP = d.krgP := rfl
@[simp] theorem Dev.setWard_drains (d : Dev) (die : Nat) (w : Ward) : (d.setWard die w).drains = d.drains := rfl
@[simp] theorem Dev.setWard_stwIo (d : Dev) (die : Nat) (w : Ward) : (d.setWard die w).stwIo = d.stwIo := rfl
@[simp] theorem Dev.setWard_flinks (d : Dev) (die : Nat) (w : Ward) : (d.setWard die w).flinks = d.flinks := rfl
@[simp] theorem Dev.setWard_knks (d : Dev) (die : Nat) (w : Ward) : (d.setWard die w).knks = d.knks := rfl
@[simp] theorem Dev.setWard_knkPend (d : Dev) (die : Nat) (w : Ward) : (d.setWard die w).knkPend = d.knkPend := rfl
@[simp] theorem Dev.setWard_mapUpd (d : Dev) (die : Nat) (w : Ward) : (d.setWard die w).mapUpd = d.mapUpd := rfl
@[simp] theorem Dev.setWard_sites (d : Dev) (die : Nat) (w : Ward) : (d.setWard die w).sites = d.sites := rfl
@[simp] theorem Dev.setWard_alert (d : Dev) (die : Nat) (w : Ward) : (d.setWard die w).alert = d.alert := rfl
@[simp] theorem Dev.setWard_tripN (d : Dev) (die : Nat) (w : Ward) : (d.setWard die w).tripN = d.tripN := rfl
@[simp] theorem Dev.setWard_irqs (d : Dev) (die : Nat) (w : Ward) : (d.setWard die w).irqs = d.irqs := rfl
@[simp] theorem Dev.setWard_lanes (d : Dev) (die : Nat) (w : Ward) : (d.setWard die w).lanes = d.lanes := rfl
@[simp] theorem Dev.setWard_ports (d : Dev) (die : Nat) (w : Ward) : (d.setWard die w).ports = d.ports := rfl
@[simp] theorem Dev.setWard_eths (d : Dev) (die : Nat) (w : Ward) : (d.setWard die w).eths = d.eths := rfl
@[simp] theorem Dev.setWard_qps (d : Dev) (die : Nat) (w : Ward) : (d.setWard die w).qps = d.qps := rfl
@[simp] theorem Dev.setWard_mbxIn (d : Dev) (die : Nat) (w : Ward) : (d.setWard die w).mbxIn = d.mbxIn := rfl
@[simp] theorem Dev.setWard_stews (d : Dev) (die : Nat) (w : Ward) : (d.setWard die w).stews = d.stews := rfl
@[simp] theorem Dev.setWard_parts (d : Dev) (die : Nat) (w : Ward) : (d.setWard die w).parts = d.parts := rfl
@[simp] theorem Dev.setWard_wards_now (d : Dev) (die : Nat) (w : Ward) : (d.setWard die w).wards = d.wards.put die w := rfl
@[simp] theorem Dev.setWard_pws (d : Dev) (die : Nat) (w : Ward) : (d.setWard die w).pws = d.pws := rfl
@[simp] theorem Dev.setWard_chunks (d : Dev) (die : Nat) (w : Ward) : (d.setWard die w).chunks = d.chunks := rfl
@[simp] theorem Dev.setWard_i3c (d : Dev) (die : Nat) (w : Ward) : (d.setWard die w).i3c = d.i3c := rfl
@[simp] theorem Dev.setWard_i3cOut (d : Dev) (die : Nat) (w : Ward) : (d.setWard die w).i3cOut = d.i3cOut := rfl
@[simp] theorem Dev.setWard_flash (d : Dev) (die : Nat) (w : Ward) : (d.setWard die w).flash = d.flash := rfl
@[simp] theorem Dev.setWard_read_raw (d : Dev) (die : Nat) (w : Ward) (r : RKey) : (d.setWard die w).raw r = d.raw r := rfl
@[simp] theorem Dev.setWard_read_get (d : Dev) (die : Nat) (w : Ward) (g : Fld) (die' i' s' : Nat) : (d.setWard die w).get g die' i' s' = d.get g die' i' s' := rfl
@[simp] theorem Dev.setWard_read_coreAt (d : Dev) (die : Nat) (w : Ward) (q : Nat) : (d.setWard die w).coreAt q = d.coreAt q := rfl
@[simp] theorem Dev.setWard_read_cellAt (d : Dev) (die : Nat) (w : Ward) (q : Nat) : (d.setWard die w).cellAt q = d.cellAt q := rfl
@[simp] theorem Dev.setWard_read_partOf (d : Dev) (die : Nat) (w : Ward) (q : Nat) : (d.setWard die w).partOf q = d.partOf q := rfl
@[simp] theorem Dev.setWard_read_tumbler (d : Dev) (die : Nat) (w : Ward) (die' j : Nat) : (d.setWard die w).tumbler die' j = d.tumbler die' j := rfl
@[simp] theorem Dev.setWard_read_eng (d : Dev) (die : Nat) (w : Ward) (die' e' : Nat) : (d.setWard die w).eng die' e' = d.eng die' e' := rfl
@[simp] theorem Dev.setWard_read_unfAt (d : Dev) (die : Nat) (w : Ward) (die' e' : Nat) : (d.setWard die w).unfAt die' e' = d.unfAt die' e' := rfl
@[simp] theorem Dev.setWard_read_dsp (d : Dev) (die : Nat) (w : Ward) (q : Nat) : (d.setWard die w).dsp q = d.dsp q := rfl
@[simp] theorem Dev.setWard_read_eth (d : Dev) (die : Nat) (w : Ward) (die' e' : Nat) : (d.setWard die w).eth die' e' = d.eth die' e' := rfl
@[simp] theorem Dev.setWard_read_hbmAt (d : Dev) (die : Nat) (w : Ward) (die' e' : Nat) : (d.setWard die w).hbmAt die' e' = d.hbmAt die' e' := rfl
@[simp] theorem Dev.setWard_read_flink (d : Dev) (die : Nat) (w : Ward) (die' e' : Nat) : (d.setWard die w).flink die' e' = d.flink die' e' := rfl
@[simp] theorem Dev.setWard_read_knk (d : Dev) (die : Nat) (w : Ward) (q : Nat) : (d.setWard die w).knk q = d.knk q := rfl
@[simp] theorem Dev.setWard_read_lane (d : Dev) (die : Nat) (w : Ward) (die' e' : Nat) : (d.setWard die w).lane die' e' = d.lane die' e' := rfl
@[simp] theorem Dev.setWard_read_port (d : Dev) (die : Nat) (w : Ward) (q : Nat) : (d.setWard die w).port q = d.port q := rfl
@[simp] theorem Dev.setWard_read_qp (d : Dev) (die : Nat) (w : Ward) (q : Nat) : (d.setWard die w).qp q = d.qp q := rfl
@[simp] theorem Dev.setWard_read_stew (d : Dev) (die : Nat) (w : Ward) (q : Nat) : (d.setWard die w).stew q = d.stew q := rfl
@[simp] theorem Dev.setWard_read_site (d : Dev) (die : Nat) (w : Ward) (q : Nat) : (d.setWard die w).site q = d.site q := rfl
@[simp] theorem Dev.setWard_read_tick (d : Dev) (die : Nat) (w : Ward) (q : Nat) : (d.setWard die w).tick q = d.tick q := rfl
@[simp] theorem Dev.setWard_read_pwOf (d : Dev) (die : Nat) (w : Ward) (q : Nat) : (d.setWard die w).pwOf q = d.pwOf q := rfl
@[simp] theorem Dev.setWard_read_aonUp (d : Dev) (die : Nat) (w : Ward) (q : Nat) : (d.setWard die w).aonUp q = d.aonUp q := rfl
@[simp] theorem Dev.setWard_ward_self (d : Dev) (die : Nat) (w : Ward) : (d.setWard die w).ward die = w := by
  unfold Dev.setWard Dev.ward
  rw [KMap.atD_put, if_pos rfl]

/-! setPw -/

@[simp] theorem Dev.setPw_fuse (d : Dev) (die : Nat) (x : PwSt) : (d.setPw die x).fuse = d.fuse := rfl
@[simp] theorem Dev.setPw_pw (d : Dev) (die : Nat) (x : PwSt) : (d.setPw die x).pw = d.pw := rfl
@[simp] theorem Dev.setPw_aon (d : Dev) (die : Nat) (x : PwSt) : (d.setPw die x).aon = d.aon := rfl
@[simp] theorem Dev.setPw_rf (d : Dev) (die : Nat) (x : PwSt) : (d.setPw die x).rf = d.rf := rfl
@[simp] theorem Dev.setPw_capt (d : Dev) (die : Nat) (x : PwSt) : (d.setPw die x).capt = d.capt := rfl
@[simp] theorem Dev.setPw_held (d : Dev) (die : Nat) (x : PwSt) : (d.setPw die x).held = d.held := rfl
@[simp] theorem Dev.setPw_free (d : Dev) (die : Nat) (x : PwSt) : (d.setPw die x).free = d.free := rfl
@[simp] theorem Dev.setPw_mem (d : Dev) (die : Nat) (x : PwSt) : (d.setPw die x).mem = d.mem := rfl
@[simp] theorem Dev.setPw_unwritten (d : Dev) (die : Nat) (x : PwSt) : (d.setPw die x).unwritten = d.unwritten := rfl
@[simp] theorem Dev.setPw_errs (d : Dev) (die : Nat) (x : PwSt) : (d.setPw die x).errs = d.errs := rfl
@[simp] theorem Dev.setPw_lcnt (d : Dev) (die : Nat) (x : PwSt) : (d.setPw die x).lcnt = d.lcnt := rfl
@[simp] theorem Dev.setPw_cores (d : Dev) (die : Nat) (x : PwSt) : (d.setPw die x).cores = d.cores := rfl
@[simp] theorem Dev.setPw_cells (d : Dev) (die : Nat) (x : PwSt) : (d.setPw die x).cells = d.cells := rfl
@[simp] theorem Dev.setPw_cellPart (d : Dev) (die : Nat) (x : PwSt) : (d.setPw die x).cellPart = d.cellPart := rfl
@[simp] theorem Dev.setPw_tmb (d : Dev) (die : Nat) (x : PwSt) : (d.setPw die x).tmb = d.tmb := rfl
@[simp] theorem Dev.setPw_waits (d : Dev) (die : Nat) (x : PwSt) : (d.setPw die x).waits = d.waits := rfl
@[simp] theorem Dev.setPw_swGen (d : Dev) (die : Nat) (x : PwSt) : (d.setPw die x).swGen = d.swGen := rfl
@[simp] theorem Dev.setPw_ctl (d : Dev) (die : Nat) (x : PwSt) : (d.setPw die x).ctl = d.ctl := rfl
@[simp] theorem Dev.setPw_net (d : Dev) (die : Nat) (x : PwSt) : (d.setPw die x).net = d.net := rfl
@[simp] theorem Dev.setPw_sqn (d : Dev) (die : Nat) (x : PwSt) : (d.setPw die x).sqn = d.sqn := rfl
@[simp] theorem Dev.setPw_engs (d : Dev) (die : Nat) (x : PwSt) : (d.setPw die x).engs = d.engs := rfl
@[simp] theorem Dev.setPw_unfs (d : Dev) (die : Nat) (x : PwSt) : (d.setPw die x).unfs = d.unfs := rfl
@[simp] theorem Dev.setPw_dsps (d : Dev) (die : Nat) (x : PwSt) : (d.setPw die x).dsps = d.dsps := rfl
@[simp] theorem Dev.setPw_bq (d : Dev) (die : Nat) (x : PwSt) : (d.setPw die x).bq = d.bq := rfl
@[simp] theorem Dev.setPw_rdq (d : Dev) (die : Nat) (x : PwSt) : (d.setPw die x).rdq = d.rdq := rfl
@[simp] theorem Dev.setPw_wrq (d : Dev) (die : Nat) (x : PwSt) : (d.setPw die x).wrq = d.wrq := rfl
@[simp] theorem Dev.setPw_rows (d : Dev) (die : Nat) (x : PwSt) : (d.setPw die x).rows = d.rows := rfl
@[simp] theorem Dev.setPw_hbm (d : Dev) (die : Nat) (x : PwSt) : (d.setPw die x).hbm = d.hbm := rfl
@[simp] theorem Dev.setPw_narrow (d : Dev) (die : Nat) (x : PwSt) : (d.setPw die x).narrow = d.narrow := rfl
@[simp] theorem Dev.setPw_conv (d : Dev) (die : Nat) (x : PwSt) : (d.setPw die x).conv = d.conv := rfl
@[simp] theorem Dev.setPw_merge (d : Dev) (die : Nat) (x : PwSt) : (d.setPw die x).merge = d.merge := rfl
@[simp] theorem Dev.setPw_scrub (d : Dev) (die : Nat) (x : PwSt) : (d.setPw die x).scrub = d.scrub := rfl
@[simp] theorem Dev.setPw_wback (d : Dev) (die : Nat) (x : PwSt) : (d.setPw die x).wback = d.wback := rfl
@[simp] theorem Dev.setPw_stest (d : Dev) (die : Nat) (x : PwSt) : (d.setPw die x).stest = d.stest := rfl
@[simp] theorem Dev.setPw_zfill (d : Dev) (die : Nat) (x : PwSt) : (d.setPw die x).zfill = d.zfill := rfl
@[simp] theorem Dev.setPw_memtest (d : Dev) (die : Nat) (x : PwSt) : (d.setPw die x).memtest = d.memtest := rfl
@[simp] theorem Dev.setPw_krg (d : Dev) (die : Nat) (x : PwSt) : (d.setPw die x).krg = d.krg := rfl
@[simp] theorem Dev.setPw_krgP (d : Dev) (die : Nat) (x : PwSt) : (d.setPw die x).krgP = d.krgP := rfl
@[simp] theorem Dev.setPw_drains (d : Dev) (die : Nat) (x : PwSt) : (d.setPw die x).drains = d.drains := rfl
@[simp] theorem Dev.setPw_stwIo (d : Dev) (die : Nat) (x : PwSt) : (d.setPw die x).stwIo = d.stwIo := rfl
@[simp] theorem Dev.setPw_flinks (d : Dev) (die : Nat) (x : PwSt) : (d.setPw die x).flinks = d.flinks := rfl
@[simp] theorem Dev.setPw_knks (d : Dev) (die : Nat) (x : PwSt) : (d.setPw die x).knks = d.knks := rfl
@[simp] theorem Dev.setPw_knkPend (d : Dev) (die : Nat) (x : PwSt) : (d.setPw die x).knkPend = d.knkPend := rfl
@[simp] theorem Dev.setPw_mapUpd (d : Dev) (die : Nat) (x : PwSt) : (d.setPw die x).mapUpd = d.mapUpd := rfl
@[simp] theorem Dev.setPw_sites (d : Dev) (die : Nat) (x : PwSt) : (d.setPw die x).sites = d.sites := rfl
@[simp] theorem Dev.setPw_alert (d : Dev) (die : Nat) (x : PwSt) : (d.setPw die x).alert = d.alert := rfl
@[simp] theorem Dev.setPw_tripN (d : Dev) (die : Nat) (x : PwSt) : (d.setPw die x).tripN = d.tripN := rfl
@[simp] theorem Dev.setPw_irqs (d : Dev) (die : Nat) (x : PwSt) : (d.setPw die x).irqs = d.irqs := rfl
@[simp] theorem Dev.setPw_lanes (d : Dev) (die : Nat) (x : PwSt) : (d.setPw die x).lanes = d.lanes := rfl
@[simp] theorem Dev.setPw_ports (d : Dev) (die : Nat) (x : PwSt) : (d.setPw die x).ports = d.ports := rfl
@[simp] theorem Dev.setPw_eths (d : Dev) (die : Nat) (x : PwSt) : (d.setPw die x).eths = d.eths := rfl
@[simp] theorem Dev.setPw_qps (d : Dev) (die : Nat) (x : PwSt) : (d.setPw die x).qps = d.qps := rfl
@[simp] theorem Dev.setPw_mbxIn (d : Dev) (die : Nat) (x : PwSt) : (d.setPw die x).mbxIn = d.mbxIn := rfl
@[simp] theorem Dev.setPw_stews (d : Dev) (die : Nat) (x : PwSt) : (d.setPw die x).stews = d.stews := rfl
@[simp] theorem Dev.setPw_parts (d : Dev) (die : Nat) (x : PwSt) : (d.setPw die x).parts = d.parts := rfl
@[simp] theorem Dev.setPw_wards (d : Dev) (die : Nat) (x : PwSt) : (d.setPw die x).wards = d.wards := rfl
@[simp] theorem Dev.setPw_pws_now (d : Dev) (die : Nat) (x : PwSt) : (d.setPw die x).pws = d.pws.put die x := rfl
@[simp] theorem Dev.setPw_chunks (d : Dev) (die : Nat) (x : PwSt) : (d.setPw die x).chunks = d.chunks := rfl
@[simp] theorem Dev.setPw_i3c (d : Dev) (die : Nat) (x : PwSt) : (d.setPw die x).i3c = d.i3c := rfl
@[simp] theorem Dev.setPw_i3cOut (d : Dev) (die : Nat) (x : PwSt) : (d.setPw die x).i3cOut = d.i3cOut := rfl
@[simp] theorem Dev.setPw_flash (d : Dev) (die : Nat) (x : PwSt) : (d.setPw die x).flash = d.flash := rfl
@[simp] theorem Dev.setPw_read_raw (d : Dev) (die : Nat) (x : PwSt) (r : RKey) : (d.setPw die x).raw r = d.raw r := rfl
@[simp] theorem Dev.setPw_read_get (d : Dev) (die : Nat) (x : PwSt) (g : Fld) (die' i' s' : Nat) : (d.setPw die x).get g die' i' s' = d.get g die' i' s' := rfl
@[simp] theorem Dev.setPw_read_coreAt (d : Dev) (die : Nat) (x : PwSt) (q : Nat) : (d.setPw die x).coreAt q = d.coreAt q := rfl
@[simp] theorem Dev.setPw_read_cellAt (d : Dev) (die : Nat) (x : PwSt) (q : Nat) : (d.setPw die x).cellAt q = d.cellAt q := rfl
@[simp] theorem Dev.setPw_read_partOf (d : Dev) (die : Nat) (x : PwSt) (q : Nat) : (d.setPw die x).partOf q = d.partOf q := rfl
@[simp] theorem Dev.setPw_read_tumbler (d : Dev) (die : Nat) (x : PwSt) (die' j : Nat) : (d.setPw die x).tumbler die' j = d.tumbler die' j := rfl
@[simp] theorem Dev.setPw_read_eng (d : Dev) (die : Nat) (x : PwSt) (die' e' : Nat) : (d.setPw die x).eng die' e' = d.eng die' e' := rfl
@[simp] theorem Dev.setPw_read_unfAt (d : Dev) (die : Nat) (x : PwSt) (die' e' : Nat) : (d.setPw die x).unfAt die' e' = d.unfAt die' e' := rfl
@[simp] theorem Dev.setPw_read_dsp (d : Dev) (die : Nat) (x : PwSt) (q : Nat) : (d.setPw die x).dsp q = d.dsp q := rfl
@[simp] theorem Dev.setPw_read_eth (d : Dev) (die : Nat) (x : PwSt) (die' e' : Nat) : (d.setPw die x).eth die' e' = d.eth die' e' := rfl
@[simp] theorem Dev.setPw_read_hbmAt (d : Dev) (die : Nat) (x : PwSt) (die' e' : Nat) : (d.setPw die x).hbmAt die' e' = d.hbmAt die' e' := rfl
@[simp] theorem Dev.setPw_read_flink (d : Dev) (die : Nat) (x : PwSt) (die' e' : Nat) : (d.setPw die x).flink die' e' = d.flink die' e' := rfl
@[simp] theorem Dev.setPw_read_knk (d : Dev) (die : Nat) (x : PwSt) (q : Nat) : (d.setPw die x).knk q = d.knk q := rfl
@[simp] theorem Dev.setPw_read_lane (d : Dev) (die : Nat) (x : PwSt) (die' e' : Nat) : (d.setPw die x).lane die' e' = d.lane die' e' := rfl
@[simp] theorem Dev.setPw_read_port (d : Dev) (die : Nat) (x : PwSt) (q : Nat) : (d.setPw die x).port q = d.port q := rfl
@[simp] theorem Dev.setPw_read_qp (d : Dev) (die : Nat) (x : PwSt) (q : Nat) : (d.setPw die x).qp q = d.qp q := rfl
@[simp] theorem Dev.setPw_read_stew (d : Dev) (die : Nat) (x : PwSt) (q : Nat) : (d.setPw die x).stew q = d.stew q := rfl
@[simp] theorem Dev.setPw_read_site (d : Dev) (die : Nat) (x : PwSt) (q : Nat) : (d.setPw die x).site q = d.site q := rfl
@[simp] theorem Dev.setPw_read_ward (d : Dev) (die : Nat) (x : PwSt) (q : Nat) : (d.setPw die x).ward q = d.ward q := rfl
@[simp] theorem Dev.setPw_read_tick (d : Dev) (die : Nat) (x : PwSt) (q : Nat) : (d.setPw die x).tick q = d.tick q := rfl
@[simp] theorem Dev.setPw_read_pwOf (d : Dev) (die : Nat) (x : PwSt) (q : Nat) : (d.setPw die x).pwOf q = d.pwOf q := rfl
@[simp] theorem Dev.setPw_read_aonUp (d : Dev) (die : Nat) (x : PwSt) (q : Nat) : (d.setPw die x).aonUp q = d.aonUp q := rfl

/-! flags -/

@[simp] theorem Dev.flags_fuse (d : Dev) (die : Nat) (x : DiePw) : (d.flags die x).fuse = d.fuse := rfl
@[simp] theorem Dev.flags_pw_now (d : Dev) (die : Nat) (x : DiePw) : (d.flags die x).pw = d.pw.set die x := rfl
@[simp] theorem Dev.flags_aon (d : Dev) (die : Nat) (x : DiePw) : (d.flags die x).aon = d.aon := rfl
@[simp] theorem Dev.flags_rf (d : Dev) (die : Nat) (x : DiePw) : (d.flags die x).rf = d.rf := rfl
@[simp] theorem Dev.flags_capt (d : Dev) (die : Nat) (x : DiePw) : (d.flags die x).capt = d.capt := rfl
@[simp] theorem Dev.flags_held (d : Dev) (die : Nat) (x : DiePw) : (d.flags die x).held = d.held := rfl
@[simp] theorem Dev.flags_free (d : Dev) (die : Nat) (x : DiePw) : (d.flags die x).free = d.free := rfl
@[simp] theorem Dev.flags_mem (d : Dev) (die : Nat) (x : DiePw) : (d.flags die x).mem = d.mem := rfl
@[simp] theorem Dev.flags_unwritten (d : Dev) (die : Nat) (x : DiePw) : (d.flags die x).unwritten = d.unwritten := rfl
@[simp] theorem Dev.flags_errs (d : Dev) (die : Nat) (x : DiePw) : (d.flags die x).errs = d.errs := rfl
@[simp] theorem Dev.flags_lcnt (d : Dev) (die : Nat) (x : DiePw) : (d.flags die x).lcnt = d.lcnt := rfl
@[simp] theorem Dev.flags_cores (d : Dev) (die : Nat) (x : DiePw) : (d.flags die x).cores = d.cores := rfl
@[simp] theorem Dev.flags_cells (d : Dev) (die : Nat) (x : DiePw) : (d.flags die x).cells = d.cells := rfl
@[simp] theorem Dev.flags_cellPart (d : Dev) (die : Nat) (x : DiePw) : (d.flags die x).cellPart = d.cellPart := rfl
@[simp] theorem Dev.flags_tmb (d : Dev) (die : Nat) (x : DiePw) : (d.flags die x).tmb = d.tmb := rfl
@[simp] theorem Dev.flags_waits (d : Dev) (die : Nat) (x : DiePw) : (d.flags die x).waits = d.waits := rfl
@[simp] theorem Dev.flags_swGen (d : Dev) (die : Nat) (x : DiePw) : (d.flags die x).swGen = d.swGen := rfl
@[simp] theorem Dev.flags_ctl (d : Dev) (die : Nat) (x : DiePw) : (d.flags die x).ctl = d.ctl := rfl
@[simp] theorem Dev.flags_net (d : Dev) (die : Nat) (x : DiePw) : (d.flags die x).net = d.net := rfl
@[simp] theorem Dev.flags_sqn (d : Dev) (die : Nat) (x : DiePw) : (d.flags die x).sqn = d.sqn := rfl
@[simp] theorem Dev.flags_engs (d : Dev) (die : Nat) (x : DiePw) : (d.flags die x).engs = d.engs := rfl
@[simp] theorem Dev.flags_unfs (d : Dev) (die : Nat) (x : DiePw) : (d.flags die x).unfs = d.unfs := rfl
@[simp] theorem Dev.flags_dsps (d : Dev) (die : Nat) (x : DiePw) : (d.flags die x).dsps = d.dsps := rfl
@[simp] theorem Dev.flags_bq (d : Dev) (die : Nat) (x : DiePw) : (d.flags die x).bq = d.bq := rfl
@[simp] theorem Dev.flags_rdq (d : Dev) (die : Nat) (x : DiePw) : (d.flags die x).rdq = d.rdq := rfl
@[simp] theorem Dev.flags_wrq (d : Dev) (die : Nat) (x : DiePw) : (d.flags die x).wrq = d.wrq := rfl
@[simp] theorem Dev.flags_rows (d : Dev) (die : Nat) (x : DiePw) : (d.flags die x).rows = d.rows := rfl
@[simp] theorem Dev.flags_hbm (d : Dev) (die : Nat) (x : DiePw) : (d.flags die x).hbm = d.hbm := rfl
@[simp] theorem Dev.flags_narrow (d : Dev) (die : Nat) (x : DiePw) : (d.flags die x).narrow = d.narrow := rfl
@[simp] theorem Dev.flags_conv (d : Dev) (die : Nat) (x : DiePw) : (d.flags die x).conv = d.conv := rfl
@[simp] theorem Dev.flags_merge (d : Dev) (die : Nat) (x : DiePw) : (d.flags die x).merge = d.merge := rfl
@[simp] theorem Dev.flags_scrub (d : Dev) (die : Nat) (x : DiePw) : (d.flags die x).scrub = d.scrub := rfl
@[simp] theorem Dev.flags_wback (d : Dev) (die : Nat) (x : DiePw) : (d.flags die x).wback = d.wback := rfl
@[simp] theorem Dev.flags_stest (d : Dev) (die : Nat) (x : DiePw) : (d.flags die x).stest = d.stest := rfl
@[simp] theorem Dev.flags_zfill (d : Dev) (die : Nat) (x : DiePw) : (d.flags die x).zfill = d.zfill := rfl
@[simp] theorem Dev.flags_memtest (d : Dev) (die : Nat) (x : DiePw) : (d.flags die x).memtest = d.memtest := rfl
@[simp] theorem Dev.flags_krg (d : Dev) (die : Nat) (x : DiePw) : (d.flags die x).krg = d.krg := rfl
@[simp] theorem Dev.flags_krgP (d : Dev) (die : Nat) (x : DiePw) : (d.flags die x).krgP = d.krgP := rfl
@[simp] theorem Dev.flags_drains (d : Dev) (die : Nat) (x : DiePw) : (d.flags die x).drains = d.drains := rfl
@[simp] theorem Dev.flags_stwIo (d : Dev) (die : Nat) (x : DiePw) : (d.flags die x).stwIo = d.stwIo := rfl
@[simp] theorem Dev.flags_flinks (d : Dev) (die : Nat) (x : DiePw) : (d.flags die x).flinks = d.flinks := rfl
@[simp] theorem Dev.flags_knks (d : Dev) (die : Nat) (x : DiePw) : (d.flags die x).knks = d.knks := rfl
@[simp] theorem Dev.flags_knkPend (d : Dev) (die : Nat) (x : DiePw) : (d.flags die x).knkPend = d.knkPend := rfl
@[simp] theorem Dev.flags_mapUpd (d : Dev) (die : Nat) (x : DiePw) : (d.flags die x).mapUpd = d.mapUpd := rfl
@[simp] theorem Dev.flags_sites (d : Dev) (die : Nat) (x : DiePw) : (d.flags die x).sites = d.sites := rfl
@[simp] theorem Dev.flags_alert (d : Dev) (die : Nat) (x : DiePw) : (d.flags die x).alert = d.alert := rfl
@[simp] theorem Dev.flags_tripN (d : Dev) (die : Nat) (x : DiePw) : (d.flags die x).tripN = d.tripN := rfl
@[simp] theorem Dev.flags_irqs (d : Dev) (die : Nat) (x : DiePw) : (d.flags die x).irqs = d.irqs := rfl
@[simp] theorem Dev.flags_lanes (d : Dev) (die : Nat) (x : DiePw) : (d.flags die x).lanes = d.lanes := rfl
@[simp] theorem Dev.flags_ports (d : Dev) (die : Nat) (x : DiePw) : (d.flags die x).ports = d.ports := rfl
@[simp] theorem Dev.flags_eths (d : Dev) (die : Nat) (x : DiePw) : (d.flags die x).eths = d.eths := rfl
@[simp] theorem Dev.flags_qps (d : Dev) (die : Nat) (x : DiePw) : (d.flags die x).qps = d.qps := rfl
@[simp] theorem Dev.flags_mbxIn (d : Dev) (die : Nat) (x : DiePw) : (d.flags die x).mbxIn = d.mbxIn := rfl
@[simp] theorem Dev.flags_stews (d : Dev) (die : Nat) (x : DiePw) : (d.flags die x).stews = d.stews := rfl
@[simp] theorem Dev.flags_parts (d : Dev) (die : Nat) (x : DiePw) : (d.flags die x).parts = d.parts := rfl
@[simp] theorem Dev.flags_wards (d : Dev) (die : Nat) (x : DiePw) : (d.flags die x).wards = d.wards := rfl
@[simp] theorem Dev.flags_pws (d : Dev) (die : Nat) (x : DiePw) : (d.flags die x).pws = d.pws := rfl
@[simp] theorem Dev.flags_chunks (d : Dev) (die : Nat) (x : DiePw) : (d.flags die x).chunks = d.chunks := rfl
@[simp] theorem Dev.flags_i3c (d : Dev) (die : Nat) (x : DiePw) : (d.flags die x).i3c = d.i3c := rfl
@[simp] theorem Dev.flags_i3cOut (d : Dev) (die : Nat) (x : DiePw) : (d.flags die x).i3cOut = d.i3cOut := rfl
@[simp] theorem Dev.flags_flash (d : Dev) (die : Nat) (x : DiePw) : (d.flags die x).flash = d.flash := rfl
@[simp] theorem Dev.flags_read_raw (d : Dev) (die : Nat) (x : DiePw) (r : RKey) : (d.flags die x).raw r = d.raw r := rfl
@[simp] theorem Dev.flags_read_get (d : Dev) (die : Nat) (x : DiePw) (g : Fld) (die' i' s' : Nat) : (d.flags die x).get g die' i' s' = d.get g die' i' s' := rfl
@[simp] theorem Dev.flags_read_coreAt (d : Dev) (die : Nat) (x : DiePw) (q : Nat) : (d.flags die x).coreAt q = d.coreAt q := rfl
@[simp] theorem Dev.flags_read_cellAt (d : Dev) (die : Nat) (x : DiePw) (q : Nat) : (d.flags die x).cellAt q = d.cellAt q := rfl
@[simp] theorem Dev.flags_read_partOf (d : Dev) (die : Nat) (x : DiePw) (q : Nat) : (d.flags die x).partOf q = d.partOf q := rfl
@[simp] theorem Dev.flags_read_tumbler (d : Dev) (die : Nat) (x : DiePw) (die' j : Nat) : (d.flags die x).tumbler die' j = d.tumbler die' j := rfl
@[simp] theorem Dev.flags_read_eng (d : Dev) (die : Nat) (x : DiePw) (die' e' : Nat) : (d.flags die x).eng die' e' = d.eng die' e' := rfl
@[simp] theorem Dev.flags_read_unfAt (d : Dev) (die : Nat) (x : DiePw) (die' e' : Nat) : (d.flags die x).unfAt die' e' = d.unfAt die' e' := rfl
@[simp] theorem Dev.flags_read_dsp (d : Dev) (die : Nat) (x : DiePw) (q : Nat) : (d.flags die x).dsp q = d.dsp q := rfl
@[simp] theorem Dev.flags_read_eth (d : Dev) (die : Nat) (x : DiePw) (die' e' : Nat) : (d.flags die x).eth die' e' = d.eth die' e' := rfl
@[simp] theorem Dev.flags_read_hbmAt (d : Dev) (die : Nat) (x : DiePw) (die' e' : Nat) : (d.flags die x).hbmAt die' e' = d.hbmAt die' e' := rfl
@[simp] theorem Dev.flags_read_flink (d : Dev) (die : Nat) (x : DiePw) (die' e' : Nat) : (d.flags die x).flink die' e' = d.flink die' e' := rfl
@[simp] theorem Dev.flags_read_knk (d : Dev) (die : Nat) (x : DiePw) (q : Nat) : (d.flags die x).knk q = d.knk q := rfl
@[simp] theorem Dev.flags_read_lane (d : Dev) (die : Nat) (x : DiePw) (die' e' : Nat) : (d.flags die x).lane die' e' = d.lane die' e' := rfl
@[simp] theorem Dev.flags_read_port (d : Dev) (die : Nat) (x : DiePw) (q : Nat) : (d.flags die x).port q = d.port q := rfl
@[simp] theorem Dev.flags_read_qp (d : Dev) (die : Nat) (x : DiePw) (q : Nat) : (d.flags die x).qp q = d.qp q := rfl
@[simp] theorem Dev.flags_read_stew (d : Dev) (die : Nat) (x : DiePw) (q : Nat) : (d.flags die x).stew q = d.stew q := rfl
@[simp] theorem Dev.flags_read_site (d : Dev) (die : Nat) (x : DiePw) (q : Nat) : (d.flags die x).site q = d.site q := rfl
@[simp] theorem Dev.flags_read_ward (d : Dev) (die : Nat) (x : DiePw) (q : Nat) : (d.flags die x).ward q = d.ward q := rfl
@[simp] theorem Dev.flags_read_tick (d : Dev) (die : Nat) (x : DiePw) (q : Nat) : (d.flags die x).tick q = d.tick q := rfl
@[simp] theorem Dev.flags_read_aonUp (d : Dev) (die : Nat) (x : DiePw) (q : Nat) : (d.flags die x).aonUp q = d.aonUp q := rfl

/-! markUnit -/

@[simp] theorem Dev.markUnit_fuse (d : Dev) (a m : Nat) : (d.markUnit a m).fuse = d.fuse := rfl
@[simp] theorem Dev.markUnit_pw (d : Dev) (a m : Nat) : (d.markUnit a m).pw = d.pw := rfl
@[simp] theorem Dev.markUnit_aon (d : Dev) (a m : Nat) : (d.markUnit a m).aon = d.aon := rfl
@[simp] theorem Dev.markUnit_rf (d : Dev) (a m : Nat) : (d.markUnit a m).rf = d.rf := rfl
@[simp] theorem Dev.markUnit_capt (d : Dev) (a m : Nat) : (d.markUnit a m).capt = d.capt := rfl
@[simp] theorem Dev.markUnit_held (d : Dev) (a m : Nat) : (d.markUnit a m).held = d.held := rfl
@[simp] theorem Dev.markUnit_free (d : Dev) (a m : Nat) : (d.markUnit a m).free = d.free := rfl
@[simp] theorem Dev.markUnit_mem (d : Dev) (a m : Nat) : (d.markUnit a m).mem = d.mem := rfl
@[simp] theorem Dev.markUnit_unwritten (d : Dev) (a m : Nat) : (d.markUnit a m).unwritten = d.unwritten := rfl
@[simp] theorem Dev.markUnit_errs_now (d : Dev) (a m : Nat) : (d.markUnit a m).errs = d.errs.put a m := rfl
@[simp] theorem Dev.markUnit_lcnt (d : Dev) (a m : Nat) : (d.markUnit a m).lcnt = d.lcnt := rfl
@[simp] theorem Dev.markUnit_cores (d : Dev) (a m : Nat) : (d.markUnit a m).cores = d.cores := rfl
@[simp] theorem Dev.markUnit_cells (d : Dev) (a m : Nat) : (d.markUnit a m).cells = d.cells := rfl
@[simp] theorem Dev.markUnit_cellPart (d : Dev) (a m : Nat) : (d.markUnit a m).cellPart = d.cellPart := rfl
@[simp] theorem Dev.markUnit_tmb (d : Dev) (a m : Nat) : (d.markUnit a m).tmb = d.tmb := rfl
@[simp] theorem Dev.markUnit_waits (d : Dev) (a m : Nat) : (d.markUnit a m).waits = d.waits := rfl
@[simp] theorem Dev.markUnit_swGen (d : Dev) (a m : Nat) : (d.markUnit a m).swGen = d.swGen := rfl
@[simp] theorem Dev.markUnit_ctl (d : Dev) (a m : Nat) : (d.markUnit a m).ctl = d.ctl := rfl
@[simp] theorem Dev.markUnit_net (d : Dev) (a m : Nat) : (d.markUnit a m).net = d.net := rfl
@[simp] theorem Dev.markUnit_sqn (d : Dev) (a m : Nat) : (d.markUnit a m).sqn = d.sqn := rfl
@[simp] theorem Dev.markUnit_engs (d : Dev) (a m : Nat) : (d.markUnit a m).engs = d.engs := rfl
@[simp] theorem Dev.markUnit_unfs (d : Dev) (a m : Nat) : (d.markUnit a m).unfs = d.unfs := rfl
@[simp] theorem Dev.markUnit_dsps (d : Dev) (a m : Nat) : (d.markUnit a m).dsps = d.dsps := rfl
@[simp] theorem Dev.markUnit_bq (d : Dev) (a m : Nat) : (d.markUnit a m).bq = d.bq := rfl
@[simp] theorem Dev.markUnit_rdq (d : Dev) (a m : Nat) : (d.markUnit a m).rdq = d.rdq := rfl
@[simp] theorem Dev.markUnit_wrq (d : Dev) (a m : Nat) : (d.markUnit a m).wrq = d.wrq := rfl
@[simp] theorem Dev.markUnit_rows (d : Dev) (a m : Nat) : (d.markUnit a m).rows = d.rows := rfl
@[simp] theorem Dev.markUnit_hbm (d : Dev) (a m : Nat) : (d.markUnit a m).hbm = d.hbm := rfl
@[simp] theorem Dev.markUnit_narrow (d : Dev) (a m : Nat) : (d.markUnit a m).narrow = d.narrow := rfl
@[simp] theorem Dev.markUnit_conv (d : Dev) (a m : Nat) : (d.markUnit a m).conv = d.conv := rfl
@[simp] theorem Dev.markUnit_merge (d : Dev) (a m : Nat) : (d.markUnit a m).merge = d.merge := rfl
@[simp] theorem Dev.markUnit_scrub (d : Dev) (a m : Nat) : (d.markUnit a m).scrub = d.scrub := rfl
@[simp] theorem Dev.markUnit_wback (d : Dev) (a m : Nat) : (d.markUnit a m).wback = d.wback := rfl
@[simp] theorem Dev.markUnit_stest (d : Dev) (a m : Nat) : (d.markUnit a m).stest = d.stest := rfl
@[simp] theorem Dev.markUnit_zfill (d : Dev) (a m : Nat) : (d.markUnit a m).zfill = d.zfill := rfl
@[simp] theorem Dev.markUnit_memtest (d : Dev) (a m : Nat) : (d.markUnit a m).memtest = d.memtest := rfl
@[simp] theorem Dev.markUnit_krg (d : Dev) (a m : Nat) : (d.markUnit a m).krg = d.krg := rfl
@[simp] theorem Dev.markUnit_krgP (d : Dev) (a m : Nat) : (d.markUnit a m).krgP = d.krgP := rfl
@[simp] theorem Dev.markUnit_drains (d : Dev) (a m : Nat) : (d.markUnit a m).drains = d.drains := rfl
@[simp] theorem Dev.markUnit_stwIo (d : Dev) (a m : Nat) : (d.markUnit a m).stwIo = d.stwIo := rfl
@[simp] theorem Dev.markUnit_flinks (d : Dev) (a m : Nat) : (d.markUnit a m).flinks = d.flinks := rfl
@[simp] theorem Dev.markUnit_knks (d : Dev) (a m : Nat) : (d.markUnit a m).knks = d.knks := rfl
@[simp] theorem Dev.markUnit_knkPend (d : Dev) (a m : Nat) : (d.markUnit a m).knkPend = d.knkPend := rfl
@[simp] theorem Dev.markUnit_mapUpd (d : Dev) (a m : Nat) : (d.markUnit a m).mapUpd = d.mapUpd := rfl
@[simp] theorem Dev.markUnit_sites (d : Dev) (a m : Nat) : (d.markUnit a m).sites = d.sites := rfl
@[simp] theorem Dev.markUnit_alert (d : Dev) (a m : Nat) : (d.markUnit a m).alert = d.alert := rfl
@[simp] theorem Dev.markUnit_tripN (d : Dev) (a m : Nat) : (d.markUnit a m).tripN = d.tripN := rfl
@[simp] theorem Dev.markUnit_irqs (d : Dev) (a m : Nat) : (d.markUnit a m).irqs = d.irqs := rfl
@[simp] theorem Dev.markUnit_lanes (d : Dev) (a m : Nat) : (d.markUnit a m).lanes = d.lanes := rfl
@[simp] theorem Dev.markUnit_ports (d : Dev) (a m : Nat) : (d.markUnit a m).ports = d.ports := rfl
@[simp] theorem Dev.markUnit_eths (d : Dev) (a m : Nat) : (d.markUnit a m).eths = d.eths := rfl
@[simp] theorem Dev.markUnit_qps (d : Dev) (a m : Nat) : (d.markUnit a m).qps = d.qps := rfl
@[simp] theorem Dev.markUnit_mbxIn (d : Dev) (a m : Nat) : (d.markUnit a m).mbxIn = d.mbxIn := rfl
@[simp] theorem Dev.markUnit_stews (d : Dev) (a m : Nat) : (d.markUnit a m).stews = d.stews := rfl
@[simp] theorem Dev.markUnit_parts (d : Dev) (a m : Nat) : (d.markUnit a m).parts = d.parts := rfl
@[simp] theorem Dev.markUnit_wards (d : Dev) (a m : Nat) : (d.markUnit a m).wards = d.wards := rfl
@[simp] theorem Dev.markUnit_pws (d : Dev) (a m : Nat) : (d.markUnit a m).pws = d.pws := rfl
@[simp] theorem Dev.markUnit_chunks (d : Dev) (a m : Nat) : (d.markUnit a m).chunks = d.chunks := rfl
@[simp] theorem Dev.markUnit_i3c (d : Dev) (a m : Nat) : (d.markUnit a m).i3c = d.i3c := rfl
@[simp] theorem Dev.markUnit_i3cOut (d : Dev) (a m : Nat) : (d.markUnit a m).i3cOut = d.i3cOut := rfl
@[simp] theorem Dev.markUnit_flash (d : Dev) (a m : Nat) : (d.markUnit a m).flash = d.flash := rfl
@[simp] theorem Dev.markUnit_read_raw (d : Dev) (a m : Nat) (r : RKey) : (d.markUnit a m).raw r = d.raw r := rfl
@[simp] theorem Dev.markUnit_read_get (d : Dev) (a m : Nat) (g : Fld) (die' i' s' : Nat) : (d.markUnit a m).get g die' i' s' = d.get g die' i' s' := rfl
@[simp] theorem Dev.markUnit_read_coreAt (d : Dev) (a m : Nat) (q : Nat) : (d.markUnit a m).coreAt q = d.coreAt q := rfl
@[simp] theorem Dev.markUnit_read_cellAt (d : Dev) (a m : Nat) (q : Nat) : (d.markUnit a m).cellAt q = d.cellAt q := rfl
@[simp] theorem Dev.markUnit_read_partOf (d : Dev) (a m : Nat) (q : Nat) : (d.markUnit a m).partOf q = d.partOf q := rfl
@[simp] theorem Dev.markUnit_read_tumbler (d : Dev) (a m : Nat) (die' j : Nat) : (d.markUnit a m).tumbler die' j = d.tumbler die' j := rfl
@[simp] theorem Dev.markUnit_read_eng (d : Dev) (a m : Nat) (die' e' : Nat) : (d.markUnit a m).eng die' e' = d.eng die' e' := rfl
@[simp] theorem Dev.markUnit_read_unfAt (d : Dev) (a m : Nat) (die' e' : Nat) : (d.markUnit a m).unfAt die' e' = d.unfAt die' e' := rfl
@[simp] theorem Dev.markUnit_read_dsp (d : Dev) (a m : Nat) (q : Nat) : (d.markUnit a m).dsp q = d.dsp q := rfl
@[simp] theorem Dev.markUnit_read_eth (d : Dev) (a m : Nat) (die' e' : Nat) : (d.markUnit a m).eth die' e' = d.eth die' e' := rfl
@[simp] theorem Dev.markUnit_read_hbmAt (d : Dev) (a m : Nat) (die' e' : Nat) : (d.markUnit a m).hbmAt die' e' = d.hbmAt die' e' := rfl
@[simp] theorem Dev.markUnit_read_flink (d : Dev) (a m : Nat) (die' e' : Nat) : (d.markUnit a m).flink die' e' = d.flink die' e' := rfl
@[simp] theorem Dev.markUnit_read_knk (d : Dev) (a m : Nat) (q : Nat) : (d.markUnit a m).knk q = d.knk q := rfl
@[simp] theorem Dev.markUnit_read_lane (d : Dev) (a m : Nat) (die' e' : Nat) : (d.markUnit a m).lane die' e' = d.lane die' e' := rfl
@[simp] theorem Dev.markUnit_read_port (d : Dev) (a m : Nat) (q : Nat) : (d.markUnit a m).port q = d.port q := rfl
@[simp] theorem Dev.markUnit_read_qp (d : Dev) (a m : Nat) (q : Nat) : (d.markUnit a m).qp q = d.qp q := rfl
@[simp] theorem Dev.markUnit_read_stew (d : Dev) (a m : Nat) (q : Nat) : (d.markUnit a m).stew q = d.stew q := rfl
@[simp] theorem Dev.markUnit_read_site (d : Dev) (a m : Nat) (q : Nat) : (d.markUnit a m).site q = d.site q := rfl
@[simp] theorem Dev.markUnit_read_ward (d : Dev) (a m : Nat) (q : Nat) : (d.markUnit a m).ward q = d.ward q := rfl
@[simp] theorem Dev.markUnit_read_tick (d : Dev) (a m : Nat) (q : Nat) : (d.markUnit a m).tick q = d.tick q := rfl
@[simp] theorem Dev.markUnit_read_pwOf (d : Dev) (a m : Nat) (q : Nat) : (d.markUnit a m).pwOf q = d.pwOf q := rfl
@[simp] theorem Dev.markUnit_read_aonUp (d : Dev) (a m : Nat) (q : Nat) : (d.markUnit a m).aonUp q = d.aonUp q := rfl

/-! upset -/

@[simp] theorem Dev.upset_fuse (d : Dev) (ups : List (Nat × Nat)) : (d.upset ups).fuse = d.fuse := rfl
@[simp] theorem Dev.upset_pw (d : Dev) (ups : List (Nat × Nat)) : (d.upset ups).pw = d.pw := rfl
@[simp] theorem Dev.upset_aon (d : Dev) (ups : List (Nat × Nat)) : (d.upset ups).aon = d.aon := rfl
@[simp] theorem Dev.upset_rf (d : Dev) (ups : List (Nat × Nat)) : (d.upset ups).rf = d.rf := rfl
@[simp] theorem Dev.upset_capt (d : Dev) (ups : List (Nat × Nat)) : (d.upset ups).capt = d.capt := rfl
@[simp] theorem Dev.upset_held (d : Dev) (ups : List (Nat × Nat)) : (d.upset ups).held = d.held := rfl
@[simp] theorem Dev.upset_free (d : Dev) (ups : List (Nat × Nat)) : (d.upset ups).free = d.free := rfl
@[simp] theorem Dev.upset_mem (d : Dev) (ups : List (Nat × Nat)) : (d.upset ups).mem = d.mem := rfl
@[simp] theorem Dev.upset_unwritten (d : Dev) (ups : List (Nat × Nat)) : (d.upset ups).unwritten = d.unwritten := rfl
@[simp] theorem Dev.upset_lcnt (d : Dev) (ups : List (Nat × Nat)) : (d.upset ups).lcnt = d.lcnt := rfl
@[simp] theorem Dev.upset_cores (d : Dev) (ups : List (Nat × Nat)) : (d.upset ups).cores = d.cores := rfl
@[simp] theorem Dev.upset_cells (d : Dev) (ups : List (Nat × Nat)) : (d.upset ups).cells = d.cells := rfl
@[simp] theorem Dev.upset_cellPart (d : Dev) (ups : List (Nat × Nat)) : (d.upset ups).cellPart = d.cellPart := rfl
@[simp] theorem Dev.upset_tmb (d : Dev) (ups : List (Nat × Nat)) : (d.upset ups).tmb = d.tmb := rfl
@[simp] theorem Dev.upset_waits (d : Dev) (ups : List (Nat × Nat)) : (d.upset ups).waits = d.waits := rfl
@[simp] theorem Dev.upset_swGen (d : Dev) (ups : List (Nat × Nat)) : (d.upset ups).swGen = d.swGen := rfl
@[simp] theorem Dev.upset_ctl (d : Dev) (ups : List (Nat × Nat)) : (d.upset ups).ctl = d.ctl := rfl
@[simp] theorem Dev.upset_net (d : Dev) (ups : List (Nat × Nat)) : (d.upset ups).net = d.net := rfl
@[simp] theorem Dev.upset_sqn (d : Dev) (ups : List (Nat × Nat)) : (d.upset ups).sqn = d.sqn := rfl
@[simp] theorem Dev.upset_engs (d : Dev) (ups : List (Nat × Nat)) : (d.upset ups).engs = d.engs := rfl
@[simp] theorem Dev.upset_unfs (d : Dev) (ups : List (Nat × Nat)) : (d.upset ups).unfs = d.unfs := rfl
@[simp] theorem Dev.upset_dsps (d : Dev) (ups : List (Nat × Nat)) : (d.upset ups).dsps = d.dsps := rfl
@[simp] theorem Dev.upset_bq (d : Dev) (ups : List (Nat × Nat)) : (d.upset ups).bq = d.bq := rfl
@[simp] theorem Dev.upset_rdq (d : Dev) (ups : List (Nat × Nat)) : (d.upset ups).rdq = d.rdq := rfl
@[simp] theorem Dev.upset_wrq (d : Dev) (ups : List (Nat × Nat)) : (d.upset ups).wrq = d.wrq := rfl
@[simp] theorem Dev.upset_rows (d : Dev) (ups : List (Nat × Nat)) : (d.upset ups).rows = d.rows := rfl
@[simp] theorem Dev.upset_hbm (d : Dev) (ups : List (Nat × Nat)) : (d.upset ups).hbm = d.hbm := rfl
@[simp] theorem Dev.upset_narrow (d : Dev) (ups : List (Nat × Nat)) : (d.upset ups).narrow = d.narrow := rfl
@[simp] theorem Dev.upset_conv (d : Dev) (ups : List (Nat × Nat)) : (d.upset ups).conv = d.conv := rfl
@[simp] theorem Dev.upset_merge (d : Dev) (ups : List (Nat × Nat)) : (d.upset ups).merge = d.merge := rfl
@[simp] theorem Dev.upset_scrub (d : Dev) (ups : List (Nat × Nat)) : (d.upset ups).scrub = d.scrub := rfl
@[simp] theorem Dev.upset_wback (d : Dev) (ups : List (Nat × Nat)) : (d.upset ups).wback = d.wback := rfl
@[simp] theorem Dev.upset_stest (d : Dev) (ups : List (Nat × Nat)) : (d.upset ups).stest = d.stest := rfl
@[simp] theorem Dev.upset_zfill (d : Dev) (ups : List (Nat × Nat)) : (d.upset ups).zfill = d.zfill := rfl
@[simp] theorem Dev.upset_memtest (d : Dev) (ups : List (Nat × Nat)) : (d.upset ups).memtest = d.memtest := rfl
@[simp] theorem Dev.upset_krg (d : Dev) (ups : List (Nat × Nat)) : (d.upset ups).krg = d.krg := rfl
@[simp] theorem Dev.upset_krgP (d : Dev) (ups : List (Nat × Nat)) : (d.upset ups).krgP = d.krgP := rfl
@[simp] theorem Dev.upset_drains (d : Dev) (ups : List (Nat × Nat)) : (d.upset ups).drains = d.drains := rfl
@[simp] theorem Dev.upset_stwIo (d : Dev) (ups : List (Nat × Nat)) : (d.upset ups).stwIo = d.stwIo := rfl
@[simp] theorem Dev.upset_flinks (d : Dev) (ups : List (Nat × Nat)) : (d.upset ups).flinks = d.flinks := rfl
@[simp] theorem Dev.upset_knks (d : Dev) (ups : List (Nat × Nat)) : (d.upset ups).knks = d.knks := rfl
@[simp] theorem Dev.upset_knkPend (d : Dev) (ups : List (Nat × Nat)) : (d.upset ups).knkPend = d.knkPend := rfl
@[simp] theorem Dev.upset_mapUpd (d : Dev) (ups : List (Nat × Nat)) : (d.upset ups).mapUpd = d.mapUpd := rfl
@[simp] theorem Dev.upset_sites (d : Dev) (ups : List (Nat × Nat)) : (d.upset ups).sites = d.sites := rfl
@[simp] theorem Dev.upset_alert (d : Dev) (ups : List (Nat × Nat)) : (d.upset ups).alert = d.alert := rfl
@[simp] theorem Dev.upset_tripN (d : Dev) (ups : List (Nat × Nat)) : (d.upset ups).tripN = d.tripN := rfl
@[simp] theorem Dev.upset_irqs (d : Dev) (ups : List (Nat × Nat)) : (d.upset ups).irqs = d.irqs := rfl
@[simp] theorem Dev.upset_lanes (d : Dev) (ups : List (Nat × Nat)) : (d.upset ups).lanes = d.lanes := rfl
@[simp] theorem Dev.upset_ports (d : Dev) (ups : List (Nat × Nat)) : (d.upset ups).ports = d.ports := rfl
@[simp] theorem Dev.upset_eths (d : Dev) (ups : List (Nat × Nat)) : (d.upset ups).eths = d.eths := rfl
@[simp] theorem Dev.upset_qps (d : Dev) (ups : List (Nat × Nat)) : (d.upset ups).qps = d.qps := rfl
@[simp] theorem Dev.upset_mbxIn (d : Dev) (ups : List (Nat × Nat)) : (d.upset ups).mbxIn = d.mbxIn := rfl
@[simp] theorem Dev.upset_stews (d : Dev) (ups : List (Nat × Nat)) : (d.upset ups).stews = d.stews := rfl
@[simp] theorem Dev.upset_parts (d : Dev) (ups : List (Nat × Nat)) : (d.upset ups).parts = d.parts := rfl
@[simp] theorem Dev.upset_wards (d : Dev) (ups : List (Nat × Nat)) : (d.upset ups).wards = d.wards := rfl
@[simp] theorem Dev.upset_pws (d : Dev) (ups : List (Nat × Nat)) : (d.upset ups).pws = d.pws := rfl
@[simp] theorem Dev.upset_chunks (d : Dev) (ups : List (Nat × Nat)) : (d.upset ups).chunks = d.chunks := rfl
@[simp] theorem Dev.upset_i3c (d : Dev) (ups : List (Nat × Nat)) : (d.upset ups).i3c = d.i3c := rfl
@[simp] theorem Dev.upset_i3cOut (d : Dev) (ups : List (Nat × Nat)) : (d.upset ups).i3cOut = d.i3cOut := rfl
@[simp] theorem Dev.upset_flash (d : Dev) (ups : List (Nat × Nat)) : (d.upset ups).flash = d.flash := rfl
@[simp] theorem Dev.upset_read_raw (d : Dev) (ups : List (Nat × Nat)) (r : RKey) : (d.upset ups).raw r = d.raw r := rfl
@[simp] theorem Dev.upset_read_get (d : Dev) (ups : List (Nat × Nat)) (g : Fld) (die' i' s' : Nat) : (d.upset ups).get g die' i' s' = d.get g die' i' s' := rfl
@[simp] theorem Dev.upset_read_coreAt (d : Dev) (ups : List (Nat × Nat)) (q : Nat) : (d.upset ups).coreAt q = d.coreAt q := rfl
@[simp] theorem Dev.upset_read_cellAt (d : Dev) (ups : List (Nat × Nat)) (q : Nat) : (d.upset ups).cellAt q = d.cellAt q := rfl
@[simp] theorem Dev.upset_read_partOf (d : Dev) (ups : List (Nat × Nat)) (q : Nat) : (d.upset ups).partOf q = d.partOf q := rfl
@[simp] theorem Dev.upset_read_tumbler (d : Dev) (ups : List (Nat × Nat)) (die' j : Nat) : (d.upset ups).tumbler die' j = d.tumbler die' j := rfl
@[simp] theorem Dev.upset_read_eng (d : Dev) (ups : List (Nat × Nat)) (die' e' : Nat) : (d.upset ups).eng die' e' = d.eng die' e' := rfl
@[simp] theorem Dev.upset_read_unfAt (d : Dev) (ups : List (Nat × Nat)) (die' e' : Nat) : (d.upset ups).unfAt die' e' = d.unfAt die' e' := rfl
@[simp] theorem Dev.upset_read_dsp (d : Dev) (ups : List (Nat × Nat)) (q : Nat) : (d.upset ups).dsp q = d.dsp q := rfl
@[simp] theorem Dev.upset_read_eth (d : Dev) (ups : List (Nat × Nat)) (die' e' : Nat) : (d.upset ups).eth die' e' = d.eth die' e' := rfl
@[simp] theorem Dev.upset_read_hbmAt (d : Dev) (ups : List (Nat × Nat)) (die' e' : Nat) : (d.upset ups).hbmAt die' e' = d.hbmAt die' e' := rfl
@[simp] theorem Dev.upset_read_flink (d : Dev) (ups : List (Nat × Nat)) (die' e' : Nat) : (d.upset ups).flink die' e' = d.flink die' e' := rfl
@[simp] theorem Dev.upset_read_knk (d : Dev) (ups : List (Nat × Nat)) (q : Nat) : (d.upset ups).knk q = d.knk q := rfl
@[simp] theorem Dev.upset_read_lane (d : Dev) (ups : List (Nat × Nat)) (die' e' : Nat) : (d.upset ups).lane die' e' = d.lane die' e' := rfl
@[simp] theorem Dev.upset_read_port (d : Dev) (ups : List (Nat × Nat)) (q : Nat) : (d.upset ups).port q = d.port q := rfl
@[simp] theorem Dev.upset_read_qp (d : Dev) (ups : List (Nat × Nat)) (q : Nat) : (d.upset ups).qp q = d.qp q := rfl
@[simp] theorem Dev.upset_read_stew (d : Dev) (ups : List (Nat × Nat)) (q : Nat) : (d.upset ups).stew q = d.stew q := rfl
@[simp] theorem Dev.upset_read_site (d : Dev) (ups : List (Nat × Nat)) (q : Nat) : (d.upset ups).site q = d.site q := rfl
@[simp] theorem Dev.upset_read_ward (d : Dev) (ups : List (Nat × Nat)) (q : Nat) : (d.upset ups).ward q = d.ward q := rfl
@[simp] theorem Dev.upset_read_tick (d : Dev) (ups : List (Nat × Nat)) (q : Nat) : (d.upset ups).tick q = d.tick q := rfl
@[simp] theorem Dev.upset_read_pwOf (d : Dev) (ups : List (Nat × Nat)) (q : Nat) : (d.upset ups).pwOf q = d.pwOf q := rfl
@[simp] theorem Dev.upset_read_aonUp (d : Dev) (ups : List (Nat × Nat)) (q : Nat) : (d.upset ups).aonUp q = d.aonUp q := rfl

/-! writeUnit -/

@[simp] theorem Dev.writeUnit_fuse (d : Dev) (a : Nat) (bs : Bytes) : (d.writeUnit a bs).fuse = d.fuse := rfl
@[simp] theorem Dev.writeUnit_pw (d : Dev) (a : Nat) (bs : Bytes) : (d.writeUnit a bs).pw = d.pw := rfl
@[simp] theorem Dev.writeUnit_aon (d : Dev) (a : Nat) (bs : Bytes) : (d.writeUnit a bs).aon = d.aon := rfl
@[simp] theorem Dev.writeUnit_rf (d : Dev) (a : Nat) (bs : Bytes) : (d.writeUnit a bs).rf = d.rf := rfl
@[simp] theorem Dev.writeUnit_capt (d : Dev) (a : Nat) (bs : Bytes) : (d.writeUnit a bs).capt = d.capt := rfl
@[simp] theorem Dev.writeUnit_held (d : Dev) (a : Nat) (bs : Bytes) : (d.writeUnit a bs).held = d.held := rfl
@[simp] theorem Dev.writeUnit_free (d : Dev) (a : Nat) (bs : Bytes) : (d.writeUnit a bs).free = d.free := rfl
@[simp] theorem Dev.writeUnit_mem_now (d : Dev) (a : Nat) (bs : Bytes) : (d.writeUnit a bs).mem = d.mem.setBytes a bs := rfl
@[simp] theorem Dev.writeUnit_unwritten_now (d : Dev) (a : Nat) (bs : Bytes) : (d.writeUnit a bs).unwritten = cutRange d.unwritten a bs.length := rfl
@[simp] theorem Dev.writeUnit_errs_now (d : Dev) (a : Nat) (bs : Bytes) : (d.writeUnit a bs).errs = d.errs.del a := rfl
@[simp] theorem Dev.writeUnit_lcnt (d : Dev) (a : Nat) (bs : Bytes) : (d.writeUnit a bs).lcnt = d.lcnt := rfl
@[simp] theorem Dev.writeUnit_cores (d : Dev) (a : Nat) (bs : Bytes) : (d.writeUnit a bs).cores = d.cores := rfl
@[simp] theorem Dev.writeUnit_cells (d : Dev) (a : Nat) (bs : Bytes) : (d.writeUnit a bs).cells = d.cells := rfl
@[simp] theorem Dev.writeUnit_cellPart (d : Dev) (a : Nat) (bs : Bytes) : (d.writeUnit a bs).cellPart = d.cellPart := rfl
@[simp] theorem Dev.writeUnit_tmb (d : Dev) (a : Nat) (bs : Bytes) : (d.writeUnit a bs).tmb = d.tmb := rfl
@[simp] theorem Dev.writeUnit_waits (d : Dev) (a : Nat) (bs : Bytes) : (d.writeUnit a bs).waits = d.waits := rfl
@[simp] theorem Dev.writeUnit_swGen (d : Dev) (a : Nat) (bs : Bytes) : (d.writeUnit a bs).swGen = d.swGen := rfl
@[simp] theorem Dev.writeUnit_ctl (d : Dev) (a : Nat) (bs : Bytes) : (d.writeUnit a bs).ctl = d.ctl := rfl
@[simp] theorem Dev.writeUnit_net (d : Dev) (a : Nat) (bs : Bytes) : (d.writeUnit a bs).net = d.net := rfl
@[simp] theorem Dev.writeUnit_sqn (d : Dev) (a : Nat) (bs : Bytes) : (d.writeUnit a bs).sqn = d.sqn := rfl
@[simp] theorem Dev.writeUnit_engs (d : Dev) (a : Nat) (bs : Bytes) : (d.writeUnit a bs).engs = d.engs := rfl
@[simp] theorem Dev.writeUnit_unfs (d : Dev) (a : Nat) (bs : Bytes) : (d.writeUnit a bs).unfs = d.unfs := rfl
@[simp] theorem Dev.writeUnit_dsps (d : Dev) (a : Nat) (bs : Bytes) : (d.writeUnit a bs).dsps = d.dsps := rfl
@[simp] theorem Dev.writeUnit_bq (d : Dev) (a : Nat) (bs : Bytes) : (d.writeUnit a bs).bq = d.bq := rfl
@[simp] theorem Dev.writeUnit_rdq (d : Dev) (a : Nat) (bs : Bytes) : (d.writeUnit a bs).rdq = d.rdq := rfl
@[simp] theorem Dev.writeUnit_wrq (d : Dev) (a : Nat) (bs : Bytes) : (d.writeUnit a bs).wrq = d.wrq := rfl
@[simp] theorem Dev.writeUnit_rows (d : Dev) (a : Nat) (bs : Bytes) : (d.writeUnit a bs).rows = d.rows := rfl
@[simp] theorem Dev.writeUnit_hbm (d : Dev) (a : Nat) (bs : Bytes) : (d.writeUnit a bs).hbm = d.hbm := rfl
@[simp] theorem Dev.writeUnit_narrow (d : Dev) (a : Nat) (bs : Bytes) : (d.writeUnit a bs).narrow = d.narrow := rfl
@[simp] theorem Dev.writeUnit_conv (d : Dev) (a : Nat) (bs : Bytes) : (d.writeUnit a bs).conv = d.conv := rfl
@[simp] theorem Dev.writeUnit_merge (d : Dev) (a : Nat) (bs : Bytes) : (d.writeUnit a bs).merge = d.merge := rfl
@[simp] theorem Dev.writeUnit_scrub (d : Dev) (a : Nat) (bs : Bytes) : (d.writeUnit a bs).scrub = d.scrub := rfl
@[simp] theorem Dev.writeUnit_wback (d : Dev) (a : Nat) (bs : Bytes) : (d.writeUnit a bs).wback = d.wback := rfl
@[simp] theorem Dev.writeUnit_stest (d : Dev) (a : Nat) (bs : Bytes) : (d.writeUnit a bs).stest = d.stest := rfl
@[simp] theorem Dev.writeUnit_zfill (d : Dev) (a : Nat) (bs : Bytes) : (d.writeUnit a bs).zfill = d.zfill := rfl
@[simp] theorem Dev.writeUnit_memtest (d : Dev) (a : Nat) (bs : Bytes) : (d.writeUnit a bs).memtest = d.memtest := rfl
@[simp] theorem Dev.writeUnit_krg (d : Dev) (a : Nat) (bs : Bytes) : (d.writeUnit a bs).krg = d.krg := rfl
@[simp] theorem Dev.writeUnit_krgP (d : Dev) (a : Nat) (bs : Bytes) : (d.writeUnit a bs).krgP = d.krgP := rfl
@[simp] theorem Dev.writeUnit_drains (d : Dev) (a : Nat) (bs : Bytes) : (d.writeUnit a bs).drains = d.drains := rfl
@[simp] theorem Dev.writeUnit_stwIo (d : Dev) (a : Nat) (bs : Bytes) : (d.writeUnit a bs).stwIo = d.stwIo := rfl
@[simp] theorem Dev.writeUnit_flinks (d : Dev) (a : Nat) (bs : Bytes) : (d.writeUnit a bs).flinks = d.flinks := rfl
@[simp] theorem Dev.writeUnit_knks (d : Dev) (a : Nat) (bs : Bytes) : (d.writeUnit a bs).knks = d.knks := rfl
@[simp] theorem Dev.writeUnit_knkPend (d : Dev) (a : Nat) (bs : Bytes) : (d.writeUnit a bs).knkPend = d.knkPend := rfl
@[simp] theorem Dev.writeUnit_mapUpd (d : Dev) (a : Nat) (bs : Bytes) : (d.writeUnit a bs).mapUpd = d.mapUpd := rfl
@[simp] theorem Dev.writeUnit_sites (d : Dev) (a : Nat) (bs : Bytes) : (d.writeUnit a bs).sites = d.sites := rfl
@[simp] theorem Dev.writeUnit_alert (d : Dev) (a : Nat) (bs : Bytes) : (d.writeUnit a bs).alert = d.alert := rfl
@[simp] theorem Dev.writeUnit_tripN (d : Dev) (a : Nat) (bs : Bytes) : (d.writeUnit a bs).tripN = d.tripN := rfl
@[simp] theorem Dev.writeUnit_irqs (d : Dev) (a : Nat) (bs : Bytes) : (d.writeUnit a bs).irqs = d.irqs := rfl
@[simp] theorem Dev.writeUnit_lanes (d : Dev) (a : Nat) (bs : Bytes) : (d.writeUnit a bs).lanes = d.lanes := rfl
@[simp] theorem Dev.writeUnit_ports (d : Dev) (a : Nat) (bs : Bytes) : (d.writeUnit a bs).ports = d.ports := rfl
@[simp] theorem Dev.writeUnit_eths (d : Dev) (a : Nat) (bs : Bytes) : (d.writeUnit a bs).eths = d.eths := rfl
@[simp] theorem Dev.writeUnit_qps (d : Dev) (a : Nat) (bs : Bytes) : (d.writeUnit a bs).qps = d.qps := rfl
@[simp] theorem Dev.writeUnit_mbxIn (d : Dev) (a : Nat) (bs : Bytes) : (d.writeUnit a bs).mbxIn = d.mbxIn := rfl
@[simp] theorem Dev.writeUnit_stews (d : Dev) (a : Nat) (bs : Bytes) : (d.writeUnit a bs).stews = d.stews := rfl
@[simp] theorem Dev.writeUnit_parts (d : Dev) (a : Nat) (bs : Bytes) : (d.writeUnit a bs).parts = d.parts := rfl
@[simp] theorem Dev.writeUnit_wards (d : Dev) (a : Nat) (bs : Bytes) : (d.writeUnit a bs).wards = d.wards := rfl
@[simp] theorem Dev.writeUnit_pws (d : Dev) (a : Nat) (bs : Bytes) : (d.writeUnit a bs).pws = d.pws := rfl
@[simp] theorem Dev.writeUnit_chunks (d : Dev) (a : Nat) (bs : Bytes) : (d.writeUnit a bs).chunks = d.chunks := rfl
@[simp] theorem Dev.writeUnit_i3c (d : Dev) (a : Nat) (bs : Bytes) : (d.writeUnit a bs).i3c = d.i3c := rfl
@[simp] theorem Dev.writeUnit_i3cOut (d : Dev) (a : Nat) (bs : Bytes) : (d.writeUnit a bs).i3cOut = d.i3cOut := rfl
@[simp] theorem Dev.writeUnit_flash (d : Dev) (a : Nat) (bs : Bytes) : (d.writeUnit a bs).flash = d.flash := rfl
@[simp] theorem Dev.writeUnit_read_raw (d : Dev) (a : Nat) (bs : Bytes) (r : RKey) : (d.writeUnit a bs).raw r = d.raw r := rfl
@[simp] theorem Dev.writeUnit_read_get (d : Dev) (a : Nat) (bs : Bytes) (g : Fld) (die' i' s' : Nat) : (d.writeUnit a bs).get g die' i' s' = d.get g die' i' s' := rfl
@[simp] theorem Dev.writeUnit_read_coreAt (d : Dev) (a : Nat) (bs : Bytes) (q : Nat) : (d.writeUnit a bs).coreAt q = d.coreAt q := rfl
@[simp] theorem Dev.writeUnit_read_cellAt (d : Dev) (a : Nat) (bs : Bytes) (q : Nat) : (d.writeUnit a bs).cellAt q = d.cellAt q := rfl
@[simp] theorem Dev.writeUnit_read_partOf (d : Dev) (a : Nat) (bs : Bytes) (q : Nat) : (d.writeUnit a bs).partOf q = d.partOf q := rfl
@[simp] theorem Dev.writeUnit_read_tumbler (d : Dev) (a : Nat) (bs : Bytes) (die' j : Nat) : (d.writeUnit a bs).tumbler die' j = d.tumbler die' j := rfl
@[simp] theorem Dev.writeUnit_read_eng (d : Dev) (a : Nat) (bs : Bytes) (die' e' : Nat) : (d.writeUnit a bs).eng die' e' = d.eng die' e' := rfl
@[simp] theorem Dev.writeUnit_read_unfAt (d : Dev) (a : Nat) (bs : Bytes) (die' e' : Nat) : (d.writeUnit a bs).unfAt die' e' = d.unfAt die' e' := rfl
@[simp] theorem Dev.writeUnit_read_dsp (d : Dev) (a : Nat) (bs : Bytes) (q : Nat) : (d.writeUnit a bs).dsp q = d.dsp q := rfl
@[simp] theorem Dev.writeUnit_read_eth (d : Dev) (a : Nat) (bs : Bytes) (die' e' : Nat) : (d.writeUnit a bs).eth die' e' = d.eth die' e' := rfl
@[simp] theorem Dev.writeUnit_read_hbmAt (d : Dev) (a : Nat) (bs : Bytes) (die' e' : Nat) : (d.writeUnit a bs).hbmAt die' e' = d.hbmAt die' e' := rfl
@[simp] theorem Dev.writeUnit_read_flink (d : Dev) (a : Nat) (bs : Bytes) (die' e' : Nat) : (d.writeUnit a bs).flink die' e' = d.flink die' e' := rfl
@[simp] theorem Dev.writeUnit_read_knk (d : Dev) (a : Nat) (bs : Bytes) (q : Nat) : (d.writeUnit a bs).knk q = d.knk q := rfl
@[simp] theorem Dev.writeUnit_read_lane (d : Dev) (a : Nat) (bs : Bytes) (die' e' : Nat) : (d.writeUnit a bs).lane die' e' = d.lane die' e' := rfl
@[simp] theorem Dev.writeUnit_read_port (d : Dev) (a : Nat) (bs : Bytes) (q : Nat) : (d.writeUnit a bs).port q = d.port q := rfl
@[simp] theorem Dev.writeUnit_read_qp (d : Dev) (a : Nat) (bs : Bytes) (q : Nat) : (d.writeUnit a bs).qp q = d.qp q := rfl
@[simp] theorem Dev.writeUnit_read_stew (d : Dev) (a : Nat) (bs : Bytes) (q : Nat) : (d.writeUnit a bs).stew q = d.stew q := rfl
@[simp] theorem Dev.writeUnit_read_site (d : Dev) (a : Nat) (bs : Bytes) (q : Nat) : (d.writeUnit a bs).site q = d.site q := rfl
@[simp] theorem Dev.writeUnit_read_ward (d : Dev) (a : Nat) (bs : Bytes) (q : Nat) : (d.writeUnit a bs).ward q = d.ward q := rfl
@[simp] theorem Dev.writeUnit_read_tick (d : Dev) (a : Nat) (bs : Bytes) (q : Nat) : (d.writeUnit a bs).tick q = d.tick q := rfl
@[simp] theorem Dev.writeUnit_read_pwOf (d : Dev) (a : Nat) (bs : Bytes) (q : Nat) : (d.writeUnit a bs).pwOf q = d.pwOf q := rfl
@[simp] theorem Dev.writeUnit_read_aonUp (d : Dev) (a : Nat) (bs : Bytes) (q : Nat) : (d.writeUnit a bs).aonUp q = d.aonUp q := rfl

/-! The state around the package -/

@[simp] theorem State.dev_of (l : List Instr) (d : Dev) : (⟨l, d⟩ : State).dev = d := rfl
@[simp] theorem State.pending_of (l : List Instr) (d : Dev) : (⟨l, d⟩ : State).pending = l := rfl

end Sys2Proof.Machine
end

