-- ==== Sys2Proof/Tests/Slice0.lean ====
section
/-!
SUPPORT. Tests: ill-formed operands refused, and witnesses of the statements' hypotheses.
-/
namespace Sys2Proof.Machine

/-- An empty queue idles. -/
theorem test_idle (d : Dev) : step ⟨[], d⟩ = .next ⟨[], d⟩ := rfl

end Sys2Proof.Machine
end

section
/-!
The statements of 00_scope.md: what holds of every command (its unit, its answer, its frame) and of control registers.
-/
namespace Sys2Proof.Machine

/-! The queue -/

/-- Settles O1: `step` takes the front command off the queue and carries it out. -/
theorem stepRunsFrontCommand : Obligations.StepRunsFrontCommand := fun _ _ _ => rfl

/-- Settles O2: `step` has nothing to carry out (log entry 1). -/
theorem emptyQueueIdles : Obligations.EmptyQueueIdles := test_idle

/-! The unit of a command -/

/-- A command that acts through `f` at a unit: it does so where the unit is there to act, and changes nothing elsewhere (log entry 11). -/
def State.atPlace (s : State) (f : Dev → Dev) : Place → Host.Outcome State Fault Refusal
  | .anyone => s.on f
  | .ofDie die => s.onDie die f
  | .ofAon die => s.onAon die f
  | .ofKept die => s.onKept die f
  | .ofCarrier die => s.onCarrier die f
  | .ofCompute die => s.onCompute die f
  | .ofCore cell core => s.onCore cell core f
  | .ofLane die lane => s.onLane die lane f
  | .ofPort port => s.onPort port f
  | .ofEth die port => s.onEth die port f
  | .ofKnuckle k => s.onKnuckle k f
  | .ofKnuckleEnd die inst => s.onKnuckleEnd die inst f

/-- Every command acts at its own unit, through one change of the package. -/
theorem exec_atPlace (c : Instr) : ∃ f, ∀ s, exec c s = s.atPlace f (placeOf c) := by
  cases c with
  | cellPark cell => exact ⟨fun d => d.cellPark cell, fun _ => rfl⟩
  | cellUnpark cell => exact ⟨fun d => d.cellUnpark cell, fun _ => rfl⟩
  | cellReset cell => exact ⟨fun d => d.cellReset cell, fun _ => rfl⟩
  | cellResetComplete cell => exact ⟨fun d => d.cellResetDone cell, fun _ => rfl⟩
  | cellTestModeWrite cell test => exact ⟨fun d => d.setTest cell test, fun _ => rfl⟩
  | cellStart cell => exact ⟨fun d => d.planRun cell true false, fun _ => rfl⟩
  | cellAbort cell => exact ⟨fun d => d.planRun cell false true, fun _ => rfl⟩
  | _ => exact ⟨_, fun _ => rfl⟩

theorem State.atPlace_absent {s : State} {f : Dev → Dev} {p : Place} (h : p.up s.dev = false) : s.atPlace f p = .next s := by
  cases p with
  | anyone => cases h
  | ofDie => exact State.onDie_absent h
  | ofAon => exact State.onAon_absent h
  | ofKept => exact State.onKept_absent h
  | ofCarrier => exact State.onCarrier_absent h
  | ofCompute => exact State.onCompute_absent h
  | ofCore => exact State.onCore_absent h
  | ofLane => exact State.onLane_absent h
  | ofPort => exact State.onPort_absent h
  | ofEth => exact State.onEth_absent h
  | ofKnuckle => exact State.onKnuckle_absent h
  | ofKnuckleEnd => exact State.onKnuckleEnd_absent h

/-- Acting at a unit is always a change of the package alone. -/
theorem State.atPlace_on (s : State) (f : Dev → Dev) (p : Place) : ∃ g, s.atPlace f p = s.on g := by
  cases p <;> exact ⟨_, rfl⟩

/-- Settles O3: a command changes the package alone, whatever its unit. -/
theorem everyCommandAnswers : Obligations.EveryCommandAnswers := by
  intro c s
  obtain ⟨f, hf⟩ := exec_atPlace c
  obtain ⟨g, hg⟩ := s.atPlace_on f (placeOf c)
  exact ⟨{ s with dev := g s.dev }, (hf s).trans hg⟩

/-- Settles O7: a command acts at its own unit only, and nothing acts where the unit is absent. -/
theorem absentUnitUnchanged : Obligations.AbsentUnitUnchanged := by
  intro c s hup
  obtain ⟨f, hf⟩ := exec_atPlace c
  exact (hf s).trans (State.atPlace_absent hup)

/-! The frame of a command -/

/-- Each command's meaning agrees with the package before it but for a mask (`exec…_kp`); `mayChange` lists every piece of that mask, which
is a fact about two numbers once the command is known. -/
theorem exec_frame (c : Instr) {s t : State} (h : exec c s = .next t) :
    t.pending = s.pending ∧ ∀ p : Piece, p ∉ mayChange c → p.same s.dev t.dev := by
  refine match c, h with
    | .registerWrite .., h => Agree.frame (execRegisterWrite_kp h) ?_
    | .reg64LoRead .., h => Agree.frame (execReg64LoRead_kp h) ?_
    | .reg64LoWrite .., h => Agree.frame (execReg64LoWrite_kp h) ?_
    | .reg64HiWrite .., h => Agree.frame (execReg64HiWrite_kp h) ?_
    | .controlAddressMiss .., h => Agree.frame (execControlAddressMiss_kp h) ?_
    | .cellPark .., h => Agree.frame (execCellPark_kp h) ?_
    | .cellUnpark .., h => Agree.frame (execCellUnpark_kp h) ?_
    | .cellReset .., h => Agree.frame (execCellReset_kp h) ?_
    | .cellResetComplete .., h => Agree.frame (execCellResetComplete_kp h) ?_
    | .mapDataWrite .., h => Agree.frame (execMapDataWrite_kp h) ?_
    | .deadboltSet .., h => Agree.frame (execDeadboltSet_kp h) ?_
    | .dbClear .., h => Agree.frame (execDbClear_kp h) ?_
    | .cellTestModeWrite .., h => Agree.frame (execCellTestModeWrite_kp h) ?_
    | .loaderEnter .., h => Agree.frame (execLoaderEnter_kp h) ?_
    | .planFetch .., h => Agree.frame (execPlanFetch_kp h) ?_
    | .nop .., h => Agree.frame (execNop_kp h) ?_
    | .endWord .., h => Agree.frame (execEndWord_kp h) ?_
    | .coreDone .., h => Agree.frame (execCoreDone_kp h) ?_
    | .loopWord .., h => Agree.frame (execLoopWord_kp h) ?_
    | .loopBackEdge .., h => Agree.frame (execLoopBackEdge_kp h) ?_
    | .seedWord .., h => Agree.frame (execSeedWord_kp h) ?_
    | .seedComplete .., h => Agree.frame (execSeedComplete_kp h) ?_
    | .flags .., h => Agree.frame (execFlags_kp h) ?_
    | .dcap .., h => Agree.frame (execDcap_kp h) ?_
    | .lutld .., h => Agree.frame (execLutld_kp h) ?_
    | .lutldComplete .., h => Agree.frame (execLutldComplete_kp h) ?_
    | .cset .., h => Agree.frame (execCset_kp h) ?_
    | .calc .., h => Agree.frame (execCalc_kp h) ?_
    | .cmin .., h => Agree.frame (execCmin_kp h) ?_
    | .cload .., h => Agree.frame (execCload_kp h) ?_
    | .cstore .., h => Agree.frame (execCstore_kp h) ?_
    | .aset .., h => Agree.frame (execAset_kp h) ?_
    | .aadd .., h => Agree.frame (execAadd_kp h) ?_
    | .mta .., h => Agree.frame (execMta_kp h) ?_
    | .mtb .., h => Agree.frame (execMtb_kp h) ?_
    | .mma .., h => Agree.frame (execMma_kp h) ?_
    | .mmaComplete .., h => Agree.frame (execMmaComplete_kp h) ?_
    | .vld .., h => Agree.frame (execVld_kp h) ?_
    | .vst .., h => Agree.frame (execVst_kp h) ?_
    | .vacc .., h => Agree.frame (execVacc_kp h) ?_
    | .vop .., h => Agree.frame (execVop_kp h) ?_
    | .vcvt .., h => Agree.frame (execVcvt_kp h) ?_
    | .twait .., h => Agree.frame (execTwait_kp h) ?_
    | .wsync .., h => Agree.frame (execWsync_kp h) ?_
    | .tadd .., h => Agree.frame (execTadd_kp h) ?_
    | .tset .., h => Agree.frame (execTset_kp h) ?_
    | .tradd .., h => Agree.frame (execTradd_kp h) ?_
    | .traddRelease .., h => Agree.frame (execTraddRelease_kp h) ?_
    | .tcadd .., h => Agree.frame (execTcadd_kp h) ?_
    | .coreWaitTimeout .., h => Agree.frame (execCoreWaitTimeout_kp h) ?_
    | .cellStart .., h => Agree.frame (execCellStart_kp h) ?_
    | .cellAbort .., h => Agree.frame (execCellAbort_kp h) ?_
    | .listFetch .., h => Agree.frame (execListFetch_kp h) ?_
    | .nopEntry .., h => Agree.frame (execNopEntry_kp h) ?_
    | .copy .., h => Agree.frame (execCopy_kp h) ?_
    | .reduce .., h => Agree.frame (execReduce_kp h) ?_
    | .taddEntry .., h => Agree.frame (execTaddEntry_kp h) ?_
    | .endEntry .., h => Agree.frame (execEndEntry_kp h) ?_
    | .transactionIssue .., h => Agree.frame (execTransactionIssue_kp h) ?_
    | .transactionResponse .., h => Agree.frame (execTransactionResponse_kp h) ?_
    | .engineReleaseAdd .., h => Agree.frame (execEngineReleaseAdd_kp h) ?_
    | .engineDone .., h => Agree.frame (execEngineDone_kp h) ?_
    | .engineWaitTimeout .., h => Agree.frame (execEngineWaitTimeout_kp h) ?_
    | .engineStart .., h => Agree.frame (execEngineStart_kp h) ?_
    | .engineAbort .., h => Agree.frame (execEngineAbort_kp h) ?_
    | .engineResume .., h => Agree.frame (execEngineResume_kp h) ?_
    | .engineDrainComplete .., h => Agree.frame (execEngineDrainComplete_kp h) ?_
    | .homeRequest .., h => Agree.frame (execHomeRequest_kp h) ?_
    | .mergeEntryAgeOut .., h => Agree.frame (execMergeEntryAgeOut_kp h) ?_
    | .mergeWordWrite .., h => Agree.frame (execMergeWordWrite_kp h) ?_
    | .unfoldContextGrant .., h => Agree.frame (execUnfoldContextGrant_kp h) ?_
    | .unfoldInputParse .., h => Agree.frame (execUnfoldInputParse_kp h) ?_
    | .unfoldOutputWalk .., h => Agree.frame (execUnfoldOutputWalk_kp h) ?_
    | .unfoldRowComplete .., h => Agree.frame (execUnfoldRowComplete_kp h) ?_
    | .dspStepFetch .., h => Agree.frame (execDspStepFetch_kp h) ?_
    | .stepNop .., h => Agree.frame (execStepNop_kp h) ?_
    | .gate .., h => Agree.frame (execGate_kp h) ?_
    | .repack .., h => Agree.frame (execRepack_kp h) ?_
    | .combine .., h => Agree.frame (execCombine_kp h) ?_
    | .stepEnd .., h => Agree.frame (execStepEnd_kp h) ?_
    | .dspReleaseAdd .., h => Agree.frame (execDspReleaseAdd_kp h) ?_
    | .dspWaitTimeout .., h => Agree.frame (execDspWaitTimeout_kp h) ?_
    | .dspStart .., h => Agree.frame (execDspStart_kp h) ?_
    | .dspAbort .., h => Agree.frame (execDspAbort_kp h) ?_
    | .dspDrainComplete .., h => Agree.frame (execDspDrainComplete_kp h) ?_
    | .add .., h => Agree.frame (execAdd_kp h) ?_
    | .setMsg .., h => Agree.frame (execSetMsg_kp h) ?_
    | .radd .., h => Agree.frame (execRadd_kp h) ?_
    | .arm .., h => Agree.frame (execArm_kp h) ?_
    | .withdraw .., h => Agree.frame (execWithdraw_kp h) ?_
    | .cadd .., h => Agree.frame (execCadd_kp h) ?_
    | .ack .., h => Agree.frame (execAck_kp h) ?_
    | .wake .., h => Agree.frame (execWake_kp h) ?_
    | .cval .., h => Agree.frame (execCval_kp h) ?_
    | .event .., h => Agree.frame (execEvent_kp h) ?_
    | .bcast .., h => Agree.frame (execBcast_kp h) ?_
    | .tmbValueWrite .., h => Agree.frame (execTmbValueWrite_kp h) ?_
    | .tmbAddWrite .., h => Agree.frame (execTmbAddWrite_kp h) ?_
    | .tmbRangeWrite .., h => Agree.frame (execTmbRangeWrite_kp h) ?_
    | .broadcastStart .., h => Agree.frame (execBroadcastStart_kp h) ?_
    | .broadcastAbort .., h => Agree.frame (execBroadcastAbort_kp h) ?_
    | .stewardWaitArm .., h => Agree.frame (execStewardWaitArm_kp h) ?_
    | .stewardWaitWithdraw .., h => Agree.frame (execStewardWaitWithdraw_kp h) ?_
    | .stewardMemoryAccess .., h => Agree.frame (execStewardMemoryAccess_kp h) ?_
    | .stewardFence .., h => Agree.frame (execStewardFence_kp h) ?_
    | .hbmRequestAdmit .., h => Agree.frame (execHbmRequestAdmit_kp h) ?_
    | .hbmReadServe .., h => Agree.frame (execHbmReadServe_kp h) ?_
    | .hbmWriteBatchDrain .., h => Agree.frame (execHbmWriteBatchDrain_kp h) ?_
    | .rowCloseTimeout .., h => Agree.frame (execRowCloseTimeout_kp h) ?_
    | .hbmRefresh .., h => Agree.frame (execHbmRefresh_kp h) ?_
    | .hbmTempSample .., h => Agree.frame (execHbmTempSample_kp h) ?_
    | .hbmTrain .., h => Agree.frame (execHbmTrain_kp h) ?_
    | .hbmSelfrefEnter .., h => Agree.frame (execHbmSelfrefEnter_kp h) ?_
    | .hbmSelfrefExit .., h => Agree.frame (execHbmSelfrefExit_kp h) ?_
    | .hbmHoldDown .., h => Agree.frame (execHbmHoldDown_kp h) ?_
    | .hbmTrainingComplete .., h => Agree.frame (execHbmTrainingComplete_kp h) ?_
    | .hbmRrateWrite .., h => Agree.frame (execHbmRrateWrite_kp h) ?_
    | .minbandWrite .., h => Agree.frame (execMinbandWrite_kp h) ?_
    | .hbmTmaxclr .., h => Agree.frame (execHbmTmaxclr_kp h) ?_
    | .blankCut .., h => Agree.frame (execBlankCut_kp h) ?_
    | .blankCutComplete .., h => Agree.frame (execBlankCutComplete_kp h) ?_
    | .regionToNarrow .., h => Agree.frame (execRegionToNarrow_kp h) ?_
    | .regionToWide .., h => Agree.frame (execRegionToWide_kp h) ?_
    | .regionConversionComplete .., h => Agree.frame (execRegionConversionComplete_kp h) ?_
    | .scrubRead .., h => Agree.frame (execScrubRead_kp h) ?_
    | .scrubWriteback .., h => Agree.frame (execScrubWriteback_kp h) ?_
    | .checkerSelfTest .., h => Agree.frame (execCheckerSelfTest_kp h) ?_
    | .checkerSelfTestDone .., h => Agree.frame (execCheckerSelfTestDone_kp h) ?_
    | .sbfZfill .., h => Agree.frame (execSbfZfill_kp h) ?_
    | .sbfZfillDone .., h => Agree.frame (execSbfZfillDone_kp h) ?_
    | .insert .., h => Agree.frame (execInsert_kp h) ?_
    | .modify .., h => Agree.frame (execModify_kp h) ?_
    | .readEntry .., h => Agree.frame (execReadEntry_kp h) ?_
    | .removeUnused .., h => Agree.frame (execRemoveUnused_kp h) ?_
    | .krgCommandDone .., h => Agree.frame (execKrgCommandDone_kp h) ?_
    | .quotaWrite .., h => Agree.frame (execQuotaWrite_kp h) ?_
    | .hostWindowWrite .., h => Agree.frame (execHostWindowWrite_kp h) ?_
    | .rekeyCut .., h => Agree.frame (execRekeyCut_kp h) ?_
    | .rekeyDrainEnd .., h => Agree.frame (execRekeyDrainEnd_kp h) ?_
    | .rekeyTimeout .., h => Agree.frame (execRekeyTimeout_kp h) ?_
    | .hubDeadboltSet .., h => Agree.frame (execHubDeadboltSet_kp h) ?_
    | .hubDbClear .., h => Agree.frame (execHubDbClear_kp h) ?_
    | .portFenceWrite .., h => Agree.frame (execPortFenceWrite_kp h) ?_
    | .kmapEnWrite .., h => Agree.frame (execKmapEnWrite_kp h) ?_
    | .mapUpdate .., h => Agree.frame (execMapUpdate_kp h) ?_
    | .knuckleRecover .., h => Agree.frame (execKnuckleRecover_kp h) ?_
    | .knuckleFull .., h => Agree.frame (execKnuckleFull_kp h) ?_
    | .knuckleHold .., h => Agree.frame (execKnuckleHold_kp h) ?_
    | .knuckleTrainingStepEnd .., h => Agree.frame (execKnuckleTrainingStepEnd_kp h) ?_
    | .knuckleQualEnd .., h => Agree.frame (execKnuckleQualEnd_kp h) ?_
    | .knuckleFlitReceive .., h => Agree.frame (execKnuckleFlitReceive_kp h) ?_
    | .knuckleNakRepeat .., h => Agree.frame (execKnuckleNakRepeat_kp h) ?_
    | .knuckleSignalLoss .., h => Agree.frame (execKnuckleSignalLoss_kp h) ?_
    | .siteTrain .., h => Agree.frame (execSiteTrain_kp h) ?_
    | .siteHold .., h => Agree.frame (execSiteHold_kp h) ?_
    | .siteBringupStepEnd .., h => Agree.frame (execSiteBringupStepEnd_kp h) ?_
    | .siteFlitReceive .., h => Agree.frame (execSiteFlitReceive_kp h) ?_
    | .siteRequest .., h => Agree.frame (execSiteRequest_kp h) ?_
    | .siteTumblerWrite .., h => Agree.frame (execSiteTumblerWrite_kp h) ?_
    | .siteRequestTimeout .., h => Agree.frame (execSiteRequestTimeout_kp h) ?_
    | .siteSidebandLoss .., h => Agree.frame (execSiteSidebandLoss_kp h) ?_
    | .laneTrain .., h => Agree.frame (execLaneTrain_kp h) ?_
    | .laneHold .., h => Agree.frame (execLaneHold_kp h) ?_
    | .laneSleep .., h => Agree.frame (execLaneSleep_kp h) ?_
    | .laneWake .., h => Agree.frame (execLaneWake_kp h) ?_
    | .laneTest .., h => Agree.frame (execLaneTest_kp h) ?_
    | .laneStateEnd .., h => Agree.frame (execLaneStateEnd_kp h) ?_
    | .laneTrainTimeout .., h => Agree.frame (execLaneTrainTimeout_kp h) ?_
    | .codewordReceive .., h => Agree.frame (execCodewordReceive_kp h) ?_
    | .alignLock .., h => Agree.frame (execAlignLock_kp h) ?_
    | .alignRelockTimeout .., h => Agree.frame (execAlignRelockTimeout_kp h) ?_
    | .ppmMeasure .., h => Agree.frame (execPpmMeasure_kp h) ?_
    | .loopTimingRequest .., h => Agree.frame (execLoopTimingRequest_kp h) ?_
    | .fomRefresh .., h => Agree.frame (execFomRefresh_kp h) ?_
    | .adaptStep .., h => Agree.frame (execAdaptStep_kp h) ?_
    | .dozeEnter .., h => Agree.frame (execDozeEnter_kp h) ?_
    | .dozeExit .., h => Agree.frame (execDozeExit_kp h) ?_
    | .dozeRefreshWake .., h => Agree.frame (execDozeRefreshWake_kp h) ?_
    | .wakeLockTimeout .., h => Agree.frame (execWakeLockTimeout_kp h) ?_
    | .signalDetect .., h => Agree.frame (execSignalDetect_kp h) ?_
    | .laneWakeTimeout .., h => Agree.frame (execLaneWakeTimeout_kp h) ?_
    | .lossOfSignal .., h => Agree.frame (execLossOfSignal_kp h) ?_
    | .portTrain .., h => Agree.frame (execPortTrain_kp h) ?_
    | .portHold .., h => Agree.frame (execPortHold_kp h) ?_
    | .portQualEnd .., h => Agree.frame (execPortQualEnd_kp h) ?_
    | .frameReceive .., h => Agree.frame (execFrameReceive_kp h) ?_
    | .linkBlockReceive .., h => Agree.frame (execLinkBlockReceive_kp h) ?_
    | .frameLossTimeout .., h => Agree.frame (execFrameLossTimeout_kp h) ?_
    | .frameNakRepeat .., h => Agree.frame (execFrameNakRepeat_kp h) ?_
    | .ackDue .., h => Agree.frame (execAckDue_kp h) ?_
    | .ackTimeoutReplay .., h => Agree.frame (execAckTimeoutReplay_kp h) ?_
    | .portRetrainComplete .., h => Agree.frame (execPortRetrainComplete_kp h) ?_
    | .portDozeRequest .., h => Agree.frame (execPortDozeRequest_kp h) ?_
    | .portSilence .., h => Agree.frame (execPortSilence_kp h) ?_
    | .linkRequestArrive .., h => Agree.frame (execLinkRequestArrive_kp h) ?_
    | .linkResponseArrive .., h => Agree.frame (execLinkResponseArrive_kp h) ?_
    | .remoteRequestTimeout .., h => Agree.frame (execRemoteRequestTimeout_kp h) ?_
    | .routeWrite .., h => Agree.frame (execRouteWrite_kp h) ?_
    | .routeHoldClear .., h => Agree.frame (execRouteHoldClear_kp h) ?_
    | .ethPortTrain .., h => Agree.frame (execEthPortTrain_kp h) ?_
    | .ethPortHold .., h => Agree.frame (execEthPortHold_kp h) ?_
    | .ethLinkupStepEnd .., h => Agree.frame (execEthLinkupStepEnd_kp h) ?_
    | .ethAnTimeout .., h => Agree.frame (execEthAnTimeout_kp h) ?_
    | .ethUpTimeout .., h => Agree.frame (execEthUpTimeout_kp h) ?_
    | .ethPcsLockLoss .., h => Agree.frame (execEthPcsLockLoss_kp h) ?_
    | .ethFrameReceive .., h => Agree.frame (execEthFrameReceive_kp h) ?_
    | .pfcReceive .., h => Agree.frame (execPfcReceive_kp h) ?_
    | .pfcRepeat .., h => Agree.frame (execPfcRepeat_kp h) ?_
    | .pauseExpire .., h => Agree.frame (execPauseExpire_kp h) ?_
    | .pfcWatchdog .., h => Agree.frame (execPfcWatchdog_kp h) ?_
    | .pfcWatchdogResume .., h => Agree.frame (execPfcWatchdogResume_kp h) ?_
    | .cnpReceive .., h => Agree.frame (execCnpReceive_kp h) ?_
    | .ccRateIncrease .., h => Agree.frame (execCcRateIncrease_kp h) ?_
    | .frameEgress .., h => Agree.frame (execFrameEgress_kp h) ?_
    | .qpStateWrite .., h => Agree.frame (execQpStateWrite_kp h) ?_
    | .rdmaAckReceive .., h => Agree.frame (execRdmaAckReceive_kp h) ?_
    | .rdmaNakReceive .., h => Agree.frame (execRdmaNakReceive_kp h) ?_
    | .rdmaReadResponse .., h => Agree.frame (execRdmaReadResponse_kp h) ?_
    | .rdmaRetransmitTimeout .., h => Agree.frame (execRdmaRetransmitTimeout_kp h) ?_
    | .rdmaWrite .., h => Agree.frame (execRdmaWrite_kp h) ?_
    | .rdmaRead .., h => Agree.frame (execRdmaRead_kp h) ?_
    | .sendIn .., h => Agree.frame (execSendIn_kp h) ?_
    | .mailboxRequest .., h => Agree.frame (execMailboxRequest_kp h) ?_
    | .replySend .., h => Agree.frame (execReplySend_kp h) ?_
    | .eventSend .., h => Agree.frame (execEventSend_kp h) ?_
    | .identify .., h => Agree.frame (execIdentify_kp h) ?_
    | .attest .., h => Agree.frame (execAttest_kp h) ?_
    | .sessionOpenStep1 .., h => Agree.frame (execSessionOpenStep1_kp h) ?_
    | .sessionOpenStep2 .., h => Agree.frame (execSessionOpenStep2_kp h) ?_
    | .sessionOpenTimeout .., h => Agree.frame (execSessionOpenTimeout_kp h) ?_
    | .sessionClose .., h => Agree.frame (execSessionClose_kp h) ?_
    | .powerSet .., h => Agree.frame (execPowerSet_kp h) ?_
    | .powerQuery .., h => Agree.frame (execPowerQuery_kp h) ?_
    | .partitionCreate .., h => Agree.frame (execPartitionCreate_kp h) ?_
    | .partitionDestroy .., h => Agree.frame (execPartitionDestroy_kp h) ?_
    | .partitionReset .., h => Agree.frame (execPartitionReset_kp h) ?_
    | .partitionQuery .., h => Agree.frame (execPartitionQuery_kp h) ?_
    | .mapSync .., h => Agree.frame (execMapSync_kp h) ?_
    | .rekey .., h => Agree.frame (execRekey_kp h) ?_
    | .faultResume .., h => Agree.frame (execFaultResume_kp h) ?_
    | .planLoad .., h => Agree.frame (execPlanLoad_kp h) ?_
    | .planStart .., h => Agree.frame (execPlanStart_kp h) ?_
    | .planDone .., h => Agree.frame (execPlanDone_kp h) ?_
    | .planAbort .., h => Agree.frame (execPlanAbort_kp h) ?_
    | .planStatus .., h => Agree.frame (execPlanStatus_kp h) ?_
    | .faultRead .., h => Agree.frame (execFaultRead_kp h) ?_
    | .eventSubscribe .., h => Agree.frame (execEventSubscribe_kp h) ?_
    | .linkStatus .., h => Agree.frame (execLinkStatus_kp h) ?_
    | .linkRetrain .., h => Agree.frame (execLinkRetrain_kp h) ?_
    | .routeSetRoutes .., h => Agree.frame (execRouteSetRoutes_kp h) ?_
    | .routeSetKnuckles .., h => Agree.frame (execRouteSetKnuckles_kp h) ?_
    | .marginReport .., h => Agree.frame (execMarginReport_kp h) ?_
    | .marginApply .., h => Agree.frame (execMarginApply_kp h) ?_
    | .fwStage .., h => Agree.frame (execFwStage_kp h) ?_
    | .fwCommit .., h => Agree.frame (execFwCommit_kp h) ?_
    | .coreRetest .., h => Agree.frame (execCoreRetest_kp h) ?_
    | .spareMap .., h => Agree.frame (execSpareMap_kp h) ?_
    | .memtest .., h => Agree.frame (execMemtest_kp h) ?_
    | .blankReport .., h => Agree.frame (execBlankReport_kp h) ?_
    | .deferredCommandRun .., h => Agree.frame (execDeferredCommandRun_kp h) ?_
    | .leadHeartbeat .., h => Agree.frame (execLeadHeartbeat_kp h) ?_
    | .electionStart .., h => Agree.frame (execElectionStart_kp h) ?_
    | .electionPropose .., h => Agree.frame (execElectionPropose_kp h) ?_
    | .leadOnlyMessage .., h => Agree.frame (execLeadOnlyMessage_kp h) ?_
    | .leadMessageTimeout .., h => Agree.frame (execLeadMessageTimeout_kp h) ?_
    | .nonceGet .., h => Agree.frame (execNonceGet_kp h) ?_
    | .wardSet .., h => Agree.frame (execWardSet_kp h) ?_
    | .hostKey .., h => Agree.frame (execHostKey_kp h) ?_
    | .provision .., h => Agree.frame (execProvision_kp h) ?_
    | .rotate .., h => Agree.frame (execRotate_kp h) ?_
    | .rollback .., h => Agree.frame (execRollback_kp h) ?_
    | .romBoot .., h => Agree.frame (execRomBoot_kp h) ?_
    | .bootlockSet .., h => Agree.frame (execBootlockSet_kp h) ?_
    | .wardAttest .., h => Agree.frame (execWardAttest_kp h) ?_
    | .wardKeyx .., h => Agree.frame (execWardKeyx_kp h) ?_
    | .wardOpComplete .., h => Agree.frame (execWardOpComplete_kp h) ?_
    | .measExtend .., h => Agree.frame (execMeasExtend_kp h) ?_
    | .epochWrite .., h => Agree.frame (execEpochWrite_kp h) ?_
    | .wardDebug .., h => Agree.frame (execWardDebug_kp h) ?_
    | .powerSequencerGo .., h => Agree.frame (execPowerSequencerGo_kp h) ?_
    | .powerStepComplete .., h => Agree.frame (execPowerStepComplete_kp h) ?_
    | .wakeRequest .., h => Agree.frame (execWakeRequest_kp h) ?_
    | .dieReset .., h => Agree.frame (execDieReset_kp h) ?_
    | .powerGoodRise .., h => Agree.frame (execPowerGoodRise_kp h) ?_
    | .powerGoodFall .., h => Agree.frame (execPowerGoodFall_kp h) ?_
    | .junctionSample .., h => Agree.frame (execJunctionSample_kp h) ?_
    | .throttleStep .., h => Agree.frame (execThrottleStep_kp h) ?_
    | .throttleReleaseStep .., h => Agree.frame (execThrottleReleaseStep_kp h) ?_
    | .powerFigureExchange .., h => Agree.frame (execPowerFigureExchange_kp h) ?_
    | .thermalTrip .., h => Agree.frame (execThermalTrip_kp h) ?_
    | .railFault .., h => Agree.frame (execRailFault_kp h) ?_
    | .refclkLoss .., h => Agree.frame (execRefclkLoss_kp h) ?_
    | .pllLockLoss .., h => Agree.frame (execPllLockLoss_kp h) ?_
    | .slowclkLoss .., h => Agree.frame (execSlowclkLoss_kp h) ?_
    | .slowclkRestore .., h => Agree.frame (execSlowclkRestore_kp h) ?_
    | .memoryTestPhaseEnd .., h => Agree.frame (execMemoryTestPhaseEnd_kp h) ?_
    | .b0okClear .., h => Agree.frame (execB0okClear_kp h) ?_
    | .chunkSend .., h => Agree.frame (execChunkSend_kp h) ?_
    | .chunkReceive .., h => Agree.frame (execChunkReceive_kp h) ?_
    | .faultPost .., h => Agree.frame (execFaultPost_kp h) ?_
    | .faultPop .., h => Agree.frame (execFaultPop_kp h) ?_
    | .ageSample .., h => Agree.frame (execAgeSample_kp h) ?_
    | .ageSampleNow .., h => Agree.frame (execAgeSampleNow_kp h) ?_
    | .marginEvaluate .., h => Agree.frame (execMarginEvaluate_kp h) ?_
    | .i3cPrivateRead .., h => Agree.frame (execI3cPrivateRead_kp h) ?_
    | .i3cPrivateWrite .., h => Agree.frame (execI3cPrivateWrite_kp h) ?_
    | .i3cCcc .., h => Agree.frame (execI3cCcc_kp h) ?_
    | .i3cBlockRefresh .., h => Agree.frame (execI3cBlockRefresh_kp h) ?_
    | .localCounterTick .., h => Agree.frame (execLocalCounterTick_kp h) ?_
    | .builtInSelfTestEnd .., h => Agree.frame (execBuiltInSelfTestEnd_kp h) ?_
    | .chunkSendComplete .., h => Agree.frame (execChunkSendComplete_kp h) ?_
    | .eventSendComplete .., h => Agree.frame (execEventSendComplete_kp h) ?_
    | .portSleepWaitTimeout .., h => Agree.frame (execPortSleepWaitTimeout_kp h) ?_
    | .wardRelayTimeout .., h => Agree.frame (execWardRelayTimeout_kp h) ?_
  all_goals
    simp only [mayChange]
    decide +kernel

/-- Settles O6: the frames of the commands, one by one. -/
theorem everyCommandFrame : Obligations.EveryCommandFrame := fun c _ _ h => exec_frame c h

/-! Control registers -/

/-- The write of a plain register changes it by its access codes and starts nothing (R10). -/
theorem Dev.regWrite_plain (d : Dev) (by_ die : Nat) (r : Reg) (i s v : Nat) (h : plainReg r = true) :
    d.regWrite by_ die r i s v = d.writeGen ⟨r, die, i, s⟩ v := by
  unfold Dev.regWrite
  split
  case h_79 => rfl
  all_goals exact absurd h (by decide)

theorem Dev.encOk_congr {d e : Dev} (h : e.fuse = d.fuse) (f : Fld) (v : Nat) : e.encOk f v = d.encOk f v := by
  cases d; cases e; simp only at h; subst h; rfl

theorem Dev.get_of_raw {d e : Dev} {k : RKey} (h : e.raw k = d.raw k) {f : Fld} (hf : f.reg = k.reg) :
    e.get f k.die k.i k.s = d.get f k.die k.i k.s := by
  have hk : (⟨f.reg, k.die, k.i, k.s⟩ : RKey) = k := by rw [hf]
  simp only [Dev.get, hk, h]

theorem Reg.fld_reg {r : Reg} {row : FldRow} (h : row ∈ r.rows) : row.fld.reg = r := by
  have := List.all_eq_true.mp (Reg.rows_apart r).1 row h
  simp only [Bool.and_eq_true, decide_eq_true_eq] at this
  exact this.1.1

/-- A write in the middle of changes that leave its register, the fuses and BOOTLOCK alone is a write across all of them. -/
theorem Dev.written_of_between {d d' e' e : Dev} {k : RKey} {v : Nat} (h : d'.written e' k v) (hfuse : d'.fuse = d.fuse)
    (hlock : d'.on? F.WRD_STAT_BOOTLOCK k.die = d.on? F.WRD_STAT_BOOTLOCK k.die) (hbefore : d'.raw k = d.raw k) (hafter : e.raw k = e'.raw k) :
    d.written e k v := by
  intro row hrow
  have hw := h row hrow
  have hreg := Reg.fld_reg hrow
  simp only [Dev.get_of_raw hbefore hreg, Dev.encOk_congr hfuse, hlock] at hw
  simp only [Dev.get_of_raw hafter hreg]
  exact hw

theorem Dev.writeGen_lock (d : Dev) {r : Reg} (h : plainReg r = true) (die die' i s v : Nat) :
    (d.writeGen ⟨r, die, i, s⟩ v).on? F.WRD_STAT_BOOTLOCK die' = d.on? F.WRD_STAT_BOOTLOCK die' := by
  have hne : (⟨F.WRD_STAT_BOOTLOCK.reg, die', 0, 0⟩ : RKey) ≠ ⟨r, die, i, s⟩ := by
    rintro ⟨⟩
    exact absurd h (by decide)
  simp only [Dev.on?, Dev.get, (Dev.writeGen_written d _ v).2 _ hne]

/-- A steward's access to its own die's control space acts without the Ward of another (R372). -/
theorem Dev.stwAccess_own {d : Dev} {die : Nat} (hrun : d.stewardRuns die = true) (hdie : die < d.ndies) (act : Dev → Dev) :
    d.stwAccess die die act = act d := by
  have hn : ¬ d.ndies ≤ die := Nat.not_le.mpr hdie
  simp [Dev.stwAccess, hrun, hn]

theorem Dev.stwResult_answered (d : Dev) (die : Nat) (bs : Bytes) (bad : Bool) : (d.stwResult die bs bad).answered die bs bad := by
  simp [Dev.answered, Dev.stwResult, KMap.at?_put]

section
variable {d : Dev} {die off : Nat} {r : Reg} {i : Nat} (hrun : d.stewardRuns die = true) (hdie : die < d.ndies)

include hrun hdie in
/-- A steward's write where no register is changes none and is recorded (R24). -/
theorem Dev.stwWrite_miss (hmiss : d.regHere off = none) (v : Nat) : d.stwWrite die die off v = d.ctlMiss die off true := by
  rw [Dev.stwWrite, Dev.stwAccess_own hrun hdie, hmiss]

include hrun hdie in
/-- A steward's read where no register is answers 0 and is recorded (R24). -/
theorem Dev.stwRead_miss (hmiss : d.regHere off = none) : d.stwRead die die off = (d.ctlMiss die off false).stwResult die (zeros 4) false := by
  rw [Dev.stwRead, Dev.stwAccess_own hrun hdie, hmiss]

variable (hreg : d.regHere off = some (r, i)) (hup : d.regUp die r = true)
include hrun hdie hreg hup

/-- A steward's write of a register that belongs to no pair (R10). -/
theorem Dev.oneWrite_own (hlo : loOf r = none) (hhi : hiOf r = none) (v : Nat) :
    d.oneWrite die die off v = d.regWrite die die r i (d.selOf r die i) (v % 2 ^ 32) := by
  simp [Dev.oneWrite, Dev.stwWrite, Dev.stwAccess_own hrun hdie, hreg, hup, hlo, hhi]

/-- A steward's read of a lower half keeps the upper half for it (R12). -/
theorem Dev.loRead_own {hi : Reg} (hhi : hiOf r = some hi) :
    d.loRead die die off =
      { d with capt := d.capt.put (pairKey die die r i) (BitVec.ofNat 32 (d.regRead die hi i (d.selOf hi die i))) }.stwResult die
        (leBytes 4 (d.regRead die r i (d.selOf r die i))) false := by
  simp [Dev.loRead, Dev.stwRead, Dev.stwAccess_own hrun hdie, hreg, hup, hhi]

/-- A steward's write of a lower half is held (R12). -/
theorem Dev.pairWrite_lo_own {hi : Reg} (hhi : hiOf r = some hi) (v : Nat) :
    d.pairWrite die die off v false = { d with held := d.held.put (pairKey die die r i) (BitVec.ofNat 32 (v % 2 ^ 32)) } := by
  simp [Dev.pairWrite, Dev.stwWrite, Dev.stwAccess_own hrun hdie, hreg, hup, hhi]

/-- A steward's write of an upper half lets the held lower half take effect, then its own (R12). -/
theorem Dev.pairWrite_hi_held {lo : Reg} {x : Word} (hhi : hiOf r = none) (hlo : loOf r = some lo)
    (hheld : d.held.at? (pairKey die die lo i) = some x) (v : Nat) :
    d.pairWrite die die off v true =
      ({ d with held := d.held.del (pairKey die die lo i) }.regWrite die die lo i (d.selOf r die i) x.toNat).regWrite die die r i
        (d.selOf r die i) (v % 2 ^ 32) := by
  simp [Dev.pairWrite, Dev.stwWrite, Dev.stwAccess_own hrun hdie, hreg, hup, hhi, hlo, hheld]

/-- A steward's write of an upper half with no lower half held takes effect alone (R12). -/
theorem Dev.pairWrite_hi_alone {lo : Reg} (hhi : hiOf r = none) (hlo : loOf r = some lo)
    (hheld : d.held.at? (pairKey die die lo i) = none) (v : Nat) :
    d.pairWrite die die off v true = d.regWrite die die r i (d.selOf r die i) (v % 2 ^ 32) := by
  simp [Dev.pairWrite, Dev.stwWrite, Dev.stwAccess_own hrun hdie, hreg, hup, hhi, hlo, hheld]

end

/-- Both halves of a pair written, the lower first: each register holds what its own write leaves. -/
theorem Dev.written_pair (d : Dev) {lo r : Reg} (hplo : plainReg lo = true) (hne : r ≠ lo) (die i s x v : Nat) :
    let e := (d.writeGen ⟨lo, die, i, s⟩ x).writeGen ⟨r, die, i, s⟩ v
    d.written e ⟨r, die, i, s⟩ v ∧ d.written e ⟨lo, die, i, s⟩ x := by
  have hk : (⟨r, die, i, s⟩ : RKey) ≠ ⟨lo, die, i, s⟩ := by rintro ⟨⟩; exact hne rfl
  obtain ⟨hlow, hloOther⟩ := Dev.writeGen_written d ⟨lo, die, i, s⟩ x
  obtain ⟨hiw, hiOther⟩ := Dev.writeGen_written (d.writeGen ⟨lo, die, i, s⟩ x) ⟨r, die, i, s⟩ v
  exact ⟨Dev.written_of_between hiw rfl (Dev.writeGen_lock d hplo ..) (hloOther _ hk) rfl,
    Dev.written_of_between hlow rfl rfl rfl (hiOther _ hk.symm)⟩

/-- The value of a register write is a word, where its operands are in range. -/
theorem value_lt_of_wf {by_ die value : Nat} (h : (decide (by_ < 4) && decide (die < 4) && decide (value < 2 ^ 32)) = true) :
    value < 2 ^ 32 :=
  of_decide_eq_true (Bool.and_eq_true_iff.mp h).2

/-- Settles O31: the lemmas above name the one change each access makes at the steward's own die; a plain write obeys the access codes
(`Dev.writeGen_written`), the halves of a pair are two plain writes, and a miss posts a record (`Dev.post_posted`). -/
theorem controlRegisters : Obligations.ControlRegisters := by
  intro die off value
  refine ⟨Effect.registerWrite_of _ _ _ _ ?_, Effect.reg64LoRead_of _ _ _ ?_, Effect.reg64LoWrite_of _ _ _ _ ?_, Effect.reg64HiWrite_of _ _ _ _ ?_,
    fun write => Effect.controlAddressMiss_of _ _ _ _ ?_⟩
  · rintro d hwf - r i ⟨hrun, hdie, hreg, hup⟩ hlo hhi hplain
    rw [Dev.oneWrite_own hrun hdie hreg hup hlo hhi, Nat.mod_eq_of_lt (value_lt_of_wf hwf), Dev.regWrite_plain _ _ _ _ _ _ _ hplain]
    exact Dev.writeGen_written ..
  · rintro d - - r i hi ⟨hrun, hdie, hreg, hup⟩ hhi
    rw [Dev.loRead_own hrun hdie hreg hup hhi]
    exact ⟨Dev.stwResult_answered .., rfl, by simp [Dev.stwResult, KMap.at?_put]⟩
  · rintro d hwf - r i hi ⟨hrun, hdie, hreg, hup⟩ hhi
    rw [Dev.pairWrite_lo_own hrun hdie hreg hup hhi, Nat.mod_eq_of_lt (value_lt_of_wf hwf)]
    exact ⟨by simp [KMap.at?_put], rfl⟩
  · rintro d hwf - r i lo ⟨hrun, hdie, hreg, hup⟩ hhi hlo hplain hplo hne
    cases hheld : d.held.at? (pairKey die die lo i) with
    | some x =>
      rw [Dev.pairWrite_hi_held hrun hdie hreg hup hhi hlo hheld, Nat.mod_eq_of_lt (value_lt_of_wf hwf), Dev.regWrite_plain _ _ _ _ _ _ _ hplain,
        Dev.regWrite_plain _ _ _ _ _ _ _ hplo]
      obtain ⟨hr, hl⟩ := Dev.written_pair { d with held := d.held.del (pairKey die die lo i) } hplo hne die i (d.selOf r die i) x.toNat value
      exact ⟨by simp [Dev.writeGen, KMap.at?_del], Dev.written_of_between hr rfl rfl rfl rfl, Dev.written_of_between hl rfl rfl rfl rfl⟩
    | none =>
      rw [Dev.pairWrite_hi_alone hrun hdie hreg hup hhi hlo hheld, Nat.mod_eq_of_lt (value_lt_of_wf hwf), Dev.regWrite_plain _ _ _ _ _ _ _ hplain]
      obtain ⟨hr, hother⟩ := Dev.writeGen_written d ⟨r, die, i, d.selOf r die i⟩ value
      exact ⟨hheld, hr, hother _ (by rintro ⟨⟩; exact hne rfl)⟩
  · rintro d - - hrun hdie hmiss
    have hposted : ∀ w, d.posted (d.ctlMiss die off w) die ⟨9, if w then 2 else 1, 0, noPart, 0, 0, off⟩ := fun w => Dev.post_posted _ _ _ hrun
    cases write with
    | true =>
      simp only [Dev.missAccess, hmiss, Dev.stwWrite_miss hrun hdie hmiss]
      exact ⟨hposted true, fun h => nomatch h⟩
    | false =>
      simp only [Dev.missAccess, hmiss, Dev.stwRead_miss hrun hdie hmiss]
      exact ⟨hposted false, fun _ => Dev.stwResult_answered ..⟩

end Sys2Proof.Machine
end

section
/-!
The statements of 03_plan_words.md on the count, latch, loop, vector-function and tumbler words, the end of a plan, and what stops a
core before a word has its meaning.
-/
namespace Sys2Proof.Machine

/-! Messages of a core -/

@[simp] theorem Dev.setCore_read_deadbolt (d : Dev) (k : Nat) (c : Core) (cn p : Nat) : (d.setCore k c).deadbolt cn p = d.deadbolt cn p := rfl
@[simp] theorem Dev.setCore_read_hubDeadbolt (d : Dev) (k : Nat) (c : Core) (cn p : Nat) :
    (d.setCore k c).hubDeadbolt cn p = d.hubDeadbolt cn p := rfl
@[simp] theorem Dev.setCore_read_tumbMsg (d : Dev) (k : Nat) (c : Core) (i : Iss) (opc slot gen val imm : Nat) :
    (d.setCore k c).tumbMsg i opc slot gen val imm = d.tumbMsg i opc slot gen val imm := rfl

/-- What a core sends, it sends (R36, R271): in a package whose deadbolts and messages are those of `d`. -/
theorem Dev.coreSend_sentBy {d e : Dev} {cn p : Nat} (hdb : e.deadbolt cn p = d.deadbolt cn p) (hhub : e.hubDeadbolt cn p = d.hubDeadbolt cn p)
    (hctl : e.ctl = d.ctl) (m : CtlMsg) : sentBy d (e.coreSend cn p m) cn p m := by
  intro hoff hhubOff
  simp [Dev.coreSend, hdb, hhub, hoff, hhubOff, Dev.send, hctl]

/-! What the issue of a word comes to -/

/-- A word that leaves the fetch buffer changes PC and the two buffers alone. -/
theorem Core.advance_eq (c : Core) : ∃ fb lb, c.advance = { c with pc := c.pc + 1, fbuf := fb, lbuf := lb } := by
  unfold Core.advance
  split
  · exact ⟨_, _, rfl⟩
  · exact ⟨c.fbuf, c.lbuf, rfl⟩

@[simp] theorem Core.advance_st (c : Core) : c.advance.st = c.st := by obtain ⟨_, _, h⟩ := c.advance_eq; rw [h]
@[simp] theorem Core.advance_slots (c : Core) : c.advance.slots = c.slots := by obtain ⟨_, _, h⟩ := c.advance_eq; rw [h]
@[simp] theorem Core.advance_loops (c : Core) : c.advance.loops = c.loops := by obtain ⟨_, _, h⟩ := c.advance_eq; rw [h]
@[simp] theorem Core.advance_cvals (c : Core) : c.advance.cvals = c.cvals := by obtain ⟨_, _, h⟩ := c.advance_eq; rw [h]
@[simp] theorem Core.advance_vr (c : Core) : c.advance.vr = c.vr := by obtain ⟨_, _, h⟩ := c.advance_eq; rw [h]
@[simp] theorem Core.advance_unmet (c : Core) (mask : Nat) : c.advance.unmet mask = c.unmet mask := by rw [Core.unmet, Core.advance_slots]; rfl
@[simp] theorem Core.advance_lut (c : Core) : c.advance.lut = c.lut := by obtain ⟨_, _, h⟩ := c.advance_eq; rw [h]

section
variable {d : Dev} {cn p op : Nat} {resv : Iss → Bool} {reads : Iss → List Nat} {wait : Iss → Bool} {skip : Iss → Core → Core}
  {traps : Dev → Iss → List Trap} {act : Iss → Dev → Dev × Option Trap} {i : Iss}

theorem Issues.key {rs : List Nat} (h : Issues d cn p op rs i) : i.key = coreKey cn p := by
  obtain ⟨-, -, hkey, -⟩ := Dev.ready_iss h.1
  exact hkey

theorem Issues.cell {rs : List Nat} (h : Issues d cn p op rs i) : i.cn = cn := by
  obtain ⟨hcell, -⟩ := Dev.ready_iss h.1
  exact hcell

/-- A word with a reserved encoding leaves its core trapped with RESERVED. -/
theorem Dev.issue_reserved {rs : List Nat} (h : Issues d cn p op rs i) (hr : resv i = true) :
    ((d.issue cn p op resv reads wait skip traps act).coreAt (coreKey cn p)).trapped i.ix (3, 0) := by
  rw [Dev.issue_resv h hr]
  exact Dev.trapCore_core ..

variable (h : Issues d cn p op (reads i) i) (hr : resv i = false)
include h hr

/-- A word whose predicate does not hold only passes. -/
theorem Dev.issue_skipped (hx : i.executes = false) :
    (d.issue cn p op resv reads wait skip traps act).coreAt (coreKey cn p) = skip i i.c.advance := by
  rw [Dev.issue_eq h hr, if_pos hx, h.key, Dev.setCore_coreAt_self]

/-- A word that executes with a cause to trap leaves its core trapped on the lowest cause. -/
theorem Dev.issue_trapped {t : Trap} (hx : i.executes = true) (hw : wait i = false) (ht : lowest (traps d i) = some t) :
    ((d.issue cn p op resv reads wait skip traps act).coreAt (coreKey cn p)).trapped i.ix t := by
  rw [Dev.issue_eq h hr, if_neg (by simp [hx]), if_neg (by simp [hw]), ht]
  exact Dev.trapCore_core ..

/-- A word that executes with no cause to trap acts on the package in which it has left the fetch buffer. -/
theorem Dev.issue_acts {e : Dev} (hx : i.executes = true) (hw : wait i = false) (ht : traps d i = [])
    (ha : act i (d.setCore i.key i.c.advance) = (e, none)) : d.issue cn p op resv reads wait skip traps act = e := by
  rw [Dev.issue_eq h hr, if_neg (by simp [hx]), if_neg (by simp [hw]), ht]
  simp only [lowest, ha]

/-- A word that executes, cannot trap as things stand, and sends a message from a package that only its core's registers set apart: the
message is sent, and the core is as the word left it. -/
theorem Dev.issue_sends {e : Dev} {m : CtlMsg} {c : Core} (hx : i.executes = true) (hw : wait i = false) (ht : traps d i = [])
    (ha : act i (d.setCore i.key i.c.advance) = (e.coreSend cn p m, none)) (hdb : e.deadbolt cn p = d.deadbolt cn p)
    (hhub : e.hubDeadbolt cn p = d.hubDeadbolt cn p) (hctl : e.ctl = d.ctl) (hc : e.coreAt i.key = c) :
    sentBy d (d.issue cn p op resv reads wait skip traps act) cn p m ∧
      (d.issue cn p op resv reads wait skip traps act).coreAt (coreKey cn p) = c := by
  rw [Dev.issue_acts h hr hx hw ht ha, Dev.coreSend_coreAt, ← h.key]
  exact ⟨Dev.coreSend_sentBy hdb hhub hctl m, hc⟩

/-- A word that waits for nothing, cannot trap as things stand, and changes its own core alone by `f`: the core it leaves. -/
theorem Dev.issue_after {f : Core → Core} (hs : skip = noSkip) (hw : wait i = false) (ht : i.executes = true → traps d i = [])
    (ha : ∃ e, act i (d.setCore i.key i.c.advance) = (e, none) ∧ e.coreAt i.key = f i.c.advance) :
    (d.issue cn p op resv reads wait skip traps act).coreAt (coreKey cn p) = i.after f := by
  obtain ⟨e, hact, he⟩ := ha
  unfold Iss.after
  split
  case isTrue hx => rw [Dev.issue_acts h hr hx hw (ht hx) hact, ← h.key, he]
  case isFalse hx => rw [Dev.issue_skipped h hr (by simpa using hx), hs, noSkip]

end

/-! The lowest cause -/

theorem lowest_mem {l : List Trap} {t : Trap} (h : lowest l = some t) : t ∈ l := by
  induction l with
  | nil => cases h
  | cons x xs ih =>
    unfold lowest at h
    split at h
    next => cases h; simp
    next u hu =>
      split at h
      · exact List.mem_cons_of_mem _ (ih (hu.trans h))
      · cases h; simp

/-- The first of some causes is the one reported, where none after it is lower. -/
theorem lowest_cons {t : Trap} {l : List Trap} (h : ∀ u ∈ l, t.1 ≤ u.1) : lowest (t :: l) = some t := by
  unfold lowest
  split
  next => rfl
  next u hu => rw [if_neg (Nat.not_lt.mpr (h u (lowest_mem hu)))]

theorem alignTrap_nil {a k : Nat} (h : a % k = 0) : alignTrap a k = [] := if_pos h

theorem alignTrap_bad {a k : Nat} (h : a % k ≠ 0) : alignTrap a k = [(9, a)] := if_neg h

theorem alignTrap_cause {a k : Nat} {u : Trap} (h : u ∈ alignTrap a k) : u.1 = 9 := by
  unfold alignTrap at h
  split at h
  · cases h
  · rw [List.mem_singleton.mp h]

/-- The addresses of a tile's elements and scales (R72): a format without a scale has none to align. -/
theorem scaleTrap_nil {l : List Trap} {fmt a : Nat} (hl : l = []) (h : fmt ≠ 7 → a % 64 = 0) :
    l ++ (if fmt = 7 then [] else alignTrap a 64) = [] := by
  rw [hl, List.nil_append]
  split
  case isTrue => rfl
  case isFalse h7 => exact alignTrap_nil (h h7)

/-- A field of one bit that is not 0 is 1. -/
theorem Iss.bit_one {i : Iss} {n : Nat} (h : i.f n n ≠ 0) : i.f n n = 1 := by
  have hlt := bitsOf_lt i.w n n
  simp only [Iss.f, Nat.add_sub_cancel_left, Nat.pow_one] at *
  omega

/-! Count words -/

/-- NOP's command on the word that is next: what stops issue before an opcode is known, or else the issue of a NOP (R81, R82, R67). -/
theorem Dev.wNop_ready {d : Dev} {cell core : Nat} {i : Iss} (h : d.ready cell core = some i) :
    d.wNop cell core =
      if d.atLimit i then d.trapCore cell core i.ix 0 (2, (d.cellAt cell).plimit * 64)
      else if i.ue then d.trapCore cell core i.ix 0 (1, 8 * i.ix)
      else if !opcodes.contains i.op then d.trapCore cell core i.ix i.w (3, 0)
      else d.issueReg cell core 0 (fun i => resvOutside [] i.w) noReads fun _ c => c := by
  rw [Dev.wNop, h]

theorem Dev.wNop_issues {d : Dev} {cell core op : Nat} {reads : List Nat} {i : Iss} (h : Issues d cell core op reads i) (hop : op ∈ opcodes) :
    d.wNop cell core = d.issueReg cell core 0 (fun i => resvOutside [] i.w) noReads fun _ c => c := by
  obtain ⟨hready, hue, hlimit, rfl, -⟩ := h
  simp [Dev.wNop_ready hready, hue, hlimit, hop]

/-- Settles O8: each word changes its own core alone (`Dev.issueReg_core`), by the change that the statement names. -/
theorem countWords : Obligations.CountWords := by
  intro cell core
  refine ⟨Effect.nop_of _ _ ?_, Effect.cset_of _ _ ?_, Effect.calc_of _ _ ?_, Effect.cmin_of _ _ ?_, Effect.flags_of _ _ ?_,
    Effect.dcap_of _ _ ?_⟩
  · intro d _ _ i hi hr
    rw [Dev.wNop_issues hi (by decide), Dev.issueReg_core hi hr, Iss.after, ite_self]
  · exact fun d _ _ i hi hr => Dev.issueReg_core hi hr
  · exact fun d _ _ i hi hr => Dev.issueReg_core hi hr
  · exact fun d _ _ i hi hr => Dev.issueReg_core hi hr
  · exact fun d _ _ i hi hr => Dev.issueReg_core hi hr
  · exact fun d _ _ i hi hr hcap => Dev.issueReg_core hi (by simp [hr, hcap])

/-! Latch words -/

/-- Settles O10: with aligned addresses MTA and MTB change their own core alone (`Dev.issue_after`); a misaligned element address is the
first of causes that are all ALIGN. -/
theorem latchWords : Obligations.LatchWords := by
  intro cell core
  refine ⟨Effect.mta_of _ _ ?_, Effect.mtb_of _ _ ?_, ?_⟩
  · intro d _ _ i hi hr hfmt helem hscale
    exact Dev.issue_after hi (by simp [hr, hfmt]) rfl rfl (fun _ => scaleTrap_nil (alignTrap_nil helem) hscale)
      ⟨_, rfl, by simp only [Dev.setCore_coreAt_self]⟩
  · intro d _ _ i hi hr hfmt helem hscale hbitmap
    refine Dev.issue_after hi (by simp [hr, hfmt]) rfl rfl (fun _ => ?_) ⟨_, rfl, by simp only [Dev.setCore_coreAt_self]⟩
    rw [scaleTrap_nil (alignTrap_nil helem) hscale, List.nil_append]
    split
    case isTrue => rfl
    case isFalse h0 => exact alignTrap_nil (hbitmap (Iss.bit_one h0))
  · intro s i hup hi hr hfmt hx hbad
    have heff : Effect (.mta cell core) fun d e => ∀ i, Issues d cell core 0x18 [] i → resvOutside [(29, 16)] i.w = false → i.f 29 26 ≤ 7 →
        i.executes = true → i.c.a? (i.f 19 16) % 64 ≠ 0 → (e.coreAt (coreKey cell core)).trapped i.ix (9, i.c.a? (i.f 19 16)) :=
      Effect.mta_of _ _ fun d _ _ i hi hr hfmt hx hbad => Dev.issue_trapped hi (by simp [hr, hfmt]) hx rfl (by
        rw [alignTrap_bad hbad]
        refine lowest_cons fun u hu => ?_
        split at hu
        · cases hu
        · exact Nat.le_of_eq (alignTrap_cause hu).symm)
    obtain ⟨t, hnext, hpend, htrap⟩ := heff s hup
    exact ⟨t, hnext, hpend, htrap i hi hr hfmt hx hbad⟩

/-! LOOP and the back-edge -/

/-- The last word of a LOOP's body (R71). -/
def Iss.loopLast (i : Iss) : Nat := i.ix + i.f 27 16 + 1

/-- The trip count that a LOOP fixes (R71). -/
def Iss.loopTrip (i : Iss) : Nat := if i.f 28 28 = 1 then min (i.c.cnt.getD (i.f 32 29) 0) (i.f 56 33) else i.f 56 33

section
variable {d : Dev} {cell core : Nat} {i : Iss} (hi : Issues d cell core 0x02 (if i.f 28 28 = 1 then [i.f 32 29] else []) i)
  (hr : resvOutside [(56, 16)] i.w = false)
include hi hr

/-- A LOOP that its predicate turns away skips its body. -/
theorem Dev.wLoop_skipped (hx : i.executes = false) :
    (d.wLoop cell core).coreAt (coreKey cell core) = i.c.advance.jump (i.loopLast + 1) :=
  Dev.issue_skipped hi hr hx

/-- A fifth level traps, whatever the body's end. -/
theorem Dev.wLoop_fifth (hx : i.executes = true) (hfull : i.c.loops.length = 4) :
    ((d.wLoop cell core).coreAt (coreKey cell core)).trapped i.ix (4, 0) := by
  refine Dev.issue_trapped hi hr hx rfl ?_
  rw [if_pos hfull]
  refine lowest_cons fun u hu => ?_
  split at hu
  next v _ =>
    split at hu
    · rw [List.mem_singleton.mp hu]; exact Nat.le_succ 4
    · cases hu
  next => cases hu

/-- A body that ends after the body that holds it traps. -/
theorem Dev.wLoop_overruns {v : LoopLvl} (hx : i.executes = true) (hroom : i.c.loops.length ≠ 4) (hv : i.c.loops.getLast? = some v)
    (hover : v.stop < i.loopLast) : ((d.wLoop cell core).coreAt (coreKey cell core)).trapped i.ix (5, v.stop) := by
  refine Dev.issue_trapped hi hr hx rfl ?_
  rw [if_neg hroom, hv]
  exact (congrArg lowest (if_pos hover)).trans rfl

/-- A LOOP with room for its level and its body opens it, or skips it where the trip count is 0. -/
theorem Dev.wLoop_opens (hx : i.executes = true) (hroom : i.c.loops.length ≠ 4)
    (hin : ∀ v, i.c.loops.getLast? = some v → ¬ v.stop < i.loopLast) :
    (d.wLoop cell core).coreAt (coreKey cell core) =
      if i.loopTrip = 0 then i.c.advance.jump (i.loopLast + 1)
      else { i.c.advance with loops := i.c.loops ++ [⟨i.ix + 1, i.loopLast, 0, i.loopTrip⟩], lbuf := [] } := by
  unfold Dev.wLoop
  rw [Dev.issue_acts hi hr hx rfl ?noTrap rfl, ← hi.key, Dev.setCore_coreAt_self, Dev.setCore_coreAt_self, Core.advance_loops]
  · rfl
  case noTrap =>
    rw [if_neg hroom, List.nil_append]
    split
    next v hv => exact if_neg (hin v hv)
    next => rfl

end

/-- The back-edge of the innermost level, where it is due (R71). -/
theorem Dev.backEdge_due {d : Dev} {cell core : Nat} {v : LoopLvl} (hst : (d.coreAt (coreKey cell core)).st = .run)
    (hrun : d.cellRuns cell = true) (htradd : (d.coreAt (coreKey cell core)).tradd = none)
    (hv : (d.coreAt (coreKey cell core)).loops.getLast? = some v) (hpc : (d.coreAt (coreKey cell core)).pc = v.stop + 1) :
    let c := d.coreAt (coreKey cell core)
    (d.backEdge cell core).coreAt (coreKey cell core) =
      if v.idx + 1 < v.trip then
        { c with loops := c.loops.dropLast ++ [{ v with idx := v.idx + 1 }], pc := v.start, fbuf := runFrom v.start c.lbuf }
      else { c with loops := c.loops.dropLast, lbuf := [] } := by
  have hdue : (d.coreAt (coreKey cell core)).backEdge = some v := by simp [Core.backEdge, hv, hpc]
  simp only [Dev.backEdge, hst, hrun, htradd, hdue, and_self, if_true]
  split <;> simp

/-- Settles O11: a LOOP's outcomes in the order of its statement, and the two outcomes of the back-edge. -/
theorem loopWords : Obligations.LoopWords := by
  intro cell core
  refine ⟨Effect.loopWord_of _ _ ?_, Effect.loopBackEdge_of _ _ ?_⟩
  · intro d _ _ i hi hr last trip c
    split
    case isTrue hx => exact Dev.wLoop_skipped hi hr hx
    case isFalse hx =>
      have hx : i.executes = true := by simpa using hx
      split
      case isTrue hfull => exact Dev.wLoop_fifth hi hr hx hfull.symm
      case isFalse hroom =>
        have hroom : i.c.loops.length ≠ 4 := fun h4 => hroom h4.symm
        split
        case isTrue hover =>
          obtain ⟨v, hv, hlt⟩ := hover
          exact ⟨v, hv, Dev.wLoop_overruns hi hr hx hroom hv hlt⟩
        case isFalse hin =>
          have hopens := Dev.wLoop_opens hi hr hx hroom fun v hv hlt => hin ⟨v, hv, hlt⟩
          split
          case isTrue h0 => exact hopens.trans (if_pos h0)
          case isFalse h0 => exact hopens.trans (if_neg h0)
  · intro d _ _ v hst hrun htradd hv hpc c c'
    have hedge := Dev.backEdge_due hst hrun htradd hv hpc
    split
    case isTrue hmore =>
      rw [show c' = _ from hedge, if_pos hmore]
      exact ⟨rfl, rfl⟩
    case isFalse hlast =>
      rw [show c' = _ from hedge, if_neg hlast]
      exact ⟨rfl, rfl⟩

/-! VOP -/

/-- A draw of the package's free choices leaves every core. -/
theorem Dev.coreAt_free (d : Dev) (n k : Nat) : { d with free := n }.coreAt k = d.coreAt k := rfl

theorem pure2_lane (f : Nat → Nat → Nat) (a b : List Nat) {j : Nat} (hj : j < 16) :
    (pure2 f a b).1.getD j 0 = f (a.getD j 0) (b.getD j 0) := by
  simp [pure2, lanes2, List.getD_eq_getElem?_getD, hj]

theorem select_lane {k : Nat} {lut : List Nat} (a b c : List Nat) {j : Nat} (hj : j < 16) :
    (vopFn k 0x0A lut a b c).1.getD j 0 = if c.getD j 0 ≠ 0 then a.getD j 0 else b.getD j 0 := by
  simp [vopFn, List.getD_eq_getElem?_getD, hj]

theorem lane0_above (x : Nat) {j : Nat} (hj : 0 < j) : (lane0 x).getD j 0 = 0 := by
  obtain ⟨k, rfl⟩ := Nat.exists_eq_succ_of_ne_zero (Nat.ne_of_gt hj)
  simp only [lane0, List.getD_eq_getElem?_getD, List.getElem?_cons_succ, List.getElem?_replicate]
  split <;> rfl

/-- Settles O14: VOP changes its own core alone (`Dev.issue_after`), and each function without rounding acts lane by lane (`pure2_lane`). -/
theorem vopWord : Obligations.VopWord := by
  refine ⟨fun cell core => Effect.vop_of _ _ ?_, ?_⟩
  · intro d _ _ i hi hr hfn hlut
    refine Dev.issue_after hi (by simp [hr, hfn]) rfl ?_ (fun _ => rfl) ⟨_, rfl, ?_⟩
    · by_cases hlookup : i.f 23 16 = 0x30
      · simp [hlut hlookup]
      · simp [hlookup]
    · rw [Dev.setCore_coreAt_self]
      simp only [Dev.coreAt_free, Dev.setCore_coreAt_self, Dev.setCore_free, Core.v?, Core.setV, Core.flag, Core.advance_lut, Core.advance_vr]
  · intro k lut a b c j hj lane x y
    have hlane := fun f => pure2_lane f a b hj
    refine ⟨select_lane a b c hj, hlane _, hlane _, hlane _, hlane _, hlane _, hlane _, hlane _, hlane _, hlane _, (hlane _).trans ?_,
      fun h0 => ⟨lane0_above _ h0, lane0_above _ h0⟩⟩
    simp only [maskLane, decide_eq_true_eq, x, y]

/-! Tumbler words -/

theorem Core.unmet_iff (c : Core) (mask : Nat) :
    c.unmet mask = true ↔ ∃ j s, c.slots[j]? = some s ∧ hasBit mask j = true ∧ s.armed = true ∧ s.met = false := by
  simp only [Core.unmet, List.any_eq_true, Prod.exists, List.mem_zipIdx_iff_getElem?, Bool.and_eq_true, Bool.not_eq_true']
  constructor
  · rintro ⟨s, j, hs, ⟨hbit, harmed⟩, hmet⟩
    exact ⟨j, s, hs, hbit, harmed, hmet⟩
  · rintro ⟨j, s, hs, hbit, harmed, hmet⟩
    exact ⟨s, j, hs, ⟨hbit, harmed⟩, hmet⟩

theorem Core.freeSlots_getElem? (c : Core) (mask j : Nat) :
    (c.freeSlots mask).slots[j]? =
      (c.slots[j]?).map fun s => if hasBit mask j = true then { s with armed := false, met := false } else s := by
  simp [Core.freeSlots, List.getElem?_map, List.getElem?_zipIdx, Function.comp_def]

/-- The message of a tumbler word, told by the cell that its command names. -/
theorem Dev.tumbMsg_issues {d : Dev} {cell core op : Nat} {reads : List Nat} {i : Iss} (h : Issues d cell core op reads i)
    (opc slot gen val imm : Nat) :
    d.tumbMsg i opc slot gen val imm =
      ⟨.core i.l, .bank (i.f 17 16), opc, slot, gen, i.l, tumbField (i.f 17 16) (i.f 33 18) (d.partOf cell), val, imm⟩ := by
  rw [Dev.tumbMsg, h.cell]

/-- The tumbler of a word lies in the partition's range on a die that the package has (R76). -/
def Dev.tumbInRange (d : Dev) (i : Iss) : Prop :=
  i.f 17 16 < d.ndies ∧ ((i.c.rngs.getD (i.f 17 16) ⟨0, 0, false⟩).has (i.f 33 18)) = true

/-- The slot that a TWAIT names. -/
def Iss.waitSlot (i : Iss) : WSlotC := i.c.slots.getD (i.f 57 56) ⟨false, false, 0, 0, 0, 0⟩

/-- The core that a TWAIT leaves at a local time: its slot is armed with the next generation, and the core blocks on it where BLK is 1 (R77). -/
def Iss.arms (i : Iss) (tick : Nat) : Core :=
  let c := { i.c.advance with
    slots := i.c.slots.set (i.f 57 56) ⟨true, false, (i.waitSlot.gen + 1) % 16, i.f 17 16, i.f 33 18, i.operand⟩ }
  if i.f 63 63 = 1 then c.block (2 ^ i.f 57 56) tick i.w else c

theorem Iss.arms_slots (i : Iss) (tick : Nat) :
    (i.arms tick).slots = i.c.slots.set (i.f 57 56) ⟨true, false, (i.waitSlot.gen + 1) % 16, i.f 17 16, i.f 33 18, i.operand⟩ := by
  unfold Iss.arms
  dsimp only
  split <;> rfl

theorem Iss.arms_st (i : Iss) (tick : Nat) : (i.arms tick).st = if i.f 63 63 = 1 then .wait else i.c.st := by
  unfold Iss.arms
  dsimp only
  split
  · rfl
  · exact Core.advance_st _

theorem Iss.arms_blk (i : Iss) (tick : Nat) (hblk : i.f 63 63 = 1) : (i.arms tick).blk = 2 ^ i.f 57 56 := by
  simp [Iss.arms, hblk, Core.block]

/-- TCADD's one reserved field [63:62] is BLK and the bit below it. -/
theorem Iss.f_pair_zero {i : Iss} (h : i.f 63 62 = 0) : i.f 63 63 = 0 ∧ i.f 62 62 = 0 := by
  simp only [Iss.f, bitsOf] at *
  omega

section
variable {d : Dev} {cell core : Nat} {i : Iss} (htest : d.testMode cell = false) (hx : i.executes = true)
include htest hx

/-- A TADD outside the partition's range traps with TUMBLER_RANGE. -/
theorem Dev.wTadd_out (hi : Issues d cell core 0x32 i.tumbReads i) (hslot : i.f 57 56 = 0) (hblk : i.f 63 63 = 0) (hout : ¬ d.tumbInRange i) :
    ((d.wTadd cell core).coreAt (coreKey cell core)).trapped i.ix (7, i.f 33 18 + 2 ^ 16 * i.f 17 16) :=
  Dev.issue_trapped hi (by simp [htest, tumbResv, hslot, hblk]) hx rfl (congrArg lowest (if_neg hout))

variable (hin : d.tumbInRange i)
include hin

theorem Dev.wTadd_sends (hi : Issues d cell core 0x32 i.tumbReads i) (hslot : i.f 57 56 = 0) (hblk : i.f 63 63 = 0) :
    sentBy d (d.wTadd cell core) cell core (d.tumbMsg i 1 0 0 i.operand 0) ∧ (d.wTadd cell core).coreAt (coreKey cell core) = i.c.advance :=
  Dev.issue_sends hi (by simp [htest, tumbResv, hslot, hblk]) hx rfl (if_pos hin) rfl rfl rfl rfl (Dev.setCore_coreAt_self ..)

theorem Dev.wTset_sends (hi : Issues d cell core 0x33 i.tumbReads i) (hslot : i.f 57 56 = 0) (hblk : i.f 63 63 = 0) :
    sentBy d (d.wTset cell core) cell core (d.tumbMsg i 2 0 0 i.operand 0) ∧ (d.wTset cell core).coreAt (coreKey cell core) = i.c.advance :=
  Dev.issue_sends hi (by simp [htest, tumbResv, hslot, hblk]) hx rfl (if_pos hin) rfl rfl rfl rfl (Dev.setCore_coreAt_self ..)

/-- TCADD asks for the comparison and keeps the count register that awaits the answer (R79). -/
theorem Dev.wTcadd_sends (hi : Issues d cell core 0x35 [i.f 61 58] i) (hslot : i.f 57 56 = 0) (htop : i.f 63 62 = 0)
    (hb0 : d.b0Level (cellDie cell) = true) :
    sentBy d (d.wTcadd cell core) cell core (d.tumbMsg i 6 0 0 (i.c.c? (i.f 61 58)) (i.f 55 34)) ∧
      (d.wTcadd cell core).coreAt (coreKey cell core) =
        { i.c.advance with cvals := i.c.cvals ++ [(i.f 61 58, tmbKey (i.f 17 16) (i.f 33 18))] } := by
  obtain ⟨hblk, hadd⟩ := Iss.f_pair_zero htop
  exact Dev.issue_sends hi (by simp [htest, tumbResv, hslot, hblk, hadd, hb0]) hx rfl (if_pos hin) rfl rfl rfl rfl
    (by simp only [Dev.setCore_coreAt_self, Core.advance_cvals])

/-- TRADD holds its message back and sends nothing (R78). -/
theorem Dev.wTradd_holds (hi : Issues d cell core 0x34 i.tumbReads i) (hslot : i.f 57 56 = 0) (hblk : i.f 63 63 = 0) :
    (d.wTradd cell core).ctl = d.ctl ∧ (d.wTradd cell core).coreAt (coreKey cell core) =
      { i.c.advance with tradd := some (d.tumbMsg i 3 0 0 i.operand 0) } := by
  unfold Dev.wTradd
  rw [Dev.issue_acts hi (by simp [htest, tumbResv, hslot, hblk]) hx rfl (if_pos hin) rfl, ← hi.key]
  simp only [Dev.setCore_coreAt_self, Dev.setCore_read_tumbMsg, Dev.setCore_ctl, and_self]

/-- A TWAIT whose slot still waits traps. -/
theorem Dev.wTwait_armed (hi : Issues d cell core 0x30 i.tumbReads i)
    (hbusy : i.waitSlot.armed = true ∧ i.waitSlot.met = false) :
    ((d.wTwait cell core).coreAt (coreKey cell core)).trapped i.ix (0xB, i.f 57 56) := by
  refine Dev.issue_trapped hi htest hx rfl ?_
  rw [show d.tumbTrap i = [] from if_pos hin, List.nil_append]
  exact congrArg lowest (if_pos (by simpa [Iss.waitSlot] using hbusy))

/-- A TWAIT whose slot is free sends its ARM. -/
theorem Dev.wTwait_arms (hi : Issues d cell core 0x30 i.tumbReads i)
    (hfree : ¬(i.waitSlot.armed = true ∧ i.waitSlot.met = false)) :
    sentBy d (d.wTwait cell core) cell core (d.tumbMsg i 4 (i.f 57 56) ((i.waitSlot.gen + 1) % 16) i.operand 0) ∧
      (d.wTwait cell core).coreAt (coreKey cell core) = i.arms (d.tick (cellDie cell)) := by
  have ht : d.tumbTrap i ++ (if i.waitSlot.armed && !i.waitSlot.met then [((0xB, i.f 57 56) : Trap)] else []) = [] := by
    rw [show d.tumbTrap i = [] from if_pos hin, List.nil_append]
    exact if_neg (by simpa using hfree)
  unfold Dev.wTwait
  rw [Dev.issue_acts hi htest hx rfl ht rfl, Dev.coreSend_coreAt, ← hi.key]
  simp only [Dev.setCore_coreAt_self, Dev.setCore_read_tumbMsg, Dev.setCore_read_tick, Core.advance_slots]
  exact ⟨Dev.coreSend_sentBy (by simp) (by simp) (by simp) _, rfl⟩

end

/-- Settles O17: each word's lemma above, with the message told by the cell (`Dev.tumbMsg_issues`). -/
theorem tumblerWords : Obligations.TumblerWords := by
  intro cell core k dieOf inRange value msg sends reads
  refine ⟨Effect.tadd_of _ _ ?_, Effect.tset_of _ _ ?_, Effect.tcadd_of _ _ ?_, Effect.twait_of _ _ ?_, Effect.wsync_of _ _ ?_, Core.unmet_iff⟩
  · intro d _ _ i hi htest hslot hblk hx
    split
    case isTrue hin =>
      have hsends := Dev.wTadd_sends htest hx hin hi hslot hblk
      rwa [Dev.tumbMsg_issues hi] at hsends
    case isFalse hout => exact Dev.wTadd_out htest hx hi hslot hblk hout
  · intro d _ _ i hi htest hslot hblk hx hin
    have hsends := Dev.wTset_sends htest hx hin hi hslot hblk
    rwa [Dev.tumbMsg_issues hi] at hsends
  · intro d _ _ i hi htest hslot htop hb0 hx hin
    have hsends := Dev.wTcadd_sends htest hx hin hi hslot htop hb0
    rwa [Dev.tumbMsg_issues hi] at hsends
  · intro d _ _ i hi htest hx hin j s
    split
    case isTrue hbusy => exact Dev.wTwait_armed htest hx hin hi hbusy
    case isFalse hfree =>
      obtain ⟨hsent, hcore⟩ := Dev.wTwait_arms htest hx hin hi hfree
      rw [Dev.tumbMsg_issues hi] at hsent
      rw [hcore]
      exact ⟨hsent, Iss.arms_slots .., Iss.arms_st .., fun hblk => Iss.arms_blk _ _ hblk⟩
  · intro d _ _ i hi htest hr hx c
    have hcore : c = if i.c.unmet (i.f 19 16) then i.c.advance.block (i.f 19 16) (d.tick (cellDie cell)) i.w
        else i.c.advance.freeSlots (i.f 19 16) := by
      rw [← Core.advance_unmet]
      exact (Dev.issueReg_core hi (by simp [htest, hr])).trans (if_pos hx)
    split
    case isTrue hunmet =>
      rw [hcore, if_pos hunmet]
      exact ⟨rfl, rfl, Core.advance_slots _⟩
    case isFalse hmet =>
      rw [hcore, if_neg hmet]
      exact ⟨Core.advance_st _, fun j => by rw [Core.freeSlots_getElem?, Core.advance_slots]⟩

/-! TRADD, END and waits -/

theorem Core.drained_iff {c : Core} (hend : c.ending = true) :
    c.drained = true ↔ c.unmet c.blk = false ∧ c.mat = [] ∧ c.seedP = none ∧ c.lutP = none ∧ c.tradd = none ∧ c.cvals = [] := by
  simp [Core.drained, hend, and_assoc]

section
variable {d : Dev} {cell core : Nat}

/-- The release of a core that holds a TRADD (R78). -/
theorem Dev.traddRelease_holding {m : CtlMsg} (hm : (d.coreAt (coreKey cell core)).tradd = some m) :
    d.traddRelease cell core =
      if (d.coreAt (coreKey cell core)).mat = [] ∧ (d.coreAt (coreKey cell core)).seedP = none ∧ (d.coreAt (coreKey cell core)).lutP = none then
        (d.setCore (coreKey cell core) { d.coreAt (coreKey cell core) with tradd := none }).coreSend cell core m
      else d := by
  simp [Dev.traddRelease, hm, and_assoc]

/-- The end of a core that END has blocked (R75). -/
theorem Dev.coreDone_ending (hst : (d.coreAt (coreKey cell core)).st = .wait) (hend : (d.coreAt (coreKey cell core)).ending = true)
    (hrun : d.cellRuns cell = true) :
    let c := d.coreAt (coreKey cell core)
    d.coreDone cell core =
      if c.unmet c.blk = false ∧ c.mat = [] ∧ c.seedP = none ∧ c.lutP = none ∧ c.tradd = none ∧ c.cvals = [] then
        d.setCore (coreKey cell core) { c.freeSlots c.blk with st := .done, blk := 0, ending := false }
      else d := by
  simp only [Dev.coreDone, hst, hrun, Core.drained_iff hend, true_and, and_true]

/-- The test of a wait's time at a core that a slot still blocks (R77). -/
theorem Dev.coreTimeout_waiting (hst : (d.coreAt (coreKey cell core)).st = .wait)
    (hunmet : (d.coreAt (coreKey cell core)).unmet (d.coreAt (coreKey cell core)).blk = true) (hrun : d.cellRuns cell = true) :
    let c := d.coreAt (coreKey cell core)
    let t := (d.cellAt cell).wtmo
    d.coreTimeout cell core =
      if t ≠ 0 ∧ d.late (cellDie cell) c.blkAt t = true then d.trapCore cell core (c.pc - 1) c.blkW (0xE, c.lowestUnmet c.blk) else d := by
  simp only [Dev.coreTimeout, hst, hunmet, hrun, true_and, and_true]

end

/-- Settles O18: TRADD and END change their own core alone; the release, the end of a core and the end of a wait test the core as the
statement does. -/
theorem coreEndsAndWaits : Obligations.CoreEndsAndWaits := by
  intro cell core k
  refine ⟨Effect.tradd_of _ _ ?_, Effect.traddRelease_of _ _ ?_, Effect.endWord_of _ _ ?_, Effect.coreDone_of _ _ ?_,
    Effect.coreWaitTimeout_of _ _ ?_⟩
  · intro d _ _ i hi htest hslot hblk hx hdie hrange
    have htradd := Dev.wTradd_holds htest hx ⟨hdie, hrange⟩ hi hslot hblk
    rwa [Dev.tumbMsg_issues hi] at htradd
  · intro d _ _ m hm
    rw [Dev.traddRelease_holding hm]
    split
    case isTrue hended =>
      rw [Dev.coreSend_coreAt, Dev.setCore_coreAt_self]
      exact ⟨rfl, Dev.coreSend_sentBy (by simp) (by simp) (by simp) m⟩
    case isFalse => exact ⟨rfl, rfl⟩
  · intro d _ _ i hi hr hx
    rw [← Core.advance_slots i.c]
    exact (Dev.issueReg_core hi hr).trans (if_pos hx)
  · intro d _ _ c hst hend hrun
    rw [Dev.coreDone_ending hst hend hrun]
    split
    case isTrue => rw [Dev.setCore_coreAt_self]; exact ⟨rfl, rfl⟩
    case isFalse => rfl
  · intro d _ _ c t hst hunmet hrun
    rw [Dev.coreTimeout_waiting hst hunmet hrun]
    split
    case isTrue => exact Dev.trapCore_core ..
    case isFalse => rfl

/-! What stops a core before a word has its meaning -/

theorem resvOutside_any {w : Nat} (hw : w / 2 ^ 16 ≠ 0) : resvOutside [] w = true := by
  simp only [resvOutside, List.foldl_nil, bne_iff_ne]
  exact Nat.mul_ne_zero hw (Nat.ne_of_gt (Nat.two_pow_pos 16))

/-- A word whose bits above the highest listed one are not all 0 has a reserved field that is not 0 (R66): what is left of its operand bits
without the listed ones is their quotient by the listed ones' range. -/
theorem resvOutside_above {hi w : Nat} (hhi : 16 ≤ hi) (hw : w / 2 ^ (hi + 1) ≠ 0) : resvOutside [(hi, 16)] w = true := by
  have hq : w / 2 ^ 16 / 2 ^ (hi + 1 - 16) ≠ 0 := by
    rwa [Nat.div_div_eq_div_mul, ← Nat.pow_add, show 16 + (hi + 1 - 16) = hi + 1 by omega]
  have hsplit := Nat.div_add_mod (w / 2 ^ 16) (2 ^ (hi + 1 - 16))
  have hpos := Nat.mul_pos (Nat.two_pow_pos (hi + 1 - 16)) (Nat.pos_of_ne_zero hq)
  simp only [resvOutside, setBits, bitsOf, List.foldl_cons, List.foldl_nil, Nat.mul_div_cancel _ (Nat.two_pow_pos 16), Nat.zero_mod,
    Nat.zero_mul, Nat.add_zero, bne_iff_ne, ← Nat.sub_mul]
  exact Nat.mul_ne_zero (by omega) (Nat.ne_of_gt (Nat.two_pow_pos 16))

/-- Settles O19: the three ways in which issue stops before an opcode is known (`Dev.wNop_ready`), then reserved encodings
(`Dev.issue_reserved`). -/
theorem stopsBeforeMeaning : Obligations.StopsBeforeMeaning := by
  intro cell core k
  refine ⟨Effect.nop_of _ _ ?_, Effect.endWord_of _ _ ?_, Effect.cset_of _ _ ?_, Effect.aadd_of _ _ ?_, Effect.vop_of _ _ ?_,
    Effect.tadd_of _ _ ?_⟩
  · intro d _ _ i hready
    have hlimit : d.atLimit i = decide ((d.cellAt cell).plimit * 8 ≤ i.ix) := by
      obtain ⟨hcell, -⟩ := Dev.ready_iss hready
      rw [Dev.atLimit, hcell]
    rw [Dev.wNop_ready hready, hlimit]
    refine ⟨fun hend => ?_, fun hbelow hue => ?_, fun hbelow hue hop => ?_⟩
    · rw [if_pos (by simpa using hend)]
      exact Dev.trapCore_core ..
    · rw [if_neg (by simpa using hbelow), if_pos hue]
      exact Dev.trapCore_core ..
    · rw [if_neg (by simpa using hbelow), if_neg (by simp [hue]), if_pos (by simpa using hop)]
      exact Dev.trapCore_core ..
  · exact fun d _ _ i hi hw => Dev.issue_reserved hi (resvOutside_any hw)
  · exact fun d _ _ i hi hw => Dev.issue_reserved hi (resvOutside_above (by decide) hw)
  · exact fun d _ _ i hi hw => Dev.issue_reserved hi (resvOutside_above (by decide) hw)
  · exact fun d _ _ i hi hfn => Dev.issue_reserved hi (by simp [hfn])
  · exact fun d _ _ i hi hslot => Dev.issue_reserved hi (by simp [tumbResv, hslot])

/-! A package in which a word issues: what the statements above assume of one -/

/-- Every domain is up, cell 0 is unparked with its clock locked, and its core 0 runs with `w` as the first word of its plan. -/
def Dev.runningOn (w : Nat) : Dev :=
  ((({ Dev.reset with pw := List.replicate 4 ⟨true, true, true⟩ }.put F.CMP_CELL_CTL_PARK 0 0).put F.PWR_CLK_CMPLOCK 7 0).setCell 0
    ⟨0, 1, 0, false⟩).setCore 0 { Core.initial with st := .run, fbuf := [⟨0, w, false⟩] }

/-- The word that core 0 of cell 0 issues there. -/
def Dev.firstWord (w : Nat) : Iss :=
  ⟨0, 0, 0, (Dev.runningOn w).lnumOf 0 0, { Core.initial with st := .run, fbuf := [⟨0, w, false⟩] }, 0, w, false⟩

theorem Dev.runningOn_up (w : Nat) : (Place.ofCore 0 0).up (Dev.runningOn w) = true := rfl

theorem Dev.runningOn_cellRuns (w : Nat) : (Dev.runningOn w).cellRuns 0 = true := by
  show (Dev.runningOn 0).cellRuns 0 = true
  decide

theorem Dev.runningOn_coreAt (w : Nat) : (Dev.runningOn w).coreAt 0 = (Dev.firstWord w).c := Dev.setCore_coreAt_self ..

theorem Dev.runningOn_plimit (w : Nat) : ((Dev.runningOn w).cellAt 0).plimit = 1 := by
  show ((Dev.runningOn 0).cellAt 0).plimit = 1
  decide

theorem Dev.runningOn_issues (w : Nat) (reads : List Nat) : Issues (Dev.runningOn w) 0 0 (w % 256) reads (Dev.firstWord w) := by
  have hready : (Dev.runningOn w).ready 0 0 = some (Dev.firstWord w) := by
    simp only [Dev.ready, show coreKey 0 0 = 0 from rfl, Dev.runningOn_coreAt, Dev.runningOn_cellRuns, Dev.runningOn_plimit]
    rfl
  refine ⟨hready, rfl, ?_, rfl, fun v hv => nomatch hv⟩
  rw [Dev.atLimit, show (Dev.firstWord w).cn = 0 from rfl, Dev.runningOn_plimit]
  rfl

/-- CSET of register 3 to 5, by `countWords`. -/
theorem cset_witness : Completes (.cset 0 0) ⟨[], Dev.runningOn 0x530008⟩ fun e => (e.coreAt 0).cnt.getD 3 0 = 5 := by
  obtain ⟨-, hcset, -⟩ := countWords 0 0
  obtain ⟨t, hnext, hpending, hcore⟩ := hcset ⟨[], Dev.runningOn 0x530008⟩ ⟨by decide, Dev.runningOn_up _⟩
  have hcnt := congrArg (fun c => c.cnt.getD 3 0) (hcore _ (Dev.runningOn_issues 0x530008 []) (by decide))
  exact ⟨t, hnext, hpending, hcnt.trans (by decide)⟩

end Sys2Proof.Machine
end

section
/-!
The statement of 05_unfold.md: contexts of unfold engines, the parse of a row's lines, the output walk, row completion.
-/
namespace Sys2Proof.Machine

/-! Contexts -/

section
variable {κ α : Type} [DecidableEq κ]

theorem KMap.mem_of_at? {m : KMap κ α} {k : κ} {v : α} (h : KMap.at? m k = some v) : (k, v) ∈ m := by
  induction m with
  | nil => cases h
  | cons e m ih =>
    simp only [KMap.at?] at h
    split at h
    · rename_i hk
      cases h
      simp [hk]
    · exact List.mem_cons_of_mem _ (ih h)

theorem KMap.mem_put {m : KMap κ α} {k : κ} {v : α} {e : κ × α} (h : e ∈ KMap.put m k v) : e ∈ m ∨ e = (k, v) := by
  induction m with
  | nil => exact .inr (List.mem_singleton.mp h)
  | cons x m ih =>
    simp only [KMap.put] at h
    split at h
    · rcases List.mem_cons.mp h with h | h
      · exact .inr h
      · exact .inl (List.mem_cons_of_mem _ h)
    · rcases List.mem_cons.mp h with h | h
      · exact .inl (h ▸ List.mem_cons_self)
      · exact (ih h).imp_left (List.mem_cons_of_mem _)

end

theorem Dev.unfAt_congr {d e : Dev} (h : e.unfs = d.unfs) (die u : Nat) : e.unfAt die u = d.unfAt die u := by
  simp only [Dev.unfAt, h]

theorem Dev.setUnf_unfAt (d : Dev) (die u v : Nat) (q : Unf) : (d.setUnf die u q).unfAt die v = if v = u then q else d.unfAt die v := by
  simp [Dev.setUnf, Dev.unfAt, KMap.atD_put]

@[simp] theorem Dev.setCtx_ctx_self (d : Dev) (die u x : Nat) (c : UCtx) : ((d.setCtx die u x c).unfAt die u).ctx.at? x = some c := by
  simp [Dev.setCtx, KMap.at?_put]

@[simp] theorem Dev.setCtx_read_eng (d : Dev) (die u x : Nat) (c : UCtx) (die' e' : Nat) : (d.setCtx die u x c).eng die' e' = d.eng die' e' := rfl

/-- A context of a die's unfold engine after one of them is replaced. -/
theorem Dev.mem_setCtx {d : Dev} {die u x v : Nat} {c : UCtx} {q : Nat × UCtx} (h : q ∈ ((d.setCtx die u x c).unfAt die v).ctx) :
    q ∈ (d.unfAt die v).ctx ∨ q = (x, c) := by
  rw [Dev.setCtx, Dev.setUnf_unfAt] at h
  split at h
  case isTrue hv => exact hv ▸ KMap.mem_put h
  case isFalse => exact .inl h

/-! Where nothing follows from a change to an engine -/

/-- No output line of the die waits to leave. -/
def Dev.noneReady (d : Dev) (die : Nat) : Prop := ∀ u, u < 24 → ∀ q ∈ (d.unfAt die u).ctx, q.2.ready = []

theorem Dev.noneReady_congr {d e : Dev} {die : Nat} (h : e.unfs = d.unfs) (hd : d.noneReady die) : e.noneReady die := by
  simpa only [Dev.noneReady, Dev.unfAt_congr h] using hd

theorem Dev.noneReady_setCtx {d : Dev} {die u x : Nat} {c : UCtx} (h : d.noneReady die) (hc : c.ready = []) : (d.setCtx die u x c).noneReady die := by
  intro v hv q hq
  rcases Dev.mem_setCtx hq with hq | rfl
  · exact h v hv q hq
  · exact hc

/-- A context without output lines that wait sends none. -/
theorem Dev.ctxPump_noneReady {d : Dev} {die u x : Nat} (h : ∀ c, (d.unfAt die u).ctx.at? x = some c → c.ready = []) (n : Nat) :
    d.ctxPump die u x n = d := by
  cases n with
  | zero => rfl
  | succ n =>
    unfold Dev.ctxPump
    split
    · rfl
    next c hc => simp [h c hc]

theorem Dev.rowsPump_noneReady {d : Dev} {die : Nat} (h : d.noneReady die) (e : Nat) : d.rowsPump die e = d := by
  refine List.foldlRecOn (motive := (· = d)) _ _ rfl ?_
  intro _ hd u hu
  rw [hd]
  refine List.foldlRecOn (motive := (· = d)) _ _ rfl ?_
  intro _ hd q _
  rw [hd]
  split
  · exact Dev.ctxPump_noneReady (fun c hc => h u (List.mem_range.mp hu) _ (KMap.mem_of_at? hc)) _
  · rfl

/-- An engine whose window holds no data that has returned writes none. -/
theorem Dev.pump_noneHeld {d : Dev} {die e : Nat} (h : ∀ s ∈ (d.eng die e).slots, s.st ≠ .held) (n : Nat) : d.pump die e n = d := by
  cases n with
  | zero => rfl
  | succ n =>
    have hnone : d.nextWrite die e = none := by
      rw [Dev.nextWrite, List.findSome?_eq_none_iff]
      rintro ⟨s, j⟩ hs
      simp [h s (List.fst_mem_of_mem_zipIdx hs)]
    rw [Dev.pump, hnone]

theorem Dev.engSettle_going {d : Dev} {die e : Nat} (h : (d.eng die e).halting = false) : d.engSettle die e = d := by
  simp [Dev.engSettle, h]

/-- An engine that holds no returned data and is not on its way into a halt, in a die where no output line waits, stays as it is. -/
theorem Dev.engFollow_going {d : Dev} {die e : Nat} (hheld : ∀ s ∈ (d.eng die e).slots, s.st ≠ .held) (hready : d.noneReady die)
    (hhalt : (d.eng die e).halting = false) : d.engFollow die e = d := by
  rw [Dev.engFollow, Dev.pump_noneHeld hheld, Dev.rowsPump_noneReady hready, Dev.engSettle_going hhalt]

theorem Dev.ctxFollow_ctx {d : Dev} {die u x : Nat} {c : UCtx} (h : (d.unfAt die u).ctx.at? x = some c) (e : Dev) :
    d.ctxFollow die u x e = e.engFollow die c.eng := by
  simp [Dev.ctxFollow, h]

/-! A failed check -/

/-- A field set at a unit leaves a field of another register, or other bits, at any unit of the die. -/
theorem Dev.get_put_apart (d : Dev) (f g : Fld) (v : Nat) {die i j s t : Nat} (hg : g.hi < 32) (hf : f.lo ≤ f.hi)
    (h : g.reg ≠ f.reg ∨ f.hi < g.lo ∨ g.hi < f.lo) : (d.put f v die i s).get g die j t = d.get g die j t :=
  Dev.get_put_ne _ _ _ _ _ _ _ _ _ _ hg hf (h.imp_right fun h => .inr (.inr (.inr h)))

/-- A failed check leaves an engine at work on its way into a halt, with the failure after those that it has met. -/
theorem Dev.engFail_eng {d : Dev} {die e : Nat} (hlive : d.tenLive die e = true) (n ix : Nat) (f : Fail) :
    ∃ armed, (d.engFail die e n ix f).eng die e =
      { d.eng die e with fails := (d.eng die e).fails ++ [(n, ix, f)], armed := armed, halting := true } := by
  have hlive' : (d.modEng die e fun g => { g with fails := g.fails ++ [(n, ix, f)] }).tenLive die e = true := hlive
  unfold Dev.engFail Dev.engStop
  rw [if_pos hlive']
  simp only [Dev.engWithdraw, Dev.modEng, Dev.setEng_eng_self]
  split <;> simp

theorem Dev.freeRows_get (d : Dev) (die e : Nat) (f : Fld) (hf : f.reg ≠ .UNF_STAT ∨ 3 < f.lo) (hhi : f.hi < 32) (i s : Nat) :
    (d.freeRows die e).get f die i s = d.get f die i s := by
  refine List.foldlRecOn (motive := fun d' : Dev => d'.get f die i s = d.get f die i s) _ _ rfl ?_
  intro d' hd u _
  dsimp only
  split
  · exact hd
  · rw [Dev.get_put_apart _ _ _ _ hhi (by decide) (hf.imp_right .inl)]
    exact hd

/-- The status of an engine shows the cause that it records. -/
theorem Dev.engRecord_cause (d : Dev) (die e : Nat) (x : Nat × Nat × Fail) (res : Bool) :
    (d.engRecord die e x res).get F.TEN_STAT_CAUSE die e = x.2.2.cause % 2 ^ 8 := by
  simp only [Dev.engRecord, Dev.put64]
  rw [Agree.get (Dev.post_kp (hμ := Within.refl _) (hκ := Agree.refl ..) ..) _ (by decide) (by decide)]
  repeat rw [Dev.get_put_apart _ _ _ _ (by decide) (by decide) (by decide)]
  exact Dev.get_put _ _ _ _ _ _ (by decide) (by decide)

/-- The halt for a failure that cannot be resumed, once nothing of the engine is under way (R110). -/
theorem Dev.engSettle_halts {d : Dev} {die e : Nat} {x : Nat × Nat × Fail} (hlive : d.tenLive die e = true) (hhalt : (d.eng die e).halting = true)
    (hslots : (d.eng die e).slots = []) (hfails : (d.eng die e).fails = [x]) (hout : ∀ q ∈ d.rowsOf die e, q.out = [])
    (hres : resumable x.2.2.cause = false) :
    ∃ g, d.engSettle die e = (((d.engRecord die e x false).setTen die e tenHalt).freeRows die e).setEng die e g := by
  have hbusy : d.engBusy die e = false := by simpa [Dev.engBusy, hslots] using hout
  have hfail : (d.eng die e).theFail = some x := by simp [Eng.theFail, Eng.allFails, hfails, hslots, hres, lowestFail]
  rw [Dev.engSettle]
  simp only [hhalt, hlive, hbusy, hfail, hres, Bool.not_true, Bool.or_false, Bool.false_eq_true, if_false]
  exact ⟨_, rfl⟩

/-- An engine at work that has met no failure and has nothing under way: no window slot, no unanswered output line of its rows, and no
output line of the die that waits. -/
def Dev.nothingUnderWay (d : Dev) (die e : Nat) : Prop :=
  d.tenLive die e = true ∧ (d.eng die e).slots = [] ∧ (d.eng die e).fails = [] ∧ d.noneReady die ∧ ∀ q ∈ d.rowsOf die e, q.out = []

theorem Agree.tenLive {μ : Nat} {d d' : Dev} (h : Agree μ d d') (hf : μ.testBit 368 = false) (hp : μ.testBit 369 = false)
    (hr : μ.testBit Reg.TEN_STAT.ctorIdx = false) (die e : Nat) : d'.tenLive die e = d.tenLive die e := by
  simp only [Dev.tenLive, Dev.tenSt, Dev.computeUp, Dev.pwOf, h.get F.TEN_STAT_STATE hf hr, h.pw hp]

/-- A mask that leaves engines, unfold engines, power and TEN_STAT alone keeps what is under way. -/
theorem Agree.nothingUnderWay {μ : Nat} {d d' : Dev} (h : Agree μ d d') (hf : μ.testBit 368 = false) (hp : μ.testBit 369 = false)
    (hr : μ.testBit Reg.TEN_STAT.ctorIdx = false) (he : μ.testBit 388 = false) (hu : μ.testBit 389 = false) {die e : Nat}
    (hd : d.nothingUnderWay die e) : d'.nothingUnderWay die e := by
  obtain ⟨hlive, hslots, hfails, hready, hout⟩ := hd
  have heng : d'.eng die e = d.eng die e := by simp only [Dev.eng, h.engs he]
  have hrows : d'.rowsOf die e = d.rowsOf die e := by simp only [Dev.rowsOf, h.unfs hu]
  exact ⟨(h.tenLive hf hp hr die e).trans hlive, heng ▸ hslots, heng ▸ hfails, Dev.noneReady_congr (h.unfs hu) hready, hrows ▸ hout⟩

/-- A failed check that cannot be resumed halts an engine that has nothing under way, with its cause; the records of unfold engines stay. -/
theorem Dev.engFail_halts {d : Dev} {die e : Nat} (h : d.nothingUnderWay die e) (n ix : Nat) {f : Fail} (hres : resumable f.cause = false) :
    let d' := (d.engFail die e n ix f).engFollow die e
    d'.tenSt die e = tenHalt ∧ d'.get F.TEN_STAT_CAUSE die e = f.cause % 2 ^ 8 ∧
      ∀ g : Fld, g.reg = .UNF_STAT → 3 < g.lo → g.hi < 32 → ∀ u, d'.get g die u = d.get g die u := by
  obtain ⟨hlive, hslots, hfails, hready, hout⟩ := h
  have hagree := Dev.engFail_kp (hμ := Within.refl _) (hκ := Agree.refl _ d) d die e n ix f
  have hunfs := hagree.unfs (by decide)
  obtain ⟨armed, heng⟩ := Dev.engFail_eng hlive n ix f
  obtain ⟨g, hsettle⟩ := Dev.engSettle_halts (x := (n, ix, f)) ((hagree.tenLive (by decide) (by decide) (by decide) die e).trans hlive)
    (by rw [heng]) (by rw [heng, hslots]) (by rw [heng, hfails]; rfl) (by rwa [Dev.rowsOf, hunfs]) hres
  dsimp only
  rw [Dev.engFollow, Dev.pump_noneHeld (by simp [heng, hslots]), Dev.rowsPump_noneReady (Dev.noneReady_congr hunfs hready), hsettle]
  simp only [Dev.setEng_read_get, Dev.tenSt]
  refine ⟨?_, ?_, fun g hreg hlo hhi u => ?_⟩
  · rw [Dev.freeRows_get _ _ _ _ (.inl (by decide)) (by decide)]
    exact Dev.get_put _ _ _ _ _ _ (by decide) (by decide)
  · rw [Dev.freeRows_get _ _ _ _ (.inl (by decide)) (by decide), Dev.setTen, Dev.get_put_apart _ _ _ _ (by decide) (by decide) (by decide),
      Dev.engRecord_cause]
  · have hreg' : g.reg ≠ .TEN_STAT := by rw [hreg]; decide
    rw [Dev.freeRows_get _ _ _ _ (.inr hlo) hhi, Dev.setTen, Dev.get_put_ne _ _ _ _ _ _ _ _ _ _ hhi (by decide) (.inl hreg'),
      Agree.get (Dev.engRecord_kp (hμ := Within.refl _) (hκ := Agree.refl ..) ..) _ (by decide) (by rw [hreg]; decide),
      hagree.get _ (by decide) (by rw [hreg]; decide)]

/-- What an unfold engine records of a failed check (R140), unless it holds a record. -/
def Dev.unfNote (d : Dev) (die u : Nat) (c : UCtx) (code addr : Nat) (gr : Nat × Nat) : Dev :=
  if d.on? F.UNF_STAT_FLTV die u then d
  else
    let p := ((d.put F.UNF_STAT_FLTV 1 die u).put F.UNF_STAT_CODE code die u).put F.UNF_STAT_TENG c.eng die u
    let p1 := p.put64 F.UNF_FSEG_LO_ADDR F.UNF_FSEG_HI_ADDR addr die u
    ((p1.put F.UNF_FINFO_GROUP gr.1 die u).put F.UNF_FINFO_ROWS gr.2 die u).put F.UNF_FINFO_SEG c.seg die u

/-- A failed check marks its context, is recorded by the unfold engine, and fails the feeding engine. -/
theorem Dev.unfFail_eq (d : Dev) (die u x : Nat) (c : UCtx) (line code : Nat) (grp : Option (Nat × Nat)) (zero : Bool) :
    ∃ gr ix, d.unfFail die u x c line code grp zero =
      ((d.draw.2.setCtx die u x { c with bad := true }).unfNote die u c code (c.inAddr line) gr).engFail die c.eng c.ent ix
        ⟨0xE, code, c.inAddr line⟩ := ⟨_, _, rfl⟩

section
variable (d : Dev) (die u : Nat) (c : UCtx) (code addr : Nat) (gr : Nat × Nat)

/-- The record of an unfold engine changes registers of unfold engines alone. -/
theorem Dev.unfNote_kp : Agree 0xf00000000000 d (d.unfNote die u c code addr gr) := by
  unfold Dev.unfNote
  split
  · exact Agree.refl ..
  · iterate 3 refine Dev.put_kp (hf := rfl) (hμ := rfl) (hκ := ?_) ..
    refine Dev.put64_kp (hlo := rfl) (hhi := rfl) (hμ := rfl) (hκ := ?_) ..
    iterate 3 refine Dev.put_kp (hf := rfl) (hμ := rfl) (hκ := ?_) ..
    exact Agree.refl ..

/-- A record that is not yet held goes into the status. -/
theorem Dev.unfNote_first (h : d.get F.UNF_STAT_FLTV die u = 0) :
    (d.unfNote die u c code addr gr).get F.UNF_STAT_FLTV die u = 1 ∧ (d.unfNote die u c code addr gr).get F.UNF_STAT_CODE die u = code % 2 ^ 8 := by
  simp only [Dev.unfNote, Dev.on?, h, bne_self_eq_false, Bool.false_eq_true, if_false, Dev.put64]
  constructor
  · repeat rw [Dev.get_put_apart _ _ _ _ (by decide) (by decide) (by decide)]
    exact Dev.get_put _ _ _ _ _ _ (by decide) (by decide)
  · repeat rw [Dev.get_put_apart _ _ _ _ (by decide) (by decide) (by decide)]
    exact Dev.get_put _ _ _ _ _ _ (by decide) (by decide)

theorem Dev.unfNote_fltv : (d.unfNote die u c code addr gr).get F.UNF_STAT_FLTV die u = 1 := by
  have hlt : d.get F.UNF_STAT_FLTV die u < 2 := Dev.get_lt ..
  by_cases h : d.get F.UNF_STAT_FLTV die u = 0
  · exact (Dev.unfNote_first d die u c code addr gr h).1
  · have hon : d.on? F.UNF_STAT_FLTV die u = true := by simp [Dev.on?, h]
    rw [Dev.unfNote, if_pos hon]
    omega

end

/-! The parse of a row -/

theorem Eng.foldl_finish (l : List WSlot) (g : Eng) : ∃ es, l.foldl (fun a s => a.finish s.ent 1) g = { g with ents := es } := by
  induction l generalizing g with
  | nil => exact ⟨g.ents, rfl⟩
  | cons s l ih =>
    obtain ⟨es, h⟩ := ih (g.finish s.ent 1)
    exact ⟨es, h⟩

/-- A window that holds only the line parsed is free after it (R138). -/
theorem Dev.lineParsed_alone {d : Dev} {die e n ix : Nat} (h : ∀ s ∈ (d.eng die e).slots, s.ent = n ∧ s.idx = ix) :
    ∃ es, d.lineParsed die e n ix = d.setEng die e { d.eng die e with slots := [], ents := es } := by
  have hall : ((d.eng die e).slots.zipIdx.filter fun s => s.1.ent == n && s.1.idx == ix) = (d.eng die e).slots.zipIdx := by
    refine List.filter_eq_self.mpr fun s hs => ?_
    simp [h s.1 (List.fst_mem_of_mem_zipIdx hs)]
  have hnone : ((d.eng die e).slots.zipIdx.filter fun x => !((d.eng die e).slots.zipIdx.map (·.2)).contains x.2) = [] := by
    refine List.filter_eq_nil_iff.mpr fun s hs => ?_
    simp only [List.contains_iff_mem.mpr (List.mem_map_of_mem hs), Bool.not_true, Bool.false_eq_true, not_false_eq_true]
  rw [Dev.lineParsed, hall, Dev.slotsDone, Dev.modEng]
  simp only [hnone, List.map_nil]
  obtain ⟨es, hes⟩ := Eng.foldl_finish (((d.eng die e).slots.zipIdx.filter fun x =>
    ((d.eng die e).slots.zipIdx.map (·.2)).contains x.2).map (·.1)) { d.eng die e with slots := [] }
  exact ⟨pruneEnts es, by rw [hes]⟩

/-- A context of one of a die's unfold engines is a row of the engine that feeds it. -/
theorem Dev.mem_rowsOf {d : Dev} {die u : Nat} (hu : u < 24) {q : Nat × UCtx} (h : q ∈ (d.unfAt die u).ctx) : q.2 ∈ d.rowsOf die q.2.eng := by
  rw [Dev.unfAt, KMap.atD] at h
  cases hunf : d.unfs.at? (die * 24 + u) with
  | none => simp [hunf] at h
  | some v =>
    rw [hunf, Option.getD_some] at h
    have hdie : (die * 24 + u) / 24 = die := by omega
    refine List.mem_flatMap.mpr ⟨(die * 24 + u, v), List.mem_filter.mpr ⟨KMap.mem_of_at? hunf, by simp [hdie]⟩, ?_⟩
    exact List.mem_filter.mpr ⟨List.mem_map_of_mem h, by simp⟩

/-- A row of an engine after a context is replaced. -/
theorem Dev.mem_rowsOf_setCtx {d : Dev} {die u x e : Nat} (hu : u < 24) {c q : UCtx} (h : q ∈ (d.setCtx die u x c).rowsOf die e) :
    q ∈ d.rowsOf die e ∨ q = c := by
  obtain ⟨⟨k, v⟩, hv, hq⟩ := List.mem_flatMap.mp h
  obtain ⟨hv, hdie⟩ := List.mem_filter.mp hv
  obtain ⟨hq, heng⟩ := List.mem_filter.mp hq
  rcases KMap.mem_put hv with hv | hv
  · exact .inl (List.mem_flatMap.mpr ⟨_, List.mem_filter.mpr ⟨hv, hdie⟩, List.mem_filter.mpr ⟨hq, heng⟩⟩)
  · cases hv
    obtain ⟨⟨y, q⟩, hmem, rfl⟩ := List.mem_map.mp hq
    rcases KMap.mem_put hmem with hmem | hmem
    · exact .inl (beq_iff_eq.mp heng ▸ Dev.mem_rowsOf hu hmem)
    · cases hmem
      exact .inr rfl

theorem Dev.nothingUnderWay_setCtx {d : Dev} {die u x e : Nat} {c : UCtx} (hu : u < 24) (h : d.nothingUnderWay die e) (hready : c.ready = [])
    (hout : c.out = []) : (d.setCtx die u x c).nothingUnderWay die e := by
  obtain ⟨hlive, hslots, hfails, hnone, houts⟩ := h
  refine ⟨hlive, hslots, hfails, Dev.noneReady_setCtx hnone hready, fun q hq => ?_⟩
  rcases Dev.mem_rowsOf_setCtx hu hq with hq | rfl
  · exact houts q hq
  · exact hout

/-- The package once a context's next line has left the window. -/
def Dev.nextLineParsed (d : Dev) (die : Nat) (c : UCtx) : Dev := d.lineParsed die c.eng c.ent (c.row * c.en.perRow + c.parsed)

/-- A context whose next line, the last of a segment that passes, has joined it: the segment waits for the walk. -/
def UCtx.segmentDone (c : UCtx) (bs : Bytes) : UCtx :=
  let n := c.joined bs
  { n with
    grp := c.grp + (segHdr n.segBytes).ng, seg := c.seg + 1, segBytes := [], toWalk := c.toWalk ++ [⟨c.grp, n.segLine, n.segBytes⟩] }

/-- What the outcome of the checks makes of a context whose next line has joined its segment (R137, R140). -/
def Dev.ctxChecked (d : Dev) (die u x : Nat) (c : UCtx) (bs : Bytes) : Parse → Dev
  | .more => d.setCtx die u x (c.joined bs)
  | .whole =>
    if (c.segmentDone bs).parsed = c.lines ∧ (c.segmentDone bs).grp ≠ c.en.groups then d.unfFail die u x (c.segmentDone bs) c.lines 5 none true
    else d.setCtx die u x (c.segmentDone bs)
  | .fail code grp => d.unfFail die u x (c.joined bs) (c.joined bs).segLine code grp false

section
variable {d : Dev} {die u x : Nat} {c : UCtx} (hctx : (d.unfAt die u).ctx.at? x = some c)
include hctx

/-- A context parses its next line. -/
theorem Dev.unfParse_eq {bs : Bytes} {outcome : Parse} (hbuf : c.buf.at? c.parsed = some bs) (hrun : d.rowsRun die c.eng = true)
    (hbad : c.bad = false)
    (hparse : segParse c.en.ufmt c.en.cap (c.en.groups - c.grp) (c.lines - (c.joined bs).segLine) (c.joined bs).segBytes = outcome) :
    d.unfParse die u x = (d.nextLineParsed die c).ctxChecked die u x c bs outcome := by
  simp only [UCtx.joined] at hparse
  rw [Dev.unfParse]
  simp only [hctx, hbuf]
  rw [if_neg (by simp [hrun, hbad]), hparse]
  cases outcome with
  | more => rfl
  | whole => rfl
  | fail => rfl

omit hctx
variable (hu : u < 24) (hnext : d.lineNext die c)
include hnext

/-- The feeding engine of a row once its next line is parsed. -/
theorem Dev.nextLineParsed_eq : ∃ es, d.nextLineParsed die c = d.setEng die c.eng { d.eng die c.eng with slots := [], ents := es } := by
  obtain ⟨-, -, -, hslots, -⟩ := hnext
  exact Dev.lineParsed_alone hslots

/-- A line that passes leaves its context as the checks say, and its slot of the window free. -/
theorem Dev.setCtx_lineNext {n : UCtx} (hn : n.ready = []) :
    let e := ((d.nextLineParsed die c).setCtx die u x n).engFollow die c.eng
    (e.unfAt die u).ctx.at? x = some n ∧ (e.eng die c.eng).slots = [] := by
  obtain ⟨es, heq⟩ := Dev.nextLineParsed_eq hnext
  obtain ⟨hrun, -, -, -, hready, -⟩ := hnext
  have hhalt : (d.eng die c.eng).halting = false := by
    simp only [Dev.rowsRun, Bool.and_eq_true, Bool.not_eq_true'] at hrun
    exact hrun.2
  rw [heq, Dev.engFollow_going]
  · simp
  · simp
  · exact Dev.noneReady_setCtx (d := d.setEng ..) hready hn
  · simp [hhalt]

theorem Dev.nothingUnderWay_nextLineParsed : (d.nextLineParsed die c).nothingUnderWay die c.eng := by
  obtain ⟨es, heq⟩ := Dev.nextLineParsed_eq hnext
  obtain ⟨hrun, -, hfails, -, hready, hout⟩ := hnext
  simp only [Dev.rowsRun, Bool.and_eq_true] at hrun
  rw [heq]
  exact ⟨hrun.1, by simp, by simp [hfails], hready, hout⟩

include hu in
/-- A line on which a check fails halts the feeding engine, and is recorded unless a record is held. -/
theorem Dev.unfFail_lineNext {n : UCtx} (hready : n.ready = []) (hout : n.out = []) (heng : n.eng = c.eng) (line code : Nat)
    (grp : Option (Nat × Nat)) (zero : Bool) :
    let e := ((d.nextLineParsed die c).unfFail die u x n line code grp zero).engFollow die c.eng
    e.tenSt die c.eng = tenHalt ∧ e.get F.TEN_STAT_CAUSE die c.eng = 0xE ∧ e.get F.UNF_STAT_FLTV die u = 1 ∧
      (d.get F.UNF_STAT_FLTV die u = 0 → e.get F.UNF_STAT_CODE die u = code % 2 ^ 8) := by
  obtain ⟨gr, ix, hfail⟩ := Dev.unfFail_eq (d.nextLineParsed die c) die u x n line code grp zero
  obtain ⟨es, heq⟩ := Dev.nextLineParsed_eq hnext
  rw [hfail]
  generalize hm : (d.nextLineParsed die c).draw.2.setCtx die u x { n with bad := true } = m
  rw [heng]
  have hfltv : m.get F.UNF_STAT_FLTV die u = d.get F.UNF_STAT_FLTV die u := by
    rw [← hm, heq]
    rfl
  have hidle : m.nothingUnderWay die c.eng := by
    rw [← hm]
    exact Dev.nothingUnderWay_setCtx hu (Agree.nothingUnderWay (Dev.draw_kp (hμ := Within.refl _) (hκ := Agree.refl ..) ..) (by decide) (by decide)
      (by decide) (by decide) (by decide) (Dev.nothingUnderWay_nextLineParsed hnext)) hready hout
  obtain ⟨hst, hcause, hunf⟩ := Dev.engFail_halts ((Dev.unfNote_kp m die u n code (n.inAddr line) gr).nothingUnderWay (by decide) (by decide)
    (by decide) (by decide) (by decide) hidle) n.ent ix (f := ⟨0xE, code, n.inAddr line⟩) rfl
  refine ⟨hst, hcause, ?_, fun h => ?_⟩
  · rw [hunf F.UNF_STAT_FLTV rfl (by decide) (by decide), Dev.unfNote_fltv]
  · rw [hunf F.UNF_STAT_CODE rfl (by decide) (by decide), (Dev.unfNote_first m die u n code _ gr (hfltv.trans h)).2]

include hctx hu

/-- No output line of a row that parses its next line waits or is unanswered. -/
theorem Dev.noOutput_of_lineNext : c.ready = [] ∧ c.out = [] := by
  obtain ⟨-, -, -, -, hready, hout⟩ := hnext
  exact ⟨hready u hu _ (KMap.mem_of_at? hctx), hout c (Dev.mem_rowsOf hu (KMap.mem_of_at? hctx))⟩

end

/-! The grant of a context -/

/-- The contexts of an unfold engine that are free. -/
def Unf.freeCtx (q : Unf) : List Nat := (List.range 4).filter fun x => (q.ctx.at? x).isNone

theorem Unf.freeCtx_nil (q : Unf) : q.freeCtx = [] ↔ ((List.range 4).all fun x => (q.ctx.at? x).isSome) = true := by
  simp [Unf.freeCtx, List.filter_eq_nil_iff, List.all_eq_true, Option.isSome_iff_ne_none]

theorem Unf.mem_freeCtx {q : Unf} {x : Nat} (h : x ∈ q.freeCtx) : x < 4 ∧ q.ctx.at? x = none := by
  simpa [Unf.freeCtx] using h

theorem getD_mod_mem {α : Type} {l : List α} (h : l ≠ []) (n : Nat) (x : α) : l.getD (n % l.length) x ∈ l := by
  have hlt : n % l.length < l.length := Nat.mod_lt _ (List.length_pos_iff.mpr h)
  rw [List.getD_eq_getElem?_getD, List.getElem?_eq_getElem hlt, Option.getD_some]
  exact List.getElem_mem hlt

section
variable {d : Dev} {die u : Nat} {w : Nat × Nat × Nat} {r : EntRun} (hw : (d.unfAt die u).waitq.find? (fun w => d.rowsRun die w.1) = some w)
include hw

/-- With every context taken, no row is granted one. -/
theorem Dev.unfGrant_full (h : (d.unfAt die u).freeCtx = []) : d.unfGrant die u = d := by
  rw [Unf.freeCtx] at h
  simp only [Dev.unfGrant, hw, h]

/-- A row is granted one of the free contexts. -/
theorem Dev.unfGrant_free (hr : (d.eng die w.1).ents.find? (fun r => r.n == w.2.1) = some r) (h : (d.unfAt die u).freeCtx ≠ []) :
    ∃ x ∈ (d.unfAt die u).freeCtx, d.unfGrant die u =
      (d.draw.2.setUnf die u
        { d.unfAt die u with
          ctx := (d.unfAt die u).ctx.put x (UCtx.fresh w.1 w.2.1 w.2.2 r.raw), waitq := (d.unfAt die u).waitq.erase w }).put
        F.UNF_STAT_BUSY (orBit (d.get F.UNF_STAT_BUSY die u) x) die u := by
  refine ⟨_, getD_mod_mem h (Config.freeNat d.free 0) 0, ?_⟩
  rw [Unf.freeCtx] at h
  unfold Unf.freeCtx
  simp only [Dev.unfGrant, hw, hr]
  rfl

end

/-! The output walk -/

/-- What the output walk has made of a context's segments, and those that it has still to walk. -/
def UCtx.walked (c : UCtx) : List Seg × Bytes × Bytes × Bytes := (c.toWalk, c.elems, c.bits, c.scales)

@[simp] theorem UCtx.stage_walked (c : UCtx) (final : Bool) : (c.stage final).walked = c.walked := rfl

@[simp] theorem UCtx.flush_walked (c : UCtx) : c.flush.walked = c.walked := by
  unfold UCtx.flush
  split <;> rfl

/-- A walk expands the next segment into the three arrays. -/
theorem UCtx.walk_walked {c : UCtx} {sg : Seg} {rest : List Seg} (h : c.toWalk = sg :: rest) :
    c.walk.walked = (rest, c.elems ++ (segHdr sg.bytes).elems sg.bytes c.en.osp, c.bits ++ (segHdr sg.bytes).maps sg.bytes,
      c.scales ++ (segHdr sg.bytes).scales sg.bytes) := by
  simp only [UCtx.walk, h, UCtx.flush_walked, UCtx.stage_walked]
  rfl

/-- The walk's work at a context of an unfold engine. -/
def Dev.walkedAt (d : Dev) (die u x : Nat) : Option (List Seg × Bytes × Bytes × Bytes) := ((d.unfAt die u).ctx.at? x).map UCtx.walked

theorem Dev.walkedAt_congr {d e : Dev} (h : e.unfs = d.unfs) (die u x : Nat) : e.walkedAt die u x = d.walkedAt die u x := by
  simp only [Dev.walkedAt, Dev.unfAt_congr h]

/-- A context replaced by one with the same work leaves the walk's work at every context. -/
theorem Dev.walkedAt_setCtx {d : Dev} {die v y : Nat} {c c' : UCtx} (h : (d.unfAt die v).ctx.at? y = some c) (hc : c'.walked = c.walked) (u x : Nat) :
    (d.setCtx die v y c').walkedAt die u x = d.walkedAt die u x := by
  rw [Dev.walkedAt, Dev.walkedAt, Dev.setCtx, Dev.setUnf_unfAt]
  split
  case isTrue hu =>
    subst hu
    rw [KMap.at?_put]
    split
    case isTrue hx => simp [hx, h, hc]
    case isFalse => rfl
  case isFalse => rfl

/-- The output lines that leave take nothing from the walk's work. -/
theorem Dev.walkedAt_ctxPump (d : Dev) (die v y u x n : Nat) : (d.ctxPump die v y n).walkedAt die u x = d.walkedAt die u x := by
  induction n generalizing d with
  | zero => rfl
  | succ n ih =>
    unfold Dev.ctxPump
    split
    next => rfl
    next c hc =>
      split
      next => rfl
      next o rest _ =>
        split
        next => rfl
        next =>
          have hresolve := (Dev.resolve_kp (hμ := Within.refl _) (hκ := Agree.refl _ d) d die c.eng (c.leg o) o.again).unfs (by decide)
          split
          next f d1 heq =>
            rw [heq] at hresolve
            rw [Dev.walkedAt_congr (Agree.unfs (Dev.engFail_kp (hμ := Within.refl _) (hκ := Agree.refl ..) ..) (by decide)),
              Dev.walkedAt_setCtx (c := c) (d := d1.draw.2)]
            · exact Dev.walkedAt_congr hresolve ..
            · exact (Dev.unfAt_congr hresolve die v).symm ▸ hc
            · rfl
          next t d1 heq =>
            rw [heq] at hresolve
            split
            next => rfl
            next =>
              rw [ih, Dev.walkedAt_congr (Agree.unfs (Dev.engSend_kp (hμ := Within.refl _) (hκ := Agree.refl ..) ..) (by decide)),
                Dev.walkedAt_setCtx (c := c)]
              · exact Dev.walkedAt_congr hresolve ..
              · exact (Dev.unfAt_congr hresolve die v).symm ▸ hc
              · rfl

theorem Dev.walkedAt_rowsPump (d : Dev) (die e u x : Nat) : (d.rowsPump die e).walkedAt die u x = d.walkedAt die u x := by
  refine List.foldlRecOn (motive := fun d' : Dev => d'.walkedAt die u x = d.walkedAt die u x) _ _ rfl ?_
  intro d' hd v _
  refine List.foldlRecOn (motive := fun d' : Dev => d'.walkedAt die u x = d.walkedAt die u x) _ _ hd ?_
  intro d'' hd q _
  split
  · rw [Dev.walkedAt_ctxPump, hd]
  · exact hd

/-- The walk takes the next segment of the next context in turn that may be walked: what it has then made of every context, and its count. -/
theorem Dev.unfWalk_next {d : Dev} {die u x : Nat} {c : UCtx} {sg : Seg} {rest : List Seg}
    (hx : ((List.range 4).map fun j => ((d.unfAt die u).rr + 1 + j) % 4).find? (fun x => ((d.unfAt die u).ctx.at? x).any (d.walkable die)) = some x)
    (hc : (d.unfAt die u).ctx.at? x = some c) (hseg : c.toWalk = sg :: rest) :
    (d.unfWalk die u).walkedAt die u x = some c.walk.walked ∧
      (d.unfWalk die u).get F.UNF_GCNT_COUNT die u = (d.get F.UNF_GCNT_COUNT die u + (segHdr sg.bytes).ng) % 2 ^ 32 := by
  simp only [Dev.unfWalk, hx, hc, hseg, List.map_cons, List.headD_cons]
  constructor
  · rw [Dev.walkedAt_rowsPump]
    simp [Dev.count, Dev.walkedAt]
  · rw [Agree.get (Dev.rowsPump_kp (hμ := Within.refl _) (hκ := Agree.refl ..) ..) _ (by decide) (by decide), Dev.count,
      Dev.get_put_apart _ _ _ _ (by decide) (by decide) (by decide), Dev.count, Dev.get_put _ _ _ _ _ _ (by decide) (by decide)]
    exact Nat.mod_mod ..

/-! Row completion -/

/-- A row whose input is parsed and whose output lines are all answered leaves its context and its entry's count of rows. -/
theorem Dev.unfRowDone_eq {d : Dev} {die u x : Nat} {c : UCtx} (hc : (d.unfAt die u).ctx.at? x = some c) (hflushed : c.flushed = true)
    (hready : c.ready = []) (hout : c.out = []) (hfailed : c.failed = []) :
    d.unfRowDone die u x =
      ((d.setUnf die u { d.unfAt die u with ctx := (d.unfAt die u).ctx.del x }).put F.UNF_STAT_BUSY
        (clrBit (d.get F.UNF_STAT_BUSY die u) x) die u).setEng die c.eng { d.eng die c.eng with
          ents := pruneEnts ((d.eng die c.eng).ents.map fun r => if r.n = c.ent then { r with rows := r.rows - 1 } else r) } := by
  simp only [Dev.unfRowDone, hc]
  rw [if_neg (by simp [hflushed, hready, hout, hfailed])]
  rfl

/-- A context freed leaves no output line to wait where none did. -/
theorem Dev.noneReady_del {d : Dev} {die u x : Nat} (h : d.noneReady die) :
    (d.setUnf die u { d.unfAt die u with ctx := (d.unfAt die u).ctx.del x }).noneReady die := by
  intro v hv q hq
  rw [Dev.setUnf_unfAt] at hq
  split at hq
  case isTrue hvu =>
    subst hvu
    obtain ⟨hq, -⟩ := List.mem_filter.mp hq
    exact h v hv q hq
  case isFalse => exact h v hv q hq

theorem unit_lt_of_wf {die unit x : Nat} (h : (decide (die < 4) && decide (unit < 24) && decide (x < 4)) = true) : unit < 24 := by
  simp only [Bool.and_eq_true, decide_eq_true_eq] at h
  exact h.1.2

/-- Settles O30: the grant puts the row into a free context (`Dev.unfGrant_free`); a line that passes leaves its context as the checks say and
nothing follows (`Dev.setCtx_lineNext`), a failed one halts the engine, which has nothing else under way (`Dev.unfFail_lineNext`); output lines
that leave take nothing from the walk's work (`Dev.walkedAt_rowsPump`); a completed row is deleted, and nothing follows. -/
theorem unfoldRows : Obligations.UnfoldRows := by
  intro die unit
  refine ⟨Effect.unfoldContextGrant_of _ _ ?_,
    fun x hx => ⟨Effect.unfoldInputParse_of _ _ _ ?_, Effect.unfoldRowComplete_of _ _ _ ?_⟩, Effect.unfoldOutputWalk_of _ _ ?_⟩
  · rintro d - - w r hw hr
    split
    case isTrue hfull => exact Dev.unfGrant_full hw ((Unf.freeCtx_nil _).mpr hfull)
    case isFalse hfree =>
      obtain ⟨x, hx, hgrant⟩ := Dev.unfGrant_free hw hr (mt (Unf.freeCtx_nil _).mp hfree)
      obtain ⟨hlt, hnone⟩ := Unf.mem_freeCtx hx
      refine ⟨x, hlt, hnone, ?_⟩
      rw [hgrant]
      refine ⟨by simp [KMap.at?_put], by simp, fun y hy => by simp [KMap.at?_put, hy], ?_⟩
      rw [Dev.hasBit_put _ _ _ _ _ _ _ (by decide) (by decide) hlt, hasBit_orBit]
      simp
  · rintro d hwf - c bs hc hbuf hnext
    have hu := unit_lt_of_wf hwf
    obtain ⟨hready, hout⟩ := Dev.noOutput_of_lineNext hc hu hnext
    have ⟨hrun, hbad, _⟩ := hnext
    rw [Dev.ctxFollow_ctx hc]
    dsimp only
    split
    next hparse =>
      rw [Dev.unfParse_eq hc hbuf hrun hbad hparse]
      exact Dev.setCtx_lineNext hnext hready
    next hparse =>
      intro (hend : ¬ ((c.segmentDone bs).parsed = c.lines ∧ (c.segmentDone bs).grp ≠ c.en.groups))
      rw [Dev.unfParse_eq hc hbuf hrun hbad hparse, Dev.ctxChecked, if_neg hend]
      exact Dev.setCtx_lineNext (n := c.segmentDone bs) hnext hready
    next code grp hparse =>
      rw [Dev.unfParse_eq hc hbuf hrun hbad hparse, Dev.ctxChecked]
      exact Dev.unfFail_lineNext (n := c.joined bs) hu hnext hready hout rfl ..
  · rintro d - - c hc hflushed hready hout hfailed hhalt hheld hnone
    rw [Dev.ctxFollow_ctx hc, Dev.unfRowDone_eq hc hflushed hready hout hfailed, Dev.engFollow_going]
    · refine ⟨by simp [KMap.at?_del], ?_, by simp⟩
      rw [Dev.setEng_read_get, Dev.hasBit_put _ _ _ _ _ _ _ (by decide) (by decide) hx, hasBit_clrBit]
      simp
    · simpa using hheld
    · exact Dev.noneReady_congr (d := d.setUnf ..) rfl (Dev.noneReady_del hnone)
    · simpa using hhalt
  · rintro d - - x c sg rest hx hc hseg
    obtain ⟨hwalked, hcount⟩ := Dev.unfWalk_next hx hc hseg
    obtain ⟨c', hc', hw⟩ := Option.map_eq_some_iff.mp hwalked
    rw [UCtx.walk_walked hseg] at hw
    simp only [UCtx.walked, Prod.mk.injEq] at hw
    exact ⟨hcount, c', hc', hw⟩

/-! A package in which a row unfolds: what the statement above assumes of one -/

/-- A move-list entry that unfolds two rows of one input line and one group each (R94, R133). -/
def unfoldEntry : Bytes := [1, 4, 1] ++ zeros 37 ++ [64, 0, 0, 0, 1] ++ zeros 17 ++ [8, 0]

theorem unfoldEntry_ok : (parseEnt unfoldEntry).ok true 0 = true := by decide

/-- The entry with both its lines issued. -/
def unfoldRun : EntRun := ⟨0, unfoldEntry, 2, 2, 0, .none, none, 2⟩

/-- A line that is a whole segment of one group, with no present row (R125, R126). -/
def emptySegment : Bytes := [0x5B, 0, 0, 0, 1] ++ zeros 59

/-- The compute domain of die 0 is up and its engine 0 runs `unfoldEntry`; context 0 of unfold engine 0 holds the first row as `c` says, and the
second row waits for a context. -/
def Dev.unfolding (c : UCtx) : Dev :=
  (({ Dev.reset with pw := List.replicate 4 ⟨true, true, true⟩ }.setTen 0 0 tenRun).setEng 0 0 { Eng.initial with ents := [unfoldRun] }).setUnf 0 0
    ⟨[(0, c)], [(0, 0, 1)], 0⟩

/-- The first row as its context is granted. -/
def firstRow : UCtx := UCtx.fresh 0 0 0 unfoldEntry

section
variable (c : UCtx)

theorem Dev.unfolding_eng : (Dev.unfolding c).eng 0 0 = { Eng.initial with ents := [unfoldRun] } := Dev.setEng_eng_self ..

theorem Dev.unfolding_unfAt : (Dev.unfolding c).unfAt 0 0 = ⟨[(0, c)], [(0, 0, 1)], 0⟩ := Dev.setUnf_unfAt_self ..

theorem Dev.unfolding_rowsRun : (Dev.unfolding c).rowsRun 0 0 = true := by
  show (Dev.unfolding firstRow).rowsRun 0 0 = true
  decide

variable {c}

theorem Dev.unfolding_noneReady (h : c.ready = []) : (Dev.unfolding c).noneReady 0 := by
  intro u _ q hq
  rw [Dev.unfolding, Dev.setUnf_unfAt] at hq
  split at hq
  case isTrue =>
    rw [List.mem_singleton.mp hq]
    exact h
  case isFalse => cases hq

theorem Dev.unfolding_lineNext (hready : c.ready = []) (hout : c.out = []) (hbad : c.bad = false) (heng : c.eng = 0) :
    (Dev.unfolding c).lineNext 0 c := by
  refine ⟨heng ▸ Dev.unfolding_rowsRun c, hbad, ?_, ?_, Dev.unfolding_noneReady hready, fun q hq => ?_⟩
  · rw [heng, Dev.unfolding_eng]
    rfl
  · rw [heng, Dev.unfolding_eng]
    intro s hs
    cases hs
  · obtain ⟨v, hv, hq⟩ := List.mem_flatMap.mp hq
    obtain ⟨hv, -⟩ := List.mem_filter.mp hv
    obtain ⟨hq, -⟩ := List.mem_filter.mp hq
    rw [List.mem_singleton.mp hv] at hq
    rw [List.mem_singleton.mp hq]
    exact hout

end

/-- The second row is granted a context, by `unfoldRows`. -/
theorem contextGrant_witness : Completes (.unfoldContextGrant 0 0) ⟨[], Dev.unfolding firstRow⟩ fun e => (e.unfAt 0 0).waitq = [] := by
  obtain ⟨hgrant, -⟩ := unfoldRows 0 0
  obtain ⟨t, hnext, hpending, h⟩ := hgrant ⟨[], Dev.unfolding firstRow⟩ ⟨by decide, rfl⟩
  have hgranted := h (0, 0, 1) unfoldRun (by simp [Dev.unfolding_unfAt, Dev.unfolding_rowsRun]) (by simp [Dev.unfolding_eng, unfoldRun])
  simp only [Dev.unfolding_unfAt] at hgranted
  rw [if_neg (by decide)] at hgranted
  obtain ⟨x, -, -, -, hwait, -⟩ := hgranted
  exact ⟨t, hnext, hpending, hwait⟩

/-- A row's only line, a whole segment, waits for the walk, by `unfoldRows`. -/
theorem inputParse_whole_witness : Completes (.unfoldInputParse 0 0 0) ⟨[], Dev.unfolding { firstRow with buf := [(0, emptySegment)] }⟩
    fun e => ((e.unfAt 0 0).ctx.at? 0).map (·.toWalk) = some [⟨0, 0, emptySegment⟩] := by
  obtain ⟨-, hctx, -⟩ := unfoldRows 0 0
  obtain ⟨hparse, -⟩ := hctx 0 (by decide)
  obtain ⟨t, hnext, hpending, h⟩ := hparse ⟨[], Dev.unfolding { firstRow with buf := [(0, emptySegment)] }⟩ ⟨by decide, rfl⟩
  obtain ⟨hwalk, -⟩ := h _ emptySegment (by rw [Dev.unfolding_unfAt]; rfl) rfl (Dev.unfolding_lineNext rfl rfl rfl rfl) (by decide)
  exact ⟨t, hnext, hpending, (congrArg (Option.map _) hwalk).trans rfl⟩

/-- A line without a tag fails and halts the feeding engine, by `unfoldRows`. -/
theorem inputParse_fail_witness : Completes (.unfoldInputParse 0 0 0) ⟨[], Dev.unfolding { firstRow with buf := [(0, zeros 64)] }⟩
    fun e => e.tenSt 0 0 = tenHalt ∧ e.get F.UNF_STAT_CODE 0 = 2 := by
  obtain ⟨-, hctx, -⟩ := unfoldRows 0 0
  obtain ⟨hparse, -⟩ := hctx 0 (by decide)
  obtain ⟨t, hnext, hpending, h⟩ := hparse ⟨[], Dev.unfolding { firstRow with buf := [(0, zeros 64)] }⟩ ⟨by decide, rfl⟩
  obtain ⟨hhalt, -, -, hcode⟩ := h _ (zeros 64) (by rw [Dev.unfolding_unfAt]; rfl) rfl (Dev.unfolding_lineNext rfl rfl rfl rfl)
  exact ⟨t, hnext, hpending, hhalt, hcode (by decide)⟩

/-- A segment is walked and counted, by `unfoldRows`. -/
theorem outputWalk_witness : Completes (.unfoldOutputWalk 0 0) ⟨[], Dev.unfolding { firstRow with toWalk := [⟨0, 0, emptySegment⟩] }⟩
    fun e => e.get F.UNF_GCNT_COUNT 0 = 1 := by
  obtain ⟨-, -, hwalk⟩ := unfoldRows 0 0
  obtain ⟨t, hnext, hpending, h⟩ := hwalk ⟨[], Dev.unfolding { firstRow with toWalk := [⟨0, 0, emptySegment⟩] }⟩ ⟨by decide, rfl⟩
  obtain ⟨hcount, -⟩ := h 0 _ ⟨0, 0, emptySegment⟩ [] (by rw [Dev.unfolding_unfAt]; decide) (by rw [Dev.unfolding_unfAt]; rfl) rfl
  exact ⟨t, hnext, hpending, hcount.trans (by decide)⟩

/-- A row with nothing left to write frees its context, by `unfoldRows`. -/
theorem rowComplete_witness : Completes (.unfoldRowComplete 0 0 0) ⟨[], Dev.unfolding { firstRow with flushed := true }⟩
    fun e => (e.unfAt 0 0).ctx.at? 0 = none ∧ (e.eng 0 0).ents = [{ unfoldRun with rows := 1 }] := by
  obtain ⟨-, hctx, -⟩ := unfoldRows 0 0
  obtain ⟨-, hdone⟩ := hctx 0 (by decide)
  obtain ⟨t, hnext, hpending, h⟩ := hdone ⟨[], Dev.unfolding { firstRow with flushed := true }⟩ ⟨by decide, rfl⟩
  have heng := Dev.unfolding_eng { firstRow with flushed := true }
  obtain ⟨hfree, -, hents⟩ := h { firstRow with flushed := true } (by rw [Dev.unfolding_unfAt]; rfl) rfl rfl rfl rfl (congrArg Eng.halting heng)
    (fun s hs => nomatch congrArg Eng.slots heng ▸ hs) (Dev.unfolding_noneReady rfl)
  exact ⟨t, hnext, hpending, hfree, hents.trans (congrArg _ (congrArg _ (congrArg Eng.ents heng)))⟩

end Sys2Proof.Machine
end

section
/-!
The statements of 06_dispatch.md: which experts a token selects, how their slots fill, and the steps of a dispatch unit.
-/
namespace Sys2Proof.Machine

/-! Sorting by insertion -/

section
variable {α : Type} (lt : α → α → Bool)

theorem insertBy_perm (x : α) (l : List α) : (insertBy lt x l).Perm (x :: l) := by
  induction l with
  | nil => exact .refl _
  | cons y ys ih =>
    unfold insertBy
    split
    · exact (ih.cons y).trans (.swap x y ys)
    · exact .refl _

theorem sortBy_perm (l : List α) : (sortBy lt l).Perm l := by
  induction l with
  | nil => exact .refl _
  | cons x xs ih => exact (insertBy_perm lt x _).trans (ih.cons x)

variable {lt} {R : α → α → Prop} (trans : ∀ a b c, R a b → R b c → R a c)
include trans

/-- An element finds its place in an ordered list, where `lt` decides on which side of it each element of the list belongs. -/
theorem insertBy_pairwise {x : α} {l : List α} (hl : l.Pairwise R) (hx : ∀ y ∈ l, if lt y x = true then R y x else R x y) :
    (insertBy lt x l).Pairwise R := by
  induction l with
  | nil => exact List.pairwise_singleton R x
  | cons y ys ih =>
    obtain ⟨hy, hys⟩ := List.pairwise_cons.mp hl
    have hxy := hx y List.mem_cons_self
    unfold insertBy
    split
    case isTrue hlt =>
      rw [if_pos hlt] at hxy
      refine List.pairwise_cons.mpr ⟨fun z hz => ?_, ih hys fun z hz => hx z (List.mem_cons_of_mem _ hz)⟩
      rcases List.mem_cons.mp ((insertBy_perm lt x ys).mem_iff.mp hz) with rfl | hz
      · exact hxy
      · exact hy z hz
    case isFalse hlt =>
      rw [if_neg hlt] at hxy
      refine List.pairwise_cons.mpr ⟨fun z hz => ?_, hl⟩
      rcases List.mem_cons.mp hz with rfl | hz
      · exact hxy
      · exact trans _ _ _ hxy (hy z hz)

/-- A list of elements each two of which `lt` decides comes out in order. -/
theorem sortBy_pairwise {l : List α} (hl : l.Pairwise fun x y => if lt y x = true then R y x else R x y) : (sortBy lt l).Pairwise R := by
  induction l with
  | nil => exact List.Pairwise.nil
  | cons x xs ih =>
    obtain ⟨hx, hxs⟩ := List.pairwise_cons.mp hl
    exact insertBy_pairwise trans (ih hxs) fun y hy => hx y ((sortBy_perm lt xs).mem_iff.mp hy)

end

/-! The order of a token's experts (R149) -/

/-- Expert `a` ranks before expert `b`: it has the higher score, or the same and the lower number. -/
def ranksBefore (scores : List Nat) (a b : Nat) : Prop :=
  rankKey (scores.getD b 0) < rankKey (scores.getD a 0) ∨ (rankKey (scores.getD a 0) = rankKey (scores.getD b 0) ∧ a < b)

theorem ranksBefore_trans (scores : List Nat) (a b c : Nat) (hab : ranksBefore scores a b) (hbc : ranksBefore scores b c) :
    ranksBefore scores a c := by
  unfold ranksBefore at *
  omega

theorem ranksBefore_of_not {scores : List Nat} {a b : Nat} (hne : a ≠ b) (h : ¬ ranksBefore scores a b) : ranksBefore scores b a := by
  unfold ranksBefore at *
  omega

/-- The comparison by which `selectK` sorts. -/
def ranksBeforeB (scores : List Nat) (a b : Nat) : Bool :=
  let x := rankKey (scores.getD a 0)
  let y := rankKey (scores.getD b 0)
  y < x || (x == y && a < b)

theorem ranksBeforeB_iff (scores : List Nat) (a b : Nat) : ranksBeforeB scores a b = true ↔ ranksBefore scores a b := by
  simp [ranksBeforeB, ranksBefore]

/-- All experts of a token in rank order. -/
def rankedExperts (scores : List Nat) : List Nat := sortBy (ranksBeforeB scores) (List.range scores.length)

theorem selectK_eq_take (k : Nat) (scores : List Nat) : selectK k scores = (rankedExperts scores).take k := rfl

theorem rankedExperts_perm (scores : List Nat) : (rankedExperts scores).Perm (List.range scores.length) := sortBy_perm ..

theorem mem_rankedExperts {scores : List Nat} {e : Nat} : e ∈ rankedExperts scores ↔ e < scores.length := by
  rw [(rankedExperts_perm scores).mem_iff, List.mem_range]

theorem rankedExperts_pairwise (scores : List Nat) : (rankedExperts scores).Pairwise (ranksBefore scores) := by
  refine sortBy_pairwise (ranksBefore_trans scores) (List.nodup_range.imp fun {a b} hne => ?_)
  split
  case isTrue h => exact (ranksBeforeB_iff ..).mp h
  case isFalse h => exact ranksBefore_of_not hne.symm (mt (ranksBeforeB_iff ..).mpr h)

/-- What comes among the first `k` of an ordered list stands before what does not. -/
theorem pairwise_rel_take {α : Type} {R : α → α → Prop} {l : List α} (h : l.Pairwise R) {k : Nat} {a b : α} (ha : a ∈ l.take k)
    (hb : b ∈ l) (hbk : b ∉ l.take k) : R a b := by
  rw [← l.take_append_drop k] at h hb
  obtain ⟨-, -, hrel⟩ := List.pairwise_append.mp h
  exact hrel a ha b ((List.mem_append.mp hb).resolve_left hbk)

/-- A token selects the first `k` of its experts in rank order. -/
theorem selectK_spec (k : Nat) (scores : List Nat) :
    let sel := selectK k scores
    sel.length = min k scores.length ∧ sel.Nodup ∧ (∀ e ∈ sel, e < scores.length) ∧ sel.Pairwise (ranksBefore scores) ∧
      ∀ a ∈ sel, ∀ b, b < scores.length → b ∉ sel → ranksBefore scores a b := by
  have hperm := rankedExperts_perm scores
  rw [selectK_eq_take]
  refine ⟨?_, ?_, fun e he => ?_, ?_, fun a ha b hb hbk => ?_⟩
  · rw [List.length_take, hperm.length_eq, List.length_range]
  · exact (hperm.nodup_iff.mpr List.nodup_range).sublist (List.take_sublist ..)
  · exact mem_rankedExperts.mp (List.mem_of_mem_take he)
  · exact (rankedExperts_pairwise scores).sublist (List.take_sublist ..)
  · exact pairwise_rel_take (rankedExperts_pairwise scores) ha (mem_rankedExperts.mpr hb) hbk

theorem rankKey_nan {b : Nat} (h : (fv32 b).isNan = true) : rankKey b = 0 := if_pos h

/-! The slots of experts (R151) -/

/-- One more choice taken: the next slot of its expert, or the overflow. -/
def Served.take (cap : Nat) (v : Served) (c : Choice) : Served :=
  if v.count c.e < cap then { v with slots := v.slots ++ [(c.e, v.count c.e, c)] } else { v with spills := v.spills ++ [c] }

theorem serve_eq_foldl (cap : Nat) (cs : List Choice) : serve cap cs = cs.foldl (Served.take cap) ⟨[], []⟩ := rfl

theorem Served.count_concat (slots : List (Nat × Nat × Choice)) (spills spills' : List Choice) (s : Nat × Nat × Choice) (e : Nat) :
    (⟨slots ++ [s], spills⟩ : Served).count e = (⟨slots, spills'⟩ : Served).count e + if s.1 = e then 1 else 0 := by
  simp only [Served.count, List.filter_append, List.length_append, List.filter_cons, beq_iff_eq]
  split <;> rfl

/-- Choices `cs` stand in slots of their experts, `cap` at most of each, or in the overflow where the expert is full. -/
structure Served.Fills (cap : Nat) (cs : List Choice) (v : Served) : Prop where
  count_le : ∀ e, v.count e ≤ cap
  length_eq : v.slots.length + v.spills.length = cs.length
  slot : ∀ e n c, (e, n, c) ∈ v.slots → c.e = e ∧ n < v.count e ∧ c ∈ cs
  spill : ∀ c ∈ v.spills, c ∈ cs ∧ v.count c.e = cap
  nodup : (v.slots.map fun s => (s.1, s.2.1)).Nodup

/-- A choice whose expert has a free slot takes the first of them. -/
theorem Served.Fills.slot_free {cap : Nat} {cs : List Choice} {v : Served} (h : v.Fills cap cs) {c : Choice} (hfree : v.count c.e < cap) :
    Served.Fills cap (cs ++ [c]) { v with slots := v.slots ++ [(c.e, v.count c.e, c)] } := by
  have hcount := fun e => Served.count_concat v.slots v.spills v.spills (c.e, v.count c.e, c) e
  refine ⟨fun e => ?_, ?_, fun e n x hx => ?_, fun x hx => ?_, ?_⟩
  · have := h.count_le e
    rw [hcount]
    split
    case isTrue he => subst he; exact hfree
    case isFalse => exact this
  · simp only [List.length_append, List.length_singleton, ← h.length_eq]
    omega
  · rw [hcount]
    rcases List.mem_append.mp hx with hx | hx
    · obtain ⟨he, hn, hmem⟩ := h.slot e n x hx
      exact ⟨he, Nat.lt_add_right _ hn, List.mem_append_left _ hmem⟩
    · cases List.mem_singleton.mp hx
      exact ⟨rfl, by simp, by simp⟩
  · obtain ⟨hmem, hfull⟩ := h.spill x hx
    have hne : c.e ≠ x.e := fun he => by rw [he] at hfree; omega
    refine ⟨List.mem_append_left _ hmem, ?_⟩
    rw [hcount, if_neg hne]
    exact hfull
  · rw [List.map_append, List.nodup_append]
    refine ⟨h.nodup, List.nodup_cons.mpr ⟨List.not_mem_nil, List.nodup_nil⟩, fun key hkey key' hkey' heq => ?_⟩
    cases heq
    cases List.mem_singleton.mp hkey'
    obtain ⟨⟨e, n, x⟩, hx, heq⟩ := List.mem_map.mp hkey
    cases heq
    exact absurd (h.slot _ _ _ hx).2.1 (Nat.lt_irrefl _)

/-- A choice whose expert is full is lost to the overflow. -/
theorem Served.Fills.spill_full {cap : Nat} {cs : List Choice} {v : Served} (h : v.Fills cap cs) {c : Choice} (hfull : ¬ v.count c.e < cap) :
    Served.Fills cap (cs ++ [c]) { v with spills := v.spills ++ [c] } := by
  refine ⟨h.count_le, ?_, fun e n x hx => ?_, fun x hx => ?_, h.nodup⟩
  · simp only [List.length_append, List.length_singleton, ← h.length_eq]
    omega
  · obtain ⟨he, hn, hmem⟩ := h.slot e n x hx
    exact ⟨he, hn, List.mem_append_left _ hmem⟩
  · rcases List.mem_append.mp hx with hx | hx
    · obtain ⟨hmem, hx⟩ := h.spill x hx
      exact ⟨List.mem_append_left _ hmem, hx⟩
    · cases List.mem_singleton.mp hx
      exact ⟨by simp, Nat.le_antisymm (h.count_le c.e) (Nat.le_of_not_lt hfull)⟩

theorem Served.Fills.take {cap : Nat} {cs : List Choice} {v : Served} (h : v.Fills cap cs) (c : Choice) : (v.take cap c).Fills cap (cs ++ [c]) := by
  unfold Served.take
  split
  case isTrue hfree => exact h.slot_free hfree
  case isFalse hfull => exact h.spill_full hfull

theorem Served.Fills.foldl_take {cap : Nat} {past : List Choice} {v : Served} (h : v.Fills cap past) (cs : List Choice) :
    (cs.foldl (Served.take cap) v).Fills cap (past ++ cs) := by
  induction cs generalizing v past with
  | nil => rwa [List.append_nil]
  | cons c cs ih =>
    rw [List.append_cons]
    exact ih (h.take c)

theorem serve_fills (cap : Nat) (cs : List Choice) : (serve cap cs).Fills cap cs := by
  have hnone : Served.Fills cap [] ⟨[], []⟩ := ⟨fun _ => Nat.zero_le _, rfl, nofun, nofun, List.nodup_nil⟩
  rw [serve_eq_foldl]
  exact hnone.foldl_take cs

/-- Settles O25: `selectK` takes the first experts of the sorted list (`selectK_spec`), a NaN has the lowest key, and what `serve` makes of the choices
holds after each one taken (`serve_fills`). -/
theorem selectionAndCapacity : Obligations.SelectionAndCapacity := by
  refine ⟨selectK_spec, by decide, fun b hb c => ?_, fun cap cs => ?_⟩
  · rw [rankKey_nan hb]
    exact Nat.zero_le _
  · obtain ⟨hcount, hlength, hslot, hspill, hnodup⟩ := serve_fills cap cs
    exact ⟨hcount, hlength, hslot, hspill, hnodup⟩

/-! What a step's work leaves of its unit -/

/-- A unit but for its overflow writes. -/
def Dsp.rest (u : Dsp) : Dsp := { u with out := [], tag := 0 }

/-- A change that leaves the dispatch units alone. -/
theorem Agree.dspRest {μ : Nat} {d e : Dev} (h : Agree μ d e) (hk : μ.testBit 390 = false) {die : Nat} {u : Dsp} (hd : (d.dsp die).rest = u) :
    (e.dsp die).rest = u := by
  rw [← hd, Dev.dsp, Dev.dsp, h.dsps hk]

theorem Dev.dspSpill_rest (d : Dev) (die step : Nat) (raw : Bytes) (off : Nat) (bs : Bytes) :
    ((d.dspSpill die step raw off bs).dsp die).rest = (d.dsp die).rest := by
  simp [Dev.dspSpill, Dev.modDsp, Dev.dsp, KMap.atD_put, Dsp.rest]

theorem Dev.dspOverflow_rest (d : Dev) (die step : Nat) (s : Step) (area : Nat) (v : Served) (ncand : Nat) :
    ((d.dspOverflow die step s area v ncand).2.dsp die).rest = (d.dsp die).rest := by
  unfold Dev.dspOverflow
  simp only [Dev.count, Dev.countSat, Dev.put_read_dsp, Dev.dspSpill_rest]
  refine List.foldlRecOn (motive := fun d' : Dev => (d'.dsp die).rest = (d.dsp die).rest) _ _ rfl fun d' hd j _ => ?_
  exact (Dev.dspSpill_rest ..).trans hd

theorem Dev.dspFull_snd (x : Nat × Dev) : (Dev.dspFull x).2 = x.2 := by
  unfold Dev.dspFull
  split <;> rfl

/-- GATE changes its unit's overflow writes alone. -/
theorem Dev.gateRun_rest (d : Dev) (die step : Nat) (s : Step) : ((d.gateRun die step s).2.dsp die).rest = (d.dsp die).rest := by
  unfold Dev.gateRun
  split
  next => rfl
  next =>
    split
    next hread => exact (Dev.dspReads_kp' hread (Within.refl _) (Agree.refl ..)).dspRest (by decide) rfl
    next hread =>
      have hd := (Dev.dspReads_kp' hread (Within.refl _) (Agree.refl ..)).dspRest (by decide) (die := die) rfl
      dsimp only
      split
      next hwrite => exact (Dev.dspWrite_kp' hwrite (Within.refl _) (Agree.refl ..)).dspRest (by decide) hd
      next hwrite =>
        rw [Dev.dspFull_snd, Dev.dspOverflow_rest]
        exact (Dev.dspWrite_kp' hwrite (Within.refl _) (Agree.refl ..)).dspRest (by decide) hd

/-- REPACK changes its unit's overflow writes alone. -/
theorem Dev.repackRun_rest (d : Dev) (die step : Nat) (s : Step) : ((d.repackRun die step s).2.dsp die).rest = (d.dsp die).rest := by
  unfold Dev.repackRun
  split
  next => rfl
  next => rfl
  next =>
    split
    next hhead => exact (Dev.dspRead_kp' hhead (Within.refl _) (Agree.refl ..)).dspRest (by decide) rfl
    next hhead =>
      have hd1 := (Dev.dspRead_kp' hhead (Within.refl _) (Agree.refl ..)).dspRest (by decide) (die := die) rfl
      dsimp only
      split
      next => exact hd1
      next =>
        split
        next hread => exact (Dev.dspRead_kp' hread (Within.refl _) (Agree.refl ..)).dspRest (by decide) hd1
        next hread =>
          have hd2 := (Dev.dspRead_kp' hread (Within.refl _) (Agree.refl ..)).dspRest (by decide) hd1
          split
          next => exact hd2
          next =>
            split
            next hwrite => exact (Dev.dspWrite_kp' hwrite (Within.refl _) (Agree.refl ..)).dspRest (by decide) hd2
            next hwrite =>
              have hd3 := (Dev.dspWrite_kp' hwrite (Within.refl _) (Agree.refl ..)).dspRest (by decide) hd2
              split
              next hent => exact (Dev.dspEntries_kp' hent (Within.refl _) (Agree.refl ..)).dspRest (by decide) hd3
              next hent =>
                rw [Dev.dspFull_snd, Dev.dspOverflow_rest]
                exact (Dev.dspEntries_kp' hent (Within.refl _) (Agree.refl ..)).dspRest (by decide) hd3

/-- A step's work leaves its unit's state and everything of the unit but its overflow writes. -/
def Dev.dspWorked (die : Nat) (d e : Dev) : Prop := e.dspSt die = d.dspSt die ∧ (e.dsp die).rest = (d.dsp die).rest

theorem Dev.gateRun_worked (d : Dev) (die step : Nat) (s : Step) : Dev.dspWorked die d (d.gateRun die step s).2 :=
  ⟨(Dev.gateRun_kp d die step s (Within.refl _) (Agree.refl ..)).get _ (by decide) (by decide) .., Dev.gateRun_rest ..⟩

theorem Dev.repackRun_worked (d : Dev) (die step : Nat) (s : Step) : Dev.dspWorked die d (d.repackRun die step s).2 :=
  ⟨(Dev.repackRun_kp d die step s (Within.refl _) (Agree.refl ..)).get _ (by decide) (by decide) .., Dev.repackRun_rest ..⟩

theorem Dev.combineRun_worked (d : Dev) (die : Nat) (s : Step) : Dev.dspWorked die d (d.combineRun die s).2 :=
  have h := Dev.combineRun_kp d die s (Within.refl _) (Agree.refl ..)
  ⟨h.get _ (by decide) (by decide) .., h.dspRest (by decide) rfl⟩

/-! What follows a step -/

section
variable {d : Dev} {die : Nat}

theorem Dev.dspSettle_going (hfail : (d.dsp die).fail = none) (hended : (d.dsp die).ended = false) : d.dspSettle die = d := by
  simp [Dev.dspSettle, hfail, hended]

theorem Dev.dspSettle_out (hout : (d.dsp die).out ≠ []) : d.dspSettle die = d := by
  simp [Dev.dspSettle, hout]

theorem Dev.dspSettle_adds (hfail : (d.dsp die).fail = none) (hadds : (d.dsp die).adds ≠ []) : d.dspSettle die = d := by
  simp [Dev.dspSettle, hfail, hadds]

/-- A unit that has executed END is DONE once its writes are answered and its adds sent. -/
theorem Dev.dspSettle_done (hst : d.dspSt die = dspRun) (hfail : (d.dsp die).fail = none) (hended : (d.dsp die).ended = true)
    (hout : (d.dsp die).out = []) (hadds : (d.dsp die).adds = []) :
    d.dspSettle die = (d.setDsp die dspDone).modDsp die fun u => { u with ended := false, fetched := [] } := by
  simp [Dev.dspSettle, hst, hfail, hended, hout, hadds]

/-- A unit whose step has failed halts once its writes are answered. -/
theorem Dev.dspSettle_halts {x : Nat × Nat} (hst : d.dspSt die = dspRun) (hfail : (d.dsp die).fail = some x) (hout : (d.dsp die).out = []) :
    d.dspSettle die = ((d.dspRecord die x).setDsp die dspHalt).modDsp die fun u => { u with adds := [], fetched := [], fail := none } := by
  simp [Dev.dspSettle, hst, hfail, hout]

theorem Dev.setDsp_dspSt (d : Dev) (die st : Nat) (h : st < 8) : (d.setDsp die st).dspSt die = st :=
  Dev.get_put_self _ _ _ _ _ _ (by decide) (by decide) h

/-- A recorded failure shows in DSP_STAT and DSP_FINFO. -/
theorem Dev.dspRecord_get (d : Dev) (die : Nat) (x : Nat × Nat) :
    (d.dspRecord die x).get F.DSP_STAT_CAUSE die = x.1 % 2 ^ 8 ∧ (d.dspRecord die x).get F.DSP_FINFO_INFO die = x.2 % 2 ^ 32 := by
  have howner : ∀ (d' : Dev) (g : Fld), g.reg ≠ .SBF_STAT → g.hi < 32 →
      (if x.1 = 4 then d'.put F.SBF_STAT_OWNERR 1 die else d').get g die = d'.get g die := by
    intro d' g hreg hhi
    split
    · exact Dev.get_put_apart _ _ _ _ hhi (by decide) (.inl hreg)
    · rfl
  simp only [Dev.dspRecord]
  constructor
  · rw [Agree.get (Dev.post_kp (hμ := Within.refl _) (hκ := Agree.refl ..) ..) _ (by decide) (by decide), howner _ _ (by decide) (by decide)]
    repeat rw [Dev.get_put_apart _ _ _ _ (by decide) (by decide) (by decide)]
    exact Dev.get_put _ _ _ _ _ _ (by decide) (by decide)
  · rw [Agree.get (Dev.post_kp (hμ := Within.refl _) (hκ := Agree.refl ..) ..) _ (by decide) (by decide), howner _ _ (by decide) (by decide),
      Dev.get_put_apart _ _ _ _ (by decide) (by decide) (by decide)]
    exact Dev.get_put _ _ _ _ _ _ (by decide) (by decide)

theorem Dev.dspWithdraw_dsp (d : Dev) (die : Nat) : ∃ armed, (d.dspWithdraw die).dsp die = { d.dsp die with armed := armed } := by
  unfold Dev.dspWithdraw
  dsimp only
  split
  · exact ⟨false, by simp⟩
  · exact ⟨(d.dsp die).armed, rfl⟩

/-- The first failure of a unit is kept, and its writes stay outstanding. -/
theorem Dev.dspFail_dsp (hfail : (d.dsp die).fail = none) (cause info : Nat) :
    ((d.dspFail die cause info).dsp die).fail = some (cause, info) ∧ ((d.dspFail die cause info).dsp die).out = (d.dsp die).out := by
  obtain ⟨armed, h⟩ := Dev.dspWithdraw_dsp d die
  simp [Dev.dspFail, h, hfail]

theorem Dev.dspFail_dspSt (d : Dev) (die cause info : Nat) : (d.dspFail die cause info).dspSt die = d.dspSt die :=
  (Dev.dspFail_kp d die cause info (Within.refl _) (Agree.refl ..)).get _ (by decide) (by decide) ..

/-- A step that has failed in a running unit: the halt with its cause, at once or when the outstanding writes are answered. -/
theorem Dev.dspFail_settled (hst : d.dspSt die = dspRun) (hfail : (d.dsp die).fail = none) (cause info : Nat) :
    let e := (d.dspFail die cause info).dspSettle die
    if (d.dsp die).out = [] then e.dspSt die = dspHalt ∧ e.get F.DSP_STAT_CAUSE die = cause % 2 ^ 8 ∧ e.get F.DSP_FINFO_INFO die = info % 2 ^ 32
    else (e.dsp die).fail = some (cause, info) ∧ e.dspSt die = dspRun := by
  obtain ⟨hkept, hout⟩ := Dev.dspFail_dsp hfail cause info
  have hst' := (Dev.dspFail_dspSt d die cause info).trans hst
  dsimp only
  split
  case isTrue hnone =>
    obtain ⟨hcause, hinfo⟩ := Dev.dspRecord_get (d.dspFail die cause info) die (cause, info)
    rw [Dev.dspSettle_halts hst' hkept (hout.trans hnone)]
    refine ⟨Dev.setDsp_dspSt _ _ _ (by decide), ?_, ?_⟩
    · rw [Dev.modDsp_read_get, Dev.setDsp, Dev.get_put_apart _ _ _ _ (by decide) (by decide) (by decide), hcause]
    · rw [Dev.modDsp_read_get, Dev.setDsp, Dev.get_put_apart _ _ _ _ (by decide) (by decide) (by decide), hinfo]
  case isFalse hsome =>
    rw [Dev.dspSettle_out (by rwa [hout])]
    exact ⟨hkept, hst'⟩

end

/-! The next step executed -/

/-- The state in which the next step is executed: DSP_STEP names it. -/
def Dev.dspAt (d : Dev) (die : Nat) (f : Fetched) : Dev := d.put F.DSP_STEP_INDEX (f.n % 2 ^ 23) die

theorem and_not_of_imp {a b : Bool} (h : a = true → b = true) : (a && !b) = false := by
  cases a
  · rfl
  · simp [h rfl]

section
variable {d : Dev} {die op : Nat} {f : Fetched} {rest : List Fetched} (h : d.dspNext die op f rest)
include h

theorem Dev.dspNext_op : (parseStep f.raw).op = op := by
  obtain ⟨-, -, -, -, -, hop, -⟩ := h
  exact hop

/-- A step that has all that it needs does its work. -/
theorem Dev.dspBegin_next (hout : op = 2 → (d.dsp die).out = []) :
    d.dspBegin die op = ((d.dspAt die f).dspWork die f.n (parseStep f.raw)).dspSettle die := by
  obtain ⟨hst, hlive, hended, hfetched, hf, hop, hok, hwait, hadd⟩ := h
  have hwtumb := and_not_of_imp fun hwen => (hwait hwen).1
  have hmet := and_not_of_imp fun hwen => (hwait hwen).2
  have hatumb := and_not_of_imp hadd
  have hempty : (op == 2 && !(d.dsp die).out.isEmpty) = false := and_not_of_imp fun h2 => by simp [hout (eq_of_beq h2)]
  simp only [Dev.dspBegin, hst, hlive, hended, hfetched, hf, hop, hok, hwtumb, hmet, hatumb, bne_self_eq_false, Bool.and_false, Bool.and_assoc,
    hempty, ne_eq, not_true_eq_false, Bool.false_eq_true, Bool.true_eq_false, or_self, if_false, Bool.not_true]
  rfl

variable {e : Dev} (he : Dev.dspWorked die (d.dspAt die f) e)
include he

/-- The unit after the step's work, before its result is taken. -/
theorem Dev.dspWorked_unit : e.dspSt die = dspRun ∧ (e.dsp die).fail = none ∧ (e.dsp die).ended = false ∧ (e.dsp die).fetched = f :: rest ∧
    (e.dsp die).adds = (d.dsp die).adds := by
  obtain ⟨hst, hlive, hended, hfetched, -⟩ := h
  obtain ⟨hst', hrest⟩ := he
  have hfail : (d.dsp die).fail = none := by
    simp only [Dev.dspLive, Bool.and_eq_true, Option.isNone_iff_eq_none] at hlive
    exact hlive.2
  exact ⟨hst'.trans ((Dev.get_put_apart _ _ _ _ (by decide) (by decide) (by decide)).trans hst), (congrArg Dsp.fail hrest).trans hfail,
    (congrArg Dsp.ended hrest).trans hended, (congrArg Dsp.fetched hrest).trans hfetched, (congrArg Dsp.adds hrest).trans rfl⟩

/-- A step that has succeeded leaves the list and queues its add. -/
theorem Dev.dspRan_dsp : (e.dspRan die f.n (parseStep f.raw)).dsp die =
    { e.dsp die with fetched := rest, met := false, adds := d.dspAdds die f, ended := op == 0x0F } := by
  obtain ⟨-, -, -, hfetched, hadds⟩ := Dev.dspWorked_unit h he
  simp only [Dev.dspRan, Dev.modDsp_dsp_self, Dev.dspAdds, hfetched, hadds, Dev.dspNext_op h, List.drop_one, List.tail_cons]

/-- Nothing follows at once where the step was not END. -/
theorem Dev.dspRan_stays (hend : op ≠ 0x0F) :
    (e.dspRan die f.n (parseStep f.raw)).dspSettle die = e.dspRan die f.n (parseStep f.raw) := by
  obtain ⟨-, hfail, -⟩ := Dev.dspWorked_unit h he
  have hdsp := Dev.dspRan_dsp h he
  exact Dev.dspSettle_going (by rw [hdsp]; exact hfail) (by rw [hdsp]; exact beq_false_of_ne hend)

/-- A step other than END that has succeeded: the unit goes on. -/
theorem Dev.dspRan_settled (hend : op ≠ 0x0F) :
    let e' := (e.dspRan die f.n (parseStep f.raw)).dspSettle die
    e'.dsp die = { e.dsp die with fetched := (e.dsp die).fetched.drop 1, met := false, adds := d.dspAdds die f } ∧ (e'.dsp die).fetched = rest ∧
      e'.dspSt die = dspRun ∧ e'.mem = e.mem := by
  obtain ⟨hst, -, hended, hfetched, -⟩ := Dev.dspWorked_unit h he
  have hdsp := Dev.dspRan_dsp h he
  rw [beq_false_of_ne hend] at hdsp
  dsimp only
  rw [Dev.dspRan_stays h he hend, hdsp, hfetched, hended]
  exact ⟨rfl, rfl, hst, rfl⟩

/-- A step whose work has failed: its outputs but those of a full overflow area are undefined, and the unit halts. -/
theorem Dev.dspBad_settled (cause info : Nat) :
    let e' := ((if cause = 9 then e else e.dspUndef die (parseStep f.raw)).dspFail die cause info).dspSettle die
    if (e.dsp die).out = [] then
      e'.dspSt die = dspHalt ∧ e'.get F.DSP_STAT_CAUSE die = cause % 2 ^ 8 ∧ e'.get F.DSP_FINFO_INFO die = info % 2 ^ 32
    else (e'.dsp die).fail = some (cause, info) ∧ e'.dspSt die = dspRun := by
  obtain ⟨hst, hfail, -⟩ := Dev.dspWorked_unit h he
  have hundef := Dev.dspUndef_kp e die (parseStep f.raw) (Within.refl _) (Agree.refl ..)
  have hdsp : (e.dspUndef die (parseStep f.raw)).dsp die = e.dsp die := by rw [Dev.dsp, Dev.dsp, hundef.dsps (by decide)]
  dsimp only
  by_cases h9 : cause = 9
  · rw [if_pos h9]
    exact Dev.dspFail_settled hst hfail cause info
  · rw [if_neg h9, ← hdsp]
    exact Dev.dspFail_settled ((hundef.get _ (by decide) (by decide) ..).trans hst) (by rwa [hdsp]) cause info

end

/-- What a unit makes of the result of its step's work. -/
def Dev.dspTake (die n : Nat) (s : Step) (r : DR Unit × Dev) : Dev :=
  match r.1 with
  | .ok () => r.2.dspRan die n s
  | .bad cause info => (if cause = 9 then r.2 else r.2.dspUndef die s).dspFail die cause info

section
variable (d : Dev) (die n : Nat) {s : Step}

theorem Dev.dspWork_none (h : s.op = 0 ∨ s.op = 0x0F) : d.dspWork die n s = d.dspRan die n s := by
  rcases h with h | h <;> simp [Dev.dspWork, h]

theorem Dev.dspWork_gate (h : s.op = 1) : d.dspWork die n s = Dev.dspTake die n s (d.gateRun die n s) := by
  simp only [Dev.dspWork, h]
  rfl

theorem Dev.dspWork_repack (h : s.op = 2) : d.dspWork die n s = Dev.dspTake die n s (d.repackRun die n s) := by
  simp only [Dev.dspWork, h]
  rfl

theorem Dev.dspWork_combine (h : s.op = 3) : d.dspWork die n s = Dev.dspTake die n s (d.combineRun die s) := by
  simp only [Dev.dspWork, h]
  rfl

end

/-- END executed: the unit is DONE at once, or when its writes are answered and its adds sent. -/
theorem Dev.dspEnd_settled {d : Dev} {die : Nat} {f : Fetched} {rest : List Fetched} (h : d.dspNext die 0x0F f rest) :
    let e := ((d.dspAt die f).dspRan die f.n (parseStep f.raw)).dspSettle die
    if (d.dsp die).out = [] ∧ d.dspAdds die f = [] then e.dspSt die = dspDone ∧ (e.dsp die).fetched = []
    else (e.dsp die).ended = true ∧ (e.dsp die).adds = d.dspAdds die f ∧ (e.dsp die).fetched = rest ∧ e.dspSt die = dspRun := by
  have he : Dev.dspWorked die (d.dspAt die f) (d.dspAt die f) := ⟨rfl, rfl⟩
  obtain ⟨hst, hfail, -⟩ := Dev.dspWorked_unit h he
  have hdsp := Dev.dspRan_dsp h he
  have hst' : ((d.dspAt die f).dspRan die f.n (parseStep f.raw)).dspSt die = dspRun := hst
  generalize (d.dspAt die f).dspRan die f.n (parseStep f.raw) = e at hdsp hst'
  have hfail' : (e.dsp die).fail = none := by rw [hdsp]; exact hfail
  have hended : (e.dsp die).ended = true := by rw [hdsp]; rfl
  have hout : (e.dsp die).out = (d.dsp die).out := by rw [hdsp]; rfl
  have hadds : (e.dsp die).adds = d.dspAdds die f := by rw [hdsp]
  have hfetched : (e.dsp die).fetched = rest := by rw [hdsp]
  rw [← hout, ← hadds]
  dsimp only
  split
  case isTrue hnone =>
    rw [Dev.dspSettle_done hst' hfail' hended hnone.1 hnone.2]
    exact ⟨Dev.setDsp_dspSt _ _ _ (by decide), by simp⟩
  case isFalse hsome =>
    have hstays : e.dspSettle die = e := (Classical.not_and_iff_not_or_not.mp hsome).elim Dev.dspSettle_out (Dev.dspSettle_adds hfail')
    rw [hstays]
    exact ⟨hended, rfl, hfetched, hst'⟩

/-- Settles O23: a step that has all that it needs does its work (`Dev.dspBegin_next`), all of it in one command by the model's choice (log
entry 38); the work leaves its unit but for the overflow writes (`Dev.dspWorked`), and then the step leaves the list (`Dev.dspRan_settled`,
`Dev.dspEnd_settled`) or the unit halts (`Dev.dspBad_settled`). -/
theorem dispatchSteps : Obligations.DispatchSteps := by
  intro die ups left work
  have hwork : ∀ {d : Dev} {op : Nat} {f rest} (run : Dev → Nat → Step → DR Unit × Dev), op ≠ 0x0F → (d.upset ups).dspNext die op f rest →
      (∀ p, Dev.dspWorked die p (run p f.n (parseStep f.raw)).2) →
      work d ((Dev.dspTake die f.n (parseStep f.raw) (run ((d.upset ups).dspAt die f) f.n (parseStep f.raw))).dspSettle die) run f rest := by
    intro d op f rest run hend hnext hworked
    have he := hworked ((d.upset ups).dspAt die f)
    dsimp only [work]
    split
    next hr =>
      simp only [Dev.dspTake, show (run ((d.upset ups).dspAt die f) f.n (parseStep f.raw)).1 = _ from hr]
      exact Dev.dspRan_settled hnext he hend
    next cause info hr =>
      simp only [Dev.dspTake, show (run ((d.upset ups).dspAt die f) f.n (parseStep f.raw)).1 = _ from hr]
      exact Dev.dspBad_settled hnext he cause info
  refine ⟨Effect.stepNop_of _ ?_, Effect.stepEnd_of _ ?_, Effect.gate_of _ _ ?_, Effect.repack_of _ _ ?_, Effect.combine_of _ _ ?_⟩
  · intro d _ _ f rest hnext
    rw [Dev.dspBegin_next hnext nofun, Dev.dspWork_none _ _ _ (.inl (Dev.dspNext_op hnext))]
    obtain ⟨hdsp, -, hst, -⟩ := Dev.dspRan_settled hnext ⟨rfl, rfl⟩ (by decide)
    refine ⟨hdsp, ?_, hst⟩
    rw [Dev.dspRan_stays hnext ⟨rfl, rfl⟩ (by decide)]
    exact Dev.get_put_self _ _ _ _ _ _ (by decide) (by decide) (Nat.mod_lt _ (Nat.two_pow_pos _))
  · intro d _ _ f rest hnext
    rw [Dev.dspBegin_next hnext nofun, Dev.dspWork_none _ _ _ (.inr (Dev.dspNext_op hnext))]
    exact Dev.dspEnd_settled hnext
  · intro d _ _ f rest (hnext : (d.upset ups).dspNext die 1 f rest)
    rw [Dev.dspBegin_next hnext nofun, Dev.dspWork_gate _ _ _ (Dev.dspNext_op hnext)]
    exact hwork _ (by decide) hnext fun p => Dev.gateRun_worked p ..
  · intro d _ _ f rest (hnext : (d.upset ups).dspNext die 2 f rest) hout
    rw [Dev.dspBegin_next hnext fun _ => hout, Dev.dspWork_repack _ _ _ (Dev.dspNext_op hnext)]
    exact hwork _ (by decide) hnext fun p => Dev.repackRun_worked p ..
  · intro d _ _ f rest (hnext : (d.upset ups).dspNext die 3 f rest)
    rw [Dev.dspBegin_next hnext nofun, Dev.dspWork_combine _ _ _ (Dev.dspNext_op hnext)]
    exact hwork (fun d _ s => d.combineRun die s) (by decide) hnext fun p => Dev.combineRun_worked p ..

/-! A package in which a step is executed: what the statement above assumes of one -/

/-- NOP and END that neither wait nor add. -/
def nopStep : Bytes := zeros 128
def endStep : Bytes := [0x0F] ++ zeros 127

/-- GATE of `tokens` tokens, one expert with one slot, no room for overflow records. -/
def gateStep (tokens : Nat) : Bytes :=
  [1] ++ zeros 19 ++ leBytes 2 (tokens - 1) ++ [0, 1] ++ zeros 12 ++ [64, 0, 0, 0] ++ leBytes 4 0x1000 ++ [64, 0, 0, 0] ++ leBytes 4 0x2000 ++
    leBytes 4 0x3000 ++ zeros 72

/-- REPACK, pass 1, of the area at the window's start. -/
def repackStep : Bytes :=
  [2] ++ zeros 22 ++ [0x11] ++ zeros 16 ++ leBytes 4 0x1000 ++ [64, 0, 0, 0] ++ leBytes 4 0x2000 ++ leBytes 4 0x3000 ++ [1] ++ zeros 71

/-- COMBINE of one token, one rank, one line. -/
def combineStep : Bytes := [3] ++ zeros 23 ++ [1, 0, 1, 0] ++ leBytes 4 0x1000 ++ [64] ++ zeros 7 ++ [64] ++ zeros 87

/-- Every domain is up, the memories are written, the stacks of die 0 are READY; partition 0 owns the first MiB of its shared buffer, and its dispatch
unit, with an overflow window of `size` times 64 KiB, runs with the descriptor `raw` fetched. -/
def Dev.dispatching (size : Nat) (raw : Bytes) : Dev :=
  let d := [0, 1, 2, 3].foldl (fun d stack => d.put F.HBM_STAT_STATE 2 0 stack)
    { Dev.reset with pw := List.replicate 4 ⟨true, true, true⟩, unwritten := [] }
  (((d.put F.SBF_OWNER_OWNED 1 0).put F.DSP_OVSIZE_SIZE size 0).setDsp 0 dspRun).modDsp 0 fun _ =>
    { Dsp.initial with fetched := [⟨0, raw, .ok⟩] }

theorem Dev.dispatching_dsp (size : Nat) (raw : Bytes) : (Dev.dispatching size raw).dsp 0 = { Dsp.initial with fetched := [⟨0, raw, .ok⟩] } :=
  Dev.modDsp_dsp_self ..

/-- A descriptor that obeys its conditions, with neither wait nor add, has all that it needs. -/
theorem Dev.dispatching_next {size op : Nat} {raw : Bytes} (hop : (parseStep raw).op = op) (hok : (parseStep raw).ok = true)
    (hflags : (parseStep raw).flags = 0) : (Dev.dispatching size raw).dspNext 0 op ⟨0, raw, .ok⟩ [] := by
  have hst : (Dev.dispatching size raw).dspSt 0 = dspRun := by
    rw [Dev.dispatching, Dev.dspSt, Dev.modDsp_read_get]
    exact Dev.setDsp_dspSt _ _ _ (by decide)
  have hup : (Dev.dispatching size raw).computeUp 0 = true := by
    simp [Dev.dispatching, Dev.setDsp, Dev.computeUp, Dev.pwOf]
  have hdsp := Dev.dispatching_dsp size raw
  have hlive : (Dev.dispatching size raw).dspLive 0 = true := by simp [Dev.dspLive, hst, hup, hdsp, Dsp.initial]
  refine ⟨hst, hlive, by rw [hdsp]; rfl, by rw [hdsp], rfl, hop, hok, fun hwen => ?_, fun haen => ?_⟩
  · simp [Step.wen, hflags, hasBit] at hwen
  · simp [Step.aen, hflags, hasBit] at haen

/-- Cause and DSP_FINFO of a failed work. -/
def DR.failure {α : Type} : DR α → Option (Nat × Nat)
  | .ok _ => none
  | .bad cause info => some (cause, info)

theorem DR.eq_ok {r : DR Unit} (h : r.failure = none) : r = .ok () := by
  cases r with
  | ok u => rfl
  | bad cause info => cases h

theorem DR.eq_bad {α : Type} {r : DR α} {cause info : Nat} (h : r.failure = some (cause, info)) : r = .bad cause info := by
  cases r with
  | ok a => cases h
  | bad c i => cases h; rfl

/-- The package as the step's work finds it. -/
abbrev Dev.dispatchingAt (size : Nat) (raw : Bytes) : Dev := ((Dev.dispatching size raw).upset []).put F.DSP_STEP_INDEX (0 % 2 ^ 23) 0

/-- What GATE of `tokens` tokens comes to. -/
abbrev gateResult (size tokens : Nat) : DR Unit × Dev :=
  (Dev.dispatchingAt size (gateStep tokens)).gateRun 0 0 (parseStep (gateStep tokens))

theorem gateResult_ok : (gateResult 1 1).1 = .ok () := DR.eq_ok (by decide +kernel)

/-- Without an overflow window nothing is read and nothing written. -/
theorem gateResult_noWindow : (gateResult 0 1).1 = .bad 8 0 ∧ ((gateResult 0 1).2.dsp 0).out = [] :=
  ⟨DR.eq_bad (by decide +kernel), by decide +kernel⟩

/-- Of two choices of one expert with one slot, one is lost, and the header is being written. -/
theorem gateResult_full : (gateResult 1 2).1 = .bad 9 1 ∧ ((gateResult 1 2).2.dsp 0).out ≠ [] :=
  ⟨DR.eq_bad (by decide +kernel), by decide +kernel⟩

theorem repackStep_ok : ((Dev.dispatchingAt 1 repackStep).repackRun 0 0 (parseStep repackStep)).1 = .ok () :=
  DR.eq_ok (by decide +kernel)

theorem combineStep_ok : ((Dev.dispatchingAt 0 combineStep).combineRun 0 (parseStep combineStep)).1 = .ok () :=
  DR.eq_ok (by decide +kernel)

/-- NOP leaves the list, by `dispatchSteps`. -/
theorem stepNop_witness : Completes (.stepNop 0) ⟨[], Dev.dispatching 0 nopStep⟩ fun e => (e.dsp 0).fetched = [] ∧ e.dspSt 0 = dspRun := by
  obtain ⟨hnop, -⟩ := dispatchSteps 0 []
  obtain ⟨t, hnext, hpending, h⟩ := hnop ⟨[], Dev.dispatching 0 nopStep⟩ ⟨by decide, rfl⟩
  obtain ⟨hdsp, -, hst⟩ := h _ _ (Dev.dispatching_next (by decide) (by decide) (by decide))
  exact ⟨t, hnext, hpending, by rw [hdsp, Dev.dispatching_dsp]; rfl, hst⟩

/-- END ends the list, by `dispatchSteps`. -/
theorem stepEnd_witness : Completes (.stepEnd 0) ⟨[], Dev.dispatching 0 endStep⟩ fun e => (e.dsp 0).fetched = [] ∧ e.dspSt 0 = dspDone := by
  obtain ⟨-, hend, -⟩ := dispatchSteps 0 []
  obtain ⟨t, hnext, hpending, h⟩ := hend ⟨[], Dev.dispatching 0 endStep⟩ ⟨by decide, rfl⟩
  have hdone := h _ _ (Dev.dispatching_next (by decide) (by decide) (by decide))
  rw [if_pos (by simp only [Dev.dspAdds, Dev.dispatching_dsp]; decide)] at hdone
  exact ⟨t, hnext, hpending, hdone.2, hdone.1⟩

/-- GATE of one token succeeds and leaves the list, by `dispatchSteps`. -/
theorem gate_witness : Completes (.gate 0 []) ⟨[], Dev.dispatching 1 (gateStep 1)⟩ fun e => (e.dsp 0).fetched = [] ∧ e.dspSt 0 = dspRun := by
  obtain ⟨-, -, hgate, -⟩ := dispatchSteps 0 []
  obtain ⟨t, hnext, hpending, h⟩ := hgate ⟨[], Dev.dispatching 1 (gateStep 1)⟩ ⟨by decide, rfl⟩
  have hdone := h _ _ (Dev.dispatching_next (by decide) (by decide) (by decide))
  dsimp only at hdone
  rw [gateResult_ok] at hdone
  obtain ⟨-, hfetched, hst, -⟩ := hdone
  exact ⟨t, hnext, hpending, hfetched, hst⟩

/-- GATE without an overflow window halts the unit, by `dispatchSteps`. -/
theorem gate_halt_witness : Completes (.gate 0 []) ⟨[], Dev.dispatching 0 (gateStep 1)⟩
    fun e => e.dspSt 0 = dspHalt ∧ e.get F.DSP_STAT_CAUSE 0 = 8 := by
  obtain ⟨-, -, hgate, -⟩ := dispatchSteps 0 []
  obtain ⟨t, hnext, hpending, h⟩ := hgate ⟨[], Dev.dispatching 0 (gateStep 1)⟩ ⟨by decide, rfl⟩
  have hhalt := h _ _ (Dev.dispatching_next (by decide) (by decide) (by decide))
  dsimp only at hhalt
  rw [gateResult_noWindow.1] at hhalt
  dsimp only at hhalt
  rw [if_pos gateResult_noWindow.2] at hhalt
  obtain ⟨hst, hcause, -⟩ := hhalt
  exact ⟨t, hnext, hpending, hst, hcause⟩

/-- GATE that loses a record waits for its header's answer with its failure, by `dispatchSteps`. -/
theorem gate_full_witness : Completes (.gate 0 []) ⟨[], Dev.dispatching 1 (gateStep 2)⟩
    fun e => (e.dsp 0).fail = some (9, 1) ∧ e.dspSt 0 = dspRun := by
  obtain ⟨-, -, hgate, -⟩ := dispatchSteps 0 []
  obtain ⟨t, hnext, hpending, h⟩ := hgate ⟨[], Dev.dispatching 1 (gateStep 2)⟩ ⟨by decide, rfl⟩
  have hfail := h _ _ (Dev.dispatching_next (by decide) (by decide) (by decide))
  dsimp only at hfail
  rw [gateResult_full.1] at hfail
  dsimp only at hfail
  rw [if_neg gateResult_full.2] at hfail
  exact ⟨t, hnext, hpending, hfail⟩

/-- REPACK of an area without records succeeds and leaves the list, by `dispatchSteps`. -/
theorem repack_witness : Completes (.repack 0 []) ⟨[], Dev.dispatching 1 repackStep⟩ fun e => (e.dsp 0).fetched = [] ∧ e.dspSt 0 = dspRun := by
  have hup : isUp (.repack 0 []) ⟨[], Dev.dispatching 1 repackStep⟩ := ⟨by decide, rfl⟩
  have hstep := Dev.dispatching_next (size := 1) (raw := repackStep) rfl (by decide) (by decide)
  have hout : ((Dev.dispatching 1 repackStep).dsp 0).out = [] := congrArg Dsp.out (Dev.dispatching_dsp ..)
  have hok := repackStep_ok
  unfold Dev.dispatchingAt at hok
  -- `repack` asks for one thing more after the step; with the package written out, `h` applied to it would have its work evaluated
  generalize Dev.dispatching 1 repackStep = d at *
  obtain ⟨-, -, -, hrepack, -⟩ := dispatchSteps 0 []
  obtain ⟨t, hnext, hpending, h⟩ := hrepack ⟨[], d⟩ hup
  have hdone := h _ _ hstep hout
  dsimp only at hdone
  rw [hok] at hdone
  obtain ⟨-, hfetched, hst, -⟩ := hdone
  exact ⟨t, hnext, hpending, hfetched, hst⟩

/-- COMBINE of a token with no served choice succeeds and leaves the list, by `dispatchSteps`. -/
theorem combine_witness : Completes (.combine 0 []) ⟨[], Dev.dispatching 0 combineStep⟩ fun e => (e.dsp 0).fetched = [] ∧ e.dspSt 0 = dspRun := by
  obtain ⟨-, -, -, -, hcombine⟩ := dispatchSteps 0 []
  obtain ⟨t, hnext, hpending, h⟩ := hcombine ⟨[], Dev.dispatching 0 combineStep⟩ ⟨by decide, rfl⟩
  have hdone := h _ _ (Dev.dispatching_next (by decide) (by decide) (by decide))
  dsimp only at hdone
  rw [combineStep_ok] at hdone
  obtain ⟨-, hfetched, hst, -⟩ := hdone
  exact ⟨t, hnext, hpending, hfetched, hst⟩

end Sys2Proof.Machine
end

section
/-!
The statements of 07_tumblers.md: the operations of the control network at a tumbler's home, control messages at their receivers, and the
registers of the tumbler block.
-/
namespace Sys2Proof.Machine

/-! Messages sent one after another -/

/-- Messages sent one after another follow what is in flight, in their order. -/
theorem Dev.foldl_send {α : Type} (f : α → CtlMsg) (l : List α) (d : Dev) :
    l.foldl (fun d' a => d'.send (f a)) d = { d with ctl := d.ctl ++ l.map f } := by
  induction l generalizing d with
  | nil => simp
  | cons a l ih => rw [List.foldl_cons, ih]; simp [Dev.send]

/-! A tumbler and its armed waits -/

/-- Keys of tumblers name the die and the index (R164). -/
theorem tmbKey_inj {a j home idx : Nat} (hj : j < 65536) (hidx : idx < 65536) : tmbKey a j = tmbKey home idx ↔ (a, j) = (home, idx) := by
  simp only [tmbKey, Prod.mk.injEq]
  omega

theorem Dev.setTumbler_self (d : Dev) (home idx v : Nat) : (d.setTumbler home idx v).tumbler home idx = v % 2 ^ 32 := by
  simp [Dev.tumbler, KMap.atD_put]

theorem Dev.setTumbler_other (d : Dev) {a j home idx : Nat} (v : Nat) (hj : j < 65536) (hidx : idx < 65536) (hne : (a, j) ≠ (home, idx)) :
    (d.setTumbler home idx v).tumbler a j = d.tumbler a j := by
  simp only [Dev.tumbler, Dev.setTumbler_tmb_now, KMap.atD_put, if_neg (mt (tmbKey_inj hj hidx).1 hne)]

/-- A value meets an armed wait of the tumbler (R171). -/
def WaitEnt.metBy (w : WaitEnt) (home idx v : Nat) : Bool := w.home == home && w.idx == idx && decide (w.thr ≤ v)

/-- The WAKE that answers a wait at a tumbler (R171). -/
def WaitEnt.answer (w : WaitEnt) (home idx v : Nat) : CtlMsg := ⟨.bank home, w.who, 0x09, w.slot, w.gen, w.who.peer, tumbField home idx 0, v, 0⟩

/-- The evaluation of a tumbler's waits: those that its value meets leave the table and are answered, in the table's order. -/
theorem Dev.evalWaits_eq (d : Dev) (home idx : Nat) :
    d.evalWaits home idx = { d with
      waits := d.waits.filter fun w => !w.metBy home idx (d.tumbler home idx)
      ctl := d.ctl ++ (d.waits.filter fun w => w.metBy home idx (d.tumbler home idx)).map fun w => w.answer home idx (d.tumbler home idx) } := by
  have hanswer : ∀ w ∈ d.waits.filter fun w => w.metBy home idx (d.tumbler home idx),
      (⟨.bank w.home, w.who, 0x09, w.slot, w.gen, w.who.peer, tumbField w.home w.idx 0, d.tumbler home idx, 0⟩ : CtlMsg) =
        w.answer home idx (d.tumbler home idx) := by
    intro w hw
    simp only [List.mem_filter, WaitEnt.metBy, Bool.and_eq_true, beq_iff_eq] at hw
    obtain ⟨-, ⟨hhome, hidx⟩, -⟩ := hw
    rw [hhome, hidx, WaitEnt.answer]
  rw [← List.map_congr_left hanswer]
  exact Dev.foldl_send _ _ _

/-- The new value `v` of a tumbler takes effect: the other tumblers keep theirs, exactly the waits that it meets are answered, and `more`
follows; `base` is what was in flight. -/
def Dev.updated (d e : Dev) (base : List CtlMsg) (home idx v : Nat) (more : List CtlMsg) : Prop :=
  e.tumbler home idx = v ∧ (∀ a j, j < 65536 → (a, j) ≠ (home, idx) → e.tumbler a j = d.tumbler a j) ∧
  e.waits = d.waits.filter (fun w => !w.metBy home idx v) ∧
  e.ctl = base ++ (d.waits.filter fun w => w.metBy home idx v).map (fun w => w.answer home idx v) ++ more

/-- A carry out of an addition shows in WRAP and its count, at the home (R167). -/
def Dev.wrapped (d e : Dev) (home n : Nat) : Prop :=
  if 2 ^ 32 ≤ n then e.get F.TMB_STAT_WRAP home = 1 ∧ e.get F.TMB_NWRAP_COUNT home = satAdd 32 (d.get F.TMB_NWRAP_COUNT home) 1
  else e.get F.TMB_STAT_WRAP home = d.get F.TMB_STAT_WRAP home ∧ e.get F.TMB_NWRAP_COUNT home = d.get F.TMB_NWRAP_COUNT home

theorem Dev.bankSet_updated (d : Dev) {home idx : Nat} (v : Nat) (hidx : idx < 65536) :
    d.updated (d.bankSet home idx v) d.ctl home idx (v % 2 ^ 32) [] := by
  rw [Dev.bankSet, Dev.evalWaits_eq, Dev.setTumbler_self]
  exact ⟨d.setTumbler_self .., fun a j hj hne => d.setTumbler_other v hj hidx hne, rfl, (List.append_nil _).symm⟩

theorem Dev.bankSet_get (d : Dev) (home idx v : Nat) (f : Fld) (die : Nat) : (d.bankSet home idx v).get f die = d.get f die := by
  rw [Dev.bankSet, Dev.evalWaits_eq]
  rfl

/-- The registers after an addition's carry, or without one (R167). -/
def Dev.noteWrap (d : Dev) (home n : Nat) : Dev :=
  if 2 ^ 32 ≤ n then (d.put F.TMB_STAT_WRAP 1 home).countSat F.TMB_NWRAP_COUNT 1 home else d

theorem Dev.bankAdd_eq (d : Dev) (home idx v : Nat) :
    d.bankAdd home idx v = (d.noteWrap home (d.tumbler home idx + v % 2 ^ 32)).bankSet home idx (d.tumbler home idx + v % 2 ^ 32) := rfl

theorem Dev.noteWrap_eq (d : Dev) (home n : Nat) : ∃ rf, d.noteWrap home n = { d with rf := rf } := by
  rw [Dev.noteWrap]
  split
  · exact ⟨_, rfl⟩
  · exact ⟨d.rf, rfl⟩

/-- A counter that stays at its largest value, read after it is counted up. -/
theorem Dev.get_countSat (d : Dev) (f : Fld) (k die i s : Nat) (h1 : f.hi < 32) (h2 : f.lo ≤ f.hi) :
    (d.countSat f k die i s).get f die i s = satAdd (f.hi + 1 - f.lo) (d.get f die i s) k :=
  Dev.get_put_self _ _ _ _ _ _ h1 h2 (Nat.lt_of_le_of_lt (Nat.min_le_right ..) (Nat.sub_lt (Nat.two_pow_pos _) Nat.one_pos))

theorem Dev.noteWrap_wrapped (d : Dev) (home n : Nat) : d.wrapped (d.noteWrap home n) home n := by
  unfold Dev.wrapped Dev.noteWrap
  split
  · constructor
    · rw [Dev.countSat, Dev.get_put_apart _ _ _ _ (by decide) (by decide) (by decide)]
      exact Dev.get_put_self _ _ _ _ _ _ (by decide) (by decide) (by decide)
    · rw [Dev.get_countSat _ _ _ _ _ _ (by decide) (by decide), Dev.get_put_apart _ _ _ _ (by decide) (by decide) (by decide)]
      rfl
  · exact ⟨rfl, rfl⟩

/-- An addition at the home: modulo 2^32, with its carry recorded. -/
theorem Dev.bankAdd_added (d : Dev) {home idx : Nat} (v : Nat) (hidx : idx < 65536) :
    d.updated (d.bankAdd home idx v) d.ctl home idx ((d.tumbler home idx + v % 2 ^ 32) % 2 ^ 32) [] ∧
      d.wrapped (d.bankAdd home idx v) home (d.tumbler home idx + v % 2 ^ 32) := by
  rw [Dev.bankAdd_eq]
  generalize d.tumbler home idx + v % 2 ^ 32 = n
  constructor
  · obtain ⟨rf, hrf⟩ := d.noteWrap_eq home n
    rw [hrf]
    exact Dev.bankSet_updated { d with rf := rf } n hidx
  · have h := d.noteWrap_wrapped home n
    unfold Dev.wrapped at h ⊢
    rwa [Dev.bankSet_get, Dev.bankSet_get]

/-- A message sent after an update follows its answers. -/
theorem Dev.updated_send {d e : Dev} {base : List CtlMsg} {home idx v : Nat} (h : d.updated e base home idx v []) (m : CtlMsg) :
    d.updated (e.send m) base home idx v [m] := by
  obtain ⟨hself, hother, hwaits, hctl⟩ := h
  exact ⟨hself, hother, hwaits, by rw [Dev.send_ctl_now, hctl, List.append_nil]⟩

/-! Operations at a tumbler's home -/

/-- The ACK that a home sends for a RADD: to engines, dispatch units, ports, sites and queue pairs (R170). -/
def CtlMsg.ackOf (m : CtlMsg) (home : Nat) : List CtlMsg :=
  match m.who with
  | none | some (.core _) | some (.phys _) | some (.stw _) => []
  | some w => [⟨.bank home, w, 0x08, m.slot, m.gen, m.peer, m.tumb, 0, 0⟩]

theorem Dev.ackRadd_eq (d : Dev) (home : Nat) (m : CtlMsg) : d.ackRadd home m = { d with ctl := d.ctl ++ m.ackOf home } := by
  rw [Dev.ackRadd, CtlMsg.ackOf]
  cases m.who with
  | none => simp
  | some w => cases w <;> simp [Dev.send]

theorem Dev.updated_ackRadd {d e : Dev} {base : List CtlMsg} {home idx v : Nat} (h : d.updated e base home idx v []) (m : CtlMsg) :
    d.updated (e.ackRadd home m) base home idx v (m.ackOf home) := by
  obtain ⟨hself, hother, hwaits, hctl⟩ := h
  rw [Dev.ackRadd_eq]
  exact ⟨hself, hother, hwaits, by rw [hctl, List.append_nil]⟩

section
variable {d : Dev} {home : Nat} {m : CtlMsg}

theorem Dev.bankRun_add (h : m.opc = 1) : d.bankRun home m = d.bankAdd home (m.tumb % 2 ^ 16) m.val := by simp only [Dev.bankRun, h]

theorem Dev.bankRun_set (h : m.opc = 2) : d.bankRun home m = d.bankSet home (m.tumb % 2 ^ 16) m.val := by simp only [Dev.bankRun, h]

theorem Dev.bankRun_radd (h : m.opc = 3) : d.bankRun home m = (d.bankAdd home (m.tumb % 2 ^ 16) m.val).ackRadd home m := by
  simp only [Dev.bankRun, h]

theorem Dev.bankRun_arm {w : Ep} (h : m.opc = 4) (hw : m.who = some w) :
    d.bankRun home m = d.bankArm ⟨home, m.tumb % 2 ^ 16, m.val, w, m.slot, m.gen⟩ := by
  simp only [Dev.bankRun, h, hw]

theorem Dev.bankRun_withdraw {w : Ep} (h : m.opc = 5) (hw : m.who = some w) : d.bankRun home m = d.bankWithdraw home w m.slot := by
  simp only [Dev.bankRun, h, hw]

/-- CADD replies CVAL with the value before. -/
def CtlMsg.cvalOf (m : CtlMsg) (home : Nat) (w : Ep) (v : Nat) : CtlMsg := ⟨.bank home, w, 0x0A, m.slot, m.gen, m.peer, m.tumb, v, 0⟩

theorem Dev.bankRun_cadd_equal {w : Ep} (h : m.opc = 6) (hw : m.who = some w) (hv : d.tumbler home (m.tumb % 2 ^ 16) = m.val) :
    d.bankRun home m = (d.bankAdd home (m.tumb % 2 ^ 16) (m.imm % 2 ^ 22)).send (m.cvalOf home w (d.tumbler home (m.tumb % 2 ^ 16))) := by
  simp only [Dev.bankRun, h, hw, if_pos hv, CtlMsg.cvalOf]

theorem Dev.bankRun_cadd_differs {w : Ep} (h : m.opc = 6) (hw : m.who = some w) (hv : d.tumbler home (m.tumb % 2 ^ 16) ≠ m.val) :
    d.bankRun home m = d.send (m.cvalOf home w (d.tumbler home (m.tumb % 2 ^ 16))) := by
  simp only [Dev.bankRun, h, hw, if_neg hv, CtlMsg.cvalOf]

end

section
variable {d : Dev} {w : WaitEnt}

/-- A wait that its tumbler already meets is answered at once (R171). -/
theorem Dev.bankArm_met (h : w.thr ≤ d.tumbler w.home w.idx) :
    d.bankArm w = (d.bankWithdraw w.home w.who w.slot).wakeWait (d.tumbler w.home w.idx) w := if_pos h

/-- A wait that its tumbler does not meet yet enters the table (R171). -/
theorem Dev.bankArm_unmet (h : ¬ w.thr ≤ d.tumbler w.home w.idx) :
    d.bankArm w = { d.bankWithdraw w.home w.who w.slot with waits := (d.bankWithdraw w.home w.who w.slot).waits ++ [w] } := if_neg h

end

/-! The arrival of a message -/

section
variable {d : Dev} {n opc : Nat} {noise : Bytes}

theorem Dev.ctlArrive_absent (h : d.ctlAt n opc = none) : d.ctlArrive n opc noise = d := by
  simp only [Dev.ctlArrive, h]

theorem Dev.ctlArrive_pathless {m : CtlMsg} (h : d.ctlAt n opc = some m) (hpath : d.ctlPath m = false) :
    d.ctlArrive n opc noise = d.ctlDrop n := by
  simp [Dev.ctlArrive, h, hpath]

theorem Dev.ctlArrive_checkFails {m : CtlMsg} (h : d.ctlAt n opc = some m) (hpath : d.ctlPath m = true) (hchk : m.received noise = none) :
    d.ctlArrive n opc noise = (d.ctlDrop n).chkFail m := by
  simp [Dev.ctlArrive, h, hpath, hchk]

/-- A message that is first of its way, finds its path and keeps its check reads as `x` at its receiver. -/
def Dev.arrives (d : Dev) (n opc : Nat) (noise : Bytes) (x : CtlMsg) : Prop :=
  x.opc = opc ∧ ∃ m, d.ctlAt n opc = some m ∧ d.ctlPath m = true ∧ m.received noise = some x

theorem Dev.ctlArrive_arrives {x : CtlMsg} (h : d.arrives n opc noise x) : d.ctlArrive n opc noise = ((d.ctlDrop n).ctlTo x).getD d := by
  obtain ⟨-, m, hat, hpath, hchk⟩ := h
  simp [Dev.ctlArrive, hat, hpath, hchk]

/-- Such a message is for the bank of a home. -/
def Dev.arrivesHome (d : Dev) (n opc : Nat) (noise : Bytes) (x : CtlMsg) (home : Nat) : Prop :=
  x.opc = opc ∧ ∃ m, d.ctlAt n opc = some m ∧ d.ctlPath m = true ∧ m.received noise = some x ∧ x.dst = .bank home

theorem Dev.ctlArrive_home {x : CtlMsg} {home : Nat} (h : d.arrivesHome n opc noise x home) :
    d.ctlArrive n opc noise = (d.ctlDrop n).bankRun home x := by
  obtain ⟨hopc, m, hat, hpath, hchk, hdst⟩ := h
  rw [Dev.ctlArrive_arrives ⟨hopc, m, hat, hpath, hchk⟩, Dev.ctlTo, hdst]
  rfl

end

theorem value_lt_of_die_wf {die value : Nat} (h : (decide (die < 4) && decide (value < 2 ^ 32)) = true) : value < 2 ^ 32 := by
  simp only [Bool.and_eq_true, decide_eq_true_eq] at h
  exact h.2

/-- Settles O44: each operation is one operation of the bank (`Dev.bankSet_updated`, `Dev.bankAdd_added`) on the package without the message.
A new ARM of a slot takes the place of the old one: log entry 28. -/
theorem tumblerOperations : Obligations.TumblerOperations := by
  refine ⟨fun n noise x home => ?_, fun die value => ⟨Effect.tmbValueWrite_of _ _ ?_, Effect.tmbAddWrite_of _ _ ?_⟩⟩
  · have hidx : x.tumb % 2 ^ 16 < 65536 := Nat.mod_lt _ (by decide)
    refine ⟨Effect.add_of _ _ ?_, Effect.setMsg_of _ _ ?_, Effect.radd_of _ _ ?_, Effect.arm_of _ _ ?_, Effect.withdraw_of _ _ ?_,
      Effect.cadd_of _ _ ?_⟩
    · intro d _ _ hreach
      rw [Dev.ctlArrive_home hreach, Dev.bankRun_add hreach.1]
      exact (d.ctlDrop n).bankAdd_added x.val hidx
    · intro d _ _ hreach
      rw [Dev.ctlArrive_home hreach, Dev.bankRun_set hreach.1]
      exact (d.ctlDrop n).bankSet_updated x.val hidx
    · intro d _ _ hreach
      obtain ⟨hupdated, hwrapped⟩ := (d.ctlDrop n).bankAdd_added (home := home) x.val hidx
      rw [Dev.ctlArrive_home hreach, Dev.bankRun_radd hreach.1]
      refine ⟨Dev.updated_ackRadd hupdated x, ?_⟩
      rw [Dev.ackRadd_eq]
      exact hwrapped
    · intro d _ _ hreach w hw
      rw [Dev.ctlArrive_home hreach, Dev.bankRun_arm hreach.1 hw]
      by_cases hmet : x.val ≤ d.tumbler home (x.tumb % 2 ^ 16)
      · rw [Dev.bankArm_met hmet]
        refine ⟨rfl, (if_pos hmet).mpr ?_⟩
        exact ⟨rfl, rfl⟩
      · rw [Dev.bankArm_unmet hmet]
        refine ⟨rfl, (if_neg hmet).mpr ?_⟩
        exact ⟨rfl, rfl⟩
    · intro d _ _ hreach w hw
      rw [Dev.ctlArrive_home hreach, Dev.bankRun_withdraw hreach.1 hw]
      exact ⟨rfl, rfl, rfl⟩
    · intro d _ _ hreach w hw
      by_cases hequal : d.tumbler home (x.tumb % 2 ^ 16) = x.val
      · have hadded := (d.ctlDrop n).bankAdd_added (home := home) (x.imm % 2 ^ 22) hidx
        rw [Nat.mod_eq_of_lt (show x.imm % 2 ^ 22 < 2 ^ 32 by omega)] at hadded
        obtain ⟨hupdated, hwrapped⟩ := hadded
        rw [Dev.ctlArrive_home hreach, Dev.bankRun_cadd_equal (d := d.ctlDrop n) hreach.1 hw hequal]
        refine (if_pos hequal).mpr ?_
        exact ⟨Dev.updated_send hupdated _, hwrapped⟩
      · rw [Dev.ctlArrive_home hreach, Dev.bankRun_cadd_differs (d := d.ctlDrop n) hreach.1 hw hequal]
        refine (if_neg hequal).mpr ?_
        exact ⟨rfl, rfl, rfl⟩
  · intro d hwf _
    have hset := d.bankSet_updated (home := die) value (d.get_lt F.TMB_ISEL_INDEX die 0 0)
    rwa [Nat.mod_eq_of_lt (value_lt_of_die_wf hwf)] at hset
  · intro d hwf _
    have hadded := d.bankAdd_added (home := die) value (d.get_lt F.TMB_ISEL_INDEX die 0 0)
    rwa [Nat.mod_eq_of_lt (value_lt_of_die_wf hwf)] at hadded

/-! Messages that are discarded -/

/-- A message discarded for its check is counted at the receiver's die, and touches neither tumblers nor cores (R177). -/
theorem Dev.chkFail_discards (d : Dev) (m : CtlMsg) :
    let e := d.chkFail m
    e.ctl = d.ctl ∧ e.tmb = d.tmb ∧ e.waits = d.waits ∧ e.cores = d.cores ∧
      e.get F.TMB_STAT_CHKERR m.dst.die = 1 ∧ e.get F.TMB_NCHK_COUNT m.dst.die = satAdd 32 (d.get F.TMB_NCHK_COUNT m.dst.die) 1 := by
  have hkept := Dev.chkFail_kp d m (Within.refl _) (Agree.refl ..)
  have hposted := fun e r => Dev.post_kp e m.dst.die r (Within.refl _) (Agree.refl ..)
  refine ⟨hkept.ctl rfl, hkept.tmb rfl, hkept.waits rfl, hkept.cores rfl, ?_, ?_⟩
  · refine ((hposted _ _).get _ (by decide) (by decide) ..).trans ?_
    exact Dev.get_put_self _ _ _ _ _ _ (by decide) (by decide) (by decide)
  · refine ((hposted _ _).get _ (by decide) (by decide) ..).trans ?_
    rw [Dev.get_put_apart _ _ _ _ (by decide) (by decide) (by decide)]
    exact Dev.get_countSat _ _ _ _ _ _ (by decide) (by decide)

/-- What does not reach a receiver: nothing there, or not its turn; no path; a failed check. -/
theorem Dev.ctlArrive_unreceived (d : Dev) (n opc : Nat) (noise : Bytes) :
    let e := d.ctlArrive n opc noise
    (d.ctlAt n opc = none → e = d) ∧
      ∀ m, d.ctlAt n opc = some m →
        if d.ctlPath m = false then e = { d with ctl := d.ctl.eraseIdx n }
        else m.received noise = none → e.ctl = d.ctl.eraseIdx n ∧ e.tmb = d.tmb ∧ e.waits = d.waits ∧ e.cores = d.cores ∧
          e.get F.TMB_STAT_CHKERR m.dst.die = 1 ∧ e.get F.TMB_NCHK_COUNT m.dst.die = satAdd 32 (d.get F.TMB_NCHK_COUNT m.dst.die) 1 := by
  refine ⟨fun h => Dev.ctlArrive_absent h, fun m h => ?_⟩
  split
  case isTrue hpath => exact Dev.ctlArrive_pathless h hpath
  case isFalse hpath =>
    intro hchk
    rw [Dev.ctlArrive_checkFails h (by simpa using hpath) hchk]
    exact (d.ctlDrop n).chkFail_discards m

/-! Messages at a core -/

section
variable {d : Dev} {cn p : Nat} {m : CtlMsg}

theorem Dev.coreRun_wake (hdb : d.deadbolt cn p = false) (hruns : d.cellRuns cn = true) (hopc : m.opc = 9) :
    d.coreRun cn p m = d.setCore (coreKey cn p) ((d.coreAt (coreKey cn p)).wake m.slot m.gen) := by
  simp [Dev.coreRun, hdb, hruns, hopc]

theorem Dev.coreRun_cval (hdb : d.deadbolt cn p = false) (hruns : d.cellRuns cn = true) (hopc : m.opc = 0x0A) :
    d.coreRun cn p m = d.setCore (coreKey cn p) ((d.coreAt (coreKey cn p)).cval (m.tumb % 2 ^ 18) m.val) := by
  simp [Dev.coreRun, hdb, hruns, hopc]

/-- A reply at a core changes its core alone, and nothing behind a deadbolt (R36) or in a cell that does not run. -/
theorem Dev.coreRun_reply {c : Core}
    (hreply : d.deadbolt cn p = false → d.cellRuns cn = true → d.coreRun cn p m = d.setCore (coreKey cn p) c) :
    if d.deadbolt cn p = true then (d.coreRun cn p m).cores = d.cores
    else if d.cellRuns cn = true then (d.coreRun cn p m).coreAt (coreKey cn p) = c
    else d.coreRun cn p m = d := by
  split
  case isTrue hdb =>
    rw [Dev.coreRun, if_pos hdb]
    exact (Dev.dbDiscard_kp d cn p (Within.refl _) (Agree.refl ..)).cores rfl
  case isFalse hdb =>
    split
    case isTrue hruns => rw [hreply (by simpa using hdb) hruns, Dev.setCore_coreAt_self]
    case isFalse hruns => simp [Dev.coreRun, hdb, hruns]

end

/-! Messages at a steward, a dispatch unit, a cell -/

/-- A WAKE at a steward meets its armed wait if it is of the wait's generation (R180). -/
theorem Dev.swWake_meets (d : Dev) (die : Nat) (m : CtlMsg) :
    if d.get F.TMB_SWCTL_ARMED die ≠ 0 ∧ d.swGen.getD die 0 = m.gen then
      (d.swWake die m).get F.TMB_SWCTL_ARMED die = 0 ∧ (d.swWake die m).get F.TMB_SWCTL_MET die = 1 ∧
        (d.swWake die m).get F.TMB_SWVAL_VALUE die = m.val % 2 ^ 32
    else d.swWake die m = d := by
  have hcond : (d.on? F.TMB_SWCTL_ARMED die && d.swGen.getD die 0 == m.gen) = true ↔
      d.get F.TMB_SWCTL_ARMED die ≠ 0 ∧ d.swGen.getD die 0 = m.gen := by
    simp [Dev.on?]
  split
  case isTrue h =>
    rw [Dev.swWake, if_pos (hcond.2 h)]
    refine ⟨?_, ?_, Dev.get_put _ _ _ _ _ _ (by decide) (by decide)⟩
    · repeat rw [Dev.get_put_apart _ _ _ _ (by decide) (by decide) (by decide)]
      exact Dev.get_put_self _ _ _ _ _ _ (by decide) (by decide) (by decide)
    · rw [Dev.get_put_apart _ _ _ _ (by decide) (by decide) (by decide)]
      exact Dev.get_put_self _ _ _ _ _ _ (by decide) (by decide) (by decide)
  case isFalse h => rw [Dev.swWake, if_neg (mt hcond.1 h)]

/-- A core's trap event is posted by the steward that receives it (R447); its VAL is the cause: log entry 16. -/
theorem Dev.trapEvent_core {d : Dev} {die l : Nat} {m : CtlMsg} (h : m.who = some (.core l)) :
    d.trapEvent die m = d.stwPost die ⟨1, m.val, 0, d.partOf (lcoreCell l), coreUnit l (d.physOf l % 256) (lcoreCell l),
      field (d.coreAt (d.physOf l)).trap 16 4, field (d.coreAt (d.physOf l)).trap 4 2⟩ := by
  simp only [Dev.trapEvent, h]

theorem Dev.dspRunMsg_ack {d : Dev} {die : Nat} {m : CtlMsg} (hup : d.computeUp die = true) (hopc : m.opc = 8) :
    d.dspRunMsg die m = d.dspAck die (bitsOf m.tumb 17 16) (m.tumb % 2 ^ 16) := by
  simp [Dev.dspRunMsg, hup, hopc]

theorem Dev.dspAck_unacked (d : Dev) (die home idx : Nat) : ((d.dspAck die home idx).dsp die).unacked = (d.dsp die).unacked.erase (home, idx) := by
  rw [Dev.dspAck, Dev.modDsp_dsp_self]

/-- A broadcast that carries START or ABORT does what the cell's own command does (R179). -/
theorem Dev.bcastCell_start {d : Dev} {cn : Nat} (hup : (Place.ofCompute (cellDie cn)).up d = true) :
    exec (.cellStart cn) ⟨[], d⟩ = .next ⟨[], d.bcastCell cn 1⟩ := by
  show execCellStart .. = _
  rw [execCellStart, State.onCell_up (s := ⟨[], d⟩) hup]
  rfl

theorem Dev.bcastCell_abort {d : Dev} {cn : Nat} (hup : (Place.ofCompute (cellDie cn)).up d = true) :
    exec (.cellAbort cn) ⟨[], d⟩ = .next ⟨[], d.bcastCell cn 2⟩ := by
  show execCellAbort .. = _
  rw [execCellAbort, State.onCell_up (s := ⟨[], d⟩) hup]
  rfl

theorem Dev.bcastCell_other {d : Dev} {cn cmd : Nat} (h1 : cmd ≠ 1) (h2 : cmd ≠ 2) : d.bcastCell cn cmd = d := by
  simp [Dev.bcastCell, Dev.planRun, h1, h2]

/-! The receiver of a message that arrives -/

section
variable {d : Dev} {n opc : Nat} {noise : Bytes} {x : CtlMsg} (h : d.arrives n opc noise x)
include h

theorem Dev.ctlArrive_core {l : Nat} (hdst : x.dst = .core l) :
    d.ctlArrive n opc noise = (d.ctlDrop n).coreRun (d.physOf l / 256) (d.physOf l % 256) x := by
  rw [Dev.ctlArrive_arrives h, Dev.ctlTo, hdst]
  rfl

theorem Dev.ctlArrive_dsp {die : Nat} (hdst : x.dst = .dsp die) : d.ctlArrive n opc noise = (d.ctlDrop n).dspRunMsg die x := by
  rw [Dev.ctlArrive_arrives h, Dev.ctlTo, hdst]
  rfl

theorem Dev.ctlArrive_stw_wake {die : Nat} (hopc : opc = 9) (hdst : x.dst = .stw die) : d.ctlArrive n opc noise = (d.ctlDrop n).swWake die x := by
  rw [Dev.ctlArrive_arrives h, Dev.ctlTo, hdst, h.1, hopc]
  rfl

theorem Dev.ctlArrive_stw_event {die : Nat} (hopc : opc = 0x10) (hdst : x.dst = .stw die) :
    d.ctlArrive n opc noise = (d.ctlDrop n).trapEvent die x := by
  rw [Dev.ctlArrive_arrives h, Dev.ctlTo, hdst, h.1, hopc]
  rfl

theorem Dev.ctlArrive_cell {cn : Nat} (hopc : opc = 0x11) (hdst : x.dst = .cell cn) :
    d.ctlArrive n opc noise = (d.ctlDrop n).bcastCell cn x.val := by
  rw [Dev.ctlArrive_arrives h, Dev.ctlTo, hdst, h.1, hopc]
  rfl

end

/-- Settles O45: the receivers one by one. VAL of an event is the cause and VAL of a broadcast the command (log entry 16), and the steward's
flag is in the record that it posts (log entry 118). -/
theorem controlMessages : Obligations.ControlMessages := by
  refine fun n noise => ⟨?_, fun x => ⟨Effect.wake_of _ _ ?_, Effect.cval_of _ _ ?_, Effect.ack_of _ _ ?_, Effect.event_of _ _ ?_, Effect.bcast_of _ _ ?_⟩⟩
  · have hall := fun (d : Dev) (opc : Nat) => d.ctlArrive_unreceived n opc noise
    simp only [List.forall_mem_cons, List.not_mem_nil, false_imp_iff, implies_true, and_true]
    exact ⟨Effect.add_of _ _ fun d _ _ => hall d 1, Effect.setMsg_of _ _ fun d _ _ => hall d 2, Effect.radd_of _ _ fun d _ _ => hall d 3,
      Effect.arm_of _ _ fun d _ _ => hall d 4, Effect.withdraw_of _ _ fun d _ _ => hall d 5, Effect.cadd_of _ _ fun d _ _ => hall d 6,
      Effect.ack_of _ _ fun d _ _ => hall d 8, Effect.wake_of _ _ fun d _ _ => hall d 9, Effect.cval_of _ _ fun d _ _ => hall d 0x0A,
      Effect.event_of _ _ fun d _ _ => hall d 0x10, Effect.bcast_of _ _ fun d _ _ => hall d 0x11⟩
  · intro d _ _ hreach
    refine ⟨fun die hdst => ?_, fun l hdst => ?_⟩
    · rw [Dev.ctlArrive_stw_wake hreach rfl hdst]
      exact (d.ctlDrop n).swWake_meets die x
    · rw [Dev.ctlArrive_core hreach hdst]
      exact Dev.coreRun_reply (d := d.ctlDrop n) fun hdb hruns => Dev.coreRun_wake hdb hruns hreach.1
  · intro d _ _ hreach l hdst
    rw [Dev.ctlArrive_core hreach hdst]
    exact Dev.coreRun_reply (d := d.ctlDrop n) fun hdb hruns => Dev.coreRun_cval hdb hruns hreach.1
  · intro d _ _ hreach die hdst hup
    rw [Dev.ctlArrive_dsp hreach hdst, Dev.dspRunMsg_ack (d := d.ctlDrop n) hup hreach.1]
    exact Dev.dspAck_unacked ..
  · intro d _ _ hreach die hdst l hwho
    rw [Dev.ctlArrive_stw_event hreach rfl hdst, Dev.trapEvent_core hwho]
    rfl
  · intro d _ _ hreach cn hdst _ hcarrier hcompute hdie
    have hup : (Place.ofCompute (cellDie cn)).up (d.ctlDrop n) = true := by
      simp only [Place.up, Bool.and_eq_true, decide_eq_true_eq]
      exact ⟨⟨hdie, hcarrier⟩, hcompute⟩
    rw [Dev.ctlArrive_cell hreach rfl hdst]
    refine ⟨fun hval => ?_, fun hval => ?_, fun hstart habort => Dev.bcastCell_other hstart habort⟩
    · rw [hval]
      exact Dev.bcastCell_start hup
    · rw [hval]
      exact Dev.bcastCell_abort hup

/-! Ranges of tumblers -/

theorem bitsOf_base (v : Nat) : bitsOf v 9 0 = v % 1024 := by simp [bitsOf]

theorem bitsOf_num (v : Nat) : bitsOf v 20 10 = v / 1024 % 2048 := rfl

/-- A register's field read after the whole register is set. -/
theorem Dev.get_setRaw_self (d : Dev) (f : Fld) (die i s w : Nat) (h : f.hi < 32) :
    (d.setRaw ⟨f.reg, die, i, s⟩ w).get f die i s = bitsOf w f.hi f.lo := by
  rw [Dev.get, Dev.raw_setRaw, if_pos rfl, bitsOf_mod _ _ _ _ h]

/-- A range of a partition is one register. -/
theorem Dev.rangeAt_congr {d e : Dev} {die home part : Nat}
    (h : e.raw ⟨.TMB_RANGE, die, home * 64 + part, 0⟩ = d.raw ⟨.TMB_RANGE, die, home * 64 + part, 0⟩) :
    e.rangeAt die home part = d.rangeAt die home part := by
  simp only [Dev.rangeAt, Dev.on?, Dev.get_of_raw h (f := F.TMB_RANGE_BASE) rfl, Dev.get_of_raw h (f := F.TMB_RANGE_NUM) rfl,
    Dev.get_of_raw h (f := F.TMB_RANGE_REMOTE) rfl]

theorem Dev.rangeAt_noteErr (d : Dev) (die home part : Nat) : (d.put F.TMB_STAT_RANGEERR 1 die).rangeAt die home part = d.rangeAt die home part :=
  Dev.rangeAt_congr (Dev.raw_put _ _ _ _ _ _ _ nofun)

/-- A range written with this base and count would overlap the range of another partition (R169). -/
def Dev.rangeClash (d : Dev) (die home part base num : Nat) : Prop :=
  ∃ p, p < 48 ∧ p ≠ part ∧ base < (d.rangeAt die home p).base + (d.rangeAt die home p).num ∧
    (d.rangeAt die home p).base < base + num ∧ 0 < num ∧ 0 < (d.rangeAt die home p).num

theorem Dev.rangeClash_iff (d : Dev) (die home part base num : Nat) :
    ((List.range 48).any fun p =>
      p != part && (let r := d.rangeAt die home p; decide (max base r.base < min (base + num) (r.base + r.num)))) = true ↔
      d.rangeClash die home part base num := by
  simp only [List.any_eq_true, List.mem_range, Bool.and_eq_true, bne_iff_ne, decide_eq_true_eq, Dev.rangeClash]
  refine exists_congr fun p => and_congr_right fun _ => and_congr_right fun _ => ?_
  omega

/-- The fields of a written range that are reserved together (R168). -/
def rangeReserved (v : Nat) : Prop := 1024 < v / 1024 % 2048 ∨ 1024 < v % 1024 + v / 1024 % 2048

section
variable {d : Dev} {die home part v : Nat}

theorem Dev.rangeWrite_reserved (h : rangeReserved v) :
    d.rangeWrite die (home * 64 + part) v = (d.put F.TMB_RANGE_REMOTE (v / 2 ^ 21 % 2) die (home * 64 + part)).put F.TMB_STAT_RANGEERR 1 die := by
  simp only [Dev.rangeWrite, bitsOf_base, bitsOf_num]
  exact if_pos h

theorem Dev.rangeWrite_clash (hpart : part < 64) (hok : ¬ rangeReserved v) (h : d.rangeClash die home part (v % 1024) (v / 1024 % 2048)) :
    d.rangeWrite die (home * 64 + part) v = d.put F.TMB_STAT_RANGEERR 1 die := by
  simp only [Dev.rangeWrite, bitsOf_base, bitsOf_num, show (home * 64 + part) / 64 = home by omega, show (home * 64 + part) % 64 = part by omega]
  exact (if_neg hok).trans (if_pos ((d.rangeClash_iff ..).2 h))

theorem Dev.rangeWrite_sets (hpart : part < 64) (hok : ¬ rangeReserved v) (h : ¬ d.rangeClash die home part (v % 1024) (v / 1024 % 2048)) :
    d.rangeWrite die (home * 64 + part) v = d.setRaw ⟨.TMB_RANGE, die, home * 64 + part, 0⟩ (v % 2 ^ 22) := by
  simp only [Dev.rangeWrite, bitsOf_base, bitsOf_num, show (home * 64 + part) / 64 = home by omega, show (home * 64 + part) % 64 = part by omega]
  exact (if_neg hok).trans (if_neg (mt (d.rangeClash_iff ..).1 h))

/-- A write to TMB_RANGE leaves every other range. -/
theorem Dev.rangeWrite_other (d : Dev) (die home v : Nat) {h p : Nat} (hpart : part < 64) (hp : p < 64) (hne : (h, p) ≠ (home, part)) :
    (d.rangeWrite die (home * 64 + part) v).rangeAt die h p = d.rangeAt die h p := by
  have hkey : (⟨.TMB_RANGE, die, h * 64 + p, 0⟩ : RKey) ≠ ⟨.TMB_RANGE, die, home * 64 + part, 0⟩ := by
    simp only [ne_eq, RKey.mk.injEq, Prod.mk.injEq, true_and, and_true] at hne ⊢
    omega
  by_cases hres : rangeReserved v
  · rw [Dev.rangeWrite_reserved hres, Dev.rangeAt_noteErr]
    exact Dev.rangeAt_congr (Dev.raw_put_ne _ _ _ _ _ _ _ hkey)
  · by_cases hclash : d.rangeClash die home part (v % 1024) (v / 1024 % 2048)
    · rw [Dev.rangeWrite_clash hpart hres hclash, Dev.rangeAt_noteErr]
    · rw [Dev.rangeWrite_sets hpart hres hclash]
      exact Dev.rangeAt_congr ((Dev.raw_setRaw ..).trans (if_neg hkey))

end

/-! Broadcasts -/

/-- START and ABORT of TMB_BCCMD go to every existing cell of the mask (R179). -/
theorem Dev.bcastWrite_eq (d : Dev) (die : Nat) {cmd : Nat} (h : cmd = 1 ∨ cmd = 2) :
    d.bcastWrite die cmd = { d with
      ctl := d.ctl ++ ((List.range d.ncells).filter (hasBit (d.get F.TMB_BCMASK_LO_CELLS die + 2 ^ 32 * d.get F.TMB_BCMASK_HI_CELLS die))).map
        fun cn => ⟨.stw die, .cell cn, 0x11, 0, 0, (Ep.stw die).peer, 0, cmd, 0⟩ } := by
  have hcmd : cmd % 4 = cmd := by omega
  simp only [Dev.bcastWrite, hcmd, if_pos h]
  exact Dev.foldl_send _ _ _

/-! The steward's own wait -/

/-- An operation on the tumbler of the steward's wait, under partition 0 (R180; log entry 47). -/
def Dev.swOp (d : Dev) (die opc gen val : Nat) : CtlMsg :=
  ⟨.stw die, .bank (d.get F.TMB_SWTUMB_DIE die), opc, 0, gen, (Ep.stw die).peer,
    tumbField (d.get F.TMB_SWTUMB_DIE die) (d.get F.TMB_SWTUMB_INDEX die) 0, val, 0⟩

/-- What is in flight once an armed wait has been withdrawn. -/
def Dev.swGone (d : Dev) (die : Nat) : List CtlMsg :=
  if d.get F.TMB_SWCTL_ARMED die = 0 then d.ctl else d.ctl ++ [d.swOp die 5 (d.swGen.getD die 0) 0]

theorem Dev.swWithdraw_idle {d : Dev} {die : Nat} (h : d.get F.TMB_SWCTL_ARMED die = 0) : d.swWithdraw die = d := by
  simp [Dev.swWithdraw, Dev.on?, h]

theorem Dev.swWithdraw_armed {d : Dev} {die : Nat} (h : d.get F.TMB_SWCTL_ARMED die ≠ 0) :
    d.swWithdraw die = (d.put F.TMB_SWCTL_ARMED 0 die).send (d.swOp die 5 (d.swGen.getD die 0) 0) := by
  simp only [Dev.swWithdraw, Dev.on?, bne_iff_ne, ne_eq, h, not_false_eq_true, if_true]
  rfl

/-- After WITHDRAW no wait is armed; every other field of TMB_SWCTL and every other register is as it was. -/
theorem Dev.swWithdraw_spec (d : Dev) (die : Nat) :
    (d.swWithdraw die).get F.TMB_SWCTL_ARMED die = 0 ∧ (d.swWithdraw die).swGen = d.swGen ∧ (d.swWithdraw die).ctl = d.swGone die ∧
      ∀ f : Fld, f.hi < 32 → (f.reg ≠ .TMB_SWCTL ∨ 2 < f.lo ∨ f.hi < 2) → (d.swWithdraw die).get f die = d.get f die := by
  by_cases h : d.get F.TMB_SWCTL_ARMED die = 0
  · rw [Dev.swWithdraw_idle h, Dev.swGone, if_pos h]
    exact ⟨h, rfl, rfl, fun _ _ _ => rfl⟩
  · rw [Dev.swWithdraw_armed h, Dev.swGone, if_neg h]
    exact ⟨Dev.get_put_self _ _ _ _ _ _ (by decide) (by decide) (by decide), rfl, rfl,
      fun f hhi hf => Dev.get_put_apart _ _ _ _ hhi (by decide) hf⟩

theorem Dev.swCtlWrite_arm (d : Dev) (die : Nat) : d.swCtlWrite die 1 = d.swArm die := rfl

theorem Dev.swCtlWrite_withdraw (d : Dev) (die : Nat) : d.swCtlWrite die 2 = d.swWithdraw die := rfl

/-- After ARM the wait of the next generation is armed and its operation follows the old one's WITHDRAW. -/
theorem Dev.swArm_spec (d : Dev) (die : Nat) :
    (d.swArm die).get F.TMB_SWCTL_ARMED die = 1 ∧ (d.swArm die).get F.TMB_SWCTL_MET die = 0 ∧
      (d.swArm die).swGen = d.swGen.set die ((d.swGen.getD die 0 + 1) % 16) ∧
      (d.swArm die).ctl = d.swGone die ++ [d.swOp die 4 ((d.swGen.getD die 0 + 1) % 16) (d.get F.TMB_SWTHR_THR die)] := by
  obtain ⟨-, hgen, hctl, hkept⟩ := d.swWithdraw_spec die
  have hbefore : ∀ f : Fld, f.hi < 32 → f.reg ≠ .TMB_SWCTL → ((d.swWithdraw die).put F.TMB_SWCTL_MET 0 die).get f die = d.get f die :=
    fun f hhi hf => (Dev.get_put_apart _ _ _ _ hhi (by decide) (.inl hf)).trans (hkept f hhi (.inl hf))
  refine ⟨?_, ?_, congrArg (fun g : List Nat => g.set die _) hgen, ?_⟩
  · exact Dev.get_put_self _ _ _ _ _ _ (by decide) (by decide) (by decide)
  · refine (Dev.get_put_apart _ _ _ _ (by decide) (by decide) (by decide)).trans ?_
    exact Dev.get_put_self _ _ _ _ _ _ (by decide) (by decide) (by decide)
  · unfold Dev.swArm
    simp only [Dev.sendOp_ctl_now, hbefore F.TMB_SWTUMB_DIE (by decide) (by decide), hbefore F.TMB_SWTUMB_INDEX (by decide) (by decide),
      hbefore F.TMB_SWTHR_THR (by decide) (by decide), Dev.swOp, ← hctl]
    rfl

theorem part_lt_of_wf {die home part value : Nat}
    (h : (decide (die < 4) && decide (home < 4) && decide (part < 64) && decide (value < 2 ^ 32)) = true) : part < 64 := by
  simp only [Bool.and_eq_true, decide_eq_true_eq] at h
  exact h.1.2

/-- Settles O46: the outcomes of a range write (`Dev.rangeWrite_reserved`, `Dev.rangeWrite_clash`, `Dev.rangeWrite_sets`), then the broadcasts and
the two commands of the steward's wait. Ranges exist for partitions 0–47 and the steward's wait is under partition 0 (log entry 47); a
broadcast carries its command in VAL (log entry 16). -/
theorem tumblerRegisters : Obligations.TumblerRegisters := by
  refine fun die => ⟨fun home part value => Effect.tmbRangeWrite_of _ _ _ _ ?_, ?_, Effect.stewardWaitArm_of _ ?_, Effect.stewardWaitWithdraw_of _ ?_⟩
  · intro d hwf _
    have hpart := part_lt_of_wf hwf
    refine ⟨fun hres => ?_, fun hok hclash => ?_, fun hok hclear => ?_, fun h p _ hp hne => d.rangeWrite_other die home value hpart hp hne⟩
    · rw [Dev.rangeWrite_reserved hres]
      have herr := fun (e : Dev) (f : Fld) (hhi : f.hi < 32) (hf : f.reg ≠ .TMB_STAT) =>
        Dev.get_put_ne e F.TMB_STAT_RANGEERR f 1 die 0 0 die (home * 64 + part) 0 hhi (by decide) (.inl hf)
      refine ⟨?_, ?_, ?_, Dev.get_put_self _ _ _ _ _ _ (by decide) (by decide) (by decide)⟩
      · rw [herr _ _ (by decide) (by decide), Dev.get_put_apart _ _ _ _ (by decide) (by decide) (by decide)]
      · rw [herr _ _ (by decide) (by decide), Dev.get_put_apart _ _ _ _ (by decide) (by decide) (by decide)]
      · rw [herr _ _ (by decide) (by decide)]
        exact Dev.get_put_self _ _ _ _ _ _ (by decide) (by decide) (Nat.mod_lt _ (by decide))
    · rw [Dev.rangeWrite_clash hpart hok hclash]
      exact ⟨d.rangeAt_noteErr .., Dev.get_put_self _ _ _ _ _ _ (by decide) (by decide) (by decide)⟩
    · rw [Dev.rangeWrite_sets hpart hok hclear]
      have hset : ∀ f : Fld, f.reg = .TMB_RANGE → f.hi < 22 →
          (d.setRaw ⟨.TMB_RANGE, die, home * 64 + part, 0⟩ (value % 2 ^ 22)).get f die (home * 64 + part) = bitsOf value f.hi f.lo := by
        intro f hf hhi
        rw [← hf, Dev.get_setRaw_self _ _ _ _ _ _ (by omega), bitsOf_mod _ _ _ _ hhi]
      exact ⟨(hset F.TMB_RANGE_BASE rfl (by decide)).trans (bitsOf_base value), hset F.TMB_RANGE_NUM rfl (by decide),
        hset F.TMB_RANGE_REMOTE rfl (by decide), Dev.get_of_raw (k := ⟨.TMB_STAT, die, 0, 0⟩) ((Dev.raw_setRaw ..).trans (if_neg nofun)) rfl⟩
  · simp only [List.forall_mem_cons, List.not_mem_nil, false_imp_iff, implies_true, and_true]
    exact ⟨Effect.broadcastStart_of _ fun d _ _ => d.bcastWrite_eq die (.inl rfl), Effect.broadcastAbort_of _ fun d _ _ => d.bcastWrite_eq die (.inr rfl)⟩
  · intro d _ _
    rw [Dev.swCtlWrite_arm]
    exact d.swArm_spec die
  · intro d _ _
    obtain ⟨harmed, hgen, hctl, hkept⟩ := d.swWithdraw_spec die
    rw [Dev.swCtlWrite_withdraw]
    exact ⟨harmed, hkept F.TMB_SWCTL_MET (by decide) (by decide), hgen, hctl⟩

/-! A message without errors -/

/-- A CRC stays within its width. -/
theorem crcMsb_lt {w poly init : Nat} (hpoly : poly < 2 ^ w) (hinit : init < 2 ^ w) (bs : Bytes) : crcMsb w poly init bs < 2 ^ w := by
  refine List.foldlRecOn (motive := (· < 2 ^ w)) bs _ hinit fun c hc b _ => ?_
  refine List.foldlRecOn (motive := (· < 2 ^ w)) _ _ hc fun c' _ k _ => ?_
  have hshift : c' * 2 % 2 ^ w < 2 ^ w := Nat.mod_lt _ (Nat.two_pow_pos w)
  dsimp only
  split
  · exact Nat.xor_lt_two_pow hshift hpoly
  · exact hshift

theorem xorBytes_nil (bs : Bytes) : xorBytes bs [] = bs := by cases bs <;> rfl

/-- The fields of a message fit in its bytes (R175). -/
abbrev CtlMsg.fits (m : CtlMsg) : Prop :=
  m.opc < 256 ∧ m.slot < 4 ∧ m.gen < 16 ∧ m.peer < 2 ^ 16 ∧ m.tumb < 2 ^ 32 ∧ m.val < 2 ^ 32 ∧ m.imm < 2 ^ 24

/-- A message that meets no error keeps its check and reads as it was sent (R175, R177). -/
theorem CtlMsg.received_clean {m : CtlMsg} (h : m.fits) : m.received [] = some m := by
  obtain ⟨hopc, hslot, hgen, hpeer, htumb, hval, himm⟩ := h
  have hchk : chkOf m.body % 256 = chkOf m.body := Nat.mod_eq_of_lt (crcMsb_lt (by decide) (by decide) _)
  have hlen : m.body.length = 15 := by simp [CtlMsg.body, leBytes_length]
  have htake : m.bytes.take 15 = m.body := by rw [CtlMsg.bytes, ← hlen, List.take_left]
  have htail : field m.bytes 15 1 = chkOf m.body := by
    rw [CtlMsg.bytes, field_skip _ _ _ _ (Nat.le_of_eq hlen), hlen, ← List.append_nil (leBytes _ _), field_head]
    exact hchk
  have hbytes : m.bytes = leBytes 1 m.opc ++ (leBytes 1 (m.slot % 4 + 4 * (m.gen % 16)) ++ (leBytes 2 m.peer ++ (leBytes 4 m.tumb ++
      (leBytes 4 m.val ++ (leBytes 3 m.imm ++ leBytes 1 (chkOf m.body)))))) := by
    simp only [CtlMsg.bytes, CtlMsg.body, List.append_assoc]
  rw [CtlMsg.received, xorBytes_nil]
  simp only [htake, htail, if_true]
  rw [hbytes]
  simp (disch := simp [leBytes_length]) only [field_head, field_skip, leBytes_length, Nat.reduceSub, bitsOf]
  congr <;> omega

/-! A package in which a message arrives: what the statements above assume of one -/

/-- Every domain is up and cell 0 runs. Tumbler 5 of die 0 stands at 3; core 7 waits for it to reach 5 in slot 1 and for a CVAL of it, the
steward waits too, and the dispatch unit has an add to it outstanding. `m` alone is in flight. -/
def Dev.carrying (m : CtlMsg) : Dev :=
  { ((Dev.runningOn 0).put F.TMB_SWCTL_ARMED 1 0).setCore 7
      { Core.initial with slots := Core.initial.slots.set 1 ⟨true, false, 2, 0, 5, 5⟩, cvals := [(3, 5)] } with
    ctl := [m], tmb := [(5, 3)], waits := [⟨0, 5, 5, .core 7, 1, 2⟩], dsps := [(0, { Dsp.initial with unacked := [(0, 5)] })] }

/-- An operation of core 7 on that tumbler. -/
def coreOp (opc val imm : Nat) : CtlMsg := ⟨.core 7, .bank 0, opc, 1, 2, 7, 5, val, imm⟩

/-- An add of tile engine 0 to that tumbler. -/
def engineAdd (val : Nat) : CtlMsg := ⟨.eng 0 0, .bank 0, 3, 0, 0, 0x2000, 5, val, 0⟩

/-- The WAKE that answers core 7. -/
def wakeOf (v : Nat) : CtlMsg := ⟨.bank 0, .core 7, 9, 1, 2, 7, 5, v, 0⟩

theorem Dev.carrying_ctlAt (m : CtlMsg) : (Dev.carrying m).ctlAt 0 m.opc = some m := by simp [Dev.ctlAt, Dev.carrying]

theorem Dev.carrying_ctlPath {m : CtlMsg} (hsrc : m.src.die = 0) (hdst : m.dst.die = 0) : (Dev.carrying m).ctlPath m = true := by
  rw [Dev.ctlPath, hsrc, hdst]
  rfl

theorem Dev.carrying_arrives {m : CtlMsg} (hsrc : m.src.die = 0) (hdst : m.dst.die = 0) (hfits : m.fits) :
    (Dev.carrying m).arrives 0 m.opc [] m :=
  ⟨rfl, m, Dev.carrying_ctlAt m, Dev.carrying_ctlPath hsrc hdst, CtlMsg.received_clean hfits⟩

theorem Dev.carrying_arrivesHome {m : CtlMsg} (hsrc : m.src.die = 0) (hdst : m.dst = .bank 0) (hfits : m.fits) :
    (Dev.carrying m).arrivesHome 0 m.opc [] m 0 :=
  ⟨rfl, m, Dev.carrying_ctlAt m, Dev.carrying_ctlPath hsrc (by rw [hdst]; rfl), CtlMsg.received_clean hfits, hdst⟩

theorem Completes.imp {c : Instr} {s : State} {P Q : Dev → Prop} (h : Completes c s P) (himp : ∀ e, P e → Q e) : Completes c s Q := by
  obtain ⟨t, hnext, hpending, hP⟩ := h
  exact ⟨t, hnext, hpending, himp _ hP⟩

/-- An ADD that meets the wait. -/
theorem add_meets_witness : Completes (.add 0 []) ⟨[], Dev.carrying (coreOp 1 2 0)⟩ fun e =>
    e.tumbler 0 5 = 5 ∧ e.waits = [] ∧ e.ctl = [wakeOf 5] := by
  obtain ⟨hadd, -⟩ := tumblerOperations.1 0 [] (coreOp 1 2 0) 0
  refine (hadd ⟨[], _⟩ ⟨rfl, rfl⟩).imp fun e h => ?_
  obtain ⟨⟨hvalue, -, hwaits, hctl⟩, -⟩ := h (Dev.carrying_arrivesHome rfl rfl (by decide))
  exact ⟨hvalue, hwaits, hctl⟩

/-- An ADD that wraps and meets no wait. -/
theorem add_wraps_witness : Completes (.add 0 []) ⟨[], Dev.carrying (coreOp 1 0xFFFFFFFF 0)⟩ fun e =>
    e.tumbler 0 5 = 2 ∧ e.waits = [⟨0, 5, 5, .core 7, 1, 2⟩] ∧ e.get F.TMB_STAT_WRAP 0 = 1 := by
  obtain ⟨hadd, -⟩ := tumblerOperations.1 0 [] (coreOp 1 0xFFFFFFFF 0) 0
  refine (hadd ⟨[], _⟩ ⟨rfl, rfl⟩).imp fun e h => ?_
  obtain ⟨⟨hvalue, -, hwaits, -⟩, hwrap⟩ := h (Dev.carrying_arrivesHome rfl rfl (by decide))
  obtain ⟨hstat, -⟩ := (if_pos (by decide)).mp hwrap
  exact ⟨hvalue, hwaits, hstat⟩

theorem set_witness : Completes (.setMsg 0 []) ⟨[], Dev.carrying (coreOp 2 6 0)⟩ fun e => e.tumbler 0 5 = 6 ∧ e.ctl = [wakeOf 6] := by
  obtain ⟨-, hset, -⟩ := tumblerOperations.1 0 [] (coreOp 2 6 0) 0
  refine (hset ⟨[], _⟩ ⟨rfl, rfl⟩).imp fun e h => ?_
  obtain ⟨hvalue, -, -, hctl⟩ := h (Dev.carrying_arrivesHome rfl rfl (by decide))
  exact ⟨hvalue, hctl⟩

/-- A RADD of a tile engine, which is acknowledged. -/
theorem radd_witness : Completes (.radd 0 []) ⟨[], Dev.carrying (engineAdd 1)⟩ fun e =>
    e.tumbler 0 5 = 4 ∧ e.ctl = [⟨.bank 0, .eng 0 0, 8, 0, 0, 0x2000, 5, 0, 0⟩] := by
  obtain ⟨-, -, hradd, -⟩ := tumblerOperations.1 0 [] (engineAdd 1) 0
  refine (hradd ⟨[], _⟩ ⟨rfl, rfl⟩).imp fun e h => ?_
  obtain ⟨⟨hvalue, -, -, hctl⟩, -⟩ := h (Dev.carrying_arrivesHome rfl rfl (by decide))
  exact ⟨hvalue, hctl⟩

/-- An ARM that the tumbler meets, in the slot of the wait that is armed. -/
theorem arm_met_witness : Completes (.arm 0 []) ⟨[], Dev.carrying (coreOp 4 3 0)⟩ fun e => e.waits = [] ∧ e.ctl = [wakeOf 3] := by
  obtain ⟨-, -, -, harm, -⟩ := tumblerOperations.1 0 [] (coreOp 4 3 0) 0
  refine (harm ⟨[], _⟩ ⟨rfl, rfl⟩).imp fun e h => ?_
  obtain ⟨-, hmet⟩ := h (Dev.carrying_arrivesHome rfl rfl (by decide)) (.core 7) rfl
  exact (if_pos (by decide)).mp hmet

/-- An ARM that takes the place of the wait in its slot. -/
theorem arm_unmet_witness : Completes (.arm 0 []) ⟨[], Dev.carrying (coreOp 4 4 0)⟩ fun e =>
    e.waits = [⟨0, 5, 4, .core 7, 1, 2⟩] ∧ e.ctl = [] := by
  obtain ⟨-, -, -, harm, -⟩ := tumblerOperations.1 0 [] (coreOp 4 4 0) 0
  refine (harm ⟨[], _⟩ ⟨rfl, rfl⟩).imp fun e h => ?_
  obtain ⟨-, hunmet⟩ := h (Dev.carrying_arrivesHome rfl rfl (by decide)) (.core 7) rfl
  exact (if_neg (by decide)).mp hunmet

theorem withdraw_witness : Completes (.withdraw 0 []) ⟨[], Dev.carrying (coreOp 5 0 0)⟩ fun e => e.waits = [] ∧ e.ctl = [] := by
  obtain ⟨-, -, -, -, hwithdraw, -⟩ := tumblerOperations.1 0 [] (coreOp 5 0 0) 0
  refine (hwithdraw ⟨[], _⟩ ⟨rfl, rfl⟩).imp fun e h => ?_
  obtain ⟨-, hctl, hwaits⟩ := h (Dev.carrying_arrivesHome rfl rfl (by decide)) (.core 7) rfl
  exact ⟨hwaits, hctl⟩

/-- A CADD whose value compares equal. -/
theorem cadd_equal_witness : Completes (.cadd 0 []) ⟨[], Dev.carrying (coreOp 6 3 2)⟩ fun e =>
    e.tumbler 0 5 = 5 ∧ e.ctl = [wakeOf 5, (coreOp 6 3 2).cvalOf 0 (.core 7) 3] := by
  obtain ⟨-, -, -, -, -, hcadd⟩ := tumblerOperations.1 0 [] (coreOp 6 3 2) 0
  refine (hcadd ⟨[], _⟩ ⟨rfl, rfl⟩).imp fun e h => ?_
  have hequal := h (Dev.carrying_arrivesHome rfl rfl (by decide)) (.core 7) rfl
  obtain ⟨⟨hvalue, -, -, hctl⟩, -⟩ := (if_pos (by decide)).mp hequal
  exact ⟨hvalue, hctl⟩

/-- A CADD whose value differs. -/
theorem cadd_differs_witness : Completes (.cadd 0 []) ⟨[], Dev.carrying (coreOp 6 4 2)⟩ fun e =>
    e.tumbler 0 5 = 3 ∧ e.ctl = [(coreOp 6 4 2).cvalOf 0 (.core 7) 3] := by
  obtain ⟨-, -, -, -, -, hcadd⟩ := tumblerOperations.1 0 [] (coreOp 6 4 2) 0
  refine (hcadd ⟨[], _⟩ ⟨rfl, rfl⟩).imp fun e h => ?_
  have hdiffers := h (Dev.carrying_arrivesHome rfl rfl (by decide)) (.core 7) rfl
  obtain ⟨htmb, -, hctl⟩ := (if_neg (by decide)).mp hdiffers
  exact ⟨by rw [Dev.tumbler, htmb]; rfl, hctl⟩

/-- TMB_ADD on tumbler 0, which TMB_ISEL selects at reset. -/
theorem tmbAddWrite_witness : Completes (.tmbAddWrite 0 7) ⟨[], Dev.carrying (coreOp 1 2 0)⟩ fun e =>
    e.tumbler 0 0 = 7 ∧ e.tumbler 0 5 = 3 := by
  obtain ⟨-, hadd⟩ := tumblerOperations.2 0 7
  refine (hadd ⟨[], _⟩ ⟨rfl, rfl⟩).imp fun e h => ?_
  obtain ⟨⟨hvalue, hother, -⟩, -⟩ := h
  exact ⟨hvalue, hother 0 5 (by decide) (by decide)⟩

/-- A message that fails its check: one bit of its opcode is in error. -/
theorem checkFails_witness : Completes (.add 0 [1]) ⟨[], Dev.carrying (coreOp 1 2 0)⟩ fun e =>
    e.ctl = [] ∧ e.tmb = [(5, 3)] ∧ e.get F.TMB_STAT_CHKERR 0 = 1 := by
  obtain ⟨hunreceived, -⟩ := controlMessages 0 [1]
  refine (hunreceived (.add 0 [1], 1) (.head _) ⟨[], _⟩ ⟨rfl, rfl⟩).imp fun e h => ?_
  obtain ⟨-, harrived⟩ := h
  obtain ⟨hctl, htmb, -, -, herr, -⟩ := (if_neg nofun).mp (harrived _ (Dev.carrying_ctlAt _)) (by decide +kernel)
  exact ⟨hctl, htmb, herr⟩

/-- A WAKE of its generation at the steward that waits. -/
theorem stewardWake_witness : Completes (.wake 0 []) ⟨[], Dev.carrying ⟨.bank 0, .stw 0, 9, 0, 0, 0x6000, 5, 4, 0⟩⟩ fun e =>
    e.get F.TMB_SWCTL_MET 0 = 1 ∧ e.get F.TMB_SWVAL_VALUE 0 = 4 := by
  obtain ⟨-, hreceived⟩ := controlMessages 0 []
  obtain ⟨hwake, -⟩ := hreceived ⟨.bank 0, .stw 0, 9, 0, 0, 0x6000, 5, 4, 0⟩
  refine (hwake ⟨[], _⟩ ⟨rfl, rfl⟩).imp fun e h => ?_
  obtain ⟨hsteward, -⟩ := h (Dev.carrying_arrives rfl rfl (by decide))
  obtain ⟨-, hmet, hvalue⟩ := (if_pos (by decide)).mp (hsteward 0 rfl)
  exact ⟨hmet, hvalue⟩

theorem Dev.carrying_physOf (m : CtlMsg) : (Dev.carrying m).physOf 7 = 7 := by
  show (Dev.carrying (wakeOf 0)).physOf 7 = 7
  decide

/-- Core 7 takes replies: no deadbolt stands before it and its cell runs. -/
theorem Dev.carrying_core {m : CtlMsg} {P Q R : Prop}
    (h : if (Dev.carrying m).deadbolt ((Dev.carrying m).physOf 7 / 256) ((Dev.carrying m).physOf 7 % 256) = true then P
      else if (Dev.carrying m).cellRuns ((Dev.carrying m).physOf 7 / 256) = true then Q else R) : Q := by
  have hdb : (Dev.carrying m).deadbolt (7 / 256) (7 % 256) = false := by
    show (Dev.carrying (wakeOf 0)).deadbolt (7 / 256) (7 % 256) = false
    decide
  have hruns : (Dev.carrying m).cellRuns (7 / 256) = true := by
    show (Dev.carrying (wakeOf 0)).cellRuns (7 / 256) = true
    decide
  rwa [Dev.carrying_physOf, if_neg (by simp [hdb]), if_pos hruns] at h

/-- The WAKE of core 7's slot. -/
theorem coreWake_witness : Completes (.wake 0 []) ⟨[], Dev.carrying (wakeOf 5)⟩ fun e =>
    (e.coreAt 7).slots.getD 1 ⟨false, false, 0, 0, 0, 0⟩ = ⟨true, true, 2, 0, 5, 5⟩ := by
  obtain ⟨-, hreceived⟩ := controlMessages 0 []
  obtain ⟨hwake, -⟩ := hreceived (wakeOf 5)
  refine (hwake ⟨[], _⟩ ⟨rfl, rfl⟩).imp fun e h => ?_
  obtain ⟨-, hcore⟩ := h (Dev.carrying_arrives rfl rfl (by decide))
  have hwoken := Dev.carrying_core (hcore 7 rfl)
  rw [Dev.carrying_physOf] at hwoken
  exact (congrArg (fun c : Core => c.slots.getD 1 ⟨false, false, 0, 0, 0, 0⟩) hwoken).trans (by decide)

/-- The CVAL that core 7's count register 3 awaits. -/
theorem coreCval_witness : Completes (.cval 0 []) ⟨[], Dev.carrying ⟨.bank 0, .core 7, 0x0A, 1, 2, 7, 5, 3, 0⟩⟩ fun e =>
    (e.coreAt 7).cnt.getD 3 0 = 3 ∧ (e.coreAt 7).cvals = [] := by
  obtain ⟨-, hreceived⟩ := controlMessages 0 []
  obtain ⟨-, hcval, -⟩ := hreceived ⟨.bank 0, .core 7, 0x0A, 1, 2, 7, 5, 3, 0⟩
  refine (hcval ⟨[], _⟩ ⟨rfl, rfl⟩).imp fun e h => ?_
  have hwritten := Dev.carrying_core (h (Dev.carrying_arrives rfl rfl (by decide)) 7 rfl)
  rw [Dev.carrying_physOf] at hwritten
  exact ⟨(congrArg (fun c : Core => c.cnt.getD 3 0) hwritten).trans (by decide), (congrArg Core.cvals hwritten).trans (by decide)⟩

/-- The ACK of the dispatch unit's add. -/
theorem ack_witness : Completes (.ack 0 []) ⟨[], Dev.carrying ⟨.bank 0, .dsp 0, 8, 0, 0, 0x4000, 5, 0, 0⟩⟩ fun e => (e.dsp 0).unacked = [] := by
  obtain ⟨-, hreceived⟩ := controlMessages 0 []
  obtain ⟨-, -, hack, -⟩ := hreceived ⟨.bank 0, .dsp 0, 8, 0, 0, 0x4000, 5, 0, 0⟩
  refine (hack ⟨[], _⟩ ⟨rfl, rfl⟩).imp fun e h => ?_
  exact (h (Dev.carrying_arrives rfl rfl (by decide)) 0 rfl rfl).trans (by decide)

/-- A trap event of core 7 with cause 9. -/
theorem event_witness : Completes (.event 0 []) ⟨[], Dev.carrying ⟨.core 7, .stw 0, 0x10, 0, 0, 7, 0, 9, 0⟩⟩ fun e =>
    e.ctl = [] ∧ e.get F.FLT_STAT_COUNT 0 = 1 := by
  obtain ⟨-, hreceived⟩ := controlMessages 0 []
  obtain ⟨-, -, -, hevent, -⟩ := hreceived ⟨.core 7, .stw 0, 0x10, 0, 0, 7, 0, 9, 0⟩
  refine (hevent ⟨[], _⟩ ⟨rfl, rfl⟩).imp fun e h => ?_
  rw [h (Dev.carrying_arrives rfl rfl (by decide)) 0 rfl 7 rfl]
  decide +kernel

/-- A broadcast START at cell 0. -/
theorem bcast_witness : Completes (.bcast 0 []) ⟨[], Dev.carrying ⟨.stw 0, .cell 0, 0x11, 0, 0, 0x6000, 0, 1, 0⟩⟩ fun e =>
    exec (.cellStart 0) ⟨[], (Dev.carrying ⟨.stw 0, .cell 0, 0x11, 0, 0, 0x6000, 0, 1, 0⟩).ctlDrop 0⟩ = .next ⟨[], e⟩ := by
  obtain ⟨-, hreceived⟩ := controlMessages 0 []
  obtain ⟨-, -, -, -, hbcast⟩ := hreceived ⟨.stw 0, .cell 0, 0x11, 0, 0, 0x6000, 0, 1, 0⟩
  refine (hbcast ⟨[], _⟩ ⟨rfl, rfl⟩).imp fun e h => ?_
  obtain ⟨hstart, -⟩ := h (Dev.carrying_arrives rfl rfl (by decide)) 0 rfl (by decide) rfl rfl (by decide)
  exact hstart rfl

/-- Partition 0's range on home die 0, as die 0 holds it, has tumblers 0–255. -/
def Dev.ranged : Dev := (Dev.carrying (wakeOf 0)).setRaw ⟨.TMB_RANGE, 0, 0, 0⟩ (4 * 1024)

/-- A count above 1,024. -/
theorem rangeReserved_witness : Completes (.tmbRangeWrite 0 0 1 (1025 * 1024)) ⟨[], Dev.ranged⟩ fun e => e.get F.TMB_STAT_RANGEERR 0 = 1 := by
  obtain ⟨hrange, -⟩ := tumblerRegisters 0
  refine (hrange 0 1 (1025 * 1024) ⟨[], _⟩ ⟨rfl, rfl⟩).imp fun e h => ?_
  obtain ⟨hreserved, -⟩ := h
  obtain ⟨-, -, -, herr⟩ := hreserved (by decide)
  exact herr

/-- Tumblers 128–383 for partition 1, of which partition 0 has the first half. -/
theorem rangeClash_witness : Completes (.tmbRangeWrite 0 0 1 (4 * 1024 + 2)) ⟨[], Dev.ranged⟩ fun e =>
    e.get F.TMB_STAT_RANGEERR 0 = 1 ∧ e.rangeAt 0 0 0 = Dev.ranged.rangeAt 0 0 0 := by
  obtain ⟨hrange, -⟩ := tumblerRegisters 0
  refine (hrange 0 1 (4 * 1024 + 2) ⟨[], _⟩ ⟨rfl, rfl⟩).imp fun e h => ?_
  obtain ⟨-, hclash, -, hother⟩ := h
  obtain ⟨-, herr⟩ := hclash (by decide) ⟨0, by decide⟩
  exact ⟨herr, hother 0 0 (by decide) (by decide) (by decide)⟩

/-- Tumblers 256–511 for partition 1. -/
theorem rangeSet_witness : Completes (.tmbRangeWrite 0 0 1 (4 * 1024 + 4)) ⟨[], Dev.ranged⟩ fun e =>
    e.get F.TMB_RANGE_BASE 0 1 = 4 ∧ e.get F.TMB_RANGE_NUM 0 1 = 4 := by
  obtain ⟨hrange, -⟩ := tumblerRegisters 0
  refine (hrange 0 1 (4 * 1024 + 4) ⟨[], _⟩ ⟨rfl, rfl⟩).imp fun e h => ?_
  obtain ⟨-, -, hset, -⟩ := h
  obtain ⟨hbase, hnum, -⟩ := hset (by decide) (by decide)
  exact ⟨hbase, hnum⟩

/-- START to cells 0 and 1. -/
theorem broadcastStart_witness : Completes (.broadcastStart 0) ⟨[], (Dev.carrying (wakeOf 0)).put F.TMB_BCMASK_LO_CELLS 3 0⟩ fun e =>
    e.ctl = [wakeOf 0, ⟨.stw 0, .cell 0, 0x11, 0, 0, 0x6000, 0, 1, 0⟩, ⟨.stw 0, .cell 1, 0x11, 0, 0, 0x6000, 0, 1, 0⟩] := by
  obtain ⟨-, hbroadcast, -⟩ := tumblerRegisters 0
  refine (hbroadcast (.broadcastStart 0, 1) (.head _) ⟨[], _⟩ ⟨rfl, rfl⟩).imp fun e h => ?_
  exact (congrArg Dev.ctl h).trans (by decide)

/-- The steward's armed wait gives way to one of the next generation. -/
theorem stewardWaitArm_witness : Completes (.stewardWaitArm 0) ⟨[], Dev.carrying (wakeOf 0)⟩ fun e =>
    e.get F.TMB_SWCTL_ARMED 0 = 1 ∧ e.swGen = [1, 0, 0, 0] ∧
      e.ctl = [wakeOf 0, ⟨.stw 0, .bank 0, 5, 0, 0, 0x6000, 0, 0, 0⟩, ⟨.stw 0, .bank 0, 4, 0, 1, 0x6000, 0, 0, 0⟩] := by
  obtain ⟨-, -, harm, -⟩ := tumblerRegisters 0
  refine (harm ⟨[], _⟩ ⟨rfl, rfl⟩).imp fun e h => ?_
  obtain ⟨harmed, -, hgen, hctl⟩ := h
  exact ⟨harmed, hgen, hctl.trans (by decide)⟩

theorem stewardWaitWithdraw_witness : Completes (.stewardWaitWithdraw 0) ⟨[], Dev.carrying (wakeOf 0)⟩ fun e =>
    e.get F.TMB_SWCTL_ARMED 0 = 0 ∧ e.ctl = [wakeOf 0, ⟨.stw 0, .bank 0, 5, 0, 0, 0x6000, 0, 0, 0⟩] := by
  obtain ⟨-, -, -, hwithdraw⟩ := tumblerRegisters 0
  refine (hwithdraw ⟨[], _⟩ ⟨rfl, rfl⟩).imp fun e h => ?_
  obtain ⟨harmed, -, -, hctl⟩ := h
  exact ⟨harmed, hctl.trans (by decide)⟩

end Sys2Proof.Machine
end

section
/-!
The statement of 08_memory_model.md: a steward's loads, stores and fence.
-/
namespace Sys2Proof.Machine

/-! Byte strings -/

theorem slice_getD (bs : Bytes) {p k j : Nat} (h : j < k) : (slice bs p k).getD j 0 = bs.getD (p + j) 0 := by
  simp only [slice, List.getD_eq_getElem?_getD, List.getElem?_map, List.getElem?_range h, Option.map_some, Option.getD_some]

theorem slice_slice (bs : Bytes) {p q k n : Nat} (h : q + k ≤ n) : slice (slice bs p n) q k = slice bs (p + q) k := by
  refine List.map_congr_left fun j hj => ?_
  have hjk : j < k := List.mem_range.mp hj
  rw [slice_getD _ (by omega), Nat.add_assoc]

theorem Memory.bytes_getD (m : Memory) {a n j : Nat} (h : j < n) : (m.bytes a n).getD j 0 = m.byte (a + j) := by
  induction n generalizing a j with
  | zero => omega
  | succ n ih =>
    cases j with
    | zero => rfl
    | succ j => rw [Memory.bytes, List.getD_cons_succ, ih (by omega), Nat.add_assoc, Nat.add_comm 1 j]

theorem Memory.bytes_eq_map (m : Memory) (a n : Nat) : m.bytes a n = (List.range n).map fun j => m.byte (a + j) := by
  induction n generalizing a with
  | zero => rfl
  | succ n ih =>
    rw [Memory.bytes, ih, List.range_succ_eq_map, List.map_cons, List.map_map]
    exact congrArg _ (List.map_congr_left fun j _ => by rw [Function.comp, Nat.add_assoc, Nat.add_comm 1 j])

theorem Memory.slice_bytes (m : Memory) {a n p k : Nat} (h : p + k ≤ n) : slice (m.bytes a n) p k = m.bytes (a + p) k := by
  rw [Memory.bytes_eq_map _ (a + p)]
  refine List.map_congr_left fun j hj => ?_
  have hjk : j < k := List.mem_range.mp hj
  rw [Memory.bytes_getD _ (by omega), Nat.add_assoc]

theorem leNat_lt (bs : Bytes) : leNat bs < 256 ^ bs.length := by
  induction bs with
  | nil => decide
  | cons b bs ih =>
    have hb : b.toNat < 256 := b.isLt
    rw [leNat, List.length_cons, Nat.pow_succ]
    omega

theorem field_word_lt (bs : Bytes) (p : Nat) : field bs p 4 < 2 ^ 32 := by
  have h := leNat_lt (slice bs p 4)
  rw [slice_length] at h
  exact Nat.lt_of_lt_of_eq h (by decide)

/-! One protected unit -/

/-- An access that lies within one unit touches that unit alone. -/
theorem unitsOf_within {w a n : Nat} (hn : 0 < n) (h : a % w + n ≤ w) : unitsOf w a n = [a / w * w] := by
  have hone : (a % w + n + w - 1) / w = 1 := Nat.div_eq_of_lt_le (by omega) (by omega)
  simp only [unitsOf, hone, List.range_one, List.map_cons, Nat.zero_mul, Nat.add_zero, List.map_nil]

/-- A write that lies within one unit has one part. -/
theorem splitUnits_within {w a : Nat} {bs : Bytes} (hbs : 0 < bs.length) (h : a % w + bs.length ≤ w) :
    splitUnits w a bs = [(a / w * w, a % w, bs)] := by
  have hdiv : a / w * w + a % w = a := Nat.div_add_mod' a w
  have hlo : max (a / w * w) a = a := by omega
  have hhi : min (a / w * w + w) (a + bs.length) = a + bs.length := by omega
  rw [splitUnits, unitsOf_within hbs h]
  simp only [List.map_cons, List.map_nil, hlo, hhi, Nat.sub_self, Nat.add_sub_cancel_left, slice_self]
  rw [show a - a / w * w = a % w by omega]

/-- The package afterwards stores a byte string from an address, and every other byte as before. -/
def Dev.stores (d e : Dev) (a : Nat) (bs : Bytes) : Prop :=
  ∀ x, e.mem.byte x = if a ≤ x ∧ x < a + bs.length then bs.getD (x - a) 0 else d.mem.byte x

section
variable {d : Dev} {a w : Nat}

theorem Dev.clean.readUnit {sh : Nat} (h : d.clean a w) (k : Nat) (dec : Nat → Verdict) :
    d.readUnit k a w sh dec = ⟨d.mem.bytes a w, none, 0⟩ := by
  obtain ⟨hwritten, herr⟩ := h
  simp only [Dev.readUnit, hwritten, Bool.false_eq_true, if_false, herr]

/-- A unit written back with bytes laid over what it stored: only those bytes are new. -/
theorem Dev.writeUnit_overlay_stores {p : Nat} {bs : Bytes} (hwf : d.mem.wf = true) (hp : p + bs.length ≤ w) :
    d.stores (d.writeUnit a (overlay (d.mem.bytes a w) p bs)) (a + p) bs := by
  have hlen := d.mem.bytes_length a w
  intro x
  rw [Dev.byte_writeUnit _ _ _ _ hwf, overlay_length _ _ _ (by omega), hlen]
  by_cases hx : a ≤ x ∧ x < a + w
  · rw [if_pos hx, overlay_getD _ _ _ _ (by omega)]
    by_cases hnew : a + p ≤ x ∧ x < a + p + bs.length
    · rw [if_pos hnew, if_pos (by omega), Nat.sub_sub]
    · rw [if_neg hnew, if_neg (by omega), Memory.bytes_getD _ (by omega), Nat.add_sub_cancel' hx.1]
  · rw [if_neg hx, if_neg (by omega)]

/-- A unit written whole. -/
theorem Dev.writeUnit_stores {bs : Bytes} (hwf : d.mem.wf = true) : d.stores (d.writeUnit a bs) a bs :=
  fun x => d.byte_writeUnit a x bs hwf

end

/-! HBM (R214, R223) -/

/-- A word without errors is a codeword, whatever lanes are erased (R214). -/
theorem Dev.hbVerdict_zero (d : Dev) (die off w : Nat) : d.hbVerdict die off w 0 = .clean 0 := by
  have hline : lineCode.isCodeword (symbolsOf lineCode.n 0) = true := by decide +kernel
  have hnarrow : narrowCode.isCodeword (symbolsOf narrowCode.n 0) = true := by decide +kernel
  unfold Dev.hbVerdict rsVerdict
  split
  · exact if_pos hline
  · exact if_pos hnarrow

/-- The controller does nothing about a clean unit that it has read (R226). -/
theorem Dev.clean.hbAfter {d : Dev} {die off w : Nat} (h : d.clean (hbAddr die off) w) (again : Nat) : d.hbAfter die off w again = d := by
  obtain ⟨hwritten, herr⟩ := h
  simp only [Dev.hbAfter, hwritten, Bool.false_eq_true, if_false, KMap.atD, herr, Option.getD_none, Dev.hbVerdict_zero]

/-- A write into a clean unit of HBM, whole or by read-modify-write. -/
theorem Dev.clean.hbWriteUnit_stores {d : Dev} {die u w p : Nat} {bs : Bytes} (h : d.clean (hbAddr die u) w) (hwf : d.mem.wf = true)
    (hp : p + bs.length ≤ w) : d.stores (d.hbWriteUnit die u w p bs).1 (hbAddr die u + p) bs := by
  unfold Dev.hbWriteUnit
  split
  · next hwhole =>
    rw [show p = 0 by omega, Nat.add_zero]
    exact Dev.writeUnit_stores hwf
  · have hdrawn : d.draw.2.clean (hbAddr die u) w := h
    simp only [Dev.hbRead, hdrawn.readUnit, hdrawn.hbAfter]
    exact Dev.writeUnit_overlay_stores (d := d.draw.2) hwf hp

/-- Where an offset lies, by its unit. -/
theorem hbAddr_unit (die off w : Nat) : hbAddr die (off / w * w) + off % w = hbAddr die off := by
  rw [hbAddr, Nat.add_assoc, Nat.div_add_mod', hbAddr]

/-- An access to HBM lies within one protected unit, which is clean. -/
def Dev.hbClean (d : Dev) (die off n : Nat) : Prop :=
  off % d.hbUnit die off + n ≤ d.hbUnit die off ∧ d.clean (hbAddr die (off / d.hbUnit die off * d.hbUnit die off)) (d.hbUnit die off)

theorem Dev.hbClean.hbStore_stores {d : Dev} {die off : Nat} {bs : Bytes} (h : d.hbClean die off bs.length) (hbs : 0 < bs.length)
    (hwf : d.mem.wf = true) : d.stores (d.hbStore die off bs).1 (hbAddr die off) bs := by
  obtain ⟨hwithin, hclean⟩ := h
  rw [Dev.hbStore, splitUnits_within hbs hwithin, ← hbAddr_unit die off (d.hbUnit die off)]
  exact hclean.hbWriteUnit_stores hwf hwithin

theorem Dev.hbClean.hbLoad_data {d : Dev} {die off n : Nat} (h : d.hbClean die off n) (hn : 0 < n) (again : List (Nat × Nat)) :
    (d.hbLoad die off n again).1 = ⟨d.mem.bytes (hbAddr die off) n, none, 0⟩ := by
  obtain ⟨hwithin, hclean⟩ := h
  have hunits : d.draw.2.hbUnits die off n = [(off / d.hbUnit die off * d.hbUnit die off, d.hbUnit die off)] := by
    rw [Dev.hbUnits, show d.draw.2.hbUnit die off = d.hbUnit die off from rfl, unitsOf_within hn hwithin]
    rfl
  have hread : d.draw.2.hbRead d.draw.1 die (off / d.hbUnit die off * d.hbUnit die off) (d.hbUnit die off) = ⟨_, none, 0⟩ :=
    Dev.clean.readUnit (d := d.draw.2) hclean _ _
  simp only [Dev.hbLoad, hunits, List.foldl_cons, List.foldl_nil, hread, Rd.append, List.nil_append, Option.orElse_none, Nat.add_zero]
  rw [show d.draw.2.hbUnit die off = d.hbUnit die off from rfl, show d.draw.2.mem = d.mem from rfl, Memory.slice_bytes _ hwithin, hbAddr_unit]

/-! The shared buffer (R222) -/

/-- An access to the shared buffer lies within one word, which is clean and has no merge entry. -/
def Dev.sbClean (d : Dev) (die off n : Nat) : Prop :=
  off % 32 + n ≤ 32 ∧ d.mergeEnt die (off / 32 * 32) = none ∧ d.clean (sbAddr die (off / 32 * 32)) 32

theorem sbAddr_unit (die off : Nat) : sbAddr die (off / 32 * 32) + off % 32 = sbAddr die off := by
  rw [sbAddr, Nat.add_assoc, Nat.div_add_mod', sbAddr]

/-- A read without error is not counted (R239). -/
theorem Dev.sbCount_clean (d : Dev) (die woff : Nat) (bs : Bytes) : d.sbCount die woff ⟨bs, none, 0⟩ = d := rfl

theorem Dev.clean.sbRmw_stores {d : Dev} {die woff p : Nat} {bs : Bytes} (h : d.clean (sbAddr die woff) 32) (hwf : d.mem.wf = true)
    (hp : p + bs.length ≤ 32) : d.stores (d.sbRmw die woff p bs) (sbAddr die woff + p) bs := by
  have hdrawn : d.draw.2.clean (sbAddr die woff) 32 := h
  simp only [Dev.sbRmw, Dev.sbWord, hdrawn.readUnit, Dev.sbCount_clean]
  exact Dev.writeUnit_overlay_stores (d := d.draw.2) hwf hp

theorem Dev.sbClean.sbStore_stores {d : Dev} {die off : Nat} {bs : Bytes} (h : d.sbClean die off bs.length) (hbs : 0 < bs.length)
    (hwf : d.mem.wf = true) : d.stores (d.sbStore die off bs) (sbAddr die off) bs := by
  obtain ⟨hwithin, hmerge, hclean⟩ := h
  rw [Dev.sbStore, splitUnits_within hbs hwithin, ← sbAddr_unit]
  simp only [List.foldl_cons, List.foldl_nil]
  split
  · next hwhole =>
    rw [show off % 32 = 0 by omega, Nat.add_zero]
    exact Dev.writeUnit_stores (d := d.sbDropEnt die _) hwf
  · rw [Dev.sbFlush, hmerge]
    exact hclean.sbRmw_stores hwf hwithin

theorem Dev.sbClean.sbLoad_data {d : Dev} {die off n : Nat} (h : d.sbClean die off n) (hn : 0 < n) :
    (d.sbLoad die off n).1 = ⟨d.mem.bytes (sbAddr die off) n, none, 0⟩ := by
  obtain ⟨hwithin, hmerge, hclean⟩ := h
  have hdrawnMerge : d.draw.2.mergeEnt die (off / 32 * 32) = none := hmerge
  have hdrawn : d.draw.2.clean (sbAddr die (off / 32 * 32)) 32 := hclean
  simp only [Dev.sbLoad, unitsOf_within hn hwithin, Dev.sbWords, Dev.sbWordM, hdrawnMerge, Dev.sbWord, hdrawn.readUnit, Rd.append,
    List.append_nil, Option.orElse_none, Nat.add_zero]
  rw [show d.draw.2.mem = d.mem from rfl, Memory.slice_bytes _ hwithin, sbAddr_unit]

/-! Tumblers (R165) -/

theorem Dev.bankSet_tumbler (d : Dev) (home idx v j : Nat) :
    (d.bankSet home idx v).tumbler home j = if j = idx then v % 2 ^ 32 else d.tumbler home j := by
  have hkey : tmbKey home j = tmbKey home idx ↔ j = idx := by simp only [tmbKey]; omega
  rw [Dev.bankSet, Dev.evalWaits_eq]
  simp only [Dev.tumbler, Dev.setTumbler_tmb_now, KMap.atD_put, hkey]
  split
  · exact BitVec.toNat_ofNat ..
  · rfl

/-- Tumblers set one after another from an index on. -/
theorem Dev.foldl_bankSet_tumbler (d : Dev) (home i : Nat) (v : Nat → Nat) (n j : Nat) :
    ((List.range n).foldl (fun d' m => d'.bankSet home (i + m) (v m)) d).tumbler home j =
      if i ≤ j ∧ j < i + n then v (j - i) % 2 ^ 32 else d.tumbler home j := by
  induction n with
  | zero => rw [if_neg (by omega)]; rfl
  | succ n ih =>
    rw [List.range_succ, List.foldl_append, List.foldl_cons, List.foldl_nil, Dev.bankSet_tumbler, ih]
    by_cases hj : j = i + n
    · rw [if_pos hj, if_pos (by omega), hj, Nat.add_sub_cancel_left]
    · rw [if_neg hj]
      by_cases hin : i ≤ j ∧ j < i + n
      · rw [if_pos hin, if_pos (by omega)]
      · rw [if_neg hin, if_neg (by omega)]

/-- Whole words stored to space 2 set the tumblers that they name and no other of the die. -/
theorem Dev.tumbStore_tumbler (d : Dev) {die off : Nat} {bs : Bytes} (hoff : off % 4 = 0) (hlen : bs.length % 4 = 0) (j : Nat) :
    (d.tumbStore die off bs).tumbler die j =
      if off / 4 ≤ j ∧ j < (off + bs.length) / 4 then field bs (4 * (j - off / 4)) 4 else d.tumbler die j := by
  have hend : (off + bs.length) / 4 = off / 4 + bs.length / 4 := by omega
  rw [Dev.tumbStore, if_neg (by omega), Dev.foldl_bankSet_tumbler, hend, Nat.mod_eq_of_lt (field_word_lt ..)]

theorem Dev.tumbStore_mem (d : Dev) (die off : Nat) (bs : Bytes) : (d.tumbStore die off bs).mem = d.mem :=
  (Dev.tumbStore_kp (hμ := Within.refl _) (hκ := Agree.refl _ _) ..).mem (by decide)

/-! A steward's access -/

/-- An access that some space takes and whose home is there (R22, R187). -/
abbrev Dev.ioTakes (d : Dev) (die g n : Nat) : Prop :=
  gpaPkg g = d.get F.KRG_PKG_PKG die ∧ gpaDie g < d.ndies ∧ gpaSpace g ≤ 3 ∧ d.ioRange g n = true ∧ d.ioHome die g = true

section
variable {d : Dev} {die g n : Nat} {write : Bool} {bs answer : Bytes} {ups again : List (Nat × Nat)}

theorem Dev.stwIoAccess_fault (hup : d.carrierUp die = true) (h : ¬ d.ioTakes die g n) :
    d.stwIoAccess die g n write bs answer ups again = d.stwResult die [] true := by
  have hfault : gpaPkg g ≠ d.get F.KRG_PKG_PKG die ∨ d.ndies ≤ gpaDie g ∨ 3 < gpaSpace g ∨ d.ioRange g n = false ∨
      d.ioHome die g = false := by
    simpa only [Dev.ioTakes, Classical.not_and_iff_not_or_not, Nat.not_lt, Nat.not_le, Bool.not_eq_true] using h
  rw [Dev.stwIoAccess, if_neg (by rw [hup]; decide), if_pos hfault]

theorem Dev.ioTakes.stwIoAccess (h : d.ioTakes die g n) (hup : d.carrierUp die = true) :
    d.stwIoAccess die g n write bs answer ups again = if write then d.ioStore die g (slice bs 0 n) else d.ioLoad die g n ups again answer := by
  obtain ⟨hpkg, hdie, hspace, hrange, hhome⟩ := h
  rw [Dev.stwIoAccess, if_neg (by rw [hup]; decide), if_neg]
  rintro (hno | hno | hno | hno | hno)
  · exact hno hpkg
  · omega
  · omega
  · exact absurd (hrange.symm.trans hno) (by decide)
  · exact absurd (hhome.symm.trans hno) (by decide)

/-- A store is counted and changes no more of the package by that. -/
theorem Dev.stwStore_eq (d : Dev) (die : Nat) : ∃ io, d.stwStore die = { d with stwIo := io } := by
  unfold Dev.stwStore
  split <;> exact ⟨_, rfl⟩

/-- What a store stores, its operand longer or shorter than the access. -/
theorem Dev.stores.of_slice {e : Dev} {a : Nat} (h : d.stores e a (slice bs 0 n)) (x : Nat) :
    e.mem.byte x = if a ≤ x ∧ x < a + n then bs.getD (x - a) 0 else d.mem.byte x := by
  have hx := h x
  rw [slice_length] at hx
  split at hx
  · next hin => rw [hx, if_pos hin, slice_getD _ (by omega), Nat.zero_add]
  · next hout => rw [hx, if_neg hout]

theorem Dev.ioStore_hbm (hspace : gpaSpace g = 0) (h : d.hbClean (gpaDie g) (gpaOff g) bs.length) (hbs : 0 < bs.length) (hwf : d.mem.wf = true) :
    d.stores (d.ioStore die g bs) (hbAddr (gpaDie g) (gpaOff g)) bs := by
  obtain ⟨io, hio⟩ := d.stwStore_eq die
  simp only [Dev.ioStore, hspace, hio]
  exact Dev.hbClean.hbStore_stores (d := { d with stwIo := io }) h hbs hwf

theorem Dev.ioStore_sbuf (hspace : gpaSpace g = 1) (h : d.sbClean (gpaDie g) (gpaOff g) bs.length) (hbs : 0 < bs.length) (hwf : d.mem.wf = true) :
    d.stores (d.ioStore die g bs) (sbAddr (gpaDie g) (gpaOff g)) bs := by
  obtain ⟨io, hio⟩ := d.stwStore_eq die
  simp only [Dev.ioStore, hspace, hio]
  exact Dev.sbClean.sbStore_stores (d := { d with stwIo := io }) h hbs hwf

theorem Dev.ioStore_tumbler (hspace : gpaSpace g = 2) (hoff : gpaOff g % 4 = 0) (hlen : bs.length % 4 = 0) (j : Nat) :
    (d.ioStore die g bs).tumbler (gpaDie g) j =
      if gpaOff g / 4 ≤ j ∧ j < (gpaOff g + bs.length) / 4 then field bs (4 * (j - gpaOff g / 4)) 4 else d.tumbler (gpaDie g) j := by
  obtain ⟨io, hio⟩ := d.stwStore_eq die
  simp only [Dev.ioStore, hspace, hio]
  exact Dev.tumbStore_tumbler _ hoff hlen j

theorem Dev.ioStore_mem (hspace : gpaSpace g = 2 ∨ gpaSpace g = 3) : (d.ioStore die g bs).mem = d.mem := by
  obtain ⟨io, hio⟩ := d.stwStore_eq die
  rcases hspace with hspace | hspace <;> simp only [Dev.ioStore, hspace, hio]
  exact Dev.tumbStore_mem ..

/-- No error strikes a stored word. -/
theorem Dev.upset_nil (d : Dev) : d.upset [] = d := rfl

theorem Dev.ioLoad_hbm (hspace : gpaSpace g = 0) (h : d.hbClean (gpaDie g) (gpaOff g) n) (hn : 0 < n) :
    (d.ioLoad die g n [] again answer).answered die (d.mem.bytes (hbAddr (gpaDie g) (gpaOff g)) n) false := by
  simp only [Dev.ioLoad, hspace, Dev.upset_nil, h.hbLoad_data hn, Option.isSome_none]
  exact Dev.stwResult_answered ..

theorem Dev.ioLoad_sbuf (hspace : gpaSpace g = 1) (h : d.sbClean (gpaDie g) (gpaOff g) n) (hn : 0 < n) :
    (d.ioLoad die g n [] again answer).answered die (d.mem.bytes (sbAddr (gpaDie g) (gpaOff g)) n) false := by
  simp only [Dev.ioLoad, hspace, Dev.upset_nil, h.sbLoad_data hn, Option.isSome_none]
  exact Dev.stwResult_answered ..

theorem Dev.ioLoad_tumbler (hspace : gpaSpace g = 2) :
    (d.ioLoad die g n ups again answer).answered die (slice (d.tumblerLine (gpaDie g) (gpaOff g / 64 * 64)) (gpaOff g % 64) n) false := by
  simp only [Dev.ioLoad, hspace]
  exact Dev.stwResult_answered ..

theorem Dev.ioLoad_site (hspace : gpaSpace g = 3) : (d.ioLoad die g n ups again answer).answered die (slice answer 0 n) false := by
  simp only [Dev.ioLoad, hspace]
  exact Dev.stwResult_answered ..

theorem Dev.ioLoad_tmb : (d.ioLoad die g n ups again answer).tmb = d.tmb :=
  (Dev.ioLoad_kp (hμ := Within.refl _) (hκ := Agree.refl _ _) ..).tmb (by decide)

theorem Dev.stwFence_noStores {x : Bytes × Bool × Nat} (h : d.stwIo.at? die = some x) : (d.stwFence die).stwIo.at? die = some (x.1, x.2.1, 0) := by
  simp only [Dev.stwFence, h, KMap.at?_put, if_true]

end

/-- The carrier domain of a unit's die is up where the unit is. -/
theorem Place.ofCarrier_up {d : Dev} {die : Nat} (h : (Place.ofCarrier die).up d = true) : d.carrierUp die = true :=
  (Bool.and_eq_true_iff.mp h).2

/-- Settles O32: an access that is taken is a store or a load of its space (`Dev.ioTakes.stwIoAccess`), which within one clean unit reads
what is stored, with no correction, and writes its bytes alone. That a store to space 2 sets tumblers and that space 3 answers by an operand is
log entry 45, that a fence completes at once log entry 46. -/
theorem stewardMemory : Obligations.StewardMemory := by
  intro die g len data answer ups again
  refine ⟨fun write => Effect.stewardMemoryAccess_of _ _ _ _ _ _ _ _ ?_, Effect.stewardMemoryAccess_of _ _ _ _ _ _ _ _ ?_,
    Effect.stewardMemoryAccess_of _ _ _ _ _ _ _ _ ?_, Effect.stewardFence_of _ fun d _ _ x hx => Dev.stwFence_noStores hx⟩
  · intro d _ hup hfault
    rw [Dev.stwIoAccess_fault (Place.ofCarrier_up hup) hfault]
    exact ⟨Dev.stwResult_answered .., rfl, rfl, rfl⟩
  · intro d _ hup htakes hlen hwf
    rw [Dev.ioTakes.stwIoAccess htakes (Place.ofCarrier_up hup), if_pos rfl]
    have hslice : (slice data 0 len).length = len := slice_length ..
    refine ⟨fun hspace hwithin hclean => (Dev.ioStore_hbm hspace ?_ (by omega) hwf).of_slice,
      fun hspace hwithin hmerge hclean => (Dev.ioStore_sbuf hspace ?_ (by omega) hwf).of_slice, fun hspace hoff hwords j => ?_, Dev.ioStore_mem⟩
    · rw [hslice]
      exact ⟨hwithin, hclean⟩
    · rw [hslice]
      exact ⟨hwithin, hmerge, hclean⟩
    · rw [Dev.ioStore_tumbler hspace hoff (by omega), hslice]
      refine ite_congr rfl (fun hin => ?_) fun _ => rfl
      rw [field, slice_slice _ (by omega), Nat.zero_add, field]
  · intro d _ hup htakes hlen
    rw [Dev.ioTakes.stwIoAccess htakes (Place.ofCarrier_up hup), if_neg (by decide)]
    refine ⟨?_, ?_, Dev.ioLoad_tumbler, Dev.ioLoad_site, Dev.ioLoad_tmb⟩
    · rintro hspace rfl hwithin hclean
      exact Dev.ioLoad_hbm hspace ⟨hwithin, hclean⟩ hlen
    · rintro hspace rfl hwithin hmerge hclean
      exact Dev.ioLoad_sbuf hspace ⟨hwithin, hmerge, hclean⟩ hlen

/-! A package that takes a steward's accesses to every space: what the statement above assumes of one -/

/-- Every domain is up, the memories are written, HBM stack 0 and the site of die 0 are up, the site with a window of 4 KiB. The first bytes of HBM
are 1 and 2, the first of the shared buffer are 3 and 4, tumblers 0 and 1 stand at 5 and 6. Die 0's steward last loaded a 7 and has stored twice since
its last fence. -/
def Dev.ioServing : Dev :=
  { ((({ Dev.reset with pw := List.replicate 4 ⟨true, true, true⟩, unwritten := [] }.put F.HBM_STAT_STATE 2 0 0).put F.AUX_STAT_STATE 3 0).put
      F.AUX_WIN_WLOG2 12 0) with
    mem := [(0, 1), (1, 2), (2 ^ 43, 3), (2 ^ 43 + 1, 4)], tmb := [(0, 5), (1, 6)], stwIo := [(0, [7], false, 2)] }

theorem Dev.ioServing_up : (Place.ofCarrier 0).up Dev.ioServing = true := rfl

theorem Dev.ioServing_takes : ∀ space < 4, ∀ n ∈ [1, 2, 4], Dev.ioServing.ioTakes 0 (space * 2 ^ 43) n := by decide

theorem Dev.ioServing_clean (a w : Nat) : Dev.ioServing.clean a w := ⟨rfl, rfl⟩

/-- A space above 3 takes no access. -/
theorem stewardFault_witness : Completes (.stewardMemoryAccess 0 (4 * 2 ^ 43) 4 true [9] [] [] []) ⟨[], Dev.ioServing⟩ fun e =>
    e.answered 0 [] true ∧ e.mem = Dev.ioServing.mem := by
  obtain ⟨hfault, -⟩ := stewardMemory 0 (4 * 2 ^ 43) 4 [9] [] [] []
  refine (hfault true ⟨[], _⟩ ⟨rfl, Dev.ioServing_up⟩).imp fun e h => ?_
  obtain ⟨hanswer, hmem, -⟩ := h (by decide)
  exact ⟨hanswer, hmem⟩

/-- One byte of a line of HBM. -/
theorem stewardStore_hbm_witness : Completes (.stewardMemoryAccess 0 (0 * 2 ^ 43) 1 true [9] [] [] []) ⟨[], Dev.ioServing⟩ fun e =>
    e.mem.byte 0 = 9 ∧ e.mem.byte 1 = 2 := by
  obtain ⟨-, hstore, -⟩ := stewardMemory 0 (0 * 2 ^ 43) 1 [9] [] [] []
  refine (hstore ⟨[], _⟩ ⟨rfl, Dev.ioServing_up⟩).imp fun e h => ?_
  obtain ⟨hhbm, -⟩ := h (Dev.ioServing_takes 0 (by decide) 1 (by decide)) (by decide) (by decide)
  have hwrote := hhbm rfl (by decide) (Dev.ioServing_clean ..)
  exact ⟨(hwrote 0).trans (by decide), (hwrote 1).trans (by decide)⟩

/-- One byte of a word of the shared buffer. -/
theorem stewardStore_sbuf_witness : Completes (.stewardMemoryAccess 0 (1 * 2 ^ 43) 1 true [9] [] [] []) ⟨[], Dev.ioServing⟩ fun e =>
    e.mem.byte (2 ^ 43) = 9 ∧ e.mem.byte (2 ^ 43 + 1) = 4 := by
  obtain ⟨-, hstore, -⟩ := stewardMemory 0 (1 * 2 ^ 43) 1 [9] [] [] []
  refine (hstore ⟨[], _⟩ ⟨rfl, Dev.ioServing_up⟩).imp fun e h => ?_
  obtain ⟨-, hsbuf, -⟩ := h (Dev.ioServing_takes 1 (by decide) 1 (by decide)) (by decide) (by decide)
  have hwrote := hsbuf rfl (by decide) rfl (Dev.ioServing_clean ..)
  exact ⟨(hwrote _).trans (by decide), (hwrote _).trans (by decide)⟩

/-- One whole word of space 2. -/
theorem stewardStore_tumbler_witness : Completes (.stewardMemoryAccess 0 (2 * 2 ^ 43) 4 true [9] [] [] []) ⟨[], Dev.ioServing⟩ fun e =>
    e.tumbler 0 0 = 9 ∧ e.tumbler 0 1 = 6 ∧ e.mem = Dev.ioServing.mem := by
  obtain ⟨-, hstore, -⟩ := stewardMemory 0 (2 * 2 ^ 43) 4 [9] [] [] []
  refine (hstore ⟨[], _⟩ ⟨rfl, Dev.ioServing_up⟩).imp fun e h => ?_
  obtain ⟨-, -, htumbler, hmem⟩ := h (Dev.ioServing_takes 2 (by decide) 4 (by decide)) (by decide) (by decide)
  have hset := htumbler rfl (by decide) (by decide)
  exact ⟨(hset 0).trans (by decide), (hset 1).trans (by decide), hmem (.inl rfl)⟩

/-- Two bytes of a line of HBM. -/
theorem stewardLoad_hbm_witness : Completes (.stewardMemoryAccess 0 (0 * 2 ^ 43) 2 false [] [] [] []) ⟨[], Dev.ioServing⟩ fun e =>
    e.answered 0 [1, 2] false := by
  obtain ⟨-, -, hload, -⟩ := stewardMemory 0 (0 * 2 ^ 43) 2 [] [] [] []
  refine (hload ⟨[], _⟩ ⟨rfl, Dev.ioServing_up⟩).imp fun e h => ?_
  obtain ⟨hhbm, -⟩ := h (Dev.ioServing_takes 0 (by decide) 2 (by decide)) (by decide)
  exact hhbm rfl rfl (by decide) (Dev.ioServing_clean ..)

/-- Two bytes of a word of the shared buffer. -/
theorem stewardLoad_sbuf_witness : Completes (.stewardMemoryAccess 0 (1 * 2 ^ 43) 2 false [] [] [] []) ⟨[], Dev.ioServing⟩ fun e =>
    e.answered 0 [3, 4] false := by
  obtain ⟨-, -, hload, -⟩ := stewardMemory 0 (1 * 2 ^ 43) 2 [] [] [] []
  refine (hload ⟨[], _⟩ ⟨rfl, Dev.ioServing_up⟩).imp fun e h => ?_
  obtain ⟨-, hsbuf, -⟩ := h (Dev.ioServing_takes 1 (by decide) 2 (by decide)) (by decide)
  exact hsbuf rfl rfl (by decide) rfl (Dev.ioServing_clean ..)

/-- Tumbler 0 loaded from space 2. -/
theorem stewardLoad_tumbler_witness : Completes (.stewardMemoryAccess 0 (2 * 2 ^ 43) 4 false [] [] [] []) ⟨[], Dev.ioServing⟩ fun e =>
    e.answered 0 [5, 0, 0, 0] false ∧ e.tmb = Dev.ioServing.tmb := by
  obtain ⟨-, -, hload, -⟩ := stewardMemory 0 (2 * 2 ^ 43) 4 [] [] [] []
  refine (hload ⟨[], _⟩ ⟨rfl, Dev.ioServing_up⟩).imp fun e h => ?_
  obtain ⟨-, -, htumbler, -, htmb⟩ := h (Dev.ioServing_takes 2 (by decide) 4 (by decide)) (by decide)
  exact ⟨htumbler rfl, htmb⟩

/-- The site die answers. -/
theorem stewardLoad_site_witness : Completes (.stewardMemoryAccess 0 (3 * 2 ^ 43) 1 false [] [8] [] []) ⟨[], Dev.ioServing⟩ fun e =>
    e.answered 0 [8] false := by
  obtain ⟨-, -, hload, -⟩ := stewardMemory 0 (3 * 2 ^ 43) 1 [] [8] [] []
  refine (hload ⟨[], _⟩ ⟨rfl, Dev.ioServing_up⟩).imp fun e h => ?_
  obtain ⟨-, -, -, hsite, -⟩ := h (Dev.ioServing_takes 3 (by decide) 1 (by decide)) (by decide)
  exact hsite rfl

theorem stewardFence_witness : Completes (.stewardFence 0) ⟨[], Dev.ioServing⟩ fun e => e.stwIo.at? 0 = some ([7], false, 0) := by
  obtain ⟨-, -, -, hfence⟩ := stewardMemory 0 0 0 [] [] [] []
  exact (hfence ⟨[], _⟩ ⟨rfl, Dev.ioServing_up⟩).imp fun e h => h _ rfl

end Sys2Proof.Machine
end

section
/-!
The statements of 10_protection.md: the canonical form of stored data, the scratchpad's code, scrubbing, self-tests and zero fills.
-/
namespace Sys2Proof.Machine

/-! Stored data in canonical form -/

/-- Settles O4: nothing is stored at reset. -/
theorem resetIsStored : Obligations.ResetIsStored := rfl

/-- A command that is not listed as one that changes memory leaves it in canonical form. -/
theorem State.stored_of_frame {c : Instr} {s t : State} (hs : s.stored) (h : exec c s = .next t) (hc : Piece.mem ∉ mayChange c) : t.stored := by
  have hmem : t.dev.mem = s.dev.mem := (exec_frame c h).2 .mem hc
  rwa [State.stored, hmem]

/-- Every command keeps the canonical form. The commands named change memory, each through operations that keep the form (`exec…_st`); every
other command leaves memory as it is (`exec_frame`). -/
theorem exec_stored (c : Instr) {s t : State} (hs : s.stored) (h : exec c s = .next t) : t.stored := by
  cases c with
  | registerWrite => exact (execRegisterWrite_st (Kept.of hs) h).out
  | reg64LoWrite => exact (execReg64LoWrite_st (Kept.of hs) h).out
  | reg64HiWrite => exact (execReg64HiWrite_st (Kept.of hs) h).out
  | controlAddressMiss => exact (execControlAddressMiss_st (Kept.of hs) h).out
  | cellReset => exact (execCellReset_st (Kept.of hs) h).out
  | mapDataWrite => exact (execMapDataWrite_st (Kept.of hs) h).out
  | cstore => exact (execCstore_st (Kept.of hs) h).out
  | vst => exact (execVst_st (Kept.of hs) h).out
  | vcvt => exact (execVcvt_st (Kept.of hs) h).out
  | homeRequest => exact (execHomeRequest_st (Kept.of hs) h).out
  | mergeEntryAgeOut => exact (execMergeEntryAgeOut_st (Kept.of hs) h).out
  | mergeWordWrite => exact (execMergeWordWrite_st (Kept.of hs) h).out
  | stepNop => exact (execStepNop_st (Kept.of hs) h).out
  | gate => exact (execGate_st (Kept.of hs) h).out
  | repack => exact (execRepack_st (Kept.of hs) h).out
  | combine => exact (execCombine_st (Kept.of hs) h).out
  | stepEnd => exact (execStepEnd_st (Kept.of hs) h).out
  | stewardMemoryAccess => exact (execStewardMemoryAccess_st (Kept.of hs) h).out
  | hbmRequestAdmit => exact (execHbmRequestAdmit_st (Kept.of hs) h).out
  | hbmReadServe => exact (execHbmReadServe_st (Kept.of hs) h).out
  | hbmTrainingComplete => exact (execHbmTrainingComplete_st (Kept.of hs) h).out
  | blankCutComplete => exact (execBlankCutComplete_st (Kept.of hs) h).out
  | regionConversionComplete => exact (execRegionConversionComplete_st (Kept.of hs) h).out
  | scrubRead => exact (execScrubRead_st (Kept.of hs) h).out
  | scrubWriteback => exact (execScrubWriteback_st (Kept.of hs) h).out
  | checkerSelfTestDone => exact (execCheckerSelfTestDone_st (Kept.of hs) h).out
  | sbfZfillDone => exact (execSbfZfillDone_st (Kept.of hs) h).out
  | partitionReset => exact (execPartitionReset_st (Kept.of hs) h).out
  | planLoad => exact (execPlanLoad_st (Kept.of hs) h).out
  | coreRetest => exact (execCoreRetest_st (Kept.of hs) h).out
  | spareMap => exact (execSpareMap_st (Kept.of hs) h).out
  | memtest => exact (execMemtest_st (Kept.of hs) h).out
  | deferredCommandRun => exact (execDeferredCommandRun_st (Kept.of hs) h).out
  | leadOnlyMessage => exact (execLeadOnlyMessage_st (Kept.of hs) h).out
  | powerStepComplete => exact (execPowerStepComplete_st (Kept.of hs) h).out
  | dieReset => exact (execDieReset_st (Kept.of hs) h).out
  | powerGoodRise => exact (execPowerGoodRise_st (Kept.of hs) h).out
  | powerGoodFall => exact (execPowerGoodFall_st (Kept.of hs) h).out
  | thermalTrip => exact (execThermalTrip_st (Kept.of hs) h).out
  | railFault => exact (execRailFault_st (Kept.of hs) h).out
  | refclkLoss => exact (execRefclkLoss_st (Kept.of hs) h).out
  | pllLockLoss => exact (execPllLockLoss_st (Kept.of hs) h).out
  | memoryTestPhaseEnd => exact (execMemoryTestPhaseEnd_st (Kept.of hs) h).out
  | chunkReceive => exact (execChunkReceive_st (Kept.of hs) h).out
  | builtInSelfTestEnd => exact (execBuiltInSelfTestEnd_st (Kept.of hs) h).out
  | _ =>
    refine State.stored_of_frame hs h ?_
    simp only [mayChange]
    decide +kernel

/-- Settles O5: a step carries out one command (`exec_stored`) or, with none waiting, nothing. -/
theorem stepKeepsStored : Obligations.StepKeepsStored := by
  intro s t hs h
  unfold step at h
  split at h
  · cases h
    exact hs
  · refine exec_stored _ ?_ h
    exact hs

/-! The scratchpad code (R219) -/

theorem xor_eq_zero {a b : Nat} : a ^^^ b = 0 ↔ a = b := by
  constructor
  · intro h
    calc a = a ^^^ b ^^^ b := by rw [Nat.xor_assoc, Nat.xor_self, Nat.xor_zero]
      _ = b := by rw [h, Nat.zero_xor]
  · rintro rfl
    exact Nat.xor_self _

/-- One step of a polynomial's reduction: the leading coefficient is taken out, if it is there. -/
def polyStep (p d w r k : Nat) : Nat := if hasBit r (w - 1 - k) then r ^^^ p * 2 ^ (w - 1 - k - d) else r

theorem polyRem_eq (p d w n : Nat) : polyRem p d w n = (List.range (w - d)).foldl (polyStep p d w) n := rfl

theorem polyStep_xor (p d w a b k : Nat) : polyStep p d w (a ^^^ b) k = polyStep p d w a k ^^^ polyStep p d w b k := by
  simp only [polyStep, hasBit_testBit, Nat.testBit_xor]
  cases a.testBit (w - 1 - k) <;> cases b.testBit (w - 1 - k)
  · rfl
  · exact Nat.xor_assoc ..
  · show a ^^^ b ^^^ p * 2 ^ (w - 1 - k - d) = a ^^^ p * 2 ^ (w - 1 - k - d) ^^^ b
    ac_rfl
  · calc a ^^^ b = a ^^^ (p * 2 ^ (w - 1 - k - d) ^^^ p * 2 ^ (w - 1 - k - d)) ^^^ b := by rw [Nat.xor_self, Nat.xor_zero]
      _ = (a ^^^ p * 2 ^ (w - 1 - k - d)) ^^^ (b ^^^ p * 2 ^ (w - 1 - k - d)) := by ac_rfl

/-- Reduction is linear. -/
theorem polyRem_xor (p d w a b : Nat) : polyRem p d w (a ^^^ b) = polyRem p d w a ^^^ polyRem p d w b := by
  simp only [polyRem_eq]
  induction List.range (w - d) generalizing a b with
  | nil => rfl
  | cons k ks ih => rw [List.foldl_cons, List.foldl_cons, List.foldl_cons, polyStep_xor, ih]

/-- A polynomial with multiples of the generator x^7 + x^3 + 1 added, one by each power of x given. -/
def addMultiples (n : Nat) (s : List Nat) : Nat := s.foldl (fun a i => a ^^^ (2 ^ 7 + 2 ^ 3 + 1) * 2 ^ i) n

theorem addMultiples_zero (n : Nat) (s : List Nat) : addMultiples n s = n ^^^ addMultiples 0 s := by
  induction s generalizing n with
  | nil => exact (Nat.xor_zero n).symm
  | cons i s ih =>
    simp only [addMultiples, List.foldl_cons] at ih ⊢
    rw [ih (n ^^^ _), ih (0 ^^^ _), Nat.zero_xor, Nat.xor_assoc]

theorem polyRem_multiple : ∀ i < 64, polyRem 0x89 7 71 ((2 ^ 7 + 2 ^ 3 + 1) * 2 ^ i) = 0 := by decide +kernel

/-- Added multiples of the generator do not change what reduction leaves. -/
theorem polyRem_addMultiples (n : Nat) {s : List Nat} (hs : ∀ i ∈ s, i < 64) : polyRem 0x89 7 71 (addMultiples n s) = polyRem 0x89 7 71 n := by
  induction s generalizing n with
  | nil => rfl
  | cons i s ih =>
    obtain ⟨hi, hs⟩ := List.forall_mem_cons.mp hs
    calc polyRem 0x89 7 71 (addMultiples (n ^^^ (2 ^ 7 + 2 ^ 3 + 1) * 2 ^ i) s) = polyRem 0x89 7 71 (n ^^^ (2 ^ 7 + 2 ^ 3 + 1) * 2 ^ i) := ih _ hs
      _ = polyRem 0x89 7 71 n := by rw [polyRem_xor, polyRem_multiple i hi, Nat.xor_zero]

/-- Reduction adds multiples of the generator. -/
theorem polyRem_adds (n : Nat) : ∃ s : List Nat, (∀ i ∈ s, i < 64) ∧ polyRem 0x89 7 71 n = addMultiples n s := by
  rw [polyRem_eq]
  have hk : ∀ k ∈ List.range (71 - 7), 71 - 1 - k - 7 < 64 := fun k _ => by omega
  generalize List.range (71 - 7) = ks at hk ⊢
  induction ks generalizing n with
  | nil => exact ⟨[], List.forall_mem_nil _, rfl⟩
  | cons k ks ih =>
    obtain ⟨hlt, hks⟩ := List.forall_mem_cons.mp hk
    obtain ⟨s, hs, heq⟩ := ih (polyStep 0x89 7 71 n k) hks
    rw [List.foldl_cons, heq, polyStep]
    split
    · exact ⟨(71 - 1 - k - 7) :: s, List.forall_mem_cons.mpr ⟨hlt, hs⟩, rfl⟩
    · exact ⟨s, hs, rfl⟩

theorem polyRem_zero_iff (n : Nat) : polyRem 0x89 7 71 n = 0 ↔ ∃ s : List Nat, (∀ i ∈ s, i < 64) ∧ addMultiples n s = 0 := by
  constructor
  · intro h
    obtain ⟨s, hs, heq⟩ := polyRem_adds n
    exact ⟨s, hs, heq.symm.trans h⟩
  · rintro ⟨s, hs, heq⟩
    rw [← polyRem_addMultiples n hs, heq]
    decide +kernel

/-- The first 71 bits of a stored word: its data at x^7 onward and its check bits 0–6. -/
theorem word_split (m : Nat) : m % 2 ^ 71 = m / 2 ^ 7 % 2 ^ 64 * 2 ^ 7 ^^^ m % 2 ^ 7 := by
  apply Nat.eq_of_testBit_eq
  intro i
  simp only [Nat.testBit_xor, Nat.testBit_mod_two_pow, Nat.testBit_mul_two_pow, Nat.testBit_div_two_pow]
  by_cases hi : i < 7
  · simp [hi, Nat.not_le.mpr hi, Nat.lt_trans hi (by decide : 7 < 71)]
  · have hlt : i - 7 < 64 ↔ i < 71 := by omega
    simp [hi, Nat.not_lt.mp hi, hlt]

theorem secdedVerdict_clean_iff (m : Nat) : secdedVerdict m = .clean m ↔ polyRem 0x89 7 71 (m % 2 ^ 71) = 0 ∧ parity m 72 = 0 := by
  unfold secdedVerdict
  generalize polyRem 0x89 7 71 (m % 2 ^ 71) = syn
  generalize parity m 72 = par
  by_cases h : syn = 0 ∧ par = 0
  · obtain ⟨rfl, rfl⟩ := h
    exact ⟨fun _ => ⟨rfl, rfl⟩, fun _ => rfl⟩
  · refine ⟨fun hclean => ?_, fun hzero => absurd hzero h⟩
    dsimp only at hclean
    rw [if_neg (by simpa using h)] at hclean
    split at hclean
    · cases hclean
    · split at hclean
      · cases hclean
      · split at hclean <;> cases hclean

/-- Settles O39: a word is clean where reduction leaves nothing of its first 71 bits (`secdedVerdict_clean_iff`), that is where multiples of the
generator add to nothing with them (`polyRem_zero_iff`), and its weight is even. -/
theorem scratchpadCode : Obligations.ScratchpadCode := by
  intro m _
  have hweight : ((List.range 72).filter fun i => m.testBit i).length % 2 = parity m 72 := by
    simp only [parity, popCount, bitsSet, ← hasBit_testBit]
  rw [hweight, secdedVerdict_clean_iff, polyRem_zero_iff]
  refine and_congr_left fun _ => exists_congr fun s => and_congr_right fun _ => ?_
  show _ ↔ _ = addMultiples _ s
  rw [addMultiples_zero, addMultiples_zero (m % 2 ^ 7), word_split, Nat.xor_assoc, xor_eq_zero]

/-! Scrubbers (R228, R229) -/

theorem Dev.get_count (d : Dev) (f : Fld) (k die i s : Nat) {w : Nat} (h1 : f.hi < 32) (h2 : f.lo ≤ f.hi) (hw : f.hi + 1 - f.lo = w) :
    (d.count f k die i s).get f die i s = (d.get f die i s + k) % 2 ^ w := by
  subst hw
  exact Dev.get_put_self _ _ _ _ _ _ h1 h2 (Nat.mod_lt _ (Nat.two_pow_pos _))

theorem Dev.lapLate_get (d : Dev) (mem die stack : Nat) {f : Fld} (hf : f = F.HBM_SSTAT_LAPS ∨ f = F.SBF_SSTAT_LAPS) (die' i s : Nat) :
    (d.lapLate mem die stack).get f die' i s = d.get f die' i s := by
  rcases hf with rfl | rfl <;> exact (Dev.lapLate_kp (hμ := Within.refl _) (hκ := Agree.refl _ _) ..).get _ (by decide) (by decide) _ _ _

/-- The end of a lap leaves every walk where it is. -/
theorem Dev.lapEnd_scrub (d : Dev) (mem die unit t : Nat) : (d.lapEnd mem die unit t).scrub = d.scrub :=
  (Dev.lapEnd_kp (hμ := Within.refl _) (hκ := Agree.refl _ _) ..).scrub (by decide)

theorem Dev.lapEnd_mem (d : Dev) (mem die unit t : Nat) : (d.lapEnd mem die unit t).mem = d.mem :=
  (Dev.lapEnd_kp (hμ := Within.refl _) (hκ := Agree.refl _ _) ..).mem (by decide)

/-- The longest last lap of some walks, as SLAP holds it (R229). -/
def Dev.slowestLap (d : Dev) (mem : Nat) (us : List Nat) : Nat := us.foldl (fun m u => max m (d.scrubAt mem u).last) 0 % 2 ^ 32

theorem Dev.ite_cases (p : Prop) [Decidable p] (d e : Dev) : (if p then d else e) = d ∨ (if p then d else e) = e := by
  by_cases h : p
  · exact .inl (if_pos h)
  · exact .inr (if_neg h)

/-- The end of a lap of HBM: the lap is timed and counted, and a late one is reported too. -/
theorem Dev.lapEnd_hbm (d : Dev) (die unit t : Nat) :
    ∃ slap, let st := unit % 128 / 32
      let d1 := (d.put F.HBM_SLAP_TICKS slap die st).count F.HBM_SSTAT_LAPS 1 die st
      d.lapEnd 0 die unit t = (d1.put F.HBM_SSTAT_LAPLATE 1 die st).lapLate 0 die st ∨ d.lapEnd 0 die unit t = d1 := by
  refine ⟨d.slowestLap 0 ((List.range 32).map fun c => die * 128 + unit % 128 / 32 * 32 + c), ?_⟩
  unfold Dev.lapEnd
  split
  · exact Dev.ite_cases ..
  · contradiction
  · contradiction

/-- The end of a lap of the shared buffer. -/
theorem Dev.lapEnd_sbuf (d : Dev) (die unit t : Nat) :
    ∃ slap, let d1 := (d.put F.SBF_SLAP_TICKS slap die).count F.SBF_SSTAT_LAPS 1 die
      d.lapEnd 1 die unit t = (d1.put F.SBF_SSTAT_LAPLATE 1 die).lapLate 1 die 0 ∨ d.lapEnd 1 die unit t = d1 := by
  refine ⟨d.slowestLap 1 ((List.range 256).map fun b => die * 256 + b), ?_⟩
  unfold Dev.lapEnd
  split
  · contradiction
  · exact Dev.ite_cases ..
  · contradiction

/-- A lap that is timed and counted: LAPS goes up by one, whether or not the lap is reported. -/
theorem Dev.lapCounted_laps {d e : Dev} {slap laps late : Fld} {v mem die i stack : Nat} (hlaps : laps = F.HBM_SSTAT_LAPS ∨ laps = F.SBF_SSTAT_LAPS)
    (hslap : laps.reg ≠ slap.reg ∧ slap.lo ≤ slap.hi) (hlate : laps.hi < late.lo ∧ late.lo ≤ late.hi)
    (he : let d1 := (d.put slap v die i).count laps 1 die i; e = (d1.put late 1 die i).lapLate mem die stack ∨ e = d1) :
    e.get laps die i = (d.get laps die i + 1) % 2 ^ 16 := by
  obtain ⟨hreg, hslap⟩ := hslap
  obtain ⟨hapart, hlate⟩ := hlate
  have hhi : laps.hi = 15 ∧ laps.lo = 0 := by rcases hlaps with rfl | rfl <;> decide
  have hcount : ((d.put slap v die i).count laps 1 die i).get laps die i = (d.get laps die i + 1) % 2 ^ 16 := by
    rw [Dev.get_count (w := 16) _ _ _ _ _ _ (by omega) (by omega) (by omega), Dev.get_put_apart _ _ _ _ (by omega) hslap (.inl hreg)]
  rcases he with rfl | rfl
  · rw [Dev.lapLate_get _ _ _ _ hlaps, Dev.get_put_apart _ _ _ _ (by omega) hlate (by omega), hcount]
  · exact hcount

theorem Dev.lapEnd_laps_hbm (d : Dev) (die unit t : Nat) :
    (d.lapEnd 0 die unit t).get F.HBM_SSTAT_LAPS die (unit % 128 / 32) = (d.get F.HBM_SSTAT_LAPS die (unit % 128 / 32) + 1) % 2 ^ 16 := by
  obtain ⟨slap, h⟩ := d.lapEnd_hbm die unit t
  exact Dev.lapCounted_laps (.inl rfl) (by decide) (by decide) h

theorem Dev.lapEnd_laps_sbuf (d : Dev) (die unit t : Nat) :
    (d.lapEnd 1 die unit t).get F.SBF_SSTAT_LAPS die = (d.get F.SBF_SSTAT_LAPS die + 1) % 2 ^ 16 := by
  obtain ⟨slap, h⟩ := d.lapEnd_sbuf die unit t
  exact Dev.lapCounted_laps (.inr rfl) (by decide) (by decide) h

/-- Where a walk stands after its step. -/
def Dev.scrubNext (d : Dev) (mem die unit : Nat) : Scrub :=
  let s := d.scrubAt mem unit
  let start := if s.pos = 0 then d.tick die else s.start
  if s.pos + 1 < d.walkUnits mem then ⟨s.pos + 1, start, s.last⟩ else ⟨0, start, d.tick die - start⟩

/-- A step within a lap moves the walk on; the step that ends one also counts the lap. -/
theorem Dev.scrubStep_cases (d : Dev) (mem die unit : Nat) :
    let moved : Dev := { d with scrub := d.scrub.put (mem, unit) (d.scrubNext mem die unit) }
    ((d.scrubAt mem unit).pos + 1 < d.walkUnits mem ∧ d.scrubStep mem die unit = moved) ∨
    (d.walkUnits mem ≤ (d.scrubAt mem unit).pos + 1 ∧ ∃ t, d.scrubStep mem die unit = moved.lapEnd mem die unit t) := by
  dsimp only
  by_cases hlap : (d.scrubAt mem unit).pos + 1 < d.walkUnits mem
  · exact .inl ⟨hlap, by simp only [Dev.scrubStep, Dev.scrubNext, if_pos hlap]⟩
  · exact .inr ⟨Nat.not_lt.mp hlap, _, by simp only [Dev.scrubStep, Dev.scrubNext, if_neg hlap]; rfl⟩

theorem Dev.scrubStep_scrubAt (d : Dev) (mem die unit : Nat) : (d.scrubStep mem die unit).scrubAt mem unit = d.scrubNext mem die unit := by
  rcases d.scrubStep_cases mem die unit with ⟨-, h⟩ | ⟨-, t, h⟩ <;> rw [h, Dev.scrubAt]
  · exact (KMap.atD_put ..).trans (if_pos rfl)
  · rw [Dev.lapEnd_scrub]
    exact (KMap.atD_put ..).trans (if_pos rfl)

theorem Dev.scrubStep_mem (d : Dev) (mem die unit : Nat) : (d.scrubStep mem die unit).mem = d.mem := by
  rcases d.scrubStep_cases mem die unit with ⟨-, h⟩ | ⟨-, t, h⟩ <;> rw [h]
  exact Dev.lapEnd_mem ..

theorem Dev.scrubStep_laps_hbm (d : Dev) (die unit : Nat) (hlap : d.walkUnits 0 ≤ (d.scrubAt 0 unit).pos + 1) :
    (d.scrubStep 0 die unit).get F.HBM_SSTAT_LAPS die (unit % 128 / 32) = (d.get F.HBM_SSTAT_LAPS die (unit % 128 / 32) + 1) % 2 ^ 16 := by
  rcases d.scrubStep_cases 0 die unit with ⟨hin, -⟩ | ⟨-, t, h⟩
  · exact absurd hin (Nat.not_lt.mpr hlap)
  · rw [h]
    exact Dev.lapEnd_laps_hbm ..

theorem Dev.scrubStep_laps_sbuf (d : Dev) (die unit : Nat) (hlap : d.walkUnits 1 ≤ (d.scrubAt 1 unit).pos + 1) :
    (d.scrubStep 1 die unit).get F.SBF_SSTAT_LAPS die = (d.get F.SBF_SSTAT_LAPS die + 1) % 2 ^ 16 := by
  rcases d.scrubStep_cases 1 die unit with ⟨hin, -⟩ | ⟨-, t, h⟩
  · exact absurd hin (Nat.not_lt.mpr hlap)
  · rw [h]
    exact Dev.lapEnd_laps_sbuf ..

/-- What a scrubber's read may change before its walk goes on: counters, records, listed rows, stored data it corrects. -/
def scrubReads : Nat := 0x8001080003c000245000000000000000000000000000000000000000000000000000000c1c3b303c000000000000000000000000

/-- The key of a scrubber's walk. -/
def scrubKey (mem die unit : Nat) : Nat := if mem = 0 then die * 128 + unit else if mem = 1 then die * 256 + unit else die * 12 * 256 + unit

/-- A scrubber is enabled, and its memory is idle (R228). -/
def Dev.scrubs (d : Dev) (mem die unit : Nat) : Prop :=
  if mem = 0 then
    d.on? F.HBM_SCRUB_EN die (unit / 32) = true ∧ d.get F.HBM_STAT_STATE die (unit / 32) = 2 ∧ d.rdq.atD (die, unit) [] = [] ∧
      d.rowLocked die (chanLine unit (d.scrubAt 0 (scrubKey mem die unit)).pos) = false
  else if mem = 1 then d.on? F.SBF_SCRUB_EN die = true
  else d.on? F.CMP_SCRUB_EN die (cellN (keyCell (scrubKey mem die unit))) = true ∧ d.cellRuns (keyCell (scrubKey mem die unit)) = true

/-- A read of an SRAM changes no stored data. -/
theorem Dev.scrubSb_mem (d : Dev) (die woff : Nat) : (d.scrubSb die woff).mem = d.mem :=
  (Dev.scrubSb_kp (hμ := Within.refl _) (hκ := Agree.refl _ _) ..).mem (by decide)

theorem Dev.scrubSp_mem (d : Dev) (key off : Nat) : (d.scrubSp key off).mem = d.mem :=
  (Dev.scrubSp_kp (hμ := Within.refl _) (hκ := Agree.refl _ _) ..).mem (by decide)

/-- An enabled scrubber reads, and then its walk goes on; another does nothing. -/
theorem Dev.scrubRead_cases (d : Dev) (mem die unit : Nat) (again : List (Nat × Nat)) (hmem : mem < 3) (hup : d.carrierUp die = true) :
    (¬ d.scrubs mem die unit → d.scrubRead mem die unit again = d) ∧
    (d.scrubs mem die unit → ∃ r, d.scrubRead mem die unit again = r.scrubStep mem die (scrubKey mem die unit) ∧
      Agree scrubReads d r ∧ (mem ≠ 0 → r.mem = d.mem)) := by
  match mem, hmem with
  | 0, _ =>
    have hcond : d.scrubs 0 die unit ↔ (d.on? F.HBM_SCRUB_EN die (unit / 32) && d.get F.HBM_STAT_STATE die (unit / 32) == 2 &&
        (d.rdq.atD (die, unit) []).isEmpty && !d.rowLocked die (chanLine unit (d.scrubAt 0 (die * 128 + unit)).pos)) = true := by
      simp [Dev.scrubs, scrubKey, and_assoc]
    simp only [hcond, Dev.scrubRead]
    refine ⟨fun h => if_neg h, fun h => ⟨_, if_pos h, ?_, fun hne => absurd rfl hne⟩⟩
    exact .ite (Agree.refl _ _) (Dev.hbLoad_kp (hμ := (Within.refl scrubReads).up (by decide)) (hκ := Agree.refl _ _) ..)
  | 1, _ =>
    have hcond : d.scrubs 1 die unit ↔ (d.on? F.SBF_SCRUB_EN die && d.carrierUp die) = true := by simp [Dev.scrubs, hup]
    simp only [hcond, Dev.scrubRead]
    refine ⟨fun h => if_neg h, fun h => ⟨_, if_pos h, ?_, fun _ => (Dev.scrubSb_mem ..).trans (Dev.scrubSb_mem ..)⟩⟩
    exact Dev.scrubSb_kp (hμ := (Within.refl scrubReads).up (by decide))
      (hκ := Dev.scrubSb_kp (hμ := (Within.refl scrubReads).up (by decide)) (hκ := Agree.refl _ _) ..) ..
  | 2, _ =>
    have hcond : d.scrubs 2 die unit ↔ (d.on? F.CMP_SCRUB_EN die (cellN (keyCell (die * 12 * 256 + unit))) &&
        d.cellRuns (keyCell (die * 12 * 256 + unit))) = true := by
      simp [Dev.scrubs, scrubKey]
    simp only [hcond, Dev.scrubRead]
    exact ⟨fun h => if_neg h, fun h => ⟨_, if_pos h,
      Dev.scrubSp_kp (hμ := (Within.refl scrubReads).up (by decide)) (hκ := Agree.refl _ _) .., fun _ => Dev.scrubSp_mem ..⟩⟩

/-! Write-backs (R228) -/

theorem Dev.scrubWback_eq {d : Dev} {n a : Nat} {old good : Bytes} (h : d.wback[n]? = some (a, old, good)) :
    d.scrubWback n =
      let d1 : Dev := { d with wback := d.wback.eraseIdx n }
      if d.mem.bytes a old.length = old ∧ (d.errs.at? a).isSome then d1.writeUnit a good else d1 := by
  simp only [Dev.scrubWback, h]

/-! Self-tests (R230) -/

/-- The self-test register of a memory. -/
def stestReg : Nat → Reg
  | 0 => .HBM_STEST
  | 1 => .SBF_STEST
  | _ => .CMP_STEST

section
variable {d : Dev} {mem die i : Nat}

theorem Dev.stestRun_eq (h : (mem, die, i) ∉ d.stest) :
    d.stestRun mem die i = { d with stest := d.stest ++ [(mem, die, i)] }.setRaw ⟨stestReg mem, die, i, 0⟩ 0 := by
  have hfree : ¬ d.stest.contains (mem, die, i) = true := by simpa using h
  match mem with
  | 0 => exact if_neg hfree
  | 1 => exact if_neg hfree
  | _ + 2 => exact if_neg hfree

theorem Dev.stestRun_mem : (d.stestRun mem die i).mem = d.mem :=
  (Dev.stestRun_kp (hμ := Within.refl _) (hκ := Agree.refl _ _) ..).mem (by decide)

theorem Dev.stestRun_runs (h : (mem, die, i) ∉ d.stest) : (mem, die, i) ∈ (d.stestRun mem die i).stest := by
  rw [Dev.stestRun_eq h]
  exact List.mem_append_right _ (List.mem_singleton_self _)

theorem Dev.stestRun_clears (h : (mem, die, i) ∉ d.stest) (f : Fld) (hreg : f.reg = stestReg mem) (hf : f.hi < 32) :
    (d.stestRun mem die i).get f die i = 0 := by
  rw [Dev.stestRun_eq h, ← hreg, Dev.get_setRaw_self _ _ _ _ _ _ hf]
  simp [bitsOf]

theorem Dev.stestDone_idle (pattern : Nat) (bad : List (Nat × Nat)) (h : (mem, die, i) ∉ d.stest) : d.stestDone mem die i pattern bad = d := by
  rw [Dev.stestDone, if_pos (by simpa using h)]

end

/-- The outcome of a test of HBM or of the shared buffer: the fields DONE, FAIL and PATTERN are put. -/
def Dev.putOutcome (d : Dev) (done fail pattern : Fld) (v die i : Nat) : Dev :=
  ((d.put done 1 die i).put fail (if v = 0 then 0 else 1) die i).put pattern v die i

theorem Dev.stestDone_hbm {d : Dev} {die i : Nat} (pattern : Nat) (bad : List (Nat × Nat)) (h : (0, die, i) ∈ d.stest) :
    d.stestDone 0 die i pattern bad =
      let d2 := { d with stest := d.stest.erase (0, die, i) }.putOutcome F.HBM_STEST_DONE F.HBM_STEST_FAIL F.HBM_STEST_PATTERN pattern die i
      if pattern = 0 then d2 else (d2.memRec die i 9 0).hbHold die i :=
  if_neg (by simpa using h)

theorem Dev.stestDone_sbuf {d : Dev} {die i : Nat} (bad : List (Nat × Nat)) (h : (1, die, i) ∈ d.stest) :
    d.stestDone 1 die i 0 bad =
      { d with stest := d.stest.erase (1, die, i) }.putOutcome F.SBF_STEST_DONE F.SBF_STEST_FAIL F.SBF_STEST_PATTERN 0 die 0 :=
  (if_neg (by simpa using h)).trans (if_pos rfl)

/-- The three fields read as they were put. -/
theorem Dev.putOutcome_get (d : Dev) {done fail pattern : Fld} {v : Nat} (die i : Nat)
    (hw : (done.hi < 32 ∧ fail.hi < 32 ∧ pattern.hi < 32) ∧ done.lo ≤ done.hi ∧ fail.lo ≤ fail.hi ∧ pattern.lo ≤ pattern.hi)
    (ha : done.hi < fail.lo ∧ fail.hi < pattern.lo) (hv : v < 2 ^ (pattern.hi + 1 - pattern.lo)) :
    let e := d.putOutcome done fail pattern v die i
    e.get done die i = 1 ∧ e.get fail die i = (if v = 0 then 0 else 1) ∧ e.get pattern die i = v := by
  obtain ⟨⟨hd, hf, hp⟩, hd', hf', hp'⟩ := hw
  obtain ⟨hdf, hfp⟩ := ha
  have hone (f : Fld) (h : f.lo ≤ f.hi) : 1 < 2 ^ (f.hi + 1 - f.lo) := Nat.one_lt_two_pow (by omega)
  refine ⟨?_, ?_, Dev.get_put_self _ _ _ _ _ _ hp hp' hv⟩
  · rw [Dev.putOutcome, Dev.get_put_apart _ _ _ _ hd hp' (by omega), Dev.get_put_apart _ _ _ _ hd hf' (by omega)]
    exact Dev.get_put_self _ _ _ _ _ _ hd hd' (hone _ hd')
  · rw [Dev.putOutcome, Dev.get_put_apart _ _ _ _ hf hp' (by omega)]
    exact Dev.get_put_self _ _ _ _ _ _ hf hf' (by have := hone _ hf'; split <;> omega)

/-- The outcome of a test of one core's decoder, the core and its die given. -/
def Dev.coreTested (die i : Nat) (bad : List (Nat × Nat)) (c : Nat) (d : Dev) (p : Nat) : Dev :=
  (d.put F.CMP_PSTEST_TESTED 1 die i (c * 256 + p)).put F.CMP_PSTEST_PASS (if bad.contains (c, p) then 0 else 1) die i (c * 256 + p)

/-- The outcomes of the cores of the first `n` of a cell's dies. -/
def Dev.coresTested (d : Dev) (die i : Nat) (bad : List (Nat × Nat)) (n : Nat) : Dev :=
  (List.range n).foldl (fun d' c => (List.range 136).foldl (Dev.coreTested die i bad c) d') d

section
variable (d : Dev) (die i : Nat) (bad : List (Nat × Nat))

theorem Dev.coreTested_pass (c p s : Nat) :
    (d.coreTested die i bad c p).get F.CMP_PSTEST_PASS die i s =
      if s = c * 256 + p then (if bad.contains (c, p) then 0 else 1) else d.get F.CMP_PSTEST_PASS die i s := by
  split
  case isTrue h =>
    subst h
    exact Dev.get_put_self _ _ _ _ _ _ (by decide) (by decide) (by split <;> decide)
  case isFalse h =>
    rw [Dev.coreTested, Dev.get_put_ne _ _ _ _ _ _ _ _ _ _ (by decide) (by decide) (.inr (.inr (.inr (.inl h)))),
      Dev.get_put_apart _ _ _ _ (by decide) (by decide) (by decide)]

theorem Dev.coresOfDie_pass (c n s : Nat) :
    ((List.range n).foldl (Dev.coreTested die i bad c) d).get F.CMP_PSTEST_PASS die i s =
      if c * 256 ≤ s ∧ s < c * 256 + n then (if bad.contains (c, s - c * 256) then 0 else 1) else d.get F.CMP_PSTEST_PASS die i s := by
  induction n with
  | zero => exact (if_neg (by omega)).symm
  | succ n ih =>
    rw [List.range_succ, List.foldl_append, List.foldl_cons, List.foldl_nil, Dev.coreTested_pass, ih]
    by_cases hs : s = c * 256 + n
    · subst hs
      have hin : c * 256 ≤ c * 256 + n ∧ c * 256 + n < c * 256 + (n + 1) := by omega
      rw [if_pos rfl, if_pos hin, Nat.add_sub_cancel_left]
    · have hin : (c * 256 ≤ s ∧ s < c * 256 + (n + 1)) ↔ c * 256 ≤ s ∧ s < c * 256 + n := by omega
      simp only [if_neg hs, hin]

theorem Dev.coresTested_pass {n c p : Nat} (hc : c < n) (hp : p < 136) :
    (d.coresTested die i bad n).get F.CMP_PSTEST_PASS die i (c * 256 + p) = if bad.contains (c, p) then 0 else 1 := by
  induction n with
  | zero => omega
  | succ n ih =>
    rw [Dev.coresTested, List.range_succ (n := n), List.foldl_append, List.foldl_cons, List.foldl_nil, Dev.coresOfDie_pass]
    by_cases hn : c = n
    · rw [if_pos (by omega), ← hn, Nat.add_sub_cancel_left]
    · rw [if_neg (by omega)]
      exact ih (by omega)

/-- The outcomes of cores are registers of their own and nothing else. -/
theorem Dev.coresTested_agree (n : Nat) : Agree (2 ^ Reg.CMP_PSTEST.ctorIdx) d (d.coresTested die i bad n) := by
  refine List.foldlRecOn _ _ (Agree.refl _ _) fun d' hd c _ => List.foldlRecOn _ _ hd fun d' hd p _ => ?_
  have hput (f : Fld) (e : Dev) (v s : Nat) (hf : f.reg = .CMP_PSTEST) (he : Agree (2 ^ Reg.CMP_PSTEST.ctorIdx) d e) :
      Agree (2 ^ Reg.CMP_PSTEST.ctorIdx) d (e.put f v die i s) :=
    Dev.put_kp (hf := by rw [hf]; decide) (hμ := (Within.refl _).up (by decide)) (hκ := he) ..
  exact hput _ _ _ _ rfl (hput _ _ _ _ rfl hd)

end

/-- The state of a cell's self-test that has ended, its outcomes put. -/
def Dev.spOutcome (d : Dev) (fail nfail die i : Nat) (bad : List (Nat × Nat)) : Dev :=
  (((d.put F.CMP_STEST_DONE 1 die i).put F.CMP_STEST_FAIL fail die i).put F.CMP_STEST_NFAIL nfail die i).coresTested die i bad 4

theorem Dev.stestDone_sp {d : Dev} {n die i : Nat} (pattern : Nat) (bad : List (Nat × Nat)) (h : (n + 2, die, i) ∈ d.stest) :
    ∃ nfail, d.stestDone (n + 2) die i pattern bad =
      let d3 := { d with stest := d.stest.erase (n + 2, die, i) }.spOutcome (if pattern = 0 then 0 else 1) nfail die i bad
      if pattern = 0 then d3 else d3.post die ⟨4, 9, 0, noPart, 2, 0, 0⟩ :=
  ⟨((List.range 4).flatMap fun c => (List.range 136).filter fun p => bad.contains (c, p)).length, if_neg (by simpa using h)⟩

theorem Dev.spOutcome_get (d : Dev) {fail : Nat} (nfail die i : Nat) (bad : List (Nat × Nat)) (hfail : fail < 2) :
    (d.spOutcome fail nfail die i bad).get F.CMP_STEST_DONE die i = 1 ∧ (d.spOutcome fail nfail die i bad).get F.CMP_STEST_FAIL die i = fail := by
  simp only [Dev.spOutcome, (Dev.coresTested_agree _ die i bad 4).get F.CMP_STEST_DONE (by decide) (by decide),
    (Dev.coresTested_agree _ die i bad 4).get F.CMP_STEST_FAIL (by decide) (by decide)]
  constructor
  · rw [Dev.get_put_apart _ _ _ _ (by decide) (by decide) (by decide), Dev.get_put_apart _ _ _ _ (by decide) (by decide) (by decide)]
    exact Dev.get_put_self _ _ _ _ _ _ (by decide) (by decide) (by decide)
  · rw [Dev.get_put_apart _ _ _ _ (by decide) (by decide) (by decide)]
    exact Dev.get_put_self _ _ _ _ _ _ (by decide) (by decide) hfail

/-- A test that passes ends, and nothing stored changes. -/
theorem Dev.stestDone_passed {d : Dev} {mem die i : Nat} (bad : List (Nat × Nat)) (h : (mem, die, i) ∈ d.stest) :
    (d.stestDone mem die i 0 bad).stest = d.stest.erase (mem, die, i) ∧ (d.stestDone mem die i 0 bad).mem = d.mem := by
  match mem with
  | 0 =>
    rw [Dev.stestDone_hbm 0 bad h]
    exact ⟨rfl, rfl⟩
  | 1 =>
    rw [Dev.stestDone_sbuf bad h]
    exact ⟨rfl, rfl⟩
  | _ + 2 =>
    obtain ⟨nfail, hdone⟩ := Dev.stestDone_sp 0 bad h
    rw [hdone]
    exact ⟨(Dev.coresTested_agree ..).stest (by decide), (Dev.coresTested_agree ..).mem (by decide)⟩

theorem Dev.stestDone_hbm_failed {d : Dev} {die i pattern : Nat} (bad : List (Nat × Nat)) (h : (0, die, i) ∈ d.stest) (hfail : pattern ≠ 0) :
    (d.stestDone 0 die i pattern bad).get F.HBM_STAT_STATE die i = 4 := by
  rw [Dev.stestDone_hbm pattern bad h]
  dsimp only
  rw [if_neg hfail]
  exact Dev.get_put_self _ _ _ _ _ _ (by decide) (by decide) (by decide)

theorem Dev.stestDone_sp_get {d : Dev} {die i : Nat} (pattern : Nat) (bad : List (Nat × Nat)) (h : (2, die, i) ∈ d.stest) :
    let e := d.stestDone 2 die i pattern bad
    e.get F.CMP_STEST_DONE die i = 1 ∧ e.get F.CMP_STEST_FAIL die i = (if pattern = 0 then 0 else 1) ∧
    ∀ c p, c < 4 → p < 136 → e.get F.CMP_PSTEST_PASS die i (c * 256 + p) = if bad.contains (c, p) = true then 0 else 1 := by
  obtain ⟨nfail, hdone⟩ := Dev.stestDone_sp pattern bad h
  dsimp only
  rw [hdone]
  generalize ({ d with stest := d.stest.erase (2, die, i) } : Dev) = d1
  have hposts := Agree.ite (c := pattern = 0) (Agree.refl _ (d1.spOutcome (if pattern = 0 then 0 else 1) nfail die i bad))
    (Dev.post_kp (d1.spOutcome (if pattern = 0 then 0 else 1) nfail die i bad) die ⟨4, 9, 0, noPart, 2, 0, 0⟩ (Within.refl _) (Agree.refl ..))
  obtain ⟨hended, hfail⟩ := Dev.spOutcome_get d1 (fail := if pattern = 0 then 0 else 1) nfail die i bad (by split <;> decide)
  exact ⟨(hposts.get _ (by decide) (by decide) _ _ _).trans hended, (hposts.get _ (by decide) (by decide) _ _ _).trans hfail,
    fun c p hc hp => (hposts.get _ (by decide) (by decide) _ _ _).trans (Dev.coresTested_pass _ die i bad hc hp)⟩

/-! Zero fills (R239) -/

/-- The MiB that a write of SBF_ZFILL names is put, if the shared buffer has it. -/
def Dev.zfillMib (d : Dev) (die mib : Nat) : Dev := if mib < 384 then d.put F.SBF_ZFILL_MIB mib die else d

theorem Dev.zfillMib_keeps (d : Dev) (die mib : Nat) :
    (d.zfillMib die mib).mem = d.mem ∧ (d.zfillMib die mib).zfill = d.zfill ∧
    (d.zfillMib die mib).get F.SBF_ZFILL_BUSY die = d.get F.SBF_ZFILL_BUSY die := by
  unfold Dev.zfillMib
  split
  · exact ⟨rfl, rfl, Dev.get_put_apart _ _ _ _ (by decide) (by decide) (by decide)⟩
  · exact ⟨rfl, rfl, rfl⟩

theorem Dev.zfillMib_get (d : Dev) (die mib : Nat) :
    (d.zfillMib die mib).get F.SBF_ZFILL_MIB die = if mib < 384 then mib else d.get F.SBF_ZFILL_MIB die := by
  unfold Dev.zfillMib
  split
  · exact Dev.get_put_self _ _ _ _ _ _ (by decide) (by decide) (by change mib < 512; omega)
  · rfl

/-- A write of SBF_ZFILL with GO set starts a fill unless one is under way. -/
theorem Dev.zfillWrite_go (d : Dev) (die : Nat) {mib : Nat} (hmib : mib < 512) :
    d.zfillWrite die (mib + 2 ^ 9) =
      let d1 := d.zfillMib die mib
      if d.get F.SBF_ZFILL_BUSY die = 0 then { d1 with zfill := d1.zfill.put die (d1.get F.SBF_ZFILL_MIB die) }.put F.SBF_ZFILL_BUSY 1 die
      else d1 := by
  have hlow : (mib + 2 ^ 9) % 512 = mib := by omega
  have hgo : hasBit (mib + 2 ^ 9) 9 = true := by simp only [hasBit, beq_iff_eq]; omega
  obtain ⟨-, -, hbusy⟩ := d.zfillMib_keeps die mib
  have hcond : (hasBit (mib + 2 ^ 9) 9 && !(d.zfillMib die mib).on? F.SBF_ZFILL_BUSY die) = true ↔ d.get F.SBF_ZFILL_BUSY die = 0 := by
    rw [hgo]
    simp [Dev.on?, hbusy]
  rw [Dev.zfillWrite, hlow]
  exact ite_congr (propext hcond) (fun _ => rfl) fun _ => rfl

theorem Dev.zfillDone_eq {d : Dev} {die m : Nat} (h : d.zfill.at? die = some m) :
    ∃ merge, d.zfillDone die =
      { d with zfill := d.zfill.del die, mem := d.mem.zero (sbAddr die (m * 2 ^ 20)) (2 ^ 20),
               unwritten := cutRange d.unwritten (sbAddr die (m * 2 ^ 20)) (2 ^ 20),
               errs := d.errs.delIf (fun u => sbAddr die (m * 2 ^ 20) ≤ u && u < sbAddr die (m * 2 ^ 20) + 2 ^ 20), merge := merge }.put
        F.SBF_ZFILL_BUSY 0 die := by
  refine ⟨d.merge.map fun (b : (Nat × Nat) × List MEnt) => if b.1.1 = die then (b.1, b.2.filter fun e => e.word / 2 ^ 20 != m) else b, ?_⟩
  simp only [Dev.zfillDone, h]

theorem Dev.errs_zfillDone {d : Dev} {die m u : Nat} (h : d.zfill.at? die = some m) (hlo : sbAddr die (m * 2 ^ 20) ≤ u)
    (hhi : u < sbAddr die (m * 2 ^ 20) + 2 ^ 20) : (d.zfillDone die).errs.at? u = none := by
  obtain ⟨merge, hdone⟩ := Dev.zfillDone_eq h
  rw [hdone, Dev.put_errs, KMap.at?_delIf, if_pos (Bool.and_eq_true_iff.mpr ⟨decide_eq_true hlo, decide_eq_true hhi⟩)]

/-- One turn of a scrubber: no change if it is not enabled, and otherwise the read of its unit and the step of its walk (R228, R229). -/
theorem Dev.scrubRead_turn (d : Dev) {mem die unit : Nat} (again : List (Nat × Nat)) (hmem : mem < 3) (hup : d.carrierUp die = true)
    (hruns : d.scrubs mem die unit) :
    let key := scrubKey mem die unit
    let e := d.scrubRead mem die unit again
    e.scrubAt mem key = d.scrubNext mem die key ∧ (mem ≠ 0 → e.mem = d.mem) ∧
    (mem = 0 → d.walkUnits 0 ≤ (d.scrubAt mem key).pos + 1 →
      e.get F.HBM_SSTAT_LAPS die (unit % 128 / 32) = (d.get F.HBM_SSTAT_LAPS die (unit % 128 / 32) + 1) % 2 ^ 16) ∧
    (mem = 1 → d.walkUnits 1 ≤ (d.scrubAt mem key).pos + 1 → e.get F.SBF_SSTAT_LAPS die = (d.get F.SBF_SSTAT_LAPS die + 1) % 2 ^ 16) := by
  obtain ⟨r, hread, hagree, hsram⟩ := (d.scrubRead_cases mem die unit again hmem hup).2 hruns
  have hat (key : Nat) : r.scrubAt mem key = d.scrubAt mem key := by simp only [Dev.scrubAt, hagree.scrub (by decide)]
  have htick : r.tick die = d.tick die := by simp only [Dev.tick, hagree.lcnt (by decide)]
  have hunits (n : Nat) : r.walkUnits n = d.walkUnits n := by simp only [Dev.walkUnits, Dev.hbmBytes, hagree.fuse (by decide)]
  dsimp only
  rw [hread]
  refine ⟨?_, fun hne => (Dev.scrubStep_mem ..).trans (hsram hne), ?_, ?_⟩
  · rw [Dev.scrubStep_scrubAt, Dev.scrubNext, Dev.scrubNext, hat, htick, hunits]
  · rintro rfl hlap
    have hstack : scrubKey 0 die unit % 128 = unit % 128 := by simp [scrubKey]
    have hlaps := r.scrubStep_laps_hbm die (scrubKey 0 die unit) (by rwa [hunits, hat])
    rwa [hstack, hagree.get _ (by decide) (by decide)] at hlaps
  · rintro rfl hlap
    rw [Dev.scrubStep_laps_sbuf _ _ _ (by rwa [hunits, hat]), hagree.get _ (by decide) (by decide)]

/-- Settles O35: the outcomes of a scrubber's turn (`Dev.scrubRead_turn`, with laps counted per unit, log entry 51), of a write-back, of a
self-test begun (RUN clears DONE and FAIL, log entry 52) and ended in each memory, and of a zero fill. -/
theorem scrubsAndFills : Obligations.ScrubsAndFills := by
  refine ⟨fun mem die unit ups again => Effect.scrubRead_of _ _ _ _ _ fun d hwf hup => ?_, fun place => Effect.scrubWriteback_of _ ?_,
    fun mem die inst => ⟨Effect.checkerSelfTest_of _ _ _ fun d _ _ => ?_,
      fun pattern bad => Effect.checkerSelfTestDone_of _ _ _ _ _ fun d _ _ => ?_⟩,
    fun die mib => Effect.sbfZfill_of _ _ fun d hwf _ => ?_, fun die => Effect.sbfZfillDone_of _ fun d _ _ m h hmem => ?_⟩
  · have hmem : mem < 3 := of_decide_eq_true (Bool.and_eq_true_iff.mp hwf).1
    have hcarrier : (d.upset ups).carrierUp die = true := Place.ofCarrier_up hup
    exact ⟨((d.upset ups).scrubRead_cases mem die unit again hmem hcarrier).1, (d.upset ups).scrubRead_turn again hmem hcarrier⟩
  · intro d _ _ a old good h
    rw [Dev.scrubWback_eq h]
    dsimp only
    split
    · exact ⟨rfl, (KMap.at?_del ..).trans (if_pos rfl), fun hmem => Dev.writeUnit_stores (d := { d with wback := d.wback.eraseIdx place }) hmem⟩
    · exact ⟨rfl, rfl, rfl⟩
  · by_cases hdown : (mem == 2 && !d.computeUp die) = true
    · rw [if_pos hdown]
      obtain ⟨rfl, hoff⟩ : mem = 2 ∧ d.computeUp die = false := by simpa using hdown
      exact ⟨rfl, fun _ hup => absurd (hup rfl) (by simp [hoff])⟩
    · rw [if_neg hdown]
      refine ⟨Dev.stestRun_mem, fun h _ => ⟨Dev.stestRun_runs h, ?_, ?_, ?_⟩⟩ <;> rintro rfl <;>
        exact ⟨Dev.stestRun_clears h _ rfl (by decide), Dev.stestRun_clears h _ rfl (by decide)⟩
  · refine ⟨Dev.stestDone_idle pattern bad, ?_, ?_, ?_⟩
    · rintro h rfl
      obtain ⟨hended, hkept⟩ := Dev.stestDone_passed bad h
      refine ⟨hended, hkept, ?_, ?_⟩ <;> rintro rfl
      · rw [Dev.stestDone_hbm 0 bad h]
        exact Dev.putOutcome_get _ _ _ (by decide) (by decide) (by decide)
      · rw [Dev.stestDone_sbuf bad h]
        exact Dev.putOutcome_get _ _ _ (by decide) (by decide) (by decide)
    · rintro h rfl
      exact Dev.stestDone_sp_get pattern bad h
    · rintro h rfl hfail
      exact Dev.stestDone_hbm_failed bad h hfail
  · have hmib : mib < 512 := of_decide_eq_true (Bool.and_eq_true_iff.mp hwf).2
    obtain ⟨hmem, hzfill, -⟩ := d.zfillMib_keeps die mib
    rw [d.zfillWrite_go die hmib, ← d.zfillMib_get die mib]
    dsimp only
    split
    · refine ⟨hmem, (KMap.at?_put ..).trans (if_pos rfl), Dev.get_put_self _ _ _ _ _ _ (by decide) (by decide) (by decide), ?_⟩
      exact Dev.get_put_apart _ _ _ _ (by decide) (by decide) (by decide)
    · exact ⟨hmem, hzfill⟩
  · refine ⟨?_, ?_, ?_, fun u => Dev.errs_zfillDone h⟩ <;> obtain ⟨merge, hdone⟩ := Dev.zfillDone_eq h <;> rw [hdone]
    · exact Dev.get_put_self _ _ _ _ _ _ (by decide) (by decide) (by decide)
    · exact (KMap.at?_del ..).trans (if_pos rfl)
    · exact fun x => Memory.byte_zero _ _ _ _ hmem

/-! A package whose memories are scrubbed, tested and filled: what the statements above assume of one -/

/-- Die 0's shared buffer is scrubbed: bank 3 is about to end a lap that began at tick 4, and it is tick 9. The first word of the shared
buffer, read as 3 and 4, is to be written back as 3 and 5; a fill of the first MiB, a self-test of HBM stack 1 and one of cell 0 are under way. -/
def Dev.scrubbing : Dev :=
  { Dev.ioServing.put F.SBF_SCRUB_EN 1 0 with
    lcnt := [9], scrub := [((1, 3), ⟨24575, 4, 0⟩)], wback := [(2 ^ 43, [3, 4], [3, 5])], errs := [(2 ^ 43, 1)], zfill := [(0, 0)],
    stest := [(0, 0, 1), (2, 0, 0)] }

theorem Dev.scrubbing_up : ∀ die < 4, (Place.ofCarrier die).up Dev.scrubbing = true := by decide

/-- A step that changes memory, from a state in canonical form. -/
theorem stepKeepsStored_witness :
    ∃ t, step ⟨[.scrubWriteback 0], Dev.scrubbing⟩ = .next t ∧ t.dev.mem.byte (2 ^ 43 + 1) = 5 ∧ t.stored :=
  ⟨_, rfl, rfl, stepKeepsStored ⟨[.scrubWriteback 0], Dev.scrubbing⟩ _ rfl rfl⟩

/-- Data bit 0 alone: its check bits are x^7 reduced, and the parity bit makes the weight even. -/
theorem scratchpadCode_witness : secdedVerdict (2 ^ 71 + 2 ^ 7 + 2 ^ 3 + 1) = .clean (2 ^ 71 + 2 ^ 7 + 2 ^ 3 + 1) :=
  (scratchpadCode _ (by decide)).mpr ⟨⟨[0], by decide, by decide⟩, by decide⟩

theorem scrubRead_witness : Completes (.scrubRead 1 0 3 [] []) ⟨[], Dev.scrubbing⟩ fun e =>
    e.scrubAt 1 3 = ⟨0, 4, 5⟩ ∧ e.mem = Dev.scrubbing.mem ∧ e.get F.SBF_SSTAT_LAPS 0 = 1 := by
  obtain ⟨hread, -⟩ := scrubsAndFills
  refine (hread 1 0 3 [] [] ⟨[], _⟩ ⟨rfl, Dev.scrubbing_up 0 (by decide)⟩).imp fun e h => ?_
  obtain ⟨hwalk, hmem, -, hlaps⟩ := h.2 (by decide)
  exact ⟨hwalk, hmem (by decide), hlaps rfl (by decide)⟩

theorem scrubWriteback_witness : Completes (.scrubWriteback 0) ⟨[], Dev.scrubbing⟩ fun e =>
    e.wback = [] ∧ e.mem.byte (2 ^ 43 + 1) = 5 ∧ e.mem.byte 0 = 1 := by
  obtain ⟨-, hwriteback, -⟩ := scrubsAndFills
  refine (hwriteback 0 ⟨[], Dev.scrubbing⟩ ⟨rfl, rfl⟩).imp fun e h => ?_
  obtain ⟨hleft, hwrote⟩ := h _ _ _ rfl
  obtain ⟨-, hbytes⟩ := (if_pos (by decide)).mp hwrote
  exact ⟨hleft, (hbytes rfl _).trans (by decide), (hbytes rfl _).trans (by decide)⟩

theorem checkerSelfTest_witness : Completes (.checkerSelfTest 1 0 0) ⟨[], Dev.scrubbing⟩ fun e => (1, 0, 0) ∈ e.stest := by
  obtain ⟨-, -, htest, -⟩ := scrubsAndFills
  refine ((htest 1 0 0).1 ⟨[], _⟩ ⟨rfl, Dev.scrubbing_up 0 (by decide)⟩).imp fun e h => ?_
  exact (h.2 (by decide) (by decide)).1

/-- The test of HBM stack 1 fails. -/
theorem checkerSelfTestDone_hbm_witness : Completes (.checkerSelfTestDone 0 0 1 7 []) ⟨[], Dev.scrubbing⟩ fun e =>
    e.get F.HBM_STAT_STATE 0 1 = 4 := by
  obtain ⟨-, -, htest, -⟩ := scrubsAndFills
  refine ((htest 0 0 1).2 7 [] ⟨[], _⟩ ⟨rfl, Dev.scrubbing_up 0 (by decide)⟩).imp fun e h => ?_
  obtain ⟨-, -, -, hfailed⟩ := h
  exact hfailed (by decide) rfl (by decide)

/-- The test of cell 0 passes but for core 5 of its die 1. -/
theorem checkerSelfTestDone_sp_witness : Completes (.checkerSelfTestDone 2 0 0 3 [(1, 5)]) ⟨[], Dev.scrubbing⟩ fun e =>
    e.get F.CMP_STEST_FAIL 0 = 1 ∧ e.get F.CMP_PSTEST_PASS 0 0 (1 * 256 + 5) = 0 ∧ e.get F.CMP_PSTEST_PASS 0 0 (1 * 256 + 6) = 1 := by
  obtain ⟨-, -, htest, -⟩ := scrubsAndFills
  refine ((htest 2 0 0).2 3 [(1, 5)] ⟨[], _⟩ ⟨rfl, Dev.scrubbing_up 0 (by decide)⟩).imp fun e h => ?_
  obtain ⟨-, -, hcores, -⟩ := h
  obtain ⟨-, hfail, hpass⟩ := hcores (by decide) rfl
  exact ⟨hfail, hpass 1 5 (by decide) (by decide), hpass 1 6 (by decide) (by decide)⟩

theorem sbfZfill_witness : Completes (.sbfZfill 1 5) ⟨[], Dev.scrubbing⟩ fun e => e.zfill.at? 1 = some 5 := by
  obtain ⟨-, -, -, hfill, -⟩ := scrubsAndFills
  refine (hfill 1 5 ⟨[], _⟩ ⟨rfl, Dev.scrubbing_up 1 (by decide)⟩).imp fun e h => ?_
  obtain ⟨-, hstarted⟩ := h
  exact ((if_pos (by decide)).mp hstarted).1

theorem sbfZfillDone_witness : Completes (.sbfZfillDone 0) ⟨[], Dev.scrubbing⟩ fun e =>
    e.mem.byte (2 ^ 43 + 1) = 0 ∧ e.mem.byte 0 = 1 ∧ e.errs.at? (2 ^ 43) = none := by
  obtain ⟨-, -, -, -, hdone⟩ := scrubsAndFills
  refine (hdone 0 ⟨[], _⟩ ⟨rfl, Dev.scrubbing_up 0 (by decide)⟩).imp fun e h => ?_
  obtain ⟨-, -, hbytes, herrs⟩ := h 0 rfl rfl
  exact ⟨(hbytes _).trans (by decide), (hbytes _).trans (by decide), herrs _ (by decide) (by decide)⟩

end Sys2Proof.Machine
end

section
/-!
The statements of 11_translation.md: the set of a key-ring entry, the key ring's commands, quotas, host windows, and the cut, drain and limit of a REKEY.
-/
namespace Sys2Proof.Machine

/-! The set of a key-ring entry (R245) -/

/-- The part of an entry's set that all pages of one aligned run of 262,144 share: what its identity, size and run number give. -/
def runPart (p z r : Nat) : Nat := r % 2 ^ 18 ^^^ r / 2 ^ 18 % 2 ^ 9 ^^^ p * 2 ^ 12 ^^^ z * 2 ^ 10

/-- The set of a page is its place in its run, folded with the run's part. -/
theorem krgSet_eq (p z v : Nat) : krgSet p z v = v % 2 ^ 18 ^^^ runPart p z (v / 2 ^ 18) := by
  simp only [krgSet, runPart, bitsOf, Nat.xor_assoc, Nat.div_div_eq_div_mul, ← Nat.pow_add, Nat.pow_zero, Nat.div_one, Nat.reduceAdd, Nat.reduceSub]

theorem krgSet_lt {p z : Nat} (v : Nat) (hp : p < 2 ^ 6) (hz : z < 2 ^ 2) : krgSet p z v < 2 ^ 18 := by
  rw [krgSet_eq, runPart]
  refine Nat.xor_lt_two_pow (Nat.mod_lt _ (by decide)) (Nat.xor_lt_two_pow (Nat.xor_lt_two_pow (Nat.xor_lt_two_pow ?_ ?_) ?_) ?_) <;> omega

theorem testBit_krgSet (p z v : Nat) {i : Nat} (hi : i < 18) :
    (krgSet p z v).testBit i = (((v.testBit i ^^ v.testBit (18 + i)) ^^ (decide (i < 9) && v.testBit (36 + i))) ^^
      (decide (12 ≤ i) && p.testBit (i - 12)) ^^ (decide (10 ≤ i) && z.testBit (i - 10))) := by
  simp only [krgSet, Nat.testBit_xor, testBit_bitsOf, Nat.testBit_mul_two_pow, Nat.zero_add, Nat.reduceAdd, Nat.reduceSub, hi, decide_true,
    Bool.true_and]

theorem xor_right_cancel {a b c : Nat} (h : a ^^^ c = b ^^^ c) : a = b :=
  calc a = a ^^^ c ^^^ c := by rw [Nat.xor_assoc, Nat.xor_self, Nat.xor_zero]
    _ = b ^^^ c ^^^ c := by rw [h]
    _ = b := by rw [Nat.xor_assoc, Nat.xor_self, Nat.xor_zero]

/-- Pages of one run that meet in a set are one page. -/
theorem krgSet_inj_run {p z v v' : Nat} (hrun : v / 2 ^ 18 = v' / 2 ^ 18) (hset : krgSet p z v = krgSet p z v') : v = v' := by
  rw [krgSet_eq, krgSet_eq, hrun] at hset
  have hplace : v % 2 ^ 18 = v' % 2 ^ 18 := xor_right_cancel hset
  rw [← Nat.div_add_mod v (2 ^ 18), ← Nat.div_add_mod v' (2 ^ 18), hrun, hplace]

/-- Settles O38: the set's bits (`testBit_krgSet`), and the pages of a run told apart by the set (`krgSet_inj_run`). -/
theorem entrySets : Obligations.EntrySets := by
  refine ⟨fun e i hi => testBit_krgSet _ _ _ hi, fun e => krgSet_lt _ (bitsOf_lt ..) (bitsOf_lt ..), fun p z v v' => krgSet_inj_run, ?_⟩
  intro p z s vs hvs hall
  exact List.pairwise_map.mpr (hvs.imp_of_mem fun hv hv' hne hrun => hne (krgSet_inj_run hrun ((hall _ hv).trans (hall _ hv').symm)))

/-! 64-bit values in a pair of registers -/

section
variable (d : Dev) {lo hi : Fld} (die i s : Nat)

theorem Dev.get64_of_get {d e : Dev} {lo hi : Fld} {die i s : Nat} (hlo : e.get lo die i s = d.get lo die i s)
    (hhi : e.get hi die i s = d.get hi die i s) : e.get64 lo hi die i s = d.get64 lo hi die i s := by
  rw [Dev.get64, Dev.get64, hlo, hhi]

/-- A 64-bit value put into two whole registers reads back. -/
theorem Dev.get64_put64 (v : Nat) (hlo : lo.lo = 0 ∧ lo.hi = 31) (hhi : hi.lo = 0 ∧ hi.hi = 31) (hne : lo.reg ≠ hi.reg) :
    (d.put64 lo hi v die i s).get64 lo hi die i s = v % 2 ^ 64 := by
  have hlow : (d.put64 lo hi v die i s).get lo die i s = v % 2 ^ 32 := by
    rw [Dev.put64, Dev.get_put_apart _ _ _ _ (by omega) (by omega) (.inl hne), Dev.get_put _ _ _ _ _ _ (by omega) (by omega), hlo.1, hlo.2]
    simp
  have hhigh : (d.put64 lo hi v die i s).get hi die i s = v / 2 ^ 32 % 2 ^ 32 := by
    rw [Dev.put64, Dev.get_put _ _ _ _ _ _ (by omega) (by omega), hhi.1, hhi.2]
  rw [Dev.get64, hlow, hhigh, hlo.1]
  omega

/-- A field of neither register reads as before. -/
theorem Dev.get_put64_apart (f : Fld) (v : Nat) {j t : Nat} (hf : f.hi < 32) (hlo : lo.lo ≤ lo.hi) (hhi : hi.lo ≤ hi.hi)
    (hne : f.reg ≠ lo.reg ∧ f.reg ≠ hi.reg) : (d.put64 lo hi v die i s).get f die j t = d.get f die j t := by
  rw [Dev.put64, Dev.get_put_apart _ _ _ _ hf hhi (.inl hne.2), Dev.get_put_apart _ _ _ _ hf hlo (.inl hne.1)]

end

/-! What a key-ring command comes to (R247, R248, R256) -/

/-- The ways of an entry's set that hold no valid entry. -/
def Dev.freeWays (d : Dev) (die : Nat) (k : KEnt) : List Nat := (List.range 8).filter fun w => !((d.krg.at? (die, k.set, w)).any KEnt.valid)

theorem Dev.mem_freeWays {d : Dev} {die w : Nat} {k : KEnt} :
    w ∈ d.freeWays die k ↔ w < 8 ∧ ∀ x, d.krg.at? (die, k.set, w) = some x → x.valid = false := by
  rw [Dev.freeWays, List.mem_filter, List.mem_range]
  cases d.krg.at? (die, k.set, w) <;> simp

/-- The rights that MODIFY would take away are those that the held entry has and the staged one has not (R247). -/
theorem losesRight_eq (h k : Nat) : (h % 8 &&& k % 8 != h % 8) = (List.range 3).any fun j => hasBit h j && !hasBit k j := by
  have hlow : ∀ a < 8, ∀ b < 8, (a &&& b != a) = (List.range 3).any fun j => hasBit a j && !hasBit b j := by decide
  rw [hlow _ (Nat.mod_lt _ (by decide)) _ (Nat.mod_lt _ (by decide))]
  have hbit (n j : Nat) (hj : j < 3) : hasBit (n % 8) j = hasBit n j := hasBit_mod (w := 3) hj
  simp [List.range_succ, hbit]

section
variable {d : Dev} {die w : Nat} {k : KEnt}

theorem Dev.krgExec_insert_bad (h : d.badEntry die k.w0 k.w1 = true) : d.krgExec die 1 k = (4, none, d) := if_pos h

theorem Dev.krgExec_insert_held (hok : ¬ d.badEntry die k.w0 k.w1 = true) (h : (d.krgMatch die k).isSome = true) :
    d.krgExec die 1 k = (2, none, d) := (if_neg hok).trans (if_pos h)

theorem Dev.krgExec_insert_quota (hok : ¬ d.badEntry die k.w0 k.w1 = true) (hnew : ¬ (d.krgMatch die k).isSome = true)
    (h : d.get F.KRG_QUOTA_MAX die 0 k.ident ≤ d.get F.KRG_QUSE_COUNT die 0 k.ident) : d.krgExec die 1 k = (3, none, d) :=
  (if_neg hok).trans ((if_neg hnew).trans (if_pos h))

/-- The package with a new entry in a way of its set, counted against its identity's quota. -/
def Dev.inserted (d : Dev) (die : Nat) (k : KEnt) (w : Nat) : Dev :=
  { d with free := d.free + 1, krg := d.krg.put (die, k.set, w) { k with w0 := clrBit k.w0 9 } }.count F.KRG_QUSE_COUNT 1 die 0 k.ident

/-- An entry that INSERT accepts goes into a free way of its set, if there is one. -/
theorem Dev.krgExec_insert (hok : ¬ d.badEntry die k.w0 k.w1 = true) (hnew : ¬ (d.krgMatch die k).isSome = true)
    (hroom : ¬ d.get F.KRG_QUOTA_MAX die 0 k.ident ≤ d.get F.KRG_QUSE_COUNT die 0 k.ident) :
    (d.freeWays die k = [] ∧ d.krgExec die 1 k = (1, none, d)) ∨ ∃ w ∈ d.freeWays die k, d.krgExec die 1 k = (0, some w, d.inserted die k w) := by
  simp only [Dev.krgExec, if_neg hok, if_neg hnew, if_neg hroom]
  split
  next hnone => exact .inl ⟨hnone, rfl⟩
  next hsome =>
    refine .inr ⟨_, ?_, rfl⟩
    rw [List.getD_eq_getElem?_getD, List.getElem?_eq_getElem (Nat.mod_lt _ (List.length_pos_iff.mpr hsome)), Option.getD_some]
    exact List.getElem_mem _

/-- The entry that the key ring of a die holds in a way of an entry's set. -/
def Dev.heldEntry (d : Dev) (die : Nat) (k : KEnt) (w : Nat) : KEnt := d.krg.atD (die, k.set, w) ⟨0, 0⟩

theorem Dev.krgExec_modify_bad (h : d.badEntry die k.w0 k.w1 = true) : d.krgExec die 2 k = (4, none, d) := if_pos h

theorem Dev.krgExec_modify_absent (hok : ¬ d.badEntry die k.w0 k.w1 = true) (hm : d.krgMatch die k = none) : d.krgExec die 2 k = (5, none, d) := by
  simp only [Dev.krgExec, if_neg hok, hm]

theorem Dev.krgExec_modify_found (hok : ¬ d.badEntry die k.w0 k.w1 = true) (hm : d.krgMatch die k = some w) :
    d.krgExec die 2 k =
      if (d.heldEntry die k w).w1 / 8 ≠ k.w1 / 8 then (4, none, d)
      else if ((List.range 3).any fun j => hasBit (d.heldEntry die k w).w1 j && !hasBit k.w1 j) = true then (7, none, d)
      else (0, some w, { d with krg := d.krg.put (die, k.set, w) { d.heldEntry die k w with w1 := k.w1 } }) := by
  simp only [Dev.krgExec, if_neg hok, hm]
  exact ite_congr (propext bne_iff_ne) (fun _ => rfl) fun _ => ite_congr (congrArg (· = true) (losesRight_eq ..)) (fun _ => rfl) fun _ => rfl

theorem Dev.krgExec_read_absent (hm : d.krgMatch die k = none) : d.krgExec die 3 k = (5, none, d) := by
  simp only [Dev.krgExec, hm]

/-- The package with an entry's words staged. -/
def Dev.staging (d : Dev) (die : Nat) (h : KEnt) : Dev :=
  (d.put64 F.KRG_EW0_LO_WORD F.KRG_EW0_HI_WORD h.w0 die).put64 F.KRG_EW1_LO_WORD F.KRG_EW1_HI_WORD h.w1 die

theorem Dev.staging_staged (d : Dev) (die : Nat) (h : KEnt) : (d.staging die h).staged die = ⟨h.w0 % 2 ^ 64, h.w1 % 2 ^ 64⟩ := by
  have hapart (f : Fld) (hf : f.reg = .KRG_EW0_LO ∨ f.reg = .KRG_EW0_HI) (hhi : f.hi < 32) :
      (d.staging die h).get f die = (d.put64 F.KRG_EW0_LO_WORD F.KRG_EW0_HI_WORD h.w0 die).get f die :=
    Dev.get_put64_apart _ _ _ _ _ _ hhi (by decide) (by decide) (by rcases hf with hf | hf <;> rw [hf] <;> decide)
  rw [Dev.staged, Dev.get64_of_get (hapart _ (.inl rfl) (by decide)) (hapart _ (.inr rfl) (by decide)),
    Dev.get64_put64 _ _ _ _ _ (by decide) (by decide) (by decide), Dev.staging, Dev.get64_put64 _ _ _ _ _ (by decide) (by decide) (by decide)]

theorem Dev.staged_of_get {e : Dev} (h : ∀ f : Fld, f.reg ≠ .KRG_ESTAT → f.hi < 32 → ∀ i s, e.get f die i s = d.get f die i s) :
    e.staged die = d.staged die := by
  rw [Dev.staged, Dev.staged, Dev.get64_of_get (h _ (by decide) (by decide) ..) (h _ (by decide) (by decide) ..),
    Dev.get64_of_get (h _ (by decide) (by decide) ..) (h _ (by decide) (by decide) ..)]

theorem Dev.krgExec_read_found (hm : d.krgMatch die k = some w) : d.krgExec die 3 k = (0, some w, d.staging die (d.heldEntry die k w)) := by
  simp only [Dev.krgExec, hm, Dev.staging, Dev.heldEntry]

theorem Dev.krgExec_remove_absent (hm : d.krgMatch die k = none) : d.krgExec die 4 k = (5, none, d) := by
  simp only [Dev.krgExec, hm]

/-- The package without an entry, which no longer counts against its identity's quota. -/
def Dev.removed (d : Dev) (die : Nat) (k : KEnt) (w : Nat) : Dev :=
  { d with krg := d.krg.del (die, k.set, w) }.put F.KRG_QUSE_COUNT (d.get F.KRG_QUSE_COUNT die 0 k.ident - 1) die 0 k.ident

theorem Dev.krgExec_remove_found (hm : d.krgMatch die k = some w) :
    d.krgExec die 4 k = if (d.heldEntry die k w).used = true then (6, none, d) else (0, some w, d.removed die k w) := by
  simp only [Dev.krgExec, hm, Dev.heldEntry]
  rfl

end

/-! A command that is carried out (R256) -/

/-- The key ring of a die is BUSY with a result that waits, and with the way that the command affected, if it affected one. -/
def Dev.answering (e : Dev) (die r : Nat) (w : Option Nat) : Prop :=
  e.get F.KRG_ESTAT_BUSY die = 1 ∧ ∃ q, e.krgP.at? die = some (r, q) ∧ ∀ x, w = some x → q = x

section
variable {d d1 : Dev} {die cmd r : Nat} {w : Option Nat}

theorem Dev.krgCmdWrite_busy (h : d.on? F.KRG_ESTAT_BUSY die = true) (hcmd : 1 ≤ cmd % 8 ∧ cmd % 8 ≤ 4) : d.krgCmdWrite die cmd = d :=
  (if_pos hcmd).trans (if_pos h)

/-- A command while the key ring is not BUSY: the result waits, and the entries and all registers but KRG_ESTAT are as the command leaves them. -/
theorem Dev.krgCmdWrite_idle (h : d.on? F.KRG_ESTAT_BUSY die = false) (hcmd : 1 ≤ cmd ∧ cmd ≤ 4)
    (hx : d.krgExec die cmd (d.staged die) = (r, w, d1)) :
    let e := d.krgCmdWrite die cmd
    e.answering die r w ∧ e.krg = d1.krg ∧ ∀ f : Fld, f.reg ≠ .KRG_ESTAT → f.hi < 32 → ∀ i s, e.get f die i s = d1.get f die i s := by
  have he : d.krgCmdWrite die cmd =
      { d1 with krgP := d1.krgP.put die (r, w.getD (d1.get F.KRG_ESTAT_WAY die)) }.put F.KRG_ESTAT_BUSY 1 die := by
    rw [Dev.krgCmdWrite, Nat.mod_eq_of_lt (by omega), if_pos hcmd, Dev.krgCmd, h, hx]
    rfl
  rw [he]
  refine ⟨⟨Dev.get_put_self _ _ _ _ _ _ (by decide) (by decide) (by decide), _, (KMap.at?_put ..).trans (if_pos rfl), ?_⟩, rfl, ?_⟩
  · rintro x rfl
    rfl
  · intro f hreg hhi i s
    exact Dev.get_put_apart _ _ _ _ hhi (by decide) (.inl hreg)

/-- A refused command leaves the entries as they are. -/
theorem Dev.krgCmdWrite_refused (h : d.on? F.KRG_ESTAT_BUSY die = false) (hcmd : 1 ≤ cmd ∧ cmd ≤ 4)
    (hx : d.krgExec die cmd (d.staged die) = (r, none, d)) : (d.krgCmdWrite die cmd).answering die r none ∧ (d.krgCmdWrite die cmd).krg = d.krg := by
  obtain ⟨hans, hkrg, -⟩ := Dev.krgCmdWrite_idle h hcmd hx
  exact ⟨hans, hkrg⟩

end

/-- A key-ring command completes: its result and its way are shown, and the entries stay. -/
theorem Dev.krgDone_shows {d : Dev} {die r w : Nat} (h : d.krgP.at? die = some (r, w)) :
    let e := d.krgDone die
    e.get F.KRG_ESTAT_RESULT die = r % 16 ∧ e.get F.KRG_ESTAT_WAY die = w % 8 ∧ e.get F.KRG_ESTAT_BUSY die = 0 ∧ e.krg = d.krg := by
  simp only [Dev.krgDone, h]
  refine ⟨?_, ?_, Dev.get_put_self _ _ _ _ _ _ (by decide) (by decide) (by decide), rfl⟩
  · rw [Dev.get_put_apart _ _ _ _ (by decide) (by decide) (by decide), Dev.get_put_apart _ _ _ _ (by decide) (by decide) (by decide)]
    exact Dev.get_put _ _ _ _ _ _ (by decide) (by decide)
  · rw [Dev.get_put_apart _ _ _ _ (by decide) (by decide) (by decide)]
    exact Dev.get_put _ _ _ _ _ _ (by decide) (by decide)

/-- Settles O36: each outcome of a command on the staged entry (`Dev.krgExec_…`), shown as `Dev.krgCmdWrite_idle` says; nothing while BUSY. -/
theorem keyRingCommands : Obligations.KeyRingCommands := by
  refine fun die => ⟨Effect.insert_of _ fun d _ _ => ⟨fun hbusy => Dev.krgCmdWrite_busy hbusy (by decide), fun hidle => ?_⟩,
    Effect.modify_of _ fun d _ _ => ⟨fun hbusy => Dev.krgCmdWrite_busy hbusy (by decide), fun hidle => ?_⟩,
    Effect.readEntry_of _ fun d _ _ => ⟨fun hbusy => Dev.krgCmdWrite_busy hbusy (by decide), fun hidle => ?_⟩,
    Effect.removeUnused_of _ fun d _ _ => ⟨fun hbusy => Dev.krgCmdWrite_busy hbusy (by decide), fun hidle => ?_⟩,
    Effect.krgCommandDone_of _ fun d _ _ => ?_⟩
  · dsimp only
    split
    next hbad => exact Dev.krgCmdWrite_refused hidle (by decide) (Dev.krgExec_insert_bad hbad)
    next hok =>
    split
    next hheld => exact Dev.krgCmdWrite_refused hidle (by decide) (Dev.krgExec_insert_held hok hheld)
    next hnew =>
    split
    next hquota => exact Dev.krgCmdWrite_refused hidle (by decide) (Dev.krgExec_insert_quota hok hnew hquota)
    next hroom =>
    obtain ⟨hnone, hx⟩ | ⟨w, hw, hx⟩ := Dev.krgExec_insert hok hnew hroom
    · refine ⟨fun _ => Dev.krgCmdWrite_refused hidle (by decide) hx, fun ⟨w, hw⟩ => ?_⟩
      exact absurd (Dev.mem_freeWays.mpr hw) (by rw [hnone]; exact List.not_mem_nil)
    · obtain ⟨hlt, hfree⟩ := Dev.mem_freeWays.mp hw
      refine ⟨fun hfull => absurd hfree (hfull w hlt), fun _ => ⟨w, hlt, hfree, ?_⟩⟩
      obtain ⟨hans, hkrg, hget⟩ := Dev.krgCmdWrite_idle hidle (by decide) hx
      rw [hkrg, hget F.KRG_QUSE_COUNT (by decide) (by decide)]
      exact ⟨hans, (KMap.at?_put ..).trans (if_pos rfl), fun x hx => (KMap.at?_put ..).trans (if_neg hx),
        Dev.get_count _ _ _ _ _ _ (by decide) (by decide) rfl⟩
  · dsimp only
    split
    next hbad => exact Dev.krgCmdWrite_refused hidle (by decide) (Dev.krgExec_modify_bad hbad)
    next hok =>
    split
    next hm => exact Dev.krgCmdWrite_refused hidle (by decide) (Dev.krgExec_modify_absent hok hm)
    next w hm =>
    have hx := Dev.krgExec_modify_found hok hm
    split
    next hother => exact Dev.krgCmdWrite_refused hidle (by decide) (hx.trans (if_pos hother))
    next hsame =>
    split
    next hloses => exact Dev.krgCmdWrite_refused hidle (by decide) (hx.trans ((if_neg hsame).trans (if_pos hloses)))
    next hadds =>
    obtain ⟨hans, hkrg, -⟩ := Dev.krgCmdWrite_idle hidle (by decide) (hx.trans ((if_neg hsame).trans (if_neg hadds)))
    exact ⟨hans, hkrg⟩
  · dsimp only
    split
    next hm =>
      obtain ⟨hans, hkrg, hget⟩ := Dev.krgCmdWrite_idle hidle (by decide) (Dev.krgExec_read_absent hm)
      exact ⟨hkrg, hans, Dev.staged_of_get hget⟩
    next w hm =>
      obtain ⟨hans, hkrg, hget⟩ := Dev.krgCmdWrite_idle hidle (by decide) (Dev.krgExec_read_found hm)
      exact ⟨hkrg, hans, (Dev.staged_of_get hget).trans (Dev.staging_staged ..)⟩
  · dsimp only
    split
    next hm => exact Dev.krgCmdWrite_refused hidle (by decide) (Dev.krgExec_remove_absent hm)
    next w hm =>
    have hx := Dev.krgExec_remove_found hm
    split
    next hused => exact Dev.krgCmdWrite_refused hidle (by decide) (hx.trans (if_pos hused))
    next hunused =>
    obtain ⟨hans, hkrg, hget⟩ := Dev.krgCmdWrite_idle hidle (by decide) (hx.trans (if_neg hunused))
    rw [hkrg, hget F.KRG_QUSE_COUNT (by decide) (by decide)]
    exact ⟨hans, rfl, Dev.get_put_self _ _ _ _ _ _ (by decide) (by decide) (Nat.lt_of_le_of_lt (Nat.sub_le _ _) (Dev.get_lt ..))⟩
  · split
    next hnone => simp only [Dev.krgDone, hnone]
    next hwaits => exact Dev.krgDone_shows hwaits

/-! Quotas and host windows (R244, R252) -/

theorem shut_iff (en ctl set : Bool) : (en && !(ctl && !set)) = true ↔ en = true ∧ ¬ (ctl = true ∧ set = false) := by
  revert en ctl set
  decide

/-- A write to an enabled window's descriptor acts only if it clears EN. -/
theorem Dev.hwWrite_outcome (d : Dev) (die value : Nat) {word : Nat} (hword : word < 5) :
    let w := d.get F.KRG_HWSEL_WIN die
    let e := d.hwWrite die (hwReg word) value
    if d.on? F.KRG_HWCTL_EN die 0 w = true ∧ ¬ (word = 0 ∧ hasBit value 31 = false) then e = d
    else d.written e ⟨hwReg word, die, 0, w⟩ value := by
  have hsel : d.selOf (hwReg word) die 0 = d.get F.KRG_HWSEL_WIN die ∧ ((hwReg word == .KRG_HWCTL) = true ↔ word = 0) := by
    match word with
    | 0 | 1 | 2 | 3 | 4 => exact ⟨rfl, by decide⟩
  obtain ⟨hwin, hctl⟩ := hsel
  dsimp only
  have hcond := shut_iff (d.on? F.KRG_HWCTL_EN die 0 (d.get F.KRG_HWSEL_WIN die)) (hwReg word == .KRG_HWCTL) (hasBit value 31)
  rw [hctl] at hcond
  rw [Dev.hwWrite, hwin]
  by_cases hshut : d.on? F.KRG_HWCTL_EN die 0 (d.get F.KRG_HWSEL_WIN die) = true ∧ ¬ (word = 0 ∧ hasBit value 31 = false)
  · rw [if_pos hshut]
    exact if_pos (hcond.mpr hshut)
  · rw [if_neg hshut, if_neg fun h => hshut (hcond.mp h)]
    exact (Dev.writeGen_written ..).1

/-! The cut of a REKEY (R260) -/

/-- An engine whose latches are clear, and whose outstanding transactions are old. -/
def Eng.aged (g : Eng) : Eng :=
  { g with latch := g.latch.map fun _ => none, slots := g.slots.map fun s => if s.out then { s with old := true } else s }

theorem Eng.aged_latch {g : Eng} : ∀ l ∈ g.aged.latch, l = none := by
  intro l hl
  obtain ⟨-, -, rfl⟩ := List.mem_map.mp hl
  rfl

theorem Eng.aged_slots {g : Eng} : ∀ s ∈ g.aged.slots, s.out = true → s.old = true := by
  intro s hs hout
  obtain ⟨s', -, rfl⟩ := List.mem_map.mp hs
  split at hout
  next hs' => rw [if_pos hs']
  next hs' => exact absurd hout hs'

theorem Dev.setEng_eng (d : Dev) (die e x : Nat) (g : Eng) : (d.setEng die e g).eng die x = if x = e then g else d.eng die x := by
  have hkey : engKey die x = engKey die e ↔ x = e := by simp [engKey]
  simp only [Dev.eng, Dev.setEng, KMap.atD_put, hkey]

theorem Dev.engOld_engs (d : Dev) (die e : Nat) : (d.engOld die e).engs = d.engs.put (engKey die e) (d.eng die e).aged := by
  refine List.foldlRecOn (motive := fun d' : Dev => d'.engs = d.engs.put (engKey die e) (d.eng die e).aged) _ _ rfl ?_
  intro d' hd u _
  dsimp only
  split
  · exact hd
  · exact hd

theorem Dev.engOld_eng (d : Dev) (die e x : Nat) : (d.engOld die e).eng die x = if x = e then (d.eng die e).aged else d.eng die x := by
  rw [← Dev.setEng_eng, Dev.eng, Dev.engOld_engs]
  rfl

theorem Eng.aged_aged (g : Eng) : g.aged.aged = g.aged := by
  have hslot (s : WSlot) : (if s.out then { s with old := true } else s).out = s.out := by split <;> rfl
  simp only [Eng.aged, List.map_map]
  congr 1
  refine List.map_congr_left fun s _ => ?_
  simp only [Function.comp, hslot]
  split <;> rfl

/-- Engines aged in turn: each of them ends aged, and every other engine is as it was. -/
theorem Dev.foldl_engOld_eng (die x : Nat) (es : List Nat) (d : Dev) :
    (es.foldl (fun d' e => d'.engOld die e) d).eng die x = if x ∈ es then (d.eng die x).aged else d.eng die x := by
  induction es generalizing d with
  | nil => rfl
  | cons e es ih =>
    rw [List.foldl_cons, ih, Dev.engOld_eng]
    by_cases hx : x = e
    · subst hx
      simp [Eng.aged_aged]
    · simp [hx]

/-- A cut begun: the entries that it removes are gone, the drain is recorded, the identity's use is counted anew, and its KRG_RKHALT is clear. -/
def Dev.cutBegun (d : Dev) (die p : Nat) : Dev :=
  let base := d.get64 F.KRG_RKBASE_LO_DVA F.KRG_RKBASE_HI_DVA die 0 p
  let len := 2 ^ 12 * d.get F.KRG_RKLEN_PAGES die 0 p
  let all := d.on? F.KRG_RKCTL_ALL die 0 p
  let gone := d.krg.filter fun x => x.1.1 == die && x.2.cutBy p base len all
  let d1 := { d with krg := d.krg.filter fun x => !(x.1.1 == die && x.2.cutBy p base len all),
                     drains := d.drains.put (die, p) ⟨d.tick die, if 48 ≤ p then (d.site die).tag else 0, []⟩ }
  (((d1.put F.KRG_QUSE_COUNT (d.get F.KRG_QUSE_COUNT die 0 p - gone.length) die 0 p).put F.KRG_RKHALT_LO_MASK 0 die 0 p).put
    F.KRG_RKHALT_HI_MASK 0 die 0 p).put F.KRG_RKCTL_BUSY 1 die 0 p

section
variable (d : Dev) (die p : Nat)

theorem Dev.cutBegun_get (f : Fld) (hf : f.reg ∉ [Reg.KRG_QUSE, .KRG_RKHALT_LO, .KRG_RKHALT_HI] ∧ (f.reg ≠ .KRG_RKCTL ∨ f.hi < 2))
    (hhi : f.hi < 32) (i s : Nat) : (d.cutBegun die p).get f die i s = d.get f die i s := by
  simp only [List.mem_cons, List.not_mem_nil, or_false, not_or] at hf
  obtain ⟨⟨huse, hlo, hhigh⟩, hctl⟩ := hf
  rw [Dev.cutBegun, Dev.get_put_apart _ _ _ _ hhi (by decide) (hctl.imp_right .inr), Dev.get_put_apart _ _ _ _ hhi (by decide) (.inl hhigh),
    Dev.get_put_apart _ _ _ _ hhi (by decide) (.inl hlo), Dev.get_put_apart _ _ _ _ hhi (by decide) (.inl huse)]
  rfl

theorem Dev.cutBegun_busy : (d.cutBegun die p).get F.KRG_RKCTL_BUSY die 0 p = 1 :=
  Dev.get_put_self _ _ _ _ _ _ (by decide) (by decide) (by decide)

theorem Dev.cutBegun_halt : (d.cutBegun die p).get64 F.KRG_RKHALT_LO_MASK F.KRG_RKHALT_HI_MASK die 0 p = 0 := by
  have hlo : (d.cutBegun die p).get F.KRG_RKHALT_LO_MASK die 0 p = 0 := by
    rw [Dev.cutBegun, Dev.get_put_apart _ _ _ _ (by decide) (by decide) (by decide), Dev.get_put_apart _ _ _ _ (by decide) (by decide) (by decide)]
    exact Dev.get_put_self _ _ _ _ _ _ (by decide) (by decide) (by decide)
  have hhi : (d.cutBegun die p).get F.KRG_RKHALT_HI_MASK die 0 p = 0 := by
    rw [Dev.cutBegun, Dev.get_put_apart _ _ _ _ (by decide) (by decide) (by decide)]
    exact Dev.get_put_self _ _ _ _ _ _ (by decide) (by decide) (by decide)
  simp [Dev.get64, hlo, hhi]

/-- The cut, once begun, ages the identity's engines. -/
theorem Dev.rekeyCut_eq : d.rekeyCut die p = (d.identEngines die p).foldl (fun d' e => d'.engOld die e) (d.cutBegun die p) := by
  have hengines : (d.cutBegun die p).identEngines die p = d.identEngines die p := by
    simp only [Dev.identEngines, Dev.tenPart, Dev.on?, d.cutBegun_get die p F.TEN_CTL_ASSIGN (by decide) (by decide),
      d.cutBegun_get die p F.TEN_CTL_PART (by decide) (by decide)]
  rw [← hengines]
  rfl

/-- Outside the engines, a cut leaves what it has begun with. -/
theorem Dev.rekeyCut_agree :
    Agree 0x30000000000000000000000000000000000000000000000000000000000000000000000000000000000000000000000000 (d.cutBegun die p) (d.rekeyCut die p) := by
  rw [Dev.rekeyCut_eq]
  exact Agree.foldl _ _ _ (fun _ _ h => Dev.engOld_kp _ _ _ (Within.refl _) h) (Agree.refl ..)

theorem Dev.rekeyCut_all : (d.rekeyCut die p).on? F.KRG_RKCTL_ALL die 0 p = d.on? F.KRG_RKCTL_ALL die 0 p := by
  rw [Dev.on?, (d.rekeyCut_agree die p).get _ (by decide) (by decide), d.cutBegun_get die p _ (by decide) (by decide), Dev.on?]

theorem Dev.rekeyCut_busy : (d.rekeyCut die p).get F.KRG_RKCTL_BUSY die 0 p = 1 :=
  ((d.rekeyCut_agree die p).get _ (by decide) (by decide) ..).trans (d.cutBegun_busy die p)

theorem Dev.rekeyCut_halt : (d.rekeyCut die p).get64 F.KRG_RKHALT_LO_MASK F.KRG_RKHALT_HI_MASK die 0 p = 0 :=
  (Dev.get64_of_get ((d.rekeyCut_agree die p).get _ (by decide) (by decide) ..) ((d.rekeyCut_agree die p).get _ (by decide) (by decide) ..)).trans
    (d.cutBegun_halt die p)

theorem Dev.rekeyCut_krg :
    (d.rekeyCut die p).krg = d.krg.filter fun x => !(x.1.1 == die && x.2.cutBy p (d.get64 F.KRG_RKBASE_LO_DVA F.KRG_RKBASE_HI_DVA die 0 p)
      (2 ^ 12 * d.get F.KRG_RKLEN_PAGES die 0 p) (d.on? F.KRG_RKCTL_ALL die 0 p)) :=
  (d.rekeyCut_agree die p).krg (by decide)

theorem Dev.rekeyCut_eng (x : Nat) : (d.rekeyCut die p).eng die x = if x ∈ d.identEngines die p then (d.eng die x).aged else d.eng die x := by
  rw [Dev.rekeyCut_eq, Dev.foldl_engOld_eng]
  rfl

end

/-- The package with ALL written for an identity. -/
def Dev.putAll (d : Dev) (die p : Nat) (all : Bool) : Dev := d.put F.KRG_RKCTL_ALL all.toNat die 0 p

theorem Dev.putAll_on (d : Dev) (die p : Nat) (all : Bool) : (d.putAll die p all).on? F.KRG_RKCTL_ALL die 0 p = all := by
  rw [Dev.on?, Dev.putAll, Dev.get_put_self _ _ _ _ _ _ (by decide) (by decide) (by cases all <;> decide)]
  cases all <;> rfl

theorem Dev.putAll_get (d : Dev) (die p : Nat) (all : Bool) (f : Fld) (hf : f.reg ≠ .KRG_RKCTL ∨ 1 < f.lo) (hhi : f.hi < 32) (i s : Nat) :
    (d.putAll die p all).get f die i s = d.get f die i s :=
  Dev.get_put_apart _ _ _ _ hhi (by decide) (hf.imp_right .inl)

theorem Dev.putAll_identEngines (d : Dev) (die p : Nat) (all : Bool) : (d.putAll die p all).identEngines die p = d.identEngines die p := by
  simp only [Dev.identEngines, Dev.tenPart, Dev.on?, d.putAll_get die p all F.TEN_CTL_ASSIGN (by decide) (by decide),
    d.putAll_get die p all F.TEN_CTL_PART (by decide) (by decide)]

/-- A write of GO with ALL as given: a cut, unless one is under way or the range is empty (R263, R265). -/
theorem Dev.rkctlSet_go (d : Dev) (die p : Nat) (all : Bool) :
    d.rkctlSet die p (if all then 3 else 1) =
      if d.on? F.KRG_RKCTL_BUSY die 0 p = true ∨ (all = false ∧ d.get F.KRG_RKLEN_PAGES die 0 p = 0) then d.putAll die p all
      else (d.putAll die p all).rekeyCut die p := by
  have hbusy : (d.putAll die p all).on? F.KRG_RKCTL_BUSY die 0 p = d.on? F.KRG_RKCTL_BUSY die 0 p := by
    rw [Dev.on?, Dev.putAll_get _ _ _ _ _ (by decide) (by decide), Dev.on?]
  have hlen : (d.putAll die p all).on? F.KRG_RKLEN_PAGES die 0 p = (d.get F.KRG_RKLEN_PAGES die 0 p != 0) := by
    rw [Dev.on?, Dev.putAll_get _ _ _ _ _ (by decide) (by decide)]
  have hgo : d.rkctlSet die p (if all then 3 else 1) =
      if ((d.putAll die p all).on? F.KRG_RKCTL_BUSY die 0 p || (!all && !(d.putAll die p all).on? F.KRG_RKLEN_PAGES die 0 p)) = true
      then d.putAll die p all else (d.putAll die p all).rekeyCut die p := by
    cases all <;> rfl
  rw [hgo, hbusy, hlen]
  exact ite_congr (by simp) (fun _ => rfl) fun _ => rfl

/-! The drain of a REKEY and its limit (R261, R262) -/

section
variable {d : Dev} {die p : Nat} {r : Drain}

/-- A drain ends once nothing old of the identity is outstanding and no link holds a write that it had accepted at the limit (R261). -/
theorem Dev.rekeyDone_waits (hr : d.drains.at? (die, p) = some r) (h : d.identOld die p = true ∨ ∃ sq ∈ r.left, d.linkHas sq = true) :
    d.rekeyDone die p = d := by
  simp only [Dev.rekeyDone, hr]
  exact if_pos (by simpa using h)

theorem Dev.rekeyDone_ends (hr : d.drains.at? (die, p) = some r) (h : ¬ (d.identOld die p = true ∨ ∃ sq ∈ r.left, d.linkHas sq = true)) :
    let e := d.rekeyDone die p
    e.get F.KRG_RKCTL_BUSY die 0 p = 0 ∧ e.get F.KRG_RKTIME_TICKS die 0 p = (d.tick die - r.at_) % 2 ^ 32 ∧ e.drains.at? (die, p) = none := by
  have hgoing : ¬ (d.identOld die p || r.left.any d.linkHas) = true := by simpa using h
  simp only [Dev.rekeyDone, hr, if_neg hgoing]
  refine ⟨?_, Dev.get_put_self _ _ _ _ _ _ (by decide) (by decide) (Nat.mod_lt _ (by decide)), (KMap.at?_del ..).trans (if_pos rfl)⟩
  rw [Dev.get_put_apart _ _ _ _ (by decide) (by decide) (by decide)]
  exact Dev.get_put_self _ _ _ _ _ _ (by decide) (by decide) (by decide)

end

/-- A bit of a 64-bit value is a bit of the register that holds its half. -/
theorem Dev.hasBit_get64 (d : Dev) {lo hi : Fld} (die i s : Nat) {x : Nat} (hlo : lo.lo = 0 ∧ lo.hi = 31) :
    hasBit (d.get64 lo hi die i s) x = if x < 32 then hasBit (d.get lo die i s) x else hasBit (d.get hi die i s) (x - 32) := by
  have hlow : d.get lo die i s < 2 ^ 32 := by
    have := d.get_lt lo die i s
    rwa [hlo.1, hlo.2] at this
  rw [Dev.get64, hlo.1, Nat.pow_zero, Nat.mul_one, Nat.add_comm]
  simp only [hasBit_testBit, Nat.testBit_two_pow_mul_add _ hlow]

theorem Dev.hasBit_put_orBit (d : Dev) (f : Fld) (die i s j : Nat) {x : Nat} (h1 : f.hi < 32) (h2 : f.lo ≤ f.hi) (hx : x < f.hi + 1 - f.lo) :
    hasBit ((d.put f (orBit (d.get f die i s) j) die i s).get f die i s) x = (hasBit (d.get f die i s) x || decide (x = j)) := by
  rw [Dev.hasBit_put _ _ _ _ _ _ _ h1 h2 hx, hasBit_orBit]
  simp only [eq_comm]

/-- The engines of a die named in an identity's KRG_RKHALT. -/
def Dev.haltNamed (d : Dev) (die p x : Nat) : Bool := hasBit (d.get64 F.KRG_RKHALT_LO_MASK F.KRG_RKHALT_HI_MASK die 0 p) x

/-- The components that an engine's halt changes before KRG_RKHALT names the engine, as a mask: KRG_RKHALT is none of them. -/
def haltWork : Nat := 0x801001be014000245000000000000000000000000000000000000000000000000004000000000000000000000000101f20000000

theorem haltWork_within {m : Nat} (h : m &&& haltWork = m) : Within m haltWork := (Within.refl _).up h

/-- The package with an engine's old transactions gone: their destinations undefined, their requests discarded, their slots and output lines free. -/
def Dev.oldGone (d : Dev) (die e : Nat) : Dev :=
  (List.range 24).foldl (fun d' u =>
    match d'.unfs.at? (die * 24 + u) with
    | none => d'
    | some q => d'.setUnf die u { q with ctx := q.ctx.map fun c => if c.2.eng = e then (c.1, { c.2 with out := c.2.out.filter fun o => !c.2.oldLine o }) else c })
    (((({ d with free := d.free + 1 } : Dev).oldUndef die e).discard (d.isOldTxn die e)).modEng die e fun x =>
      { x with slots := x.slots.filter fun s => !(s.old && s.out) })

theorem Dev.oldGone_agree (d : Dev) (die e : Nat) : Agree haltWork d (d.oldGone die e) := by
  refine Agree.foldl _ _ _ (fun d' u h => ?_) ?_
  · split
    · exact h
    · exact Dev.setUnf_kp _ _ _ _ (haltWork_within (by decide)) h
  · refine Dev.modEng_kp _ _ _ _ (haltWork_within (by decide)) (Dev.discard_kp _ _ (haltWork_within (by decide))
      (Dev.oldUndef_kp _ _ _ (haltWork_within (by decide)) ?_))
    exact Dev.draw_kp d (haltWork_within (by decide)) (Agree.refl ..)

/-- An engine's halt at the limit leaves KRG_RKHALT as it is, until it names the engine there. -/
theorem Dev.rekeyHalt_eq (d : Dev) (die e p : Nat) :
    ∃ d', Agree haltWork d d' ∧
      d.rekeyHalt die e p =
        if e < 32 then d'.put F.KRG_RKHALT_LO_MASK (orBit (d'.get F.KRG_RKHALT_LO_MASK die 0 p) e) die 0 p
        else d'.put F.KRG_RKHALT_HI_MASK (orBit (d'.get F.KRG_RKHALT_HI_MASK die 0 p) (e - 32)) die 0 p := by
  refine ⟨_, ?_, rfl⟩
  have hgone := d.oldGone_agree die e
  refine Agree.ite ?_ ?_
  · exact Dev.engFollow_kp _ _ _ (haltWork_within (by decide)) (Dev.engFail_kp _ _ _ _ _ _ (haltWork_within (by decide)) hgone)
  · exact Dev.modEng_kp _ _ _ _ (haltWork_within (by decide)) (Dev.freeRows_kp _ _ _ (haltWork_within (by decide))
      (Dev.setTen_kp _ _ _ _ (haltWork_within (by decide)) (Dev.engRecord_kp _ _ _ _ _ (haltWork_within (by decide)) hgone)))

/-- An engine that halts at the limit is named; the engines named before stay so. -/
theorem Dev.rekeyHalt_named (d : Dev) (die p : Nat) {e x : Nat} (he : e < 64) (hx : x < 64) (h : x = e ∨ d.haltNamed die p x = true) :
    (d.rekeyHalt die e p).haltNamed die p x = true := by
  obtain ⟨d', hagree, heq⟩ := d.rekeyHalt_eq die e p
  rw [heq]
  have hkept : d'.haltNamed die p x = d.haltNamed die p x :=
    congrArg (hasBit · x) (Dev.get64_of_get (hagree.get _ (by decide) (by decide) ..) (hagree.get _ (by decide) (by decide) ..))
  rw [← hkept] at h
  simp only [Dev.haltNamed, Dev.hasBit_get64 _ die 0 p (lo := F.KRG_RKHALT_LO_MASK) (by decide)] at h ⊢
  by_cases he32 : e < 32 <;> by_cases hx32 : x < 32 <;> simp only [he32, hx32, if_true, if_false] at h ⊢
  · rw [Dev.hasBit_put_orBit _ _ _ _ _ _ (by decide) (by decide) hx32, Bool.or_eq_true, decide_eq_true_eq]
    exact h.symm
  · rw [Dev.get_put_apart _ _ _ _ (by decide) (by decide) (by decide)]
    exact h.resolve_left (by omega)
  · rw [Dev.get_put_apart _ _ _ _ (by decide) (by decide) (by decide)]
    exact h.resolve_left (by omega)
  · have hhalf : x - 32 < 32 := by omega
    rw [Dev.hasBit_put_orBit _ _ _ _ _ _ (by decide) (by decide) hhalf, Bool.or_eq_true, decide_eq_true_eq]
    exact h.symm.imp_right fun hxe => by rw [hxe]

theorem Dev.foldl_rekeyHalt_named (die p : Nat) {x : Nat} (hx : x < 64) (es : List Nat) (hes : ∀ e ∈ es, e < 64) (d : Dev)
    (h : x ∈ es ∨ d.haltNamed die p x = true) : (es.foldl (fun d' e => d'.rekeyHalt die e p) d).haltNamed die p x = true := by
  induction es generalizing d with
  | nil => exact h.resolve_left List.not_mem_nil
  | cons e es ih =>
    refine ih (fun e' he' => hes e' (List.mem_cons_of_mem _ he')) _ ?_
    rw [List.mem_cons, or_assoc, or_left_comm] at h
    exact h.imp_right (Dev.rekeyHalt_named _ _ _ (hes e List.mem_cons_self) hx)

section
variable {d : Dev} {die p : Nat} {r : Drain}

theorem Dev.rekeyTimeout_early (hr : d.drains.at? (die, p) = some r) (h : d.late die r.at_ 100000 = false ∨ d.identOld die p = false) :
    d.rekeyTimeout die p = d := by
  simp only [Dev.rekeyTimeout, hr]
  exact if_pos (by simpa using h)

/-- At the limit TMO is set, and an identity of a partition has each of its engines named that still holds something old (R262). -/
theorem Dev.rekeyTimeout_late (hr : d.drains.at? (die, p) = some r) (h : ¬ (d.late die r.at_ 100000 = false ∨ d.identOld die p = false)) :
    (d.rekeyTimeout die p).get F.KRG_RKCTL_TMO die 0 p = 1 ∧
    (p < 48 → ∀ x, x < 64 → d.tenPart die x = p → d.engHasOld die x = true → (d.rekeyTimeout die p).haltNamed die p x = true) := by
  have hlimit : ¬ (!d.late die r.at_ 100000 || !d.identOld die p) = true := by simpa using h
  simp only [Dev.rekeyTimeout, hr, if_neg hlimit]
  split
  next hsite => exact ⟨Dev.get_put_self _ _ _ _ _ _ (by decide) (by decide) (by decide), fun hp => absurd hsite (by omega)⟩
  next =>
    refine ⟨Dev.get_put_self _ _ _ _ _ _ (by decide) (by decide) (by decide), fun _ x hx hpart hold => ?_⟩
    have hin : x ∈ (List.range 64).filter fun e => d.tenPart die e == p && d.engHasOld die e := by simp [hx, hpart, hold]
    rw [Dev.haltNamed, Dev.get64_of_get (Dev.get_put_apart _ _ _ _ (by decide) (by decide) (by decide))
      (Dev.get_put_apart _ _ _ _ (by decide) (by decide) (by decide))]
    exact Dev.foldl_rekeyHalt_named die p hx _ (fun e he => List.mem_range.mp (List.mem_filter.mp he).1) _ (.inl hin)

end

/-- Settles O37: the writes by their access codes, the cut (`Dev.rekeyCut_…`), the end of its drain and its limit. -/
theorem rekeyAndWindows : Obligations.RekeyAndWindows := by
  refine fun die => ⟨fun value => Effect.quotaWrite_of _ _ fun d _ _ => ?_, fun word value => Effect.hostWindowWrite_of _ _ _ fun d hwf _ => ?_,
    fun all => Effect.rekeyCut_of _ _ fun d _ _ => ?_, fun p => Effect.rekeyDrainEnd_of _ _ fun d _ _ => ?_,
    fun p => Effect.rekeyTimeout_of _ _ fun d _ _ => ?_⟩
  · obtain ⟨hwritten, hother⟩ := d.writeGen_written ⟨.KRG_QUOTA, die, 0, d.get F.KRG_QSEL_IDENT die⟩ value
    exact ⟨hwritten, fun p => Dev.get_of_raw (k := ⟨.KRG_QUSE, die, 0, p⟩) (hother _ (by simp)) rfl⟩
  · have hword : word < 5 := of_decide_eq_true (Bool.and_eq_true_iff.mp (Bool.and_eq_true_iff.mp hwf).1).2
    exact d.hwWrite_outcome die value hword
  · have hgo : d.rkctlWrite die (if all then 3 else 1) = _ := d.rkctlSet_go die (d.get F.KRG_RKSEL_IDENT die) all
    rw [hgo]
    generalize d.get F.KRG_RKSEL_IDENT die = p
    split
    next hidle => exact ⟨d.putAll_on .., (if_pos hidle).mpr ⟨rfl, rfl, rfl⟩⟩
    next hcuts =>
      refine ⟨((d.putAll die p all).rekeyCut_all die p).trans (d.putAll_on ..), (if_neg hcuts).mpr ⟨Dev.rekeyCut_busy .., Dev.rekeyCut_halt .., ?_, ?_, ?_⟩⟩
      · rw [Dev.rekeyCut_krg, d.putAll_on, d.putAll_get die p all F.KRG_RKLEN_PAGES (by decide) (by decide),
          Dev.get64_of_get (d.putAll_get die p all F.KRG_RKBASE_LO_DVA (by decide) (by decide) ..)
            (d.putAll_get die p all F.KRG_RKBASE_HI_DVA (by decide) (by decide) ..)]
        rfl
      · intro x hx
        rw [Dev.rekeyCut_eng, d.putAll_identEngines, if_pos hx]
        exact ⟨Eng.aged_latch, Eng.aged_slots⟩
      · intro x _ hx
        rw [Dev.rekeyCut_eng, d.putAll_identEngines, if_neg hx]
        rfl
  · split
    next hnone => simp only [Dev.rekeyDone, hnone]
    next r hr =>
    split
    next hwaits => exact Dev.rekeyDone_waits hr hwaits
    next hends => exact Dev.rekeyDone_ends hr hends
  · split
    next hnone => simp only [Dev.rekeyTimeout, hnone]
    next r hr =>
    split
    next hearly => exact Dev.rekeyTimeout_early hr hearly
    next hlate => exact Dev.rekeyTimeout_late hr hlate

/-! Packages that the statements above speak of -/

/-- Page 5 of identity 3, of 4 KiB, at page 7 of die 0's HBM. -/
def pageFive (rights : Nat) : KEnt := ⟨1 + 3 * 2 ^ 3 + 5 * 2 ^ 12, rights + 7 * 2 ^ 12⟩

/-- Every domain is up. Die 0's key ring has page 5 staged with some rights, and identity 3 may hold two entries. -/
def Dev.staging5 (rights : Nat) : Dev :=
  (({ Dev.reset with pw := List.replicate 4 ⟨true, true, true⟩ }.put F.KRG_EW0_LO_WORD (pageFive rights).w0 0).put
    F.KRG_EW1_LO_WORD (pageFive rights).w1 0).put F.KRG_QUOTA_MAX 2 0 0 3

/-- Way 4 of its set holds page 5 with the right to read. -/
def Dev.holding5 (rights : Nat) : Dev := { Dev.staging5 rights with krg := [((0, (pageFive 1).set, 4), pageFive 1)] }

theorem insert_witness : Completes (.insert 0) ⟨[], Dev.staging5 1⟩ fun e =>
    e.get F.KRG_ESTAT_BUSY 0 = 1 ∧ ∃ w < 8, e.krg.at? (0, (pageFive 1).set, w) = some (pageFive 1) := by
  obtain ⟨hinsert, -⟩ := keyRingCommands 0
  refine (hinsert ⟨[], Dev.staging5 1⟩ ⟨rfl, rfl⟩).imp fun e h => ?_
  have hcarried := h.2 (by decide)
  dsimp only at hcarried
  rw [if_neg (by decide), if_neg (by decide), if_neg (by decide)] at hcarried
  obtain ⟨w, hw, -, hans, hnew, -⟩ := hcarried.2 ⟨0, by decide, fun x hx => by cases hx⟩
  exact ⟨hans.1, w, hw, hnew⟩

/-- MODIFY adds the right to write. -/
theorem modify_witness : Completes (.modify 0) ⟨[], Dev.holding5 3⟩ fun e =>
    e.krgP.at? 0 = some (0, 4) ∧ e.krg = [((0, (pageFive 1).set, 4), pageFive 3)] := by
  obtain ⟨-, hmodify, -⟩ := keyRingCommands 0
  refine (hmodify ⟨[], Dev.holding5 3⟩ ⟨rfl, rfl⟩).imp fun e h => ?_
  have hmatch : (Dev.holding5 3).krgMatch 0 ((Dev.holding5 3).staged 0) = some 4 := by decide
  have hcarried := h.2 (by decide)
  dsimp only at hcarried
  rw [if_neg (by decide), hmatch] at hcarried
  dsimp only at hcarried
  rw [if_neg (by decide), if_neg (by decide)] at hcarried
  obtain ⟨⟨-, q, hresult, hway⟩, hheld⟩ := hcarried
  rw [hway 4 rfl] at hresult
  exact ⟨hresult, hheld.trans (by decide)⟩

theorem readEntry_witness : Completes (.readEntry 0) ⟨[], Dev.holding5 3⟩ fun e => e.staged 0 = pageFive 1 := by
  obtain ⟨-, -, hread, -⟩ := keyRingCommands 0
  refine (hread ⟨[], Dev.holding5 3⟩ ⟨rfl, rfl⟩).imp fun e h => ?_
  have hmatch : (Dev.holding5 3).krgMatch 0 ((Dev.holding5 3).staged 0) = some 4 := by decide
  obtain ⟨-, hread⟩ := h.2 (by decide)
  rw [hmatch] at hread
  exact hread.2.trans (by decide)

theorem removeUnused_witness : Completes (.removeUnused 0) ⟨[], Dev.holding5 1⟩ fun e => e.krg = [] := by
  obtain ⟨-, -, -, hremove, -⟩ := keyRingCommands 0
  refine (hremove ⟨[], Dev.holding5 1⟩ ⟨rfl, rfl⟩).imp fun e h => ?_
  have hmatch : (Dev.holding5 1).krgMatch 0 ((Dev.holding5 1).staged 0) = some 4 := by decide
  have hcarried := h.2 (by decide)
  dsimp only at hcarried
  rw [hmatch] at hcarried
  dsimp only at hcarried
  rw [if_neg (by decide)] at hcarried
  obtain ⟨-, hheld, -⟩ := hcarried
  exact hheld.trans (by decide)

/-- An INSERT that found every way taken completes. -/
theorem krgCommandDone_witness : Completes (.krgCommandDone 0) ⟨[], { Dev.holding5 1 with krgP := [(0, (1, 0))] }⟩ fun e =>
    e.get F.KRG_ESTAT_RESULT 0 = 1 ∧ e.krg = (Dev.holding5 1).krg := by
  obtain ⟨-, -, -, -, hdone⟩ := keyRingCommands 0
  refine (hdone ⟨[], { Dev.holding5 1 with krgP := [(0, (1, 0))] }⟩ ⟨rfl, rfl⟩).imp fun e h => ?_
  obtain ⟨hresult, -, -, hheld⟩ := h
  exact ⟨hresult, hheld⟩

/-- Pages 0 and 262,145 meet in a set, and lie in different runs. -/
theorem entrySets_witness : ([0, 2 ^ 18 + 1].map fun v => v / 2 ^ 18).Nodup := by
  obtain ⟨-, -, -, hruns⟩ := entrySets
  exact hruns 0 0 0 [0, 2 ^ 18 + 1] (by decide) (by decide)

/-- A transaction under way. -/
def readingSlot : WSlot := ⟨0, 0, 0, .reading, .gpa 0, .gpa 0, [], none, false⟩

/-- Engine 0 of die 0 belongs to identity 3, which KRG_RKSEL names and which holds page 5; a read of the engine is under way. Host window 0 is enabled. -/
def Dev.renting : Dev :=
  { ((((Dev.holding5 1).put F.KRG_RKSEL_IDENT 3 0).put F.TEN_CTL_PART 3 0 0).put F.TEN_CTL_ASSIGN 1 0 0).put F.KRG_HWCTL_EN 1 0 with
    engs := [(0, { Eng.initial with slots := [readingSlot] })] }

/-- The cut was made at tick 0 and 100,001 ticks have passed; the read is old. -/
def Dev.overdue : Dev :=
  { Dev.renting with engs := [(0, { Eng.initial with slots := [{ readingSlot with old := true }] })], drains := [((0, 3), ⟨0, 0, []⟩)], lcnt := [100001] }

theorem quotaWrite_witness : Completes (.quotaWrite 0 7) ⟨[], Dev.renting⟩ fun e => e.get F.KRG_QUOTA_MAX 0 0 0 = 7 := by
  obtain ⟨hquota, -⟩ := rekeyAndWindows 0
  refine (hquota 7 ⟨[], Dev.renting⟩ ⟨rfl, rfl⟩).imp fun e h => ?_
  obtain ⟨hwritten, -⟩ := h
  exact hwritten ⟨F.KRG_QUOTA_MAX, .rw, .val 0⟩ (by decide)

theorem hostWindowWrite_witness : Completes (.hostWindowWrite 0 4 7) ⟨[], Dev.renting⟩ fun e => e = Dev.renting := by
  obtain ⟨-, hwindow, -⟩ := rekeyAndWindows 0
  exact (hwindow 4 7 ⟨[], Dev.renting⟩ ⟨rfl, rfl⟩).imp fun e h => (if_pos (by decide)).mp h

theorem rekeyCut_witness : Completes (.rekeyCut 0 true) ⟨[], Dev.renting⟩ fun e =>
    e.get F.KRG_RKCTL_BUSY 0 0 3 = 1 ∧ e.krg = [] ∧ ∀ l ∈ (e.eng 0 0).latch, l = none := by
  obtain ⟨-, -, hcut, -⟩ := rekeyAndWindows 0
  refine (hcut true ⟨[], Dev.renting⟩ ⟨rfl, rfl⟩).imp fun e h => ?_
  obtain ⟨-, hcuts⟩ := h
  obtain ⟨hbusy, -, hheld, haged, -⟩ := (if_neg (by decide)).mp hcuts
  obtain ⟨hlatch, -⟩ := haged 0 (by decide)
  exact ⟨hbusy, hheld.trans (by decide), hlatch⟩

/-- The drain of identity 4 ends: nothing of it is outstanding. -/
theorem rekeyDrainEnd_witness : Completes (.rekeyDrainEnd 0 4) ⟨[], { Dev.overdue with drains := [((0, 4), ⟨1, 0, []⟩)] }⟩ fun e =>
    e.get F.KRG_RKTIME_TICKS 0 0 4 = 100000 := by
  obtain ⟨-, -, -, hdrain, -⟩ := rekeyAndWindows 0
  refine (hdrain 4 ⟨[], { Dev.overdue with drains := [((0, 4), ⟨1, 0, []⟩)] }⟩ ⟨rfl, rfl⟩).imp fun e h => ?_
  obtain ⟨-, hticks, -⟩ := (if_neg (by decide)).mp h
  exact hticks

theorem rekeyTimeout_witness : Completes (.rekeyTimeout 0 3) ⟨[], Dev.overdue⟩ fun e =>
    e.get F.KRG_RKCTL_TMO 0 0 3 = 1 ∧ e.haltNamed 0 3 0 = true := by
  obtain ⟨-, -, -, -, hlimit⟩ := rekeyAndWindows 0
  refine (hlimit 3 ⟨[], Dev.overdue⟩ ⟨rfl, rfl⟩).imp fun e h => ?_
  obtain ⟨htmo, hnamed⟩ := (if_neg (by decide)).mp h
  exact ⟨htmo, hnamed (by decide) 0 (by decide) (by decide) (by decide)⟩

end Sys2Proof.Machine
end

section
/-!
SUPPORT. What two changes leave together: agreement under a smaller mask is agreement under a larger one; a field of a register that is set, seen from
another register, other bits, or another die.
-/
namespace Sys2Proof.Machine

/-! Agreement under two masks -/

/-- A piece that the smaller mask leaves out, the larger one leaves out. -/
theorem Within.absorb {s μ : Nat} (h : Within s μ) {α : Type} (n : Nat) (x y : α) :
    (bif μ.testBit n then x else bif s.testBit n then x else y) = bif μ.testBit n then x else y := by
  cases hs : s.testBit n with
  | false => rfl
  | true => rw [h.bit hs]; rfl

theorem Dev.mask_mask {s μ : Nat} (h : Within s μ) (d : Dev) : (d.mask s).mask μ = d.mask μ := by
  have hrf : (d.rf.delIf fun k => s.testBit k.reg.ctorIdx).delIf (fun k => μ.testBit k.reg.ctorIdx) = d.rf.delIf fun k => μ.testBit k.reg.ctorIdx :=
    KMap.delIf_delIf _ _ _ fun _ hk => h.bit hk
  simp only [Dev.mask, h.absorb, hrf]

/-- What two packages have in common but for a few pieces, they have in common but for more. -/
theorem Agree.up {s μ : Nat} {ω d : Dev} (hs : s &&& μ = s) (h : Agree s ω d) : Agree μ ω d :=
  Agree.of (by rw [← Dev.mask_mask hs d, h.eq, Dev.mask_mask hs ω])

theorem and_or_absorb (s t : Nat) : s &&& (s ||| t) = s :=
  Nat.eq_of_testBit_eq fun i => by rw [Nat.testBit_and, Nat.testBit_or]; exact inf_sup_self

/-- Two changes, one after the other. -/
theorem Agree.then {s t : Nat} {a b c : Dev} (h : Agree s a b) (g : Agree t b c) : Agree (s ||| t) a c :=
  (h.up (and_or_absorb s t)).trans (g.up (by rw [Nat.or_comm]; exact and_or_absorb t s))

/-! Fields of a register that are set one after another -/

section
variable (d : Dev) {f g : Fld} (v : Nat) {die i s die' i' s' : Nat} (hg : g.hi < 32) (hf : f.lo ≤ f.hi)
include hg hf

/-- A field of another register reads as before, wherever it stands. -/
theorem Dev.get_put_reg (h : g.reg ≠ f.reg) : (d.put f v die i s).get g die' i' s' = d.get g die' i' s' :=
  Dev.get_put_ne _ _ _ _ _ _ _ _ _ _ hg hf (.inl h)

/-- Other bits of a register read as before, wherever they stand. -/
theorem Dev.get_put_bits (h : f.hi < g.lo ∨ g.hi < f.lo) : (d.put f v die i s).get g die' i' s' = d.get g die' i' s' :=
  Dev.get_put_ne _ _ _ _ _ _ _ _ _ _ hg hf (.inr (.inr (.inr (.inr h))))

/-- A field of another die reads as before. -/
theorem Dev.get_put_die (h : die' ≠ die) : (d.put f v die i s).get g die' i' s' = d.get g die' i' s' :=
  Dev.get_put_ne _ _ _ _ _ _ _ _ _ _ hg hf (.inr (.inl h))

end

/-! A write that keeps some fields -/

/-- What a write that keeps some fields makes of one of the others. -/
theorem Dev.writeGen_field (d : Dev) (r : Reg) (die i s v : Nat) (keep : List Fld) {row : FldRow} (hrow : row ∈ r.rows) (hkeep : keep.contains row.fld = false) :
    (d.writeGen ⟨r, die, i, s⟩ v keep).get row.fld die i s = d.fieldAfter die (d.raw ⟨r, die, i, s⟩) v row := by
  obtain ⟨hall, hapart⟩ := Reg.rows_apart r
  have hfld : ∀ a ∈ r.rows, (a.fld.reg = r ∧ a.fld.lo ≤ a.fld.hi) ∧ a.fld.hi < 32 := fun a ha => by
    simpa only [Bool.and_eq_true, decide_eq_true_eq] using List.all_eq_true.mp hall a ha
  obtain ⟨⟨hreg, -⟩, hhi⟩ := hfld row hrow
  have hwritten := (Dev.writeFlds d die (d.raw ⟨r, die, i, s⟩) v (r.rows.filter fun row => !keep.contains row.fld) (d.raw ⟨r, die, i, s⟩)
    (fun a ha => (hfld a (List.mem_filter.mp ha).1).1.2) (hapart.filter _)).1 row (List.mem_filter.mpr ⟨hrow, by rw [hkeep]; rfl⟩) rfl
  have hkey : (⟨row.fld.reg, die, i, s⟩ : RKey) = ⟨r, die, i, s⟩ := by rw [hreg]
  rw [Dev.get, hkey, Dev.writeGen, Dev.raw_setRaw, if_pos rfl, bitsOf_mod _ _ _ _ hhi]
  exact hwritten

/-! The least of some numbers -/

theorem foldl_min_le (l : List Nat) (a : Nat) : l.foldl min a ≤ a := by
  induction l generalizing a with
  | nil => exact Nat.le_refl a
  | cons b l ih => exact (ih _).trans (Nat.min_le_left ..)

/-! The unit that a command is about -/

theorem Place.ofDie_built {d : Dev} {die : Nat} (h : (Place.ofDie die).up d = true) : die < d.ndies := of_decide_eq_true h

theorem Place.ofAon_up {d : Dev} {die : Nat} (h : (Place.ofAon die).up d = true) : die < d.ndies ∧ d.aonUp die = true := by
  simpa [Place.up] using h

theorem Place.ofKnuckleEnd_up {d : Dev} {die inst : Nat} (h : (Place.ofKnuckleEnd die inst).up d = true) : d.carrierUp die = true := by
  simp only [Place.up, Bool.and_eq_true] at h
  exact h.1.2

theorem Place.ofKnuckle_up {d : Dev} {k : Nat} (h : (Place.ofKnuckle k).up d = true) :
    d.carrierUp (knuckleEnds k).1 = true ∧ d.carrierUp (knuckleEnds k).2 = true := by
  simp only [Place.up, Bool.and_eq_true] at h
  exact ⟨h.1.2, h.2⟩

theorem Place.ofLane_here {d : Dev} {die l : Nat} (h : (Place.ofLane die l).up d = true) : d.laneHere die l = true := by
  simp only [Place.up, Bool.and_eq_true] at h
  exact h.2

theorem Place.ofPort_here {d : Dev} {p : Nat} (h : (Place.ofPort p).up d = true) : d.portHere p = true := by
  simp only [Place.up, Bool.and_eq_true] at h
  exact h.2

end Sys2Proof.Machine
end

section
/-!
The statements of 12_hub_knuckles.md: the hub's deadbolts and fences, the knuckle map, the training of a knuckle, and its flits.
-/
namespace Sys2Proof.Machine

/-! Deadbolts and fences (R271, R272) -/

/-- The deadbolt of the cell network of the core that HUB_DB selects. -/
def Dev.cellBolted (d : Dev) (die s : Nat) : Bool := d.on? F.CMP_PCTL_DEADBOLT die (s / 1024) (s % 1024)

theorem Dev.hubDbSet_bolted {d : Dev} {die s : Nat} (h : d.cellBolted die s = true) :
    d.hubDbSet die s 1 = d.put F.HUB_DB_DEADBOLT 1 die 0 s := by
  show (if (true && (false || !d.cellBolted die s)) = true then _ else _) = _
  rw [h]
  rfl

theorem Dev.hubDbSet_refused {d : Dev} {die s : Nat} (h : ¬ d.cellBolted die s = true) :
    d.hubDbSet die s 1 = d.put F.HUB_DB_DBERR 1 die 0 s := by
  show (if (true && (false || !d.cellBolted die s)) = true then _ else _) = _
  rw [Bool.eq_false_iff.mpr h]
  rfl

theorem Dev.hubDbSet_clear (d : Dev) (die s : Nat) :
    d.hubDbSet die s 0x100 = (d.put F.HUB_DB_DEADBOLT 0 die 0 s).put F.HUB_DBDROP_COUNT 0 die 0 s := rfl

/-- A register of one whole field takes the low bits of what is written. -/
theorem Dev.fenceWrite_get (d : Dev) (die v : Nat) {f : Fld} {r : Reg} (hrows : r.rows = [⟨f, .rw, .val 0⟩]) (henc : ∀ n, d.encOk f n = true) :
    (d.fenceWrite die r v).get f die = bitsOf v f.hi f.lo ∧ ∀ g : Fld, g.reg ≠ r → (d.fenceWrite die r v).get g die = d.get g die := by
  obtain ⟨hwritten, hother⟩ := Dev.writeGen_written d ⟨r, die, 0, 0⟩ v
  refine ⟨?_, fun g hg => ?_⟩
  · have hrow := hwritten ⟨f, .rw, .val 0⟩ (by rw [hrows]; exact List.mem_singleton_self _)
    exact hrow.trans (if_pos (henc _))
  · exact congrArg (bitsOf · g.hi g.lo) (hother _ fun h => hg (congrArg RKey.reg h))

theorem Dev.portFence_fences (d : Dev) (die : Nat) {mask : Nat} (hmask : mask < 2 ^ 40) :
    (d.portFence die mask).get F.HUB_PFENCE_LO_FENCE die + 2 ^ 32 * (d.portFence die mask).get F.HUB_PFENCE_HI_FENCE die = mask := by
  obtain ⟨hlo, -⟩ := d.fenceWrite_get die (mask % 2 ^ 32) (f := F.HUB_PFENCE_LO_FENCE) (r := .HUB_PFENCE_LO) rfl fun _ => rfl
  obtain ⟨hhi, hapart⟩ := (d.fenceWrite die .HUB_PFENCE_LO (mask % 2 ^ 32)).fenceWrite_get die (mask / 2 ^ 32)
    (f := F.HUB_PFENCE_HI_FENCE) (r := .HUB_PFENCE_HI) rfl fun _ => rfl
  have hlo' : bitsOf (mask % 2 ^ 32) 31 0 = mask % 2 ^ 32 := by simp [bitsOf]
  have hhi' : bitsOf (mask / 2 ^ 32) 7 0 = mask / 2 ^ 32 := by simp [bitsOf]; omega
  rw [Dev.portFence, hapart F.HUB_PFENCE_LO_FENCE (by decide), hlo, hhi]
  show bitsOf _ 31 0 + 2 ^ 32 * bitsOf _ 7 0 = _
  rw [hlo', hhi']
  omega

/-! The knuckle map (R273–R275) -/

theorem Dev.hasBit_kmapClear_self (d : Dev) (die k : Nat) : hasBit ((d.kmapClear die k).get F.HUB_KMAP_UP die) k = false := by
  rw [Dev.kmapClear, Dev.get_put_bits _ _ (by decide) (by decide) (by decide)]
  by_cases hk : k < 4
  · rw [Dev.hasBit_put _ _ _ _ _ _ _ (by decide) (by decide) hk, hasBit_clrBit]
    simp
  · exact hasBit_field _ _ _ _ (Nat.not_lt.mp hk)

theorem Dev.hasBit_kmapClear_other (d : Dev) (die : Nat) {k j : Nat} (hj : j < 4) (hne : j ≠ k) :
    hasBit ((d.kmapClear die k).get F.HUB_KMAP_UP die) j = hasBit (d.get F.HUB_KMAP_UP die) j ∧
      hasBit ((d.kmapClear die k).get F.HUB_KMAP_EN die) j = hasBit (d.get F.HUB_KMAP_EN die) j := by
  constructor
  · rw [Dev.kmapClear, Dev.get_put_bits _ _ (by decide) (by decide) (by decide), Dev.hasBit_put _ _ _ _ _ _ _ (by decide) (by decide) hj, hasBit_clrBit]
    simp [hne.symm]
  · rw [Dev.kmapClear, Dev.hasBit_put _ _ _ _ _ _ _ (by decide) (by decide) hj, hasBit_clrBit]
    simp [hne.symm]

/-- What a packet that a lost knuckle holds becomes at the hub (R274). -/
def Pkt.lostAnswer : Pkt → Pkt
  | .req t => .rsp ⟨t.src, t.slot, 6, [], t.unf, none⟩
  | .rsp r => .rsp { r with stat := 6, data := [], home := none }

theorem Dev.lostPkt_net (d : Dev) (die : Nat) (p : Pkt) : (d.lostPkt die p).net = d.net ++ [p.lostAnswer] := by cases p <;> rfl

theorem Dev.foldl_lostPkt_net (die : Nat) (ps : List Pkt) (d : Dev) :
    (ps.foldl (fun d' p => d'.lostPkt die p) d).net = d.net ++ ps.map Pkt.lostAnswer := by
  induction ps generalizing d with
  | nil => simp
  | cons p ps ih => simp [ih, Dev.lostPkt_net]

/-- Answering packets changes the hub's packets and its count of PATH answers alone. -/
theorem Dev.foldl_lostPkt_agree (die : Nat) (ps : List Pkt) (d : Dev) :
    Agree 0x4000000000000000000000000000000000000000000000000000000800000000000000000000000000000000000000000 d (ps.foldl (fun d' p => d'.lostPkt die p) d) :=
  Agree.foldl _ _ _ (fun _ _ h => Dev.lostPkt_kp _ _ _ (Within.refl _) h) (Agree.refl _ _)

/-- The package with a die's map updated: the packets and messages named have left the hub. -/
def Dev.mapCut (d : Dev) (die k : Nat) (pkts msgs : List Nat) : Dev :=
  { { d with mapUpd := d.mapUpd.erase (die, k) }.kmapClear die k with
    net := (d.net.zipIdx.filter fun x => !pkts.contains x.2).map (·.1)
    ctl := (d.ctl.zipIdx.filter fun x => !msgs.contains x.2 || x.1.src.die == x.1.dst.die).map (·.1) }

theorem Dev.mapUpdate_due {d : Dev} {die k : Nat} (pkts msgs : List Nat) (h : (die, k) ∈ d.mapUpd) (hup : d.carrierUp die = true) :
    d.mapUpdate die k pkts msgs =
      ((d.net.zipIdx.filter fun x => pkts.contains x.2).map (·.1)).foldl (fun d' p => d'.lostPkt die p) (d.mapCut die k pkts msgs) := by
  have hdue : (!d.mapUpd.contains (die, k)) = false := by simpa using h
  have hup' : (!{ d with mapUpd := d.mapUpd.erase (die, k) }.carrierUp die) = false := congrArg not hup
  simp only [Dev.mapUpdate, hdue, hup', Bool.false_eq_true, if_false]
  rfl

theorem Dev.mapUpdate_idle {d : Dev} {die k : Nat} (pkts msgs : List Nat) (h : (die, k) ∉ d.mapUpd) : d.mapUpdate die k pkts msgs = d :=
  if_pos (by simpa using h)

/-- Settles O41: a write to HUB_DB by what it asks and the cell network's deadbolt; a map update by what it clears, answers and discards. -/
theorem hubFencesAndMap : Obligations.HubFencesAndMap := by
  refine fun die => ⟨Effect.hubDeadboltSet_of _ fun d _ _ => ⟨?_, ?_⟩, Effect.hubDbClear_of _ fun d _ _ => ⟨?_, ?_, ?_⟩,
    fun mask => Effect.portFenceWrite_of _ _ fun d hwf _ => ?_, fun en => Effect.kmapEnWrite_of _ _ fun d hwf _ => ⟨?_, ?_⟩,
    fun k pkts msgs => Effect.mapUpdate_of _ _ _ _ fun d _ hup => ?_⟩
  · rw [Dev.hubDbWrite]
    by_cases hcell : d.cellBolted die (d.selOf .HUB_DB die 0) = true
    · rw [Dev.hubDbSet_bolted hcell]
      exact Dev.get_put_reg _ _ (by decide) (by decide) (by decide)
    · rw [Dev.hubDbSet_refused hcell]
      exact Dev.get_put_reg _ _ (by decide) (by decide) (by decide)
  · split
    next hcell =>
      rw [Dev.hubDbWrite, Dev.hubDbSet_bolted hcell]
      exact ⟨Dev.get_put_self _ _ _ _ _ _ (by decide) (by decide) (by decide), Dev.get_put_bits _ _ (by decide) (by decide) (by decide)⟩
    next hcell =>
      rw [Dev.hubDbWrite, Dev.hubDbSet_refused hcell]
      exact ⟨Dev.get_put_bits _ _ (by decide) (by decide) (by decide), Dev.get_put_self _ _ _ _ _ _ (by decide) (by decide) (by decide)⟩
  · rw [Dev.hubDbWrite, Dev.hubDbSet_clear, Dev.get_put_reg _ _ (by decide) (by decide) (by decide)]
    exact Dev.get_put_self _ _ _ _ _ _ (by decide) (by decide) (by decide)
  · rw [Dev.hubDbWrite, Dev.hubDbSet_clear]
    exact Dev.get_put_self _ _ _ _ _ _ (by decide) (by decide) (by decide)
  · rw [Dev.hubDbWrite, Dev.hubDbSet_clear, Dev.get_put_reg _ _ (by decide) (by decide) (by decide)]
    exact Dev.get_put_bits _ _ (by decide) (by decide) (by decide)
  · simp only [Instr.wf, Bool.and_eq_true, decide_eq_true_eq] at hwf
    exact Dev.portFence_fences _ _ hwf.2
  · simp only [Instr.wf, Bool.and_eq_true, decide_eq_true_eq] at hwf
    have hen : bitsOf (2 ^ 4 * en) 7 4 = en := by simp [bitsOf]; omega
    rw [Dev.kmapWrite, hen]
    exact Dev.get_put_self _ _ _ _ _ _ (by decide) (by decide) hwf.2
  · exact Dev.get_put_bits _ _ (by decide) (by decide) (by decide)
  · split
    next hdue =>
      rw [Dev.mapUpdate_due _ _ hdue (Place.ofCarrier_up hup)]
      have hagree := Dev.foldl_lostPkt_agree die ((d.net.zipIdx.filter fun x => pkts.contains x.2).map (·.1)) (d.mapCut die k pkts msgs)
      have hget (f : Fld) (hf : f.reg = .HUB_KMAP) :
          (((d.net.zipIdx.filter fun x => pkts.contains x.2).map (·.1)).foldl (fun d' p => d'.lostPkt die p) (d.mapCut die k pkts msgs)).get f die
            = ({ d with mapUpd := d.mapUpd.erase (die, k) }.kmapClear die k).get f die := hagree.get f rfl (by rw [hf]; rfl) _ _ _
      have hup : hasBit (({ d with mapUpd := d.mapUpd.erase (die, k) }.kmapClear die k).get F.HUB_KMAP_UP die) k = false := Dev.hasBit_kmapClear_self ..
      refine ⟨hagree.mapUpd rfl, ?_, ?_, fun j hj hne => ?_, Dev.foldl_lostPkt_net .., hagree.ctl rfl⟩
      · rw [Dev.kmap, hasBit_testBit, Nat.testBit_and, ← hasBit_testBit, hget _ rfl, hup, Bool.false_and]
      · rw [hget _ rfl, hup]
      · rw [hget _ rfl, hget _ rfl]
        exact Dev.hasBit_kmapClear_other _ die hj hne
    next hidle => exact Dev.mapUpdate_idle _ _ hidle

end Sys2Proof.Machine
end

section
namespace Sys2Proof.Machine

/-! The two ends of a knuckle -/

theorem knuckleEnds_ne (k : Nat) : (knuckleEnds k).1 ≠ (knuckleEnds k).2 := by
  unfold knuckleEnds
  split <;> decide

theorem mem_knuckleSides {k : Nat} {x : Nat × Nat} (h : x ∈ knuckleSides k) :
    x = ((knuckleEnds k).1, endInst k (knuckleEnds k).1) ∨ x = ((knuckleEnds k).2, endInst k (knuckleEnds k).2) := by
  simpa [knuckleSides] using h

section
variable (d : Dev) (k : Nat)

/-- What a change of one end gives a field there, a change of both ends gives it at both, where the change of one end is none for another die. -/
theorem Dev.bothEnds_get {f : Dev → Nat → Nat → Dev} {g : Fld} {v : Nat} (hset : ∀ d' die i, (f d' die i).get g die i = v)
    (hother : ∀ d' die i die' i', die' ≠ die → (f d' die i).get g die' i' = d'.get g die' i') :
    ∀ x ∈ knuckleSides k, (d.bothEnds k f).get g x.1 x.2 = v := by
  intro x hx
  obtain rfl | rfl := mem_knuckleSides hx
  · exact (hother _ _ _ _ _ (knuckleEnds_ne k)).trans (hset ..)
  · exact hset ..

/-- A field that a change of one end leaves everywhere, a change of both ends leaves everywhere. -/
theorem Dev.bothEnds_keeps {f : Dev → Nat → Nat → Dev} {g : Fld} (h : ∀ d' die i die' i', (f d' die i).get g die' i' = d'.get g die' i')
    (die i : Nat) : (d.bothEnds k f).get g die i = d.get g die i := (h ..).trans (h ..)

theorem Dev.knkState_both {st : Nat} (hst : st < 8) : (d.knkState k st).knkBoth k st :=
  Dev.bothEnds_get d k (fun _ _ _ => Dev.get_put_self _ _ _ _ _ _ (by decide) (by decide) hst)
    fun _ _ _ _ _ h => Dev.get_put_die _ _ (by decide) (by decide) h

theorem Dev.knkState_bits (st : Nat) {g : Fld} (hg : 2 < g.lo ∧ g.hi < 32) (die i : Nat) : (d.knkState k st).get g die i = d.get g die i :=
  Dev.bothEnds_keeps d k (fun _ _ _ _ _ => Dev.get_put_bits _ _ hg.2 (by decide) (.inl hg.1)) die i

/-- A sticky bit of KNK_STAT put at both ends. -/
theorem Dev.bothEnds_put {g : Fld} {v : Nat} (hg : g.hi < 32 ∧ g.lo ≤ g.hi) (hv : v < 2 ^ (g.hi + 1 - g.lo)) :
    ∀ x ∈ knuckleSides k, (d.bothEnds k fun d' die i => d'.put g v die i).get g x.1 x.2 = v :=
  Dev.bothEnds_get d k (fun _ _ _ => Dev.get_put_self _ _ _ _ _ _ hg.1 hg.2 hv) fun _ _ _ _ _ h => Dev.get_put_die _ _ hg.1 hg.2 h

theorem Dev.knkClear_clears : ∀ x ∈ knuckleSides k, ∀ g ∈ [F.KNK_STAT_WIDTHERR, F.KNK_STAT_QUALERR, F.KNK_STAT_STORM], (d.knkClear k).get g x.1 x.2 = 0 := by
  intro x hx g hg
  simp only [List.mem_cons, List.not_mem_nil, or_false] at hg
  refine Dev.bothEnds_get d k (fun d' die i => ?_) (fun d' die i die' i' hne => ?_) x hx
  · obtain rfl | rfl | rfl := hg <;> simp (disch := decide) only [Dev.get_put_bits, Dev.get_put_self]
  · obtain rfl | rfl | rfl := hg <;>
      rw [Dev.get_put_die _ _ (by decide) (by decide) hne, Dev.get_put_die _ _ (by decide) (by decide) hne, Dev.get_put_die _ _ (by decide) (by decide) hne]

end

/-! What other changes leave of a knuckle -/

section
variable {μ k st : Nat} {d e : Dev}

theorem Agree.knkBoth (h : Agree μ d e) (hf : μ.testBit 368 = false) (hr : μ.testBit Reg.KNK_STAT.ctorIdx = false) (hd : d.knkBoth k st) :
    e.knkBoth k st := fun x hx => (h.get F.KNK_STAT_STATE hf hr ..).trans (hd x hx)

theorem Agree.knkGone (h : Agree μ d e) (hf : μ.testBit 368 = false) (hr : μ.testBit Reg.HUB_KMAP.ctorIdx = false) (hd : d.knkGone k) :
    e.knkGone k := fun x hx => by rw [h.get F.HUB_KMAP_UP hf hr]; exact hd x hx

theorem Agree.knkNoPend (h : Agree μ d e) (hp : μ.testBit 410 = false) (hd : d.knkNoPend k) : e.knkNoPend k :=
  fun x hx => by rw [h.knkPend hp]; exact hd x hx

theorem Agree.knk (h : Agree μ d e) (hp : μ.testBit 409 = false) (k : Nat) : e.knk k = d.knk k := by
  rw [Dev.knk, Dev.knk, h.knks hp]

theorem Agree.flink (h : Agree μ d e) (hp : μ.testBit 408 = false) (die inst : Nat) : e.flink die inst = d.flink die inst := by
  rw [Dev.flink, Dev.flink, h.flinks hp]

end

/-! A knuckle leaves service (R274) -/

theorem Dev.kmapClear_die (d : Dev) {die die' k : Nat} (h : die' ≠ die) : (d.kmapClear die k).get F.HUB_KMAP_UP die' = d.get F.HUB_KMAP_UP die' := by
  rw [Dev.kmapClear, Dev.get_put_die _ _ (by decide) (by decide) h, Dev.get_put_die _ _ (by decide) (by decide) h]

theorem Dev.knkOut_gone (d : Dev) (k : Nat) : (d.knkOut k).knkGone k := by
  intro x hx
  rw [Dev.knkOut]
  dsimp only
  split
  next hout =>
    simp only [Bool.and_eq_true, Bool.not_eq_true'] at hout
    obtain rfl | rfl := mem_knuckleSides hx
    · exact hout.1
    · exact hout.2
  next hin =>
    obtain rfl | rfl := mem_knuckleSides hx
    · exact (congrArg (hasBit · k) (Dev.kmapClear_die _ (knuckleEnds_ne k))).trans (Dev.hasBit_kmapClear_self ..)
    · exact Dev.hasBit_kmapClear_self ..

/-- The training state with which FULL begins (R281). -/
def Dev.knkFresh (d : Dev) (k : Nat) (qretry wretry : Bool) : Knk :=
  { step := 1, full := true, qretry := qretry, wretry := wretry,
    trains := (((d.knk k).trains.1 + 1) % 64, ((d.knk k).trains.2 + 1) % 64), good := (d.modules, d.modules) }

/-- The training of a knuckle from its first step: out of service, and in TRAIN at both ends. -/
theorem Dev.knkFull_begins (d : Dev) (k : Nat) (qretry wretry : Bool) :
    let e := d.knkFull k qretry wretry
    e.knkBoth k 1 ∧ e.knkGone k ∧ e.knk k = d.knkFresh k qretry wretry := by
  refine ⟨?_, ?_, Dev.setKnk_knk_self ..⟩
  · exact Dev.knkState_both (d.knkOut k) k (by decide)
  · exact (Dev.knkState_kp (d.knkOut k) k _ (Within.refl _) (Agree.refl _ _)).knkGone rfl rfl (d.knkOut_gone k)

theorem Dev.knkFull_bits (d : Dev) (k : Nat) (qretry wretry : Bool) {g : Fld} (hreg : g.reg = .KNK_STAT) (hg : 2 < g.lo ∧ g.hi < 32) (die i : Nat) :
    (d.knkFull k qretry wretry).get g die i = d.get g die i :=
  calc _ = ((d.knkOut k).knkState k 1).get g die i := rfl
    _ = (d.knkOut k).get g die i := Dev.knkState_bits _ _ _ hg ..
    _ = d.get g die i := (Dev.knkOut_kp d k (Within.refl _) (Agree.refl _ _)).get g rfl (by rw [hreg]; rfl) ..

/-- The knuckle is held DOWN: out of service, no step under way. -/
theorem Dev.knkDown_down (d : Dev) (k : Nat) :
    (d.knkDown k).knkBoth k 6 ∧ (d.knkDown k).knkGone k ∧ (d.knkDown k).knk k = { d.knk k with step := 0 } := by
  have hrec := Dev.knkRec_kp (((d.knkOut k).knkState k 6).setKnk k { d.knk k with step := 0 }) k 4 (Within.refl _) (Agree.refl _ _)
  refine ⟨hrec.knkBoth rfl rfl (Dev.knkState_both (d.knkOut k) k (by decide)), hrec.knkGone rfl rfl ?_, ?_⟩
  · exact (Dev.knkState_kp (d.knkOut k) k _ (Within.refl _) (Agree.refl _ _)).knkGone rfl rfl (d.knkOut_gone k)
  · exact (hrec.knk rfl k).trans (Dev.setKnk_knk_self ..)

theorem Dev.knkRecover_begins (d : Dev) (k : Nat) :
    (d.knkRecover k).knkBoth k 5 ∧ ((d.knkRecover k).knk k).step = 3 ∧ ((d.knkRecover k).knk k).full = false ∧
      ((d.knkRecover k).knk k).trains = (((d.knk k).trains.1 + 1) % 64, ((d.knk k).trains.2 + 1) % 64) := by
  refine ⟨Dev.knkState_both d k (by decide), ?_⟩
  rw [Dev.knkRecover, Dev.setKnk_knk_self]
  exact ⟨rfl, rfl, rfl⟩

/-! Commands of a knuckle (R284) -/

section
variable {d : Dev} {die inst cmd : Nat}

/-- The package with a knuckle's command held until its sequence ends. -/
def Dev.knkHolds (d : Dev) (die inst cmd : Nat) : Dev := { d with knkPend := d.knkPend.put (die, inst) cmd }.put F.KNK_CTL_PEND 1 die inst

theorem Dev.knkCtlWrite_waits (hcmd : cmd ∈ [1, 2, 3]) (h : d.knkSt die inst ∈ [1, 2, 3, 5]) :
    d.knkCtlWrite die inst cmd = if d.on? F.KNK_CTL_PEND die inst = true then d else d.knkHolds die inst cmd := by
  have hmod : cmd % 8 = cmd ∧ ¬ (cmd < 1 ∨ 3 < cmd) := by
    simp only [List.mem_cons, List.not_mem_nil, or_false] at hcmd
    omega
  have hst : d.knkSt die inst = 1 ∨ d.knkSt die inst = 2 ∨ d.knkSt die inst = 3 ∨ d.knkSt die inst = 5 := by simpa using h
  rw [Dev.knkCtlWrite, hmod.1]
  exact (if_neg hmod.2).trans (if_pos hst)

theorem Dev.knkCtlWrite_acts (hcmd : cmd ∈ [1, 2, 3]) (h : d.knkSt die inst ∉ [1, 2, 3, 5]) :
    d.knkCtlWrite die inst cmd = d.knkCmd (knuckleAt die inst) cmd := by
  have hmod : cmd % 8 = cmd ∧ ¬ (cmd < 1 ∨ 3 < cmd) := by
    simp only [List.mem_cons, List.not_mem_nil, or_false] at hcmd
    omega
  have hst : ¬ (d.knkSt die inst = 1 ∨ d.knkSt die inst = 2 ∨ d.knkSt die inst = 3 ∨ d.knkSt die inst = 5) := by simpa using h
  rw [Dev.knkCtlWrite, hmod.1]
  exact (if_neg hmod.2).trans (if_neg hst)

/-- A command that comes during a sequence: held one deep, without effect while another is held. -/
theorem Dev.knkCtlWrite_held (hcmd : cmd ∈ [1, 2, 3]) (h : d.knkSt die inst ∈ [1, 2, 3, 5]) :
    let e := d.knkCtlWrite die inst cmd
    if d.on? F.KNK_CTL_PEND die inst = true then e = d else
      e.get F.KNK_CTL_PEND die inst = 1 ∧ e.knkPend.at? (die, inst) = some cmd ∧ e.knks = d.knks := by
  dsimp only
  rw [Dev.knkCtlWrite_waits hcmd h]
  split
  next => rfl
  next => exact ⟨Dev.get_put_self _ _ _ _ _ _ (by decide) (by decide) (by decide), (KMap.at?_put ..).trans (if_pos rfl), rfl⟩

end

theorem Dev.knkEnded_none {d : Dev} {k : Nat} (h : d.knkNoPend k) : d.knkEnded k = d := by
  have hfirst := h _ (List.mem_cons_self ..)
  have hsecond := h _ (List.mem_cons_of_mem _ (List.mem_singleton_self _))
  simp only [Dev.knkEnded, Dev.bothEnds, hfirst, hsecond]

/-! A knuckle enters service (R275, R281) -/

/-- UP of a knuckle set in the map of a die that is powered. -/
def Dev.kmapRaise (k : Nat) (d : Dev) (die : Nat) : Dev :=
  if d.carrierUp die then d.put F.HUB_KMAP_UP (orBit (d.get F.HUB_KMAP_UP die) k) die else d

theorem Dev.kmapRaise_up {k : Nat} (hk : k < 4) (d : Dev) (die j : Nat)
    (h : hasBit (d.get F.HUB_KMAP_UP j) k = true ∨ j = die ∧ d.carrierUp j = true) : hasBit ((d.kmapRaise k die).get F.HUB_KMAP_UP j) k = true := by
  rw [Dev.kmapRaise]
  split
  next hup =>
    by_cases hj : j = die
    · subst hj
      rw [Dev.hasBit_put_orBit _ _ _ _ _ _ (by decide) (by decide) hk]
      simp
    · rw [Dev.get_put_die _ _ (by decide) (by decide) hj]
      exact h.resolve_right fun h' => hj h'.1
  next hdown => exact h.resolve_right fun ⟨hj, hup⟩ => hdown (hj ▸ hup)

theorem Dev.foldl_kmapRaise_up {k : Nat} (hk : k < 4) (j : Nat) (dies : List Nat) (d : Dev)
    (h : hasBit (d.get F.HUB_KMAP_UP j) k = true ∨ j ∈ dies ∧ d.carrierUp j = true) :
    hasBit ((dies.foldl (Dev.kmapRaise k) d).get F.HUB_KMAP_UP j) k = true := by
  induction dies generalizing d with
  | nil => exact h.resolve_right fun h' => List.not_mem_nil h'.1
  | cons die dies ih =>
    have hpw : (d.kmapRaise k die).carrierUp j = d.carrierUp j := by
      rw [Dev.kmapRaise]
      split <;> rfl
    refine ih _ ?_
    rw [hpw]
    obtain hbit | ⟨hmem, hup⟩ := h
    · exact .inl (Dev.kmapRaise_up hk d die j (.inl hbit))
    · obtain rfl | hmem := List.mem_cons.mp hmem
      · exact .inl (Dev.kmapRaise_up hk d j j (.inr ⟨rfl, hup⟩))
      · exact .inr ⟨hmem, hup⟩

theorem Dev.knkUp_raises (d : Dev) {k : Nat} (hk : k < 4) (j : Nat) (hj : j < d.ndies) (hup : d.carrierUp j = true) :
    hasBit ((d.knkUp k).get F.HUB_KMAP_UP j) k = true :=
  Dev.foldl_kmapRaise_up hk j (List.range d.ndies) _ (.inr ⟨List.mem_range.mpr hj, hup⟩)

/-- The package with a knuckle UP at both ends, its training over. -/
def Dev.knkServing (d : Dev) (k : Nat) : Dev := (d.knkState k 4).setKnk k { d.knk k with step := 0, qretry := false, wretry := false }

/-- A record that a knuckle enters UP with fewer modules. -/
def Dev.knkNoteDegraded (d : Dev) (k : Nat) : Dev :=
  if d.on? F.KNK_STAT_DEGRADED (knuckleEnds k).1 (endInst k (knuckleEnds k).1) then d.knkRec k 5 else d

theorem Dev.knkNoteDegraded_kp {μ : Nat} {ω : Dev} (d : Dev) (k : Nat)
    (hμ : Within 0x80000000000000245000000000000000000000000000000000000000000000000000000000000000000000000000000000000000 μ) (hκ : Agree μ ω d) :
    Agree μ ω (d.knkNoteDegraded k) :=
  Agree.ite (Dev.knkRec_kp _ _ _ hμ hκ) hκ

theorem Dev.knkEnterUp_fresh (d : Dev) (k : Nat) :
    d.knkEnterUp k true =
      ((((d.knkServing k).bothEnds k fun d' die i => d'.setFlink die i FLink.initial).knkUp k).knkNoteDegraded k).knkEnded k := rfl

theorem Dev.bothEnds_setFlink (d : Dev) (k : Nat) (l : FLink) :
    ∀ x ∈ knuckleSides k, (d.bothEnds k fun d' die i => d'.setFlink die i l).flink x.1 x.2 = l := by
  intro x hx
  obtain rfl | rfl := mem_knuckleSides hx
  · simp only [Dev.bothEnds, Dev.flink, Dev.setFlink, KMap.atD_put]
    simp
  · exact Dev.setFlink_flink_self ..

/-- A knuckle whose training has passed, with no command that waits: UP at both ends and in every map, its flit layers at the start. -/
theorem Dev.knkEnterUp_serves (d : Dev) {k : Nat} (hk : k < 4) (hpend : d.knkNoPend k) :
    let e := d.knkEnterUp k true
    e.knkBoth k 4 ∧ (e.knk k).step = 0 ∧ (∀ j, j < d.ndies → d.carrierUp j = true → hasBit (e.get F.HUB_KMAP_UP j) k = true) ∧
      ∀ s ∈ knuckleSides k, e.flink s.1 s.2 = FLink.initial := by
  have hnote := Dev.knkNoteDegraded_kp (((d.knkServing k).bothEnds k fun d' die i => d'.setFlink die i FLink.initial).knkUp k) k (Within.refl _) (Agree.refl _ _)
  have hup := Dev.knkUp_kp ((d.knkServing k).bothEnds k fun d' die i => d'.setFlink die i FLink.initial) k (Within.refl _) (Agree.refl _ _)
  have hall := hup.then hnote
  dsimp only
  rw [Dev.knkEnterUp_fresh, Dev.knkEnded_none (hall.knkNoPend rfl hpend)]
  refine ⟨hall.knkBoth rfl rfl (Dev.knkState_both d k (by decide)), ?_, fun j hj hj' => ?_, fun s hs => ?_⟩
  · exact congrArg Knk.step ((hall.knk rfl k).trans (Dev.setKnk_knk_self ..))
  · rw [hnote.get F.HUB_KMAP_UP rfl rfl]
    exact Dev.knkUp_raises _ hk j hj hj'
  · exact (hall.flink rfl ..).trans (Dev.bothEnds_setFlink _ _ _ s hs)

end Sys2Proof.Machine
end

section
namespace Sys2Proof.Machine

/-! The steps of a training (R281–R283) -/

section
variable {d : Dev} {k : Nat} (a b : KnkRes) (hup : d.carrierUp (knuckleEnds k).1 = true ∧ d.carrierUp (knuckleEnds k).2 = true)

/-- The training goes on to a step, with the modules that are good so far. -/
def Dev.knkGo (d : Dev) (k : Nat) (x : Knk) (n : Nat) (good : Nat × Nat) : Dev := d.setKnk k { x with step := n, good := good }

theorem Dev.knkGo_step (d : Dev) (k : Nat) (x : Knk) (n : Nat) (good : Nat × Nat) : ((d.knkGo k x n good).knk k).step = n := by
  rw [Dev.knkGo, Dev.setKnk_knk_self]

theorem Dev.knkGo_good (d : Dev) (k : Nat) (x : Knk) (n : Nat) (good : Nat × Nat) : ((d.knkGo k x n good).knk k).good = good := by
  rw [Dev.knkGo, Dev.setKnk_knk_self]

theorem Dev.knkGo_get (d : Dev) (k : Nat) (x : Knk) (n : Nat) (good : Nat × Nat) (g : Fld) (die i : Nat) :
    (d.knkGo k x n good).get g die i = d.get g die i := rfl

theorem Dev.knkState_knk (d : Dev) (k st j : Nat) : (d.knkState k st).knk j = d.knk j := rfl

/-- Versions and peers of both ends, as the first step exchanges them. -/
def Dev.knkVersions (d : Dev) (k : Nat) : Dev :=
  let e := knuckleEnds k
  let i := endInst k e.1
  let j := endInst k e.2
  let v := min (d.get F.KNK_ID_PVER e.1 i) (d.get F.KNK_ID_PVER e.2 j)
  (((d.put F.KNK_ID_PVUSE v e.1 i).put F.KNK_ID_PVUSE v e.2 j).put F.KNK_ID_PEER e.2 e.1 i).put F.KNK_ID_PEER e.1 e.2 j

/-- Masks of both ends as the exchange of the good modules gives them, and the active set. -/
def Dev.knkMasks (d : Dev) (k : Nat) : Dev :=
  let e := knuckleEnds k
  let i := endInst k e.1
  let j := endInst k e.2
  let g := (d.knk k).good
  (((((d.put F.KNK_LMASK_MASK g.1 e.1 i).put F.KNK_PMASK_MASK g.2 e.1 i).put F.KNK_LMASK_MASK g.2 e.2 j).put F.KNK_PMASK_MASK g.1 e.2 j).knkActive e.1 i).knkActive
    e.2 j

/-- WIDTHERR of both ends set. -/
def Dev.knkNarrow (d : Dev) (k : Nat) : Dev := d.bothEnds k fun d' die n => d'.put F.KNK_STAT_WIDTHERR 1 die n

include hup

theorem Dev.knkStepEnd_versions (h : (d.knk k).step = 1) : d.knkStepEnd k a b = (d.knkVersions k).knkGo k (d.knk k) 2 (d.knk k).good := by
  simp only [Dev.knkStepEnd, hup, h]
  rfl

theorem Dev.knkStepEnd_modules (h : (d.knk k).step = 2 ∨ (d.knk k).step = 3) :
    d.knkStepEnd k a b = d.knkGo k (d.knk k) ((d.knk k).step + 1) ((d.knk k).good.1 &&& a.good, (d.knk k).good.2 &&& b.good) := by
  obtain h | h := h
  · simp only [Dev.knkStepEnd, hup, h]
    rfl
  · simp only [Dev.knkStepEnd, hup, h]
    rfl

theorem Dev.knkStepEnd_eyes (h : (d.knk k).step = 4) (hfull : (d.knk k).full = true) :
    d.knkStepEnd k a b =
      ((d.knkMargs (knuckleEnds k).1 (endInst k (knuckleEnds k).1) (d.knk k).good.1 a.margs).knkMargs (knuckleEnds k).2 (endInst k (knuckleEnds k).2)
        (d.knk k).good.2 b.margs).knkGo k (d.knk k) 5 (eyesOk (d.knk k).good.1 a.margs, eyesOk (d.knk k).good.2 b.margs) := by
  simp only [Dev.knkStepEnd, Dev.knkGo, hup, h, hfull]
  rfl

theorem Dev.knkStepEnd_masks (h : (d.knk k).step = 5)
    (hact : (d.knkMasks k).get F.KNK_AMASK_MASK (knuckleEnds k).1 (endInst k (knuckleEnds k).1) ≠ 0) :
    d.knkStepEnd k a b = ((d.knkMasks k).knkGo k (d.knk k) 6 (d.knk k).good).knkState k 2 := by
  simp only [Dev.knkStepEnd, hup, h]
  exact if_neg hact

theorem Dev.knkStepEnd_wide (h : (d.knk k).step = 6) (hfull : (d.knk k).full = true) (hok : d.widthOk k a b = true) :
    d.knkStepEnd k a b = (d.knkGo k (d.knk k) 7 (d.knk k).good).knkState k 3 := by
  simp only [Dev.knkStepEnd, Dev.knkGo, hup, h, hfull, hok, if_true]
  rfl

theorem Dev.knkStepEnd_narrow (h : (d.knk k).step = 6) (hok : d.widthOk k a b = false) :
    d.knkStepEnd k a b =
      if (d.knk k).wretry = true then (((d.knkNarrow k).knkDown k).knkRec k 1).knkEnded k else (d.knkNarrow k).knkFull k false true := by
  simp only [Dev.knkStepEnd, hup, h, hok]
  rfl

end

theorem Dev.knkVersions_used (d : Dev) (k : Nat) :
    ∀ s ∈ knuckleSides k, (d.knkVersions k).get F.KNK_ID_PVUSE s.1 s.2 =
      min (d.get F.KNK_ID_PVER (knuckleEnds k).1 (endInst k (knuckleEnds k).1)) (d.get F.KNK_ID_PVER (knuckleEnds k).2 (endInst k (knuckleEnds k).2)) := by
  intro s hs
  have hv : min (d.get F.KNK_ID_PVER (knuckleEnds k).1 (endInst k (knuckleEnds k).1)) (d.get F.KNK_ID_PVER (knuckleEnds k).2 (endInst k (knuckleEnds k).2))
      < 2 ^ (F.KNK_ID_PVUSE.hi + 1 - F.KNK_ID_PVUSE.lo) := Nat.lt_of_le_of_lt (Nat.min_le_left ..) (bitsOf_lt ..)
  simp only [Dev.knkVersions]
  rw [Dev.get_put_bits _ _ (by decide) (by decide) (by decide), Dev.get_put_bits _ _ (by decide) (by decide) (by decide)]
  obtain rfl | rfl := mem_knuckleSides hs
  · rw [Dev.get_put_die _ _ (by decide) (by decide) (knuckleEnds_ne k)]
    exact Dev.get_put_self _ _ _ _ _ _ (by decide) (by decide) hv
  · exact Dev.get_put_self _ _ _ _ _ _ (by decide) (by decide) hv

theorem activeSet_comm (a b : Nat) : activeSet a b = activeSet b a := by simp only [activeSet, Nat.and_comm]

theorem ofBits_lt (bs : List Bool) : ofBits bs < 2 ^ bs.length := by
  induction bs with
  | nil => exact Nat.one_pos
  | cons b bs ih =>
    rw [ofBits, List.length_cons, Nat.pow_succ]
    split <;> omega

theorem activeSet_lt (a b : Nat) : activeSet a b < 2 ^ 18 := by
  have hlow (m n : Nat) : lowestBits m n < 2 ^ 18 := by
    have h := ofBits_lt ((List.range 18).map fun i => hasBit m i && popCount (m % 2 ^ i) 18 < n)
    rwa [List.length_map, List.length_range] at h
  simp only [activeSet]
  split
  · exact hlow ..
  · split
    · exact hlow ..
    · exact Nat.two_pow_pos _

theorem Dev.knkActive_get (d : Dev) (die i : Nat) :
    (d.knkActive die i).get F.KNK_AMASK_MASK die i = activeSet (d.get F.KNK_LMASK_MASK die i) (d.get F.KNK_PMASK_MASK die i) := by
  rw [Dev.knkActive, Dev.get_put_reg _ _ (by decide) (by decide) (by decide), Dev.get_put_reg _ _ (by decide) (by decide) (by decide)]
  exact Dev.get_put_self _ _ _ _ _ _ (by decide) (by decide) (activeSet_lt ..)

theorem Dev.knkActive_die (d : Dev) {die die' : Nat} (i i' : Nat) {g : Fld} (hg : g.hi < 32) (h : die' ≠ die) :
    (d.knkActive die i).get g die' i' = d.get g die' i' := by
  rw [Dev.knkActive, Dev.get_put_die _ _ hg (by decide) h, Dev.get_put_die _ _ hg (by decide) h, Dev.get_put_die _ _ hg (by decide) h]

theorem Dev.knkMasks_active (d : Dev) (k : Nat) :
    ∀ s ∈ knuckleSides k, (d.knkMasks k).get F.KNK_AMASK_MASK s.1 s.2 = activeSet ((d.knk k).good.1 % 2 ^ 18) ((d.knk k).good.2 % 2 ^ 18) := by
  intro s hs
  have hne := knuckleEnds_ne k
  simp only [Dev.knkMasks]
  obtain rfl | rfl := mem_knuckleSides hs
  · rw [Dev.knkActive_die _ _ _ (by decide) hne, Dev.knkActive_get,
      Dev.get_put_die _ _ (by decide) (by decide) hne, Dev.get_put_die _ _ (by decide) (by decide) hne,
      Dev.get_put_reg _ _ (by decide) (by decide) (by decide), Dev.get_put _ _ _ _ _ _ (by decide) (by decide),
      Dev.get_put_die _ _ (by decide) (by decide) hne, Dev.get_put_die _ _ (by decide) (by decide) hne, Dev.get_put _ _ _ _ _ _ (by decide) (by decide)]
    rfl
  · rw [Dev.knkActive_get, Dev.knkActive_die _ _ _ (by decide) hne.symm, Dev.knkActive_die _ _ _ (by decide) hne.symm,
      Dev.get_put_reg _ _ (by decide) (by decide) (by decide), Dev.get_put _ _ _ _ _ _ (by decide) (by decide), Dev.get_put _ _ _ _ _ _ (by decide) (by decide),
      activeSet_comm]
    rfl

theorem Dev.knkNarrow_noted (d : Dev) (k : Nat) : ∀ s ∈ knuckleSides k, (d.knkNarrow k).get F.KNK_STAT_WIDTHERR s.1 s.2 = 1 :=
  Dev.bothEnds_put d k (by decide) (by decide)

theorem Dev.knkState_reg (d : Dev) (k st : Nat) {g : Fld} (hg : g.hi < 32) (h : g.reg ≠ .KNK_STAT) (die i : Nat) :
    (d.knkState k st).get g die i = d.get g die i :=
  Dev.bothEnds_keeps d k (fun _ _ _ _ _ => Dev.get_put_reg _ _ hg (by decide) h) die i

/-! A qualification ends (R281) -/

/-- Errors counted at both ends. -/
def Dev.knkCounted (d : Dev) (k ea eb : Nat) : Dev :=
  let e := knuckleEnds k
  (d.put F.KNK_QERR_COUNT (min ea (2 ^ 32 - 1)) e.1 (endInst k e.1)).put F.KNK_QERR_COUNT (min eb (2 ^ 32 - 1)) e.2 (endInst k e.2)

/-- QUALERR of both ends set. -/
def Dev.knkFailed (d : Dev) (k : Nat) : Dev := d.bothEnds k fun d' die n => d'.put F.KNK_STAT_QUALERR 1 die n

/-- The errors of both ends are no more than KNK_QCTL allows. -/
def Dev.knkPasses (d : Dev) (k ea eb : Nat) : Prop :=
  ea ≤ d.get F.KNK_QCTL_QMAX (knuckleEnds k).1 (endInst k (knuckleEnds k).1) ∧ eb ≤ d.get F.KNK_QCTL_QMAX (knuckleEnds k).2 (endInst k (knuckleEnds k).2)

section
variable {d : Dev} {k ea eb : Nat}

theorem Dev.knkQualEnd_idle (h : (d.knk k).step ≠ 7) : d.knkQualEnd k ea eb = d := if_pos (.inl h)

theorem Dev.knkCounted_get (d : Dev) (k ea eb : Nat) {g : Fld} (hg : g.hi < 32) (hreg : g.reg ≠ .KNK_QERR) (die i : Nat) :
    (d.knkCounted k ea eb).get g die i = d.get g die i := by
  rw [Dev.knkCounted, Dev.get_put_reg _ _ hg (by decide) hreg, Dev.get_put_reg _ _ hg (by decide) hreg]

theorem Dev.knkCounted_errors (d : Dev) (k ea eb : Nat) :
    (d.knkCounted k ea eb).get F.KNK_QERR_COUNT (knuckleEnds k).1 (endInst k (knuckleEnds k).1) = min ea (2 ^ 32 - 1) ∧
      (d.knkCounted k ea eb).get F.KNK_QERR_COUNT (knuckleEnds k).2 (endInst k (knuckleEnds k).2) = min eb (2 ^ 32 - 1) := by
  have hmin (n : Nat) : min n (2 ^ 32 - 1) < 2 ^ (F.KNK_QERR_COUNT.hi + 1 - F.KNK_QERR_COUNT.lo) :=
    Nat.lt_of_le_of_lt (Nat.min_le_right ..) (by decide)
  rw [Dev.knkCounted, Dev.get_put_die _ _ (by decide) (by decide) (knuckleEnds_ne k)]
  exact ⟨Dev.get_put_self _ _ _ _ _ _ (by decide) (by decide) (hmin _), Dev.get_put_self _ _ _ _ _ _ (by decide) (by decide) (hmin _)⟩

variable (hup : d.carrierUp (knuckleEnds k).1 = true ∧ d.carrierUp (knuckleEnds k).2 = true) (h : (d.knk k).step = 7)
include hup h

theorem Dev.knkQualEnd_passed (hpass : d.knkPasses k ea eb) : d.knkQualEnd k ea eb = (d.knkCounted k ea eb).knkEnterUp k true := by
  have hpass' : (d.knkCounted k ea eb).knkPasses k ea eb := by
    simpa only [Dev.knkPasses, Dev.knkCounted_get _ _ _ _ (g := F.KNK_QCTL_QMAX) (by decide) (by decide)] using hpass
  have hrun : ¬ ((d.knk k).step ≠ 7 ∨ d.carrierUp (knuckleEnds k).1 = false ∨ d.carrierUp (knuckleEnds k).2 = false) := by simp [h, hup]
  exact (if_neg hrun).trans (if_pos hpass')

theorem Dev.knkQualEnd_failed (hpass : ¬ d.knkPasses k ea eb) :
    d.knkQualEnd k ea eb =
      if (d.knk k).qretry = true then ((((d.knkCounted k ea eb).knkFailed k).knkDown k).knkRec k 3).knkEnded k
      else ((d.knkCounted k ea eb).knkFailed k).knkFull k true (d.knk k).wretry := by
  have hpass' : ¬ (d.knkCounted k ea eb).knkPasses k ea eb := by
    simpa only [Dev.knkPasses, Dev.knkCounted_get _ _ _ _ (g := F.KNK_QCTL_QMAX) (by decide) (by decide)] using hpass
  have hrun : ¬ ((d.knk k).step ≠ 7 ∨ d.carrierUp (knuckleEnds k).1 = false ∨ d.carrierUp (knuckleEnds k).2 = false) := by simp [h, hup]
  exact (if_neg hrun).trans (if_neg hpass')

/-- The errors of both ends are counted, however the qualification ends. -/
theorem Dev.knkQualEnd_counts :
    (d.knkQualEnd k ea eb).get F.KNK_QERR_COUNT (knuckleEnds k).1 (endInst k (knuckleEnds k).1) = min ea (2 ^ 32 - 1) ∧
      (d.knkQualEnd k ea eb).get F.KNK_QERR_COUNT (knuckleEnds k).2 (endInst k (knuckleEnds k).2) = min eb (2 ^ 32 - 1) := by
  have hcounted := d.knkCounted_errors k ea eb
  have hfailed (die i : Nat) : ((d.knkCounted k ea eb).knkFailed k).get F.KNK_QERR_COUNT die i = (d.knkCounted k ea eb).get F.KNK_QERR_COUNT die i :=
    Dev.bothEnds_keeps _ _ (fun _ _ _ _ _ => Dev.get_put_reg _ _ (by decide) (by decide) (by decide)) _ _
  by_cases hpass : d.knkPasses k ea eb
  · have hkeep := Dev.knkEnterUp_kp (d.knkCounted k ea eb) k true (Within.refl _) (Agree.refl _ _)
    rw [Dev.knkQualEnd_passed hup h hpass, hkeep.get F.KNK_QERR_COUNT rfl rfl, hkeep.get F.KNK_QERR_COUNT rfl rfl]
    exact hcounted
  · rw [Dev.knkQualEnd_failed hup h hpass]
    split
    · have hkeep := ((Dev.knkDown_kp ((d.knkCounted k ea eb).knkFailed k) k (Within.refl _) (Agree.refl _ _)).then
        (Dev.knkRec_kp _ k 3 (Within.refl _) (Agree.refl _ _))).then (Dev.knkEnded_kp _ k (Within.refl _) (Agree.refl _ _))
      rw [hkeep.get F.KNK_QERR_COUNT rfl rfl, hkeep.get F.KNK_QERR_COUNT rfl rfl, hfailed, hfailed]
      exact hcounted
    · have hkeep := Dev.knkFull_kp ((d.knkCounted k ea eb).knkFailed k) k true (d.knk k).wretry (Within.refl _) (Agree.refl _ _)
      rw [hkeep.get F.KNK_QERR_COUNT rfl rfl, hkeep.get F.KNK_QERR_COUNT rfl rfl, hfailed, hfailed]
      exact hcounted

end

/-- A failed training that may not be repeated, with no command that waits: the knuckle stays DOWN. -/
theorem Dev.knkDown_rec_ends (d : Dev) (k code : Nat) (hpend : d.knkNoPend k) :
    let e := ((d.knkDown k).knkRec k code).knkEnded k
    e.knkBoth k 6 ∧ e.knkGone k ∧ (e.knk k).step = 0 := by
  obtain ⟨hboth, hgone, hknk⟩ := d.knkDown_down k
  have hrec := Dev.knkRec_kp (d.knkDown k) k code (Within.refl _) (Agree.refl _ _)
  have hdown := Dev.knkDown_kp d k (Within.refl _) (Agree.refl _ _)
  dsimp only
  rw [Dev.knkEnded_none ((hdown.then hrec).knkNoPend rfl hpend)]
  exact ⟨hrec.knkBoth rfl rfl hboth, hrec.knkGone rfl rfl hgone, congrArg Knk.step ((hrec.knk rfl k).trans hknk)⟩


/-- Settles O42: a command by the state it finds; each step of a training by its equation; a qualification by whether it passes. -/
theorem knuckleTraining : Obligations.KnuckleTraining := by
  refine ⟨fun die inst => ⟨Effect.knuckleRecover_of _ _ fun d _ _ => ?_, Effect.knuckleFull_of _ _ fun d _ _ => ?_,
    Effect.knuckleHold_of _ _ fun d _ _ => ?_⟩, fun k a b => Effect.knuckleTrainingStepEnd_of _ _ _ fun d _ hup => ?_,
    fun k ea eb => Effect.knuckleQualEnd_of _ _ _ fun d hwf hup => ?_⟩
  · split
    next hwait => exact Dev.knkCtlWrite_held (by decide) hwait
    next hact =>
      rw [Dev.knkCtlWrite_acts (by decide) hact]
      split
      next hst =>
        rw [Dev.knkCmd]
        simp only [hst, if_true]
        exact Dev.knkRecover_begins ..
      next hst => exact if_neg hst
  · split
    next hwait => exact Dev.knkCtlWrite_held (by decide) hwait
    next hact =>
      rw [Dev.knkCtlWrite_acts (by decide) hact]
      obtain ⟨hboth, hgone, hknk⟩ := (d.knkClear (knuckleAt die inst)).knkFull_begins (knuckleAt die inst) false false
      have hclear := d.knkClear_clears (knuckleAt die inst)
      refine ⟨hboth, hgone, congrArg Knk.step hknk, congrArg Knk.full hknk, congrArg Knk.good hknk, fun x hx => ⟨?_, ?_, ?_⟩⟩ <;>
        refine (Dev.knkFull_bits _ _ _ _ rfl (by decide) _ _).trans (hclear x hx _ (by decide))
  · split
    next hwait => exact Dev.knkCtlWrite_held (by decide) hwait
    next hact =>
      rw [Dev.knkCtlWrite_acts (by decide) hact]
      obtain ⟨hboth, hgone, hknk⟩ := d.knkDown_down (knuckleAt die inst)
      exact ⟨hboth, hgone, congrArg Knk.step hknk⟩
  · have hends := Place.ofKnuckle_up hup
    refine ⟨fun h => ?_, fun h => ?_, fun h hfull => ?_, fun h hact => ?_, fun h hfull hok => ?_, fun h hfirst hok => ?_, fun h hagain hok hpend => ?_⟩
    · rw [Dev.knkStepEnd_versions a b hends h]
      refine ⟨by rw [Dev.knkGo_step], fun s hs => ?_⟩
      rw [Dev.knkGo_get]
      exact d.knkVersions_used k s hs
    · rw [Dev.knkStepEnd_modules a b hends h]
      exact ⟨Dev.knkGo_step .., Dev.knkGo_good ..⟩
    · rw [Dev.knkStepEnd_eyes a b hends h hfull]
      exact ⟨Dev.knkGo_step .., Dev.knkGo_good ..⟩
    · have hmask := d.knkMasks_active k
      rw [Dev.knkStepEnd_masks a b hends h (by rw [hmask _ (List.mem_cons_self ..)]; exact hact)]
      refine ⟨?_, Dev.knkState_both _ _ (by decide), fun s hs => ?_⟩
      · rw [Dev.knkState_knk, Dev.knkGo_step]
      · rw [Dev.knkState_reg _ _ _ (by decide) (by decide), Dev.knkGo_get]
        exact hmask s hs
    · rw [Dev.knkStepEnd_wide a b hends h hfull hok]
      exact ⟨by rw [Dev.knkState_knk, Dev.knkGo_step], Dev.knkState_both _ _ (by decide)⟩
    · rw [Dev.knkStepEnd_narrow a b hends h hok, if_neg (by rw [hfirst]; decide)]
      obtain ⟨hboth, hgone, hknk⟩ := (d.knkNarrow k).knkFull_begins k false true
      exact ⟨congrArg Knk.step hknk, congrArg Knk.wretry hknk, hboth, hgone, fun s hs =>
        (Dev.knkFull_bits _ _ _ _ rfl (by decide) _ _).trans (d.knkNarrow_noted k s hs)⟩
    · rw [Dev.knkStepEnd_narrow a b hends h hok, if_pos hagain]
      obtain ⟨hboth, hgone, hstep⟩ := (d.knkNarrow k).knkDown_rec_ends k 1 hpend
      exact ⟨hstep, hboth, hgone⟩
  · have hends := Place.ofKnuckle_up hup
    have hk : k < 4 := by simpa [Instr.wf] using hwf
    dsimp only
    split
    next h =>
      obtain ⟨hp, hq⟩ := Dev.knkQualEnd_counts (ea := ea) (eb := eb) hends h
      refine ⟨hp, hq, fun hpass hpend => ?_, fun hpass hfirst => ?_, fun hpass hagain hpend => ?_⟩
      · rw [Dev.knkQualEnd_passed hends h hpass]
        exact Dev.knkEnterUp_serves _ hk hpend
      · rw [Dev.knkQualEnd_failed hends h hpass, if_neg (by rw [hfirst]; decide)]
        obtain ⟨hboth, hgone, hknk⟩ := ((d.knkCounted k ea eb).knkFailed k).knkFull_begins k true (d.knk k).wretry
        exact ⟨hboth, hgone, congrArg Knk.step hknk, congrArg Knk.qretry hknk⟩
      · rw [Dev.knkQualEnd_failed hends h hpass, if_pos hagain]
        exact Dev.knkDown_rec_ends _ k 3 hpend
    next h => exact Dev.knkQualEnd_idle h

end Sys2Proof.Machine
end

section
namespace Sys2Proof.Machine

/-! A flit at a link layer (R286, R289) -/

/-- The flit layer with a NAK of the flit that it expects, unless it has sent one. -/
def FLink.nakNow (l : FLink) : FLink := if l.nak then l else { l with nak := true, naks := l.naks + 1 }

/-- A flit is discarded: its CRC is wrong, or a slot has a code that the layer does not take. -/
def flitBad (f : Bytes) (codes : List Nat) : Prop :=
  flitCrc f ≠ bitsOf (flitTag f) 63 40 ∨ ((flitSlots f).all fun s => s.1 == 0 || codes.contains s.1) = false

/-- The flit layer after the acknowledgement or the NAK that a flit carries. -/
def FLink.heard (l : FLink) (f : Bytes) : FLink :=
  let ackseq := bitsOf (flitTag f) 17 9
  if bitsOf (flitTag f) 19 18 = 1 then { l with acked := ackseq, nakRun := 0, nakSeq := 512 }
  else if bitsOf (flitTag f) 19 18 = 2 then { l with acked := ackseq, nakRun := if l.nakSeq = ackseq then l.nakRun + 1 else 1, nakSeq := ackseq }
  else l

/-- The flit layer after that, and the credits. -/
def FLink.told (l : FLink) (f : Bytes) : FLink :=
  let c := bitsOf (flitTag f) 38 36
  if c < 5 then { l.heard f with cred := (l.heard f).cred.set c (min ((l.heard f).cred.getD c 0 + 4) (credits.getD c 0)) } else l.heard f

section
variable (l : FLink) (f : Bytes) (codes : List Nat)

theorem FLink.nakNow_nak : l.nakNow.nak = true := by
  rw [FLink.nakNow]
  split
  next h => exact h
  next => rfl

theorem FLink.nakNow_rx : l.nakNow.rx = l.rx := by
  rw [FLink.nakNow]
  split <;> rfl

theorem FLink.nakNow_naks : l.nakNow.naks = l.naks ∨ l.nak = false ∧ l.nakNow.naks = l.naks + 1 := by
  rw [FLink.nakNow]
  split
  next => exact .inl rfl
  next h => exact .inr ⟨Bool.eq_false_iff.mpr h, rfl⟩

theorem FLink.heard_keeps : (l.heard f).rx = l.rx ∧ (l.heard f).nak = l.nak ∧ (l.heard f).naks = l.naks := by
  simp only [FLink.heard]
  split
  · exact ⟨rfl, rfl, rfl⟩
  · split <;> exact ⟨rfl, rfl, rfl⟩

/-- Acknowledgement and credits move neither the flit that is expected nor its NAK. -/
theorem FLink.told_keeps : (l.told f).rx = l.rx ∧ (l.told f).nak = l.nak ∧ (l.told f).naks = l.naks := by
  simp only [FLink.told]
  split <;> exact l.heard_keeps f

variable {f codes}

theorem FLink.receive_bad (h : flitBad f codes) : l.receive f codes = ⟨l.nakNow, true, false, []⟩ := if_pos h

theorem FLink.receive_good (h : ¬ flitBad f codes) :
    l.receive f codes =
      if ((flitSlots f).all fun s => s.1 == 0) = true then ⟨l.told f, false, bitsOf (flitTag f) 19 18 == 2, []⟩
      else if bitsOf (flitTag f) 8 0 = ((l.told f).rx + 1) % 512 then
        ⟨{ l.told f with rx := bitsOf (flitTag f) 8 0, nak := false }, false, bitsOf (flitTag f) 19 18 == 2, (flitSlots f).filter fun s => s.1 != 0⟩
      else ⟨(l.told f).nakNow, false, bitsOf (flitTag f) 19 18 == 2, []⟩ := if_neg h

theorem FLink.receive_replay (h : ¬ flitBad f codes) : (l.receive f codes).replay = (bitsOf (flitTag f) 19 18 == 2) := by
  rw [FLink.receive_good _ h]
  split
  · rfl
  · split <;> rfl

theorem FLink.receive_naks (h : ¬ flitBad f codes) :
    (l.receive f codes).link.naks = l.naks ∨ l.nak = false ∧ (l.receive f codes).link.naks = l.naks + 1 := by
  obtain ⟨-, hnak, hnaks⟩ := l.told_keeps f
  rw [FLink.receive_good _ h]
  split
  · exact .inl hnaks
  · split
    · exact .inl hnaks
    · have hnow := (l.told f).nakNow_naks
      rwa [hnak, hnaks] at hnow

theorem FLink.receive_seq (h : ¬ flitBad f codes) (hused : ((flitSlots f).filter fun s => s.1 != 0) ≠ []) :
    if bitsOf (flitTag f) 8 0 = (l.rx + 1) % 512 then (l.receive f codes).link.rx = bitsOf (flitTag f) 8 0 ∧ (l.receive f codes).link.nak = false
    else (l.receive f codes).link.rx = l.rx ∧ (l.receive f codes).link.nak = true := by
  obtain ⟨hrx, -, -⟩ := l.told_keeps f
  have hsome : ¬ ((flitSlots f).all fun s => s.1 == 0) = true := fun hall => hused (by
    rw [List.filter_eq_nil_iff]
    intro s hs
    simpa using List.all_eq_true.mp hall s hs)
  rw [FLink.receive_good _ h, if_neg hsome, hrx]
  split
  · exact ⟨rfl, rfl⟩
  · exact ⟨(FLink.nakNow_rx _).trans hrx, FLink.nakNow_nak _⟩

end

/-- A layer that takes the codes from 1 to `n`: a slot in use has a code above `n`. -/
theorem flitBad_upTo (f : Bytes) (n : Nat) : flitBad f (List.range' 1 n) ↔
    flitCrc f ≠ bitsOf (flitTag f) 63 40 ∨ ∃ s ∈ (flitSlots f).filter fun s => s.1 != 0, n < s.1 := by
  refine or_congr_right ?_
  rw [List.all_eq_false]
  constructor
  · rintro ⟨s, hs, hcode⟩
    simp only [List.contains_eq_mem, Bool.or_eq_true, beq_iff_eq, decide_eq_true_eq, not_or, List.mem_range'_1] at hcode
    exact ⟨s, List.mem_filter.mpr ⟨hs, by simpa using hcode.1⟩, by omega⟩
  · rintro ⟨s, hs, hcode⟩
    obtain ⟨hs, -⟩ := List.mem_filter.mp hs
    refine ⟨s, hs, ?_⟩
    simp only [List.contains_eq_mem, Bool.or_eq_true, beq_iff_eq, decide_eq_true_eq, List.mem_range'_1]
    omega

theorem knkFlitBad_iff (f : Bytes) : flitBad f [1, 2, 3, 4, 5, 6, 7] ↔
    flitCrc f ≠ bitsOf (flitTag f) 63 40 ∨ ∃ s ∈ (flitSlots f).filter fun s => s.1 != 0, 7 < s.1 := flitBad_upTo f 7

/-! A flit at a knuckle (R285–R290) -/

/-- The die at the other end of a die's knuckle. -/
def knkFar (die inst : Nat) : Nat := if inst = 0 then die ^^^ 1 else die ^^^ 2

theorem knkFar_ne (die inst : Nat) : knkFar die inst ≠ die := by
  have hxor {n : Nat} (hn : n ≠ 0) : die ^^^ n ≠ die := fun h => hn (by
    have h' := congrArg (die ^^^ ·) h
    simpa [← Nat.xor_assoc] using h')
  rw [knkFar]
  split
  · exact hxor (by decide)
  · exact hxor (by decide)

/-- A counter that stops at its end counts one, where there is something to count. -/
def Dev.countIf (d : Dev) (c : Bool) (g : Fld) (die i : Nat) : Dev := if c then d.countSat g 1 die i else d

theorem Dev.countIf_get (d : Dev) (c : Bool) {g : Fld} {w : Nat} (die i : Nat) (h1 : g.hi < 32) (h2 : g.lo ≤ g.hi) (hw : g.hi + 1 - g.lo = w) :
    (d.countIf c g die i).get g die i = if c = true then satAdd w (d.get g die i) 1 else d.get g die i := by
  rw [Dev.countIf]
  split
  · exact hw ▸ Dev.get_countSat _ _ _ _ _ _ h1 h2
  · rfl

theorem Dev.countIf_get_reg (d : Dev) (c : Bool) {f g : Fld} (die i die' i' : Nat) (hg : g.hi < 32) (hf : f.lo ≤ f.hi) (h : g.reg ≠ f.reg) :
    (d.countIf c f die i).get g die' i' = d.get g die' i' := by
  rw [Dev.countIf]
  split
  · exact Dev.get_put_reg _ _ hg hf h
  · rfl

/-- The far end's count of the flits that it has sent. -/
def Dev.knkSent (d : Dev) (die inst : Nat) (f : Bytes) : Dev :=
  if bitsOf (flitTag f) 35 20 = 0 then d else d.count64 F.KNK_NFLIT_LO_COUNT F.KNK_NFLIT_HI_COUNT 1 (knkFar die inst) inst

theorem Dev.knkSent_get (d : Dev) (die inst : Nat) (f : Bytes) {g : Fld} (hg : g.hi < 32) (hlo : g.reg ≠ .KNK_NFLIT_LO) (hhi : g.reg ≠ .KNK_NFLIT_HI)
    (die' i : Nat) : (d.knkSent die inst f).get g die' i = d.get g die' i := by
  rw [Dev.knkSent]
  split
  · rfl
  · exact (Dev.get_put_reg _ _ hg (by decide) hhi).trans (Dev.get_put_reg _ _ hg (by decide) hlo)

/-- The counters of a flit that an end has received. -/
def Dev.knkCounts (d : Dev) (die inst : Nat) (f : Bytes) (o : FlitOut) : Dev :=
  ((d.knkSent die inst f).countIf o.bad F.KNK_NCRC_COUNT die inst).countIf o.replay F.KNK_NREPLAY_COUNT die inst

/-- The package with a flit received: the layer, the counters, the far transmitter, the answers to invalid headers. -/
def Dev.knkTaken (d : Dev) (die inst : Nat) (f : Bytes) (o : FlitOut) : Dev :=
  let d4 := (d.setFlink die inst o.link).knkCounts die inst f o
  ((o.slots.filter fun s => s.1 == 1).flatMap fun s => slotHdrs s.2).foldl Dev.hdrCheck
    (if o.slots.isEmpty then d4 else d4.setFlink (knkFar die inst) inst { d4.flink (knkFar die inst) inst with tx := (o.link.rx + 1) % 512 })

section
variable {d : Dev} {die inst : Nat} (f : Bytes)

theorem Dev.knkFlit_idle (h : d.knkSt die inst ≠ 4) : d.knkFlit die inst f = d := if_pos (.inl h)

theorem Dev.knkFlit_serves (hst : d.knkSt die inst = 4) (hup : d.carrierUp die = true) :
    let o := (d.flink die inst).receive f [1, 2, 3, 4, 5, 6, 7]
    let e := d.knkTaken die inst f o
    d.knkFlit die inst f = if o.replay = true ∧ e.get F.KNK_RLIM_LIMIT die inst ≤ o.link.nakRun then e.knkStorm die inst else e := by
  have hrun : ¬ (d.knkSt die inst ≠ 4 ∨ d.carrierUp die = false) := by simp [hst, hup]
  dsimp only
  refine (if_neg hrun).trans (if_congr ?_ rfl rfl)
  rw [Bool.and_eq_true, decide_eq_true_eq]
  rfl

end

section
variable (d : Dev) (die inst : Nat) (f : Bytes) (o : FlitOut)

theorem Dev.flink_setFlink_ne (l : FLink) {die' : Nat} (h : die' ≠ die) (inst' : Nat) : (d.setFlink die' inst' l).flink die inst = d.flink die inst := by
  have hkey : ¬ (die, inst) = (die', inst') := fun hk => h (Prod.mk.inj hk).1.symm
  simp only [Dev.flink, Dev.setFlink, KMap.atD_put, hkey, if_false]

theorem Dev.knkCounts_flink (die' inst' : Nat) : (d.knkCounts die inst f o).flink die' inst' = d.flink die' inst' := by
  simp only [Dev.knkCounts, Dev.countIf, Dev.knkSent]
  split <;> split <;> split <;> rfl

theorem Dev.foldl_hdrCheck_agree (hs : List Bytes) :
    Agree 0x4000000000000000000000000000000000000000000000000000000000000000000000000000000000000000000000000 d (hs.foldl Dev.hdrCheck d) :=
  Agree.foldl _ _ _ (fun _ _ h => Dev.hdrCheck_kp _ _ (Within.refl _) h) (Agree.refl _ _)

/-- What follows the counters changes no register. -/
theorem Dev.knkTaken_agree : Agree 0x1000004000000000000000000000000000000000000000000000000000000000000000000000000000000000000000000000000 ((d.setFlink die inst o.link).knkCounts die inst f o) (d.knkTaken die inst f o) :=
  Agree.trans (Agree.ite (Agree.refl _ _) (Dev.setFlink_kp _ _ _ _ ((Within.refl _).up (by decide)) (Agree.refl _ _)))
    ((Dev.foldl_hdrCheck_agree _ _).up (by decide))

theorem Dev.knkTaken_flink : (d.knkTaken die inst f o).flink die inst = o.link := by
  refine ((Dev.foldl_hdrCheck_agree _ _).flink rfl die inst).trans ?_
  have hend : ((d.setFlink die inst o.link).knkCounts die inst f o).flink die inst = o.link :=
    (Dev.knkCounts_flink ..).trans (Dev.setFlink_flink_self ..)
  split
  · exact hend
  · rw [Dev.flink_setFlink_ne _ _ _ _ (knkFar_ne die inst), hend]

theorem Dev.knkTaken_rejects : (d.knkTaken die inst f o).get F.KNK_NCRC_COUNT die inst =
    if o.bad = true then satAdd 32 (d.get F.KNK_NCRC_COUNT die inst) 1 else d.get F.KNK_NCRC_COUNT die inst := by
  rw [(Dev.knkTaken_agree d die inst f o).get F.KNK_NCRC_COUNT rfl rfl, Dev.knkCounts,
    Dev.countIf_get_reg _ _ _ _ _ _ (by decide) (by decide) (by decide), Dev.countIf_get _ _ _ _ (by decide) (by decide) (w := 32) rfl,
    Dev.knkSent_get _ _ _ _ (by decide) (by decide) (by decide)]
  rfl

theorem Dev.knkTaken_replays : (d.knkTaken die inst f o).get F.KNK_NREPLAY_COUNT die inst =
    if o.replay = true then satAdd 32 (d.get F.KNK_NREPLAY_COUNT die inst) 1 else d.get F.KNK_NREPLAY_COUNT die inst := by
  rw [(Dev.knkTaken_agree d die inst f o).get F.KNK_NREPLAY_COUNT rfl rfl, Dev.knkCounts,
    Dev.countIf_get _ _ _ _ (by decide) (by decide) (w := 32) rfl, Dev.countIf_get_reg _ _ _ _ _ _ (by decide) (by decide) (by decide),
    Dev.knkSent_get _ _ _ _ (by decide) (by decide) (by decide)]
  rfl

theorem Dev.knkTaken_limit : (d.knkTaken die inst f o).get F.KNK_RLIM_LIMIT die inst = d.get F.KNK_RLIM_LIMIT die inst := by
  rw [(Dev.knkTaken_agree d die inst f o).get F.KNK_RLIM_LIMIT rfl rfl, Dev.knkCounts, Dev.countIf_get_reg _ _ _ _ _ _ (by decide) (by decide) (by decide),
    Dev.countIf_get_reg _ _ _ _ _ _ (by decide) (by decide) (by decide), Dev.knkSent_get _ _ _ _ (by decide) (by decide) (by decide)]
  rfl

end

/-- The storm of NAKs at an end: STORM, and RECOVER of its knuckle. -/
theorem Dev.knkStorm_recovers (d : Dev) (die inst : Nat) :
    let e := d.knkStorm die inst
    e.get F.KNK_STAT_STORM die inst = 1 ∧ e.knkBoth (knuckleAt die inst) 5 ∧ (e.knk (knuckleAt die inst)).step = 3 := by
  obtain ⟨hboth, hstep, -, -⟩ := Dev.knkRecover_begins
    ((d.put F.KNK_STAT_STORM 1 die inst).post die ⟨5, 2, 0, noPart, inst + 2 ^ 8 * (if die = (knuckleEnds (knuckleAt die inst)).1 then
      (knuckleEnds (knuckleAt die inst)).2 else (knuckleEnds (knuckleAt die inst)).1), (d.put F.KNK_STAT_STORM 1 die inst).get F.KNK_AMASK_MASK die inst, 0⟩)
    (knuckleAt die inst)
  refine ⟨?_, hboth, hstep⟩
  refine (Dev.knkState_bits _ _ 5 (by decide) die inst).trans ?_
  exact ((Dev.post_kp _ _ _ (Within.refl _) (Agree.refl _ _)).get F.KNK_STAT_STORM rfl rfl ..).trans
    (Dev.get_put_self _ _ _ _ _ _ (by decide) (by decide) (by decide))

/-! The signal of a knuckle is lost (R290) -/

/-- The package with a knuckle whose signal an end has lost: out of service, DOWN at the ends that are powered. -/
def Dev.knkLost (d : Dev) (die inst : Nat) : Dev :=
  let d1 := ((d.knkOut (knuckleAt die inst)).put F.KNK_STAT_STATE 6 die inst).setKnk (knuckleAt die inst) { d.knk (knuckleAt die inst) with step := 0 }
  if d1.carrierUp (knkFar die inst) then d1.put F.KNK_STAT_STATE 6 (knkFar die inst) inst else d1

/-- The records of the loss. -/
def Dev.knkReport (d : Dev) (die inst : Nat) : Dev :=
  let d3 := d.post die ⟨5, 4, 0, noPart, inst + 2 ^ 8 * knkFar die inst, d.get F.KNK_AMASK_MASK die inst, 0⟩
  if d3.carrierUp (knkFar die inst) then d3 else d3.post die ⟨0x0A, 6, 0, noPart, knkFar die inst, 0, 0⟩

theorem Dev.knkReport_agree (d : Dev) (die inst : Nat) :
    Agree 0x80000000000000245000000000000000000000000000000000000000000000000000000000000000000000000000000000000000 d (d.knkReport die inst) :=
  have h := Dev.post_kp d die ⟨5, 4, 0, noPart, inst + 2 ^ 8 * knkFar die inst, d.get F.KNK_AMASK_MASK die inst, 0⟩ (Within.refl _) (Agree.refl _ _)
  Agree.ite h (Dev.post_kp _ _ _ (Within.refl _) h)

theorem Dev.knkSignalLoss_idle {d : Dev} {die inst : Nat} (h : d.knkSt die inst = 0 ∨ d.knkSt die inst = 6) : d.knkSignalLoss die inst = d := by
  refine if_pos ?_
  obtain h | h := h <;> simp [h]

theorem Dev.knkSignalLoss_acts {d : Dev} {die inst : Nat} (hup : d.carrierUp die = true) (h : ¬ (d.knkSt die inst = 0 ∨ d.knkSt die inst = 6)) :
    d.knkSignalLoss die inst = ((d.knkLost die inst).knkReport die inst).knkEnded (knuckleAt die inst) := by
  rw [not_or] at h
  refine if_neg ?_
  simp [h, hup]

theorem Agree.carrierUp {μ : Nat} {d e : Dev} (h : Agree μ d e) (hp : μ.testBit 369 = false) (die : Nat) : e.carrierUp die = d.carrierUp die := by
  rw [Dev.carrierUp, Dev.carrierUp, Dev.pwOf, Dev.pwOf, h.pw hp]

/-- The ends of an end's knuckle: itself, and the far one. -/
theorem mem_knuckleSides_at {die inst : Nat} (hdie : die < 4) (hinst : inst < 2) {x : Nat × Nat} (hx : x ∈ knuckleSides (knuckleAt die inst)) :
    x = (die, inst) ∨ x = (knkFar die inst, inst) := by
  have hall : ∀ die < 4, ∀ inst < 2, ∀ x ∈ knuckleSides (knuckleAt die inst), x = (die, inst) ∨ x = (knkFar die inst, inst) := by decide
  exact hall die hdie inst hinst x hx

theorem Dev.knkLost_far {d : Dev} {die inst : Nat} (h : d.carrierUp (knkFar die inst) = true) : (d.knkLost die inst).knkSt (knkFar die inst) inst = 6 := by
  have hup : ((d.knkOut (knuckleAt die inst)).carrierUp (knkFar die inst)) = true :=
    ((Dev.knkOut_kp d (knuckleAt die inst) (Within.refl _) (Agree.refl _ _)).carrierUp rfl _).trans h
  rw [Dev.knkLost]
  exact (congrArg (Dev.knkSt · (knkFar die inst) inst) (if_pos hup)).trans (Dev.get_put_self _ _ _ _ _ _ (by decide) (by decide) (by decide))

theorem Dev.knkLost_near (d : Dev) (die inst : Nat) : (d.knkLost die inst).knkSt die inst = 6 := by
  have hput : ((d.knkOut (knuckleAt die inst)).put F.KNK_STAT_STATE 6 die inst).knkSt die inst = 6 :=
    Dev.get_put_self _ _ _ _ _ _ (by decide) (by decide) (by decide)
  rw [Dev.knkLost]
  dsimp only
  split
  · exact (Dev.get_put_die _ _ (by decide) (by decide) (knkFar_ne die inst).symm).trans hput
  · exact hput

theorem Dev.knkLost_gone (d : Dev) (die inst : Nat) : (d.knkLost die inst).knkGone (knuckleAt die inst) := by
  have hgone := d.knkOut_gone (knuckleAt die inst)
  intro x hx
  rw [Dev.knkLost]
  dsimp only
  split
  · rw [Dev.get_put_reg _ _ (by decide) (by decide) (by decide)]
    refine Eq.trans (congrArg (hasBit · _) ?_) (hgone x hx)
    exact Dev.get_put_reg _ _ (by decide) (by decide) (by decide)
  · refine Eq.trans (congrArg (hasBit · _) ?_) (hgone x hx)
    exact Dev.get_put_reg _ _ (by decide) (by decide) (by decide)

theorem Dev.knkLost_step (d : Dev) (die inst : Nat) : ((d.knkLost die inst).knk (knuckleAt die inst)).step = 0 := by
  rw [Dev.knkLost]
  dsimp only
  split
  · exact congrArg Knk.step (Dev.setKnk_knk_self ..)
  · rw [Dev.setKnk_knk_self]

theorem Dev.knkLost_noPend {d : Dev} {k : Nat} (h : d.knkNoPend k) (die inst : Nat) : (d.knkLost die inst).knkNoPend k := by
  have hout := (Dev.knkOut_kp d (knuckleAt die inst) (Within.refl _) (Agree.refl _ _)).knkNoPend rfl h
  rw [Dev.knkLost]
  dsimp only
  split <;> exact hout

theorem Dev.knkSignalLoss_down {d : Dev} {die inst : Nat} (hdie : die < 4) (hinst : inst < 2) (hup : d.carrierUp die = true)
    (h : ¬ (d.knkSt die inst = 0 ∨ d.knkSt die inst = 6)) (hpend : d.knkNoPend (knuckleAt die inst)) :
    let e := d.knkSignalLoss die inst
    (∀ x ∈ knuckleSides (knuckleAt die inst), d.carrierUp x.1 = true → e.knkSt x.1 x.2 = 6) ∧ e.knkGone (knuckleAt die inst) ∧
      (e.knk (knuckleAt die inst)).step = 0 := by
  have hrep := (d.knkLost die inst).knkReport_agree die inst
  dsimp only
  rw [Dev.knkSignalLoss_acts hup h, Dev.knkEnded_none (hrep.knkNoPend rfl (Dev.knkLost_noPend hpend die inst))]
  refine ⟨fun x hx hx' => (hrep.get F.KNK_STAT_STATE rfl rfl ..).trans ?_, hrep.knkGone rfl rfl (d.knkLost_gone die inst), ?_⟩
  · obtain rfl | rfl := mem_knuckleSides_at hdie hinst hx
    · exact Dev.knkLost_near d _ _
    · exact Dev.knkLost_far hx'
  · rw [hrep.knk rfl]
    exact d.knkLost_step die inst

theorem Dev.knkFlit_agree {d : Dev} {die inst : Nat} (f : Bytes) (hst : d.knkSt die inst = 4) (hup : d.carrierUp die = true) :
    Agree 0x82000000000000245000000000000000000000000000000000000000000200000000000000000000000000000000000000000000
      (d.knkTaken die inst f ((d.flink die inst).receive f [1, 2, 3, 4, 5, 6, 7])) (d.knkFlit die inst f) := by
  rw [Dev.knkFlit_serves f hst hup]
  exact Agree.ite (Dev.knkStorm_kp _ _ _ (Within.refl _) (Agree.refl _ _)) (Agree.refl _ _)

/-- Settles O43: a flit by what the layer makes of it, its counters, and the storm; a NAK repeated; a signal lost. -/
theorem knuckleFlits : Obligations.KnuckleFlits := by
  refine fun die inst => ⟨fun f => Effect.knuckleFlitReceive_of _ _ _ fun d _ hup => ?_, Effect.knuckleNakRepeat_of _ _ fun d _ _ => ?_,
    Effect.knuckleSignalLoss_of _ _ fun d hwf hup => ?_⟩
  · dsimp only
    split
    next hst =>
      have hrun := Dev.knkFlit_serves f hst (Place.ofKnuckleEnd_up hup)
      have hkeep := Dev.knkFlit_agree f hst (Place.ofKnuckleEnd_up hup)
      have hlink := (hkeep.flink rfl die inst).trans (Dev.knkTaken_flink ..)
      rw [← knkFlitBad_iff, hlink, hkeep.get F.KNK_NCRC_COUNT rfl rfl, hkeep.get F.KNK_NREPLAY_COUNT rfl rfl, Dev.knkTaken_rejects, Dev.knkTaken_replays]
      refine ⟨rfl, fun hbad => ?_, fun hgood hused => FLink.receive_seq _ hgood hused, fun hgood => FLink.receive_naks _ hgood,
        fun hgood hnak => ?_, fun hgood hnak hrlim => ?_⟩
      · rw [FLink.receive_bad _ hbad]
        exact ⟨FLink.nakNow_rx _, FLink.nakNow_nak _, if_pos rfl⟩
      · rw [FLink.receive_replay _ hgood, hnak]
        exact if_pos rfl
      · rw [hrun, if_pos ⟨by rw [FLink.receive_replay _ hgood, hnak]; rfl, by rwa [Dev.knkTaken_limit]⟩]
        exact Dev.knkStorm_recovers ..
    next hst => exact Dev.knkFlit_idle f hst
  · dsimp only
    split
    next h =>
      have hsend : d.knkNakAgain die inst = d.setFlink die inst { d.flink die inst with naks := (d.flink die inst).naks + 1 } :=
        if_pos (by simpa using h)
      rw [hsend, Dev.setFlink_flink_self]
    next h => exact if_neg (by simpa using h)
  · split
    next h => exact Dev.knkSignalLoss_idle h
    next h =>
      simp only [Instr.wf, Bool.and_eq_true, decide_eq_true_eq] at hwf
      exact Dev.knkSignalLoss_down hwf.1 hwf.2 (Place.ofKnuckleEnd_up hup) h

end Sys2Proof.Machine
end

section
/-!
PROOF of O50: the auxiliary site (R295–R301). How it goes down, begins its sequence, comes up and recovers; its commands and steps; flits, requests, tumbler
writes and the window.
-/
namespace Sys2Proof.Machine

/-! The adapter of a site -/

section
variable (d : Dev) (die : Nat)

@[simp] theorem Dev.modSite_read_get (f : Site → Site) (g : Fld) (die' i s : Nat) : (d.modSite die f).get g die' i s = d.get g die' i s := rfl

@[simp] theorem Dev.modSite_site (f : Site → Site) : (d.modSite die f).site die = f (d.site die) := Dev.setSite_site_self ..

theorem Dev.siteSend_site (hdr : Bytes) (lines : List Bytes) :
    (d.siteSend die hdr lines).site die = { d.site die with sent := (d.site die).sent ++ [⟨hdr, lines⟩] } := Dev.modSite_site ..

theorem Agree.site {μ : Nat} {d e : Dev} (h : Agree μ d e) (hp : μ.testBit 412 = false) (die : Nat) : e.site die = d.site die := by
  rw [Dev.site, Dev.site, h.sites hp]

/-- Window requests are answered with PATH. -/
def Dev.winFail (d : Dev) (die : Nat) (ws : List (Nat × Txn × Nat)) : Dev := ws.foldl (fun d' w => d'.pathFail die w.2.1) d

theorem Dev.winFail_agree (ws : List (Nat × Txn × Nat)) :
    Agree 0x4000000000000000000000000000000000000000000000000000000800000000000000000000000000000000000000000 d (d.winFail die ws) :=
  Agree.foldl _ _ _ (fun _ _ h => Dev.pathFail_kp _ _ _ (Within.refl _) h) (Agree.refl _ _)

end

/-! Down, up and RECOVER (R295, R297, R300, R301) -/

/-- The site is down with a cause: fenced, its window closed, its requests forgotten. -/
def Dev.siteIsDown (e : Dev) (die cause : Nat) : Prop :=
  e.get F.AUX_STAT_STATE die = 5 ∧ e.get F.AUX_STAT_CAUSE die = cause ∧ e.get F.AUX_CTL_FENCE die = 1 ∧ e.get F.AUX_WIN_WLOG2 die = 0 ∧
    (e.site die).step = 0 ∧ (e.site die).win = [] ∧ (e.site die).reqs = [] ∧ (e.site die).issued = []

/-- The site is in RECOVER, its window closed. -/
def Dev.siteRecovers (e : Dev) (die : Nat) : Prop :=
  e.get F.AUX_STAT_STATE die = 4 ∧ e.get F.AUX_WIN_WLOG2 die = 0 ∧ (e.site die).step = 5

/-- The registers of a site that goes down. -/
def Dev.siteShut (d : Dev) (die cause : Nat) : Dev :=
  ((((d.setAux die 5).put F.AUX_STAT_CAUSE cause die).put F.AUX_CTL_FENCE 1 die).put F.AUX_WIN_WLOG2 0 die).put F.AUX_CTL_PEND 0 die

section
variable (d : Dev) (die : Nat)

/-- The site, once it is down. -/
theorem Dev.siteDown_down {cause : Nat} (hcause : cause < 256) : (d.siteDown die cause).siteIsDown die cause := by
  have hpost := Dev.post_kp (((d.siteShut die cause).winFail die (d.site die).win).setSite die { Site.initial with tag := (d.site die).tag }) die
    ⟨6, 1, 0, noPart, 1 + 2 ^ 8 * die, cause, 0⟩ (Within.refl _) (Agree.refl _ _)
  have hset := (Dev.winFail_agree (d.siteShut die cause) die (d.site die).win).then
    (Dev.setSite_kp _ die { Site.initial with tag := (d.site die).tag } (Within.refl _) (Agree.refl _ _))
  have hkeep := hset.then hpost
  have hsite : (d.siteDown die cause).site die = { Site.initial with tag := (d.site die).tag } :=
    (hpost.site rfl die).trans (Dev.setSite_site_self ..)
  refine ⟨(hkeep.get F.AUX_STAT_STATE rfl rfl ..).trans ?_, (hkeep.get F.AUX_STAT_CAUSE rfl rfl ..).trans ?_,
    (hkeep.get F.AUX_CTL_FENCE rfl rfl ..).trans ?_, (hkeep.get F.AUX_WIN_WLOG2 rfl rfl ..).trans ?_, ?_, ?_, ?_, ?_⟩
  · simp (disch := decide) only [Dev.siteShut, Dev.setAux, Dev.get_put_reg, Dev.get_put_bits, Dev.get_put_self]
  · simp (disch := decide) only [Dev.siteShut, Dev.get_put_reg]
    exact Dev.get_put_self _ _ _ _ _ _ (by decide) (by decide) hcause
  · simp (disch := decide) only [Dev.siteShut, Dev.get_put_reg, Dev.get_put_bits, Dev.get_put_self]
  · simp (disch := decide) only [Dev.siteShut, Dev.get_put_reg, Dev.get_put_self]
  all_goals rw [hsite]; rfl

/-- A held command acts after the sequence has taken the site down; none is held here. -/
theorem Dev.siteFail_down {cause : Nat} (hcause : cause < 256) (hpend : (d.site die).pend = none) : (d.siteFail die cause).siteIsDown die cause := by
  rw [Dev.siteFail, hpend]
  exact d.siteDown_down die hcause

theorem Dev.siteRecover_recovers : (d.siteRecover die).siteRecovers die := by
  refine ⟨(Dev.get_put_reg _ _ (by decide) (by decide) (by decide)).trans (Dev.get_put_self _ _ _ _ _ _ (by decide) (by decide) (by decide)),
    Dev.get_put_self _ _ _ _ _ _ (by decide) (by decide) (by decide), ?_⟩
  rw [Dev.siteRecover, Dev.modSite_site]

/-- The site in UP: its window granted, its fence down. -/
theorem Dev.siteUp_up (fresh : Bool) :
    let e := d.siteUp die fresh
    e.get F.AUX_STAT_STATE die = 3 ∧ e.get F.AUX_CTL_FENCE die = 0 ∧ e.get F.AUX_WIN_WLOG2 die = field (d.auxDesc die) 12 1 % 64 ∧ (e.site die).step = 0 := by
  have hget (f : Fld) : (d.siteUp die fresh).get f die =
      ((((d.setAux die 3).put F.AUX_WIN_WLOG2 (field (d.auxDesc die) 12 1 % 64) die).put F.AUX_CTL_FENCE 0 die)).get f die := rfl
  refine ⟨?_, ?_, ?_, ?_⟩
  · rw [hget]
    simp (disch := decide) only [Dev.setAux, Dev.get_put_reg, Dev.get_put_self]
  · rw [hget]
    simp (disch := decide) only [Dev.get_put_self]
  · rw [hget, Dev.get_put_reg _ _ (by decide) (by decide) (by decide)]
    exact Dev.get_put_self _ _ _ _ _ _ (by decide) (by decide) (Nat.mod_lt _ (by decide))
  · rw [Dev.siteUp, Dev.modSite_site]

theorem Dev.siteUp_rx : ((d.siteUp die false).site die).link.rx = (d.site die).link.rx := by
  rw [Dev.siteUp, Dev.modSite_site]
  rfl

end

/-! Commands of a site (R300, R301) -/

section
variable {d : Dev} {die : Nat}

/-- The site's sequence runs: TRAIN, QUAL or RECOVER. -/
def Dev.siteRuns (d : Dev) (die : Nat) : Prop := d.auxSt die = 1 ∨ d.auxSt die = 2 ∨ d.auxSt die = 4

/-- The package with a command of a site held until its sequence ends. -/
def Dev.siteHolds (d : Dev) (die cmd : Nat) : Dev := (d.modSite die fun s => { s with pend := some cmd }).put F.AUX_CTL_PEND 1 die

theorem Dev.auxCtlWrite_waits {cmd : Nat} (hcmd : cmd = 1 ∨ cmd = 2) (h : d.siteRuns die) :
    d.auxCtlWrite die cmd = if d.get F.AUX_CTL_PEND die ≠ 0 then d else d.siteHolds die cmd := by
  have hmod : cmd % 4 = cmd ∧ ¬ (cmd ≠ 1 ∧ cmd ≠ 2) := by omega
  rw [Dev.auxCtlWrite, hmod.1]
  refine (if_neg hmod.2).trans ((if_pos h).trans (if_congr ?_ rfl rfl))
  simp [Dev.on?]

theorem Dev.auxCtlWrite_acts {cmd : Nat} (hcmd : cmd = 1 ∨ cmd = 2) (h : ¬ d.siteRuns die) : d.auxCtlWrite die cmd = d.siteCmd die cmd := by
  have hmod : cmd % 4 = cmd ∧ ¬ (cmd ≠ 1 ∧ cmd ≠ 2) := by omega
  rw [Dev.auxCtlWrite, hmod.1]
  exact (if_neg hmod.2).trans (if_neg h)

theorem Dev.siteHolds_holds {cmd : Nat} :
    let e := d.siteHolds die cmd
    e.get F.AUX_CTL_PEND die = 1 ∧ (e.site die).pend = some cmd ∧ e.get F.AUX_STAT_STATE die = d.get F.AUX_STAT_STATE die := by
  refine ⟨Dev.get_put_self _ _ _ _ _ _ (by decide) (by decide) (by decide), ?_, ?_⟩
  · exact congrArg Site.pend (Dev.modSite_site d die fun s => { s with pend := some cmd })
  · exact Dev.get_put_reg _ _ (by decide) (by decide) (by decide)

theorem Dev.siteTrain_capped (h : d.get F.AUX_ID_CAPPED die ≠ 0) : d.siteTrain die = d := if_pos (by simpa [Dev.on?] using h)

/-- The registers of a site whose sequence begins, but for its STATE. -/
def Dev.siteOpens (d : Dev) (die : Nat) : Dev := ((d.put F.AUX_STAT_CAUSE 0 die).put F.AUX_CTL_FENCE 1 die).put F.AUX_WIN_WLOG2 0 die

theorem Dev.siteOpens_opens :
    let e := d.siteOpens die
    e.auxSt die = d.auxSt die ∧ e.get F.AUX_CTL_FENCE die = 1 ∧ e.get F.AUX_STAT_CAUSE die = 0 ∧ e.get F.AUX_WIN_WLOG2 die = 0 := by
  refine ⟨?_, ?_, ?_, ?_⟩ <;>
    simp (disch := decide) only [Dev.auxSt, Dev.siteOpens, Dev.get_put_reg, Dev.get_put_bits, Dev.get_put_self]

theorem Dev.siteTrain_begins (h : ¬ d.get F.AUX_ID_CAPPED die ≠ 0) :
    let e := d.siteTrain die
    e.get F.AUX_STAT_STATE die = (if d.get F.AUX_STAT_STATE die = 3 then 5 else d.get F.AUX_STAT_STATE die) ∧ e.get F.AUX_CTL_FENCE die = 1 ∧
      e.get F.AUX_STAT_CAUSE die = 0 ∧ e.get F.AUX_WIN_WLOG2 die = 0 ∧ (e.site die).step = 1 ∧ (e.site die).win = [] := by
  have hrun : d.siteTrain die = (if ((d.winFail die (d.site die).win).siteOpens die).auxSt die = 3
      then ((d.winFail die (d.site die).win).siteOpens die).setAux die 5 else (d.winFail die (d.site die).win).siteOpens die).setSite die
        { Site.initial with tag := (d.site die).tag, step := 1 } := if_neg (by simpa [Dev.on?] using h)
  have hkeep := Dev.winFail_agree d die (d.site die).win
  obtain ⟨hst, hfence, hcause, hwin⟩ := Dev.siteOpens_opens (d := d.winFail die (d.site die).win) (die := die)
  replace hst := hst.trans (hkeep.get F.AUX_STAT_STATE rfl rfl ..)
  dsimp only
  rw [hrun, Dev.setSite_site_self]
  refine ⟨?_, ?_, ?_, ?_, rfl, rfl⟩
  · refine Eq.trans (b := Dev.auxSt (if _ then _ else _) die) rfl ?_
    rw [hst]
    split
    · exact Dev.get_put_self _ _ _ _ _ _ (by decide) (by decide) (by decide)
    · exact hst
  · refine Eq.trans (b := Dev.get (if _ then _ else _) F.AUX_CTL_FENCE die) rfl ?_
    split
    · exact (Dev.get_put_reg _ _ (by decide) (by decide) (by decide)).trans hfence
    · exact hfence
  · refine Eq.trans (b := Dev.get (if _ then _ else _) F.AUX_STAT_CAUSE die) rfl ?_
    split
    · exact (Dev.get_put_bits _ _ (by decide) (by decide) (.inl (by decide))).trans hcause
    · exact hcause
  · refine Eq.trans (b := Dev.get (if _ then _ else _) F.AUX_WIN_WLOG2 die) rfl ?_
    split
    · exact (Dev.get_put_reg _ _ (by decide) (by decide) (by decide)).trans hwin
    · exact hwin

theorem Dev.siteCmd_hold : d.siteCmd die 2 = if d.get F.AUX_ID_CAPPED die ≠ 0 then d else d.siteDown die 0x0B := by
  have hcap : d.siteCmd die 2 = if (!d.on? F.AUX_ID_CAPPED die) = true then d.siteDown die 0x0B else d := rfl
  rw [hcap, Dev.on?]
  by_cases h : d.get F.AUX_ID_CAPPED die = 0 <;> simp [h]

end

/-! Steps of the bring-up (R294, R296, R300) -/

/-- The descriptor that step 2 reads stands in AUX_DESC. -/
def Dev.descRead (d : Dev) (die : Nat) (x : Bytes) : Dev := (List.range 16).foldl (fun d' j => d'.setRaw ⟨.AUX_DESC, die, j, 0⟩ (field x (4 * j) 4)) d

theorem Dev.descRead_agree (d : Dev) (die : Nat) (x : Bytes) :
    Agree 0x400000000000000000000000000000000000000000000000000 d (d.descRead die x) :=
  Agree.foldl _ _ _ (fun _ _ h => Dev.setRaw_kp _ _ _ (by dsimp only; decide) h) (Agree.refl _ _)

theorem Agree.siteVer {μ : Nat} {d e : Dev} (h : Agree μ d e) (hf : μ.testBit 368 = false) (hr : μ.testBit Reg.HUB_LEVEL.ctorIdx = false)
    (die : Nat) (x : Bytes) : e.siteVer die x = d.siteVer die x := by
  have hdies : e.ndies = d.ndies := by rw [Dev.ndies, Dev.ndies, Dev.gf2, Dev.gf2, h.fuse hf]
  have hlevel : e.b0Level die = d.b0Level die := by simp only [Dev.b0Level, Dev.on?, hdies, Dev.dieB0, h.fuse hf, h.get F.HUB_LEVEL_B0OK hf hr]
  rw [Dev.siteVer, Dev.siteVer, hlevel]

section
variable (d : Dev) (die : Nat) (x : Bytes)

theorem Dev.descRead_cause : (d.descRead die x).descCause die x = d.descCause die x := by
  have h := d.descRead_agree die x
  simp only [Dev.descCause, h.siteVer rfl rfl, h.get F.AUX_ALLOW_VENDOR rfl rfl, h.get F.AUX_ALLOW_PRODUCT rfl rfl, h.get F.AUX_LIMIT_RATES rfl rfl,
    h.get F.AUX_LIMIT_PMAX rfl rfl]

theorem Dev.descCause_lt : d.descCause die x < 256 := by
  simp only [Dev.descCause]
  repeat' split
  all_goals decide

theorem topRate_lt (m : Nat) : topRate m < 8 := by
  rw [topRate]
  repeat' split
  all_goals decide

theorem Dev.siteVer_lt : d.siteVer die x < 4 := by
  rw [Dev.siteVer]
  repeat' split
  all_goals decide

/-- The site with its descriptor accepted: in TRAIN, at a rate and a version of the protocol. -/
def Dev.siteAccepts (d : Dev) (die : Nat) (x : Bytes) : Dev :=
  let d2 := d.put F.AUX_STAT_RATE (topRate (field x 11 1 &&& d.get F.AUX_LIMIT_RATES die)) die
  ((d2.put F.AUX_STAT_PVUSE (d2.siteVer die x) die).setAux die 1).modSite die fun x => { x with step := 3 }

theorem Dev.siteAccepts_accepts :
    let e := d.siteAccepts die x
    e.get F.AUX_STAT_STATE die = 1 ∧ (e.site die).step = 3 ∧ e.get F.AUX_STAT_RATE die = topRate (field x 11 1 &&& d.get F.AUX_LIMIT_RATES die) ∧
      e.get F.AUX_STAT_PVUSE die = d.siteVer die x := by
  have hver : (d.put F.AUX_STAT_RATE (topRate (field x 11 1 &&& d.get F.AUX_LIMIT_RATES die)) die).siteVer die x = d.siteVer die x :=
    (Dev.put_kp (μ := 0x1000000000000000000000000000000000000000000000000) _ _ _ _ _ _ rfl ((Within.refl _).up rfl) (Agree.refl _ _)).siteVer rfl rfl die x
  dsimp only
  rw [Dev.siteAccepts, Dev.modSite_read_get, Dev.modSite_read_get, Dev.modSite_read_get, Dev.modSite_site, Dev.setAux, hver]
  refine ⟨Dev.get_put_self _ _ _ _ _ _ (by decide) (by decide) (by decide), rfl, ?_, ?_⟩
  · rw [Dev.get_put_bits _ _ (by decide) (by decide) (by decide), Dev.get_put_bits _ _ (by decide) (by decide) (by decide)]
    exact Dev.get_put_self _ _ _ _ _ _ (by decide) (by decide) (topRate_lt _)
  · rw [Dev.get_put_bits _ _ (by decide) (by decide) (by decide)]
    exact Dev.get_put_self _ _ _ _ _ _ (by decide) (by decide) (Dev.siteVer_lt ..)

end

section
variable {d : Dev} {die : Nat} (r : SiteRes) (hup : d.carrierUp die = true)
include hup

/-- A step, by its number. -/
theorem Dev.siteStepEnd_eq : d.siteStepEnd die r =
    match (d.site die).step with
    | 1 => if r.ok then d.modSite die fun x => { x with step := 2 } else d.siteFail die 1
    | 2 =>
      let d1 := d.descRead die (slice r.desc 0 64)
      let c := d1.descCause die (slice r.desc 0 64)
      if c ≠ 0 then d1.siteFail die c else d1.siteAccepts die (slice r.desc 0 64)
    | 3 =>
      if r.ok then (d.setAux die 2).modSite die fun x => { x with step := 4 }
      else if (d.site die).tretry then d.siteFail die 7
      else d.modSite die fun x => { x with tretry := true }
    | 4 =>
      if r.errs ≤ bitsOf (d.raw ⟨.AUX_QCTL, die, 0, 0⟩) 31 24 then (d.siteUp die true).siteEnded die (d.site die).pend
      else if (d.site die).qretry then d.siteFail die 8
      else (d.setAux die 1).modSite die fun x => { x with step := 3, qretry := true }
    | 5 => if r.ok then (d.siteUp die false).siteEnded die (d.site die).pend else d.siteFail die 9
    | _ => d := if_neg (by simp [hup])

theorem Dev.siteStepEnd_sideband (h : (d.site die).step = 1) :
    let e := d.siteStepEnd die r
    if r.ok = true then (e.site die).step = 2 ∧ e.get F.AUX_STAT_STATE die = d.get F.AUX_STAT_STATE die
    else (d.site die).pend = none → e.siteIsDown die 1 := by
  dsimp only
  rw [Dev.siteStepEnd_eq r hup, h]
  dsimp only
  split
  · exact ⟨congrArg Site.step (Dev.modSite_site d die fun x => { x with step := 2 }), rfl⟩
  · exact d.siteFail_down die (by decide)

theorem Dev.siteStepEnd_descriptor (h : (d.site die).step = 2) :
    let e := d.siteStepEnd die r
    let x := slice r.desc 0 64
    if d.descCause die x ≠ 0 then (d.site die).pend = none → e.siteIsDown die (d.descCause die x)
    else e.get F.AUX_STAT_STATE die = 1 ∧ (e.site die).step = 3 ∧ e.get F.AUX_STAT_RATE die = topRate (field x 11 1 &&& d.get F.AUX_LIMIT_RATES die) ∧
      e.get F.AUX_STAT_PVUSE die = d.siteVer die x := by
  have hread := d.descRead_agree die (slice r.desc 0 64)
  dsimp only
  rw [Dev.siteStepEnd_eq r hup, h]
  dsimp only
  rw [Dev.descRead_cause]
  split
  · intro hpend
    exact Dev.siteFail_down _ die (d.descCause_lt die _) (by rwa [hread.site rfl])
  · rw [← hread.siteVer rfl rfl, ← hread.get F.AUX_LIMIT_RATES rfl rfl]
    exact Dev.siteAccepts_accepts ..

theorem Dev.siteStepEnd_train (h : (d.site die).step = 3) :
    let e := d.siteStepEnd die r
    if r.ok = true then e.get F.AUX_STAT_STATE die = 2 ∧ (e.site die).step = 4
    else if (d.site die).tretry = true then (d.site die).pend = none → e.siteIsDown die 7
    else e.get F.AUX_STAT_STATE die = d.get F.AUX_STAT_STATE die ∧ (e.site die).step = 3 ∧ (e.site die).tretry = true := by
  dsimp only
  rw [Dev.siteStepEnd_eq r hup, h]
  dsimp only
  split
  · exact ⟨Dev.get_put_self _ _ _ _ _ _ (by decide) (by decide) (by decide), congrArg Site.step (Dev.modSite_site _ die fun x => { x with step := 4 })⟩
  · split
    · exact d.siteFail_down die (by decide)
    · have hsite := Dev.modSite_site d die fun x => { x with tretry := true }
      exact ⟨rfl, (congrArg Site.step hsite).trans h, congrArg Site.tretry hsite⟩

theorem Dev.siteStepEnd_qualify (h : (d.site die).step = 4) :
    let e := d.siteStepEnd die r
    if r.errs ≤ bitsOf (d.raw ⟨.AUX_QCTL, die, 0, 0⟩) 31 24 then
      (d.site die).pend = none → e.get F.AUX_STAT_STATE die = 3 ∧ e.get F.AUX_CTL_FENCE die = 0 ∧ (e.site die).step = 0 ∧
        e.get F.AUX_WIN_WLOG2 die = field (d.auxDesc die) 12 1 % 64
    else if (d.site die).qretry = true then (d.site die).pend = none → e.siteIsDown die 8
    else e.get F.AUX_STAT_STATE die = 1 ∧ (e.site die).step = 3 ∧ (e.site die).qretry = true := by
  dsimp only
  rw [Dev.siteStepEnd_eq r hup, h]
  dsimp only
  split
  · intro hpend
    rw [hpend]
    obtain ⟨hst, hfence, hwin, hstep⟩ := d.siteUp_up die true
    exact ⟨hst, hfence, hstep, hwin⟩
  · split
    · exact d.siteFail_down die (by decide)
    · refine ⟨Dev.get_put_self _ _ _ _ _ _ (by decide) (by decide) (by decide), ?_⟩
      have hsite := Dev.modSite_site (d.setAux die 1) die fun x => { x with step := 3, qretry := true }
      exact ⟨congrArg Site.step hsite, congrArg Site.qretry hsite⟩

theorem Dev.siteStepEnd_recover (h : (d.site die).step = 5) :
    let e := d.siteStepEnd die r
    if r.ok = true then
      (d.site die).pend = none → e.get F.AUX_STAT_STATE die = 3 ∧ e.get F.AUX_CTL_FENCE die = 0 ∧ (e.site die).link.rx = (d.site die).link.rx
    else (d.site die).pend = none → e.siteIsDown die 9 := by
  dsimp only
  rw [Dev.siteStepEnd_eq r hup, h]
  dsimp only
  split
  · intro hpend
    rw [hpend]
    obtain ⟨hst, hfence, -, -⟩ := d.siteUp_up die false
    exact ⟨hst, hfence, d.siteUp_rx die⟩
  · exact d.siteFail_down die (by decide)

theorem Dev.siteStepEnd_idle (h : (d.site die).step = 0 ∨ 5 < (d.site die).step) : d.siteStepEnd die r = d := by
  rw [Dev.siteStepEnd_eq r hup]
  obtain h | h := h
  · rw [h]
    rfl
  · obtain ⟨n, hn⟩ := Nat.exists_eq_add_of_le' (Nat.succ_le_of_lt h)
    rw [hn]
    rfl

end

/-! Flits of a site (R295) -/

theorem siteFlitBad_iff (f : Bytes) : flitBad f [1, 2, 3, 4] ↔
    flitCrc f ≠ bitsOf (flitTag f) 63 40 ∨ ∃ s ∈ (flitSlots f).filter fun s => s.1 != 0, 4 < s.1 := flitBad_upTo f 4

/-- The slots of a code that a flit has delivered. -/
def FlitOut.lines (o : FlitOut) (code : Nat) : List Bytes := (o.slots.filter fun x => x.1 == code).map (·.2)

/-- The headers in those slots, as requests or answers whose lines are still to come. -/
def FlitOut.headers (o : FlitOut) (code : Nat) : List SReq := ((o.lines code).flatMap slotHdrs).map fun h => ⟨h, []⟩

/-- The requests of the site after a flit: complete, and still short of lines. -/
def Site.asked (s : Site) (o : FlitOut) : List SReq × List SReq := takeFull (fillLines (s.hdrs ++ o.headers 1) (o.lines 2))

/-- Its answers after a flit. -/
def Site.answered (s : Site) (o : FlitOut) : List SReq × List SReq := takeFull (fillLines (s.answers ++ o.headers 3) (o.lines 4))

/-- The adapter with what a flit has delivered. -/
def Site.takes (s : Site) (o : FlitOut) : Site :=
  { s with link := o.link, hdrs := (s.asked o).2, reqs := s.reqs ++ (s.asked o).1, answers := (s.answered o).2 }

/-- The package with a flit of the site received and counted; its complete answers are still to be passed on. -/
def Dev.siteCounts (d : Dev) (die : Nat) (o : FlitOut) : Dev :=
  ((d.setSite die ((d.site die).takes o)).countIf o.bad F.AUX_NCRC_COUNT die 0).countIf o.replay F.AUX_NREPLAY_COUNT die 0

/-- The package with those answers passed on too. -/
def Dev.siteTakes (d : Dev) (die : Nat) (o : FlitOut) : Dev :=
  ((d.site die).answered o).1.foldl (fun d' a => d'.siteAnswer die a) (d.siteCounts die o)

section
variable {d : Dev} {die : Nat} (f : Bytes)

theorem Dev.siteFlit_capped (h : d.get F.AUX_ID_CAPPED die ≠ 0) : d.siteFlit die f = d := if_pos (by simp [Dev.on?, h])

theorem Dev.siteFlit_fenced (hup : d.carrierUp die = true) (hcap : ¬ d.get F.AUX_ID_CAPPED die ≠ 0) (h : d.get F.AUX_STAT_STATE die ≠ 3) :
    d.siteFlit die f = d.countSat F.AUX_DROP_COUNT 1 die := (if_neg (by simpa [Dev.on?, hup] using hcap)).trans (if_pos h)

theorem Dev.siteFlit_serves (hup : d.carrierUp die = true) (hcap : ¬ d.get F.AUX_ID_CAPPED die ≠ 0) (h : ¬ d.get F.AUX_STAT_STATE die ≠ 3) :
    let o := (d.site die).link.receive f [1, 2, 3, 4]
    let e := d.siteTakes die o
    d.siteFlit die f = if o.replay = true ∧ e.get F.AUX_RLIM_LIMIT die ≤ o.link.nakRun then e.siteRecover die else e := by
  refine ((if_neg (by simpa [Dev.on?, hup] using hcap)).trans (if_neg h)).trans (if_congr ?_ rfl rfl)
  rw [Bool.and_eq_true, decide_eq_true_eq]
  rfl

end

section
variable (d : Dev) (die : Nat)

theorem Dev.siteAnswer_link (a : SReq) : ((d.siteAnswer die a).site die).link = (d.site die).link := by
  rw [Dev.siteAnswer]
  dsimp only
  split
  · rfl
  next w _ =>
    have hmod := congrArg Site.link (Dev.modSite_site d die fun s => { s with win := s.win.erase w })
    split <;> exact hmod

theorem Dev.foldl_siteAnswer_link (as : List SReq) : ((as.foldl (fun d' a => d'.siteAnswer die a) d).site die).link = (d.site die).link := by
  induction as generalizing d with
  | nil => rfl
  | cons a as ih => exact (ih _).trans (d.siteAnswer_link die a)

theorem Dev.siteTakes_agree (o : FlitOut) :
    Agree 0x10000004000000000000000000000000000000000000000000000200000000000000000000000000000000000000000000000000 (d.siteCounts die o) (d.siteTakes die o) :=
  Agree.foldl _ _ _ (fun _ _ h => Dev.siteAnswer_kp _ _ _ (Within.refl _) h) (Agree.refl _ _)

theorem Dev.siteCounts_site (o : FlitOut) : (d.siteCounts die o).site die = (d.site die).takes o := by
  refine Eq.trans ?_ (Dev.setSite_site_self d die _)
  rw [Dev.siteCounts, Dev.countIf, Dev.countIf]
  split <;> split <;> rfl

theorem Dev.siteTakes_link (o : FlitOut) : ((d.siteTakes die o).site die).link = o.link :=
  (Dev.foldl_siteAnswer_link ..).trans (congrArg Site.link (d.siteCounts_site die o))

theorem Dev.siteTakes_state (o : FlitOut) : (d.siteTakes die o).get F.AUX_STAT_STATE die = d.get F.AUX_STAT_STATE die := by
  rw [(Dev.siteTakes_agree ..).get F.AUX_STAT_STATE rfl rfl, Dev.siteCounts, Dev.countIf_get_reg _ _ _ _ _ _ (by decide) (by decide) (by decide),
    Dev.countIf_get_reg _ _ _ _ _ _ (by decide) (by decide) (by decide)]
  rfl

theorem Dev.siteTakes_limit (o : FlitOut) : (d.siteTakes die o).get F.AUX_RLIM_LIMIT die = d.get F.AUX_RLIM_LIMIT die := by
  rw [(Dev.siteTakes_agree ..).get F.AUX_RLIM_LIMIT rfl rfl, Dev.siteCounts, Dev.countIf_get_reg _ _ _ _ _ _ (by decide) (by decide) (by decide),
    Dev.countIf_get_reg _ _ _ _ _ _ (by decide) (by decide) (by decide)]
  rfl

theorem Dev.siteTakes_rejects (o : FlitOut) : (d.siteTakes die o).get F.AUX_NCRC_COUNT die =
    if o.bad = true then satAdd 32 (d.get F.AUX_NCRC_COUNT die) 1 else d.get F.AUX_NCRC_COUNT die := by
  rw [(Dev.siteTakes_agree ..).get F.AUX_NCRC_COUNT rfl rfl, Dev.siteCounts, Dev.countIf_get_reg _ _ _ _ _ _ (by decide) (by decide) (by decide),
    Dev.countIf_get _ _ _ _ (by decide) (by decide) (w := 32) rfl]
  rfl

theorem Dev.siteTakes_replays (o : FlitOut) : (d.siteTakes die o).get F.AUX_NREPLAY_COUNT die =
    if o.replay = true then satAdd 32 (d.get F.AUX_NREPLAY_COUNT die) 1 else d.get F.AUX_NREPLAY_COUNT die := by
  rw [(Dev.siteTakes_agree ..).get F.AUX_NREPLAY_COUNT rfl rfl, Dev.siteCounts, Dev.countIf_get _ _ _ _ (by decide) (by decide) (w := 32) rfl,
    Dev.countIf_get_reg _ _ _ _ _ _ (by decide) (by decide) (by decide)]
  rfl

theorem Dev.siteRecover_link : ((d.siteRecover die).site die).link = (d.site die).link := by
  rw [Dev.siteRecover, Dev.modSite_site]
  rfl

end

/-- Whether a flit of the site is discarded, and what it counts. -/
theorem FLink.receive_isBad (l : FLink) (f : Bytes) (codes : List Nat) : (l.receive f codes).bad = true ↔ flitBad f codes := by
  constructor
  · intro h
    by_contra hgood
    rw [FLink.receive_good _ hgood] at h
    split at h
    · exact Bool.noConfusion h
    · split at h <;> exact Bool.noConfusion h
  · intro h
    rw [FLink.receive_bad _ h]

section
variable {d : Dev} {die : Nat} (f : Bytes) (hup : d.carrierUp die = true) (hcap : ¬ d.get F.AUX_ID_CAPPED die ≠ 0)
  (hst : ¬ d.get F.AUX_STAT_STATE die ≠ 3)
include hup hcap hst

/-- A flit leaves the layer, the counters and the limit as taken; RECOVER changes none of them. -/
theorem Dev.siteFlit_agree : Agree 0x10000000000000000000000000000000000000000000000000000009000000000000000000000000000000000000000000000000
    (d.siteTakes die ((d.site die).link.receive f [1, 2, 3, 4])) (d.siteFlit die f) := by
  rw [Dev.siteFlit_serves f hup hcap hst]
  exact Agree.ite (Dev.siteRecover_kp _ _ (Within.refl _) (Agree.refl _ _)) (Agree.refl _ _)

theorem Dev.siteFlit_link : ((d.siteFlit die f).site die).link = ((d.site die).link.receive f [1, 2, 3, 4]).link := by
  rw [Dev.siteFlit_serves f hup hcap hst]
  split
  · exact (Dev.siteRecover_link ..).trans (Dev.siteTakes_link ..)
  · exact Dev.siteTakes_link ..

theorem Dev.siteFlit_bad (h : flitBad f [1, 2, 3, 4]) :
    ((d.siteFlit die f).site die).link.rx = (d.site die).link.rx ∧
      (d.siteFlit die f).get F.AUX_NCRC_COUNT die = satAdd 32 (d.get F.AUX_NCRC_COUNT die) 1 ∧ (d.siteFlit die f).get F.AUX_STAT_STATE die = 3 := by
  have hrun := Dev.siteFlit_serves f hup hcap hst
  refine ⟨?_, ?_, ?_⟩
  · rw [Dev.siteFlit_link f hup hcap hst, FLink.receive_bad _ h]
    exact FLink.nakNow_rx _
  · rw [(Dev.siteFlit_agree f hup hcap hst).get F.AUX_NCRC_COUNT rfl rfl, Dev.siteTakes_rejects]
    exact if_pos ((FLink.receive_isBad ..).mpr h)
  · rw [hrun]
    refine (congrArg (Dev.get · F.AUX_STAT_STATE die) (if_neg ?_)).trans ((Dev.siteTakes_state ..).trans (not_not.mp hst))
    rw [FLink.receive_bad _ h]
    exact fun hreplay => Bool.noConfusion hreplay.1

theorem Dev.siteFlit_good (h : ¬ flitBad f [1, 2, 3, 4]) : (d.siteFlit die f).get F.AUX_NCRC_COUNT die = d.get F.AUX_NCRC_COUNT die := by
  rw [(Dev.siteFlit_agree f hup hcap hst).get F.AUX_NCRC_COUNT rfl rfl, Dev.siteTakes_rejects]
  exact if_neg (mt (FLink.receive_isBad ..).mp h)

theorem Dev.siteFlit_nak (h : ¬ flitBad f [1, 2, 3, 4]) (hnak : bitsOf (flitTag f) 19 18 = 2) :
    (d.siteFlit die f).get F.AUX_NREPLAY_COUNT die = satAdd 32 (d.get F.AUX_NREPLAY_COUNT die) 1 ∧
      if d.get F.AUX_RLIM_LIMIT die ≤ ((d.site die).link.receive f [1, 2, 3, 4]).link.nakRun then (d.siteFlit die f).siteRecovers die
      else (d.siteFlit die f).get F.AUX_STAT_STATE die = 3 := by
  have hrun := Dev.siteFlit_serves f hup hcap hst
  have hreplay : ((d.site die).link.receive f [1, 2, 3, 4]).replay = true := by
    rw [FLink.receive_replay _ h, hnak]
    rfl
  refine ⟨?_, ?_⟩
  · rw [(Dev.siteFlit_agree f hup hcap hst).get F.AUX_NREPLAY_COUNT rfl rfl, Dev.siteTakes_replays]
    exact if_pos hreplay
  · rw [hrun]
    rw [Dev.siteTakes_limit]
    split
    next hlim =>
      rw [if_pos ⟨hreplay, hlim⟩]
      exact Dev.siteRecover_recovers ..
    next hlim =>
      rw [if_neg fun h' => hlim h'.2, Dev.siteTakes_state]
      exact not_not.mp hst

end

/-! Requests, tumbler writes and the window (R297–R299) -/

section
variable {d : Dev} {die : Nat} {r : SReq} {rs : List SReq}

/-- The adapter refuses a request: its header has reserved bits set, or asks for what the protocol's version does not have. -/
def Dev.siteRefuses (d : Dev) (die : Nat) (h : Bytes) : Prop :=
  hdrReserved h = true ∨ (hasBit (field h 1 1) 7 = true ∧ (field h 0 1 < 4 ∨ d.get F.AUX_STAT_PVUSE die ≠ 2))

theorem Dev.siteRequest_none (h : (d.site die).reqs = []) : d.siteRequest die = d := by
  rw [Dev.siteRequest, h]

theorem Dev.siteRequest_down (h : (d.site die).reqs = r :: rs) (hst : d.get F.AUX_STAT_STATE die ≠ 3) : d.siteRequest die = d := by
  rw [Dev.siteRequest, h]
  exact if_pos hst

theorem Dev.siteRefuses_iff (h : Bytes) :
    (hdrReserved h || (hasBit (field h 1 1) 7 && (field h 0 1 < 4 || d.get F.AUX_STAT_PVUSE die != 2))) = true ↔ d.siteRefuses die h := by
  simp [Dev.siteRefuses]

theorem Dev.siteRequest_refused (h : (d.site die).reqs = r :: rs) (hst : ¬ d.get F.AUX_STAT_STATE die ≠ 3) (hbad : d.siteRefuses die r.hdr) :
    d.siteRequest die = (d.setSite die { d.site die with reqs := rs }).siteSend die (rspHdr r.hdr 0x0A statProto) [] := by
  rw [Dev.siteRequest, h]
  exact (if_neg hst).trans (if_pos (Dev.siteRefuses_iff _ |>.mpr hbad))

theorem Dev.siteRequest_full (h : (d.site die).reqs = r :: rs) (hst : ¬ d.get F.AUX_STAT_STATE die ≠ 3) (hgood : ¬ d.siteRefuses die r.hdr)
    (hbusy : field (d.auxDesc die) 14 2 ≤ (d.site die).busy) : d.siteRequest die = d := by
  rw [Dev.siteRequest, h]
  exact (if_neg hst).trans ((if_neg (mt (Dev.siteRefuses_iff _).mp hgood)).trans (if_pos hbusy))

/-- What is sent leaves the queue of requests. -/
theorem Dev.siteSend_reqs (d : Dev) (die : Nat) (s : Site) (hdr : Bytes) (lines : List Bytes) :
    (((d.setSite die s).siteSend die hdr lines).site die).reqs = s.reqs := by
  rw [Dev.siteSend_site, Dev.setSite_site_self]

theorem Dev.siteRequest_taken (h : (d.site die).reqs = r :: rs) (hst : ¬ d.get F.AUX_STAT_STATE die ≠ 3) (hgood : ¬ d.siteRefuses die r.hdr)
    (hbusy : ¬ field (d.auxDesc die) 14 2 ≤ (d.site die).busy) : ((d.siteRequest die).site die).reqs = rs := by
  rw [Dev.siteRequest, h]
  dsimp only
  generalize (if field r.hdr 0 1 = 4 ∨ field r.hdr 0 1 = 5 then 1 else bitsOf (field r.hdr 1 1) 4 0 + 1) = n
  rw [if_neg (show ¬ d.auxSt die ≠ 3 from hst), if_neg (mt (Dev.siteRefuses_iff _).mp hgood), if_neg hbusy]
  split
  · split
    · exact Dev.siteSend_reqs ..
    · split
      · exact Dev.siteSend_reqs ..
      · rw [Dev.setSite_site_self]
  · split
    · exact Dev.siteSend_reqs ..
    · rw [Dev.setSite_site_self]

/-- A write of the site that is still to be acknowledged. -/
def Site.writesOut (s : Site) : Bool := s.issued.any fun o => field o.hdr 0 1 == 2 || field o.hdr 0 1 == 3 || field o.hdr 0 1 == 5

theorem Dev.siteAdd_none (h : (d.site die).adds = []) : d.siteAdd die = d := by
  rw [Dev.siteAdd, h]

theorem Dev.siteAdd_waits (h : (d.site die).adds = r :: rs) (hwait : d.get F.AUX_STAT_STATE die ≠ 3 ∨ (d.site die).writesOut = true) :
    d.siteAdd die = d := by
  rw [Dev.siteAdd, h]
  refine if_pos ?_
  rw [Bool.or_eq_true, bne_iff_ne]
  exact hwait.symm

theorem Dev.siteAdd_sends (h : (d.site die).adds = r :: rs) (hgo : ¬ (d.get F.AUX_STAT_STATE die ≠ 3 ∨ (d.site die).writesOut = true)) :
    d.siteAdd die =
      (d.setSite die { d.site die with adds := rs, addOut := (d.site die).addOut ++ [(r, gpaDie (field r.hdr 8 8), gpaOff (field r.hdr 8 8) / 4)] }).send
        ⟨.site die, .bank (gpaDie (field r.hdr 8 8)), 3, 0, 0, (Ep.site die).peer,
          tumbField (gpaDie (field r.hdr 8 8)) (gpaOff (field r.hdr 8 8) / 4) (48 + die), field (r.lines.headD []) 0 4 % 2 ^ 22, 0⟩ := by
  rw [Dev.siteAdd, h]
  refine if_neg ?_
  rw [Bool.or_eq_true, bne_iff_ne]
  exact fun hwait => hgo hwait.symm

theorem Dev.windowTimeout_none (h : (d.site die).win = []) : d.windowTimeout die = d := by
  rw [Dev.windowTimeout, h]

variable {w : Nat × Txn × Nat} {ws : List (Nat × Txn × Nat)}

theorem Dev.windowTimeout_early (h : (d.site die).win = w :: ws)
    (hin : ¬ (d.get F.AUX_STAT_STATE die = 3 ∧ d.late die w.2.2 (ceilDiv (4 * field (d.auxDesc die) 16 2) 1000) = true)) : d.windowTimeout die = d := by
  rw [Dev.windowTimeout, h]
  exact if_neg hin

theorem Dev.windowTimeout_late (h : (d.site die).win = w :: ws)
    (hlate : d.get F.AUX_STAT_STATE die = 3 ∧ d.late die w.2.2 (ceilDiv (4 * field (d.auxDesc die) 16 2) 1000) = true) :
    d.windowTimeout die = ((d.setSite die { d.site die with win := ws }).pathFail die w.2.1).siteRecover die := by
  rw [Dev.windowTimeout, h]
  exact if_pos hlate

end

/-- Settles O50: the site's commands, steps, flits, requests, tumbler writes, window and sideband, each by its cases. -/
theorem auxiliarySite : Obligations.AuxiliarySite := by
  intro die
  refine ⟨Effect.siteTrain_of _ fun d _ _ => ?_, Effect.siteHold_of _ fun d _ _ => ?_, fun r => Effect.siteBringupStepEnd_of _ _ fun d _ hup => ?_,
    fun f => Effect.siteFlitReceive_of _ _ fun d _ hup => ?_, Effect.siteRequest_of _ fun d _ _ => ?_, Effect.siteTumblerWrite_of _ fun d _ _ => ?_,
    Effect.siteRequestTimeout_of _ fun d _ _ => ?_, Effect.siteSidebandLoss_of _ fun d _ _ => ?_⟩
  · dsimp only
    split
    next h =>
      rw [Dev.auxCtlWrite_waits (.inl rfl) h]
      split
      · rfl
      · exact Dev.siteHolds_holds
    next h =>
      have hcmd : d.auxCtlWrite die 1 = d.siteTrain die := Dev.auxCtlWrite_acts (.inl rfl) h
      rw [hcmd]
      split
      next hcap => exact Dev.siteTrain_capped hcap
      next hcap => exact Dev.siteTrain_begins hcap
  · dsimp only
    split
    next h =>
      rw [Dev.auxCtlWrite_waits (.inr rfl) h]
      split
      · rfl
      · exact Dev.siteHolds_holds
    next h =>
      rw [Dev.auxCtlWrite_acts (.inr rfl) h, Dev.siteCmd_hold]
      split
      · rfl
      · exact d.siteDown_down die (by decide)
  · have hup := Place.ofCarrier_up hup
    exact ⟨Dev.siteStepEnd_sideband r hup, Dev.siteStepEnd_descriptor r hup, Dev.siteStepEnd_train r hup, Dev.siteStepEnd_qualify r hup,
      Dev.siteStepEnd_recover r hup, Dev.siteStepEnd_idle r hup⟩
  · have hup := Place.ofCarrier_up hup
    dsimp only
    split
    next hcap => exact Dev.siteFlit_capped f hcap
    next hcap =>
      split
      next hst =>
        rw [Dev.siteFlit_fenced f hup hcap hst]
        exact ⟨Dev.get_countSat _ _ _ _ _ _ (by decide) (by decide), rfl, rfl⟩
      next hst =>
        rw [← siteFlitBad_iff]
        exact ⟨Dev.siteFlit_link f hup hcap hst, Dev.siteFlit_bad f hup hcap hst, Dev.siteFlit_good f hup hcap hst, Dev.siteFlit_nak f hup hcap hst⟩
  · dsimp only
    split
    next h => exact Dev.siteRequest_none h
    next r rs h =>
      split
      next hst => exact Dev.siteRequest_down h hst
      next hst =>
        split
        next hbad =>
          rw [Dev.siteRequest_refused h hst hbad, Dev.siteSend_site, Dev.setSite_site_self]
          exact ⟨rfl, rfl, rfl⟩
        next hgood =>
          split
          next hbusy => exact Dev.siteRequest_full h hst hgood hbusy
          next hbusy => exact Dev.siteRequest_taken h hst hgood hbusy
  · dsimp only
    split
    next h => exact Dev.siteAdd_none h
    next r rs h =>
      split
      next hwait => exact Dev.siteAdd_waits h hwait
      next hgo =>
        have hsite := Dev.setSite_site_self d die
          { d.site die with adds := rs, addOut := (d.site die).addOut ++ [(r, gpaDie (field r.hdr 8 8), gpaOff (field r.hdr 8 8) / 4)] }
        rw [Dev.siteAdd_sends h hgo]
        exact ⟨congrArg Site.adds hsite, congrArg Site.addOut hsite, rfl⟩
  · dsimp only
    split
    next h => exact Dev.windowTimeout_none h
    next w ws h =>
      split
      next hlate =>
        have hpath := Dev.pathFail_kp (d.setSite die { d.site die with win := ws }) die w.2.1 (Within.refl _) (Agree.refl _ _)
        rw [Dev.windowTimeout_late h hlate]
        refine ⟨Dev.siteRecover_recovers .., ?_⟩
        rw [Dev.siteRecover, Dev.modSite_site]
        exact congrArg Site.win ((hpath.site rfl die).trans (Dev.setSite_site_self ..))
      next hin => exact Dev.windowTimeout_early h hin
  · dsimp only
    split
    next h =>
      have hdown : d.siteSideband die = d.siteDown die 1 := if_pos h
      rw [hdown]
      exact d.siteDown_down die (by decide)
    next h => exact if_neg h

end Sys2Proof.Machine
end

section
/-!
SUPPORT for O51–O53: lanes and package-link ports. What a change of one leaves of the others; that a port which goes DOWN takes no lane with it and drops no
command; and what follows an event of a lane (`Dev.laneAfter`) when its port is not in TRAIN.
-/
namespace Sys2Proof.Machine

/-! Lanes and ports, after a change -/

section
variable (d : Dev)

@[simp] theorem Dev.modLane_lane_self (die l : Nat) (f : Lane → Lane) : (d.modLane die l f).lane die l = f (d.lane die l) := Dev.setLane_lane_self ..
@[simp] theorem Dev.modLane_read_get (die l : Nat) (f : Lane → Lane) (g : Fld) (die' i s : Nat) : (d.modLane die l f).get g die' i s = d.get g die' i s := rfl
@[simp] theorem Dev.modLane_read_raw (die l : Nat) (f : Lane → Lane) (k : RKey) : (d.modLane die l f).raw k = d.raw k := rfl
@[simp] theorem Dev.modLane_read_port (die l : Nat) (f : Lane → Lane) (p : Nat) : (d.modLane die l f).port p = d.port p := rfl
@[simp] theorem Dev.modLane_read_tick (die l : Nat) (f : Lane → Lane) (die' : Nat) : (d.modLane die l f).tick die' = d.tick die' := rfl

theorem Dev.modLane_lane (die l : Nat) (f : Lane → Lane) (die' l' : Nat) :
    (d.modLane die l f).lane die' l' = if (die', l') = (die, l) then f (d.lane die l) else d.lane die' l' := KMap.atD_put ..

@[simp] theorem Dev.modPort_port_self (p : Nat) (f : PPort → PPort) : (d.modPort p f).port p = f (d.port p) := Dev.setPort_port_self ..
@[simp] theorem Dev.modPort_read_get (p : Nat) (f : PPort → PPort) (g : Fld) (die i s : Nat) : (d.modPort p f).get g die i s = d.get g die i s := rfl
@[simp] theorem Dev.modPort_read_raw (p : Nat) (f : PPort → PPort) (k : RKey) : (d.modPort p f).raw k = d.raw k := rfl
@[simp] theorem Dev.modPort_read_lane (p : Nat) (f : PPort → PPort) (die l : Nat) : (d.modPort p f).lane die l = d.lane die l := rfl
@[simp] theorem Dev.modPort_read_tick (p : Nat) (f : PPort → PPort) (die : Nat) : (d.modPort p f).tick die = d.tick die := rfl

theorem Dev.setPort_port (p : Nat) (x : PPort) (q : Nat) : (d.setPort p x).port q = if q = p then x else d.port q := KMap.atD_put ..

end

section
variable {μ : Nat} {d e : Dev} (h : Agree μ d e)
include h

theorem Agree.lane (hp : μ.testBit 416 = false) (die l : Nat) : e.lane die l = d.lane die l := by
  rw [Dev.lane, Dev.lane, h.lanes hp]

theorem Agree.port (hp : μ.testBit 417 = false) (p : Nat) : e.port p = d.port p := by
  rw [Dev.port, Dev.port, h.ports hp]

theorem Agree.laneHere (hf : μ.testBit 368 = false) (hr : μ.testBit Reg.SER_PRES.ctorIdx = false) (hp : μ.testBit 369 = false) (die l : Nat) :
    e.laneHere die l = d.laneHere die l := by
  rw [Dev.laneHere, Dev.laneHere, h.get F.SER_PRES_LANES hf hr, Dev.carrierUp, Dev.carrierUp, Dev.pwOf, Dev.pwOf, h.pw hp]

theorem Agree.laneOf (hf : μ.testBit 368 = false) (hr : μ.testBit Reg.PLK_RESERVE.ctorIdx = false) (p i : Nat) : e.laneOf p i = d.laneOf p i := by
  unfold Dev.laneOf Dev.on?
  dsimp only
  rw [h.get F.PLK_RESERVE_INUSE hf hr, h.get F.PLK_RESERVE_PORT hf hr, h.get F.PLK_RESERVE_LIDX hf hr]

theorem Agree.lanePort (hf : μ.testBit 368 = false) (hr : μ.testBit Reg.PLK_RESERVE.ctorIdx = false) (die l : Nat) :
    e.lanePort die l = d.lanePort die l := by
  unfold Dev.lanePort Dev.on?
  rw [h.laneOf hf hr, h.get F.PLK_RESERVE_INUSE hf hr, h.get F.PLK_RESERVE_PORT hf hr, h.get F.PLK_RESERVE_LIDX hf hr]

theorem Agree.portSt (hf : μ.testBit 368 = false) (hr : μ.testBit Reg.PLK_PSTAT.ctorIdx = false) (p : Nat) : e.portSt p = d.portSt p :=
  h.get F.PLK_PSTAT_STATE hf hr ..

theorem Agree.portMask (hf : μ.testBit 368 = false) (hr : μ.testBit Reg.PLK_PSTAT.ctorIdx = false) (p : Nat) : e.portMask p = d.portMask p :=
  h.get F.PLK_PSTAT_LANES hf hr ..

end

/-! A port that goes DOWN: its lanes and the command it holds -/

/-- Lanes keep everything but the request to doze; ports keep the command that they hold. -/
structure Dev.LinksKept (d e : Dev) : Prop where
  lane : ∀ die l, e.lane die l = { d.lane die l with doze := (e.lane die l).doze }
  pend : ∀ p, (e.port p).pend = (d.port p).pend

section
variable {a b c d e : Dev}

theorem Dev.LinksKept.refl (d : Dev) : d.LinksKept d := ⟨fun _ _ => rfl, fun _ => rfl⟩

theorem Dev.LinksKept.trans (h : a.LinksKept b) (g : b.LinksKept c) : a.LinksKept c := by
  refine ⟨fun die l => ?_, fun p => (g.pend p).trans (h.pend p)⟩
  have hb := h.lane die l
  have hc := g.lane die l
  rw [hb] at hc
  exact hc

theorem Agree.linksKept {μ : Nat} (h : Agree μ d e) (hl : μ.testBit 416 = false) (hp : μ.testBit 417 = false) : d.LinksKept e :=
  ⟨fun die l => by rw [h.lane hl], fun p => by rw [h.port hp]⟩

theorem Dev.LinksKept.foldl {α : Type} {f : Dev → α → Dev} (hf : ∀ (d : Dev) x, d.LinksKept (f d x)) (xs : List α) (d : Dev) : d.LinksKept (xs.foldl f d) := by
  induction xs generalizing d with
  | nil => exact .refl d
  | cons x xs ih => exact (hf d x).trans (ih _)

end

section
variable (d : Dev)

theorem Dev.setPort_linksKept (p : Nat) (x : PPort) (hx : x.pend = (d.port p).pend) : d.LinksKept (d.setPort p x) := by
  refine ⟨fun _ _ => rfl, fun q => ?_⟩
  rw [Dev.setPort_port]
  split
  next hq => rw [hq, hx]
  next => rfl

theorem Dev.modPort_linksKept (p : Nat) (f : PPort → PPort) (hf : ∀ x, (f x).pend = x.pend) : d.LinksKept (d.modPort p f) :=
  Dev.setPort_linksKept _ _ _ (hf _)

theorem Dev.undoze_linksKept (die l : Nat) : d.LinksKept (d.modLane die l fun x => { x with doze := false }) := by
  refine ⟨fun die' l' => ?_, fun _ => rfl⟩
  rw [Dev.modLane_lane]
  split
  next hk =>
    obtain ⟨rfl, rfl⟩ := Prod.mk.inj hk
    rfl
  next => rfl

theorem Dev.portUndoze_linksKept (p : Nat) : d.LinksKept (d.portUndoze p) :=
  Dev.LinksKept.foldl (fun _ _ => Dev.undoze_linksKept ..) _ _

theorem Dev.portWire_linksKept (p : Nat) (bs : Bytes) : d.LinksKept (d.portWire p bs) := by
  rw [Dev.portWire]
  exact Dev.modPort_linksKept _ _ _ (by intro _; rfl)

theorem Dev.put_linksKept (f : Fld) (v die i s : Nat) : d.LinksKept (d.put f v die i s) := ⟨fun _ _ => rfl, fun _ => rfl⟩

theorem Dev.portPump_linksKept (p fuel : Nat) : d.LinksKept (d.portPump p fuel) := by
  induction fuel generalizing d with
  | zero => exact .refl d
  | succ fuel ih =>
    rw [Dev.portPump]
    dsimp only
    split
    · exact .refl d
    · split
      · exact .refl d
      · exact (((Dev.setPort_linksKept _ _ _ (by rfl)).trans (Dev.portWire_linksKept ..)).trans
          ((Dev.put_linksKept ..).trans (Dev.put_linksKept ..))).trans (ih _)

theorem Dev.portSend_linksKept (p sub : Nat) (m : LMsg) : d.LinksKept (d.portSend p sub m) := by
  rw [Dev.portSend, Dev.portRun]
  refine Dev.LinksKept.trans ?_ (Dev.portPump_linksKept ..)
  exact (Dev.portUndoze_linksKept d p).trans (Dev.modPort_linksKept _ _ _ (by intro _; rfl))

theorem Dev.portTrk_linksKept (p : Nat) : d.LinksKept (d.portTrk p) := by
  rw [Dev.portTrk]
  exact (Dev.put_linksKept d _ _ _ _ _).trans (Dev.put_linksKept _ _ _ _ _ _)

theorem Dev.answerIn_linksKept (p itag kind : Nat) (hdr lines : Bytes) : d.LinksKept (d.answerIn p itag kind hdr lines) := by
  rw [Dev.answerIn]
  split
  · exact Dev.put_linksKept ..
  · exact ((Dev.modPort_linksKept _ _ _ (by intro _; rfl)).trans (Dev.portTrk_linksKept ..)).trans (Dev.portSend_linksKept ..)

/-- The package without an outbound entry, which is counted as failed at its port and, where a die has sent it, no longer there. -/
def Dev.otrkFreed (d : Dev) (p : Nat) (o : OTrk) : Dev :=
  let d1 := ((d.modPort p fun x => { x with otrk := x.otrk.filter fun y => y.tag != o.tag }).portTrk p).countSat F.PLK_NFAIL_COUNT 1 (portDie p)
  match o.who.die with | some s => d1.outFall s o.pkg | none => d1

theorem Dev.otrkFreed_linksKept (p : Nat) (o : OTrk) : d.LinksKept (d.otrkFreed p o) := by
  have hfree : d.LinksKept (((d.modPort p fun x => { x with otrk := x.otrk.filter fun y => y.tag != o.tag }).portTrk p).countSat F.PLK_NFAIL_COUNT 1 (portDie p)) :=
    ((Dev.modPort_linksKept _ _ _ (by intro _; rfl)).trans (Dev.portTrk_linksKept ..)).trans (Dev.put_linksKept ..)
  rw [Dev.otrkFreed]
  split
  · exact hfree.trans (Dev.put_linksKept ..)
  · exact hfree

theorem Dev.otrkFail_eq (p stat : Nat) (o : OTrk) : d.otrkFail p stat o =
    match o.who with
    | .txn t => (d.otrkFreed p o).respond t (stat + 2 ^ 8 * p) []
    | .add m => (d.otrkFreed p o).addFail p o.pkg m stat
    | .transit ip it =>
      match ((d.otrkFreed p o).port ip).itrk.find? fun e => e.tag == it with
      | none => d.otrkFreed p o
      | some e => (d.otrkFreed p o).answerIn ip it 0 (e.msg.failHdr stat) [] := rfl

theorem Dev.otrkFail_linksKept (p stat : Nat) (o : OTrk) : d.LinksKept (d.otrkFail p stat o) := by
  rw [Dev.otrkFail_eq]
  refine (d.otrkFreed_linksKept p o).trans ?_
  split
  · exact (Dev.respond_kp _ _ _ _ (Within.refl _) (Agree.refl _ _)).linksKept rfl rfl
  · exact (Dev.addFail_kp _ _ _ _ _ (Within.refl _) (Agree.refl _ _)).linksKept rfl rfl
  · split
    · exact .refl _
    · exact Dev.answerIn_linksKept ..

theorem Dev.portFlush_linksKept (p : Nat) : d.LinksKept (d.portFlush p) := by
  rw [Dev.portFlush]
  dsimp only
  refine Dev.LinksKept.trans ?_ ((Dev.holdsClear_kp _ (Within.refl _) (Agree.refl _ _)).linksKept rfl rfl)
  refine Dev.LinksKept.trans ?_ (Dev.portTrk_linksKept ..)
  exact (Dev.setPort_linksKept d p _ (by rfl)).trans (Dev.LinksKept.foldl (fun _ _ => Dev.otrkFail_linksKept ..) _ _)

theorem Dev.setPortSt_linksKept (p st : Nat) : d.LinksKept (d.setPortSt p st) :=
  (Dev.put_linksKept ..).trans (Dev.modPort_linksKept _ _ _ (by intro _; rfl))

theorem Dev.portDown_linksKept (p : Nat) : d.LinksKept (d.portDown p) := by
  rw [Dev.portDown]
  refine Dev.LinksKept.trans ?_ ((Dev.portRec_kp _ _ _ (Within.refl _) (Agree.refl _ _)).linksKept rfl rfl)
  refine Dev.LinksKept.trans ?_ (Dev.portFlush_linksKept ..)
  refine Dev.LinksKept.trans ?_ ((Dev.moveRoutes_kp _ _ (Within.refl _) (Agree.refl _ _)).linksKept rfl rfl)
  exact (Dev.setPortSt_linksKept ..).trans (Dev.put_linksKept ..)

/-- What follows the two fields of its status in a port's way DOWN. -/
theorem Dev.portDown_agree (p : Nat) :
    Agree 0x38010003e004000245000000000000000000000000000e00c60000000000001000004000000000000000000000000101f20000000
      ((d.setPortSt p plkDown).put F.PLK_PSTAT_LANES 0 (portDie p) (p % 4)) (d.portDown p) := by
  rw [Dev.portDown]
  refine Dev.portRec_kp _ _ _ ((Within.refl _).up (by decide)) (Dev.portFlush_kp _ _ ((Within.refl _).up (by decide)) ?_)
  exact Dev.moveRoutes_kp _ _ ((Within.refl _).up (by decide)) (Agree.refl _ _)

/-- A port that has gone DOWN has no active lane. -/
theorem Dev.portDown_down (p : Nat) :
    (d.portDown p).get F.PLK_PSTAT_STATE (portDie p) (p % 4) = 5 ∧ (d.portDown p).get F.PLK_PSTAT_LANES (portDie p) (p % 4) = 0 := by
  refine ⟨((d.portDown_agree p).get F.PLK_PSTAT_STATE rfl rfl ..).trans ?_, ((d.portDown_agree p).get F.PLK_PSTAT_LANES rfl rfl ..).trans ?_⟩
  · rw [Dev.get_put_bits _ _ (by decide) (by decide) (by decide)]
    exact Dev.get_put_self _ _ _ _ _ _ (by decide) (by decide) (by decide)
  · exact Dev.get_put_self _ _ _ _ _ _ (by decide) (by decide) (by decide)

end

/-! A lane that is lost to its port (R339) -/

/-- The port of a lane, where it has one, is not in TRAIN. -/
def Dev.portCalm (d : Dev) (die l : Nat) : Prop := ∀ p i, d.lanePort die l = some (p, i) → d.portSt p ≠ 1

section
variable {d e : Dev} {die l : Nat}

theorem Agree.portCalm {μ : Nat} (h : Agree μ d e) (hf : μ.testBit 368 = false) (hr : μ.testBit Reg.PLK_RESERVE.ctorIdx = false)
    (hp : μ.testBit Reg.PLK_PSTAT.ctorIdx = false) (hd : d.portCalm die l) : e.portCalm die l := by
  intro p i hpi
  rw [h.lanePort hf hr] at hpi
  rw [h.portSt hf hp]
  exact hd p i hpi

theorem Dev.portLaneLost_linksKept (d : Dev) (die l : Nat) : d.LinksKept (d.portLaneLost die l) := by
  rw [Dev.portLaneLost]
  split
  · exact .refl d
  · dsimp only
    split
    · split
      · exact (Dev.put_linksKept ..).trans (Dev.portDown_linksKept ..)
      · exact Dev.put_linksKept ..
    · exact .refl d

theorem Dev.portLaneLost_agree (d : Dev) (die l : Nat) :
    Agree 0x38010003e004000245000000000000000000000000000e04c60000000000001000004000000000000000000000000101f20000000 d (d.portLaneLost die l) :=
  Dev.portLaneLost_kp _ _ _ (Within.refl _) (Agree.refl _ _)

/-- The port that has lost the lane is in service, or DOWN. -/
theorem Dev.portLaneLost_calm (h : d.portCalm die l) : (d.portLaneLost die l).portCalm die l := by
  intro p i hpi
  rw [(d.portLaneLost_agree die l).lanePort rfl rfl] at hpi
  rw [Dev.portLaneLost, hpi]
  dsimp only
  split
  · split
    · exact (congrArg (· ≠ 1) (Dev.portDown_down _ p).1).mpr (by decide)
    · exact (congrArg (· ≠ 1) (Dev.get_put_bits d _ (by decide) (by decide) (.inr (by decide)))).mpr (h p i hpi)
  · exact h p i hpi

end

/-! What follows an event of a lane -/

section
variable {d : Dev} {die l : Nat} {f : Dev → Dev}

theorem Dev.laneSettle_calm (h : d.portCalm die l) : d.laneSettle die l = d := by
  rw [Dev.laneSettle]
  split
  · rfl
  next p i hpi => exact if_neg fun hst => h p i hpi hst.1

theorem Dev.laneIdv_agree (d : Dev) (die l : Nat) :
    Agree 0x200000000000000000000000000000000000000000000000000000000000000000000000000000000000000000000000000000000 d (d.laneIdv die l) :=
  Dev.laneIdv_kp _ _ _ (Within.refl _) (Agree.refl _ _)

/-- When the port of a lane is not in TRAIN, an event of the lane has no further effect but on that port. -/
theorem Dev.laneAfter_agree (h : (f d).portCalm die l) :
    Agree 0x200000000000000000000000000000000000000000000004000000000000000000000000000000000000000000000000000000000 (f d) (Dev.laneAfter die l f d) := by
  have hidv : Agree 0x200000000000000000000000000000000000000000000000000000000000000000000000000000000000000000000000000000000 (f d)
      (if d.laneSt die l ≠ laneUp ∧ (f d).laneSt die l = laneUp then (f d).laneIdv die l else f d) :=
    Agree.ite (Dev.laneIdv_agree ..) (Agree.refl _ _)
  rw [Dev.laneAfter]
  rw [Dev.laneSettle_calm (hidv.portCalm rfl rfl rfl h)]
  exact Dev.laneSlept_kp _ _ _ (Within.refl _) (hidv.up (by decide))

end

end Sys2Proof.Machine
end

section
/-!
PROOF of O51: the commands of a serial lane, its sequence to UP, alignment and loop timing (R307–R314, R320–R322).
-/
namespace Sys2Proof.Machine

/-! What is seen of a lane -/

/-- The lane and its status are as before. -/
def Dev.laneSame (d e : Dev) (die l : Nat) : Prop :=
  e.lane die l = d.lane die l ∧ e.raw ⟨.SER_LSTAT, die, l, 0⟩ = d.raw ⟨.SER_LSTAT, die, l, 0⟩

/-- Neither direction dozes. -/
def Dev.laneWoken (e : Dev) (die l : Nat) : Prop := e.get F.SER_LSTAT_TXDZ die l = 0 ∧ e.get F.SER_LSTAT_RXDZ die l = 0

/-- The full sequence begins at CAL, in local timing. -/
def Dev.laneBegan (e : Dev) (die l : Nat) : Prop :=
  e.get F.SER_LSTAT_STATE die l = 1 ∧ e.laneWoken die l ∧ e.get F.SER_LSTAT_LOOPT die l = 0 ∧ (e.lane die l).seq = 1 ∧
    (e.lane die l).lock = false ∧ (e.lane die l).ebuf = []

/-- A command in a sequence is held, or has no effect while one is. -/
def Dev.laneHeld (d e : Dev) (die l cmd : Nat) : Prop :=
  if d.get F.SER_LCTL_PEND die l ≠ 0 then d.laneSame e die l
  else e.get F.SER_LCTL_PEND die l = 1 ∧ e.lane die l = { d.lane die l with pend := cmd } ∧
    e.raw ⟨.SER_LSTAT, die, l, 0⟩ = d.raw ⟨.SER_LSTAT, die, l, 0⟩

section
variable {d a b : Dev} {die l : Nat} {μ : Nat} (h : Agree μ a b) (hf : μ.testBit 368 = false) (hl : μ.testBit 416 = false)
  (hs : μ.testBit Reg.SER_LSTAT.ctorIdx = false)
include h hf hs

theorem Agree.laneStatus : b.raw ⟨.SER_LSTAT, die, l, 0⟩ = a.raw ⟨.SER_LSTAT, die, l, 0⟩ := h.raw ⟨.SER_LSTAT, die, l, 0⟩ hf hs

theorem Agree.laneWoken (ha : a.laneWoken die l) : b.laneWoken die l :=
  ⟨(h.get F.SER_LSTAT_TXDZ hf hs ..).trans ha.1, (h.get F.SER_LSTAT_RXDZ hf hs ..).trans ha.2⟩

include hl

theorem Agree.laneSame (ha : d.laneSame a die l) : d.laneSame b die l :=
  ⟨(h.lane hl ..).trans ha.1, (h.laneStatus hf hs).trans ha.2⟩

theorem Agree.laneBegan (ha : a.laneBegan die l) : b.laneBegan die l := by
  obtain ⟨hst, hwoken, hloop, hlane⟩ := ha
  rw [← h.lane hl] at hlane
  exact ⟨(h.get F.SER_LSTAT_STATE hf hs ..).trans hst, h.laneWoken hf hs hwoken, (h.get F.SER_LSTAT_LOOPT hf hs ..).trans hloop, hlane⟩

theorem Agree.laneHeld {cmd : Nat} (hc : μ.testBit Reg.SER_LCTL.ctorIdx = false) (ha : d.laneHeld a die l cmd) : d.laneHeld b die l cmd := by
  rw [Dev.laneHeld] at ha ⊢
  rw [h.get F.SER_LCTL_PEND hf hc, h.lane hl, h.laneStatus hf hs]
  split
  next hp =>
    rw [if_pos hp] at ha
    exact h.laneSame hf hl hs ha
  next hp => rwa [if_neg hp] at ha

end

theorem Dev.laneSame.refl (d : Dev) (die l : Nat) : d.laneSame d die l := ⟨rfl, rfl⟩

/-- An event without effect leaves the lane the same, whatever follows it. -/
theorem Agree.laneIdle {d a b : Dev} {die l : Nat}
    (h : Agree 0x200000000000000000000000000000000000000000000004000000000000000000000000000000000000000000000000000000000 a b) (ha : a = d) :
    d.laneSame b die l := by
  rw [ha] at h
  exact h.laneSame rfl rfl rfl (.refl ..)

/-! The states of a lane (R308, R312, R314, R320) -/

section
variable (d : Dev) (die l : Nat)

theorem Dev.laneFull_began (again : Bool) : (d.laneFull die l again).laneBegan die l := by
  simp (disch := decide) only [Dev.laneBegan, Dev.laneWoken, Dev.laneFull, Dev.laneAwake, Dev.setLaneSt, Dev.count, laneCal, Dev.modLane_read_get,
    Dev.modLane_lane_self, Dev.get_put_bits, Dev.get_put_self, and_self]

theorem Dev.laneFull_retry (again : Bool) : ((d.laneFull die l again).lane die l).retry = again := by
  rw [Dev.laneFull, Dev.modLane_lane_self]

/-- A full sequence is counted. -/
theorem Dev.laneFull_counts (again : Bool) : (d.laneFull die l again).get F.SER_NEVT_NTRAIN die l = (d.get F.SER_NEVT_NTRAIN die l + 1) % 2 ^ 16 := by
  simp (disch := decide) only [Dev.laneFull, Dev.laneAwake, Dev.setLaneSt, Dev.count, Dev.modLane_read_get, Dev.get_put_reg]
  exact Dev.get_put_self _ _ _ _ _ _ (by decide) (by decide) (Nat.mod_lt _ (by decide))

/-- The sticky bits of a lane's status, and any bit above those of its state. -/
def serSticky : Fld := ⟨.SER_LSTAT, 21, 16⟩

section
variable {g : Fld} (hreg : g.reg = .SER_LSTAT) (hg : 6 < g.lo ∧ g.hi < 32)
include hg

theorem Dev.put_keeps_sticky {f : Fld} (hf : f.lo ≤ f.hi ∧ f.hi ≤ 6) (v i : Nat) : (d.put f v die i).get g die l = d.get g die l :=
  Dev.get_put_bits _ _ hg.2 hf.1 (.inl (by omega))

theorem Dev.setLaneSt_sticky (st : Nat) : (d.setLaneSt die l st).get g die l = d.get g die l :=
  Dev.put_keeps_sticky _ _ _ hg (by decide) _ _

theorem Dev.laneAwake_sticky : (d.laneAwake die l).get g die l = d.get g die l :=
  (Dev.put_keeps_sticky _ _ _ hg (by decide) _ _).trans (Dev.put_keeps_sticky _ _ _ hg (by decide) _ _)

include hreg

theorem Dev.laneFull_sticky (again : Bool) : (d.laneFull die l again).get g die l = d.get g die l := by
  rw [Dev.laneFull, Dev.modLane_read_get, Dev.setLaneSt_sticky _ _ _ hg, Dev.count, Dev.get_put_reg _ _ hg.2 (by decide) (by rw [hreg]; decide),
    Dev.put_keeps_sticky _ _ _ hg (by decide), Dev.laneAwake_sticky _ _ _ hg]

end

theorem Dev.laneClear_eq : d.laneClear die l = d.put serSticky 0 die l := rfl

theorem Dev.laneClear_clears : (d.laneClear die l).get serSticky die l = 0 := by
  rw [Dev.laneClear_eq]
  exact Dev.get_put_self _ _ _ _ _ _ (by decide) (by decide) (by decide)

/-- The lane DOWN, before its port is looked at. -/
def Dev.laneHalt (d : Dev) (die l : Nat) : Dev :=
  ((d.laneAwake die l).setLaneSt die l laneDown).modLane die l fun x => { x with seq := 0, lock := false, out := [], ebuf := [] }

theorem Dev.laneDownNow_eq : d.laneDownNow die l = (d.laneHalt die l).portLaneLost die l := rfl

theorem Dev.laneHalt_agree : Agree 0x100000000000000000000000000000000000000000000000000008000000000000000000000000000000000000000000000000000 d (d.laneHalt die l) :=
  Dev.modLane_kp _ _ _ _ ((Within.refl _).up (by decide)) (Dev.setLaneSt_kp _ _ _ _ (Within.refl _)
    (Dev.laneAwake_kp _ _ _ ((Within.refl _).up (by decide)) (Agree.refl _ _)))

theorem Dev.laneDownNow_down : (d.laneDownNow die l).get F.SER_LSTAT_STATE die l = 8 ∧ (d.laneDownNow die l).laneWoken die l := by
  have hport := (d.laneHalt die l).portLaneLost_agree die l
  rw [Dev.laneDownNow_eq]
  refine ⟨(hport.get F.SER_LSTAT_STATE rfl rfl ..).trans ?_, hport.laneWoken rfl rfl ?_⟩ <;>
    simp (disch := decide) only [Dev.laneWoken, Dev.laneHalt, Dev.laneAwake, Dev.setLaneSt, laneDown, Dev.modLane_read_get, Dev.get_put_bits,
      Dev.get_put_self, and_self]

/-- The command that a lane holds stays held. -/
theorem Dev.laneDownNow_pend : ((d.laneDownNow die l).lane die l).pend = (d.lane die l).pend := by
  rw [Dev.laneDownNow_eq, ((d.laneHalt die l).portLaneLost_linksKept die l).lane]
  simp only [Dev.laneHalt, Dev.laneAwake, Dev.setLaneSt, Dev.modLane_lane_self, Dev.put_read_lane]

theorem Dev.laneDownNow_sticky {g : Fld} (hreg : g.reg = .SER_LSTAT) (hg : 6 < g.lo ∧ g.hi < 32) :
    (d.laneDownNow die l).get g die l = d.get g die l := by
  rw [Dev.laneDownNow_eq, ((d.laneHalt die l).portLaneLost_agree die l).get g rfl (by rw [hreg]; rfl), Dev.laneHalt, Dev.modLane_read_get,
    Dev.setLaneSt_sticky _ _ _ hg, Dev.laneAwake_sticky _ _ _ hg]

theorem Dev.laneSleepNow_sleeps : 
    let e := d.laneSleepNow die l
    e.get F.SER_LSTAT_STATE die l = 6 ∧ e.laneWoken die l ∧ (e.lane die l).seq = 0 ∧ (e.lane die l).lock = false ∧ (e.lane die l).sent = (d.lane die l).sent := by
  simp (disch := decide) only [Dev.laneWoken, Dev.laneSleepNow, Dev.laneAwake, Dev.setLaneSt, laneSleep, Dev.modLane_read_get, Dev.modLane_lane_self,
    Dev.put_read_lane, Dev.get_put_bits, Dev.get_put_self, and_self]

theorem Dev.laneWakeNow_wakes :
    let e := d.laneWakeNow die l
    e.get F.SER_LSTAT_STATE die l = 1 ∧ (e.lane die l).seq = 4 ∧ (e.lane die l).retry = false := by
  simp (disch := decide) only [Dev.laneWakeNow, Dev.setLaneSt, laneCal, Dev.modLane_read_get, Dev.modLane_lane_self, Dev.get_put_self, and_self]

theorem Dev.setLaneSt_state {st : Nat} (h : st < 16) : (d.setLaneSt die l st).get F.SER_LSTAT_STATE die l = st :=
  Dev.get_put_self _ _ _ _ _ _ (by decide) (by decide) h

/-- The lane in UP, before a held command acts. -/
def Dev.laneReached (d : Dev) (die l : Nat) : Dev :=
  (d.setLaneSt die l laneUp).modLane die l fun x =>
    { x with seq := 0, retry := false, ebuf := List.replicate 4 ⟨3, []⟩, out := [], hdrs := [], fast := none, low := none,
             seen := d.tick die, stepAt := d.tick die }

theorem Dev.laneEnded_none (h : (d.lane die l).pend = 0) : d.laneEnded die l = d := if_pos h

theorem Dev.laneReached_lane : ((d.laneReached die l).lane die l).pend = (d.lane die l).pend ∧
    ((d.laneReached die l).lane die l).ebuf = List.replicate 4 ⟨3, []⟩ := by
  rw [Dev.laneReached, Dev.modLane_lane_self, Dev.setLaneSt, Dev.modLane_lane_self]
  exact ⟨rfl, rfl⟩

theorem Dev.laneEnterUp_eq (h : (d.lane die l).pend = 0) : d.laneEnterUp die l = d.laneReached die l :=
  Dev.laneEnded_none _ _ _ ((d.laneReached_lane die l).1.trans h)

theorem Dev.laneEnterUp_up (h : (d.lane die l).pend = 0) :
    (d.laneEnterUp die l).get F.SER_LSTAT_STATE die l = 5 ∧ ((d.laneEnterUp die l).lane die l).ebuf = List.replicate 4 ⟨3, []⟩ := by
  rw [Dev.laneEnterUp_eq _ _ _ h]
  exact ⟨Dev.setLaneSt_state d die l (by decide), (d.laneReached_lane die l).2⟩

end

/-! Commands (R314) -/

section
variable {d : Dev} {die l : Nat}

theorem Dev.portCalm.ite {a b : Dev} {c : Prop} [Decidable c] (ha : a.portCalm die l) (hb : b.portCalm die l) : (if c then a else b).portCalm die l := by
  split
  · exact ha
  · exact hb

theorem Dev.laneFull_agree (d : Dev) (die l : Nat) (again : Bool) :
    Agree 0x100000000000000000000000000000000000000000000000004008000000000000000000000000000000000000000000000000000 d (d.laneFull die l again) :=
  Dev.laneFull_kp _ _ _ _ (Within.refl _) (Agree.refl _ _)

theorem Dev.laneHalt_calm (h : d.portCalm die l) : (d.laneDownNow die l).portCalm die l := by
  rw [Dev.laneDownNow_eq]
  exact Dev.portLaneLost_calm ((d.laneHalt_agree die l).portCalm rfl rfl rfl h)

/-- The package with a lane whose TRAIN command acts: lost to its port in service, its sticky bits cleared. -/
def Dev.laneFresh (d : Dev) (die l : Nat) : Dev := (if d.laneSt die l = laneUp then d.portLaneLost die l else d).laneClear die l

theorem Dev.laneFresh_calm (h : d.portCalm die l) : (d.laneFresh die l).portCalm die l := by
  rw [Dev.laneFresh]
  refine Agree.portCalm (d := if d.laneSt die l = laneUp then d.portLaneLost die l else d) (Dev.laneClear_kp _ _ _ (Within.refl _) (Agree.refl _ _)) rfl rfl rfl ?_
  split
  · exact Dev.portLaneLost_calm h
  · exact h

/-- The package with a lane that sends SLEEP, and first wakes its far end. -/
def Dev.laneGoodnight (d : Dev) (die l : Nat) : Dev :=
  (if d.on? F.SER_LSTAT_TXDZ die l then d.laneSend die l 4 16 else d).laneSend die l 3 16

theorem Dev.laneGoodnight_agree (d : Dev) (die l : Nat) :
    Agree 0x100000000000000000000000000000000000000000000000000000000000000000000000000000000000000000000000000000000 d (d.laneGoodnight die l) :=
  Dev.laneSend_kp _ _ _ _ _ (Within.refl _) (Agree.ite (Dev.laneSend_kp _ _ _ _ _ (Within.refl _) (Agree.refl _ _)) (Agree.refl _ _))

theorem Dev.laneGoodnight_sent (d : Dev) (die l : Nat) :
    ((d.laneGoodnight die l).lane die l).sent = (d.lane die l).sent ++ (if d.get F.SER_LSTAT_TXDZ die l ≠ 0 then [(4, 16)] else []) ++ [(3, 16)] := by
  have hon : d.on? F.SER_LSTAT_TXDZ die l = true ↔ d.get F.SER_LSTAT_TXDZ die l ≠ 0 := by simp [Dev.on?]
  rw [Dev.laneGoodnight, Dev.laneSend, Dev.modLane_lane_self]
  by_cases h : d.get F.SER_LSTAT_TXDZ die l ≠ 0
  · rw [if_pos (hon.mpr h), if_pos h, Dev.laneSend, Dev.modLane_lane_self]
  · rw [if_neg (mt hon.mp h), if_neg h, List.append_nil]

/-- The lane in TEST, before its port is looked at. -/
def Dev.laneProbe (d : Dev) (die l : Nat) : Dev :=
  ((d.laneAwake die l).setLaneSt die l laneTest).modLane die l fun x => { x with prbsN := 0, prbs := 0, out := [], ebuf := [] }

theorem Dev.laneProbe_agree (d : Dev) (die l : Nat) :
    Agree 0x100000000000000000000000000000000000000000000000000008000000000000000000000000000000000000000000000000000 d (d.laneProbe die l) :=
  Dev.modLane_kp _ _ _ _ ((Within.refl _).up (by decide)) (Dev.setLaneSt_kp _ _ _ _ (Within.refl _)
    (Dev.laneAwake_kp _ _ _ ((Within.refl _).up (by decide)) (Agree.refl _ _)))

theorem Dev.laneProbe_tests (d : Dev) (die l : Nat) :
    let e := (d.laneProbe die l).portLaneLost die l
    e.get F.SER_LSTAT_STATE die l = 7 ∧ e.laneWoken die l := by
  have hport := (d.laneProbe die l).portLaneLost_agree die l
  refine ⟨(hport.get F.SER_LSTAT_STATE rfl rfl ..).trans ?_, hport.laneWoken rfl rfl ?_⟩ <;>
    simp (disch := decide) only [Dev.laneWoken, Dev.laneProbe, Dev.laneAwake, Dev.setLaneSt, laneTest, Dev.modLane_read_get, Dev.get_put_bits,
      Dev.get_put_self, and_self]

/-- A command, by its number and the lane's state. -/
theorem Dev.laneCmd_eq (d : Dev) (die l cmd : Nat) : d.laneCmd die l cmd =
    match cmd with
    | 1 => if d.laneSt die l = 0 ∨ d.laneSt die l = 5 ∨ d.laneSt die l = 7 ∨ d.laneSt die l = 8 then (d.laneFresh die l).laneFull die l false else d
    | 2 => if d.laneSt die l = 0 then d else d.laneDownNow die l
    | 3 => if d.laneSt die l = 5 ∧ ethLane l = false then (d.laneGoodnight die l).laneSleepNow die l else d
    | 4 => if d.laneSt die l = 6 then d.laneWakeNow die l else d
    | 5 => if d.laneSt die l = 5 ∨ d.laneSt die l = 8 then (d.laneProbe die l).portLaneLost die l else d
    | _ => d := rfl

theorem Dev.laneCmd_calm (cmd : Nat) (h : d.portCalm die l) : (d.laneCmd die l cmd).portCalm die l := by
  rw [Dev.laneCmd_eq]
  split
  · exact .ite (((d.laneFresh die l).laneFull_agree die l false).portCalm rfl rfl rfl (Dev.laneFresh_calm h)) h
  · exact .ite h (Dev.laneHalt_calm h)
  · exact .ite ((Dev.laneSleepNow_kp _ _ _ (Within.refl _) ((d.laneGoodnight_agree die l).up (by decide))).portCalm rfl rfl rfl h) h
  · exact .ite ((Dev.laneWakeNow_kp d die l (Within.refl _) (Agree.refl _ _)).portCalm rfl rfl rfl h) h
  · exact .ite (Dev.portLaneLost_calm ((d.laneProbe_agree die l).portCalm rfl rfl rfl h)) h
  · exact h

/-- The package with a lane's held command let go. -/
def Dev.laneFreed (d : Dev) (die l : Nat) : Dev := (d.put F.SER_LCTL_PEND 0 die l).modLane die l fun x => { x with pend := 0 }

theorem Dev.laneFreed_agree (d : Dev) (die l : Nat) :
    Agree 0x100000000000000000000000000000000000000000000000000004000000000000000000000000000000000000000000000000000 d (d.laneFreed die l) :=
  Dev.modLane_kp _ _ _ _ ((Within.refl _).up (by decide)) (Dev.put_kp _ _ _ _ _ _ rfl ((Within.refl _).up (by decide)) (Agree.refl _ _))

theorem Dev.laneEnded_calm (h : d.portCalm die l) : (d.laneEnded die l).portCalm die l :=
  .ite h (Dev.laneCmd_calm _ ((d.laneFreed_agree die l).portCalm rfl rfl rfl h))

theorem Dev.laneReached_agree (d : Dev) (die l : Nat) :
    Agree 0x100000000000000000000000000000000000000000000000000008000000000000000000000000000000000000000000000000000 d (d.laneReached die l) :=
  Dev.modLane_kp _ _ _ _ ((Within.refl _).up (by decide)) (Dev.setLaneSt_kp _ _ _ _ (Within.refl _) (Agree.refl _ _))

theorem Dev.laneEnterUp_calm (h : d.portCalm die l) : (d.laneEnterUp die l).portCalm die l :=
  Dev.laneEnded_calm ((d.laneReached_agree die l).portCalm rfl rfl rfl h)

/-- The lane is in a sequence. -/
def Dev.laneRuns (d : Dev) (die l : Nat) : Prop := 1 ≤ d.get F.SER_LSTAT_STATE die l ∧ d.get F.SER_LSTAT_STATE die l ≤ 4

theorem Dev.laneBusy_iff (d : Dev) (die l : Nat) : d.laneBusy die l = true ↔ d.laneRuns die l := by
  rw [Dev.laneBusy, Bool.and_eq_true, decide_eq_true_eq, decide_eq_true_eq]
  rfl

/-- The package with a command of a lane held until its sequence ends. -/
def Dev.laneHolds (d : Dev) (die l cmd : Nat) : Dev := (d.put F.SER_LCTL_PEND 1 die l).modLane die l fun x => { x with pend := cmd }

theorem Dev.laneHolds_agree (d : Dev) (die l cmd : Nat) :
    Agree 0x100000000000000000000000000000000000000000000000000004000000000000000000000000000000000000000000000000000 d (d.laneHolds die l cmd) :=
  Dev.modLane_kp _ _ _ _ ((Within.refl _).up (by decide)) (Dev.put_kp _ _ _ _ _ _ rfl ((Within.refl _).up (by decide)) (Agree.refl _ _))

section
variable {cmd : Nat} (hcmd : 1 ≤ cmd ∧ cmd ≤ 5) (hhere : d.laneHere die l = true)
include hcmd hhere

theorem Dev.laneCmdWrite_eq : d.laneCmdWrite die l cmd =
    if d.laneBusy die l = true then (if d.on? F.SER_LCTL_PEND die l = true then d else d.laneHolds die l cmd) else d.laneCmd die l cmd := by
  have hgo : ¬ (!d.laneHere die l || decide (cmd < 1) || decide (5 < cmd)) = true := by
    simp only [hhere, Bool.not_true, Bool.false_or, Bool.or_eq_true, decide_eq_true_eq]
    omega
  rw [Dev.laneCmdWrite, if_neg hgo]
  rfl

theorem Dev.laneCmdWrite_calm (h : d.portCalm die l) : (d.laneCmdWrite die l cmd).portCalm die l := by
  rw [Dev.laneCmdWrite_eq hcmd hhere]
  exact .ite (.ite h ((d.laneHolds_agree die l cmd).portCalm rfl rfl rfl h)) (Dev.laneCmd_calm _ h)

theorem Dev.laneCmdWrite_held (h : d.laneRuns die l) : d.laneHeld (d.laneCmdWrite die l cmd) die l cmd := by
  rw [Dev.laneCmdWrite_eq hcmd hhere, if_pos ((d.laneBusy_iff die l).mpr h), Dev.laneHeld]
  by_cases hp : d.get F.SER_LCTL_PEND die l ≠ 0
  · rw [if_pos hp, if_pos (by simpa [Dev.on?] using hp)]
    exact .refl ..
  · rw [if_neg hp, if_neg (by simpa [Dev.on?] using hp)]
    refine ⟨Dev.get_put_self _ _ _ _ _ _ (by decide) (by decide) (by decide), ?_, (d.laneHolds_agree die l cmd).laneStatus rfl rfl⟩
    rw [Dev.laneHolds, Dev.modLane_lane_self, Dev.put_read_lane]

theorem Dev.laneCmdWrite_acts (h : ¬ d.laneRuns die l) : d.laneCmdWrite die l cmd = d.laneCmd die l cmd := by
  rw [Dev.laneCmdWrite_eq hcmd hhere, if_neg (mt (d.laneBusy_iff die l).mp h)]

end

/-- The event of a command: held while the lane is in a sequence, otherwise it leaves the lane as the command does. -/
theorem Dev.laneCommand {cmd : Nat} (hcmd : 1 ≤ cmd ∧ cmd ≤ 5) (hhere : d.laneHere die l = true) (hcalm : d.portCalm die l) :
    let e := Dev.laneAfter die l (fun d => d.laneCmdWrite die l cmd) d
    (d.laneRuns die l → d.laneHeld e die l cmd) ∧
      (¬ d.laneRuns die l → Agree 0x200000000000000000000000000000000000000000000004000000000000000000000000000000000000000000000000000000000 (d.laneCmd die l cmd) e) := by
  have hkeep := Dev.laneAfter_agree (f := fun d => d.laneCmdWrite die l cmd) (Dev.laneCmdWrite_calm hcmd hhere hcalm)
  refine ⟨fun h => hkeep.laneHeld rfl rfl rfl rfl (Dev.laneCmdWrite_held hcmd hhere h), fun h => ?_⟩
  rwa [Dev.laneCmdWrite_acts hcmd hhere h] at hkeep

/-- TRAIN: the sticky bits clear, the sequence begins, and is counted. -/
theorem Dev.laneCmd_train (h : d.get F.SER_LSTAT_STATE die l = 0 ∨ d.get F.SER_LSTAT_STATE die l = 5 ∨ d.get F.SER_LSTAT_STATE die l = 7 ∨
      d.get F.SER_LSTAT_STATE die l = 8) :
    let e := d.laneCmd die l 1
    e.laneBegan die l ∧ e.get serSticky die l = 0 ∧ e.get F.SER_NEVT_NTRAIN die l = (d.get F.SER_NEVT_NTRAIN die l + 1) % 2 ^ 16 := by
  have hrun : d.laneCmd die l 1 = (d.laneFresh die l).laneFull die l false := if_pos h
  have hcount : (d.laneFresh die l).get F.SER_NEVT_NTRAIN die l = d.get F.SER_NEVT_NTRAIN die l := by
    refine ((Dev.laneClear_kp (if d.laneSt die l = laneUp then d.portLaneLost die l else d) die l (Within.refl _) (Agree.refl _ _)).get F.SER_NEVT_NTRAIN rfl rfl ..).trans ?_
    exact (Agree.ite (d.portLaneLost_agree die l) (Agree.refl _ _)).get F.SER_NEVT_NTRAIN rfl rfl ..
  dsimp only
  rw [hrun, Dev.laneFull_sticky _ _ _ rfl (by decide), Dev.laneFull_counts, hcount]
  exact ⟨Dev.laneFull_began .., Dev.laneClear_clears .., rfl⟩

theorem Dev.laneCmd_sleep (h : d.get F.SER_LSTAT_STATE die l = 5 ∧ l < 17) :
    let e := d.laneCmd die l 3
    e.get F.SER_LSTAT_STATE die l = 6 ∧ e.laneWoken die l ∧ (e.lane die l).seq = 0 ∧ (e.lane die l).lock = false ∧
      (e.lane die l).sent = (d.lane die l).sent ++ (if d.get F.SER_LSTAT_TXDZ die l ≠ 0 then [(4, 16)] else []) ++ [(3, 16)] := by
  have heth : ethLane l = false := decide_eq_false (by omega)
  have hrun : d.laneCmd die l 3 = (d.laneGoodnight die l).laneSleepNow die l := if_pos ⟨h.1, heth⟩
  obtain ⟨hst, hwoken, hseq, hlock, hsent⟩ := Dev.laneSleepNow_sleeps (d.laneGoodnight die l) die l
  rw [Dev.laneGoodnight_sent] at hsent
  dsimp only
  rw [hrun]
  exact ⟨hst, hwoken, hseq, hlock, hsent⟩

/-- A command that a lane's state does not accept. -/
theorem Dev.laneCmd_idle {cmd : Nat} (h : let st := d.get F.SER_LSTAT_STATE die l
      cmd = 1 ∧ ¬ (st = 0 ∨ st = 5 ∨ st = 7 ∨ st = 8) ∨ cmd = 2 ∧ st = 0 ∨ cmd = 3 ∧ ¬ (st = 5 ∧ l < 17) ∨ cmd = 4 ∧ ¬ st = 6 ∨
        cmd = 5 ∧ ¬ (st = 5 ∨ st = 8)) : d.laneCmd die l cmd = d := by
  obtain ⟨rfl, h⟩ | ⟨rfl, h⟩ | ⟨rfl, h⟩ | ⟨rfl, h⟩ | ⟨rfl, h⟩ := h
  · exact if_neg h
  · exact if_pos h
  · refine if_neg fun hst => h ⟨hst.1, ?_⟩
    have := of_decide_eq_false hst.2
    omega
  · exact if_neg h
  · exact if_neg h

/-! A write of TEST (R304, R314) -/

/-- What TEST writes to SER_LCTL. -/
def Dev.testWord (d : Dev) (die l loop prbs : Nat) : Nat := setBits (setBits (setBits (d.raw ⟨.SER_LCTL, die, l, 0⟩) 9 8 loop) 10 10 prbs) 2 0 5

/-- The package with a lane's control register written, before the command. -/
def Dev.laneControlled (d : Dev) (die l v : Nat) : Dev :=
  let d1 := d.writeGen ⟨.SER_LCTL, die, l, 0⟩ v [F.SER_LCTL_MODE]
  if (d.laneSt die l = laneStOff ∨ d.laneSt die l = laneDown) ∧ bitsOf v 5 4 = (if ethLane l then 1 else 0) then
    d1.put F.SER_LCTL_MODE (bitsOf v 5 4) die l else d1

theorem Dev.laneControlled_agree (d : Dev) (die l v : Nat) :
    Agree 0x4000000000000000000000000000000000000000000000000000 d (d.laneControlled die l v) := by
  have hgen : Agree 0x4000000000000000000000000000000000000000000000000000 d (d.writeGen ⟨.SER_LCTL, die, l, 0⟩ v [F.SER_LCTL_MODE]) :=
    Dev.writeGen_kp _ _ _ _ (by dsimp only; decide) (Agree.refl _ _)
  exact Agree.ite (Dev.put_kp _ _ _ _ _ _ rfl ((Within.refl _).up (by decide)) hgen) hgen

/-- A field other than MODE, once written. -/
theorem Dev.laneControlled_field (d : Dev) (die l v : Nat) {row : FldRow} (hrow : row ∈ Reg.SER_LCTL.rows)
    (hkeep : ([F.SER_LCTL_MODE] : List Fld).contains row.fld = false) (hbits : row.fld.hi < 32 ∧ (5 < row.fld.lo ∨ row.fld.hi < 4)) :
    (d.laneControlled die l v).get row.fld die l = d.fieldAfter die (d.raw ⟨.SER_LCTL, die, l, 0⟩) v row := by
  have hgen := d.writeGen_field .SER_LCTL die l 0 v [F.SER_LCTL_MODE] hrow hkeep
  have hmode (c : Prop) [Decidable c] (d1 : Dev) (m : Nat) : (if c then d1.put F.SER_LCTL_MODE m die l else d1).get row.fld die l = d1.get row.fld die l := by
    split
    · exact Dev.get_put_bits _ _ hbits.1 (by decide) hbits.2
    · rfl
  exact (hmode _ _ _).trans hgen

theorem Dev.testWord_fields (d : Dev) (die l : Nat) {loop prbs : Nat} (hloop : loop < 4) (hprbs : prbs < 2) :
    bitsOf (d.testWord die l loop prbs) 9 8 = loop ∧ bitsOf (d.testWord die l loop prbs) 10 10 = prbs ∧ d.testWord die l loop prbs % 8 = 5 := by
  have hcmd : bitsOf (d.testWord die l loop prbs) 2 0 = 5 := bitsOf_setBits _ _ _ _ (by decide)
  refine ⟨?_, ?_, ?_⟩
  · rw [Dev.testWord, bitsOf_setBits_ne _ _ _ _ _ _ (by decide) (by decide), bitsOf_setBits_ne _ _ _ _ _ _ (by decide) (by decide),
      bitsOf_setBits _ _ _ _ (by decide)]
    exact Nat.mod_eq_of_lt hloop
  · rw [Dev.testWord, bitsOf_setBits_ne _ _ _ _ _ _ (by decide) (by decide), bitsOf_setBits _ _ _ _ (by decide)]
    exact Nat.mod_eq_of_lt hprbs
  · rwa [bitsOf, Nat.pow_zero, Nat.div_one] at hcmd

section
variable {loop prbs : Nat} (hhere : d.laneHere die l = true) (hloop : loop < 4) (hprbs : prbs < 2)

/-- The package with TLOOP and PRBS written, before the command of TEST. -/
def Dev.laneTestSet (d : Dev) (die l loop prbs : Nat) : Dev := d.laneControlled die l (d.testWord die l loop prbs)

theorem Dev.laneTestSet_agree (d : Dev) (die l loop prbs : Nat) :
    Agree 0x4000000000000000000000000000000000000000000000000000 d (d.laneTestSet die l loop prbs) := Dev.laneControlled_agree ..

theorem Dev.laneTestSet_same (d : Dev) (die l loop prbs : Nat) : d.laneSame (d.laneTestSet die l loop prbs) die l :=
  (d.laneTestSet_agree die l loop prbs).laneSame rfl rfl rfl (.refl ..)

include hloop hprbs in
theorem Dev.laneTestSet_set (d : Dev) (die l : Nat) :
    let e := d.laneTestSet die l loop prbs
    e.get F.SER_LCTL_TLOOP die l = loop ∧ e.get F.SER_LCTL_PRBS die l = prbs ∧ e.get F.SER_LCTL_PEND die l = d.get F.SER_LCTL_PEND die l := by
  obtain ⟨hl, hp, -⟩ := d.testWord_fields die l hloop hprbs
  refine ⟨?_, ?_, d.laneControlled_field die l _ (row := ⟨F.SER_LCTL_PEND, .ro, .val 0⟩) (by decide) (by decide) (by decide)⟩
  · exact (d.laneControlled_field die l _ (row := ⟨F.SER_LCTL_TLOOP, .rw, .val 0⟩) (by decide) (by decide) (by decide)).trans hl
  · exact (d.laneControlled_field die l _ (row := ⟨F.SER_LCTL_PRBS, .rw, .val 0⟩) (by decide) (by decide) (by decide)).trans hp

include hhere

theorem Dev.laneTestSet_here : (d.laneTestSet die l loop prbs).laneHere die l = true :=
  ((d.laneTestSet_agree die l loop prbs).laneHere rfl rfl rfl die l).trans hhere

include hloop hprbs

theorem Dev.laneTestWrite_eq : d.laneTestWrite die l loop prbs = (d.laneTestSet die l loop prbs).laneCmdWrite die l 5 := by
  obtain ⟨-, -, hcmd⟩ := d.testWord_fields die l hloop hprbs
  rw [← hcmd]
  exact if_neg (by simp [hhere])

/-- TLOOP and PRBS stay as written, whatever the command does. -/
theorem Dev.laneTestWrite_set :
    (d.laneTestWrite die l loop prbs).get F.SER_LCTL_TLOOP die l = loop ∧ (d.laneTestWrite die l loop prbs).get F.SER_LCTL_PRBS die l = prbs := by
  obtain ⟨hl, hp, -⟩ := Dev.laneTestSet_set hloop hprbs d die l
  have hcmd := Dev.laneCmd_kp (d.laneTestSet die l loop prbs) die l 5 (Within.refl _) (Agree.refl _ _)
  rw [Dev.laneTestWrite_eq hhere hloop hprbs, Dev.laneCmdWrite_eq (by decide) (Dev.laneTestSet_here hhere)]
  split
  · split
    · exact ⟨hl, hp⟩
    · exact ⟨(Dev.get_put_bits _ _ (by decide) (by decide) (by decide)).trans hl, (Dev.get_put_bits _ _ (by decide) (by decide) (by decide)).trans hp⟩
  · exact ⟨(hcmd.get F.SER_LCTL_TLOOP rfl rfl ..).trans hl, (hcmd.get F.SER_LCTL_PRBS rfl rfl ..).trans hp⟩

theorem Dev.laneTestWrite_calm (h : d.portCalm die l) : (d.laneTestWrite die l loop prbs).portCalm die l := by
  rw [Dev.laneTestWrite_eq hhere hloop hprbs]
  exact Dev.laneCmdWrite_calm (by decide) (Dev.laneTestSet_here hhere) ((d.laneTestSet_agree die l loop prbs).portCalm rfl rfl rfl h)

theorem Dev.laneTestWrite_held (h : d.laneRuns die l) : d.laneHeld (d.laneTestWrite die l loop prbs) die l 5 := by
  have hset := d.laneTestSet_agree die l loop prbs
  obtain ⟨-, -, hpend⟩ := Dev.laneTestSet_set hloop hprbs d die l
  have hruns : (d.laneTestSet die l loop prbs).laneRuns die l := by rwa [Dev.laneRuns, hset.get F.SER_LSTAT_STATE rfl rfl]
  have hheld := Dev.laneCmdWrite_held (cmd := 5) (by decide) (Dev.laneTestSet_here hhere) hruns
  rw [Dev.laneTestWrite_eq hhere hloop hprbs]
  rwa [Dev.laneHeld, Dev.laneSame, hpend, hset.lane rfl, hset.laneStatus rfl rfl] at hheld

theorem Dev.laneTestWrite_tests (h : d.get F.SER_LSTAT_STATE die l = 5 ∨ d.get F.SER_LSTAT_STATE die l = 8) :
    (d.laneTestWrite die l loop prbs).get F.SER_LSTAT_STATE die l = 7 ∧ (d.laneTestWrite die l loop prbs).laneWoken die l := by
  have hst := (d.laneTestSet_agree die l loop prbs).get F.SER_LSTAT_STATE rfl rfl die l 0
  have hruns : ¬ (d.laneTestSet die l loop prbs).laneRuns die l := by
    rw [Dev.laneRuns, hst]
    omega
  have hrun : (d.laneTestSet die l loop prbs).laneCmd die l 5 = ((d.laneTestSet die l loop prbs).laneProbe die l).portLaneLost die l :=
    if_pos (by rwa [Dev.laneSt, hst])
  rw [Dev.laneTestWrite_eq hhere hloop hprbs, Dev.laneCmdWrite_acts (by decide) (Dev.laneTestSet_here hhere) hruns, hrun]
  exact Dev.laneProbe_tests ..

theorem Dev.laneTestWrite_idle (h : ¬ d.laneRuns die l) (hst : ¬ (d.get F.SER_LSTAT_STATE die l = 5 ∨ d.get F.SER_LSTAT_STATE die l = 8)) :
    d.laneSame (d.laneTestWrite die l loop prbs) die l := by
  have hkeep := (d.laneTestSet_agree die l loop prbs).get F.SER_LSTAT_STATE rfl rfl die l 0
  have hruns : ¬ (d.laneTestSet die l loop prbs).laneRuns die l := by rwa [Dev.laneRuns, hkeep]
  rw [Dev.laneTestWrite_eq hhere hloop hprbs, Dev.laneCmdWrite_acts (by decide) (Dev.laneTestSet_here hhere) hruns, Dev.laneCmd_idle]
  · exact Dev.laneTestSet_same ..
  · rw [hkeep]
    exact .inr (.inr (.inr (.inr ⟨rfl, hst⟩)))

end

end

/-! Errors of a lane (R325) -/

section
variable (d : Dev) (die l code : Nat) {f g : Fld} (hreg : f.reg = .SER_LSTAT) (hf : f.lo ≤ f.hi ∧ f.hi < 32)
include hreg

theorem Dev.laneErr_agree :
    Agree 0x80000000000000245000000000000000000000000000000000008000000000000000000000000000000000000000000000000000 d (d.laneErr die l f code) :=
  Dev.laneErr_kp _ _ _ _ _ (by rw [hreg]; rfl) ((Within.refl _).up (by decide)) (Agree.refl _ _)

omit hreg in
theorem Dev.laneErr_put (f : Fld) : Agree 0x80000000000000245000000000000000000000000000000000000000000000000000000000000000000000000000000000000000
    (d.put f 1 die l) (d.laneErr die l f code) := Dev.linkRec_kp _ _ _ _ _ _ (Within.refl _) (Agree.refl _ _)

include hf

theorem Dev.laneErr_sets : (d.laneErr die l f code).get f die l = 1 := by
  refine ((Dev.laneErr_put d die l code f).get f rfl (by rw [hreg]; rfl) ..).trans ?_
  exact Dev.get_put_self _ _ _ _ _ _ hf.2 hf.1 (Nat.one_lt_two_pow (by omega))

omit hreg in
theorem Dev.laneErr_keeps (hg : g.reg = .SER_LSTAT ∧ g.hi < 32) (h : f.hi < g.lo ∨ g.hi < f.lo) :
    (d.laneErr die l f code).get g die l = d.get g die l := by
  refine ((Dev.laneErr_put d die l code f).get g rfl (by rw [hg.1]; rfl) ..).trans ?_
  exact Dev.get_put_bits _ _ hg.2 hf.1 h

end

/-! The states of the sequence (R308, R312, R321) -/

/-- The package with the receiver's settings found in ADAPT, and in the full sequence the transmitter's. -/
def Dev.laneTuned (d : Dev) (die l : Nat) (r : LaneRes) : Dev :=
  let d1 := ((d.put F.SER_LSTAT_FOM (r.fom % 2 ^ 8) die l).put F.SER_RXEQ_CTLE (r.ctle % 2 ^ 5) die l).put F.SER_RXEQ_DFE1 (r.dfe1 % 2 ^ 7) die l
  if (d.lane die l).seq = 1 then d1.setRaw ⟨.SER_TXEQ, die, l, 0⟩ (r.txeq % 2 ^ 24) else d1

/-- The lane takes the far end's timing: it has asked for it, and does not keep its own against a request of the far end. -/
def Dev.laneLoops (d : Dev) (die l : Nat) : Bool := (d.lane die l).req && !((d.lane die l).farReq && d.laneKeeps die l)

/-- The package with the timing of a lane chosen. -/
def Dev.laneTimed (d : Dev) (die l : Nat) : Dev :=
  let d1 := d.put F.SER_LSTAT_LOOPT (if d.laneLoops die l then 1 else 0) die l
  if (d.lane die l).req && !d.laneLoops die l then d1.modLane die l fun y => { y with refused := some (d.tick die) } else d1

section
variable {d : Dev} {die l : Nat} (r : LaneRes)

theorem Dev.laneStep_eq (hhere : d.laneHere die l = true) : d.laneStep die l r =
    match d.laneSt die l with
    | 1 => d.setLaneSt die l laneAdapt
    | 2 => if (d.laneTuned die l r).get F.SER_FOMCFG_FOMTRN die l ≤ r.fom then (d.laneTuned die l r).setLaneSt die l laneAlign else d.laneTuned die l r
    | 3 =>
      if (d.lane die l).lock then (if ethLane l || (d.lane die l).seq == 3 then d.laneEnterUp die l else d.setLaneSt die l laneTrain) else d
    | 4 =>
      if !r.sent || (d.lane die l).ready < 64 then d
      else if (d.lane die l).seq = 2 then (d.laneTimed die l).laneEnterUp die l
      else d.laneEnterUp die l
    | _ => d := if_neg (by simp [hhere])

theorem Dev.laneTuned_agree (d : Dev) (die l : Nat) (r : LaneRes) :
    Agree 0x3008000000000000000000000000000000000000000000000000000 d (d.laneTuned die l r) := by
  have hputs : Agree 0x3008000000000000000000000000000000000000000000000000000 d
      (((d.put F.SER_LSTAT_FOM (r.fom % 2 ^ 8) die l).put F.SER_RXEQ_CTLE (r.ctle % 2 ^ 5) die l).put F.SER_RXEQ_DFE1 (r.dfe1 % 2 ^ 7) die l) :=
    Dev.put_kp _ _ _ _ _ _ rfl ((Within.refl _).up rfl) (Dev.put_kp _ _ _ _ _ _ rfl ((Within.refl _).up rfl)
      (Dev.put_kp _ _ _ _ _ _ rfl ((Within.refl _).up rfl) (Agree.refl _ _)))
  exact Agree.ite (Dev.setRaw_kp _ _ _ (by dsimp only; decide) hputs) hputs

theorem Dev.laneTuned_found (d : Dev) (die l : Nat) (r : LaneRes) :
    let e := d.laneTuned die l r
    e.get F.SER_LSTAT_FOM die l = r.fom % 256 ∧ e.get F.SER_RXEQ_CTLE die l = r.ctle % 32 ∧ e.get F.SER_RXEQ_DFE1 die l = r.dfe1 % 128 ∧
      ((d.lane die l).seq = 1 → e.raw ⟨.SER_TXEQ, die, l, 0⟩ = r.txeq % 2 ^ 24) ∧
      e.get F.SER_LSTAT_STATE die l = d.get F.SER_LSTAT_STATE die l := by
  have htx (c : Prop) [Decidable c] (d1 : Dev) (w : Nat) {g : Fld} (hg : g.reg = .SER_LSTAT ∨ g.reg = .SER_RXEQ) :
      (if c then d1.setRaw ⟨.SER_TXEQ, die, l, 0⟩ w else d1).get g die l = d1.get g die l := by
    refine (Agree.ite (ω := d1) (μ := 0x2000000000000000000000000000000000000000000000000000000) (Dev.setRaw_kp _ _ _ (by dsimp only; decide) (Agree.refl _ _)) (Agree.refl _ _)).get g rfl ?_ ..
    obtain hg | hg := hg <;> rw [hg] <;> rfl
  rw [Dev.laneTuned]
  refine ⟨(htx _ _ _ (.inl rfl)).trans ?_, (htx _ _ _ (.inr rfl)).trans ?_, (htx _ _ _ (.inr rfl)).trans ?_, fun hseq => ?_, (htx _ _ _ (.inl rfl)).trans ?_⟩
  · rw [Dev.get_put_reg _ _ (by decide) (by decide) (by decide), Dev.get_put_reg _ _ (by decide) (by decide) (by decide)]
    exact Dev.get_put_self _ _ _ _ _ _ (by decide) (by decide) (Nat.mod_lt _ (by decide))
  · rw [Dev.get_put_bits _ _ (by decide) (by decide) (by decide)]
    exact Dev.get_put_self _ _ _ _ _ _ (by decide) (by decide) (Nat.mod_lt _ (by decide))
  · exact Dev.get_put_self _ _ _ _ _ _ (by decide) (by decide) (Nat.mod_lt _ (by decide))
  · rw [if_pos hseq, Dev.raw_setRaw, if_pos rfl]
    omega
  · simp (disch := decide) only [Dev.get_put_reg, Dev.get_put_bits]

theorem Dev.laneTimed_agree (d : Dev) (die l : Nat) :
    Agree 0x100000000000000000000000000000000000000000000000000008000000000000000000000000000000000000000000000000000 d (d.laneTimed die l) :=
  have hput := Dev.put_kp d F.SER_LSTAT_LOOPT (if d.laneLoops die l then 1 else 0) die l 0 rfl ((Within.refl _).up (by decide)) (Agree.refl _ _)
  Agree.ite (Dev.modLane_kp _ _ _ _ ((Within.refl _).up (by decide)) hput) hput

theorem Dev.laneTimed_timing (d : Dev) (die l : Nat) :
    ((d.laneTimed die l).lane die l).pend = (d.lane die l).pend ∧
      (d.laneTimed die l).get F.SER_LSTAT_LOOPT die l = if d.laneLoops die l = true then 1 else 0 := by
  have hput : (d.put F.SER_LSTAT_LOOPT (if d.laneLoops die l then 1 else 0) die l).get F.SER_LSTAT_LOOPT die l = if d.laneLoops die l = true then 1 else 0 :=
    Dev.get_put_self _ _ _ _ _ _ (by decide) (by decide) (by split <;> decide)
  rw [Dev.laneTimed]
  split
  · rw [Dev.modLane_lane_self, Dev.put_read_lane, Dev.modLane_read_get]
    exact ⟨rfl, hput⟩
  · exact ⟨rfl, hput⟩

theorem Dev.laneStep_calm (hhere : d.laneHere die l = true) (h : d.portCalm die l) : (d.laneStep die l r).portCalm die l := by
  have hst (e : Dev) (he : e.portCalm die l) (st : Nat) : (e.setLaneSt die l st).portCalm die l :=
    (Dev.setLaneSt_kp e die l st (Within.refl _) (Agree.refl _ _)).portCalm rfl rfl rfl he
  have htuned := (d.laneTuned_agree die l r).portCalm rfl rfl rfl h
  rw [Dev.laneStep_eq r hhere]
  split
  · exact hst _ h _
  · exact .ite (hst _ htuned _) htuned
  · exact .ite (.ite (Dev.laneEnterUp_calm h) (hst _ h _)) h
  · exact .ite h (.ite (Dev.laneEnterUp_calm ((d.laneTimed_agree die l).portCalm rfl rfl rfl h)) (Dev.laneEnterUp_calm h))
  · exact h

section
variable (hhere : d.laneHere die l = true)
include hhere

theorem Dev.laneStep_cal (h : d.get F.SER_LSTAT_STATE die l = 1) : (d.laneStep die l r).get F.SER_LSTAT_STATE die l = 2 := by
  rw [Dev.laneStep_eq r hhere, show d.laneSt die l = 1 from h]
  exact Dev.setLaneSt_state _ _ _ (by decide)

theorem Dev.laneStep_adapt (h : d.get F.SER_LSTAT_STATE die l = 2) :
    let e := d.laneStep die l r
    e.get F.SER_LSTAT_FOM die l = r.fom % 256 ∧ e.get F.SER_RXEQ_CTLE die l = r.ctle % 32 ∧ e.get F.SER_RXEQ_DFE1 die l = r.dfe1 % 128 ∧
      ((d.lane die l).seq = 1 → e.raw ⟨.SER_TXEQ, die, l, 0⟩ = r.txeq % 2 ^ 24) ∧
      e.get F.SER_LSTAT_STATE die l = if d.get F.SER_FOMCFG_FOMTRN die l ≤ r.fom then 3 else 2 := by
  obtain ⟨hfom, hctle, hdfe, htx, hst⟩ := d.laneTuned_found die l r
  have hlimit := (d.laneTuned_agree die l r).get F.SER_FOMCFG_FOMTRN rfl rfl die l 0
  have hrun : d.laneStep die l r =
      if (d.laneTuned die l r).get F.SER_FOMCFG_FOMTRN die l ≤ r.fom then (d.laneTuned die l r).setLaneSt die l laneAlign else d.laneTuned die l r := by
    rw [Dev.laneStep_eq r hhere, show d.laneSt die l = 2 from h]
    rfl
  rw [hlimit] at hrun
  dsimp only
  rw [hrun]
  split
  · have hset := Dev.setLaneSt_kp (d.laneTuned die l r) die l laneAlign (Within.refl _) (Agree.refl _ _)
    refine ⟨(Dev.setLaneSt_sticky _ _ _ (by decide) _).trans hfom, (hset.get F.SER_RXEQ_CTLE rfl rfl ..).trans hctle,
      (hset.get F.SER_RXEQ_DFE1 rfl rfl ..).trans hdfe, fun hseq => ?_, Dev.setLaneSt_state _ _ _ (by decide)⟩
    exact (hset.raw _ rfl (by dsimp only; decide)).trans (htx hseq)
  · exact ⟨hfom, hctle, hdfe, htx, hst.trans h⟩

theorem Dev.laneStep_align (h : d.get F.SER_LSTAT_STATE die l = 3) :
    let e := d.laneStep die l r
    if (d.lane die l).lock = false then d.laneSame e die l
    else if 17 ≤ l ∨ (d.lane die l).seq = 3 then
      (d.lane die l).pend = 0 → e.get F.SER_LSTAT_STATE die l = 5 ∧ (e.lane die l).ebuf = List.replicate 4 ⟨3, []⟩
    else e.get F.SER_LSTAT_STATE die l = 4 := by
  have hexit : (ethLane l || (d.lane die l).seq == 3) = true ↔ 17 ≤ l ∨ (d.lane die l).seq = 3 := by simp [ethLane]
  have hrun : d.laneStep die l r =
      if (d.lane die l).lock then (if ethLane l || (d.lane die l).seq == 3 then d.laneEnterUp die l else d.setLaneSt die l laneTrain) else d := by
    rw [Dev.laneStep_eq r hhere, show d.laneSt die l = 3 from h]
    rfl
  dsimp only
  rw [hrun]
  by_cases hlock : (d.lane die l).lock = false
  · rw [if_pos hlock, if_neg (by simp [hlock])]
    exact .refl ..
  · rw [if_neg hlock, if_pos (show (d.lane die l).lock = true by simpa using hlock)]
    by_cases hx : 17 ≤ l ∨ (d.lane die l).seq = 3
    · rw [if_pos hx, if_pos (hexit.mpr hx)]
      exact d.laneEnterUp_up die l
    · rw [if_neg hx, if_neg (mt hexit.mp hx)]
      exact Dev.setLaneSt_state _ _ _ (by decide)

theorem Dev.laneStep_train (h : d.get F.SER_LSTAT_STATE die l = 4) :
    let e := d.laneStep die l r
    if r.sent = false ∨ (d.lane die l).ready < 64 then d.laneSame e die l
    else (d.lane die l).pend = 0 → e.get F.SER_LSTAT_STATE die l = 5 ∧ (e.lane die l).ebuf = List.replicate 4 ⟨3, []⟩ ∧
      ((d.lane die l).seq = 2 → e.get F.SER_LSTAT_LOOPT die l =
        if (d.lane die l).req = true ∧ ¬ ((d.lane die l).farReq = true ∧ d.laneKeeps die l = true) then 1 else 0) := by
  have hwait : (!r.sent || decide ((d.lane die l).ready < 64)) = true ↔ r.sent = false ∨ (d.lane die l).ready < 64 := by simp
  have hloop : d.laneLoops die l = true ↔ (d.lane die l).req = true ∧ ¬ ((d.lane die l).farReq = true ∧ d.laneKeeps die l = true) := by
    simp [Dev.laneLoops, imp_iff_not_or]
  have hrun : d.laneStep die l r =
      if !r.sent || (d.lane die l).ready < 64 then d
      else if (d.lane die l).seq = 2 then (d.laneTimed die l).laneEnterUp die l
      else d.laneEnterUp die l := by
    rw [Dev.laneStep_eq r hhere, show d.laneSt die l = 4 from h]
    rfl
  dsimp only
  rw [hrun]
  split
  next hw =>
    rw [if_pos (hwait.mpr hw)]
    exact .refl ..
  next hw =>
    rw [if_neg (mt hwait.mp hw)]
    intro hpend
    by_cases hseq : (d.lane die l).seq = 2
    · obtain ⟨hkept, hset⟩ := d.laneTimed_timing die l
      obtain ⟨hst, hbuf⟩ := (d.laneTimed die l).laneEnterUp_up die l (hkept.trans hpend)
      rw [if_pos hseq]
      refine ⟨hst, hbuf, fun _ => ?_⟩
      rw [Dev.laneEnterUp_eq _ _ _ (hkept.trans hpend), ← if_congr hloop rfl rfl]
      exact (Dev.get_put_bits _ _ (by decide) (by decide) (by decide)).trans hset
    · obtain ⟨hst, hbuf⟩ := d.laneEnterUp_up die l hpend
      rw [if_neg hseq]
      exact ⟨hst, hbuf, fun h2 => absurd h2 hseq⟩

theorem Dev.laneStep_idle (h : d.get F.SER_LSTAT_STATE die l = 0 ∨ 4 < d.get F.SER_LSTAT_STATE die l) : d.laneStep die l r = d := by
  rw [Dev.laneStep_eq r hhere]
  obtain h | h := h
  · rw [show d.laneSt die l = 0 from h]
    rfl
  · obtain ⟨n, hn⟩ := Nat.exists_eq_add_of_le' (Nat.succ_le_of_lt h)
    rw [show d.laneSt die l = n + 5 from hn]
    rfl

end

end

/-! A sequence that takes too long (R312) -/

section
variable {d : Dev} {die l : Nat} (hhere : d.laneHere die l = true)

/-- ADAPT or TRAIN has taken 10 ms. -/
def Dev.laneOverdue (d : Dev) (die l : Nat) : Prop :=
  (d.get F.SER_LSTAT_STATE die l = 2 ∨ d.get F.SER_LSTAT_STATE die l = 4) ∧ d.late die (d.lane die l).at_ 10000 = true

/-- The package with the sequence given up: TRAINERR, and the lane DOWN. -/
def Dev.laneGivesUp (d : Dev) (die l : Nat) : Dev := (d.laneErr die l F.SER_LSTAT_TRAINERR 4).laneDownNow die l

include hhere

theorem Dev.laneOverdue_iff :
    (d.laneHere die l && (d.laneSt die l == laneAdapt || d.laneSt die l == laneTrain) && d.late die (d.lane die l).at_ 10000) = true ↔ d.laneOverdue die l := by
  simp only [hhere, Bool.true_and, Bool.and_eq_true, Bool.or_eq_true, beq_iff_eq, Dev.laneOverdue]
  rfl

theorem Dev.laneTimeout_idle (h : ¬ d.laneOverdue die l) : d.laneTimeout die l = d := if_neg (mt (Dev.laneOverdue_iff hhere).mp h)

theorem Dev.laneTimeout_repeats (h : d.laneOverdue die l) (hretry : ¬ (d.lane die l).retry = true) : d.laneTimeout die l = d.laneFull die l true :=
  (if_pos ((Dev.laneOverdue_iff hhere).mpr h)).trans (if_neg hretry)

theorem Dev.laneTimeout_fails (h : d.laneOverdue die l) (hretry : (d.lane die l).retry = true) :
    d.laneTimeout die l = (d.laneGivesUp die l).laneEnded die l :=
  (if_pos ((Dev.laneOverdue_iff hhere).mpr h)).trans (if_pos hretry)

omit hhere in
theorem Dev.laneGivesUp_calm (h : d.portCalm die l) : (d.laneGivesUp die l).portCalm die l :=
  Dev.laneHalt_calm ((d.laneErr_agree die l 4 rfl).portCalm rfl rfl rfl h)

theorem Dev.laneTimeout_calm (h : d.portCalm die l) : (d.laneTimeout die l).portCalm die l := by
  by_cases hlate : d.laneOverdue die l
  · by_cases hretry : (d.lane die l).retry = true
    · rw [Dev.laneTimeout_fails hhere hlate hretry]
      exact Dev.laneEnded_calm (Dev.laneGivesUp_calm h)
    · rw [Dev.laneTimeout_repeats hhere hlate hretry]
      exact (d.laneFull_agree die l true).portCalm rfl rfl rfl h
  · rwa [Dev.laneTimeout_idle hhere hlate]

theorem Dev.laneTimeout_down (h : d.laneOverdue die l) (hretry : (d.lane die l).retry = true) (hpend : (d.lane die l).pend = 0) :
    (d.laneTimeout die l).get F.SER_LSTAT_STATE die l = 8 ∧ (d.laneTimeout die l).get F.SER_LSTAT_TRAINERR die l = 1 := by
  have hnone : ((d.laneGivesUp die l).lane die l).pend = 0 := by
    rw [Dev.laneGivesUp, Dev.laneDownNow_pend, (d.laneErr_agree die l 4 rfl).lane rfl, hpend]
  rw [Dev.laneTimeout_fails hhere h hretry, Dev.laneEnded_none _ _ _ hnone]
  refine ⟨(Dev.laneDownNow_down ..).1, (Dev.laneDownNow_sticky _ _ _ rfl (by decide)).trans (d.laneErr_sets die l 4 rfl (by decide))⟩

end

/-! Alignment and loop timing (R307–R310) -/

section
variable {d : Dev} {die l : Nat}

/-- A candidate of the hunter with 64 valid headers. -/
def Dev.laneLocks (d : Dev) (die l : Nat) (hdrs : List Nat) : Prop :=
  d.get F.SER_LSTAT_STATE die l = 3 ∧ 64 ≤ hdrs.length ∧ ∀ h ∈ hdrs, h = 1 ∨ h = 2

theorem Dev.laneLock_locks {hdrs : List Nat} (hhere : d.laneHere die l = true) (h : d.laneLocks die l hdrs) :
    d.laneLock die l hdrs = d.modLane die l fun x => { x with lock := true } := by
  obtain ⟨hst, hlen, hall⟩ := h
  refine if_pos ?_
  simp only [hhere, Bool.true_and, Bool.and_eq_true, beq_iff_eq, decide_eq_true_eq, List.all_eq_true, Bool.or_eq_true]
  exact ⟨⟨hst, hlen⟩, hall⟩

theorem Dev.laneLock_idle {hdrs : List Nat} (h : ¬ d.laneLocks die l hdrs) : d.laneLock die l hdrs = d := by
  refine if_neg fun hc => h ?_
  simp only [Bool.and_eq_true, beq_iff_eq, decide_eq_true_eq, List.all_eq_true, Bool.or_eq_true] at hc
  exact ⟨hc.1.1.2, hc.1.2, hc.2⟩

theorem Dev.laneLock_calm {hdrs : List Nat} (h : d.portCalm die l) : (d.laneLock die l hdrs).portCalm die l :=
  (Dev.laneLock_kp d die l hdrs (Within.refl _) (Agree.refl _ _)).portCalm rfl rfl rfl h

theorem Dev.laneRelock_hunts (h : d.get F.SER_LSTAT_STATE die l = 3 ∧ (d.lane die l).seq = 3 ∧ (d.lane die l).lock = false ∧
      d.late die (d.lane die l).at_ 1000 = true) :
    (d.laneRelock die l).get F.SER_LSTAT_STATE die l = 2 ∧ ((d.laneRelock die l).lane die l).seq = 1 := by
  have hrun : d.laneRelock die l = (d.laneFull die l false).setLaneSt die l laneAdapt := if_pos h
  obtain ⟨-, -, -, hseq, -⟩ := d.laneFull_began die l false
  rw [hrun]
  refine ⟨Dev.setLaneSt_state _ _ _ (by decide), ?_⟩
  rw [Dev.setLaneSt, Dev.modLane_lane_self, Dev.put_read_lane]
  exact hseq

theorem Dev.lanePpm_measures (offs : Nat) (hhere : d.laneHere die l = true) (h : d.get F.SER_LSTAT_STATE die l = 5) (hoffs : offs < 2 ^ 16) :
    let e := d.lanePpm die l offs
    e.get F.SER_PPM_OFFS die l = offs ∧ e.get F.SER_LSTAT_STATE die l = 5 ∧
      (e.lane die l).fast = if 4000 < sext 16 offs then some ((d.lane die l).fast.getD (d.tick die)) else none := by
  have hgo : ¬ (!d.laneHere die l || d.laneSt die l != laneUp) = true := by
    rw [hhere, show d.laneSt die l = laneUp from h]
    decide
  have hrun : d.lanePpm die l offs = (d.put F.SER_PPM_OFFS (offs % 2 ^ 16) die l).modLane die l fun x =>
      { x with fast := if decide (4000 < sext 16 offs) = true then some (x.fast.getD (d.tick die)) else none } := if_neg hgo
  dsimp only
  rw [hrun, Dev.modLane_lane_self, Dev.modLane_read_get, Dev.modLane_read_get, Dev.put_read_lane]
  refine ⟨?_, (Dev.get_put_reg _ _ (by decide) (by decide) (by decide)).trans h, if_congr decide_eq_true_iff rfl rfl⟩
  exact (Dev.get_put_self _ _ _ _ _ _ (by decide) (by decide) (Nat.mod_lt _ (by decide))).trans (Nat.mod_eq_of_lt hoffs)

theorem Dev.lanePpm_idle (offs : Nat) (h : ¬ d.get F.SER_LSTAT_STATE die l = 5) : d.lanePpm die l offs = d := by
  have hst : (d.laneSt die l != laneUp) = true := bne_iff_ne.mpr h
  refine if_pos ?_
  rw [hst, Bool.or_true]

/-- Loop timing is due since a tick. -/
def Dev.laneFast (d : Dev) (die l t : Nat) : Prop :=
  d.get F.SER_LSTAT_STATE die l = 5 ∧ d.get F.SER_LCTL_LOOPOK die l ≠ 0 ∧ d.get F.SER_LSTAT_LOOPT die l = 0 ∧ d.late die t 100 = true

theorem Dev.laneFast_iff (t : Nat) : (d.laneSt die l = laneUp ∧ d.on? F.SER_LCTL_LOOPOK die l = true ∧ d.on? F.SER_LSTAT_LOOPT die l = false ∧
    d.late die t 100 = true) ↔ d.laneFast die l t := by
  simp only [Dev.laneFast, Dev.on?, bne_iff_ne, bne_eq_false_iff_eq]
  rfl

theorem Dev.laneLoopReq_asks {t : Nat} (hfast : (d.lane die l).fast = some t) (h : d.laneFast die l t) :
    let e := d.laneLoopReq die l
    e.get F.SER_LSTAT_STATE die l = 4 ∧ (e.lane die l).seq = 2 ∧ (e.lane die l).req = true := by
  have hrun : d.laneLoopReq die l = (d.modLane die l fun x => { x with fast := none }).laneShort die l true := by
    rw [Dev.laneLoopReq, hfast]
    exact if_pos ((Dev.laneFast_iff t).mpr h)
  dsimp only
  rw [hrun, Dev.laneShort, Dev.modLane_lane_self]
  exact ⟨Dev.setLaneSt_state _ _ _ (by decide), rfl, rfl⟩

theorem Dev.laneLoopReq_idle (h : ∀ t, (d.lane die l).fast = some t → ¬ d.laneFast die l t) : d.laneLoopReq die l = d := by
  rw [Dev.laneLoopReq]
  split
  · rfl
  next t hfast => exact if_neg (mt (Dev.laneFast_iff t).mp (h t hfast))

end

/-- Settles O51: each event of a lane by its cases; what follows an event leaves the lane as the event has left it. -/
theorem laneSequence : Obligations.LaneSequence := by
  intro die l
  refine ⟨Effect.laneTrain_of _ _ fun d _ hup hcalm => ?_, Effect.laneHold_of _ _ fun d _ hup hcalm => ?_, Effect.laneSleep_of _ _ fun d _ hup hcalm => ?_,
    Effect.laneWake_of _ _ fun d _ hup hcalm => ?_, fun loop prbs => Effect.laneTest_of _ _ _ _ fun d hwf hup hcalm => ?_,
    fun r => Effect.laneStateEnd_of _ _ _ fun d _ hup hcalm => ?_, Effect.laneTrainTimeout_of _ _ fun d _ hup hcalm => ?_,
    fun hdrs => Effect.alignLock_of _ _ _ fun d _ hup hcalm => ?_, Effect.alignRelockTimeout_of _ _ fun d _ hup hcalm => ?_,
    fun offs => Effect.ppmMeasure_of _ _ _ fun d hwf hup hcalm => ?_, Effect.loopTimingRequest_of _ _ fun d _ hup hcalm => ?_⟩
  · obtain ⟨hheld, hacts⟩ := Dev.laneCommand (cmd := 1) (by decide) (Place.ofLane_here hup) hcalm
    dsimp only
    split
    next h => exact hheld h
    next h =>
      have hkeep := hacts h
      split
      next hst =>
        obtain ⟨hbegan, hsticky, hcount⟩ := Dev.laneCmd_train hst
        exact ⟨hkeep.laneBegan rfl rfl rfl hbegan, (hkeep.get serSticky rfl rfl ..).trans hsticky, (hkeep.get F.SER_NEVT_NTRAIN rfl rfl ..).trans hcount⟩
      next hst => exact hkeep.laneIdle (Dev.laneCmd_idle (.inl ⟨rfl, hst⟩))
  · obtain ⟨hheld, hacts⟩ := Dev.laneCommand (cmd := 2) (by decide) (Place.ofLane_here hup) hcalm
    dsimp only
    split
    next h => exact hheld h
    next h =>
      have hkeep := hacts h
      split
      next hst => exact hkeep.laneIdle (Dev.laneCmd_idle (.inr (.inl ⟨rfl, hst⟩)))
      next hst =>
        have hdown : d.laneCmd die l 2 = d.laneDownNow die l := if_neg hst
        rw [hdown] at hkeep
        exact ⟨(hkeep.get F.SER_LSTAT_STATE rfl rfl ..).trans (d.laneDownNow_down die l).1, hkeep.laneWoken rfl rfl (d.laneDownNow_down die l).2⟩
  · obtain ⟨hheld, hacts⟩ := Dev.laneCommand (cmd := 3) (by decide) (Place.ofLane_here hup) hcalm
    dsimp only
    split
    next h => exact hheld h
    next h =>
      have hkeep := hacts h
      split
      next hst =>
        obtain ⟨hsleep, hwoken, hlane⟩ := Dev.laneCmd_sleep hst
        rw [hkeep.lane rfl]
        exact ⟨(hkeep.get F.SER_LSTAT_STATE rfl rfl ..).trans hsleep, hkeep.laneWoken rfl rfl hwoken, hlane⟩
      next hst => exact hkeep.laneIdle (Dev.laneCmd_idle (.inr (.inr (.inl ⟨rfl, hst⟩))))
  · obtain ⟨hheld, hacts⟩ := Dev.laneCommand (cmd := 4) (by decide) (Place.ofLane_here hup) hcalm
    dsimp only
    split
    next h => exact hheld h
    next h =>
      have hkeep := hacts h
      split
      next hst =>
        have hwake : d.laneCmd die l 4 = d.laneWakeNow die l := if_pos hst
        rw [hwake] at hkeep
        rw [hkeep.lane rfl]
        exact ⟨(hkeep.get F.SER_LSTAT_STATE rfl rfl ..).trans (d.laneWakeNow_wakes die l).1, (d.laneWakeNow_wakes die l).2⟩
      next hst => exact hkeep.laneIdle (Dev.laneCmd_idle (.inr (.inr (.inr (.inl ⟨rfl, hst⟩)))))
  · have hhere := Place.ofLane_here hup
    simp only [Instr.wf, Bool.and_eq_true, decide_eq_true_eq] at hwf
    obtain ⟨⟨-, hloop⟩, hprbs⟩ := hwf
    have hkeep := Dev.laneAfter_agree (f := fun d => d.laneTestWrite die l loop prbs) (Dev.laneTestWrite_calm hhere hloop hprbs hcalm)
    obtain ⟨hl, hp⟩ := Dev.laneTestWrite_set hhere hloop hprbs
    refine ⟨(hkeep.get F.SER_LCTL_TLOOP rfl rfl ..).trans hl, (hkeep.get F.SER_LCTL_PRBS rfl rfl ..).trans hp, ?_⟩
    split
    next h => exact hkeep.laneHeld rfl rfl rfl rfl (Dev.laneTestWrite_held hhere hloop hprbs h)
    next h =>
      split
      next hst =>
        obtain ⟨htest, hwoken⟩ := Dev.laneTestWrite_tests hhere hloop hprbs hst
        exact ⟨(hkeep.get F.SER_LSTAT_STATE rfl rfl ..).trans htest, hkeep.laneWoken rfl rfl hwoken⟩
      next hst => exact hkeep.laneSame rfl rfl rfl (Dev.laneTestWrite_idle hhere hloop hprbs h hst)
  · have hhere := Place.ofLane_here hup
    have hkeep := Dev.laneAfter_agree (f := fun d => d.laneStep die l r) (Dev.laneStep_calm r hhere hcalm)
    refine ⟨fun h => (hkeep.get F.SER_LSTAT_STATE rfl rfl ..).trans (Dev.laneStep_cal r hhere h), fun h => ?_, fun h => ?_, fun h => ?_, fun h => ?_⟩
    · obtain ⟨hfom, hctle, hdfe, htx, hst⟩ := Dev.laneStep_adapt r hhere h
      exact ⟨(hkeep.get F.SER_LSTAT_FOM rfl rfl ..).trans hfom, (hkeep.get F.SER_RXEQ_CTLE rfl rfl ..).trans hctle,
        (hkeep.get F.SER_RXEQ_DFE1 rfl rfl ..).trans hdfe, fun hseq => (hkeep.raw _ rfl (by dsimp only; decide)).trans (htx hseq),
        (hkeep.get F.SER_LSTAT_STATE rfl rfl ..).trans hst⟩
    · have halign := Dev.laneStep_align r hhere h
      dsimp only
      rw [hkeep.lane rfl, hkeep.get F.SER_LSTAT_STATE rfl rfl, hkeep.laneStatus rfl rfl]
      exact halign
    · have htrain := Dev.laneStep_train r hhere h
      dsimp only
      rw [hkeep.lane rfl, hkeep.get F.SER_LSTAT_STATE rfl rfl, hkeep.get F.SER_LSTAT_LOOPT rfl rfl, hkeep.laneStatus rfl rfl]
      exact htrain
    · rw [Dev.laneStep_idle r hhere h] at hkeep
      exact hkeep.laneSame rfl rfl rfl (.refl ..)
  · have hhere := Place.ofLane_here hup
    have hkeep := Dev.laneAfter_agree (f := fun d => d.laneTimeout die l) (Dev.laneTimeout_calm hhere hcalm)
    dsimp only
    split
    next hlate =>
      split
      next hretry =>
        intro hpend
        obtain ⟨hdown, herr⟩ := Dev.laneTimeout_down hhere hlate hretry hpend
        exact ⟨(hkeep.get F.SER_LSTAT_STATE rfl rfl ..).trans hdown, (hkeep.get F.SER_LSTAT_TRAINERR rfl rfl ..).trans herr⟩
      next hretry =>
        rw [Dev.laneTimeout_repeats hhere hlate hretry] at hkeep
        refine ⟨hkeep.laneBegan rfl rfl rfl (d.laneFull_began die l true), ?_⟩
        rw [hkeep.lane rfl]
        exact d.laneFull_retry die l true
    next hlate => exact hkeep.laneIdle (Dev.laneTimeout_idle hhere hlate)
  · have hhere := Place.ofLane_here hup
    have hkeep := Dev.laneAfter_agree (f := fun d => d.laneLock die l hdrs) (Dev.laneLock_calm hcalm)
    dsimp only
    split
    next h =>
      rw [Dev.laneLock_locks hhere h] at hkeep
      rw [hkeep.lane rfl, Dev.modLane_lane_self]
      exact ⟨rfl, (hkeep.get F.SER_LSTAT_STATE rfl rfl ..).trans h.1⟩
    next h => exact hkeep.laneIdle (Dev.laneLock_idle h)
  · have hkeep := Dev.laneAfter_agree (f := fun d => d.laneRelock die l)
      ((Dev.laneRelock_kp d die l (Within.refl _) (Agree.refl _ _)).portCalm rfl rfl rfl hcalm)
    dsimp only
    split
    next h =>
      rw [hkeep.lane rfl, hkeep.get F.SER_LSTAT_STATE rfl rfl]
      exact Dev.laneRelock_hunts h
    next h => exact hkeep.laneIdle (if_neg h)
  · have hhere := Place.ofLane_here hup
    simp only [Instr.wf, Bool.and_eq_true, decide_eq_true_eq] at hwf
    have hkeep := Dev.laneAfter_agree (f := fun d => d.lanePpm die l offs)
      ((Dev.lanePpm_kp d die l offs (Within.refl _) (Agree.refl _ _)).portCalm rfl rfl rfl hcalm)
    dsimp only
    split
    next h =>
      rw [hkeep.lane rfl, hkeep.get F.SER_LSTAT_STATE rfl rfl, hkeep.get F.SER_PPM_OFFS rfl rfl]
      exact Dev.lanePpm_measures offs hhere h hwf.2
    next h => exact hkeep.laneIdle (Dev.lanePpm_idle offs h)
  · have hkeep := Dev.laneAfter_agree (f := fun d => d.laneLoopReq die l)
      ((Dev.laneLoopReq_kp d die l (Within.refl _) (Agree.refl _ _)).portCalm rfl rfl rfl hcalm)
    dsimp only
    split
    next h =>
      obtain ⟨hst, hok, hloop, t, hfast, hlate⟩ := h
      rw [hkeep.lane rfl, hkeep.get F.SER_LSTAT_STATE rfl rfl]
      exact Dev.laneLoopReq_asks hfast ⟨hst, hok, hloop, hlate⟩
    next h => exact hkeep.laneIdle (Dev.laneLoopReq_idle fun t hfast hdue => h ⟨hdue.1, hdue.2.1, hdue.2.2.1, t, hfast, hdue.2.2.2⟩)

end Sys2Proof.Machine
end

section
/-!
PROOF of O52: what a serial lane receives, its eye monitor, doze, deep sleep and loss of signal (R305–R310, R313, R315–R322).
-/
namespace Sys2Proof.Machine

/-! Codewords (R305, R322) -/

/-- The number of codewords that a lane has received. -/
def Dev.laneWords (d : Dev) (die l : Nat) : Nat := d.get F.SER_NCW_LO_COUNT die l + 2 ^ 32 * d.get F.SER_NCW_HI_COUNT die l

theorem Dev.count64_words (d : Dev) (die l : Nat) :
    (d.count64 F.SER_NCW_LO_COUNT F.SER_NCW_HI_COUNT 1 die l).laneWords die l % 2 ^ 64 = (d.laneWords die l + 1) % 2 ^ 64 := by
  have hlo : (d.count64 F.SER_NCW_LO_COUNT F.SER_NCW_HI_COUNT 1 die l).get F.SER_NCW_LO_COUNT die l = (d.laneWords die l + 1) % 2 ^ 32 :=
    (Dev.get_put_reg _ _ (by decide) (by decide) (by decide)).trans (Dev.get_put_self _ _ _ _ _ _ (by decide) (by decide) (Nat.mod_lt _ (by decide)))
  have hhi : (d.count64 F.SER_NCW_LO_COUNT F.SER_NCW_HI_COUNT 1 die l).get F.SER_NCW_HI_COUNT die l = (d.laneWords die l + 1) / 2 ^ 32 % 2 ^ 32 :=
    Dev.get_put_self _ _ _ _ _ _ (by decide) (by decide) (Nat.mod_lt _ (by decide))
  rw [Dev.laneWords, hlo, hhi]
  omega

/-- The symbols of a codeword as a lane takes them. -/
def laneSymbols (syms : List Nat) : List Nat := (List.range 544).map fun i => syms.getD i 0 % 1024

/-- The package with a lane that has seen its signal. -/
def Dev.laneSeen (d : Dev) (die l : Nat) : Dev := d.modLane die l fun x => { x with seen := d.tick die }

/-- The package with a codeword counted, and its symbols as corrected or the codeword as uncorrectable. -/
def Dev.laneCounted (d : Dev) (die l : Nat) (dec : Option (List Nat)) : Dev :=
  let d1 := (d.laneSeen die l).count64 F.SER_NCW_LO_COUNT F.SER_NCW_HI_COUNT 1 die l
  match dec with
  | some e => d1.countSat F.SER_NCORR_COUNT (e.filter fun s => s != 0).length die l
  | none => d1.countSat F.SER_NUNC_COUNT 1 die l

/-- What the statement says of a codeword that is counted. -/
def Dev.laneTally (d e : Dev) (die l : Nat) (dec : Option (List Nat)) : Prop :=
  e.laneWords die l % 2 ^ 64 = (d.laneWords die l + 1) % 2 ^ 64 ∧
    match dec with
    | some c => e.get F.SER_NCORR_COUNT die l = satAdd 32 (d.get F.SER_NCORR_COUNT die l) (c.filter fun s => s != 0).length ∧
        e.get F.SER_NUNC_COUNT die l = d.get F.SER_NUNC_COUNT die l
    | none => e.get F.SER_NUNC_COUNT die l = satAdd 32 (d.get F.SER_NUNC_COUNT die l) 1 ∧ e.get F.SER_NCORR_COUNT die l = d.get F.SER_NCORR_COUNT die l

section
variable (d : Dev) (die l : Nat)

theorem Dev.laneCounted_tally (dec : Option (List Nat)) : d.laneTally (d.laneCounted die l dec) die l dec := by
  have hwords := Dev.count64_words (d.laneSeen die l) die l
  have hkeep : Agree 0x300000000000000000000000000000000000000000000000000000 (d.laneSeen die l)
      ((d.laneSeen die l).count64 F.SER_NCW_LO_COUNT F.SER_NCW_HI_COUNT 1 die l) :=
    Dev.count64_kp _ _ _ _ _ _ _ rfl rfl ((Within.refl _).up rfl) (Agree.refl _ _)
  cases dec with
  | some c =>
    refine ⟨?_, ?_, ?_⟩
    · simp only [Dev.laneWords, Dev.laneCounted, Dev.countSat]
      rw [Dev.get_put_reg _ _ (by decide) (by decide) (by decide), Dev.get_put_reg _ _ (by decide) (by decide) (by decide)]
      exact hwords
    · refine (Dev.get_countSat _ _ _ _ _ _ (by decide) (by decide)).trans ?_
      rw [hkeep.get F.SER_NCORR_COUNT rfl rfl]
      rfl
    · exact (Dev.get_put_reg _ _ (by decide) (by decide) (by decide)).trans (hkeep.get F.SER_NUNC_COUNT rfl rfl ..)
  | none =>
    refine ⟨?_, ?_, ?_⟩
    · simp only [Dev.laneWords, Dev.laneCounted, Dev.countSat]
      rw [Dev.get_put_reg _ _ (by decide) (by decide) (by decide), Dev.get_put_reg _ _ (by decide) (by decide) (by decide)]
      exact hwords
    · refine (Dev.get_countSat _ _ _ _ _ _ (by decide) (by decide)).trans ?_
      rw [hkeep.get F.SER_NUNC_COUNT rfl rfl]
      rfl
    · exact (Dev.get_put_reg _ _ (by decide) (by decide) (by decide)).trans (hkeep.get F.SER_NCORR_COUNT rfl rfl ..)

/-- Changes that leave the three counters. -/
theorem Agree.laneTally {μ : Nat} {d a b : Dev} {die l : Nat} {dec : Option (List Nat)} (h : Agree μ a b) (hf : μ.testBit 368 = false)
    (hlo : μ.testBit Reg.SER_NCW_LO.ctorIdx = false) (hhi : μ.testBit Reg.SER_NCW_HI.ctorIdx = false) (hc : μ.testBit Reg.SER_NCORR.ctorIdx = false)
    (hu : μ.testBit Reg.SER_NUNC.ctorIdx = false) (ha : d.laneTally a die l dec) : d.laneTally b die l dec := by
  unfold Dev.laneTally Dev.laneWords at ha ⊢
  rw [h.get F.SER_NCW_LO_COUNT hf hlo, h.get F.SER_NCW_HI_COUNT hf hhi, h.get F.SER_NCORR_COUNT hf hc, h.get F.SER_NUNC_COUNT hf hu]
  exact ha

/-- What a lane in TRAIN or UP makes of a codeword, once it is counted: wake codewords are counted, TRAIN blocks noted, doze and sleep begin, and blocks
are delivered. -/
def Dev.laneDelivers (d2 : Dev) (die l st : Nat) (wake ue : Bool) (takes : List Nat) (blks : List (Nat × Bytes)) (scr : Nat) : Dev :=
  let d3 := d2.modLane die l fun x => { x with scr := scr }
  if wake then d3.modLane die l fun x => { x with wakes := x.wakes + 1 }
  else if st = laneTrain then
    if ue then d3.modLane die l fun x => { x with ready := 0 }
    else blks.foldl (fun d' b => if b.1 = 2 ∧ field b.2 0 1 = 8 then d'.laneTrainBlk die l b.2 else d') d3
  else if d3.on? F.SER_LSTAT_RXDZ die l && (d3.lane die l).wakes < 4 then d3
  else
    let d4 := if d3.on? F.SER_LSTAT_RXDZ die l then d3.laneRxWake die l else d3
    if !ue && allType blks 2 then d4.put F.SER_LSTAT_RXDZ 1 die l
    else if !ue && allType blks 3 then (d4.laneSleepNow die l)
    else d4.laneBlocks die l ue takes 0 blks

theorem Dev.laneDelivers_agree (st : Nat) (wake ue : Bool) (takes : List Nat) (blks : List (Nat × Bytes)) (scr : Nat) :
    Agree 0x180000000000000245000000000000000000000000000000004408000000000000000000000000000000000000000000000000000 d
      (d.laneDelivers die l st wake ue takes blks scr) := by
  have h3 : Agree 0x180000000000000245000000000000000000000000000000004408000000000000000000000000000000000000000000000000000 d
      (d.modLane die l fun x => { x with scr := scr }) := Dev.modLane_kp _ _ _ _ ((Within.refl _).up (by decide)) (Agree.refl _ _)
  have h4 := Agree.ite (c := (d.modLane die l fun x => { x with scr := scr }).on? F.SER_LSTAT_RXDZ die l = true)
    (Dev.laneRxWake_kp _ die l ((Within.refl _).up (by decide)) h3) h3
  rw [Dev.laneDelivers]
  refine Agree.ite (Dev.modLane_kp _ _ _ _ ((Within.refl _).up (by decide)) h3) (Agree.ite (Agree.ite ?_ ?_) (Agree.ite h3 (Agree.ite ?_ (Agree.ite ?_ ?_))))
  · exact Dev.modLane_kp _ _ _ _ ((Within.refl _).up (by decide)) h3
  · exact Agree.foldl _ _ _ (fun _ _ h => Agree.ite (Dev.laneTrainBlk_kp _ _ _ _ ((Within.refl _).up (by decide)) h) h) h3
  · exact Dev.put_kp _ _ _ _ _ _ rfl ((Within.refl _).up (by decide)) h4
  · exact Dev.laneSleepNow_kp _ _ _ ((Within.refl _).up (by decide)) h4
  · exact Dev.laneBlocks_kp _ _ _ _ _ _ _ (Within.refl _) h4

end

/-- The package with the PRBS errors of a codeword counted. -/
def Dev.lanePrbs (d : Dev) (die l : Nat) (r : List Nat) : Dev :=
  let o := prbsCheck (d.lane die l).prbsN (d.lane die l).prbs 0 (symBits r)
  ((d.laneSeen die l).modLane die l fun y => { y with prbsN := o.1, prbs := o.2.1 }).countSat F.SER_NPRBS_COUNT o.2.2 die l

/-- The blocks of a decoded codeword, and the descrambler after it. -/
def Dev.laneDecoded (d : Dev) (die l : Nat) (r : List Nat) (dec : Option (List Nat)) : List (Nat × Bytes) × Nat :=
  descrambleAll (d.lane die l).scr (cutBlocks 20 (symBits (match dec with | some e => List.zipWith (fun a b => a ^^^ b) r e | none => r)))

section
variable {d : Dev} {die l : Nat} {syms : List Nat} (takes : List Nat) (hhere : d.laneHere die l = true)
include hhere

theorem Dev.codeword_eth_idle (hl : 17 ≤ l) (hst : d.get F.SER_LSTAT_STATE die l ≠ 5) : d.codeword die l syms takes = d := by
  unfold Dev.codeword
  dsimp only
  rw [if_neg (by simp [hhere]), if_pos (show ethLane l = true from decide_eq_true hl), if_pos (show d.laneSt die l ≠ laneUp from hst)]

theorem Dev.codeword_eth (hl : 17 ≤ l) (hst : d.get F.SER_LSTAT_STATE die l = 5) :
    d.codeword die l syms takes = d.laneCounted die l (ethCode.decode (laneSymbols syms) [] 15) := by
  unfold Dev.codeword laneSymbols
  dsimp only
  rw [if_neg (by simp [hhere]), if_pos (show ethLane l = true from decide_eq_true hl), if_neg (show ¬ d.laneSt die l ≠ laneUp from not_not.mpr hst)]
  generalize ethCode.decode _ [] 15 = dec
  cases dec <;> rfl

section
variable (hl : l < 17)
include hl

/-- A serial lane: a codeword in TEST, in ALIGN, out of reception, and in TRAIN and UP. -/
theorem Dev.codeword_serial_eq :
    let dec := laneCode.decode (laneSymbols syms) [] 14
    let out := d.laneDecoded die l (laneSymbols syms) dec
    let wake := (symBits (laneSymbols syms)).take 5160 == wakeBits
    d.codeword die l syms takes =
      if d.laneSt die l = laneTest then (if d.on? F.SER_LCTL_PRBS die l then d.lanePrbs die l (laneSymbols syms) else d.laneSeen die l)
      else if d.laneSt die l = laneAlign then (if wake then (d.laneSeen die l).modLane die l fun x => { x with lock := true } else d.laneSeen die l)
      else if d.laneSt die l ≠ laneTrain ∧ d.laneSt die l ≠ laneUp then d.laneSeen die l
      else (d.laneCounted die l dec).laneDelivers die l (d.laneSt die l) wake dec.isNone takes out.1 out.2 := by
  unfold Dev.codeword laneSymbols
  dsimp only
  rw [if_neg (by simp [hhere]), if_neg (show ¬ ethLane l = true by simp [ethLane, hl])]
  generalize (List.range 544).map (fun i => syms.getD i 0 % 1024) = r
  generalize laneCode.decode r [] 14 = dec
  generalize ((symBits r).take 5160 == wakeBits) = wake
  cases dec <;> rfl

theorem Dev.codeword_serial (hst : d.get F.SER_LSTAT_STATE die l = 4 ∨ d.get F.SER_LSTAT_STATE die l = 5) :
    let dec := laneCode.decode (laneSymbols syms) [] 14
    let out := d.laneDecoded die l (laneSymbols syms) dec
    d.codeword die l syms takes = (d.laneCounted die l dec).laneDelivers die l (d.laneSt die l) ((symBits (laneSymbols syms)).take 5160 == wakeBits)
      dec.isNone takes out.1 out.2 := by
  have htest : ¬ d.laneSt die l = laneTest := by
    rw [Dev.laneSt, laneTest]
    omega
  have halign : ¬ d.laneSt die l = laneAlign := by
    rw [Dev.laneSt, laneAlign]
    omega
  have hon : ¬ (d.laneSt die l ≠ laneTrain ∧ d.laneSt die l ≠ laneUp) := by
    rw [Dev.laneSt, laneTrain, laneUp]
    omega
  dsimp only
  rw [Dev.codeword_serial_eq takes hhere hl, if_neg htest, if_neg halign, if_neg hon]

theorem Dev.codeword_test (hst : d.get F.SER_LSTAT_STATE die l = 7) :
    d.codeword die l syms takes = if d.on? F.SER_LCTL_PRBS die l = true then d.lanePrbs die l (laneSymbols syms) else d.laneSeen die l := by
  rw [Dev.codeword_serial_eq takes hhere hl, if_pos (show d.laneSt die l = laneTest from hst)]

theorem Dev.codeword_align (hst : d.get F.SER_LSTAT_STATE die l = 3) :
    d.codeword die l syms takes = if ((symBits (laneSymbols syms)).take 5160 == wakeBits) = true then
      (d.laneSeen die l).modLane die l fun x => { x with lock := true } else d.laneSeen die l := by
  have htest : ¬ d.laneSt die l = laneTest := by
    rw [Dev.laneSt, hst]
    decide
  rw [Dev.codeword_serial_eq takes hhere hl, if_neg htest, if_pos (show d.laneSt die l = laneAlign from hst)]

theorem Dev.codeword_other (hst : d.get F.SER_LSTAT_STATE die l ∉ [3, 4, 5, 7]) : d.codeword die l syms takes = d.laneSeen die l := by
  simp only [List.mem_cons, List.not_mem_nil, or_false, not_or] at hst
  obtain ⟨halign, htrain, hup, htest⟩ := hst
  rw [Dev.codeword_serial_eq takes hhere hl, if_neg (show ¬ d.laneSt die l = laneTest from htest), if_neg (show ¬ d.laneSt die l = laneAlign from halign),
    if_pos (show d.laneSt die l ≠ laneTrain ∧ d.laneSt die l ≠ laneUp from ⟨htrain, hup⟩)]

end

end

/-- A codeword is counted: in UP, and on a serial lane in TRAIN. -/
def Dev.laneCounts (d : Dev) (die l : Nat) : Prop :=
  if 17 ≤ l then d.get F.SER_LSTAT_STATE die l = 5 else d.get F.SER_LSTAT_STATE die l = 4 ∨ d.get F.SER_LSTAT_STATE die l = 5

/-- Its decoder: RS(544,514) of the Ethernet lanes, RS(544,516) of the others. -/
def laneDecode (l : Nat) (r : List Nat) : Option (List Nat) := if 17 ≤ l then ethCode.decode r [] 15 else laneCode.decode r [] 14

section
variable {d : Dev} {die l : Nat} {syms : List Nat} (takes : List Nat) (hhere : d.laneHere die l = true)
include hhere

theorem Dev.codeword_counted (h : d.laneCounts die l) : d.laneTally (d.codeword die l syms takes) die l (laneDecode l (laneSymbols syms)) := by
  by_cases hl : 17 ≤ l
  · have hst : d.get F.SER_LSTAT_STATE die l = 5 := by rwa [Dev.laneCounts, if_pos hl] at h
    rw [Dev.codeword_eth takes hhere hl hst, laneDecode, if_pos hl]
    exact d.laneCounted_tally die l _
  · have hst : d.get F.SER_LSTAT_STATE die l = 4 ∨ d.get F.SER_LSTAT_STATE die l = 5 := by rwa [Dev.laneCounts, if_neg hl] at h
    rw [Dev.codeword_serial takes hhere (Nat.lt_of_not_le hl) hst, laneDecode, if_neg hl]
    exact (Dev.laneDelivers_agree _ die l _ _ _ _ _ _).laneTally rfl rfl rfl rfl rfl (d.laneCounted_tally die l _)

omit hhere in
theorem Dev.laneSeen_agree (d : Dev) (die l : Nat) :
    Agree 0x100000000000000000000000000000000000000000000000000000000000000000000000000000000000000000000000000000000 d (d.laneSeen die l) :=
  Dev.modLane_kp _ _ _ _ (Within.refl _) (Agree.refl _ _)

omit hhere in
theorem Dev.laneSeen_lock (d : Dev) (die l : Nat) : ((d.laneSeen die l).lane die l).lock = (d.lane die l).lock := by
  rw [Dev.laneSeen, Dev.modLane_lane_self]

/-- The four cases of a codeword that is not counted. -/
theorem Dev.codeword_uncounted (h : ¬ d.laneCounts die l) :
    (17 ≤ l ∧ d.codeword die l syms takes = d) ∨
      (l < 17 ∧ d.get F.SER_LSTAT_STATE die l = 7 ∧
        d.codeword die l syms takes = if d.on? F.SER_LCTL_PRBS die l = true then d.lanePrbs die l (laneSymbols syms) else d.laneSeen die l) ∨
      (l < 17 ∧ d.get F.SER_LSTAT_STATE die l = 3 ∧ d.codeword die l syms takes =
        if ((symBits (laneSymbols syms)).take 5160 == wakeBits) = true then (d.laneSeen die l).modLane die l fun x => { x with lock := true } else d.laneSeen die l) ∨
      (l < 17 ∧ d.get F.SER_LSTAT_STATE die l ∉ [3, 4, 5, 7] ∧ d.codeword die l syms takes = d.laneSeen die l) := by
  by_cases hl : 17 ≤ l
  · rw [Dev.laneCounts, if_pos hl] at h
    exact .inl ⟨hl, Dev.codeword_eth_idle takes hhere hl h⟩
  · rw [Dev.laneCounts, if_neg hl] at h
    have hl' := Nat.lt_of_not_le hl
    by_cases htest : d.get F.SER_LSTAT_STATE die l = 7
    · exact .inr (.inl ⟨hl', htest, Dev.codeword_test takes hhere hl' htest⟩)
    · by_cases halign : d.get F.SER_LSTAT_STATE die l = 3
      · exact .inr (.inr (.inl ⟨hl', halign, Dev.codeword_align takes hhere hl' halign⟩))
      · have hother : d.get F.SER_LSTAT_STATE die l ∉ [3, 4, 5, 7] := by
          simp only [List.mem_cons, List.not_mem_nil, or_false]
          omega
        exact .inr (.inr (.inr ⟨hl', hother, Dev.codeword_other takes hhere hl' hother⟩))

/-- It leaves all but the lane and its PRBS errors. -/
theorem Dev.codeword_uncounted_agree (h : ¬ d.laneCounts die l) : Agree 0x100000000000000000000000000000000000000000000000000800000000000000000000000000000000000000000000000000000 d (d.codeword die l syms takes) := by
  have hseen : Agree 0x100000000000000000000000000000000000000000000000000800000000000000000000000000000000000000000000000000000 d (d.laneSeen die l) := (d.laneSeen_agree die l).up (by decide)
  obtain ⟨-, hrun⟩ | ⟨-, -, hrun⟩ | ⟨-, -, hrun⟩ | ⟨-, -, hrun⟩ := Dev.codeword_uncounted takes hhere h (syms := syms)
  · rw [hrun]
    exact Agree.refl _ _
  · rw [hrun]
    exact Agree.ite (Dev.put_kp _ _ _ _ _ _ rfl ((Within.refl _).up (by decide)) (Dev.modLane_kp _ _ _ _ ((Within.refl _).up (by decide)) hseen)) hseen
  · rw [hrun]
    exact Agree.ite (Dev.modLane_kp _ _ _ _ ((Within.refl _).up (by decide)) hseen) hseen
  · rw [hrun]
    exact hseen

/-- The PRBS errors of a codeword in TEST are counted. -/
theorem Dev.codeword_prbs (h : l < 17 ∧ d.get F.SER_LSTAT_STATE die l = 7 ∧ d.get F.SER_LCTL_PRBS die l ≠ 0) :
    (d.codeword die l syms takes).get F.SER_NPRBS_COUNT die l = satAdd 32 (d.get F.SER_NPRBS_COUNT die l)
      (prbsCheck (d.lane die l).prbsN (d.lane die l).prbs 0 (symBits (laneSymbols syms))).2.2 := by
  obtain ⟨hl, hst, hprbs⟩ := h
  rw [Dev.codeword_test takes hhere hl hst, if_pos (by simpa [Dev.on?] using hprbs), Dev.lanePrbs]
  generalize prbsCheck (d.lane die l).prbsN (d.lane die l).prbs 0 (symBits (laneSymbols syms)) = o
  exact Dev.get_countSat _ _ _ _ _ _ (by decide) (by decide)

/-- Any other codeword that is not counted counts no PRBS error; the wake codeword locks a lane in ALIGN. -/
theorem Dev.codeword_locks (h : ¬ d.laneCounts die l) (hno : ¬ (l < 17 ∧ d.get F.SER_LSTAT_STATE die l = 7 ∧ d.get F.SER_LCTL_PRBS die l ≠ 0)) :
    (d.codeword die l syms takes).get F.SER_NPRBS_COUNT die l = d.get F.SER_NPRBS_COUNT die l ∧
      ((d.codeword die l syms takes).lane die l).lock =
        ((d.lane die l).lock || decide (l < 17 ∧ d.get F.SER_LSTAT_STATE die l = 3 ∧ (symBits (laneSymbols syms)).take 5160 = wakeBits)) := by
  have hkeep := (d.laneSeen_agree die l).get F.SER_NPRBS_COUNT rfl rfl die l 0
  have hlock := d.laneSeen_lock die l
  obtain ⟨hl, hrun⟩ | ⟨hl, hst, hrun⟩ | ⟨hl, hst, hrun⟩ | ⟨hl, hst, hrun⟩ := Dev.codeword_uncounted takes hhere h (syms := syms)
  · rw [hrun, decide_eq_false fun hc => Nat.not_lt.mpr hl hc.1, Bool.or_false]
    exact ⟨rfl, rfl⟩
  · have hoff : ¬ d.on? F.SER_LCTL_PRBS die l = true := fun hon => hno ⟨hl, hst, by simpa [Dev.on?] using hon⟩
    have h7 : ¬ (7 : Nat) = 3 := by decide
    rw [hrun, if_neg hoff, hst, decide_eq_false fun hc => h7 hc.2.1, Bool.or_false]
    exact ⟨hkeep, hlock⟩
  · rw [hrun]
    by_cases hwake : (symBits (laneSymbols syms)).take 5160 = wakeBits
    · rw [if_pos (beq_iff_eq.mpr hwake), decide_eq_true ⟨hl, hst, hwake⟩, Bool.or_true, Dev.modLane_lane_self]
      exact ⟨hkeep, rfl⟩
    · rw [if_neg (mt beq_iff_eq.mp hwake), decide_eq_false fun hc => hwake hc.2.2, Bool.or_false]
      exact ⟨hkeep, hlock⟩
  · have h3 : ¬ d.get F.SER_LSTAT_STATE die l = 3 := fun h3 => hst (by rw [h3]; decide)
    rw [hrun, decide_eq_false fun hc => h3 hc.2.1, Bool.or_false]
    exact ⟨hkeep, hlock⟩

end

/-! The eye monitor and the settings (R315) -/

section
variable {d : Dev} {die l : Nat}

theorem fomOf_lt (eyes : List (Nat × Nat)) : fomOf eyes < 256 := Nat.lt_of_le_of_lt (foldl_min_le ..) (by decide)

/-- The eye monitor runs: from ADAPT to UP, and not in receive doze. -/
def Dev.laneWatched (d : Dev) (die l : Nat) : Prop :=
  2 ≤ d.get F.SER_LSTAT_STATE die l ∧ d.get F.SER_LSTAT_STATE die l ≤ 5 ∧ d.get F.SER_LSTAT_RXDZ die l = 0

/-- The package with FOM refreshed, and the time for which it has been low. -/
def Dev.laneGraded (d : Dev) (die l fom : Nat) : Dev :=
  let d1 := d.put F.SER_LSTAT_FOM fom die l
  if d.laneSt die l ≠ laneUp ∨ d1.get F.SER_FOMCFG_FOMMIN die l ≤ fom then d1.modLane die l fun x => { x with low := none }
  else
    match (d1.lane die l).low with
    | none => d1.modLane die l fun x => { x with low := some (d.tick die) }
    | some t => if d1.late die t 10000 ∧ d1.on? F.SER_LSTAT_LOWFOM die l = false then d1.laneErr die l F.SER_LSTAT_LOWFOM 5 else d1

theorem Dev.laneFom_idle (eyes : List (Nat × Nat)) (h : ¬ d.laneWatched die l) : d.laneFom die l eyes = d := by
  refine if_pos ?_
  by_contra hrun
  simp only [Bool.or_eq_true, Bool.not_eq_true', Bool.and_eq_false_iff, decide_eq_false_iff_not, Dev.on?, bne_iff_ne, not_or, not_not] at hrun
  obtain ⟨⟨-, hst⟩, hdoze⟩ := hrun
  exact h ⟨hst.1, hst.2, hdoze⟩

theorem Dev.laneFom_grades (eyes : List (Nat × Nat)) (hhere : d.laneHere die l = true) (h : d.laneWatched die l) :
    d.laneFom die l eyes = d.laneGraded die l (fomOf eyes) := by
  obtain ⟨hlo, hhi, hdoze⟩ := h
  refine if_neg ?_
  simp only [hhere, Bool.not_true, Bool.false_or, Bool.or_eq_true, Bool.not_eq_true', Bool.and_eq_false_iff, decide_eq_false_iff_not, Dev.on?, bne_iff_ne,
    not_or, not_not]
  exact ⟨⟨hlo, hhi⟩, hdoze⟩

theorem Dev.laneGraded_grades {fom : Nat} (hfom : fom < 256) :
    let e := d.laneGraded die l fom
    e.get F.SER_LSTAT_FOM die l = fom ∧ e.get F.SER_LSTAT_STATE die l = d.get F.SER_LSTAT_STATE die l ∧
    if d.get F.SER_LSTAT_STATE die l ≠ 5 ∨ d.get F.SER_FOMCFG_FOMMIN die l ≤ fom then
      (e.lane die l).low = none ∧ e.get F.SER_LSTAT_LOWFOM die l = d.get F.SER_LSTAT_LOWFOM die l
    else match (d.lane die l).low with
      | none => (e.lane die l).low = some (d.tick die) ∧ e.get F.SER_LSTAT_LOWFOM die l = d.get F.SER_LSTAT_LOWFOM die l
      | some t => (d.late die t 10000 = true → e.get F.SER_LSTAT_LOWFOM die l ≠ 0) ∧
          (d.late die t 10000 = false → e.get F.SER_LSTAT_LOWFOM die l = d.get F.SER_LSTAT_LOWFOM die l) := by
  have hput : (d.put F.SER_LSTAT_FOM fom die l).get F.SER_LSTAT_FOM die l = fom := Dev.get_put_self _ _ _ _ _ _ (by decide) (by decide) hfom
  have hst : (d.put F.SER_LSTAT_FOM fom die l).get F.SER_LSTAT_STATE die l = d.get F.SER_LSTAT_STATE die l := Dev.get_put_bits _ _ (by decide) (by decide) (by decide)
  have hlow : (d.put F.SER_LSTAT_FOM fom die l).get F.SER_LSTAT_LOWFOM die l = d.get F.SER_LSTAT_LOWFOM die l := Dev.get_put_bits _ _ (by decide) (by decide) (by decide)
  have hmin : (d.put F.SER_LSTAT_FOM fom die l).get F.SER_FOMCFG_FOMMIN die l = d.get F.SER_FOMCFG_FOMMIN die l := Dev.get_put_reg _ _ (by decide) (by decide) (by decide)
  have hrun : d.laneGraded die l fom = if d.get F.SER_LSTAT_STATE die l ≠ 5 ∨ d.get F.SER_FOMCFG_FOMMIN die l ≤ fom then
        (d.put F.SER_LSTAT_FOM fom die l).modLane die l fun x => { x with low := none }
      else match (d.lane die l).low with
        | none => (d.put F.SER_LSTAT_FOM fom die l).modLane die l fun x => { x with low := some (d.tick die) }
        | some t => if d.late die t 10000 ∧ d.on? F.SER_LSTAT_LOWFOM die l = false then (d.put F.SER_LSTAT_FOM fom die l).laneErr die l F.SER_LSTAT_LOWFOM 5
          else d.put F.SER_LSTAT_FOM fom die l := by
    rw [← hmin, Dev.on?, ← hlow]
    rfl
  dsimp only
  rw [hrun]
  split
  next hhigh =>
    rw [Dev.modLane_lane_self]
    exact ⟨hput, hst, rfl, hlow⟩
  next hunder =>
    cases hsince : (d.lane die l).low with
    | none =>
      dsimp only
      rw [Dev.modLane_lane_self]
      exact ⟨hput, hst, rfl, hlow⟩
    | some t =>
      dsimp only
      split
      next herr =>
        refine ⟨(Dev.laneErr_keeps _ _ _ _ (by decide) (by decide) (by decide)).trans hput,
          (Dev.laneErr_keeps _ _ _ _ (by decide) (by decide) (by decide)).trans hst, fun _ => ?_, fun hearly => absurd herr.1 (by rw [hearly]; decide)⟩
        rw [Dev.laneErr_sets _ _ _ _ rfl (by decide)]
        decide
      next herr =>
        refine ⟨hput, hst, fun hlate => ?_, fun _ => hlow⟩
        rw [hlow]
        simpa [Dev.on?, hlate] using herr

/-- Settings one step away from a lane's. -/
def Dev.laneNear (d : Dev) (die l ctle dfe1 : Nat) : Prop :=
  let c := d.get F.SER_RXEQ_CTLE die l
  let f := d.get F.SER_RXEQ_DFE1 die l
  (ctle = c ∧ (sext 7 dfe1 = sext 7 f + 1 ∨ sext 7 dfe1 + 1 = sext 7 f)) ∨ (dfe1 = f ∧ (ctle = c + 1 ∨ ctle + 1 = c))

/-- How many steps away settings are, 2 for more than one. -/
def Dev.laneDistance (d : Dev) (die l ctle dfe1 : Nat) : Nat :=
  oneStep (d.get F.SER_RXEQ_CTLE die l) (ctle % 2 ^ 5) +
    (if dfe1 % 2 ^ 7 = d.get F.SER_RXEQ_DFE1 die l then 0
     else if sext 7 dfe1 = sext 7 (d.get F.SER_RXEQ_DFE1 die l) + 1 ∨ sext 7 dfe1 + 1 = sext 7 (d.get F.SER_RXEQ_DFE1 die l) then 1 else 2)

/-- A step of the settings that may be taken: it raises FOM, 1 ms after the last. -/
def Dev.laneAdapts (d : Dev) (die l ctle dfe1 fom : Nat) : Prop :=
  d.get F.SER_LSTAT_STATE die l = 5 ∧ d.get F.SER_LSTAT_RXDZ die l = 0 ∧ d.laneNear die l ctle dfe1 ∧ (d.lane die l).stepAt + 1000 ≤ d.tick die ∧
    d.get F.SER_LSTAT_FOM die l < fom

theorem oneStep_one (a b : Nat) : oneStep a b = 1 ↔ a + 1 = b ∨ b + 1 = a := by
  rw [oneStep]
  split
  · omega
  · split <;> omega

theorem oneStep_zero (a b : Nat) : oneStep a b = 0 ↔ a = b := by
  rw [oneStep]
  split
  · omega
  · split <;> omega

section
variable {ctle dfe1 fom : Nat} (hctle : ctle < 32) (hdfe : dfe1 < 128) (hfom : fom < 256)

include hctle hdfe

theorem Dev.laneDistance_one : d.laneDistance die l ctle dfe1 = 1 ↔ d.laneNear die l ctle dfe1 := by
  have hfar (n : Nat) : oneStep (d.get F.SER_RXEQ_CTLE die l) ctle + (n + 1) = 1 ↔ d.get F.SER_RXEQ_CTLE die l = ctle ∧ n = 0 := by
    have hzero := oneStep_zero (d.get F.SER_RXEQ_CTLE die l) ctle
    omega
  rw [Dev.laneDistance, Dev.laneNear, Nat.mod_eq_of_lt (show ctle < 2 ^ 5 from hctle), Nat.mod_eq_of_lt (show dfe1 < 2 ^ 7 from hdfe)]
  split
  next hsame =>
    have hstill : ¬ (sext 7 dfe1 = sext 7 dfe1 + 1 ∨ sext 7 dfe1 + 1 = sext 7 dfe1) := by
      generalize sext 7 dfe1 = x
      omega
    rw [Nat.add_zero, oneStep_one, ← hsame]
    simp only [hstill, and_false, false_or, true_and]
    exact or_congr_left eq_comm
  next hother =>
    split
    next hnext =>
      rw [hfar 0]
      simp only [hnext, hother, false_and, and_true, or_false, eq_comm]
    next hnext =>
      rw [hfar 1]
      simp only [hnext, hother, false_and, and_false, or_false, one_ne_zero]

include hfom

theorem Dev.laneAdapts_iff (hhere : d.laneHere die l = true) :
    (d.laneHere die l && d.laneSt die l == laneUp && !d.on? F.SER_LSTAT_RXDZ die l && d.laneDistance die l ctle dfe1 == 1 &&
      (d.lane die l).stepAt + 1000 ≤ d.tick die && d.get F.SER_LSTAT_FOM die l < fom % 2 ^ 8) = true ↔ d.laneAdapts die l ctle dfe1 fom := by
  simp only [hhere, Bool.true_and, Bool.and_eq_true, beq_iff_eq, Bool.not_eq_true', Dev.on?, bne_eq_false_iff_eq, decide_eq_true_eq,
    Dev.laneDistance_one hctle hdfe, Nat.mod_eq_of_lt (show fom < 2 ^ 8 from hfom), and_assoc]
  rfl

theorem Dev.laneAdaptStep_idle (hhere : d.laneHere die l = true) (h : ¬ d.laneAdapts die l ctle dfe1 fom) : d.laneAdaptStep die l ctle dfe1 fom = d :=
  if_neg (mt (Dev.laneAdapts_iff hctle hdfe hfom hhere).mp h)

theorem Dev.laneAdaptStep_steps (hhere : d.laneHere die l = true) (h : d.laneAdapts die l ctle dfe1 fom) :
    let e := d.laneAdaptStep die l ctle dfe1 fom
    e.get F.SER_RXEQ_CTLE die l = ctle ∧ e.get F.SER_RXEQ_DFE1 die l = dfe1 ∧ e.get F.SER_LSTAT_FOM die l = fom ∧ (e.lane die l).stepAt = d.tick die ∧
      e.get F.SER_LSTAT_STATE die l = 5 := by
  have hrun : d.laneAdaptStep die l ctle dfe1 fom =
      (((d.put F.SER_RXEQ_CTLE (ctle % 2 ^ 5) die l).put F.SER_RXEQ_DFE1 (dfe1 % 2 ^ 7) die l).put F.SER_LSTAT_FOM (fom % 2 ^ 8) die l).modLane die l
        fun y => { y with stepAt := d.tick die } := if_pos ((Dev.laneAdapts_iff hctle hdfe hfom hhere).mpr h)
  dsimp only
  rw [hrun, Dev.modLane_lane_self, Nat.mod_eq_of_lt (show ctle < 2 ^ 5 from hctle), Nat.mod_eq_of_lt (show dfe1 < 2 ^ 7 from hdfe),
    Nat.mod_eq_of_lt (show fom < 2 ^ 8 from hfom)]
  simp (disch := decide) only [Dev.modLane_read_get, Dev.get_put_reg, Dev.get_put_bits]
  exact ⟨Dev.get_put_self _ _ _ _ _ _ (by decide) (by decide) hctle, Dev.get_put_self _ _ _ _ _ _ (by decide) (by decide) hdfe,
    Dev.get_put_self _ _ _ _ _ _ (by decide) (by decide) hfom, trivial, h.1⟩

end

end

/-! Doze (R316–R319) -/

section
variable {d : Dev} {die l : Nat} (hhere : d.laneHere die l = true)

/-- The package with a transmitter that has sent DOZE. -/
def Dev.laneDozes (d : Dev) (die l : Nat) : Dev :=
  ((d.laneSend die l 2 1).put F.SER_LSTAT_TXDZ 1 die l).modLane die l fun x => { x with dozeAt := d.tick die }

/-- The package with a transmitter that is refreshed, and dozes again while the request holds. -/
def Dev.laneRefreshes (d : Dev) (die l : Nat) : Dev :=
  let d1 := (d.laneSend die l 4 16).laneSend die l 0 4096
  if d.dozeWanted die l then (d1.laneSend die l 2 1).modLane die l fun x => { x with dozeAt := d.tick die }
  else d1.put F.SER_LSTAT_TXDZ 0 die l

theorem Dev.laneSend_read_get (d : Dev) (die l type n : Nat) (g : Fld) (die' i s : Nat) : (d.laneSend die l type n).get g die' i s = d.get g die' i s := rfl

theorem Dev.laneSend_sent (d : Dev) (die l type n : Nat) : ((d.laneSend die l type n).lane die l).sent = (d.lane die l).sent ++ [(type, n)] := by
  rw [Dev.laneSend, Dev.modLane_lane_self]

theorem Dev.laneDozes_dozes (d : Dev) (die l : Nat) :
    let e := d.laneDozes die l
    e.get F.SER_LSTAT_TXDZ die l = 1 ∧ e.get F.SER_LSTAT_STATE die l = d.get F.SER_LSTAT_STATE die l ∧ (e.lane die l).sent = (d.lane die l).sent ++ [(2, 1)] := by
  refine ⟨Dev.get_put_self _ _ _ _ _ _ (by decide) (by decide) (by decide), Dev.get_put_bits _ _ (by decide) (by decide) (by decide), ?_⟩
  rw [Dev.laneDozes, Dev.modLane_lane_self, Dev.put_read_lane]
  exact d.laneSend_sent die l 2 1

theorem Dev.laneRefreshes_sends (d : Dev) (die l : Nat) (hdoze : d.get F.SER_LSTAT_TXDZ die l ≠ 0) :
    let e := d.laneRefreshes die l
    e.get F.SER_LSTAT_TXDZ die l = (if d.dozeWanted die l then 1 else 0) ∧ e.get F.SER_LSTAT_STATE die l = d.get F.SER_LSTAT_STATE die l ∧
      (e.lane die l).sent = (d.lane die l).sent ++ [(4, 16), (0, 4096)] ++ (if d.dozeWanted die l then [(2, 1)] else []) := by
  have hsent : (((d.laneSend die l 4 16).laneSend die l 0 4096).lane die l).sent = (d.lane die l).sent ++ [(4, 16), (0, 4096)] := by
    rw [Dev.laneSend_sent, Dev.laneSend_sent, List.append_assoc, List.singleton_append]
  have hon : d.get F.SER_LSTAT_TXDZ die l = 1 := by
    have hlt : d.get F.SER_LSTAT_TXDZ die l < 2 := Nat.mod_lt _ (by decide)
    omega
  dsimp only
  cases hwant : d.dozeWanted die l with
  | true =>
    have hrun : d.laneRefreshes die l = (((d.laneSend die l 4 16).laneSend die l 0 4096).laneSend die l 2 1).modLane die l fun x =>
        { x with dozeAt := d.tick die } := if_pos hwant
    rw [hrun, Dev.modLane_lane_self, Dev.laneSend_sent, hsent]
    simp only [Dev.modLane_read_get, Dev.laneSend_read_get, hon, if_true, and_self]
  | false =>
    have hrun : d.laneRefreshes die l = ((d.laneSend die l 4 16).laneSend die l 0 4096).put F.SER_LSTAT_TXDZ 0 die l := if_neg (by rw [hwant]; decide)
    rw [hrun, Dev.put_read_lane, hsent]
    refine ⟨Dev.get_put_self _ _ _ _ _ _ (by decide) (by decide) (by decide), ?_, (List.append_nil _).symm⟩
    rw [Dev.get_put_bits _ _ (by decide) (by decide) (by decide), Dev.laneSend_read_get, Dev.laneSend_read_get]

include hhere

theorem Dev.laneDoze_eq : d.laneDoze die l =
    if d.get F.SER_LSTAT_STATE die l = 5 ∧ l < 17 ∧ d.dozeWanted die l = true ∧ d.get F.SER_LSTAT_TXDZ die l = 0 then d.laneDozes die l else d := by
  refine if_congr ?_ rfl rfl
  simp only [hhere, Bool.true_and, Bool.and_eq_true, beq_iff_eq, Bool.not_eq_true', ethLane, decide_eq_false_iff_not, not_le, Dev.on?,
    bne_eq_false_iff_eq, and_assoc]
  rfl

theorem Dev.laneUndoze_eq : d.laneUndoze die l =
    if d.get F.SER_LSTAT_TXDZ die l ≠ 0 ∧ d.dozeWanted die l = false then (d.laneSend die l 4 16).put F.SER_LSTAT_TXDZ 0 die l else d := by
  refine if_congr ?_ rfl rfl
  simp only [hhere, Bool.true_and, Bool.and_eq_true, Bool.not_eq_true', Dev.on?, bne_iff_ne]

theorem Dev.laneRefresh_eq : d.laneRefresh die l =
    if d.get F.SER_LSTAT_TXDZ die l ≠ 0 ∧ d.late die (d.lane die l).dozeAt 100000 = true then d.laneRefreshes die l else d := by
  refine if_congr ?_ rfl rfl
  simp only [hhere, Bool.true_and, Bool.and_eq_true, Dev.on?, bne_iff_ne]

end

/-! Loss of alignment, deep sleep and loss of signal (R310, R316, R321) -/

/-- Alignment is lost and the loss counted: the lane hunts again. -/
def Dev.laneLost (d e : Dev) (die l : Nat) : Prop :=
  e.get F.SER_LSTAT_STATE die l = 3 ∧ e.get F.SER_LSTAT_ALIGNLOSS die l = 1 ∧
    e.get F.SER_NEVT_NLOSS die l = (d.get F.SER_NEVT_NLOSS die l + 1) % 2 ^ 16 ∧ (e.lane die l).seq = 3 ∧ (e.lane die l).lock = false ∧ (e.lane die l).ebuf = []

section
variable {d : Dev} {die l : Nat}

theorem Agree.laneLost {μ : Nat} {a b : Dev} (h : Agree μ a b) (hf : μ.testBit 368 = false) (hl : μ.testBit 416 = false)
    (hs : μ.testBit Reg.SER_LSTAT.ctorIdx = false) (hn : μ.testBit Reg.SER_NEVT.ctorIdx = false) (ha : d.laneLost a die l) : d.laneLost b die l := by
  rw [Dev.laneLost] at ha ⊢
  rwa [h.get F.SER_LSTAT_STATE hf hs, h.get F.SER_LSTAT_ALIGNLOSS hf hs, h.get F.SER_NEVT_NLOSS hf hn, h.lane hl]

theorem Dev.laneLoss_lost (d : Dev) (die l : Nat) : d.laneLost (d.laneLoss die l) die l := by
  have hcount : (d.laneLoss die l).get F.SER_NEVT_NLOSS die l = (d.get F.SER_NEVT_NLOSS die l + 1) % 2 ^ 16 := by
    simp (disch := decide) only [Dev.laneLoss, Dev.setLaneSt, Dev.modLane_read_get, Dev.get_put_reg]
    refine (Dev.get_count _ _ _ _ _ _ (by decide) (by decide) (w := 16) rfl).trans ?_
    rw [Dev.get_put_reg _ _ (by decide) (by decide) (by decide)]
  refine ⟨?_, ?_, hcount, ?_⟩
  · simp (disch := decide) only [Dev.laneLoss, Dev.setLaneSt, laneAlign, Dev.modLane_read_get, Dev.get_put_self]
  · simp (disch := decide) only [Dev.laneLoss, Dev.setLaneSt, Dev.count, Dev.modLane_read_get, Dev.get_put_bits, Dev.get_put_self]
  · rw [Dev.laneLoss, Dev.modLane_lane_self]
    exact ⟨rfl, rfl, rfl⟩

/-- It leaves the bits of the lane's status but STATE and ALIGNLOSS. -/
theorem Dev.laneLoss_bits (d : Dev) (die l : Nat) {g : Fld} (hreg : g.reg = .SER_LSTAT) (hg : 3 < g.lo ∧ g.hi < 32 ∧ (g.hi < 18 ∨ 18 < g.lo)) :
    (d.laneLoss die l).get g die l = d.get g die l := by
  obtain ⟨hlo, hhi, happ⟩ := hg
  rw [Dev.laneLoss, Dev.modLane_read_get, Dev.setLaneSt, Dev.modLane_read_get, Dev.get_put_bits _ _ hhi (by decide) (.inl hlo), Dev.count,
    Dev.get_put_reg _ _ hhi (by decide) (by rw [hreg]; decide), Dev.get_put_bits _ _ hhi (by decide) happ.symm]

/-- The package with an error of a lane, and its alignment lost. -/
theorem Dev.laneErr_lost (d : Dev) (die l code : Nat) {f : Fld} (hreg : f.reg = .SER_LSTAT) (hf : 18 < f.lo ∧ f.lo ≤ f.hi ∧ f.hi < 32) :
    d.laneLost ((d.laneErr die l f code).laneLoss die l) die l ∧ ((d.laneErr die l f code).laneLoss die l).get f die l = 1 := by
  obtain ⟨hst, hloss, hcount, hlane⟩ := (d.laneErr die l f code).laneLoss_lost die l
  refine ⟨⟨hst, hloss, ?_, hlane⟩, ?_⟩
  · rw [hcount, (d.laneErr_agree die l code hreg).get F.SER_NEVT_NLOSS rfl rfl]
  · rw [Dev.laneLoss_bits _ _ _ hreg ⟨by omega, hf.2.2, by omega⟩]
    exact d.laneErr_sets die l code hreg hf.2

/-- The package with a far receiver that has not woken: WAKEERR, receive doze ended, and the hunt. -/
theorem Dev.laneWakeErr_lost (d : Dev) (die l : Nat) :
    let e := ((d.laneErr die l F.SER_LSTAT_WAKEERR 8).put F.SER_LSTAT_RXDZ 0 die l).laneLoss die l
    d.laneLost e die l ∧ e.get F.SER_LSTAT_WAKEERR die l = 1 ∧ e.get F.SER_LSTAT_RXDZ die l = 0 := by
  obtain ⟨hst, hloss, hcount, hlane⟩ := ((d.laneErr die l F.SER_LSTAT_WAKEERR 8).put F.SER_LSTAT_RXDZ 0 die l).laneLoss_lost die l
  refine ⟨⟨hst, hloss, ?_, hlane⟩, ?_, ?_⟩
  · rw [hcount, Dev.get_put_reg _ _ (by decide) (by decide) (by decide), (d.laneErr_agree die l 8 (f := F.SER_LSTAT_WAKEERR) rfl).get F.SER_NEVT_NLOSS rfl rfl]
  · rw [Dev.laneLoss_bits _ _ _ rfl (by decide), Dev.get_put_bits _ _ (by decide) (by decide) (by decide)]
    exact d.laneErr_sets die l 8 rfl (by decide)
  · rw [Dev.laneLoss_bits _ _ _ rfl (by decide)]
    exact Dev.get_put_self _ _ _ _ _ _ (by decide) (by decide) (by decide)

section
variable (hhere : d.laneHere die l = true)
include hhere

theorem Dev.laneWakeErr_eq : d.laneWakeErr die l = if d.get F.SER_LSTAT_STATE die l = 5 ∧ d.get F.SER_LSTAT_RXDZ die l ≠ 0 then
    ((d.laneErr die l F.SER_LSTAT_WAKEERR 8).put F.SER_LSTAT_RXDZ 0 die l).laneLoss die l else d := by
  refine if_congr ?_ rfl rfl
  simp only [hhere, Bool.true_and, Bool.and_eq_true, beq_iff_eq, Dev.on?, bne_iff_ne]
  rfl

theorem Dev.laneLos_eq : d.laneLos die l = if d.get F.SER_LSTAT_STATE die l = 5 ∧ d.get F.SER_LSTAT_RXDZ die l = 0 then
    (d.laneErr die l F.SER_LSTAT_LOS 7).laneLoss die l else d := by
  refine if_congr ?_ rfl rfl
  simp only [hhere, Bool.true_and, Bool.and_eq_true, beq_iff_eq, Bool.not_eq_true', Dev.on?, bne_eq_false_iff_eq]
  rfl

theorem Dev.laneDetect_eq : d.laneDetect die l = if d.get F.SER_LSTAT_STATE die l = 6 then d.laneWakeNow die l else d := by
  refine if_congr ?_ rfl rfl
  simp only [hhere, Bool.true_and, beq_iff_eq]
  rfl

/-- A sleeper that is called and has not been answered for 20 ms. -/
theorem Dev.laneWakeLate_eq : d.laneWakeLate die l = if 1 ≤ d.get F.SER_LSTAT_STATE die l ∧ d.get F.SER_LSTAT_STATE die l ≤ 4 ∧ (d.lane die l).seq = 4 ∧
      d.late die (d.lane die l).at_ 20000 = true then (d.laneErr die l F.SER_LSTAT_WAKEERR 8).laneFull die l false else d := by
  refine if_congr ?_ rfl rfl
  simp only [hhere, Bool.true_and, Bool.and_eq_true, beq_iff_eq, Dev.laneBusy_iff, Dev.laneRuns, and_assoc]

end

/-- Where its port is not in RETRAIN. -/
theorem Dev.laneWakeFail_eq (h : ∀ p i, d.lanePort die l = some (p, i) → d.portSt p ≠ 4) : d.laneWakeFail die l = d.laneWakeLate die l := by
  rw [Dev.laneWakeFail]
  split
  next p i hpi => exact if_neg fun hc => h p i hpi hc.2
  · rfl

theorem Dev.laneWakeLate_trains (d : Dev) (die l : Nat) :
    let e := (d.laneErr die l F.SER_LSTAT_WAKEERR 8).laneFull die l false
    e.get F.SER_LSTAT_STATE die l = 1 ∧ (e.lane die l).seq = 1 ∧ e.get F.SER_LSTAT_WAKEERR die l = 1 ∧
      e.get F.SER_NEVT_NTRAIN die l = (d.get F.SER_NEVT_NTRAIN die l + 1) % 2 ^ 16 := by
  obtain ⟨hst, -, -, hseq, -⟩ := (d.laneErr die l F.SER_LSTAT_WAKEERR 8).laneFull_began die l false
  refine ⟨hst, hseq, ?_, ?_⟩
  · rw [Dev.laneFull_sticky _ _ _ rfl (by decide)]
    exact d.laneErr_sets die l 8 rfl (by decide)
  · rw [Dev.laneFull_counts, (d.laneErr_agree die l 8 (f := F.SER_LSTAT_WAKEERR) rfl).get F.SER_NEVT_NTRAIN rfl rfl]

end

/-- Settles O52: each event of reception by its cases; what follows an event leaves the lane as the event has left it. -/
theorem laneReception : Obligations.LaneReception := by
  intro die l
  refine ⟨fun syms takes => Effect.codewordReceive_of _ _ _ _ fun d _ hup hcalm => ?_, fun eyes => Effect.fomRefresh_of _ _ _ fun d _ hup hcalm => ?_,
    fun ctle dfe1 fom => Effect.adaptStep_of _ _ _ _ _ fun d hwf hup hcalm => ?_, Effect.dozeEnter_of _ _ fun d _ hup hcalm => ?_,
    Effect.dozeExit_of _ _ fun d _ hup hcalm => ?_, Effect.dozeRefreshWake_of _ _ fun d _ hup hcalm => ?_,
    Effect.wakeLockTimeout_of _ _ fun d _ hup hcalm => ?_, Effect.signalDetect_of _ _ fun d _ hup hcalm => ?_,
    Effect.laneWakeTimeout_of _ _ fun d _ hup hcalm hserve => ?_, Effect.lossOfSignal_of _ _ fun d _ hup hcalm => ?_⟩
  · have hhere := Place.ofLane_here hup
    have hkeep := Dev.laneAfter_agree (f := fun d => d.codeword die l syms takes)
      ((Dev.codeword_kp d die l syms takes (Within.refl _) (Agree.refl _ _)).portCalm rfl rfl rfl hcalm)
    dsimp only
    by_cases h : d.laneCounts die l
    · rw [if_pos (show if 17 ≤ l then d.get F.SER_LSTAT_STATE die l = 5 else d.get F.SER_LSTAT_STATE die l = 4 ∨ d.get F.SER_LSTAT_STATE die l = 5 from h)]
      have htally := hkeep.laneTally rfl rfl rfl rfl rfl (Dev.codeword_counted takes hhere h (syms := syms))
      unfold laneDecode laneSymbols at htally
      generalize (if 17 ≤ l then ethCode.decode _ [] 15 else laneCode.decode _ [] 14) = dec at htally ⊢
      cases dec <;> exact htally
    · rw [if_neg (show ¬ if 17 ≤ l then d.get F.SER_LSTAT_STATE die l = 5 else d.get F.SER_LSTAT_STATE die l = 4 ∨ d.get F.SER_LSTAT_STATE die l = 5 from h)]
      have hleft := (Dev.codeword_uncounted_agree takes hhere h (syms := syms)).then hkeep
      refine ⟨congrArg₂ (· + 2 ^ 32 * ·) (hleft.get F.SER_NCW_LO_COUNT rfl rfl ..) (hleft.get F.SER_NCW_HI_COUNT rfl rfl ..),
        hleft.get F.SER_NCORR_COUNT rfl rfl .., hleft.get F.SER_NUNC_COUNT rfl rfl .., hleft.get F.SER_LSTAT_STATE rfl rfl .., ?_⟩
      rw [hkeep.get F.SER_NPRBS_COUNT rfl rfl, hkeep.lane rfl]
      split
      next hprbs =>
        have hcount := Dev.codeword_prbs takes hhere hprbs (syms := syms)
        unfold laneSymbols at hcount
        exact hcount
      next hprbs =>
        have hlock := Dev.codeword_locks takes hhere h hprbs (syms := syms)
        unfold laneSymbols at hlock
        exact hlock
  · have hkeep := Dev.laneAfter_agree (f := fun d => d.laneFom die l eyes)
      ((Dev.laneFom_kp d die l eyes (Within.refl _) (Agree.refl _ _)).portCalm rfl rfl rfl hcalm)
    dsimp only
    split
    next h =>
      rw [Dev.laneFom_grades eyes (Place.ofLane_here hup) h] at hkeep
      rw [hkeep.get F.SER_LSTAT_FOM rfl rfl, hkeep.get F.SER_LSTAT_STATE rfl rfl, hkeep.get F.SER_LSTAT_LOWFOM rfl rfl, hkeep.lane rfl]
      exact Dev.laneGraded_grades (fomOf_lt eyes)
    next h => exact hkeep.laneIdle (Dev.laneFom_idle eyes h)
  · have hhere := Place.ofLane_here hup
    simp only [Instr.wf, Bool.and_eq_true, decide_eq_true_eq] at hwf
    obtain ⟨⟨⟨-, hctle⟩, hdfe⟩, hfom⟩ := hwf
    have hkeep := Dev.laneAfter_agree (f := fun d => d.laneAdaptStep die l ctle dfe1 fom)
      ((Dev.laneAdaptStep_kp d die l ctle dfe1 fom (Within.refl _) (Agree.refl _ _)).portCalm rfl rfl rfl hcalm)
    dsimp only
    split
    next h =>
      rw [hkeep.get F.SER_RXEQ_CTLE rfl rfl, hkeep.get F.SER_RXEQ_DFE1 rfl rfl, hkeep.get F.SER_LSTAT_FOM rfl rfl, hkeep.get F.SER_LSTAT_STATE rfl rfl,
        hkeep.lane rfl]
      exact Dev.laneAdaptStep_steps hctle hdfe hfom hhere h
    next h =>
      rw [Dev.laneAdaptStep_idle hctle hdfe hfom hhere h] at hkeep
      exact ⟨hkeep.laneSame rfl rfl rfl (.refl ..), hkeep.raw _ rfl (by dsimp only; decide)⟩
  · have hkeep := Dev.laneAfter_agree (f := fun d => d.laneDoze die l)
      ((Dev.laneDoze_kp d die l (Within.refl _) (Agree.refl _ _)).portCalm rfl rfl rfl hcalm)
    rw [Dev.laneDoze_eq (Place.ofLane_here hup)] at hkeep
    dsimp only
    split
    next h =>
      obtain ⟨hdoze, hst, hsent⟩ := d.laneDozes_dozes die l
      rw [if_pos h] at hkeep
      rw [hkeep.get F.SER_LSTAT_TXDZ rfl rfl, hkeep.get F.SER_LSTAT_STATE rfl rfl, hkeep.lane rfl]
      exact ⟨hdoze, hst.trans h.1, hsent⟩
    next h => exact hkeep.laneIdle (if_neg h)
  · have hkeep := Dev.laneAfter_agree (f := fun d => d.laneUndoze die l)
      ((Dev.laneUndoze_kp d die l (Within.refl _) (Agree.refl _ _)).portCalm rfl rfl rfl hcalm)
    rw [Dev.laneUndoze_eq (Place.ofLane_here hup)] at hkeep
    dsimp only
    split
    next h =>
      rw [if_pos h] at hkeep
      rw [hkeep.get F.SER_LSTAT_TXDZ rfl rfl, hkeep.get F.SER_LSTAT_STATE rfl rfl, hkeep.lane rfl, Dev.put_read_lane, Dev.laneSend_sent]
      exact ⟨Dev.get_put_self _ _ _ _ _ _ (by decide) (by decide) (by decide), Dev.get_put_bits _ _ (by decide) (by decide) (by decide), rfl⟩
    next h => exact hkeep.laneIdle (if_neg h)
  · have hkeep := Dev.laneAfter_agree (f := fun d => d.laneRefresh die l)
      ((Dev.laneRefresh_kp d die l (Within.refl _) (Agree.refl _ _)).portCalm rfl rfl rfl hcalm)
    rw [Dev.laneRefresh_eq (Place.ofLane_here hup)] at hkeep
    dsimp only
    split
    next h =>
      rw [if_pos h] at hkeep
      rw [hkeep.get F.SER_LSTAT_TXDZ rfl rfl, hkeep.get F.SER_LSTAT_STATE rfl rfl, hkeep.lane rfl]
      exact d.laneRefreshes_sends die l h.1
    next h => exact hkeep.laneIdle (if_neg h)
  · have hkeep := Dev.laneAfter_agree (f := fun d => d.laneWakeErr die l)
      ((Dev.laneWakeErr_kp d die l (Within.refl _) (Agree.refl _ _)).portCalm rfl rfl rfl hcalm)
    rw [Dev.laneWakeErr_eq (Place.ofLane_here hup)] at hkeep
    dsimp only
    split
    next h =>
      rw [if_pos h] at hkeep
      obtain ⟨hlost, herr, hdoze⟩ := d.laneWakeErr_lost die l
      exact ⟨hkeep.laneLost rfl rfl rfl rfl hlost, (hkeep.get F.SER_LSTAT_WAKEERR rfl rfl ..).trans herr, (hkeep.get F.SER_LSTAT_RXDZ rfl rfl ..).trans hdoze⟩
    next h => exact hkeep.laneIdle (if_neg h)
  · have hkeep := Dev.laneAfter_agree (f := fun d => d.laneDetect die l)
      ((Dev.laneDetect_kp d die l (Within.refl _) (Agree.refl _ _)).portCalm rfl rfl rfl hcalm)
    rw [Dev.laneDetect_eq (Place.ofLane_here hup)] at hkeep
    dsimp only
    split
    next h =>
      rw [if_pos h] at hkeep
      obtain ⟨hst, hseq, -⟩ := d.laneWakeNow_wakes die l
      rw [hkeep.get F.SER_LSTAT_STATE rfl rfl, hkeep.lane rfl]
      exact ⟨hst, hseq⟩
    next h => exact hkeep.laneIdle (if_neg h)
  · have hlate := Dev.laneWakeFail_eq hserve
    have hkeep := Dev.laneAfter_agree (f := fun d => d.laneWakeFail die l) (d := d) (die := die) (l := l)
      (by rw [hlate]; exact (Dev.laneWakeLate_kp d die l (Within.refl _) (Agree.refl _ _)).portCalm rfl rfl rfl hcalm)
    rw [hlate, Dev.laneWakeLate_eq (Place.ofLane_here hup)] at hkeep
    dsimp only
    split
    next h =>
      rw [if_pos h] at hkeep
      rw [hkeep.get F.SER_LSTAT_STATE rfl rfl, hkeep.get F.SER_LSTAT_WAKEERR rfl rfl, hkeep.get F.SER_NEVT_NTRAIN rfl rfl, hkeep.lane rfl]
      exact d.laneWakeLate_trains die l
    next h => exact hkeep.laneIdle (if_neg h)
  · have hkeep := Dev.laneAfter_agree (f := fun d => d.laneLos die l)
      ((Dev.laneLos_kp d die l (Within.refl _) (Agree.refl _ _)).portCalm rfl rfl rfl hcalm)
    rw [Dev.laneLos_eq (Place.ofLane_here hup)] at hkeep
    dsimp only
    split
    next h =>
      rw [if_pos h] at hkeep
      obtain ⟨hlost, herr⟩ := d.laneErr_lost die l 7 (f := F.SER_LSTAT_LOS) rfl (by decide)
      exact ⟨hkeep.laneLost rfl rfl rfl rfl hlost, (hkeep.get F.SER_LSTAT_LOS rfl rfl ..).trans herr⟩
    next h => exact hkeep.laneIdle (if_neg h)

end Sys2Proof.Machine
end

section
/-!
PROOF of O53: a package-link port around its traffic (R333–R339, R344, R413): its sequence and qualification, replay and retry storms, NAK and
acknowledgement, doze, silence and sleep.
-/
namespace Sys2Proof.Machine

/-! What is seen of a port -/

/-- The port is DOWN, without active lanes. -/
def Dev.portIsDown (e : Dev) (p : Nat) : Prop :=
  e.get F.PLK_PSTAT_STATE (portDie p) (p % 4) = 5 ∧ e.get F.PLK_PSTAT_LANES (portDie p) (p % 4) = 0

/-- The port trains: every lane of it in CAL; a port outside the transmit mask is DOWN. -/
def Dev.portTrains (d e : Dev) (p : Nat) : Prop :=
  if hasBit (d.get F.WRD_TXMASK_PORTS (portDie p)) p = true then
    e.get F.PLK_PSTAT_STATE (portDie p) (p % 4) = 1 ∧ e.get F.PLK_PSTAT_LANES (portDie p) (p % 4) = 0 ∧
      ∀ i, i < 4 → e.get F.SER_LSTAT_STATE (portDie p) (e.laneOf p i) = 1
  else e.portIsDown p

/-- The port has the same record and status. -/
def Dev.portSame (d e : Dev) (p : Nat) : Prop :=
  e.port p = d.port p ∧ e.raw ⟨.PLK_PSTAT, portDie p, p % 4, 0⟩ = d.raw ⟨.PLK_PSTAT, portDie p, p % 4, 0⟩

/-- A set of lane indices, as LANES holds it. -/
def laneSet (is : List Nat) : Nat := ofBits ((List.range 4).map fun i => is.contains i)

theorem laneSet_lt (is : List Nat) : laneSet is < 16 := ofBits_lt _

/-! The sequence begins (R336) -/

section
variable (d : Dev)

theorem Dev.laneFull_state (die l l' : Nat) (again : Bool) :
    (d.laneFull die l again).get F.SER_LSTAT_STATE die l' = if l' = l then 1 else d.get F.SER_LSTAT_STATE die l' := by
  split
  next h =>
    rw [h]
    exact (d.laneFull_began die l again).1
  next h =>
    have hput (d' : Dev) (f : Fld) (hf : f.lo ≤ f.hi) (v : Nat) : (d'.put f v die l).get F.SER_LSTAT_STATE die l' = d'.get F.SER_LSTAT_STATE die l' :=
      Dev.get_put_ne _ _ _ _ _ _ _ _ _ _ (by decide) hf (.inr (.inr (.inl h)))
    rw [Dev.laneFull, Dev.modLane_read_get, Dev.setLaneSt, Dev.modLane_read_get, hput _ _ (by decide), Dev.count, hput _ _ (by decide),
      hput _ _ (by decide), Dev.laneAwake, hput _ _ (by decide), hput _ _ (by decide)]

theorem Dev.foldl_laneFull_state (die : Nat) (ls : List Nat) {l : Nat} (h : l ∈ ls ∨ d.get F.SER_LSTAT_STATE die l = 1) :
    (ls.foldl (fun d' l => d'.laneFull die l false) d).get F.SER_LSTAT_STATE die l = 1 := by
  induction ls generalizing d with
  | nil => exact h.resolve_left (List.not_mem_nil)
  | cons l' ls ih =>
    refine ih _ ?_
    rw [Dev.laneFull_state]
    by_cases hl : l = l'
    · exact .inr (if_pos hl)
    · rw [if_neg hl]
      exact h.imp_left fun hm => (List.mem_cons.mp hm).resolve_left hl

theorem Dev.foldl_laneFull_agree (die : Nat) (ls : List Nat) :
    Agree 0x100000000000000000000000000000000000000000000000004008000000000000000000000000000000000000000000000000000 d
      (ls.foldl (fun d' l => d'.laneFull die l false) d) :=
  Agree.foldl _ _ _ (fun _ _ h => Dev.laneFull_kp _ _ _ _ (Within.refl _) h) (Agree.refl _ _)

variable (p : Nat)

/-- The port in TRAIN, before its lanes begin. -/
def Dev.portStarts (d : Dev) (p : Nat) : Dev :=
  ((((d.setPortSt p plkTrain).put F.PLK_PSTAT_LANES 0 (portDie p) (p % 4)).moveRoutes p).portFlush p).modPort p fun x => { x with qretry := false }

theorem Dev.portTrainNow_eq : d.portTrainNow p =
    if hasBit (d.get F.WRD_TXMASK_PORTS (portDie p)) p = true then ((d.portStarts p).portLanes p).foldl (fun d' l => d'.laneFull (portDie p) l false) (d.portStarts p)
    else d.portDown p := by
  rw [Dev.portTrainNow]
  cases hasBit (d.get F.WRD_TXMASK_PORTS (portDie p)) p <;> rfl

theorem Dev.portStarts_agree :
    Agree 0x38010003e004000245000000000000000000000000000e00c60000000000001000004000000000000000000000000101f20000000
      ((d.setPortSt p plkTrain).put F.PLK_PSTAT_LANES 0 (portDie p) (p % 4)) (d.portStarts p) := by
  rw [Dev.portStarts]
  exact Dev.modPort_kp _ _ _ ((Within.refl _).up (by decide)) (Dev.portFlush_kp _ _ ((Within.refl _).up (by decide))
    (Dev.moveRoutes_kp _ _ ((Within.refl _).up (by decide)) (Agree.refl _ _)))

theorem Dev.portTrainNow_trains : d.portTrains (d.portTrainNow p) p := by
  rw [Dev.portTrainNow_eq, Dev.portTrains]
  split
  · have hlanes := (d.portStarts p).foldl_laneFull_agree (portDie p) ((d.portStarts p).portLanes p)
    have hstart := d.portStarts_agree p
    refine ⟨(hlanes.get F.PLK_PSTAT_STATE rfl rfl ..).trans ((hstart.get F.PLK_PSTAT_STATE rfl rfl ..).trans ?_),
      (hlanes.get F.PLK_PSTAT_LANES rfl rfl ..).trans ((hstart.get F.PLK_PSTAT_LANES rfl rfl ..).trans ?_), fun i hi => ?_⟩
    · rw [Dev.get_put_bits _ _ (by decide) (by decide) (by decide)]
      exact Dev.get_put_self _ _ _ _ _ _ (by decide) (by decide) (by decide)
    · exact Dev.get_put_self _ _ _ _ _ _ (by decide) (by decide) (by decide)
    · rw [hlanes.laneOf rfl rfl]
      exact Dev.foldl_laneFull_state _ _ _ (.inl (List.mem_map.mpr ⟨i, List.mem_range.mpr hi, rfl⟩))
  · exact d.portDown_down p

section
variable {g : Fld} (hreg : g.reg = .PLK_PSTAT) (hg : 6 < g.lo ∧ g.hi < 32)
include hg

/-- A change of STATE or LANES leaves the bits above them. -/
theorem Dev.put_keeps_pstat {f : Fld} (hf : f.lo ≤ f.hi ∧ f.hi ≤ 6) (v die i : Nat) : (d.put f v die i).get g die i = d.get g die i :=
  Dev.get_put_bits _ _ hg.2 hf.1 (.inl (by omega))

theorem Dev.setPortSt_pstat (st : Nat) : (d.setPortSt p st).get g (portDie p) (p % 4) = d.get g (portDie p) (p % 4) :=
  Dev.put_keeps_pstat _ hg (by decide) _ _ _

include hreg

theorem Dev.portDown_pstat : (d.portDown p).get g (portDie p) (p % 4) = d.get g (portDie p) (p % 4) := by
  rw [(d.portDown_agree p).get g rfl (by rw [hreg]; rfl), Dev.put_keeps_pstat _ hg (by decide), Dev.setPortSt_pstat _ _ hg]

theorem Dev.portTrainNow_pstat : (d.portTrainNow p).get g (portDie p) (p % 4) = d.get g (portDie p) (p % 4) := by
  rw [Dev.portTrainNow_eq]
  split
  · rw [((d.portStarts p).foldl_laneFull_agree (portDie p) _).get g rfl (by rw [hreg]; rfl), (d.portStarts_agree p).get g rfl (by rw [hreg]; rfl),
      Dev.put_keeps_pstat _ hg (by decide), Dev.setPortSt_pstat _ _ hg]
  · exact Dev.portDown_pstat _ _ hreg hg

end

end

/-! Commands of a port (R339) -/

section
variable {d : Dev} {p cmd : Nat}

/-- The port is in a sequence: TRAIN, QUAL or RETRAIN. -/
def Dev.portRuns (d : Dev) (p : Nat) : Prop :=
  d.get F.PLK_PSTAT_STATE (portDie p) (p % 4) = 1 ∨ d.get F.PLK_PSTAT_STATE (portDie p) (p % 4) = 2 ∨ d.get F.PLK_PSTAT_STATE (portDie p) (p % 4) = 4

/-- The package with a command of a port held until its sequence ends. -/
def Dev.portHolds (d : Dev) (p cmd : Nat) : Dev := (d.put F.PLK_PCTL_PEND 1 (portDie p) (p % 4)).modPort p fun x => { x with pend := cmd }

theorem Dev.portBusy_iff : d.portBusy p = true ↔ d.portRuns p := by
  simp only [Dev.portBusy, Bool.or_eq_true, beq_iff_eq, or_assoc]
  rfl

theorem Dev.portCmdWrite_eq (hcmd : cmd = 1 ∨ cmd = 2) (hhere : d.portHere p = true) : d.portCmdWrite p cmd =
    if d.portBusy p = true then (if d.on? F.PLK_PCTL_PEND (portDie p) (p % 4) = true then d else d.portHolds p cmd) else d.portCmd p cmd := by
  have hgo : ¬ (!d.portHere p || decide (cmd < 1) || decide (2 < cmd)) = true := by
    simp only [hhere, Bool.not_true, Bool.false_or, Bool.or_eq_true, decide_eq_true_eq]
    omega
  rw [Dev.portCmdWrite, if_neg hgo]
  rfl

theorem Dev.portCmdWrite_held (hcmd : cmd = 1 ∨ cmd = 2) (hhere : d.portHere p = true) (h : d.portRuns p) :
    if d.get F.PLK_PCTL_PEND (portDie p) (p % 4) ≠ 0 then d.portCmdWrite p cmd = d
    else (d.portCmdWrite p cmd).get F.PLK_PCTL_PEND (portDie p) (p % 4) = 1 ∧ (d.portCmdWrite p cmd).port p = { d.port p with pend := cmd } ∧
      (d.portCmdWrite p cmd).get F.PLK_PSTAT_STATE (portDie p) (p % 4) = d.get F.PLK_PSTAT_STATE (portDie p) (p % 4) := by
  rw [Dev.portCmdWrite_eq hcmd hhere, if_pos (Dev.portBusy_iff.mpr h)]
  by_cases hp : d.get F.PLK_PCTL_PEND (portDie p) (p % 4) ≠ 0
  · rw [if_pos hp, if_pos (by simpa [Dev.on?] using hp)]
  · rw [if_neg hp, if_neg (by simpa [Dev.on?] using hp)]
    refine ⟨Dev.get_put_self _ _ _ _ _ _ (by decide) (by decide) (by decide), ?_, Dev.get_put_reg _ _ (by decide) (by decide) (by decide)⟩
    rw [Dev.portHolds, Dev.modPort_port_self]
    rfl

theorem Dev.portCmdWrite_acts (hcmd : cmd = 1 ∨ cmd = 2) (hhere : d.portHere p = true) (h : ¬ d.portRuns p) : d.portCmdWrite p cmd = d.portCmd p cmd := by
  rw [Dev.portCmdWrite_eq hcmd hhere, if_neg (mt Dev.portBusy_iff.mp h)]

theorem Dev.portClear_clears (d : Dev) (p : Nat) :
    let e := d.portClear p
    e.get F.PLK_PSTAT_QUALERR (portDie p) (p % 4) = 0 ∧ e.get F.PLK_PSTAT_STORM (portDie p) (p % 4) = 0 ∧
      e.get F.PLK_PSTAT_PEERERR (portDie p) (p % 4) = 0 := by
  simp (disch := decide) only [Dev.portClear, Dev.get_put_bits, Dev.get_put_self, and_self]

theorem Dev.portCmd_train (d : Dev) (p : Nat) :
    let e := d.portCmd p 1
    d.portTrains e p ∧ e.get F.PLK_PSTAT_QUALERR (portDie p) (p % 4) = 0 ∧ e.get F.PLK_PSTAT_STORM (portDie p) (p % 4) = 0 ∧
      e.get F.PLK_PSTAT_PEERERR (portDie p) (p % 4) = 0 := by
  have hrun : d.portCmd p 1 = (d.portClear p).portTrainNow p := rfl
  have hmask := (Dev.portClear_kp d p (Within.refl _) (Agree.refl _ _)).get F.WRD_TXMASK_PORTS rfl rfl (portDie p) 0 0
  have htrain := (d.portClear p).portTrainNow_trains p
  rw [Dev.portTrains, hmask] at htrain
  dsimp only
  rw [hrun, Dev.portTrainNow_pstat _ _ rfl (by decide), Dev.portTrainNow_pstat _ _ rfl (by decide), Dev.portTrainNow_pstat _ _ rfl (by decide)]
  exact ⟨htrain, d.portClear_clears p⟩

/-! The end of a sequence -/

theorem Dev.portEnded_none (h : (d.port p).pend = 0) : d.portEnded p = d := if_pos h

theorem Dev.portFail_eq (h : (d.port p).pend = 0) : d.portFail p = d.portDown p :=
  Dev.portEnded_none (((d.portDown_linksKept p).pend p).trans h)

/-- The port in UP with fresh buffers, before a held command acts. -/
def Dev.portReached (d : Dev) (p : Nat) : Dev :=
  (d.setPort p { PPort.initial with pend := (d.port p).pend, storm := (d.port p).storm, itag := (d.port p).itag, wire := (d.port p).wire }).setPortSt p plkUp

theorem Dev.setPortSt_state (d : Dev) (p : Nat) {st : Nat} (h : st < 8) : (d.setPortSt p st).get F.PLK_PSTAT_STATE (portDie p) (p % 4) = st :=
  Dev.get_put_self _ _ _ _ _ _ (by decide) (by decide) h

theorem Dev.setPortSt_port (d : Dev) (p st : Nat) : (d.setPortSt p st).port p = { d.port p with at_ := d.tick (portDie p) } := by
  rw [Dev.setPortSt, Dev.modPort_port_self]
  rfl

theorem Dev.setPortSt_lanes (d : Dev) (p st : Nat) :
    (d.setPortSt p st).get F.PLK_PSTAT_LANES (portDie p) (p % 4) = d.get F.PLK_PSTAT_LANES (portDie p) (p % 4) :=
  Dev.get_put_bits _ _ (by decide) (by decide) (by decide)

theorem Dev.portReached_port (d : Dev) (p : Nat) : (d.portReached p).port p = { PPort.initial with
    pend := (d.port p).pend, storm := (d.port p).storm, itag := (d.port p).itag, wire := (d.port p).wire, at_ := d.tick (portDie p) } := by
  rw [Dev.portReached, Dev.setPortSt_port, Dev.setPort_port_self]
  rfl

theorem Dev.portUp_eq (h : (d.port p).pend = 0) : d.portUp p = d.portReached p :=
  Dev.portEnded_none ((congrArg PPort.pend (d.portReached_port p)).trans h)

/-- The port enters UP, its buffers empty and its credits whole. -/
theorem Dev.portUp_up (h : (d.port p).pend = 0) :
    let e := d.portUp p
    e.get F.PLK_PSTAT_STATE (portDie p) (p % 4) = 3 ∧ e.get F.PLK_PSTAT_LANES (portDie p) (p % 4) = d.get F.PLK_PSTAT_LANES (portDie p) (p % 4) ∧
      (e.port p).held = [] ∧ (e.port p).cred = (256, 256) := by
  dsimp only
  rw [Dev.portUp_eq h, Dev.portReached_port]
  exact ⟨Dev.setPortSt_state _ _ (by decide), (Dev.setPortSt_lanes ..).trans rfl, rfl, rfl⟩

end

/-! Qualification (R338) -/

/-- Fewer lanes of a set than MINL. -/
def Dev.lanesShort (d : Dev) (p : Nat) (is : List Nat) : Prop := popCount (laneSet is) 4 < d.get F.PLK_PCTL_MINL (portDie p) (p % 4)

/-- The qualification of a port has run for QTIME. -/
def Dev.qualOver (d : Dev) (p : Nat) : Prop :=
  d.get F.PLK_PSTAT_STATE (portDie p) (p % 4) = 2 ∧ d.late (portDie p) (d.port p).at_ (d.get F.PLK_QCTL_QTIME (portDie p) (p % 4)) = true

/-- Active lanes that have passed, and that have not. -/
def Dev.qualGood (d : Dev) (p : Nat) : List Nat := (d.portIdx p).filter fun i => d.qualPass p i
def Dev.qualBad (d : Dev) (p : Nat) : List Nat := (d.portIdx p).filter fun i => !d.qualPass p i

/-- The package with PLK_QRES of a port: the largest rise of its lanes' counts. -/
def Dev.qualRead (d : Dev) (p : Nat) : Dev :=
  d.put F.PLK_QRES_COUNT (((d.portIdx p).map fun i => d.get F.SER_NCORR_COUNT (portDie p) (d.laneOf p i) - ((d.port p).qbase.getD i (0, 0)).2).foldl max 0)
    (portDie p) (p % 4)

/-- The package with a failed qualification recorded. -/
def Dev.qualFailed (d : Dev) (p : Nat) : Dev := ((d.qualRead p).put F.PLK_PSTAT_QUALERR 1 (portDie p) (p % 4)).portRec p 3

/-- The package with the lanes that have failed out of LANES. -/
def Dev.qualCut (d : Dev) (p : Nat) : Dev :=
  (d.qualFailed p).put F.PLK_PSTAT_LANES (ofBits ((List.range 4).map fun i => (d.portIdx p).contains i && !(d.qualBad p).contains i)) (portDie p) (p % 4)

section
variable (d : Dev) (p : Nat)

theorem Dev.qualRead_agree : Agree 0x1000000000000000000000000000000000000000000000000000000000000 d (d.qualRead p) := Dev.put_kp _ _ _ _ _ _ rfl ((Within.refl _).up rfl) (Agree.refl _ _)

theorem Dev.qualRead_pass (i : Nat) : (d.qualRead p).qualPass p i = d.qualPass p i := by
  have h := d.qualRead_agree p
  simp only [Dev.qualPass, Dev.laneSt, h.laneOf rfl rfl, h.port rfl, h.get F.SER_LSTAT_STATE rfl rfl, h.get F.SER_NUNC_COUNT rfl rfl,
    h.get F.SER_NCORR_COUNT rfl rfl, h.get F.PLK_QCORR_MAX rfl rfl]

/-- What a failed qualification changes but for the port's status. -/
theorem Dev.qualFailed_agree : Agree 0x80000000000000245000000000000000000000000001004000000000000000000000000000000000000000000000000000000000 d (d.qualFailed p) :=
  Dev.portRec_kp _ _ _ ((Within.refl _).up (by decide)) (Dev.put_kp _ _ _ _ _ _ rfl ((Within.refl _).up (by decide)) ((d.qualRead_agree p).up (by decide)))

theorem Dev.qualFailed_put : Agree 0x80000000000000245000000000000000000000000000000000000000000000000000000000000000000000000000000000000000 ((d.qualRead p).put F.PLK_PSTAT_QUALERR 1 (portDie p) (p % 4)) (d.qualFailed p) :=
  Dev.portRec_kp _ _ _ (Within.refl _) (Agree.refl _ _)

theorem Dev.qualFailed_status {g : Fld} (hreg : g.reg = .PLK_PSTAT) (hg : g.hi < 8) :
    (d.qualFailed p).get g (portDie p) (p % 4) = d.get g (portDie p) (p % 4) := by
  rw [(d.qualFailed_put p).get g rfl (by rw [hreg]; rfl), Dev.get_put_bits _ _ (by omega) (by decide) (.inr hg)]
  exact (d.qualRead_agree p).get g rfl (by rw [hreg]; rfl) ..

theorem Dev.qualFailed_sets : (d.qualFailed p).get F.PLK_PSTAT_QUALERR (portDie p) (p % 4) = 1 :=
  ((d.qualFailed_put p).get F.PLK_PSTAT_QUALERR rfl rfl ..).trans (Dev.get_put_self _ _ _ _ _ _ (by decide) (by decide) (by decide))

theorem Dev.qualCut_agree : Agree 0x80000000000000245000000000000000000000000001004000000000000000000000000000000000000000000000000000000000 d (d.qualCut p) := Dev.put_kp _ _ _ _ _ _ rfl ((Within.refl _).up (by decide)) (d.qualFailed_agree p)

theorem Dev.qualCut_pend : ((d.qualCut p).port p).pend = (d.port p).pend := congrArg PPort.pend ((d.qualCut_agree p).port rfl p)

theorem Dev.qualCut_set : ofBits ((List.range 4).map fun i => (d.portIdx p).contains i && !(d.qualBad p).contains i) = laneSet (d.qualGood p) := by
  refine congrArg ofBits (List.map_congr_left fun i _ => ?_)
  rw [Bool.eq_iff_iff]
  simp only [Dev.qualBad, Dev.qualGood, Bool.and_eq_true, Bool.not_eq_true', List.contains_eq_mem, decide_eq_true_eq, decide_eq_false_iff_not,
    List.mem_filter, not_and, Bool.not_eq_false]
  exact ⟨fun h => ⟨h.1, h.2 h.1⟩, fun h => ⟨h.1, fun _ => h.2⟩⟩

theorem Dev.qualCut_lanes : (d.qualCut p).get F.PLK_PSTAT_LANES (portDie p) (p % 4) = laneSet (d.qualGood p) := by
  rw [Dev.qualCut, Dev.qualCut_set]
  exact Dev.get_put_self _ _ _ _ _ _ (by decide) (by decide) (laneSet_lt _)

theorem Dev.qualCut_sets : (d.qualCut p).get F.PLK_PSTAT_QUALERR (portDie p) (p % 4) = 1 :=
  (Dev.get_put_bits _ _ (by decide) (by decide) (by decide)).trans (d.qualFailed_sets p)

theorem Dev.qualCut_short : (d.qualCut p).portShort p = true ↔ d.lanesShort p (d.qualGood p) := by
  rw [Dev.portShort, decide_eq_true_eq, Dev.portMask, Dev.qualCut_lanes, (d.qualCut_agree p).get F.PLK_PCTL_MINL rfl rfl]
  rfl

theorem Dev.qualCut_reserve : (d.qualCut p).reserveFor p = d.reserveFor p := by
  have h := d.qualCut_agree p
  simp only [Dev.reserveFor, Dev.on?, Dev.gf2, h.fuse rfl, h.get F.PLK_RESERVE_EN rfl rfl, h.get F.PLK_RESERVE_PORT rfl rfl,
    h.get F.PLK_RESERVE_INUSE rfl rfl]

/-- What the end of a qualification does with the lanes that have not passed. -/
def Dev.qualTakes (d : Dev) (p b : Nat) : Dev :=
  if !(d.port p).qretry then ((d.qualFailed p).portQualify p).modPort p fun y => { y with qretry := true }
  else if (d.qualCut p).reserveFor p then (d.qualCut p).reserveTake p b
  else if (d.qualCut p).portShort p then (d.qualCut p).portFail p
  else (d.qualCut p).portUp p

end

section
variable {d : Dev} {p : Nat}

theorem Dev.portQualEnd_idle (h : ¬ d.qualOver p) : d.portQualEnd p = d := if_neg fun hc => h ⟨hc.1, hc.2.2⟩

theorem Dev.portQualEnd_over (hhere : d.portHere p = true) (h : d.qualOver p) : d.portQualEnd p =
    match d.qualBad p with
    | [] => (d.qualRead p).portUp p
    | b :: _ => d.qualTakes p b := by
  have hbad : ((d.portIdx p).filter fun i => !(d.qualRead p).qualPass p i) = d.qualBad p := by
    simp only [Dev.qualRead_pass, Dev.qualBad]
  have hrun : d.portQualEnd p = match (d.portIdx p).filter fun i => !(d.qualRead p).qualPass p i with
      | [] => (d.qualRead p).portUp p
      | b :: _ => if !(d.port p).qretry then ((d.qualFailed p).portQualify p).modPort p fun y => { y with qretry := true }
        else
          let d3 := (d.qualFailed p).put F.PLK_PSTAT_LANES (ofBits ((List.range 4).map fun i => (d.portIdx p).contains i &&
            !((d.portIdx p).filter fun i => !(d.qualRead p).qualPass p i).contains i)) (portDie p) (p % 4)
          if d3.reserveFor p then d3.reserveTake p b
          else if d3.portShort p then d3.portFail p
          else d3.portUp p := (if_pos ⟨h.1, hhere, h.2⟩).trans rfl
  rw [hrun, hbad]
  rfl

theorem Dev.portQualify_agree (d : Dev) (p : Nat) :
    Agree 0x100000000000000000000000000000000000000000000000000000000000000000000000000000000000000000000000000000000
      ((d.setPortSt p plkQual).modPort p fun x => { x with qbase := (List.range 4).map fun i => (d.get F.SER_NUNC_COUNT (portDie p) (d.laneOf p i),
        d.get F.SER_NCORR_COUNT (portDie p) (d.laneOf p i)), qbad := 0 }) (d.portQualify p) := by
  rw [Dev.portQualify]
  exact Agree.foldl _ _ _ (fun _ _ h => Dev.modLane_kp _ _ _ _ (Within.refl _) h) (Agree.refl _ _)

/-- A second qualification, where the first was no repetition. -/
theorem Dev.qualTakes_again (b : Nat) (hretry : (d.port p).qretry = false) :
    let e := d.qualTakes p b
    e.get F.PLK_PSTAT_QUALERR (portDie p) (p % 4) = 1 ∧ e.get F.PLK_PSTAT_STATE (portDie p) (p % 4) = 2 ∧ (e.port p).qretry = true ∧ (e.port p).qbad = 0 ∧
      e.get F.PLK_PSTAT_LANES (portDie p) (p % 4) = d.get F.PLK_PSTAT_LANES (portDie p) (p % 4) := by
  have hrun : d.qualTakes p b = ((d.qualFailed p).portQualify p).modPort p fun y => { y with qretry := true } := if_pos (by rw [hretry]; rfl)
  have hqual := (d.qualFailed p).portQualify_agree p
  dsimp only
  rw [hrun, Dev.modPort_read_get, Dev.modPort_read_get, Dev.modPort_read_get, Dev.modPort_port_self, hqual.get F.PLK_PSTAT_QUALERR rfl rfl,
    hqual.get F.PLK_PSTAT_STATE rfl rfl, hqual.get F.PLK_PSTAT_LANES rfl rfl, hqual.port rfl, Dev.modPort_port_self, Dev.modPort_read_get,
    Dev.modPort_read_get, Dev.modPort_read_get, Dev.setPortSt_lanes, Dev.setPortSt_pstat _ _ (by decide)]
  exact ⟨d.qualFailed_sets p, Dev.setPortSt_state _ _ (by decide), rfl, rfl, d.qualFailed_status p rfl (by decide)⟩

/-- The reserve lane takes the place of the first lane that has failed, and the port trains. -/
theorem Dev.qualTakes_reserve (b : Nat) (hretry : ¬ (d.port p).qretry = false) (hres : d.reserveFor p = true) :
    let e := d.qualTakes p b
    e.get F.PLK_PSTAT_QUALERR (portDie p) (p % 4) = 1 ∧ d.portTrains e p ∧ e.get F.PLK_RESERVE_INUSE (portDie p) = 1 ∧
      e.get F.PLK_RESERVE_LIDX (portDie p) = b % 4 ∧ e.get F.PLK_PSTAT_RSV (portDie p) (p % 4) = 1 := by
  have hrun : d.qualTakes p b = (d.qualCut p).reserveTake p b :=
    (if_neg (by simpa using hretry)).trans (if_pos ((d.qualCut_reserve p).trans hres))
  have hmask := (d.qualCut_agree p).get F.WRD_TXMASK_PORTS rfl rfl (portDie p) 0 0
  have htrain := ((((d.qualCut p).put F.PLK_RESERVE_INUSE 1 (portDie p)).put F.PLK_RESERVE_LIDX b (portDie p)).put F.PLK_PSTAT_RSV 1 (portDie p) (p % 4)).portTrainNow_trains p
  have hkeep := Dev.portTrainNow_kp ((((d.qualCut p).put F.PLK_RESERVE_INUSE 1 (portDie p)).put F.PLK_RESERVE_LIDX b (portDie p)).put F.PLK_PSTAT_RSV 1 (portDie p) (p % 4)) p
    (Within.refl _) (Agree.refl _ _)
  rw [Dev.portTrains, Dev.get_put_reg _ _ (by decide) (by decide) (by decide), Dev.get_put_reg _ _ (by decide) (by decide) (by decide),
    Dev.get_put_reg _ _ (by decide) (by decide) (by decide), hmask] at htrain
  dsimp only
  rw [hrun, Dev.reserveTake, Dev.portTrainNow_pstat _ _ rfl (by decide), Dev.portTrainNow_pstat _ _ rfl (by decide), hkeep.get F.PLK_RESERVE_INUSE rfl rfl,
    hkeep.get F.PLK_RESERVE_LIDX rfl rfl]
  refine ⟨?_, htrain, ?_, ?_, Dev.get_put_self _ _ _ _ _ _ (by decide) (by decide) (by decide)⟩
  · rw [Dev.get_put_bits _ _ (by decide) (by decide) (by decide), Dev.get_put_reg _ _ (by decide) (by decide) (by decide),
      Dev.get_put_reg _ _ (by decide) (by decide) (by decide)]
    exact d.qualCut_sets p
  · rw [Dev.get_put_reg _ _ (by decide) (by decide) (by decide), Dev.get_put_bits _ _ (by decide) (by decide) (by decide)]
    exact Dev.get_put_self _ _ _ _ _ _ (by decide) (by decide) (by decide)
  · rw [Dev.get_put_reg _ _ (by decide) (by decide) (by decide)]
    exact Dev.get_put _ _ _ _ _ _ (by decide) (by decide)

section
variable (b : Nat) (hretry : ¬ (d.port p).qretry = false) (hres : ¬ d.reserveFor p = true) (hpend : (d.port p).pend = 0)
include hretry hres hpend

/-- Too few lanes have passed: the port is DOWN. -/
theorem Dev.qualTakes_down (hshort : d.lanesShort p (d.qualGood p)) :
    (d.qualTakes p b).get F.PLK_PSTAT_QUALERR (portDie p) (p % 4) = 1 ∧ (d.qualTakes p b).portIsDown p := by
  have hrun : d.qualTakes p b = (d.qualCut p).portFail p :=
    (if_neg (by simpa using hretry)).trans ((if_neg (by rwa [d.qualCut_reserve p])).trans (if_pos ((d.qualCut_short p).mpr hshort)))
  rw [hrun, Dev.portFail_eq ((d.qualCut_pend p).trans hpend), Dev.portDown_pstat _ _ rfl (by decide)]
  exact ⟨d.qualCut_sets p, Dev.portDown_down ..⟩

/-- The port is UP on the lanes that have passed. -/
theorem Dev.qualTakes_up (hshort : ¬ d.lanesShort p (d.qualGood p)) :
    let e := d.qualTakes p b
    e.get F.PLK_PSTAT_QUALERR (portDie p) (p % 4) = 1 ∧ e.get F.PLK_PSTAT_STATE (portDie p) (p % 4) = 3 ∧
      e.get F.PLK_PSTAT_LANES (portDie p) (p % 4) = laneSet (d.qualGood p) := by
  have hrun : d.qualTakes p b = (d.qualCut p).portUp p :=
    (if_neg (by simpa using hretry)).trans ((if_neg (by rwa [d.qualCut_reserve p])).trans (if_neg (mt (d.qualCut_short p).mp hshort)))
  have hcut := (d.qualCut_pend p).trans hpend
  obtain ⟨hst, hlanes, -, -⟩ := Dev.portUp_up hcut
  dsimp only
  rw [hrun]
  refine ⟨?_, hst, hlanes.trans (d.qualCut_lanes p)⟩
  rw [Dev.portUp_eq hcut, Dev.portReached, Dev.setPortSt_pstat _ _ (by decide)]
  exact d.qualCut_sets p

end

end

/-- What is said of the end of a qualification. -/
def Dev.qualEnded (d e : Dev) (p : Nat) : Prop :=
  match d.qualBad p with
  | [] => (d.port p).pend = 0 → e.get F.PLK_PSTAT_STATE (portDie p) (p % 4) = 3 ∧
      e.get F.PLK_PSTAT_LANES (portDie p) (p % 4) = d.get F.PLK_PSTAT_LANES (portDie p) (p % 4) ∧ (e.port p).held = [] ∧ (e.port p).cred = (256, 256)
  | b :: _ => ((d.port p).pend = 0 → e.get F.PLK_PSTAT_QUALERR (portDie p) (p % 4) = 1) ∧
      if (d.port p).qretry = false then
        e.get F.PLK_PSTAT_STATE (portDie p) (p % 4) = 2 ∧ (e.port p).qretry = true ∧ (e.port p).qbad = 0 ∧
          e.get F.PLK_PSTAT_LANES (portDie p) (p % 4) = d.get F.PLK_PSTAT_LANES (portDie p) (p % 4)
      else if d.reserveFor p = true then
        d.portTrains e p ∧ e.get F.PLK_RESERVE_INUSE (portDie p) = 1 ∧ e.get F.PLK_RESERVE_LIDX (portDie p) = b % 4 ∧
          e.get F.PLK_PSTAT_RSV (portDie p) (p % 4) = 1
      else if popCount (laneSet (d.qualGood p)) 4 < d.get F.PLK_PCTL_MINL (portDie p) (p % 4) then (d.port p).pend = 0 → e.portIsDown p
      else (d.port p).pend = 0 → e.get F.PLK_PSTAT_STATE (portDie p) (p % 4) = 3 ∧
        e.get F.PLK_PSTAT_LANES (portDie p) (p % 4) = laneSet (d.qualGood p)

theorem Dev.qualEnd_ends (d : Dev) (p : Nat) :
    d.qualEnded (match d.qualBad p with | [] => (d.qualRead p).portUp p | b :: _ => d.qualTakes p b) p := by
  rw [Dev.qualEnded]
  cases d.qualBad p with
  | nil =>
    intro hpend
    have hkeep := d.qualRead_agree p
    obtain ⟨hst, hlanes, hheld, hcred⟩ := Dev.portUp_up ((congrArg PPort.pend (hkeep.port rfl p)).trans hpend)
    exact ⟨hst, hlanes.trans (hkeep.get F.PLK_PSTAT_LANES rfl rfl ..), hheld, hcred⟩
  | cons b _ =>
    by_cases hretry : (d.port p).qretry = false
    · obtain ⟨herr, hagain⟩ := Dev.qualTakes_again b hretry
      exact ⟨fun _ => herr, (if_pos hretry).mpr hagain⟩
    by_cases hres : d.reserveFor p = true
    · obtain ⟨herr, htakes⟩ := Dev.qualTakes_reserve b hretry hres
      exact ⟨fun _ => herr, (if_neg hretry).mpr ((if_pos hres).mpr htakes)⟩
    by_cases hshort : d.lanesShort p (d.qualGood p)
    · have hdown := Dev.qualTakes_down b hretry hres (hshort := hshort)
      exact ⟨fun hpend => (hdown hpend).1, (if_neg hretry).mpr ((if_neg hres).mpr ((if_pos hshort).mpr fun hpend => (hdown hpend).2))⟩
    · have hgood := Dev.qualTakes_up b hretry hres (hshort := hshort)
      exact ⟨fun hpend => (hgood hpend).1, (if_neg hretry).mpr ((if_neg hres).mpr ((if_neg hshort).mpr fun hpend => (hgood hpend).2))⟩

/-! Frames sent again (R333) -/

/-- One held frame sent again. -/
def Dev.frameAgain (d : Dev) (p : Nat) (f : LFrame) : Dev :=
  (d.portWire p ((d.port p).frame f)).count64 F.PLK_NFRM_LO_COUNT F.PLK_NFRM_HI_COUNT 1 (portDie p) (p % 4)

section
variable (d : Dev) (p : Nat)

theorem Dev.portWire_port (bs : Bytes) :
    (d.portWire p bs).port p = { d.port p with turn := d.nextIdx p + 1, wire := (d.port p).wire ++ [(d.nextIdx p, bs)] } := by
  rw [Dev.portWire, Dev.modPort_port_self]

theorem Dev.frameAgain_port (f : LFrame) :
    (d.frameAgain p f).port p = { d.port p with turn := d.nextIdx p + 1, wire := (d.port p).wire ++ [(d.nextIdx p, (d.port p).frame f)] } :=
  d.portWire_port p _

theorem Dev.frameAgain_linksKept (f : LFrame) : d.LinksKept (d.frameAgain p f) := by
  rw [Dev.frameAgain, Dev.count64]
  exact (d.portWire_linksKept p _).trans ((Dev.put_linksKept ..).trans (Dev.put_linksKept ..))

/-- Frames sent again fill the wire, and change nothing else of the port but its turn. -/
theorem Dev.foldl_frameAgain (fs : List LFrame) :
    let e := fs.foldl (fun d' f => d'.frameAgain p f) d
    e.port p = { d.port p with turn := (e.port p).turn, wire := (e.port p).wire } ∧ (e.port p).wire.length = (d.port p).wire.length + fs.length := by
  induction fs generalizing d with
  | nil => exact ⟨rfl, rfl⟩
  | cons f fs ih =>
    obtain ⟨hport, hlen⟩ := ih (d.frameAgain p f)
    have hone := d.frameAgain_port p f
    refine ⟨hport.trans ?_, hlen.trans ?_⟩
    · rw [hone]
      rfl
    · rw [hone, List.length_append, List.length_singleton, List.length_cons]
      omega

theorem Dev.portResend_eq : d.portResend p =
    ((d.port p).held.foldl (fun d' f => d'.frameAgain p f) d).modPort p fun x => { x with ackAt := d.tick (portDie p) } := rfl

theorem Dev.portResend_agree :
    Agree 0x200000000000000000000000000000000000000000000600000000000000000000000000000000000000000000000000000000000 d (d.portResend p) :=
  Dev.portResend_kp _ _ (Within.refl _) (Agree.refl _ _)

theorem Dev.portResend_linksKept : d.LinksKept (d.portResend p) := by
  rw [Dev.portResend_eq]
  exact (Dev.LinksKept.foldl (fun d' f => d'.frameAgain_linksKept p f) _ _).trans (Dev.modPort_linksKept _ _ _ (by intro _; rfl))

theorem Dev.portResend_port :
    let e := d.portResend p
    (e.port p).held = (d.port p).held ∧ (e.port p).replays = (d.port p).replays ∧ (e.port p).ackAt = d.tick (portDie p) ∧
      (e.port p).wire.length = (d.port p).wire.length + (d.port p).held.length := by
  obtain ⟨hport, hlen⟩ := d.foldl_frameAgain p (d.port p).held
  dsimp only
  rw [Dev.portResend_eq, Dev.modPort_port_self]
  have hheld := congrArg PPort.held hport
  have hreplays := congrArg PPort.replays hport
  exact ⟨hheld, hreplays, rfl, hlen⟩

theorem Dev.portRun_linksKept : d.LinksKept (d.portRun p) := d.portPump_linksKept p _

theorem Dev.portRun_agree :
    Agree 0x200000000000000000000000000000000000000000000600000000000000000000000000000000000000000000000000000000000 d (d.portRun p) :=
  Dev.portRun_kp _ _ (Within.refl _) (Agree.refl _ _)

end

/-! The end of a RETRAIN (R336, R337) -/

/-- The active lanes of a port have settled. -/
def Dev.retrainOver (d : Dev) (p : Nat) : Prop :=
  d.get F.PLK_PSTAT_STATE (portDie p) (p % 4) = 4 ∧ ∀ i ∈ d.portIdx p, d.laneSettled (portDie p) (d.laneOf p i) = true

/-- The package with a port that is back in UP and has sent its frames again. -/
def Dev.portBack (d : Dev) (p : Nat) : Dev :=
  let d2 := d.setPortSt p plkUp
  (if (d2.port p).held.isEmpty then d2 else (d2.countSat F.PLK_NREPLAY_COUNT 1 (portDie p) (p % 4)).portResend p).portRun p

section
variable (d : Dev) (p : Nat)

theorem Dev.identCheck_agree (is : List Nat) :
    Agree 0x80000000000000245000000000000000000000000000004000000000000000000000000000000000000000000000000000000000 d (d.identCheck p is) :=
  Dev.identCheck_kp _ _ _ (Within.refl _) (Agree.refl _ _)

theorem Dev.identCheck_lanes (is : List Nat) : (d.identCheck p is).get F.PLK_PSTAT_LANES (portDie p) (p % 4) = laneSet (d.identPass p is) := by
  have hput (d1 : Dev) : (d1.put F.PLK_PSTAT_LANES (laneSet (d.identPass p is)) (portDie p) (p % 4)).get F.PLK_PSTAT_LANES (portDie p) (p % 4) =
      laneSet (d.identPass p is) := Dev.get_put_self _ _ _ _ _ _ (by decide) (by decide) (laneSet_lt _)
  rw [Dev.identCheck]
  split
  · refine ((Dev.portRec_kp _ p 9 (Within.refl _) (Agree.refl _ _)).get F.PLK_PSTAT_LANES rfl rfl ..).trans ?_
    rw [Dev.get_put_bits _ _ (by decide) (by decide) (by decide)]
    exact hput _
  · exact hput _

theorem Dev.identCheck_short (is : List Nat) : (d.identCheck p is).portShort p = true ↔ d.lanesShort p (d.identPass p is) := by
  rw [Dev.portShort, decide_eq_true_eq, Dev.portMask, Dev.identCheck_lanes, (d.identCheck_agree p is).get F.PLK_PCTL_MINL rfl rfl]
  rfl

theorem Dev.portBack_linksKept : d.LinksKept (d.portBack p) := by
  rw [Dev.portBack]
  refine Dev.LinksKept.trans ?_ (Dev.portRun_linksKept ..)
  refine (d.setPortSt_linksKept p plkUp).trans ?_
  split
  · exact .refl _
  · exact (Dev.put_linksKept _ _ _ _ _ _).trans (Dev.portResend_linksKept ..)

theorem Dev.portBack_back :
    let e := d.portBack p
    e.get F.PLK_PSTAT_STATE (portDie p) (p % 4) = 3 ∧ e.get F.PLK_PSTAT_LANES (portDie p) (p % 4) = d.get F.PLK_PSTAT_LANES (portDie p) (p % 4) ∧
      e.get F.PLK_NREPLAY_COUNT (portDie p) (p % 4) = satAdd 32 (d.get F.PLK_NREPLAY_COUNT (portDie p) (p % 4)) (if (d.port p).held = [] then 0 else 1) := by
  have hst := d.setPortSt_state p (st := 3) (by decide)
  have hlanes := d.setPortSt_lanes p 3
  have hcount : (d.setPortSt p 3).get F.PLK_NREPLAY_COUNT (portDie p) (p % 4) = d.get F.PLK_NREPLAY_COUNT (portDie p) (p % 4) :=
    Dev.get_put_reg _ _ (by decide) (by decide) (by decide)
  have hheld := congrArg PPort.held (d.setPortSt_port p 3)
  have hkeep := Dev.portRun_agree
    (if ((d.setPortSt p 3).port p).held.isEmpty = true then d.setPortSt p 3
      else ((d.setPortSt p 3).countSat F.PLK_NREPLAY_COUNT 1 (portDie p) (p % 4)).portResend p) p
  have hback : d.portBack p = (if ((d.setPortSt p 3).port p).held.isEmpty = true then d.setPortSt p 3
      else ((d.setPortSt p 3).countSat F.PLK_NREPLAY_COUNT 1 (portDie p) (p % 4)).portResend p).portRun p := rfl
  dsimp only
  rw [hback, hkeep.get F.PLK_PSTAT_STATE rfl rfl, hkeep.get F.PLK_PSTAT_LANES rfl rfl, hkeep.get F.PLK_NREPLAY_COUNT rfl rfl, hheld]
  by_cases hempty : (d.port p).held = []
  · have hlt : d.get F.PLK_NREPLAY_COUNT (portDie p) (p % 4) < 2 ^ 32 := Dev.get_lt ..
    rw [if_pos hempty, if_pos (by rw [hempty]; rfl)]
    refine ⟨hst, hlanes, hcount.trans ?_⟩
    rw [satAdd]
    omega
  · have hresend := Dev.portResend_agree ((d.setPortSt p 3).countSat F.PLK_NREPLAY_COUNT 1 (portDie p) (p % 4)) p
    rw [if_neg hempty, if_neg (by simpa using hempty), hresend.get F.PLK_PSTAT_STATE rfl rfl, hresend.get F.PLK_PSTAT_LANES rfl rfl,
      hresend.get F.PLK_NREPLAY_COUNT rfl rfl]
    refine ⟨(Dev.get_put_reg _ _ (by decide) (by decide) (by decide)).trans hst, (Dev.get_put_reg _ _ (by decide) (by decide) (by decide)).trans hlanes, ?_⟩
    rw [← hcount]
    exact Dev.get_countSat _ _ _ _ _ _ (by decide) (by decide)

variable {d p}

theorem Dev.retrainDone_idle (h : ¬ d.retrainOver p) : d.retrainDone p = d :=
  if_neg fun hc => h ⟨hc.2.1, fun i hi => List.all_eq_true.mp hc.2.2 i hi⟩

theorem Dev.retrainDone_over (hhere : d.portHere p = true) (h : d.retrainOver p) : d.retrainDone p =
    if (d.identCheck p (d.portIdx p)).portShort p = true then (d.identCheck p (d.portIdx p)).portFail p
    else ((d.identCheck p (d.portIdx p)).portBack p).portEnded p :=
  if_pos ⟨hhere, h.1, List.all_eq_true.mpr h.2⟩

theorem Dev.retrainDone_down (hhere : d.portHere p = true) (h : d.retrainOver p) (hshort : d.lanesShort p (d.identPass p (d.portIdx p)))
    (hpend : (d.port p).pend = 0) : (d.retrainDone p).portIsDown p := by
  have hkept : ((d.identCheck p (d.portIdx p)).port p).pend = 0 := (congrArg PPort.pend ((d.identCheck_agree p _).port rfl p)).trans hpend
  rw [Dev.retrainDone_over hhere h, if_pos ((d.identCheck_short p _).mpr hshort), Dev.portFail_eq hkept]
  exact Dev.portDown_down ..

theorem Dev.retrainDone_up (hhere : d.portHere p = true) (h : d.retrainOver p) (hshort : ¬ d.lanesShort p (d.identPass p (d.portIdx p)))
    (hpend : (d.port p).pend = 0) :
    let e := d.retrainDone p
    e.get F.PLK_PSTAT_STATE (portDie p) (p % 4) = 3 ∧ e.get F.PLK_PSTAT_LANES (portDie p) (p % 4) = laneSet (d.identPass p (d.portIdx p)) ∧
      e.get F.PLK_NREPLAY_COUNT (portDie p) (p % 4) = satAdd 32 (d.get F.PLK_NREPLAY_COUNT (portDie p) (p % 4)) (if (d.port p).held = [] then 0 else 1) := by
  have hcheck := d.identCheck_agree p (d.portIdx p)
  have hkept : (((d.identCheck p (d.portIdx p)).portBack p).port p).pend = 0 :=
    (((d.identCheck p (d.portIdx p)).portBack_linksKept p).pend p).trans ((congrArg PPort.pend (hcheck.port rfl p)).trans hpend)
  obtain ⟨hst, hlanes, hcount⟩ := (d.identCheck p (d.portIdx p)).portBack_back p
  dsimp only
  rw [Dev.retrainDone_over hhere h, if_neg (mt (d.identCheck_short p _).mp hshort), Dev.portEnded_none hkept]
  refine ⟨hst, hlanes.trans (d.identCheck_lanes p _), hcount.trans ?_⟩
  rw [hcheck.get F.PLK_NREPLAY_COUNT rfl rfl, hcheck.port rfl]

end

/-! Replay and retry storm (R333, R334) -/

/-- The frames that a port holds have not been acknowledged for ATMO. -/
def Dev.ackLate (d : Dev) (p : Nat) : Prop :=
  d.get F.PLK_PSTAT_STATE (portDie p) (p % 4) = 3 ∧ (d.port p).held ≠ [] ∧
    d.late (portDie p) (d.port p).ackAt (d.get F.PLK_RCTL_ATMO (portDie p) (p % 4)) = true

/-- Replays of a port in the last millisecond, with one now. -/
def Dev.replaysNow (d : Dev) (p : Nat) : List Nat :=
  (d.tick (portDie p) :: (d.port p).replays).filter fun t => d.tick (portDie p) < t + 1000

/-- A replay is a storm: too many NAKs of one ACKSEQ, or too many replays. -/
def Dev.replayStorms (d : Dev) (p : Nat) : Prop :=
  d.get F.PLK_RCTL_RLIM (portDie p) (p % 4) ≤ (d.port p).nakRun ∨ d.get F.PLK_RCTL_RMAX (portDie p) (p % 4) < (d.replaysNow p).length

/-- A storm of the port is less than a second old. -/
def Dev.stormedLately (d : Dev) (p : Nat) : Prop := ∃ t, (d.port p).storm = some t ∧ d.tick (portDie p) ≤ t + 1000000

/-- The package with a replay counted. -/
def Dev.replayCounted (d : Dev) (p : Nat) : Dev :=
  (d.countSat F.PLK_NREPLAY_COUNT 1 (portDie p) (p % 4)).modPort p fun x => { x with replays := d.replaysNow p }

/-- The package with a storm noted. -/
def Dev.stormNoted (d : Dev) (p : Nat) : Dev := (d.put F.PLK_PSTAT_STORM 1 (portDie p) (p % 4)).portRec p 2

/-- The package with a port whose lanes train again and which keeps what it holds. -/
def Dev.stormRetrain (d : Dev) (p now : Nat) : Dev := Dev.portStorm.retrain p d now

section
variable (d : Dev) (p : Nat)

theorem Dev.replayCounted_port : (d.replayCounted p).port p = { d.port p with replays := d.replaysNow p } := by
  rw [Dev.replayCounted, Dev.modPort_port_self]
  rfl

theorem Dev.replayCounted_agree : Agree 0x200000000000000000000000000000000000000000000080000000000000000000000000000000000000000000000000000000000 d (d.replayCounted p) :=
  Dev.modPort_kp _ _ _ ((Within.refl _).up (by decide)) (Dev.put_kp _ _ _ _ _ _ rfl ((Within.refl _).up (by decide)) (Agree.refl _ _))

theorem Dev.replayCounted_counts :
    (d.replayCounted p).get F.PLK_NREPLAY_COUNT (portDie p) (p % 4) = satAdd 32 (d.get F.PLK_NREPLAY_COUNT (portDie p) (p % 4)) 1 :=
  Dev.get_countSat _ _ _ _ _ _ (by decide) (by decide)

theorem Dev.portReplay_eq [Decidable (d.replayStorms p)] : d.portReplay p =
    if d.replayStorms p then (d.replayCounted p).portStorm p else (d.replayCounted p).portResend p := by
  have hport := d.replayCounted_port p
  have hkeep := d.replayCounted_agree p
  have hrun : d.portReplay p = if (d.replayCounted p).get F.PLK_RCTL_RLIM (portDie p) (p % 4) ≤ ((d.replayCounted p).port p).nakRun ∨
      (d.replayCounted p).get F.PLK_RCTL_RMAX (portDie p) (p % 4) < ((d.replayCounted p).port p).replays.length then (d.replayCounted p).portStorm p
      else (d.replayCounted p).portResend p := rfl
  rw [hrun, hport, hkeep.get F.PLK_RCTL_RLIM rfl rfl, hkeep.get F.PLK_RCTL_RMAX rfl rfl]
  exact if_congr Iff.rfl rfl rfl

theorem Dev.stormNoted_agree : Agree 0x80000000000000245000000000000000000000000000004000000000000000000000000000000000000000000000000000000000 d (d.stormNoted p) :=
  Dev.portRec_kp _ _ _ ((Within.refl _).up (by decide)) (Dev.put_kp _ _ _ _ _ _ rfl ((Within.refl _).up (by decide)) (Agree.refl _ _))

theorem Dev.stormNoted_notes : (d.stormNoted p).get F.PLK_PSTAT_STORM (portDie p) (p % 4) = 1 :=
  ((Dev.portRec_kp _ p 2 (Within.refl _) (Agree.refl _ _)).get F.PLK_PSTAT_STORM rfl rfl ..).trans
    (Dev.get_put_self _ _ _ _ _ _ (by decide) (by decide) (by decide))

theorem Dev.stormRetrain_agree (now : Nat) :
    Agree 0x100000000000000000000000000000000000000000000000004008000000000000000000000000000000000000000000000000000
      ((d.setPortSt p plkRetrain).modPort p fun x => { x with storm := some now, nakSeq := none, nakRun := 0, replays := [] }) (d.stormRetrain p now) := by
  rw [Dev.stormRetrain, Dev.portStorm.retrain]
  exact Agree.foldl _ _ _ (fun _ _ h => Dev.laneFull_kp _ _ _ _ (Within.refl _) h) (Agree.refl _ _)

theorem Dev.stormRetrain_retrains (now : Nat) :
    let e := d.stormRetrain p now
    e.get F.PLK_PSTAT_STATE (portDie p) (p % 4) = 4 ∧ e.get F.PLK_PSTAT_STORM (portDie p) (p % 4) = d.get F.PLK_PSTAT_STORM (portDie p) (p % 4) ∧
      e.get F.PLK_NREPLAY_COUNT (portDie p) (p % 4) = d.get F.PLK_NREPLAY_COUNT (portDie p) (p % 4) ∧
      (e.port p).storm = some now ∧ (e.port p).held = (d.port p).held := by
  have hkeep := d.stormRetrain_agree p now
  dsimp only
  rw [hkeep.get F.PLK_PSTAT_STATE rfl rfl, hkeep.get F.PLK_PSTAT_STORM rfl rfl, hkeep.get F.PLK_NREPLAY_COUNT rfl rfl, hkeep.port rfl,
    Dev.modPort_port_self, Dev.setPortSt_port]
  exact ⟨d.setPortSt_state p (st := 4) (by decide), d.setPortSt_pstat p (by decide) 4,
    Dev.get_put_reg _ _ (by decide) (by decide) (by decide), rfl, rfl⟩

/-- A second storm within a second takes the port down. -/
theorem Dev.portStorm_again (h : d.stormedLately p) : d.portStorm p = (d.stormNoted p).portDown p := by
  obtain ⟨t, hstorm, hlate⟩ := h
  rw [Dev.portStorm, hstorm]
  exact if_pos hlate

/-- Another storm takes the port into RETRAIN. -/
theorem Dev.portStorm_first (h : ¬ d.stormedLately p) : d.portStorm p = (d.stormNoted p).stormRetrain p (d.tick (portDie p)) := by
  rw [Dev.portStorm]
  cases hstorm : (d.port p).storm with
  | none => rfl
  | some t => exact if_neg fun hlate => h ⟨t, hstorm, hlate⟩

variable {d p}

theorem Dev.ackTimeout_idle (h : ¬ d.ackLate p) : d.ackTimeout p = d := by
  refine if_neg fun hc => h ⟨hc.2.1, ?_, hc.2.2.2⟩
  have hheld := hc.2.2.1
  simpa using hheld

theorem Dev.ackTimeout_replays (hhere : d.portHere p = true) (h : d.ackLate p) : d.ackTimeout p = d.portReplay p :=
  if_pos ⟨hhere, h.1, by simpa using h.2.1, h.2.2⟩

end

/-- What is said of a replay. -/
def Dev.portReplayed (d e : Dev) (p : Nat) : Prop :=
  e.get F.PLK_NREPLAY_COUNT (portDie p) (p % 4) = satAdd 32 (d.get F.PLK_NREPLAY_COUNT (portDie p) (p % 4)) 1 ∧
    ((d.replayStorms p → e.get F.PLK_PSTAT_STORM (portDie p) (p % 4) = 1 ∧
        (d.stormedLately p → e.portIsDown p) ∧
        (¬ d.stormedLately p →
          e.get F.PLK_PSTAT_STATE (portDie p) (p % 4) = 4 ∧ (e.port p).storm = some (d.tick (portDie p)) ∧ (e.port p).held = (d.port p).held)) ∧
      (¬ d.replayStorms p → e.get F.PLK_PSTAT_STATE (portDie p) (p % 4) = d.get F.PLK_PSTAT_STATE (portDie p) (p % 4) ∧
        (e.port p).held = (d.port p).held ∧ (e.port p).replays = d.replaysNow p ∧ (e.port p).ackAt = d.tick (portDie p) ∧
        (e.port p).wire.length = (d.port p).wire.length + (d.port p).held.length))

section
variable (d : Dev) (p : Nat)

theorem Dev.portReplay_resends (h : ¬ d.replayStorms p) : d.portReplayed (d.portReplay p) p := by
  have hrun : d.portReplay p = (d.replayCounted p).portResend p := by
    classical rw [Dev.portReplay_eq, if_neg h]
  have hresend := (d.replayCounted p).portResend_agree p
  have hcounted := d.replayCounted_agree p
  have hport := d.replayCounted_port p
  obtain ⟨hheld, hreplays, hack, hlen⟩ := (d.replayCounted p).portResend_port p
  rw [hrun]
  refine ⟨(hresend.get F.PLK_NREPLAY_COUNT rfl rfl ..).trans (d.replayCounted_counts p), fun hs => absurd hs h, fun _ => ?_⟩
  rw [hheld, hreplays, hack, hlen, hport]
  exact ⟨(hresend.get F.PLK_PSTAT_STATE rfl rfl ..).trans (hcounted.get F.PLK_PSTAT_STATE rfl rfl ..), rfl, rfl, rfl, rfl⟩

theorem Dev.portReplay_storms (h : d.replayStorms p) : d.portReplayed (d.portReplay p) p := by
  have hrun : d.portReplay p = (d.replayCounted p).portStorm p := by
    classical rw [Dev.portReplay_eq, if_pos h]
  have hport := d.replayCounted_port p
  have hnoted := (d.replayCounted p).stormNoted_agree p
  have hsets := (d.replayCounted p).stormNoted_notes p
  have hcount := (hnoted.get F.PLK_NREPLAY_COUNT rfl rfl (portDie p) (p % 4) 0).trans (d.replayCounted_counts p)
  have hlately : (d.replayCounted p).stormedLately p ↔ d.stormedLately p := by
    rw [Dev.stormedLately, hport]
    exact Iff.rfl
  rw [hrun]
  by_cases hagain : d.stormedLately p
  · rw [Dev.portStorm_again _ _ (hlately.mpr hagain)]
    have hdown := ((d.replayCounted p).stormNoted p).portDown_agree p
    refine ⟨(hdown.get F.PLK_NREPLAY_COUNT rfl rfl ..).trans ?_, fun _ => ⟨?_, fun _ => Dev.portDown_down .., fun hno => absurd hagain hno⟩, fun hs => absurd h hs⟩
    · rw [Dev.get_put_reg _ _ (by decide) (by decide) (by decide)]
      exact (Dev.get_put_reg _ _ (by decide) (by decide) (by decide)).trans hcount
    · exact (Dev.portDown_pstat _ _ rfl (by decide)).trans hsets
  · rw [Dev.portStorm_first _ _ (mt hlately.mp hagain)]
    obtain ⟨hst, hbit, hreplay, hnow, hkept⟩ := ((d.replayCounted p).stormNoted p).stormRetrain_retrains p (d.tick (portDie p))
    refine ⟨hreplay.trans hcount, fun _ => ⟨hbit.trans hsets, fun hyes => absurd hyes hagain, fun _ => ⟨hst, hnow, hkept.trans ?_⟩⟩, fun hs => absurd h hs⟩
    rw [hnoted.port rfl, hport]

theorem Dev.portReplay_replayed : d.portReplayed (d.portReplay p) p := by
  by_cases h : d.replayStorms p
  · exact d.portReplay_storms p h
  · exact d.portReplay_resends p h

end

/-! Link blocks: the NAK of a lost frame, its repetition, the acknowledgement (R333, R335) -/

/-- A link block of a port is due: something to acknowledge, or credit to return. -/
def Dev.ackOwed (d : Dev) (p : Nat) : Prop := 0 < (d.port p).owe ∨ 0 < (d.port p).due.1 ∨ 0 < (d.port p).due.2

section
variable (d : Dev) (p : Nat)

theorem Dev.nextIdx_told : (d.setPort p (d.port p).told).nextIdx p = d.nextIdx p := by
  rw [Dev.nextIdx, Dev.setPort_port_self]
  rfl

/-- A link block goes onto the wire, and tells all there is to tell. -/
theorem Dev.portLink_port (nak : Bool) : (d.portLink p nak).port p = { (d.port p).told with
    turn := d.nextIdx p + 1, wire := (d.port p).wire ++ [(d.nextIdx p, d.linkBlk p (d.nextIdx p) nak false)] } := by
  rw [Dev.portLink, Dev.portWire_port, Dev.nextIdx_told, Dev.setPort_port_self]
  rfl

theorem Dev.portNak_naks :
    let e := d.portNak p
    (e.port p).early = [] ∧ (e.port p).nak = true ∧ (e.port p).rx = (d.port p).rx ∧
      (e.port p).wire.length = (d.port p).wire.length + if (d.port p).nak then 0 else 1 := by
  cases hnak : (d.port p).nak with
  | true =>
    have hrun : d.portNak p = d.setPort p { d.port p with early := [] } := if_pos hnak
    dsimp only
    rw [hrun, Dev.setPort_port_self]
    exact ⟨rfl, hnak, rfl, rfl⟩
  | false =>
    have hrun : d.portNak p = ((d.setPort p { d.port p with nak := true, early := [] }).portUndoze p).portLink p true := if_neg (by simp [hnak])
    have hawake := (Dev.portUndoze_kp (d.setPort p { d.port p with nak := true, early := [] }) p (Within.refl _) (Agree.refl _ _)).port rfl p
    dsimp only
    rw [hrun, Dev.portLink_port, hawake, Dev.setPort_port_self]
    exact ⟨rfl, rfl, rfl, List.length_append⟩

variable {d p}

theorem Dev.frameLoss_eq (hhere : d.portHere p = true) [Decidable (d.get F.PLK_PSTAT_STATE (portDie p) (p % 4) = 3 ∧ (d.port p).early ≠ [])] : d.frameLoss p =
    if d.get F.PLK_PSTAT_STATE (portDie p) (p % 4) = 3 ∧ (d.port p).early ≠ [] then d.portNak p else d := by
  refine if_congr ?_ rfl rfl
  simp [hhere, Dev.portSt, plkUp]

theorem Dev.nakRepeat_eq (hhere : d.portHere p = true) : d.nakRepeat p =
    if d.get F.PLK_PSTAT_STATE (portDie p) (p % 4) = 3 ∧ (d.port p).nak = true then d.portLink p true else d := by
  refine if_congr ?_ rfl rfl
  simp [hhere, Dev.portSt, plkUp]

theorem Dev.ackDue_eq (hhere : d.portHere p = true) [Decidable (d.get F.PLK_PSTAT_STATE (portDie p) (p % 4) = 3 ∧ d.ackOwed p)] : d.ackDue p =
    if d.get F.PLK_PSTAT_STATE (portDie p) (p % 4) = 3 ∧ d.ackOwed p then d.portLink p false else d := by
  refine if_congr ?_ rfl rfl
  simp [hhere, Dev.portSt, plkUp, Dev.ackOwed, or_assoc]

end

/-! Doze and silence (R337, R344) -/

/-- A port in UP with nothing to send, whose lanes may doze. -/
def Dev.portRests (d : Dev) (p : Nat) : Prop :=
  d.get F.PLK_PSTAT_STATE (portDie p) (p % 4) = 3 ∧ d.get F.PLK_DOZE_IDLE (portDie p) (p % 4) ≠ 0 ∧ (d.port p).held = [] ∧ (d.port p).owe = 0 ∧
    (d.port p).due = (0, 0) ∧ (d.port p).txs = ([], [])

/-- A port in UP that has received nothing on any active lane for 1 ms, though none of them dozes. -/
def Dev.portSilent (d : Dev) (p : Nat) : Prop :=
  d.get F.PLK_PSTAT_STATE (portDie p) (p % 4) = 3 ∧ ∀ i ∈ d.portIdx p, d.get F.SER_LSTAT_RXDZ (portDie p) (d.laneOf p i) = 0 ∧
    d.late (portDie p) (d.lane (portDie p) (d.laneOf p i)).seen 1000 = true

/-- The package with one lane of a port told to doze. -/
def Dev.laneDozed (d : Dev) (p i : Nat) : Dev := d.modLane (portDie p) (d.laneOf p i) fun y => { y with doze := true }

section
variable {d : Dev} {p : Nat}

theorem Dev.laneDozed_doze (i l : Nat) (h : d.laneOf p i = l ∨ (d.lane (portDie p) l).doze = true) : ((d.laneDozed p i).lane (portDie p) l).doze = true := by
  rw [Dev.laneDozed, Dev.modLane_lane]
  by_cases hl : d.laneOf p i = l
  · rw [if_pos (congrArg (Prod.mk _) hl.symm)]
  · rw [if_neg fun hc => hl (congrArg Prod.snd hc).symm]
    exact h.resolve_left hl

theorem Dev.foldl_laneDozed_doze (is : List Nat) {i : Nat} (h : i ∈ is ∨ (d.lane (portDie p) (d.laneOf p i)).doze = true) :
    ((is.foldl (fun d' i => d'.laneDozed p i) d).lane (portDie p) (d.laneOf p i)).doze = true := by
  induction is generalizing d with
  | nil => exact h.resolve_left List.not_mem_nil
  | cons j is ih =>
    refine ih (d := d.laneDozed p j) ?_
    rcases h with hm | hdoze
    · rcases List.mem_cons.mp hm with rfl | hm
      · exact .inr (Dev.laneDozed_doze _ _ (.inl rfl))
      · exact .inl hm
    · exact .inr (Dev.laneDozed_doze _ _ (.inr hdoze))

theorem Dev.portDoze_eq (hhere : d.portHere p = true) [Decidable (d.portRests p)] : d.portDoze p =
    if d.portRests p then (d.portIdx p).foldl (fun d' i => d'.laneDozed p i) d else d := by
  refine if_congr ?_ rfl rfl
  simp [hhere, Dev.portSt, plkUp, Dev.portRests, Prod.ext_iff, and_assoc]

/-- The active lanes of a port doze, and its record and status are the same. -/
theorem Dev.foldl_laneDozed_rests :
    let e := (d.portIdx p).foldl (fun d' i => d'.laneDozed p i) d
    d.portSame e p ∧ ∀ i ∈ d.portIdx p, (e.lane (portDie p) (d.laneOf p i)).doze = true := by
  have hkeep : Agree 0x100000000000000000000000000000000000000000000000000000000000000000000000000000000000000000000000000000000 d
      ((d.portIdx p).foldl (fun d' i => d'.laneDozed p i) d) :=
    Agree.foldl _ _ _ (fun _ _ h => Dev.modLane_kp _ _ _ _ (Within.refl _) h) (Agree.refl _ _)
  exact ⟨⟨hkeep.port rfl p, hkeep.raw _ rfl (by dsimp only; decide)⟩, fun i hi => Dev.foldl_laneDozed_doze _ (.inl hi)⟩

theorem Dev.portSilence_eq (hhere : d.portHere p = true) [Decidable (d.portSilent p)] : d.portSilence p = if d.portSilent p then d.portDown p else d := by
  refine if_congr ?_ rfl rfl
  simp [hhere, Dev.portSt, plkUp, Dev.portSilent, Dev.on?]

end

/-! SLEEP (R413) -/

/-- The package with one lane of a port told to sleep. -/
def Dev.laneLulled (d : Dev) (p i : Nat) : Dev := d.laneCmd (portDie p) (d.laneOf p i) 3

/-- The package with the active lanes of a port told to sleep. -/
def Dev.portLulled (d : Dev) (p : Nat) : Dev := (d.portIdx p).foldl (fun d' i => d'.laneLulled p i) d

/-- A port that stands in the way of a step from P1 to P2, and waits no longer. -/
def Dev.portWaits (d : Dev) (p : Nat) : Prop :=
  d.pwBusy (portDie p) = true ∧ d.pwCur (portDie p) = 1 ∧ d.pwTgt (portDie p) = 2 ∧ d.get F.PLK_PSTAT_STATE (portDie p) (p % 4) = 3 ∧
    ((d.port p).held = [] ∨ d.late (portDie p) (d.pws? (portDie p)).begun 100 = true)

section
variable (d : Dev) (p : Nat)

theorem Dev.portIdx_lt {i : Nat} (h : i ∈ d.portIdx p) : i < 4 := List.mem_range.mp (List.mem_filter.mp h).1

theorem Dev.laneOf_lt {i : Nat} (h : i < 4) : d.laneOf p i < 17 := by
  rw [Dev.laneOf]
  split
  · decide
  · omega

/-- A sleeping lane is in SLEEP; the others stay as they were. -/
theorem Dev.laneCmd_sleep_state (die l l' : Nat) (hl : l < 17) : (d.laneCmd die l 3).get F.SER_LSTAT_STATE die l' =
    if l' = l ∧ d.get F.SER_LSTAT_STATE die l = 5 then 6 else d.get F.SER_LSTAT_STATE die l' := by
  by_cases hup : d.get F.SER_LSTAT_STATE die l = 5
  · by_cases h : l' = l
    · rw [if_pos ⟨h, hup⟩, h]
      exact (Dev.laneCmd_sleep ⟨hup, hl⟩).1
    · have heth : ethLane l = false := by simp [ethLane]; omega
      have hrun : d.laneCmd die l 3 = (d.laneGoodnight die l).laneSleepNow die l := if_pos ⟨hup, heth⟩
      have hput (d' : Dev) (f : Fld) (hf : f.lo ≤ f.hi) (v : Nat) : (d'.put f v die l).get F.SER_LSTAT_STATE die l' = d'.get F.SER_LSTAT_STATE die l' :=
        Dev.get_put_ne _ _ _ _ _ _ _ _ _ _ (by decide) hf (.inr (.inr (.inl h)))
      rw [if_neg fun hc => h hc.1, hrun, Dev.laneSleepNow, Dev.modLane_read_get, Dev.setLaneSt, Dev.modLane_read_get, hput _ _ (by decide), Dev.laneAwake,
        hput _ _ (by decide), hput _ _ (by decide)]
      exact (d.laneGoodnight_agree die l).get F.SER_LSTAT_STATE rfl rfl ..
  · have hrun : d.laneCmd die l 3 = d := if_neg fun hc => hup hc.1
    rw [hrun, if_neg fun hc => hup hc.2]

theorem Dev.laneLulled_agree (i : Nat) :
    Agree 0x100000000000000000000000000000000000000000000000000008000000000000000000000000000000000000000000000000000 d (d.laneLulled p i) := by
  rw [Dev.laneLulled, Dev.laneCmd_eq]
  exact Agree.ite (Dev.laneSleepNow_kp _ _ _ (Within.refl _) ((d.laneGoodnight_agree _ _).up (by decide))) (Agree.refl _ _)

theorem Dev.portLulled_agree :
    Agree 0x100000000000000000000000000000000000000000000000000008000000000000000000000000000000000000000000000000000 d (d.portLulled p) :=
  Agree.foldl _ _ _ (fun d' i h => h.then (d'.laneLulled_agree p i)) (Agree.refl _ _)

variable {d p}

theorem Dev.laneLulled_state {j : Nat} (hj : j < 4) (l : Nat) : (d.laneLulled p j).get F.SER_LSTAT_STATE (portDie p) l =
    if l = d.laneOf p j ∧ d.get F.SER_LSTAT_STATE (portDie p) (d.laneOf p j) = 5 then 6 else d.get F.SER_LSTAT_STATE (portDie p) l :=
  d.laneCmd_sleep_state (portDie p) _ l (d.laneOf_lt p hj)

/-- An active lane in UP or SLEEP is in SLEEP when it has been told. -/
theorem Dev.foldl_laneLulled_sleeps (is : List Nat) (his : ∀ j ∈ is, j < 4) {i : Nat}
    (h : i ∈ is ∧ d.get F.SER_LSTAT_STATE (portDie p) (d.laneOf p i) = 5 ∨ d.get F.SER_LSTAT_STATE (portDie p) (d.laneOf p i) = 6) :
    (is.foldl (fun d' i => d'.laneLulled p i) d).get F.SER_LSTAT_STATE (portDie p) (d.laneOf p i) = 6 := by
  induction is generalizing d with
  | nil => exact h.resolve_left fun hc => List.not_mem_nil hc.1
  | cons j is ih =>
    have hof : (d.laneLulled p j).laneOf p i = d.laneOf p i := (d.laneLulled_agree p j).laneOf rfl rfl p i
    have hone := Dev.laneLulled_state (d := d) (p := p) (his j List.mem_cons_self) (d.laneOf p i)
    rw [List.foldl_cons, ← hof]
    refine ih (fun k hk => his k (List.mem_cons_of_mem _ hk)) ?_
    rw [hof, hone]
    split
    next => exact .inr rfl
    next hno =>
      refine h.imp_left fun ⟨hm, hup⟩ => ⟨(List.mem_cons.mp hm).resolve_left fun hij => hno ?_, hup⟩
      rw [← hij]
      exact ⟨rfl, hup⟩

theorem Dev.portSleepTimeout_eq (hhere : d.portHere p = true) [Decidable (d.portWaits p)] : d.portSleepTimeout p =
    if d.portWaits p then (d.portLulled p).portSlept p else d := by
  have hrest (force : Bool) : d.portRest p force =
      if d.get F.PLK_PSTAT_STATE (portDie p) (p % 4) = 3 ∧ ((d.port p).held = [] ∨ force = true) then (d.portLulled p).portSlept p else d := by
    refine if_congr ?_ rfl rfl
    simp [hhere, Dev.portSt, plkUp]
  by_cases hstep : d.pwBusy (portDie p) = true ∧ d.pwCur (portDie p) = 1 ∧ d.pwTgt (portDie p) = 2
  · have hrun : d.portSleepTimeout p = d.portRest p (d.late (portDie p) (d.pws? (portDie p)).begun 100) := if_pos (by simpa [and_assoc] using hstep)
    rw [hrun, hrest]
    refine if_congr ?_ rfl rfl
    simp [Dev.portWaits, hstep]
  · have hrun : d.portSleepTimeout p = d := if_neg (by simpa [and_assoc] using hstep)
    rw [hrun, if_neg fun hc => hstep ⟨hc.1, hc.2.1, hc.2.2.1⟩]

/-- A port with all its active lanes in SLEEP is in RETRAIN; its lanes are as they were. -/
theorem Dev.portSlept_lanes (d : Dev) (p die l : Nat) : (d.portSlept p).get F.SER_LSTAT_STATE die l = d.get F.SER_LSTAT_STATE die l := by
  rw [Dev.portSlept]
  split
  · exact Dev.get_put_reg _ _ (by decide) (by decide) (by decide)
  · rfl

theorem Dev.portSlept_retrains (hst : d.get F.PLK_PSTAT_STATE (portDie p) (p % 4) = 3) (hne : d.portIdx p ≠ [])
    (hall : ∀ i ∈ d.portIdx p, d.get F.SER_LSTAT_STATE (portDie p) (d.laneOf p i) = 6) :
    (d.portSlept p).get F.PLK_PSTAT_STATE (portDie p) (p % 4) = 4 := by
  have hrun : d.portSlept p = d.setPortSt p plkRetrain := by
    refine if_pos ⟨hst, by simpa using hne, List.all_eq_true.mpr fun i hi => ?_⟩
    exact beq_iff_eq.mpr (hall i hi)
  rw [hrun]
  exact d.setPortSt_state p (st := 4) (by decide)

theorem Dev.portSlept_laneOf (i : Nat) : (d.portSlept p).laneOf p i = d.laneOf p i :=
  (Dev.portSlept_kp d p (Within.refl _) (Agree.refl _ _)).laneOf rfl rfl p i

theorem Dev.portLulled_sleeps (hst : d.get F.PLK_PSTAT_STATE (portDie p) (p % 4) = 3) :
    let e := (d.portLulled p).portSlept p
    (∀ i ∈ d.portIdx p, d.get F.SER_LSTAT_STATE (portDie p) (d.laneOf p i) = 5 → e.get F.SER_LSTAT_STATE (portDie p) (e.laneOf p i) = 6) ∧
      ((∀ i ∈ d.portIdx p, d.get F.SER_LSTAT_STATE (portDie p) (d.laneOf p i) = 5 ∨ d.get F.SER_LSTAT_STATE (portDie p) (d.laneOf p i) = 6) →
        d.portIdx p ≠ [] → e.get F.PLK_PSTAT_STATE (portDie p) (p % 4) = 4) := by
  have hkeep := d.portLulled_agree p
  have hof (i : Nat) : (d.portLulled p).laneOf p i = d.laneOf p i := hkeep.laneOf rfl rfl p i
  have hidx : (d.portLulled p).portIdx p = d.portIdx p := congrArg (bitsSet · 4) (hkeep.portMask rfl rfl p)
  have hsleeps (i : Nat) (hi : i ∈ d.portIdx p)
      (h : d.get F.SER_LSTAT_STATE (portDie p) (d.laneOf p i) = 5 ∨ d.get F.SER_LSTAT_STATE (portDie p) (d.laneOf p i) = 6) :
      (d.portLulled p).get F.SER_LSTAT_STATE (portDie p) (d.laneOf p i) = 6 :=
    Dev.foldl_laneLulled_sleeps _ (fun _ hj => d.portIdx_lt p hj) (h.imp_left fun h => ⟨hi, h⟩)
  refine ⟨fun i hi h => ?_, fun hall hne => ?_⟩
  · rw [Dev.portSlept_laneOf, Dev.portSlept_lanes, hof]
    exact hsleeps i hi (.inl h)
  · refine Dev.portSlept_retrains ((hkeep.get F.PLK_PSTAT_STATE rfl rfl ..).trans hst) (by rwa [hidx]) fun i hi => ?_
    rw [hidx] at hi
    rw [hof]
    exact hsleeps i hi (hall i hi)

end

/-! The settled obligation -/

/-- Settles O53: each event, by the state of the port that it meets. -/
theorem portSequence : Obligations.PortSequence := by
  intro p
  refine ⟨Effect.portTrain_of _ fun d _ hup => ?_, Effect.portHold_of _ fun d _ hup => ?_, Effect.portQualEnd_of _ fun d _ hup => ?_,
    Effect.portRetrainComplete_of _ fun d _ hup => ?_, Effect.ackTimeoutReplay_of _ fun d _ hup => ?_, Effect.frameLossTimeout_of _ fun d _ hup => ?_,
    Effect.frameNakRepeat_of _ fun d _ hup => ?_, Effect.ackDue_of _ fun d _ hup => ?_, Effect.portDozeRequest_of _ fun d _ hup => ?_,
    Effect.portSilence_of _ fun d _ hup => ?_, Effect.portSleepWaitTimeout_of _ fun d _ hup => ?_⟩ <;> have hhere := Place.ofPort_here hup
  · dsimp only
    split
    next hruns => exact Dev.portCmdWrite_held (.inl rfl) hhere hruns
    next hruns =>
      rw [Dev.portCmdWrite_acts (.inl rfl) hhere hruns]
      exact d.portCmd_train p
  · dsimp only
    split
    next hruns => exact Dev.portCmdWrite_held (.inr rfl) hhere hruns
    next hruns =>
      rw [Dev.portCmdWrite_acts (.inr rfl) hhere hruns]
      exact Dev.portDown_down ..
  · by_cases hover : d.qualOver p
    · refine (if_pos hover).mpr ?_
      rw [Dev.portQualEnd_over hhere hover]
      exact d.qualEnd_ends p
    · exact (if_neg hover).mpr (Dev.portQualEnd_idle hover)
  · by_cases hover : d.retrainOver p
    · refine (if_pos hover).mpr ?_
      by_cases hshort : d.lanesShort p (d.identPass p (d.portIdx p))
      · exact (if_pos hshort).mpr (Dev.retrainDone_down hhere hover hshort)
      · exact (if_neg hshort).mpr (Dev.retrainDone_up hhere hover hshort)
    · exact (if_neg hover).mpr (Dev.retrainDone_idle hover)
  · by_cases hlate : d.ackLate p
    · refine (if_pos hlate).mpr ?_
      rw [Dev.ackTimeout_replays hhere hlate]
      obtain ⟨hcount, hstorm, hresend⟩ := d.portReplay_replayed p
      refine ⟨hcount, ?_⟩
      by_cases hstorms : d.replayStorms p
      · obtain ⟨hbit, hdown, hretrain⟩ := hstorm hstorms
        refine (if_pos hstorms).mpr ⟨hbit, ?_⟩
        split
        next hlately => exact hdown hlately
        next hlately => exact hretrain hlately
      · obtain ⟨hst, hrest⟩ := hresend hstorms
        exact (if_neg hstorms).mpr ⟨hst.trans hlate.1, hrest⟩
    · exact (if_neg hlate).mpr (Dev.ackTimeout_idle hlate)
  · dsimp only
    rw [Dev.frameLoss_eq hhere]
    split
    · exact d.portNak_naks p
    · rfl
  · dsimp only
    rw [Dev.nakRepeat_eq hhere]
    split
    next hnak =>
      rw [Dev.portLink_port]
      exact ⟨rfl, rfl, hnak.2⟩
    next => rfl
  · by_cases howed : d.get F.PLK_PSTAT_STATE (portDie p) (p % 4) = 3 ∧ d.ackOwed p
    · refine (if_pos howed).mpr ?_
      have hrun : d.ackDue p = d.portLink p false := by
        classical rw [Dev.ackDue_eq hhere, if_pos howed]
      rw [hrun, Dev.portLink_port]
      exact ⟨rfl, rfl, rfl⟩
    · refine (if_neg howed).mpr ?_
      classical rw [Dev.ackDue_eq hhere, if_neg howed]
  · by_cases hrests : d.portRests p
    · have hrun : d.portDoze p = (d.portIdx p).foldl (fun d' i => d'.laneDozed p i) d := by
        classical rw [Dev.portDoze_eq hhere, if_pos hrests]
      rw [hrun]
      exact (if_pos hrests).mpr Dev.foldl_laneDozed_rests
    · refine (if_neg hrests).mpr ?_
      classical rw [Dev.portDoze_eq hhere, if_neg hrests]
  · by_cases hsilent : d.portSilent p
    · have hrun : d.portSilence p = d.portDown p := by
        classical rw [Dev.portSilence_eq hhere, if_pos hsilent]
      rw [hrun]
      exact (if_pos hsilent).mpr (Dev.portDown_down ..)
    · refine (if_neg hsilent).mpr ?_
      classical rw [Dev.portSilence_eq hhere, if_neg hsilent]
  · by_cases hwaits : d.portWaits p
    · have hrun : d.portSleepTimeout p = (d.portLulled p).portSlept p := by
        classical rw [Dev.portSleepTimeout_eq hhere, if_pos hwaits]
      have ⟨_, _, _, hst, _⟩ := hwaits
      rw [hrun]
      exact (if_pos hwaits).mpr (Dev.portLulled_sleeps hst)
    · refine (if_neg hwaits).mpr ?_
      classical rw [Dev.portSleepTimeout_eq hhere, if_neg hwaits]

end Sys2Proof.Machine
end

section
/-!
The statements of 19_power_clocks.md: the power sequencer of a die, and the Ward's protection, rails and clocks.
-/
namespace Sys2Proof.Machine

/-! The sequencer's own state -/

theorem Agree.pws? {μ : Nat} {d e : Dev} (h : Agree μ d e) (hp : μ.testBit 424 = false) (die : Nat) : e.pws? die = d.pws? die := by
  rw [Dev.pws?, Dev.pws?, h.pws hp]

theorem Dev.setPw_pws (d : Dev) (die : Nat) (x : PwSt) : (d.setPw die x).pws? die = x := by simp [Dev.pws?, Dev.setPw, KMap.atD_put]

theorem Dev.modPw_pws (d : Dev) (die : Nat) (f : PwSt → PwSt) : (d.modPw die f).pws? die = f (d.pws? die) := Dev.setPw_pws ..

/-- TGT and BUSY of a die set for a step that begins. -/
def Dev.pwAim (d : Dev) (die tgt : Nat) : Dev := (d.put F.PWR_STATE_TGT tgt die).put F.PWR_STATE_BUSY 1 die

section
variable (d : Dev) (die tgt : Nat)

theorem Dev.pwAim_tgt : (d.pwAim die tgt).get F.PWR_STATE_TGT die = tgt % 8 :=
  (Dev.get_put_bits _ _ (by decide) (by decide) (by decide)).trans (Dev.get_put _ _ _ _ _ _ (by decide) (by decide))

theorem Dev.pwAim_busy : (d.pwAim die tgt).get F.PWR_STATE_BUSY die = 1 :=
  Dev.get_put_self _ _ _ _ _ _ (by decide) (by decide) (by decide)

theorem Dev.pwAim_cur : (d.pwAim die tgt).get F.PWR_STATE_CUR die = d.get F.PWR_STATE_CUR die :=
  (Dev.get_put_bits _ _ (by decide) (by decide) (by decide)).trans (Dev.get_put_bits _ _ (by decide) (by decide) (by decide))

theorem Dev.pwAim_get {g : Fld} (hg : g.hi < 32) (h : g.reg ≠ .PWR_STATE) (i s : Nat) : (d.pwAim die tgt).get g die i s = d.get g die i s :=
  (Dev.get_put_reg _ _ hg (by decide) h).trans (Dev.get_put_reg _ _ hg (by decide) h)

end

/-! A step begins (R409, R410) -/

/-- What a step that begins sets of the sequencer. -/
def Dev.pwStart (d : Dev) (die goal : Nat) : Dev :=
  (d.pwAim die (pwNext (d.pwCur die) goal)).modPw die fun x => { x with goal := goal, begun := d.tick die }

/-- What else a step does at its beginning, to stacks, ports, lanes and engines, is nothing of the sequencer. -/
theorem Dev.pwBegin_agree (d : Dev) (die goal : Nat) : Agree 0x38010023e004200245000010000000000000000000000e04c6400c000000001000004000000000000000400000200101f20000000 (d.pwStart die goal) (d.pwBegin die goal) := by
  have hstart := Agree.refl 0x38010023e004200245000010000000000000000000000e04c6400c000000001000004000000000000000400000200101f20000000 (d.pwStart die goal)
  unfold Dev.pwBegin
  dsimp only
  split
  · exact Agree.foldl _ _ _ (fun _ _ h => Dev.portRest_kp _ _ _ ((Within.refl _).up (by decide)) h)
      (Agree.foldl _ _ _ (fun _ _ h => Dev.hbSelfref_kp _ _ _ ((Within.refl _).up (by decide)) h) hstart)
  · refine Agree.foldl _ _ _ (fun _ _ h => Agree.foldl _ _ _ (fun _ _ h => ?_) h)
      (Agree.foldl _ _ _ (fun _ _ h => Dev.hbWake_kp _ _ _ ((Within.refl _).up (by decide)) h) (Dev.computeOn_kp _ _ ((Within.refl _).up (by decide)) hstart))
    exact Agree.ite (Dev.laneCmdWrite_kp _ _ _ _ ((Within.refl _).up (by decide)) h) h
  · exact hstart

/-- A step begins: its target, BUSY, and the goal of the transition; CUR and the pending slot stay. -/
theorem Dev.pwBegin_begins (d : Dev) (die goal : Nat) :
    let e := d.pwBegin die goal
    e.get F.PWR_STATE_CUR die = d.get F.PWR_STATE_CUR die ∧ e.get F.PWR_STATE_TGT die = pwNext (d.get F.PWR_STATE_CUR die) goal % 8 ∧
      e.get F.PWR_STATE_BUSY die = 1 ∧ (e.pws? die).goal = goal ∧ ∀ g : Fld, g.reg = .PWR_DCTL → g.hi < 32 → e.get g die = d.get g die := by
  have hrest := d.pwBegin_agree die goal
  refine ⟨(hrest.get F.PWR_STATE_CUR rfl rfl ..).trans (d.pwAim_cur ..), (hrest.get F.PWR_STATE_TGT rfl rfl ..).trans (d.pwAim_tgt ..),
    (hrest.get F.PWR_STATE_BUSY rfl rfl ..).trans (d.pwAim_busy ..), ?_, fun g hreg hg => ?_⟩
  · rw [hrest.pws? rfl, Dev.pwStart, Dev.modPw_pws]
  · rw [hrest.get g rfl (by rw [hreg]; rfl)]
    exact d.pwAim_get _ _ hg (by rw [hreg]; decide) ..

/-! The carrier domain comes up, and the exit toward P1 (R412, R414) -/

theorem Dev.carrierOn_agree (d : Dev) (die : Nat) : Agree 0xa000000000000000000010000000000000000000000000000000000000200400000008000000000000000000000000000000000 (d.flags die ⟨true, true, d.computeUp die⟩) (d.carrierOn die) :=
  Agree.foldl _ _ _ (fun _ _ h => Agree.ite (Dev.knkFull_kp _ _ _ _ ((Within.refl _).up (by decide)) h) h)
    (Dev.put_kp _ _ _ _ _ _ rfl ((Within.refl _).up rfl) (Dev.put_kp _ _ _ _ _ _ rfl ((Within.refl _).up rfl)
      (Dev.put_kp _ _ _ _ _ _ rfl ((Within.refl _).up rfl) (Agree.refl _ _))))

/-- What the exit toward P1 sets of the sequencer. -/
def Dev.pwLeave (d : Dev) (die : Nat) : Dev :=
  { (d.pwAim die 1).modPw die fun x => { x with goal := 1, begun := d.tick die, tested := false } with tripN := d.tripN.set die false }

theorem Dev.pwLeave_pws (d : Dev) (die : Nat) : (d.pwLeave die).pws? die = { d.pws? die with goal := 1, begun := d.tick die, tested := false } :=
  Dev.modPw_pws (d.pwAim die 1) die fun x => { x with goal := 1, begun := d.tick die, tested := false }

theorem Dev.pwExit_agree (d : Dev) (die : Nat) : Agree 0xa000000000000000000010000000000000000000000000000000000000200400000008000000000000000000000000000000000 ((d.pwLeave die).flags die ⟨true, true, d.computeUp die⟩) (d.pwExit die) :=
  (d.pwLeave die).carrierOn_agree die

/-- The exit toward P1 begins. -/
theorem Dev.pwExit_begins (d : Dev) (die : Nat) :
    let e := d.pwExit die
    e.get F.PWR_STATE_TGT die = 1 ∧ e.get F.PWR_STATE_BUSY die = 1 ∧ (e.pws? die).goal = 1 ∧ (e.pws? die).tested = false ∧
      e.get F.PWR_STATE_CUR die = d.get F.PWR_STATE_CUR die ∧ ∀ g : Fld, g.reg ∈ [.PWR_DCTL, .PWR_WAKE] → g.hi < 32 → e.get g die = d.get g die := by
  have hrest := d.pwExit_agree die
  refine ⟨(hrest.get F.PWR_STATE_TGT rfl rfl ..).trans (d.pwAim_tgt ..), (hrest.get F.PWR_STATE_BUSY rfl rfl ..).trans (d.pwAim_busy ..), ?_, ?_,
    (hrest.get F.PWR_STATE_CUR rfl rfl ..).trans (d.pwAim_cur ..), fun g hreg hg => ?_⟩
  · rw [hrest.pws? rfl]
    exact congrArg PwSt.goal (d.pwLeave_pws die)
  · rw [hrest.pws? rfl]
    exact congrArg PwSt.tested (d.pwLeave_pws die)
  · simp only [List.mem_cons, List.not_mem_nil, or_false] at hreg
    obtain hreg | hreg := hreg
    · exact (hrest.get g rfl (by rw [hreg]; rfl) ..).trans (d.pwAim_get _ _ hg (by rw [hreg]; decide) ..)
    · exact (hrest.get g rfl (by rw [hreg]; rfl) ..).trans (d.pwAim_get _ _ hg (by rw [hreg]; decide) ..)

theorem Dev.pwExit_pieces (d : Dev) (die : Nat) :
    (d.pwExit die).tripN = d.tripN.set die false ∧ (d.pwExit die).pw = d.pw.set die ⟨true, true, d.computeUp die⟩ ∧ (d.pwExit die).aon = d.aon := by
  have hrest := d.pwExit_agree die
  exact ⟨hrest.tripN rfl, hrest.pw rfl, hrest.aon rfl⟩

/-! A write of GO (R415) -/

/-- The package with a target written. -/
def Dev.pwAsked (d : Dev) (die t : Nat) : Dev := d.writeGen ⟨.PWR_DCTL, die, 0, 0⟩ (t + 2 ^ 3) [F.PWR_DCTL_GO]

section
variable (d : Dev) (die : Nat) {t : Nat}

theorem Dev.pwAsked_get (t : Nat) {g : Fld} (h : g.reg ≠ .PWR_DCTL) : (d.pwAsked die t).get g die = d.get g die := by
  have hkey : ¬ (⟨g.reg, die, 0, 0⟩ : RKey) = ⟨.PWR_DCTL, die, 0, 0⟩ := fun hk => h (congrArg RKey.reg hk)
  rw [Dev.get, Dev.get, Dev.pwAsked, Dev.writeGen, Dev.raw_setRaw, if_neg hkey]

theorem Dev.pwAsked_slot (t : Nat) : (d.pwAsked die t).get F.PWR_DCTL_PEND die = d.get F.PWR_DCTL_PEND die ∧
    (d.pwAsked die t).get F.PWR_DCTL_PTGT die = d.get F.PWR_DCTL_PTGT die :=
  ⟨d.writeGen_field .PWR_DCTL die 0 0 _ [F.PWR_DCTL_GO] (row := ⟨F.PWR_DCTL_PEND, .ro, .val 0⟩) (by decide) (by decide),
    d.writeGen_field .PWR_DCTL die 0 0 _ [F.PWR_DCTL_GO] (row := ⟨F.PWR_DCTL_PTGT, .ro, .val 0⟩) (by decide) (by decide)⟩

theorem Dev.pwAsked_target (ht : t < 5) : (d.pwAsked die t).get F.PWR_DCTL_TARGET die = t := by
  have hval : bitsOf (t + 2 ^ 3) 2 0 = t := by simp [bitsOf]; omega
  have hok : d.encOk F.PWR_DCTL_TARGET t = true := decide_eq_true ht
  have h := d.writeGen_field .PWR_DCTL die 0 0 (t + 2 ^ 3) [F.PWR_DCTL_GO] (row := ⟨F.PWR_DCTL_TARGET, .rw, .val 0⟩) (by decide) (by decide)
  refine h.trans ?_
  show (if d.encOk F.PWR_DCTL_TARGET (bitsOf (t + 2 ^ 3) 2 0) = true then bitsOf (t + 2 ^ 3) 2 0 else _) = t
  rw [hval, if_pos hok]

theorem Dev.pdctlWrite_go (ht : t < 5) : d.pdctlWrite die (t + 2 ^ 3) = (d.pwAsked die t).pwGo die t := by
  have hgo : hasBit (t + 2 ^ 3) 3 = true := by interval_cases t <;> rfl
  have htarget := d.pwAsked_target die ht
  rw [Dev.pwAsked] at htarget
  rw [Dev.pdctlWrite, htarget]
  exact if_pos hgo

end

section
variable {d : Dev} {die t : Nat} (haon : d.aonUp die = true)
include haon

theorem Dev.pwGo_busy (h : d.get F.PWR_STATE_BUSY die ≠ 0) :
    d.pwGo die t = if d.get F.PWR_DCTL_PEND die ≠ 0 then d else (d.put F.PWR_DCTL_PEND 1 die).put F.PWR_DCTL_PTGT t die := by
  have hbusy : d.pwBusy die = true := by simpa [Dev.pwBusy, Dev.on?] using h
  rw [Dev.pwGo, haon, hbusy]
  simp [Dev.on?]

theorem Dev.pwGo_idle (ht : t < 5) (h : d.get F.PWR_STATE_BUSY die = 0) :
    d.pwGo die t = if d.get F.PWR_STATE_CUR die < t ∨ t < d.get F.PWR_STATE_CUR die ∧ d.get F.PWR_STATE_CUR die ≤ 2 then d.pwBegin die t else d := by
  have hbusy : d.pwBusy die = false := by simp [Dev.pwBusy, Dev.on?, h]
  have hallowed : pwAllowed (d.pwCur die) t = true ↔
      d.get F.PWR_STATE_CUR die < t ∨ t < d.get F.PWR_STATE_CUR die ∧ d.get F.PWR_STATE_CUR die ≤ 2 := by
    simp only [pwAllowed, Bool.and_eq_true, Bool.or_eq_true, decide_eq_true_eq, ht, true_and]
    rfl
  rw [Dev.pwGo, haon, hbusy]
  exact (if_neg (by decide)).trans ((if_neg (by decide)).trans (if_congr hallowed rfl rfl))

end

theorem Dev.pwHold_slot (d : Dev) (die : Nat) {t : Nat} (ht : t < 8) :
    let e := (d.put F.PWR_DCTL_PEND 1 die).put F.PWR_DCTL_PTGT t die
    (e.get F.PWR_DCTL_PEND die = 1 ∧ e.get F.PWR_DCTL_PTGT die = t) ∧ e.get F.PWR_DCTL_TARGET die = d.get F.PWR_DCTL_TARGET die ∧
      ∀ g : Fld, g.hi < 32 → g.reg ≠ .PWR_DCTL → e.get g die = d.get g die := by
  refine ⟨⟨?_, Dev.get_put_self _ _ _ _ _ _ (by decide) (by decide) ht⟩, ?_, fun g hg h => ?_⟩
  · exact (Dev.get_put_bits _ _ (by decide) (by decide) (by decide)).trans (Dev.get_put_self _ _ _ _ _ _ (by decide) (by decide) (by decide))
  · exact (Dev.get_put_bits _ _ (by decide) (by decide) (by decide)).trans (Dev.get_put_bits _ _ (by decide) (by decide) (by decide))
  · exact (Dev.get_put_reg _ _ hg (by decide) h).trans (Dev.get_put_reg _ _ hg (by decide) h)

/-! A step ends (R409, R415) -/

/-- The end state of the step under way, in effect. -/
def Dev.pwReached (d : Dev) (die fails : Nat) (ok : List (List Bool)) : Dev :=
  ((d.pwEnter die (d.pwCur die) (d.pwTgt die) fails ok).put F.PWR_STATE_CUR (d.pwTgt die) die).put F.PWR_STATE_BUSY 0 die

theorem Dev.pwReached_cur (d : Dev) (die fails : Nat) (ok : List (List Bool)) :
    (d.pwReached die fails ok).get F.PWR_STATE_CUR die = d.get F.PWR_STATE_TGT die :=
  (Dev.get_put_bits _ _ (by decide) (by decide) (by decide)).trans (Dev.get_put_self _ _ _ _ _ _ (by decide) (by decide) (bitsOf_lt ..))

theorem Dev.pwStep_waits {d : Dev} {die fails : Nat} {ok : List (List Bool)}
    (h : ¬ (d.get F.PWR_STATE_BUSY die ≠ 0 ∧ d.pwReady die (d.get F.PWR_STATE_CUR die) (d.get F.PWR_STATE_TGT die) = true)) : d.pwStep die fails ok = d := by
  refine if_pos ?_
  rw [not_and_or, not_not, Bool.not_eq_true] at h
  obtain h | h := h
  · simp [Dev.pwBusy, Dev.on?, h]
  · have h' : d.pwReady die (d.pwCur die) (d.pwTgt die) = false := h
    simp [h']

theorem Dev.pwStep_ends {d : Dev} {die fails : Nat} {ok : List (List Bool)} (haon : d.aonUp die = true) (hbusy : d.get F.PWR_STATE_BUSY die ≠ 0)
    (hready : d.pwReady die (d.get F.PWR_STATE_CUR die) (d.get F.PWR_STATE_TGT die) = true) :
    d.pwStep die fails ok =
      if (d.pws? die).goal ≠ d.get F.PWR_STATE_TGT die then (d.pwReached die fails ok).pwBegin die (d.pws? die).goal
      else (d.pwReached die fails ok).pwEnded die := by
  have hbusy' : d.pwBusy die = true := by simpa [Dev.pwBusy, Dev.on?] using hbusy
  have hready' : d.pwReady die (d.pwCur die) (d.pwTgt die) = true := hready
  exact if_neg (by simp [haon, hbusy', hready'])

/-- At the end of a transition the pending slot is empty, and the state stays what the last step has reached. -/
theorem Dev.pwEnded_slot (d : Dev) (die : Nat) :
    (d.pwEnded die).get F.PWR_STATE_CUR die = d.get F.PWR_STATE_CUR die ∧ (d.pwEnded die).get F.PWR_DCTL_PEND die = 0 := by
  have htaken : let e := (d.put F.PWR_DCTL_PEND 0 die).put F.PWR_DCTL_PTGT 0 die
      e.get F.PWR_DCTL_PEND die = 0 ∧ e.get F.PWR_STATE_CUR die = d.get F.PWR_STATE_CUR die :=
    ⟨(Dev.get_put_bits _ _ (by decide) (by decide) (by decide)).trans (Dev.get_put_self _ _ _ _ _ _ (by decide) (by decide) (by decide)),
      (Dev.get_put_reg _ _ (by decide) (by decide) (by decide)).trans (Dev.get_put_reg _ _ (by decide) (by decide) (by decide))⟩
  obtain ⟨hpend, hcur⟩ := htaken
  rw [Dev.pwEnded]
  split
  next h => exact ⟨rfl, by simpa [Dev.on?] using h⟩
  next h =>
    dsimp only
    split
    · obtain ⟨-, -, -, -, hcur', hdctl⟩ := Dev.pwExit_begins ((d.put F.PWR_DCTL_PEND 0 die).put F.PWR_DCTL_PTGT 0 die) die
      exact ⟨hcur'.trans hcur, (hdctl F.PWR_DCTL_PEND (by decide) (by decide)).trans hpend⟩
    · split
      · obtain ⟨hcur', -, -, -, hdctl⟩ := Dev.pwBegin_begins ((d.put F.PWR_DCTL_PEND 0 die).put F.PWR_DCTL_PTGT 0 die) die (d.get F.PWR_DCTL_PTGT die)
        exact ⟨hcur'.trans hcur, (hdctl F.PWR_DCTL_PEND rfl (by decide)).trans hpend⟩
      · exact ⟨(Dev.get_put_reg _ _ (by decide) (by decide) (by decide)).trans hcur, (Dev.get_put_bits _ _ (by decide) (by decide) (by decide)).trans hpend⟩

/-! A wake request (R412, R416) -/

/-- The package with a pulse on RESET_N counted. -/
def Dev.woken (d : Dev) (die : Nat) : Dev := (d.put F.PWR_WAKE_PULSE 1 die).count F.PWR_WAKE_COUNT 1 die

theorem Dev.woken_get (d : Dev) (die : Nat) :
    (d.woken die).get F.PWR_WAKE_PULSE die = 1 ∧ (d.woken die).get F.PWR_WAKE_COUNT die = (d.get F.PWR_WAKE_COUNT die + 1) % 2 ^ 8 ∧
      ∀ g : Fld, g.hi < 32 → g.reg ≠ .PWR_WAKE → (d.woken die).get g die = d.get g die := by
  refine ⟨?_, ?_, fun g hg h => ?_⟩
  · exact (Dev.get_put_bits _ _ (by decide) (by decide) (by decide)).trans (Dev.get_put_self _ _ _ _ _ _ (by decide) (by decide) (by decide))
  · rw [Dev.woken, Dev.get_count _ _ _ _ _ _ (w := 8) (by decide) (by decide) rfl, Dev.get_put_bits _ _ (by decide) (by decide) (by decide)]
  · exact (Dev.get_put_reg _ _ hg (by decide) h).trans (Dev.get_put_reg _ _ hg (by decide) h)

/-- A die that has tripped, and is still hot, is not woken. -/
def Dev.tooHot (d : Dev) (die : Nat) : Prop := d.get F.PWR_STATE_CUR die = 4 ∧ d.tripN.getD die false = true ∧ 95 ≤ d.get F.PWR_TJ_TJMAX die

section
variable {d : Dev} {die : Nat}

theorem Dev.wake_hot (h : d.tooHot die) : d.wake die = d := by
  unfold Dev.wake
  split
  · rfl
  · exact if_pos h

theorem Dev.wake_counts (haon : d.aonUp die = true) (h : ¬ d.tooHot die) :
    d.wake die =
      if d.get F.PWR_STATE_BUSY die ≠ 0 then
        if 3 ≤ d.get F.PWR_STATE_TGT die ∨ 3 ≤ (d.pws? die).goal then ((d.woken die).put F.PWR_DCTL_PEND 1 die).put F.PWR_DCTL_PTGT 1 die else d.woken die
      else if 3 ≤ d.get F.PWR_STATE_CUR die then (d.woken die).pwExit die else d.woken die := by
  have hrun : ¬ (!d.aonUp die) = true := by simp [haon]
  rw [Dev.wake, if_neg hrun]
  refine (if_neg h).trans (if_congr ?_ (if_congr ?_ rfl rfl) rfl)
  · simp [Dev.pwBusy, Dev.on?]
  · rw [Bool.or_eq_true, decide_eq_true_eq, decide_eq_true_eq]
    rfl

/-! The contacts (R470) -/

theorem Dev.carrierLost_state (d : Dev) (die : Nat) :
    (d.carrierLost die).get F.PWR_STATE_CUR die = 4 ∧ (d.carrierLost die).get F.PWR_STATE_TGT die = 4 ∧ (d.carrierLost die).get F.PWR_STATE_BUSY die = 0 := by
  have hstate (e : Dev) : let e' := ((e.put F.PWR_STATE_CUR 4 die).put F.PWR_STATE_TGT 4 die).put F.PWR_STATE_BUSY 0 die
      e'.get F.PWR_STATE_CUR die = 4 ∧ e'.get F.PWR_STATE_TGT die = 4 ∧ e'.get F.PWR_STATE_BUSY die = 0 := by
    simp (disch := decide) only [Dev.get_put_bits, Dev.get_put]
    decide
  have hslot (e : Dev) (f : PwSt → PwSt) (g : Fld) (hg : g.hi < 32 ∧ g.reg ≠ .PWR_DCTL) : ((e.put F.PWR_DCTL_PEND 0 die).modPw die f).get g die = e.get g die :=
    Dev.get_put_reg _ _ hg.1 (by decide) hg.2
  rw [Dev.carrierLost]
  dsimp only
  rw [hslot _ _ _ (by decide), hslot _ _ _ (by decide), hslot _ _ _ (by decide)]
  exact hstate _

theorem Dev.carrierLost_pieces (d : Dev) (die : Nat) :
    (d.carrierLost die).aon = d.aon ∧ (d.carrierLost die).lcnt = d.lcnt ∧ (d.carrierLost die).alert = d.alert ∧ (d.carrierLost die).tripN = d.tripN := by
  have h := Dev.carrierLost_kp d die (Within.refl _) (Agree.refl _ _)
  exact ⟨h.aon rfl, h.lcnt rfl, h.alert rfl, h.tripN rfl⟩

theorem Dev.dieReset_tripped (h : d.tripN.getD die false = true) : d.dieReset die = d := if_pos (by rw [h, Bool.or_true])

theorem Dev.dieReset_exits (haon : d.aonUp die = true) (h : ¬ d.tripN.getD die false = true) :
    d.dieReset die = (if d.keptUp die = true then d.carrierLost die else d).pwExit die :=
  if_neg (by simp only [haon, h, Bool.not_true, Bool.or_self, Bool.false_eq_true, not_false_eq_true])

theorem Dev.resetBut_gone (d : Dev) {die : Nat} {dom : Dom} (keep : Reg → Bool) {k : RKey} (hdie : k.die = die) (hdom : (Reg.place k.reg).dom = dom)
    (hkeep : keep k.reg = false) : (d.resetBut die dom keep).rf.at? k = none := by
  rw [Dev.resetBut]
  dsimp only
  rw [KMap.at?_delIf, hdie, hdom, hkeep, beq_self_eq_true, beq_self_eq_true]
  rfl

/-- PWRGOOD falls on a die whose always-on domain is up. -/
theorem Dev.powerFall_clears (haon : d.aonUp die = true) :
    let e := d.powerFall die
    e.aon = d.aon.set die false ∧ e.lcnt = d.lcnt.set die 0 ∧ e.alert = d.alert.set die false ∧ e.tripN = d.tripN.set die false ∧
      e.wards.at? die = none ∧ e.pws.at? die = none ∧ ∀ k : RKey, k.die = die → (Reg.place k.reg).dom = .aon → e.rf.at? k = none := by
  have hlost : let c := if d.keptUp die = true then d.carrierLost die else d
      c.aon = d.aon ∧ c.lcnt = d.lcnt ∧ c.alert = d.alert ∧ c.tripN = d.tripN := by
    dsimp only
    split
    · exact d.carrierLost_pieces die
    · exact ⟨rfl, rfl, rfl, rfl⟩
  obtain ⟨haon', hlcnt, halert, htrip⟩ := hlost
  have hrun : ¬ (!d.aonUp die) = true := by simp [haon]
  dsimp only
  rw [Dev.powerFall, if_neg hrun]
  refine ⟨congrArg (List.set · die false) haon', congrArg (List.set · die 0) hlcnt, congrArg (List.set · die false) halert,
    congrArg (List.set · die false) htrip, (KMap.at?_del ..).trans (if_pos rfl), (KMap.at?_del ..).trans (if_pos rfl), fun k hdie hdom => ?_⟩
  exact Dev.resetBut_gone _ (fun _ => false) hdie hdom rfl

theorem Dev.powerFall_idle (h : ¬ d.aonUp die = true) : d.powerFall die = d := if_pos (by simpa using h)

theorem Dev.powerFall_aon (d : Dev) (die : Nat) (on : Bool) : ((d.powerFall die).aon).set die on = d.aon.set die on := by
  by_cases haon : d.aonUp die = true
  · rw [(Dev.powerFall_clears haon).1, List.set_set]
  · rw [Dev.powerFall_idle haon]

/-- The package after PWRGOOD has risen, before any step begins. -/
def Dev.powered (d : Dev) (die : Nat) : Dev :=
  let x := (d.powerFall die).draw
  (({ x.2 with aon := x.2.aon.set die true, wards := x.2.wards.put die (Ward.fresh x.1) }).put F.PWR_CLK_SLOWOK 1 die).put F.PWR_CLK_REFOK 1 die

theorem Dev.powerRise_eq (hdie : die < d.ndies) (low : Bool) : d.powerRise die low = if low = true then d.powered die else (d.powered die).pwExit die :=
  if_neg (Nat.not_le.mpr hdie)

end

/-- Settles O47: GO by the slot and the state; a step's end; a wake request, a reset and PWRGOOD by the exit toward P1 that they begin. -/
theorem powerSequencer : Obligations.PowerSequencer := by
  refine fun die => ⟨fun t => Effect.powerSequencerGo_of _ _ fun d _ hup ht => ?_, fun fails repairs => Effect.powerStepComplete_of _ _ _ fun d _ hup => ?_,
    Effect.wakeRequest_of _ fun d _ hup => ?_, Effect.dieReset_of _ fun d _ hup => ?_, fun low => Effect.powerGoodRise_of _ _ fun d _ hup => ⟨?_, fun hlow => ?_⟩,
    Effect.powerGoodFall_of _ fun d _ _ => ?_⟩
  · have haon : (d.pwAsked die t).aonUp die = true := (Place.ofAon_up hup).2
    have hcur := d.pwAsked_get die t (g := F.PWR_STATE_CUR) (by decide)
    have htgt := d.pwAsked_get die t (g := F.PWR_STATE_TGT) (by decide)
    have hbusy := d.pwAsked_get die t (g := F.PWR_STATE_BUSY) (by decide)
    obtain ⟨hpend, hptgt⟩ := d.pwAsked_slot die t
    have htarget := d.pwAsked_target die ht
    rw [Dev.pdctlWrite_go _ _ ht]
    dsimp only
    split
    next h =>
      rw [Dev.pwGo_busy haon (hbusy.trans_ne h)]
      split
      next hfull =>
        exact ⟨htarget, ⟨hcur, htgt, hbusy⟩, by rw [if_pos (hpend ▸ hfull)]; exact ⟨hpend, hptgt⟩⟩
      next hfree =>
        obtain ⟨hslot, htarget', hkeep⟩ := (d.pwAsked die t).pwHold_slot die (show t < 8 by omega)
        exact ⟨htarget'.trans htarget, ⟨(hkeep _ (by decide) (by decide)).trans hcur, (hkeep _ (by decide) (by decide)).trans htgt,
          (hkeep _ (by decide) (by decide)).trans hbusy⟩, by rw [if_neg (hpend ▸ hfree)]; exact hslot⟩
    next h =>
      rw [Dev.pwGo_idle haon ht (hbusy.trans (not_not.mp h)), hcur]
      split
      next hgo =>
        obtain ⟨hcur', htgt', hbusy', hgoal, hdctl⟩ := (d.pwAsked die t).pwBegin_begins die t
        rw [hcur] at htgt'
        refine ⟨(hdctl _ rfl (by decide)).trans htarget, hcur'.trans hcur, htgt'.trans (Nat.mod_eq_of_lt ?_), hbusy', hgoal⟩
        rw [pwNext]
        split <;> omega
      next hstay => exact ⟨htarget, hcur, htgt, hbusy⟩
  · dsimp only
    split
    next h =>
      rw [Dev.pwStep_ends (Place.ofAon_up hup).2 h.1 h.2]
      have hreached := d.pwReached_cur die fails repairs
      split
      next hmore =>
        obtain ⟨hcur, htgt, hbusy, hgoal, -⟩ := (d.pwReached die fails repairs).pwBegin_begins die (d.pws? die).goal
        rw [hreached] at htgt
        exact ⟨hcur.trans hreached, htgt, hbusy, hgoal⟩
      next hlast =>
        obtain ⟨hcur, hpend⟩ := (d.pwReached die fails repairs).pwEnded_slot die
        exact ⟨hcur.trans hreached, hpend⟩
    next h => exact Dev.pwStep_waits h
  · dsimp only
    split
    next h => exact Dev.wake_hot h
    next h =>
      obtain ⟨hpulse, hcount, hkeep⟩ := d.woken_get die
      have hcur := hkeep F.PWR_STATE_CUR (by decide) (by decide)
      have htgt := hkeep F.PWR_STATE_TGT (by decide) (by decide)
      have hbusy := hkeep F.PWR_STATE_BUSY (by decide) (by decide)
      rw [Dev.wake_counts (Place.ofAon_up hup).2 h]
      split
      next hstep =>
        split
        next hdeep =>
          obtain ⟨hslot, -, hkeep'⟩ := (d.woken die).pwHold_slot die (show 1 < 8 by decide)
          exact ⟨(hkeep' _ (by decide) (by decide)).trans hpulse, (hkeep' _ (by decide) (by decide)).trans hcount, (hkeep' _ (by decide) (by decide)).trans hcur,
            (hkeep' _ (by decide) (by decide)).trans htgt, (hkeep' _ (by decide) (by decide)).trans hbusy, hslot⟩
        next hshallow =>
          exact ⟨hpulse, hcount, hcur, htgt, hbusy, hkeep _ (by decide) (by decide), hkeep _ (by decide) (by decide)⟩
      next hidle =>
        split
        next hdeep =>
          obtain ⟨htgt', hbusy', hgoal, htested, hcur', hkeep'⟩ := (d.woken die).pwExit_begins die
          obtain ⟨htrip, hpw, -⟩ := (d.woken die).pwExit_pieces die
          exact ⟨(hkeep' _ (by decide) (by decide)).trans hpulse, (hkeep' _ (by decide) (by decide)).trans hcount, hcur'.trans hcur,
            ⟨htgt', hbusy', hgoal, htested⟩, htrip, hpw⟩
        next hawake => exact ⟨hpulse, hcount, hcur, htgt, hbusy⟩
  · dsimp only
    split
    next h => exact Dev.dieReset_tripped h
    next h =>
      rw [Dev.dieReset_exits (Place.ofAon_up hup).2 h]
      obtain ⟨htgt, hbusy, hgoal, htested, hcur, -⟩ := (if d.keptUp die = true then d.carrierLost die else d).pwExit_begins die
      refine ⟨⟨htgt, hbusy, hgoal, htested⟩, fun hkept => hcur.trans ?_⟩
      rw [if_pos hkept]
      exact (d.carrierLost_state die).1
  · rw [Dev.powerRise_eq (Place.ofDie_built hup)]
    split
    · exact d.powerFall_aon die true
    · exact ((d.powered die).pwExit_pieces die).2.2.trans (d.powerFall_aon die true)
  · rw [Dev.powerRise_eq (Place.ofDie_built hup), hlow]
    obtain ⟨htgt, hbusy, hgoal, htested, -, -⟩ := (d.powered die).pwExit_begins die
    exact ⟨htgt, hbusy, hgoal, htested⟩
  · split
    next h => exact Dev.powerFall_clears h
    next h => exact Dev.powerFall_idle h

end Sys2Proof.Machine
end

section
namespace Sys2Proof.Machine

/-! The throttle (R417, R418) -/

/-- The duty of a die: the least of its causes. -/
def Dev.lowDuty (d : Dev) (die : Nat) : Nat := (d.pws? die).duty.foldl min 16

/-- 1 for a cause that asks for less than all of the clock. -/
def Dev.causeActs (d : Dev) (die c : Nat) : Nat := if (d.pws? die).duty.getD c 16 < 16 then 1 else 0

/-- Duty and flags as the three causes ask. -/
def Dev.thrFlags (d : Dev) (die : Nat) : Dev :=
  ((((d.put F.PWR_THR_DUTYM1 (d.lowDuty die - 1) die).put F.PWR_THR_TEMP (d.causeActs die 0) die).put F.PWR_THR_PCEIL (d.causeActs die 1) die).put
    F.PWR_THR_ICEIL (d.causeActs die 2) die).put F.WRD_STAT_THROTTLE (if d.lowDuty die < 16 then 1 else 0) die

section
variable (d : Dev) (die : Nat)

theorem Dev.causeActs_lt (c : Nat) : d.causeActs die c < 2 := by
  rw [Dev.causeActs]
  split <;> decide

theorem Dev.thrFlags_get :
    (d.thrFlags die).get F.PWR_THR_DUTYM1 die = d.lowDuty die - 1 ∧ (d.thrFlags die).get F.PWR_THR_TEMP die = d.causeActs die 0 ∧
      (d.thrFlags die).get F.PWR_THR_PCEIL die = d.causeActs die 1 ∧ (d.thrFlags die).get F.PWR_THR_ICEIL die = d.causeActs die 2 ∧
      (d.thrFlags die).get F.WRD_STAT_THROTTLE die = (if d.lowDuty die < 16 then 1 else 0) ∧
      (d.thrFlags die).get F.PWR_THR_NTHR die = d.get F.PWR_THR_NTHR die := by
  have hlow : d.lowDuty die - 1 < 2 ^ 4 := Nat.lt_of_le_of_lt (Nat.sub_le_sub_right (foldl_min_le ..) 1) (by decide)
  have hflag : (if d.lowDuty die < 16 then 1 else 0) < 2 ^ 1 := by split <;> decide
  rw [Dev.thrFlags]
  simp (disch := decide) only [Dev.get_put_apart, Dev.get_put]
  exact ⟨Nat.mod_eq_of_lt hlow, Nat.mod_eq_of_lt (d.causeActs_lt die 0), Nat.mod_eq_of_lt (d.causeActs_lt die 1), Nat.mod_eq_of_lt (d.causeActs_lt die 2),
    Nat.mod_eq_of_lt hflag, trivial⟩

theorem Dev.thrSet_eq :
    d.thrSet die = if d.lowDuty die < 16 ∧ d.get F.WRD_STAT_THROTTLE die = 0 then
        ((d.thrFlags die).countSat F.PWR_THR_NTHR 1 die).post die ⟨7, 3, 0, noPart, 0, d.get F.PWR_TJ_TJMAX die, 0⟩
      else d.thrFlags die :=
  if_congr (and_congr_right' (by simp [Dev.on?])) rfl rfl

/-- The throttle as its causes ask: the sequencer's record stays, and the registers say what acts. -/
theorem Dev.thrSet_sets :
    let e := d.thrSet die
    let low := d.lowDuty die
    e.pws? die = d.pws? die ∧ e.get F.PWR_THR_DUTYM1 die = low - 1 ∧
      (∀ x ∈ [(F.PWR_THR_TEMP, 0), (F.PWR_THR_PCEIL, 1), (F.PWR_THR_ICEIL, 2)], e.get x.1 die = d.causeActs die x.2) ∧
      e.get F.WRD_STAT_THROTTLE die = (if low < 16 then 1 else 0) ∧
      e.get F.PWR_THR_NTHR die =
        if low < 16 ∧ d.get F.WRD_STAT_THROTTLE die = 0 then satAdd 16 (d.get F.PWR_THR_NTHR die) 1 else d.get F.PWR_THR_NTHR die := by
  obtain ⟨hduty, htemp, hpceil, hiceil, hthr, hnthr⟩ := d.thrFlags_get die
  have hcause : ∀ x ∈ [(F.PWR_THR_TEMP, 0), (F.PWR_THR_PCEIL, 1), (F.PWR_THR_ICEIL, 2)], (d.thrFlags die).get x.1 die = d.causeActs die x.2 := by
    simp only [List.forall_mem_cons, List.not_mem_nil, false_implies, implies_true, and_true]
    exact ⟨htemp, hpceil, hiceil⟩
  dsimp only
  rw [Dev.thrSet_eq]
  split
  next hnew =>
    have hpost := Dev.post_kp ((d.thrFlags die).countSat F.PWR_THR_NTHR 1 die) die ⟨7, 3, 0, noPart, 0, d.get F.PWR_TJ_TJMAX die, 0⟩
      (Within.refl _) (Agree.refl _ _)
    have hcount {g : Fld} (hg : g.hi < 16 ∨ g.reg = .WRD_STAT) (h32 : g.hi < 32) :
        ((d.thrFlags die).countSat F.PWR_THR_NTHR 1 die).get g die = (d.thrFlags die).get g die := by
      obtain hg | hg := hg
      · exact Dev.get_put_bits _ _ h32 (by decide) (.inr hg)
      · exact Dev.get_put_reg _ _ h32 (by decide) (by rw [hg]; decide)
    refine ⟨hpost.pws? rfl die, ?_, fun x hx => ?_, ?_, ?_⟩
    · rw [hpost.get F.PWR_THR_DUTYM1 rfl rfl, hcount (.inl (by decide)) (by decide), hduty]
    · have hreg : x.1.reg = .PWR_THR ∧ x.1.hi < 16 := by
        simp only [List.mem_cons, List.not_mem_nil, or_false] at hx
        obtain rfl | rfl | rfl := hx <;> decide
      rw [hpost.get x.1 rfl (by rw [hreg.1]; rfl), hcount (.inl hreg.2) (Nat.lt_trans hreg.2 (by decide)), hcause x hx]
    · rw [hpost.get F.WRD_STAT_THROTTLE rfl rfl, hcount (.inr rfl) (by decide), hthr]
    · rw [hpost.get F.PWR_THR_NTHR rfl rfl, Dev.get_countSat _ _ _ _ _ _ (by decide) (by decide), hnthr]
      rfl
  next hold => exact ⟨rfl, hduty, hcause, hthr, hnthr⟩

end

/-- A cause's step down is due: it asks for less, and 10 µs have passed since the last. -/
def Dev.thrDue (d : Dev) (die c : Nat) : Prop :=
  d.tooMuch die c = true ∧ ((d.pws? die).duty.getD c 16 = 16 ∨ (d.pws? die).stepAt.getD c 0 + 10 ≤ d.tick die)

/-- A cause's step up is due: its release condition has held for 1 ms, and so long has the last step been ago. -/
def Dev.releaseDue (d : Dev) (die c : Nat) : Prop :=
  d.cooled die c = true ∧ (d.pws? die).duty.getD c 16 ≠ 16 ∧ (d.pws? die).stepAt.getD c 0 + 1000 ≤ d.tick die ∧
    ∃ t, (d.pws? die).cool.getD c none = some t ∧ t + 1000 ≤ d.tick die

/-- The package with a cause's duty set, at the time of the step. -/
def Dev.dutySet (d : Dev) (die c n : Nat) : Dev :=
  d.setPw die { d.pws? die with duty := (d.pws? die).duty.set c n, stepAt := (d.pws? die).stepAt.set c (d.tick die) }

section
variable {d : Dev} {die c : Nat}

theorem Dev.thrStep_idle (h : ¬ d.thrDue die c) : d.thrStep die c = d := by
  refine if_pos ?_
  rw [Dev.thrDue, not_and_or] at h
  obtain h | h := h
  · simp [Bool.eq_false_iff.mpr h]
  · have hlate : (((d.pws? die).duty.getD c 16 == 16) || decide ((d.pws? die).stepAt.getD c 0 + 10 ≤ d.tick die)) = false := by
      rw [Bool.or_eq_false_iff, beq_eq_false_iff_ne, decide_eq_false_iff_not]
      exact not_or.mp h
    rw [hlate, Bool.not_false, Bool.or_true]

theorem Dev.thrStep_due (haon : d.aonUp die = true) (hc : c < 3) (h : d.thrDue die c) :
    d.thrStep die c = (d.dutySet die c (max 4 ((d.pws? die).duty.getD c 16 - 1))).thrSet die := by
  obtain ⟨hmuch, hlate⟩ := h
  have hlate' : (((d.pws? die).duty.getD c 16 == 16) || decide ((d.pws? die).stepAt.getD c 0 + 10 ≤ d.tick die)) = true := by
    rwa [Bool.or_eq_true, beq_iff_eq, decide_eq_true_eq]
  have hc' : decide (2 < c) = false := decide_eq_false (by omega)
  refine if_neg ?_
  rw [haon, hmuch, hc', hlate']
  decide

/-- The release condition has held for 1 ms. -/
def heldFor (since : Option Nat) (span now : Nat) : Bool := since.elim false fun t => decide (t + span ≤ now)

theorem heldFor_match (since : Option Nat) (span now : Nat) :
    (match since with | some t => decide (t + span ≤ now) | none => false) = heldFor since span now := by
  cases since <;> rfl

theorem heldFor_iff (since : Option Nat) (span now : Nat) : heldFor since span now = true ↔ ∃ t, since = some t ∧ t + span ≤ now := by
  cases since with
  | none => simp [heldFor]
  | some t => simp [heldFor]

theorem Dev.thrRelease_eq (d : Dev) (die c : Nat) :
    d.thrRelease die c =
      if (!d.aonUp die || decide (2 < c) || !heldFor ((d.pws? die).cool.getD c none) 1000 (d.tick die) || !d.cooled die c ||
        (d.pws? die).duty.getD c 16 == 16 || !decide ((d.pws? die).stepAt.getD c 0 + 1000 ≤ d.tick die)) = true then d
      else (d.dutySet die c ((d.pws? die).duty.getD c 16 + 1)).thrSet die := by
  rw [← heldFor_match]
  rfl

theorem Dev.thrRelease_idle (h : ¬ d.releaseDue die c) : d.thrRelease die c = d := by
  rw [Dev.thrRelease_eq]
  refine if_pos ?_
  rw [Dev.releaseDue, ← heldFor_iff] at h
  simp only [Bool.or_eq_true, Bool.not_eq_true', beq_iff_eq, decide_eq_true_eq, ← Bool.not_eq_true]
  tauto

theorem Dev.thrRelease_due (haon : d.aonUp die = true) (hc : c < 3) (h : d.releaseDue die c) :
    d.thrRelease die c = (d.dutySet die c ((d.pws? die).duty.getD c 16 + 1)).thrSet die := by
  obtain ⟨hcool, hduty, hstep, hheld⟩ := h
  rw [Dev.thrRelease_eq]
  refine if_neg ?_
  rw [haon, hcool, decide_eq_false (show ¬ 2 < c by omega), (heldFor_iff ..).mpr hheld, beq_false_of_ne hduty, decide_eq_true hstep]
  decide

/-- What the registers and the record say once a cause's duty is set. -/
theorem Dev.dutySet_thrSet (d : Dev) (die c n : Nat) :
    let e := (d.dutySet die c n).thrSet die
    let duty := (d.pws? die).duty.set c n
    let low := duty.foldl min 16
    ((e.pws? die).duty = duty ∧ e.get F.PWR_THR_DUTYM1 die = low - 1 ∧
      (∀ x ∈ [(F.PWR_THR_TEMP, 0), (F.PWR_THR_PCEIL, 1), (F.PWR_THR_ICEIL, 2)], e.get x.1 die = if duty.getD x.2 16 < 16 then 1 else 0) ∧
      e.get F.WRD_STAT_THROTTLE die = (if low < 16 then 1 else 0) ∧
      e.get F.PWR_THR_NTHR die =
        if low < 16 ∧ d.get F.WRD_STAT_THROTTLE die = 0 then satAdd 16 (d.get F.PWR_THR_NTHR die) 1 else d.get F.PWR_THR_NTHR die) ∧
    (e.pws? die).stepAt = (d.pws? die).stepAt.set c (d.tick die) := by
  obtain ⟨hpws, hduty, hcause, hthr, hnthr⟩ := (d.dutySet die c n).thrSet_sets die
  have hset : (d.dutySet die c n).pws? die = { d.pws? die with duty := (d.pws? die).duty.set c n, stepAt := (d.pws? die).stepAt.set c (d.tick die) } :=
    Dev.setPw_pws ..
  simp only [Dev.lowDuty, Dev.causeActs, hset] at hpws hduty hcause hthr hnthr
  dsimp only
  rw [hpws]
  exact ⟨⟨rfl, hduty, hcause, hthr, hnthr⟩, rfl⟩

end

/-! Figures (R418, R419) -/

theorem Dev.coolNote_agree (d : Dev) (die : Nat) :
    Agree 0x10000000000000000000000000000000000000000000000000000000000000000000000000000000000000000000000000000000000 d (d.coolNote die) :=
  Dev.coolNote_kp _ _ (Within.refl _) (Agree.refl _ _)

theorem Dev.coolNote_pws (d : Dev) (die : Nat) :
    ((d.coolNote die).pws? die).duty = (d.pws? die).duty ∧ ((d.coolNote die).pws? die).figs = (d.pws? die).figs := by
  rw [Dev.coolNote, Dev.modPw_pws]
  exact ⟨rfl, rfl⟩

theorem Dev.tjSample_stores {d : Dev} {die tj : Nat} (haon : d.aonUp die = true) (htj : tj < 256) :
    let e := d.tjSample die tj
    e.get F.PWR_TJ_TJMAX die = tj ∧ e.get F.PWR_TJ_TJPEAK die = max tj (d.get F.PWR_TJ_TJPEAK die) ∧ (e.pws? die).duty = (d.pws? die).duty := by
  have hrun : ¬ (!d.aonUp die) = true := by simp [haon]
  have hpeak : max (tj % 256) (d.get F.PWR_TJ_TJPEAK die) < 2 ^ (F.PWR_TJ_TJPEAK.hi + 1 - F.PWR_TJ_TJPEAK.lo) :=
    Nat.max_lt.mpr ⟨Nat.mod_lt _ (by decide), bitsOf_lt ..⟩
  dsimp only
  rw [Dev.tjSample, if_neg hrun, (Dev.coolNote_agree _ _).get F.PWR_TJ_TJMAX rfl rfl, (Dev.coolNote_agree _ _).get F.PWR_TJ_TJPEAK rfl rfl]
  refine ⟨?_, ?_, (Dev.coolNote_pws _ _).1⟩
  · exact (Dev.get_put_bits _ _ (by decide) (by decide) (by decide)).trans (Dev.get_put_self _ _ _ _ _ _ (by decide) (by decide) htj)
  · rw [Dev.get_put_self _ _ _ _ _ _ (by decide) (by decide) hpeak, Nat.mod_eq_of_lt htj]

/-- The figures of all dies as a die holds them after an exchange. -/
def Dev.figsAfter (d : Dev) (die watts arrived : Nat) : List Nat :=
  (List.range 4).map fun j =>
    if j = die then watts else if hasBit arrived j = true ∧ d.aonUp j = true ∧ j < d.ndies then d.get F.PWR_PDIE_WATTS j else (d.pws? die).figs.getD j 0

/-- The package with a die's own power and its rails measured. -/
def Dev.measured (d : Dev) (die watts : Nat) (rails : List (Nat × Nat)) : Dev :=
  rails.zipIdx.foldl (fun d' (x : (Nat × Nat) × Nat) =>
    if x.2 < 9 then (d'.put F.PWR_RMEAS_MV x.1.1 die 0 x.2).put F.PWR_RMEAS_CURR x.1.2 die 0 x.2 else d') (d.put F.PWR_PDIE_WATTS watts die)

theorem Dev.measured_agree (d : Dev) (die watts : Nat) (rails : List (Nat × Nat)) :
    Agree 0x400000000000000000000000000000000000000000000000000000000000000000000000000000000000 (d.put F.PWR_PDIE_WATTS watts die) (d.measured die watts rails) :=
  Agree.foldl _ _ _ (fun _ _ h => Agree.ite
    (Dev.put_kp _ _ _ _ _ _ rfl ((Within.refl _).up rfl) (Dev.put_kp _ _ _ _ _ _ rfl ((Within.refl _).up rfl) h)) h) (Agree.refl _ _)

theorem Dev.pwFigures_eq {d : Dev} {die watts : Nat} (haon : d.aonUp die = true) (hwatts : watts < 4096) (rails : List (Nat × Nat)) (arrived : Nat) :
    d.pwFigures die watts rails arrived =
      (((d.measured die watts rails).modPw die fun x => { x with figs := d.figsAfter die watts arrived }).put F.PWR_PDIE_PKG
        ((d.figsAfter die watts arrived).foldl (· + ·) 0) die).coolNote die := by
  have hrun : ¬ (!d.aonUp die) = true := by simp [haon]
  have hfigs : ((List.range 4).map fun j =>
      if j = die then watts % 2 ^ 12 else if (hasBit arrived j && d.aonUp j && decide (j < d.ndies)) = true then d.get F.PWR_PDIE_WATTS j else (d.pws? die).figs.getD j 0)
        = d.figsAfter die watts arrived := by
    simp only [Dev.figsAfter, Nat.mod_eq_of_lt (show watts < 2 ^ 12 from hwatts), Bool.and_eq_true, decide_eq_true_eq, and_assoc]
  rw [← hfigs]
  exact if_neg hrun

theorem Dev.pwFigures_stores {d : Dev} {die watts : Nat} (haon : d.aonUp die = true) (hwatts : watts < 4096) (rails : List (Nat × Nat)) (arrived : Nat) :
    let e := d.pwFigures die watts rails arrived
    e.get F.PWR_PDIE_WATTS die = watts ∧ (e.pws? die).figs = d.figsAfter die watts arrived ∧
      e.get F.PWR_PDIE_PKG die = (d.figsAfter die watts arrived).foldl (· + ·) 0 % 2 ^ 12 := by
  dsimp only
  rw [Dev.pwFigures_eq haon hwatts, (Dev.coolNote_agree _ _).get F.PWR_PDIE_WATTS rfl rfl, (Dev.coolNote_agree _ _).get F.PWR_PDIE_PKG rfl rfl]
  refine ⟨?_, (Dev.coolNote_pws _ _).2.trans ?_, Dev.get_put _ _ _ _ _ _ (by decide) (by decide)⟩
  · rw [Dev.get_put_bits _ _ (by decide) (by decide) (by decide)]
    exact ((d.measured_agree die watts rails).get F.PWR_PDIE_WATTS rfl rfl ..).trans (Dev.get_put_self _ _ _ _ _ _ (by decide) (by decide) hwatts)
  · exact congrArg PwSt.figs (Dev.modPw_pws (d.measured die watts rails) die fun x => { x with figs := d.figsAfter die watts arrived })

/-! Trips, rails and clocks (R419, R421–R423) -/

section
variable {d : Dev} {die : Nat}

theorem Dev.trip_lost (haon : d.aonUp die = true) (hkept : d.keptUp die = true) :
    let e := d.trip die
    (e.get F.PWR_STATE_CUR die = 4 ∧ e.get F.PWR_STATE_TGT die = 4 ∧ e.get F.PWR_STATE_BUSY die = 0) ∧ e.get F.PWR_STATE_TRIPPED die = 1 ∧
      e.tripN = d.tripN.set die true := by
  obtain ⟨hcur, htgt, hbusy⟩ := d.carrierLost_state die
  obtain ⟨-, -, -, htrip⟩ := d.carrierLost_pieces die
  have hgo : d.trip die = { (d.carrierLost die).put F.PWR_STATE_TRIPPED 1 die with tripN := (d.carrierLost die).tripN.set die true } :=
    if_neg (by simp [haon, hkept])
  dsimp only
  rw [hgo, htrip]
  refine ⟨⟨(Dev.get_put_bits _ _ (by decide) (by decide) (by decide)).trans hcur, (Dev.get_put_bits _ _ (by decide) (by decide) (by decide)).trans htgt,
    (Dev.get_put_bits _ _ (by decide) (by decide) (by decide)).trans hbusy⟩, Dev.get_put_self _ _ _ _ _ _ (by decide) (by decide) (by decide), rfl⟩

theorem Dev.trip_idle (h : ¬ d.keptUp die = true) : d.trip die = d := if_pos (by simp [h])

theorem clrBit_le (n i : Nat) : clrBit n i ≤ n := by
  rw [clrBit]
  split
  · exact Nat.sub_le ..
  · exact Nat.le_refl n

/-- Cores, cells and armed waits of a compute die, gone. -/
def Dev.cellsGone (d : Dev) (die n : Nat) : Dev :=
  let c := 12 * die + 4 * n
  let mine := fun (k : Nat) => c ≤ k && k < c + 4
  { d with cores := d.cores.delIf (fun k => mine (k / 256)), cells := d.cells.delIf mine,
           waits := d.waits.filter fun w => match w.who with
             | .core l => !mine (lcoreCell l)
             | .phys k => !mine (k / 256)
             | _ => true }

/-- A compute die down, before its cell lanes are fenced. -/
def Dev.computeDieDown (d : Dev) (die n : Nat) : Dev :=
  let d3 := ((d.spadsInvalid (12 * die + 4 * n) 4).cellsGone die n).put F.CMP_CELL_CTL_PARK 15 die n
  d3.put F.PWR_CLK_CMPLOCK (clrBit (d3.get F.PWR_CLK_CMPLOCK die) n) die

/-- A compute die goes down: its lock, its cells' state and their parking; the power of the domains stays. -/
theorem Dev.computeDieLost_loses (d : Dev) (die n : Nat) :
    let e := d.computeDieLost die n
    e.get F.PWR_CLK_CMPLOCK die = clrBit (d.get F.PWR_CLK_CMPLOCK die) n ∧ e.get F.CMP_CELL_CTL_PARK die n = 15 ∧ e.pw = d.pw ∧
      ∀ c, 12 * die + 4 * n ≤ c → c < 12 * die + 4 * n + 4 → e.cells.at? c = none := by
  have hspads := Dev.spadsInvalid_kp d (12 * die + 4 * n) 4 (Within.refl _) (Agree.refl _ _)
  have hlock : clrBit (d.get F.PWR_CLK_CMPLOCK die) n < 2 ^ (F.PWR_CLK_CMPLOCK.hi + 1 - F.PWR_CLK_CMPLOCK.lo) :=
    Nat.lt_of_le_of_lt (clrBit_le ..) (bitsOf_lt ..)
  have hfence : Agree 0x10000000000000000000000000000000000000000000 (d.computeDieDown die n) (d.computeDieLost die n) :=
    Agree.foldl _ _ _ (fun _ _ h => Dev.put_kp _ _ _ _ _ _ rfl ((Within.refl _).up rfl) h) (Agree.refl _ _)
  have hcells : (d.computeDieDown die n).cells = (d.spadsInvalid (12 * die + 4 * n) 4).cells.delIf fun k =>
    decide (12 * die + 4 * n ≤ k) && decide (k < 12 * die + 4 * n + 4) := rfl
  refine ⟨?_, ?_, (hfence.pw rfl).trans (hspads.pw rfl), fun c hlo hhi => ?_⟩
  · rw [hfence.get F.PWR_CLK_CMPLOCK rfl rfl]
    refine (Dev.get_put _ _ _ _ _ _ (by decide) (by decide)).trans ?_
    rw [Dev.get_put_reg _ _ (by decide) (by decide) (by decide)]
    have hbefore : ((d.spadsInvalid (12 * die + 4 * n) 4).cellsGone die n).get F.PWR_CLK_CMPLOCK die = d.get F.PWR_CLK_CMPLOCK die := hspads.get F.PWR_CLK_CMPLOCK rfl rfl ..
    rw [hbefore]
    exact Nat.mod_eq_of_lt hlock
  · rw [hfence.get F.CMP_CELL_CTL_PARK rfl rfl, Dev.computeDieDown]
    exact (Dev.get_put_reg _ _ (by decide) (by decide) (by decide)).trans (Dev.get_put_self _ _ _ _ _ _ (by decide) (by decide) (by decide))
  · rw [hfence.cells rfl, hcells, KMap.at?_delIf, if_pos (by rw [decide_eq_true hlo, decide_eq_true hhi]; rfl)]

/-- A record posted leaves the sequencer's registers, the clocks and the domains. -/
theorem Dev.post_clocks (d : Dev) (die : Nat) (r : Rec) :
    (d.post die r).get F.PWR_CLK_CMPLOCK die = d.get F.PWR_CLK_CMPLOCK die ∧ (d.post die r).pw = d.pw :=
  have h := Dev.post_kp d die r (Within.refl _) (Agree.refl _ _)
  ⟨h.get F.PWR_CLK_CMPLOCK rfl rfl .., h.pw rfl⟩

theorem Dev.railFault_always (haon : d.aonUp die = true) : d.railFault die 0 = d.powerFall die := by simp [Dev.railFault, haon]

theorem Dev.railFault_carrier (haon : d.aonUp die = true) {r : Nat} (h0 : r ≠ 0) (h6 : r < 6) :
    d.railFault die r = if d.keptUp die = true then (d.post die ⟨0x0A, 2, 0, noPart, r, 0, 0⟩).carrierLost die else d := by
  simp [Dev.railFault, haon, h0, h6]

theorem Dev.railFault_compute (haon : d.aonUp die = true) {r : Nat} (h6 : 6 ≤ r) (h9 : r < 9) :
    d.railFault die r = if d.computeUp die = true then (d.post die ⟨0x0A, 2, 0, noPart, r, 0, 0⟩).computeDieLost die (r - 6) else d := by
  have h0 : r ≠ 0 := by omega
  simp [Dev.railFault, haon, h0, Nat.not_lt.mpr h6, h9]

theorem Dev.refLoss_idle (h : d.get F.PWR_CLK_REFOK die = 0) : d.refLoss die = d := if_pos (by simp [Dev.on?, h])

/-- The package with the reference lost: REFLOSS, REFOK and the alert. -/
def Dev.refGone (d : Dev) (die : Nat) : Dev :=
  (((d.post die ⟨0x0A, 3, 0, noPart, 0, 0, 0⟩).put F.PWR_CLK_REFLOSS 1 die).put F.PWR_CLK_REFOK 0 die).raiseAlert die

theorem Dev.refGone_notes (d : Dev) (die : Nat) :
    (d.refGone die).alert = d.alert.set die true ∧ (d.refGone die).get F.PWR_CLK_REFLOSS die = 1 ∧ (d.refGone die).get F.PWR_CLK_REFOK die = 0 :=
  have h := Dev.post_kp d die ⟨0x0A, 3, 0, noPart, 0, 0, 0⟩ (Within.refl _) (Agree.refl _ _)
  ⟨congrArg (List.set · die true) (h.alert rfl),
    (Dev.get_put_bits _ _ (by decide) (by decide) (by decide)).trans (Dev.get_put_self _ _ _ _ _ _ (by decide) (by decide) (by decide)),
    Dev.get_put_self _ _ _ _ _ _ (by decide) (by decide) (by decide)⟩

theorem Dev.refLoss_lost (haon : d.aonUp die = true) (h : d.get F.PWR_CLK_REFOK die ≠ 0) :
    d.refLoss die = if d.keptUp die = true then (d.refGone die).carrierLost die else d.refGone die :=
  if_neg (by simp [haon, Dev.on?, h])

theorem Dev.pllLoss_hub : d.pllLoss die 0 =
    if d.carrierUp die = true then (d.post die ⟨0x0A, 1, 0, noPart, 0, 0, 0⟩).carrierLost die else d := by
  cases h : d.carrierUp die <;> simp [Dev.pllLoss, h]

theorem Dev.pllLoss_steward : d.pllLoss die 1 =
    if d.keptUp die = true then
      { d.post die ⟨0x0A, 1, 0, noPart, 1, 0, 0⟩ with stews := (d.post die ⟨0x0A, 1, 0, noPart, 1, 0, 0⟩).stews.del die }
    else d := by
  cases h : d.carrierUp die with
  | false => simp [Dev.pllLoss, h]
  | true =>
    have hkept : d.keptUp die = true := by
      rw [Dev.keptUp, Bool.or_eq_true]
      exact .inl h
    simp [Dev.pllLoss, h, hkept]

theorem Dev.pllLoss_compute {p : Nat} (h2 : 2 ≤ p) (h5 : p < 5) : d.pllLoss die p =
    if d.carrierUp die = true ∧ hasBit (d.get F.PWR_CLK_CMPLOCK die) (p - 2) = true then
      (d.post die ⟨0x0A, 1, 0, noPart, p, 0, 0⟩).computeDieLost die (p - 2)
    else d := by
  have h0 : p ≠ 0 := by omega
  have h1 : p ≠ 1 := by omega
  cases h : d.carrierUp die <;> simp [Dev.pllLoss, h, h0, h1, h5]

theorem Dev.slowLoss_idle (h : d.get F.PWR_CLK_SLOWOK die = 0) : d.slowLoss die = d := if_pos (by simp [Dev.on?, h])

theorem Dev.slowLoss_notes (haon : d.aonUp die = true) (h : d.get F.PWR_CLK_SLOWOK die ≠ 0) :
    let e := d.slowLoss die
    e.get F.PWR_CLK_SLOWOK die = 0 ∧ e.get F.PWR_CLK_SLOWLOSS die = 1 ∧ e.alert = d.alert.set die true ∧ e.lcnt = d.lcnt := by
  have hgo : d.slowLoss die =
      ((((d.put F.PWR_CLK_SLOWOK 0 die).put F.PWR_CLK_SLOWLOSS 1 die).raiseAlert die).post die ⟨0x0A, 4, 0, noPart, 0, 0, 0⟩) :=
    if_neg (by simp [haon, Dev.on?, h])
  have hpost := Dev.post_kp (((d.put F.PWR_CLK_SLOWOK 0 die).put F.PWR_CLK_SLOWLOSS 1 die).raiseAlert die) die ⟨0x0A, 4, 0, noPart, 0, 0, 0⟩
    (Within.refl _) (Agree.refl _ _)
  dsimp only
  rw [hgo]
  refine ⟨(hpost.get F.PWR_CLK_SLOWOK rfl rfl ..).trans ?_, (hpost.get F.PWR_CLK_SLOWLOSS rfl rfl ..).trans ?_, hpost.alert rfl, hpost.lcnt rfl⟩
  · exact (Dev.get_put_bits _ _ (by decide) (by decide) (by decide)).trans (Dev.get_put_self _ _ _ _ _ _ (by decide) (by decide) (by decide))
  · exact Dev.get_put_self _ _ _ _ _ _ (by decide) (by decide) (by decide)

end

/-- Settles O48: samples and figures by what they store; a throttle step where it is due; what a trip, a rail or a clock takes down. -/
theorem wardProtection : Obligations.WardProtection := by
  refine fun die => ⟨fun tj => Effect.junctionSample_of _ _ fun d hwf hup => ?_, fun c => Effect.throttleStep_of _ _ fun d hwf hup => ?_,
    fun c => Effect.throttleReleaseStep_of _ _ fun d hwf hup => ?_, fun watts arrived rails => Effect.powerFigureExchange_of _ _ _ _ fun d hwf hup => ?_,
    Effect.thermalTrip_of _ fun d _ hup => ?_, fun r => Effect.railFault_of _ _ fun d hwf hup => ⟨fun h => ?_, fun h0 h6 => ?_, fun h6 => ?_⟩,
    Effect.refclkLoss_of _ fun d _ hup => ?_, fun p => Effect.pllLockLoss_of _ _ fun d _ _ => ⟨fun h => ?_, fun h => ?_, fun h2 h5 => ?_⟩,
    Effect.slowclkLoss_of _ fun d _ hup => ?_, Effect.slowclkRestore_of _ fun d _ hup => ?_⟩
  · simp only [Instr.wf, Bool.and_eq_true, decide_eq_true_eq] at hwf
    exact Dev.tjSample_stores (Place.ofAon_up hup).2 hwf.2
  · simp only [Instr.wf, Bool.and_eq_true, decide_eq_true_eq] at hwf
    dsimp only
    split
    next h =>
      rw [Dev.thrStep_due (Place.ofAon_up hup).2 hwf.2 h]
      exact d.dutySet_thrSet die c _
    next h => exact Dev.thrStep_idle h
  · simp only [Instr.wf, Bool.and_eq_true, decide_eq_true_eq] at hwf
    dsimp only
    split
    next h =>
      rw [Dev.thrRelease_due (Place.ofAon_up hup).2 hwf.2 h]
      exact (d.dutySet_thrSet die c _).1
    next h => exact Dev.thrRelease_idle h
  · simp only [Instr.wf, Bool.and_eq_true, decide_eq_true_eq] at hwf
    exact Dev.pwFigures_stores (Place.ofAon_up hup).2 hwf.1.2 rails arrived
  · split
    next h => exact Dev.trip_lost (Place.ofAon_up hup).2 h
    next h => exact Dev.trip_idle h
  · rw [h, Dev.railFault_always (Place.ofAon_up hup).2]
    exact (Dev.powerFall_clears (Place.ofAon_up hup).2).1
  · rw [Dev.railFault_carrier (Place.ofAon_up hup).2 h0 h6]
    split
    · exact Dev.carrierLost_state _ die
    · rfl
  · simp only [Instr.wf, Bool.and_eq_true, decide_eq_true_eq] at hwf
    rw [Dev.railFault_compute (Place.ofAon_up hup).2 h6 hwf.2]
    split
    · obtain ⟨hlock, hpw⟩ := d.post_clocks die ⟨0x0A, 2, 0, noPart, r, 0, 0⟩
      obtain ⟨hlock', hpark, hpw', hcells⟩ := (d.post die ⟨0x0A, 2, 0, noPart, r, 0, 0⟩).computeDieLost_loses die (r - 6)
      exact ⟨hlock'.trans (by rw [hlock]), hpark, hpw'.trans hpw, hcells⟩
    · rfl
  · split
    next h => exact Dev.refLoss_idle h
    next h =>
      obtain ⟨halert, hloss, hok⟩ := d.refGone_notes die
      rw [Dev.refLoss_lost (Place.ofAon_up hup).2 h]
      split
      · exact ⟨((d.refGone die).carrierLost_pieces die).2.2.1.trans halert, Dev.carrierLost_state _ die⟩
      · exact ⟨halert, hloss, hok⟩
  · rw [h, Dev.pllLoss_hub]
    split
    · exact Dev.carrierLost_state _ die
    · rfl
  · rw [h, Dev.pllLoss_steward]
    split
    · exact ⟨(KMap.at?_del ..).trans (if_pos rfl), (d.post_clocks die _).2⟩
    · rfl
  · rw [Dev.pllLoss_compute h2 h5]
    split
    · obtain ⟨hlock, hpw⟩ := d.post_clocks die ⟨0x0A, 1, 0, noPart, p, 0, 0⟩
      obtain ⟨hlock', -, hpw', -⟩ := (d.post die ⟨0x0A, 1, 0, noPart, p, 0, 0⟩).computeDieLost_loses die (p - 2)
      exact ⟨hlock'.trans (by rw [hlock]), hpw'.trans hpw⟩
    · rfl
  · split
    next h => exact Dev.slowLoss_idle h
    next h => exact Dev.slowLoss_notes (Place.ofAon_up hup).2 h
  · rw [Dev.slowBack, if_pos (Place.ofAon_up hup).2]
    exact ⟨Dev.get_put_self _ _ _ _ _ _ (by decide) (by decide) (by decide), Dev.get_put_bits _ _ (by decide) (by decide) (by decide)⟩

end Sys2Proof.Machine
end

section
/-!
The statements of 21_faults_ageing.md: the fault queue, ageing samples, the lead's margin proposal, and the telemetry target.
-/
namespace Sys2Proof.Machine

/-! The fault queue -/

/-- The words of a record that the steward of a die posts, with the hardware's DIE, FLAGS.STEWARD and SEQ (R446, R479). -/
def Dev.postWords (d : Dev) (die seq : Nat) : List Nat :=
  let w := fun j => d.raw ⟨.FLT_POST, die, j, 0⟩
  orBit (setBits (w 0) 17 16 die) 26 :: setBits (w 1) 15 0 seq :: (List.range 6).map fun j => w (j + 2)

/-- The class of a record that the steward posts. -/
def Dev.postClass (d : Dev) (die : Nat) : Nat := d.raw ⟨.FLT_POST, die, 0, 0⟩ % 256

theorem Dev.fltPost_noClass {d : Dev} {die : Nat} (h : d.postClass die = 0 ∨ 11 < d.postClass die) :
    d.fltPost die = d.put F.FLT_PCTL_DROPPED 1 die := if_pos h

theorem Dev.fltPost_queued {d : Dev} {die : Nat} (hcls : ¬ (d.postClass die = 0 ∨ 11 < d.postClass die))
    (hroom : d.get F.FLT_STAT_COUNT die < 1024) : d.fltPost die = d.fltPut die (d.postClass die) (d.postWords die) :=
  (if_neg hcls).trans (if_neg (Nat.not_le.mpr hroom))

theorem Dev.fltPost_dropped {d : Dev} {die : Nat} (hcls : ¬ (d.postClass die = 0 ∨ 11 < d.postClass die))
    (hfull : ¬ d.get F.FLT_STAT_COUNT die < 1024) :
    d.fltPost die = (d.fltPut die (d.postClass die) (d.postWords die)).put F.FLT_PCTL_DROPPED 1 die :=
  (if_neg hcls).trans (if_pos (Nat.le_of_not_lt hfull))

theorem Dev.fltRecord_congr {d e : Dev} {die : Nat} (hhead : e.get F.FLT_HEAD_INDEX die = d.get F.FLT_HEAD_INDEX die)
    (hdata : ∀ i, e.raw ⟨.FLT_QDATA, die, i, 0⟩ = d.raw ⟨.FLT_QDATA, die, i, 0⟩) (j : Nat) : e.fltRecord die j = d.fltRecord die j := by
  simp only [Dev.fltRecord, hhead, hdata]

/-- Setting DROPPED is no part of the queue. -/
theorem Dev.fltRecord_noteDropped (d : Dev) (die j : Nat) : (d.put F.FLT_PCTL_DROPPED 1 die).fltRecord die j = d.fltRecord die j :=
  Dev.fltRecord_congr (Dev.get_put_apart _ _ _ _ (by decide) (by decide) (by decide)) (fun _ => Dev.raw_put _ _ _ _ _ _ _ Reg.noConfusion) j

theorem Dev.fltPop_get (d : Dev) (die count : Nat) :
    let k := min count (d.get F.FLT_STAT_COUNT die)
    (d.fltPop die count).get F.FLT_STAT_COUNT die = d.get F.FLT_STAT_COUNT die - k ∧
      (d.fltPop die count).get F.FLT_HEAD_INDEX die = (d.get F.FLT_HEAD_INDEX die + k) % 1024 := by
  intro k
  have hcount : d.get F.FLT_STAT_COUNT die < 2 ^ 11 := bitsOf_lt ..
  have hpopped : (d.get F.FLT_STAT_COUNT die - k) % 2 ^ 11 = d.get F.FLT_STAT_COUNT die - k := Nat.mod_eq_of_lt (by omega)
  have hhead (n : Nat) : n % 1024 % 2 ^ 10 = n % 1024 := Nat.mod_mod ..
  simp only [Dev.fltPop]
  split <;> simp (disch := decide) only [Dev.get_put_apart, Dev.get_put]
  · exact ⟨hpopped, hhead _⟩
  · exact ⟨hpopped, hhead _⟩

theorem Dev.fltPop_qdata (d : Dev) (die count i : Nat) : (d.fltPop die count).raw ⟨.FLT_QDATA, die, i, 0⟩ = d.raw ⟨.FLT_QDATA, die, i, 0⟩ := by
  simp only [Dev.fltPop]
  split <;> (repeat rw [Dev.raw_put _ _ _ _ _ _ _ Reg.noConfusion])

theorem Dev.fltPop_record (d : Dev) (die count j : Nat) :
    (d.fltPop die count).fltRecord die j = d.fltRecord die (min count (d.get F.FLT_STAT_COUNT die) + j) := by
  have hhead := (Dev.fltPop_get d die count).2
  simp only [Dev.fltRecord, hhead, Dev.fltPop_qdata, Nat.mod_add_mod, Nat.add_assoc]

/-- Settles O33: a record that is queued, or dropped, as `Dev.fltPut_words` says; a POP moves the head and the count alone. -/
theorem faultQueue : Obligations.FaultQueue := by
  refine ⟨fun die => Effect.faultPost_of _ fun d _ _ => ?_, fun die count => Effect.faultPop_of _ _ fun d _ _ => ?_⟩
  · have hput := Dev.fltPut_words d die (d.postClass die) (d.postWords die) fun _ => rfl
    dsimp only at hput ⊢
    split
    next hcls =>
      rw [Dev.fltPost_noClass hcls]
      refine ⟨Dev.get_put_self _ _ _ _ _ _ (by decide) (by decide) (by decide), ?_, ?_, fun j _ => Dev.fltRecord_noteDropped ..⟩ <;>
        exact Dev.get_put_apart _ _ _ _ (by decide) (by decide) (by decide)
    next hcls =>
    split
    next hroom =>
      obtain ⟨hcount, hseq, -, hnew, hold⟩ := (if_pos hroom).mp hput
      rw [Dev.fltPost_queued hcls hroom]
      exact ⟨hcount, hseq, hold, hnew⟩
    next hfull =>
      obtain ⟨hcount, hovf, -⟩ := (if_neg hfull).mp hput
      rw [Dev.fltPost_dropped hcls hfull]
      refine ⟨Dev.get_put_self _ _ _ _ _ _ (by decide) (by decide) (by decide), ?_, ?_⟩
      · exact (Dev.get_put_apart _ _ _ _ (by decide) (by decide) (by decide)).trans hovf
      · exact (Dev.get_put_apart _ _ _ _ (by decide) (by decide) (by decide)).trans hcount
  · exact ⟨(Dev.fltPop_get d die count).1, fun j => Dev.fltPop_record d die count j⟩

end Sys2Proof.Machine
end

section
namespace Sys2Proof.Machine

/-! A field of each unit in turn -/

/-- What each step of a walk over units gives the unit's field, the walk gives it. -/
theorem Dev.foldl_range_get {f : Dev → Nat → Dev} {g : Fld} {die : Nat} {v : Nat → Nat → Nat}
    (hset : ∀ d m, (f d m).get g die 0 m = v m (d.get g die 0 m)) (hother : ∀ d m m', m' ≠ m → (f d m).get g die 0 m' = d.get g die 0 m')
    (d : Dev) (n m : Nat) :
    ((List.range n).foldl f d).get g die 0 m = if m < n then v m (d.get g die 0 m) else d.get g die 0 m := by
  induction n with
  | zero => rfl
  | succ n ih =>
    rw [List.range_succ, List.foldl_append, List.foldl_cons, List.foldl_nil]
    by_cases hm : m = n
    · subst hm
      rw [hset, ih, if_neg (Nat.lt_irrefl m), if_pos (Nat.lt_succ_self m)]
    · rw [hother _ _ _ hm, ih]
      exact if_congr ⟨Nat.lt_succ_of_lt, fun h => Nat.lt_of_le_of_ne (Nat.lt_succ_iff.mp h) hm⟩ rfl rfl

/-- A field that each step of a walk leaves, the walk leaves. -/
theorem Dev.foldl_get {α : Type} {f : Dev → α → Dev} {g : Fld} {die i s : Nat} (h : ∀ d x, (f d x).get g die i s = d.get g die i s) (l : List α) (d : Dev) :
    (l.foldl f d).get g die i s = d.get g die i s := by
  induction l generalizing d with
  | nil => rfl
  | cons a l ih => exact (ih _).trans (h _ _)

/-- A field of another unit reads as before. -/
theorem Dev.get_put_unit (d : Dev) {f g : Fld} (v : Nat) {die i s die' i' s' : Nat} (hg : g.hi < 32) (hf : f.lo ≤ f.hi) (h : s' ≠ s) :
    (d.put f v die i s).get g die' i' s' = d.get g die' i' s' :=
  Dev.get_put_ne _ _ _ _ _ _ _ _ _ _ hg hf (.inr (.inr (.inr (.inl h))))

/-! A sample (R459) -/

/-- The delay and the temperature of each monitor stored. -/
def Dev.ageMonitors (d : Dev) (die : Nat) (a : AgeRes) : Dev :=
  (List.range 64).foldl (fun d' m => (d'.put F.AGE_MVAL_DELAY (a.delays.getD m 0) die 0 m).put F.AGE_MVAL_TJ a.tj die 0 m) d

/-- A rail's figure stored, and the least that it has been. -/
def Dev.ageRail (die : Nat) (a : AgeRes) (d : Dev) (r : Nat) : Dev :=
  let e := a.effs.getD r 0 % 256
  (d.put F.AGE_EFF_EFF e die 0 r).put F.AGE_EFF_EFFMIN (min e (d.get F.AGE_EFF_EFFMIN die 0 r)) die 0 r

/-- The margins of stacks and knuckles stored. -/
def Dev.ageMargins (d : Dev) (die : Nat) (a : AgeRes) : Dev :=
  a.knk.foldl (fun d' (x : Nat × Nat × Nat × Nat) =>
      if x.1 < 2 ∧ x.2.1 < 18 then (d'.put F.KNK_MARG_WMIN x.2.2.1 die x.1 x.2.1).put F.KNK_MARG_WIRE x.2.2.2 die x.1 x.2.1 else d')
    (a.hbm.foldl (fun d' (x : Nat × Nat × Nat) => if x.1 < 4 ∧ x.2.1 < 64 then d'.setRaw ⟨.HBM_LMARG, die, x.1, x.2.1⟩ (x.2.2 % 2 ^ 30) else d') d)

/-- DRIFT set where a monitor has drifted too far. -/
def Dev.ageDrifted (d : Dev) (die : Nat) : Dev :=
  if ((List.range 64).filter fun m => decide (d.get F.AGE_GUARD_DRIFTMAX die * d.ageBase die m < 1000 * (d.ageVal die m - d.ageBase die m))).isEmpty then d
  else d.put F.AGE_STAT_DRIFT 1 die

section
variable (d : Dev) (die : Nat) (a : AgeRes)

theorem Dev.ageTake_eq :
    d.ageTake die a = ((((List.range 9).foldl (Dev.ageRail die a) (d.ageMonitors die a)).ageMargins die a).count F.AGE_STAT_NSAMP 1 die).ageRecs die := rfl

theorem Dev.ageMonitors_delay (m : Nat) (hm : m < 64) : (d.ageMonitors die a).get F.AGE_MVAL_DELAY die 0 m = a.delays.getD m 0 % 2 ^ 16 := by
  refine (Dev.foldl_range_get (v := fun m _ => a.delays.getD m 0 % 2 ^ 16) (fun d m => ?_) (fun d m m' hne => ?_) d 64 m).trans (if_pos hm)
  · exact (Dev.get_put_bits _ _ (by decide) (by decide) (by decide)).trans (Dev.get_put _ _ _ _ _ _ (by decide) (by decide))
  · exact (Dev.get_put_unit _ _ (by decide) (by decide) hne).trans (Dev.get_put_unit _ _ (by decide) (by decide) hne)

theorem Dev.ageMonitors_tj (m : Nat) (hm : m < 64) : (d.ageMonitors die a).get F.AGE_MVAL_TJ die 0 m = a.tj % 2 ^ 8 := by
  refine (Dev.foldl_range_get (v := fun _ _ => a.tj % 2 ^ 8) (fun d m => ?_) (fun d m m' hne => ?_) d 64 m).trans (if_pos hm)
  · exact Dev.get_put _ _ _ _ _ _ (by decide) (by decide)
  · exact (Dev.get_put_unit _ _ (by decide) (by decide) hne).trans (Dev.get_put_unit _ _ (by decide) (by decide) hne)

theorem Dev.ageMonitors_get {g : Fld} (hg : g.hi < 32) (hreg : g.reg ≠ .AGE_MVAL) (i s : Nat) : (d.ageMonitors die a).get g die i s = d.get g die i s :=
  Dev.foldl_get (fun _ _ => (Dev.get_put_reg _ _ hg (by decide) hreg).trans (Dev.get_put_reg _ _ hg (by decide) hreg)) _ d

theorem Dev.ageRails_eff (r : Nat) (hr : r < 9) : ((List.range 9).foldl (Dev.ageRail die a) d).get F.AGE_EFF_EFF die 0 r = a.effs.getD r 0 % 256 := by
  refine (Dev.foldl_range_get (v := fun r _ => a.effs.getD r 0 % 256) (fun d r => ?_) (fun d r r' hne => ?_) d 9 r).trans (if_pos hr)
  · exact (Dev.get_put_bits _ _ (by decide) (by decide) (by decide)).trans
      (Dev.get_put_self _ _ _ _ _ _ (by decide) (by decide) (Nat.mod_lt _ (by decide)))
  · exact (Dev.get_put_unit _ _ (by decide) (by decide) hne).trans (Dev.get_put_unit _ _ (by decide) (by decide) hne)

theorem Dev.ageRails_effMin (r : Nat) (hr : r < 9) :
    ((List.range 9).foldl (Dev.ageRail die a) d).get F.AGE_EFF_EFFMIN die 0 r = min (a.effs.getD r 0 % 256) (d.get F.AGE_EFF_EFFMIN die 0 r) := by
  refine (Dev.foldl_range_get (v := fun r x => min (a.effs.getD r 0 % 256) x) (fun d r => ?_) (fun d r r' hne => ?_) d 9 r).trans (if_pos hr)
  · exact Dev.get_put_self _ _ _ _ _ _ (by decide) (by decide) (Nat.lt_of_le_of_lt (Nat.min_le_left ..) (Nat.mod_lt _ (by decide)))
  · exact (Dev.get_put_unit _ _ (by decide) (by decide) hne).trans (Dev.get_put_unit _ _ (by decide) (by decide) hne)

theorem Dev.ageRails_get {g : Fld} (hg : g.hi < 32) (hreg : g.reg ≠ .AGE_EFF) (i s : Nat) :
    ((List.range 9).foldl (Dev.ageRail die a) d).get g die i s = d.get g die i s :=
  Dev.foldl_get (fun _ _ => (Dev.get_put_reg _ _ hg (by decide) hreg).trans (Dev.get_put_reg _ _ hg (by decide) hreg)) _ d

theorem Dev.ageMargins_agree : Agree 0x80000000000000000000000010000000000000000000000 d (d.ageMargins die a) :=
  Agree.foldl _ _ _ (fun _ _ h => Agree.ite (Dev.put_kp _ _ _ _ _ _ rfl ((Within.refl _).up rfl) (Dev.put_kp _ _ _ _ _ _ rfl ((Within.refl _).up rfl) h)) h)
    (Agree.foldl _ _ _ (fun _ _ h => Agree.ite (Dev.setKey_kp _ _ _ _ _ _ rfl h) h) (Agree.refl _ _))

theorem Dev.ageRecs_agree :
    Agree 0x80000000000000345000000000000000000000000000000000000000000000000000000000000000000000000000000000000000 (d.ageDrifted die) (d.ageRecs die) := by
  have hrecs {f : Nat → Nat} {c : Nat} (l : List Nat) {e : Dev}
      (h : Agree 0x80000000000000345000000000000000000000000000000000000000000000000000000000000000000000000000000000000000 (d.ageDrifted die) e) :=
    Agree.foldl (fun d' x => d'.ageRec die c x (f x)) l e (fun _ _ h => Dev.ageRec_kp _ _ _ _ _ (Within.refl _) h) h
  have hnone := Agree.refl 0x80000000000000345000000000000000000000000000000000000000000000000000000000000000000000000000000000000000 (d.ageDrifted die)
  exact Agree.ite hnone (hrecs _ (hrecs _ (hrecs _ (hrecs _ (hrecs _ hnone)))))

/-- What a sample stores. -/
theorem Dev.ageTake_stores :
    let e := d.ageTake die a
    e.get F.AGE_STAT_NSAMP die = (d.get F.AGE_STAT_NSAMP die + 1) % 2 ^ 16 ∧
      (∀ m, m < 64 → e.get F.AGE_MVAL_DELAY die 0 m = a.delays.getD m 0 % 2 ^ 16 ∧ e.get F.AGE_MVAL_TJ die 0 m = a.tj % 2 ^ 8) ∧
      (∀ r, r < 9 → e.get F.AGE_EFF_EFF die 0 r = a.effs.getD r 0 % 256 ∧
        e.get F.AGE_EFF_EFFMIN die 0 r = min (a.effs.getD r 0 % 256) (d.get F.AGE_EFF_EFFMIN die 0 r)) := by
  have hmarg := ((List.range 9).foldl (Dev.ageRail die a) (d.ageMonitors die a)).ageMargins_agree die a
  have hafter {g : Fld} (hg : g.hi < 32) (hstat : g.reg ≠ .AGE_STAT ∨ g = F.AGE_STAT_NSAMP) (hmask : (0x80000000000000345000000000000000000000000000000000000000000000000000000000000000000000000000000000000000).testBit g.reg.ctorIdx = false) (i s : Nat) :
      (d.ageTake die a).get g die i s =
        ((((List.range 9).foldl (Dev.ageRail die a) (d.ageMonitors die a)).ageMargins die a).count F.AGE_STAT_NSAMP 1 die).get g die i s := by
    rw [Dev.ageTake_eq, (Dev.ageRecs_agree _ _).get g rfl hmask, Dev.ageDrifted]
    split
    · rfl
    · obtain h | rfl := hstat
      · exact Dev.get_put_reg _ _ hg (by decide) h
      · exact Dev.get_put_bits _ _ (by decide) (by decide) (by decide)
  have hcount {g : Fld} (hg : g.hi < 32) (h : g.reg ≠ .AGE_STAT) (e : Dev) (i s : Nat) : (e.count F.AGE_STAT_NSAMP 1 die).get g die i s = e.get g die i s :=
    Dev.get_put_reg _ _ hg (by decide) h
  refine ⟨?_, fun m hm => ⟨?_, ?_⟩, fun r hr => ⟨?_, ?_⟩⟩
  · rw [hafter (by decide) (.inr rfl) rfl, Dev.get_count _ _ _ _ _ _ (w := 16) (by decide) (by decide) rfl, hmarg.get F.AGE_STAT_NSAMP rfl rfl,
      Dev.ageRails_get _ _ _ (by decide) (by decide), Dev.ageMonitors_get _ _ _ (by decide) (by decide)]
  · rw [hafter (by decide) (.inl (by decide)) rfl, hcount (by decide) (by decide), hmarg.get F.AGE_MVAL_DELAY rfl rfl,
      Dev.ageRails_get _ _ _ (by decide) (by decide), Dev.ageMonitors_delay _ _ _ m hm]
  · rw [hafter (by decide) (.inl (by decide)) rfl, hcount (by decide) (by decide), hmarg.get F.AGE_MVAL_TJ rfl rfl,
      Dev.ageRails_get _ _ _ (by decide) (by decide), Dev.ageMonitors_tj _ _ _ m hm]
  · rw [hafter (by decide) (.inl (by decide)) rfl, hcount (by decide) (by decide), hmarg.get F.AGE_EFF_EFF rfl rfl, Dev.ageRails_eff _ _ _ r hr]
  · rw [hafter (by decide) (.inl (by decide)) rfl, hcount (by decide) (by decide), hmarg.get F.AGE_EFF_EFFMIN rfl rfl, Dev.ageRails_effMin _ _ _ r hr,
      Dev.ageMonitors_get _ _ _ (by decide) (by decide)]

/-- A sample may be taken: in P0 or P1, and with no step of the sequencer under way. -/
theorem Dev.ageAble_iff : d.ageAble die = true ↔ d.carrierUp die = true ∧ d.get F.PWR_STATE_CUR die ≤ 1 ∧ d.get F.PWR_STATE_BUSY die = 0 := by
  simp only [Dev.ageAble, Dev.pwBusy, Dev.on?, Bool.and_eq_true, decide_eq_true_eq, Bool.not_eq_true', bne_eq_false_iff_eq, and_assoc]
  rfl

/-- The time of a periodic sample. -/
def Dev.ageDue : Prop :=
  d.get F.AGE_CTL_EN die = 1 ∧ d.get F.PWR_STATE_CUR die ≤ 1 ∧ (d.pws? die).ageAt + 1000000 * d.get F.AGE_CTL_PERIOD die ≤ d.tick die

end

theorem Dev.ageSample_idle {d : Dev} {die : Nat} (a : AgeRes) (h : ¬ d.ageDue die) : d.ageSample die a = d := by
  have hen : d.get F.AGE_CTL_EN die < 2 := bitsOf_lt ..
  refine if_pos ?_
  simp only [Dev.ageDue, Dev.on?, Bool.or_eq_true, Bool.not_eq_true', bne_eq_false_iff_eq, decide_eq_true_eq] at h ⊢
  simp only [Dev.pwCur]
  omega

/-- The package with the time of a periodic sample noted. -/
def Dev.ageTimed (d : Dev) (die : Nat) : Dev := d.modPw die fun x => { x with ageAt := d.tick die }

theorem Dev.ageSample_due {d : Dev} {die : Nat} (a : AgeRes) (haon : d.aonUp die = true) (h : d.ageDue die) :
    d.ageSample die a = if (d.ageTimed die).ageAble die = true then (d.ageTimed die).ageTake die a else d.ageTimed die := by
  obtain ⟨hen, hcur, hdue⟩ := h
  refine if_neg ?_
  simp [haon, Dev.on?, hen, Dev.pwCur, Nat.not_lt.mpr hcur, Nat.not_lt.mpr hdue]

theorem Dev.ageTake_pws (d : Dev) (die : Nat) (a : AgeRes) (j : Nat) : (d.ageTake die a).pws? j = d.pws? j := by
  have h := (Dev.ageTake_kp d die a (Within.refl _) (Agree.refl _ _)).pws rfl
  rw [Dev.pws?, Dev.pws?, h]

theorem Dev.pws?_modPw (d : Dev) (die : Nat) (f : PwSt → PwSt) : (d.modPw die f).pws? die = f (d.pws? die) := by
  simp [Dev.pws?, Dev.modPw, Dev.setPw, KMap.atD_put]

/-! The lead's margin proposal (R460, R462) -/

/-- A span has passed since a time, where there has been one. -/
def dueBy (last : Option Nat) (span now : Nat) : Bool := last.elim true fun t => decide (t + span ≤ now)

theorem dueBy_match (last : Option Nat) (span now : Nat) :
    (match last with | none => true | some t => decide (t + span ≤ now)) = dueBy last span now := by
  cases last <;> rfl

theorem dueBy_iff (last : Option Nat) (span now : Nat) : dueBy last span now = true ↔ last = none ∨ ∃ t, last = some t ∧ t + span ≤ now := by
  cases last with
  | none => exact ⟨fun _ => .inl rfl, fun _ => rfl⟩
  | some t => simp [dueBy]

/-- A day has passed since the lead's last evaluation. -/
def Dev.evalDue (d : Dev) (die : Nat) : Prop :=
  (d.stew die).evalAt = none ∨ ∃ t, (d.stew die).evalAt = some t ∧ t + 86400 * 1000000 ≤ d.tick die

def Dev.evalTime (d : Dev) (die : Nat) : Bool := dueBy (d.stew die).evalAt (86400 * 1000000) (d.tick die)

/-- The package after the lead of a die has evaluated it, at its time. -/
def Dev.evalNoted (d : Dev) (die : Nat) : Dev := d.modStew die fun x => { x with evalAt := some (d.tick die) }

/-- The proposal that the lead opens for the dies it reaches. -/
def Dev.marginProp (d : Dev) (die : Nat) (ds : List Nat) : MProp :=
  ⟨(d.stew die).pid, (List.range 4).map fun j => if ds.contains j then d.proposal j ((d.stew die).nsamp.getD j 0) else zeros 32⟩

/-- The proposal opened and announced. -/
def Dev.marginOpen (d : Dev) (die : Nat) (ds : List Nat) : Dev :=
  (d.modStew die fun y => { y with
    prop := some (d.marginProp die ds)
    nsamp := (List.range 4).map fun j => if ds.contains j then d.get F.AGE_STAT_NSAMP j else y.nsamp.getD j 0
    pid := if y.pid = 2 ^ 32 - 1 then 1 else y.pid + 1 }).helEvent die 7 0 (leBytes 4 (d.marginProp die ds).pid)

/-- Dies that an exchange of the lead has reached. -/
def Dev.heard (d : Dev) (silent : Nat) : List Nat := d.liveDies.filter fun j => !hasBit silent j

/-- A rail of a die wants steps other than those in force. -/
def Dev.marginMoves (d : Dev) (ds : List Nat) : Bool := ds.any fun j => marginRails.any fun rail => d.railSteps j rail != d.get F.AGE_ROFF_STEPS j 0 rail

section
variable {d : Dev} {die : Nat}

theorem Dev.evalTime_iff : d.evalTime die = true ↔ d.evalDue die := dueBy_iff ..

/-- An evaluation: none before its time, and none that ends with the lead lost; then a proposal where a rail moves. -/
theorem Dev.marginEval_eq (d : Dev) (die : Nat) :
    let r := (d.leadSend die d.liveDies).1
    let e := (d.leadSend die d.liveDies).2
    d.marginEval die =
      if (!d.leads die || !d.evalTime die) = true then d
      else if r.lost = true then e
      else if (!(e.evalNoted die).marginMoves (e.heard r.silent)) = true then e.evalNoted die
      else (e.evalNoted die).marginOpen die (e.heard r.silent) := by
  have htime : (match (d.stew die).evalAt with | none => true | some t => decide (t + 86400 * 1000000 ≤ d.tick die)) = d.evalTime die := dueBy_match ..
  dsimp only
  rw [← htime]
  rfl

theorem Dev.marginEval_idle (h : ¬ (d.leads die = true ∧ d.evalDue die)) : d.marginEval die = d := by
  rw [← Dev.evalTime_iff, ← Bool.and_eq_true, Bool.not_eq_true, Bool.and_eq_false_iff] at h
  have hrefused : (!d.leads die || !d.evalTime die) = true := by
    obtain h | h := h <;> simp [h]
  exact (Dev.marginEval_eq d die).trans (if_pos hrefused)

theorem Dev.marginEval_due (hlead : d.leads die = true) (hdue : d.evalDue die) (hkept : (d.leadSend die d.liveDies).1.lost = false) :
    let r := (d.leadSend die d.liveDies).1
    let e := (d.leadSend die d.liveDies).2
    let ds := e.heard r.silent
    d.marginEval die = if (e.evalNoted die).marginMoves ds = true then (e.evalNoted die).marginOpen die ds else e.evalNoted die := by
  have hrun : ¬ (!d.leads die || !d.evalTime die) = true := by simp [hlead, Dev.evalTime_iff.mpr hdue]
  have hkept' : ¬ (d.leadSend die d.liveDies).1.lost = true := by simp [hkept]
  dsimp only
  rw [Dev.marginEval_eq, if_neg hrun, if_neg hkept']
  cases ((d.leadSend die d.liveDies).2.evalNoted die).marginMoves ((d.leadSend die d.liveDies).2.heard (d.leadSend die d.liveDies).1.silent) <;> rfl

/-- Opening a proposal leaves the time of the evaluation, and holds the proposal. -/
theorem Dev.marginOpen_stew (ds : List Nat) :
    ((d.marginOpen die ds).stew die).evalAt = (d.stew die).evalAt ∧ ((d.marginOpen die ds).stew die).prop = some (d.marginProp die ds) := by
  have hevent (e : Dev) (body : Bytes) : (e.helEvent die 7 0 body).stew die = e.stew die := by
    rw [Dev.stew, Dev.stew, (Dev.helEvent_kp e die 7 0 body (Within.refl _) (Agree.refl _ _)).stews rfl]
  rw [Dev.marginOpen, hevent, Dev.modStew_stew_self]
  exact ⟨rfl, rfl⟩

theorem Dev.marginEval_at (hlead : d.leads die = true) (hdue : d.evalDue die) (hkept : (d.leadSend die d.liveDies).1.lost = false) :
    ((d.marginEval die).stew die).evalAt = some (d.tick die) := by
  have htick : (d.leadSend die d.liveDies).2.tick die = d.tick die := by
    rw [Dev.tick, Dev.tick, (Dev.leadSend_kp d die d.liveDies (Within.refl _) (Agree.refl _ _)).lcnt rfl]
  have hnoted (e : Dev) : ((e.evalNoted die).stew die).evalAt = some (e.tick die) := by rw [Dev.evalNoted, Dev.modStew_stew_self]
  rw [Dev.marginEval_due hlead hdue hkept, ← htick]
  split
  · exact (Dev.marginOpen_stew _).1.trans (hnoted _)
  · exact hnoted _

/-- A lead that is alone asks nobody. -/
theorem Dev.leadSend_alone (d : Dev) (die : Nat) : d.leadSend die [die] = (⟨0, false⟩, d) := by simp [Dev.leadSend]

/-- A lead that is alone opens a proposal for its own die when a rail of it wants other steps. -/
theorem Dev.marginEval_alone (hlead : d.leads die = true) (hdue : d.evalDue die) (halone : d.liveDies = [die])
    (hmoves : ∃ rail ∈ marginRails, d.railSteps die rail ≠ d.get F.AGE_ROFF_STEPS die 0 rail) :
    ((d.marginEval die).stew die).prop = some ((d.evalNoted die).marginProp die [die]) := by
  have hsend : d.leadSend die d.liveDies = (⟨0, false⟩, d) := by rw [halone, Dev.leadSend_alone]
  have hheard : d.heard 0 = [die] := by simp [Dev.heard, halone, hasBit]
  have hmoves' : (d.evalNoted die).marginMoves [die] = true := by
    obtain ⟨rail, hrail, hne⟩ := hmoves
    have hrails : (marginRails.any fun rail => d.railSteps die rail != d.get F.AGE_ROFF_STEPS die 0 rail) = true :=
      List.any_eq_true.mpr ⟨rail, hrail, by simpa using hne⟩
    exact (Bool.or_false _).trans hrails
  rw [Dev.marginEval_due hlead hdue (by rw [hsend])]
  simp only [hsend, hheard, hmoves', if_true]
  exact (Dev.marginOpen_stew _).2

theorem Dev.marginProp_own (hdie : die < 4) :
    ((d.evalNoted die).marginProp die [die]).pid = (d.stew die).pid ∧
      ((d.evalNoted die).marginProp die [die]).dies.getD die [] = d.proposal die ((d.stew die).nsamp.getD die 0) := by
  have hstew : ((d.evalNoted die).stew die).pid = (d.stew die).pid ∧ ((d.evalNoted die).stew die).nsamp = (d.stew die).nsamp := by
    rw [Dev.evalNoted, Dev.modStew_stew_self]
    exact ⟨rfl, rfl⟩
  obtain ⟨hpid, hnsamp⟩ := hstew
  refine ⟨hpid, ?_⟩
  simp only [Dev.marginProp, hnsamp]
  rw [List.getD_eq_getElem?_getD, List.getElem?_map, List.getElem?_range hdie]
  simp only [Option.map_some, Option.getD_some, List.contains_eq_mem, List.mem_singleton, decide_true, if_true]
  rfl

end

/-! The telemetry target (R474) -/

section
variable (d : Dev) {die : Nat}

theorem Dev.i3cHears_iff (haon : d.aonUp die = true) (addr : Nat) : d.i3cHears die addr = true ↔ (d.i3cAt die).2.getD (0x58 + die) = addr := by
  simp [Dev.i3cHears, haon]

theorem Dev.i3cAt_put (x : Bytes × Option Nat) : ({ d with i3c := d.i3c.put die x }).i3cAt die = x := by simp [Dev.i3cAt, KMap.atD_put]

/-- The dynamic address after a CCC. -/
def i3cAddr (code addr : Nat) (was : Option Nat) : Option Nat :=
  if code = 0x06 then none
  else if (code = 0x07 ∨ code = 0x87) ∧ was = none ∨ code = 0x88 ∧ was ≠ none then some addr
  else was

theorem Dev.i3cCcc_at (haon : d.aonUp die = true) (code addr : Nat) :
    (d.i3cCcc die code addr).i3cAt die = ((d.i3cAt die).1, i3cAddr code addr (d.i3cAt die).2) := by
  simp only [Dev.i3cCcc, haon, Bool.not_true, Bool.false_eq_true, if_false, i3cAddr]
  split
  · exact Dev.i3cAt_put d _
  · cases hwas : (d.i3cAt die).2 with
    | none => exact Dev.i3cAt_put d _
    | some _ => exact Prod.ext rfl hwas
  · cases hwas : (d.i3cAt die).2 with
    | none => exact Dev.i3cAt_put d _
    | some _ => exact Prod.ext rfl hwas
  · cases hwas : (d.i3cAt die).2 with
    | none => exact Prod.ext rfl hwas
    | some _ => exact Dev.i3cAt_put d _
  next h6 h7 h87 h88 =>
    rw [if_neg h6, if_neg]
    · rfl
    · rintro (⟨h | h, -⟩ | ⟨h, -⟩)
      exacts [h7 h, h87 h, h88 h]

theorem Dev.tickUp_counts (haon : d.aonUp die = true) (hdie : die < d.lcnt.length) :
    (d.tickUp die).tick die = (d.tick die + 1) % 2 ^ 64 ∧ ∀ j, j ≠ die → (d.tickUp die).tick j = d.tick j := by
  have hup : d.tickUp die = { d with lcnt := d.lcnt.set die ((d.tick die + 1) % 2 ^ 64) } := if_pos haon
  rw [hup]
  refine ⟨?_, fun j hj => ?_⟩
  · rw [Dev.tick, List.getD_eq_getElem?_getD, List.getElem?_set_self hdie, Option.getD_some]
  · simp only [Dev.tick, List.getD_eq_getElem?_getD, List.getElem?_set_ne hj.symm]

end

/-- Settles O34: a sample by what it stores; an evaluation before its time, at it, and of a lead alone; the target's commands; the counter. -/
theorem ageingAndTelemetry : Obligations.AgeingAndTelemetry := by
  refine fun die => ⟨fun a => ⟨Effect.ageSampleNow_of _ _ fun d _ _ => ⟨fun h => ?_, fun h => ?_⟩, Effect.ageSample_of _ _ fun d _ hup => ⟨fun hdue => ?_, fun hdue => ?_⟩⟩,
    Effect.marginEvaluate_of _ fun d hwf _ => ⟨fun h => ?_, fun hlead hdue hkept => ?_, fun hlead hdue halone hmoves => ?_⟩,
    Effect.i3cBlockRefresh_of _ fun d _ hup => ?_, fun addr len => Effect.i3cPrivateRead_of _ _ _ fun d _ hup => ?_,
    fun addr => Effect.i3cPrivateWrite_of _ _ fun d _ hup => ?_, fun code addr => Effect.i3cCcc_of _ _ _ fun d _ hup => ?_,
    Effect.localCounterTick_of _ fun d _ hup hdie => ?_, Effect.chunkSendComplete_of _ fun d _ hup => ?_, Effect.eventSendComplete_of _ fun d _ hup => ?_⟩
  · rw [Dev.ageNow, if_pos ((d.ageAble_iff die).mpr h)]
    exact d.ageTake_stores die a
  · exact if_neg (mt (d.ageAble_iff die).mp h)
  · obtain ⟨-, haon⟩ := Place.ofAon_up hup
    rw [Dev.ageSample_due a haon hdue]
    constructor
    · split
      · rw [Dev.ageTake_pws, Dev.ageTimed, Dev.pws?_modPw]
      · rw [Dev.ageTimed, Dev.pws?_modPw]
    · intro hable
      have hable' : (d.ageTimed die).ageAble die = true := (Dev.ageAble_iff _ die).mpr hable
      rw [if_pos hable']
      exact (d.ageTimed die).ageTake_stores die a
  · exact Dev.ageSample_idle a hdue
  · exact Dev.marginEval_idle h
  · exact Dev.marginEval_at hlead hdue hkept
  · have hdie : die < 4 := by simpa [Instr.wf] using hwf
    exact ⟨_, Dev.marginEval_alone hlead hdue halone hmoves, Dev.marginProp_own hdie⟩
  · obtain ⟨-, haon⟩ := Place.ofAon_up hup
    rw [Dev.i3cRefresh, if_pos haon, Dev.i3cAt_put]
  · obtain ⟨-, haon⟩ := Place.ofAon_up hup
    rw [Dev.i3cRead, if_congr (d.i3cHears_iff haon addr) rfl rfl]
    split
    · exact ⟨(KMap.at?_put ..).trans (if_pos rfl), rfl⟩
    · rfl
  · obtain ⟨-, haon⟩ := Place.ofAon_up hup
    rw [Dev.i3cWrite, if_congr (d.i3cHears_iff haon addr) rfl rfl]
    split
    · exact ⟨(KMap.at?_put ..).trans (if_pos rfl), rfl⟩
    · rfl
  · rw [d.i3cCcc_at (Place.ofAon_up hup).2]
    exact ⟨rfl, rfl⟩
  · exact d.tickUp_counts (Place.ofAon_up hup).2 hdie
  · rw [Dev.chunkSent, if_pos (Place.ofCarrier_up hup)]
    exact Dev.get_put_self _ _ _ _ _ _ (by decide) (by decide) (by decide)
  · rw [Dev.eventDone, if_pos (Place.ofCarrier_up hup)]
    exact Dev.get_put_self _ _ _ _ _ _ (by decide) (by decide) (by decide)

end Sys2Proof.Machine
end
